-- ==== Sys2Proof/Word.lean ====
section
/-! DEFINITION. The plain words of the model: bytes, the 64-bit register word, and finite tables. -/
namespace Sys2Proof

/-- One byte. -/
abbrev Byte := BitVec 8

/-- One register of the window (R13): 64 bits. -/
abbrev Word := BitVec 64

/-- One 64-byte line of memory, byte i in bits 8i+7..8i (R5, R388). -/
abbrev Line := BitVec 512

/-- A finite table: pairs of a number and a value, keys strictly rising. -/
abbrev Tbl (α : Type) := List (Nat × α)

end Sys2Proof
end

