-- ==== Sys2Proof/Syntax.lean ====
section
/-! DEFINITION. The commands of the block: one constructor of `Instr` per row of spec/opcode_table.json, with the
row's operands, and the plain data the operands are made of. -/
namespace Sys2Proof

/-- Who sent a message on the links: the device, its die, and the grove id and generation it carries (R72). -/
structure Origin where
  device : Nat
  die : Nat
  grove : Nat
  gen : Nat
  deriving DecidableEq, Repr

/-- The units that issue requests to the channel controllers (ch. 13 and R404). -/
inductive MemUnit where
  | tileDma | gather | scatter | sampler | embedding | update | collective | kiln
  | hearthCore | scheduler | ringFetch | frontEnd | poolService
  deriving DecidableEq, Repr

/-- Bits that arrive flipped in the burst a read returns: lane 0 to 18 and beat 0 to 31 of each (R387, R388). The
physical world supplies them; the empty list is a clean burst. -/
abbrev BurstErr := List (Nat × Nat)

/-- Every flip lies on one of the 19 lanes and 32 beats of the burst, and is named once. -/
def BurstErr.wf (e : BurstErr) : Bool := e.eraseDups == e && e.all fun p => p.1 < 19 && p.2 < 32

/-- The identifiers of a sender lie in their ranges (R10). -/
def Origin.wf (o : Origin) : Bool := o.device < 2 ^ 15 && o.die < 2 && o.grove < 16 && o.gen < 2 ^ 16

/-- The operation a STALE_GROVE negative acknowledgement ends (R75): which unit sent it and how that unit names it. -/
inductive StaleOp where
  | none
  | contribution (die request : Nat)
  | row (die request : Nat)
  | adjacency (die request : Nat)
  | piece (die device request : Nat)
  | directory (die request : Nat)
  | drain (die request : Nat)
  | knot
  deriving DecidableEq, Repr

/-- A STALE_GROVE negative acknowledgement (R74): the grove id, that grove's generation at the receiver, the unbound
flag, the die it reaches and the operation it ends. -/
structure StaleNak where
  die : Nat
  grove : Nat
  generation : Nat
  unbound : Bool
  op : StaleOp
  deriving DecidableEq, Repr

/-- The RoCEv2 operations of R114. -/
inductive RdmaOp where
  | send | sendImm | write | writeImm | read | atomic
  deriving DecidableEq, Repr

/-- An incoming RDMA request: the operation, the remote key, the grove-virtual address, the length and, for a write
or a send, the data. -/
structure RdmaReq where
  op : RdmaOp
  rkey : Nat
  va : Nat
  length : Nat
  data : List Byte
  immediate : Nat
  deriving DecidableEq, Repr

/-- What a queue pair on which the G2 is requester receives (R114). `tag` names the request it answers. -/
inductive RdmaResp where
  | ack (tag : Nat)
  | nak (tag : Nat)
  | readData (tag : Nat) (data : List Byte)
  | cnp
  deriving DecidableEq, Repr

/-- What a TLS record of an open session asks for (R119 to R121). -/
inductive TlsMsg where
  | keepalive
  | attach (grove : Nat)
  | assign (grove certificate : Nat)
  | weight (grove w : Nat)
  | openQp (qp : Nat)
  | registerRegion (rkey va length : Nat) (read write : Bool)
  deriving DecidableEq, Repr

/-- Cycles a tile's scheduler has counted up to a dispatch (R147): the unit idle with no ready task, some task waiting
on a knot, some semaphore request not granted, and unit cycles held for a full hold buffer. -/
structure StallCycles where
  starve : Nat
  wait : Nat
  credit : Nat
  hold : Nat
  deriving DecidableEq, Repr

/-- What a unit reports with the end of a task: the tile-island cycles it ran, held its unit, streamed rows, waited for
its port, and saw another access wait (R147, R318, R342); the drained elements of the log array that came out wrong
(pass, row, column, the value drained: a physical fault, R303); the scratchpad offsets of corrected words and of an
uncorrectable one (R289); and whether the scheduler's control state has an uncorrectable error (R539). -/
structure UnitReport where
  cycles : Nat
  holdCycles : Nat
  streamCycles : Nat
  portCycles : Nat
  conflictCycles : Nat
  wrong : List (Nat × Nat × Nat × Nat)
  corrected : List Nat
  uncorrectable : Option Nat
  ctrlUe : Bool
  deriving DecidableEq, Repr

/-- A read or write that reaches a channel controller (R395): the unit, the die it stands on, the sender's grove and
generation, the local offset, the bytes of a write (none for a read), the length of a read, and what arrives flipped in
the bursts it reads. `core` is set for a hearth-region access of the runtime, which carries grove 0 and generation 0. -/
structure MemReq where
  unit : MemUnit
  origin : Origin
  offset : Nat
  length : Nat
  data : Option (List Byte)
  err : BurstErr
  deriving DecidableEq, Repr

/-- An access lies within one line and has 1 to 64 bytes. -/
def MemReq.wf (r : MemReq) : Bool :=
  r.origin.wf && r.err.wf && r.offset < 2 ^ 41 && 1 ≤ r.length && r.offset % 64 + r.length ≤ 64 &&
    (match r.data with
     | none => true
     | some d => d.length == r.length)

/-- The operations of the near-memory adders (R398). -/
inductive AccOp where
  | f32 | i32 | b8 | u32
  deriving DecidableEq, Repr

/-- An accumulate that reaches the adders: the operation, the aligned local offset, the operand's elements (FP32 bits,
32-bit words, or B8 codes) and the element mask. -/
structure AccReq where
  unit : MemUnit
  origin : Origin
  op : AccOp
  offset : Nat
  mask : Nat
  values : List Nat
  err : BurstErr
  deriving DecidableEq, Repr

/-- The elements fit the operation: 16 words of 32 bits, 64 codes of 8 bits, or one word of 32 bits. -/
def AccReq.wf (a : AccReq) : Bool :=
  a.origin.wf && a.err.wf && a.offset < 2 ^ 41 && a.mask < 2 ^ 16 &&
    (match a.op with
     | .f32 | .i32 => a.offset % 64 == 0 && a.values.length == 16 && a.values.all (· < 2 ^ 32)
     | .b8 => a.offset % 64 == 0 && a.values.length == 64 && a.values.all (· < 256)
     | .u32 => a.offset % 8 == 0 && a.values.length == 1 && a.values.all (· < 2 ^ 32))

/-- Memory PHY training ends: of every channel in kindling, with the lanes of each physical channel that failed (R651,
R406), or of one mode 1 channel after the spare lane is engaged (R406). -/
inductive PhyTraining where
  | kindling (deadLanes : List (Nat × Nat))
  | retrain (channel : Nat)
  deriving DecidableEq, Repr

/-- The channels and lanes named exist. -/
def PhyTraining.wf : PhyTraining → Bool
  | .kindling d => d.all fun p => p.1 < 480 && p.2 < 19
  | .retrain c => c < 480

/-- What the FEC decoder of a lane reports with a flit (R429): symbols corrected, and whether a codeword the flit
overlaps was uncorrectable. -/
structure FecResult where
  corrected : Nat
  uncorrectable : Nat
  deriving DecidableEq, Repr

/-- What a partner sends in the identity exchange (R447). `kind` is 1 trunk, 2 branch, 3 branch switch (R456);
`size` is the number of ports of a G2 branch port's logical port. -/
structure PortIdentity where
  device : Nat
  kind : Nat
  port : Nat
  size : Nat
  torus : Word
  /-- the receive credits the partner grants, by 2v + c (R434, R445) -/
  credits : List Nat
  deriving DecidableEq, Repr

/-- The identity's fields lie in their ranges. -/
def PortIdentity.wf (i : PortIdentity) : Bool := i.device < 2 ^ 15 && 1 ≤ i.kind && i.kind ≤ 3 && i.port < 16

/-- An adder contribution message (R471): kind 2 carries B8 blocks, kind 3 u32 merge values. `crc` is the word the
message carries; `data` is what follows the header. -/
structure Contribution where
  step : Nat
  attempt : Nat
  reduction : Nat
  kind : Nat
  blocks : Nat
  segment : Nat
  request : Nat
  count : Nat
  target : Nat
  crc : Nat
  data : List Byte
  deriving DecidableEq, Repr

/-- The fields of a contribution lie in their ranges. -/
def Contribution.wf (c : Contribution) : Bool :=
  c.step < 2 ^ 48 && c.attempt < 256 && c.reduction < 4096 && (c.kind == 2 || c.kind == 3) &&
    c.segment < 2 ^ 24 && c.request < 2 ^ 32 && c.count < 2 ^ 16 && c.target < 2 ^ 48 && c.crc < 2 ^ 32 &&
    (if c.kind == 2 then 1 ≤ c.blocks && c.blocks ≤ 24 && c.data.length == 64 * c.blocks
     else 1 ≤ c.blocks && c.blocks ≤ 48 && c.data.length == 32 * c.blocks)

/-- A parameter broadcast message (R480). -/
structure Piece where
  step : Nat
  reduction : Nat
  segment : Nat
  piece : Nat
  request : Nat
  crc : Nat
  data : List Byte
  deriving DecidableEq, Repr

/-- The fields of a broadcast piece lie in their ranges. -/
def Piece.wf (p : Piece) : Bool :=
  p.step < 2 ^ 48 && p.reduction < 4096 && p.segment < 2 ^ 24 && p.piece < 4 && p.request < 2 ^ 32 &&
    p.crc < 2 ^ 32 && 1 ≤ p.data.length && p.data.length ≤ 1536

/-- A commit round report (R483): kind 0 is a clean report, 1 a void acknowledgement. -/
structure Report where
  step : Nat
  attempt : Nat
  kind : Nat
  ready : Bool
  mismatch : Bool
  members : Nat
  stageCount : Nat
  stageDigest : Nat
  deriving DecidableEq, Repr

/-- The fields of a report lie in their ranges. -/
def Report.wf (r : Report) : Bool :=
  r.step < 2 ^ 48 && r.attempt < 256 && r.kind < 2 && r.members < 2 ^ 16 && r.stageCount < 2 ^ 16 &&
    r.stageDigest < 2 ^ 64

/-- A release of the commit tree (R485): result 0 commits, 1 replays; a commit carries stage_apply and the 256
exponents. -/
structure Release where
  step : Nat
  attempt : Nat
  commit : Bool
  stageApply : Bool
  exponents : List Byte
  deriving DecidableEq, Repr

/-- The fields of a release lie in their ranges; a commit carries 256 exponents. -/
def Release.wf (r : Release) : Bool :=
  r.step < 2 ^ 48 && r.attempt < 256 && (if r.commit then r.exponents.length == 256 else r.exponents.length == 0)

/-- A VOID message (R488). -/
structure VoidMsg where
  step : Nat
  attempt : Nat
  origin : Nat
  reason : Nat
  deriving DecidableEq, Repr

/-- The fields of a VOID lie in their ranges. -/
def VoidMsg.wf (v : VoidMsg) : Bool :=
  v.step < 2 ^ 48 && v.attempt < 256 && v.origin < 2 ^ 15 && 1 ≤ v.reason && v.reason ≤ 3

/-- A Kiln drain message (R573): its request, the local offset it is for, and its bytes. -/
structure KilnWrite where
  request : Nat
  offset : Nat
  data : List Byte
  deriving DecidableEq, Repr

/-- The fields of a drain message lie in their ranges; a message is at most 8 flits (R432). -/
def KilnWrite.wf (w : KilnWrite) : Bool :=
  w.request < 2 ^ 32 && w.offset < 2 ^ 41 && 1 ≤ w.data.length && w.data.length ≤ 1656

/-- The result of a field test (R703): passed, or the first failing sub-test and its item. -/
inductive FtResult where
  | pass
  | fail (sub item : Nat)
  deriving DecidableEq, Repr

/-- The instructions of the test access port (R686). -/
inductive TapInstr where
  | bypass | idcode | samplePreload | extest | extestPulse | extestTrain | clamp | highz
  deriving DecidableEq, Repr

/-- The clock islands of R586, with their instance. -/
inductive Island where
  | tile (t : Nat)
  | bough (die : Nat)
  | knot (die : Nat)
  | memory (die : Nat)
  | link (port : Nat)
  | collective (die : Nat)
  | hearthLink (link : Nat)
  | timer (die : Nat)
  | hearth
  deriving DecidableEq, Repr

/-- The instance exists. -/
def Island.wf : Island → Bool
  | .tile t => t < 128
  | .bough d | .knot d | .memory d | .collective d | .timer d => d < 2
  | .link p => p < 6 || (16 ≤ p && p < 32)
  | .hearthLink k => k < 3
  | .hearth => true

/-- An ADJ_RANGE request (R208): the vertex's local index, the shard's local offset, the hop's filter, the mode and
the requester's number. -/
structure AdjRange where
  request : Nat
  vertex : Nat
  shard : Nat
  types : Nat
  lo : Nat
  hi : Nat
  mode : Nat
  deriving DecidableEq, Repr

/-- The fields of an ADJ_RANGE lie in their ranges. -/
def AdjRange.wf (r : AdjRange) : Bool :=
  r.request < 2 ^ 32 && r.vertex < 2 ^ 48 && r.shard < 2 ^ 41 && r.types < 2 ^ 64 && r.lo < 2 ^ 32 && r.hi < 2 ^ 32 &&
    r.mode < 4

/-- An ADJ_PICK request (R208): up to 32 list positions or weight targets within the ranges, each a first and last
edge position of the vertex's list. -/
structure AdjPick where
  request : Nat
  vertex : Nat
  shard : Nat
  ranges : List (Nat × Nat)
  weighted : Bool
  targets : List Nat
  deriving DecidableEq, Repr

/-- The fields of an ADJ_PICK lie in their ranges. -/
def AdjPick.wf (r : AdjPick) : Bool :=
  r.request < 2 ^ 32 && r.vertex < 2 ^ 48 && r.shard < 2 ^ 41 && 1 ≤ r.targets.length && r.targets.length ≤ 32 &&
    r.ranges.all (fun p => p.1 < 2 ^ 32 && p.2 < 2 ^ 32) && r.targets.all (· < 2 ^ 64)

/-- What the memory-pool service of another device answers a lane (R208): the ranges with n and the total weight, the
edges picked with their positions, or a fault code of R216. -/
inductive AdjResp where
  | range (degree firstEdge : Nat) (ranges : List (Nat × Nat)) (n weight : Nat) (weights : List Nat)
  | pick (edges : List (Nat × Nat))
  | fault (code : Nat)
  deriving DecidableEq, Repr

/-- A ROW_READ (R240, R259, R260): table, pinned version, row, element range, the reader's step and the request number. -/
structure RowRead where
  request : Nat
  table : Nat
  version : Nat
  row : Nat
  first : Nat
  count : Nat
  step : Nat
  deriving DecidableEq, Repr

/-- The fields of a ROW_READ lie in their ranges. -/
def RowRead.wf (r : RowRead) : Bool :=
  r.request < 2 ^ 32 && r.table < 2 ^ 12 && r.version < 2 ^ 32 && r.row < 2 ^ 48 && 1 ≤ r.count &&
    r.first + r.count ≤ 4096 && r.step < 2 ^ 48

/-- A ROW_ACCUMULATE (R236, R240): one segment of a row, its element mask and 64 FP32 codes. -/
structure RowAcc where
  request : Nat
  step : Nat
  table : Nat
  version : Nat
  row : Nat
  segment : Nat
  mask : Nat
  values : List Nat
  deriving DecidableEq, Repr

/-- The fields of a ROW_ACCUMULATE lie in their ranges. -/
def RowAcc.wf (a : RowAcc) : Bool :=
  a.request < 2 ^ 32 && a.step < 2 ^ 48 && a.table < 2 ^ 12 && a.version < 2 ^ 32 && a.row < 2 ^ 48 &&
    a.segment < 64 && a.mask < 2 ^ 64 && a.values.length == 64 && a.values.all (· < 2 ^ 32)

/-- A row data message (R241). -/
structure RowData where
  request : Nat
  version : Nat
  offset : Nat
  last : Bool
  data : List Byte
  deriving DecidableEq, Repr

/-- The fields of a row data message lie in their ranges. -/
def RowData.wf (d : RowData) : Bool :=
  d.request < 2 ^ 32 && d.version < 2 ^ 32 && d.offset < 2 ^ 14 && 1 ≤ d.data.length && d.data.length ≤ 1624 &&
    (d.last || d.data.length % 8 == 0)

/-- A row sent to another device (R268, R269, R271): a regraft copy or mirror with its state, a scion copy or refresh
without. -/
structure RowCopy where
  request : Nat
  table : Nat
  version : Nat
  row : Nat
  slot : Nat
  data : List Byte
  state : List Byte
  deriving DecidableEq, Repr

/-- The fields of a copy lie in their ranges. -/
def RowCopy.wf (c : RowCopy) : Bool :=
  c.request < 2 ^ 32 && c.table < 2 ^ 12 && c.version < 2 ^ 32 && c.row < 2 ^ 48 && c.slot < 2 ^ 24 &&
    c.data.length ≤ 2 ^ 16 && c.state.length ≤ 2 ^ 16

/-- The unit whose request a negative response refuses (R432): a twig lane, a gather's ROW_READ, a scatter's
ROW_ACCUMULATE. -/
inductive NegOp where
  | adjacency | row | accumulate
  deriving DecidableEq, Repr

/-- The commands the block takes, in the order of the opcode table.
Assumptions: 4 (DESIGN CHOICE), 86 (DESIGN CHOICE). -/
inductive Instr where
  /-- REGISTER_WRITE (R14) -/
  | registerWrite (off width : Nat) (value : Word)
  /-- GLB_DEVNUM_WRITE (R42) -/
  | glbDevnumWrite (value : Word)
  /-- BATCH_GO (R64) -/
  | batchGo (value : Word)
  /-- BATCH_QUIESCE_DONE (R64) -/
  | batchQuiesceDone
  /-- QUIESCE_TIMEOUT (R62) -/
  | quiesceTimeout (image : Nat)
  /-- RESOURCE_CLEAR_DONE (R65) -/
  | resourceClearDone
  /-- SCRUB_ADVANCE (R71) -/
  | scrubAdvance (channel : Nat)
  /-- STALE_GROVE_NAK (R75) -/
  | staleGroveNak (nak : StaleNak)
  /-- BUDGET_PERIOD_START (R81) -/
  | budgetPeriodStart (die grove : Nat)
  /-- GRV_BUDGET_WRITE (R82) -/
  | grvBudgetWrite (die grove activity : Nat) (value : Word)
  /-- BINDING_DIGEST_CHECK (R84) -/
  | bindingDigestCheck (die : Nat) (corrupted : Bool)
  /-- HLK_FLIT_RECEIVE (R90) -/
  | hlkFlitReceive (link : Nat) (flit : List Byte)
  /-- HLK_NAK_RECEIVE (R90) -/
  | hlkNakReceive (link ackSeq : Nat)
  /-- HLK_REPLAY_TIMEOUT (R90) -/
  | hlkReplayTimeout (link : Nat)
  /-- HLK_RETRAIN_DONE (R91) -/
  | hlkRetrainDone (link : Nat) (modules : Nat) (lanes : Nat)
  /-- QUEUE_DOORBELL (R103) -/
  | queueDoorbell (queue : Nat) (value : Word)
  /-- COMMAND_FETCH (R102) -/
  | commandFetch (queue : Nat)
  /-- QUEUE_ENABLE (R108) -/
  | queueEnable (queue : Nat) (value : Word)
  /-- QUEUE_ENABLE_TAKE_EFFECT (R105) -/
  | queueEnableTakeEffect (queue : Nat)
  /-- QUEUE_DISABLE (R105) -/
  | queueDisable (queue : Nat) (value : Word)
  /-- TLS_CONNECT (R118) -/
  | tlsConnect (operator : Bool) (certificate : Nat)
  /-- SESSION_IDLE_TIMEOUT (R120) -/
  | sessionIdleTimeout (session : Nat)
  /-- RDMA_REQUEST (R115) -/
  | rdmaRequest (qp : Nat) (req : RdmaReq)
  /-- INJECT (R125) -/
  | inject (queue index : Nat)
  /-- INJECT_PLACE (R127) -/
  | injectPlace (queue index : Nat)
  /-- TASK_DISPATCH (R130) -/
  | taskDispatch (tile unit : Nat) (cycles : StallCycles)
  /-- TASK_COMPLETE (R131) -/
  | taskComplete (tile slot : Nat) (r : UnitReport)
  /-- KNT_SIGNAL (R138) -/
  | kntSignal (knot : Nat) (value : Word)
  /-- KNT_INIT (R139) -/
  | kntInit (knot : Nat) (value : Word)
  /-- KNOT_SIGNAL_MESSAGE (R137) -/
  | knotSignalMessage (o : Origin) (knot amount : Nat)
  /-- SCH_CLEAR_HIGH_WATER (R146) -/
  | schClearHighWater (tile : Nat)
  /-- SCH_CLEAR_COUNTERS (R146) -/
  | schClearCounters (tile : Nat)
  /-- STREAM_SET (R213) -/
  | streamSet (queue index : Nat)
  /-- PROG_LOAD (R214) -/
  | progLoad (queue index : Nat)
  /-- PROG_UNLOAD (R213) -/
  | progUnload (queue index : Nat)
  /-- SMP_ADJ_READ_RETURN (R202) -/
  | smpAdjReadReturn (lane parent cycles : Nat)
  /-- ADJ_RANGE (R208) -/
  | adjRange (die : Nat) (o : Origin) (r : AdjRange)
  /-- ADJ_PICK (R208) -/
  | adjPick (die : Nat) (o : Origin) (r : AdjPick)
  /-- ADJ_RESPONSE_RECEIVE (R208) -/
  | adjResponseReceive (die request : Nat) (r : AdjResp)
  /-- SMP_REMOTE_TIMEOUT (R209) -/
  | smpRemoteTimeout (die request : Nat)
  /-- GATHER (R226) -/
  | gather (queue index : Nat)
  /-- SCATTER (R231) -/
  | scatter (queue index : Nat)
  /-- SCATTER_CLOSE (R235) -/
  | scatterClose (queue index : Nat)
  /-- GTH_COMMAND_START (R222) -/
  | gthCommandStart (queue index : Nat) (spxUe : Option Nat)
  /-- ROW_READ (R240) -/
  | rowRead (die : Nat) (o : Origin) (r : RowRead)
  /-- ROW_READ_RELEASE (R260) -/
  | rowReadRelease (die : Nat) (o : Origin) (request : Nat)
  /-- ROW_ACCUMULATE (R242) -/
  | rowAccumulate (die : Nat) (o : Origin) (a : RowAcc)
  /-- ROW_DATA_RECEIVE (R241) -/
  | rowDataReceive (die : Nat) (d : RowData)
  /-- ACCUMULATE_ACK_RECEIVE (R235) -/
  | accumulateAckReceive (die request status : Nat)
  /-- NEGATIVE_RESPONSE_RECEIVE (R432) -/
  | negativeResponseReceive (die : Nat) (op : NegOp) (request code : Nat)
  /-- GTH_REMOTE_TIMEOUT (R242) -/
  | gthRemoteTimeout (die : Nat) (accumulate : Bool) (request : Nat)
  /-- GTH_MERGE_QUOTA_WRITE (R239) -/
  | gthMergeQuotaWrite (die grove : Nat) (value : Word)
  /-- TABLE_LOAD (R257) -/
  | tableLoad (queue index : Nat)
  /-- TABLE_DROP (R276) -/
  | tableDrop (queue index : Nat)
  /-- REGRAFT_BEGIN (R271) -/
  | regraftBegin (queue index : Nat)
  /-- SCION_BEGIN (R268) -/
  | scionBegin (queue index : Nat)
  /-- DIR_STAGE (R266) -/
  | dirStage (queue index : Nat)
  /-- DIR_UNSTAGE (R266) -/
  | dirUnstage (queue index : Nat)
  /-- PEND_ABANDON (R274) -/
  | pendAbandon (queue index : Nat)
  /-- HEAT_READ (R267) -/
  | heatRead (queue index : Nat)
  /-- REGRAFT_COPY_RECEIVE (R271) -/
  | regraftCopyReceive (die : Nat) (o : Origin) (c : RowCopy)
  /-- REGRAFT_COPY_ACK (R271) -/
  | regraftCopyAck (die request : Nat)
  /-- REGRAFT_COPY_TIMEOUT (R271) -/
  | regraftCopyTimeout (die request : Nat)
  /-- FLIP_DONE_RECEIVE (R271) -/
  | flipDoneReceive (die : Nat) (o : Origin) (table row step : Nat)
  /-- SCION_COPY_RECEIVE (R268) -/
  | scionCopyReceive (die : Nat) (o : Origin) (c : RowCopy)
  /-- SCION_COPY_ACK (R268) -/
  | scionCopyAck (die request : Nat)
  /-- SCION_REFRESH_RECEIVE (R269) -/
  | scionRefreshReceive (die : Nat) (o : Origin) (c : RowCopy)
  /-- REFRESH_DONE_RECEIVE (R269) -/
  | refreshDoneReceive (o : Origin) (step : Nat)
  /-- EMB_ENTRY_QUOTA_WRITE (R279) -/
  | embEntryQuotaWrite (grove : Nat) (value : Word)
  /-- ABFT_CHECK_DONE (R306) -/
  | abftCheckDone (tile : Nat)
  /-- ABFT_MISMATCH_REPORT (R535) -/
  | abftMismatchReport (tile : Nat)
  /-- TIL_ABFT_TOL_WRITE (R16) -/
  | tilAbftTolWrite (tile : Nat) (value : Word)
  /-- TIL_ABFT_ABS_WRITE (R315) -/
  | tilAbftAbsWrite (tile : Nat) (value : Word)
  /-- UPD_ROWBUF_WRITE (R514) -/
  | updRowbufWrite (die grove : Nat) (value : Word)
  /-- MEM_REQUEST (R395) -/
  | memRequest (r : MemReq) (ctrlUe : Bool)
  /-- NEAR_MEMORY_ACCUMULATE (R398) -/
  | nearMemoryAccumulate (a : AccReq)
  /-- WCB_AGE_EVICT (R394) -/
  | wcbAgeEvict (channel : Nat) (err : BurstErr)
  /-- PATROL_SCRUB_READ (R405) -/
  | patrolScrubRead (channel : Nat) (err : BurstErr)
  /-- MEM_MR_READ (R414) -/
  | memMrRead (die : Nat) (value : Word)
  /-- MEM_MR_WRITE (R414) -/
  | memMrWrite (die : Nat) (value : Word)
  /-- MEM_SOFT_REPAIR (R407) -/
  | memSoftRepair (die : Nat) (value : Word)
  /-- MEM_HARD_REPAIR (R409) -/
  | memHardRepair (die : Nat) (value : Word)
  /-- MEM_QUERY_REPAIR (R414) -/
  | memQueryRepair (die : Nat) (value : Word)
  /-- SOFT_REPAIR_RESULT (R407) -/
  | softRepairResult (channel : Nat) (success : Bool) (reads : List (Nat × BurstErr))
  /-- HARD_REPAIR_DONE (R409) -/
  | hardRepairDone (channel : Nat) (success : Bool)
  /-- MAPOUT_GO (R410) -/
  | mapoutGo (die : Nat) (value : Word)
  /-- MAPOUT_COPY_DONE (R410) -/
  | mapoutCopyDone (die : Nat) (reads : List (Nat × BurstErr))
  /-- MEM_CHMAP_SET_WRITE (R412) -/
  | memChmapSetWrite (die : Nat) (value : Word)
  /-- STACK_TEMP_SAMPLE (R413) -/
  | stackTempSample (stack : Nat) (reading : Option Int)
  /-- LNK_FLIT_RECEIVE (R435) -/
  | lnkFlitReceive (port lane : Nat) (fec : FecResult) (flit : List Byte)
  /-- LNK_NAK_RECEIVE (R435) -/
  | lnkNakReceive (port ackSeq : Nat)
  /-- LNK_REPLAY_TIMEOUT (R435) -/
  | lnkReplayTimeout (port : Nat)
  /-- LNK_IDLE_SEND (R435) -/
  | lnkIdleSend (port : Nat)
  /-- PORT_ENABLE (R445) -/
  | portEnable (port : Nat) (value : Word)
  /-- PORT_DISABLE (R445) -/
  | portDisable (port : Nat) (value : Word)
  /-- PORT_RETRAIN (R449) -/
  | portRetrain (port : Nat) (value : Word)
  /-- TRAIN_SIGNAL_DETECT (R446) -/
  | trainSignalDetect (port lanes : Nat)
  /-- TRAIN_EQUALISE_DONE (R446) -/
  | trainEqualiseDone (port lanes : Nat)
  /-- TRAIN_ALIGN_DONE (R446) -/
  | trainAlignDone (port lanes : Nat)
  /-- IDENTITY_EXCHANGE (R447) -/
  | identityExchange (port : Nat) (id : PortIdentity)
  /-- RETRAIN_DONE (R449) -/
  | retrainDone (port lanes : Nat) (id : PortIdentity)
  /-- RETRAIN_BOUND_EXPIRY (R445) -/
  | retrainBoundExpiry (port lanes : Nat)
  /-- LANE_LOCK_TIMEOUT (R448) -/
  | laneLockTimeout (port lane : Nat)
  /-- LANE_REMOVE_MESSAGE (R448) -/
  | laneRemoveMessage (port lane : Nat)
  /-- LNK_CREDIT_CFG_WRITE (R458) -/
  | lnkCreditCfgWrite (port : Nat) (value : Word)
  /-- LNK_TORUS_WRITE (R460) -/
  | lnkTorusWrite (value : Word)
  /-- LNK_BUNDLE_WRITE (R461) -/
  | lnkBundleWrite (value : Word)
  /-- LNK_STANDIN_WRITE (R451) -/
  | lnkStandinWrite (dir : Nat) (value : Word)
  /-- SCHED_LOAD (R469) -/
  | schedLoad (queue index : Nat)
  /-- SCHED_DROP (R493) -/
  | schedDrop (queue index : Nat)
  /-- STEP_OPEN (R467) -/
  | stepOpen (queue index : Nat)
  /-- STEP_VOID (R493) -/
  | stepVoid (queue index : Nat)
  /-- CONTRIBUTION_SEND (R470) -/
  | contributionSend (die grove reduction : Nat)
  /-- CONTRIBUTION_RECEIVE (R475) -/
  | contributionReceive (die : Nat) (o : Origin) (c : Contribution)
  /-- CONTRIBUTION_ACK_RECEIVE (R473) -/
  | contributionAckReceive (die : Nat) (o : Origin) (request status : Nat)
  /-- CONTRIBUTION_TIMEOUT (R473) -/
  | contributionTimeout (die grove request : Nat)
  /-- PARTIAL_MESSAGE_TIMEOUT (R476) -/
  | partialMessageTimeout (port vc dl : Nat)
  /-- REDUCTION_DEADLINE (R477) -/
  | reductionDeadline (die grove reduction : Nat)
  /-- BCAST_PIECE_RECEIVE (R480) -/
  | bcastPieceReceive (die : Nat) (o : Origin) (p : Piece)
  /-- BCAST_ACK_RECEIVE (R480) -/
  | bcastAckReceive (die : Nat) (o : Origin) (request : Nat)
  /-- BCAST_PIECE_TIMEOUT (R480) -/
  | bcastPieceTimeout (die grove request : Nat)
  /-- BCAST_COMPLETION_TIMEOUT (R482) -/
  | bcastCompletionTimeout (die grove : Nat)
  /-- CLEAN_REPORT_SEND (R484) -/
  | cleanReportSend (grove : Nat)
  /-- VOID_ACK_SEND (R484) -/
  | voidAckSend (grove : Nat)
  /-- COMMIT_REPORT_RECEIVE (R484) -/
  | commitReportReceive (o : Origin) (r : Report)
  /-- COMMIT_RELEASE (R485) -/
  | commitRelease (o : Origin) (r : Release)
  /-- VOID_RECEIVE (R488) -/
  | voidReceive (o : Origin) (v : VoidMsg)
  /-- COMMIT_TIMEOUT (R34) -/
  | commitTimeout (grove : Nat)
  /-- VOID_BARRIER_TIMEOUT (R34) -/
  | voidBarrierTimeout (grove : Nat)
  /-- STEP_COMMIT_COMPLETE (R34) -/
  | stepCommitComplete (grove : Nat)
  /-- UPD_LOAD (R511) -/
  | updLoad (queue index : Nat)
  /-- UPD_DROP (R511) -/
  | updDrop (queue index : Nat)
  /-- UPD_CONST (R511) -/
  | updConst (queue index : Nat)
  /-- WCH_LOG_TAIL_WRITE (R547) -/
  | wchLogTailWrite (value : Word)
  /-- WCH_LOG_STATE_WRITE (R548) -/
  | wchLogStateWrite (value : Word)
  /-- TILE_EXCLUDE (R535) -/
  | tileExclude (value : Word)
  /-- TILE_READMIT (R545) -/
  | tileReadmit (value : Word)
  /-- RECOMPUTE_DONE (R534) -/
  | recomputeDone (tile cls : Nat)
  /-- FT_RUN (R543) -/
  | ftRun (queue index : Nat)
  /-- FT_ABORT (R542) -/
  | ftAbort (queue index : Nat)
  /-- FT_DONE (R703) -/
  | ftDone (die kind object : Nat) (result : FtResult)
  /-- PLAN_LOAD (R560) -/
  | planLoad (queue index : Nat)
  /-- FIRE (R563) -/
  | fire (queue index : Nat)
  /-- KLN_ABORT (R574) -/
  | klnAbort (queue index : Nat)
  /-- RESTORE (R575) -/
  | restore (queue index : Nat)
  /-- PROBE (R578) -/
  | probe (queue index : Nat)
  /-- KILN_DEST_ACK (R565) -/
  | kilnDestAck (o : Origin) (request : Nat)
  /-- KILN_CAPTURE_DONE (R566) -/
  | kilnCaptureDone (grove : Nat)
  /-- KILN_TOUCH_DONE (R567) -/
  | kilnTouchDone (grove page cycles : Nat)
  /-- KILN_DRAIN_RECEIVE (R573) -/
  | kilnDrainReceive (die : Nat) (o : Origin) (w : KilnWrite)
  /-- KILN_DRAIN_TIMEOUT (R573) -/
  | kilnDrainTimeout (grove : Nat)
  /-- RESTORE_DATA_RECEIVE (R575) -/
  | restoreDataReceive (tag : Nat) (data : List Byte)
  /-- CLK_MONITOR_WINDOW (R589) -/
  | clkMonitorWindow (island : Island) (khz : Nat) (unanswered : Bool)
  /-- REF_EDGE_DETECT (R591) -/
  | refEdgeDetect (source : Nat)
  /-- REF_EDGE_LOSS (R591) -/
  | refEdgeLoss (source : Nat)
  /-- REF_QUAL_WINDOW (R591) -/
  | refQualWindow (source hz : Nat) (pllLocked : Bool)
  /-- REF_CROSS_CHECK (R592) -/
  | refCrossCheck (offset : Int)
  /-- PLL_UNLOCK (R594) -/
  | pllUnlock (pll : Nat)
  /-- PLL_RELOCKED (R596) -/
  | pllRelocked
  /-- CLK_REF_SEL_WRITE (R593) -/
  | clkRefSelWrite (value : Word)
  /-- REF_SWITCH_DONE (R593) -/
  | refSwitchDone
  /-- PWR_OP_REQ_WRITE (R598) -/
  | pwrOpReqWrite (die : Nat) (value : Word)
  /-- DVFS_PLL_LOCKED (R599) -/
  | dvfsPllLocked (die : Nat)
  /-- DVFS_VOLTAGE_SETTLED (R599) -/
  | dvfsVoltageSettled (die : Nat)
  /-- RAIL_SAMPLE (R600) -/
  | railSample (inWindow reading : Nat)
  /-- VIN_OUT_OF_WINDOW (R601) -/
  | vinOutOfWindow (tenMillivolts : Nat)
  /-- PSC_TLM_FRAME (R602) -/
  | pscTlmFrame (voltage current : Nat) (fault : Bool)
  /-- PSC_TLM_MISSING (R602) -/
  | pscTlmMissing
  /-- PSC_FAULT (R602) -/
  | pscFault
  /-- AUX_SUPPLY_UP (R603) -/
  | auxSupplyUp (strap : Nat)
  /-- VIN_IN_WINDOW (R603) -/
  | vinInWindow
  /-- PSC_POWER_GOOD (R603) -/
  | pscPowerGood
  /-- PWR_SMOULDER_ENTER (R605) -/
  | pwrSmoulderEnter (value : Word)
  /-- PWR_SMOULDER_LEAVE (R605) -/
  | pwrSmoulderLeave (value : Word)
  /-- SMOULDER_ENTRY_DONE (R605) -/
  | smoulderEntryDone
  /-- SMOULDER_EXIT_DONE (R605) -/
  | smoulderExitDone
  /-- DIE_TEMP_SAMPLE (R606) -/
  | dieTempSample (die : Nat) (hottest : Option Int) (sensor unreadable : Nat)
  /-- THERMAL_CLAMP_STEP (R606) -/
  | thermalClampStep (die : Nat)
  /-- POWER_CAP_AVERAGE (R607) -/
  | powerCapAverage (watts : Nat)
  /-- INPUT_OVERCURRENT (R608) -/
  | inputOvercurrent
  /-- DROOP_RELEASE (R608) -/
  | droopRelease
  /-- PWR_CAP_WRITE (R607) -/
  | pwrCapWrite (value : Word)
  /-- PWR_THERM_CFG_WRITE (R619) -/
  | pwrThermCfgWrite (value : Word)
  /-- HEARTWOOD_BOOT (R629) -/
  | heartwoodBoot (copyA copyB : List Byte) (pufOk nvmUe : Bool)
  /-- ATTEST (R638) -/
  | attest (value : Word) (nvmUe : Bool)
  /-- IDENT_READ (R641) -/
  | identRead (value : Word) (nvmUe : Bool)
  /-- MEASURE_EXTEND (R628) -/
  | measureExtend (value : Word)
  /-- PROVISION_SET (R633) -/
  | provisionSet (value : Word) (nvmUe : Bool)
  /-- ROLLBACK_COMMIT (R631) -/
  | rollbackCommit (value : Word) (nvmUe : Bool)
  /-- LOAD_RUNTIME (R629) -/
  | loadRuntime (value : Word) (copyA copyB : List Byte)
  /-- SERVICE (R652) -/
  | service (value : Word)
  /-- RECOVER (R664) -/
  | recover (value : Word)
  /-- WARM_RESET (R654) -/
  | warmReset (value : Word)
  /-- COLD_RESET (R653) -/
  | coldReset (value : Word)
  /-- GROVE_RESET (R654) -/
  | groveReset (value : Word)
  /-- FORCE_ASH (R658) -/
  | forceAsh (value : Word)
  /-- RESET_N_LOW (R667) -/
  | resetNLow (us : Nat)
  /-- SMBUS_REG_READ (R682) -/
  | smbusRegRead (off : Nat)
  /-- SMBUS_REG_WRITE (R682) -/
  | smbusRegWrite (off : Nat) (value : Word)
  /-- SMBUS_IMG_BEGIN (R683) -/
  | smbusImgBegin (kind length : Nat)
  /-- SMBUS_IMG_DATA (R682) -/
  | smbusImgData (off : Nat) (data : List Byte)
  /-- SMBUS_IMG_END (R683) -/
  | smbusImgEnd (crc : Nat)
  /-- SMBUS_IMG_STATUS (R682) -/
  | smbusImgStatus
  /-- SMBUS_ALERT_RESPONSE (R684) -/
  | smbusAlertResponse
  /-- TAP_TEST_ENTRY (R686) -/
  | tapTestEntry (t : TapInstr)
  /-- TAP_TEST_EXIT (R694) -/
  | tapTestExit
  /-- RESET_N_RELEASE (R667) -/
  | resetNRelease (strap : Nat)
  /-- LANE_LOCK_LOSS (R449) -/
  | laneLockLoss (port : Nat)
  /-- HLK_TRAINING_DONE (R91) -/
  | hlkTrainingDone (cd0 cd1 span : Nat × Nat)
  /-- MEM_PHY_TRAINING_DONE (R651) -/
  | memPhyTrainingDone (t : PhyTraining)
  /-- ETH_LINK_TRAINING_DONE (R113) -/
  | ethLinkTrainingDone (port : Nat)
  /-- RDMA_RESPONSE_RECEIVE (R114) -/
  | rdmaResponseReceive (qp : Nat) (resp : RdmaResp)
  /-- TLS_SESSION_MESSAGE (R119) -/
  | tlsSessionMessage (session : Nat) (msg : TlsMsg)
  /-- REFRESH_ACK_RECEIVE (R269) -/
  | refreshAckReceive (die request : Nat)
  /-- REGRAFT_MIRROR_RECEIVE (R271) -/
  | regraftMirrorReceive (die : Nat) (o : Origin) (c : RowCopy)
  /-- LOCAL_ROW_READ_RETURN (R227) -/
  | localRowReadReturn (queue index unique : Nat)
  deriving DecidableEq, Repr

end Sys2Proof
end

