-- ==== Sys2Proof/WellFormed.lean ====
section
/-! DEFINITION. Which commands are well formed: every operand lies in the range its field or identifier has (R10). -/
namespace Sys2Proof

/-- The operands of a command lie in their ranges. Assumption: 4 (DESIGN CHOICE). -/
def Instr.wf : Instr → Bool
  | .registerWrite off width _ => off < 2 ^ 30 && (width == 1 || width == 2 || width == 4 || width == 8)
  | .glbDevnumWrite _ => true
  | .batchGo _ => true
  | .batchQuiesceDone => true
  | .quiesceTimeout image => image < 32
  | .resourceClearDone => true
  | .scrubAdvance channel => channel < 480
  | .staleGroveNak nak => nak.die < 2 && nak.grove < 16 && nak.generation < 2 ^ 16
  | .budgetPeriodStart die grove => die < 2 && grove < 16
  | .grvBudgetWrite die grove activity _ => die < 2 && grove < 16 && activity < 8
  | .bindingDigestCheck die _ => die < 2
  | .hlkFlitReceive link flit => link < 3 && flit.length == 256
  | .hlkNakReceive link ackSeq => link < 3 && ackSeq < 2 ^ 16
  | .hlkReplayTimeout link => link < 3
  | .hlkRetrainDone link modules lanes => link < 3 && modules < 256 && lanes < 256
  | .queueDoorbell queue _ => queue < 128
  | .commandFetch queue => queue < 128
  | .queueEnable queue value => queue < 128 && value.getLsbD 63
  | .queueEnableTakeEffect queue => queue < 128
  | .queueDisable queue value => queue < 128 && !value.getLsbD 63
  | .tlsConnect _ _ => true
  | .sessionIdleTimeout _ => true
  | .rdmaRequest qp _ => qp < 4096
  | .inject queue _ => queue < 128
  | .injectPlace queue _ => queue < 128
  | .taskDispatch tile unit _ => tile < 128 && unit < 4
  | .taskComplete tile slot _ => tile < 128 && slot < 1024
  | .kntSignal knot _ => knot < 16384
  | .kntInit knot _ => knot < 16384
  | .knotSignalMessage o knot amount => o.wf && knot < 16384 && amount < 2 ^ 32
  | .schClearHighWater tile => tile < 128
  | .schClearCounters tile => tile < 128
  | .streamSet queue _ => queue < 128
  | .progLoad queue _ => queue < 128
  | .progUnload queue _ => queue < 128
  | .smpAdjReadReturn lane parent _ => lane < 32 && parent < 2 ^ 24
  | .adjRange die o r => die < 2 && o.wf && r.wf
  | .adjPick die o r => die < 2 && o.wf && r.wf
  | .adjResponseReceive die request _ => die < 2 && request < 2 ^ 32
  | .smpRemoteTimeout die request => die < 2 && request < 2 ^ 32
  | .gather queue _ => queue < 128
  | .scatter queue _ => queue < 128
  | .scatterClose queue _ => queue < 128
  | .gthCommandStart queue _ _ => queue < 128
  | .rowRead die o r => die < 2 && o.wf && r.wf
  | .rowReadRelease die o request => die < 2 && o.wf && request < 2 ^ 32
  | .rowAccumulate die o a => die < 2 && o.wf && a.wf
  | .rowDataReceive die d => die < 2 && d.wf
  | .accumulateAckReceive die request status => die < 2 && request < 2 ^ 32 && status < 3
  | .negativeResponseReceive die _ request code => die < 2 && request < 2 ^ 32 && code < 256
  | .gthRemoteTimeout die _ request => die < 2 && request < 2 ^ 32
  | .gthMergeQuotaWrite die grove _ => die < 2 && grove < 16
  | .tableLoad queue _ => queue < 128
  | .tableDrop queue _ => queue < 128
  | .regraftBegin queue _ => queue < 128
  | .scionBegin queue _ => queue < 128
  | .dirStage queue _ => queue < 128
  | .dirUnstage queue _ => queue < 128
  | .pendAbandon queue _ => queue < 128
  | .heatRead queue _ => queue < 128
  | .regraftCopyReceive die o c => die < 2 && o.wf && c.wf
  | .regraftCopyAck die request => die < 2 && request < 2 ^ 32
  | .regraftCopyTimeout die request => die < 2 && request < 2 ^ 32
  | .flipDoneReceive die o table row step =>
    die < 2 && o.wf && table < 2 ^ 12 && row < 2 ^ 48 && step < 2 ^ 48
  | .scionCopyReceive die o c => die < 2 && o.wf && c.wf
  | .scionCopyAck die request => die < 2 && request < 2 ^ 32
  | .scionRefreshReceive die o c => die < 2 && o.wf && c.wf
  | .refreshDoneReceive o step => o.wf && step < 2 ^ 48
  | .embEntryQuotaWrite grove _ => grove < 16
  | .abftCheckDone tile => tile < 128
  | .abftMismatchReport tile => tile < 128
  | .tilAbftTolWrite tile _ => tile < 128
  | .tilAbftAbsWrite tile _ => tile < 128
  | .updRowbufWrite die grove _ => die < 2 && grove < 16
  | .memRequest r _ => r.wf
  | .nearMemoryAccumulate a => a.wf
  | .wcbAgeEvict channel err => channel < 480 && err.wf
  | .patrolScrubRead channel err => channel < 480 && err.wf
  | .memMrRead die _ => die < 2
  | .memMrWrite die _ => die < 2
  | .memSoftRepair die _ => die < 2
  | .memHardRepair die _ => die < 2
  | .memQueryRepair die _ => die < 2
  | .softRepairResult channel _ reads => channel < 480 && reads.all (fun p => p.1 < 32 && p.2.wf)
  | .hardRepairDone channel _ => channel < 480
  | .mapoutGo die _ => die < 2
  | .mapoutCopyDone die reads => die < 2 && reads.all (fun p => p.1 < 2 ^ 25 && p.2.wf)
  | .memChmapSetWrite die _ => die < 2
  | .stackTempSample stack _ => stack < 12
  | .lnkFlitReceive port lane _ flit =>
    (port < 6 || (16 ≤ port && port < 32)) && lane < 8 && flit.length == 256
  | .lnkNakReceive port ackSeq => (port < 6 || (16 ≤ port && port < 32)) && ackSeq < 2 ^ 16
  | .lnkReplayTimeout port => (port < 6 || (16 ≤ port && port < 32))
  | .lnkIdleSend port => (port < 6 || (16 ≤ port && port < 32))
  | .portEnable port _ => (port < 6 || (16 ≤ port && port < 32))
  | .portDisable port _ => (port < 6 || (16 ≤ port && port < 32))
  | .portRetrain port _ => (port < 6 || (16 ≤ port && port < 32))
  | .trainSignalDetect port lanes => (port < 6 || (16 ≤ port && port < 32)) && lanes < 256
  | .trainEqualiseDone port lanes => (port < 6 || (16 ≤ port && port < 32)) && lanes < 256
  | .trainAlignDone port lanes => (port < 6 || (16 ≤ port && port < 32)) && lanes < 256
  | .identityExchange port id => (port < 6 || (16 ≤ port && port < 32)) && id.wf
  | .retrainDone port lanes id => (port < 6 || (16 ≤ port && port < 32)) && lanes < 256 && id.wf
  | .retrainBoundExpiry port lanes => (port < 6 || (16 ≤ port && port < 32)) && lanes < 256
  | .laneLockTimeout port lane => (port < 6 || (16 ≤ port && port < 32)) && lane < 8
  | .laneRemoveMessage port lane => (port < 6 || (16 ≤ port && port < 32)) && lane < 8
  | .lnkCreditCfgWrite port _ => (port < 6 || (16 ≤ port && port < 32))
  | .lnkTorusWrite _ => true
  | .lnkBundleWrite _ => true
  | .lnkStandinWrite dir _ => dir < 6
  | .schedLoad queue _ => queue < 128
  | .schedDrop queue _ => queue < 128
  | .stepOpen queue _ => queue < 128
  | .stepVoid queue _ => queue < 128
  | .contributionSend die grove reduction => die < 2 && grove < 16 && reduction < 4096
  | .contributionReceive die o c => die < 2 && o.wf && c.wf
  | .contributionAckReceive die o request status => die < 2 && o.wf && request < 2 ^ 32 && status < 5
  | .contributionTimeout die grove request => die < 2 && grove < 16 && request < 2 ^ 32
  | .partialMessageTimeout port vc dl => (port < 6 || (16 ≤ port && port < 32)) && vc < 4 && dl < 2
  | .reductionDeadline die grove reduction => die < 2 && grove < 16 && reduction < 4096
  | .bcastPieceReceive die o p => die < 2 && o.wf && p.wf
  | .bcastAckReceive die o request => die < 2 && o.wf && request < 2 ^ 32
  | .bcastPieceTimeout die grove request => die < 2 && grove < 16 && request < 2 ^ 32
  | .bcastCompletionTimeout die grove => die < 2 && grove < 16
  | .cleanReportSend grove => grove < 16
  | .voidAckSend grove => grove < 16
  | .commitReportReceive o r => o.wf && r.wf
  | .commitRelease o r => o.wf && r.wf
  | .voidReceive o v => o.wf && v.wf
  | .commitTimeout grove => grove < 16
  | .voidBarrierTimeout grove => grove < 16
  | .stepCommitComplete grove => grove < 16
  | .updLoad queue _ => queue < 128
  | .updDrop queue _ => queue < 128
  | .updConst queue _ => queue < 128
  | .wchLogTailWrite _ => true
  | .wchLogStateWrite _ => true
  | .tileExclude _ => true
  | .tileReadmit _ => true
  | .recomputeDone tile cls => tile < 128 && (1 ≤ cls && cls ≤ 3)
  | .ftRun queue _ => queue < 128
  | .ftAbort queue _ => queue < 128
  | .ftDone die kind _ _ => die < 2 && (1 ≤ kind && kind ≤ 10)
  | .planLoad queue _ => queue < 128
  | .fire queue _ => queue < 128
  | .klnAbort queue _ => queue < 128
  | .restore queue _ => queue < 128
  | .probe queue _ => queue < 128
  | .kilnDestAck o request => o.wf && request < 2 ^ 32
  | .kilnCaptureDone grove => grove < 16
  | .kilnTouchDone grove _ _ => grove < 16
  | .kilnDrainReceive die o w => die < 2 && o.wf && w.wf
  | .kilnDrainTimeout grove => grove < 16
  | .restoreDataReceive _ _ => true
  | .clkMonitorWindow island _ _ => island.wf
  | .refEdgeDetect source => source < 3
  | .refEdgeLoss source => source < 3
  | .refQualWindow source _ _ => source < 3
  | .refCrossCheck _ => true
  | .pllUnlock pll => pll < 10
  | .pllRelocked => true
  | .clkRefSelWrite _ => true
  | .refSwitchDone => true
  | .pwrOpReqWrite die _ => die < 2
  | .dvfsPllLocked die => die < 2
  | .dvfsVoltageSettled die => die < 2
  | .railSample inWindow reading => inWindow < 2 ^ 14 && reading < 2 ^ 16
  | .vinOutOfWindow tenMillivolts => tenMillivolts < 2 ^ 16
  | .pscTlmFrame voltage current _ => voltage < 2 ^ 16 && current < 2 ^ 16
  | .pscTlmMissing => true
  | .pscFault => true
  | .auxSupplyUp strap => strap < 8
  | .vinInWindow => true
  | .pscPowerGood => true
  | .pwrSmoulderEnter _ => true
  | .pwrSmoulderLeave _ => true
  | .smoulderEntryDone => true
  | .smoulderExitDone => true
  | .dieTempSample die _ sensor unreadable => die < 3 && sensor < 32 && unreadable < 25
  | .thermalClampStep die => die < 2
  | .powerCapAverage watts => watts < 2 ^ 16
  | .inputOvercurrent => true
  | .droopRelease => true
  | .pwrCapWrite _ => true
  | .pwrThermCfgWrite _ => true
  | .heartwoodBoot _ _ _ _ => true
  | .attest _ _ => true
  | .identRead _ _ => true
  | .measureExtend _ => true
  | .provisionSet _ _ => true
  | .rollbackCommit _ _ => true
  | .loadRuntime _ _ _ => true
  | .service _ => true
  | .recover _ => true
  | .warmReset _ => true
  | .coldReset _ => true
  | .groveReset _ => true
  | .forceAsh _ => true
  | .resetNLow _ => true
  | .smbusRegRead off => off < 2 ^ 32
  | .smbusRegWrite off _ => off < 2 ^ 32
  | .smbusImgBegin kind length => kind < 256 && length < 2 ^ 32
  | .smbusImgData off data => off < 2 ^ 32 && 1 ≤ data.length && data.length ≤ 240
  | .smbusImgEnd crc => crc < 2 ^ 32
  | .smbusImgStatus => true
  | .smbusAlertResponse => true
  | .tapTestEntry _ => true
  | .tapTestExit => true
  | .resetNRelease strap => strap < 8
  | .laneLockLoss port => (port < 6 || (16 ≤ port && port < 32))
  | .hlkTrainingDone cd0 cd1 span =>
    cd0.1 < 4 && cd1.1 < 4 && span.1 < 256 && cd0.2 < 256 && cd1.2 < 256 && span.2 < 256
  | .memPhyTrainingDone t => t.wf
  | .ethLinkTrainingDone port => port < 2
  | .rdmaResponseReceive qp _ => qp < 4096
  | .tlsSessionMessage _ _ => true
  | .refreshAckReceive die request => die < 2 && request < 2 ^ 32
  | .regraftMirrorReceive die o c => die < 2 && o.wf && c.wf
  | .localRowReadReturn queue _ unique => queue < 128 && unique < 65536

end Sys2Proof
end

