-- ==== Sys2Proof/Config.lean ====
section
/-! DEFINITION. What the spec leaves open, as constants without a body: no proof can see a value of them. Each is
named in the assumption log. -/
namespace Sys2Proof

/-- What a byte reads as where no line of the present key has been written or scrubbed: "unrelated values" (R70). By
the epoch of the key and the byte's place. Assumption: 10 (DESIGN CHOICE). -/
opaque Config.unkeyedByte : Nat → Nat → Byte

/-- What a grove's page table spells after software may have written it: its format is not in the spec (R12, R55).
The list pairs 2 MiB page numbers with local offsets. Assumption: 9 (DESIGN CHOICE). -/
opaque Config.freePages : Nat → Tbl Nat

/-- The hearth island's fixed frequency in kHz, which R586 does not state. Assumption: 74 (DESIGN CHOICE). -/
opaque Config.hearthKhz : Nat

/-- Whether the sampler raises SMP_BARK_ORDER for a vertex whose stored list breaks the order of R194, which R194 leaves
undefined. By the list's edge records. Assumption: 46 (DESIGN CHOICE). -/
opaque Config.disorderRaise : List Nat → Bool

/-- The ranges of edge positions that stand for the admitted list of such a vertex (R194). By the list's edge records,
the type mask and the timestamp bounds. Assumption: 46 (DESIGN CHOICE). -/
opaque Config.disorderRanges : List Nat → Nat → Nat → Nat → List (Nat × Nat)

/-- Bytes the hardware writes whose content the spec does not give: by the number of the free value and the byte's place
in it. Assumptions: 12 (DESIGN CHOICE), 67 (DESIGN CHOICE). -/
opaque Config.freeByte : Nat → Nat → Byte

/-- Whether a member that is not the root, and sees no mismatch in its own report, records EMB_STAGE_MISMATCH when a
commit holds the staged set (R266): the release does not tell it why. By the number of the free value.
Assumptions: 30 (DEDUCED), 54 (DESIGN CHOICE). -/
opaque Config.freeBool : Nat → Bool

/-- ECDSA P-384 verification (R624): public key, signed bytes, signature. The spec names the standard only.
Assumption: 78 (DESIGN CHOICE). -/
opaque Config.ecdsaVerify : List Byte → List Byte → List Byte → Bool

/-- LMS verification (R624, RFC 8554): public key, signed bytes, signature. Assumption: 78 (DESIGN CHOICE). -/
opaque Config.lmsVerify : List Byte → List Byte → List Byte → Bool

/-- The identity ECDSA key's signature (R638): whether debug_unlock is in force, the signed bytes, and the number of the
free value for the signature's own random choice. Assumption: 78 (DESIGN CHOICE). -/
opaque Config.ecdsaSign : Bool → List Byte → Nat → List Byte

/-- The identity LMS key's signature with a leaf (R638, R639). Assumption: 78 (DESIGN CHOICE). -/
opaque Config.lmsSign : Bool → Nat → List Byte → List Byte

/-- The SHA-384 digest of the vendor's keys that the boot ROM holds (R626). Assumption: 78 (DESIGN CHOICE). -/
opaque Config.romDigest : List Byte

/-- The identity record's frame, written at manufacture (R637): byte by offset. Assumption: 78 (DESIGN CHOICE). -/
opaque Config.identityByte : Nat → Byte

end Sys2Proof
end

