-- ==== Sys2Proof/Machine/RegMap.lean ====
section
/-! DEFINITION. The register window of R38: every register the chapters' maps give, its offset, its copies and its
fields with their access codes (R14) and reset values (R17). -/
namespace Sys2Proof.Machine

/-- The access codes of R14; a reserved field is one that no row lists. -/
inductive Access where
  | rw | ro | wo | w1c | rws
  deriving DecidableEq, Repr

/-- One field of a register map: bits hi..lo, its access code and its reset value. -/
structure Field where
  hi : Nat
  lo : Nat
  acc : Access
  reset : Nat
  deriving DecidableEq, Repr

/-- One register: its base offset, its copies (count and stride of each index) and its fields. -/
structure RegDesc where
  base : Nat
  dims : List (Nat × Nat)
  fields : List Field
  deriving DecidableEq, Repr

/-- The registers of the window, under the names of their maps; `_T` and `_B` are the trunk and branch copies of
the port registers. -/
inductive Reg where
  | GLB_IDENT | GLB_DEVNUM | GLB_STATUS | GLB_RECOVER | CLK_REF_SEL | CLK_REF_STATUS | CLK_PLL_STATUS
  | CLK_FAILOVER | CLK_QUAL_RESTART | CLK_UNLOCK | CLK_FAULT_LAST | PWR_OP_REQ | PWR_OP_STATE | PWR_CAP
  | PWR_INPUT | PWR_DIE_TEMP | PWR_THERM_CFG | PWR_SMOULDER | PWR_RAIL_STATUS | PWR_TRANSITIONS
  | PWR_CLAMP_US | PWR_CAP_US | PWR_DROOP | PWR_FAULT_LAST | WCH_LOG_HEAD | WCH_LOG_TAIL | WCH_LOG_STATE
  | WCH_NOTIFY | WCH_REPLAY_CFG | WCH_SMOKE_CFG | WCH_FATAL | WCH_SMOKE | WCH_LOG_LOST | WCH_MISMATCH
  | WCH_RECOMPUTE_FAIL | WCH_VOID_SENT | WCH_REPLAYS | WCH_EXCLUDED | WCH_FT_RUN | WCH_FT_FAIL | WCH_TILE
  | WCH_TILE_CTL | WCH_LOG | HWD_MBOX_CMD | HWD_MBOX_ARG | HWD_MBOX_STATUS | HWD_BOOT_STATUS | HWD_ROLLBACK
  | HWD_LMS_INDEX | HWD_PROV_SEQ | HWD_MEASURE | HWD_FAULT_LAST | HLK_LINK_STATUS | HLK_REPLAY_COUNT
  | HLK_QBASE | HLK_QCBASE | HLK_QCFG | HLK_QDOORBELL | HLK_QSTATUS | GRV_BATCH_ADDR | GRV_LOAD
  | GRV_LOAD_STATUS | GRV_GEN | GRV_STALE_COUNT | GRV_STALE_LAST | GRV_HELD | GRV_BUDGET | SCH_DEPTH
  | SCH_CLEAR | SCH_BUSY | SCH_STARVE | SCH_WAIT_CYC | SCH_CREDIT_STALL | SCH_DISPATCHED | SCH_HOLD_CYC
  | SCH_FAULTED | SCH_FLOW_SEL | SCH_FLOW_STATE | SCH_KNOT_OVF | SCH_DISCARDED | KNT_STATE0 | KNT_STATE1
  | KNT_VIEW | KNT_SIGNAL | KNT_INIT_TYPE | KNT_INIT | COL_STEP | COL_HIST_MERGE | COL_HIST_REC
  | COL_TALLY_RING | COL_TALLY_HEAD | COL_SENT | COL_APPLIED | COL_LATE | COL_REPEAT | COL_RETRY
  | COL_ABANDONED | COL_PARTIAL | COL_STALE_ATTEMPT | COL_NOT_OWNER | COL_B8_SAT | COL_B8_NAN | COL_SHORT
  | COL_PIECES | COL_VOID_RX | COL_FAULT_LAST | UPD_ROWBUF | UPD_STATE | UPD_ELEMS | UPD_ROWS | UPD_EMPTY
  | UPD_NONFINITE | UPD_STAGED | UPD_DIRECT | UPD_PROBES | UPD_FAULT_LAST | KLN_STATE | KLN_PROGRESS
  | KLN_LAST | KLN_PAGES | KLN_TOUCHES | KLN_HELD_CYC | KLN_DRAINED | KLN_ABORTS | KLN_DIGEST_FAIL
  | KLN_FAULT_LAST | SMP_PROG_STATUS | SMP_LANE_BUSY | SMP_EDGES | SMP_REMOTE_REQ | SMP_REMOTE_RETRY
  | SMP_SHORT | SMP_REJECT | SMP_FAULT_LAST | GTH_MERGE_QUOTA | GTH_MERGE_USE | GTH_WAIT | GTH_ROWS
  | GTH_DEDUP | GTH_REMOTE_READ | GTH_REMOTE_RETRY | GTH_CONTRIB | GTH_ACC_SENT | GTH_MERGE_SPILL
  | GTH_DUP_DROPPED | GTH_CONV_SAT | GTH_CONV_FLUSH | GTH_FAULT_LAST | EMB_TABLE | EMB_ENTRY_QUOTA
  | EMB_ENTRY_USE | EMB_STAGE_DIGEST | EMB_STAGE_STATE | EMB_LOOKUP_SCION | EMB_LOOKUP_GRAFT
  | EMB_LOOKUP_HASH | EMB_SCION_FALLBACK | EMB_HELD_READ | EMB_FORWARDED | EMB_LATE | EMB_STAGE_HELD
  | EMB_CANCELLED_COUNT | EMB_FAULT_LAST | MEM_CH_STATE | MEM_SCRUB | MEM_D1_SPARE | MEM_ECC_LAST
  | MEM_ECC_CORR | MEM_ECC_UE | MEM_WCB_RMW | MEM_ACC_LINES | MEM_ACC_SAT | MEM_ROW_REMAP | MEM_MAPOUT
  | MEM_MAPOUT_STATUS | MEM_REPAIR_CMD | MEM_REPAIR_STATUS | MEM_REMAP_POLICY | MEM_CHMAP_SET
  | MEM_STACK_TEMP | LNK_PORT_CFG_T | LNK_PORT_STATUS_T | LNK_LANE_STATE_T | LNK_CREDIT_CFG_T
  | LNK_TX_FLITS_T | LNK_RX_FLITS_T | LNK_FEC_CORR_T | LNK_FEC_UNCORR_T | LNK_CRC_ERR_T | LNK_REPLAY_T
  | LNK_RETRAIN_T | LNK_CREDIT_STALL_T | LNK_FWD_T | LNK_REVERSE_T | LNK_LOST_T | LNK_PORT_CFG_B
  | LNK_PORT_STATUS_B | LNK_LANE_STATE_B | LNK_CREDIT_CFG_B | LNK_TX_FLITS_B | LNK_RX_FLITS_B
  | LNK_FEC_CORR_B | LNK_FEC_UNCORR_B | LNK_CRC_ERR_B | LNK_REPLAY_B | LNK_RETRAIN_B | LNK_CREDIT_STALL_B
  | LNK_FWD_B | LNK_REVERSE_B | LNK_LOST_B | LNK_TORUS | LNK_BUNDLE | LNK_STANDIN | LNK_FAULT_LAST | TIL_INFO
  | TIL_STATUS | TIL_ABFT_TOL | TIL_ABFT_ABS | TIL_ABFT_WHERE | TIL_ABFT_VALUES | TIL_ABFT_CHECKS
  | TIL_ABFT_MISMATCH | TIL_ABFT_NONFINITE | TIL_ABFT_OFF | TIL_L8_INEXACT | TIL_CONV_SAT | TIL_CONV_FLUSH
  | TIL_ARRAY_CYC | TIL_DMA_BYTES | TIL_FAULT_LAST | SPX_ECC_CORR | SPX_CONFLICT | SPX_ECC_LAST | SVU_STATUS
  | SVU_ELEMS | SVU_FN | SVU_PORT_STALL | SVU_CONV_SAT | SVU_CONV_FLUSH | SVU_FAULT_LAST | SMU_STATUS
  | SMU_PRODUCTS | SMU_OVERFLOW_USE | SMU_CONV_SAT | SMU_CONV_FLUSH | SPARSE_NZ_READ | SPARSE_SPLIT
  | DMA_COMPRESSED | DMA_DENSE_FORM | SMU_FAULT_LAST
  deriving DecidableEq, Repr

/-- A statistics counter: overflow in bit 63, count in [47:0] (R77, R150). Assumption: 45 (DESIGN CHOICE). -/
def statFields : List Field := [⟨63, 63, .w1c, 0⟩, ⟨47, 0, .ro, 0⟩]

/-- The map of each register, each from the rule its line names. -/
def regDesc : Reg → RegDesc
  | .GLB_IDENT => ⟨0x0, [], -- R40
      [⟨63, 48, .ro, 0x960⟩, ⟨47, 40, .ro, 0x2⟩, ⟨39, 32, .ro, 0x1⟩, ⟨31, 24, .ro, 0x1⟩, ⟨23, 16, .ro, 0⟩,
       ⟨15, 8, .ro, 0xC⟩]⟩
  | .GLB_DEVNUM => ⟨0x8, [], [⟨15, 15, .rws, 0⟩, ⟨14, 0, .rws, 0⟩]⟩ -- R41
  | .GLB_STATUS => ⟨0x10, [], -- R43
      [⟨39, 32, .ro, 0⟩, ⟨31, 16, .ro, 0⟩, ⟨7, 4, .ro, 0x1⟩, ⟨3, 3, .ro, 0⟩, ⟨2, 2, .ro, 0⟩, ⟨1, 1, .ro, 0⟩,
       ⟨0, 0, .ro, 0⟩]⟩
  | .GLB_RECOVER => ⟨0x18, [], -- R668
      [⟨63, 63, .wo, 0⟩, ⟨55, 48, .ro, 0⟩, ⟨42, 42, .ro, 0⟩, ⟨41, 41, .w1c, 0⟩, ⟨40, 40, .ro, 0⟩,
       ⟨35, 32, .rw, 0⟩, ⟨2, 0, .rw, 0⟩]⟩
  | .CLK_REF_SEL => ⟨0x10000, [], [⟨8, 8, .rw, 0⟩, ⟨6, 4, .rw, 0⟩, ⟨2, 0, .rw, 0⟩]⟩ -- R611
  | .CLK_REF_STATUS => ⟨0x10008, [], -- R612
      [⟨31, 16, .ro, 0⟩, ⟨11, 10, .ro, 0⟩, ⟨9, 8, .ro, 0⟩, ⟨4, 4, .ro, 0⟩, ⟨3, 3, .ro, 0⟩, ⟨0, 0, .ro, 0⟩]⟩
  | .CLK_PLL_STATUS => ⟨0x10010, [], [⟨9, 0, .ro, 0⟩]⟩ -- R613
  | .CLK_FAILOVER => ⟨0x10200, [], statFields⟩ -- R622
  | .CLK_QUAL_RESTART => ⟨0x10208, [], statFields⟩ -- R622
  | .CLK_UNLOCK => ⟨0x10210, [], statFields⟩ -- R622
  | .CLK_FAULT_LAST => ⟨0x10400, [], [⟨63, 56, .ro, 0⟩, ⟨55, 48, .ro, 0⟩, ⟨31, 16, .ro, 0⟩, ⟨15, 0, .ro, 0⟩]⟩ -- R623
  | .PWR_OP_REQ => ⟨0x20000, [(2, 0x8)], [⟨2, 0, .rw, 0x7⟩]⟩ -- R614
  | .PWR_OP_STATE => ⟨0x20010, [(2, 0x8)], -- R615
      [⟨23, 23, .ro, 0⟩, ⟨22, 22, .ro, 0⟩, ⟨21, 21, .ro, 0⟩, ⟨20, 20, .ro, 0⟩, ⟨16, 16, .ro, 0⟩,
       ⟨10, 8, .ro, 0x7⟩, ⟨2, 0, .ro, 0x7⟩]⟩
  | .PWR_CAP => ⟨0x20020, [], [⟨63, 63, .rw, 0⟩, ⟨15, 0, .rw, 0x708⟩]⟩ -- R616
  | .PWR_INPUT => ⟨0x20028, [], [⟨47, 32, .ro, 0⟩, ⟨31, 16, .ro, 0⟩, ⟨15, 0, .ro, 0⟩]⟩ -- R617
  | .PWR_DIE_TEMP => ⟨0x20030, [(3, 0x8)], [⟨25, 24, .ro, 0⟩, ⟨20, 16, .ro, 0⟩, ⟨15, 0, .ro, 0⟩]⟩ -- R618
  | .PWR_THERM_CFG => ⟨0x20048, [], [⟨6, 0, .rw, 0x5F⟩]⟩ -- R619
  | .PWR_SMOULDER => ⟨0x20050, [], [⟨63, 63, .wo, 0⟩, ⟨62, 62, .wo, 0⟩, ⟨1, 0, .ro, 0⟩]⟩ -- R620
  | .PWR_RAIL_STATUS => ⟨0x20058, [], [⟨13, 0, .ro, 0⟩]⟩ -- R621
  | .PWR_TRANSITIONS => ⟨0x20200, [], statFields⟩ -- R622
  | .PWR_CLAMP_US => ⟨0x20208, [], statFields⟩ -- R622
  | .PWR_CAP_US => ⟨0x20210, [], statFields⟩ -- R622
  | .PWR_DROOP => ⟨0x20218, [], statFields⟩ -- R622
  | .PWR_FAULT_LAST => ⟨0x20400, [], [⟨63, 56, .ro, 0⟩, ⟨55, 48, .ro, 0⟩, ⟨31, 16, .ro, 0⟩, ⟨15, 0, .ro, 0⟩]⟩ -- R623
  | .WCH_LOG_HEAD => ⟨0x30000, [], [⟨31, 0, .ro, 0⟩]⟩ -- R546
  | .WCH_LOG_TAIL => ⟨0x30008, [], [⟨31, 0, .rws, 0⟩]⟩ -- R547
  | .WCH_LOG_STATE => ⟨0x30010, [], [⟨2, 1, .ro, 0⟩, ⟨0, 0, .w1c, 0⟩]⟩ -- R548
  | .WCH_NOTIFY => ⟨0x30018, [], [⟨36, 32, .rws, 0⟩, ⟨3, 0, .rws, 0xC⟩]⟩ -- R549
  | .WCH_REPLAY_CFG => ⟨0x30020, [], [⟨11, 8, .rw, 0x4⟩, ⟨0, 0, .rw, 0x1⟩]⟩ -- R550
  | .WCH_SMOKE_CFG => ⟨0x30028, [], [⟨3, 0, .rw, 0x6⟩]⟩ -- R551
  | .WCH_FATAL => ⟨0x30100, [(4, 0x8)], [⟨63, 0, .ro, 0⟩]⟩ -- R552
  | .WCH_SMOKE => ⟨0x30200, [(16, 0x8)], -- R553
      [⟨32, 32, .w1c, 0⟩, ⟨31, 16, .ro, 0⟩, ⟨7, 4, .ro, 0⟩, ⟨3, 0, .ro, 0⟩]⟩
  | .WCH_LOG_LOST => ⟨0x30400, [], statFields⟩ -- R554
  | .WCH_MISMATCH => ⟨0x30408, [], statFields⟩ -- R554
  | .WCH_RECOMPUTE_FAIL => ⟨0x30410, [], statFields⟩ -- R554
  | .WCH_VOID_SENT => ⟨0x30418, [], statFields⟩ -- R554
  | .WCH_REPLAYS => ⟨0x30420, [], statFields⟩ -- R554
  | .WCH_EXCLUDED => ⟨0x30428, [], statFields⟩ -- R554
  | .WCH_FT_RUN => ⟨0x30430, [], statFields⟩ -- R554
  | .WCH_FT_FAIL => ⟨0x30438, [], statFields⟩ -- R554
  | .WCH_TILE => ⟨0x31000, [(128, 0x8)], -- R555
      [⟨47, 32, .ro, 0⟩, ⟨23, 16, .ro, 0⟩, ⟨9, 8, .ro, 0⟩, ⟨5, 5, .ro, 0⟩, ⟨4, 4, .ro, 0⟩, ⟨2, 0, .ro, 0⟩]⟩
  | .WCH_TILE_CTL => ⟨0x31400, [], [⟨63, 63, .wo, 0⟩, ⟨62, 62, .wo, 0⟩, ⟨6, 0, .wo, 0⟩]⟩ -- R556
  | .WCH_LOG => ⟨0x38000, [(1024, 0x20), (4, 0x8)], [⟨63, 0, .ro, 0⟩]⟩ -- R532
  | .HWD_MBOX_CMD => ⟨0x40000, [], [⟨63, 63, .wo, 0⟩, ⟨23, 16, .rw, 0⟩, ⟨15, 0, .rw, 0⟩]⟩ -- R643
  | .HWD_MBOX_ARG => ⟨0x40008, [], [⟨40, 6, .rw, 0⟩]⟩ -- R644
  | .HWD_MBOX_STATUS => ⟨0x40010, [], [⟨31, 16, .ro, 0⟩, ⟨15, 8, .ro, 0⟩, ⟨1, 1, .w1c, 0⟩, ⟨0, 0, .ro, 0⟩]⟩ -- R645
  | .HWD_BOOT_STATUS => ⟨0x40018, [], -- R646
      [⟨41, 32, .ro, 0⟩, ⟨23, 16, .ro, 0⟩, ⟨11, 11, .ro, 0⟩, ⟨10, 10, .ro, 0⟩, ⟨9, 9, .ro, 0⟩, ⟨8, 8, .ro, 0⟩,
       ⟨7, 7, .ro, 0⟩, ⟨6, 6, .ro, 0⟩, ⟨3, 0, .ro, 0⟩]⟩
  | .HWD_ROLLBACK => ⟨0x40020, [], [⟨63, 63, .ro, 0⟩, ⟨9, 0, .ro, 0⟩]⟩ -- R647
  | .HWD_LMS_INDEX => ⟨0x40028, [], [⟨63, 63, .ro, 0⟩, ⟨20, 0, .ro, 0⟩]⟩ -- R647
  | .HWD_PROV_SEQ => ⟨0x40030, [], [⟨63, 32, .ro, 0⟩, ⟨31, 0, .ro, 0⟩]⟩ -- R648
  | .HWD_MEASURE => ⟨0x40100, [(8, 0x30), (6, 0x8)], [⟨63, 0, .ro, 0⟩]⟩ -- R648
  | .HWD_FAULT_LAST => ⟨0x40400, [], -- R649
      [⟨63, 56, .ro, 0⟩, ⟨55, 52, .ro, 0⟩, ⟨51, 51, .ro, 0⟩, ⟨23, 16, .ro, 0⟩, ⟨15, 0, .ro, 0⟩]⟩
  | .HLK_LINK_STATUS => ⟨0x50000, [(3, 0x100)], -- R92
      [⟨39, 32, .ro, 0⟩, ⟨31, 24, .ro, 0⟩, ⟨23, 16, .ro, 0⟩, ⟨7, 0, .ro, 0⟩]⟩
  | .HLK_REPLAY_COUNT => ⟨0x50008, [(3, 0x100)], statFields⟩ -- R93
  | .HLK_QBASE => ⟨0x51000, [(128, 0x40)], [⟨40, 6, .rw, 0⟩]⟩ -- R106
  | .HLK_QCBASE => ⟨0x51008, [(128, 0x40)], [⟨40, 6, .rw, 0⟩]⟩ -- R107
  | .HLK_QCFG => ⟨0x51010, [(128, 0x40)], -- R108
      [⟨63, 63, .rw, 0⟩, ⟨52, 48, .rw, 0⟩, ⟨44, 40, .rw, 0⟩, ⟨35, 32, .rw, 0⟩, ⟨4, 4, .rw, 0⟩, ⟨3, 0, .rw, 0⟩]⟩
  | .HLK_QDOORBELL => ⟨0x51018, [(128, 0x40)], [⟨63, 32, .wo, 0⟩, ⟨31, 0, .wo, 0⟩]⟩ -- R109
  | .HLK_QSTATUS => ⟨0x51020, [(128, 0x40)], [⟨47, 40, .ro, 0⟩, ⟨32, 32, .ro, 0⟩, ⟨31, 0, .ro, 0⟩]⟩ -- R110
  | .GRV_BATCH_ADDR => ⟨0x100000, [], [⟨40, 6, .rw, 0⟩]⟩ -- R59
  | .GRV_LOAD => ⟨0x100008, [], [⟨7, 7, .wo, 0⟩, ⟨5, 0, .rw, 0⟩]⟩ -- R60
  | .GRV_LOAD_STATUS => ⟨0x100010, [], -- R61
      [⟨47, 32, .ro, 0⟩, ⟨31, 24, .ro, 0⟩, ⟨15, 8, .ro, 0⟩, ⟨1, 1, .w1c, 0⟩, ⟨0, 0, .ro, 0⟩]⟩
  | .GRV_GEN => ⟨0x100100, [(2, 0x80000), (16, 0x8)], -- R76
      [⟨63, 32, .ro, 0⟩, ⟨17, 17, .ro, 0⟩, ⟨16, 16, .ro, 0⟩, ⟨15, 0, .ro, 0⟩]⟩
  | .GRV_STALE_COUNT => ⟨0x100200, [(2, 0x80000)], [⟨63, 63, .w1c, 0⟩, ⟨47, 0, .ro, 0⟩]⟩ -- R77
  | .GRV_STALE_LAST => ⟨0x100208, [(2, 0x80000)], [⟨47, 33, .ro, 0⟩, ⟨19, 4, .ro, 0⟩, ⟨3, 0, .ro, 0⟩]⟩ -- R78
  | .GRV_HELD => ⟨0x100300, [(2, 0x80000), (16, 0x8)], statFields⟩ -- R83
  | .GRV_BUDGET => ⟨0x101000, [(2, 0x80000), (16, 0x40), (8, 0x8)], [⟨33, 32, .rw, 0⟩, ⟨30, 0, .rw, 0⟩]⟩ -- R82
  | .SCH_DEPTH => ⟨0x200000, [(128, 0x1000)], -- R145
      [⟨58, 48, .ro, 0⟩, ⟨42, 32, .ro, 0⟩, ⟨26, 16, .ro, 0⟩, ⟨10, 0, .ro, 0⟩]⟩
  | .SCH_CLEAR => ⟨0x200008, [(128, 0x1000)], [⟨1, 1, .wo, 0⟩, ⟨0, 0, .wo, 0⟩]⟩ -- R146
  | .SCH_BUSY => ⟨0x200040, [(128, 0x1000), (4, 0x8)], statFields⟩ -- R147
  | .SCH_STARVE => ⟨0x200060, [(128, 0x1000), (4, 0x8)], statFields⟩ -- R147
  | .SCH_WAIT_CYC => ⟨0x200080, [(128, 0x1000)], statFields⟩ -- R147
  | .SCH_CREDIT_STALL => ⟨0x200088, [(128, 0x1000)], statFields⟩ -- R147
  | .SCH_DISPATCHED => ⟨0x200090, [(128, 0x1000)], statFields⟩ -- R147
  | .SCH_HOLD_CYC => ⟨0x200098, [(128, 0x1000)], statFields⟩ -- R147
  | .SCH_FAULTED => ⟨0x280000, [(2, 0x40000)], [⟨15, 0, .w1c, 0⟩]⟩ -- R148
  | .SCH_FLOW_SEL => ⟨0x280008, [(2, 0x40000)], [⟨15, 12, .rw, 0⟩, ⟨11, 0, .rw, 0⟩]⟩ -- R149
  | .SCH_FLOW_STATE => ⟨0x280010, [(2, 0x40000)], [⟨45, 32, .ro, 0⟩, ⟨31, 0, .ro, 0⟩]⟩ -- R149
  | .SCH_KNOT_OVF => ⟨0x280020, [(2, 0x40000)], statFields⟩ -- R147
  | .SCH_DISCARDED => ⟨0x280028, [(2, 0x40000)], statFields⟩ -- R147
  | .KNT_STATE0 => ⟨0x300000, [(2, 0x80000), (8192, 0x40)], [⟨63, 32, .ro, 0⟩, ⟨31, 0, .ro, 0⟩]⟩ -- R134
  | .KNT_STATE1 => ⟨0x300008, [(2, 0x80000), (8192, 0x40)], -- R134
      [⟨26, 26, .ro, 0⟩, ⟨25, 25, .ro, 0⟩, ⟨24, 24, .ro, 0⟩, ⟨23, 8, .ro, 0⟩, ⟨7, 4, .ro, 0⟩, ⟨3, 0, .ro, 0⟩]⟩
  | .KNT_VIEW => ⟨0x300010, [(2, 0x80000), (8192, 0x40)], -- R138
      [⟨63, 63, .ro, 0⟩, ⟨32, 32, .ro, 0⟩, ⟨31, 0, .ro, 0⟩]⟩
  | .KNT_SIGNAL => ⟨0x300018, [(2, 0x80000), (8192, 0x40)], [⟨31, 0, .wo, 0⟩]⟩ -- R138
  | .KNT_INIT_TYPE => ⟨0x300020, [(2, 0x80000), (8192, 0x40)], [⟨8, 8, .wo, 0⟩, ⟨3, 0, .wo, 0⟩]⟩ -- R138
  | .KNT_INIT => ⟨0x300028, [(2, 0x80000), (8192, 0x40)], [⟨63, 32, .wo, 0⟩, ⟨31, 0, .wo, 0⟩]⟩ -- R138
  | .COL_STEP => ⟨0x400000, [(2, 0x80000), (16, 0x8)], [⟨58, 56, .ro, 0⟩, ⟨55, 48, .ro, 0⟩, ⟨47, 0, .ro, 0⟩]⟩ -- R495
  | .COL_HIST_MERGE => ⟨0x400100, [(2, 0x80000), (16, 0x8)], [⟨63, 63, .rw, 0⟩, ⟨40, 6, .rw, 0⟩]⟩ -- R496
  | .COL_HIST_REC => ⟨0x400180, [(2, 0x80000), (16, 0x8)], [⟨63, 63, .rw, 0⟩, ⟨40, 6, .rw, 0⟩]⟩ -- R496
  | .COL_TALLY_RING => ⟨0x400200, [(2, 0x80000), (16, 0x8)], -- R497
      [⟨63, 63, .rw, 0⟩, ⟨60, 56, .rw, 0⟩, ⟨40, 6, .rw, 0⟩]⟩
  | .COL_TALLY_HEAD => ⟨0x400280, [(2, 0x80000), (16, 0x8)], [⟨31, 0, .ro, 0⟩]⟩ -- R497
  | .COL_SENT => ⟨0x400300, [(2, 0x80000)], statFields⟩ -- R498
  | .COL_APPLIED => ⟨0x400308, [(2, 0x80000)], statFields⟩ -- R498
  | .COL_LATE => ⟨0x400310, [(2, 0x80000)], statFields⟩ -- R498
  | .COL_REPEAT => ⟨0x400318, [(2, 0x80000)], statFields⟩ -- R498
  | .COL_RETRY => ⟨0x400320, [(2, 0x80000)], statFields⟩ -- R498
  | .COL_ABANDONED => ⟨0x400328, [(2, 0x80000)], statFields⟩ -- R498
  | .COL_PARTIAL => ⟨0x400330, [(2, 0x80000)], statFields⟩ -- R498
  | .COL_STALE_ATTEMPT => ⟨0x400338, [(2, 0x80000)], statFields⟩ -- R498
  | .COL_NOT_OWNER => ⟨0x400340, [(2, 0x80000)], statFields⟩ -- R498
  | .COL_B8_SAT => ⟨0x400348, [(2, 0x80000)], statFields⟩ -- R498
  | .COL_B8_NAN => ⟨0x400350, [(2, 0x80000)], statFields⟩ -- R498
  | .COL_SHORT => ⟨0x400358, [(2, 0x80000)], statFields⟩ -- R498
  | .COL_PIECES => ⟨0x400360, [(2, 0x80000)], statFields⟩ -- R498
  | .COL_VOID_RX => ⟨0x400368, [(2, 0x80000)], statFields⟩ -- R498
  | .COL_FAULT_LAST => ⟨0x400400, [(2, 0x80000)], -- R499
      [⟨63, 56, .ro, 0⟩, ⟨55, 52, .ro, 0⟩, ⟨51, 40, .ro, 0⟩, ⟨39, 15, .ro, 0⟩, ⟨14, 0, .ro, 0⟩]⟩
  | .UPD_ROWBUF => ⟨0x500000, [(2, 0x80000), (16, 0x8)], -- R514
      [⟨63, 63, .rw, 0⟩, ⟨60, 56, .rw, 0⟩, ⟨40, 6, .rw, 0⟩]⟩
  | .UPD_STATE => ⟨0x500080, [(2, 0x80000), (16, 0x8)], [⟨58, 56, .ro, 0⟩, ⟨55, 32, .ro, 0⟩, ⟨23, 0, .ro, 0⟩]⟩ -- R515
  | .UPD_ELEMS => ⟨0x500200, [(2, 0x80000)], statFields⟩ -- R516
  | .UPD_ROWS => ⟨0x500208, [(2, 0x80000)], statFields⟩ -- R516
  | .UPD_EMPTY => ⟨0x500210, [(2, 0x80000)], statFields⟩ -- R516
  | .UPD_NONFINITE => ⟨0x500218, [(2, 0x80000)], statFields⟩ -- R516
  | .UPD_STAGED => ⟨0x500220, [(2, 0x80000)], statFields⟩ -- R516
  | .UPD_DIRECT => ⟨0x500228, [(2, 0x80000)], statFields⟩ -- R516
  | .UPD_PROBES => ⟨0x500230, [(2, 0x80000)], statFields⟩ -- R516
  | .UPD_FAULT_LAST => ⟨0x500400, [(2, 0x80000)], -- R517
      [⟨63, 56, .ro, 0⟩, ⟨55, 52, .ro, 0⟩, ⟨51, 51, .ro, 0⟩, ⟨47, 36, .ro, 0⟩, ⟨23, 0, .ro, 0⟩]⟩
  | .KLN_STATE => ⟨0x600000, [(16, 0x8)], -- R581
      [⟨58, 56, .ro, 0⟩, ⟨53, 53, .ro, 0⟩, ⟨52, 52, .ro, 0⟩, ⟨51, 50, .ro, 0⟩, ⟨47, 0, .ro, 0⟩]⟩
  | .KLN_PROGRESS => ⟨0x600080, [(16, 0x8)], [⟨63, 32, .ro, 0⟩, ⟨31, 0, .ro, 0⟩]⟩ -- R582
  | .KLN_LAST => ⟨0x600100, [(16, 0x8)], -- R583
      [⟨63, 63, .ro, 0⟩, ⟨62, 62, .ro, 0⟩, ⟨49, 48, .ro, 0⟩, ⟨47, 0, .ro, 0⟩]⟩
  | .KLN_PAGES => ⟨0x600200, [(2, 0x80000)], statFields⟩ -- R584
  | .KLN_TOUCHES => ⟨0x600208, [(2, 0x80000)], statFields⟩ -- R584
  | .KLN_HELD_CYC => ⟨0x600210, [(2, 0x80000)], statFields⟩ -- R584
  | .KLN_DRAINED => ⟨0x600218, [(2, 0x80000)], statFields⟩ -- R584
  | .KLN_ABORTS => ⟨0x600220, [(2, 0x80000)], statFields⟩ -- R584
  | .KLN_DIGEST_FAIL => ⟨0x600228, [(2, 0x80000)], statFields⟩ -- R584
  | .KLN_FAULT_LAST => ⟨0x600400, [(2, 0x80000)], -- R585
      [⟨63, 56, .ro, 0⟩, ⟨55, 52, .ro, 0⟩, ⟨51, 51, .ro, 0⟩, ⟨50, 49, .ro, 0⟩, ⟨47, 0, .ro, 0⟩]⟩
  | .SMP_PROG_STATUS => ⟨0x1000000, [(2, 0x800000), (32, 0x8)], -- R217
      [⟨53, 33, .ro, 0⟩, ⟨32, 12, .ro, 0⟩, ⟨7, 4, .ro, 0⟩, ⟨3, 0, .ro, 0⟩]⟩
  | .SMP_LANE_BUSY => ⟨0x1000200, [(2, 0x800000), (16, 0x8)], statFields⟩ -- R218
  | .SMP_EDGES => ⟨0x1000300, [(2, 0x800000)], statFields⟩ -- R218
  | .SMP_REMOTE_REQ => ⟨0x1000308, [(2, 0x800000)], statFields⟩ -- R218
  | .SMP_REMOTE_RETRY => ⟨0x1000310, [(2, 0x800000)], statFields⟩ -- R218
  | .SMP_SHORT => ⟨0x1000318, [(2, 0x800000)], statFields⟩ -- R218
  | .SMP_REJECT => ⟨0x1000320, [(2, 0x800000)], statFields⟩ -- R218
  | .SMP_FAULT_LAST => ⟨0x1000400, [(2, 0x800000)], -- R219
      [⟨63, 56, .ro, 0⟩, ⟨55, 52, .ro, 0⟩, ⟨51, 47, .ro, 0⟩, ⟨46, 44, .ro, 0⟩, ⟨43, 24, .ro, 0⟩,
       ⟨23, 0, .ro, 0⟩]⟩
  | .GTH_MERGE_QUOTA => ⟨0x1010000, [(2, 0x800000), (16, 0x8)], [⟨16, 0, .rw, 0x1000⟩]⟩ -- R245
  | .GTH_MERGE_USE => ⟨0x1010080, [(2, 0x800000), (16, 0x8)], [⟨48, 32, .ro, 0⟩, ⟨16, 0, .ro, 0⟩]⟩ -- R246
  | .GTH_WAIT => ⟨0x1010100, [(2, 0x800000)], [⟨8, 0, .ro, 0⟩]⟩ -- R247
  | .GTH_ROWS => ⟨0x1010200, [(2, 0x800000)], statFields⟩ -- R248
  | .GTH_DEDUP => ⟨0x1010208, [(2, 0x800000)], statFields⟩ -- R248
  | .GTH_REMOTE_READ => ⟨0x1010210, [(2, 0x800000)], statFields⟩ -- R248
  | .GTH_REMOTE_RETRY => ⟨0x1010218, [(2, 0x800000)], statFields⟩ -- R248
  | .GTH_CONTRIB => ⟨0x1010220, [(2, 0x800000)], statFields⟩ -- R248
  | .GTH_ACC_SENT => ⟨0x1010228, [(2, 0x800000)], statFields⟩ -- R248
  | .GTH_MERGE_SPILL => ⟨0x1010230, [(2, 0x800000)], statFields⟩ -- R248
  | .GTH_DUP_DROPPED => ⟨0x1010238, [(2, 0x800000)], statFields⟩ -- R248
  | .GTH_CONV_SAT => ⟨0x1010240, [(2, 0x800000)], statFields⟩ -- R248
  | .GTH_CONV_FLUSH => ⟨0x1010248, [(2, 0x800000)], statFields⟩ -- R248
  | .GTH_FAULT_LAST => ⟨0x1010400, [(2, 0x800000)], -- R249
      [⟨63, 56, .ro, 0⟩, ⟨55, 52, .ro, 0⟩, ⟨47, 40, .ro, 0⟩, ⟨39, 24, .ro, 0⟩, ⟨23, 0, .ro, 0⟩]⟩
  | .EMB_TABLE => ⟨0x1020000, [(2, 0x800000), (4096, 0x8)], -- R278
      [⟨63, 32, .ro, 0⟩, ⟨31, 28, .ro, 0⟩, ⟨11, 8, .ro, 0⟩, ⟨7, 4, .ro, 0⟩, ⟨0, 0, .ro, 0⟩]⟩
  | .EMB_ENTRY_QUOTA => ⟨0x1028000, [(2, 0x800000), (16, 0x8)], [⟨18, 0, .rw, 0x4000⟩]⟩ -- R279
  | .EMB_ENTRY_USE => ⟨0x1028080, [(2, 0x800000), (16, 0x8)], [⟨50, 32, .ro, 0⟩, ⟨18, 0, .ro, 0⟩]⟩ -- R280
  | .EMB_STAGE_DIGEST => ⟨0x1028100, [(2, 0x800000), (16, 0x8)], [⟨63, 0, .ro, 0⟩]⟩ -- R281
  | .EMB_STAGE_STATE => ⟨0x1028180, [(2, 0x800000), (16, 0x8)], -- R281
      [⟨42, 32, .ro, 0⟩, ⟨1, 1, .ro, 0⟩, ⟨0, 0, .ro, 0⟩]⟩
  | .EMB_LOOKUP_SCION => ⟨0x1028200, [(2, 0x800000)], statFields⟩ -- R282
  | .EMB_LOOKUP_GRAFT => ⟨0x1028208, [(2, 0x800000)], statFields⟩ -- R282
  | .EMB_LOOKUP_HASH => ⟨0x1028210, [(2, 0x800000)], statFields⟩ -- R282
  | .EMB_SCION_FALLBACK => ⟨0x1028218, [(2, 0x800000)], statFields⟩ -- R282
  | .EMB_HELD_READ => ⟨0x1028220, [(2, 0x800000)], statFields⟩ -- R282
  | .EMB_FORWARDED => ⟨0x1028228, [(2, 0x800000)], statFields⟩ -- R282
  | .EMB_LATE => ⟨0x1028230, [(2, 0x800000)], statFields⟩ -- R282
  | .EMB_STAGE_HELD => ⟨0x1028238, [(2, 0x800000)], statFields⟩ -- R282
  | .EMB_CANCELLED_COUNT => ⟨0x1028240, [(2, 0x800000)], statFields⟩ -- R282
  | .EMB_FAULT_LAST => ⟨0x1028400, [(2, 0x800000)], [⟨63, 56, .ro, 0⟩, ⟨55, 52, .ro, 0⟩, ⟨47, 0, .ro, 0⟩]⟩ -- R283
  | .MEM_CH_STATE => ⟨0x2000000, [(2, 0x800000), (240, 0x1000)], -- R416
      [⟨48, 40, .ro, 0⟩, ⟨34, 30, .ro, 0x1F⟩, ⟨29, 25, .ro, 0x1F⟩, ⟨21, 20, .ro, 0⟩, ⟨19, 19, .ro, 0⟩,
       ⟨18, 18, .ro, 0⟩, ⟨17, 16, .ro, 0⟩, ⟨7, 4, .ro, 0⟩]⟩
  | .MEM_SCRUB => ⟨0x2000008, [(2, 0x800000), (240, 0x1000)], [⟨32, 32, .ro, 0⟩, ⟨25, 0, .ro, 0⟩]⟩ -- R417
  | .MEM_D1_SPARE => ⟨0x2000010, [(2, 0x800000), (240, 0x1000)], -- R418
      [⟨15, 15, .ro, 0⟩, ⟨12, 8, .ro, 0⟩, ⟨7, 0, .ro, 0xD1⟩]⟩
  | .MEM_ECC_LAST => ⟨0x2000018, [(2, 0x800000), (240, 0x1000)], -- R419
      [⟨63, 63, .ro, 0⟩, ⟨62, 58, .ro, 0⟩, ⟨57, 42, .ro, 0⟩, ⟨41, 38, .ro, 0⟩, ⟨37, 33, .ro, 0⟩]⟩
  | .MEM_ECC_CORR => ⟨0x2000200, [(2, 0x800000), (240, 0x1000)], statFields⟩ -- R420
  | .MEM_ECC_UE => ⟨0x2000208, [(2, 0x800000), (240, 0x1000)], statFields⟩ -- R420
  | .MEM_WCB_RMW => ⟨0x2000210, [(2, 0x800000), (240, 0x1000)], statFields⟩ -- R420
  | .MEM_ACC_LINES => ⟨0x2000218, [(2, 0x800000), (240, 0x1000)], statFields⟩ -- R420
  | .MEM_ACC_SAT => ⟨0x2000220, [(2, 0x800000), (240, 0x1000)], statFields⟩ -- R420
  | .MEM_ROW_REMAP => ⟨0x2000228, [(2, 0x800000), (240, 0x1000)], statFields⟩ -- R420
  | .MEM_MAPOUT => ⟨0x2100000, [(2, 0x800000)], [⟨63, 63, .wo, 0⟩, ⟨24, 16, .rw, 0⟩, ⟨8, 0, .rw, 0⟩]⟩ -- R421
  | .MEM_MAPOUT_STATUS => ⟨0x2100008, [(2, 0x800000)], -- R422
      [⟨47, 24, .ro, 0⟩, ⟨23, 16, .ro, 0⟩, ⟨15, 8, .ro, 0⟩, ⟨1, 1, .w1c, 0⟩, ⟨0, 0, .ro, 0⟩]⟩
  | .MEM_REPAIR_CMD => ⟨0x2100010, [(2, 0x800000)], -- R423
      [⟨63, 63, .wo, 0⟩, ⟨58, 56, .rw, 0⟩, ⟨55, 47, .rw, 0⟩, ⟨46, 43, .rw, 0⟩, ⟨42, 27, .rw, 0⟩,
       ⟨15, 8, .rw, 0⟩, ⟨7, 0, .rw, 0⟩]⟩
  | .MEM_REPAIR_STATUS => ⟨0x2100018, [(2, 0x800000)], -- R424
      [⟨63, 48, .ro, 0⟩, ⟨47, 32, .ro, 0⟩, ⟨23, 16, .ro, 0⟩, ⟨15, 8, .ro, 0⟩, ⟨1, 1, .w1c, 0⟩, ⟨0, 0, .ro, 0⟩]⟩
  | .MEM_REMAP_POLICY => ⟨0x2100020, [(2, 0x800000)], [⟨8, 8, .rw, 0x1⟩, ⟨3, 0, .rw, 0x2⟩]⟩ -- R425
  | .MEM_CHMAP_SET => ⟨0x2100028, [(2, 0x800000)], [⟨31, 31, .wo, 0⟩, ⟨24, 16, .wo, 0⟩, ⟨8, 0, .wo, 0⟩]⟩ -- R426
  | .MEM_STACK_TEMP => ⟨0x2100040, [(2, 0x800000), (6, 0x8)], [⟨25, 24, .ro, 0⟩, ⟨15, 0, .ro, 0⟩]⟩ -- R427
  | .LNK_PORT_CFG_T => ⟨0x3000000, [(2, 0x800000), (3, 0x10000)], -- R455
      [⟨63, 63, .rw, 0⟩, ⟨55, 48, .rw, 0x4⟩, ⟨39, 32, .rw, 0⟩, ⟨27, 24, .rw, 0x1⟩, ⟨18, 16, .rw, 0x1⟩,
       ⟨1, 1, .rw, 0⟩, ⟨0, 0, .wo, 0⟩]⟩
  | .LNK_PORT_STATUS_T => ⟨0x3000008, [(2, 0x800000), (3, 0x10000)], -- R456
      [⟨63, 63, .ro, 0⟩, ⟨62, 48, .ro, 0⟩, ⟨47, 46, .ro, 0⟩, ⟨43, 40, .ro, 0⟩, ⟨35, 32, .ro, 0⟩,
       ⟨7, 0, .ro, 0⟩]⟩
  | .LNK_LANE_STATE_T => ⟨0x3000010, [(2, 0x800000), (3, 0x10000)], [⟨31, 0, .ro, 0⟩]⟩ -- R457
  | .LNK_CREDIT_CFG_T => ⟨0x3000018, [(2, 0x800000), (3, 0x10000)], -- R458
      [⟨59, 48, .rw, 0x380⟩, ⟨43, 32, .rw, 0x200⟩, ⟨27, 16, .rw, 0x200⟩, ⟨11, 0, .rw, 0x80⟩]⟩
  | .LNK_TX_FLITS_T => ⟨0x3000200, [(2, 0x800000), (3, 0x10000)], statFields⟩ -- R459
  | .LNK_RX_FLITS_T => ⟨0x3000208, [(2, 0x800000), (3, 0x10000)], statFields⟩ -- R459
  | .LNK_FEC_CORR_T => ⟨0x3000210, [(2, 0x800000), (3, 0x10000)], statFields⟩ -- R459
  | .LNK_FEC_UNCORR_T => ⟨0x3000218, [(2, 0x800000), (3, 0x10000)], statFields⟩ -- R459
  | .LNK_CRC_ERR_T => ⟨0x3000220, [(2, 0x800000), (3, 0x10000)], statFields⟩ -- R459
  | .LNK_REPLAY_T => ⟨0x3000228, [(2, 0x800000), (3, 0x10000)], statFields⟩ -- R459
  | .LNK_RETRAIN_T => ⟨0x3000230, [(2, 0x800000), (3, 0x10000)], statFields⟩ -- R459
  | .LNK_CREDIT_STALL_T => ⟨0x3000238, [(2, 0x800000), (3, 0x10000)], statFields⟩ -- R459
  | .LNK_FWD_T => ⟨0x3000240, [(2, 0x800000), (3, 0x10000)], statFields⟩ -- R459
  | .LNK_REVERSE_T => ⟨0x3000248, [(2, 0x800000), (3, 0x10000)], statFields⟩ -- R459
  | .LNK_LOST_T => ⟨0x3000250, [(2, 0x800000), (3, 0x10000)], statFields⟩ -- R459
  | .LNK_PORT_CFG_B => ⟨0x3100000, [(2, 0x800000), (8, 0x10000)], -- R455
      [⟨63, 63, .rw, 0⟩, ⟨55, 48, .rw, 0x4⟩, ⟨39, 32, .rw, 0⟩, ⟨27, 24, .rw, 0x1⟩, ⟨18, 16, .rw, 0x1⟩,
       ⟨1, 1, .rw, 0⟩, ⟨0, 0, .wo, 0⟩]⟩
  | .LNK_PORT_STATUS_B => ⟨0x3100008, [(2, 0x800000), (8, 0x10000)], -- R456
      [⟨63, 63, .ro, 0⟩, ⟨62, 48, .ro, 0⟩, ⟨47, 46, .ro, 0⟩, ⟨43, 40, .ro, 0⟩, ⟨35, 32, .ro, 0⟩,
       ⟨7, 0, .ro, 0⟩]⟩
  | .LNK_LANE_STATE_B => ⟨0x3100010, [(2, 0x800000), (8, 0x10000)], [⟨31, 0, .ro, 0⟩]⟩ -- R457
  | .LNK_CREDIT_CFG_B => ⟨0x3100018, [(2, 0x800000), (8, 0x10000)], -- R458
      [⟨59, 48, .rw, 0x1C0⟩, ⟨43, 32, .rw, 0x100⟩, ⟨27, 16, .rw, 0x100⟩, ⟨11, 0, .rw, 0x40⟩]⟩
  | .LNK_TX_FLITS_B => ⟨0x3100200, [(2, 0x800000), (8, 0x10000)], statFields⟩ -- R459
  | .LNK_RX_FLITS_B => ⟨0x3100208, [(2, 0x800000), (8, 0x10000)], statFields⟩ -- R459
  | .LNK_FEC_CORR_B => ⟨0x3100210, [(2, 0x800000), (8, 0x10000)], statFields⟩ -- R459
  | .LNK_FEC_UNCORR_B => ⟨0x3100218, [(2, 0x800000), (8, 0x10000)], statFields⟩ -- R459
  | .LNK_CRC_ERR_B => ⟨0x3100220, [(2, 0x800000), (8, 0x10000)], statFields⟩ -- R459
  | .LNK_REPLAY_B => ⟨0x3100228, [(2, 0x800000), (8, 0x10000)], statFields⟩ -- R459
  | .LNK_RETRAIN_B => ⟨0x3100230, [(2, 0x800000), (8, 0x10000)], statFields⟩ -- R459
  | .LNK_CREDIT_STALL_B => ⟨0x3100238, [(2, 0x800000), (8, 0x10000)], statFields⟩ -- R459
  | .LNK_FWD_B => ⟨0x3100240, [(2, 0x800000), (8, 0x10000)], statFields⟩ -- R459
  | .LNK_REVERSE_B => ⟨0x3100248, [(2, 0x800000), (8, 0x10000)], statFields⟩ -- R459
  | .LNK_LOST_B => ⟨0x3100250, [(2, 0x800000), (8, 0x10000)], statFields⟩ -- R459
  | .LNK_TORUS => ⟨0x3400000, [(2, 0x800000)], -- R460
      [⟨63, 63, .rw, 0⟩, ⟨21, 16, .rw, 0⟩, ⟨13, 8, .rw, 0⟩, ⟨5, 0, .rw, 0⟩]⟩
  | .LNK_BUNDLE => ⟨0x3400008, [(2, 0x800000)], [⟨47, 0, .rw, 0⟩]⟩ -- R461
  | .LNK_STANDIN => ⟨0x3400040, [(2, 0x800000), (3, 0x8)], -- R462
      [⟨63, 63, .rw, 0⟩, ⟨62, 62, .ro, 0⟩, ⟨46, 32, .rw, 0⟩, ⟨5, 4, .rw, 0⟩, ⟨3, 0, .rw, 0⟩]⟩
  | .LNK_FAULT_LAST => ⟨0x3400400, [(2, 0x800000)], -- R463
      [⟨63, 56, .ro, 0⟩, ⟨55, 52, .ro, 0⟩, ⟨51, 51, .ro, 0⟩, ⟨50, 48, .ro, 0⟩, ⟨14, 0, .ro, 0⟩]⟩
  | .TIL_INFO => ⟨0x10000000, [(128, 0x100000)], -- R312
      [⟨31, 24, .ro, 0⟩, ⟨23, 16, .ro, 0⟩, ⟨15, 8, .ro, 0⟩, ⟨7, 7, .ro, 0⟩, ⟨6, 0, .ro, 0⟩]⟩
  | .TIL_STATUS => ⟨0x10000008, [(128, 0x100000)], -- R313
      [⟨31, 16, .ro, 0⟩, ⟨7, 4, .ro, 0⟩, ⟨3, 3, .ro, 0⟩, ⟨2, 2, .ro, 0⟩, ⟨1, 1, .ro, 0⟩, ⟨0, 0, .ro, 0⟩]⟩
  | .TIL_ABFT_TOL => ⟨0x10000100, [(128, 0x100000)], [⟨12, 8, .rw, 0x10⟩, ⟨4, 0, .rw, 0xC⟩]⟩ -- R314
  | .TIL_ABFT_ABS => ⟨0x10000108, [(128, 0x100000)], [⟨30, 0, .rw, 0x800000⟩]⟩ -- R315
  | .TIL_ABFT_WHERE => ⟨0x10000110, [(128, 0x100000)], -- R316
      [⟨63, 54, .ro, 0⟩, ⟨53, 53, .ro, 0⟩, ⟨52, 52, .ro, 0⟩, ⟨51, 38, .ro, 0⟩, ⟨37, 22, .ro, 0⟩,
       ⟨15, 0, .ro, 0⟩]⟩
  | .TIL_ABFT_VALUES => ⟨0x10000118, [(128, 0x100000)], [⟨63, 32, .ro, 0⟩, ⟨31, 0, .ro, 0⟩]⟩ -- R317
  | .TIL_ABFT_CHECKS => ⟨0x10000200, [(128, 0x100000)], statFields⟩ -- R318
  | .TIL_ABFT_MISMATCH => ⟨0x10000208, [(128, 0x100000)], statFields⟩ -- R318
  | .TIL_ABFT_NONFINITE => ⟨0x10000210, [(128, 0x100000)], statFields⟩ -- R318
  | .TIL_ABFT_OFF => ⟨0x10000218, [(128, 0x100000)], statFields⟩ -- R318
  | .TIL_L8_INEXACT => ⟨0x10000220, [(128, 0x100000)], statFields⟩ -- R318
  | .TIL_CONV_SAT => ⟨0x10000228, [(128, 0x100000)], statFields⟩ -- R318
  | .TIL_CONV_FLUSH => ⟨0x10000230, [(128, 0x100000)], statFields⟩ -- R318
  | .TIL_ARRAY_CYC => ⟨0x10000238, [(128, 0x100000)], statFields⟩ -- R318
  | .TIL_DMA_BYTES => ⟨0x10000240, [(128, 0x100000)], statFields⟩ -- R318
  | .TIL_FAULT_LAST => ⟨0x10000400, [(128, 0x100000)], -- R319
      [⟨63, 56, .ro, 0⟩, ⟨55, 52, .ro, 0⟩, ⟨51, 42, .ro, 0⟩, ⟨31, 0, .ro, 0⟩]⟩
  | .SPX_ECC_CORR => ⟨0x10040000, [(128, 0x100000)], statFields⟩ -- R318
  | .SPX_CONFLICT => ⟨0x10040010, [(128, 0x100000)], statFields⟩ -- R318
  | .SPX_ECC_LAST => ⟨0x10040008, [(128, 0x100000)], [⟨24, 6, .ro, 0⟩, ⟨5, 3, .ro, 0⟩, ⟨0, 0, .ro, 0⟩]⟩ -- R320
  | .SVU_STATUS => ⟨0x10080000, [(128, 0x100000)], -- R342
      [⟨58, 42, .ro, 0⟩, ⟨41, 25, .ro, 0⟩, ⟨9, 9, .ro, 0⟩, ⟨8, 8, .ro, 0⟩, ⟨0, 0, .ro, 0⟩]⟩
  | .SVU_ELEMS => ⟨0x10080200, [(128, 0x100000)], statFields⟩ -- R343
  | .SVU_FN => ⟨0x10080208, [(128, 0x100000)], statFields⟩ -- R343
  | .SVU_PORT_STALL => ⟨0x10080210, [(128, 0x100000)], statFields⟩ -- R343
  | .SVU_CONV_SAT => ⟨0x10080218, [(128, 0x100000)], statFields⟩ -- R343
  | .SVU_CONV_FLUSH => ⟨0x10080220, [(128, 0x100000)], statFields⟩ -- R343
  | .SVU_FAULT_LAST => ⟨0x10080400, [(128, 0x100000)], -- R344
      [⟨63, 56, .ro, 0⟩, ⟨55, 52, .ro, 0⟩, ⟨51, 42, .ro, 0⟩, ⟨39, 32, .ro, 0⟩, ⟨31, 0, .ro, 0⟩]⟩
  | .SMU_STATUS => ⟨0x100C0000, [(128, 0x100000)], [⟨41, 25, .ro, 0⟩, ⟨24, 12, .ro, 0⟩, ⟨0, 0, .ro, 0⟩]⟩ -- R366
  | .SMU_PRODUCTS => ⟨0x100C0200, [(128, 0x100000)], statFields⟩ -- R367
  | .SMU_OVERFLOW_USE => ⟨0x100C0208, [(128, 0x100000)], statFields⟩ -- R367
  | .SMU_CONV_SAT => ⟨0x100C0210, [(128, 0x100000)], statFields⟩ -- R367
  | .SMU_CONV_FLUSH => ⟨0x100C0218, [(128, 0x100000)], statFields⟩ -- R367
  | .SPARSE_NZ_READ => ⟨0x100C0220, [(128, 0x100000)], statFields⟩ -- R367
  | .SPARSE_SPLIT => ⟨0x100C0228, [(128, 0x100000)], statFields⟩ -- R367
  | .DMA_COMPRESSED => ⟨0x100C0230, [(128, 0x100000)], statFields⟩ -- R367
  | .DMA_DENSE_FORM => ⟨0x100C0238, [(128, 0x100000)], statFields⟩ -- R367
  | .SMU_FAULT_LAST => ⟨0x100C0400, [(128, 0x100000)], -- R368
      [⟨63, 56, .ro, 0⟩, ⟨55, 52, .ro, 0⟩, ⟨51, 42, .ro, 0⟩, ⟨35, 32, .ro, 0⟩, ⟨31, 0, .ro, 0⟩]⟩

/-- Every register, in the order of the window's blocks. -/
def regAll : List Reg :=
  List.flatten [
    [.GLB_IDENT, .GLB_DEVNUM, .GLB_STATUS, .GLB_RECOVER, .CLK_REF_SEL, .CLK_REF_STATUS, .CLK_PLL_STATUS, .CLK_FAILOVER],
    [.CLK_QUAL_RESTART, .CLK_UNLOCK, .CLK_FAULT_LAST, .PWR_OP_REQ, .PWR_OP_STATE, .PWR_CAP, .PWR_INPUT, .PWR_DIE_TEMP],
    [.PWR_THERM_CFG, .PWR_SMOULDER, .PWR_RAIL_STATUS, .PWR_TRANSITIONS, .PWR_CLAMP_US, .PWR_CAP_US, .PWR_DROOP, .PWR_FAULT_LAST],
    [.WCH_LOG_HEAD, .WCH_LOG_TAIL, .WCH_LOG_STATE, .WCH_NOTIFY, .WCH_REPLAY_CFG, .WCH_SMOKE_CFG, .WCH_FATAL, .WCH_SMOKE],
    [.WCH_LOG_LOST, .WCH_MISMATCH, .WCH_RECOMPUTE_FAIL, .WCH_VOID_SENT, .WCH_REPLAYS, .WCH_EXCLUDED, .WCH_FT_RUN, .WCH_FT_FAIL],
    [.WCH_TILE, .WCH_TILE_CTL, .WCH_LOG, .HWD_MBOX_CMD, .HWD_MBOX_ARG, .HWD_MBOX_STATUS, .HWD_BOOT_STATUS, .HWD_ROLLBACK],
    [.HWD_LMS_INDEX, .HWD_PROV_SEQ, .HWD_MEASURE, .HWD_FAULT_LAST, .HLK_LINK_STATUS, .HLK_REPLAY_COUNT, .HLK_QBASE, .HLK_QCBASE],
    [.HLK_QCFG, .HLK_QDOORBELL, .HLK_QSTATUS, .GRV_BATCH_ADDR, .GRV_LOAD, .GRV_LOAD_STATUS, .GRV_GEN, .GRV_STALE_COUNT],
    [.GRV_STALE_LAST, .GRV_HELD, .GRV_BUDGET, .SCH_DEPTH, .SCH_CLEAR, .SCH_BUSY, .SCH_STARVE, .SCH_WAIT_CYC],
    [.SCH_CREDIT_STALL, .SCH_DISPATCHED, .SCH_HOLD_CYC, .SCH_FAULTED, .SCH_FLOW_SEL, .SCH_FLOW_STATE, .SCH_KNOT_OVF, .SCH_DISCARDED],
    [.KNT_STATE0, .KNT_STATE1, .KNT_VIEW, .KNT_SIGNAL, .KNT_INIT_TYPE, .KNT_INIT, .COL_STEP, .COL_HIST_MERGE],
    [.COL_HIST_REC, .COL_TALLY_RING, .COL_TALLY_HEAD, .COL_SENT, .COL_APPLIED, .COL_LATE, .COL_REPEAT, .COL_RETRY],
    [.COL_ABANDONED, .COL_PARTIAL, .COL_STALE_ATTEMPT, .COL_NOT_OWNER, .COL_B8_SAT, .COL_B8_NAN, .COL_SHORT, .COL_PIECES],
    [.COL_VOID_RX, .COL_FAULT_LAST, .UPD_ROWBUF, .UPD_STATE, .UPD_ELEMS, .UPD_ROWS, .UPD_EMPTY, .UPD_NONFINITE],
    [.UPD_STAGED, .UPD_DIRECT, .UPD_PROBES, .UPD_FAULT_LAST, .KLN_STATE, .KLN_PROGRESS, .KLN_LAST, .KLN_PAGES],
    [.KLN_TOUCHES, .KLN_HELD_CYC, .KLN_DRAINED, .KLN_ABORTS, .KLN_DIGEST_FAIL, .KLN_FAULT_LAST, .SMP_PROG_STATUS, .SMP_LANE_BUSY],
    [.SMP_EDGES, .SMP_REMOTE_REQ, .SMP_REMOTE_RETRY, .SMP_SHORT, .SMP_REJECT, .SMP_FAULT_LAST, .GTH_MERGE_QUOTA, .GTH_MERGE_USE],
    [.GTH_WAIT, .GTH_ROWS, .GTH_DEDUP, .GTH_REMOTE_READ, .GTH_REMOTE_RETRY, .GTH_CONTRIB, .GTH_ACC_SENT, .GTH_MERGE_SPILL],
    [.GTH_DUP_DROPPED, .GTH_CONV_SAT, .GTH_CONV_FLUSH, .GTH_FAULT_LAST, .EMB_TABLE, .EMB_ENTRY_QUOTA, .EMB_ENTRY_USE, .EMB_STAGE_DIGEST],
    [.EMB_STAGE_STATE, .EMB_LOOKUP_SCION, .EMB_LOOKUP_GRAFT, .EMB_LOOKUP_HASH, .EMB_SCION_FALLBACK, .EMB_HELD_READ, .EMB_FORWARDED, .EMB_LATE],
    [.EMB_STAGE_HELD, .EMB_CANCELLED_COUNT, .EMB_FAULT_LAST, .MEM_CH_STATE, .MEM_SCRUB, .MEM_D1_SPARE, .MEM_ECC_LAST, .MEM_ECC_CORR],
    [.MEM_ECC_UE, .MEM_WCB_RMW, .MEM_ACC_LINES, .MEM_ACC_SAT, .MEM_ROW_REMAP, .MEM_MAPOUT, .MEM_MAPOUT_STATUS, .MEM_REPAIR_CMD],
    [.MEM_REPAIR_STATUS, .MEM_REMAP_POLICY, .MEM_CHMAP_SET, .MEM_STACK_TEMP, .LNK_PORT_CFG_T, .LNK_PORT_STATUS_T, .LNK_LANE_STATE_T, .LNK_CREDIT_CFG_T],
    [.LNK_TX_FLITS_T, .LNK_RX_FLITS_T, .LNK_FEC_CORR_T, .LNK_FEC_UNCORR_T, .LNK_CRC_ERR_T, .LNK_REPLAY_T, .LNK_RETRAIN_T, .LNK_CREDIT_STALL_T],
    [.LNK_FWD_T, .LNK_REVERSE_T, .LNK_LOST_T, .LNK_PORT_CFG_B, .LNK_PORT_STATUS_B, .LNK_LANE_STATE_B, .LNK_CREDIT_CFG_B, .LNK_TX_FLITS_B],
    [.LNK_RX_FLITS_B, .LNK_FEC_CORR_B, .LNK_FEC_UNCORR_B, .LNK_CRC_ERR_B, .LNK_REPLAY_B, .LNK_RETRAIN_B, .LNK_CREDIT_STALL_B, .LNK_FWD_B],
    [.LNK_REVERSE_B, .LNK_LOST_B, .LNK_TORUS, .LNK_BUNDLE, .LNK_STANDIN, .LNK_FAULT_LAST, .TIL_INFO, .TIL_STATUS],
    [.TIL_ABFT_TOL, .TIL_ABFT_ABS, .TIL_ABFT_WHERE, .TIL_ABFT_VALUES, .TIL_ABFT_CHECKS, .TIL_ABFT_MISMATCH, .TIL_ABFT_NONFINITE, .TIL_ABFT_OFF],
    [.TIL_L8_INEXACT, .TIL_CONV_SAT, .TIL_CONV_FLUSH, .TIL_ARRAY_CYC, .TIL_DMA_BYTES, .TIL_FAULT_LAST, .SPX_ECC_CORR, .SPX_CONFLICT],
    [.SPX_ECC_LAST, .SVU_STATUS, .SVU_ELEMS, .SVU_FN, .SVU_PORT_STALL, .SVU_CONV_SAT, .SVU_CONV_FLUSH, .SVU_FAULT_LAST],
    [.SMU_STATUS, .SMU_PRODUCTS, .SMU_OVERFLOW_USE, .SMU_CONV_SAT, .SMU_CONV_FLUSH, .SPARSE_NZ_READ, .SPARSE_SPLIT, .DMA_COMPRESSED],
    [.DMA_DENSE_FORM, .SMU_FAULT_LAST]]

/-- Whether offset `off` is one of the copies that `dims` lays out from `base`, and its indices. -/
def regIndices : List (Nat × Nat) → Nat → Option (List Nat)
  | [], off => if off = 0 then some [] else none
  | (count, stride) :: ds, off =>
    -- a die or table copy is the outer index: the inner copies lie below its stride, except an interleaved pair
    if off / stride < count then
      (regIndices ds (off % stride)).map fun ix => off / stride :: ix
    else none

/-- The register at an offset of the window, with its indices, or none where no register lies (R13, R38). -/
def regAt (off : Nat) : Option (Reg × List Nat) :=
  regAll.findSome? fun r =>
    if (regDesc r).base ≤ off then (regIndices (regDesc r).dims (off - (regDesc r).base)).map fun ix => (r, ix)
    else none

/-- The offset of a register's copy. -/
def regAddr (r : Reg) (ix : List Nat) : Nat :=
  (regDesc r).base + ((regDesc r).dims.zip ix).foldl (fun a p => a + p.1.2 * p.2) 0

/-- The bits hi..lo of a 64-bit word as a mask. -/
def bitsMask (hi lo : Nat) : Nat := (2 ^ (hi + 1 - lo) - 1) <<< lo

/-- The bits of a register that lie in fields of one of the access codes `p` accepts. -/
def accMask (r : Reg) (p : Access → Bool) : Nat :=
  (regDesc r).fields.foldl (fun m f => if p f.acc then m ||| bitsMask f.hi f.lo else m) 0

/-- The reset value of a register's copy (R17): its fields' reset values. modules_fitted is 8 for the span bridge and
2 for a hearth link (R92). -/
def regReset (r : Reg) (ix : List Nat) : Word :=
  let v := (regDesc r).fields.foldl (fun v f => v ||| (f.reset <<< f.lo)) 0
  match r, ix with
  | .HLK_LINK_STATUS, [k] => BitVec.ofNat 64 (if k = 2 then 8 <<< 32 else 2 <<< 32)
  | _, _ => BitVec.ofNat 64 v

/-- The fields of a register that a warm or grove reset and everything but a cold reset keeps (R14). -/
def regIsRws (r : Reg) : Bool := (regDesc r).fields.any fun f => f.acc == .rws

end Sys2Proof.Machine
end

