-- ==== Sys2Proof/Machine/State.lean ====
section
/-! DEFINITION. The state of the device: everything the spec gives it, as plain data, and the state after reset. -/
namespace Sys2Proof.Machine

/-- Why the block could stop with a fault. No meaning of this model raises it: every error the spec describes is a
record, a status or a phase (R525 to R531), which is a next state. It is here because the host's interface names a
fault type. Safe. -/
inductive Fault where
  /-- raised by nothing -/
  | none
  deriving DecidableEq, Repr

/-- Why a command could be refused. -/
inductive Refusal where
  /-- a row of the opcode table that has no meaning yet, by its mnemonic; raised by the dispatch alone. Safe. -/
  | notModelled (mnemonic : String)
  deriving DecidableEq, Repr

/-! ## Errors (ch. 17) -/

/-- The severities of R527. -/
inductive Sev where
  | corrected | deferred | contained | fatal
  deriving DecidableEq, Repr

/-- The source blocks of R528. -/
inductive Src where
  | glb | clk | pwr | wch | hwd | hlk | grv | sch | col | upd | kln | smp | gth | emb | mem | lnk | til | svu | smu
  deriving DecidableEq, Repr

/-- An error record (R525): grove is none when grove_valid is 0. -/
structure LogRec where
  seq : Nat
  src : Src
  sev : Sev
  die : Nat
  code : Nat
  grove : Option Nat
  gen : Nat
  step : Nat
  attempt : Nat
  time : Nat
  detail : Nat
  deriving DecidableEq, Repr

/-- The watch state of a tile (R535). -/
inductive WatchSt where
  | normal | suspect | excluded | testing
  deriving DecidableEq, Repr

/-- What the watch block keeps of a tile (R535, R536, R555). -/
structure TileWatch where
  st : WatchSt := .normal
  excluded : Bool := false
  histStep : Nat := 0
  histAttempt : Nat := 0
  lastStep : Nat := 0
  lastAttempt : Nat := 0
  cls : Nat := 0
  tested : Bool := false
  lastPass : Bool := false
  /-- a test of kind 1 or 6 has passed since the exclusion (R545) -/
  cleared : Bool := false
  /-- recomputes of failing passes that run (R534) -/
  recompute : Nat := 0
  deriving DecidableEq, Repr

/-- A running field test (R543): `owner` is the queue and command index of its FT_RUN, none for the test of R536. -/
structure FieldTest where
  die : Nat
  kind : Nat
  object : Nat
  owner : Option (Nat × Nat)
  deriving DecidableEq, Repr

/-- The watch block, but for its plain registers. -/
structure WatchState where
  log : Tbl LogRec := []
  fatal : Option LogRec := none
  /-- records dropped since the last WCH_LOG_LOST record (R533) -/
  droppedSince : Nat := 0
  heat : Tbl Nat := []
  tiles : Tbl TileWatch := []
  tests : List FieldTest := []
  deriving DecidableEq, Repr

/-! ## Groves (ch. 2) -/

/-- The PARAMS of a grove (R55). -/
structure Params where
  firstStep : Nat := 0
  pageTableRoot : Nat := 0
  commitTimeoutUs : Nat := 0
  voidBarrierTimeoutUs : Nat := 0
  budgetPeriodTicks : Nat := 0
  checkpointMode : Nat := 0
  memMapMode : Nat := 0
  smokeThreshold : Nat := 0
  deriving DecidableEq, Repr

/-- A grove id's binding on this device, the same on both dies (R45, R50, R53, R76). Masks are numbers whose bit i is
resource i; generation, job tag and the rest stay as last recorded after an unbind (R66).
Assumption: 33 (DESIGN CHOICE). -/
structure Grove where
  bound : Bool := false
  generation : Nat := 0
  jobTag : Nat := 0
  members : Nat := 0
  params : Params := {}
  tiles : Nat := 0
  channels : Nat := 0
  trunkUse : Nat := 0
  trunkExcl : Nat := 0
  branchUse : Nat := 0
  branchExcl : Nat := 0
  knots : List (Nat × Nat) := []
  lanes : Nat := 0
  streams : List (Nat × Nat) := []
  tables : Nat × Nat := (0, 0)
  deriving DecidableEq, Repr

/-- The budget in force of one grove and activity on one die, and its credit (R81). -/
structure Budget where
  mode : Nat := 0
  amount : Nat := 0
  credit : Int := 0
  /-- a load or a write of GRV_BUDGET changed mode or amount and waits for the next period start -/
  reload : Bool := false
  borrowed : Nat := 0
  /-- requests held, counted once each; retried at the next period start -/
  held : Nat := 0
  deriving DecidableEq, Repr

/-- An image of a running batch (R50): its grove, kind, list index, generation, whether it carries PARAMS and CHANNELS,
its trailer digest, and the BUDGETS it loads, by activity with mode and both dies' amounts. -/
structure BatchImage where
  grove : Nat
  kind : Nat
  index : Nat
  gen : Nat
  params : Bool
  channels : Bool
  firstStep : Nat
  digest : List Byte
  budgets : Option (List (Nat × Nat × Nat × Nat))
  deriving DecidableEq, Repr

/-- A batch between its step 3 and its end (R64): when go was written, whether step 4 is past, the binding tables it
installs, its images, the channels that join a grove, and the tiles that change grove, which take no new work. -/
structure Batch where
  goAt : Nat
  applied : Bool
  groves : Tbl Grove
  images : List BatchImage
  channels : List Nat := []
  tiles : Nat := 0
  deriving DecidableEq, Repr

/-- The grove manager. -/
structure GroveState where
  groves : Tbl Grove := []
  budgets : Tbl Budget := []
  batch : Option Batch := none
  /-- bind count of each channel (R69) -/
  bindCount : Tbl Nat := []
  /-- when a STALE_GROVE was last sent to a (sender device, grove) pair, by 16 * device + grove (R74) -/
  nakSent : Tbl Nat := []
  /-- trailer digest of the last image applied to each grove (R52, R638) -/
  imageDigest : Tbl (List Byte) := []
  deriving DecidableEq, Repr

/-- The step state machine of a grove (R34). -/
inductive StepSt where
  | closed | running | sealed | voided | committed
  deriving DecidableEq, Repr

/-- A step-open record (R466): headroom and scale are lists of 256. -/
structure OpenRecord where
  step : Nat
  cursor : Nat
  grove : Nat
  gen : Nat
  headroom : List Nat
  scale : List Byte
  deriving DecidableEq, Repr

/-! ## Queues and the in-package links (ch. 3) -/

/-- A fetched command (R98): its position since the enable, its 64 bytes, and whether its target has started it. -/
structure Cmd where
  index : Nat
  opcode : Nat
  grove : Nat
  gen : Nat
  tag : Nat
  fence : Bool
  irq : Bool
  raw : List Byte
  started : Bool := false
  deriving DecidableEq, Repr

/-- A command queue (R97 to R110), with the configuration and ring offsets of the enable in force. -/
structure Queue where
  enabled : Bool := false
  cfg : Word := 0
  base : Nat := 0
  cbase : Nat := 0
  /-- a valid write of enable = 1 that waits for the earlier enable's completions: its configuration and rings (R105) -/
  pendingEnable : Option (Word × Nat × Nat) := none
  tail : Nat := 0
  consumed : Nat := 0
  fetched : Nat := 0
  completed : Nat := 0
  stopped : Bool := false
  error : Nat := 0
  cmds : List Cmd := []
  /-- the INJECT, if any, that waits for room and stops the queue's fetches (R127) -/
  waiting : Bool := false
  deriving DecidableEq, Repr

/-- One in-package link (R86 to R93): k = 0, 1 hearth links, 2 span bridge. Sent flits stay in the replay buffer
until acknowledged. -/
structure HLink where
  state : Nat := 0
  modulesUp : Nat := 0
  lanesRepaired : Nat := 0
  nextSeq : Nat := 0
  lastAccepted : Nat := 65535
  lastAcked : Nat := 65535
  replay : List (Nat × List Byte) := []
  replayTimes : List Nat := []
  credits : List Nat := [0, 0, 0, 0]
  /-- flits waiting for a retrain to end (R91) -/
  waiting : List (List Byte) := []
  deriving DecidableEq, Repr

/-- A TLS session (R118 to R120). -/
structure Session where
  operator : Bool
  certificate : Nat
  grove : Option Nat
  lastAt : Nat
  deriving DecidableEq, Repr

/-- A queue pair (R114, R115). -/
structure Qp where
  session : Nat
  grove : Nat
  error : Bool := false
  /-- the sender's rate has been reduced by congestion notifications, so many times (R114) -/
  cnps : Nat := 0
  deriving DecidableEq, Repr

/-- A memory region of a grove (R115), keyed by its remote key. -/
structure Region where
  session : Nat
  grove : Nat
  gen : Nat
  va : Nat
  length : Nat
  read : Bool
  write : Bool
  deriving DecidableEq, Repr

/-- The hearth die's attachment state. -/
structure HearthState where
  links : Tbl HLink := []
  queues : Tbl Queue := []
  ethUp : List Bool := [false, false]
  sessions : Tbl Session := []
  nextSession : Nat := 0
  qps : Tbl Qp := []
  regions : Tbl Region := []
  /-- the certificate each grove is assigned to (R119) -/
  assigned : Tbl Nat := []
  /-- front-end weight of each grove (R121); missing is the default 1 -/
  weights : Tbl Nat := []
  deriving DecidableEq, Repr

/-! ## Scheduler and knots (ch. 4) -/

/-- A task descriptor (R123, R124). -/
structure Task where
  unit : Nat
  grove : Nat
  gen : Nat
  priority : Nat
  ordered : Bool
  deferred : Bool
  unstepped : Bool
  flow : Nat
  step : Nat
  seq : Nat
  tile : Nat
  program : Nat
  waits : List (Nat × Nat)
  signals : List (Nat × Nat)
  deriving DecidableEq, Repr

/-- Where a placed task stands: waiting, ready (with its readiness order), running on its unit, complete but with no
hold-buffer entry (R133), complete and held for its flow, or ended by a fault. -/
inductive TaskSt where
  | waiting
  | ready (order : Nat)
  | running
  | stalled
  | held
  /-- ended by a fault (R143): its slot stays held until the entry is discarded -/
  | faulted
  deriving DecidableEq, Repr

/-- One slot of a tile's task store (R127). `granted` names the knots whose
semaphore grant it holds. -/
structure Slot where
  task : Task
  st : TaskSt
  granted : List Nat := []
  /-- the operation descriptor read when the task became ready (R291), once read -/
  desc : List Byte := []
  deriving DecidableEq, Repr

/-- A knot (R134), its shadow (R141), its staged type (R138) and its pending semaphore requests, oldest first. -/
structure Knot where
  value : Nat := 0
  target : Nat := 0
  type : Nat := 0
  phase : Bool := false
  overflow : Bool := false
  noRewind : Bool := false
  shadowValue : Nat := 0
  shadowPhase : Bool := false
  stagedType : Nat := 0
  stagedNoRewind : Bool := false
  /-- (tile, slot, threshold) of each request (R129) -/
  requests : List (Nat × Nat × Nat) := []
  deriving DecidableEq, Repr

/-- A flow entry (R132) and its shadow (R141). -/
structure Flow where
  next : Nat := 0
  shadow : Nat := 0
  deriving DecidableEq, Repr

/-- An INJECT that waits for room (R127). -/
structure PendingInject where
  queue : Nat
  index : Nat
  tasks : List Task
  deriving DecidableEq, Repr

/-- The schedulers and knot units. -/
structure SchedState where
  /-- task stores, by 1024 * tile + slot -/
  slots : Tbl Slot := []
  /-- flow entries, by 65536 * die + 4096 * grove + flow -/
  flows : Tbl Flow := []
  knots : Tbl Knot := []
  injects : List PendingInject := []
  readyCtr : Nat := 0
  deriving DecidableEq, Repr

/-! ## Memory (ch. 13) -/

/-- An entry of a write-combining buffer (R394): the line within the channel, its bytes by position, the grove and
when it was allocated. -/
structure WcbEntry where
  line : Nat
  bytes : Tbl Byte
  grove : Nat
  at_ : Nat
  deriving DecidableEq, Repr

/-- A row whose lines have been corrected in the present patrol period (R408), how often, and whether its
MEM_REPAIR_EXHAUSTED record is written. -/
structure Suspect where
  bank : Nat
  row : Nat
  count : Nat
  noted : Bool := false
  deriving DecidableEq, Repr

/-- A logical channel's controller state, but for its registers. -/
structure Channel where
  /-- position of the scrub of R71 or R702, in lines; 2^25 when none runs -/
  scrubPos : Nat := 0
  scrubbing : Bool := false
  ecc : Nat := 0
  wcb : List WcbEntry := []
  /-- adder buffer: line and its 64 plaintext bytes, oldest first (R401) -/
  adders : List (Nat × List Byte) := []
  physical : Option Nat := none
  absent : Bool := false
  patrolPos : Nat := 0
  suspects : List Suspect := []
  /-- traffic held for a spare-lane retrain (R406) -/
  retraining : Bool := false
  deriving DecidableEq, Repr

/-- A physical channel: its dead lanes in order (R406), its correction counts in the present 1 ms window, its used
repair rows by bank, and whether a map-out retired it. -/
structure PhysChannel where
  dead : List Nat := []
  windowAt : Nat := 0
  laneCorr : Tbl Nat := []
  softUsed : Nat := 0
  hardUsed : Nat := 0
  retired : Bool := false
  deriving DecidableEq, Repr

/-- A stack's sensor actions (R413). -/
structure Stack where
  warm : Bool := false
  hot : Bool := false
  fault : Bool := false
  /-- since when the readings stand below 80 °C, at or above 95 °C, unreadable, valid after unreadable -/
  coolSince : Option Nat := none
  overSince : Option Nat := none
  badSince : Option Nat := none
  goodSince : Option Nat := none
  deriving DecidableEq, Repr

/-- A map-out between its go and its end (R410). -/
structure MapOut where
  source : Nat
  spare : Nat
  deriving DecidableEq, Repr

/-- A repair operation between its go and its end (R407, R409): op, bank and row. -/
structure RepairOp where
  op : Nat
  bank : Nat
  row : Nat
  /-- issued by MEM_REPAIR_CMD, not by the controller itself (R408) -/
  byCommand : Bool
  deriving DecidableEq, Repr

/-- A request that waits for a retrain, a bank's repair or a protected page (R406, R407, R567). -/
inductive HeldMem where
  | req (r : MemReq)
  | acc (a : AccReq)
  deriving DecidableEq, Repr

/-- The memory stacks and their controllers. -/
structure MemState where
  /-- bytes by channel * 2^31 + b, strictly rising, none 0; a byte not listed reads as `Ops` says -/
  cells : List Host.Cell := []
  /-- written lines, by channel * 2^25 + (b >> 6), strictly rising (R71) -/
  written : List Nat := []
  /-- lines that read uncorrectable, by the same number (R396, R404) -/
  bad : List Nat := []
  /-- words of 4 bytes that an integer adder has saturated and nothing has written since, by channel * 2^29 + (b >> 2)
  (R400) -/
  saturated : List Nat := []
  channels : Tbl Channel := []
  phys : Tbl PhysChannel := []
  /-- stack mode registers, by 256 * stack + address (R414) -/
  modeRegs : Tbl Nat := []
  heats : Tbl Stack := []
  mapouts : Tbl MapOut := []
  /-- repairs in progress, by channel -/
  repairs : Tbl RepairOp := []
  /-- requests held for a retrain, a bank's repair or a protected page, in arrival order (R406, R407, R567) -/
  held : List HeldMem := []
  /-- kindling step 6 has started the hearth channels' scrub (R702) -/
  hearthKeyed : Bool := false
  /-- a request has reached the hearth region since cold reset (R412) -/
  hearthUsed : Bool := false
  /-- epoch of the hearth key, one per cold reset (R95, R702) -/
  hearthEpoch : Nat := 0
  deriving DecidableEq, Repr

/-! ## Links (ch. 14) -/

/-- A link flit (R431), without its crc. -/
structure LFlit where
  kind : Nat
  grove : Nat
  vc : Nat
  dl : Bool
  gen : Nat
  seq : Nat
  ackSeq : Nat
  credits : List Nat
  dest : Nat
  src : Nat
  hop : Nat
  ttl : Nat
  first : Bool
  last : Bool
  minus : List Bool
  reversed : Bool
  opcode : Nat
  length : Nat
  address : Nat
  payload : List Byte
  deriving DecidableEq, Repr

/-- The states of a port (R445, R456). -/
inductive PortSt where
  | disabled | detect | equalise | align | identify | active | retrain | wiring | dead
  deriving DecidableEq, Repr

/-- A port: 0 to 5 the trunk directions, 16 + p branch port p. -/
structure Port where
  st : PortSt := .disabled
  /-- states of its lanes: 0 off, 1 training, 2 live, 3 dead (R457) -/
  lanes : List Nat := []
  partner : Option PortIdentity := none
  nextSeq : Nat := 0
  lastAccepted : Nat := 65535
  lastAcked : Nat := 65535
  replay : List LFlit := []
  /-- unsent flits, oldest first -/
  tx : List LFlit := []
  /-- flits received and not yet passed on: the partial messages of each class -/
  rx : List LFlit := []
  replayTimes : List Nat := []
  /-- credits held for each virtual channel and dateline class, by 2v + c -/
  credits : List Nat := []
  /-- credits to return, by 2v + c -/
  returns : List Nat := [0, 0, 0, 0, 0, 0, 0, 0]
  /-- uncorrectable codewords of each lane in the present 1 ms (R448), and when it began -/
  fecBad : Tbl Nat := []
  fecAt : Nat := 0
  /-- when an LNK_INVALID record was last written (R432) -/
  invalidAt : Option Nat := none
  deriving DecidableEq, Repr

/-- A message that waits for its grove's trunk_tx or branch_tx budget (R81, R440). -/
structure HeldMsg where
  die : Nat
  trunk : Bool
  dest : Nat
  opcode : Nat
  vc : Nat
  grove : Nat
  address : Nat
  payload : List Byte
  deriving DecidableEq, Repr

/-- A memory-pool request held for its grove's pool_serve budget (R81, R208, R240). -/
inductive HeldServe where
  | adjRange (die : Nat) (o : Origin) (r : AdjRange)
  | adjPick (die : Nat) (o : Origin) (r : AdjPick)
  | rowRead (die : Nat) (o : Origin) (r : RowRead)
  | rowAccumulate (die : Nat) (o : Origin) (a : RowAcc)
  | kilnWrite (die : Nat) (o : Origin) (w : KilnWrite)
  deriving DecidableEq, Repr

/-- The link layer, with the memory-pool requests its budgets hold. -/
structure LinkState where
  ports : Tbl Port := []
  held : List HeldMsg := []
  serve : List HeldServe := []
  deriving DecidableEq, Repr

/-! ## Reductions, the commit round and VOID (ch. 15) -/

/-- A reduction descriptor (R468). -/
structure RedDesc where
  reduction : Nat
  contribute : Bool
  own : Bool
  replica : Bool
  slot : Nat
  paramFormat : Nat
  elements : Nat
  weight : Nat
  groupCount : Nat
  source : Nat
  ownerMap : Nat
  accBase : Nat
  groupList : Nat
  replicaVa : Nat
  ready : Nat
  paramSignal : Nat
  deadlineUs : Nat
  expected : Nat
  ownFirst : Nat
  ownCount : Nat
  master : Nat
  deriving DecidableEq, Repr

/-- A reduction held by a die: the descriptor in force, the load or drop that waits for the next open (R469), whether
this step's close is done, and whether this step's contributions are sent. -/
structure Reduction where
  desc : Option RedDesc := none
  staged : Option (Option RedDesc) := none
  closed : Bool := false
  sent : Bool := false
  deriving DecidableEq, Repr

/-- A contribution without its answer (R473). -/
structure SentContribution where
  dest : Nat
  msg : Contribution
  tries : Nat := 0
  deriving DecidableEq, Repr

/-- A broadcast piece that waits for a child's acknowledgement (R480). -/
structure SentPiece where
  child : Nat
  piece : Piece
  tries : Nat := 0
  deriving DecidableEq, Repr

/-- The tallies of one attempt on one die (R490, R491): counts and digests of sent, received, late and abandoned. -/
structure Tally where
  sent : Nat := 0
  recv : Nat := 0
  late : Nat := 0
  abandoned : Nat := 0
  sentDigest : Nat := 0
  recvDigest : Nat := 0
  lateDigest : Nat := 0
  abandonedDigest : Nat := 0
  deriving DecidableEq, Repr

/-- A grove's step (R34) with what its commit round has gathered. `step` is the current step of R126 and R475. -/
structure GroveStep where
  st : StepSt := .closed
  step : Nat := 0
  attempt : Nat := 0
  record : Option OpenRecord := none
  /-- the exponents the last commit delivered, until a bind or restore (R467) -/
  delivered : Option (List Byte) := none
  /-- VOIDs for later steps (R34) -/
  heldVoids : List VoidMsg := []
  /-- the children's reports, by sender -/
  reports : List (Nat × Report) := []
  /-- this device has merged and sent its histograms for the attempt (R484) -/
  merged : Bool := false
  /-- this device has sent its report of the attempt and kind -/
  reported : Bool := false
  /-- origins of the VOIDs of the step already forwarded (R488) -/
  origins : List Nat := []
  /-- this device may not acknowledge into the void barrier: replay limit (R537), an incomplete replica (R482) -/
  withhold : Bool := false
  /-- a restore has been started and not completed (R575) -/
  restorePending : Bool := false
  /-- a step-class fault of an engine holds back the clean report (R216, R244, R277, R506, R512) -/
  faulted : Bool := false
  /-- kind 3 messages for the next step, held until it opens (R475) -/
  earlyMerges : List (Nat × Origin × Contribution) := []
  /-- the VOID that ended the present attempt -/
  voidMsg : Option VoidMsg := none
  /-- the report sent up the tree, or the root's own, for the present attempt -/
  sentReport : Option Report := none
  /-- the commit's stage_apply and whether the members' staged sets differ, until the flips are applied (R266) -/
  stageApply : Option (Bool × Bool) := none
  deriving DecidableEq, Repr

/-- The collective engines. A die of a grove has the number 16 * die + grove; a reduction on it 4096 times that plus its
id. -/
structure CollState where
  steps : Tbl GroveStep := []
  reductions : Tbl Reduction := []
  /-- next request number of each die of a grove (R471) -/
  nextRequest : Tbl Nat := []
  /-- unanswered contributions, by 2^32 * (die of a grove) + request -/
  sent : Tbl SentContribution := []
  /-- unacknowledged pieces, by the same number -/
  pieces : Tbl SentPiece := []
  /-- requests applied since the bind on each die of a grove: sender device, its die, request -/
  applied : Tbl (List (Nat × Nat × Nat)) := []
  /-- the step and the (segment, piece) pairs of it that each replica has received (R481) -/
  received : Tbl (Nat × List (Nat × Nat)) := []
  /-- tallies of the present attempt on each die of a grove -/
  tally : Tbl Tally := []
  /-- STEP_OPEN commands held while a firing captures: queue and index (R566) -/
  heldOpens : List (Nat × Nat) := []
  deriving DecidableEq, Repr

/-! ## Start-up, reset, management (ch. 21 and 22) -/

/-- The phases of R650, and no power at all. -/
inductive Phase where
  | kindling | service | smoulder | ash
  deriving DecidableEq, Repr

/-- A step of a running recovery (R664) or of the reset that RESET_N holds (R667). -/
inductive Recovery where
  | idle
  /-- RECOVER waits at step 3 for a GOOD reference -/
  | waitReference
  /-- step 3: the in-package links and the memory PHYs train -/
  | training
  | resetHeld
  deriving DecidableEq, Repr

/-- Start-up and reset. -/
structure StartState where
  phase : Phase := .kindling
  recovery : Recovery := .idle
  /-- fatal causes logged since the last recovery: source, code and detail (R663) -/
  causes : List (Src × Nat × Nat) := []
  /-- outputs driven low: FAULT_N, THERMTRIP_N, SVC_N, ALERT_N (R666) -/
  faultLow : Bool := false
  thermLow : Bool := false
  svcLow : Bool := false
  alertLow : Bool := false
  resetNLow : Bool := false
  coresUp : Nat := 0
  /-- grove resets held until a batch ends (R656) -/
  heldGroveResets : List Nat := []
  deriving DecidableEq, Repr

/-- Management over SMBus and the test access port (R681 to R686). -/
structure PkgState where
  strap : Nat := 0
  imgKind : Nat := 0
  imgLength : Nat := 0
  imgData : Tbl Byte := []
  /-- 0 idle, 1 receiving, 2 checking, 3 accepted, 4 refused -/
  imgStatus : Nat := 0
  tap : TapInstr := .idcode
  deriving DecidableEq, Repr

/-! ## Numbers (ch. 5) -/

/-- An exponent histogram (R183): its non-zero counts, bin b at b + 32, the zero bin at 64 and the NaN bin at 65. -/
structure Hist where
  bins : Tbl Nat := []
  overflow : Bool := false
  deriving DecidableEq, Repr

/-- The histograms of both compute dies (R184), by 4096 * die + 256 * grove + stream. -/
structure NumState where
  hists : Tbl Hist := []
  deriving DecidableEq, Repr

/-! ## Sampler (ch. 6) -/

/-- A hop entry of a programme (R198). -/
structure Hop where
  fanout : Nat
  mode : Nat
  window : Nat
  types : Nat
  wa : Nat
  wb : Nat
  deriving DecidableEq, Repr

/-- A programme descriptor (R197). -/
structure ProgDesc where
  grove : Nat
  stream : Nat
  lanes : Nat
  seedList : Nat
  seedLength : Nat
  seedCount : Nat
  seedOffset : Nat
  graph : Nat
  twigLog : Nat
  slots : Nat
  groupSize : Nat
  knot : Nat
  amount : Nat
  hops : List Hop
  deriving DecidableEq, Repr

/-- The states of a programme slot (R215). -/
inductive ProgSt where
  | empty | loaded | running | done | faulted | disabled
  deriving DecidableEq, Repr

/-- A programme slot (R215): the descriptor in force, one that waits for the next open, an unload that waits for the
run's end, the base counter of the step (R206), seeds dealt, the ordinals done, groups signalled. -/
structure Prog where
  st : ProgSt := .empty
  grove : Nat := 0
  desc : Option ProgDesc := none
  staged : Option ProgDesc := none
  unload : Bool := false
  /-- an open has taken its descriptor: it runs in that step and its replays -/
  live : Bool := false
  base : Nat := 0
  dealt : Nat := 0
  done : List Nat := []
  groups : Nat := 0
  deriving DecidableEq, Repr

/-- A random stream (R204, R213): key, origin, and the pair that waits for the next open. -/
structure RandStream where
  key : Nat := 0
  origin : Nat := 0
  staged : Option (Nat × Nat) := none
  deriving DecidableEq, Repr

/-- What a lane knows of a vertex it has reached: its record's fields but for the short flag (R210). -/
structure Twig where
  vertex : Nat
  type : Nat
  hop : Nat
  remote : Bool
  pos : Nat
  parent : Nat
  deriving DecidableEq, Repr

/-- A parent whose adjacency is being read. A local read is outstanding once `sent`; a remote one holds its request
number, its retries, what ADJ_RANGE answered, the edges picked, the draws used and the edge positions chosen. -/
structure OpenParent where
  remote : Bool
  sent : Bool
  request : Nat := 0
  tries : Nat := 0
  device : Nat := 0
  shard : Nat := 0
  range : Option (Nat × Nat × List (Nat × Nat) × List Nat) := none
  picked : List (Nat × Nat) := []
  draws : Nat := 0
  deriving DecidableEq, Repr

/-- A lane's seed: its programme slot, ordinal and time, the vertices of its slots, the parents still open. -/
structure LaneSeed where
  prog : Nat
  seed : Nat
  time : Nat
  twigs : Tbl Twig
  parents : Tbl OpenParent
  deriving DecidableEq, Repr

/-- The samplers of both dies. Programme slots by 32 * die + slot. -/
structure SampState where
  progs : Tbl Prog := []
  streams : Tbl RandStream := []
  lanes : Tbl LaneSeed := []
  /-- the next request number of each die -/
  nextRequest : List Nat := [0, 0]
  deriving DecidableEq, Repr
/-! ## Gather and scatter (ch. 7) -/

/-- A gather or scatter descriptor (R223, R230). `offset` is block_offset or grad_offset, `limit` unique_max or seq. -/
structure GthDesc where
  kind : Nat
  table : Nat
  fmt : Nat
  hopMask : Nat
  source : Nat
  first : Nat
  count : Nat
  slots : Nat
  tile : Nat
  rowElems : Nat
  offset : Nat
  mapOffset : Nat
  limit : Nat
  pitch : Nat
  colFirst : Nat
  manifest : Nat
  knot : Nat
  amount : Nat
  deriving DecidableEq, Repr

/-- Where the read of a unique row stands: not asked for, read from this device's own memory in its bucket or a graft slot, asked for from another
device under a request number, written. -/
inductive FetchSt where
  | waiting
  | here (slot : Option Nat)
  | remote (device request version tries : Nat) (parts : List (Nat × List Byte)) (ended : Bool)
  | done
  deriving DecidableEq, Repr

/-- A unique row of a running gather. -/
structure RowFetch where
  row : Nat
  st : FetchSt := .waiting
  deriving DecidableEq, Repr

/-- Where a gather, scatter or close stands. -/
inductive GthSt where
  | waiting | running
  /-- a scatter or close sends the grove's entries (R234, R235) -/
  | sending
  /-- a close waits for acknowledgements (R235) -/
  | acks
  deriving DecidableEq, Repr

/-- A command in a die's wait pool or running (R222). `todo` lists what a scatter still walks: gradient row, row id and
segment. `out` counts spills, or the accumulates a close has sent; `count` valid records, or contributions merged. -/
structure GthCmd where
  queue : Nat
  index : Nat
  op : Nat
  grove : Nat
  gen : Nat
  step : Nat
  tag : Nat
  wait : Option (Nat × Nat)
  st : GthSt := .waiting
  desc : Option GthDesc := none
  rows : List RowFetch := []
  todo : List (Nat × Nat × Nat) := []
  count : Nat := 0
  out : Nat := 0
  closeCount : Nat := 0
  signal : Nat × Nat := (0, 0)
  /-- its next request is held for its grove's budget (R243) -/
  held : Bool := false
  deriving DecidableEq, Repr

/-- A merge entry (R233): its step, element mask and 64 FP32 codes. -/
structure MergeEntry where
  step : Nat
  mask : Nat
  v : List Nat
  deriving DecidableEq, Repr

/-- An accumulate without its answer. -/
structure SentAcc where
  dest : Nat
  grove : Nat
  msg : RowAcc
  tries : Nat := 0
  deriving DecidableEq, Repr

/-- The gather and scatter units of both dies. -/
structure GathState where
  /-- commands in order of arrival -/
  cmds : List GthCmd := []
  /-- merge entries, by die, grove, table, row and segment (`mergeKey`) -/
  merge : Tbl MergeEntry := []
  /-- by 16 * die + grove: most entries held in the step (R246) -/
  high : Tbl Nat := []
  /-- by 16 * die + grove: scatters completed in the step (R232) -/
  seqDone : Tbl Nat := []
  /-- by 16 * die + grove: step and scatter_count of the closes fetched (R232) -/
  closes : Tbl (List (Nat × Nat)) := []
  /-- unanswered accumulates, by 2^32 * die + request -/
  accs : Tbl SentAcc := []
  /-- next request number of each die -/
  nextRequest : List Nat := [0, 0]
  deriving DecidableEq, Repr

/-! ## Embedding tables (ch. 8) -/

/-- A table descriptor (R251). Pitches are in 64-byte units. -/
structure TableDesc where
  format : Nat
  trainable : Bool
  rowElems : Nat
  rowPitch : Nat
  statePitch : Nat
  version : Nat
  homeCount : Nat
  homeList : Nat
  log2Buckets : Nat
  graftSlots : Nat
  tags : Nat
  rows : Nat
  state : Nat
  graft : Nat
  deriving DecidableEq, Repr

/-- The states of a version slot (R256). -/
inductive VsSt where
  | empty | loaded | current | previous
  deriving DecidableEq, Repr

/-- A table slot (R47, R256): its two version slots, and the step of the commit that applied its last flip (R258). -/
structure TableSlot where
  st0 : VsSt := .empty
  st1 : VsSt := .empty
  desc0 : Option TableDesc := none
  desc1 : Option TableDesc := none
  flip : Nat := 0
  deriving DecidableEq, Repr

/-- The kinds of row entry (R261). `acked` says the copy the entry belongs to has been acknowledged. -/
inductive RowKind where
  | graft (device slot : Nat)
  | pendOut (device slot : Nat) (acked : Bool)
  | pendIn (device slot : Nat)
  | tombstone (device expiry : Nat)
  | scion (slot : Nat)
  | pendScion (slot : Nat)
  | holder (device : Nat) (pending acked : Bool)
  deriving DecidableEq, Repr

/-- A row entry, with its key (R261). -/
structure RowEntry where
  grove : Nat
  table : Nat
  version : Nat
  row : Nat
  kind : RowKind
  deriving DecidableEq, Repr

/-- A regraft or scion copy without its answer: the command that made it, what it carries and how often it was sent
again. -/
structure SentCopy where
  queue : Nat
  index : Nat
  scion : Bool
  dest : Nat
  grove : Nat
  msg : RowCopy
  tries : Nat := 0
  deriving DecidableEq, Repr

/-- A refresh or mirror without its acknowledgement (R269, R271). -/
structure SentRefresh where
  dest : Nat
  grove : Nat
  step : Nat
  mirror : Bool
  table : Nat
  row : Nat
  deriving DecidableEq, Repr

/-- A FLIP_DONE that waits for the mirror of its step (R271): the row, its new home and the step. -/
structure FlipDue where
  die : Nat
  grove : Nat
  table : Nat
  row : Nat
  device : Nat
  step : Nat
  deriving DecidableEq, Repr

/-- A ROW_READ held under R260 or for a PEND_IN entry (R263). -/
structure HeldRead where
  die : Nat
  origin : Origin
  read : RowRead
  deriving DecidableEq, Repr

/-- The embedding directory, the same on both dies, and its memory-pool service. -/
structure EmbState where
  slots : Tbl TableSlot := []
  /-- the versions the grove's open pinned (R259): by grove, then table id -/
  pinned : Tbl (Tbl Nat) := []
  entries : List RowEntry := []
  /-- most entries held since the grove was bound (R280) -/
  high : Tbl Nat := []
  /-- staged entries of each grove, oldest first: the two words (R264) -/
  staged : Tbl (List (Nat × Nat)) := []
  /-- the last commit held the set (R281) -/
  heldLast : Tbl Bool := []
  /-- heat tables, by 16 * die + grove: table, row and count (R267) -/
  heat : Tbl (List (Nat × Nat × Nat)) := []
  /-- step of the last REFRESH_DONE, by 2^15 * grove + home device (R269) -/
  refreshed : Tbl Nat := []
  /-- copies and refreshes without answer, by 2^32 * die + request -/
  copies : Tbl SentCopy := []
  refreshes : Tbl SentRefresh := []
  flipsDue : List FlipDue := []
  heldReads : List HeldRead := []
  /-- next directory request number of each die -/
  nextRequest : List Nat := [0, 0]
  /-- accumulates applied (R242): step, sender device, its die, request; by grove -/
  applied : Tbl (List (Nat × Nat × Nat × Nat)) := []
  deriving DecidableEq, Repr

/-! ## Tiles (ch. 9 to 12) -/

/-- One ABFT check (R303): a row or column check and its index, how it came out, and obs and ref as FP32 codes. -/
structure AbftCheck where
  row : Bool
  index : Nat
  ok : Bool
  nonfinite : Bool
  obs : Nat
  ref : Nat
  deriving DecidableEq, Repr

/-- The checks of one pass (R306): those still pending, and those that have failed. -/
structure AbftPass where
  tile : Nat
  slot : Nat
  grove : Nat
  gen : Nat
  step : Nat
  attempt : Nat
  unstepped : Bool
  pending : List AbftCheck
  failed : List AbftCheck := []
  deriving DecidableEq, Repr

/-- The tiles: scratchpad bytes by 2^25 * tile + offset, strictly rising, none 0 (R286); the passes with pending checks,
and the passes whose mismatch report is on its way to the watch block. -/
structure TileState where
  scratch : List Host.Cell := []
  passes : List AbftPass := []
  reports : List AbftPass := []
  deriving DecidableEq, Repr

/-! ## Update units (ch. 16) -/

/-- An instruction (R325); `reserved` holds the reserved bits. -/
structure VInstr where
  op : Nat
  a : Nat
  b : Nat
  c : Nat
  cond : Nat
  dst : Nat
  store : Bool
  histStream : Nat
  hist : Bool
  reserved : Bool
  deriving DecidableEq, Repr

/-- An update programme (R500): kind 0 a reduction's, 1 a table's. -/
structure UpdProg where
  kind : Nat
  target : Nat
  stateWords : Nat
  formats : Nat
  hold : Bool
  origin : Nat
  state : Nat
  stateSpan : Nat
  staging : Nat
  stagingBytes : Nat
  signal : Option (Nat × Nat)
  constants : List Nat
  instrs : List VInstr
  deriving DecidableEq, Repr

/-- The programme of a target (R511): the one in force, and the load, drop or change of constants that waits for the
grove's next open. -/
structure UpdSlot where
  cur : Option UpdProg := none
  next : Option (Option UpdProg) := none
  deriving DecidableEq, Repr

/-- What an update unit has still to do for a grove, in order (R507, R508). -/
inductive UpdWork where
  | stage (reduction segment : Nat)
  | commit (reduction segment : Nat)
  | reductionEnd (reduction : Nat)
  | row (table entry : Nat)
  | tableEnd (table : Nat)
  | commitEnd
  deriving DecidableEq, Repr

/-- The update units. A die of a grove has the number 16 * die + grove; a target on it 8192 times that plus
4096 * kind + its id. -/
structure UpdState where
  progs : Tbl UpdSlot := []
  work : Tbl (List UpdWork) := []
  /-- the first request of the work is held by the grove's update budget (R509) -/
  held : List Nat := []
  /-- segments staged in the step, by the reduction's number: each with whether it changes anything -/
  staged : Tbl (List (Nat × Bool)) := []
  /-- reductions whose staging was abandoned, or has run out of room (R507, R509) -/
  noStage : List Nat := []
  /-- dies of groves whose first UPD_NONFINITE record of the step is written (R504) -/
  nonfinite : List Nat := []
  /-- dies of groves held by UPD_COMMIT_FAULT (R509) -/
  faults : List Nat := []
  deriving DecidableEq, Repr

/-! ## Kiln (ch. 18) -/

/-- A Kiln plan (R559); the pages of its ranges in capture order. -/
structure KilnPlan where
  gen : Nat
  toBuddy : Bool
  toStorage : Bool
  pages : List Nat
  reserve : Nat
  reservePages : Nat
  buddy : Nat
  stride : Nat
  qp : Nat
  rkey : Nat
  base : Nat
  deriving DecidableEq, Repr

/-- The states of a firing (R565). -/
inductive FireSt where
  | armed | invalidate | capture | drain | seal
  deriving DecidableEq, Repr

/-- What a destination is writing (R573). Assumption: 91 (DEDUCED). -/
inductive KilnItem where
  | record0
  /-- the zeroed record is acknowledged; the capture is not over -/
  | waiting
  | metadata
  | page (i : Nat)
  | manifest
  | record
  | done
  deriving DecidableEq, Repr

/-- A destination of a firing: in service, the item it writes and how far, the tag of the write without an answer, how
often it was sent again, and whether the next write is held for the grove's budget. -/
structure KilnDest where
  live : Bool
  item : KilnItem := .record0
  off : Nat := 0
  tag : Option Nat := none
  tries : Nat := 0
  held : Bool := false
  deriving DecidableEq, Repr

/-- A firing: its command, its plan, the metadata record, page digests, touched pages with their reserve pages, pages
read for drain and not yet drained, and whether KLN_TOUCH_WAIT is written. -/
structure Firing where
  st : FireSt
  queue : Nat
  index : Nat
  step : Nat
  slot : Nat
  touch : Bool
  plan : KilnPlan
  meta_ : List Byte := []
  digests : Tbl (List Byte) := []
  touched : Tbl Nat := []
  snaps : Tbl (List Byte) := []
  waited : Bool := false
  buddy : KilnDest
  storage : KilnDest
  deriving DecidableEq, Repr

/-- A restore (R575): its command, source, slot and expected step; the records read so far; the next page. -/
structure Restore where
  queue : Nat
  index : Nat
  source : Nat
  slot : Nat
  expected : Nat
  record : List Byte := []
  meta_ : List Byte := []
  manifest : List Byte := []
  page : Nat := 0
  deriving DecidableEq, Repr

/-- Who waits for data of a slot: a restore, or a PROBE and its slot; and how many bytes it asked for. -/
structure KilnRead where
  grove : Nat
  probe : Option (Nat × Nat × Nat)
  length : Nat
  deriving DecidableEq, Repr

/-- The Kiln. `protect` lists the write-protected pages: local 2 MiB page, grove and capture index. -/
structure KilnState where
  plans : Tbl KilnPlan := []
  firings : Tbl Firing := []
  restores : Tbl Restore := []
  reads : Tbl KilnRead := []
  nextTag : Nat := 0
  protect : List (Nat × Nat × Nat) := []
  deriving DecidableEq, Repr


/-! ## Clocks, supplies and thermal control (ch. 19) -/

/-- How a reference is judged (R591): state 0 ABSENT, 1 QUALIFYING, 2 GOOD; good windows counted; consecutive windows
with the cleaning PLL locked. -/
structure RefState where
  st : Nat := 0
  count : Nat := 0
  locked : Nat := 0
  deriving DecidableEq, Repr

/-- A compute die's operating point (R598, R599): the point PWR_OP_STATE reports, the point its clock runs at, the
target of a transition, and which of its two waits are over. -/
structure Dvfs where
  effective : Nat := 7
  clock : Nat := 7
  target : Nat := 7
  busy : Bool := false
  pllDone : Bool := false
  voltDone : Bool := false
  deriving DecidableEq, Repr

/-- A die's thermal limits (R606): the clamp point (0 none), whether the last reading is at or above throttle_c, 100 °C,
and since when it is below throttle_c - 5, at or above 105 °C, unreadable, valid again. -/
structure Therm where
  clamp : Nat := 0
  above : Bool := false
  hot : Bool := false
  fault : Bool := false
  reading : Int := 0
  coolSince : Option Nat := none
  overSince : Option Nat := none
  badSince : Option Nat := none
  goodSince : Option Nat := none
  deriving DecidableEq, Repr

/-- Clocks, rails and limits, but for their plain registers. `recov` is the recovered reference CLK_REF_SEL names, `prev`
the one of another lane that the device still runs from, with that lane's direction and number. -/
structure ClockState where
  refclk : RefState := {}
  recov : RefState := {}
  prev : Option (Nat × Nat × RefState) := none
  /-- the present source: 0 REFCLK, 1 recovered -/
  active : Nat := 0
  /-- a switch of R593 in progress, to this source -/
  switching : Option Nat := none
  banked : Bool := false
  mismatchSince : Option Nat := none
  mismatchLogged : Bool := false
  dvfs : List Dvfs := [{}, {}]
  therm : List Therm := [{}, {}, {}]
  /-- the power-cap clamp point of each die (0 none), and consecutive averages below 95 % of the cap -/
  capClamp : List Nat := [0, 0]
  capLow : Nat := 0
  droop : Bool := false
  /-- since when a rail is out of its window, by rail bit of R621 -/
  railOut : Tbl Nat := []
  /-- every rail has been in its window since power-up (R603) -/
  railsUp : Bool := false
  pscEn : Bool := false
  pscPg : Bool := false
  pscFault : Bool := false
  /-- consecutive telemetry frames since the last miss (R663) -/
  frames : Nat := 0
  /-- since when VIN and V3P3_AUX stand in their windows -/
  vinSince : Option Nat := none
  auxSince : Option Nat := none
  /-- the rails have been shut down: the next power-up is a cold start (R601) -/
  shutDown : Bool := false
  deriving DecidableEq, Repr

/-! ## Heartwood (ch. 20) -/

/-- A copy of the firmware set as heartwood has read it: its bytes from its start (R626), and the bodies of its stages,
each 256 bytes. -/
structure FwCopy where
  bytes : List Byte := []
  deriving DecidableEq, Repr

/-- Heartwood: its NVM (rollback counter, LMS index, provision records), its measurement slots, and how far the boot has
come. Assumption: 6 (DESIGN CHOICE). -/
structure HeartwoodState where
  /-- the rollback counter and the next LMS leaf (R631, R639) -/
  rollback : Nat := 0
  lmsIndex : Nat := 0
  /-- the provision record that took effect at the last cold reset, as its frame; none in a blank NVM -/
  prov : Option (List Byte) := none
  /-- a newer record that awaits a cold reset (R633) -/
  provPending : Option (List Byte) := none
  /-- the eight measurement slots (R628), 48 bytes each -/
  slots : List (List Byte) := List.replicate 8 (List.replicate 48 0)
  /-- the provision record has verified (R629), and its debug_unlock -/
  provOk : Bool := false
  debug : Bool := false
  /-- 0 ROM, 1 stage 1, 2 loader, 3 runtime -/
  stage : Nat := 0
  copyB : Bool := false
  svn : Nat := 0
  excludedA : Bool := false
  excludedB : Bool := false
  failCode : Nat := 0
  /-- the running set was taken through SMBus (R629) -/
  recovery : Bool := false
  /-- the copy that is running -/
  running : FwCopy := {}
  /-- heartwood's own memory and the hearth-die boot memory: load offset and payload (R626) -/
  ownMem : Nat × List Byte := (0, [])
  bootMem : Nat × List Byte := (0, [])
  /-- number of the free value that is the boot nonce (R629) -/
  nonce : Nat := 0
  /-- an ATTEST waits for its grove's batch (R640): grove and tag -/
  attWait : Option (Nat × Nat) := none
  deriving DecidableEq, Repr

/-! ## What the device sends -/

/-- What the device hands to the outside. Assumptions: 17 (DESIGN CHOICE), 84 (DESIGN CHOICE). -/
inductive Msg where
  /-- a flit sent on a trunk or branch port, under its sequence number -/
  | linkFlit (port : Nat) (f : LFlit)
  /-- a flit sent on an in-package link -/
  | hearthFlit (link : Nat) (flit : List Byte)
  /-- a message for a unit of this device that has arrived whole: the die, its opcode (R432), its sender, its address
  field and its payload -/
  | deliver (die opcode : Nat) (o : Origin) (address : Nat) (payload : List Byte)
  /-- data a channel controller returns to the unit that read it -/
  | readData (unit : MemUnit) (o : Origin) (offset : Nat) (data : List Byte)
  /-- a request a channel controller refuses: outcome 1 MEM_UNMAPPED, 2 MEM_UE, 3 refused
  under R95 -/
  | memFault (unit : MemUnit) (o : Origin) (offset outcome : Nat)
  /-- an RDMA answer: 0 acknowledgement, 1 remote access error, 2 invalid request -/
  | rdmaAnswer (qp code : Nat)
  /-- data an RDMA READ returns, or data of an RDMA request the G2 makes, with its tag -/
  | rdmaData (qp tag : Nat) (data : List Byte)
  /-- what an RDMA SEND, or a WRITE with immediate, hands to the hearth runtime: data and immediate -/
  | rdmaSend (qp : Nat) (data : List Byte) (immediate : Option Nat)
  /-- an RDMA WRITE or READ the Kiln makes on a queue pair: remote key, remote address, data or length, and its tag -/
  | rdmaWrite (qp rkey va : Nat) (data : List Byte) (tag : Nat)
  | rdmaRead (qp rkey va length tag : Nat)
  /-- a read of a buddy's slot: device, local offset, length and tag; the spec gives it no link message -/
  | kilnRead (device offset length tag : Nat)
  /-- a TCP connection on port 9460 reset (R118), or a TLS session opened or closed -/
  | tcpReset
  | sessionOpen (session : Nat)
  | sessionClose (session : Nat)
  /-- the answer to a TLS record: whether it was accepted -/
  | tlsAnswer (session : Nat) (ok : Bool)
  /-- bytes an SMBus read returns (R682, R684) -/
  | smbus (bytes : List Byte)
  deriving DecidableEq, Repr

/-! ## The device -/

/-- The whole device. The register window holds each register by its offset; an offset not listed holds its reset
value. A register whose map reports state held below is computed from it when read (`Ops`).
Assumption: 8 (DESIGN CHOICE). -/
structure State where
  /-- commands that wait, first in, first out -/
  pending : List Instr := []
  regs : Tbl Word := []
  /-- microseconds of the always-on island since cold reset (R525) -/
  aonUs : Nat := 0
  /-- what the device has sent to the outside, oldest first -/
  outbox : List Msg := []
  /-- hearth cores interrupted, oldest first (R111, R549) -/
  irqs : List Nat := []
  /-- the model's own: how many free values have been taken -/
  freeCtr : Nat := 0
  /-- the model's own: what each grove's page table spells (R12), by grove: 2 MiB page number to local offset -/
  pageMap : Tbl (Tbl Nat) := []
  grv : GroveState := {}
  hrt : HearthState := {}
  sch : SchedState := {}
  num : NumState := {}
  smp : SampState := {}
  gth : GathState := {}
  emb : EmbState := {}
  til : TileState := {}
  mem : MemState := {}
  lnk : LinkState := {}
  col : CollState := {}
  upd : UpdState := {}
  wch : WatchState := {}
  kln : KilnState := {}
  clk : ClockState := {}
  hwd : HeartwoodState := {}
  sup : StartState := {}
  pkg : PkgState := {}
  deriving DecidableEq, Repr

/-- The machine right after a cold reset: every register at its reset value (R17), kindling, nothing bound, nothing
in flight. Assumptions: 2 (DESIGN CHOICE), 6 (DESIGN CHOICE), 8 (DESIGN CHOICE), 77 (DESIGN CHOICE). -/
def State.reset : State := {}

end Sys2Proof.Machine
end

