-- ==== Sys2Proof/Machine/Ops.lean ====
section
/-! DEFINITION. The named operations over tables, bit fields, bytes and the register window. -/
namespace Sys2Proof.Machine

/-! ## Tables -/

/-- The entry of a table at a key. -/
def tget {α : Type} : Tbl α → Nat → Option α
  | [], _ => none
  | (i, v) :: t, k => if i = k then some v else tget t k

/-- The entry at a key, or `d` where there is none. -/
def tgetD {α : Type} (t : Tbl α) (k : Nat) (d : α) : α := (tget t k).getD d

/-- The table with `v` at key `k`; keys stay strictly rising. -/
def tset {α : Type} : Tbl α → Nat → α → Tbl α
  | [], k, v => [(k, v)]
  | (i, w) :: t, k, v => if k < i then (k, v) :: (i, w) :: t else if k = i then (k, v) :: t else (i, w) :: tset t k v

/-- The table without key `k`. -/
def terase {α : Type} (t : Tbl α) (k : Nat) : Tbl α := t.filter fun p => p.1 != k

/-- The table with the entry at `k`, or the default `d`, changed by `f`. -/
def tmod {α : Type} (t : Tbl α) (k : Nat) (d : α) (f : α → α) : Tbl α := tset t k (f (tgetD t k d))

/-- The table with every entry changed by `f`. -/
def tmap {α : Type} (t : Tbl α) (f : Nat → α → α) : Tbl α := t.map fun p => (p.1, f p.1 p.2)

/-- A number inserted into a strictly rising list. -/
def sinsert : List Nat → Nat → List Nat
  | [], k => [k]
  | i :: t, k => if k < i then k :: i :: t else if k = i then i :: t else i :: sinsert t k

/-- The list with the element at position `i` replaced. -/
def lset {α : Type} (l : List α) (i : Nat) (v : α) : List α := l.set i v

/-! ## Bit fields and bytes -/

/-- The field of width `w` at bit `lo` of a number. -/
def fld (v lo w : Nat) : Nat := v / 2 ^ lo % 2 ^ w

/-- One bit of a number. -/
def bit (v i : Nat) : Bool := v.testBit i

/-- One bit as a number. -/
def b2n (b : Bool) : Nat := if b then 1 else 0

/-- The field of width `w` at bit `lo` of a register word. -/
def wfld (v : Word) (lo w : Nat) : Nat := fld v.toNat lo w

/-- The word with that field set. -/
def setFld (v : Word) (lo w x : Nat) : Word :=
  BitVec.ofNat 64 (v.toNat - wfld v lo w * 2 ^ lo + x % 2 ^ w * 2 ^ lo)

/-- The positions below `n` whose bit a mask sets, ascending. -/
def maskBits (m n : Nat) : List Nat := (List.range n).filter fun i => m.testBit i

/-- The little-endian number that bytes spell (R5). -/
def le : List Byte → Nat
  | [] => 0
  | b :: t => b.toNat + 256 * le t

/-- `n` bytes of a number, little-endian (R5). -/
def toLe : Nat → Nat → List Byte
  | 0, _ => []
  | n + 1, x => BitVec.ofNat 8 (x % 256) :: toLe n (x / 256)

/-- The little-endian number of `n` bytes at offset `off`. -/
def leAt (bs : List Byte) (off n : Nat) : Nat := le ((bs.drop off).take n)

/-- Whether the `n` bytes at offset `off` are all zero (R6). -/
def zeroAt (bs : List Byte) (off n : Nat) : Bool := ((bs.drop off).take n).all (· == 0)

/-- The bytes cut or filled with zeros to length `n`. -/
def padTo (n : Nat) (bs : List Byte) : List Byte := (bs ++ List.replicate n 0).take n

/-- A two's complement field as an integer. -/
def toSigned (w v : Nat) : Int := if v < 2 ^ (w - 1) then v else (v : Int) - 2 ^ w

/-- An integer as the number of its `w` low bits. -/
def ofSigned (w : Nat) (i : Int) : Nat := (i % (2 ^ w : Int)).toNat

/-- Whether value `a` is after `b` in serial-number arithmetic of width `w` (R151). -/
def serialAfter (a b w : Nat) : Bool :=
  let d := (a + 2 ^ w - b % 2 ^ w) % 2 ^ w
  d != 0 && d < 2 ^ (w - 1)

/-- Difference modulo 2^w. -/
def subMod (w a b : Nat) : Nat := (a + 2 ^ w - b % 2 ^ w) % 2 ^ w

/-- CRC-32C over bytes (R86): polynomial 0x1EDC_6F41 reflected, initial value 0xFFFF_FFFF, final inversion. -/
def crcBit (c : Nat) : Nat := if c % 2 = 1 then c / 2 ^^^ 0x82F63B78 else c / 2

/-- Eight bit steps of the CRC. -/
def crcByte (c : Nat) (b : Byte) : Nat :=
  let x := c ^^^ b.toNat
  crcBit (crcBit (crcBit (crcBit (crcBit (crcBit (crcBit (crcBit x)))))))

/-- The CRC-32C of bytes. -/
def crc32c (bs : List Byte) : Nat := bs.foldl crcByte 0xFFFFFFFF ^^^ 0xFFFFFFFF

/-! ## The register window -/

/-- The stored value of a register's copy: what was last put there, or its reset value (R17). -/
def State.getReg (s : State) (r : Reg) (ix : List Nat) : Word :=
  tgetD s.regs (regAddr r ix) (regReset r ix)

/-- The state with a register's copy holding `v`. -/
def State.putReg (s : State) (r : Reg) (ix : List Nat) (v : Word) : State :=
  { s with regs := tset s.regs (regAddr r ix) v }

/-- The state with one field of a register's copy set by the hardware. -/
def State.putFld (s : State) (r : Reg) (ix : List Nat) (lo w x : Nat) : State :=
  s.putReg r ix (setFld (s.getReg r ix) lo w x)

/-- A field of a register's copy. -/
def State.regFld (s : State) (r : Reg) (ix : List Nat) (lo w : Nat) : Nat := wfld (s.getReg r ix) lo w

/-- The state with a register's copy back at its reset value. -/
def State.resetReg (s : State) (r : Reg) (ix : List Nat) : State :=
  { s with regs := terase s.regs (regAddr r ix) }

/-- What the access codes of R14 do to a stored value when software writes `v`: RW and RWS fields take it, a W1C field
clears the bits written 1, every other bit stays. Assumption: 23 (DEDUCED). -/
def accessWrite (r : Reg) (old v : Word) : Word :=
  let rw := BitVec.ofNat 64 (accMask r fun a => a == .rw || a == .rws)
  let w1c := BitVec.ofNat 64 (accMask r fun a => a == .w1c)
  (old &&& ~~~rw &&& ~~~(w1c &&& v)) ||| (v &&& rw)

/-- A software write to a register's copy by its access codes. -/
def State.softWrite (s : State) (r : Reg) (ix : List Nat) (v : Word) : State :=
  s.putReg r ix (accessWrite r (s.getReg r ix) v)

/-! ## Messages, interrupts, free values -/

/-- The state with a message sent. Assumption: 84 (DESIGN CHOICE). -/
def State.emit (s : State) (m : Msg) : State := { s with outbox := s.outbox ++ [m] }

/-- The state with messages sent, in order. -/
def State.emits (s : State) (ms : List Msg) : State := { s with outbox := s.outbox ++ ms }

/-- The number of the next free value, and the state that has taken it. Assumption: 8 (DESIGN CHOICE). -/
def State.fresh (s : State) : Nat × State := (s.freeCtr, { s with freeCtr := s.freeCtr + 1 })

/-- A fold of state changes over a list. -/
def State.each {α : Type} (s : State) (l : List α) (f : State → α → State) : State := l.foldl f s

/-- A change of what the always-on island judges or holds: RESET_N holds it in reset (R667). Assumption: 5 (DEDUCED). -/
def State.unheld (s : State) (f : State → State) : State := if s.sup.recovery == .resetHeld then s else f s

/-- The units and tiles run: not in the ash state, in smoulder, while banked or while RESET_N is low (R595, R605, R660,
R667). Assumption: 5 (DEDUCED). -/
def State.islandsRun (s : State) : Bool :=
  s.sup.phase != .ash && s.sup.phase != .smoulder && !s.clk.banked && s.sup.recovery != .resetHeld

/-- A change that only happens while the compute dies run: in smoulder they are clock-gated (R605), in the ash state they
take no work (R659), while banked only the hearth die and the always-on island run (R595), and under RESET_N nothing
does (R667). Assumption: 5 (DEDUCED). -/
def State.onDie (s : State) (f : State → State) : State := if s.islandsRun then f s else s

/-- A change while the in-package links and the memory PHYs may train: the islands run, or a recovery trains them. -/
def State.inTraining (s : State) (f : State → State) : State :=
  if s.islandsRun || s.sup.recovery == .training then f s else s

/-- A change of the blocks that the ash state does not answer (R44, R660). Assumption: 5 (DEDUCED). -/
def State.awake (s : State) (f : State → State) : State :=
  if s.sup.phase == .ash || s.sup.recovery == .resetHeld then s else f s

/-! ## The device, its groves and its steps -/

/-- GLB_DEVNUM.device_number (R41). -/
def State.devnum (s : State) : Nat := s.regFld .GLB_DEVNUM [] 0 15

/-- GLB_DEVNUM.valid. -/
def State.devnumValid (s : State) : Bool := s.regFld .GLB_DEVNUM [] 15 1 == 1

/-- The binding of a grove id. -/
def State.grove (s : State) (g : Nat) : Grove := tgetD s.grv.groves g {}

/-- The step machine of a grove. -/
def State.step_ (s : State) (g : Nat) : GroveStep := tgetD s.col.steps g {}

/-- The state with a grove's step machine changed. -/
def State.modStep (s : State) (g : Nat) (f : GroveStep → GroveStep) : State :=
  { s with col := { s.col with steps := tmod s.col.steps g {} f } }

/-- The state with a grove's binding changed. -/
def State.modGrove (s : State) (g : Nat) (f : Grove → Grove) : State :=
  { s with grv := { s.grv with groves := tmod s.grv.groves g {} f } }

/-- The grove ids bound on this device, ascending. -/
def State.boundGroves (s : State) : List Nat := (List.range 16).filter fun g => (s.grove g).bound

/-- The bound grove whose resource mask, as `f` gives it, holds resource `i` (R45). -/
def State.ownerBy (s : State) (f : Grove → Nat) (i : Nat) : Option Nat :=
  (List.range 16).find? fun g => (s.grove g).bound && (f (s.grove g)).testBit i

/-- The grove that holds a tile. -/
def State.tileOwner (s : State) (t : Nat) : Option Nat := s.ownerBy Grove.tiles t

/-- The grove that holds a channel. -/
def State.channelOwner (s : State) (c : Nat) : Option Nat := s.ownerBy Grove.channels c

/-- The grove that holds a twig lane. -/
def State.laneOwner (s : State) (l : Nat) : Option Nat := s.ownerBy Grove.lanes l

/-- Whether one of a list of ranges (first, count) holds `i`. -/
def inRanges (rs : List (Nat × Nat)) (i : Nat) : Bool := rs.any fun r => r.1 ≤ i && i < r.1 + r.2

/-- The grove that holds a knot. -/
def State.knotOwner (s : State) (k : Nat) : Option Nat :=
  (List.range 16).find? fun g => (s.grove g).bound && inRanges (s.grove g).knots k

/-- The grove that holds a random stream. -/
def State.streamOwner (s : State) (k : Nat) : Option Nat :=
  (List.range 16).find? fun g => (s.grove g).bound && inRanges (s.grove g).streams k

/-- Whether a grove id is bound with a generation (R73). -/
def State.groveIs (s : State) (g gen : Nat) : Bool := (s.grove g).bound && (s.grove g).generation == gen

/-- The tile may be used by the grove: bound to it and not excluded (R536). -/
def State.tileUsable (s : State) (g t : Nat) : Bool :=
  s.tileOwner t == some g && !(tgetD s.wch.tiles t {}).excluded

/-- The die of a tile, a channel, a knot, a lane, a stream, a port (R20, R441). -/
def dieOfTile (t : Nat) : Nat := t / 64
/-- The die of a channel (R20). -/
def dieOfChannel (c : Nat) : Nat := c / 240
/-- The die of a knot (R20). -/
def dieOfKnot (k : Nat) : Nat := k / 8192
/-- The die of a twig lane (R20). -/
def dieOfLane (l : Nat) : Nat := l / 16
/-- The die of a port: trunk directions 0 to 2 and branch ports 0 to 7 lie on CD0 (R20). -/
def dieOfPort (p : Nat) : Nat := if p < 6 then p / 3 else (p - 16) / 8
/-- The die of a command queue (R97). -/
def dieOfQueue (q : Nat) : Nat := q / 64

/-- The 48-bit step after `n`, and before it. -/
def stepSucc (n : Nat) : Nat := (n + 1) % 2 ^ 48
/-- The 48-bit step before `n`. -/
def stepPred (n : Nat) : Nat := (n + 2 ^ 48 - 1) % 2 ^ 48

end Sys2Proof.Machine
end

