-- ==== Sys2Proof/Machine/Ecc.lean ====
section
/-! DEFINITION. The two line codes of ch. 13: what the decoder makes of a burst whose bits arrive flipped. Both codes
are linear, so the flips alone decide (R402, R403). -/
namespace Sys2Proof.Machine

/-- What a decoder reports of a burst (R404): clean; corrected, with the lane of each symbol or bit corrected;
uncorrectable; or, for flips beyond its capacity, wrong data with the lanes it believes it corrected. -/
inductive EccOut where
  | clean
  | corrected (lanes : List Nat)
  | uncorrectable
  | wrong (lanes : List Nat)
  deriving DecidableEq, Repr

/-- Multiplication by x in GF(2^16) with field polynomial 0x1_100B (R402). -/
def gfX (a : Nat) : Nat := if a * 2 ≥ 0x10000 then (a * 2) ^^^ 0x1100B else a * 2

/-- Multiplication in GF(2^16) (R402), over the 16 bits of `b` from the highest. -/
def gfMul (a b : Nat) : Nat :=
  (List.range 16).foldl (fun r i => (gfX r) ^^^ (if b.testBit (15 - i) then a else 0)) 0

/-- a^n in GF(2^16). -/
def gfPow (a : Nat) : Nat → Nat
  | 0 => 1
  | n + 1 => gfMul a (gfPow a n)

/-- The inverse in GF(2^16): a^(2^16 - 2), by fifteen squarings. -/
def gfInv (a : Nat) : Nat :=
  ((List.range 15).foldl (fun p _ => (gfMul p.1 p.1, gfMul p.2 (gfMul p.1 p.1))) (a, 1)).2

/-- The locator of symbol i, the coefficient of x^(35 - i): α^(35 - i) with α = 2 (R402). -/
def rsLoc (i : Nat) : Nat := gfPow 2 (35 - i)

/-- The flips of a burst as symbol errors: bit j of symbol 2L + h is lane L at beat 16h + j (R402). -/
def symErrors (e : BurstErr) : List Nat :=
  e.foldl (fun l p => if p.1 < 18 then l.modify (2 * p.1 + p.2 / 16) (· ^^^ 2 ^ (p.2 % 16)) else l)
    (List.replicate 36 0)

/-- Syndrome j of symbol errors: the error polynomial at α^j. -/
def rsSyndrome (es : List Nat) (j : Nat) : Nat :=
  (es.zipIdx).foldl (fun r p => if p.1 = 0 then r else r ^^^ gfMul p.1 (gfPow (rsLoc p.2) j)) 0

/-- The four check symbols of 32 data symbols: the remainder of d(x) * x^4 modulo g(x), whose roots are α^0 to α^3
(R402). g(x) = x^4 + g3 x^3 + g2 x^2 + g1 x + g0. -/
def rsCheck (data : List Nat) : List Nat :=
  let e1 := 1 ^^^ 2 ^^^ 4 ^^^ 8
  let pairs := [(1, 2), (1, 4), (1, 8), (2, 4), (2, 8), (4, 8)]
  let e2 := pairs.foldl (fun r p => r ^^^ gfMul p.1 p.2) 0
  let e3 := (gfMul 1 (gfMul 2 4)) ^^^ (gfMul 1 (gfMul 2 8)) ^^^ (gfMul 1 (gfMul 4 8)) ^^^ (gfMul 2 (gfMul 4 8))
  let e4 := gfMul 2 (gfMul 4 8)
  data.foldl (fun r d =>
    match r with
    | [r3, r2, r1, r0] =>
      let f := d ^^^ r3
      [r2 ^^^ gfMul f e1, r1 ^^^ gfMul f e2, r0 ^^^ gfMul f e3, gfMul f e4]
    | _ => r) [0, 0, 0, 0]

/-- One elimination step of a linear system over GF(2^16), rows with their right side last: clears the first column of
every row below the pivot. -/
def gfSolve : Nat → List (List Nat) → Option (List Nat)
  | 0, rows => if rows.all fun r => r.all (· == 0) then some [] else none
  | n + 1, rows =>
    match rows.find? (fun r => r.headD 0 ≠ 0) with
    | none => none
    | some piv =>
      let inv := gfInv (piv.headD 0)
      let pr := piv.tail.map (gfMul inv)
      let rest := (rows.erase piv).map fun r => (r.tail.zip pr).map fun q => q.1 ^^^ gfMul (r.headD 0) q.2
      match gfSolve n rest with
      | none => none
      | some xs =>
        let x := ((pr.zip xs).foldl (fun a q => a ^^^ gfMul q.1 q.2) (pr.getLastD 0))
        some (x :: xs)

/-- Error values at symbol positions `ps` that explain the four syndromes, where there are any. -/
def rsFit (ss : List Nat) (ps : List Nat) : Option (List Nat) :=
  gfSolve ps.length (ss.zipIdx.map fun q => ps.map (fun p => gfPow (rsLoc p) q.2) ++ [q.1])

/-- The decoder of mode 0 (R402): with erasures at `er`, finds errors at up to (4 - e) / 2 further symbols. -/
def rsDecode (er : List Nat) (ss : List Nat) : Option (List (Nat × Nat)) :=
  let fit := fun ps => (rsFit ss ps).map fun xs => ps.zip xs
  let all := List.range 36
  match fit er with
  | some r => some r
  | none =>
    if er.length > 2 then none
    else
      match (all.filter fun p => !er.contains p).findSome? (fun p => fit (er ++ [p])) with
      | some r => some r
      | none =>
        if er.length > 0 then none
        else all.findSome? fun p => (all.filter (p < ·)).findSome? fun q => fit [p, q]

/-- Mode 0 of R402 on a burst, with the lanes recorded dead (R406): the first two are erasures; once two are, no error
beyond them is corrected. Assumption: 12 (DESIGN CHOICE). -/
def eccMode0 (dead : List Nat) (e : BurstErr) : EccOut :=
  let es := symErrors e
  if es.all (· == 0) then .clean
  else
    let er := (dead.take 2).flatMap fun l => [2 * l, 2 * l + 1]
    let outside := (es.zipIdx.filter fun p => p.1 ≠ 0 && !er.contains p.2)
    if er.length ≥ 4 then
      if outside.isEmpty then .corrected [] else .uncorrectable
    else
      match rsDecode er ((List.range 4).map (rsSyndrome es)) with
      | none => .uncorrectable
      | some fix =>
        let found := fix.filter fun p => p.2 ≠ 0
        if found.all (fun p => es.getD p.1 0 == p.2) && (es.zipIdx.all fun p => p.1 == 0 || found.any (·.1 == p.2))
        then .corrected (outside.map fun p => p.2 / 2)
        else .wrong ((found.filter fun p => !er.contains p.1).map fun p => p.1 / 2)

/-- The eight-bit numbers of a weight, ascending. -/
def ofWeight (w : Nat) : List Nat :=
  (List.range 256).filter fun v => ((List.range 8).filter v.testBit).length == w

/-- The columns h_0 to h_63 of mode 1 (R403). -/
def d1Columns : List Nat := (ofWeight 3) ++ (ofWeight 5).take 8

/-- Mode 1 of R403 on a burst: `spare` is the lane that lane 18 replaces, `lost` a dead lane without a spare, whose
words are uncorrectable (R406). Assumption: 12 (DESIGN CHOICE). -/
def eccMode1 (spare lost : Option Nat) (e : BurstErr) : EccOut :=
  -- the spare's beats act as those of the lane it replaces, whose own beats count for nothing
  let e : BurstErr := match spare with
    | some l => (e.filter fun p => p.1 ≠ l).map fun p => if p.1 = 18 then (l, p.2) else p
    | none => e.filter fun p => p.1 ≠ 18
  if lost.isSome then .uncorrectable
  else
    -- bit position within word w: data lane L at beat 4w + k is bit 16k + L; check bit 2k + (L - 16)
    let word := fun w => e.filter fun p => p.2 / 4 == w
    let syn := fun w => (word w).foldl (fun s p =>
      if p.1 < 16 then s ^^^ d1Columns.getD (16 * (p.2 % 4) + p.1) 0 else s ^^^ 2 ^ (2 * (p.2 % 4) + (p.1 - 16))) 0
    let res := (List.range 8).map fun w =>
      let n := (word w).length
      if n = 0 then EccOut.clean
      else if syn w = 0 then .wrong []
      else
        -- the lane of the data or check bit that the syndrome names
        let lane := match d1Columns.findIdx? (· == syn w) with
          | some i => some (i % 16)
          | none => ((ofWeight 1).findIdx? (· == syn w)).map fun j => 16 + j % 2
        match lane with
        | some l => if n = 1 then .corrected [l] else .wrong [l]
        | none => .uncorrectable
    let lanes := res.flatMap fun r => match r with
      | .corrected l => l
      | .wrong l => l
      | _ => []
    let bad := res.any fun r => match r with
      | .wrong _ => true
      | _ => false
    if res.contains .uncorrectable then .uncorrectable
    else if bad then .wrong lanes
    else if lanes.isEmpty then .clean else .corrected lanes

end Sys2Proof.Machine
end

