-- ==== Sys2Proof/Machine/Flags.lean ====
section
/-! DEFINITION. Status and error flags: statistics counters (R150), the error log (R525 to R533), smoke heat (R540),
FAULT_LAST registers and register-access records (R529). -/
namespace Sys2Proof.Machine

/-! ## Blocks of the window -/

/-- The source whose span of the window holds an offset (R38, R528, R529); GLB outside every span. The bough engine's
span holds three sources; its offsets past the GTH sub-block count as EMB's. -/
def srcOfOffset (off : Nat) : Src :=
  if off < 0x10000 then .glb
  else if off < 0x20000 then .clk
  else if off < 0x30000 then .pwr
  else if off < 0x40000 then .wch
  else if off < 0x50000 then .hwd
  else if off < 0x60000 then .hlk
  else if off < 0x100000 then .glb
  else if off < 0x200000 then .grv
  else if off < 0x400000 then .sch
  else if off < 0x500000 then .col
  else if off < 0x600000 then .upd
  else if off < 0x700000 then .kln
  else if off < 0x1000000 then .glb
  else if off < 0x2000000 then
    (let o := off % 0x800000
     if o < 0x10000 then .smp else if o < 0x20000 then .gth else .emb)
  else if off < 0x3000000 then .mem
  else if off < 0x4000000 then .lnk
  else if off < 0x10000000 then .glb
  else if off < 0x18000000 then
    (let o := off % 0x100000
     if o < 0x80000 then .til else if o < 0xC0000 then .svu else .smu)
  else .glb

/-- The die an offset's register belongs to (R39, R526): a compute die's, or 2 for the hearth die and the device. -/
def dieOfOffset (off : Nat) : Nat :=
  if off < 0x50000 then 2
  else if off < 0x50100 then 0
  else if off < 0x50200 then 1
  else if off < 0x51000 then 2
  else if off < 0x53000 then (off - 0x51000) / 0x40 / 64
  else if off < 0x100000 then 2
  else if off < 0x200000 then (off - 0x100000) / 0x80000
  else if off < 0x280000 then (off - 0x200000) / 0x1000 / 64
  else if off < 0x300000 then (off - 0x280000) / 0x40000
  else if off < 0x700000 then off % 0x100000 / 0x80000
  else if off < 0x1000000 then 2
  else if off < 0x4000000 then off % 0x1000000 / 0x800000
  else if off < 0x10000000 then 2
  else if off < 0x18000000 then (off - 0x10000000) / 0x100000 / 64
  else 2

/-- The number of a source (R528). -/
def Src.number : Src → Nat
  | .glb => 0x01 | .clk => 0x02 | .pwr => 0x03 | .wch => 0x04 | .hwd => 0x05 | .hlk => 0x06 | .grv => 0x10
  | .sch => 0x20 | .col => 0x40 | .upd => 0x50 | .kln => 0x60 | .smp => 0x70 | .gth => 0x71 | .emb => 0x72
  | .mem => 0x80 | .lnk => 0x90 | .til => 0xA0 | .svu => 0xA1 | .smu => 0xA2

/-- The number of a severity (R525). -/
def Sev.number : Sev → Nat
  | .corrected => 0 | .deferred => 1 | .contained => 2 | .fatal => 3

/-! ## The log -/

/-- Adds to a statistics counter's word (R150): saturates at 2^48 - 1 and then sets overflow; says whether overflow
became set. -/
def statAdd (v : Word) (n : Nat) : Word × Bool :=
  if wfld v 0 48 + n ≤ 2 ^ 48 - 1 then (setFld v 0 48 (wfld v 0 48 + n), false)
  else (setFld (setFld v 0 48 (2 ^ 48 - 1)) 63 1 1, wfld v 63 1 == 0)

/-- Interrupts the hearth core of WCH_NOTIFY when the severity is enabled (R549). Assumption: 19 (DEDUCED). -/
def State.notify (s : State) (sev : Sev) : State :=
  if (s.regFld .WCH_NOTIFY [] 0 4).testBit sev.number then
    { s with irqs := s.irqs ++ [s.regFld .WCH_NOTIFY [] 32 5] }
  else s

/-- WCH_FATAL takes the first fatal record since the last recovery (R533), and the cause list of R663 takes each.
Assumption: 19 (DEDUCED). -/
def State.keepFatal (s : State) (r : LogRec) : State :=
  if r.sev == .fatal then
    { s with
      wch := { s.wch with fatal := some (s.wch.fatal.getD r) }
      sup := { s.sup with causes := s.sup.causes ++ [(r.src, r.code, r.detail)] } }
  else s

/-- Puts a record into the log, or drops it when the log is full (R532, R533, R549, R684). Assumption: 19 (DEDUCED). -/
def State.logRec (s : State) (r : LogRec) : State :=
  let head := s.regFld .WCH_LOG_HEAD [] 0 32
  let r := { r with seq := head }
  if subMod 32 head (s.regFld .WCH_LOG_TAIL [] 0 32) ≥ 1024 then
    -- dropped: counted in WCH_LOG_LOST, its severity merged into worst_lost
    let worst := max (s.regFld .WCH_LOG_STATE [] 1 2) r.sev.number
    let s := s.putReg .WCH_LOG_LOST [] (statAdd (s.getReg .WCH_LOG_LOST []) 1).1
    let s := (s.putFld .WCH_LOG_STATE [] 0 1 1).putFld .WCH_LOG_STATE [] 1 2 worst
    { s with wch := { s.wch with droppedSince := s.wch.droppedSince + 1 } }.keepFatal r
  else
    let s := { s with wch := { s.wch with log := tset s.wch.log (head % 1024) r } }
    let s := s.putFld .WCH_LOG_HEAD [] 0 32 (head + 1)
    let s := if r.sev == .corrected then s else { s with sup := { s.sup with alertLow := true } }
    (s.notify r.sev).keepFatal r

/-- The record of an error raised now (R525, R526). Assumption: 18 (DESIGN CHOICE). -/
def State.mkRec (s : State) (src : Src) (sev : Sev) (die code : Nat) (grove : Option Nat) (detail : Nat) : LogRec :=
  { seq := 0, src := src, sev := sev, die := die, code := code, grove := grove,
    gen := (grove.map fun g => (s.grove g).generation).getD 0,
    step := (grove.map fun g => (s.step_ g).step).getD 0,
    attempt := (grove.map fun g => (s.step_ g).attempt).getD 0,
    time := s.aonUs % 2 ^ 32, detail := detail % 2 ^ 64 }

/-! ## Smoke heat -/

/-- floor(log2 n), 0 for 0. -/
def log2 (n : Nat) : Nat := n.log2

/-- The smoke level of a heat (R540). -/
def smokeLevel (heat : Nat) : Nat := min 15 (log2 (heat + 1))

/-- Adds an event's weight to a grove's heat, and crosses its threshold (R540, R541). -/
def State.addHeat (s : State) (w : Nat) (g : Nat) : State :=
  let old := tgetD s.wch.heat g 0
  let new := min 0xFFFF (old + w)
  let s := { s with wch := { s.wch with heat := tset s.wch.heat g new } }
  let thr := (s.grove g).params.smokeThreshold
  if thr ≠ 0 ∧ smokeLevel old < thr ∧ thr ≤ smokeLevel new then
    (s.putFld .WCH_SMOKE [g] 32 1 1).logRec (s.mkRec .wch .corrected 2 0x06 (some g) 0)
  else s

/-- Adds an event's weight to the heat of every grove it concerns. Assumption: 20 (DEDUCED). -/
def State.heatOn (s : State) (w : Nat) (gs : List Nat) : State := s.each gs fun s g => s.addHeat w g

/-! ## Records -/

/-- Writes an error record that is not fatal. A CLK or PWR record of severity deferred or above adds its weight to
every bound grove (R540). Assumptions: 18 (DESIGN CHOICE), 19 (DEDUCED). -/
def State.record (s : State) (src : Src) (sev : Sev) (die code : Nat) (grove : Option Nat) (detail : Nat) : State :=
  let s := s.logRec (s.mkRec src sev die code grove detail)
  if (src == .clk || src == .pwr) && sev != .corrected then s.heatOn 512 s.boundGroves else s

/-- Adds `n` to a statistics counter (R150); when it saturates, one corrected STAT_OVERFLOW record holds the
register's offset (R529). Assumption: 45 (DESIGN CHOICE). -/
def State.bump (s : State) (r : Reg) (ix : List Nat) (n : Nat := 1) : State :=
  let p := statAdd (s.getReg r ix) n
  let s := s.putReg r ix p.1
  let off := regAddr r ix
  if p.2 then s.record (srcOfOffset off) .corrected (dieOfOffset off) 0xF0 none off else s

/-- A register-access record (R529): kind 0 narrow, 1 misaligned, 2 unoccupied, 3 refused write. -/
def State.regAccess (s : State) (off kind : Nat) : State :=
  s.record (srcOfOffset off) .contained (dieOfOffset off) 0xF2 none (off % 2 ^ 30 + kind * 2 ^ 30)

/-- The refused-write record of R16, R42 and the like. -/
def State.refuseWrite (s : State) (r : Reg) (ix : List Nat) : State := s.regAccess (regAddr r ix) 3

/-- Interrupts a hearth core (R111). -/
def State.interrupt (s : State) (core : Nat) : State := { s with irqs := s.irqs ++ [core] }

/-- The number of the STALE_GROVE code in a source's own table, 0xF1 where it has none (R529). -/
def staleCode : Src → Nat
  | .col => 0x10 | .gth => 0x0B | .emb => 0x10 | .smp => 0x0B
  | _ => 0xF1

/-- The contained STALE_GROVE record of R75: returned generation and unbound flag. -/
def State.staleRecord (s : State) (src : Src) (die grove gen : Nat) (unbound : Bool) : State :=
  s.record src .contained die (staleCode src) (some grove) (gen + b2n unbound * 2 ^ 16)

end Sys2Proof.Machine
end

