-- ==== Sys2Proof/Machine/Memory.lean ====
section
/-! DEFINITION. Memory: local offsets to channels (R390, R391), bytes and lines under the channel's key (R70, R71,
R702), the write-combining and adder buffers (R394, R401), and reads and writes by the engines. -/
namespace Sys2Proof.Machine

/-! ## Cells in their canonical form -/

/-- The byte listed at a place, if any. -/
def cellGet : List Host.Cell → Nat → Option Byte
  | [], _ => none
  | (i, v) :: t, k => if i = k then some v else if k < i then none else cellGet t k

/-- The cells with byte `v` at place `k`: a zero byte is not listed. -/
def cellPut : List Host.Cell → Nat → Byte → List Host.Cell
  | [], k, v => if v = 0 then [] else [(k, v)]
  | (i, w) :: t, k, v =>
    if k < i then (if v = 0 then (i, w) :: t else (k, v) :: (i, w) :: t)
    else if k = i then (if v = 0 then t else (k, v) :: t)
    else (i, w) :: cellPut t k v

/-- The cells of places below `lo` or at `hi` and above. -/
def cellDrop (l : List Host.Cell) (lo hi : Nat) : List Host.Cell := l.filter fun c => c.1 < lo || hi ≤ c.1

/-- Places strictly rise. -/
def risingFrom : Option Nat → List Host.Cell → Bool
  | _, [] => true
  | none, (i, v) :: t => v != 0 && risingFrom (some i) t
  | some j, (i, v) :: t => j < i && v != 0 && risingFrom (some i) t

/-- The canonical form of memory: places strictly rise and no listed byte is zero. Assumption: 11 (DEDUCED). -/
def Memory.wf (l : List Host.Cell) : Bool := risingFrom none l

/-! ## Channels -/

/-- A hearth-region channel (R22). -/
def isHearthChannel (c : Nat) : Bool := (32 ≤ c && c < 40) || (272 ≤ c && c < 280)

/-- A hearth octet (R390). -/
def isHearthOctet (k : Nat) : Bool := k == 4 || k == 34

/-- A logical channel's controller. -/
def State.channel (s : State) (c : Nat) : Channel := tgetD s.mem.channels c {}

/-- The state with a channel's controller changed. -/
def State.modChannel (s : State) (c : Nat) (f : Channel → Channel) : State :=
  { s with mem := { s.mem with channels := tmod s.mem.channels c {} f } }

/-- The physical channel that serves a logical one: itself until a map-out or MEM_CHMAP_SET (R410, R412). -/
def State.physOf (s : State) (c : Nat) : Nat := (s.channel c).physical.getD c

/-- A physical channel. -/
def State.phys (s : State) (p : Nat) : PhysChannel := tgetD s.mem.phys p {}

/-- The state with a physical channel changed. -/
def State.modPhys (s : State) (p : Nat) (f : PhysChannel → PhysChannel) : State :=
  { s with mem := { s.mem with phys := tmod s.mem.phys p {} f } }

/-- An octet is striped when one grove holds all eight of its channels, and for the hearth octets (R390). -/
def State.striped (s : State) (k : Nat) : Bool :=
  isHearthOctet k ||
    (match s.channelOwner (8 * k) with
     | none => false
     | some g => (List.range 8).all fun i => s.channelOwner (8 * k + i) == some g)

/-- The place of a byte: channel * 2^31 + b. Assumption: 11 (DEDUCED). -/
def place (c b : Nat) : Nat := c * 2 ^ 31 + b

/-- Bank, row and line of a byte within a channel (R390). -/
def split (b : Nat) : Nat × Nat × Nat :=
  let row := b / 2 ^ 15
  ((fld b 11 4) ^^^ (row % 16), row, fld b 6 5)

/-- The channel and byte of a local offset, none where the offset is unoccupied (R390, R391). -/
def State.locate (s : State) (o : Nat) : Option (Nat × Nat) :=
  let stripe := fun k w => (8 * k + fld o 12 3, w / 2 ^ 15 * 2 ^ 12 + o % 2 ^ 12)
  if o < 0xF000000000 then
    let k := o / 2 ^ 34
    let w := o % 2 ^ 34
    if isHearthOctet k then none
    else
      let p := if s.striped k then stripe k w else (8 * k + w / 2 ^ 31, w % 2 ^ 31)
      if (s.channel p.1).absent then none else some p
  else if 0x10000000000 ≤ o ∧ o < 0x10800000000 then
    some (stripe (if o < 0x10400000000 then 4 else 34) ((o - 0x10000000000) % 2 ^ 34))
  else none

/-- The state with the memory's cells changed. -/
def State.modCells (s : State) (f : List Host.Cell → List Host.Cell) : State :=
  { s with mem := { s.mem with cells := f s.mem.cells } }

/-! ## Lines under the present key -/

/-- The scrub or a write has reached a line: it reads as written or as zero (R71). A hearth line does so from the
start of the hearth scrub (R702). Assumption: 10 (DESIGN CHOICE). -/
def State.lineKnown (s : State) (c line : Nat) : Bool :=
  (isHearthChannel c && s.mem.hearthKeyed) || line < (s.channel c).scrubPos || s.mem.written.contains (c * 2 ^ 25 + line)

/-- The epoch of a channel's key: its bind count (R69), or the hearth key's (R95), in the present cold start. -/
def State.keyEpoch (s : State) (c : Nat) : Nat :=
  s.mem.hearthEpoch * 2 ^ 33 + (if isHearthChannel c then 2 ^ 32 else tgetD s.grv.bindCount c 0)

/-- The byte the stack holds under the present key: what was written, zero in a line reached or written, and an
unrelated value elsewhere (R70, R71). Assumption: 10 (DESIGN CHOICE). -/
def State.rawByte (s : State) (c b : Nat) : Byte :=
  match cellGet s.mem.cells (place c b) with
  | some v => v
  | none => if s.lineKnown c (b / 64) then 0 else Config.unkeyedByte (s.keyEpoch c) (place c b)

/-- The 64 bytes of a line in the stack. -/
def State.rawLine (s : State) (c line : Nat) : List Byte := (List.range 64).map fun i => s.rawByte c (64 * line + i)

/-- The line number of the whole device: channel * 2^25 + line. -/
def lineNo (c line : Nat) : Nat := c * 2 ^ 25 + line

/-- The stack's read of a line finds it uncorrectable (R396, R404). -/
def State.lineBad (s : State) (c line : Nat) : Bool := s.mem.bad.contains (lineNo c line)

/-- Writes a whole line to the stack: its bytes, its written bit; an uncorrectable line is replaced (R396).
Assumption: 11 (DEDUCED). -/
def State.putLine (s : State) (c line : Nat) (bs : List Byte) : State :=
  { s with mem := { s.mem with
      cells := (bs.zipIdx).foldl (fun l p => cellPut l (place c (64 * line + p.2)) p.1) s.mem.cells
      written := sinsert s.mem.written (lineNo c line)
      bad := s.mem.bad.filter (· != lineNo c line) } }

/-- The number of the 4-byte word at byte `o` of a line, by channel * 2^29 + (b >> 2). -/
def wordNo (c line o : Nat) : Nat := 16 * lineNo c line + o / 4

/-- Words for which `p` holds are saturated targets no more (R400): what they hold is replaced.
Assumption: 59 (DESIGN CHOICE). -/
def State.unsaturate (s : State) (p : Nat → Bool) : State :=
  { s with mem := { s.mem with saturated := s.mem.saturated.filter fun w => !p w } }

/-- A channel is left zero (R543): every line is known and reads 0, and nothing is buffered. -/
def State.zeroChannel (s : State) (c : Nat) : State :=
  let s := { s with mem := { s.mem with
      cells := cellDrop s.mem.cells (place c 0) (place (c + 1) 0)
      written := s.mem.written.filter fun l => l / 2 ^ 25 != c
      bad := s.mem.bad.filter fun l => l / 2 ^ 25 != c
      saturated := s.mem.saturated.filter fun w => w / 2 ^ 29 != c } }
  s.modChannel c fun ch => { ch with scrubPos := 2 ^ 25, scrubbing := false, wcb := [], adders := [] }

/-! ## The buffers -/

/-- The bytes of a line as a reader sees them: the adder buffer's, else the stack's with the write-combining entry's
bytes over them (R394). -/
def State.viewLine (s : State) (c line : Nat) : List Byte :=
  match (s.channel c).adders.find? (·.1 == line) with
  | some a => a.2
  | none =>
    match (s.channel c).wcb.find? (·.line == line) with
    | some e => (s.rawLine c line).zipIdx.map fun p => (tget e.bytes p.2).getD p.1
    | none => s.rawLine c line

/-- A byte as a reader sees it. -/
def State.viewByte (s : State) (c b : Nat) : Byte := (s.viewLine c (b / 64)).getD (b % 64) 0

/-- The line as a read-modify-write finds it: zeros where neither the scrub nor a write has reached it (R71). -/
def State.mergeBase (s : State) (c line : Nat) : List Byte :=
  if s.lineKnown c line then s.rawLine c line else List.replicate 64 0

/-- The window of a channel's registers: its die copy and its number on the die (R416). -/
def chIx (c : Nat) : List Nat := [c / 240, c % 240]

/-- The detail of most MEM records: channel id, bank and row (R415). -/
def memDetail (c b : Nat) : Nat := let p := split b; c + p.1 * 2 ^ 9 + p.2.1 * 2 ^ 13

/-- Counts an uncorrectable line read and locates it (R419, R420). -/
def State.noteUe (s : State) (c line : Nat) : State :=
  let p := split (64 * line)
  let s := s.bump .MEM_ECC_UE (chIx c)
  s.putReg .MEM_ECC_LAST (chIx c)
    (BitVec.ofNat 64 (2 ^ 63 + 0x1F * 2 ^ 58 + p.2.1 * 2 ^ 42 + p.1 * 2 ^ 38 + p.2.2 * 2 ^ 33))

/-- The MEM_UE record of a line, with the grove that holds the channel and its heat (R540). -/
def State.ueRecord (s : State) (sev : Sev) (c line : Nat) : State :=
  (s.record .mem sev (dieOfChannel c) 0x01 (s.channelOwner c) (memDetail c (64 * line))).heatOn 1024
    (s.channelOwner c).toList

/-- Evicts a write-combining entry by a read-modify-write (R394): counted when the line is read; an entry for an
uncorrectable line is discarded and its operation faults with MEM_UE (R396). -/
def State.evictWcb (s : State) (c : Nat) (e : WcbEntry) : State :=
  let s := s.modChannel c fun ch => { ch with wcb := ch.wcb.filter (·.line != e.line) }
  if s.lineBad c e.line then ((s.noteUe c e.line).ueRecord .contained c e.line)
  else
    let known := s.lineKnown c e.line
    let merged := (s.mergeBase c e.line).zipIdx.map fun p => (tget e.bytes p.2).getD p.1
    let s := s.putLine c e.line merged
    if known then s.bump .MEM_WCB_RMW (chIx c) else s

/-- Writes an adder-buffer line back (R401). -/
def State.flushAdder (s : State) (c : Nat) (a : Nat × List Byte) : State :=
  (s.modChannel c fun ch => { ch with adders := ch.adders.filter (·.1 != a.1) }).putLine c a.1 a.2

/-- Writes back the adder-buffer line of `line`, if there is one. -/
def State.settleAdder (s : State) (c line : Nat) : State :=
  match (s.channel c).adders.find? (·.1 == line) with
  | some a => s.flushAdder c a
  | none => s

/-- Evicts the write-combining entry of `line`, if there is one. -/
def State.settleWcb (s : State) (c line : Nat) : State :=
  match (s.channel c).wcb.find? (·.line == line) with
  | some e => s.evictWcb c e
  | none => s

/-- Writes back every write-combining entry and adder line of a channel (R397). -/
def State.flushChannel (s : State) (c : Nat) : State :=
  let s := s.each (s.channel c).wcb fun s e => s.evictWcb c e
  s.each (s.channel c).adders fun s a => s.flushAdder c a

/-- Writes back every buffer of the channels that `p` names (R397). -/
def State.flushBuffers (s : State) (p : Nat → Bool) : State :=
  s.each (s.mem.channels.map (·.1)) fun s c => if p c then s.flushChannel c else s

/-- Discards the buffers of a channel, as a regrove does (R65, R397). -/
def State.dropBuffers (s : State) (c : Nat) : State := s.modChannel c fun ch => { ch with wcb := [], adders := [] }

/-- Writes bytes within one line (R394, R396): positions and bytes. The flag says the write was accepted; a partial
write to an uncorrectable line is discarded. -/
def State.writeLine (s : State) (c line : Nat) (pos : Nat) (bs : List Byte) (grove : Nat) : State × Bool :=
  if pos = 0 ∧ bs.length = 64 then
    let s := s.unsaturate fun w => w / 16 == lineNo c line
    let s := s.modChannel c fun ch =>
      { ch with wcb := ch.wcb.filter (·.line != line), adders := ch.adders.filter (·.1 != line) }
    (s.putLine c line bs, true)
  else
    let s := s.settleAdder c line
    if s.lineBad c line then (s.noteUe c line, false)
    else
      let s := s.unsaturate fun w => wordNo c line pos ≤ w && w ≤ wordNo c line (pos + bs.length - 1)
      let new := bs.zipIdx.foldl (fun t p => tset t (pos + p.2) p.1)
      match (s.channel c).wcb.find? (·.line == line) with
      | some e =>
        let bytes := new e.bytes
        if bytes.length = 64 then
          ((s.modChannel c fun ch => { ch with wcb := ch.wcb.filter (·.line != line) }).putLine c line
            (bytes.map (·.2)), true)
        else
          (s.modChannel c fun ch =>
            { ch with wcb := ch.wcb.map fun x => if x.line == line then { x with bytes := bytes } else x }, true)
      | none =>
        let s := if (s.channel c).wcb.length ≥ 64 then
            (match (s.channel c).wcb with
             | e :: _ => s.evictWcb c e
             | [] => s)
          else s
        (s.modChannel c fun ch =>
          { ch with wcb := ch.wcb ++ [{ line := line, bytes := new [], grove := grove, at_ := s.aonUs }] }, true)

/-- Applies `f` to a line in the adder buffer (R401): the line is brought in when it is not there, the oldest line is
written back when its slot is needed. The flag says the line could be read (R396). -/
def State.accLine (s : State) (c line : Nat) (f : List Byte → List Byte) : State × Bool :=
  let s := s.settleWcb c line
  match (s.channel c).adders.find? (·.1 == line) with
  | some _ =>
    ((s.bump .MEM_ACC_LINES (chIx c)).modChannel c fun ch =>
      { ch with adders := ch.adders.map fun a => if a.1 == line then (line, f a.2) else a }, true)
  | none =>
    if s.lineBad c line then (s.noteUe c line, false)
    else
      let base := s.mergeBase c line
      let s := if (s.channel c).adders.length ≥ 128 then
          (match (s.channel c).adders with
           | a :: _ => s.flushAdder c a
           | [] => s)
        else s
      ((s.bump .MEM_ACC_LINES (chIx c)).modChannel c fun ch => { ch with adders := ch.adders ++ [(line, f base)] }, true)

/-! ## Reads and writes by the engines -/

/-- How an access ended: `page` says a grove-virtual page is not mapped (R12), `unmapped` an unoccupied offset
(R391). -/
inductive Acc where
  | ok | page | unmapped | ue | stale
  deriving DecidableEq, Repr

/-- Who makes an access: the hearth side (runtime and engines in the hearth region, R95), or a grove (R73). -/
inductive Party where
  | hearth
  | grove (g : Nat)
  deriving DecidableEq, Repr

/-- The place of a local offset for a party: none and why not. -/
def State.placeFor (s : State) (p : Party) (o : Nat) : Acc × Nat × Nat :=
  match s.locate o with
  | none => (.unmapped, 0, 0)
  | some (c, b) =>
    match p with
    | .hearth => if isHearthChannel c then (.ok, c, b) else (.stale, c, b)
    | .grove g => if s.channelOwner c == some g then (.ok, c, b) else (.stale, c, b)

/-- The offsets `o` to `o + n - 1` cut where lines end: each with its length. -/
def pieces : Nat → Nat → Nat → List (Nat × Nat)
  | 0, _, _ => []
  | fuel + 1, o, n =>
    if n = 0 then []
    else
      let k := min n (64 - o % 64)
      (o, k) :: pieces fuel (o + k) (n - k)

/-- The first failure of an access to `n` bytes at `o`, and where. -/
def State.probe (s : State) (p : Party) (reading : Bool) (o n : Nat) : Acc × Nat × Nat :=
  let out := (pieces n o n).map fun q =>
    let r := s.placeFor p q.1
    if r.1 == .ok && s.lineBad r.2.1 (r.2.2 / 64) && (reading || q.2 ≠ 64) then (Acc.ue, r.2.1, r.2.2) else r
  (out.find? (·.1 != .ok)).getD (.ok, 0, 0)

/-- The bytes a reader sees at `n` local offsets. -/
def State.peek (s : State) (o n : Nat) : List Byte :=
  (List.range n).map fun i => match s.locate (o + i) with
    | some (c, b) => s.viewByte c b
    | none => 0

/-- The contained MEM_UNMAPPED record of an access: the offset, and the die its octet lies on, if any (R415, R526). -/
def State.unmappedRecord (s : State) (p : Party) (o : Nat) : State :=
  let g := match p with
    | .hearth => none
    | .grove g => some g
  s.record .mem .contained (if o < 0xF000000000 then o / 2 ^ 34 / 30 else 2) 0x02 g (o % 2 ^ 41)

/-- Reads `n` bytes at a local offset. An uncorrectable line is counted and writes its MEM_UE record; an unoccupied
offset writes MEM_UNMAPPED (R391, R404). -/
def State.readLocal (s : State) (p : Party) (o n : Nat) : State × Acc × List Byte :=
  match s.probe p true o n with
  | (.ok, _, _) => (s, .ok, s.peek o n)
  | (.ue, c, b) => (((s.noteUe c (b / 64)).ueRecord .contained c (b / 64)), .ue, [])
  | (.unmapped, _, _) => (s.unmappedRecord p o, .unmapped, [])
  | (a, _, _) => (s, a, [])

/-! ## Protected pages of a firing (R567) -/

/-- The first page of the reserve that holds no touched page which is still to be drained. -/
def Firing.freeReserve (f : Firing) (drained : Nat → Bool) : Option Nat :=
  (List.range f.plan.reservePages).find? fun r => !(f.touched.any fun t => t.2 == r && !drained t.1)

/-- A destination has drained page i: it is past it, or out of service. -/
def KilnDest.past (d : KilnDest) (i : Nat) : Bool :=
  !d.live || (match d.item with
    | .page j => i < j
    | .manifest | .record | .done => true
    | _ => false)

/-- Page i is drained at every destination in service. -/
def Firing.drained (f : Firing) (i : Nat) : Bool := f.buddy.past i && f.storage.past i

/-- The local page of a grove-virtual page, if it is mapped (R12). -/
def State.localPage (s : State) (g va : Nat) : Option Nat := tget (tgetD s.pageMap g []) (va % 2 ^ 48 / 2 ^ 21)

/-- Lines of a 2 MiB page written whole at a local offset. -/
def State.putPage (s : State) (g o : Nat) (bs : List Byte) : State :=
  s.each (List.range (bs.length / 64)) fun s i => match s.locate (o + 64 * i) with
    | some (c, b) => (s.writeLine c (b / 64) 0 ((bs.drop (64 * i)).take 64) g).1
    | none => s

/-- The KLN_TOUCH_WAIT record of a firing, once (R567, R580, R585). -/
def State.touchWait (s : State) (g : Nat) : State :=
  match tget s.kln.firings g with
  | some f =>
    if f.waited then s
    else
      let s := { s with kln := { s.kln with firings := tset s.kln.firings g { f with waited := true } } }
      let s := s.putReg .KLN_FAULT_LAST [0] (BitVec.ofNat 64
        (0x08 * 2 ^ 56 + g * 2 ^ 52 + f.slot * 2 ^ 51 + f.step))
      s.record .kln .corrected 0 0x08 (some g) (f.step + f.slot * 2 ^ 48)
  | none => s

/-- Copies a protected page before it changes (R567): to a free reserve page, or, where none is free, to the page's
place among those read for drain, since an engine's own write does not wait in this model. Its protection ends.
Assumption: 71 (DEDUCED). -/
def State.touchPage (s : State) (page : Nat) : State :=
  match s.kln.protect.find? fun p => p.1 == page with
  | none => s
  | some (_, g, i) =>
    match tget s.kln.firings g with
    | none => s
    | some f =>
      let die := match s.locate (page * 2 ^ 21) with
        | some (c, _) => c / 240
        | none => 0
      let bs := s.peek (page * 2 ^ 21) (2 ^ 21)
      let free := f.freeReserve f.drained
      let s := if free.isNone then s.touchWait g else s
      let f := { (tgetD s.kln.firings g f) with digests := tset f.digests i (sha384 bs) }
      let f := match free with
        | some r => { f with touched := tset f.touched i r }
        | none => { f with snaps := tset f.snaps i bs }
      let s := { s with kln := { s.kln with
        firings := tset s.kln.firings g f, protect := s.kln.protect.filter fun p => p.1 != page } }
      let s := (s.bump .KLN_TOUCHES [die]).bump .KLN_PAGES [die]
      match free.bind fun r => s.localPage g (f.plan.reserve + r * 2 ^ 21) with
      | some o => s.putPage g o bs
      | none => s

/-- A write is about to change the bytes at a local offset: a protected page is copied first.
Assumption: 71 (DEDUCED). -/
def State.touch (s : State) (o : Nat) : State := if s.kln.protect.isEmpty then s else s.touchPage (o / 2 ^ 21)

/-- What a write that fails leaves (R391, R396): an uncorrectable line counted and recorded, an unoccupied offset
recorded. Assumption: 88 (DEDUCED). -/
def State.writeFails (s : State) (p : Party) (o : Nat) : Acc × Nat × Nat → State × Acc
  | (.ue, c, b) => (((s.noteUe c (b / 64)).ueRecord .contained c (b / 64)), .ue)
  | (.unmapped, _, _) => (s.unmappedRecord p o, .unmapped)
  | (a, _, _) => (s, a)

/-- Writes bytes at a local offset: nothing where the access fails (R391, R396). -/
def State.writeLocal (s : State) (p : Party) (o : Nat) (bs : List Byte) : State × Acc :=
  match s.probe p false o bs.length with
  | (.ok, _, _) =>
    let g := match p with
      | .hearth => 0
      | .grove g => g
    ((pieces bs.length o bs.length).foldl (fun (q : State × List Byte) k =>
      match q.1.locate k.1 with
      | some (c, b) => (((q.1.touch k.1).writeLine c (b / 64) (b % 64) (q.2.take k.2) g).1, q.2.drop k.2)
      | none => (q.1, q.2.drop k.2)) (s, bs) |>.1, .ok)
  | r => s.writeFails p o r

/-- A hearth-region read, whatever the result bytes: zero bytes where it fails. -/
def State.hearthRead (s : State) (o n : Nat) : List Byte := s.peek o n

/-! ## Grove-virtual addresses -/

/-- The local offset a grove-virtual address maps to, none on a page that is not mapped (R12).
Assumption: 9 (DESIGN CHOICE). -/
def State.translate (s : State) (g va : Nat) : Option Nat :=
  (tget (tgetD s.pageMap g []) (va % 2 ^ 48 / 2 ^ 21)).map (· + va % 2 ^ 21)

/-- The range `va` to `va + n - 1` cut where pages end, with the local offset of each piece. -/
def State.translateRange (s : State) (g : Nat) : Nat → Nat → Nat → Option (List (Nat × Nat))
  | 0, _, _ => some []
  | fuel + 1, va, n =>
    if n = 0 then some []
    else
      let k := min n (2 ^ 21 - va % 2 ^ 21)
      match s.translate g va, s.translateRange g fuel (va + k) (n - k) with
      | some o, some r => some ((o, k) :: r)
      | _, _ => none

/-- Reads `n` bytes at a grove-virtual address. -/
def State.readVa (s : State) (g va n : Nat) : State × Acc × List Byte :=
  match s.translateRange g n va n with
  | none => (s, .page, [])
  | some ps => ps.foldl (fun q p =>
      if q.2.1 = .ok then
        let r := q.1.readLocal (.grove g) p.1 p.2
        (r.1, r.2.1, q.2.2 ++ r.2.2)
      else q) (s, .ok, [])

/-- The bytes a grove sees at a virtual address; zero where the access fails. -/
def State.peekVa (s : State) (g va n : Nat) : List Byte :=
  (List.range n).map fun i => match s.translate g (va + i) with
    | some o => (s.peek o 1).headD 0
    | none => 0

/-- Whether `n` bytes at a grove-virtual address can be written: what the first failure leaves, if one would. -/
def State.checkWriteVa (s : State) (g va n : Nat) : State × Acc :=
  match s.translateRange g n va n with
  | none => (s, .page)
  | some ps => ps.foldl (fun (q : State × Acc) p =>
      if q.2 = .ok then
        (match q.1.probe (.grove g) false p.1 p.2 with
         | (.ok, _, _) => q
         | r => q.1.writeFails (.grove g) p.1 r)
      else q) (s, .ok)

/-- Writes bytes at a grove-virtual address. -/
def State.writeVa (s : State) (g va : Nat) (bs : List Byte) : State × Acc :=
  match s.translateRange g bs.length va bs.length with
  | none => (s, .page)
  | some ps =>
    let r := ps.foldl (fun (q : State × Acc × List Byte) p =>
      if q.2.1 = .ok then
        let w := q.1.writeLocal (.grove g) p.1 (q.2.2.take p.2)
        (w.1, w.2, q.2.2.drop p.2)
      else q) (s, .ok, bs)
    (r.1, r.2.1)

/-- The grove's page table may have changed: what it spells becomes a free value (R12).
Assumption: 9 (DESIGN CHOICE). -/
def State.freshPages (s : State) (g : Nat) : State :=
  let p := s.fresh
  { p.2 with pageMap := tset p.2.pageMap g (Config.freePages p.1) }

end Sys2Proof.Machine
end

