-- ==== Sys2Proof/Machine/Links.lean ====
section
/-! DEFINITION. The link layer of ch. 14: flits, routing, credits and replay, the port states, lanes, stand-ins; and
the stale-message answer of R73 and R74. Ports are numbered 0 to 5 for the trunk directions and 16 + p for branch
port p. -/
namespace Sys2Proof.Machine

/-! ## Ports -/

/-- A port. -/
def State.port (s : State) (p : Nat) : Port := tgetD s.lnk.ports p {}

/-- The state with a port changed. -/
def State.modPort (s : State) (p : Nat) (f : Port → Port) : State :=
  { s with lnk := { s.lnk with ports := tmod s.lnk.ports p {} f } }

/-- A trunk direction. -/
def isTrunk (p : Nat) : Bool := p < 6

/-- Lanes fitted on a port (R26). -/
def lanesFitted (p : Nat) : Nat := if isTrunk p then 8 else 4

/-- Flits its receive buffer holds (R434). -/
def rxBuffer (p : Nat) : Nat := if isTrunk p then 2048 else 1024

/-- The indices of a port's registers: its die copy and its window. -/
def portIx (p : Nat) : List Nat := if isTrunk p then [p / 3, p % 3] else [(p - 16) / 8, (p - 16) % 8]

/-- A port register: the trunk copy or the branch copy. -/
def portReg (p : Nat) (t b : Reg) : Reg := if isTrunk p then t else b

/-- A port's configuration word (R455). -/
def State.portCfg (s : State) (p : Nat) : Word := s.getReg (portReg p .LNK_PORT_CFG_T .LNK_PORT_CFG_B) (portIx p)

/-- Counts on a port's statistics counter. -/
def State.bumpPort (s : State) (p : Nat) (t b : Reg) (n : Nat := 1) : State :=
  if n = 0 then s else s.bump (portReg p t b) (portIx p) n

/-- Live lanes of a port. -/
def Port.live (q : Port) : Nat := (q.lanes.filter (· == 2)).length

/-- min_lanes of a port (R455). -/
def State.minLanes (s : State) (p : Nat) : Nat := wfld (s.portCfg p) 24 4

/-- Every port number. -/
def allPorts : List Nat := List.range 6 ++ (List.range 16).map (16 + ·)

/-- The groves whose use mask holds a port (R540). -/
def State.groveUsing (s : State) (p : Nat) : List Nat :=
  s.boundGroves.filter fun g =>
    if isTrunk p then (s.grove g).trunkUse.testBit p else (s.grove g).branchUse.testBit (p - 16)

/-- The name of a port in records and LNK_FAULT_LAST (R463): direction, or branch port mod 8 with bit 4. -/
def portName (p : Nat) : Nat := if isTrunk p then p else (p - 16) % 8 + 16

/-- A LNK record (R454): port, branch, lane and a device or count; it also stands in LNK_FAULT_LAST (R463).
Assumption: 18 (DESIGN CHOICE). -/
def State.lnkRecord (s : State) (sev : Sev) (code p lane device : Nat) (grove : Option Nat := none) : State :=
  let d := dieOfPort p
  let last := code * 2 ^ 56 + portName p % 16 * 2 ^ 52 + b2n (!isTrunk p) * 2 ^ 51 + lane % 8 * 2 ^ 48 + device % 2 ^ 15
  let s := s.putReg .LNK_FAULT_LAST [d] (BitVec.ofNat 64 last)
  s.record .lnk sev d code grove (portName p % 16 + b2n (!isTrunk p) * 2 ^ 4 + lane % 8 * 2 ^ 5 + device * 2 ^ 8)

/-! ## Flits -/

/-- A link flit from its 256 bytes (R431). -/
def LFlit.parse (b : List Byte) : LFlit :=
  let cls := leAt b 1 1
  let flags := leAt b 0x17 1
  { kind := leAt b 0 1, grove := fld cls 0 4, vc := fld cls 4 2, dl := bit cls 6, gen := leAt b 2 2, seq := leAt b 4 2,
    ackSeq := leAt b 6 2, credits := (List.range 8).map fun i => leAt b (8 + i) 1, dest := leAt b 0x10 2 % 2 ^ 15,
    src := leAt b 0x12 2 % 2 ^ 15, hop := leAt b 0x14 2 % 2 ^ 15, ttl := leAt b 0x16 1, first := bit flags 0,
    last := bit flags 1, minus := [bit flags 2, bit flags 3, bit flags 4], reversed := bit flags 5,
    opcode := leAt b 0x18 1, length := leAt b 0x19 1, address := leAt b 0x20 8, payload := (b.drop 0x28).take 208 }

/-- The 256 bytes of a link flit, crc included (R431). -/
def LFlit.bytes (f : LFlit) : List Byte :=
  let m := fun i => b2n (f.minus.getD i false)
  let head := toLe 1 f.kind ++ toLe 1 (f.grove % 16 + f.vc % 4 * 16 + b2n f.dl * 64) ++ toLe 2 f.gen ++ toLe 2 f.seq ++
    toLe 2 f.ackSeq ++ (f.credits.flatMap (toLe 1)) ++ toLe 2 f.dest ++ toLe 2 f.src ++ toLe 2 f.hop ++ toLe 1 f.ttl ++
    toLe 1 (b2n f.first + b2n f.last * 2 + m 0 * 4 + m 1 * 8 + m 2 * 16 + b2n f.reversed * 32) ++ toLe 1 f.opcode ++
    toLe 1 f.length ++ toLe 6 0 ++ toLe 8 f.address ++ padTo 208 f.payload
  head ++ toLe 4 (crc32c head) ++ toLe 4 0

/-- The crc of a received flit matches (R435). -/
def flitCrcOk (b : List Byte) : Bool := crc32c (b.take 0xF8) == leAt b 0xF8 4

/-- The virtual channel of an opcode and the most flits of its message, none where it is invalid (R432). -/
def opcodeVc (op : Nat) : Option (Nat × Nat) :=
  if op = 0x01 ∨ op = 0x02 ∨ op = 0x04 then some (0, 1)
  else if op = 0x03 then some (0, 2)
  else if op = 0x10 ∨ op = 0x12 then some (1, 1)
  else if op = 0x11 then some (1, 2)
  else if op = 0x18 ∨ op = 0x19 ∨ op = 0x1A then some (2, 8)
  else if op = 0x1B ∨ op = 0x1C then some (2, 1)
  else if op = 0x20 then some (3, 2)
  else if op = 0x21 ∨ op = 0x22 ∨ op = 0x23 ∨ op = 0x24 then some (3, 8)
  else if op = 0x25 then some (3, 1)
  else none

/-- A flit's kind, opcode and virtual channel agree (R432). -/
def LFlit.valid (f : LFlit) : Bool :=
  f.kind < 4 &&
    (match opcodeVc f.opcode with
     | none => false
     | some (v, _) => v == f.vc && ((f.opcode == 1) == (f.kind == 3)))

/-! ## Sending: credits and the replay buffer -/

/-- The class of a flit: 2v + c. -/
def LFlit.cls (f : LFlit) : Nat := 2 * (f.vc % 4) + b2n f.dl

/-- Sends one flit now: numbers it, keeps it for replay, spends its credit (R434, R435). -/
def State.transmit (s : State) (p : Nat) (f : LFlit) : State :=
  let q := s.port p
  let f := { f with seq := q.nextSeq, ackSeq := q.lastAccepted, credits := q.returns }
  let s := s.modPort p fun q => { q with
    nextSeq := (q.nextSeq + 1) % 2 ^ 16, replay := q.replay ++ [f], returns := [0, 0, 0, 0, 0, 0, 0, 0],
    credits := q.credits.modify f.cls (· - 1) }
  let s := if f.kind = 1 then s.bumpPort p .LNK_TX_FLITS_T .LNK_TX_FLITS_B else s
  s.emit (.linkFlit p f)

/-- Sends the waiting flits of a port while it is ACTIVE and each holds a credit, oldest first; a flit without a
credit holds back the later ones of its class only. -/
def State.pump (s : State) (p : Nat) : State :=
  if (s.port p).st != .active then s
  else
    (s.port p).tx.foldl (fun (q : State × List Nat) f =>
      let cr := (q.1.port p).credits.getD f.cls 0
      if q.2.contains f.cls || cr = 0 || (q.1.port p).replay.length ≥ rxBuffer p then
        (q.1.modPort p fun x => { x with tx := x.tx ++ [f] }, f.cls :: q.2)
      else (q.1.transmit p f, q.2)) (s.modPort p fun x => { x with tx := [] }, []) |>.1

/-- Puts a flit into a port's transmit queue and sends what can be sent. -/
def State.enqueue (s : State) (p : Nat) (f : LFlit) : State :=
  (s.modPort p fun q => { q with tx := q.tx ++ [f] }).pump p

/-! ## The torus -/

/-- A device's coordinates (R436). -/
def coords (d : Nat) : List Nat := [d % 32, d / 32 % 32, d / 1024]

/-- The torus dimensions of LNK_TORUS (R460), none while valid is 0. -/
def State.torus (s : State) : Option (List Nat) :=
  let v := s.getReg .LNK_TORUS [0]
  if v.getLsbD 63 then some [wfld v 0 6, wfld v 8 6, wfld v 16 6] else none

/-- The stand-in link of a direction (R462). -/
def State.standin (s : State) (d : Nat) : Word := s.getReg .LNK_STANDIN [d / 3, d % 3]

/-- A stand-in is in use and its partner accepted (R437, R452). -/
def State.standinActive (s : State) (d : Nat) : Bool := (s.standin d).getLsbD 63 && (s.standin d).getLsbD 62

/-- A trunk port may carry a flit: it is ACTIVE, or its direction has an ACTIVE stand-in link (R437), of which some port
is ACTIVE. -/
def State.usable (s : State) (d : Nat) : Bool :=
  (s.port d).st == .active || (s.standinActive d &&
    (List.range (2 ^ wfld (s.standin d) 4 2)).any fun i => (s.port (16 + wfld (s.standin d) 0 4 + i)).st == .active)

/-- The exclusive owner of a port, if it has one (R45, R48). -/
def State.exclOwner (s : State) (p : Nat) : Option Nat :=
  if isTrunk p then s.ownerBy Grove.trunkExcl p else s.ownerBy Grove.branchExcl (p - 16)

/-- The grove may originate flits on a port (R48, R440). -/
def State.mayUse (s : State) (g p : Nat) : Bool :=
  (s.groveUsing p).contains g && (s.exclOwner p == none || s.exclOwner p == some g)

/-- A direction that a flit may leave by: the grove's masks apply where the flit originates (R440). The answer to a stale
message is the receiver's own (R74). Assumption: 89 (DEDUCED). -/
def State.mayLeave (s : State) (f : LFlit) (d : Nat) : Bool :=
  s.usable d && (f.src != s.devnum || f.opcode == 0x04 || s.mayUse f.grove d)

/-- What the routing rule answers (R437). -/
inductive Route where
  | deliver
  | unreachable
  | out (dir : Nat) (f : LFlit) (reversal : Bool)
  deriving DecidableEq, Repr

/-- The minus bit of an axis as the originating device sets it: ties go plus (R437). -/
def minusOf (own dst dim : Nat) : Bool := (own + dim - dst) % dim < (dst + dim - own) % dim

/-- The routing rule of R437 over the axes from `a`: own and destination coordinates, dimensions, the axis of arrival
(3 at the originating device). -/
def routeFrom (usable : Nat → Bool) (own dst dim : List Nat) (arr : Nat) : Nat → Nat → LFlit → Route
  | 0, _, _ => .deliver
  | fuel + 1, a, f =>
    let o := own.getD a 0
    if o = dst.getD a 0 then routeFrom usable own dst dim arr fuel (a + 1) f
    else
      let f := if a ≠ arr then { f with reversed := false, dl := false } else f
      let minus := f.minus.getD a false
      let wrap := fun (m : Bool) => (m && o == 0) || (!m && o == dim.getD a 0 - 1)
      let dirOf := fun (m : Bool) => if m then 3 + a else a
      if usable (dirOf minus) then
        .out (dirOf minus) (if wrap minus then { f with dl := true } else f) false
      else if f.reversed then .unreachable
      else if usable (dirOf (!minus)) then
        .out (dirOf (!minus)) { f with minus := f.minus.set a (!minus), reversed := true, dl := true } true
      else .unreachable

/-- The routing rule at this device. Assumptions: 60 (DEDUCED), 89 (DEDUCED). -/
def State.route (s : State) (f : LFlit) (arr : Nat) : Route :=
  match s.torus with
  | none => if f.dest = s.devnum then .deliver else .unreachable
  | some dim =>
    let own := coords s.devnum
    let dst := coords f.dest
    if (dst.zip dim).all (fun p => p.1 < p.2) then routeFrom (s.mayLeave f) own dst dim arr 3 0 f else .unreachable

/-- The index by which a destination and virtual channel pick among `n` ports (R442). -/
def pick (dest vc n : Nat) : Nat := ((dest * 0x9E3779B1 % 2 ^ 32 / 2 ^ 16) ^^^ vc) % n

/-- The size of the logical branch port that physical port p belongs to (R461). -/
def State.bundleSize (s : State) (p : Nat) : Nat := 2 ^ wfld (s.getReg .LNK_BUNDLE [0]) (3 * p) 3

/-- The member of a logical port that carries a destination's flits: the picked one, or the next ACTIVE one cyclically
(R442). -/
def State.member (s : State) (first n dest vc : Nat) : Option Nat :=
  let k := pick dest vc n
  ((List.range n).map fun i => 16 + first + (k + i) % n).find? fun p => (s.port p).st == .active

/-- A flit without a route is dropped, counted and recorded (R437, R443, R459). Assumption: 89 (DEDUCED). -/
def State.dropUnreachable (s : State) (p dest : Nat) : State :=
  (s.bumpPort p .LNK_LOST_T .LNK_LOST_B).lnkRecord .contained 0x07 p 0 dest

/-- Sends a trunk flit in a direction: on its port, or on its stand-in link with hop its partner (R451). -/
def State.sendDir (s : State) (d : Nat) (f : LFlit) : State :=
  if (s.port d).st == .active then s.enqueue d f
  else
    let w := s.standin d
    match s.member (wfld w 0 4) (2 ^ wfld w 4 2) f.dest f.vc with
    | some p => s.enqueue p { f with hop := wfld w 32 15 }
    | none => s.dropUnreachable d f.dest

/-- Routes a trunk flit from this device (R437): arrival axis 3 at the originating device. A reversal counts in
LNK_REVERSE of the port it leaves by; a flit without a route is dropped, counted and recorded. -/
def State.sendTrunk (s : State) (f : LFlit) (arr : Nat) (at_ : Nat) : State :=
  match s.route f arr with
  | .deliver => s
  | .unreachable => s.dropUnreachable at_ f.dest
  | .out d g rev => (if rev then s.bumpPort d .LNK_REVERSE_T .LNK_REVERSE_B else s).sendDir d g

/-- The logical branch ports that a flit may leave by: those all of whose members its grove's use mask holds and no other
grove owns (R48). The answer to a stale message is the receiver's own and needs no use mask (R74).
Assumption: 89 (DEDUCED). -/
def State.logicalPorts (s : State) (f : LFlit) : List (Nat × Nat) :=
  ((List.range 16).filterMap fun p =>
    let n := s.bundleSize p
    if p % n = 0 && ((List.range n).all fun i =>
        (f.opcode == 0x04 || (s.grove f.grove).branchUse.testBit (p + i)) &&
          (s.exclOwner (16 + p + i)).all (· == f.grove)) then some (p, n) else none)

/-- Sends a branch flit to its destination on one of the grove's usable logical ports (R442). -/
def State.sendBranch (s : State) (f : LFlit) : State :=
  let ports := s.logicalPorts f
  match ports with
  | [] => s.dropUnreachable 16 f.dest
  | _ =>
    let q := ports.getD (pick f.dest f.vc (2 ^ log2 ports.length)) (0, 1)
    match s.member q.1 q.2 f.dest f.vc with
    | some p => s.enqueue p { f with hop := f.dest }
    | none => s.dropUnreachable (16 + q.1) f.dest

/-! ## Budgets (R81) -/

/-- The key of a budget: die, grove, activity. -/
def budgetKey (d g a : Nat) : Nat := (16 * d + g) * 8 + a

/-- A budget in force. -/
def State.budget (s : State) (d g a : Nat) : Budget := tgetD s.grv.budgets (budgetKey d g a) {}

/-- The state with a budget changed. -/
def State.modBudget (s : State) (d g a : Nat) (f : Budget → Budget) : State :=
  { s with grv := { s.grv with budgets := tmod s.grv.budgets (budgetKey d g a) {} f } }

/-- Another grove with credit is held for the activity on this die. -/
def State.otherWaiting (s : State) (d g a : Nat) : Bool :=
  (List.range 16).any fun h => h != g && (s.budget d h a).held > 0 && (s.budget d h a).credit > 0

/-- Asks for `n` units of an activity (R81): admitted or held. `again` marks a retry, which
GRV_HELD does not count again. Assumption: 36 (DESIGN CHOICE). -/
def State.spend (s : State) (d g a n : Nat) (again : Bool := false) : State × Bool :=
  let b := s.budget d g a
  if b.mode = 0 ∨ b.mode = 3 then (s, true)
  else if b.credit > 0 then (s.modBudget d g a fun b => { b with credit := b.credit - n }, true)
  else if b.mode = 2 && !s.otherWaiting d g a then
    (s.modBudget d g a fun b => { b with borrowed := b.borrowed + n }, true)
  else if again then (s.modBudget d g a fun b => { b with held := b.held + 1 }, false)
  else ((s.modBudget d g a fun b => { b with held := b.held + 1 }).bump .GRV_HELD [d, g], false)

/-! ## Messages -/

/-- The flits of a message from this device (R433): first and last set, every payload 208 bytes or what is left. -/
def State.mkFlits (s : State) (dest opcode vc grove address : Nat) (payload : List Byte) : List LFlit :=
  let n := max 1 ((payload.length + 207) / 208)
  let gen := (s.grove grove).generation
  let dim := s.torus.getD [0, 0, 0]
  let own := coords s.devnum
  let dst := coords dest
  (List.range n).map fun i =>
    let part := (payload.drop (208 * i)).take 208
    { kind := 1, grove := grove, vc := vc, dl := false, gen := gen, seq := 0, ackSeq := 0,
      credits := [0, 0, 0, 0, 0, 0, 0, 0], dest := dest, src := s.devnum, hop := 0, ttl := 255, first := i == 0,
      last := i + 1 == n,
      minus := (List.range 3).map fun a => minusOf (own.getD a 0) (dst.getD a 0) (dim.getD a 0), reversed := false,
      opcode := opcode, length := (part.length + 7) / 8, address := address, payload := part }

/-- Sends a message whose budget is settled. One for this device is delivered on the device itself. -/
def State.sendNow (s : State) (m : HeldMsg) : State :=
  if m.dest = s.devnum then
    s.emit (.deliver m.die m.opcode ⟨s.devnum, m.die, m.grove, (s.grove m.grove).generation⟩ m.address m.payload)
  else
    s.each (s.mkFlits m.dest m.opcode m.vc m.grove m.address m.payload) fun s f =>
      if m.trunk then s.sendTrunk f 3 (3 * m.die) else s.sendBranch f

/-- The units a message costs: ceil(length / 8) of each data flit (R440). -/
def msgUnits (payload : List Byte) : Nat :=
  let n := max 1 ((payload.length + 207) / 208)
  ((List.range n).map fun i => ((min 208 (payload.length - 208 * i) + 7) / 8 + 7) / 8).foldl (· + ·) 0

/-- Sends a message under its grove's trunk_tx or branch_tx budget, or holds it (R81, R440). -/
def State.sendMsg (s : State) (die : Nat) (trunk : Bool) (dest opcode grove : Nat) (payload : List Byte)
    (address : Nat := 0) : State :=
  let vc := ((opcodeVc opcode).map (·.1)).getD 0
  let m : HeldMsg := ⟨die, trunk, dest, opcode, vc, grove, address, payload⟩
  if dest = s.devnum then s.sendNow m
  else
    let r := s.spend die grove (if trunk then 0 else 1) (msgUnits payload)
    if r.2 then r.1.sendNow m else { r.1 with lnk := { r.1.lnk with held := r.1.lnk.held ++ [m] } }

/-- A field of a message's payload, at the next 8-byte boundary (R433). -/
def mfield (n x : Nat) : List Byte := padTo ((n + 7) / 8 * 8) (toLe n x)

/-! ## Stale messages (R73, R74) -/

/-- A message fails the grove check: it is counted, described, and answered, at most once in 10 µs for a sender and
grove (R73, R74, R77, R78). Assumption: 61 (DESIGN CHOICE). -/
def State.dropStale (s : State) (die : Nat) (o : Origin) (trunk : Bool := false) : State :=
  let s := s.bump .GRV_STALE_COUNT [die]
  let s := s.putReg .GRV_STALE_LAST [die] (BitVec.ofNat 64 (o.device * 2 ^ 33 + o.gen * 2 ^ 4 + o.grove))
  let key := (2 ^ 15 * die + o.device) * 16 + o.grove
  let due := match tget s.grv.nakSent key with
    | none => true
    | some t => s.aonUs - t ≥ 10
  if due then
    let s := { s with grv := { s.grv with nakSent := tset s.grv.nakSent key s.aonUs } }
    let gr := s.grove o.grove
    s.sendNow ⟨die, trunk, o.device, 0x04, 0, o.grove, 0,
      mfield 1 o.grove ++ mfield 2 gr.generation ++ mfield 1 (b2n (!gr.bound))⟩
  else s

/-! ## Receiving -/

/-- Drops the acknowledged flits of the replay buffer and takes the credits a flit returns. -/
def State.takeAck (s : State) (p : Nat) (f : LFlit) : State :=
  (s.modPort p fun q => { q with
    replay := q.replay.filter fun g => serialAfter g.seq f.ackSeq 16
    lastAcked := f.ackSeq
    credits := (List.range 8).map fun i => q.credits.getD i 0 + f.credits.getD i 0 }).pump p

/-- An idle or negative-acknowledgement flit: it carries the last good sequence number and credits (R435).
Assumption: 61 (DESIGN CHOICE). -/
def State.sendBare (s : State) (p kind : Nat) : State :=
  let q := s.port p
  let f : LFlit :=
    { kind := kind, grove := 0, vc := 0, dl := false, gen := 0, seq := (q.nextSeq + 2 ^ 16 - 1) % 2 ^ 16,
      ackSeq := q.lastAccepted, credits := q.returns, dest := 0, src := 0, hop := 0, ttl := 0, first := false,
      last := false, minus := [false, false, false], reversed := false, opcode := 0, length := 0, address := 0,
      payload := [] }
  (s.modPort p fun q => { q with returns := [0, 0, 0, 0, 0, 0, 0, 0] }).emit (.linkFlit p f)

/-- The port's record of entering RETRAIN and its state (R445, R449). -/
def State.startRetrain (s : State) (p : Nat) : State :=
  if (s.port p).st == .active then
    (s.modPort p fun q => { q with st := .retrain, replayTimes := [] }).bumpPort p .LNK_RETRAIN_T .LNK_RETRAIN_B
  else s

/-- Sends every flit after `ackSeq` again (R435), unless the port holds its traffic (R445). Sixteen replays in 100 µs start a retrain (R449).
Assumption: 60 (DEDUCED). -/
def State.replayFrom (s : State) (p ackSeq : Nat) : State :=
  let s := s.modPort p fun q => { q with replay := q.replay.filter fun g => serialAfter g.seq ackSeq 16 }
  let rs := (s.port p).replay
  if rs.isEmpty || (s.port p).st != .active then s
  else
    let s := s.bumpPort p .LNK_REPLAY_T .LNK_REPLAY_B rs.length
    let s := s.emits (rs.map fun f => .linkFlit p { f with ackSeq := (s.port p).lastAccepted })
    let times := ((s.port p).replayTimes.filter fun t => s.aonUs - t < 100) ++ [s.aonUs]
    let s := s.modPort p fun q => { q with replayTimes := times }
    if times.length ≥ 16 then s.startRetrain p else s

/-- One LNK_INVALID record for each 1 ms in which invalid flits are dropped (R432). -/
def State.noteInvalid (s : State) (p : Nat) : State :=
  let s := s.bumpPort p .LNK_CRC_ERR_T .LNK_CRC_ERR_B
  let due := match (s.port p).invalidAt with
    | none => true
    | some t => s.aonUs - t ≥ 1000
  if due then
    (s.modPort p fun q => { q with invalidAt := some s.aonUs }).lnkRecord .corrected 0x0A p 0 0
  else s

/-- Returns the credit of a flit that leaves the receive buffer (R434). -/
def State.returnCredit (s : State) (p : Nat) (f : LFlit) : State :=
  s.modPort p fun q => { q with returns := q.returns.modify f.cls (· + 1) }

/-- The stand-in direction a branch port serves, if any (R451). -/
def State.standinOf (s : State) (p : Nat) : Option Nat :=
  (List.range 6).find? fun d =>
    let w := s.standin d
    w.getLsbD 63 && p ≥ 16 && wfld w 0 4 ≤ p - 16 && p - 16 < wfld w 0 4 + 2 ^ wfld w 4 2

/-- A flit for this device: the grove check, then its message grows, and is handed to its unit when its last flit is
in (R73, R433, R476). A flit out of place discards the partial message. -/
def State.acceptFlit (s : State) (p : Nat) (f : LFlit) : State :=
  let s := s.returnCredit p f
  let die := dieOfPort p
  let o : Origin := ⟨f.src, die, f.grove, f.gen⟩
  if f.kind = 3 then s
  else if f.opcode ≠ 0x04 && !s.groveIs f.grove f.gen then s.dropStale die o (isTrunk p || (s.standinOf p).isSome)
  else
    let same := fun (g : LFlit) => g.vc == f.vc && g.dl == f.dl
    let part := (s.port p).rx.filter same
    let clear := s.modPort p fun q => { q with rx := q.rx.filter fun g => !same g }
    let ok := if f.first then part.isEmpty
      else !part.isEmpty && part.all fun g => g.src == f.src && g.opcode == f.opcode && g.grove == f.grove
    if !ok && !f.first then clear.bump .COL_PARTIAL [die]
    else
      let s := if ok then s else clear.bump .COL_PARTIAL [die]
      let part := if ok then part else []
      if f.last then
        (s.modPort p fun q => { q with rx := q.rx.filter fun g => !same g }).emit
          (.deliver die f.opcode o ((part ++ [f]).headD f).address ((part ++ [f]).flatMap (·.payload)))
      else s.modPort p fun q => { q with rx := q.rx ++ [f] }

/-- A trunk flit for another device: ttl, then the routing rule with the axis it arrived on (R437, R440). -/
def State.forward (s : State) (p dir : Nat) (f : LFlit) : State :=
  let s := s.returnCredit p f
  if f.ttl ≤ 1 then
    (s.bumpPort p .LNK_LOST_T .LNK_LOST_B).lnkRecord .contained 0x08 p 0 f.dest
  else
    let f := { f with ttl := f.ttl - 1 }
    match s.route f (dir % 3) with
    | .out d _ _ => (s.bumpPort d .LNK_FWD_T .LNK_FWD_B).sendTrunk f (dir % 3) p
    | _ => s.sendTrunk f (dir % 3) p

/-- The port's lanes as a register (R457). -/
def laneWord (ls : List Nat) : Nat := ls.zipIdx.foldl (fun v p => v + p.1 * 2 ^ (4 * p.2)) 0

/-- A port enters DEAD (R445, R450): buffers discarded and counted, unsent flits handed back to routing. -/
def State.portDead (s : State) (p : Nat) (sev : Sev) (code : Nat) : State :=
  let q := s.port p
  let lost := q.replay.length + q.rx.length
  let s := s.modPort p fun q => { q with st := .dead, replay := [], rx := [], tx := [], replayTimes := [],
                                         returns := [0, 0, 0, 0, 0, 0, 0, 0] }
  let s := s.bumpPort p .LNK_LOST_T .LNK_LOST_B lost
  let s := s.lnkRecord sev code p 0 ((q.partner.map (·.device)).getD 0)
  let s := if code = 0x04 then s.heatOn 2048 (s.groveUsing p) else s
  let s := s.lnkRecord .contained 0x09 p 0 lost
  -- a trunk flit keeps the marks of the axis it leaves on; one on a stand-in's branch port is still a trunk flit (R451)
  let dir := if isTrunk p then some p else s.standinOf p
  s.each q.tx fun s f => match dir with
    | some d => s.sendTrunk f (d % 3) p
    | none => s.sendBranch f

/-- A lane is declared dead (R448): removed from dealing, recorded; the port dies when too few lanes live. -/
def State.laneDead (s : State) (p lane : Nat) : State :=
  if (s.port p).lanes.getD lane 0 ≠ 2 then s
  else
    let s := s.modPort p fun q => { q with lanes := q.lanes.set lane 3 }
    let s := (s.lnkRecord .deferred 0x02 p lane (s.port p).live).heatOn 64 (s.groveUsing p)
    if (s.port p).st == .active && (s.port p).live < s.minLanes p then s.portDead p .deferred 0x04 else s

/-- A flit arrives (R429, R435). Assumption: 61 (DESIGN CHOICE). -/
def State.flitReceive (s : State) (port lane : Nat) (fec : FecResult) (flit : List Byte) : State :=
  let live := (s.port port).st == .active || (s.port port).st == .retrain || (s.port port).st == .identify
  if !live then s
  else
    let s := s.bumpPort port .LNK_FEC_CORR_T .LNK_FEC_CORR_B fec.corrected
    if fec.uncorrectable > 0 then
      -- the flit is not delivered; eight such codewords in 1 ms kill the lane (R448)
      let s := s.bumpPort port .LNK_FEC_UNCORR_T .LNK_FEC_UNCORR_B fec.uncorrectable
      let q := s.port port
      let fresh := s.aonUs - q.fecAt ≥ 1000
      let n := (if fresh then 0 else tgetD q.fecBad lane 0) + fec.uncorrectable
      let s := s.modPort port fun q => { q with
        fecBad := tset (if fresh then [] else q.fecBad) lane n, fecAt := if fresh then s.aonUs else q.fecAt }
      (if n ≥ 8 then s.laneDead port lane else s)
    else if !flitCrcOk flit then
      ((s.bumpPort port .LNK_CRC_ERR_T .LNK_CRC_ERR_B).sendBare port 2)
    else
      let f := LFlit.parse flit
      -- numbering and data begin when the partner is accepted (R445, R446)
      if (s.port port).st == .identify then s
      else
      let s := s.takeAck port f
      if f.kind = 0 then s
      else if f.kind = 2 then (s.replayFrom port f.ackSeq)
      else if f.seq ≠ ((s.port port).lastAccepted + 1) % 2 ^ 16 then (s.sendBare port 2)
      else
        let s := s.modPort port fun q => { q with lastAccepted := f.seq }
        if !f.valid then ((s.returnCredit port f).noteInvalid port)
        else
          let s := if f.kind = 1 then s.bumpPort port .LNK_RX_FLITS_T .LNK_RX_FLITS_B else s
          if f.kind = 3 || f.dest = s.devnum then (s.acceptFlit port f)
          else if isTrunk port then (s.forward port port f)
          else
            match s.standinOf port with
            | some d => (s.forward port d f)
            | none =>
              ((s.returnCredit port f).dropUnreachable port f.dest)

/-- A receiver with nothing else to send sends an idle flit (R435). -/
def execLnkIdleSend (port : Nat) (s : State) : Host.Outcome State Fault Refusal :=
  .next (s.onDie fun s => if (s.port port).st == .active then s.sendBare port 0 else s)

/-! ## Port states (R445) -/

/-- Sends a port to DISABLED with its transmitters at electrical idle; its flits are lost and counted. -/
def State.portOff (s : State) (p : Nat) : State :=
  let q := s.port p
  let s := s.bumpPort p .LNK_LOST_T .LNK_LOST_B (q.replay.length + q.rx.length + q.tx.length)
  s.modPort p fun q => { q with
    st := .disabled, lanes := q.lanes.map fun _ => 0, partner := none, replay := [], rx := [], tx := [],
    credits := [], returns := [0, 0, 0, 0, 0, 0, 0, 0], replayTimes := [] }

/-- The configuration of a write with enable 1 is valid (R455). Assumption: 90 (DEDUCED). -/
def cfgValid (p : Nat) (v : Word) : Bool :=
  wfld v 16 3 ≤ 4 && 1 ≤ wfld v 24 4 && wfld v 24 4 ≤ lanesFitted p

/-- Stores LNK_PORT_CFG; a write with enable 1 from DISABLED turns the transmitters on, or fails with LNK_CONFIG
(R445, R453, R455). A write whose configuration fails leaves the port DISABLED; a DISABLED port whose direction has a
stand-in enabled, or that a field test holds (R543), stays so. Assumption: 90 (DEDUCED). -/
def State.portEnable (s : State) (p : Nat) (v : Word) : State :=
  let r := portReg p .LNK_PORT_CFG_T .LNK_PORT_CFG_B
  let off := v &&& BitVec.ofNat 64 (2 ^ 63 - 1)
  if !cfgValid p v then
    let s := s.softWrite r (portIx p) off
    (if (s.port p).st == .disabled then s else s.portOff p).lnkRecord .contained 0x01 p 0 0
  else if (s.port p).st != .disabled then s.softWrite r (portIx p) v
  else if (isTrunk p && (s.standin p).getLsbD 63) || s.wch.tests.any (fun f => f.kind == 10 && f.object == p) then
    (s.softWrite r (portIx p) off).lnkRecord .contained 0x01 p 0 0
  else
    let s := s.softWrite r (portIx p) v
    s.modPort p fun q => { q with
      st := .detect
      lanes := (List.range (lanesFitted p)).map fun l => if (wfld v 32 8).testBit l then 0 else 1 }

/-- Stores LNK_PORT_CFG with enable 0 and sends the port to DISABLED (R445). -/
def State.portDisable (s : State) (p : Nat) (v : Word) : State :=
  (s.softWrite (portReg p .LNK_PORT_CFG_T .LNK_PORT_CFG_B) (portIx p) v).portOff p

/-- A training step ends on the lanes of a mask: the others are dead; with min_lanes left the port moves on (R445).
Assumption: 60 (DEDUCED). -/
def State.trainStep (s : State) (p lanes : Nat) (from_ goal : PortSt) (fails : Bool) : State :=
  let q := s.port p
  if q.st != from_ then s
  else
    let ok := (List.range (lanesFitted p)).filter fun l => lanes.testBit l && q.lanes.getD l 0 == 1
    let bad := (List.range (lanesFitted p)).filter fun l => !lanes.testBit l && q.lanes.getD l 0 == 1
    if ok.length < s.minLanes p then s
    else
      let s := s.modPort p fun q => { q with
        st := goal, lanes := q.lanes.zipIdx.map fun x => if fails && bad.contains x.2 then 3 else x.1 }
      if fails then
        s.each bad fun s l => (s.lnkRecord .deferred 0x02 p l ok.length).heatOn 64 (s.groveUsing p)
      else s

/-- Signal is detected on the lanes of a mask (R446 step 1). -/
def execTrainSignalDetect (port lanes : Nat) (s : State) : Host.Outcome State Fault Refusal :=
  .next (s.onDie fun s => s.trainStep port lanes .detect .equalise false)

/-- Equalisation ends; lanes not in the mask are dead (R446 step 2). -/
def execTrainEqualiseDone (port lanes : Nat) (s : State) : Host.Outcome State Fault Refusal :=
  .next (s.onDie fun s => s.trainStep port lanes .equalise .align true)

/-- Codeword lock and deskew complete on the lanes of a mask (R446 step 3). -/
def execTrainAlignDone (port lanes : Nat) (s : State) : Host.Outcome State Fault Refusal :=
  .next (s.onDie fun s => s.trainStep port lanes .align .identify true)

/-- The neighbour of this device in a trunk direction (R436). -/
def State.neighbour (s : State) (d : Nat) : Nat :=
  match s.torus with
  | none => 0
  | some dim =>
    let a := d % 3
    let n := dim.getD a 1
    let c := coords s.devnum
    let x := c.getD a 0
    let c := c.set a (if d < 3 then (x + 1) % n else (x + n - 1) % n)
    c.getD 0 0 + 32 * c.getD 1 0 + 1024 * c.getD 2 0

/-- A trunk partner is accepted: opposite direction, the neighbour's number, equal valid LNK_TORUS (R447). -/
def State.trunkAccepts (s : State) (d : Nat) (id : PortIdentity) : Bool :=
  id.kind == 1 && id.port == (d + 3) % 6 && id.device == s.neighbour d && id.torus.getLsbD 63 &&
    id.torus == s.getReg .LNK_TORUS [0]

/-- A partner is accepted (R447): on a branch port a switch, or a G2 branch port of the same logical size. -/
def State.accepts (s : State) (p : Nat) (id : PortIdentity) : Bool :=
  if isTrunk p then s.trunkAccepts p id
  else id.kind == 3 || (id.kind == 2 && id.size == s.bundleSize (p - 16))

/-- The clock reference named by CLK_REF_SEL lies on a lane of port p; its port left ACTIVE (R591). Read in ch. 19. -/
def State.portActive (s : State) (p : Nat) (id : PortIdentity) : State :=
  s.modPort p fun q => { q with
    st := .active, partner := some id, lanes := q.lanes.map fun l => if l = 1 then 2 else l, nextSeq := 0,
    lastAccepted := 65535, lastAcked := 65535, credits := id.credits }

/-- The identity exchange ends (R445, R447): ACTIVE, or WIRING with its record. A port waits in IDENTIFY while
GLB_DEVNUM.valid is 0 (R446). An exchange over a stand-in's branch port makes the stand-in active (R452). -/
def State.identityExchange (s : State) (port : Nat) (id : PortIdentity) : State :=
  if !s.devnumValid then s
  else if (s.port port).st == .identify then
    if s.accepts port id then ((s.portActive port id).pump port)
    else ((s.modPort port fun q => { q with st := .wiring }).lnkRecord .contained 0x05 port 0 id.device)
  else
    match s.standinOf port with
    | some d =>
      if s.trunkAccepts d id then (s.putFld .LNK_STANDIN [d / 3, d % 3] 62 1 1)
      else (s.lnkRecord .contained 0x05 port 0 id.device)
    | none => s

/-- A retrain ends with the lanes of a mask aligned and a partner identified (R445, R449): the same partner resumes, a
changed one, or too few lanes, ends the port. -/
def State.retrainDone (s : State) (port lanes : Nat) (id : PortIdentity) : State :=
  if (s.port port).st != .retrain then s
  else
    let s := s.modPort port fun q => { q with
      lanes := q.lanes.zipIdx.map fun x => if x.1 = 2 && !lanes.testBit x.2 then 3 else x.1 }
    if (s.port port).live < s.minLanes port then (s.portDead port .deferred 0x04)
    else if ((s.port port).partner.map fun q => (q.device, q.port)) == some (id.device, id.port) then
      let s := (s.modPort port fun q => { q with st := .active }).lnkRecord .corrected 0x03 port 0 id.device
      ((s.heatOn 4 (s.groveUsing port)).pump port)
    else (s.portDead port .deferred 0x06)

/-- A retrain passes its bound or aligns too few lanes (R445). -/
def State.retrainExpiry (s : State) (port lanes : Nat) : State :=
  if (s.port port).st != .retrain then s
  else
    let s := s.modPort port fun q => { q with
      lanes := q.lanes.zipIdx.map fun x => if x.1 = 2 && !lanes.testBit x.2 then 3 else x.1 }
    (s.portDead port .deferred 0x04)

/-! ## Link registers -/

/-- LNK_CREDIT_CFG (R458): refused while enable is 1, when the shares exceed the buffer, or below 16 flits. -/
def State.writeCreditCfg (s : State) (p : Nat) (v : Word) : State :=
  let vs := [wfld v 0 12, wfld v 16 12, wfld v 32 12, wfld v 48 12]
  if (s.portCfg p).getLsbD 63 || vs.foldl (· + ·) 0 > rxBuffer p || vs.any (· < 16) then
    s.lnkRecord .contained 0x01 p 0 0
  else s.softWrite (portReg p .LNK_CREDIT_CFG_T .LNK_CREDIT_CFG_B) (portIx p) v

/-- A LNK_CREDIT_CFG write. -/
def execLnkCreditCfgWrite (port : Nat) (value : Word) (s : State) : Host.Outcome State Fault Refusal :=
  .next (s.onDie fun s => s.writeCreditCfg port value)

/-- The dimensions meet R436: multiples of 4, dx and dy 4 to 32, dz 4 to 24. -/
def torusOk (v : Word) : Bool :=
  let ok := fun n hi => n % 4 == 0 && 4 ≤ n && n ≤ hi
  ok (wfld v 0 6) 32 && ok (wfld v 8 6) 32 && ok (wfld v 16 6) 24

/-- LNK_TORUS (R453, R460): both copies take a valid write; discarded while a grove is bound, or where the dimensions
are wrong or leave this device outside. -/
def State.writeTorus (s : State) (v : Word) : State :=
  if !s.boundGroves.isEmpty then s.refuseWrite .LNK_TORUS [0]
  else
    let inside := s.devnum ≥ 24576 ||
      ((coords s.devnum).zip [wfld v 0 6, wfld v 8 6, wfld v 16 6]).all fun p => p.1 < p.2
    if v.getLsbD 63 && (!torusOk v || !inside) then s.lnkRecord .contained 0x01 0 0 0
    else (s.softWrite .LNK_TORUS [0] v).softWrite .LNK_TORUS [1] v

/-- A LNK_TORUS write. -/
def execLnkTorusWrite (value : Word) (s : State) : Host.Outcome State Fault Refusal :=
  .next (s.onDie fun s => s.writeTorus value)

/-- A bundle word is aligned and unmixed (R441): every port of a logical port has its size, which is at most 16. -/
def bundleOk (v : Word) : Bool :=
  (List.range 16).all fun p =>
    let c := wfld v (3 * p) 3
    c ≤ 4 && ((List.range (2 ^ c)).all fun i => wfld v (3 * (p / 2 ^ c * 2 ^ c + i)) 3 == c)

/-- LNK_BUNDLE (R453, R461). -/
def State.writeBundle (s : State) (v : Word) : State :=
  let old := s.getReg .LNK_BUNDLE [0]
  let changed := (List.range 16).filter fun p => wfld v (3 * p) 3 ≠ wfld old (3 * p) 3
  if !s.boundGroves.isEmpty then s.refuseWrite .LNK_BUNDLE [0]
  else if !bundleOk v || changed.any (fun p => (s.standinOf (16 + p)).isSome || !(s.groveUsing (16 + p)).isEmpty) then
    s.lnkRecord .contained 0x01 16 0 0
  else (s.softWrite .LNK_BUNDLE [0] v).softWrite .LNK_BUNDLE [1] v

/-- A LNK_BUNDLE write. -/
def execLnkBundleWrite (value : Word) (s : State) : Host.Outcome State Fault Refusal :=
  .next (s.onDie fun s => s.writeBundle value)

/-- LNK_STANDIN (R451, R462): an enable needs the direction's trunk port DEAD or DISABLED, the logical branch port
ACTIVE, none of its ports in a grove's use mask, and a width of 1, 2 or 4 on its alignment; enable 0 takes the
stand-in out of use. -/
def State.writeStandin (s : State) (d : Nat) (v : Word) : State :=
  let w := wfld v 4 2
  let first := wfld v 0 4
  let ports := (List.range (2 ^ w)).map fun i => 16 + first + i
  let st := (s.port d).st
  if v.getLsbD 63 &&
      (!(st == .dead || st == .disabled) || w > 2 || first % 2 ^ w ≠ 0 || s.bundleSize first ≠ 2 ^ w ||
        ports.any (fun p => (s.port p).st != .active || !(s.groveUsing p).isEmpty)) then
    s.lnkRecord .contained 0x01 d 0 (wfld v 32 15)
  else (s.softWrite .LNK_STANDIN [d / 3, d % 3] v).putFld .LNK_STANDIN [d / 3, d % 3] 62 1 0

/-- A LNK_STANDIN write. -/
def execLnkStandinWrite (dir : Nat) (value : Word) (s : State) : Host.Outcome State Fault Refusal :=
  .next (s.onDie fun s => s.writeStandin dir value)

end Sys2Proof.Machine
end

