-- ==== Sys2Proof/Machine/Queues.lean ====
section
/-! DEFINITION. The command queues of ch. 3: doorbells, enables, completions, and the order in which commands start. -/
namespace Sys2Proof.Machine

/-- A queue. -/
def State.queue (s : State) (q : Nat) : Queue := tgetD s.hrt.queues q {}

/-- The state with a queue changed. -/
def State.modQueue (s : State) (q : Nat) (f : Queue → Queue) : State :=
  { s with hrt := { s.hrt with queues := tmod s.hrt.queues q {} f } }

/-- The configuration of the queue's enable in force (R108). -/
def State.qcfg (s : State) (q : Nat) : Word := (s.queue q).cfg

/-- The ring's entry count N (R108). -/
def State.qsize (s : State) (q : Nat) : Nat := 2 ^ wfld (s.qcfg q) 48 5

/-- The target of a queue (R97). -/
def State.qtarget (s : State) (q : Nat) : Nat := wfld (s.qcfg q) 32 4

/-- The grove a queue serves. -/
def State.qgrove (s : State) (q : Nat) : Nat := wfld (s.qcfg q) 0 4

/-- The queue is device-scope (R108). -/
def State.qdevice (s : State) (q : Nat) : Bool := (s.qcfg q).getLsbD 4

/-- The command ring's local byte offset of the enable in force (R106). -/
def State.qbase (s : State) (q : Nat) : Nat := (s.queue q).base

/-- The completion ring's local byte offset of the enable in force (R107). -/
def State.qcbase (s : State) (q : Nat) : Nat := (s.queue q).cbase

/-- The hearth-region half of a die (R94). -/
def hearthHalf (die : Nat) : Nat × Nat := (0x10000000000 + die * 2 ^ 34, 0x10000000000 + (die + 1) * 2 ^ 34)

/-- The `n` bytes at `o` lie in a die's hearth-region half. -/
def inHalf (die o n : Nat) : Bool := (hearthHalf die).1 ≤ o && o + n ≤ (hearthHalf die).2

/-- The `n` bytes at `o` lie in the hearth region. -/
def inHearth (o n : Nat) : Bool := 0x10000000000 ≤ o && o + n ≤ 0x10800000000

/-- The status codes of a completion record (R99). -/
inductive Status where
  | ok | staleGrove | badCommand | fault | aborted | voided
  deriving DecidableEq, Repr

/-- The number of a status (R99). -/
def Status.number : Status → Nat
  | .ok => 0 | .staleGrove => 1 | .badCommand => 2 | .fault => 3 | .aborted => 4 | .voided => 5

/-- A completion record's 16 bytes (R99, R100): the n-th record of the queue has phase 1 on even passes. -/
def completionBytes (q n size tag status result : Nat) : List Byte :=
  toLe 2 tag ++ toLe 1 q ++ toLe 1 status ++ toLe 1 (b2n (n / size % 2 == 0)) ++ toLe 3 0 ++ toLe 8 result

/-- A command of a queue that is fetched and not complete. -/
def State.cmd (s : State) (q i : Nat) : Option Cmd := (s.queue q).cmds.find? (·.index == i)

/-- Completes a command: its record is written at the queue's next slot, and its interrupt raised (R99 to R101).
Assumption: 41 (DEDUCED). -/
def State.complete (s : State) (q i : Nat) (st : Status) (result : Nat) : State :=
  match s.cmd q i with
  | none => s
  | some c =>
    let n := (s.queue q).completed
    let size := s.qsize q
    let s := (s.writeLocal .hearth (s.qcbase q + 16 * (n % size))
      (completionBytes q n size c.tag st.number result)).1
    let s := s.modQueue q fun x => { x with
      completed := (n + 1) % 2 ^ 32, cmds := x.cmds.filter (·.index != i) }
    if c.irq then s.interrupt (wfld (s.qcfg q) 40 5) else s

/-- A command may start (R101): it is fetched and not started, every earlier command has started, and one with the
fence flag finds none earlier uncompleted. Assumption: 41 (DEDUCED). -/
def State.startable (s : State) (q i : Nat) : Option Cmd :=
  match s.cmd q i with
  | none => none
  | some c =>
    let earlier := (s.queue q).cmds.takeWhile (·.index != i)
    if c.started || earlier.any (fun e => !e.started) || (c.fence && !earlier.isEmpty) then none else some c

/-- Marks a command as started. -/
def State.start (s : State) (q i : Nat) : State :=
  s.modQueue q fun x => { x with cmds := x.cmds.map fun c => if c.index == i then { c with started := true } else c }

/-- The command a queue row names: it may start, and its queue's target and its opcode are the row's. -/
def State.ofRow (s : State) (q i target op : Nat) : Option Cmd :=
  match s.startable q i with
  | none => none
  | some c => if s.qtarget q = target && c.opcode == op then some c else none

/-- Operand bytes of a command: `n` bytes at command offset `off` (R98). -/
def Cmd.arg (c : Cmd) (off n : Nat) : Nat := leAt c.raw off n

/-- The bytes of a command outside its operands' ranges are all zero: `used` lists offsets and lengths (R6). -/
def Cmd.restZero (c : Cmd) (used : List (Nat × Nat)) : Bool :=
  (List.range 56).all fun i => used.any (fun u => u.1 ≤ i + 8 && i + 8 < u.1 + u.2) || c.raw.getD (i + 8) 0 == 0

/-- The source whose chapter defines a target's opcodes, and the code of an invalid opcode (R102). -/
def targetCode (t : Nat) : Src × Nat :=
  if t = 0 then (.sch, 0x01)
  else if t = 1 then (.smp, 0x01)
  else if t = 2 then (.gth, 0x01)
  else if t = 3 then (.emb, 0x01)
  else if t = 4 then (.col, 0x01)
  else if t = 5 then (.upd, 0x01)
  else if t = 6 then (.kln, 0x01)
  else (.wch, 0x05)

/-- The opcode a target defines (R125, R213, R221, R276, R493, R511, R562, R542). -/
def opcodeDefined (t op : Nat) : Bool :=
  if t = 0 then op == 1
  else if t = 1 then 1 ≤ op && op ≤ 3
  else if t = 2 then 1 ≤ op && op ≤ 3
  else if t = 3 then 1 ≤ op && op ≤ 8
  else if t = 4 then 1 ≤ op && op ≤ 4
  else if t = 5 then 1 ≤ op && op ≤ 3
  else if t = 6 then 1 ≤ op && op ≤ 5
  else op == 1 || op == 2

/-- A command acts on a grove (R102): the queue's own, or on a device-scope target 6 queue the one it names. A target 7
command on a device-scope queue acts on none. Assumptions: 3 (DESIGN CHOICE), 41 (DEDUCED). -/
def State.actsOn (s : State) (q : Nat) (c : Cmd) : Option Nat :=
  if !s.qdevice q then some (s.qgrove q) else if s.qtarget q = 6 then some c.grove else none

/-- Ends a command as BAD_COMMAND with a contained record of its target's chapter. -/
def State.badCommand (s : State) (q i : Nat) (src : Src) (code : Nat) (grove : Option Nat) (detail result : Nat) :
    State :=
  (s.record src .contained (dieOfQueue q) code grove detail).complete q i .badCommand result

/-- Ends a command as STALE_GROVE (R75, R102). -/
def State.staleCommand (s : State) (q i g : Nat) : State :=
  let src := (targetCode (s.qtarget q)).1
  (s.staleRecord src (dieOfQueue q) g (s.grove g).generation (!(s.grove g).bound)).complete q i .staleGrove 0

/-! ## Doorbells and enables -/

/-- A doorbell (R103, R105, R109): accepted, refused on a disabled or stopped queue, or it stops the queue. -/
def State.doorbell (s : State) (q : Nat) (v : Word) : State :=
  let x := s.queue q
  if !x.enabled || x.stopped then s.refuseWrite .HLK_QDOORBELL [q]
  else
    let n := s.qsize q
    let tail := wfld v 0 32
    let consumed := wfld v 32 32
    if subMod 32 tail x.tail ≤ n && subMod 32 tail consumed ≤ n then
      s.modQueue q fun x => { x with tail := tail, consumed := consumed }
    else
      (s.modQueue q fun x => { x with stopped := true, error := 1 }).record .hlk .contained (dieOfQueue q) 0x04 none q

/-- A doorbell write. -/
def execQueueDoorbell (queue : Nat) (value : Word) (s : State) : Host.Outcome State Fault Refusal :=
  .next (s.awake fun s => s.doorbell queue value)

/-- A write of enable = 1 (R105, R108): checked; a valid one waits for the earlier enable's completions. The check of
the configuration's fields comes before that of the ring addresses. -/
def State.queueEnable (s : State) (q : Nat) (v : Word) : State :=
  let lg := wfld v 48 5
  let target := wfld v 32 4
  let cfgBad := lg < 6 || lg > 16 || wfld v 40 5 > 23 || target > 7 || (v.getLsbD 4 && target < 6)
  let base := wfld (s.getReg .HLK_QBASE [q]) 6 35 * 64
  let cbase := wfld (s.getReg .HLK_QCBASE [q]) 6 35 * 64
  let addrBad := !inHalf (dieOfQueue q) base (64 * 2 ^ lg) || !inHalf (dieOfQueue q) cbase (16 * 2 ^ lg)
  if cfgBad || addrBad then
    let s := s.softWrite .HLK_QCFG [q] (v &&& BitVec.ofNat 64 (2 ^ 63 - 1))
    let s := s.modQueue q fun x => { x with
      enabled := false, pendingEnable := none, error := if cfgBad then 3 else 2 }
    s.record .hlk .contained (dieOfQueue q) (if cfgBad then 0x06 else 0x05) none q
  else
    let s := s.softWrite .HLK_QCFG [q] v
    s.modQueue q fun x => { x with enabled := false, pendingEnable := some (v, base, cbase) }

/-- A write of HLK_QCFG with enable = 1. -/
def execQueueEnable (queue : Nat) (value : Word) (s : State) : Host.Outcome State Fault Refusal :=
  .next (s.awake fun s => s.queueEnable queue (value ||| BitVec.ofNat 64 (2 ^ 63)))

/-- Once no command of the earlier enable is left, the pending enable clears the counts and the queue runs (R105). -/
def State.enableTakesEffect (s : State) (q : Nat) : State :=
  let x := s.queue q
  match x.pendingEnable with
  | none => s
  | some (cfg, base, cbase) =>
    if x.cmds.isEmpty then s.modQueue q fun _ => { enabled := true, cfg := cfg, base := base, cbase := cbase } else s

/-- The pending enable takes effect. -/
def execQueueEnableTakeEffect (queue : Nat) (s : State) : Host.Outcome State Fault Refusal :=
  .next (s.awake fun s => s.enableTakesEffect queue)

/-- A write of enable = 0 (R105): fetching stops, unfetched commands are dropped. Assumption: 41 (DEDUCED). -/
def State.queueDisable (s : State) (q : Nat) (v : Word) : State :=
  (s.softWrite .HLK_QCFG [q] v).modQueue q fun x => { x with enabled := false, pendingEnable := none, tail := x.fetched }

/-- A write of HLK_QCFG with enable = 0. -/
def execQueueDisable (queue : Nat) (value : Word) (s : State) : Host.Outcome State Fault Refusal :=
  .next (s.awake fun s => s.queueDisable queue (value &&& BitVec.ofNat 64 (2 ^ 63 - 1)))

end Sys2Proof.Machine
end

