-- ==== Sys2Proof/Machine/Sched.lean ====
section
/-! DEFINITION. Task dispatch, ordered flows and knots (ch. 4): the checks and placing of INJECT, readiness and grants,
dispatch, the release of signals, knot operations, and what a step, a void, a fault or a regrove does to them. The
end of a task is in the file of its units. -/
namespace Sys2Proof.Machine

/-! ## Task descriptors -/

/-- A wait or signal entry (R124): none where its valid bit is 0 and the rest is zero; the flag says it is well
formed. -/
def parseEntry (v : Nat) : Bool × Option (Nat × Nat) :=
  if bit v 14 then (!bit v 15 && v < 2 ^ 48, some (fld v 0 14, fld v 16 32)) else (v == 0, none)

/-- A task of a 64-byte descriptor (R123), and whether every part of its format but the knot types is right (R126). -/
def parseTask (b : List Byte) : Bool × Task :=
  let e := fun o => parseEntry (leAt b o 8)
  let flags := leAt b 5 1
  let t : Task :=
    { unit := leAt b 0 1, grove := leAt b 1 1 % 16, gen := leAt b 2 2, priority := leAt b 4 1 % 4,
      ordered := bit flags 0, deferred := bit flags 1, unstepped := bit flags 2, flow := leAt b 6 2 % 2 ^ 12,
      step := leAt b 8 6, seq := leAt b 0x10 4, tile := leAt b 0x14 1 % 128, program := leAt b 0x18 6,
      waits := (e 0x20).2.toList ++ (e 0x28).2.toList, signals := (e 0x30).2.toList ++ (e 0x38).2.toList }
  let reserved := leAt b 1 1 < 16 && leAt b 4 1 < 4 && flags < 8 && leAt b 6 2 < 2 ^ 12 && leAt b 0x0E 2 == 0 &&
    leAt b 0x14 1 < 128 && zeroAt b 0x15 3 && leAt b 0x1E 2 == 0
  let entries := (e 0x20).1 && (e 0x28).1 && (e 0x30).1 && (e 0x38).1
  let ok := t.unit ≤ 4 && reserved && entries && ((t.unit == 4) == (t.program == 0)) &&
    !(t.ordered && t.unstepped) && (!t.unstepped || t.step == 0) && t.signals.all (fun x => x.2 != 0) &&
    (t.ordered || (t.flow == 0 && t.seq == 0))
  (ok, t)

/-! ## Knots -/

/-- A knot. -/
def State.knot (s : State) (k : Nat) : Knot := tgetD s.sch.knots k {}

/-- The state with a knot changed. -/
def State.modKnot (s : State) (k : Nat) (f : Knot → Knot) : State :=
  { s with sch := { s.sch with knots := tmod s.sch.knots k {} f } }

/-- What a signal of amount `a` does to a knot (R135, R136). -/
inductive SigOut where
  | typeFault
  | overflow (k : Knot)
  | ok (k : Knot)

/-- A signal meets a knot: counters and semaphores add, a barrier also counts its phase; a signal that would overflow,
and each one after it, sets value to its maximum (R135, R136). -/
def signalKnot (k : Knot) (a : Nat) : SigOut :=
  let sum := k.value + a
  if k.type = 1 then
    if k.overflow || sum > 2 ^ 32 - 1 then .overflow { k with value := 2 ^ 32 - 1, overflow := true }
    else .ok { k with value := sum }
  else if k.type = 2 then
    if k.overflow || sum > k.target then .overflow { k with value := k.target, overflow := true }
    else .ok { k with value := sum }
  else if k.type = 3 then
    if k.overflow || sum ≥ 2 * k.target then .overflow { k with value := k.target - 1, overflow := true }
    else if sum ≥ k.target then .ok { k with value := sum - k.target, phase := !k.phase }
    else .ok { k with value := sum }
  else .typeFault

/-- The detail of a knot record: knot id, and the task's tile or 0x7F (R530). -/
def knotDetail (k tile : Nat) : Nat := k + tile * 2 ^ 14

/-- The KNOT_OVERFLOW record and its count (R136). -/
def State.knotOverflow (s : State) (k tile : Nat) : State :=
  (s.bump .SCH_KNOT_OVF [dieOfKnot k]).record .sch .contained (dieOfKnot k) 0x08 (s.knotOwner k) (knotDetail k tile)

/-- The KNOT_TYPE record (R135). -/
def State.knotType (s : State) (k tile : Nat) : State :=
  s.record .sch .contained (dieOfKnot k) 0x05 (s.knotOwner k) (knotDetail k tile)

/-! ## Slots and flows -/

/-- The key of a slot. -/
def slotKey (tile slot : Nat) : Nat := 1024 * tile + slot

/-- A slot, if a task holds it. -/
def State.slot (s : State) (key : Nat) : Option Slot := tget s.sch.slots key

/-- The state with a held slot changed. -/
def State.modSlot (s : State) (key : Nat) (f : Slot → Slot) : State :=
  { s with sch := { s.sch with slots := tmap s.sch.slots fun k x => if k = key then f x else x } }

/-- Slots of a tile that are held. -/
def State.used (s : State) (tile : Nat) : Nat := (s.sch.slots.filter fun p => p.1 / 1024 == tile).length

/-- The lowest free slot of a tile. -/
def State.freeSlot (s : State) (tile : Nat) : Option Nat :=
  (List.range 1024).find? fun i => (s.slot (slotKey tile i)).isNone

/-- The key of a flow entry. -/
def flowKey (die grove flow : Nat) : Nat := 65536 * die + 4096 * grove + flow

/-- A flow entry. -/
def State.flow (s : State) (key : Nat) : Flow := tgetD s.sch.flows key {}

/-- The flow entry of a task. -/
def Task.flowKey (t : Task) : Nat := Sys2Proof.Machine.flowKey (dieOfTile t.tile) t.grove t.flow

/-- Withdraws the semaphore requests of slots (R129). Assumption: 42 (DEDUCED). -/
def State.withdraw (s : State) (p : Nat → Bool) : State :=
  { s with sch := { s.sch with knots := tmap s.sch.knots fun _ k =>
      { k with requests := k.requests.filter fun r => !p (slotKey r.1 r.2.1) } } }

/-- Ends a task without its signals: its slot stays held and its grove's bit is set in SCH_FAULTED (R143, R148). -/
def State.endTask (s : State) (key : Nat) : State :=
  match s.slot key with
  | none => s
  | some x =>
    let d := dieOfTile x.task.tile
    let s := (s.modSlot key fun y => { y with st := .faulted }).withdraw (· == key)
    s.putReg .SCH_FAULTED [d] (s.getReg .SCH_FAULTED [d] ||| BitVec.ofNat 64 (2 ^ x.task.grove))

/-- The grove is stopped on a die (R143). Assumption: 42 (DEDUCED). -/
def State.schFaulted (s : State) (die g : Nat) : Bool := (s.getReg .SCH_FAULTED [die]).getLsbD g

/-! ## Readiness and grants -/

/-- A task's grove is bound with its generation and its step runs (R128). Assumption: 88 (DEDUCED). -/
def State.taskLive (s : State) (t : Task) : Bool :=
  s.groveIs t.grove t.gen &&
    (t.unstepped || ((s.step_ t.grove).st == .running && (s.step_ t.grove).step == t.step))

/-- A wait is satisfied: counters and barriers by the knot's state, a semaphore by a grant. -/
def State.waitOk (s : State) (granted : List Nat) (w : Nat × Nat) : Bool :=
  let k := s.knot w.1
  if k.type = 1 then k.value ≥ w.2
  else if k.type = 2 then granted.contains w.1
  else if k.type = 3 then k.phase == bit w.2 0
  else false

/-- The semaphore waits of a task that are not granted. -/
def State.semWaits (s : State) (x : Slot) : List (Nat × Nat) :=
  x.task.waits.filter fun w => (s.knot w.1).type == 2 && !x.granted.contains w.1

/-- A waiting task asks for its grant once its other conditions hold (R129). -/
def State.request (s : State) (key : Nat) (x : Slot) : State :=
  let others := x.task.waits.filter fun w => (s.knot w.1).type != 2
  if x.st == .waiting && s.taskLive x.task && others.all (s.waitOk x.granted) then
    match s.semWaits x with
    | w :: _ =>
      if (s.knot w.1).requests.any fun r => slotKey r.1 r.2.1 == key then s
      else s.modKnot w.1 fun k => { k with requests := k.requests ++ [(key / 1024, key % 1024, w.2)] }
    | [] => s
  else s

/-- Grants requests of a semaphore in order of arrival while the oldest fits (R129). Assumption: 43 (DESIGN CHOICE). -/
def State.grant (s : State) (k : Nat) : Nat → State
  | 0 => s
  | fuel + 1 =>
    let n := s.knot k
    match n.requests with
    | (t, i, thr) :: rest =>
      if n.type = 2 && thr ≤ n.value then
        let s := s.modKnot k fun n => { n with value := n.value - thr, requests := rest }
        (s.modSlot (slotKey t i) fun x => { x with granted := x.granted ++ [k] }).grant k fuel
      else s
    | [] => s

/-- The bytes of the operation descriptor of a task, by its unit (R291, R301, R322, R335, R360). -/
def State.readDesc (s : State) (t : Task) : State × Acc × List Byte :=
  let g := t.grove
  if t.unit = 0 then s.readVa g t.program 128
  else if t.unit = 1 then
    let r := s.readVa g t.program 64
    let sc := leAt r.2.2 5 1
    let ic := leAt r.2.2 6 1
    if r.2.1 == .ok && leAt r.2.2 0 1 == 2 && 1 ≤ sc && sc ≤ 8 && 1 ≤ ic && ic ≤ 32 then
      s.readVa g t.program (64 + 16 * sc + 8 * ic)
    else r
  else s.readVa g t.program 64

/-- A TIL record (R310): the detail packs the task slot and the offset or address; both also stand in TIL_FAULT_LAST
(R319). Assumption: 18 (DESIGN CHOICE). -/
def State.tilRecord (s : State) (tile slot code grove detail : Nat) : State :=
  let s := s.putReg .TIL_FAULT_LAST [tile]
    (BitVec.ofNat 64 (code * 2 ^ 56 + grove * 2 ^ 52 + slot * 2 ^ 42 + detail % 2 ^ 32))
  let s := s.record .til .contained (dieOfTile tile) code (some grove) (slot + detail % 2 ^ 32 * 2 ^ 10)
  if code = 0x07 then s.heatOn 1024 (s.tileOwner tile).toList else s

/-- Makes a task ready: its operation descriptor is read; a descriptor that cannot be read faults the task (R291). -/
def State.makeReady (s : State) (key : Nat) (x : Slot) : State :=
  let s := s.withdraw (· == key)
  let ready := fun (s : State) d => s.modSlot key fun y => { y with st := .ready s.sch.readyCtr, desc := d }
  if x.task.unit = 4 then ready s []
  else
    match s.readDesc x.task with
    | (s, .ok, d) => ready s d
    | (s, .page, _) => (s.tilRecord (key / 1024) (key % 1024) 0x05 x.task.grove x.task.program).endTask key
    | (s, .stale, _) =>
      (s.staleRecord .til (key / 65536) x.task.grove (s.grove x.task.grove).generation false).endTask key
    | (s, _, _) => s.endTask key

/-- A task that waits on a knot now of type 0 faults with KNOT_TYPE (R139, R143). -/
def State.judgeTypes (s : State) (key : Nat) (x : Slot) : State :=
  match x.task.waits.find? fun w => (s.knot w.1).type == 0 with
  | some w => if x.st == .waiting then (s.knotType w.1 x.task.tile).endTask key else s
  | none => s

/-- Judges grants and readiness after operations on knots, steps or bindings (R128, R129, R137, R139).
Assumption: 43 (DESIGN CHOICE). -/
def State.judge (s : State) : State :=
  let s := s.each s.sch.slots fun s p => s.judgeTypes p.1 p.2
  let s := s.each s.sch.slots fun s p => s.request p.1 p.2
  let s := s.each s.sch.knots fun s p => s.grant p.1 p.2.requests.length
  let s := s.each s.sch.slots fun s p => s.request p.1 p.2
  let s := { s with sch := { s.sch with readyCtr := s.sch.readyCtr + 1 } }
  s.each s.sch.slots fun s p =>
    if p.2.st == .waiting && s.taskLive p.2.task && p.2.task.waits.all (s.waitOk p.2.granted) then s.makeReady p.1 p.2
    else s

/-! ## Signals -/

/-- A register or engine signal (R135 to R137): a fault writes its record; an overflow leaves the value at its maximum,
against which waits are judged (R136). -/
def State.engineSignal (s : State) (k a : Nat) : State :=
  match signalKnot (s.knot k) a with
  | .typeFault => s.knotType k 0x7F
  | .overflow n => ((s.modKnot k fun _ => n).knotOverflow k 0x7F).judge
  | .ok n => (s.modKnot k fun _ => n).judge

/-- The first signal of a task that faults, tried in order with the effect of those before it (R143). -/
def State.firstBad (s : State) : List (Nat × Nat) → Option (Nat × Option Knot)
  | [] => none
  | (k, a) :: rest =>
    match signalKnot (s.knot k) a with
    | .typeFault => some (k, none)
    | .overflow n => some (k, some n)
    | .ok n => (s.modKnot k fun _ => n).firstBad rest

/-- Applies a task's signals and frees its slot, or ends the task by the fault of the first that faults: then none of
its signals is released (R131, R136, R143). The flag says they were released. -/
def State.applySignals (s : State) (key : Nat) (t : Task) : State × Bool :=
  match s.firstBad t.signals with
  | some (k, none) => ((s.knotType k t.tile).endTask key, false)
  | some (k, some n) => (((s.modKnot k fun _ => n).knotOverflow k t.tile).endTask key, false)
  | none =>
    let s := t.signals.foldl (fun s w => match signalKnot (s.knot w.1) w.2 with
      | .ok n => s.modKnot w.1 fun _ => n
      | _ => s) s
    ({ s with sch := { s.sch with slots := terase s.sch.slots key } }, true)

/-- The held member of a flow at its next release. -/
def State.heldAt (s : State) (fk : Nat) : Option (Nat × Slot) :=
  s.sch.slots.find? fun p => p.2.st == .held && p.2.task.ordered && p.2.task.flowKey == fk &&
    p.2.task.seq == (s.flow fk).next

/-- Releases every consecutive held member of a flow (R132). -/
def State.releaseHeld (s : State) (fk : Nat) : Nat → State
  | 0 => s
  | fuel + 1 =>
    match s.heldAt fk with
    | none => s
    | some (key, x) =>
      let r := s.applySignals key x.task
      if r.2 then
        ({ r.1 with sch := { r.1.sch with
            flows := tmod r.1.sch.flows fk {} fun f => { f with next := (f.next + 1) % 2 ^ 32 } } }).releaseHeld fk fuel
      else r.1

/-- Hold-buffer entries in use on a die (R133). -/
def State.heldCount (s : State) (die : Nat) : Nat :=
  (s.sch.slots.filter fun p => p.2.st == .held && dieOfTile p.2.task.tile == die).length

/-- Releases a completed task's signals, or holds them for its flow (R132, R133); a completion that finds the hold
buffer full keeps its unit. -/
def State.release (s : State) (key : Nat) (t : Task) : State :=
  if !t.ordered then (s.applySignals key t).1
  else
    let fk := t.flowKey
    if t.seq = (s.flow fk).next then (s.modSlot key fun x => { x with st := .held }).releaseHeld fk (s.sch.slots.length + 1)
    else if s.heldCount (dieOfTile t.tile) < 8192 then s.modSlot key fun x => { x with st := .held }
    else s.modSlot key fun x => { x with st := .stalled }

/-- Gives freed hold-buffer entries to the completions that wait for one, lower slot first (R133), but for those of a step
that was stopped (R34). Assumption: 44 (DESIGN CHOICE). -/
def State.unstall (s : State) : State :=
  s.each (s.sch.slots.filter fun p => p.2.st == .stalled && s.taskLive p.2.task) fun s p => s.release p.1 p.2.task

/-- Ends a task that its unit completed (R131). -/
def State.completeTask (s : State) (key : Nat) : State :=
  match s.slot key with
  | none => s
  | some x => (s.release key x.task).unstall.judge

/-! ## INJECT -/

/-- The code of the first check of R126 that a descriptor fails, in table order. Assumption: 43 (DESIGN CHOICE). -/
def State.injectCheck (s : State) (q : Nat) (c : Cmd) (b : List Byte) : Option Nat :=
  let p := parseTask b
  let t := p.2
  let sem := t.waits.filter fun w => (s.knot w.1).type == 2
  let gs := s.step_ t.grove
  let stepOk := t.step == stepSucc gs.step ||
    (t.step == gs.step && gs.st != .closed && gs.st != .committed)
  let waitBad := t.waits.any fun w =>
    let k := s.knot w.1
    k.type == 0 || (k.type == 3 && w.2 ≥ 2) || (k.type != 3 && w.2 == 0) || (k.type == 2 && w.2 > k.target)
  if !p.1 || sem.length ≥ 2 then some 0x01
  else if t.grove != c.grove || t.gen != c.gen then some 0x02
  else if dieOfTile t.tile != dieOfQueue q || !s.tileUsable t.grove t.tile then some 0x03
  else if t.waits.any (fun w => dieOfKnot w.1 != dieOfTile t.tile) ||
      (t.waits ++ t.signals).any (fun w => s.knotOwner w.1 != some t.grove) then some 0x04
  else if waitBad then some 0x05
  else if !t.unstepped && !stepOk then some 0x06
  else if t.ordered && subMod 32 t.seq (s.flow t.flowKey).next ≥ 4096 then some 0x07
  else none

/-- Every tile a set of tasks names has room for its share (R127). -/
def State.roomFor (s : State) (ts : List Task) : Bool :=
  ts.all fun t => s.used t.tile + (ts.filter fun u => u.tile == t.tile).length ≤ 1024

/-- Places a task in its tile's lowest free slot and marks the high water (R127, R145). -/
def State.placeTask (s : State) (t : Task) : State :=
  match s.freeSlot t.tile with
  | none => s
  | some i =>
    let s := { s with sch := { s.sch with slots := tset s.sch.slots (slotKey t.tile i) { task := t, st := .waiting } } }
    s.putFld .SCH_DEPTH [t.tile] 48 11 (max (s.regFld .SCH_DEPTH [t.tile] 48 11) (s.used t.tile))

/-- Ends an INJECT as BAD_COMMAND (R125, R126, R530). -/
def State.refuseInject (s : State) (q i : Nat) (c : Cmd) (code index : Nat) : State :=
  let detail := q + c.tag * 2 ^ 16 + (if code = 0x0A then 0 else index * 2 ^ 32)
  s.badCommand q i .sch code (some c.grove) detail (index + code * 2 ^ 16)

/-- The bytes of `n` descriptors of an INJECT's source: `page` where the source fails its check (R125). -/
def State.injectSource (s : State) (q : Nat) (c : Cmd) (n : Nat) : State × Acc × List Byte :=
  let addr := c.arg 8 6
  if addr % 64 ≠ 0 then (s, .page, [])
  else if bit (c.arg 8 8) 63 then
    match s.translateRange c.grove (64 * n) addr (64 * n) with
    | none => (s, .page, [])
    | some _ => s.readVa c.grove addr (64 * n)
  else if inHalf (dieOfQueue q) addr (64 * n) then s.readLocal .hearth addr (64 * n)
  else (s, .page, [])

/-- INJECT starts: source and descriptors are checked, and it is placed by INJECT_PLACE once there is room; until then
the queue fetches nothing more (R125 to R127). Assumption: 43 (DESIGN CHOICE). -/
def State.inject (s : State) (q i : Nat) : State :=
  match s.ofRow q i 0 1 with
  | none => s
  | some c =>
    let s := s.start q i
    let n := c.arg 0x10 2
    if fld (c.arg 8 8) 48 15 ≠ 0 || !c.restZero [(8, 8), (0x10, 2)] || n = 0 || n > 256 then
      s.refuseInject q i c 0x01 0
    else
      match s.injectSource q c n with
      | (s, .page, _) => s.refuseInject q i c 0x0A 0
      | (s, .ok, bs) =>
        let ds := (List.range n).map fun j => (bs.drop (64 * j)).take 64
        (match (ds.zipIdx).find? fun d => (s.injectCheck q c d.1).isSome with
         | some d => s.refuseInject q i c ((s.injectCheck q c d.1).getD 0) d.2
         | none =>
           { (s.modQueue q fun x => { x with waiting := true }) with
             sch := { s.sch with injects := s.sch.injects ++ [⟨q, i, ds.map fun d => (parseTask d).2⟩] } })
      | (s, .stale, _) => s.staleCommand q i c.grove
      | (s, _, _) => s.complete q i .fault 0

/-- The INJECT command. -/
def execInject (queue index : Nat) (s : State) : Host.Outcome State Fault Refusal :=
  .next (s.onDie fun s => s.inject queue index)

/-- Takes a waiting INJECT away and lets its queue fetch again. -/
def State.endInject (s : State) (q i : Nat) : State :=
  (s.modQueue q fun x => { x with waiting := false }) |> fun s =>
    { s with sch := { s.sch with injects := s.sch.injects.filter fun p => !(p.queue == q && p.index == i) } }

/-- A waiting INJECT whose tiles all have room is placed whole and completes; one whose grove or generation has
changed completes STALE_GROVE (R127). Assumption: 43 (DESIGN CHOICE). -/
def State.injectPlace (s : State) (q i : Nat) : State :=
  match s.sch.injects.find? (fun p => p.queue == q && p.index == i), s.cmd q i with
  | some p, some c =>
    if !s.groveIs c.grove c.gen then (s.endInject q i).staleCommand q i c.grove
    else if s.roomFor p.tasks then
      let s := (s.endInject q i).each p.tasks State.placeTask
      (s.complete q i .ok 0).judge
    else s
  | _, _ => s

/-- A waiting INJECT is placed. -/
def execInjectPlace (queue index : Nat) (s : State) : Host.Outcome State Fault Refusal :=
  .next (s.onDie fun s => s.injectPlace queue index)

/-! ## Dispatch -/

/-- A unit of a tile runs or holds a task. -/
def State.unitBusy (s : State) (tile unit : Nat) : Bool :=
  s.sch.slots.any fun p => p.1 / 1024 == tile && p.2.task.unit == unit && (p.2.st == .running || p.2.st == .stalled)

/-- A tile takes no new work: a batch quiesces it (R64), or its log array recomputes a pass (R534). -/
def State.tileStopped (s : State) (tile unit : Nat) : Bool :=
  (match s.grv.batch with
   | some b => b.tiles.testBit tile
   | none => false) || (unit == 0 && (tgetD s.wch.tiles tile {}).recompute != 0)

/-- The readiness order of a slot, if it is ready. -/
def Slot.order (x : Slot) : Option Nat :=
  match x.st with
  | .ready n => some n
  | _ => none

/-- Task `a` goes before `b` (R130); a lower slot decides last. -/
def before (a b : Nat × Slot) : Bool :=
  if a.2.task.deferred != b.2.task.deferred then !a.2.task.deferred
  else if a.2.task.priority != b.2.task.priority then a.2.task.priority > b.2.task.priority
  else if a.2.order != b.2.order then (a.2.order.getD 0) < (b.2.order.getD 0)
  else a.1 < b.1

/-- The ready tasks of a unit that may be dispatched: a stopped grove's stepped tasks may not (R143), nor those of a step
that no longer runs (R34). -/
def State.candidates (s : State) (tile unit : Nat) : List (Nat × Slot) :=
  s.sch.slots.filter fun p => p.1 / 1024 == tile && p.2.task.unit == unit && p.2.order.isSome &&
    (p.2.task.unstepped || !s.schFaulted (dieOfTile tile) p.2.task.grove) && s.taskLive p.2.task

/-- The first of a list in dispatch order. -/
def firstTask : List (Nat × Slot) → Option (Nat × Slot)
  | [] => none
  | p :: t =>
    match firstTask t with
    | none => some p
    | some q => if before p q then some p else some q

/-- Counts the cycles the scheduler has seen (R147). -/
def State.countStalls (s : State) (tile unit : Nat) (c : StallCycles) : State :=
  let s := if c.starve = 0 then s else s.bump .SCH_STARVE [tile, unit] c.starve
  let s := if c.wait = 0 then s else s.bump .SCH_WAIT_CYC [tile] c.wait
  let s := if c.credit = 0 then s else s.bump .SCH_CREDIT_STALL [tile] c.credit
  if c.hold = 0 then s else s.bump .SCH_HOLD_CYC [tile] c.hold

/-- An idle unit takes the first ready task (R130). -/
def State.dispatch (s : State) (tile unit : Nat) (c : StallCycles) : State :=
  if !s.islandsRun || s.unitBusy tile unit || s.tileStopped tile unit then s
  else
    match firstTask (s.candidates tile unit) with
    | none => s
    | some p =>
      ((s.countStalls tile unit c).modSlot p.1 fun x => { x with st := .running }).bump .SCH_DISPATCHED [tile]

/-- A unit takes a task. -/
def execTaskDispatch (tile unit : Nat) (cycles : StallCycles) (s : State) : Host.Outcome State Fault Refusal :=
  .next (s.onDie fun s => s.dispatch tile unit cycles)

/-! ## Registers of knots and schedulers -/

/-- A KNT_SIGNAL write: amount 0 has no effect (R138). -/
def State.knotSignal (s : State) (k : Nat) (v : Word) : State :=
  if wfld v 0 32 = 0 then s else s.engineSignal k (wfld v 0 32)

/-- A KNT_SIGNAL write. -/
def execKntSignal (knot : Nat) (value : Word) (s : State) : Host.Outcome State Fault Refusal :=
  .next (s.onDie fun s => s.knotSignal knot value)

/-- A KNT_INIT_TYPE write stages a type (R138). -/
def State.knotStage (s : State) (k : Nat) (v : Word) : State :=
  s.modKnot k fun n => { n with stagedType := wfld v 0 4, stagedNoRewind := v.getLsbD 8 }

/-- The values of a KNT_INIT break the rules of R135 or R139. -/
def initBad (n : Knot) (value target : Nat) : Bool :=
  if n.stagedType = 0 then value != 0 || target != 0
  else if n.stagedType = 1 then target != 0
  else if n.stagedType = 2 then target == 0 || value > target || n.requests.any (fun r => r.2.2 > target)
  else if n.stagedType = 3 then target == 0 || value ≥ target
  else true

/-- A KNT_INIT write (R139, R141). -/
def State.knotInit (s : State) (k : Nat) (v : Word) : State :=
  let n := s.knot k
  let value := wfld v 0 32
  let target := wfld v 32 32
  let s := s.modKnot k fun n => { n with stagedType := 0, stagedNoRewind := false }
  match s.knotOwner k with
  | none => s.record .sch .contained (dieOfKnot k) 0x09 none k
  | some g =>
    if initBad n value target then s.record .sch .contained (dieOfKnot k) 0x09 (some g) k
    else
      let closed := (s.step_ g).st == .closed
      (s.modKnot k fun m => { m with
        type := n.stagedType, noRewind := n.stagedNoRewind, value := value, target := target, phase := false,
        overflow := false, shadowValue := if closed then value else m.shadowValue,
        shadowPhase := if closed then false else m.shadowPhase }).judge

/-- A KNT_INIT write. -/
def execKntInit (knot : Nat) (value : Word) (s : State) : Host.Outcome State Fault Refusal :=
  .next (s.onDie fun s => s.knotInit knot value)

/-- An engine signal of a message: checked under R73, then applied (R137). -/
def State.signalMessage (s : State) (o : Origin) (k a : Nat) : State :=
  if s.knotOwner k == some o.grove && s.groveIs o.grove o.gen then s.engineSignal k a
  else s.dropStale (dieOfKnot k) o

/-- An engine signal arrives. -/
def execKnotSignalMessage (o : Origin) (knot amount : Nat) (s : State) : Host.Outcome State Fault Refusal :=
  .next (s.onDie fun s => s.signalMessage o knot amount)

/-- Sets a tile's high water to its occupancy (R146). -/
def State.clearHighWater (s : State) (tile : Nat) : State := s.putFld .SCH_DEPTH [tile] 48 11 (s.used tile)

/-- SCH_CLEAR.clear_high_water. -/
def execSchClearHighWater (tile : Nat) (s : State) : Host.Outcome State Fault Refusal :=
  .next (s.onDie fun s => s.clearHighWater tile)

/-- Zeroes a tile's scheduler counters (R146). -/
def State.clearSchCounters (s : State) (tile : Nat) : State :=
  let s := s.each (List.range 4) fun s u => (s.putReg .SCH_BUSY [tile, u] 0).putReg .SCH_STARVE [tile, u] 0
  s.each [Reg.SCH_WAIT_CYC, .SCH_CREDIT_STALL, .SCH_DISPATCHED, .SCH_HOLD_CYC] fun s r => s.putReg r [tile] 0

/-- SCH_CLEAR.clear_counters. -/
def execSchClearCounters (tile : Nat) (s : State) : Host.Outcome State Fault Refusal :=
  .next (s.onDie fun s => s.clearSchCounters tile)

/-! ## Steps, voids, regroves -/

/-- At a step's open every rewindable knot and every flow of the grove is copied into its shadow (R141). -/
def State.openShadows (s : State) (g : Nat) : State :=
  let owned := fun k => inRanges (s.grove g).knots k
  { s with sch := { s.sch with
      knots := tmap s.sch.knots fun i k =>
        if owned i && !k.noRewind then { k with shadowValue := k.value, shadowPhase := k.phase } else k
      flows := tmap s.sch.flows fun i f => if i / 4096 % 16 = g then { f with shadow := f.next } else f } }

/-- Discards the entries that `p` names, with their requests; counts them in SCH_DISCARDED when asked (R144). -/
def State.discardTasks (s : State) (p : Nat → Slot → Bool) (count : Bool) : State :=
  let gone := s.sch.slots.filter fun x => p x.1 x.2
  let s := s.withdraw fun k => gone.any fun x => x.1 == k
  let s := { s with sch := { s.sch with slots := s.sch.slots.filter fun x => !p x.1 x.2 } }
  if count then
    s.each [0, 1] fun s d =>
      let n := (gone.filter fun x => dieOfTile x.2.task.tile == d).length
      if n = 0 then s else s.bump .SCH_DISCARDED [d] n
  else s

/-- Rewinds the scheduler for a voided step (R142): its tasks are stopped and discarded, and the rewindable knots and
the flows of the grove return to their shadows. -/
def State.rewindSched (s : State) (g n : Nat) : State :=
  let s := s.discardTasks (fun _ x => x.task.grove == g && !x.task.unstepped && x.task.step == n) false
  let owned := fun k => inRanges (s.grove g).knots k
  let s := { s with sch := { s.sch with
      knots := tmap s.sch.knots fun i k =>
        if owned i && !k.noRewind then { k with value := k.shadowValue, phase := k.shadowPhase } else k
      flows := tmap s.sch.flows fun i f => if i / 4096 % 16 = g then { f with next := f.shadow } else f } }
  s.unstall.judge

/-- Discards everything the scheduler holds of a grove whose generation changes (R144). -/
def State.discardGrove (s : State) (g : Nat) : State :=
  (s.discardTasks (fun _ x => x.task.grove == g) true).withdraw fun _ => false

/-- A full bind zeroes the grove's flow entries and shadows (R144). -/
def State.zeroFlows (s : State) (g : Nat) : State :=
  { s with sch := { s.sch with flows := s.sch.flows.filter fun p => p.1 / 4096 % 16 != g } }

/-- Discards what a tile holds, counted (R536, R545). Assumption: 44 (DESIGN CHOICE). -/
def State.discardTile (s : State) (tile : Nat) : State := s.discardTasks (fun k _ => k / 1024 == tile) true

/-- Completes VOIDED the waiting INJECTs of a grove that hold a task of the voided step (R102). -/
def State.voidInjects (s : State) (g n : Nat) : State :=
  s.each s.sch.injects fun s p =>
    if p.tasks.any (fun t => t.grove == g && !t.unstepped && t.step == n) then
      (s.endInject p.queue p.index).complete p.queue p.index .voided 0
    else s

/-- A free knot or one that changes grove becomes type none (R65). -/
def State.clearKnots (s : State) (p : Nat → Bool) : State :=
  { s with sch := { s.sch with knots := s.sch.knots.filter fun k => !p k.1 } }

end Sys2Proof.Machine
end

