-- ==== Sys2Proof/Machine/Numbers.lean ====
section
/-! DEFINITION. Number formats and conversion (ch. 5): exact binary numbers, FP32 and BF16 rounding, the converter
tables, log and linear conversions, the native functions, B8, and exponent histograms. A code is a natural number. -/
namespace Sys2Proof.Machine

/-! ## Exact numbers -/

/-- A number: NaN, an infinity with its sign, or the exact value (-1)^s * m * 2^e. -/
inductive Num where
  | nan
  | inf (s : Bool)
  | fin (s : Bool) (m : Nat) (e : Int)
  deriving DecidableEq, Repr

/-- m * 2^-k rounded to the nearest integer, ties to even. -/
def rne (m k : Nat) : Nat :=
  let q := m / 2 ^ k
  let r := m % 2 ^ k
  if 2 * r > 2 ^ k || (2 * r == 2 ^ k && q % 2 == 1) then q + 1 else q

/-- m * 2^e as an integer, ties to even. -/
def rneInt (m : Nat) (e : Int) : Nat := if e ≥ 0 then m * 2 ^ e.toNat else rne m (-e).toNat

/-- The code of (-1)^s * m * 2^e in a binary format of `p` significand bits, least exponent `emin` and infinity code
`top`, rounded to nearest, ties to even (R155). -/
def encodeFp (p : Nat) (emin : Int) (top sign : Nat) (s : Bool) (m : Nat) (e : Int) : Nat :=
  let body :=
    if m = 0 then 0
    else
      let q := max (e + m.log2 + 1 - p) emin
      let k := rneInt m (e - q)
      min top ((q - emin).toNat * 2 ^ (p - 1) + k)
  if s then sign + body else body

/-- The FP32 code of a number (R155). -/
def Num.f32 : Num → Nat
  | .nan => 0x7FC00000
  | .inf s => if s then 0xFF800000 else 0x7F800000
  | .fin s m e => encodeFp 24 (-149) 0x7F800000 0x80000000 s m e

/-- The BF16 code of a number (R155). -/
def Num.bf16 : Num → Nat
  | .nan => 0x7FC0
  | .inf s => if s then 0xFF80 else 0x7F80
  | .fin s m e => encodeFp 8 (-133) 0x7F80 0x8000 s m e

/-- The number a binary code stands for: `fb` fraction bits, 8 exponent bits. -/
def decodeFp (fb : Nat) (b : Nat) : Num :=
  let s := bit b (fb + 8)
  let x := fld b fb 8
  let f := fld b 0 fb
  if x = 255 then (if f = 0 then .inf s else .nan)
  else if x = 0 then .fin s f (-126 - fb)
  else .fin s (2 ^ fb + f) ((x : Int) - 127 - fb)

/-- The number an FP32 code stands for. -/
def ofF32 (b : Nat) : Num := decodeFp 23 b

/-- The number a BF16 code stands for. -/
def ofBf16 (b : Nat) : Num := decodeFp 7 b

/-- A signed integer times 2^e. -/
def ofInt (i : Int) (e : Int) : Num := .fin (i < 0) i.natAbs e

/-- The integer (-1)^s * m. -/
def sgn (s : Bool) (m : Nat) : Int := if s then -(m : Int) else m

/-- Negation. -/
def Num.neg : Num → Num
  | .nan => .nan
  | .inf s => .inf (!s)
  | .fin s m e => .fin (!s) m e

/-- Magnitude. -/
def Num.abs : Num → Num
  | .nan => .nan
  | .inf _ => .inf false
  | .fin _ m e => .fin false m e

/-- The exact sum, with the signed zeros of IEEE 754. -/
def Num.add : Num → Num → Num
  | .nan, _ => .nan
  | _, .nan => .nan
  | .inf s, .inf t => if s == t then .inf s else .nan
  | .inf s, _ => .inf s
  | _, .inf t => .inf t
  | .fin s m e, .fin t n f =>
    let k := min e f
    let v := sgn s m * 2 ^ (e - k).toNat + sgn t n * 2 ^ (f - k).toNat
    if v = 0 then .fin (s && t) 0 0 else ofInt v k

/-- The exact product. -/
def Num.mul : Num → Num → Num
  | .nan, _ => .nan
  | _, .nan => .nan
  | .inf s, .inf t => .inf (s != t)
  | .inf s, .fin t m _ => if m = 0 then .nan else .inf (s != t)
  | .fin s m _, .inf t => if m = 0 then .nan else .inf (s != t)
  | .fin s m e, .fin t n f => .fin (s != t) (m * n) (e + f)

/-- Sum of two FP32 codes, rounded once (R155). -/
def f32Add (a b : Nat) : Nat := ((ofF32 a).add (ofF32 b)).f32

/-- The sign of a comparison: negative, zero or positive; none when a NaN is present (R177). -/
def Num.cmp : Num → Num → Option Int
  | .nan, _ => none
  | _, .nan => none
  | .inf s, .inf t => some (if s == t then 0 else if s then -1 else 1)
  | .inf s, _ => some (if s then -1 else 1)
  | _, .inf t => some (if t then 1 else -1)
  | .fin s m e, .fin t n f =>
    let k := min e f
    some (sgn s m * 2 ^ (e - k).toNat - sgn t n * 2 ^ (f - k).toNat)

/-- Minimum of two numbers; of two zeros the negative one (R178). -/
def Num.min (a b : Num) : Num :=
  match a.cmp b with
  | none => .nan
  | some c =>
    if c < 0 then a else if c > 0 then b
    else (match a, b with
      | .fin s 0 _, .fin t 0 _ => .fin (s || t) 0 0
      | _, _ => a)

/-- Maximum of two numbers; of two zeros the positive one (R178). -/
def Num.max (a b : Num) : Num := (Num.min a.neg b.neg).neg

/-- floor(log2 |x|) of a finite non-zero number. -/
def Num.flog2 : Num → Option Int
  | .fin _ m e => if m = 0 then none else some (e + m.log2)
  | _ => none

/-! ## Converter tables -/

/-- T8 (R157, R159). -/
def t8 (f : Nat) : Nat := [0x8000, 0x8B96, 0x9838, 0xA5FF, 0xB505, 0xC567, 0xD745, 0xEAC1].getD f 0

/-- The largest n at or below `hi` reached by adding powers of two with (2n - 1)^256 at most `t`. -/
def t16Search (t : Nat) : Nat → Nat → Nat
  | 0, n => n
  | k + 1, n => if (2 * (n + 2 ^ k) - 1) ^ 256 ≤ t then t16Search t k (n + 2 ^ k) else t16Search t k n

/-- T16[f], the integer nearest to 2^(f/256) * 2^23 (R158): the largest n whose n - 1/2 does not exceed it. -/
def t16 (f : Nat) : Nat := t16Search (2 ^ (256 * 24 + f)) 23 (2 ^ 23)

/-- T16[f] * 2^(q - 23) with d = 256q + f (R173). -/
def expOf (s : Bool) (d : Int) : Num := .fin s (t16 (d % 256).toNat) (d / 256 - 23)

/-- The integer nearest to K * log2 (m * 2^e), which no tie can reach (R167). -/
def nearestLog (k m : Nat) (e : Int) : Int := k * e + (((m ^ (2 * k)).log2 + 1) / 2 : Nat)

/-! ## Conversions to the log formats -/

/-- A conversion's code, and the saturations and flushes it counts. -/
structure Conv where
  code : Nat
  sat : Nat := 0
  flush : Nat := 0
  deriving DecidableEq, Repr

/-- A log code of `w` value bits from an unlimited integer: `top` is the largest finite code (R168, R170). -/
def limitCode (w top : Nat) (s : Bool) (n : Int) : Conv :=
  let sign := if s then 2 ^ w else 0
  if n > top then { code := sign + top, sat := 1 }
  else if n ≤ 0 then { code := 0, flush := 1 }
  else { code := sign + n.toNat }

/-- A linear number as an L16 code (R168). -/
def toL16 : Num → Conv
  | .nan => { code := 0x8000 }
  | .inf s => { code := if s then 0xFFFF else 0x7FFF }
  | .fin s m e => if m = 0 then { code := 0 } else limitCode 15 0x7FFE s (nearestLog 256 m e + 16384)

/-- The block scale a converting unit chooses (R170). -/
def autoScale (xs : List Num) : Int :=
  match (xs.filterMap Num.flog2).max? with
  | none => -128
  | some m => max (-127) (min 127 (m - 6))

/-- A linear number as an L8 code under block scale B (R170). -/
def toL8 (b : Int) : Num → Conv
  | .nan => { code := 0x80 }
  | .inf s => { code := if s then 0xFF else 0x7F, sat := 1 }
  | .fin s m e => if m = 0 then { code := 0 } else limitCode 7 127 s (nearestLog 8 m e - 8 * b + 64)

/-- An L8 code as an L16 code, exactly but for the limits (R171). -/
def l8ToL16 (b : Int) (c : Nat) : Conv :=
  if c = 0x80 then { code := 0x8000 }
  else if c % 128 = 0 then { code := 0 }
  else limitCode 15 0x7FFE (bit c 7) (32 * ((c % 128 : Nat) - 64 : Int) + 256 * b + 16384)

/-- n / 32 to the nearest integer, ties to even. -/
def div32 (n : Int) : Int :=
  let q := n / 32
  let r := n % 32
  if r > 16 || (r = 16 && q % 2 ≠ 0) then q + 1 else q

/-- An L16 code as an L8 code under block scale B (R171). -/
def l16ToL8 (b : Int) (c : Nat) : Conv :=
  if c = 0x8000 then { code := 0x80 }
  else if c = 0 then { code := 0 }
  else if c % 2 ^ 15 = 0x7FFF then { code := if bit c 15 then 0xFF else 0x7F, sat := 1 }
  else limitCode 7 127 (bit c 15) (div32 ((c % 2 ^ 15 : Nat) - 16384 - 256 * b) + 64)

/-! ## Log to linear -/

/-- The number an L16 code stands for through T16 (R173). -/
def ofL16 (c : Nat) : Num :=
  if c = 0x8000 then .nan
  else if c = 0 then .fin false 0 0
  else if c % 2 ^ 15 = 0x7FFF then .inf (bit c 15)
  else expOf (bit c 15) ((c % 2 ^ 15 : Nat) - 16384)

/-- The number an L8 code stands for through T16 (R173). -/
def ofL8 (b : Int) (c : Nat) : Num :=
  if c = 0x80 then .nan
  else if c % 128 = 0 then .fin false 0 0
  else expOf (bit c 7) (32 * ((c % 128 : Nat) - 64 : Int) + 256 * b)

/-- The value formats (R152). -/
inductive Fmt where
  | fp32 | bf16 | l16 | l8
  deriving DecidableEq, Repr

/-- Bytes of an element. -/
def Fmt.size : Fmt → Nat
  | .fp32 => 4
  | .bf16 | .l16 => 2
  | .l8 => 1

/-- The number a code of a format stands for; `b` is an L8 element's block scale. -/
def Fmt.decode (f : Fmt) (b : Int) (c : Nat) : Num :=
  match f with
  | .fp32 => ofF32 c
  | .bf16 => ofBf16 c
  | .l16 => ofL16 c
  | .l8 => ofL8 b c

/-- A number as a code of a format; `b` is the block scale of an L8 result. -/
def Fmt.encode (f : Fmt) (b : Int) (x : Num) : Conv :=
  match f with
  | .fp32 => { code := x.f32 }
  | .bf16 => { code := x.bf16 }
  | .l16 => toL16 x
  | .l8 => toL8 b x

/-! ## Dot products -/

/-- An L8 accumulator (R161, R163): the 80-bit sum, and the NaN and saturated flags. -/
structure Acc80 where
  a : Int := 0
  nan : Bool := false
  sat : Bool := false
  deriving DecidableEq, Repr

/-- Adds a term: the sum stays at the bound of the side it leaves (R163). -/
def Acc80.push (acc : Acc80) (x : Int) : Acc80 :=
  if acc.sat then acc
  else
    let v := acc.a + x
    if v > 2 ^ 79 - 1 then { acc with a := 2 ^ 79 - 1, sat := true }
    else if v < -(2 ^ 79) then { acc with a := -(2 ^ 79), sat := true }
    else { acc with a := v }

/-- Adds one L8 product under window exponent `w`; `s` is the sum of the two block scales (R160, R161). -/
def l8Mac (acc : Acc80) (a b : Nat) (s w : Int) : Acc80 :=
  if a = 0x80 || b = 0x80 then { acc with nan := true }
  else if a % 128 = 0 || b % 128 = 0 then acc
  else
    let d : Int := (a % 128 : Nat) + (b % 128 : Nat) - 128
    let sh := d / 8 + 32 + s - w
    let m := t8 (d % 8).toNat
    let mag : Nat := if sh ≥ 0 then m * 2 ^ sh.toNat else m / 2 ^ (-sh).toNat
    acc.push (if bit a 7 != bit b 7 then -(mag : Int) else mag)

/-- The number an L8 accumulator drains to, before it is rounded to FP32 (R164). -/
def Acc80.drain (acc : Acc80) (w : Int) : Num :=
  if acc.nan then .nan
  else if acc.sat then .inf (acc.a < 0)
  else ofInt acc.a (w - 47)

/-- The product of two L16 codes (R160, R166). -/
def l16Product (a b : Nat) : Num :=
  let s := bit a 15 != bit b 15
  if a = 0x8000 || b = 0x8000 then .nan
  else
    let ia := a % 2 ^ 15 == 0x7FFF
    let ib := b % 2 ^ 15 == 0x7FFF
    if ia || ib then (if a = 0 || b = 0 then .nan else .inf s)
    else if a = 0 || b = 0 then .fin false 0 0
    else expOf s ((a % 2 ^ 15 : Nat) + (b % 2 ^ 15 : Nat) - 32768)

/-- An L16 dot product: groups of eight added exactly to the FP32 accumulator and rounded once each (R165). -/
def l16Dot : Nat → Nat → List (Nat × Nat) → Nat
  | 0, acc, _ => acc
  | fuel + 1, acc, ps =>
    match ps with
    | [] => acc
    | _ => l16Dot fuel ((ps.take 8).foldl (fun x p => x.add (l16Product p.1 p.2)) (ofF32 acc)).f32 (ps.drop 8)

/-! ## Native functions -/

/-- exp2 of an FP32 code (R174, R175). -/
def fnExp2 (b : Nat) : Nat :=
  match ofF32 b with
  | .nan => 0x7FC00000
  | .inf s => if s then 0 else 0x7F800000
  | .fin s m e =>
    let n : Nat := if e + m.log2 ≥ 8 then 65536 else rneInt m (e + 8)
    let r := sgn s (min n 65536)
    if r / 256 > 127 then 0x7F800000 else (expOf false r).f32

/-- log2 of an FP32 code (R174, R175). -/
def fnLog2 (b : Nat) : Nat :=
  match ofF32 b with
  | .nan => 0x7FC00000
  | .inf s => if s then 0x7FC00000 else 0x7F800000
  | .fin s m e =>
    if m = 0 then 0xFF800000
    else if s then 0x7FC00000
    else (ofInt (nearestLog 256 m e) (-8)).f32

/-- The reciprocal of an FP32 code (R174, R175). -/
def fnRecip (b : Nat) : Nat :=
  match ofF32 b with
  | .nan => 0x7FC00000
  | .inf s => if s then 0x80000000 else 0
  | .fin s m e =>
    if m = 0 then (Num.inf s).f32
    else
      let r := -(nearestLog 256 m e)
      if r / 256 > 127 then (Num.inf s).f32 else (expOf s r).f32

/-- The reciprocal square root of an FP32 code (R174, R175). -/
def fnRsqrt (b : Nat) : Nat :=
  match ofF32 b with
  | .nan => 0x7FC00000
  | .inf s => if s then 0x7FC00000 else 0
  | .fin s m e =>
    if m = 0 then (Num.inf s).f32
    else if s then 0x7FC00000
    else
      let r := nearestLog 256 m e
      let h := sgn (r < 0) (rne r.natAbs 1)
      (expOf false (-h)).f32

/-! ## B8 -/

/-- How a B8 element came out (R181). -/
inductive B8Kind where
  | ok | sat | nan
  deriving DecidableEq, Repr

/-- A number as a B8 element of a block with exponent E (R181). -/
def toB8 (e : Int) : Num → Nat × B8Kind
  | .nan => (0x80, .nan)
  | .inf _ => (0x80, .sat)
  | .fin s m x =>
    let k := x + 6 - e
    let n := if m ≠ 0 && k + m.log2 ≥ 8 then 128 else rneInt m k
    if n ≥ 128 then (0x80, .sat) else (ofSigned 8 (sgn s n), .ok)

/-! ## Histograms -/

/-- The histogram index of a power: bins -32 to 31 at 0 to 63 (R183). -/
def binOf (b : Int) : Nat := (max (-32) (min 31 b) + 32).toNat

/-- The histogram index of an element (R183); 64 the zero bin, 65 the NaN bin. -/
def histIndex (f : Fmt) (b : Int) (c : Nat) : Nat :=
  match f with
  | .l8 =>
    if c = 0x80 then 65 else if c % 128 = 0 then 64 else binOf (((c % 128 : Nat) - 64 : Int) / 8 + b)
  | .l16 =>
    if c = 0x8000 then 65 else if c = 0 then 64
    else if c % 2 ^ 15 = 0x7FFF then 63
    else binOf (((c % 2 ^ 15 : Nat) - 16384 : Int) / 256)
  | _ =>
    match f.decode 0 c with
    | .nan => 65
    | .inf _ => 63
    | .fin s m e => match (Num.fin s m e).flog2 with
      | none => 64
      | some x => binOf x

/-- The key of a histogram. -/
def histKey (die g stream : Nat) : Nat := 4096 * die + 256 * g + stream

/-- Adds one element to a histogram (R183 to R185): the first bin to reach its limit sets the overflow flag and writes
one STAT_OVERFLOW record, whose detail is the histogram's entry on its die, since it has no register offset. -/
def State.histAdd (s : State) (src : Src) (die g stream ix : Nat) : State :=
  let h := tgetD s.num.hists (histKey die g stream) {}
  let n := min (2 ^ 32 - 1) (tgetD h.bins ix 0 + 1)
  let full := n == 2 ^ 32 - 1
  let h' : Hist := { bins := tset h.bins ix n, overflow := h.overflow || full }
  let s := { s with num := { s.num with hists := tset s.num.hists (histKey die g stream) h' } }
  if full && !h.overflow then s.record src .corrected die 0xF0 (some g) (256 * g + stream) else s

/-- Clears a grove's histograms on both dies (R186). -/
def State.clearHists (s : State) (g : Nat) : State :=
  { s with num := { s.num with hists := s.num.hists.filter fun p => p.1 / 256 % 16 != g } }

/-- The exponent of a scale slot for the next step (R187). -/
def nextScale (bins : Tbl Nat) (current : Int) (headroom : Nat) : Int :=
  match (List.range 64).reverse.find? fun b => tgetD bins b 0 != 0 with
  | some b => max (-128) (min 127 ((b : Int) - 32 + headroom))
  | none => current

end Sys2Proof.Machine
end

