-- ==== Sys2Proof/Machine/Adders.lean ====
section
/-! DEFINITION. The near-memory adders (R398 to R401). -/
namespace Sys2Proof.Machine

/-- A signed 32-bit sum that stays at its bounds, and whether it left them. -/
def satI32 (t x : Nat) : Nat × Bool :=
  let v := toSigned 32 t + toSigned 32 x
  if v > 2 ^ 31 - 1 then (2 ^ 31 - 1, true) else if v < -(2 ^ 31) then (2 ^ 31, true) else (ofSigned 32 v, false)

/-- One addition of an operation on 32-bit words, and whether it left the target's range (R398). -/
def accElem (op : AccOp) (t x : Nat) : Nat × Bool :=
  match op with
  | .f32 => (f32Add t x, false)
  | .i32 | .b8 => satI32 t x
  | .u32 => if t + x > 2 ^ 32 - 1 then (2 ^ 32 - 1, true) else (t + x, false)

/-- The word at byte `o` of a line replaced. -/
def putWord (line : List Byte) (o v : Nat) : List Byte := line.take o ++ toLe 4 v ++ line.drop (o + 4)

/-- The additions to a line: pairs of a byte position and an addend. -/
def accLineBytes (op : AccOp) (adds : List (Nat × Nat)) (line : List Byte) : List Byte :=
  adds.foldl (fun l a => putWord l a.1 (accElem op (leAt l a.1 4) a.2).1) line

/-- The positions whose sum passes the target's bound (R400). Assumption: 59 (DESIGN CHOICE). -/
def accSats (op : AccOp) (adds : List (Nat × Nat)) (line : List Byte) : List Nat :=
  (adds.filter fun a => (accElem op (leAt line a.1 4) a.2).2).map (·.1)

/-- The additions to a line that take place: an integer addition leaves a saturated target at its bound (R400).
Assumption: 59 (DESIGN CHOICE). -/
def State.liveAdds (s : State) (c line : Nat) (op : AccOp) (adds : List (Nat × Nat)) : List (Nat × Nat) :=
  if op = .f32 then adds else adds.filter fun a => !s.mem.saturated.contains (wordNo c line a.1)

/-- A target saturates: it is marked, counted and recorded with its local offset (R400).
Assumption: 59 (DESIGN CHOICE). -/
def State.saturate (s : State) (c line lineOff o : Nat) : State :=
  let s := { s with mem := { s.mem with saturated := sinsert s.mem.saturated (wordNo c line o) } }
  (s.bump .MEM_ACC_SAT (chIx c)).record .mem .contained (dieOfChannel c) 0x03 (s.channelOwner c)
    ((lineOff + o) % 2 ^ 41)

/-- Adds to one line of a channel: byte positions and addends. The flag says the line could be read (R396, R400). An
FP32 sum replaces what a saturated target held. Assumption: 59 (DESIGN CHOICE). -/
def State.accAdd (s : State) (c line lineOff : Nat) (op : AccOp) (adds : List (Nat × Nat)) : State × Bool :=
  let s := s.settleWcb c line
  let adds := s.liveAdds c line op adds
  let sats := accSats op adds (match (s.channel c).adders.find? (·.1 == line) with
    | some a => a.2
    | none => s.mergeBase c line)
  let r := s.accLine c line (accLineBytes op adds)
  if r.2 then
    if op = .f32 then (r.1.unsaturate fun w => adds.any fun a => wordNo c line a.1 == w, true)
    else (r.1.each sats fun s o => s.saturate c line lineOff o, true)
  else r

/-- The additions of an operation at a local offset, by their line: 16 words under a mask; for ACC_B8 four lines of
which code 0x80 adds nothing; one word for ACC_U32. -/
def accLines (op : AccOp) (off mask : Nat) (values : List Nat) : List (Nat × List (Nat × Nat)) :=
  match op with
  | .f32 | .i32 => [(off, (values.zipIdx.filter fun x => mask.testBit x.2).map fun x => (4 * x.2, x.1))]
  | .u32 => [(off / 64 * 64, (values.take 1).map fun x => (off % 64, x))]
  | .b8 => (List.range 4).map fun l =>
      (off + 64 * l, ((((values.drop (16 * l)).take 16).zipIdx.filter fun x => x.1 != 0x80).map fun x =>
        (4 * x.2, ofSigned 32 (toSigned 8 x.1))))

/-- Performs an adder operation of a party at a local offset. An unoccupied offset writes MEM_UNMAPPED; a line that
cannot be read discards the addition, with its MEM_UE record. The answer is the first failure. -/
def State.accumulateBy (s : State) (p : Party) (op : AccOp) (off mask : Nat) (values : List Nat) : State × Acc :=
  (accLines op off mask values).foldl (fun (q : State × Acc) l =>
    match q.1.placeFor p l.1 with
    | (.ok, c, b) =>
      let r := (q.1.touch l.1).accAdd c (b / 64) l.1 op l.2
      if r.2 then (r.1, q.2) else (r.1.ueRecord .contained c (b / 64), if q.2 == .ok then .ue else q.2)
    | (.unmapped, _, _) => (q.1.unmappedRecord p l.1, if q.2 == .ok then .unmapped else q.2)
    | (a, _, _) => (q.1, if q.2 == .ok then a else q.2)) (s, .ok)

/-- An adder operation of a grove. -/
def State.accumulate (s : State) (g : Nat) (op : AccOp) (off mask : Nat) (values : List Nat) : State × Acc :=
  s.accumulateBy (.grove g) op off mask values

/-- An adder operation at a grove-virtual address. -/
def State.accumulateVa (s : State) (g : Nat) (op : AccOp) (va mask : Nat) (values : List Nat) : State × Acc :=
  match s.translate g va with
  | none => (s, .page)
  | some o => s.accumulate g op o mask values

end Sys2Proof.Machine
end

