-- ==== Sys2Proof/Machine/Sampler.lean ====
section
/-! DEFINITION. Neighbourhood sampling (ch. 6): bark structures, cordwood streams, edge selection, the twig log,
programmes and lanes, and the memory-pool service's two sampler requests. -/
namespace Sys2Proof.Machine

/-! ## Cordwood streams -/

/-- Rotates 32 bits left. -/
def rotl32 (v n : Nat) : Nat := (v * 2 ^ n % 2 ^ 32) + v / 2 ^ (32 - n)

/-- One round of the generator (R204, R205): key words, round number, four state words. -/
def cordRound (k : List Nat) (r : Nat) : Nat × Nat × Nat × Nat → Nat × Nat × Nat × Nat
  | (x0, x1, x2, x3) =>
    let kw := fun i => k.getD (i % 4) 0
    let rc := 0x9E3779B9 * (r + 1) % 2 ^ 32
    let x0 := (x0 + (kw r ^^^ rc)) % 2 ^ 32
    let x1 := x1 ^^^ kw (r + 1)
    let x2 := (x2 + kw (r + 2)) % 2 ^ 32
    let x3 := x3 ^^^ kw (r + 3)
    let x0 := (x0 + x1) % 2 ^ 32
    let x3 := rotl32 (x3 ^^^ x0) 16
    let x2 := (x2 + x3) % 2 ^ 32
    let x1 := rotl32 (x1 ^^^ x2) 12
    let x0 := (x0 + x1) % 2 ^ 32
    let x3 := rotl32 (x3 ^^^ x0) 8
    let x2 := (x2 + x3) % 2 ^ 32
    let x1 := rotl32 (x1 ^^^ x2) 7
    (x0, x1, x2, x3)

/-- The words of a 128-bit number. -/
def words4 (v : Nat) : List Nat := (List.range 4).map fun i => fld v (32 * i) 32

/-- The generator's four output words (R204). -/
def cordwood (key counter : Nat) : List Nat :=
  let k := words4 key
  let c := words4 counter
  let x := (List.range 10).foldl (fun x r => cordRound k r x) (c.getD 0 0, c.getD 1 0, c.getD 2 0, c.getD 3 0)
  [(x.1 + k.getD 0 0) % 2 ^ 32, (x.2.1 + k.getD 1 0) % 2 ^ 32, (x.2.2.1 + k.getD 2 0) % 2 ^ 32,
    (x.2.2.2 + k.getD 3 0) % 2 ^ 32]

/-- Draw j of the parent in slot `slot` of seed ordinal i: 64 bits (R202, R206). -/
def drawU (key base i slot j : Nat) : Nat :=
  let w := cordwood key ((base + i * 2 ^ 48 + slot * 2 ^ 24 + j) % 2 ^ 128)
  w.getD 1 0 * 2 ^ 32 + w.getD 0 0

/-- The upper 64 bits of a 128-bit product. -/
def mulhi64 (a b : Nat) : Nat := a * b / 2 ^ 64

/-! ## Bark structures -/

/-- How a read of bark data ends: a value, a fault code of R216, or the memory's refusal. -/
inductive Bark (α : Type) where
  | ok (a : α)
  | fault (code : Nat)
  | mem (a : Acc)

/-- A vertex's list: its edge format, first edge, and edge records as numbers. -/
structure BarkList where
  full : Bool
  first : Nat
  base : Nat
  edges : List Nat
  deriving DecidableEq, Repr

/-- Bytes of an edge. -/
def BarkList.size (l : BarkList) : Nat := if l.full then 16 else 8

/-- Type, timestamp and inclusive weight sum of the edge at position i (R193). -/
def BarkList.info (l : BarkList) (i : Nat) : Nat × Nat × Nat :=
  let e := l.edges.getD i 0
  if l.full then (fld e 48 6, fld e 64 32, fld e 96 32) else (fld e 48 6, 0, i + 1)

/-- The weight of the edge at position i (R193). -/
def BarkList.weight (l : BarkList) (i : Nat) : Nat :=
  (l.info i).2.2 - (if i = 0 then 0 else (l.info (i - 1)).2.2)

/-- Types, timestamps and weight sums rise as R194 requires. -/
def BarkList.ordered (l : BarkList) : Bool :=
  (List.range (l.edges.length - 1)).all fun i =>
    let a := l.info i
    let b := l.info (i + 1)
    (a.1 < b.1 || (a.1 == b.1 && a.2.1 ≤ b.2.1)) && a.2.2 ≤ b.2.2

/-- Reads a shard header and a vertex's index entry and list (R190 to R195). The records a search reads are not fixed;
the edges picked are read again, with their check, by `readEdges`. -/
def State.readList (s : State) (g shard local_ : Nat) : State × Bark BarkList :=
  if shard % 64 ≠ 0 then (s, .fault 0x0C)
  else
    match s.readLocal (.grove g) shard 64 with
    | (s, .ok, h) =>
      let fmt := leAt h 4 1
      let vc := leAt h 8 8
      let ix := leAt h 0x10 8
      let eb := leAt h 0x18 8
      let ec := leAt h 0x20 8
      if leAt h 0 4 ≠ 0x324B5242 || fmt > 1 || !zeroAt h 5 3 || vc ≥ 2 ^ 41 || ix ≥ 2 ^ 41 || eb ≥ 2 ^ 41 || ec ≥ 2 ^ 40 ||
          !zeroAt h 0x28 24 || ix % 16 ≠ 0 || eb % (if fmt = 1 then 16 else 8) ≠ 0 then (s, .fault 0x0C)
      else if local_ ≥ vc then (s, .fault 0x06)
      else
        match s.readLocal (.grove g) (ix + 16 * local_) 16 with
        | (s, .ok, e) =>
          let first := leAt e 0 8
          let deg := leAt e 8 4
          let sz := if fmt = 1 then 16 else 8
          if first ≥ 2 ^ 40 || leAt e 12 4 ≠ 0 then (s, .fault 0x0C)
          else if first + deg > ec then (s, .fault 0x08)
          else
            (s, .ok { full := fmt == 1, first := first, base := eb + first * sz,
                      edges := (List.range deg).map fun i => le (s.peek (eb + (first + i) * sz) sz) })
        | (s, a, _) => (s, .mem a)
    | (s, a, _) => (s, .mem a)

/-- Reads and checks the edge records at positions of a list. -/
def State.readEdges (s : State) (g : Nat) (l : BarkList) : List Nat → State × Bark (List (Nat × Nat))
  | [] => (s, .ok [])
  | p :: ps =>
    match s.readLocal (.grove g) (l.base + p * l.size) l.size with
    | (s, .ok, b) =>
      if fld (le b) 54 10 ≠ 0 then (s, .fault 0x0C)
      else
        match s.readEdges g l ps with
        | (s, .ok r) => (s, .ok ((p, le b) :: r))
        | r => r
    | (s, a, _) => (s, .mem a)

/-! ## Admitted lists and selection -/

/-- Ascending positions as ranges of consecutive ones, first and last. -/
def runs : List Nat → List (Nat × Nat)
  | [] => []
  | p :: t =>
    match runs t with
    | (a, b) :: r => if a = p + 1 then (p, b) :: r else (p, p) :: (a, b) :: r
    | [] => [(p, p)]

/-- The type ranges a hop's admitted types form (R201): with no window one for each maximal run of consecutive types,
with a window one for each type. Bounds that let every timestamp in are taken as no window. Assumption: 47 (DEDUCED). -/
def typeGroups (types lo hi : Nat) : List (Nat × Nat) :=
  let ts := (List.range 64).filter types.testBit
  if lo = 0 && hi = 2 ^ 32 - 1 then runs ts else ts.map fun t => (t, t)

/-- The admitted ranges of a list (R201); for a list out of order they are free (R194).
Assumptions: 46 (DESIGN CHOICE), 47 (DEDUCED). -/
def BarkList.ranges (l : BarkList) (types lo hi : Nat) : List (Nat × Nat) :=
  if l.ordered then
    (typeGroups types lo hi).filterMap fun g =>
      let ps := (List.range l.edges.length).filter fun i =>
        let e := l.info i
        g.1 ≤ e.1 && e.1 ≤ g.2 && lo ≤ e.2.1 && e.2.1 ≤ hi
      ps.head?.bind fun a => ps.getLast?.map fun b => (a, b)
  else (Config.disorderRanges l.edges types lo hi).filter fun r => r.1 ≤ r.2 && r.2 < l.edges.length

/-- A list out of order may raise SMP_BARK_ORDER (R194). Assumption: 46 (DESIGN CHOICE). -/
def BarkList.raises (l : BarkList) : Bool := !l.ordered && Config.disorderRaise l.edges

/-- Edges in ranges. -/
def rangeCount (rs : List (Nat × Nat)) : Nat := (rs.map fun r => r.2 + 1 - r.1).sum

/-- The edge position of the x-th admitted edge (R202). -/
def pickPos : List (Nat × Nat) → Nat → Option Nat
  | [], _ => none
  | (a, b) :: r, x => if x < b + 1 - a then some (a + x) else pickPos r (x - (b + 1 - a))

/-- Every admitted edge position. -/
def rangePositions (rs : List (Nat × Nat)) : List Nat := rs.flatMap fun r => (List.range (r.2 + 1 - r.1)).map (r.1 + ·)

/-- The first of the positions whose running weight exceeds t (R202). -/
def pickW (w : Nat → Nat) : List Nat → Nat → Option Nat
  | [], _ => none
  | p :: ps, t => if t < w p then some p else pickW w ps (t - w p)

/-- Floyd's method (R202): f of n positions, in draw order. -/
def floyd (u : Nat → Nat) (n f : Nat) : List Nat :=
  (List.range f).foldl (fun chosen i =>
    let m := n - f + i
    let t := mulhi64 (u i) (m + 1)
    chosen ++ [if chosen.contains t then m else t]) []

/-- The targets of a parent that are known from the start: list positions, or weight targets; none where mode 3
attempts draws (R202). `weights` are the admitted edges' weights, needed in mode 3 with n at most f. -/
def plan (mode f n w : Nat) (weights : List Nat) (u : Nat → Nat) : Option (List Nat) :=
  if mode = 0 then some (if n = 0 then [] else (List.range f).map fun j => mulhi64 (u j) n)
  else if mode = 1 then some (if n ≤ f then List.range n else floyd u n f)
  else if mode = 2 then some (if w = 0 then [] else (List.range f).map fun j => mulhi64 (u j) w)
  else if n ≤ f then some ((List.range n).filter fun x => weights.getD x 0 > 0)
  else if w = 0 then some []
  else none

/-- The plan's targets are weights. -/
def planWeighted (mode n f : Nat) : Bool := mode == 2 || (mode == 3 && n > f)

/-- Mode 3's attempts on a list at hand: the positions accepted and the attempts rejected (R202). -/
def attempts (pick : Nat → Option Nat) (u : Nat → Nat) (w f : Nat) : Nat → Nat → List Nat → List Nat × Nat
  | 0, _, got => (got, 0)
  | fuel + 1, a, got =>
    if got.length = f then (got, 0)
    else
      match pick (mulhi64 (u a) w) with
      | none => (got, 0)
      | some p =>
        if got.contains p then
          (let r := attempts pick u w f fuel (a + 1) got
           (r.1, r.2 + 1))
        else attempts pick u w f fuel (a + 1) (got ++ [p])

/-- The edge positions a parent's children take, and the attempts rejected (R202). -/
def selectEdges (l : BarkList) (h : Hop) (lo hi : Nat) (u : Nat → Nat) : List Nat × Nat :=
  let rs := l.ranges h.types lo hi
  let ps := rangePositions rs
  let n := rangeCount rs
  let ws := ps.map l.weight
  let w := ws.sum
  match plan h.mode h.fanout n w ws u with
  | some ts => (if planWeighted h.mode n h.fanout then ts.filterMap (pickW l.weight ps) else ts.filterMap (pickPos rs), 0)
  | none => attempts (pickW l.weight ps) u w h.fanout (8 * h.fanout) 0 []

/-! ## Programmes -/

/-- A programme slot by 32 * die + slot. -/
def State.prog (s : State) (k : Nat) : Prog := tgetD s.smp.progs k {}

/-- The state with a programme slot changed. -/
def State.modProg (s : State) (k : Nat) (f : Prog → Prog) : State :=
  { s with smp := { s.smp with progs := tmod s.smp.progs k {} f } }

/-- The first slot of each hop, from hop 0, and the slot count S (R199). -/
def hopStarts (fs : List Nat) : List Nat × Nat :=
  let r := fs.foldl (fun (x : List Nat × Nat × Nat) f => (x.1 ++ [x.2.1], x.2.1 + x.2.2 * f, x.2.2 * f)) ([0], 1, 1)
  (r.1, r.2.1)

/-- Start slot of hop h. -/
def ProgDesc.start (d : ProgDesc) (h : Nat) : Nat := (hopStarts (d.hops.map (·.fanout))).1.getD h 0

/-- The first child slot of the parent in `slot` at hop h (R199). -/
def ProgDesc.childBase (d : ProgDesc) (slot h : Nat) : Nat :=
  d.start (h + 1) + (slot - d.start h) * ((d.hops[h]?).map (·.fanout)).getD 0

/-- A slot at hop h and all below it. -/
def ProgDesc.subtree (d : ProgDesc) : Nat → Nat → Nat → List Nat
  | 0, slot, _ => [slot]
  | fuel + 1, slot, h =>
    match d.hops[h]? with
    | none => [slot]
    | some x => slot :: (List.range x.fanout).flatMap fun j => d.subtree fuel (d.childBase slot h + j) (h + 1)

/-- Reads a programme descriptor; none where a check of R197 to R199 fails (R214). -/
def parseProg (b : List Byte) : Option ProgDesc :=
  let n := leAt b 0 1
  let hop := fun i =>
    let o := 0x40 + 32 * i
    let x : Hop := { fanout := leAt b o 2, mode := leAt b (o + 2) 1, window := leAt b (o + 3) 1, types := leAt b (o + 8) 8,
                     wa := leAt b (o + 0x10) 4, wb := leAt b (o + 0x14) 4 }
    let ok := 1 ≤ x.fanout && x.fanout ≤ 1024 && x.mode ≤ 3 && x.window ≤ 2 && zeroAt b (o + 4) 4 && x.types != 0 &&
      zeroAt b (o + 0x18) 8 && (x.window != 0 || (x.wa == 0 && x.wb == 0)) && (x.window != 1 || x.wa ≤ x.wb)
    (ok, x)
  let hs := (List.range (min n 6)).map hop
  let sig := parseEntry (leAt b 0x38 8)
  let d : ProgDesc :=
    { grove := leAt b 1 1 % 16, stream := leAt b 2 2 % 2 ^ 12, lanes := leAt b 4 4, seedList := leAt b 8 6,
      seedLength := leAt b 0x10 5, seedCount := leAt b 0x18 4, seedOffset := leAt b 0x1C 4, graph := leAt b 0x20 6,
      twigLog := leAt b 0x28 6, slots := leAt b 0x30 4, groupSize := leAt b 0x34 2,
      knot := (sig.2.getD (0, 0)).1, amount := (sig.2.getD (0, 0)).2, hops := hs.map (·.2) }
  let s := (hopStarts (d.hops.map (·.fanout))).2
  let ok := 1 ≤ n && n ≤ 6 && hs.all (·.1) && leAt b 1 1 < 16 && leAt b 2 2 < 2 ^ 12 && d.lanes != 0 &&
    leAt b 8 8 < 2 ^ 48 && d.seedList % 16 == 0 && leAt b 0x10 8 < 2 ^ 40 && d.seedLength != 0 && 1 ≤ d.seedCount &&
    d.seedCount ≤ 2 ^ 20 && leAt b 0x20 8 < 2 ^ 48 && leAt b 0x28 8 < 2 ^ 48 && d.twigLog % 64 == 0 && d.slots == s &&
    s ≤ 2 ^ 24 && 1 ≤ d.groupSize && d.groupSize ≤ 4096 && zeroAt b 0x36 2 && sig.1 && sig.2.isSome && d.amount != 0
  if ok then some d else none

/-- The sampler's record (R216, R219): programme slot, seed ordinal, twig-log slot, and the answer's code for
SMP_POOL_REFUSED. -/
def State.smpRecord (s : State) (k code g seed slot hop answer : Nat) : State :=
  let s := s.putReg .SMP_FAULT_LAST [k / 32] (BitVec.ofNat 64
    (code * 2 ^ 56 + g * 2 ^ 52 + k % 32 * 2 ^ 47 + hop * 2 ^ 44 + seed % 2 ^ 20 * 2 ^ 24 + slot % 2 ^ 24))
  s.record .smp .contained (k / 32) code (some g) (k % 32 + seed % 2 ^ 20 * 2 ^ 5 + slot % 2 ^ 24 * 2 ^ 25 + answer * 2 ^ 49)

/-! ## Lanes -/

/-- The state with a lane changed. -/
def State.modLane (s : State) (l : Nat) (f : LaneSeed → LaneSeed) : State :=
  { s with smp := { s.smp with lanes := tmap s.smp.lanes fun i x => if i = l then f x else x } }

/-- Frees the lanes that `p` names; their outstanding reads are discarded. -/
def State.dropLanes (s : State) (p : Nat → LaneSeed → Bool) : State :=
  { s with smp := { s.smp with lanes := s.smp.lanes.filter fun x => !p x.1 x.2 } }

/-- A running programme faults (R215): no seed is dealt and no group signalled any more. -/
def State.smpFault (s : State) (k code seed slot hop : Nat) (answer : Nat := 0) : State :=
  let s := s.smpRecord k code (s.prog k).grove seed slot hop answer
  (s.modProg k fun p => { p with st := .faulted }).dropLanes fun _ x => x.prog == k

/-- The code a failed read of bark data gives, and the answer's code (R216): MEM_UE, MEM_UNMAPPED. -/
def accCode : Acc → Nat × Nat
  | .ue => (0x0D, 0x01)
  | .stale => (0x0B, 0)
  | _ => (0x0D, 0x02)

/-- A lane's fault at a twig-log slot. -/
def State.laneFault (s : State) (x : LaneSeed) (slot : Nat) (code : Nat) (answer : Nat := 0) : State :=
  s.smpFault x.prog code x.seed slot ((tget x.twigs slot).map (·.hop) |>.getD 0) answer

/-- A 16-byte twig-log record (R210). -/
def twigBytes (t : Twig) (short : Bool) : List Byte :=
  toLe 8 (t.vertex + t.type * 2 ^ 48 + t.hop * 2 ^ 54 + 2 ^ 57 + b2n t.remote * 2 ^ 58 + b2n short * 2 ^ 59) ++
    toLe 8 (t.pos + t.parent * 2 ^ 32)

/-- Writes the record of a slot of a seed; false where the memory refuses it. -/
def State.writeTwig (s : State) (d : ProgDesc) (seed slot : Nat) (b : List Byte) : State × Acc :=
  s.writeVa d.grove (d.twigLog + 16 * (seed * d.slots + slot)) b

/-- Writes several records, stopping at the first refusal. Assumption: 48 (DESIGN CHOICE). -/
def State.writeTwigs (s : State) (d : ProgDesc) (seed : Nat) : List (Nat × List Byte) → State × Acc
  | [] => (s, .ok)
  | (slot, b) :: r =>
    match s.writeTwig d seed slot b with
    | (s, .ok) => s.writeTwigs d seed r
    | x => x

/-- Where a vertex's adjacency lies: the device and the shard's local offset, with the local index (R189, R190). -/
def State.resolve (s : State) (d : ProgDesc) (v : Nat) : State × Bark (Nat × Nat × Nat) :=
  match s.readVa d.grove d.graph 64 with
  | (s, .ok, b) =>
    let p := leAt b 0 1
    let n := leAt b 4 4
    let table := leAt b 8 8
    if p < 16 || p > 40 || n = 0 || n > 65536 || !zeroAt b 1 3 || table ≥ 2 ^ 48 || table % 8 ≠ 0 || !zeroAt b 0x10 48 then
      (s, .fault 0x0C)
    else if v / 2 ^ p ≥ n then (s, .fault 0x06)
    else
      match s.readVa d.grove (table + 8 * (v / 2 ^ p)) 8 with
      | (s, .ok, e) =>
        let a := le e
        if a ≥ 2 ^ 56 then (s, .fault 0x0C)
        else if !(s.grove d.grove).members.testBit (a / 2 ^ 41) then (s, .fault 0x07)
        else (s, .ok (a / 2 ^ 41, a % 2 ^ 41, v % 2 ^ p))
      | (s, a, _) => (s, .mem a)
  | (s, a, _) => (s, .mem a)

/-- The timestamp bounds of a hop for a seed time (R201). Assumption: 47 (DEDUCED). -/
def Hop.bounds (h : Hop) (time : Nat) : Nat × Nat :=
  if h.window = 0 then (0, 2 ^ 32 - 1)
  else if h.window = 1 then (h.wa, h.wb)
  else (time - h.wa, min (2 ^ 32 - 1) (time + h.wb))

/-- The descriptor a lane's seed runs under, with the programme's slot. -/
def State.laneDesc (s : State) (x : LaneSeed) : Option ProgDesc := (s.prog x.prog).desc

/-- Sends a lane's remote request, counted (R208, R218). The mode and the request number follow the listed fields. -/
def State.sendAdj (s : State) (die g device opcode : Nat) (payload : List Byte) : State :=
  (s.bump .SMP_REMOTE_REQ [die]).sendMsg die false device opcode g payload

/-- The payload of an ADJ_RANGE. Assumption: 47 (DEDUCED). -/
def rangePayload (v shard types lo hi mode request : Nat) : List Byte :=
  mfield 6 v ++ mfield 8 shard ++ mfield 8 types ++ mfield 4 lo ++ mfield 4 hi ++ mfield 1 mode ++ mfield 4 request

/-- Issues the read of one parent's adjacency: local, or by ADJ_RANGE (R208). -/
def State.issueParent (s : State) (lane slot : Nat) : State :=
  match tget s.smp.lanes lane with
  | none => s
  | some x =>
    match s.laneDesc x, tget x.twigs slot with
    | some d, some t =>
      let die := lane / 16
      (match s.resolve d t.vertex with
       | (s, .fault c) => s.laneFault x slot c
       | (s, .mem a) => s.laneFault x slot (accCode a).1 (accCode a).2
       | (s, .ok (dev, shard, ix)) =>
         if dev = s.devnum then
           let op : OpenParent := { remote := false, sent := true, shard := shard }
           s.modLane lane fun x => { x with parents := tset x.parents slot op }
         else
           let req := s.smp.nextRequest.getD die 0
           let s := { s with smp := { s.smp with nextRequest := s.smp.nextRequest.set die ((req + 1) % 2 ^ 32) } }
           let h := (d.hops[t.hop]?).getD ⟨0, 0, 0, 0, 0, 0⟩
           let b := h.bounds x.time
           let op : OpenParent := { remote := true, sent := true, request := req, device := dev, shard := shard }
           let s := s.modLane lane fun x => { x with parents := tset x.parents slot op }
           s.sendAdj die d.grove dev 0x10 (rangePayload ix (dev * 2 ^ 41 + shard) h.types b.1 b.2 h.mode req))
    | _, _ => s

/-- Issues waiting reads while fewer than 128 are outstanding (R209). -/
def State.pumpLane (s : State) (lane : Nat) : Nat → State
  | 0 => s
  | fuel + 1 =>
    match tget s.smp.lanes lane with
    | none => s
    | some x =>
      if (x.parents.filter fun p => p.2.sent).length ≥ 128 then s
      else
        match x.parents.find? fun p => !p.2.sent with
        | none => s
        | some p => (s.issueParent lane p.1).pumpLane lane fuel

/-- Signals each group whose seeds, and those of every earlier group, are done (R212). -/
def State.signalGroups (s : State) (k : Nat) (d : ProgDesc) : Nat → State
  | 0 => s
  | fuel + 1 =>
    let p := s.prog k
    let lo := p.groups * d.groupSize
    let hi := min d.seedCount (lo + d.groupSize)
    if lo < d.seedCount && (List.range (hi - lo)).all (fun i => p.done.contains (lo + i)) then
      ((s.modProg k fun p => { p with groups := p.groups + 1 }).engineSignal d.knot d.amount).signalGroups k d fuel
    else s

/-- A programme whose run has ended: DONE, or EMPTY where an unload waits (R215). -/
def State.endRun (s : State) (k : Nat) (d : ProgDesc) : State :=
  if (s.prog k).done.length = d.seedCount && (s.prog k).st == .running then
    if (s.prog k).unload then s.modProg k fun _ => {} else s.modProg k fun p => { p with st := .done }
  else s

/-- Starts a seed on a free lane (R200): its list entry is read, and its adjacency asked for. -/
def State.startSeed (s : State) (lane k : Nat) : State :=
  let p := s.prog k
  match p.desc with
  | none => s
  | some d =>
    let i := p.dealt
    let cursor := ((s.step_ d.grove).record.map (·.cursor)).getD 0
    let ix := (cursor + d.seedOffset + i) % 2 ^ 64 % d.seedLength
    let s := s.modProg k fun p => { p with dealt := i + 1 }
    match s.readVa d.grove (d.seedList + 16 * ix) 16 with
    | (s, .ok, b) =>
      let t : Twig := { vertex := leAt b 0 6, type := 0, hop := 0, remote := false, pos := 0, parent := 0 }
      let x : LaneSeed :=
        { prog := k, seed := i, time := leAt b 8 4, twigs := [(0, t)], parents := [(0, { remote := false, sent := false })] }
      let s := { s with smp := { s.smp with lanes := tset s.smp.lanes lane x } }
      s.pumpLane lane 1
    | (s, a, _) => s.smpFault k (accCode a).1 i 0 0 (accCode a).2

/-- The programme a free lane of a die takes its next seed from: the lowest slot with one to deal (R212). -/
def State.nextProg (s : State) (lane : Nat) : Option Nat :=
  (List.range 32).map (32 * (lane / 16) + ·) |>.find? fun k =>
    let p := s.prog k
    p.st == .running &&
      (match p.desc with
       | some d => d.lanes.testBit lane && p.dealt < d.seedCount
       | none => false)

/-- The lowest free lane of a die with a seed to take, and its programme. -/
def State.freeLane (s : State) (die : Nat) : Option (Nat × Nat) :=
  ((List.range 16).map (16 * die + ·)).findSome? fun lane =>
    if (tget s.smp.lanes lane).isSome then none else (s.nextProg lane).map fun k => (lane, k)

/-- Deals seeds while a lane is free; a fault at a start frees the lanes of its programme. -/
def State.dealWith (s : State) (die : Nat) : Nat → State
  | 0 => s
  | fuel + 1 =>
    match s.freeLane die with
    | none => s
    | some p => (s.startSeed p.1 p.2).dealWith die fuel

/-- Deals seeds to the free lanes of a die, lower lane first: at most 16 starts before a fault, and one fault for each of
its 32 programmes. -/
def State.dealSeeds (s : State) (die : Nat) : State := s.dealWith die 544

/-- A seed's records are all written: it is done, groups are signalled, and the lane takes the next (R211, R212). -/
def State.seedDone (s : State) (lane : Nat) (x : LaneSeed) (d : ProgDesc) : State :=
  let s := s.dropLanes fun l _ => l == lane
  let s := s.modProg x.prog fun p => { p with done := sinsert p.done x.seed }
  ((s.signalGroups x.prog d (d.seedCount + 1)).endRun x.prog d).dealSeeds (lane / 16)

/-- A parent has its children (R203, R210): its own record is written, the children of the last hop are written, the
others become parents, and the slots left over are written invalid. -/
def State.finishParent (s : State) (lane slot : Nat) (children : List (Nat × Nat)) (rejects : Nat) : State :=
  match tget s.smp.lanes lane with
  | none => s
  | some x =>
    match s.laneDesc x, tget x.twigs slot with
    | some d, some t =>
      let die := lane / 16
      let f := ((d.hops[t.hop]?).map (·.fanout)).getD 0
      let kids := children.take f
      let base := d.childBase slot t.hop
      let remote := ((tget x.parents slot).map (·.remote)).getD false
      let last := t.hop + 1 == d.hops.length
      let twigs := kids.zipIdx.map fun c =>
        (base + c.2, ({ vertex := c.1.2 % 2 ^ 48, type := fld c.1.2 48 6, hop := t.hop + 1, remote := remote, pos := c.1.1,
                        parent := slot } : Twig))
      let short := kids.length < f
      let own := (slot, twigBytes t short)
      let ended := if last then twigs.map fun c => (c.1, twigBytes c.2 false) else []
      let gone := ((List.range (f - kids.length)).flatMap fun j => d.subtree 6 (base + kids.length + j) (t.hop + 1)).map
        fun i => (i, List.replicate 16 (0 : Byte))
      let s := if kids.isEmpty then s else s.bump .SMP_EDGES [die] kids.length
      let s := if short then s.bump .SMP_SHORT [die] else s
      let s := if rejects = 0 then s else s.bump .SMP_REJECT [die] rejects
      (match s.writeTwigs d x.seed (own :: ended ++ gone) with
       | (s, .ok) =>
         let s := s.modLane lane fun x => { x with
           parents := (if last then [] else twigs).foldl
             (fun ps c => tset ps c.1 { remote := false, sent := false }) (terase x.parents slot)
           twigs := twigs.foldl (fun ts c => tset ts c.1 c.2) x.twigs }
         let s := s.pumpLane lane (f + 1)
         (match tget s.smp.lanes lane with
          | some y => if y.parents.isEmpty then s.seedDone lane y d else s
          | none => s.dealSeeds die)
       | (s, a) => (s.laneFault x slot (accCode a).1 (accCode a).2).dealSeeds die)
    | _, _ => s

/-- The draws of a parent (R202, R206). -/
def State.draws (s : State) (x : LaneSeed) (d : ProgDesc) (slot : Nat) : Nat → Nat :=
  drawU (tgetD s.smp.streams d.stream {}).key (s.prog x.prog).base x.seed slot

/-- A local read returns: the list is checked, children are selected and their records read (R194, R201, R202). -/
def State.adjReturn (s : State) (lane slot cycles : Nat) : State :=
  match tget s.smp.lanes lane with
  | none => s
  | some x =>
    match s.laneDesc x, tget x.twigs slot, tget x.parents slot with
    | some d, some t, some q =>
      if q.remote || !q.sent then s
      else
        let s := if cycles = 0 then s else s.bump .SMP_LANE_BUSY [lane / 16, lane % 16] cycles
        let h := (d.hops[t.hop]?).getD ⟨0, 0, 0, 0, 0, 0⟩
        let b := h.bounds x.time
        let end_ := fun (s : State) (c a : Nat) => (s.laneFault x slot c a).dealSeeds (lane / 16)
        (match s.resolve d t.vertex with
         | (s, .ok (_, shard, ix)) =>
           (match s.readList d.grove shard ix with
            | (s, .ok l) =>
              if l.raises then end_ s 0x09 0
              else
                let r := selectEdges l h b.1 b.2 (s.draws x d slot)
                (match s.readEdges d.grove l r.1 with
                 | (s, .ok es) => s.finishParent lane slot es r.2
                 | (s, .fault c) => end_ s c 0
                 | (s, .mem a) => end_ s (accCode a).1 (accCode a).2)
            | (s, .fault c) => end_ s c 0
            | (s, .mem a) => end_ s (accCode a).1 (accCode a).2)
         | (s, .fault c) => end_ s c 0
         | (s, .mem a) => end_ s (accCode a).1 (accCode a).2)
    | _, _, _ => s

/-- Adjacency returns to a lane from its own device's memory. -/
def execSmpAdjReadReturn (lane parent cycles : Nat) (s : State) : Host.Outcome State Fault Refusal :=
  .next (s.onDie fun s => s.adjReturn lane parent cycles)

/-! ## Remote adjacency -/

/-- The lane and parent of a die's request. Assumption: 3 (DESIGN CHOICE). -/
def State.findRequest (s : State) (die req : Nat) : Option (Nat × Nat × OpenParent) :=
  (s.smp.lanes.filter fun p => p.1 / 16 == die).findSome? fun p =>
    (p.2.parents.find? fun q => q.2.remote && q.2.sent && q.2.request == req).map fun q => (p.1, q.1, q.2)

/-- The payload of an ADJ_PICK. Assumption: 47 (DEDUCED). -/
def pickPayload (v shard : Nat) (ranges : List (Nat × Nat)) (weighted : Bool) (targets : List Nat) (request : Nat) :
    List Byte :=
  mfield 6 v ++ mfield 8 shard ++ mfield 1 (b2n weighted) ++ mfield 1 ranges.length ++
    ranges.flatMap (fun r => toLe 4 r.1 ++ toLe 4 r.2) ++ mfield 1 targets.length ++ targets.flatMap (toLe 8) ++
    mfield 4 request

/-- The next step of a remote parent: another ADJ_PICK of at most 32 targets, or the children.
Assumption: 48 (DESIGN CHOICE). -/
def State.remoteStep (s : State) (lane slot rejects : Nat) : State :=
  match tget s.smp.lanes lane with
  | none => s
  | some x =>
    match s.laneDesc x, tget x.twigs slot, tget x.parents slot with
    | some d, some t, some q =>
      let h := (d.hops[t.hop]?).getD ⟨0, 0, 0, 0, 0, 0⟩
      let u := s.draws x d slot
      (match q.range with
       | none => s
       | some (n, w, ranges, weights) =>
         let targets := match plan h.mode h.fanout n w weights u with
           | some ts => (ts.drop q.draws).take 32
           | none =>
             if q.picked.length ≥ h.fanout then []
             else ((List.range (8 * h.fanout)).drop q.draws).take 32 |>.map fun a => mulhi64 (u a) w
         let s := if rejects = 0 then s else s.bump .SMP_REJECT [lane / 16] rejects
         if targets.isEmpty then s.finishParent lane slot q.picked 0
         else
           (match s.resolve d t.vertex with
            | (s, .ok (dev, shard, ix)) =>
              let s := s.modLane lane fun x => { x with
                parents := tset x.parents slot { q with draws := q.draws + targets.length, tries := 0 } }
              s.sendAdj (lane / 16) d.grove dev 0x11
                (pickPayload ix (dev * 2 ^ 41 + shard) ranges (planWeighted h.mode n h.fanout) targets q.request)
            | (s, .fault c) => s.laneFault x slot c
            | (s, .mem a) => s.laneFault x slot (accCode a).1 (accCode a).2))
    | _, _, _ => s

/-- Picks of mode 3 are accepted in order until the fanout is met; a repeat is a rejection (R202). -/
def acceptPicks (f : Nat) : List (Nat × Nat) → List (Nat × Nat) → List (Nat × Nat) × Nat
  | got, [] => (got, 0)
  | got, e :: es =>
    if got.length ≥ f then (got, 0)
    else if got.any fun g => g.1 == e.1 then
      (let r := acceptPicks f got es
       (r.1, r.2 + 1))
    else acceptPicks f (got ++ [e]) es

/-- An answer of another device's memory-pool service reaches the lane that asked (R208). -/
def State.adjResponse (s : State) (die req : Nat) (r : AdjResp) : State :=
  match s.findRequest die req with
  | none => s
  | some (lane, slot, q) =>
    match tget s.smp.lanes lane with
    | none => s
    | some x =>
      match r with
      | .fault c => (s.laneFault x slot c).dealSeeds die
      | .range _ _ ranges n w weights =>
        if q.range.isSome then s
        else
          let q := { q with range := some (n, w, ranges, weights), tries := 0 }
          ((s.modLane lane fun x => { x with parents := tset x.parents slot q }).remoteStep lane slot 0).dealSeeds die
      | .pick es =>
        match s.laneDesc x, tget x.twigs slot, q.range with
        | some d, some t, some (n, _, _, _) =>
          let h := (d.hops[t.hop]?).getD ⟨0, 0, 0, 0, 0, 0⟩
          let a := if h.mode = 3 && n > h.fanout then acceptPicks h.fanout q.picked es else (q.picked ++ es, 0)
          let q := { q with picked := a.1 }
          ((s.modLane lane fun x => { x with parents := tset x.parents slot q }).remoteStep lane slot a.2).dealSeeds die
        | _, _, _ => s

/-- A complete response reaches the lane. -/
def execAdjResponseReceive (die request : Nat) (r : AdjResp) (s : State) : Host.Outcome State Fault Refusal :=
  .next (s.onDie fun s => s.adjResponse die request r)

/-- A remote request is refused by a negative response (R216): the answer's code. -/
def State.adjRefused (s : State) (die req code answer : Nat) : State :=
  match s.findRequest die req with
  | none => s
  | some (lane, slot, _) =>
    match tget s.smp.lanes lane with
    | some x => (s.laneFault x slot code answer).dealSeeds die
    | none => s

/-- A remote request is unanswered for 50 µs: sent again, at most three times, then a fault (R209). -/
def State.adjTimeout (s : State) (die req : Nat) : State :=
  match s.findRequest die req with
  | none => s
  | some (lane, slot, q) =>
    match tget s.smp.lanes lane with
    | none => s
    | some x =>
      if q.tries ≥ 3 then (s.laneFault x slot 0x0A).dealSeeds die
      else
        let s := s.bump .SMP_REMOTE_RETRY [die]
        match s.laneDesc x, tget x.twigs slot, s.resolve ((s.laneDesc x).getD ⟨0, 0, 0, 0, 0, 0, 0, 0, 0, 0, 0, 0, 0, []⟩)
            ((tget x.twigs slot).map (·.vertex) |>.getD 0) with
        | some d, some t, (s, .ok (dev, shard, ix)) =>
          let h := (d.hops[t.hop]?).getD ⟨0, 0, 0, 0, 0, 0⟩
          let b := h.bounds x.time
          (match q.range with
           | none =>
             (s.modLane lane fun x => { x with parents := tset x.parents slot { q with tries := q.tries + 1 } }).sendAdj die
               d.grove dev 0x10 (rangePayload ix (dev * 2 ^ 41 + shard) h.types b.1 b.2 h.mode q.request)
           | some (n, w, ranges, weights) =>
             let u := s.draws x d slot
             let from_ := (q.draws - 1) / 32 * 32
             let ts := match plan h.mode h.fanout n w weights u with
               | some ts => (ts.take q.draws).drop from_
               | none => ((List.range q.draws).drop from_).map fun a => mulhi64 (u a) w
             (s.modLane lane fun x => { x with parents := tset x.parents slot { q with tries := q.tries + 1 } }).sendAdj die
               d.grove dev 0x11
               (pickPayload ix (dev * 2 ^ 41 + shard) ranges (planWeighted h.mode n h.fanout) ts q.request))
        | _, _, (s, .fault c) => (s.laneFault x slot c).dealSeeds die
        | _, _, (s, .mem a) => (s.laneFault x slot (accCode a).1 (accCode a).2).dealSeeds die
        | _, _, (s, _) => s

/-- A remote request is unanswered. -/
def execSmpRemoteTimeout (die request : Nat) (s : State) : Host.Outcome State Fault Refusal :=
  .next (s.onDie fun s => s.adjTimeout die request)

/-! ## The memory-pool service -/

/-- A negative response (R432): the code and the request it answers. Assumption: 50 (DEDUCED). -/
def State.sendNeg (s : State) (die device g code request : Nat) : State :=
  s.sendMsg die false device 0x1C g (mfield 1 code ++ mfield 4 request)

/-- A request of another device for the hearth region is refused (R95). -/
def State.refuseHearth (s : State) (die g device off request : Nat) : State :=
  (s.record .gth .contained die 0x0C (some g) (device + off % 2 ^ 41 * 2 ^ 15)).sendNeg die device g 0x0C request

/-- Ends a service request whose read failed. Assumption: 50 (DEDUCED). -/
def State.serveFail (s : State) (die : Nat) (o : Origin) (request : Nat) (opcode : Nat) : Bark Unit → State
  | .fault c => s.sendMsg die false o.device opcode o.grove (mfield 4 request ++ mfield 1 c)
  | .mem .stale => s.dropStale die o
  | .mem a => s.sendNeg die o.device o.grove (accCode a).2 request
  | .ok _ => s

/-- Holds a service request for its grove's budget. -/
def State.holdServe (s : State) (h : HeldServe) : State :=
  { s with lnk := { s.lnk with serve := s.lnk.serve ++ [h] } }

/-- Serves ADJ_RANGE (R208): checked under R73, counted against pool_serve, answered from the shard. -/
def State.adjRange (s : State) (die : Nat) (o : Origin) (r : AdjRange) (again : Bool := false) : State :=
  if !s.groveIs o.grove o.gen then s.dropStale die o
  else if 2 ^ 40 ≤ r.shard then s.refuseHearth die o.grove o.device r.shard r.request
  else
    match s.spend die o.grove 4 1 again with
    | (s, false) => s.holdServe (.adjRange die o r)
    | (s, true) =>
      match s.readList o.grove r.shard r.vertex with
      | (s, .ok l) =>
        if l.raises then s.serveFail die o r.request 0x18 (.fault 0x09)
        else
          let rs := l.ranges r.types r.lo r.hi
          let ws := (rangePositions rs).map l.weight
          let n := rangeCount rs
          s.sendMsg die false o.device 0x18 o.grove
            (mfield 4 r.request ++ mfield 4 l.edges.length ++ mfield 5 l.first ++ mfield 2 rs.length ++
              rs.flatMap (fun x => toLe 4 x.1 ++ toLe 4 x.2) ++ mfield 4 n ++ mfield 8 ws.sum ++
              (if n ≤ 1024 && r.mode = 3 then ws.flatMap (toLe 4) else []))
      | (s, .fault c) => s.serveFail die o r.request 0x18 (.fault c)
      | (s, .mem a) => s.serveFail die o r.request 0x18 (.mem a)

/-- An ADJ_RANGE request arrives. -/
def execAdjRange (die : Nat) (o : Origin) (r : AdjRange) (s : State) : Host.Outcome State Fault Refusal :=
  .next (s.onDie fun s => s.adjRange die o r)

/-- Serves ADJ_PICK (R208). -/
def State.adjPick (s : State) (die : Nat) (o : Origin) (r : AdjPick) (again : Bool := false) : State :=
  if !s.groveIs o.grove o.gen then s.dropStale die o
  else if 2 ^ 40 ≤ r.shard then s.refuseHearth die o.grove o.device r.shard r.request
  else
    match s.spend die o.grove 4 1 again with
    | (s, false) => s.holdServe (.adjPick die o r)
    | (s, true) =>
      match s.readList o.grove r.shard r.vertex with
      | (s, .ok l) =>
        let rs := r.ranges.filter fun x => x.1 ≤ x.2 && x.2 < l.edges.length
        let ps := if r.weighted then r.targets.filterMap (pickW l.weight (rangePositions rs))
          else r.targets.filterMap (pickPos rs)
        if l.raises then s.serveFail die o r.request 0x19 (.fault 0x09)
        else
          (match s.readEdges o.grove l ps with
           | (s, .ok es) =>
             s.sendMsg die false o.device 0x19 o.grove
               (mfield 4 r.request ++ mfield 1 es.length ++ es.flatMap fun e => toLe 8 e.1 ++ toLe 16 e.2)
           | (s, .fault c) => s.serveFail die o r.request 0x19 (.fault c)
           | (s, .mem a) => s.serveFail die o r.request 0x19 (.mem a))
      | (s, .fault c) => s.serveFail die o r.request 0x19 (.fault c)
      | (s, .mem a) => s.serveFail die o r.request 0x19 (.mem a)

/-- An ADJ_PICK request arrives. -/
def execAdjPick (die : Nat) (o : Origin) (r : AdjPick) (s : State) : Host.Outcome State Fault Refusal :=
  .next (s.onDie fun s => s.adjPick die o r)

/-! ## Commands -/

/-- Refuses a sampler command (R213, R214). -/
def State.refuseSmp (s : State) (q i : Nat) (k code : Nat) : State :=
  (s.smpRecord k code (s.qgrove q) 0 0 0 0).complete q i .badCommand 0

/-- STREAM_SET (R213): takes effect at the grove's next open. -/
def State.streamSet (s : State) (q i : Nat) : State :=
  match s.ofRow q i 1 1 with
  | none => s
  | some c =>
    let s := s.start q i
    let id := c.arg 8 2
    let k := 32 * dieOfQueue q
    if !c.restZero [(8, 2), (0x10, 16), (0x20, 16)] || id ≥ 2 ^ 12 then s.refuseSmp q i k 0x01
    else if s.streamOwner id != some c.grove || id / 2048 != dieOfQueue q then s.refuseSmp q i k 0x02
    else
      let s := { s with smp := { s.smp with streams := tmod s.smp.streams id {} fun r =>
        { r with staged := some (c.arg 0x10 16, c.arg 0x20 16) } } }
      s.complete q i .ok 0

/-- The STREAM_SET command. -/
def execStreamSet (queue index : Nat) (s : State) : Host.Outcome State Fault Refusal :=
  .next (s.onDie fun s => s.streamSet queue index)

/-- The code a PROG_LOAD is refused with, or its descriptor (R214). -/
def State.progCheck (s : State) (q : Nat) (c : Cmd) (b : List Byte) : Nat × Option ProgDesc :=
  let die := dieOfQueue q
  let k := 32 * die + c.arg 8 1
  match parseProg b with
  | none => (0x01, none)
  | some d =>
    let used := (List.range 32).any fun p =>
      32 * die + p != k && (s.prog (32 * die + p)).st != .empty &&
        (((s.prog (32 * die + p)).desc.map (·.stream)) == some d.stream ||
          ((s.prog (32 * die + p)).staged.map (·.stream)) == some d.stream)
    if d.grove ≠ c.grove then (0x01, none)
    else if s.streamOwner d.stream != some c.grove || d.stream / 2048 != die || used then (0x02, none)
    else if (maskBits d.lanes 32).any (fun l => l / 16 != die || s.laneOwner l != some c.grove) then (0x03, none)
    else if (s.prog k).st != .empty && (s.prog k).grove != c.grove then (0x04, none)
    else (0, some d)

/-- PROG_LOAD (R213 to R215). -/
def State.progLoad (s : State) (q i : Nat) : State :=
  match s.ofRow q i 1 2 with
  | none => s
  | some c =>
    let s := s.start q i
    let k := 32 * dieOfQueue q + c.arg 8 1 % 32
    let va := c.arg 0x10 8
    if !c.restZero [(8, 1), (0x10, 8)] || c.arg 8 1 ≥ 32 || va ≥ 2 ^ 48 || va % 64 ≠ 0 then s.refuseSmp q i k 0x01
    else
      match s.readVa c.grove va 64 with
      | (s, .ok, h) =>
        (match s.readVa c.grove va (64 + 32 * min 6 (leAt h 0 1)) with
         | (s, .ok, b) =>
           (match s.progCheck q c b with
            | (_, some d) =>
              let s := s.modProg k fun p =>
                if p.st == .empty || p.st == .disabled then { st := .loaded, grove := c.grove, desc := some d }
                else { p with staged := some d, unload := false }
              s.complete q i .ok 0
            | (code, none) => s.refuseSmp q i k code)
         | (s, .page, _) => s.refuseSmp q i k 0x01
         | (s, _, _) => s.complete q i .fault 0)
      | (s, .page, _) => s.refuseSmp q i k 0x01
      | (s, _, _) => s.complete q i .fault 0

/-- The PROG_LOAD command. -/
def execProgLoad (queue index : Nat) (s : State) : Host.Outcome State Fault Refusal :=
  .next (s.onDie fun s => s.progLoad queue index)

/-- PROG_UNLOAD (R213, R215): a running slot empties when its run ends. Assumption: 48 (DESIGN CHOICE). -/
def State.progUnload (s : State) (q i : Nat) : State :=
  match s.ofRow q i 1 3 with
  | none => s
  | some c =>
    let s := s.start q i
    let k := 32 * dieOfQueue q + c.arg 8 1 % 32
    let p := s.prog k
    if !c.restZero [(8, 1)] || c.arg 8 1 ≥ 32 then s.refuseSmp q i k 0x01
    else if p.st == .empty then s.complete q i .ok 0
    else if p.grove ≠ c.grove then s.refuseSmp q i k 0x04
    else if p.st == .running then (s.modProg k fun p => { p with unload := true }).complete q i .ok 0
    else (s.modProg k fun _ => {}).complete q i .ok 0

/-- The PROG_UNLOAD command. -/
def execProgUnload (queue index : Nat) (s : State) : Host.Outcome State Fault Refusal :=
  .next (s.onDie fun s => s.progUnload queue index)

/-! ## Steps and regroves -/

/-- The open of a step (R206, R213, R215): staged streams and descriptors are taken. -/
def State.openSampler (s : State) (g n : Nat) : State :=
  let take := fun id (r : RandStream) =>
    if s.streamOwner id == some g then
      (match r.staged with
       | some x => ({ key := x.1, origin := x.2, staged := none } : RandStream)
       | none => r)
    else r
  let s := { s with smp := { s.smp with streams := tmap s.smp.streams take } }
  s.each (List.range 64) fun s k =>
    let p := s.prog k
    if p.grove ≠ g || p.st != .loaded then s
    else
      match p.staged <|> p.desc with
      | none => s
      | some d =>
        if (maskBits d.lanes 32).all (fun l => s.laneOwner l == some g) then
          s.modProg k fun _ => { st := .loaded, grove := g, desc := some d, live := true,
                                 base := ((tgetD s.smp.streams d.stream {}).origin + n % 2 ^ 48 * 2 ^ 80) % 2 ^ 128 }
        else
          (s.modProg k fun _ => { st := .disabled, grove := g, desc := some d }).smpRecord k 0x05 g 0 0 0 0

/-- The twig lanes start on the step, or on its replay: the programmes its open took run (R34, R215). -/
def State.runSampler (s : State) (g : Nat) : State :=
  let s := s.each (List.range 64) fun s k =>
    let p := s.prog k
    if p.grove = g && p.st == .loaded && p.live then s.modProg k fun p => { p with st := .running } else s
  (s.dealSeeds 0).dealSeeds 1

/-- A void of the grove's step (R215): lanes stop and the slots are LOADED again, or EMPTY where an unload waits. -/
def State.voidSampler (s : State) (g : Nat) : State :=
  let s := s.dropLanes fun _ x => (s.prog x.prog).grove == g
  s.each (List.range 64) fun s k =>
    let p := s.prog k
    if p.grove ≠ g || !(p.st == .running || p.st == .done || p.st == .faulted) then s
    else if p.unload then s.modProg k fun _ => {}
    else s.modProg k fun p => { p with st := .loaded, dealt := 0, done := [], groups := 0 }

/-- A commit of the grove's step (R215): a slot that is done is LOADED. -/
def State.commitSampler (s : State) (g : Nat) : State :=
  s.each (List.range 64) fun s k =>
    if (s.prog k).grove = g && (s.prog k).st == .done then
      s.modProg k fun p => { p with st := .loaded, dealt := 0, done := [], groups := 0 }
    else s

/-- A programme of the grove runs or has faulted on a die: the clean report waits (R215). -/
def State.samplerBusy (s : State) (die g : Nat) : Bool :=
  (List.range 32).any fun p =>
    let x := s.prog (32 * die + p)
    x.grove == g && (x.st == .running || x.st == .faulted)

/-- Clears the slots whose grove is unbound or whose stream has left it, and the streams `p` names (R65, R215). -/
def State.regroveSampler (s : State) (p : Nat → Bool) (unbound : Nat → Bool) : State :=
  let s := { s with smp := { s.smp with streams := s.smp.streams.filter fun x => !p x.1 } }
  s.each (List.range 64) fun s k =>
    let x := s.prog k
    let lost := (x.desc.map fun d => p d.stream).getD false
    if x.st == .empty || !(lost || unbound x.grove) then s
    else
      let s := (s.modProg k fun _ => {}).dropLanes fun _ y => y.prog == k
      if unbound x.grove then s else s.smpRecord k 0x05 x.grove 0 0 0 0

end Sys2Proof.Machine
end

