-- ==== Sys2Proof/Machine/Embeddings.lean ====
section
/-! DEFINITION. Embedding tables (ch. 8): row placement, versions, row entries and lookups, staged changes, heat, scions,
regrafts, the row buffer of ch. 16 and the memory-pool service for rows. -/
namespace Sys2Proof.Machine

/-! ## Row placement -/

/-- x ^ (x >> n) in 64 bits. -/
def xsh (x n : Nat) : Nat := x ^^^ (x / 2 ^ n)

/-- The home hash (R252). -/
def homeHash (t r : Nat) : Nat :=
  let x := (r % 2 ^ 48) ^^^ (t % 2 ^ 12 * 2 ^ 48)
  let x := xsh x 31 * 0xA54F2C197B3ED861 % 2 ^ 64
  let x := xsh x 29 * 0x6E91C3D50F27B4A3 % 2 ^ 64
  xsh x 32

/-- The index of a hash's home in a list of `n` (R252). -/
def homeIndex (h n : Nat) : Nat := h % 2 ^ 32 * n / 2 ^ 32

/-- The bucket of a hash (R252). -/
def bucketOf (h l : Nat) : Nat := h / 2 ^ 32 % 2 ^ l

/-- The table slot of a grove's table id (R47), none at or above its slot count. -/
def State.tableIx (s : State) (g t : Nat) : Option Nat :=
  let ts := (s.grove g).tables
  if t < ts.2 then some (ts.1 + t) else none

/-- A table slot. -/
def State.tableSlot (s : State) (n : Nat) : TableSlot := tgetD s.emb.slots n {}

/-- The state with the embedding directory changed. -/
def State.modEmb (s : State) (f : EmbState → EmbState) : State := { s with emb := f s.emb }

/-- The descriptor of the slot in a state, lowest slot first. -/
def TableSlot.at (x : TableSlot) (v : VsSt) : Option TableDesc :=
  if x.st0 = v then x.desc0 else if x.st1 = v then x.desc1 else none

/-- The descriptor of the CURRENT or PREVIOUS slot with a version number (R259). -/
def TableSlot.version (x : TableSlot) (n : Nat) : Option TableDesc :=
  match x.at .current, x.at .previous with
  | some d, p => if d.version = n then some d else p.filter (·.version == n)
  | none, p => p.filter (·.version == n)

/-- Bytes of an element of a stored format: FP32, BF16, L16 (R251). -/
def elemSize (f : Nat) : Nat := if f = 0 then 4 else 2

/-- The stored format as a value format. -/
def storedFmt (f : Nat) : Fmt := if f = 0 then .fp32 else if f = 1 then .bf16 else .l16

/-- Reads a table descriptor; none where a check of R251 fails. -/
def parseTable (b : List Byte) : Option TableDesc :=
  let a := fun o => leAt b o 8
  let fl := leAt b 1 1
  let d : TableDesc :=
    { format := leAt b 0 1, trainable := bit fl 0, rowElems := leAt b 2 2, rowPitch := leAt b 4 2, statePitch := leAt b 6 2,
      version := leAt b 8 4, homeCount := leAt b 0x0C 4, homeList := a 0x10, log2Buckets := leAt b 0x18 1,
      graftSlots := leAt b 0x1C 4, tags := a 0x20, rows := a 0x28, state := a 0x30, graft := a 0x38 }
  let addr := fun x => x < 2 ^ 48 && x % 64 == 0
  let ok := d.format ≤ 2 && fl < 2 && 1 ≤ d.rowElems && d.rowElems ≤ 4096 && 1 ≤ d.rowPitch && d.rowPitch ≤ 1024 &&
    d.rowElems * elemSize d.format ≤ 64 * d.rowPitch && d.statePitch ≤ 1024 && (d.trainable || d.statePitch == 0) &&
    1 ≤ d.homeCount && d.homeCount ≤ 32768 && d.homeList < 2 ^ 48 && d.log2Buckets ≤ 30 && zeroAt b 0x19 3 &&
    d.graftSlots < 2 ^ 24 && addr d.tags && addr d.rows && addr d.state && addr d.graft &&
    (d.statePitch != 0 || d.state == 0) && (d.graftSlots != 0 || d.graft == 0)
  if ok then some d else none

/-- Where a row lies on a device: in a way of its bucket, or in a graft slot. -/
inductive Place where
  | bucket
  | slot (k : Nat)
  deriving DecidableEq, Repr

/-- Addresses of a row and its state in graft slot k (R254). -/
def TableDesc.slotVa (d : TableDesc) (k : Nat) : Nat × Nat :=
  (d.graft + k * d.rowPitch * 64, d.graft + d.graftSlots * d.rowPitch * 64 + k * d.statePitch * 64)

/-- The way of a row's bucket that holds it (R253), none where no valid way does. Assumption: 55 (DESIGN CHOICE). -/
def State.findWay (s : State) (g t : Nat) (d : TableDesc) (r : Nat) : State × Acc × Option Nat :=
  let b := bucketOf (homeHash t r) d.log2Buckets
  let q := s.readVa g (d.tags + 64 * b) 64
  (q.1, q.2.1, (List.range 8).find? fun w => bit (leAt q.2.2 48 1) w && leAt q.2.2 (6 * w) 6 == r)

/-- Addresses of a row and its state (R253, R254): none where the row is in no way of its bucket. -/
def State.rowVa (s : State) (g t : Nat) (d : TableDesc) (r : Nat) : Place → State × Acc × Option (Nat × Nat)
  | .slot k => (s, .ok, some (d.slotVa k))
  | .bucket =>
    let b := bucketOf (homeHash t r) d.log2Buckets
    match s.findWay g t d r with
    | (s, a, w) => (s, a, w.map fun w => (d.rows + (8 * b + w) * d.rowPitch * 64, d.state + (8 * b + w) * d.statePitch * 64))

/-- Clears the valid bit of a row's way (R271 step 4). -/
def State.freeWay (s : State) (g t : Nat) (d : TableDesc) (r : Nat) : State :=
  match s.findWay g t d r with
  | (s, .ok, some w) =>
    let va := d.tags + 64 * bucketOf (homeHash t r) d.log2Buckets + 48
    let m := leAt (s.peekVa g va 1) 0 1
    (s.writeVa g va (toLe 1 (if bit m w then m - 2 ^ w else m))).1
  | (s, _, _) => s

/-! ## Records -/

/-- An EMB record (R277, R283): table id and row id; the code's number names it. -/
def State.embRecord (s : State) (die code g t r : Nat) (sev : Sev := .contained) : State :=
  let s := s.putReg .EMB_FAULT_LAST [die] (BitVec.ofNat 64 (code * 2 ^ 56 + g * 2 ^ 52 + r % 2 ^ 48))
  s.record .emb sev die code (some g) (t % 2 ^ 12 + r % 2 ^ 48 * 2 ^ 12)

/-- A step-class fault of an engine: the device's clean report of the grove's step is held back.
Assumption: 42 (DEDUCED). -/
def State.stepFault (s : State) (g : Nat) : State := s.modStep g fun x => { x with faulted := true }

/-! ## Row entries -/

/-- Row entries a grove holds (R261). -/
def State.embUsed (s : State) (g : Nat) : Nat := (s.emb.entries.filter fun e => e.grove == g).length

/-- A grove's quota (R279). Assumption: 53 (DESIGN CHOICE). -/
def State.embQuota (s : State) (g : Nat) : Nat := s.regFld .EMB_ENTRY_QUOTA [0, g] 0 19

/-- Adds a row entry and marks the high water (R280). -/
def State.addEntry (s : State) (e : RowEntry) : State :=
  let s := s.modEmb fun x => { x with entries := x.entries ++ [e] }
  s.modEmb fun x => { x with high := tset x.high e.grove (max (tgetD x.high e.grove 0) (s.embUsed e.grove)) }

/-- Removes the row entries that `p` names. -/
def State.dropEntries (s : State) (p : RowEntry → Bool) : State :=
  s.modEmb fun x => { x with entries := x.entries.filter fun e => !p e }

/-- The entry is of this row and version. -/
def RowEntry.isOf (e : RowEntry) (g t v r : Nat) : Bool := e.grove == g && e.table == t && e.version == v && e.row == r

/-- The entries of a row and version. -/
def State.entriesOf (s : State) (g t v r : Nat) : List RowEntry := s.emb.entries.filter fun e => e.isOf g t v r

/-- Device and slot of a row's GRAFT entry. -/
def State.graftOf (s : State) (g t v r : Nat) : Option (Nat × Nat) :=
  (s.entriesOf g t v r).findSome? fun e => match e.kind with
    | .graft d k => some (d, k)
    | _ => none

/-- New home and expiry of a row's TOMBSTONE entry. Assumption: 55 (DESIGN CHOICE). -/
def State.tombOf (s : State) (g t v r : Nat) : Option (Nat × Nat) :=
  (s.entriesOf g t v r).findSome? fun e => match e.kind with
    | .tombstone d x => some (d, x)
    | _ => none

/-- Old home and slot of a row's PEND_IN entry. -/
def State.pendInOf (s : State) (g t v r : Nat) : Option (Nat × Nat) :=
  (s.entriesOf g t v r).findSome? fun e => match e.kind with
    | .pendIn d k => some (d, k)
    | _ => none

/-- New home, slot and acknowledged flag of a row's PEND_OUT entry. -/
def State.pendOutOf (s : State) (g t v r : Nat) : Option (Nat × Nat × Bool) :=
  (s.entriesOf g t v r).findSome? fun e => match e.kind with
    | .pendOut d k a => some (d, k, a)
    | _ => none

/-- The graft slot of a row's SCION entry, or of its PEND_SCION entry. -/
def State.scionOf (s : State) (g t v r : Nat) (pending : Bool) : Option Nat :=
  (s.entriesOf g t v r).findSome? fun e => match e.kind with
    | .scion k => if pending then none else some k
    | .pendScion k => if pending then some k else none
    | _ => none

/-- The holders of a row: device, pending and acknowledged flags. -/
def State.holdersOf (s : State) (g t v r : Nat) : List (Nat × Bool × Bool) :=
  (s.entriesOf g t v r).filterMap fun e => match e.kind with
    | .holder d p a => some (d, p, a)
    | _ => none

/-- The home device of a row's version and where it lies there (R252, R262): a GRAFT entry, else the hash home. -/
def State.homeOf (s : State) (g t : Nat) (d : TableDesc) (r : Nat) : State × Acc × Nat × Place :=
  match s.graftOf g t d.version r with
  | some (dev, k) => (s, .ok, dev, .slot k)
  | none =>
    match s.readVa g (d.homeList + 2 * homeIndex (homeHash t r) d.homeCount) 2 with
    | (s, a, b) => (s, a, le b % 2 ^ 15, .bucket)

/-! ## Lookups -/

/-- How a lookup resolves (R262): a place on this device, another device, or a fault of the step with its code. -/
inductive Lookup where
  | here (d : TableDesc) (p : Place)
  | there (device : Nat)
  | fault (code : Nat)
  | mem (a : Acc)

/-- The scion rule (R270) for a lookup of step `step`. -/
def State.scionFresh (s : State) (g home step : Nat) (d : TableDesc) : Bool :=
  !d.trainable ||
    (match tget s.emb.refreshed (2 ^ 15 * g + home) with
     | none => false
     | some n => n == stepPred step || serialAfter n (stepPred step) 48)

/-- Resolves a lookup of row r of table t for a step (R256, R262, R270, R275), counted (R282).
Assumption: 55 (DESIGN CHOICE). -/
def State.lookup (s : State) (die g t r step : Nat) : State × Lookup :=
  match s.tableIx g t with
  | none => (s, .fault 0x04)
  | some ix =>
    match (tget (tgetD s.emb.pinned g []) t).bind (s.tableSlot ix).version with
    | none => (s, .fault 0x05)
    | some d =>
      match s.homeOf g t d r with
      | (s, .ok, home, place) =>
        let rest := fun (s : State) =>
          let s := s.bump (if place = .bucket then .EMB_LOOKUP_HASH else .EMB_LOOKUP_GRAFT) [die]
          if !(s.grove g).members.testBit home then (s, Lookup.fault 0x07)
          else if home = s.devnum then (s, Lookup.here d place)
          else (s, Lookup.there home)
        (match s.scionOf g t d.version r false with
         | some k =>
           if s.scionFresh g home step d then (s.bump .EMB_LOOKUP_SCION [die], .here d (.slot k))
           else rest (s.bump .EMB_SCION_FALLBACK [die])
         | none => rest s)
      | (s, a, _, _) => (s, .mem a)

/-- Reads `count` stored elements of a row from element `first`: none where the row is absent. -/
def State.readRow (s : State) (g t : Nat) (d : TableDesc) (r : Nat) (p : Place) (first count : Nat) :
    State × Acc × Option (List Byte) :=
  match s.rowVa g t d r p with
  | (s, .ok, some va) =>
    let q := s.readVa g (va.1 + first * elemSize d.format) (count * elemSize d.format)
    (q.1, q.2.1, some q.2.2)
  | (s, a, _) => (s, a, none)

/-- A row waits on this device for FLIP_DONE (R263, R272). -/
def State.pendingIn (s : State) (g t v r : Nat) : Bool := (s.pendInOf g t v r).isSome

/-! ## Heat -/

/-- The index of the lowest count, the lowest index first. -/
def coldest (h : List (Nat × Nat × Nat)) : Nat :=
  (h.zipIdx.foldl (fun (b : Nat × Nat) x => if x.1.2.2 < b.1 then (x.1.2.2, x.2) else b) (2 ^ 32, 0)).2

/-- One request of a row updates the heat table (R267). -/
def heatUp (h : List (Nat × Nat × Nat)) (t r : Nat) : List (Nat × Nat × Nat) :=
  let up := fun c => min (2 ^ 32 - 1) (c + 1)
  match h.findIdx? fun x => x.1 == t && x.2.1 == r with
  | some i => h.modify i fun x => (t, r, up x.2.2)
  | none => if h.length < 1024 then h ++ [(t, r, 1)] else h.modify (coldest h) fun x => (t, r, up x.2.2)

/-- Counts a served request in its die's heat table. -/
def State.heatRow (s : State) (die g t r : Nat) : State :=
  s.modEmb fun x => { x with heat := tmod x.heat (16 * die + g) [] fun h => heatUp h t r }

/-! ## The row buffer (R505, R506) -/

/-- An UPD record (R513, R517): kind, target and item. -/
def State.updRecord (s : State) (sev : Sev) (die code g kind target item : Nat) : State :=
  let s := s.putReg .UPD_FAULT_LAST [die] (BitVec.ofNat 64
    (code * 2 ^ 56 + g * 2 ^ 52 + kind * 2 ^ 51 + target % 2 ^ 12 * 2 ^ 36 + item % 2 ^ 24))
  s.record .upd sev die code (some g) (kind + target % 2 ^ 12 * 2 + item % 2 ^ 24 * 2 ^ 13)

/-- The local offset of an entry of a grove's row buffer on a die. -/
def State.rowBufAt (s : State) (die g parity e : Nat) : Nat :=
  let v := s.getReg .UPD_ROWBUF [die, g]
  wfld v 6 35 * 64 + (parity * 2 ^ wfld v 56 5 + e) * 320

/-- The key of a row buffer entry: word 0 with valid set, and its segment. -/
def rowBufWord (t r : Nat) : Nat := r + t * 2 ^ 48 + 2 ^ 63

/-- The first of 16 probed entries that matches or is free, and how many probes it took (R505). -/
def State.rowBufProbe (s : State) (die g parity t r seg : Nat) : Option (Nat × Nat) :=
  let v := s.getReg .UPD_ROWBUF [die, g]
  let n := 2 ^ wfld v 56 5
  let h := homeHash t r + seg
  if !v.getLsbD 63 then none
  else (List.range 16).findSome? fun i =>
    let e := (h + i) % n
    let b := s.peek (s.rowBufAt die g parity e) 16
    let w := leAt b 0 8
    if !bit w 63 || (w == rowBufWord t r && leAt b 8 1 == seg) then some (e, i) else none

/-- Adds an accumulate to the row buffer by ACC_F32 (R505); a free entry starts from zero sums.
Assumption: 53 (DESIGN CHOICE). -/
def State.rowBufAdd (s : State) (die g : Nat) (a : RowAcc) : State × Bool :=
  match s.rowBufProbe die g (a.step % 2) a.table a.row a.segment with
  | none => (((s.updRecord .contained die 0x05 g 1 a.table 0).stepFault g), false)
  | some (e, i) =>
    let s := if i = 0 then s else s.bump .UPD_PROBES [die] i
    let o := s.rowBufAt die g (a.step % 2) e
    let b := s.peek o 320
    let free := !bit (leAt b 0 8) 63
    let old := fun x => if free then 0 else leAt b (0x40 + 4 * x) 4
    let sums := (List.range 64).map fun x => if a.mask.testBit x then f32Add (old x) (a.values.getD x 0) else old x
    let mask := (if free then 0 else leAt b 0x10 8) ||| a.mask
    let bytes := toLe 8 (rowBufWord a.table a.row) ++ toLe 8 a.segment ++ toLe 8 mask ++ List.replicate 40 0 ++
      sums.flatMap (toLe 4)
    let lines := (List.range 4).filter fun l => fld a.mask (16 * l) 16 != 0
    let s := s.each lines fun s l => match s.locate (o + 0x40 + 64 * l) with
      | some (c, _) => s.bump .MEM_ACC_LINES (chIx c)
      | none => s
    ((s.writeLocal (.grove g) o bytes).1, true)

/-! ## Answers and forwarding -/

/-- An acknowledgement of a request (R432, R473): request and status. -/
def State.sendAck (s : State) (die device g request status : Nat) : State :=
  s.sendMsg die false device 0x1B g (mfield 4 request ++ mfield 1 status)

/-- The payload of a ROW_READ. -/
def readPayload (r : RowRead) : List Byte :=
  mfield 4 r.request ++ mfield 2 r.table ++ mfield 4 r.version ++ mfield 6 r.row ++ mfield 2 r.first ++
    mfield 2 r.count ++ mfield 6 r.step

/-- The payload of a ROW_ACCUMULATE: two flits (R432). The fields of R236 are packed into one 8-byte word each, two
for those that fit. -/
def accPayload (a : RowAcc) : List Byte :=
  mfield 4 a.request ++ mfield 6 a.step ++ mfield 2 a.table ++ mfield 4 a.version ++ mfield 6 a.row ++
    mfield 1 a.segment ++ mfield 8 a.mask ++ a.values.flatMap (toLe 4)

/-- Sends a request on to its new home under its sender's name (R273). -/
def State.forwardReq (s : State) (o : Origin) (device opcode : Nat) (payload : List Byte) : State :=
  s.each (s.mkFlits device opcode ((opcodeVc opcode).map (·.1) |>.getD 0) o.grove 0 payload) fun s f =>
    s.sendBranch { f with src := o.device, gen := o.gen }

/-- The row data messages of an answer (R241). Assumption: 51 (DESIGN CHOICE). -/
def rowMessages (req version : Nat) (data : List Byte) : List (List Byte) :=
  let n := max 1 ((data.length + 1623) / 1624)
  (List.range n).map fun i =>
    let part := (data.drop (1624 * i)).take 1624
    mfield 4 req ++ mfield 4 version ++ mfield 4 (1624 * i) ++ mfield 4 part.length ++ toLe 8 (b2n (i + 1 == n)) ++ part

/-- The code of a failed memory access in a negative response: MEM_UE or MEM_UNMAPPED. Assumption: 50 (DEDUCED). -/
def negOf : Acc → Nat
  | .ue => 0x01
  | _ => 0x02

/-! ## The memory-pool service for rows (R240 to R242, R259 to R263, R273) -/

/-- The grove's step `n` has reached CLOSED on this device (R260). -/
def State.stepClosed (s : State) (g n : Nat) : Bool :=
  let x := s.step_ g
  if x.st = .closed then x.step == n || serialAfter x.step n 48 else serialAfter x.step n 48

/-- A request meets a row that has moved away: REGRAFT_LATE (R273). -/
def State.regraftLate (s : State) (die g t r : Nat) : State := (s.bump .EMB_LATE [die]).embRecord die 0x0E g t r

/-- Serves a ROW_READ whose waits are over: GRAFT here, GRAFT elsewhere, or the hash bucket. -/
def State.serveRow (s : State) (die : Nat) (o : Origin) (r : RowRead) (d : TableDesc) : State :=
  let g := o.grove
  let answer := fun (s : State) p =>
    match s.readRow g r.table d r.row p r.first r.count with
    | (s, .ok, some b) =>
      (s.heatRow die g r.table r.row).each (rowMessages r.request r.version b) fun s m =>
        s.sendMsg die false o.device 0x1A g m
    | (s, .ok, none) => s.sendNeg die o.device g 0x06 r.request
    | (s, a, _) => s.sendNeg die o.device g (negOf a) r.request
  match s.graftOf g r.table r.version r.row with
  | some (dev, k) =>
    if dev = s.devnum then answer s (.slot k)
    else (s.regraftLate die g r.table r.row).sendNeg die o.device g 0x0E r.request
  | none => answer s .bucket

/-- A ROW_READ must wait: for a PEND_IN entry (R263), or for the close of the step before the reader's (R260). -/
def State.readWaits (s : State) (o : Origin) (r : RowRead) (d : TableDesc) : Bool :=
  s.pendingIn o.grove r.table r.version r.row || (d.trainable && !s.stepClosed o.grove (stepPred r.step))

/-- Resolves a ROW_READ that its grove's budget has admitted. Assumption: 55 (DESIGN CHOICE). -/
def State.resolveRead (s : State) (die : Nat) (o : Origin) (r : RowRead) (again : Bool) : State :=
  let g := o.grove
  match s.tableIx g r.table with
  | none => s.sendNeg die o.device g 0x04 r.request
  | some ix =>
    match (s.tableSlot ix).version r.version with
    | none => s.sendNeg die o.device g 0x0F r.request
    | some d =>
      match s.tombOf g r.table r.version r.row with
      | some (dev, _) => (s.bump .EMB_FORWARDED [die]).forwardReq o dev 0x12 (readPayload r)
      | none =>
        if s.readWaits o r d then
          (if again then s else s.bump .EMB_HELD_READ [die]).modEmb fun x => { x with
            heldReads := x.heldReads ++ [⟨die, o, r⟩] }
        else s.serveRow die o r d

/-- A ROW_READ reaches the memory-pool service: checked under R73 and counted against pool_serve. -/
def State.rowRead (s : State) (die : Nat) (o : Origin) (r : RowRead) (again : Bool := false) : State :=
  if !s.groveIs o.grove o.gen then s.dropStale die o
  else
    match s.spend die o.grove 4 1 again with
    | (s, false) => s.holdServe (.rowRead die o r)
    | (s, true) => s.resolveRead die o r false

/-- A ROW_READ arrives. -/
def execRowRead (die : Nat) (o : Origin) (r : RowRead) (s : State) : Host.Outcome State Fault Refusal :=
  .next (s.onDie fun s => s.rowRead die o r)

/-- Takes up the held reads that `p` names, in their order. -/
def State.retryReads (s : State) (p : HeldRead → Bool) : State :=
  let hs := s.emb.heldReads.filter p
  (s.modEmb fun x => { x with heldReads := x.heldReads.filter fun h => !p h }).each hs fun s h =>
    s.resolveRead h.die h.origin h.read true

/-- A held ROW_READ whose wait is over is served. -/
def execRowReadRelease (die : Nat) (o : Origin) (request : Nat) (s : State) : Host.Outcome State Fault Refusal :=
  .next (s.onDie fun s => s.retryReads fun h => h.die == die && h.origin == o && h.read.request == request)

/-- A ROW_ACCUMULATE's step has left SEALED on this device (R479). -/
def State.accLate (s : State) (g n : Nat) : Bool :=
  let x := s.step_ g
  serialAfter x.step n 48 || (x.step == n && (x.st == .committed || x.st == .voided || x.st == .closed))

/-- How the owner answers an accumulate: a status of R473, a negative code, or forwarding to a device. -/
inductive AccAnswer where
  | status (n : Nat)
  | neg (code : Nat)
  | forward (device : Nat)

/-- A COL_LATE record and its count (R479, R494): the reduction id or row's table, the segment, the peer. -/
def State.noteLate (s : State) (die g red seg device : Nat) : State :=
  let s := s.bump .COL_LATE [die]
  let s := s.putReg .COL_FAULT_LAST [die] (BitVec.ofNat 64
    (0x0A * 2 ^ 56 + g * 2 ^ 52 + red % 2 ^ 12 * 2 ^ 40 + seg % 2 ^ 25 * 2 ^ 15 + device % 2 ^ 15))
  s.record .col .corrected die 0x0A (some g) (red % 2 ^ 12 + seg % 2 ^ 25 * 2 ^ 12 + device % 2 ^ 15 * 2 ^ 37)

/-- Applies an admitted accumulate to the place that holds its row. -/
def State.applyAcc (s : State) (die g : Nat) (a : RowAcc) (d : TableDesc) (p : Place) : State × AccAnswer :=
  match s.rowVa g a.table d a.row p with
  | (s, .ok, none) => (s, .neg 0x06)
  | (s, .ok, some va) =>
    (match (s.translate g va.1).bind s.locate with
     | none => (s, .neg 0x02)
     | some (c, _) =>
       let s := (s.rowBufAdd (dieOfChannel c) g a).1
       (s.heatRow die g a.table a.row, .status 0))
  | (s, x, _) => (s, .neg (negOf x))

/-- What the owner does with an accumulate of its grove: repeats, forwarding, late arrivals, the version, then the
row buffer (R242, R263, R479, R506). Assumption: 49 (DESIGN CHOICE). -/
def State.ownAcc (s : State) (die : Nat) (o : Origin) (a : RowAcc) : State × AccAnswer :=
  let g := o.grove
  let key := (a.step, o.device, o.die, a.request)
  if (tgetD s.emb.applied g []).contains key then (s.bump .GTH_DUP_DROPPED [die], .status 1)
  else
    match s.tombOf g a.table a.version a.row with
    | some (dev, _) => (s.bump .EMB_FORWARDED [die], .forward dev)
    | none =>
      if s.accLate g a.step then (s.noteLate die g a.table a.segment o.device, .status 2)
      else
        let note := fun (s : State) => s.modEmb fun x => { x with applied := tmod x.applied g [] (· ++ [key]) }
        match (s.tableIx g a.table).bind fun ix => (s.tableSlot ix).version a.version with
        | none => (s, .neg 0x0F)
        | some d =>
          let current := ((s.tableIx g a.table).bind fun ix => (s.tableSlot ix).at .current).map (·.trainable)
          if current ≠ some true then (((note s).updRecord .contained die 0x04 g 1 a.table 0).stepFault g, .status 0)
          else
            match s.pendInOf g a.table a.version a.row, s.graftOf g a.table a.version a.row with
            | some (_, k), _ => (note s).applyAcc die g a d (.slot k)
            | none, some (dev, k) =>
              if dev = s.devnum then (note s).applyAcc die g a d (.slot k)
              else (s.regraftLate die g a.table a.row, .neg 0x0E)
            | none, none =>
              (match s.applyAcc die g a d .bucket with
               | (s, .status n) => (note s, .status n)
               | x => x)

/-- A ROW_ACCUMULATE reaches the memory-pool service. -/
def State.rowAccumulate (s : State) (die : Nat) (o : Origin) (a : RowAcc) (again : Bool := false) : State :=
  if !s.groveIs o.grove o.gen then s.dropStale die o
  else
    match s.spend die o.grove 4 1 again with
    | (s, false) => s.holdServe (.rowAccumulate die o a)
    | (s, true) =>
      match s.ownAcc die o a with
      | (s, .status n) => s.sendAck die o.device o.grove a.request n
      | (s, .neg c) => s.sendNeg die o.device o.grove c a.request
      | (s, .forward dev) => s.forwardReq o dev 0x20 (accPayload a)

/-- A ROW_ACCUMULATE arrives. -/
def execRowAccumulate (die : Nat) (o : Origin) (a : RowAcc) (s : State) : Host.Outcome State Fault Refusal :=
  .next (s.onDie fun s => s.rowAccumulate die o a)

/-! ## Directory transfers (opcode 0x23) -/

/-- The next directory request number of a die. -/
def State.embRequest (s : State) (die : Nat) : Nat × State :=
  let n := s.emb.nextRequest.getD die 0
  (n, s.modEmb fun x => { x with nextRequest := x.nextRequest.set die ((n + 1) % 2 ^ 32) })

/-- Sends a directory transfer, cut into messages of at most 1,536 data bytes; `kind` is 1 a regraft copy, 2 a scion
copy, 3 a refresh, 4 FLIP_DONE, 5 REFRESH_DONE, 6 a mirror, 7 the end of an abandoned change.
Assumption: 51 (DESIGN CHOICE). -/
def State.sendTransfer (s : State) (die device g kind : Nat) (c : RowCopy) (step : Nat) : State :=
  let data := c.data ++ c.state
  let n := max 1 ((data.length + 1535) / 1536)
  s.each (List.range n) fun s i =>
    let part := (data.drop (1536 * i)).take 1536
    s.sendMsg die false device 0x23 g
      (mfield 1 kind ++ mfield 4 c.request ++ mfield 2 c.table ++ mfield 4 c.version ++ mfield 6 c.row ++
        mfield 3 c.slot ++ mfield 6 step ++ mfield 4 (1536 * i) ++ mfield 4 part.length ++ mfield 1 (b2n (i + 1 == n)) ++ part)

/-- A transfer without a row. -/
def bareCopy (t v r : Nat) : RowCopy :=
  { request := 0, table := t, version := v, row := r, slot := 0, data := [], state := [] }

/-- The holders of rows this device homes on a die: the devices REFRESH_DONE goes to (R269). -/
def State.holderDevices (s : State) (die g : Nat) : List Nat :=
  let ds := s.emb.entries.filterMap fun e =>
    match e.kind with
    | .holder dev _ _ =>
      if e.grove ≠ g then none
      else
        (match (s.tableIx g e.table).bind fun ix => (s.tableSlot ix).version e.version with
         | none => none
         | some d =>
           let q := s.homeOf g e.table d e.row
           let va := (q.1.rowVa g e.table d e.row q.2.2.2).2.2
           (match (va.bind fun v => s.translate g v.1).bind s.locate with
            | some (c, _) => if dieOfChannel c = die then some dev else none
            | none => none))
    | _ => none
  ds.foldl sinsert []

/-- Sends REFRESH_DONE of a step once every refresh of the die is acknowledged (R269).
Assumption: 51 (DESIGN CHOICE). -/
def State.refreshDone (s : State) (die g step : Nat) : State :=
  if s.emb.refreshes.any fun p => p.1 / 2 ^ 32 == die && p.2.grove == g && !p.2.mirror then s
  else s.each (s.holderDevices die g) fun s dev => s.sendTransfer die dev g 5 (bareCopy 0 0 0) step

/-- Sends the FLIP_DONE messages whose row has no mirror without acknowledgement (R271 step 4).
Assumption: 51 (DESIGN CHOICE). -/
def State.sendFlips (s : State) : State :=
  let ready := fun (f : FlipDue) => !s.emb.refreshes.any fun p =>
    p.2.mirror && p.2.grove == f.grove && p.2.table == f.table && p.2.row == f.row
  let due := s.emb.flipsDue.filter ready
  (s.modEmb fun x => { x with flipsDue := x.flipsDue.filter fun f => !ready f }).each due fun s f =>
    s.sendTransfer f.die f.device f.grove 4 (bareCopy f.table 0 f.row) f.step

/-- After the update unit has written a row at commit, it goes to its holders and, in a regraft whose copy is
acknowledged, to its new home (R269, R271). -/
def State.refreshRow (s : State) (die g step t : Nat) (d : TableDesc) (r : Nat) (va : Nat × Nat) : State :=
  let row := s.peekVa g va.1 (64 * d.rowPitch)
  let opt := s.peekVa g va.2 (64 * d.statePitch)
  let send := fun (s : State) (dest : Nat) (mirror : Bool) (slot : Nat) =>
    let q := s.embRequest die
    let c : RowCopy := { request := q.1, table := t, version := d.version, row := r, slot := slot, data := row,
                         state := if mirror then opt else [] }
    let x : SentRefresh := { dest := dest, grove := g, step := step, mirror := mirror, table := t, row := r }
    (q.2.modEmb fun e => { e with refreshes := tset e.refreshes (2 ^ 32 * die + q.1) x }).sendTransfer die dest g
      (if mirror then 6 else 3) c step
  let s := s.each (s.holdersOf g t d.version r) fun s h => send s h.1 false 0
  match s.pendOutOf g t d.version r with
  | some (dev, k, true) => send s dev true k
  | _ => s

/-- A holder or a new home has acknowledged (R269, R271). -/
def State.refreshAck (s : State) (die request : Nat) : State :=
  match tget s.emb.refreshes (2 ^ 32 * die + request) with
  | none => s
  | some x =>
    let s := s.modEmb fun e => { e with refreshes := terase e.refreshes (2 ^ 32 * die + request) }
    if x.mirror then s.sendFlips else s.refreshDone die x.grove x.step

/-- The acknowledgement of a refresh or a mirror arrives. -/
def execRefreshAckReceive (die request : Nat) (s : State) : Host.Outcome State Fault Refusal :=
  .next (s.onDie fun s => s.refreshAck die request)

/-- Writes a received row, and its state if it carries one, to a graft slot. -/
def State.storeCopy (s : State) (g : Nat) (d : TableDesc) (k : Nat) (c : RowCopy) : State :=
  let va := d.slotVa k
  let s := (s.writeVa g va.1 (c.data.take (64 * d.rowPitch))).1
  (s.writeVa g va.2 (c.state.take (64 * d.statePitch))).1

/-- The descriptor of a copy's version on this device. -/
def State.copyDesc (s : State) (g : Nat) (c : RowCopy) : Option TableDesc :=
  (s.tableIx g c.table).bind fun ix => (s.tableSlot ix).version c.version

/-- A regraft or scion copy arrives (R268, R271 step 2): the row is written, its PEND entry installed once, and
acknowledged. A copy for which the quota leaves no entry is not answered. Assumption: 52 (DEDUCED). -/
def State.copyReceive (s : State) (die : Nat) (o : Origin) (c : RowCopy) (scion : Bool) : State :=
  let g := o.grove
  if !s.groveIs g o.gen then s.dropStale die o
  else
    match s.copyDesc g c with
    | none => s.sendNeg die o.device g 0x0F c.request
    | some d =>
      let kind : RowKind := if scion then .pendScion c.slot else .pendIn o.device c.slot
      let e : RowEntry := ⟨g, c.table, c.version, c.row, kind⟩
      let held := s.emb.entries.contains e
      if !held && s.embUsed g ≥ s.embQuota g then s.embRecord die 0x09 g c.table c.row
      else
        let s := s.storeCopy g d c.slot c
        (if held then s else s.addEntry e).sendAck die o.device g c.request 0

/-- A regraft copy arrives. -/
def execRegraftCopyReceive (die : Nat) (o : Origin) (c : RowCopy) (s : State) : Host.Outcome State Fault Refusal :=
  .next (s.onDie fun s => s.copyReceive die o c false)

/-- A scion copy arrives. -/
def execScionCopyReceive (die : Nat) (o : Origin) (c : RowCopy) (s : State) : Host.Outcome State Fault Refusal :=
  .next (s.onDie fun s => s.copyReceive die o c true)

/-- A refresh or a mirror arrives: it is written to the slot of the row's entry here, and acknowledged. -/
def State.refreshReceive (s : State) (die : Nat) (o : Origin) (c : RowCopy) (mirror : Bool) : State :=
  let g := o.grove
  if !s.groveIs g o.gen then s.dropStale die o
  else
    let slot := if mirror then (s.pendInOf g c.table c.version c.row).map (·.2)
      else (s.scionOf g c.table c.version c.row false <|> s.scionOf g c.table c.version c.row true)
    let s := match s.copyDesc g c, slot with
      | some d, some k => s.storeCopy g d k c
      | _, _ => s
    s.sendAck die o.device g c.request 0

/-- A refreshed row arrives at a holder. -/
def execScionRefreshReceive (die : Nat) (o : Origin) (c : RowCopy) (s : State) : Host.Outcome State Fault Refusal :=
  .next (s.onDie fun s => s.refreshReceive die o c false)

/-- A mirrored write arrives at a new home. -/
def execRegraftMirrorReceive (die : Nat) (o : Origin) (c : RowCopy) (s : State) : Host.Outcome State Fault Refusal :=
  .next (s.onDie fun s => s.refreshReceive die o c true)

/-- REFRESH_DONE: the step is recorded for the home device (R269). -/
def State.refreshDoneReceive (s : State) (o : Origin) (step : Nat) : State :=
  if !s.groveIs o.grove o.gen then s.dropStale o.die o
  else s.modEmb fun x => { x with refreshed := tset x.refreshed (2 ^ 15 * o.grove + o.device) step }

/-- REFRESH_DONE arrives. -/
def execRefreshDoneReceive (o : Origin) (step : Nat) (s : State) : Host.Outcome State Fault Refusal :=
  .next (s.onDie fun s => s.refreshDoneReceive o step)

/-- FLIP_DONE: PEND_IN becomes GRAFT, and held reads are served (R271 step 5). -/
def State.flipDone (s : State) (die : Nat) (o : Origin) (t r : Nat) : State :=
  let g := o.grove
  if !s.groveIs g o.gen then s.dropStale die o
  else
    let mine := fun (e : RowEntry) => e.grove == g && e.table == t && e.row == r &&
      (match e.kind with
       | .pendIn d _ => d == o.device
       | _ => false)
    match s.emb.entries.find? mine with
    | none => s
    | some e =>
      let k := match e.kind with
        | .pendIn _ k => k
        | _ => 0
      let s := s.dropEntries mine
      let s := if (s.graftOf g t e.version r).isSome then s else s.addEntry { e with kind := .graft s.devnum k }
      s.retryReads fun h => h.origin.grove == g && h.read.table == t && h.read.row == r

/-- FLIP_DONE arrives. -/
def execFlipDoneReceive (die : Nat) (o : Origin) (table row step : Nat) (s : State) :
    Host.Outcome State Fault Refusal :=
  let _ := step
  .next (s.onDie fun s => s.flipDone die o table row)

/-! ## Commands of target 3 -/

/-- Refuses a directory command (R276, R277). -/
def State.refuseEmb (s : State) (q i code t r : Nat) : State :=
  (s.embRecord (dieOfQueue q) code (s.qgrove q) t r).complete q i .badCommand 0

/-- The state with a table slot changed. -/
def State.modTable (s : State) (ix : Nat) (f : TableSlot → TableSlot) : State :=
  s.modEmb fun x => { x with slots := tmod x.slots ix {} f }

/-- TABLE_LOAD (R251, R257). Assumption: 52 (DEDUCED). -/
def State.tableLoad (s : State) (q i : Nat) : State :=
  match s.ofRow q i 3 1 with
  | none => s
  | some c =>
    let s := s.start q i
    let t := c.arg 8 2
    let va := c.arg 0x10 8
    if !c.restZero [(8, 2), (0x10, 8)] || t ≥ 2 ^ 12 || va ≥ 2 ^ 48 then s.refuseEmb q i 0x01 t 0
    else
      match s.tableIx c.grove t with
      | none => s.refuseEmb q i 0x04 t 0
      | some ix =>
        let x := s.tableSlot ix
        if x.st0 ≠ .empty && x.st1 ≠ .empty then s.refuseEmb q i 0x03 t 0
        else
          match s.readVa c.grove va 64 with
          | (s, .ok, b) =>
            (match parseTable b with
             | none => s.refuseEmb q i 0x02 t 0
             | some d =>
               let after := match x.at .current with
                 | none => true
                 | some y => serialAfter d.version y.version 32
               if !after then s.refuseEmb q i 0x02 t 0
               else
                 let s := s.modTable ix fun x =>
                   if x.st0 = .empty then { x with st0 := .loaded, desc0 := some d }
                   else { x with st1 := .loaded, desc1 := some d }
                 s.complete q i .ok 0)
          | (s, .page, _) => s.refuseEmb q i 0x02 t 0
          | (s, _, _) => s.complete q i .fault 0

/-- The TABLE_LOAD command. -/
def execTableLoad (queue index : Nat) (s : State) : Host.Outcome State Fault Refusal :=
  .next (s.onDie fun s => s.tableLoad queue index)

/-- The kind, table, device, slot and row of a stage entry (R264). -/
def stageKind (w : Nat × Nat) : Nat := fld w.1 0 4
/-- Table id of a stage entry. -/
def stageTable (w : Nat × Nat) : Nat := fld w.1 4 12
/-- Device of a stage entry. -/
def stageDevice (w : Nat × Nat) : Nat := fld w.1 16 15
/-- Graft slot of a stage entry. -/
def stageSlot (w : Nat × Nat) : Nat := fld w.1 32 24
/-- Row of a stage entry. -/
def stageRow (w : Nat × Nat) : Nat := fld w.2 0 48

/-- The staged entries of a grove. -/
def State.staged (s : State) (g : Nat) : List (Nat × Nat) := tgetD s.emb.staged g []

/-- The state with a grove's staged set replaced. -/
def State.setStaged (s : State) (g : Nat) (l : List (Nat × Nat)) : State :=
  s.modEmb fun x => { x with staged := tset x.staged g l }

/-- The stage digest (R265). -/
def stageDigest (l : List (Nat × Nat)) : Nat :=
  l.foldl (fun d w => (d + (homeHash (stageTable w) (stageRow w) ^^^ w.1)) % 2 ^ 64) 0

/-- TABLE_DROP (R276): a LOADED slot empties and its staged flip goes. Assumption: 52 (DEDUCED). -/
def State.tableDrop (s : State) (q i : Nat) : State :=
  match s.ofRow q i 3 2 with
  | none => s
  | some c =>
    let s := s.start q i
    let t := c.arg 8 2
    if !c.restZero [(8, 2)] || t ≥ 2 ^ 12 then s.refuseEmb q i 0x01 t 0
    else
      match s.tableIx c.grove t with
      | none => s.refuseEmb q i 0x04 t 0
      | some ix =>
        let s := s.modTable ix fun x =>
          if x.st0 = .loaded then { x with st0 := .empty, desc0 := none }
          else if x.st1 = .loaded then { x with st1 := .empty, desc1 := none }
          else x
        let s := s.setStaged c.grove ((s.staged c.grove).filter fun w => !(stageKind w == 1 && stageTable w == t))
        s.complete q i .ok 0

/-- The TABLE_DROP command. -/
def execTableDrop (queue index : Nat) (s : State) : Host.Outcome State Fault Refusal :=
  .next (s.onDie fun s => s.tableDrop queue index)

/-- A row's current version, place and addresses on its home, or the code that refuses a begin.
Assumption: 52 (DEDUCED). -/
def State.beginRow (s : State) (g t r : Nat) : State × Option (TableDesc × Nat × Nat) × Nat :=
  match (s.tableIx g t).bind fun ix => (s.tableSlot ix).at .current with
  | none => (s, none, 0x05)
  | some d =>
    match s.homeOf g t d r with
    | (s, .ok, home, p) =>
      if home ≠ s.devnum then (s, none, 0x08)
      else
        (match s.rowVa g t d r p with
         | (s, .ok, some va) => (s, some (d, va), 0)
         | (s, _, _) => (s, none, 0x06))
    | (s, _, _, _) => (s, none, 0x07)

/-- REGRAFT_BEGIN and SCION_BEGIN (R268, R271). -/
def State.copyBegin (s : State) (q i : Nat) (scion : Bool) : State :=
  match s.ofRow q i 3 (if scion then 4 else 3) with
  | none => s
  | some c =>
    let s := s.start q i
    let die := dieOfQueue q
    let g := c.grove
    let t := c.arg 8 2
    let r := c.arg 0x10 8
    let dev := c.arg 0x18 2
    let slot := c.arg 0x1C 4
    let bad := !c.restZero [(8, 2), (0x10, 8), (0x18, 2), (0x1C, 4)] || t ≥ 2 ^ 12 || r ≥ 2 ^ 48 || dev ≥ 2 ^ 15 ||
      slot ≥ 2 ^ 24
    if bad then s.refuseEmb q i 0x01 t r
    else if (s.tableIx g t).isNone then s.refuseEmb q i 0x04 t r
    else
      match s.beginRow g t r with
      | (s, none, code) => s.refuseEmb q i code t r
      | (s, some (d, va), _) =>
        let moving := (s.entriesOf g t d.version r).any fun e => match e.kind with
          | .pendOut _ _ _ | .tombstone _ _ => true
          | _ => false
        let holders := s.holdersOf g t d.version r
        let busy := if scion then dev == s.devnum || holders.any (fun h => h.1 == dev) || moving
          else moving || !holders.isEmpty || (s.staged g).any (fun w => stageTable w == t && stageRow w == r && stageKind w != 1) ||
            dev == s.devnum || !(s.grove g).members.testBit dev
        if busy then s.refuseEmb q i 0x08 t r
        else if s.embUsed g ≥ s.embQuota g then s.refuseEmb q i 0x09 t r
        else
          let kind : RowKind := if scion then .holder dev true false else .pendOut dev slot false
          let s := s.addEntry ⟨g, t, d.version, r, kind⟩
          let n := s.embRequest die
          let m : RowCopy := { request := n.1, table := t, version := d.version, row := r, slot := slot,
                               data := s.peekVa g va.1 (64 * d.rowPitch),
                               state := if scion then [] else s.peekVa g va.2 (64 * d.statePitch) }
          let x : SentCopy := { queue := q, index := i, scion := scion, dest := dev, grove := g, msg := m }
          (n.2.modEmb fun e => { e with copies := tset e.copies (2 ^ 32 * die + n.1) x }).sendTransfer die dev g
            (if scion then 2 else 1) m 0

/-- The REGRAFT_BEGIN command. -/
def execRegraftBegin (queue index : Nat) (s : State) : Host.Outcome State Fault Refusal :=
  .next (s.onDie fun s => s.copyBegin queue index false)

/-- The SCION_BEGIN command. -/
def execScionBegin (queue index : Nat) (s : State) : Host.Outcome State Fault Refusal :=
  .next (s.onDie fun s => s.copyBegin queue index true)

/-- The entry a copy installed at its sender. -/
def SentCopy.owns (x : SentCopy) (e : RowEntry) : Bool :=
  e.isOf x.grove x.msg.table x.msg.version x.msg.row &&
    (match e.kind with
     | .pendOut d k _ => !x.scion && d == x.dest && k == x.msg.slot
     | .holder d _ _ => x.scion && d == x.dest
     | _ => false)

/-- The entry's kind, its copy acknowledged. -/
def RowKind.ack : RowKind → RowKind
  | .pendOut d k _ => .pendOut d k true
  | .holder d p _ => .holder d p true
  | k => k

/-- The other device has the copy: the command completes with the bytes copied (R268, R271 step 3). -/
def State.copyAck (s : State) (die request : Nat) : State :=
  match tget s.emb.copies (2 ^ 32 * die + request) with
  | none => s
  | some x =>
    let s := s.modEmb fun e => { e with
      copies := terase e.copies (2 ^ 32 * die + request)
      entries := e.entries.map fun y => if x.owns y then { y with kind := y.kind.ack } else y }
    s.complete x.queue x.index .ok (x.msg.data.length + x.msg.state.length)

/-- The acknowledgement of a regraft copy arrives. -/
def execRegraftCopyAck (die request : Nat) (s : State) : Host.Outcome State Fault Refusal :=
  .next (s.onDie fun s => s.copyAck die request)

/-- The acknowledgement of a scion copy arrives. -/
def execScionCopyAck (die request : Nat) (s : State) : Host.Outcome State Fault Refusal :=
  .next (s.onDie fun s => s.copyAck die request)

/-- A copy is unanswered for 50 µs: sent again at most three times, then a fault (R271). -/
def State.copyTimeout (s : State) (die request : Nat) : State :=
  let key := 2 ^ 32 * die + request
  match tget s.emb.copies key with
  | none => s
  | some x =>
    if x.tries < 3 then
      (s.modEmb fun e => { e with copies := tset e.copies key { x with tries := x.tries + 1 } }).sendTransfer die x.dest x.grove
        (if x.scion then 2 else 1) x.msg 0
    else
      let s := (s.modEmb fun e => { e with copies := terase e.copies key }).dropEntries x.owns
      let s := s.sendTransfer die x.dest x.grove 7 (bareCopy x.msg.table x.msg.version x.msg.row) 0
      (s.embRecord die 0x0D x.grove x.msg.table x.msg.row).complete x.queue x.index .fault 0

/-- A copy is unanswered. -/
def execRegraftCopyTimeout (die request : Nat) (s : State) : Host.Outcome State Fault Refusal :=
  .next (s.onDie fun s => s.copyTimeout die request)

/-- A row's PEND entry belongs to a stage entry (R266). -/
def pendMatches (self : Nat) (w : Nat × Nat) (e : RowEntry) : Bool :=
  match e.kind with
  | .pendOut d k _ => stageKind w == 2 && stageDevice w == d && stageSlot w == k
  | .pendIn _ k => stageKind w == 2 && stageDevice w == self && stageSlot w == k
  | .pendScion k => stageKind w == 3 && stageDevice w == self && stageSlot w == k
  | _ => true

/-- The code DIR_STAGE refuses an entry with (R264, R266, R276), if it does. -/
def State.stageCheck (s : State) (g : Nat) (w : Nat × Nat) : Option Nat :=
  let k := stageKind w
  let t := stageTable w
  let l := s.staged g
  let reserved := bit w.1 31 || w.1 / 2 ^ 56 != 0 || w.2 / 2 ^ 48 != 0
  let flipBad := k == 1 && (stageDevice w != 0 || stageSlot w != 0 || stageRow w != 0)
  let pend := s.emb.entries.any fun e => e.grove == g && e.table == t && e.row == stageRow w && !pendMatches s.devnum w e
  let more := (l.filter fun x => stageKind x == 2).length + b2n (k == 2)
  if k = 0 || k > 4 || reserved || flipBad then some 0x01
  else if (s.tableIx g t).isNone then some 0x04
  else if k ≠ 1 && (l.any (fun x => stageKind x != 1 && stageTable x == t && stageRow x == stageRow w) || pend) then some 0x08
  else if l.length ≥ 1024 || s.embUsed g + more > s.embQuota g then some 0x09
  else none

/-- DIR_STAGE. -/
def State.dirStage (s : State) (q i : Nat) : State :=
  match s.ofRow q i 3 5 with
  | none => s
  | some c =>
    let s := s.start q i
    let w := (c.arg 8 8, c.arg 0x10 8)
    if !c.restZero [(8, 8), (0x10, 8)] then s.refuseEmb q i 0x01 0 0
    else
      match s.stageCheck c.grove w with
      | some code => s.refuseEmb q i code (stageTable w) (stageRow w)
      | none =>
        let l := s.staged c.grove ++ [w]
        (s.setStaged c.grove l).complete q i .ok l.length

/-- The DIR_STAGE command. -/
def execDirStage (queue index : Nat) (s : State) : Host.Outcome State Fault Refusal :=
  .next (s.onDie fun s => s.dirStage queue index)

/-- DIR_UNSTAGE (R266): the staged set empties, PEND entries stay. -/
def State.dirUnstage (s : State) (q i : Nat) : State :=
  match s.ofRow q i 3 6 with
  | none => s
  | some c =>
    let s := s.start q i
    if !c.restZero [] then s.refuseEmb q i 0x01 0 0
    else (s.setStaged c.grove []).complete q i .ok 0

/-- The DIR_UNSTAGE command. -/
def execDirUnstage (queue index : Nat) (s : State) : Host.Outcome State Fault Refusal :=
  .next (s.onDie fun s => s.dirUnstage queue index)

/-- PEND_ABANDON (R274): the regraft's PEND_OUT goes here, and its PEND_IN at the new home. -/
def State.pendAbandon (s : State) (q i : Nat) : State :=
  match s.ofRow q i 3 7 with
  | none => s
  | some c =>
    let s := s.start q i
    let g := c.grove
    let t := c.arg 8 2
    let r := c.arg 0x10 8
    if !c.restZero [(8, 2), (0x10, 8)] || t ≥ 2 ^ 12 || r ≥ 2 ^ 48 then s.refuseEmb q i 0x01 t r
    else if (s.tableIx g t).isNone then s.refuseEmb q i 0x04 t r
    else if (s.staged g).any (fun w => stageKind w == 2 && stageTable w == t && stageRow w == r) then s.refuseEmb q i 0x08 t r
    else
      let out := fun (e : RowEntry) => e.grove == g && e.table == t && e.row == r &&
        (match e.kind with
         | .pendOut _ _ _ => true
         | _ => false)
      let s := match s.emb.entries.find? out with
        | some e =>
          (match e.kind with
           | .pendOut d _ _ => s.sendTransfer (dieOfQueue q) d g 7 (bareCopy t e.version r) 0
           | _ => s)
        | none => s
      (s.dropEntries out).complete q i .ok 0

/-- The PEND_ABANDON command. -/
def execPendAbandon (queue index : Nat) (s : State) : Host.Outcome State Fault Refusal :=
  .next (s.onDie fun s => s.pendAbandon queue index)

/-- HEAT_READ (R267): the 1,024 entries of the queue's die as records, and a clear when asked.
Assumption: 52 (DEDUCED). -/
def State.heatRead (s : State) (q i : Nat) : State :=
  match s.ofRow q i 3 8 with
  | none => s
  | some c =>
    let s := s.start q i
    let va := c.arg 8 8
    let fl := c.arg 0x10 1
    let key := 16 * dieOfQueue q + c.grove
    if !c.restZero [(8, 8), (0x10, 1)] || va ≥ 2 ^ 48 || va % 64 ≠ 0 || fl > 1 then s.refuseEmb q i 0x01 0 0
    else
      let h := tgetD s.emb.heat key []
      let bytes := (h.flatMap fun x => toLe 8 (x.2.1 + x.1 * 2 ^ 48) ++ toLe 8 x.2.2)
      match s.writeVa c.grove va (padTo 16384 bytes) with
      | (s, .ok) =>
        (if bit fl 0 then s.modEmb fun x => { x with heat := terase x.heat key } else s).complete q i .ok 1024
      | (s, .page) => s.refuseEmb q i 0x01 0 0
      | (s, _) => s.complete q i .fault 0

/-- The HEAT_READ command. -/
def execHeatRead (queue index : Nat) (s : State) : Host.Outcome State Fault Refusal :=
  .next (s.onDie fun s => s.heatRead queue index)

/-- A write of EMB_ENTRY_QUOTA (R279): both copies take it, or none. Assumption: 53 (DESIGN CHOICE). -/
def State.writeEmbQuota (s : State) (g : Nat) (v : Word) : State :=
  let n := wfld v 0 19
  let sum := ((List.range 16).map fun h => if h = g then n else s.embQuota h).sum
  if n < s.embUsed g || sum > 262144 then s.embRecord 0 0x0B g 0 0
  else (s.softWrite .EMB_ENTRY_QUOTA [0, g] v).softWrite .EMB_ENTRY_QUOTA [1, g] v

/-- A row-entry quota write. -/
def execEmbEntryQuotaWrite (grove : Nat) (value : Word) (s : State) : Host.Outcome State Fault Refusal :=
  .next (s.onDie fun s => s.writeEmbQuota grove value)

/-! ## Steps and regroves -/

/-- Whether the staged entries of a grove are ready on this device (R265). -/
def State.stageReady (s : State) (g : Nat) : Bool :=
  (s.staged g).all fun w =>
    let t := stageTable w
    let r := stageRow w
    match (s.tableIx g t).map s.tableSlot with
    | none => false
    | some x =>
      if stageKind w = 1 then x.st0 == .loaded || x.st1 == .loaded
      else if stageKind w = 4 then true
      else
        (match x.at .current with
         | none => false
         | some d =>
           let home := (s.homeOf g t d r).2.2.1
           if stageKind w = 2 then
             (if stageDevice w = s.devnum then
                (s.pendInOf g t d.version r).map (·.2) == some (stageSlot w)
              else if home = s.devnum then
                s.pendOutOf g t d.version r == some (stageDevice w, stageSlot w, true)
              else true)
           else if stageDevice w = s.devnum then s.scionOf g t d.version r true == some (stageSlot w)
           else if home = s.devnum then
             (s.holdersOf g t d.version r).any fun h => h.1 == stageDevice w && h.2.2
           else true)

/-- A change is cancelled by a flip: its PEND entries go (R266, R275). -/
def State.cancelChange (s : State) (g t r : Nat) : State :=
  let s := s.dropEntries fun e => e.grove == g && e.table == t && e.row == r &&
    (match e.kind with
     | .pendOut _ _ _ | .pendIn _ _ | .pendScion _ => true
     | .holder _ p _ => p
     | _ => false)
  (s.each [0, 1] fun s d => s.bump .EMB_CANCELLED_COUNT [d]).embRecord 0 0x0C g t r

/-- Applies a table flip (R258), and cancels the unstaged regrafts of its old version (R275). -/
def State.applyFlip (s : State) (g n t : Nat) : State :=
  match s.tableIx g t with
  | none => s
  | some ix =>
    let x := s.tableSlot ix
    let old := (x.at .current).map (·.version)
    let f := fun (v : VsSt) => if v = .current then VsSt.previous else if v = .loaded then .current else v
    let s := s.modTable ix fun x => { x with st0 := f x.st0, st1 := if x.st0 = .loaded && x.st1 = .loaded then x.st1 else f x.st1, flip := n }
    let moving := s.emb.entries.filter fun e => e.grove == g && e.table == t && some e.version == old &&
      (match e.kind with
       | .pendOut _ _ _ => true
       | _ => false)
    s.each moving fun s e =>
      if (s.staged g).any fun w => stageKind w == 2 && stageTable w == t && stageRow w == e.row then s
      else s.cancelChange g t e.row

/-- Applies a regraft at the commit of step n (R271 step 4). -/
def State.applyRegraft (s : State) (die g n : Nat) (w : Nat × Nat) : State :=
  let t := stageTable w
  let r := stageRow w
  match (s.tableIx g t).bind fun ix => (s.tableSlot ix).at .current with
  | none => s
  | some d =>
    let q := s.homeOf g t d r
    let s := q.1
    let mine := fun (e : RowEntry) => e.isOf g t d.version r
    let out := s.pendOutOf g t d.version r
    let s := s.dropEntries fun e => mine e && (match e.kind with
      | .graft _ _ | .pendOut _ _ _ => true
      | _ => false)
    let s := s.addEntry ⟨g, t, d.version, r, .graft (stageDevice w) (stageSlot w)⟩
    match out with
    | none => s
    | some _ =>
      let s := if q.2.2.2 = .bucket then s.freeWay g t d r else s
      let s := s.addEntry ⟨g, t, d.version, r, .tombstone (stageDevice w) ((n + 3) % 2 ^ 48)⟩
      s.modEmb fun x => { x with flipsDue := x.flipsDue ++ [⟨die, g, t, r, stageDevice w, n⟩] }

/-- Applies a scion drop or add (R270). -/
def State.applyScion (s : State) (g : Nat) (w : Nat × Nat) (add : Bool) : State :=
  let t := stageTable w
  let r := stageRow w
  let mine := fun (e : RowEntry) => e.grove == g && e.table == t && e.row == r
  if add then
    let up := fun (e : RowEntry) =>
      if mine e then
        (match e.kind with
         | .pendScion k => if stageDevice w = s.devnum then { e with kind := .scion k } else e
         | .holder d _ a => if d = stageDevice w then { e with kind := .holder d false a } else e
         | _ => e)
      else e
    s.modEmb fun x => { x with entries := x.entries.map up }
  else
    s.dropEntries fun e => mine e &&
      (match e.kind with
       | .scion _ => stageDevice w == s.devnum
       | .holder d _ _ => d == stageDevice w
       | _ => false)

/-- The commit of step n applies the staged set, or holds it (R266). `mismatch` says the members' counts or digests
differ. -/
def State.applyStaged (s : State) (g n : Nat) (apply mismatch : Bool) : State :=
  let l := s.staged g
  if l.isEmpty then s.modEmb fun x => { x with heldLast := tset x.heldLast g false }
  else if !apply then
    let s := s.each [0, 1] fun s d => s.bump .EMB_STAGE_HELD [d]
    let s := s.modEmb fun x => { x with heldLast := tset x.heldLast g true }
    if mismatch then s.embRecord 0 0x0A g 0 0 else s
  else
    let flips := (l.filter fun w => stageKind w == 1).map stageTable
    let s := s.each flips fun s t => s.applyFlip g n t
    let gone := fun w => (stageKind w == 2 || stageKind w == 3) && flips.contains (stageTable w)
    let s := s.each (l.filter gone) fun s w => s.cancelChange g (stageTable w) (stageRow w)
    let s := s.each (l.filter fun w => stageKind w == 4) fun s w => s.applyScion g w false
    let s := s.each (l.filter fun w => stageKind w == 2 && !gone w) fun s w => s.applyRegraft 0 g n w
    let s := s.each (l.filter fun w => stageKind w == 3 && !gone w) fun s w => s.applyScion g w true
    let s := s.modEmb fun x => { x with staged := terase x.staged g, heldLast := tset x.heldLast g false }
    s.sendFlips

/-- The open of step s: pins each table's CURRENT version (R259), retires PREVIOUS slots and tombstones (R258, R271),
and forgets the accumulates of steps at least three back (R242). -/
def State.openEmb (s : State) (g n : Nat) : State :=
  let first := (s.grove g).tables.1
  let count := (s.grove g).tables.2
  let s := s.each (List.range count) fun s t =>
    let x := s.tableSlot (first + t)
    match x.at .previous with
    | some d =>
      if n = (x.flip + 3) % 2 ^ 48 || serialAfter n ((x.flip + 3) % 2 ^ 48) 48 then
        (s.modTable (first + t) fun x =>
          { x with st0 := if x.st0 = .previous then .empty else x.st0, desc0 := if x.st0 = .previous then none else x.desc0,
                   st1 := if x.st1 = .previous then .empty else x.st1, desc1 := if x.st1 = .previous then none else x.desc1 }).dropEntries
          fun e => e.grove == g && e.table == t && e.version == d.version
      else s
    | none => s
  let s := s.dropEntries fun e => e.grove == g && (match e.kind with
    | .tombstone _ x => n == x || serialAfter n x 48
    | _ => false)
  let pins := (List.range count).filterMap fun t => ((s.tableSlot (first + t)).at .current).map fun d => (t, d.version)
  let old := fun (k : Nat × Nat × Nat × Nat) => serialAfter n ((k.1 + 2) % 2 ^ 48) 48
  s.modEmb fun x => { x with
    pinned := tset x.pinned g pins
    applied := tmod x.applied g [] fun l => l.filter fun k => !old k }

/-- A void of step n forgets its accumulates and its held reads (R238). -/
def State.voidEmb (s : State) (g n : Nat) : State :=
  s.modEmb fun x => { x with
    applied := tmod x.applied g [] fun l => l.filter fun k => k.1 != n
    heldReads := x.heldReads.filter fun h => !(h.origin.grove == g && h.read.step == n) }

/-- Refreshes, mirrors and FLIP_DONE of a grove are done (R508). -/
def State.refreshesDone (s : State) (g : Nat) : Bool :=
  !(s.emb.refreshes.any fun p => p.2.grove == g) && !(s.emb.flipsDue.any fun f => f.grove == g)

/-- Discards a grove's row entries, staged entries, heat and requests (R275). -/
def State.dropEmb (s : State) (g : Nat) : State :=
  s.modEmb fun x => { x with
    entries := x.entries.filter fun e => e.grove != g
    staged := terase x.staged g
    heldLast := terase x.heldLast g
    high := terase x.high g
    pinned := terase x.pinned g
    heat := x.heat.filter fun p => p.1 % 16 != g
    refreshed := x.refreshed.filter fun p => p.1 / 2 ^ 15 != g
    copies := x.copies.filter fun p => p.2.grove != g
    refreshes := x.refreshes.filter fun p => p.2.grove != g
    flipsDue := x.flipsDue.filter fun f => f.grove != g
    heldReads := x.heldReads.filter fun h => h.origin.grove != g
    applied := terase x.applied g }

/-- Clears the table slots that `p` names, with the row entries of their tables (R65, R275). -/
def State.clearTables (s : State) (p : Nat → Bool) : State :=
  let gone := fun g t => match s.tableIx g t with
    | some ix => p ix
    | none => false
  s.modEmb fun x => { x with
    slots := x.slots.filter fun e => !p e.1
    entries := x.entries.filter fun e => !gone e.grove e.table
    staged := tmap x.staged fun g l => l.filter fun w => !gone g (stageTable w) }

end Sys2Proof.Machine
end

