-- ==== Sys2Proof/Machine/Gather.lean ====
section
/-! DEFINITION. Scratchpads (ch. 9), and gather, scatter and the merge buffer (ch. 7): the commands of target 2, row
fetches and their answers, and the accumulates the scatter units send. -/
namespace Sys2Proof.Machine

/-! ## Scratchpads (R284, R286) -/

/-- A crown tile. -/
def isCrown (t : Nat) : Bool := (60 ≤ t && t < 64) || (124 ≤ t && t < 128)

/-- Bytes of a tile's scratchpad (R284). -/
def scratchSize (t : Nat) : Nat := if isCrown t then 24 * 2 ^ 20 else 8 * 2 ^ 20

/-- The bytes of a scratchpad at an offset. -/
def State.spxRead (s : State) (t off n : Nat) : List Byte :=
  (List.range n).map fun i => (cellGet s.til.scratch (t * 2 ^ 25 + off + i)).getD 0

/-- Writes bytes into a scratchpad. -/
def State.spxWrite (s : State) (t off : Nat) (bs : List Byte) : State :=
  { s with til := { s.til with
      scratch := bs.zipIdx.foldl (fun l p => cellPut l (t * 2 ^ 25 + off + p.2) p.1) s.til.scratch } }

/-- Zeroes a scratchpad (R289). -/
def State.spxClear (s : State) (t : Nat) : State :=
  { s with til := { s.til with scratch := cellDrop s.til.scratch (t * 2 ^ 25) ((t + 1) * 2 ^ 25) } }

/-- SPX_ECC_LAST describes a scratchpad error at a byte offset (R320). -/
def State.spxEcc (s : State) (t off : Nat) (ue : Bool) : State :=
  s.putReg .SPX_ECC_LAST [t] (BitVec.ofNat 64 (off / 64 * 2 ^ 6 + off / 8 % 8 * 2 ^ 3 + b2n ue))

/-! ## Records and commands -/

/-- A GTH record (R244, R249): queue, command tag and position. Assumption: 18 (DESIGN CHOICE). -/
def State.gthRecord (s : State) (q tag code g pos : Nat) : State :=
  let die := dieOfQueue q
  let s := s.putReg .GTH_FAULT_LAST [die] (BitVec.ofNat 64
    (code * 2 ^ 56 + g * 2 ^ 52 + q * 2 ^ 40 + tag % 2 ^ 16 * 2 ^ 24 + pos % 2 ^ 24))
  s.record .gth .contained die code (some g) (q + tag % 2 ^ 16 * 2 ^ 8 + pos % 2 ^ 24 * 2 ^ 24)

/-- A command in a pool or running. -/
def State.gthCmd (s : State) (q i : Nat) : Option GthCmd := s.gth.cmds.find? fun c => c.queue == q && c.index == i

/-- The state with the gather units changed. -/
def State.modGth (s : State) (f : GathState → GathState) : State := { s with gth := f s.gth }

/-- The state with a command changed. -/
def State.modCmd (s : State) (q i : Nat) (f : GthCmd → GthCmd) : State :=
  s.modGth fun x => { x with cmds := x.cmds.map fun c => if c.queue == q && c.index == i then f c else c }

/-- Takes a command away and completes it. -/
def State.endGth (s : State) (q i : Nat) (st : Status) (result : Nat) : State :=
  (s.modGth fun x => { x with cmds := x.cmds.filter fun c => !(c.queue == q && c.index == i) }).complete q i st result

/-- A step-class fault of a command (R244): it completes FAULT, and the clean report is held back. -/
def State.gthFault (s : State) (c : GthCmd) (code pos : Nat) : State :=
  ((s.gthRecord c.queue c.tag code c.grove pos).stepFault c.grove).endGth c.queue c.index .fault 0

/-- A step-class fault of a lookup: its EMB record, and the command that made it (R277). -/
def State.lookupFault (s : State) (c : GthCmd) (code t r : Nat) : State :=
  ((s.embRecord (dieOfQueue c.queue) code c.grove t r).stepFault c.grove).endGth c.queue c.index .fault 0

/-- A fault of the memory a command reads: the controller has written its record. -/
def State.memFaultCmd (s : State) (c : GthCmd) : State := (s.stepFault c.grove).endGth c.queue c.index .fault 0

/-- Refuses a command (R221, R222, R244). -/
def State.refuseGth (s : State) (q i : Nat) (c : Cmd) (code : Nat) : State :=
  (s.gthRecord q c.tag code c.grove 0).complete q i .badCommand 0

/-- Commands in a die's wait pool (R222). -/
def State.waitPool (s : State) (die : Nat) : Nat :=
  (s.gth.cmds.filter fun c => dieOfQueue c.queue == die && c.st == .waiting).length

/-- A wait entry of R222: valid 0 waits for nothing; the knot is a counter or a barrier on the die. -/
def State.waitEntry (s : State) (die v : Nat) : Bool × Option (Nat × Nat) :=
  match parseEntry v with
  | (true, some w) =>
    let k := s.knot w.1
    (dieOfKnot w.1 == die && ((k.type == 1 && w.2 != 0) || (k.type == 3 && w.2 < 2)), some w)
  | x => x

/-- GATHER and SCATTER are checked and pass into the wait pool (R221, R222). -/
def State.gthEnter (s : State) (q i op : Nat) : State :=
  match s.ofRow q i 2 op with
  | none => s
  | some c =>
    let s := s.start q i
    let w := s.waitEntry (dieOfQueue q) (c.arg 0x10 8)
    let step := c.arg 0x18 8
    let gs := s.step_ c.grove
    let bad := !c.restZero [(8, 8), (0x10, 8), (0x18, 8)] || step ≥ 2 ^ 48 || c.arg 8 8 ≥ 2 ^ 48 || c.arg 8 8 % 64 ≠ 0 || !w.1
    if bad then s.refuseGth q i c 0x01
    else if step ≠ gs.step && step ≠ stepSucc gs.step then s.refuseGth q i c 0x03
    else
      let x : GthCmd := { queue := q, index := i, op := op, grove := c.grove, gen := c.gen, step := step, tag := c.tag,
                          wait := w.2 }
      s.modGth fun y => { y with cmds := y.cmds ++ [x] }

/-- The GATHER command. -/
def execGather (queue index : Nat) (s : State) : Host.Outcome State Fault Refusal :=
  .next (s.onDie fun s => s.gthEnter queue index 1)

/-- The SCATTER command. -/
def execScatter (queue index : Nat) (s : State) : Host.Outcome State Fault Refusal :=
  .next (s.onDie fun s => s.gthEnter queue index 2)

/-! ## Descriptors (R223, R230) -/

/-- Bytes of an element of out_format or grad_format. -/
def rowFmtSize (f : Nat) : Nat := elemSize f

/-- Reads a gather or scatter descriptor; none where a check of R223 or R230 fails, or grove or generation differ. -/
def parseGth (scatter : Bool) (g gen : Nat) (b : List Byte) : Option GthDesc :=
  let sig := parseEntry (leAt b 0x38 8)
  let kind := leAt b 0 1
  let d : GthDesc :=
    { kind := kind, table := leAt b 4 2, fmt := leAt b 6 1, hopMask := leAt b 7 1, source := leAt b 8 8,
      first := leAt b 0x10 4, count := leAt b 0x14 4, slots := leAt b 0x18 4, tile := leAt b 0x1C 1,
      rowElems := leAt b 0x1E 2, offset := leAt b 0x20 4, mapOffset := leAt b 0x24 4, limit := leAt b 0x28 4,
      pitch := leAt b 0x2C 2, colFirst := leAt b 0x2E 2, manifest := leAt b 0x30 8,
      knot := (sig.2.getD (0, 0)).1, amount := (sig.2.getD (0, 0)).2 }
  let own := leAt b 1 1 == g && leAt b 2 2 == gen
  let hops := if kind = 0 then 1 ≤ d.hopMask && d.hopMask < 128 else d.hopMask == 0
  let counts := 1 ≤ d.count && d.count ≤ (if kind = 1 then 1048576 else 65536)
  let slots := if kind = 0 then 1 ≤ d.slots && d.slots ≤ 2 ^ 24 else d.slots == 0
  let common := own && kind ≤ (if scatter then 2 else 1) && d.table < 2 ^ 12 && d.fmt ≤ 2 && hops && d.source < 2 ^ 48 &&
    (kind == 0 || d.source % 8 == 0) && counts && slots && d.tile < 128 && leAt b 0x1D 1 == 0 && 1 ≤ d.rowElems &&
    d.rowElems ≤ 4096 && d.offset % 64 == 0 && 1 ≤ d.pitch && d.pitch ≤ 1024 &&
    d.rowElems * rowFmtSize d.fmt ≤ 64 * d.pitch && d.colFirst + d.rowElems ≤ 4096 && sig.1 && sig.2.isSome && d.amount != 0
  let rest := if scatter then d.mapOffset == 0 && d.manifest == 0
    else (d.mapOffset % 64 == 0 || d.mapOffset == 0xFFFFFFFF) && 1 ≤ d.limit && d.limit ≤ 65536 && d.manifest < 2 ^ 48 &&
      d.manifest % 8 == 0
  if common && rest then some d else none

/-- The admitted records or entries in ascending position (R225, R231): a row id, or none where invalid or padding.
Assumption: 49 (DESIGN CHOICE). -/
def State.admitted (s : State) (g : Nat) (d : GthDesc) : State × Acc × List (Option Nat) :=
  if d.kind = 0 then
    let q := s.readVa g (d.source + 16 * (d.first * d.slots)) (16 * (d.count * d.slots))
    let recs := (List.range (if q.2.1 = .ok then d.count * d.slots else 0)).map fun i => leAt q.2.2 (16 * i) 8
    let adm := recs.filter fun w => d.hopMask.testBit (fld w 54 3)
    (q.1, q.2.1, adm.map fun w => if bit w 57 then some (fld w 0 48) else none)
  else
    let q := s.readVa g (d.source + 8 * d.first) (8 * d.count)
    let es := (List.range (if q.2.1 = .ok then d.count else 0)).map fun i => leAt q.2.2 (8 * i) 8
    (q.1, q.2.1, es.map fun w => if d.kind = 1 && bit w 63 then none else some (fld w 0 48))

/-! ## Gathering -/

/-- The walk of R226: the unique rows in order, the map, and the valid records; each record's unique index. -/
def uniqueWalk (l : List (Option Nat)) : List Nat × List Nat × Nat :=
  l.foldl (fun (x : List Nat × List Nat × Nat) r =>
    match r with
    | none => (x.1, x.2.1 ++ [0xFFFFFFFF], x.2.2)
    | some v =>
      match x.1.findIdx? (· == v) with
      | some u => (x.1, x.2.1 ++ [u], x.2.2 + 1)
      | none => (x.1 ++ [v], x.2.1 ++ [x.1.length], x.2.2 + 1)) ([], [], 0)

/-- The position at which a walk needs one unique index too many (R226). -/
def overflowAt (l : List (Option Nat)) (limit : Nat) : Nat :=
  ((List.range l.length).find? fun n => (uniqueWalk (l.take (n + 1))).1.length > limit).getD 0

/-- The descriptor of the version the grove's open pinned (R227, R259). -/
def State.pinnedDesc (s : State) (g t : Nat) : Option TableDesc :=
  (s.tableIx g t).bind fun ix => (tget (tgetD s.emb.pinned g []) t).bind (s.tableSlot ix).version

/-- The state with the unique row `u` of a command changed. -/
def State.modRow (s : State) (q i u : Nat) (f : RowFetch → RowFetch) : State :=
  s.modCmd q i fun c => { c with rows := c.rows.modify u f }

/-- Converts stored elements to out_format and counts what conversion saturates and flushes (R227, R172). -/
def State.convertRow (s : State) (die stored out : Nat) (bs : List Byte) : State × List Byte :=
  if stored = out then (s, bs)
  else
    let es := elemSize stored
    let cs := (List.range (bs.length / es)).map fun i =>
      (storedFmt out).encode 0 ((storedFmt stored).decode 0 (leAt bs (es * i) es))
    let sat := (cs.map (·.sat)).sum
    let fl := (cs.map (·.flush)).sum
    let s := if sat = 0 then s else s.bump .GTH_CONV_SAT [die] sat
    let s := if fl = 0 then s else s.bump .GTH_CONV_FLUSH [die] fl
    (s, cs.flatMap fun c => toLe (elemSize out) c.code)

/-- A gather whose every row is written signals and completes (R228). -/
def State.gatherEnd (s : State) (q i : Nat) : State :=
  match s.gthCmd q i with
  | none => s
  | some c =>
    match c.desc with
    | none => s
    | some d =>
      if c.st == .running && c.op == 1 && c.rows.all (·.st == .done) then
        (s.engineSignal d.knot d.amount).endGth q i .ok (c.rows.length + c.count * 2 ^ 32)
      else s

/-- A row has arrived whole: it is converted and written into the block (R227). -/
def State.rowArrived (s : State) (q i u stored : Nat) (bs : List Byte) : State :=
  match (s.gthCmd q i).bind (·.desc) with
  | none => s
  | some d =>
    match s.convertRow (dieOfQueue q) stored d.fmt bs with
    | (s, out) =>
      (((s.spxWrite d.tile (d.offset + u * d.pitch * 64) out).bump .GTH_ROWS [dieOfQueue q]).modRow q i u fun r =>
        { r with st := .done }).gatherEnd q i

/-- Sends a ROW_READ (R240, R259, R260). -/
def State.sendRowRead (s : State) (c : GthCmd) (d : GthDesc) (version device req r : Nat) : State :=
  let m : RowRead := { request := req, table := d.table, version := version, row := r, first := d.colFirst,
                       count := d.rowElems, step := c.step }
  s.sendMsg (dieOfQueue c.queue) false device 0x12 c.grove (readPayload m)

/-- The next gather request number of a die. -/
def State.gthRequest (s : State) (die : Nat) : Nat × State :=
  let n := s.gth.nextRequest.getD die 0
  (n, s.modGth fun x => { x with nextRequest := x.nextRequest.set die ((n + 1) % 2 ^ 32) })

/-- Asks for the rows of a gather not yet asked for, in ascending unique index, each against its grove's gather budget
(R226, R227, R243). -/
def State.issueRows (s : State) (q i : Nat) : Nat → State
  | 0 => s
  | fuel + 1 =>
    match s.gthCmd q i with
    | none => s
    | some c =>
      match c.desc, c.rows.findIdx? (·.st == .waiting) with
      | some d, some u =>
        let die := dieOfQueue q
        let r := ((c.rows[u]?).map (·.row)).getD 0
        let bytes := d.rowElems * ((s.pinnedDesc c.grove d.table).map fun t => elemSize t.format).getD 4
        (match s.spend die c.grove 2 ((bytes + 63) / 64) c.held with
         | (s, false) => s.modCmd q i fun c => { c with held := true }
         | (s, true) =>
           let s := s.modCmd q i fun c => { c with held := false }
           (match s.lookup die c.grove d.table r c.step with
            | (s, .here _ p) =>
              let slot := match p with
                | .bucket => none
                | .slot k => some k
              (s.modRow q i u fun x => { x with st := .here slot }).issueRows q i fuel
            | (s, .there dev) =>
              let v := ((s.pinnedDesc c.grove d.table).map (·.version)).getD 0
              let n := s.gthRequest die
              let s := n.2.modRow q i u fun x => { x with st := .remote dev n.1 v 0 [] false }
              ((s.bump .GTH_REMOTE_READ [die]).sendRowRead c d v dev n.1 r).issueRows q i fuel
            | (s, .fault code) => s.lookupFault c code d.table r
            | (s, .mem _) => s.memFaultCmd c))
      | _, _ => s.gatherEnd q i

/-- The map and manifest of a gather (R226). -/
def State.writeMaps (s : State) (g : Nat) (d : GthDesc) (rows map : List Nat) : State × Acc :=
  let s := if d.mapOffset = 0xFFFFFFFF then s else s.spxWrite d.tile d.mapOffset (map.flatMap (toLe 4))
  if d.manifest = 0 then (s, .ok) else s.writeVa g d.manifest (rows.flatMap (toLe 8))

/-- A gather whose block and map lie in the scratchpad reads its rows (R225 to R227). -/
def State.gatherWalk (s : State) (c : GthCmd) (d : GthDesc) : State :=
  match s.admitted c.grove d with
  | (s, .ok, l) =>
    if d.mapOffset ≠ 0xFFFFFFFF && d.mapOffset + 4 * l.length > scratchSize d.tile then
      (s.gthRecord c.queue c.tag 0x05 c.grove 0).endGth c.queue c.index .badCommand 0
    else
      let w := uniqueWalk l
      if w.1.length > d.limit then s.gthFault c 0x07 (overflowAt l d.limit)
      else
        let dup := w.2.2 - w.1.length
        let s := if dup = 0 then s else s.bump .GTH_DEDUP [dieOfQueue c.queue] dup
        (match s.writeMaps c.grove d w.1 w.2.1 with
         | (s, .ok) =>
           (s.modCmd c.queue c.index fun c => { c with
             st := .running, desc := some d, count := w.2.2, rows := w.1.map fun r => { row := r } }).issueRows c.queue
             c.index (w.1.length + 1)
         | (s, _) => s.memFaultCmd c)
  | (s, _, _) => s.memFaultCmd c

/-- A gather starts (R224): the extent of its block, and of an index list's map, is known before a record is read. -/
def State.gatherStart (s : State) (c : GthCmd) (d : GthDesc) : State :=
  let size := scratchSize d.tile
  if d.offset + d.limit * d.pitch * 64 > size ||
      (d.kind = 1 && d.mapOffset ≠ 0xFFFFFFFF && d.mapOffset + 4 * d.count > size) then
    (s.gthRecord c.queue c.tag 0x05 c.grove 0).endGth c.queue c.index .badCommand 0
  else s.gatherWalk c d

/-- A row read from this device's own memory returns (R227). -/
def State.localReturn (s : State) (q i u : Nat) : State :=
  match s.gthCmd q i with
  | none => s
  | some c =>
    match c.desc, c.rows[u]? with
    | some d, some x =>
      (match x.st, s.pinnedDesc c.grove d.table with
       | .here slot, some t =>
         if s.pendingIn c.grove d.table t.version x.row then s
         else
           let p := match slot with
             | none => Place.bucket
             | some k => .slot k
           (match s.readRow c.grove d.table t x.row p d.colFirst d.rowElems with
            | (s, .ok, some b) => s.rowArrived q i u t.format b
            | (s, .ok, none) => s.lookupFault c 0x06 d.table x.row
            | (s, _, _) => s.memFaultCmd c)
       | _, _ => s)
    | _, _ => s

/-- A local row read returns from the memory controller. -/
def execLocalRowReadReturn (queue index unique : Nat) (s : State) : Host.Outcome State Fault Refusal :=
  .next (s.onDie fun s => s.localReturn queue index unique)

/-- The gather and unique row a die's ROW_READ belongs to. -/
def State.findRow (s : State) (die req : Nat) : Option (GthCmd × Nat × RowFetch) :=
  (s.gth.cmds.filter fun c => dieOfQueue c.queue == die).findSome? fun c =>
    (c.rows.zipIdx.find? fun r => match r.1.st with
      | .remote _ n _ _ _ _ => n == req
      | _ => false).map fun r => (c, r.2, r.1)

/-- The parts of an answer, ascending offset without gap, as one row; none while one is missing (R241). -/
def joinParts : List (Nat × List Byte) → Nat → List Byte
  | [], _ => []
  | (o, b) :: t, at_ => if o = at_ then b ++ joinParts t (at_ + b.length) else []

/-- A row data message arrives (R241): the row is written once every message of the answer is in. -/
def State.rowData (s : State) (die : Nat) (m : RowData) : State :=
  match s.findRow die m.request with
  | none => s
  | some (c, u, x) =>
    match c.desc, x.st with
    | some d, .remote dev req v tries parts ended =>
      if m.version ≠ v then s
      else
        let parts := tset parts m.offset m.data
        let ended := ended || m.last
        let all := joinParts parts 0
        let stored := ((s.pinnedDesc c.grove d.table).map (·.format)).getD 0
        if ended && all.length == d.rowElems * elemSize stored then s.rowArrived c.queue c.index u stored all
        else s.modRow c.queue c.index u fun x => { x with st := .remote dev req v tries parts ended }
    | _, _ => s

/-- A row data message arrives. -/
def execRowDataReceive (die : Nat) (d : RowData) (s : State) : Host.Outcome State Fault Refusal :=
  .next (s.onDie fun s => s.rowData die d)

/-! ## The merge buffer (R233 to R239) -/

/-- The key of a merge entry: entries of a grove and die rise with table, row and segment. -/
def mergeKey (die g t r seg : Nat) : Nat := (((die * 16 + g) * 2 ^ 12 + t) * 2 ^ 48 + r) * 64 + seg

/-- The die and grove of a merge key, as 16 * die + grove. -/
def mergeOwner (k : Nat) : Nat := k / 2 ^ 66

/-- Merge entries a grove holds on a die. -/
def State.mergeUsed (s : State) (die g : Nat) : Nat := (s.gth.merge.filter fun p => mergeOwner p.1 == 16 * die + g).length

/-- A grove's merge quota on a die (R245). Assumption: 49 (DESIGN CHOICE). -/
def State.mergeQuota (s : State) (die g : Nat) : Nat := s.regFld .GTH_MERGE_QUOTA [die, g] 0 17

/-- Merges the elements of one segment of a contribution (R233): (element of the segment, FP32 code). -/
def mergeInto (e : MergeEntry) (es : List (Nat × Nat)) : MergeEntry :=
  es.foldl (fun e p =>
    if e.mask.testBit p.1 then { e with v := e.v.modify p.1 fun x => f32Add x p.2 }
    else { e with v := e.v.set p.1 p.2, mask := e.mask + 2 ^ p.1 }) e

/-- The elements of segment `seg` that gradient row x carries, as FP32 codes (R231). -/
def State.gradElems (s : State) (d : GthDesc) (x seg : Nat) : List (Nat × Nat) :=
  let es := rowFmtSize d.fmt
  let b := s.spxRead d.tile (d.offset + x * d.pitch * 64) (d.rowElems * es)
  ((List.range 64).filter fun k => d.colFirst ≤ 64 * seg + k && 64 * seg + k < d.colFirst + d.rowElems).map fun k =>
    (k, ((storedFmt d.fmt).decode 0 (leAt b ((64 * seg + k - d.colFirst) * es) es)).f32)

/-- Ends a close once every accumulate of its step from this die is acknowledged (R235). -/
def State.closeEnd (s : State) (die g : Nat) : State :=
  match s.gth.cmds.find? fun c => dieOfQueue c.queue == die && c.grove == g && c.st == .acks with
  | none => s
  | some c =>
    if s.gth.accs.any fun p => p.1 / 2 ^ 32 == die && p.2.grove == g && p.2.msg.step == c.step then s
    else
      let s := if c.signal.2 = 0 then s else s.engineSignal c.signal.1 c.signal.2
      s.endGth c.queue c.index .ok c.out

/-- Ends a command whose accumulate was refused, with the records that the code calls for (R259, R263, R273). -/
def State.accRefused (s : State) (die g code t r : Nat) : State :=
  let c := s.gth.cmds.find? fun c => dieOfQueue c.queue == die && c.grove == g && (c.st == .sending || c.st == .acks)
  let q := (c.map (·.queue)).getD (64 * die)
  let tag := (c.map (·.tag)).getD 0
  if code = 0x0E then s.embRecord die 0x0E g t r
  else
    let s := if code = 0x0F then s.gthRecord q tag 0x0A g 0
      else if code = 0x06 || code = 0x04 || code = 0x05 || code = 0x07 then s.embRecord die code g t r
      else s
    let s := s.stepFault g
    match c with
    | some c => s.endGth c.queue c.index .fault 0
    | none => s

/-- Sends the grove's first merge entry as an accumulate, or holds it for the scatter budget: the flag says it was sent
(R234 to R236, R243). -/
def State.sendEntry (s : State) (c : GthCmd) (key : Nat) (e : MergeEntry) : State × Bool :=
  let die := dieOfQueue c.queue
  let seg := key % 64
  let r := key / 64 % 2 ^ 48
  let t := key / 2 ^ 54 % 2 ^ 12
  let freed := fun (s : State) => s.modGth fun x => { x with merge := terase x.merge key }
  match s.pinnedDesc c.grove t with
  | none => (s.lookupFault c (if (s.tableIx c.grove t).isNone then 0x04 else 0x05) t r, false)
  | some d =>
    match s.homeOf c.grove t d r with
    | (s, .ok, home, _) =>
      let m := fun (n : Nat) => ({ request := n, step := c.step, table := t, version := d.version, row := r, segment := seg,
                                   mask := e.mask, values := e.v } : RowAcc)
      if !(s.grove c.grove).members.testBit home then (s.lookupFault c 0x07 t r, false)
      else if home = s.devnum then
        let n := s.gthRequest die
        let s := (freed n.2).bump .GTH_ACC_SENT [die]
        (match s.ownAcc die ⟨s.devnum, die, c.grove, c.gen⟩ (m n.1) with
         | (s, .status _) => (s, true)
         | (s, .neg code) => (s.accRefused die c.grove code t r, code == 0x0E)
         | (s, .forward dev) =>
           let x : SentAcc := { dest := dev, grove := c.grove, msg := m n.1 }
           ((s.modGth fun y => { y with accs := tset y.accs (2 ^ 32 * die + n.1) x }).sendMsg die false dev 0x20 c.grove
             (accPayload (m n.1)), true))
      else
        match s.spend die c.grove 3 (((accPayload (m 0)).length + 63) / 64) c.held with
        | (s, false) => (s.modCmd c.queue c.index fun c => { c with held := true }, false)
        | (s, true) =>
          let n := s.gthRequest die
          let x : SentAcc := { dest := home, grove := c.grove, msg := m n.1 }
          let s := (freed n.2).bump .GTH_ACC_SENT [die]
          let s := s.modCmd c.queue c.index fun c => { c with held := false }
          ((s.modGth fun y => { y with accs := tset y.accs (2 ^ 32 * die + n.1) x }).sendMsg die false home 0x20 c.grove
            (accPayload (m n.1)), true)
    | (s, _, _, _) => (s.memFaultCmd c, false)

/-- The segments a contribution touches, ascending. -/
def segmentsOf (d : GthDesc) : List Nat :=
  (List.range 64).filter fun m => d.colFirst < 64 * (m + 1) && 64 * m < d.colFirst + d.rowElems

/-- Runs a scatter or a close until it ends or its next request is held (R231 to R235). -/
def State.gthRun (s : State) (q i : Nat) : Nat → State
  | 0 => s
  | fuel + 1 =>
    match s.gthCmd q i with
    | none => s
    | some c =>
      let die := dieOfQueue q
      if c.st == .sending then
        (match s.gth.merge.find? fun p => mergeOwner p.1 == 16 * die + c.grove with
         | none =>
           if c.op = 3 then (s.modCmd q i fun c => { c with st := .acks }).closeEnd die c.grove
           else (s.modCmd q i fun c => { c with st := .running }).gthRun q i fuel
         | some p =>
           (match s.sendEntry c p.1 p.2 with
            | (s, true) => (if c.op = 3 then s.modCmd q i fun c => { c with out := c.out + 1 } else s).gthRun q i fuel
            | (s, false) => s))
      else if c.st == .running && c.op == 2 then
        (match c.desc, c.todo with
         | some d, (x, r, seg) :: rest =>
           let key := mergeKey die c.grove d.table r seg
           let used := s.mergeUsed die c.grove
           if (tget s.gth.merge key).isNone && used ≥ s.mergeQuota die c.grove && used > 0 then
             ((s.bump .GTH_MERGE_SPILL [die]).modCmd q i fun c => { c with st := .sending, out := c.out + 1 }).gthRun q i fuel
           else
             let e := (tget s.gth.merge key).getD { step := c.step, mask := 0, v := List.replicate 64 0 }
             let e := mergeInto e (s.gradElems d x seg)
             let new := (segmentsOf d).head? == some seg
             let s := s.modGth fun y => { y with merge := tset y.merge key e }
             let s := s.modGth fun y => { y with
               high := tset y.high (16 * die + c.grove) (max (tgetD y.high (16 * die + c.grove) 0) (s.mergeUsed die c.grove)) }
             let s := if new then s.bump .GTH_CONTRIB [die] else s
             (s.modCmd q i fun c => { c with todo := rest, count := c.count + b2n new }).gthRun q i fuel
         | some d, [] =>
           let s := s.modGth fun y => { y with seqDone := tset y.seqDone (16 * die + c.grove) (d.limit + 1) }
           (s.engineSignal d.knot d.amount).endGth q i .ok (c.count + c.out * 2 ^ 32)
         | none, _ => s)
      else s

/-- Steps a scatter or close can take at most. -/
def State.gthFuel (s : State) (q i : Nat) : Nat :=
  4 * ((s.gthCmd q i).map (·.todo.length) |>.getD 0) + 2 * s.gth.merge.length + 8

/-- A scatter starts (R230 to R232): refused, faulted for its seq, left waiting for its turn, or its walk begins.
Assumption: 49 (DESIGN CHOICE). -/
def State.scatterStart (s : State) (c : GthCmd) (d : GthDesc) (spxUe : Option Nat) : State :=
  let die := dieOfQueue c.queue
  let key := 16 * die + c.grove
  let done := tgetD s.gth.seqDone key 0
  let busy := s.gth.cmds.find? fun x =>
    dieOfQueue x.queue == die && x.grove == c.grove && x.op == 2 && x.st != .waiting
  let limit := (tgetD s.gth.closes key []).find? fun x => x.1 == c.step
  let full := match limit with
    | some x => d.limit ≥ x.2
    | none => false
  if d.offset + (if d.kind = 0 then 0 else d.count) * d.pitch * 64 > scratchSize d.tile then
    (s.gthRecord c.queue c.tag 0x05 c.grove 0).endGth c.queue c.index .badCommand 0
  else if d.limit < done || (busy.bind (·.desc)).map (·.limit) == some d.limit || full then s.gthFault c 0x06 0
  else if d.limit > done || busy.isSome then s
  else
    match s.admitted c.grove d with
    | (s, .ok, l) =>
      if d.offset + l.length * d.pitch * 64 > scratchSize d.tile then
        (s.gthRecord c.queue c.tag 0x05 c.grove 0).endGth c.queue c.index .badCommand 0
      else
        match spxUe with
        | some off =>
          let s := (s.spxEcc d.tile off true).record .til .contained (dieOfTile d.tile) 0x07 (some c.grove)
            (0x3FF + off % 2 ^ 32 * 2 ^ 10)
          (s.heatOn 1024 (s.tileOwner d.tile).toList).memFaultCmd c
        | none =>
          let walk := (l.zipIdx.reverse.filterMap fun p => p.1.map fun r => (p.2, r))
          let todo := walk.flatMap fun w => (segmentsOf d).map fun m => (w.1, w.2, m)
          let s := s.modCmd c.queue c.index fun c => { c with st := .running, desc := some d, todo := todo }
          s.gthRun c.queue c.index (s.gthFuel c.queue c.index)
    | (s, _, _) => s.memFaultCmd c

/-- A close starts once its step's scatters have completed (R235). -/
def State.closeStart (s : State) (c : GthCmd) : State :=
  if tgetD s.gth.seqDone (16 * dieOfQueue c.queue + c.grove) 0 < c.closeCount then s
  else
    let s := s.modCmd c.queue c.index fun c => { c with st := .sending }
    s.gthRun c.queue c.index (s.gthFuel c.queue c.index)

/-- A waiting command starts once its wait is satisfied and its step runs (R222): its descriptor is read and checked
(R224). -/
def State.gthStart (s : State) (q i : Nat) (spxUe : Option Nat) : State :=
  match s.gthCmd q i with
  | none => s
  | some c =>
    let gs := s.step_ c.grove
    let waits := match c.wait with
      | some w => !s.waitOk [] w
      | none => false
    if c.st != .waiting || waits || gs.st != .running || gs.step != c.step || !s.islandsRun then s
    else if c.op = 3 then s.closeStart c
    else
      let va := ((s.cmd q i).map fun x => x.arg 8 6).getD 0
      match s.readVa c.grove va 64 with
      | (s, .ok, b) =>
        (match parseGth (c.op == 2) c.grove c.gen b with
         | none => (s.gthRecord q c.tag 0x02 c.grove 0).endGth q i .badCommand 0
         | some d =>
           if dieOfTile d.tile != dieOfQueue q || !s.tileUsable c.grove d.tile then
             (s.gthRecord q c.tag 0x04 c.grove 0).endGth q i .badCommand 0
           else if c.op = 1 then s.gatherStart c d
           else s.scatterStart c d spxUe)
      | (s, .page, _) => (s.gthRecord q c.tag 0x02 c.grove 0).endGth q i .badCommand 0
      | (s, _, _) => s.memFaultCmd c

/-- A waiting gather or scatter command starts. -/
def execGthCommandStart (queue index : Nat) (spxUe : Option Nat) (s : State) : Host.Outcome State Fault Refusal :=
  .next (s.onDie fun s => s.gthStart queue index spxUe)

/-- SCATTER_CLOSE is checked, passes into the pool, and starts if it can (R221, R235). -/
def State.scatterClose (s : State) (q i : Nat) : State :=
  match s.ofRow q i 2 3 with
  | none => s
  | some c =>
    let s := s.start q i
    let n := c.arg 8 4
    let sig := parseEntry (c.arg 0x10 8)
    let step := c.arg 0x18 8
    let gs := s.step_ c.grove
    if !c.restZero [(8, 4), (0x10, 8), (0x18, 8)] || n = 0 || n > 65536 || step ≥ 2 ^ 48 || !sig.1 then s.refuseGth q i c 0x01
    else if step ≠ gs.step && step ≠ stepSucc gs.step then s.refuseGth q i c 0x03
    else
      let x : GthCmd := { queue := q, index := i, op := 3, grove := c.grove, gen := c.gen, step := step, tag := c.tag,
                          wait := none, closeCount := n, signal := sig.2.getD (0, 0) }
      let key := 16 * dieOfQueue q + c.grove
      (s.modGth fun y => { y with
        cmds := y.cmds ++ [x], closes := tmod y.closes key [] fun l => l ++ [(step, n)] }).gthStart q i none

/-- The SCATTER_CLOSE command. -/
def execScatterClose (queue index : Nat) (s : State) : Host.Outcome State Fault Refusal :=
  .next (s.onDie fun s => s.scatterClose queue index)

/-- The acknowledgement of an accumulate (R235). -/
def State.accAck (s : State) (die request : Nat) : State :=
  match tget s.gth.accs (2 ^ 32 * die + request) with
  | none => s
  | some x => (s.modGth fun y => { y with accs := terase y.accs (2 ^ 32 * die + request) }).closeEnd die x.grove

/-- The acknowledgement of an accumulate arrives; a repeat or a late answer ends it too (R242, R479). -/
def execAccumulateAckReceive (die request status : Nat) (s : State) : Host.Outcome State Fault Refusal :=
  let _ := status
  .next (s.onDie fun s => s.accAck die request)

/-- A row request is refused (R216, R259, R263, R273, R432). -/
def State.negative (s : State) (die : Nat) (op : NegOp) (request code : Nat) : State :=
  match op with
  | .adjacency => s.adjRefused die request 0x0D code
  | .row =>
    (match s.findRow die request with
     | none => s
     | some (c, _, x) =>
       let t := (c.desc.map (·.table)).getD 0
       if code = 0x0F then s.gthFault c 0x0A 0
       else if code = 0x0E || code = 0x06 || code = 0x04 then s.lookupFault c code t x.row
       else s.memFaultCmd c)
  | .accumulate =>
    match tget s.gth.accs (2 ^ 32 * die + request) with
    | none => s
    | some x =>
      ((s.modGth fun y => { y with accs := terase y.accs (2 ^ 32 * die + request) }).accRefused die x.grove code x.msg.table
        x.msg.row).closeEnd die x.grove

/-- A negative response arrives. -/
def execNegativeResponseReceive (die : Nat) (op : NegOp) (request code : Nat) (s : State) :
    Host.Outcome State Fault Refusal :=
  .next (s.onDie fun s => s.negative die op request code)

/-- A row request is unanswered for 50 µs: sent again at most three times, then a fault (R241, R242). -/
def State.gthTimeout (s : State) (die : Nat) (accumulate : Bool) (request : Nat) : State :=
  if accumulate then
    let key := 2 ^ 32 * die + request
    match tget s.gth.accs key with
    | none => s
    | some x =>
      if x.tries < 3 then
        (((s.modGth fun y => { y with accs := tset y.accs key { x with tries := x.tries + 1 } }).bump .GTH_REMOTE_RETRY
          [die]).sendMsg die false x.dest 0x20 x.grove (accPayload x.msg))
      else
        let s := s.modGth fun y => { y with accs := terase y.accs key }
        (match s.gth.cmds.find? fun c => dieOfQueue c.queue == die && c.grove == x.grove && c.op ≥ 2 && c.st != .waiting with
         | some c => s.gthFault c 0x08 0
         | none => (s.gthRecord (64 * die) 0 0x08 x.grove 0).stepFault x.grove)
  else
    match s.findRow die request with
    | none => s
    | some (c, u, x) =>
      match c.desc, x.st with
      | some d, .remote dev req v tries _ _ =>
        if tries < 3 then
          ((s.modRow c.queue c.index u fun x => { x with st := .remote dev req v (tries + 1) [] false }).bump .GTH_REMOTE_RETRY
            [die]).sendRowRead c d v dev req x.row
        else s.gthFault c 0x08 u
      | _, _ => s

/-- A row request is unanswered. -/
def execGthRemoteTimeout (die : Nat) (accumulate : Bool) (request : Nat) (s : State) : Host.Outcome State Fault Refusal :=
  .next (s.onDie fun s => s.gthTimeout die accumulate request)

/-- A merge quota write (R239). -/
def State.writeMergeQuota (s : State) (die g : Nat) (v : Word) : State :=
  let sum := ((List.range 16).map fun h => if h = g then wfld v 0 17 else s.mergeQuota die h).sum
  if s.mergeUsed die g > 0 || sum > 65536 then s.gthRecord (64 * die) 0 0x09 g 0
  else s.softWrite .GTH_MERGE_QUOTA [die, g] v

/-- A merge quota write. -/
def execGthMergeQuotaWrite (die grove : Nat) (value : Word) (s : State) : Host.Outcome State Fault Refusal :=
  .next (s.onDie fun s => s.writeMergeQuota die grove value)

/-! ## Steps, budgets, regroves -/

/-- A budget period start takes up the commands its grove's budgets hold on a die (R81, R243). -/
def State.retryGather (s : State) (die g : Nat) : State :=
  s.each (s.gth.cmds.filter fun c => dieOfQueue c.queue == die && c.grove == g && c.held) fun s c =>
    if (s.step_ g).st != .running then s
    else if c.op = 1 then s.issueRows c.queue c.index (c.rows.length + 1)
    else s.gthRun c.queue c.index (s.gthFuel c.queue c.index)

/-- The open of a step: the high water restarts, and the closes of earlier steps are forgotten (R232, R246). -/
def State.openGather (s : State) (g n : Nat) : State :=
  s.each [0, 1] fun s d =>
    let k := 16 * d + g
    s.modGth fun x => { x with
      high := tset x.high k (s.mergeUsed d g)
      seqDone := terase x.seqDone k
      closes := tmod x.closes k [] fun l => l.filter fun c => c.1 == n || serialAfter c.1 n 48 }

/-- A die holds a merge entry or an unacknowledged accumulate of the grove: the clean report waits (R237). -/
def State.gatherBusy (s : State) (die g : Nat) : Bool :=
  s.mergeUsed die g > 0 || s.gth.accs.any fun p => p.1 / 2 ^ 32 == die && p.2.grove == g

/-- Accumulates of the grove have no answer yet: a voided step has not quiesced (R238). -/
def State.accsOpen (s : State) (g : Nat) : Bool := s.gth.accs.any fun p => p.2.grove == g

/-- A void of step n, once quiesced (R238): merge entries are discarded, its commands complete VOIDED. -/
def State.voidGather (s : State) (g n : Nat) : State :=
  let mine := fun (c : GthCmd) => c.grove == g && c.step == n
  let gone := s.gth.cmds.filter mine
  let s := s.modGth fun x => { x with
    cmds := x.cmds.filter fun c => !mine c
    merge := x.merge.filter fun p => !(mergeOwner p.1 % 16 == g && p.2.step == n)
    seqDone := x.seqDone.filter fun p => p.1 % 16 != g
    closes := tmap x.closes fun k l => if k % 16 = g then l.filter fun c => c.1 != n else l }
  s.each gone fun s c => s.complete c.queue c.index .voided 0

/-- Discards what the gather units hold of a grove (R66, R238). -/
def State.dropGather (s : State) (g : Nat) : State :=
  s.modGth fun x => { x with
    cmds := x.cmds.filter fun c => c.grove != g
    merge := x.merge.filter fun p => mergeOwner p.1 % 16 != g
    seqDone := x.seqDone.filter fun p => p.1 % 16 != g
    closes := x.closes.filter fun p => p.1 % 16 != g
    high := x.high.filter fun p => p.1 % 16 != g
    accs := x.accs.filter fun p => p.2.grove != g }

end Sys2Proof.Machine
end

