-- ==== Sys2Proof/Machine/Vector.lean ====
section
/-! DEFINITION. The stream vector unit (ch. 10): element-wise programmes with row reductions, and segment operations. -/
namespace Sys2Proof.Machine

/-! ## Instructions (R324 to R327) -/

/-- The fields of an instruction word. -/
def parseVInstr (w : Nat) : VInstr :=
  { op := fld w 0 8, a := fld w 8 6, b := fld w 14 6, c := fld w 20 6, cond := fld w 26 3, dst := fld w 32 4,
    store := bit w 36, histStream := fld w 40 8, hist := bit w 48,
    reserved := fld w 29 3 != 0 || fld w 37 3 != 0 || fld w 49 15 != 0 }

/-- Operands an opcode uses, 0 for an invalid opcode (R326). -/
def opArity (op : Nat) : Nat :=
  if op = 0x04 || op = 0x08 then 3
  else if (1 ≤ op && op ≤ 3) || (5 ≤ op && op ≤ 7) then 2
  else if 9 ≤ op && op ≤ 0x12 then 1
  else 0

/-- A row reduction. -/
def isReduction (op : Nat) : Bool := 0x10 ≤ op && op ≤ 0x12

/-- A number rounded to the compute format: width 0 FP32, 1 BF16 (R155). -/
def rnd (width : Nat) (x : Num) : Num := if width = 0 then ofF32 x.f32 else ofBf16 x.bf16

/-- A comparison's condition holds (R177, R325); a NaN makes only not-equal true. -/
def condHolds (cond : Nat) (a b : Num) : Bool :=
  match a.cmp b with
  | none => cond == 1
  | some c =>
    if cond = 0 then c == 0 else if cond = 1 then c != 0 else if cond = 2 then c < 0
    else if cond = 3 then c ≤ 0 else if cond = 4 then c > 0 else c ≥ 0

/-- The number zero. -/
def Num.zero : Num := .fin false 0 0

/-- The result of an opcode in a width, with one rounding (R326). -/
def vecOp (width op cond : Nat) (a b c : Num) : Num :=
  let native := fun (f : Nat → Nat) => rnd width (ofF32 (f a.f32))
  if op = 0x01 then rnd width (a.add b)
  else if op = 0x02 then rnd width (a.add b.neg)
  else if op = 0x03 then rnd width (a.mul b)
  else if op = 0x04 then rnd width ((a.mul b).add c)
  else if op = 0x05 then Num.min a b
  else if op = 0x06 then Num.max a b
  else if op = 0x07 then (if condHolds cond a b then .fin false 1 0 else Num.zero)
  else if op = 0x08 then (if condHolds 1 c Num.zero then a else b)
  else if op = 0x09 then a.abs
  else if op = 0x0A then a.neg
  else if op = 0x0B then native fnExp2
  else if op = 0x0C then native fnLog2
  else if op = 0x0D then native fnRecip
  else if op = 0x0E then native fnRsqrt
  else a

/-- The combination a reduction applies (R330). -/
def reduceOp (op : Nat) (a b : Num) : Num :=
  if op = 0x10 then rnd 0 (a.add b) else if op = 0x11 then Num.max a b else Num.min a b

/-- One level of the pairwise tree over partials. -/
def reduceLevel (op w : Nat) (p : List Num) : List Num :=
  p.zipIdx.map fun x => if x.2 < w then
    (match p[x.2 + w]? with
     | some y => reduceOp op x.1 y
     | none => x.1) else x.1

/-- The result of a row reduction (R330): 128 partials in ascending element order, then the fixed tree. -/
def rowReduce (op : Nat) (xs : List Num) : Num :=
  let p := xs.zipIdx.foldl (fun (p : List Num) x =>
    if x.2 < 128 then p ++ [x.1] else p.modify (x.2 % 128) fun y => reduceOp op y x.1) []
  ([64, 32, 16, 8, 4, 2, 1].foldl (fun p w => reduceLevel op w p) p).headD Num.zero

/-! ## Streams (R322, R323) -/

/-- A stream entry. -/
structure VStream where
  offset : Nat
  pitch : Nat
  scaleOffset : Nat
  scalePitch : Nat
  format : Nat
  flags : Nat
  deriving DecidableEq, Repr

/-- The stream is an output. -/
def VStream.output (x : VStream) : Bool := bit x.flags 0

/-- The stream supplies element 0 of its row to every lane. -/
def VStream.bcast (x : VStream) : Bool := bit x.flags 1

/-- The value format of a format field 0 to 3. -/
def fmtOf (f : Nat) : Fmt := if f = 0 then .fp32 else if f = 1 then .bf16 else if f = 2 then .l16 else .l8

/-- An element-wise programme (R322). -/
structure VProg where
  width : Nat
  rows : Nat
  vl : Nat
  constants : List Nat
  streams : List VStream
  instrs : List VInstr
  deriving DecidableEq, Repr

/-- A stream entry at a descriptor offset. -/
def parseVStream (b : List Byte) (o : Nat) : VStream :=
  { offset := leAt b o 4, pitch := leAt b (o + 4) 4, scaleOffset := leAt b (o + 8) 4, scalePitch := leAt b (o + 12) 2,
    format := leAt b (o + 14) 1, flags := leAt b (o + 15) 1 }

/-- The programme a descriptor holds. -/
def parseVProg (b : List Byte) : VProg :=
  let sc := leAt b 5 1
  { width := leAt b 4 1, rows := leAt b 8 4, vl := leAt b 12 4,
    constants := (List.range 8).map fun i => leAt b (0x10 + 4 * i) 4,
    streams := (List.range sc).map fun i => parseVStream b (0x40 + 16 * i),
    instrs := (List.range (leAt b 6 1)).map fun i => parseVInstr (leAt b (0x40 + 16 * sc + 8 * i) 8) }

/-- The header of a kind 0x02 descriptor fails a check of R333. -/
def vHeaderBad (g gen : Nat) (b : List Byte) : Bool :=
  let p := parseVProg b
  leAt b 1 1 != g || leAt b 2 2 != gen || p.width > 1 || leAt b 5 1 == 0 || leAt b 5 1 > 8 || leAt b 6 1 == 0 ||
    leAt b 6 1 > 32 || leAt b 7 1 != 0 || p.rows == 0 || p.rows > 65536 || p.vl == 0 || p.vl > 65536 || !zeroAt b 0x30 16

/-- A stream fails a check of R333. -/
def vStreamBad (p : VProg) (x : VStream) : Bool :=
  x.format > 3 || x.flags > 3 || x.offset % 8 != 0 || x.pitch % 8 != 0 || (x.output && x.pitch == 0 && p.rows > 1) ||
    (x.format != 3 && (x.scaleOffset != 0 || x.scalePitch != 0)) || (x.output && x.bcast)

/-- An operand code of instruction i is valid and used as R324 and R329 allow. -/
def vOperandOk (p : VProg) (i o : Nat) : Bool :=
  if o < 8 then (match p.streams[o]? with
    | some x => !x.output
    | none => false)
  else if o < 0x10 then true
  else if o < 0x30 then o - 0x10 < i && (match p.instrs[o - 0x10]? with
    | some y => !isReduction y.op
    | none => false)
  else o == 0x30 || o == 0x31

/-- An instruction fails a check of R333. -/
def vInstrBad (p : VProg) (i : Nat) (x : VInstr) : Bool :=
  let n := opArity x.op
  let uses := [x.a, x.b, x.c].zipIdx
  let dst := p.streams[x.dst]?
  let again := (p.instrs.zipIdx).any fun y => y.2 < i && y.1.store && y.1.dst == x.dst
  n == 0 || x.reserved ||
    uses.any (fun o => if o.2 < n then !vOperandOk p i o.1 else o.1 != 0x3F) ||
    (x.cond != 0 && x.op != 0x07) || x.cond > 5 ||
    (if x.store then (match dst with
       | some s => !s.output || again
       | none => true)
     else x.dst != 0 || isReduction x.op) ||
    (x.histStream != 0 && !x.hist) || (x.hist && !x.store)

/-- The item of the first failing check of R333: 0xFF the header, 0x80 + s a stream, an instruction's index. -/
def vCheck (g gen : Nat) (b : List Byte) : Option Nat :=
  let p := parseVProg b
  if vHeaderBad g gen b then some 0xFF
  else
    match p.streams.zipIdx.find? fun x => vStreamBad p x.1 with
    | some x => some (0x80 + x.2)
    | none =>
      match p.instrs.zipIdx.find? fun x => vInstrBad p x.2 x.1 with
      | some x => some x.2
      | none =>
        (p.streams.zipIdx.find? fun x =>
          x.1.output && !p.instrs.any fun y => y.store && y.dst == x.2).map fun x => 0x80 + x.2

/-! ## Regions (R334) -/

/-- A span of bytes, first and one past the last. -/
abbrev Span := Nat × Nat

/-- The span of `rows` rows of `n` bytes at a pitch. -/
def spanOf (off rows pitch n : Nat) : Span := (off, off + (rows - 1) * pitch + n)

/-- Two spans overlap. -/
def overlaps (a b : Span) : Bool := a.1 < b.2 && b.1 < a.2

/-- A stream's row holds one element: a broadcast input, or a reduction's output. -/
def vSingle (p : VProg) (s : Nat) (x : VStream) : Bool :=
  x.bcast || p.instrs.any fun y => y.store && y.dst == s && isReduction y.op

/-- The region of a stream's elements. -/
def vRegion (p : VProg) (s : Nat) (x : VStream) : Span :=
  spanOf x.offset p.rows x.pitch ((if vSingle p s x then 1 else p.vl) * (fmtOf x.format).size)

/-- The region of an L8 stream's scales. -/
def vScaleRegion (p : VProg) (s : Nat) (x : VStream) : Option Span :=
  if x.format = 3 then
    some (spanOf x.scaleOffset p.rows x.scalePitch (if vSingle p s x then 1 else (p.vl + 31) / 32))
  else none

/-- Every region of a programme. -/
def vRegions (p : VProg) : List Span :=
  p.streams.zipIdx.flatMap fun x => vRegion p x.2 x.1 :: (vScaleRegion p x.2 x.1).toList

/-- An output may coincide exactly with this input (R334). -/
def vCoincides (p : VProg) (s : Nat) (o i : VStream) : Bool :=
  !vSingle p s o && !i.bcast && o.offset == i.offset && o.pitch == i.pitch && o.format == i.format

/-- The stream of the first forbidden overlap (R334). -/
def vOverlap (p : VProg) : Option Nat :=
  (p.streams.zipIdx.find? fun o =>
    o.1.output &&
      p.streams.zipIdx.any fun x =>
        (x.2 != o.2 && overlaps (vRegion p o.2 o.1) (vRegion p x.2 x.1) &&
          (x.1.output || !vCoincides p o.2 o.1 x.1)) ||
        (match vScaleRegion p x.2 x.1 with
         | some r => overlaps (vRegion p o.2 o.1) r
         | none => false)).map (·.2)

/-! ## Running an element-wise programme -/

/-- An SVU record (R340, R344): task slot, item and detail; it is a unit fault. -/
def State.svuFault (s : State) (tile slot code g item detail : Nat) : State :=
  let s := s.putReg .SVU_FAULT_LAST [tile] (BitVec.ofNat 64
    (code * 2 ^ 56 + g * 2 ^ 52 + slot * 2 ^ 42 + item * 2 ^ 32 + detail % 2 ^ 32))
  s.record .svu .contained (dieOfTile tile) code (some g) (slot + item * 2 ^ 10 + detail % 2 ^ 32 * 2 ^ 18)

/-- Counts conversions on two counters, when there are any. -/
def State.countConv (s : State) (sat flush : Reg) (ix : List Nat) (cs : List Conv) : State :=
  let a := (cs.map (·.sat)).sum
  let b := (cs.map (·.flush)).sum
  let s := if a = 0 then s else s.bump sat ix a
  if b = 0 then s else s.bump flush ix b

/-- The block scale of element e of row r of an L8 stream (R323). -/
def State.vScale (s : State) (tile : Nat) (x : VStream) (r e : Nat) : Int :=
  if x.format = 3 then toSigned 8 (leAt (s.spxRead tile (x.scaleOffset + r * x.scalePitch + e / 32) 1) 0 1) else 0

/-- Element e of row r of an input stream as a number of the compute format (R327). -/
def State.vInput (s : State) (tile width : Nat) (x : VStream) (r e : Nat) : Num :=
  let e := if x.bcast then 0 else e
  let f := fmtOf x.format
  let c := leAt (s.spxRead tile (x.offset + r * x.pitch + e * f.size) f.size) 0 f.size
  rnd width (f.decode (s.vScale tile x r e) c)

/-- Adds elements to a histogram stream unless the task is unstepped (R184). -/
def State.histCodes (s : State) (src : Src) (tile g stream : Nat) (unstepped : Bool) (f : Fmt) (scale : Int) (cs : List Nat) :
    State :=
  if unstepped then s else s.each cs fun s c => s.histAdd src (dieOfTile tile) g stream (histIndex f scale c)

/-- Stores numbers of row r from element e on, converted to the stream's format, in blocks of 32 where it is L8
(R327, R332); the block starts at a multiple of 32. -/
def State.vStore (s : State) (tile g : Nat) (unstepped : Bool) (x : VStream) (i : VInstr) (r e : Nat) : Nat → List Num → State
  | 0, _ => s
  | fuel + 1, xs =>
    match xs with
    | [] => s
    | _ =>
      let f := fmtOf x.format
      let part := xs.take 32
      let scale := if x.format = 3 then autoScale part else 0
      let cs := part.map fun v => f.encode scale v
      let s := s.spxWrite tile (x.offset + r * x.pitch + e * f.size) (cs.flatMap fun c => toLe f.size c.code)
      let s := if x.format = 3 then s.spxWrite tile (x.scaleOffset + r * x.scalePitch + e / 32) (toLe 1 (ofSigned 8 scale))
        else s
      let s := s.countConv .SVU_CONV_SAT .SVU_CONV_FLUSH [tile] cs
      let s := if i.hist then s.histCodes .svu tile g i.histStream unstepped f scale (cs.map (·.code)) else s
      s.vStore tile g unstepped x i r (e + 32) fuel (xs.drop 32)

/-- The link values of one element, instruction by instruction; a reduction's operand stands in its place (R329). -/
def State.vElement (s : State) (tile : Nat) (p : VProg) (r e : Nat) : List Num :=
  p.instrs.foldl (fun (links : List Num) i =>
    let val := fun o =>
      if o < 8 then (match p.streams[o]? with
        | some x => s.vInput tile p.width x r e
        | none => Num.zero)
      else if o < 0x10 then rnd p.width (ofF32 (p.constants.getD (o - 8) 0))
      else if o < 0x30 then links.getD (o - 0x10) Num.zero
      else if o = 0x30 then .fin false r 0
      else if o = 0x31 then .fin false e 0
      else Num.zero
    links ++ [if isReduction i.op then val i.a else vecOp p.width i.op i.cond (val i.a) (val i.b) (val i.c)]) []

/-- Runs one element group of a row: reads every element, then writes (R334); returns the reductions' operands. -/
def State.vGroup (s : State) (tile g : Nat) (unstepped : Bool) (p : VProg) (r e n : Nat) : State × List (List Num) :=
  let rows := (List.range n).map fun k => s.vElement tile p r (e + k)
  let col := fun i => rows.map fun l => l.getD i Num.zero
  let s := p.instrs.zipIdx.foldl (fun s i =>
    if i.1.store && !isReduction i.1.op then
      (match p.streams[i.1.dst]? with
       | some x => s.vStore tile g unstepped x i.1 r e (n + 1) (col i.2)
       | none => s)
    else s) s
  (s, p.instrs.zipIdx.map fun i => if isReduction i.1.op then col i.2 else [])

/-- Runs a row: its groups in order, then its reductions (R328, R331). -/
def State.vRow (s : State) (tile g : Nat) (unstepped : Bool) (p : VProg) (r : Nat) : State :=
  let w := if p.width = 0 then 128 else 256
  let q := (List.range ((p.vl + w - 1) / w)).foldl (fun (q : State × List (List Num)) k =>
    let x := q.1.vGroup tile g unstepped p r (w * k) (min w (p.vl - w * k))
    (x.1, (q.2.zip x.2).map fun y => y.1 ++ y.2)) (s, p.instrs.map fun _ => [])
  p.instrs.zipIdx.foldl (fun s i =>
    if isReduction i.1.op then
      (match p.streams[i.1.dst]? with
       | some x => s.vStore tile g unstepped x i.1 r 0 2 [rowReduce i.1.op (q.2.getD i.2 [])]
       | none => s)
    else s) q.1

/-- Runs an element-wise programme whose checks have passed; the flag says it did not fault. -/
def State.vRun (s : State) (tile slot : Nat) (t : Task) (b : List Byte) : State × Bool :=
  let p := parseVProg b
  match vCheck t.grove t.gen b with
  | some item => (s.svuFault tile slot 0x01 t.grove item 0, false)
  | none =>
    match (vRegions p).find? fun r => r.2 > scratchSize tile with
    | some r => (s.svuFault tile slot 0x02 t.grove 0xFF r.1, false)
    | none =>
      match vOverlap p with
      | some x => (s.svuFault tile slot 0x03 t.grove (0x80 + x) (((p.streams[x]?).map (·.offset)).getD 0), false)
      | none =>
        let s := s.each (List.range p.rows) fun s r => s.vRow tile t.grove t.unstepped p r
        let s := s.putReg .SVU_STATUS [tile] (BitVec.ofNat 64 (p.vl * 2 ^ 42 + p.rows * 2 ^ 25 + p.width * 2 ^ 8))
        let fns := (p.instrs.filter fun i => 0x0B ≤ i.op && i.op ≤ 0x0E).length
        let s := s.bump .SVU_ELEMS [tile] (p.rows * p.vl)
        (if fns = 0 then s else s.bump .SVU_FN [tile] (fns * p.rows * p.vl), true)

/-! ## Segment operations (R335 to R337) -/

/-- A segment operation. -/
structure SegOp where
  op : Nat
  inFmt : Nat
  outFmt : Nat
  flags : Nat
  map : Nat
  first : Nat
  parents : Nat
  fanout : Nat
  elems : Nat
  block : Nat
  blockPitch : Nat
  blockRows : Nat
  out : Nat
  outPitch : Nat
  count : Nat
  group : Nat
  outer : Nat
  histStream : Nat
  deriving DecidableEq, Repr

/-- The operation a kind 0x03 descriptor holds. -/
def parseSeg (b : List Byte) : SegOp :=
  { op := leAt b 4 1, inFmt := leAt b 5 1, outFmt := leAt b 6 1, flags := leAt b 7 1, map := leAt b 8 4,
    first := leAt b 12 4, parents := leAt b 0x10 4, fanout := leAt b 0x14 2, elems := leAt b 0x16 2,
    block := leAt b 0x18 4, blockPitch := leAt b 0x1C 4, blockRows := leAt b 0x20 4, out := leAt b 0x24 4,
    outPitch := leAt b 0x28 4, count := leAt b 0x2C 4, group := leAt b 0x30 2, outer := leAt b 0x34 4,
    histStream := leAt b 0x38 1 }

/-- A check of R335 fails. -/
def segBad (g gen : Nat) (b : List Byte) (x : SegOp) : Bool :=
  leAt b 1 1 != g || leAt b 2 2 != gen || x.op > 3 || x.inFmt > 2 || x.outFmt > 2 || x.flags > 3 ||
    (bit x.flags 1 && x.op == 3) || x.map % 64 != 0 || x.parents == 0 || x.parents > 65536 || x.fanout == 0 ||
    x.fanout > 1024 || x.elems == 0 || x.elems > 4096 || x.block % 64 != 0 || x.blockPitch % 64 != 0 ||
    (if x.op = 3 then x.blockRows != 0 else x.blockRows == 0 || x.blockRows > 65536) || x.out % 8 != 0 ||
    x.outPitch % 8 != 0 || (x.outPitch == 0 && x.parents > 1) || x.count % 4 != 0 || (!bit x.flags 1 && x.count != 0) ||
    x.group == 0 || leAt b 0x32 2 != 0 || (!bit x.flags 0 && x.histStream != 0) || !zeroAt b 0x39 7

/-- The map position of child j of parent p (R336). -/
def SegOp.pos (x : SegOp) (p j : Nat) : Nat := x.first + p / x.group * x.outer + p % x.group * x.fanout + j

/-- The largest map position a task reads. -/
def SegOp.lastPos (x : SegOp) : Nat :=
  ((List.range x.parents).map fun p => x.pos p (x.fanout - 1)).foldl max 0

/-- The regions: map entries, block rows, output rows, counts (R335). -/
def SegOp.regions (x : SegOp) : List Span :=
  let es := elemSize x.inFmt
  let eo := elemSize x.outFmt
  let rows := if x.op = 3 then x.parents else x.blockRows
  let out := if x.op = 3 then (x.out + x.first * x.outPitch, x.out + x.lastPos * x.outPitch + x.elems * eo)
    else spanOf x.out x.parents x.outPitch (x.elems * eo)
  [(x.map + 4 * x.first, x.map + 4 * x.lastPos + 4), spanOf x.block rows x.blockPitch (x.elems * es), out] ++
    (if bit x.flags 1 then [(x.count, x.count + 4 * x.parents)] else [])

/-- The output and count regions overlap no region. -/
def segOverlap (rs : List Span) : Bool :=
  rs.zipIdx.any fun a => a.2 ≥ 2 && rs.zipIdx.any fun b => a.2 != b.2 && overlaps a.1 b.1

/-- The elements of a row of the block, as numbers. -/
def State.segRow (s : State) (tile : Nat) (x : SegOp) (row : Nat) : List Num :=
  let es := elemSize x.inFmt
  let b := s.spxRead tile (x.block + row * x.blockPitch) (x.elems * es)
  (List.range x.elems).map fun e => rnd 0 ((fmtOf x.inFmt).decode 0 (leAt b (es * e) es))

/-- Writes an output row at a byte offset, with its histogram. -/
def State.segWrite (s : State) (tile : Nat) (t : Task) (x : SegOp) (off : Nat) (v : List Num) : State :=
  let f := fmtOf x.outFmt
  let cs := v.map fun n => f.encode 0 n
  let s := s.spxWrite tile off (cs.flatMap fun c => toLe f.size c.code)
  let s := s.countConv .SVU_CONV_SAT .SVU_CONV_FLUSH [tile] cs
  if bit x.flags 0 then s.histCodes .svu tile t.grove x.histStream t.unstepped f 0 (cs.map (·.code)) else s

/-- One parent (R336, R337): the map position of an entry that is not below block_rows ends the task. -/
def State.segParent (s : State) (tile : Nat) (t : Task) (x : SegOp) (p : Nat) : State × Option Nat :=
  let entries := (List.range x.fanout).map fun j => (x.pos p j, leAt (s.spxRead tile (x.map + 4 * x.pos p j) 4) 0 4)
  let valid := entries.filter fun e => e.2 != 0xFFFFFFFF
  if x.op = 3 then
    let row := s.segRow tile x p
    (s.each valid fun s e => s.segWrite tile t x (x.out + e.1 * x.outPitch) row, none)
  else
    match valid.find? fun e => e.2 ≥ x.blockRows with
    | some e => (s, some e.1)
    | none =>
      let rows := valid.map fun e => s.segRow tile x e.2
      let comb := match rows with
        | [] => List.replicate x.elems Num.zero
        | r :: rs => rs.foldl (fun acc r => (acc.zip r).map fun y => reduceOp (0x10 + x.op) y.1 y.2) r
      let s := s.segWrite tile t x (x.out + p * x.outPitch) comb
      (if bit x.flags 1 then s.spxWrite tile (x.count + 4 * p) (toLe 4 (Num.fin false valid.length 0).f32) else s, none)

/-- The parents of a segment operation in order. -/
def State.segParents (s : State) (tile slot : Nat) (t : Task) (x : SegOp) : List Nat → State × Bool
  | [] => (s, true)
  | p :: ps =>
    match s.segParent tile t x p with
    | (s, none) => s.segParents tile slot t x ps
    | (s, some pos) => (s.svuFault tile slot 0x04 t.grove 0xFF pos, false)

/-- Runs a segment operation. -/
def State.segRun (s : State) (tile slot : Nat) (t : Task) (b : List Byte) : State × Bool :=
  let x := parseSeg b
  if segBad t.grove t.gen b x then (s.svuFault tile slot 0x01 t.grove 0xFF 0, false)
  else
    match x.regions.find? fun r => r.2 > scratchSize tile with
    | some r => (s.svuFault tile slot 0x02 t.grove 0xFF r.1, false)
    | none =>
      if segOverlap x.regions then (s.svuFault tile slot 0x03 t.grove 0xFF x.out, false)
      else
        match s.segParents tile slot t x (List.range x.parents) with
        | (s, true) =>
          let s := s.putReg .SVU_STATUS [tile]
            (BitVec.ofNat 64 (s.regFld .SVU_STATUS [tile] 42 17 * 2 ^ 42 + x.parents * 2 ^ 25))
          (s.bump .SVU_ELEMS [tile] (x.parents * x.fanout), true)
        | r => r

/-- Runs a task of the stream vector unit (R321). -/
def State.svuRun (s : State) (tile slot : Nat) (t : Task) (b : List Byte) : State × Bool :=
  if leAt b 0 1 = 2 then s.vRun tile slot t b
  else if leAt b 0 1 = 3 then s.segRun tile slot t b
  else (s.svuFault tile slot 0x01 t.grove 0xFF 0, false)

end Sys2Proof.Machine
end

