-- ==== Sys2Proof/Machine/Sparse.lean ====
section
/-! DEFINITION. Forms (ch. 11): their headers and arrays, the form checks, compression, and the sparse match unit. -/
namespace Sys2Proof.Machine

/-! ## Forms (R345 to R347) -/

/-- A form header, with the scratchpad offset it stands at. -/
structure Form where
  base : Nat
  form : Nat
  fmt : Nat
  heavy : Nat
  rows : Nat
  cols : Nat
  nnz : Nat
  total : Nat
  data : Nat
  pitch : Nat
  index : Nat
  rowptr : Nat
  scale : Nat
  scalePitch : Nat
  heavyOff : Nat
  /-- a reserved field is not zero -/
  reserved : Bool
  deriving DecidableEq, Repr

/-- The form a header spells. -/
def parseForm (base : Nat) (b : List Byte) : Form :=
  { base := base, form := leAt b 0 1, fmt := leAt b 1 1, heavy := leAt b 2 1, rows := leAt b 4 4, cols := leAt b 8 4,
    nnz := leAt b 0x0C 4, total := leAt b 0x10 4, data := leAt b 0x14 4, pitch := leAt b 0x18 4,
    index := leAt b 0x1C 4, rowptr := leAt b 0x20 4, scale := leAt b 0x24 4, scalePitch := leAt b 0x28 4,
    heavyOff := leAt b 0x2C 4, reserved := leAt b 3 1 != 0 || !zeroAt b 0x30 16 }

/-- The header at a scratchpad offset. -/
def State.formAt (s : State) (tile off : Nat) : Form := parseForm off (s.spxRead tile off 64)

/-- The form is compressed. -/
def Form.compressed (f : Form) : Bool := f.form == 1

/-- Bytes of an element of the form. -/
def Form.size (f : Form) : Nat := (fmtOf f.fmt).size

/-- Blocks of scales in a row of `n` elements. -/
def blocks32 (n : Nat) : Nat := (n + 31) / 32

/-- Rounded up to a multiple of 64. -/
def al64 (n : Nat) : Nat := (n + 63) / 64 * 64

/-- The region of a form, header included. -/
def Form.span (f : Form) : Span := (f.base, f.base + f.total)

/-- The marked rows of a form. -/
def State.markedRows (s : State) (tile : Nat) (f : Form) : List Nat :=
  if f.compressed then (List.range f.heavy).map fun i => leAt (s.spxRead tile (f.base + f.heavyOff + 4 * i) 4) 0 4 else []

/-- Numbers strictly ascend and lie below `n`. -/
def ascending (n : Nat) : List Nat → Bool
  | [] => true
  | [a] => a < n
  | a :: b :: t => a < b && ascending n (b :: t)

/-- A field that the form does not use is not zero. Assumption: 56 (DESIGN CHOICE). -/
def Form.unusedSet (f : Form) : Bool :=
  (if f.compressed then f.pitch != 0 else f.index != 0 || f.rowptr != 0) ||
    (f.fmt != 3 && (f.scale != 0 || f.scalePitch != 0)) || (f.heavy == 0 && f.heavyOff != 0)

/-- The arrays of a form, each with its offset and length. -/
def Form.arrays (f : Form) : List (Nat × Nat) :=
  (if f.compressed then [(f.rowptr, 4 * (f.rows + 1)), (f.index, 2 * f.nnz), (f.data, f.size * f.nnz)] ++
      (if f.heavy = 0 then [] else [(f.heavyOff, 4 * f.heavy)])
    else [(f.data, (f.rows - 1) * f.pitch + f.cols * f.size)]) ++
    (if f.fmt = 3 then [(f.scale, (f.rows - 1) * f.scalePitch + blocks32 f.cols)] else [])

/-- The number of the first check of R364 that a form fails before its arrays are read, in table order; `rows`, `cols`
and `fmt` are what the operation requires. Assumption: 56 (DESIGN CHOICE). -/
def State.formCheck (s : State) (tile : Nat) (f : Form) (rows cols : Nat → Bool) (fmt : Nat) : Option Nat :=
  if f.form > 1 || f.fmt > 3 || f.reserved || f.unusedSet then some 1
  else if !rows f.rows || !cols f.cols then some 2
  else if f.fmt != fmt then some 3
  else if f.total % 64 != 0 || f.arrays.any (fun a => a.1 % 64 != 0 || a.1 + a.2 > f.total) then some 4
  else if !f.compressed && (f.nnz != f.rows * f.cols || f.heavy != 0 || f.pitch < f.cols * f.size) then some 5
  else if f.heavy > 128 || !ascending f.rows (s.markedRows tile f) then some 8
  else none

/-- A row pointer of a compressed form. -/
def State.rowPtr (s : State) (tile : Nat) (f : Form) (i : Nat) : Nat :=
  leAt (s.spxRead tile (f.base + f.rowptr + 4 * i) 4) 0 4

/-- The column indices of a compressed row. -/
def State.rowIndices (s : State) (tile : Nat) (f : Form) (i : Nat) : List Nat :=
  let a := s.rowPtr tile f i
  (List.range (s.rowPtr tile f (i + 1) - a)).map fun j => leAt (s.spxRead tile (f.base + f.index + 2 * (a + j)) 2) 0 2

/-- The check a compressed row fails when it is read (R364): 6 its row pointers, 7 its indices.
Assumption: 56 (DESIGN CHOICE). -/
def State.rowCheck (s : State) (tile : Nat) (f : Form) (i : Nat) : Option Nat :=
  if !f.compressed then none
  else
    let a := s.rowPtr tile f i
    let b := s.rowPtr tile f (i + 1)
    if (i = 0 && a != 0) || b < a || b > f.nnz || (i + 1 = f.rows && b != f.nnz) then some 6
    else if !ascending f.cols (s.rowIndices tile f i) then some 7
    else none

/-- An element code is omitted by compression (R350). -/
def isZeroCode (fmt c : Nat) : Bool :=
  if fmt = 0 then c % 2 ^ 31 == 0 else if fmt = 1 then c % 2 ^ 15 == 0 else c == 0

/-- The stored elements of a row, ascending: column and code. A dense row gives every element. -/
def State.formRow (s : State) (tile : Nat) (f : Form) (i : Nat) : List (Nat × Nat) :=
  let es := f.size
  if f.compressed then
    let a := s.rowPtr tile f i
    (s.rowIndices tile f i).zipIdx.map fun x => (x.1, leAt (s.spxRead tile (f.base + f.data + es * (a + x.2)) es) 0 es)
  else
    let b := s.spxRead tile (f.base + f.data + i * f.pitch) (f.cols * es)
    (List.range f.cols).map fun j => (j, leAt b (es * j) es)

/-- The stored elements of a row without the zeros of a dense form (R360). -/
def State.formRowNz (s : State) (tile : Nat) (f : Form) (i : Nat) : List (Nat × Nat) :=
  let r := s.formRow tile f i
  if f.compressed then r else r.filter fun x => !isZeroCode f.fmt x.2

/-- The scale of column block `j` of row `i` (R347). Assumption: 57 (DESIGN CHOICE). -/
def State.formScale (s : State) (tile : Nat) (f : Form) (i j : Nat) : Int :=
  toSigned 8 (leAt (s.spxRead tile (f.base + f.scale + i * f.scalePitch + j) 1) 0 1)

/-! ## Building a form (R350) -/

/-- The header bytes of a form. -/
def Form.bytes (f : Form) : List Byte :=
  toLe 1 f.form ++ toLe 1 f.fmt ++ toLe 1 f.heavy ++ toLe 1 0 ++ toLe 4 f.rows ++ toLe 4 f.cols ++ toLe 4 f.nnz ++
    toLe 4 f.total ++ toLe 4 f.data ++ toLe 4 f.pitch ++ toLe 4 f.index ++ toLe 4 f.rowptr ++ toLe 4 f.scale ++
    toLe 4 f.scalePitch ++ toLe 4 f.heavyOff ++ toLe 16 0

/-- The marked rows of stored rows (R350). -/
def markRows (rows : List (List (Nat × Nat))) : List Nat :=
  let nnz := (rows.map List.length).sum
  (rows.zipIdx.filter fun r => 4 * r.1.length > nnz).map (·.2)

/-- The header of the compressed form of stored rows. -/
def compressedForm (fmt cols : Nat) (rows : List (List (Nat × Nat))) : Form :=
  let es := (fmtOf fmt).size
  let nnz := (rows.map List.length).sum
  let h := (markRows rows).length
  let ix := 64 + al64 (4 * (rows.length + 1))
  let dat := ix + al64 (2 * nnz)
  let sc := dat + al64 (es * nnz)
  let scLen := if fmt = 3 then al64 (rows.length * blocks32 cols) else 0
  let hv := sc + scLen
  { base := 0, form := 1, fmt := fmt, heavy := h, rows := rows.length, cols := cols, nnz := nnz,
    total := hv + al64 (4 * h), data := dat, pitch := 0, index := ix, rowptr := 64,
    scale := if fmt = 3 then sc else 0, scalePitch := if fmt = 3 then blocks32 cols else 0,
    heavyOff := if h = 0 then 0 else hv, reserved := false }

/-- The header of the dense form. -/
def denseForm (fmt rows cols pitch : Nat) : Form :=
  let scLen := if fmt = 3 then al64 (rows * blocks32 cols) else 0
  { base := 0, form := 0, fmt := fmt, heavy := 0, rows := rows, cols := cols, nnz := rows * cols,
    total := 64 + rows * pitch + scLen, data := 64, pitch := pitch, index := 0, rowptr := 0,
    scale := if fmt = 3 then 64 + rows * pitch else 0, scalePitch := if fmt = 3 then blocks32 cols else 0,
    heavyOff := 0, reserved := false }

/-- The row pointers of stored rows. -/
def rowPointers (rows : List (List (Nat × Nat))) : List Nat :=
  rows.foldl (fun l r => l ++ [l.getLastD 0 + r.length]) [0]

/-- The arrays of a compressed form as pieces of bytes at offsets from its header; `scales` are its scale bytes.
Assumption: 57 (DESIGN CHOICE). -/
def compressedPieces (f : Form) (rows : List (List (Nat × Nat))) (scales : List Byte) : List (Nat × List Byte) :=
  [(f.rowptr, (rowPointers rows).flatMap (toLe 4)), (f.index, rows.flatten.flatMap fun e => toLe 2 e.1),
    (f.data, rows.flatten.flatMap fun e => toLe f.size e.2)] ++
    (if f.fmt = 3 then [(f.scale, scales)] else []) ++
    (if f.heavy = 0 then [] else [(f.heavyOff, (markRows rows).flatMap (toLe 4))])

/-- The form a compressing DMA writes (R350), from the codes and the scale bytes of its rows: its header, and its pieces
with the header first. -/
def buildForm (fmt cols pitch : Nat) (codes : List (List Nat)) (scales : List Byte) : Form × List (Nat × List Byte) :=
  let rows := codes.map fun r => r.zipIdx.filterMap fun c => if isZeroCode fmt c.1 then none else some (c.2, c.1)
  let c := compressedForm fmt cols rows
  let d := denseForm fmt codes.length cols pitch
  let es := (fmtOf fmt).size
  if c.total < d.total then (c, (0, c.bytes) :: compressedPieces c rows scales)
  else (d, (0, d.bytes) :: (codes.zipIdx.map fun r => (64 + r.2 * pitch, r.1.flatMap (toLe es))) ++
    (if fmt = 3 then [(d.scale, scales)] else []))

/-! ## The sparse match unit (R360 to R365) -/

/-- A match descriptor. -/
structure MatchOp where
  aFmt : Nat
  bFmt : Nat
  outFmt : Nat
  flags : Nat
  aMeta : Nat
  bMeta : Nat
  nFirst : Nat
  nCount : Nat
  c : Nat
  cPitch : Nat
  c0 : Nat
  c0Pitch : Nat
  histStream : Nat
  deriving DecidableEq, Repr

/-- The operation a descriptor holds. -/
def parseMatch (b : List Byte) : MatchOp :=
  { aFmt := leAt b 4 1, bFmt := leAt b 5 1, outFmt := leAt b 6 1, flags := leAt b 7 1, aMeta := leAt b 8 4,
    bMeta := leAt b 12 4, nFirst := leAt b 0x10 4, nCount := leAt b 0x14 4, c := leAt b 0x18 4, cPitch := leAt b 0x1C 4,
    c0 := leAt b 0x20 4, c0Pitch := leAt b 0x24 4, histStream := leAt b 0x28 1 }

/-- The output is compressed. -/
def MatchOp.comp (o : MatchOp) : Bool := bit o.flags 0
/-- The operation adds C0. -/
def MatchOp.acc (o : MatchOp) : Bool := bit o.flags 1
/-- The operation counts a histogram. -/
def MatchOp.hist (o : MatchOp) : Bool := bit o.flags 2

/-- A check of R360 on the descriptor's fields fails. -/
def matchBad (g gen : Nat) (b : List Byte) (o : MatchOp) : Bool :=
  leAt b 0 1 != 4 || leAt b 1 1 != g || leAt b 2 2 != gen || !(o.aFmt == 1 || o.aFmt == 2) ||
    !(o.bFmt == 1 || o.bFmt == 2) || o.outFmt > 2 || o.flags > 7 || (o.comp && o.acc) || o.aMeta % 64 != 0 ||
    o.bMeta % 64 != 0 || o.nCount == 0 || o.nCount > 65536 || o.c % 64 != 0 || (!o.comp && o.cPitch % 64 != 0) ||
    o.c0 % 64 != 0 || (!o.acc && (o.c0 != 0 || o.c0Pitch != 0)) || (!o.hist && o.histStream != 0) || !zeroAt b 0x29 23

/-- An SMU record (R365, R368): task slot, check number and scratchpad offset. -/
def State.smuFault (s : State) (tile slot code g check detail : Nat) : State :=
  let s := s.putReg .SMU_FAULT_LAST [tile] (BitVec.ofNat 64
    (code * 2 ^ 56 + g * 2 ^ 52 + slot * 2 ^ 42 + check * 2 ^ 32 + detail % 2 ^ 32))
  s.record .smu .contained (dieOfTile tile) code (some g) (slot + check * 2 ^ 10 + detail % 2 ^ 32 * 2 ^ 14)

/-- The format of a form that a descriptor's operand format names: 1 L16, 2 BF16. -/
def formFmtOf (f : Nat) : Nat := if f = 1 then 2 else 1

/-- An operand code as an L16 code. -/
def asL16 (fmt c : Nat) : Nat := if fmt = 1 then c else (toL16 (ofBf16 c)).code

/-- The associative table of a row (R361): column values, and the columns placed in the overflow store. -/
structure MatchTable where
  vals : Tbl Nat := []
  spare : List Nat := []
  deriving DecidableEq, Repr

/-- The set a column goes to. -/
def matchSet (n : Nat) : Nat := n * 0x9E3779B1 % 2 ^ 32 / 2 ^ 21

/-- Adds a product to the table; none when the overflow store is full. -/
def MatchTable.add (t : MatchTable) (n p : Nat) : Option MatchTable :=
  match tget t.vals n with
  | some v => some { t with vals := tset t.vals n (f32Add v p) }
  | none =>
    let used := (t.vals.filter fun x => matchSet x.1 == matchSet n && !t.spare.contains x.1).length
    if used < 4 then some { t with vals := tset t.vals n p }
    else if t.spare.length < 64 then some { vals := tset t.vals n p, spare := t.spare ++ [n] }
    else none

/-- Why a row of A stopped: a form check (its number and form), or the table is full. -/
inductive MatchStop where
  | form (check base : Nat)
  | capacity
  deriving DecidableEq, Repr

/-- Adds the products of one stored element of A with B's row (R361); the count is of products formed. -/
def matchElem (o : MatchOp) (a : Nat) : List (Nat × Nat) → MatchTable → Nat → MatchTable × Nat × Bool
  | [], t, n => (t, n, true)
  | (j, b) :: bs, t, n =>
    if j < o.nFirst || j ≥ o.nFirst + o.nCount then matchElem o a bs t n
    else
      match t.add j (l16Product (asL16 o.aFmt a) (asL16 o.bFmt b)).f32 with
      | some t => matchElem o a bs t (n + 1)
      | none => (t, n + 1, false)

/-- The table of one row of A, the products formed, and why it stopped. -/
def State.matchRow (s : State) (tile : Nat) (o : MatchOp) (fb : Form) :
    List (Nat × Nat) → MatchTable → Nat → MatchTable × Nat × Option MatchStop
  | [], t, n => (t, n, none)
  | (k, a) :: as, t, n =>
    match s.rowCheck tile fb k with
    | some c => (t, n, some (.form c fb.base))
    | none =>
      match matchElem o a (s.formRowNz tile fb k) t n with
      | (t, n, true) => s.matchRow tile o fb as t n
      | (t, n, false) => (t, n, some .capacity)

/-- The window's values of a dense row, with C0 added. -/
def State.matchDense (s : State) (tile : Nat) (o : MatchOp) (m : Nat) (t : MatchTable) : List Nat :=
  (List.range o.nCount).map fun i =>
    let v := tgetD t.vals (o.nFirst + i) 0
    if o.acc then f32Add v (leAt (s.spxRead tile (o.c0 + m * o.c0Pitch + 4 * i) 4) 0 4) else v

/-- Converts values, counting conversions and the histogram. -/
def State.matchConvert (s : State) (tile : Nat) (t : Task) (o : MatchOp) (vs : List Nat) : State × List Nat :=
  let f := fmtOf o.outFmt
  let cs := vs.map fun v => f.encode 0 (ofF32 v)
  let s := s.countConv .SMU_CONV_SAT .SMU_CONV_FLUSH [tile] cs
  (if o.hist then s.histCodes .smu tile t.grove o.histStream t.unstepped f 0 (cs.map (·.code)) else s, cs.map (·.code))

/-- SMU_STATUS after a row (R366). -/
def State.matchStatus (s : State) (tile row used : Nat) : State :=
  s.putReg .SMU_STATUS [tile] (BitVec.ofNat 64 (row * 2 ^ 25 + used * 2 ^ 12))

/-- Writes a fault of a row. -/
def State.matchStopped (s : State) (tile slot : Nat) (t : Task) (o : MatchOp) : MatchStop → State
  | .form c b => s.smuFault tile slot 0x02 t.grove c b
  | .capacity => s.smuFault tile slot 0x05 t.grove 0 o.c

/-- The rows of A in order: the compressed rows so far, and whether no row faulted. -/
def State.matchRows (s : State) (tile slot : Nat) (t : Task) (o : MatchOp) (fa fb : Form) :
    List Nat → List (List (Nat × Nat)) → State × List (List (Nat × Nat)) × Bool
  | [], out => (s, out, true)
  | m :: ms, out =>
    match s.rowCheck tile fa m with
    | some c => (s.smuFault tile slot 0x02 t.grove c fa.base, out, false)
    | none =>
      let r := s.matchRow tile o fb (s.formRowNz tile fa m) {} 0
      let s := if r.2.1 = 0 then s else s.bump .SMU_PRODUCTS [tile] r.2.1
      let s := if r.1.spare.isEmpty then s else s.bump .SMU_OVERFLOW_USE [tile] r.1.spare.length
      let s := s.matchStatus tile (if r.2.2.isNone then m + 1 else m) r.1.vals.length
      match r.2.2 with
      | some e => (s.matchStopped tile slot t o e, out, false)
      | none =>
        if o.comp then s.matchRows tile slot t o fa fb ms (out ++ [r.1.vals.map fun x => (x.1 - o.nFirst, x.2)])
        else
          let c := s.matchConvert tile t o (s.matchDense tile o m r.1)
          let s := c.1.spxWrite tile (o.c + m * o.cPitch) (c.2.flatMap (toLe (fmtOf o.outFmt).size))
          s.matchRows tile slot t o fa fb ms out

/-- Writes the compressed output (R362): its header last; a form longer than its region faults.
Assumption: 57 (DESIGN CHOICE). -/
def State.matchForm (s : State) (tile slot : Nat) (t : Task) (o : MatchOp) (rows : List (List (Nat × Nat))) :
    State × Bool :=
  let f := compressedForm o.outFmt o.nCount rows
  if f.total > o.cPitch then (s.smuFault tile slot 0x06 t.grove 0 o.c, false)
  else
    let r := rows.foldl (fun (q : State × List (List (Nat × Nat))) row =>
      let c := q.1.matchConvert tile t o (row.map (·.2))
      (c.1, q.2 ++ [(row.map (·.1)).zip c.2])) (s, [])
    let s := r.1.each (compressedPieces f r.2 []) fun s p => s.spxWrite tile (o.c + p.1) p.2
    (s.spxWrite tile o.c f.bytes, true)

/-- The regions of a match operation: the output first. -/
def matchRegions (o : MatchOp) (fa fb : Form) : List Span :=
  [if o.comp then (o.c, o.c + o.cPitch) else spanOf o.c fa.rows o.cPitch (o.nCount * (fmtOf o.outFmt).size),
    fa.span, fb.span] ++ (if o.acc then [spanOf o.c0 fa.rows o.c0Pitch (4 * o.nCount)] else [])

/-- Runs a task of the sparse match unit; the flag says it did not fault. -/
def State.smuRun (s : State) (tile slot : Nat) (t : Task) (b : List Byte) : State × Bool :=
  let o := parseMatch b
  let size := scratchSize tile
  let fault := fun code check detail => (s.smuFault tile slot code t.grove check detail, false)
  if matchBad t.grove t.gen b o then fault 0x01 0 0
  else if o.aMeta + 64 > size then fault 0x03 0 o.aMeta
  else if o.bMeta + 64 > size then fault 0x03 0 o.bMeta
  else
    let fa := s.formAt tile o.aMeta
    let fb := s.formAt tile o.bMeta
    let dim := fun n => 1 ≤ n && n ≤ 65536
    match s.formCheck tile fa dim dim (formFmtOf o.aFmt), s.formCheck tile fb (· == fa.cols) dim (formFmtOf o.bFmt) with
    | some c, _ => fault 0x02 c o.aMeta
    | _, some c => fault 0x02 c o.bMeta
    | none, none =>
      if o.nFirst + o.nCount > fb.cols then fault 0x01 0 0
      else
        let rs := matchRegions o fa fb
        match rs.find? fun r => r.2 > size with
        | some r => fault 0x03 0 r.1
        | none =>
          if (rs.drop 1).any fun r => overlaps (rs.headD (0, 0)) r then fault 0x04 0 o.c
          else
            match s.matchRows tile slot t o fa fb (List.range fa.rows) [] with
            | (s, rows, true) => if o.comp then s.matchForm tile slot t o rows else (s, true)
            | (s, _, false) => (s, false)

end Sys2Proof.Machine
end

