-- ==== Sys2Proof/Machine/Tiles.lean ====
section
/-! DEFINITION. Tiles (ch. 9): matrix operations of the log array, the tile DMA, ABFT checks, and the end of a task. -/
namespace Sys2Proof.Machine

/-! ## Operation descriptors (R291) -/

/-- A matrix operation. -/
structure MatOp where
  aFmt : Nat
  bFmt : Nat
  outFmt : Nat
  flags : Nat
  m : Nat
  n : Nat
  k : Nat
  histStream : Nat
  outScale : Nat
  a : Nat
  aPitch : Nat
  b : Nat
  bPitch : Nat
  c : Nat
  cPitch : Nat
  c0 : Nat
  c0Pitch : Nat
  sa : Nat
  saPitch : Nat
  sb : Nat
  sbPitch : Nat
  sc : Nat
  scPitch : Nat
  aMeta : Nat
  bMeta : Nat
  tolExp : Nat
  deriving DecidableEq, Repr

/-- The operation a descriptor holds. -/
def parseMat (b : List Byte) : MatOp :=
  let w := fun o => leAt b o 4
  { aFmt := leAt b 4 1, bFmt := leAt b 5 1, outFmt := leAt b 6 1, flags := leAt b 7 1, m := w 8, n := w 12, k := w 0x10,
    histStream := leAt b 0x14 1, outScale := leAt b 0x15 1, a := w 0x18, aPitch := w 0x1C, b := w 0x20, bPitch := w 0x24,
    c := w 0x28, cPitch := w 0x2C, c0 := w 0x30, c0Pitch := w 0x34, sa := w 0x38, saPitch := w 0x3C, sb := w 0x40,
    sbPitch := w 0x44, sc := w 0x48, scPitch := w 0x4C, aMeta := w 0x50, bMeta := w 0x54, tolExp := leAt b 0x58 1 }

/-- flags.a_trans. -/
def MatOp.aTrans (o : MatOp) : Bool := bit o.flags 0
/-- flags.b_trans. -/
def MatOp.bTrans (o : MatOp) : Bool := bit o.flags 1
/-- flags.accumulate. -/
def MatOp.acc (o : MatOp) : Bool := bit o.flags 2
/-- flags.abft. -/
def MatOp.abft (o : MatOp) : Bool := bit o.flags 3
/-- flags.hist. -/
def MatOp.hist (o : MatOp) : Bool := bit o.flags 4
/-- flags.a_sparse. -/
def MatOp.aSparse (o : MatOp) : Bool := bit o.flags 5
/-- flags.b_sparse. -/
def MatOp.bSparse (o : MatOp) : Bool := bit o.flags 6
/-- flags.out_scale_explicit. -/
def MatOp.explicit (o : MatOp) : Bool := bit o.flags 7
/-- The operands are L8. -/
def MatOp.l8 (o : MatOp) : Bool := o.aFmt == 0

/-- Bytes of an operand's element (R293). -/
def opSize (f : Nat) : Nat := if f = 0 then 1 else 2

/-- The output format: 0 FP32, 1 BF16, 2 L16, 3 L8. -/
def MatOp.out (o : MatOp) : Fmt := fmtOf o.outFmt

/-- The stored rows of a dense region: its offset, rows, pitch and the bytes of a row. -/
structure Region2 where
  off : Nat
  rows : Nat
  pitch : Nat
  bytes : Nat
  deriving DecidableEq, Repr

/-- Its span (R295). -/
def Region2.span (r : Region2) : Span := spanOf r.off r.rows r.pitch r.bytes

/-- A as stored (R293). -/
def MatOp.aRegion (o : MatOp) : Region2 :=
  if o.aTrans then ⟨o.a, o.k, o.aPitch, o.m * opSize o.aFmt⟩ else ⟨o.a, o.m, o.aPitch, o.k * opSize o.aFmt⟩

/-- B as stored. -/
def MatOp.bRegion (o : MatOp) : Region2 :=
  if o.bTrans then ⟨o.b, o.n, o.bPitch, o.k * opSize o.bFmt⟩ else ⟨o.b, o.k, o.bPitch, o.n * opSize o.bFmt⟩

/-- C. -/
def MatOp.cRegion (o : MatOp) : Region2 := ⟨o.c, o.m, o.cPitch, o.n * o.out.size⟩

/-- The regions an operation reads but for its forms: A, B, C0 and the operands' scales. -/
def MatOp.inputs (o : MatOp) : List Region2 :=
  (if o.aSparse then [] else [o.aRegion] ++ (if o.aFmt = 0 then [⟨o.sa, o.m, o.saPitch, blocks32 o.k⟩] else [])) ++
  (if o.bSparse then [] else [o.bRegion] ++ (if o.bFmt = 0 then [⟨o.sb, o.n, o.sbPitch, blocks32 o.k⟩] else []))

/-- C0. -/
def MatOp.c0Region (o : MatOp) : Region2 := ⟨o.c0, o.m, o.c0Pitch, 4 * o.n⟩

/-- The regions it writes: C and the output scales. -/
def MatOp.outputs (o : MatOp) : List Region2 :=
  o.cRegion :: (if o.outFmt = 3 then [⟨o.sc, o.m, o.scPitch, blocks32 o.n⟩] else [])

/-- A check of R295 or R352 on the descriptor's fields fails. -/
def matBad (g gen : Nat) (b : List Byte) (o : MatOp) : Bool :=
  let offs := [o.a, o.aPitch, o.b, o.bPitch, o.c, o.cPitch, o.c0, o.c0Pitch, o.sa, o.saPitch, o.sb, o.sbPitch, o.sc,
    o.scPitch, o.aMeta, o.bMeta]
  let zero := fun (l : List Nat) => l.all (· == 0)
  leAt b 0 1 != 1 || leAt b 1 1 != g || leAt b 2 2 != gen || o.aFmt > 2 || o.bFmt > 2 || o.outFmt > 3 ||
    o.m == 0 || o.m > 65536 || o.n == 0 || o.n > 16384 || o.k == 0 || o.k > 65536 || o.tolExp > 31 ||
    leAt b 0x16 2 != 0 || !zeroAt b 0x59 39 || offs.any (· % 64 != 0) ||
    (o.inputs ++ (if o.acc then [o.c0Region] else []) ++ o.outputs).any (fun r => r.rows > 1 && r.pitch < r.bytes) ||
    (!o.acc && !zero [o.c0, o.c0Pitch]) || ((o.aFmt != 0 || o.aSparse) && !zero [o.sa, o.saPitch]) ||
    ((o.bFmt != 0 || o.bSparse) && !zero [o.sb, o.sbPitch]) || (o.outFmt != 3 && !zero [o.sc, o.scPitch, o.outScale]) ||
    (!o.explicit && o.outScale != 0) || (o.explicit && o.outFmt != 3) || (!o.aSparse && o.aMeta != 0) ||
    (!o.bSparse && o.bMeta != 0) || (o.aSparse && !zero [o.a, o.aPitch]) || (o.bSparse && !zero [o.b, o.bPitch]) ||
    (!o.hist && o.histStream != 0)

/-! ## Operands -/

/-- The form's element format that an operand format names: 0 L8, 1 L16, 2 BF16. -/
def formFmtOfOp (f : Nat) : Nat := if f = 0 then 3 else if f = 1 then 2 else 1

/-- The first array check a form fails, over its rows (R364). Assumption: 56 (DESIGN CHOICE). -/
def State.arrayCheck (s : State) (tile : Nat) (f : Form) : Option Nat :=
  (List.range f.rows).findSome? fun i => s.rowCheck tile f i

/-- The stored rows of an operand through its form: ascending columns. -/
def State.formRows (s : State) (tile : Nat) (f : Form) : List (List (Nat × Nat)) :=
  (List.range f.rows).map fun i => s.formRow tile f i

/-- A dense stored row's elements. -/
def State.denseRow (s : State) (tile off es n : Nat) : List (Nat × Nat) :=
  let b := s.spxRead tile off (n * es)
  (List.range n).map fun j => (j, leAt b (es * j) es)

/-- Rows of (index, code) pairs turned over: `n` rows of the pairs that named each index, in ascending row order. -/
def turn (n : Nat) (rows : List (List (Nat × Nat))) : List (List (Nat × Nat)) :=
  (List.range n).map fun j => rows.zipIdx.filterMap fun r => (r.1.find? fun e => e.1 == j).map fun e => (r.2, e.2)

/-- The stored rows of an operand: from its form or its region. -/
def State.operand (s : State) (tile : Nat) (form : Option Form) (r : Region2) (es : Nat) : List (List (Nat × Nat)) :=
  match form with
  | some f => s.formRows tile f
  | none => (List.range r.rows).map fun i => s.denseRow tile (r.off + i * r.pitch) es (r.bytes / es)

/-- The block scale of a logical row of an operand (a row of A, a column of B) and a K-block (R294); the scales of a form
stand in place of the scale array (R353). -/
def State.opScale (s : State) (tile : Nat) (form : Option Form) (off pitch row block : Nat) : Int :=
  match form with
  | some f => s.formScale tile f row block
  | none => toSigned 8 (leAt (s.spxRead tile (off + row * pitch + block) 1) 0 1)

/-- What a matrix operation reads: for each row m of A its elements (k, code) as loaded, ascending; for each column n of B
its elements; A is compressed; A's marked rows that are split (R355, R356). -/
structure MatData where
  a : List (List (Nat × Nat))
  b : List (List (Nat × Nat))
  rowMode : Bool
  marked : List Nat
  fa : Option Form
  fb : Option Form
  deriving DecidableEq, Repr

/-- Reads the operands. Assumption: 58 (DEDUCED). -/
def State.matData (s : State) (tile : Nat) (o : MatOp) : MatData :=
  let fa := if o.aSparse then some (s.formAt tile o.aMeta) else none
  let fb := if o.bSparse then some (s.formAt tile o.bMeta) else none
  let sa := s.operand tile fa o.aRegion (opSize o.aFmt)
  let sb := s.operand tile fb o.bRegion (opSize o.bFmt)
  let comp := fun (f : Option Form) => (f.map Form.compressed).getD false
  { a := if o.aTrans then turn o.m sa else sa, b := if o.bTrans then sb else turn o.n sb, rowMode := comp fa,
    marked := if comp fa && !o.aTrans then (fa.map fun f => s.markedRows tile f).getD [] else [], fa := fa, fb := fb }

/-! ## Results (R297 to R300) -/

/-- An operand code converted as it is loaded (R169, R292). -/
def loadConv (fmt c : Nat) : Conv := if fmt = 2 then toL16 (ofBf16 c) else { code := c }

/-- The code of element k in a column, zero where absent (R354). -/
def colAt (col : List (Nat × Nat)) (k : Nat) : Nat := ((col.find? fun e => e.1 == k).map (·.2)).getD 0

/-- The K-block sums S of an output (R161), block by block. -/
def State.sums (s : State) (tile : Nat) (o : MatOp) (d : MatData) (m n : Nat) : List Int :=
  (List.range (blocks32 o.k)).map fun b => s.opScale tile d.fa o.sa o.saPitch m b + s.opScale tile d.fb o.sb o.sbPitch n b

/-- The window exponent W (R161). -/
def window (ss : List Int) : Int := ss.foldl max (ss.headD 0)

/-- C0[m][n] as an FP32 code, +0 without accumulate. -/
def State.c0At (s : State) (tile : Nat) (o : MatOp) (m n : Nat) : Nat :=
  if o.acc then leAt (s.spxRead tile (o.c0 + m * o.c0Pitch + 4 * n) 4) 0 4 else 0

/-- An L8 output (R298, R299). -/
def State.l8Out (s : State) (tile : Nat) (o : MatOp) (d : MatData) (m n : Nat) : Nat :=
  let ss := s.sums tile o d m n
  let w := window ss
  let col := d.b.getD n []
  let acc := (d.a.getD m []).foldl (fun acc e => l8Mac acc e.2 (colAt col e.1) (ss.getD (e.1 / 32) 0) w) {}
  let v := (acc.drain w).f32
  if o.acc then f32Add v (s.c0At tile o m n) else v

/-- The stored elements of a row of A cut into groups of eight consecutive k, empty groups left out (R355); a dense row
gives every group. -/
def groups8 (k : Nat) (row : List (Nat × Nat)) : List (List (Nat × Nat)) :=
  ((List.range ((k + 7) / 8)).map fun g => row.filter fun e => e.1 / 8 == g).filter fun g => !g.isEmpty

/-- Adds groups of products to an FP32 accumulator, each rounded once (R165). -/
def l16Groups (o : MatOp) (col : List (Nat × Nat)) (acc : Nat) (gs : List (List (Nat × Nat))) : Nat :=
  gs.foldl (fun acc g => (g.foldl (fun x e =>
    x.add (l16Product (loadConv o.aFmt e.2).code (loadConv o.bFmt (colAt col e.1)).code)) (ofF32 acc)).f32) acc

/-- An L16 output; `h` is the number of marked rows in the chunk (R299, R356). -/
def State.l16Out (s : State) (tile : Nat) (o : MatOp) (d : MatData) (h m n : Nat) : Nat :=
  let col := d.b.getD n []
  let gs := groups8 o.k (d.a.getD m [])
  let start := s.c0At tile o m n
  if d.marked.contains m then
    let g := gs.length
    let seg := min (128 / h) g
    let parts := (List.range seg).map fun i => l16Groups o col 0 ((gs.zipIdx.filter fun q => q.2 * seg / g == i).map (·.1))
    parts.foldl f32Add start
  else l16Groups o col start gs

/-- A pass: its number, columns and rows (R297). -/
structure Pass where
  index : Nat
  n0 : Nat
  n1 : Nat
  m0 : Nat
  m1 : Nat
  deriving DecidableEq, Repr

/-- The passes of an operation in order: N-blocks outside, M-chunks inside. -/
def passes (tile : Nat) (o : MatOp) : List Pass :=
  let nt := if isCrown tile then 256 else 128
  let nb := (o.n + nt - 1) / nt
  let mc := (o.m + 511) / 512
  (List.range (nb * mc)).map fun i =>
    ⟨i, i / mc * nt, min o.n ((i / mc + 1) * nt), i % mc * 512, min o.m ((i % mc + 1) * 512)⟩

/-- The numbers `a` to `b - 1`. -/
def span (a b : Nat) : List Nat := (List.range (b - a)).map (· + a)

/-- The marked rows of a pass's chunk. -/
def chunkMarked (d : MatData) (p : Pass) : Nat := (d.marked.filter fun r => p.m0 ≤ r && r < p.m1).length

/-- The drained FP32 results of a pass, row by row; `wrong` replaces elements the hardware drained otherwise. -/
def State.drained (s : State) (tile : Nat) (o : MatOp) (d : MatData) (wrong : List (Nat × Nat × Nat × Nat)) (p : Pass) :
    List (List Nat) :=
  (span p.m0 p.m1).map fun m => (span p.n0 p.n1).map fun n =>
    match wrong.find? fun w => w.1 == p.index && w.2.1 == m && w.2.2.1 == n with
    | some w => w.2.2.2
    | none => if o.l8 then s.l8Out tile o d m n else s.l16Out tile o d (chunkMarked d p) m n

/-- Outputs of a pass inexact under R162 (R298). -/
def State.inexact (s : State) (tile : Nat) (o : MatOp) (d : MatData) (p : Pass) : Nat :=
  if o.l8 then
    ((span p.m0 p.m1).map fun m => ((span p.n0 p.n1).filter fun n =>
      let ss := s.sums tile o d m n
      ss.any fun x => x < window ss - 16).length).sum
  else 0

/-- The conversions a pass's loads make (R292): A's elements once for the pass, B's once when its N-block is the pass's
and its 128-row slice is loaded. -/
def loadConvs (o : MatOp) (d : MatData) (p : Pass) : List Conv :=
  let rows := (span p.m0 p.m1).map fun m => d.a.getD m []
  let slice := fun k => !d.rowMode || rows.any fun r => r.any fun e => e.1 / 128 == k / 128
  (rows.flatMap fun r => r.map fun e => loadConv o.aFmt e.2) ++
    ((span p.n0 p.n1).flatMap fun n => ((d.b.getD n []).filter fun e => slice e.1).map fun e => loadConv o.bFmt e.2)

/-- Writes drained results of one row from column n on, in blocks of 32 (R300). -/
def State.drainRow (s : State) (tile : Nat) (t : Task) (o : MatOp) (m n : Nat) : Nat → List Nat → State
  | 0, _ => s
  | fuel + 1, vs =>
    match vs with
    | [] => s
    | _ =>
      let part := (vs.take 32).map ofF32
      let scale := if o.outFmt = 3 then (if o.explicit then toSigned 8 o.outScale else autoScale part) else 0
      let cs := part.map fun v => o.out.encode scale v
      let s := s.spxWrite tile (o.c + m * o.cPitch + n * o.out.size) (cs.flatMap fun c => toLe o.out.size c.code)
      let s := if o.outFmt = 3 then s.spxWrite tile (o.sc + m * o.scPitch + n / 32) (toLe 1 (ofSigned 8 scale)) else s
      let s := s.countConv .TIL_CONV_SAT .TIL_CONV_FLUSH [tile] cs
      let s := if o.hist then s.histCodes .til tile t.grove o.histStream t.unstepped o.out scale (cs.map (·.code)) else s
      s.drainRow tile t o m (n + 32) fuel (vs.drop 32)

/-! ## ABFT (R303 to R305) -/

/-- A number rounded to a 24-bit significand; the exponent range of R303 is never left. -/
def r24 : Num → Num
  | .fin s m e => if m.log2 < 24 then .fin s m e else .fin s (rne m (m.log2 - 23)) (e + (m.log2 - 23 : Nat))
  | x => x

/-- The checker's sum and product. -/
def add24 (a b : Num) : Num := r24 (a.add b)
/-- The checker's product. -/
def mul24 (a b : Num) : Num := r24 (a.mul b)

/-- The sum of numbers in order. -/
def sum24 (l : List Num) : Num := l.foldl add24 Num.zero

/-- The value of an operand's element after R169 or R173. -/
def State.opValue (s : State) (tile fmt : Nat) (form : Option Form) (off pitch row k c : Nat) : Num :=
  if fmt = 0 then ofF32 (ofL8 (s.opScale tile form off pitch row (k / 32)) c).f32 else ofL16 (loadConv fmt c).code

/-- A number is finite. -/
def Num.finite : Num → Bool
  | .fin .. => true
  | _ => false

/-- A check passes (R304): `lim` counts and scales are exact. Assumption: 58 (DEDUCED). -/
def abftPasses (obs ref abs factor tol t8v : Num) : Bool :=
  match ((obs.add ref.neg).abs).cmp (((factor.mul abs).add tol).add t8v) with
  | some c => c ≤ 0
  | none => false

/-- The outcome of a check (R304, R305): L outputs summed, the largest W of those outputs. -/
def abftCheck (o : MatOp) (t tolAbs : Nat) (row : Bool) (index l : Nat) (w : Int) (obs ref abs : Num) : AbftCheck :=
  let finite := obs.finite && ref.finite && abs.finite
  let factor := (Num.fin false 1 (-(t : Int))).add (.fin false (o.k + l + (o.k + 7) / 8 + 4) (-23))
  let tt : Num := if o.l8 then .fin false (l * 32 * blocks32 o.k) (w - 47) else Num.zero
  { row := row, index := index, nonfinite := !finite, obs := obs.f32, ref := ref.f32,
    ok := if finite then abftPasses obs ref abs factor (ofF32 (min tolAbs 0x7F7FFFFF)) tt
      else !obs.finite && !ref.finite }

/-- The checks of a pass: its columns, then its rows (R303). Assumption: 58 (DEDUCED). -/
def State.abftChecks (s : State) (tile : Nat) (o : MatOp) (d : MatData) (p : Pass) (c : List (List Nat)) :
    List AbftCheck :=
  let tolReg := if o.l8 then s.regFld .TIL_ABFT_TOL [tile] 0 5 else s.regFld .TIL_ABFT_TOL [tile] 8 5
  let t := if o.tolExp = 0 then tolReg else o.tolExp
  let tolAbs := s.regFld .TIL_ABFT_ABS [tile] 0 31
  let ms := span p.m0 p.m1
  let ns := span p.n0 p.n1
  let cv := c.map fun r => r.map ofF32
  let c0 := ms.map fun m => ns.map fun n => ofF32 (s.c0At tile o m n)
  let a := ms.map fun m => (d.a.getD m []).map fun e => (e.1, s.opValue tile o.aFmt d.fa o.sa o.saPitch m e.1 e.2)
  let b := ns.map fun n => (List.range o.k).map fun k =>
    s.opValue tile o.bFmt d.fb o.sb o.sbPitch n k (colAt (d.b.getD n []) k)
  let w := fun (mm nn : List Nat) => (mm.flatMap fun m => nn.map fun n => window (s.sums tile o d m n)).foldl max (-256)
  -- for each k, the stored elements of the chunk's rows
  let byK := (List.range o.k).map fun k => a.filterMap fun r => (r.find? fun e => e.1 == k).map (·.2)
  let at' := fun (l : List (List Num)) i j => (l.getD i []).getD j Num.zero
  let col := fun j =>
    let terms := byK.zipIdx.filter fun q => !q.1.isEmpty
    let ref := sum24 (terms.map fun q => mul24 (sum24 q.1) (at' b j q.2))
    let abs := sum24 (terms.map fun q => mul24 (sum24 (q.1.map Num.abs)) (at' b j q.2).abs)
    let z := c0.map fun r => r.getD j Num.zero
    abftCheck o t tolAbs false (p.n0 + j) ms.length (if o.l8 then w ms [p.n0 + j] else 0)
      (sum24 (cv.map fun r => r.getD j Num.zero)) (add24 ref (sum24 z)) (add24 abs (sum24 (z.map Num.abs)))
  let bSum := (List.range o.k).map fun k => sum24 (b.map fun l => l.getD k Num.zero)
  let bAbs := (List.range o.k).map fun k => sum24 (b.map fun l => (l.getD k Num.zero).abs)
  let row := fun i =>
    let ref := sum24 ((a.getD i []).map fun e => mul24 e.2 (bSum.getD e.1 Num.zero))
    let abs := sum24 ((a.getD i []).map fun e => mul24 e.2.abs (bAbs.getD e.1 Num.zero))
    let z := c0.getD i []
    abftCheck o t tolAbs true (p.m0 + i) ns.length (if o.l8 then w [p.m0 + i] ns else 0)
      (sum24 (cv.getD i [])) (add24 ref (sum24 z)) (add24 abs (sum24 (z.map Num.abs)))
  (List.range ns.length).map col ++ (List.range ms.length).map row

/-! ## Running a matrix operation -/

/-- A unit fault of the tile. Assumption: 91 (DEDUCED). -/
def State.tilFault (s : State) (tile slot code g detail : Nat) : State × Bool :=
  (s.tilRecord tile slot code g detail, false)

/-- What stops an operation on its sparse operands: its code and detail (R352, R364). Assumption: 57 (DESIGN CHOICE). -/
def State.sparseCheck (s : State) (tile : Nat) (o : MatOp) : Option (Nat × Nat) :=
  let size := scratchSize tile
  let one := fun (sparse : Bool) (off rows cols fmt : Nat) =>
    if !sparse then none
    else if off + 64 > size then some (0x03, off)
    else
      let f := s.formAt tile off
      match s.formCheck tile f (· == rows) (· == cols) (formFmtOfOp fmt) with
      | some c => some (0x08, off + c)
      | none => if f.base + f.total > size then some (0x03, off) else none
  let a := one o.aSparse o.aMeta (if o.aTrans then o.k else o.m) (if o.aTrans then o.m else o.k) o.aFmt
  let b := one o.bSparse o.bMeta (if o.bTrans then o.n else o.k) (if o.bTrans then o.k else o.n) o.bFmt
  let arrays := fun (sparse : Bool) (off : Nat) =>
    if sparse then (s.arrayCheck tile (s.formAt tile off)).map fun c => (0x08, off + c) else none
  match a, b with
  | some e, _ => some e
  | _, some e => some e
  | none, none =>
    if o.aSparse && o.bSparse && (s.formAt tile o.aMeta).compressed && (s.formAt tile o.bMeta).compressed then
      some (0x08, o.aMeta + 9)
    else
      match arrays o.aSparse o.aMeta with
      | some e => some e
      | none => arrays o.bSparse o.bMeta

/-- The first output region that overlaps another region of the operation (R295). -/
def State.matOverlap (s : State) (tile : Nat) (o : MatOp) : Option Nat :=
  let outs := o.outputs.map fun r => (r.off, r.span)
  let ins := o.inputs.map Region2.span ++ (if o.aSparse then [(s.formAt tile o.aMeta).span] else []) ++
    (if o.bSparse then [(s.formAt tile o.bMeta).span] else [])
  let same := o.c0 == o.c && o.c0Pitch == o.cPitch && o.outFmt == 0
  let c0 := o.c0Region.span
  (outs.zipIdx.find? fun x =>
    ins.any (overlaps x.1.2) || (o.acc && overlaps x.1.2 c0 && !(x.2 == 0 && same)) ||
      outs.zipIdx.any fun y => x.2 != y.2 && overlaps x.1.2 y.1.2).map fun x => x.1.1

/-- Runs the passes in order: loads, drain, writes, and the pass's checks. -/
def State.runPass (s : State) (tile slot : Nat) (t : Task) (o : MatOp) (d : MatData) (wrong : List (Nat × Nat × Nat × Nat))
    (p : Pass) : State :=
  let c := s.drained tile o d wrong p
  let checks := if o.abft then s.abftChecks tile o d p c else []
  let inexact := s.inexact tile o d p
  let stored := ((span p.m0 p.m1).map fun m => (d.a.getD m []).length).sum
  let split := if d.rowMode then chunkMarked d p else 0
  let s := s.countConv .TIL_CONV_SAT .TIL_CONV_FLUSH [tile] (loadConvs o d p)
  let s := if inexact = 0 then s else s.bump .TIL_L8_INEXACT [tile] inexact
  let s := if d.rowMode && stored != 0 then s.bump .SPARSE_NZ_READ [tile] stored else s
  let s := if split = 0 then s else s.bump .SPARSE_SPLIT [tile] split
  let s := s.each c.zipIdx fun s r => s.drainRow tile t o (p.m0 + r.2) p.n0 (p.n1 - p.n0 + 1) r.1
  let pass : AbftPass :=
    { tile := tile, slot := slot, grove := t.grove, gen := t.gen, step := t.step, attempt := (s.step_ t.grove).attempt,
      unstepped := t.unstepped, pending := checks }
  if o.abft then { s with til := { s.til with passes := s.til.passes ++ [pass] } } else s

/-- Runs a log-array task (R295 to R300); the flag says it did not fault. Assumption: 58 (DEDUCED). -/
def State.arrayRun (s : State) (tile slot : Nat) (t : Task) (b : List Byte) (wrong : List (Nat × Nat × Nat × Nat)) :
    State × Bool :=
  let o := parseMat b
  let size := scratchSize tile
  if matBad t.grove t.gen b o then s.tilFault tile slot 0x01 t.grove t.program
  else if (o.aFmt == 0) != (o.bFmt == 0) then s.tilFault tile slot 0x02 t.grove t.program
  else
    match s.sparseCheck tile o with
    | some e => s.tilFault tile slot e.1 t.grove e.2
    | none =>
      let all := o.inputs ++ (if o.acc then [o.c0Region] else []) ++ o.outputs
      match all.find? fun r => r.span.2 > size with
      | some r => s.tilFault tile slot 0x03 t.grove r.off
      | none =>
        match s.matOverlap tile o with
        | some x => s.tilFault tile slot 0x04 t.grove x
        | none =>
          let d := s.matData tile o
          let s := if o.abft then s else s.bump .TIL_ABFT_OFF [tile]
          (s.each (passes tile o) fun s p => s.runPass tile slot t o d wrong p, true)

/-! ## Tile DMA (R301, R302, R349 to R351) -/

/-- A DMA descriptor. -/
structure DmaOp where
  kind : Nat
  fmt : Nat
  flags : Nat
  histStream : Nat
  peer : Nat
  mem : Nat
  memPitch : Nat
  rows : Nat
  rowBytes : Nat
  spx : Nat
  spxPitch : Nat
  peerOff : Nat
  peerPitch : Nat
  scale : Nat
  scalePitch : Nat
  metaOff : Nat
  deriving DecidableEq, Repr

/-- The operation a descriptor holds. -/
def parseDma (b : List Byte) : DmaOp :=
  let w := fun o => leAt b o 4
  { kind := leAt b 0 1, fmt := leAt b 4 1, flags := leAt b 5 1, histStream := leAt b 6 1, peer := leAt b 7 1,
    mem := leAt b 8 8, memPitch := w 0x10, rows := w 0x14, rowBytes := w 0x18, spx := w 0x1C, spxPitch := w 0x20,
    peerOff := w 0x24, peerPitch := w 0x28, scale := w 0x2C, scalePitch := w 0x30, metaOff := w 0x34 }

/-- flags.hist. -/
def DmaOp.hist (o : DmaOp) : Bool := bit o.flags 0
/-- flags.compress. -/
def DmaOp.comp (o : DmaOp) : Bool := bit o.flags 1
/-- Bytes of an element. -/
def DmaOp.size (o : DmaOp) : Nat := (fmtOf o.fmt).size
/-- The destination pitch of a store or copy. -/
def DmaOp.dstPitch (o : DmaOp) : Nat := if o.kind = 2 then o.peerPitch else o.memPitch

/-- A check of R302 or R349 on the descriptor fails. -/
def dmaBad (g gen : Nat) (b : List Byte) (o : DmaOp) : Bool :=
  let many := o.rows > 1
  o.kind > 2 || leAt b 1 1 != g || leAt b 2 2 != gen || o.fmt > 4 || o.flags > 3 || o.peer > 127 || o.mem ≥ 2 ^ 48 ||
    [o.mem, o.memPitch, o.rowBytes, o.spx, o.spxPitch, o.peerOff, o.peerPitch].any (· % 8 != 0) ||
    o.rows == 0 || o.rows > 65536 || o.rowBytes < 8 || o.rowBytes > 65536 || !zeroAt b 0x38 8 ||
    (many && (o.spxPitch < o.rowBytes || o.dstPitch < o.rowBytes)) ||
    (o.hist && (o.kind == 0 || o.fmt == 4 || o.rowBytes % o.size != 0)) || (o.comp && o.kind == 0) ||
    (o.kind == 2 && (o.mem != 0 || o.memPitch != 0)) ||
    (o.kind != 2 && (o.peer != 0 || o.peerOff != 0 || o.peerPitch != 0)) || (!o.hist && o.histStream != 0) ||
    (!(o.fmt == 3 && (o.hist || o.comp)) && (o.scale != 0 || o.scalePitch != 0)) || (!o.comp && o.metaOff != 0) ||
    (o.comp && (o.fmt > 3 || o.rowBytes % o.size != 0 || (if o.kind = 2 then o.peerOff else o.mem) % 64 != 0 ||
      o.dstPitch % 64 != 0 || o.metaOff % 64 != 0))

/-- Elements of a row. -/
def DmaOp.cols (o : DmaOp) : Nat := o.rowBytes / o.size

/-- The longest a compressed transfer's destination can be (R350). -/
def DmaOp.longest (o : DmaOp) : Nat := (denseForm o.fmt o.rows o.cols o.dstPitch).total

/-- The regions in the tile's own scratchpad, and the destination in the peer's. -/
def DmaOp.own (o : DmaOp) : List Span :=
  [spanOf o.spx o.rows o.spxPitch o.rowBytes] ++
    (if o.fmt = 3 && (o.hist || o.comp) then [spanOf o.scale o.rows o.scalePitch (blocks32 o.cols)] else []) ++
    (if o.comp then [(o.metaOff, o.metaOff + 64)] else [])

/-- The destination of a copy. -/
def DmaOp.dst (o : DmaOp) : Span :=
  if o.comp then (o.peerOff, o.peerOff + o.longest) else spanOf o.peerOff o.rows o.peerPitch o.rowBytes

/-- The checks a DMA makes before it moves a row, in order (R302): code and detail. -/
def State.dmaCheck (s : State) (tile : Nat) (t : Task) (b : List Byte) (o : DmaOp) : Option (Nat × Nat) :=
  if dmaBad t.grove t.gen b o then some (0x01, t.program)
  else if o.kind = 2 && !s.tileUsable t.grove o.peer then some (0x06, o.peerOff)
  else
    match o.own.find? fun r => r.2 > scratchSize tile with
    | some r => some (0x03, r.1)
    | none =>
      if o.kind = 2 && o.dst.2 > scratchSize o.peer then some (0x03, o.peerOff)
      else if o.kind = 2 && o.peer = tile && o.own.any (overlaps o.dst) then some (0x06, o.peerOff)
      else none

/-- The scale of element j of row r (R302). -/
def State.dmaScale (s : State) (tile : Nat) (o : DmaOp) (r j : Nat) : Int :=
  if o.fmt = 3 then toSigned 8 (leAt (s.spxRead tile (o.scale + r * o.scalePitch + j / 32) 1) 0 1) else 0

/-- Counts a row's histogram (R302, R351). -/
def State.dmaHist (s : State) (tile : Nat) (t : Task) (o : DmaOp) (r : Nat) (bs : List Byte) : State :=
  if o.hist && !t.unstepped then
    s.each (List.range o.cols) fun s j => s.histAdd .til (dieOfTile tile) t.grove o.histStream
      (histIndex (fmtOf o.fmt) (s.dmaScale tile o r j) (leAt bs (j * o.size) o.size))
  else s

/-- Writes bytes at the destination of a store or copy, at an offset from its start. -/
def State.dmaPut (s : State) (t : Task) (o : DmaOp) (off : Nat) (bs : List Byte) : State × Acc :=
  if o.kind = 2 then (s.spxWrite o.peer (o.peerOff + off) bs, .ok)
  else s.writeVa t.grove ((o.mem + off) % 2 ^ 48) bs

/-- Ends a transfer whose memory access failed: a page writes TIL_DMA_PAGE, a line the controller's own record, a
channel of another grove STALE_GROVE. -/
def State.dmaStop (s : State) (tile slot : Nat) (t : Task) (va : Nat) : Acc → State
  | .page => s.tilRecord tile slot 0x05 t.grove va
  | .stale => s.staleRecord .til (dieOfTile tile) t.grove (s.grove t.grove).generation (!(s.grove t.grove).bound)
  | _ => s

/-- Moves rows in ascending order (R302). -/
def State.dmaRows (s : State) (tile slot : Nat) (t : Task) (o : DmaOp) : List Nat → State × Bool
  | [] => (s, true)
  | r :: rs =>
    let va := (o.mem + r * o.memPitch) % 2 ^ 48
    let sp := o.spx + r * o.spxPitch
    let x := if o.kind = 0 then s.readVa t.grove va o.rowBytes else (s, .ok, s.spxRead tile sp o.rowBytes)
    match x with
    | (s, .ok, bs) =>
      let w := if o.kind = 0 then (s.spxWrite tile sp bs, Acc.ok) else s.dmaPut t o (r * o.dstPitch) bs
      if w.2 == .ok then
        ((w.1.dmaHist tile t o r bs).bump .TIL_DMA_BYTES [tile] o.rowBytes).dmaRows tile slot t o rs
      else (w.1.dmaStop tile slot t va w.2, false)
    | (s, e, _) => (s.dmaStop tile slot t va e, false)

/-- Writes the pieces of a form in order, then its header to meta_offset. -/
def State.dmaPieces (s : State) (tile slot : Nat) (t : Task) (o : DmaOp) (f : Form) : List (Nat × List Byte) → State × Bool
  | [] => (s.spxWrite tile o.metaOff f.bytes, true)
  | (off, bs) :: ps =>
    match s.dmaPut t o off bs with
    | (s, .ok) => (if bs.isEmpty then s else s.bump .TIL_DMA_BYTES [tile] bs.length).dmaPieces tile slot t o f ps
    | (s, e) => (s.dmaStop tile slot t ((o.mem + off) % 2 ^ 48) e, false)

/-- A compressing store or copy (R350, R351). Assumption: 59 (DESIGN CHOICE). -/
def State.dmaCompress (s : State) (tile slot : Nat) (t : Task) (o : DmaOp) : State × Bool :=
  let rows := (List.range o.rows).map fun r => s.spxRead tile (o.spx + r * o.spxPitch) o.rowBytes
  let codes := rows.map fun b => (List.range o.cols).map fun j => leAt b (j * o.size) o.size
  let scales := if o.fmt = 3 then
      (List.range o.rows).flatMap fun r => s.spxRead tile (o.scale + r * o.scalePitch) (blocks32 o.cols)
    else []
  let f := buildForm o.fmt o.cols o.dstPitch codes scales
  let s := s.each rows.zipIdx fun s r => s.dmaHist tile t o r.2 r.1
  match s.dmaPieces tile slot t o f.1 f.2 with
  | (s, true) => (s.bump (if f.1.compressed then .DMA_COMPRESSED else .DMA_DENSE_FORM) [tile], true)
  | r => r

/-- Runs a DMA task; the flag says it did not fault. -/
def State.dmaRun (s : State) (tile slot : Nat) (t : Task) (b : List Byte) : State × Bool :=
  let o := parseDma b
  match s.dmaCheck tile t b o with
  | some e => s.tilFault tile slot e.1 t.grove e.2
  | none => if o.comp then s.dmaCompress tile slot t o else s.dmaRows tile slot t o (List.range o.rows)

/-! ## The end of a task (R131) -/

/-- The unit's work of a task: its flag says it did not fault. Assumption: 87 (DESIGN CHOICE). -/
def State.unitRun (s : State) (tile slot : Nat) (x : Slot) (wrong : List (Nat × Nat × Nat × Nat)) : State × Bool :=
  let t := x.task
  if t.unit = 0 then s.arrayRun tile slot t x.desc wrong
  else if t.unit = 1 then s.svuRun tile slot t x.desc
  else if t.unit = 2 then s.dmaRun tile slot t x.desc
  else if t.unit = 3 then s.smuRun tile slot t x.desc
  else (s, true)

/-- Counts what a unit reports with its end (R147, R289, R318, R342). -/
def State.unitCounts (s : State) (tile unit : Nat) (r : UnitReport) : State :=
  let add := fun (s : State) (reg : Reg) ix n => if n = 0 then s else s.bump reg ix n
  let s := if unit < 4 then add s .SCH_BUSY [tile, unit] r.cycles else s
  let s := add s .SCH_HOLD_CYC [tile] r.holdCycles
  let s := if unit = 0 then add s .TIL_ARRAY_CYC [tile] r.streamCycles else s
  let s := if unit = 1 then add s .SVU_PORT_STALL [tile] r.portCycles else s
  let s := add s .SPX_CONFLICT [tile] r.conflictCycles
  s.each r.corrected fun s o =>
    ((s.bump .SPX_ECC_CORR [tile]).spxEcc tile o false).heatOn 1 (s.tileOwner tile).toList

/-- A unit reports the end of a task in a slot: it has run its operation, or faults, and releases its signals (R131,
R143). A task of unit 4 ends as soon as it is ready. A task of a step that no longer runs is stopped and does not end
(R34, R142). Assumption: 87 (DESIGN CHOICE). -/
def State.taskEnd (s : State) (tile slot : Nat) (r : UnitReport) : State :=
  let key := slotKey tile slot
  match s.slot key with
  | none => s
  | some x =>
    let ready := x.task.unit == 4 && x.order.isSome &&
      (x.task.unstepped || !s.schFaulted (dieOfTile tile) x.task.grove)
    if !s.islandsRun || !s.taskLive x.task || !(ready || (x.task.unit != 4 && x.st == .running)) then s
    else
      let s := s.unitCounts tile x.task.unit r
      match r.uncorrectable with
      | some off => ((s.spxEcc tile off true).tilRecord tile slot 0x07 x.task.grove off).endTask key
      | none =>
        match s.unitRun tile slot x r.wrong with
        | (s, true) => s.completeTask key
        | (s, false) => s.endTask key

/-! ## Pending checks (R306, R307) -/

/-- The first pass of a tile with a pending check, taken out of a list: the passes before it, it, the passes after. -/
def splitPass (tile : Nat) : List AbftPass → Option (List AbftPass × AbftPass × List AbftPass)
  | [] => none
  | p :: ps =>
    if p.tile = tile then some ([], p, ps)
    else (splitPass tile ps).map fun r => (p :: r.1, r.2.1, r.2.2)

/-- The next check of a tile's oldest pass completes; the pass's last check with mismatches makes its report. -/
def State.checkDone (s : State) (tile : Nat) : State :=
  match splitPass tile s.til.passes with
  | none => s
  | some (before, p, after) =>
    match p.pending with
    | [] => { s with til := { s.til with passes := before ++ after } }
    | c :: cs =>
      let s := s.bump .TIL_ABFT_CHECKS [tile]
      let s := if c.ok then s else s.bump .TIL_ABFT_MISMATCH [tile]
      let s := if c.nonfinite then s.bump .TIL_ABFT_NONFINITE [tile] else s
      let p := { p with pending := cs, failed := if c.ok then p.failed else p.failed ++ [c] }
      if !cs.isEmpty then { s with til := { s.til with passes := before ++ p :: after } }
      else
        let reports := if p.failed.isEmpty then s.til.reports else s.til.reports ++ [p]
        { s with til := { s.til with passes := before ++ after, reports := reports } }

/-- A check completes. -/
def execAbftCheckDone (tile : Nat) (s : State) : Host.Outcome State Fault Refusal :=
  .next (s.onDie fun s => s.checkDone tile)

/-- Checks of a tile not yet complete (R313). -/
def State.abftPending (s : State) (tile : Nat) : Nat :=
  ((s.til.passes.filter fun p => p.tile == tile).map fun p => p.pending.length).sum

/-- A check of a stepped task of a grove's step is pending (R306). -/
def State.checksPend (s : State) (g n : Nat) : Bool :=
  s.til.passes.any fun p => p.grove == g && !p.unstepped && p.step == n

/-- Discards the pending checks and reports that `p` names (R307). -/
def State.dropChecks (s : State) (p : AbftPass → Bool) : State :=
  { s with til := { s.til with passes := s.til.passes.filter fun x => !p x, reports := s.til.reports.filter fun x => !p x } }

/-- The lowest failing check of a kind. -/
def AbftPass.lowest (p : AbftPass) (row : Bool) : Option AbftCheck :=
  (p.failed.filter fun c => c.row == row).foldl (fun m c => match m with
    | none => some c
    | some d => if c.index < d.index then some c else some d) none

/-- TIL_ABFT_WHERE and TIL_ABFT_VALUES describe a report (R316, R317). -/
def State.abftWhere (s : State) (p : AbftPass) : State :=
  let r := p.lowest true
  let c := p.lowest false
  let ix := fun (x : Option AbftCheck) => (x.map (·.index)).getD 0
  let v := match c with
    | some c => (c.obs, c.ref)
    | none => ((r.map AbftCheck.obs).getD 0, (r.map AbftCheck.ref).getD 0)
  let s := s.putReg .TIL_ABFT_WHERE [p.tile] (BitVec.ofNat 64 (p.slot * 2 ^ 54 + b2n r.isSome * 2 ^ 53 +
    b2n c.isSome * 2 ^ 52 + ix c * 2 ^ 38 + ix r * 2 ^ 22 + p.step % 2 ^ 16))
  s.putReg .TIL_ABFT_VALUES [p.tile] (BitVec.ofNat 64 (v.2 * 2 ^ 32 + v.1))

/-! ## Registers -/

/-- A batch runs (R16, R64). -/
def State.batchRuns (s : State) : Bool := s.grv.batch.isSome

/-- A write of a tile's tolerance register, refused while a batch runs (R16). -/
def State.tolWrite (s : State) (r : Reg) (tile : Nat) (v : Word) : State :=
  if s.batchRuns then s.refuseWrite r [tile] else s.softWrite r [tile] v

/-- A write of TIL_ABFT_TOL (R314). -/
def execTilAbftTolWrite (tile : Nat) (value : Word) (s : State) : Host.Outcome State Fault Refusal :=
  .next (s.onDie fun s => s.tolWrite .TIL_ABFT_TOL tile value)

/-- A write of TIL_ABFT_ABS (R315). -/
def execTilAbftAbsWrite (tile : Nat) (value : Word) (s : State) : Host.Outcome State Fault Refusal :=
  .next (s.onDie fun s => s.tolWrite .TIL_ABFT_ABS tile value)

/-- A tile that changes grove: its scratchpad is zeroed and its tolerances reset (R65). -/
def State.resetTile (s : State) (tile : Nat) : State :=
  ((s.spxClear tile).resetReg .TIL_ABFT_TOL [tile]).resetReg .TIL_ABFT_ABS [tile]

end Sys2Proof.Machine
end

