-- ==== Sys2Proof/Machine/Reduce.lean ====
section
/-! DEFINITION. Reductions (ch. 15): trees, reduction descriptors, the owner's buffers and divisor correction, tallies,
answers, and parameter broadcast. -/
namespace Sys2Proof.Machine

/-! ## Trees (R464, R465) -/

/-- The bits a number sets, ascending; `fuel` bounds their count. -/
def setBits : Nat → Nat → List Nat
  | 0, _ => []
  | fuel + 1, n => if n = 0 then [] else setBits fuel (n - 2 ^ n.log2) ++ [n.log2]

/-- The members of a grove, ascending (R53). -/
def State.members (s : State) (g : Nat) : List Nat := setBits 32768 (s.grove g).members

/-- The position of a device in a list. -/
def indexIn (l : List Nat) (d : Nat) : Option Nat := l.findIdx? (· == d)

/-- The parent of a device in the tree over a list rooted at a device; none at the root or off the list. -/
def treeParent (l : List Nat) (root d : Nat) : Option Nat :=
  match indexIn l root, indexIn l d with
  | some r, some i =>
    let n := l.length
    let j := (i + n - r) % n
    if j = 0 then none else l[((j - 1) / 2 + r) % n]?
  | _, _ => none

/-- The children of a device in the tree. -/
def treeChildren (l : List Nat) (root d : Nat) : List Nat :=
  match indexIn l root, indexIn l d with
  | some r, some i =>
    let n := l.length
    let j := (i + n - r) % n
    ([2 * j + 1, 2 * j + 2].filter (· < n)).filterMap fun k => l[(k + r) % n]?
  | _, _ => []

/-! ## Keys and records -/

/-- The number of a die of a grove. -/
def dieGrove (die g : Nat) : Nat := 16 * die + g

/-- The key of a reduction. -/
def redKey (die g r : Nat) : Nat := 4096 * dieGrove die g + r

/-- The key of a request without an answer. -/
def reqKey (die g request : Nat) : Nat := 2 ^ 32 * dieGrove die g + request

/-- The state with the collective engines changed. -/
def State.modCol (s : State) (f : CollState → CollState) : State := { s with col := f s.col }

/-- A reduction's slot. -/
def State.reduction (s : State) (k : Nat) : Reduction := tgetD s.col.reductions k {}

/-- The state with a reduction's slot changed. -/
def State.modRed (s : State) (k : Nat) (f : Reduction → Reduction) : State :=
  s.modCol fun x => { x with reductions := tmod x.reductions k {} f }

/-- The descriptor in force of a reduction. -/
def State.redDesc (s : State) (die g r : Nat) : Option RedDesc := (s.reduction (redKey die g r)).desc

/-- A COL record (R494, R499): reduction, segment, and the peer or the count. -/
def State.colRecord (s : State) (sev : Sev) (die code g red seg peer : Nat) : State :=
  let s := s.putReg .COL_FAULT_LAST [die] (BitVec.ofNat 64
    (code * 2 ^ 56 + g * 2 ^ 52 + red % 2 ^ 12 * 2 ^ 40 + seg % 2 ^ 25 * 2 ^ 15 + peer % 2 ^ 15))
  s.record .col sev die code (some g) (red % 2 ^ 12 + seg % 2 ^ 25 * 2 ^ 12 + peer % 2 ^ 27 * 2 ^ 37)

/-- The next request number of a die of a grove (R471). -/
def State.colRequest (s : State) (die g : Nat) : Nat × State :=
  let k := dieGrove die g
  let n := tgetD s.col.nextRequest k 0
  (n, s.modCol fun x => { x with nextRequest := tset x.nextRequest k ((n + 1) % 2 ^ 32) })

/-- An answer of R473 over the trunk. -/
def State.colAck (s : State) (die device g request status : Nat) : State :=
  s.sendMsg die true device 0x1B g (mfield 4 request ++ mfield 1 status)

/-! ## Reduction descriptors (R468) -/

/-- The reduction a descriptor spells, and whether its fields are in range, unused ones zero and reserved ones zero
(R469). -/
def parseRed (b : List Byte) : Bool × RedDesc :=
  let flags := leAt b 2 1
  let con := bit flags 0
  let own := bit flags 1
  let rep := bit flags 2
  let w := fun o => leAt b o 8
  let d : RedDesc :=
    { reduction := leAt b 0 2, contribute := con, own := own, replica := rep, slot := leAt b 3 1,
      paramFormat := leAt b 4 1, elements := leAt b 8 4, weight := leAt b 0x0C 2, groupCount := leAt b 0x0E 2,
      source := w 0x10, ownerMap := w 0x18, accBase := w 0x20, groupList := w 0x28, replicaVa := w 0x30, ready := w 0x38,
      paramSignal := w 0x40, deadlineUs := leAt b 0x48 4, expected := leAt b 0x4C 4, ownFirst := leAt b 0x50 4,
      ownCount := leAt b 0x54 4, master := w 0x58 }
  let segs := (d.elements + 1535) / 1536
  let unused := fun (used : Bool) (l : List Nat) => used || l.all (· == 0)
  let ok := d.reduction < 4096 && 1 ≤ flags && flags < 8 && d.paramFormat ≤ 2 && zeroAt b 5 3 && 1 ≤ d.elements &&
    segs ≤ 2 ^ 24 && 1 ≤ d.groupCount && d.groupCount ≤ 32768 &&
    [d.source, d.ownerMap, d.accBase, d.groupList, d.replicaVa, d.master].all (· < 2 ^ 48) &&
    d.accBase % 4096 == 0 && (parseEntry d.ready).1 && (parseEntry d.paramSignal).1 &&
    (!con || 1 ≤ d.weight) && unused con [d.weight, d.source, d.ownerMap, d.ready] &&
    (!own || (1 ≤ d.deadlineUs && d.deadlineUs ≤ 10000000 && 1 ≤ d.ownCount && d.ownFirst + d.ownCount ≤ segs)) &&
    unused own [d.accBase, d.deadlineUs, d.expected, d.ownFirst, d.ownCount, d.master] &&
    unused rep [d.replicaVa, d.paramSignal] && zeroAt b 0x60 32
  (ok, d)

/-- Segments of the tensor. -/
def RedDesc.segments (d : RedDesc) : Nat := (d.elements + 1535) / 1536

/-- Elements of a segment. -/
def RedDesc.elemsOf (d : RedDesc) (seg : Nat) : Nat := min 1536 (d.elements - 1536 * seg)

/-- Bytes of a parameter. -/
def RedDesc.size (d : RedDesc) : Nat := if d.paramFormat = 0 then 4 else 2

/-- This die owns a segment. -/
def RedDesc.owns (d : RedDesc) (seg : Nat) : Bool := d.own && d.ownFirst ≤ seg && seg < d.ownFirst + d.ownCount

/-- The replica group, read from grove memory. -/
def State.group (s : State) (g : Nat) (d : RedDesc) : List Nat :=
  let b := s.peekVa g d.groupList (2 * d.groupCount)
  (List.range d.groupCount).map fun i => leAt b (2 * i) 2

/-- Numbers strictly ascend. -/
def rising : List Nat → Bool
  | [] => true
  | [_] => true
  | a :: b :: t => a < b && rising (b :: t)

/-! ## The owner's buffers (R474) and divisor correction (R478) -/

/-- Bytes of a buffer. -/
def RedDesc.bufBytes (d : RedDesc) : Nat := (d.ownCount * 6160 + 4095) / 4096 * 4096

/-- The address of an owned segment's sum area in the buffer of a step. -/
def RedDesc.sumVa (d : RedDesc) (step seg : Nat) : Nat :=
  d.accBase + step % 2 * d.bufBytes + 6144 * (seg - d.ownFirst)

/-- The address of its count word; its saturation word lies 8 bytes after. -/
def RedDesc.countVa (d : RedDesc) (step seg : Nat) : Nat :=
  d.accBase + step % 2 * d.bufBytes + 6144 * d.ownCount + 16 * (seg - d.ownFirst)

/-- The count word of a segment. -/
def State.countWord (s : State) (g : Nat) (d : RedDesc) (step seg : Nat) : Nat :=
  leAt (s.peekVa g (d.countVa step seg) 4) 0 4

/-- The count words of every owned segment. -/
def State.countWords (s : State) (g : Nat) (d : RedDesc) (step : Nat) : List Nat :=
  (List.range d.ownCount).map fun j => s.countWord g d step (d.ownFirst + j)

/-- The engine zeroes the buffer of a step. -/
def State.zeroBuffer (s : State) (g : Nat) (d : RedDesc) (step : Nat) : State :=
  (s.writeVa g (d.accBase + step % 2 * d.bufBytes) (List.replicate d.bufBytes 0)).1

/-- The exact quotient of S * 2^(E - 6) and c, rounded once to FP32 (R478): 64 more bits and a sticky bit are enough. -/
def gradQuot (sum : Int) (c : Nat) (e : Int) : Num :=
  let m := sum.natAbs * 2 ^ 64
  let q := 2 * (m / c) + (if m % c = 0 then 0 else 1)
  ofF32 (Num.fin (sum < 0) q (e - 6 - 65)).f32

/-! ## Tallies (R490) -/

/-- The mixing function of R490. -/
def mix (x : Nat) : Nat :=
  let x := x ^^^ (x / 2 ^ 31)
  let x := x * 0xA54F2C197B3ED861 % 2 ^ 64
  let x := x ^^^ (x / 2 ^ 29)
  let x := x * 0x6E91C3D50F27B4A3 % 2 ^ 64
  x ^^^ (x / 2 ^ 32)

/-- The tally item of a contribution of a sender. Assumption: 65 (DEDUCED). -/
def tallyItem (g sender : Nat) (c : Contribution) : Nat :=
  let w0 := c.step % 2 ^ 48 + c.attempt % 2 ^ 8 * 2 ^ 48 + g % 16 * 2 ^ 56
  let w1 := (sender % 2 ^ 15 + c.reduction % 2 ^ 12 * 2 ^ 16 + c.segment * 2 ^ 28) % 2 ^ 64
  let w2 := c.crc % 2 ^ 32 + c.count * 2 ^ 32
  mix (w0 ^^^ mix (w1 ^^^ mix w2))

/-- The state with the tally of a die of a grove changed. -/
def State.modTally (s : State) (die g : Nat) (f : Tally → Tally) : State :=
  s.modCol fun x => { x with tally := tmod x.tally (dieGrove die g) {} f }

/-- Sums modulo 2^64. -/
def add64 (a b : Nat) : Nat := (a + b) % 2 ^ 64

/-- Counts of a tally record are 32 bits wide. -/
def inc32 (a : Nat) : Nat := (a + 1) % 2 ^ 32

/-- A contribution is first sent. -/
def State.tallySent (s : State) (die g item : Nat) : State :=
  s.modTally die g fun t => { t with sent := inc32 t.sent, sentDigest := add64 t.sentDigest item }
/-- A contribution is applied. -/
def State.tallyRecv (s : State) (die g item : Nat) : State :=
  s.modTally die g fun t => { t with recv := inc32 t.recv, recvDigest := add64 t.recvDigest item }
/-- A contribution is answered late. -/
def State.tallyLate (s : State) (die g item : Nat) : State :=
  s.modTally die g fun t => { t with late := inc32 t.late, lateDigest := add64 t.lateDigest item }
/-- A contribution is abandoned. -/
def State.tallyAbandoned (s : State) (die g item : Nat) : State :=
  s.modTally die g fun t => { t with abandoned := inc32 t.abandoned, abandonedDigest := add64 t.abandonedDigest item }

/-- The tally record of an ended attempt (R491). -/
def tallyBytes (g die step attempt : Nat) (voided : Bool) (t : Tally) : List Byte :=
  toLe 8 (step % 2 ^ 48 + attempt * 2 ^ 48 + g * 2 ^ 56) ++ toLe 1 (b2n voided) ++ toLe 1 die ++ toLe 6 0 ++
    toLe 4 t.sent ++ toLe 4 t.recv ++ toLe 4 t.late ++ toLe 4 t.abandoned ++
    toLe 8 t.sentDigest ++ toLe 8 t.recvDigest ++ toLe 8 t.lateDigest ++ toLe 8 t.abandonedDigest

/-- Each die writes its tally record of the ended attempt to its ring, while the ring is enabled, and starts anew (R491,
R497). -/
def State.writeTallies (s : State) (g : Nat) (voided : Bool) : State :=
  s.each [0, 1] fun s die =>
    let v := s.getReg .COL_TALLY_RING [die, g]
    let head := s.regFld .COL_TALLY_HEAD [die, g] 0 32
    let x := s.step_ g
    let t := tgetD s.col.tally (dieGrove die g) {}
    let s := s.modCol fun c => { c with tally := terase c.tally (dieGrove die g) }
    if v.getLsbD 63 then
      let at' := wfld v 6 35 * 64 + 64 * (head % 2 ^ wfld v 56 5)
      ((s.writeLocal .hearth at' (tallyBytes g die x.step x.attempt voided t)).1).putFld .COL_TALLY_HEAD [die, g] 0 32
        (head + 1)
    else s

/-! ## Contributions on the wire (R471) -/

/-- The payload of a contribution. -/
def contributionPayload (c : Contribution) : List Byte :=
  mfield 6 c.step ++ mfield 1 c.attempt ++ mfield 2 c.reduction ++ mfield 1 c.kind ++ mfield 1 c.blocks ++
    mfield 3 c.segment ++ mfield 4 c.request ++ mfield 2 c.count ++ mfield 6 c.target ++ mfield 4 c.crc ++ c.data

/-- Sends a contribution, or sends it again. -/
def State.sendContribution (s : State) (die g dest : Nat) (c : Contribution) : State :=
  s.sendMsg die true dest 0x21 g (contributionPayload c)

/-- Abandons a contribution (R473): counted, recorded and, for gradient blocks, tallied. An abandoned histogram merge is
never acknowledged, so the clean report waits for ever (R484). Assumption: 64 (DESIGN CHOICE). -/
def State.abandon (s : State) (die g : Nat) (x : SentContribution) : State :=
  let s := (s.bump .COL_ABANDONED [die]).colRecord .contained die 0x08 g x.msg.reduction x.msg.segment x.dest
  if x.msg.kind = 2 then s.tallyAbandoned die g (tallyItem g s.devnum x.msg) else s.stepFault g

/-- The answer to a contribution ends it (R473). Assumption: 3 (DESIGN CHOICE). -/
def State.contributionAck (s : State) (die : Nat) (o : Origin) (request : Nat) : State :=
  if !s.groveIs o.grove o.gen then s.dropStale die o true
  else
    let k := reqKey die o.grove request
    match tget s.col.sent k with
    | some x => if x.dest = o.device then s.modCol fun c => { c with sent := terase c.sent k } else s
    | none => s

/-- An acknowledgement of a contribution arrives. -/
def execContributionAckReceive (die : Nat) (o : Origin) (request _status : Nat) (s : State) :
    Host.Outcome State Fault Refusal :=
  .next (s.onDie fun s => s.contributionAck die o request)

/-- A contribution has had no answer for 50 µs: sent again at most three times, then abandoned (R473). -/
def State.contributionTimeout (s : State) (die g request : Nat) : State :=
  let k := reqKey die g request
  match tget s.col.sent k with
  | none => s
  | some x =>
    if x.tries < 3 then
      let s := s.modCol fun c => { c with sent := tset c.sent k { x with tries := x.tries + 1 } }
      (s.bump .COL_RETRY [die]).sendContribution die g x.dest x.msg
    else (s.modCol fun c => { c with sent := terase c.sent k }).abandon die g x

/-- A contribution's timeout. -/
def execContributionTimeout (die grove request : Nat) (s : State) : Host.Outcome State Fault Refusal :=
  .next (s.onDie fun s => s.contributionTimeout die grove request)

/-- A STALE_GROVE answer ends the grove's contributions to a device as abandonments (R473).
Assumption: 66 (DESIGN CHOICE). -/
def State.staleContributions (s : State) (die g device : Nat) : State :=
  let mine := s.col.sent.filter fun p => p.1 / 2 ^ 32 == dieGrove die g && p.2.dest == device
  s.each mine fun s p => (s.modCol fun c => { c with sent := terase c.sent p.1 }).abandon die g p.2

/-! ## Parameter broadcast (R480, R481) -/

/-- Bytes of a segment's parameters. -/
def RedDesc.segBytes (d : RedDesc) (seg : Nat) : Nat := d.elemsOf seg * d.size

/-- Pieces of a segment. -/
def RedDesc.piecesOf (d : RedDesc) (seg : Nat) : Nat := (d.segBytes seg + 1535) / 1536

/-- Pieces of every segment. -/
def RedDesc.allPieces (d : RedDesc) : Nat :=
  -- every segment but the last is whole
  (d.segments - 1) * d.size + d.piecesOf (d.segments - 1)

/-- The payload of a piece. -/
def piecePayload (p : Piece) : List Byte :=
  mfield 6 p.step ++ mfield 2 p.reduction ++ mfield 3 p.segment ++ mfield 1 p.piece ++ mfield 2 p.data.length ++
    mfield 4 p.request ++ mfield 4 p.crc ++ p.data

/-- Sends a piece to the children of this device in its owner's tree. -/
def State.relayPiece (s : State) (die g owner : Nat) (group : List Nat) (p : Piece) : State :=
  s.each (treeChildren group owner s.devnum) fun s child =>
    let q := s.colRequest die g
    let p := { p with request := q.1 }
    let s := q.2.modCol fun c => { c with pieces := tset c.pieces (reqKey die g q.1) { child := child, piece := p } }
    s.sendMsg die true child 0x22 g (piecePayload p)

/-- The piece is one a replica has not received (R481): of a later step than its list, or not on it. -/
def State.pieceNew (s : State) (k : Nat) (p : Piece) : Bool :=
  match tget s.col.received k with
  | none => true
  | some (n, l) => serialAfter p.step n 48 || (p.step == n && !l.contains (p.segment, p.piece))

/-- A die notes a piece that is new to it; a replica writes it and, once it has every piece of the step, signals
param_signal. A piece whose write fails is not received (R396). Assumption: 88 (DEDUCED). -/
def State.storePiece (s : State) (die g : Nat) (d : RedDesc) (p : Piece) : State :=
  let k := redKey die g d.reduction
  if !s.pieceNew k p then s
  else
    let old := match tget s.col.received k with
      | some (n, l) => if n = p.step then l else []
      | none => []
    let l := old ++ [(p.segment, p.piece)]
    let note := fun (s : State) => s.modCol fun c => { c with received := tset c.received k (p.step, l) }
    if !d.replica then note s
    else
      let w := s.writeVa g (d.replicaVa + 1536 * p.segment * d.size + 1536 * p.piece) p.data
      if w.2 ≠ .ok then w.1
      else
        let s := (note w.1).bump .COL_PIECES [die]
        if l.length = d.allPieces then
          match (parseEntry d.paramSignal).2 with
          | some w => s.engineSignal w.1 1
          | none => s
        else s

/-- A reduction's descriptor on a die of this device, the given die first. -/
def State.anyDesc (s : State) (die g r : Nat) : Option RedDesc :=
  match s.redDesc die g r with
  | some d => some d
  | none => s.redDesc (1 - die) g r

/-- Writes a piece to every replica of this device. -/
def State.storeHere (s : State) (g : Nat) (p : Piece) : State :=
  s.each [0, 1] fun s die =>
    match s.redDesc die g p.reduction with
    | some d => s.storePiece die g d p
    | none => s

/-- The owner sends the pieces of its owned segments (R480), and writes those of its own replica. -/
def State.broadcast (s : State) (die g step : Nat) (d : RedDesc) : State :=
  let group := s.group g d
  let segs := (List.range d.ownCount).map (· + d.ownFirst)
  s.each (segs.flatMap fun seg => (List.range (d.piecesOf seg)).map fun i => (seg, i)) fun s x =>
    let off := (x.1 - d.ownFirst) * 1536 * d.size + 1536 * x.2
    let data := s.peekVa g (d.master + off) (min 1536 (d.segBytes x.1 - 1536 * x.2))
    let p : Piece :=
      { step := step, reduction := d.reduction, segment := x.1, piece := x.2, request := 0, crc := crc32c data, data := data }
    (s.storeHere g p).relayPiece die g s.devnum group p

/-- The owner whose tree a piece travels is found from the device that sent it: the root of the tree in which the
sender is this device's parent. The owner map of a contributor names it; else the tree is found among the group.
Assumption: 66 (DESIGN CHOICE). -/
def State.pieceOwner (s : State) (g : Nat) (d : RedDesc) (group : List Nat) (seg sender : Nat) : Option Nat :=
  if d.contribute then some (leAt (s.peekVa g (d.ownerMap + 2 * seg) 2) 0 2 % 2 ^ 15)
  else group.find? fun r => treeParent group r s.devnum == some sender

/-- A piece arrives (R480): written where it is new, acknowledged, and passed on. A piece of a step after this device's
own is dropped. -/
def State.pieceReceive (s : State) (die : Nat) (o : Origin) (p : Piece) : State :=
  let g := o.grove
  if !s.groveIs g o.gen then s.dropStale die o true
  else
    match s.anyDesc die g p.reduction with
    | none => s
    | some d =>
      if serialAfter p.step (s.step_ g).step 48 then s
      else
        let group := s.group g d
        let new := [0, 1].any fun e => match s.redDesc e g p.reduction with
          | some _ => s.pieceNew (redKey e g p.reduction) p
          | none => false
        let s := (s.storeHere g p).colAck die o.device g p.request 0
        if new then
          match s.pieceOwner g d group p.segment o.device with
          | some owner => s.relayPiece die g owner group p
          | none => s
        else s

/-- A piece arrives. -/
def execBcastPieceReceive (die : Nat) (o : Origin) (p : Piece) (s : State) : Host.Outcome State Fault Refusal :=
  .next (s.onDie fun s => s.pieceReceive die o p)

/-- A child's acknowledgement of a piece (R480). -/
def State.pieceAck (s : State) (die : Nat) (o : Origin) (request : Nat) : State :=
  if !s.groveIs o.grove o.gen then s.dropStale die o true
  else
    let k := reqKey die o.grove request
    match tget s.col.pieces k with
    | some x => if x.child = o.device then s.modCol fun c => { c with pieces := terase c.pieces k } else s
    | none => s

/-- An acknowledgement of a piece arrives. -/
def execBcastAckReceive (die : Nat) (o : Origin) (request : Nat) (s : State) : Host.Outcome State Fault Refusal :=
  .next (s.onDie fun s => s.pieceAck die o request)

/-- Abandons a piece (R480). -/
def State.losePiece (s : State) (die g k : Nat) (x : SentPiece) : State :=
  ((s.modCol fun c => { c with pieces := terase c.pieces k }).bump .COL_ABANDONED [die]).colRecord .contained die 0x0B g
    x.piece.reduction x.piece.segment x.child

/-- A piece has had no acknowledgement for 50 µs: sent again at most three times, then abandoned. -/
def State.pieceTimeout (s : State) (die g request : Nat) : State :=
  let k := reqKey die g request
  match tget s.col.pieces k with
  | none => s
  | some x =>
    if x.tries < 3 then
      let s := s.modCol fun c => { c with pieces := tset c.pieces k { x with tries := x.tries + 1 } }
      (s.bump .COL_RETRY [die]).sendMsg die true x.child 0x22 g (piecePayload x.piece)
    else s.losePiece die g k x

/-- A piece's timeout. -/
def execBcastPieceTimeout (die grove request : Nat) (s : State) : Host.Outcome State Fault Refusal :=
  .next (s.onDie fun s => s.pieceTimeout die grove request)

/-- The commit of step n starts each replica's list of the step's pieces (R482). -/
def State.expectPieces (s : State) (g n : Nat) : State :=
  s.each s.col.reductions fun s p =>
    match p.2.desc with
    | some d =>
      let start := match tget s.col.received p.1 with
        | none => true
        | some x => serialAfter n x.1 48
      if p.1 / 4096 % 16 = g && d.replica && start then
        s.modCol fun c => { c with received := tset c.received p.1 (n, []) }
      else s
    | none => s

/-- The commit timeout has passed since the commit, and a replica of the die is incomplete (R482). -/
def State.bcastTimeout (s : State) (die g : Nat) : State :=
  let lacking := s.col.reductions.filterMap fun p =>
    match p.2.desc, tget s.col.received p.1 with
    | some d, some (_, l) => if p.1 / 4096 = dieGrove die g && d.replica && l.length < d.allPieces then some d.reduction else none
    | _, _ => none
  if lacking.isEmpty then s
  else
    (s.each lacking fun s r => s.colRecord .contained die 0x0C g r 0 0).modStep g fun x => { x with withhold := true }

/-- The completion timeout of a broadcast. -/
def execBcastCompletionTimeout (die grove : Nat) (s : State) : Host.Outcome State Fault Refusal :=
  .next (s.onDie fun s => s.bcastTimeout die grove)

/-- A piece of the grove waits for an acknowledgement: its broadcast is not done (R481). -/
def State.piecesOpen (s : State) (g : Nat) : Bool := s.col.pieces.any fun p => p.1 / 2 ^ 32 % 16 == g

/-- A contribution of the grove has neither answer nor abandonment (R473). -/
def State.sentOpen (s : State) (g : Nat) : Bool := s.col.sent.any fun p => p.1 / 2 ^ 32 % 16 == g

end Sys2Proof.Machine
end

