-- ==== Sys2Proof/Machine/Update.lean ====
section
/-! DEFINITION. The update units (ch. 16): programmes, staging, the commit write, and the commands of target 5. -/
namespace Sys2Proof.Machine

/-! ## Programmes (R500, R501, R511) -/

/-- The state with the update units changed. -/
def State.modUpd (s : State) (f : UpdState → UpdState) : State := { s with upd := f s.upd }

/-- The key of a target. -/
def updKey (die g kind target : Nat) : Nat := 8192 * dieGrove die g + 4096 * kind + target

/-- A target's slot. -/
def State.updSlot (s : State) (k : Nat) : UpdSlot := tgetD s.upd.progs k {}

/-- The state with a target's slot changed. -/
def State.modUpdSlot (s : State) (k : Nat) (f : UpdSlot → UpdSlot) : State :=
  s.modUpd fun x => { x with progs := tmod x.progs k {} f }

/-- Format of a state word: 0 FP32, 1 BF16, 2 L16. -/
def UpdProg.fmt (p : UpdProg) (w : Nat) : Nat := fld p.formats (4 * w) 4

/-- Bytes of a state word's element. -/
def UpdProg.size (p : UpdProg) (w : Nat) : Nat := elemSize (p.fmt w)

/-- An operand code of instruction i is valid (R501). -/
def updOperandOk (words i o : Nat) : Bool :=
  o ≤ 1 || (2 ≤ o && o < 2 + words) || (8 ≤ o && o < 0x10) || (0x10 ≤ o && o < 0x10 + i) || o == 0x30

/-- An instruction fails a check: as R333, with the operands and destinations of R501. -/
def updInstrBad (words : Nat) (is : List VInstr) (i : Nat) (x : VInstr) : Bool :=
  let n := opArity x.op
  n == 0 || x.op > 0x0F || x.reserved || x.hist || x.histStream != 0 || (x.cond != 0 && x.op != 0x07) || x.cond > 5 ||
    ([x.a, x.b, x.c].zipIdx.any fun o => if o.2 < n then !updOperandOk words i o.1 else o.1 != 0x3F) ||
    (if x.store then x.dst > words || (is.zipIdx.any fun y => y.2 < i && y.1.store && y.1.dst == x.dst) else x.dst != 0)

/-- The programme a header and its instructions spell, and whether every check on the fields holds. -/
def parseUpd (g gen : Nat) (b : List Byte) : Bool × UpdProg :=
  let w := fun o => leAt b o 8
  let n := leAt b 6 1
  let words := leAt b 7 1
  let is := (List.range n).map fun i => parseVInstr (leAt b (128 + 8 * i) 8)
  let sig := parseEntry (w 0x38)
  let p : UpdProg :=
    { kind := leAt b 0 1, target := leAt b 4 2, stateWords := words, formats := leAt b 8 2, hold := bit (leAt b 0x0A 1) 0,
      origin := w 0x10, state := w 0x18, stateSpan := w 0x20, staging := w 0x28, stagingBytes := w 0x30, signal := sig.2,
      constants := (List.range 8).map fun i => leAt b (0x40 + 4 * i) 4, instrs := is }
  let ok := p.kind ≤ 1 && leAt b 1 1 == g && leAt b 2 2 == gen && p.target < 4096 && 1 ≤ n && n ≤ 16 && words ≤ 4 &&
    ((List.range 4).all fun i => if i < words then p.fmt i ≤ 2 else p.fmt i == 0) && leAt b 0x0A 1 ≤ 1 &&
    zeroAt b 0x0B 5 && p.origin < 2 ^ 48 && p.state < 2 ^ 48 && p.state % 64 == 0 && p.stateSpan % 64 == 0 &&
    (p.kind == 0 || (p.state == 0 && p.stateSpan == 0)) && p.staging < 2 ^ 48 && p.staging % 4096 == 0 &&
    (p.staging != 0 || p.stagingBytes == 0) && sig.1 && (match sig.2 with
      | some x => x.2 != 0
      | none => true) &&
    zeroAt b 0x60 32 && is.zipIdx.all fun x => !updInstrBad words is x.2 x.1
  (ok, p)

/-- The channels a range of local offsets touches are the grove's: checked at its start and every 2 GiB boundary. -/
def State.localOwned (s : State) (g o n : Nat) (die : Option Nat) : Bool :=
  let marks := o :: (List.range ((o + n - 1) / 2 ^ 31 - o / 2 ^ 31)).map fun i => (o / 2 ^ 31 + 1 + i) * 2 ^ 31
  marks.all fun x => match s.locate x with
    | some (c, _) => s.channelOwner c == some g && (match die with
      | some d => dieOfChannel c == d
      | none => true)
    | none => false

/-- A grove-virtual range is mapped onto the grove's channels. -/
def State.inGrove (s : State) (g va n : Nat) : Bool :=
  match s.translateRange g n va n with
  | some ps => ps.all fun p => s.localOwned g p.1 p.2 none
  | none => false

/-- The state words fit, and the state and staging areas lie in the grove (R502, R511).
Assumption: 67 (DESIGN CHOICE). -/
def State.updPlaces (s : State) (die g : Nat) (p : UpdProg) : Bool :=
  let staging := p.stagingBytes == 0 || s.inGrove g p.staging p.stagingBytes
  let words := List.range p.stateWords
  if p.kind = 0 then
    let x := s.reduction (redKey die g p.target)
    let d := match x.staged with
      | some (some d) => some d
      | _ => x.desc
    let n := match d with
      | some d => (List.range d.ownCount).foldl (fun n j => n + d.elemsOf (d.ownFirst + j)) 0
      | none => 1
    staging && words.all fun w =>
      (w + 1 == p.stateWords || p.size w * n ≤ p.stateSpan) && s.inGrove g (p.state + w * p.stateSpan) (p.size w * n)
  else
    match s.tableIx g p.target with
    | none => false
    | some ix =>
      let x := s.tableSlot ix
      let d := match x.at .loaded with
        | some d => some d
        | none => x.at .current
      match d with
      | some d => staging && (words.map fun w => d.rowElems * p.size w).sum ≤ 64 * d.statePitch
      | none => staging

/-- Programmes a die holds, with those that wait for an open. -/
def State.updHeld (s : State) (die : Nat) : Nat :=
  (s.upd.progs.filter fun p => p.1 / 131072 == die && (match p.2.next with
    | some n => n.isSome
    | none => p.2.cur.isSome)).length

/-! ## Running a programme on an element (R501 to R503) -/

/-- The values an instruction list stores: destination and FP32 value. -/
def updElement (p : UpdProg) (t g w : Num) (st : List Num) : List (Nat × Num) :=
  (p.instrs.foldl (fun (q : List Num × List (Nat × Num)) i =>
    let val := fun o =>
      if o = 0 then g
      else if o = 1 then w
      else if o < 6 then st.getD (o - 2) Num.zero
      else if o < 0x10 then ofF32 (p.constants.getD (o - 8) 0)
      else if o < 0x30 then q.1.getD (o - 0x10) Num.zero
      else if o = 0x30 then t
      else Num.zero
    let r := vecOp 0 i.op i.cond (val i.a) (val i.b) (val i.c)
    (q.1 ++ [r], if i.store then q.2 ++ [(i.dst, r)] else q.2)) ([], [])).2

/-- *t* of a step. Assumption: 67 (DESIGN CHOICE). -/
def UpdProg.t (p : UpdProg) (step : Nat) : Num := ofF32 (ofInt ((step : Int) - p.origin + 1) 0).f32

/-- The new codes of an element: the parameter's and each state word's, the old one where nothing stores it, and whether
a stored one is NaN or infinite. -/
def updCodes (p : UpdProg) (fmt : Nat) (t g : Num) (w : Nat) (st : List Nat) : Nat × List Nat × Bool :=
  let out := updElement p t g ((storedFmt fmt).decode 0 w) (st.zipIdx.map fun x => (storedFmt (p.fmt x.2)).decode 0 x.1)
  let code := fun dst (f : Nat) (old : Nat) => match out.find? fun o => o.1 == dst with
    | some o => ((storedFmt f).encode 0 o.2).code
    | none => old
  let w' := code 0 fmt w
  let st' := st.zipIdx.map fun x => code (x.2 + 1) (p.fmt x.2) x.1
  let bad := out.any fun o =>
    let f := storedFmt (if o.1 = 0 then fmt else p.fmt (o.1 - 1))
    !(f.decode 0 (f.encode 0 o.2).code).finite
  (w', st', bad)

/-- Counts a segment or entry with a non-finite result; the first of the step is recorded (R504). -/
def State.noteNonfinite (s : State) (die g kind target item : Nat) : State :=
  let s := s.bump .UPD_NONFINITE [die]
  if s.upd.nonfinite.contains (dieGrove die g) then s
  else (s.modUpd fun x => { x with nonfinite := x.nonfinite ++ [dieGrove die g] }).updRecord .corrected die 0x06 g kind
    target item

/-- Codes of `n` elements of a size as bytes, and back. -/
def codesOf (size n : Nat) (b : List Byte) : List Nat := (List.range n).map fun i => leAt b (size * i) size

/-- Parameter and state codes of a run of elements in memory. -/
structure UpdData where
  w : List Nat
  st : List (List Nat)
  deriving DecidableEq, Repr

/-- Reads parameters and state words at addresses; the answer is the first failure. -/
def State.updRead (s : State) (g n : Nat) (size va : Nat) (sts : List (Nat × Nat)) : State × Acc × UpdData :=
  let r := s.readVa g va (size * n)
  sts.foldl (fun (q : State × Acc × UpdData) x =>
    let r := q.1.readVa g x.2 (x.1 * n)
    (r.1, if q.2.1 == .ok then r.2.1 else q.2.1, { q.2.2 with st := q.2.2.st ++ [codesOf x.1 n r.2.2] }))
    (r.1, r.2.1, ⟨codesOf size n r.2.2, []⟩)

/-- Writes them. -/
def State.updWrite (s : State) (g : Nat) (size va : Nat) (sts : List (Nat × Nat)) (d : UpdData) : State :=
  let s := (s.writeVa g va (d.w.flatMap (toLe size))).1
  s.each (sts.zip d.st) fun s x => (s.writeVa g x.1.2 (x.2.flatMap (toLe x.1.1))).1

/-- Runs a programme over elements: `none` where the element keeps its value. The flag says a stored value is not
finite. -/
def updRun (p : UpdProg) (fmt : Nat) (t : Num) (gs : List (Option Num)) (d : UpdData) : UpdData × Bool :=
  let es := gs.zipIdx.map fun x =>
    let w := d.w.getD x.2 0
    let st := d.st.map fun l => l.getD x.2 0
    match x.1 with
    | some g => updCodes p fmt t g w st
    | none => (w, st, false)
  ({ w := es.map (·.1), st := (List.range d.st.length).map fun k => es.map fun e => e.2.1.getD k 0 }, es.any (·.2.2))

/-! ## Segments of a reduction (R502, R507) -/

/-- Where a segment's parameters and state words lie: sizes and addresses. -/
def segPlaces (d : RedDesc) (p : UpdProg) (seg : Nat) : Nat × List (Nat × Nat) :=
  let j := 1536 * (seg - d.ownFirst)
  (d.master + j * d.size, (List.range p.stateWords).map fun w => (p.size w, p.state + w * p.stateSpan + j * p.size w))

/-- What a computation of a segment gives. -/
inductive SegResult where
  /-- a line could not be read -/
  | fault
  /-- the segment keeps its values: it is empty, or nonfinite_hold holds it -/
  | keep
  | write (d : UpdData)

/-- The exponent E of a scale slot in the open record (R180). -/
def State.slotScale (s : State) (g slot : Nat) : Int :=
  match (s.step_ g).record with
  | some r => toSigned 8 (r.scale.getD slot 0).toNat
  | none => 0

/-- Computes a segment of a closed reduction (R503, R504, R507). -/
def State.computeSeg (s : State) (die g step seg : Nat) (d : RedDesc) (p : UpdProg) : State × SegResult :=
  let n := d.elemsOf seg
  let c := s.countWord g d step seg
  let sums := s.readVa g (d.sumVa step seg) (4 * n)
  if sums.2.1 ≠ .ok then (sums.1, .fault)
  else
    let s := sums.1
    if c = 0 then (s.bump .UPD_EMPTY [die], .keep)
    else
      let places := segPlaces d p seg
      match s.updRead g n d.size places.1 places.2 with
      | (s, .ok, old) =>
        let e := s.slotScale g d.slot
        let gs := (codesOf 4 n sums.2.2).map fun x => some (gradQuot (toSigned 32 x) c e)
        let r := updRun p d.paramFormat (p.t step) gs old
        let s := if r.2 then s.noteNonfinite die g 0 d.reduction seg else s
        if r.2 && p.hold then (s, .keep) else (s, .write r.1)
      | (s, _, _) => (s, .fault)

/-- Bytes a staged segment takes (R507). Assumption: 67 (DESIGN CHOICE). -/
def stagedBytes (d : RedDesc) (p : UpdProg) : Nat :=
  64 + 1536 * (d.size + ((List.range p.stateWords).map p.size).sum)

/-- The address of the k-th staged segment. -/
def stagedVa (d : RedDesc) (p : UpdProg) (k : Nat) : Nat := p.staging + k * ((stagedBytes d p + 63) / 64 * 64)

/-- Where a staged segment's parameters and state words lie, after its header. -/
def stagedPlaces (d : RedDesc) (p : UpdProg) (k : Nat) : Nat × List (Nat × Nat) :=
  let base := stagedVa d p k + 64
  (base, (List.range p.stateWords).map fun w =>
    (p.size w, base + 1536 * (d.size + ((List.range w).map p.size).sum)))

/-- The segments staged of a reduction. -/
def State.stagedOf (s : State) (k : Nat) : List (Nat × Bool) := tgetD s.upd.staged k []

/-- Stages a segment: left for commit where it does not fit or staging was abandoned (R507, R509). Its 64-byte header's
content is not in the spec: free bytes. Assumption: 67 (DESIGN CHOICE). -/
def State.stageSeg (s : State) (die g seg : Nat) (d : RedDesc) (p : UpdProg) : State :=
  let key := redKey die g d.reduction
  let done := s.stagedOf key
  let fits := (done.length + 1) * ((stagedBytes d p + 63) / 64 * 64) ≤ p.stagingBytes
  let stop := fun (s : State) drop => s.modUpd fun x => { x with
    noStage := x.noStage ++ [key], staged := if drop then terase x.staged key else x.staged }
  if s.upd.noStage.contains key then s
  else if !fits then stop s false
  else
    match s.computeSeg die g (s.step_ g).step seg d p with
    | (s, .fault) => stop s true
    | (s, .keep) => s.modUpd fun x => { x with staged := tmod x.staged key [] (· ++ [(seg, false)]) }
    | (s, .write v) =>
      let f := s.fresh
      let s := (f.2.writeVa g (stagedVa d p done.length) ((List.range 64).map (Config.freeByte f.1))).1
      let places := stagedPlaces d p done.length
      let s := s.updWrite g d.size places.1 places.2 v
      (s.bump .UPD_STAGED [die]).modUpd fun x => { x with staged := tmod x.staged key [] (· ++ [(seg, true)]) }

/-- A fault during the commit write (R509): recorded, and the die stays COMMITTED; the target is not written whole, so
what follows its writes (R508) does not happen. Assumption: 68 (DEDUCED). -/
def State.commitFault (s : State) (die g kind target item : Nat) : State :=
  let follows : UpdWork → Bool
    | .reductionEnd r => kind == 0 && r == target
    | .tableEnd t => kind == 1 && t == target
    | _ => false
  (s.updRecord .contained die 0x07 g kind target item).modUpd fun x => { x with
    faults := sinsert x.faults (dieGrove die g)
    work := tmod x.work (dieGrove die g) [] (·.filter fun w => !follows w) }

/-- The areas an update writes can be written: what the first failure leaves, if one would. -/
def State.updWritable (s : State) (g n size va : Nat) (sts : List (Nat × Nat)) : State × Acc :=
  ((va, size * n) :: sts.map fun x => (x.2, x.1 * n)).foldl (fun (q : State × Acc) x =>
    if q.2 = .ok then q.1.checkWriteVa g x.1 x.2 else q) (s, .ok)

/-- Writes a segment at commit (R508): copies it where it is staged, computes it where it is not. -/
def State.commitSeg (s : State) (die g seg : Nat) (d : RedDesc) (p : UpdProg) : State :=
  let n := d.elemsOf seg
  let places := segPlaces d p seg
  let write := fun (s : State) v => (s.updWrite g d.size places.1 places.2 v).bump .UPD_ELEMS [die] n
  let staged := s.stagedOf (redKey die g d.reduction)
  match staged.zipIdx.find? fun x => x.1.1 == seg with
  | some ((_, false), _) => s
  | some ((_, true), k) =>
    let from' := stagedPlaces d p k
    (match s.updRead g n d.size from'.1 from'.2 with
     | (s, .ok, v) =>
       (match s.updWritable g n d.size places.1 places.2 with
        | (s, .ok) => write s v
        | (s, _) => s.commitFault die g 0 d.reduction seg)
     | (s, _, _) => s.commitFault die g 0 d.reduction seg)
  | none =>
    let s := s.bump .UPD_DIRECT [die]
    match s.computeSeg die g (s.step_ g).step seg d p with
    | (s, .fault) => s.commitFault die g 0 d.reduction seg
    | (s, .keep) => s
    | (s, .write v) => write s v

/-! ## Rows of a table (R503, R505, R508) -/

/-- The place of a row the row buffer holds, as its accumulates found it. -/
def State.rowPlace (s : State) (g t : Nat) (d : TableDesc) (r : Nat) : Place :=
  match s.pendInOf g t d.version r, s.graftOf g t d.version r with
  | some (_, k), _ => .slot k
  | none, some (_, k) => .slot k
  | none, none => .bucket

/-- The bytes of a row buffer entry of the step. -/
def State.rowEntry (s : State) (die g step e : Nat) : List Byte := s.peek (s.rowBufAt die g (step % 2) e) 320

/-- Writes a row entry at commit; the row is refreshed once its last entry is written (`last`). -/
def State.commitRow (s : State) (die g t e : Nat) (last : Bool) : State :=
  let step := (s.step_ g).step
  let b := s.rowEntry die g step e
  let r := leAt b 0 8 % 2 ^ 48
  let seg := leAt b 8 8
  let mask := leAt b 0x10 8
  let desc := (s.tableIx g t).bind fun ix => (s.tableSlot ix).at .current
  match desc, (s.updSlot (updKey die g 1 t)).cur with
  | some d, some p =>
    (match s.rowVa g t d r (s.rowPlace g t d r) with
     | (s, .ok, some va) =>
       let es := elemSize d.format
       let n := min 64 (d.rowElems - 64 * seg)
       let sts := (List.range p.stateWords).map fun w =>
         (p.size w, va.2 + d.rowElems * ((List.range w).map p.size).sum + 64 * seg * p.size w)
       let at' := va.1 + 64 * seg * es
       (match s.updRead g n es at' sts with
        | (s, .ok, old) =>
          let gs := (List.range n).map fun i => if mask.testBit i then some (ofF32 (leAt b (0x40 + 4 * i) 4)) else none
          let v := updRun p d.format (p.t step) gs old
          let s := if v.2 then s.noteNonfinite die g 1 t e else s
          let s := if v.2 && p.hold then s
            else ((s.updWrite g es at' sts v.1).bump .UPD_ROWS [die]).bump .UPD_ELEMS [die]
              ((List.range n).filter mask.testBit).length
          if last then s.refreshRow die g step t d r va else s
        | (s, _, _) => s.commitFault die g 1 t e)
     | (s, .ok, none) => s
     | (s, _, _) => s.commitFault die g 1 t e)
  | _, _ => s

/-- The row buffer of a die of a grove is enabled. Assumption: 53 (DESIGN CHOICE). -/
def State.rowBufOn (s : State) (die g : Nat) : Bool := (s.getReg .UPD_ROWBUF [die, g]).getLsbD 63

/-- Entries of a parity. -/
def State.rowBufEntries (s : State) (die g : Nat) : Nat :=
  if s.rowBufOn die g then 2 ^ s.regFld .UPD_ROWBUF [die, g] 56 5 else 0

/-- Clears the row buffer parity of a step (R508, R509). -/
def State.clearRowBuf (s : State) (die g step : Nat) : State :=
  let n := s.rowBufEntries die g
  if n = 0 then s else (s.writeLocal (.grove g) (s.rowBufAt die g (step % 2) 0) (List.replicate (320 * n) 0)).1

/-- The valid entries of the step, ascending: table and entry. -/
def State.rowEntries (s : State) (die g step : Nat) : List (Nat × Nat) :=
  (List.range (s.rowBufEntries die g)).filterMap fun e =>
    let w := leAt (s.peek (s.rowBufAt die g (step % 2) e) 8) 0 8
    if bit w 63 then some (fld w 48 12, e) else none

/-! ## The unit's work -/

/-- The programme and descriptor of an owned reduction. -/
def State.ownedProg (s : State) (die g r : Nat) : Option (RedDesc × UpdProg) :=
  match s.redDesc die g r, (s.updSlot (updKey die g 0 r)).cur with
  | some d, some p => some (d, p)
  | _, _ => none

/-- 64-byte units of parameters that one request processes (R80). -/
def State.workUnits (s : State) (die g : Nat) : UpdWork → Nat
  | .stage r seg | .commit r seg => match s.redDesc die g r with
    | some d => (d.segBytes seg + 63) / 64
    | none => 0
  | .row t _ => match (s.tableIx g t).bind fun ix => (s.tableSlot ix).at .current with
    | some d => elemSize d.format
    | none => 0
  | _ => 0

/-- The programme's signal is applied (R508). -/
def State.updSignal (s : State) (k : Nat) : State :=
  match ((s.updSlot k).cur.bind (·.signal)) with
  | some w => s.engineSignal w.1 w.2
  | none => s

/-- Performs one request; `rest` is the work after it. -/
def State.doWork (s : State) (die g : Nat) (rest : List UpdWork) : UpdWork → State
  | .stage r seg => match s.ownedProg die g r with
    | some x => s.stageSeg die g seg x.1 x.2
    | none => s
  | .commit r seg => match s.ownedProg die g r with
    | some x => s.commitSeg die g seg x.1 x.2
    | none => s
  | .reductionEnd r =>
    let s := s.updSignal (updKey die g 0 r)
    match s.redDesc die g r with
    | some d => (s.zeroBuffer g d (s.step_ g).step).broadcast die g (s.step_ g).step d
    | none => s
  | .row t e =>
    let row := fun e => leAt (s.rowEntry die g (s.step_ g).step e) 0 8
    s.commitRow die g t e !(rest.any fun w => match w with
      | .row t' e' => t' == t && row e' == row e
      | _ => false)
  | .tableEnd t => s.updSignal (updKey die g 1 t)
  | .commitEnd => (s.clearRowBuf die g (s.step_ g).step).modUpd fun x => { x with
      staged := x.staged.filter fun p => p.1 / 4096 != dieGrove die g }

/-- Goes on with a grove's work until it is done or its update budget holds it (R509). -/
def State.runUpdate (s : State) (die g : Nat) : Nat → State
  | 0 => s
  | fuel + 1 =>
    let k := dieGrove die g
    match tgetD s.upd.work k [] with
    | [] => s
    | w :: rest =>
      let n := s.workUnits die g w
      let a := if n = 0 then (s, true) else s.spend die g 5 n (s.upd.held.contains k)
      if a.2 then
        let s := a.1.modUpd fun x => { x with work := tset x.work k rest, held := x.held.filter (· != k) }
        (s.doWork die g rest w).runUpdate die g fuel
      else a.1.modUpd fun x => { x with held := sinsert x.held k }

/-- Adds work and goes on. -/
def State.addWork (s : State) (die g : Nat) (ws : List UpdWork) : State :=
  let k := dieGrove die g
  let s := s.modUpd fun x => { x with work := tmod x.work k [] (· ++ ws) }
  s.runUpdate die g ((tgetD s.upd.work k []).length + 1)

/-- A budget period begins: the held request is tried again. -/
def State.retryUpdate (s : State) (die g : Nat) : State :=
  s.runUpdate die g ((tgetD s.upd.work (dieGrove die g) []).length + 1)

/-- A closed reduction is staged (R507). -/
def State.stageReduction (s : State) (die g r : Nat) : State :=
  match s.ownedProg die g r with
  | some (d, _) => s.addWork die g ((List.range d.ownCount).map fun j => .stage r (d.ownFirst + j))
  | none => s

/-- The reductions a die of a grove owns, ascending. -/
def State.ownedReds (s : State) (die g : Nat) : List RedDesc :=
  s.col.reductions.filterMap fun p => match p.2.desc with
    | some d => if p.1 / 4096 = dieGrove die g && d.own then some d else none
    | none => none

/-- The work of a commit on a die (R508); staging that is not done yet is dropped. -/
def State.commitUpdate (s : State) (die g : Nat) : State :=
  let k := dieGrove die g
  let reds := (s.ownedReds die g).flatMap fun d =>
    ((List.range d.ownCount).map fun j => UpdWork.commit d.reduction (d.ownFirst + j)) ++ [.reductionEnd d.reduction]
  let es := s.rowEntries die g (s.step_ g).step
  let tables := (s.upd.progs.filter fun p => p.1 / 4096 == 2 * k + 1 && p.2.cur.isSome).map fun p => p.1 % 4096
  let rows := tables.flatMap fun t => ((es.filter fun e => e.1 == t).map fun e => UpdWork.row t e.2) ++ [.tableEnd t]
  let s := s.modUpd fun x => { x with work := terase x.work k, held := x.held.filter (· != k) }
  s.addWork die g (reds ++ rows ++ [.commitEnd])

/-- A void discards the step's staging and row buffer parity (R509). -/
def State.voidUpdate (s : State) (g step : Nat) : State :=
  s.each [0, 1] fun s die =>
    let k := dieGrove die g
    (s.clearRowBuf die g step).modUpd fun x => { x with
      work := terase x.work k, held := x.held.filter (· != k), staged := x.staged.filter fun p => p.1 / 4096 != k,
      noStage := x.noStage.filter fun p => p / 4096 != k, nonfinite := x.nonfinite.filter (· != k) }

/-- A die homes rows of a table (R252, R262, R512): this device is on its home list and a page of its row store lies on the
die, or a row's GRAFT entry names this device and its slot lies there. Assumption: 68 (DEDUCED). -/
def State.homesOn (s : State) (die g t : Nat) (d : TableDesc) : Bool :=
  let onDie := fun (lo n : Nat) => (tgetD s.pageMap g []).any fun p =>
    lo / 2 ^ 21 ≤ p.1 && p.1 ≤ (lo + n - 1) / 2 ^ 21 && (match s.locate p.2 with
      | some (c, _) => dieOfChannel c == die
      | none => false)
  let list := s.peekVa g d.homeList (2 * d.homeCount)
  (((List.range d.homeCount).any fun i => leAt list (2 * i) 2 == s.devnum) &&
      onDie d.rows (8 * 2 ^ d.log2Buckets * d.rowPitch * 64)) ||
    s.emb.entries.any fun e => e.grove == g && e.table == t && e.version == d.version && (match e.kind with
      | .graft dev k => dev == s.devnum && onDie (d.slotVa k).1 (d.rowPitch * 64)
      | _ => false)

/-- The open takes what waits, forgets the step before, and checks that every target has its programme (R511, R512).
Assumption: 68 (DEDUCED). -/
def State.openUpdate (s : State) (g : Nat) : State :=
  let s := s.modUpd fun x => { x with
    progs := (tmap x.progs fun k p => if k / 8192 % 16 = g then { cur := p.next.getD p.cur } else p).filter fun p =>
      p.2.cur.isSome || p.2.next.isSome
    staged := x.staged.filter fun p => p.1 / 4096 % 16 != g
    noStage := x.noStage.filter fun p => p / 4096 % 16 != g
    nonfinite := x.nonfinite.filter (· % 16 != g) }
  let first := (s.grove g).tables.1
  let trainable := (List.range (s.grove g).tables.2).filter fun t =>
    (((s.tableSlot (first + t)).at .current).map (·.trainable)).getD false
  s.each [0, 1] fun s die =>
    let lacking := (s.ownedReds die g).filter fun d => (s.updSlot (updKey die g 0 d.reduction)).cur.isNone
    let tabs := trainable.filter fun t => (s.updSlot (updKey die g 1 t)).cur.isNone &&
      (((s.tableSlot (first + t)).at .current).map fun d => s.homesOn die g t d).getD false
    let s := s.each lacking fun s d => (s.updRecord .contained die 0x04 g 0 d.reduction 0).stepFault g
    s.each tabs fun s t => (s.updRecord .contained die 0x04 g 1 t 0).stepFault g

/-- The writes of a grove's commit are done on both dies (R508). -/
def State.updateDone (s : State) (g : Nat) : Bool :=
  [0, 1].all fun die => (tgetD s.upd.work (dieGrove die g) []).isEmpty

/-- A commit fault holds the grove on this device (R509). -/
def State.updateFaulted (s : State) (g : Nat) : Bool := s.upd.faults.any (· % 16 == g)

/-- Discards a grove's programmes and resets its row buffers (R509). -/
def State.dropUpdate (s : State) (g : Nat) : State :=
  let s := s.modUpd fun x => { x with
    progs := x.progs.filter fun p => p.1 / 8192 % 16 != g, work := x.work.filter fun p => p.1 % 16 != g
    held := x.held.filter (· % 16 != g), staged := x.staged.filter fun p => p.1 / 4096 % 16 != g
    noStage := x.noStage.filter fun p => p / 4096 % 16 != g, nonfinite := x.nonfinite.filter (· % 16 != g)
    faults := x.faults.filter (· % 16 != g) }
  (s.resetReg .UPD_ROWBUF [0, g]).resetReg .UPD_ROWBUF [1, g]

/-! ## Commands of target 5 (R511) -/

/-- Ends a command of target 5 as BAD_COMMAND. -/
def State.refuseUpd (s : State) (q i code kind target : Nat) : State :=
  (s.updRecord .contained (dieOfQueue q) code (s.qgrove q) kind target 0).complete q i .badCommand 0

/-- UPD_LOAD. -/
def State.updLoad (s : State) (q i : Nat) : State :=
  match s.ofRow q i 5 1 with
  | none => s
  | some c =>
    let s := s.start q i
    let g := c.grove
    let die := dieOfQueue q
    let va := c.arg 8 8
    if !c.restZero [(8, 8)] || va ≥ 2 ^ 48 || va % 64 ≠ 0 then s.refuseUpd q i 0x01 0 0
    else
      let h := s.readVa g va 128
      let n := leAt h.2.2 6 1
      let r := if h.2.1 == .ok && n ≤ 16 then h.1.readVa g va (128 + 8 * n) else h
      match r with
      | (s, .ok, b) =>
        let p := parseUpd g c.gen b
        let k := updKey die g p.2.kind p.2.target
        if !p.1 || !s.updPlaces die g p.2 then s.refuseUpd q i 0x02 (min 1 p.2.kind) p.2.target
        else
          let slot := s.updSlot k
          let holds := match slot.next with
            | some n => n.isSome
            | none => slot.cur.isSome
          if s.updHeld die ≥ 2048 && !holds then s.refuseUpd q i 0x03 p.2.kind p.2.target
          else
            let s := s.modUpdSlot k fun x => { x with next := some (some p.2) }
            s.complete q i .ok (s.updHeld die % 2 ^ 11)
      | (s, .page, _) => s.refuseUpd q i 0x02 0 0
      | (s, _, _) => s.complete q i .fault 0

/-- The UPD_LOAD command. -/
def execUpdLoad (queue index : Nat) (s : State) : Host.Outcome State Fault Refusal :=
  .next (s.onDie fun s => s.updLoad queue index)

/-- UPD_DROP: takes effect at the next open. -/
def State.updDrop (s : State) (q i : Nat) : State :=
  match s.ofRow q i 5 2 with
  | none => s
  | some c =>
    let s := s.start q i
    let kind := c.arg 8 1
    let t := c.arg 0x0A 2
    if !c.restZero [(8, 1), (0x0A, 2)] || kind > 1 || t ≥ 4096 then s.refuseUpd q i 0x01 0 0
    else
      let k := updKey (dieOfQueue q) c.grove kind t
      let x := s.updSlot k
      let s := if x.cur.isNone && x.next.isNone then s else s.modUpdSlot k fun x => { x with next := some none }
      s.complete q i .ok 0

/-- The UPD_DROP command. -/
def execUpdDrop (queue index : Nat) (s : State) : Host.Outcome State Fault Refusal :=
  .next (s.onDie fun s => s.updDrop queue index)

/-- UPD_CONST: replaces the constants its mask names at the next open; a target without a programme is an invalid
operand. -/
def State.updConst (s : State) (q i : Nat) : State :=
  match s.ofRow q i 5 3 with
  | none => s
  | some c =>
    let s := s.start q i
    let kind := c.arg 8 1
    let t := c.arg 0x0A 2
    let mask := c.arg 0x30 1
    let k := updKey (dieOfQueue q) c.grove kind t
    let x := s.updSlot k
    if !c.restZero [(8, 1), (0x0A, 2), (0x10, 32), (0x30, 1)] || kind > 1 || t ≥ 4096 then s.refuseUpd q i 0x01 0 0
    else
      match x.next.getD x.cur with
      | none => s.refuseUpd q i 0x01 kind t
      | some p =>
        let cs := (List.range 8).map fun j => if mask.testBit j then c.arg (0x10 + 4 * j) 4 else p.constants.getD j 0
        (s.modUpdSlot k fun x => { x with next := some (some { p with constants := cs }) }).complete q i .ok 0

/-- The UPD_CONST command. -/
def execUpdConst (queue index : Nat) (s : State) : Host.Outcome State Fault Refusal :=
  .next (s.onDie fun s => s.updConst queue index)

/-- A write of UPD_ROWBUF (R16, R514). -/
def State.rowBufWrite (s : State) (die g : Nat) (v : Word) : State :=
  let l := wfld v 56 5
  let o := wfld v 6 35 * 64
  if s.batchRuns then s.refuseWrite .UPD_ROWBUF [die, g]
  else if v.getLsbD 63 && !(8 ≤ l && l ≤ 22 && (s.grove g).bound && s.localOwned g o (640 * 2 ^ l) (some die)) then
    s.updRecord .contained die 0x02 g 0 0 0
  else s.softWrite .UPD_ROWBUF [die, g] v

/-- A write of UPD_ROWBUF. -/
def execUpdRowbufWrite (die grove : Nat) (value : Word) (s : State) : Host.Outcome State Fault Refusal :=
  .next (s.onDie fun s => s.rowBufWrite die grove value)

/-- UPD_STATE of a die of a grove (R515). -/
def State.updState (s : State) (die g : Nat) : Word :=
  let k := dieGrove die g
  let work := tgetD s.upd.work k []
  let left := (work.filter fun w => match w with
    | .commit .. => true
    | _ => false).length
  let stages := work.any fun w => match w with
    | .stage .. => true
    | _ => false
  let staged := ((s.upd.staged.filter fun p => p.1 / 4096 == k).map fun p => p.2.length).sum
  let phase := if s.upd.faults.contains k then 3 else if stages then 1 else if work.isEmpty then 0 else 2
  BitVec.ofNat 64 (phase * 2 ^ 56 + left % 2 ^ 24 * 2 ^ 32 + staged % 2 ^ 24)

end Sys2Proof.Machine
end

