-- ==== Sys2Proof/Machine/Kiln.lean ====
section
/-! DEFINITION. Checkpoints (ch. 18): plans, firings, drain, restores. The commands and events that use them are in the
file of their rows, after the memory controllers. -/
namespace Sys2Proof.Machine

/-! ## Records and keys -/

/-- The state with the Kiln changed. -/
def State.modKln (s : State) (f : KilnState → KilnState) : State := { s with kln := f s.kln }

/-- A grove's firing. -/
def State.firing (s : State) (g : Nat) : Option Firing := tget s.kln.firings g

/-- The state with a grove's firing replaced. -/
def State.putFiring (s : State) (g : Nat) (f : Firing) : State :=
  s.modKln fun x => { x with firings := tset x.firings g f }

/-- A KLN record (R580, R585): slot, destinations, and the step or page. -/
def State.klnRecord (s : State) (code g slot dest item : Nat) : State :=
  let s := s.putReg .KLN_FAULT_LAST [0] (BitVec.ofNat 64
    (code * 2 ^ 56 + g * 2 ^ 52 + slot % 2 * 2 ^ 51 + dest % 4 * 2 ^ 49 + item % 2 ^ 48))
  s.record .kln .contained 0 code (some g) (item % 2 ^ 48 + slot % 2 * 2 ^ 48 + dest % 4 * 2 ^ 49)

/-- Bytes of a 2 MiB page. -/
def pageBytes : Nat := 2 ^ 21

/-! ## The metadata record (R571) -/

/-- Inserts by a key, after equal keys. -/
def insertKey {α : Type} (key : α → Nat) (x : α) : List α → List α
  | [] => [x]
  | y :: t => if key x < key y then x :: y :: t else y :: insertKey key x t

/-- Sorts by a key. -/
def sortKey {α : Type} (key : α → Nat) (l : List α) : List α := l.foldl (fun r x => insertKey key x r) []

/-- The 64 bytes of a table descriptor (R251). -/
def TableDesc.bytes (d : TableDesc) : List Byte :=
  toLe 1 d.format ++ toLe 1 (b2n d.trainable) ++ toLe 2 d.rowElems ++ toLe 2 d.rowPitch ++ toLe 2 d.statePitch ++
    toLe 4 d.version ++ toLe 4 d.homeCount ++ toLe 8 d.homeList ++ toLe 1 d.log2Buckets ++ toLe 3 0 ++
    toLe 4 d.graftSlots ++ toLe 8 d.tags ++ toLe 8 d.rows ++ toLe 8 d.state ++ toLe 8 d.graft

/-- What is saved of a row entry: kind, device and slot; none for the kinds a firing does not save. -/
def savedKind : RowKind → Option (Nat × Nat × Nat)
  | .graft d k => some (1, d, k)
  | .scion k => some (2, 0, k)
  | .holder d false _ => some (3, d, 0)
  | _ => none

/-- A saved row entry as 32 bytes, with its sorting key. -/
def entryBytes (e : RowEntry) (k : Nat × Nat × Nat) : List Byte :=
  toLe 1 k.1 ++ toLe 1 0 ++ toLe 2 e.table ++ toLe 4 e.version ++ toLe 8 e.row ++ toLe 2 k.2.1 ++ toLe 2 0 ++
    toLe 4 k.2.2 ++ toLe 8 0

/-- The random streams bound to a grove, ascending. -/
def State.groveStreams (s : State) (g : Nat) : List Nat :=
  (List.range 4096).filter fun k => inRanges (s.grove g).streams k

/-- The table ids of a grove with a CURRENT version, ascending, with its descriptor. -/
def State.currentTables (s : State) (g : Nat) : List (Nat × TableDesc) :=
  (List.range (s.grove g).tables.2).filterMap fun t =>
    ((s.tableSlot ((s.grove g).tables.1 + t)).at .current).map fun d => (t, d)

/-- The row entries of a grove that a firing saves, in order. -/
def State.savedEntries (s : State) (g : Nat) : List (RowEntry × (Nat × Nat × Nat)) :=
  sortKey (fun e => (e.1.table * 2 ^ 48 + e.1.row) * 4 + e.2.1)
    ((s.emb.entries.filter fun e => e.grove == g).filterMap fun e => (savedKind e.kind).map fun k => (e, k))

/-- Two-bit fields packed from slot 0 up (R466). -/
def headroomBytes (h : List Nat) : List Byte :=
  (List.range 64).map fun i => BitVec.ofNat 8
    (h.getD (4 * i) 0 % 4 + h.getD (4 * i + 1) 0 % 4 * 4 + h.getD (4 * i + 2) 0 % 4 * 16 + h.getD (4 * i + 3) 0 % 4 * 64)

/-- The metadata record of a firing at the commit of the grove's step (R557, R571). -/
def State.kilnMeta (s : State) (g : Nat) : List Byte :=
  let x := s.step_ g
  let streams := s.groveStreams g
  let tables := s.currentTables g
  let entries := s.savedEntries g
  toLe 8 (stepSucc x.step) ++ toLe 8 ((x.record.map (·.cursor)).getD 0) ++ toLe 2 streams.length ++
    toLe 2 tables.length ++ toLe 4 entries.length ++ toLe 8 0 ++
    headroomBytes ((x.record.map (·.headroom)).getD []) ++ padTo 256 (x.delivered.getD []) ++ toLe 160 0 ++
    (streams.flatMap fun k =>
      let r := tgetD s.smp.streams k {}
      toLe 2 k ++ toLe 14 0 ++ toLe 16 r.key ++ toLe 16 r.origin) ++
    (tables.flatMap fun t => toLe 2 t.1 ++ toLe 62 0 ++ t.2.bytes) ++
    (entries.flatMap fun e => entryBytes e.1 e.2)

/-! ## Slots (R569, R570) -/

/-- The first manifest page and the first data page of a slot. -/
def slotPages (metaBytes pages : Nat) : Nat × Nat :=
  let m := (4096 + metaBytes + pageBytes - 1) / pageBytes
  (m, m + (64 * pages + pageBytes - 1) / pageBytes)

/-- The magic number of a completion record. -/
def klnMagic : Nat := 0x324E4C4B

/-- The manifest: each page's address and digest (R572). -/
def Firing.manifest (f : Firing) : List Byte :=
  f.plan.pages.zipIdx.flatMap fun p => toLe 8 p.1 ++ padTo 48 (tgetD f.digests p.2 []) ++ toLe 8 0

/-- The completion record. -/
def State.kilnRecord (s : State) (g : Nat) (f : Firing) : List Byte :=
  let p := slotPages f.meta_.length f.plan.pages.length
  let b := toLe 4 klnMagic ++ toLe 2 1 ++ toLe 1 f.slot ++ toLe 1 g ++ toLe 2 f.plan.gen ++ toLe 2 s.devnum ++
    toLe 1 (if f.touch then 1 else 2) ++ toLe 3 0 ++ toLe 8 f.step ++ toLe 4 f.plan.pages.length ++
    toLe 4 f.meta_.length ++ toLe 4 p.1 ++ toLe 4 p.2 ++ toLe 8 0 ++ sha384 (f.meta_ ++ f.manifest) ++ toLe 28 0
  b ++ toLe 4 (crc32c b)

/-- A completion record is present: its magic, format and crc are right. -/
def recordPresent (b : List Byte) : Bool :=
  leAt b 0 4 == klnMagic && leAt b 4 2 == 1 && leAt b 0x7C 4 == crc32c (b.take 0x7C)

/-! ## Plans (R559, R560) -/

/-- The range entries of a plan: first page and count. -/
def planRanges (b : List Byte) (n : Nat) : List (Nat × Nat) :=
  (List.range n).map fun i => (leAt b (64 + 16 * i) 8, leAt b (64 + 16 * i + 8) 4)

/-- Intervals of bytes, no two of which overlap. -/
def disjoint : List Span → Bool
  | [] => true
  | a :: t => !t.any (overlaps a) && disjoint t

/-- The plan a header and its ranges spell, and whether every check of R560 holds. Assumption: 70 (DESIGN CHOICE). -/
def State.parsePlan (s : State) (g gen : Nat) (b : List Byte) : Bool × KilnPlan :=
  let n := leAt b 4 2
  let rs := planRanges b n
  let dest := leAt b 1 1
  let w := fun o => leAt b o 8
  let pages := rs.flatMap fun r => (List.range r.2).map fun i => r.1 + i * pageBytes
  let p : KilnPlan :=
    { gen := gen, toBuddy := bit dest 0, toStorage := bit dest 1, pages := pages, reserve := w 8,
      reservePages := leAt b 0x10 4, buddy := w 0x18, stride := w 0x20, qp := leAt b 0x28 2, rkey := leAt b 0x2C 4,
      base := w 0x30 }
  let spans := (rs.map fun r => (r.1, r.1 + r.2 * pageBytes)) ++ [(p.reserve, p.reserve + p.reservePages * pageBytes)]
  let mapped := fun va => (s.translate g va).isSome
  let mode := (s.grove g).params.checkpointMode
  let slot := (slotPages (s.kilnMeta g).length pages.length).2 + pages.length
  let ok := leAt b 0 1 == g && 1 ≤ dest && dest < 4 && leAt b 2 2 == gen && 1 ≤ n && n ≤ 1024 && leAt b 6 2 == 0 &&
    p.reserve < 2 ^ 48 && p.reserve % pageBytes == 0 && leAt b 0x14 4 == 0 && p.buddy % pageBytes == 0 &&
    p.buddy < 2 ^ 56 && (p.toBuddy || p.buddy == 0) && p.stride % pageBytes == 0 && p.qp < 4096 &&
    (p.toStorage || p.qp == 0) && leAt b 0x2A 2 == 0 && w 0x38 == 0 &&
    ((List.range n).all fun i => let r := rs.getD i (0, 0)
      r.1 < 2 ^ 48 && r.1 % pageBytes == 0 && 1 ≤ r.2 && leAt b (64 + 16 * i + 12) 4 == 0) &&
    disjoint spans && pages.all mapped && ((List.range p.reservePages).all fun i => mapped (p.reserve + i * pageBytes)) &&
    (!p.toBuddy || ((s.grove g).members.testBit (p.buddy / 2 ^ 41) && p.buddy / 2 ^ 41 != s.devnum)) &&
    p.stride ≥ slot * pageBytes && (mode == 1 || mode == 2) &&
    (if mode = 2 then p.reservePages ≥ pages.length else p.reservePages ≠ 0)
  (ok, p)

/-! ## Writing to the destinations (R573) -/

/-- Bytes of one Kiln write: a drain message of 1,032 bytes or one RDMA WRITE. The spec sets no size.
Assumption: 70 (DESIGN CHOICE). -/
def kilnChunk : Nat := 1024

/-- A destination of a firing. -/
def Firing.dest (f : Firing) (storage : Bool) : KilnDest := if storage then f.storage else f.buddy

/-- The firing with a destination replaced. -/
def Firing.setDest (f : Firing) (storage : Bool) (d : KilnDest) : Firing :=
  if storage then { f with storage := d } else { f with buddy := d }

/-- Where an item lies in its slot, and its length; none while there is nothing to write. -/
def Firing.place (f : Firing) : KilnItem → Option (Nat × Nat)
  | .record0 | .record => some (0, 128)
  | .metadata => some (0x1000, f.meta_.length)
  | .page i => some (((slotPages f.meta_.length f.plan.pages.length).2 + i) * pageBytes, pageBytes)
  | .manifest => some ((slotPages f.meta_.length f.plan.pages.length).1 * pageBytes, 64 * f.plan.pages.length)
  | .waiting | .done => none

/-- The page a fault of an item names (R580). -/
def KilnItem.index : KilnItem → Nat
  | .page i => i
  | _ => 0

/-- The die a grove-virtual page lies on. -/
def State.dieOfVa (s : State) (g va : Nat) : Nat :=
  match (s.translate g va).bind s.locate with
  | some (c, _) => c / 240
  | none => 0

/-- Bytes of page i as it stood at the commit: from the reserve, or read once from live memory, which ends its
protection (R566, R567). The flag is false where the read fails. -/
def State.kilnPage (s : State) (g i off n : Nat) (f : Firing) : State × Option (List Byte) :=
  let va := f.plan.pages.getD i 0
  let reserve := fun r =>
    match s.readVa g (f.plan.reserve + r * pageBytes + off) n with
    | (s, .ok, b) => (s, some b)
    | (s, _, _) => (s, none)
  match tget f.snaps i with
  | some b => (s, some ((b.drop off).take n))
  | none =>
    match tget f.touched i with
    | some r => reserve r
    | none =>
      if !f.touch then reserve i
      else
        match s.readVa g va pageBytes with
        | (s, .ok, b) =>
          let f := { f with snaps := tset f.snaps i b, digests := tset f.digests i (sha384 b) }
          let s := (s.putFiring g f).modKln fun x => { x with protect := x.protect.filter fun p => p.2 != (g, i) }
          (s.bump .KLN_PAGES [s.dieOfVa g va], some ((b.drop off).take n))
        | (s, _, _) => (s, none)

/-- The bytes of an item from an offset. -/
def State.kilnBytes (s : State) (g off n : Nat) (f : Firing) : KilnItem → State × Option (List Byte)
  | .record0 => (s, some (List.replicate n 0))
  | .metadata => (s, some ((f.meta_.drop off).take n))
  | .page i => s.kilnPage g i off n f
  | .manifest => (s, some ((f.manifest.drop off).take n))
  | .record => (s, some (((s.kilnRecord g f).drop off).take n))
  | .waiting | .done => (s, some [])

/-- A new tag of the Kiln. -/
def State.kilnTag (s : State) : Nat × State :=
  (s.kln.nextTag, s.modKln fun x => { x with nextTag := (x.nextTag + 1) % 2 ^ 32 })

/-- Hands a write to its destination: a drain message to the buddy, or an RDMA WRITE. -/
def State.kilnPut (s : State) (g : Nat) (f : Firing) (storage : Bool) (at' tag : Nat) (bs : List Byte) : State :=
  let off := f.slot * f.plan.stride + at'
  if storage then s.emit (.rdmaWrite f.plan.qp f.plan.rkey ((f.plan.base + off) % 2 ^ 64) bs tag)
  else
    s.sendMsg 0 true (f.plan.buddy / 2 ^ 41 % 2 ^ 15) 0x24 g (mfield 4 tag ++ bs)
      (f.plan.buddy / 2 ^ 41 * 2 ^ 41 + (f.plan.buddy + off) % 2 ^ 41)

/-- Ends a firing: its protection is lifted and its reserve free. -/
def State.endFiring (s : State) (g : Nat) (st : Status) (result : Nat) : State :=
  match s.firing g with
  | none => s
  | some f =>
    let s := s.modKln fun x => { x with firings := terase x.firings g, protect := x.protect.filter fun p => p.2.1 != g }
    s.complete f.queue f.index st result

/-- Aborts a firing (R574); `code` is the record's, where it writes one. -/
def State.abortFiring (s : State) (g : Nat) (code : Option Nat) (item : Nat := 0) : State :=
  match s.firing g with
  | none => s
  | some f =>
    let s := s.bump .KLN_ABORTS [0]
    let s := match code with
      | some c => s.klnRecord c g f.slot 0 (if c = 0x07 then item else f.step)
      | none => s
    s.endFiring g .aborted 0

/-- Sends a destination's next write, if it has one and no write of its own is unanswered. A budget may hold it; an
uncorrectable page aborts the firing. -/
def State.kilnSend (s : State) (g : Nat) (storage : Bool) : State :=
  match s.firing g with
  | none => s
  | some f =>
    let d := f.dest storage
    match d.live && d.tag.isNone, f.place d.item with
    | true, some (at', len) =>
      let n := min kilnChunk (len - d.off)
      let die := match d.item with
        | .page i => s.dieOfVa g (f.plan.pages.getD i 0)
        | _ => 0
      let a := s.spend die g 6 ((n + 63) / 64) d.held
      if a.2 then
        match a.1.kilnBytes g d.off n f d.item with
        | (s, none) => s.abortFiring g (some 0x07) d.item.index
        | (s, some bs) =>
          let t := s.kilnTag
          let f := ((t.2.firing g).getD f).setDest storage { d with tag := some t.1, tries := 0, held := false }
          (t.2.putFiring g f).kilnPut g f storage (at' + d.off) t.1 bs
      else a.1.putFiring g (f.setDest storage { d with held := true })
    | _, _ => s

/-- Both destinations send what they can. -/
def State.kilnSends (s : State) (g : Nat) : State := (s.kilnSend g false).kilnSend g true

/-- The item after one that is acknowledged whole. -/
def Firing.nextItem (f : Firing) : KilnItem → KilnItem
  | .record0 => .waiting
  | .metadata => .page 0
  | .page i => if i + 1 < f.plan.pages.length then .page (i + 1) else .manifest
  | .manifest => .record
  | .record => .done
  | x => x

/-- The destination waits for the capture, or has its completion record. -/
def KilnDest.at (d : KilnDest) (x : KilnItem) : Bool := !d.live || d.item == x

/-- The state after a destination moved or was dropped (R565): INVALIDATE ends when every destination in service has
its zeroed record, SEAL when every one has its completion record; with none left FIRE completes FAULT. -/
def State.firingMoves (s : State) (g : Nat) : State :=
  match s.firing g with
  | none => s
  | some f =>
    if !f.buddy.live && !f.storage.live then s.endFiring g .fault 0
    else if f.st == .invalidate && f.buddy.at .waiting && f.storage.at .waiting then s.putFiring g { f with st := .capture }
    else if f.st == .drain && (f.buddy.item == .record || f.storage.item == .record) then s.putFiring g { f with st := .seal }
    else if f.st == .seal && f.buddy.at .done && f.storage.at .done then
      let dest := b2n f.buddy.live + 2 * b2n f.storage.live
      let s := s.putReg .KLN_LAST [g] (BitVec.ofNat 64 (2 ^ 63 + f.slot * 2 ^ 62 + dest * 2 ^ 48 + f.step))
      s.endFiring g .ok (f.step + dest * 2 ^ 48)
    else s

/-- A destination acknowledges the write under a tag. -/
def State.kilnAcked (s : State) (g : Nat) (storage : Bool) (tag : Nat) : State :=
  match s.firing g with
  | none => s
  | some f =>
    let d := f.dest storage
    if d.tag ≠ some tag then s
    else
      match f.place d.item with
      | none => s
      | some (_, len) =>
        let n := min kilnChunk (len - d.off)
        let s := s.bump .KLN_DRAINED [0] ((n + 63) / 64)
        let d := { d with tag := none, tries := 0, off := d.off + n }
        let d := if d.off ≥ len then { d with item := f.nextItem d.item, off := 0 } else d
        let f := f.setDest storage d
        let f := { f with snaps := f.snaps.filter fun p => !f.drained p.1 }
        ((s.putFiring g f).firingMoves g).kilnSend g storage

/-- A destination fails (R573): recorded and dropped; the other continues. -/
def State.kilnFail (s : State) (g : Nat) (storage : Bool) : State :=
  match s.firing g with
  | none => s
  | some f =>
    let d := f.dest storage
    if !d.live || f.st == .armed then s
    else
      let s := s.klnRecord 0x06 g f.slot (if storage then 2 else 1) f.step
      let f := f.setDest storage { d with live := false, tag := none }
      let f := { f with snaps := f.snaps.filter fun p => !f.drained p.1 }
      (s.putFiring g f).firingMoves g

/-- The buddy's answer is overdue: the message is sent again at most three times, then the destination fails. -/
def State.kilnOverdue (s : State) (g : Nat) : State :=
  match s.firing g with
  | none => s
  | some f =>
    match f.buddy.tag, f.place f.buddy.item with
    | some t, some (at', len) =>
      if f.buddy.tries < 3 then
        match s.kilnBytes g f.buddy.off (min kilnChunk (len - f.buddy.off)) f f.buddy.item with
        | (s, some bs) =>
          let f := f.setDest false { f.buddy with tries := f.buddy.tries + 1 }
          (s.putFiring g f).kilnPut g f false (at' + f.buddy.off) t bs
        | (s, none) => s.abortFiring g (some 0x07) f.buddy.item.index
      else s.kilnFail g false
    | _, _ => s

/-! ## Firings (R563 to R567) -/

/-- A firing of the grove holds its STEP_OPEN: the pause from INVALIDATE to the end of CAPTURE (R566). -/
def State.capturing (s : State) (g : Nat) : Bool :=
  match s.firing g with
  | some f => f.st == .invalidate || f.st == .capture
  | none => false

/-- The commit of step n has done its writes, broadcast, refresh and flips: an armed firing of it starts (R565). -/
def State.commitFires (s : State) (g n : Nat) : State :=
  match s.firing g with
  | some f =>
    if f.st == .armed && f.step == n then
      (s.putFiring g { f with st := .invalidate, meta_ := s.kilnMeta g }).kilnSends g
    else s
  | none => s

/-- Stop-copy: page i goes to the reserve page at its index; false where it cannot be read. -/
def State.captureOne (s : State) (g i va : Nat) : State × Bool :=
  match s.firing g with
  | none => (s, true)
  | some f =>
    match s.readVa g va pageBytes with
    | (s, .ok, b) =>
      let s := (s.writeVa g (f.plan.reserve + i * pageBytes) b).1
      let s := s.putFiring g { f with digests := tset f.digests i (sha384 b) }
      (s.bump .KLN_PAGES [s.dieOfVa g va], true)
    | (s, _, _) => (s, false)

/-- Stop-copy of every page in capture order, until one cannot be read. -/
def State.captureAll (s : State) (g : Nat) : List (Nat × Nat) → State × Option Nat
  | [] => (s, none)
  | (va, i) :: t =>
    match s.captureOne g i va with
    | (s, true) => s.captureAll g t
    | (s, false) => (s, some i)

/-- The capture ends: the copy is done, or protection is in force; draining starts. -/
def State.captureDone (s : State) (g : Nat) : State :=
  match s.firing g with
  | none => s
  | some f =>
    if f.st ≠ .capture then s
    else
      let drain := fun (s : State) =>
        let f := (s.firing g).getD f
        let go := fun (d : KilnDest) => if d.live then { d with item := .metadata, off := 0 } else d
        (s.putFiring g { f with st := .drain, buddy := go f.buddy, storage := go f.storage }).kilnSends g
      if f.touch then
        let prot := f.plan.pages.zipIdx.filterMap fun p => (s.localPage g p.1).map fun o => (o / 2 ^ 21, g, p.2)
        drain (s.modKln fun x => { x with protect := x.protect ++ prot })
      else
        match s.captureAll g f.plan.pages.zipIdx with
        | (s, none) => drain s
        | (s, some i) => s.abortFiring g (some 0x07) i

/-- A held write's page has been copied (R567). Assumption: 71 (DEDUCED). -/
def State.touchDone (s : State) (g i cycles : Nat) : State :=
  match s.kln.protect.find? fun p => p.2 == (g, i), s.firing g with
  | some p, some f =>
    if (f.freeReserve f.drained).isNone then s
    else
      let die := s.dieOfVa g (f.plan.pages.getD i 0)
      (if cycles = 0 then s else s.bump .KLN_HELD_CYC [die] cycles).touchPage p.1
  | _, _ => s

/-! ## Commands of target 6 (R562) -/

/-- Ends a command of target 6 as BAD_COMMAND. -/
def State.refuseKln (s : State) (q i code g slot item : Nat) : State :=
  (s.klnRecord code g slot 0 item).complete q i .badCommand 0

/-- A command of target 6 with an opcode that may start, unless it stands on a CD1 queue.
Assumption: 70 (DESIGN CHOICE). -/
def State.klnCmd (s : State) (q i op : Nat) : State × Option Cmd :=
  match s.ofRow q i 6 op with
  | none => (s, none)
  | some c =>
    let s := s.start q i
    if dieOfQueue q = 1 && op ≠ 5 then (s.refuseKln q i 0x01 c.grove 0 0, none) else (s, some c)

/-- PLAN_LOAD (R560). -/
def State.planLoad (s : State) (q i : Nat) : State :=
  match s.klnCmd q i 1 with
  | (s, none) => s
  | (s, some c) =>
    let g := c.grove
    let va := c.arg 8 8
    if !c.restZero [(8, 8)] || va ≥ 2 ^ 48 || va % 64 ≠ 0 then s.refuseKln q i 0x01 g 0 0
    else
      let h := s.readVa g va 64
      let n := leAt h.2.2 4 2
      let r := if h.2.1 == .ok && n ≤ 1024 then h.1.readVa g va (64 + 16 * n) else h
      match r with
      | (s, .ok, b) =>
        let p := s.parsePlan g c.gen b
        if !p.1 then s.refuseKln q i 0x02 g 0 0
        else (s.modKln fun x => { x with plans := tset x.plans g p.2 }).complete q i .ok (p.2.pages.length % 2 ^ 32)
      | (s, .page, _) => s.refuseKln q i 0x02 g 0 0
      | (s, _, _) => s.complete q i .fault 0

/-- The grove's uncommitted step (R563); none while COMMITTED. -/
def State.uncommitted (s : State) (g : Nat) : Option Nat :=
  let x := s.step_ g
  match x.st with
  | .running | .sealed | .voided => some x.step
  | .closed => some (stepSucc x.step)
  | .committed => none

/-- FIRE (R563). Assumption: 70 (DESIGN CHOICE). -/
def State.fire (s : State) (q i : Nat) : State :=
  match s.klnCmd q i 2 with
  | (s, none) => s
  | (s, some c) =>
    let g := c.grove
    let n := c.arg 8 8
    let slot := c.arg 0x10 1
    if !c.restZero [(8, 8), (0x10, 1)] || n ≥ 2 ^ 48 || slot > 1 then s.refuseKln q i 0x01 g 0 0
    else
      match tget s.kln.plans g with
      | none => s.refuseKln q i 0x02 g slot n
      | some p =>
        if p.gen ≠ (s.grove g).generation then s.refuseKln q i 0x02 g slot n
        else if (s.firing g).isSome || (s.step_ g).restorePending then s.refuseKln q i 0x03 g slot n
        else if s.uncommitted g ≠ some n then s.refuseKln q i 0x04 g slot n
        else s.putFiring g { st := .armed, queue := q, index := i, step := n, slot := slot,
                             touch := (s.grove g).params.checkpointMode == 1, plan := p,
                             buddy := { live := p.toBuddy }, storage := { live := p.toStorage } }

/-- KLN_ABORT (R574). -/
def State.klnAbort (s : State) (q i : Nat) : State :=
  match s.klnCmd q i 3 with
  | (s, none) => s
  | (s, some c) =>
    if !c.restZero [] then s.refuseKln q i 0x01 c.grove 0 0
    else (s.abortFiring c.grove (some 0x05)).complete q i .ok 0

/-! ## Restores and probes (R575 to R578) -/

/-- Asks a source for bytes of a slot under a new tag. Assumption: 70 (DESIGN CHOICE). -/
def State.askSlot (s : State) (g : Nat) (p : KilnPlan) (source slot off n : Nat) (probe : Option (Nat × Nat × Nat)) : State :=
  let t := s.kilnTag
  let s := t.2.modKln fun x => { x with reads := tset x.reads t.1 { grove := g, probe := probe, length := n } }
  let at' := slot * p.stride + off
  if source = 1 then s.emit (.rdmaRead p.qp p.rkey ((p.base + at') % 2 ^ 64) n t.1)
  else s.emit (.kilnRead (p.buddy / 2 ^ 41 % 2 ^ 15) ((p.buddy + at') % 2 ^ 41) n t.1)

/-- The plan offers a source. -/
def KilnPlan.offers (p : KilnPlan) (source : Nat) : Bool := if source = 1 then p.toStorage else p.toBuddy

/-- RESTORE (R575). -/
def State.restore (s : State) (q i : Nat) : State :=
  match s.klnCmd q i 4 with
  | (s, none) => s
  | (s, some c) =>
    let g := c.grove
    let source := c.arg 8 1
    let slot := c.arg 9 1
    let n := c.arg 0x10 8
    if !c.restZero [(8, 2), (0x10, 8)] || source > 1 || slot > 1 || n ≥ 2 ^ 48 then s.refuseKln q i 0x01 g 0 0
    else if (s.firing g).isSome || (tget s.kln.restores g).isSome then s.refuseKln q i 0x03 g slot n
    else if (s.step_ g).st ≠ .closed then s.refuseKln q i 0x0B g slot n
    else
      match tget s.kln.plans g with
      | none => s.refuseKln q i 0x02 g slot n
      | some p =>
        if !p.offers source then s.refuseKln q i 0x02 g slot n
        else
          let s := s.modStep g fun x => { x with restorePending := true }
          let r : Restore := { queue := q, index := i, source := source, slot := slot, expected := n }
          (s.modKln fun x => { x with restores := tset x.restores g r }).askSlot g p source slot 0 128 none

/-- PROBE (R578). -/
def State.probeSlot (s : State) (q i : Nat) : State :=
  match s.klnCmd q i 5 with
  | (s, none) => s
  | (s, some c) =>
    let g := c.grove
    let source := c.arg 8 1
    let slot := c.arg 9 1
    if !c.restZero [(8, 2)] || source > 1 || slot > 1 then s.refuseKln q i 0x01 g 0 0
    else
      match tget s.kln.plans g with
      | none => s.refuseKln q i 0x02 g slot 0
      | some p =>
        if !p.offers source then s.refuseKln q i 0x02 g slot 0
        else s.askSlot g p source slot 0 128 (some (q, i, slot))

/-- A restore fails (R575): the grove stays restore_pending. Assumption: 72 (DEDUCED). -/
def State.restoreFails (s : State) (g : Nat) (r : Restore) (code item : Nat) : State :=
  let s := s.klnRecord code g r.slot (r.source + 1) item
  (s.modKln fun x => { x with restores := terase x.restores g }).complete r.queue r.index .fault 0

/-- Step 3 clears what R576 lists. Assumption: 72 (DEDUCED). -/
def State.restoreClears (s : State) (g : Nat) : State :=
  let reds := (s.ownedReds 0 g) ++ (s.ownedReds 1 g)
  let s := s.each reds fun s d => (s.zeroBuffer g d 0).zeroBuffer g d 1
  let s := (s.voidUpdate g 0).voidUpdate g 1
  let s := s.modUpd fun x => { x with faults := x.faults.filter (· % 16 != g) }
  let s := s.modGth fun x => { x with merge := x.merge.filter fun p => mergeOwner p.1 % 16 != g }
  let ix := (s.grove g).tables
  let s := ((s.clearHists g).dropEmb g).clearTables fun k => ix.1 ≤ k && k < ix.1 + ix.2
  (s.discardTasks (fun _ x => x.task.grove == g) true).zeroFlows g

/-- Installs the saved streams, tables and row entries, and the step (R575, R576). -/
def State.restoreInstalls (s : State) (g : Nat) (m : List Byte) : State :=
  let ns := leAt m 0x10 2
  let nt := leAt m 0x12 2
  let ne := leAt m 0x14 4
  let next := leAt m 0 8 % 2 ^ 48
  let at' := fun base size i => (m.drop (base + size * i)).take size
  let s := s.each (List.range ns) fun s i =>
    let b := at' 512 48 i
    { s with smp := { s.smp with
        streams := tset s.smp.streams (leAt b 0 2 % 4096) { key := leAt b 0x10 16, origin := leAt b 0x20 16 } } }
  let s := s.each (List.range nt) fun s i =>
    let b := at' (512 + 48 * ns) 128 i
    match s.tableIx g (leAt b 0 2 % 4096), parseTable (b.drop 64) with
    | some ix, some d => s.modEmb fun x => { x with slots := tset x.slots ix { st0 := .current, desc0 := some d } }
    | _, _ => s
  let entries := (List.range ne).filterMap fun i =>
    let b := at' (512 + 48 * ns + 128 * nt) 32 i
    let k := leAt b 0 1
    let kind := if k = 1 then some (RowKind.graft (leAt b 0x10 2) (leAt b 0x14 4 % 2 ^ 24))
      else if k = 2 then some (.scion (leAt b 0x14 4 % 2 ^ 24))
      else if k = 3 then some (.holder (leAt b 0x10 2) false true)
      else none
    kind.map fun kind => { grove := g, table := leAt b 2 2, version := leAt b 4 4, row := leAt b 8 8 % 2 ^ 48, kind := kind }
  let s := s.modEmb fun x => { x with
    entries := x.entries ++ entries
    refreshed := (s.members g).foldl (fun t d => tset t (2 ^ 15 * g + d) (stepPred next)) x.refreshed }
  s.modStep g fun x => { x with
    st := .closed, step := stepPred next, attempt := 0, record := none, delivered := none, restorePending := false,
    withhold := false, faulted := false, heldVoids := [], reports := [], origins := [] }

/-- The next page of a restore is asked for, or the restore ends. Assumption: 72 (DEDUCED). -/
def State.restoreNext (s : State) (g : Nat) (p : KilnPlan) (r : Restore) : State :=
  if r.page < leAt r.record 0x18 4 then
    (s.modKln fun x => { x with restores := tset x.restores g r }).askSlot g p r.source r.slot
      ((leAt r.record 0x24 4 + r.page) * pageBytes) pageBytes none
  else
    let s := (s.restoreInstalls g r.meta_).modKln fun x => { x with restores := terase x.restores g }
    s.complete r.queue r.index .ok (leAt r.meta_ 0 8 % 2 ^ 48)

/-- A completion record read for a grove names the grove and this device. -/
def State.recordOurs (s : State) (g : Nat) (b : List Byte) : Bool :=
  recordPresent b && leAt b 7 1 % 16 == g && leAt b 0x0A 2 % 2 ^ 15 == s.devnum

/-- Data for a restore arrives. -/
def State.restoreData (s : State) (g : Nat) (p : KilnPlan) (r : Restore) (b : List Byte) : State :=
  let ask := fun (r : Restore) off n =>
    (s.modKln fun x => { x with restores := tset x.restores g r }).askSlot g p r.source r.slot off n none
  if r.record.isEmpty then
    if !s.recordOurs g b || leAt b 0x10 8 % 2 ^ 48 ≠ r.expected then s.restoreFails g r 0x09 r.expected
    else ask { r with record := b } 0x1000 (leAt b 0x1C 4)
  else if r.meta_.isEmpty then
    ask { r with meta_ := b } (leAt r.record 0x20 4 * pageBytes) (64 * leAt r.record 0x18 4)
  else if r.manifest.isEmpty then
    if sha384 (r.meta_ ++ b) ≠ (r.record.drop 0x30).take 48 then s.restoreFails g r 0x0A r.expected
    else (s.restoreClears g).restoreNext g p { r with manifest := b }
  else
    let e := (r.manifest.drop (64 * r.page)).take 64
    match s.writeVa g (leAt e 0 8 % 2 ^ 48) b with
    | (s, .ok) =>
      if sha384 b ≠ (e.drop 8).take 48 then
        (s.bump .KLN_DIGEST_FAIL [s.dieOfVa g (leAt e 0 8)]).restoreFails g r 0x0A r.page
      else s.restoreNext g p { r with page := r.page + 1 }
    | (s, _) => s.restoreFails g r 0x0A r.page

/-- Data of a slot arrives under a tag; data of another length than was asked for is not the answer. -/
def State.slotData (s : State) (tag : Nat) (b : List Byte) : State :=
  match tget s.kln.reads tag with
  | none => s
  | some x =>
    if b.length ≠ x.length then s
    else
      let s := s.modKln fun k => { k with reads := terase k.reads tag }
      match x.probe with
      | some (q, i, slot) =>
        let ok := s.recordOurs x.grove b
        s.complete q i .ok ((if ok then leAt b 0x10 8 % 2 ^ 48 + 2 ^ 48 else 0) + slot * 2 ^ 49)
      | none =>
        match tget s.kln.restores x.grove, tget s.kln.plans x.grove with
        | some r, some p => s.restoreData x.grove p r b
        | _, _ => s

/-- A source refuses or cannot be reached: a restore fails as if the slot were absent; a PROBE answers valid 0. -/
def State.slotLost (s : State) (tag : Nat) : State :=
  match tget s.kln.reads tag with
  | none => s
  | some x =>
    let s := s.modKln fun k => { k with reads := terase k.reads tag }
    match x.probe with
    | some (q, i, slot) => s.complete q i .ok (slot * 2 ^ 49)
    | none =>
      match tget s.kln.restores x.grove with
      | some r => s.restoreFails x.grove r 0x09 r.expected
      | none => s

/-- The Kiln's part of a regrove: an unbind, or a delta with CHANNELS, discards the plan; another delta carries it to
the new generation (R561). -/
def State.regrovePlan (s : State) (g gen : Nat) (keep : Bool) : State :=
  let carry := fun (k : Nat) (p : KilnPlan) => if k = g then { p with gen := gen } else p
  s.modKln fun x => { x with plans := if keep then tmap x.plans carry else terase x.plans g }

/-- KLN_STATE of a grove (R581). -/
def State.klnState (s : State) (g : Nat) : Word :=
  let pend := b2n (s.step_ g).restorePending * 2 ^ 52
  match s.firing g, tget s.kln.restores g with
  | some f, _ =>
    let n := match f.st with
      | .armed => 1
      | .invalidate => 2
      | .capture => 3
      | .drain => 4
      | .seal => 5
    BitVec.ofNat 64 (n * 2 ^ 56 + f.slot * 2 ^ 53 + pend + b2n f.buddy.live * 2 ^ 50 + b2n f.storage.live * 2 ^ 51 + f.step)
  | none, some r => BitVec.ofNat 64 (6 * 2 ^ 56 + r.slot * 2 ^ 53 + pend + r.expected)
  | none, none => BitVec.ofNat 64 pend

/-- KLN_PROGRESS of a grove (R582). Assumption: 24 (DESIGN CHOICE). -/
def State.klnProgress (s : State) (g : Nat) : Word :=
  match s.firing g with
  | some f =>
    let begun := f.st == .drain || f.st == .seal
    let n := if begun then ((List.range f.plan.pages.length).filter f.drained).length else 0
    BitVec.ofNat 64 (n % 2 ^ 32 * 2 ^ 32 + f.digests.length % 2 ^ 32)
  | none => 0

/-! ## The buddy's side (R573) -/

/-- A drain message reaches the memory-pool service: checked, written and acknowledged. -/
def State.kilnWrite (s : State) (die : Nat) (o : Origin) (w : KilnWrite) (again : Bool := false) : State :=
  let holder := (s.locate w.offset).bind fun p => s.channelOwner p.1
  if !s.groveIs o.grove o.gen || (holder ≠ some o.grove && (s.locate w.offset).isSome) then s.dropStale die o true
  else
    match s.spend die o.grove 4 1 again with
    | (s, false) => s.holdServe (.kilnWrite die o w)
    | (s, true) =>
      match s.writeLocal (.grove o.grove) w.offset w.data with
      | (s, .ok) => s.colAck die o.device o.grove w.request 0
      | (s, a) => s.sendNeg die o.device o.grove (negOf a) w.request

end Sys2Proof.Machine
end

