-- ==== Sys2Proof/Machine/Collect.lean ====
section
/-! DEFINITION. Contributions and owned reductions (ch. 15): loading a schedule, sending, admitting, applying and
closing. -/
namespace Sys2Proof.Machine

/-! ## Commands of the schedule (R469, R493) -/

/-- Ends a command of target 4 as BAD_COMMAND with its record. -/
def State.refuseCol (s : State) (q i code g red : Nat) : State :=
  (s.colRecord .contained (dieOfQueue q) code g red 0 0).complete q i .badCommand 0

/-- A reduction's slot holds a descriptor, or takes one at the next open. -/
def Reduction.holds (r : Reduction) : Bool :=
  match r.staged with
  | some n => n.isSome
  | none => r.desc.isSome

/-- Descriptors a die holds (R469). -/
def State.redsHeld (s : State) (die : Nat) : Nat :=
  (s.col.reductions.filter fun p => p.1 / 65536 == die && p.2.holds).length

/-- A die of the grove owns a reduction id, now or from the next open. -/
def State.ownsId (s : State) (die g r : Nat) : Bool :=
  let x := s.reduction (redKey die g r)
  ((x.staged.getD x.desc).map (·.own)).getD false

/-- The group list of a descriptor is as R468 and R469 ask; none where a page of it is not mapped. -/
def State.groupOk (s : State) (g : Nat) (d : RedDesc) : State × Acc × Bool :=
  match s.readVa g d.groupList (2 * d.groupCount) with
  | (s, .ok, b) =>
    let l := (List.range d.groupCount).map fun i => leAt b (2 * i) 2
    (s, .ok, rising l && l.all (· < 2 ^ 15) && (!d.own || l.contains s.devnum))
  | (s, a, _) => (s, a, false)

/-- SCHED_LOAD: the descriptor takes effect at the grove's next open. -/
def State.schedLoad (s : State) (q i : Nat) : State :=
  match s.ofRow q i 4 1 with
  | none => s
  | some c =>
    let s := s.start q i
    let g := c.grove
    let die := dieOfQueue q
    let va := c.arg 8 8
    if !c.restZero [(8, 8)] || va ≥ 2 ^ 48 || va % 64 ≠ 0 then s.refuseCol q i 0x01 g 0
    else
      match s.readVa g va 128 with
      | (s, .page, _) => s.refuseCol q i 0x02 g 0
      | (s, .ok, b) =>
        (match parseRed b with
         | (false, d) => s.refuseCol q i 0x02 g d.reduction
         | (true, d) =>
           match s.groupOk g d with
           | (s, .ok, ok) =>
             let k := redKey die g d.reduction
             if !ok || (d.own && s.ownsId (1 - die) g d.reduction) then s.refuseCol q i 0x02 g d.reduction
             else if s.redsHeld die ≥ 2048 && !(s.reduction k).holds then s.refuseCol q i 0x03 g d.reduction
             else (s.modRed k fun x => { x with staged := some (some d) }).complete q i .ok (d.segments % 2 ^ 24)
           | (s, .page, _) => s.refuseCol q i 0x02 g d.reduction
           | (s, _, _) => s.complete q i .fault 0)
      | (s, _, _) => s.complete q i .fault 0

/-- The SCHED_LOAD command. -/
def execSchedLoad (queue index : Nat) (s : State) : Host.Outcome State Fault Refusal :=
  .next (s.onDie fun s => s.schedLoad queue index)

/-- SCHED_DROP: the descriptor goes at the grove's next open; a reduction the die does not hold is left as it is. -/
def State.schedDrop (s : State) (q i : Nat) : State :=
  match s.ofRow q i 4 2 with
  | none => s
  | some c =>
    let s := s.start q i
    let r := c.arg 8 2
    if !c.restZero [(8, 2)] || r ≥ 4096 then s.refuseCol q i 0x01 c.grove 0
    else
      let k := redKey (dieOfQueue q) c.grove r
      let s := if (s.reduction k).desc.isSome || (s.reduction k).holds then s.modRed k fun x => { x with staged := some none }
        else s
      s.complete q i .ok 0

/-- The SCHED_DROP command. -/
def execSchedDrop (queue index : Nat) (s : State) : Host.Outcome State Fault Refusal :=
  .next (s.onDie fun s => s.schedDrop queue index)

/-! ## Closing (R477) -/

/-- An owned reduction of the grove's step closes: short counts are recorded, and the update unit stages it. -/
def State.closeRed (s : State) (die g : Nat) (d : RedDesc) : State :=
  let n := (s.step_ g).step
  let counts := s.countWords g d n
  let low := counts.foldl min (2 ^ 32)
  let s := s.modRed (redKey die g d.reduction) fun x => { x with closed := true }
  let s := if low < d.expected then
      (let s := (s.bump .COL_SHORT [die]).putReg .COL_FAULT_LAST [die]
        (BitVec.ofNat 64 (0x09 * 2 ^ 56 + g * 2 ^ 52 + d.reduction % 2 ^ 12 * 2 ^ 40))
       s.record .col .corrected die 0x09 (some g) (d.reduction % 2 ^ 12 + low % 2 ^ 27 * 2 ^ 37))
    else s
  s.stageReduction die g d.reduction

/-- A reduction closes once the count word of every owned segment equals expected, while its step is open. -/
def State.closeIfFull (s : State) (die g : Nat) (d : RedDesc) : State :=
  let x := s.step_ g
  if x.st == .closed || x.st == .committed || x.st == .voided || (s.reduction (redKey die g d.reduction)).closed then s
  else if (s.countWords g d x.step).all (· == d.expected) then s.closeRed die g d
  else s

/-- Every owned reduction that is full closes. -/
def State.closeFull (s : State) (g : Nat) : State :=
  s.each [0, 1] fun s die => s.each (s.ownedReds die g) fun s d => s.closeIfFull die g d

/-- The deadline of an owned reduction expires (R477). -/
def State.deadline (s : State) (die g r : Nat) : State :=
  match s.redDesc die g r with
  | some d =>
    if (s.step_ g).st == .running && d.own && !(s.reduction (redKey die g r)).closed then s.closeRed die g d else s
  | none => s

/-- A reduction's deadline. -/
def execReductionDeadline (die grove reduction : Nat) (s : State) : Host.Outcome State Fault Refusal :=
  .next (s.onDie fun s => s.deadline die grove reduction)

/-! ## At the owner (R474, R475) -/

/-- Adds the blocks of a contribution to the buffer of its step (R474), until an addition fails. -/
def State.applyBlocks (s : State) (g : Nat) (d : RedDesc) (c : Contribution) : State × Acc :=
  let codes := c.data.map BitVec.toNat
  let add := fun (p : State × Acc) (b : Nat) =>
    if p.2 == .ok then p.1.accumulateVa g .b8 (d.sumVa c.step c.segment + 256 * b) 0 ((codes.drop (64 * b)).take 64) else p
  let p := (List.range c.blocks).foldl add (s, .ok)
  let word := fun (p : State × Acc) va x => if p.2 == .ok then p.1.accumulateVa g .u32 va 0 [x] else p
  let p := word p (d.countVa c.step c.segment) c.count
  let sat := (codes.filter (· == 0x80)).length
  if sat = 0 then p else word p (d.countVa c.step c.segment + 8) sat

/-- Notes a request of a sending die as applied (R475). -/
def State.noteApplied (s : State) (die g device sdie request : Nat) : State :=
  s.modCol fun x => { x with applied := tmod x.applied (dieGrove die g) [] (· ++ [(device, sdie, request)]) }

/-- A request of a sending die has been applied since the bind. -/
def State.wasApplied (s : State) (die g device sdie request : Nat) : Bool :=
  (tgetD s.col.applied (dieGrove die g) []).contains (device, sdie, request)

/-- What the owner does with a contribution: it answers a status, sends a negative response, or drops it. -/
inductive ColAnswer where
  | status (n : Nat)
  | neg (n : Nat)
  | none
  deriving DecidableEq, Repr

/-- Applies an admitted contribution on the owning die (R475). -/
def State.takeBlocks (s : State) (own g device sdie : Nat) (d : RedDesc) (c : Contribution) : State × ColAnswer :=
  match s.applyBlocks g d c with
  | (s, .ok) =>
    let s := (s.noteApplied own g device sdie c.request).bump .COL_APPLIED [own]
    let s := s.tallyRecv own g (tallyItem g device c)
    (if c.step = (s.step_ g).step then s.closeIfFull own g d else s, .status 0)
  | (s, a) => (s.stepFault g, .neg (negOf a))

/-- The die of this device that owns a reduction's segment. Assumption: 66 (DESIGN CHOICE). -/
def State.segOwner (s : State) (g r seg : Nat) : Option (Nat × RedDesc) :=
  [0, 1].findSome? fun die => match s.redDesc die g r with
    | some d => if d.owns seg then some (die, d) else Option.none
    | Option.none => Option.none

/-- The table of R475 for gradient blocks; `at'` is the die the message reached. A contribution for the next step's
first attempt is applied; one that names another attempt of it is a stale attempt. Assumption: 65 (DEDUCED). -/
def State.takeContribution (s : State) (at' g device sdie : Nat) (c : Contribution) : State × ColAnswer :=
  match s.segOwner g c.reduction c.segment with
  | Option.none =>
    ((s.bump .COL_NOT_OWNER [at']).colRecord .contained at' 0x06 g c.reduction c.segment device, .status 3)
  | some (own, d) =>
    let x := s.step_ g
    let n := x.step
    let stale := fun (s : State) => (s.bump .COL_STALE_ATTEMPT [own], ColAnswer.status 4)
    if s.wasApplied own g device sdie c.request then (s.bump .COL_REPEAT [own], .status 1)
    else if c.step = stepSucc n then
      (if c.attempt = 0 then s.takeBlocks own g device sdie d c else stale s)
    else if c.step = n && x.st != .closed && !(s.reduction (redKey own g c.reduction)).closed && c.attempt = x.attempt then
      s.takeBlocks own g device sdie d c
    else if c.step = n && c.attempt ≠ x.attempt then stale s
    else if c.step = n || serialAfter n c.step 48 then
      ((s.noteLate own g c.reduction c.segment device).tallyLate own g (tallyItem g device c), .status 2)
    else (s.colRecord .contained own 0x07 g c.reduction c.segment device, .none)

/-! ## Histogram merges (R475, R484) -/

/-- Bytes of a stream in the merge area. -/
def mergeStream : Nat := 0x220

/-- The local offset of the merge area (R496). Assumption: 64 (DESIGN CHOICE). -/
def State.mergeArea (s : State) (g : Nat) : Option Nat :=
  let v := s.getReg .COL_HIST_MERGE [0, g]
  if v.getLsbD 63 then some (wfld v 6 35 * 64) else none

/-- The bytes of an empty merge area. -/
def mergeZeros : List Byte := List.replicate (256 * mergeStream) 0

/-- Zeroes the merge area (R484). -/
def State.clearMerge (s : State) (g : Nat) : State :=
  match s.mergeArea g with
  | some o => (s.writeLocal (.grove g) o mergeZeros).1
  | none => s

/-- Adds u32 values to words from a local offset by ACC_U32, until an addition fails; a zero adds nothing.
Assumption: 64 (DESIGN CHOICE). -/
def State.mergeWords (s : State) (g o : Nat) (values : List Nat) : State × Acc :=
  values.zipIdx.foldl (fun (p : State × Acc) x =>
    if p.2 == .ok && x.1 ≠ 0 then p.1.accumulate g .u32 (o + 8 * x.2) 0 [x.1] else p) (s, .ok)

/-- Applies a kind 3 message by R475's rules for it; one for the next step waits, while the receiver is CLOSED.
Assumption: 64 (DESIGN CHOICE). -/
def State.takeMerge (s : State) (g : Nat) (o : Origin) (c : Contribution) : State × ColAnswer :=
  let x := s.step_ g
  let values := (List.range (8 * c.blocks)).map fun i => leAt c.data (4 * i) 4
  if s.wasApplied 0 g o.device o.die c.request then (s.bump .COL_REPEAT [0], .status 1)
  else if c.step = stepSucc x.step && x.st == .closed then
    (s.modStep g fun x => { x with earlyMerges := x.earlyMerges ++ [(0, o, c)] }, .none)
  else if c.step ≠ x.step || c.attempt ≠ x.attempt then (s.bump .COL_STALE_ATTEMPT [0], .status 4)
  else
    let inside := match s.mergeArea g with
      | some a => a ≤ c.target && c.target + 8 * values.length ≤ a + 256 * mergeStream && c.target % 8 == 0
      | none => false
    if !inside then (s.bump .COL_NOT_OWNER [0], .status 3)
    else
      match s.mergeWords g c.target values with
      | (s, .ok) => ((s.noteApplied 0 g o.device o.die c.request).bump .COL_APPLIED [0], .status 0)
      | (s, a) => (s.stepFault g, .neg (negOf a))

/-- Sends the answer to a contribution. -/
def State.answerCol (s : State) (die device g request : Nat) : ColAnswer → State
  | .status n => s.colAck die device g request n
  | .neg n => s.sendNeg die device g n request
  | .none => s

/-- A whole contribution arrives. -/
def State.contributionReceive (s : State) (die : Nat) (o : Origin) (c : Contribution) : State :=
  let g := o.grove
  if !s.groveIs g o.gen then s.dropStale die o true
  else
    let r := if c.kind = 3 then s.takeMerge g o c else s.takeContribution die g o.device o.die c
    r.1.answerCol die o.device g c.request r.2

/-- A contribution arrives. -/
def execContributionReceive (die : Nat) (o : Origin) (c : Contribution) (s : State) : Host.Outcome State Fault Refusal :=
  .next (s.onDie fun s => s.contributionReceive die o c)

/-- The merges that waited for the grove's open are taken, in their order. Assumption: 65 (DEDUCED). -/
def State.takeEarly (s : State) (g : Nat) : State :=
  let l := (s.step_ g).earlyMerges
  let s := s.modStep g fun x => { x with earlyMerges := [] }
  s.each l fun s p =>
    let r := s.takeMerge g p.2.1 p.2.2
    r.1.answerCol p.1 p.2.1.device g p.2.2.request r.2

/-! ## Sending (R470, R471) -/

/-- A segment's B8 codes, with how many saturated for range and how many for NaN. -/
def encodeSegment (e : Int) (codes : List Nat) : List Byte × Nat × Nat :=
  let xs := codes.map fun c => toB8 e (ofF32 c)
  let n := (codes.length + 63) / 64 * 64
  (padTo n (xs.map fun x => BitVec.ofNat 8 x.1), (xs.filter fun x => x.2 == .sat).length,
    (xs.filter fun x => x.2 == .nan).length)

/-- Sends one segment: over the link, or applied on this device where it is the owner. The flag says its source could be
read. -/
def State.sendSegment (s : State) (die g : Nat) (d : RedDesc) (seg : Nat) : State × Bool :=
  let n := d.elemsOf seg
  match s.readVa g (d.source + 6144 * seg) (4 * n) with
  | (s, .ok, src) =>
    (match s.readVa g (d.ownerMap + 2 * seg) 2 with
     | (s, .ok, ob) =>
       let dest := leAt ob 0 2 % 2 ^ 15
       let enc := encodeSegment (s.slotScale g d.slot) (codesOf 4 n src)
       let s := if enc.2.1 = 0 then s else s.bump .COL_B8_SAT [die] enc.2.1
       let s := if enc.2.2 = 0 then s else s.bump .COL_B8_NAN [die] enc.2.2
       let r := s.colRequest die g
       let x := r.2.step_ g
       let c : Contribution :=
         { step := x.step, attempt := x.attempt, reduction := d.reduction, kind := 2, blocks := enc.1.length / 64,
           segment := seg, request := r.1, count := d.weight, target := 0, crc := crc32c enc.1, data := enc.1 }
       let s := (r.2.bump .COL_SENT [die]).tallySent die g (tallyItem g r.2.devnum c)
       if dest = s.devnum then ((s.takeContribution die g dest die c).1, true)
       else
         let s := s.modCol fun x => { x with sent := tset x.sent (reqKey die g r.1) { dest := dest, msg := c } }
         (s.sendContribution die g dest c, true)
     | (s, _, _) => (s, false))
  | (s, _, _) => (s, false)

/-- Sends the segments of a list in order, until a read of the source or the owner map fails. -/
def State.sendSegments (s : State) (die g : Nat) (d : RedDesc) : List Nat → State
  | [] => s
  | seg :: t =>
    match s.sendSegment die g d seg with
    | (s, true) => s.sendSegments die g d t
    | (s, false) => s.stepFault g

/-- A reduction's contribution may be sent: its step runs, it has not been sent, and its ready wait is satisfied. -/
def State.mayContribute (s : State) (die g r : Nat) : Option RedDesc :=
  match s.redDesc die g r with
  | some d =>
    let ready := match (parseEntry d.ready).2 with
      | some w => s.waitOk [] w
      | none => true
    if d.contribute && (s.step_ g).st == .running && !(s.reduction (redKey die g r)).sent && ready then some d else none
  | none => none

/-- The engine sends a reduction's contributions. -/
def State.contribute (s : State) (die g r : Nat) : State :=
  match s.mayContribute die g r with
  | some d =>
    (s.modRed (redKey die g r) fun x => { x with sent := true }).sendSegments die g d (List.range d.segments)
  | none => s

/-- The engine starts a reduction's contributions. -/
def execContributionSend (die grove reduction : Nat) (s : State) : Host.Outcome State Fault Refusal :=
  .next (s.onDie fun s => s.contribute die grove reduction)

/-- A contribution of a die of the grove may be sent and is not. -/
def State.unsent (s : State) (g : Nat) : Bool :=
  s.col.reductions.any fun p => p.1 / 4096 % 16 == g && (s.mayContribute (p.1 / 65536) g (p.1 % 4096)).isSome

/-! ## Partial messages (R476) -/

/-- A message has not been completed within 10 µs: what has arrived of it is discarded and counted.
Assumption: 65 (DEDUCED). -/
def State.partialTimeout (s : State) (p vc dl : Nat) : State :=
  let same := fun (f : LFlit) => f.vc == vc && b2n f.dl == dl
  if (s.port p).rx.any same then
    (s.modPort p fun q => { q with rx := q.rx.filter fun f => !same f }).bump .COL_PARTIAL [dieOfPort p]
  else s

/-- A partial message's timeout. -/
def execPartialMessageTimeout (port vc dl : Nat) (s : State) : Host.Outcome State Fault Refusal :=
  .next (s.onDie fun s => s.partialTimeout port vc dl)

/-- The open of a step takes the loads and drops that wait (R469), and starts every reduction anew. -/
def State.openReductions (s : State) (g : Nat) : State :=
  let take := fun (k : Nat) (r : Reduction) =>
    if k / 4096 % 16 = g then ({ desc := r.staged.getD r.desc } : Reduction) else r
  s.modCol fun x => { x with reductions := (tmap x.reductions take).filter fun p => p.2.holds }

/-- A replay starts every reduction anew (R477). -/
def State.restartReductions (s : State) (g : Nat) : State :=
  let again := fun (k : Nat) (r : Reduction) =>
    if k / 4096 % 16 = g then { r with closed := false, sent := false } else r
  s.modCol fun x => { x with reductions := tmap x.reductions again }

/-- Discards what the collective engines hold of a grove (R492): descriptors, answers awaited, tallies. -/
def State.dropCollect (s : State) (g : Nat) : State :=
  let mine := fun k => k % 16 == g
  let of32 := fun k => k / 2 ^ 32 % 16 == g
  s.modCol fun x => { x with
    reductions := x.reductions.filter fun p => p.1 / 4096 % 16 != g
    nextRequest := x.nextRequest.filter fun p => !mine p.1
    sent := x.sent.filter fun p => !of32 p.1
    pieces := x.pieces.filter fun p => !of32 p.1
    applied := x.applied.filter fun p => !mine p.1
    received := x.received.filter fun p => p.1 / 4096 % 16 != g
    tally := x.tally.filter fun p => !mine p.1 }

end Sys2Proof.Machine
end

