-- ==== Sys2Proof/Machine/Steps.lean ====
section
/-! DEFINITION. The step of a grove (R34): the open record, VOID, the commit round and the void barrier (ch. 15). -/
namespace Sys2Proof.Machine

/-! ## VOID (R34, R488) -/

/-- Sends a VOID to this device's children in its origin's tree. Assumption: 62 (DEDUCED). -/
def State.forwardVoid (s : State) (g : Nat) (v : VoidMsg) : State :=
  s.each (treeChildren (s.members g) v.origin s.devnum) fun s child =>
    s.sendMsg 0 true child 0x02 g (mfield 6 v.step ++ mfield 1 v.attempt ++ mfield 2 v.origin ++ mfield 1 v.reason)

/-- Attempts of one step (R537, R550). Assumption: 63 (DEDUCED). -/
def State.maxAttempts (s : State) : Nat := max 1 (s.regFld .WCH_REPLAY_CFG [] 8 4)

/-- The step of a grove becomes VOIDED: each die writes its tally record, the smoke heat rises, and where the attempt
was the last, each die records it and acknowledges into no barrier (R34, R491, R537, R540). Assumption: 63 (DEDUCED). -/
def State.voidStep (s : State) (g : Nat) (v : VoidMsg) : State :=
  let s := (s.writeTallies g true).addHeat 64 g
  let a := (s.step_ g).attempt
  let last := a + 1 ≥ s.maxAttempts
  let s := if last then s.each [0, 1] fun s die => s.record .wch .contained die 0x03 (some g) 0 else s
  s.modStep g fun x => { x with
    st := .voided, voidMsg := some v, merged := false, reported := false, sentReport := none
    origins := if x.origins.contains v.origin then x.origins else x.origins ++ [v.origin]
    withhold := x.withhold || last }

/-- This device originates a VOID of the grove's step, for a reason of R488. -/
def State.originateVoid (s : State) (g reason : Nat) : State :=
  let x := s.step_ g
  let v : VoidMsg := { step := x.step, attempt := x.attempt, origin := s.devnum, reason := reason }
  (s.forwardVoid g v).voidStep g v

/-- The step of a VOID is one the grove has committed (R34). Assumption: 62 (DEDUCED). -/
def GroveStep.past (x : GroveStep) (step : Nat) : Bool :=
  serialAfter x.step step 48 || (x.step == step && (x.st == .closed || x.st == .committed))

/-- A VOID arrives (R34, R488): dropped for a committed step, held for a later one, else passed on where its origin is
new, and the step voided. One for an attempt that this device has yet to start is held for it; one for an attempt that a
replay has followed is passed on and voids nothing. Assumption: 62 (DEDUCED). -/
def State.voidReceive (s : State) (o : Origin) (v : VoidMsg) : State :=
  let g := o.grove
  if !s.groveIs g o.gen then s.dropStale 0 o true
  else
    let s := s.bump .COL_VOID_RX [0]
    let x := s.step_ g
    if x.past v.step then s.colRecord .contained 0 0x0D g 0 0 v.origin
    else
      let later := v.step ≠ x.step || (x.st == .voided && serialAfter v.attempt x.attempt 8)
      if later then
        (if x.heldVoids.any fun w => w.step == v.step && w.attempt == v.attempt && w.origin == v.origin then s
         else (s.modStep g fun x => { x with heldVoids := x.heldVoids ++ [v] }).forwardVoid g v)
      else if serialAfter x.attempt v.attempt 8 then s.forwardVoid g v
      else
        let s := if x.origins.contains v.origin then s
          else (s.modStep g fun x => { x with origins := x.origins ++ [v.origin] }).forwardVoid g v
        if x.st == .running || x.st == .sealed then s.voidStep g v else s

/-- A VOID arrives. -/
def execVoidReceive (o : Origin) (v : VoidMsg) (s : State) : Host.Outcome State Fault Refusal :=
  .next (s.onDie fun s => s.voidReceive o v)

/-- STEP_VOID (R493). -/
def State.stepVoid (s : State) (q i : Nat) : State :=
  match s.ofRow q i 4 4 with
  | none => s
  | some c =>
    let s := s.start q i
    let g := c.grove
    let n := c.arg 8 8
    let x := s.step_ g
    let bad := dieOfQueue q ≠ 0 || !c.restZero [(8, 8)] || n ≥ 2 ^ 48 || x.step ≠ n || !(x.st == .running || x.st == .sealed)
    if bad then s.refuseCol q i 0x01 g 0 else (s.originateVoid g 3).complete q i .ok 0

/-- The STEP_VOID command. -/
def execStepVoid (queue index : Nat) (s : State) : Host.Outcome State Fault Refusal :=
  .next (s.onDie fun s => s.stepVoid queue index)

/-- The commit timeout of a sealed step expires (R34). Assumption: 88 (DEDUCED). -/
def State.commitTimeout (s : State) (g : Nat) : State :=
  if (s.step_ g).st == .sealed then (s.colRecord .contained 0 0x0E g 0 0 0).originateVoid g 2 else s

/-- A commit timeout. -/
def execCommitTimeout (grove : Nat) (s : State) : Host.Outcome State Fault Refusal :=
  .next (s.onDie fun s => s.commitTimeout grove)

/-- Discards what a voided attempt leaves (R538): buffers, staging, merge entries, commands, histograms, tasks and
checks; knots and flows return to their shadows. -/
def State.quiesce (s : State) (g : Nat) : State :=
  let n := (s.step_ g).step
  let s := s.each (s.ownedReds 0 g ++ s.ownedReds 1 g) fun s d => s.zeroBuffer g d n
  let s := (((s.voidUpdate g n).voidGather g n).voidEmb g n).voidSampler g
  let s := ((s.clearHists g).voidInjects g n).rewindSched g n
  (s.dropChecks fun p => p.grove == g && !p.unstepped && p.step == n).modStep g fun x => { x with merged := true }

/-- The void-barrier timeout expires (R34): a record, and the step ends; the last committed step is the one before.
Assumption: 63 (DEDUCED). -/
def State.barrierTimeout (s : State) (g : Nat) : State :=
  let x := s.step_ g
  if x.st == .voided then
    let s := s.colRecord .contained 0 0x0F g 0 0 0
    let s := if x.merged then s else s.quiesce g
    s.modStep g fun x => { x with st := .closed, step := stepPred x.step, attempt := 0, record := none }
  else s

/-- A void-barrier timeout. -/
def execVoidBarrierTimeout (grove : Nat) (s : State) : Host.Outcome State Fault Refusal :=
  .next (s.onDie fun s => s.barrierTimeout grove)

/-! ## The open (R466, R467) -/

/-- The open record 512 bytes spell, and whether its reserved fields are zero. -/
def parseOpen (b : List Byte) : Bool × OpenRecord :=
  let r : OpenRecord :=
    { step := leAt b 0 6, cursor := leAt b 8 8, grove := leAt b 0x10 1 % 16, gen := leAt b 0x12 2,
      headroom := (List.range 256).map fun i => leAt b (0x20 + i / 4) 1 / 4 ^ (i % 4) % 4,
      scale := (b.drop 0x60).take 256 }
  (leAt b 6 2 == 0 && leAt b 0x10 1 < 16 && zeroAt b 0x11 1 && zeroAt b 0x14 12 && zeroAt b 0x160 160, r)

/-- An attempt of a step starts on this device: its twig lanes start and full reductions close, or a VOID held for it
voids it at once, before it has sent anything. -/
def State.startAttempt (s : State) (g : Nat) : State :=
  let x := s.step_ g
  let mine := fun (v : VoidMsg) => v.step == x.step && (v.attempt == x.attempt || x.attempt == 0)
  let held := x.heldVoids.filter mine
  let s := s.modStep g fun x => { x with heldVoids := x.heldVoids.filter fun v => !mine v, origins := held.map (·.origin) }
  match held with
  | v :: _ => (s.takeEarly g).voidStep g v
  | [] => (((s.takeEarly g).runSampler g).closeFull g).judge

/-- A report is of the present attempt of a step, or of a later one. -/
def reportCurrent (r : Report) (step attempt : Nat) : Bool :=
  serialAfter r.step step 48 || (r.step == step && (r.attempt == attempt || serialAfter r.attempt attempt 8))

/-- The step of a record opens on both dies. -/
def State.beginStep (s : State) (g : Nat) (r : OpenRecord) : State :=
  let n := r.step
  let s := s.modStep g fun x => { x with
    st := .running, step := n, attempt := 0, record := some r, merged := false, reported := false, sentReport := none,
    voidMsg := none, faulted := false, reports := x.reports.filter fun p => reportCurrent p.2 n 0 }
  let s := (((s.openReductions g).openShadows g).clearHists g).openSampler g n
  let s := (((s.openGather g n).openEmb g n).openUpdate g).clearMerge g
  s.startAttempt g

/-- Opens the step of a STEP_OPEN command that is not held. -/
def State.openStep (s : State) (q i : Nat) (c : Cmd) : State :=
  let g := c.grove
  match s.readLocal .hearth (c.arg 8 8) 512 with
  | (s, .ok, b) =>
    let p := parseOpen b
    let r := p.2
    let x := s.step_ g
    if !p.1 || r.grove ≠ g || r.gen ≠ c.gen then s.refuseCol q i 0x02 g 0
    else if x.st != .closed || x.restorePending || r.step ≠ stepSucc x.step then s.refuseCol q i 0x04 g 0
    else if x.delivered.isSome && x.delivered != some r.scale then s.refuseCol q i 0x05 g 0
    else (s.beginStep g r).complete q i .ok r.step
  | (s, _, _) => s.complete q i .fault 0

/-- STEP_OPEN: held while a firing of the grove captures (R566). -/
def State.stepOpen (s : State) (q i : Nat) : State :=
  match s.ofRow q i 4 3 with
  | none => s
  | some c =>
    let s := s.start q i
    let off := c.arg 8 8
    if dieOfQueue q ≠ 0 || !c.restZero [(8, 8)] || off % 64 ≠ 0 || !inHalf 0 off 512 then s.refuseCol q i 0x01 c.grove 0
    else if s.capturing c.grove then s.modCol fun x => { x with heldOpens := x.heldOpens ++ [(q, i)] }
    else s.openStep q i c

/-- The STEP_OPEN command. -/
def execStepOpen (queue index : Nat) (s : State) : Host.Outcome State Fault Refusal :=
  .next (s.onDie fun s => s.stepOpen queue index)

/-- Takes up the held opens whose grove no longer captures, in their order. Assumption: 62 (DEDUCED). -/
def State.retryOpens (s : State) : State :=
  let l := s.col.heldOpens
  let s := s.modCol fun x => { x with heldOpens := [] }
  s.each l fun s p =>
    match s.cmd p.1 p.2 with
    | some c =>
      if s.capturing c.grove then s.modCol fun x => { x with heldOpens := x.heldOpens ++ [p] } else s.openStep p.1 p.2 c
    | none => s

/-! ## Release, commit and replay (R485, R489) -/

/-- The staged directory changes are applied, or held, once the writes of the commit are done (R29, R266).
Assumption: 68 (DEDUCED). -/
def State.applyFlips (s : State) (g : Nat) : State :=
  let x := s.step_ g
  match x.stageApply with
  | some (apply, mismatch) =>
    if x.st == .committed && s.updateDone g then
      (s.applyStaged g x.step apply mismatch).modStep g fun x => { x with stageApply := none }
    else s
  | none => s

/-- What a commit changes in the watch block: SUSPECT tiles are NORMAL again, and the grove's heat decays (R535, R540,
R551). -/
def State.watchCommit (s : State) (g : Nat) : State :=
  let shift := max 1 (s.regFld .WCH_SMOKE_CFG [] 0 4)
  let heat := tgetD s.wch.heat g 0
  let mine := fun t (w : TileWatch) => w.st == .suspect && s.tileOwner t == some g
  { s with wch := { s.wch with
      heat := tset s.wch.heat g (heat - heat / 2 ^ shift)
      tiles := tmap s.wch.tiles fun t w =>
        if mine t w then { w with st := .normal, histStep := 0, histAttempt := 0 } else w } }

/-- Whether the commit's held staged set is known to differ among the members: the root's report says so; another
member's report may, and where it does not the release leaves it open (R266, R485). Assumption: 54 (DESIGN CHOICE). -/
def State.stageMismatch (s : State) (g : Nat) : Bool × State :=
  match (s.step_ g).sentReport with
  | some r =>
    let root := (s.members g).head? == some s.devnum
    if root || r.mismatch then (r.mismatch, s) else (Config.freeBool s.fresh.1, s.fresh.2)
  | none => (Config.freeBool s.fresh.1, s.fresh.2)

/-- SEALED becomes COMMITTED: the exponents are delivered, both dies write, and what is staged applies. -/
def State.commitStep (s : State) (g : Nat) (r : Release) : State :=
  let n := (s.step_ g).step
  let m := if r.stageApply then (false, s) else s.stageMismatch g
  let s := (m.2.writeTallies g false).modStep g fun x => { x with
    st := .committed, delivered := some r.exponents, stageApply := some (r.stageApply, m.1) }
  let s := (((s.commitSampler g).expectPieces g n).watchCommit g)
  (((s.commitUpdate 0 g).commitUpdate 1 g).applyFlips g).judge

/-- VOIDED becomes RUNNING under the next attempt number, from the same open record (R34, R472). -/
def State.replayStep (s : State) (g : Nat) : State :=
  let n := (s.step_ g).step
  -- contributions admitted after this device acknowledged do not reach the replay (R35)
  let s := s.each (s.ownedReds 0 g ++ s.ownedReds 1 g) fun s d => s.zeroBuffer g d n
  let s := s.modStep g fun x => { x with
    st := .running, attempt := (x.attempt + 1) % 256, merged := false, reported := false, sentReport := none,
    voidMsg := none, faulted := false,
    reports := x.reports.filter fun p => reportCurrent p.2 n ((x.attempt + 1) % 256) }
  (((s.restartReductions g).clearMerge g).bump .WCH_REPLAYS []).startAttempt g

/-- Sends a release down the commit tree. -/
def State.forwardRelease (s : State) (g : Nat) (r : Release) : State :=
  let l := s.members g
  let payload := mfield 6 r.step ++ mfield 1 r.attempt ++ mfield 1 2 ++ mfield 1 (b2n (!r.commit)) ++
    (if r.commit then mfield 1 (b2n r.stageApply) ++ r.exponents else [])
  s.each (treeChildren l (l.headD 0) s.devnum) fun s child => s.sendMsg 0 true child 0x03 g payload

/-- A device passes a release on and acts on it; a release that does not fit the present step and attempt is
ignored. -/
def State.takeRelease (s : State) (g : Nat) (r : Release) : State :=
  let x := s.step_ g
  if r.step ≠ x.step then s
  else if r.commit then
    (if x.st == .sealed && r.attempt = x.attempt then (s.forwardRelease g r).commitStep g r else s)
  else if x.st == .voided && r.attempt = (x.attempt + 1) % 256 then (s.forwardRelease g r).replayStep g
  else s

/-- A release arrives. -/
def State.releaseReceive (s : State) (o : Origin) (r : Release) : State :=
  if !s.groveIs o.grove o.gen then s.dropStale 0 o true else s.takeRelease o.grove r

/-- A release arrives. -/
def execCommitRelease (o : Origin) (r : Release) (s : State) : Host.Outcome State Fault Refusal :=
  .next (s.onDie fun s => s.releaseReceive o r)

/-! ## Reports (R483, R484) -/

/-- The children of this device in the commit tree. -/
def State.commitChildren (s : State) (g : Nat) : List Nat :=
  let l := s.members g
  treeChildren l (l.headD 0) s.devnum

/-- The reports of a kind that the children have sent for the present attempt. -/
def State.childReports (s : State) (g kind : Nat) : List Report :=
  let x := s.step_ g
  (s.commitChildren g).filterMap fun d =>
    (x.reports.find? fun p => p.1 == d && p.2.kind == kind && p.2.step == x.step && p.2.attempt == x.attempt).map (·.2)

/-- This device's report with its children's merged in. -/
def State.mergedReport (s : State) (g kind : Nat) : Report :=
  let x := s.step_ g
  let l := s.staged g
  let cs := s.childReports g kind
  { step := x.step, attempt := x.attempt, kind := kind,
    ready := s.stageReady g && cs.all (·.ready),
    mismatch := cs.any fun c => c.mismatch || c.stageCount ≠ l.length || c.stageDigest ≠ stageDigest l,
    members := 1 + (cs.map (·.members)).foldl (· + ·) 0, stageCount := l.length, stageDigest := stageDigest l }

/-- The words of a stream in the merge area. -/
def mergeWord (area : List Byte) (stream i : Nat) : Nat := leAt area (mergeStream * stream + 8 * i) 4

/-- A stream of the merge area is not all zero. -/
def streamUsed (area : List Byte) (stream : Nat) : Bool := !zeroAt area (mergeStream * stream) 536

/-- The merge area's bytes; zeros where the grove has none. -/
def State.mergeBytes (s : State) (g : Nat) : List Byte :=
  match s.mergeArea g with
  | some o => s.peek o (256 * mergeStream)
  | none => []

/-- The record of a merged histogram (R188). -/
def histRecord (g step stream : Nat) (area : List Byte) : List Byte :=
  let w := mergeWord area stream
  toLe 1 stream ++ toLe 1 g ++ toLe 1 (1 + 2 * b2n (w 66 ≠ 0)) ++ toLe 5 0 ++ toLe 8 step ++
    ((List.range 66).flatMap fun i => toLe 4 (w i)) ++ toLe 8 0

/-- The exponents of the next step (R187), from the merged histograms and the open record.
Assumption: 64 (DESIGN CHOICE). -/
def State.nextExponents (s : State) (g : Nat) (area : List Byte) : List Byte :=
  let r := (s.step_ g).record
  let scale := (r.map (·.scale)).getD []
  let head := (r.map (·.headroom)).getD []
  (List.range 256).map fun k =>
    let bins : Tbl Nat := ((List.range 64).map fun i => (i, mergeWord area k i)).filter fun p => p.2 != 0
    BitVec.ofInt 8 (nextScale bins (toSigned 8 (scale.getD k 0).toNat) (head.getD k 0))

/-- The root decides on a commit: the merged histograms' records are written, and the release goes out. -/
def State.decideCommit (s : State) (g : Nat) (r : Report) : State :=
  let area := s.mergeBytes g
  let v := s.getReg .COL_HIST_REC [0, g]
  let s := if v.getLsbD 63 then
      s.each ((List.range 256).filter (streamUsed area)) fun s k =>
        (s.writeLocal .hearth (wfld v 6 35 * 64 + 288 * k) (histRecord g r.step k area)).1
    else s
  s.takeRelease g { step := r.step, attempt := r.attempt, commit := true, stageApply := r.ready && !r.mismatch,
                    exponents := s.nextExponents g area }

/-- Sends this device's report up the commit tree once its children's are in; the root decides when every member is
in it (R484, R485). -/
def State.sendReport (s : State) (g kind : Nat) : State :=
  let l := s.members g
  let x := s.step_ g
  if x.reported || (s.childReports g kind).length ≠ (s.commitChildren g).length then s
  else
    let r := s.mergedReport g kind
    match treeParent l (l.headD 0) s.devnum with
    | some parent =>
      let s := s.modStep g fun x => { x with reported := true, sentReport := some r }
      s.sendMsg 0 true parent 0x03 g (mfield 6 r.step ++ mfield 1 r.attempt ++ mfield 1 kind ++
        mfield 1 (b2n r.ready + 2 * b2n r.mismatch) ++ mfield 2 r.members ++ mfield 2 r.stageCount ++
        mfield 8 r.stageDigest)
    | none =>
      if r.members ≠ l.length then s
      else
        let s := s.modStep g fun x => { x with reported := true, sentReport := some r }
        if kind = 0 then s.decideCommit g r
        else s.takeRelease g { step := r.step, attempt := (r.attempt + 1) % 256, commit := false, stageApply := false,
                               exponents := [] }

/-- Words of a grove's histogram of a stream on a die (R484): bins, zero, NaN, overflow. -/
def State.histWords (s : State) (die g stream : Nat) : List Nat :=
  let h := tgetD s.num.hists (histKey die g stream) {}
  (List.range 66).map (fun i => tgetD h.bins i 0) ++ [b2n h.overflow]

/-- The device merges its histograms into its merge area, and sends the streams that are not zero to its parent
(R484). A stream goes as one message of 72 values, zeros outside its own 67 words; the last stream's starts four words
before it, so that none lies outside the area. Assumption: 64 (DESIGN CHOICE). -/
def State.mergeHists (s : State) (g : Nat) : State :=
  let s := s.modStep g fun x => { x with merged := true }
  match s.mergeArea g with
  | none => s
  | some o =>
    let used := fun die => (s.num.hists.filter fun p => p.1 / 256 == 16 * die + g).map fun p => p.1 % 256
    let s := s.each [0, 1] fun s die => s.each (used die) fun s k =>
      (s.mergeWords g (o + mergeStream * k) (s.histWords die g k)).1
    let l := s.members g
    match treeParent l (l.headD 0) s.devnum with
    | none => s
    | some parent =>
      let area := s.mergeBytes g
      s.each ((List.range 256).filter (streamUsed area)) fun s k =>
        let w0 := min (68 * k) (68 * 256 - 72)
        let values := (List.range 72).map fun i =>
          if 68 * k ≤ w0 + i && w0 + i < 68 * k + 67 then leAt area (8 * (w0 + i)) 4 else 0
        let data := values.flatMap (toLe 4)
        let r := s.colRequest 0 g
        let x := r.2.step_ g
        let c : Contribution :=
          { step := x.step, attempt := x.attempt, reduction := 0, kind := 3, blocks := 9, segment := 0, request := r.1,
            count := 0, target := o + 8 * w0, crc := crc32c data, data := data }
        let s := r.2.modCol fun x => { x with sent := tset x.sent (reqKey 0 g r.1) { dest := parent, msg := c } }
        (s.bump .COL_SENT [0]).sendContribution 0 g parent c

/-- The device's step may be sealed (R34): its tasks are done, their checks passed, its owned reductions closed, no
contribution unsent or unanswered, nothing left in the merge buffers, no programme running, and no fault holds it
back. -/
def State.maySeal (s : State) (g : Nat) : Bool :=
  let x := s.step_ g
  let mine := fun (t : Task) => t.grove == g && !t.unstepped && t.step == x.step
  x.st == .running && !x.faulted && !(s.sch.slots.any fun p => mine p.2.task) &&
    !(s.sch.injects.any fun p => p.tasks.any mine) && !s.checksPend g x.step &&
    (s.til.reports.all fun p => !(p.grove == g && !p.unstepped && p.step == x.step)) &&
    ([0, 1].all fun die => (s.ownedReds die g).all fun d => (s.reduction (redKey die g d.reduction)).closed) &&
    !s.unsent g && !s.sentOpen g && ([0, 1].all fun die => !s.gatherBusy die g && !s.samplerBusy die g && !s.schFaulted die g)

/-- A sealed device whose children have reported merges its histograms, and reports once they are acknowledged.
Assumption: 42 (DEDUCED). -/
def State.tryClean (s : State) (g : Nat) : State :=
  let x := s.step_ g
  if x.st != .sealed || x.reported || x.faulted || (s.childReports g 0).length ≠ (s.commitChildren g).length then s
  else
    let s := if x.merged then s else s.mergeHists g
    if s.sentOpen g || (s.step_ g).faulted then s else s.sendReport g 0

/-- The device seals its step when it may, and goes on with its clean report. -/
def State.cleanReport (s : State) (g : Nat) : State :=
  let s := if s.maySeal g then s.modStep g fun x => { x with st := .sealed, merged := false, reported := false } else s
  s.tryClean g

/-- A clean report is due. -/
def execCleanReportSend (grove : Nat) (s : State) : Host.Outcome State Fault Refusal :=
  .next (s.onDie fun s => s.cleanReport grove)

/-- The traffic of a voided step has quiesced on this device, and nothing withholds its acknowledgement (R34, R143,
R473, R482, R534, R537). Assumption: 42 (DEDUCED). -/
def State.mayAckVoid (s : State) (g : Nat) : Bool :=
  let x := s.step_ g
  x.st == .voided && !x.withhold && !s.sentOpen g && !s.accsOpen g && !s.piecesOpen g &&
    !s.schFaulted 0 g && !s.schFaulted 1 g &&
    !(s.wch.tiles.any fun p => p.2.recompute != 0 && s.tileOwner p.1 == some g)

/-- A quiesced device discards the attempt and acknowledges into the void barrier. -/
def State.voidAck (s : State) (g : Nat) : State :=
  if s.mayAckVoid g then (if (s.step_ g).merged then s else s.quiesce g).sendReport g 1 else s

/-- A void acknowledgement is due. -/
def execVoidAckSend (grove : Nat) (s : State) : Host.Outcome State Fault Refusal :=
  .next (s.onDie fun s => s.voidAck grove)

/-- A report arrives (R484, R486, R489): one of a step or attempt that is past is ignored. -/
def State.reportReceive (s : State) (o : Origin) (r : Report) : State :=
  let g := o.grove
  if !s.groveIs g o.gen then s.dropStale 0 o true
  else
    let x := s.step_ g
    if r.kind = 0 && x.st == .voided && r.step = x.step then
      (match x.voidMsg with
       | some v => s.sendMsg 0 true o.device 0x02 g
         (mfield 6 v.step ++ mfield 1 v.attempt ++ mfield 2 v.origin ++ mfield 1 v.reason)
       | none => s)
    else if x.past r.step || !reportCurrent r x.step x.attempt then s
    else
      let s := s.modStep g fun x => { x with
        reports := (x.reports.filter fun p => !(p.1 == o.device && p.2.kind == r.kind && p.2.step == r.step &&
          p.2.attempt == r.attempt)) ++ [(o.device, r)] }
      if r.kind = 0 then s.tryClean g
      else if (s.step_ g).merged && s.mayAckVoid g then s.sendReport g 1
      else s

/-- A commit round report arrives. -/
def execCommitReportReceive (o : Origin) (r : Report) (s : State) : Host.Outcome State Fault Refusal :=
  .next (s.onDie fun s => s.reportReceive o r)

/-- The writes, broadcast, refreshes and flips of a commit are done: the Kiln fires if asked to, and the step is CLOSED
(R34, R565). Reads that waited for the close are served (R260). -/
def State.commitComplete (s : State) (g : Nat) : State :=
  let s := s.applyFlips g
  let x := s.step_ g
  if x.st == .committed && s.updateDone g && !s.updateFaulted g && !s.piecesOpen g && s.refreshesDone g &&
      x.stageApply.isNone then
    ((s.commitFires g x.step).modStep g fun x => { x with st := .closed }).retryReads fun h => h.origin.grove == g
  else s

/-- A commit is complete. -/
def execStepCommitComplete (grove : Nat) (s : State) : Host.Outcome State Fault Refusal :=
  .next (s.onDie fun s => s.commitComplete grove)

end Sys2Proof.Machine
end

