-- ==== Sys2Proof/Machine/Watch.lean ====
section
/-! DEFINITION. The watch block (ch. 17): mismatch reports, block recompute, tile exclusion, field tests, and the log's
registers. -/
namespace Sys2Proof.Machine

/-- What the watch block keeps of a tile. -/
def State.watchTile (s : State) (t : Nat) : TileWatch := tgetD s.wch.tiles t {}

/-- The state with a tile's watch state changed. -/
def State.modTile (s : State) (t : Nat) (f : TileWatch → TileWatch) : State :=
  { s with wch := { s.wch with tiles := tmod s.wch.tiles t {} f } }

/-- The state with the running field tests changed. -/
def State.modTests (s : State) (f : List FieldTest → List FieldTest) : State :=
  { s with wch := { s.wch with tests := f s.wch.tests } }

/-! ## Exclusion (R535, R536) -/

/-- Step 1 of R536: the tile is excluded, its task store and held completions go, and it is recorded, counted and
adds its heat; what waited behind them goes on (R129, R133). Assumption: 44 (DESIGN CHOICE). -/
def State.excludeTile (s : State) (t : Nat) : State :=
  let s := s.modTile t fun w => { w with excluded := true, tested := false, cleared := false, lastPass := false,
                                         histStep := 0, histAttempt := 0 }
  let s := (s.discardTile t).record .wch .contained (dieOfTile t) 0x02 (s.tileOwner t) t
  let s := (s.bump .WCH_EXCLUDED []).heatOn 2048 (s.tileOwner t).toList
  s.unstall.judge

/-- The block recompute of a tile ends with a class of R534. -/
def State.recomputeEnds (s : State) (t cls : Nat) : State :=
  let s := s.modTile t fun w => { w with cls := cls, recompute := w.recompute - 1 }
  let s := s.record .wch .corrected (dieOfTile t) 0x01 (s.tileOwner t) (t + cls * 2 ^ 8)
  if cls = 2 then (s.bump .WCH_RECOMPUTE_FAIL []).heatOn 1024 (s.tileOwner t).toList else s

/-- A block recompute starts, or is skipped at once where WCH_REPLAY_CFG switches it off.
Assumption: 69 (DESIGN CHOICE). -/
def State.startRecompute (s : State) (t : Nat) : State :=
  let s := s.modTile t fun w => { w with recompute := w.recompute + 1 }
  if s.regFld .WCH_REPLAY_CFG [] 0 1 = 0 then s.recomputeEnds t 3 else s

/-- A recompute of a tile ends; one that was not running does not. Assumption: 69 (DESIGN CHOICE). -/
def State.recomputeDone (s : State) (t cls : Nat) : State :=
  if (s.watchTile t).recompute = 0 then s else s.recomputeEnds t cls

/-- A recompute ends. -/
def execRecomputeDone (tile cls : Nat) (s : State) : Host.Outcome State Fault Refusal :=
  .next (s.onDie fun s => s.recomputeDone tile cls)

/-- The watch state of a tile follows a mismatch of one of its passes (R535, R536). -/
def State.tileMismatch (s : State) (p : AbftPass) : State :=
  let w := s.watchTile p.tile
  let s := s.modTile p.tile fun w => { w with lastStep := p.step, lastAttempt := p.attempt }
  if w.st == .excluded || w.st == .testing then s
  else if p.unstepped then s.startRecompute p.tile
  else if w.st == .suspect && w.histStep = p.step && w.histAttempt ≠ p.attempt then
    ((s.excludeTile p.tile).modTile p.tile fun w => { w with st := .testing }).modTests
      (· ++ [{ die := dieOfTile p.tile, kind := 6, object := p.tile, owner := none }])
  else
    (s.modTile p.tile fun w => { w with st := .suspect, histStep := p.step, histAttempt := p.attempt }).startRecompute p.tile

/-- The oldest mismatch report of a tile reaches its watch block (R306, R531, R534 to R536): recorded, counted, and a
stepped task's running step is voided. -/
def State.mismatchReport (s : State) (tile : Nat) : State :=
  match s.til.reports.find? (·.tile == tile) with
  | none => s
  | some p =>
    let rest := (s.til.reports.takeWhile (·.tile != tile)) ++ (s.til.reports.dropWhile (·.tile != tile)).drop 1
    let s := { s with til := { s.til with reports := rest } }
    let ix := fun (x : Option AbftCheck) => (x.map (·.index)).getD 0
    let r := p.lowest true
    let c := p.lowest false
    let s := (s.abftWhere p).putReg .TIL_FAULT_LAST [tile] (BitVec.ofNat 64 (0x09 * 2 ^ 56 + p.grove * 2 ^ 52 + p.slot * 2 ^ 42))
    let s := s.record .til .contained (dieOfTile tile) 0x09 (some p.grove)
      (tile + p.slot * 2 ^ 7 + ix r * 2 ^ 17 + ix c * 2 ^ 33 + b2n r.isSome * 2 ^ 47 + b2n c.isSome * 2 ^ 48)
    let s := ((s.bump .WCH_MISMATCH []).heatOn 256 (s.tileOwner tile).toList).tileMismatch p
    let x := s.step_ p.grove
    if !p.unstepped && s.groveIs p.grove p.gen && x.st == .running && x.step = p.step && x.attempt = p.attempt then
      (s.bump .WCH_VOID_SENT []).originateVoid p.grove 1
    else s

/-- A mismatch report. -/
def execAbftMismatchReport (tile : Nat) (s : State) : Host.Outcome State Fault Refusal :=
  .next (s.onDie fun s => s.mismatchReport tile)

/-- A tile is free, or its grove's step is CLOSED. -/
def State.tileIdle (s : State) (t : Nat) : Bool :=
  match s.tileOwner t with
  | some g => (s.step_ g).st == .closed
  | none => true

/-- A field test runs on a tile. -/
def State.tileTested (s : State) (t : Nat) : Bool := s.wch.tests.any fun f => f.kind ≤ 6 && f.object == t

/-- A write of WCH_TILE_CTL (R535, R545, R556); one with both bits, or neither, is discarded. -/
def State.tileCtl (s : State) (v : Word) : State :=
  let t := wfld v 0 7
  let w := s.watchTile t
  let owner := s.tileOwner t
  if v.getLsbD 63 == v.getLsbD 62 then s
  else if v.getLsbD 62 then
    (if w.st == .excluded || w.st == .testing then s
     else if !s.tileIdle t then s.record .wch .contained (dieOfTile t) 0x0A owner 0
     else (s.excludeTile t).modTile t fun w => { w with st := .excluded })
  else if w.st == .excluded && w.cleared && !s.tileTested t && s.tileIdle t then
    s.modTile t fun w => { w with st := .normal, excluded := false }
  else s.record .wch .contained (dieOfTile t) 0x07 owner 0

/-- The exclude operation of WCH_TILE_CTL. -/
def execTileExclude (value : Word) (s : State) : Host.Outcome State Fault Refusal :=
  .next (s.unheld fun s => s.tileCtl (setFld value 62 2 1))

/-- The readmit operation of WCH_TILE_CTL. -/
def execTileReadmit (value : Word) (s : State) : Host.Outcome State Fault Refusal :=
  .next (s.unheld fun s => s.tileCtl (setFld value 62 2 2))

/-- A tile that changes grove: a SUSPECT one is NORMAL again (R535). -/
def State.watchRegrove (s : State) (t : Nat) : State :=
  if (s.watchTile t).st == .suspect then s.modTile t fun w => { w with st := .normal, histStep := 0, histAttempt := 0 }
  else s

/-! ## Field tests (R542, R543, R703) -/

/-- The die of a test's object; none where the kind has no such object. -/
def testDie (kind object : Nat) : Option Nat :=
  if kind ≤ 6 then (if object < 128 then some (dieOfTile object) else none)
  else if kind ≤ 8 then (if object < 2 then some object else none)
  else if kind = 9 then (if object < 480 then some (dieOfChannel object) else none)
  else if object < 6 || (16 ≤ object && object < 32) then some (dieOfPort object)
  else none

/-- The object of a test is in a permitted state, on a queue that may test it (R543). A hearth channel is not free: the
hearth region is in use. Assumption: 69 (DESIGN CHOICE). -/
def State.testAllowed (s : State) (q kind object : Nat) : Bool :=
  let busy := s.wch.tests.any fun f => f.object == object && (f.kind == kind || (f.kind ≤ 6 && kind ≤ 6))
  let allowed :=
    if kind ≤ 6 then
      if s.qdevice q then (s.tileOwner object).isNone || (s.watchTile object).excluded
      else (s.watchTile object).excluded && s.tileOwner object == some (s.qgrove q)
    else s.qdevice q &&
      (if kind ≤ 8 then true
       else if kind = 9 then (s.channelOwner object).isNone && !isHearthChannel object && !(s.channel object).absent &&
         !(s.mem.mapouts.any fun m => m.2.source == object || m.2.spare == object)
       else (s.port object).st == .disabled && (s.portCfg object).getLsbD 1)
  testDie kind object == some (dieOfQueue q) && allowed && !busy

/-- Ends a command of target 7 as BAD_COMMAND. -/
def State.refuseFt (s : State) (q i : Nat) : State :=
  s.badCommand q i .wch 0x05 (if s.qdevice q then none else some (s.qgrove q)) 0 0

/-- FT_RUN: the test starts and its command waits for its end. -/
def State.ftRun (s : State) (q i : Nat) : State :=
  match s.ofRow q i 7 1 with
  | none => s
  | some c =>
    let s := s.start q i
    let kind := c.arg 8 1
    let object := c.arg 0x0A 2
    if !c.restZero [(8, 1), (0x0A, 2), (0x10, 4)] || kind = 0 || kind > 10 || !s.testAllowed q kind object then s.refuseFt q i
    else s.modTests (· ++ [{ die := dieOfQueue q, kind := kind, object := object, owner := some (q, i) }])

/-- The FT_RUN command. -/
def execFtRun (queue index : Nat) (s : State) : Host.Outcome State Fault Refusal :=
  .next (s.onDie fun s => s.ftRun queue index)

/-- An aborted test ends (R536, R543, R697): its FT_RUN completes ABORTED; a tile under the test of R536 is EXCLUDED. A
struck march leaves its object to be cleared before any grove uses it: it is cleared here.
Assumption: 69 (DESIGN CHOICE). -/
def State.abortTest (s : State) (f : FieldTest) : State :=
  let s := s.modTests fun l => l.filter (· != f)
  let s := match f.owner with
    | some (q, i) => s.complete q i .aborted 0
    | none => s.modTile f.object fun w => if w.st == .testing then { w with st := .excluded } else w
  if f.kind = 4 || f.kind = 6 then s.spxClear f.object else if f.kind = 9 then s.zeroChannel f.object else s

/-- Aborts the tests that `p` names. -/
def State.abortTests (s : State) (p : FieldTest → Bool) : State :=
  s.each (s.wch.tests.filter p) fun s f => s.abortTest f

/-- FT_ABORT: ends the running FT_RUN of its queue with the tag it names. -/
def State.ftAbort (s : State) (q i : Nat) : State :=
  match s.ofRow q i 7 2 with
  | none => s
  | some c =>
    let s := s.start q i
    let tag := c.arg 8 2
    let mine := fun (f : FieldTest) => match f.owner with
      | some (p, j) => p == q && ((s.cmd q j).map (·.tag)) == some tag
      | none => false
    if !c.restZero [(8, 2)] then s.refuseFt q i
    else
      match s.wch.tests.find? mine with
      | some f => (s.abortTest f).complete q i .ok 0
      | none => s.refuseFt q i

/-- The FT_ABORT command. -/
def execFtAbort (queue index : Nat) (s : State) : Host.Outcome State Fault Refusal :=
  .next (s.onDie fun s => s.ftAbort queue index)

/-- The groves a test's object concerns (R540). -/
def State.testGroves (s : State) (kind object : Nat) : List Nat :=
  if kind ≤ 6 then (s.tileOwner object).toList
  else if kind = 9 then (s.channelOwner object).toList
  else if kind = 10 then s.groveUsing object
  else []

/-- A field test ends with its result (R543, R703). -/
def State.ftDone (s : State) (die kind object : Nat) (r : FtResult) : State :=
  match s.wch.tests.find? fun f => f.die == die && f.kind == kind && f.object == object with
  | none => s
  | some f =>
    let pass := r == .pass
    let result := match r with
      | .pass => 1
      | .fail sub item => sub % 256 * 2 ^ 8 + item % 2 ^ 32 * 2 ^ 32
    let s := (s.modTests fun l => l.filter (· != f)).bump .WCH_FT_RUN []
    let s := if kind = 4 || kind = 6 then s.spxClear object else if kind = 9 then s.zeroChannel object else s
    let s := if kind ≤ 6 then s.modTile object fun w => { w with
        lastPass := pass, tested := w.tested || pass, cleared := w.cleared || (pass && (kind == 1 || kind == 6)),
        st := if w.st == .testing && f.owner.isNone then .excluded else w.st }
      else s
    let gs := s.testGroves kind object
    let s := if pass then s
      else ((s.bump .WCH_FT_FAIL []).record .wch .deferred die 0x04 gs.head? (kind + object % 2 ^ 16 * 2 ^ 8)).heatOn 4096 gs
    match f.owner with
    | some (q, i) => s.complete q i .ok result
    | none => s

/-- A field test ends. -/
def execFtDone (die kind object : Nat) (result : FtResult) (s : State) : Host.Outcome State Fault Refusal :=
  .next (s.onDie fun s => s.ftDone die kind object result)

/-! ## The log's registers (R533, R547, R548) -/

/-- A write of WCH_LOG_TAIL: stored or discarded; with space back, the records dropped are logged as one. -/
def State.writeTail (s : State) (v : Word) : State :=
  let head := s.regFld .WCH_LOG_HEAD [] 0 32
  if subMod 32 head (wfld v 0 32) > 1024 then s
  else
    let s := s.softWrite .WCH_LOG_TAIL [] v
    if s.wch.droppedSince ≠ 0 && subMod 32 head (wfld v 0 32) < 1024 then
      let n := s.wch.droppedSince
      { s with wch := { s.wch with droppedSince := 0 } }.record .wch .deferred 2 0x08 none (n % 2 ^ 32)
    else s

/-- A write of WCH_LOG_TAIL. -/
def execWchLogTailWrite (value : Word) (s : State) : Host.Outcome State Fault Refusal := .next (s.unheld fun s => s.writeTail value)

/-- A write of WCH_LOG_STATE: 1 to lost clears lost and worst_lost. -/
def State.writeLogState (s : State) (v : Word) : State :=
  if v.getLsbD 0 then s.putReg .WCH_LOG_STATE [] 0 else s

/-- A write of WCH_LOG_STATE. -/
def execWchLogStateWrite (value : Word) (s : State) : Host.Outcome State Fault Refusal := .next (s.unheld fun s => s.writeLogState value)

/-- WCH_TILE of a tile (R555). -/
def State.watchWord (s : State) (t : Nat) : Word :=
  let w := s.watchTile t
  let n := match w.st with
    | .normal => 0
    | .suspect => 1
    | .excluded => 2
    | .testing => 3
  BitVec.ofNat 64 (w.lastStep % 2 ^ 16 * 2 ^ 32 + w.lastAttempt * 2 ^ 16 + w.cls * 2 ^ 8 + b2n w.tested * 2 ^ 5 +
    b2n w.lastPass * 2 ^ 4 + n)

/-- WCH_SMOKE of a grove (R553). -/
def State.smokeWord (s : State) (g : Nat) : Word :=
  let heat := tgetD s.wch.heat g 0
  setFld (setFld (setFld (s.getReg .WCH_SMOKE [g]) 16 16 heat) 4 4 (s.grove g).params.smokeThreshold) 0 4 (smokeLevel heat)

end Sys2Proof.Machine
end

