-- ==== Sys2Proof/Machine/Ash.lean ====
section
/-! DEFINITION. Fatal records and the entry to the ash state (R658 to R662), and the end of a task, which may find an
uncorrectable error in its unit's control state (R539). -/
namespace Sys2Proof.Machine

/-- Every trunk and branch port goes to DISABLED. -/
def State.portsOff (s : State) : State :=
  s.each allPorts fun s p => if (s.port p).st == .disabled then s else s.portOff p

/-- The in-package links are down. -/
def State.linksDown (s : State) : State := { s with hrt := { s.hrt with links := [] } }

/-- Both hearth links and the span bridge are trained (R43, R92). -/
def State.ucieUp (s : State) : Bool :=
  [0, 1, 2].all fun k => let x := tgetD s.hrt.links k {}; x.state == 2 || x.state == 3

/-- No firing and no restore is in progress. -/
def State.kilnIdle (s : State) : Bool := s.kln.firings.isEmpty && s.kln.restores.isEmpty

/-- Ends the operation of GLB_RECOVER with a result of R669. -/
def State.recoverResult (s : State) (n : Nat) : State :=
  ((s.putFld .GLB_RECOVER [] 48 8 n).putFld .GLB_RECOVER [] 41 1 1).putFld .GLB_RECOVER [] 40 1 0

/-- A recovery or SERVICE refused (R670). Assumption: 26 (DEDUCED). -/
def State.recoverRefused (s : State) (op n : Nat) : State :=
  (s.recoverResult n).record .glb .contained 2 0x02 none (op % 8 + s.regFld .GLB_RECOVER [] 32 4 * 16)

/-- Aborts the firing of a grove in the way of a reset or of the ash state (R574): a STEP_OPEN it holds completes
ABORTED. -/
def State.strikeFiring (s : State) (g : Nat) : State :=
  if (s.firing g).isNone then s
  else
    let mine := fun (p : Nat × Nat) => ((s.cmd p.1 p.2).map (·.grove)) == some g
    let l := s.col.heldOpens.filter mine
    let s := (s.abortFiring g none).modCol fun x => { x with heldOpens := x.heldOpens.filter fun p => !mine p }
    s.each l fun s p => s.complete p.1 p.2 .aborted 0

/-- A batch is cut short by a reset or the ash state (R67): before step 4 it leaves no trace, after it the clears end. -/
def State.dropBatch (s : State) : State :=
  let s := match s.grv.batch with
    | some b => if b.applied then s.each b.channels fun s c => s.modChannel c fun x => { x with scrubbing := true } else s
    | none => s
  { s with grv := { s.grv with batch := none } }

/-- Every port has stopped: a recovered reference is ABSENT (R591), and a device that ran from it switches to REFCLK where
that is GOOD (R594). Assumption: 73 (DEDUCED). -/
def ClockState.portsGone (c : ClockState) : ClockState :=
  let used := (c.active == 1 || c.switching == some 1) &&
    (match c.prev with
     | some p => p.2.2.st == 2
     | none => c.recov.st == 2)
  { c with
    recov := {}, prev := c.prev.map fun p => (p.1, p.2.1, {})
    switching := if used && !c.banked then (if c.refclk.st == 2 then some 0 else none) else c.switching }

/-- The device enters the ash state (R659, R660, R662), or a further cause meets it there. -/
def State.ashEntry (s : State) (ctrlUe overtemp : Bool) : State :=
  if s.sup.phase == .ash then
    let s := { s with sup := { s.sup with thermLow := s.sup.thermLow || overtemp } }
    if s.sup.recovery == .waitReference || s.sup.recovery == .training then
      { s with sup := { s.sup with recovery := .idle } }.recoverRefused 2 4
    else s
  else
    let s := s.each (List.range 16) fun s g => s.strikeFiring g
    let s := if ctrlUe then s else s.flushBuffers fun _ => true
    let s := (s.portsOff.linksDown).dropBatch
    let s := if s.sup.heldGroveResets.isEmpty then s
      else { s with sup := { s.sup with heldGroveResets := [] } }.recoverRefused 5 2
    { s.putFld .PWR_SMOULDER [] 0 2 0 with
      hrt := { s.hrt with ethUp := [false, false] }
      clk := { s.clk.portsGone with dvfs := [{}, {}] }
      sup := { s.sup with phase := .ash, faultLow := true, thermLow := overtemp, svcLow := false, alertLow := true } }

/-- Writes a fatal record and enters the ash state (R527, R658). -/
def State.fatal (s : State) (src : Src) (die code : Nat) (grove : Option Nat) (detail : Nat) : State :=
  let overtemp := (src == .pwr && code == 0x03) || (src == .mem && code == 0x0D)
  (s.record src .fatal die code grove detail).ashEntry (src == .mem && code == 0x0E) overtemp

/-- The source whose control state a unit's error lies in. -/
def unitSrc (unit : Nat) : Src := if unit = 1 then .svu else if unit = 3 then .smu else .til

/-- The end of a task: an uncorrectable error in its unit's control state is fatal (R539). -/
def State.endOfTask (s : State) (tile slot : Nat) (r : UnitReport) : State :=
  match s.slot (slotKey tile slot) with
  | some x =>
    if r.ctrlUe && s.islandsRun && x.st == .running then
      s.fatal .wch (dieOfTile tile) 0x09 none (unitSrc x.task.unit).number
    else s.taskEnd tile slot r
  | none => s

/-- A unit reports the end of its task. Assumption: 87 (DESIGN CHOICE). -/
def execTaskComplete (tile slot : Nat) (r : UnitReport) (s : State) : Host.Outcome State Fault Refusal :=
  .next (s.onDie fun s => s.endOfTask tile slot r)

end Sys2Proof.Machine
end

