-- ==== Sys2Proof/Machine/Clocks.lean ====
section
/-! DEFINITION. Clocks, references, operating points, rails and limits (ch. 19), and smoulder (R605). -/
namespace Sys2Proof.Machine

/-! ## Records -/

/-- The state with the clock block changed. -/
def State.modClk (s : State) (f : ClockState → ClockState) : State := { s with clk := f s.clk }

/-- CLK_REF_SEL: source, direction and lane (R611). -/
def State.refSel (s : State) : Nat × Nat × Nat :=
  (s.regFld .CLK_REF_SEL [] 8 1, s.regFld .CLK_REF_SEL [] 4 3, s.regFld .CLK_REF_SEL [] 0 3)

/-- The item of R623 for a reference: 0x80 and the direction for the recovered one, 0 for REFCLK. -/
def State.refItem (s : State) (source : Nat) : Nat := if source = 0 then 0 else 0x80 + s.refSel.2.1

/-- A CLK or PWR FAULT_LAST word (R623). -/
def faultWord (s : State) (code item value : Nat) : Word :=
  BitVec.ofNat 64 (code * 2 ^ 56 + item % 256 * 2 ^ 48 + value % 2 ^ 16 * 2 ^ 16 + s.aonUs % 2 ^ 16)

/-- A CLK record (R609): the detail packs the item, the trunk direction and the lane. -/
def State.clkRecord (s : State) (sev : Sev) (die code item : Nat) (value : Nat := 0) : State :=
  let s := s.putReg .CLK_FAULT_LAST [] (faultWord s code item value)
  let d := item + (if item ≥ 0x80 then s.refSel.2.1 * 2 ^ 8 + s.refSel.2.2 * 2 ^ 11 else 0)
  if sev == .fatal then s.fatal .clk die code none d else s.record .clk sev die code none d

/-- A PWR record (R610): the detail packs the item and the reading. -/
def State.pwrRecord (s : State) (sev : Sev) (die code item value : Nat) : State :=
  let s := s.putReg .PWR_FAULT_LAST [] (faultWord s code item value)
  let d := item + value % 2 ^ 16 * 2 ^ 8
  if sev == .fatal then s.fatal .pwr die code none d else s.record .pwr sev die code none d

/-! ## Operating points -/

/-- The arithmetic clock of a point, in kHz (R597). -/
def pointKhz (p : Nat) : Nat :=
  [2000000, 1800000, 1600000, 1400000, 1250000, 1100000, 950000, 800000].getD p 800000

/-- A die's operating-point state. -/
def State.dvfs (s : State) (d : Nat) : Dvfs := s.clk.dvfs.getD d {}

/-- The state with a die's operating-point state changed. -/
def State.modDvfs (s : State) (d : Nat) (f : Dvfs → Dvfs) : State :=
  s.modClk fun c => { c with dvfs := c.dvfs.modify d f }

/-- A die's thermal state. -/
def State.therm (s : State) (d : Nat) : Therm := s.clk.therm.getD d {}

/-- The state with a die's thermal state changed. -/
def State.modTherm (s : State) (d : Nat) (f : Therm → Therm) : State :=
  s.modClk fun c => { c with therm := c.therm.modify d f }

/-- Some stack of a die is warm: the stack hold of R413. -/
def State.stackHold (s : State) (d : Nat) : Bool :=
  (List.range 6).any fun i => (tgetD s.mem.heats (6 * d + i) {}).warm

/-- The effective point a die should have: the slowest of the request and the clamps (R598); P7 while banked (R698). -/
def State.wantedPoint (s : State) (d : Nat) : Nat :=
  let req := s.regFld .PWR_OP_REQ [d] 0 3
  let t := s.therm d
  if s.clk.banked || s.clk.droop || (d < 2 && (t.hot || t.fault)) then 7
  else min 7 (max (max req (if s.stackHold d then req + 1 else 0)) (max t.clamp (s.clk.capClamp.getD d 0)))

/-- Starts a transition of an idle die to the point it should have (R599). -/
def State.retarget (s : State) (d : Nat) : State :=
  let v := s.dvfs d
  if !s.islandsRun || s.clk.banked || v.busy || s.wantedPoint d = v.effective then s
  else s.modDvfs d fun v => { v with target := s.wantedPoint d, busy := true, pllDone := false, voltDone := false }

/-- Both dies follow their wanted points. -/
def State.retargetAll (s : State) : State := (s.retarget 0).retarget 1

/-- Ends a transition; a target that changed meanwhile is taken up now (R599). Assumption: 75 (DEDUCED). -/
def State.endTransition (s : State) (d : Nat) : State :=
  ((s.modDvfs d fun v => { v with effective := v.target, clock := v.target, busy := false }).bump .PWR_TRANSITIONS
    []).retarget d

/-- The idle PLL half is locked: the clock switches, at once when slower, after the voltage when faster (R599). -/
def State.pllLocked (s : State) (d : Nat) : State :=
  let v := s.dvfs d
  if !v.busy || v.pllDone then s
  else if v.target > v.effective then s.modDvfs d fun v => { v with pllDone := true, clock := v.target }
  else
    let s := s.modDvfs d fun v => { v with pllDone := true }
    if v.voltDone then s.endTransition d else s

/-- The idle PLL half locks. -/
def execDvfsPllLocked (die : Nat) (s : State) : Host.Outcome State Fault Refusal := .next (s.unheld fun s => s.pllLocked die)

/-- VDD_CD has settled (R599). -/
def State.voltageSettled (s : State) (d : Nat) : State :=
  let v := s.dvfs d
  if !v.busy then s
  else if v.target > v.effective then (if v.pllDone then s.endTransition d else s)
  else
    let s := s.modDvfs d fun v => { v with voltDone := true }
    if v.pllDone then s.endTransition d else s

/-- VDD_CD settles. -/
def execDvfsVoltageSettled (die : Nat) (s : State) : Host.Outcome State Fault Refusal := .next (s.unheld fun s => s.voltageSettled die)

/-- A PWR_OP_REQ write (R598, R614). -/
def State.writeOpReq (s : State) (d : Nat) (v : Word) : State := (s.softWrite .PWR_OP_REQ [d] v).retarget d

/-- A PWR_OP_REQ write. -/
def execPwrOpReqWrite (die : Nat) (value : Word) (s : State) : Host.Outcome State Fault Refusal :=
  .next (s.awake fun s => s.writeOpReq die value)

/-! ## Banking -/

/-- Banks the PLLs (R595, R697, R698): the links, ports and PHYs stop, field tests abort, the points read 7. A recovered
reference is ABSENT once its port is off (R591). Assumption: 73 (DEDUCED). -/
def State.bank (s : State) : State :=
  let s := (s.modClk fun c => { c with
    banked := true, switching := none, dvfs := [{}, {}], recov := {}
    prev := c.prev.map fun p => (p.1, p.2.1, {}) }).putReg .CLK_PLL_STATUS [] 0
  (s.portsOff.linksDown).abortTests fun _ => true

/-- Whether a reference is GOOD. -/
def State.refGood (s : State) (source : Nat) : Bool := (if source = 0 then s.clk.refclk else s.clk.recov).st == 2

/-- The device's present source is GOOD: its own lane where it still runs from another one. -/
def State.activeGood (s : State) : Bool :=
  if s.clk.active = 1 then
    (match s.clk.prev with
     | some p => p.2.2.st == 2
     | none => s.refGood 1)
  else s.refGood 0

/-- Test mode: the TAP holds one of its test instructions (R594, R686). Assumption: 83 (DEDUCED). -/
def State.testMode (s : State) : Bool :=
  s.pkg.tap == .extest || s.pkg.tap == .extestPulse || s.pkg.tap == .extestTrain || s.pkg.tap == .clamp ||
    s.pkg.tap == .highz

/-- The compute die a PLL of R613 belongs to, or 2. -/
def pllDie (item : Nat) : Nat := if item = 4 || item = 5 || item ≥ 10 then 2 else item % 2

/-- The compute die a rail of R621 belongs to, or 2 (R526). -/
def railDie (rail : Nat) : Nat := if 4 ≤ rail && rail ≤ 7 then rail % 2 else 2

/-- A PLL is unlocked (R594); in test mode the device banks with no record. Assumption: 92 (DEDUCED). -/
def State.clockLost (s : State) (item : Nat) : State :=
  if s.testMode then s.bank
  else if s.sup.phase == .kindling then s.bank.clkRecord .deferred (pllDie item) 0x03 item
  else if s.sup.phase == .service then s.clkRecord .fatal (pllDie item) 0x04 item
  else s

/-- No GOOD reference is left. Assumption: 92 (DEDUCED). -/
def State.refClockLost (s : State) (item : Nat) : State :=
  if s.testMode then s.bank
  else if s.sup.phase == .kindling then s.bank.clkRecord .deferred 2 0x03 item
  else if s.sup.phase == .service then s.clkRecord .fatal 2 0x04 item
  else s

/-- The selected reference is lost (R594): a hitless switch to the other where it is GOOD.
Assumptions: 73 (DEDUCED), 92 (DEDUCED). -/
def State.refLost (s : State) (source item : Nat) : State :=
  let other := 1 - min source 1
  if s.clk.banked then s
  else if s.sup.phase == .smoulder && !s.testMode then s
  else if s.refGood other then
    let s := s.modClk fun c => { c with switching := some other }
    if s.sup.phase == .service && !s.testMode then (s.bump .CLK_FAILOVER []).clkRecord .deferred 2 0x01 item else s
  else s.refClockLost item

/-- Starts the switch to the selected reference once it is GOOD (R593). -/
def State.takeSelection (s : State) : State :=
  let want := s.refSel.1
  let differs := want != s.clk.active || (want == 1 && s.clk.prev.isSome)
  if differs && s.refGood want && s.clk.switching.isNone && !s.clk.banked then
    s.modClk fun c => { c with switching := some want }
  else s

/-- The switch ends: the device runs from the new source (R593). -/
def State.switchDone (s : State) : State :=
  match s.clk.switching with
  | none => s
  | some n => (s.modClk fun c => { c with switching := none, active := n, prev := none }).takeSelection

/-- The switch to the newly selected reference completes. -/
def execRefSwitchDone (s : State) : Host.Outcome State Fault Refusal := .next (s.unheld fun s => s.switchDone)

/-! ## Judging references -/

/-- A reference: 0 REFCLK, 1 the recovered one CLK_REF_SEL names, 2 the recovered one still in use. -/
def State.ref (s : State) (source : Nat) : RefState :=
  if source = 0 then s.clk.refclk
  else if source = 1 then s.clk.recov
  else (s.clk.prev.map fun p => p.2.2).getD {}

/-- The state with a reference changed. -/
def State.setRef (s : State) (source : Nat) (r : RefState) : State :=
  s.modClk fun c =>
    if source = 0 then { c with refclk := r }
    else if source = 1 then { c with recov := r }
    else { c with prev := c.prev.map fun p => (p.1, p.2.1, r) }

/-- The source is the one the device runs from, or switches to. -/
def State.inUse (s : State) (source : Nat) : Bool :=
  let running := if source = 0 then s.clk.active == 0
    else if source = 1 then s.clk.active == 1 && s.clk.prev.isNone
    else s.clk.active == 1 && s.clk.prev.isSome
  running || s.clk.switching == some source

/-- A reference leaves GOOD: its loss is handled when the device uses it (R591, R594). -/
def State.leaveGood (s : State) (source : Nat) (r : RefState) : State :=
  let was := (s.ref source).st == 2
  let used := s.inUse source
  let s := s.setRef source r
  if was && used then
    (s.modClk fun c => { c with switching := none }).refLost source (s.refItem source)
  else s

/-- A recovered reference is judged only while its port is ACTIVE (R591). -/
def State.refJudged (s : State) (source : Nat) : Bool :=
  if source = 0 then true
  else if source = 1 then (s.port s.refSel.2.1).st == .active
  else (s.clk.prev.map fun p => (s.port p.1).st == .active).getD false

/-- Edges seen for 1 µs: ABSENT becomes QUALIFYING (R591). -/
def State.edgeDetect (s : State) (source : Nat) : State :=
  if (s.ref source).st = 0 && s.refJudged source then s.setRef source { st := 1 } else s

/-- Edges appear on a reference. -/
def execRefEdgeDetect (source : Nat) (s : State) : Host.Outcome State Fault Refusal := .next (s.unheld fun s => s.edgeDetect source)

/-- No edge for 1 µs: the reference is ABSENT (R591). -/
def State.edgeLoss (s : State) (source : Nat) : State :=
  if (s.ref source).st = 0 then s else s.leaveGood source {}

/-- Edges stop on a reference. -/
def execRefEdgeLoss (source : Nat) (s : State) : Host.Outcome State Fault Refusal := .next (s.unheld fun s => s.edgeLoss source)

/-- A 100 µs window of a reference: within 1 % of 156.25 MHz or not, its cleaning PLL locked or not (R591). 100 good
windows, the last ten of them locked, make it GOOD. -/
def State.qualWindow (s : State) (source hz : Nat) (locked : Bool) : State :=
  let r := s.ref source
  let good := 154687500 ≤ hz && hz ≤ 157812500
  if !s.refJudged source then s
  else if r.st = 1 then
    if good then
      let n : RefState := { st := 1, count := min 100 (r.count + 1), locked := if locked then min 10 (r.locked + 1) else 0 }
      if n.count = 100 && n.locked = 10 then (s.setRef source { n with st := 2 }).takeSelection else s.setRef source n
    else (s.setRef source { st := 1, count := 0, locked := if locked then min 10 (r.locked + 1) else 0 }).bump
      .CLK_QUAL_RESTART []
  else if r.st = 2 && (!good || !locked) then s.leaveGood source { st := 1 }
  else s

/-- A qualification window ends. -/
def execRefQualWindow (source hz : Nat) (pllLocked : Bool) (s : State) : Host.Outcome State Fault Refusal :=
  .next (s.unheld fun s => s.qualWindow source hz pllLocked)

/-- A recovered reference whose port has left ACTIVE is ABSENT (R591). -/
def State.refPortCheck (s : State) : State :=
  let s := if s.refJudged 1 then s else s.edgeLoss 1
  if s.refJudged 2 then s else s.edgeLoss 2

/-- The measured offset in 0.01 ppm; beyond 200 ppm for 10 ms it is recorded once (R592). -/
def State.crossCheck (s : State) (off : Int) : State :=
  if !(s.refGood 0 && s.refGood 1) then s
  else
    let s := s.putFld .CLK_REF_STATUS [] 16 16 (ofSigned 16 (max (-32768) (min 32767 off)))
    if -20000 ≤ off ∧ off ≤ 20000 then s.modClk fun c => { c with mismatchSince := none, mismatchLogged := false }
    else
      let since := s.clk.mismatchSince.getD s.aonUs
      let s := s.modClk fun c => { c with mismatchSince := some since }
      if s.aonUs - since ≥ 10000 && !s.clk.mismatchLogged then
        (s.modClk fun c => { c with mismatchLogged := true }).clkRecord .deferred 2 0x02 (s.refItem 1)
          (ofSigned 16 (max (-32768) (min 32767 off)))
      else s

/-- The references are compared. -/
def execRefCrossCheck (offset : Int) (s : State) : Host.Outcome State Fault Refusal := .next (s.unheld fun s => s.crossCheck offset)

/-- A CLK_REF_SEL write (R593, R611): another lane while the device runs from the old one leaves the old one in use. -/
def State.writeRefSel (s : State) (v : Word) : State :=
  if wfld v 4 3 > 5 then s.clkRecord .contained 2 0x06 0
  else
    let old := s.refSel
    let s := s.softWrite .CLK_REF_SEL [] v
    let new := s.refSel
    let s := if old.2 == new.2 then s
      else
        s.modClk fun c => { c with
          prev := if c.active = 1 && c.prev.isNone then some (old.2.1, old.2.2, c.recov) else c.prev, recov := {} }
    s.takeSelection

/-- The reference is selected. -/
def execClkRefSelWrite (value : Word) (s : State) : Host.Outcome State Fault Refusal := .next (s.awake fun s => s.writeRefSel value)

/-- A PLL loses lock (R594, R613). -/
def State.pllUnlock (s : State) (pll : Nat) : State :=
  let s := (s.putFld .CLK_PLL_STATUS [] pll 1 0).bump .CLK_UNLOCK []
  if s.clk.banked then s else s.clockLost pll

/-- A PLL unlocks. -/
def execPllUnlock (pll : Nat) (s : State) : Host.Outcome State Fault Refusal := .next (s.unheld fun s => s.pllUnlock pll)

/-- Every PLL relocks to a GOOD reference and the device is no longer banked (R596, R698): the one it runs from, unless it
was banked or that one is lost. Assumption: 73 (DEDUCED). -/
def State.relock (s : State) : State :=
  if s.refGood 0 || s.refGood 1 then
    let want := s.refSel.1
    let s := if s.clk.banked || !s.activeGood then
        s.modClk fun c => { c with banked := false, active := if s.refGood want then want else 1 - want, prev := none }
      else s
    (s.putReg .CLK_PLL_STATUS [] (BitVec.ofNat 64 0x3FF)).retargetAll
  else s

/-! ## Monitors -/

/-- The set frequency of an island in kHz, 0 where it is stopped while banked (R586, R589).
Assumption: 74 (DESIGN CHOICE). -/
def State.islandKhz (s : State) (i : Island) : Nat :=
  let b := s.clk.banked
  let pt := fun d => pointKhz (if (s.dvfs d).busy then (s.dvfs d).target else (s.dvfs d).clock)
  match i with
  | .tile t => if b then 400000 else pt (dieOfTile t)
  | .bough d => if b then 400000 else pt d
  | .knot d => if b then 200000 else pt d / 2
  | .memory _ | .collective _ => if b then 400000 else 1200000
  | .link _ => if b then 0 else 1200000
  | .hearthLink _ => if b then 0 else 1000000
  | .timer _ => 156250
  | .hearth => if b then 400000 else Config.hearthKhz

/-- The PLL bit of R613 an island runs from, or the reference's item. -/
def State.islandItem (s : State) (i : Island) : Nat :=
  match i with
  | .tile t => dieOfTile t
  | .bough d | .knot d => d
  | .memory d | .collective d => 2 + d
  | .link p => 2 + dieOfPort p
  | .hearthLink _ => 5
  | .timer _ => s.refItem s.clk.active
  | .hearth => 4

/-- The die an island's record names. -/
def islandDie : Island → Nat
  | .tile t => dieOfTile t
  | .bough d | .knot d | .memory d | .collective d | .timer d => d
  | .link p => dieOfPort p
  | .hearthLink _ | .hearth => 2

/-- An island is clock-gated: on a compute die in smoulder or the ash state (R605, R659). Assumption: 75 (DEDUCED). -/
def State.islandGated (s : State) (i : Island) : Bool :=
  (s.sup.phase == .ash || s.sup.phase == .smoulder) && i != .hearth

/-- A monitor's window (R589): a deviation above 5 %, or a handshake unanswered, is fatal. -/
def State.monitor (s : State) (i : Island) (khz : Nat) (unanswered : Bool) : State :=
  let set := s.islandKhz i
  let off := if khz ≥ set then khz - set else set - khz
  if !s.clk.railsUp || s.islandGated i then s
  else if off * 20 > set || unanswered then s.clkRecord .fatal (islandDie i) 0x05 (s.islandItem i)
  else s

/-- A clock monitor's window. -/
def execClkMonitorWindow (island : Island) (khz : Nat) (unanswered : Bool) (s : State) :
    Host.Outcome State Fault Refusal := .next (s.unheld fun s => s.monitor island khz unanswered)

/-! ## Supplies -/

/-- The stacks' contents are no longer vouched for (R601, R661): every byte is an unrelated value. -/
def State.loseStacks (s : State) : State :=
  let s := { s with mem := { s.mem with
    cells := [], written := [], bad := [], saturated := [], hearthEpoch := s.mem.hearthEpoch + 1, hearthKeyed := false
    channels := tmap s.mem.channels fun _ c => { c with scrubPos := 0, scrubbing := false, wcb := [], adders := [] } } }
  s

/-- Rails the monitor judges: VDD_CD and VDD_SRAM rest in smoulder (R600, R605). -/
def State.railJudged (s : State) (bit_ : Nat) : Bool :=
  s.clk.railsUp && (1 ≤ bit_) && !(s.regFld .PWR_SMOULDER [] 0 2 ≠ 0 && 4 ≤ bit_ && bit_ ≤ 7)

/-- One rail of a sample. -/
def State.railOne (s : State) (inWindow reading b : Nat) : State :=
  if bit inWindow b || !s.railJudged b then s.modClk fun c => { c with railOut := terase (terase c.railOut b) (100 + b) }
  else
    let since := tgetD s.clk.railOut b s.aonUs
    let s := s.modClk fun c => { c with railOut := tset c.railOut b since }
    let due := s.aonUs - since ≥ (if b = 1 then 20 else 5)
    if due && (tget s.clk.railOut (100 + b)).isNone then
      let s := s.modClk fun c => { c with railOut := tset c.railOut (100 + b) since }
      let s := s.pwrRecord .fatal (railDie b) (if b = 1 then 0x07 else 0x06) b reading
      if b ≥ 11 then s.loseStacks else s
    else s

/-- A sample of every rail (R600, R621): a rail out for 5 µs, or V3P3_AUX for 20 µs, is fatal; the sample that first
finds every rail in its window ends power-up with the PLLs banked (R603). -/
def State.railSample (s : State) (inWindow reading : Nat) : State :=
  let s := s.putReg .PWR_RAIL_STATUS [] (BitVec.ofNat 64 inWindow)
  let keep := fun (ok : Bool) (o : Option Nat) => if ok then some (o.getD s.aonUs) else none
  let s := s.modClk fun c => { c with vinSince := keep (bit inWindow 0) c.vinSince, auxSince := keep (bit inWindow 1) c.auxSince }
  if s.clk.railsUp then s.each (List.range 14) fun s b => s.railOne inWindow reading b
  else if inWindow = 2 ^ 14 - 1 && s.clk.pscPg then
    (s.modClk fun c => { c with railsUp := true }).bank
  else s

/-- Every rail is sampled. -/
def execRailSample (inWindow reading : Nat) (s : State) : Host.Outcome State Fault Refusal :=
  .next (s.unheld fun s => s.railSample inWindow reading)

/-- The rails shut down (R601, R604): PSC_EN deasserts and the stacks' contents are lost. -/
def State.shutdown (s : State) : State :=
  let s := s.modClk fun c => { c with
    railsUp := false, pscEn := false, pscPg := false, shutDown := true, vinSince := none, railOut := [] }
  (s.putReg .PWR_RAIL_STATUS [] (s.getReg .PWR_RAIL_STATUS [] &&& BitVec.ofNat 64 0x6)).loseStacks

/-- VIN stands outside its window (R601), in units of 10 mV. -/
def State.vinOut (s : State) (v : Nat) : State :=
  if 4000 ≤ v && v ≤ 6000 then s
  else
    let s := (s.modClk fun c => { c with vinSince := none }).putFld .PWR_RAIL_STATUS [] 0 1 0
    let s := if s.clk.railsUp then s.pwrRecord .fatal 2 0x05 0 v else s
    if v < 3000 || v > 6400 then s.shutdown else s

/-- VIN leaves its window. -/
def execVinOutOfWindow (tenMillivolts : Nat) (s : State) : Host.Outcome State Fault Refusal :=
  .next (s.unheld fun s => s.vinOut tenMillivolts)

/-- A telemetry frame (R602, R617). -/
def State.tlmFrame (s : State) (voltage current : Nat) (fault : Bool) : State :=
  let s := (s.putFld .PWR_INPUT [] 0 16 voltage).putFld .PWR_INPUT [] 16 16 current
  let ok := 4000 ≤ voltage && voltage ≤ 6000
  s.modClk fun c => { c with
    frames := c.frames + 1, pscFault := fault, vinSince := if ok then some (c.vinSince.getD s.aonUs) else none }

/-- A telemetry frame arrives. -/
def execPscTlmFrame (voltage current : Nat) (fault : Bool) (s : State) : Host.Outcome State Fault Refusal :=
  .next (s.unheld fun s => s.tlmFrame voltage current fault)

/-- The link to the 48 V controller is lost (R602), but while unpowered. -/
def State.ctrlLink (s : State) (f : ClockState → ClockState) : State :=
  if s.clk.pscEn then (s.modClk f).pwrRecord .fatal 2 0x0C 0 0 else s.modClk f

/-- Five telemetry frames are missing. -/
def execPscTlmMissing (s : State) : Host.Outcome State Fault Refusal :=
  .next (s.unheld fun s => s.ctrlLink fun c => { c with frames := 0 })

/-- PSC_FLT_N is asserted. -/
def execPscFault (s : State) : Host.Outcome State Fault Refusal :=
  .next (s.unheld fun s => s.ctrlLink fun c => { c with pscFault := true, frames := 0 })

/-- PSC_PG asserts once conversion runs: VIB is in its window and the next rails ramp (R603). -/
def State.powerGood (s : State) : State :=
  if s.clk.pscEn then (s.modClk fun c => { c with pscPg := true }).putFld .PWR_RAIL_STATUS [] 3 1 1 else s

/-- PSC_PG asserts. -/
def execPscPowerGood (s : State) : Host.Outcome State Fault Refusal := .next (s.unheld fun s => s.powerGood)

/-! ## Heat and power limits -/

/-- A reading of a die's hottest sensor in 1/16 °C, none where every sensor is unreadable (R606). -/
def State.dieTemp (s : State) (d : Nat) (r : Option Int) (sensor unreadable : Nat) : State :=
  let now := s.aonUs
  let thr : Int := 16 * (s.regFld .PWR_THERM_CFG [] 0 7 : Nat)
  let s := if unreadable > 0 && r.isSome then
      s.putReg .PWR_FAULT_LAST [] (faultWord s 0x0B (0x40 + d) unreadable)
    else s
  match r with
  | none =>
    let t := s.therm d
    let since := t.badSince.getD now
    let s := s.modTherm d fun t => { t with badSince := some since, goodSince := none, overSince := none }
    if now - since ≥ 1000 && !t.fault && d < 2 then
      ((s.modTherm d fun t => { t with fault := true }).pwrRecord .deferred d 0x0B (0x40 + d) 0).retargetAll
    else s
  | some v =>
    let val := ofSigned 16 v
    let s := (s.putFld .PWR_DIE_TEMP [d] 0 16 val).putFld .PWR_DIE_TEMP [d] 16 5 sensor
    let t := s.therm d
    let past := if v ≥ 1680 then some (t.overSince.getD now) else none
    let good := some (t.goodSince.getD now)
    let t' : Therm := { t with
      reading := v, badSince := none, goodSince := good, overSince := past, above := v ≥ thr, hot := v ≥ 1600 || (t.hot && v ≥ 1520)
      fault := t.fault && now - (good.getD now) < 10000
      clamp := if d < 2 && v ≥ thr && t.clamp = 0 then min 7 ((s.dvfs d).effective + 1) else t.clamp
      coolSince := if v < thr - 80 then some (t.coolSince.getD now) else none }
    let s := s.modTherm d fun _ => if d < 2 then t' else { t' with hot := false, clamp := 0 }
    let s := if d < 2 && t.clamp = 0 && t'.clamp ≠ 0 then s.pwrRecord .corrected d 0x01 (0x40 + d) val else s
    let s := if d < 2 && !t.hot && t'.hot then s.pwrRecord .deferred d 0x02 (0x40 + d) val else s
    let trip := v ≥ 1760 || (past.map fun o => decide (now - o ≥ 100)).getD false
    let s := if trip && !(s.sup.phase == .ash && s.sup.thermLow) then s.pwrRecord .fatal d 0x03 (0x40 + d) val else s
    s.retargetAll

/-- A die's temperature is read. -/
def execDieTempSample (die : Nat) (hottest : Option Int) (sensor unreadable : Nat) (s : State) :
    Host.Outcome State Fault Refusal := .next (s.unheld fun s => s.dieTemp die hottest sensor unreadable)

/-- Each 1 ms the thermal clamp moves one point further, or lifts one once the die has been cool for 10 ms (R606). -/
def State.clampStep (s : State) (d : Nat) : State :=
  let t := s.therm d
  if t.clamp = 0 then s
  else if t.above then (s.modTherm d fun t => { t with clamp := min 7 (t.clamp + 1) }).retarget d
  else if (t.coolSince.map fun c => decide (s.aonUs - c ≥ 10000)).getD false then
    (s.modTherm d fun t => { t with clamp := t.clamp - 1 }).retarget d
  else s

/-- The thermal clamp moves. -/
def execThermalClampStep (die : Nat) (s : State) : Host.Outcome State Fault Refusal := .next (s.unheld fun s => s.clampStep die)

/-- The 1 ms average of input power (R607, R617). -/
def State.capAverage (s : State) (w : Nat) : State :=
  let s := s.putFld .PWR_INPUT [] 32 16 w
  let cap := s.regFld .PWR_CAP [] 0 16
  if s.regFld .PWR_CAP [] 63 1 = 0 then s
  else if w > cap then
    let first := s.clk.capClamp.all (· == 0)
    let s := s.modClk fun c => { c with
      capLow := 0
      capClamp := c.capClamp.zipIdx.map fun p =>
        min 7 ((if p.1 = 0 then (c.dvfs.getD p.2 {}).effective else p.1) + 1) }
    let s := if first then s.pwrRecord .corrected 2 0x04 0 w else s
    s.retargetAll
  else if w * 100 < cap * 95 then
    let n := s.clk.capLow + 1
    let s := s.modClk fun c => { c with capLow := n }
    if n ≥ 10 && n % 10 = 0 then (s.modClk fun c => { c with capClamp := c.capClamp.map (· - 1) }).retargetAll else s
  else s.modClk fun c => { c with capLow := 0 }

/-- Input power is averaged. -/
def execPowerCapAverage (watts : Nat) (s : State) : Host.Outcome State Fault Refusal := .next (s.unheld fun s => s.capAverage watts)

/-- An input current above 45 A engages the droop clamp (R608). -/
def State.overcurrent (s : State) : State :=
  let s := (s.bump .PWR_DROOP []).pwrRecord .corrected 2 0x08 0 (s.regFld .PWR_INPUT [] 16 16)
  (s.modClk fun c => { c with droop := true }).retargetAll

/-- The input current passes its limit. -/
def execInputOvercurrent (s : State) : Host.Outcome State Fault Refusal := .next (s.unheld fun s => s.overcurrent)

/-- The droop clamp lifts (R608). Assumption: 75 (DEDUCED). -/
def State.droopRelease (s : State) : State := (s.modClk fun c => { c with droop := false }).retargetAll

/-- The droop clamp lifts. -/
def execDroopRelease (s : State) : Host.Outcome State Fault Refusal := .next (s.unheld fun s => s.droopRelease)

/-- A PWR_CAP write (R607, R616): a cap below 600 W is discarded; a write that disables the cap lifts its clamp.
Assumption: 75 (DEDUCED). -/
def State.writeCap (s : State) (v : Word) : State :=
  if wfld v 0 16 < 600 then s.pwrRecord .contained 2 0x0A 0 0
  else
    let s := s.softWrite .PWR_CAP [] v
    if v.getLsbD 63 then s else (s.modClk fun c => { c with capClamp := [0, 0], capLow := 0 }).retargetAll

/-- The power cap is written. -/
def execPwrCapWrite (value : Word) (s : State) : Host.Outcome State Fault Refusal := .next (s.awake fun s => s.writeCap value)

/-- A PWR_THERM_CFG write (R619). -/
def State.writeTherm (s : State) (v : Word) : State :=
  if wfld v 0 7 < 80 || wfld v 0 7 > 100 then s.pwrRecord .contained 2 0x0A 0 0 else s.softWrite .PWR_THERM_CFG [] v

/-- The throttle threshold is written. -/
def execPwrThermCfgWrite (value : Word) (s : State) : Host.Outcome State Fault Refusal := .next (s.awake fun s => s.writeTherm value)

/-! ## Smoulder -/

/-- Smoulder may be entered (R605): in service, every bound grove CLOSED, no long operation running.
Assumption: 76 (DEDUCED). -/
def State.mayEnter (s : State) : Bool :=
  s.sup.phase == .service && s.boundGroves.all (fun g => (s.step_ g).st == .closed) && s.grv.batch.isNone &&
    s.kilnIdle && s.mem.mapouts.isEmpty && s.mem.repairs.isEmpty && s.wch.tests.isEmpty

/-- A PWR_SMOULDER write with enter (R605, R620). -/
def State.smoulderEnter (s : State) : State :=
  if s.regFld .PWR_SMOULDER [] 0 2 = 0 && s.mayEnter then (s.putFld .PWR_SMOULDER [] 0 2 1).portsOff
  else s.pwrRecord .contained 2 0x09 0 0

/-- PWR_SMOULDER.enter; a write with both bits set is discarded. -/
def execPwrSmoulderEnter (value : Word) (s : State) : Host.Outcome State Fault Refusal :=
  .next (s.awake fun s => if value.getLsbD 62 then s else s.smoulderEnter)

/-- Entry completes: the phase is smoulder and the in-package links rest in L1. A recovered reference is ABSENT now that
its port is off; its loss is judged at exit (R591, R594). Assumption: 76 (DEDUCED). -/
def State.smoulderEntered (s : State) : State :=
  if s.sup.phase == .service && s.regFld .PWR_SMOULDER [] 0 2 == 1 then
    let s := (s.putFld .PWR_SMOULDER [] 0 2 2).modClk fun c => { c with dvfs := [{}, {}] }
    { s with sup := { s.sup with phase := .smoulder, svcLow := true } }.refPortCheck
  else s

/-- Entry to smoulder completes. -/
def execSmoulderEntryDone (s : State) : Host.Outcome State Fault Refusal := .next (s.awake fun s => s.smoulderEntered)

/-- A PWR_SMOULDER write with leave. -/
def State.smoulderLeave (s : State) : State :=
  if s.regFld .PWR_SMOULDER [] 0 2 = 2 then s.putFld .PWR_SMOULDER [] 0 2 3 else s

/-- PWR_SMOULDER.leave; a write with both bits set is discarded. -/
def execPwrSmoulderLeave (value : Word) (s : State) : Host.Outcome State Fault Refusal :=
  .next (s.awake fun s => if value.getLsbD 63 then s else s.smoulderLeave)

/-- Exit completes once a reference is GOOD, every PLL locked and the in-package links up; the enabled ports train
again (R605). Assumptions: 75 (DEDUCED), 76 (DEDUCED). -/
def State.smoulderExited (s : State) : State :=
  let ready := (s.refGood 0 || s.refGood 1) && s.getReg .CLK_PLL_STATUS [] == BitVec.ofNat 64 0x3FF && s.ucieUp
  if s.sup.phase == .smoulder && s.regFld .PWR_SMOULDER [] 0 2 == 3 && ready then
    let s := s.putFld .PWR_SMOULDER [] 0 2 0
    let s := { s with sup := { s.sup with phase := .service } }
    let s := s.each allPorts fun s p => if (s.portCfg p).getLsbD 63 then s.portEnable p (s.portCfg p) else s
    let s := if s.activeGood then s else s.modClk fun c => { c with switching := some (1 - c.active) }
    s.retargetAll
  else s

/-- Exit from smoulder completes. -/
def execSmoulderExitDone (s : State) : Host.Outcome State Fault Refusal := .next (s.unheld fun s => s.smoulderExited)

/-! ## Time -/

/-- A clamp is in force on some die (R615, R622). -/
def State.anyClamp (s : State) : Bool :=
  s.clk.droop || s.stackHold 0 || s.stackHold 1 || s.clk.capClamp.any (· != 0) ||
    (List.range 2).any fun d => (s.therm d).clamp != 0 || (s.therm d).hot || (s.therm d).fault

/-- One microsecond of the always-on island passes (R588, R622). Assumption: 1 (DESIGN CHOICE). -/
def State.tick (s : State) : State :=
  let s := { s with aonUs := s.aonUs + 1 }
  let s := if s.anyClamp then s.bump .PWR_CLAMP_US [] else s
  if s.clk.capClamp.any (· != 0) then s.bump .PWR_CAP_US [] else s

end Sys2Proof.Machine
end

