-- ==== Sys2Proof/Machine/LinkEvents.lean ====
section
/-! DEFINITION. The link events that may take a port out of ACTIVE: after each, a recovered reference whose port has left
ACTIVE is ABSENT (R591). -/
namespace Sys2Proof.Machine

/-- A link event, and the judging of the recovered references after it. -/
def State.linkEvent (s : State) (f : State → State) : State := s.onDie fun s => (f s).refPortCheck

/-- A flit arrives (R429, R435). -/
def execLnkFlitReceive (port lane : Nat) (fec : FecResult) (flit : List Byte) (s : State) :
    Host.Outcome State Fault Refusal := .next (s.linkEvent fun s => s.flitReceive port lane fec flit)

/-- The identity exchange ends (R445). -/
def execIdentityExchange (port : Nat) (id : PortIdentity) (s : State) : Host.Outcome State Fault Refusal :=
  .next (s.linkEvent fun s => s.identityExchange port id)

/-- A retrain ends (R445, R449). -/
def execRetrainDone (port lanes : Nat) (id : PortIdentity) (s : State) : Host.Outcome State Fault Refusal :=
  .next (s.linkEvent fun s => s.retrainDone port lanes id)

/-- A retrain passes its bound (R445). -/
def execRetrainBoundExpiry (port lanes : Nat) (s : State) : Host.Outcome State Fault Refusal :=
  .next (s.linkEvent fun s => s.retrainExpiry port lanes)

/-- LNK_PORT_CFG written with enable 1 (R445). -/
def execPortEnable (port : Nat) (value : Word) (s : State) : Host.Outcome State Fault Refusal :=
  .next (s.linkEvent fun s => s.portEnable port (value ||| BitVec.ofNat 64 (2 ^ 63)))

/-- LNK_PORT_CFG written with enable 0 (R445). -/
def execPortDisable (port : Nat) (value : Word) (s : State) : Host.Outcome State Fault Refusal :=
  .next (s.linkEvent fun s => s.portDisable port (value &&& BitVec.ofNat 64 (2 ^ 63 - 1)))

/-- A write of LNK_PORT_CFG: with enable 0 the port is disabled; with enable 1 the fields are stored, a DISABLED port
turns on, and the retrain bit retrains an ACTIVE one (R445, R449, R455). -/
def State.writePortCfg (s : State) (p : Nat) (v : Word) : State :=
  if !v.getLsbD 63 then s.portDisable p v
  else
    let s := s.portEnable p v
    if v.getLsbD 0 then s.startRetrain p else s

/-- LNK_PORT_CFG written with the retrain bit. -/
def execPortRetrain (port : Nat) (value : Word) (s : State) : Host.Outcome State Fault Refusal :=
  .next (s.linkEvent fun s => s.writePortCfg port (value ||| 1#64))

/-- A lane has not regained codeword lock within 10 µs (R448). -/
def execLaneLockTimeout (port lane : Nat) (s : State) : Host.Outcome State Fault Refusal :=
  .next (s.linkEvent fun s => s.laneDead port lane)

/-- The partner's management flit removes a lane from dealing (R448). -/
def execLaneRemoveMessage (port lane : Nat) (s : State) : Host.Outcome State Fault Refusal :=
  .next (s.linkEvent fun s => s.laneDead port lane)

/-- Every live lane loses lock at once (R449). -/
def execLaneLockLoss (port : Nat) (s : State) : Host.Outcome State Fault Refusal :=
  .next (s.linkEvent fun s => s.startRetrain port)

/-- A negative acknowledgement on a link: resend after its ack_seq (R435). -/
def execLnkNakReceive (port ackSeq : Nat) (s : State) : Host.Outcome State Fault Refusal :=
  .next (s.linkEvent fun s => s.replayFrom port ackSeq)

/-- A flit unacknowledged after replay_timeout_us is resent in the same way (R435). -/
def execLnkReplayTimeout (port : Nat) (s : State) : Host.Outcome State Fault Refusal :=
  .next (s.linkEvent fun s => s.replayFrom port (s.port port).lastAcked)

end Sys2Proof.Machine
end

