-- ==== Sys2Proof/Machine/MemCtl.lean ====
section
/-! DEFINITION. The channel controllers (ch. 13): requests, ECC events, dead lanes and sparing, row repair, map-out and
the stacks' heat. -/
namespace Sys2Proof.Machine

/-! ## Lanes and rows -/

/-- The dead lanes of a logical channel's physical channel that its ECC mode uses, in order of death. -/
def State.deadLanes (s : State) (c : Nat) : List Nat := (s.phys (s.physOf c)).dead

/-- The lane that spare lane 18 replaces in mode 1, if any, and a dead lane for which no spare remains (R406). -/
def spareOf (dead : List Nat) : Option Nat × Option Nat :=
  let data := dead.filter (· < 18)
  if dead.contains 18 then (none, data.head?) else (data.head?, data[1]?)

/-- The decoder's report of a burst that a channel reads (R402, R403). Assumption: 12 (DESIGN CHOICE). -/
def State.decode (s : State) (c : Nat) (e : BurstErr) : EccOut :=
  let dead := s.deadLanes c
  if (s.channel c).ecc = 1 then eccMode1 (spareOf dead).1 (spareOf dead).2 e
  else eccMode0 (dead.filter (· < 18)) e

/-- The logical channel that a physical channel serves. -/
def State.logicalOf (s : State) (p : Nat) : Option Nat :=
  if s.physOf p = p && !(s.channel p).absent then some p
  else (s.mem.channels.find? fun x => x.2.physical == some p && !x.2.absent).map (·.1)

/-- A lane of a physical channel is declared dead (R406): its record stands under the logical channel, with the place
of the byte that showed it. Assumption: 13 (DEDUCED). -/
def State.laneDies (s : State) (p lane b : Nat) : State :=
  if (s.phys p).dead.contains lane then s
  else
    let n := (s.phys p).dead.length
    let s := s.modPhys p fun x => { x with dead := x.dead ++ [lane] }
    match s.logicalOf p with
    | none => s
    | some c =>
      let rec_ := fun (s : State) sev code heat =>
        (s.record .mem sev (dieOfChannel c) code (s.channelOwner c) (memDetail c b)).heatOn heat
          (s.channelOwner c).toList
      if n = 0 then
        if (s.channel c).ecc = 1 then
          let s := if lane = 18 then s else s.modChannel c fun ch => { ch with retraining := true }
          rec_ s .corrected 0x04 64
        else rec_ s .deferred 0x04 64
      else if n = 1 then rec_ s .deferred 0x05 2048
      else s

/-- Corrections on a lane count in its 1 ms window; the 256th declares it dead (R406). Assumption: 13 (DEDUCED). -/
def State.laneCorrected (s : State) (p b lane : Nat) : State :=
  let x := s.phys p
  let x := if s.aonUs - x.windowAt ≥ 1000 then { x with windowAt := s.aonUs, laneCorr := [] } else x
  let x := { x with laneCorr := tmod x.laneCorr lane 0 (· + 1) }
  let s := s.modPhys p fun _ => x
  if tgetD x.laneCorr lane 0 = 256 then s.laneDies p lane b else s

/-- The line of a channel that a bank, row and line name: the inverse of the bank hash (R390). -/
def lineAt (bank row line : Nat) : Nat := row * 2 ^ 9 + ((bank ^^^ (row % 16)) % 16) * 2 ^ 5 + line % 2 ^ 5

/-- Starts a soft repair: the bank is held until the stack reports (R407). -/
def State.startSoft (s : State) (c bank row : Nat) (byCommand : Bool) : State :=
  { s with mem := { s.mem with repairs := tset s.mem.repairs c ⟨2, bank, row, byCommand⟩ } }

/-- The bank of a physical channel still has its soft or hard repair row (R414). -/
def softFree (x : PhysChannel) (bank : Nat) : Bool := !x.softUsed.testBit bank
/-- The hard row. -/
def hardFree (x : PhysChannel) (bank : Nat) : Bool := !x.hardUsed.testBit bank

/-- The table of suspects with one more correction of a row: a new row takes the place of the row with the fewest
corrections when 64 are tracked (R408). -/
def countSuspect (l : List Suspect) (bank row : Nat) : List Suspect :=
  if l.any fun x => x.bank == bank && x.row == row then
    l.map fun x => if x.bank == bank && x.row == row then { x with count := x.count + 1 } else x
  else
    let least := l.foldl (fun m x => min m x.count) (l.headD ⟨0, 0, 0, false⟩).count
    let l := if l.length ≥ 64 then
        (match l.findIdx? (·.count == least) with
         | some i => l.eraseIdx i
         | none => l)
      else l
    l ++ [{ bank := bank, row := row, count := 1 }]

/-- A corrected line of a row is tracked; a row at its threshold is repaired or recorded as exhausted (R408). -/
def State.suspectRow (s : State) (c b : Nat) : State :=
  let bank := (split b).1
  let row := (split b).2.1
  let s := s.modChannel c fun ch => { ch with suspects := countSuspect ch.suspects bank row }
  let pol := s.getReg .MEM_REMAP_POLICY [dieOfChannel c]
  match (s.channel c).suspects.find? fun x => x.bank == bank && x.row == row with
  | none => s
  | some x =>
    if x.count < max 1 (wfld pol 0 4) || (tget s.mem.repairs c).isSome then s
    else if pol.getLsbD 8 && softFree (s.phys (s.physOf c)) bank then s.startSoft c bank row false
    else if x.noted then s
    else
      (s.modChannel c fun ch => { ch with
        suspects := ch.suspects.map fun y => if y.bank == bank && y.row == row then { y with noted := true } else y
      }).record .mem .deferred (dieOfChannel c) 0x06 (s.channelOwner c) (memDetail c b)

/-- What a corrected burst leaves (R404, R406, R408, R419, R420). Assumption: 13 (DEDUCED). -/
def State.corrected (s : State) (c line : Nat) (lanes : List Nat) : State :=
  match lanes.eraseDups with
  | [] => s
  | l :: rest =>
    let p := split (64 * line)
    let s := (s.bump .MEM_ECC_CORR (chIx c)).heatOn 1 (s.channelOwner c).toList
    let s := s.putReg .MEM_ECC_LAST (chIx c) (BitVec.ofNat 64
      ((if rest.isEmpty then l else 0x1F) * 2 ^ 58 + p.2.1 * 2 ^ 42 + p.1 * 2 ^ 38 + p.2.2 * 2 ^ 33))
    (s.each lanes fun s lane => s.laneCorrected (s.physOf c) (64 * line) lane).suspectRow c (64 * line)

/-- The controller reads a line from the stack: a line that only the hearth scrub's start makes zero is not read
(R702). -/
def State.readsStack (s : State) (c line : Nat) : Bool :=
  !isHearthChannel c || line < (s.channel c).scrubPos || s.mem.written.contains (lineNo c line)

/-- A burst arrives with flips. A line found uncorrectable stays so until it is written whole (R396); a burst beyond the
code's capacity that decodes to wrong data returns free bytes, which the controller also writes back when it believes
it corrected something. The answer is the data where it is not the line's. Assumption: 12 (DESIGN CHOICE). -/
def State.burst (s : State) (c line : Nat) (e : BurstErr) : State × Option (List Byte) :=
  if s.lineBad c line || !s.readsStack c line then (s, none)
  else
    match s.decode c e with
    | .clean => (s, none)
    | .corrected lanes => (s.corrected c line lanes, none)
    | .uncorrectable => ({ s with mem := { s.mem with bad := sinsert s.mem.bad (lineNo c line) } }, none)
    | .wrong lanes =>
      let p := s.fresh
      let bs := (List.range 64).map (Config.freeByte p.1)
      if lanes.isEmpty then (p.2, some bs)
      else ((p.2.putLine c line bs).corrected c line lanes, some bs)

/-! ## Requests -/

/-- The grove check of R73, and the hearth region's of R95: the party that a request acts as. -/
inductive Admission where
  | ok (p : Party)
  | stale
  | remoteHearth
  | unmapped
  deriving DecidableEq, Repr

/-- A hearth-region request carries grove 0 and generation 0 and comes from this device, and is no service of another
device's request (R94, R95); any other carries the grove that holds the channel and its generation (R73). -/
def State.admission (s : State) (unit : MemUnit) (o : Origin) (off : Nat) : Admission :=
  if 0x10000000000 ≤ off && (o.device != s.devnum || unit == .poolService) && off < 0x10800000000 then .remoteHearth
  else
    match s.locate off with
    | none => .unmapped
    | some (c, _) =>
      if isHearthChannel c then (if o.grove = 0 && o.gen = 0 then .ok .hearth else .stale)
      else if unit == .hearthCore then .stale
      else if s.channelOwner c == some o.grove && s.groveIs o.grove o.gen then .ok (.grove o.grove)
      else .stale

/-- The first and last line number of a held request. -/
def State.heldLines (s : State) (h : HeldMem) : Nat × Nat :=
  let f := fun (off : Nat) (n : Nat) => match s.locate off with
    | some (c, b) => (lineNo c (b / 64), lineNo c (b / 64) + n - 1)
    | none => (2 ^ 40, 2 ^ 40)
  match h with
  | .req r => f r.offset 1
  | .acc a => f a.offset (if a.op == .b8 then 4 else 1)

/-- A request waits: its channel retrains (R406), its bank is held for a repair (R407), it would change a protected page
(R567), or an earlier request to one of its lines waits (R395). Assumption: 71 (DEDUCED). -/
def State.mustWait (s : State) (h : HeldMem) (off : Nat) (writes : Bool) : Bool :=
  match s.locate off with
  | none => false
  | some (c, b) =>
    let bankHeld := match tget s.mem.repairs c with
      | some r => r.bank == (split b).1
      | none => false
    let prot := writes && s.kln.protect.any fun p => p.1 == off / 2 ^ 21
    let mine := s.heldLines h
    (s.channel c).retraining || bankHeld || prot ||
      s.mem.held.any fun x => (s.heldLines x).1 ≤ mine.2 && mine.1 ≤ (s.heldLines x).2

/-- A request from another device for the hearth region (R95). -/
def State.hearthRemote (s : State) (o : Origin) (off : Nat) : State :=
  s.record .gth .contained o.die 0x0C none (o.device + off % 2 ^ 41 * 2 ^ 15)

/-- A line read uncorrectable for a unit (R404): a fetch of a ring or list is fatal, any other operation faults with
MEM_UE. -/
def State.ueFor (s : State) (unit : MemUnit) (o : Origin) (off c line : Nat) : State :=
  if unit == .ringFetch then
    s.fatal .mem (dieOfChannel c) 0x0E (s.channelOwner c) (memDetail c (64 * line))
  else (s.ueRecord .contained c line).emit (.memFault unit o off 2)

/-- A partial write that needs room in the write-combining buffer evicts its oldest entry: the line that the request's
flips arrive in. -/
def State.evictedLine (s : State) (c line : Nat) (r : MemReq) : Option Nat :=
  if r.length = 64 || (s.channel c).wcb.any (·.line == line) || (s.channel c).wcb.length < 64 then none
  else ((s.channel c).wcb.head?).map (·.line)

/-- An admitted request on its line. Assumption: 17 (DESIGN CHOICE). -/
def State.serve (s : State) (r : MemReq) (g c b : Nat) : State :=
  let line := b / 64
  match r.data with
  | some bs =>
    let s := match s.evictedLine c line r with
      | some l => if s.lineKnown c l then (s.burst c l r.err).1 else s
      | none => s
    let w := s.writeLine c line (b % 64) bs g
    if w.2 then w.1 else w.1.ueFor r.unit r.origin r.offset c line
  | none =>
    if (s.channel c).adders.any (·.1 == line) then
      s.emit (.readData r.unit r.origin r.offset (((s.viewLine c line).drop (b % 64)).take r.length))
    else
      let q := s.burst c line r.err
      if q.1.lineBad c line && s.readsStack c line then
        (q.1.noteUe c line).ueFor r.unit r.origin r.offset c line
      else
        let bs : List Byte := match q.2 with
          | none => q.1.viewLine c line
          | some (w : List Byte) => match (q.1.channel c).wcb.find? (fun (x : WcbEntry) => x.line == line) with
            | some (e : WcbEntry) => w.zipIdx.map fun p => (tget e.bytes p.2).getD p.1
            | none => w
        q.1.emit (.readData r.unit r.origin r.offset ((bs.drop (b % 64)).take r.length))

/-- A request reaches a controller (R73, R391, R394 to R396, R404, R567). Assumption: 17 (DESIGN CHOICE). -/
def State.memRequest (s : State) (r : MemReq) : State :=
  match s.admission r.unit r.origin r.offset with
  | .unmapped =>
    (s.unmappedRecord (if r.origin.gen = 0 then .hearth else .grove r.origin.grove) r.offset).emit
      (.memFault r.unit r.origin r.offset 1)
  | .remoteHearth => (s.hearthRemote r.origin r.offset).emit (.memFault r.unit r.origin r.offset 3)
  | .stale => s.dropStale (match s.locate r.offset with
      | some (c, _) => dieOfChannel c
      | none => r.origin.die) r.origin
  | .ok p =>
    let s := if p == .hearth then { s with mem := { s.mem with hearthUsed := true } } else s
    if s.mustWait (.req r) r.offset r.data.isSome then
      { s with mem := { s.mem with held := s.mem.held ++ [.req r] } }
    else
      match s.locate r.offset with
      | some (c, b) => s.serve r (match p with
          | .grove g => g
          | .hearth => 0) c b
      | none => s

/-- An adder operation reaches its controller (R398). -/
def State.accRequest (s : State) (a : AccReq) : State :=
  match s.admission a.unit a.origin a.offset with
  | .unmapped =>
    (s.unmappedRecord (if a.origin.gen = 0 then .hearth else .grove a.origin.grove) a.offset).emit
      (.memFault a.unit a.origin a.offset 1)
  | .remoteHearth => (s.hearthRemote a.origin a.offset).emit (.memFault a.unit a.origin a.offset 3)
  | .stale => s.dropStale (match s.locate a.offset with
      | some (c, _) => dieOfChannel c
      | none => a.origin.die) a.origin
  | .ok p =>
    let s := if p == .hearth then { s with mem := { s.mem with hearthUsed := true } } else s
    if s.mustWait (.acc a) a.offset true then { s with mem := { s.mem with held := s.mem.held ++ [.acc a] } }
    else
      match s.locate a.offset with
      | none => s
      | some (c, b) =>
        -- the flips arrive in the first line, where it is read
        let line := b / 64
        let s := if (s.channel c).adders.any (·.1 == line) || !(s.lineKnown c line) then s else (s.burst c line a.err).1
        let r := s.accumulateBy p a.op a.offset a.mask a.values
        match r.2 with
        | .ue => r.1.emit (.memFault a.unit a.origin a.offset 2)
        | .unmapped => r.1.emit (.memFault a.unit a.origin a.offset 1)
        | _ => r.1

/-- The held requests are tried again in arrival order (R395). -/
def State.memRetry (s : State) : State :=
  let l := s.mem.held
  ({ s with mem := { s.mem with held := [] } }).each l fun s h => match h with
    | .req r => s.memRequest r
    | .acc a => s.accRequest a

/-- A read or write reaches a channel controller; an uncorrectable error in the controller's own state is fatal
(R415). -/
def execMemRequest (r : MemReq) (ctrlUe : Bool) (s : State) : Host.Outcome State Fault Refusal :=
  .next (s.onDie fun s =>
    if ctrlUe then
      match s.locate r.offset with
      | some (c, b) => s.fatal .mem (dieOfChannel c) 0x0E (s.channelOwner c) (memDetail c b)
      | none => s.fatal .mem r.origin.die 0x0E none 0
    else s.memRequest r)

/-- An accumulate reaches the adders. -/
def execNearMemoryAccumulate (a : AccReq) (s : State) : Host.Outcome State Fault Refusal :=
  .next (s.onDie fun s => s.accRequest a)

/-- The oldest write-combining entry is 2 µs old: it is evicted (R394). -/
def State.wcbAge (s : State) (c : Nat) (e : BurstErr) : State :=
  match (s.channel c).wcb with
  | [] => s
  | w :: _ => (if s.lineKnown c w.line then (s.burst c w.line e).1 else s).evictWcb c w

/-- An entry's age evicts it. -/
def execWcbAgeEvict (channel : Nat) (err : BurstErr) (s : State) : Host.Outcome State Fault Refusal :=
  .next (s.onDie fun s => s.wcbAge channel err)

/-! ## Patrol (R405) -/

/-- The patrol reads the next line of a bound or hearth channel; a period's end clears the suspects (R404, R405,
R408). -/
def State.patrol (s : State) (c : Nat) (e : BurstErr) : State :=
  let ch := s.channel c
  let line := ch.patrolPos
  let held := ch.retraining || (match tget s.mem.repairs c with
    | some r => r.bank == (split (64 * line)).1
    | none => false)
  if ch.absent || held || !((isHearthChannel c && s.mem.hearthKeyed) || (s.channelOwner c).isSome) then s
  else
    let s := (s.burst c line e).1
    let s := if s.lineBad c line && s.readsStack c line then (s.noteUe c line).ueRecord .deferred c line else s
    s.modChannel c fun x => { x with
      patrolPos := (line + 1) % 2 ^ 25
      suspects := if line + 1 = 2 ^ 25 then [] else x.suspects }

/-- The patrol scrub reads a line. -/
def execPatrolScrubRead (channel : Nat) (err : BurstErr) (s : State) : Host.Outcome State Fault Refusal :=
  .next (s.onDie fun s => s.patrol channel err)

/-! ## Repair (R407 to R409, R414) -/

/-- A channel is free: no grove holds it, it is no hearth channel and not absent. -/
def State.channelFree (s : State) (c : Nat) : Bool :=
  !isHearthChannel c && !(s.channel c).absent && (s.channelOwner c).isNone

/-- Ends the operation of MEM_REPAIR_CMD with a result (R424). Assumption: 14 (DESIGN CHOICE). -/
def State.repairResult (s : State) (die result : Nat) : State :=
  ((s.putFld .MEM_REPAIR_STATUS [die] 8 8 result).putFld .MEM_REPAIR_STATUS [die] 1 1 1).putFld
    .MEM_REPAIR_STATUS [die] 0 1 0

/-- An operation with go = 1 is taken: the fields are stored; while one runs the write is discarded (R423). -/
def State.repairCmd (s : State) (die : Nat) (v : Word) (f : State → State) : State :=
  if s.regFld .MEM_REPAIR_STATUS [die] 0 1 = 1 then s
  else
    let s := s.softWrite .MEM_REPAIR_CMD [die] v
    if !v.getLsbD 63 then s
    else if wfld v 47 9 / 240 ≠ die then s.repairResult die 2
    else f s

/-- Op 0: reads a mode register of the channel's stack. Assumption: 7 (DESIGN CHOICE). -/
def State.mrRead (s : State) (die : Nat) (v : Word) : State :=
  s.repairCmd die v fun s =>
    (s.putFld .MEM_REPAIR_STATUS [die] 16 8
      (tgetD s.mem.modeRegs (256 * (wfld v 47 9 / 40) + wfld v 8 8) 0)).repairResult die 0

/-- Op 1: writes a mode register, in kindling or on a free channel. Assumption: 7 (DESIGN CHOICE). -/
def State.mrWrite (s : State) (die : Nat) (v : Word) : State :=
  s.repairCmd die v fun s =>
    if s.sup.phase == .kindling || s.channelFree (wfld v 47 9) then
      { s with mem := { s.mem with
        modeRegs := tset s.mem.modeRegs (256 * (wfld v 47 9 / 40) + wfld v 8 8) (wfld v 0 8) } }.repairResult die 0
    else s.repairResult die 2

/-- Op 2: starts a soft repair where the bank's soft row is free (R407). -/
def State.softRepair (s : State) (die : Nat) (v : Word) : State :=
  s.repairCmd die v fun s =>
    let c := wfld v 47 9
    let bank := wfld v 43 4
    if (s.channel c).absent then s.repairResult die 2
    else if (tget s.mem.repairs c).isSome then s.repairResult die 1
    else if !softFree (s.phys (s.physOf c)) bank then s.repairResult die 3
    else (s.startSoft c bank (wfld v 27 16) true).putFld .MEM_REPAIR_STATUS [die] 0 1 1

/-- Op 3: starts a hard repair, in kindling or on a free channel (R409). -/
def State.hardRepair (s : State) (die : Nat) (v : Word) : State :=
  s.repairCmd die v fun s =>
    let c := wfld v 47 9
    let bank := wfld v 43 4
    if (s.channel c).absent || !(s.sup.phase == .kindling || s.channelFree c) then s.repairResult die 2
    else if (tget s.mem.repairs c).isSome then s.repairResult die 1
    else if !hardFree (s.phys (s.physOf c)) bank then s.repairResult die 3
    else
      { s with mem := { s.mem with repairs := tset s.mem.repairs c ⟨3, bank, wfld v 27 16, true⟩ } }.putFld
        .MEM_REPAIR_STATUS [die] 0 1 1

/-- Op 4: which banks of the channel still have their repair rows. Assumption: 14 (DESIGN CHOICE). -/
def State.queryRepair (s : State) (die : Nat) (v : Word) : State :=
  s.repairCmd die v fun s =>
    let c := wfld v 47 9
    let x := s.phys (s.physOf c)
    let avail := fun (used : Nat) => if (s.channel c).absent then 0 else 0xFFFF - used % 2 ^ 16
    ((s.putFld .MEM_REPAIR_STATUS [die] 48 16 (avail x.softUsed)).putFld .MEM_REPAIR_STATUS [die] 32 16
      (avail x.hardUsed)).repairResult die 0

/-- Op 0. -/
def execMemMrRead (die : Nat) (value : Word) (s : State) : Host.Outcome State Fault Refusal :=
  .next (s.onDie fun s => s.mrRead die value)
/-- Op 1. -/
def execMemMrWrite (die : Nat) (value : Word) (s : State) : Host.Outcome State Fault Refusal :=
  .next (s.onDie fun s => s.mrWrite die value)
/-- Op 2. -/
def execMemSoftRepair (die : Nat) (value : Word) (s : State) : Host.Outcome State Fault Refusal :=
  .next (s.onDie fun s => s.softRepair die value)
/-- Op 3. -/
def execMemHardRepair (die : Nat) (value : Word) (s : State) : Host.Outcome State Fault Refusal :=
  .next (s.onDie fun s => s.hardRepair die value)
/-- Op 4. -/
def execMemQueryRepair (die : Nat) (value : Word) (s : State) : Host.Outcome State Fault Refusal :=
  .next (s.onDie fun s => s.queryRepair die value)

/-- The stack reports a soft repair's outcome (R407): the row's lines were read with the flips given, a line found
uncorrectable stays so; the bank is released. Assumption: 14 (DESIGN CHOICE). -/
def State.softResult (s : State) (c : Nat) (success : Bool) (reads : List (Nat × BurstErr)) : State :=
  match tget s.mem.repairs c with
  | some r =>
    if r.op ≠ 2 then s
    else
      let s := s.each reads fun s q => (s.burst c (lineAt r.bank r.row q.1) q.2).1
      let s := s.each ((List.range 32).map (lineAt r.bank r.row)) fun s l => if s.lineBad c l then s.noteUe c l else s
      let s := { s with mem := { s.mem with repairs := terase s.mem.repairs c } }
      let d := memDetail c (64 * lineAt r.bank r.row 0)
      let s := if success then
          let s := s.modPhys (s.physOf c) fun x => { x with softUsed := x.softUsed ||| 2 ^ r.bank }
          let s := s.modChannel c fun x => { x with
            suspects := x.suspects.filter fun y => !(y.bank == r.bank && y.row == r.row) }
          let s := if r.byCommand then s else s.bump .MEM_ROW_REMAP (chIx c)
          s.record .mem .corrected (dieOfChannel c) 0x07 (s.channelOwner c) d
        else s.record .mem .contained (dieOfChannel c) 0x08 (s.channelOwner c) d
      (if r.byCommand then s.repairResult (dieOfChannel c) (if success then 0 else 4) else s).memRetry
  | none => s

/-- The outcome of a soft repair. -/
def execSoftRepairResult (channel : Nat) (success : Bool) (reads : List (Nat × BurstErr)) (s : State) :
    Host.Outcome State Fault Refusal := .next (s.onDie fun s => s.softResult channel success reads)

/-- A hard repair completes (R409): the row's known lines hold values the spec does not give.
Assumption: 14 (DESIGN CHOICE). -/
def State.hardDone (s : State) (c : Nat) (success : Bool) : State :=
  match tget s.mem.repairs c with
  | some r =>
    if r.op ≠ 3 then s
    else
      let s := { s with mem := { s.mem with repairs := terase s.mem.repairs c } }
      let s := s.each (((List.range 32).map (lineAt r.bank r.row)).filter (s.lineKnown c)) fun s l =>
        let p := s.fresh
        (p.2.putLine c l ((List.range 64).map (Config.freeByte p.1))).unsaturate fun w => w / 16 == lineNo c l
      let s := if success then s.modPhys (s.physOf c) fun x => { x with hardUsed := x.hardUsed ||| 2 ^ r.bank }
        else s.record .mem .contained (dieOfChannel c) 0x08 (s.channelOwner c)
          (memDetail c (64 * lineAt r.bank r.row 0))
      (s.repairResult (dieOfChannel c) (if success then 0 else 4)).memRetry
  | none => s

/-- A hard repair completes. -/
def execHardRepairDone (channel : Nat) (success : Bool) (s : State) : Host.Outcome State Fault Refusal :=
  .next (s.onDie fun s => s.hardDone channel success)

/-! ## Map-out (R410 to R412) -/

/-- Ends a map-out with a result (R422). Assumption: 15 (DESIGN CHOICE). -/
def State.mapoutResult (s : State) (die result : Nat) : State :=
  ((s.putFld .MEM_MAPOUT_STATUS [die] 8 8 result).putFld .MEM_MAPOUT_STATUS [die] 1 1 1).putFld
    .MEM_MAPOUT_STATUS [die] 0 1 0

/-- A map-out is abandoned: the old map stands, the spare is unlocked, result ABORTED (R411). -/
def State.abortMapout (s : State) (die : Nat) : State :=
  if (tget s.mem.mapouts die).isNone then s
  else { s with mem := { s.mem with mapouts := terase s.mem.mapouts die } }.mapoutResult die 4

/-- A write of MEM_MAPOUT with go (R410, R421): while a map-out runs it is discarded with a record.
Assumption: 15 (DESIGN CHOICE). -/
def State.mapoutGo (s : State) (die : Nat) (v : Word) : State :=
  if (tget s.mem.mapouts die).isSome then
    (if v.getLsbD 63 then s.refuseWrite .MEM_MAPOUT [die] else s.softWrite .MEM_MAPOUT [die] v)
  else
    let s := s.softWrite .MEM_MAPOUT [die] v
    if !v.getLsbD 63 then s
    else
      let source := wfld v 0 9
      let spare := wfld v 16 9
      let s := s.putReg .MEM_MAPOUT_STATUS [die]
        (s.getReg .MEM_MAPOUT_STATUS [die] &&& BitVec.ofNat 64 2)
      let busy := (tget s.mem.repairs source).isSome || (tget s.mem.repairs spare).isSome ||
        s.wch.tests.any fun t => t.kind == 9 && t.object == spare
      if source / 240 ≠ die || (s.channel source).absent then s.mapoutResult die 2
      else if spare / 240 ≠ die || spare = source || !s.channelFree spare then s.mapoutResult die 3
      else if busy then s.mapoutResult die 1
      else
        { s with mem := { s.mem with mapouts := tset s.mem.mapouts die ⟨source, spare⟩ } }.putFld
          .MEM_MAPOUT_STATUS [die] 0 1 1

/-- The go of a map-out. -/
def execMapoutGo (die : Nat) (value : Word) (s : State) : Host.Outcome State Fault Refusal :=
  .next (s.onDie fun s => s.mapoutGo die value)

/-- The switch of a map-out (R410, step 3): buffers written back, the map switched, the spare absent, the old physical
channel retired. -/
def State.switchMap (s : State) (m : MapOut) : State :=
  let s := s.flushChannel m.source
  let old := s.physOf m.source
  let new := s.physOf m.spare
  let s := s.modPhys old fun x => { x with retired := true }
  (s.modChannel m.source fun x => { x with physical := some new }).modChannel m.spare fun x =>
    { x with absent := true, physical := none }

/-- The copy of a map-out ends (R410, R411): its reads met the flips given; the lines copied raw are counted.
Assumption: 15 (DESIGN CHOICE). -/
def State.mapoutDone (s : State) (die : Nat) (reads : List (Nat × BurstErr)) : State :=
  match tget s.mem.mapouts die with
  | none => s
  | some m =>
    let s := s.each reads fun s q => (s.burst m.source q.1 q.2).1
    let raw := (s.mem.bad.filter fun l => l / 2 ^ 25 == m.source).length
    let s := if raw = 0 then s else s.bump .MEM_ECC_UE (chIx m.source) raw
    let s := { s with mem := { s.mem with mapouts := terase s.mem.mapouts die } }
    let s := s.switchMap m
    let s := (s.putFld .MEM_MAPOUT_STATUS [die] 24 24 (min raw (2 ^ 24 - 1))).putFld .MEM_MAPOUT_STATUS [die] 16 8 0xFF
    (s.mapoutResult die 0).record .mem .contained die 0x09 (s.channelOwner m.source) (memDetail m.source 0)

/-- The copy ends. -/
def execMapoutCopyDone (die : Nat) (reads : List (Nat × BurstErr)) (s : State) : Host.Outcome State Fault Refusal :=
  .next (s.onDie fun s => s.mapoutDone die reads)

/-- The hearth region has been used since cold reset (R412). Assumption: 16 (DEDUCED). -/
def State.hearthRegionUsed (s : State) : Bool :=
  s.mem.hearthUsed || s.hrt.queues.any (fun q => q.2.enabled) || s.mem.written.any fun l => isHearthChannel (l / 2 ^ 25)

/-- A write of MEM_CHMAP_SET: in kindling, before any grove is bound and before the hearth region is used, it sets the
map; at any other time it is discarded as R13 states (R412). Assumption: 16 (DEDUCED). -/
def State.chmapSet (s : State) (die : Nat) (v : Word) : State :=
  let c := wfld v 0 9
  let p := wfld v 16 9
  if s.sup.phase == .kindling && s.boundGroves.isEmpty && !s.hearthRegionUsed && c / 240 = die && p / 240 = die then
    s.modChannel c fun x =>
      if v.getLsbD 31 then { x with absent := true, physical := none }
      else { x with absent := false, physical := if p = c then none else some p }
  else s.refuseWrite .MEM_CHMAP_SET [die]

/-- The map is set. -/
def execMemChmapSetWrite (die : Nat) (value : Word) (s : State) : Host.Outcome State Fault Refusal :=
  .next (s.onDie fun s => s.chmapSet die value)

/-! ## Heat and training -/

/-- The groves with a channel in a stack. -/
def State.groveInStack (s : State) (k : Nat) : List Nat :=
  s.boundGroves.filter fun g => (List.range 40).any fun i => (s.grove g).channels.testBit (40 * k + i)

/-- A stack's record and its heat (R413, R415, R540). -/
def State.stackRecord (s : State) (sev : Sev) (code k heat : Nat) : State :=
  (s.record .mem sev (k / 6) code none k).heatOn heat (s.groveInStack k)

/-- The state with a stack changed. -/
def State.modStack (s : State) (k : Nat) (f : Stack → Stack) : State :=
  { s with mem := { s.mem with heats := tmod s.mem.heats k {} f } }

/-- MEM_STACK_TEMP.state (R427). -/
def Stack.number (x : Stack) : Nat := if x.fault then 3 else if x.hot then 2 else if x.warm then 1 else 0

/-- A reading of a stack's sensor in 1/16 °C, none where it is unreadable (R413). -/
def State.stackTemp (s : State) (k : Nat) (r : Option Int) : State :=
  let now := s.aonUs
  let old := tgetD s.mem.heats k {}
  let s := match r with
    | none =>
      let since := old.badSince.getD now
      let fault := old.fault || now - since ≥ 1000
      let s := s.modStack k fun x => { x with
        badSince := some since, goodSince := none, overSince := none, coolSince := none, fault := fault }
      if fault && !old.fault then s.stackRecord .deferred 0x0C k 0 else s
    | some v =>
      let good := old.goodSince.getD now
      let past := if v ≥ 1520 then some (old.overSince.getD now) else none
      let cool := if v < 1280 then some (old.coolSince.getD now) else none
      let warm := v ≥ 1360 || (old.warm && !(cool.map fun t => decide (now - t ≥ 10000)).getD false)
      let hot := v ≥ 1472 || (old.hot && v ≥ 1408)
      let s := s.modStack k fun x => { x with
        warm := warm, hot := hot, fault := x.fault && now - good < 10000, coolSince := cool, overSince := past
        badSince := none, goodSince := some good }
      let s := s.putFld .MEM_STACK_TEMP [k / 6, k % 6] 0 16 (ofSigned 16 v)
      let s := if warm && !old.warm then s.stackRecord .corrected 0x0A k 16 else s
      let s := if hot && !old.hot then s.stackRecord .deferred 0x0B k 256 else s
      let trip := v ≥ 1568 || (past.map fun t => decide (now - t ≥ 1000)).getD false
      if trip && !(s.sup.phase == Phase.ash && s.sup.thermLow) then s.fatal .mem (k / 6) 0x0D none k else s
  (s.putFld .MEM_STACK_TEMP [k / 6, k % 6] 24 2 (tgetD s.mem.heats k {}).number).retargetAll

/-- A stack's sensor is read. -/
def execStackTempSample (stack : Nat) (reading : Option Int) (s : State) : Host.Outcome State Fault Refusal :=
  .next (s.unheld fun s => s.stackTemp stack reading)

/-- The hearth channels' scrub starts (R702): every line reads as written or as zero from here. -/
def State.hearthScrub (s : State) : State :=
  let s := { s with mem := { s.mem with
    hearthKeyed := true
    cells := s.mem.cells.filter fun x => !isHearthChannel (x.1 / 2 ^ 31)
    written := s.mem.written.filter fun l => !isHearthChannel (l / 2 ^ 25)
    bad := s.mem.bad.filter fun l => !isHearthChannel (l / 2 ^ 25)
    saturated := s.mem.saturated.filter fun w => !isHearthChannel (w / 2 ^ 29) } }
  s.each ((List.range 480).filter isHearthChannel) fun s c =>
    s.modChannel c fun x => { x with scrubPos := 0, scrubbing := true, wcb := [], adders := [] }

/-- PHY training ends (R651, R406): lanes that failed are dead; the first training of a cold start starts the hearth
scrub; a channel's retrain releases its held traffic. -/
def State.phyTrained (s : State) : PhyTraining → State
  | .kindling dead =>
    let s := s.each dead fun s q => s.laneDies q.1 q.2 0
    if s.sup.phase == .kindling && !s.mem.hearthKeyed then s.hearthScrub else s
  | .retrain c => (s.modChannel c fun x => { x with retraining := false }).memRetry

/-- PHY training ends. -/
def execMemPhyTrainingDone (t : PhyTraining) (s : State) : Host.Outcome State Fault Refusal :=
  .next (s.inTraining fun s => s.phyTrained t)

end Sys2Proof.Machine
end

