-- ==== Sys2Proof/Machine/KilnEnd.lean ====
section
/-! DEFINITION. The commands of the Kiln (ch. 18): each is followed by the requests and the STEP_OPENs that a lifted
protection or an ended capture releases (R566, R567). -/
namespace Sys2Proof.Machine

/-- A Kiln event: afterwards the held memory requests and the held STEP_OPENs are tried again. -/
def State.kilnEvent (s : State) (f : State → State) : State := s.onDie fun s => (f s).memRetry.retryOpens

/-- PLAN_LOAD (R560). -/
def execPlanLoad (queue index : Nat) (s : State) : Host.Outcome State Fault Refusal :=
  .next (s.onDie fun s => s.planLoad queue index)

/-- FIRE (R563). -/
def execFire (queue index : Nat) (s : State) : Host.Outcome State Fault Refusal :=
  .next (s.onDie fun s => s.fire queue index)

/-- KLN_ABORT (R574). -/
def execKlnAbort (queue index : Nat) (s : State) : Host.Outcome State Fault Refusal :=
  .next (s.kilnEvent fun s => s.klnAbort queue index)

/-- RESTORE (R575). -/
def execRestore (queue index : Nat) (s : State) : Host.Outcome State Fault Refusal :=
  .next (s.onDie fun s => s.restore queue index)

/-- PROBE (R578). -/
def execProbe (queue index : Nat) (s : State) : Host.Outcome State Fault Refusal :=
  .next (s.onDie fun s => s.probeSlot queue index)

/-- The buddy acknowledges a drain message (R573); storage acknowledges on its queue pair (R114). -/
def State.buddyAck (s : State) (o : Origin) (request : Nat) : State :=
  match s.firing o.grove with
  | some f => if o.device = f.plan.buddy / 2 ^ 41 % 2 ^ 15 then s.kilnAcked o.grove false request else s
  | none => s

/-- A destination acknowledges. -/
def execKilnDestAck (o : Origin) (request : Nat) (s : State) : Host.Outcome State Fault Refusal :=
  .next (s.kilnEvent fun s => s.buddyAck o request)

/-- The capture ends (R566, R567). -/
def execKilnCaptureDone (grove : Nat) (s : State) : Host.Outcome State Fault Refusal :=
  .next (s.kilnEvent fun s => s.captureDone grove)

/-- A touched page has been copied (R567). -/
def execKilnTouchDone (grove page cycles : Nat) (s : State) : Host.Outcome State Fault Refusal :=
  .next (s.kilnEvent fun s => s.touchDone grove page cycles)

/-- A drain message reaches this device as a buddy (R573). -/
def execKilnDrainReceive (die : Nat) (o : Origin) (w : KilnWrite) (s : State) : Host.Outcome State Fault Refusal :=
  .next (s.onDie fun s => s.kilnWrite die o w)

/-- A drain message is overdue (R573). -/
def execKilnDrainTimeout (grove : Nat) (s : State) : Host.Outcome State Fault Refusal :=
  .next (s.kilnEvent fun s => s.kilnOverdue grove)

/-- Data of a slot arrives (R575, R578). -/
def execRestoreDataReceive (tag : Nat) (data : List Byte) (s : State) : Host.Outcome State Fault Refusal :=
  .next (s.onDie fun s => s.slotData tag data)

end Sys2Proof.Machine
end

