-- ==== Sys2Proof/Machine/Hearth.lean ====
section
/-! DEFINITION. The hearth die's attachment (ch. 3): fetching commands, training and replay on the in-package links,
sessions, queue pairs and memory regions. -/
namespace Sys2Proof.Machine

/-! ## Fetching (R102) -/

/-- Ends a command whose header or opcode is invalid, with the record its target's chapter gives (R102). -/
def State.refuseFetched (s : State) (q : Nat) (c : Cmd) : State :=
  let t := s.qtarget q
  if t = 0 then s.refuseInject q c.index c 0x01 0
  else if t = 1 then s.refuseSmp q c.index 0 0x01
  else if t = 2 then s.refuseGth q c.index c 0x01
  else if t = 3 then s.refuseEmb q c.index 0x01 0 0
  else if t = 4 then s.refuseCol q c.index 0x01 (s.qgrove q) 0
  else if t = 5 then s.refuseUpd q c.index 0x01 0 0
  else if t = 6 then s.refuseKln q c.index 0x01 c.grove 0 0
  else s.refuseFt q c.index

/-- A command entry's fields (R98). -/
def Cmd.parse (index : Nat) (b : List Byte) : Cmd :=
  { index := index, opcode := leAt b 0 1, grove := leAt b 1 1 % 16, gen := leAt b 2 2, tag := leAt b 4 2,
    fence := bit (leAt b 6 1) 0, irq := bit (leAt b 6 1) 1, raw := b }

/-- A reserved bit of a command's header is set (R102). -/
def headerBad (b : List Byte) : Bool := leAt b 1 1 ≥ 16 || leAt b 6 1 ≥ 4 || leAt b 7 1 != 0

/-- The checks of R102 at fetch, in table order. -/
def State.checkFetched (s : State) (q : Nat) (c : Cmd) : State :=
  if headerBad c.raw then s.refuseFetched q c
  else if !s.qdevice q && c.grove ≠ s.qgrove q then
    s.badCommand q c.index .hlk 0x03 (some (s.qgrove q)) (q + c.tag * 2 ^ 16) 0
  else if (s.actsOn q c).any fun g => !s.groveIs g c.gen then s.staleCommand q c.index ((s.actsOn q c).getD 0)
  else if !opcodeDefined (s.qtarget q) c.opcode ||
      (s.qdevice q && s.qtarget q = 7 && (c.grove ≠ 0 || c.gen ≠ 0)) then s.refuseFetched q c
  else s

/-- The target of a queue can take a command (R127, R222). -/
def State.hasCapacity (s : State) (q : Nat) : Bool :=
  !(s.queue q).waiting && (s.qtarget q ≠ 2 || s.waitPool (dieOfQueue q) < 256)

/-- Fetches a queue's next command (R101, R102, R105), unless an overrun stopped the queue (R103): an uncorrectable ring
entry is fatal (R404). -/
def State.fetch (s : State) (q : Nat) : State :=
  let x := s.queue q
  if !x.enabled || x.stopped || x.fetched = x.tail || !s.hasCapacity q then s
  else
    match s.readLocal .hearth (s.qbase q + 64 * (x.fetched % s.qsize q)) 64 with
    | (s, .ok, b) =>
      let c := Cmd.parse x.fetched b
      let s := s.modQueue q fun x => { x with fetched := (x.fetched + 1) % 2 ^ 32, cmds := x.cmds ++ [c] }
      s.checkFetched q c
    | (s, _, _) =>
      let at' := s.locate (s.qbase q + 64 * (x.fetched % s.qsize q))
      s.fatal .mem (dieOfQueue q) 0x0E none ((at'.map fun p => memDetail p.1 p.2).getD 0)

/-- An engine fetches a command. -/
def execCommandFetch (queue : Nat) (s : State) : Host.Outcome State Fault Refusal :=
  .next (s.onDie fun s => s.fetch queue)

/-! ## The in-package links (R85 to R93) -/

/-- An in-package link. -/
def State.hlk (s : State) (k : Nat) : HLink := tgetD s.hrt.links k {}

/-- The state with an in-package link changed. -/
def State.modHlk (s : State) (k : Nat) (f : HLink → HLink) : State :=
  { s with hrt := { s.hrt with links := tmod s.hrt.links k {} f } }

/-- A hearth flit's bytes without seq, ack_seq, credits and crc (R86). -/
structure HFlit where
  kind : Nat
  grove : Nat
  vc : Nat
  gen : Nat
  opcode : Nat
  address : Nat
  payload : List Byte
  deriving DecidableEq, Repr

/-- The 256 bytes of a hearth flit (R86). -/
def HFlit.bytes (f : HFlit) (seq ack : Nat) (credits : List Nat) : List Byte :=
  let head := toLe 1 f.kind ++ toLe 1 (f.grove % 16 + f.vc % 4 * 16) ++ toLe 2 f.gen ++ toLe 2 seq ++ toLe 2 ack ++
    ((List.range 4).flatMap fun i => toLe 1 (credits.getD i 0)) ++ toLe 1 ((f.payload.length + 7) / 8) ++
    toLe 1 f.opcode ++ toLe 2 0 ++ toLe 8 f.address ++ padTo 224 f.payload
  head ++ toLe 4 (crc32c head) ++ toLe 4 0

/-- The link carries flits: up or degraded (R92). -/
def HLink.carries (x : HLink) : Bool := x.state == 2 || x.state == 3

/-- Sends a flit on an in-package link: numbered and kept for replay, or held while the link retrains or its replay
buffer of 256 flits is full (R90, R91). `waiting` holds flits with their numbers still to come. -/
def State.hlkSend (s : State) (k : Nat) (f : HFlit) : State :=
  let x := s.hlk k
  if x.carries && x.replay.length < 256 then
    let b := f.bytes x.nextSeq x.lastAccepted []
    (s.modHlk k fun x => { x with
      nextSeq := (x.nextSeq + 1) % 2 ^ 16, replay := x.replay ++ [(x.nextSeq, b)] }).emit (.hearthFlit k b)
  else if x.carries || x.state == 1 then s.modHlk k fun x => { x with waiting := x.waiting ++ [f.bytes 0 0 []] }
  else s

/-- The flit that bytes spell. -/
def HFlit.parse (b : List Byte) : HFlit :=
  let cls := leAt b 1 1
  { kind := leAt b 0 1, grove := fld cls 0 4, vc := fld cls 4 2, gen := leAt b 2 2, opcode := leAt b 0x0D 1,
    address := leAt b 0x10 8, payload := (b.drop 0x18).take (8 * leAt b 0x0C 1) }

/-- Sends the flits a link holds. -/
def State.hlkPump (s : State) (k : Nat) : State :=
  let l := (s.hlk k).waiting
  (s.modHlk k fun x => { x with waiting := [] }).each l fun s b => s.hlkSend k (HFlit.parse b)

/-- Resends every flit after `ackSeq` (R90); sixteen replays within 100 µs start a retrain (R91). -/
def State.hlkReplay (s : State) (k ackSeq : Nat) : State :=
  let s := s.modHlk k fun x => { x with replay := x.replay.filter fun r => serialAfter r.1 ackSeq 16 }
  let rs := (s.hlk k).replay
  if rs.isEmpty || !(s.hlk k).carries then s
  else
    let s := (s.bump .HLK_REPLAY_COUNT [k] rs.length).emits (rs.map fun r => .hearthFlit k r.2)
    let times := ((s.hlk k).replayTimes.filter fun t => s.aonUs - t < 100) ++ [s.aonUs]
    s.modHlk k fun x =>
      if times.length ≥ 16 then { x with replayTimes := [], state := 1 } else { x with replayTimes := times }

/-- A negative acknowledgement on an in-package link. -/
def execHlkNakReceive (link ackSeq : Nat) (s : State) : Host.Outcome State Fault Refusal :=
  .next (s.onDie fun s => s.hlkReplay link ackSeq)

/-- A flit is unacknowledged after 4 µs. -/
def execHlkReplayTimeout (link : Nat) (s : State) : Host.Outcome State Fault Refusal :=
  .next (s.onDie fun s => s.hlkReplay link (s.hlk link).lastAcked)

/-- Modules built into a link (R92). -/
def modulesFitted (k : Nat) : Nat := if k = 2 then 8 else 2

/-- Training or retraining of a link ends with a mask of modules in service and its repaired lanes (R91): a module lost
is recorded, and a link without one fails. `old` is the mask before. A record of hearth link k carries die k, one of the span
bridge 2 (R526). Assumptions: 20 (DEDUCED), 39 (DESIGN CHOICE). -/
def State.hlkTrained (s : State) (k modules lanes old : Nat) (fresh : Bool) : State :=
  let m := modules % 2 ^ modulesFitted k
  let s := s.each ((List.range (modulesFitted k)).filter fun i => old.testBit i && !m.testBit i) fun s i =>
    (s.record .hlk .contained k 0x01 none (k + i * 2 ^ 8)).heatOn 64 s.boundGroves
  let st := if m = 0 then 4 else if m = 2 ^ modulesFitted k - 1 then 2 else 3
  let base : HLink := if fresh then {} else s.hlk k
  let s := s.modHlk k fun _ => { base with state := st, modulesUp := m, lanesRepaired := lanes }
  if m = 0 then s.fatal .hlk k 0x02 none k else s.hlkPump k

/-- A retrain of a link ends: modules out of service stay out. Assumption: 20 (DEDUCED). -/
def State.hlkRetrained (s : State) (k modules lanes : Nat) : State :=
  if (s.hlk k).state ≠ 1 then s
  else s.hlkTrained k (modules &&& (s.hlk k).modulesUp) lanes (s.hlk k).modulesUp false

/-- A retrain of an in-package link ends. -/
def execHlkRetrainDone (link modules lanes : Nat) (s : State) : Host.Outcome State Fault Refusal :=
  .next (s.onDie fun s => s.hlkRetrained link modules lanes)

/-- Initial training of the three links ends, each with its modules and repaired lanes: links that carry traffic
already are left as they are. Assumption: 39 (DESIGN CHOICE). -/
def State.hlkTraining (s : State) (cd0 cd1 span : Nat × Nat) : State :=
  s.each [(0, cd0), (1, cd1), (2, span)] fun s p =>
    if (s.hlk p.1).carries || s.sup.phase == .ash && (s.hlk p.1).state == 4 then s
    else s.hlkTrained p.1 p.2.1 p.2.2 (2 ^ modulesFitted p.1 - 1) true

/-! ## The front-end (R113 to R122) -/

/-- The front-end runs: it is idle in the ash state (R659). -/
def State.frontEnd (s : State) (f : State → State) : State :=
  s.awake fun s => if s.hrt.ethUp.any id then f s else s

/-- The state with the hearth die's attachment changed. -/
def State.modHrt (s : State) (f : HearthState → HearthState) : State := { s with hrt := f s.hrt }

/-- A port's training ends (R113). -/
def execEthLinkTrainingDone (port : Nat) (s : State) : Host.Outcome State Fault Refusal :=
  .next (s.awake fun s => s.modHrt fun h => { h with ethUp := h.ethUp.set port true })

/-- A connection on port 9460 (R117, R118): beyond 256 sessions it is reset. -/
def State.tlsConnect (s : State) (operator : Bool) (certificate : Nat) : State :=
  if s.hrt.sessions.length ≥ 256 then s.emit .tcpReset
  else
    let id := s.hrt.nextSession
    (s.modHrt fun h => { h with
      nextSession := id + 1
      sessions := tset h.sessions id ⟨operator, certificate, none, s.aonUs⟩ }).emit (.sessionOpen id)

/-- A TLS connection. -/
def execTlsConnect (operator : Bool) (certificate : Nat) (s : State) : Host.Outcome State Fault Refusal :=
  .next (s.frontEnd fun s => s.tlsConnect operator certificate)

/-- Queue pairs move to the error state; a Kiln destination or source on one of them fails (R573). -/
def State.qpErrors (s : State) (p : Nat → Qp → Bool) : State :=
  let hit := (s.hrt.qps.filter fun q => !q.2.error && p q.1 q.2).map (·.1)
  let s := s.modHrt fun h => { h with qps := tmap h.qps fun i q => if hit.contains i then { q with error := true } else q }
  let s := s.each (List.range 16) fun s g =>
    match s.firing g with
    | some f => if f.storage.live && hit.contains f.plan.qp then s.kilnFail g true else s
    | none => s
  let lost := s.kln.reads.filter fun r => match tget s.kln.plans r.2.grove, tget s.kln.restores r.2.grove with
    | some pl, some r => hit.contains pl.qp && r.source == 1
    | _, _ => false
  s.each lost fun s r => s.slotLost r.1

/-- The session ends: its queue pairs are in error and its regions deregistered (R120).
Assumption: 40 (DESIGN CHOICE). -/
def State.closeSession (s : State) (id : Nat) : State :=
  match tget s.hrt.sessions id with
  | none => s
  | some _ =>
    ((s.qpErrors fun _ q => q.session == id).modHrt fun h => { h with
      sessions := terase h.sessions id, regions := h.regions.filter fun r => r.2.session != id }).emit (.sessionClose id)

/-- A session has been silent for 30 s. -/
def execSessionIdleTimeout (session : Nat) (s : State) : Host.Outcome State Fault Refusal :=
  .next (s.awake fun s => s.closeSession session)

/-- An unbind or regrove of a grove, or its reset (R122): regions deregistered, queue pairs in error, tenants
detached. -/
def State.detachGrove (s : State) (g : Nat) : State :=
  (s.qpErrors fun _ q => q.grove == g).modHrt fun h => { h with
    regions := h.regions.filter fun r => r.2.grove != g
    sessions := tmap h.sessions fun _ x => if x.grove == some g then { x with grove := none } else x }

/-- What an open session's record does, and whether it is accepted (R119 to R121). Assumption: 40 (DESIGN CHOICE). -/
def State.sessionAct (s : State) (id : Nat) (x : Session) : TlsMsg → State × Bool
  | .keepalive => (s, true)
  | .attach g =>
    let n := (s.hrt.sessions.filter fun y => y.2.grove == some g).length
    if !x.operator && x.grove.isNone && g < 16 && tget s.hrt.assigned g == some x.certificate && n < 16 then
      (s.modHrt fun h => { h with sessions := tmod h.sessions id x fun y => { y with grove := some g } }, true)
    else (s, false)
  | .assign g c =>
    if x.operator && g < 16 then (s.modHrt fun h => { h with assigned := tset h.assigned g c }, true) else (s, false)
  | .weight g w =>
    if x.operator && g < 16 && 1 ≤ w && w ≤ 255 then
      (s.modHrt fun h => { h with weights := tset h.weights g w }, true)
    else (s, false)
  | .openQp q =>
    match x.grove with
    | some g =>
      if q < 4096 && (tget s.hrt.qps q).isNone then
        (s.modHrt fun h => { h with qps := tset h.qps q { session := id, grove := g } }, true)
      else (s, false)
    | none => (s, false)
  | .registerRegion rkey va length r w =>
    match x.grove with
    | some g =>
      if (s.grove g).bound && rkey < 2 ^ 32 && va + length ≤ 2 ^ 48 && (tget s.hrt.regions rkey).isNone then
        (s.modHrt fun h => { h with
          regions := tset h.regions rkey ⟨id, g, (s.grove g).generation, va, length, r, w⟩ }, true)
      else (s, false)
    | none => (s, false)

/-- A record on an open session restarts its idle timer and is acted on. Assumption: 40 (DESIGN CHOICE). -/
def State.tlsMessage (s : State) (id : Nat) (m : TlsMsg) : State :=
  match tget s.hrt.sessions id with
  | none => s
  | some x =>
    let s := s.modHrt fun h => { h with sessions := tmod h.sessions id x fun y => { y with lastAt := s.aonUs } }
    let r := s.sessionAct id x m
    r.1.emit (.tlsAnswer id r.2)

/-- A TLS record of an open session. -/
def execTlsSessionMessage (session : Nat) (msg : TlsMsg) (s : State) : Host.Outcome State Fault Refusal :=
  .next (s.frontEnd fun s => s.tlsMessage session msg)

/-- The region admits a request of a queue pair: same grove, current generation, inside, with the right (R115).
Assumption: 40 (DESIGN CHOICE). -/
def State.regionAdmits (s : State) (q : Qp) (r : RdmaReq) (write : Bool) : Bool :=
  match tget s.hrt.regions r.rkey with
  | none => false
  | some m =>
    m.grove == q.grove && s.groveIs m.grove m.gen && m.va ≤ r.va && r.va + r.length ≤ m.va + m.length &&
      (if write then m.write else m.read)

/-- A refused request: remote access error, and the queue pair is in error (R115). Assumption: 40 (DESIGN CHOICE). -/
def State.rdmaRefuse (s : State) (qp : Nat) : State :=
  (s.qpErrors fun i _ => i == qp).emit (.rdmaAnswer qp 1)

/-- An RDMA WRITE: after it the grove's page table may have changed (R12). -/
def State.rdmaWriteIn (s : State) (qp : Nat) (q : Qp) (r : RdmaReq) : State × Bool :=
  if !s.regionAdmits q r true || r.data.length ≠ r.length then (s.rdmaRefuse qp, false)
  else
    match s.writeVa q.grove r.va r.data with
    | (s, .ok) => ((s.freshPages q.grove).emit (.rdmaAnswer qp 0), true)
    | (s, _) => (s.rdmaRefuse qp, false)

/-- An incoming RDMA request on a queue pair (R114, R115). Assumption: 40 (DESIGN CHOICE). -/
def State.rdmaRequest (s : State) (qp : Nat) (r : RdmaReq) : State :=
  match tget s.hrt.qps qp with
  | none => s
  | some q =>
    if q.error then s
    else
      match r.op with
      | .atomic => s.emit (.rdmaAnswer qp 2)
      | .send => (s.emit (.rdmaSend qp r.data none)).emit (.rdmaAnswer qp 0)
      | .sendImm => (s.emit (.rdmaSend qp r.data (some r.immediate))).emit (.rdmaAnswer qp 0)
      | .write => (s.rdmaWriteIn qp q r).1
      | .writeImm =>
        let w := s.rdmaWriteIn qp q r
        if w.2 then w.1.emit (.rdmaSend qp [] (some r.immediate)) else w.1
      | .read =>
        if !s.regionAdmits q r false then s.rdmaRefuse qp
        else
          match s.readVa q.grove r.va r.length with
          | (s, .ok, b) => s.emit (.rdmaData qp 0 b)
          | (s, _, _) => s.rdmaRefuse qp

/-- An incoming RDMA request; grove memory is reached only while the compute dies run. -/
def execRdmaRequest (qp : Nat) (req : RdmaReq) (s : State) : Host.Outcome State Fault Refusal :=
  .next (s.onDie fun s => s.frontEnd fun s => s.rdmaRequest qp req)

/-- What a queue pair on which the G2 is requester receives: the answer to a Kiln write or read, or a congestion
notification (R114, R573). -/
def State.rdmaResponse (s : State) (qp : Nat) (r : RdmaResp) : State :=
  let mine := fun (tag : Nat) => (List.range 16).find? fun g => match s.firing g with
    | some f => f.plan.qp == qp && f.storage.tag == some tag
    | none => false
  match r with
  | .ack tag => (match mine tag with
      | some g => s.kilnAcked g true tag
      | none => s)
  | .nak tag => (match mine tag with
      | some g => s.kilnFail g true
      | none => s.slotLost tag)
  | .readData tag data => s.slotData tag data
  | .cnp => s.modHrt fun h => { h with qps := match tget h.qps qp with
      | some q => tset h.qps qp { q with cnps := q.cnps + 1 }
      | none => h.qps }

/-- An answer for a queue pair of the G2's own requests. -/
def execRdmaResponseReceive (qp : Nat) (resp : RdmaResp) (s : State) : Host.Outcome State Fault Refusal :=
  .next (s.kilnEvent fun s => s.frontEnd fun s => s.rdmaResponse qp resp)

end Sys2Proof.Machine
end

