-- ==== Sys2Proof/Machine/Heartwood.lean ====
section
/-! DEFINITION. Heartwood (ch. 20): the checked boot, the provision record, the non-renewable counters, attestation and
the mailbox. -/
namespace Sys2Proof.Machine

/-- The state with heartwood changed. -/
def State.modHwd (s : State) (f : HeartwoodState → HeartwoodState) : State := { s with hwd := f s.hwd }

/-- A fault of the boot at a stage of a copy (R642, R649). -/
def State.bootFault (s : State) (code stage : Nat) (copyB : Bool) : State :=
  let s := s.modHwd fun h => { h with failCode := code }
  let s := s.putReg .HWD_FAULT_LAST [] (BitVec.ofNat 64 (code * 2 ^ 56 + stage * 2 ^ 52 + b2n copyB * 2 ^ 51))
  let d := stage + b2n copyB * 2 ^ 4
  if code = 0x0C || code = 0x0D then s.fatal .hwd 2 code none d else s.record .hwd .contained 2 code none d

/-! ## Signed frames (R624 to R627) -/

/-- The body of a frame, its ECDSA and its LMS signature. -/
def frameBody (b : List Byte) : List Byte := b.take 256
/-- The ECDSA signature. -/
def frameEcdsa (b : List Byte) : List Byte := (b.drop 0x100).take 96
/-- The LMS signature. -/
def frameLms (b : List Byte) : List Byte := (b.drop 0x160).take 1772

/-- Bytes `off` to `off + n` of a byte string. -/
def bytesAt (b : List Byte) (off n : Nat) : List Byte := (b.drop off).take n

/-- The code of a signature failure, 0 where both verify (R625). -/
def sigCode (ecdsaKey lmsKey frame : List Byte) : Nat :=
  if frame.length < 0x84C || !Config.ecdsaVerify ecdsaKey (frameBody frame) (frameEcdsa frame) then 0x01
  else if !Config.lmsVerify lmsKey (frameBody frame) (frameLms frame) then 0x02
  else 0

/-- Most payload bytes of a stage (R626). -/
def stageLimit (k : Nat) : Nat := if k = 1 then 2 ^ 20 else if k = 2 then 2 ^ 24 else 3 * 2 ^ 24

/-- Where the next stage of a copy starts: the first 64 KiB boundary after this one's payload ends (R626). -/
def nextStage (off length : Nat) : Nat := (off + 0x880 + length + 0xFFFF) / 0x10000 * 0x10000

/-- Start of stage k of a copy. -/
def stageAt (b : List Byte) : Nat → Nat
  | 0 | 1 => 0
  | k + 1 => nextStage (stageAt b k) (leAt b (stageAt b k + 0x0C) 4)

/-- The frame of stage k, and its payload. -/
def stageFrame (b : List Byte) (k : Nat) : List Byte := bytesAt b (stageAt b k) 0x84C
/-- The payload of stage k. -/
def stagePayload (b : List Byte) (k : Nat) : List Byte :=
  bytesAt b (stageAt b k + 0x880) (leAt (stageFrame b k) 0x0C 4)

/-- The code of the first check of R627 that stage k of a copy fails, 0 where none does. Assumption: 79 (DEDUCED). -/
def stageCode (rollback : Nat) (b : List Byte) (k : Nat) : Nat :=
  let f := stageFrame b k
  let len := leAt f 0x0C 4
  let load := leAt f 0x10 8
  let svn := leAt f 8 4
  if leAt f 0 4 ≠ 0x32495748 || leAt f 4 2 ≠ 1 || leAt f 6 1 ≠ k || len > stageLimit k || svn > 1023 ||
      !zeroAt f 7 1 || !zeroAt f 0xB1 7 || !zeroAt f 0xF0 16 ||
      (k = 3 && !(0x10000000000 ≤ load && load + len ≤ 0x10800000000)) then 0x05
  else if sha384 (bytesAt f 0x50 97 ++ bytesAt f 0xB8 56) ≠ Config.romDigest then 0x03
  else if sigCode (bytesAt f 0x50 97) (bytesAt f 0xB8 56) f ≠ 0 then sigCode (bytesAt f 0x50 97) (bytesAt f 0xB8 56) f
  else if svn < rollback || [1, 2, 3].any (fun j => leAt (stageFrame b j) 8 4 ≠ svn) then 0x04
  else if (stagePayload b k).length ≠ len || sha384 (stagePayload b k) ≠ bytesAt f 0x20 48 then 0x05
  else 0

/-- The identity record (R637). -/
def identityFrame : List Byte := (List.range 0x84C).map Config.identityByte

/-- The device's serial number. -/
def serial : List Byte := bytesAt identityFrame 0x10 16

/-- The code of the first check of R632 a provision record fails under the vendor's keys, 0 where it is valid.
Assumption: 79 (DEDUCED). -/
def provCode (ecdsaKey lmsKey f : List Byte) : Nat :=
  if sigCode ecdsaKey lmsKey f ≠ 0 then sigCode ecdsaKey lmsKey f
  else if leAt f 0 4 ≠ 0x32565250 || leAt f 4 2 ≠ 1 || !zeroAt f 6 2 || leAt f 0x0C 4 > 1 || bytesAt f 0x10 16 ≠ serial ||
      !zeroAt f 0x26 2 || !zeroAt f 0x2E 2 || !zeroAt f 0x91 7 || !zeroAt f 0xD0 48 then 0x07
  else 0

/-! ## Measurement (R628) -/

/-- Extends a slot with 48 bytes. -/
def State.extend (s : State) (k : Nat) (x : List Byte) : State :=
  s.modHwd fun h => { h with slots := h.slots.modify k fun v => sha384 (v ++ padTo 48 x) }

/-! ## Boot (R629) -/

/-- The vendor's keys of the running copy. -/
def State.vendorKeys (s : State) : List Byte × List Byte :=
  let f := stageFrame s.hwd.running.bytes 1
  (bytesAt f 0x50 97, bytesAt f 0xB8 56)

/-- Heartwood restarts from the ROM (R629, step 1): slots cleared, a new boot nonce, the cores in reset. -/
def State.romStart (s : State) : State :=
  let p := s.fresh
  let s := p.2.modHwd fun h => { h with
    slots := List.replicate 8 (List.replicate 48 0), nonce := p.1, stage := 0, provOk := false, debug := false
    running := {}, svn := 0, attWait := none }
  { s with sup := { s.sup with coresUp := 0 } }

/-- Step 3: the provision record is verified and slot 3 extended. The flag says it passed. -/
def State.bootProvision (s : State) : State × Bool :=
  let keys := s.vendorKeys
  let f := s.hwd.prov.getD []
  let code := provCode keys.1 keys.2 f
  if code = 0 then
    let s := s.extend 3 (sha384 (frameBody f))
    let debug := bit (leAt f 0x0C 4) 0
    let s := if debug then s.extend 3 (List.replicate 48 1) else s
    (s.modHwd fun h => { h with provOk := true, debug := debug }, true)
  else
    let s := if code = 7 then s else s.bootFault code 1 s.hwd.copyB
    (s.bootFault 0x07 1 s.hwd.copyB, false)

/-- Step 4 of a checked stage 2: its payload is in the boot memory and hearth core 0 released. -/
def State.bootLoader (s : State) (b : List Byte) : State :=
  let s := (s.extend 1 (sha384 (frameBody (stageFrame b 2)))).modHwd fun h => { h with
    stage := 2, bootMem := (leAt (stageFrame b 2) 0x10 8, stagePayload b 2) }
  { s with sup := { s.sup with coresUp := 1 } }

/-- Marks the running copy excluded (R629). A set taken through SMBus is in no copy. -/
def State.excludeCopy (s : State) (copyB fromBus : Bool) : State :=
  if fromBus then s
  else s.modHwd fun h => if copyB then { h with excludedB := true } else { h with excludedA := true }

/-- Steps 1 to 4 on one firmware set. The answer is 0 where heartwood went as far as it could: running, or waiting for a
provision record; else the code of the check that failed. Assumption: 79 (DEDUCED). -/
def State.bootSet (s : State) (b : List Byte) (copyB fromBus : Bool) : State × Nat :=
  let s := s.romStart
  let c1 := stageCode s.hwd.rollback b 1
  if c1 ≠ 0 then ((s.bootFault c1 1 copyB).excludeCopy copyB fromBus, c1)
  else
    let s := (s.extend 0 (sha384 (frameBody (stageFrame b 1)))).modHwd fun h => { h with
      stage := 1, copyB := copyB, recovery := fromBus, running := ⟨b⟩, svn := leAt (stageFrame b 1) 8 4
      ownMem := (leAt (stageFrame b 1) 0x10 8, stagePayload b 1) }
    match s.bootProvision with
    | (s, false) => (s, 0)
    | (s, true) =>
      let c2 := stageCode s.hwd.rollback b 2
      if c2 ≠ 0 then ((s.bootFault c2 2 copyB).excludeCopy copyB fromBus, c2) else (s.bootLoader b, 0)

/-- Boots a copy that is not excluded; the flag says heartwood went as far as it could. -/
def State.bootCopy (s : State) (b : List Byte) (copyB excluded : Bool) : State × Bool :=
  if excluded then (s, false)
  else
    let r := s.bootSet b copyB false
    (r.1, r.2 == 0)

/-- Boots the first copy that is not excluded, then the other; with both excluded, HWD_BOOT_FAIL (R629). -/
def State.bootCopies (s : State) (a b : List Byte) : State :=
  match s.bootCopy a false s.hwd.excludedA with
  | (s, true) => s
  | (s, false) =>
    match s.bootCopy b true s.hwd.excludedB with
    | (s, true) => s
    | (s, false) => (s.romStart).bootFault 0x06 0 false

/-- Heartwood's boot from the flash (R629). Assumption: 79 (DEDUCED). -/
def State.boot (s : State) (a b : List Byte) (pufOk nvmUe : Bool) : State :=
  let up := (s.regFld .PWR_RAIL_STATUS [] 8 1) == 1 && s.sup.phase == .kindling && s.sup.recovery == .idle
  if !up || s.hwd.stage ≠ 0 || (s.hwd.excludedA && s.hwd.excludedB) then s
  else if !pufOk then (s.romStart).bootFault 0x0D 0 false
  else if nvmUe then (s.romStart).bootFault 0x0C 0 false
  else s.bootCopies a b

/-- Heartwood boots. Assumption: 80 (DEDUCED). -/
def execHeartwoodBoot (copyA copyB : List Byte) (pufOk nvmUe : Bool) (s : State) : Host.Outcome State Fault Refusal :=
  .next (s.unheld fun s => s.boot copyA copyB pufOk nvmUe)

/-! ## The mailbox (R641 to R645) -/

/-- A mailbox command ends with a result; one other than 0 is a fault of R642. -/
def State.mboxEnd (s : State) (opcode tag result : Nat) : State :=
  let s := s.putReg .HWD_MBOX_STATUS [] (BitVec.ofNat 64 (tag * 2 ^ 16 + result * 2 ^ 8 + 2))
  if result = 0 then s
  else
    let copy := b2n s.hwd.copyB
    let s := s.putReg .HWD_FAULT_LAST [] (BitVec.ofNat 64
      (result * 2 ^ 56 + copy * 2 ^ 51 + opcode * 2 ^ 16 + tag))
    s.record .hwd .contained 2 result none (opcode + copy * 2 ^ 8)

/-- The mailbox command in progress. -/
def State.mboxBusy (s : State) : Bool := s.regFld .HWD_MBOX_STATUS [] 0 1 == 1

/-- Takes a write of HWD_MBOX_CMD: none while heartwood's firmware is not running or the mailbox is unreachable; one that
meets a busy mailbox is recorded. `reach` is how far the command reaches from its buffer's start, 0 for no buffer; `f`
works on the buffer's offset and the tag. Assumption: 81 (DESIGN CHOICE). -/
def State.mbox (s : State) (v : Word) (reach : Nat) (f : State → Nat → Nat → State) : State :=
  let op := wfld v 16 8
  let tag := wfld v 0 16
  if s.sup.phase == .ash || s.hwd.stage = 0 then s
  else if v.getLsbD 63 && s.mboxBusy then
    (s.putReg .HWD_FAULT_LAST [] (BitVec.ofNat 64 (0x09 * 2 ^ 56 + op * 2 ^ 16 + tag))).record .hwd .contained 2 0x09
      none op
  else
    let s := s.softWrite .HWD_MBOX_CMD [] v
    if !v.getLsbD 63 then s
    else
      let o := wfld (s.getReg .HWD_MBOX_ARG []) 6 35 * 64
      if reach ≠ 0 && (!inHearth o reach || !s.islandsRun) then s.mboxEnd op tag 0x09
      else
        let s := s.putReg .HWD_MBOX_STATUS [] (BitVec.ofNat 64
          (tag * 2 ^ 16 + (s.getReg .HWD_MBOX_STATUS []).toNat / 2 % 2 * 2 + 1))
        f s o tag

/-- A command not in the table (R641). Assumption: 81 (DESIGN CHOICE). -/
def State.mboxUnknown (s : State) (v : Word) : State := s.mbox v 0 fun s _ tag => s.mboxEnd (wfld v 16 8) tag 0x09

/-- An uncorrectable NVM read in a command is fatal (R642). -/
def State.nvmRead (s : State) (op tag : Nat) (ue : Bool) (f : State → State) : State :=
  if ue then
    let s := s.putReg .HWD_FAULT_LAST [] (BitVec.ofNat 64 (0x0C * 2 ^ 56 + op * 2 ^ 16 + tag))
    (s.putReg .HWD_MBOX_STATUS [] (BitVec.ofNat 64 (tag * 2 ^ 16 + 0x0C * 2 ^ 8 + 2))).fatal .hwd 2 0x0C none op
  else f s

/-- The 640 signed bytes of an attestation report (R638). -/
def State.reportBytes (s : State) (req : List Byte) (g : Nat) (valid : Bool) : List Byte :=
  toLe 4 0x32545441 ++ toLe 2 1 ++ toLe 1 (if valid then g + 16 + b2n s.hwd.debug * 32 else b2n s.hwd.debug * 32) ++
    toLe 1 0 ++ toLe 2 (if valid then (s.grove g).generation else 0) ++
    toLe 2 (s.devnum + b2n s.devnumValid * 2 ^ 15) ++ toLe 4 s.hwd.lmsIndex ++ serial ++ toLe 4 s.hwd.svn ++
    toLe 4 s.hwd.rollback ++ toLe 8 0 ++ bytesAt req 8 48 ++ bytesAt req 0x38 64 ++ (s.hwd.slots.flatMap id) ++
    (if valid then padTo 48 (tgetD s.grv.imageDigest g []) else List.replicate 48 0) ++ List.replicate 48 0

/-- A batch that changes grove g is between its steps 1 and 5 (R76). -/
def State.loadPending (s : State) (g : Nat) : Bool :=
  match s.grv.batch with
  | some b => b.images.any fun i => i.grove == g
  | none => false

/-- ATTEST on its request buffer (R638 to R640): waits for its grove's batch; the leaf is spent before it signs. -/
def State.attest (s : State) (o tag : Nat) : State :=
  let req := s.hearthRead o 120
  let g := leAt req 0 1 % 16
  let valid := bit (leAt req 0 1) 4
  if leAt req 0 1 ≥ 32 then s.mboxEnd 1 tag 0x09
  else if valid && s.loadPending g then s.modHwd fun h => { h with attWait := some (o, tag) }
  else if valid && !(s.grove g).bound then s.mboxEnd 1 tag 0x0A
  else if s.hwd.lmsIndex ≥ 2 ^ 20 then s.mboxEnd 1 tag 0x08
  else
    let body := s.reportBytes req g valid
    let q := s.hwd.lmsIndex
    let s := s.modHwd fun h => { h with lmsIndex := q + 1 }
    let p := s.fresh
    let sig := padTo 96 (Config.ecdsaSign s.hwd.debug body p.1) ++ padTo 1772 (Config.lmsSign s.hwd.debug q body)
    ((p.2.writeLocal .hearth (o + 0x100) (body ++ sig)).1).mboxEnd 1 tag 0

/-- A batch is done: an ATTEST that waited for it goes on (R640). Assumption: 81 (DESIGN CHOICE). -/
def State.attestRetry (s : State) : State :=
  match s.hwd.attWait with
  | some (o, tag) => (s.modHwd fun h => { h with attWait := none }).attest o tag
  | none => s

/-- ATTEST. -/
def State.mbAttest (s : State) (v : Word) (ue : Bool) : State :=
  s.mbox v (0x100 + 2508) fun s o tag => s.nvmRead 1 tag ue fun s => s.attest o tag

/-- The command. -/
def execAttest (value : Word) (nvmUe : Bool) (s : State) : Host.Outcome State Fault Refusal :=
  .next (s.mbAttest value nvmUe)

/-- IDENT_READ. -/
def State.mbIdent (s : State) (v : Word) (ue : Bool) : State :=
  s.mbox v (0x100 + 0x84C) fun s o tag => s.nvmRead 2 tag ue fun s =>
    ((s.writeLocal .hearth (o + 0x100) identityFrame).1).mboxEnd 2 tag 0

/-- The command. -/
def execIdentRead (value : Word) (nvmUe : Bool) (s : State) : Host.Outcome State Fault Refusal :=
  .next (s.mbIdent value nvmUe)

/-- MEASURE_EXTEND: slots 4 to 7 only (R628). -/
def State.measureExtend (s : State) (o tag : Nat) : State :=
  let req := s.hearthRead o 56
  let k := leAt req 0 1
  if k < 4 || k > 7 then s.mboxEnd 3 tag 0x09 else (s.extend k (bytesAt req 8 48)).mboxEnd 3 tag 0

/-- MEASURE_EXTEND. -/
def State.mbMeasure (s : State) (v : Word) : State :=
  s.mbox v 0x100 fun s o tag => s.measureExtend o tag

/-- The command. -/
def execMeasureExtend (value : Word) (s : State) : Host.Outcome State Fault Refusal :=
  .next (s.mbMeasure value)

/-- The sequence number of the stored provision record, if there is one (R633). Assumption: 81 (DESIGN CHOICE). -/
def State.storedSeq (s : State) : Option Nat := (s.hwd.provPending.or s.hwd.prov).map fun f => leAt f 8 4

/-- Verifies a new provision record and stores it: 0, or the code of its failure (R633).
Assumption: 81 (DESIGN CHOICE). -/
def State.provisionSet (s : State) (f : List Byte) : State × Nat :=
  let keys := s.vendorKeys
  let code := provCode keys.1 keys.2 f
  if code ≠ 0 then (s, code)
  else if s.storedSeq.any (leAt f 8 4 ≤ ·) then (s, 0x07)
  else (s.modHwd fun h => { h with provPending := some (f.take 0x84C) }, 0)

/-- PROVISION_SET. -/
def State.mbProvision (s : State) (v : Word) (ue : Bool) : State :=
  s.mbox v 0x84C fun s o tag => s.nvmRead 4 tag ue fun s =>
    let r := s.provisionSet (s.hearthRead o 0x84C)
    r.1.mboxEnd 4 tag r.2

/-- The command. -/
def execProvisionSet (value : Word) (nvmUe : Bool) (s : State) : Host.Outcome State Fault Refusal :=
  .next (s.mbProvision value nvmUe)

/-- ROLLBACK_COMMIT: the counter rises to the running copy's svn (R631). -/
def State.rollbackCommit (s : State) (o tag : Nat) : State :=
  let n := max s.hwd.rollback s.hwd.svn
  (((s.modHwd fun h => { h with rollback := n }).writeLocal .hearth (o + 0x100) (toLe 4 n)).1).mboxEnd 5 tag 0

/-- ROLLBACK_COMMIT. -/
def State.mbRollback (s : State) (v : Word) (ue : Bool) : State :=
  s.mbox v 0x104 fun s o tag => s.nvmRead 5 tag ue fun s => s.rollbackCommit o tag

/-- The command. -/
def execRollbackCommit (value : Word) (nvmUe : Bool) (s : State) : Host.Outcome State Fault Refusal :=
  .next (s.mbRollback value nvmUe)

/-- Stage 3 of the running copy is in the hearth region and its cores released (R629, step 5).
Assumption: 80 (DEDUCED). -/
def State.startRuntime (s : State) : State :=
  let b := s.hwd.running.bytes
  let s := (s.writeLocal .hearth (leAt (stageFrame b 3) 0x10 8) (stagePayload b 3)).1
  let s := s.modHwd fun h => { h with stage := 3 }
  { s with sup := { s.sup with coresUp := 24 } }

/-- LOAD_RUNTIME (R629, step 5): from stage 2, once per boot. A failed check excludes the copy and restarts heartwood
from the ROM. -/
def State.loadRuntime (s : State) (tag : Nat) (a b : List Byte) : State :=
  let run := s.hwd.running.bytes
  let code := stageCode s.hwd.rollback run 3
  if s.hwd.stage ≠ 2 then s.mboxEnd 6 tag 0x09
  else if code ≠ 0 then
    let fromBus := s.hwd.recovery
    let s := ((s.bootFault code 3 s.hwd.copyB).putReg .HWD_MBOX_STATUS [] (BitVec.ofNat 64
      (tag * 2 ^ 16 + code * 2 ^ 8 + 2))).excludeCopy s.hwd.copyB fromBus
    s.bootCopies a b
  else ((s.extend 2 (sha384 (frameBody (stageFrame run 3)))).startRuntime).mboxEnd 6 tag 0

/-- LOAD_RUNTIME; the flash's copies are read again if heartwood restarts. -/
def State.mbLoad (s : State) (v : Word) (a b : List Byte) : State :=
  s.mbox v 0 fun s _ tag => s.loadRuntime tag a b

/-- The command. -/
def execLoadRuntime (value : Word) (copyA copyB : List Byte) (s : State) : Host.Outcome State Fault Refusal :=
  .next (s.mbLoad value copyA copyB)

/-- A warm reset or a recovery (R630): slots 4 to 7 clear; the runtime in the hearth region is compared with the stage 3
body measured at boot, and loaded again where they differ; the cores are released. Assumption: 80 (DEDUCED). -/
def State.heartwoodWarm (s : State) : State :=
  let s := s.modHwd fun h => { h with slots := h.slots.take 4 ++ List.replicate 4 (List.replicate 48 0), attWait := none }
  if s.hwd.stage ≠ 3 then s
  else
    let f := stageFrame s.hwd.running.bytes 3
    let now := s.hearthRead (leAt f 0x10 8) (leAt f 0x0C 4)
    if sha384 now = bytesAt f 0x20 48 then { s with sup := { s.sup with coresUp := 24 } } else s.startRuntime

/-- HWD_BOOT_STATUS (R646). -/
def State.bootStatus (s : State) : Word :=
  let h := s.hwd
  BitVec.ofNat 64 (h.svn * 2 ^ 32 + h.failCode * 2 ^ 16 + b2n h.excludedB * 2 ^ 11 + b2n h.excludedA * 2 ^ 10 +
    b2n h.copyB * 2 ^ 9 + b2n h.recovery * 2 ^ 8 + b2n h.debug * 2 ^ 7 + b2n h.provPending.isSome * 2 ^ 6 + h.stage)

/-- HWD_PROV_SEQ (R648). -/
def State.provSeq (s : State) : Word :=
  let seq := fun (o : Option (List Byte)) => (o.map fun f => leAt f 8 4).getD 0
  BitVec.ofNat 64 (seq s.hwd.provPending * 2 ^ 32 + seq s.hwd.prov)

end Sys2Proof.Machine
end

