-- ==== Sys2Proof/Machine/Resets.lean ====
section
/-! DEFINITION. What a grove reset and a warm reset clear (R654 to R657). -/
namespace Sys2Proof.Machine

/-- The step of a grove's last commit: its own once it is committed or closed, else the one before (R34, R654).
Assumption: 63 (DEDUCED). -/
def GroveStep.committedStep (x : GroveStep) : Nat :=
  match x.st with
  | .closed => x.step
  | .committed => x.step
  | .running => stepPred x.step
  | .sealed => stepPred x.step
  | .voided => stepPred x.step

/-- The grove is CLOSED at its last committed step, attempt 0, with nothing gathered (R654). -/
def State.closeStep (s : State) (g : Nat) : State :=
  s.modStep g fun x => { st := .closed, step := x.committedStep, delivered := x.delivered, restorePending := x.restorePending }

/-- The grove that a fetched command acts on is g. -/
def State.cmdOf (s : State) (g q : Nat) (c : Cmd) : Bool := s.actsOn q c == some g

/-- Completes ABORTED every fetched command that `p` names (R102, R654). Assumption: 29 (DESIGN CHOICE). -/
def State.abortCmds (s : State) (p : Nat → Cmd → Bool) : State :=
  let gone := fun q i => match s.cmd q i with
    | some c => p q c
    | none => false
  let s := { s with
    sch := { s.sch with injects := s.sch.injects.filter fun x => !gone x.queue x.index }
    gth := { s.gth with cmds := s.gth.cmds.filter fun x => !gone x.queue x.index }
    col := { s.col with heldOpens := s.col.heldOpens.filter fun x => !gone x.1 x.2 } }
  s.each s.hrt.queues fun s q =>
    let s := if q.2.waiting && q.2.cmds.all (p q.1) then s.modQueue q.1 fun x => { x with waiting := false } else s
    s.each (q.2.cmds.filter (p q.1)) fun s c => s.complete q.1 c.index .aborted 0

/-- The long operations of a grove end (R656): field tests on its objects, the map-out of a channel of its own, its
firing, its restore. -/
def State.abortLong (s : State) (g : Nat) : State :=
  let tested := fun (f : FieldTest) => (s.testGroves f.kind f.object).contains g || match f.owner with
    | some (q, i) => ((s.cmd q i).map fun c => s.cmdOf g q c).getD false
    | none => false
  let s := s.abortTests tested
  let s := s.each [0, 1] fun s d =>
    match tget s.mem.mapouts d with
    | some m => if s.channelOwner m.source == some g then s.abortMapout d else s
    | none => s
  let s := s.strikeFiring g
  match tget s.kln.restores g with
  | some r =>
    (s.modKln fun x => { x with restores := terase x.restores g, reads := x.reads.filter fun p =>
      !(p.2.grove == g && p.2.probe.isNone) }).complete r.queue r.index .aborted 0
  | none => s

/-- Messages, requests and row transfers of a grove that wait are dropped. -/
def State.dropWaiting (s : State) (g : Nat) : State :=
  let serveOf := fun (h : HeldServe) => match h with
    | .adjRange _ o _ => o.grove
    | .adjPick _ o _ => o.grove
    | .rowRead _ o _ => o.grove
    | .rowAccumulate _ o _ => o.grove
    | .kilnWrite _ o _ => o.grove
  let memOf := fun (h : HeldMem) => match h with
    | .req r => r.origin.grove
    | .acc a => a.origin.grove
  let s := { s with
    lnk := { s.lnk with held := s.lnk.held.filter (·.grove != g), serve := s.lnk.serve.filter fun h => serveOf h != g }
    mem := { s.mem with held := s.mem.held.filter fun h => memOf h != g }
    grv := { s.grv with budgets := tmap s.grv.budgets fun k b => if k / 8 % 16 = g then { b with held := 0 } else b } }
  s.modEmb fun x => { x with
    staged := terase x.staged g
    heldLast := terase x.heldLast g
    heat := x.heat.filter fun p => p.1 % 16 != g
    copies := x.copies.filter fun p => p.2.grove != g
    refreshes := x.refreshes.filter fun p => p.2.grove != g
    flipsDue := x.flipsDue.filter fun f => f.grove != g
    heldReads := x.heldReads.filter fun h => h.origin.grove != g
    applied := terase x.applied g }

/-- What the collective engines hold of a grove's attempt is discarded; descriptors stay (R654). -/
def State.dropAttempt (s : State) (g : Nat) : State :=
  (s.restartReductions g).modCol fun x => { x with
    sent := x.sent.filter fun p => p.1 / 2 ^ 32 % 16 != g
    pieces := x.pieces.filter fun p => p.1 / 2 ^ 32 % 16 != g
    received := x.received.filter fun p => p.1 / 4096 % 16 != g
    tally := x.tally.filter fun p => p.1 % 16 != g }

/-- The flits a grove of this device originated leave the transmit queues (R65, R654). -/
def State.dropFlits (s : State) (g : Nat) (p : Nat → Bool) : State :=
  let mine := fun (f : LFlit) => f.grove == g && f.src == s.devnum
  s.each (allPorts.filter p) fun s k =>
    if (s.port k).tx.isEmpty then s else s.modPort k fun q => { q with tx := q.tx.filter fun f => !mine f }

/-- What both resets do to one grove (R654, R656). -/
def State.wipeGrove (s : State) (g : Nat) : State :=
  let s := (s.abortLong g).abortCmds fun q c => s.cmdOf g q c
  let s := (s.flushBuffers fun c => s.channelOwner c == some g).closeStep g
  let s := (s.discardTasks (fun _ x => x.task.grove == g) true).zeroFlows g
  let s := s.each [0, 1] fun s d => s.putFld .SCH_FAULTED [d] g 1 0
  let s := s.each (s.ownedReds 0 g ++ s.ownedReds 1 g) fun s d => (s.zeroBuffer g d 0).zeroBuffer g d 1
  let s := ((s.voidUpdate g 0).voidUpdate g 1).modUpd fun x => { x with faults := x.faults.filter (· % 16 != g) }
  let s := ((s.dropGather g).voidSampler g).clearHists g
  let s := s.each (List.range 64) fun s k =>
    if (s.prog k).grove = g && (s.prog k).live then s.modProg k fun p => { p with live := false } else s
  let s := s.each ((List.range 128).filter fun t => s.tileOwner t == some g && (s.watchTile t).recompute != 0) fun s t =>
    s.modTile t fun w => { w with recompute := 0 }
  ((s.dropAttempt g).dropWaiting g).dropChecks fun p => p.grove == g

/-- A grove reset of `g` (R653, R654, R657), with its record. -/
def State.groveReset (s : State) (g : Nat) : State :=
  let s := ((s.wipeGrove g).dropFlits g fun _ => true).qpErrors fun _ q => q.grove == g
  ((s.record .glb .corrected 2 0x04 (some g) (5 + g * 16)).unstall).judge.memRetry

/-- A grove reset that met a batch is applied once the batch has ended (R656): its phases and its grove are judged
again on the resulting binding. Assumption: 27 (DESIGN CHOICE). -/
def State.heldResets (s : State) : State :=
  let l := s.sup.heldGroveResets
  let s := { s with sup := { s.sup with heldGroveResets := [] } }
  s.each l fun s g =>
    if (s.grove g).bound then (s.groveReset g).recoverResult 0 else s.recoverRefused 5 2

/-- What follows the end of a batch: an ATTEST that waited for it, a grove reset that met it (R640, R656).
Assumption: 27 (DESIGN CHOICE). -/
def State.afterBatch (s : State) : State := s.attestRetry.heldResets

/-- A port past its alignment starts again from there; its flits are lost and counted (R446, R453).
Assumption: 29 (DESIGN CHOICE). -/
def State.portRestart (s : State) (p : Nat) : State :=
  let q := s.port p
  if q.st == .align || q.st == .identify || q.st == .active || q.st == .retrain then
    let s := s.bumpPort p .LNK_LOST_T .LNK_LOST_B (q.replay.length + q.rx.length + q.tx.length)
    s.modPort p fun q => { q with
      st := .align, lanes := q.lanes.map fun l => if l = 2 then 1 else l, partner := none, replay := [], rx := [], tx := []
      credits := [], returns := [0, 0, 0, 0, 0, 0, 0, 0], replayTimes := [] }
  else s

/-- Every queue and the batch registers are back at their reset values (R655). Assumption: 29 (DESIGN CHOICE). -/
def State.queuesReset (s : State) : State :=
  let s := { s with hrt := { s.hrt with queues := [] } }
  let s := s.each (List.range 128) fun s q =>
    (((s.resetReg .HLK_QBASE [q]).resetReg .HLK_QCBASE [q]).resetReg .HLK_QCFG [q]).resetReg .HLK_QDOORBELL [q]
  ((s.resetReg .GRV_BATCH_ADDR []).resetReg .GRV_LOAD []).resetReg .GRV_LOAD_STATUS []

/-- A warm reset, but for its record (R654 to R656). Assumption: 29 (DESIGN CHOICE). -/
def State.warmReset (s : State) : State :=
  let s := s.dropBatch.attestRetry
  let s := s.abortTests fun _ => true
  let s := s.each (List.range 16) fun s g => s.wipeGrove g
  let s := (s.each [0, 1] fun s d => s.abortMapout d).flushBuffers fun _ => true
  let s := (s.abortCmds fun _ _ => true).queuesReset
  let s := s.each allPorts fun s p => s.portRestart p
  let s := s.modHrt fun h => { h with
    links := tmap h.links fun _ x => if x.carries then { x with state := 1 } else x }
  let s := (s.each (s.hrt.sessions.map (·.1)) fun s i => s.closeSession i).qpErrors fun _ _ => true
  let s := { s with hrt := { s.hrt with qps := [], regions := [] }, lnk := { s.lnk with held := [], serve := [] } }
  (s.heartwoodWarm).memRetry

end Sys2Proof.Machine
end

