-- ==== Sys2Proof/Machine/Groves.lean ====
section
/-! DEFINITION. The grove manager (ch. 2): images and batches, the background scrub, budgets, stale acknowledgements and
the binding digest. -/
namespace Sys2Proof.Machine

/-! ## The grove image (R49 to R55) -/

/-- An image, as its bytes spell it: sections by type. -/
structure Image where
  kind : Nat
  grove : Nat
  gen : Nat
  base : Nat
  device : Nat
  jobTag : Nat
  secs : List (Nat × List Byte)
  digest : List Byte
  deriving DecidableEq, Repr

/-- The sections of an image, of which there are `n` (R51). -/
def parseSections : Nat → List Byte → Option (List (Nat × List Byte))
  | 0, b => if b.isEmpty then some [] else none
  | n + 1, b =>
    let len := leAt b 4 4
    if b.length < 16 || !zeroAt b 2 2 || !zeroAt b 8 8 || len % 8 ≠ 0 || b.length < 16 + len then none
    else (parseSections n (b.drop (16 + len))).map fun r => (leAt b 0 2, (b.drop 16).take len) :: r

/-- The u64 words of a body. -/
def u64s (b : List Byte) : List Nat := (List.range (b.length / 8)).map fun i => leAt b (8 * i) 8

/-- Ranges (first, count) that do not overlap. -/
def apart : List (Nat × Nat) → Bool
  | [] => true
  | r :: t => (t.all fun q => r.1 + r.2 ≤ q.1 || q.1 + q.2 ≤ r.1) && apart t

/-- The ranges of a KNOTS body. -/
def knotRanges (b : List Byte) : List (Nat × Nat) := (u64s b).map fun w => (fld w 0 14, fld w 16 14)

/-- The stream ranges of a TWIG body, as given for CD0 and CD1. -/
def twigRanges (b : List Byte) : List (Nat × Nat) := ((u64s b).drop 1).map fun w => (fld w 0 12, fld w 16 13)

/-- A TWIG stream range of `n` streams lies on the die it is given for. -/
def streamRangeOk (w die : Nat) : Bool :=
  let first := fld w 0 12
  let n := fld w 16 13
  w / 2 ^ 29 == 0 && fld w 12 4 == 0 && n ≤ 2048 && (n == 0 || (2048 * die ≤ first && first + n ≤ 2048 * (die + 1)))

/-- A section's body is valid (R53 to R55, R79). -/
def sectionOk (device type : Nat) (b : List Byte) : Bool :=
  if type = 1 then
    let within := fun (x : Nat) => 100 ≤ x && x ≤ 10000000
    b.length == 64 && leAt b 0 8 < 2 ^ 48 && leAt b 8 8 < 2 ^ 41 && leAt b 8 8 % 2 ^ 12 == 0 && within (leAt b 0x10 4) &&
      within (leAt b 0x14 4) && 157 ≤ leAt b 0x18 4 && leAt b 0x18 4 < 2 ^ 24 && leAt b 0x1C 1 ≤ 2 && leAt b 0x1D 1 ≤ 1 &&
      leAt b 0x1E 1 < 16 && zeroAt b 0x1F 33
  else if type = 2 then b.length == 4096 && bit (leAt b (device / 8) 1) (device % 8)
  else if type = 3 then b.length == 16
  else if type = 4 then b.length == 64 && zeroAt b 60 4
  else if type = 5 then
    let w := leAt b 0 8
    b.length == 8 && fld w 6 2 == 0 && fld w 14 2 == 0 && w < 2 ^ 48 && fld w 8 6 &&& fld w 0 6 == fld w 8 6 &&
      fld w 32 16 &&& fld w 16 16 == fld w 32 16
  else if type = 6 then
    let ok := fun (w : Nat) =>
      let n := fld w 16 14
      fld w 14 2 == 0 && w < 2 ^ 30 && 1 ≤ n && n ≤ 8192 && fld w 0 14 / 8192 == (fld w 0 14 + n - 1) / 8192
    1 ≤ b.length && b.length ≤ 512 && (u64s b).all ok && apart (knotRanges b)
  else if type = 7 then
    let ws := u64s b
    b.length == 24 && ws.getD 0 0 < 2 ^ 32 && streamRangeOk (ws.getD 1 0) 0 && streamRangeOk (ws.getD 2 0) 1
  else if type = 8 then
    let w := leAt b 0 8
    b.length == 8 && fld w 12 4 == 0 && w < 2 ^ 29 && 1 ≤ fld w 16 13 && fld w 0 12 + fld w 16 13 ≤ 4096
  else if type = 9 then
    let ats := (List.range (b.length / 16)).map (16 * ·)
    let ok := fun (o : Nat) => leAt b o 1 < 7 && leAt b (o + 1) 1 ≤ 2 && zeroAt b (o + 2) 6 &&
      1 ≤ leAt b (o + 8) 4 && leAt b (o + 8) 4 < 2 ^ 31 && 1 ≤ leAt b (o + 12) 4 && leAt b (o + 12) 4 < 2 ^ 31
    let acts := ats.map fun o => leAt b o 1
    1 ≤ b.length && b.length ≤ 128 && b.length % 16 == 0 && ats.all ok && acts.eraseDups == acts
  else false

/-- The body of a section, if the image carries it. -/
def Image.sec (i : Image) (type : Nat) : Option (List Byte) := (i.secs.find? fun p => p.1 == type).map (·.2)

/-- What each kind must carry (R53). -/
def Image.carries (i : Image) : Bool :=
  if i.kind = 0 then
    i.base == 0 && (i.sec 1).isSome && (i.sec 3).any (fun b => le b != 0) && (i.sec 4).any fun b => le b != 0
  else i.kind == 1 || i.secs.isEmpty

/-- An image of valid format (R49 to R55); none where it fails with FORMAT. -/
def parseImage (b : List Byte) : Option Image :=
  let n := b.length
  let head := leAt b 0 4 == 0x32565247 && leAt b 4 2 == 1 && leAt b 6 1 ≤ 2 && leAt b 7 1 < 16 && leAt b 0x0E 2 < 2 ^ 15 &&
    zeroAt b 0x18 40 && leAt b (n - 64) 4 == 0x32444E45 && zeroAt b (n - 60) 12
  match parseSections (leAt b 0x0C 2) ((b.drop 64).take (n - 128)) with
  | some secs =>
    let i : Image := { kind := leAt b 6 1, grove := leAt b 7 1 % 16, gen := leAt b 8 2, base := leAt b 0x0A 2,
                       device := leAt b 0x0E 2, jobTag := leAt b 0x14 4, secs := secs, digest := b.drop (n - 48) }
    if head && rising (secs.map (·.1)) && secs.all (fun p => sectionOk i.device p.1 p.2) && i.carries then some i else none
  | none => none

/-- The PARAMS of a body (R55). -/
def parseParams (b : List Byte) : Params :=
  { firstStep := leAt b 0 8, pageTableRoot := leAt b 8 8, commitTimeoutUs := leAt b 0x10 4,
    voidBarrierTimeoutUs := leAt b 0x14 4, budgetPeriodTicks := leAt b 0x18 4, checkpointMode := leAt b 0x1C 1,
    memMapMode := leAt b 0x1D 1, smokeThreshold := leAt b 0x1E 1 }

/-- The BUDGETS of a body (R79): activity, mode and both amounts. -/
def parseBudgets (b : List Byte) : List (Nat × Nat × Nat × Nat) :=
  (List.range (b.length / 16)).map fun i => (leAt b (16 * i) 1, leAt b (16 * i + 1) 1, leAt b (16 * i + 8) 4, leAt b (16 * i + 12) 4)

/-- The binding an image leaves of a grove (R53, R66). -/
def Image.apply (i : Image) (old : Grove) : Grove :=
  let base : Grove := if i.kind = 1 then old else { bound := i.kind == 0, members := if i.kind = 0 then 2 ^ i.device else 0 }
  let g := { base with generation := i.gen, jobTag := i.jobTag }
  let g := match i.sec 1 with
    | some b => { g with params := parseParams b }
    | none => g
  let g := match i.sec 2 with
    | some b => { g with members := le b }
    | none => g
  let g := match i.sec 3 with
    | some b => { g with tiles := le b }
    | none => g
  let g := match i.sec 4 with
    | some b => { g with channels := le b }
    | none => g
  let g := match i.sec 5 with
    | some b => { g with trunkUse := fld (le b) 0 6, trunkExcl := fld (le b) 8 6, branchUse := fld (le b) 16 16, branchExcl := fld (le b) 32 16 }
    | none => g
  let g := match i.sec 6 with
    | some b => { g with knots := knotRanges b }
    | none => g
  let g := match i.sec 7 with
    | some b => { g with lanes := leAt b 0 4, streams := (twigRanges b).filter fun r => r.2 != 0 }
    | none => g
  match i.sec 8 with
  | some b => { g with tables := (fld (le b) 0 12, fld (le b) 16 13) }
  | none => g

/-! ## Validation (R57, R62) -/

/-- Two lists of ranges meet. -/
def rangesMeet (a b : List (Nat × Nat)) : Bool := a.any fun r => b.any fun q => r.1 < q.1 + q.2 && q.1 < r.1 + r.2 && r.2 != 0 && q.2 != 0

/-- Two groves claim one resource, or one claims as exclusive a port the other uses (R45, R62). -/
def Grove.clash (a b : Grove) : Bool :=
  a.tiles &&& b.tiles != 0 || a.channels &&& b.channels != 0 || rangesMeet a.knots b.knots || a.lanes &&& b.lanes != 0 ||
    rangesMeet a.streams b.streams || rangesMeet [a.tables] [b.tables] ||
    a.trunkExcl &&& b.trunkUse != 0 || a.trunkUse &&& b.trunkExcl != 0 || a.branchExcl &&& b.branchUse != 0 ||
    a.branchUse &&& b.branchExcl != 0

/-- The 64-byte lines of a range of grove-virtual addresses. -/
def linesOf (va n : Nat) : List Nat := (List.range ((n + 63) / 64)).map fun i => va + 64 * i

/-- The lines where a row of a regraft or tombstone lies on this device. -/
def State.entryLines (s : State) (e : RowEntry) : List Nat :=
  match (s.tableIx e.grove e.table).bind fun ix => (s.tableSlot ix).version e.version with
  | none => []
  | some d =>
    let b := bucketOf (homeHash e.table e.row) d.log2Buckets
    let row := fun (p : Nat × Nat) => linesOf p.1 (d.rowPitch * 64) ++ linesOf p.2 (d.statePitch * 64)
    let tags := s.peekVa e.grove (d.tags + 64 * b) 64
    let way := (List.range 8).find? fun w => bit (leAt tags 48 1) w && leAt tags (6 * w) 6 == e.row
    let here := (d.tags + 64 * b) :: match way with
      | some w => row (d.rows + (8 * b + w) * d.rowPitch * 64, d.state + (8 * b + w) * d.statePitch * 64)
      | none => []
    match e.kind with
    | .pendIn _ k => row (d.slotVa k)
    | .pendOut _ _ _ => (match s.graftOf e.grove e.table e.version e.row with
      | some (_, k) => row (d.slotVa k)
      | none => here)
    | .tombstone _ _ => here
    | _ => []

/-- A regraft or a forwarding tombstone of the grove lies on one of the channels of a mask (R62).
Assumption: 33 (DESIGN CHOICE). -/
def State.entryOn (s : State) (g removed : Nat) : Bool :=
  (s.emb.entries.filter (·.grove == g)).any fun e => (s.entryLines e).any fun va =>
    match (s.translate g va).bind s.locate with
    | some p => removed.testBit p.1
    | none => false

/-- Bits set in one mask and not the other, or in both the other way round. -/
def maskXor (a b : Nat) : Nat := a ^^^ b

/-- A running field test holds an object whose binding the change would alter (R543). -/
def State.testHolds (s : State) (old new : Grove) : Bool :=
  s.wch.tests.any fun f =>
    if f.kind ≤ 6 then (maskXor old.tiles new.tiles).testBit f.object
    else if f.kind = 9 then (maskXor old.channels new.channels).testBit f.object
    else if f.kind = 10 then
      (if f.object < 6 then (maskXor old.trunkUse new.trunkUse).testBit f.object
       else (maskXor old.branchUse new.branchUse).testBit (f.object - 16))
    else false

/-- The result of validating an image against the state the images before it leave (R57, R62): 0 for OK.
Assumptions: 32 (DESIGN CHOICE), 34 (DESIGN CHOICE). -/
def State.checkImage (s : State) (work : Tbl Grove) (i : Image) (new : Grove) : Nat :=
  let old := tgetD work i.grove {}
  let rose := subMod 16 i.gen old.generation
  let claimed := (List.range 480).filter fun c => new.channels.testBit c && !old.channels.testBit c
  let busy := ((List.range 16).any fun h => h != i.grove && (tgetD work h {}).bound && new.clash (tgetD work h {})) ||
    s.testHolds old new || s.mem.mapouts.any (fun m => claimed.contains m.2.spare) ||
    (List.range 16).any fun p => new.branchUse.testBit p && !old.branchUse.testBit p && (s.standinOf (16 + p)).isSome
  let reserved := claimed.any (fun c => isHearthChannel c || (s.channel c).absent) ||
    (List.range 128).any fun t => new.tiles.testBit t && !old.tiles.testBit t && (s.watchTile t).excluded
  let active := (s.step_ i.grove).st != .closed || (s.firing i.grove).isSome ||
    s.entryOn i.grove (old.channels - (old.channels &&& new.channels))
  let root := new.params.pageTableRoot
  let rootOk := root < 2 ^ 40 &&
    (match { s with grv := { s.grv with groves := tset work i.grove new } }.locate root with
     | some p => new.channels.testBit p.1
     | none => false)
  if !s.devnumValid || i.device ≠ s.devnum then 0x03
  else if rose = 0 || rose > 32767 then 0x04
  else if (i.kind == 0) == old.bound then 0x06
  else if i.kind ≠ 0 && i.base ≠ old.generation then 0x05
  else if busy then 0x07
  else if reserved then 0x08
  else if active then 0x09
  else if claimed.any (fun c => tgetD s.grv.bindCount c 0 ≥ 2 ^ 32 - 1) || (s.hwd.stage = 0 && !claimed.isEmpty) then 0x0B
  else if new.bound && !rootOk then 0x0C
  else 0

/-- Steps 1 and 2 read and judge images one after another: the tables left, the images, or the result, the failing image
and its grove. -/
inductive Judged where
  | ok (work : Tbl Grove) (images : List BatchImage)
  | fail (result image : Nat) (grove : Option Nat)
  deriving DecidableEq, Repr

/-- Step 2 on images with their list index (R57). Assumption: 32 (DESIGN CHOICE). -/
def State.judgeImages (s : State) (work : Tbl Grove) : List (List Byte × Nat) → Judged
  | [] => .ok work []
  | (b, k) :: rest =>
    match parseImage b with
    | none => .fail 0x01 k (some (leAt b 7 1 % 16))
    | some i =>
      let new := i.apply (tgetD work i.grove {})
      let code := s.checkImage work i new
      if code ≠ 0 then .fail code k (some i.grove)
      else
        match s.judgeImages (tset work i.grove new) rest with
        | .ok w l => .ok w ({ grove := i.grove, kind := i.kind, index := k, gen := i.gen, params := (i.sec 1).isSome,
                              channels := (i.sec 4).isSome, firstStep := new.params.firstStep, digest := i.digest,
                              budgets := if i.kind = 2 then some [] else if i.kind = 0 then some (((i.sec 9).map parseBudgets).getD [])
                                         else (i.sec 9).map parseBudgets } :: l)
        | f => f

/-- What step 1 reads: the images, or the result of a failing one, or a fetch that is uncorrectable (R404). -/
inductive Fetched where
  | ok (images : List (List Byte))
  | fail (result image : Nat) (grove : Option Nat)
  | ue (off : Nat)
  deriving DecidableEq, Repr

/-- Step 1 on list entries with their index (R56, R64). -/
def State.readImages (s : State) : List (Nat × Nat) → State × Fetched
  | [] => (s, .ok [])
  | (e, k) :: rest =>
    if e ≥ 2 ^ 41 || e % 64 ≠ 0 then (s, .fail 0x01 k none)
    else if !inHearth e 64 then (s, .fail 0x0C k none)
    else
      match s.readLocal .hearth e 64 with
      | (s, .ok, head) =>
        let n := leAt head 0x10 4
        if n % 8 ≠ 0 || n < 128 || n > 8192 then (s, .fail 0x01 k (some (leAt head 7 1 % 16)))
        else if !inHearth e n then (s, .fail 0x0C k (some (leAt head 7 1 % 16)))
        else
          (match s.readLocal .hearth e n with
           | (s, .ok, b) =>
             if sha384 (b.take (n - 48)) ≠ b.drop (n - 48) then (s, .fail 0x02 k (some (leAt head 7 1 % 16)))
             else
               (match s.readImages rest with
                | (s, .ok l) => (s, .ok (b :: l))
                | r => r)
           | (s, _, _) => (s, .ue e))
      | (s, _, _) => (s, .ue e)

/-! ## Batches (R64) -/

/-- A batch ends with its result (R61, R62). -/
def State.endBatch (s : State) (goAt result image : Nat) : State :=
  let us := min 0xFFFF (s.aonUs - goAt)
  { s with grv := { s.grv with batch := none } }.putReg .GRV_LOAD_STATUS []
    (BitVec.ofNat 64 (us * 2 ^ 32 + image * 2 ^ 24 + result * 2 ^ 8 + 2))

/-- A batch fails: nothing changes but its status, with a contained record (R62). -/
def State.failBatch (s : State) (goAt result image : Nat) (grove : Option Nat) : State :=
  let s := if result = 0x0B then s.record .hwd .contained 2 0x0B grove 0 else s
  ((s.endBatch goAt result image).record .grv .contained 0 result grove image).afterBatch

/-- The owner of a resource in binding tables, by a test on a grove. -/
def ownerIn (t : Tbl Grove) (p : Grove → Bool) : Option Nat :=
  (List.range 16).find? fun g => (tgetD t g {}).bound && p (tgetD t g {})

/-- The resource `p` tells of changes grove between two binding tables; a grove bound anew (`fresh`) is another grove.
Assumption: 33 (DESIGN CHOICE). -/
def moved (old new : Tbl Grove) (fresh : List Nat) (p : Grove → Bool) : Bool :=
  let a := ownerIn old p
  let b := ownerIn new p
  a != b || b.any fresh.contains

/-- Step 3 begins: the tiles that change grove take no new work, and the map-out of a channel that leaves its grove ends
(R64, R411). Assumption: 33 (DESIGN CHOICE). -/
def State.startBatch (s : State) (work : Tbl Grove) (images : List BatchImage) : State :=
  let fresh := (images.filter (·.kind == 0)).map (·.grove)
  let old := s.grv.groves
  let tiles := ((List.range 128).filter fun t => moved old work fresh fun g => g.tiles.testBit t).foldl (fun m t => m + 2 ^ t) 0
  let joins := (List.range 480).filter fun c =>
    moved old work fresh (fun g => g.channels.testBit c) && (ownerIn work fun g => g.channels.testBit c).isSome
  let s := s.each [0, 1] fun s d =>
    match tget s.mem.mapouts d with
    | some m => if (s.channelOwner m.source).isSome && moved old work fresh (fun g => g.channels.testBit m.source) then
        s.abortMapout d else s
    | none => s
  let b : Batch := { goAt := s.aonUs, applied := false, groves := work, images := images, channels := joins, tiles := tiles }
  { s with grv := { s.grv with batch := some b } }

/-- A write of GRV_LOAD with go (R60, R64): steps 1 and 2. Assumptions: 32 (DESIGN CHOICE), 83 (DEDUCED). -/
def State.batchGo (s : State) (v : Word) : State :=
  if s.grv.batch.isSome then s.record .grv .contained 0 0x0D none 0
  else
    let s := (s.softWrite .GRV_LOAD [] v).putFld .GRV_LOAD_STATUS [] 0 1 1
    let now := s.aonUs
    let n := wfld v 0 6
    let base := wfld (s.getReg .GRV_BATCH_ADDR []) 6 35 * 64
    if s.sup.phase == .kindling || s.testMode then s.failBatch now 0x06 0 none
    else if n = 0 || n > 32 then s.failBatch now 0x01 0 none
    else if !inHearth base (8 * n) then s.failBatch now 0x0C 0 none
    else
      let ue := fun (s : State) (off : Nat) =>
        ({ s with grv := { s.grv with batch := none } }).fatal .mem 0 0x0E none (((s.locate off).map fun (p : Nat × Nat) => memDetail p.1 p.2).getD 0)
      match s.readLocal .hearth base (8 * n) with
      | (s, .ok, list) =>
        (match s.readImages ((List.range n).map fun k => (leAt list (8 * k) 8, k)) with
         | (s, .ok images) =>
           (match s.judgeImages s.grv.groves images.zipIdx with
            | .ok work l => s.startBatch work l
            | .fail r k g => s.failBatch now r k g)
         | (s, .fail r k g) => s.failBatch now r k g
         | (s, .ue off) => ue s off)
      | (s, _, _) => ue s base

/-- GRV_LOAD written with go. -/
def execBatchGo (value : Word) (s : State) : Host.Outcome State Fault Refusal :=
  .next (s.onDie fun s => s.batchGo (setFld value 7 1 1))

/-! ### Step 4 (R64 to R66, R144, R215, R275, R561) -/

/-- Budgets of a grove as an image loads them (R79, R81, R82): at a bind the credits start at their amounts, an unbind
leaves none, and otherwise a change waits for the next period start. Assumption: 35 (DEDUCED). -/
def State.loadBudgets (s : State) (g kind : Nat) (l : List (Nat × Nat × Nat × Nat)) : State :=
  s.each [0, 1] fun s d => s.each (List.range 8) fun s a =>
    let e := (l.find? fun x => x.1 == a).getD (a, 0, 0, 0)
    let mode := e.2.1
    let amount := if d = 0 then e.2.2.1 else e.2.2.2
    let s := s.putReg .GRV_BUDGET [d, g, a] (BitVec.ofNat 64 (mode * 2 ^ 32 + amount))
    if kind = 1 then
      let b := s.budget d g a
      if b.mode = mode && b.amount = amount then s.modBudget d g a fun b => { b with reload := false }
      else s.modBudget d g a fun b => { b with reload := true }
    else s.modBudget d g a fun b => { mode := mode, amount := amount, credit := amount, borrowed := b.borrowed }

/-- Commands that met the old generation and have not started complete STALE_GROVE (R102, R127). -/
def State.staleCmds (s : State) (g : Nat) : State :=
  let s := s.each s.sch.injects fun s p =>
    match s.cmd p.queue p.index with
    | some c => if c.grove = g then (s.endInject p.queue p.index).staleCommand p.queue p.index g else s
    | none => s
  let s := s.each (s.gth.cmds.filter fun c => c.grove == g && c.st == .waiting) fun s c =>
    (s.modGth fun x => { x with cmds := x.cmds.filter fun y => !(y.queue == c.queue && y.index == c.index) }).staleCommand
      c.queue c.index g
  s.each s.hrt.queues fun s q =>
    s.each (q.2.cmds.filter fun c => !c.started && s.actsOn q.1 c == some g && !s.groveIs g c.gen) fun s c =>
      s.staleCommand q.1 c.index g

/-- What an image of a grove does beyond the tables (R66, R76, R81, R144). -/
def State.applyImage (s : State) (i : BatchImage) : State :=
  let g := i.grove
  let s := { s with grv := { s.grv with imageDigest := tset s.grv.imageDigest g i.digest } }
  let s := ((s.staleCmds g).detachGrove g).regrovePlan g i.gen (i.kind = 1 && !i.channels)
  let s := match i.budgets with
    | some l => s.loadBudgets g i.kind l
    | none => s
  if i.kind = 0 then
    let s := { s with wch := { s.wch with heat := terase s.wch.heat g } }
    let s := (((s.zeroFlows g).clearHists g).freshPages g).modUpd fun x => { x with faults := x.faults.filter (· % 16 != g) }
    s.modStep g fun _ => { st := .closed, step := stepPred i.firstStep }
  else if i.kind = 2 then
    let s := (((s.dropGather g).dropCollect g).dropEmb g).dropUpdate g
    let s := (s.clearHists g).dropWaiting g
    { s with pageMap := terase s.pageMap g }
  else if i.params then s.freshPages g
  else s

/-- A channel that changes grove (R65, R69 to R71): what the old grove wrote is gone; one that joins a grove has a new key
and its grove's ECC mode. Assumption: 34 (DESIGN CHOICE). -/
def State.rekey (s : State) (joins : List Nat) (c : Nat) : State :=
  let s := { s with mem := { s.mem with
    cells := cellDrop s.mem.cells (place c 0) (place (c + 1) 0)
    written := s.mem.written.filter fun l => l / 2 ^ 25 != c
    bad := s.mem.bad.filter fun l => l / 2 ^ 25 != c
    saturated := s.mem.saturated.filter fun w => w / 2 ^ 29 != c } }
  let s := s.modChannel c fun x => { x with wcb := [], adders := [], scrubPos := 0, scrubbing := false }
  if joins.contains c then
    let mode := ((s.channelOwner c).map fun g => (s.grove g).params.memMapMode).getD 0
    let s := s.modChannel c fun x => { x with ecc := mode }
    { s with grv := { s.grv with bindCount := tset s.grv.bindCount c (tgetD s.grv.bindCount c 0 + 1) } }
  else s

/-- Step 4 and the clears of step 5 (R64, R65). -/
def State.switchBatch (s : State) (b : Batch) : State :=
  let fresh := (b.images.filter (·.kind == 0)).map (·.grove)
  let gone := (b.images.filter (·.kind == 2)).map (·.grove)
  let old := s.grv.groves
  let ch := fun p => moved old b.groves fresh p
  let s := s.each b.images fun s i => s.discardGrove i.grove
  let s := s.clearTables fun ix => ch fun g => g.tables.1 ≤ ix && ix < g.tables.1 + g.tables.2
  let s := s.each (List.range 16) fun s g =>
    let lost := fun (p : Nat) =>
      let use := fun (x : Grove) => if p < 6 then x.trunkUse.testBit p else x.branchUse.testBit (p - 16)
      use (tgetD old g {}) && (!use (tgetD b.groves g {}) || fresh.contains g)
    s.dropFlits g lost
  let s := { s with grv := { s.grv with groves := b.groves, batch := some { b with applied := true } } }
  let s := s.each b.images State.applyImage
  let s := s.each ((List.range 128).filter fun t => b.tiles.testBit t) fun s t => ((s.discardTile t).resetTile t).watchRegrove t
  let s := s.clearKnots fun k => ch fun g => inRanges g.knots k
  let s := s.dropLanes fun l _ => ch fun g => g.lanes.testBit l
  let s := s.regroveSampler (fun k => ch fun g => inRanges g.streams k) gone.contains
  let s := s.each ((List.range 480).filter fun c => ch fun g => g.channels.testBit c) fun s c => s.rekey b.channels c
  s.unstall.judge

/-- In-flight work on what the batch removes or moves is done: its tiles' units are idle, no check of its groves is
pending, and no request waits on a channel that changes grove. -/
def State.quiesced (s : State) (b : Batch) : Bool :=
  let fresh := (b.images.filter (·.kind == 0)).map (·.grove)
  let chan := fun (off : Nat) => match s.locate off with
    | some p => moved s.grv.groves b.groves fresh fun g => g.channels.testBit p.1
    | none => false
  (List.range 128).all (fun t => !b.tiles.testBit t || (List.range 4).all fun u => !s.unitBusy t u) &&
    s.til.passes.all (fun p => b.images.all fun i => i.grove != p.grove) &&
    s.mem.held.all fun h => match h with
      | .req r => !chan r.offset
      | .acc a => !chan a.offset

/-- Step 3 passes (R64). Assumption: 35 (DEDUCED). -/
def State.batchQuiesced (s : State) : State :=
  match s.grv.batch with
  | some b => if !b.applied && s.quiesced b then s.switchBatch b else s
  | none => s

/-- In-flight work has drained. -/
def execBatchQuiesceDone (s : State) : Host.Outcome State Fault Refusal := .next (s.onDie State.batchQuiesced)

/-- Step 3 has taken 3 ms (R62, R64). -/
def State.batchLate (s : State) (image : Nat) : State :=
  match s.grv.batch with
  | some b =>
    (match b.images.find? (·.index == image) with
     | some i => if b.applied then s else s.failBatch b.goAt 0x0A image (some i.grove)
     | none => s)
  | none => s

/-- In-flight work has not drained in time. -/
def execQuiesceTimeout (image : Nat) (s : State) : Host.Outcome State Fault Refusal := .next (s.onDie fun s => s.batchLate image)

/-- Step 6 (R64): the channels that joined start their scrub, and the batch ends OK. Assumption: 35 (DEDUCED). -/
def State.batchDone (s : State) : State :=
  match s.grv.batch with
  | some b =>
    if b.applied then
      let s := s.each b.channels fun s c => s.modChannel c fun x => { x with scrubbing := true }
      ((s.endBatch b.goAt 0 0).afterBatch).memRetry
    else s
  | none => s

/-- The clears complete. -/
def execResourceClearDone (s : State) : Host.Outcome State Fault Refusal := .next (s.onDie State.batchDone)

/-! ## The scrub (R71, R702) -/

/-- The scrub of a channel advances by one line: it zeroes one that nothing has written, and passes over any other. -/
def State.scrubAdvance (s : State) (c : Nat) : State :=
  let x := s.channel c
  if !x.scrubbing then s
  else
    let n := lineNo c x.scrubPos
    let s := if s.mem.written.contains n then s else { s with mem := { s.mem with bad := s.mem.bad.filter (· != n) } }
    s.modChannel c fun x => { x with scrubPos := x.scrubPos + 1, scrubbing := x.scrubPos + 1 < 2 ^ 25 }

/-- A slot of the scrub's share. -/
def execScrubAdvance (channel : Nat) (s : State) : Host.Outcome State Fault Refusal :=
  .next (s.onDie fun s => s.scrubAdvance channel)

/-! ## Stale acknowledgements (R75) -/

/-- The source of the unit whose operation an acknowledgement ends. Assumption: 37 (DESIGN CHOICE). -/
def staleSrc : StaleOp → Src
  | .none => .grv
  | .contribution _ _ => .col
  | .row _ _ => .gth
  | .adjacency _ _ => .smp
  | .piece _ _ _ => .col
  | .directory _ _ => .emb
  | .drain _ _ => .kln
  | .knot => .sch

/-- Ends the operation a STALE_GROVE acknowledgement answers (R75, R473). Assumption: 37 (DESIGN CHOICE). -/
def State.endStale (s : State) (g : Nat) : StaleOp → State
  | .none => s
  | .knot => s
  | .contribution die request =>
    (match tget s.col.sent (reqKey die g request) with
     | some x => s.staleContributions die g x.dest
     | none => s)
  | .row die request =>
    (match s.findRow die request, tget s.gth.accs (2 ^ 32 * die + request) with
     | some (c, _, _), _ => (s.stepFault c.grove).endGth c.queue c.index .staleGrove 0
     | none, some x =>
       let s := (s.modGth fun y => { y with accs := terase y.accs (2 ^ 32 * die + request) }).stepFault x.grove
       (match s.gth.cmds.find? fun c => dieOfQueue c.queue == die && c.grove == x.grove && (c.st == .sending || c.st == .acks) with
        | some c => s.endGth c.queue c.index .staleGrove 0
        | none => s)
     | none, none => s)
  | .adjacency die request => s.adjRefused die request 0x0B 0
  | .piece die _ request => s.modCol fun c => { c with pieces := terase c.pieces (reqKey die g request) }
  | .directory die request =>
    let key := 2 ^ 32 * die + request
    (match tget s.emb.copies key with
     | some x =>
       ((s.modEmb fun e => { e with copies := terase e.copies key }).dropEntries x.owns).complete x.queue x.index .staleGrove 0
     | none => s.modEmb fun e => { e with refreshes := terase e.refreshes key })
  | .drain _ request =>
    match s.firing g with
    | some f => if f.buddy.tag = some request then s.kilnFail g false else s
    | none => s

/-- A STALE_GROVE acknowledgement arrives: a record, and its operation ends. -/
def execStaleGroveNak (nak : StaleNak) (s : State) : Host.Outcome State Fault Refusal :=
  .next (s.kilnEvent fun s => (s.staleRecord (staleSrc nak.op) nak.die nak.grove nak.generation nak.unbound).endStale nak.grove nak.op)

/-! ## Budgets (R81, R82) -/

/-- The messages a grove's link budgets hold on a die are tried again, in order. Assumption: 36 (DESIGN CHOICE). -/
def State.retryHeld (s : State) (die g : Nat) : State :=
  let mine := fun (m : HeldMsg) => m.die == die && m.grove == g
  let l := s.lnk.held.filter mine
  let s := { s with lnk := { s.lnk with held := s.lnk.held.filter fun m => !mine m } }
  s.each l fun s m =>
    match s.spend die g (if m.trunk then 0 else 1) (msgUnits m.payload) true with
    | (s, true) => s.sendNow m
    | (s, false) => { s with lnk := { s.lnk with held := s.lnk.held ++ [m] } }

/-- The die and grove of a held service request. -/
def HeldServe.who : HeldServe → Nat × Nat
  | .adjRange d o _ => (d, o.grove)
  | .adjPick d o _ => (d, o.grove)
  | .rowRead d o _ => (d, o.grove)
  | .rowAccumulate d o _ => (d, o.grove)
  | .kilnWrite d o _ => (d, o.grove)

/-- The pool requests a grove's budget holds on a die are tried again, in order. -/
def State.retryServe (s : State) (die g : Nat) : State :=
  let l := s.lnk.serve.filter fun h => h.who == (die, g)
  let s := { s with lnk := { s.lnk with serve := s.lnk.serve.filter fun h => h.who != (die, g) } }
  s.each l fun s h => match h with
    | .adjRange d o r => s.adjRange d o r true
    | .adjPick d o r => s.adjPick d o r true
    | .rowRead d o r => s.rowRead d o r true
    | .rowAccumulate d o a => s.rowAccumulate d o a true
    | .kilnWrite d o w => s.kilnWrite d o w true

/-- A budget's refill at a period start: the register's values where a change waits, else the refill rule.
Assumption: 36 (DESIGN CHOICE). -/
def Budget.refill (b : Budget) (reg : Word) : Budget :=
  if b.reload then
    { b with mode := wfld reg 32 2, amount := wfld reg 0 31, credit := wfld reg 0 31, reload := false, held := 0 }
  else { b with credit := min (b.credit + b.amount) b.amount, held := 0 }

/-- A budget period of a bound grove starts on a die. Assumption: 36 (DESIGN CHOICE). -/
def State.periodStart (s : State) (die g : Nat) : State :=
  if !(s.grove g).bound then s
  else
    let s := s.each (List.range 8) fun s a =>
      let reg := s.getReg .GRV_BUDGET [die, g, a]
      s.modBudget die g a fun b => b.refill reg
    let s := ((s.retryHeld die g).retryServe die g).retryGather die g
    ((s.retryUpdate die g).applyFlips g).kilnSends g

/-- A budget period starts. -/
def execBudgetPeriodStart (die grove : Nat) (s : State) : Host.Outcome State Fault Refusal :=
  .next (s.kilnEvent fun s => s.periodStart die grove)

/-- A software write of GRV_BUDGET, refused while a batch runs (R16): it waits for the next period start. -/
def State.writeBudget (s : State) (die g a : Nat) (v : Word) : State :=
  if s.batchRuns then s.refuseWrite .GRV_BUDGET [die, g, a]
  else
    let s := s.softWrite .GRV_BUDGET [die, g, a] v
    let b := s.budget die g a
    s.modBudget die g a fun x => { x with reload := b.mode != wfld v 32 2 || b.amount != wfld v 0 31 }

/-- GRV_BUDGET is written. -/
def execGrvBudgetWrite (die grove activity : Nat) (value : Word) (s : State) : Host.Outcome State Fault Refusal :=
  .next (s.onDie fun s => s.writeBudget die grove activity value)

/-! ## Device number and binding digest -/

/-- GLB_DEVNUM is stored, or refused while a grove is bound (R42). -/
def State.writeDevnum (s : State) (v : Word) : State :=
  if s.boundGroves.isEmpty then s.softWrite .GLB_DEVNUM [] v else s.refuseWrite .GLB_DEVNUM []

/-- GLB_DEVNUM is written; it lies in the always-on island. -/
def execGlbDevnumWrite (value : Word) (s : State) : Host.Outcome State Fault Refusal := .next (s.unheld fun s => s.writeDevnum value)

/-- The binding digest of a die is computed again; corrupted tables are fatal (R84). Assumption: 37 (DESIGN CHOICE). -/
def execBindingDigestCheck (die : Nat) (corrupted : Bool) (s : State) : Host.Outcome State Fault Refusal :=
  .next (s.inTraining fun s => if corrupted then s.fatal .grv die 0x0E none 0 else s)

end Sys2Proof.Machine
end

