-- ==== Sys2Proof/Machine/Startup.lean ====
section
/-! DEFINITION. Phases, resets and recovery (ch. 21), with the power-up steps that start a cold reset (ch. 19). -/
namespace Sys2Proof.Machine

/-- The grove field of GLB_RECOVER (R668). -/
def State.recoverGrove (s : State) : Nat := s.regFld .GLB_RECOVER [] 32 4

/-! ## SERVICE (R652) -/

/-- The device may go into service. -/
def State.mayServe (s : State) : Bool :=
  s.sup.phase == .kindling && s.hwd.provOk && s.ucieUp && s.devnumValid &&
    s.getReg .PWR_RAIL_STATUS [] == BitVec.ofNat 64 0x3FFF && (s.refGood 0 || s.refGood 1) && !s.clk.banked &&
    s.getReg .CLK_PLL_STATUS [] == BitVec.ofNat 64 0x3FF && s.hwd.stage == 3

/-- Op SERVICE. -/
def State.service (s : State) : State :=
  if s.mayServe then
    { s with sup := { s.sup with phase := .service, svcLow := true } }.recoverResult 0
  else s.recoverRefused 1 2

/-! ## Cold reset (R653, R654, R667) -/

/-- A cold reset: everything is at its reset value but the NVM, the permanent repairs of the stacks and the straps; a
newer provision record takes effect (R633, R639, R407). The stacks' contents and the keys are gone.
Assumptions: 6 (DESIGN CHOICE), 8 (DESIGN CHOICE), 31 (DEDUCED). -/
def State.coldReset (s : State) : State :=
  { State.reset with
    pending := s.pending
    outbox := s.outbox
    freeCtr := s.freeCtr
    hwd := { rollback := s.hwd.rollback, lmsIndex := s.hwd.lmsIndex, prov := s.hwd.provPending.or s.hwd.prov }
    mem := { phys := tmap s.mem.phys (fun _ p => ({ hardUsed := p.hardUsed } : PhysChannel)), hearthEpoch := s.mem.hearthEpoch + 1 }
    pkg := { strap := s.pkg.strap } }

/-- V3P3_AUX has been in its window for 2 ms (R603): a cold reset brings the always-on island up and samples the
straps; the supply's own bits read 1. Assumption: 30 (DEDUCED). -/
def State.auxUp (s : State) (strap : Nat) : State :=
  let held := s.sup.resetNLow
  let s := s.coldReset.putReg .PWR_RAIL_STATUS [] (BitVec.ofNat 64 6)
  let s := s.modClk fun c => { c with auxSince := some 0 }
  { s with
    pkg := { strap := strap }
    sup := if held then { s.sup with recovery := .resetHeld, resetNLow := true } else s.sup }

/-- V3P3_AUX comes up. -/
def execAuxSupplyUp (strap : Nat) (s : State) : Host.Outcome State Fault Refusal := .next (s.auxUp strap)

/-- VIN has been in its window for 10 ms (R603): conversion starts. After a shutdown it is a cold start (R601, R661).
Assumption: 31 (DEDUCED). -/
def State.vinUp (s : State) : State :=
  let s := if s.clk.shutDown then s.coldReset.putReg .PWR_RAIL_STATUS [] (BitVec.ofNat 64 6) else s
  (s.modClk fun c => { c with pscEn := true, vinSince := some (c.vinSince.getD s.aonUs) }).putFld .PWR_RAIL_STATUS [] 0 1 1

/-- VIN comes into its window. -/
def execVinInWindow (s : State) : Host.Outcome State Fault Refusal := .next (s.unheld State.vinUp)

/-- RESET_N is low for so many microseconds (R667): below 1 nothing happens, below 10 a cold reset may happen, from 10 on
it does and holds the always-on island. -/
def State.resetN (s : State) (us : Nat) : State :=
  if us = 0 then s
  else if us < 10 then
    let p := s.fresh
    if Config.freeBool p.1 then p.2.coldReset else p.2
  else
    let s := s.coldReset
    { s with sup := { s.sup with recovery := .resetHeld, resetNLow := true } }

/-- RESET_N is low. -/
def execResetNLow (us : Nat) (s : State) : Host.Outcome State Fault Refusal := .next (s.resetN us)

/-- RESET_N rises: the always-on island leaves reset and samples the straps (R667, R681). Assumption: 30 (DEDUCED). -/
def State.resetNUp (s : State) (strap : Nat) : State :=
  if s.sup.resetNLow then
    { s with sup := { s.sup with recovery := .idle, resetNLow := false }, pkg := { s.pkg with strap := strap } }
  else s

/-- RESET_N rises. -/
def execResetNRelease (strap : Nat) (s : State) : Host.Outcome State Fault Refusal := .next (s.resetNUp strap)

/-! ## Warm and grove resets, FORCE_ASH -/

/-- Op WARM_RESET: its ports restarted, a recovered reference may be lost; then its record (R653, R670).
Assumption: 25 (DEDUCED). -/
def State.warmOp (s : State) : State :=
  if s.sup.phase == .kindling || s.sup.phase == .service then
    let s := (s.warmReset.record .glb .corrected 2 0x03 none (3 + s.recoverGrove * 16)).recoverResult 0
    s.refPortCheck
  else s.recoverRefused 3 2

/-- Op GROVE_RESET: one that meets a batch waits for its end with busy set (R656). Assumption: 27 (DESIGN CHOICE). -/
def State.groveResetOp (s : State) : State :=
  let g := s.recoverGrove
  if s.sup.phase != .service || !(s.grove g).bound then s.recoverRefused 5 2
  else if s.batchRuns then
    { s with sup := { s.sup with heldGroveResets := [g] } }.putFld .GLB_RECOVER [] 40 1 1
  else if s.islandsRun then (s.groveReset g).recoverResult 0
  else s.recoverRefused 5 2

/-- Op FORCE_ASH (R658). -/
def State.forceAsh (s : State) : State :=
  if s.sup.phase == .ash then s.recoverRefused 6 2
  else (s.recoverResult 0).fatal .glb 2 0x01 none (6 + s.recoverGrove * 16)

/-! ## Recovery (R663, R664) -/

/-- Every stack reads below 88 °C. -/
def State.stacksCool (s : State) : Bool :=
  (List.range 12).all fun k => (tgetD s.mem.heats k {}).badSince.isNone &&
    toSigned 16 (s.regFld .MEM_STACK_TEMP [k / 6, k % 6] 0 16) < 1408

/-- A supply has been in its window for 10 ms. -/
def State.supplySettled (s : State) (o : Option Nat) : Bool :=
  match o with
  | some t => s.aonUs - t ≥ 10000
  | none => false

/-- A cause is cleared (R663). -/
def State.causeCleared (s : State) (c : Src × Nat × Nat) : Bool :=
  match c.1, c.2.1 with
  | .pwr, 0x03 => [0, 1].all fun d => (s.therm d).badSince.isNone && (s.therm d).reading < 1520
  | .mem, 0x0D => s.stacksCool
  | .pwr, 0x05 => s.supplySettled s.clk.vinSince
  | .pwr, 0x07 => s.supplySettled s.clk.auxSince
  | .pwr, 0x06 => s.getReg .PWR_RAIL_STATUS [] == BitVec.ofNat 64 0x3FFF
  | .pwr, 0x0C => s.clk.frames ≥ 100 && !s.clk.pscFault
  | .clk, 0x04 => s.refGood 0 || s.refGood 1
  | .clk, 0x05 => s.refGood 0 || s.refGood 1
  | .hwd, 0x0D => false
  | _, _ => true

/-- A cause of the control-state class; a rail's item is in its record's detail. Assumption: 28 (DEDUCED). -/
def controlClass (c : Src × Nat × Nat) : Bool :=
  match c.1, c.2.1 with
  | .grv, 0x0E => true
  | .mem, 0x0E => true
  | .wch, 0x09 => true
  | .hwd, 0x0C => true
  | .pwr, 0x06 => 11 ≤ c.2.2 % 2 ^ 8
  | _, _ => false

/-- Step 3 of RECOVER begins once a reference is GOOD: the PLLs relock and training starts. Assumption: 28 (DEDUCED). -/
def State.recoverTrain (s : State) : State :=
  if s.refGood 0 || s.refGood 1 then
    let s := s.relock
    { s with sup := { s.sup with recovery := .training } }
  else { s with sup := { s.sup with recovery := .waitReference } }

/-- Op RECOVER: steps 1 and 2, and step 3 as far as it goes (R664). Assumption: 28 (DEDUCED). -/
def State.recover (s : State) : State :=
  if s.sup.phase != .ash then s.recoverRefused 2 2
  else if s.sup.causes.all fun c => s.causeCleared c then
    (s.putFld .GLB_RECOVER [] 40 1 1).warmReset.recoverTrain
  else s.recoverRefused 2 3

/-- Unbinds a grove as an image of kind 2 does (R66, R664); its generation stays recorded. Assumption: 28 (DEDUCED). -/
def State.unbindGrove (s : State) (g : Nat) : State :=
  let s := s.discardGrove g
  let ch := fun (p : Grove → Bool) => p (s.grove g)
  let s := s.clearTables fun ix => ch fun x => x.tables.1 ≤ ix && ix < x.tables.1 + x.tables.2
  let old := s.grove g
  let s := s.modGrove g fun x => { generation := x.generation, jobTag := x.jobTag }
  let s := s.applyImage { grove := g, kind := 2, index := 0, gen := old.generation, params := false, channels := false,
                          firstStep := 0, digest := tgetD s.grv.imageDigest g [], budgets := some [] }
  let s := s.each ((List.range 128).filter fun t => old.tiles.testBit t) fun s t => ((s.discardTile t).resetTile t).watchRegrove t
  let s := s.clearKnots fun k => inRanges old.knots k
  let s := s.dropLanes fun l _ => old.lanes.testBit l
  let s := s.regroveSampler (fun k => inRanges old.streams k) (· == g)
  s.each ((List.range 480).filter fun c => old.channels.testBit c) fun s c => s.rekey [] c

/-- Steps 4 and 5 of RECOVER, once the links are trained (R664). Assumptions: 25 (DEDUCED), 28 (DEDUCED). -/
def State.recoverDone (s : State) : State :=
  let control := s.sup.causes.any controlClass
  let s := if control then s.each s.boundGroves fun s g => s.unbindGrove g else s
  let s := (s.putFld .GLB_RECOVER [] 42 1 (b2n control)).recoverResult 0
  { s with
    wch := { s.wch with fatal := none }
    sup := { s.sup with
      phase := .service, recovery := .idle, causes := [], faultLow := false, thermLow := false, alertLow := false
      svcLow := true } }

/-- The in-package links end their training; in a recovery this is the end of step 3. Assumption: 28 (DEDUCED). -/
def State.linksTrained (s : State) (cd0 cd1 span : Nat × Nat) : State :=
  let s := s.hlkTraining cd0 cd1 span
  if s.sup.recovery == .training && s.ucieUp then s.recoverDone else s

/-- Initial training of the in-package links ends (R91, R651, R664). -/
def execHlkTrainingDone (cd0 cd1 span : Nat × Nat) (s : State) : Host.Outcome State Fault Refusal :=
  .next (s.inTraining fun s => s.linksTrained cd0 cd1 span)

/-- Every PLL relocks (R596); a recovery that waits for a reference goes on. Assumption: 77 (DESIGN CHOICE). -/
def State.pllsLocked (s : State) : State :=
  if s.sup.recovery == .waitReference then s.recoverTrain else s.relock

/-- The PLLs relock. -/
def execPllRelocked (s : State) : Host.Outcome State Fault Refusal := .next (s.unheld State.pllsLocked)

/-! ## GLB_RECOVER (R668, R669) -/

/-- A write of GLB_RECOVER from a hearth core or over SMBus (R668, R685). Assumption: 26 (DEDUCED). -/
def State.writeRecover (s : State) (v : Word) : State :=
  if !v.getLsbD 63 then s.softWrite .GLB_RECOVER [] v
  else if s.regFld .GLB_RECOVER [] 40 1 = 1 then s.putFld .GLB_RECOVER [] 48 8 1
  else
    let s := s.softWrite .GLB_RECOVER [] v
    let op := wfld v 0 3
    if op = 0 then s
    else if op = 1 then s.service
    else if op = 2 then s.recover
    else if op = 3 then s.warmOp
    else if op = 4 then s.coldReset
    else if op = 5 then s.groveResetOp
    else if op = 6 then s.forceAsh
    else s.recoverRefused 7 2

/-- A write of GLB_RECOVER with go and an op. Assumption: 26 (DEDUCED). -/
def State.recoverOp (s : State) (v : Word) (op : Nat) : State :=
  s.unheld fun s => s.writeRecover (setFld (setFld v 63 1 1) 0 3 op)

/-- SERVICE. -/
def execService (value : Word) (s : State) : Host.Outcome State Fault Refusal := .next (s.recoverOp value 1)
/-- RECOVER. -/
def execRecover (value : Word) (s : State) : Host.Outcome State Fault Refusal := .next (s.recoverOp value 2)
/-- WARM_RESET. -/
def execWarmReset (value : Word) (s : State) : Host.Outcome State Fault Refusal := .next (s.recoverOp value 3)
/-- COLD_RESET. -/
def execColdReset (value : Word) (s : State) : Host.Outcome State Fault Refusal := .next (s.recoverOp value 4)
/-- GROVE_RESET. -/
def execGroveReset (value : Word) (s : State) : Host.Outcome State Fault Refusal := .next (s.recoverOp value 5)
/-- FORCE_ASH. -/
def execForceAsh (value : Word) (s : State) : Host.Outcome State Fault Refusal := .next (s.recoverOp value 6)

end Sys2Proof.Machine
end

