-- ==== Sys2Proof/Machine/Registers.lean ====
section
/-! DEFINITION. The register window (R13, R14, R38, R44): what a read of each register returns, and what a write does. -/
namespace Sys2Proof.Machine

/-! ## Registers computed when read -/

/-- A word of fields, each a value, its lowest bit and its width. -/
def pack (l : List (Nat × Nat × Nat)) : Word :=
  BitVec.ofNat 64 (l.foldl (fun v f => v ||| f.1 % 2 ^ f.2.2 * 2 ^ f.2.1) 0)

/-- The number of positions below `n` that a mask sets. -/
def popcount (m n : Nat) : Nat := (maskBits m n).length

/-- The four words of an error record (R525). -/
def LogRec.words (r : LogRec) : List Word :=
  let g := r.grove.getD 0
  [pack [(r.seq, 0, 32), (r.src.number, 32, 8), (g, 40, 4), (r.sev.number, 44, 2), (r.die, 46, 2), (r.code, 48, 16)],
   pack [(r.step, 0, 48), (r.attempt, 48, 8), (b2n r.grove.isSome, 56, 1)],
   pack [(r.gen, 0, 16), (r.time, 32, 32)],
   pack [(r.detail, 0, 64)]]

/-- One word of a record that may be absent; zero then. -/
def recWord (r : Option LogRec) (w : Nat) : Word := ((r.map LogRec.words).getD []).getD w 0

/-- The phases of R43. -/
def Phase.number : Phase → Nat
  | .kindling => 1 | .service => 2 | .smoulder => 3 | .ash => 4

/-- GLB_STATUS (R43). -/
def State.glbStatus (s : State) : Word :=
  let bound := s.boundGroves.foldl (fun m g => m + 2 ^ g) 0
  pack [(s.sup.coresUp, 32, 8), (bound, 16, 16), (s.sup.phase.number, 4, 4), (b2n s.sup.faultLow, 3, 1),
    (b2n s.clk.banked, 2, 1), (b2n (s.ucieUp && !s.clk.banked), 1, 1), (b2n s.hwd.provOk, 0, 1)]

/-- CLK_REF_STATUS (R612); the offset reads 0 unless both references are GOOD. -/
def State.refStatus (s : State) : Word :=
  let off := if s.refGood 0 && s.refGood 1 then s.regFld .CLK_REF_STATUS [] 16 16 else 0
  pack [(off, 16, 16), (s.clk.recov.st, 10, 2), (s.clk.refclk.st, 8, 2), (b2n s.clk.switching.isSome, 4, 1),
    (b2n s.clk.banked, 3, 1), (s.clk.active, 0, 1)]

/-- PWR_OP_STATE of a compute die (R615). -/
def State.opState (s : State) (d : Nat) : Word :=
  let v := s.dvfs d
  let t := s.therm d
  pack [(b2n s.clk.droop, 23, 1), (b2n (s.clk.capClamp.getD d 0 != 0), 22, 1),
    (b2n (t.clamp != 0 || t.hot || t.fault), 21, 1), (b2n (s.stackHold d), 20, 1), (b2n v.busy, 16, 1), (v.target, 8, 3),
    (v.effective, 0, 3)]

/-- PWR_DIE_TEMP.state (R618). Assumption: 24 (DESIGN CHOICE). -/
def State.thermState (s : State) (d : Nat) : Nat :=
  let t := s.therm d
  if t.fault then 3 else if t.hot then 2 else if t.clamp != 0 then 1 else 0

/-- HLK_LINK_STATUS of an in-package link (R92); in smoulder a link that is up rests in L1 (R605).
Assumption: 24 (DESIGN CHOICE). -/
def State.linkStatus (s : State) (k : Nat) : Word :=
  let x := s.hlk k
  pack [(modulesFitted k, 32, 8), (popcount x.modulesUp (modulesFitted k), 24, 8), (x.lanesRepaired, 16, 8),
    (if x.carries && s.sup.phase == .smoulder then 5 else x.state, 0, 8)]

/-- HLK_QSTATUS of a queue (R110). -/
def State.qstatus (s : State) (q : Nat) : Word :=
  let x := s.queue q
  pack [(x.error, 40, 8), (b2n x.stopped, 32, 1), (x.completed, 0, 32)]

/-- GRV_GEN of a grove id (R76). -/
def State.genWord (s : State) (g : Nat) : Word :=
  let x := s.grove g
  pack [(x.jobTag, 32, 32), (b2n (s.loadPending g), 17, 1), (b2n x.bound, 16, 1), (x.generation, 0, 16)]

/-- SCH_DEPTH of a tile (R145). -/
def State.depthWord (s : State) (tile : Nat) : Word :=
  let xs := s.sch.slots.filter fun p => p.1 / 1024 == tile
  let waiting := xs.filter fun p => p.2.st == .waiting
  let ready := xs.filter fun p => match p.2.st with
    | .ready _ => true
    | _ => false
  pack [(s.regFld .SCH_DEPTH [tile] 48 11, 48, 11), (waiting.length, 32, 11), (ready.length, 16, 11), (xs.length, 0, 11)]

/-- SCH_FLOW_STATE of the selected flow of a die (R149). -/
def State.flowWord (s : State) (die : Nat) : Word :=
  let fk := flowKey die (s.regFld .SCH_FLOW_SEL [die] 12 4) (s.regFld .SCH_FLOW_SEL [die] 0 12)
  let held := s.sch.slots.filter fun p => p.2.st == .held && p.2.task.ordered && p.2.task.flowKey == fk
  pack [(held.length, 32, 14), ((s.flow fk).next, 0, 32)]

/-- The second word of a knot's state (R134): the grove that holds it and that grove's generation. -/
def State.knotWord1 (s : State) (k : Nat) : Word :=
  let n := s.knot k
  let g := s.knotOwner k
  pack [(n.type, 0, 4), (g.getD 0, 4, 4), ((g.map fun g => (s.grove g).generation).getD 0, 8, 16), (b2n n.phase, 24, 1),
    (b2n n.overflow, 25, 1), (b2n n.noRewind, 26, 1)]

/-- The numbers of R495. -/
def StepSt.number : StepSt → Nat
  | .closed => 0 | .running => 1 | .sealed => 2 | .voided => 3 | .committed => 4

/-- COL_STEP of a grove (R495). -/
def State.stepWord (s : State) (g : Nat) : Word :=
  let x := s.step_ g
  pack [(x.st.number, 56, 3), (x.attempt, 48, 8), (x.step, 0, 48)]

/-- The numbers of R581. -/
def FireSt.number : FireSt → Nat
  | .armed => 1 | .invalidate => 2 | .capture => 3 | .drain => 4 | .seal => 5

/-- KLN_STATE of a grove (R581). -/
def State.kilnWord (s : State) (g : Nat) : Word :=
  let pend := (b2n (s.step_ g).restorePending, 52, 1)
  match tget s.kln.firings g, tget s.kln.restores g with
  | some f, _ => pack [(f.st.number, 56, 3), (f.slot, 53, 1), pend, (b2n f.buddy.live + 2 * b2n f.storage.live, 50, 2),
      (f.step, 0, 48)]
  | none, some r => pack [(6, 56, 3), (r.slot, 53, 1), pend, (r.expected, 0, 48)]
  | none, none => pack [pend]

/-- KLN_PROGRESS of a grove (R582): pages copied or digested, and pages acknowledged everywhere. -/
def State.kilnProgress (s : State) (g : Nat) : Word :=
  match tget s.kln.firings g with
  | some f =>
    let is := List.range f.plan.pages.length
    let captured := is.filter fun i => (tget f.digests i).isSome || (tget f.touched i).isSome
    pack [((is.filter f.drained).length, 32, 32), (captured.length, 0, 32)]
  | none => 0

/-- The numbers of R217. -/
def ProgSt.number : ProgSt → Nat
  | .empty => 0 | .loaded => 1 | .running => 2 | .done => 3 | .faulted => 4 | .disabled => 5

/-- SMP_PROG_STATUS of a programme slot of a die (R217). -/
def State.progWord (s : State) (die p : Nat) : Word :=
  let x := s.prog (32 * die + p)
  pack [(x.done.length, 33, 21), (x.groups, 12, 21), (x.grove, 4, 4), (x.st.number, 0, 4)]

/-- The numbers of R278. -/
def VsSt.number : VsSt → Nat
  | .empty => 0 | .loaded => 1 | .current => 2 | .previous => 3

/-- EMB_TABLE of a table slot (R278). -/
def State.tableWord (s : State) (n : Nat) : Word :=
  let x := s.tableSlot n
  let g := (List.range 16).find? fun g => (s.grove g).bound && inRanges [(s.grove g).tables] n
  pack [(((x.at .current).map (·.version)).getD 0, 32, 32), (g.getD 0, 28, 4), (x.st1.number, 8, 4), (x.st0.number, 4, 4),
    (b2n (x.st1 == .current), 0, 1)]

/-- MEM_CH_STATE of a channel (R416). -/
def State.chWord (s : State) (c : Nat) : Word :=
  let x := s.channel c
  let dead := s.deadLanes c
  let owner := s.channelOwner c
  let mapped := if s.mem.mapouts.any (fun m => m.2.source == c) then 1
    else if s.mem.mapouts.any (fun m => m.2.spare == c) then 2 else 0
  let who := if x.absent then 3 else if isHearthChannel c then 2 else if owner.isSome then 1 else 0
  pack [(s.physOf c, 40, 9), (dead.getD 0 0x1F, 30, 5), (dead.getD 1 0x1F, 25, 5), (mapped, 20, 2),
    (b2n (s.striped (c / 8)), 19, 1), (x.ecc, 18, 1), (who, 16, 2), (if who = 1 then owner.getD 0 else 0, 4, 4)]

/-- MEM_SCRUB of a channel (R417). -/
def State.scrubWord (s : State) (c : Nat) : Word :=
  let x := s.channel c
  pack [(b2n x.scrubbing, 32, 1), (if x.scrubbing then 2 ^ 25 - x.scrubPos else 0, 0, 26)]

/-- MEM_D1_SPARE of a channel (R418): the lane its spare replaces, in mode 1 (R406). -/
def State.spareWord (s : State) (c : Nat) : Word :=
  let lane := if (s.channel c).ecc = 1 then (spareOf (s.deadLanes c)).1 else none
  pack [(b2n lane.isSome, 15, 1), (lane.getD 0, 8, 5), (0xD1, 0, 8)]

/-- The numbers of R456. -/
def PortSt.number : PortSt → Nat
  | .disabled => 0 | .detect => 1 | .equalise => 2 | .align => 3 | .identify => 4 | .active => 5 | .retrain => 6
  | .wiring => 7 | .dead => 8

/-- LNK_PORT_STATUS of a port (R456). -/
def State.portWord (s : State) (p : Nat) : Word :=
  let x := s.port p
  let who := match x.partner with
    | some i => [(1, 63, 1), (i.device, 48, 15), (i.kind, 46, 2), (i.port, 40, 4)]
    | none => []
  pack (who ++ [(x.live, 32, 4), (x.st.number, 0, 8)])

/-- TIL_INFO of a tile (R312). -/
def tileInfo (t : Nat) : Word :=
  if isCrown t then pack [(0x80, 24, 8), (0x18, 16, 8), (2, 8, 8), (1, 7, 1), (t, 0, 7)]
  else pack [(0x40, 24, 8), (8, 16, 8), (1, 8, 8), (t, 0, 7)]

/-- TIL_STATUS of a tile (R313). -/
def State.tileWord (s : State) (t : Nat) : Word :=
  let left := ((s.til.passes.filter fun p => p.tile == t).map fun p => p.pending.length).sum
  let g := s.tileOwner t
  pack [(left, 16, 16), (g.getD 0, 4, 4), (b2n g.isSome, 3, 1), (b2n (s.watchTile t).excluded, 2, 1),
    (b2n (s.unitBusy t 0), 1, 1), (b2n (s.unitBusy t 2), 0, 1)]

/-- The vector unit of a tile runs a segment operation (R342). -/
def State.segmentRuns (s : State) (t : Nat) : Bool :=
  s.sch.slots.any fun p => p.1 / 1024 == t && p.2.task.unit == 1 && p.2.st == .running && leAt p.2.desc 0 1 == 3

/-- The value a register's copy holds or reports, but for the fields that read as zero (R14).
Assumptions: 23 (DEDUCED), 24 (DESIGN CHOICE). -/
def State.regValue (s : State) (r : Reg) (ix : List Nat) : Word :=
  match r, ix with
  | .GLB_STATUS, _ => s.glbStatus
  | .CLK_REF_STATUS, _ => s.refStatus
  | .PWR_OP_STATE, [d] => s.opState d
  | .PWR_DIE_TEMP, [d] => setFld (s.getReg r ix) 24 2 (s.thermState d)
  | .WCH_FATAL, [w] => recWord s.wch.fatal w
  | .WCH_SMOKE, [g] => s.smokeWord g
  | .WCH_TILE, [t] => s.watchWord t
  | .WCH_LOG, [k, w] => recWord (tget s.wch.log k) w
  | .HWD_BOOT_STATUS, _ => s.bootStatus
  | .HWD_ROLLBACK, _ => pack [(b2n (s.hwd.rollback ≥ 1023), 63, 1), (s.hwd.rollback, 0, 10)]
  | .HWD_LMS_INDEX, _ => pack [(b2n (s.hwd.lmsIndex ≥ 2 ^ 20), 63, 1), (s.hwd.lmsIndex, 0, 21)]
  | .HWD_PROV_SEQ, _ => s.provSeq
  | .HWD_MEASURE, [k, w] => pack [(leAt (s.hwd.slots.getD k []) (8 * w) 8, 0, 64)]
  | .HLK_LINK_STATUS, [k] => s.linkStatus k
  | .HLK_QSTATUS, [q] => s.qstatus q
  | .GRV_GEN, [_, g] => s.genWord g
  | .SCH_DEPTH, [t] => s.depthWord t
  | .SCH_FLOW_STATE, [d] => s.flowWord d
  | .KNT_STATE0, [d, k] => let n := s.knot (8192 * d + k); pack [(n.target, 32, 32), (n.value, 0, 32)]
  | .KNT_STATE1, [d, k] => s.knotWord1 (8192 * d + k)
  | .KNT_VIEW, [d, k] =>
    let n := s.knot (8192 * d + k)
    pack [(b2n n.overflow, 63, 1), (b2n n.phase, 32, 1), (n.value, 0, 32)]
  | .COL_STEP, [_, g] => s.stepWord g
  | .UPD_STATE, [d, g] => s.updState d g
  | .KLN_STATE, [g] => s.kilnWord g
  | .KLN_PROGRESS, [g] => s.kilnProgress g
  | .SMP_PROG_STATUS, [d, p] => s.progWord d p
  | .GTH_MERGE_USE, [d, g] => pack [(tgetD s.gth.high (16 * d + g) 0, 32, 17), (s.mergeUsed d g, 0, 17)]
  | .GTH_WAIT, [d] => pack [(s.waitPool d, 0, 9)]
  | .EMB_TABLE, [_, n] => s.tableWord n
  | .EMB_ENTRY_USE, [_, g] => pack [(tgetD s.emb.high g 0, 32, 19), (s.embUsed g, 0, 19)]
  | .EMB_STAGE_DIGEST, [_, g] => pack [(stageDigest (s.staged g), 0, 64)]
  | .EMB_STAGE_STATE, [_, g] =>
    pack [((s.staged g).length, 32, 11), (b2n (s.stageReady g), 1, 1), (b2n (tgetD s.emb.heldLast g false), 0, 1)]
  | .MEM_CH_STATE, [d, i] => s.chWord (240 * d + i)
  | .MEM_SCRUB, [d, i] => s.scrubWord (240 * d + i)
  | .MEM_D1_SPARE, [d, i] => s.spareWord (240 * d + i)
  | .LNK_PORT_STATUS_T, [d, i] => s.portWord (3 * d + i)
  | .LNK_PORT_STATUS_B, [d, i] => s.portWord (16 + 8 * d + i)
  | .LNK_LANE_STATE_T, [d, i] => BitVec.ofNat 64 (laneWord (s.port (3 * d + i)).lanes)
  | .LNK_LANE_STATE_B, [d, i] => BitVec.ofNat 64 (laneWord (s.port (16 + 8 * d + i)).lanes)
  | .TIL_INFO, [t] => tileInfo t
  | .TIL_STATUS, [t] => s.tileWord t
  | .SVU_STATUS, [t] => setFld (setFld (s.getReg r ix) 9 1 (b2n (s.segmentRuns t))) 0 1 (b2n (s.unitBusy t 1))
  | .SMU_STATUS, [t] => setFld (s.getReg r ix) 0 1 (b2n (s.unitBusy t 3))
  | r, ix => s.getReg r ix

/-! ## Who answers -/

/-- The registers that answer in every phase (R44, R682): the GLB and WCH blocks, PWR_RAIL_STATUS, PWR_INPUT,
PWR_DIE_TEMP and HWD_BOOT_STATUS. Assumption: 21 (DESIGN CHOICE). -/
def alwaysAnswers (off : Nat) : Bool :=
  off < 0x10000 || (0x30000 ≤ off && off < 0x40000) || off == 0x20058 || off == 0x20028 || off == 0x20030 ||
    off == 0x20038 || off == 0x20040 || off == 0x40018

/-- An access to an offset reaches its block: in the ash state R44's list only, while banked or in smoulder the blocks of
the compute dies do not answer (R595, R605). Assumption: 21 (DESIGN CHOICE). -/
def State.reaches (s : State) (off : Nat) : Bool :=
  s.sup.recovery != .resetHeld && (alwaysAnswers off || (s.sup.phase != .ash && (off < 0x100000 || s.islandsRun)))

/-- A load from the window (R13, R14, R44): a narrow, misaligned or unoccupied access reads zero and is recorded; a block
that does not answer reads zero without a record; a WO field reads zero.
Assumptions: 21 (DESIGN CHOICE), 23 (DEDUCED). -/
def State.regLoad (s : State) (off width : Nat) : State × Word :=
  if !s.reaches off then (s, 0)
  else if width ≠ 8 then (s.regAccess off 0, 0)
  else if off % 8 ≠ 0 then (s.regAccess off 1, 0)
  else match regAt off with
    | none => (s.regAccess off 2, 0)
    | some (r, ix) => (s, s.regValue r ix &&& ~~~(BitVec.ofNat 64 (accMask r fun a => a == .wo)))

/-! ## Writes -/

/-- A write of GRV_LOAD (R60): with go it starts a batch. -/
def State.writeLoad (s : State) (v : Word) : State := if v.getLsbD 7 then s.batchGo v else s.softWrite .GRV_LOAD [] v

/-- A write of HLK_QCFG (R105, R108). -/
def State.writeQcfg (s : State) (q : Nat) (v : Word) : State :=
  if v.getLsbD 63 then s.queueEnable q v else s.queueDisable q v

/-- A write of PWR_SMOULDER: one bit enters, the other leaves, both or neither do nothing (R620). -/
def State.writeSmoulder (s : State) (v : Word) : State :=
  if v.getLsbD 63 == v.getLsbD 62 then s else if v.getLsbD 63 then s.smoulderEnter else s.smoulderLeave

/-- A write of SCH_CLEAR (R146). -/
def State.writeSchClear (s : State) (tile : Nat) (v : Word) : State :=
  let s := if v.getLsbD 1 then s.clearHighWater tile else s
  if v.getLsbD 0 then s.clearSchCounters tile else s

/-- A write of MEM_REPAIR_CMD: the op's own operation; ops 5 to 7 end with result STATE (R423).
Assumption: 22 (DEDUCED). -/
def State.writeRepair (s : State) (die : Nat) (v : Word) : State :=
  let op := wfld v 56 3
  if op = 0 then s.mrRead die v
  else if op = 1 then s.mrWrite die v
  else if op = 2 then s.softRepair die v
  else if op = 3 then s.hardRepair die v
  else if op = 4 then s.queryRepair die v
  else s.repairCmd die v fun s => s.repairResult die 2

/-- A write of COL_TALLY_RING: an enable starts the count of records (R497). -/
def State.writeTallyRing (s : State) (die g : Nat) (v : Word) : State :=
  let was := (s.getReg .COL_TALLY_RING [die, g]).getLsbD 63
  let s := s.softWrite .COL_TALLY_RING [die, g] v
  if v.getLsbD 63 && !was then s.putReg .COL_TALLY_HEAD [die, g] 0 else s

/-- A write of HWD_MBOX_CMD: the command its opcode names (R641, R643). The write does not say what the NVM read or the
boot flash give; here the NVM reads well and the flash reads blank (the rows of R641 carry both). DESIGN CHOICE.
Assumption: 22 (DEDUCED). -/
def State.writeMbox (s : State) (v : Word) : State :=
  let op := wfld v 16 8
  if op = 1 then s.mbAttest v false
  else if op = 2 then s.mbIdent v false
  else if op = 3 then s.mbMeasure v
  else if op = 4 then s.mbProvision v false
  else if op = 5 then s.mbRollback v false
  else if op = 6 then s.mbLoad v [] []
  else s.mboxUnknown v

/-- A write of a register's copy (R14): where a row of the opcode table does the same, that row's own operation; else by
the access codes. Assumption: 22 (DEDUCED). -/
def State.regWrite (s : State) (r : Reg) (ix : List Nat) (v : Word) : State :=
  match r, ix with
  | .GLB_DEVNUM, _ => s.writeDevnum v
  | .GLB_RECOVER, _ => s.writeRecover v
  | .CLK_REF_SEL, _ => s.writeRefSel v
  | .PWR_OP_REQ, [d] => s.writeOpReq d v
  | .PWR_CAP, _ => s.writeCap v
  | .PWR_THERM_CFG, _ => s.writeTherm v
  | .PWR_SMOULDER, _ => s.writeSmoulder v
  | .WCH_LOG_TAIL, _ => s.writeTail v
  | .WCH_LOG_STATE, _ => s.writeLogState v
  | .WCH_TILE_CTL, _ => s.tileCtl v
  | .HWD_MBOX_CMD, _ => s.writeMbox v
  | .HLK_QCFG, [q] => s.writeQcfg q v
  | .HLK_QDOORBELL, [q] => s.doorbell q v
  | .GRV_LOAD, _ => s.writeLoad v
  | .GRV_BUDGET, [d, g, a] => s.writeBudget d g a v
  | .SCH_CLEAR, [t] => s.writeSchClear t v
  | .KNT_SIGNAL, [d, k] => s.knotSignal (8192 * d + k) v
  | .KNT_INIT_TYPE, [d, k] => s.knotStage (8192 * d + k) v
  | .KNT_INIT, [d, k] => s.knotInit (8192 * d + k) v
  | .COL_TALLY_RING, [d, g] => s.writeTallyRing d g v
  | .UPD_ROWBUF, [d, g] => s.rowBufWrite d g v
  | .GTH_MERGE_QUOTA, [d, g] => s.writeMergeQuota d g v
  | .EMB_ENTRY_QUOTA, [_, g] => s.writeEmbQuota g v
  | .MEM_MAPOUT, [d] => s.mapoutGo d v
  | .MEM_REPAIR_CMD, [d] => s.writeRepair d v
  | .MEM_CHMAP_SET, [d] => s.chmapSet d v
  | .LNK_PORT_CFG_T, [d, i] => (s.writePortCfg (3 * d + i) v).refPortCheck
  | .LNK_PORT_CFG_B, [d, i] => (s.writePortCfg (16 + 8 * d + i) v).refPortCheck
  | .LNK_CREDIT_CFG_T, [d, i] => s.writeCreditCfg (3 * d + i) v
  | .LNK_CREDIT_CFG_B, [d, i] => s.writeCreditCfg (16 + 8 * d + i) v
  | .LNK_TORUS, _ => s.writeTorus v
  | .LNK_BUNDLE, _ => s.writeBundle v
  | .LNK_STANDIN, [d, i] => s.writeStandin (3 * d + i) v
  | .TIL_ABFT_TOL, [t] => s.tolWrite .TIL_ABFT_TOL t v
  | .TIL_ABFT_ABS, [t] => s.tolWrite .TIL_ABFT_ABS t v
  | r, ix => s.softWrite r ix v

/-- A store to the window (R13, R14, R44): a narrow, misaligned or unoccupied access is discarded and recorded; one to a
block that does not answer is discarded. Assumption: 21 (DESIGN CHOICE). -/
def State.regStore (s : State) (off width : Nat) (v : Word) : State :=
  if !s.reaches off then s
  else if width ≠ 8 then s.regAccess off 0
  else if off % 8 ≠ 0 then s.regAccess off 1
  else match regAt off with
    | none => s.regAccess off 2
    | some (r, ix) => s.regWrite r ix v

/-- A write to the register window. -/
def execRegisterWrite (off width : Nat) (value : Word) (s : State) : Host.Outcome State Fault Refusal :=
  .next (s.regStore off width value)

end Sys2Proof.Machine
end

