-- ==== Sys2Proof/Machine/HearthLink.lean ====
section
/-! DEFINITION. A flit arrives on a hearth link or the span bridge (R86 to R90). -/
namespace Sys2Proof.Machine

/-- The bytes of a flit carry the crc of R86. -/
def hflitCrcOk (b : List Byte) : Bool := crc32c (b.take 0xF8) == leAt b 0xF8 4

/-- The virtual channel of an opcode, none where R87 does not list it; read data (0x20) travels on 2 for memory and on 0
for registers. -/
def hopcodeOn (op vc : Nat) : Bool :=
  if op = 0x01 || op = 0x02 || op = 0x03 || op = 0x04 then vc == 0
  else if op = 0x10 || op = 0x11 then vc == 1
  else if op = 0x20 then vc == 2 || vc == 0
  else if op = 0x21 then vc == 2
  else if op = 0x30 || op = 0x31 then vc == 3
  else false

/-- The die whose checks a flit of a link meets (R73): compute die k for hearth link k; for the span bridge CD1.
Assumption: 38 (DEDUCED). -/
def dieOfLink (k : Nat) : Nat := min k 1

/-- Drops the acknowledged flits of the replay buffer, takes the credits, and sends what waited for room (R86, R90). -/
def State.hlkAck (s : State) (k ackSeq : Nat) (credits : List Nat) : State :=
  (s.modHlk k fun x => { x with
    replay := x.replay.filter fun r => serialAfter r.1 ackSeq 16
    lastAcked := ackSeq
    credits := (List.range 4).map fun i => x.credits.getD i 0 + credits.getD i 0 }).hlkPump k

/-- A negative acknowledgement with the last good sequence number (R90). -/
def State.hlkNak (s : State) (k : Nat) : State :=
  let x := s.hlk k
  let f : HFlit := { kind := 3, grove := 0, vc := 0, gen := 0, opcode := 0, address := 0, payload := [] }
  s.emit (.hearthFlit k (f.bytes ((x.nextSeq + 2 ^ 16 - 1) % 2 ^ 16) x.lastAccepted []))

/-- A flit that R73 drops: counted, described, and answered on its link at most once in 10 µs for its grove (R74, R77,
R78). Assumption: 38 (DEDUCED). -/
def State.hlkStale (s : State) (k grove gen : Nat) : State :=
  let die := dieOfLink k
  let s := s.bump .GRV_STALE_COUNT [die]
  let s := s.putReg .GRV_STALE_LAST [die] (BitVec.ofNat 64 (s.devnum * 2 ^ 33 + gen * 2 ^ 4 + grove))
  let key := (2 ^ 15 * die + s.devnum) * 16 + grove
  let due := match tget s.grv.nakSent key with
    | none => true
    | some t => s.aonUs - t ≥ 10
  if due then
    let x := s.grove grove
    let body := mfield 1 grove ++ mfield 2 x.generation ++ mfield 1 (b2n (!x.bound))
    { s with grv := { s.grv with nakSent := tset s.grv.nakSent key s.aonUs } }.hlkSend k
      { kind := 2, grove := grove, vc := 3, gen := x.generation, opcode := 0x31, address := 0, payload := body }
  else s

/-- A flit of virtual channel 0: a register read, answered; a register write or doorbell; an interrupt, to the core its
address names; register read data, handed on (R87, R88). Assumption: 84 (DESIGN CHOICE). -/
def State.hlkRuntime (s : State) (k : Nat) (f : HFlit) : State :=
  if f.opcode = 0x01 then
    let r := s.regLoad f.address 8
    r.1.hlkSend k { kind := 2, grove := 0, vc := 0, gen := 0, opcode := 0x20, address := f.address,
                    payload := toLe 8 r.2.toNat }
  else if f.opcode = 0x02 || f.opcode = 0x03 then
    s.regStore f.address (min 8 f.payload.length) (BitVec.ofNat 64 (leAt f.payload 0 8))
  else if f.opcode = 0x04 then (if f.address < 24 then s.interrupt f.address else s)
  else s.emit (.deliver 2 f.opcode ⟨s.devnum, dieOfLink k, 0, 0⟩ f.address f.payload)

/-- A flit of virtual channels 1 to 3: checked under R73, but for an access to the hearth region with grove 0 and
generation 0 (R88), a reply to one, and the answer of R74; then handed to its unit. Assumption: 38 (DEDUCED). -/
def State.hlkGrove (s : State) (k : Nat) (f : HFlit) : State :=
  let die := dieOfLink k
  let hearth := f.vc ≠ 3 && f.grove = 0 && f.gen = 0 && inHearth (f.address % 2 ^ 48) 1
  if hearth || f.opcode = 0x31 || s.groveIs f.grove f.gen then
    s.emit (.deliver die f.opcode ⟨s.devnum, die, f.grove, f.gen⟩ f.address f.payload)
  else s.hlkStale k f.grove f.gen

/-- An accepted flit acts, or is dropped and counted where its kind, opcode or length is invalid (R86, R87).
Assumption: 38 (DEDUCED). -/
def State.hlkAct (s : State) (k : Nat) (b : List Byte) : State :=
  let f := HFlit.parse b
  if f.kind > 3 || leAt b 0x0C 1 > 28 || !hopcodeOn f.opcode f.vc then s.bump .HLK_REPLAY_COUNT [k]
  else if f.vc = 0 then s.hlkRuntime k f
  else s.hlkGrove k f

/-- A flit arrives on an in-package link: with a wrong crc, or out of sequence, it is discarded and negatively
acknowledged; idle flits and negative acknowledgements are not numbered (R90). Assumption: 38 (DEDUCED). -/
def State.hlkReceive (s : State) (k : Nat) (b : List Byte) : State :=
  let x := s.hlk k
  let kind := leAt b 0 1
  let ack := leAt b 6 2
  let credits := (List.range 4).map fun i => leAt b (8 + i) 1
  if !x.carries then s
  else if !hflitCrcOk b then s.hlkNak k
  else if kind = 0 then s.hlkAck k ack credits
  else if kind = 3 then (s.hlkAck k ack credits).hlkReplay k ack
  else if leAt b 4 2 ≠ (x.lastAccepted + 1) % 2 ^ 16 then s.hlkNak k
  else ((s.modHlk k fun x => { x with lastAccepted := leAt b 4 2 }).hlkAck k ack credits).hlkAct k b

/-- A flit arrives on an in-package link. -/
def execHlkFlitReceive (link : Nat) (flit : List Byte) (s : State) : Host.Outcome State Fault Refusal :=
  .next (s.onDie fun s => s.hlkReceive link flit)

end Sys2Proof.Machine
end

