-- ==== Sys2Proof/Machine/Package.lean ====
section
/-! DEFINITION. Management over SMBus, and the test access port (ch. 22, R694). -/
namespace Sys2Proof.Machine

/-- The state with the management block changed. -/
def State.modPkg (s : State) (f : PkgState → PkgState) : State := { s with pkg := f s.pkg }

/-- The answer of a status byte (R682). -/
def State.smbusStatus (s : State) (code : Nat) : State := s.emit (.smbus [BitVec.ofNat 8 code])

/-! ## Registers (R682) -/

/-- REG_READ: 8 bytes of a permitted register, or status 0x01. -/
def State.smbusRead (s : State) (off : Nat) : State :=
  if alwaysAnswers off then
    let r := s.regLoad off 8
    r.1.emit (.smbus (toLe 8 r.2.toNat))
  else s.smbusStatus 1

/-- REG_READ; the target does not answer while RESET_N is low (R681). -/
def execSmbusRegRead (off : Nat) (s : State) : Host.Outcome State Fault Refusal :=
  .next (s.unheld fun s => s.smbusRead off)

/-- REG_WRITE: GLB_RECOVER, WCH_LOG_TAIL and WCH_LOG_STATE only; any other offset has no effect. -/
def State.smbusWrite (s : State) (off : Nat) (v : Word) : State :=
  if off = 0x18 || off = 0x30008 || off = 0x30010 then s.regStore off 8 v else s

/-- REG_WRITE. -/
def execSmbusRegWrite (off : Nat) (value : Word) (s : State) : Host.Outcome State Fault Refusal :=
  .next (s.unheld fun s => s.smbusWrite off value)

/-! ## Recovery images (R683) -/

/-- Heartwood holds the hearth cores after HWD_BOOT_FAIL and takes a stage set (R629). -/
def State.wantsSet (s : State) : Bool :=
  s.sup.phase == .kindling && s.hwd.stage == 0 && s.hwd.excludedA && s.hwd.excludedB

/-- Heartwood holds the hearth cores after HWD_PROVISION and takes a provision record (R629). -/
def State.wantsRecord (s : State) : Bool :=
  s.sup.phase == .kindling && s.hwd.stage == 1 && !s.hwd.provOk

/-- The kind of image heartwood takes is this one. -/
def State.wantsImage (s : State) (kind : Nat) : Bool :=
  if kind = 0 then s.wantsSet else if kind = 1 then s.wantsRecord else false

/-- A length fits its kind: a stage set holds at most 66 MiB, a provision record is one frame of 2,124 bytes.
Assumption: 82 (DESIGN CHOICE). -/
def imageFits (kind length : Nat) : Bool :=
  if kind = 0 then 0 < length && length ≤ 66 * 2 ^ 20 else length == 2124

/-- Ends the reception of an image with a status; the bytes are discarded. -/
def State.imgClear (s : State) (status : Nat) : State :=
  s.modPkg fun p => { p with imgStatus := status, imgData := [], imgLength := 0 }

/-- An image refused before its content is judged: HWD_IMAGE for a stage set, HWD_PROVISION for a record. -/
def State.imgRefuse (s : State) (kind : Nat) : State :=
  (s.bootFault (if kind = 0 then 0x05 else 0x07) (min 1 s.hwd.stage) s.hwd.copyB).imgClear 4

/-- IMG_BEGIN: reception starts, or status 0x02 outside the permitted state; a length that does not fit is refused. -/
def State.imgBegin (s : State) (kind length : Nat) : State :=
  if !s.wantsImage kind then s.smbusStatus 2
  else if !imageFits kind length then s.imgRefuse kind
  else s.modPkg fun p => { p with imgKind := kind, imgLength := length, imgData := [], imgStatus := 1 }

/-- IMG_BEGIN. -/
def execSmbusImgBegin (kind length : Nat) (s : State) : Host.Outcome State Fault Refusal :=
  .next (s.unheld fun s => s.imgBegin kind length)

/-- IMG_DATA: the bytes go to their offset; bytes beyond the image's length are dropped.
Assumption: 82 (DESIGN CHOICE). -/
def State.imgBytes (s : State) (off : Nat) (data : List Byte) : State :=
  if s.pkg.imgStatus ≠ 1 || !s.wantsImage s.pkg.imgKind then s.smbusStatus 2
  else
    let keep := data.take (s.pkg.imgLength - off)
    s.modPkg fun p => { p with imgData := keep.zipIdx.foldl (fun t b => tset t (off + b.2) b.1) p.imgData }

/-- IMG_DATA. -/
def execSmbusImgData (off : Nat) (data : List Byte) (s : State) : Host.Outcome State Fault Refusal :=
  .next (s.unheld fun s => s.imgBytes off data)

/-- The image as received; a byte never delivered is zero. -/
def PkgState.image (p : PkgState) : List Byte := (List.range p.imgLength).map fun i => tgetD p.imgData i 0

/-- The boot goes on at step 3 with the record now stored (R629, R683): stage 2 of the running set is checked and
loaded; where it fails, heartwood restarts from the ROM and the next boot takes the other copy.
Assumptions: 80 (DEDUCED), 82 (DESIGN CHOICE). -/
def State.bootResume (s : State) : State :=
  match s.bootProvision with
  | (s, false) => s
  | (s, true) =>
    let h := s.hwd
    let code := stageCode h.rollback h.running.bytes 2
    if code = 0 then s.bootLoader h.running.bytes
    else
      let s := ((s.bootFault code 2 h.copyB).excludeCopy h.copyB h.recovery).romStart
      if s.hwd.excludedA && s.hwd.excludedB then s.bootFault 0x06 0 false else s

/-- A stage set is checked and boots with HWD_BOOT_STATUS.recovery; the answer is the code of its failure, 0 for none. A
failed check leaves heartwood in its ROM, waiting for another set. Assumption: 79 (DEDUCED). -/
def State.applySet (s : State) (b : List Byte) : State × Nat :=
  match s.bootSet b false true with
  | (s, 0) => (s, 0)
  | (s, code) => (if s.hwd.stage = 0 then s else s.romStart, code)

/-- A checked provision record is applied as PROVISION_SET does and the boot goes on with it; a failed one writes its
heartwood code. Assumption: 82 (DESIGN CHOICE). -/
def State.applyRecord (s : State) (b : List Byte) : State × Nat :=
  match s.provisionSet b with
  | (s, 0) =>
    ((s.modHwd fun h => { h with prov := h.provPending.or h.prov, provPending := none }).bootResume, 0)
  | (s, code) => (s.bootFault code 1 s.hwd.copyB, code)

/-- IMG_END: the crc of the whole image, then the checks of its kind; a refused image starts again from IMG_BEGIN.
Assumption: 82 (DESIGN CHOICE). -/
def State.imgEnd (s : State) (crc : Nat) : State :=
  let p := s.pkg
  if p.imgStatus ≠ 1 || !s.wantsImage p.imgKind then s.smbusStatus 2
  else
    let b := p.image
    if crc32c b ≠ crc then s.imgRefuse p.imgKind
    else
      let r := if p.imgKind = 0 then s.applySet b else s.applyRecord b
      r.1.imgClear (if r.2 = 0 then 3 else 4)

/-- IMG_END. -/
def execSmbusImgEnd (crc : Nat) (s : State) : Host.Outcome State Fault Refusal :=
  .next (s.unheld fun s => s.imgEnd crc)

/-- IMG_STATUS: the status of the image reception. -/
def execSmbusImgStatus (s : State) : Host.Outcome State Fault Refusal :=
  .next (s.unheld fun s => s.smbusStatus s.pkg.imgStatus)

/-! ## Alert -/

/-- A read of the Alert Response Address (R684): a target that drives ALERT_N low answers with its address and releases
it, except in the ash state. -/
def State.alertResponse (s : State) : State :=
  if !s.sup.alertLow then s
  else
    let s := s.emit (.smbus [BitVec.ofNat 8 (0x58 + s.pkg.strap)])
    if s.sup.phase == .ash then s else { s with sup := { s.sup with alertLow := false } }

/-- The Alert Response Address is read. -/
def execSmbusAlertResponse (s : State) : Host.Outcome State Fault Refusal := .next (s.unheld State.alertResponse)

/-! ## The test access port (R686, R694) -/

/-- The instructions that are test mode. -/
def TapInstr.isTest : TapInstr → Bool
  | .extest | .extestPulse | .extestTrain | .clamp | .highz => true
  | .bypass | .idcode | .samplePreload => false

/-- The TAP leaves its test instruction: every trunk and branch port is left DISABLED, and the Ethernet ports restart
(R694). Assumption: 60 (DEDUCED). -/
def State.tapLeave (s : State) (next : TapInstr) : State :=
  if !s.testMode then s.modPkg fun p => { p with tap := next }
  else ((s.modPkg fun p => { p with tap := next }).portsOff.refPortCheck).modHrt fun h => { h with ethUp := [false, false] }

/-- The TAP takes an instruction; a test instruction is BYPASS while any grove is bound. EXTEST_TRAIN takes the ports out
of ACTIVE, so that a recovered reference is ABSENT (ch. 23, note 18). Assumption: 60 (DEDUCED). -/
def State.tapEntry (s : State) (i : TapInstr) : State :=
  let i := if TapInstr.isTest i && !s.boundGroves.isEmpty then .bypass else i
  if !TapInstr.isTest i then s.tapLeave i
  else
    let s := s.modPkg fun p => { p with tap := i }
    if i == .extestTrain then s.portsOff.refPortCheck else s

/-- A TAP instruction. -/
def execTapTestEntry (i : TapInstr) (s : State) : Host.Outcome State Fault Refusal :=
  .next (s.unheld fun s => s.tapEntry i)

/-- The TAP leaves its test instruction; it rests in Test-Logic-Reset with IDCODE. -/
def execTapTestExit (s : State) : Host.Outcome State Fault Refusal := .next (s.unheld fun s => s.tapLeave .idcode)

end Sys2Proof.Machine
end

