-- ==== Sys2Proof/Machine/Dispatch.lean ====
section
/-! DEFINITION. The meaning of each command, one arm per constructor. -/
namespace Sys2Proof.Machine

/-- The effect of a command on everything but the queue. -/
def exec (i : Instr) (s : State) : Host.Outcome State Fault Refusal :=
  match i with
  | .registerWrite off width value => Sys2Proof.Machine.execRegisterWrite off width value s
  | .glbDevnumWrite value => Sys2Proof.Machine.execGlbDevnumWrite value s
  | .batchGo value => Sys2Proof.Machine.execBatchGo value s
  | .batchQuiesceDone => Sys2Proof.Machine.execBatchQuiesceDone s
  | .quiesceTimeout image => Sys2Proof.Machine.execQuiesceTimeout image s
  | .resourceClearDone => Sys2Proof.Machine.execResourceClearDone s
  | .scrubAdvance channel => Sys2Proof.Machine.execScrubAdvance channel s
  | .staleGroveNak nak => Sys2Proof.Machine.execStaleGroveNak nak s
  | .budgetPeriodStart die grove => Sys2Proof.Machine.execBudgetPeriodStart die grove s
  | .grvBudgetWrite die grove activity value => Sys2Proof.Machine.execGrvBudgetWrite die grove activity value s
  | .bindingDigestCheck die corrupted => Sys2Proof.Machine.execBindingDigestCheck die corrupted s
  | .hlkFlitReceive link flit => Sys2Proof.Machine.execHlkFlitReceive link flit s
  | .hlkNakReceive link ackSeq => Sys2Proof.Machine.execHlkNakReceive link ackSeq s
  | .hlkReplayTimeout link => Sys2Proof.Machine.execHlkReplayTimeout link s
  | .hlkRetrainDone link modules lanes => Sys2Proof.Machine.execHlkRetrainDone link modules lanes s
  | .queueDoorbell queue value => Sys2Proof.Machine.execQueueDoorbell queue value s
  | .commandFetch queue => Sys2Proof.Machine.execCommandFetch queue s
  | .queueEnable queue value => Sys2Proof.Machine.execQueueEnable queue value s
  | .queueEnableTakeEffect queue => Sys2Proof.Machine.execQueueEnableTakeEffect queue s
  | .queueDisable queue value => Sys2Proof.Machine.execQueueDisable queue value s
  | .tlsConnect operator certificate => Sys2Proof.Machine.execTlsConnect operator certificate s
  | .sessionIdleTimeout session => Sys2Proof.Machine.execSessionIdleTimeout session s
  | .rdmaRequest qp req => Sys2Proof.Machine.execRdmaRequest qp req s
  | .inject queue index => Sys2Proof.Machine.execInject queue index s
  | .injectPlace queue index => Sys2Proof.Machine.execInjectPlace queue index s
  | .taskDispatch tile unit cycles => Sys2Proof.Machine.execTaskDispatch tile unit cycles s
  | .taskComplete tile slot r => Sys2Proof.Machine.execTaskComplete tile slot r s
  | .kntSignal knot value => Sys2Proof.Machine.execKntSignal knot value s
  | .kntInit knot value => Sys2Proof.Machine.execKntInit knot value s
  | .knotSignalMessage o knot amount => Sys2Proof.Machine.execKnotSignalMessage o knot amount s
  | .schClearHighWater tile => Sys2Proof.Machine.execSchClearHighWater tile s
  | .schClearCounters tile => Sys2Proof.Machine.execSchClearCounters tile s
  | .streamSet queue index => Sys2Proof.Machine.execStreamSet queue index s
  | .progLoad queue index => Sys2Proof.Machine.execProgLoad queue index s
  | .progUnload queue index => Sys2Proof.Machine.execProgUnload queue index s
  | .smpAdjReadReturn lane parent cycles => Sys2Proof.Machine.execSmpAdjReadReturn lane parent cycles s
  | .adjRange die o r => Sys2Proof.Machine.execAdjRange die o r s
  | .adjPick die o r => Sys2Proof.Machine.execAdjPick die o r s
  | .adjResponseReceive die request r => Sys2Proof.Machine.execAdjResponseReceive die request r s
  | .smpRemoteTimeout die request => Sys2Proof.Machine.execSmpRemoteTimeout die request s
  | .gather queue index => Sys2Proof.Machine.execGather queue index s
  | .scatter queue index => Sys2Proof.Machine.execScatter queue index s
  | .scatterClose queue index => Sys2Proof.Machine.execScatterClose queue index s
  | .gthCommandStart queue index spxUe => Sys2Proof.Machine.execGthCommandStart queue index spxUe s
  | .rowRead die o r => Sys2Proof.Machine.execRowRead die o r s
  | .rowReadRelease die o request => Sys2Proof.Machine.execRowReadRelease die o request s
  | .rowAccumulate die o a => Sys2Proof.Machine.execRowAccumulate die o a s
  | .rowDataReceive die d => Sys2Proof.Machine.execRowDataReceive die d s
  | .accumulateAckReceive die request status => Sys2Proof.Machine.execAccumulateAckReceive die request status s
  | .negativeResponseReceive die op request code => Sys2Proof.Machine.execNegativeResponseReceive die op request code s
  | .gthRemoteTimeout die accumulate request => Sys2Proof.Machine.execGthRemoteTimeout die accumulate request s
  | .gthMergeQuotaWrite die grove value => Sys2Proof.Machine.execGthMergeQuotaWrite die grove value s
  | .tableLoad queue index => Sys2Proof.Machine.execTableLoad queue index s
  | .tableDrop queue index => Sys2Proof.Machine.execTableDrop queue index s
  | .regraftBegin queue index => Sys2Proof.Machine.execRegraftBegin queue index s
  | .scionBegin queue index => Sys2Proof.Machine.execScionBegin queue index s
  | .dirStage queue index => Sys2Proof.Machine.execDirStage queue index s
  | .dirUnstage queue index => Sys2Proof.Machine.execDirUnstage queue index s
  | .pendAbandon queue index => Sys2Proof.Machine.execPendAbandon queue index s
  | .heatRead queue index => Sys2Proof.Machine.execHeatRead queue index s
  | .regraftCopyReceive die o c => Sys2Proof.Machine.execRegraftCopyReceive die o c s
  | .regraftCopyAck die request => Sys2Proof.Machine.execRegraftCopyAck die request s
  | .regraftCopyTimeout die request => Sys2Proof.Machine.execRegraftCopyTimeout die request s
  | .flipDoneReceive die o table row step => Sys2Proof.Machine.execFlipDoneReceive die o table row step s
  | .scionCopyReceive die o c => Sys2Proof.Machine.execScionCopyReceive die o c s
  | .scionCopyAck die request => Sys2Proof.Machine.execScionCopyAck die request s
  | .scionRefreshReceive die o c => Sys2Proof.Machine.execScionRefreshReceive die o c s
  | .refreshDoneReceive o step => Sys2Proof.Machine.execRefreshDoneReceive o step s
  | .embEntryQuotaWrite grove value => Sys2Proof.Machine.execEmbEntryQuotaWrite grove value s
  | .abftCheckDone tile => Sys2Proof.Machine.execAbftCheckDone tile s
  | .abftMismatchReport tile => Sys2Proof.Machine.execAbftMismatchReport tile s
  | .tilAbftTolWrite tile value => Sys2Proof.Machine.execTilAbftTolWrite tile value s
  | .tilAbftAbsWrite tile value => Sys2Proof.Machine.execTilAbftAbsWrite tile value s
  | .updRowbufWrite die grove value => Sys2Proof.Machine.execUpdRowbufWrite die grove value s
  | .memRequest r ctrlUe => Sys2Proof.Machine.execMemRequest r ctrlUe s
  | .nearMemoryAccumulate a => Sys2Proof.Machine.execNearMemoryAccumulate a s
  | .wcbAgeEvict channel err => Sys2Proof.Machine.execWcbAgeEvict channel err s
  | .patrolScrubRead channel err => Sys2Proof.Machine.execPatrolScrubRead channel err s
  | .memMrRead die value => Sys2Proof.Machine.execMemMrRead die value s
  | .memMrWrite die value => Sys2Proof.Machine.execMemMrWrite die value s
  | .memSoftRepair die value => Sys2Proof.Machine.execMemSoftRepair die value s
  | .memHardRepair die value => Sys2Proof.Machine.execMemHardRepair die value s
  | .memQueryRepair die value => Sys2Proof.Machine.execMemQueryRepair die value s
  | .softRepairResult channel success reads => Sys2Proof.Machine.execSoftRepairResult channel success reads s
  | .hardRepairDone channel success => Sys2Proof.Machine.execHardRepairDone channel success s
  | .mapoutGo die value => Sys2Proof.Machine.execMapoutGo die value s
  | .mapoutCopyDone die reads => Sys2Proof.Machine.execMapoutCopyDone die reads s
  | .memChmapSetWrite die value => Sys2Proof.Machine.execMemChmapSetWrite die value s
  | .stackTempSample stack reading => Sys2Proof.Machine.execStackTempSample stack reading s
  | .lnkFlitReceive port lane fec flit => Sys2Proof.Machine.execLnkFlitReceive port lane fec flit s
  | .lnkNakReceive port ackSeq => Sys2Proof.Machine.execLnkNakReceive port ackSeq s
  | .lnkReplayTimeout port => Sys2Proof.Machine.execLnkReplayTimeout port s
  | .lnkIdleSend port => Sys2Proof.Machine.execLnkIdleSend port s
  | .portEnable port value => Sys2Proof.Machine.execPortEnable port value s
  | .portDisable port value => Sys2Proof.Machine.execPortDisable port value s
  | .portRetrain port value => Sys2Proof.Machine.execPortRetrain port value s
  | .trainSignalDetect port lanes => Sys2Proof.Machine.execTrainSignalDetect port lanes s
  | .trainEqualiseDone port lanes => Sys2Proof.Machine.execTrainEqualiseDone port lanes s
  | .trainAlignDone port lanes => Sys2Proof.Machine.execTrainAlignDone port lanes s
  | .identityExchange port id => Sys2Proof.Machine.execIdentityExchange port id s
  | .retrainDone port lanes id => Sys2Proof.Machine.execRetrainDone port lanes id s
  | .retrainBoundExpiry port lanes => Sys2Proof.Machine.execRetrainBoundExpiry port lanes s
  | .laneLockTimeout port lane => Sys2Proof.Machine.execLaneLockTimeout port lane s
  | .laneRemoveMessage port lane => Sys2Proof.Machine.execLaneRemoveMessage port lane s
  | .lnkCreditCfgWrite port value => Sys2Proof.Machine.execLnkCreditCfgWrite port value s
  | .lnkTorusWrite value => Sys2Proof.Machine.execLnkTorusWrite value s
  | .lnkBundleWrite value => Sys2Proof.Machine.execLnkBundleWrite value s
  | .lnkStandinWrite dir value => Sys2Proof.Machine.execLnkStandinWrite dir value s
  | .schedLoad queue index => Sys2Proof.Machine.execSchedLoad queue index s
  | .schedDrop queue index => Sys2Proof.Machine.execSchedDrop queue index s
  | .stepOpen queue index => Sys2Proof.Machine.execStepOpen queue index s
  | .stepVoid queue index => Sys2Proof.Machine.execStepVoid queue index s
  | .contributionSend die grove reduction => Sys2Proof.Machine.execContributionSend die grove reduction s
  | .contributionReceive die o c => Sys2Proof.Machine.execContributionReceive die o c s
  | .contributionAckReceive die o request status => Sys2Proof.Machine.execContributionAckReceive die o request status s
  | .contributionTimeout die grove request => Sys2Proof.Machine.execContributionTimeout die grove request s
  | .partialMessageTimeout port vc dl => Sys2Proof.Machine.execPartialMessageTimeout port vc dl s
  | .reductionDeadline die grove reduction => Sys2Proof.Machine.execReductionDeadline die grove reduction s
  | .bcastPieceReceive die o p => Sys2Proof.Machine.execBcastPieceReceive die o p s
  | .bcastAckReceive die o request => Sys2Proof.Machine.execBcastAckReceive die o request s
  | .bcastPieceTimeout die grove request => Sys2Proof.Machine.execBcastPieceTimeout die grove request s
  | .bcastCompletionTimeout die grove => Sys2Proof.Machine.execBcastCompletionTimeout die grove s
  | .cleanReportSend grove => Sys2Proof.Machine.execCleanReportSend grove s
  | .voidAckSend grove => Sys2Proof.Machine.execVoidAckSend grove s
  | .commitReportReceive o r => Sys2Proof.Machine.execCommitReportReceive o r s
  | .commitRelease o r => Sys2Proof.Machine.execCommitRelease o r s
  | .voidReceive o v => Sys2Proof.Machine.execVoidReceive o v s
  | .commitTimeout grove => Sys2Proof.Machine.execCommitTimeout grove s
  | .voidBarrierTimeout grove => Sys2Proof.Machine.execVoidBarrierTimeout grove s
  | .stepCommitComplete grove => Sys2Proof.Machine.execStepCommitComplete grove s
  | .updLoad queue index => Sys2Proof.Machine.execUpdLoad queue index s
  | .updDrop queue index => Sys2Proof.Machine.execUpdDrop queue index s
  | .updConst queue index => Sys2Proof.Machine.execUpdConst queue index s
  | .wchLogTailWrite value => Sys2Proof.Machine.execWchLogTailWrite value s
  | .wchLogStateWrite value => Sys2Proof.Machine.execWchLogStateWrite value s
  | .tileExclude value => Sys2Proof.Machine.execTileExclude value s
  | .tileReadmit value => Sys2Proof.Machine.execTileReadmit value s
  | .recomputeDone tile cls => Sys2Proof.Machine.execRecomputeDone tile cls s
  | .ftRun queue index => Sys2Proof.Machine.execFtRun queue index s
  | .ftAbort queue index => Sys2Proof.Machine.execFtAbort queue index s
  | .ftDone die kind object result => Sys2Proof.Machine.execFtDone die kind object result s
  | .planLoad queue index => Sys2Proof.Machine.execPlanLoad queue index s
  | .fire queue index => Sys2Proof.Machine.execFire queue index s
  | .klnAbort queue index => Sys2Proof.Machine.execKlnAbort queue index s
  | .restore queue index => Sys2Proof.Machine.execRestore queue index s
  | .probe queue index => Sys2Proof.Machine.execProbe queue index s
  | .kilnDestAck o request => Sys2Proof.Machine.execKilnDestAck o request s
  | .kilnCaptureDone grove => Sys2Proof.Machine.execKilnCaptureDone grove s
  | .kilnTouchDone grove page cycles => Sys2Proof.Machine.execKilnTouchDone grove page cycles s
  | .kilnDrainReceive die o w => Sys2Proof.Machine.execKilnDrainReceive die o w s
  | .kilnDrainTimeout grove => Sys2Proof.Machine.execKilnDrainTimeout grove s
  | .restoreDataReceive tag data => Sys2Proof.Machine.execRestoreDataReceive tag data s
  | .clkMonitorWindow island khz unanswered => Sys2Proof.Machine.execClkMonitorWindow island khz unanswered s
  | .refEdgeDetect source => Sys2Proof.Machine.execRefEdgeDetect source s
  | .refEdgeLoss source => Sys2Proof.Machine.execRefEdgeLoss source s
  | .refQualWindow source hz pllLocked => Sys2Proof.Machine.execRefQualWindow source hz pllLocked s
  | .refCrossCheck offset => Sys2Proof.Machine.execRefCrossCheck offset s
  | .pllUnlock pll => Sys2Proof.Machine.execPllUnlock pll s
  | .pllRelocked => Sys2Proof.Machine.execPllRelocked s
  | .clkRefSelWrite value => Sys2Proof.Machine.execClkRefSelWrite value s
  | .refSwitchDone => Sys2Proof.Machine.execRefSwitchDone s
  | .pwrOpReqWrite die value => Sys2Proof.Machine.execPwrOpReqWrite die value s
  | .dvfsPllLocked die => Sys2Proof.Machine.execDvfsPllLocked die s
  | .dvfsVoltageSettled die => Sys2Proof.Machine.execDvfsVoltageSettled die s
  | .railSample inWindow reading => Sys2Proof.Machine.execRailSample inWindow reading s
  | .vinOutOfWindow tenMillivolts => Sys2Proof.Machine.execVinOutOfWindow tenMillivolts s
  | .pscTlmFrame voltage current fault => Sys2Proof.Machine.execPscTlmFrame voltage current fault s
  | .pscTlmMissing => Sys2Proof.Machine.execPscTlmMissing s
  | .pscFault => Sys2Proof.Machine.execPscFault s
  | .auxSupplyUp strap => Sys2Proof.Machine.execAuxSupplyUp strap s
  | .vinInWindow => Sys2Proof.Machine.execVinInWindow s
  | .pscPowerGood => Sys2Proof.Machine.execPscPowerGood s
  | .pwrSmoulderEnter value => Sys2Proof.Machine.execPwrSmoulderEnter value s
  | .pwrSmoulderLeave value => Sys2Proof.Machine.execPwrSmoulderLeave value s
  | .smoulderEntryDone => Sys2Proof.Machine.execSmoulderEntryDone s
  | .smoulderExitDone => Sys2Proof.Machine.execSmoulderExitDone s
  | .dieTempSample die hottest sensor unreadable => Sys2Proof.Machine.execDieTempSample die hottest sensor unreadable s
  | .thermalClampStep die => Sys2Proof.Machine.execThermalClampStep die s
  | .powerCapAverage watts => Sys2Proof.Machine.execPowerCapAverage watts s
  | .inputOvercurrent => Sys2Proof.Machine.execInputOvercurrent s
  | .droopRelease => Sys2Proof.Machine.execDroopRelease s
  | .pwrCapWrite value => Sys2Proof.Machine.execPwrCapWrite value s
  | .pwrThermCfgWrite value => Sys2Proof.Machine.execPwrThermCfgWrite value s
  | .heartwoodBoot copyA copyB pufOk nvmUe => Sys2Proof.Machine.execHeartwoodBoot copyA copyB pufOk nvmUe s
  | .attest value nvmUe => Sys2Proof.Machine.execAttest value nvmUe s
  | .identRead value nvmUe => Sys2Proof.Machine.execIdentRead value nvmUe s
  | .measureExtend value => Sys2Proof.Machine.execMeasureExtend value s
  | .provisionSet value nvmUe => Sys2Proof.Machine.execProvisionSet value nvmUe s
  | .rollbackCommit value nvmUe => Sys2Proof.Machine.execRollbackCommit value nvmUe s
  | .loadRuntime value copyA copyB => Sys2Proof.Machine.execLoadRuntime value copyA copyB s
  | .service value => Sys2Proof.Machine.execService value s
  | .recover value => Sys2Proof.Machine.execRecover value s
  | .warmReset value => Sys2Proof.Machine.execWarmReset value s
  | .coldReset value => Sys2Proof.Machine.execColdReset value s
  | .groveReset value => Sys2Proof.Machine.execGroveReset value s
  | .forceAsh value => Sys2Proof.Machine.execForceAsh value s
  | .resetNLow us => Sys2Proof.Machine.execResetNLow us s
  | .smbusRegRead off => Sys2Proof.Machine.execSmbusRegRead off s
  | .smbusRegWrite off value => Sys2Proof.Machine.execSmbusRegWrite off value s
  | .smbusImgBegin kind length => Sys2Proof.Machine.execSmbusImgBegin kind length s
  | .smbusImgData off data => Sys2Proof.Machine.execSmbusImgData off data s
  | .smbusImgEnd crc => Sys2Proof.Machine.execSmbusImgEnd crc s
  | .smbusImgStatus => Sys2Proof.Machine.execSmbusImgStatus s
  | .smbusAlertResponse => Sys2Proof.Machine.execSmbusAlertResponse s
  | .tapTestEntry t => Sys2Proof.Machine.execTapTestEntry t s
  | .tapTestExit => Sys2Proof.Machine.execTapTestExit s
  | .resetNRelease strap => Sys2Proof.Machine.execResetNRelease strap s
  | .laneLockLoss port => Sys2Proof.Machine.execLaneLockLoss port s
  | .hlkTrainingDone cd0 cd1 span => Sys2Proof.Machine.execHlkTrainingDone cd0 cd1 span s
  | .memPhyTrainingDone t => Sys2Proof.Machine.execMemPhyTrainingDone t s
  | .ethLinkTrainingDone port => Sys2Proof.Machine.execEthLinkTrainingDone port s
  | .rdmaResponseReceive qp resp => Sys2Proof.Machine.execRdmaResponseReceive qp resp s
  | .tlsSessionMessage session msg => Sys2Proof.Machine.execTlsSessionMessage session msg s
  | .refreshAckReceive die request => Sys2Proof.Machine.execRefreshAckReceive die request s
  | .regraftMirrorReceive die o c => Sys2Proof.Machine.execRegraftMirrorReceive die o c s
  | .localRowReadReturn queue index unique => Sys2Proof.Machine.execLocalRowReadReturn queue index unique s

end Sys2Proof.Machine
end

