-- ==== Sys2Proof/Machine/Step.lean ====
section
/-! DEFINITION. One step of the block: the command at the front of the queue, or an idle tick. -/
namespace Sys2Proof.Machine

/-- The state with the front of the queue taken off. -/
def State.withPending (s : State) (q : List Instr) : State := { s with pending := q }

/-- One step: `exec` of the front command on the state with the queue's rest; on an empty queue one microsecond of the
always-on island passes, unless RESET_N holds it (DESIGN CHOICE, notes/assumptions/1.md).
Assumptions: 1 (DESIGN CHOICE), 85 (DESIGN CHOICE). -/
def step (s : State) : Host.Outcome State Fault Refusal :=
  match s.pending with
  | [] => .next (s.unheld State.tick)
  | c :: rest => exec c (s.withPending rest)

/-- The state with the command a table word spells at the front of its queue; the table gives no row bits, so the
state is unchanged. Assumption: 2 (DESIGN CHOICE). -/
def State.withFetchWord (s : State) (nbits w : Nat) : State :=
  match decodeTableWord nbits w with
  | none => s
  | some c => s.withPending (c :: s.pending)

end Sys2Proof.Machine
end

