-- ==== Sys2Proof/Safety.lean ====
section
/-! DEFINITION. The terms in which statements about the block are made: which registers have a row of their own, when
nothing waits that an event could release, what an invariant of every step is. -/
namespace Sys2Proof.Machine

/-- The registers whose write has an effect beyond the access codes of R14 (rows of the opcode table, SCH_CLEAR,
PWR_SMOULDER, COL_TALLY_RING): every other register is written by REGISTER_WRITE alone. -/
def ownRow : Reg → Bool
  | .GLB_DEVNUM | .GLB_RECOVER | .CLK_REF_SEL | .PWR_OP_REQ | .PWR_CAP | .PWR_THERM_CFG | .PWR_SMOULDER | .WCH_LOG_TAIL
  | .WCH_LOG_STATE | .WCH_TILE_CTL | .HWD_MBOX_CMD | .HLK_QCFG | .HLK_QDOORBELL | .GRV_LOAD | .GRV_BUDGET | .SCH_CLEAR
  | .KNT_SIGNAL | .KNT_INIT_TYPE | .KNT_INIT | .COL_TALLY_RING | .UPD_ROWBUF | .GTH_MERGE_QUOTA | .EMB_ENTRY_QUOTA
  | .MEM_MAPOUT | .MEM_REPAIR_CMD | .MEM_CHMAP_SET | .LNK_PORT_CFG_T | .LNK_PORT_CFG_B | .LNK_CREDIT_CFG_T
  | .LNK_CREDIT_CFG_B | .LNK_TORUS | .LNK_BUNDLE | .LNK_STANDIN | .TIL_ABFT_TOL | .TIL_ABFT_ABS => true
  | _ => false

/-- Nothing waits that an event could release: no message or request is held, no command is at work, no task has a
slot. -/
def State.quiet (s : State) : Bool :=
  s.lnk.held.isEmpty && s.lnk.serve.isEmpty && s.mem.held.isEmpty && s.col.heldOpens.isEmpty && s.sch.slots.isEmpty &&
    s.sch.injects.isEmpty && s.gth.cmds.isEmpty && s.upd.work.isEmpty && s.kln.firings.isEmpty && s.hwd.attWait.isNone &&
    s.sup.heldGroveResets.isEmpty

/-- The memory's bytes are in their canonical form: places strictly rise and no listed byte is zero. -/
def State.memWf (s : State) : Bool := Memory.wf s.mem.cells && Memory.wf s.til.scratch

/-- The board-facing outputs stand as R666 gives them for the phase: FAULT_N low exactly in the ash state, SVC_N low exactly in
service and smoulder, ALERT_N low throughout the ash state, THERMTRIP_N low only there. -/
@[reducible] def StartState.right (x : StartState) : Bool :=
  x.faultLow == (x.phase == .ash) && x.svcLow == (x.phase == .service || x.phase == .smoulder) &&
    (x.alertLow || x.phase != .ash) && (x.phase == .ash || !x.thermLow)

/-- The error log has room for one more record (R532). -/
def State.logRoom (s : State) : Bool :=
  subMod 32 (s.regFld .WCH_LOG_HEAD [] 0 32) (s.regFld .WCH_LOG_TAIL [] 0 32) < 1024

/-- An offset of a register that neither the log nor a group's heat changes. -/
def plainOff (a : Nat) : Bool :=
  a != regAddr .WCH_LOG_LOST [] && a != regAddr .WCH_LOG_STATE [] && a != regAddr .WCH_LOG_HEAD []

/-- The record the log took last. -/
def State.lastRecord (s : State) : Option LogRec :=
  tget s.wch.log ((s.regFld .WCH_LOG_HEAD [] 0 32 + 2 ^ 32 - 1) % 2 ^ 32 % 1024)

/-- The offset of the mailbox's buffer (R641). -/
def State.mboxAt (s : State) : Nat := wfld (s.getReg .HWD_MBOX_ARG []) 6 35 * 64

/-- Heartwood takes a write of HWD_MBOX_CMD with go: its firmware runs, the mailbox is not busy, and the buffer, up to
`reach` bytes (0: none), lies in the hearth region and is reachable (R641). -/
def State.mboxTakes (s : State) (v : Word) (reach : Nat) : Bool :=
  s.sup.phase != .ash && s.hwd.stage != 0 && v.getLsbD 63 && !s.mboxBusy &&
    (reach == 0 || (s.islandsRun && inHearth s.mboxAt reach))

/-- The state once heartwood has taken the command: busy, with its tag (R645). -/
def State.mboxTaken (s : State) (v : Word) : State :=
  let s := s.softWrite .HWD_MBOX_CMD [] v
  s.putReg .HWD_MBOX_STATUS [] (BitVec.ofNat 64
    (wfld v 0 16 * 2 ^ 16 + (s.getReg .HWD_MBOX_STATUS []).toNat / 2 % 2 * 2 + 1))

/-- HWD_MBOX_STATUS of a command that has ended: its tag, its result and done (R645). -/
def mboxDone (tag result : Nat) : Word := BitVec.ofNat 64 (tag * 2 ^ 16 + result * 2 ^ 8 + 2)

end Sys2Proof.Machine
end

