-- ==== Sys2Proof/Certificates/Slice0/Obligations.lean ====
section
/-! DEFINITION. The obligations: what the rules of the spec say that each family of commands does to the block, what a
step is, and what every step keeps. -/
open Sys2Proof Sys2Proof.Machine

/-! ## Statements about the block as a whole -/

/-- A step with a command at the front of the queue is `exec` of that command on the state with the queue's rest. -/
def Obligations.StepTakesTheFront : Prop :=
  ∀ (s : State) (c : Instr) (rest : List Instr), s.pending = c :: rest → step s = exec c (s.withPending rest)

/-- R588, R622, R667, and the model's choice of notes/assumptions/1.md: a step on an empty queue lets one microsecond of
the always-on island pass. It counts a microsecond of clamps, and one of the power-cap clamp, while they are in force,
and changes nothing else; while RESET_N is low it changes nothing. -/
def Obligations.IdleTick : Prop :=
  ∀ (s : State), s.pending = [] →
    (s.sup.recovery = .resetHeld → step s = .next s) ∧
    (s.sup.recovery ≠ .resetHeld → ∃ t, step s = .next t ∧ t.aonUs = s.aonUs + 1 ∧
      { t with aonUs := s.aonUs, regs := s.regs } = s ∧
      t.getReg .PWR_CLAMP_US [] =
        (if s.anyClamp then (statAdd (s.getReg .PWR_CLAMP_US []) 1).1 else s.getReg .PWR_CLAMP_US []) ∧
      t.getReg .PWR_CAP_US [] =
        (if s.clk.capClamp.any (· != 0) then (statAdd (s.getReg .PWR_CAP_US []) 1).1 else s.getReg .PWR_CAP_US []) ∧
      (∀ a, a ≠ regAddr .PWR_CLAMP_US [] → a ≠ regAddr .PWR_CAP_US [] → tget t.regs a = tget s.regs a))

/-- Every command of the table has an effect in every state: a step always answers a next state, takes at most the front
command off the queue, and never takes back a message that the device has sent. -/
def Obligations.EveryStepAnswers : Prop :=
  ∀ (s : State), ∃ t, step s = .next t ∧ t.pending = s.pending.tail ∧ s.outbox <+: t.outbox

/-- R17, R43: after reset every register reads its reset value; the device is in kindling with no grove bound, no valid
device number, no record in the log and no message sent; the memory is in canonical form and the outputs stand as R666
gives them. -/
def Obligations.ResetState : Prop :=
  (∀ r ix, State.reset.getReg r ix = regReset r ix) ∧ State.reset.sup.phase = .kindling ∧
    State.reset.getReg .GLB_STATUS [] = 0x10#64 ∧ State.reset.boundGroves = [] ∧ State.reset.devnumValid = false ∧
    State.reset.wch.log = [] ∧ State.reset.wch.fatal = none ∧ State.reset.outbox = [] ∧ State.reset.pending = [] ∧
    State.reset.memWf = true ∧ State.reset.sup.right = true

/-- Every step keeps the canonical form of the memory stacks' bytes and of the scratchpads' bytes: places strictly rise
and no listed byte is zero. -/
def Obligations.MemoryStaysCanonical : Prop :=
  ∀ (s t : State), s.memWf = true → step s = .next t → t.memWf = true

/-- R660, R662, R666: every step keeps the board-facing outputs as the phase has them: FAULT_N low exactly in the ash
state, SVC_N low exactly in service and in smoulder, ALERT_N low throughout the ash state, THERMTRIP_N low only there. -/
def Obligations.OutputsFollowPhase : Prop :=
  ∀ (s t : State), s.sup.right = true → step s = .next t → t.sup.right = true

/-- R150, R631, R639: over any run the rollback counter, the LMS index and the epoch of the memory keys never fall. -/
def Obligations.CountersNeverFall : Prop :=
  ∀ (k : Nat) (s t : State), core.run k s = .next t →
    s.hwd.rollback ≤ t.hwd.rollback ∧ s.hwd.lmsIndex ≤ t.hwd.lmsIndex ∧ s.mem.hearthEpoch ≤ t.mem.hearthEpoch

/-- R63, R151: for values of width w, a is after b when (a − b) mod 2^w lies in 1 to 2^(w−1) − 1. For generations the
width is 16. -/
def Obligations.SerialOrder : Prop :=
  (∀ (a b w : Nat), 0 < w → a < 2 ^ w → b < 2 ^ w →
    (serialAfter a b w = true ↔
      1 ≤ (BitVec.ofNat w a - BitVec.ofNat w b).toNat ∧ (BitVec.ofNat w a - BitVec.ofNat w b).toNat ≤ 2 ^ (w - 1) - 1) ∧
    (serialAfter a b w = true → serialAfter b a w = false)) ∧
  (∀ (a b : Nat), a < 65536 → b < 65536 →
    (serialAfter a b 16 = true ↔ 1 ≤ (a + 65536 - b) % 65536 ∧ (a + 65536 - b) % 65536 ≤ 32767))

/-! ## Statements about registers, groves and budgets (ch. 0 to 2) -/

/-- R10, R14, R17: a 64-bit aligned write that reaches a register with no row of its own stores, clears or keeps each
field by its access code, and changes nothing else.

R13, R529: a narrow, misaligned or unoccupied write that reaches its block changes no register away from the error log's
own and leaves one contained register-access record with the offset and the kind of the access.

R42: GLB_DEVNUM is stored while no grove is bound; while one is bound it keeps its value, and the refused write is
recorded. -/
def Obligations.RegisterAccesses : Prop :=
  (∀ (s : State) (off : Nat) (v : Word) (r : Reg) (ix : List Nat),
    s.reaches off = true → off % 8 = 0 → regAt off = some (r, ix) → ownRow r = false →
    ∃ t, exec (.registerWrite off 8 v) s = .next t ∧
      t.getReg r ix = accessWrite r (s.getReg r ix) v ∧
      (∀ a, a ≠ regAddr r ix → tget t.regs a = tget s.regs a) ∧
      { t with regs := s.regs } = s) ∧
  (∀ (s : State) (off width : Nat) (v : Word) (kind : Nat),
    s.reaches off = true → s.logRoom = true → (srcOfOffset off == .clk || srcOfOffset off == .pwr) = false →
    ((width ≠ 8 ∧ kind = 0) ∨ (width = 8 ∧ off % 8 ≠ 0 ∧ kind = 1) ∨
      (width = 8 ∧ off % 8 = 0 ∧ regAt off = none ∧ kind = 2)) →
    ∃ t, exec (.registerWrite off width v) s = .next t ∧
      (∃ r, t.lastRecord = some r ∧ r.src = srcOfOffset off ∧ r.sev = .contained ∧ r.code = 0xF2 ∧
        r.detail = (off % 2 ^ 30 + kind * 2 ^ 30) % 2 ^ 64) ∧
      (∀ r ix, plainOff (regAddr r ix) = true → t.getReg r ix = s.getReg r ix) ∧
      t.grv = s.grv ∧ t.mem = s.mem ∧ t.til = s.til) ∧
  (∀ (s : State) (v : Word), s.sup.recovery ≠ .resetHeld →
    (s.boundGroves = [] → ∃ t, exec (.glbDevnumWrite v) s = .next t ∧
      t.getReg .GLB_DEVNUM [] = accessWrite .GLB_DEVNUM (s.getReg .GLB_DEVNUM []) v ∧
      (∀ a, a ≠ regAddr .GLB_DEVNUM [] → tget t.regs a = tget s.regs a) ∧ { t with regs := s.regs } = s) ∧
    (s.boundGroves ≠ [] → ∃ t, exec (.glbDevnumWrite v) s = .next t ∧
      t.getReg .GLB_DEVNUM [] = s.getReg .GLB_DEVNUM [] ∧
      (s.logRoom = true → ∃ r, t.lastRecord = some r ∧ r.code = 0xF2 ∧
        r.detail = regAddr .GLB_DEVNUM [] + 3 * 2 ^ 30) ∧ t.grv = s.grv ∧ t.mem = s.mem))

/-- R60, R64: GRV_LOAD with go, outside kindling and with no batch at work, reads the list and the images and, when all
of them pass, holds the binding tables they leave for step 4; the tables in force do not change yet.

R64: when step 3 has drained the work it waits for, step 4 puts the batch's binding tables in force, all at once.

R62, R64: step 3 that has not drained within its time fails the batch with result TIMEOUT (0x0A): no batch is at work,
the binding tables and memory are as they were, and one contained record names the image.

R64, R71: step 6 ends the batch with result OK, and every channel that joined a grove starts its scrub.

R71, R702: a slot of the background scrub carries a channel's scrub one line further, and it is done after the last
line; no byte that was written changes. -/
def Obligations.BatchMakesItsBindings : Prop :=
  (∀ (s s1 s2 s3 : State) (v : Word) (list : List Byte) (images : List (List Byte)) (work : Tbl Grove)
    (l : List BatchImage),
    s.islandsRun = true → s.grv.batch = none → s.sup.phase ≠ .kindling → s.testMode = false →
    s1 = (s.softWrite .GRV_LOAD [] (setFld v 7 1 1)).putFld .GRV_LOAD_STATUS [] 0 1 1 →
    1 ≤ wfld (setFld v 7 1 1) 0 6 → wfld (setFld v 7 1 1) 0 6 ≤ 32 →
    inHearth (wfld (s1.getReg .GRV_BATCH_ADDR []) 6 35 * 64) (8 * wfld (setFld v 7 1 1) 0 6) = true →
    s1.readLocal .hearth (wfld (s1.getReg .GRV_BATCH_ADDR []) 6 35 * 64) (8 * wfld (setFld v 7 1 1) 0 6) =
      (s2, .ok, list) →
    s2.readImages ((List.range (wfld (setFld v 7 1 1) 0 6)).map fun k => (leAt list (8 * k) 8, k)) =
      (s3, .ok images) →
    s3.judgeImages s3.grv.groves images.zipIdx = .ok work l → s3.mem.mapouts = [] →
    ∃ t b, exec (.batchGo v) s = .next t ∧ t.grv.batch = some b ∧ b.groves = work ∧ b.images = l ∧
      b.applied = false ∧ t.grv.groves = s3.grv.groves ∧ t.mem = s3.mem) ∧
  (∀ (s : State) (b : Batch), s.islandsRun = true → s.grv.batch = some b → b.applied = false → s.quiesced b = true →
    ∃ t, exec .batchQuiesceDone s = .next t ∧ t.grv.groves = b.groves ∧
      t.grv.batch = some { b with applied := true }) ∧
  (∀ (s : State) (b : Batch) (image : Nat) (i : BatchImage), s.islandsRun = true → s.grv.batch = some b →
    b.applied = false → b.images.find? (fun x => x.index == image) = some i → s.hwd.attWait = none →
    s.sup.heldGroveResets = [] → s.logRoom = true →
    ∃ t, exec (.quiesceTimeout image) s = .next t ∧ t.grv.batch = none ∧ t.grv.groves = s.grv.groves ∧
      t.mem = s.mem ∧ wfld (t.getReg .GRV_LOAD_STATUS []) 8 8 = 0x0A ∧ wfld (t.getReg .GRV_LOAD_STATUS []) 0 1 = 0 ∧
      (∃ r, t.lastRecord = some r ∧ r.src = .grv ∧ r.sev = .contained ∧ r.code = 0x0A ∧ r.grove = some i.grove ∧
        r.detail = image % 2 ^ 64)) ∧
  (∀ (s : State) (b : Batch), s.islandsRun = true → s.grv.batch = some b → b.applied = true → s.hwd.attWait = none →
    s.sup.heldGroveResets = [] → s.mem.held = [] →
    ∃ t, exec .resourceClearDone s = .next t ∧ t.grv.batch = none ∧ t.grv.groves = s.grv.groves ∧
      wfld (t.getReg .GRV_LOAD_STATUS []) 8 8 = 0 ∧ wfld (t.getReg .GRV_LOAD_STATUS []) 0 1 = 0 ∧
      (∀ c ∈ b.channels, (t.channel c).scrubbing = true) ∧ (∀ c, (t.channel c).scrubPos = (s.channel c).scrubPos) ∧
      t.mem.cells = s.mem.cells) ∧
  (∀ (s : State) (c : Nat), s.islandsRun = true → (s.channel c).scrubbing = true →
    ∃ t, exec (.scrubAdvance c) s = .next t ∧ (t.channel c).scrubPos = (s.channel c).scrubPos + 1 ∧
      ((t.channel c).scrubbing = true ↔ (s.channel c).scrubPos + 1 < 2 ^ 25) ∧
      (∀ d, d ≠ c → t.channel d = s.channel d) ∧ t.mem.cells = s.mem.cells ∧ t.mem.written = s.mem.written)

/-- R75: a STALE_GROVE acknowledgement leaves one contained record of the acknowledged unit with the generation that it
carries and whether the grove was unbound there; one that ends no operation, or a piece of a broadcast, changes no
binding and no memory.

R84: a binding digest that matches changes nothing; corrupted binding tables are a fatal error of the die and put the
device in the ash state. -/
def Obligations.StaleNaksAndDigests : Prop :=
  (∀ (s : State) (n : StaleNak), s.islandsRun = true → s.mem.held = [] → s.col.heldOpens = [] → s.logRoom = true →
    (n.op = .none ∨ n.op = .knot ∨ ∃ d k r, n.op = .piece d k r) →
    ∃ t r, exec (.staleGroveNak n) s = .next t ∧ t.lastRecord = some r ∧ r.src = staleSrc n.op ∧
      r.sev = .contained ∧ r.code = staleCode (staleSrc n.op) ∧ r.grove = some n.grove ∧
      r.detail = (n.generation + b2n n.unbound * 2 ^ 16) % 2 ^ 64 ∧ t.grv = s.grv ∧ t.mem = s.mem ∧
      (∀ d k q, n.op = .piece d k q → tget t.col.pieces (reqKey d n.grove q) = none)) ∧
  (∀ (s : State) (d : Nat), s.islandsRun = true →
    exec (.bindingDigestCheck d false) s = .next s ∧
    ∃ t, exec (.bindingDigestCheck d true) s = .next t ∧ t.sup.phase = .ash ∧
      (s.wch.fatal = none → ∃ r, t.wch.fatal = some r ∧ r.src = .grv ∧ r.sev = .fatal ∧ r.die = d ∧ r.code = 0x0E))

/-- R81, R82: at a period start of a bound grove with nothing held, each budget's credit rises by its amount to at most
that amount; one whose register was rewritten takes the new mode and amount and starts full.

R16, R81: GRV_BUDGET is stored while no batch is at work and takes effect at the next period start: the budget in force
keeps its mode, amount and credit. While a batch is at work it keeps its value. -/
def Obligations.Budgets : Prop :=
  (∀ (s : State) (d g : Nat), s.islandsRun = true → s.quiet = true → (s.grove g).bound = true →
    (s.step_ g).stageApply = none →
    ∃ t, exec (.budgetPeriodStart d g) s = .next t ∧
      (∀ a, a < 8 → t.budget d g a = (s.budget d g a).refill (s.getReg .GRV_BUDGET [d, g, a])) ∧
      t.regs = s.regs ∧ t.mem = s.mem ∧ t.grv.groves = s.grv.groves) ∧
  (∀ (s : State) (d g a : Nat) (v : Word), s.islandsRun = true → d < 2 → g < 16 → a < 8 →
    (s.batchRuns = false → ∃ t, exec (.grvBudgetWrite d g a v) s = .next t ∧
      t.getReg .GRV_BUDGET [d, g, a] = accessWrite .GRV_BUDGET (s.getReg .GRV_BUDGET [d, g, a]) v ∧
      (t.budget d g a).mode = (s.budget d g a).mode ∧ (t.budget d g a).amount = (s.budget d g a).amount ∧
      (t.budget d g a).credit = (s.budget d g a).credit ∧ t.grv.groves = s.grv.groves ∧ t.mem = s.mem) ∧
    (s.batchRuns = true → ∃ t, exec (.grvBudgetWrite d g a v) s = .next t ∧
      t.getReg .GRV_BUDGET [d, g, a] = s.getReg .GRV_BUDGET [d, g, a] ∧ t.grv = s.grv ∧ t.mem = s.mem))

/-- R239, R245, R279: a grove's merge quota on a die is stored only while the grove holds no merge entry there and the
die's quotas then sum to at most 65,536; its quota of row entries only when it covers the entries in use and the quotas
then sum to at most 262,144. Any other write leaves the register unchanged and writes a contained record with code
GTH_QUOTA (0x09) or EMB_QUOTA (0x0B). -/
def Obligations.QuotaWrites : Prop :=
  (∀ die g, die < 2 → g < 16 → State.reset.mergeQuota die g = 0x1000 ∧ State.reset.embQuota g = 0x4000) ∧
  ∀ (s : State) (die g : Nat) (v : Word), s.islandsRun = true → die < 2 → g < 16 →
    (s.mergeUsed die g = 0 →
      ((List.range 16).map fun h => if h = g then wfld v 0 17 else s.mergeQuota die h).sum ≤ 65536 →
      ∃ t, exec (.gthMergeQuotaWrite die g v) s = .next t ∧ t.mergeQuota die g = wfld v 0 17 ∧
        (∀ a, a ≠ regAddr .GTH_MERGE_QUOTA [die, g] → tget t.regs a = tget s.regs a) ∧ { t with regs := s.regs } = s) ∧
    (0 < s.mergeUsed die g ∨
        65536 < ((List.range 16).map fun h => if h = g then wfld v 0 17 else s.mergeQuota die h).sum →
      s.logRoom = true → ∃ t r, exec (.gthMergeQuotaWrite die g v) s = .next t ∧
        t.getReg .GTH_MERGE_QUOTA [die, g] = s.getReg .GTH_MERGE_QUOTA [die, g] ∧ t.lastRecord = some r ∧
        r.src = .gth ∧ r.sev = .contained ∧ r.code = 0x09 ∧ t.gth = s.gth ∧ t.mem = s.mem) ∧
    (s.embUsed g ≤ wfld v 0 19 →
      ((List.range 16).map fun h => if h = g then wfld v 0 19 else s.embQuota h).sum ≤ 262144 →
      ∃ t, exec (.embEntryQuotaWrite g v) s = .next t ∧ t.embQuota g = wfld v 0 19 ∧
        t.regFld .EMB_ENTRY_QUOTA [1, g] 0 19 = wfld v 0 19 ∧
        (∀ a, a ≠ regAddr .EMB_ENTRY_QUOTA [0, g] → a ≠ regAddr .EMB_ENTRY_QUOTA [1, g] →
          tget t.regs a = tget s.regs a) ∧ { t with regs := s.regs } = s) ∧
    (wfld v 0 19 < s.embUsed g ∨
        262144 < ((List.range 16).map fun h => if h = g then wfld v 0 19 else s.embQuota h).sum →
      s.logRoom = true → ∃ t r, exec (.embEntryQuotaWrite g v) s = .next t ∧
        t.getReg .EMB_ENTRY_QUOTA [0, g] = s.getReg .EMB_ENTRY_QUOTA [0, g] ∧
        t.getReg .EMB_ENTRY_QUOTA [1, g] = s.getReg .EMB_ENTRY_QUOTA [1, g] ∧ t.lastRecord = some r ∧
        r.src = .emb ∧ r.sev = .contained ∧ r.code = 0x0B ∧ t.emb = s.emb ∧ t.mem = s.mem)

/-! ## Statements about the hearth (ch. 3) -/

/-- R103, R105, R109: a doorbell of an enabled queue that has not stopped is taken when neither count runs ahead of the
ring; else the queue stops with error 1 and a contained record. A doorbell of a disabled or stopped queue is refused.

R105, R108: a valid enable is stored and waits for the commands of the earlier enable; when none is left the queue
starts anew with every count at zero. A disable stops fetching: the unfetched commands are dropped.

R101, R102: an engine fetches the next entry of an enabled queue; a command that passes the checks of R102 joins the
queue's commands, last, and nothing but the queue changes.

R99, R100, R101: a completion record goes to the queue's next slot with the command's tag, the queue, the status, the
phase and the result; the command has ended, the count rises, and a command that asked for it interrupts its core. No
other byte changes where the line is known and nothing is buffered for its channel. -/
def Obligations.HearthQueues : Prop :=
  (∀ (s : State) (q : Nat) (v : Word), s.sup.phase ≠ .ash → s.sup.recovery ≠ .resetHeld →
    ((s.queue q).enabled = true → (s.queue q).stopped = false →
      subMod 32 (wfld v 0 32) (s.queue q).tail ≤ s.qsize q → subMod 32 (wfld v 0 32) (wfld v 32 32) ≤ s.qsize q →
      ∃ t, exec (.queueDoorbell q v) s = .next t ∧
        t.queue q = { s.queue q with tail := wfld v 0 32, consumed := wfld v 32 32 } ∧
        (∀ p, p ≠ q → t.queue p = s.queue p) ∧ { t with hrt := s.hrt } = s) ∧
    ((s.queue q).enabled = true → (s.queue q).stopped = false → s.logRoom = true →
      ¬(subMod 32 (wfld v 0 32) (s.queue q).tail ≤ s.qsize q ∧ subMod 32 (wfld v 0 32) (wfld v 32 32) ≤ s.qsize q) →
      ∃ t r, exec (.queueDoorbell q v) s = .next t ∧ t.queue q = { s.queue q with stopped := true, error := 1 } ∧
        t.lastRecord = some r ∧ r.src = .hlk ∧ r.sev = .contained ∧ r.code = 0x04 ∧ t.mem = s.mem) ∧
    ((s.queue q).enabled = false ∨ (s.queue q).stopped = true →
      ∃ t, exec (.queueDoorbell q v) s = .next t ∧ t.hrt = s.hrt ∧ t.mem = s.mem)) ∧
  (∀ (s : State) (q : Nat) (v w : Word) (base cbase : Nat), s.sup.phase ≠ .ash → s.sup.recovery ≠ .resetHeld →
    w = v ||| BitVec.ofNat 64 (2 ^ 63) →
    (6 ≤ wfld w 48 5 → wfld w 48 5 ≤ 16 → wfld w 40 5 ≤ 23 → wfld w 32 4 ≤ 7 →
      (w.getLsbD 4 = true → 6 ≤ wfld w 32 4) →
      base = wfld (s.getReg .HLK_QBASE [q]) 6 35 * 64 → cbase = wfld (s.getReg .HLK_QCBASE [q]) 6 35 * 64 →
      inHalf (dieOfQueue q) base (64 * 2 ^ wfld w 48 5) = true →
      inHalf (dieOfQueue q) cbase (16 * 2 ^ wfld w 48 5) = true →
      ∃ t, exec (.queueEnable q v) s = .next t ∧
        t.queue q = { s.queue q with enabled := false, pendingEnable := some (w, base, cbase) } ∧
        t.getReg .HLK_QCFG [q] = accessWrite .HLK_QCFG (s.getReg .HLK_QCFG [q]) w ∧ t.mem = s.mem) ∧
    ((s.queue q).pendingEnable = some (w, base, cbase) → (s.queue q).cmds = [] →
      ∃ t, exec (.queueEnableTakeEffect q) s = .next t ∧
        t.queue q = { enabled := true, cfg := w, base := base, cbase := cbase } ∧
        (∀ p, p ≠ q → t.queue p = s.queue p) ∧ { t with hrt := s.hrt } = s) ∧
    (∃ t, exec (.queueDisable q v) s = .next t ∧
      t.queue q = { s.queue q with enabled := false, pendingEnable := none, tail := (s.queue q).fetched } ∧
      t.getReg .HLK_QCFG [q] =
        accessWrite .HLK_QCFG (s.getReg .HLK_QCFG [q]) (v &&& BitVec.ofNat 64 (2 ^ 63 - 1)) ∧ t.mem = s.mem)) ∧
  (∀ (s : State) (q : Nat) (b : List Byte) (c : Cmd), s.islandsRun = true → (s.queue q).enabled = true →
    (s.queue q).stopped = false →
    (s.queue q).fetched ≠ (s.queue q).tail → s.hasCapacity q = true →
    s.readLocal .hearth (s.qbase q + 64 * ((s.queue q).fetched % s.qsize q)) 64 = (s, .ok, b) →
    c = Cmd.parse (s.queue q).fetched b → headerBad b = false → (s.qdevice q = true ∨ c.grove = s.qgrove q) →
    (∀ g, s.actsOn q c = some g → s.groveIs g c.gen = true) → opcodeDefined (s.qtarget q) c.opcode = true →
    (s.qdevice q = true → s.qtarget q = 7 → c.grove = 0 ∧ c.gen = 0) →
    ∃ t, exec (.commandFetch q) s = .next t ∧
      t.queue q = { s.queue q with fetched := ((s.queue q).fetched + 1) % 2 ^ 32, cmds := (s.queue q).cmds ++ [c] } ∧
      (∀ p, p ≠ q → t.queue p = s.queue p) ∧ { t with hrt := s.hrt } = s) ∧
  (∀ (s t : State) (q i : Nat) (st : Status) (result a ch b : Nat) (c : Cmd), s.cmd q i = some c →
    t = s.complete q i st result → a = s.qcbase q + 16 * ((s.queue q).completed % s.qsize q) → a % 16 = 0 →
    s.locate a = some (ch, b) → isHearthChannel ch = true → s.lineKnown ch (b / 64) = true →
    s.lineBad ch (b / 64) = false → (s.channel ch).wcb = [] → (s.channel ch).adders = [] → s.kln.protect = [] →
    t.cmd q i = none ∧ (t.queue q).completed = ((s.queue q).completed + 1) % 2 ^ 32 ∧
      (∀ p, p ≠ q → t.queue p = s.queue p) ∧
      t.peek a 16 = completionBytes q (s.queue q).completed (s.qsize q) c.tag st.number result ∧
      (∀ o, o < a ∨ a + 16 ≤ o → t.peek o 1 = s.peek o 1) ∧ t.regs = s.regs ∧ t.sch = s.sch ∧
      t.irqs = s.irqs ++ (if c.irq then [wfld (s.qcfg q) 40 5] else []))

/-- R117 to R121: a connection opens a session while fewer than 256 are open and is reset otherwise; every record of an
open session is answered, a tenant's ATTACH to a grove assigned to it attaches it, and the front-end's idle timeout ends
the session.

R113: the end of a port's training brings the port up and changes nothing else.

R114, R115: an RDMA request on a queue pair that is not in error. A SEND is handed to the runtime and acknowledged, an
atomic is answered as unsupported, a READ that its region admits returns the bytes, a WRITE that its region admits
writes them, and a request that its region does not allow is refused and puts the queue pair in error.

R114, R573: what a queue pair of the G2's own requests receives: a congestion notification is counted on it; an
acknowledgement or data no request waits for changes nothing; a refusal of a Kiln write fails the storage destination
with KLN_DRAIN_FAIL, and the firing goes on at a live buddy. -/
def Obligations.FrontEnd : Prop :=
  (∀ (s : State) (operator : Bool) (cert id : Nat) (m : TlsMsg) (x : Session), s.sup.phase ≠ .ash →
    s.sup.recovery ≠ .resetHeld → s.hrt.ethUp.any (fun b => b) = true →
    (s.hrt.sessions.length < 256 → ∃ t, exec (.tlsConnect operator cert) s = .next t ∧
      tget t.hrt.sessions s.hrt.nextSession = some ⟨operator, cert, none, s.aonUs⟩ ∧
      t.outbox = s.outbox ++ [.sessionOpen s.hrt.nextSession] ∧ t.mem = s.mem ∧ t.regs = s.regs) ∧
    (256 ≤ s.hrt.sessions.length → ∃ t, exec (.tlsConnect operator cert) s = .next t ∧
      t.outbox = s.outbox ++ [.tcpReset] ∧ t.hrt = s.hrt) ∧
    (tget s.hrt.sessions id = some x → ∃ t ok, exec (.tlsSessionMessage id m) s = .next t ∧
      t.outbox = s.outbox ++ [.tlsAnswer id ok] ∧ (m = .keepalive → ok = true) ∧
      (∀ g, m = .attach g → ok = true → ∃ y, tget t.hrt.sessions id = some y ∧ y.grove = some g) ∧
      (∀ g, m = .attach g → x.operator = false → x.grove = none → g < 16 → tget s.hrt.assigned g = some x.certificate →
        (s.hrt.sessions.filter fun y => y.2.grove == some g).length < 16 → ok = true) ∧
      (∀ g, m = .attach g → x.operator = true ∨ x.grove ≠ none → ok = false) ∧ t.mem = s.mem ∧ t.regs = s.regs) ∧
    (tget s.hrt.sessions id = some x → s.kln.firings = [] → s.kln.reads = [] →
      ∃ t, exec (.sessionIdleTimeout id) s = .next t ∧ tget t.hrt.sessions id = none ∧
        (∀ r ∈ t.hrt.regions, r.2.session ≠ id) ∧ (∀ p ∈ t.hrt.qps, p.2.session = id → p.2.error = true) ∧
        t.outbox = s.outbox ++ [.sessionClose id] ∧ t.mem = s.mem)) ∧
  (∀ (s : State) (port : Nat), s.sup.phase ≠ .ash → s.sup.recovery ≠ .resetHeld →
    ∃ t, exec (.ethLinkTrainingDone port) s = .next t ∧ t.hrt.ethUp = s.hrt.ethUp.set port true ∧
      t.hrt.queues = s.hrt.queues ∧ t.hrt.sessions = s.hrt.sessions ∧ { t with hrt := s.hrt } = s) ∧
  (∀ (s : State) (qp : Nat) (r : RdmaReq) (p : Qp), s.islandsRun = true → s.hrt.ethUp.any (fun b => b) = true →
    s.kln.firings = [] → s.kln.reads = [] → tget s.hrt.qps qp = some p → p.error = false →
    (r.op = .send → ∃ t, exec (.rdmaRequest qp r) s = .next t ∧
      t.outbox = s.outbox ++ [.rdmaSend qp r.data none, .rdmaAnswer qp 0] ∧ t.mem = s.mem) ∧
    (r.op = .atomic → ∃ t, exec (.rdmaRequest qp r) s = .next t ∧ t.outbox = s.outbox ++ [.rdmaAnswer qp 2] ∧
      t.mem = s.mem) ∧
    (∀ s1 b, r.op = .read → s.regionAdmits p r false = true → s.readVa p.grove r.va r.length = (s1, .ok, b) →
      ∃ t, exec (.rdmaRequest qp r) s = .next t ∧ t.outbox = s1.outbox ++ [.rdmaData qp 0 b]) ∧
    (∀ s1, r.op = .write → s.regionAdmits p r true = true → r.data.length = r.length →
      s.writeVa p.grove r.va r.data = (s1, .ok) →
      ∃ t, exec (.rdmaRequest qp r) s = .next t ∧ t.outbox = s1.outbox ++ [.rdmaAnswer qp 0] ∧ t.mem = s1.mem) ∧
    (r.op = .read ∨ r.op = .write → s.regionAdmits p r (r.op == .write) = false →
      ∃ t, exec (.rdmaRequest qp r) s = .next t ∧ t.outbox = s.outbox ++ [.rdmaAnswer qp 1] ∧ t.mem = s.mem ∧
        ∀ x, tget t.hrt.qps qp = some x → x.error = true)) ∧
  (∀ (s : State) (qp tag g : Nat) (x : Qp) (f : Firing) (b : List Byte), s.islandsRun = true → s.hrt.ethUp.any id = true →
    s.mem.held = [] → s.col.heldOpens = [] →
    (tget s.hrt.qps qp = some x → ∃ t, exec (.rdmaResponseReceive qp .cnp) s = .next t ∧
      tget t.hrt.qps qp = some { x with cnps := x.cnps + 1 } ∧ (∀ j, j ≠ qp → tget t.hrt.qps j = tget s.hrt.qps j) ∧
      { t with hrt := s.hrt } = s) ∧
    (s.kln.firings = [] → exec (.rdmaResponseReceive qp (.ack tag)) s = .next s) ∧
    (tget s.kln.reads tag = none → exec (.rdmaResponseReceive qp (.readData tag b)) s = .next s) ∧
    (s.kln.firings = [(g, f)] → g < 16 → f.plan.qp = qp → f.storage.tag = some tag → f.storage.live = true →
      f.buddy.live = true → f.st = .capture → s.logRoom = true →
      ∃ t r, exec (.rdmaResponseReceive qp (.nak tag)) s = .next t ∧
        tget t.kln.firings g = some { f with
          storage := { f.storage with live := false, tag := none },
          snaps := f.snaps.filter fun p => !{ f with storage := { f.storage with live := false, tag := none } }.drained p.1 } ∧
        t.lastRecord = some r ∧ r.src = .kln ∧ r.sev = .contained ∧ r.code = 0x06 ∧ r.grove = some g ∧ t.mem = s.mem))

/-- R86, R87, R90: on an in-package link that carries flits, a flit with a wrong crc or out of sequence is discarded and
negatively acknowledged; an interrupt flit in sequence is accepted and interrupts the core its address names.

R90, R91: a negative acknowledgement, or 4 microseconds without one, resends every flit after the one acknowledged, in
order, and keeps them.

R91, R92: a retrain of an in-package link ends with the modules that still work in service; modules out of service stay
out, the link is up or degraded, and its repaired lanes are those reported. -/
def Obligations.InPackageLinks : Prop :=
  (∀ (s : State) (k : Nat) (b : List Byte), s.islandsRun = true → (s.hlk k).carries = true →
    (s.hlk k).waiting = [] → 1 ≤ leAt b 0 1 → leAt b 0 1 ≤ 2 →
    (hflitCrcOk b = false ∨ leAt b 4 2 ≠ ((s.hlk k).lastAccepted + 1) % 2 ^ 16 →
      ∃ t f, exec (.hlkFlitReceive k b) s = .next t ∧ t.outbox = s.outbox ++ [.hearthFlit k f] ∧ t.hrt = s.hrt ∧
        t.irqs = s.irqs ∧ t.mem = s.mem) ∧
    (hflitCrcOk b = true → leAt b 4 2 = ((s.hlk k).lastAccepted + 1) % 2 ^ 16 → leAt b 0x0C 1 ≤ 28 →
      (HFlit.parse b).vc = 0 → (HFlit.parse b).opcode = 0x04 → (HFlit.parse b).address < 24 →
      ∃ t, exec (.hlkFlitReceive k b) s = .next t ∧ t.irqs = s.irqs ++ [(HFlit.parse b).address] ∧
        (t.hlk k).lastAccepted = leAt b 4 2 ∧ t.mem = s.mem ∧ t.outbox = s.outbox)) ∧
  (∀ (s : State) (k ack : Nat), s.islandsRun = true → (s.hlk k).carries = true →
    ((s.hlk k).replay.filter (fun r => serialAfter r.1 ack 16) ≠ [] →
      ∃ t, exec (.hlkNakReceive k ack) s = .next t ∧
        t.outbox = s.outbox ++
          ((s.hlk k).replay.filter fun r => serialAfter r.1 ack 16).map (fun r => Msg.hearthFlit k r.2) ∧
        (t.hlk k).replay = (s.hlk k).replay.filter (fun r => serialAfter r.1 ack 16) ∧ t.mem = s.mem) ∧
    ((s.hlk k).replay.filter (fun r => serialAfter r.1 (s.hlk k).lastAcked 16) ≠ [] →
      ∃ t, exec (.hlkReplayTimeout k) s = .next t ∧
        t.outbox = s.outbox ++ ((s.hlk k).replay.filter fun r => serialAfter r.1 (s.hlk k).lastAcked 16).map
          (fun r => Msg.hearthFlit k r.2) ∧ t.mem = s.mem)) ∧
  (∀ (s : State) (k modules lanes m : Nat), s.islandsRun = true → (s.hlk k).state = 1 → (s.hlk k).waiting = [] →
    m = (modules &&& (s.hlk k).modulesUp) % 2 ^ modulesFitted k → m ≠ 0 →
    ∃ t, exec (.hlkRetrainDone k modules lanes) s = .next t ∧ (t.hlk k).modulesUp = m ∧
      (t.hlk k).lanesRepaired = lanes ∧
      (t.hlk k).state = (if m = 2 ^ modulesFitted k - 1 then 2 else 3) ∧ (∀ j, j ≠ k → t.hlk j = s.hlk j) ∧
      t.mem = s.mem ∧ t.outbox = s.outbox)

/-! ## Statements about tasks and knots (ch. 4) -/

/-- R125, R126, R127: an INJECT whose source can be read and whose descriptors all pass waits for room, and its queue
fetches nothing; with one that fails it ends as BAD_COMMAND with the first refused index and its code and places
nothing. A waiting INJECT whose tiles have room places every task and completes.

R130, R145 to R147: an idle unit that may take work runs the first task in dispatch order and no other slot changes;
SCH_CLEAR sets the high water to the occupancy and zeroes the tile's counters. -/
def Obligations.TasksEnterAndStart : Prop :=
  (∀ (s : State) (q i : Nat) (c : Cmd), s.islandsRun = true →
    (∀ (s1 : State) (n : Nat) (bs : List Byte) (ds : List (List Byte)), s.ofRow q i 0 1 = some c → n = c.arg 0x10 2 →
      1 ≤ n → n ≤ 256 → fld (c.arg 8 8) 48 15 = 0 → c.restZero [(8, 8), (0x10, 2)] = true →
      (s.start q i).injectSource q c n = (s1, .ok, bs) → ds = (List.range n).map (fun j => (bs.drop (64 * j)).take 64) →
      ((∀ d ∈ ds, s1.injectCheck q c d = none) →
        ∃ t, exec (.inject q i) s = .next t ∧ t.sch.slots = s.sch.slots ∧ (t.queue q).waiting = true ∧
          t.sch.injects = s1.sch.injects ++ [⟨q, i, ds.map fun d => (parseTask d).2⟩] ∧ t.mem = s1.mem ∧
          t.regs = s1.regs) ∧
      (∀ pre d post code, ds = pre ++ d :: post → (∀ x ∈ pre, s1.injectCheck q c x = none) →
        s1.injectCheck q c d = some code →
        ∃ u : State, exec (.inject q i) s = .next (u.complete q i .badCommand (pre.length + code * 2 ^ 16)) ∧
          u.sch = s1.sch ∧ u.mem = s1.mem ∧
          (s1.logRoom = true → ∃ r : LogRec, u.lastRecord = some r ∧ r.src = .sch ∧ r.sev = .contained ∧ r.code = code))) ∧
    (∀ p, s.sch.injects.find? (fun x => x.queue == q && x.index == i) = some p → s.cmd q i = some c →
      s.groveIs c.grove c.gen = true → s.roomFor p.tasks = true →
      ∃ t, exec (.injectPlace q i) s = .next t ∧ t.cmd q i = none ∧ (t.queue q).waiting = false ∧
        (∀ tile, t.used tile = s.used tile + (p.tasks.filter fun x => x.tile == tile).length) ∧
        t.sch.injects = s.sch.injects.filter fun x => !(x.queue == q && x.index == i))) ∧
  (∀ (s : State) (tile unit : Nat) (c : StallCycles), s.islandsRun = true →
    (∀ p, unit < 4 → s.unitBusy tile unit = false → s.tileStopped tile unit = false →
      firstTask (s.candidates tile unit) = some p →
      ∃ t, exec (.taskDispatch tile unit c) s = .next t ∧
        t.slot p.1 = (s.slot p.1).map (fun x => { x with st := .running }) ∧
        (∀ k, k ≠ p.1 → t.slot k = s.slot k) ∧ t.sch.knots = s.sch.knots ∧ t.sch.flows = s.sch.flows ∧
        wfld (t.getReg .SCH_DISPATCHED [tile]) 0 48 =
          min (wfld (s.getReg .SCH_DISPATCHED [tile]) 0 48 + 1) (2 ^ 48 - 1) ∧ t.mem = s.mem ∧ t.til = s.til) ∧
    (∃ t, exec (.schClearHighWater tile) s = .next t ∧
      wfld (t.getReg .SCH_DEPTH [tile]) 48 11 = s.used tile % 2 ^ 11 ∧
      (∀ a, a ≠ regAddr .SCH_DEPTH [tile] → tget t.regs a = tget s.regs a) ∧ { t with regs := s.regs } = s) ∧
    (∃ t, exec (.schClearCounters tile) s = .next t ∧
      (∀ u, u < 4 → t.getReg .SCH_BUSY [tile, u] = 0 ∧ t.getReg .SCH_STARVE [tile, u] = 0) ∧
      (∀ r ∈ [Reg.SCH_WAIT_CYC, .SCH_CREDIT_STALL, .SCH_DISPATCHED, .SCH_HOLD_CYC], t.getReg r [tile] = 0) ∧
      t.getReg .SCH_DEPTH [tile] = s.getReg .SCH_DEPTH [tile] ∧ { t with regs := s.regs } = s))

/-- R131, R132, R133, R143: the end of a running task whose step runs. Its unit's fault leaves its slot held and sets
its grove's bit in SCH_FAULTED; an unordered task frees its slot; an ordered task that is not the next of its flow is
held. A task of unit 4 that is ready adds its signal to the counter it names and frees its slot. -/
def Obligations.TasksEnd : Prop :=
  ∀ (s : State) (tile slot key : Nat) (x : Slot) (r : UnitReport), s.islandsRun = true → key = slotKey tile slot →
    s.slot key = some x → s.taskLive x.task = true → r.uncorrectable = none → r.ctrlUe = false →
    (∀ (s2 : State) (ok : Bool), x.task.unit ≠ 4 → x.st = .running →
      (s.unitCounts tile x.task.unit r).unitRun tile slot x r.wrong = (s2, ok) →
      (ok = false → x.task.grove < 16 → ∃ t, exec (.taskComplete tile slot r) s = .next t ∧
        t.slot key = some { x with st := .faulted } ∧
        (t.getReg .SCH_FAULTED [dieOfTile x.task.tile]).getLsbD x.task.grove = true ∧ t.mem = s2.mem ∧
        t.sch.flows = s.sch.flows) ∧
      (ok = true → x.task.ordered = false → s.firstBad x.task.signals = none →
        ∃ t, exec (.taskComplete tile slot r) s = .next t ∧ t.slot key = none) ∧
      (ok = true → x.task.ordered = true → x.task.seq ≠ (s.flow x.task.flowKey).next →
        s.heldCount (dieOfTile x.task.tile) < 8192 → (∀ p ∈ s.sch.slots, p.2.st ≠ .stalled) →
        ∃ t, exec (.taskComplete tile slot r) s = .next t ∧ t.slot key = some { x with st := .held } ∧
          t.sch.flows = s.sch.flows)) ∧
    (∀ n k a, x.task.unit = 4 → x.st = .ready n → x.task.unstepped = true → x.task.ordered = false →
      x.task.signals = [(k, a)] → (s.knot k).type = 1 → (s.knot k).overflow = false →
      (s.knot k).value + a ≤ 2 ^ 32 - 1 →
      ∃ t, exec (.taskComplete tile slot r) s = .next t ∧ t.slot key = none ∧
        (t.knot k).value = (s.knot k).value + a ∧ (t.knot k).type = 1)

/-- R135 to R139: a signal adds to a counter; one that would pass 2^32 − 1 leaves it at that value with overflow set and
recorded as KNOT_OVERFLOW; one at a knot of type none is recorded as KNOT_TYPE and changes no knot. KNT_INIT sets the
staged type and the written value and target, or is refused with KNOT_INIT, and clears the staged type either way. A
signal message of the grove that holds the knot acts as the register does. -/
def Obligations.KnotOperations : Prop :=
  ∀ (s : State) (k a : Nat) (v : Word) (o : Origin), s.islandsRun = true →
    ((s.knot k).type = 1 → (s.knot k).overflow = false → 1 ≤ wfld v 0 32 →
      (s.knot k).value + wfld v 0 32 ≤ 2 ^ 32 - 1 → ∃ t, exec (.kntSignal k v) s = .next t ∧
        (t.knot k).value = (s.knot k).value + wfld v 0 32 ∧ (t.knot k).overflow = false ∧ (t.knot k).type = 1 ∧
        t.sch.flows = s.sch.flows) ∧
    ((s.knot k).type = 1 → 2 ^ 32 - 1 < (s.knot k).value + wfld v 0 32 → s.logRoom = true → s.sch.slots = [] →
      1 ≤ wfld v 0 32 → tget s.regs (regAddr .SCH_KNOT_OVF [dieOfKnot k]) = none →
      ∃ t r, exec (.kntSignal k v) s = .next t ∧ (t.knot k).value = 2 ^ 32 - 1 ∧ (t.knot k).overflow = true ∧
        t.lastRecord = some r ∧ r.src = .sch ∧ r.sev = .contained ∧ r.code = 0x08 ∧
        wfld (t.getReg .SCH_KNOT_OVF [dieOfKnot k]) 0 48 = 1) ∧
    ((s.knot k).type = 0 → 1 ≤ wfld v 0 32 → s.logRoom = true →
      ∃ t r, exec (.kntSignal k v) s = .next t ∧ t.sch = s.sch ∧ t.lastRecord = some r ∧ r.src = .sch ∧
        r.sev = .contained ∧ r.code = 0x05) ∧
    (wfld v 0 32 = 0 → exec (.kntSignal k v) s = .next s) ∧
    (∀ g, s.knotOwner k = some g → initBad (s.knot k) (wfld v 0 32) (wfld v 32 32) = false →
      ∃ t, exec (.kntInit k v) s = .next t ∧ (t.knot k).type = (s.knot k).stagedType ∧
        (t.knot k).noRewind = (s.knot k).stagedNoRewind ∧ (t.knot k).target = wfld v 32 32 ∧
        (t.knot k).phase = false ∧ (t.knot k).overflow = false ∧ (t.knot k).stagedType = 0 ∧
        ((s.knot k).stagedType ≠ 2 → (t.knot k).value = wfld v 0 32)) ∧
    (s.knotOwner k = none ∨ initBad (s.knot k) (wfld v 0 32) (wfld v 32 32) = true → s.logRoom = true →
      ∃ t r, exec (.kntInit k v) s = .next t ∧
        t.knot k = { s.knot k with stagedType := 0, stagedNoRewind := false } ∧
        (∀ j, j ≠ k → t.knot j = s.knot j) ∧ t.lastRecord = some r ∧ r.src = .sch ∧ r.code = 0x09 ∧ t.mem = s.mem) ∧
    (s.knotOwner k = some o.grove → s.groveIs o.grove o.gen = true → 1 ≤ a → a < 2 ^ 32 →
      exec (.knotSignalMessage o k a) s = exec (.kntSignal k (BitVec.ofNat 64 a)) s) ∧
    (s.knotOwner k ≠ some o.grove ∨ s.groveIs o.grove o.gen = false →
      ∃ t, exec (.knotSignalMessage o k a) s = .next t ∧ t.sch = s.sch ∧ t.mem = s.mem ∧ t.col = s.col)

/-! ## Statements about the sampler (ch. 6) -/

/-- R213, R214, R215: STREAM_SET stages the key and origin of a stream of the grove on the queue's die, and the pair in
force stays until the next open. PROG_LOAD stores a descriptor that passes every check; a refused one changes no slot.
PROG_UNLOAD empties a slot that does not run; of a slot that another grove holds it is refused. -/
def Obligations.SamplerCommands : Prop :=
  ∀ (s : State) (q i k : Nat) (c : Cmd), s.islandsRun = true →
    (s.ofRow q i 1 1 = some c → c.restZero [(8, 2), (0x10, 16), (0x20, 16)] = true → k = c.arg 8 2 → k < 2 ^ 12 →
      s.streamOwner k = some c.grove → k / 2048 = dieOfQueue q →
      ∃ u : State, exec (.streamSet q i) s = .next (u.complete q i .ok 0) ∧
        tget u.smp.streams k =
          some { tgetD s.smp.streams k {} with staged := some (c.arg 0x10 16, c.arg 0x20 16) } ∧
        (∀ j, j ≠ k → tget u.smp.streams j = tget s.smp.streams j) ∧ u.smp.progs = s.smp.progs ∧ u.mem = s.mem) ∧
    (s.ofRow q i 1 1 = some c → c.restZero [(8, 2), (0x10, 16), (0x20, 16)] = true → k = c.arg 8 2 → k < 2 ^ 12 →
      s.streamOwner k ≠ some c.grove → s.logRoom = true →
      ∃ (u : State) (r : LogRec), exec (.streamSet q i) s = .next (u.complete q i .badCommand 0) ∧ u.smp = s.smp ∧
        u.mem = s.mem ∧ u.lastRecord = some r ∧ r.src = .smp ∧ r.sev = .contained ∧ r.code = 0x02) ∧
    (∀ (s1 s2 : State) (h b : List Byte) (d : Option ProgDesc) (code : Nat), s.ofRow q i 1 2 = some c →
      c.restZero [(8, 1), (0x10, 8)] = true → c.arg 8 1 < 32 → k = 32 * dieOfQueue q + c.arg 8 1 →
      c.arg 0x10 8 < 2 ^ 48 → c.arg 0x10 8 % 64 = 0 → (s.start q i).readVa c.grove (c.arg 0x10 8) 64 = (s1, .ok, h) →
      s1.readVa c.grove (c.arg 0x10 8) (64 + 32 * min 6 (leAt h 0 1)) = (s2, .ok, b) → s2.progCheck q c b = (code, d) →
      (∀ x, d = some x → (s.prog k).st = .empty →
        ∃ u : State, exec (.progLoad q i) s = .next (u.complete q i .ok 0) ∧
          u.prog k = { st := .loaded, grove := c.grove, desc := some x } ∧ (∀ j, j ≠ k → u.prog j = s.prog j) ∧
          u.smp.streams = s.smp.streams ∧ u.mem = s2.mem) ∧
      (∀ x, d = some x → (s.prog k).st ≠ .empty → (s.prog k).st ≠ .disabled →
        ∃ u : State, exec (.progLoad q i) s = .next (u.complete q i .ok 0) ∧
          u.prog k = { s.prog k with staged := some x, unload := false } ∧ (∀ j, j ≠ k → u.prog j = s.prog j)) ∧
      (d = none → ∃ u : State, exec (.progLoad q i) s = .next (u.complete q i .badCommand 0) ∧ u.smp = s.smp)) ∧
    (s.ofRow q i 1 3 = some c → c.restZero [(8, 1)] = true → c.arg 8 1 < 32 → k = 32 * dieOfQueue q + c.arg 8 1 →
      (s.prog k).st ≠ .empty →
      ((s.prog k).grove = c.grove → (s.prog k).st ≠ .running →
        ∃ u : State, exec (.progUnload q i) s = .next (u.complete q i .ok 0) ∧ u.prog k = {} ∧
          (∀ j, j ≠ k → u.prog j = s.prog j) ∧ u.mem = s.mem) ∧
      ((s.prog k).grove = c.grove → (s.prog k).st = .running →
        ∃ u : State, exec (.progUnload q i) s = .next (u.complete q i .ok 0) ∧
          u.prog k = { s.prog k with unload := true } ∧ (∀ j, j ≠ k → u.prog j = s.prog j)) ∧
      ((s.prog k).grove ≠ c.grove → s.logRoom = true →
        ∃ (u : State) (r : LogRec), exec (.progUnload q i) s = .next (u.complete q i .badCommand 0) ∧ u.smp = s.smp ∧
          u.lastRecord = some r ∧ r.src = .smp ∧ r.code = 0x04))

/-- R201, R202, R210, R211: a vertex's adjacency that returns to a lane at the last hop gives the parent as many
children as the hop's fanout: the records written are the parent's own, not short, and one for each child slot with the
edge it was reached by, its position and its parent's slot; no other byte changes.

R208, R209, R215: an ADJ_RANGE answer is kept for its parent and the first ADJ_PICK of at most 32 targets goes out; a
request without an answer is sent again at most three times; a refusal, or no answer after that, faults the programme,
and none of its seeds keeps a lane.

R73, R208: an ADJ_RANGE or ADJ_PICK of a grove that is not bound here with its generation is dropped and reads nothing.
One that its grove's budget admits is answered from the shard with the ranges, counts and weights, or with the position
and record of each edge picked. -/
def Obligations.AdjacencyReadAndServed : Prop :=
  (∀ (s s1 s2 s3 s4 : State) (lane slot seed dev shard ix rejects : Nat) (x : LaneSeed) (d : ProgDesc) (t : Twig)
    (p : OpenParent) (h : Hop) (l : BarkList) (es : List (Nat × Nat)) (ps : List Nat), s.islandsRun = true →
    tget s.smp.lanes lane = some x → s.laneDesc x = some d → tget x.twigs slot = some t →
    x.parents = [(slot, p)] → p.remote = false → p.sent = true → d.hops[t.hop]? = some h →
    t.hop + 1 = d.hops.length → seed = x.seed → s.resolve d t.vertex = (s1, .ok (dev, shard, ix)) →
    s1.readList d.grove shard ix = (s2, .ok l) → l.raises = false →
    selectEdges l h (h.bounds x.time).1 (h.bounds x.time).2
      (drawU (tgetD s.smp.streams d.stream {}).key (s.prog x.prog).base x.seed slot) = (ps, rejects) →
    s2.readEdges d.grove l ps = (s3, .ok es) → es.length = h.fanout → 0 < h.fanout → rejects = 0 →
    (s3.bump .SMP_EDGES [lane / 16] es.length).writeTwigs d seed ((slot, twigBytes t false) ::
      es.zipIdx.map (fun e => (d.childBase slot t.hop + e.2,
        twigBytes ⟨e.1.2 % 2 ^ 48, fld e.1.2 48 6, t.hop + 1, false, e.1.1, slot⟩ false))) = (s4, .ok) →
    ∃ u, exec (.smpAdjReadReturn lane slot 0) s = .next u ∧ u.mem = s4.mem ∧ u.smp.streams = s.smp.streams) ∧
  (∀ (s s1 : State) (die req lane slot dev shard ix : Nat) (x : LaneSeed) (d : ProgDesc) (t : Twig) (p : OpenParent)
    (h : Hop), s.islandsRun = true → s.findRequest die req = some (lane, slot, p) → tget s.smp.lanes lane = some x →
    s.laneDesc x = some d → tget x.twigs slot = some t → d.hops[t.hop]? = some h → p.range = none →
    (∀ degree first ranges n w weights ts, plan h.mode h.fanout n w weights (s.draws x d slot) = some ts → ts ≠ [] →
      p.draws = 0 → s1 = s.modLane lane (fun y => { y with
        parents := tset x.parents slot { p with range := some (n, w, ranges, weights), tries := 0 } }) →
      s1.resolve d t.vertex = (s1, .ok (dev, shard, ix)) →
      ∃ u y, exec (.adjResponseReceive die req (.range degree first ranges n w weights)) s = .next u ∧
        tget u.smp.lanes lane = some y ∧
        tget y.parents slot =
          some { p with range := some (n, w, ranges, weights), tries := 0, draws := (ts.take 32).length } ∧
        (∀ j, j ≠ lane → tget u.smp.lanes j = tget s.smp.lanes j) ∧ u.mem = s.mem ∧ u.smp.progs = s.smp.progs) ∧
    (∀ code, ∃ u, exec (.adjResponseReceive die req (.fault code)) s = .next u ∧ (u.prog x.prog).st = .faulted ∧
      (∀ j y, tget u.smp.lanes j = some y → y.prog ≠ x.prog) ∧ u.mem = s.mem) ∧
    (p.tries < 3 → (s.bump .SMP_REMOTE_RETRY [die]).resolve d t.vertex = (s1, .ok (dev, shard, ix)) →
      ∃ u y, exec (.smpRemoteTimeout die req) s = .next u ∧ tget u.smp.lanes lane = some y ∧
        tget y.parents slot = some { p with tries := p.tries + 1 } ∧ u.smp.progs = s.smp.progs ∧ u.mem = s1.mem) ∧
    (3 ≤ p.tries → ∃ u, exec (.smpRemoteTimeout die req) s = .next u ∧ (u.prog x.prog).st = .faulted ∧
      (∀ j y, tget u.smp.lanes j = some y → y.prog ≠ x.prog) ∧ u.mem = s.mem)) ∧
  (∀ (s s1 s2 : State) (die : Nat) (o : Origin) (a : AdjRange) (b : AdjPick) (l : BarkList), s.islandsRun = true →
    (s.groveIs o.grove o.gen = false → (∃ t, exec (.adjRange die o a) s = .next t ∧ t.mem = s.mem ∧ t.smp = s.smp) ∧
      ∃ t, exec (.adjPick die o b) s = .next t ∧ t.mem = s.mem ∧ t.smp = s.smp) ∧
    (∀ (rs : List (Nat × Nat)) (ws : List Nat), s.groveIs o.grove o.gen = true → a.shard < 2 ^ 40 →
      s.spend die o.grove 4 1 false = (s1, true) → s1.readList o.grove a.shard a.vertex = (s2, .ok l) →
      l.raises = false → rs = l.ranges a.types a.lo a.hi → ws = (rangePositions rs).map l.weight →
      exec (.adjRange die o a) s = .next (s2.sendMsg die false o.device 0x18 o.grove
        (toLe 4 a.request ++ toLe 4 l.edges.length ++ toLe 5 l.first ++ toLe 2 rs.length ++
          rs.flatMap (fun x => toLe 4 x.1 ++ toLe 4 x.2) ++ mfield 4 (rangeCount rs) ++ mfield 8 ws.sum ++
          (if rangeCount rs ≤ 1024 ∧ a.mode = 3 then ws.flatMap (toLe 4) else [])))) ∧
    (∀ s3 es, s.groveIs o.grove o.gen = true → b.shard < 2 ^ 40 → s.spend die o.grove 4 1 false = (s1, true) →
      s1.readList o.grove b.shard b.vertex = (s2, .ok l) → l.raises = false → b.weighted = false →
      (∀ x ∈ b.ranges, x.1 ≤ x.2 ∧ x.2 < l.edges.length) →
      s2.readEdges o.grove l (b.targets.filterMap (pickPos b.ranges)) = (s3, .ok es) →
      exec (.adjPick die o b) s = .next (s3.sendMsg die false o.device 0x19 o.grove
        (mfield 4 b.request ++ mfield 1 es.length ++ es.flatMap fun e => toLe 8 e.1 ++ toLe 16 e.2))))

/-! ## Statements about gather and scatter (ch. 7) -/

/-- R221, R222, R235: a GATHER or SCATTER that passes its checks joins its die's wait pool, last, and nothing else
changes; one whose step is neither the grove's current one nor the next ends as BAD_COMMAND with GTH_STEP. A
SCATTER_CLOSE whose scatters have not all completed joins the pool and its scatter_count is kept.

R225, R226: a gather that starts, with no manifest, writes its map: for each admitted position its unique index, or
0xFFFF_FFFF where the record is invalid. R231, R233: a scatter of one manifest row within the first segment leaves one
new merge entry that holds the row's elements, and completes with one contribution.

R233: the first value an entry takes for an element is taken exactly, and each later one is added by R155. -/
def Obligations.GatherCommands : Prop :=
  (∀ (s : State) (q i op : Nat) (cmd : Instr) (c : Cmd), s.islandsRun = true →
    (op = 1 ∧ cmd = .gather q i ∨ op = 2 ∧ cmd = .scatter q i) →
    (s.ofRow q i 2 op = some c → c.restZero [(8, 8), (0x10, 8), (0x18, 8)] = true → c.arg 8 8 < 2 ^ 48 →
      c.arg 8 8 % 64 = 0 → c.arg 0x18 8 < 2 ^ 48 → (s.waitEntry (dieOfQueue q) (c.arg 0x10 8)).1 = true →
      (c.arg 0x18 8 = (s.step_ c.grove).step ∨ c.arg 0x18 8 = stepSucc (s.step_ c.grove).step →
        ∃ t, exec cmd s = .next t ∧ t.gth.cmds = s.gth.cmds ++ [{
            queue := q, index := i, op := op, grove := c.grove, gen := c.gen, step := c.arg 0x18 8, tag := c.tag,
            wait := (s.waitEntry (dieOfQueue q) (c.arg 0x10 8)).2 }] ∧
          t.gth.merge = s.gth.merge ∧ t.mem = s.mem ∧ t.til = s.til ∧ t.regs = s.regs) ∧
      (c.arg 0x18 8 ≠ (s.step_ c.grove).step → c.arg 0x18 8 ≠ stepSucc (s.step_ c.grove).step → s.logRoom = true →
        ∃ (u : State) (r : LogRec), exec cmd s = .next (u.complete q i .badCommand 0) ∧ u.gth = s.gth ∧ u.mem = s.mem ∧
          u.lastRecord = some r ∧ r.src = .gth ∧ r.sev = .contained ∧ r.code = 0x03)) ∧
    (s.ofRow q i 2 3 = some c → c.restZero [(8, 4), (0x10, 8), (0x18, 8)] = true → 1 ≤ c.arg 8 4 → c.arg 8 4 ≤ 65536 →
      c.arg 0x18 8 < 2 ^ 48 → c.arg 0x18 8 = (s.step_ c.grove).step → (parseEntry (c.arg 0x10 8)).1 = true →
      tgetD s.gth.seqDone (16 * dieOfQueue q + c.grove) 0 < c.arg 8 4 → s.gthCmd q i = none →
      ∃ t, exec (.scatterClose q i) s = .next t ∧
        t.gth.cmds = s.gth.cmds ++ [{
          queue := q, index := i, op := 3, grove := c.grove, gen := c.gen, step := c.arg 0x18 8, tag := c.tag,
          wait := none, closeCount := c.arg 8 4, signal := (parseEntry (c.arg 0x10 8)).2.getD (0, 0) }] ∧
        tgetD t.gth.closes (16 * dieOfQueue q + c.grove) [] =
          tgetD s.gth.closes (16 * dieOfQueue q + c.grove) [] ++ [(c.arg 0x18 8, c.arg 8 4)] ∧
        t.gth.merge = s.gth.merge ∧ t.mem = s.mem ∧ t.til = s.til ∧ t.regs = s.regs)) ∧
  (∀ (s s1 s2 : State) (q i : Nat) (c : GthCmd) (qc : Cmd) (b : List Byte) (d : GthDesc) (l : List (Option Nat)),
    s.islandsRun = true → s.gthCmd q i = some c → s.cmd q i = some qc → c.queue = q → c.index = i → c.st = .waiting →
    c.wait = none → (s.step_ c.grove).st = .running → (s.step_ c.grove).step = c.step → Memory.wf s.til.scratch = true →
    s.readVa c.grove (qc.arg 8 6) 64 = (s1, .ok, b) → parseGth (c.op == 2) c.grove c.gen b = some d →
    dieOfTile d.tile = dieOfQueue q → s1.tileUsable c.grove d.tile = true → s1.admitted c.grove d = (s2, .ok, l) →
    (c.op = 1 → d.offset + d.limit * d.pitch * 64 ≤ scratchSize d.tile → d.mapOffset ≠ 0xFFFFFFFF →
      d.mapOffset + 4 * l.length ≤ scratchSize d.tile → (uniqueWalk l).1.length ≤ d.limit → d.manifest = 0 →
      ∃ t, exec (.gthCommandStart q i none) s = .next t ∧
        t.spxRead d.tile d.mapOffset (4 * l.length) = (uniqueWalk l).2.1.flatMap (toLe 4) ∧
        (∀ a, a < d.tile * 2 ^ 25 + d.mapOffset ∨ d.tile * 2 ^ 25 + d.mapOffset + 4 * l.length ≤ a →
          cellGet t.til.scratch a = cellGet s.til.scratch a)) ∧
    (∀ r, c.op = 2 → d.limit = tgetD s.gth.seqDone (16 * dieOfQueue q + c.grove) 0 → s.gth.cmds = [c] →
      tgetD s.gth.closes (16 * dieOfQueue q + c.grove) [] = [] → d.colFirst = 0 → d.rowElems ≤ 64 →
      d.offset + d.count * d.pitch * 64 ≤ scratchSize d.tile → l = [some r] → d.kind = 2 → d.count = 1 →
      s.gth.merge = [] → c.count = 0 → c.out = 0 → 0 < s.mergeQuota (dieOfQueue q) c.grove →
      ∃ u : State, exec (.gthCommandStart q i none) s = .next (u.complete q i .ok 1) ∧
        u.gth.merge = [(mergeKey (dieOfQueue q) c.grove d.table r 0,
          mergeInto { step := c.step, mask := 0, v := List.replicate 64 0 } (s.gradElems d 0 0))] ∧
        u.gth.cmds = [] ∧ u.til = s.til ∧ u.mem = s2.mem)) ∧
  (∀ (e : MergeEntry) (k x : Nat), k < 64 → e.v.length = 64 → e.mask < 2 ^ 64 →
    (mergeInto e [(k, x)]).mask.testBit k = true ∧
    (∀ j, j ≠ k → (mergeInto e [(k, x)]).mask.testBit j = e.mask.testBit j ∧
      (mergeInto e [(k, x)]).v.getD j 0 = e.v.getD j 0) ∧
    (e.mask.testBit k = false → (mergeInto e [(k, x)]).v.getD k 0 = x) ∧
    (e.mask.testBit k = true → (mergeInto e [(k, x)]).v.getD k 0 = f32Add (e.v.getD k 0) x))

/-- R227, R241: a row that returns from this device's memory, or whole in one message from its home, is converted to the
gather's format and written in its place in the block; no other byte of any scratchpad changes. A message that is not
the whole row writes nothing.

R240, R242, R260, R263, R273: a ROW_READ that its grove's budget admits is answered with the row's messages; one that
meets a row waiting for FLIP_DONE is held, and its release answers it once the wait is over. An accumulate already
applied is acknowledged and adds nothing; a new one for a row here is added to the row buffer of the channel's die and
noted.

R235, R238, R242, R244: an acknowledgement ends its accumulate; a refused row read ends its gather with FAULT and holds
back the grove's clean report; a request without an answer is sent again at most three times, and then its step faults. -/
def Obligations.RowsServedAndPlaced : Prop :=
  (∀ (s s1 s2 : State) (q i u at_ : Nat) (c : GthCmd) (d : GthDesc) (x : RowFetch) (td : TableDesc) (b out : List Byte),
    s.islandsRun = true → s.gthCmd q i = some c → c.queue = q → c.index = i → c.desc = some d → c.rows[u]? = some x →
    s.pinnedDesc c.grove d.table = some td → Memory.wf s.til.scratch = true →
    at_ = d.tile * 2 ^ 25 + (d.offset + u * d.pitch * 64) → s1.convertRow (dieOfQueue q) td.format d.fmt b = (s2, out) →
    (∀ slot, x.st = .here slot → s.pendingIn c.grove d.table td.version x.row = false →
      s.readRow c.grove d.table td x.row (match slot with
        | none => Place.bucket
        | some k => .slot k) d.colFirst d.rowElems = (s1, .ok, some b) →
      ∃ t, exec (.localRowReadReturn q i u) s = .next t ∧ t.spxRead d.tile (d.offset + u * d.pitch * 64) out.length = out ∧
        (∀ a, a < at_ ∨ at_ + out.length ≤ a → cellGet t.til.scratch a = cellGet s.til.scratch a) ∧
        (∀ y, t.gthCmd q i = some y → (y.rows[u]?).map RowFetch.st = some .done)) ∧
    (∀ die dev tries m, x.st = .remote dev m.request m.version tries [] false → s1 = s →
      s.findRow die m.request = some (c, u, x) → m.offset = 0 → m.data = b →
      (m.last = true → b.length = d.rowElems * elemSize td.format → 0 < b.length →
        ∃ t, exec (.rowDataReceive die m) s = .next t ∧
          t.spxRead d.tile (d.offset + u * d.pitch * 64) out.length = out ∧
          (∀ a, a < at_ ∨ at_ + out.length ≤ a → cellGet t.til.scratch a = cellGet s.til.scratch a) ∧
          (∀ y, t.gthCmd q i = some y → (y.rows[u]?).map RowFetch.st = some .done)) ∧
      (m.last = false → ∃ t, exec (.rowDataReceive die m) s = .next t ∧ t.til = s.til ∧ t.mem = s.mem ∧
        ∃ y, t.gthCmd q i = some y ∧
          (y.rows[u]?).map RowFetch.st = some (.remote dev m.request m.version tries [(0, b)] false)))) ∧
  (∀ (s s1 s2 : State) (die n : Nat) (o : Origin) (r : RowRead) (a : RowAcc) (td : TableDesc) (b : List Byte),
    s.islandsRun = true →
    (s.groveIs o.grove o.gen = true → s.spend die o.grove 4 1 false = (s1, true) → s.tableIx o.grove r.table = some n →
      (s.tableSlot n).version r.version = some td → s.tombOf o.grove r.table r.version r.row = none →
      (s.readWaits o r td = false → s.graftOf o.grove r.table r.version r.row = none →
        s1.readRow o.grove r.table td r.row .bucket r.first r.count = (s2, .ok, some b) →
        exec (.rowRead die o r) s = .next ((s2.heatRow die o.grove r.table r.row).each (rowMessages r.request r.version b)
          fun u m => u.sendMsg die false o.device 0x1A o.grove m)) ∧
      (s.readWaits o r td = true → ∃ t, exec (.rowRead die o r) s = .next t ∧
        t.emb = { s.emb with heldReads := s.emb.heldReads ++ [⟨die, o, r⟩] } ∧ t.mem = s.mem ∧ t.outbox = s.outbox)) ∧
    (s.emb.heldReads = [⟨die, o, r⟩] → s.tableIx o.grove r.table = some n → (s.tableSlot n).version r.version = some td →
      s.tombOf o.grove r.table r.version r.row = none → s.readWaits o r td = false →
      s.graftOf o.grove r.table r.version r.row = none → s1 = { s with emb := { s.emb with heldReads := [] } } →
      s1.readRow o.grove r.table td r.row .bucket r.first r.count = (s2, .ok, some b) →
      exec (.rowReadRelease die o r.request) s =
        .next ((s2.heatRow die o.grove r.table r.row).each (rowMessages r.request r.version b)
          fun u m => u.sendMsg die false o.device 0x1A o.grove m)) ∧
    (s.groveIs o.grove o.gen = true → s.spend die o.grove 4 1 false = (s1, true) →
      ((a.step, o.device, o.die, a.request) ∈ tgetD s.emb.applied o.grove [] →
        exec (.rowAccumulate die o a) s = .next ((s1.bump .GTH_DUP_DROPPED [die]).sendAck die o.device o.grove a.request 1)) ∧
      ((a.step, o.device, o.die, a.request) ∉ tgetD s.emb.applied o.grove [] → s.tableIx o.grove a.table = some n →
        (s.tableSlot n).version a.version = some td → ((s.tableSlot n).at .current).map (·.trainable) = some true →
        s.tombOf o.grove a.table a.version a.row = none → s.accLate o.grove a.step = false →
        s.pendInOf o.grove a.table a.version a.row = none → s.graftOf o.grove a.table a.version a.row = none →
        ∀ va lo ch off, s1.rowVa o.grove a.table td a.row .bucket = (s2, .ok, some va) →
          s2.translate o.grove va.1 = some lo → s2.locate lo = some (ch, off) →
          ∃ t, exec (.rowAccumulate die o a) s = .next t ∧
            t.mem = (s2.rowBufAdd (dieOfChannel ch) o.grove a).1.mem ∧
            (a.step, o.device, o.die, a.request) ∈ tgetD t.emb.applied o.grove []))) ∧
  (∀ (s : State) (die req u code status : Nat) (x : SentAcc) (c : GthCmd) (d : GthDesc) (f : RowFetch),
    s.islandsRun = true →
    (tget s.gth.accs (2 ^ 32 * die + req) = some x → (∀ y ∈ s.gth.cmds, y.st ≠ .acks) →
      (∃ t, exec (.accumulateAckReceive die req status) s = .next t ∧
        t.gth = { s.gth with accs := terase s.gth.accs (2 ^ 32 * die + req) } ∧ t.mem = s.mem ∧ t.regs = s.regs) ∧
      (x.tries < 3 → ∃ t, exec (.gthRemoteTimeout die true req) s = .next t ∧
        t.gth = { s.gth with accs := tset s.gth.accs (2 ^ 32 * die + req) { x with tries := x.tries + 1 } } ∧
        t.mem = s.mem) ∧
      (3 ≤ x.tries → s.gth.cmds = [] → ∃ t, exec (.gthRemoteTimeout die true req) s = .next t ∧
        t.gth = { s.gth with accs := terase s.gth.accs (2 ^ 32 * die + req) } ∧ (t.step_ x.grove).faulted = true ∧
        t.mem = s.mem)) ∧
    (s.findRow die req = some (c, u, f) → c.desc = some d →
      (∃ t, exec (.negativeResponseReceive die .row req code) s = .next t ∧ t.gthCmd c.queue c.index = none ∧
        (t.step_ c.grove).faulted = true ∧ t.til = s.til) ∧
      (∀ dev v tries parts ended, f.st = .remote dev req v tries parts ended →
        (tries < 3 → s.gthCmd c.queue c.index = some c → c.rows[u]? = some f →
          ∃ t y, exec (.gthRemoteTimeout die false req) s = .next t ∧ t.gthCmd c.queue c.index = some y ∧
            (y.rows[u]?).map RowFetch.st = some (.remote dev req v (tries + 1) [] false) ∧ t.til = s.til ∧ t.mem = s.mem) ∧
        (3 ≤ tries → ∃ t, exec (.gthRemoteTimeout die false req) s = .next t ∧ t.gthCmd c.queue c.index = none ∧
          (t.step_ c.grove).faulted = true ∧ t.til = s.til))))

/-! ## Statements about embedding tables (ch. 8) -/

/-- R251, R257, R276: TABLE_LOAD of a valid descriptor whose version comes after the current one fills an EMPTY version
slot and makes it LOADED, and with no EMPTY slot ends as EMB_SLOT_BUSY; TABLE_DROP empties a LOADED slot and takes its
flip out of the staged set.

R264, R266, R267, R274, R276: DIR_STAGE adds an entry that passes its checks, last, and completes with the count;
DIR_UNSTAGE empties the set and leaves every row entry; PEND_ABANDON of a row that is not staged removes its PEND_OUT
entry; HEAT_READ writes the die's heat table out and clears it when asked. -/
def Obligations.DirectoryCommands : Prop :=
  (∀ (s s1 : State) (q i n : Nat) (c : Cmd) (b : List Byte) (d : TableDesc), s.islandsRun = true → c.arg 8 2 < 2 ^ 12 →
    s.tableIx c.grove (c.arg 8 2) = some n →
    (s.ofRow q i 3 1 = some c → c.restZero [(8, 2), (0x10, 8)] = true → c.arg 0x10 8 < 2 ^ 48 →
      ((s.tableSlot n).st0 = .empty ∨ (s.tableSlot n).st1 = .empty →
        (s.start q i).readVa c.grove (c.arg 0x10 8) 64 = (s1, .ok, b) → parseTable b = some d →
        (∀ y, (s.tableSlot n).at .current = some y → serialAfter d.version y.version 32 = true) →
        ∃ u : State, exec (.tableLoad q i) s = .next (u.complete q i .ok 0) ∧
          u.tableSlot n = (if (s.tableSlot n).st0 = .empty then { s.tableSlot n with st0 := .loaded, desc0 := some d }
            else { s.tableSlot n with st1 := .loaded, desc1 := some d }) ∧
          (∀ j, j ≠ n → u.tableSlot j = s.tableSlot j) ∧ u.emb.entries = s.emb.entries ∧ u.emb.staged = s.emb.staged ∧
          u.mem = s1.mem) ∧
      ((s.tableSlot n).st0 ≠ .empty → (s.tableSlot n).st1 ≠ .empty → s.logRoom = true →
        ∃ (u : State) (r : LogRec), exec (.tableLoad q i) s = .next (u.complete q i .badCommand 0) ∧ u.emb = s.emb ∧
          u.mem = s.mem ∧ u.lastRecord = some r ∧ r.src = .emb ∧ r.sev = .contained ∧ r.code = 0x03)) ∧
    (s.ofRow q i 3 2 = some c → c.restZero [(8, 2)] = true →
      ∃ u : State, exec (.tableDrop q i) s = .next (u.complete q i .ok 0) ∧
        u.tableSlot n = (if (s.tableSlot n).st0 = .loaded then { s.tableSlot n with st0 := .empty, desc0 := none }
          else if (s.tableSlot n).st1 = .loaded then { s.tableSlot n with st1 := .empty, desc1 := none }
          else s.tableSlot n) ∧
        (∀ j, j ≠ n → u.tableSlot j = s.tableSlot j) ∧
        u.staged c.grove = (s.staged c.grove).filter (fun w => !(stageKind w == 1 && stageTable w == c.arg 8 2)) ∧
        u.emb.entries = s.emb.entries ∧ u.mem = s.mem)) ∧
  (∀ (s s1 : State) (q i : Nat) (c : Cmd), s.islandsRun = true →
    (s.ofRow q i 3 5 = some c → c.restZero [(8, 8), (0x10, 8)] = true →
      (s.stageCheck c.grove (c.arg 8 8, c.arg 0x10 8) = none →
        ∃ u : State, exec (.dirStage q i) s = .next (u.complete q i .ok ((s.staged c.grove).length + 1)) ∧
          u.staged c.grove = s.staged c.grove ++ [(c.arg 8 8, c.arg 0x10 8)] ∧
          (∀ g, g ≠ c.grove → u.staged g = s.staged g) ∧ u.emb.entries = s.emb.entries ∧ u.mem = s.mem) ∧
      (∀ code, s.stageCheck c.grove (c.arg 8 8, c.arg 0x10 8) = some code → s.logRoom = true →
        ∃ (u : State) (r : LogRec), exec (.dirStage q i) s = .next (u.complete q i .badCommand 0) ∧ u.emb = s.emb ∧
          u.lastRecord = some r ∧ r.src = .emb ∧ r.sev = .contained ∧ r.code = code)) ∧
    (s.ofRow q i 3 6 = some c → c.restZero [] = true →
      ∃ u : State, exec (.dirUnstage q i) s = .next (u.complete q i .ok 0) ∧ u.staged c.grove = [] ∧
        (∀ g, g ≠ c.grove → u.staged g = s.staged g) ∧ u.emb.entries = s.emb.entries ∧ u.mem = s.mem) ∧
    (s.ofRow q i 3 7 = some c → c.restZero [(8, 2), (0x10, 8)] = true → c.arg 8 2 < 2 ^ 12 → c.arg 0x10 8 < 2 ^ 48 →
      (s.tableIx c.grove (c.arg 8 2)).isSome = true →
      (∀ w ∈ s.staged c.grove, ¬(stageKind w = 2 ∧ stageTable w = c.arg 8 2 ∧ stageRow w = c.arg 0x10 8)) →
      ∃ u : State, exec (.pendAbandon q i) s = .next (u.complete q i .ok 0) ∧
        (∀ e, e ∈ u.emb.entries ↔ e ∈ s.emb.entries ∧ ¬(e.grove = c.grove ∧ e.table = c.arg 8 2 ∧
          e.row = c.arg 0x10 8 ∧ ∃ dev k a, e.kind = .pendOut dev k a)) ∧
        u.emb.staged = s.emb.staged ∧ u.mem = s.mem) ∧
    (s.ofRow q i 3 8 = some c → c.restZero [(8, 8), (0x10, 1)] = true → c.arg 8 8 < 2 ^ 48 → c.arg 8 8 % 64 = 0 →
      c.arg 0x10 1 ≤ 1 →
      (s.start q i).writeVa c.grove (c.arg 8 8) (padTo 16384 ((tgetD s.emb.heat (16 * dieOfQueue q + c.grove) []).flatMap
        fun x => toLe 8 (x.2.1 + x.1 * 2 ^ 48) ++ toLe 8 x.2.2)) = (s1, .ok) →
      ∃ u : State, exec (.heatRead q i) s = .next (u.complete q i .ok 1024) ∧ u.mem = s1.mem ∧
        tgetD u.emb.heat (16 * dieOfQueue q + c.grove) [] =
          (if c.arg 0x10 1 = 1 then [] else tgetD s.emb.heat (16 * dieOfQueue q + c.grove) [])))

/-- R268, R271: a regraft or a scion that begins on the row's home, with no entry of the row and room in the quota,
installs PEND_OUT or a pending HOLDER, keeps the copy it sends, and does not complete yet. The acknowledgement completes
the command with the bytes copied; a copy without one is sent again at most three times, and then the command faults and
its entry goes.

R268, R271: the acknowledgement and the timeouts of a regraft or scion copy.

R268, R269, R271: a regraft or scion copy that arrives is written to its graft slot and installs PEND_IN or PEND_SCION
once; a refresh or a mirror is written to the slot of the row's SCION or PEND_IN entry and changes no entry.

R269, R270, R271: FLIP_DONE turns the row's PEND_IN entry into a GRAFT here; REFRESH_DONE records its step for the home
device; an acknowledged refresh is forgotten while another is open. -/
def Obligations.CopiesBetweenDevices : Prop :=
  (∀ (s s1 : State) (q i g tb r dev slot die : Nat) (c : Cmd) (d : TableDesc) (va : Nat × Nat) (code : Nat),
    s.islandsRun = true → g = c.grove → tb = c.arg 8 2 → r = c.arg 0x10 8 → dev = c.arg 0x18 2 → slot = c.arg 0x1C 4 →
    die = dieOfQueue q → c.restZero [(8, 2), (0x10, 8), (0x18, 2), (0x1C, 4)] = true → tb < 2 ^ 12 → r < 2 ^ 48 →
    dev < 2 ^ 15 → slot < 2 ^ 24 → (s.tableIx g tb).isSome = true →
    (s.start q i).beginRow g tb r = (s1, some (d, va), code) → dev ≠ s.devnum → (s.grove g).members.testBit dev = true →
    (∀ e ∈ s.emb.entries, ¬(e.grove = g ∧ e.table = tb ∧ e.row = r)) → s.staged g = [] → s.embUsed g < s.embQuota g →
    (s.ofRow q i 3 3 = some c →
      ∃ t m, exec (.regraftBegin q i) s = .next t ∧
        t.emb.entries = s.emb.entries ++ [⟨g, tb, d.version, r, .pendOut dev slot false⟩] ∧
        tget t.emb.copies (2 ^ 32 * die + s.emb.nextRequest.getD die 0) = some ⟨q, i, false, dev, g, m, 0⟩ ∧
        m.row = r ∧ m.slot = slot ∧ m.data = s1.peekVa g va.1 (64 * d.rowPitch) ∧
        m.state = s1.peekVa g va.2 (64 * d.statePitch) ∧ t.cmd q i = (s.start q i).cmd q i ∧ t.mem = s1.mem) ∧
    (s.ofRow q i 3 4 = some c →
      ∃ t m, exec (.scionBegin q i) s = .next t ∧
        t.emb.entries = s.emb.entries ++ [⟨g, tb, d.version, r, .holder dev true false⟩] ∧
        tget t.emb.copies (2 ^ 32 * die + s.emb.nextRequest.getD die 0) = some ⟨q, i, true, dev, g, m, 0⟩ ∧
        m.row = r ∧ m.slot = slot ∧ m.data = s1.peekVa g va.1 (64 * d.rowPitch) ∧ m.state = [] ∧
        t.cmd q i = (s.start q i).cmd q i ∧ t.mem = s1.mem)) ∧
  (∀ (s : State) (die req : Nat) (x : SentCopy) (cmd : Instr), s.islandsRun = true →
    tget s.emb.copies (2 ^ 32 * die + req) = some x →
    (cmd = .regraftCopyAck die req ∨ cmd = .scionCopyAck die req →
      ∃ u : State, exec cmd s = .next (u.complete x.queue x.index .ok (x.msg.data.length + x.msg.state.length)) ∧
        u.emb.copies = terase s.emb.copies (2 ^ 32 * die + req) ∧
        u.emb.entries = s.emb.entries.map (fun y => if x.owns y = true then { y with kind := y.kind.ack } else y) ∧
        u.mem = s.mem ∧ u.regs = s.regs) ∧
    (x.tries < 3 → ∃ t, exec (.regraftCopyTimeout die req) s = .next t ∧
      t.emb = { s.emb with copies := tset s.emb.copies (2 ^ 32 * die + req) { x with tries := x.tries + 1 } } ∧
      t.mem = s.mem) ∧
    (3 ≤ x.tries → ∃ u : State, exec (.regraftCopyTimeout die req) s = .next (u.complete x.queue x.index .fault 0) ∧
      u.emb.copies = terase s.emb.copies (2 ^ 32 * die + req) ∧
      u.emb.entries = s.emb.entries.filter (fun e => !x.owns e) ∧ u.mem = s.mem)) ∧
  (∀ (s : State) (die : Nat) (o : Origin) (c : RowCopy) (d : TableDesc), s.islandsRun = true →
    s.groveIs o.grove o.gen = true → s.copyDesc o.grove c = some d →
    (∀ e, e = RowEntry.mk o.grove c.table c.version c.row (.pendIn o.device c.slot) →
      (e ∉ s.emb.entries → s.embUsed o.grove < s.embQuota o.grove →
        ∃ t, exec (.regraftCopyReceive die o c) s = .next t ∧ t.emb.entries = s.emb.entries ++ [e] ∧
          t.mem = (s.storeCopy o.grove d c.slot c).mem) ∧
      (e ∈ s.emb.entries → ∃ t, exec (.regraftCopyReceive die o c) s = .next t ∧ t.emb = s.emb ∧
        t.mem = (s.storeCopy o.grove d c.slot c).mem)) ∧
    (∀ e, e = RowEntry.mk o.grove c.table c.version c.row (.pendScion c.slot) → e ∉ s.emb.entries →
      s.embUsed o.grove < s.embQuota o.grove →
      ∃ t, exec (.scionCopyReceive die o c) s = .next t ∧ t.emb.entries = s.emb.entries ++ [e] ∧
        t.mem = (s.storeCopy o.grove d c.slot c).mem) ∧
    (∀ k, s.scionOf o.grove c.table c.version c.row false = some k →
      ∃ t, exec (.scionRefreshReceive die o c) s = .next t ∧ t.emb = s.emb ∧
        t.mem = (s.storeCopy o.grove d k c).mem) ∧
    (∀ dev k, s.pendInOf o.grove c.table c.version c.row = some (dev, k) →
      ∃ t, exec (.regraftMirrorReceive die o c) s = .next t ∧ t.emb = s.emb ∧
        t.mem = (s.storeCopy o.grove d k c).mem)) ∧
  (∀ (s : State) (die : Nat) (o : Origin) (tb r step req : Nat), s.islandsRun = true →
    (∀ pre post w k, s.groveIs o.grove o.gen = true → s.emb.heldReads = [] →
      s.emb.entries = pre ++ ⟨o.grove, tb, w, r, .pendIn o.device k⟩ :: post →
      (∀ e ∈ pre ++ post, ¬(e.grove = o.grove ∧ e.table = tb ∧ e.row = r)) →
      ∃ t, exec (.flipDoneReceive die o tb r step) s = .next t ∧
        t.emb.entries = pre ++ post ++ [⟨o.grove, tb, w, r, .graft s.devnum k⟩] ∧ t.mem = s.mem ∧ t.regs = s.regs) ∧
    (s.groveIs o.grove o.gen = true → ∃ t, exec (.refreshDoneReceive o step) s = .next t ∧
      t.emb = { s.emb with refreshed := tset s.emb.refreshed (2 ^ 15 * o.grove + o.device) step } ∧
      { t with emb := s.emb } = s) ∧
    (∀ x p, tget s.emb.refreshes (2 ^ 32 * die + req) = some x → x.mirror = false →
      p ∈ terase s.emb.refreshes (2 ^ 32 * die + req) → p.1 / 2 ^ 32 = die → p.2.grove = x.grove → p.2.mirror = false →
      ∃ t, exec (.refreshAckReceive die req) s = .next t ∧
        t.emb = { s.emb with refreshes := terase s.emb.refreshes (2 ^ 32 * die + req) } ∧ { t with emb := s.emb } = s))

/-! ## Statements about tiles and the watch (ch. 9 and 17) -/

/-- R303, R305, R306: the oldest pass with a pending check on a tile completes its next check; the last check of a pass
takes the pass away, and makes one report when any check of it failed. R16, R314, R315: the tolerances are stored while
no batch is at work.

R306, R531, R534, R535, R536: a mismatch report is taken and counted; it makes a NORMAL tile SUSPECT and excludes a
SUSPECT one that mismatches again in a later attempt of the same step, with its TILE_ALL test; one of the step that runs
voids it with reason 1. A recompute of a tile ends with its class. -/
def Obligations.AbftAndMismatches : Prop :=
  (∀ (s : State) (tile : Nat) (before after : List AbftPass) (p q : AbftPass) (c : AbftCheck) (rest : List AbftCheck)
    (v : Word), s.islandsRun = true → tile < 128 →
    (s.til.passes = before ++ p :: after → (∀ x ∈ before, x.tile ≠ tile) → p.tile = tile → p.pending = c :: rest →
      q = { p with pending := rest, failed := p.failed ++ (if c.ok then [] else [c]) } →
      ∃ t, exec (.abftCheckDone tile) s = .next t ∧
        t.til.passes = before ++ (if rest = [] then [] else [q]) ++ after ∧
        t.til.reports = s.til.reports ++ (if rest = [] ∧ q.failed ≠ [] then [q] else []) ∧
        wfld (t.getReg .TIL_ABFT_CHECKS [tile]) 0 48 = min (wfld (s.getReg .TIL_ABFT_CHECKS [tile]) 0 48 + 1) (2 ^ 48 - 1) ∧
        wfld (t.getReg .TIL_ABFT_MISMATCH [tile]) 0 48 =
          min (wfld (s.getReg .TIL_ABFT_MISMATCH [tile]) 0 48 + b2n (!c.ok)) (2 ^ 48 - 1) ∧
        t.til.scratch = s.til.scratch ∧ t.sch = s.sch ∧ t.col = s.col) ∧
    (s.batchRuns = false →
      (∃ t, exec (.tilAbftTolWrite tile v) s = .next t ∧
        t.getReg .TIL_ABFT_TOL [tile] = accessWrite .TIL_ABFT_TOL (s.getReg .TIL_ABFT_TOL [tile]) v ∧
        (∀ a, a ≠ regAddr .TIL_ABFT_TOL [tile] → tget t.regs a = tget s.regs a) ∧ { t with regs := s.regs } = s) ∧
      ∃ t, exec (.tilAbftAbsWrite tile v) s = .next t ∧
        t.getReg .TIL_ABFT_ABS [tile] = accessWrite .TIL_ABFT_ABS (s.getReg .TIL_ABFT_ABS [tile]) v ∧
        (∀ a, a ≠ regAddr .TIL_ABFT_ABS [tile] → tget t.regs a = tget s.regs a) ∧ { t with regs := s.regs } = s)) ∧
  (∀ (s : State) (tile cls : Nat) (pre post : List AbftPass) (p : AbftPass), s.islandsRun = true → tile < 128 →
    (s.til.reports = pre ++ p :: post → (∀ x ∈ pre, x.tile ≠ tile) → p.tile = tile →
      ∃ t, exec (.abftMismatchReport tile) s = .next t ∧ t.til.reports = pre ++ post ∧ t.til.passes = s.til.passes ∧
        wfld (t.getReg .WCH_MISMATCH []) 0 48 = min (wfld (s.getReg .WCH_MISMATCH []) 0 48 + 1) (2 ^ 48 - 1) ∧
        ((s.watchTile tile).st = .normal → p.unstepped = false →
          (t.watchTile tile).st = .suspect ∧ (t.watchTile tile).histStep = p.step ∧
            (t.watchTile tile).histAttempt = p.attempt) ∧
        ((s.watchTile tile).st = .suspect → p.unstepped = false → (s.watchTile tile).histStep = p.step →
          (s.watchTile tile).histAttempt ≠ p.attempt →
          (t.watchTile tile).st = .testing ∧ (t.watchTile tile).excluded = true ∧
            ⟨dieOfTile tile, 6, tile, none⟩ ∈ t.wch.tests) ∧
        (p.unstepped = true → (t.watchTile tile).st = (s.watchTile tile).st ∧ t.col = s.col ∧ t.mem = s.mem) ∧
        (p.unstepped = false → s.groveIs p.grove p.gen = true → (s.step_ p.grove).st = .running →
          (s.step_ p.grove).step = p.step → (s.step_ p.grove).attempt = p.attempt →
          (t.step_ p.grove).st = .voided ∧ (t.step_ p.grove).voidMsg = some ⟨p.step, p.attempt, s.devnum, 1⟩)) ∧
    (0 < (s.watchTile tile).recompute → s.logRoom = true →
      ∃ t, exec (.recomputeDone tile cls) s = .next t ∧ (t.watchTile tile).cls = cls ∧
        (t.watchTile tile).recompute = (s.watchTile tile).recompute - 1 ∧
        (t.watchTile tile).st = (s.watchTile tile).st ∧ t.til = s.til ∧ t.mem = s.mem ∧
        (cls ≠ 2 → ∃ r : LogRec, t.lastRecord = some r ∧ r.src = .wch ∧ r.sev = .corrected ∧ r.code = 0x01 ∧
          r.detail = (tile + cls * 2 ^ 8) % 2 ^ 64)))

/-- R535, R545: an exclude write puts a NORMAL or SUSPECT tile that is idle into EXCLUDED, empties its task store, and
is refused with WCH_EXCLUDE while its grove's step is not CLOSED. A readmit write makes an EXCLUDED tile NORMAL once a
test has cleared it, no test runs on it and it is idle; any other is refused with WCH_READMIT.

R542, R543, R703: FT_RUN of an object in a permitted state starts its test and does not complete yet; of another it is
refused with WCH_FT_STATE. FT_ABORT ends its queue's test of the named tag; with none it is refused. A test that ends
gives its FT_RUN the result of R703, and of a tile sets last_pass. -/
def Obligations.ExclusionAndFieldTests : Prop :=
  (∀ (s : State) (v : Word) (tile : Nat), s.sup.recovery ≠ .resetHeld → tile = wfld v 0 7 → tile < 128 →
    ((s.watchTile tile).st = .normal ∨ (s.watchTile tile).st = .suspect →
      (s.tileIdle tile = true →
        ∃ t, exec (.tileExclude v) s = .next t ∧ (t.watchTile tile).st = .excluded ∧
          (t.watchTile tile).excluded = true ∧ t.used tile = 0 ∧ (∀ k, k ≠ tile → t.watchTile k = s.watchTile k) ∧
          t.til = s.til) ∧
      (s.tileIdle tile = false → s.logRoom = true →
        ∃ (t : State) (r : LogRec), exec (.tileExclude v) s = .next t ∧ t.wch.tiles = s.wch.tiles ∧ t.sch = s.sch ∧
          t.lastRecord = some r ∧ r.src = .wch ∧ r.sev = .contained ∧ r.code = 0x0A)) ∧
    ((s.watchTile tile).st = .excluded → (s.watchTile tile).cleared = true → s.tileTested tile = false →
      s.tileIdle tile = true →
      ∃ t, exec (.tileReadmit v) s = .next t ∧ (t.watchTile tile).st = .normal ∧ (t.watchTile tile).excluded = false ∧
        (∀ k, k ≠ tile → t.watchTile k = s.watchTile k) ∧ { t with wch := s.wch } = s) ∧
    ((s.watchTile tile).st ≠ .excluded ∨ (s.watchTile tile).cleared = false ∨ s.tileTested tile = true ∨
        s.tileIdle tile = false → s.logRoom = true →
      ∃ (t : State) (r : LogRec), exec (.tileReadmit v) s = .next t ∧ t.wch.tiles = s.wch.tiles ∧
        t.lastRecord = some r ∧ r.src = .wch ∧ r.sev = .contained ∧ r.code = 0x07)) ∧
  (∀ (s : State) (q i kind object die : Nat) (c : Cmd) (f : FieldTest), s.islandsRun = true →
    (s.ofRow q i 7 1 = some c → c.restZero [(8, 1), (0x0A, 2), (0x10, 4)] = true → kind = c.arg 8 1 →
      object = c.arg 0x0A 2 →
      (1 ≤ kind → kind ≤ 10 → (s.start q i).testAllowed q kind object = true →
        ∃ t, exec (.ftRun q i) s = .next t ∧ t.wch.tests = s.wch.tests ++ [⟨dieOfQueue q, kind, object, some (q, i)⟩] ∧
          t.cmd q i = (s.start q i).cmd q i ∧ t.til = s.til ∧ t.mem = s.mem ∧ t.regs = s.regs) ∧
      (kind = 0 ∨ 10 < kind ∨ (s.start q i).testAllowed q kind object = false → s.logRoom = true →
        ∃ (u : State) (r : LogRec), exec (.ftRun q i) s = .next (u.complete q i .badCommand 0) ∧ u.wch.tests = s.wch.tests ∧
          u.mem = s.mem ∧ u.lastRecord = some r ∧ r.src = .wch ∧ r.sev = .contained ∧ r.code = 0x05)) ∧
    (∀ j x, s.ofRow q i 7 2 = some c → c.restZero [(8, 2)] = true → s.wch.tests = [f] → f.owner = some (q, j) → j ≠ i →
      (s.start q i).cmd q j = some x →
      (x.tag = c.arg 8 2 →
        ∃ u : State, exec (.ftAbort q i) s = .next (u.complete q i .ok 0) ∧ u.wch.tests = [] ∧ u.cmd q j = none) ∧
      (x.tag ≠ c.arg 8 2 →
        ∃ u : State, exec (.ftAbort q i) s = .next (u.complete q i .badCommand 0) ∧ u.wch.tests = [f])) ∧
    (∀ r : FtResult, f = ⟨die, kind, object, some (q, i)⟩ → s.wch.tests = [f] →
      ∃ u : State, exec (.ftDone die kind object r) s = .next (u.complete q i .ok (match r with
          | .pass => 1
          | .fail sub item => sub % 256 * 2 ^ 8 + item % 2 ^ 32 * 2 ^ 32)) ∧
        u.wch.tests = [] ∧ (kind ≤ 6 → (u.watchTile object).lastPass = (r == .pass)) ∧
        (kind ≤ 6 → r = .pass → kind = 1 ∨ kind = 6 → (u.watchTile object).cleared = true) ∧
        ((kind = 4 ∨ kind = 6) → ∀ o, o < 2 ^ 25 → u.spxRead object o 1 = [0])))

/-- R533, R547, R548: a write of WCH_LOG_TAIL that leaves more than 1,024 records between tail and head is discarded,
any other is stored; with room again one record counts the dropped ones. A one written to lost clears WCH_LOG_STATE. -/
def Obligations.LogRegisters : Prop :=
  ∀ (s : State) (v : Word), s.sup.recovery ≠ .resetHeld →
    (1024 < subMod 32 (s.regFld .WCH_LOG_HEAD [] 0 32) (wfld v 0 32) → exec (.wchLogTailWrite v) s = .next s) ∧
    (subMod 32 (s.regFld .WCH_LOG_HEAD [] 0 32) (wfld v 0 32) ≤ 1024 → s.wch.droppedSince = 0 →
      ∃ t, exec (.wchLogTailWrite v) s = .next t ∧
        t.getReg .WCH_LOG_TAIL [] = accessWrite .WCH_LOG_TAIL (s.getReg .WCH_LOG_TAIL []) v ∧
        (∀ a, a ≠ regAddr .WCH_LOG_TAIL [] → tget t.regs a = tget s.regs a) ∧ { t with regs := s.regs } = s) ∧
    (subMod 32 (s.regFld .WCH_LOG_HEAD [] 0 32) (wfld v 0 32) < 1024 → s.wch.droppedSince ≠ 0 →
      ∃ (t : State) (r : LogRec), exec (.wchLogTailWrite v) s = .next t ∧ t.wch.droppedSince = 0 ∧
        t.lastRecord = some r ∧ r.src = .wch ∧ r.sev = .deferred ∧ r.code = 0x08 ∧ r.die = 2 ∧
        r.detail = s.wch.droppedSince % 2 ^ 32) ∧
    (v.getLsbD 0 = true → ∃ t, exec (.wchLogStateWrite v) s = .next t ∧ t.getReg .WCH_LOG_STATE [] = 0 ∧
      (∀ a, a ≠ regAddr .WCH_LOG_STATE [] → tget t.regs a = tget s.regs a) ∧ { t with regs := s.regs } = s) ∧
    (v.getLsbD 0 = false → exec (.wchLogStateWrite v) s = .next s)

/-! ## Statements about memory (ch. 13) -/

/-- R73, R391, R394, R395, R404: an admitted read that need not wait is answered with the bytes a reader sees. A write
of a whole line, or of part of a line that has no buffered entry while the buffer has room, shows its bytes at once and
changes no other byte. A request that must wait is held, last; one that is not admitted changes no memory. An
uncorrectable error in the controller's own state puts the device in the ash state. -/
def Obligations.MemoryRequests : Prop :=
  ∀ (s : State) (r : MemReq) (g c b : Nat), s.islandsRun = true → r.wf = true → s.memWf = true →
    (∃ t, exec (.memRequest r true) s = .next t ∧ t.sup.phase = .ash) ∧
    (s.admission r.unit r.origin r.offset = .stale → ∃ t, exec (.memRequest r false) s = .next t ∧ t.mem = s.mem) ∧
    (s.admission r.unit r.origin r.offset = .ok (.grove g) → s.locate r.offset = some (c, b) →
      (s.mustWait (.req r) r.offset r.data.isSome = true →
        exec (.memRequest r false) s = .next { s with mem := { s.mem with held := s.mem.held ++ [.req r] } }) ∧
      (s.mustWait (.req r) r.offset r.data.isSome = false → s.lineBad c (b / 64) = false →
        (∀ u, r.data = none → (s.channel c).adders = [] → s.decode c r.err = .clean →
          u = ((s.viewLine c (b / 64)).drop (b % 64)).take r.length →
          exec (.memRequest r false) s =
            .next { s with outbox := s.outbox ++ [.readData r.unit r.origin r.offset u] }) ∧
        (∀ bs, r.data = some bs → (s.channel c).adders = [] →
          (bs.length = 64 ∨ (s.channel c).wcb.length < 64 ∧ ∀ e ∈ (s.channel c).wcb, e.line ≠ b / 64) →
          ∃ t, exec (.memRequest r false) s = .next t ∧
            (∀ i, i < bs.length → t.viewByte c (b + i) = bs.getD i 0) ∧
            (∀ d x, x < 2 ^ 31 → ¬(d = c ∧ b ≤ x ∧ x < b + bs.length) → t.viewByte d x = s.viewByte d x) ∧
            t.outbox = s.outbox ∧ t.regs = s.regs)))

/-- R398, R400, R401: an admitted accumulate adds in the adder buffer: a reader then sees its line, or the four lines of
a B8 block, with each element's sum, and every other line as before. Sums of signed words stay at their bounds, and a
word whose sum passed one takes no later integer addition. R394: the oldest write-combining entry is written back, and
its line reads as it did. R405: the patrol reads the next line, and leaves the contents alone where it finds no flip. -/
def Obligations.AddersAndPatrol : Prop :=
  ∀ (s : State) (a : AccReq) (g c b : Nat) (w : WcbEntry) (rest : List WcbEntry) (e : BurstErr), s.islandsRun = true →
    s.memWf = true →
    (∀ n line, n = (if a.op = .b8 then 4 else 1) → s.admission a.unit a.origin a.offset = .ok (.grove g) →
      s.locate a.offset = some (c, b) → line = b / 64 → a.wf = true → s.mustWait (.acc a) a.offset true = false →
      (∀ l, l < n → s.locate (a.offset / 64 * 64 + 64 * l) = some (c, 64 * (line + l)) ∧ s.lineBad c (line + l) = false ∧
        s.lineKnown c (line + l) = true ∧ ∀ x ∈ (s.channel c).wcb, x.line ≠ line + l) →
      (s.channel c).adders = [] → s.decode c a.err = .clean → s.kln.protect = [] →
      ∃ t, exec (.nearMemoryAccumulate a) s = .next t ∧
        (∀ l adds, l < n → adds = s.liveAdds c (line + l) a.op
            ((accLines a.op a.offset a.mask a.values).getD l (0, [])).2 →
          t.viewLine c (line + l) = accLineBytes a.op adds (s.viewLine c (line + l)) ∧
          (a.op ≠ .f32 → ∀ o ∈ accSats a.op adds (s.viewLine c (line + l)),
            wordNo c (line + l) o ∈ t.mem.saturated)) ∧
        (∀ d l, d ≠ c ∨ l < line ∨ line + n ≤ l → t.viewLine d l = s.viewLine d l) ∧ t.mem.cells = s.mem.cells) ∧
    (∀ x y, x < 2 ^ 32 → y < 2 ^ 32 → toSigned 32 (accElem .i32 x y).1 =
      max (-2 ^ 31) (min (2 ^ 31 - 1) (toSigned 32 x + toSigned 32 y))) ∧
    (∀ x y, accElem .u32 x y = (min (x + y) (2 ^ 32 - 1), decide (2 ^ 32 - 1 < x + y))) ∧
    ((s.channel c).wcb = w :: rest → s.lineBad c w.line = false → s.lineKnown c w.line = true →
      s.decode c e = .clean → (s.channel c).adders = [] → w.line < 2 ^ 25 →
      ∃ t, exec (.wcbAgeEvict c e) s = .next t ∧ (t.channel c).wcb = (s.channel c).wcb.filter (·.line != w.line) ∧
        (∀ x, x < 64 → t.rawByte c (64 * w.line + x) = s.viewByte c (64 * w.line + x)) ∧ t.til = s.til) ∧
    ((s.channel c).absent = false → (s.channel c).retraining = false → tget s.mem.repairs c = none →
      (s.channelOwner c).isSome = true → s.decode c e = .clean → s.lineBad c (s.channel c).patrolPos = false →
      ∃ t, exec (.patrolScrubRead c e) s = .next t ∧
        (t.channel c).patrolPos = ((s.channel c).patrolPos + 1) % 2 ^ 25 ∧ t.mem.cells = s.mem.cells ∧
        t.mem.written = s.mem.written ∧ t.mem.bad = s.mem.bad ∧ t.regs = s.regs)

/-- R407, R409, R414, R423, R424: the operations of MEM_REPAIR_CMD on a die whose status is idle: a mode register is
read or, on a free channel, written; a soft or hard repair of a bank with its row starts and holds the bank; a query
answers the rows left. A repair ends with the outcome the stack reports, and uses its bank's row when it succeeds.

R410, R412, R421, R422: a map-out of a present source to a free spare of the die, neither under repair nor under a march
test, starts; the end of its copy makes the spare's physical channel serve the source, the spare absent and the old
physical channel retired, with result OK, and no byte of the source changes. MEM_CHMAP_SET maps a channel in kindling
before any use, and is refused after. -/
def Obligations.RepairAndMapOut : Prop :=
  (∀ (s : State) (die c bank : Nat) (v : Word) (success : Bool), s.islandsRun = true → die < 2 → c = wfld v 47 9 →
    bank = wfld v 43 4 → c / 240 = die →
    (s.regFld .MEM_REPAIR_STATUS [die] 0 1 = 0 → v.getLsbD 63 = true → (s.channel c).absent = false →
      (∃ t, exec (.memMrRead die v) s = .next t ∧
        t.regFld .MEM_REPAIR_STATUS [die] 16 8 = tgetD s.mem.modeRegs (256 * (c / 40) + wfld v 8 8) 0 % 2 ^ 8 ∧
        t.regFld .MEM_REPAIR_STATUS [die] 8 8 = 0 ∧ t.regFld .MEM_REPAIR_STATUS [die] 1 1 = 1 ∧
        { t with regs := s.regs } = s) ∧
      (s.channelFree c = true → ∃ t, exec (.memMrWrite die v) s = .next t ∧
        t.mem.modeRegs = tset s.mem.modeRegs (256 * (c / 40) + wfld v 8 8) (wfld v 0 8) ∧
        t.regFld .MEM_REPAIR_STATUS [die] 8 8 = 0 ∧ { t with mem := s.mem, regs := s.regs } = s) ∧
      (s.channelFree c = false → s.sup.phase ≠ .kindling → ∃ t, exec (.memMrWrite die v) s = .next t ∧
        t.regFld .MEM_REPAIR_STATUS [die] 8 8 = 2 ∧ { t with regs := s.regs } = s) ∧
      (tget s.mem.repairs c = none → softFree (s.phys (s.physOf c)) bank = true →
        ∃ t, exec (.memSoftRepair die v) s = .next t ∧ tget t.mem.repairs c = some ⟨2, bank, wfld v 27 16, true⟩ ∧
          t.regFld .MEM_REPAIR_STATUS [die] 0 1 = 1 ∧ t.mem.cells = s.mem.cells ∧
          { t with mem := s.mem, regs := s.regs } = s) ∧
      (tget s.mem.repairs c = none → hardFree (s.phys (s.physOf c)) bank = true → s.channelFree c = true →
        ∃ t, exec (.memHardRepair die v) s = .next t ∧ tget t.mem.repairs c = some ⟨3, bank, wfld v 27 16, true⟩ ∧
          t.regFld .MEM_REPAIR_STATUS [die] 0 1 = 1 ∧ t.mem.cells = s.mem.cells ∧
          { t with mem := s.mem, regs := s.regs } = s) ∧
      (∃ t, exec (.memQueryRepair die v) s = .next t ∧
        t.regFld .MEM_REPAIR_STATUS [die] 48 16 = 2 ^ 16 - 1 - (s.phys (s.physOf c)).softUsed % 2 ^ 16 ∧
        t.regFld .MEM_REPAIR_STATUS [die] 32 16 = 2 ^ 16 - 1 - (s.phys (s.physOf c)).hardUsed % 2 ^ 16 ∧
        t.regFld .MEM_REPAIR_STATUS [die] 8 8 = 0 ∧ { t with regs := s.regs } = s)) ∧
    (∀ row, tget s.mem.repairs c = some ⟨2, bank, row, true⟩ → s.mem.held = [] → s.logRoom = true → s.mem.bad = [] →
      ∃ (t : State) (r : LogRec), exec (.softRepairResult c success []) s = .next t ∧ tget t.mem.repairs c = none ∧
        t.regFld .MEM_REPAIR_STATUS [die] 8 8 = (if success then 0 else 4) ∧
        t.regFld .MEM_REPAIR_STATUS [die] 0 1 = 0 ∧ t.mem.cells = s.mem.cells ∧ t.lastRecord = some r ∧ r.src = .mem ∧
        r.code = (if success then 0x07 else 0x08) ∧
        softFree (t.phys (s.physOf c)) bank = (softFree (s.phys (s.physOf c)) bank && !success)) ∧
    (∀ row, tget s.mem.repairs c = some ⟨3, bank, row, true⟩ → s.mem.held = [] →
      ∃ t, exec (.hardRepairDone c success) s = .next t ∧ tget t.mem.repairs c = none ∧
        t.regFld .MEM_REPAIR_STATUS [die] 8 8 = (if success then 0 else 4) ∧
        hardFree (t.phys (s.physOf c)) bank = (hardFree (s.phys (s.physOf c)) bank && !success))) ∧
  (∀ (s : State) (die src spare : Nat) (v : Word), s.islandsRun = true → die < 2 →
    (src = wfld v 0 9 → spare = wfld v 16 9 → v.getLsbD 63 = true → tget s.mem.mapouts die = none → src / 240 = die →
      spare / 240 = die → src ≠ spare → (s.channel src).absent = false → s.channelFree spare = true →
      tget s.mem.repairs src = none → tget s.mem.repairs spare = none → s.wch.tests = [] →
      ∃ t, exec (.mapoutGo die v) s = .next t ∧ tget t.mem.mapouts die = some ⟨src, spare⟩ ∧
        t.regFld .MEM_MAPOUT_STATUS [die] 0 1 = 1 ∧ t.mem.cells = s.mem.cells ∧ t.mem.channels = s.mem.channels ∧
        { t with mem := s.mem, regs := s.regs } = s) ∧
    (tget s.mem.mapouts die = some ⟨src, spare⟩ → src ≠ spare → src < 480 → s.mem.bad = [] → s.logRoom = true →
      (s.channel src).wcb = [] → (s.channel src).adders = [] →
      ∃ (t : State) (r : LogRec), exec (.mapoutCopyDone die []) s = .next t ∧ tget t.mem.mapouts die = none ∧
        t.physOf src = s.physOf spare ∧ (t.channel spare).absent = true ∧ (t.phys (s.physOf src)).retired = true ∧
        t.regFld .MEM_MAPOUT_STATUS [die] 8 8 = 0 ∧ t.regFld .MEM_MAPOUT_STATUS [die] 0 1 = 0 ∧
        (∀ b, t.viewByte src b = s.viewByte src b) ∧ t.mem.cells = s.mem.cells ∧ t.lastRecord = some r ∧ r.src = .mem ∧
        r.sev = .contained ∧ r.code = 0x09) ∧
    (src = wfld v 0 9 → spare = wfld v 16 9 → src / 240 = die →
      (s.sup.phase = .kindling → s.boundGroves = [] → s.hearthRegionUsed = false → spare / 240 = die →
        v.getLsbD 31 = false →
        ∃ t, exec (.memChmapSetWrite die v) s = .next t ∧ t.physOf src = spare ∧ (t.channel src).absent = false ∧
          (∀ d, d ≠ src → t.channel d = s.channel d) ∧ t.mem.cells = s.mem.cells ∧ { t with mem := s.mem } = s) ∧
      (s.sup.phase ≠ .kindling ∨ s.boundGroves ≠ [] ∨ s.hearthRegionUsed = true → s.logRoom = true →
        ∃ (t : State) (r : LogRec), exec (.memChmapSetWrite die v) s = .next t ∧ t.mem = s.mem ∧
          t.lastRecord = some r ∧ r.code = 0xF2)))

/-- R413, R427: a readable sensor sets the stack's temperature; from 85 °C the stack is warm, from 92 °C hot, and a
reading of 98 °C puts the device in the ash state. R406, R651, R702: the first memory training of a cold start begins
the hearth scrub, after which hearth lines not written read as zero; the end of a channel's retrain lets its traffic go
on. -/
def Obligations.StacksAndTraining : Prop :=
  ∀ (s : State) (k c : Nat) (x : Int) (dead : List (Nat × Nat)), s.sup.recovery ≠ .resetHeld → k < 12 →
    (-2 ^ 15 ≤ x → x < 2 ^ 15 →
      ∃ t, exec (.stackTempSample k (some x)) s = .next t ∧ t.regFld .MEM_STACK_TEMP [k / 6, k % 6] 0 16 = ofSigned 16 x ∧
        (1360 ≤ x → (tgetD t.mem.heats k {}).warm = true) ∧ (1472 ≤ x → (tgetD t.mem.heats k {}).hot = true) ∧
        (x < 1408 → (tgetD t.mem.heats k {}).hot = false) ∧ (1568 ≤ x → t.sup.phase = .ash) ∧
        (x < 1520 → t.mem.cells = s.mem.cells) ∧ (∀ j, j ≠ k → tget t.mem.heats j = tget s.mem.heats j)) ∧
    (s.islandsRun = true →
      (s.sup.phase = .kindling → s.mem.hearthKeyed = false → dead = [] →
        ∃ t, exec (.memPhyTrainingDone (.kindling dead)) s = .next t ∧ t.mem.hearthKeyed = true ∧
          (∀ ch, ch < 480 → isHearthChannel ch = true → (t.channel ch).scrubbing = true ∧ (t.channel ch).scrubPos = 0 ∧
            ∀ b, b < 2 ^ 31 → t.viewByte ch b = 0) ∧
          (∀ ch, isHearthChannel ch = false → t.channel ch = s.channel ch) ∧ t.regs = s.regs) ∧
      (s.mem.held = [] → ∃ t, exec (.memPhyTrainingDone (.retrain c)) s = .next t ∧
        (t.channel c).retraining = false ∧ (∀ d, d ≠ c → t.channel d = s.channel d) ∧ t.mem.cells = s.mem.cells ∧
        t.regs = s.regs))

/-! ## Statements about links (ch. 14) -/

/-- R73, R434, R435, R437: on an ACTIVE port a flit whose crc fails, or that is out of sequence, is answered by a
negative acknowledgement and accepted by no one. A data flit in sequence is accepted: a whole message for this device
from its bound grove is handed to its unit, and one for another device leaves on the trunk port that the routing rule
picks, with its ttl one lower.

R435, R445: on an ACTIVE port, and on no other, a negative acknowledgement, or a replay timeout, sends every flit after
the acknowledged one again, in order and keeps them; an ACTIVE port with nothing to send sends an idle flit that carries
its last accepted number and the credits it owes. -/
def Obligations.LinkFlits : Prop :=
  (∀ (s : State) (p lane : Nat) (fec : FecResult) (b : List Byte) (f : LFlit), s.islandsRun = true → p ∈ allPorts →
    s.clk.recov.st = 0 → s.clk.prev = none → (s.port p).st = .active → (s.port p).tx = [] → fec.uncorrectable = 0 →
    f = LFlit.parse b →
    (flitCrcOk b = false ∨ flitCrcOk b = true ∧ f.kind = 1 ∧ f.seq ≠ ((s.port p).lastAccepted + 1) % 2 ^ 16 →
      ∃ (t : State) (n : LFlit), exec (.lnkFlitReceive p lane fec b) s = .next t ∧
        t.outbox = s.outbox ++ [.linkFlit p n] ∧ n.kind = 2 ∧ n.ackSeq = (s.port p).lastAccepted ∧
        (t.port p).lastAccepted = (s.port p).lastAccepted ∧ (∀ r, r ≠ p → t.port r = s.port r) ∧ t.mem = s.mem) ∧
    (flitCrcOk b = true → f.kind = 1 → f.seq = ((s.port p).lastAccepted + 1) % 2 ^ 16 → f.valid = true →
      (f.dest = s.devnum → f.first = true → f.last = true → s.groveIs f.grove f.gen = true → (s.port p).rx = [] →
        ∃ t, exec (.lnkFlitReceive p lane fec b) s = .next t ∧
          t.outbox = s.outbox ++ [.deliver (dieOfPort p) f.opcode ⟨f.src, dieOfPort p, f.grove, f.gen⟩ f.address f.payload] ∧
          (t.port p).lastAccepted = f.seq ∧
          (t.port p).returns = (s.port p).returns.modify f.cls (· + 1) ∧ (∀ r, r ≠ p → t.port r = s.port r) ∧
          t.mem = s.mem) ∧
      (∀ d g rev, f.dest ≠ s.devnum → p < 6 → 1 < f.ttl →
        s.route { f with ttl := f.ttl - 1 } (p % 3) = .out d g rev → d ≠ p → (s.port d).st = .active →
        (s.port d).tx = [] → 0 < (s.port d).credits.getD g.cls 0 → (s.port d).replay.length < rxBuffer d →
        ∃ (t : State) (h : LFlit), exec (.lnkFlitReceive p lane fec b) s = .next t ∧
          t.outbox = s.outbox ++ [.linkFlit d h] ∧ h = { g with
            seq := (s.port d).nextSeq, ackSeq := (s.port d).lastAccepted, credits := (s.port d).returns } ∧
          g.ttl = f.ttl - 1 ∧ g.dest = f.dest ∧ g.payload = f.payload ∧ (t.port p).lastAccepted = f.seq ∧
          (t.port d).nextSeq = ((s.port d).nextSeq + 1) % 2 ^ 16 ∧ t.mem = s.mem))) ∧
  (∀ (s : State) (p ack : Nat) (l : List LFlit), s.islandsRun = true → p ∈ allPorts → s.clk.recov.st = 0 →
    s.clk.prev = none →
    ((s.port p).st ≠ .active → ∃ t, exec (.lnkNakReceive p ack) s = .next t ∧ t.outbox = s.outbox ∧
      (∀ r, r ≠ p → t.port r = s.port r) ∧ t.mem = s.mem) ∧
    (l = (s.port p).replay.filter (fun f => serialAfter f.seq ack 16) → (s.port p).st = .active →
      ∃ t, exec (.lnkNakReceive p ack) s = .next t ∧
        t.outbox = s.outbox ++ l.map (fun f => Msg.linkFlit p { f with ackSeq := (s.port p).lastAccepted }) ∧
        (t.port p).replay = l ∧ (∀ r, r ≠ p → t.port r = s.port r) ∧ t.mem = s.mem) ∧
    (exec (.lnkReplayTimeout p) s = exec (.lnkNakReceive p (s.port p).lastAcked) s) ∧
    ((s.port p).st = .active → ∃ (t : State) (n : LFlit), exec (.lnkIdleSend p) s = .next t ∧
      t.outbox = s.outbox ++ [.linkFlit p n] ∧ n.kind = 0 ∧ n.ackSeq = (s.port p).lastAccepted ∧
      n.credits = (s.port p).returns ∧ (t.port p).returns = [0, 0, 0, 0, 0, 0, 0, 0] ∧
      (t.port p).replay = (s.port p).replay ∧ (∀ r, r ≠ p → t.port r = s.port r) ∧ t.mem = s.mem ∧ t.regs = s.regs))

/-- R445, R446, R447, R453, R455: enable with a valid configuration takes a DISABLED port whose direction has no
stand-in, and that no field test holds, to DETECT, with the lanes it may use in training. Each training step that at
least min_lanes lanes pass moves the port on, and the lanes that fail the later two are dead. An accepted partner makes
the port ACTIVE with sequence numbers from 0; a refused one leaves it in WIRING.

R445, R448, R449, R450, R455: the retrain bit, or the loss of lock of every lane, takes an ACTIVE port to RETRAIN with
its replay buffer kept; a retrain with min_lanes lanes and the same partner ends ACTIVE, one past its bound DEAD with
empty buffers. A live lane that loses lock for good, or that the partner removes, is dead. Enable 0 disables the port. -/
def Obligations.PortTraining : Prop :=
  (∀ (s : State) (p lanes : Nat) (v : Word) (id : PortIdentity), s.islandsRun = true → p ∈ allPorts →
    s.clk.recov.st = 0 → s.clk.prev = none →
    ((s.port p).st = .disabled → cfgValid p v = true → (p < 6 → (s.standin p).getLsbD 63 = false) →
      (∀ f ∈ s.wch.tests, f.kind = 10 → f.object ≠ p) → ∃ t, exec (.portEnable p v) s = .next t ∧ (t.port p).st = .detect ∧
        (t.port p).lanes = (List.range (lanesFitted p)).map (fun l => if (wfld v 32 8).testBit l then 0 else 1) ∧
        t.portCfg p = accessWrite (portReg p .LNK_PORT_CFG_T .LNK_PORT_CFG_B) (s.portCfg p)
          (v ||| BitVec.ofNat 64 (2 ^ 63)) ∧ (∀ r, r ≠ p → t.port r = s.port r) ∧ t.mem = s.mem) ∧
    ((s.port p).st = .disabled → cfgValid p v = false → s.logRoom = true →
      ∃ (t : State) (r : LogRec), exec (.portEnable p v) s = .next t ∧ t.lnk = s.lnk ∧ t.mem = s.mem ∧
        t.lastRecord = some r ∧ r.src = .lnk ∧ r.sev = .contained ∧ r.code = 0x01) ∧
    (s.minLanes p ≤ ((List.range (lanesFitted p)).filter fun l => lanes.testBit l && (s.port p).lanes.getD l 0 == 1).length →
      ((s.port p).st = .detect → ∃ t, exec (.trainSignalDetect p lanes) s = .next t ∧ (t.port p).st = .equalise ∧
        (t.port p).lanes = (s.port p).lanes ∧ (∀ r, r ≠ p → t.port r = s.port r) ∧ t.regs = s.regs) ∧
      (∀ cmd fro goal, (cmd = .trainEqualiseDone p lanes ∧ fro = .equalise ∧ goal = .align) ∨
          (cmd = .trainAlignDone p lanes ∧ fro = .align ∧ goal = .identify) → (s.port p).st = fro →
        ∃ t, exec cmd s = .next t ∧ (t.port p).st = goal ∧
          (∀ l, l < lanesFitted p → l < (s.port p).lanes.length → (t.port p).lanes.getD l 0 =
            (if (s.port p).lanes.getD l 0 = 1 ∧ lanes.testBit l = false then 3 else (s.port p).lanes.getD l 0)) ∧
          (∀ r, r ≠ p → t.port r = s.port r) ∧ t.mem = s.mem)) ∧
    (s.devnumValid = true → (s.port p).st = .identify → (s.port p).tx = [] →
      (s.accepts p id = true → ∃ t, exec (.identityExchange p id) s = .next t ∧ (t.port p).st = .active ∧
        (t.port p).partner = some id ∧ (t.port p).nextSeq = 0 ∧ (t.port p).lastAccepted = 65535 ∧
        (t.port p).credits = id.credits ∧ (∀ r, r ≠ p → t.port r = s.port r) ∧ t.mem = s.mem) ∧
      (s.accepts p id = false → s.logRoom = true → ∃ (t : State) (r : LogRec), exec (.identityExchange p id) s = .next t ∧
        (t.port p).st = .wiring ∧ t.outbox = s.outbox ∧ t.lastRecord = some r ∧ r.src = .lnk ∧ r.sev = .contained ∧
        r.code = 0x05))) ∧
  (∀ (s : State) (p lanes lane : Nat) (v : Word) (id q : PortIdentity) (cmd : Instr), s.islandsRun = true →
    p ∈ allPorts → s.clk.recov.st = 0 → s.clk.prev = none →
    ((cmd = .laneLockLoss p ∨ cmd = .portRetrain p v ∧ v.getLsbD 63 = true) → (s.port p).st = .active →
      ∃ t, exec cmd s = .next t ∧ (t.port p).st = .retrain ∧ (t.port p).replay = (s.port p).replay ∧
        (t.port p).lanes = (s.port p).lanes ∧ (t.port p).nextSeq = (s.port p).nextSeq ∧
        (∀ r, r ≠ p → t.port r = s.port r) ∧ t.outbox = s.outbox ∧ t.mem = s.mem) ∧
    ((s.port p).st = .retrain → (s.port p).tx = [] →
      (s.minLanes p ≤ ((s.port p).lanes.zipIdx.filter fun x => x.1 == 2 && lanes.testBit x.2).length →
        (s.port p).partner = some q → q.device = id.device → q.port = id.port →
        ∃ t, exec (.retrainDone p lanes id) s = .next t ∧ (t.port p).st = .active ∧
          (t.port p).replay = (s.port p).replay ∧ (∀ r, r ≠ p → t.port r = s.port r) ∧ t.mem = s.mem) ∧
      (∃ t, exec (.retrainBoundExpiry p lanes) s = .next t ∧ (t.port p).st = .dead ∧ (t.port p).replay = [] ∧
        (t.port p).rx = [] ∧ (∀ r, r ≠ p → t.port r = s.port r) ∧ t.mem = s.mem)) ∧
    (cmd = .laneLockTimeout p lane ∨ cmd = .laneRemoveMessage p lane → (s.port p).lanes.getD lane 0 = 2 →
      (s.port p).tx = [] →
      ∃ t, exec cmd s = .next t ∧ (t.port p).lanes = (s.port p).lanes.set lane 3 ∧
        (t.port p).st = (if (s.port p).st = .active ∧ (s.port p).live - 1 < s.minLanes p then .dead else (s.port p).st) ∧
        (∀ r, r ≠ p → t.port r = s.port r) ∧ t.mem = s.mem) ∧
    (∃ t, exec (.portDisable p v) s = .next t ∧ (t.port p).st = .disabled ∧ (t.port p).replay = [] ∧ (t.port p).tx = [] ∧
      (t.port p).partner = none ∧ t.portCfg p = accessWrite (portReg p .LNK_PORT_CFG_T .LNK_PORT_CFG_B) (s.portCfg p)
        (v &&& BitVec.ofNat 64 (2 ^ 63 - 1)) ∧ (∀ r, r ≠ p → t.port r = s.port r) ∧ t.mem = s.mem))

/-- R451, R453, R458, R460, R461, R462: LNK_CREDIT_CFG is stored while the port is not enabled, its shares fit the
buffer and each is at least 16; LNK_TORUS and LNK_BUNDLE, while no grove is bound and their values are valid, in both
copies; a stand-in, where its trunk port is DEAD or DISABLED and its branch ports are ACTIVE and used by no grove. Each
is otherwise left as it is, with a record. -/
def Obligations.LinkConfiguration : Prop :=
  ∀ (s : State) (p d : Nat) (v : Word), s.islandsRun = true → p ∈ allPorts → d < 6 →
    ((s.portCfg p).getLsbD 63 = false → wfld v 0 12 + wfld v 16 12 + wfld v 32 12 + wfld v 48 12 ≤ rxBuffer p →
      16 ≤ wfld v 0 12 → 16 ≤ wfld v 16 12 → 16 ≤ wfld v 32 12 → 16 ≤ wfld v 48 12 →
      ∃ t, exec (.lnkCreditCfgWrite p v) s = .next t ∧
        t.getReg (portReg p .LNK_CREDIT_CFG_T .LNK_CREDIT_CFG_B) (portIx p) =
          accessWrite (portReg p .LNK_CREDIT_CFG_T .LNK_CREDIT_CFG_B)
            (s.getReg (portReg p .LNK_CREDIT_CFG_T .LNK_CREDIT_CFG_B) (portIx p)) v ∧ { t with regs := s.regs } = s) ∧
    ((s.portCfg p).getLsbD 63 = true ∨ rxBuffer p < wfld v 0 12 + wfld v 16 12 + wfld v 32 12 + wfld v 48 12 ∨
        wfld v 0 12 < 16 → s.logRoom = true →
      ∃ (t : State) (r : LogRec), exec (.lnkCreditCfgWrite p v) s = .next t ∧ t.lnk = s.lnk ∧ t.mem = s.mem ∧
        t.getReg (portReg p .LNK_CREDIT_CFG_T .LNK_CREDIT_CFG_B) (portIx p) =
          s.getReg (portReg p .LNK_CREDIT_CFG_T .LNK_CREDIT_CFG_B) (portIx p) ∧
        t.lastRecord = some r ∧ r.src = .lnk ∧ r.sev = .contained ∧ r.code = 0x01) ∧
    (s.boundGroves = [] → (v.getLsbD 63 = true → torusOk v = true ∧ (24576 ≤ s.devnum ∨
        ∀ x ∈ (coords s.devnum).zip [wfld v 0 6, wfld v 8 6, wfld v 16 6], x.1 < x.2)) →
      ∃ t, exec (.lnkTorusWrite v) s = .next t ∧
        t.getReg .LNK_TORUS [0] = accessWrite .LNK_TORUS (s.getReg .LNK_TORUS [0]) v ∧
        t.getReg .LNK_TORUS [1] = accessWrite .LNK_TORUS (s.getReg .LNK_TORUS [1]) v ∧ { t with regs := s.regs } = s) ∧
    (s.boundGroves = [] → bundleOk v = true →
      (∀ k, k < 16 → wfld v (3 * k) 3 ≠ wfld (s.getReg .LNK_BUNDLE [0]) (3 * k) 3 → s.standinOf (16 + k) = none) →
      ∃ t, exec (.lnkBundleWrite v) s = .next t ∧
        t.getReg .LNK_BUNDLE [0] = accessWrite .LNK_BUNDLE (s.getReg .LNK_BUNDLE [0]) v ∧
        t.getReg .LNK_BUNDLE [1] = accessWrite .LNK_BUNDLE (s.getReg .LNK_BUNDLE [1]) v ∧ { t with regs := s.regs } = s) ∧
    (s.boundGroves ≠ [] → s.logRoom = true →
      (∃ (t : State) (r : LogRec), exec (.lnkTorusWrite v) s = .next t ∧ t.getReg .LNK_TORUS [0] = s.getReg .LNK_TORUS [0] ∧
        t.lnk = s.lnk ∧ t.lastRecord = some r ∧ r.code = 0xF2) ∧
      ∃ (t : State) (r : LogRec), exec (.lnkBundleWrite v) s = .next t ∧
        t.getReg .LNK_BUNDLE [0] = s.getReg .LNK_BUNDLE [0] ∧ t.lnk = s.lnk ∧ t.lastRecord = some r ∧ r.code = 0xF2) ∧
    ((s.port d).st = .dead ∨ (s.port d).st = .disabled → wfld v 4 2 ≤ 2 → wfld v 0 4 % 2 ^ wfld v 4 2 = 0 →
      s.bundleSize (wfld v 0 4) = 2 ^ wfld v 4 2 →
      (∀ i, i < 2 ^ wfld v 4 2 → (s.port (16 + wfld v 0 4 + i)).st = .active ∧ s.groveUsing (16 + wfld v 0 4 + i) = []) →
      ∃ t, exec (.lnkStandinWrite d v) s = .next t ∧ (t.standin d).getLsbD 63 = v.getLsbD 63 ∧
        (t.standin d).getLsbD 62 = false ∧ wfld (t.standin d) 0 4 = wfld v 0 4 ∧ wfld (t.standin d) 4 2 = wfld v 4 2 ∧
        wfld (t.standin d) 32 15 = wfld v 32 15 ∧ { t with regs := s.regs } = s) ∧
    (v.getLsbD 63 = true → (s.port d).st ≠ .dead → (s.port d).st ≠ .disabled → s.logRoom = true →
      ∃ (t : State) (r : LogRec), exec (.lnkStandinWrite d v) s = .next t ∧ t.standin d = s.standin d ∧ t.lnk = s.lnk ∧
        t.lastRecord = some r ∧ r.src = .lnk ∧ r.sev = .contained ∧ r.code = 0x01)

/-! ## Statements about steps and collectives (ch. 15 and 16) -/

/-- R468, R469, R493: SCHED_LOAD of a valid descriptor whose group list holds this device stages it for the next open
and answers its segments; the 2,049th of a die is refused with COL_FULL. SCHED_DROP stages the descriptor's end. The
descriptors in force do not change yet. -/
def Obligations.ScheduleCommands : Prop :=
  ∀ (s s1 s2 : State) (q i g k : Nat) (c : Cmd) (b : List Byte) (d : RedDesc), s.islandsRun = true → g = c.grove →
    (s.ofRow q i 4 1 = some c → c.restZero [(8, 8)] = true → c.arg 8 8 < 2 ^ 48 → c.arg 8 8 % 64 = 0 →
      (s.start q i).readVa g (c.arg 8 8) 128 = (s1, .ok, b) → parseRed b = (true, d) →
      s1.groupOk g d = (s2, .ok, true) → k = redKey (dieOfQueue q) g d.reduction →
      (d.own = true → s2.ownsId (1 - dieOfQueue q) g d.reduction = false) →
      (s2.redsHeld (dieOfQueue q) < 2048 →
        ∃ u : State, exec (.schedLoad q i) s = .next (u.complete q i .ok (d.segments % 2 ^ 24)) ∧
          (u.reduction k).staged = some (some d) ∧ (u.reduction k).desc = (s.reduction k).desc ∧
          (∀ j, j ≠ k → u.reduction j = s.reduction j) ∧ u.col.steps = s.col.steps ∧ u.mem = s2.mem) ∧
      (2048 ≤ s2.redsHeld (dieOfQueue q) → (s2.reduction k).holds = false → s2.logRoom = true →
        ∃ (u : State) (r : LogRec), exec (.schedLoad q i) s = .next (u.complete q i .badCommand 0) ∧ u.col = s2.col ∧
          u.mem = s2.mem ∧ u.lastRecord = some r ∧ r.src = .col ∧ r.sev = .contained ∧ r.code = 0x03)) ∧
    (s.ofRow q i 4 2 = some c → c.restZero [(8, 2)] = true → c.arg 8 2 < 4096 → k = redKey (dieOfQueue q) g (c.arg 8 2) →
      ∃ u : State, exec (.schedDrop q i) s = .next (u.complete q i .ok 0) ∧ (u.reduction k).desc = (s.reduction k).desc ∧
        ((s.reduction k).holds = true → (u.reduction k).staged = some none) ∧
        (∀ j, j ≠ k → u.reduction j = s.reduction j) ∧ u.col.steps = s.col.steps ∧ u.mem = s.mem)

/-- R473, R475, R479: what an owner answers to a gradient contribution: 1 for a request it has applied, 0 once its
blocks are added for the next step's first attempt or the present attempt of an open reduction, 4 for another attempt, 2
when the reduction has closed, 3 where no die owns the segment, and nothing for a step two or more ahead. Only an
applied one changes memory. A histogram merge of the present attempt inside the merge area is added and answered 0.

R470, R471, R473: a reduction of one segment that may be sent keeps, without an answer yet, one contribution of this
step and attempt to the segment's owner, with its weight, its blocks and their crc. Its answer ends it; without one it
is sent again at most three times and then abandoned, recorded and counted in its die's abandoned tally.

R476, R477: the deadline of an owned reduction closes it while its step runs; a partial message that is not completed in
time is discarded, and nothing else of its port.

R480, R481, R482: a piece that is new to a replica is written at its place and noted, and the last one raises the
replica's parameter signal by one; a piece that is not new is written no second time. An acknowledgement ends a piece;
one without an answer is sent again at most three times and then abandoned. A replica that is incomplete at its timeout
keeps its grove out of the void barrier. -/
def Obligations.Contributions : Prop :=
  (∀ (s s1 : State) (die own g n : Nat) (o : Origin) (c : Contribution) (d : RedDesc) (x : GroveStep), s.islandsRun = true →
    g = o.grove → s.groveIs g o.gen = true → x = s.step_ g → n = x.step →
    (c.kind = 2 → s.segOwner g c.reduction c.segment = some (own, d) →
      (s.wasApplied own g o.device o.die c.request = true →
        ∃ u : State, exec (.contributionReceive die o c) s = .next (u.colAck die o.device g c.request 1) ∧ u.mem = s.mem ∧
          u.col = s.col) ∧
      (s.wasApplied own g o.device o.die c.request = false →
        ((c.step = stepSucc n ∧ c.attempt = 0 ∨ c.step = n ∧ c.step ≠ stepSucc n ∧ c.attempt = x.attempt ∧ x.st ≠ .closed ∧
            (s.reduction (redKey own g c.reduction)).closed = false ∧ (s1.countWords g d n).all (· == d.expected) = false) →
          s.applyBlocks g d c = (s1, .ok) →
          ∃ u : State, exec (.contributionReceive die o c) s = .next (u.colAck die o.device g c.request 0) ∧ u.mem = s1.mem ∧
            u.wasApplied own g o.device o.die c.request = true ∧ u.col.reductions = s.col.reductions) ∧
        (c.step = n → c.step ≠ stepSucc n → c.attempt ≠ x.attempt →
          ∃ u : State, exec (.contributionReceive die o c) s = .next (u.colAck die o.device g c.request 4) ∧
            u.mem = s.mem ∧ u.col = s.col) ∧
        (c.step = n → c.step ≠ stepSucc n → c.attempt = x.attempt →
          (s.reduction (redKey own g c.reduction)).closed = true →
          ∃ u : State, exec (.contributionReceive die o c) s = .next (u.colAck die o.device g c.request 2) ∧
            u.mem = s.mem ∧ u.col.applied = s.col.applied) ∧
        (c.step ≠ n → c.step ≠ stepSucc n → serialAfter n c.step 48 = false → s.logRoom = true →
          ∃ (t : State) (r : LogRec), exec (.contributionReceive die o c) s = .next t ∧ t.mem = s.mem ∧ t.col = s.col ∧
            t.outbox = s.outbox ∧ t.lastRecord = some r ∧ r.src = .col ∧ r.sev = .contained ∧ r.code = 0x07))) ∧
    (c.kind = 2 → s.segOwner g c.reduction c.segment = none →
      ∃ u : State, exec (.contributionReceive die o c) s = .next (u.colAck die o.device g c.request 3) ∧ u.mem = s.mem ∧
        u.col = s.col) ∧
    (∀ a values, c.kind = 3 → s.wasApplied 0 g o.device o.die c.request = false → c.step = n → c.attempt = x.attempt →
      c.step ≠ stepSucc n → s.mergeArea g = some a → a ≤ c.target → c.target + 8 * (8 * c.blocks) ≤ a + 256 * mergeStream →
      c.target % 8 = 0 → values = (List.range (8 * c.blocks)).map (fun i => leAt c.data (4 * i) 4) →
      s.mergeWords g c.target values = (s1, .ok) →
      ∃ u : State, exec (.contributionReceive die o c) s = .next (u.colAck die o.device g c.request 0) ∧ u.mem = s1.mem ∧
        u.wasApplied 0 g o.device o.die c.request = true)) ∧
  (∀ (s s1 s2 s3 : State) (die g r req : Nat) (d : RedDesc) (src ob : List Byte) (o : Origin) (x : SentContribution)
    (status : Nat), s.islandsRun = true →
    (s.mayContribute die g r = some d → d.segments = 1 → d.reduction = r →
      s1 = s.modRed (redKey die g r) (fun y => { y with sent := true }) →
      s1.readVa g d.source (4 * d.elemsOf 0) = (s2, .ok, src) → s2.readVa g d.ownerMap 2 = (s3, .ok, ob) →
      leAt ob 0 2 % 2 ^ 15 ≠ s.devnum →
      ∃ t y, exec (.contributionSend die g r) s = .next t ∧
        tget t.col.sent (reqKey die g (tgetD s.col.nextRequest (dieGrove die g) 0)) = some y ∧
        y.dest = leAt ob 0 2 % 2 ^ 15 ∧ y.tries = 0 ∧ y.msg.step = (s.step_ g).step ∧
        y.msg.attempt = (s.step_ g).attempt ∧ y.msg.reduction = r ∧ y.msg.kind = 2 ∧ y.msg.segment = 0 ∧
        y.msg.count = d.weight ∧
        y.msg.data = (encodeSegment (s.slotScale g d.slot) (codesOf 4 (d.elemsOf 0) src)).1 ∧
        y.msg.crc = crc32c y.msg.data ∧ (t.reduction (redKey die g r)).sent = true ∧ t.mem = s3.mem) ∧
    (s.groveIs o.grove o.gen = true → tget s.col.sent (reqKey die o.grove req) = some x → x.dest = o.device →
      ∃ t, exec (.contributionAckReceive die o req status) s = .next t ∧
        t.col = { s.col with sent := terase s.col.sent (reqKey die o.grove req) } ∧ { t with col := s.col } = s) ∧
    (tget s.col.sent (reqKey die g req) = some x →
      (x.tries < 3 → ∃ t, exec (.contributionTimeout die g req) s = .next t ∧
        t.col = { s.col with sent := tset s.col.sent (reqKey die g req) { x with tries := x.tries + 1 } } ∧
        t.mem = s.mem) ∧
      (3 ≤ x.tries → x.msg.kind = 2 → ∃ t, exec (.contributionTimeout die g req) s = .next t ∧
        tget t.col.sent (reqKey die g req) = none ∧
        (tgetD t.col.tally (dieGrove die g) {}).abandoned = inc32 (tgetD s.col.tally (dieGrove die g) {}).abandoned ∧
        (tgetD t.col.tally (dieGrove die g) {}).abandonedDigest = add64
          (tgetD s.col.tally (dieGrove die g) {}).abandonedDigest (tallyItem g s.devnum x.msg) ∧
        t.col.steps = s.col.steps ∧ t.outbox = s.outbox ∧ t.mem = s.mem))) ∧
  (∀ (s : State) (die g r p vc dl : Nat) (d : RedDesc), s.islandsRun = true →
    (s.redDesc die g r = some d → d.own = true → d.reduction = r → (s.step_ g).st = .running →
      (s.reduction (redKey die g r)).closed = false →
      ∃ t, exec (.reductionDeadline die g r) s = .next t ∧ (t.reduction (redKey die g r)).closed = true ∧
        (t.reduction (redKey die g r)).desc = some d ∧ t.col.sent = s.col.sent ∧ t.til = s.til) ∧
    ((∃ f ∈ (s.port p).rx, f.vc = vc ∧ b2n f.dl = dl) →
      ∃ t, exec (.partialMessageTimeout p vc dl) s = .next t ∧
        (t.port p).rx = (s.port p).rx.filter (fun f => !(f.vc == vc && b2n f.dl == dl)) ∧
        (t.port p).replay = (s.port p).replay ∧ (t.port p).st = (s.port p).st ∧ (∀ q, q ≠ p → t.port q = s.port q) ∧
        t.outbox = s.outbox ∧ t.mem = s.mem)) ∧
  (∀ (s s1 : State) (die g req : Nat) (o : Origin) (p : Piece) (d : RedDesc) (x : SentPiece) (l : List (Nat × Nat)),
    s.islandsRun = true → die < 2 → g = o.grove →
    (s.groveIs g o.gen = true → s.redDesc die g p.reduction = some d → s.redDesc (1 - die) g p.reduction = none →
      d.reduction = p.reduction → d.replica = true → serialAfter p.step (s.step_ g).step 48 = false →
      tget s.col.received (redKey die g p.reduction) = some (p.step, l) →
      ((p.segment, p.piece) ∉ l →
        s.writeVa g (d.replicaVa + 1536 * p.segment * d.size + 1536 * p.piece) p.data = (s1, .ok) →
        ∃ t, exec (.bcastPieceReceive die o p) s = .next t ∧
          tget t.col.received (redKey die g p.reduction) = some (p.step, l ++ [(p.segment, p.piece)]) ∧
          (l.length + 1 ≠ d.allPieces → t.mem = s1.mem ∧ t.sch = s.sch) ∧
          (∀ k a, l.length + 1 = d.allPieces → (parseEntry d.paramSignal).2 = some (k, a) → (s.knot k).type = 1 →
            (s.knot k).overflow = false → (s.knot k).value + 1 ≤ 2 ^ 32 - 1 →
            (t.knot k).value = (s.knot k).value + 1)) ∧
      ((p.segment, p.piece) ∈ l → exec (.bcastPieceReceive die o p) s = .next (s.colAck die o.device g p.request 0))) ∧
    (tget s.col.pieces (reqKey die g req) = some x →
      (s.groveIs g o.gen = true → x.child = o.device → ∃ t, exec (.bcastAckReceive die o req) s = .next t ∧
        t.col = { s.col with pieces := terase s.col.pieces (reqKey die g req) } ∧ { t with col := s.col } = s) ∧
      (x.tries < 3 → ∃ t, exec (.bcastPieceTimeout die g req) s = .next t ∧
        t.col = { s.col with pieces := tset s.col.pieces (reqKey die g req) { x with tries := x.tries + 1 } } ∧
        t.mem = s.mem) ∧
      (3 ≤ x.tries → ∃ t, exec (.bcastPieceTimeout die g req) s = .next t ∧
        t.col = { s.col with pieces := terase s.col.pieces (reqKey die g req) } ∧ t.mem = s.mem ∧
        t.outbox = s.outbox)) ∧
    (s.col.reductions = [(redKey die g d.reduction, { desc := some d })] → d.replica = true →
      d.reduction < 4096 → tget s.col.received (redKey die g d.reduction) = some (p.step, l) →
      (l.length < d.allPieces → s.logRoom = true →
        ∃ (t : State) (r : LogRec), exec (.bcastCompletionTimeout die g) s = .next t ∧ (t.step_ g).withhold = true ∧
          (∀ h, h ≠ g → t.step_ h = s.step_ h) ∧ t.mem = s.mem ∧ t.lastRecord = some r ∧ r.src = .col ∧
          r.sev = .contained ∧ r.code = 0x0C) ∧
      (d.allPieces ≤ l.length → exec (.bcastCompletionTimeout die g) s = .next s)))

/-- R467, R472: STEP_OPEN of the step after the last one, on CD0, with a well-formed record of the grove whose scales
are those the last commit delivered, runs the step on attempt 0 with that record. Of a grove that is not CLOSED, or
another step, it is refused with COL_OPEN_STEP; with other scales, with COL_OPEN_SCALE.

R34, R488, R493: STEP_VOID, a commit timeout of a SEALED step, and a VOID of the present step and attempt each take a
RUNNING or SEALED step to VOIDED, with reason 3, reason 2 and the VOID's own. A VOID of a step that is past changes no
step; one of a later step is held. The void-barrier timeout of a VOIDED step closes it at the step before. -/
def Obligations.StepOpensAndVoids : Prop :=
  (∀ (s s1 : State) (q i g : Nat) (c : Cmd) (b : List Byte) (r : OpenRecord), s.islandsRun = true → g = c.grove →
    s.ofRow q i 4 3 = some c → dieOfQueue q = 0 → c.restZero [(8, 8)] = true → c.arg 8 8 % 64 = 0 →
    inHalf 0 (c.arg 8 8) 512 = true → (s.start q i).capturing g = false →
    (s.start q i).readLocal .hearth (c.arg 8 8) 512 = (s1, .ok, b) → parseOpen b = (true, r) → r.grove = g →
    r.gen = c.gen →
    ((s1.step_ g).st = .closed → (s1.step_ g).restorePending = false → r.step = stepSucc (s1.step_ g).step →
      ((s1.step_ g).delivered = none ∨ (s1.step_ g).delivered = some r.scale) → (s1.step_ g).heldVoids = [] →
      ∃ u : State, exec (.stepOpen q i) s = .next (u.complete q i .ok r.step) ∧ (u.step_ g).st = .running ∧
        (u.step_ g).step = r.step ∧ (u.step_ g).attempt = 0 ∧ (u.step_ g).record = some r ∧ u.grv.groves = s.grv.groves ∧
        ∀ h, h ≠ g → u.step_ h = s.step_ h) ∧
    ((s1.step_ g).st ≠ .closed ∨ r.step ≠ stepSucc (s1.step_ g).step → s1.logRoom = true →
      ∃ (u : State) (l : LogRec), exec (.stepOpen q i) s = .next (u.complete q i .badCommand 0) ∧ u.col = s1.col ∧
        u.mem = s1.mem ∧ u.lastRecord = some l ∧ l.src = .col ∧ l.sev = .contained ∧ l.code = 0x04) ∧
    (∀ e, (s1.step_ g).st = .closed → (s1.step_ g).restorePending = false → r.step = stepSucc (s1.step_ g).step →
      (s1.step_ g).delivered = some e → e ≠ r.scale → s1.logRoom = true →
      ∃ (u : State) (l : LogRec), exec (.stepOpen q i) s = .next (u.complete q i .badCommand 0) ∧ u.col = s1.col ∧
        u.mem = s1.mem ∧ u.lastRecord = some l ∧ l.src = .col ∧ l.sev = .contained ∧ l.code = 0x05)) ∧
  (∀ (s : State) (q i g : Nat) (c : Cmd) (o : Origin) (v : VoidMsg), s.islandsRun = true →
    (s.ofRow q i 4 4 = some c → dieOfQueue q = 0 → c.restZero [(8, 8)] = true → c.arg 8 8 < 2 ^ 48 →
      (s.step_ c.grove).step = c.arg 8 8 → ((s.step_ c.grove).st = .running ∨ (s.step_ c.grove).st = .sealed) →
      ∃ u : State, exec (.stepVoid q i) s = .next (u.complete q i .ok 0) ∧ (u.step_ c.grove).st = .voided ∧
        (u.step_ c.grove).voidMsg = some ⟨c.arg 8 8, (s.step_ c.grove).attempt, s.devnum, 3⟩ ∧
        (u.step_ c.grove).step = c.arg 8 8 ∧ ∀ h, h ≠ c.grove → u.step_ h = s.step_ h) ∧
    (s.groveIs o.grove o.gen = true →
      ((s.step_ o.grove).past v.step = false → v.step = (s.step_ o.grove).step →
        ((s.step_ o.grove).st = .running ∨ (s.step_ o.grove).st = .sealed) → v.attempt = (s.step_ o.grove).attempt →
        ∃ t, exec (.voidReceive o v) s = .next t ∧ (t.step_ o.grove).st = .voided ∧
          (t.step_ o.grove).voidMsg = some v ∧ v.origin ∈ (t.step_ o.grove).origins ∧
          (t.step_ o.grove).attempt = (s.step_ o.grove).attempt ∧ ∀ h, h ≠ o.grove → t.step_ h = s.step_ h) ∧
      ((s.step_ o.grove).past v.step = true → ∃ t, exec (.voidReceive o v) s = .next t ∧ t.col = s.col ∧ t.mem = s.mem) ∧
      ((s.step_ o.grove).past v.step = false → v.step ≠ (s.step_ o.grove).step →
        ∃ t w, exec (.voidReceive o v) s = .next t ∧ w ∈ (t.step_ o.grove).heldVoids ∧ w.step = v.step ∧
          w.attempt = v.attempt ∧ w.origin = v.origin ∧ (t.step_ o.grove).st = (s.step_ o.grove).st ∧ t.mem = s.mem)) ∧
    ((s.step_ g).st = .sealed → ∃ t, exec (.commitTimeout g) s = .next t ∧ (t.step_ g).st = .voided ∧
      (t.step_ g).voidMsg = some ⟨(s.step_ g).step, (s.step_ g).attempt, s.devnum, 2⟩) ∧
    ((s.step_ g).st ≠ .sealed → exec (.commitTimeout g) s = .next s) ∧
    ((s.step_ g).st = .voided → ∃ t, exec (.voidBarrierTimeout g) s = .next t ∧ (t.step_ g).st = .closed ∧
      (t.step_ g).step = stepPred (s.step_ g).step ∧ (t.step_ g).attempt = 0 ∧ (t.step_ g).record = none) ∧
    ((s.step_ g).st ≠ .voided → exec (.voidBarrierTimeout g) s = .next s))

/-- R34, R483 to R486: a device with a parent and no children in the commit tree, and no merge area, seals a step that
may be sealed and sends its clean report; VOIDED and quiesced, it sends its void acknowledgement. A report of the
present attempt is kept; a VOIDED device answers a clean report with the VOID.

R34, R472, R485, R565: a commit release of the present attempt takes a SEALED step to COMMITTED and delivers the
exponents; a replay release runs a VOIDED step again under the next attempt, from the same record. A release of another
step changes nothing. A committed step whose writes, broadcast, refreshes and flips are done is CLOSED. -/
def Obligations.CommitAndRelease : Prop :=
  (∀ (s : State) (g parent : Nat) (o : Origin) (r : Report) (v : VoidMsg), s.islandsRun = true →
    (treeParent (s.members g) ((s.members g).headD 0) s.devnum = some parent → s.commitChildren g = [] →
      (s.maySeal g = true → s.mergeArea g = none →
        ∃ t y, exec (.cleanReportSend g) s = .next t ∧ (t.step_ g).st = .sealed ∧ (t.step_ g).reported = true ∧
          (t.step_ g).sentReport = some y ∧ y.kind = 0 ∧ y.members = 1 ∧ y.step = (s.step_ g).step ∧
          y.attempt = (s.step_ g).attempt ∧ t.mem = s.mem) ∧
      (s.mayAckVoid g = true → (s.step_ g).reported = false →
        ∃ t y, exec (.voidAckSend g) s = .next t ∧ (t.step_ g).st = .voided ∧ (t.step_ g).reported = true ∧
          (t.step_ g).sentReport = some y ∧ y.kind = 1 ∧ y.members = 1 ∧ y.attempt = (s.step_ g).attempt)) ∧
    ((s.step_ g).st ≠ .running → (s.step_ g).st ≠ .sealed → exec (.cleanReportSend g) s = .next s) ∧
    (s.mayAckVoid g = false → exec (.voidAckSend g) s = .next s) ∧
    (s.groveIs o.grove o.gen = true → r.kind = 0 →
      ((s.step_ o.grove).st = .running → (s.step_ o.grove).past r.step = false →
        reportCurrent r (s.step_ o.grove).step (s.step_ o.grove).attempt = true →
        ∃ t, exec (.commitReportReceive o r) s = .next t ∧ (o.device, r) ∈ (t.step_ o.grove).reports ∧
          (t.step_ o.grove).st = .running ∧ { t with col := s.col } = s ∧ ∀ h, h ≠ o.grove → t.step_ h = s.step_ h) ∧
      ((s.step_ o.grove).st = .voided → r.step = (s.step_ o.grove).step → (s.step_ o.grove).voidMsg = some v →
        exec (.commitReportReceive o r) s = .next (s.sendMsg 0 true o.device 0x02 o.grove
          (mfield 6 v.step ++ mfield 1 v.attempt ++ mfield 2 v.origin ++ mfield 1 v.reason))))) ∧
  (∀ (s : State) (o : Origin) (r : Release) (g : Nat), s.islandsRun = true → g = o.grove →
    (s.groveIs g o.gen = true →
      (r.step ≠ (s.step_ g).step → exec (.commitRelease o r) s = .next s) ∧
      (r.step = (s.step_ g).step → r.commit = true → (s.step_ g).st = .sealed → r.attempt = (s.step_ g).attempt →
        ∃ t, exec (.commitRelease o r) s = .next t ∧ (t.step_ g).st = .committed ∧ (t.step_ g).step = r.step ∧
          (t.step_ g).delivered = some r.exponents ∧ ∀ h, h ≠ g → t.step_ h = s.step_ h) ∧
      (r.step = (s.step_ g).step → r.commit = false → (s.step_ g).st = .voided →
        r.attempt = ((s.step_ g).attempt + 1) % 256 → (s.step_ g).heldVoids = [] →
        ∃ t, exec (.commitRelease o r) s = .next t ∧ (t.step_ g).st = .running ∧ (t.step_ g).step = r.step ∧
          (t.step_ g).attempt = r.attempt ∧ (t.step_ g).record = (s.step_ g).record ∧
          ∀ h, h ≠ g → t.step_ h = s.step_ h)) ∧
    ((s.step_ g).st = .committed → s.updateDone g = true → s.updateFaulted g = false → s.piecesOpen g = false →
      s.refreshesDone g = true → (s.step_ g).stageApply = none →
      ∃ t, exec (.stepCommitComplete g) s = .next t ∧ (t.step_ g).st = .closed ∧ (t.step_ g).step = (s.step_ g).step ∧
        ∀ h, h ≠ g → t.step_ h = s.step_ h))

/-- R511: UPD_LOAD of a valid programme waits for the next open, in the place of any programme of its kind and target,
and answers the programmes the die then holds; the 2,049th of a die is refused with UPD_FULL. UPD_DROP stages the
programme's end, and UPD_CONST the programme with the constants its mask names replaced. The programmes in force do not
change yet.

R16, R514: a write of UPD_ROWBUF that enables a region outside the grove's channels on the die, or a log2_entries
outside 8 to 22, is discarded and records UPD_DESCRIPTOR; any other is stored in the register's fields. -/
def Obligations.UpdateUnits : Prop :=
  (∀ (s s1 s2 : State) (q i g k va n kind target : Nat) (c : Cmd) (b0 b : List Byte) (p : UpdProg), s.islandsRun = true →
    g = c.grove → va = c.arg 8 8 →
    (s.ofRow q i 5 1 = some c → c.restZero [(8, 8)] = true → va < 2 ^ 48 → va % 64 = 0 →
      (s.start q i).readVa g va 128 = (s1, .ok, b0) → n = leAt b0 6 1 → n ≤ 16 → s1.readVa g va (128 + 8 * n) = (s2, .ok, b) →
      parseUpd g c.gen b = (true, p) → s2.updPlaces (dieOfQueue q) g p = true → k = updKey (dieOfQueue q) g p.kind p.target →
      (s2.updHeld (dieOfQueue q) < 2048 →
        ∃ u : State, exec (.updLoad q i) s = .next (u.complete q i .ok (u.updHeld (dieOfQueue q) % 2 ^ 11)) ∧
          (u.updSlot k).next = some (some p) ∧ (u.updSlot k).cur = (s.updSlot k).cur ∧
          (∀ j, j ≠ k → u.updSlot j = s.updSlot j) ∧ u.upd.work = s.upd.work ∧ u.mem = s2.mem) ∧
      (2048 ≤ s2.updHeld (dieOfQueue q) → (s2.updSlot k).cur = none → (s2.updSlot k).next = none → s2.logRoom = true →
        ∃ (u : State) (r : LogRec), exec (.updLoad q i) s = .next (u.complete q i .badCommand 0) ∧ u.upd = s2.upd ∧
          u.mem = s2.mem ∧ u.lastRecord = some r ∧ r.src = .upd ∧ r.sev = .contained ∧ r.code = 0x03)) ∧
    (kind = c.arg 8 1 → kind ≤ 1 → target = c.arg 0x0A 2 → target < 4096 → k = updKey (dieOfQueue q) g kind target →
      (s.ofRow q i 5 2 = some c → c.restZero [(8, 1), (0x0A, 2)] = true →
        ∃ u : State, exec (.updDrop q i) s = .next (u.complete q i .ok 0) ∧ (u.updSlot k).cur = (s.updSlot k).cur ∧
          (s.updSlot k ≠ {} → (u.updSlot k).next = some none) ∧ (∀ j, j ≠ k → u.updSlot j = s.updSlot j) ∧
          u.upd.work = s.upd.work ∧ u.mem = s.mem) ∧
      (s.ofRow q i 5 3 = some c → c.restZero [(8, 1), (0x0A, 2), (0x10, 32), (0x30, 1)] = true →
        (s.updSlot k).next.getD (s.updSlot k).cur = some p →
        ∃ (u : State) (w : List Nat), exec (.updConst q i) s = .next (u.complete q i .ok 0) ∧
          (u.updSlot k).cur = (s.updSlot k).cur ∧ (u.updSlot k).next = some (some { p with constants := w }) ∧
          (∀ j, j < 8 → w.getD j 0 = if (c.arg 0x30 1).testBit j then c.arg (0x10 + 4 * j) 4 else p.constants.getD j 0) ∧
          (∀ j, j ≠ k → u.updSlot j = s.updSlot j) ∧ u.upd.work = s.upd.work ∧ u.mem = s.mem))) ∧
  (∀ (s : State) (die g : Nat) (v : Word), s.islandsRun = true → s.batchRuns = false → die < 2 → g < 16 →
    (v.getLsbD 63 = false ∨ 8 ≤ wfld v 56 5 ∧ wfld v 56 5 ≤ 22 ∧ (s.grove g).bound = true ∧
        s.localOwned g (wfld v 6 35 * 64) (640 * 2 ^ wfld v 56 5) (some die) = true →
      ∃ t, exec (.updRowbufWrite die g v) s = .next t ∧ t.getReg .UPD_ROWBUF [die, g] = accessWrite .UPD_ROWBUF (s.getReg .UPD_ROWBUF [die, g]) v ∧
        (∀ a, a ≠ regAddr .UPD_ROWBUF [die, g] → tget t.regs a = tget s.regs a) ∧ { t with regs := s.regs } = s) ∧
    (v.getLsbD 63 = true → wfld v 56 5 < 8 ∨ 22 < wfld v 56 5 ∨
        s.localOwned g (wfld v 6 35 * 64) (640 * 2 ^ wfld v 56 5) (some die) = false → s.logRoom = true →
      ∃ t r, exec (.updRowbufWrite die g v) s = .next t ∧ t.getReg .UPD_ROWBUF [die, g] = s.getReg .UPD_ROWBUF [die, g] ∧
        t.lastRecord = some r ∧ r.src = .upd ∧ r.sev = .contained ∧ r.code = 0x02 ∧ t.mem = s.mem ∧ t.upd = s.upd))

/-! ## Statements about the Kiln (ch. 18) -/

/-- R560, R561, R562, R574: PLAN_LOAD of a plan that passes every check keeps it for the grove and answers its capture
pages, and of another ends as BAD_COMMAND with KLN_PLAN; KLN_ABORT ends the grove's firing, lifts its protection and
writes no completion record: FIRE completes ABORTED, then KLN_ABORT OK. Firings of other groves continue.

R563, R565: FIRE for the grove's uncommitted step with a plan of the current generation arms a firing that saves to the
plan's destinations, and does not complete yet; without such a plan it ends with KLN_PLAN, while a firing runs or a
restore is pending with KLN_BUSY, for another step with KLN_STEP. -/
def Obligations.KilnFires : Prop :=
  (∀ (s s1 s2 : State) (q i g va n : Nat) (c : Cmd) (b0 b : List Byte) (f : Firing), s.islandsRun = true → dieOfQueue q = 0 →
    g = c.grove → va = c.arg 8 8 →
    (s.ofRow q i 6 1 = some c → c.restZero [(8, 8)] = true → va < 2 ^ 48 → va % 64 = 0 →
      (s.start q i).readVa g va 64 = (s1, .ok, b0) → n = leAt b0 4 2 → n ≤ 1024 → s1.readVa g va (64 + 16 * n) = (s2, .ok, b) →
      ((s2.parsePlan g c.gen b).1 = true →
        ∃ u : State, exec (.planLoad q i) s =
            .next (u.complete q i .ok ((s2.parsePlan g c.gen b).2.pages.length % 2 ^ 32)) ∧
          tget u.kln.plans g = some (s2.parsePlan g c.gen b).2 ∧ (∀ j, j ≠ g → tget u.kln.plans j = tget s.kln.plans j) ∧
          u.kln.firings = s.kln.firings ∧ u.kln.restores = s.kln.restores ∧ u.mem = s2.mem) ∧
      ((s2.parsePlan g c.gen b).1 = false → s2.logRoom = true →
        ∃ (u : State) (r : LogRec), exec (.planLoad q i) s = .next (u.complete q i .badCommand 0) ∧ u.kln = s2.kln ∧
          u.mem = s2.mem ∧ u.lastRecord = some r ∧ r.src = .kln ∧ r.sev = .contained ∧ r.code = 0x02)) ∧
    (s.ofRow q i 6 3 = some c → c.restZero [] = true → s.mem.held = [] → s.col.heldOpens = [] →
      (s.firing g = some f → ∃ u : State,
        exec (.klnAbort q i) s = .next ((u.complete f.queue f.index .aborted 0).complete q i .ok 0) ∧ u.firing g = none ∧
          (∀ j, j ≠ g → u.firing j = s.firing j) ∧ (∀ p, p ∈ u.kln.protect ↔ p ∈ s.kln.protect ∧ p.2.1 ≠ g) ∧
          u.kln.plans = s.kln.plans ∧ u.outbox = s.outbox ∧ u.mem = s.mem) ∧
      (s.firing g = none → exec (.klnAbort q i) s = .next ((s.start q i).complete q i .ok 0)))) ∧
  (∀ (s : State) (q i g n slot : Nat) (c : Cmd), s.islandsRun = true → dieOfQueue q = 0 → g = c.grove → n = c.arg 8 8 →
    slot = c.arg 0x10 1 → s.ofRow q i 6 2 = some c → c.restZero [(8, 8), (0x10, 1)] = true → n < 2 ^ 48 → slot ≤ 1 →
    (∀ p, tget s.kln.plans g = some p → p.gen = (s.grove g).generation →
      (s.firing g = none → (s.step_ g).restorePending = false → s.uncommitted g = some n →
        ∃ (t : State) (f : Firing), exec (.fire q i) s = .next t ∧ t.firing g = some f ∧ f.st = .armed ∧ f.queue = q ∧
          f.index = i ∧ f.step = n ∧ f.slot = slot ∧ f.plan = p ∧ f.touch = ((s.grove g).params.checkpointMode == 1) ∧
          f.buddy = { live := p.toBuddy } ∧ f.storage = { live := p.toStorage } ∧
          (∀ j, j ≠ g → t.firing j = s.firing j) ∧ t.cmd q i = (s.start q i).cmd q i ∧ t.mem = s.mem ∧
          t.outbox = s.outbox ∧ t.regs = s.regs) ∧
      ((s.firing g).isSome = true ∨ (s.step_ g).restorePending = true → s.logRoom = true →
        ∃ (u : State) (r : LogRec), exec (.fire q i) s = .next (u.complete q i .badCommand 0) ∧ u.kln = s.kln ∧
          u.mem = s.mem ∧ u.lastRecord = some r ∧ r.src = .kln ∧ r.code = 0x03) ∧
      (s.firing g = none → (s.step_ g).restorePending = false → s.uncommitted g ≠ some n → s.logRoom = true →
        ∃ (u : State) (r : LogRec), exec (.fire q i) s = .next (u.complete q i .badCommand 0) ∧ u.kln = s.kln ∧
          u.mem = s.mem ∧ u.lastRecord = some r ∧ r.src = .kln ∧ r.code = 0x04)) ∧
    ((∀ p, tget s.kln.plans g = some p → p.gen ≠ (s.grove g).generation) → s.logRoom = true →
      ∃ (u : State) (r : LogRec), exec (.fire q i) s = .next (u.complete q i .badCommand 0) ∧ u.kln = s.kln ∧
        u.mem = s.mem ∧ u.lastRecord = some r ∧ r.src = .kln ∧ r.code = 0x02))

/-- R565, R573, R583: an acknowledged zeroed record ends INVALIDATE at the only destination in service; an acknowledged
completion record ends SEAL: FIRE completes OK with its step and destinations, and KLN_LAST holds them. A drain message
without an answer is sent again at most three times; then the destination fails with KLN_DRAIN_FAIL, and with no other
in service FIRE completes FAULT.

R566, R567: the capture ends: in stop-copy every capture page lies in the reserve page at its index, in copy-on-touch
every mapped one is write-protected; draining starts with the metadata at each destination in service. A page that
cannot be read aborts the firing. A touched page that has been copied to a free reserve page is no longer protected.

R73, R573: a drain message of a grove's present generation for an offset its channels hold is written there and
acknowledged; one of a stale generation writes no memory. -/
def Obligations.KilnDrains : Prop :=
  (∀ (s : State) (g req : Nat) (o : Origin) (f : Firing), s.islandsRun = true → s.mem.held = [] → s.col.heldOpens = [] →
    s.firing g = some f → f.storage.live = false → f.buddy.live = true → f.buddy.tag = some req → o.grove = g → g < 16 →
    o.device = f.plan.buddy / 2 ^ 41 % 2 ^ 15 → f.snaps = [] →
    (f.st = .invalidate → f.buddy.item = .record0 → ∃ t, exec (.kilnDestAck o req) s = .next t ∧
      t.firing g = some { f with st := .capture, buddy := { f.buddy with item := .waiting, off := 0, tag := none, tries := 0 } } ∧
      (∀ j, j ≠ g → t.firing j = s.firing j) ∧ t.mem = s.mem ∧ t.hrt = s.hrt) ∧
    (f.st = .seal → f.buddy.item = .record → ∃ u : State,
      exec (.kilnDestAck o req) s = .next (u.complete f.queue f.index .ok (f.step + 2 ^ 48)) ∧ u.firing g = none ∧
      u.getReg .KLN_LAST [g] = BitVec.ofNat 64 (2 ^ 63 + f.slot * 2 ^ 62 + 2 ^ 48 + f.step) ∧ u.mem = s.mem ∧
      (∀ j, j ≠ g → u.firing j = s.firing j)) ∧
    (f.buddy.item = .metadata → f.buddy.tries < 3 → ∃ t, exec (.kilnDrainTimeout g) s = .next t ∧
      t.firing g = some { f with buddy := { f.buddy with tries := f.buddy.tries + 1 } } ∧ t.mem = s.mem ∧ t.hrt = s.hrt) ∧
    (f.buddy.item = .metadata → 3 ≤ f.buddy.tries → f.st = .drain → s.logRoom = true →
      ∃ (u : State) (r : LogRec), exec (.kilnDrainTimeout g) s = .next (u.complete f.queue f.index .fault 0) ∧
        u.firing g = none ∧ u.mem = s.mem ∧ u.lastRecord = some r ∧ r.src = .kln ∧ r.sev = .contained ∧ r.code = 0x06)) ∧
  (∀ (s s1 : State) (g page cycles : Nat) (f : Firing), s.islandsRun = true → s.mem.held = [] → s.col.heldOpens = [] →
    s.firing g = some f →
    (f.st = .capture → f.touch = false → s.captureAll g f.plan.pages.zipIdx = (s1, none) →
      ∃ t f1 f2, exec (.kilnCaptureDone g) s = .next t ∧ s1.firing g = some f1 ∧ t.firing g = some f2 ∧ f2.st = .drain ∧
        f2.digests = f1.digests ∧ (f.buddy.live = true → f2.buddy.item = .metadata ∧ f2.buddy.off = 0) ∧
        (f.storage.live = true → f2.storage.item = .metadata ∧ f2.storage.off = 0) ∧ t.mem = s1.mem) ∧
    (∀ n, f.st = .capture → f.touch = false → s.captureAll g f.plan.pages.zipIdx = (s1, some n) →
      ∃ u : State, exec (.kilnCaptureDone g) s = .next (u.complete f.queue f.index .aborted 0) ∧ u.firing g = none ∧
        u.mem = s1.mem) ∧
    (f.st = .capture → f.touch = true → ∃ t f2, exec (.kilnCaptureDone g) s = .next t ∧ t.firing g = some f2 ∧
      f2.st = .drain ∧ (∀ i va o, f.plan.pages[i]? = some va → s.localPage g va = some o →
        (o / 2 ^ 21, g, i) ∈ t.kln.protect) ∧ (∀ p ∈ s.kln.protect, p ∈ t.kln.protect) ∧ t.mem = s.mem) ∧
    (∀ p r, s.kln.protect.find? (fun p => p.2 == (g, page)) = some (p, g, page) →
      s.kln.protect.find? (fun x => x.1 == p) = some (p, g, page) → f.freeReserve f.drained = some r →
      ∃ t f2, exec (.kilnTouchDone g page cycles) s = .next t ∧ t.firing g = some f2 ∧ f2.touched = tset f.touched page r ∧
        f2.digests = tset f.digests page (sha384 (s.peek (p * 2 ^ 21) (2 ^ 21))) ∧ f2.st = f.st ∧
        (∀ x, x ∈ t.kln.protect ↔ x ∈ s.kln.protect ∧ x.1 ≠ p))) ∧
  (∀ (s s1 s2 : State) (die : Nat) (o : Origin) (w : KilnWrite), s.islandsRun = true →
    (s.groveIs o.grove o.gen = true → (s.locate w.offset).bind (fun p => s.channelOwner p.1) = some o.grove →
      s.spend die o.grove 4 1 = (s1, true) → s1.writeLocal (.grove o.grove) w.offset w.data = (s2, .ok) →
      exec (.kilnDrainReceive die o w) s = .next (s2.colAck die o.device o.grove w.request 0)) ∧
    (s.groveIs o.grove o.gen = false → ∃ t, exec (.kilnDrainReceive die o w) s = .next t ∧ t.mem = s.mem ∧
      t.kln = s.kln ∧ t.grv.groves = s.grv.groves))

/-- R575: RESTORE of a CLOSED grove with no firing makes it restore_pending and asks the source for the slot's
completion record; while a firing or a restore is at work it ends with KLN_BUSY, in another step state with
KLN_RESTORE_STATE. PROBE asks for the record alone.

R570, R575, R578: a PROBE answers the slot's step when the record that arrives is present and names the grove and this
device, and valid 0 otherwise. A restore asks for the metadata once its record is present, is this device's and the
grove's, and is of the expected step, and completes FAULT with KLN_NO_SLOT otherwise; a metadata digest that differs
ends it with KLN_RESTORE_DIGEST; the last page with its digest ends it OK with the next step, and the grove is CLOSED at
the step before. -/
def Obligations.KilnRestores : Prop :=
  (∀ (s : State) (q i g source slot n at' : Nat) (c : Cmd) (p : KilnPlan), s.islandsRun = true → g = c.grove →
    source = c.arg 8 1 → slot = c.arg 9 1 → source ≤ 1 → slot ≤ 1 → at' = slot * p.stride →
    (n = c.arg 0x10 8 → dieOfQueue q = 0 → s.ofRow q i 6 4 = some c → c.restZero [(8, 2), (0x10, 8)] = true → n < 2 ^ 48 →
      (s.firing g = none → tget s.kln.restores g = none → (s.step_ g).st = .closed → tget s.kln.plans g = some p →
        p.offers source = true → ∃ t, exec (.restore q i) s = .next t ∧ (t.step_ g).restorePending = true ∧
          tget t.kln.restores g = some { queue := q, index := i, source := source, slot := slot, expected := n } ∧
          tget t.kln.reads s.kln.nextTag = some { grove := g, probe := none, length := 128 } ∧
          t.outbox = s.outbox ++ [if source = 1 then .rdmaRead p.qp p.rkey ((p.base + at') % 2 ^ 64) 128 s.kln.nextTag
            else .kilnRead (p.buddy / 2 ^ 41 % 2 ^ 15) ((p.buddy + at') % 2 ^ 41) 128 s.kln.nextTag] ∧
          t.cmd q i = (s.start q i).cmd q i ∧ t.mem = s.mem) ∧
      ((s.firing g).isSome = true ∨ (tget s.kln.restores g).isSome = true → s.logRoom = true →
        ∃ (u : State) (r : LogRec), exec (.restore q i) s = .next (u.complete q i .badCommand 0) ∧ u.kln = s.kln ∧
          u.col = s.col ∧ u.mem = s.mem ∧ u.lastRecord = some r ∧ r.src = .kln ∧ r.code = 0x03) ∧
      (s.firing g = none → tget s.kln.restores g = none → (s.step_ g).st ≠ .closed → s.logRoom = true →
        ∃ (u : State) (r : LogRec), exec (.restore q i) s = .next (u.complete q i .badCommand 0) ∧ u.kln = s.kln ∧
          u.col = s.col ∧ u.mem = s.mem ∧ u.lastRecord = some r ∧ r.src = .kln ∧ r.code = 0x0B)) ∧
    (s.ofRow q i 6 5 = some c → c.restZero [(8, 2)] = true → tget s.kln.plans g = some p → p.offers source = true →
      ∃ t, exec (.probe q i) s = .next t ∧
        tget t.kln.reads s.kln.nextTag = some { grove := g, probe := some (q, i, slot), length := 128 } ∧
        t.outbox = s.outbox ++ [if source = 1 then .rdmaRead p.qp p.rkey ((p.base + at') % 2 ^ 64) 128 s.kln.nextTag
            else .kilnRead (p.buddy / 2 ^ 41 % 2 ^ 15) ((p.buddy + at') % 2 ^ 41) 128 s.kln.nextTag] ∧
        t.cmd q i = (s.start q i).cmd q i ∧ t.col = s.col ∧ t.mem = s.mem)) ∧
  (∀ (s s1 : State) (tag g : Nat) (x : KilnRead) (b : List Byte) (p : KilnPlan) (r : Restore), s.islandsRun = true →
    tget s.kln.reads tag = some x → b.length = x.length → g = x.grove →
    (∀ q i slot, x.probe = some (q, i, slot) → ∃ u : State, exec (.restoreDataReceive tag b) s = .next (u.complete q i .ok
        (if recordPresent b = true ∧ leAt b 7 1 % 16 = g ∧ leAt b 0x0A 2 % 2 ^ 15 = s.devnum
          then leAt b 0x10 8 % 2 ^ 48 + 2 ^ 48 + slot * 2 ^ 49 else slot * 2 ^ 49)) ∧
      u = { s with kln := { s.kln with reads := terase s.kln.reads tag } }) ∧
    (x.probe = none → tget s.kln.restores g = some r → tget s.kln.plans g = some p →
      (r.record = [] → recordPresent b = true → leAt b 7 1 % 16 = g → leAt b 0x0A 2 % 2 ^ 15 = s.devnum →
        leAt b 0x10 8 % 2 ^ 48 = r.expected → ∃ t, exec (.restoreDataReceive tag b) s = .next t ∧
          tget t.kln.restores g = some { r with record := b } ∧
          tget t.kln.reads s.kln.nextTag = some { grove := g, probe := none, length := leAt b 0x1C 4 } ∧
          t.col = s.col ∧ t.mem = s.mem) ∧
      (r.record = [] → recordPresent b = false ∨ leAt b 7 1 % 16 ≠ g ∨ leAt b 0x0A 2 % 2 ^ 15 ≠ s.devnum ∨
        leAt b 0x10 8 % 2 ^ 48 ≠ r.expected → s.logRoom = true → ∃ (u : State) (l : LogRec),
          exec (.restoreDataReceive tag b) s = .next (u.complete r.queue r.index .fault 0) ∧
          tget u.kln.restores g = none ∧ u.col = s.col ∧ u.mem = s.mem ∧ u.lastRecord = some l ∧ l.src = .kln ∧
          l.code = 0x09) ∧
      (r.record ≠ [] → r.meta_ ≠ [] → r.manifest = [] → sha384 (r.meta_ ++ b) ≠ (r.record.drop 0x30).take 48 →
        s.logRoom = true → ∃ (u : State) (l : LogRec),
          exec (.restoreDataReceive tag b) s = .next (u.complete r.queue r.index .fault 0) ∧
          tget u.kln.restores g = none ∧ u.col = s.col ∧ u.mem = s.mem ∧ u.lastRecord = some l ∧ l.src = .kln ∧
          l.code = 0x0A) ∧
      (r.record ≠ [] → r.meta_ ≠ [] → r.manifest ≠ [] → r.page + 1 = leAt r.record 0x18 4 →
        { s with kln := { s.kln with reads := terase s.kln.reads tag } }.writeVa g
          (leAt ((r.manifest.drop (64 * r.page)).take 64) 0 8 % 2 ^ 48) b = (s1, .ok) →
        sha384 b = (((r.manifest.drop (64 * r.page)).take 64).drop 8).take 48 →
        ∃ u : State, exec (.restoreDataReceive tag b) s =
            .next (u.complete r.queue r.index .ok (leAt r.meta_ 0 8 % 2 ^ 48)) ∧ (u.step_ g).st = .closed ∧
          (u.step_ g).step = stepPred (leAt r.meta_ 0 8 % 2 ^ 48) ∧ (u.step_ g).attempt = 0 ∧
          (u.step_ g).restorePending = false ∧ tget u.kln.restores g = none ∧ u.mem = s1.mem)))

/-! ## Statements about clocks, power and limits (ch. 19) -/

/-- R591: edges turn an ABSENT reference QUALIFYING with count 0; a window within 1 % counts on, one outside counts from
0 and is counted as a restart; the hundredth good window in a row, with the cleaning PLL locked for the last ten, makes
it GOOD; no edge makes it ABSENT. A recovered reference is judged only while its port is ACTIVE. A reference not in use
changes nothing else.

R594: the loss of the reference the device runs from. In service with the other GOOD the device switches to it, counts
the failover and records CLK_REF_FAILOVER; with none GOOD it enters the ash state on CLK_LOSS; in kindling it banks its
PLLs with a record, in test mode without one; in smoulder nothing happens.

R592, R593, R611, R612: the measured offset shows in CLK_REF_STATUS; beyond 200 ppm for 10 ms it is recorded once as
CLK_REF_MISMATCH. A write of CLK_REF_SEL with a direction above 5 is discarded with CLK_CONFIG; any other is stored, and
the switch starts once the named reference is GOOD; when it completes the device runs from the new source. -/
def Obligations.References : Prop :=
  (∀ (s : State) (k hz : Nat) (lock : Bool) (r n : RefState), s.sup.recovery ≠ .resetHeld → k < 3 → r = s.ref k →
    n = { st := 1, count := min 100 (r.count + 1), locked := if lock then min 10 (r.locked + 1) else 0 } →
    (s.refJudged k = true → r.st = 0 → ∃ t, exec (.refEdgeDetect k) s = .next t ∧ t.ref k = { st := 1 } ∧
      { t with clk := s.clk } = s) ∧
    (s.refJudged k = false → exec (.refEdgeDetect k) s = .next s ∧ exec (.refQualWindow k hz lock) s = .next s) ∧
    (r.st ≠ 0 → r.st ≠ 2 ∨ s.inUse k = false → ∃ t, exec (.refEdgeLoss k) s = .next t ∧ t.ref k = {} ∧
      { t with clk := s.clk } = s) ∧
    (s.refJudged k = true → r.st = 1 →
      (154687500 ≤ hz → hz ≤ 157812500 → n.count < 100 ∨ n.locked < 10 →
        ∃ t, exec (.refQualWindow k hz lock) s = .next t ∧ t.ref k = n ∧ { t with clk := s.clk } = s) ∧
      (154687500 ≤ hz → hz ≤ 157812500 → n.count = 100 → n.locked = 10 →
        ∃ t, exec (.refQualWindow k hz lock) s = .next t ∧ t.ref k = { n with st := 2 } ∧ { t with clk := s.clk } = s) ∧
      (hz < 154687500 ∨ 157812500 < hz → ∃ t, exec (.refQualWindow k hz lock) s = .next t ∧
        t.ref k = { n with count := 0 } ∧ wfld (t.getReg .CLK_QUAL_RESTART []) 0 48 =
          min (2 ^ 48 - 1) (wfld (s.getReg .CLK_QUAL_RESTART []) 0 48 + 1) ∧ t.mem = s.mem)) ∧
    (s.refJudged k = true → r.st = 2 → hz < 154687500 ∨ 157812500 < hz ∨ lock = false → s.inUse k = false →
      ∃ t, exec (.refQualWindow k hz lock) s = .next t ∧ t.ref k = { st := 1 } ∧ { t with clk := s.clk } = s)) ∧
  (∀ (s : State) (k : Nat), s.sup.recovery ≠ .resetHeld → k < 2 → s.clk.active = k → s.clk.prev = none →
    s.clk.switching = none → s.clk.banked = false → (s.ref k).st = 2 →
    (s.sup.phase = .service → s.testMode = false → s.refGood (1 - k) = true → s.boundGroves = [] →
      (statAdd (s.getReg .CLK_FAILOVER []) 1).2 = false → s.logRoom = true →
      ∃ t r, exec (.refEdgeLoss k) s = .next t ∧ t.ref k = {} ∧ t.clk.switching = some (1 - k) ∧ t.clk.active = k ∧
        t.sup.phase = .service ∧ t.getReg .CLK_FAILOVER [] = (statAdd (s.getReg .CLK_FAILOVER []) 1).1 ∧
        t.lastRecord = some r ∧ r.src = .clk ∧ r.sev = .deferred ∧ r.code = 0x01 ∧ t.mem = s.mem) ∧
    (s.sup.phase = .service → s.testMode = false → s.refGood (1 - k) = false → s.wch.fatal = none →
      ∃ t r, exec (.refEdgeLoss k) s = .next t ∧ t.sup.phase = .ash ∧ t.sup.faultLow = true ∧ t.wch.fatal = some r ∧
        r.src = .clk ∧ r.sev = .fatal ∧ r.code = 0x04) ∧
    (s.sup.phase = .kindling → s.testMode = false → s.refGood (1 - k) = false → s.boundGroves = [] → s.wch.tests = [] →
      s.lnk.ports = [] → s.logRoom = true → ∃ t r, exec (.refEdgeLoss k) s = .next t ∧ t.clk.banked = true ∧ t.sup.phase = .kindling ∧
        t.getReg .CLK_PLL_STATUS [] = 0 ∧ t.lastRecord = some r ∧ r.src = .clk ∧ r.sev = .deferred ∧ r.code = 0x03 ∧
        t.mem = s.mem) ∧
    (s.sup.phase = .smoulder → s.testMode = false → ∃ t, exec (.refEdgeLoss k) s = .next t ∧ t.ref k = {} ∧
      { t with clk := s.clk } = s) ∧
    (s.testMode = true → s.refGood (1 - k) = false → s.boundGroves = [] → s.wch.tests = [] → s.lnk.ports = [] →
      ∃ t, exec (.refEdgeLoss k) s = .next t ∧ t.clk.banked = true ∧ t.wch = s.wch ∧ t.sup = s.sup ∧ t.mem = s.mem)) ∧
  (∀ (s : State) (v : Word) (off : Int) (n : Nat), s.sup.recovery ≠ .resetHeld →
    (s.refGood 0 = true → s.refGood 1 = true → -32768 ≤ off → off ≤ 32767 →
      (-20000 ≤ off → off ≤ 20000 → ∃ t, exec (.refCrossCheck off) s = .next t ∧
        t.regFld .CLK_REF_STATUS [] 16 16 = ofSigned 16 off ∧ t.clk.mismatchSince = none ∧
        { t with clk := s.clk, regs := s.regs } = s) ∧
      (∀ since, off < -20000 ∨ 20000 < off → s.clk.mismatchSince = some since → s.clk.mismatchLogged = false →
        10000 ≤ s.aonUs - since → s.boundGroves = [] → s.logRoom = true →
        ∃ t r, exec (.refCrossCheck off) s = .next t ∧ t.clk.mismatchLogged = true ∧ t.clk.active = s.clk.active ∧
          t.clk.switching = s.clk.switching ∧ t.lastRecord = some r ∧ r.src = .clk ∧ r.sev = .deferred ∧ r.code = 0x02) ∧
      (off < -20000 ∨ 20000 < off → s.clk.mismatchLogged = true → ∃ t, exec (.refCrossCheck off) s = .next t ∧
        t.wch = s.wch ∧ t.clk.active = s.clk.active)) ∧
    (s.refGood 0 = false ∨ s.refGood 1 = false → exec (.refCrossCheck off) s = .next s) ∧
    (s.sup.phase ≠ .ash → wfld v 4 3 > 5 → s.boundGroves = [] → s.logRoom = true → ∃ t r,
      exec (.clkRefSelWrite v) s = .next t ∧ t.refSel = s.refSel ∧ t.clk = s.clk ∧ t.lastRecord = some r ∧ r.src = .clk ∧
        r.sev = .contained ∧ r.code = 0x06) ∧
    (s.sup.phase ≠ .ash → wfld v 4 3 ≤ 5 → ∃ t, exec (.clkRefSelWrite v) s = .next t ∧
      t.refSel = (wfld v 8 1, wfld v 4 3, wfld v 0 3) ∧ t.clk.active = s.clk.active ∧
      (wfld v 4 3 = s.refSel.2.1 → wfld v 0 3 = s.refSel.2.2 → s.clk.switching = none → s.clk.banked = false →
        s.clk.prev = none → wfld v 8 1 ≠ s.clk.active → t.clk.switching =
          if s.refGood (wfld v 8 1) then some (wfld v 8 1) else none) ∧
      { t with clk := s.clk, regs := s.regs } = s) ∧
    (s.clk.switching = some n → ∃ t, exec .refSwitchDone s = .next t ∧ t.clk.active = n ∧ t.clk.prev = none ∧
      { t with clk := s.clk } = s))

/-- R589, R594, R595, R613: an unlocked PLL loses its lock bit and is counted; in service that is fatal CLK_LOSS, in
kindling the PLLs bank, already banked or in smoulder nothing more happens. A monitor finds a fault when an island's
clock deviates by more than 5 % or a handshake is unanswered: fatal CLK_ISLAND_STALL; otherwise it changes nothing. -/
def Obligations.ClockFaults : Prop :=
  ∀ (s : State) (pll khz : Nat) (i : Island) (late : Bool), s.sup.recovery ≠ .resetHeld → pll < 10 →
    (s.clk.banked = true ∨ s.sup.phase = .smoulder → s.testMode = false → ∃ t, exec (.pllUnlock pll) s = .next t ∧
      t.regFld .CLK_PLL_STATUS [] pll 1 = 0 ∧ t.getReg .CLK_UNLOCK [] = (statAdd (s.getReg .CLK_UNLOCK []) 1).1 ∧
      t.clk = s.clk ∧ t.sup.phase = s.sup.phase ∧ t.mem = s.mem) ∧
    (s.clk.banked = false → s.sup.phase = .service → s.testMode = false → s.wch.fatal = none →
      ∃ t r, exec (.pllUnlock pll) s = .next t ∧ t.sup.phase = .ash ∧ t.wch.fatal = some r ∧ r.src = .clk ∧ r.code = 0x04) ∧
    (s.clk.banked = false → s.sup.phase = .kindling → ∃ t, exec (.pllUnlock pll) s = .next t ∧ t.clk.banked = true ∧
      t.sup.phase = .kindling ∧ t.getReg .CLK_PLL_STATUS [] = 0) ∧
    (s.clk.railsUp = true → s.islandGated i = false →
      (late = true ∨ s.islandKhz i < 20 * (khz - s.islandKhz i) ∨ s.islandKhz i < 20 * (s.islandKhz i - khz) →
        s.wch.fatal = none → s.sup.phase ≠ .ash →
        ∃ t r, exec (.clkMonitorWindow i khz late) s = .next t ∧ t.sup.phase = .ash ∧ t.wch.fatal = some r ∧ r.src = .clk ∧
          r.sev = .fatal ∧ r.code = 0x05) ∧
      (late = false → 20 * (khz - s.islandKhz i) ≤ s.islandKhz i → 20 * (s.islandKhz i - khz) ≤ s.islandKhz i →
        exec (.clkMonitorWindow i khz late) s = .next s))

/-- R598, R599, R614: a request moves an idle die toward the slowest of the request and the clamps. A slower point takes
effect once the PLL half has locked and then the voltage settled; a faster one once both have, in either order; the
clock switches at the lock when slower. Each transition is counted, and the die then follows what it should have. -/
def Obligations.OperatingPoints : Prop :=
  ∀ (s : State) (d : Nat) (v : Word) (x : Dvfs), d < 2 → s.clk.dvfs.length = 2 → s.islandsRun = true → x = s.dvfs d →
    (∃ t, exec (.pwrOpReqWrite d v) s = .next t ∧ t.regFld .PWR_OP_REQ [d] 0 3 = wfld v 0 3 ∧
      (x.busy = true → t.dvfs d = x) ∧
      (x.busy = false → t.dvfs d = if t.wantedPoint d = x.effective then x
        else { x with target := t.wantedPoint d, busy := true, pllDone := false, voltDone := false }) ∧
      (∀ e, e < 2 → e ≠ d → t.dvfs e = s.dvfs e) ∧ { t with clk := s.clk, regs := s.regs } = s) ∧
    (x.busy = true → x.pllDone = false → x.effective < x.target → ∃ t, exec (.dvfsPllLocked d) s = .next t ∧
      t.dvfs d = { x with pllDone := true, clock := x.target } ∧ { t with clk := s.clk } = s) ∧
    (x.busy = true → x.pllDone = true → x.effective < x.target → s.wantedPoint d = x.target →
      ∃ t, exec (.dvfsVoltageSettled d) s = .next t ∧
        t.dvfs d = { x with effective := x.target, clock := x.target, busy := false } ∧
        t.getReg .PWR_TRANSITIONS [] = (statAdd (s.getReg .PWR_TRANSITIONS []) 1).1 ∧ t.mem = s.mem) ∧
    (x.busy = true → x.pllDone = false → x.voltDone = false → x.target < x.effective →
      (∃ t, exec (.dvfsPllLocked d) s = .next t ∧ t.dvfs d = { x with pllDone := true } ∧ { t with clk := s.clk } = s) ∧
      (∃ t, exec (.dvfsVoltageSettled d) s = .next t ∧ t.dvfs d = { x with voltDone := true } ∧
        { t with clk := s.clk } = s)) ∧
    (x.busy = true → x.pllDone = false → x.voltDone = true → x.target < x.effective → s.wantedPoint d = x.target →
      ∃ t, exec (.dvfsPllLocked d) s = .next t ∧
        t.dvfs d = { x with effective := x.target, clock := x.target, busy := false, pllDone := true } ∧
        t.getReg .PWR_TRANSITIONS [] = (statAdd (s.getReg .PWR_TRANSITIONS []) 1).1) ∧
    (x.busy = false → exec (.dvfsPllLocked d) s = .next s ∧ exec (.dvfsVoltageSettled d) s = .next s)

/-- R600, R601, R602, R603, R617, R621: a sample puts the rails into PWR_RAIL_STATUS; a rail out of its window for 5 us,
or V3P3_AUX for 20 us, is fatal; the sample that first finds every rail in its window after PSC_PG ends power-up with
the PLLs banked. VIN out of its window is fatal, and below 30 V or above 64 V the rails shut down. A telemetry frame
fills PWR_INPUT; five missing ones, or PSC_FLT_N, are fatal while PSC_EN is asserted; PSC_PG then puts VIB in its
window. -/
def Obligations.Supplies : Prop :=
  ∀ (s : State) (w x b since : Nat) (flt : Bool), s.sup.recovery ≠ .resetHeld → w < 2 ^ 14 →
    (s.clk.railsUp = false → w ≠ 2 ^ 14 - 1 ∨ s.clk.pscPg = false → ∃ t, exec (.railSample w x) s = .next t ∧
      t.getReg .PWR_RAIL_STATUS [] = BitVec.ofNat 64 w ∧ t.clk.railsUp = false ∧ { t with clk := s.clk, regs := s.regs } = s) ∧
    (s.clk.railsUp = false → w = 2 ^ 14 - 1 → s.clk.pscPg = true → ∃ t, exec (.railSample w x) s = .next t ∧
      t.clk.railsUp = true ∧ t.clk.banked = true ∧ t.getReg .CLK_PLL_STATUS [] = 0 ∧ (s.wch.tests = [] → t.mem = s.mem)) ∧
    (s.clk.railsUp = true → w = 2 ^ 14 - 1 → ∃ t, exec (.railSample w x) s = .next t ∧
      t.getReg .PWR_RAIL_STATUS [] = BitVec.ofNat 64 w ∧ { t with clk := s.clk, regs := s.regs } = s) ∧
    (s.clk.railsUp = true → 1 ≤ b → b < 14 → w = 2 ^ 14 - 1 - 2 ^ b → s.regFld .PWR_SMOULDER [] 0 2 = 0 →
      tget s.clk.railOut b = some since → tget s.clk.railOut (100 + b) = none →
      (if b = 1 then 20 else 5) ≤ s.aonUs - since → s.sup.phase ≠ .ash → s.wch.fatal = none →
      ∃ t r, exec (.railSample w x) s = .next t ∧ t.sup.phase = .ash ∧ t.wch.fatal = some r ∧ r.src = .pwr ∧
        r.sev = .fatal ∧ r.code = if b = 1 then 0x07 else 0x06) ∧
    (x < 4000 ∨ 6000 < x → s.clk.railsUp = true → s.sup.phase ≠ .ash → s.wch.fatal = none →
      ∃ t r, exec (.vinOutOfWindow x) s = .next t ∧ t.sup.phase = .ash ∧ t.regFld .PWR_RAIL_STATUS [] 0 1 = 0 ∧
        t.wch.fatal = some r ∧ r.src = .pwr ∧ r.code = 0x05 ∧
        t.clk.railsUp = (decide (3000 ≤ x) && decide (x ≤ 6400)) ∧ (t.clk.railsUp = false → t.mem.cells = [])) ∧
    (∀ y, w < 2 ^ 14 → y < 2 ^ 16 → ∃ t, exec (.pscTlmFrame w y flt) s = .next t ∧ t.regFld .PWR_INPUT [] 0 16 = w ∧
      t.regFld .PWR_INPUT [] 16 16 = y ∧ t.regFld .PWR_INPUT [] 32 16 = s.regFld .PWR_INPUT [] 32 16 ∧
      t.clk.frames = s.clk.frames + 1 ∧ t.clk.pscFault = flt ∧ { t with clk := s.clk, regs := s.regs } = s) ∧
    (∀ c, c = .pscTlmMissing ∨ c = .pscFault →
      (s.clk.pscEn = true → s.sup.phase ≠ .ash → s.wch.fatal = none → ∃ t r, exec c s = .next t ∧ t.sup.phase = .ash ∧
        t.clk.frames = 0 ∧ t.clk.pscEn = true ∧ t.wch.fatal = some r ∧ r.src = .pwr ∧ r.code = 0x0C) ∧
      (s.clk.pscEn = false → ∃ t, exec c s = .next t ∧ t.clk.frames = 0 ∧ { t with clk := s.clk } = s)) ∧
    (s.clk.pscEn = true → ∃ t, exec .pscPowerGood s = .next t ∧ t.clk.pscPg = true ∧
      t.regFld .PWR_RAIL_STATUS [] 3 1 = 1 ∧ { t with clk := s.clk, regs := s.regs } = s) ∧
    (s.clk.pscEn = false → exec .pscPowerGood s = .next s)

/-- R606, R618: a reading shows in PWR_DIE_TEMP; at throttle_c the clamp engages one point slower with PWR_OP_CLAMP, at
100 °C the die goes to P7 with PWR_DIE_HOT; the clamp moves one point each 1 ms and lifts one once the die has been cool
for 10 ms; at 110 °C once, or 105 °C for 100 us, the device enters the ash state on PWR_DIE_OVERTEMP; the hearth die
knows only that. -/
def Obligations.ThermalLimits : Prop :=
  ∀ (s : State) (d k : Nat) (y : Int) (x : Therm), s.sup.recovery ≠ .resetHeld → d < 3 → s.clk.therm.length = 3 →
    s.clk.dvfs.length = 2 → x = s.therm d →
    (k < 32 → -32768 ≤ y → y < 1600 → y < 16 * (s.regFld .PWR_THERM_CFG [] 0 7 : Nat) →
      ∃ t, exec (.dieTempSample d (some y) k 0) s = .next t ∧ t.regFld .PWR_DIE_TEMP [d] 0 16 = ofSigned 16 y ∧
        t.regFld .PWR_DIE_TEMP [d] 16 5 = k ∧ (t.therm d).reading = y ∧ (t.therm d).above = false ∧
        (d < 2 → (t.therm d).clamp = x.clamp) ∧ t.wch = s.wch ∧ t.mem = s.mem) ∧
    (k < 32 → d < 2 → x.clamp = 0 → y < 1600 → 16 * (s.regFld .PWR_THERM_CFG [] 0 7 : Nat) ≤ y → s.logRoom = true →
      ∃ t r, exec (.dieTempSample d (some y) k 0) s = .next t ∧ (t.therm d).clamp = min 7 ((s.dvfs d).effective + 1) ∧
        (t.therm d).above = true ∧ t.lastRecord = some r ∧ r.src = .pwr ∧ r.sev = .corrected ∧ r.code = 0x01 ∧
        r.die = d ∧ t.mem = s.mem) ∧
    (d < 2 → x.clamp ≠ 0 → x.hot = false → 1600 ≤ y → y < 1680 → s.boundGroves = [] → s.logRoom = true →
      ∃ t r, exec (.dieTempSample d (some y) k 0) s = .next t ∧ (t.therm d).hot = true ∧ t.wantedPoint d = 7 ∧
        t.lastRecord = some r ∧ r.src = .pwr ∧ r.sev = .deferred ∧ r.code = 0x02 ∧ r.die = d) ∧
    (1760 ≤ y ∨ 1680 ≤ y ∧ (∃ o, x.overSince = some o ∧ 100 ≤ s.aonUs - o) → s.sup.phase ≠ .ash → s.wch.fatal = none →
      ∃ t r, exec (.dieTempSample d (some y) k 0) s = .next t ∧ t.sup.phase = .ash ∧ t.sup.thermLow = true ∧
        t.wch.fatal = some r ∧ r.src = .pwr ∧ r.sev = .fatal ∧ r.code = 0x03 ∧ r.die = d) ∧
    (∀ o, d < 2 → x.badSince = some o → 1000 ≤ s.aonUs - o → x.fault = false → s.boundGroves = [] → s.logRoom = true →
      ∃ t r, exec (.dieTempSample d none k 0) s = .next t ∧ (t.therm d).fault = true ∧ t.lastRecord = some r ∧ r.src = .pwr ∧
        r.sev = .deferred ∧ r.code = 0x0B) ∧
    (d < 2 → x.clamp ≠ 0 →
      (x.above = true → ∃ t, exec (.thermalClampStep d) s = .next t ∧ (t.therm d).clamp = min 7 (x.clamp + 1) ∧
        { t with clk := s.clk } = s) ∧
      (∀ o, x.above = false → x.coolSince = some o → 10000 ≤ s.aonUs - o →
        ∃ t, exec (.thermalClampStep d) s = .next t ∧ (t.therm d).clamp = x.clamp - 1 ∧ { t with clk := s.clk } = s))

/-- R619: a write of PWR_THERM_CFG sets throttle_c, which resets to 0x5F; a write outside 80 to 100 is discarded with
PWR_CONFIG (0x0A). -/
def Obligations.ThermalConfigWrite : Prop :=
  State.reset.getReg .PWR_THERM_CFG [] = 0x5F#64 ∧
  ∀ (s : State) (v : Word), s.sup.recovery ≠ .resetHeld → s.sup.phase ≠ .ash →
    (80 ≤ wfld v 0 7 → wfld v 0 7 ≤ 100 → ∃ t, exec (.pwrThermCfgWrite v) s = .next t ∧
      t.regFld .PWR_THERM_CFG [] 0 7 = wfld v 0 7 ∧
      (∀ a, a ≠ regAddr .PWR_THERM_CFG [] → tget t.regs a = tget s.regs a) ∧ { t with regs := s.regs } = s) ∧
    (wfld v 0 7 < 80 ∨ 100 < wfld v 0 7 → s.logRoom = true →
      ∃ t r, exec (.pwrThermCfgWrite v) s = .next t ∧
        t.getReg .PWR_THERM_CFG [] = s.getReg .PWR_THERM_CFG [] ∧
        tget t.wch.log (s.regFld .WCH_LOG_HEAD [] 0 32 % 1024) = some r ∧ r.src = .pwr ∧ r.sev = .contained ∧ r.code = 0x0A ∧ t.clk = s.clk ∧ t.mem = s.mem ∧ t.grv = s.grv)

/-- R607, R608, R616, R617: an average above an enabled cap moves both dies' cap clamps one point slower, and the first
of an episode records PWR_CAP_EXCEEDED; ten averages in a row below 95 % of it lift the clamps one point. A cap below
600 W is discarded with PWR_CONFIG. An input overcurrent engages the droop clamp, is counted and recorded; the release
lifts it. -/
def Obligations.PowerLimits : Prop :=
  ∀ (s : State) (w a b : Nat) (v : Word), s.sup.recovery ≠ .resetHeld → w < 2 ^ 16 → s.clk.capClamp = [a, b] →
    s.clk.dvfs.length = 2 →
    (s.regFld .PWR_CAP [] 63 1 = 0 → ∃ t, exec (.powerCapAverage w) s = .next t ∧ t.regFld .PWR_INPUT [] 32 16 = w ∧
      { t with regs := s.regs } = s) ∧
    (s.regFld .PWR_CAP [] 63 1 = 1 → s.regFld .PWR_CAP [] 0 16 < w → ∃ t, exec (.powerCapAverage w) s = .next t ∧
      t.regFld .PWR_INPUT [] 32 16 = w ∧
      t.clk.capClamp = [min 7 ((if a = 0 then (s.dvfs 0).effective else a) + 1),
        min 7 ((if b = 0 then (s.dvfs 1).effective else b) + 1)] ∧ t.clk.capLow = 0 ∧ t.mem = s.mem ∧
      (a = 0 → b = 0 → s.logRoom = true → ∃ r, t.lastRecord = some r ∧ r.src = .pwr ∧ r.sev = .corrected ∧ r.code = 0x04) ∧
      (a ≠ 0 ∨ b ≠ 0 → t.wch = s.wch)) ∧
    (s.regFld .PWR_CAP [] 63 1 = 1 → w * 100 < s.regFld .PWR_CAP [] 0 16 * 95 → s.clk.capLow = 9 →
      ∃ t, exec (.powerCapAverage w) s = .next t ∧ t.clk.capClamp = [a - 1, b - 1] ∧
        { t with clk := s.clk, regs := s.regs } = s) ∧
    (s.sup.phase ≠ .ash → (600 ≤ wfld v 0 16 → ∃ t, exec (.pwrCapWrite v) s = .next t ∧
        t.getReg .PWR_CAP [] = accessWrite .PWR_CAP (s.getReg .PWR_CAP []) v ∧
        t.clk.capClamp = (if v.getLsbD 63 then [a, b] else [0, 0]) ∧ { t with clk := s.clk, regs := s.regs } = s) ∧
      (wfld v 0 16 < 600 → s.boundGroves = [] → s.logRoom = true → ∃ t r, exec (.pwrCapWrite v) s = .next t ∧
        t.getReg .PWR_CAP [] = s.getReg .PWR_CAP [] ∧ t.clk = s.clk ∧ t.lastRecord = some r ∧ r.src = .pwr ∧
        r.sev = .contained ∧ r.code = 0x0A)) ∧
    ((statAdd (s.getReg .PWR_DROOP []) 1).2 = false → s.logRoom = true → ∃ t r, exec .inputOvercurrent s = .next t ∧
      t.clk.droop = true ∧ t.wantedPoint 0 = 7 ∧ t.wantedPoint 1 = 7 ∧ t.lastRecord = some r ∧ r.src = .pwr ∧
      r.sev = .corrected ∧ r.code = 0x08 ∧ t.getReg .PWR_DROOP [] = (statAdd (s.getReg .PWR_DROOP []) 1).1) ∧
    (∃ t, exec .droopRelease s = .next t ∧ t.clk.droop = false ∧ { t with clk := s.clk } = s)

/-- R605, R620: enter is accepted in service when every bound grove is CLOSED and no batch, firing, restore, map-out,
repair or field test runs, and refused with PWR_SMOULDER_REFUSED otherwise; a write with both bits set is discarded.
Entry ends in the smoulder phase with everything retained; leave completes in service once a reference is GOOD, every
PLL locked and the in-package links up. -/
def Obligations.Smoulder : Prop :=
  ∀ (s : State) (v : Word), s.sup.recovery ≠ .resetHeld → s.sup.phase ≠ .ash →
    (v.getLsbD 62 = false → s.regFld .PWR_SMOULDER [] 0 2 = 0 → s.mayEnter = true →
      ∃ t, exec (.pwrSmoulderEnter v) s = .next t ∧ t.regFld .PWR_SMOULDER [] 0 2 = 1 ∧ t.sup.phase = .service ∧
        (∀ p ∈ allPorts, (t.port p).st = .disabled) ∧ t.mem = s.mem ∧ t.clk = s.clk) ∧
    (v.getLsbD 62 = false → s.mayEnter = false → s.boundGroves = [] → s.logRoom = true →
      ∃ t r, exec (.pwrSmoulderEnter v) s = .next t ∧
        t.regFld .PWR_SMOULDER [] 0 2 = s.regFld .PWR_SMOULDER [] 0 2 ∧ t.lastRecord = some r ∧ r.src = .pwr ∧
        r.sev = .contained ∧ r.code = 0x09 ∧ t.lnk = s.lnk ∧ t.clk = s.clk) ∧
    (v.getLsbD 62 = true → exec (.pwrSmoulderEnter v) s = .next s) ∧
    (v.getLsbD 63 = true → exec (.pwrSmoulderLeave v) s = .next s) ∧
    (s.sup.phase = .service → s.regFld .PWR_SMOULDER [] 0 2 = 1 → ∃ t, exec .smoulderEntryDone s = .next t ∧ t.sup.phase = .smoulder ∧
      t.regFld .PWR_SMOULDER [] 0 2 = 2 ∧ t.mem = s.mem ∧ t.grv = s.grv ∧ t.sch = s.sch ∧ t.emb = s.emb ∧ t.til = s.til ∧
      t.hrt = s.hrt) ∧
    (s.regFld .PWR_SMOULDER [] 0 2 = 2 → v.getLsbD 63 = false → ∃ t, exec (.pwrSmoulderLeave v) s = .next t ∧
      t.regFld .PWR_SMOULDER [] 0 2 = 3 ∧ { t with regs := s.regs } = s) ∧
    (s.sup.phase = .smoulder → s.regFld .PWR_SMOULDER [] 0 2 = 3 → s.refGood 0 = true ∨ s.refGood 1 = true →
      s.getReg .CLK_PLL_STATUS [] = BitVec.ofNat 64 0x3FF → s.ucieUp = true →
      ∃ t, exec .smoulderExitDone s = .next t ∧ t.sup.phase = .service ∧ t.regFld .PWR_SMOULDER [] 0 2 = 0 ∧
        t.mem = s.mem ∧ t.grv.groves = s.grv.groves) ∧
    (s.regFld .PWR_SMOULDER [] 0 2 = 3 → s.ucieUp = false → exec .smoulderExitDone s = .next s)

/-! ## Statements about heartwood, start-up and the package (ch. 20 to 23) -/

/-- R650, R652, R668, R669: SERVICE takes a kindling device into service when every condition of R652 holds, with SVC_N
low and result OK; otherwise it ends with result STATE and the record GLB_RECOVER_REFUSED. FORCE_ASH outside the ash
state writes the fatal record GLB_FORCED_ASH and enters it. While busy is 1 every operation is discarded with result
BUSY. -/
def Obligations.ServiceAndForceAsh : Prop :=
  ∀ (s : State) (v : Word), s.sup.recovery ≠ .resetHeld →
    (s.regFld .GLB_RECOVER [] 40 1 = 0 →
      (s.mayServe = true → ∃ t, exec (.service v) s = .next t ∧ t.sup.phase = .service ∧ t.sup.svcLow = true ∧
        t.regFld .GLB_RECOVER [] 48 8 = 0 ∧ t.regFld .GLB_RECOVER [] 41 1 = 1 ∧ t.regFld .GLB_RECOVER [] 40 1 = 0 ∧
        { t with sup := s.sup, regs := s.regs } = s) ∧
      (s.mayServe = false → s.logRoom = true → ∃ t r, exec (.service v) s = .next t ∧ t.sup.phase = s.sup.phase ∧
        t.regFld .GLB_RECOVER [] 48 8 = 2 ∧ t.lastRecord = some r ∧ r.src = .glb ∧ r.sev = .contained ∧ r.code = 0x02 ∧
        t.mem = s.mem ∧ t.grv = s.grv ∧ t.hrt = s.hrt) ∧
      (s.sup.phase ≠ .ash → s.wch.fatal = none → ∃ t r, exec (.forceAsh v) s = .next t ∧ t.sup.phase = .ash ∧
        t.sup.faultLow = true ∧ t.sup.svcLow = false ∧ t.wch.fatal = some r ∧ r.src = .glb ∧ r.sev = .fatal ∧ r.code = 0x01) ∧
      (s.sup.phase = .ash → ∃ t, exec (.forceAsh v) s = .next t ∧ t.regFld .GLB_RECOVER [] 48 8 = 2 ∧ t.mem = s.mem)) ∧
    (∀ c, s.regFld .GLB_RECOVER [] 40 1 = 1 → c = .service v ∨ c = .recover v ∨ c = .warmReset v ∨ c = .coldReset v ∨
        c = .groveReset v ∨ c = .forceAsh v →
      ∃ t, exec c s = .next t ∧ t.regFld .GLB_RECOVER [] 48 8 = 1 ∧ t.regFld .GLB_RECOVER [] 40 1 = 1 ∧
        (∀ a, a ≠ regAddr .GLB_RECOVER [] → tget t.regs a = tget s.regs a) ∧ { t with regs := s.regs } = s)

/-- R653, R654, R655, R669: a warm reset in kindling or service closes every grove at its last committed step, attempt
0, returns the queues and tenant sessions, keeps the bindings, the tables and the Kiln plans, and ends with result OK in
the same phase; in any other phase it is refused with STATE.

R653, R654, R656, R669: a grove reset in service closes the grove at its last committed step, attempt 0, and keeps every
binding; one that meets a batch is held until the batch ends, with busy set; on an unbound grove it is refused with
STATE. -/
def Obligations.WarmAndGroveResets : Prop :=
  (∀ (s : State) (v : Word), s.sup.recovery ≠ .resetHeld → s.regFld .GLB_RECOVER [] 40 1 = 0 →
    (s.sup.phase = .kindling ∨ s.sup.phase = .service → s.clk.active = 0 → s.clk.prev = none → s.clk.switching = none →
      ∃ t, exec (.warmReset v) s = .next t ∧ t.sup.phase = s.sup.phase ∧ t.regFld .GLB_RECOVER [] 48 8 = 0 ∧
        t.regFld .GLB_RECOVER [] 41 1 = 1 ∧
        (∀ g, g < 16 → (t.step_ g).st = .closed ∧ (t.step_ g).step = (s.step_ g).committedStep ∧ (t.step_ g).attempt = 0) ∧
        t.hrt.queues = [] ∧ t.hrt.sessions = [] ∧ t.hrt.qps = [] ∧ t.hrt.regions = [] ∧ t.grv.groves = s.grv.groves ∧
        t.emb.slots = s.emb.slots ∧ t.kln.plans = s.kln.plans ∧ t.grv.batch = none) ∧
    (s.sup.phase = .smoulder ∨ s.sup.phase = .ash → s.logRoom = true → ∃ t r, exec (.warmReset v) s = .next t ∧
      t.regFld .GLB_RECOVER [] 48 8 = 2 ∧ t.lastRecord = some r ∧ r.src = .glb ∧ r.code = 0x02 ∧ t.mem = s.mem ∧
      t.grv = s.grv ∧ t.hrt = s.hrt ∧ t.col = s.col)) ∧
  (∀ (s : State) (v : Word) (g : Nat), s.sup.recovery ≠ .resetHeld → s.regFld .GLB_RECOVER [] 40 1 = 0 → g = wfld v 32 4 →
    (s.sup.phase = .service → s.islandsRun = true → (s.grove g).bound = true → s.batchRuns = false →
      ∃ t, exec (.groveReset v) s = .next t ∧ (t.step_ g).st = .closed ∧ (t.step_ g).step = (s.step_ g).committedStep ∧
        (t.step_ g).attempt = 0 ∧ (∀ h, h ≠ g → (t.step_ h).st = (s.step_ h).st ∧ (t.step_ h).step = (s.step_ h).step) ∧
        t.grv.groves = s.grv.groves ∧ t.emb.slots = s.emb.slots ∧ t.kln.plans = s.kln.plans ∧
        t.regFld .GLB_RECOVER [] 48 8 = 0 ∧ t.regFld .GLB_RECOVER [] 41 1 = 1 ∧ t.sup.phase = .service) ∧
    (s.sup.phase = .service → (s.grove g).bound = true → s.batchRuns = true → ∃ t, exec (.groveReset v) s = .next t ∧
      t.sup.heldGroveResets = [g] ∧ t.regFld .GLB_RECOVER [] 40 1 = 1 ∧ { t with sup := s.sup, regs := s.regs } = s) ∧
    (s.sup.phase ≠ .service ∨ (s.grove g).bound = false → s.logRoom = true → ∃ t r, exec (.groveReset v) s = .next t ∧
      t.regFld .GLB_RECOVER [] 48 8 = 2 ∧ t.lastRecord = some r ∧ r.src = .glb ∧ r.code = 0x02 ∧ t.col = s.col ∧
      t.mem = s.mem))

/-- R653, R654, R667: what starts a cold reset: op COLD_RESET, V3P3_AUX coming up, RESET_N low for 10 us or longer, and
VIN coming back after the rails were shut down. It leaves every register, grove and memory byte at its reset value and
keeps heartwood's NVM; a pulse below 1 us has no effect, and RESET_N's rise samples the strap. -/
def Obligations.ColdReset : Prop :=
  ∀ (s : State) (v : Word) (strap us : Nat),
    (s.sup.recovery ≠ .resetHeld → s.regFld .GLB_RECOVER [] 40 1 = 0 → ∃ t, exec (.coldReset v) s = .next t ∧
      t.regs = [] ∧ t.sup = {} ∧ t.grv = {} ∧ t.hrt = {} ∧ t.wch = {} ∧ t.clk = {} ∧ t.mem.cells = [] ∧
      t.hwd.rollback = s.hwd.rollback ∧ t.hwd.lmsIndex = s.hwd.lmsIndex ∧ t.hwd.stage = 0 ∧ t.pending = s.pending) ∧
    (∃ t, exec (.auxSupplyUp strap) s = .next t ∧ t.sup.phase = .kindling ∧ t.grv = {} ∧ t.mem.cells = [] ∧
      t.getReg .PWR_RAIL_STATUS [] = 6#64 ∧ t.pkg.strap = strap ∧ t.hwd.rollback = s.hwd.rollback ∧
      (∀ a, a ≠ regAddr .PWR_RAIL_STATUS [] → tget t.regs a = none)) ∧
    (10 ≤ us → ∃ t, exec (.resetNLow us) s = .next t ∧ t.sup.phase = .kindling ∧ t.sup.recovery = .resetHeld ∧ t.regs = [] ∧
      t.grv = {} ∧ t.mem.cells = [] ∧ t.hwd.rollback = s.hwd.rollback) ∧
    (exec (.resetNLow 0) s = .next s) ∧
    (0 < us → us < 10 → ∃ t, exec (.resetNLow us) s = .next t ∧
      (t = { s with freeCtr := s.freeCtr + 1 } ∨ t = { s with freeCtr := s.freeCtr + 1 }.coldReset)) ∧
    (s.sup.resetNLow = true → ∃ t, exec (.resetNRelease strap) s = .next t ∧ t.sup.recovery = .idle ∧ t.pkg.strap = strap ∧
      { t with sup := s.sup, pkg := s.pkg } = s) ∧
    (s.sup.resetNLow = false → exec (.resetNRelease strap) s = .next s) ∧
    (s.sup.recovery ≠ .resetHeld → s.clk.shutDown = false → ∃ t, exec .vinInWindow s = .next t ∧ t.clk.pscEn = true ∧
      t.regFld .PWR_RAIL_STATUS [] 0 1 = 1 ∧ { t with clk := s.clk, regs := s.regs } = s) ∧
    (s.sup.recovery ≠ .resetHeld → s.clk.shutDown = true → ∃ t, exec .vinInWindow s = .next t ∧ t.clk.pscEn = true ∧
      t.getReg .PWR_RAIL_STATUS [] = 7#64 ∧ t.sup.phase = .kindling ∧ t.grv = {} ∧ t.mem.cells = [])

/-- R663, R664, R669: RECOVER in the ash state with every cause cleared resets the compute dies and starts training once
a reference is GOOD, and waits for one otherwise; with a cause left it ends with result CAUSE, outside the ash state
with STATE. Once the in-package links are trained the device is in service: the outputs are released, WCH_FATAL is free,
the result is OK, and every grove is unbound when a cause was of the control-state class.

R91, R596: with a reference GOOD every PLL relocks and the device is no longer banked; without one nothing changes. In
kindling, links whose modules train on their lanes come up. -/
def Obligations.Recovery : Prop :=
  (∀ (s : State) (v : Word) (a b c : Nat × Nat), s.sup.recovery ≠ .resetHeld →
    (s.regFld .GLB_RECOVER [] 40 1 = 0 → s.sup.phase = .ash →
      (s.sup.causes.all (fun c => s.causeCleared c) = true → ∃ t, exec (.recover v) s = .next t ∧ t.sup.phase = .ash ∧
        t.sup.recovery = (if s.refGood 0 || s.refGood 1 then .training else .waitReference) ∧
        (s.refGood 0 || s.refGood 1 → t.clk.banked = false ∧ t.getReg .CLK_PLL_STATUS [] = 0x3FF#64) ∧
        t.regFld .GLB_RECOVER [] 40 1 = 1 ∧ t.hrt.queues = [] ∧ t.grv.groves = s.grv.groves) ∧
      (s.sup.causes.all (fun c => s.causeCleared c) = false → s.logRoom = true → ∃ t r, exec (.recover v) s = .next t ∧
        t.regFld .GLB_RECOVER [] 48 8 = 3 ∧ t.lastRecord = some r ∧ r.src = .glb ∧ r.sev = .contained ∧ r.code = 0x02 ∧
        t.mem = s.mem ∧ t.sup.phase = .ash)) ∧
    (s.regFld .GLB_RECOVER [] 40 1 = 0 → s.sup.phase ≠ .ash → ∃ t, exec (.recover v) s = .next t ∧
      t.regFld .GLB_RECOVER [] 48 8 = 2 ∧ t.sup.phase = s.sup.phase ∧ t.mem = s.mem) ∧
    (s.sup.phase = .ash → s.sup.recovery = .training → (s.hlkTraining a b c).ucieUp = true →
      (s.hlkTraining a b c).sup.causes = s.sup.causes → (s.hlkTraining a b c).sup.recovery = .training →
      ∃ t, exec (.hlkTrainingDone a b c) s = .next t ∧ t.sup.phase = .service ∧ t.sup.faultLow = false ∧
        t.sup.svcLow = true ∧ t.wch.fatal = none ∧ t.sup.causes = [] ∧ t.regFld .GLB_RECOVER [] 48 8 = 0 ∧
        t.regFld .GLB_RECOVER [] 40 1 = 0 ∧ t.regFld .GLB_RECOVER [] 42 1 = b2n (s.sup.causes.any controlClass) ∧
        (s.sup.causes.any controlClass = false → t.grv.groves = (s.hlkTraining a b c).grv.groves) ∧
        (s.sup.causes.any controlClass = true → ∀ g, g < 16 → (t.grove g).bound = false)) ∧
    (s.islandsRun = true → s.sup.recovery ≠ .training → exec (.hlkTrainingDone a b c) s = .next (s.hlkTraining a b c))) ∧
  (∀ (s : State) (x y z : Nat), s.sup.recovery ≠ .resetHeld → s.sup.recovery ≠ .waitReference →
    (s.refGood 0 = true ∨ s.refGood 1 = true → ∃ t, exec .pllRelocked s = .next t ∧ t.clk.banked = false ∧
      t.getReg .CLK_PLL_STATUS [] = 0x3FF#64 ∧ t.activeGood = true ∧
      (s.clk.banked = false → s.activeGood = true → t.clk.active = s.clk.active ∧ t.clk.prev = s.clk.prev) ∧
      { t with clk := s.clk, regs := s.regs } = s) ∧
    (s.refGood 0 = false → s.refGood 1 = false → exec .pllRelocked s = .next s) ∧
    (s.islandsRun = true → s.sup.recovery ≠ .training → s.sup.phase = .kindling → s.hrt.links = [] →
      x = 2 ^ modulesFitted 0 - 1 → y = 2 ^ modulesFitted 1 - 1 → z = 2 ^ modulesFitted 2 - 1 →
      ∃ t, exec (.hlkTrainingDone (x, 0) (y, 0) (z, 0)) s = .next t ∧ t.ucieUp = true ∧ t.sup.phase = .kindling ∧
        t.mem = s.mem))

/-- R628, R629: with VDD_HRT in its window heartwood boots the first copy that is not excluded. A stage 1 that passes
its checks runs and is measured into slot 0; a blank or invalid provision record then leaves it waiting with
HWD_PROVISION; with a valid one a stage 2 that passes is measured into slot 1 and hearth core 0 is released. A stage
that fails excludes its copy. Failed PUF reconstruction is fatal HWD_PUF, an uncorrectable NVM read HWD_NVM_UE. A
running heartwood does not boot again.

R628, R629: LOAD_RUNTIME from stage 2 checks stage 3 of the running set; when it passes, slot 2 is extended, the
runtime's payload lies in the hearth region and every hearth core is released. Once the runtime runs it ends with
HWD_COMMAND. -/
def Obligations.HeartwoodBoot : Prop :=
  (∀ (s : State) (a b : List Byte) (puf ue : Bool) (keyE keyL : List Byte),
    keyE = bytesAt (stageFrame a 1) 0x50 97 → keyL = bytesAt (stageFrame a 1) 0xB8 56 →
    s.sup.recovery = .idle → s.sup.phase = .kindling →
    (s.hwd.stage ≠ 0 ∨ s.hwd.excludedA = true ∧ s.hwd.excludedB = true ∨ s.regFld .PWR_RAIL_STATUS [] 8 1 = 0 →
      exec (.heartwoodBoot a b puf ue) s = .next s) ∧
    (s.hwd.stage = 0 → s.hwd.excludedA = false → s.regFld .PWR_RAIL_STATUS [] 8 1 = 1 →
      (∃ t, exec (.heartwoodBoot a b true false) s = .next t ∧
        (stageCode s.hwd.rollback a 1 ≠ 0 → t.hwd.excludedA = true) ∧
        (stageCode s.hwd.rollback a 1 = 0 → provCode keyE keyL (s.hwd.prov.getD []) ≠ 0 →
          t.hwd.stage = 1 ∧ t.hwd.running = ⟨a⟩ ∧ t.hwd.copyB = false ∧ t.hwd.provOk = false ∧ t.hwd.failCode = 0x07 ∧
          t.sup.coresUp = 0 ∧ t.hwd.slots.getD 0 [] = sha384 (List.replicate 48 0 ++ padTo 48 (sha384 (frameBody (stageFrame a 1))))) ∧
        (stageCode s.hwd.rollback a 1 = 0 → provCode keyE keyL (s.hwd.prov.getD []) = 0 → stageCode s.hwd.rollback a 2 = 0 →
          t.hwd.stage = 2 ∧ t.hwd.running = ⟨a⟩ ∧ t.hwd.provOk = true ∧ t.sup.coresUp = 1 ∧
          t.hwd.bootMem = (leAt (stageFrame a 2) 0x10 8, stagePayload a 2) ∧
          t.hwd.slots.getD 1 [] = sha384 (List.replicate 48 0 ++ padTo 48 (sha384 (frameBody (stageFrame a 2))))) ∧
        t.hwd.rollback = s.hwd.rollback ∧ t.hwd.lmsIndex = s.hwd.lmsIndex ∧ t.mem = s.mem ∧ t.grv = s.grv) ∧
      (s.wch.fatal = none → ∃ t r, exec (.heartwoodBoot a b false ue) s = .next t ∧ t.sup.phase = .ash ∧
        t.wch.fatal = some r ∧ r.src = .hwd ∧ r.code = 0x0D) ∧
      (s.wch.fatal = none → ∃ t r, exec (.heartwoodBoot a b true true) s = .next t ∧ t.sup.phase = .ash ∧
        t.wch.fatal = some r ∧ r.src = .hwd ∧ r.code = 0x0C))) ∧
  (∀ (s : State) (v : Word) (a b f : List Byte) (tag : Nat), tag = wfld v 0 16 → s.mboxTakes v 0 = true →
    f = stageFrame s.hwd.running.bytes 3 →
    (s.hwd.stage = 2 → s.hwd.slots.length = 8 → ∃ t, exec (.loadRuntime v a b) s = .next t ∧
      (stageCode s.hwd.rollback s.hwd.running.bytes 3 = 0 → t.hwd.stage = 3 ∧ t.sup.coresUp = 24 ∧
        t.hwd.slots.getD 2 [] = sha384 (s.hwd.slots.getD 2 [] ++ padTo 48 (sha384 (frameBody f))) ∧
        t.getReg .HWD_MBOX_STATUS [] = mboxDone tag 0 ∧ t.hwd.running = s.hwd.running) ∧
      (stageCode s.hwd.rollback s.hwd.running.bytes 3 ≠ 0 → s.hwd.recovery = false →
        (if s.hwd.copyB then t.hwd.excludedB else t.hwd.excludedA) = true) ∧
      t.hwd.rollback = s.hwd.rollback ∧ t.hwd.lmsIndex = s.hwd.lmsIndex) ∧
    (s.hwd.stage ≠ 2 → s.logRoom = true → ∃ t r, exec (.loadRuntime v a b) s = .next t ∧ t.hwd = s.hwd ∧ t.mem = s.mem ∧
      t.getReg .HWD_MBOX_STATUS [] = mboxDone tag 0x09 ∧ t.lastRecord = some r ∧ r.src = .hwd ∧ r.code = 0x09))

/-- R641, R642, R645: a mailbox command heartwood takes ends with its tag and result. MEASURE_EXTEND extends one of
slots 4 to 7 and refuses the others with HWD_COMMAND; IDENT_READ writes the identity record into its buffer;
ROLLBACK_COMMIT raises the counter to the running set's svn and never lowers it; PROVISION_SET keeps a newer valid
record for the next cold reset. A command that meets a busy mailbox, or heartwood not running, changes nothing of it. -/
def Obligations.MailboxCommands : Prop :=
  ∀ (s s1 : State) (v : Word) (o tag k : Nat) (ue : Bool) (a b : List Byte), o = s.mboxAt → tag = wfld v 0 16 → s1 = s.mboxTaken v →
    (s.mboxTakes v 0x100 = true → k = leAt (s.hearthRead o 56) 0 1 →
      (4 ≤ k → k ≤ 7 → s.hwd.slots.length = 8 → ∃ t, exec (.measureExtend v) s = .next t ∧
        t.getReg .HWD_MBOX_STATUS [] = mboxDone tag 0 ∧
        t.hwd.slots.getD k [] = sha384 (s.hwd.slots.getD k [] ++ padTo 48 (bytesAt (s.hearthRead o 56) 8 48)) ∧
        (∀ j, j ≠ k → t.hwd.slots.getD j [] = s.hwd.slots.getD j []) ∧ { t with hwd := s.hwd, regs := s.regs } = s) ∧
      (k < 4 ∨ 7 < k → s.logRoom = true → ∃ t r, exec (.measureExtend v) s = .next t ∧
        t.getReg .HWD_MBOX_STATUS [] = mboxDone tag 0x09 ∧ t.hwd = s.hwd ∧ t.mem = s.mem ∧ t.lastRecord = some r ∧
        r.src = .hwd ∧ r.sev = .contained ∧ r.code = 0x09)) ∧
    (s.mboxTakes v (0x100 + 0x84C) = true → ∃ t, exec (.identRead v false) s = .next t ∧
      t.getReg .HWD_MBOX_STATUS [] = mboxDone tag 0 ∧ t.hwd = s.hwd ∧
      t.mem = (s1.writeLocal .hearth (o + 0x100) identityFrame).1.mem) ∧
    (s.mboxTakes v 0x104 = true → ∃ t, exec (.rollbackCommit v false) s = .next t ∧
      t.getReg .HWD_MBOX_STATUS [] = mboxDone tag 0 ∧ t.hwd = { s.hwd with rollback := max s.hwd.rollback s.hwd.svn }) ∧
    (s.mboxTakes v 0x84C = true → ∃ (t : State) (f : List Byte), exec (.provisionSet v false) s = .next t ∧
      f = s.hearthRead o 0x84C ∧ t.mem = s.mem ∧
      (provCode s.vendorKeys.1 s.vendorKeys.2 f = 0 → (∀ n, s.storedSeq = some n → n < leAt f 8 4) →
        t.hwd = { s.hwd with provPending := some (f.take 0x84C) } ∧ t.getReg .HWD_MBOX_STATUS [] = mboxDone tag 0) ∧
      (provCode s.vendorKeys.1 s.vendorKeys.2 f ≠ 0 → t.hwd = s.hwd ∧
        t.getReg .HWD_MBOX_STATUS [] = mboxDone tag (provCode s.vendorKeys.1 s.vendorKeys.2 f)) ∧
      (∀ n, provCode s.vendorKeys.1 s.vendorKeys.2 f = 0 → s.storedSeq = some n → leAt f 8 4 ≤ n → t.hwd = s.hwd ∧
        t.getReg .HWD_MBOX_STATUS [] = mboxDone tag 0x07)) ∧
    (s.mboxTakes v (0x100 + 0x84C) = true → s.wch.fatal = none → ∃ t r, exec (.identRead v true) s = .next t ∧
      t.sup.phase = .ash ∧ t.wch.fatal = some r ∧ r.src = .hwd ∧ r.code = 0x0C) ∧
    (∀ c, c = .measureExtend v ∨ c = .identRead v ue ∨ c = .rollbackCommit v ue ∨ c = .provisionSet v ue ∨
        c = .attest v ue ∨ c = .loadRuntime v a b →
      (s.hwd.stage = 0 → exec c s = .next s) ∧
      (s.sup.phase ≠ .ash → s.hwd.stage ≠ 0 → v.getLsbD 63 = true → s.mboxBusy = true → s.logRoom = true →
        ∃ t r, exec c s = .next t ∧ t.hwd = s.hwd ∧ t.mem = s.mem ∧ t.lastRecord = some r ∧ r.src = .hwd ∧
          r.sev = .contained ∧ r.code = 0x09 ∧ t.getReg .HWD_MBOX_STATUS [] = s.getReg .HWD_MBOX_STATUS []))

/-- R638, R639, R640: ATTEST spends one LMS leaf and writes its report and signatures into the buffer; with every leaf
spent it ends with HWD_LMS_EXHAUSTED, for an unbound grove with HWD_GROVE, and it waits for a batch that changes its
grove.

R640: an ATTEST whose request names a grove that is unbound, or that a batch is changing. -/
def Obligations.Attestation : Prop :=
  (∀ (s s1 : State) (v : Word) (o tag g : Nat) (req : List Byte), o = s.mboxAt → tag = wfld v 0 16 → s1 = s.mboxTaken v →
    s.mboxTakes v (0x100 + 2508) = true → req = s.hearthRead o 120 → g = leAt req 0 1 % 16 → leAt req 0 1 < 32 →
    (16 ≤ leAt req 0 1 → (s.grove g).bound = true ∧ s.loadPending g = false) →
    (s.hwd.lmsIndex < 2 ^ 20 → ∃ t sig, exec (.attest v false) s = .next t ∧
      t.hwd = { s.hwd with lmsIndex := s.hwd.lmsIndex + 1 } ∧ t.getReg .HWD_MBOX_STATUS [] = mboxDone tag 0 ∧
      t.mem = ({ s1 with hwd := { s.hwd with lmsIndex := s.hwd.lmsIndex + 1 }, freeCtr := s.freeCtr + 1 }.writeLocal .hearth
        (o + 0x100) (s1.reportBytes req g (decide (16 ≤ leAt req 0 1)) ++ sig)).1.mem ∧
      sig.length = 1868) ∧
    (2 ^ 20 ≤ s.hwd.lmsIndex → s.logRoom = true → ∃ t r, exec (.attest v false) s = .next t ∧ t.hwd = s.hwd ∧ t.mem = s.mem ∧
      t.getReg .HWD_MBOX_STATUS [] = mboxDone tag 0x08 ∧ t.lastRecord = some r ∧ r.src = .hwd ∧ r.code = 0x08)) ∧
  (∀ (s : State) (v : Word) (tag g : Nat) (req : List Byte), tag = wfld v 0 16 → s.mboxTakes v (0x100 + 2508) = true →
    req = s.hearthRead s.mboxAt 120 → g = leAt req 0 1 % 16 → 16 ≤ leAt req 0 1 → leAt req 0 1 < 32 →
    (s.loadPending g = false → (s.grove g).bound = false → s.logRoom = true → ∃ t r, exec (.attest v false) s = .next t ∧
      t.hwd = s.hwd ∧ t.mem = s.mem ∧ t.getReg .HWD_MBOX_STATUS [] = mboxDone tag 0x0A ∧ t.lastRecord = some r ∧
      r.src = .hwd ∧ r.code = 0x0A) ∧
    (s.loadPending g = true → ∃ t, exec (.attest v false) s = .next t ∧ t.hwd = { s.hwd with attWait := some (s.mboxAt, tag) } ∧
      t.mboxBusy = true ∧ t.mem = s.mem))

/-- R681, R682, R685: over SMBus REG_READ answers the 8 bytes of a permitted register, and status 0x01 for any other
offset; REG_WRITE writes GLB_RECOVER, WCH_LOG_TAIL and WCH_LOG_STATE and nothing else, with the effect a hearth core's
write has. IMG_STATUS answers the status of the reception. The target does not answer while RESET_N is low.

R682, R683: an image is taken only while heartwood waits for its kind: IMG_BEGIN starts the reception of a length that
fits, IMG_DATA puts bytes at their offsets, IMG_END with a wrong crc refuses the image, and with the right one checks a
provision record as PROVISION_SET does. Outside its state a command answers status 0x02.

R660, R684: while ALERT_N is low a read of the Alert Response Address is answered with the target's own address, and
releases ALERT_N except in the ash state; while it is high nothing answers. -/
def Obligations.ManagementTarget : Prop :=
  (∀ (s : State) (off : Nat) (v : Word),
    (s.sup.recovery ≠ .resetHeld →
      (∀ r ix, alwaysAnswers off = true → off % 8 = 0 → regAt off = some (r, ix) →
        exec (.smbusRegRead off) s = .next { s with outbox := s.outbox ++ [.smbus (toLe 8
          (s.regValue r ix &&& ~~~(BitVec.ofNat 64 (accMask r fun a => a == .wo))).toNat)] }) ∧
      (alwaysAnswers off = false → exec (.smbusRegRead off) s = .next { s with outbox := s.outbox ++ [.smbus [1#8]] }) ∧
      (off ≠ 0x18 → off ≠ 0x30008 → off ≠ 0x30010 → exec (.smbusRegWrite off v) s = .next s) ∧
      (off = 0x18 ∨ off = 0x30008 ∨ off = 0x30010 → exec (.smbusRegWrite off v) s = exec (.registerWrite off 8 v) s) ∧
      (v.getLsbD 63 = true → wfld v 0 3 = 2 → exec (.smbusRegWrite 0x18 v) s = exec (.recover v) s) ∧
      exec .smbusImgStatus s = .next { s with outbox := s.outbox ++ [.smbus [BitVec.ofNat 8 s.pkg.imgStatus]] }) ∧
    (s.sup.recovery = .resetHeld → exec (.smbusRegRead off) s = .next s ∧ exec (.smbusRegWrite off v) s = .next s ∧
      exec .smbusImgStatus s = .next s)) ∧
  (∀ (s : State) (kind n off crc : Nat) (bs : List Byte), s.sup.recovery ≠ .resetHeld →
    (s.wantsImage kind = true → imageFits kind n = true → ∃ t, exec (.smbusImgBegin kind n) s = .next t ∧
      t.pkg = { s.pkg with imgKind := kind, imgLength := n, imgData := [], imgStatus := 1 } ∧ { t with pkg := s.pkg } = s) ∧
    (s.wantsImage kind = true → imageFits kind n = false → s.logRoom = true → ∃ t r, exec (.smbusImgBegin kind n) s = .next t ∧
      t.pkg.imgStatus = 4 ∧ t.lastRecord = some r ∧ r.src = .hwd ∧ r.code = (if kind = 0 then 0x05 else 0x07) ∧
      t.hwd.stage = s.hwd.stage) ∧
    (s.wantsImage kind = false →
      exec (.smbusImgBegin kind n) s = .next { s with outbox := s.outbox ++ [.smbus [2#8]] }) ∧
    (s.pkg.imgStatus = 1 → s.wantsImage s.pkg.imgKind = true → ∃ t, exec (.smbusImgData off bs) s = .next t ∧
      (∀ i b, bs[i]? = some b → off + i < s.pkg.imgLength → tget t.pkg.imgData (off + i) = some b) ∧
      (∀ k, k < off ∨ off + bs.length ≤ k ∨ s.pkg.imgLength ≤ k → tget t.pkg.imgData k = tget s.pkg.imgData k) ∧
      t.pkg.imgStatus = 1 ∧ { t with pkg := s.pkg } = s) ∧
    (s.pkg.imgStatus ≠ 1 ∨ s.wantsImage s.pkg.imgKind = false →
      exec (.smbusImgData off bs) s = .next { s with outbox := s.outbox ++ [.smbus [2#8]] } ∧
      exec (.smbusImgEnd crc) s = .next { s with outbox := s.outbox ++ [.smbus [2#8]] }) ∧
    (s.pkg.imgStatus = 1 → s.wantsImage s.pkg.imgKind = true → crc32c s.pkg.image ≠ crc → s.logRoom = true →
      ∃ t r, exec (.smbusImgEnd crc) s = .next t ∧ t.pkg.imgStatus = 4 ∧ t.pkg.imgData = [] ∧ t.hwd.stage = s.hwd.stage ∧
        t.lastRecord = some r ∧ r.src = .hwd ∧ r.code = (if s.pkg.imgKind = 0 then 0x05 else 0x07)) ∧
    (s.pkg.imgStatus = 1 → s.wantsImage s.pkg.imgKind = true → crc32c s.pkg.image = crc →
      ∃ t, exec (.smbusImgEnd crc) s = .next t ∧ t.pkg.imgData = [] ∧ t.hwd.rollback = s.hwd.rollback ∧ t.mem = s.mem ∧
        (s.pkg.imgKind = 1 → provCode s.vendorKeys.1 s.vendorKeys.2 s.pkg.image ≠ 0 → t.pkg.imgStatus = 4 ∧
          t.hwd.stage = 1 ∧ t.hwd.failCode = provCode s.vendorKeys.1 s.vendorKeys.2 s.pkg.image) ∧
        (s.pkg.imgKind = 1 → provCode s.vendorKeys.1 s.vendorKeys.2 s.pkg.image = 0 →
          (∀ m, s.storedSeq = some m → m < leAt s.pkg.image 8 4) → t.pkg.imgStatus = 3 ∧
          t.hwd.prov = some (s.pkg.image.take 0x84C)) ∧
        (s.pkg.imgKind = 0 → stageCode s.hwd.rollback s.pkg.image 1 ≠ 0 → t.pkg.imgStatus = 4 ∧ t.hwd.stage = 0) ∧
        (s.pkg.imgKind = 0 → stageCode s.hwd.rollback s.pkg.image 1 = 0 → t.hwd.stage ≠ 0 → t.hwd.recovery = true ∧
          t.pkg.imgStatus = 3))) ∧
  (∀ s : State, s.sup.recovery ≠ .resetHeld →
    (s.sup.alertLow = true → ∃ t, exec .smbusAlertResponse s = .next t ∧
      t.outbox = s.outbox ++ [.smbus [BitVec.ofNat 8 (0x58 + s.pkg.strap)]] ∧ t.sup.alertLow = (s.sup.phase == .ash) ∧
      { t with sup := { t.sup with alertLow := true }, outbox := s.outbox } = s) ∧
    (s.sup.alertLow = false → exec .smbusAlertResponse s = .next s))

/-- R594, R686, R694: the test access port takes its test instructions only while no grove is bound; with one bound they
are BYPASS. EXTEST_TRAIN takes every port out of ACTIVE, and leaving a test instruction leaves every port DISABLED and
the Ethernet ports down. -/
def Obligations.TestPort : Prop :=
  ∀ (s : State) (i : TapInstr), s.sup.recovery ≠ .resetHeld →
    (TapInstr.isTest i = true → s.boundGroves = [] → i ≠ .extestTrain → ∃ t, exec (.tapTestEntry i) s = .next t ∧ t.pkg.tap = i ∧
      t.testMode = true ∧ { t with pkg := s.pkg } = s) ∧
    (s.boundGroves = [] → ∃ t, exec (.tapTestEntry .extestTrain) s = .next t ∧ t.pkg.tap = .extestTrain ∧
      ∀ p ∈ allPorts, (t.port p).st = .disabled) ∧
    (s.testMode = false → TapInstr.isTest i = true → s.boundGroves ≠ [] →
      exec (.tapTestEntry i) s = .next { s with pkg := { s.pkg with tap := .bypass } }) ∧
    (s.testMode = false → TapInstr.isTest i = false → exec (.tapTestEntry i) s = .next { s with pkg := { s.pkg with tap := i } }) ∧
    (s.testMode = false → exec .tapTestExit s = .next { s with pkg := { s.pkg with tap := .idcode } }) ∧
    (s.testMode = true → ∃ t, exec .tapTestExit s = .next t ∧ t.pkg.tap = .idcode ∧ t.hrt.ethUp = [false, false] ∧
      ∀ p ∈ allPorts, (t.port p).st = .disabled)
end

