-- ==== Sys2Proof/Laws/Kept.lean ====
section
/-! SUPPORT. What every operation of the block keeps, said once: the waiting queue, the canonical form of the cells of
memory and of the scratchpads, the non-renewable counters of R631 and R639 and the memory keys' epoch, which never
fall, what was sent, which stays sent, the count of free values taken, which never falls, and the board-facing outputs,
which stay as the phase has them. One lemma
`<operation>_kept` per operation follows in the other files of this folder. -/
set_option Elab.async false
set_option linter.unusedTactic false
set_option linter.unreachableTactic false
set_option linter.unnecessarySeqFocus false
namespace Sys2Proof.Machine

theorem StartState.right_alert {x : StartState} (h : x.right) : { x with alertLow := true }.right := by
  simp_all [StartState.right]

theorem StartState.right_alertOff {x : StartState} (p : ¬(x.phase == .ash) = true) (h : x.right) :
    { x with alertLow := false }.right := by
  simp_all [StartState.right]

theorem StartState.right_therm {x : StartState} (b : Bool) (p : (x.phase == .ash) = true) (h : x.right) :
    { x with thermLow := b }.right := by
  simp_all [StartState.right]

theorem StartState.right_service {x : StartState} (p : x.phase = .kindling) (h : x.right) :
    { x with phase := .service, svcLow := true }.right := by
  simp_all [StartState.right] <;> rfl

theorem StartState.right_smoulder {x : StartState} (p : x.phase = .service) (h : x.right) :
    { x with phase := .smoulder, svcLow := true }.right := by
  simp_all [StartState.right] <;> rfl

theorem StartState.right_exit {x : StartState} (p : x.phase = .smoulder) (h : x.right) :
    { x with phase := .service }.right := by
  simp_all [StartState.right] <;> rfl

theorem StartState.right_ash (x : StartState) (b : Bool) :
    { x with phase := .ash, faultLow := true, thermLow := b, svcLow := false, alertLow := true }.right := by
  simp [StartState.right]

theorem StartState.right_recovered (x : StartState) :
    { x with phase := .service, recovery := .idle, causes := [], faultLow := false, thermLow := false,
             alertLow := false, svcLow := true }.right := by
  simp [StartState.right]

theorem StartState.right_ite {p : Prop} [Decidable p] {x y : StartState} (h : x.right) (k : y.right) :
    (if p then x else y).right := by split <;> assumption

/-- The state b keeps what no operation on a may break. -/
structure Kept (a b : State) : Prop where
  pending : b.pending = a.pending
  cells : Memory.wf a.mem.cells → Memory.wf b.mem.cells
  scratch : Memory.wf a.til.scratch → Memory.wf b.til.scratch
  rollback : a.hwd.rollback ≤ b.hwd.rollback
  lms : a.hwd.lmsIndex ≤ b.hwd.lmsIndex
  outbox : a.outbox <+: b.outbox
  free : a.freeCtr ≤ b.freeCtr
  epoch : a.mem.hearthEpoch ≤ b.mem.hearthEpoch
  outputs : a.sup.right → b.sup.right

/-- `Kept` of an operation that answers a state and more. -/
def KeptP {α : Type} (a : State) (p : State × α) : Prop := Kept a p.1

/-- `Kept` of an operation that answers a value and then a state. -/
def KeptQ {α : Type} (a : State) (p : α × State) : Prop := Kept a p.2

/-- A state with another's queue: the form in which a record update is read. -/
def State.ofB (b : State)
    (regs : Tbl Word) (aonUs : Nat) (outbox : List Msg) (irqs : List Nat) (freeCtr : Nat)
    (pageMap : Tbl (Tbl Nat)) (grv : GroveState) (hrt : HearthState) (sch : SchedState) (num : NumState)
    (smp : SampState) (gth : GathState) (emb : EmbState) (til : TileState) (mem : MemState) (lnk : LinkState)
    (col : CollState) (upd : UpdState) (wch : WatchState) (kln : KilnState) (clk : ClockState)
    (hwd : HeartwoodState) (sup : StartState) (pkg : PkgState) : State :=
  State.mk b.pending
      regs aonUs outbox irqs freeCtr pageMap grv hrt sch num smp gth emb til mem lnk col upd wch kln clk hwd
      sup pkg

theorem State.mk_eq_ofB (b : State)
    (regs : Tbl Word) (aonUs : Nat) (outbox : List Msg) (irqs : List Nat) (freeCtr : Nat)
    (pageMap : Tbl (Tbl Nat)) (grv : GroveState) (hrt : HearthState) (sch : SchedState) (num : NumState)
    (smp : SampState) (gth : GathState) (emb : EmbState) (til : TileState) (mem : MemState) (lnk : LinkState)
    (col : CollState) (upd : UpdState) (wch : WatchState) (kln : KilnState) (clk : ClockState)
    (hwd : HeartwoodState) (sup : StartState) (pkg : PkgState) :
    State.mk b.pending
      regs aonUs outbox irqs freeCtr pageMap grv hrt sch num smp gth emb til mem lnk col upd wch kln clk hwd
      sup pkg =
    State.ofB b
      regs aonUs outbox irqs freeCtr pageMap grv hrt sch num smp gth emb til mem lnk col upd wch kln clk hwd
      sup pkg := rfl

theorem Kept.refl (a : State) : Kept a a := 
  ⟨rfl, id, id, Nat.le_refl _, Nat.le_refl _, List.prefix_refl _, Nat.le_refl _, Nat.le_refl _, id⟩

theorem Kept.trans {a b c : State} (h : Kept a b) (k : Kept b c) : Kept a c :=
  ⟨k.pending.trans h.pending, fun w => k.cells (h.cells w), fun w => k.scratch (h.scratch w),
    Nat.le_trans h.rollback k.rollback, Nat.le_trans h.lms k.lms, h.outbox.trans k.outbox, Nat.le_trans h.free k.free,
    Nat.le_trans h.epoch k.epoch, fun w => k.outputs (h.outputs w)⟩

theorem Kept.updW {a b : State}
    {regs : Tbl Word} {aonUs : Nat} {outbox : List Msg} {irqs : List Nat} {freeCtr : Nat}
    {pageMap : Tbl (Tbl Nat)} {grv : GroveState} {hrt : HearthState} {sch : SchedState} {num : NumState}
    {smp : SampState} {gth : GathState} {emb : EmbState} {til : TileState} {mem : MemState} {lnk : LinkState}
    {col : CollState} {upd : UpdState} {wch : WatchState} {kln : KilnState} {clk : ClockState}
    {hwd : HeartwoodState} {sup : StartState} {pkg : PkgState}
    (h : Kept a b) (h2 : Memory.wf b.mem.cells → Memory.wf mem.cells)
    (h3 : Memory.wf b.til.scratch → Memory.wf til.scratch) (h4 : b.hwd.rollback ≤ hwd.rollback)
    (h5 : b.hwd.lmsIndex ≤ hwd.lmsIndex) (h6 : b.outbox <+: outbox := by exact List.prefix_refl _)
    (h7 : b.freeCtr ≤ freeCtr := by exact Nat.le_refl _)
    (h8 : b.mem.hearthEpoch ≤ mem.hearthEpoch := by exact Nat.le_refl _)
    (h9 : b.sup.right → sup.right := by exact id) :
    Kept a (State.ofB b
      regs aonUs outbox irqs freeCtr pageMap grv hrt sch num smp gth emb til mem lnk col upd wch kln clk hwd
      sup pkg) :=
  ⟨h.pending, fun w => h2 (h.cells w), fun w => h3 (h.scratch w), Nat.le_trans h.rollback h4, Nat.le_trans h.lms h5,
    h.outbox.trans h6, Nat.le_trans h.free h7, Nat.le_trans h.epoch h8, fun w => h9 (h.outputs w)⟩

theorem Kept.upd {a b : State}
    {regs : Tbl Word} {aonUs : Nat} {outbox : List Msg} {irqs : List Nat} {freeCtr : Nat}
    {pageMap : Tbl (Tbl Nat)} {grv : GroveState} {hrt : HearthState} {sch : SchedState} {num : NumState}
    {smp : SampState} {gth : GathState} {emb : EmbState} {til : TileState} {mem : MemState} {lnk : LinkState}
    {col : CollState} {upd : UpdState} {wch : WatchState} {kln : KilnState} {clk : ClockState}
    {hwd : HeartwoodState} {sup : StartState} {pkg : PkgState}
    (h : Kept a b) (h2 : mem.cells = b.mem.cells := by exact rfl) (h3 : til.scratch = b.til.scratch := by exact rfl)
    (h4 : hwd.rollback = b.hwd.rollback := by exact rfl) (h5 : hwd.lmsIndex = b.hwd.lmsIndex := by exact rfl)
    (h6 : outbox = b.outbox := by exact rfl) (h7 : freeCtr = b.freeCtr := by exact rfl)
    (h8 : mem.hearthEpoch = b.mem.hearthEpoch := by exact rfl) (h9 : sup.right = b.sup.right := by exact rfl) :
    Kept a (State.ofB b
      regs aonUs outbox irqs freeCtr pageMap grv hrt sch num smp gth emb til mem lnk col upd wch kln clk hwd
      sup pkg) :=
  h.updW (fun w => by rw [h2]; exact w) (fun w => by rw [h3]; exact w) (Nat.le_of_eq h4.symm) (Nat.le_of_eq h5.symm)
    (h6 ▸ List.prefix_refl _) (Nat.le_of_eq h7.symm) (Nat.le_of_eq h8.symm) (fun w => h9 ▸ w)

theorem Kept.ite {a b c : State} {p : Prop} [Decidable p] (h : Kept a b) (k : Kept a c) :
    Kept a (if p then b else c) := by split <;> assumption

/-- A pair whose first part is a state. -/
def pairP {α : Type} (s : State) (x : α) : State × α := (s, x)

theorem pairP_eq {α : Type} (s : State) (x : α) : (s, x) = pairP s x := rfl

/-- A pair whose second part is a state. -/
def pairQ {α : Type} (x : α) (s : State) : α × State := (x, s)

theorem pairQ_eq {α : Type} (x : α) (s : State) : (x, s) = pairQ x s := rfl

theorem KeptP.mk {α : Type} {a s : State} {x : α} (h : Kept a s) : KeptP a (pairP s x) := h

theorem KeptP.ite {α : Type} {a : State} {b c : State × α} {p : Prop} [Decidable p] (h : KeptP a b) (k : KeptP a c) :
    KeptP a (if p then b else c) := by split <;> assumption

theorem KeptP.fst {α : Type} {a : State} {p : State × α} (h : KeptP a p) : Kept a p.1 := h

theorem KeptQ.mk {α : Type} {a s : State} {x : α} (h : Kept a s) : KeptQ a (pairQ x s) := h

theorem KeptQ.ite {α : Type} {a : State} {b c : α × State} {p : Prop} [Decidable p] (h : KeptQ a b) (k : KeptQ a c) :
    KeptQ a (if p then b else c) := by split <;> assumption

theorem KeptQ.snd {α : Type} {a : State} {p : α × State} (h : KeptQ a p) : Kept a p.2 := h

theorem Kept.of_fst {α : Type} {a b : State} {p : State × α} {x : α} (e : p = (b, x)) (h : KeptP a p) : Kept a b := by
  subst e; exact h

theorem Kept.of_snd {α : Type} {a b : State} {p : α × State} {x : α} (e : p = (x, b)) (h : KeptQ a p) : Kept a b := by
  subst e; exact h

theorem Kept.foldl {α : Type} {a : State} {f : State → α → State} (l : List α) {s : State} (h : Kept a s)
    (hf : ∀ b x, Kept a b → Kept a (f b x)) : Kept a (l.foldl f s) := by
  induction l generalizing s with
  | nil => exact h
  | cons x t ih => exact ih (hf _ x h)

theorem KeptP.foldl {α β : Type} {a : State} {f : State × β → α → State × β} (l : List α) {s : State × β}
    (h : KeptP a s) (hf : ∀ b x, KeptP a b → KeptP a (f b x)) : KeptP a (l.foldl f s) := by
  induction l generalizing s with
  | nil => exact h
  | cons x t ih => exact ih (hf _ x h)

/-! ## The canonical form of cells -/

theorem risingFrom_below {k : Nat} {b : Option Nat} {l : List Host.Cell} (h : risingFrom b l)
    (hk : ∀ c ∈ l.head?, k < c.1) : risingFrom (some k) l := by
  cases l with
  | nil => rfl
  | cons c t =>
    obtain ⟨i, v⟩ := c
    have hk' := hk (i, v) (by simp)
    cases b <;> simp_all [risingFrom]

theorem risingFrom_head {b : Option Nat} {i : Nat} {v : Byte} {t : List Host.Cell} (h : risingFrom b ((i, v) :: t)) :
    v ≠ 0 ∧ risingFrom (some i) t ∧ ∀ j ∈ b, j < i := by
  cases b <;> simp_all [risingFrom]

theorem risingFrom_cons {b : Option Nat} {i : Nat} {v : Byte} {t : List Host.Cell} (hv : v ≠ 0)
    (hb : ∀ j ∈ b, j < i) (h : risingFrom (some i) t) : risingFrom b ((i, v) :: t) := by
  cases b <;> simp_all [risingFrom]

theorem risingFrom_weaken {b : Option Nat} {i : Nat} {t : List Host.Cell} (hb : ∀ j ∈ b, j < i)
    (h : risingFrom (some i) t) : risingFrom b t := by
  cases t with
  | nil => cases b <;> rfl
  | cons c t =>
    obtain ⟨j, v⟩ := c
    obtain ⟨hv, ht, hj⟩ := risingFrom_head h
    exact risingFrom_cons hv (fun x hx => Nat.lt_trans (hb x hx) (hj i rfl)) ht

theorem risingFrom_put {b : Option Nat} {l : List Host.Cell} {k : Nat} {v : Byte} (h : risingFrom b l)
    (hk : ∀ j ∈ b, j < k) : risingFrom b (cellPut l k v) := by
  induction l generalizing b with
  | nil =>
    unfold cellPut
    split
    · exact h
    · exact risingFrom_cons ‹_› hk rfl
  | cons c t ih =>
    obtain ⟨i, w⟩ := c
    obtain ⟨hw, ht, hi⟩ := risingFrom_head h
    unfold cellPut
    split
    · split
      · exact h
      · exact risingFrom_cons ‹_› hk (risingFrom_cons hw (fun j hj => by simp at hj; omega) ht)
    · split
      · subst_vars
        split
        · exact risingFrom_weaken hi ht
        · exact risingFrom_cons ‹_› hi ht
      · exact risingFrom_cons hw hi (ih ht (fun j hj => by simp at hj; omega))

/-- Writing a byte keeps the canonical form. -/
theorem cellPut_wf {l : List Host.Cell} (k : Nat) (v : Byte) (h : Memory.wf l) : Memory.wf (cellPut l k v) :=
  risingFrom_put h (by simp)

theorem risingFrom_filter {b : Option Nat} {l : List Host.Cell} (p : Host.Cell → Bool) (h : risingFrom b l) :
    risingFrom b (l.filter p) := by
  induction l generalizing b with
  | nil => exact h
  | cons c t ih =>
    obtain ⟨i, w⟩ := c
    obtain ⟨hw, ht, hi⟩ := risingFrom_head h
    simp only [List.filter]
    split
    · exact risingFrom_cons hw hi (ih ht)
    · exact risingFrom_weaken hi (ih ht)

/-- Dropping cells keeps the canonical form. -/
theorem filter_wf {l : List Host.Cell} (p : Host.Cell → Bool) (h : Memory.wf l) : Memory.wf (l.filter p) :=
  risingFrom_filter p h

/-- Emptying a range of places keeps the canonical form. -/
theorem cellDrop_wf {l : List Host.Cell} (lo hi : Nat) (h : Memory.wf l) : Memory.wf (cellDrop l lo hi) :=
  filter_wf _ h

/-- Writing bytes keeps the canonical form. -/
theorem foldl_cellPut_wf {β : Type} {l : List Host.Cell} (xs : List β) (k : β → Nat) (v : β → Byte) (h : Memory.wf l) :
    Memory.wf (xs.foldl (fun l x => cellPut l (k x) (v x)) l) := by
  induction xs generalizing l with
  | nil => exact h
  | cons x t ih => exact ih (cellPut_wf _ _ h)

end Sys2Proof.Machine
end

