-- ==== Sys2Proof/Laws/KeptOps.lean ====
section
/-! SUPPORT. What the operations of Machine/Ops, Flags, Memory keep: `Kept`, one lemma each. -/
set_option Elab.async false
set_option linter.unusedTactic false
set_option linter.unreachableTactic false
set_option linter.unnecessarySeqFocus false
namespace Sys2Proof.Machine

theorem State.putReg_kept {s0 s : State} (r : Reg) (ix : List Nat) (v : Word) (hk0 : Kept s0 s) :
    Kept s0 (State.putReg s r ix v) := by
  unfold State.putReg
  repeat' first
    | with_reducible assumption | (rewrite [State.mk_eq_ofB]; with_reducible refine Kept.upd ?_) | dsimp -zeta only
    | split

theorem State.putFld_kept {s0 s : State} (r : Reg) (ix : List Nat) (lo : Nat) (w : Nat) (x : Nat) (hk0 : Kept s0 s) :
    Kept s0 (State.putFld s r ix lo w x) := by
  unfold State.putFld
  repeat' first
    | with_reducible assumption | with_reducible apply State.putReg_kept | split

theorem State.resetReg_kept {s0 s : State} (r : Reg) (ix : List Nat) (hk0 : Kept s0 s) :
    Kept s0 (State.resetReg s r ix) := by
  unfold State.resetReg
  repeat' first
    | with_reducible assumption | (rewrite [State.mk_eq_ofB]; with_reducible refine Kept.upd ?_) | dsimp -zeta only
    | split

theorem State.softWrite_kept {s0 s : State} (r : Reg) (ix : List Nat) (v : Word) (hk0 : Kept s0 s) :
    Kept s0 (State.softWrite s r ix v) := by
  unfold State.softWrite
  repeat' first
    | with_reducible assumption | with_reducible apply State.putReg_kept | split

theorem State.emit_kept {s0 s : State} (m : Msg) (hk0 : Kept s0 s) : Kept s0 (s.emit m) := by
  unfold State.emit
  rewrite [State.mk_eq_ofB]
  exact hk0.updW id id (Nat.le_refl _) (Nat.le_refl _) ⟨[m], rfl⟩

theorem State.emits_kept {s0 s : State} (ms : List Msg) (hk0 : Kept s0 s) : Kept s0 (s.emits ms) := by
  unfold State.emits
  rewrite [State.mk_eq_ofB]
  exact hk0.updW id id (Nat.le_refl _) (Nat.le_refl _) ⟨ms, rfl⟩

theorem State.fresh_kept {s0 s : State} (hk0 : Kept s0 s) : KeptQ s0 s.fresh := by
  unfold State.fresh
  rewrite [pairQ_eq, State.mk_eq_ofB]
  exact KeptQ.mk (hk0.updW id id (Nat.le_refl _) (Nat.le_refl _) (List.prefix_refl _) (Nat.le_succ _))

theorem State.each_kept {α : Type} {a s : State} (l : List α) {f : State → α → State} (h : Kept a s)
    (hf : ∀ b x, Kept a b → Kept a (f b x)) : Kept a (s.each l f) := Kept.foldl l h hf

theorem State.unheld_kept {a s : State} {f : State → State} (h : Kept a s) (hf : ∀ b, Kept a b → Kept a (f b)) :
    Kept a (s.unheld f) := by
  unfold State.unheld
  split <;> first | exact hf _ h | exact h

theorem State.onDie_kept {a s : State} {f : State → State} (h : Kept a s) (hf : ∀ b, Kept a b → Kept a (f b)) :
    Kept a (s.onDie f) := by
  unfold State.onDie
  split <;> first | exact hf _ h | exact h

theorem State.inTraining_kept {a s : State} {f : State → State} (h : Kept a s) (hf : ∀ b, Kept a b → Kept a (f b)) :
    Kept a (s.inTraining f) := by
  unfold State.inTraining
  split <;> first | exact hf _ h | exact h

theorem State.awake_kept {a s : State} {f : State → State} (h : Kept a s) (hf : ∀ b, Kept a b → Kept a (f b)) :
    Kept a (s.awake f) := by
  unfold State.awake
  split <;> first | exact hf _ h | exact h

theorem State.modStep_kept {s0 s : State} (g : Nat) (f : GroveStep → GroveStep) (hk0 : Kept s0 s) :
    Kept s0 (State.modStep s g f) := by
  unfold State.modStep
  repeat' first
    | with_reducible assumption | (rewrite [State.mk_eq_ofB]; with_reducible refine Kept.upd ?_) | dsimp -zeta only
    | split

theorem State.modGrove_kept {s0 s : State} (g : Nat) (f : Grove → Grove) (hk0 : Kept s0 s) :
    Kept s0 (State.modGrove s g f) := by
  unfold State.modGrove
  repeat' first
    | with_reducible assumption | (rewrite [State.mk_eq_ofB]; with_reducible refine Kept.upd ?_) | dsimp -zeta only
    | split

theorem State.notify_kept {s0 s : State} (sev : Sev) (hk0 : Kept s0 s) :
    Kept s0 (State.notify s sev) := by
  unfold State.notify
  repeat' first
    | with_reducible assumption | with_reducible apply Kept.ite
    | (rewrite [State.mk_eq_ofB]; with_reducible refine Kept.upd ?_) | dsimp -zeta only | split

theorem State.keepFatal_kept {s0 s : State} (r : LogRec) (hk0 : Kept s0 s) :
    Kept s0 (State.keepFatal s r) := by
  unfold State.keepFatal
  repeat' first
    | with_reducible assumption | with_reducible apply Kept.ite | with_reducible apply State.fatal_kept
    | (rewrite [State.mk_eq_ofB]; with_reducible refine Kept.upd ?_) | dsimp -zeta only | split

theorem State.logRec_kept {s0 s : State} (r : LogRec) (hk0 : Kept s0 s) :
    Kept s0 (State.logRec s r) := by
  unfold State.logRec
  repeat' first
    | with_reducible assumption | (intro x; have hx : Kept s0 x := ?hk; clear_value x; case' hk => subst x)
    | (intro x; subst x) | intro _ | with_reducible apply Kept.ite | with_reducible apply State.putReg_kept
    | with_reducible apply State.putFld_kept | with_reducible apply State.keepFatal_kept
    | with_reducible apply State.corrected_kept | with_reducible apply State.notify_kept
    | (rewrite [State.mk_eq_ofB]; with_reducible refine Kept.updW ?_ id id (Nat.le_refl _) (Nat.le_refl _) (List.prefix_refl _) (Nat.le_refl _) (Nat.le_refl _) StartState.right_alert)
    | (rewrite [State.mk_eq_ofB]; with_reducible refine Kept.upd ?_) | lift_lets -underBinder | dsimp -zeta only
    | split

theorem State.addHeat_kept {s0 s : State} (w : Nat) (g : Nat) (hk0 : Kept s0 s) :
    Kept s0 (State.addHeat s w g) := by
  unfold State.addHeat
  repeat' first
    | with_reducible assumption | (intro x; have hx : Kept s0 x := ?hk; clear_value x; case' hk => subst x)
    | (intro x; subst x) | intro _ | with_reducible apply Kept.ite | with_reducible apply State.putFld_kept
    | with_reducible apply State.logRec_kept | with_reducible apply State.corrected_kept
    | (rewrite [State.mk_eq_ofB]; with_reducible refine Kept.upd ?_) | lift_lets -underBinder | dsimp -zeta only
    | split

theorem State.heatOn_kept {s0 s : State} (w : Nat) (gs : List Nat) (hk0 : Kept s0 s) :
    Kept s0 (State.heatOn s w gs) := by
  unfold State.heatOn
  repeat' first
    | with_reducible assumption | intro _ | with_reducible apply State.each_kept
    | with_reducible apply State.addHeat_kept | dsimp -zeta only | split

theorem State.record_kept {s0 s : State} (src : Src) (sev : Sev) (die : Nat) (code : Nat) (grove : Option Nat) (detail : Nat) (hk0 : Kept s0 s) :
    Kept s0 (State.record s src sev die code grove detail) := by
  unfold State.record
  repeat' first
    | with_reducible assumption | (intro x; have hx : Kept s0 x := ?hk; clear_value x; case' hk => subst x)
    | (intro x; subst x) | intro _ | with_reducible apply Kept.ite | with_reducible apply State.logRec_kept
    | with_reducible apply State.corrected_kept | with_reducible apply State.heatOn_kept | lift_lets -underBinder
    | dsimp -zeta only | split

theorem State.bump_kept {s0 s : State} (r : Reg) (ix : List Nat) (n : Nat) (hk0 : Kept s0 s) :
    Kept s0 (State.bump s r ix n) := by
  unfold State.bump
  repeat' first
    | with_reducible assumption | (intro x; have hx : Kept s0 x := ?hk; clear_value x; case' hk => subst x)
    | (intro x; subst x) | intro _ | with_reducible apply Kept.ite | with_reducible apply State.putReg_kept
    | with_reducible apply State.record_kept | with_reducible apply State.corrected_kept | lift_lets -underBinder
    | dsimp -zeta only | split

theorem State.regAccess_kept {s0 s : State} (off : Nat) (kind : Nat) (hk0 : Kept s0 s) :
    Kept s0 (State.regAccess s off kind) := by
  unfold State.regAccess
  repeat' first
    | with_reducible assumption | with_reducible apply State.record_kept | split

theorem State.refuseWrite_kept {s0 s : State} (r : Reg) (ix : List Nat) (hk0 : Kept s0 s) :
    Kept s0 (State.refuseWrite s r ix) := by
  unfold State.refuseWrite
  repeat' first
    | with_reducible assumption | with_reducible apply State.regAccess_kept | split

theorem State.interrupt_kept {s0 s : State} (core : Nat) (hk0 : Kept s0 s) :
    Kept s0 (State.interrupt s core) := by
  unfold State.interrupt
  repeat' first
    | with_reducible assumption | (rewrite [State.mk_eq_ofB]; with_reducible refine Kept.upd ?_) | dsimp -zeta only
    | split

theorem State.staleRecord_kept {s0 s : State} (src : Src) (die : Nat) (grove : Nat) (gen : Nat) (unbound : Bool) (hk0 : Kept s0 s) :
    Kept s0 (State.staleRecord s src die grove gen unbound) := by
  unfold State.staleRecord
  repeat' first
    | with_reducible assumption | with_reducible apply State.record_kept | split

theorem State.modChannel_kept {s0 s : State} (c : Nat) (f : Channel → Channel) (hk0 : Kept s0 s) :
    Kept s0 (State.modChannel s c f) := by
  unfold State.modChannel
  repeat' first
    | with_reducible assumption | (rewrite [State.mk_eq_ofB]; with_reducible refine Kept.upd ?_) | dsimp -zeta only
    | split

theorem State.modPhys_kept {s0 s : State} (p : Nat) (f : PhysChannel → PhysChannel) (hk0 : Kept s0 s) :
    Kept s0 (State.modPhys s p f) := by
  unfold State.modPhys
  repeat' first
    | with_reducible assumption | (rewrite [State.mk_eq_ofB]; with_reducible refine Kept.upd ?_) | dsimp -zeta only
    | split

theorem State.modCells_kept {a s : State} {f : List Host.Cell → List Host.Cell} (h : Kept a s)
    (hf : ∀ l, Memory.wf l → Memory.wf (f l)) : Kept a (s.modCells f) := by
  unfold State.modCells
  rewrite [State.mk_eq_ofB]
  exact h.updW (hf _) id (Nat.le_refl _) (Nat.le_refl _)

theorem State.putLine_kept {a s : State} (c line : Nat) (bs : List Byte) (h : Kept a s) :
    Kept a (s.putLine c line bs) := by
  unfold State.putLine
  rewrite [State.mk_eq_ofB]
  exact h.updW (foldl_cellPut_wf _ _ _) id (Nat.le_refl _) (Nat.le_refl _)

theorem State.unsaturate_kept {s0 s : State} (p : Nat → Bool) (hk0 : Kept s0 s) :
    Kept s0 (State.unsaturate s p) := by
  unfold State.unsaturate
  repeat' first
    | with_reducible assumption | intro _ | (rewrite [State.mk_eq_ofB]; with_reducible refine Kept.upd ?_)
    | dsimp -zeta only | split

theorem State.zeroChannel_kept {a s : State} (c : Nat) (h : Kept a s) : Kept a (s.zeroChannel c) := by
  unfold State.zeroChannel
  with_reducible apply State.modChannel_kept
  rewrite [State.mk_eq_ofB]
  exact h.updW (cellDrop_wf _ _) id (Nat.le_refl _) (Nat.le_refl _)

theorem State.noteUe_kept {s0 s : State} (c : Nat) (line : Nat) (hk0 : Kept s0 s) :
    Kept s0 (State.noteUe s c line) := by
  unfold State.noteUe
  repeat' first
    | with_reducible assumption | (intro x; have hx : Kept s0 x := ?hk; clear_value x; case' hk => subst x)
    | (intro x; subst x) | intro _ | with_reducible apply State.bump_kept | with_reducible apply State.putReg_kept
    | lift_lets -underBinder | dsimp -zeta only | split

theorem State.ueRecord_kept {s0 s : State} (sev : Sev) (c : Nat) (line : Nat) (hk0 : Kept s0 s) :
    Kept s0 (State.ueRecord s sev c line) := by
  unfold State.ueRecord
  repeat' first
    | with_reducible assumption | with_reducible apply State.record_kept | with_reducible apply State.heatOn_kept
    | split

theorem State.evictWcb_kept {s0 s : State} (c : Nat) (e : WcbEntry) (hk0 : Kept s0 s) :
    Kept s0 (State.evictWcb s c e) := by
  unfold State.evictWcb
  repeat' first
    | with_reducible assumption | (intro x; have hx : Kept s0 x := ?hk; clear_value x; case' hk => subst x)
    | (intro x; subst x) | intro _ | with_reducible apply Kept.ite | with_reducible apply State.modChannel_kept
    | with_reducible apply State.noteUe_kept | with_reducible apply State.ueRecord_kept
    | with_reducible apply State.putLine_kept | with_reducible apply State.bump_kept
    | (rewrite [State.mk_eq_ofB]; with_reducible refine Kept.upd ?_) | lift_lets -underBinder | dsimp -zeta only
    | split

theorem State.flushAdder_kept {s0 s : State} (c : Nat) (a : Nat × List Byte) (hk0 : Kept s0 s) :
    Kept s0 (State.flushAdder s c a) := by
  unfold State.flushAdder
  repeat' first
    | with_reducible assumption | intro _ | with_reducible apply State.modChannel_kept
    | with_reducible apply State.putLine_kept | (rewrite [State.mk_eq_ofB]; with_reducible refine Kept.upd ?_)
    | dsimp -zeta only | split

theorem State.settleAdder_kept {s0 s : State} (c : Nat) (line : Nat) (hk0 : Kept s0 s) :
    Kept s0 (State.settleAdder s c line) := by
  unfold State.settleAdder
  repeat' first
    | with_reducible assumption | with_reducible apply State.flushAdder_kept | split

theorem State.settleWcb_kept {s0 s : State} (c : Nat) (line : Nat) (hk0 : Kept s0 s) :
    Kept s0 (State.settleWcb s c line) := by
  unfold State.settleWcb
  repeat' first
    | with_reducible assumption | with_reducible apply State.evictWcb_kept | split

theorem State.flushChannel_kept {s0 s : State} (c : Nat) (hk0 : Kept s0 s) :
    Kept s0 (State.flushChannel s c) := by
  unfold State.flushChannel
  repeat' first
    | with_reducible assumption | (intro x; have hx : Kept s0 x := ?hk; clear_value x; case' hk => subst x)
    | (intro x; subst x) | intro _ | with_reducible apply State.each_kept | with_reducible apply State.evictWcb_kept
    | with_reducible apply State.flushAdder_kept | lift_lets -underBinder | dsimp -zeta only | split

theorem State.flushBuffers_kept {s0 s : State} (p : Nat → Bool) (hk0 : Kept s0 s) :
    Kept s0 (State.flushBuffers s p) := by
  unfold State.flushBuffers
  repeat' first
    | with_reducible assumption | intro _ | with_reducible apply Kept.ite | with_reducible apply State.each_kept
    | with_reducible apply State.flushChannel_kept | dsimp -zeta only | split

theorem State.dropBuffers_kept {s0 s : State} (c : Nat) (hk0 : Kept s0 s) :
    Kept s0 (State.dropBuffers s c) := by
  unfold State.dropBuffers
  repeat' first
    | with_reducible assumption | intro _ | with_reducible apply State.modChannel_kept
    | (rewrite [State.mk_eq_ofB]; with_reducible refine Kept.upd ?_) | dsimp -zeta only | split

theorem State.writeLine_kept {s0 s : State} (c : Nat) (line : Nat) (pos : Nat) (bs : List Byte) (grove : Nat) (hk0 : Kept s0 s) :
    KeptP s0 (State.writeLine s c line pos bs grove) := by
  unfold State.writeLine
  repeat' first
    | with_reducible assumption | (intro x; have hx : Kept s0 x := ?hk; clear_value x; case' hk => subst x)
    | (intro x; subst x) | intro _ | with_reducible apply Kept.ite | with_reducible apply KeptP.ite
    | (rewrite [pairP_eq]; with_reducible refine KeptP.mk ?_) | with_reducible apply State.unsaturate_kept
    | with_reducible apply State.modChannel_kept | with_reducible apply State.putLine_kept
    | with_reducible apply State.settleAdder_kept | with_reducible apply State.noteUe_kept
    | with_reducible apply State.evictWcb_kept | (rewrite [State.mk_eq_ofB]; with_reducible refine Kept.upd ?_)
    | with_reducible apply Kept.foldl | with_reducible apply KeptP.foldl
    | with_reducible refine Kept.of_fst (by assumption) ?_ | with_reducible apply KeptP.fst | lift_lets -underBinder
    | dsimp -zeta only | split

theorem State.accLine_kept {s0 s : State} (c : Nat) (line : Nat) (f : List Byte → List Byte) (hk0 : Kept s0 s) :
    KeptP s0 (State.accLine s c line f) := by
  unfold State.accLine
  repeat' first
    | with_reducible assumption | (intro x; have hx : Kept s0 x := ?hk; clear_value x; case' hk => subst x)
    | (intro x; subst x) | intro _ | with_reducible apply Kept.ite | with_reducible apply KeptP.ite
    | (rewrite [pairP_eq]; with_reducible refine KeptP.mk ?_) | with_reducible apply State.settleWcb_kept
    | with_reducible apply State.bump_kept | with_reducible apply State.modChannel_kept
    | with_reducible apply State.noteUe_kept | with_reducible apply State.flushAdder_kept
    | (rewrite [State.mk_eq_ofB]; with_reducible refine Kept.upd ?_)
    | with_reducible refine Kept.of_fst (by assumption) ?_ | with_reducible apply KeptP.fst | lift_lets -underBinder
    | dsimp -zeta only | split

theorem State.unmappedRecord_kept {s0 s : State} (p : Party) (o : Nat) (hk0 : Kept s0 s) :
    Kept s0 (State.unmappedRecord s p o) := by
  unfold State.unmappedRecord
  repeat' first
    | with_reducible assumption | (intro x; have hx : Kept s0 x := ?hk; clear_value x; case' hk => subst x)
    | (intro x; subst x) | intro _ | with_reducible apply Kept.ite | with_reducible apply State.record_kept
    | lift_lets -underBinder | dsimp -zeta only | split

theorem State.readLocal_kept {s0 s : State} (p : Party) (o : Nat) (n : Nat) (hk0 : Kept s0 s) :
    KeptP s0 (State.readLocal s p o n) := by
  unfold State.readLocal
  repeat' first
    | with_reducible assumption | (rewrite [pairP_eq]; with_reducible refine KeptP.mk ?_)
    | with_reducible apply State.noteUe_kept | with_reducible apply State.ueRecord_kept
    | with_reducible apply State.unmappedRecord_kept | with_reducible refine Kept.of_fst (by assumption) ?_
    | with_reducible apply KeptP.fst | split

theorem State.putPage_kept {s0 s : State} (g : Nat) (o : Nat) (bs : List Byte) (hk0 : Kept s0 s) :
    Kept s0 (State.putPage s g o bs) := by
  unfold State.putPage
  repeat' first
    | with_reducible assumption | intro _ | (rewrite [pairP_eq]; with_reducible refine KeptP.mk ?_)
    | with_reducible apply State.each_kept | with_reducible apply State.writeLine_kept
    | with_reducible refine Kept.of_fst (by assumption) ?_ | with_reducible apply KeptP.fst | dsimp -zeta only | split

theorem State.touchWait_kept {s0 s : State} (g : Nat) (hk0 : Kept s0 s) :
    Kept s0 (State.touchWait s g) := by
  unfold State.touchWait
  repeat' first
    | with_reducible assumption | (intro x; have hx : Kept s0 x := ?hk; clear_value x; case' hk => subst x)
    | (intro x; subst x) | intro _ | with_reducible apply Kept.ite | with_reducible apply State.putReg_kept
    | with_reducible apply State.record_kept | with_reducible apply State.corrected_kept
    | (rewrite [State.mk_eq_ofB]; with_reducible refine Kept.upd ?_) | lift_lets -underBinder | dsimp -zeta only
    | split

theorem State.touchPage_kept {s0 s : State} (page : Nat) (hk0 : Kept s0 s) :
    Kept s0 (State.touchPage s page) := by
  unfold State.touchPage
  repeat' first
    | with_reducible assumption | (intro x; have hx : Kept s0 x := ?hk; clear_value x; case' hk => subst x)
    | (intro x; subst x) | intro _ | with_reducible apply Kept.ite | with_reducible apply State.touchWait_kept
    | with_reducible apply State.bump_kept | with_reducible apply State.putPage_kept
    | (rewrite [State.mk_eq_ofB]; with_reducible refine Kept.upd ?_) | lift_lets -underBinder | dsimp -zeta only
    | split

theorem State.touch_kept {s0 s : State} (o : Nat) (hk0 : Kept s0 s) :
    Kept s0 (State.touch s o) := by
  unfold State.touch
  repeat' first
    | with_reducible assumption | with_reducible apply Kept.ite | with_reducible apply State.touchPage_kept | split

theorem State.writeFails_kept {s0 s : State} (p : Party) (o : Nat) (x1 : Acc × Nat × Nat) (hk0 : Kept s0 s) :
    KeptP s0 (State.writeFails s p o x1) := by
  unfold State.writeFails
  repeat' first
    | with_reducible assumption | (rewrite [pairP_eq]; with_reducible refine KeptP.mk ?_)
    | with_reducible apply State.noteUe_kept | with_reducible apply State.ueRecord_kept
    | with_reducible apply State.unmappedRecord_kept | with_reducible refine Kept.of_fst (by assumption) ?_
    | with_reducible apply KeptP.fst | split

theorem State.writeLocal_kept {s0 s : State} (p : Party) (o : Nat) (bs : List Byte) (hk0 : Kept s0 s) :
    KeptP s0 (State.writeLocal s p o bs) := by
  unfold State.writeLocal
  repeat' first
    | with_reducible assumption | (intro x; have hx : Kept s0 x := ?hk; clear_value x; case' hk => subst x)
    | (intro x; subst x) | intro _ | (rewrite [pairP_eq]; with_reducible refine KeptP.mk ?_)
    | (rewrite [pairQ_eq]; with_reducible refine KeptQ.mk ?_) | with_reducible apply State.touch_kept
    | with_reducible apply State.writeLine_kept | with_reducible apply State.writeFails_kept
    | with_reducible apply Kept.foldl | with_reducible apply KeptP.foldl
    | with_reducible refine Kept.of_fst (by assumption) ?_ | with_reducible apply KeptP.fst
    | with_reducible refine Kept.of_snd (by assumption) ?_ | with_reducible apply KeptQ.snd | lift_lets -underBinder
    | dsimp -zeta only | split

theorem State.readVa_kept {s0 s : State} (g : Nat) (va : Nat) (n : Nat) (hk0 : Kept s0 s) :
    KeptP s0 (State.readVa s g va n) := by
  unfold State.readVa
  repeat' first
    | with_reducible assumption | (intro x; have hx : Kept s0 x := ?hk; clear_value x; case' hk => subst x)
    | (intro x; subst x) | intro _ | with_reducible apply Kept.ite | with_reducible apply KeptP.ite
    | (rewrite [pairP_eq]; with_reducible refine KeptP.mk ?_) | with_reducible apply State.readLocal_kept
    | with_reducible apply Kept.foldl | with_reducible apply KeptP.foldl
    | with_reducible refine Kept.of_fst (by assumption) ?_ | with_reducible apply KeptP.fst | lift_lets -underBinder
    | dsimp -zeta only | split

theorem State.checkWriteVa_kept {s0 s : State} (g : Nat) (va : Nat) (n : Nat) (hk0 : Kept s0 s) :
    KeptP s0 (State.checkWriteVa s g va n) := by
  unfold State.checkWriteVa
  repeat' first
    | with_reducible assumption | intro _ | with_reducible apply Kept.ite | with_reducible apply KeptP.ite
    | (rewrite [pairP_eq]; with_reducible refine KeptP.mk ?_)
    | (rewrite [pairQ_eq]; with_reducible refine KeptQ.mk ?_) | with_reducible apply KeptQ.ite
    | with_reducible apply State.writeFails_kept | with_reducible apply Kept.foldl | with_reducible apply KeptP.foldl
    | with_reducible refine Kept.of_fst (by assumption) ?_ | with_reducible apply KeptP.fst
    | with_reducible refine Kept.of_snd (by assumption) ?_ | with_reducible apply KeptQ.snd | dsimp -zeta only | split

theorem State.writeVa_kept {s0 s : State} (g : Nat) (va : Nat) (bs : List Byte) (hk0 : Kept s0 s) :
    KeptP s0 (State.writeVa s g va bs) := by
  unfold State.writeVa
  repeat' first
    | with_reducible assumption | (intro x; have hx : Kept s0 x := ?hk; clear_value x; case' hk => subst x)
    | (intro x; subst x) | intro _ | with_reducible apply Kept.ite | with_reducible apply KeptP.ite
    | (rewrite [pairP_eq]; with_reducible refine KeptP.mk ?_)
    | (rewrite [pairQ_eq]; with_reducible refine KeptQ.mk ?_) | with_reducible apply KeptQ.ite
    | with_reducible apply State.writeLocal_kept | with_reducible apply Kept.foldl | with_reducible apply KeptP.foldl
    | with_reducible refine Kept.of_fst (by assumption) ?_ | with_reducible apply KeptP.fst
    | with_reducible refine Kept.of_snd (by assumption) ?_ | with_reducible apply KeptQ.snd | lift_lets -underBinder
    | dsimp -zeta only | split

theorem State.freshPages_kept {s0 s : State} (g : Nat) (hk0 : Kept s0 s) :
    Kept s0 (State.freshPages s g) := by
  unfold State.freshPages
  repeat' first
    | with_reducible assumption | (intro x; have hx : Kept s0 x := ?hk; clear_value x; case' hk => subst x)
    | (intro x; subst x) | intro _ | (rewrite [pairQ_eq]; with_reducible refine KeptQ.mk ?_)
    | with_reducible apply State.fresh_kept | (rewrite [State.mk_eq_ofB]; with_reducible refine Kept.upd ?_)
    | with_reducible refine Kept.of_snd (by assumption) ?_ | with_reducible apply KeptQ.snd | lift_lets -underBinder
    | dsimp -zeta only | split

end Sys2Proof.Machine
end

