-- ==== Sys2Proof/Laws/KeptLinks.lean ====
section
/-! SUPPORT. What the operations of Machine/Links, Queues, Sched, Numbers, Adders keep: `Kept`, one lemma each. -/
set_option Elab.async false
set_option linter.unusedTactic false
set_option linter.unreachableTactic false
set_option linter.unnecessarySeqFocus false
namespace Sys2Proof.Machine

theorem State.modPort_kept {s0 s : State} (p : Nat) (f : Port → Port) (hk0 : Kept s0 s) :
    Kept s0 (State.modPort s p f) := by
  unfold State.modPort
  repeat' first
    | with_reducible assumption | (rewrite [State.mk_eq_ofB]; with_reducible refine Kept.upd ?_) | dsimp -zeta only
    | split

theorem State.bumpPort_kept {s0 s : State} (p : Nat) (t : Reg) (b : Reg) (n : Nat) (hk0 : Kept s0 s) :
    Kept s0 (State.bumpPort s p t b n) := by
  unfold State.bumpPort
  repeat' first
    | with_reducible assumption | with_reducible apply Kept.ite | with_reducible apply State.bump_kept | split

theorem State.lnkRecord_kept {s0 s : State} (sev : Sev) (code : Nat) (p : Nat) (lane : Nat) (device : Nat) (grove : Option Nat) (hk0 : Kept s0 s) :
    Kept s0 (State.lnkRecord s sev code p lane device grove) := by
  unfold State.lnkRecord
  repeat' first
    | with_reducible assumption | (intro x; have hx : Kept s0 x := ?hk; clear_value x; case' hk => subst x)
    | (intro x; subst x) | intro _ | with_reducible apply State.putReg_kept | with_reducible apply State.record_kept
    | lift_lets -underBinder | dsimp -zeta only | split

theorem State.transmit_kept {s0 s : State} (p : Nat) (f : LFlit) (hk0 : Kept s0 s) :
    Kept s0 (State.transmit s p f) := by
  unfold State.transmit
  repeat' first
    | with_reducible assumption | (intro x; have hx : Kept s0 x := ?hk; clear_value x; case' hk => subst x)
    | (intro x; subst x) | intro _ | with_reducible apply Kept.ite | with_reducible apply State.modPort_kept
    | with_reducible apply State.bumpPort_kept | with_reducible apply State.emit_kept
    | (rewrite [State.mk_eq_ofB]; with_reducible refine Kept.upd ?_) | lift_lets -underBinder | dsimp -zeta only
    | split

theorem State.pump_kept {s0 s : State} (p : Nat) (hk0 : Kept s0 s) :
    Kept s0 (State.pump s p) := by
  unfold State.pump
  repeat' first
    | with_reducible assumption | (intro x; have hx : Kept s0 x := ?hk; clear_value x; case' hk => subst x)
    | (intro x; subst x) | intro _ | with_reducible apply Kept.ite | with_reducible apply KeptP.ite
    | (rewrite [pairP_eq]; with_reducible refine KeptP.mk ?_)
    | (rewrite [pairQ_eq]; with_reducible refine KeptQ.mk ?_) | with_reducible apply KeptQ.ite
    | with_reducible apply State.modPort_kept | with_reducible apply State.transmit_kept
    | (rewrite [State.mk_eq_ofB]; with_reducible refine Kept.upd ?_) | with_reducible apply Kept.foldl
    | with_reducible apply KeptP.foldl | with_reducible refine Kept.of_fst (by assumption) ?_
    | with_reducible apply KeptP.fst | with_reducible refine Kept.of_snd (by assumption) ?_
    | with_reducible apply KeptQ.snd | lift_lets -underBinder | dsimp -zeta only | split

theorem State.enqueue_kept {s0 s : State} (p : Nat) (f : LFlit) (hk0 : Kept s0 s) :
    Kept s0 (State.enqueue s p f) := by
  unfold State.enqueue
  repeat' first
    | with_reducible assumption | intro _ | with_reducible apply State.modPort_kept
    | with_reducible apply State.pump_kept | (rewrite [State.mk_eq_ofB]; with_reducible refine Kept.upd ?_)
    | dsimp -zeta only | split

theorem State.dropUnreachable_kept {s0 s : State} (p : Nat) (dest : Nat) (hk0 : Kept s0 s) :
    Kept s0 (State.dropUnreachable s p dest) := by
  unfold State.dropUnreachable
  repeat' first
    | with_reducible assumption | with_reducible apply State.bumpPort_kept | with_reducible apply State.lnkRecord_kept
    | split

theorem State.sendDir_kept {s0 s : State} (d : Nat) (f : LFlit) (hk0 : Kept s0 s) :
    Kept s0 (State.sendDir s d f) := by
  unfold State.sendDir
  repeat' first
    | with_reducible assumption | (intro x; have hx : Kept s0 x := ?hk; clear_value x; case' hk => subst x)
    | (intro x; subst x) | intro _ | with_reducible apply Kept.ite | with_reducible apply State.enqueue_kept
    | with_reducible apply State.dropUnreachable_kept | (rewrite [State.mk_eq_ofB]; with_reducible refine Kept.upd ?_)
    | lift_lets -underBinder | dsimp -zeta only | split

theorem State.sendTrunk_kept {s0 s : State} (f : LFlit) (arr : Nat) (at_ : Nat) (hk0 : Kept s0 s) :
    Kept s0 (State.sendTrunk s f arr at_) := by
  unfold State.sendTrunk
  repeat' first
    | with_reducible assumption | with_reducible apply Kept.ite | with_reducible apply State.dropUnreachable_kept
    | with_reducible apply State.bumpPort_kept | with_reducible apply State.sendDir_kept | split

theorem State.sendBranch_kept {s0 s : State} (f : LFlit) (hk0 : Kept s0 s) :
    Kept s0 (State.sendBranch s f) := by
  unfold State.sendBranch
  repeat' first
    | with_reducible assumption | (intro x; have hx : Kept s0 x := ?hk; clear_value x; case' hk => subst x)
    | (intro x; subst x) | intro _ | with_reducible apply State.dropUnreachable_kept
    | with_reducible apply State.enqueue_kept | (rewrite [State.mk_eq_ofB]; with_reducible refine Kept.upd ?_)
    | lift_lets -underBinder | dsimp -zeta only | split

theorem State.modBudget_kept {s0 s : State} (d : Nat) (g : Nat) (a : Nat) (f : Budget → Budget) (hk0 : Kept s0 s) :
    Kept s0 (State.modBudget s d g a f) := by
  unfold State.modBudget
  repeat' first
    | with_reducible assumption | (rewrite [State.mk_eq_ofB]; with_reducible refine Kept.upd ?_) | dsimp -zeta only
    | split

theorem State.spend_kept {s0 s : State} (d : Nat) (g : Nat) (a : Nat) (n : Nat) (again : Bool) (hk0 : Kept s0 s) :
    KeptP s0 (State.spend s d g a n again) := by
  unfold State.spend
  repeat' first
    | with_reducible assumption | (intro x; have hx : Kept s0 x := ?hk; clear_value x; case' hk => subst x)
    | (intro x; subst x) | intro _ | with_reducible apply Kept.ite | with_reducible apply KeptP.ite
    | (rewrite [pairP_eq]; with_reducible refine KeptP.mk ?_) | with_reducible apply State.modBudget_kept
    | with_reducible apply State.bump_kept | (rewrite [State.mk_eq_ofB]; with_reducible refine Kept.upd ?_)
    | with_reducible refine Kept.of_fst (by assumption) ?_ | with_reducible apply KeptP.fst | lift_lets -underBinder
    | dsimp -zeta only | split

theorem State.sendNow_kept {s0 s : State} (m : HeldMsg) (hk0 : Kept s0 s) :
    Kept s0 (State.sendNow s m) := by
  unfold State.sendNow
  repeat' first
    | with_reducible assumption | intro _ | with_reducible apply Kept.ite | with_reducible apply State.emit_kept
    | with_reducible apply State.each_kept | with_reducible apply State.sendTrunk_kept
    | with_reducible apply State.sendBranch_kept | dsimp -zeta only | split

theorem State.sendMsg_kept {s0 s : State} (die : Nat) (trunk : Bool) (dest : Nat) (opcode : Nat) (grove : Nat) (payload : List Byte) (address : Nat) (hk0 : Kept s0 s) :
    Kept s0 (State.sendMsg s die trunk dest opcode grove payload address) := by
  unfold State.sendMsg
  repeat' first
    | with_reducible assumption | (intro x; have hx : Kept s0 x := ?hk; clear_value x; case' hk => subst x)
    | (intro x; subst x) | intro _ | with_reducible apply Kept.ite | with_reducible apply KeptP.ite
    | (rewrite [pairP_eq]; with_reducible refine KeptP.mk ?_) | with_reducible apply State.sendNow_kept
    | with_reducible apply State.spend_kept | (rewrite [State.mk_eq_ofB]; with_reducible refine Kept.upd ?_)
    | with_reducible refine Kept.of_fst (by assumption) ?_ | with_reducible apply KeptP.fst | lift_lets -underBinder
    | dsimp -zeta only | split

theorem State.dropStale_kept {s0 s : State} (die : Nat) (o : Origin) (trunk : Bool) (hk0 : Kept s0 s) :
    Kept s0 (State.dropStale s die o trunk) := by
  unfold State.dropStale
  repeat' first
    | with_reducible assumption | (intro x; have hx : Kept s0 x := ?hk; clear_value x; case' hk => subst x)
    | (intro x; subst x) | intro _ | with_reducible apply Kept.ite | with_reducible apply State.bump_kept
    | with_reducible apply State.putReg_kept | with_reducible apply State.sendNow_kept
    | (rewrite [State.mk_eq_ofB]; with_reducible refine Kept.upd ?_) | lift_lets -underBinder | dsimp -zeta only
    | split

theorem State.takeAck_kept {s0 s : State} (p : Nat) (f : LFlit) (hk0 : Kept s0 s) :
    Kept s0 (State.takeAck s p f) := by
  unfold State.takeAck
  repeat' first
    | with_reducible assumption | intro _ | with_reducible apply State.modPort_kept
    | with_reducible apply State.pump_kept | (rewrite [State.mk_eq_ofB]; with_reducible refine Kept.upd ?_)
    | dsimp -zeta only | split

theorem State.sendBare_kept {s0 s : State} (p : Nat) (kind : Nat) (hk0 : Kept s0 s) :
    Kept s0 (State.sendBare s p kind) := by
  unfold State.sendBare
  repeat' first
    | with_reducible assumption | (intro x; have hx : Kept s0 x := ?hk; clear_value x; case' hk => subst x)
    | (intro x; subst x) | intro _ | with_reducible apply State.modPort_kept | with_reducible apply State.emit_kept
    | (rewrite [State.mk_eq_ofB]; with_reducible refine Kept.upd ?_) | lift_lets -underBinder | dsimp -zeta only
    | split

theorem State.startRetrain_kept {s0 s : State} (p : Nat) (hk0 : Kept s0 s) :
    Kept s0 (State.startRetrain s p) := by
  unfold State.startRetrain
  repeat' first
    | with_reducible assumption | intro _ | with_reducible apply Kept.ite | with_reducible apply State.modPort_kept
    | with_reducible apply State.bumpPort_kept | (rewrite [State.mk_eq_ofB]; with_reducible refine Kept.upd ?_)
    | dsimp -zeta only | split

theorem State.replayFrom_kept {s0 s : State} (p : Nat) (ackSeq : Nat) (hk0 : Kept s0 s) :
    Kept s0 (State.replayFrom s p ackSeq) := by
  unfold State.replayFrom
  repeat' first
    | with_reducible assumption | (intro x; have hx : Kept s0 x := ?hk; clear_value x; case' hk => subst x)
    | (intro x; subst x) | intro _ | with_reducible apply Kept.ite | with_reducible apply State.modPort_kept
    | with_reducible apply State.bumpPort_kept | with_reducible apply State.emits_kept
    | with_reducible apply State.startRetrain_kept | (rewrite [State.mk_eq_ofB]; with_reducible refine Kept.upd ?_)
    | lift_lets -underBinder | dsimp -zeta only | split

theorem State.noteInvalid_kept {s0 s : State} (p : Nat) (hk0 : Kept s0 s) :
    Kept s0 (State.noteInvalid s p) := by
  unfold State.noteInvalid
  repeat' first
    | with_reducible assumption | (intro x; have hx : Kept s0 x := ?hk; clear_value x; case' hk => subst x)
    | (intro x; subst x) | intro _ | with_reducible apply Kept.ite | with_reducible apply State.bumpPort_kept
    | with_reducible apply State.modPort_kept | with_reducible apply State.lnkRecord_kept
    | with_reducible apply State.corrected_kept | (rewrite [State.mk_eq_ofB]; with_reducible refine Kept.upd ?_)
    | lift_lets -underBinder | dsimp -zeta only | split

theorem State.returnCredit_kept {s0 s : State} (p : Nat) (f : LFlit) (hk0 : Kept s0 s) :
    Kept s0 (State.returnCredit s p f) := by
  unfold State.returnCredit
  repeat' first
    | with_reducible assumption | intro _ | with_reducible apply State.modPort_kept
    | (rewrite [State.mk_eq_ofB]; with_reducible refine Kept.upd ?_) | dsimp -zeta only | split

theorem State.acceptFlit_kept {s0 s : State} (p : Nat) (f : LFlit) (hk0 : Kept s0 s) :
    Kept s0 (State.acceptFlit s p f) := by
  unfold State.acceptFlit
  repeat' first
    | with_reducible assumption | (intro x; have hx : Kept s0 x := ?hk; clear_value x; case' hk => subst x)
    | (intro x; subst x) | intro _ | with_reducible apply Kept.ite | with_reducible apply State.returnCredit_kept
    | with_reducible apply State.dropStale_kept | with_reducible apply State.modPort_kept
    | with_reducible apply State.bump_kept | with_reducible apply State.emit_kept
    | (rewrite [State.mk_eq_ofB]; with_reducible refine Kept.upd ?_) | lift_lets -underBinder | dsimp -zeta only
    | split

theorem State.forward_kept {s0 s : State} (p : Nat) (dir : Nat) (f : LFlit) (hk0 : Kept s0 s) :
    Kept s0 (State.forward s p dir f) := by
  unfold State.forward
  repeat' first
    | with_reducible assumption | (intro x; have hx : Kept s0 x := ?hk; clear_value x; case' hk => subst x)
    | (intro x; subst x) | intro _ | with_reducible apply Kept.ite | with_reducible apply State.returnCredit_kept
    | with_reducible apply State.bumpPort_kept | with_reducible apply State.lnkRecord_kept
    | with_reducible apply State.sendTrunk_kept | (rewrite [State.mk_eq_ofB]; with_reducible refine Kept.upd ?_)
    | lift_lets -underBinder | dsimp -zeta only | split

theorem State.portDead_kept {s0 s : State} (p : Nat) (sev : Sev) (code : Nat) (hk0 : Kept s0 s) :
    Kept s0 (State.portDead s p sev code) := by
  unfold State.portDead
  repeat' first
    | with_reducible assumption | (intro x; have hx : Kept s0 x := ?hk; clear_value x; case' hk => subst x)
    | (intro x; subst x) | intro _ | with_reducible apply Kept.ite | with_reducible apply State.modPort_kept
    | with_reducible apply State.bumpPort_kept | with_reducible apply State.lnkRecord_kept
    | with_reducible apply State.heatOn_kept | with_reducible apply State.each_kept
    | with_reducible apply State.sendTrunk_kept | with_reducible apply State.sendBranch_kept
    | (rewrite [State.mk_eq_ofB]; with_reducible refine Kept.upd ?_) | lift_lets -underBinder | dsimp -zeta only
    | split

theorem State.laneDead_kept {s0 s : State} (p : Nat) (lane : Nat) (hk0 : Kept s0 s) :
    Kept s0 (State.laneDead s p lane) := by
  unfold State.laneDead
  repeat' first
    | with_reducible assumption | (intro x; have hx : Kept s0 x := ?hk; clear_value x; case' hk => subst x)
    | (intro x; subst x) | intro _ | with_reducible apply Kept.ite | with_reducible apply State.modPort_kept
    | with_reducible apply State.lnkRecord_kept | with_reducible apply State.heatOn_kept
    | with_reducible apply State.portDead_kept | (rewrite [State.mk_eq_ofB]; with_reducible refine Kept.upd ?_)
    | lift_lets -underBinder | dsimp -zeta only | split

theorem State.flitReceive_kept {s0 s : State} (port : Nat) (lane : Nat) (fec : FecResult) (flit : List Byte) (hk0 : Kept s0 s) :
    Kept s0 (State.flitReceive s port lane fec flit) := by
  unfold State.flitReceive
  repeat' first
    | with_reducible assumption | (intro x; have hx : Kept s0 x := ?hk; clear_value x; case' hk => subst x)
    | (intro x; subst x) | intro _ | with_reducible apply Kept.ite
    | (rewrite [pairQ_eq]; with_reducible refine KeptQ.mk ?_) | with_reducible apply KeptQ.ite
    | with_reducible apply State.bumpPort_kept | with_reducible apply State.corrected_kept
    | with_reducible apply State.fresh_kept | with_reducible apply State.modPort_kept
    | with_reducible apply State.laneDead_kept | with_reducible apply State.sendBare_kept
    | with_reducible apply State.takeAck_kept | with_reducible apply State.replayFrom_kept
    | with_reducible apply State.returnCredit_kept | with_reducible apply State.noteInvalid_kept
    | with_reducible apply State.acceptFlit_kept | with_reducible apply State.forward_kept
    | with_reducible apply State.dropUnreachable_kept | (rewrite [State.mk_eq_ofB]; with_reducible refine Kept.upd ?_)
    | with_reducible refine Kept.of_snd (by assumption) ?_ | with_reducible apply KeptQ.snd | lift_lets -underBinder
    | dsimp -zeta only | split

theorem State.portOff_kept {s0 s : State} (p : Nat) (hk0 : Kept s0 s) :
    Kept s0 (State.portOff s p) := by
  unfold State.portOff
  repeat' first
    | with_reducible assumption | (intro x; have hx : Kept s0 x := ?hk; clear_value x; case' hk => subst x)
    | (intro x; subst x) | intro _ | with_reducible apply State.bumpPort_kept
    | with_reducible apply State.modPort_kept | (rewrite [State.mk_eq_ofB]; with_reducible refine Kept.upd ?_)
    | lift_lets -underBinder | dsimp -zeta only | split

theorem State.portEnable_kept {s0 s : State} (p : Nat) (v : Word) (hk0 : Kept s0 s) :
    Kept s0 (State.portEnable s p v) := by
  unfold State.portEnable
  repeat' first
    | with_reducible assumption | (intro x; have hx : Kept s0 x := ?hk; clear_value x; case' hk => subst x)
    | (intro x; subst x) | intro _ | with_reducible apply Kept.ite | with_reducible apply State.softWrite_kept
    | with_reducible apply State.portOff_kept | with_reducible apply State.lnkRecord_kept
    | with_reducible apply State.modPort_kept | (rewrite [State.mk_eq_ofB]; with_reducible refine Kept.upd ?_)
    | lift_lets -underBinder | dsimp -zeta only | split

theorem State.portDisable_kept {s0 s : State} (p : Nat) (v : Word) (hk0 : Kept s0 s) :
    Kept s0 (State.portDisable s p v) := by
  unfold State.portDisable
  repeat' first
    | with_reducible assumption | with_reducible apply State.softWrite_kept | with_reducible apply State.portOff_kept
    | split

theorem State.trainStep_kept {s0 s : State} (p : Nat) (lanes : Nat) (from_ : PortSt) (goal : PortSt) (fails : Bool) (hk0 : Kept s0 s) :
    Kept s0 (State.trainStep s p lanes from_ goal fails) := by
  unfold State.trainStep
  repeat' first
    | with_reducible assumption | (intro x; have hx : Kept s0 x := ?hk; clear_value x; case' hk => subst x)
    | (intro x; subst x) | intro _ | with_reducible apply Kept.ite | with_reducible apply State.modPort_kept
    | with_reducible apply State.each_kept | with_reducible apply State.lnkRecord_kept
    | with_reducible apply State.heatOn_kept | (rewrite [State.mk_eq_ofB]; with_reducible refine Kept.upd ?_)
    | lift_lets -underBinder | dsimp -zeta only | split

theorem State.portActive_kept {s0 s : State} (p : Nat) (id : PortIdentity) (hk0 : Kept s0 s) :
    Kept s0 (State.portActive s p id) := by
  unfold State.portActive
  repeat' first
    | with_reducible assumption | intro _ | with_reducible apply Kept.ite | with_reducible apply State.modPort_kept
    | (rewrite [State.mk_eq_ofB]; with_reducible refine Kept.upd ?_) | dsimp -zeta only | split

theorem State.identityExchange_kept {s0 s : State} (port : Nat) (id : PortIdentity) (hk0 : Kept s0 s) :
    Kept s0 (State.identityExchange s port id) := by
  unfold State.identityExchange
  repeat' first
    | with_reducible assumption | intro _ | with_reducible apply Kept.ite | with_reducible apply State.portActive_kept
    | with_reducible apply State.pump_kept | with_reducible apply State.modPort_kept
    | with_reducible apply State.lnkRecord_kept | with_reducible apply State.putFld_kept
    | (rewrite [State.mk_eq_ofB]; with_reducible refine Kept.upd ?_) | dsimp -zeta only | split

theorem State.retrainDone_kept {s0 s : State} (port : Nat) (lanes : Nat) (id : PortIdentity) (hk0 : Kept s0 s) :
    Kept s0 (State.retrainDone s port lanes id) := by
  unfold State.retrainDone
  repeat' first
    | with_reducible assumption | (intro x; have hx : Kept s0 x := ?hk; clear_value x; case' hk => subst x)
    | (intro x; subst x) | intro _ | with_reducible apply Kept.ite | with_reducible apply State.modPort_kept
    | with_reducible apply State.portDead_kept | with_reducible apply State.lnkRecord_kept
    | with_reducible apply State.corrected_kept | with_reducible apply State.heatOn_kept
    | with_reducible apply State.pump_kept | (rewrite [State.mk_eq_ofB]; with_reducible refine Kept.upd ?_)
    | lift_lets -underBinder | dsimp -zeta only | split

theorem State.retrainExpiry_kept {s0 s : State} (port : Nat) (lanes : Nat) (hk0 : Kept s0 s) :
    Kept s0 (State.retrainExpiry s port lanes) := by
  unfold State.retrainExpiry
  repeat' first
    | with_reducible assumption | (intro x; have hx : Kept s0 x := ?hk; clear_value x; case' hk => subst x)
    | (intro x; subst x) | intro _ | with_reducible apply Kept.ite | with_reducible apply State.modPort_kept
    | with_reducible apply State.portDead_kept | (rewrite [State.mk_eq_ofB]; with_reducible refine Kept.upd ?_)
    | lift_lets -underBinder | dsimp -zeta only | split

theorem State.writeCreditCfg_kept {s0 s : State} (p : Nat) (v : Word) (hk0 : Kept s0 s) :
    Kept s0 (State.writeCreditCfg s p v) := by
  unfold State.writeCreditCfg
  repeat' first
    | with_reducible assumption | (intro x; have hx : Kept s0 x := ?hk; clear_value x; case' hk => subst x)
    | (intro x; subst x) | intro _ | with_reducible apply Kept.ite | with_reducible apply State.lnkRecord_kept
    | with_reducible apply State.softWrite_kept | with_reducible apply Kept.foldl | lift_lets -underBinder
    | dsimp -zeta only | split

theorem State.writeTorus_kept {s0 s : State} (v : Word) (hk0 : Kept s0 s) :
    Kept s0 (State.writeTorus s v) := by
  unfold State.writeTorus
  repeat' first
    | with_reducible assumption | (intro x; have hx : Kept s0 x := ?hk; clear_value x; case' hk => subst x)
    | (intro x; subst x) | intro _ | with_reducible apply Kept.ite | with_reducible apply State.refuseWrite_kept
    | with_reducible apply State.lnkRecord_kept | with_reducible apply State.softWrite_kept | lift_lets -underBinder
    | dsimp -zeta only | split

theorem State.writeBundle_kept {s0 s : State} (v : Word) (hk0 : Kept s0 s) :
    Kept s0 (State.writeBundle s v) := by
  unfold State.writeBundle
  repeat' first
    | with_reducible assumption | (intro x; have hx : Kept s0 x := ?hk; clear_value x; case' hk => subst x)
    | (intro x; subst x) | intro _ | with_reducible apply Kept.ite | with_reducible apply State.refuseWrite_kept
    | with_reducible apply State.lnkRecord_kept | with_reducible apply State.softWrite_kept | lift_lets -underBinder
    | dsimp -zeta only | split

theorem State.writeStandin_kept {s0 s : State} (d : Nat) (v : Word) (hk0 : Kept s0 s) :
    Kept s0 (State.writeStandin s d v) := by
  unfold State.writeStandin
  repeat' first
    | with_reducible assumption | (intro x; have hx : Kept s0 x := ?hk; clear_value x; case' hk => subst x)
    | (intro x; subst x) | intro _ | with_reducible apply Kept.ite | with_reducible apply State.lnkRecord_kept
    | with_reducible apply State.softWrite_kept | with_reducible apply State.putFld_kept | lift_lets -underBinder
    | dsimp -zeta only | split

theorem State.modQueue_kept {s0 s : State} (q : Nat) (f : Queue → Queue) (hk0 : Kept s0 s) :
    Kept s0 (State.modQueue s q f) := by
  unfold State.modQueue
  repeat' first
    | with_reducible assumption | (rewrite [State.mk_eq_ofB]; with_reducible refine Kept.upd ?_) | dsimp -zeta only
    | split

theorem State.complete_kept {s0 s : State} (q : Nat) (i : Nat) (st : Status) (result : Nat) (hk0 : Kept s0 s) :
    Kept s0 (State.complete s q i st result) := by
  unfold State.complete
  repeat' first
    | with_reducible assumption | (intro x; have hx : Kept s0 x := ?hk; clear_value x; case' hk => subst x)
    | (intro x; subst x) | intro _ | with_reducible apply Kept.ite | with_reducible apply KeptP.ite
    | (rewrite [pairP_eq]; with_reducible refine KeptP.mk ?_) | with_reducible apply State.writeLocal_kept
    | with_reducible apply State.modQueue_kept | with_reducible apply State.interrupt_kept
    | (rewrite [State.mk_eq_ofB]; with_reducible refine Kept.upd ?_)
    | with_reducible refine Kept.of_fst (by assumption) ?_ | with_reducible apply KeptP.fst | lift_lets -underBinder
    | dsimp -zeta only | split

theorem State.start_kept {s0 s : State} (q : Nat) (i : Nat) (hk0 : Kept s0 s) :
    Kept s0 (State.start s q i) := by
  unfold State.start
  repeat' first
    | with_reducible assumption | intro _ | with_reducible apply Kept.ite | with_reducible apply State.modQueue_kept
    | (rewrite [State.mk_eq_ofB]; with_reducible refine Kept.upd ?_) | dsimp -zeta only | split

theorem State.badCommand_kept {s0 s : State} (q : Nat) (i : Nat) (src : Src) (code : Nat) (grove : Option Nat) (detail : Nat) (result : Nat) (hk0 : Kept s0 s) :
    Kept s0 (State.badCommand s q i src code grove detail result) := by
  unfold State.badCommand
  repeat' first
    | with_reducible assumption | with_reducible apply State.record_kept | with_reducible apply State.complete_kept
    | split

theorem State.staleCommand_kept {s0 s : State} (q : Nat) (i : Nat) (g : Nat) (hk0 : Kept s0 s) :
    Kept s0 (State.staleCommand s q i g) := by
  unfold State.staleCommand
  repeat' first
    | with_reducible assumption | (intro x; have hx : Kept s0 x := ?hk; clear_value x; case' hk => subst x)
    | (intro x; subst x) | intro _ | with_reducible apply State.staleRecord_kept
    | with_reducible apply State.complete_kept | lift_lets -underBinder | dsimp -zeta only | split

theorem State.doorbell_kept {s0 s : State} (q : Nat) (v : Word) (hk0 : Kept s0 s) :
    Kept s0 (State.doorbell s q v) := by
  unfold State.doorbell
  repeat' first
    | with_reducible assumption | (intro x; have hx : Kept s0 x := ?hk; clear_value x; case' hk => subst x)
    | (intro x; subst x) | intro _ | with_reducible apply Kept.ite | with_reducible apply State.refuseWrite_kept
    | with_reducible apply State.modQueue_kept | with_reducible apply State.record_kept
    | (rewrite [State.mk_eq_ofB]; with_reducible refine Kept.upd ?_) | lift_lets -underBinder | dsimp -zeta only
    | split

theorem State.queueEnable_kept {s0 s : State} (q : Nat) (v : Word) (hk0 : Kept s0 s) :
    Kept s0 (State.queueEnable s q v) := by
  unfold State.queueEnable
  repeat' first
    | with_reducible assumption | (intro x; have hx : Kept s0 x := ?hk; clear_value x; case' hk => subst x)
    | (intro x; subst x) | intro _ | with_reducible apply Kept.ite | with_reducible apply State.softWrite_kept
    | with_reducible apply State.modQueue_kept | with_reducible apply State.record_kept
    | (rewrite [State.mk_eq_ofB]; with_reducible refine Kept.upd ?_) | lift_lets -underBinder | dsimp -zeta only
    | split

theorem State.enableTakesEffect_kept {s0 s : State} (q : Nat) (hk0 : Kept s0 s) :
    Kept s0 (State.enableTakesEffect s q) := by
  unfold State.enableTakesEffect
  repeat' first
    | with_reducible assumption | (intro x; have hx : Kept s0 x := ?hk; clear_value x; case' hk => subst x)
    | (intro x; subst x) | intro _ | with_reducible apply Kept.ite | with_reducible apply State.modQueue_kept
    | (rewrite [State.mk_eq_ofB]; with_reducible refine Kept.upd ?_) | lift_lets -underBinder | dsimp -zeta only
    | split

theorem State.queueDisable_kept {s0 s : State} (q : Nat) (v : Word) (hk0 : Kept s0 s) :
    Kept s0 (State.queueDisable s q v) := by
  unfold State.queueDisable
  repeat' first
    | with_reducible assumption | intro _ | with_reducible apply State.softWrite_kept
    | with_reducible apply State.modQueue_kept | (rewrite [State.mk_eq_ofB]; with_reducible refine Kept.upd ?_)
    | dsimp -zeta only | split

theorem State.modKnot_kept {s0 s : State} (k : Nat) (f : Knot → Knot) (hk0 : Kept s0 s) :
    Kept s0 (State.modKnot s k f) := by
  unfold State.modKnot
  repeat' first
    | with_reducible assumption | (rewrite [State.mk_eq_ofB]; with_reducible refine Kept.upd ?_) | dsimp -zeta only
    | split

theorem State.knotOverflow_kept {s0 s : State} (k : Nat) (tile : Nat) (hk0 : Kept s0 s) :
    Kept s0 (State.knotOverflow s k tile) := by
  unfold State.knotOverflow
  repeat' first
    | with_reducible assumption | with_reducible apply State.bump_kept | with_reducible apply State.record_kept
    | split

theorem State.knotType_kept {s0 s : State} (k : Nat) (tile : Nat) (hk0 : Kept s0 s) :
    Kept s0 (State.knotType s k tile) := by
  unfold State.knotType
  repeat' first
    | with_reducible assumption | with_reducible apply State.record_kept | split

theorem State.modSlot_kept {s0 s : State} (key : Nat) (f : Slot → Slot) (hk0 : Kept s0 s) :
    Kept s0 (State.modSlot s key f) := by
  unfold State.modSlot
  repeat' first
    | with_reducible assumption | intro _ | with_reducible apply Kept.ite
    | (rewrite [State.mk_eq_ofB]; with_reducible refine Kept.upd ?_) | dsimp -zeta only | split

theorem State.withdraw_kept {s0 s : State} (p : Nat → Bool) (hk0 : Kept s0 s) :
    Kept s0 (State.withdraw s p) := by
  unfold State.withdraw
  repeat' first
    | with_reducible assumption | intro _ | (rewrite [State.mk_eq_ofB]; with_reducible refine Kept.upd ?_)
    | dsimp -zeta only | split

theorem State.endTask_kept {s0 s : State} (key : Nat) (hk0 : Kept s0 s) :
    Kept s0 (State.endTask s key) := by
  unfold State.endTask
  repeat' first
    | with_reducible assumption | (intro x; have hx : Kept s0 x := ?hk; clear_value x; case' hk => subst x)
    | (intro x; subst x) | intro _ | with_reducible apply State.modSlot_kept
    | with_reducible apply State.withdraw_kept | with_reducible apply State.putReg_kept
    | (rewrite [State.mk_eq_ofB]; with_reducible refine Kept.upd ?_) | lift_lets -underBinder | dsimp -zeta only
    | split

theorem State.request_kept {s0 s : State} (key : Nat) (x : Slot) (hk0 : Kept s0 s) :
    Kept s0 (State.request s key x) := by
  unfold State.request
  repeat' first
    | with_reducible assumption | (intro x; have hx : Kept s0 x := ?hk; clear_value x; case' hk => subst x)
    | (intro x; subst x) | intro _ | with_reducible apply Kept.ite | with_reducible apply State.modKnot_kept
    | (rewrite [State.mk_eq_ofB]; with_reducible refine Kept.upd ?_) | lift_lets -underBinder | dsimp -zeta only
    | split

theorem State.grant_kept {s0 s : State} (k : Nat) (x1 : Nat) (hk0 : Kept s0 s) :
    Kept s0 (State.grant s k x1) := by
  induction x1 generalizing s k with
  | zero =>
    rewrite [State.grant]
    repeat' first
      | with_reducible assumption | (intro x; have hx : Kept s0 x := ?hk; clear_value x; case' hk => subst x)
      | (intro x; subst x) | intro _ | with_reducible apply Kept.ite | with_reducible apply State.modKnot_kept
      | with_reducible apply State.modSlot_kept | (rewrite [State.mk_eq_ofB]; with_reducible refine Kept.upd ?_)
      | lift_lets -underBinder | dsimp -zeta only | split
  | succ n ih =>
    rewrite [State.grant]
    repeat' first
      | with_reducible assumption | (intro x; have hx : Kept s0 x := ?hk; clear_value x; case' hk => subst x)
      | (intro x; subst x) | intro _ | with_reducible apply Kept.ite | with_reducible apply ih
      | with_reducible apply State.modKnot_kept | with_reducible apply State.modSlot_kept
      | (rewrite [State.mk_eq_ofB]; with_reducible refine Kept.upd ?_) | lift_lets -underBinder | dsimp -zeta only
      | split

theorem State.readDesc_kept {s0 s : State} (t : Task) (hk0 : Kept s0 s) :
    KeptP s0 (State.readDesc s t) := by
  unfold State.readDesc
  repeat' first
    | with_reducible assumption | (intro x; have hx : Kept s0 x := ?hk; clear_value x; case' hk => subst x)
    | (intro x; subst x) | intro _ | with_reducible apply Kept.ite | with_reducible apply KeptP.ite
    | (rewrite [pairP_eq]; with_reducible refine KeptP.mk ?_) | with_reducible apply State.readVa_kept
    | with_reducible refine Kept.of_fst (by assumption) ?_ | with_reducible apply KeptP.fst | lift_lets -underBinder
    | dsimp -zeta only | split

theorem State.tilRecord_kept {s0 s : State} (tile : Nat) (slot : Nat) (code : Nat) (grove : Nat) (detail : Nat) (hk0 : Kept s0 s) :
    Kept s0 (State.tilRecord s tile slot code grove detail) := by
  unfold State.tilRecord
  repeat' first
    | with_reducible assumption | (intro x; have hx : Kept s0 x := ?hk; clear_value x; case' hk => subst x)
    | (intro x; subst x) | intro _ | with_reducible apply Kept.ite | with_reducible apply State.putReg_kept
    | with_reducible apply State.record_kept | with_reducible apply State.heatOn_kept | lift_lets -underBinder
    | dsimp -zeta only | split

theorem State.makeReady_kept {s0 s : State} (key : Nat) (x : Slot) (hk0 : Kept s0 s) :
    Kept s0 (State.makeReady s key x) := by
  unfold State.makeReady
  repeat' first
    | with_reducible assumption | (intro x; have hx : Kept s0 x := ?hk; clear_value x; case' hk => subst x)
    | (intro x; subst x) | intro _ | with_reducible apply Kept.ite | with_reducible apply KeptP.ite
    | (rewrite [pairP_eq]; with_reducible refine KeptP.mk ?_) | with_reducible apply State.withdraw_kept
    | with_reducible apply State.modSlot_kept | with_reducible apply State.readDesc_kept
    | with_reducible apply State.tilRecord_kept | with_reducible apply State.endTask_kept
    | with_reducible apply State.staleRecord_kept | (rewrite [State.mk_eq_ofB]; with_reducible refine Kept.upd ?_)
    | with_reducible refine Kept.of_fst (by assumption) ?_ | with_reducible apply KeptP.fst | lift_lets -underBinder
    | dsimp -zeta only | split

theorem State.judgeTypes_kept {s0 s : State} (key : Nat) (x : Slot) (hk0 : Kept s0 s) :
    Kept s0 (State.judgeTypes s key x) := by
  unfold State.judgeTypes
  repeat' first
    | with_reducible assumption | intro _ | with_reducible apply Kept.ite | with_reducible apply State.knotType_kept
    | with_reducible apply State.endTask_kept | dsimp -zeta only | split

theorem State.judge_kept {s0 s : State} (hk0 : Kept s0 s) :
    Kept s0 (State.judge s) := by
  unfold State.judge
  repeat' first
    | with_reducible assumption | (intro x; have hx : Kept s0 x := ?hk; clear_value x; case' hk => subst x)
    | (intro x; subst x) | intro _ | with_reducible apply Kept.ite | with_reducible apply State.each_kept
    | with_reducible apply State.judgeTypes_kept | with_reducible apply State.request_kept
    | with_reducible apply State.grant_kept | with_reducible apply State.makeReady_kept
    | (rewrite [State.mk_eq_ofB]; with_reducible refine Kept.upd ?_) | lift_lets -underBinder | dsimp -zeta only
    | split

theorem State.engineSignal_kept {s0 s : State} (k : Nat) (a : Nat) (hk0 : Kept s0 s) :
    Kept s0 (State.engineSignal s k a) := by
  unfold State.engineSignal
  repeat' first
    | with_reducible assumption | intro _ | with_reducible apply State.knotType_kept
    | with_reducible apply State.modKnot_kept | with_reducible apply State.knotOverflow_kept
    | with_reducible apply State.judge_kept | dsimp -zeta only | split

theorem State.applySignals_kept {s0 s : State} (key : Nat) (t : Task) (hk0 : Kept s0 s) :
    KeptP s0 (State.applySignals s key t) := by
  unfold State.applySignals
  repeat' first
    | with_reducible assumption | (intro x; have hx : Kept s0 x := ?hk; clear_value x; case' hk => subst x)
    | (intro x; subst x) | intro _ | (rewrite [pairP_eq]; with_reducible refine KeptP.mk ?_)
    | with_reducible apply State.knotType_kept | with_reducible apply State.endTask_kept
    | with_reducible apply State.modKnot_kept | with_reducible apply State.knotOverflow_kept
    | (rewrite [State.mk_eq_ofB]; with_reducible refine Kept.upd ?_) | with_reducible apply Kept.foldl
    | with_reducible apply KeptP.foldl | with_reducible refine Kept.of_fst (by assumption) ?_
    | with_reducible apply KeptP.fst | lift_lets -underBinder | dsimp -zeta only | split

theorem State.releaseHeld_kept {s0 s : State} (fk : Nat) (x1 : Nat) (hk0 : Kept s0 s) :
    Kept s0 (State.releaseHeld s fk x1) := by
  induction x1 generalizing s fk with
  | zero =>
    rewrite [State.releaseHeld]
    repeat' first
      | with_reducible assumption | (intro x; have hx : Kept s0 x := ?hk; clear_value x; case' hk => subst x)
      | (intro x; subst x) | intro _ | with_reducible apply Kept.ite | with_reducible apply KeptP.ite
      | (rewrite [pairP_eq]; with_reducible refine KeptP.mk ?_) | with_reducible apply State.applySignals_kept
      | (rewrite [State.mk_eq_ofB]; with_reducible refine Kept.upd ?_)
      | with_reducible refine Kept.of_fst (by assumption) ?_ | with_reducible apply KeptP.fst | lift_lets -underBinder
      | dsimp -zeta only | split
  | succ n ih =>
    rewrite [State.releaseHeld]
    repeat' first
      | with_reducible assumption | (intro x; have hx : Kept s0 x := ?hk; clear_value x; case' hk => subst x)
      | (intro x; subst x) | intro _ | with_reducible apply Kept.ite | with_reducible apply KeptP.ite
      | (rewrite [pairP_eq]; with_reducible refine KeptP.mk ?_) | with_reducible apply ih
      | with_reducible apply State.applySignals_kept | (rewrite [State.mk_eq_ofB]; with_reducible refine Kept.upd ?_)
      | with_reducible refine Kept.of_fst (by assumption) ?_ | with_reducible apply KeptP.fst | lift_lets -underBinder
      | dsimp -zeta only | split

theorem State.release_kept {s0 s : State} (key : Nat) (t : Task) (hk0 : Kept s0 s) :
    Kept s0 (State.release s key t) := by
  unfold State.release
  repeat' first
    | with_reducible assumption | (intro x; have hx : Kept s0 x := ?hk; clear_value x; case' hk => subst x)
    | (intro x; subst x) | intro _ | with_reducible apply Kept.ite | with_reducible apply KeptP.ite
    | (rewrite [pairP_eq]; with_reducible refine KeptP.mk ?_) | with_reducible apply State.applySignals_kept
    | with_reducible apply State.modSlot_kept | with_reducible apply State.releaseHeld_kept
    | (rewrite [State.mk_eq_ofB]; with_reducible refine Kept.upd ?_)
    | with_reducible refine Kept.of_fst (by assumption) ?_ | with_reducible apply KeptP.fst | lift_lets -underBinder
    | dsimp -zeta only | split

theorem State.unstall_kept {s0 s : State} (hk0 : Kept s0 s) :
    Kept s0 (State.unstall s) := by
  unfold State.unstall
  repeat' first
    | with_reducible assumption | intro _ | with_reducible apply State.each_kept
    | with_reducible apply State.release_kept | dsimp -zeta only | split

theorem State.completeTask_kept {s0 s : State} (key : Nat) (hk0 : Kept s0 s) :
    Kept s0 (State.completeTask s key) := by
  unfold State.completeTask
  repeat' first
    | with_reducible assumption | with_reducible apply State.release_kept | with_reducible apply State.unstall_kept
    | with_reducible apply State.judge_kept | split

theorem State.placeTask_kept {s0 s : State} (t : Task) (hk0 : Kept s0 s) :
    Kept s0 (State.placeTask s t) := by
  unfold State.placeTask
  repeat' first
    | with_reducible assumption | (intro x; have hx : Kept s0 x := ?hk; clear_value x; case' hk => subst x)
    | (intro x; subst x) | intro _ | with_reducible apply State.putFld_kept
    | (rewrite [State.mk_eq_ofB]; with_reducible refine Kept.upd ?_) | lift_lets -underBinder | dsimp -zeta only
    | split

theorem State.refuseInject_kept {s0 s : State} (q : Nat) (i : Nat) (c : Cmd) (code : Nat) (index : Nat) (hk0 : Kept s0 s) :
    Kept s0 (State.refuseInject s q i c code index) := by
  unfold State.refuseInject
  repeat' first
    | with_reducible assumption | (intro x; have hx : Kept s0 x := ?hk; clear_value x; case' hk => subst x)
    | (intro x; subst x) | intro _ | with_reducible apply Kept.ite | with_reducible apply State.badCommand_kept
    | lift_lets -underBinder | dsimp -zeta only | split

theorem State.injectSource_kept {s0 s : State} (q : Nat) (c : Cmd) (n : Nat) (hk0 : Kept s0 s) :
    KeptP s0 (State.injectSource s q c n) := by
  unfold State.injectSource
  repeat' first
    | with_reducible assumption | (intro x; have hx : Kept s0 x := ?hk; clear_value x; case' hk => subst x)
    | (intro x; subst x) | intro _ | with_reducible apply Kept.ite | with_reducible apply KeptP.ite
    | (rewrite [pairP_eq]; with_reducible refine KeptP.mk ?_) | with_reducible apply State.readVa_kept
    | with_reducible apply State.readLocal_kept | with_reducible refine Kept.of_fst (by assumption) ?_
    | with_reducible apply KeptP.fst | lift_lets -underBinder | dsimp -zeta only | split

theorem State.inject_kept {s0 s : State} (q : Nat) (i : Nat) (hk0 : Kept s0 s) :
    Kept s0 (State.inject s q i) := by
  unfold State.inject
  repeat' first
    | with_reducible assumption | (intro x; have hx : Kept s0 x := ?hk; clear_value x; case' hk => subst x)
    | (intro x; subst x) | intro _ | with_reducible apply Kept.ite | with_reducible apply KeptP.ite
    | (rewrite [pairP_eq]; with_reducible refine KeptP.mk ?_) | with_reducible apply State.start_kept
    | with_reducible apply State.refuseInject_kept | with_reducible apply State.injectSource_kept
    | with_reducible apply State.modQueue_kept | with_reducible apply State.staleCommand_kept
    | with_reducible apply State.complete_kept | (rewrite [State.mk_eq_ofB]; with_reducible refine Kept.upd ?_)
    | with_reducible refine Kept.of_fst (by assumption) ?_ | with_reducible apply KeptP.fst | lift_lets -underBinder
    | dsimp -zeta only | split

theorem State.endInject_kept {s0 s : State} (q : Nat) (i : Nat) (hk0 : Kept s0 s) :
    Kept s0 (State.endInject s q i) := by
  unfold State.endInject
  repeat' first
    | with_reducible assumption | intro _ | with_reducible apply State.modQueue_kept
    | (rewrite [State.mk_eq_ofB]; with_reducible refine Kept.upd ?_) | dsimp -zeta only | split

theorem State.injectPlace_kept {s0 s : State} (q : Nat) (i : Nat) (hk0 : Kept s0 s) :
    Kept s0 (State.injectPlace s q i) := by
  unfold State.injectPlace
  repeat' first
    | with_reducible assumption | (intro x; have hx : Kept s0 x := ?hk; clear_value x; case' hk => subst x)
    | (intro x; subst x) | intro _ | with_reducible apply Kept.ite | with_reducible apply State.endInject_kept
    | with_reducible apply State.staleCommand_kept | with_reducible apply State.each_kept
    | with_reducible apply State.placeTask_kept | with_reducible apply State.complete_kept
    | with_reducible apply State.judge_kept | lift_lets -underBinder | dsimp -zeta only | split

theorem State.countStalls_kept {s0 s : State} (tile : Nat) (unit : Nat) (c : StallCycles) (hk0 : Kept s0 s) :
    Kept s0 (State.countStalls s tile unit c) := by
  unfold State.countStalls
  repeat' first
    | with_reducible assumption | (intro x; have hx : Kept s0 x := ?hk; clear_value x; case' hk => subst x)
    | (intro x; subst x) | intro _ | with_reducible apply Kept.ite | with_reducible apply State.bump_kept
    | lift_lets -underBinder | dsimp -zeta only | split

theorem State.dispatch_kept {s0 s : State} (tile : Nat) (unit : Nat) (c : StallCycles) (hk0 : Kept s0 s) :
    Kept s0 (State.dispatch s tile unit c) := by
  unfold State.dispatch
  repeat' first
    | with_reducible assumption | intro _ | with_reducible apply Kept.ite
    | with_reducible apply State.countStalls_kept | with_reducible apply State.modSlot_kept
    | with_reducible apply State.bump_kept | (rewrite [State.mk_eq_ofB]; with_reducible refine Kept.upd ?_)
    | dsimp -zeta only | split

theorem State.knotSignal_kept {s0 s : State} (k : Nat) (v : Word) (hk0 : Kept s0 s) :
    Kept s0 (State.knotSignal s k v) := by
  unfold State.knotSignal
  repeat' first
    | with_reducible assumption | with_reducible apply Kept.ite | with_reducible apply State.engineSignal_kept | split

theorem State.knotStage_kept {s0 s : State} (k : Nat) (v : Word) (hk0 : Kept s0 s) :
    Kept s0 (State.knotStage s k v) := by
  unfold State.knotStage
  repeat' first
    | with_reducible assumption | intro _ | with_reducible apply State.modKnot_kept
    | (rewrite [State.mk_eq_ofB]; with_reducible refine Kept.upd ?_) | dsimp -zeta only | split

theorem State.knotInit_kept {s0 s : State} (k : Nat) (v : Word) (hk0 : Kept s0 s) :
    Kept s0 (State.knotInit s k v) := by
  unfold State.knotInit
  repeat' first
    | with_reducible assumption | (intro x; have hx : Kept s0 x := ?hk; clear_value x; case' hk => subst x)
    | (intro x; subst x) | intro _ | with_reducible apply Kept.ite | with_reducible apply State.modKnot_kept
    | with_reducible apply State.record_kept | with_reducible apply State.judge_kept
    | (rewrite [State.mk_eq_ofB]; with_reducible refine Kept.upd ?_) | lift_lets -underBinder | dsimp -zeta only
    | split

theorem State.signalMessage_kept {s0 s : State} (o : Origin) (k : Nat) (a : Nat) (hk0 : Kept s0 s) :
    Kept s0 (State.signalMessage s o k a) := by
  unfold State.signalMessage
  repeat' first
    | with_reducible assumption | with_reducible apply Kept.ite | with_reducible apply State.engineSignal_kept
    | with_reducible apply State.dropStale_kept | split

theorem State.clearHighWater_kept {s0 s : State} (tile : Nat) (hk0 : Kept s0 s) :
    Kept s0 (State.clearHighWater s tile) := by
  unfold State.clearHighWater
  repeat' first
    | with_reducible assumption | with_reducible apply State.putFld_kept | split

theorem State.clearSchCounters_kept {s0 s : State} (tile : Nat) (hk0 : Kept s0 s) :
    Kept s0 (State.clearSchCounters s tile) := by
  unfold State.clearSchCounters
  repeat' first
    | with_reducible assumption | (intro x; have hx : Kept s0 x := ?hk; clear_value x; case' hk => subst x)
    | (intro x; subst x) | intro _ | with_reducible apply State.each_kept | with_reducible apply State.putReg_kept
    | lift_lets -underBinder | dsimp -zeta only | split

theorem State.openShadows_kept {s0 s : State} (g : Nat) (hk0 : Kept s0 s) :
    Kept s0 (State.openShadows s g) := by
  unfold State.openShadows
  repeat' first
    | with_reducible assumption | (intro x; have hx : Kept s0 x := ?hk; clear_value x; case' hk => subst x)
    | (intro x; subst x) | intro _ | with_reducible apply Kept.ite
    | (rewrite [State.mk_eq_ofB]; with_reducible refine Kept.upd ?_) | lift_lets -underBinder | dsimp -zeta only
    | split

theorem State.discardTasks_kept {s0 s : State} (p : Nat → Slot → Bool) (count : Bool) (hk0 : Kept s0 s) :
    Kept s0 (State.discardTasks s p count) := by
  unfold State.discardTasks
  repeat' first
    | with_reducible assumption | (intro x; have hx : Kept s0 x := ?hk; clear_value x; case' hk => subst x)
    | (intro x; subst x) | intro _ | with_reducible apply Kept.ite | with_reducible apply State.withdraw_kept
    | with_reducible apply State.each_kept | with_reducible apply State.bump_kept
    | (rewrite [State.mk_eq_ofB]; with_reducible refine Kept.upd ?_) | lift_lets -underBinder | dsimp -zeta only
    | split

theorem State.rewindSched_kept {s0 s : State} (g : Nat) (n : Nat) (hk0 : Kept s0 s) :
    Kept s0 (State.rewindSched s g n) := by
  unfold State.rewindSched
  repeat' first
    | with_reducible assumption | (intro x; have hx : Kept s0 x := ?hk; clear_value x; case' hk => subst x)
    | (intro x; subst x) | intro _ | with_reducible apply Kept.ite | with_reducible apply State.discardTasks_kept
    | with_reducible apply State.unstall_kept | with_reducible apply State.judge_kept
    | (rewrite [State.mk_eq_ofB]; with_reducible refine Kept.upd ?_) | lift_lets -underBinder | dsimp -zeta only
    | split

theorem State.discardGrove_kept {s0 s : State} (g : Nat) (hk0 : Kept s0 s) :
    Kept s0 (State.discardGrove s g) := by
  unfold State.discardGrove
  repeat' first
    | with_reducible assumption | intro _ | with_reducible apply State.discardTasks_kept
    | with_reducible apply State.withdraw_kept | dsimp -zeta only | split

theorem State.zeroFlows_kept {s0 s : State} (g : Nat) (hk0 : Kept s0 s) :
    Kept s0 (State.zeroFlows s g) := by
  unfold State.zeroFlows
  repeat' first
    | with_reducible assumption | intro _ | (rewrite [State.mk_eq_ofB]; with_reducible refine Kept.upd ?_)
    | dsimp -zeta only | split

theorem State.discardTile_kept {s0 s : State} (tile : Nat) (hk0 : Kept s0 s) :
    Kept s0 (State.discardTile s tile) := by
  unfold State.discardTile
  repeat' first
    | with_reducible assumption | intro _ | with_reducible apply State.discardTasks_kept | dsimp -zeta only | split

theorem State.voidInjects_kept {s0 s : State} (g : Nat) (n : Nat) (hk0 : Kept s0 s) :
    Kept s0 (State.voidInjects s g n) := by
  unfold State.voidInjects
  repeat' first
    | with_reducible assumption | intro _ | with_reducible apply Kept.ite | with_reducible apply State.each_kept
    | with_reducible apply State.endInject_kept | with_reducible apply State.complete_kept | dsimp -zeta only | split

theorem State.clearKnots_kept {s0 s : State} (p : Nat → Bool) (hk0 : Kept s0 s) :
    Kept s0 (State.clearKnots s p) := by
  unfold State.clearKnots
  repeat' first
    | with_reducible assumption | intro _ | (rewrite [State.mk_eq_ofB]; with_reducible refine Kept.upd ?_)
    | dsimp -zeta only | split

theorem State.histAdd_kept {s0 s : State} (src : Src) (die : Nat) (g : Nat) (stream : Nat) (ix : Nat) (hk0 : Kept s0 s) :
    Kept s0 (State.histAdd s src die g stream ix) := by
  unfold State.histAdd
  repeat' first
    | with_reducible assumption | (intro x; have hx : Kept s0 x := ?hk; clear_value x; case' hk => subst x)
    | (intro x; subst x) | intro _ | with_reducible apply Kept.ite | with_reducible apply State.record_kept
    | with_reducible apply State.corrected_kept | (rewrite [State.mk_eq_ofB]; with_reducible refine Kept.upd ?_)
    | lift_lets -underBinder | dsimp -zeta only | split

theorem State.clearHists_kept {s0 s : State} (g : Nat) (hk0 : Kept s0 s) :
    Kept s0 (State.clearHists s g) := by
  unfold State.clearHists
  repeat' first
    | with_reducible assumption | intro _ | (rewrite [State.mk_eq_ofB]; with_reducible refine Kept.upd ?_)
    | dsimp -zeta only | split

theorem State.saturate_kept {s0 s : State} (c : Nat) (line : Nat) (lineOff : Nat) (o : Nat) (hk0 : Kept s0 s) :
    Kept s0 (State.saturate s c line lineOff o) := by
  unfold State.saturate
  repeat' first
    | with_reducible assumption | (intro x; have hx : Kept s0 x := ?hk; clear_value x; case' hk => subst x)
    | (intro x; subst x) | intro _ | with_reducible apply State.bump_kept | with_reducible apply State.record_kept
    | (rewrite [State.mk_eq_ofB]; with_reducible refine Kept.upd ?_) | lift_lets -underBinder | dsimp -zeta only
    | split

theorem State.accAdd_kept {s0 s : State} (c : Nat) (line : Nat) (lineOff : Nat) (op : AccOp) (adds : List (Nat × Nat)) (hk0 : Kept s0 s) :
    KeptP s0 (State.accAdd s c line lineOff op adds) := by
  unfold State.accAdd
  repeat' first
    | with_reducible assumption | (intro x; have hx : Kept s0 x := ?hk; clear_value x; case' hk => subst x)
    | (intro x; subst x) | intro _ | with_reducible apply Kept.ite | with_reducible apply KeptP.ite
    | (rewrite [pairP_eq]; with_reducible refine KeptP.mk ?_) | with_reducible apply State.settleWcb_kept
    | with_reducible apply State.accLine_kept | with_reducible apply State.unsaturate_kept
    | with_reducible apply State.each_kept | with_reducible apply State.saturate_kept
    | with_reducible refine Kept.of_fst (by assumption) ?_ | with_reducible apply KeptP.fst | lift_lets -underBinder
    | dsimp -zeta only | split

theorem State.accumulateBy_kept {s0 s : State} (p : Party) (op : AccOp) (off : Nat) (mask : Nat) (values : List Nat) (hk0 : Kept s0 s) :
    KeptP s0 (State.accumulateBy s p op off mask values) := by
  unfold State.accumulateBy
  repeat' first
    | with_reducible assumption | (intro x; have hx : Kept s0 x := ?hk; clear_value x; case' hk => subst x)
    | (intro x; subst x) | intro _ | with_reducible apply Kept.ite | with_reducible apply KeptP.ite
    | (rewrite [pairP_eq]; with_reducible refine KeptP.mk ?_)
    | (rewrite [pairQ_eq]; with_reducible refine KeptQ.mk ?_) | with_reducible apply KeptQ.ite
    | with_reducible apply State.touch_kept | with_reducible apply State.accAdd_kept
    | with_reducible apply State.ueRecord_kept | with_reducible apply State.unmappedRecord_kept
    | with_reducible apply Kept.foldl | with_reducible apply KeptP.foldl
    | with_reducible refine Kept.of_fst (by assumption) ?_ | with_reducible apply KeptP.fst
    | with_reducible refine Kept.of_snd (by assumption) ?_ | with_reducible apply KeptQ.snd | lift_lets -underBinder
    | dsimp -zeta only | split

theorem State.accumulate_kept {s0 s : State} (g : Nat) (op : AccOp) (off : Nat) (mask : Nat) (values : List Nat) (hk0 : Kept s0 s) :
    KeptP s0 (State.accumulate s g op off mask values) := by
  unfold State.accumulate
  repeat' first
    | with_reducible assumption | (rewrite [pairP_eq]; with_reducible refine KeptP.mk ?_)
    | with_reducible apply State.accumulateBy_kept | with_reducible refine Kept.of_fst (by assumption) ?_
    | with_reducible apply KeptP.fst | split

theorem State.accumulateVa_kept {s0 s : State} (g : Nat) (op : AccOp) (va : Nat) (mask : Nat) (values : List Nat) (hk0 : Kept s0 s) :
    KeptP s0 (State.accumulateVa s g op va mask values) := by
  unfold State.accumulateVa
  repeat' first
    | with_reducible assumption | (rewrite [pairP_eq]; with_reducible refine KeptP.mk ?_)
    | with_reducible apply State.accumulate_kept | with_reducible refine Kept.of_fst (by assumption) ?_
    | with_reducible apply KeptP.fst | split

end Sys2Proof.Machine
end

