-- ==== Sys2Proof/Laws/KeptSampler.lean ====
section
/-! SUPPORT. What the operations of Machine/Sampler keep: `Kept`, one lemma each. -/
set_option Elab.async false
set_option linter.unusedTactic false
set_option linter.unreachableTactic false
set_option linter.unnecessarySeqFocus false
namespace Sys2Proof.Machine

theorem State.readList_kept {s0 s : State} (g : Nat) (shard : Nat) (local_ : Nat) (hk0 : Kept s0 s) :
    KeptP s0 (State.readList s g shard local_) := by
  unfold State.readList
  repeat' first
    | with_reducible assumption | (intro x; have hx : Kept s0 x := ?hk; clear_value x; case' hk => subst x)
    | (intro x; subst x) | intro _ | with_reducible apply Kept.ite | with_reducible apply KeptP.ite
    | (rewrite [pairP_eq]; with_reducible refine KeptP.mk ?_) | with_reducible apply State.readLocal_kept
    | (rewrite [State.mk_eq_ofB]; with_reducible refine Kept.upd ?_)
    | with_reducible refine Kept.of_fst (by assumption) ?_ | with_reducible apply KeptP.fst | lift_lets -underBinder
    | dsimp -zeta only | split

theorem State.readEdges_kept {s0 s : State} (g : Nat) (l : BarkList) (x1 : List Nat) (hk0 : Kept s0 s) :
    KeptP s0 (State.readEdges s g l x1) := by
  induction x1 generalizing s g l with
  | nil =>
    rewrite [State.readEdges]
    repeat' first
      | with_reducible assumption | with_reducible apply Kept.ite | with_reducible apply KeptP.ite
      | (rewrite [pairP_eq]; with_reducible refine KeptP.mk ?_) | with_reducible apply State.readLocal_kept
      | with_reducible refine Kept.of_fst (by assumption) ?_ | with_reducible apply KeptP.fst | split
  | cons y t ih =>
    rewrite [State.readEdges]
    repeat' first
      | with_reducible assumption | with_reducible apply Kept.ite | with_reducible apply KeptP.ite
      | (rewrite [pairP_eq]; with_reducible refine KeptP.mk ?_) | with_reducible apply ih
      | with_reducible apply State.readLocal_kept | with_reducible refine Kept.of_fst (by assumption) ?_
      | with_reducible apply KeptP.fst | split

theorem State.modProg_kept {s0 s : State} (k : Nat) (f : Prog → Prog) (hk0 : Kept s0 s) :
    Kept s0 (State.modProg s k f) := by
  unfold State.modProg
  repeat' first
    | with_reducible assumption | (rewrite [State.mk_eq_ofB]; with_reducible refine Kept.upd ?_) | dsimp -zeta only
    | split

theorem State.smpRecord_kept {s0 s : State} (k : Nat) (code : Nat) (g : Nat) (seed : Nat) (slot : Nat) (hop : Nat) (answer : Nat) (hk0 : Kept s0 s) :
    Kept s0 (State.smpRecord s k code g seed slot hop answer) := by
  unfold State.smpRecord
  repeat' first
    | with_reducible assumption | (intro x; have hx : Kept s0 x := ?hk; clear_value x; case' hk => subst x)
    | (intro x; subst x) | intro _ | with_reducible apply State.putReg_kept | with_reducible apply State.record_kept
    | lift_lets -underBinder | dsimp -zeta only | split

theorem State.modLane_kept {s0 s : State} (l : Nat) (f : LaneSeed → LaneSeed) (hk0 : Kept s0 s) :
    Kept s0 (State.modLane s l f) := by
  unfold State.modLane
  repeat' first
    | with_reducible assumption | intro _ | with_reducible apply Kept.ite
    | (rewrite [State.mk_eq_ofB]; with_reducible refine Kept.upd ?_) | dsimp -zeta only | split

theorem State.dropLanes_kept {s0 s : State} (p : Nat → LaneSeed → Bool) (hk0 : Kept s0 s) :
    Kept s0 (State.dropLanes s p) := by
  unfold State.dropLanes
  repeat' first
    | with_reducible assumption | intro _ | (rewrite [State.mk_eq_ofB]; with_reducible refine Kept.upd ?_)
    | dsimp -zeta only | split

theorem State.smpFault_kept {s0 s : State} (k : Nat) (code : Nat) (seed : Nat) (slot : Nat) (hop : Nat) (answer : Nat) (hk0 : Kept s0 s) :
    Kept s0 (State.smpFault s k code seed slot hop answer) := by
  unfold State.smpFault
  repeat' first
    | with_reducible assumption | (intro x; have hx : Kept s0 x := ?hk; clear_value x; case' hk => subst x)
    | (intro x; subst x) | intro _ | with_reducible apply State.smpRecord_kept
    | with_reducible apply State.modProg_kept | with_reducible apply State.dropLanes_kept
    | (rewrite [State.mk_eq_ofB]; with_reducible refine Kept.upd ?_) | lift_lets -underBinder | dsimp -zeta only
    | split

theorem State.laneFault_kept {s0 s : State} (x : LaneSeed) (slot : Nat) (code : Nat) (answer : Nat) (hk0 : Kept s0 s) :
    Kept s0 (State.laneFault s x slot code answer) := by
  unfold State.laneFault
  repeat' first
    | with_reducible assumption | with_reducible apply State.smpFault_kept | split

theorem State.writeTwig_kept {s0 s : State} (d : ProgDesc) (seed : Nat) (slot : Nat) (b : List Byte) (hk0 : Kept s0 s) :
    KeptP s0 (State.writeTwig s d seed slot b) := by
  unfold State.writeTwig
  repeat' first
    | with_reducible assumption | (rewrite [pairP_eq]; with_reducible refine KeptP.mk ?_)
    | with_reducible apply State.writeVa_kept | with_reducible refine Kept.of_fst (by assumption) ?_
    | with_reducible apply KeptP.fst | split

theorem State.writeTwigs_kept {s0 s : State} (d : ProgDesc) (seed : Nat) (x1 : List (Nat × List Byte)) (hk0 : Kept s0 s) :
    KeptP s0 (State.writeTwigs s d seed x1) := by
  induction x1 generalizing s d seed with
  | nil =>
    rewrite [State.writeTwigs]
    repeat' first
      | with_reducible assumption | (rewrite [pairP_eq]; with_reducible refine KeptP.mk ?_)
      | with_reducible apply State.writeTwig_kept | with_reducible refine Kept.of_fst (by assumption) ?_
      | with_reducible apply KeptP.fst | split
  | cons y t ih =>
    rewrite [State.writeTwigs]
    repeat' first
      | with_reducible assumption | (rewrite [pairP_eq]; with_reducible refine KeptP.mk ?_) | with_reducible apply ih
      | with_reducible apply State.writeTwig_kept | with_reducible refine Kept.of_fst (by assumption) ?_
      | with_reducible apply KeptP.fst | split

theorem State.resolve_kept {s0 s : State} (d : ProgDesc) (v : Nat) (hk0 : Kept s0 s) :
    KeptP s0 (State.resolve s d v) := by
  unfold State.resolve
  repeat' first
    | with_reducible assumption | (intro x; have hx : Kept s0 x := ?hk; clear_value x; case' hk => subst x)
    | (intro x; subst x) | intro _ | with_reducible apply Kept.ite | with_reducible apply KeptP.ite
    | (rewrite [pairP_eq]; with_reducible refine KeptP.mk ?_) | with_reducible apply State.readVa_kept
    | with_reducible refine Kept.of_fst (by assumption) ?_ | with_reducible apply KeptP.fst | lift_lets -underBinder
    | dsimp -zeta only | split

theorem State.sendAdj_kept {s0 s : State} (die : Nat) (g : Nat) (device : Nat) (opcode : Nat) (payload : List Byte) (hk0 : Kept s0 s) :
    Kept s0 (State.sendAdj s die g device opcode payload) := by
  unfold State.sendAdj
  repeat' first
    | with_reducible assumption | with_reducible apply State.bump_kept | with_reducible apply State.sendMsg_kept
    | split

theorem State.issueParent_kept {s0 s : State} (lane : Nat) (slot : Nat) (hk0 : Kept s0 s) :
    Kept s0 (State.issueParent s lane slot) := by
  unfold State.issueParent
  repeat' first
    | with_reducible assumption | (intro x; have hx : Kept s0 x := ?hk; clear_value x; case' hk => subst x)
    | (intro x; subst x) | intro _ | with_reducible apply Kept.ite | with_reducible apply KeptP.ite
    | (rewrite [pairP_eq]; with_reducible refine KeptP.mk ?_) | with_reducible apply State.resolve_kept
    | with_reducible apply State.laneFault_kept | with_reducible apply State.modLane_kept
    | with_reducible apply State.request_kept | with_reducible apply State.sendAdj_kept
    | (rewrite [State.mk_eq_ofB]; with_reducible refine Kept.upd ?_)
    | with_reducible refine Kept.of_fst (by assumption) ?_ | with_reducible apply KeptP.fst | lift_lets -underBinder
    | dsimp -zeta only | split

theorem State.pumpLane_kept {s0 s : State} (lane : Nat) (x1 : Nat) (hk0 : Kept s0 s) :
    Kept s0 (State.pumpLane s lane x1) := by
  induction x1 generalizing s lane with
  | zero =>
    rewrite [State.pumpLane]
    repeat' first
      | with_reducible assumption | intro _ | with_reducible apply Kept.ite
      | with_reducible apply State.issueParent_kept | dsimp -zeta only | split
  | succ n ih =>
    rewrite [State.pumpLane]
    repeat' first
      | with_reducible assumption | intro _ | with_reducible apply Kept.ite | with_reducible apply ih
      | with_reducible apply State.issueParent_kept | dsimp -zeta only | split

theorem State.signalGroups_kept {s0 s : State} (k : Nat) (d : ProgDesc) (x1 : Nat) (hk0 : Kept s0 s) :
    Kept s0 (State.signalGroups s k d x1) := by
  induction x1 generalizing s k d with
  | zero =>
    rewrite [State.signalGroups]
    repeat' first
      | with_reducible assumption | (intro x; have hx : Kept s0 x := ?hk; clear_value x; case' hk => subst x)
      | (intro x; subst x) | intro _ | with_reducible apply Kept.ite | with_reducible apply State.modProg_kept
      | with_reducible apply State.engineSignal_kept | (rewrite [State.mk_eq_ofB]; with_reducible refine Kept.upd ?_)
      | lift_lets -underBinder | dsimp -zeta only | split
  | succ n ih =>
    rewrite [State.signalGroups]
    repeat' first
      | with_reducible assumption | (intro x; have hx : Kept s0 x := ?hk; clear_value x; case' hk => subst x)
      | (intro x; subst x) | intro _ | with_reducible apply Kept.ite | with_reducible apply ih
      | with_reducible apply State.modProg_kept | with_reducible apply State.engineSignal_kept
      | (rewrite [State.mk_eq_ofB]; with_reducible refine Kept.upd ?_) | lift_lets -underBinder | dsimp -zeta only
      | split

theorem State.endRun_kept {s0 s : State} (k : Nat) (d : ProgDesc) (hk0 : Kept s0 s) :
    Kept s0 (State.endRun s k d) := by
  unfold State.endRun
  repeat' first
    | with_reducible assumption | intro _ | with_reducible apply Kept.ite | with_reducible apply State.modProg_kept
    | (rewrite [State.mk_eq_ofB]; with_reducible refine Kept.upd ?_) | dsimp -zeta only | split

theorem State.startSeed_kept {s0 s : State} (lane : Nat) (k : Nat) (hk0 : Kept s0 s) :
    Kept s0 (State.startSeed s lane k) := by
  unfold State.startSeed
  repeat' first
    | with_reducible assumption | (intro x; have hx : Kept s0 x := ?hk; clear_value x; case' hk => subst x)
    | (intro x; subst x) | intro _ | (rewrite [pairP_eq]; with_reducible refine KeptP.mk ?_)
    | with_reducible apply State.record_kept | with_reducible apply State.modProg_kept
    | with_reducible apply State.readVa_kept | with_reducible apply State.pumpLane_kept
    | with_reducible apply State.smpFault_kept | (rewrite [State.mk_eq_ofB]; with_reducible refine Kept.upd ?_)
    | with_reducible refine Kept.of_fst (by assumption) ?_ | with_reducible apply KeptP.fst | lift_lets -underBinder
    | dsimp -zeta only | split

theorem State.dealWith_kept {s0 s : State} (die : Nat) (x1 : Nat) (hk0 : Kept s0 s) :
    Kept s0 (State.dealWith s die x1) := by
  induction x1 generalizing s die with
  | zero =>
    rewrite [State.dealWith]
    repeat' first
      | with_reducible assumption | with_reducible apply State.startSeed_kept | split
  | succ n ih =>
    rewrite [State.dealWith]
    repeat' first
      | with_reducible assumption | with_reducible apply ih | with_reducible apply State.startSeed_kept | split

theorem State.dealSeeds_kept {s0 s : State} (die : Nat) (hk0 : Kept s0 s) :
    Kept s0 (State.dealSeeds s die) := by
  unfold State.dealSeeds
  repeat' first
    | with_reducible assumption | with_reducible apply State.dealWith_kept | split

theorem State.seedDone_kept {s0 s : State} (lane : Nat) (x : LaneSeed) (d : ProgDesc) (hk0 : Kept s0 s) :
    Kept s0 (State.seedDone s lane x d) := by
  unfold State.seedDone
  repeat' first
    | with_reducible assumption | (intro x; have hx : Kept s0 x := ?hk; clear_value x; case' hk => subst x)
    | (intro x; subst x) | intro _ | with_reducible apply State.dropLanes_kept
    | with_reducible apply State.modProg_kept | with_reducible apply State.signalGroups_kept
    | with_reducible apply State.endRun_kept | with_reducible apply State.dealSeeds_kept
    | (rewrite [State.mk_eq_ofB]; with_reducible refine Kept.upd ?_) | lift_lets -underBinder | dsimp -zeta only
    | split

theorem State.finishParent_kept {s0 s : State} (lane : Nat) (slot : Nat) (children : List (Nat × Nat)) (rejects : Nat) (hk0 : Kept s0 s) :
    Kept s0 (State.finishParent s lane slot children rejects) := by
  unfold State.finishParent
  repeat' first
    | with_reducible assumption | (intro x; have hx : Kept s0 x := ?hk; clear_value x; case' hk => subst x)
    | (intro x; subst x) | intro _ | with_reducible apply Kept.ite | with_reducible apply KeptP.ite
    | (rewrite [pairP_eq]; with_reducible refine KeptP.mk ?_) | with_reducible apply State.bump_kept
    | with_reducible apply State.writeTwigs_kept | with_reducible apply State.modLane_kept
    | with_reducible apply State.pumpLane_kept | with_reducible apply State.seedDone_kept
    | with_reducible apply State.dealSeeds_kept | with_reducible apply State.laneFault_kept
    | (rewrite [State.mk_eq_ofB]; with_reducible refine Kept.upd ?_) | with_reducible apply Kept.foldl
    | with_reducible apply KeptP.foldl | with_reducible refine Kept.of_fst (by assumption) ?_
    | with_reducible apply KeptP.fst | lift_lets -underBinder | dsimp -zeta only | split

theorem State.adjReturn_kept {s0 s : State} (lane : Nat) (slot : Nat) (cycles : Nat) (hk0 : Kept s0 s) :
    Kept s0 (State.adjReturn s lane slot cycles) := by
  unfold State.adjReturn
  repeat' first
    | with_reducible assumption | (intro x; have hx : Kept s0 x := ?hk; clear_value x; case' hk => subst x)
    | (intro x; subst x) | intro _ | with_reducible apply Kept.ite | with_reducible apply KeptP.ite
    | (rewrite [pairP_eq]; with_reducible refine KeptP.mk ?_) | with_reducible apply State.bump_kept
    | with_reducible apply State.laneFault_kept | with_reducible apply State.dealSeeds_kept
    | with_reducible apply State.resolve_kept | with_reducible apply State.readList_kept
    | with_reducible apply State.readEdges_kept | with_reducible apply State.finishParent_kept
    | with_reducible refine Kept.of_fst (by assumption) ?_ | with_reducible apply KeptP.fst | lift_lets -underBinder
    | dsimp -zeta only | split

theorem State.remoteStep_kept {s0 s : State} (lane : Nat) (slot : Nat) (rejects : Nat) (hk0 : Kept s0 s) :
    Kept s0 (State.remoteStep s lane slot rejects) := by
  unfold State.remoteStep
  repeat' first
    | with_reducible assumption | (intro x; have hx : Kept s0 x := ?hk; clear_value x; case' hk => subst x)
    | (intro x; subst x) | intro _ | with_reducible apply Kept.ite | with_reducible apply KeptP.ite
    | (rewrite [pairP_eq]; with_reducible refine KeptP.mk ?_) | with_reducible apply State.bump_kept
    | with_reducible apply State.finishParent_kept | with_reducible apply State.resolve_kept
    | with_reducible apply State.modLane_kept | with_reducible apply State.sendAdj_kept
    | with_reducible apply State.request_kept | with_reducible apply State.laneFault_kept
    | (rewrite [State.mk_eq_ofB]; with_reducible refine Kept.upd ?_)
    | with_reducible refine Kept.of_fst (by assumption) ?_ | with_reducible apply KeptP.fst | lift_lets -underBinder
    | dsimp -zeta only | split

theorem State.adjResponse_kept {s0 s : State} (die : Nat) (req : Nat) (r : AdjResp) (hk0 : Kept s0 s) :
    Kept s0 (State.adjResponse s die req r) := by
  unfold State.adjResponse
  repeat' first
    | with_reducible assumption | (intro x; have hx : Kept s0 x := ?hk; clear_value x; case' hk => subst x)
    | (intro x; subst x) | intro _ | with_reducible apply Kept.ite | with_reducible apply State.laneFault_kept
    | with_reducible apply State.dealSeeds_kept | with_reducible apply State.modLane_kept
    | with_reducible apply State.remoteStep_kept | (rewrite [State.mk_eq_ofB]; with_reducible refine Kept.upd ?_)
    | lift_lets -underBinder | dsimp -zeta only | split

theorem State.adjRefused_kept {s0 s : State} (die : Nat) (req : Nat) (code : Nat) (answer : Nat) (hk0 : Kept s0 s) :
    Kept s0 (State.adjRefused s die req code answer) := by
  unfold State.adjRefused
  repeat' first
    | with_reducible assumption | with_reducible apply State.laneFault_kept
    | with_reducible apply State.dealSeeds_kept | split

theorem State.adjTimeout_kept {s0 s : State} (die : Nat) (req : Nat) (hk0 : Kept s0 s) :
    Kept s0 (State.adjTimeout s die req) := by
  unfold State.adjTimeout
  repeat' first
    | with_reducible assumption | (intro x; have hx : Kept s0 x := ?hk; clear_value x; case' hk => subst x)
    | (intro x; subst x) | intro _ | with_reducible apply Kept.ite | with_reducible apply KeptP.ite
    | (rewrite [pairP_eq]; with_reducible refine KeptP.mk ?_) | with_reducible apply State.laneFault_kept
    | with_reducible apply State.dealSeeds_kept | with_reducible apply State.bump_kept
    | with_reducible apply State.resolve_kept | with_reducible apply State.modLane_kept
    | with_reducible apply State.sendAdj_kept | with_reducible apply State.request_kept
    | (rewrite [State.mk_eq_ofB]; with_reducible refine Kept.upd ?_)
    | with_reducible refine Kept.of_fst (by assumption) ?_ | with_reducible apply KeptP.fst | lift_lets -underBinder
    | dsimp -zeta only | split

theorem State.sendNeg_kept {s0 s : State} (die : Nat) (device : Nat) (g : Nat) (code : Nat) (request : Nat) (hk0 : Kept s0 s) :
    Kept s0 (State.sendNeg s die device g code request) := by
  unfold State.sendNeg
  repeat' first
    | with_reducible assumption | with_reducible apply State.sendMsg_kept | with_reducible apply State.request_kept
    | split

theorem State.refuseHearth_kept {s0 s : State} (die : Nat) (g : Nat) (device : Nat) (off : Nat) (request : Nat) (hk0 : Kept s0 s) :
    Kept s0 (State.refuseHearth s die g device off request) := by
  unfold State.refuseHearth
  repeat' first
    | with_reducible assumption | with_reducible apply State.record_kept | with_reducible apply State.sendNeg_kept
    | with_reducible apply State.request_kept | split

theorem State.serveFail_kept {s0 s : State} (die : Nat) (o : Origin) (request : Nat) (opcode : Nat) (x1 : Bark Unit) (hk0 : Kept s0 s) :
    Kept s0 (State.serveFail s die o request opcode x1) := by
  unfold State.serveFail
  repeat' first
    | with_reducible assumption | with_reducible apply State.sendMsg_kept | with_reducible apply State.request_kept
    | with_reducible apply State.dropStale_kept | with_reducible apply State.sendNeg_kept | split

theorem State.holdServe_kept {s0 s : State} (h : HeldServe) (hk0 : Kept s0 s) :
    Kept s0 (State.holdServe s h) := by
  unfold State.holdServe
  repeat' first
    | with_reducible assumption | with_reducible apply State.serve_kept
    | (rewrite [State.mk_eq_ofB]; with_reducible refine Kept.upd ?_) | dsimp -zeta only | split

theorem State.adjRange_kept {s0 s : State} (die : Nat) (o : Origin) (r : AdjRange) (again : Bool) (hk0 : Kept s0 s) :
    Kept s0 (State.adjRange s die o r again) := by
  unfold State.adjRange
  repeat' first
    | with_reducible assumption | (intro x; have hx : Kept s0 x := ?hk; clear_value x; case' hk => subst x)
    | (intro x; subst x) | intro _ | with_reducible apply Kept.ite | with_reducible apply KeptP.ite
    | (rewrite [pairP_eq]; with_reducible refine KeptP.mk ?_) | with_reducible apply State.dropStale_kept
    | with_reducible apply State.refuseHearth_kept | with_reducible apply State.request_kept
    | with_reducible apply State.spend_kept | with_reducible apply State.holdServe_kept
    | with_reducible apply State.readList_kept | with_reducible apply State.serveFail_kept
    | with_reducible apply State.sendMsg_kept | with_reducible refine Kept.of_fst (by assumption) ?_
    | with_reducible apply KeptP.fst | lift_lets -underBinder | dsimp -zeta only | split

theorem State.adjPick_kept {s0 s : State} (die : Nat) (o : Origin) (r : AdjPick) (again : Bool) (hk0 : Kept s0 s) :
    Kept s0 (State.adjPick s die o r again) := by
  unfold State.adjPick
  repeat' first
    | with_reducible assumption | (intro x; have hx : Kept s0 x := ?hk; clear_value x; case' hk => subst x)
    | (intro x; subst x) | intro _ | with_reducible apply Kept.ite | with_reducible apply KeptP.ite
    | (rewrite [pairP_eq]; with_reducible refine KeptP.mk ?_) | with_reducible apply State.dropStale_kept
    | with_reducible apply State.refuseHearth_kept | with_reducible apply State.request_kept
    | with_reducible apply State.spend_kept | with_reducible apply State.holdServe_kept
    | with_reducible apply State.readList_kept | with_reducible apply State.serveFail_kept
    | with_reducible apply State.readEdges_kept | with_reducible apply State.sendMsg_kept
    | with_reducible refine Kept.of_fst (by assumption) ?_ | with_reducible apply KeptP.fst | lift_lets -underBinder
    | dsimp -zeta only | split

theorem State.refuseSmp_kept {s0 s : State} (q : Nat) (i : Nat) (k : Nat) (code : Nat) (hk0 : Kept s0 s) :
    Kept s0 (State.refuseSmp s q i k code) := by
  unfold State.refuseSmp
  repeat' first
    | with_reducible assumption | with_reducible apply State.smpRecord_kept | with_reducible apply State.complete_kept
    | with_reducible apply State.badCommand_kept | split

theorem State.streamSet_kept {s0 s : State} (q : Nat) (i : Nat) (hk0 : Kept s0 s) :
    Kept s0 (State.streamSet s q i) := by
  unfold State.streamSet
  repeat' first
    | with_reducible assumption | (intro x; have hx : Kept s0 x := ?hk; clear_value x; case' hk => subst x)
    | (intro x; subst x) | intro _ | with_reducible apply Kept.ite | with_reducible apply State.start_kept
    | with_reducible apply State.refuseSmp_kept | with_reducible apply State.complete_kept
    | (rewrite [State.mk_eq_ofB]; with_reducible refine Kept.upd ?_) | lift_lets -underBinder | dsimp -zeta only
    | split

theorem State.progLoad_kept {s0 s : State} (q : Nat) (i : Nat) (hk0 : Kept s0 s) :
    Kept s0 (State.progLoad s q i) := by
  unfold State.progLoad
  repeat' first
    | with_reducible assumption | (intro x; have hx : Kept s0 x := ?hk; clear_value x; case' hk => subst x)
    | (intro x; subst x) | intro _ | with_reducible apply Kept.ite | with_reducible apply KeptP.ite
    | (rewrite [pairP_eq]; with_reducible refine KeptP.mk ?_) | with_reducible apply State.start_kept
    | with_reducible apply State.refuseSmp_kept | with_reducible apply State.readVa_kept
    | with_reducible apply State.modProg_kept | with_reducible apply State.complete_kept
    | (rewrite [State.mk_eq_ofB]; with_reducible refine Kept.upd ?_)
    | with_reducible refine Kept.of_fst (by assumption) ?_ | with_reducible apply KeptP.fst | lift_lets -underBinder
    | dsimp -zeta only | split

theorem State.progUnload_kept {s0 s : State} (q : Nat) (i : Nat) (hk0 : Kept s0 s) :
    Kept s0 (State.progUnload s q i) := by
  unfold State.progUnload
  repeat' first
    | with_reducible assumption | (intro x; have hx : Kept s0 x := ?hk; clear_value x; case' hk => subst x)
    | (intro x; subst x) | intro _ | with_reducible apply Kept.ite | with_reducible apply State.start_kept
    | with_reducible apply State.refuseSmp_kept | with_reducible apply State.complete_kept
    | with_reducible apply State.modProg_kept | (rewrite [State.mk_eq_ofB]; with_reducible refine Kept.upd ?_)
    | lift_lets -underBinder | dsimp -zeta only | split

theorem State.openSampler_kept {s0 s : State} (g : Nat) (n : Nat) (hk0 : Kept s0 s) :
    Kept s0 (State.openSampler s g n) := by
  unfold State.openSampler
  repeat' first
    | with_reducible assumption | (intro x; have hx : Kept s0 x := ?hk; clear_value x; case' hk => subst x)
    | (intro x; subst x) | intro _ | with_reducible apply Kept.ite | with_reducible apply State.each_kept
    | with_reducible apply State.modProg_kept | with_reducible apply State.smpRecord_kept
    | (rewrite [State.mk_eq_ofB]; with_reducible refine Kept.upd ?_) | lift_lets -underBinder | dsimp -zeta only
    | split

theorem State.runSampler_kept {s0 s : State} (g : Nat) (hk0 : Kept s0 s) :
    Kept s0 (State.runSampler s g) := by
  unfold State.runSampler
  repeat' first
    | with_reducible assumption | (intro x; have hx : Kept s0 x := ?hk; clear_value x; case' hk => subst x)
    | (intro x; subst x) | intro _ | with_reducible apply Kept.ite | with_reducible apply State.each_kept
    | with_reducible apply State.modProg_kept | with_reducible apply State.dealSeeds_kept
    | (rewrite [State.mk_eq_ofB]; with_reducible refine Kept.upd ?_) | lift_lets -underBinder | dsimp -zeta only
    | split

theorem State.voidSampler_kept {s0 s : State} (g : Nat) (hk0 : Kept s0 s) :
    Kept s0 (State.voidSampler s g) := by
  unfold State.voidSampler
  repeat' first
    | with_reducible assumption | (intro x; have hx : Kept s0 x := ?hk; clear_value x; case' hk => subst x)
    | (intro x; subst x) | intro _ | with_reducible apply Kept.ite | with_reducible apply State.dropLanes_kept
    | with_reducible apply State.each_kept | with_reducible apply State.modProg_kept
    | (rewrite [State.mk_eq_ofB]; with_reducible refine Kept.upd ?_) | lift_lets -underBinder | dsimp -zeta only
    | split

theorem State.commitSampler_kept {s0 s : State} (g : Nat) (hk0 : Kept s0 s) :
    Kept s0 (State.commitSampler s g) := by
  unfold State.commitSampler
  repeat' first
    | with_reducible assumption | intro _ | with_reducible apply Kept.ite | with_reducible apply State.each_kept
    | with_reducible apply State.modProg_kept | (rewrite [State.mk_eq_ofB]; with_reducible refine Kept.upd ?_)
    | dsimp -zeta only | split

theorem State.regroveSampler_kept {s0 s : State} (p : Nat → Bool) (unbound : Nat → Bool) (hk0 : Kept s0 s) :
    Kept s0 (State.regroveSampler s p unbound) := by
  unfold State.regroveSampler
  repeat' first
    | with_reducible assumption | (intro x; have hx : Kept s0 x := ?hk; clear_value x; case' hk => subst x)
    | (intro x; subst x) | intro _ | with_reducible apply Kept.ite | with_reducible apply State.each_kept
    | with_reducible apply State.modProg_kept | with_reducible apply State.dropLanes_kept
    | with_reducible apply State.smpRecord_kept | (rewrite [State.mk_eq_ofB]; with_reducible refine Kept.upd ?_)
    | lift_lets -underBinder | dsimp -zeta only | split

end Sys2Proof.Machine
end

