-- ==== Sys2Proof/Laws/KeptGather.lean ====
section
/-! SUPPORT. What the operations of Machine/Embeddings, Gather keep: `Kept`, one lemma each. -/
set_option Elab.async false
set_option linter.unusedTactic false
set_option linter.unreachableTactic false
set_option linter.unnecessarySeqFocus false
namespace Sys2Proof.Machine

theorem State.modEmb_kept {s0 s : State} (f : EmbState → EmbState) (hk0 : Kept s0 s) :
    Kept s0 (State.modEmb s f) := by
  unfold State.modEmb
  repeat' first
    | with_reducible assumption | (rewrite [State.mk_eq_ofB]; with_reducible refine Kept.upd ?_) | dsimp -zeta only
    | split

theorem State.findWay_kept {s0 s : State} (g : Nat) (t : Nat) (d : TableDesc) (r : Nat) (hk0 : Kept s0 s) :
    KeptP s0 (State.findWay s g t d r) := by
  unfold State.findWay
  repeat' first
    | with_reducible assumption | (intro x; have hx : Kept s0 x := ?hk; clear_value x; case' hk => subst x)
    | (intro x; subst x) | intro _ | (rewrite [pairP_eq]; with_reducible refine KeptP.mk ?_)
    | with_reducible apply State.readVa_kept | with_reducible refine Kept.of_fst (by assumption) ?_
    | with_reducible apply KeptP.fst | lift_lets -underBinder | dsimp -zeta only | split

theorem State.rowVa_kept {s0 s : State} (g : Nat) (t : Nat) (d : TableDesc) (r : Nat) (x1 : Place) (hk0 : Kept s0 s) :
    KeptP s0 (State.rowVa s g t d r x1) := by
  unfold State.rowVa
  repeat' first
    | with_reducible assumption | (intro x; have hx : Kept s0 x := ?hk; clear_value x; case' hk => subst x)
    | (intro x; subst x) | intro _ | (rewrite [pairP_eq]; with_reducible refine KeptP.mk ?_)
    | with_reducible apply State.findWay_kept | with_reducible refine Kept.of_fst (by assumption) ?_
    | with_reducible apply KeptP.fst | lift_lets -underBinder | dsimp -zeta only | split

theorem State.freeWay_kept {s0 s : State} (g : Nat) (t : Nat) (d : TableDesc) (r : Nat) (hk0 : Kept s0 s) :
    Kept s0 (State.freeWay s g t d r) := by
  unfold State.freeWay
  repeat' first
    | with_reducible assumption | (intro x; have hx : Kept s0 x := ?hk; clear_value x; case' hk => subst x)
    | (intro x; subst x) | intro _ | with_reducible apply Kept.ite | with_reducible apply KeptP.ite
    | (rewrite [pairP_eq]; with_reducible refine KeptP.mk ?_) | with_reducible apply State.findWay_kept
    | with_reducible apply State.writeVa_kept | with_reducible refine Kept.of_fst (by assumption) ?_
    | with_reducible apply KeptP.fst | lift_lets -underBinder | dsimp -zeta only | split

theorem State.embRecord_kept {s0 s : State} (die : Nat) (code : Nat) (g : Nat) (t : Nat) (r : Nat) (sev : Sev) (hk0 : Kept s0 s) :
    Kept s0 (State.embRecord s die code g t r sev) := by
  unfold State.embRecord
  repeat' first
    | with_reducible assumption | (intro x; have hx : Kept s0 x := ?hk; clear_value x; case' hk => subst x)
    | (intro x; subst x) | intro _ | with_reducible apply State.putReg_kept | with_reducible apply State.record_kept
    | lift_lets -underBinder | dsimp -zeta only | split

theorem State.stepFault_kept {s0 s : State} (g : Nat) (hk0 : Kept s0 s) :
    Kept s0 (State.stepFault s g) := by
  unfold State.stepFault
  repeat' first
    | with_reducible assumption | intro _ | with_reducible apply State.modStep_kept
    | (rewrite [State.mk_eq_ofB]; with_reducible refine Kept.upd ?_) | dsimp -zeta only | split

theorem State.addEntry_kept {s0 s : State} (e : RowEntry) (hk0 : Kept s0 s) :
    Kept s0 (State.addEntry s e) := by
  unfold State.addEntry
  repeat' first
    | with_reducible assumption | (intro x; have hx : Kept s0 x := ?hk; clear_value x; case' hk => subst x)
    | (intro x; subst x) | intro _ | with_reducible apply State.modEmb_kept
    | (rewrite [State.mk_eq_ofB]; with_reducible refine Kept.upd ?_) | lift_lets -underBinder | dsimp -zeta only
    | split

theorem State.dropEntries_kept {s0 s : State} (p : RowEntry → Bool) (hk0 : Kept s0 s) :
    Kept s0 (State.dropEntries s p) := by
  unfold State.dropEntries
  repeat' first
    | with_reducible assumption | intro _ | with_reducible apply State.modEmb_kept
    | (rewrite [State.mk_eq_ofB]; with_reducible refine Kept.upd ?_) | dsimp -zeta only | split

theorem State.homeOf_kept {s0 s : State} (g : Nat) (t : Nat) (d : TableDesc) (r : Nat) (hk0 : Kept s0 s) :
    KeptP s0 (State.homeOf s g t d r) := by
  unfold State.homeOf
  repeat' first
    | with_reducible assumption | (rewrite [pairP_eq]; with_reducible refine KeptP.mk ?_)
    | with_reducible apply State.readVa_kept | with_reducible refine Kept.of_fst (by assumption) ?_
    | with_reducible apply KeptP.fst | split

theorem State.lookup_kept {s0 s : State} (die : Nat) (g : Nat) (t : Nat) (r : Nat) (step : Nat) (hk0 : Kept s0 s) :
    KeptP s0 (State.lookup s die g t r step) := by
  unfold State.lookup
  repeat' first
    | with_reducible assumption | (intro x; have hx : Kept s0 x := ?hk; clear_value x; case' hk => subst x)
    | (intro x; subst x) | intro _ | with_reducible apply Kept.ite | with_reducible apply KeptP.ite
    | (rewrite [pairP_eq]; with_reducible refine KeptP.mk ?_) | with_reducible apply State.homeOf_kept
    | with_reducible apply State.bump_kept | with_reducible refine Kept.of_fst (by assumption) ?_
    | with_reducible apply KeptP.fst | lift_lets -underBinder | dsimp -zeta only | split

theorem State.readRow_kept {s0 s : State} (g : Nat) (t : Nat) (d : TableDesc) (r : Nat) (p : Place) (first : Nat) (count : Nat) (hk0 : Kept s0 s) :
    KeptP s0 (State.readRow s g t d r p first count) := by
  unfold State.readRow
  repeat' first
    | with_reducible assumption | (intro x; have hx : Kept s0 x := ?hk; clear_value x; case' hk => subst x)
    | (intro x; subst x) | intro _ | (rewrite [pairP_eq]; with_reducible refine KeptP.mk ?_)
    | with_reducible apply State.rowVa_kept | with_reducible apply State.readVa_kept
    | with_reducible refine Kept.of_fst (by assumption) ?_ | with_reducible apply KeptP.fst | lift_lets -underBinder
    | dsimp -zeta only | split

theorem State.heatRow_kept {s0 s : State} (die : Nat) (g : Nat) (t : Nat) (r : Nat) (hk0 : Kept s0 s) :
    Kept s0 (State.heatRow s die g t r) := by
  unfold State.heatRow
  repeat' first
    | with_reducible assumption | intro _ | with_reducible apply State.modEmb_kept
    | (rewrite [State.mk_eq_ofB]; with_reducible refine Kept.upd ?_) | dsimp -zeta only | split

theorem State.updRecord_kept {s0 s : State} (sev : Sev) (die : Nat) (code : Nat) (g : Nat) (kind : Nat) (target : Nat) (item : Nat) (hk0 : Kept s0 s) :
    Kept s0 (State.updRecord s sev die code g kind target item) := by
  unfold State.updRecord
  repeat' first
    | with_reducible assumption | (intro x; have hx : Kept s0 x := ?hk; clear_value x; case' hk => subst x)
    | (intro x; subst x) | intro _ | with_reducible apply State.putReg_kept | with_reducible apply State.record_kept
    | lift_lets -underBinder | dsimp -zeta only | split

theorem State.rowBufAdd_kept {s0 s : State} (die : Nat) (g : Nat) (a : RowAcc) (hk0 : Kept s0 s) :
    KeptP s0 (State.rowBufAdd s die g a) := by
  unfold State.rowBufAdd
  repeat' first
    | with_reducible assumption | (intro x; have hx : Kept s0 x := ?hk; clear_value x; case' hk => subst x)
    | (intro x; subst x) | intro _ | with_reducible apply Kept.ite | with_reducible apply KeptP.ite
    | (rewrite [pairP_eq]; with_reducible refine KeptP.mk ?_) | with_reducible apply State.updRecord_kept
    | with_reducible apply State.stepFault_kept | with_reducible apply State.bump_kept
    | with_reducible apply State.each_kept | with_reducible apply State.writeLocal_kept
    | with_reducible refine Kept.of_fst (by assumption) ?_ | with_reducible apply KeptP.fst | lift_lets -underBinder
    | dsimp -zeta only | split

theorem State.sendAck_kept {s0 s : State} (die : Nat) (device : Nat) (g : Nat) (request : Nat) (status : Nat) (hk0 : Kept s0 s) :
    Kept s0 (State.sendAck s die device g request status) := by
  unfold State.sendAck
  repeat' first
    | with_reducible assumption | with_reducible apply State.sendMsg_kept | with_reducible apply State.request_kept
    | split

theorem State.forwardReq_kept {s0 s : State} (o : Origin) (device : Nat) (opcode : Nat) (payload : List Byte) (hk0 : Kept s0 s) :
    Kept s0 (State.forwardReq s o device opcode payload) := by
  unfold State.forwardReq
  repeat' first
    | with_reducible assumption | intro _ | with_reducible apply State.each_kept
    | with_reducible apply State.sendBranch_kept | (rewrite [State.mk_eq_ofB]; with_reducible refine Kept.upd ?_)
    | dsimp -zeta only | split

theorem State.regraftLate_kept {s0 s : State} (die : Nat) (g : Nat) (t : Nat) (r : Nat) (hk0 : Kept s0 s) :
    Kept s0 (State.regraftLate s die g t r) := by
  unfold State.regraftLate
  repeat' first
    | with_reducible assumption | with_reducible apply State.bump_kept | with_reducible apply State.embRecord_kept
    | split

theorem State.serveRow_kept {s0 s : State} (die : Nat) (o : Origin) (r : RowRead) (d : TableDesc) (hk0 : Kept s0 s) :
    Kept s0 (State.serveRow s die o r d) := by
  unfold State.serveRow
  repeat' first
    | with_reducible assumption | (intro x; have hx : Kept s0 x := ?hk; clear_value x; case' hk => subst x)
    | (intro x; subst x) | intro _ | with_reducible apply Kept.ite | with_reducible apply KeptP.ite
    | (rewrite [pairP_eq]; with_reducible refine KeptP.mk ?_) | with_reducible apply State.readRow_kept
    | with_reducible apply State.heatRow_kept | with_reducible apply State.each_kept
    | with_reducible apply State.request_kept | with_reducible apply State.sendMsg_kept
    | with_reducible apply State.sendNeg_kept | with_reducible apply State.regraftLate_kept
    | with_reducible refine Kept.of_fst (by assumption) ?_ | with_reducible apply KeptP.fst | lift_lets -underBinder
    | dsimp -zeta only | split

theorem State.resolveRead_kept {s0 s : State} (die : Nat) (o : Origin) (r : RowRead) (again : Bool) (hk0 : Kept s0 s) :
    Kept s0 (State.resolveRead s die o r again) := by
  unfold State.resolveRead
  repeat' first
    | with_reducible assumption | (intro x; have hx : Kept s0 x := ?hk; clear_value x; case' hk => subst x)
    | (intro x; subst x) | intro _ | with_reducible apply Kept.ite | with_reducible apply State.sendNeg_kept
    | with_reducible apply State.request_kept | with_reducible apply State.bump_kept
    | with_reducible apply State.forwardReq_kept | with_reducible apply State.modEmb_kept
    | with_reducible apply State.serveRow_kept | (rewrite [State.mk_eq_ofB]; with_reducible refine Kept.upd ?_)
    | lift_lets -underBinder | dsimp -zeta only | split

theorem State.rowRead_kept {s0 s : State} (die : Nat) (o : Origin) (r : RowRead) (again : Bool) (hk0 : Kept s0 s) :
    Kept s0 (State.rowRead s die o r again) := by
  unfold State.rowRead
  repeat' first
    | with_reducible assumption | with_reducible apply Kept.ite | with_reducible apply KeptP.ite
    | (rewrite [pairP_eq]; with_reducible refine KeptP.mk ?_) | with_reducible apply State.dropStale_kept
    | with_reducible apply State.spend_kept | with_reducible apply State.holdServe_kept
    | with_reducible apply State.resolveRead_kept | with_reducible refine Kept.of_fst (by assumption) ?_
    | with_reducible apply KeptP.fst | split

theorem State.retryReads_kept {s0 s : State} (p : HeldRead → Bool) (hk0 : Kept s0 s) :
    Kept s0 (State.retryReads s p) := by
  unfold State.retryReads
  repeat' first
    | with_reducible assumption | (intro x; have hx : Kept s0 x := ?hk; clear_value x; case' hk => subst x)
    | (intro x; subst x) | intro _ | with_reducible apply State.modEmb_kept | with_reducible apply State.each_kept
    | with_reducible apply State.resolveRead_kept | (rewrite [State.mk_eq_ofB]; with_reducible refine Kept.upd ?_)
    | lift_lets -underBinder | dsimp -zeta only | split

theorem State.noteLate_kept {s0 s : State} (die : Nat) (g : Nat) (red : Nat) (seg : Nat) (device : Nat) (hk0 : Kept s0 s) :
    Kept s0 (State.noteLate s die g red seg device) := by
  unfold State.noteLate
  repeat' first
    | with_reducible assumption | (intro x; have hx : Kept s0 x := ?hk; clear_value x; case' hk => subst x)
    | (intro x; subst x) | intro _ | with_reducible apply State.bump_kept | with_reducible apply State.putReg_kept
    | with_reducible apply State.record_kept | with_reducible apply State.corrected_kept | lift_lets -underBinder
    | dsimp -zeta only | split

theorem State.applyAcc_kept {s0 s : State} (die : Nat) (g : Nat) (a : RowAcc) (d : TableDesc) (p : Place) (hk0 : Kept s0 s) :
    KeptP s0 (State.applyAcc s die g a d p) := by
  unfold State.applyAcc
  repeat' first
    | with_reducible assumption | (intro x; have hx : Kept s0 x := ?hk; clear_value x; case' hk => subst x)
    | (intro x; subst x) | intro _ | (rewrite [pairP_eq]; with_reducible refine KeptP.mk ?_)
    | with_reducible apply State.rowVa_kept | with_reducible apply State.rowBufAdd_kept
    | with_reducible apply State.heatRow_kept | with_reducible refine Kept.of_fst (by assumption) ?_
    | with_reducible apply KeptP.fst | lift_lets -underBinder | dsimp -zeta only | split

theorem State.ownAcc_kept {s0 s : State} (die : Nat) (o : Origin) (a : RowAcc) (hk0 : Kept s0 s) :
    KeptP s0 (State.ownAcc s die o a) := by
  unfold State.ownAcc
  repeat' first
    | with_reducible assumption | (intro x; have hx : Kept s0 x := ?hk; clear_value x; case' hk => subst x)
    | (intro x; subst x) | intro _ | with_reducible apply Kept.ite | with_reducible apply KeptP.ite
    | (rewrite [pairP_eq]; with_reducible refine KeptP.mk ?_) | with_reducible apply State.request_kept
    | with_reducible apply State.bump_kept | with_reducible apply State.forward_kept
    | with_reducible apply State.noteLate_kept | with_reducible apply State.modEmb_kept
    | with_reducible apply State.updRecord_kept | with_reducible apply State.stepFault_kept
    | with_reducible apply State.applyAcc_kept | with_reducible apply State.regraftLate_kept
    | (rewrite [State.mk_eq_ofB]; with_reducible refine Kept.upd ?_)
    | with_reducible refine Kept.of_fst (by assumption) ?_ | with_reducible apply KeptP.fst | lift_lets -underBinder
    | dsimp -zeta only | split

theorem State.rowAccumulate_kept {s0 s : State} (die : Nat) (o : Origin) (a : RowAcc) (again : Bool) (hk0 : Kept s0 s) :
    Kept s0 (State.rowAccumulate s die o a again) := by
  unfold State.rowAccumulate
  repeat' first
    | with_reducible assumption | with_reducible apply Kept.ite | with_reducible apply KeptP.ite
    | (rewrite [pairP_eq]; with_reducible refine KeptP.mk ?_) | with_reducible apply State.dropStale_kept
    | with_reducible apply State.spend_kept | with_reducible apply State.holdServe_kept
    | with_reducible apply State.ownAcc_kept | with_reducible apply State.sendAck_kept
    | with_reducible apply State.request_kept | with_reducible apply State.sendNeg_kept
    | with_reducible apply State.forward_kept | with_reducible apply State.forwardReq_kept
    | with_reducible refine Kept.of_fst (by assumption) ?_ | with_reducible apply KeptP.fst | split

theorem State.embRequest_kept {s0 s : State} (die : Nat) (hk0 : Kept s0 s) :
    KeptQ s0 (State.embRequest s die) := by
  unfold State.embRequest
  repeat' first
    | with_reducible assumption | (intro x; have hx : Kept s0 x := ?hk; clear_value x; case' hk => subst x)
    | (intro x; subst x) | intro _ | (rewrite [pairQ_eq]; with_reducible refine KeptQ.mk ?_)
    | with_reducible apply State.modEmb_kept | (rewrite [State.mk_eq_ofB]; with_reducible refine Kept.upd ?_)
    | with_reducible refine Kept.of_snd (by assumption) ?_ | with_reducible apply KeptQ.snd | lift_lets -underBinder
    | dsimp -zeta only | split

theorem State.sendTransfer_kept {s0 s : State} (die : Nat) (device : Nat) (g : Nat) (kind : Nat) (c : RowCopy) (step : Nat) (hk0 : Kept s0 s) :
    Kept s0 (State.sendTransfer s die device g kind c step) := by
  unfold State.sendTransfer
  repeat' first
    | with_reducible assumption | (intro x; have hx : Kept s0 x := ?hk; clear_value x; case' hk => subst x)
    | (intro x; subst x) | intro _ | with_reducible apply State.each_kept | with_reducible apply State.sendMsg_kept
    | with_reducible apply State.request_kept | lift_lets -underBinder | dsimp -zeta only | split

theorem State.refreshDone_kept {s0 s : State} (die : Nat) (g : Nat) (step : Nat) (hk0 : Kept s0 s) :
    Kept s0 (State.refreshDone s die g step) := by
  unfold State.refreshDone
  repeat' first
    | with_reducible assumption | intro _ | with_reducible apply Kept.ite | with_reducible apply State.each_kept
    | with_reducible apply State.sendTransfer_kept | dsimp -zeta only | split

theorem State.sendFlips_kept {s0 s : State} (hk0 : Kept s0 s) :
    Kept s0 (State.sendFlips s) := by
  unfold State.sendFlips
  repeat' first
    | with_reducible assumption | (intro x; have hx : Kept s0 x := ?hk; clear_value x; case' hk => subst x)
    | (intro x; subst x) | intro _ | with_reducible apply State.modEmb_kept | with_reducible apply State.each_kept
    | with_reducible apply State.sendTransfer_kept | (rewrite [State.mk_eq_ofB]; with_reducible refine Kept.upd ?_)
    | lift_lets -underBinder | dsimp -zeta only | split

theorem State.refreshRow_kept {s0 s : State} (die : Nat) (g : Nat) (step : Nat) (t : Nat) (d : TableDesc) (r : Nat) (va : Nat × Nat) (hk0 : Kept s0 s) :
    Kept s0 (State.refreshRow s die g step t d r va) := by
  unfold State.refreshRow
  repeat' first
    | with_reducible assumption | (intro x; have hx : Kept s0 x := ?hk; clear_value x; case' hk => subst x)
    | (intro x; subst x) | intro _ | with_reducible apply Kept.ite
    | (rewrite [pairQ_eq]; with_reducible refine KeptQ.mk ?_) | with_reducible apply KeptQ.ite
    | with_reducible apply State.embRequest_kept | with_reducible apply State.request_kept
    | with_reducible apply State.modEmb_kept | with_reducible apply State.sendTransfer_kept
    | with_reducible apply State.each_kept | (rewrite [State.mk_eq_ofB]; with_reducible refine Kept.upd ?_)
    | with_reducible refine Kept.of_snd (by assumption) ?_ | with_reducible apply KeptQ.snd | lift_lets -underBinder
    | dsimp -zeta only | split

theorem State.refreshAck_kept {s0 s : State} (die : Nat) (request : Nat) (hk0 : Kept s0 s) :
    Kept s0 (State.refreshAck s die request) := by
  unfold State.refreshAck
  repeat' first
    | with_reducible assumption | (intro x; have hx : Kept s0 x := ?hk; clear_value x; case' hk => subst x)
    | (intro x; subst x) | intro _ | with_reducible apply Kept.ite | with_reducible apply State.request_kept
    | with_reducible apply State.modEmb_kept | with_reducible apply State.sendFlips_kept
    | with_reducible apply State.refreshDone_kept | (rewrite [State.mk_eq_ofB]; with_reducible refine Kept.upd ?_)
    | lift_lets -underBinder | dsimp -zeta only | split

theorem State.storeCopy_kept {s0 s : State} (g : Nat) (d : TableDesc) (k : Nat) (c : RowCopy) (hk0 : Kept s0 s) :
    Kept s0 (State.storeCopy s g d k c) := by
  unfold State.storeCopy
  repeat' first
    | with_reducible assumption | (intro x; have hx : Kept s0 x := ?hk; clear_value x; case' hk => subst x)
    | (intro x; subst x) | intro _ | (rewrite [pairP_eq]; with_reducible refine KeptP.mk ?_)
    | with_reducible apply State.writeVa_kept | with_reducible refine Kept.of_fst (by assumption) ?_
    | with_reducible apply KeptP.fst | lift_lets -underBinder | dsimp -zeta only | split

theorem State.copyReceive_kept {s0 s : State} (die : Nat) (o : Origin) (c : RowCopy) (scion : Bool) (hk0 : Kept s0 s) :
    Kept s0 (State.copyReceive s die o c scion) := by
  unfold State.copyReceive
  repeat' first
    | with_reducible assumption | (intro x; have hx : Kept s0 x := ?hk; clear_value x; case' hk => subst x)
    | (intro x; subst x) | intro _ | with_reducible apply Kept.ite | with_reducible apply State.dropStale_kept
    | with_reducible apply State.sendNeg_kept | with_reducible apply State.request_kept
    | with_reducible apply State.embRecord_kept | with_reducible apply State.storeCopy_kept
    | with_reducible apply State.addEntry_kept | with_reducible apply State.sendAck_kept | lift_lets -underBinder
    | dsimp -zeta only | split

theorem State.refreshReceive_kept {s0 s : State} (die : Nat) (o : Origin) (c : RowCopy) (mirror : Bool) (hk0 : Kept s0 s) :
    Kept s0 (State.refreshReceive s die o c mirror) := by
  unfold State.refreshReceive
  repeat' first
    | with_reducible assumption | (intro x; have hx : Kept s0 x := ?hk; clear_value x; case' hk => subst x)
    | (intro x; subst x) | intro _ | with_reducible apply Kept.ite | with_reducible apply State.dropStale_kept
    | with_reducible apply State.storeCopy_kept | with_reducible apply State.sendAck_kept
    | with_reducible apply State.request_kept | lift_lets -underBinder | dsimp -zeta only | split

theorem State.refreshDoneReceive_kept {s0 s : State} (o : Origin) (step : Nat) (hk0 : Kept s0 s) :
    Kept s0 (State.refreshDoneReceive s o step) := by
  unfold State.refreshDoneReceive
  repeat' first
    | with_reducible assumption | intro _ | with_reducible apply Kept.ite | with_reducible apply State.dropStale_kept
    | with_reducible apply State.modEmb_kept | (rewrite [State.mk_eq_ofB]; with_reducible refine Kept.upd ?_)
    | dsimp -zeta only | split

theorem State.flipDone_kept {s0 s : State} (die : Nat) (o : Origin) (t : Nat) (r : Nat) (hk0 : Kept s0 s) :
    Kept s0 (State.flipDone s die o t r) := by
  unfold State.flipDone
  repeat' first
    | with_reducible assumption | (intro x; have hx : Kept s0 x := ?hk; clear_value x; case' hk => subst x)
    | (intro x; subst x) | intro _ | with_reducible apply Kept.ite | with_reducible apply State.dropStale_kept
    | with_reducible apply State.dropEntries_kept | with_reducible apply State.addEntry_kept
    | with_reducible apply State.retryReads_kept | (rewrite [State.mk_eq_ofB]; with_reducible refine Kept.upd ?_)
    | lift_lets -underBinder | dsimp -zeta only | split

theorem State.refuseEmb_kept {s0 s : State} (q : Nat) (i : Nat) (code : Nat) (t : Nat) (r : Nat) (hk0 : Kept s0 s) :
    Kept s0 (State.refuseEmb s q i code t r) := by
  unfold State.refuseEmb
  repeat' first
    | with_reducible assumption | with_reducible apply State.embRecord_kept | with_reducible apply State.complete_kept
    | with_reducible apply State.badCommand_kept | split

theorem State.modTable_kept {s0 s : State} (ix : Nat) (f : TableSlot → TableSlot) (hk0 : Kept s0 s) :
    Kept s0 (State.modTable s ix f) := by
  unfold State.modTable
  repeat' first
    | with_reducible assumption | intro _ | with_reducible apply State.modEmb_kept
    | (rewrite [State.mk_eq_ofB]; with_reducible refine Kept.upd ?_) | dsimp -zeta only | split

theorem State.tableLoad_kept {s0 s : State} (q : Nat) (i : Nat) (hk0 : Kept s0 s) :
    Kept s0 (State.tableLoad s q i) := by
  unfold State.tableLoad
  repeat' first
    | with_reducible assumption | (intro x; have hx : Kept s0 x := ?hk; clear_value x; case' hk => subst x)
    | (intro x; subst x) | intro _ | with_reducible apply Kept.ite | with_reducible apply KeptP.ite
    | (rewrite [pairP_eq]; with_reducible refine KeptP.mk ?_) | with_reducible apply State.start_kept
    | with_reducible apply State.refuseEmb_kept | with_reducible apply State.readVa_kept
    | with_reducible apply State.modTable_kept | with_reducible apply State.complete_kept
    | (rewrite [State.mk_eq_ofB]; with_reducible refine Kept.upd ?_)
    | with_reducible refine Kept.of_fst (by assumption) ?_ | with_reducible apply KeptP.fst | lift_lets -underBinder
    | dsimp -zeta only | split

theorem State.setStaged_kept {s0 s : State} (g : Nat) (l : List (Nat × Nat)) (hk0 : Kept s0 s) :
    Kept s0 (State.setStaged s g l) := by
  unfold State.setStaged
  repeat' first
    | with_reducible assumption | intro _ | with_reducible apply State.modEmb_kept
    | (rewrite [State.mk_eq_ofB]; with_reducible refine Kept.upd ?_) | dsimp -zeta only | split

theorem State.tableDrop_kept {s0 s : State} (q : Nat) (i : Nat) (hk0 : Kept s0 s) :
    Kept s0 (State.tableDrop s q i) := by
  unfold State.tableDrop
  repeat' first
    | with_reducible assumption | (intro x; have hx : Kept s0 x := ?hk; clear_value x; case' hk => subst x)
    | (intro x; subst x) | intro _ | with_reducible apply Kept.ite | with_reducible apply State.start_kept
    | with_reducible apply State.refuseEmb_kept | with_reducible apply State.modTable_kept
    | with_reducible apply State.setStaged_kept | with_reducible apply State.complete_kept
    | (rewrite [State.mk_eq_ofB]; with_reducible refine Kept.upd ?_) | lift_lets -underBinder | dsimp -zeta only
    | split

theorem State.beginRow_kept {s0 s : State} (g : Nat) (t : Nat) (r : Nat) (hk0 : Kept s0 s) :
    KeptP s0 (State.beginRow s g t r) := by
  unfold State.beginRow
  repeat' first
    | with_reducible assumption | intro _ | with_reducible apply Kept.ite | with_reducible apply KeptP.ite
    | (rewrite [pairP_eq]; with_reducible refine KeptP.mk ?_) | with_reducible apply State.homeOf_kept
    | with_reducible apply State.rowVa_kept | with_reducible refine Kept.of_fst (by assumption) ?_
    | with_reducible apply KeptP.fst | dsimp -zeta only | split

theorem State.copyBegin_kept {s0 s : State} (q : Nat) (i : Nat) (scion : Bool) (hk0 : Kept s0 s) :
    Kept s0 (State.copyBegin s q i scion) := by
  unfold State.copyBegin
  repeat' first
    | with_reducible assumption | (intro x; have hx : Kept s0 x := ?hk; clear_value x; case' hk => subst x)
    | (intro x; subst x) | intro _ | with_reducible apply Kept.ite | with_reducible apply KeptP.ite
    | (rewrite [pairP_eq]; with_reducible refine KeptP.mk ?_)
    | (rewrite [pairQ_eq]; with_reducible refine KeptQ.mk ?_) | with_reducible apply KeptQ.ite
    | with_reducible apply State.start_kept | with_reducible apply State.refuseEmb_kept
    | with_reducible apply State.beginRow_kept | with_reducible apply State.addEntry_kept
    | with_reducible apply State.embRequest_kept | with_reducible apply State.request_kept
    | with_reducible apply State.modEmb_kept | with_reducible apply State.sendTransfer_kept
    | (rewrite [State.mk_eq_ofB]; with_reducible refine Kept.upd ?_)
    | with_reducible refine Kept.of_fst (by assumption) ?_ | with_reducible apply KeptP.fst
    | with_reducible refine Kept.of_snd (by assumption) ?_ | with_reducible apply KeptQ.snd | lift_lets -underBinder
    | dsimp -zeta only | split

theorem State.copyAck_kept {s0 s : State} (die : Nat) (request : Nat) (hk0 : Kept s0 s) :
    Kept s0 (State.copyAck s die request) := by
  unfold State.copyAck
  repeat' first
    | with_reducible assumption | (intro x; have hx : Kept s0 x := ?hk; clear_value x; case' hk => subst x)
    | (intro x; subst x) | intro _ | with_reducible apply Kept.ite | with_reducible apply State.request_kept
    | with_reducible apply State.modEmb_kept | with_reducible apply State.complete_kept
    | (rewrite [State.mk_eq_ofB]; with_reducible refine Kept.upd ?_) | lift_lets -underBinder | dsimp -zeta only
    | split

theorem State.copyTimeout_kept {s0 s : State} (die : Nat) (request : Nat) (hk0 : Kept s0 s) :
    Kept s0 (State.copyTimeout s die request) := by
  unfold State.copyTimeout
  repeat' first
    | with_reducible assumption | (intro x; have hx : Kept s0 x := ?hk; clear_value x; case' hk => subst x)
    | (intro x; subst x) | intro _ | with_reducible apply Kept.ite | with_reducible apply State.request_kept
    | with_reducible apply State.modEmb_kept | with_reducible apply State.sendTransfer_kept
    | with_reducible apply State.dropEntries_kept | with_reducible apply State.embRecord_kept
    | with_reducible apply State.complete_kept | (rewrite [State.mk_eq_ofB]; with_reducible refine Kept.upd ?_)
    | lift_lets -underBinder | dsimp -zeta only | split

theorem State.dirStage_kept {s0 s : State} (q : Nat) (i : Nat) (hk0 : Kept s0 s) :
    Kept s0 (State.dirStage s q i) := by
  unfold State.dirStage
  repeat' first
    | with_reducible assumption | (intro x; have hx : Kept s0 x := ?hk; clear_value x; case' hk => subst x)
    | (intro x; subst x) | intro _ | with_reducible apply Kept.ite | with_reducible apply State.start_kept
    | with_reducible apply State.refuseEmb_kept | with_reducible apply State.setStaged_kept
    | with_reducible apply State.complete_kept | lift_lets -underBinder | dsimp -zeta only | split

theorem State.dirUnstage_kept {s0 s : State} (q : Nat) (i : Nat) (hk0 : Kept s0 s) :
    Kept s0 (State.dirUnstage s q i) := by
  unfold State.dirUnstage
  repeat' first
    | with_reducible assumption | (intro x; have hx : Kept s0 x := ?hk; clear_value x; case' hk => subst x)
    | (intro x; subst x) | intro _ | with_reducible apply Kept.ite | with_reducible apply State.start_kept
    | with_reducible apply State.refuseEmb_kept | with_reducible apply State.setStaged_kept
    | with_reducible apply State.complete_kept | lift_lets -underBinder | dsimp -zeta only | split

theorem State.pendAbandon_kept {s0 s : State} (q : Nat) (i : Nat) (hk0 : Kept s0 s) :
    Kept s0 (State.pendAbandon s q i) := by
  unfold State.pendAbandon
  repeat' first
    | with_reducible assumption | (intro x; have hx : Kept s0 x := ?hk; clear_value x; case' hk => subst x)
    | (intro x; subst x) | intro _ | with_reducible apply Kept.ite | with_reducible apply State.start_kept
    | with_reducible apply State.refuseEmb_kept | with_reducible apply State.sendTransfer_kept
    | with_reducible apply State.dropEntries_kept | with_reducible apply State.complete_kept | lift_lets -underBinder
    | dsimp -zeta only | split

theorem State.heatRead_kept {s0 s : State} (q : Nat) (i : Nat) (hk0 : Kept s0 s) :
    Kept s0 (State.heatRead s q i) := by
  unfold State.heatRead
  repeat' first
    | with_reducible assumption | (intro x; have hx : Kept s0 x := ?hk; clear_value x; case' hk => subst x)
    | (intro x; subst x) | intro _ | with_reducible apply Kept.ite | with_reducible apply KeptP.ite
    | (rewrite [pairP_eq]; with_reducible refine KeptP.mk ?_) | with_reducible apply State.start_kept
    | with_reducible apply State.refuseEmb_kept | with_reducible apply State.writeVa_kept
    | with_reducible apply State.modEmb_kept | with_reducible apply State.complete_kept
    | (rewrite [State.mk_eq_ofB]; with_reducible refine Kept.upd ?_)
    | with_reducible refine Kept.of_fst (by assumption) ?_ | with_reducible apply KeptP.fst | lift_lets -underBinder
    | dsimp -zeta only | split

theorem State.writeEmbQuota_kept {s0 s : State} (g : Nat) (v : Word) (hk0 : Kept s0 s) :
    Kept s0 (State.writeEmbQuota s g v) := by
  unfold State.writeEmbQuota
  repeat' first
    | with_reducible assumption | (intro x; have hx : Kept s0 x := ?hk; clear_value x; case' hk => subst x)
    | (intro x; subst x) | intro _ | with_reducible apply Kept.ite | with_reducible apply State.embRecord_kept
    | with_reducible apply State.softWrite_kept | lift_lets -underBinder | dsimp -zeta only | split

theorem State.cancelChange_kept {s0 s : State} (g : Nat) (t : Nat) (r : Nat) (hk0 : Kept s0 s) :
    Kept s0 (State.cancelChange s g t r) := by
  unfold State.cancelChange
  repeat' first
    | with_reducible assumption | (intro x; have hx : Kept s0 x := ?hk; clear_value x; case' hk => subst x)
    | (intro x; subst x) | intro _ | with_reducible apply State.dropEntries_kept
    | with_reducible apply State.each_kept | with_reducible apply State.bump_kept
    | with_reducible apply State.embRecord_kept | lift_lets -underBinder | dsimp -zeta only | split

theorem State.applyFlip_kept {s0 s : State} (g : Nat) (n : Nat) (t : Nat) (hk0 : Kept s0 s) :
    Kept s0 (State.applyFlip s g n t) := by
  unfold State.applyFlip
  repeat' first
    | with_reducible assumption | (intro x; have hx : Kept s0 x := ?hk; clear_value x; case' hk => subst x)
    | (intro x; subst x) | intro _ | with_reducible apply Kept.ite | with_reducible apply State.modTable_kept
    | with_reducible apply State.each_kept | with_reducible apply State.cancelChange_kept
    | (rewrite [State.mk_eq_ofB]; with_reducible refine Kept.upd ?_) | lift_lets -underBinder | dsimp -zeta only
    | split

theorem State.applyRegraft_kept {s0 s : State} (die : Nat) (g : Nat) (n : Nat) (w : Nat × Nat) (hk0 : Kept s0 s) :
    Kept s0 (State.applyRegraft s die g n w) := by
  unfold State.applyRegraft
  repeat' first
    | with_reducible assumption | (intro x; have hx : Kept s0 x := ?hk; clear_value x; case' hk => subst x)
    | (intro x; subst x) | intro _ | with_reducible apply Kept.ite | with_reducible apply KeptP.ite
    | (rewrite [pairP_eq]; with_reducible refine KeptP.mk ?_) | with_reducible apply State.homeOf_kept
    | with_reducible apply State.dropEntries_kept | with_reducible apply State.addEntry_kept
    | with_reducible apply State.freeWay_kept | with_reducible apply State.modEmb_kept
    | (rewrite [State.mk_eq_ofB]; with_reducible refine Kept.upd ?_)
    | with_reducible refine Kept.of_fst (by assumption) ?_ | with_reducible apply KeptP.fst | lift_lets -underBinder
    | dsimp -zeta only | split

theorem State.applyScion_kept {s0 s : State} (g : Nat) (w : Nat × Nat) (add : Bool) (hk0 : Kept s0 s) :
    Kept s0 (State.applyScion s g w add) := by
  unfold State.applyScion
  repeat' first
    | with_reducible assumption | (intro x; have hx : Kept s0 x := ?hk; clear_value x; case' hk => subst x)
    | (intro x; subst x) | intro _ | with_reducible apply Kept.ite | with_reducible apply State.modEmb_kept
    | with_reducible apply State.dropEntries_kept | (rewrite [State.mk_eq_ofB]; with_reducible refine Kept.upd ?_)
    | lift_lets -underBinder | dsimp -zeta only | split

theorem State.applyStaged_kept {s0 s : State} (g : Nat) (n : Nat) (apply : Bool) (mismatch : Bool) (hk0 : Kept s0 s) :
    Kept s0 (State.applyStaged s g n apply mismatch) := by
  unfold State.applyStaged
  repeat' first
    | with_reducible assumption | (intro x; have hx : Kept s0 x := ?hk; clear_value x; case' hk => subst x)
    | (intro x; subst x) | intro _ | with_reducible apply Kept.ite | with_reducible apply State.modEmb_kept
    | with_reducible apply State.each_kept | with_reducible apply State.bump_kept
    | with_reducible apply State.embRecord_kept | with_reducible apply State.applyFlip_kept
    | with_reducible apply State.cancelChange_kept | with_reducible apply State.applyScion_kept
    | with_reducible apply State.applyRegraft_kept | with_reducible apply State.sendFlips_kept
    | (rewrite [State.mk_eq_ofB]; with_reducible refine Kept.upd ?_) | lift_lets -underBinder | dsimp -zeta only
    | split

theorem State.openEmb_kept {s0 s : State} (g : Nat) (n : Nat) (hk0 : Kept s0 s) :
    Kept s0 (State.openEmb s g n) := by
  unfold State.openEmb
  repeat' first
    | with_reducible assumption | (intro x; have hx : Kept s0 x := ?hk; clear_value x; case' hk => subst x)
    | (intro x; subst x) | intro _ | with_reducible apply Kept.ite | with_reducible apply State.each_kept
    | with_reducible apply State.modTable_kept | with_reducible apply State.dropEntries_kept
    | with_reducible apply State.modEmb_kept | (rewrite [State.mk_eq_ofB]; with_reducible refine Kept.upd ?_)
    | lift_lets -underBinder | dsimp -zeta only | split

theorem State.voidEmb_kept {s0 s : State} (g : Nat) (n : Nat) (hk0 : Kept s0 s) :
    Kept s0 (State.voidEmb s g n) := by
  unfold State.voidEmb
  repeat' first
    | with_reducible assumption | intro _ | with_reducible apply State.modEmb_kept
    | (rewrite [State.mk_eq_ofB]; with_reducible refine Kept.upd ?_) | dsimp -zeta only | split

theorem State.dropEmb_kept {s0 s : State} (g : Nat) (hk0 : Kept s0 s) :
    Kept s0 (State.dropEmb s g) := by
  unfold State.dropEmb
  repeat' first
    | with_reducible assumption | intro _ | with_reducible apply State.modEmb_kept
    | (rewrite [State.mk_eq_ofB]; with_reducible refine Kept.upd ?_) | dsimp -zeta only | split

theorem State.clearTables_kept {s0 s : State} (p : Nat → Bool) (hk0 : Kept s0 s) :
    Kept s0 (State.clearTables s p) := by
  unfold State.clearTables
  repeat' first
    | with_reducible assumption | (intro x; have hx : Kept s0 x := ?hk; clear_value x; case' hk => subst x)
    | (intro x; subst x) | intro _ | with_reducible apply State.modEmb_kept
    | (rewrite [State.mk_eq_ofB]; with_reducible refine Kept.upd ?_) | lift_lets -underBinder | dsimp -zeta only
    | split

theorem State.spxWrite_kept {s0 s : State} (t off : Nat) (bs : List Byte) (hk0 : Kept s0 s) : Kept s0 (s.spxWrite t off bs) := by
  unfold State.spxWrite
  rewrite [State.mk_eq_ofB]
  exact hk0.updW id (foldl_cellPut_wf _ _ _) (Nat.le_refl _) (Nat.le_refl _)

theorem State.spxClear_kept {s0 s : State} (t : Nat) (hk0 : Kept s0 s) : Kept s0 (s.spxClear t) := by
  unfold State.spxClear
  rewrite [State.mk_eq_ofB]
  exact hk0.updW id (cellDrop_wf _ _) (Nat.le_refl _) (Nat.le_refl _)

theorem State.spxEcc_kept {s0 s : State} (t : Nat) (off : Nat) (ue : Bool) (hk0 : Kept s0 s) :
    Kept s0 (State.spxEcc s t off ue) := by
  unfold State.spxEcc
  repeat' first
    | with_reducible assumption | with_reducible apply State.putReg_kept | split

theorem State.gthRecord_kept {s0 s : State} (q : Nat) (tag : Nat) (code : Nat) (g : Nat) (pos : Nat) (hk0 : Kept s0 s) :
    Kept s0 (State.gthRecord s q tag code g pos) := by
  unfold State.gthRecord
  repeat' first
    | with_reducible assumption | (intro x; have hx : Kept s0 x := ?hk; clear_value x; case' hk => subst x)
    | (intro x; subst x) | intro _ | with_reducible apply State.putReg_kept | with_reducible apply State.record_kept
    | lift_lets -underBinder | dsimp -zeta only | split

theorem State.modGth_kept {s0 s : State} (f : GathState → GathState) (hk0 : Kept s0 s) :
    Kept s0 (State.modGth s f) := by
  unfold State.modGth
  repeat' first
    | with_reducible assumption | (rewrite [State.mk_eq_ofB]; with_reducible refine Kept.upd ?_) | dsimp -zeta only
    | split

theorem State.modCmd_kept {s0 s : State} (q : Nat) (i : Nat) (f : GthCmd → GthCmd) (hk0 : Kept s0 s) :
    Kept s0 (State.modCmd s q i f) := by
  unfold State.modCmd
  repeat' first
    | with_reducible assumption | intro _ | with_reducible apply Kept.ite | with_reducible apply State.modGth_kept
    | (rewrite [State.mk_eq_ofB]; with_reducible refine Kept.upd ?_) | dsimp -zeta only | split

theorem State.endGth_kept {s0 s : State} (q : Nat) (i : Nat) (st : Status) (result : Nat) (hk0 : Kept s0 s) :
    Kept s0 (State.endGth s q i st result) := by
  unfold State.endGth
  repeat' first
    | with_reducible assumption | intro _ | with_reducible apply State.modGth_kept
    | with_reducible apply State.complete_kept | (rewrite [State.mk_eq_ofB]; with_reducible refine Kept.upd ?_)
    | dsimp -zeta only | split

theorem State.gthFault_kept {s0 s : State} (c : GthCmd) (code : Nat) (pos : Nat) (hk0 : Kept s0 s) :
    Kept s0 (State.gthFault s c code pos) := by
  unfold State.gthFault
  repeat' first
    | with_reducible assumption | with_reducible apply State.gthRecord_kept
    | with_reducible apply State.stepFault_kept | with_reducible apply State.endGth_kept | split

theorem State.lookupFault_kept {s0 s : State} (c : GthCmd) (code : Nat) (t : Nat) (r : Nat) (hk0 : Kept s0 s) :
    Kept s0 (State.lookupFault s c code t r) := by
  unfold State.lookupFault
  repeat' first
    | with_reducible assumption | with_reducible apply State.embRecord_kept
    | with_reducible apply State.stepFault_kept | with_reducible apply State.endGth_kept | split

theorem State.memFaultCmd_kept {s0 s : State} (c : GthCmd) (hk0 : Kept s0 s) :
    Kept s0 (State.memFaultCmd s c) := by
  unfold State.memFaultCmd
  repeat' first
    | with_reducible assumption | with_reducible apply State.stepFault_kept | with_reducible apply State.endGth_kept
    | split

theorem State.refuseGth_kept {s0 s : State} (q : Nat) (i : Nat) (c : Cmd) (code : Nat) (hk0 : Kept s0 s) :
    Kept s0 (State.refuseGth s q i c code) := by
  unfold State.refuseGth
  repeat' first
    | with_reducible assumption | with_reducible apply State.gthRecord_kept | with_reducible apply State.complete_kept
    | with_reducible apply State.badCommand_kept | split

theorem State.gthEnter_kept {s0 s : State} (q : Nat) (i : Nat) (op : Nat) (hk0 : Kept s0 s) :
    Kept s0 (State.gthEnter s q i op) := by
  unfold State.gthEnter
  repeat' first
    | with_reducible assumption | (intro x; have hx : Kept s0 x := ?hk; clear_value x; case' hk => subst x)
    | (intro x; subst x) | intro _ | with_reducible apply Kept.ite | with_reducible apply State.start_kept
    | with_reducible apply State.refuseGth_kept | with_reducible apply State.modGth_kept
    | (rewrite [State.mk_eq_ofB]; with_reducible refine Kept.upd ?_) | lift_lets -underBinder | dsimp -zeta only
    | split

theorem State.admitted_kept {s0 s : State} (g : Nat) (d : GthDesc) (hk0 : Kept s0 s) :
    KeptP s0 (State.admitted s g d) := by
  unfold State.admitted
  repeat' first
    | with_reducible assumption | (intro x; have hx : Kept s0 x := ?hk; clear_value x; case' hk => subst x)
    | (intro x; subst x) | intro _ | with_reducible apply Kept.ite | with_reducible apply KeptP.ite
    | (rewrite [pairP_eq]; with_reducible refine KeptP.mk ?_) | with_reducible apply State.readVa_kept
    | with_reducible refine Kept.of_fst (by assumption) ?_ | with_reducible apply KeptP.fst | lift_lets -underBinder
    | dsimp -zeta only | split

theorem State.modRow_kept {s0 s : State} (q : Nat) (i : Nat) (u : Nat) (f : RowFetch → RowFetch) (hk0 : Kept s0 s) :
    Kept s0 (State.modRow s q i u f) := by
  unfold State.modRow
  repeat' first
    | with_reducible assumption | intro _ | with_reducible apply State.modCmd_kept
    | (rewrite [State.mk_eq_ofB]; with_reducible refine Kept.upd ?_) | dsimp -zeta only | split

theorem State.convertRow_kept {s0 s : State} (die : Nat) (stored : Nat) (out : Nat) (bs : List Byte) (hk0 : Kept s0 s) :
    KeptP s0 (State.convertRow s die stored out bs) := by
  unfold State.convertRow
  repeat' first
    | with_reducible assumption | (intro x; have hx : Kept s0 x := ?hk; clear_value x; case' hk => subst x)
    | (intro x; subst x) | intro _ | with_reducible apply Kept.ite | with_reducible apply KeptP.ite
    | (rewrite [pairP_eq]; with_reducible refine KeptP.mk ?_) | with_reducible apply State.bump_kept
    | with_reducible refine Kept.of_fst (by assumption) ?_ | with_reducible apply KeptP.fst | lift_lets -underBinder
    | dsimp -zeta only | split

theorem State.gatherEnd_kept {s0 s : State} (q : Nat) (i : Nat) (hk0 : Kept s0 s) :
    Kept s0 (State.gatherEnd s q i) := by
  unfold State.gatherEnd
  repeat' first
    | with_reducible assumption | with_reducible apply Kept.ite | with_reducible apply State.engineSignal_kept
    | with_reducible apply State.endGth_kept | split

theorem State.rowArrived_kept {s0 s : State} (q : Nat) (i : Nat) (u : Nat) (stored : Nat) (bs : List Byte) (hk0 : Kept s0 s) :
    Kept s0 (State.rowArrived s q i u stored bs) := by
  unfold State.rowArrived
  repeat' first
    | with_reducible assumption | intro _ | (rewrite [pairP_eq]; with_reducible refine KeptP.mk ?_)
    | with_reducible apply State.convertRow_kept | with_reducible apply State.spxWrite_kept
    | with_reducible apply State.bump_kept | with_reducible apply State.modRow_kept
    | with_reducible apply State.gatherEnd_kept | (rewrite [State.mk_eq_ofB]; with_reducible refine Kept.upd ?_)
    | with_reducible refine Kept.of_fst (by assumption) ?_ | with_reducible apply KeptP.fst | dsimp -zeta only | split

theorem State.sendRowRead_kept {s0 s : State} (c : GthCmd) (d : GthDesc) (version : Nat) (device : Nat) (req : Nat) (r : Nat) (hk0 : Kept s0 s) :
    Kept s0 (State.sendRowRead s c d version device req r) := by
  unfold State.sendRowRead
  repeat' first
    | with_reducible assumption | (intro x; have hx : Kept s0 x := ?hk; clear_value x; case' hk => subst x)
    | (intro x; subst x) | intro _ | with_reducible apply State.request_kept | with_reducible apply State.sendMsg_kept
    | (rewrite [State.mk_eq_ofB]; with_reducible refine Kept.upd ?_) | lift_lets -underBinder | dsimp -zeta only
    | split

theorem State.gthRequest_kept {s0 s : State} (die : Nat) (hk0 : Kept s0 s) :
    KeptQ s0 (State.gthRequest s die) := by
  unfold State.gthRequest
  repeat' first
    | with_reducible assumption | (intro x; have hx : Kept s0 x := ?hk; clear_value x; case' hk => subst x)
    | (intro x; subst x) | intro _ | (rewrite [pairQ_eq]; with_reducible refine KeptQ.mk ?_)
    | with_reducible apply State.modGth_kept | (rewrite [State.mk_eq_ofB]; with_reducible refine Kept.upd ?_)
    | with_reducible refine Kept.of_snd (by assumption) ?_ | with_reducible apply KeptQ.snd | lift_lets -underBinder
    | dsimp -zeta only | split

theorem State.issueRows_kept {s0 s : State} (q : Nat) (i : Nat) (x1 : Nat) (hk0 : Kept s0 s) :
    Kept s0 (State.issueRows s q i x1) := by
  induction x1 generalizing s q i with
  | zero =>
    rewrite [State.issueRows]
    repeat' first
      | with_reducible assumption | (intro x; have hx : Kept s0 x := ?hk; clear_value x; case' hk => subst x)
      | (intro x; subst x) | intro _ | (rewrite [pairP_eq]; with_reducible refine KeptP.mk ?_)
      | (rewrite [pairQ_eq]; with_reducible refine KeptQ.mk ?_) | with_reducible apply State.spend_kept
      | with_reducible apply State.modCmd_kept | with_reducible apply State.lookup_kept
      | with_reducible apply State.modRow_kept | with_reducible apply State.gthRequest_kept
      | with_reducible apply State.bump_kept | with_reducible apply State.sendRowRead_kept
      | with_reducible apply State.lookupFault_kept | with_reducible apply State.memFaultCmd_kept
      | with_reducible apply State.gatherEnd_kept | (rewrite [State.mk_eq_ofB]; with_reducible refine Kept.upd ?_)
      | with_reducible refine Kept.of_fst (by assumption) ?_ | with_reducible apply KeptP.fst
      | with_reducible refine Kept.of_snd (by assumption) ?_ | with_reducible apply KeptQ.snd | lift_lets -underBinder
      | dsimp -zeta only | split
  | succ n ih =>
    rewrite [State.issueRows]
    repeat' first
      | with_reducible assumption | (intro x; have hx : Kept s0 x := ?hk; clear_value x; case' hk => subst x)
      | (intro x; subst x) | intro _ | (rewrite [pairP_eq]; with_reducible refine KeptP.mk ?_)
      | (rewrite [pairQ_eq]; with_reducible refine KeptQ.mk ?_) | with_reducible apply ih
      | with_reducible apply State.spend_kept | with_reducible apply State.modCmd_kept
      | with_reducible apply State.lookup_kept | with_reducible apply State.modRow_kept
      | with_reducible apply State.gthRequest_kept | with_reducible apply State.bump_kept
      | with_reducible apply State.sendRowRead_kept | with_reducible apply State.lookupFault_kept
      | with_reducible apply State.memFaultCmd_kept | with_reducible apply State.gatherEnd_kept
      | (rewrite [State.mk_eq_ofB]; with_reducible refine Kept.upd ?_)
      | with_reducible refine Kept.of_fst (by assumption) ?_ | with_reducible apply KeptP.fst
      | with_reducible refine Kept.of_snd (by assumption) ?_ | with_reducible apply KeptQ.snd | lift_lets -underBinder
      | dsimp -zeta only | split

theorem State.writeMaps_kept {s0 s : State} (g : Nat) (d : GthDesc) (rows : List Nat) (map : List Nat) (hk0 : Kept s0 s) :
    KeptP s0 (State.writeMaps s g d rows map) := by
  unfold State.writeMaps
  repeat' first
    | with_reducible assumption | (intro x; have hx : Kept s0 x := ?hk; clear_value x; case' hk => subst x)
    | (intro x; subst x) | intro _ | with_reducible apply Kept.ite | with_reducible apply KeptP.ite
    | (rewrite [pairP_eq]; with_reducible refine KeptP.mk ?_) | with_reducible apply State.spxWrite_kept
    | with_reducible apply State.writeVa_kept | with_reducible refine Kept.of_fst (by assumption) ?_
    | with_reducible apply KeptP.fst | lift_lets -underBinder | dsimp -zeta only | split

theorem State.gatherWalk_kept {s0 s : State} (c : GthCmd) (d : GthDesc) (hk0 : Kept s0 s) :
    Kept s0 (State.gatherWalk s c d) := by
  unfold State.gatherWalk
  repeat' first
    | with_reducible assumption | (intro x; have hx : Kept s0 x := ?hk; clear_value x; case' hk => subst x)
    | (intro x; subst x) | intro _ | with_reducible apply Kept.ite | with_reducible apply KeptP.ite
    | (rewrite [pairP_eq]; with_reducible refine KeptP.mk ?_) | with_reducible apply State.admitted_kept
    | with_reducible apply State.gthRecord_kept | with_reducible apply State.endGth_kept
    | with_reducible apply State.badCommand_kept | with_reducible apply State.gthFault_kept
    | with_reducible apply State.bump_kept | with_reducible apply State.writeMaps_kept
    | with_reducible apply State.modCmd_kept | with_reducible apply State.issueRows_kept
    | with_reducible apply State.memFaultCmd_kept | (rewrite [State.mk_eq_ofB]; with_reducible refine Kept.upd ?_)
    | with_reducible refine Kept.of_fst (by assumption) ?_ | with_reducible apply KeptP.fst | lift_lets -underBinder
    | dsimp -zeta only | split

theorem State.gatherStart_kept {s0 s : State} (c : GthCmd) (d : GthDesc) (hk0 : Kept s0 s) :
    Kept s0 (State.gatherStart s c d) := by
  unfold State.gatherStart
  repeat' first
    | with_reducible assumption | (intro x; have hx : Kept s0 x := ?hk; clear_value x; case' hk => subst x)
    | (intro x; subst x) | intro _ | with_reducible apply Kept.ite | with_reducible apply State.gthRecord_kept
    | with_reducible apply State.endGth_kept | with_reducible apply State.badCommand_kept
    | with_reducible apply State.gatherWalk_kept | lift_lets -underBinder | dsimp -zeta only | split

theorem State.localReturn_kept {s0 s : State} (q : Nat) (i : Nat) (u : Nat) (hk0 : Kept s0 s) :
    Kept s0 (State.localReturn s q i u) := by
  unfold State.localReturn
  repeat' first
    | with_reducible assumption | (intro x; have hx : Kept s0 x := ?hk; clear_value x; case' hk => subst x)
    | (intro x; subst x) | intro _ | with_reducible apply Kept.ite | with_reducible apply KeptP.ite
    | (rewrite [pairP_eq]; with_reducible refine KeptP.mk ?_) | with_reducible apply State.readRow_kept
    | with_reducible apply State.rowArrived_kept | with_reducible apply State.lookupFault_kept
    | with_reducible apply State.memFaultCmd_kept | with_reducible refine Kept.of_fst (by assumption) ?_
    | with_reducible apply KeptP.fst | lift_lets -underBinder | dsimp -zeta only | split

theorem State.rowData_kept {s0 s : State} (die : Nat) (m : RowData) (hk0 : Kept s0 s) :
    Kept s0 (State.rowData s die m) := by
  unfold State.rowData
  repeat' first
    | with_reducible assumption | (intro x; have hx : Kept s0 x := ?hk; clear_value x; case' hk => subst x)
    | (intro x; subst x) | intro _ | with_reducible apply Kept.ite | with_reducible apply State.request_kept
    | with_reducible apply State.rowArrived_kept | with_reducible apply State.modRow_kept
    | (rewrite [State.mk_eq_ofB]; with_reducible refine Kept.upd ?_) | lift_lets -underBinder | dsimp -zeta only
    | split

theorem State.closeEnd_kept {s0 s : State} (die : Nat) (g : Nat) (hk0 : Kept s0 s) :
    Kept s0 (State.closeEnd s die g) := by
  unfold State.closeEnd
  repeat' first
    | with_reducible assumption | (intro x; have hx : Kept s0 x := ?hk; clear_value x; case' hk => subst x)
    | (intro x; subst x) | intro _ | with_reducible apply Kept.ite | with_reducible apply State.engineSignal_kept
    | with_reducible apply State.endGth_kept | lift_lets -underBinder | dsimp -zeta only | split

theorem State.accRefused_kept {s0 s : State} (die : Nat) (g : Nat) (code : Nat) (t : Nat) (r : Nat) (hk0 : Kept s0 s) :
    Kept s0 (State.accRefused s die g code t r) := by
  unfold State.accRefused
  repeat' first
    | with_reducible assumption | (intro x; have hx : Kept s0 x := ?hk; clear_value x; case' hk => subst x)
    | (intro x; subst x) | intro _ | with_reducible apply Kept.ite | with_reducible apply State.embRecord_kept
    | with_reducible apply State.gthRecord_kept | with_reducible apply State.stepFault_kept
    | with_reducible apply State.endGth_kept | lift_lets -underBinder | dsimp -zeta only | split

theorem State.sendEntry_kept {s0 s : State} (c : GthCmd) (key : Nat) (e : MergeEntry) (hk0 : Kept s0 s) :
    KeptP s0 (State.sendEntry s c key e) := by
  unfold State.sendEntry
  repeat' first
    | with_reducible assumption | (intro x; have hx : Kept s0 x := ?hk; clear_value x; case' hk => subst x)
    | (intro x; subst x) | intro _ | with_reducible apply Kept.ite | with_reducible apply KeptP.ite
    | (rewrite [pairP_eq]; with_reducible refine KeptP.mk ?_)
    | (rewrite [pairQ_eq]; with_reducible refine KeptQ.mk ?_) | with_reducible apply KeptQ.ite
    | with_reducible apply State.modGth_kept | with_reducible apply State.lookupFault_kept
    | with_reducible apply State.homeOf_kept | with_reducible apply State.request_kept
    | with_reducible apply State.gthRequest_kept | with_reducible apply State.bump_kept
    | with_reducible apply State.ownAcc_kept | with_reducible apply State.accRefused_kept
    | with_reducible apply State.forward_kept | with_reducible apply State.sendMsg_kept
    | with_reducible apply State.spend_kept | with_reducible apply State.modCmd_kept
    | with_reducible apply State.memFaultCmd_kept | (rewrite [State.mk_eq_ofB]; with_reducible refine Kept.upd ?_)
    | with_reducible refine Kept.of_fst (by assumption) ?_ | with_reducible apply KeptP.fst
    | with_reducible refine Kept.of_snd (by assumption) ?_ | with_reducible apply KeptQ.snd | lift_lets -underBinder
    | dsimp -zeta only | split

theorem State.gthRun_kept {s0 s : State} (q : Nat) (i : Nat) (x1 : Nat) (hk0 : Kept s0 s) :
    Kept s0 (State.gthRun s q i x1) := by
  induction x1 generalizing s q i with
  | zero =>
    rewrite [State.gthRun]
    repeat' first
      | with_reducible assumption | (intro x; have hx : Kept s0 x := ?hk; clear_value x; case' hk => subst x)
      | (intro x; subst x) | intro _ | with_reducible apply Kept.ite | with_reducible apply KeptP.ite
      | (rewrite [pairP_eq]; with_reducible refine KeptP.mk ?_) | with_reducible apply State.modCmd_kept
      | with_reducible apply State.closeEnd_kept | with_reducible apply State.sendEntry_kept
      | with_reducible apply State.bump_kept | with_reducible apply State.modGth_kept
      | with_reducible apply State.engineSignal_kept | with_reducible apply State.endGth_kept
      | (rewrite [State.mk_eq_ofB]; with_reducible refine Kept.upd ?_)
      | with_reducible refine Kept.of_fst (by assumption) ?_ | with_reducible apply KeptP.fst | lift_lets -underBinder
      | dsimp -zeta only | split
  | succ n ih =>
    rewrite [State.gthRun]
    repeat' first
      | with_reducible assumption | (intro x; have hx : Kept s0 x := ?hk; clear_value x; case' hk => subst x)
      | (intro x; subst x) | intro _ | with_reducible apply Kept.ite | with_reducible apply KeptP.ite
      | (rewrite [pairP_eq]; with_reducible refine KeptP.mk ?_) | with_reducible apply ih
      | with_reducible apply State.modCmd_kept | with_reducible apply State.closeEnd_kept
      | with_reducible apply State.sendEntry_kept | with_reducible apply State.bump_kept
      | with_reducible apply State.modGth_kept | with_reducible apply State.engineSignal_kept
      | with_reducible apply State.endGth_kept | (rewrite [State.mk_eq_ofB]; with_reducible refine Kept.upd ?_)
      | with_reducible refine Kept.of_fst (by assumption) ?_ | with_reducible apply KeptP.fst | lift_lets -underBinder
      | dsimp -zeta only | split

theorem State.scatterStart_kept {s0 s : State} (c : GthCmd) (d : GthDesc) (spxUe : Option Nat) (hk0 : Kept s0 s) :
    Kept s0 (State.scatterStart s c d spxUe) := by
  unfold State.scatterStart
  repeat' first
    | with_reducible assumption | (intro x; have hx : Kept s0 x := ?hk; clear_value x; case' hk => subst x)
    | (intro x; subst x) | intro _ | with_reducible apply Kept.ite | with_reducible apply KeptP.ite
    | (rewrite [pairP_eq]; with_reducible refine KeptP.mk ?_) | with_reducible apply State.gthRecord_kept
    | with_reducible apply State.endGth_kept | with_reducible apply State.badCommand_kept
    | with_reducible apply State.gthFault_kept | with_reducible apply State.admitted_kept
    | with_reducible apply State.spxEcc_kept | with_reducible apply State.record_kept
    | with_reducible apply State.heatOn_kept | with_reducible apply State.memFaultCmd_kept
    | with_reducible apply State.modCmd_kept | with_reducible apply State.gthRun_kept
    | (rewrite [State.mk_eq_ofB]; with_reducible refine Kept.upd ?_)
    | with_reducible refine Kept.of_fst (by assumption) ?_ | with_reducible apply KeptP.fst | lift_lets -underBinder
    | dsimp -zeta only | split

theorem State.closeStart_kept {s0 s : State} (c : GthCmd) (hk0 : Kept s0 s) :
    Kept s0 (State.closeStart s c) := by
  unfold State.closeStart
  repeat' first
    | with_reducible assumption | (intro x; have hx : Kept s0 x := ?hk; clear_value x; case' hk => subst x)
    | (intro x; subst x) | intro _ | with_reducible apply Kept.ite | with_reducible apply State.modCmd_kept
    | with_reducible apply State.gthRun_kept | (rewrite [State.mk_eq_ofB]; with_reducible refine Kept.upd ?_)
    | lift_lets -underBinder | dsimp -zeta only | split

theorem State.gthStart_kept {s0 s : State} (q : Nat) (i : Nat) (spxUe : Option Nat) (hk0 : Kept s0 s) :
    Kept s0 (State.gthStart s q i spxUe) := by
  unfold State.gthStart
  repeat' first
    | with_reducible assumption | (intro x; have hx : Kept s0 x := ?hk; clear_value x; case' hk => subst x)
    | (intro x; subst x) | intro _ | with_reducible apply Kept.ite | with_reducible apply KeptP.ite
    | (rewrite [pairP_eq]; with_reducible refine KeptP.mk ?_) | with_reducible apply State.closeStart_kept
    | with_reducible apply State.readVa_kept | with_reducible apply State.gthRecord_kept
    | with_reducible apply State.endGth_kept | with_reducible apply State.badCommand_kept
    | with_reducible apply State.gatherStart_kept | with_reducible apply State.scatterStart_kept
    | with_reducible apply State.memFaultCmd_kept | with_reducible refine Kept.of_fst (by assumption) ?_
    | with_reducible apply KeptP.fst | lift_lets -underBinder | dsimp -zeta only | split

theorem State.scatterClose_kept {s0 s : State} (q : Nat) (i : Nat) (hk0 : Kept s0 s) :
    Kept s0 (State.scatterClose s q i) := by
  unfold State.scatterClose
  repeat' first
    | with_reducible assumption | (intro x; have hx : Kept s0 x := ?hk; clear_value x; case' hk => subst x)
    | (intro x; subst x) | intro _ | with_reducible apply Kept.ite | with_reducible apply State.start_kept
    | with_reducible apply State.refuseGth_kept | with_reducible apply State.modGth_kept
    | with_reducible apply State.gthStart_kept | (rewrite [State.mk_eq_ofB]; with_reducible refine Kept.upd ?_)
    | lift_lets -underBinder | dsimp -zeta only | split

theorem State.accAck_kept {s0 s : State} (die : Nat) (request : Nat) (hk0 : Kept s0 s) :
    Kept s0 (State.accAck s die request) := by
  unfold State.accAck
  repeat' first
    | with_reducible assumption | intro _ | with_reducible apply State.request_kept
    | with_reducible apply State.modGth_kept | with_reducible apply State.closeEnd_kept
    | (rewrite [State.mk_eq_ofB]; with_reducible refine Kept.upd ?_) | dsimp -zeta only | split

theorem State.negative_kept {s0 s : State} (die : Nat) (op : NegOp) (request : Nat) (code : Nat) (hk0 : Kept s0 s) :
    Kept s0 (State.negative s die op request code) := by
  unfold State.negative
  repeat' first
    | with_reducible assumption | (intro x; have hx : Kept s0 x := ?hk; clear_value x; case' hk => subst x)
    | (intro x; subst x) | intro _ | with_reducible apply Kept.ite | with_reducible apply KeptP.ite
    | (rewrite [pairP_eq]; with_reducible refine KeptP.mk ?_) | with_reducible apply State.adjRefused_kept
    | with_reducible apply State.request_kept | with_reducible apply State.gthFault_kept
    | with_reducible apply State.lookupFault_kept | with_reducible apply State.memFaultCmd_kept
    | with_reducible apply State.accumulate_kept | with_reducible apply State.modGth_kept
    | with_reducible apply State.accRefused_kept | with_reducible apply State.closeEnd_kept
    | (rewrite [State.mk_eq_ofB]; with_reducible refine Kept.upd ?_)
    | with_reducible refine Kept.of_fst (by assumption) ?_ | with_reducible apply KeptP.fst | lift_lets -underBinder
    | dsimp -zeta only | split

theorem State.gthTimeout_kept {s0 s : State} (die : Nat) (accumulate : Bool) (request : Nat) (hk0 : Kept s0 s) :
    Kept s0 (State.gthTimeout s die accumulate request) := by
  unfold State.gthTimeout
  repeat' first
    | with_reducible assumption | (intro x; have hx : Kept s0 x := ?hk; clear_value x; case' hk => subst x)
    | (intro x; subst x) | intro _ | with_reducible apply Kept.ite | with_reducible apply KeptP.ite
    | (rewrite [pairP_eq]; with_reducible refine KeptP.mk ?_) | with_reducible apply State.accumulate_kept
    | with_reducible apply State.request_kept | with_reducible apply State.modGth_kept
    | with_reducible apply State.bump_kept | with_reducible apply State.sendMsg_kept
    | with_reducible apply State.gthFault_kept | with_reducible apply State.gthRecord_kept
    | with_reducible apply State.stepFault_kept | with_reducible apply State.modRow_kept
    | with_reducible apply State.sendRowRead_kept | (rewrite [State.mk_eq_ofB]; with_reducible refine Kept.upd ?_)
    | with_reducible refine Kept.of_fst (by assumption) ?_ | with_reducible apply KeptP.fst | lift_lets -underBinder
    | dsimp -zeta only | split

theorem State.writeMergeQuota_kept {s0 s : State} (die : Nat) (g : Nat) (v : Word) (hk0 : Kept s0 s) :
    Kept s0 (State.writeMergeQuota s die g v) := by
  unfold State.writeMergeQuota
  repeat' first
    | with_reducible assumption | (intro x; have hx : Kept s0 x := ?hk; clear_value x; case' hk => subst x)
    | (intro x; subst x) | intro _ | with_reducible apply Kept.ite | with_reducible apply State.gthRecord_kept
    | with_reducible apply State.softWrite_kept | lift_lets -underBinder | dsimp -zeta only | split

theorem State.retryGather_kept {s0 s : State} (die : Nat) (g : Nat) (hk0 : Kept s0 s) :
    Kept s0 (State.retryGather s die g) := by
  unfold State.retryGather
  repeat' first
    | with_reducible assumption | intro _ | with_reducible apply Kept.ite | with_reducible apply State.each_kept
    | with_reducible apply State.issueRows_kept | with_reducible apply State.gthRun_kept | dsimp -zeta only | split

theorem State.openGather_kept {s0 s : State} (g : Nat) (n : Nat) (hk0 : Kept s0 s) :
    Kept s0 (State.openGather s g n) := by
  unfold State.openGather
  repeat' first
    | with_reducible assumption | (intro x; have hx : Kept s0 x := ?hk; clear_value x; case' hk => subst x)
    | (intro x; subst x) | intro _ | with_reducible apply State.each_kept | with_reducible apply State.modGth_kept
    | (rewrite [State.mk_eq_ofB]; with_reducible refine Kept.upd ?_) | lift_lets -underBinder | dsimp -zeta only
    | split

theorem State.voidGather_kept {s0 s : State} (g : Nat) (n : Nat) (hk0 : Kept s0 s) :
    Kept s0 (State.voidGather s g n) := by
  unfold State.voidGather
  repeat' first
    | with_reducible assumption | (intro x; have hx : Kept s0 x := ?hk; clear_value x; case' hk => subst x)
    | (intro x; subst x) | intro _ | with_reducible apply Kept.ite | with_reducible apply State.modGth_kept
    | with_reducible apply State.each_kept | with_reducible apply State.complete_kept
    | (rewrite [State.mk_eq_ofB]; with_reducible refine Kept.upd ?_) | lift_lets -underBinder | dsimp -zeta only
    | split

theorem State.dropGather_kept {s0 s : State} (g : Nat) (hk0 : Kept s0 s) :
    Kept s0 (State.dropGather s g) := by
  unfold State.dropGather
  repeat' first
    | with_reducible assumption | intro _ | with_reducible apply State.modGth_kept
    | (rewrite [State.mk_eq_ofB]; with_reducible refine Kept.upd ?_) | dsimp -zeta only | split

end Sys2Proof.Machine
end

