-- ==== Sys2Proof/Laws/KeptTiles.lean ====
section
/-! SUPPORT. What the operations of Machine/Vector, Sparse, Tiles keep: `Kept`, one lemma each. -/
set_option Elab.async false
set_option linter.unusedTactic false
set_option linter.unreachableTactic false
set_option linter.unnecessarySeqFocus false
namespace Sys2Proof.Machine

theorem State.svuFault_kept {s0 s : State} (tile : Nat) (slot : Nat) (code : Nat) (g : Nat) (item : Nat) (detail : Nat) (hk0 : Kept s0 s) :
    Kept s0 (State.svuFault s tile slot code g item detail) := by
  unfold State.svuFault
  repeat' first
    | with_reducible assumption | (intro x; have hx : Kept s0 x := ?hk; clear_value x; case' hk => subst x)
    | (intro x; subst x) | intro _ | with_reducible apply State.putReg_kept | with_reducible apply State.record_kept
    | lift_lets -underBinder | dsimp -zeta only | split

theorem State.countConv_kept {s0 s : State} (sat : Reg) (flush : Reg) (ix : List Nat) (cs : List Conv) (hk0 : Kept s0 s) :
    Kept s0 (State.countConv s sat flush ix cs) := by
  unfold State.countConv
  repeat' first
    | with_reducible assumption | (intro x; have hx : Kept s0 x := ?hk; clear_value x; case' hk => subst x)
    | (intro x; subst x) | intro _ | with_reducible apply Kept.ite | with_reducible apply State.bump_kept
    | lift_lets -underBinder | dsimp -zeta only | split

theorem State.histCodes_kept {s0 s : State} (src : Src) (tile : Nat) (g : Nat) (stream : Nat) (unstepped : Bool) (f : Fmt) (scale : Int) (cs : List Nat) (hk0 : Kept s0 s) :
    Kept s0 (State.histCodes s src tile g stream unstepped f scale cs) := by
  unfold State.histCodes
  repeat' first
    | with_reducible assumption | intro _ | with_reducible apply Kept.ite | with_reducible apply State.each_kept
    | with_reducible apply State.histAdd_kept | dsimp -zeta only | split

theorem State.vStore_kept {s0 s : State} (tile : Nat) (g : Nat) (unstepped : Bool) (x : VStream) (i : VInstr) (r : Nat) (e : Nat) (x1 : Nat) (x2 : List Num) (hk0 : Kept s0 s) :
    Kept s0 (State.vStore s tile g unstepped x i r e x1 x2) := by
  induction x1 generalizing s tile g unstepped x i r e x2 with
  | zero =>
    unfold State.vStore
    repeat' first
      | with_reducible assumption | (intro x; have hx : Kept s0 x := ?hk; clear_value x; case' hk => subst x)
      | (intro x; subst x) | intro _ | with_reducible apply Kept.ite | with_reducible apply State.spxWrite_kept
      | with_reducible apply State.countConv_kept | with_reducible apply State.histCodes_kept | lift_lets -underBinder
      | dsimp -zeta only | split
  | succ n ih =>
    unfold State.vStore
    repeat' first
      | with_reducible assumption | (intro x; have hx : Kept s0 x := ?hk; clear_value x; case' hk => subst x)
      | (intro x; subst x) | intro _ | with_reducible apply Kept.ite | with_reducible apply ih
      | with_reducible apply State.spxWrite_kept | with_reducible apply State.countConv_kept
      | with_reducible apply State.histCodes_kept | lift_lets -underBinder | dsimp -zeta only | split

theorem State.vGroup_kept {s0 s : State} (tile : Nat) (g : Nat) (unstepped : Bool) (p : VProg) (r : Nat) (e : Nat) (n : Nat) (hk0 : Kept s0 s) :
    KeptP s0 (State.vGroup s tile g unstepped p r e n) := by
  unfold State.vGroup
  repeat' first
    | with_reducible assumption | (intro x; have hx : Kept s0 x := ?hk; clear_value x; case' hk => subst x)
    | (intro x; subst x) | intro _ | with_reducible apply Kept.ite | with_reducible apply KeptP.ite
    | (rewrite [pairP_eq]; with_reducible refine KeptP.mk ?_) | with_reducible apply State.vStore_kept
    | with_reducible apply Kept.foldl | with_reducible apply KeptP.foldl
    | with_reducible refine Kept.of_fst (by assumption) ?_ | with_reducible apply KeptP.fst | lift_lets -underBinder
    | dsimp -zeta only | split

theorem State.vRow_kept {s0 s : State} (tile : Nat) (g : Nat) (unstepped : Bool) (p : VProg) (r : Nat) (hk0 : Kept s0 s) :
    Kept s0 (State.vRow s tile g unstepped p r) := by
  unfold State.vRow
  repeat' first
    | with_reducible assumption | (intro x; have hx : Kept s0 x := ?hk; clear_value x; case' hk => subst x)
    | (intro x; subst x) | intro _ | with_reducible apply Kept.ite | with_reducible apply KeptP.ite
    | (rewrite [pairP_eq]; with_reducible refine KeptP.mk ?_)
    | (rewrite [pairQ_eq]; with_reducible refine KeptQ.mk ?_) | with_reducible apply KeptQ.ite
    | with_reducible apply State.vGroup_kept | with_reducible apply State.vStore_kept
    | with_reducible apply Kept.foldl | with_reducible apply KeptP.foldl
    | with_reducible refine Kept.of_fst (by assumption) ?_ | with_reducible apply KeptP.fst
    | with_reducible refine Kept.of_snd (by assumption) ?_ | with_reducible apply KeptQ.snd | lift_lets -underBinder
    | dsimp -zeta only | split

theorem State.vRun_kept {s0 s : State} (tile : Nat) (slot : Nat) (t : Task) (b : List Byte) (hk0 : Kept s0 s) :
    KeptP s0 (State.vRun s tile slot t b) := by
  unfold State.vRun
  repeat' first
    | with_reducible assumption | (intro x; have hx : Kept s0 x := ?hk; clear_value x; case' hk => subst x)
    | (intro x; subst x) | intro _ | with_reducible apply Kept.ite | with_reducible apply KeptP.ite
    | (rewrite [pairP_eq]; with_reducible refine KeptP.mk ?_) | with_reducible apply State.svuFault_kept
    | with_reducible apply State.each_kept | with_reducible apply State.vRow_kept
    | with_reducible apply State.putReg_kept | with_reducible apply State.bump_kept
    | with_reducible refine Kept.of_fst (by assumption) ?_ | with_reducible apply KeptP.fst | lift_lets -underBinder
    | dsimp -zeta only | split

theorem State.segWrite_kept {s0 s : State} (tile : Nat) (t : Task) (x : SegOp) (off : Nat) (v : List Num) (hk0 : Kept s0 s) :
    Kept s0 (State.segWrite s tile t x off v) := by
  unfold State.segWrite
  repeat' first
    | with_reducible assumption | (intro x; have hx : Kept s0 x := ?hk; clear_value x; case' hk => subst x)
    | (intro x; subst x) | intro _ | with_reducible apply Kept.ite | with_reducible apply State.spxWrite_kept
    | with_reducible apply State.countConv_kept | with_reducible apply State.histCodes_kept | lift_lets -underBinder
    | dsimp -zeta only | split

theorem State.segParent_kept {s0 s : State} (tile : Nat) (t : Task) (x : SegOp) (p : Nat) (hk0 : Kept s0 s) :
    KeptP s0 (State.segParent s tile t x p) := by
  unfold State.segParent
  repeat' first
    | with_reducible assumption | (intro x; have hx : Kept s0 x := ?hk; clear_value x; case' hk => subst x)
    | (intro x; subst x) | intro _ | with_reducible apply Kept.ite | with_reducible apply KeptP.ite
    | (rewrite [pairP_eq]; with_reducible refine KeptP.mk ?_) | with_reducible apply State.each_kept
    | with_reducible apply State.segWrite_kept | with_reducible apply State.spxWrite_kept
    | with_reducible apply Kept.foldl | with_reducible apply KeptP.foldl
    | with_reducible refine Kept.of_fst (by assumption) ?_ | with_reducible apply KeptP.fst | lift_lets -underBinder
    | dsimp -zeta only | split

theorem State.segParents_kept {s0 s : State} (tile : Nat) (slot : Nat) (t : Task) (x : SegOp) (x1 : List Nat) (hk0 : Kept s0 s) :
    KeptP s0 (State.segParents s tile slot t x x1) := by
  induction x1 generalizing s tile slot t x with
  | nil =>
    rewrite [State.segParents]
    repeat' first
      | with_reducible assumption | (rewrite [pairP_eq]; with_reducible refine KeptP.mk ?_)
      | with_reducible apply State.segParent_kept | with_reducible apply State.svuFault_kept
      | with_reducible refine Kept.of_fst (by assumption) ?_ | with_reducible apply KeptP.fst | split
  | cons y t ih =>
    rewrite [State.segParents]
    repeat' first
      | with_reducible assumption | (rewrite [pairP_eq]; with_reducible refine KeptP.mk ?_) | with_reducible apply ih
      | with_reducible apply State.segParent_kept | with_reducible apply State.svuFault_kept
      | with_reducible refine Kept.of_fst (by assumption) ?_ | with_reducible apply KeptP.fst | split

theorem State.segRun_kept {s0 s : State} (tile : Nat) (slot : Nat) (t : Task) (b : List Byte) (hk0 : Kept s0 s) :
    KeptP s0 (State.segRun s tile slot t b) := by
  unfold State.segRun
  repeat' first
    | with_reducible assumption | (intro x; have hx : Kept s0 x := ?hk; clear_value x; case' hk => subst x)
    | (intro x; subst x) | intro _ | with_reducible apply Kept.ite | with_reducible apply KeptP.ite
    | (rewrite [pairP_eq]; with_reducible refine KeptP.mk ?_) | with_reducible apply State.svuFault_kept
    | with_reducible apply State.segParents_kept | with_reducible apply State.putReg_kept
    | with_reducible apply State.bump_kept | with_reducible refine Kept.of_fst (by assumption) ?_
    | with_reducible apply KeptP.fst | lift_lets -underBinder | dsimp -zeta only | split

theorem State.svuRun_kept {s0 s : State} (tile : Nat) (slot : Nat) (t : Task) (b : List Byte) (hk0 : Kept s0 s) :
    KeptP s0 (State.svuRun s tile slot t b) := by
  unfold State.svuRun
  repeat' first
    | with_reducible assumption | with_reducible apply Kept.ite | with_reducible apply KeptP.ite
    | (rewrite [pairP_eq]; with_reducible refine KeptP.mk ?_) | with_reducible apply State.vRun_kept
    | with_reducible apply State.segRun_kept | with_reducible apply State.svuFault_kept
    | with_reducible refine Kept.of_fst (by assumption) ?_ | with_reducible apply KeptP.fst | split

theorem State.smuFault_kept {s0 s : State} (tile : Nat) (slot : Nat) (code : Nat) (g : Nat) (check : Nat) (detail : Nat) (hk0 : Kept s0 s) :
    Kept s0 (State.smuFault s tile slot code g check detail) := by
  unfold State.smuFault
  repeat' first
    | with_reducible assumption | (intro x; have hx : Kept s0 x := ?hk; clear_value x; case' hk => subst x)
    | (intro x; subst x) | intro _ | with_reducible apply State.putReg_kept | with_reducible apply State.record_kept
    | lift_lets -underBinder | dsimp -zeta only | split

theorem State.matchConvert_kept {s0 s : State} (tile : Nat) (t : Task) (o : MatchOp) (vs : List Nat) (hk0 : Kept s0 s) :
    KeptP s0 (State.matchConvert s tile t o vs) := by
  unfold State.matchConvert
  repeat' first
    | with_reducible assumption | (intro x; have hx : Kept s0 x := ?hk; clear_value x; case' hk => subst x)
    | (intro x; subst x) | intro _ | with_reducible apply Kept.ite | with_reducible apply KeptP.ite
    | (rewrite [pairP_eq]; with_reducible refine KeptP.mk ?_) | with_reducible apply State.countConv_kept
    | with_reducible apply State.histCodes_kept | with_reducible refine Kept.of_fst (by assumption) ?_
    | with_reducible apply KeptP.fst | lift_lets -underBinder | dsimp -zeta only | split

theorem State.matchStatus_kept {s0 s : State} (tile : Nat) (row : Nat) (used : Nat) (hk0 : Kept s0 s) :
    Kept s0 (State.matchStatus s tile row used) := by
  unfold State.matchStatus
  repeat' first
    | with_reducible assumption | with_reducible apply State.putReg_kept | split

theorem State.matchStopped_kept {s0 s : State} (tile : Nat) (slot : Nat) (t : Task) (o : MatchOp) (x1 : MatchStop) (hk0 : Kept s0 s) :
    Kept s0 (State.matchStopped s tile slot t o x1) := by
  unfold State.matchStopped
  repeat' first
    | with_reducible assumption | with_reducible apply State.smuFault_kept | split

theorem State.matchRows_kept {s0 s : State} (tile : Nat) (slot : Nat) (t : Task) (o : MatchOp) (fa : Form) (fb : Form) (x1 : List Nat) (x2 : List (List (Nat × Nat))) (hk0 : Kept s0 s) :
    KeptP s0 (State.matchRows s tile slot t o fa fb x1 x2) := by
  induction x1 generalizing s tile slot t o fa fb x2 with
  | nil =>
    rewrite [State.matchRows]
    repeat' first
      | with_reducible assumption | (intro x; have hx : Kept s0 x := ?hk; clear_value x; case' hk => subst x)
      | (intro x; subst x) | intro _ | with_reducible apply Kept.ite | with_reducible apply KeptP.ite
      | (rewrite [pairP_eq]; with_reducible refine KeptP.mk ?_) | with_reducible apply State.smuFault_kept
      | with_reducible apply State.bump_kept | with_reducible apply State.matchStatus_kept
      | with_reducible apply State.matchStopped_kept | with_reducible apply State.matchConvert_kept
      | with_reducible apply State.spxWrite_kept | (rewrite [State.mk_eq_ofB]; with_reducible refine Kept.upd ?_)
      | with_reducible refine Kept.of_fst (by assumption) ?_ | with_reducible apply KeptP.fst | lift_lets -underBinder
      | dsimp -zeta only | split
  | cons y t ih =>
    rewrite [State.matchRows]
    repeat' first
      | with_reducible assumption | (intro x; have hx : Kept s0 x := ?hk; clear_value x; case' hk => subst x)
      | (intro x; subst x) | intro _ | with_reducible apply Kept.ite | with_reducible apply KeptP.ite
      | (rewrite [pairP_eq]; with_reducible refine KeptP.mk ?_) | with_reducible apply ih
      | with_reducible apply State.smuFault_kept | with_reducible apply State.bump_kept
      | with_reducible apply State.matchStatus_kept | with_reducible apply State.matchStopped_kept
      | with_reducible apply State.matchConvert_kept | with_reducible apply State.spxWrite_kept
      | (rewrite [State.mk_eq_ofB]; with_reducible refine Kept.upd ?_)
      | with_reducible refine Kept.of_fst (by assumption) ?_ | with_reducible apply KeptP.fst | lift_lets -underBinder
      | dsimp -zeta only | split

theorem State.matchForm_kept {s0 s : State} (tile : Nat) (slot : Nat) (t : Task) (o : MatchOp) (rows : List (List (Nat × Nat))) (hk0 : Kept s0 s) :
    KeptP s0 (State.matchForm s tile slot t o rows) := by
  unfold State.matchForm
  repeat' first
    | with_reducible assumption | (intro x; have hx : Kept s0 x := ?hk; clear_value x; case' hk => subst x)
    | (intro x; subst x) | intro _ | with_reducible apply Kept.ite | with_reducible apply KeptP.ite
    | (rewrite [pairP_eq]; with_reducible refine KeptP.mk ?_)
    | (rewrite [pairQ_eq]; with_reducible refine KeptQ.mk ?_) | with_reducible apply KeptQ.ite
    | with_reducible apply State.smuFault_kept | with_reducible apply State.matchConvert_kept
    | with_reducible apply State.each_kept | with_reducible apply State.spxWrite_kept
    | with_reducible apply Kept.foldl | with_reducible apply KeptP.foldl
    | with_reducible refine Kept.of_fst (by assumption) ?_ | with_reducible apply KeptP.fst
    | with_reducible refine Kept.of_snd (by assumption) ?_ | with_reducible apply KeptQ.snd | lift_lets -underBinder
    | dsimp -zeta only | split

theorem State.smuRun_kept {s0 s : State} (tile : Nat) (slot : Nat) (t : Task) (b : List Byte) (hk0 : Kept s0 s) :
    KeptP s0 (State.smuRun s tile slot t b) := by
  unfold State.smuRun
  repeat' first
    | with_reducible assumption | (intro x; have hx : Kept s0 x := ?hk; clear_value x; case' hk => subst x)
    | (intro x; subst x) | intro _ | with_reducible apply Kept.ite | with_reducible apply KeptP.ite
    | (rewrite [pairP_eq]; with_reducible refine KeptP.mk ?_) | with_reducible apply State.smuFault_kept
    | with_reducible apply State.matchRows_kept | with_reducible apply State.matchForm_kept
    | with_reducible refine Kept.of_fst (by assumption) ?_ | with_reducible apply KeptP.fst | lift_lets -underBinder
    | dsimp -zeta only | split

theorem State.drainRow_kept {s0 s : State} (tile : Nat) (t : Task) (o : MatOp) (m : Nat) (n : Nat) (x1 : Nat) (x2 : List Nat) (hk0 : Kept s0 s) :
    Kept s0 (State.drainRow s tile t o m n x1 x2) := by
  induction x1 generalizing s tile t o m n x2 with
  | zero =>
    unfold State.drainRow
    repeat' first
      | with_reducible assumption | (intro x; have hx : Kept s0 x := ?hk; clear_value x; case' hk => subst x)
      | (intro x; subst x) | intro _ | with_reducible apply Kept.ite | with_reducible apply State.spxWrite_kept
      | with_reducible apply State.countConv_kept | with_reducible apply State.histCodes_kept | lift_lets -underBinder
      | dsimp -zeta only | split
  | succ n ih =>
    unfold State.drainRow
    repeat' first
      | with_reducible assumption | (intro x; have hx : Kept s0 x := ?hk; clear_value x; case' hk => subst x)
      | (intro x; subst x) | intro _ | with_reducible apply Kept.ite | with_reducible apply ih
      | with_reducible apply State.spxWrite_kept | with_reducible apply State.countConv_kept
      | with_reducible apply State.histCodes_kept | lift_lets -underBinder | dsimp -zeta only | split

theorem State.tilFault_kept {s0 s : State} (tile : Nat) (slot : Nat) (code : Nat) (g : Nat) (detail : Nat) (hk0 : Kept s0 s) :
    KeptP s0 (State.tilFault s tile slot code g detail) := by
  unfold State.tilFault
  repeat' first
    | with_reducible assumption | (rewrite [pairP_eq]; with_reducible refine KeptP.mk ?_)
    | with_reducible apply State.tilRecord_kept | with_reducible refine Kept.of_fst (by assumption) ?_
    | with_reducible apply KeptP.fst | split

theorem State.runPass_kept {s0 s : State} (tile : Nat) (slot : Nat) (t : Task) (o : MatOp) (d : MatData) (wrong : List (Nat × Nat × Nat × Nat)) (p : Pass) (hk0 : Kept s0 s) :
    Kept s0 (State.runPass s tile slot t o d wrong p) := by
  unfold State.runPass
  repeat' first
    | with_reducible assumption | (intro x; have hx : Kept s0 x := ?hk; clear_value x; case' hk => subst x)
    | (intro x; subst x) | intro _ | with_reducible apply Kept.ite | with_reducible apply State.countConv_kept
    | with_reducible apply State.bump_kept | with_reducible apply State.each_kept
    | with_reducible apply State.drainRow_kept | (rewrite [State.mk_eq_ofB]; with_reducible refine Kept.upd ?_)
    | lift_lets -underBinder | dsimp -zeta only | split

theorem State.arrayRun_kept {s0 s : State} (tile : Nat) (slot : Nat) (t : Task) (b : List Byte) (wrong : List (Nat × Nat × Nat × Nat)) (hk0 : Kept s0 s) :
    KeptP s0 (State.arrayRun s tile slot t b wrong) := by
  unfold State.arrayRun
  repeat' first
    | with_reducible assumption | (intro x; have hx : Kept s0 x := ?hk; clear_value x; case' hk => subst x)
    | (intro x; subst x) | intro _ | with_reducible apply Kept.ite | with_reducible apply KeptP.ite
    | (rewrite [pairP_eq]; with_reducible refine KeptP.mk ?_) | with_reducible apply State.tilFault_kept
    | with_reducible apply State.bump_kept | with_reducible apply State.each_kept
    | with_reducible apply State.runPass_kept | with_reducible refine Kept.of_fst (by assumption) ?_
    | with_reducible apply KeptP.fst | lift_lets -underBinder | dsimp -zeta only | split

theorem State.dmaHist_kept {s0 s : State} (tile : Nat) (t : Task) (o : DmaOp) (r : Nat) (bs : List Byte) (hk0 : Kept s0 s) :
    Kept s0 (State.dmaHist s tile t o r bs) := by
  unfold State.dmaHist
  repeat' first
    | with_reducible assumption | intro _ | with_reducible apply Kept.ite | with_reducible apply State.each_kept
    | with_reducible apply State.histAdd_kept | dsimp -zeta only | split

theorem State.dmaPut_kept {s0 s : State} (t : Task) (o : DmaOp) (off : Nat) (bs : List Byte) (hk0 : Kept s0 s) :
    KeptP s0 (State.dmaPut s t o off bs) := by
  unfold State.dmaPut
  repeat' first
    | with_reducible assumption | with_reducible apply Kept.ite | with_reducible apply KeptP.ite
    | (rewrite [pairP_eq]; with_reducible refine KeptP.mk ?_) | with_reducible apply State.spxWrite_kept
    | with_reducible apply State.writeVa_kept | with_reducible refine Kept.of_fst (by assumption) ?_
    | with_reducible apply KeptP.fst | split

theorem State.dmaStop_kept {s0 s : State} (tile : Nat) (slot : Nat) (t : Task) (va : Nat) (x1 : Acc) (hk0 : Kept s0 s) :
    Kept s0 (State.dmaStop s tile slot t va x1) := by
  unfold State.dmaStop
  repeat' first
    | with_reducible assumption | with_reducible apply State.tilRecord_kept
    | with_reducible apply State.staleRecord_kept | split

theorem State.dmaRows_kept {s0 s : State} (tile : Nat) (slot : Nat) (t : Task) (o : DmaOp) (x1 : List Nat) (hk0 : Kept s0 s) :
    KeptP s0 (State.dmaRows s tile slot t o x1) := by
  induction x1 generalizing s tile slot t o with
  | nil =>
    rewrite [State.dmaRows]
    repeat' first
      | with_reducible assumption | (intro x; have hx : Kept s0 x := ?hk; clear_value x; case' hk => subst x)
      | (intro x; subst x) | intro _ | with_reducible apply Kept.ite | with_reducible apply KeptP.ite
      | (rewrite [pairP_eq]; with_reducible refine KeptP.mk ?_) | with_reducible apply State.readVa_kept
      | with_reducible apply State.spxWrite_kept | with_reducible apply State.dmaPut_kept
      | with_reducible apply State.dmaHist_kept | with_reducible apply State.bump_kept
      | with_reducible apply State.dmaStop_kept | with_reducible refine Kept.of_fst (by assumption) ?_
      | with_reducible apply KeptP.fst | lift_lets -underBinder | dsimp -zeta only | split
  | cons y t ih =>
    rewrite [State.dmaRows]
    repeat' first
      | with_reducible assumption | (intro x; have hx : Kept s0 x := ?hk; clear_value x; case' hk => subst x)
      | (intro x; subst x) | intro _ | with_reducible apply Kept.ite | with_reducible apply KeptP.ite
      | (rewrite [pairP_eq]; with_reducible refine KeptP.mk ?_) | with_reducible apply ih
      | with_reducible apply State.readVa_kept | with_reducible apply State.spxWrite_kept
      | with_reducible apply State.dmaPut_kept | with_reducible apply State.dmaHist_kept
      | with_reducible apply State.bump_kept | with_reducible apply State.dmaStop_kept
      | with_reducible refine Kept.of_fst (by assumption) ?_ | with_reducible apply KeptP.fst | lift_lets -underBinder
      | dsimp -zeta only | split

theorem State.dmaPieces_kept {s0 s : State} (tile : Nat) (slot : Nat) (t : Task) (o : DmaOp) (f : Form) (x1 : List (Nat × List Byte)) (hk0 : Kept s0 s) :
    KeptP s0 (State.dmaPieces s tile slot t o f x1) := by
  induction x1 generalizing s tile slot t o f with
  | nil =>
    rewrite [State.dmaPieces]
    repeat' first
      | with_reducible assumption | with_reducible apply Kept.ite | with_reducible apply KeptP.ite
      | (rewrite [pairP_eq]; with_reducible refine KeptP.mk ?_) | with_reducible apply State.spxWrite_kept
      | with_reducible apply State.dmaPut_kept | with_reducible apply State.bump_kept
      | with_reducible apply State.dmaStop_kept | with_reducible refine Kept.of_fst (by assumption) ?_
      | with_reducible apply KeptP.fst | split
  | cons y t ih =>
    rewrite [State.dmaPieces]
    repeat' first
      | with_reducible assumption | with_reducible apply Kept.ite | with_reducible apply KeptP.ite
      | (rewrite [pairP_eq]; with_reducible refine KeptP.mk ?_) | with_reducible apply ih
      | with_reducible apply State.spxWrite_kept | with_reducible apply State.dmaPut_kept
      | with_reducible apply State.bump_kept | with_reducible apply State.dmaStop_kept
      | with_reducible refine Kept.of_fst (by assumption) ?_ | with_reducible apply KeptP.fst | split

theorem State.dmaCompress_kept {s0 s : State} (tile : Nat) (slot : Nat) (t : Task) (o : DmaOp) (hk0 : Kept s0 s) :
    KeptP s0 (State.dmaCompress s tile slot t o) := by
  unfold State.dmaCompress
  repeat' first
    | with_reducible assumption | (intro x; have hx : Kept s0 x := ?hk; clear_value x; case' hk => subst x)
    | (intro x; subst x) | intro _ | with_reducible apply Kept.ite | with_reducible apply KeptP.ite
    | (rewrite [pairP_eq]; with_reducible refine KeptP.mk ?_) | with_reducible apply State.each_kept
    | with_reducible apply State.dmaHist_kept | with_reducible apply State.dmaPieces_kept
    | with_reducible apply State.bump_kept | with_reducible refine Kept.of_fst (by assumption) ?_
    | with_reducible apply KeptP.fst | lift_lets -underBinder | dsimp -zeta only | split

theorem State.dmaRun_kept {s0 s : State} (tile : Nat) (slot : Nat) (t : Task) (b : List Byte) (hk0 : Kept s0 s) :
    KeptP s0 (State.dmaRun s tile slot t b) := by
  unfold State.dmaRun
  repeat' first
    | with_reducible assumption | (intro x; have hx : Kept s0 x := ?hk; clear_value x; case' hk => subst x)
    | (intro x; subst x) | intro _ | with_reducible apply Kept.ite | with_reducible apply KeptP.ite
    | (rewrite [pairP_eq]; with_reducible refine KeptP.mk ?_) | with_reducible apply State.tilFault_kept
    | with_reducible apply State.dmaCompress_kept | with_reducible apply State.dmaRows_kept
    | with_reducible refine Kept.of_fst (by assumption) ?_ | with_reducible apply KeptP.fst | lift_lets -underBinder
    | dsimp -zeta only | split

theorem State.unitRun_kept {s0 s : State} (tile : Nat) (slot : Nat) (x : Slot) (wrong : List (Nat × Nat × Nat × Nat)) (hk0 : Kept s0 s) :
    KeptP s0 (State.unitRun s tile slot x wrong) := by
  unfold State.unitRun
  repeat' first
    | with_reducible assumption | (intro x; have hx : Kept s0 x := ?hk; clear_value x; case' hk => subst x)
    | (intro x; subst x) | intro _ | with_reducible apply Kept.ite | with_reducible apply KeptP.ite
    | (rewrite [pairP_eq]; with_reducible refine KeptP.mk ?_) | with_reducible apply State.arrayRun_kept
    | with_reducible apply State.svuRun_kept | with_reducible apply State.dmaRun_kept
    | with_reducible apply State.smuRun_kept | with_reducible refine Kept.of_fst (by assumption) ?_
    | with_reducible apply KeptP.fst | lift_lets -underBinder | dsimp -zeta only | split

theorem State.unitCounts_kept {s0 s : State} (tile : Nat) (unit : Nat) (r : UnitReport) (hk0 : Kept s0 s) :
    Kept s0 (State.unitCounts s tile unit r) := by
  unfold State.unitCounts
  repeat' first
    | with_reducible assumption | (intro x; have hx : Kept s0 x := ?hk; clear_value x; case' hk => subst x)
    | (intro x; subst x) | intro _ | with_reducible apply Kept.ite | with_reducible apply State.bump_kept
    | with_reducible apply State.each_kept | with_reducible apply State.corrected_kept
    | with_reducible apply State.spxEcc_kept | with_reducible apply State.heatOn_kept | lift_lets -underBinder
    | dsimp -zeta only | split

theorem State.taskEnd_kept {s0 s : State} (tile : Nat) (slot : Nat) (r : UnitReport) (hk0 : Kept s0 s) :
    Kept s0 (State.taskEnd s tile slot r) := by
  unfold State.taskEnd
  repeat' first
    | with_reducible assumption | (intro x; have hx : Kept s0 x := ?hk; clear_value x; case' hk => subst x)
    | (intro x; subst x) | intro _ | with_reducible apply Kept.ite | with_reducible apply KeptP.ite
    | (rewrite [pairP_eq]; with_reducible refine KeptP.mk ?_) | with_reducible apply State.unitCounts_kept
    | with_reducible apply State.spxEcc_kept | with_reducible apply State.tilRecord_kept
    | with_reducible apply State.endTask_kept | with_reducible apply State.unitRun_kept
    | with_reducible apply State.completeTask_kept | with_reducible refine Kept.of_fst (by assumption) ?_
    | with_reducible apply KeptP.fst | lift_lets -underBinder | dsimp -zeta only | split

theorem State.checkDone_kept {s0 s : State} (tile : Nat) (hk0 : Kept s0 s) :
    Kept s0 (State.checkDone s tile) := by
  unfold State.checkDone
  repeat' first
    | with_reducible assumption | (intro x; have hx : Kept s0 x := ?hk; clear_value x; case' hk => subst x)
    | (intro x; subst x) | intro _ | with_reducible apply Kept.ite | with_reducible apply State.bump_kept
    | (rewrite [State.mk_eq_ofB]; with_reducible refine Kept.upd ?_) | lift_lets -underBinder | dsimp -zeta only
    | split

theorem State.dropChecks_kept {s0 s : State} (p : AbftPass → Bool) (hk0 : Kept s0 s) :
    Kept s0 (State.dropChecks s p) := by
  unfold State.dropChecks
  repeat' first
    | with_reducible assumption | intro _ | (rewrite [State.mk_eq_ofB]; with_reducible refine Kept.upd ?_)
    | dsimp -zeta only | split

theorem State.abftWhere_kept {s0 s : State} (p : AbftPass) (hk0 : Kept s0 s) :
    Kept s0 (State.abftWhere s p) := by
  unfold State.abftWhere
  repeat' first
    | with_reducible assumption | (intro x; have hx : Kept s0 x := ?hk; clear_value x; case' hk => subst x)
    | (intro x; subst x) | intro _ | with_reducible apply State.putReg_kept | lift_lets -underBinder
    | dsimp -zeta only | split

theorem State.tolWrite_kept {s0 s : State} (r : Reg) (tile : Nat) (v : Word) (hk0 : Kept s0 s) :
    Kept s0 (State.tolWrite s r tile v) := by
  unfold State.tolWrite
  repeat' first
    | with_reducible assumption | with_reducible apply Kept.ite | with_reducible apply State.refuseWrite_kept
    | with_reducible apply State.softWrite_kept | split

theorem State.resetTile_kept {s0 s : State} (tile : Nat) (hk0 : Kept s0 s) :
    Kept s0 (State.resetTile s tile) := by
  unfold State.resetTile
  repeat' first
    | with_reducible assumption | with_reducible apply State.spxClear_kept | with_reducible apply State.resetReg_kept
    | split

end Sys2Proof.Machine
end

