-- ==== Sys2Proof/Laws/KeptUpdate.lean ====
section
/-! SUPPORT. What the operations of Machine/Reduce, Update, Kiln keep: `Kept`, one lemma each. -/
set_option Elab.async false
set_option linter.unusedTactic false
set_option linter.unreachableTactic false
set_option linter.unnecessarySeqFocus false
namespace Sys2Proof.Machine

theorem State.modCol_kept {s0 s : State} (f : CollState → CollState) (hk0 : Kept s0 s) :
    Kept s0 (State.modCol s f) := by
  unfold State.modCol
  repeat' first
    | with_reducible assumption | (rewrite [State.mk_eq_ofB]; with_reducible refine Kept.upd ?_) | dsimp -zeta only
    | split

theorem State.modRed_kept {s0 s : State} (k : Nat) (f : Reduction → Reduction) (hk0 : Kept s0 s) :
    Kept s0 (State.modRed s k f) := by
  unfold State.modRed
  repeat' first
    | with_reducible assumption | intro _ | with_reducible apply State.modCol_kept
    | (rewrite [State.mk_eq_ofB]; with_reducible refine Kept.upd ?_) | dsimp -zeta only | split

theorem State.colRecord_kept {s0 s : State} (sev : Sev) (die : Nat) (code : Nat) (g : Nat) (red : Nat) (seg : Nat) (peer : Nat) (hk0 : Kept s0 s) :
    Kept s0 (State.colRecord s sev die code g red seg peer) := by
  unfold State.colRecord
  repeat' first
    | with_reducible assumption | (intro x; have hx : Kept s0 x := ?hk; clear_value x; case' hk => subst x)
    | (intro x; subst x) | intro _ | with_reducible apply State.putReg_kept | with_reducible apply State.record_kept
    | lift_lets -underBinder | dsimp -zeta only | split

theorem State.colRequest_kept {s0 s : State} (die : Nat) (g : Nat) (hk0 : Kept s0 s) :
    KeptQ s0 (State.colRequest s die g) := by
  unfold State.colRequest
  repeat' first
    | with_reducible assumption | (intro x; have hx : Kept s0 x := ?hk; clear_value x; case' hk => subst x)
    | (intro x; subst x) | intro _ | (rewrite [pairQ_eq]; with_reducible refine KeptQ.mk ?_)
    | with_reducible apply State.modCol_kept | (rewrite [State.mk_eq_ofB]; with_reducible refine Kept.upd ?_)
    | with_reducible refine Kept.of_snd (by assumption) ?_ | with_reducible apply KeptQ.snd | lift_lets -underBinder
    | dsimp -zeta only | split

theorem State.colAck_kept {s0 s : State} (die : Nat) (device : Nat) (g : Nat) (request : Nat) (status : Nat) (hk0 : Kept s0 s) :
    Kept s0 (State.colAck s die device g request status) := by
  unfold State.colAck
  repeat' first
    | with_reducible assumption | with_reducible apply State.sendMsg_kept | with_reducible apply State.request_kept
    | split

theorem State.zeroBuffer_kept {s0 s : State} (g : Nat) (d : RedDesc) (step : Nat) (hk0 : Kept s0 s) :
    Kept s0 (State.zeroBuffer s g d step) := by
  unfold State.zeroBuffer
  repeat' first
    | with_reducible assumption | (rewrite [pairP_eq]; with_reducible refine KeptP.mk ?_)
    | with_reducible apply State.writeVa_kept | with_reducible refine Kept.of_fst (by assumption) ?_
    | with_reducible apply KeptP.fst | split

theorem State.modTally_kept {s0 s : State} (die : Nat) (g : Nat) (f : Tally → Tally) (hk0 : Kept s0 s) :
    Kept s0 (State.modTally s die g f) := by
  unfold State.modTally
  repeat' first
    | with_reducible assumption | intro _ | with_reducible apply State.modCol_kept
    | (rewrite [State.mk_eq_ofB]; with_reducible refine Kept.upd ?_) | dsimp -zeta only | split

theorem State.tallySent_kept {s0 s : State} (die : Nat) (g : Nat) (item : Nat) (hk0 : Kept s0 s) :
    Kept s0 (State.tallySent s die g item) := by
  unfold State.tallySent
  repeat' first
    | with_reducible assumption | intro _ | with_reducible apply State.modTally_kept
    | (rewrite [State.mk_eq_ofB]; with_reducible refine Kept.upd ?_) | dsimp -zeta only | split

theorem State.tallyRecv_kept {s0 s : State} (die : Nat) (g : Nat) (item : Nat) (hk0 : Kept s0 s) :
    Kept s0 (State.tallyRecv s die g item) := by
  unfold State.tallyRecv
  repeat' first
    | with_reducible assumption | intro _ | with_reducible apply State.modTally_kept
    | (rewrite [State.mk_eq_ofB]; with_reducible refine Kept.upd ?_) | dsimp -zeta only | split

theorem State.tallyLate_kept {s0 s : State} (die : Nat) (g : Nat) (item : Nat) (hk0 : Kept s0 s) :
    Kept s0 (State.tallyLate s die g item) := by
  unfold State.tallyLate
  repeat' first
    | with_reducible assumption | intro _ | with_reducible apply State.modTally_kept
    | (rewrite [State.mk_eq_ofB]; with_reducible refine Kept.upd ?_) | dsimp -zeta only | split

theorem State.tallyAbandoned_kept {s0 s : State} (die : Nat) (g : Nat) (item : Nat) (hk0 : Kept s0 s) :
    Kept s0 (State.tallyAbandoned s die g item) := by
  unfold State.tallyAbandoned
  repeat' first
    | with_reducible assumption | intro _ | with_reducible apply State.modTally_kept
    | (rewrite [State.mk_eq_ofB]; with_reducible refine Kept.upd ?_) | dsimp -zeta only | split

theorem State.writeTallies_kept {s0 s : State} (g : Nat) (voided : Bool) (hk0 : Kept s0 s) :
    Kept s0 (State.writeTallies s g voided) := by
  unfold State.writeTallies
  repeat' first
    | with_reducible assumption | (intro x; have hx : Kept s0 x := ?hk; clear_value x; case' hk => subst x)
    | (intro x; subst x) | intro _ | with_reducible apply Kept.ite | with_reducible apply KeptP.ite
    | (rewrite [pairP_eq]; with_reducible refine KeptP.mk ?_) | with_reducible apply State.each_kept
    | with_reducible apply State.modCol_kept | with_reducible apply State.writeLocal_kept
    | with_reducible apply State.putFld_kept | (rewrite [State.mk_eq_ofB]; with_reducible refine Kept.upd ?_)
    | with_reducible refine Kept.of_fst (by assumption) ?_ | with_reducible apply KeptP.fst | lift_lets -underBinder
    | dsimp -zeta only | split

theorem State.sendContribution_kept {s0 s : State} (die : Nat) (g : Nat) (dest : Nat) (c : Contribution) (hk0 : Kept s0 s) :
    Kept s0 (State.sendContribution s die g dest c) := by
  unfold State.sendContribution
  repeat' first
    | with_reducible assumption | with_reducible apply State.sendMsg_kept | split

theorem State.abandon_kept {s0 s : State} (die : Nat) (g : Nat) (x : SentContribution) (hk0 : Kept s0 s) :
    Kept s0 (State.abandon s die g x) := by
  unfold State.abandon
  repeat' first
    | with_reducible assumption | (intro x; have hx : Kept s0 x := ?hk; clear_value x; case' hk => subst x)
    | (intro x; subst x) | intro _ | with_reducible apply Kept.ite | with_reducible apply State.bump_kept
    | with_reducible apply State.colRecord_kept | with_reducible apply State.tallyAbandoned_kept
    | with_reducible apply State.stepFault_kept | lift_lets -underBinder | dsimp -zeta only | split

theorem State.contributionAck_kept {s0 s : State} (die : Nat) (o : Origin) (request : Nat) (hk0 : Kept s0 s) :
    Kept s0 (State.contributionAck s die o request) := by
  unfold State.contributionAck
  repeat' first
    | with_reducible assumption | (intro x; have hx : Kept s0 x := ?hk; clear_value x; case' hk => subst x)
    | (intro x; subst x) | intro _ | with_reducible apply Kept.ite | with_reducible apply State.dropStale_kept
    | with_reducible apply State.request_kept | with_reducible apply State.modCol_kept
    | (rewrite [State.mk_eq_ofB]; with_reducible refine Kept.upd ?_) | lift_lets -underBinder | dsimp -zeta only
    | split

theorem State.contributionTimeout_kept {s0 s : State} (die : Nat) (g : Nat) (request : Nat) (hk0 : Kept s0 s) :
    Kept s0 (State.contributionTimeout s die g request) := by
  unfold State.contributionTimeout
  repeat' first
    | with_reducible assumption | (intro x; have hx : Kept s0 x := ?hk; clear_value x; case' hk => subst x)
    | (intro x; subst x) | intro _ | with_reducible apply Kept.ite | with_reducible apply State.request_kept
    | with_reducible apply State.modCol_kept | with_reducible apply State.bump_kept
    | with_reducible apply State.sendContribution_kept | with_reducible apply State.abandon_kept
    | (rewrite [State.mk_eq_ofB]; with_reducible refine Kept.upd ?_) | lift_lets -underBinder | dsimp -zeta only
    | split

theorem State.staleContributions_kept {s0 s : State} (die : Nat) (g : Nat) (device : Nat) (hk0 : Kept s0 s) :
    Kept s0 (State.staleContributions s die g device) := by
  unfold State.staleContributions
  repeat' first
    | with_reducible assumption | (intro x; have hx : Kept s0 x := ?hk; clear_value x; case' hk => subst x)
    | (intro x; subst x) | intro _ | with_reducible apply State.each_kept | with_reducible apply State.modCol_kept
    | with_reducible apply State.abandon_kept | (rewrite [State.mk_eq_ofB]; with_reducible refine Kept.upd ?_)
    | lift_lets -underBinder | dsimp -zeta only | split

theorem State.relayPiece_kept {s0 s : State} (die : Nat) (g : Nat) (owner : Nat) (group : List Nat) (p : Piece) (hk0 : Kept s0 s) :
    Kept s0 (State.relayPiece s die g owner group p) := by
  unfold State.relayPiece
  repeat' first
    | with_reducible assumption | (intro x; have hx : Kept s0 x := ?hk; clear_value x; case' hk => subst x)
    | (intro x; subst x) | intro _ | (rewrite [pairQ_eq]; with_reducible refine KeptQ.mk ?_)
    | with_reducible apply State.each_kept | with_reducible apply State.colRequest_kept
    | with_reducible apply State.request_kept | with_reducible apply State.modCol_kept
    | with_reducible apply State.sendMsg_kept | (rewrite [State.mk_eq_ofB]; with_reducible refine Kept.upd ?_)
    | with_reducible refine Kept.of_snd (by assumption) ?_ | with_reducible apply KeptQ.snd | lift_lets -underBinder
    | dsimp -zeta only | split

theorem State.storePiece_kept {s0 s : State} (die : Nat) (g : Nat) (d : RedDesc) (p : Piece) (hk0 : Kept s0 s) :
    Kept s0 (State.storePiece s die g d p) := by
  unfold State.storePiece
  repeat' first
    | with_reducible assumption | (intro x; have hx : Kept s0 x := ?hk; clear_value x; case' hk => subst x)
    | (intro x; subst x) | intro _ | with_reducible apply Kept.ite | with_reducible apply KeptP.ite
    | (rewrite [pairP_eq]; with_reducible refine KeptP.mk ?_) | with_reducible apply State.modCol_kept
    | with_reducible apply State.writeVa_kept | with_reducible apply State.bump_kept
    | with_reducible apply State.engineSignal_kept | (rewrite [State.mk_eq_ofB]; with_reducible refine Kept.upd ?_)
    | with_reducible refine Kept.of_fst (by assumption) ?_ | with_reducible apply KeptP.fst | lift_lets -underBinder
    | dsimp -zeta only | split

theorem State.storeHere_kept {s0 s : State} (g : Nat) (p : Piece) (hk0 : Kept s0 s) :
    Kept s0 (State.storeHere s g p) := by
  unfold State.storeHere
  repeat' first
    | with_reducible assumption | intro _ | with_reducible apply State.each_kept
    | with_reducible apply State.storePiece_kept | dsimp -zeta only | split

theorem State.broadcast_kept {s0 s : State} (die : Nat) (g : Nat) (step : Nat) (d : RedDesc) (hk0 : Kept s0 s) :
    Kept s0 (State.broadcast s die g step d) := by
  unfold State.broadcast
  repeat' first
    | with_reducible assumption | (intro x; have hx : Kept s0 x := ?hk; clear_value x; case' hk => subst x)
    | (intro x; subst x) | intro _ | with_reducible apply State.each_kept | with_reducible apply State.request_kept
    | with_reducible apply State.storeHere_kept | with_reducible apply State.relayPiece_kept
    | (rewrite [State.mk_eq_ofB]; with_reducible refine Kept.upd ?_) | lift_lets -underBinder | dsimp -zeta only
    | split

theorem State.pieceReceive_kept {s0 s : State} (die : Nat) (o : Origin) (p : Piece) (hk0 : Kept s0 s) :
    Kept s0 (State.pieceReceive s die o p) := by
  unfold State.pieceReceive
  repeat' first
    | with_reducible assumption | (intro x; have hx : Kept s0 x := ?hk; clear_value x; case' hk => subst x)
    | (intro x; subst x) | intro _ | with_reducible apply Kept.ite | with_reducible apply State.dropStale_kept
    | with_reducible apply State.storeHere_kept | with_reducible apply State.colAck_kept
    | with_reducible apply State.request_kept | with_reducible apply State.relayPiece_kept | lift_lets -underBinder
    | dsimp -zeta only | split

theorem State.pieceAck_kept {s0 s : State} (die : Nat) (o : Origin) (request : Nat) (hk0 : Kept s0 s) :
    Kept s0 (State.pieceAck s die o request) := by
  unfold State.pieceAck
  repeat' first
    | with_reducible assumption | (intro x; have hx : Kept s0 x := ?hk; clear_value x; case' hk => subst x)
    | (intro x; subst x) | intro _ | with_reducible apply Kept.ite | with_reducible apply State.dropStale_kept
    | with_reducible apply State.request_kept | with_reducible apply State.modCol_kept
    | (rewrite [State.mk_eq_ofB]; with_reducible refine Kept.upd ?_) | lift_lets -underBinder | dsimp -zeta only
    | split

theorem State.losePiece_kept {s0 s : State} (die : Nat) (g : Nat) (k : Nat) (x : SentPiece) (hk0 : Kept s0 s) :
    Kept s0 (State.losePiece s die g k x) := by
  unfold State.losePiece
  repeat' first
    | with_reducible assumption | intro _ | with_reducible apply State.modCol_kept
    | with_reducible apply State.bump_kept | with_reducible apply State.colRecord_kept
    | (rewrite [State.mk_eq_ofB]; with_reducible refine Kept.upd ?_) | dsimp -zeta only | split

theorem State.pieceTimeout_kept {s0 s : State} (die : Nat) (g : Nat) (request : Nat) (hk0 : Kept s0 s) :
    Kept s0 (State.pieceTimeout s die g request) := by
  unfold State.pieceTimeout
  repeat' first
    | with_reducible assumption | (intro x; have hx : Kept s0 x := ?hk; clear_value x; case' hk => subst x)
    | (intro x; subst x) | intro _ | with_reducible apply Kept.ite | with_reducible apply State.request_kept
    | with_reducible apply State.modCol_kept | with_reducible apply State.bump_kept
    | with_reducible apply State.sendMsg_kept | with_reducible apply State.losePiece_kept
    | (rewrite [State.mk_eq_ofB]; with_reducible refine Kept.upd ?_) | lift_lets -underBinder | dsimp -zeta only
    | split

theorem State.expectPieces_kept {s0 s : State} (g : Nat) (n : Nat) (hk0 : Kept s0 s) :
    Kept s0 (State.expectPieces s g n) := by
  unfold State.expectPieces
  repeat' first
    | with_reducible assumption | (intro x; have hx : Kept s0 x := ?hk; clear_value x; case' hk => subst x)
    | (intro x; subst x) | intro _ | with_reducible apply Kept.ite | with_reducible apply State.each_kept
    | with_reducible apply State.start_kept | with_reducible apply State.modCol_kept
    | (rewrite [State.mk_eq_ofB]; with_reducible refine Kept.upd ?_) | lift_lets -underBinder | dsimp -zeta only
    | split

theorem State.bcastTimeout_kept {s0 s : State} (die : Nat) (g : Nat) (hk0 : Kept s0 s) :
    Kept s0 (State.bcastTimeout s die g) := by
  unfold State.bcastTimeout
  repeat' first
    | with_reducible assumption | (intro x; have hx : Kept s0 x := ?hk; clear_value x; case' hk => subst x)
    | (intro x; subst x) | intro _ | with_reducible apply Kept.ite | with_reducible apply State.each_kept
    | with_reducible apply State.colRecord_kept | with_reducible apply State.modStep_kept
    | (rewrite [State.mk_eq_ofB]; with_reducible refine Kept.upd ?_) | lift_lets -underBinder | dsimp -zeta only
    | split

theorem State.modUpd_kept {s0 s : State} (f : UpdState → UpdState) (hk0 : Kept s0 s) :
    Kept s0 (State.modUpd s f) := by
  unfold State.modUpd
  repeat' first
    | with_reducible assumption | (rewrite [State.mk_eq_ofB]; with_reducible refine Kept.upd ?_) | dsimp -zeta only
    | split

theorem State.modUpdSlot_kept {s0 s : State} (k : Nat) (f : UpdSlot → UpdSlot) (hk0 : Kept s0 s) :
    Kept s0 (State.modUpdSlot s k f) := by
  unfold State.modUpdSlot
  repeat' first
    | with_reducible assumption | intro _ | with_reducible apply State.modUpd_kept
    | (rewrite [State.mk_eq_ofB]; with_reducible refine Kept.upd ?_) | dsimp -zeta only | split

theorem State.noteNonfinite_kept {s0 s : State} (die : Nat) (g : Nat) (kind : Nat) (target : Nat) (item : Nat) (hk0 : Kept s0 s) :
    Kept s0 (State.noteNonfinite s die g kind target item) := by
  unfold State.noteNonfinite
  repeat' first
    | with_reducible assumption | (intro x; have hx : Kept s0 x := ?hk; clear_value x; case' hk => subst x)
    | (intro x; subst x) | intro _ | with_reducible apply Kept.ite | with_reducible apply State.bump_kept
    | with_reducible apply State.modUpd_kept | with_reducible apply State.updRecord_kept
    | with_reducible apply State.corrected_kept | (rewrite [State.mk_eq_ofB]; with_reducible refine Kept.upd ?_)
    | lift_lets -underBinder | dsimp -zeta only | split

theorem State.updRead_kept {s0 s : State} (g : Nat) (n : Nat) (size : Nat) (va : Nat) (sts : List (Nat × Nat)) (hk0 : Kept s0 s) :
    KeptP s0 (State.updRead s g n size va sts) := by
  unfold State.updRead
  repeat' first
    | with_reducible assumption | (intro x; have hx : Kept s0 x := ?hk; clear_value x; case' hk => subst x)
    | (intro x; subst x) | intro _ | with_reducible apply Kept.ite | with_reducible apply KeptP.ite
    | (rewrite [pairP_eq]; with_reducible refine KeptP.mk ?_)
    | (rewrite [pairQ_eq]; with_reducible refine KeptQ.mk ?_) | with_reducible apply KeptQ.ite
    | with_reducible apply State.readVa_kept | (rewrite [State.mk_eq_ofB]; with_reducible refine Kept.upd ?_)
    | with_reducible apply Kept.foldl | with_reducible apply KeptP.foldl
    | with_reducible refine Kept.of_fst (by assumption) ?_ | with_reducible apply KeptP.fst
    | with_reducible refine Kept.of_snd (by assumption) ?_ | with_reducible apply KeptQ.snd | lift_lets -underBinder
    | dsimp -zeta only | split

theorem State.updWrite_kept {s0 s : State} (g : Nat) (size : Nat) (va : Nat) (sts : List (Nat × Nat)) (d : UpdData) (hk0 : Kept s0 s) :
    Kept s0 (State.updWrite s g size va sts d) := by
  unfold State.updWrite
  repeat' first
    | with_reducible assumption | (intro x; have hx : Kept s0 x := ?hk; clear_value x; case' hk => subst x)
    | (intro x; subst x) | intro _ | (rewrite [pairP_eq]; with_reducible refine KeptP.mk ?_)
    | with_reducible apply State.writeVa_kept | with_reducible apply State.each_kept
    | with_reducible refine Kept.of_fst (by assumption) ?_ | with_reducible apply KeptP.fst | lift_lets -underBinder
    | dsimp -zeta only | split

theorem State.computeSeg_kept {s0 s : State} (die : Nat) (g : Nat) (step : Nat) (seg : Nat) (d : RedDesc) (p : UpdProg) (hk0 : Kept s0 s) :
    KeptP s0 (State.computeSeg s die g step seg d p) := by
  unfold State.computeSeg
  repeat' first
    | with_reducible assumption | (intro x; have hx : Kept s0 x := ?hk; clear_value x; case' hk => subst x)
    | (intro x; subst x) | intro _ | with_reducible apply Kept.ite | with_reducible apply KeptP.ite
    | (rewrite [pairP_eq]; with_reducible refine KeptP.mk ?_) | with_reducible apply State.readVa_kept
    | with_reducible apply State.bump_kept | with_reducible apply State.updRead_kept
    | with_reducible apply State.noteNonfinite_kept | with_reducible refine Kept.of_fst (by assumption) ?_
    | with_reducible apply KeptP.fst | lift_lets -underBinder | dsimp -zeta only | split

theorem State.stageSeg_kept {s0 s : State} (die : Nat) (g : Nat) (seg : Nat) (d : RedDesc) (p : UpdProg) (hk0 : Kept s0 s) :
    Kept s0 (State.stageSeg s die g seg d p) := by
  unfold State.stageSeg
  repeat' first
    | with_reducible assumption | (intro x; have hx : Kept s0 x := ?hk; clear_value x; case' hk => subst x)
    | (intro x; subst x) | intro _ | with_reducible apply Kept.ite | with_reducible apply KeptP.ite
    | (rewrite [pairP_eq]; with_reducible refine KeptP.mk ?_)
    | (rewrite [pairQ_eq]; with_reducible refine KeptQ.mk ?_) | with_reducible apply KeptQ.ite
    | with_reducible apply State.modUpd_kept | with_reducible apply State.computeSeg_kept
    | with_reducible apply State.fresh_kept | with_reducible apply State.writeVa_kept
    | with_reducible apply State.updWrite_kept | with_reducible apply State.bump_kept
    | (rewrite [State.mk_eq_ofB]; with_reducible refine Kept.upd ?_)
    | with_reducible refine Kept.of_fst (by assumption) ?_ | with_reducible apply KeptP.fst
    | with_reducible refine Kept.of_snd (by assumption) ?_ | with_reducible apply KeptQ.snd | lift_lets -underBinder
    | dsimp -zeta only | split

theorem State.commitFault_kept {s0 s : State} (die : Nat) (g : Nat) (kind : Nat) (target : Nat) (item : Nat) (hk0 : Kept s0 s) :
    Kept s0 (State.commitFault s die g kind target item) := by
  unfold State.commitFault
  repeat' first
    | with_reducible assumption | (intro x; have hx : Kept s0 x := ?hk; clear_value x; case' hk => subst x)
    | (intro x; subst x) | intro _ | with_reducible apply State.updRecord_kept
    | with_reducible apply State.modUpd_kept | (rewrite [State.mk_eq_ofB]; with_reducible refine Kept.upd ?_)
    | lift_lets -underBinder | dsimp -zeta only | split

theorem State.updWritable_kept {s0 s : State} (g : Nat) (n : Nat) (size : Nat) (va : Nat) (sts : List (Nat × Nat)) (hk0 : Kept s0 s) :
    KeptP s0 (State.updWritable s g n size va sts) := by
  unfold State.updWritable
  repeat' first
    | with_reducible assumption | intro _ | with_reducible apply Kept.ite | with_reducible apply KeptP.ite
    | (rewrite [pairP_eq]; with_reducible refine KeptP.mk ?_)
    | (rewrite [pairQ_eq]; with_reducible refine KeptQ.mk ?_) | with_reducible apply KeptQ.ite
    | with_reducible apply State.checkWriteVa_kept | with_reducible apply Kept.foldl
    | with_reducible apply KeptP.foldl | with_reducible refine Kept.of_fst (by assumption) ?_
    | with_reducible apply KeptP.fst | with_reducible refine Kept.of_snd (by assumption) ?_
    | with_reducible apply KeptQ.snd | dsimp -zeta only | split

theorem State.commitSeg_kept {s0 s : State} (die : Nat) (g : Nat) (seg : Nat) (d : RedDesc) (p : UpdProg) (hk0 : Kept s0 s) :
    Kept s0 (State.commitSeg s die g seg d p) := by
  unfold State.commitSeg
  repeat' first
    | with_reducible assumption | (intro x; have hx : Kept s0 x := ?hk; clear_value x; case' hk => subst x)
    | (intro x; subst x) | intro _ | (rewrite [pairP_eq]; with_reducible refine KeptP.mk ?_)
    | with_reducible apply State.updWrite_kept | with_reducible apply State.bump_kept
    | with_reducible apply State.updRead_kept | with_reducible apply State.updWritable_kept
    | with_reducible apply State.commitFault_kept | with_reducible apply State.computeSeg_kept
    | with_reducible refine Kept.of_fst (by assumption) ?_ | with_reducible apply KeptP.fst | lift_lets -underBinder
    | dsimp -zeta only | split

theorem State.commitRow_kept {s0 s : State} (die : Nat) (g : Nat) (t : Nat) (e : Nat) (last : Bool) (hk0 : Kept s0 s) :
    Kept s0 (State.commitRow s die g t e last) := by
  unfold State.commitRow
  repeat' first
    | with_reducible assumption | (intro x; have hx : Kept s0 x := ?hk; clear_value x; case' hk => subst x)
    | (intro x; subst x) | intro _ | with_reducible apply Kept.ite | with_reducible apply KeptP.ite
    | (rewrite [pairP_eq]; with_reducible refine KeptP.mk ?_) | with_reducible apply State.rowVa_kept
    | with_reducible apply State.updRead_kept | with_reducible apply State.noteNonfinite_kept
    | with_reducible apply State.updWrite_kept | with_reducible apply State.bump_kept
    | with_reducible apply State.refreshRow_kept | with_reducible apply State.commitFault_kept
    | with_reducible refine Kept.of_fst (by assumption) ?_ | with_reducible apply KeptP.fst | lift_lets -underBinder
    | dsimp -zeta only | split

theorem State.clearRowBuf_kept {s0 s : State} (die : Nat) (g : Nat) (step : Nat) (hk0 : Kept s0 s) :
    Kept s0 (State.clearRowBuf s die g step) := by
  unfold State.clearRowBuf
  repeat' first
    | with_reducible assumption | (intro x; have hx : Kept s0 x := ?hk; clear_value x; case' hk => subst x)
    | (intro x; subst x) | intro _ | with_reducible apply Kept.ite | with_reducible apply KeptP.ite
    | (rewrite [pairP_eq]; with_reducible refine KeptP.mk ?_) | with_reducible apply State.writeLocal_kept
    | with_reducible refine Kept.of_fst (by assumption) ?_ | with_reducible apply KeptP.fst | lift_lets -underBinder
    | dsimp -zeta only | split

theorem State.updSignal_kept {s0 s : State} (k : Nat) (hk0 : Kept s0 s) :
    Kept s0 (State.updSignal s k) := by
  unfold State.updSignal
  repeat' first
    | with_reducible assumption | with_reducible apply State.engineSignal_kept | split

theorem State.doWork_kept {s0 s : State} (die : Nat) (g : Nat) (rest : List UpdWork) (x1 : UpdWork) (hk0 : Kept s0 s) :
    Kept s0 (State.doWork s die g rest x1) := by
  unfold State.doWork
  repeat' first
    | with_reducible assumption | (intro x; have hx : Kept s0 x := ?hk; clear_value x; case' hk => subst x)
    | (intro x; subst x) | intro _ | with_reducible apply State.stageSeg_kept
    | with_reducible apply State.commitSeg_kept | with_reducible apply State.updSignal_kept
    | with_reducible apply State.zeroBuffer_kept | with_reducible apply State.broadcast_kept
    | with_reducible apply State.commitRow_kept | with_reducible apply State.clearRowBuf_kept
    | with_reducible apply State.modUpd_kept | (rewrite [State.mk_eq_ofB]; with_reducible refine Kept.upd ?_)
    | lift_lets -underBinder | dsimp -zeta only | split

theorem State.runUpdate_kept {s0 s : State} (die : Nat) (g : Nat) (x1 : Nat) (hk0 : Kept s0 s) :
    Kept s0 (State.runUpdate s die g x1) := by
  induction x1 generalizing s die g with
  | zero =>
    rewrite [State.runUpdate]
    repeat' first
      | with_reducible assumption | (intro x; have hx : Kept s0 x := ?hk; clear_value x; case' hk => subst x)
      | (intro x; subst x) | intro _ | with_reducible apply Kept.ite | with_reducible apply KeptP.ite
      | (rewrite [pairP_eq]; with_reducible refine KeptP.mk ?_) | with_reducible apply State.spend_kept
      | with_reducible apply State.modUpd_kept | with_reducible apply State.doWork_kept
      | (rewrite [State.mk_eq_ofB]; with_reducible refine Kept.upd ?_)
      | with_reducible refine Kept.of_fst (by assumption) ?_ | with_reducible apply KeptP.fst | lift_lets -underBinder
      | dsimp -zeta only | split
  | succ n ih =>
    rewrite [State.runUpdate]
    repeat' first
      | with_reducible assumption | (intro x; have hx : Kept s0 x := ?hk; clear_value x; case' hk => subst x)
      | (intro x; subst x) | intro _ | with_reducible apply Kept.ite | with_reducible apply KeptP.ite
      | (rewrite [pairP_eq]; with_reducible refine KeptP.mk ?_) | with_reducible apply ih
      | with_reducible apply State.spend_kept | with_reducible apply State.modUpd_kept
      | with_reducible apply State.doWork_kept | (rewrite [State.mk_eq_ofB]; with_reducible refine Kept.upd ?_)
      | with_reducible refine Kept.of_fst (by assumption) ?_ | with_reducible apply KeptP.fst | lift_lets -underBinder
      | dsimp -zeta only | split

theorem State.addWork_kept {s0 s : State} (die : Nat) (g : Nat) (ws : List UpdWork) (hk0 : Kept s0 s) :
    Kept s0 (State.addWork s die g ws) := by
  unfold State.addWork
  repeat' first
    | with_reducible assumption | (intro x; have hx : Kept s0 x := ?hk; clear_value x; case' hk => subst x)
    | (intro x; subst x) | intro _ | with_reducible apply State.modUpd_kept
    | with_reducible apply State.runUpdate_kept | (rewrite [State.mk_eq_ofB]; with_reducible refine Kept.upd ?_)
    | lift_lets -underBinder | dsimp -zeta only | split

theorem State.retryUpdate_kept {s0 s : State} (die : Nat) (g : Nat) (hk0 : Kept s0 s) :
    Kept s0 (State.retryUpdate s die g) := by
  unfold State.retryUpdate
  repeat' first
    | with_reducible assumption | with_reducible apply State.runUpdate_kept | split

theorem State.stageReduction_kept {s0 s : State} (die : Nat) (g : Nat) (r : Nat) (hk0 : Kept s0 s) :
    Kept s0 (State.stageReduction s die g r) := by
  unfold State.stageReduction
  repeat' first
    | with_reducible assumption | intro _ | with_reducible apply State.addWork_kept | dsimp -zeta only | split

theorem State.commitUpdate_kept {s0 s : State} (die : Nat) (g : Nat) (hk0 : Kept s0 s) :
    Kept s0 (State.commitUpdate s die g) := by
  unfold State.commitUpdate
  repeat' first
    | with_reducible assumption | (intro x; have hx : Kept s0 x := ?hk; clear_value x; case' hk => subst x)
    | (intro x; subst x) | intro _ | with_reducible apply State.modUpd_kept | with_reducible apply State.addWork_kept
    | (rewrite [State.mk_eq_ofB]; with_reducible refine Kept.upd ?_) | lift_lets -underBinder | dsimp -zeta only
    | split

theorem State.voidUpdate_kept {s0 s : State} (g : Nat) (step : Nat) (hk0 : Kept s0 s) :
    Kept s0 (State.voidUpdate s g step) := by
  unfold State.voidUpdate
  repeat' first
    | with_reducible assumption | (intro x; have hx : Kept s0 x := ?hk; clear_value x; case' hk => subst x)
    | (intro x; subst x) | intro _ | with_reducible apply State.each_kept
    | with_reducible apply State.clearRowBuf_kept | with_reducible apply State.modUpd_kept
    | (rewrite [State.mk_eq_ofB]; with_reducible refine Kept.upd ?_) | lift_lets -underBinder | dsimp -zeta only
    | split

theorem State.openUpdate_kept {s0 s : State} (g : Nat) (hk0 : Kept s0 s) :
    Kept s0 (State.openUpdate s g) := by
  unfold State.openUpdate
  repeat' first
    | with_reducible assumption | (intro x; have hx : Kept s0 x := ?hk; clear_value x; case' hk => subst x)
    | (intro x; subst x) | intro _ | with_reducible apply Kept.ite | with_reducible apply State.modUpd_kept
    | with_reducible apply State.each_kept | with_reducible apply State.updRecord_kept
    | with_reducible apply State.stepFault_kept | (rewrite [State.mk_eq_ofB]; with_reducible refine Kept.upd ?_)
    | lift_lets -underBinder | dsimp -zeta only | split

theorem State.dropUpdate_kept {s0 s : State} (g : Nat) (hk0 : Kept s0 s) :
    Kept s0 (State.dropUpdate s g) := by
  unfold State.dropUpdate
  repeat' first
    | with_reducible assumption | (intro x; have hx : Kept s0 x := ?hk; clear_value x; case' hk => subst x)
    | (intro x; subst x) | intro _ | with_reducible apply State.modUpd_kept | with_reducible apply State.resetReg_kept
    | (rewrite [State.mk_eq_ofB]; with_reducible refine Kept.upd ?_) | lift_lets -underBinder | dsimp -zeta only
    | split

theorem State.refuseUpd_kept {s0 s : State} (q : Nat) (i : Nat) (code : Nat) (kind : Nat) (target : Nat) (hk0 : Kept s0 s) :
    Kept s0 (State.refuseUpd s q i code kind target) := by
  unfold State.refuseUpd
  repeat' first
    | with_reducible assumption | with_reducible apply State.updRecord_kept | with_reducible apply State.complete_kept
    | with_reducible apply State.badCommand_kept | split

theorem State.updLoad_kept {s0 s : State} (q : Nat) (i : Nat) (hk0 : Kept s0 s) :
    Kept s0 (State.updLoad s q i) := by
  unfold State.updLoad
  repeat' first
    | with_reducible assumption | (intro x; have hx : Kept s0 x := ?hk; clear_value x; case' hk => subst x)
    | (intro x; subst x) | intro _ | with_reducible apply Kept.ite | with_reducible apply KeptP.ite
    | (rewrite [pairP_eq]; with_reducible refine KeptP.mk ?_) | with_reducible apply State.start_kept
    | with_reducible apply State.refuseUpd_kept | with_reducible apply State.readVa_kept
    | with_reducible apply State.modUpdSlot_kept | with_reducible apply State.complete_kept
    | (rewrite [State.mk_eq_ofB]; with_reducible refine Kept.upd ?_)
    | with_reducible refine Kept.of_fst (by assumption) ?_ | with_reducible apply KeptP.fst | lift_lets -underBinder
    | dsimp -zeta only | split

theorem State.updDrop_kept {s0 s : State} (q : Nat) (i : Nat) (hk0 : Kept s0 s) :
    Kept s0 (State.updDrop s q i) := by
  unfold State.updDrop
  repeat' first
    | with_reducible assumption | (intro x; have hx : Kept s0 x := ?hk; clear_value x; case' hk => subst x)
    | (intro x; subst x) | intro _ | with_reducible apply Kept.ite | with_reducible apply State.start_kept
    | with_reducible apply State.refuseUpd_kept | with_reducible apply State.modUpdSlot_kept
    | with_reducible apply State.complete_kept | (rewrite [State.mk_eq_ofB]; with_reducible refine Kept.upd ?_)
    | lift_lets -underBinder | dsimp -zeta only | split

theorem State.updConst_kept {s0 s : State} (q : Nat) (i : Nat) (hk0 : Kept s0 s) :
    Kept s0 (State.updConst s q i) := by
  unfold State.updConst
  repeat' first
    | with_reducible assumption | (intro x; have hx : Kept s0 x := ?hk; clear_value x; case' hk => subst x)
    | (intro x; subst x) | intro _ | with_reducible apply Kept.ite | with_reducible apply State.start_kept
    | with_reducible apply State.refuseUpd_kept | with_reducible apply State.modUpdSlot_kept
    | with_reducible apply State.complete_kept | (rewrite [State.mk_eq_ofB]; with_reducible refine Kept.upd ?_)
    | lift_lets -underBinder | dsimp -zeta only | split

theorem State.rowBufWrite_kept {s0 s : State} (die : Nat) (g : Nat) (v : Word) (hk0 : Kept s0 s) :
    Kept s0 (State.rowBufWrite s die g v) := by
  unfold State.rowBufWrite
  repeat' first
    | with_reducible assumption | (intro x; have hx : Kept s0 x := ?hk; clear_value x; case' hk => subst x)
    | (intro x; subst x) | intro _ | with_reducible apply Kept.ite | with_reducible apply State.refuseWrite_kept
    | with_reducible apply State.updRecord_kept | with_reducible apply State.softWrite_kept | lift_lets -underBinder
    | dsimp -zeta only | split

theorem State.modKln_kept {s0 s : State} (f : KilnState → KilnState) (hk0 : Kept s0 s) :
    Kept s0 (State.modKln s f) := by
  unfold State.modKln
  repeat' first
    | with_reducible assumption | (rewrite [State.mk_eq_ofB]; with_reducible refine Kept.upd ?_) | dsimp -zeta only
    | split

theorem State.putFiring_kept {s0 s : State} (g : Nat) (f : Firing) (hk0 : Kept s0 s) :
    Kept s0 (State.putFiring s g f) := by
  unfold State.putFiring
  repeat' first
    | with_reducible assumption | intro _ | with_reducible apply State.modKln_kept
    | (rewrite [State.mk_eq_ofB]; with_reducible refine Kept.upd ?_) | dsimp -zeta only | split

theorem State.klnRecord_kept {s0 s : State} (code : Nat) (g : Nat) (slot : Nat) (dest : Nat) (item : Nat) (hk0 : Kept s0 s) :
    Kept s0 (State.klnRecord s code g slot dest item) := by
  unfold State.klnRecord
  repeat' first
    | with_reducible assumption | (intro x; have hx : Kept s0 x := ?hk; clear_value x; case' hk => subst x)
    | (intro x; subst x) | intro _ | with_reducible apply State.putReg_kept | with_reducible apply State.record_kept
    | lift_lets -underBinder | dsimp -zeta only | split

theorem State.kilnPage_kept {s0 s : State} (g : Nat) (i : Nat) (off : Nat) (n : Nat) (f : Firing) (hk0 : Kept s0 s) :
    KeptP s0 (State.kilnPage s g i off n f) := by
  unfold State.kilnPage
  repeat' first
    | with_reducible assumption | (intro x; have hx : Kept s0 x := ?hk; clear_value x; case' hk => subst x)
    | (intro x; subst x) | intro _ | with_reducible apply Kept.ite | with_reducible apply KeptP.ite
    | (rewrite [pairP_eq]; with_reducible refine KeptP.mk ?_) | with_reducible apply State.readVa_kept
    | with_reducible apply State.touch_kept | with_reducible apply State.putFiring_kept
    | with_reducible apply State.modKln_kept | with_reducible apply State.bump_kept
    | (rewrite [State.mk_eq_ofB]; with_reducible refine Kept.upd ?_)
    | with_reducible refine Kept.of_fst (by assumption) ?_ | with_reducible apply KeptP.fst | lift_lets -underBinder
    | dsimp -zeta only | split

theorem State.kilnBytes_kept {s0 s : State} (g : Nat) (off : Nat) (n : Nat) (f : Firing) (x1 : KilnItem) (hk0 : Kept s0 s) :
    KeptP s0 (State.kilnBytes s g off n f x1) := by
  unfold State.kilnBytes
  repeat' first
    | with_reducible assumption | (rewrite [pairP_eq]; with_reducible refine KeptP.mk ?_)
    | with_reducible apply State.kilnPage_kept | with_reducible apply State.record_kept
    | with_reducible refine Kept.of_fst (by assumption) ?_ | with_reducible apply KeptP.fst | split

theorem State.kilnTag_kept {s0 s : State} (hk0 : Kept s0 s) :
    KeptQ s0 (State.kilnTag s) := by
  unfold State.kilnTag
  repeat' first
    | with_reducible assumption | intro _ | (rewrite [pairQ_eq]; with_reducible refine KeptQ.mk ?_)
    | with_reducible apply State.modKln_kept | (rewrite [State.mk_eq_ofB]; with_reducible refine Kept.upd ?_)
    | with_reducible refine Kept.of_snd (by assumption) ?_ | with_reducible apply KeptQ.snd | dsimp -zeta only | split

theorem State.kilnPut_kept {s0 s : State} (g : Nat) (f : Firing) (storage : Bool) (at' : Nat) (tag : Nat) (bs : List Byte) (hk0 : Kept s0 s) :
    Kept s0 (State.kilnPut s g f storage at' tag bs) := by
  unfold State.kilnPut
  repeat' first
    | with_reducible assumption | (intro x; have hx : Kept s0 x := ?hk; clear_value x; case' hk => subst x)
    | (intro x; subst x) | intro _ | with_reducible apply Kept.ite | with_reducible apply State.emit_kept
    | with_reducible apply State.sendMsg_kept | lift_lets -underBinder | dsimp -zeta only | split

theorem State.endFiring_kept {s0 s : State} (g : Nat) (st : Status) (result : Nat) (hk0 : Kept s0 s) :
    Kept s0 (State.endFiring s g st result) := by
  unfold State.endFiring
  repeat' first
    | with_reducible assumption | (intro x; have hx : Kept s0 x := ?hk; clear_value x; case' hk => subst x)
    | (intro x; subst x) | intro _ | with_reducible apply State.modKln_kept | with_reducible apply State.complete_kept
    | (rewrite [State.mk_eq_ofB]; with_reducible refine Kept.upd ?_) | lift_lets -underBinder | dsimp -zeta only
    | split

theorem State.abortFiring_kept {s0 s : State} (g : Nat) (code : Option Nat) (item : Nat) (hk0 : Kept s0 s) :
    Kept s0 (State.abortFiring s g code item) := by
  unfold State.abortFiring
  repeat' first
    | with_reducible assumption | (intro x; have hx : Kept s0 x := ?hk; clear_value x; case' hk => subst x)
    | (intro x; subst x) | intro _ | with_reducible apply Kept.ite | with_reducible apply State.bump_kept
    | with_reducible apply State.klnRecord_kept | with_reducible apply State.endFiring_kept | lift_lets -underBinder
    | dsimp -zeta only | split

theorem State.kilnSend_kept {s0 s : State} (g : Nat) (storage : Bool) (hk0 : Kept s0 s) :
    Kept s0 (State.kilnSend s g storage) := by
  unfold State.kilnSend
  repeat' first
    | with_reducible assumption | (intro x; have hx : Kept s0 x := ?hk; clear_value x; case' hk => subst x)
    | (intro x; subst x) | intro _ | with_reducible apply Kept.ite | with_reducible apply KeptP.ite
    | (rewrite [pairP_eq]; with_reducible refine KeptP.mk ?_)
    | (rewrite [pairQ_eq]; with_reducible refine KeptQ.mk ?_) | with_reducible apply KeptQ.ite
    | with_reducible apply State.spend_kept | with_reducible apply State.kilnBytes_kept
    | with_reducible apply State.abortFiring_kept | with_reducible apply State.kilnTag_kept
    | with_reducible apply State.putFiring_kept | with_reducible apply State.kilnPut_kept
    | (rewrite [State.mk_eq_ofB]; with_reducible refine Kept.upd ?_)
    | with_reducible refine Kept.of_fst (by assumption) ?_ | with_reducible apply KeptP.fst
    | with_reducible refine Kept.of_snd (by assumption) ?_ | with_reducible apply KeptQ.snd | lift_lets -underBinder
    | dsimp -zeta only | split

theorem State.kilnSends_kept {s0 s : State} (g : Nat) (hk0 : Kept s0 s) :
    Kept s0 (State.kilnSends s g) := by
  unfold State.kilnSends
  repeat' first
    | with_reducible assumption | with_reducible apply State.kilnSend_kept | split

theorem State.firingMoves_kept {s0 s : State} (g : Nat) (hk0 : Kept s0 s) :
    Kept s0 (State.firingMoves s g) := by
  unfold State.firingMoves
  repeat' first
    | with_reducible assumption | (intro x; have hx : Kept s0 x := ?hk; clear_value x; case' hk => subst x)
    | (intro x; subst x) | intro _ | with_reducible apply Kept.ite | with_reducible apply State.endFiring_kept
    | with_reducible apply State.putFiring_kept | with_reducible apply State.record_kept
    | with_reducible apply State.putReg_kept | (rewrite [State.mk_eq_ofB]; with_reducible refine Kept.upd ?_)
    | lift_lets -underBinder | dsimp -zeta only | split

theorem State.kilnAcked_kept {s0 s : State} (g : Nat) (storage : Bool) (tag : Nat) (hk0 : Kept s0 s) :
    Kept s0 (State.kilnAcked s g storage tag) := by
  unfold State.kilnAcked
  repeat' first
    | with_reducible assumption | (intro x; have hx : Kept s0 x := ?hk; clear_value x; case' hk => subst x)
    | (intro x; subst x) | intro _ | with_reducible apply Kept.ite | with_reducible apply State.bump_kept
    | with_reducible apply State.putFiring_kept | with_reducible apply State.firingMoves_kept
    | with_reducible apply State.kilnSend_kept | (rewrite [State.mk_eq_ofB]; with_reducible refine Kept.upd ?_)
    | lift_lets -underBinder | dsimp -zeta only | split

theorem State.kilnFail_kept {s0 s : State} (g : Nat) (storage : Bool) (hk0 : Kept s0 s) :
    Kept s0 (State.kilnFail s g storage) := by
  unfold State.kilnFail
  repeat' first
    | with_reducible assumption | (intro x; have hx : Kept s0 x := ?hk; clear_value x; case' hk => subst x)
    | (intro x; subst x) | intro _ | with_reducible apply Kept.ite | with_reducible apply State.klnRecord_kept
    | with_reducible apply State.putFiring_kept | with_reducible apply State.firingMoves_kept
    | (rewrite [State.mk_eq_ofB]; with_reducible refine Kept.upd ?_) | lift_lets -underBinder | dsimp -zeta only
    | split

theorem State.kilnOverdue_kept {s0 s : State} (g : Nat) (hk0 : Kept s0 s) :
    Kept s0 (State.kilnOverdue s g) := by
  unfold State.kilnOverdue
  repeat' first
    | with_reducible assumption | (intro x; have hx : Kept s0 x := ?hk; clear_value x; case' hk => subst x)
    | (intro x; subst x) | intro _ | with_reducible apply Kept.ite | with_reducible apply KeptP.ite
    | (rewrite [pairP_eq]; with_reducible refine KeptP.mk ?_) | with_reducible apply State.kilnBytes_kept
    | with_reducible apply State.putFiring_kept | with_reducible apply State.kilnPut_kept
    | with_reducible apply State.abortFiring_kept | with_reducible apply State.kilnFail_kept
    | (rewrite [State.mk_eq_ofB]; with_reducible refine Kept.upd ?_)
    | with_reducible refine Kept.of_fst (by assumption) ?_ | with_reducible apply KeptP.fst | lift_lets -underBinder
    | dsimp -zeta only | split

theorem State.commitFires_kept {s0 s : State} (g : Nat) (n : Nat) (hk0 : Kept s0 s) :
    Kept s0 (State.commitFires s g n) := by
  unfold State.commitFires
  repeat' first
    | with_reducible assumption | with_reducible apply Kept.ite | with_reducible apply State.putFiring_kept
    | with_reducible apply State.kilnSends_kept | (rewrite [State.mk_eq_ofB]; with_reducible refine Kept.upd ?_)
    | dsimp -zeta only | split

theorem State.captureOne_kept {s0 s : State} (g : Nat) (i : Nat) (va : Nat) (hk0 : Kept s0 s) :
    KeptP s0 (State.captureOne s g i va) := by
  unfold State.captureOne
  repeat' first
    | with_reducible assumption | (intro x; have hx : Kept s0 x := ?hk; clear_value x; case' hk => subst x)
    | (intro x; subst x) | intro _ | (rewrite [pairP_eq]; with_reducible refine KeptP.mk ?_)
    | with_reducible apply State.readVa_kept | with_reducible apply State.writeVa_kept
    | with_reducible apply State.putFiring_kept | with_reducible apply State.bump_kept
    | (rewrite [State.mk_eq_ofB]; with_reducible refine Kept.upd ?_)
    | with_reducible refine Kept.of_fst (by assumption) ?_ | with_reducible apply KeptP.fst | lift_lets -underBinder
    | dsimp -zeta only | split

theorem State.captureAll_kept {s0 s : State} (g : Nat) (x1 : List (Nat × Nat)) (hk0 : Kept s0 s) :
    KeptP s0 (State.captureAll s g x1) := by
  induction x1 generalizing s g with
  | nil =>
    rewrite [State.captureAll]
    repeat' first
      | with_reducible assumption | (rewrite [pairP_eq]; with_reducible refine KeptP.mk ?_)
      | with_reducible apply State.captureOne_kept | with_reducible refine Kept.of_fst (by assumption) ?_
      | with_reducible apply KeptP.fst | split
  | cons y t ih =>
    rewrite [State.captureAll]
    repeat' first
      | with_reducible assumption | (rewrite [pairP_eq]; with_reducible refine KeptP.mk ?_) | with_reducible apply ih
      | with_reducible apply State.captureOne_kept | with_reducible refine Kept.of_fst (by assumption) ?_
      | with_reducible apply KeptP.fst | split

theorem State.captureDone_kept {s0 s : State} (g : Nat) (hk0 : Kept s0 s) :
    Kept s0 (State.captureDone s g) := by
  unfold State.captureDone
  repeat' first
    | with_reducible assumption | (intro x; have hx : Kept s0 x := ?hk; clear_value x; case' hk => subst x)
    | (intro x; subst x) | intro _ | with_reducible apply Kept.ite | with_reducible apply KeptP.ite
    | (rewrite [pairP_eq]; with_reducible refine KeptP.mk ?_) | with_reducible apply State.putFiring_kept
    | with_reducible apply State.kilnSends_kept | with_reducible apply State.touch_kept
    | with_reducible apply State.modKln_kept | with_reducible apply State.captureAll_kept
    | with_reducible apply State.abortFiring_kept | (rewrite [State.mk_eq_ofB]; with_reducible refine Kept.upd ?_)
    | with_reducible refine Kept.of_fst (by assumption) ?_ | with_reducible apply KeptP.fst | lift_lets -underBinder
    | dsimp -zeta only | split

theorem State.touchDone_kept {s0 s : State} (g : Nat) (i : Nat) (cycles : Nat) (hk0 : Kept s0 s) :
    Kept s0 (State.touchDone s g i cycles) := by
  unfold State.touchDone
  repeat' first
    | with_reducible assumption | (intro x; have hx : Kept s0 x := ?hk; clear_value x; case' hk => subst x)
    | (intro x; subst x) | intro _ | with_reducible apply Kept.ite | with_reducible apply State.bump_kept
    | with_reducible apply State.touchPage_kept | lift_lets -underBinder | dsimp -zeta only | split

theorem State.refuseKln_kept {s0 s : State} (q : Nat) (i : Nat) (code : Nat) (g : Nat) (slot : Nat) (item : Nat) (hk0 : Kept s0 s) :
    Kept s0 (State.refuseKln s q i code g slot item) := by
  unfold State.refuseKln
  repeat' first
    | with_reducible assumption | with_reducible apply State.klnRecord_kept | with_reducible apply State.complete_kept
    | with_reducible apply State.badCommand_kept | split

theorem State.klnCmd_kept {s0 s : State} (q : Nat) (i : Nat) (op : Nat) (hk0 : Kept s0 s) :
    KeptP s0 (State.klnCmd s q i op) := by
  unfold State.klnCmd
  repeat' first
    | with_reducible assumption | (intro x; have hx : Kept s0 x := ?hk; clear_value x; case' hk => subst x)
    | (intro x; subst x) | intro _ | with_reducible apply Kept.ite | with_reducible apply KeptP.ite
    | (rewrite [pairP_eq]; with_reducible refine KeptP.mk ?_) | with_reducible apply State.start_kept
    | with_reducible apply State.refuseKln_kept | with_reducible refine Kept.of_fst (by assumption) ?_
    | with_reducible apply KeptP.fst | lift_lets -underBinder | dsimp -zeta only | split

theorem State.planLoad_kept {s0 s : State} (q : Nat) (i : Nat) (hk0 : Kept s0 s) :
    Kept s0 (State.planLoad s q i) := by
  unfold State.planLoad
  repeat' first
    | with_reducible assumption | (intro x; have hx : Kept s0 x := ?hk; clear_value x; case' hk => subst x)
    | (intro x; subst x) | intro _ | with_reducible apply Kept.ite | with_reducible apply KeptP.ite
    | (rewrite [pairP_eq]; with_reducible refine KeptP.mk ?_) | with_reducible apply State.klnCmd_kept
    | with_reducible apply State.refuseKln_kept | with_reducible apply State.readVa_kept
    | with_reducible apply State.modKln_kept | with_reducible apply State.complete_kept
    | (rewrite [State.mk_eq_ofB]; with_reducible refine Kept.upd ?_)
    | with_reducible refine Kept.of_fst (by assumption) ?_ | with_reducible apply KeptP.fst | lift_lets -underBinder
    | dsimp -zeta only | split

theorem State.fire_kept {s0 s : State} (q : Nat) (i : Nat) (hk0 : Kept s0 s) :
    Kept s0 (State.fire s q i) := by
  unfold State.fire
  repeat' first
    | with_reducible assumption | (intro x; have hx : Kept s0 x := ?hk; clear_value x; case' hk => subst x)
    | (intro x; subst x) | intro _ | with_reducible apply Kept.ite | with_reducible apply KeptP.ite
    | (rewrite [pairP_eq]; with_reducible refine KeptP.mk ?_) | with_reducible apply State.klnCmd_kept
    | with_reducible apply State.refuseKln_kept | with_reducible apply State.putFiring_kept
    | with_reducible apply State.touch_kept | (rewrite [State.mk_eq_ofB]; with_reducible refine Kept.upd ?_)
    | with_reducible refine Kept.of_fst (by assumption) ?_ | with_reducible apply KeptP.fst | lift_lets -underBinder
    | dsimp -zeta only | split

theorem State.klnAbort_kept {s0 s : State} (q : Nat) (i : Nat) (hk0 : Kept s0 s) :
    Kept s0 (State.klnAbort s q i) := by
  unfold State.klnAbort
  repeat' first
    | with_reducible assumption | with_reducible apply Kept.ite | with_reducible apply KeptP.ite
    | (rewrite [pairP_eq]; with_reducible refine KeptP.mk ?_) | with_reducible apply State.klnCmd_kept
    | with_reducible apply State.refuseKln_kept | with_reducible apply State.abortFiring_kept
    | with_reducible apply State.complete_kept | with_reducible refine Kept.of_fst (by assumption) ?_
    | with_reducible apply KeptP.fst | split

theorem State.askSlot_kept {s0 s : State} (g : Nat) (p : KilnPlan) (source : Nat) (slot : Nat) (off : Nat) (n : Nat) (probe : Option (Nat × Nat × Nat)) (hk0 : Kept s0 s) :
    Kept s0 (State.askSlot s g p source slot off n probe) := by
  unfold State.askSlot
  repeat' first
    | with_reducible assumption | (intro x; have hx : Kept s0 x := ?hk; clear_value x; case' hk => subst x)
    | (intro x; subst x) | intro _ | with_reducible apply Kept.ite
    | (rewrite [pairQ_eq]; with_reducible refine KeptQ.mk ?_) | with_reducible apply KeptQ.ite
    | with_reducible apply State.kilnTag_kept | with_reducible apply State.modKln_kept
    | with_reducible apply State.emit_kept | (rewrite [State.mk_eq_ofB]; with_reducible refine Kept.upd ?_)
    | with_reducible refine Kept.of_snd (by assumption) ?_ | with_reducible apply KeptQ.snd | lift_lets -underBinder
    | dsimp -zeta only | split

theorem State.restore_kept {s0 s : State} (q : Nat) (i : Nat) (hk0 : Kept s0 s) :
    Kept s0 (State.restore s q i) := by
  unfold State.restore
  repeat' first
    | with_reducible assumption | (intro x; have hx : Kept s0 x := ?hk; clear_value x; case' hk => subst x)
    | (intro x; subst x) | intro _ | with_reducible apply Kept.ite | with_reducible apply KeptP.ite
    | (rewrite [pairP_eq]; with_reducible refine KeptP.mk ?_) | with_reducible apply State.klnCmd_kept
    | with_reducible apply State.refuseKln_kept | with_reducible apply State.modStep_kept
    | with_reducible apply State.modKln_kept | with_reducible apply State.askSlot_kept
    | (rewrite [State.mk_eq_ofB]; with_reducible refine Kept.upd ?_)
    | with_reducible refine Kept.of_fst (by assumption) ?_ | with_reducible apply KeptP.fst | lift_lets -underBinder
    | dsimp -zeta only | split

theorem State.probeSlot_kept {s0 s : State} (q : Nat) (i : Nat) (hk0 : Kept s0 s) :
    Kept s0 (State.probeSlot s q i) := by
  unfold State.probeSlot
  repeat' first
    | with_reducible assumption | (intro x; have hx : Kept s0 x := ?hk; clear_value x; case' hk => subst x)
    | (intro x; subst x) | intro _ | with_reducible apply Kept.ite | with_reducible apply KeptP.ite
    | (rewrite [pairP_eq]; with_reducible refine KeptP.mk ?_) | with_reducible apply State.klnCmd_kept
    | with_reducible apply State.refuseKln_kept | with_reducible apply State.askSlot_kept
    | with_reducible refine Kept.of_fst (by assumption) ?_ | with_reducible apply KeptP.fst | lift_lets -underBinder
    | dsimp -zeta only | split

theorem State.restoreFails_kept {s0 s : State} (g : Nat) (r : Restore) (code : Nat) (item : Nat) (hk0 : Kept s0 s) :
    Kept s0 (State.restoreFails s g r code item) := by
  unfold State.restoreFails
  repeat' first
    | with_reducible assumption | (intro x; have hx : Kept s0 x := ?hk; clear_value x; case' hk => subst x)
    | (intro x; subst x) | intro _ | with_reducible apply State.klnRecord_kept
    | with_reducible apply State.modKln_kept | with_reducible apply State.complete_kept
    | (rewrite [State.mk_eq_ofB]; with_reducible refine Kept.upd ?_) | lift_lets -underBinder | dsimp -zeta only
    | split

theorem State.restoreClears_kept {s0 s : State} (g : Nat) (hk0 : Kept s0 s) :
    Kept s0 (State.restoreClears s g) := by
  unfold State.restoreClears
  repeat' first
    | with_reducible assumption | (intro x; have hx : Kept s0 x := ?hk; clear_value x; case' hk => subst x)
    | (intro x; subst x) | intro _ | with_reducible apply State.each_kept | with_reducible apply State.zeroBuffer_kept
    | with_reducible apply State.voidUpdate_kept | with_reducible apply State.modUpd_kept
    | with_reducible apply State.modGth_kept | with_reducible apply State.clearHists_kept
    | with_reducible apply State.dropEmb_kept | with_reducible apply State.clearTables_kept
    | with_reducible apply State.discardTasks_kept | with_reducible apply State.zeroFlows_kept
    | (rewrite [State.mk_eq_ofB]; with_reducible refine Kept.upd ?_) | lift_lets -underBinder | dsimp -zeta only
    | split

theorem State.restoreInstalls_kept {s0 s : State} (g : Nat) (m : List Byte) (hk0 : Kept s0 s) :
    Kept s0 (State.restoreInstalls s g m) := by
  unfold State.restoreInstalls
  repeat' first
    | with_reducible assumption | (intro x; have hx : Kept s0 x := ?hk; clear_value x; case' hk => subst x)
    | (intro x; subst x) | intro _ | with_reducible apply Kept.ite | with_reducible apply State.each_kept
    | with_reducible apply State.modEmb_kept | with_reducible apply State.modStep_kept
    | with_reducible apply State.record_kept | (rewrite [State.mk_eq_ofB]; with_reducible refine Kept.upd ?_)
    | with_reducible apply Kept.foldl | lift_lets -underBinder | dsimp -zeta only | split

theorem State.restoreNext_kept {s0 s : State} (g : Nat) (p : KilnPlan) (r : Restore) (hk0 : Kept s0 s) :
    Kept s0 (State.restoreNext s g p r) := by
  unfold State.restoreNext
  repeat' first
    | with_reducible assumption | (intro x; have hx : Kept s0 x := ?hk; clear_value x; case' hk => subst x)
    | (intro x; subst x) | intro _ | with_reducible apply Kept.ite | with_reducible apply State.record_kept
    | with_reducible apply State.modKln_kept | with_reducible apply State.askSlot_kept
    | with_reducible apply State.restoreInstalls_kept | with_reducible apply State.complete_kept
    | (rewrite [State.mk_eq_ofB]; with_reducible refine Kept.upd ?_) | lift_lets -underBinder | dsimp -zeta only
    | split

theorem State.restoreData_kept {s0 s : State} (g : Nat) (p : KilnPlan) (r : Restore) (b : List Byte) (hk0 : Kept s0 s) :
    Kept s0 (State.restoreData s g p r b) := by
  unfold State.restoreData
  repeat' first
    | with_reducible assumption | (intro x; have hx : Kept s0 x := ?hk; clear_value x; case' hk => subst x)
    | (intro x; subst x) | intro _ | with_reducible apply Kept.ite | with_reducible apply KeptP.ite
    | (rewrite [pairP_eq]; with_reducible refine KeptP.mk ?_) | with_reducible apply State.modKln_kept
    | with_reducible apply State.askSlot_kept | with_reducible apply State.record_kept
    | with_reducible apply State.restoreFails_kept | with_reducible apply State.restoreClears_kept
    | with_reducible apply State.restoreNext_kept | with_reducible apply State.writeVa_kept
    | with_reducible apply State.bump_kept | (rewrite [State.mk_eq_ofB]; with_reducible refine Kept.upd ?_)
    | with_reducible refine Kept.of_fst (by assumption) ?_ | with_reducible apply KeptP.fst | lift_lets -underBinder
    | dsimp -zeta only | split

theorem State.slotData_kept {s0 s : State} (tag : Nat) (b : List Byte) (hk0 : Kept s0 s) :
    Kept s0 (State.slotData s tag b) := by
  unfold State.slotData
  repeat' first
    | with_reducible assumption | (intro x; have hx : Kept s0 x := ?hk; clear_value x; case' hk => subst x)
    | (intro x; subst x) | intro _ | with_reducible apply Kept.ite | with_reducible apply State.modKln_kept
    | with_reducible apply State.complete_kept | with_reducible apply State.restoreData_kept
    | (rewrite [State.mk_eq_ofB]; with_reducible refine Kept.upd ?_) | lift_lets -underBinder | dsimp -zeta only
    | split

theorem State.slotLost_kept {s0 s : State} (tag : Nat) (hk0 : Kept s0 s) :
    Kept s0 (State.slotLost s tag) := by
  unfold State.slotLost
  repeat' first
    | with_reducible assumption | (intro x; have hx : Kept s0 x := ?hk; clear_value x; case' hk => subst x)
    | (intro x; subst x) | intro _ | with_reducible apply State.modKln_kept | with_reducible apply State.complete_kept
    | with_reducible apply State.restoreFails_kept | (rewrite [State.mk_eq_ofB]; with_reducible refine Kept.upd ?_)
    | lift_lets -underBinder | dsimp -zeta only | split

theorem State.regrovePlan_kept {s0 s : State} (g : Nat) (gen : Nat) (keep : Bool) (hk0 : Kept s0 s) :
    Kept s0 (State.regrovePlan s g gen keep) := by
  unfold State.regrovePlan
  repeat' first
    | with_reducible assumption | (intro x; have hx : Kept s0 x := ?hk; clear_value x; case' hk => subst x)
    | (intro x; subst x) | intro _ | with_reducible apply Kept.ite | with_reducible apply State.modKln_kept
    | (rewrite [State.mk_eq_ofB]; with_reducible refine Kept.upd ?_) | lift_lets -underBinder | dsimp -zeta only
    | split

theorem State.kilnWrite_kept {s0 s : State} (die : Nat) (o : Origin) (w : KilnWrite) (again : Bool) (hk0 : Kept s0 s) :
    Kept s0 (State.kilnWrite s die o w again) := by
  unfold State.kilnWrite
  repeat' first
    | with_reducible assumption | (intro x; have hx : Kept s0 x := ?hk; clear_value x; case' hk => subst x)
    | (intro x; subst x) | intro _ | with_reducible apply Kept.ite | with_reducible apply KeptP.ite
    | (rewrite [pairP_eq]; with_reducible refine KeptP.mk ?_) | with_reducible apply State.dropStale_kept
    | with_reducible apply State.spend_kept | with_reducible apply State.holdServe_kept
    | with_reducible apply State.writeLocal_kept | with_reducible apply State.colAck_kept
    | with_reducible apply State.request_kept | with_reducible apply State.sendNeg_kept
    | with_reducible refine Kept.of_fst (by assumption) ?_ | with_reducible apply KeptP.fst | lift_lets -underBinder
    | dsimp -zeta only | split

end Sys2Proof.Machine
end

