-- ==== Sys2Proof/Laws/KeptSteps.lean ====
section
/-! SUPPORT. What the operations of Machine/Collect, Steps, Watch, Ash keep: `Kept`, one lemma each. -/
set_option Elab.async false
set_option linter.unusedTactic false
set_option linter.unreachableTactic false
set_option linter.unnecessarySeqFocus false
namespace Sys2Proof.Machine

theorem State.refuseCol_kept {s0 s : State} (q : Nat) (i : Nat) (code : Nat) (g : Nat) (red : Nat) (hk0 : Kept s0 s) :
    Kept s0 (State.refuseCol s q i code g red) := by
  unfold State.refuseCol
  repeat' first
    | with_reducible assumption | with_reducible apply State.colRecord_kept | with_reducible apply State.complete_kept
    | with_reducible apply State.badCommand_kept | split

theorem State.groupOk_kept {s0 s : State} (g : Nat) (d : RedDesc) (hk0 : Kept s0 s) :
    KeptP s0 (State.groupOk s g d) := by
  unfold State.groupOk
  repeat' first
    | with_reducible assumption | (intro x; have hx : Kept s0 x := ?hk; clear_value x; case' hk => subst x)
    | (intro x; subst x) | intro _ | (rewrite [pairP_eq]; with_reducible refine KeptP.mk ?_)
    | with_reducible apply State.readVa_kept | with_reducible refine Kept.of_fst (by assumption) ?_
    | with_reducible apply KeptP.fst | lift_lets -underBinder | dsimp -zeta only | split

theorem State.schedLoad_kept {s0 s : State} (q : Nat) (i : Nat) (hk0 : Kept s0 s) :
    Kept s0 (State.schedLoad s q i) := by
  unfold State.schedLoad
  repeat' first
    | with_reducible assumption | (intro x; have hx : Kept s0 x := ?hk; clear_value x; case' hk => subst x)
    | (intro x; subst x) | intro _ | with_reducible apply Kept.ite | with_reducible apply KeptP.ite
    | (rewrite [pairP_eq]; with_reducible refine KeptP.mk ?_) | with_reducible apply State.start_kept
    | with_reducible apply State.refuseCol_kept | with_reducible apply State.readVa_kept
    | with_reducible apply State.groupOk_kept | with_reducible apply State.modRed_kept
    | with_reducible apply State.complete_kept | (rewrite [State.mk_eq_ofB]; with_reducible refine Kept.upd ?_)
    | with_reducible refine Kept.of_fst (by assumption) ?_ | with_reducible apply KeptP.fst | lift_lets -underBinder
    | dsimp -zeta only | split

theorem State.schedDrop_kept {s0 s : State} (q : Nat) (i : Nat) (hk0 : Kept s0 s) :
    Kept s0 (State.schedDrop s q i) := by
  unfold State.schedDrop
  repeat' first
    | with_reducible assumption | (intro x; have hx : Kept s0 x := ?hk; clear_value x; case' hk => subst x)
    | (intro x; subst x) | intro _ | with_reducible apply Kept.ite | with_reducible apply State.start_kept
    | with_reducible apply State.refuseCol_kept | with_reducible apply State.modRed_kept
    | with_reducible apply State.complete_kept | (rewrite [State.mk_eq_ofB]; with_reducible refine Kept.upd ?_)
    | lift_lets -underBinder | dsimp -zeta only | split

theorem State.closeRed_kept {s0 s : State} (die : Nat) (g : Nat) (d : RedDesc) (hk0 : Kept s0 s) :
    Kept s0 (State.closeRed s die g d) := by
  unfold State.closeRed
  repeat' first
    | with_reducible assumption | (intro x; have hx : Kept s0 x := ?hk; clear_value x; case' hk => subst x)
    | (intro x; subst x) | intro _ | with_reducible apply Kept.ite | with_reducible apply State.modRed_kept
    | with_reducible apply State.bump_kept | with_reducible apply State.putReg_kept
    | with_reducible apply State.record_kept | with_reducible apply State.corrected_kept
    | with_reducible apply State.stageReduction_kept | (rewrite [State.mk_eq_ofB]; with_reducible refine Kept.upd ?_)
    | with_reducible apply Kept.foldl | lift_lets -underBinder | dsimp -zeta only | split

theorem State.closeIfFull_kept {s0 s : State} (die : Nat) (g : Nat) (d : RedDesc) (hk0 : Kept s0 s) :
    Kept s0 (State.closeIfFull s die g d) := by
  unfold State.closeIfFull
  repeat' first
    | with_reducible assumption | (intro x; have hx : Kept s0 x := ?hk; clear_value x; case' hk => subst x)
    | (intro x; subst x) | intro _ | with_reducible apply Kept.ite | with_reducible apply State.closeRed_kept
    | lift_lets -underBinder | dsimp -zeta only | split

theorem State.closeFull_kept {s0 s : State} (g : Nat) (hk0 : Kept s0 s) :
    Kept s0 (State.closeFull s g) := by
  unfold State.closeFull
  repeat' first
    | with_reducible assumption | intro _ | with_reducible apply State.each_kept
    | with_reducible apply State.closeIfFull_kept | dsimp -zeta only | split

theorem State.deadline_kept {s0 s : State} (die : Nat) (g : Nat) (r : Nat) (hk0 : Kept s0 s) :
    Kept s0 (State.deadline s die g r) := by
  unfold State.deadline
  repeat' first
    | with_reducible assumption | with_reducible apply Kept.ite | with_reducible apply State.closeRed_kept | split

theorem State.applyBlocks_kept {s0 s : State} (g : Nat) (d : RedDesc) (c : Contribution) (hk0 : Kept s0 s) :
    KeptP s0 (State.applyBlocks s g d c) := by
  unfold State.applyBlocks
  repeat' first
    | with_reducible assumption | (intro x; have hx : Kept s0 x := ?hk; clear_value x; case' hk => subst x)
    | (intro x; subst x) | intro _ | with_reducible apply Kept.ite | with_reducible apply KeptP.ite
    | (rewrite [pairP_eq]; with_reducible refine KeptP.mk ?_)
    | (rewrite [pairQ_eq]; with_reducible refine KeptQ.mk ?_) | with_reducible apply KeptQ.ite
    | with_reducible apply State.accumulateVa_kept | with_reducible apply Kept.foldl
    | with_reducible apply KeptP.foldl | with_reducible refine Kept.of_fst (by assumption) ?_
    | with_reducible apply KeptP.fst | with_reducible refine Kept.of_snd (by assumption) ?_
    | with_reducible apply KeptQ.snd | lift_lets -underBinder | dsimp -zeta only | split

theorem State.noteApplied_kept {s0 s : State} (die : Nat) (g : Nat) (device : Nat) (sdie : Nat) (request : Nat) (hk0 : Kept s0 s) :
    Kept s0 (State.noteApplied s die g device sdie request) := by
  unfold State.noteApplied
  repeat' first
    | with_reducible assumption | intro _ | with_reducible apply State.modCol_kept
    | with_reducible apply State.request_kept | (rewrite [State.mk_eq_ofB]; with_reducible refine Kept.upd ?_)
    | dsimp -zeta only | split

theorem State.takeBlocks_kept {s0 s : State} (own : Nat) (g : Nat) (device : Nat) (sdie : Nat) (d : RedDesc) (c : Contribution) (hk0 : Kept s0 s) :
    KeptP s0 (State.takeBlocks s own g device sdie d c) := by
  unfold State.takeBlocks
  repeat' first
    | with_reducible assumption | (intro x; have hx : Kept s0 x := ?hk; clear_value x; case' hk => subst x)
    | (intro x; subst x) | intro _ | with_reducible apply Kept.ite | with_reducible apply KeptP.ite
    | (rewrite [pairP_eq]; with_reducible refine KeptP.mk ?_) | with_reducible apply State.applyBlocks_kept
    | with_reducible apply State.noteApplied_kept | with_reducible apply State.request_kept
    | with_reducible apply State.bump_kept | with_reducible apply State.tallyRecv_kept
    | with_reducible apply State.closeIfFull_kept | with_reducible apply State.stepFault_kept
    | with_reducible refine Kept.of_fst (by assumption) ?_ | with_reducible apply KeptP.fst | lift_lets -underBinder
    | dsimp -zeta only | split

theorem State.takeContribution_kept {s0 s : State} (at' : Nat) (g : Nat) (device : Nat) (sdie : Nat) (c : Contribution) (hk0 : Kept s0 s) :
    KeptP s0 (State.takeContribution s at' g device sdie c) := by
  unfold State.takeContribution
  repeat' first
    | with_reducible assumption | (intro x; have hx : Kept s0 x := ?hk; clear_value x; case' hk => subst x)
    | (intro x; subst x) | intro _ | with_reducible apply Kept.ite | with_reducible apply KeptP.ite
    | (rewrite [pairP_eq]; with_reducible refine KeptP.mk ?_) | with_reducible apply State.bump_kept
    | with_reducible apply State.colRecord_kept | with_reducible apply State.request_kept
    | with_reducible apply State.takeBlocks_kept | with_reducible apply State.noteLate_kept
    | with_reducible apply State.tallyLate_kept | with_reducible refine Kept.of_fst (by assumption) ?_
    | with_reducible apply KeptP.fst | lift_lets -underBinder | dsimp -zeta only | split

theorem State.clearMerge_eq (s : State) (g : Nat) : s.clearMerge g = match s.mergeArea g with
    | some o => (s.writeLocal (.grove g) o mergeZeros).1
    | none => s := rfl

theorem Kept.optWrite {s0 s : State} (x : Option Nat) (p : Party) (bs : List Byte) (hk0 : Kept s0 s) :
    Kept s0 (match x with
      | some o => (s.writeLocal p o bs).1
      | none => s) := by
  cases x with
  | none => exact hk0
  | some o => exact KeptP.fst (State.writeLocal_kept _ _ _ hk0)

theorem State.clearMerge_kept {s0 s : State} (g : Nat) (hk0 : Kept s0 s) : Kept s0 (s.clearMerge g) := by
  rw [State.clearMerge_eq]
  exact Kept.optWrite _ _ _ hk0

theorem State.mergeWords_kept {s0 s : State} (g : Nat) (o : Nat) (values : List Nat) (hk0 : Kept s0 s) :
    KeptP s0 (State.mergeWords s g o values) := by
  unfold State.mergeWords
  repeat' first
    | with_reducible assumption | intro _ | with_reducible apply Kept.ite | with_reducible apply KeptP.ite
    | (rewrite [pairP_eq]; with_reducible refine KeptP.mk ?_)
    | (rewrite [pairQ_eq]; with_reducible refine KeptQ.mk ?_) | with_reducible apply KeptQ.ite
    | with_reducible apply State.accumulate_kept | with_reducible apply Kept.foldl | with_reducible apply KeptP.foldl
    | with_reducible refine Kept.of_fst (by assumption) ?_ | with_reducible apply KeptP.fst
    | with_reducible refine Kept.of_snd (by assumption) ?_ | with_reducible apply KeptQ.snd | dsimp -zeta only | split

theorem State.takeMerge_kept {s0 s : State} (g : Nat) (o : Origin) (c : Contribution) (hk0 : Kept s0 s) :
    KeptP s0 (State.takeMerge s g o c) := by
  unfold State.takeMerge
  repeat' first
    | with_reducible assumption | (intro x; have hx : Kept s0 x := ?hk; clear_value x; case' hk => subst x)
    | (intro x; subst x) | intro _ | with_reducible apply Kept.ite | with_reducible apply KeptP.ite
    | (rewrite [pairP_eq]; with_reducible refine KeptP.mk ?_) | with_reducible apply State.request_kept
    | with_reducible apply State.bump_kept | with_reducible apply State.modStep_kept
    | with_reducible apply State.mergeWords_kept | with_reducible apply State.noteApplied_kept
    | with_reducible apply State.stepFault_kept | (rewrite [State.mk_eq_ofB]; with_reducible refine Kept.upd ?_)
    | with_reducible refine Kept.of_fst (by assumption) ?_ | with_reducible apply KeptP.fst | lift_lets -underBinder
    | dsimp -zeta only | split

theorem State.answerCol_kept {s0 s : State} (die : Nat) (device : Nat) (g : Nat) (request : Nat) (x1 : ColAnswer) (hk0 : Kept s0 s) :
    Kept s0 (State.answerCol s die device g request x1) := by
  unfold State.answerCol
  repeat' first
    | with_reducible assumption | with_reducible apply State.colAck_kept | with_reducible apply State.request_kept
    | with_reducible apply State.sendNeg_kept | split

theorem State.contributionReceive_kept {s0 s : State} (die : Nat) (o : Origin) (c : Contribution) (hk0 : Kept s0 s) :
    Kept s0 (State.contributionReceive s die o c) := by
  unfold State.contributionReceive
  repeat' first
    | with_reducible assumption | (intro x; have hx : Kept s0 x := ?hk; clear_value x; case' hk => subst x)
    | (intro x; subst x) | intro _ | with_reducible apply Kept.ite | with_reducible apply KeptP.ite
    | (rewrite [pairP_eq]; with_reducible refine KeptP.mk ?_) | with_reducible apply State.dropStale_kept
    | with_reducible apply State.takeMerge_kept | with_reducible apply State.takeContribution_kept
    | with_reducible apply State.answerCol_kept | with_reducible apply State.request_kept
    | with_reducible refine Kept.of_fst (by assumption) ?_ | with_reducible apply KeptP.fst | lift_lets -underBinder
    | dsimp -zeta only | split

theorem State.takeEarly_kept {s0 s : State} (g : Nat) (hk0 : Kept s0 s) :
    Kept s0 (State.takeEarly s g) := by
  unfold State.takeEarly
  repeat' first
    | with_reducible assumption | (intro x; have hx : Kept s0 x := ?hk; clear_value x; case' hk => subst x)
    | (intro x; subst x) | intro _ | (rewrite [pairP_eq]; with_reducible refine KeptP.mk ?_)
    | with_reducible apply State.modStep_kept | with_reducible apply State.each_kept
    | with_reducible apply State.takeMerge_kept | with_reducible apply State.answerCol_kept
    | with_reducible apply State.request_kept | (rewrite [State.mk_eq_ofB]; with_reducible refine Kept.upd ?_)
    | with_reducible refine Kept.of_fst (by assumption) ?_ | with_reducible apply KeptP.fst | lift_lets -underBinder
    | dsimp -zeta only | split

theorem State.sendSegment_kept {s0 s : State} (die : Nat) (g : Nat) (d : RedDesc) (seg : Nat) (hk0 : Kept s0 s) :
    KeptP s0 (State.sendSegment s die g d seg) := by
  unfold State.sendSegment
  repeat' first
    | with_reducible assumption | (intro x; have hx : Kept s0 x := ?hk; clear_value x; case' hk => subst x)
    | (intro x; subst x) | intro _ | with_reducible apply Kept.ite | with_reducible apply KeptP.ite
    | (rewrite [pairP_eq]; with_reducible refine KeptP.mk ?_)
    | (rewrite [pairQ_eq]; with_reducible refine KeptQ.mk ?_) | with_reducible apply KeptQ.ite
    | with_reducible apply State.readVa_kept | with_reducible apply State.bump_kept
    | with_reducible apply State.colRequest_kept | with_reducible apply State.request_kept
    | with_reducible apply State.tallySent_kept | with_reducible apply State.takeContribution_kept
    | with_reducible apply State.modCol_kept | with_reducible apply State.sendContribution_kept
    | (rewrite [State.mk_eq_ofB]; with_reducible refine Kept.upd ?_)
    | with_reducible refine Kept.of_fst (by assumption) ?_ | with_reducible apply KeptP.fst
    | with_reducible refine Kept.of_snd (by assumption) ?_ | with_reducible apply KeptQ.snd | lift_lets -underBinder
    | dsimp -zeta only | split

theorem State.sendSegments_kept {s0 s : State} (die : Nat) (g : Nat) (d : RedDesc) (x1 : List Nat) (hk0 : Kept s0 s) :
    Kept s0 (State.sendSegments s die g d x1) := by
  induction x1 generalizing s die g d with
  | nil =>
    rewrite [State.sendSegments]
    repeat' first
      | with_reducible assumption | (rewrite [pairP_eq]; with_reducible refine KeptP.mk ?_)
      | with_reducible apply State.sendSegment_kept | with_reducible apply State.stepFault_kept
      | with_reducible refine Kept.of_fst (by assumption) ?_ | with_reducible apply KeptP.fst | split
  | cons y t ih =>
    rewrite [State.sendSegments]
    repeat' first
      | with_reducible assumption | (rewrite [pairP_eq]; with_reducible refine KeptP.mk ?_) | with_reducible apply ih
      | with_reducible apply State.sendSegment_kept | with_reducible apply State.stepFault_kept
      | with_reducible refine Kept.of_fst (by assumption) ?_ | with_reducible apply KeptP.fst | split

theorem State.contribute_kept {s0 s : State} (die : Nat) (g : Nat) (r : Nat) (hk0 : Kept s0 s) :
    Kept s0 (State.contribute s die g r) := by
  unfold State.contribute
  repeat' first
    | with_reducible assumption | intro _ | with_reducible apply State.modRed_kept
    | with_reducible apply State.sendSegments_kept | (rewrite [State.mk_eq_ofB]; with_reducible refine Kept.upd ?_)
    | dsimp -zeta only | split

theorem State.partialTimeout_kept {s0 s : State} (p : Nat) (vc : Nat) (dl : Nat) (hk0 : Kept s0 s) :
    Kept s0 (State.partialTimeout s p vc dl) := by
  unfold State.partialTimeout
  repeat' first
    | with_reducible assumption | (intro x; have hx : Kept s0 x := ?hk; clear_value x; case' hk => subst x)
    | (intro x; subst x) | intro _ | with_reducible apply Kept.ite | with_reducible apply State.modPort_kept
    | with_reducible apply State.bump_kept | (rewrite [State.mk_eq_ofB]; with_reducible refine Kept.upd ?_)
    | lift_lets -underBinder | dsimp -zeta only | split

theorem State.openReductions_kept {s0 s : State} (g : Nat) (hk0 : Kept s0 s) :
    Kept s0 (State.openReductions s g) := by
  unfold State.openReductions
  repeat' first
    | with_reducible assumption | (intro x; have hx : Kept s0 x := ?hk; clear_value x; case' hk => subst x)
    | (intro x; subst x) | intro _ | with_reducible apply Kept.ite | with_reducible apply State.modCol_kept
    | (rewrite [State.mk_eq_ofB]; with_reducible refine Kept.upd ?_) | lift_lets -underBinder | dsimp -zeta only
    | split

theorem State.restartReductions_kept {s0 s : State} (g : Nat) (hk0 : Kept s0 s) :
    Kept s0 (State.restartReductions s g) := by
  unfold State.restartReductions
  repeat' first
    | with_reducible assumption | (intro x; have hx : Kept s0 x := ?hk; clear_value x; case' hk => subst x)
    | (intro x; subst x) | intro _ | with_reducible apply Kept.ite | with_reducible apply State.modCol_kept
    | (rewrite [State.mk_eq_ofB]; with_reducible refine Kept.upd ?_) | lift_lets -underBinder | dsimp -zeta only
    | split

theorem State.dropCollect_kept {s0 s : State} (g : Nat) (hk0 : Kept s0 s) :
    Kept s0 (State.dropCollect s g) := by
  unfold State.dropCollect
  repeat' first
    | with_reducible assumption | (intro x; have hx : Kept s0 x := ?hk; clear_value x; case' hk => subst x)
    | (intro x; subst x) | intro _ | with_reducible apply State.modCol_kept
    | (rewrite [State.mk_eq_ofB]; with_reducible refine Kept.upd ?_) | lift_lets -underBinder | dsimp -zeta only
    | split

theorem State.forwardVoid_kept {s0 s : State} (g : Nat) (v : VoidMsg) (hk0 : Kept s0 s) :
    Kept s0 (State.forwardVoid s g v) := by
  unfold State.forwardVoid
  repeat' first
    | with_reducible assumption | intro _ | with_reducible apply State.each_kept
    | with_reducible apply State.sendMsg_kept | dsimp -zeta only | split

theorem State.voidStep_kept {s0 s : State} (g : Nat) (v : VoidMsg) (hk0 : Kept s0 s) :
    Kept s0 (State.voidStep s g v) := by
  unfold State.voidStep
  repeat' first
    | with_reducible assumption | (intro x; have hx : Kept s0 x := ?hk; clear_value x; case' hk => subst x)
    | (intro x; subst x) | intro _ | with_reducible apply Kept.ite | with_reducible apply State.writeTallies_kept
    | with_reducible apply State.addHeat_kept | with_reducible apply State.each_kept
    | with_reducible apply State.record_kept | with_reducible apply State.modStep_kept
    | (rewrite [State.mk_eq_ofB]; with_reducible refine Kept.upd ?_) | lift_lets -underBinder | dsimp -zeta only
    | split

theorem State.originateVoid_kept {s0 s : State} (g : Nat) (reason : Nat) (hk0 : Kept s0 s) :
    Kept s0 (State.originateVoid s g reason) := by
  unfold State.originateVoid
  repeat' first
    | with_reducible assumption | (intro x; have hx : Kept s0 x := ?hk; clear_value x; case' hk => subst x)
    | (intro x; subst x) | intro _ | with_reducible apply State.forwardVoid_kept
    | with_reducible apply State.voidStep_kept | (rewrite [State.mk_eq_ofB]; with_reducible refine Kept.upd ?_)
    | lift_lets -underBinder | dsimp -zeta only | split

theorem State.voidReceive_kept {s0 s : State} (o : Origin) (v : VoidMsg) (hk0 : Kept s0 s) :
    Kept s0 (State.voidReceive s o v) := by
  unfold State.voidReceive
  repeat' first
    | with_reducible assumption | (intro x; have hx : Kept s0 x := ?hk; clear_value x; case' hk => subst x)
    | (intro x; subst x) | intro _ | with_reducible apply Kept.ite | with_reducible apply State.dropStale_kept
    | with_reducible apply State.bump_kept | with_reducible apply State.colRecord_kept
    | with_reducible apply State.modStep_kept | with_reducible apply State.forwardVoid_kept
    | with_reducible apply State.voidStep_kept | (rewrite [State.mk_eq_ofB]; with_reducible refine Kept.upd ?_)
    | lift_lets -underBinder | dsimp -zeta only | split

theorem State.stepVoid_kept {s0 s : State} (q : Nat) (i : Nat) (hk0 : Kept s0 s) :
    Kept s0 (State.stepVoid s q i) := by
  unfold State.stepVoid
  repeat' first
    | with_reducible assumption | (intro x; have hx : Kept s0 x := ?hk; clear_value x; case' hk => subst x)
    | (intro x; subst x) | intro _ | with_reducible apply Kept.ite | with_reducible apply State.start_kept
    | with_reducible apply State.refuseCol_kept | with_reducible apply State.originateVoid_kept
    | with_reducible apply State.complete_kept | lift_lets -underBinder | dsimp -zeta only | split

theorem State.commitTimeout_kept {s0 s : State} (g : Nat) (hk0 : Kept s0 s) :
    Kept s0 (State.commitTimeout s g) := by
  unfold State.commitTimeout
  repeat' first
    | with_reducible assumption | with_reducible apply Kept.ite | with_reducible apply State.colRecord_kept
    | with_reducible apply State.originateVoid_kept | split

theorem State.quiesce_kept {s0 s : State} (g : Nat) (hk0 : Kept s0 s) :
    Kept s0 (State.quiesce s g) := by
  unfold State.quiesce
  repeat' first
    | with_reducible assumption | (intro x; have hx : Kept s0 x := ?hk; clear_value x; case' hk => subst x)
    | (intro x; subst x) | intro _ | with_reducible apply State.each_kept | with_reducible apply State.zeroBuffer_kept
    | with_reducible apply State.voidUpdate_kept | with_reducible apply State.voidGather_kept
    | with_reducible apply State.voidEmb_kept | with_reducible apply State.voidSampler_kept
    | with_reducible apply State.clearHists_kept | with_reducible apply State.voidInjects_kept
    | with_reducible apply State.rewindSched_kept | with_reducible apply State.dropChecks_kept
    | with_reducible apply State.modStep_kept | (rewrite [State.mk_eq_ofB]; with_reducible refine Kept.upd ?_)
    | lift_lets -underBinder | dsimp -zeta only | split

theorem State.barrierTimeout_kept {s0 s : State} (g : Nat) (hk0 : Kept s0 s) :
    Kept s0 (State.barrierTimeout s g) := by
  unfold State.barrierTimeout
  repeat' first
    | with_reducible assumption | (intro x; have hx : Kept s0 x := ?hk; clear_value x; case' hk => subst x)
    | (intro x; subst x) | intro _ | with_reducible apply Kept.ite | with_reducible apply State.colRecord_kept
    | with_reducible apply State.quiesce_kept | with_reducible apply State.modStep_kept
    | with_reducible apply State.record_kept | (rewrite [State.mk_eq_ofB]; with_reducible refine Kept.upd ?_)
    | lift_lets -underBinder | dsimp -zeta only | split

theorem State.startAttempt_kept {s0 s : State} (g : Nat) (hk0 : Kept s0 s) :
    Kept s0 (State.startAttempt s g) := by
  unfold State.startAttempt
  repeat' first
    | with_reducible assumption | (intro x; have hx : Kept s0 x := ?hk; clear_value x; case' hk => subst x)
    | (intro x; subst x) | intro _ | with_reducible apply State.modStep_kept
    | with_reducible apply State.takeEarly_kept | with_reducible apply State.voidStep_kept
    | with_reducible apply State.runSampler_kept | with_reducible apply State.closeFull_kept
    | with_reducible apply State.judge_kept | (rewrite [State.mk_eq_ofB]; with_reducible refine Kept.upd ?_)
    | lift_lets -underBinder | dsimp -zeta only | split

theorem State.beginStep_kept {s0 s : State} (g : Nat) (r : OpenRecord) (hk0 : Kept s0 s) :
    Kept s0 (State.beginStep s g r) := by
  unfold State.beginStep
  repeat' first
    | with_reducible assumption | (intro x; have hx : Kept s0 x := ?hk; clear_value x; case' hk => subst x)
    | (intro x; subst x) | intro _ | with_reducible apply State.modStep_kept | with_reducible apply State.record_kept
    | with_reducible apply State.openReductions_kept | with_reducible apply State.openShadows_kept
    | with_reducible apply State.clearHists_kept | with_reducible apply State.openSampler_kept
    | with_reducible apply State.openGather_kept | with_reducible apply State.openEmb_kept
    | with_reducible apply State.openUpdate_kept | with_reducible apply State.clearMerge_kept
    | with_reducible apply State.startAttempt_kept | (rewrite [State.mk_eq_ofB]; with_reducible refine Kept.upd ?_)
    | lift_lets -underBinder | dsimp -zeta only | split

theorem State.openStep_kept {s0 s : State} (q : Nat) (i : Nat) (c : Cmd) (hk0 : Kept s0 s) :
    Kept s0 (State.openStep s q i c) := by
  unfold State.openStep
  repeat' first
    | with_reducible assumption | (intro x; have hx : Kept s0 x := ?hk; clear_value x; case' hk => subst x)
    | (intro x; subst x) | intro _ | with_reducible apply Kept.ite | with_reducible apply KeptP.ite
    | (rewrite [pairP_eq]; with_reducible refine KeptP.mk ?_) | with_reducible apply State.readLocal_kept
    | with_reducible apply State.refuseCol_kept | with_reducible apply State.beginStep_kept
    | with_reducible apply State.complete_kept | with_reducible refine Kept.of_fst (by assumption) ?_
    | with_reducible apply KeptP.fst | lift_lets -underBinder | dsimp -zeta only | split

theorem State.stepOpen_kept {s0 s : State} (q : Nat) (i : Nat) (hk0 : Kept s0 s) :
    Kept s0 (State.stepOpen s q i) := by
  unfold State.stepOpen
  repeat' first
    | with_reducible assumption | (intro x; have hx : Kept s0 x := ?hk; clear_value x; case' hk => subst x)
    | (intro x; subst x) | intro _ | with_reducible apply Kept.ite | with_reducible apply State.start_kept
    | with_reducible apply State.refuseCol_kept | with_reducible apply State.modCol_kept
    | with_reducible apply State.openStep_kept | (rewrite [State.mk_eq_ofB]; with_reducible refine Kept.upd ?_)
    | lift_lets -underBinder | dsimp -zeta only | split

theorem State.retryOpens_kept {s0 s : State} (hk0 : Kept s0 s) :
    Kept s0 (State.retryOpens s) := by
  unfold State.retryOpens
  repeat' first
    | with_reducible assumption | (intro x; have hx : Kept s0 x := ?hk; clear_value x; case' hk => subst x)
    | (intro x; subst x) | intro _ | with_reducible apply Kept.ite | with_reducible apply State.modCol_kept
    | with_reducible apply State.each_kept | with_reducible apply State.openStep_kept
    | (rewrite [State.mk_eq_ofB]; with_reducible refine Kept.upd ?_) | lift_lets -underBinder | dsimp -zeta only
    | split

theorem State.applyFlips_kept {s0 s : State} (g : Nat) (hk0 : Kept s0 s) :
    Kept s0 (State.applyFlips s g) := by
  unfold State.applyFlips
  repeat' first
    | with_reducible assumption | (intro x; have hx : Kept s0 x := ?hk; clear_value x; case' hk => subst x)
    | (intro x; subst x) | intro _ | with_reducible apply Kept.ite | with_reducible apply State.applyStaged_kept
    | with_reducible apply State.modStep_kept | (rewrite [State.mk_eq_ofB]; with_reducible refine Kept.upd ?_)
    | lift_lets -underBinder | dsimp -zeta only | split

theorem State.watchCommit_kept {s0 s : State} (g : Nat) (hk0 : Kept s0 s) :
    Kept s0 (State.watchCommit s g) := by
  unfold State.watchCommit
  repeat' first
    | with_reducible assumption | (intro x; have hx : Kept s0 x := ?hk; clear_value x; case' hk => subst x)
    | (intro x; subst x) | intro _ | with_reducible apply Kept.ite
    | (rewrite [State.mk_eq_ofB]; with_reducible refine Kept.upd ?_) | lift_lets -underBinder | dsimp -zeta only
    | split

theorem State.stageMismatch_kept {s0 s : State} (g : Nat) (hk0 : Kept s0 s) :
    KeptQ s0 (State.stageMismatch s g) := by
  unfold State.stageMismatch
  repeat' first
    | with_reducible assumption | (intro x; have hx : Kept s0 x := ?hk; clear_value x; case' hk => subst x)
    | (intro x; subst x) | intro _ | with_reducible apply Kept.ite
    | (rewrite [pairQ_eq]; with_reducible refine KeptQ.mk ?_) | with_reducible apply KeptQ.ite
    | with_reducible apply State.fresh_kept | with_reducible refine Kept.of_snd (by assumption) ?_
    | with_reducible apply KeptQ.snd | lift_lets -underBinder | dsimp -zeta only | split

theorem State.commitStep_kept {s0 s : State} (g : Nat) (r : Release) (hk0 : Kept s0 s) :
    Kept s0 (State.commitStep s g r) := by
  unfold State.commitStep
  repeat' first
    | with_reducible assumption | (intro x; have hx : Kept s0 x := ?hk; clear_value x; case' hk => subst x)
    | (intro x; subst x) | intro _ | with_reducible apply Kept.ite
    | (rewrite [pairQ_eq]; with_reducible refine KeptQ.mk ?_) | with_reducible apply KeptQ.ite
    | with_reducible apply State.stageMismatch_kept | with_reducible apply State.writeTallies_kept
    | with_reducible apply State.modStep_kept | with_reducible apply State.commitSampler_kept
    | with_reducible apply State.expectPieces_kept | with_reducible apply State.watchCommit_kept
    | with_reducible apply State.commitUpdate_kept | with_reducible apply State.applyFlips_kept
    | with_reducible apply State.judge_kept | (rewrite [State.mk_eq_ofB]; with_reducible refine Kept.upd ?_)
    | with_reducible refine Kept.of_snd (by assumption) ?_ | with_reducible apply KeptQ.snd | lift_lets -underBinder
    | dsimp -zeta only | split

theorem State.replayStep_kept {s0 s : State} (g : Nat) (hk0 : Kept s0 s) :
    Kept s0 (State.replayStep s g) := by
  unfold State.replayStep
  repeat' first
    | with_reducible assumption | (intro x; have hx : Kept s0 x := ?hk; clear_value x; case' hk => subst x)
    | (intro x; subst x) | intro _ | with_reducible apply State.each_kept | with_reducible apply State.zeroBuffer_kept
    | with_reducible apply State.modStep_kept | with_reducible apply State.restartReductions_kept
    | with_reducible apply State.clearMerge_kept | with_reducible apply State.bump_kept
    | with_reducible apply State.startAttempt_kept | (rewrite [State.mk_eq_ofB]; with_reducible refine Kept.upd ?_)
    | lift_lets -underBinder | dsimp -zeta only | split

theorem State.forwardRelease_kept {s0 s : State} (g : Nat) (r : Release) (hk0 : Kept s0 s) :
    Kept s0 (State.forwardRelease s g r) := by
  unfold State.forwardRelease
  repeat' first
    | with_reducible assumption | (intro x; have hx : Kept s0 x := ?hk; clear_value x; case' hk => subst x)
    | (intro x; subst x) | intro _ | with_reducible apply Kept.ite | with_reducible apply State.each_kept
    | with_reducible apply State.sendMsg_kept | lift_lets -underBinder | dsimp -zeta only | split

theorem State.takeRelease_kept {s0 s : State} (g : Nat) (r : Release) (hk0 : Kept s0 s) :
    Kept s0 (State.takeRelease s g r) := by
  unfold State.takeRelease
  repeat' first
    | with_reducible assumption | (intro x; have hx : Kept s0 x := ?hk; clear_value x; case' hk => subst x)
    | (intro x; subst x) | intro _ | with_reducible apply Kept.ite | with_reducible apply State.forwardRelease_kept
    | with_reducible apply State.commitStep_kept | with_reducible apply State.replayStep_kept | lift_lets -underBinder
    | dsimp -zeta only | split

theorem State.releaseReceive_kept {s0 s : State} (o : Origin) (r : Release) (hk0 : Kept s0 s) :
    Kept s0 (State.releaseReceive s o r) := by
  unfold State.releaseReceive
  repeat' first
    | with_reducible assumption | with_reducible apply Kept.ite | with_reducible apply State.dropStale_kept
    | with_reducible apply State.takeRelease_kept | split

theorem State.decideCommit_kept {s0 s : State} (g : Nat) (r : Report) (hk0 : Kept s0 s) :
    Kept s0 (State.decideCommit s g r) := by
  unfold State.decideCommit
  repeat' first
    | with_reducible assumption | (intro x; have hx : Kept s0 x := ?hk; clear_value x; case' hk => subst x)
    | (intro x; subst x) | intro _ | with_reducible apply Kept.ite | with_reducible apply KeptP.ite
    | (rewrite [pairP_eq]; with_reducible refine KeptP.mk ?_) | with_reducible apply State.each_kept
    | with_reducible apply State.writeLocal_kept | with_reducible apply State.takeRelease_kept
    | (rewrite [State.mk_eq_ofB]; with_reducible refine Kept.upd ?_)
    | with_reducible refine Kept.of_fst (by assumption) ?_ | with_reducible apply KeptP.fst | lift_lets -underBinder
    | dsimp -zeta only | split

theorem State.sendReport_kept {s0 s : State} (g : Nat) (kind : Nat) (hk0 : Kept s0 s) :
    Kept s0 (State.sendReport s g kind) := by
  unfold State.sendReport
  repeat' first
    | with_reducible assumption | (intro x; have hx : Kept s0 x := ?hk; clear_value x; case' hk => subst x)
    | (intro x; subst x) | intro _ | with_reducible apply Kept.ite | with_reducible apply State.modStep_kept
    | with_reducible apply State.sendMsg_kept | with_reducible apply State.decideCommit_kept
    | with_reducible apply State.takeRelease_kept | (rewrite [State.mk_eq_ofB]; with_reducible refine Kept.upd ?_)
    | lift_lets -underBinder | dsimp -zeta only | split

theorem State.mergeHists_kept {s0 s : State} (g : Nat) (hk0 : Kept s0 s) :
    Kept s0 (State.mergeHists s g) := by
  unfold State.mergeHists
  repeat' first
    | with_reducible assumption | (intro x; have hx : Kept s0 x := ?hk; clear_value x; case' hk => subst x)
    | (intro x; subst x) | intro _ | with_reducible apply Kept.ite | with_reducible apply KeptP.ite
    | (rewrite [pairP_eq]; with_reducible refine KeptP.mk ?_)
    | (rewrite [pairQ_eq]; with_reducible refine KeptQ.mk ?_) | with_reducible apply KeptQ.ite
    | with_reducible apply State.modStep_kept | with_reducible apply State.each_kept
    | with_reducible apply State.mergeWords_kept | with_reducible apply State.colRequest_kept
    | with_reducible apply State.request_kept | with_reducible apply State.modCol_kept
    | with_reducible apply State.bump_kept | with_reducible apply State.sendContribution_kept
    | (rewrite [State.mk_eq_ofB]; with_reducible refine Kept.upd ?_)
    | with_reducible refine Kept.of_fst (by assumption) ?_ | with_reducible apply KeptP.fst
    | with_reducible refine Kept.of_snd (by assumption) ?_ | with_reducible apply KeptQ.snd | lift_lets -underBinder
    | dsimp -zeta only | split

theorem State.tryClean_kept {s0 s : State} (g : Nat) (hk0 : Kept s0 s) :
    Kept s0 (State.tryClean s g) := by
  unfold State.tryClean
  repeat' first
    | with_reducible assumption | (intro x; have hx : Kept s0 x := ?hk; clear_value x; case' hk => subst x)
    | (intro x; subst x) | intro _ | with_reducible apply Kept.ite | with_reducible apply State.mergeHists_kept
    | with_reducible apply State.sendReport_kept | lift_lets -underBinder | dsimp -zeta only | split

theorem State.cleanReport_kept {s0 s : State} (g : Nat) (hk0 : Kept s0 s) :
    Kept s0 (State.cleanReport s g) := by
  unfold State.cleanReport
  repeat' first
    | with_reducible assumption | (intro x; have hx : Kept s0 x := ?hk; clear_value x; case' hk => subst x)
    | (intro x; subst x) | intro _ | with_reducible apply Kept.ite | with_reducible apply State.modStep_kept
    | with_reducible apply State.tryClean_kept | (rewrite [State.mk_eq_ofB]; with_reducible refine Kept.upd ?_)
    | lift_lets -underBinder | dsimp -zeta only | split

theorem State.voidAck_kept {s0 s : State} (g : Nat) (hk0 : Kept s0 s) :
    Kept s0 (State.voidAck s g) := by
  unfold State.voidAck
  repeat' first
    | with_reducible assumption | with_reducible apply Kept.ite | with_reducible apply State.quiesce_kept
    | with_reducible apply State.sendReport_kept | split

theorem State.reportReceive_kept {s0 s : State} (o : Origin) (r : Report) (hk0 : Kept s0 s) :
    Kept s0 (State.reportReceive s o r) := by
  unfold State.reportReceive
  repeat' first
    | with_reducible assumption | (intro x; have hx : Kept s0 x := ?hk; clear_value x; case' hk => subst x)
    | (intro x; subst x) | intro _ | with_reducible apply Kept.ite | with_reducible apply State.dropStale_kept
    | with_reducible apply State.sendMsg_kept | with_reducible apply State.modStep_kept
    | with_reducible apply State.tryClean_kept | with_reducible apply State.sendReport_kept
    | (rewrite [State.mk_eq_ofB]; with_reducible refine Kept.upd ?_) | lift_lets -underBinder | dsimp -zeta only
    | split

theorem State.commitComplete_kept {s0 s : State} (g : Nat) (hk0 : Kept s0 s) :
    Kept s0 (State.commitComplete s g) := by
  unfold State.commitComplete
  repeat' first
    | with_reducible assumption | (intro x; have hx : Kept s0 x := ?hk; clear_value x; case' hk => subst x)
    | (intro x; subst x) | intro _ | with_reducible apply Kept.ite | with_reducible apply State.applyFlips_kept
    | with_reducible apply State.commitFires_kept | with_reducible apply State.modStep_kept
    | with_reducible apply State.retryReads_kept | (rewrite [State.mk_eq_ofB]; with_reducible refine Kept.upd ?_)
    | lift_lets -underBinder | dsimp -zeta only | split

theorem State.modTile_kept {s0 s : State} (t : Nat) (f : TileWatch → TileWatch) (hk0 : Kept s0 s) :
    Kept s0 (State.modTile s t f) := by
  unfold State.modTile
  repeat' first
    | with_reducible assumption | (rewrite [State.mk_eq_ofB]; with_reducible refine Kept.upd ?_) | dsimp -zeta only
    | split

theorem State.modTests_kept {s0 s : State} (f : List FieldTest → List FieldTest) (hk0 : Kept s0 s) :
    Kept s0 (State.modTests s f) := by
  unfold State.modTests
  repeat' first
    | with_reducible assumption | (rewrite [State.mk_eq_ofB]; with_reducible refine Kept.upd ?_) | dsimp -zeta only
    | split

theorem State.excludeTile_kept {s0 s : State} (t : Nat) (hk0 : Kept s0 s) :
    Kept s0 (State.excludeTile s t) := by
  unfold State.excludeTile
  repeat' first
    | with_reducible assumption | (intro x; have hx : Kept s0 x := ?hk; clear_value x; case' hk => subst x)
    | (intro x; subst x) | intro _ | with_reducible apply State.modTile_kept
    | with_reducible apply State.discardTile_kept | with_reducible apply State.record_kept
    | with_reducible apply State.bump_kept | with_reducible apply State.heatOn_kept
    | with_reducible apply State.unstall_kept | with_reducible apply State.judge_kept
    | (rewrite [State.mk_eq_ofB]; with_reducible refine Kept.upd ?_) | lift_lets -underBinder | dsimp -zeta only
    | split

theorem State.recomputeEnds_kept {s0 s : State} (t : Nat) (cls : Nat) (hk0 : Kept s0 s) :
    Kept s0 (State.recomputeEnds s t cls) := by
  unfold State.recomputeEnds
  repeat' first
    | with_reducible assumption | (intro x; have hx : Kept s0 x := ?hk; clear_value x; case' hk => subst x)
    | (intro x; subst x) | intro _ | with_reducible apply Kept.ite | with_reducible apply State.modTile_kept
    | with_reducible apply State.record_kept | with_reducible apply State.corrected_kept
    | with_reducible apply State.bump_kept | with_reducible apply State.heatOn_kept
    | (rewrite [State.mk_eq_ofB]; with_reducible refine Kept.upd ?_) | lift_lets -underBinder | dsimp -zeta only
    | split

theorem State.startRecompute_kept {s0 s : State} (t : Nat) (hk0 : Kept s0 s) :
    Kept s0 (State.startRecompute s t) := by
  unfold State.startRecompute
  repeat' first
    | with_reducible assumption | (intro x; have hx : Kept s0 x := ?hk; clear_value x; case' hk => subst x)
    | (intro x; subst x) | intro _ | with_reducible apply Kept.ite | with_reducible apply State.modTile_kept
    | with_reducible apply State.recomputeEnds_kept | (rewrite [State.mk_eq_ofB]; with_reducible refine Kept.upd ?_)
    | lift_lets -underBinder | dsimp -zeta only | split

theorem State.recomputeDone_kept {s0 s : State} (t : Nat) (cls : Nat) (hk0 : Kept s0 s) :
    Kept s0 (State.recomputeDone s t cls) := by
  unfold State.recomputeDone
  repeat' first
    | with_reducible assumption | with_reducible apply Kept.ite | with_reducible apply State.recomputeEnds_kept
    | split

theorem State.tileMismatch_kept {s0 s : State} (p : AbftPass) (hk0 : Kept s0 s) :
    Kept s0 (State.tileMismatch s p) := by
  unfold State.tileMismatch
  repeat' first
    | with_reducible assumption | (intro x; have hx : Kept s0 x := ?hk; clear_value x; case' hk => subst x)
    | (intro x; subst x) | intro _ | with_reducible apply Kept.ite | with_reducible apply State.modTile_kept
    | with_reducible apply State.startRecompute_kept | with_reducible apply State.excludeTile_kept
    | with_reducible apply State.modTests_kept | (rewrite [State.mk_eq_ofB]; with_reducible refine Kept.upd ?_)
    | lift_lets -underBinder | dsimp -zeta only | split

theorem State.mismatchReport_kept {s0 s : State} (tile : Nat) (hk0 : Kept s0 s) :
    Kept s0 (State.mismatchReport s tile) := by
  unfold State.mismatchReport
  repeat' first
    | with_reducible assumption | (intro x; have hx : Kept s0 x := ?hk; clear_value x; case' hk => subst x)
    | (intro x; subst x) | intro _ | with_reducible apply Kept.ite | with_reducible apply State.abftWhere_kept
    | with_reducible apply State.putReg_kept | with_reducible apply State.record_kept
    | with_reducible apply State.bump_kept | with_reducible apply State.heatOn_kept
    | with_reducible apply State.tileMismatch_kept | with_reducible apply State.originateVoid_kept
    | (rewrite [State.mk_eq_ofB]; with_reducible refine Kept.upd ?_) | lift_lets -underBinder | dsimp -zeta only
    | split

theorem State.tileCtl_kept {s0 s : State} (v : Word) (hk0 : Kept s0 s) :
    Kept s0 (State.tileCtl s v) := by
  unfold State.tileCtl
  repeat' first
    | with_reducible assumption | (intro x; have hx : Kept s0 x := ?hk; clear_value x; case' hk => subst x)
    | (intro x; subst x) | intro _ | with_reducible apply Kept.ite | with_reducible apply State.record_kept
    | with_reducible apply State.excludeTile_kept | with_reducible apply State.modTile_kept
    | (rewrite [State.mk_eq_ofB]; with_reducible refine Kept.upd ?_) | lift_lets -underBinder | dsimp -zeta only
    | split

theorem State.watchRegrove_kept {s0 s : State} (t : Nat) (hk0 : Kept s0 s) :
    Kept s0 (State.watchRegrove s t) := by
  unfold State.watchRegrove
  repeat' first
    | with_reducible assumption | intro _ | with_reducible apply Kept.ite | with_reducible apply State.modTile_kept
    | (rewrite [State.mk_eq_ofB]; with_reducible refine Kept.upd ?_) | dsimp -zeta only | split

theorem State.refuseFt_kept {s0 s : State} (q : Nat) (i : Nat) (hk0 : Kept s0 s) :
    Kept s0 (State.refuseFt s q i) := by
  unfold State.refuseFt
  repeat' first
    | with_reducible assumption | with_reducible apply Kept.ite | with_reducible apply State.badCommand_kept | split

theorem State.ftRun_kept {s0 s : State} (q : Nat) (i : Nat) (hk0 : Kept s0 s) :
    Kept s0 (State.ftRun s q i) := by
  unfold State.ftRun
  repeat' first
    | with_reducible assumption | (intro x; have hx : Kept s0 x := ?hk; clear_value x; case' hk => subst x)
    | (intro x; subst x) | intro _ | with_reducible apply Kept.ite | with_reducible apply State.start_kept
    | with_reducible apply State.refuseFt_kept | with_reducible apply State.modTests_kept
    | (rewrite [State.mk_eq_ofB]; with_reducible refine Kept.upd ?_) | lift_lets -underBinder | dsimp -zeta only
    | split

theorem State.abortTest_kept {s0 s : State} (f : FieldTest) (hk0 : Kept s0 s) :
    Kept s0 (State.abortTest s f) := by
  unfold State.abortTest
  repeat' first
    | with_reducible assumption | (intro x; have hx : Kept s0 x := ?hk; clear_value x; case' hk => subst x)
    | (intro x; subst x) | intro _ | with_reducible apply Kept.ite | with_reducible apply State.modTests_kept
    | with_reducible apply State.complete_kept | with_reducible apply State.modTile_kept
    | with_reducible apply State.spxClear_kept | with_reducible apply State.zeroChannel_kept
    | (rewrite [State.mk_eq_ofB]; with_reducible refine Kept.upd ?_) | lift_lets -underBinder | dsimp -zeta only
    | split

theorem State.abortTests_kept {s0 s : State} (p : FieldTest → Bool) (hk0 : Kept s0 s) :
    Kept s0 (State.abortTests s p) := by
  unfold State.abortTests
  repeat' first
    | with_reducible assumption | intro _ | with_reducible apply State.each_kept
    | with_reducible apply State.abortTest_kept | dsimp -zeta only | split

theorem State.ftAbort_kept {s0 s : State} (q : Nat) (i : Nat) (hk0 : Kept s0 s) :
    Kept s0 (State.ftAbort s q i) := by
  unfold State.ftAbort
  repeat' first
    | with_reducible assumption | (intro x; have hx : Kept s0 x := ?hk; clear_value x; case' hk => subst x)
    | (intro x; subst x) | intro _ | with_reducible apply Kept.ite | with_reducible apply State.start_kept
    | with_reducible apply State.refuseFt_kept | with_reducible apply State.abortTest_kept
    | with_reducible apply State.complete_kept | lift_lets -underBinder | dsimp -zeta only | split

theorem State.ftDone_kept {s0 s : State} (die : Nat) (kind : Nat) (object : Nat) (r : FtResult) (hk0 : Kept s0 s) :
    Kept s0 (State.ftDone s die kind object r) := by
  unfold State.ftDone
  repeat' first
    | with_reducible assumption | (intro x; have hx : Kept s0 x := ?hk; clear_value x; case' hk => subst x)
    | (intro x; subst x) | intro _ | with_reducible apply Kept.ite | with_reducible apply State.modTests_kept
    | with_reducible apply State.bump_kept | with_reducible apply State.spxClear_kept
    | with_reducible apply State.zeroChannel_kept | with_reducible apply State.modTile_kept
    | with_reducible apply State.record_kept | with_reducible apply State.heatOn_kept
    | with_reducible apply State.complete_kept | (rewrite [State.mk_eq_ofB]; with_reducible refine Kept.upd ?_)
    | lift_lets -underBinder | dsimp -zeta only | split

theorem State.writeTail_kept {s0 s : State} (v : Word) (hk0 : Kept s0 s) :
    Kept s0 (State.writeTail s v) := by
  unfold State.writeTail
  repeat' first
    | with_reducible assumption | (intro x; have hx : Kept s0 x := ?hk; clear_value x; case' hk => subst x)
    | (intro x; subst x) | intro _ | with_reducible apply Kept.ite | with_reducible apply State.softWrite_kept
    | with_reducible apply State.record_kept | (rewrite [State.mk_eq_ofB]; with_reducible refine Kept.upd ?_)
    | lift_lets -underBinder | dsimp -zeta only | split

theorem State.writeLogState_kept {s0 s : State} (v : Word) (hk0 : Kept s0 s) :
    Kept s0 (State.writeLogState s v) := by
  unfold State.writeLogState
  repeat' first
    | with_reducible assumption | with_reducible apply Kept.ite | with_reducible apply State.putReg_kept | split

theorem State.portsOff_kept {s0 s : State} (hk0 : Kept s0 s) :
    Kept s0 (State.portsOff s) := by
  unfold State.portsOff
  repeat' first
    | with_reducible assumption | intro _ | with_reducible apply Kept.ite | with_reducible apply State.each_kept
    | with_reducible apply State.portOff_kept | dsimp -zeta only | split

theorem State.linksDown_kept {s0 s : State} (hk0 : Kept s0 s) :
    Kept s0 (State.linksDown s) := by
  unfold State.linksDown
  repeat' first
    | with_reducible assumption | (rewrite [State.mk_eq_ofB]; with_reducible refine Kept.upd ?_) | dsimp -zeta only
    | split

theorem State.recoverResult_kept {s0 s : State} (n : Nat) (hk0 : Kept s0 s) :
    Kept s0 (State.recoverResult s n) := by
  unfold State.recoverResult
  repeat' first
    | with_reducible assumption | with_reducible apply State.putFld_kept | split

theorem State.recoverRefused_kept {s0 s : State} (op : Nat) (n : Nat) (hk0 : Kept s0 s) :
    Kept s0 (State.recoverRefused s op n) := by
  unfold State.recoverRefused
  repeat' first
    | with_reducible assumption | with_reducible apply State.recoverResult_kept
    | with_reducible apply State.record_kept | split

theorem State.strikeFiring_kept {s0 s : State} (g : Nat) (hk0 : Kept s0 s) :
    Kept s0 (State.strikeFiring s g) := by
  unfold State.strikeFiring
  repeat' first
    | with_reducible assumption | (intro x; have hx : Kept s0 x := ?hk; clear_value x; case' hk => subst x)
    | (intro x; subst x) | intro _ | with_reducible apply Kept.ite | with_reducible apply State.abortFiring_kept
    | with_reducible apply State.modCol_kept | with_reducible apply State.each_kept
    | with_reducible apply State.complete_kept | (rewrite [State.mk_eq_ofB]; with_reducible refine Kept.upd ?_)
    | lift_lets -underBinder | dsimp -zeta only | split

theorem State.dropBatch_kept {s0 s : State} (hk0 : Kept s0 s) :
    Kept s0 (State.dropBatch s) := by
  unfold State.dropBatch
  repeat' first
    | with_reducible assumption | (intro x; have hx : Kept s0 x := ?hk; clear_value x; case' hk => subst x)
    | (intro x; subst x) | intro _ | with_reducible apply Kept.ite | with_reducible apply State.each_kept
    | with_reducible apply State.modChannel_kept | (rewrite [State.mk_eq_ofB]; with_reducible refine Kept.upd ?_)
    | lift_lets -underBinder | dsimp -zeta only | split

theorem State.ashEntry_kept {s0 s : State} (ctrlUe : Bool) (overtemp : Bool) (hk0 : Kept s0 s) :
    Kept s0 (State.ashEntry s ctrlUe overtemp) := by
  unfold State.ashEntry
  repeat' first
    | with_reducible assumption | (intro x; have hx : Kept s0 x := ?hk; clear_value x; case' hk => subst x)
    | (intro x; subst x) | intro _ | split | with_reducible apply Kept.ite
    | with_reducible apply State.recoverRefused_kept | with_reducible apply State.each_kept
    | with_reducible apply State.strikeFiring_kept | with_reducible apply State.flushBuffers_kept
    | with_reducible apply State.portsOff_kept | with_reducible apply State.linksDown_kept
    | with_reducible apply State.dropBatch_kept | with_reducible apply State.putFld_kept
    | (rewrite [State.mk_eq_ofB]; with_reducible refine Kept.updW ?_ id id (Nat.le_refl _) (Nat.le_refl _) (List.prefix_refl _) (Nat.le_refl _) (Nat.le_refl _) (fun _ => StartState.right_ash _ _))
    | (rewrite [State.mk_eq_ofB]; with_reducible refine Kept.updW ?_ id id (Nat.le_refl _) (Nat.le_refl _) (List.prefix_refl _) (Nat.le_refl _) (Nat.le_refl _) (StartState.right_therm _ (by assumption)))
    | (rewrite [State.mk_eq_ofB]; with_reducible refine Kept.upd ?_) | lift_lets -underBinder | dsimp -zeta only
    | split

theorem State.fatal_kept {s0 s : State} (src : Src) (die : Nat) (code : Nat) (grove : Option Nat) (detail : Nat) (hk0 : Kept s0 s) :
    Kept s0 (State.fatal s src die code grove detail) := by
  unfold State.fatal
  repeat' first
    | with_reducible assumption | (intro x; have hx : Kept s0 x := ?hk; clear_value x; case' hk => subst x)
    | (intro x; subst x) | intro _ | with_reducible apply State.record_kept | with_reducible apply State.ashEntry_kept
    | lift_lets -underBinder | dsimp -zeta only | split

theorem State.endOfTask_kept {s0 s : State} (tile : Nat) (slot : Nat) (r : UnitReport) (hk0 : Kept s0 s) :
    Kept s0 (State.endOfTask s tile slot r) := by
  unfold State.endOfTask
  repeat' first
    | with_reducible assumption | with_reducible apply Kept.ite | with_reducible apply State.fatal_kept
    | with_reducible apply State.taskEnd_kept | split

end Sys2Proof.Machine
end

