-- ==== Sys2Proof/Laws/KeptClocks.lean ====
section
/-! SUPPORT. What the operations of Machine/Clocks, LinkEvents, MemCtl, KilnEnd keep: `Kept`, one lemma each. -/
set_option Elab.async false
set_option linter.unusedTactic false
set_option linter.unreachableTactic false
set_option linter.unnecessarySeqFocus false
namespace Sys2Proof.Machine

theorem State.modClk_kept {s0 s : State} (f : ClockState → ClockState) (hk0 : Kept s0 s) :
    Kept s0 (State.modClk s f) := by
  unfold State.modClk
  repeat' first
    | with_reducible assumption | (rewrite [State.mk_eq_ofB]; with_reducible refine Kept.upd ?_) | dsimp -zeta only
    | split

theorem State.clkRecord_kept {s0 s : State} (sev : Sev) (die : Nat) (code : Nat) (item : Nat) (value : Nat) (hk0 : Kept s0 s) :
    Kept s0 (State.clkRecord s sev die code item value) := by
  unfold State.clkRecord
  repeat' first
    | with_reducible assumption | (intro x; have hx : Kept s0 x := ?hk; clear_value x; case' hk => subst x)
    | (intro x; subst x) | intro _ | with_reducible apply Kept.ite | with_reducible apply State.putReg_kept
    | with_reducible apply State.fatal_kept | with_reducible apply State.record_kept | lift_lets -underBinder
    | dsimp -zeta only | split

theorem State.pwrRecord_kept {s0 s : State} (sev : Sev) (die : Nat) (code : Nat) (item : Nat) (value : Nat) (hk0 : Kept s0 s) :
    Kept s0 (State.pwrRecord s sev die code item value) := by
  unfold State.pwrRecord
  repeat' first
    | with_reducible assumption | (intro x; have hx : Kept s0 x := ?hk; clear_value x; case' hk => subst x)
    | (intro x; subst x) | intro _ | with_reducible apply Kept.ite | with_reducible apply State.putReg_kept
    | with_reducible apply State.fatal_kept | with_reducible apply State.record_kept | lift_lets -underBinder
    | dsimp -zeta only | split

theorem State.modDvfs_kept {s0 s : State} (d : Nat) (f : Dvfs → Dvfs) (hk0 : Kept s0 s) :
    Kept s0 (State.modDvfs s d f) := by
  unfold State.modDvfs
  repeat' first
    | with_reducible assumption | intro _ | with_reducible apply State.modClk_kept
    | (rewrite [State.mk_eq_ofB]; with_reducible refine Kept.upd ?_) | dsimp -zeta only | split

theorem State.modTherm_kept {s0 s : State} (d : Nat) (f : Therm → Therm) (hk0 : Kept s0 s) :
    Kept s0 (State.modTherm s d f) := by
  unfold State.modTherm
  repeat' first
    | with_reducible assumption | intro _ | with_reducible apply State.modClk_kept
    | (rewrite [State.mk_eq_ofB]; with_reducible refine Kept.upd ?_) | dsimp -zeta only | split

theorem State.retarget_kept {s0 s : State} (d : Nat) (hk0 : Kept s0 s) :
    Kept s0 (State.retarget s d) := by
  unfold State.retarget
  repeat' first
    | with_reducible assumption | (intro x; have hx : Kept s0 x := ?hk; clear_value x; case' hk => subst x)
    | (intro x; subst x) | intro _ | with_reducible apply Kept.ite | with_reducible apply State.modDvfs_kept
    | (rewrite [State.mk_eq_ofB]; with_reducible refine Kept.upd ?_) | lift_lets -underBinder | dsimp -zeta only
    | split

theorem State.retargetAll_kept {s0 s : State} (hk0 : Kept s0 s) :
    Kept s0 (State.retargetAll s) := by
  unfold State.retargetAll
  repeat' first
    | with_reducible assumption | with_reducible apply State.retarget_kept | split

theorem State.endTransition_kept {s0 s : State} (d : Nat) (hk0 : Kept s0 s) :
    Kept s0 (State.endTransition s d) := by
  unfold State.endTransition
  repeat' first
    | with_reducible assumption | intro _ | with_reducible apply State.modDvfs_kept
    | with_reducible apply State.bump_kept | with_reducible apply State.retarget_kept
    | (rewrite [State.mk_eq_ofB]; with_reducible refine Kept.upd ?_) | dsimp -zeta only | split

theorem State.pllLocked_kept {s0 s : State} (d : Nat) (hk0 : Kept s0 s) :
    Kept s0 (State.pllLocked s d) := by
  unfold State.pllLocked
  repeat' first
    | with_reducible assumption | (intro x; have hx : Kept s0 x := ?hk; clear_value x; case' hk => subst x)
    | (intro x; subst x) | intro _ | with_reducible apply Kept.ite | with_reducible apply State.modDvfs_kept
    | with_reducible apply State.endTransition_kept | (rewrite [State.mk_eq_ofB]; with_reducible refine Kept.upd ?_)
    | lift_lets -underBinder | dsimp -zeta only | split

theorem State.voltageSettled_kept {s0 s : State} (d : Nat) (hk0 : Kept s0 s) :
    Kept s0 (State.voltageSettled s d) := by
  unfold State.voltageSettled
  repeat' first
    | with_reducible assumption | (intro x; have hx : Kept s0 x := ?hk; clear_value x; case' hk => subst x)
    | (intro x; subst x) | intro _ | with_reducible apply Kept.ite | with_reducible apply State.endTransition_kept
    | with_reducible apply State.modDvfs_kept | (rewrite [State.mk_eq_ofB]; with_reducible refine Kept.upd ?_)
    | lift_lets -underBinder | dsimp -zeta only | split

theorem State.writeOpReq_kept {s0 s : State} (d : Nat) (v : Word) (hk0 : Kept s0 s) :
    Kept s0 (State.writeOpReq s d v) := by
  unfold State.writeOpReq
  repeat' first
    | with_reducible assumption | with_reducible apply State.softWrite_kept | with_reducible apply State.retarget_kept
    | split

theorem State.bank_kept {s0 s : State} (hk0 : Kept s0 s) :
    Kept s0 (State.bank s) := by
  unfold State.bank
  repeat' first
    | with_reducible assumption | (intro x; have hx : Kept s0 x := ?hk; clear_value x; case' hk => subst x)
    | (intro x; subst x) | intro _ | with_reducible apply State.modClk_kept | with_reducible apply State.putReg_kept
    | with_reducible apply State.portsOff_kept | with_reducible apply State.linksDown_kept
    | with_reducible apply State.abortTests_kept | (rewrite [State.mk_eq_ofB]; with_reducible refine Kept.upd ?_)
    | lift_lets -underBinder | dsimp -zeta only | split

theorem State.clockLost_kept {s0 s : State} (item : Nat) (hk0 : Kept s0 s) :
    Kept s0 (State.clockLost s item) := by
  unfold State.clockLost
  repeat' first
    | with_reducible assumption | with_reducible apply Kept.ite | with_reducible apply State.bank_kept
    | with_reducible apply State.clkRecord_kept | with_reducible apply State.service_kept
    | with_reducible apply State.fatal_kept | split

theorem State.refClockLost_kept {s0 s : State} (item : Nat) (hk0 : Kept s0 s) :
    Kept s0 (State.refClockLost s item) := by
  unfold State.refClockLost
  repeat' first
    | with_reducible assumption | with_reducible apply Kept.ite | with_reducible apply State.bank_kept
    | with_reducible apply State.clkRecord_kept | with_reducible apply State.service_kept
    | with_reducible apply State.fatal_kept | split

theorem State.refLost_kept {s0 s : State} (source : Nat) (item : Nat) (hk0 : Kept s0 s) :
    Kept s0 (State.refLost s source item) := by
  unfold State.refLost
  repeat' first
    | with_reducible assumption | (intro x; have hx : Kept s0 x := ?hk; clear_value x; case' hk => subst x)
    | (intro x; subst x) | intro _ | with_reducible apply Kept.ite | with_reducible apply State.modClk_kept
    | with_reducible apply State.service_kept | with_reducible apply State.bump_kept
    | with_reducible apply State.clkRecord_kept | with_reducible apply State.refClockLost_kept
    | (rewrite [State.mk_eq_ofB]; with_reducible refine Kept.upd ?_) | lift_lets -underBinder | dsimp -zeta only
    | split

theorem State.takeSelection_kept {s0 s : State} (hk0 : Kept s0 s) :
    Kept s0 (State.takeSelection s) := by
  unfold State.takeSelection
  repeat' first
    | with_reducible assumption | (intro x; have hx : Kept s0 x := ?hk; clear_value x; case' hk => subst x)
    | (intro x; subst x) | intro _ | with_reducible apply Kept.ite | with_reducible apply State.modClk_kept
    | (rewrite [State.mk_eq_ofB]; with_reducible refine Kept.upd ?_) | lift_lets -underBinder | dsimp -zeta only
    | split

theorem State.switchDone_kept {s0 s : State} (hk0 : Kept s0 s) :
    Kept s0 (State.switchDone s) := by
  unfold State.switchDone
  repeat' first
    | with_reducible assumption | intro _ | with_reducible apply State.modClk_kept
    | with_reducible apply State.takeSelection_kept | (rewrite [State.mk_eq_ofB]; with_reducible refine Kept.upd ?_)
    | dsimp -zeta only | split

theorem State.setRef_kept {s0 s : State} (source : Nat) (r : RefState) (hk0 : Kept s0 s) :
    Kept s0 (State.setRef s source r) := by
  unfold State.setRef
  repeat' first
    | with_reducible assumption | intro _ | with_reducible apply Kept.ite | with_reducible apply State.modClk_kept
    | (rewrite [State.mk_eq_ofB]; with_reducible refine Kept.upd ?_) | dsimp -zeta only | split

theorem State.leaveGood_kept {s0 s : State} (source : Nat) (r : RefState) (hk0 : Kept s0 s) :
    Kept s0 (State.leaveGood s source r) := by
  unfold State.leaveGood
  repeat' first
    | with_reducible assumption | (intro x; have hx : Kept s0 x := ?hk; clear_value x; case' hk => subst x)
    | (intro x; subst x) | intro _ | with_reducible apply Kept.ite | with_reducible apply State.setRef_kept
    | with_reducible apply State.modClk_kept | with_reducible apply State.refLost_kept
    | (rewrite [State.mk_eq_ofB]; with_reducible refine Kept.upd ?_) | lift_lets -underBinder | dsimp -zeta only
    | split

theorem State.edgeDetect_kept {s0 s : State} (source : Nat) (hk0 : Kept s0 s) :
    Kept s0 (State.edgeDetect s source) := by
  unfold State.edgeDetect
  repeat' first
    | with_reducible assumption | with_reducible apply Kept.ite | with_reducible apply State.setRef_kept
    | (rewrite [State.mk_eq_ofB]; with_reducible refine Kept.upd ?_) | dsimp -zeta only | split

theorem State.edgeLoss_kept {s0 s : State} (source : Nat) (hk0 : Kept s0 s) :
    Kept s0 (State.edgeLoss s source) := by
  unfold State.edgeLoss
  repeat' first
    | with_reducible assumption | with_reducible apply Kept.ite | with_reducible apply State.leaveGood_kept
    | (rewrite [State.mk_eq_ofB]; with_reducible refine Kept.upd ?_) | dsimp -zeta only | split

theorem State.qualWindow_kept {s0 s : State} (source : Nat) (hz : Nat) (locked : Bool) (hk0 : Kept s0 s) :
    Kept s0 (State.qualWindow s source hz locked) := by
  unfold State.qualWindow
  repeat' first
    | with_reducible assumption | (intro x; have hx : Kept s0 x := ?hk; clear_value x; case' hk => subst x)
    | (intro x; subst x) | intro _ | with_reducible apply Kept.ite | with_reducible apply State.setRef_kept
    | with_reducible apply State.takeSelection_kept | with_reducible apply State.bump_kept
    | with_reducible apply State.leaveGood_kept | (rewrite [State.mk_eq_ofB]; with_reducible refine Kept.upd ?_)
    | lift_lets -underBinder | dsimp -zeta only | split

theorem State.refPortCheck_kept {s0 s : State} (hk0 : Kept s0 s) :
    Kept s0 (State.refPortCheck s) := by
  unfold State.refPortCheck
  repeat' first
    | with_reducible assumption | (intro x; have hx : Kept s0 x := ?hk; clear_value x; case' hk => subst x)
    | (intro x; subst x) | intro _ | with_reducible apply Kept.ite | with_reducible apply State.edgeLoss_kept
    | lift_lets -underBinder | dsimp -zeta only | split

theorem State.crossCheck_kept {s0 s : State} (off : Int) (hk0 : Kept s0 s) :
    Kept s0 (State.crossCheck s off) := by
  unfold State.crossCheck
  repeat' first
    | with_reducible assumption | (intro x; have hx : Kept s0 x := ?hk; clear_value x; case' hk => subst x)
    | (intro x; subst x) | intro _ | with_reducible apply Kept.ite | with_reducible apply State.putFld_kept
    | with_reducible apply State.modClk_kept | with_reducible apply State.clkRecord_kept
    | (rewrite [State.mk_eq_ofB]; with_reducible refine Kept.upd ?_) | lift_lets -underBinder | dsimp -zeta only
    | split

theorem State.writeRefSel_kept {s0 s : State} (v : Word) (hk0 : Kept s0 s) :
    Kept s0 (State.writeRefSel s v) := by
  unfold State.writeRefSel
  repeat' first
    | with_reducible assumption | (intro x; have hx : Kept s0 x := ?hk; clear_value x; case' hk => subst x)
    | (intro x; subst x) | intro _ | with_reducible apply Kept.ite | with_reducible apply State.clkRecord_kept
    | with_reducible apply State.softWrite_kept | with_reducible apply State.modClk_kept
    | with_reducible apply State.takeSelection_kept | (rewrite [State.mk_eq_ofB]; with_reducible refine Kept.upd ?_)
    | lift_lets -underBinder | dsimp -zeta only | split

theorem State.pllUnlock_kept {s0 s : State} (pll : Nat) (hk0 : Kept s0 s) :
    Kept s0 (State.pllUnlock s pll) := by
  unfold State.pllUnlock
  repeat' first
    | with_reducible assumption | (intro x; have hx : Kept s0 x := ?hk; clear_value x; case' hk => subst x)
    | (intro x; subst x) | intro _ | with_reducible apply Kept.ite | with_reducible apply State.putFld_kept
    | with_reducible apply State.bump_kept | with_reducible apply State.clockLost_kept | lift_lets -underBinder
    | dsimp -zeta only | split

theorem State.relock_kept {s0 s : State} (hk0 : Kept s0 s) :
    Kept s0 (State.relock s) := by
  unfold State.relock
  repeat' first
    | with_reducible assumption | (intro x; have hx : Kept s0 x := ?hk; clear_value x; case' hk => subst x)
    | (intro x; subst x) | intro _ | with_reducible apply Kept.ite | with_reducible apply State.modClk_kept
    | with_reducible apply State.putReg_kept | with_reducible apply State.retargetAll_kept
    | (rewrite [State.mk_eq_ofB]; with_reducible refine Kept.upd ?_) | lift_lets -underBinder | dsimp -zeta only
    | split

theorem State.monitor_kept {s0 s : State} (i : Island) (khz : Nat) (unanswered : Bool) (hk0 : Kept s0 s) :
    Kept s0 (State.monitor s i khz unanswered) := by
  unfold State.monitor
  repeat' first
    | with_reducible assumption | (intro x; have hx : Kept s0 x := ?hk; clear_value x; case' hk => subst x)
    | (intro x; subst x) | intro _ | with_reducible apply Kept.ite | with_reducible apply State.clkRecord_kept
    | with_reducible apply State.fatal_kept | lift_lets -underBinder | dsimp -zeta only | split

theorem State.loseStacks_kept {s0 s : State} (hk0 : Kept s0 s) : Kept s0 s.loseStacks :=
  ⟨hk0.pending, fun _ => rfl, hk0.scratch, hk0.rollback, hk0.lms, hk0.outbox, hk0.free, Nat.le_succ_of_le hk0.epoch,
    hk0.outputs⟩

theorem State.railOne_kept {s0 s : State} (inWindow : Nat) (reading : Nat) (b : Nat) (hk0 : Kept s0 s) :
    Kept s0 (State.railOne s inWindow reading b) := by
  unfold State.railOne
  repeat' first
    | with_reducible assumption | (intro x; have hx : Kept s0 x := ?hk; clear_value x; case' hk => subst x)
    | (intro x; subst x) | intro _ | with_reducible apply Kept.ite | with_reducible apply State.modClk_kept
    | with_reducible apply State.pwrRecord_kept | with_reducible apply State.fatal_kept
    | with_reducible apply State.loseStacks_kept | (rewrite [State.mk_eq_ofB]; with_reducible refine Kept.upd ?_)
    | lift_lets -underBinder | dsimp -zeta only | split

theorem State.railSample_kept {s0 s : State} (inWindow : Nat) (reading : Nat) (hk0 : Kept s0 s) :
    Kept s0 (State.railSample s inWindow reading) := by
  unfold State.railSample
  repeat' first
    | with_reducible assumption | (intro x; have hx : Kept s0 x := ?hk; clear_value x; case' hk => subst x)
    | (intro x; subst x) | intro _ | with_reducible apply Kept.ite | with_reducible apply State.putReg_kept
    | with_reducible apply State.modClk_kept | with_reducible apply State.each_kept
    | with_reducible apply State.railOne_kept | with_reducible apply State.bank_kept
    | (rewrite [State.mk_eq_ofB]; with_reducible refine Kept.upd ?_) | lift_lets -underBinder | dsimp -zeta only
    | split

theorem State.shutdown_kept {s0 s : State} (hk0 : Kept s0 s) :
    Kept s0 (State.shutdown s) := by
  unfold State.shutdown
  repeat' first
    | with_reducible assumption | (intro x; have hx : Kept s0 x := ?hk; clear_value x; case' hk => subst x)
    | (intro x; subst x) | intro _ | with_reducible apply State.modClk_kept | with_reducible apply State.putReg_kept
    | with_reducible apply State.loseStacks_kept | (rewrite [State.mk_eq_ofB]; with_reducible refine Kept.upd ?_)
    | lift_lets -underBinder | dsimp -zeta only | split

theorem State.vinOut_kept {s0 s : State} (v : Nat) (hk0 : Kept s0 s) :
    Kept s0 (State.vinOut s v) := by
  unfold State.vinOut
  repeat' first
    | with_reducible assumption | (intro x; have hx : Kept s0 x := ?hk; clear_value x; case' hk => subst x)
    | (intro x; subst x) | intro _ | with_reducible apply Kept.ite | with_reducible apply State.modClk_kept
    | with_reducible apply State.putFld_kept | with_reducible apply State.pwrRecord_kept
    | with_reducible apply State.fatal_kept | with_reducible apply State.shutdown_kept
    | (rewrite [State.mk_eq_ofB]; with_reducible refine Kept.upd ?_) | lift_lets -underBinder | dsimp -zeta only
    | split

theorem State.tlmFrame_kept {s0 s : State} (voltage : Nat) (current : Nat) (fault : Bool) (hk0 : Kept s0 s) :
    Kept s0 (State.tlmFrame s voltage current fault) := by
  unfold State.tlmFrame
  repeat' first
    | with_reducible assumption | (intro x; have hx : Kept s0 x := ?hk; clear_value x; case' hk => subst x)
    | (intro x; subst x) | intro _ | with_reducible apply Kept.ite | with_reducible apply State.putFld_kept
    | with_reducible apply State.modClk_kept | (rewrite [State.mk_eq_ofB]; with_reducible refine Kept.upd ?_)
    | lift_lets -underBinder | dsimp -zeta only | split

theorem State.ctrlLink_kept {s0 s : State} (f : ClockState → ClockState) (hk0 : Kept s0 s) :
    Kept s0 (State.ctrlLink s f) := by
  unfold State.ctrlLink
  repeat' first
    | with_reducible assumption | with_reducible apply Kept.ite | with_reducible apply State.modClk_kept
    | with_reducible apply State.pwrRecord_kept | with_reducible apply State.fatal_kept | split

theorem State.powerGood_kept {s0 s : State} (hk0 : Kept s0 s) :
    Kept s0 (State.powerGood s) := by
  unfold State.powerGood
  repeat' first
    | with_reducible assumption | intro _ | with_reducible apply Kept.ite | with_reducible apply State.modClk_kept
    | with_reducible apply State.putFld_kept | (rewrite [State.mk_eq_ofB]; with_reducible refine Kept.upd ?_)
    | dsimp -zeta only | split

theorem State.dieTemp_kept {s0 s : State} (d : Nat) (r : Option Int) (sensor : Nat) (unreadable : Nat) (hk0 : Kept s0 s) :
    Kept s0 (State.dieTemp s d r sensor unreadable) := by
  unfold State.dieTemp
  repeat' first
    | with_reducible assumption | (intro x; have hx : Kept s0 x := ?hk; clear_value x; case' hk => subst x)
    | (intro x; subst x) | intro _ | with_reducible apply Kept.ite | with_reducible apply State.putReg_kept
    | with_reducible apply State.modTherm_kept | with_reducible apply State.pwrRecord_kept
    | with_reducible apply State.retargetAll_kept | with_reducible apply State.putFld_kept
    | with_reducible apply State.corrected_kept | with_reducible apply State.fatal_kept
    | (rewrite [State.mk_eq_ofB]; with_reducible refine Kept.upd ?_) | lift_lets -underBinder | dsimp -zeta only
    | split

theorem State.clampStep_kept {s0 s : State} (d : Nat) (hk0 : Kept s0 s) :
    Kept s0 (State.clampStep s d) := by
  unfold State.clampStep
  repeat' first
    | with_reducible assumption | (intro x; have hx : Kept s0 x := ?hk; clear_value x; case' hk => subst x)
    | (intro x; subst x) | intro _ | with_reducible apply Kept.ite | with_reducible apply State.modTherm_kept
    | with_reducible apply State.retarget_kept | (rewrite [State.mk_eq_ofB]; with_reducible refine Kept.upd ?_)
    | lift_lets -underBinder | dsimp -zeta only | split

theorem State.capAverage_kept {s0 s : State} (w : Nat) (hk0 : Kept s0 s) :
    Kept s0 (State.capAverage s w) := by
  unfold State.capAverage
  repeat' first
    | with_reducible assumption | (intro x; have hx : Kept s0 x := ?hk; clear_value x; case' hk => subst x)
    | (intro x; subst x) | intro _ | with_reducible apply Kept.ite | with_reducible apply State.putFld_kept
    | with_reducible apply State.modClk_kept | with_reducible apply State.pwrRecord_kept
    | with_reducible apply State.corrected_kept | with_reducible apply State.retargetAll_kept
    | (rewrite [State.mk_eq_ofB]; with_reducible refine Kept.upd ?_) | lift_lets -underBinder | dsimp -zeta only
    | split

theorem State.overcurrent_kept {s0 s : State} (hk0 : Kept s0 s) :
    Kept s0 (State.overcurrent s) := by
  unfold State.overcurrent
  repeat' first
    | with_reducible assumption | (intro x; have hx : Kept s0 x := ?hk; clear_value x; case' hk => subst x)
    | (intro x; subst x) | intro _ | with_reducible apply State.bump_kept | with_reducible apply State.pwrRecord_kept
    | with_reducible apply State.corrected_kept | with_reducible apply State.modClk_kept
    | with_reducible apply State.retargetAll_kept | (rewrite [State.mk_eq_ofB]; with_reducible refine Kept.upd ?_)
    | lift_lets -underBinder | dsimp -zeta only | split

theorem State.droopRelease_kept {s0 s : State} (hk0 : Kept s0 s) :
    Kept s0 (State.droopRelease s) := by
  unfold State.droopRelease
  repeat' first
    | with_reducible assumption | intro _ | with_reducible apply State.modClk_kept
    | with_reducible apply State.retargetAll_kept | (rewrite [State.mk_eq_ofB]; with_reducible refine Kept.upd ?_)
    | dsimp -zeta only | split

theorem State.writeCap_kept {s0 s : State} (v : Word) (hk0 : Kept s0 s) :
    Kept s0 (State.writeCap s v) := by
  unfold State.writeCap
  repeat' first
    | with_reducible assumption | (intro x; have hx : Kept s0 x := ?hk; clear_value x; case' hk => subst x)
    | (intro x; subst x) | intro _ | with_reducible apply Kept.ite | with_reducible apply State.pwrRecord_kept
    | with_reducible apply State.softWrite_kept | with_reducible apply State.modClk_kept
    | with_reducible apply State.retargetAll_kept | (rewrite [State.mk_eq_ofB]; with_reducible refine Kept.upd ?_)
    | lift_lets -underBinder | dsimp -zeta only | split

theorem State.writeTherm_kept {s0 s : State} (v : Word) (hk0 : Kept s0 s) :
    Kept s0 (State.writeTherm s v) := by
  unfold State.writeTherm
  repeat' first
    | with_reducible assumption | with_reducible apply Kept.ite | with_reducible apply State.pwrRecord_kept
    | with_reducible apply State.softWrite_kept | split

theorem State.smoulderEnter_kept {s0 s : State} (hk0 : Kept s0 s) :
    Kept s0 (State.smoulderEnter s) := by
  unfold State.smoulderEnter
  repeat' first
    | with_reducible assumption | with_reducible apply Kept.ite | with_reducible apply State.putFld_kept
    | with_reducible apply State.portsOff_kept | with_reducible apply State.pwrRecord_kept | split

theorem Kept.sup {s0 s : State} {x : StartState} (hk0 : Kept s0 s) (h : s.sup.right → x.right) :
    Kept s0 { s with sup := x } := by
  rewrite [State.mk_eq_ofB]
  exact hk0.updW id id (Nat.le_refl _) (Nat.le_refl _) (List.prefix_refl _) (Nat.le_refl _)
    (Nat.le_refl _) h

theorem State.smoulderEntered_kept {s0 s : State} (hk0 : Kept s0 s) : Kept s0 s.smoulderEntered := by
  unfold State.smoulderEntered
  split
  · rename_i h
    simp only [Bool.and_eq_true, beq_iff_eq] at h
    exact State.refPortCheck_kept (Kept.sup (State.modClk_kept _ (State.putFld_kept _ _ _ _ _ hk0))
      (StartState.right_smoulder h.1))
  · exact hk0

theorem State.smoulderLeave_kept {s0 s : State} (hk0 : Kept s0 s) :
    Kept s0 (State.smoulderLeave s) := by
  unfold State.smoulderLeave
  repeat' first
    | with_reducible assumption | with_reducible apply Kept.ite | with_reducible apply State.putFld_kept | split

theorem State.smoulderExited_kept {s0 s : State} (hk0 : Kept s0 s) : Kept s0 s.smoulderExited := by
  unfold State.smoulderExited
  dsimp only
  split
  · rename_i h
    simp only [Bool.and_eq_true, beq_iff_eq] at h
    have h1 := Kept.sup (State.putFld_kept .PWR_SMOULDER [] 0 2 0 hk0) (StartState.right_exit h.1.1)
    refine State.retargetAll_kept (Kept.ite ?_ (State.modClk_kept _ ?_)) <;>
      exact State.each_kept _ h1 fun b x hb => Kept.ite (State.portEnable_kept _ _ hb) hb
  · exact hk0

theorem State.tick_kept {s0 s : State} (hk0 : Kept s0 s) :
    Kept s0 (State.tick s) := by
  unfold State.tick
  repeat' first
    | with_reducible assumption | (intro x; have hx : Kept s0 x := ?hk; clear_value x; case' hk => subst x)
    | (intro x; subst x) | intro _ | with_reducible apply Kept.ite | with_reducible apply State.bump_kept
    | (rewrite [State.mk_eq_ofB]; with_reducible refine Kept.upd ?_) | lift_lets -underBinder | dsimp -zeta only
    | split

theorem State.linkEvent_kept {s0 s : State} (f : State → State) (hk0 : Kept s0 s)
    (hf : ∀ b, Kept s0 b → Kept s0 (f b)) :
    Kept s0 (State.linkEvent s f) := by
  unfold State.linkEvent
  repeat' first
    | with_reducible assumption | intro _ | with_reducible apply State.onDie_kept
    | with_reducible apply State.refPortCheck_kept | with_reducible apply hf | dsimp -zeta only | split

theorem State.writePortCfg_kept {s0 s : State} (p : Nat) (v : Word) (hk0 : Kept s0 s) :
    Kept s0 (State.writePortCfg s p v) := by
  unfold State.writePortCfg
  repeat' first
    | with_reducible assumption | (intro x; have hx : Kept s0 x := ?hk; clear_value x; case' hk => subst x)
    | (intro x; subst x) | intro _ | with_reducible apply Kept.ite | with_reducible apply State.portDisable_kept
    | with_reducible apply State.portEnable_kept | with_reducible apply State.startRetrain_kept
    | lift_lets -underBinder | dsimp -zeta only | split

theorem State.laneDies_kept {s0 s : State} (p : Nat) (lane : Nat) (b : Nat) (hk0 : Kept s0 s) :
    Kept s0 (State.laneDies s p lane b) := by
  unfold State.laneDies
  repeat' first
    | with_reducible assumption | (intro x; have hx : Kept s0 x := ?hk; clear_value x; case' hk => subst x)
    | (intro x; subst x) | intro _ | with_reducible apply Kept.ite | with_reducible apply State.modPhys_kept
    | with_reducible apply State.record_kept | with_reducible apply State.heatOn_kept
    | with_reducible apply State.modChannel_kept | with_reducible apply State.corrected_kept
    | (rewrite [State.mk_eq_ofB]; with_reducible refine Kept.upd ?_) | lift_lets -underBinder | dsimp -zeta only
    | split

theorem State.laneCorrected_kept {s0 s : State} (p : Nat) (b : Nat) (lane : Nat) (hk0 : Kept s0 s) :
    Kept s0 (State.laneCorrected s p b lane) := by
  unfold State.laneCorrected
  repeat' first
    | with_reducible assumption | (intro x; have hx : Kept s0 x := ?hk; clear_value x; case' hk => subst x)
    | (intro x; subst x) | intro _ | with_reducible apply Kept.ite | with_reducible apply State.modPhys_kept
    | with_reducible apply State.laneDies_kept | (rewrite [State.mk_eq_ofB]; with_reducible refine Kept.upd ?_)
    | lift_lets -underBinder | dsimp -zeta only | split

theorem State.startSoft_kept {s0 s : State} (c : Nat) (bank : Nat) (row : Nat) (byCommand : Bool) (hk0 : Kept s0 s) :
    Kept s0 (State.startSoft s c bank row byCommand) := by
  unfold State.startSoft
  repeat' first
    | with_reducible assumption | with_reducible apply State.bank_kept
    | (rewrite [State.mk_eq_ofB]; with_reducible refine Kept.upd ?_) | dsimp -zeta only | split

theorem State.suspectRow_kept {s0 s : State} (c : Nat) (b : Nat) (hk0 : Kept s0 s) :
    Kept s0 (State.suspectRow s c b) := by
  unfold State.suspectRow
  repeat' first
    | with_reducible assumption | (intro x; have hx : Kept s0 x := ?hk; clear_value x; case' hk => subst x)
    | (intro x; subst x) | intro _ | with_reducible apply Kept.ite | with_reducible apply State.bank_kept
    | with_reducible apply State.modChannel_kept | with_reducible apply State.startSoft_kept
    | with_reducible apply State.record_kept | (rewrite [State.mk_eq_ofB]; with_reducible refine Kept.upd ?_)
    | lift_lets -underBinder | dsimp -zeta only | split

theorem State.corrected_kept {s0 s : State} (c : Nat) (line : Nat) (lanes : List Nat) (hk0 : Kept s0 s) :
    Kept s0 (State.corrected s c line lanes) := by
  unfold State.corrected
  repeat' first
    | with_reducible assumption | (intro x; have hx : Kept s0 x := ?hk; clear_value x; case' hk => subst x)
    | (intro x; subst x) | intro _ | with_reducible apply Kept.ite | with_reducible apply State.bump_kept
    | with_reducible apply State.heatOn_kept | with_reducible apply State.putReg_kept
    | with_reducible apply State.each_kept | with_reducible apply State.laneCorrected_kept
    | with_reducible apply State.suspectRow_kept | lift_lets -underBinder | dsimp -zeta only | split

theorem State.burst_kept {s0 s : State} (c : Nat) (line : Nat) (e : BurstErr) (hk0 : Kept s0 s) :
    KeptP s0 (State.burst s c line e) := by
  unfold State.burst
  repeat' first
    | with_reducible assumption | (intro x; have hx : Kept s0 x := ?hk; clear_value x; case' hk => subst x)
    | (intro x; subst x) | intro _ | with_reducible apply Kept.ite | with_reducible apply KeptP.ite
    | (rewrite [pairP_eq]; with_reducible refine KeptP.mk ?_)
    | (rewrite [pairQ_eq]; with_reducible refine KeptQ.mk ?_) | with_reducible apply KeptQ.ite
    | with_reducible apply State.corrected_kept | with_reducible apply State.fresh_kept
    | with_reducible apply State.putLine_kept | (rewrite [State.mk_eq_ofB]; with_reducible refine Kept.upd ?_)
    | with_reducible refine Kept.of_fst (by assumption) ?_ | with_reducible apply KeptP.fst
    | with_reducible refine Kept.of_snd (by assumption) ?_ | with_reducible apply KeptQ.snd | lift_lets -underBinder
    | dsimp -zeta only | split

theorem State.hearthRemote_kept {s0 s : State} (o : Origin) (off : Nat) (hk0 : Kept s0 s) :
    Kept s0 (State.hearthRemote s o off) := by
  unfold State.hearthRemote
  repeat' first
    | with_reducible assumption | with_reducible apply State.record_kept | split

theorem State.ueFor_kept {s0 s : State} (unit : MemUnit) (o : Origin) (off : Nat) (c : Nat) (line : Nat) (hk0 : Kept s0 s) :
    Kept s0 (State.ueFor s unit o off c line) := by
  unfold State.ueFor
  repeat' first
    | with_reducible assumption | with_reducible apply Kept.ite | with_reducible apply State.fatal_kept
    | with_reducible apply State.ueRecord_kept | with_reducible apply State.emit_kept | split

theorem State.serve_kept {s0 s : State} (r : MemReq) (g : Nat) (c : Nat) (b : Nat) (hk0 : Kept s0 s) :
    Kept s0 (State.serve s r g c b) := by
  unfold State.serve
  repeat' first
    | with_reducible assumption | (intro x; have hx : Kept s0 x := ?hk; clear_value x; case' hk => subst x)
    | (intro x; subst x) | intro _ | with_reducible apply Kept.ite | with_reducible apply KeptP.ite
    | (rewrite [pairP_eq]; with_reducible refine KeptP.mk ?_) | with_reducible apply State.burst_kept
    | with_reducible apply State.writeLine_kept | with_reducible apply State.ueFor_kept
    | with_reducible apply State.emit_kept | with_reducible apply State.noteUe_kept
    | with_reducible refine Kept.of_fst (by assumption) ?_ | with_reducible apply KeptP.fst | lift_lets -underBinder
    | dsimp -zeta only | split

theorem State.memRequest_kept {s0 s : State} (r : MemReq) (hk0 : Kept s0 s) :
    Kept s0 (State.memRequest s r) := by
  unfold State.memRequest
  repeat' first
    | with_reducible assumption | (intro x; have hx : Kept s0 x := ?hk; clear_value x; case' hk => subst x)
    | (intro x; subst x) | intro _ | with_reducible apply Kept.ite | with_reducible apply State.unmappedRecord_kept
    | with_reducible apply State.emit_kept | with_reducible apply State.hearthRemote_kept
    | with_reducible apply State.dropStale_kept | with_reducible apply State.serve_kept
    | (rewrite [State.mk_eq_ofB]; with_reducible refine Kept.upd ?_) | lift_lets -underBinder | dsimp -zeta only
    | split

theorem State.accRequest_kept {s0 s : State} (a : AccReq) (hk0 : Kept s0 s) :
    Kept s0 (State.accRequest s a) := by
  unfold State.accRequest
  repeat' first
    | with_reducible assumption | (intro x; have hx : Kept s0 x := ?hk; clear_value x; case' hk => subst x)
    | (intro x; subst x) | intro _ | with_reducible apply Kept.ite | with_reducible apply KeptP.ite
    | (rewrite [pairP_eq]; with_reducible refine KeptP.mk ?_) | with_reducible apply State.unmappedRecord_kept
    | with_reducible apply State.emit_kept | with_reducible apply State.hearthRemote_kept
    | with_reducible apply State.dropStale_kept | with_reducible apply State.burst_kept
    | with_reducible apply State.accumulateBy_kept | (rewrite [State.mk_eq_ofB]; with_reducible refine Kept.upd ?_)
    | with_reducible refine Kept.of_fst (by assumption) ?_ | with_reducible apply KeptP.fst | lift_lets -underBinder
    | dsimp -zeta only | split

theorem State.memRetry_kept {s0 s : State} (hk0 : Kept s0 s) :
    Kept s0 (State.memRetry s) := by
  unfold State.memRetry
  repeat' first
    | with_reducible assumption | (intro x; have hx : Kept s0 x := ?hk; clear_value x; case' hk => subst x)
    | (intro x; subst x) | intro _ | with_reducible apply State.each_kept | with_reducible apply State.memRequest_kept
    | with_reducible apply State.accRequest_kept | (rewrite [State.mk_eq_ofB]; with_reducible refine Kept.upd ?_)
    | lift_lets -underBinder | dsimp -zeta only | split

theorem State.wcbAge_kept {s0 s : State} (c : Nat) (e : BurstErr) (hk0 : Kept s0 s) :
    Kept s0 (State.wcbAge s c e) := by
  unfold State.wcbAge
  repeat' first
    | with_reducible assumption | with_reducible apply Kept.ite | with_reducible apply KeptP.ite
    | (rewrite [pairP_eq]; with_reducible refine KeptP.mk ?_) | with_reducible apply State.burst_kept
    | with_reducible apply State.evictWcb_kept | with_reducible refine Kept.of_fst (by assumption) ?_
    | with_reducible apply KeptP.fst | split

theorem State.patrol_kept {s0 s : State} (c : Nat) (e : BurstErr) (hk0 : Kept s0 s) :
    Kept s0 (State.patrol s c e) := by
  unfold State.patrol
  repeat' first
    | with_reducible assumption | (intro x; have hx : Kept s0 x := ?hk; clear_value x; case' hk => subst x)
    | (intro x; subst x) | intro _ | with_reducible apply Kept.ite | with_reducible apply KeptP.ite
    | (rewrite [pairP_eq]; with_reducible refine KeptP.mk ?_) | with_reducible apply State.bank_kept
    | with_reducible apply State.burst_kept | with_reducible apply State.noteUe_kept
    | with_reducible apply State.ueRecord_kept | with_reducible apply State.modChannel_kept
    | (rewrite [State.mk_eq_ofB]; with_reducible refine Kept.upd ?_)
    | with_reducible refine Kept.of_fst (by assumption) ?_ | with_reducible apply KeptP.fst | lift_lets -underBinder
    | dsimp -zeta only | split

theorem State.repairResult_kept {s0 s : State} (die : Nat) (result : Nat) (hk0 : Kept s0 s) :
    Kept s0 (State.repairResult s die result) := by
  unfold State.repairResult
  repeat' first
    | with_reducible assumption | with_reducible apply State.putFld_kept | split

theorem State.repairCmd_kept {s0 s : State} (die : Nat) (v : Word) (f : State → State) (hk0 : Kept s0 s)
    (hf : ∀ b, Kept s0 b → Kept s0 (f b)) :
    Kept s0 (State.repairCmd s die v f) := by
  unfold State.repairCmd
  repeat' first
    | with_reducible assumption | (intro x; have hx : Kept s0 x := ?hk; clear_value x; case' hk => subst x)
    | (intro x; subst x) | intro _ | with_reducible apply Kept.ite | with_reducible apply State.softWrite_kept
    | with_reducible apply State.repairResult_kept | with_reducible apply hf | lift_lets -underBinder
    | dsimp -zeta only | split

theorem State.mrRead_kept {s0 s : State} (die : Nat) (v : Word) (hk0 : Kept s0 s) :
    Kept s0 (State.mrRead s die v) := by
  unfold State.mrRead
  repeat' first
    | with_reducible assumption | intro _ | with_reducible apply State.repairCmd_kept
    | with_reducible apply State.putFld_kept | with_reducible apply State.repairResult_kept | dsimp -zeta only | split

theorem State.mrWrite_kept {s0 s : State} (die : Nat) (v : Word) (hk0 : Kept s0 s) :
    Kept s0 (State.mrWrite s die v) := by
  unfold State.mrWrite
  repeat' first
    | with_reducible assumption | intro _ | with_reducible apply Kept.ite | with_reducible apply State.repairCmd_kept
    | with_reducible apply State.repairResult_kept | (rewrite [State.mk_eq_ofB]; with_reducible refine Kept.upd ?_)
    | dsimp -zeta only | split

theorem State.softRepair_kept {s0 s : State} (die : Nat) (v : Word) (hk0 : Kept s0 s) :
    Kept s0 (State.softRepair s die v) := by
  unfold State.softRepair
  repeat' first
    | with_reducible assumption | (intro x; have hx : Kept s0 x := ?hk; clear_value x; case' hk => subst x)
    | (intro x; subst x) | intro _ | with_reducible apply Kept.ite | with_reducible apply State.repairCmd_kept
    | with_reducible apply State.bank_kept | with_reducible apply State.repairResult_kept
    | with_reducible apply State.startSoft_kept | with_reducible apply State.putFld_kept | lift_lets -underBinder
    | dsimp -zeta only | split

theorem State.hardRepair_kept {s0 s : State} (die : Nat) (v : Word) (hk0 : Kept s0 s) :
    Kept s0 (State.hardRepair s die v) := by
  unfold State.hardRepair
  repeat' first
    | with_reducible assumption | (intro x; have hx : Kept s0 x := ?hk; clear_value x; case' hk => subst x)
    | (intro x; subst x) | intro _ | with_reducible apply Kept.ite | with_reducible apply State.repairCmd_kept
    | with_reducible apply State.bank_kept | with_reducible apply State.repairResult_kept
    | with_reducible apply State.putFld_kept | (rewrite [State.mk_eq_ofB]; with_reducible refine Kept.upd ?_)
    | lift_lets -underBinder | dsimp -zeta only | split

theorem State.queryRepair_kept {s0 s : State} (die : Nat) (v : Word) (hk0 : Kept s0 s) :
    Kept s0 (State.queryRepair s die v) := by
  unfold State.queryRepair
  repeat' first
    | with_reducible assumption | (intro x; have hx : Kept s0 x := ?hk; clear_value x; case' hk => subst x)
    | (intro x; subst x) | intro _ | with_reducible apply Kept.ite | with_reducible apply State.repairCmd_kept
    | with_reducible apply State.putFld_kept | with_reducible apply State.repairResult_kept | lift_lets -underBinder
    | dsimp -zeta only | split

theorem State.softResult_kept {s0 s : State} (c : Nat) (success : Bool) (reads : List (Nat × BurstErr)) (hk0 : Kept s0 s) :
    Kept s0 (State.softResult s c success reads) := by
  unfold State.softResult
  repeat' first
    | with_reducible assumption | (intro x; have hx : Kept s0 x := ?hk; clear_value x; case' hk => subst x)
    | (intro x; subst x) | intro _ | with_reducible apply Kept.ite | with_reducible apply KeptP.ite
    | (rewrite [pairP_eq]; with_reducible refine KeptP.mk ?_) | with_reducible apply State.each_kept
    | with_reducible apply State.burst_kept | with_reducible apply State.bank_kept
    | with_reducible apply State.noteUe_kept | with_reducible apply State.modPhys_kept
    | with_reducible apply State.modChannel_kept | with_reducible apply State.bump_kept
    | with_reducible apply State.record_kept | with_reducible apply State.corrected_kept
    | with_reducible apply State.repairResult_kept | with_reducible apply State.memRetry_kept
    | (rewrite [State.mk_eq_ofB]; with_reducible refine Kept.upd ?_)
    | with_reducible refine Kept.of_fst (by assumption) ?_ | with_reducible apply KeptP.fst | lift_lets -underBinder
    | dsimp -zeta only | split

theorem State.hardDone_kept {s0 s : State} (c : Nat) (success : Bool) (hk0 : Kept s0 s) :
    Kept s0 (State.hardDone s c success) := by
  unfold State.hardDone
  repeat' first
    | with_reducible assumption | (intro x; have hx : Kept s0 x := ?hk; clear_value x; case' hk => subst x)
    | (intro x; subst x) | intro _ | with_reducible apply Kept.ite
    | (rewrite [pairQ_eq]; with_reducible refine KeptQ.mk ?_) | with_reducible apply KeptQ.ite
    | with_reducible apply State.each_kept | with_reducible apply State.bank_kept
    | with_reducible apply State.fresh_kept | with_reducible apply State.putLine_kept
    | with_reducible apply State.unsaturate_kept | with_reducible apply State.modPhys_kept
    | with_reducible apply State.record_kept | with_reducible apply State.repairResult_kept
    | with_reducible apply State.memRetry_kept | (rewrite [State.mk_eq_ofB]; with_reducible refine Kept.upd ?_)
    | with_reducible refine Kept.of_snd (by assumption) ?_ | with_reducible apply KeptQ.snd | lift_lets -underBinder
    | dsimp -zeta only | split

theorem State.mapoutResult_kept {s0 s : State} (die : Nat) (result : Nat) (hk0 : Kept s0 s) :
    Kept s0 (State.mapoutResult s die result) := by
  unfold State.mapoutResult
  repeat' first
    | with_reducible assumption | with_reducible apply State.putFld_kept | split

theorem State.abortMapout_kept {s0 s : State} (die : Nat) (hk0 : Kept s0 s) :
    Kept s0 (State.abortMapout s die) := by
  unfold State.abortMapout
  repeat' first
    | with_reducible assumption | with_reducible apply Kept.ite | with_reducible apply State.mapoutResult_kept
    | (rewrite [State.mk_eq_ofB]; with_reducible refine Kept.upd ?_) | dsimp -zeta only | split

theorem State.mapoutGo_kept {s0 s : State} (die : Nat) (v : Word) (hk0 : Kept s0 s) :
    Kept s0 (State.mapoutGo s die v) := by
  unfold State.mapoutGo
  repeat' first
    | with_reducible assumption | (intro x; have hx : Kept s0 x := ?hk; clear_value x; case' hk => subst x)
    | (intro x; subst x) | intro _ | with_reducible apply Kept.ite | with_reducible apply State.refuseWrite_kept
    | with_reducible apply State.softWrite_kept | with_reducible apply State.putReg_kept
    | with_reducible apply State.mapoutResult_kept | with_reducible apply State.putFld_kept
    | (rewrite [State.mk_eq_ofB]; with_reducible refine Kept.upd ?_) | lift_lets -underBinder | dsimp -zeta only
    | split

theorem State.switchMap_kept {s0 s : State} (m : MapOut) (hk0 : Kept s0 s) :
    Kept s0 (State.switchMap s m) := by
  unfold State.switchMap
  repeat' first
    | with_reducible assumption | (intro x; have hx : Kept s0 x := ?hk; clear_value x; case' hk => subst x)
    | (intro x; subst x) | intro _ | with_reducible apply State.flushChannel_kept
    | with_reducible apply State.modPhys_kept | with_reducible apply State.modChannel_kept
    | (rewrite [State.mk_eq_ofB]; with_reducible refine Kept.upd ?_) | lift_lets -underBinder | dsimp -zeta only
    | split

theorem State.mapoutDone_kept {s0 s : State} (die : Nat) (reads : List (Nat × BurstErr)) (hk0 : Kept s0 s) :
    Kept s0 (State.mapoutDone s die reads) := by
  unfold State.mapoutDone
  repeat' first
    | with_reducible assumption | (intro x; have hx : Kept s0 x := ?hk; clear_value x; case' hk => subst x)
    | (intro x; subst x) | intro _ | with_reducible apply Kept.ite | with_reducible apply KeptP.ite
    | (rewrite [pairP_eq]; with_reducible refine KeptP.mk ?_) | with_reducible apply State.each_kept
    | with_reducible apply State.burst_kept | with_reducible apply State.bump_kept
    | with_reducible apply State.switchMap_kept | with_reducible apply State.putFld_kept
    | with_reducible apply State.mapoutResult_kept | with_reducible apply State.record_kept
    | (rewrite [State.mk_eq_ofB]; with_reducible refine Kept.upd ?_)
    | with_reducible refine Kept.of_fst (by assumption) ?_ | with_reducible apply KeptP.fst | lift_lets -underBinder
    | dsimp -zeta only | split

theorem State.chmapSet_kept {s0 s : State} (die : Nat) (v : Word) (hk0 : Kept s0 s) :
    Kept s0 (State.chmapSet s die v) := by
  unfold State.chmapSet
  repeat' first
    | with_reducible assumption | (intro x; have hx : Kept s0 x := ?hk; clear_value x; case' hk => subst x)
    | (intro x; subst x) | intro _ | with_reducible apply Kept.ite | with_reducible apply State.modChannel_kept
    | with_reducible apply State.refuseWrite_kept | (rewrite [State.mk_eq_ofB]; with_reducible refine Kept.upd ?_)
    | lift_lets -underBinder | dsimp -zeta only | split

theorem State.stackRecord_kept {s0 s : State} (sev : Sev) (code : Nat) (k : Nat) (heat : Nat) (hk0 : Kept s0 s) :
    Kept s0 (State.stackRecord s sev code k heat) := by
  unfold State.stackRecord
  repeat' first
    | with_reducible assumption | with_reducible apply State.record_kept | with_reducible apply State.heatOn_kept
    | split

theorem State.modStack_kept {s0 s : State} (k : Nat) (f : Stack → Stack) (hk0 : Kept s0 s) :
    Kept s0 (State.modStack s k f) := by
  unfold State.modStack
  repeat' first
    | with_reducible assumption | (rewrite [State.mk_eq_ofB]; with_reducible refine Kept.upd ?_) | dsimp -zeta only
    | split

theorem State.stackTemp_kept {s0 s : State} (k : Nat) (r : Option Int) (hk0 : Kept s0 s) :
    Kept s0 (State.stackTemp s k r) := by
  unfold State.stackTemp
  repeat' first
    | with_reducible assumption | (intro x; have hx : Kept s0 x := ?hk; clear_value x; case' hk => subst x)
    | (intro x; subst x) | intro _ | with_reducible apply Kept.ite | with_reducible apply State.modStack_kept
    | with_reducible apply State.stackRecord_kept | with_reducible apply State.putFld_kept
    | with_reducible apply State.corrected_kept | with_reducible apply State.fatal_kept
    | with_reducible apply State.retargetAll_kept | (rewrite [State.mk_eq_ofB]; with_reducible refine Kept.upd ?_)
    | lift_lets -underBinder | dsimp -zeta only | split

theorem State.hearthScrub_kept {s0 s : State} (hk0 : Kept s0 s) :
    Kept s0 (State.hearthScrub s) := by
  unfold State.hearthScrub
  repeat' first
    | with_reducible assumption | (intro x; have hx : Kept s0 x := ?hk; clear_value x; case' hk => subst x)
    | (intro x; subst x) | intro _ | with_reducible apply State.each_kept | with_reducible apply State.modChannel_kept
    | (rewrite [State.mk_eq_ofB]; with_reducible refine Kept.updW ?_ (filter_wf _) id (Nat.le_refl _) (Nat.le_refl _))
    | (rewrite [State.mk_eq_ofB]; with_reducible refine Kept.upd ?_) | lift_lets -underBinder | dsimp -zeta only
    | split

theorem State.phyTrained_kept {s0 s : State} (x1 : PhyTraining) (hk0 : Kept s0 s) :
    Kept s0 (State.phyTrained s x1) := by
  unfold State.phyTrained
  repeat' first
    | with_reducible assumption | (intro x; have hx : Kept s0 x := ?hk; clear_value x; case' hk => subst x)
    | (intro x; subst x) | intro _ | with_reducible apply Kept.ite | with_reducible apply State.each_kept
    | with_reducible apply State.laneDies_kept | with_reducible apply State.hearthScrub_kept
    | with_reducible apply State.modChannel_kept | with_reducible apply State.memRetry_kept
    | (rewrite [State.mk_eq_ofB]; with_reducible refine Kept.upd ?_) | lift_lets -underBinder | dsimp -zeta only
    | split

theorem State.kilnEvent_kept {s0 s : State} (f : State → State) (hk0 : Kept s0 s)
    (hf : ∀ b, Kept s0 b → Kept s0 (f b)) :
    Kept s0 (State.kilnEvent s f) := by
  unfold State.kilnEvent
  repeat' first
    | with_reducible assumption | intro _ | with_reducible apply State.onDie_kept
    | with_reducible apply State.memRetry_kept | with_reducible apply State.retryOpens_kept | with_reducible apply hf
    | dsimp -zeta only | split

theorem State.buddyAck_kept {s0 s : State} (o : Origin) (request : Nat) (hk0 : Kept s0 s) :
    Kept s0 (State.buddyAck s o request) := by
  unfold State.buddyAck
  repeat' first
    | with_reducible assumption | with_reducible apply Kept.ite | with_reducible apply State.kilnAcked_kept
    | with_reducible apply State.request_kept | split

end Sys2Proof.Machine
end

