-- ==== Sys2Proof/Laws/KeptHearth.lean ====
section
/-! SUPPORT. What the operations of Machine/Hearth, Heartwood, Resets, Groves, Startup keep: `Kept`, one lemma each. -/
set_option Elab.async false
set_option linter.unusedTactic false
set_option linter.unreachableTactic false
set_option linter.unnecessarySeqFocus false
namespace Sys2Proof.Machine

theorem State.refuseFetched_kept {s0 s : State} (q : Nat) (c : Cmd) (hk0 : Kept s0 s) :
    Kept s0 (State.refuseFetched s q c) := by
  unfold State.refuseFetched
  repeat' first
    | with_reducible assumption | (intro x; have hx : Kept s0 x := ?hk; clear_value x; case' hk => subst x)
    | (intro x; subst x) | intro _ | with_reducible apply Kept.ite | with_reducible apply State.refuseInject_kept
    | with_reducible apply State.refuseSmp_kept | with_reducible apply State.refuseGth_kept
    | with_reducible apply State.refuseEmb_kept | with_reducible apply State.refuseCol_kept
    | with_reducible apply State.refuseUpd_kept | with_reducible apply State.refuseKln_kept
    | with_reducible apply State.refuseFt_kept | lift_lets -underBinder | dsimp -zeta only | split

theorem State.checkFetched_kept {s0 s : State} (q : Nat) (c : Cmd) (hk0 : Kept s0 s) :
    Kept s0 (State.checkFetched s q c) := by
  unfold State.checkFetched
  repeat' first
    | with_reducible assumption | intro _ | with_reducible apply Kept.ite
    | with_reducible apply State.refuseFetched_kept | with_reducible apply State.badCommand_kept
    | with_reducible apply State.staleCommand_kept | dsimp -zeta only | split

theorem State.fetch_kept {s0 s : State} (q : Nat) (hk0 : Kept s0 s) :
    Kept s0 (State.fetch s q) := by
  unfold State.fetch
  repeat' first
    | with_reducible assumption | (intro x; have hx : Kept s0 x := ?hk; clear_value x; case' hk => subst x)
    | (intro x; subst x) | intro _ | with_reducible apply Kept.ite | with_reducible apply KeptP.ite
    | (rewrite [pairP_eq]; with_reducible refine KeptP.mk ?_) | with_reducible apply State.readLocal_kept
    | with_reducible apply State.modQueue_kept | with_reducible apply State.checkFetched_kept
    | with_reducible apply State.fatal_kept | (rewrite [State.mk_eq_ofB]; with_reducible refine Kept.upd ?_)
    | with_reducible refine Kept.of_fst (by assumption) ?_ | with_reducible apply KeptP.fst | lift_lets -underBinder
    | dsimp -zeta only | split

theorem State.modHlk_kept {s0 s : State} (k : Nat) (f : HLink → HLink) (hk0 : Kept s0 s) :
    Kept s0 (State.modHlk s k f) := by
  unfold State.modHlk
  repeat' first
    | with_reducible assumption | (rewrite [State.mk_eq_ofB]; with_reducible refine Kept.upd ?_) | dsimp -zeta only
    | split

theorem State.hlkSend_kept {s0 s : State} (k : Nat) (f : HFlit) (hk0 : Kept s0 s) :
    Kept s0 (State.hlkSend s k f) := by
  unfold State.hlkSend
  repeat' first
    | with_reducible assumption | (intro x; have hx : Kept s0 x := ?hk; clear_value x; case' hk => subst x)
    | (intro x; subst x) | intro _ | with_reducible apply Kept.ite | with_reducible apply State.modHlk_kept
    | with_reducible apply State.emit_kept | (rewrite [State.mk_eq_ofB]; with_reducible refine Kept.upd ?_)
    | lift_lets -underBinder | dsimp -zeta only | split

theorem State.hlkPump_kept {s0 s : State} (k : Nat) (hk0 : Kept s0 s) :
    Kept s0 (State.hlkPump s k) := by
  unfold State.hlkPump
  repeat' first
    | with_reducible assumption | (intro x; have hx : Kept s0 x := ?hk; clear_value x; case' hk => subst x)
    | (intro x; subst x) | intro _ | with_reducible apply State.modHlk_kept | with_reducible apply State.each_kept
    | with_reducible apply State.hlkSend_kept | (rewrite [State.mk_eq_ofB]; with_reducible refine Kept.upd ?_)
    | lift_lets -underBinder | dsimp -zeta only | split

theorem State.hlkReplay_kept {s0 s : State} (k : Nat) (ackSeq : Nat) (hk0 : Kept s0 s) :
    Kept s0 (State.hlkReplay s k ackSeq) := by
  unfold State.hlkReplay
  repeat' first
    | with_reducible assumption | (intro x; have hx : Kept s0 x := ?hk; clear_value x; case' hk => subst x)
    | (intro x; subst x) | intro _ | with_reducible apply Kept.ite | with_reducible apply State.modHlk_kept
    | with_reducible apply State.bump_kept | with_reducible apply State.emits_kept
    | (rewrite [State.mk_eq_ofB]; with_reducible refine Kept.upd ?_) | lift_lets -underBinder | dsimp -zeta only
    | split

theorem State.hlkTrained_kept {s0 s : State} (k : Nat) (modules : Nat) (lanes : Nat) (old : Nat) (fresh : Bool) (hk0 : Kept s0 s) :
    Kept s0 (State.hlkTrained s k modules lanes old fresh) := by
  unfold State.hlkTrained
  repeat' first
    | with_reducible assumption | (intro x; have hx : Kept s0 x := ?hk; clear_value x; case' hk => subst x)
    | (intro x; subst x) | intro _ | with_reducible apply Kept.ite
    | (rewrite [pairQ_eq]; with_reducible refine KeptQ.mk ?_) | with_reducible apply KeptQ.ite
    | with_reducible apply State.each_kept | with_reducible apply State.record_kept
    | with_reducible apply State.heatOn_kept | with_reducible apply State.fresh_kept
    | with_reducible apply State.modHlk_kept | with_reducible apply State.fatal_kept
    | with_reducible apply State.hlkPump_kept | (rewrite [State.mk_eq_ofB]; with_reducible refine Kept.upd ?_)
    | with_reducible refine Kept.of_snd (by assumption) ?_ | with_reducible apply KeptQ.snd | lift_lets -underBinder
    | dsimp -zeta only | split

theorem State.hlkRetrained_kept {s0 s : State} (k : Nat) (modules : Nat) (lanes : Nat) (hk0 : Kept s0 s) :
    Kept s0 (State.hlkRetrained s k modules lanes) := by
  unfold State.hlkRetrained
  repeat' first
    | with_reducible assumption | with_reducible apply Kept.ite | with_reducible apply State.hlkTrained_kept | split

theorem State.hlkTraining_kept {s0 s : State} (cd0 : Nat × Nat) (cd1 : Nat × Nat) (span : Nat × Nat) (hk0 : Kept s0 s) :
    Kept s0 (State.hlkTraining s cd0 cd1 span) := by
  unfold State.hlkTraining
  repeat' first
    | with_reducible assumption | intro _ | with_reducible apply Kept.ite | with_reducible apply State.each_kept
    | with_reducible apply State.hlkTrained_kept | dsimp -zeta only | split

theorem State.frontEnd_kept {s0 s : State} (f : State → State) (hk0 : Kept s0 s)
    (hf : ∀ b, Kept s0 b → Kept s0 (f b)) :
    Kept s0 (State.frontEnd s f) := by
  unfold State.frontEnd
  repeat' first
    | with_reducible assumption | intro _ | with_reducible apply Kept.ite | with_reducible apply State.awake_kept
    | with_reducible apply hf | dsimp -zeta only | split

theorem State.modHrt_kept {s0 s : State} (f : HearthState → HearthState) (hk0 : Kept s0 s) :
    Kept s0 (State.modHrt s f) := by
  unfold State.modHrt
  repeat' first
    | with_reducible assumption | (rewrite [State.mk_eq_ofB]; with_reducible refine Kept.upd ?_) | dsimp -zeta only
    | split

theorem State.tlsConnect_kept {s0 s : State} (operator : Bool) (certificate : Nat) (hk0 : Kept s0 s) :
    Kept s0 (State.tlsConnect s operator certificate) := by
  unfold State.tlsConnect
  repeat' first
    | with_reducible assumption | (intro x; have hx : Kept s0 x := ?hk; clear_value x; case' hk => subst x)
    | (intro x; subst x) | intro _ | with_reducible apply Kept.ite | with_reducible apply State.emit_kept
    | with_reducible apply State.modHrt_kept | (rewrite [State.mk_eq_ofB]; with_reducible refine Kept.upd ?_)
    | lift_lets -underBinder | dsimp -zeta only | split

theorem State.qpErrors_kept {s0 s : State} (p : Nat → Qp → Bool) (hk0 : Kept s0 s) :
    Kept s0 (State.qpErrors s p) := by
  unfold State.qpErrors
  repeat' first
    | with_reducible assumption | (intro x; have hx : Kept s0 x := ?hk; clear_value x; case' hk => subst x)
    | (intro x; subst x) | intro _ | with_reducible apply Kept.ite | with_reducible apply State.modHrt_kept
    | with_reducible apply State.each_kept | with_reducible apply State.kilnFail_kept
    | with_reducible apply State.slotLost_kept | (rewrite [State.mk_eq_ofB]; with_reducible refine Kept.upd ?_)
    | lift_lets -underBinder | dsimp -zeta only | split

theorem State.closeSession_kept {s0 s : State} (id : Nat) (hk0 : Kept s0 s) :
    Kept s0 (State.closeSession s id) := by
  unfold State.closeSession
  repeat' first
    | with_reducible assumption | intro _ | with_reducible apply State.qpErrors_kept
    | with_reducible apply State.modHrt_kept | with_reducible apply State.emit_kept
    | (rewrite [State.mk_eq_ofB]; with_reducible refine Kept.upd ?_) | dsimp -zeta only | split

theorem State.detachGrove_kept {s0 s : State} (g : Nat) (hk0 : Kept s0 s) :
    Kept s0 (State.detachGrove s g) := by
  unfold State.detachGrove
  repeat' first
    | with_reducible assumption | intro _ | with_reducible apply Kept.ite | with_reducible apply State.qpErrors_kept
    | with_reducible apply State.modHrt_kept | (rewrite [State.mk_eq_ofB]; with_reducible refine Kept.upd ?_)
    | dsimp -zeta only | split

theorem State.sessionAct_kept {s0 s : State} (id : Nat) (x : Session) (x1 : TlsMsg) (hk0 : Kept s0 s) :
    KeptP s0 (State.sessionAct s id x x1) := by
  unfold State.sessionAct
  repeat' first
    | with_reducible assumption | (intro x; have hx : Kept s0 x := ?hk; clear_value x; case' hk => subst x)
    | (intro x; subst x) | intro _ | with_reducible apply Kept.ite | with_reducible apply KeptP.ite
    | (rewrite [pairP_eq]; with_reducible refine KeptP.mk ?_) | with_reducible apply State.modHrt_kept
    | (rewrite [State.mk_eq_ofB]; with_reducible refine Kept.upd ?_)
    | with_reducible refine Kept.of_fst (by assumption) ?_ | with_reducible apply KeptP.fst | lift_lets -underBinder
    | dsimp -zeta only | split

theorem State.tlsMessage_kept {s0 s : State} (id : Nat) (m : TlsMsg) (hk0 : Kept s0 s) :
    Kept s0 (State.tlsMessage s id m) := by
  unfold State.tlsMessage
  repeat' first
    | with_reducible assumption | (intro x; have hx : Kept s0 x := ?hk; clear_value x; case' hk => subst x)
    | (intro x; subst x) | intro _ | (rewrite [pairP_eq]; with_reducible refine KeptP.mk ?_)
    | with_reducible apply State.modHrt_kept | with_reducible apply State.sessionAct_kept
    | with_reducible apply State.emit_kept | (rewrite [State.mk_eq_ofB]; with_reducible refine Kept.upd ?_)
    | with_reducible refine Kept.of_fst (by assumption) ?_ | with_reducible apply KeptP.fst | lift_lets -underBinder
    | dsimp -zeta only | split

theorem State.rdmaRefuse_kept {s0 s : State} (qp : Nat) (hk0 : Kept s0 s) :
    Kept s0 (State.rdmaRefuse s qp) := by
  unfold State.rdmaRefuse
  repeat' first
    | with_reducible assumption | intro _ | with_reducible apply State.qpErrors_kept
    | with_reducible apply State.emit_kept | dsimp -zeta only | split

theorem State.rdmaWriteIn_kept {s0 s : State} (qp : Nat) (q : Qp) (r : RdmaReq) (hk0 : Kept s0 s) :
    KeptP s0 (State.rdmaWriteIn s qp q r) := by
  unfold State.rdmaWriteIn
  repeat' first
    | with_reducible assumption | with_reducible apply Kept.ite | with_reducible apply KeptP.ite
    | (rewrite [pairP_eq]; with_reducible refine KeptP.mk ?_) | with_reducible apply State.rdmaRefuse_kept
    | with_reducible apply State.writeVa_kept | with_reducible apply State.freshPages_kept
    | with_reducible apply State.emit_kept | with_reducible refine Kept.of_fst (by assumption) ?_
    | with_reducible apply KeptP.fst | split

theorem State.rdmaRequest_kept {s0 s : State} (qp : Nat) (r : RdmaReq) (hk0 : Kept s0 s) :
    Kept s0 (State.rdmaRequest s qp r) := by
  unfold State.rdmaRequest
  repeat' first
    | with_reducible assumption | (intro x; have hx : Kept s0 x := ?hk; clear_value x; case' hk => subst x)
    | (intro x; subst x) | intro _ | with_reducible apply Kept.ite | with_reducible apply KeptP.ite
    | (rewrite [pairP_eq]; with_reducible refine KeptP.mk ?_) | with_reducible apply State.emit_kept
    | with_reducible apply State.rdmaWriteIn_kept | with_reducible apply State.rdmaRefuse_kept
    | with_reducible apply State.readVa_kept | with_reducible refine Kept.of_fst (by assumption) ?_
    | with_reducible apply KeptP.fst | lift_lets -underBinder | dsimp -zeta only | split

theorem State.rdmaResponse_kept {s0 s : State} (qp : Nat) (r : RdmaResp) (hk0 : Kept s0 s) :
    Kept s0 (State.rdmaResponse s qp r) := by
  unfold State.rdmaResponse
  repeat' first
    | with_reducible assumption | (intro x; have hx : Kept s0 x := ?hk; clear_value x; case' hk => subst x)
    | (intro x; subst x) | intro _ | with_reducible apply State.kilnAcked_kept
    | with_reducible apply State.kilnFail_kept | with_reducible apply State.slotLost_kept
    | with_reducible apply State.slotData_kept | with_reducible apply State.modHrt_kept
    | (rewrite [State.mk_eq_ofB]; with_reducible refine Kept.upd ?_) | lift_lets -underBinder | dsimp -zeta only
    | split

theorem State.modHwd_kept {s0 s : State} {f : HeartwoodState → HeartwoodState} (hk0 : Kept s0 s)
    (h1 : s.hwd.rollback ≤ (f s.hwd).rollback) (h2 : s.hwd.lmsIndex ≤ (f s.hwd).lmsIndex) :
    Kept s0 (s.modHwd f) := by
  unfold State.modHwd
  rewrite [State.mk_eq_ofB]
  exact hk0.updW id id h1 h2

theorem State.bootFault_kept {s0 s : State} (code : Nat) (stage : Nat) (copyB : Bool) (hk0 : Kept s0 s) :
    Kept s0 (State.bootFault s code stage copyB) := by
  unfold State.bootFault
  repeat' first
    | with_reducible assumption | (intro x; have hx : Kept s0 x := ?hk; clear_value x; case' hk => subst x)
    | (intro x; subst x) | intro _ | with_reducible apply Kept.ite
    | with_reducible refine State.modHwd_kept ?_ (Nat.le_refl _) (Nat.le_refl _)
    | with_reducible apply State.putReg_kept | with_reducible apply State.fatal_kept
    | with_reducible apply State.record_kept | (rewrite [State.mk_eq_ofB]; with_reducible refine Kept.upd ?_)
    | lift_lets -underBinder | dsimp -zeta only | split

theorem State.extend_kept {s0 s : State} (k : Nat) (x : List Byte) (hk0 : Kept s0 s) :
    Kept s0 (State.extend s k x) := by
  unfold State.extend
  repeat' first
    | with_reducible assumption | intro _ | with_reducible refine State.modHwd_kept ?_ (Nat.le_refl _) (Nat.le_refl _)
    | (rewrite [State.mk_eq_ofB]; with_reducible refine Kept.upd ?_) | dsimp -zeta only | split

theorem State.romStart_kept {s0 s : State} (hk0 : Kept s0 s) :
    Kept s0 (State.romStart s) := by
  unfold State.romStart
  repeat' first
    | with_reducible assumption | (intro x; have hx : Kept s0 x := ?hk; clear_value x; case' hk => subst x)
    | (intro x; subst x) | intro _ | (rewrite [pairQ_eq]; with_reducible refine KeptQ.mk ?_)
    | with_reducible apply State.fresh_kept
    | with_reducible refine State.modHwd_kept ?_ (Nat.le_refl _) (Nat.le_refl _)
    | (rewrite [State.mk_eq_ofB]; with_reducible refine Kept.upd ?_)
    | with_reducible refine Kept.of_snd (by assumption) ?_ | with_reducible apply KeptQ.snd | lift_lets -underBinder
    | dsimp -zeta only | split

theorem State.bootProvision_kept {s0 s : State} (hk0 : Kept s0 s) :
    KeptP s0 (State.bootProvision s) := by
  unfold State.bootProvision
  repeat' first
    | with_reducible assumption | (intro x; have hx : Kept s0 x := ?hk; clear_value x; case' hk => subst x)
    | (intro x; subst x) | intro _ | with_reducible apply Kept.ite | with_reducible apply KeptP.ite
    | (rewrite [pairP_eq]; with_reducible refine KeptP.mk ?_) | with_reducible apply State.extend_kept
    | with_reducible refine State.modHwd_kept ?_ (Nat.le_refl _) (Nat.le_refl _)
    | with_reducible apply State.bootFault_kept | (rewrite [State.mk_eq_ofB]; with_reducible refine Kept.upd ?_)
    | with_reducible refine Kept.of_fst (by assumption) ?_ | with_reducible apply KeptP.fst | lift_lets -underBinder
    | dsimp -zeta only | split

theorem State.bootLoader_kept {s0 s : State} (b : List Byte) (hk0 : Kept s0 s) :
    Kept s0 (State.bootLoader s b) := by
  unfold State.bootLoader
  repeat' first
    | with_reducible assumption | (intro x; have hx : Kept s0 x := ?hk; clear_value x; case' hk => subst x)
    | (intro x; subst x) | intro _ | with_reducible apply State.extend_kept
    | with_reducible refine State.modHwd_kept ?_ (Nat.le_refl _) (Nat.le_refl _)
    | (rewrite [State.mk_eq_ofB]; with_reducible refine Kept.upd ?_) | lift_lets -underBinder | dsimp -zeta only
    | split

theorem State.excludeCopy_kept {s0 s : State} (copyB : Bool) (fromBus : Bool) (hk0 : Kept s0 s) :
    Kept s0 (State.excludeCopy s copyB fromBus) := by
  unfold State.excludeCopy
  repeat' first
    | with_reducible assumption | intro _ | with_reducible apply Kept.ite
    | with_reducible refine State.modHwd_kept ?_ (Nat.le_refl _) (Nat.le_refl _)
    | (rewrite [State.mk_eq_ofB]; with_reducible refine Kept.upd ?_) | dsimp -zeta only | split

theorem State.bootSet_kept {s0 s : State} (b : List Byte) (copyB : Bool) (fromBus : Bool) (hk0 : Kept s0 s) :
    KeptP s0 (State.bootSet s b copyB fromBus) := by
  unfold State.bootSet
  repeat' first
    | with_reducible assumption | (intro x; have hx : Kept s0 x := ?hk; clear_value x; case' hk => subst x)
    | (intro x; subst x) | intro _ | with_reducible apply Kept.ite | with_reducible apply KeptP.ite
    | (rewrite [pairP_eq]; with_reducible refine KeptP.mk ?_) | with_reducible apply State.romStart_kept
    | with_reducible apply State.bootFault_kept | with_reducible apply State.excludeCopy_kept
    | with_reducible apply State.extend_kept
    | with_reducible refine State.modHwd_kept ?_ (Nat.le_refl _) (Nat.le_refl _)
    | with_reducible apply State.bootProvision_kept | with_reducible apply State.bootLoader_kept
    | (rewrite [State.mk_eq_ofB]; with_reducible refine Kept.upd ?_)
    | with_reducible refine Kept.of_fst (by assumption) ?_ | with_reducible apply KeptP.fst | lift_lets -underBinder
    | dsimp -zeta only | split

theorem State.bootCopy_kept {s0 s : State} (b : List Byte) (copyB : Bool) (excluded : Bool) (hk0 : Kept s0 s) :
    KeptP s0 (State.bootCopy s b copyB excluded) := by
  unfold State.bootCopy
  repeat' first
    | with_reducible assumption | (intro x; have hx : Kept s0 x := ?hk; clear_value x; case' hk => subst x)
    | (intro x; subst x) | intro _ | with_reducible apply Kept.ite | with_reducible apply KeptP.ite
    | (rewrite [pairP_eq]; with_reducible refine KeptP.mk ?_) | with_reducible apply State.bootSet_kept
    | with_reducible refine Kept.of_fst (by assumption) ?_ | with_reducible apply KeptP.fst | lift_lets -underBinder
    | dsimp -zeta only | split

theorem State.bootCopies_kept {s0 s : State} (a : List Byte) (b : List Byte) (hk0 : Kept s0 s) :
    Kept s0 (State.bootCopies s a b) := by
  unfold State.bootCopies
  repeat' first
    | with_reducible assumption | (rewrite [pairP_eq]; with_reducible refine KeptP.mk ?_)
    | with_reducible apply State.bootCopy_kept | with_reducible apply State.romStart_kept
    | with_reducible apply State.bootFault_kept | with_reducible refine Kept.of_fst (by assumption) ?_
    | with_reducible apply KeptP.fst | split

theorem State.boot_kept {s0 s : State} (a : List Byte) (b : List Byte) (pufOk : Bool) (nvmUe : Bool) (hk0 : Kept s0 s) :
    Kept s0 (State.boot s a b pufOk nvmUe) := by
  unfold State.boot
  repeat' first
    | with_reducible assumption | (intro x; have hx : Kept s0 x := ?hk; clear_value x; case' hk => subst x)
    | (intro x; subst x) | intro _ | with_reducible apply Kept.ite | with_reducible apply State.romStart_kept
    | with_reducible apply State.bootFault_kept | with_reducible apply State.bootCopies_kept | lift_lets -underBinder
    | dsimp -zeta only | split

theorem State.mboxEnd_kept {s0 s : State} (opcode : Nat) (tag : Nat) (result : Nat) (hk0 : Kept s0 s) :
    Kept s0 (State.mboxEnd s opcode tag result) := by
  unfold State.mboxEnd
  repeat' first
    | with_reducible assumption | (intro x; have hx : Kept s0 x := ?hk; clear_value x; case' hk => subst x)
    | (intro x; subst x) | intro _ | with_reducible apply Kept.ite | with_reducible apply State.putReg_kept
    | with_reducible apply State.record_kept | lift_lets -underBinder | dsimp -zeta only | split

theorem State.mbox_kept {s0 s : State} (v : Word) (reach : Nat) (f : State → Nat → Nat → State) (hk0 : Kept s0 s)
    (hf : ∀ b m n, Kept s0 b → Kept s0 (f b m n)) :
    Kept s0 (State.mbox s v reach f) := by
  unfold State.mbox
  repeat' first
    | with_reducible assumption | (intro x; have hx : Kept s0 x := ?hk; clear_value x; case' hk => subst x)
    | (intro x; subst x) | intro _ | with_reducible apply Kept.ite | with_reducible apply State.putReg_kept
    | with_reducible apply State.record_kept | with_reducible apply State.softWrite_kept
    | with_reducible apply State.mboxEnd_kept | with_reducible apply hf | lift_lets -underBinder | dsimp -zeta only
    | split

theorem State.mboxUnknown_kept {s0 s : State} (v : Word) (hk0 : Kept s0 s) :
    Kept s0 (State.mboxUnknown s v) := by
  unfold State.mboxUnknown
  repeat' first
    | with_reducible assumption | intro _ | with_reducible apply State.mbox_kept
    | with_reducible apply State.mboxEnd_kept | dsimp -zeta only | split

theorem State.nvmRead_kept {s0 s : State} (op : Nat) (tag : Nat) (ue : Bool) (f : State → State) (hk0 : Kept s0 s)
    (hf : ∀ b, Kept s0 b → Kept s0 (f b)) :
    Kept s0 (State.nvmRead s op tag ue f) := by
  unfold State.nvmRead
  repeat' first
    | with_reducible assumption | (intro x; have hx : Kept s0 x := ?hk; clear_value x; case' hk => subst x)
    | (intro x; subst x) | intro _ | with_reducible apply Kept.ite | with_reducible apply State.putReg_kept
    | with_reducible apply State.fatal_kept | with_reducible apply hf | lift_lets -underBinder | dsimp -zeta only
    | split

theorem State.attest_kept {s0 s : State} (o : Nat) (tag : Nat) (hk0 : Kept s0 s) :
    Kept s0 (State.attest s o tag) := by
  unfold State.attest
  repeat' first
    | with_reducible assumption | (intro x; have hx : Kept s0 x := ?hk; clear_value x; case' hk => subst x)
    | (intro x; subst x) | intro _ | with_reducible apply Kept.ite | with_reducible apply KeptP.ite
    | (rewrite [pairP_eq]; with_reducible refine KeptP.mk ?_)
    | (rewrite [pairQ_eq]; with_reducible refine KeptQ.mk ?_) | with_reducible apply KeptQ.ite
    | with_reducible apply State.mboxEnd_kept
    | with_reducible refine State.modHwd_kept ?_ (Nat.le_refl _) (Nat.le_refl _)
    | with_reducible refine State.modHwd_kept ?_ (Nat.le_refl _) (Nat.le_succ _)
    | with_reducible apply State.fresh_kept | with_reducible apply State.writeLocal_kept
    | (rewrite [State.mk_eq_ofB]; with_reducible refine Kept.upd ?_)
    | with_reducible refine Kept.of_fst (by assumption) ?_ | with_reducible apply KeptP.fst
    | with_reducible refine Kept.of_snd (by assumption) ?_ | with_reducible apply KeptQ.snd | lift_lets -underBinder
    | dsimp -zeta only | split

theorem State.attestRetry_kept {s0 s : State} (hk0 : Kept s0 s) :
    Kept s0 (State.attestRetry s) := by
  unfold State.attestRetry
  repeat' first
    | with_reducible assumption | intro _ | with_reducible refine State.modHwd_kept ?_ (Nat.le_refl _) (Nat.le_refl _)
    | with_reducible apply State.attest_kept | (rewrite [State.mk_eq_ofB]; with_reducible refine Kept.upd ?_)
    | dsimp -zeta only | split

theorem State.mbAttest_kept {s0 s : State} (v : Word) (ue : Bool) (hk0 : Kept s0 s) :
    Kept s0 (State.mbAttest s v ue) := by
  unfold State.mbAttest
  repeat' first
    | with_reducible assumption | intro _ | with_reducible apply State.mbox_kept
    | with_reducible apply State.nvmRead_kept | with_reducible apply State.attest_kept | dsimp -zeta only | split

theorem State.mbIdent_kept {s0 s : State} (v : Word) (ue : Bool) (hk0 : Kept s0 s) :
    Kept s0 (State.mbIdent s v ue) := by
  unfold State.mbIdent
  repeat' first
    | with_reducible assumption | intro _ | (rewrite [pairP_eq]; with_reducible refine KeptP.mk ?_)
    | with_reducible apply State.mbox_kept | with_reducible apply State.nvmRead_kept
    | with_reducible apply State.writeLocal_kept | with_reducible apply State.mboxEnd_kept
    | with_reducible refine Kept.of_fst (by assumption) ?_ | with_reducible apply KeptP.fst | dsimp -zeta only | split

theorem State.measureExtend_kept {s0 s : State} (o : Nat) (tag : Nat) (hk0 : Kept s0 s) :
    Kept s0 (State.measureExtend s o tag) := by
  unfold State.measureExtend
  repeat' first
    | with_reducible assumption | (intro x; have hx : Kept s0 x := ?hk; clear_value x; case' hk => subst x)
    | (intro x; subst x) | intro _ | with_reducible apply Kept.ite | with_reducible apply State.mboxEnd_kept
    | with_reducible apply State.extend_kept | lift_lets -underBinder | dsimp -zeta only | split

theorem State.mbMeasure_kept {s0 s : State} (v : Word) (hk0 : Kept s0 s) :
    Kept s0 (State.mbMeasure s v) := by
  unfold State.mbMeasure
  repeat' first
    | with_reducible assumption | intro _ | with_reducible apply State.mbox_kept
    | with_reducible apply State.measureExtend_kept | dsimp -zeta only | split

theorem State.provisionSet_kept {s0 s : State} (f : List Byte) (hk0 : Kept s0 s) :
    KeptP s0 (State.provisionSet s f) := by
  unfold State.provisionSet
  repeat' first
    | with_reducible assumption | (intro x; have hx : Kept s0 x := ?hk; clear_value x; case' hk => subst x)
    | (intro x; subst x) | intro _ | with_reducible apply Kept.ite | with_reducible apply KeptP.ite
    | (rewrite [pairP_eq]; with_reducible refine KeptP.mk ?_)
    | with_reducible refine State.modHwd_kept ?_ (Nat.le_refl _) (Nat.le_refl _)
    | (rewrite [State.mk_eq_ofB]; with_reducible refine Kept.upd ?_)
    | with_reducible refine Kept.of_fst (by assumption) ?_ | with_reducible apply KeptP.fst | lift_lets -underBinder
    | dsimp -zeta only | split

theorem State.mbProvision_kept {s0 s : State} (v : Word) (ue : Bool) (hk0 : Kept s0 s) :
    Kept s0 (State.mbProvision s v ue) := by
  unfold State.mbProvision
  repeat' first
    | with_reducible assumption | (intro x; have hx : Kept s0 x := ?hk; clear_value x; case' hk => subst x)
    | (intro x; subst x) | intro _ | (rewrite [pairP_eq]; with_reducible refine KeptP.mk ?_)
    | with_reducible apply State.mbox_kept | with_reducible apply State.nvmRead_kept
    | with_reducible apply State.provisionSet_kept | with_reducible apply State.mboxEnd_kept
    | with_reducible refine Kept.of_fst (by assumption) ?_ | with_reducible apply KeptP.fst | lift_lets -underBinder
    | dsimp -zeta only | split

theorem State.rollbackCommit_kept {s0 s : State} (o : Nat) (tag : Nat) (hk0 : Kept s0 s) :
    Kept s0 (State.rollbackCommit s o tag) := by
  unfold State.rollbackCommit
  repeat' first
    | with_reducible assumption | (intro x; have hx : Kept s0 x := ?hk; clear_value x; case' hk => subst x)
    | (intro x; subst x) | intro _ | (rewrite [pairP_eq]; with_reducible refine KeptP.mk ?_)
    | with_reducible refine State.modHwd_kept ?_ (Nat.le_refl _) (Nat.le_refl _)
    | with_reducible refine State.modHwd_kept ?_ (Nat.le_max_left _ _) (Nat.le_refl _)
    | with_reducible apply State.writeLocal_kept | with_reducible apply State.mboxEnd_kept
    | (rewrite [State.mk_eq_ofB]; with_reducible refine Kept.upd ?_)
    | with_reducible refine Kept.of_fst (by assumption) ?_ | with_reducible apply KeptP.fst | lift_lets -underBinder
    | dsimp -zeta only | split

theorem State.mbRollback_kept {s0 s : State} (v : Word) (ue : Bool) (hk0 : Kept s0 s) :
    Kept s0 (State.mbRollback s v ue) := by
  unfold State.mbRollback
  repeat' first
    | with_reducible assumption | intro _ | with_reducible apply State.mbox_kept
    | with_reducible apply State.nvmRead_kept | with_reducible apply State.rollbackCommit_kept | dsimp -zeta only
    | split

theorem Kept.runtime {s0 s : State} (hk0 : Kept s0 s) :
    Kept s0 { (s.modHwd fun h => { h with stage := 3 }) with
      sup := { (s.modHwd fun h => { h with stage := 3 }).sup with coresUp := 24 } } := by
  rewrite [State.mk_eq_ofB]
  exact (State.modHwd_kept hk0 (Nat.le_refl _) (Nat.le_refl _)).upd

theorem State.startRuntime_kept {s0 s : State} (hk0 : Kept s0 s) : Kept s0 s.startRuntime :=
  Kept.runtime (KeptP.fst (State.writeLocal_kept .hearth (leAt (stageFrame s.hwd.running.bytes 3) 0x10 8)
    (stagePayload s.hwd.running.bytes 3) hk0))

theorem State.loadRuntime_kept {s0 s : State} (tag : Nat) (a : List Byte) (b : List Byte) (hk0 : Kept s0 s) :
    Kept s0 (State.loadRuntime s tag a b) := by
  unfold State.loadRuntime
  repeat' first
    | with_reducible assumption | (intro x; have hx : Kept s0 x := ?hk; clear_value x; case' hk => subst x)
    | (intro x; subst x) | intro _ | with_reducible apply Kept.ite | with_reducible apply State.mboxEnd_kept
    | with_reducible apply State.bootFault_kept | with_reducible apply State.putReg_kept
    | with_reducible apply State.excludeCopy_kept | with_reducible apply State.bootCopies_kept
    | with_reducible apply State.extend_kept | with_reducible apply State.startRuntime_kept | lift_lets -underBinder
    | dsimp -zeta only | split

theorem State.mbLoad_kept {s0 s : State} (v : Word) (a : List Byte) (b : List Byte) (hk0 : Kept s0 s) :
    Kept s0 (State.mbLoad s v a b) := by
  unfold State.mbLoad
  repeat' first
    | with_reducible assumption | intro _ | with_reducible apply State.mbox_kept
    | with_reducible apply State.loadRuntime_kept | dsimp -zeta only | split

theorem State.heartwoodWarm_kept {s0 s : State} (hk0 : Kept s0 s) :
    Kept s0 (State.heartwoodWarm s) := by
  unfold State.heartwoodWarm
  repeat' first
    | with_reducible assumption | (intro x; have hx : Kept s0 x := ?hk; clear_value x; case' hk => subst x)
    | (intro x; subst x) | intro _ | with_reducible apply Kept.ite
    | with_reducible refine State.modHwd_kept ?_ (Nat.le_refl _) (Nat.le_refl _)
    | with_reducible apply State.startRuntime_kept | (rewrite [State.mk_eq_ofB]; with_reducible refine Kept.upd ?_)
    | lift_lets -underBinder | dsimp -zeta only | split

theorem State.closeStep_kept {s0 s : State} (g : Nat) (hk0 : Kept s0 s) :
    Kept s0 (State.closeStep s g) := by
  unfold State.closeStep
  repeat' first
    | with_reducible assumption | intro _ | with_reducible apply State.modStep_kept
    | (rewrite [State.mk_eq_ofB]; with_reducible refine Kept.upd ?_) | dsimp -zeta only | split

theorem State.abortCmds_kept {s0 s : State} (p : Nat → Cmd → Bool) (hk0 : Kept s0 s) :
    Kept s0 (State.abortCmds s p) := by
  unfold State.abortCmds
  repeat' first
    | with_reducible assumption | (intro x; have hx : Kept s0 x := ?hk; clear_value x; case' hk => subst x)
    | (intro x; subst x) | intro _ | with_reducible apply Kept.ite | with_reducible apply State.each_kept
    | with_reducible apply State.modQueue_kept | with_reducible apply State.complete_kept
    | (rewrite [State.mk_eq_ofB]; with_reducible refine Kept.upd ?_) | lift_lets -underBinder | dsimp -zeta only
    | split

theorem State.abortLong_kept {s0 s : State} (g : Nat) (hk0 : Kept s0 s) :
    Kept s0 (State.abortLong s g) := by
  unfold State.abortLong
  repeat' first
    | with_reducible assumption | (intro x; have hx : Kept s0 x := ?hk; clear_value x; case' hk => subst x)
    | (intro x; subst x) | intro _ | with_reducible apply Kept.ite | with_reducible apply State.abortTests_kept
    | with_reducible apply State.each_kept | with_reducible apply State.abortMapout_kept
    | with_reducible apply State.strikeFiring_kept | with_reducible apply State.modKln_kept
    | with_reducible apply State.complete_kept | (rewrite [State.mk_eq_ofB]; with_reducible refine Kept.upd ?_)
    | lift_lets -underBinder | dsimp -zeta only | split

theorem State.dropWaiting_kept {s0 s : State} (g : Nat) (hk0 : Kept s0 s) :
    Kept s0 (State.dropWaiting s g) := by
  unfold State.dropWaiting
  repeat' first
    | with_reducible assumption | (intro x; have hx : Kept s0 x := ?hk; clear_value x; case' hk => subst x)
    | (intro x; subst x) | intro _ | with_reducible apply Kept.ite | with_reducible apply State.adjRange_kept
    | with_reducible apply State.adjPick_kept | with_reducible apply State.rowRead_kept
    | with_reducible apply State.rowAccumulate_kept | with_reducible apply State.kilnWrite_kept
    | with_reducible apply State.serve_kept | with_reducible apply State.modEmb_kept
    | (rewrite [State.mk_eq_ofB]; with_reducible refine Kept.upd ?_) | lift_lets -underBinder | dsimp -zeta only
    | split

theorem State.dropAttempt_kept {s0 s : State} (g : Nat) (hk0 : Kept s0 s) :
    Kept s0 (State.dropAttempt s g) := by
  unfold State.dropAttempt
  repeat' first
    | with_reducible assumption | intro _ | with_reducible apply State.restartReductions_kept
    | with_reducible apply State.modCol_kept | (rewrite [State.mk_eq_ofB]; with_reducible refine Kept.upd ?_)
    | dsimp -zeta only | split

theorem State.dropFlits_kept {s0 s : State} (g : Nat) (p : Nat → Bool) (hk0 : Kept s0 s) :
    Kept s0 (State.dropFlits s g p) := by
  unfold State.dropFlits
  repeat' first
    | with_reducible assumption | (intro x; have hx : Kept s0 x := ?hk; clear_value x; case' hk => subst x)
    | (intro x; subst x) | intro _ | with_reducible apply Kept.ite | with_reducible apply State.each_kept
    | with_reducible apply State.modPort_kept | (rewrite [State.mk_eq_ofB]; with_reducible refine Kept.upd ?_)
    | lift_lets -underBinder | dsimp -zeta only | split

theorem State.wipeGrove_kept {s0 s : State} (g : Nat) (hk0 : Kept s0 s) :
    Kept s0 (State.wipeGrove s g) := by
  unfold State.wipeGrove
  repeat' first
    | with_reducible assumption | (intro x; have hx : Kept s0 x := ?hk; clear_value x; case' hk => subst x)
    | (intro x; subst x) | intro _ | with_reducible apply Kept.ite | with_reducible apply State.abortLong_kept
    | with_reducible apply State.abortCmds_kept | with_reducible apply State.flushBuffers_kept
    | with_reducible apply State.closeStep_kept | with_reducible apply State.discardTasks_kept
    | with_reducible apply State.zeroFlows_kept | with_reducible apply State.each_kept
    | with_reducible apply State.putFld_kept | with_reducible apply State.zeroBuffer_kept
    | with_reducible apply State.voidUpdate_kept | with_reducible apply State.modUpd_kept
    | with_reducible apply State.dropGather_kept | with_reducible apply State.voidSampler_kept
    | with_reducible apply State.clearHists_kept | with_reducible apply State.modProg_kept
    | with_reducible apply State.modTile_kept | with_reducible apply State.dropAttempt_kept
    | with_reducible apply State.dropWaiting_kept | with_reducible apply State.dropChecks_kept
    | (rewrite [State.mk_eq_ofB]; with_reducible refine Kept.upd ?_) | lift_lets -underBinder | dsimp -zeta only
    | split

theorem State.groveReset_kept {s0 s : State} (g : Nat) (hk0 : Kept s0 s) :
    Kept s0 (State.groveReset s g) := by
  unfold State.groveReset
  repeat' first
    | with_reducible assumption | (intro x; have hx : Kept s0 x := ?hk; clear_value x; case' hk => subst x)
    | (intro x; subst x) | intro _ | with_reducible apply State.wipeGrove_kept
    | with_reducible apply State.dropFlits_kept | with_reducible apply State.qpErrors_kept
    | with_reducible apply State.record_kept | with_reducible apply State.corrected_kept
    | with_reducible apply State.unstall_kept | with_reducible apply State.judge_kept
    | with_reducible apply State.memRetry_kept | lift_lets -underBinder | dsimp -zeta only | split

theorem State.heldResets_kept {s0 s : State} (hk0 : Kept s0 s) :
    Kept s0 (State.heldResets s) := by
  unfold State.heldResets
  repeat' first
    | with_reducible assumption | (intro x; have hx : Kept s0 x := ?hk; clear_value x; case' hk => subst x)
    | (intro x; subst x) | intro _ | with_reducible apply Kept.ite | with_reducible apply State.each_kept
    | with_reducible apply State.groveReset_kept | with_reducible apply State.recoverResult_kept
    | with_reducible apply State.recoverRefused_kept | (rewrite [State.mk_eq_ofB]; with_reducible refine Kept.upd ?_)
    | lift_lets -underBinder | dsimp -zeta only | split

theorem State.afterBatch_kept {s0 s : State} (hk0 : Kept s0 s) :
    Kept s0 (State.afterBatch s) := by
  unfold State.afterBatch
  repeat' first
    | with_reducible assumption | with_reducible apply State.attestRetry_kept
    | with_reducible apply State.heldResets_kept | split

theorem State.portRestart_kept {s0 s : State} (p : Nat) (hk0 : Kept s0 s) :
    Kept s0 (State.portRestart s p) := by
  unfold State.portRestart
  repeat' first
    | with_reducible assumption | (intro x; have hx : Kept s0 x := ?hk; clear_value x; case' hk => subst x)
    | (intro x; subst x) | intro _ | with_reducible apply Kept.ite | with_reducible apply State.bumpPort_kept
    | with_reducible apply State.modPort_kept | (rewrite [State.mk_eq_ofB]; with_reducible refine Kept.upd ?_)
    | lift_lets -underBinder | dsimp -zeta only | split

theorem State.queuesReset_kept {s0 s : State} (hk0 : Kept s0 s) :
    Kept s0 (State.queuesReset s) := by
  unfold State.queuesReset
  repeat' first
    | with_reducible assumption | (intro x; have hx : Kept s0 x := ?hk; clear_value x; case' hk => subst x)
    | (intro x; subst x) | intro _ | with_reducible apply State.each_kept | with_reducible apply State.resetReg_kept
    | (rewrite [State.mk_eq_ofB]; with_reducible refine Kept.upd ?_) | lift_lets -underBinder | dsimp -zeta only
    | split

theorem State.warmReset_kept {s0 s : State} (hk0 : Kept s0 s) :
    Kept s0 (State.warmReset s) := by
  unfold State.warmReset
  repeat' first
    | with_reducible assumption | (intro x; have hx : Kept s0 x := ?hk; clear_value x; case' hk => subst x)
    | (intro x; subst x) | intro _ | with_reducible apply Kept.ite | with_reducible apply State.dropBatch_kept
    | with_reducible apply State.attestRetry_kept | with_reducible apply State.abortTests_kept
    | with_reducible apply State.each_kept | with_reducible apply State.wipeGrove_kept
    | with_reducible apply State.abortMapout_kept | with_reducible apply State.flushBuffers_kept
    | with_reducible apply State.abortCmds_kept | with_reducible apply State.queuesReset_kept
    | with_reducible apply State.portRestart_kept | with_reducible apply State.modHrt_kept
    | with_reducible apply State.closeSession_kept | with_reducible apply State.qpErrors_kept
    | with_reducible apply State.serve_kept | with_reducible apply State.heartwoodWarm_kept
    | with_reducible apply State.memRetry_kept | (rewrite [State.mk_eq_ofB]; with_reducible refine Kept.upd ?_)
    | lift_lets -underBinder | dsimp -zeta only | split

theorem State.readImages_kept {s0 s : State} (x1 : List (Nat × Nat)) (hk0 : Kept s0 s) :
    KeptP s0 (State.readImages s x1) := by
  induction x1 generalizing s with
  | nil =>
    rewrite [State.readImages]
    repeat' first
      | with_reducible assumption | (intro x; have hx : Kept s0 x := ?hk; clear_value x; case' hk => subst x)
      | (intro x; subst x) | intro _ | with_reducible apply Kept.ite | with_reducible apply KeptP.ite
      | (rewrite [pairP_eq]; with_reducible refine KeptP.mk ?_) | with_reducible apply State.readLocal_kept
      | with_reducible refine Kept.of_fst (by assumption) ?_ | with_reducible apply KeptP.fst | lift_lets -underBinder
      | dsimp -zeta only | split
  | cons y t ih =>
    rewrite [State.readImages]
    repeat' first
      | with_reducible assumption | (intro x; have hx : Kept s0 x := ?hk; clear_value x; case' hk => subst x)
      | (intro x; subst x) | intro _ | with_reducible apply Kept.ite | with_reducible apply KeptP.ite
      | (rewrite [pairP_eq]; with_reducible refine KeptP.mk ?_) | with_reducible apply ih
      | with_reducible apply State.readLocal_kept | with_reducible refine Kept.of_fst (by assumption) ?_
      | with_reducible apply KeptP.fst | lift_lets -underBinder | dsimp -zeta only | split

theorem State.endBatch_kept {s0 s : State} (goAt : Nat) (result : Nat) (image : Nat) (hk0 : Kept s0 s) :
    Kept s0 (State.endBatch s goAt result image) := by
  unfold State.endBatch
  repeat' first
    | with_reducible assumption | (intro x; have hx : Kept s0 x := ?hk; clear_value x; case' hk => subst x)
    | (intro x; subst x) | intro _ | with_reducible apply State.putReg_kept
    | (rewrite [State.mk_eq_ofB]; with_reducible refine Kept.upd ?_) | lift_lets -underBinder | dsimp -zeta only
    | split

theorem State.failBatch_kept {s0 s : State} (goAt : Nat) (result : Nat) (image : Nat) (grove : Option Nat) (hk0 : Kept s0 s) :
    Kept s0 (State.failBatch s goAt result image grove) := by
  unfold State.failBatch
  repeat' first
    | with_reducible assumption | (intro x; have hx : Kept s0 x := ?hk; clear_value x; case' hk => subst x)
    | (intro x; subst x) | intro _ | with_reducible apply Kept.ite | with_reducible apply State.record_kept
    | with_reducible apply State.endBatch_kept | with_reducible apply State.afterBatch_kept | lift_lets -underBinder
    | dsimp -zeta only | split

theorem State.startBatch_kept {s0 s : State} (work : Tbl Grove) (images : List BatchImage) (hk0 : Kept s0 s) :
    Kept s0 (State.startBatch s work images) := by
  unfold State.startBatch
  repeat' first
    | with_reducible assumption | (intro x; have hx : Kept s0 x := ?hk; clear_value x; case' hk => subst x)
    | (intro x; subst x) | intro _ | with_reducible apply Kept.ite
    | (rewrite [pairQ_eq]; with_reducible refine KeptQ.mk ?_) | with_reducible apply KeptQ.ite
    | with_reducible apply State.fresh_kept | with_reducible apply State.each_kept
    | with_reducible apply State.abortMapout_kept | (rewrite [State.mk_eq_ofB]; with_reducible refine Kept.upd ?_)
    | with_reducible apply Kept.foldl | with_reducible refine Kept.of_snd (by assumption) ?_
    | with_reducible apply KeptQ.snd | lift_lets -underBinder | dsimp -zeta only | split

theorem State.batchGo_kept {s0 s : State} (v : Word) (hk0 : Kept s0 s) :
    Kept s0 (State.batchGo s v) := by
  unfold State.batchGo
  repeat' first
    | with_reducible assumption | (intro x; have hx : Kept s0 x := ?hk; clear_value x; case' hk => subst x)
    | (intro x; subst x) | intro _ | with_reducible apply Kept.ite | with_reducible apply KeptP.ite
    | (rewrite [pairP_eq]; with_reducible refine KeptP.mk ?_) | with_reducible apply State.record_kept
    | with_reducible apply State.softWrite_kept | with_reducible apply State.putFld_kept
    | with_reducible apply State.failBatch_kept | with_reducible apply State.fatal_kept
    | with_reducible apply State.readLocal_kept | with_reducible apply State.readImages_kept
    | with_reducible apply State.startBatch_kept | (rewrite [State.mk_eq_ofB]; with_reducible refine Kept.upd ?_)
    | with_reducible refine Kept.of_fst (by assumption) ?_ | with_reducible apply KeptP.fst | lift_lets -underBinder
    | dsimp -zeta only | split

theorem State.loadBudgets_kept {s0 s : State} (g : Nat) (kind : Nat) (l : List (Nat × Nat × Nat × Nat)) (hk0 : Kept s0 s) :
    Kept s0 (State.loadBudgets s g kind l) := by
  unfold State.loadBudgets
  repeat' first
    | with_reducible assumption | (intro x; have hx : Kept s0 x := ?hk; clear_value x; case' hk => subst x)
    | (intro x; subst x) | intro _ | with_reducible apply Kept.ite | with_reducible apply State.each_kept
    | with_reducible apply State.putReg_kept | with_reducible apply State.modBudget_kept
    | (rewrite [State.mk_eq_ofB]; with_reducible refine Kept.upd ?_) | lift_lets -underBinder | dsimp -zeta only
    | split

theorem State.staleCmds_kept {s0 s : State} (g : Nat) (hk0 : Kept s0 s) :
    Kept s0 (State.staleCmds s g) := by
  unfold State.staleCmds
  repeat' first
    | with_reducible assumption | (intro x; have hx : Kept s0 x := ?hk; clear_value x; case' hk => subst x)
    | (intro x; subst x) | intro _ | with_reducible apply Kept.ite | with_reducible apply State.each_kept
    | with_reducible apply State.endInject_kept | with_reducible apply State.staleCommand_kept
    | with_reducible apply State.modGth_kept | (rewrite [State.mk_eq_ofB]; with_reducible refine Kept.upd ?_)
    | lift_lets -underBinder | dsimp -zeta only | split

theorem State.applyImage_kept {s0 s : State} (i : BatchImage) (hk0 : Kept s0 s) :
    Kept s0 (State.applyImage s i) := by
  unfold State.applyImage
  repeat' first
    | with_reducible assumption | (intro x; have hx : Kept s0 x := ?hk; clear_value x; case' hk => subst x)
    | (intro x; subst x) | intro _ | with_reducible apply Kept.ite | with_reducible apply State.staleCmds_kept
    | with_reducible apply State.detachGrove_kept | with_reducible apply State.regrovePlan_kept
    | with_reducible apply State.loadBudgets_kept | with_reducible apply State.zeroFlows_kept
    | with_reducible apply State.clearHists_kept | with_reducible apply State.freshPages_kept
    | with_reducible apply State.modUpd_kept | with_reducible apply State.modStep_kept
    | with_reducible apply State.dropGather_kept | with_reducible apply State.dropCollect_kept
    | with_reducible apply State.dropEmb_kept | with_reducible apply State.dropUpdate_kept
    | with_reducible apply State.dropWaiting_kept | (rewrite [State.mk_eq_ofB]; with_reducible refine Kept.upd ?_)
    | lift_lets -underBinder | dsimp -zeta only | split

theorem State.rekey_kept {s0 s : State} (joins : List Nat) (c : Nat) (hk0 : Kept s0 s) :
    Kept s0 (State.rekey s joins c) := by
  unfold State.rekey
  repeat' first
    | with_reducible assumption | (intro x; have hx : Kept s0 x := ?hk; clear_value x; case' hk => subst x)
    | (intro x; subst x) | intro _ | with_reducible apply Kept.ite | with_reducible apply State.modChannel_kept
    | (rewrite [State.mk_eq_ofB]; with_reducible refine Kept.updW ?_ (cellDrop_wf _ _) id (Nat.le_refl _) (Nat.le_refl _))
    | (rewrite [State.mk_eq_ofB]; with_reducible refine Kept.upd ?_) | lift_lets -underBinder | dsimp -zeta only
    | split

theorem State.switchBatch_kept {s0 s : State} (b : Batch) (hk0 : Kept s0 s) :
    Kept s0 (State.switchBatch s b) := by
  unfold State.switchBatch
  repeat' first
    | with_reducible assumption | (intro x; have hx : Kept s0 x := ?hk; clear_value x; case' hk => subst x)
    | (intro x; subst x) | intro _ | with_reducible apply Kept.ite
    | (rewrite [pairQ_eq]; with_reducible refine KeptQ.mk ?_) | with_reducible apply KeptQ.ite
    | with_reducible apply State.fresh_kept | with_reducible apply State.each_kept
    | with_reducible apply State.discardGrove_kept | with_reducible apply State.clearTables_kept
    | with_reducible apply State.dropFlits_kept | with_reducible apply State.applyImage_kept
    | with_reducible apply State.discardTile_kept | with_reducible apply State.resetTile_kept
    | with_reducible apply State.watchRegrove_kept | with_reducible apply State.clearKnots_kept
    | with_reducible apply State.dropLanes_kept | with_reducible apply State.regroveSampler_kept
    | with_reducible apply State.rekey_kept | with_reducible apply State.unstall_kept
    | with_reducible apply State.judge_kept | (rewrite [State.mk_eq_ofB]; with_reducible refine Kept.upd ?_)
    | with_reducible refine Kept.of_snd (by assumption) ?_ | with_reducible apply KeptQ.snd | lift_lets -underBinder
    | dsimp -zeta only | split

theorem State.batchQuiesced_kept {s0 s : State} (hk0 : Kept s0 s) :
    Kept s0 (State.batchQuiesced s) := by
  unfold State.batchQuiesced
  repeat' first
    | with_reducible assumption | with_reducible apply Kept.ite | with_reducible apply State.switchBatch_kept | split

theorem State.batchLate_kept {s0 s : State} (image : Nat) (hk0 : Kept s0 s) :
    Kept s0 (State.batchLate s image) := by
  unfold State.batchLate
  repeat' first
    | with_reducible assumption | with_reducible apply Kept.ite | with_reducible apply State.failBatch_kept | split

theorem State.batchDone_kept {s0 s : State} (hk0 : Kept s0 s) :
    Kept s0 (State.batchDone s) := by
  unfold State.batchDone
  repeat' first
    | with_reducible assumption | (intro x; have hx : Kept s0 x := ?hk; clear_value x; case' hk => subst x)
    | (intro x; subst x) | intro _ | with_reducible apply Kept.ite | with_reducible apply State.each_kept
    | with_reducible apply State.modChannel_kept | with_reducible apply State.endBatch_kept
    | with_reducible apply State.afterBatch_kept | with_reducible apply State.memRetry_kept
    | (rewrite [State.mk_eq_ofB]; with_reducible refine Kept.upd ?_) | lift_lets -underBinder | dsimp -zeta only
    | split

theorem State.scrubAdvance_kept {s0 s : State} (c : Nat) (hk0 : Kept s0 s) :
    Kept s0 (State.scrubAdvance s c) := by
  unfold State.scrubAdvance
  repeat' first
    | with_reducible assumption | (intro x; have hx : Kept s0 x := ?hk; clear_value x; case' hk => subst x)
    | (intro x; subst x) | intro _ | with_reducible apply Kept.ite | with_reducible apply State.modChannel_kept
    | (rewrite [State.mk_eq_ofB]; with_reducible refine Kept.upd ?_) | lift_lets -underBinder | dsimp -zeta only
    | split

theorem State.endStale_kept {s0 s : State} (g : Nat) (x1 : StaleOp) (hk0 : Kept s0 s) :
    Kept s0 (State.endStale s g x1) := by
  unfold State.endStale
  repeat' first
    | with_reducible assumption | (intro x; have hx : Kept s0 x := ?hk; clear_value x; case' hk => subst x)
    | (intro x; subst x) | intro _ | with_reducible apply Kept.ite | with_reducible apply State.request_kept
    | with_reducible apply State.staleContributions_kept | with_reducible apply State.stepFault_kept
    | with_reducible apply State.endGth_kept | with_reducible apply State.modGth_kept
    | with_reducible apply State.adjRefused_kept | with_reducible apply State.modCol_kept
    | with_reducible apply State.modEmb_kept | with_reducible apply State.dropEntries_kept
    | with_reducible apply State.complete_kept | with_reducible apply State.kilnFail_kept
    | (rewrite [State.mk_eq_ofB]; with_reducible refine Kept.upd ?_) | lift_lets -underBinder | dsimp -zeta only
    | split

theorem State.retryHeld_kept {s0 s : State} (die : Nat) (g : Nat) (hk0 : Kept s0 s) :
    Kept s0 (State.retryHeld s die g) := by
  unfold State.retryHeld
  repeat' first
    | with_reducible assumption | (intro x; have hx : Kept s0 x := ?hk; clear_value x; case' hk => subst x)
    | (intro x; subst x) | intro _ | with_reducible apply Kept.ite | with_reducible apply KeptP.ite
    | (rewrite [pairP_eq]; with_reducible refine KeptP.mk ?_) | with_reducible apply State.each_kept
    | with_reducible apply State.spend_kept | with_reducible apply State.sendNow_kept
    | (rewrite [State.mk_eq_ofB]; with_reducible refine Kept.upd ?_)
    | with_reducible refine Kept.of_fst (by assumption) ?_ | with_reducible apply KeptP.fst | lift_lets -underBinder
    | dsimp -zeta only | split

theorem State.retryServe_kept {s0 s : State} (die : Nat) (g : Nat) (hk0 : Kept s0 s) :
    Kept s0 (State.retryServe s die g) := by
  unfold State.retryServe
  repeat' first
    | with_reducible assumption | (intro x; have hx : Kept s0 x := ?hk; clear_value x; case' hk => subst x)
    | (intro x; subst x) | intro _ | with_reducible apply State.serve_kept | with_reducible apply State.each_kept
    | with_reducible apply State.adjRange_kept | with_reducible apply State.adjPick_kept
    | with_reducible apply State.rowRead_kept | with_reducible apply State.rowAccumulate_kept
    | with_reducible apply State.kilnWrite_kept | (rewrite [State.mk_eq_ofB]; with_reducible refine Kept.upd ?_)
    | lift_lets -underBinder | dsimp -zeta only | split

theorem State.periodStart_kept {s0 s : State} (die : Nat) (g : Nat) (hk0 : Kept s0 s) :
    Kept s0 (State.periodStart s die g) := by
  unfold State.periodStart
  repeat' first
    | with_reducible assumption | (intro x; have hx : Kept s0 x := ?hk; clear_value x; case' hk => subst x)
    | (intro x; subst x) | intro _ | with_reducible apply Kept.ite | with_reducible apply State.each_kept
    | with_reducible apply State.modBudget_kept | with_reducible apply State.retryHeld_kept
    | with_reducible apply State.retryServe_kept | with_reducible apply State.retryGather_kept
    | with_reducible apply State.retryUpdate_kept | with_reducible apply State.applyFlips_kept
    | with_reducible apply State.kilnSends_kept | lift_lets -underBinder | dsimp -zeta only | split

theorem State.writeBudget_kept {s0 s : State} (die : Nat) (g : Nat) (a : Nat) (v : Word) (hk0 : Kept s0 s) :
    Kept s0 (State.writeBudget s die g a v) := by
  unfold State.writeBudget
  repeat' first
    | with_reducible assumption | (intro x; have hx : Kept s0 x := ?hk; clear_value x; case' hk => subst x)
    | (intro x; subst x) | intro _ | with_reducible apply Kept.ite | with_reducible apply State.refuseWrite_kept
    | with_reducible apply State.softWrite_kept | with_reducible apply State.modBudget_kept
    | (rewrite [State.mk_eq_ofB]; with_reducible refine Kept.upd ?_) | lift_lets -underBinder | dsimp -zeta only
    | split

theorem State.writeDevnum_kept {s0 s : State} (v : Word) (hk0 : Kept s0 s) :
    Kept s0 (State.writeDevnum s v) := by
  unfold State.writeDevnum
  repeat' first
    | with_reducible assumption | with_reducible apply Kept.ite | with_reducible apply State.softWrite_kept
    | with_reducible apply State.refuseWrite_kept | split

theorem State.service_kept {s0 s : State} (hk0 : Kept s0 s) : Kept s0 s.service := by
  unfold State.service
  split
  · rename_i h
    unfold State.mayServe at h
    simp only [Bool.and_eq_true, beq_iff_eq] at h
    exact State.recoverResult_kept _ (Kept.sup hk0 (StartState.right_service h.1.1.1.1.1.1.1.1))
  · exact State.recoverRefused_kept _ _ hk0

theorem State.coldReset_kept {s0 s : State} (hk0 : Kept s0 s) : Kept s0 s.coldReset :=
  ⟨hk0.pending, fun _ => rfl, fun _ => rfl, hk0.rollback, hk0.lms, hk0.outbox, hk0.free, Nat.le_succ_of_le hk0.epoch,
    fun _ => rfl⟩

theorem State.auxUp_kept {s0 s : State} (strap : Nat) (hk0 : Kept s0 s) :
    Kept s0 (State.auxUp s strap) := by
  unfold State.auxUp
  repeat' first
    | with_reducible assumption | (intro x; have hx : Kept s0 x := ?hk; clear_value x; case' hk => subst x)
    | (intro x; subst x) | intro _ | with_reducible apply Kept.ite | with_reducible apply State.coldReset_kept
    | with_reducible apply State.putReg_kept | with_reducible apply State.modClk_kept
    | (rewrite [State.mk_eq_ofB]; with_reducible refine Kept.updW ?_ id id (Nat.le_refl _) (Nat.le_refl _) (List.prefix_refl _) (Nat.le_refl _) (Nat.le_refl _) (fun w => StartState.right_ite w w))
    | (rewrite [State.mk_eq_ofB]; with_reducible refine Kept.upd ?_) | lift_lets -underBinder | dsimp -zeta only
    | split

theorem State.vinUp_kept {s0 s : State} (hk0 : Kept s0 s) :
    Kept s0 (State.vinUp s) := by
  unfold State.vinUp
  repeat' first
    | with_reducible assumption | (intro x; have hx : Kept s0 x := ?hk; clear_value x; case' hk => subst x)
    | (intro x; subst x) | intro _ | with_reducible apply Kept.ite | with_reducible apply State.coldReset_kept
    | with_reducible apply State.putReg_kept | with_reducible apply State.modClk_kept
    | with_reducible apply State.putFld_kept | (rewrite [State.mk_eq_ofB]; with_reducible refine Kept.upd ?_)
    | lift_lets -underBinder | dsimp -zeta only | split

theorem State.resetN_kept {s0 s : State} (us : Nat) (hk0 : Kept s0 s) :
    Kept s0 (State.resetN s us) := by
  unfold State.resetN
  repeat' first
    | with_reducible assumption | (intro x; have hx : Kept s0 x := ?hk; clear_value x; case' hk => subst x)
    | (intro x; subst x) | intro _ | with_reducible apply Kept.ite
    | (rewrite [pairQ_eq]; with_reducible refine KeptQ.mk ?_) | with_reducible apply KeptQ.ite
    | with_reducible apply State.fresh_kept | with_reducible apply State.coldReset_kept
    | (rewrite [State.mk_eq_ofB]; with_reducible refine Kept.upd ?_)
    | with_reducible refine Kept.of_snd (by assumption) ?_ | with_reducible apply KeptQ.snd | lift_lets -underBinder
    | dsimp -zeta only | split

theorem State.resetNUp_kept {s0 s : State} (strap : Nat) (hk0 : Kept s0 s) :
    Kept s0 (State.resetNUp s strap) := by
  unfold State.resetNUp
  repeat' first
    | with_reducible assumption | with_reducible apply Kept.ite
    | (rewrite [State.mk_eq_ofB]; with_reducible refine Kept.upd ?_) | dsimp -zeta only | split

theorem State.warmOp_kept {s0 s : State} (hk0 : Kept s0 s) :
    Kept s0 (State.warmOp s) := by
  unfold State.warmOp
  repeat' first
    | with_reducible assumption | (intro x; have hx : Kept s0 x := ?hk; clear_value x; case' hk => subst x)
    | (intro x; subst x) | intro _ | with_reducible apply Kept.ite | with_reducible apply State.service_kept
    | with_reducible apply State.warmReset_kept | with_reducible apply State.record_kept
    | with_reducible apply State.corrected_kept | with_reducible apply State.recoverResult_kept
    | with_reducible apply State.refPortCheck_kept | with_reducible apply State.recoverRefused_kept
    | lift_lets -underBinder | dsimp -zeta only | split

theorem State.groveResetOp_kept {s0 s : State} (hk0 : Kept s0 s) :
    Kept s0 (State.groveResetOp s) := by
  unfold State.groveResetOp
  repeat' first
    | with_reducible assumption | (intro x; have hx : Kept s0 x := ?hk; clear_value x; case' hk => subst x)
    | (intro x; subst x) | intro _ | with_reducible apply Kept.ite | with_reducible apply State.service_kept
    | with_reducible apply State.recoverRefused_kept | with_reducible apply State.putFld_kept
    | with_reducible apply State.groveReset_kept | with_reducible apply State.recoverResult_kept
    | (rewrite [State.mk_eq_ofB]; with_reducible refine Kept.upd ?_) | lift_lets -underBinder | dsimp -zeta only
    | split

theorem State.forceAsh_kept {s0 s : State} (hk0 : Kept s0 s) :
    Kept s0 (State.forceAsh s) := by
  unfold State.forceAsh
  repeat' first
    | with_reducible assumption | with_reducible apply Kept.ite | with_reducible apply State.recoverRefused_kept
    | with_reducible apply State.recoverResult_kept | with_reducible apply State.fatal_kept | split

theorem State.recoverTrain_kept {s0 s : State} (hk0 : Kept s0 s) :
    Kept s0 (State.recoverTrain s) := by
  unfold State.recoverTrain
  repeat' first
    | with_reducible assumption | (intro x; have hx : Kept s0 x := ?hk; clear_value x; case' hk => subst x)
    | (intro x; subst x) | intro _ | with_reducible apply Kept.ite | with_reducible apply State.relock_kept
    | (rewrite [State.mk_eq_ofB]; with_reducible refine Kept.upd ?_) | lift_lets -underBinder | dsimp -zeta only
    | split

theorem State.recover_kept {s0 s : State} (hk0 : Kept s0 s) :
    Kept s0 (State.recover s) := by
  unfold State.recover
  repeat' first
    | with_reducible assumption | intro _ | with_reducible apply Kept.ite
    | with_reducible apply State.recoverRefused_kept | with_reducible apply State.putFld_kept
    | with_reducible apply State.warmReset_kept | with_reducible apply State.recoverTrain_kept | dsimp -zeta only
    | split

theorem State.unbindGrove_kept {s0 s : State} (g : Nat) (hk0 : Kept s0 s) :
    Kept s0 (State.unbindGrove s g) := by
  unfold State.unbindGrove
  repeat' first
    | with_reducible assumption | (intro x; have hx : Kept s0 x := ?hk; clear_value x; case' hk => subst x)
    | (intro x; subst x) | intro _ | with_reducible apply State.discardGrove_kept
    | with_reducible apply State.clearTables_kept | with_reducible apply State.modGrove_kept
    | with_reducible apply State.applyImage_kept | with_reducible apply State.each_kept
    | with_reducible apply State.discardTile_kept | with_reducible apply State.resetTile_kept
    | with_reducible apply State.watchRegrove_kept | with_reducible apply State.clearKnots_kept
    | with_reducible apply State.dropLanes_kept | with_reducible apply State.regroveSampler_kept
    | with_reducible apply State.rekey_kept | (rewrite [State.mk_eq_ofB]; with_reducible refine Kept.upd ?_)
    | lift_lets -underBinder | dsimp -zeta only | split

theorem State.recoverDone_kept {s0 s : State} (hk0 : Kept s0 s) :
    Kept s0 (State.recoverDone s) := by
  unfold State.recoverDone
  repeat' first
    | with_reducible assumption | (intro x; have hx : Kept s0 x := ?hk; clear_value x; case' hk => subst x)
    | (intro x; subst x) | intro _ | with_reducible apply Kept.ite | with_reducible apply State.each_kept
    | with_reducible apply State.unbindGrove_kept | with_reducible apply State.putFld_kept
    | with_reducible apply State.recoverResult_kept | with_reducible apply State.fatal_kept
    | with_reducible apply State.service_kept
    | (rewrite [State.mk_eq_ofB]; with_reducible refine Kept.updW ?_ id id (Nat.le_refl _) (Nat.le_refl _) (List.prefix_refl _) (Nat.le_refl _) (Nat.le_refl _) (fun _ => StartState.right_recovered _))
    | (rewrite [State.mk_eq_ofB]; with_reducible refine Kept.upd ?_) | lift_lets -underBinder | dsimp -zeta only
    | split

theorem State.linksTrained_kept {s0 s : State} (cd0 : Nat × Nat) (cd1 : Nat × Nat) (span : Nat × Nat) (hk0 : Kept s0 s) :
    Kept s0 (State.linksTrained s cd0 cd1 span) := by
  unfold State.linksTrained
  repeat' first
    | with_reducible assumption | (intro x; have hx : Kept s0 x := ?hk; clear_value x; case' hk => subst x)
    | (intro x; subst x) | intro _ | with_reducible apply Kept.ite | with_reducible apply State.hlkTraining_kept
    | with_reducible apply State.recoverDone_kept | lift_lets -underBinder | dsimp -zeta only | split

theorem State.pllsLocked_kept {s0 s : State} (hk0 : Kept s0 s) :
    Kept s0 (State.pllsLocked s) := by
  unfold State.pllsLocked
  repeat' first
    | with_reducible assumption | with_reducible apply Kept.ite | with_reducible apply State.recoverTrain_kept
    | with_reducible apply State.relock_kept | split

theorem State.writeRecover_kept {s0 s : State} (v : Word) (hk0 : Kept s0 s) :
    Kept s0 (State.writeRecover s v) := by
  unfold State.writeRecover
  repeat' first
    | with_reducible assumption | (intro x; have hx : Kept s0 x := ?hk; clear_value x; case' hk => subst x)
    | (intro x; subst x) | intro _ | with_reducible apply Kept.ite | with_reducible apply State.softWrite_kept
    | with_reducible apply State.putFld_kept | with_reducible apply State.service_kept
    | with_reducible apply State.recover_kept | with_reducible apply State.warmOp_kept
    | with_reducible apply State.coldReset_kept | with_reducible apply State.groveResetOp_kept
    | with_reducible apply State.forceAsh_kept | with_reducible apply State.recoverRefused_kept
    | lift_lets -underBinder | dsimp -zeta only | split

theorem State.recoverOp_kept {s0 s : State} (v : Word) (op : Nat) (hk0 : Kept s0 s) :
    Kept s0 (State.recoverOp s v op) := by
  unfold State.recoverOp
  repeat' first
    | with_reducible assumption | intro _ | with_reducible apply State.unheld_kept
    | with_reducible apply State.writeRecover_kept | dsimp -zeta only | split

end Sys2Proof.Machine
end

