-- ==== Sys2Proof/Laws/KeptWindow.lean ====
section
/-! SUPPORT. What the operations of Machine/Registers, HearthLink, Package keep: `Kept`, one lemma each. -/
set_option Elab.async false
set_option linter.unusedTactic false
set_option linter.unreachableTactic false
set_option linter.unnecessarySeqFocus false
namespace Sys2Proof.Machine

theorem State.regLoad_kept {s0 s : State} (off : Nat) (width : Nat) (hk0 : Kept s0 s) :
    KeptP s0 (State.regLoad s off width) := by
  unfold State.regLoad
  repeat' first
    | with_reducible assumption | intro _ | with_reducible apply Kept.ite | with_reducible apply KeptP.ite
    | (rewrite [pairP_eq]; with_reducible refine KeptP.mk ?_) | with_reducible apply State.regAccess_kept
    | with_reducible refine Kept.of_fst (by assumption) ?_ | with_reducible apply KeptP.fst | dsimp -zeta only | split

theorem State.writeLoad_kept {s0 s : State} (v : Word) (hk0 : Kept s0 s) :
    Kept s0 (State.writeLoad s v) := by
  unfold State.writeLoad
  repeat' first
    | with_reducible assumption | with_reducible apply Kept.ite | with_reducible apply State.batchGo_kept
    | with_reducible apply State.softWrite_kept | split

theorem State.writeQcfg_kept {s0 s : State} (q : Nat) (v : Word) (hk0 : Kept s0 s) :
    Kept s0 (State.writeQcfg s q v) := by
  unfold State.writeQcfg
  repeat' first
    | with_reducible assumption | with_reducible apply Kept.ite | with_reducible apply State.queueEnable_kept
    | with_reducible apply State.queueDisable_kept | split

theorem State.writeSmoulder_kept {s0 s : State} (v : Word) (hk0 : Kept s0 s) :
    Kept s0 (State.writeSmoulder s v) := by
  unfold State.writeSmoulder
  repeat' first
    | with_reducible assumption | with_reducible apply Kept.ite | with_reducible apply State.smoulderEnter_kept
    | with_reducible apply State.smoulderLeave_kept | split

theorem State.writeSchClear_kept {s0 s : State} (tile : Nat) (v : Word) (hk0 : Kept s0 s) :
    Kept s0 (State.writeSchClear s tile v) := by
  unfold State.writeSchClear
  repeat' first
    | with_reducible assumption | (intro x; have hx : Kept s0 x := ?hk; clear_value x; case' hk => subst x)
    | (intro x; subst x) | intro _ | with_reducible apply Kept.ite | with_reducible apply State.clearHighWater_kept
    | with_reducible apply State.clearSchCounters_kept | lift_lets -underBinder | dsimp -zeta only | split

theorem State.writeRepair_kept {s0 s : State} (die : Nat) (v : Word) (hk0 : Kept s0 s) :
    Kept s0 (State.writeRepair s die v) := by
  unfold State.writeRepair
  repeat' first
    | with_reducible assumption | (intro x; have hx : Kept s0 x := ?hk; clear_value x; case' hk => subst x)
    | (intro x; subst x) | intro _ | with_reducible apply Kept.ite | with_reducible apply State.mrRead_kept
    | with_reducible apply State.mrWrite_kept | with_reducible apply State.softRepair_kept
    | with_reducible apply State.hardRepair_kept | with_reducible apply State.queryRepair_kept
    | with_reducible apply State.repairCmd_kept | with_reducible apply State.repairResult_kept
    | lift_lets -underBinder | dsimp -zeta only | split

theorem State.writeTallyRing_kept {s0 s : State} (die : Nat) (g : Nat) (v : Word) (hk0 : Kept s0 s) :
    Kept s0 (State.writeTallyRing s die g v) := by
  unfold State.writeTallyRing
  repeat' first
    | with_reducible assumption | (intro x; have hx : Kept s0 x := ?hk; clear_value x; case' hk => subst x)
    | (intro x; subst x) | intro _ | with_reducible apply Kept.ite | with_reducible apply State.softWrite_kept
    | with_reducible apply State.putReg_kept | lift_lets -underBinder | dsimp -zeta only | split

theorem State.writeMbox_kept {s0 s : State} (v : Word) (hk0 : Kept s0 s) :
    Kept s0 (State.writeMbox s v) := by
  unfold State.writeMbox
  repeat' first
    | with_reducible assumption | (intro x; have hx : Kept s0 x := ?hk; clear_value x; case' hk => subst x)
    | (intro x; subst x) | intro _ | with_reducible apply Kept.ite | with_reducible apply State.mbAttest_kept
    | with_reducible apply State.mbIdent_kept | with_reducible apply State.mbMeasure_kept
    | with_reducible apply State.mbProvision_kept | with_reducible apply State.mbRollback_kept
    | with_reducible apply State.mbLoad_kept | with_reducible apply State.mboxUnknown_kept | lift_lets -underBinder
    | dsimp -zeta only | split

theorem State.regWrite_kept {s0 s : State} (r : Reg) (ix : List Nat) (v : Word) (hk0 : Kept s0 s) :
    Kept s0 (State.regWrite s r ix v) := by
  unfold State.regWrite
  repeat' first
    | with_reducible assumption | with_reducible apply State.writeDevnum_kept
    | with_reducible apply State.writeRecover_kept | with_reducible apply State.writeRefSel_kept
    | with_reducible apply State.writeOpReq_kept | with_reducible apply State.writeCap_kept
    | with_reducible apply State.writeTherm_kept | with_reducible apply State.writeSmoulder_kept
    | with_reducible apply State.writeTail_kept | with_reducible apply State.writeLogState_kept
    | with_reducible apply State.tileCtl_kept | with_reducible apply State.writeMbox_kept
    | with_reducible apply State.writeQcfg_kept | with_reducible apply State.doorbell_kept
    | with_reducible apply State.writeLoad_kept | with_reducible apply State.writeBudget_kept
    | with_reducible apply State.writeSchClear_kept | with_reducible apply State.knotSignal_kept
    | with_reducible apply State.knotStage_kept | with_reducible apply State.knotInit_kept
    | with_reducible apply State.writeTallyRing_kept | with_reducible apply State.rowBufWrite_kept
    | with_reducible apply State.writeMergeQuota_kept | with_reducible apply State.writeEmbQuota_kept
    | with_reducible apply State.mapoutGo_kept | with_reducible apply State.writeRepair_kept
    | with_reducible apply State.chmapSet_kept | with_reducible apply State.writePortCfg_kept
    | with_reducible apply State.refPortCheck_kept | with_reducible apply State.writeCreditCfg_kept
    | with_reducible apply State.writeTorus_kept | with_reducible apply State.writeBundle_kept
    | with_reducible apply State.writeStandin_kept | with_reducible apply State.tolWrite_kept
    | with_reducible apply State.softWrite_kept | split

theorem State.regStore_kept {s0 s : State} (off : Nat) (width : Nat) (v : Word) (hk0 : Kept s0 s) :
    Kept s0 (State.regStore s off width v) := by
  unfold State.regStore
  repeat' first
    | with_reducible assumption | with_reducible apply Kept.ite | with_reducible apply State.regAccess_kept
    | with_reducible apply State.regWrite_kept | split

theorem State.hlkAck_kept {s0 s : State} (k : Nat) (ackSeq : Nat) (credits : List Nat) (hk0 : Kept s0 s) :
    Kept s0 (State.hlkAck s k ackSeq credits) := by
  unfold State.hlkAck
  repeat' first
    | with_reducible assumption | intro _ | with_reducible apply State.modHlk_kept
    | with_reducible apply State.hlkPump_kept | (rewrite [State.mk_eq_ofB]; with_reducible refine Kept.upd ?_)
    | dsimp -zeta only | split

theorem State.hlkNak_kept {s0 s : State} (k : Nat) (hk0 : Kept s0 s) :
    Kept s0 (State.hlkNak s k) := by
  unfold State.hlkNak
  repeat' first
    | with_reducible assumption | (intro x; have hx : Kept s0 x := ?hk; clear_value x; case' hk => subst x)
    | (intro x; subst x) | intro _ | with_reducible apply State.emit_kept
    | (rewrite [State.mk_eq_ofB]; with_reducible refine Kept.upd ?_) | lift_lets -underBinder | dsimp -zeta only
    | split

theorem State.hlkStale_kept {s0 s : State} (k : Nat) (grove : Nat) (gen : Nat) (hk0 : Kept s0 s) :
    Kept s0 (State.hlkStale s k grove gen) := by
  unfold State.hlkStale
  repeat' first
    | with_reducible assumption | (intro x; have hx : Kept s0 x := ?hk; clear_value x; case' hk => subst x)
    | (intro x; subst x) | intro _ | with_reducible apply Kept.ite | with_reducible apply State.bump_kept
    | with_reducible apply State.putReg_kept | with_reducible apply State.hlkSend_kept
    | (rewrite [State.mk_eq_ofB]; with_reducible refine Kept.upd ?_) | lift_lets -underBinder | dsimp -zeta only
    | split

theorem State.hlkRuntime_kept {s0 s : State} (k : Nat) (f : HFlit) (hk0 : Kept s0 s) :
    Kept s0 (State.hlkRuntime s k f) := by
  unfold State.hlkRuntime
  repeat' first
    | with_reducible assumption | (intro x; have hx : Kept s0 x := ?hk; clear_value x; case' hk => subst x)
    | (intro x; subst x) | intro _ | with_reducible apply Kept.ite | with_reducible apply KeptP.ite
    | (rewrite [pairP_eq]; with_reducible refine KeptP.mk ?_) | with_reducible apply State.regLoad_kept
    | with_reducible apply State.hlkSend_kept | with_reducible apply State.regStore_kept
    | with_reducible apply State.interrupt_kept | with_reducible apply State.emit_kept
    | (rewrite [State.mk_eq_ofB]; with_reducible refine Kept.upd ?_)
    | with_reducible refine Kept.of_fst (by assumption) ?_ | with_reducible apply KeptP.fst | lift_lets -underBinder
    | dsimp -zeta only | split

theorem State.hlkGrove_kept {s0 s : State} (k : Nat) (f : HFlit) (hk0 : Kept s0 s) :
    Kept s0 (State.hlkGrove s k f) := by
  unfold State.hlkGrove
  repeat' first
    | with_reducible assumption | (intro x; have hx : Kept s0 x := ?hk; clear_value x; case' hk => subst x)
    | (intro x; subst x) | intro _ | with_reducible apply Kept.ite | with_reducible apply State.emit_kept
    | with_reducible apply State.hlkStale_kept | lift_lets -underBinder | dsimp -zeta only | split

theorem State.hlkAct_kept {s0 s : State} (k : Nat) (b : List Byte) (hk0 : Kept s0 s) :
    Kept s0 (State.hlkAct s k b) := by
  unfold State.hlkAct
  repeat' first
    | with_reducible assumption | (intro x; have hx : Kept s0 x := ?hk; clear_value x; case' hk => subst x)
    | (intro x; subst x) | intro _ | with_reducible apply Kept.ite | with_reducible apply State.bump_kept
    | with_reducible apply State.hlkRuntime_kept | with_reducible apply State.hlkGrove_kept | lift_lets -underBinder
    | dsimp -zeta only | split

theorem State.hlkReceive_kept {s0 s : State} (k : Nat) (b : List Byte) (hk0 : Kept s0 s) :
    Kept s0 (State.hlkReceive s k b) := by
  unfold State.hlkReceive
  repeat' first
    | with_reducible assumption | (intro x; have hx : Kept s0 x := ?hk; clear_value x; case' hk => subst x)
    | (intro x; subst x) | intro _ | with_reducible apply Kept.ite | with_reducible apply State.hlkNak_kept
    | with_reducible apply State.hlkAck_kept | with_reducible apply State.hlkReplay_kept
    | with_reducible apply State.modHlk_kept | with_reducible apply State.hlkAct_kept
    | (rewrite [State.mk_eq_ofB]; with_reducible refine Kept.upd ?_) | lift_lets -underBinder | dsimp -zeta only
    | split

theorem State.modPkg_kept {s0 s : State} (f : PkgState → PkgState) (hk0 : Kept s0 s) :
    Kept s0 (State.modPkg s f) := by
  unfold State.modPkg
  repeat' first
    | with_reducible assumption | (rewrite [State.mk_eq_ofB]; with_reducible refine Kept.upd ?_) | dsimp -zeta only
    | split

theorem State.smbusStatus_kept {s0 s : State} (code : Nat) (hk0 : Kept s0 s) :
    Kept s0 (State.smbusStatus s code) := by
  unfold State.smbusStatus
  repeat' first
    | with_reducible assumption | with_reducible apply State.emit_kept | split

theorem State.smbusRead_kept {s0 s : State} (off : Nat) (hk0 : Kept s0 s) :
    Kept s0 (State.smbusRead s off) := by
  unfold State.smbusRead
  repeat' first
    | with_reducible assumption | (intro x; have hx : Kept s0 x := ?hk; clear_value x; case' hk => subst x)
    | (intro x; subst x) | intro _ | with_reducible apply Kept.ite | with_reducible apply KeptP.ite
    | (rewrite [pairP_eq]; with_reducible refine KeptP.mk ?_) | with_reducible apply State.regLoad_kept
    | with_reducible apply State.emit_kept | with_reducible apply State.smbusStatus_kept
    | with_reducible refine Kept.of_fst (by assumption) ?_ | with_reducible apply KeptP.fst | lift_lets -underBinder
    | dsimp -zeta only | split

theorem State.smbusWrite_kept {s0 s : State} (off : Nat) (v : Word) (hk0 : Kept s0 s) :
    Kept s0 (State.smbusWrite s off v) := by
  unfold State.smbusWrite
  repeat' first
    | with_reducible assumption | with_reducible apply Kept.ite | with_reducible apply State.regStore_kept | split

theorem State.imgClear_kept {s0 s : State} (status : Nat) (hk0 : Kept s0 s) :
    Kept s0 (State.imgClear s status) := by
  unfold State.imgClear
  repeat' first
    | with_reducible assumption | intro _ | with_reducible apply State.modPkg_kept
    | (rewrite [State.mk_eq_ofB]; with_reducible refine Kept.upd ?_) | dsimp -zeta only | split

theorem State.imgRefuse_kept {s0 s : State} (kind : Nat) (hk0 : Kept s0 s) :
    Kept s0 (State.imgRefuse s kind) := by
  unfold State.imgRefuse
  repeat' first
    | with_reducible assumption | with_reducible apply Kept.ite | with_reducible apply State.bootFault_kept
    | with_reducible apply State.imgClear_kept | split

theorem State.imgBegin_kept {s0 s : State} (kind : Nat) (length : Nat) (hk0 : Kept s0 s) :
    Kept s0 (State.imgBegin s kind length) := by
  unfold State.imgBegin
  repeat' first
    | with_reducible assumption | intro _ | with_reducible apply Kept.ite
    | with_reducible apply State.smbusStatus_kept | with_reducible apply State.imgRefuse_kept
    | with_reducible apply State.modPkg_kept | (rewrite [State.mk_eq_ofB]; with_reducible refine Kept.upd ?_)
    | dsimp -zeta only | split

theorem State.imgBytes_kept {s0 s : State} (off : Nat) (data : List Byte) (hk0 : Kept s0 s) :
    Kept s0 (State.imgBytes s off data) := by
  unfold State.imgBytes
  repeat' first
    | with_reducible assumption | (intro x; have hx : Kept s0 x := ?hk; clear_value x; case' hk => subst x)
    | (intro x; subst x) | intro _ | with_reducible apply Kept.ite | with_reducible apply State.smbusStatus_kept
    | with_reducible apply State.modPkg_kept | (rewrite [State.mk_eq_ofB]; with_reducible refine Kept.upd ?_)
    | with_reducible apply Kept.foldl | lift_lets -underBinder | dsimp -zeta only | split

theorem State.bootResume_kept {s0 s : State} (hk0 : Kept s0 s) :
    Kept s0 (State.bootResume s) := by
  unfold State.bootResume
  repeat' first
    | with_reducible assumption | (intro x; have hx : Kept s0 x := ?hk; clear_value x; case' hk => subst x)
    | (intro x; subst x) | intro _ | with_reducible apply Kept.ite | with_reducible apply KeptP.ite
    | (rewrite [pairP_eq]; with_reducible refine KeptP.mk ?_) | with_reducible apply State.bootProvision_kept
    | with_reducible apply State.bootLoader_kept | with_reducible apply State.bootFault_kept
    | with_reducible apply State.excludeCopy_kept | with_reducible apply State.romStart_kept
    | with_reducible refine Kept.of_fst (by assumption) ?_ | with_reducible apply KeptP.fst | lift_lets -underBinder
    | dsimp -zeta only | split

theorem State.applySet_kept {s0 s : State} (b : List Byte) (hk0 : Kept s0 s) :
    KeptP s0 (State.applySet s b) := by
  unfold State.applySet
  repeat' first
    | with_reducible assumption | with_reducible apply Kept.ite | with_reducible apply KeptP.ite
    | (rewrite [pairP_eq]; with_reducible refine KeptP.mk ?_) | with_reducible apply State.bootSet_kept
    | with_reducible apply State.romStart_kept | with_reducible refine Kept.of_fst (by assumption) ?_
    | with_reducible apply KeptP.fst | split

theorem State.applyRecord_kept {s0 s : State} (b : List Byte) (hk0 : Kept s0 s) :
    KeptP s0 (State.applyRecord s b) := by
  unfold State.applyRecord
  repeat' first
    | with_reducible assumption | intro _ | (rewrite [pairP_eq]; with_reducible refine KeptP.mk ?_)
    | with_reducible apply State.provisionSet_kept
    | with_reducible refine State.modHwd_kept ?_ (Nat.le_refl _) (Nat.le_refl _)
    | with_reducible apply State.bootResume_kept | with_reducible apply State.bootFault_kept
    | (rewrite [State.mk_eq_ofB]; with_reducible refine Kept.upd ?_)
    | with_reducible refine Kept.of_fst (by assumption) ?_ | with_reducible apply KeptP.fst | dsimp -zeta only | split

theorem State.imgEnd_kept {s0 s : State} (crc : Nat) (hk0 : Kept s0 s) :
    Kept s0 (State.imgEnd s crc) := by
  unfold State.imgEnd
  repeat' first
    | with_reducible assumption | (intro x; have hx : Kept s0 x := ?hk; clear_value x; case' hk => subst x)
    | (intro x; subst x) | intro _ | with_reducible apply Kept.ite | with_reducible apply KeptP.ite
    | (rewrite [pairP_eq]; with_reducible refine KeptP.mk ?_) | with_reducible apply State.smbusStatus_kept
    | with_reducible apply State.imgRefuse_kept | with_reducible apply State.applySet_kept
    | with_reducible apply State.applyRecord_kept | with_reducible apply State.imgClear_kept
    | with_reducible refine Kept.of_fst (by assumption) ?_ | with_reducible apply KeptP.fst | lift_lets -underBinder
    | dsimp -zeta only | split

theorem State.alertResponse_kept {s0 s : State} (hk0 : Kept s0 s) : Kept s0 s.alertResponse := by
  unfold State.alertResponse
  have h1 := State.emit_kept (.smbus [BitVec.ofNat 8 (0x58 + s.pkg.strap)]) hk0
  split
  · exact hk0
  · dsimp only
    split
    · exact h1
    · exact Kept.sup h1 (StartState.right_alertOff ‹_›)

theorem State.tapLeave_kept {s0 s : State} (next : TapInstr) (hk0 : Kept s0 s) :
    Kept s0 (State.tapLeave s next) := by
  unfold State.tapLeave
  repeat' first
    | with_reducible assumption | intro _ | with_reducible apply Kept.ite | with_reducible apply State.modPkg_kept
    | with_reducible apply State.portsOff_kept | with_reducible apply State.refPortCheck_kept
    | with_reducible apply State.modHrt_kept | (rewrite [State.mk_eq_ofB]; with_reducible refine Kept.upd ?_)
    | dsimp -zeta only | split

theorem State.tapEntry_kept {s0 s : State} (i : TapInstr) (hk0 : Kept s0 s) :
    Kept s0 (State.tapEntry s i) := by
  unfold State.tapEntry
  repeat' first
    | with_reducible assumption | (intro x; have hx : Kept s0 x := ?hk; clear_value x; case' hk => subst x)
    | (intro x; subst x) | intro _ | with_reducible apply Kept.ite | with_reducible apply State.tapLeave_kept
    | with_reducible apply State.modPkg_kept | with_reducible apply State.portsOff_kept
    | with_reducible apply State.refPortCheck_kept | (rewrite [State.mk_eq_ofB]; with_reducible refine Kept.upd ?_)
    | lift_lets -underBinder | dsimp -zeta only | split

end Sys2Proof.Machine
end

