-- ==== Sys2Proof/Laws/KeptExec.lean ====
section
/-! SUPPORT. What the meaning of each command keeps: `Kept`, one lemma each. -/
set_option Elab.async false
set_option linter.unusedTactic false
set_option linter.unreachableTactic false
set_option linter.unnecessarySeqFocus false
namespace Sys2Proof.Machine

theorem execLnkIdleSend_kept {s0 s s1 : State} (port : Nat)
    (hk0 : Kept s0 s) (hx : execLnkIdleSend port s = .next s1) : Kept s0 s1 := by
  unfold execLnkIdleSend at hx
  injection hx with hx
  subst hx
  repeat' first
    | with_reducible assumption | intro _ | with_reducible apply Kept.ite | with_reducible apply State.onDie_kept
    | with_reducible apply State.sendBare_kept | dsimp -zeta only | split

theorem execTrainSignalDetect_kept {s0 s s1 : State} (port : Nat) (lanes : Nat)
    (hk0 : Kept s0 s) (hx : execTrainSignalDetect port lanes s = .next s1) : Kept s0 s1 := by
  unfold execTrainSignalDetect at hx
  injection hx with hx
  subst hx
  repeat' first
    | with_reducible assumption | intro _ | with_reducible apply State.onDie_kept
    | with_reducible apply State.trainStep_kept | dsimp -zeta only | split

theorem execTrainEqualiseDone_kept {s0 s s1 : State} (port : Nat) (lanes : Nat)
    (hk0 : Kept s0 s) (hx : execTrainEqualiseDone port lanes s = .next s1) : Kept s0 s1 := by
  unfold execTrainEqualiseDone at hx
  injection hx with hx
  subst hx
  repeat' first
    | with_reducible assumption | intro _ | with_reducible apply State.onDie_kept
    | with_reducible apply State.trainStep_kept | dsimp -zeta only | split

theorem execTrainAlignDone_kept {s0 s s1 : State} (port : Nat) (lanes : Nat)
    (hk0 : Kept s0 s) (hx : execTrainAlignDone port lanes s = .next s1) : Kept s0 s1 := by
  unfold execTrainAlignDone at hx
  injection hx with hx
  subst hx
  repeat' first
    | with_reducible assumption | intro _ | with_reducible apply State.onDie_kept
    | with_reducible apply State.trainStep_kept | dsimp -zeta only | split

theorem execLnkCreditCfgWrite_kept {s0 s s1 : State} (port : Nat) (value : Word)
    (hk0 : Kept s0 s) (hx : execLnkCreditCfgWrite port value s = .next s1) : Kept s0 s1 := by
  unfold execLnkCreditCfgWrite at hx
  injection hx with hx
  subst hx
  repeat' first
    | with_reducible assumption | intro _ | with_reducible apply State.onDie_kept
    | with_reducible apply State.writeCreditCfg_kept | dsimp -zeta only | split

theorem execLnkTorusWrite_kept {s0 s s1 : State} (value : Word)
    (hk0 : Kept s0 s) (hx : execLnkTorusWrite value s = .next s1) : Kept s0 s1 := by
  unfold execLnkTorusWrite at hx
  injection hx with hx
  subst hx
  repeat' first
    | with_reducible assumption | intro _ | with_reducible apply State.onDie_kept
    | with_reducible apply State.writeTorus_kept | dsimp -zeta only | split

theorem execLnkBundleWrite_kept {s0 s s1 : State} (value : Word)
    (hk0 : Kept s0 s) (hx : execLnkBundleWrite value s = .next s1) : Kept s0 s1 := by
  unfold execLnkBundleWrite at hx
  injection hx with hx
  subst hx
  repeat' first
    | with_reducible assumption | intro _ | with_reducible apply State.onDie_kept
    | with_reducible apply State.writeBundle_kept | dsimp -zeta only | split

theorem execLnkStandinWrite_kept {s0 s s1 : State} (dir : Nat) (value : Word)
    (hk0 : Kept s0 s) (hx : execLnkStandinWrite dir value s = .next s1) : Kept s0 s1 := by
  unfold execLnkStandinWrite at hx
  injection hx with hx
  subst hx
  repeat' first
    | with_reducible assumption | intro _ | with_reducible apply State.onDie_kept
    | with_reducible apply State.writeStandin_kept | dsimp -zeta only | split

theorem execQueueDoorbell_kept {s0 s s1 : State} (queue : Nat) (value : Word)
    (hk0 : Kept s0 s) (hx : execQueueDoorbell queue value s = .next s1) : Kept s0 s1 := by
  unfold execQueueDoorbell at hx
  injection hx with hx
  subst hx
  repeat' first
    | with_reducible assumption | intro _ | with_reducible apply State.awake_kept
    | with_reducible apply State.doorbell_kept | dsimp -zeta only | split

theorem execQueueEnable_kept {s0 s s1 : State} (queue : Nat) (value : Word)
    (hk0 : Kept s0 s) (hx : execQueueEnable queue value s = .next s1) : Kept s0 s1 := by
  unfold execQueueEnable at hx
  injection hx with hx
  subst hx
  repeat' first
    | with_reducible assumption | intro _ | with_reducible apply State.awake_kept
    | with_reducible apply State.queueEnable_kept | dsimp -zeta only | split

theorem execQueueEnableTakeEffect_kept {s0 s s1 : State} (queue : Nat)
    (hk0 : Kept s0 s) (hx : execQueueEnableTakeEffect queue s = .next s1) : Kept s0 s1 := by
  unfold execQueueEnableTakeEffect at hx
  injection hx with hx
  subst hx
  repeat' first
    | with_reducible assumption | intro _ | with_reducible apply State.awake_kept
    | with_reducible apply State.enableTakesEffect_kept | dsimp -zeta only | split

theorem execQueueDisable_kept {s0 s s1 : State} (queue : Nat) (value : Word)
    (hk0 : Kept s0 s) (hx : execQueueDisable queue value s = .next s1) : Kept s0 s1 := by
  unfold execQueueDisable at hx
  injection hx with hx
  subst hx
  repeat' first
    | with_reducible assumption | intro _ | with_reducible apply State.awake_kept
    | with_reducible apply State.queueDisable_kept | dsimp -zeta only | split

theorem execInject_kept {s0 s s1 : State} (queue : Nat) (index : Nat)
    (hk0 : Kept s0 s) (hx : execInject queue index s = .next s1) : Kept s0 s1 := by
  unfold execInject at hx
  injection hx with hx
  subst hx
  repeat' first
    | with_reducible assumption | intro _ | with_reducible apply State.onDie_kept
    | with_reducible apply State.inject_kept | dsimp -zeta only | split

theorem execInjectPlace_kept {s0 s s1 : State} (queue : Nat) (index : Nat)
    (hk0 : Kept s0 s) (hx : execInjectPlace queue index s = .next s1) : Kept s0 s1 := by
  unfold execInjectPlace at hx
  injection hx with hx
  subst hx
  repeat' first
    | with_reducible assumption | intro _ | with_reducible apply State.onDie_kept
    | with_reducible apply State.injectPlace_kept | dsimp -zeta only | split

theorem execTaskDispatch_kept {s0 s s1 : State} (tile : Nat) (unit : Nat) (cycles : StallCycles)
    (hk0 : Kept s0 s) (hx : execTaskDispatch tile unit cycles s = .next s1) : Kept s0 s1 := by
  unfold execTaskDispatch at hx
  injection hx with hx
  subst hx
  repeat' first
    | with_reducible assumption | intro _ | with_reducible apply State.onDie_kept
    | with_reducible apply State.dispatch_kept | dsimp -zeta only | split

theorem execKntSignal_kept {s0 s s1 : State} (knot : Nat) (value : Word)
    (hk0 : Kept s0 s) (hx : execKntSignal knot value s = .next s1) : Kept s0 s1 := by
  unfold execKntSignal at hx
  injection hx with hx
  subst hx
  repeat' first
    | with_reducible assumption | intro _ | with_reducible apply State.onDie_kept
    | with_reducible apply State.knotSignal_kept | dsimp -zeta only | split

theorem execKntInit_kept {s0 s s1 : State} (knot : Nat) (value : Word)
    (hk0 : Kept s0 s) (hx : execKntInit knot value s = .next s1) : Kept s0 s1 := by
  unfold execKntInit at hx
  injection hx with hx
  subst hx
  repeat' first
    | with_reducible assumption | intro _ | with_reducible apply State.onDie_kept
    | with_reducible apply State.knotInit_kept | dsimp -zeta only | split

theorem execKnotSignalMessage_kept {s0 s s1 : State} (o : Origin) (knot : Nat) (amount : Nat)
    (hk0 : Kept s0 s) (hx : execKnotSignalMessage o knot amount s = .next s1) : Kept s0 s1 := by
  unfold execKnotSignalMessage at hx
  injection hx with hx
  subst hx
  repeat' first
    | with_reducible assumption | intro _ | with_reducible apply State.onDie_kept
    | with_reducible apply State.signalMessage_kept | dsimp -zeta only | split

theorem execSchClearHighWater_kept {s0 s s1 : State} (tile : Nat)
    (hk0 : Kept s0 s) (hx : execSchClearHighWater tile s = .next s1) : Kept s0 s1 := by
  unfold execSchClearHighWater at hx
  injection hx with hx
  subst hx
  repeat' first
    | with_reducible assumption | intro _ | with_reducible apply State.onDie_kept
    | with_reducible apply State.clearHighWater_kept | dsimp -zeta only | split

theorem execSchClearCounters_kept {s0 s s1 : State} (tile : Nat)
    (hk0 : Kept s0 s) (hx : execSchClearCounters tile s = .next s1) : Kept s0 s1 := by
  unfold execSchClearCounters at hx
  injection hx with hx
  subst hx
  repeat' first
    | with_reducible assumption | intro _ | with_reducible apply State.onDie_kept
    | with_reducible apply State.clearSchCounters_kept | dsimp -zeta only | split

theorem execSmpAdjReadReturn_kept {s0 s s1 : State} (lane : Nat) (parent : Nat) (cycles : Nat)
    (hk0 : Kept s0 s) (hx : execSmpAdjReadReturn lane parent cycles s = .next s1) : Kept s0 s1 := by
  unfold execSmpAdjReadReturn at hx
  injection hx with hx
  subst hx
  repeat' first
    | with_reducible assumption | intro _ | with_reducible apply State.onDie_kept
    | with_reducible apply State.adjReturn_kept | dsimp -zeta only | split

theorem execAdjResponseReceive_kept {s0 s s1 : State} (die : Nat) (request : Nat) (r : AdjResp)
    (hk0 : Kept s0 s) (hx : execAdjResponseReceive die request r s = .next s1) : Kept s0 s1 := by
  unfold execAdjResponseReceive at hx
  injection hx with hx
  subst hx
  repeat' first
    | with_reducible assumption | intro _ | with_reducible apply State.onDie_kept
    | with_reducible apply State.adjResponse_kept | with_reducible apply State.request_kept | dsimp -zeta only | split

theorem execSmpRemoteTimeout_kept {s0 s s1 : State} (die : Nat) (request : Nat)
    (hk0 : Kept s0 s) (hx : execSmpRemoteTimeout die request s = .next s1) : Kept s0 s1 := by
  unfold execSmpRemoteTimeout at hx
  injection hx with hx
  subst hx
  repeat' first
    | with_reducible assumption | intro _ | with_reducible apply State.onDie_kept
    | with_reducible apply State.adjTimeout_kept | with_reducible apply State.request_kept | dsimp -zeta only | split

theorem execAdjRange_kept {s0 s s1 : State} (die : Nat) (o : Origin) (r : AdjRange)
    (hk0 : Kept s0 s) (hx : execAdjRange die o r s = .next s1) : Kept s0 s1 := by
  unfold execAdjRange at hx
  injection hx with hx
  subst hx
  repeat' first
    | with_reducible assumption | intro _ | with_reducible apply State.onDie_kept
    | with_reducible apply State.adjRange_kept | dsimp -zeta only | split

theorem execAdjPick_kept {s0 s s1 : State} (die : Nat) (o : Origin) (r : AdjPick)
    (hk0 : Kept s0 s) (hx : execAdjPick die o r s = .next s1) : Kept s0 s1 := by
  unfold execAdjPick at hx
  injection hx with hx
  subst hx
  repeat' first
    | with_reducible assumption | intro _ | with_reducible apply State.onDie_kept
    | with_reducible apply State.adjPick_kept | dsimp -zeta only | split

theorem execStreamSet_kept {s0 s s1 : State} (queue : Nat) (index : Nat)
    (hk0 : Kept s0 s) (hx : execStreamSet queue index s = .next s1) : Kept s0 s1 := by
  unfold execStreamSet at hx
  injection hx with hx
  subst hx
  repeat' first
    | with_reducible assumption | intro _ | with_reducible apply State.onDie_kept
    | with_reducible apply State.streamSet_kept | dsimp -zeta only | split

theorem execProgLoad_kept {s0 s s1 : State} (queue : Nat) (index : Nat)
    (hk0 : Kept s0 s) (hx : execProgLoad queue index s = .next s1) : Kept s0 s1 := by
  unfold execProgLoad at hx
  injection hx with hx
  subst hx
  repeat' first
    | with_reducible assumption | intro _ | with_reducible apply State.onDie_kept
    | with_reducible apply State.progLoad_kept | dsimp -zeta only | split

theorem execProgUnload_kept {s0 s s1 : State} (queue : Nat) (index : Nat)
    (hk0 : Kept s0 s) (hx : execProgUnload queue index s = .next s1) : Kept s0 s1 := by
  unfold execProgUnload at hx
  injection hx with hx
  subst hx
  repeat' first
    | with_reducible assumption | intro _ | with_reducible apply State.onDie_kept
    | with_reducible apply State.progUnload_kept | dsimp -zeta only | split

theorem execRowRead_kept {s0 s s1 : State} (die : Nat) (o : Origin) (r : RowRead)
    (hk0 : Kept s0 s) (hx : execRowRead die o r s = .next s1) : Kept s0 s1 := by
  unfold execRowRead at hx
  injection hx with hx
  subst hx
  repeat' first
    | with_reducible assumption | intro _ | with_reducible apply State.onDie_kept
    | with_reducible apply State.rowRead_kept | dsimp -zeta only | split

theorem execRowReadRelease_kept {s0 s s1 : State} (die : Nat) (o : Origin) (request : Nat)
    (hk0 : Kept s0 s) (hx : execRowReadRelease die o request s = .next s1) : Kept s0 s1 := by
  unfold execRowReadRelease at hx
  injection hx with hx
  subst hx
  repeat' first
    | with_reducible assumption | intro _ | with_reducible apply State.onDie_kept
    | with_reducible apply State.retryReads_kept | with_reducible apply State.request_kept | dsimp -zeta only | split

theorem execRowAccumulate_kept {s0 s s1 : State} (die : Nat) (o : Origin) (a : RowAcc)
    (hk0 : Kept s0 s) (hx : execRowAccumulate die o a s = .next s1) : Kept s0 s1 := by
  unfold execRowAccumulate at hx
  injection hx with hx
  subst hx
  repeat' first
    | with_reducible assumption | intro _ | with_reducible apply State.onDie_kept
    | with_reducible apply State.rowAccumulate_kept | dsimp -zeta only | split

theorem execRefreshAckReceive_kept {s0 s s1 : State} (die : Nat) (request : Nat)
    (hk0 : Kept s0 s) (hx : execRefreshAckReceive die request s = .next s1) : Kept s0 s1 := by
  unfold execRefreshAckReceive at hx
  injection hx with hx
  subst hx
  repeat' first
    | with_reducible assumption | intro _ | with_reducible apply State.onDie_kept
    | with_reducible apply State.refreshAck_kept | with_reducible apply State.request_kept | dsimp -zeta only | split

theorem execRegraftCopyReceive_kept {s0 s s1 : State} (die : Nat) (o : Origin) (c : RowCopy)
    (hk0 : Kept s0 s) (hx : execRegraftCopyReceive die o c s = .next s1) : Kept s0 s1 := by
  unfold execRegraftCopyReceive at hx
  injection hx with hx
  subst hx
  repeat' first
    | with_reducible assumption | intro _ | with_reducible apply State.onDie_kept
    | with_reducible apply State.copyReceive_kept | dsimp -zeta only | split

theorem execScionCopyReceive_kept {s0 s s1 : State} (die : Nat) (o : Origin) (c : RowCopy)
    (hk0 : Kept s0 s) (hx : execScionCopyReceive die o c s = .next s1) : Kept s0 s1 := by
  unfold execScionCopyReceive at hx
  injection hx with hx
  subst hx
  repeat' first
    | with_reducible assumption | intro _ | with_reducible apply State.onDie_kept
    | with_reducible apply State.copyReceive_kept | dsimp -zeta only | split

theorem execScionRefreshReceive_kept {s0 s s1 : State} (die : Nat) (o : Origin) (c : RowCopy)
    (hk0 : Kept s0 s) (hx : execScionRefreshReceive die o c s = .next s1) : Kept s0 s1 := by
  unfold execScionRefreshReceive at hx
  injection hx with hx
  subst hx
  repeat' first
    | with_reducible assumption | intro _ | with_reducible apply State.onDie_kept
    | with_reducible apply State.refreshReceive_kept | dsimp -zeta only | split

theorem execRegraftMirrorReceive_kept {s0 s s1 : State} (die : Nat) (o : Origin) (c : RowCopy)
    (hk0 : Kept s0 s) (hx : execRegraftMirrorReceive die o c s = .next s1) : Kept s0 s1 := by
  unfold execRegraftMirrorReceive at hx
  injection hx with hx
  subst hx
  repeat' first
    | with_reducible assumption | intro _ | with_reducible apply State.onDie_kept
    | with_reducible apply State.refreshReceive_kept | dsimp -zeta only | split

theorem execRefreshDoneReceive_kept {s0 s s1 : State} (o : Origin) (step : Nat)
    (hk0 : Kept s0 s) (hx : execRefreshDoneReceive o step s = .next s1) : Kept s0 s1 := by
  unfold execRefreshDoneReceive at hx
  injection hx with hx
  subst hx
  repeat' first
    | with_reducible assumption | intro _ | with_reducible apply State.onDie_kept
    | with_reducible apply State.refreshDoneReceive_kept | dsimp -zeta only | split

theorem execFlipDoneReceive_kept {s0 s s1 : State} (die : Nat) (o : Origin) (table : Nat) (row : Nat) (step : Nat)
    (hk0 : Kept s0 s) (hx : execFlipDoneReceive die o table row step s = .next s1) : Kept s0 s1 := by
  unfold execFlipDoneReceive at hx
  injection hx with hx
  subst hx
  repeat' first
    | with_reducible assumption | (intro x; have hx : Kept s0 x := ?hk; clear_value x; case' hk => subst x)
    | (intro x; subst x) | intro _ | with_reducible apply State.onDie_kept | with_reducible apply State.flipDone_kept
    | lift_lets -underBinder | dsimp -zeta only | split

theorem execTableLoad_kept {s0 s s1 : State} (queue : Nat) (index : Nat)
    (hk0 : Kept s0 s) (hx : execTableLoad queue index s = .next s1) : Kept s0 s1 := by
  unfold execTableLoad at hx
  injection hx with hx
  subst hx
  repeat' first
    | with_reducible assumption | intro _ | with_reducible apply State.onDie_kept
    | with_reducible apply State.tableLoad_kept | dsimp -zeta only | split

theorem execTableDrop_kept {s0 s s1 : State} (queue : Nat) (index : Nat)
    (hk0 : Kept s0 s) (hx : execTableDrop queue index s = .next s1) : Kept s0 s1 := by
  unfold execTableDrop at hx
  injection hx with hx
  subst hx
  repeat' first
    | with_reducible assumption | intro _ | with_reducible apply State.onDie_kept
    | with_reducible apply State.tableDrop_kept | dsimp -zeta only | split

theorem execRegraftBegin_kept {s0 s s1 : State} (queue : Nat) (index : Nat)
    (hk0 : Kept s0 s) (hx : execRegraftBegin queue index s = .next s1) : Kept s0 s1 := by
  unfold execRegraftBegin at hx
  injection hx with hx
  subst hx
  repeat' first
    | with_reducible assumption | intro _ | with_reducible apply State.onDie_kept
    | with_reducible apply State.copyBegin_kept | dsimp -zeta only | split

theorem execScionBegin_kept {s0 s s1 : State} (queue : Nat) (index : Nat)
    (hk0 : Kept s0 s) (hx : execScionBegin queue index s = .next s1) : Kept s0 s1 := by
  unfold execScionBegin at hx
  injection hx with hx
  subst hx
  repeat' first
    | with_reducible assumption | intro _ | with_reducible apply State.onDie_kept
    | with_reducible apply State.copyBegin_kept | dsimp -zeta only | split

theorem execRegraftCopyAck_kept {s0 s s1 : State} (die : Nat) (request : Nat)
    (hk0 : Kept s0 s) (hx : execRegraftCopyAck die request s = .next s1) : Kept s0 s1 := by
  unfold execRegraftCopyAck at hx
  injection hx with hx
  subst hx
  repeat' first
    | with_reducible assumption | intro _ | with_reducible apply State.onDie_kept
    | with_reducible apply State.copyAck_kept | with_reducible apply State.request_kept | dsimp -zeta only | split

theorem execScionCopyAck_kept {s0 s s1 : State} (die : Nat) (request : Nat)
    (hk0 : Kept s0 s) (hx : execScionCopyAck die request s = .next s1) : Kept s0 s1 := by
  unfold execScionCopyAck at hx
  injection hx with hx
  subst hx
  repeat' first
    | with_reducible assumption | intro _ | with_reducible apply State.onDie_kept
    | with_reducible apply State.copyAck_kept | with_reducible apply State.request_kept | dsimp -zeta only | split

theorem execRegraftCopyTimeout_kept {s0 s s1 : State} (die : Nat) (request : Nat)
    (hk0 : Kept s0 s) (hx : execRegraftCopyTimeout die request s = .next s1) : Kept s0 s1 := by
  unfold execRegraftCopyTimeout at hx
  injection hx with hx
  subst hx
  repeat' first
    | with_reducible assumption | intro _ | with_reducible apply State.onDie_kept
    | with_reducible apply State.copyTimeout_kept | with_reducible apply State.request_kept | dsimp -zeta only | split

theorem execDirStage_kept {s0 s s1 : State} (queue : Nat) (index : Nat)
    (hk0 : Kept s0 s) (hx : execDirStage queue index s = .next s1) : Kept s0 s1 := by
  unfold execDirStage at hx
  injection hx with hx
  subst hx
  repeat' first
    | with_reducible assumption | intro _ | with_reducible apply State.onDie_kept
    | with_reducible apply State.dirStage_kept | dsimp -zeta only | split

theorem execDirUnstage_kept {s0 s s1 : State} (queue : Nat) (index : Nat)
    (hk0 : Kept s0 s) (hx : execDirUnstage queue index s = .next s1) : Kept s0 s1 := by
  unfold execDirUnstage at hx
  injection hx with hx
  subst hx
  repeat' first
    | with_reducible assumption | intro _ | with_reducible apply State.onDie_kept
    | with_reducible apply State.dirUnstage_kept | dsimp -zeta only | split

theorem execPendAbandon_kept {s0 s s1 : State} (queue : Nat) (index : Nat)
    (hk0 : Kept s0 s) (hx : execPendAbandon queue index s = .next s1) : Kept s0 s1 := by
  unfold execPendAbandon at hx
  injection hx with hx
  subst hx
  repeat' first
    | with_reducible assumption | intro _ | with_reducible apply State.onDie_kept
    | with_reducible apply State.pendAbandon_kept | dsimp -zeta only | split

theorem execHeatRead_kept {s0 s s1 : State} (queue : Nat) (index : Nat)
    (hk0 : Kept s0 s) (hx : execHeatRead queue index s = .next s1) : Kept s0 s1 := by
  unfold execHeatRead at hx
  injection hx with hx
  subst hx
  repeat' first
    | with_reducible assumption | intro _ | with_reducible apply State.onDie_kept
    | with_reducible apply State.heatRead_kept | dsimp -zeta only | split

theorem execEmbEntryQuotaWrite_kept {s0 s s1 : State} (grove : Nat) (value : Word)
    (hk0 : Kept s0 s) (hx : execEmbEntryQuotaWrite grove value s = .next s1) : Kept s0 s1 := by
  unfold execEmbEntryQuotaWrite at hx
  injection hx with hx
  subst hx
  repeat' first
    | with_reducible assumption | intro _ | with_reducible apply State.onDie_kept
    | with_reducible apply State.writeEmbQuota_kept | dsimp -zeta only | split

theorem execGather_kept {s0 s s1 : State} (queue : Nat) (index : Nat)
    (hk0 : Kept s0 s) (hx : execGather queue index s = .next s1) : Kept s0 s1 := by
  unfold execGather at hx
  injection hx with hx
  subst hx
  repeat' first
    | with_reducible assumption | intro _ | with_reducible apply State.onDie_kept
    | with_reducible apply State.gthEnter_kept | dsimp -zeta only | split

theorem execScatter_kept {s0 s s1 : State} (queue : Nat) (index : Nat)
    (hk0 : Kept s0 s) (hx : execScatter queue index s = .next s1) : Kept s0 s1 := by
  unfold execScatter at hx
  injection hx with hx
  subst hx
  repeat' first
    | with_reducible assumption | intro _ | with_reducible apply State.onDie_kept
    | with_reducible apply State.gthEnter_kept | dsimp -zeta only | split

theorem execLocalRowReadReturn_kept {s0 s s1 : State} (queue : Nat) (index : Nat) (unique : Nat)
    (hk0 : Kept s0 s) (hx : execLocalRowReadReturn queue index unique s = .next s1) : Kept s0 s1 := by
  unfold execLocalRowReadReturn at hx
  injection hx with hx
  subst hx
  repeat' first
    | with_reducible assumption | intro _ | with_reducible apply State.onDie_kept
    | with_reducible apply State.localReturn_kept | dsimp -zeta only | split

theorem execRowDataReceive_kept {s0 s s1 : State} (die : Nat) (d : RowData)
    (hk0 : Kept s0 s) (hx : execRowDataReceive die d s = .next s1) : Kept s0 s1 := by
  unfold execRowDataReceive at hx
  injection hx with hx
  subst hx
  repeat' first
    | with_reducible assumption | intro _ | with_reducible apply State.onDie_kept
    | with_reducible apply State.rowData_kept | dsimp -zeta only | split

theorem execGthCommandStart_kept {s0 s s1 : State} (queue : Nat) (index : Nat) (spxUe : Option Nat)
    (hk0 : Kept s0 s) (hx : execGthCommandStart queue index spxUe s = .next s1) : Kept s0 s1 := by
  unfold execGthCommandStart at hx
  injection hx with hx
  subst hx
  repeat' first
    | with_reducible assumption | intro _ | with_reducible apply State.onDie_kept
    | with_reducible apply State.gthStart_kept | dsimp -zeta only | split

theorem execScatterClose_kept {s0 s s1 : State} (queue : Nat) (index : Nat)
    (hk0 : Kept s0 s) (hx : execScatterClose queue index s = .next s1) : Kept s0 s1 := by
  unfold execScatterClose at hx
  injection hx with hx
  subst hx
  repeat' first
    | with_reducible assumption | intro _ | with_reducible apply State.onDie_kept
    | with_reducible apply State.scatterClose_kept | dsimp -zeta only | split

theorem execAccumulateAckReceive_kept {s0 s s1 : State} (die : Nat) (request : Nat) (status : Nat)
    (hk0 : Kept s0 s) (hx : execAccumulateAckReceive die request status s = .next s1) : Kept s0 s1 := by
  unfold execAccumulateAckReceive at hx
  injection hx with hx
  subst hx
  repeat' first
    | with_reducible assumption | (intro x; have hx : Kept s0 x := ?hk; clear_value x; case' hk => subst x)
    | (intro x; subst x) | intro _ | with_reducible apply State.onDie_kept | with_reducible apply State.accAck_kept
    | with_reducible apply State.request_kept | lift_lets -underBinder | dsimp -zeta only | split

theorem execNegativeResponseReceive_kept {s0 s s1 : State} (die : Nat) (op : NegOp) (request : Nat) (code : Nat)
    (hk0 : Kept s0 s) (hx : execNegativeResponseReceive die op request code s = .next s1) : Kept s0 s1 := by
  unfold execNegativeResponseReceive at hx
  injection hx with hx
  subst hx
  repeat' first
    | with_reducible assumption | intro _ | with_reducible apply State.onDie_kept
    | with_reducible apply State.negative_kept | with_reducible apply State.request_kept | dsimp -zeta only | split

theorem execGthRemoteTimeout_kept {s0 s s1 : State} (die : Nat) (accumulate : Bool) (request : Nat)
    (hk0 : Kept s0 s) (hx : execGthRemoteTimeout die accumulate request s = .next s1) : Kept s0 s1 := by
  unfold execGthRemoteTimeout at hx
  injection hx with hx
  subst hx
  repeat' first
    | with_reducible assumption | intro _ | (rewrite [pairP_eq]; with_reducible refine KeptP.mk ?_)
    | with_reducible apply State.onDie_kept | with_reducible apply State.gthTimeout_kept
    | with_reducible apply State.accumulate_kept | with_reducible apply State.request_kept
    | with_reducible refine Kept.of_fst (by assumption) ?_ | with_reducible apply KeptP.fst | dsimp -zeta only | split

theorem execGthMergeQuotaWrite_kept {s0 s s1 : State} (die : Nat) (grove : Nat) (value : Word)
    (hk0 : Kept s0 s) (hx : execGthMergeQuotaWrite die grove value s = .next s1) : Kept s0 s1 := by
  unfold execGthMergeQuotaWrite at hx
  injection hx with hx
  subst hx
  repeat' first
    | with_reducible assumption | intro _ | with_reducible apply State.onDie_kept
    | with_reducible apply State.writeMergeQuota_kept | dsimp -zeta only | split

theorem execAbftCheckDone_kept {s0 s s1 : State} (tile : Nat)
    (hk0 : Kept s0 s) (hx : execAbftCheckDone tile s = .next s1) : Kept s0 s1 := by
  unfold execAbftCheckDone at hx
  injection hx with hx
  subst hx
  repeat' first
    | with_reducible assumption | intro _ | with_reducible apply State.onDie_kept
    | with_reducible apply State.checkDone_kept | dsimp -zeta only | split

theorem execTilAbftTolWrite_kept {s0 s s1 : State} (tile : Nat) (value : Word)
    (hk0 : Kept s0 s) (hx : execTilAbftTolWrite tile value s = .next s1) : Kept s0 s1 := by
  unfold execTilAbftTolWrite at hx
  injection hx with hx
  subst hx
  repeat' first
    | with_reducible assumption | intro _ | with_reducible apply State.onDie_kept
    | with_reducible apply State.tolWrite_kept | dsimp -zeta only | split

theorem execTilAbftAbsWrite_kept {s0 s s1 : State} (tile : Nat) (value : Word)
    (hk0 : Kept s0 s) (hx : execTilAbftAbsWrite tile value s = .next s1) : Kept s0 s1 := by
  unfold execTilAbftAbsWrite at hx
  injection hx with hx
  subst hx
  repeat' first
    | with_reducible assumption | intro _ | with_reducible apply State.onDie_kept
    | with_reducible apply State.tolWrite_kept | dsimp -zeta only | split

theorem execContributionAckReceive_kept {s0 s s1 : State} (die : Nat) (o : Origin) (request : Nat) (_status : Nat)
    (hk0 : Kept s0 s) (hx : execContributionAckReceive die o request _status s = .next s1) : Kept s0 s1 := by
  unfold execContributionAckReceive at hx
  injection hx with hx
  subst hx
  repeat' first
    | with_reducible assumption | intro _ | with_reducible apply State.onDie_kept
    | with_reducible apply State.contributionAck_kept | with_reducible apply State.request_kept | dsimp -zeta only
    | split

theorem execContributionTimeout_kept {s0 s s1 : State} (die : Nat) (grove : Nat) (request : Nat)
    (hk0 : Kept s0 s) (hx : execContributionTimeout die grove request s = .next s1) : Kept s0 s1 := by
  unfold execContributionTimeout at hx
  injection hx with hx
  subst hx
  repeat' first
    | with_reducible assumption | intro _ | with_reducible apply State.onDie_kept
    | with_reducible apply State.contributionTimeout_kept | with_reducible apply State.request_kept | dsimp -zeta only
    | split

theorem execBcastPieceReceive_kept {s0 s s1 : State} (die : Nat) (o : Origin) (p : Piece)
    (hk0 : Kept s0 s) (hx : execBcastPieceReceive die o p s = .next s1) : Kept s0 s1 := by
  unfold execBcastPieceReceive at hx
  injection hx with hx
  subst hx
  repeat' first
    | with_reducible assumption | intro _ | with_reducible apply State.onDie_kept
    | with_reducible apply State.pieceReceive_kept | dsimp -zeta only | split

theorem execBcastAckReceive_kept {s0 s s1 : State} (die : Nat) (o : Origin) (request : Nat)
    (hk0 : Kept s0 s) (hx : execBcastAckReceive die o request s = .next s1) : Kept s0 s1 := by
  unfold execBcastAckReceive at hx
  injection hx with hx
  subst hx
  repeat' first
    | with_reducible assumption | intro _ | with_reducible apply State.onDie_kept
    | with_reducible apply State.pieceAck_kept | with_reducible apply State.request_kept | dsimp -zeta only | split

theorem execBcastPieceTimeout_kept {s0 s s1 : State} (die : Nat) (grove : Nat) (request : Nat)
    (hk0 : Kept s0 s) (hx : execBcastPieceTimeout die grove request s = .next s1) : Kept s0 s1 := by
  unfold execBcastPieceTimeout at hx
  injection hx with hx
  subst hx
  repeat' first
    | with_reducible assumption | intro _ | with_reducible apply State.onDie_kept
    | with_reducible apply State.pieceTimeout_kept | with_reducible apply State.request_kept | dsimp -zeta only
    | split

theorem execBcastCompletionTimeout_kept {s0 s s1 : State} (die : Nat) (grove : Nat)
    (hk0 : Kept s0 s) (hx : execBcastCompletionTimeout die grove s = .next s1) : Kept s0 s1 := by
  unfold execBcastCompletionTimeout at hx
  injection hx with hx
  subst hx
  repeat' first
    | with_reducible assumption | intro _ | with_reducible apply State.onDie_kept
    | with_reducible apply State.bcastTimeout_kept | dsimp -zeta only | split

theorem execUpdLoad_kept {s0 s s1 : State} (queue : Nat) (index : Nat)
    (hk0 : Kept s0 s) (hx : execUpdLoad queue index s = .next s1) : Kept s0 s1 := by
  unfold execUpdLoad at hx
  injection hx with hx
  subst hx
  repeat' first
    | with_reducible assumption | intro _ | with_reducible apply State.onDie_kept
    | with_reducible apply State.updLoad_kept | dsimp -zeta only | split

theorem execUpdDrop_kept {s0 s s1 : State} (queue : Nat) (index : Nat)
    (hk0 : Kept s0 s) (hx : execUpdDrop queue index s = .next s1) : Kept s0 s1 := by
  unfold execUpdDrop at hx
  injection hx with hx
  subst hx
  repeat' first
    | with_reducible assumption | intro _ | with_reducible apply State.onDie_kept
    | with_reducible apply State.updDrop_kept | dsimp -zeta only | split

theorem execUpdConst_kept {s0 s s1 : State} (queue : Nat) (index : Nat)
    (hk0 : Kept s0 s) (hx : execUpdConst queue index s = .next s1) : Kept s0 s1 := by
  unfold execUpdConst at hx
  injection hx with hx
  subst hx
  repeat' first
    | with_reducible assumption | intro _ | with_reducible apply State.onDie_kept
    | with_reducible apply State.updConst_kept | dsimp -zeta only | split

theorem execUpdRowbufWrite_kept {s0 s s1 : State} (die : Nat) (grove : Nat) (value : Word)
    (hk0 : Kept s0 s) (hx : execUpdRowbufWrite die grove value s = .next s1) : Kept s0 s1 := by
  unfold execUpdRowbufWrite at hx
  injection hx with hx
  subst hx
  repeat' first
    | with_reducible assumption | intro _ | with_reducible apply State.onDie_kept
    | with_reducible apply State.rowBufWrite_kept | dsimp -zeta only | split

theorem execSchedLoad_kept {s0 s s1 : State} (queue : Nat) (index : Nat)
    (hk0 : Kept s0 s) (hx : execSchedLoad queue index s = .next s1) : Kept s0 s1 := by
  unfold execSchedLoad at hx
  injection hx with hx
  subst hx
  repeat' first
    | with_reducible assumption | intro _ | with_reducible apply State.onDie_kept
    | with_reducible apply State.schedLoad_kept | dsimp -zeta only | split

theorem execSchedDrop_kept {s0 s s1 : State} (queue : Nat) (index : Nat)
    (hk0 : Kept s0 s) (hx : execSchedDrop queue index s = .next s1) : Kept s0 s1 := by
  unfold execSchedDrop at hx
  injection hx with hx
  subst hx
  repeat' first
    | with_reducible assumption | intro _ | with_reducible apply State.onDie_kept
    | with_reducible apply State.schedDrop_kept | dsimp -zeta only | split

theorem execReductionDeadline_kept {s0 s s1 : State} (die : Nat) (grove : Nat) (reduction : Nat)
    (hk0 : Kept s0 s) (hx : execReductionDeadline die grove reduction s = .next s1) : Kept s0 s1 := by
  unfold execReductionDeadline at hx
  injection hx with hx
  subst hx
  repeat' first
    | with_reducible assumption | intro _ | with_reducible apply State.onDie_kept
    | with_reducible apply State.deadline_kept | dsimp -zeta only | split

theorem execContributionReceive_kept {s0 s s1 : State} (die : Nat) (o : Origin) (c : Contribution)
    (hk0 : Kept s0 s) (hx : execContributionReceive die o c s = .next s1) : Kept s0 s1 := by
  unfold execContributionReceive at hx
  injection hx with hx
  subst hx
  repeat' first
    | with_reducible assumption | intro _ | with_reducible apply State.onDie_kept
    | with_reducible apply State.contributionReceive_kept | dsimp -zeta only | split

theorem execContributionSend_kept {s0 s s1 : State} (die : Nat) (grove : Nat) (reduction : Nat)
    (hk0 : Kept s0 s) (hx : execContributionSend die grove reduction s = .next s1) : Kept s0 s1 := by
  unfold execContributionSend at hx
  injection hx with hx
  subst hx
  repeat' first
    | with_reducible assumption | intro _ | with_reducible apply State.onDie_kept
    | with_reducible apply State.contribute_kept | dsimp -zeta only | split

theorem execPartialMessageTimeout_kept {s0 s s1 : State} (port : Nat) (vc : Nat) (dl : Nat)
    (hk0 : Kept s0 s) (hx : execPartialMessageTimeout port vc dl s = .next s1) : Kept s0 s1 := by
  unfold execPartialMessageTimeout at hx
  injection hx with hx
  subst hx
  repeat' first
    | with_reducible assumption | intro _ | with_reducible apply State.onDie_kept
    | with_reducible apply State.partialTimeout_kept | dsimp -zeta only | split

theorem execVoidReceive_kept {s0 s s1 : State} (o : Origin) (v : VoidMsg)
    (hk0 : Kept s0 s) (hx : execVoidReceive o v s = .next s1) : Kept s0 s1 := by
  unfold execVoidReceive at hx
  injection hx with hx
  subst hx
  repeat' first
    | with_reducible assumption | intro _ | with_reducible apply State.onDie_kept
    | with_reducible apply State.voidReceive_kept | dsimp -zeta only | split

theorem execStepVoid_kept {s0 s s1 : State} (queue : Nat) (index : Nat)
    (hk0 : Kept s0 s) (hx : execStepVoid queue index s = .next s1) : Kept s0 s1 := by
  unfold execStepVoid at hx
  injection hx with hx
  subst hx
  repeat' first
    | with_reducible assumption | intro _ | with_reducible apply State.onDie_kept
    | with_reducible apply State.stepVoid_kept | dsimp -zeta only | split

theorem execCommitTimeout_kept {s0 s s1 : State} (grove : Nat)
    (hk0 : Kept s0 s) (hx : execCommitTimeout grove s = .next s1) : Kept s0 s1 := by
  unfold execCommitTimeout at hx
  injection hx with hx
  subst hx
  repeat' first
    | with_reducible assumption | intro _ | with_reducible apply State.onDie_kept
    | with_reducible apply State.commitTimeout_kept | dsimp -zeta only | split

theorem execVoidBarrierTimeout_kept {s0 s s1 : State} (grove : Nat)
    (hk0 : Kept s0 s) (hx : execVoidBarrierTimeout grove s = .next s1) : Kept s0 s1 := by
  unfold execVoidBarrierTimeout at hx
  injection hx with hx
  subst hx
  repeat' first
    | with_reducible assumption | intro _ | with_reducible apply State.onDie_kept
    | with_reducible apply State.barrierTimeout_kept | dsimp -zeta only | split

theorem execStepOpen_kept {s0 s s1 : State} (queue : Nat) (index : Nat)
    (hk0 : Kept s0 s) (hx : execStepOpen queue index s = .next s1) : Kept s0 s1 := by
  unfold execStepOpen at hx
  injection hx with hx
  subst hx
  repeat' first
    | with_reducible assumption | intro _ | with_reducible apply State.onDie_kept
    | with_reducible apply State.stepOpen_kept | dsimp -zeta only | split

theorem execCommitRelease_kept {s0 s s1 : State} (o : Origin) (r : Release)
    (hk0 : Kept s0 s) (hx : execCommitRelease o r s = .next s1) : Kept s0 s1 := by
  unfold execCommitRelease at hx
  injection hx with hx
  subst hx
  repeat' first
    | with_reducible assumption | intro _ | with_reducible apply State.onDie_kept
    | with_reducible apply State.releaseReceive_kept | dsimp -zeta only | split

theorem execCleanReportSend_kept {s0 s s1 : State} (grove : Nat)
    (hk0 : Kept s0 s) (hx : execCleanReportSend grove s = .next s1) : Kept s0 s1 := by
  unfold execCleanReportSend at hx
  injection hx with hx
  subst hx
  repeat' first
    | with_reducible assumption | intro _ | with_reducible apply State.onDie_kept
    | with_reducible apply State.cleanReport_kept | dsimp -zeta only | split

theorem execVoidAckSend_kept {s0 s s1 : State} (grove : Nat)
    (hk0 : Kept s0 s) (hx : execVoidAckSend grove s = .next s1) : Kept s0 s1 := by
  unfold execVoidAckSend at hx
  injection hx with hx
  subst hx
  repeat' first
    | with_reducible assumption | intro _ | with_reducible apply State.onDie_kept
    | with_reducible apply State.voidAck_kept | dsimp -zeta only | split

theorem execCommitReportReceive_kept {s0 s s1 : State} (o : Origin) (r : Report)
    (hk0 : Kept s0 s) (hx : execCommitReportReceive o r s = .next s1) : Kept s0 s1 := by
  unfold execCommitReportReceive at hx
  injection hx with hx
  subst hx
  repeat' first
    | with_reducible assumption | intro _ | with_reducible apply State.onDie_kept
    | with_reducible apply State.reportReceive_kept | dsimp -zeta only | split

theorem execStepCommitComplete_kept {s0 s s1 : State} (grove : Nat)
    (hk0 : Kept s0 s) (hx : execStepCommitComplete grove s = .next s1) : Kept s0 s1 := by
  unfold execStepCommitComplete at hx
  injection hx with hx
  subst hx
  repeat' first
    | with_reducible assumption | intro _ | with_reducible apply State.onDie_kept
    | with_reducible apply State.commitComplete_kept | dsimp -zeta only | split

theorem execRecomputeDone_kept {s0 s s1 : State} (tile : Nat) (cls : Nat)
    (hk0 : Kept s0 s) (hx : execRecomputeDone tile cls s = .next s1) : Kept s0 s1 := by
  unfold execRecomputeDone at hx
  injection hx with hx
  subst hx
  repeat' first
    | with_reducible assumption | intro _ | with_reducible apply State.onDie_kept
    | with_reducible apply State.recomputeDone_kept | dsimp -zeta only | split

theorem execAbftMismatchReport_kept {s0 s s1 : State} (tile : Nat)
    (hk0 : Kept s0 s) (hx : execAbftMismatchReport tile s = .next s1) : Kept s0 s1 := by
  unfold execAbftMismatchReport at hx
  injection hx with hx
  subst hx
  repeat' first
    | with_reducible assumption | intro _ | with_reducible apply State.onDie_kept
    | with_reducible apply State.mismatchReport_kept | dsimp -zeta only | split

theorem execTileExclude_kept {s0 s s1 : State} (value : Word)
    (hk0 : Kept s0 s) (hx : execTileExclude value s = .next s1) : Kept s0 s1 := by
  unfold execTileExclude at hx
  injection hx with hx
  subst hx
  repeat' first
    | with_reducible assumption | intro _ | with_reducible apply State.unheld_kept
    | with_reducible apply State.tileCtl_kept | dsimp -zeta only | split

theorem execTileReadmit_kept {s0 s s1 : State} (value : Word)
    (hk0 : Kept s0 s) (hx : execTileReadmit value s = .next s1) : Kept s0 s1 := by
  unfold execTileReadmit at hx
  injection hx with hx
  subst hx
  repeat' first
    | with_reducible assumption | intro _ | with_reducible apply State.unheld_kept
    | with_reducible apply State.tileCtl_kept | dsimp -zeta only | split

theorem execFtRun_kept {s0 s s1 : State} (queue : Nat) (index : Nat)
    (hk0 : Kept s0 s) (hx : execFtRun queue index s = .next s1) : Kept s0 s1 := by
  unfold execFtRun at hx
  injection hx with hx
  subst hx
  repeat' first
    | with_reducible assumption | intro _ | with_reducible apply State.onDie_kept
    | with_reducible apply State.ftRun_kept | dsimp -zeta only | split

theorem execFtAbort_kept {s0 s s1 : State} (queue : Nat) (index : Nat)
    (hk0 : Kept s0 s) (hx : execFtAbort queue index s = .next s1) : Kept s0 s1 := by
  unfold execFtAbort at hx
  injection hx with hx
  subst hx
  repeat' first
    | with_reducible assumption | intro _ | with_reducible apply State.onDie_kept
    | with_reducible apply State.ftAbort_kept | dsimp -zeta only | split

theorem execFtDone_kept {s0 s s1 : State} (die : Nat) (kind : Nat) (object : Nat) (result : FtResult)
    (hk0 : Kept s0 s) (hx : execFtDone die kind object result s = .next s1) : Kept s0 s1 := by
  unfold execFtDone at hx
  injection hx with hx
  subst hx
  repeat' first
    | with_reducible assumption | intro _ | with_reducible apply State.onDie_kept
    | with_reducible apply State.ftDone_kept | dsimp -zeta only | split

theorem execWchLogTailWrite_kept {s0 s s1 : State} (value : Word)
    (hk0 : Kept s0 s) (hx : execWchLogTailWrite value s = .next s1) : Kept s0 s1 := by
  unfold execWchLogTailWrite at hx
  injection hx with hx
  subst hx
  repeat' first
    | with_reducible assumption | intro _ | with_reducible apply State.unheld_kept
    | with_reducible apply State.writeTail_kept | dsimp -zeta only | split

theorem execWchLogStateWrite_kept {s0 s s1 : State} (value : Word)
    (hk0 : Kept s0 s) (hx : execWchLogStateWrite value s = .next s1) : Kept s0 s1 := by
  unfold execWchLogStateWrite at hx
  injection hx with hx
  subst hx
  repeat' first
    | with_reducible assumption | intro _ | with_reducible apply State.unheld_kept
    | with_reducible apply State.writeLogState_kept | dsimp -zeta only | split

theorem execTaskComplete_kept {s0 s s1 : State} (tile : Nat) (slot : Nat) (r : UnitReport)
    (hk0 : Kept s0 s) (hx : execTaskComplete tile slot r s = .next s1) : Kept s0 s1 := by
  unfold execTaskComplete at hx
  injection hx with hx
  subst hx
  repeat' first
    | with_reducible assumption | intro _ | with_reducible apply State.onDie_kept
    | with_reducible apply State.endOfTask_kept | dsimp -zeta only | split

theorem execDvfsPllLocked_kept {s0 s s1 : State} (die : Nat)
    (hk0 : Kept s0 s) (hx : execDvfsPllLocked die s = .next s1) : Kept s0 s1 := by
  unfold execDvfsPllLocked at hx
  injection hx with hx
  subst hx
  repeat' first
    | with_reducible assumption | intro _ | with_reducible apply State.unheld_kept
    | with_reducible apply State.pllLocked_kept | dsimp -zeta only | split

theorem execDvfsVoltageSettled_kept {s0 s s1 : State} (die : Nat)
    (hk0 : Kept s0 s) (hx : execDvfsVoltageSettled die s = .next s1) : Kept s0 s1 := by
  unfold execDvfsVoltageSettled at hx
  injection hx with hx
  subst hx
  repeat' first
    | with_reducible assumption | intro _ | with_reducible apply State.unheld_kept
    | with_reducible apply State.voltageSettled_kept | dsimp -zeta only | split

theorem execPwrOpReqWrite_kept {s0 s s1 : State} (die : Nat) (value : Word)
    (hk0 : Kept s0 s) (hx : execPwrOpReqWrite die value s = .next s1) : Kept s0 s1 := by
  unfold execPwrOpReqWrite at hx
  injection hx with hx
  subst hx
  repeat' first
    | with_reducible assumption | intro _ | with_reducible apply State.awake_kept
    | with_reducible apply State.writeOpReq_kept | dsimp -zeta only | split

theorem execRefSwitchDone_kept {s0 s s1 : State} 
    (hk0 : Kept s0 s) (hx : execRefSwitchDone s = .next s1) : Kept s0 s1 := by
  unfold execRefSwitchDone at hx
  injection hx with hx
  subst hx
  repeat' first
    | with_reducible assumption | intro _ | with_reducible apply State.unheld_kept
    | with_reducible apply State.switchDone_kept | dsimp -zeta only | split

theorem execRefEdgeDetect_kept {s0 s s1 : State} (source : Nat)
    (hk0 : Kept s0 s) (hx : execRefEdgeDetect source s = .next s1) : Kept s0 s1 := by
  unfold execRefEdgeDetect at hx
  injection hx with hx
  subst hx
  repeat' first
    | with_reducible assumption | intro _ | with_reducible apply State.unheld_kept
    | with_reducible apply State.edgeDetect_kept | dsimp -zeta only | split

theorem execRefEdgeLoss_kept {s0 s s1 : State} (source : Nat)
    (hk0 : Kept s0 s) (hx : execRefEdgeLoss source s = .next s1) : Kept s0 s1 := by
  unfold execRefEdgeLoss at hx
  injection hx with hx
  subst hx
  repeat' first
    | with_reducible assumption | intro _ | with_reducible apply State.unheld_kept
    | with_reducible apply State.edgeLoss_kept | dsimp -zeta only | split

theorem execRefQualWindow_kept {s0 s s1 : State} (source : Nat) (hz : Nat) (pllLocked : Bool)
    (hk0 : Kept s0 s) (hx : execRefQualWindow source hz pllLocked s = .next s1) : Kept s0 s1 := by
  unfold execRefQualWindow at hx
  injection hx with hx
  subst hx
  repeat' first
    | with_reducible assumption | intro _ | with_reducible apply State.unheld_kept
    | with_reducible apply State.qualWindow_kept | with_reducible apply State.pllLocked_kept | dsimp -zeta only
    | split

theorem execRefCrossCheck_kept {s0 s s1 : State} (offset : Int)
    (hk0 : Kept s0 s) (hx : execRefCrossCheck offset s = .next s1) : Kept s0 s1 := by
  unfold execRefCrossCheck at hx
  injection hx with hx
  subst hx
  repeat' first
    | with_reducible assumption | intro _ | with_reducible apply State.unheld_kept
    | with_reducible apply State.crossCheck_kept | dsimp -zeta only | split

theorem execClkRefSelWrite_kept {s0 s s1 : State} (value : Word)
    (hk0 : Kept s0 s) (hx : execClkRefSelWrite value s = .next s1) : Kept s0 s1 := by
  unfold execClkRefSelWrite at hx
  injection hx with hx
  subst hx
  repeat' first
    | with_reducible assumption | intro _ | with_reducible apply State.awake_kept
    | with_reducible apply State.writeRefSel_kept | dsimp -zeta only | split

theorem execPllUnlock_kept {s0 s s1 : State} (pll : Nat)
    (hk0 : Kept s0 s) (hx : execPllUnlock pll s = .next s1) : Kept s0 s1 := by
  unfold execPllUnlock at hx
  injection hx with hx
  subst hx
  repeat' first
    | with_reducible assumption | intro _ | with_reducible apply State.unheld_kept
    | with_reducible apply State.pllUnlock_kept | dsimp -zeta only | split

theorem execClkMonitorWindow_kept {s0 s s1 : State} (island : Island) (khz : Nat) (unanswered : Bool)
    (hk0 : Kept s0 s) (hx : execClkMonitorWindow island khz unanswered s = .next s1) : Kept s0 s1 := by
  unfold execClkMonitorWindow at hx
  injection hx with hx
  subst hx
  repeat' first
    | with_reducible assumption | intro _ | with_reducible apply State.unheld_kept
    | with_reducible apply State.monitor_kept | dsimp -zeta only | split

theorem execRailSample_kept {s0 s s1 : State} (inWindow : Nat) (reading : Nat)
    (hk0 : Kept s0 s) (hx : execRailSample inWindow reading s = .next s1) : Kept s0 s1 := by
  unfold execRailSample at hx
  injection hx with hx
  subst hx
  repeat' first
    | with_reducible assumption | intro _ | with_reducible apply State.unheld_kept
    | with_reducible apply State.railSample_kept | dsimp -zeta only | split

theorem execVinOutOfWindow_kept {s0 s s1 : State} (tenMillivolts : Nat)
    (hk0 : Kept s0 s) (hx : execVinOutOfWindow tenMillivolts s = .next s1) : Kept s0 s1 := by
  unfold execVinOutOfWindow at hx
  injection hx with hx
  subst hx
  repeat' first
    | with_reducible assumption | intro _ | with_reducible apply State.unheld_kept
    | with_reducible apply State.vinOut_kept | dsimp -zeta only | split

theorem execPscTlmFrame_kept {s0 s s1 : State} (voltage : Nat) (current : Nat) (fault : Bool)
    (hk0 : Kept s0 s) (hx : execPscTlmFrame voltage current fault s = .next s1) : Kept s0 s1 := by
  unfold execPscTlmFrame at hx
  injection hx with hx
  subst hx
  repeat' first
    | with_reducible assumption | intro _ | with_reducible apply State.unheld_kept
    | with_reducible apply State.tlmFrame_kept | dsimp -zeta only | split

theorem execPscTlmMissing_kept {s0 s s1 : State} 
    (hk0 : Kept s0 s) (hx : execPscTlmMissing s = .next s1) : Kept s0 s1 := by
  unfold execPscTlmMissing at hx
  injection hx with hx
  subst hx
  repeat' first
    | with_reducible assumption | intro _ | with_reducible apply State.unheld_kept
    | with_reducible apply State.ctrlLink_kept | (rewrite [State.mk_eq_ofB]; with_reducible refine Kept.upd ?_)
    | dsimp -zeta only | split

theorem execPscFault_kept {s0 s s1 : State} 
    (hk0 : Kept s0 s) (hx : execPscFault s = .next s1) : Kept s0 s1 := by
  unfold execPscFault at hx
  injection hx with hx
  subst hx
  repeat' first
    | with_reducible assumption | intro _ | with_reducible apply State.unheld_kept
    | with_reducible apply State.ctrlLink_kept | (rewrite [State.mk_eq_ofB]; with_reducible refine Kept.upd ?_)
    | dsimp -zeta only | split

theorem execPscPowerGood_kept {s0 s s1 : State} 
    (hk0 : Kept s0 s) (hx : execPscPowerGood s = .next s1) : Kept s0 s1 := by
  unfold execPscPowerGood at hx
  injection hx with hx
  subst hx
  repeat' first
    | with_reducible assumption | intro _ | with_reducible apply State.unheld_kept
    | with_reducible apply State.powerGood_kept | dsimp -zeta only | split

theorem execDieTempSample_kept {s0 s s1 : State} (die : Nat) (hottest : Option Int) (sensor : Nat) (unreadable : Nat)
    (hk0 : Kept s0 s) (hx : execDieTempSample die hottest sensor unreadable s = .next s1) : Kept s0 s1 := by
  unfold execDieTempSample at hx
  injection hx with hx
  subst hx
  repeat' first
    | with_reducible assumption | intro _ | with_reducible apply State.unheld_kept
    | with_reducible apply State.dieTemp_kept | dsimp -zeta only | split

theorem execThermalClampStep_kept {s0 s s1 : State} (die : Nat)
    (hk0 : Kept s0 s) (hx : execThermalClampStep die s = .next s1) : Kept s0 s1 := by
  unfold execThermalClampStep at hx
  injection hx with hx
  subst hx
  repeat' first
    | with_reducible assumption | intro _ | with_reducible apply State.unheld_kept
    | with_reducible apply State.clampStep_kept | dsimp -zeta only | split

theorem execPowerCapAverage_kept {s0 s s1 : State} (watts : Nat)
    (hk0 : Kept s0 s) (hx : execPowerCapAverage watts s = .next s1) : Kept s0 s1 := by
  unfold execPowerCapAverage at hx
  injection hx with hx
  subst hx
  repeat' first
    | with_reducible assumption | intro _ | with_reducible apply State.unheld_kept
    | with_reducible apply State.capAverage_kept | dsimp -zeta only | split

theorem execInputOvercurrent_kept {s0 s s1 : State} 
    (hk0 : Kept s0 s) (hx : execInputOvercurrent s = .next s1) : Kept s0 s1 := by
  unfold execInputOvercurrent at hx
  injection hx with hx
  subst hx
  repeat' first
    | with_reducible assumption | intro _ | with_reducible apply State.unheld_kept
    | with_reducible apply State.overcurrent_kept | dsimp -zeta only | split

theorem execDroopRelease_kept {s0 s s1 : State} 
    (hk0 : Kept s0 s) (hx : execDroopRelease s = .next s1) : Kept s0 s1 := by
  unfold execDroopRelease at hx
  injection hx with hx
  subst hx
  repeat' first
    | with_reducible assumption | intro _ | with_reducible apply State.unheld_kept
    | with_reducible apply State.droopRelease_kept | dsimp -zeta only | split

theorem execPwrCapWrite_kept {s0 s s1 : State} (value : Word)
    (hk0 : Kept s0 s) (hx : execPwrCapWrite value s = .next s1) : Kept s0 s1 := by
  unfold execPwrCapWrite at hx
  injection hx with hx
  subst hx
  repeat' first
    | with_reducible assumption | intro _ | with_reducible apply State.awake_kept
    | with_reducible apply State.writeCap_kept | dsimp -zeta only | split

theorem execPwrThermCfgWrite_kept {s0 s s1 : State} (value : Word)
    (hk0 : Kept s0 s) (hx : execPwrThermCfgWrite value s = .next s1) : Kept s0 s1 := by
  unfold execPwrThermCfgWrite at hx
  injection hx with hx
  subst hx
  repeat' first
    | with_reducible assumption | intro _ | with_reducible apply State.awake_kept
    | with_reducible apply State.writeTherm_kept | dsimp -zeta only | split

theorem execPwrSmoulderEnter_kept {s0 s s1 : State} (value : Word)
    (hk0 : Kept s0 s) (hx : execPwrSmoulderEnter value s = .next s1) : Kept s0 s1 := by
  unfold execPwrSmoulderEnter at hx
  injection hx with hx
  subst hx
  repeat' first
    | with_reducible assumption | intro _ | with_reducible apply Kept.ite | with_reducible apply State.awake_kept
    | with_reducible apply State.smoulderEnter_kept | dsimp -zeta only | split

theorem execSmoulderEntryDone_kept {s0 s s1 : State} 
    (hk0 : Kept s0 s) (hx : execSmoulderEntryDone s = .next s1) : Kept s0 s1 := by
  unfold execSmoulderEntryDone at hx
  injection hx with hx
  subst hx
  repeat' first
    | with_reducible assumption | intro _ | with_reducible apply State.awake_kept
    | with_reducible apply State.smoulderEntered_kept | dsimp -zeta only | split

theorem execPwrSmoulderLeave_kept {s0 s s1 : State} (value : Word)
    (hk0 : Kept s0 s) (hx : execPwrSmoulderLeave value s = .next s1) : Kept s0 s1 := by
  unfold execPwrSmoulderLeave at hx
  injection hx with hx
  subst hx
  repeat' first
    | with_reducible assumption | intro _ | with_reducible apply Kept.ite | with_reducible apply State.awake_kept
    | with_reducible apply State.smoulderLeave_kept | dsimp -zeta only | split

theorem execSmoulderExitDone_kept {s0 s s1 : State} 
    (hk0 : Kept s0 s) (hx : execSmoulderExitDone s = .next s1) : Kept s0 s1 := by
  unfold execSmoulderExitDone at hx
  injection hx with hx
  subst hx
  repeat' first
    | with_reducible assumption | intro _ | with_reducible apply State.unheld_kept
    | with_reducible apply State.smoulderExited_kept | dsimp -zeta only | split

theorem execLnkFlitReceive_kept {s0 s s1 : State} (port : Nat) (lane : Nat) (fec : FecResult) (flit : List Byte)
    (hk0 : Kept s0 s) (hx : execLnkFlitReceive port lane fec flit s = .next s1) : Kept s0 s1 := by
  unfold execLnkFlitReceive at hx
  injection hx with hx
  subst hx
  repeat' first
    | with_reducible assumption | intro _ | with_reducible apply State.linkEvent_kept
    | with_reducible apply State.flitReceive_kept | dsimp -zeta only | split

theorem execIdentityExchange_kept {s0 s s1 : State} (port : Nat) (id : PortIdentity)
    (hk0 : Kept s0 s) (hx : execIdentityExchange port id s = .next s1) : Kept s0 s1 := by
  unfold execIdentityExchange at hx
  injection hx with hx
  subst hx
  repeat' first
    | with_reducible assumption | intro _ | with_reducible apply State.linkEvent_kept
    | with_reducible apply State.identityExchange_kept | dsimp -zeta only | split

theorem execRetrainDone_kept {s0 s s1 : State} (port : Nat) (lanes : Nat) (id : PortIdentity)
    (hk0 : Kept s0 s) (hx : execRetrainDone port lanes id s = .next s1) : Kept s0 s1 := by
  unfold execRetrainDone at hx
  injection hx with hx
  subst hx
  repeat' first
    | with_reducible assumption | intro _ | with_reducible apply State.linkEvent_kept
    | with_reducible apply State.retrainDone_kept | dsimp -zeta only | split

theorem execRetrainBoundExpiry_kept {s0 s s1 : State} (port : Nat) (lanes : Nat)
    (hk0 : Kept s0 s) (hx : execRetrainBoundExpiry port lanes s = .next s1) : Kept s0 s1 := by
  unfold execRetrainBoundExpiry at hx
  injection hx with hx
  subst hx
  repeat' first
    | with_reducible assumption | intro _ | with_reducible apply State.linkEvent_kept
    | with_reducible apply State.retrainExpiry_kept | dsimp -zeta only | split

theorem execPortEnable_kept {s0 s s1 : State} (port : Nat) (value : Word)
    (hk0 : Kept s0 s) (hx : execPortEnable port value s = .next s1) : Kept s0 s1 := by
  unfold execPortEnable at hx
  injection hx with hx
  subst hx
  repeat' first
    | with_reducible assumption | intro _ | with_reducible apply State.linkEvent_kept
    | with_reducible apply State.portEnable_kept | dsimp -zeta only | split

theorem execPortDisable_kept {s0 s s1 : State} (port : Nat) (value : Word)
    (hk0 : Kept s0 s) (hx : execPortDisable port value s = .next s1) : Kept s0 s1 := by
  unfold execPortDisable at hx
  injection hx with hx
  subst hx
  repeat' first
    | with_reducible assumption | intro _ | with_reducible apply State.linkEvent_kept
    | with_reducible apply State.portDisable_kept | dsimp -zeta only | split

theorem execPortRetrain_kept {s0 s s1 : State} (port : Nat) (value : Word)
    (hk0 : Kept s0 s) (hx : execPortRetrain port value s = .next s1) : Kept s0 s1 := by
  unfold execPortRetrain at hx
  injection hx with hx
  subst hx
  repeat' first
    | with_reducible assumption | intro _ | with_reducible apply State.linkEvent_kept
    | with_reducible apply State.writePortCfg_kept | dsimp -zeta only | split

theorem execLaneLockTimeout_kept {s0 s s1 : State} (port : Nat) (lane : Nat)
    (hk0 : Kept s0 s) (hx : execLaneLockTimeout port lane s = .next s1) : Kept s0 s1 := by
  unfold execLaneLockTimeout at hx
  injection hx with hx
  subst hx
  repeat' first
    | with_reducible assumption | intro _ | with_reducible apply State.linkEvent_kept
    | with_reducible apply State.laneDead_kept | dsimp -zeta only | split

theorem execLaneRemoveMessage_kept {s0 s s1 : State} (port : Nat) (lane : Nat)
    (hk0 : Kept s0 s) (hx : execLaneRemoveMessage port lane s = .next s1) : Kept s0 s1 := by
  unfold execLaneRemoveMessage at hx
  injection hx with hx
  subst hx
  repeat' first
    | with_reducible assumption | intro _ | with_reducible apply State.linkEvent_kept
    | with_reducible apply State.laneDead_kept | dsimp -zeta only | split

theorem execLaneLockLoss_kept {s0 s s1 : State} (port : Nat)
    (hk0 : Kept s0 s) (hx : execLaneLockLoss port s = .next s1) : Kept s0 s1 := by
  unfold execLaneLockLoss at hx
  injection hx with hx
  subst hx
  repeat' first
    | with_reducible assumption | intro _ | with_reducible apply State.linkEvent_kept
    | with_reducible apply State.startRetrain_kept | dsimp -zeta only | split

theorem execLnkNakReceive_kept {s0 s s1 : State} (port : Nat) (ackSeq : Nat)
    (hk0 : Kept s0 s) (hx : execLnkNakReceive port ackSeq s = .next s1) : Kept s0 s1 := by
  unfold execLnkNakReceive at hx
  injection hx with hx
  subst hx
  repeat' first
    | with_reducible assumption | intro _ | with_reducible apply State.linkEvent_kept
    | with_reducible apply State.replayFrom_kept | dsimp -zeta only | split

theorem execLnkReplayTimeout_kept {s0 s s1 : State} (port : Nat)
    (hk0 : Kept s0 s) (hx : execLnkReplayTimeout port s = .next s1) : Kept s0 s1 := by
  unfold execLnkReplayTimeout at hx
  injection hx with hx
  subst hx
  repeat' first
    | with_reducible assumption | intro _ | with_reducible apply State.linkEvent_kept
    | with_reducible apply State.replayFrom_kept | dsimp -zeta only | split

theorem execMemRequest_kept {s0 s s1 : State} (r : MemReq) (ctrlUe : Bool)
    (hk0 : Kept s0 s) (hx : execMemRequest r ctrlUe s = .next s1) : Kept s0 s1 := by
  unfold execMemRequest at hx
  injection hx with hx
  subst hx
  repeat' first
    | with_reducible assumption | intro _ | with_reducible apply Kept.ite | with_reducible apply State.onDie_kept
    | with_reducible apply State.fatal_kept | with_reducible apply State.memRequest_kept | dsimp -zeta only | split

theorem execNearMemoryAccumulate_kept {s0 s s1 : State} (a : AccReq)
    (hk0 : Kept s0 s) (hx : execNearMemoryAccumulate a s = .next s1) : Kept s0 s1 := by
  unfold execNearMemoryAccumulate at hx
  injection hx with hx
  subst hx
  repeat' first
    | with_reducible assumption | intro _ | with_reducible apply State.onDie_kept
    | with_reducible apply State.accRequest_kept | dsimp -zeta only | split

theorem execWcbAgeEvict_kept {s0 s s1 : State} (channel : Nat) (err : BurstErr)
    (hk0 : Kept s0 s) (hx : execWcbAgeEvict channel err s = .next s1) : Kept s0 s1 := by
  unfold execWcbAgeEvict at hx
  injection hx with hx
  subst hx
  repeat' first
    | with_reducible assumption | intro _ | with_reducible apply State.onDie_kept
    | with_reducible apply State.wcbAge_kept | dsimp -zeta only | split

theorem execPatrolScrubRead_kept {s0 s s1 : State} (channel : Nat) (err : BurstErr)
    (hk0 : Kept s0 s) (hx : execPatrolScrubRead channel err s = .next s1) : Kept s0 s1 := by
  unfold execPatrolScrubRead at hx
  injection hx with hx
  subst hx
  repeat' first
    | with_reducible assumption | intro _ | with_reducible apply State.onDie_kept
    | with_reducible apply State.patrol_kept | dsimp -zeta only | split

theorem execMemMrRead_kept {s0 s s1 : State} (die : Nat) (value : Word)
    (hk0 : Kept s0 s) (hx : execMemMrRead die value s = .next s1) : Kept s0 s1 := by
  unfold execMemMrRead at hx
  injection hx with hx
  subst hx
  repeat' first
    | with_reducible assumption | intro _ | with_reducible apply State.onDie_kept
    | with_reducible apply State.mrRead_kept | dsimp -zeta only | split

theorem execMemMrWrite_kept {s0 s s1 : State} (die : Nat) (value : Word)
    (hk0 : Kept s0 s) (hx : execMemMrWrite die value s = .next s1) : Kept s0 s1 := by
  unfold execMemMrWrite at hx
  injection hx with hx
  subst hx
  repeat' first
    | with_reducible assumption | intro _ | with_reducible apply State.onDie_kept
    | with_reducible apply State.mrWrite_kept | dsimp -zeta only | split

theorem execMemSoftRepair_kept {s0 s s1 : State} (die : Nat) (value : Word)
    (hk0 : Kept s0 s) (hx : execMemSoftRepair die value s = .next s1) : Kept s0 s1 := by
  unfold execMemSoftRepair at hx
  injection hx with hx
  subst hx
  repeat' first
    | with_reducible assumption | intro _ | with_reducible apply State.onDie_kept
    | with_reducible apply State.softRepair_kept | dsimp -zeta only | split

theorem execMemHardRepair_kept {s0 s s1 : State} (die : Nat) (value : Word)
    (hk0 : Kept s0 s) (hx : execMemHardRepair die value s = .next s1) : Kept s0 s1 := by
  unfold execMemHardRepair at hx
  injection hx with hx
  subst hx
  repeat' first
    | with_reducible assumption | intro _ | with_reducible apply State.onDie_kept
    | with_reducible apply State.hardRepair_kept | dsimp -zeta only | split

theorem execMemQueryRepair_kept {s0 s s1 : State} (die : Nat) (value : Word)
    (hk0 : Kept s0 s) (hx : execMemQueryRepair die value s = .next s1) : Kept s0 s1 := by
  unfold execMemQueryRepair at hx
  injection hx with hx
  subst hx
  repeat' first
    | with_reducible assumption | intro _ | with_reducible apply State.onDie_kept
    | with_reducible apply State.queryRepair_kept | dsimp -zeta only | split

theorem execSoftRepairResult_kept {s0 s s1 : State} (channel : Nat) (success : Bool) (reads : List (Nat × BurstErr))
    (hk0 : Kept s0 s) (hx : execSoftRepairResult channel success reads s = .next s1) : Kept s0 s1 := by
  unfold execSoftRepairResult at hx
  injection hx with hx
  subst hx
  repeat' first
    | with_reducible assumption | intro _ | with_reducible apply State.onDie_kept
    | with_reducible apply State.softResult_kept | dsimp -zeta only | split

theorem execHardRepairDone_kept {s0 s s1 : State} (channel : Nat) (success : Bool)
    (hk0 : Kept s0 s) (hx : execHardRepairDone channel success s = .next s1) : Kept s0 s1 := by
  unfold execHardRepairDone at hx
  injection hx with hx
  subst hx
  repeat' first
    | with_reducible assumption | intro _ | with_reducible apply State.onDie_kept
    | with_reducible apply State.hardDone_kept | dsimp -zeta only | split

theorem execMapoutGo_kept {s0 s s1 : State} (die : Nat) (value : Word)
    (hk0 : Kept s0 s) (hx : execMapoutGo die value s = .next s1) : Kept s0 s1 := by
  unfold execMapoutGo at hx
  injection hx with hx
  subst hx
  repeat' first
    | with_reducible assumption | intro _ | with_reducible apply State.onDie_kept
    | with_reducible apply State.mapoutGo_kept | dsimp -zeta only | split

theorem execMapoutCopyDone_kept {s0 s s1 : State} (die : Nat) (reads : List (Nat × BurstErr))
    (hk0 : Kept s0 s) (hx : execMapoutCopyDone die reads s = .next s1) : Kept s0 s1 := by
  unfold execMapoutCopyDone at hx
  injection hx with hx
  subst hx
  repeat' first
    | with_reducible assumption | intro _ | with_reducible apply State.onDie_kept
    | with_reducible apply State.mapoutDone_kept | dsimp -zeta only | split

theorem execMemChmapSetWrite_kept {s0 s s1 : State} (die : Nat) (value : Word)
    (hk0 : Kept s0 s) (hx : execMemChmapSetWrite die value s = .next s1) : Kept s0 s1 := by
  unfold execMemChmapSetWrite at hx
  injection hx with hx
  subst hx
  repeat' first
    | with_reducible assumption | intro _ | with_reducible apply State.onDie_kept
    | with_reducible apply State.chmapSet_kept | dsimp -zeta only | split

theorem execStackTempSample_kept {s0 s s1 : State} (stack : Nat) (reading : Option Int)
    (hk0 : Kept s0 s) (hx : execStackTempSample stack reading s = .next s1) : Kept s0 s1 := by
  unfold execStackTempSample at hx
  injection hx with hx
  subst hx
  repeat' first
    | with_reducible assumption | intro _ | with_reducible apply State.unheld_kept
    | with_reducible apply State.stackTemp_kept | dsimp -zeta only | split

theorem execMemPhyTrainingDone_kept {s0 s s1 : State} (t : PhyTraining)
    (hk0 : Kept s0 s) (hx : execMemPhyTrainingDone t s = .next s1) : Kept s0 s1 := by
  unfold execMemPhyTrainingDone at hx
  injection hx with hx
  subst hx
  repeat' first
    | with_reducible assumption | intro _ | with_reducible apply State.inTraining_kept
    | with_reducible apply State.phyTrained_kept | dsimp -zeta only | split

theorem execPlanLoad_kept {s0 s s1 : State} (queue : Nat) (index : Nat)
    (hk0 : Kept s0 s) (hx : execPlanLoad queue index s = .next s1) : Kept s0 s1 := by
  unfold execPlanLoad at hx
  injection hx with hx
  subst hx
  repeat' first
    | with_reducible assumption | intro _ | with_reducible apply State.onDie_kept
    | with_reducible apply State.planLoad_kept | dsimp -zeta only | split

theorem execFire_kept {s0 s s1 : State} (queue : Nat) (index : Nat)
    (hk0 : Kept s0 s) (hx : execFire queue index s = .next s1) : Kept s0 s1 := by
  unfold execFire at hx
  injection hx with hx
  subst hx
  repeat' first
    | with_reducible assumption | intro _ | with_reducible apply State.onDie_kept
    | with_reducible apply State.fire_kept | dsimp -zeta only | split

theorem execKlnAbort_kept {s0 s s1 : State} (queue : Nat) (index : Nat)
    (hk0 : Kept s0 s) (hx : execKlnAbort queue index s = .next s1) : Kept s0 s1 := by
  unfold execKlnAbort at hx
  injection hx with hx
  subst hx
  repeat' first
    | with_reducible assumption | intro _ | with_reducible apply State.kilnEvent_kept
    | with_reducible apply State.klnAbort_kept | dsimp -zeta only | split

theorem execRestore_kept {s0 s s1 : State} (queue : Nat) (index : Nat)
    (hk0 : Kept s0 s) (hx : execRestore queue index s = .next s1) : Kept s0 s1 := by
  unfold execRestore at hx
  injection hx with hx
  subst hx
  repeat' first
    | with_reducible assumption | intro _ | with_reducible apply State.onDie_kept
    | with_reducible apply State.restore_kept | dsimp -zeta only | split

theorem execProbe_kept {s0 s s1 : State} (queue : Nat) (index : Nat)
    (hk0 : Kept s0 s) (hx : execProbe queue index s = .next s1) : Kept s0 s1 := by
  unfold execProbe at hx
  injection hx with hx
  subst hx
  repeat' first
    | with_reducible assumption | intro _ | with_reducible apply State.onDie_kept
    | with_reducible apply State.probeSlot_kept | dsimp -zeta only | split

theorem execKilnDestAck_kept {s0 s s1 : State} (o : Origin) (request : Nat)
    (hk0 : Kept s0 s) (hx : execKilnDestAck o request s = .next s1) : Kept s0 s1 := by
  unfold execKilnDestAck at hx
  injection hx with hx
  subst hx
  repeat' first
    | with_reducible assumption | intro _ | with_reducible apply State.kilnEvent_kept
    | with_reducible apply State.buddyAck_kept | with_reducible apply State.request_kept | dsimp -zeta only | split

theorem execKilnCaptureDone_kept {s0 s s1 : State} (grove : Nat)
    (hk0 : Kept s0 s) (hx : execKilnCaptureDone grove s = .next s1) : Kept s0 s1 := by
  unfold execKilnCaptureDone at hx
  injection hx with hx
  subst hx
  repeat' first
    | with_reducible assumption | intro _ | with_reducible apply State.kilnEvent_kept
    | with_reducible apply State.captureDone_kept | dsimp -zeta only | split

theorem execKilnTouchDone_kept {s0 s s1 : State} (grove : Nat) (page : Nat) (cycles : Nat)
    (hk0 : Kept s0 s) (hx : execKilnTouchDone grove page cycles s = .next s1) : Kept s0 s1 := by
  unfold execKilnTouchDone at hx
  injection hx with hx
  subst hx
  repeat' first
    | with_reducible assumption | intro _ | with_reducible apply State.kilnEvent_kept
    | with_reducible apply State.touchDone_kept | dsimp -zeta only | split

theorem execKilnDrainReceive_kept {s0 s s1 : State} (die : Nat) (o : Origin) (w : KilnWrite)
    (hk0 : Kept s0 s) (hx : execKilnDrainReceive die o w s = .next s1) : Kept s0 s1 := by
  unfold execKilnDrainReceive at hx
  injection hx with hx
  subst hx
  repeat' first
    | with_reducible assumption | intro _ | with_reducible apply State.onDie_kept
    | with_reducible apply State.kilnWrite_kept | dsimp -zeta only | split

theorem execKilnDrainTimeout_kept {s0 s s1 : State} (grove : Nat)
    (hk0 : Kept s0 s) (hx : execKilnDrainTimeout grove s = .next s1) : Kept s0 s1 := by
  unfold execKilnDrainTimeout at hx
  injection hx with hx
  subst hx
  repeat' first
    | with_reducible assumption | intro _ | with_reducible apply State.kilnEvent_kept
    | with_reducible apply State.kilnOverdue_kept | dsimp -zeta only | split

theorem execRestoreDataReceive_kept {s0 s s1 : State} (tag : Nat) (data : List Byte)
    (hk0 : Kept s0 s) (hx : execRestoreDataReceive tag data s = .next s1) : Kept s0 s1 := by
  unfold execRestoreDataReceive at hx
  injection hx with hx
  subst hx
  repeat' first
    | with_reducible assumption | intro _ | with_reducible apply State.onDie_kept
    | with_reducible apply State.slotData_kept | dsimp -zeta only | split

theorem execCommandFetch_kept {s0 s s1 : State} (queue : Nat)
    (hk0 : Kept s0 s) (hx : execCommandFetch queue s = .next s1) : Kept s0 s1 := by
  unfold execCommandFetch at hx
  injection hx with hx
  subst hx
  repeat' first
    | with_reducible assumption | intro _ | with_reducible apply State.onDie_kept
    | with_reducible apply State.fetch_kept | dsimp -zeta only | split

theorem execHlkNakReceive_kept {s0 s s1 : State} (link : Nat) (ackSeq : Nat)
    (hk0 : Kept s0 s) (hx : execHlkNakReceive link ackSeq s = .next s1) : Kept s0 s1 := by
  unfold execHlkNakReceive at hx
  injection hx with hx
  subst hx
  repeat' first
    | with_reducible assumption | intro _ | with_reducible apply State.onDie_kept
    | with_reducible apply State.hlkReplay_kept | dsimp -zeta only | split

theorem execHlkReplayTimeout_kept {s0 s s1 : State} (link : Nat)
    (hk0 : Kept s0 s) (hx : execHlkReplayTimeout link s = .next s1) : Kept s0 s1 := by
  unfold execHlkReplayTimeout at hx
  injection hx with hx
  subst hx
  repeat' first
    | with_reducible assumption | intro _ | with_reducible apply State.onDie_kept
    | with_reducible apply State.hlkReplay_kept | dsimp -zeta only | split

theorem execHlkRetrainDone_kept {s0 s s1 : State} (link : Nat) (modules : Nat) (lanes : Nat)
    (hk0 : Kept s0 s) (hx : execHlkRetrainDone link modules lanes s = .next s1) : Kept s0 s1 := by
  unfold execHlkRetrainDone at hx
  injection hx with hx
  subst hx
  repeat' first
    | with_reducible assumption | intro _ | with_reducible apply State.onDie_kept
    | with_reducible apply State.hlkRetrained_kept | dsimp -zeta only | split

theorem execEthLinkTrainingDone_kept {s0 s s1 : State} (port : Nat)
    (hk0 : Kept s0 s) (hx : execEthLinkTrainingDone port s = .next s1) : Kept s0 s1 := by
  unfold execEthLinkTrainingDone at hx
  injection hx with hx
  subst hx
  repeat' first
    | with_reducible assumption | intro _ | with_reducible apply State.awake_kept
    | with_reducible apply State.modHrt_kept | (rewrite [State.mk_eq_ofB]; with_reducible refine Kept.upd ?_)
    | dsimp -zeta only | split

theorem execTlsConnect_kept {s0 s s1 : State} (operator : Bool) (certificate : Nat)
    (hk0 : Kept s0 s) (hx : execTlsConnect operator certificate s = .next s1) : Kept s0 s1 := by
  unfold execTlsConnect at hx
  injection hx with hx
  subst hx
  repeat' first
    | with_reducible assumption | intro _ | with_reducible apply State.frontEnd_kept
    | with_reducible apply State.tlsConnect_kept | dsimp -zeta only | split

theorem execSessionIdleTimeout_kept {s0 s s1 : State} (session : Nat)
    (hk0 : Kept s0 s) (hx : execSessionIdleTimeout session s = .next s1) : Kept s0 s1 := by
  unfold execSessionIdleTimeout at hx
  injection hx with hx
  subst hx
  repeat' first
    | with_reducible assumption | intro _ | with_reducible apply State.awake_kept
    | with_reducible apply State.closeSession_kept | dsimp -zeta only | split

theorem execTlsSessionMessage_kept {s0 s s1 : State} (session : Nat) (msg : TlsMsg)
    (hk0 : Kept s0 s) (hx : execTlsSessionMessage session msg s = .next s1) : Kept s0 s1 := by
  unfold execTlsSessionMessage at hx
  injection hx with hx
  subst hx
  repeat' first
    | with_reducible assumption | intro _ | with_reducible apply State.frontEnd_kept
    | with_reducible apply State.tlsMessage_kept | dsimp -zeta only | split

theorem execRdmaRequest_kept {s0 s s1 : State} (qp : Nat) (req : RdmaReq)
    (hk0 : Kept s0 s) (hx : execRdmaRequest qp req s = .next s1) : Kept s0 s1 := by
  unfold execRdmaRequest at hx
  injection hx with hx
  subst hx
  repeat' first
    | with_reducible assumption | intro _ | with_reducible apply State.onDie_kept
    | with_reducible apply State.frontEnd_kept | with_reducible apply State.rdmaRequest_kept | dsimp -zeta only
    | split

theorem execRdmaResponseReceive_kept {s0 s s1 : State} (qp : Nat) (resp : RdmaResp)
    (hk0 : Kept s0 s) (hx : execRdmaResponseReceive qp resp s = .next s1) : Kept s0 s1 := by
  unfold execRdmaResponseReceive at hx
  injection hx with hx
  subst hx
  repeat' first
    | with_reducible assumption | intro _ | with_reducible apply State.kilnEvent_kept
    | with_reducible apply State.frontEnd_kept | with_reducible apply State.rdmaResponse_kept | dsimp -zeta only
    | split

theorem execHeartwoodBoot_kept {s0 s s1 : State} (copyA : List Byte) (copyB : List Byte) (pufOk : Bool) (nvmUe : Bool)
    (hk0 : Kept s0 s) (hx : execHeartwoodBoot copyA copyB pufOk nvmUe s = .next s1) : Kept s0 s1 := by
  unfold execHeartwoodBoot at hx
  injection hx with hx
  subst hx
  repeat' first
    | with_reducible assumption | intro _ | with_reducible apply State.unheld_kept
    | with_reducible apply State.boot_kept | dsimp -zeta only | split

theorem execAttest_kept {s0 s s1 : State} (value : Word) (nvmUe : Bool)
    (hk0 : Kept s0 s) (hx : execAttest value nvmUe s = .next s1) : Kept s0 s1 := by
  unfold execAttest at hx
  injection hx with hx
  subst hx
  repeat' first
    | with_reducible assumption | with_reducible apply State.mbAttest_kept | split

theorem execIdentRead_kept {s0 s s1 : State} (value : Word) (nvmUe : Bool)
    (hk0 : Kept s0 s) (hx : execIdentRead value nvmUe s = .next s1) : Kept s0 s1 := by
  unfold execIdentRead at hx
  injection hx with hx
  subst hx
  repeat' first
    | with_reducible assumption | with_reducible apply State.mbIdent_kept | split

theorem execMeasureExtend_kept {s0 s s1 : State} (value : Word)
    (hk0 : Kept s0 s) (hx : execMeasureExtend value s = .next s1) : Kept s0 s1 := by
  unfold execMeasureExtend at hx
  injection hx with hx
  subst hx
  repeat' first
    | with_reducible assumption | with_reducible apply State.mbMeasure_kept | split

theorem execProvisionSet_kept {s0 s s1 : State} (value : Word) (nvmUe : Bool)
    (hk0 : Kept s0 s) (hx : execProvisionSet value nvmUe s = .next s1) : Kept s0 s1 := by
  unfold execProvisionSet at hx
  injection hx with hx
  subst hx
  repeat' first
    | with_reducible assumption | with_reducible apply State.mbProvision_kept | split

theorem execRollbackCommit_kept {s0 s s1 : State} (value : Word) (nvmUe : Bool)
    (hk0 : Kept s0 s) (hx : execRollbackCommit value nvmUe s = .next s1) : Kept s0 s1 := by
  unfold execRollbackCommit at hx
  injection hx with hx
  subst hx
  repeat' first
    | with_reducible assumption | with_reducible apply State.mbRollback_kept | split

theorem execLoadRuntime_kept {s0 s s1 : State} (value : Word) (copyA : List Byte) (copyB : List Byte)
    (hk0 : Kept s0 s) (hx : execLoadRuntime value copyA copyB s = .next s1) : Kept s0 s1 := by
  unfold execLoadRuntime at hx
  injection hx with hx
  subst hx
  repeat' first
    | with_reducible assumption | with_reducible apply State.mbLoad_kept | split

theorem execBatchGo_kept {s0 s s1 : State} (value : Word)
    (hk0 : Kept s0 s) (hx : execBatchGo value s = .next s1) : Kept s0 s1 := by
  unfold execBatchGo at hx
  injection hx with hx
  subst hx
  repeat' first
    | with_reducible assumption | intro _ | with_reducible apply State.onDie_kept
    | with_reducible apply State.batchGo_kept | dsimp -zeta only | split

theorem execBatchQuiesceDone_kept {s0 s s1 : State} 
    (hk0 : Kept s0 s) (hx : execBatchQuiesceDone s = .next s1) : Kept s0 s1 := by
  unfold execBatchQuiesceDone at hx
  injection hx with hx
  subst hx
  repeat' first
    | with_reducible assumption | intro _ | with_reducible apply State.onDie_kept
    | with_reducible apply State.batchQuiesced_kept | split

theorem execQuiesceTimeout_kept {s0 s s1 : State} (image : Nat)
    (hk0 : Kept s0 s) (hx : execQuiesceTimeout image s = .next s1) : Kept s0 s1 := by
  unfold execQuiesceTimeout at hx
  injection hx with hx
  subst hx
  repeat' first
    | with_reducible assumption | intro _ | with_reducible apply State.onDie_kept
    | with_reducible apply State.batchLate_kept | dsimp -zeta only | split

theorem execResourceClearDone_kept {s0 s s1 : State} 
    (hk0 : Kept s0 s) (hx : execResourceClearDone s = .next s1) : Kept s0 s1 := by
  unfold execResourceClearDone at hx
  injection hx with hx
  subst hx
  repeat' first
    | with_reducible assumption | intro _ | with_reducible apply State.onDie_kept
    | with_reducible apply State.batchDone_kept | split

theorem execScrubAdvance_kept {s0 s s1 : State} (channel : Nat)
    (hk0 : Kept s0 s) (hx : execScrubAdvance channel s = .next s1) : Kept s0 s1 := by
  unfold execScrubAdvance at hx
  injection hx with hx
  subst hx
  repeat' first
    | with_reducible assumption | intro _ | with_reducible apply State.onDie_kept
    | with_reducible apply State.scrubAdvance_kept | dsimp -zeta only | split

theorem execStaleGroveNak_kept {s0 s s1 : State} (nak : StaleNak)
    (hk0 : Kept s0 s) (hx : execStaleGroveNak nak s = .next s1) : Kept s0 s1 := by
  unfold execStaleGroveNak at hx
  injection hx with hx
  subst hx
  repeat' first
    | with_reducible assumption | intro _ | with_reducible apply State.kilnEvent_kept
    | with_reducible apply State.staleRecord_kept | with_reducible apply State.endStale_kept | dsimp -zeta only
    | split

theorem execBudgetPeriodStart_kept {s0 s s1 : State} (die : Nat) (grove : Nat)
    (hk0 : Kept s0 s) (hx : execBudgetPeriodStart die grove s = .next s1) : Kept s0 s1 := by
  unfold execBudgetPeriodStart at hx
  injection hx with hx
  subst hx
  repeat' first
    | with_reducible assumption | intro _ | with_reducible apply State.kilnEvent_kept
    | with_reducible apply State.periodStart_kept | dsimp -zeta only | split

theorem execGrvBudgetWrite_kept {s0 s s1 : State} (die : Nat) (grove : Nat) (activity : Nat) (value : Word)
    (hk0 : Kept s0 s) (hx : execGrvBudgetWrite die grove activity value s = .next s1) : Kept s0 s1 := by
  unfold execGrvBudgetWrite at hx
  injection hx with hx
  subst hx
  repeat' first
    | with_reducible assumption | intro _ | with_reducible apply State.onDie_kept
    | with_reducible apply State.writeBudget_kept | dsimp -zeta only | split

theorem execGlbDevnumWrite_kept {s0 s s1 : State} (value : Word)
    (hk0 : Kept s0 s) (hx : execGlbDevnumWrite value s = .next s1) : Kept s0 s1 := by
  unfold execGlbDevnumWrite at hx
  injection hx with hx
  subst hx
  repeat' first
    | with_reducible assumption | intro _ | with_reducible apply State.unheld_kept
    | with_reducible apply State.writeDevnum_kept | dsimp -zeta only | split

theorem execBindingDigestCheck_kept {s0 s s1 : State} (die : Nat) (corrupted : Bool)
    (hk0 : Kept s0 s) (hx : execBindingDigestCheck die corrupted s = .next s1) : Kept s0 s1 := by
  unfold execBindingDigestCheck at hx
  injection hx with hx
  subst hx
  repeat' first
    | with_reducible assumption | intro _ | with_reducible apply Kept.ite | with_reducible apply State.inTraining_kept
    | with_reducible apply State.fatal_kept | dsimp -zeta only | split

theorem execAuxSupplyUp_kept {s0 s s1 : State} (strap : Nat)
    (hk0 : Kept s0 s) (hx : execAuxSupplyUp strap s = .next s1) : Kept s0 s1 := by
  unfold execAuxSupplyUp at hx
  injection hx with hx
  subst hx
  repeat' first
    | with_reducible assumption | with_reducible apply State.auxUp_kept | split

theorem execVinInWindow_kept {s0 s s1 : State} 
    (hk0 : Kept s0 s) (hx : execVinInWindow s = .next s1) : Kept s0 s1 := by
  unfold execVinInWindow at hx
  injection hx with hx
  subst hx
  repeat' first
    | with_reducible assumption | intro _ | with_reducible apply State.unheld_kept
    | with_reducible apply State.vinUp_kept | split

theorem execResetNLow_kept {s0 s s1 : State} (us : Nat)
    (hk0 : Kept s0 s) (hx : execResetNLow us s = .next s1) : Kept s0 s1 := by
  unfold execResetNLow at hx
  injection hx with hx
  subst hx
  repeat' first
    | with_reducible assumption | with_reducible apply State.resetN_kept | split

theorem execResetNRelease_kept {s0 s s1 : State} (strap : Nat)
    (hk0 : Kept s0 s) (hx : execResetNRelease strap s = .next s1) : Kept s0 s1 := by
  unfold execResetNRelease at hx
  injection hx with hx
  subst hx
  repeat' first
    | with_reducible assumption | with_reducible apply State.resetNUp_kept | split

theorem execHlkTrainingDone_kept {s0 s s1 : State} (cd0 : Nat × Nat) (cd1 : Nat × Nat) (span : Nat × Nat)
    (hk0 : Kept s0 s) (hx : execHlkTrainingDone cd0 cd1 span s = .next s1) : Kept s0 s1 := by
  unfold execHlkTrainingDone at hx
  injection hx with hx
  subst hx
  repeat' first
    | with_reducible assumption | intro _ | with_reducible apply State.inTraining_kept
    | with_reducible apply State.linksTrained_kept | dsimp -zeta only | split

theorem execPllRelocked_kept {s0 s s1 : State} 
    (hk0 : Kept s0 s) (hx : execPllRelocked s = .next s1) : Kept s0 s1 := by
  unfold execPllRelocked at hx
  injection hx with hx
  subst hx
  repeat' first
    | with_reducible assumption | intro _ | with_reducible apply State.unheld_kept
    | with_reducible apply State.pllsLocked_kept | split

theorem execService_kept {s0 s s1 : State} (value : Word)
    (hk0 : Kept s0 s) (hx : execService value s = .next s1) : Kept s0 s1 := by
  unfold execService at hx
  injection hx with hx
  subst hx
  repeat' first
    | with_reducible assumption | with_reducible apply State.recoverOp_kept | split

theorem execRecover_kept {s0 s s1 : State} (value : Word)
    (hk0 : Kept s0 s) (hx : execRecover value s = .next s1) : Kept s0 s1 := by
  unfold execRecover at hx
  injection hx with hx
  subst hx
  repeat' first
    | with_reducible assumption | with_reducible apply State.recoverOp_kept | split

theorem execWarmReset_kept {s0 s s1 : State} (value : Word)
    (hk0 : Kept s0 s) (hx : execWarmReset value s = .next s1) : Kept s0 s1 := by
  unfold execWarmReset at hx
  injection hx with hx
  subst hx
  repeat' first
    | with_reducible assumption | with_reducible apply State.recoverOp_kept | split

theorem execColdReset_kept {s0 s s1 : State} (value : Word)
    (hk0 : Kept s0 s) (hx : execColdReset value s = .next s1) : Kept s0 s1 := by
  unfold execColdReset at hx
  injection hx with hx
  subst hx
  repeat' first
    | with_reducible assumption | with_reducible apply State.recoverOp_kept | split

theorem execGroveReset_kept {s0 s s1 : State} (value : Word)
    (hk0 : Kept s0 s) (hx : execGroveReset value s = .next s1) : Kept s0 s1 := by
  unfold execGroveReset at hx
  injection hx with hx
  subst hx
  repeat' first
    | with_reducible assumption | with_reducible apply State.recoverOp_kept | split

theorem execForceAsh_kept {s0 s s1 : State} (value : Word)
    (hk0 : Kept s0 s) (hx : execForceAsh value s = .next s1) : Kept s0 s1 := by
  unfold execForceAsh at hx
  injection hx with hx
  subst hx
  repeat' first
    | with_reducible assumption | with_reducible apply State.recoverOp_kept | split

theorem execRegisterWrite_kept {s0 s s1 : State} (off : Nat) (width : Nat) (value : Word)
    (hk0 : Kept s0 s) (hx : execRegisterWrite off width value s = .next s1) : Kept s0 s1 := by
  unfold execRegisterWrite at hx
  injection hx with hx
  subst hx
  repeat' first
    | with_reducible assumption | with_reducible apply State.regStore_kept | split

theorem execHlkFlitReceive_kept {s0 s s1 : State} (link : Nat) (flit : List Byte)
    (hk0 : Kept s0 s) (hx : execHlkFlitReceive link flit s = .next s1) : Kept s0 s1 := by
  unfold execHlkFlitReceive at hx
  injection hx with hx
  subst hx
  repeat' first
    | with_reducible assumption | intro _ | with_reducible apply State.onDie_kept
    | with_reducible apply State.hlkReceive_kept | dsimp -zeta only | split

theorem execSmbusRegRead_kept {s0 s s1 : State} (off : Nat)
    (hk0 : Kept s0 s) (hx : execSmbusRegRead off s = .next s1) : Kept s0 s1 := by
  unfold execSmbusRegRead at hx
  injection hx with hx
  subst hx
  repeat' first
    | with_reducible assumption | intro _ | with_reducible apply State.unheld_kept
    | with_reducible apply State.smbusRead_kept | dsimp -zeta only | split

theorem execSmbusRegWrite_kept {s0 s s1 : State} (off : Nat) (value : Word)
    (hk0 : Kept s0 s) (hx : execSmbusRegWrite off value s = .next s1) : Kept s0 s1 := by
  unfold execSmbusRegWrite at hx
  injection hx with hx
  subst hx
  repeat' first
    | with_reducible assumption | intro _ | with_reducible apply State.unheld_kept
    | with_reducible apply State.smbusWrite_kept | dsimp -zeta only | split

theorem execSmbusImgBegin_kept {s0 s s1 : State} (kind : Nat) (length : Nat)
    (hk0 : Kept s0 s) (hx : execSmbusImgBegin kind length s = .next s1) : Kept s0 s1 := by
  unfold execSmbusImgBegin at hx
  injection hx with hx
  subst hx
  repeat' first
    | with_reducible assumption | intro _ | with_reducible apply State.unheld_kept
    | with_reducible apply State.imgBegin_kept | dsimp -zeta only | split

theorem execSmbusImgData_kept {s0 s s1 : State} (off : Nat) (data : List Byte)
    (hk0 : Kept s0 s) (hx : execSmbusImgData off data s = .next s1) : Kept s0 s1 := by
  unfold execSmbusImgData at hx
  injection hx with hx
  subst hx
  repeat' first
    | with_reducible assumption | intro _ | with_reducible apply State.unheld_kept
    | with_reducible apply State.imgBytes_kept | dsimp -zeta only | split

theorem execSmbusImgEnd_kept {s0 s s1 : State} (crc : Nat)
    (hk0 : Kept s0 s) (hx : execSmbusImgEnd crc s = .next s1) : Kept s0 s1 := by
  unfold execSmbusImgEnd at hx
  injection hx with hx
  subst hx
  repeat' first
    | with_reducible assumption | intro _ | with_reducible apply State.unheld_kept
    | with_reducible apply State.imgEnd_kept | dsimp -zeta only | split

theorem execSmbusImgStatus_kept {s0 s s1 : State} 
    (hk0 : Kept s0 s) (hx : execSmbusImgStatus s = .next s1) : Kept s0 s1 := by
  unfold execSmbusImgStatus at hx
  injection hx with hx
  subst hx
  repeat' first
    | with_reducible assumption | intro _ | with_reducible apply State.unheld_kept
    | with_reducible apply State.smbusStatus_kept | dsimp -zeta only | split

theorem execSmbusAlertResponse_kept {s0 s s1 : State} 
    (hk0 : Kept s0 s) (hx : execSmbusAlertResponse s = .next s1) : Kept s0 s1 := by
  unfold execSmbusAlertResponse at hx
  injection hx with hx
  subst hx
  repeat' first
    | with_reducible assumption | intro _ | with_reducible apply State.unheld_kept
    | with_reducible apply State.alertResponse_kept | split

theorem execTapTestEntry_kept {s0 s s1 : State} (i : TapInstr)
    (hk0 : Kept s0 s) (hx : execTapTestEntry i s = .next s1) : Kept s0 s1 := by
  unfold execTapTestEntry at hx
  injection hx with hx
  subst hx
  repeat' first
    | with_reducible assumption | intro _ | with_reducible apply State.unheld_kept
    | with_reducible apply State.tapEntry_kept | dsimp -zeta only | split

theorem execTapTestExit_kept {s0 s s1 : State} 
    (hk0 : Kept s0 s) (hx : execTapTestExit s = .next s1) : Kept s0 s1 := by
  unfold execTapTestExit at hx
  injection hx with hx
  subst hx
  repeat' first
    | with_reducible assumption | intro _ | with_reducible apply State.unheld_kept
    | with_reducible apply State.tapLeave_kept | dsimp -zeta only | split

end Sys2Proof.Machine
end

