-- ==== Sys2Proof/Laws/BoundAs.lean ====
section
/-! SUPPORT. The binding tables and the batch at work are as they were: `BoundAs`, one lemma for each operation that step 4 of a batch uses. -/
set_option Elab.async false
set_option linter.unusedTactic false
set_option linter.unreachableTactic false
set_option linter.unnecessarySeqFocus false
namespace Sys2Proof.Machine

/-- The binding tables and the batch at work are as they were. -/
structure BoundAs (a b : State) : Prop where
  groves : b.grv.groves = a.grv.groves
  batch : b.grv.batch = a.grv.batch

/-- The relation on the state of a pair. -/
def BoundAsP {α : Type} (a : State) (p : State × α) : Prop := BoundAs a p.1

/-- The relation on the state of a pair. -/
def BoundAsQ {α : Type} (a : State) (p : α × State) : Prop := BoundAs a p.2

theorem BoundAs.refl (a : State) : BoundAs a a := by constructor <;> first | rfl | exact fun _ h => h

theorem BoundAs.put {a b : State}
    {regs : Tbl Word} {aonUs : Nat} {outbox : List Msg} {irqs : List Nat} {freeCtr : Nat}
    {pageMap : Tbl (Tbl Nat)} {grv : GroveState} {hrt : HearthState} {sch : SchedState} {num : NumState}
    {smp : SampState} {gth : GathState} {emb : EmbState} {til : TileState} {mem : MemState} {lnk : LinkState}
    {col : CollState} {upd : UpdState} {wch : WatchState} {kln : KilnState} {clk : ClockState}
    {hwd : HeartwoodState} {sup : StartState} {pkg : PkgState}
    (h : BoundAs a b)
    (h0 : grv.groves = b.grv.groves := by exact rfl) (h1 : grv.batch = b.grv.batch := by exact rfl) :
    BoundAs a (State.ofB b
      regs aonUs outbox irqs freeCtr pageMap grv hrt sch num smp gth emb til mem lnk col upd wch kln clk hwd
      sup pkg) :=
  ⟨h0.trans h.groves, h1.trans h.batch⟩

theorem BoundAs.ite {a b c : State} {p : Prop} [Decidable p] (h : BoundAs a b) (k : BoundAs a c) :
    BoundAs a (if p then b else c) := by split <;> assumption

theorem BoundAsP.mk {α : Type} {a s : State} {x : α} (h : BoundAs a s) : BoundAsP a (pairP s x) := h

theorem BoundAsP.ite {α : Type} {a : State} {b c : State × α} {p : Prop} [Decidable p] (h : BoundAsP a b) (k : BoundAsP a c) :
    BoundAsP a (if p then b else c) := by split <;> assumption

theorem BoundAsP.fst {α : Type} {a : State} {p : State × α} (h : BoundAsP a p) : BoundAs a p.1 := h

theorem BoundAsQ.mk {α : Type} {a s : State} {x : α} (h : BoundAs a s) : BoundAsQ a (pairQ x s) := h

theorem BoundAsQ.ite {α : Type} {a : State} {b c : α × State} {p : Prop} [Decidable p] (h : BoundAsQ a b) (k : BoundAsQ a c) :
    BoundAsQ a (if p then b else c) := by split <;> assumption

theorem BoundAsQ.snd {α : Type} {a : State} {p : α × State} (h : BoundAsQ a p) : BoundAs a p.2 := h

theorem BoundAs.of_fst {α : Type} {a b : State} {p : State × α} {x : α} (e : p = (b, x)) (h : BoundAsP a p) : BoundAs a b := by
  subst e; exact h

theorem BoundAs.of_snd {α : Type} {a b : State} {p : α × State} {x : α} (e : p = (x, b)) (h : BoundAsQ a p) : BoundAs a b := by
  subst e; exact h

theorem BoundAs.foldl {α : Type} {a : State} {f : State → α → State} (l : List α) {s : State} (h : BoundAs a s)
    (hf : ∀ b x, BoundAs a b → BoundAs a (f b x)) : BoundAs a (l.foldl f s) := by
  induction l generalizing s with
  | nil => exact h
  | cons x t ih => exact ih (hf _ x h)

theorem BoundAsP.foldl {α β : Type} {a : State} {f : State × β → α → State × β} (l : List α) {s : State × β}
    (h : BoundAsP a s) (hf : ∀ b x, BoundAsP a b → BoundAsP a (f b x)) : BoundAsP a (l.foldl f s) := by
  induction l generalizing s with
  | nil => exact h
  | cons x t ih => exact ih (hf _ x h)

theorem State.putReg_bound {s0 s : State} (r : Reg) (ix : List Nat) (v : Word) (hk0 : BoundAs s0 s) :
    BoundAs s0 (State.putReg s r ix v) := by
  unfold State.putReg
  repeat' first
    | with_reducible assumption | (rewrite [State.mk_eq_ofB]; with_reducible refine BoundAs.put ?_) | dsimp -zeta only
    | split

theorem State.putFld_bound {s0 s : State} (r : Reg) (ix : List Nat) (lo : Nat) (w : Nat) (x : Nat) (hk0 : BoundAs s0 s) :
    BoundAs s0 (State.putFld s r ix lo w x) := by
  unfold State.putFld
  repeat' first
    | with_reducible assumption | with_reducible apply State.putReg_bound | split

theorem State.resetReg_bound {s0 s : State} (r : Reg) (ix : List Nat) (hk0 : BoundAs s0 s) :
    BoundAs s0 (State.resetReg s r ix) := by
  unfold State.resetReg
  repeat' first
    | with_reducible assumption | (rewrite [State.mk_eq_ofB]; with_reducible refine BoundAs.put ?_) | dsimp -zeta only
    | split

theorem State.emit_bound {s0 s : State} (m : Msg) (hk0 : BoundAs s0 s) :
    BoundAs s0 (State.emit s m) := by
  unfold State.emit
  repeat' first
    | with_reducible assumption | (rewrite [State.mk_eq_ofB]; with_reducible refine BoundAs.put ?_) | dsimp -zeta only
    | split

theorem State.fresh_bound {s0 s : State} (hk0 : BoundAs s0 s) :
    BoundAsQ s0 (State.fresh s) := by
  unfold State.fresh
  repeat' first
    | with_reducible assumption | (rewrite [pairQ_eq]; with_reducible refine BoundAsQ.mk ?_)
    | (rewrite [State.mk_eq_ofB]; with_reducible refine BoundAs.put ?_)
    | with_reducible refine BoundAs.of_snd (by assumption) ?_ | with_reducible apply BoundAsQ.snd | dsimp -zeta only | split

theorem State.each_bound {α : Type} {a s : State} (l : List α) {f : State → α → State} (h : BoundAs a s)
    (hf : ∀ b x, BoundAs a b → BoundAs a (f b x)) : BoundAs a (s.each l f) := BoundAs.foldl l h hf

theorem State.modStep_bound {s0 s : State} (g : Nat) (f : GroveStep → GroveStep) (hk0 : BoundAs s0 s) :
    BoundAs s0 (State.modStep s g f) := by
  unfold State.modStep
  repeat' first
    | with_reducible assumption | (rewrite [State.mk_eq_ofB]; with_reducible refine BoundAs.put ?_) | dsimp -zeta only
    | split

theorem State.notify_bound {s0 s : State} (sev : Sev) (hk0 : BoundAs s0 s) :
    BoundAs s0 (State.notify s sev) := by
  unfold State.notify
  repeat' first
    | with_reducible assumption | with_reducible apply BoundAs.ite
    | (rewrite [State.mk_eq_ofB]; with_reducible refine BoundAs.put ?_) | dsimp -zeta only | split

theorem State.keepFatal_bound {s0 s : State} (r : LogRec) (hk0 : BoundAs s0 s) :
    BoundAs s0 (State.keepFatal s r) := by
  unfold State.keepFatal
  repeat' first
    | with_reducible assumption | with_reducible apply BoundAs.ite | with_reducible apply State.fatal_bound
    | (rewrite [State.mk_eq_ofB]; with_reducible refine BoundAs.put ?_) | dsimp -zeta only | split

theorem State.logRec_bound {s0 s : State} (r : LogRec) (hk0 : BoundAs s0 s) :
    BoundAs s0 (State.logRec s r) := by
  unfold State.logRec
  repeat' first
    | with_reducible assumption | (intro x; have hx : BoundAs s0 x := ?hk; clear_value x; case' hk => subst x)
    | (intro x; subst x) | intro _ | with_reducible apply BoundAs.ite | with_reducible apply State.putReg_bound
    | with_reducible apply State.putFld_bound | with_reducible apply State.keepFatal_bound
    | with_reducible apply State.corrected_bound | with_reducible apply State.notify_bound
    | (rewrite [State.mk_eq_ofB]; with_reducible refine BoundAs.putW ?_ id id (Nat.le_refl _) (Nat.le_refl _) (List.prefix_refl _) (Nat.le_refl _) (Nat.le_refl _) StartState.right_alert)
    | (rewrite [State.mk_eq_ofB]; with_reducible refine BoundAs.put ?_) | lift_lets -underBinder | dsimp -zeta only
    | split

theorem State.addHeat_bound {s0 s : State} (w : Nat) (g : Nat) (hk0 : BoundAs s0 s) :
    BoundAs s0 (State.addHeat s w g) := by
  unfold State.addHeat
  repeat' first
    | with_reducible assumption | (intro x; have hx : BoundAs s0 x := ?hk; clear_value x; case' hk => subst x)
    | (intro x; subst x) | intro _ | with_reducible apply BoundAs.ite | with_reducible apply State.putFld_bound
    | with_reducible apply State.logRec_bound | with_reducible apply State.corrected_bound
    | (rewrite [State.mk_eq_ofB]; with_reducible refine BoundAs.put ?_) | lift_lets -underBinder | dsimp -zeta only
    | split

theorem State.heatOn_bound {s0 s : State} (w : Nat) (gs : List Nat) (hk0 : BoundAs s0 s) :
    BoundAs s0 (State.heatOn s w gs) := by
  unfold State.heatOn
  repeat' first
    | with_reducible assumption | intro _ | with_reducible apply State.each_bound
    | with_reducible apply State.addHeat_bound | dsimp -zeta only | split

theorem State.record_bound {s0 s : State} (src : Src) (sev : Sev) (die : Nat) (code : Nat) (grove : Option Nat) (detail : Nat) (hk0 : BoundAs s0 s) :
    BoundAs s0 (State.record s src sev die code grove detail) := by
  unfold State.record
  repeat' first
    | with_reducible assumption | (intro x; have hx : BoundAs s0 x := ?hk; clear_value x; case' hk => subst x)
    | (intro x; subst x) | intro _ | with_reducible apply BoundAs.ite | with_reducible apply State.logRec_bound
    | with_reducible apply State.corrected_bound | with_reducible apply State.heatOn_bound | lift_lets -underBinder
    | dsimp -zeta only | split

theorem State.bump_bound {s0 s : State} (r : Reg) (ix : List Nat) (n : Nat) (hk0 : BoundAs s0 s) :
    BoundAs s0 (State.bump s r ix n) := by
  unfold State.bump
  repeat' first
    | with_reducible assumption | (intro x; have hx : BoundAs s0 x := ?hk; clear_value x; case' hk => subst x)
    | (intro x; subst x) | intro _ | with_reducible apply BoundAs.ite | with_reducible apply State.putReg_bound
    | with_reducible apply State.record_bound | with_reducible apply State.corrected_bound | lift_lets -underBinder
    | dsimp -zeta only | split

theorem State.interrupt_bound {s0 s : State} (core : Nat) (hk0 : BoundAs s0 s) :
    BoundAs s0 (State.interrupt s core) := by
  unfold State.interrupt
  repeat' first
    | with_reducible assumption | (rewrite [State.mk_eq_ofB]; with_reducible refine BoundAs.put ?_) | dsimp -zeta only
    | split

theorem State.staleRecord_bound {s0 s : State} (src : Src) (die : Nat) (grove : Nat) (gen : Nat) (unbound : Bool) (hk0 : BoundAs s0 s) :
    BoundAs s0 (State.staleRecord s src die grove gen unbound) := by
  unfold State.staleRecord
  repeat' first
    | with_reducible assumption | with_reducible apply State.record_bound | split

theorem State.modChannel_bound {s0 s : State} (c : Nat) (f : Channel → Channel) (hk0 : BoundAs s0 s) :
    BoundAs s0 (State.modChannel s c f) := by
  unfold State.modChannel
  repeat' first
    | with_reducible assumption | (rewrite [State.mk_eq_ofB]; with_reducible refine BoundAs.put ?_) | dsimp -zeta only
    | split

theorem State.putLine_bound {s0 s : State} (c : Nat) (line : Nat) (bs : List Byte) (hk0 : BoundAs s0 s) :
    BoundAs s0 (State.putLine s c line bs) := by
  unfold State.putLine
  repeat' first
    | with_reducible assumption | intro _ | (rewrite [State.mk_eq_ofB]; with_reducible refine BoundAs.put ?_)
    | with_reducible apply BoundAs.foldl | dsimp -zeta only | split

theorem State.unsaturate_bound {s0 s : State} (p : Nat → Bool) (hk0 : BoundAs s0 s) :
    BoundAs s0 (State.unsaturate s p) := by
  unfold State.unsaturate
  repeat' first
    | with_reducible assumption | intro _ | (rewrite [State.mk_eq_ofB]; with_reducible refine BoundAs.put ?_)
    | dsimp -zeta only | split

theorem State.noteUe_bound {s0 s : State} (c : Nat) (line : Nat) (hk0 : BoundAs s0 s) :
    BoundAs s0 (State.noteUe s c line) := by
  unfold State.noteUe
  repeat' first
    | with_reducible assumption | (intro x; have hx : BoundAs s0 x := ?hk; clear_value x; case' hk => subst x)
    | (intro x; subst x) | intro _ | with_reducible apply State.bump_bound | with_reducible apply State.putReg_bound
    | lift_lets -underBinder | dsimp -zeta only | split

theorem State.ueRecord_bound {s0 s : State} (sev : Sev) (c : Nat) (line : Nat) (hk0 : BoundAs s0 s) :
    BoundAs s0 (State.ueRecord s sev c line) := by
  unfold State.ueRecord
  repeat' first
    | with_reducible assumption | with_reducible apply State.record_bound | with_reducible apply State.heatOn_bound
    | split

theorem State.evictWcb_bound {s0 s : State} (c : Nat) (e : WcbEntry) (hk0 : BoundAs s0 s) :
    BoundAs s0 (State.evictWcb s c e) := by
  unfold State.evictWcb
  repeat' first
    | with_reducible assumption | (intro x; have hx : BoundAs s0 x := ?hk; clear_value x; case' hk => subst x)
    | (intro x; subst x) | intro _ | with_reducible apply BoundAs.ite | with_reducible apply State.modChannel_bound
    | with_reducible apply State.noteUe_bound | with_reducible apply State.ueRecord_bound
    | with_reducible apply State.putLine_bound | with_reducible apply State.bump_bound
    | (rewrite [State.mk_eq_ofB]; with_reducible refine BoundAs.put ?_) | lift_lets -underBinder | dsimp -zeta only
    | split

theorem State.flushAdder_bound {s0 s : State} (c : Nat) (a : Nat × List Byte) (hk0 : BoundAs s0 s) :
    BoundAs s0 (State.flushAdder s c a) := by
  unfold State.flushAdder
  repeat' first
    | with_reducible assumption | intro _ | with_reducible apply State.modChannel_bound
    | with_reducible apply State.putLine_bound | (rewrite [State.mk_eq_ofB]; with_reducible refine BoundAs.put ?_)
    | dsimp -zeta only | split

theorem State.settleAdder_bound {s0 s : State} (c : Nat) (line : Nat) (hk0 : BoundAs s0 s) :
    BoundAs s0 (State.settleAdder s c line) := by
  unfold State.settleAdder
  repeat' first
    | with_reducible assumption | with_reducible apply State.flushAdder_bound | split

theorem State.writeLine_bound {s0 s : State} (c : Nat) (line : Nat) (pos : Nat) (bs : List Byte) (grove : Nat) (hk0 : BoundAs s0 s) :
    BoundAsP s0 (State.writeLine s c line pos bs grove) := by
  unfold State.writeLine
  repeat' first
    | with_reducible assumption | (intro x; have hx : BoundAs s0 x := ?hk; clear_value x; case' hk => subst x)
    | (intro x; subst x) | intro _ | with_reducible apply BoundAs.ite | with_reducible apply BoundAsP.ite
    | (rewrite [pairP_eq]; with_reducible refine BoundAsP.mk ?_) | with_reducible apply State.unsaturate_bound
    | with_reducible apply State.modChannel_bound | with_reducible apply State.putLine_bound
    | with_reducible apply State.settleAdder_bound | with_reducible apply State.noteUe_bound
    | with_reducible apply State.evictWcb_bound | (rewrite [State.mk_eq_ofB]; with_reducible refine BoundAs.put ?_)
    | with_reducible apply BoundAs.foldl | with_reducible apply BoundAsP.foldl
    | with_reducible refine BoundAs.of_fst (by assumption) ?_ | with_reducible apply BoundAsP.fst | lift_lets -underBinder
    | dsimp -zeta only | split

theorem State.unmappedRecord_bound {s0 s : State} (p : Party) (o : Nat) (hk0 : BoundAs s0 s) :
    BoundAs s0 (State.unmappedRecord s p o) := by
  unfold State.unmappedRecord
  repeat' first
    | with_reducible assumption | (intro x; have hx : BoundAs s0 x := ?hk; clear_value x; case' hk => subst x)
    | (intro x; subst x) | intro _ | with_reducible apply BoundAs.ite | with_reducible apply State.record_bound
    | lift_lets -underBinder | dsimp -zeta only | split

theorem State.readLocal_bound {s0 s : State} (p : Party) (o : Nat) (n : Nat) (hk0 : BoundAs s0 s) :
    BoundAsP s0 (State.readLocal s p o n) := by
  unfold State.readLocal
  repeat' first
    | with_reducible assumption | (rewrite [pairP_eq]; with_reducible refine BoundAsP.mk ?_)
    | with_reducible apply State.noteUe_bound | with_reducible apply State.ueRecord_bound
    | with_reducible apply State.unmappedRecord_bound | with_reducible refine BoundAs.of_fst (by assumption) ?_
    | with_reducible apply BoundAsP.fst | split

theorem State.putPage_bound {s0 s : State} (g : Nat) (o : Nat) (bs : List Byte) (hk0 : BoundAs s0 s) :
    BoundAs s0 (State.putPage s g o bs) := by
  unfold State.putPage
  repeat' first
    | with_reducible assumption | intro _ | (rewrite [pairP_eq]; with_reducible refine BoundAsP.mk ?_)
    | with_reducible apply State.each_bound | with_reducible apply State.writeLine_bound
    | with_reducible refine BoundAs.of_fst (by assumption) ?_ | with_reducible apply BoundAsP.fst | dsimp -zeta only | split

theorem State.touchWait_bound {s0 s : State} (g : Nat) (hk0 : BoundAs s0 s) :
    BoundAs s0 (State.touchWait s g) := by
  unfold State.touchWait
  repeat' first
    | with_reducible assumption | (intro x; have hx : BoundAs s0 x := ?hk; clear_value x; case' hk => subst x)
    | (intro x; subst x) | intro _ | with_reducible apply BoundAs.ite | with_reducible apply State.putReg_bound
    | with_reducible apply State.record_bound | with_reducible apply State.corrected_bound
    | (rewrite [State.mk_eq_ofB]; with_reducible refine BoundAs.put ?_) | lift_lets -underBinder | dsimp -zeta only
    | split

theorem State.touchPage_bound {s0 s : State} (page : Nat) (hk0 : BoundAs s0 s) :
    BoundAs s0 (State.touchPage s page) := by
  unfold State.touchPage
  repeat' first
    | with_reducible assumption | (intro x; have hx : BoundAs s0 x := ?hk; clear_value x; case' hk => subst x)
    | (intro x; subst x) | intro _ | with_reducible apply BoundAs.ite | with_reducible apply State.touchWait_bound
    | with_reducible apply State.bump_bound | with_reducible apply State.putPage_bound
    | (rewrite [State.mk_eq_ofB]; with_reducible refine BoundAs.put ?_) | lift_lets -underBinder | dsimp -zeta only
    | split

theorem State.touch_bound {s0 s : State} (o : Nat) (hk0 : BoundAs s0 s) :
    BoundAs s0 (State.touch s o) := by
  unfold State.touch
  repeat' first
    | with_reducible assumption | with_reducible apply BoundAs.ite | with_reducible apply State.touchPage_bound | split

theorem State.writeFails_bound {s0 s : State} (p : Party) (o : Nat) (x1 : Acc × Nat × Nat) (hk0 : BoundAs s0 s) :
    BoundAsP s0 (State.writeFails s p o x1) := by
  unfold State.writeFails
  repeat' first
    | with_reducible assumption | (rewrite [pairP_eq]; with_reducible refine BoundAsP.mk ?_)
    | with_reducible apply State.noteUe_bound | with_reducible apply State.ueRecord_bound
    | with_reducible apply State.unmappedRecord_bound | with_reducible refine BoundAs.of_fst (by assumption) ?_
    | with_reducible apply BoundAsP.fst | split

theorem State.writeLocal_bound {s0 s : State} (p : Party) (o : Nat) (bs : List Byte) (hk0 : BoundAs s0 s) :
    BoundAsP s0 (State.writeLocal s p o bs) := by
  unfold State.writeLocal
  repeat' first
    | with_reducible assumption | (intro x; have hx : BoundAs s0 x := ?hk; clear_value x; case' hk => subst x)
    | (intro x; subst x) | intro _ | (rewrite [pairP_eq]; with_reducible refine BoundAsP.mk ?_)
    | (rewrite [pairQ_eq]; with_reducible refine BoundAsQ.mk ?_) | with_reducible apply State.touch_bound
    | with_reducible apply State.writeLine_bound | with_reducible apply State.writeFails_bound
    | with_reducible apply BoundAs.foldl | with_reducible apply BoundAsP.foldl
    | with_reducible refine BoundAs.of_fst (by assumption) ?_ | with_reducible apply BoundAsP.fst
    | with_reducible refine BoundAs.of_snd (by assumption) ?_ | with_reducible apply BoundAsQ.snd | lift_lets -underBinder
    | dsimp -zeta only | split

theorem State.readVa_bound {s0 s : State} (g : Nat) (va : Nat) (n : Nat) (hk0 : BoundAs s0 s) :
    BoundAsP s0 (State.readVa s g va n) := by
  unfold State.readVa
  repeat' first
    | with_reducible assumption | (intro x; have hx : BoundAs s0 x := ?hk; clear_value x; case' hk => subst x)
    | (intro x; subst x) | intro _ | with_reducible apply BoundAs.ite | with_reducible apply BoundAsP.ite
    | (rewrite [pairP_eq]; with_reducible refine BoundAsP.mk ?_) | with_reducible apply State.readLocal_bound
    | with_reducible apply BoundAs.foldl | with_reducible apply BoundAsP.foldl
    | with_reducible refine BoundAs.of_fst (by assumption) ?_ | with_reducible apply BoundAsP.fst | lift_lets -underBinder
    | dsimp -zeta only | split

theorem State.freshPages_bound {s0 s : State} (g : Nat) (hk0 : BoundAs s0 s) :
    BoundAs s0 (State.freshPages s g) := by
  unfold State.freshPages
  repeat' first
    | with_reducible assumption | (intro x; have hx : BoundAs s0 x := ?hk; clear_value x; case' hk => subst x)
    | (intro x; subst x) | intro _ | (rewrite [pairQ_eq]; with_reducible refine BoundAsQ.mk ?_)
    | with_reducible apply State.fresh_bound | (rewrite [State.mk_eq_ofB]; with_reducible refine BoundAs.put ?_)
    | with_reducible refine BoundAs.of_snd (by assumption) ?_ | with_reducible apply BoundAsQ.snd | lift_lets -underBinder
    | dsimp -zeta only | split

theorem State.modPort_bound {s0 s : State} (p : Nat) (f : Port → Port) (hk0 : BoundAs s0 s) :
    BoundAs s0 (State.modPort s p f) := by
  unfold State.modPort
  repeat' first
    | with_reducible assumption | (rewrite [State.mk_eq_ofB]; with_reducible refine BoundAs.put ?_) | dsimp -zeta only
    | split

theorem State.bumpPort_bound {s0 s : State} (p : Nat) (t : Reg) (b : Reg) (n : Nat) (hk0 : BoundAs s0 s) :
    BoundAs s0 (State.bumpPort s p t b n) := by
  unfold State.bumpPort
  repeat' first
    | with_reducible assumption | with_reducible apply BoundAs.ite | with_reducible apply State.bump_bound | split

theorem State.lnkRecord_bound {s0 s : State} (sev : Sev) (code : Nat) (p : Nat) (lane : Nat) (device : Nat) (grove : Option Nat) (hk0 : BoundAs s0 s) :
    BoundAs s0 (State.lnkRecord s sev code p lane device grove) := by
  unfold State.lnkRecord
  repeat' first
    | with_reducible assumption | (intro x; have hx : BoundAs s0 x := ?hk; clear_value x; case' hk => subst x)
    | (intro x; subst x) | intro _ | with_reducible apply State.putReg_bound | with_reducible apply State.record_bound
    | lift_lets -underBinder | dsimp -zeta only | split

theorem State.transmit_bound {s0 s : State} (p : Nat) (f : LFlit) (hk0 : BoundAs s0 s) :
    BoundAs s0 (State.transmit s p f) := by
  unfold State.transmit
  repeat' first
    | with_reducible assumption | (intro x; have hx : BoundAs s0 x := ?hk; clear_value x; case' hk => subst x)
    | (intro x; subst x) | intro _ | with_reducible apply BoundAs.ite | with_reducible apply State.modPort_bound
    | with_reducible apply State.bumpPort_bound | with_reducible apply State.emit_bound
    | (rewrite [State.mk_eq_ofB]; with_reducible refine BoundAs.put ?_) | lift_lets -underBinder | dsimp -zeta only
    | split

theorem State.pump_bound {s0 s : State} (p : Nat) (hk0 : BoundAs s0 s) :
    BoundAs s0 (State.pump s p) := by
  unfold State.pump
  repeat' first
    | with_reducible assumption | (intro x; have hx : BoundAs s0 x := ?hk; clear_value x; case' hk => subst x)
    | (intro x; subst x) | intro _ | with_reducible apply BoundAs.ite | with_reducible apply BoundAsP.ite
    | (rewrite [pairP_eq]; with_reducible refine BoundAsP.mk ?_)
    | (rewrite [pairQ_eq]; with_reducible refine BoundAsQ.mk ?_) | with_reducible apply BoundAsQ.ite
    | with_reducible apply State.modPort_bound | with_reducible apply State.transmit_bound
    | (rewrite [State.mk_eq_ofB]; with_reducible refine BoundAs.put ?_) | with_reducible apply BoundAs.foldl
    | with_reducible apply BoundAsP.foldl | with_reducible refine BoundAs.of_fst (by assumption) ?_
    | with_reducible apply BoundAsP.fst | with_reducible refine BoundAs.of_snd (by assumption) ?_
    | with_reducible apply BoundAsQ.snd | lift_lets -underBinder | dsimp -zeta only | split

theorem State.enqueue_bound {s0 s : State} (p : Nat) (f : LFlit) (hk0 : BoundAs s0 s) :
    BoundAs s0 (State.enqueue s p f) := by
  unfold State.enqueue
  repeat' first
    | with_reducible assumption | intro _ | with_reducible apply State.modPort_bound
    | with_reducible apply State.pump_bound | (rewrite [State.mk_eq_ofB]; with_reducible refine BoundAs.put ?_)
    | dsimp -zeta only | split

theorem State.dropUnreachable_bound {s0 s : State} (p : Nat) (dest : Nat) (hk0 : BoundAs s0 s) :
    BoundAs s0 (State.dropUnreachable s p dest) := by
  unfold State.dropUnreachable
  repeat' first
    | with_reducible assumption | with_reducible apply State.bumpPort_bound | with_reducible apply State.lnkRecord_bound
    | split

theorem State.sendDir_bound {s0 s : State} (d : Nat) (f : LFlit) (hk0 : BoundAs s0 s) :
    BoundAs s0 (State.sendDir s d f) := by
  unfold State.sendDir
  repeat' first
    | with_reducible assumption | (intro x; have hx : BoundAs s0 x := ?hk; clear_value x; case' hk => subst x)
    | (intro x; subst x) | intro _ | with_reducible apply BoundAs.ite | with_reducible apply State.enqueue_bound
    | with_reducible apply State.dropUnreachable_bound | (rewrite [State.mk_eq_ofB]; with_reducible refine BoundAs.put ?_)
    | lift_lets -underBinder | dsimp -zeta only | split

theorem State.sendTrunk_bound {s0 s : State} (f : LFlit) (arr : Nat) (at_ : Nat) (hk0 : BoundAs s0 s) :
    BoundAs s0 (State.sendTrunk s f arr at_) := by
  unfold State.sendTrunk
  repeat' first
    | with_reducible assumption | with_reducible apply BoundAs.ite | with_reducible apply State.dropUnreachable_bound
    | with_reducible apply State.bumpPort_bound | with_reducible apply State.sendDir_bound | split

theorem State.sendBranch_bound {s0 s : State} (f : LFlit) (hk0 : BoundAs s0 s) :
    BoundAs s0 (State.sendBranch s f) := by
  unfold State.sendBranch
  repeat' first
    | with_reducible assumption | (intro x; have hx : BoundAs s0 x := ?hk; clear_value x; case' hk => subst x)
    | (intro x; subst x) | intro _ | with_reducible apply State.dropUnreachable_bound
    | with_reducible apply State.enqueue_bound | (rewrite [State.mk_eq_ofB]; with_reducible refine BoundAs.put ?_)
    | lift_lets -underBinder | dsimp -zeta only | split

theorem State.modBudget_bound {s0 s : State} (d : Nat) (g : Nat) (a : Nat) (f : Budget → Budget) (hk0 : BoundAs s0 s) :
    BoundAs s0 (State.modBudget s d g a f) := by
  unfold State.modBudget
  repeat' first
    | with_reducible assumption | (rewrite [State.mk_eq_ofB]; with_reducible refine BoundAs.put ?_) | dsimp -zeta only
    | split

theorem State.spend_bound {s0 s : State} (d : Nat) (g : Nat) (a : Nat) (n : Nat) (again : Bool) (hk0 : BoundAs s0 s) :
    BoundAsP s0 (State.spend s d g a n again) := by
  unfold State.spend
  repeat' first
    | with_reducible assumption | (intro x; have hx : BoundAs s0 x := ?hk; clear_value x; case' hk => subst x)
    | (intro x; subst x) | intro _ | with_reducible apply BoundAs.ite | with_reducible apply BoundAsP.ite
    | (rewrite [pairP_eq]; with_reducible refine BoundAsP.mk ?_) | with_reducible apply State.modBudget_bound
    | with_reducible apply State.bump_bound | (rewrite [State.mk_eq_ofB]; with_reducible refine BoundAs.put ?_)
    | with_reducible refine BoundAs.of_fst (by assumption) ?_ | with_reducible apply BoundAsP.fst | lift_lets -underBinder
    | dsimp -zeta only | split

theorem State.sendNow_bound {s0 s : State} (m : HeldMsg) (hk0 : BoundAs s0 s) :
    BoundAs s0 (State.sendNow s m) := by
  unfold State.sendNow
  repeat' first
    | with_reducible assumption | intro _ | with_reducible apply BoundAs.ite | with_reducible apply State.emit_bound
    | with_reducible apply State.each_bound | with_reducible apply State.sendTrunk_bound
    | with_reducible apply State.sendBranch_bound | dsimp -zeta only | split

theorem State.sendMsg_bound {s0 s : State} (die : Nat) (trunk : Bool) (dest : Nat) (opcode : Nat) (grove : Nat) (payload : List Byte) (address : Nat) (hk0 : BoundAs s0 s) :
    BoundAs s0 (State.sendMsg s die trunk dest opcode grove payload address) := by
  unfold State.sendMsg
  repeat' first
    | with_reducible assumption | (intro x; have hx : BoundAs s0 x := ?hk; clear_value x; case' hk => subst x)
    | (intro x; subst x) | intro _ | with_reducible apply BoundAs.ite | with_reducible apply BoundAsP.ite
    | (rewrite [pairP_eq]; with_reducible refine BoundAsP.mk ?_) | with_reducible apply State.sendNow_bound
    | with_reducible apply State.spend_bound | (rewrite [State.mk_eq_ofB]; with_reducible refine BoundAs.put ?_)
    | with_reducible refine BoundAs.of_fst (by assumption) ?_ | with_reducible apply BoundAsP.fst | lift_lets -underBinder
    | dsimp -zeta only | split

theorem State.dropStale_bound {s0 s : State} (die : Nat) (o : Origin) (trunk : Bool) (hk0 : BoundAs s0 s) :
    BoundAs s0 (State.dropStale s die o trunk) := by
  unfold State.dropStale
  repeat' first
    | with_reducible assumption | (intro x; have hx : BoundAs s0 x := ?hk; clear_value x; case' hk => subst x)
    | (intro x; subst x) | intro _ | with_reducible apply BoundAs.ite | with_reducible apply State.bump_bound
    | with_reducible apply State.putReg_bound | with_reducible apply State.sendNow_bound
    | (rewrite [State.mk_eq_ofB]; with_reducible refine BoundAs.put ?_) | lift_lets -underBinder | dsimp -zeta only
    | split

theorem State.returnCredit_bound {s0 s : State} (p : Nat) (f : LFlit) (hk0 : BoundAs s0 s) :
    BoundAs s0 (State.returnCredit s p f) := by
  unfold State.returnCredit
  repeat' first
    | with_reducible assumption | intro _ | with_reducible apply State.modPort_bound
    | (rewrite [State.mk_eq_ofB]; with_reducible refine BoundAs.put ?_) | dsimp -zeta only | split

theorem State.forward_bound {s0 s : State} (p : Nat) (dir : Nat) (f : LFlit) (hk0 : BoundAs s0 s) :
    BoundAs s0 (State.forward s p dir f) := by
  unfold State.forward
  repeat' first
    | with_reducible assumption | (intro x; have hx : BoundAs s0 x := ?hk; clear_value x; case' hk => subst x)
    | (intro x; subst x) | intro _ | with_reducible apply BoundAs.ite | with_reducible apply State.returnCredit_bound
    | with_reducible apply State.bumpPort_bound | with_reducible apply State.lnkRecord_bound
    | with_reducible apply State.sendTrunk_bound | (rewrite [State.mk_eq_ofB]; with_reducible refine BoundAs.put ?_)
    | lift_lets -underBinder | dsimp -zeta only | split

theorem State.modQueue_bound {s0 s : State} (q : Nat) (f : Queue → Queue) (hk0 : BoundAs s0 s) :
    BoundAs s0 (State.modQueue s q f) := by
  unfold State.modQueue
  repeat' first
    | with_reducible assumption | (rewrite [State.mk_eq_ofB]; with_reducible refine BoundAs.put ?_) | dsimp -zeta only
    | split

theorem State.complete_bound {s0 s : State} (q : Nat) (i : Nat) (st : Status) (result : Nat) (hk0 : BoundAs s0 s) :
    BoundAs s0 (State.complete s q i st result) := by
  unfold State.complete
  repeat' first
    | with_reducible assumption | (intro x; have hx : BoundAs s0 x := ?hk; clear_value x; case' hk => subst x)
    | (intro x; subst x) | intro _ | with_reducible apply BoundAs.ite | with_reducible apply BoundAsP.ite
    | (rewrite [pairP_eq]; with_reducible refine BoundAsP.mk ?_) | with_reducible apply State.writeLocal_bound
    | with_reducible apply State.modQueue_bound | with_reducible apply State.interrupt_bound
    | (rewrite [State.mk_eq_ofB]; with_reducible refine BoundAs.put ?_)
    | with_reducible refine BoundAs.of_fst (by assumption) ?_ | with_reducible apply BoundAsP.fst | lift_lets -underBinder
    | dsimp -zeta only | split

theorem State.staleCommand_bound {s0 s : State} (q : Nat) (i : Nat) (g : Nat) (hk0 : BoundAs s0 s) :
    BoundAs s0 (State.staleCommand s q i g) := by
  unfold State.staleCommand
  repeat' first
    | with_reducible assumption | (intro x; have hx : BoundAs s0 x := ?hk; clear_value x; case' hk => subst x)
    | (intro x; subst x) | intro _ | with_reducible apply State.staleRecord_bound
    | with_reducible apply State.complete_bound | lift_lets -underBinder | dsimp -zeta only | split

theorem State.modKnot_bound {s0 s : State} (k : Nat) (f : Knot → Knot) (hk0 : BoundAs s0 s) :
    BoundAs s0 (State.modKnot s k f) := by
  unfold State.modKnot
  repeat' first
    | with_reducible assumption | (rewrite [State.mk_eq_ofB]; with_reducible refine BoundAs.put ?_) | dsimp -zeta only
    | split

theorem State.knotOverflow_bound {s0 s : State} (k : Nat) (tile : Nat) (hk0 : BoundAs s0 s) :
    BoundAs s0 (State.knotOverflow s k tile) := by
  unfold State.knotOverflow
  repeat' first
    | with_reducible assumption | with_reducible apply State.bump_bound | with_reducible apply State.record_bound
    | split

theorem State.knotType_bound {s0 s : State} (k : Nat) (tile : Nat) (hk0 : BoundAs s0 s) :
    BoundAs s0 (State.knotType s k tile) := by
  unfold State.knotType
  repeat' first
    | with_reducible assumption | with_reducible apply State.record_bound | split

theorem State.modSlot_bound {s0 s : State} (key : Nat) (f : Slot → Slot) (hk0 : BoundAs s0 s) :
    BoundAs s0 (State.modSlot s key f) := by
  unfold State.modSlot
  repeat' first
    | with_reducible assumption | intro _ | with_reducible apply BoundAs.ite
    | (rewrite [State.mk_eq_ofB]; with_reducible refine BoundAs.put ?_) | dsimp -zeta only | split

theorem State.withdraw_bound {s0 s : State} (p : Nat → Bool) (hk0 : BoundAs s0 s) :
    BoundAs s0 (State.withdraw s p) := by
  unfold State.withdraw
  repeat' first
    | with_reducible assumption | intro _ | (rewrite [State.mk_eq_ofB]; with_reducible refine BoundAs.put ?_)
    | dsimp -zeta only | split

theorem State.endTask_bound {s0 s : State} (key : Nat) (hk0 : BoundAs s0 s) :
    BoundAs s0 (State.endTask s key) := by
  unfold State.endTask
  repeat' first
    | with_reducible assumption | (intro x; have hx : BoundAs s0 x := ?hk; clear_value x; case' hk => subst x)
    | (intro x; subst x) | intro _ | with_reducible apply State.modSlot_bound
    | with_reducible apply State.withdraw_bound | with_reducible apply State.putReg_bound
    | (rewrite [State.mk_eq_ofB]; with_reducible refine BoundAs.put ?_) | lift_lets -underBinder | dsimp -zeta only
    | split

theorem State.request_bound {s0 s : State} (key : Nat) (x : Slot) (hk0 : BoundAs s0 s) :
    BoundAs s0 (State.request s key x) := by
  unfold State.request
  repeat' first
    | with_reducible assumption | (intro x; have hx : BoundAs s0 x := ?hk; clear_value x; case' hk => subst x)
    | (intro x; subst x) | intro _ | with_reducible apply BoundAs.ite | with_reducible apply State.modKnot_bound
    | (rewrite [State.mk_eq_ofB]; with_reducible refine BoundAs.put ?_) | lift_lets -underBinder | dsimp -zeta only
    | split

theorem State.grant_bound {s0 s : State} (k : Nat) (x1 : Nat) (hk0 : BoundAs s0 s) :
    BoundAs s0 (State.grant s k x1) := by
  induction x1 generalizing s k with
  | zero =>
    rewrite [State.grant]
    repeat' first
      | with_reducible assumption | (intro x; have hx : BoundAs s0 x := ?hk; clear_value x; case' hk => subst x)
      | (intro x; subst x) | intro _ | with_reducible apply BoundAs.ite | with_reducible apply State.modKnot_bound
      | with_reducible apply State.modSlot_bound | (rewrite [State.mk_eq_ofB]; with_reducible refine BoundAs.put ?_)
      | lift_lets -underBinder | dsimp -zeta only | split
  | succ n ih =>
    rewrite [State.grant]
    repeat' first
      | with_reducible assumption | (intro x; have hx : BoundAs s0 x := ?hk; clear_value x; case' hk => subst x)
      | (intro x; subst x) | intro _ | with_reducible apply BoundAs.ite | with_reducible apply ih
      | with_reducible apply State.modKnot_bound | with_reducible apply State.modSlot_bound
      | (rewrite [State.mk_eq_ofB]; with_reducible refine BoundAs.put ?_) | lift_lets -underBinder | dsimp -zeta only
      | split

theorem State.readDesc_bound {s0 s : State} (t : Task) (hk0 : BoundAs s0 s) :
    BoundAsP s0 (State.readDesc s t) := by
  unfold State.readDesc
  repeat' first
    | with_reducible assumption | (intro x; have hx : BoundAs s0 x := ?hk; clear_value x; case' hk => subst x)
    | (intro x; subst x) | intro _ | with_reducible apply BoundAs.ite | with_reducible apply BoundAsP.ite
    | (rewrite [pairP_eq]; with_reducible refine BoundAsP.mk ?_) | with_reducible apply State.readVa_bound
    | with_reducible refine BoundAs.of_fst (by assumption) ?_ | with_reducible apply BoundAsP.fst | lift_lets -underBinder
    | dsimp -zeta only | split

theorem State.tilRecord_bound {s0 s : State} (tile : Nat) (slot : Nat) (code : Nat) (grove : Nat) (detail : Nat) (hk0 : BoundAs s0 s) :
    BoundAs s0 (State.tilRecord s tile slot code grove detail) := by
  unfold State.tilRecord
  repeat' first
    | with_reducible assumption | (intro x; have hx : BoundAs s0 x := ?hk; clear_value x; case' hk => subst x)
    | (intro x; subst x) | intro _ | with_reducible apply BoundAs.ite | with_reducible apply State.putReg_bound
    | with_reducible apply State.record_bound | with_reducible apply State.heatOn_bound | lift_lets -underBinder
    | dsimp -zeta only | split

theorem State.makeReady_bound {s0 s : State} (key : Nat) (x : Slot) (hk0 : BoundAs s0 s) :
    BoundAs s0 (State.makeReady s key x) := by
  unfold State.makeReady
  repeat' first
    | with_reducible assumption | (intro x; have hx : BoundAs s0 x := ?hk; clear_value x; case' hk => subst x)
    | (intro x; subst x) | intro _ | with_reducible apply BoundAs.ite | with_reducible apply BoundAsP.ite
    | (rewrite [pairP_eq]; with_reducible refine BoundAsP.mk ?_) | with_reducible apply State.withdraw_bound
    | with_reducible apply State.modSlot_bound | with_reducible apply State.readDesc_bound
    | with_reducible apply State.tilRecord_bound | with_reducible apply State.endTask_bound
    | with_reducible apply State.staleRecord_bound | (rewrite [State.mk_eq_ofB]; with_reducible refine BoundAs.put ?_)
    | with_reducible refine BoundAs.of_fst (by assumption) ?_ | with_reducible apply BoundAsP.fst | lift_lets -underBinder
    | dsimp -zeta only | split

theorem State.judgeTypes_bound {s0 s : State} (key : Nat) (x : Slot) (hk0 : BoundAs s0 s) :
    BoundAs s0 (State.judgeTypes s key x) := by
  unfold State.judgeTypes
  repeat' first
    | with_reducible assumption | intro _ | with_reducible apply BoundAs.ite | with_reducible apply State.knotType_bound
    | with_reducible apply State.endTask_bound | dsimp -zeta only | split

theorem State.judge_bound {s0 s : State} (hk0 : BoundAs s0 s) :
    BoundAs s0 (State.judge s) := by
  unfold State.judge
  repeat' first
    | with_reducible assumption | (intro x; have hx : BoundAs s0 x := ?hk; clear_value x; case' hk => subst x)
    | (intro x; subst x) | intro _ | with_reducible apply BoundAs.ite | with_reducible apply State.each_bound
    | with_reducible apply State.judgeTypes_bound | with_reducible apply State.request_bound
    | with_reducible apply State.grant_bound | with_reducible apply State.makeReady_bound
    | (rewrite [State.mk_eq_ofB]; with_reducible refine BoundAs.put ?_) | lift_lets -underBinder | dsimp -zeta only
    | split

theorem State.applySignals_bound {s0 s : State} (key : Nat) (t : Task) (hk0 : BoundAs s0 s) :
    BoundAsP s0 (State.applySignals s key t) := by
  unfold State.applySignals
  repeat' first
    | with_reducible assumption | (intro x; have hx : BoundAs s0 x := ?hk; clear_value x; case' hk => subst x)
    | (intro x; subst x) | intro _ | (rewrite [pairP_eq]; with_reducible refine BoundAsP.mk ?_)
    | with_reducible apply State.knotType_bound | with_reducible apply State.endTask_bound
    | with_reducible apply State.modKnot_bound | with_reducible apply State.knotOverflow_bound
    | (rewrite [State.mk_eq_ofB]; with_reducible refine BoundAs.put ?_) | with_reducible apply BoundAs.foldl
    | with_reducible apply BoundAsP.foldl | with_reducible refine BoundAs.of_fst (by assumption) ?_
    | with_reducible apply BoundAsP.fst | lift_lets -underBinder | dsimp -zeta only | split

theorem State.releaseHeld_bound {s0 s : State} (fk : Nat) (x1 : Nat) (hk0 : BoundAs s0 s) :
    BoundAs s0 (State.releaseHeld s fk x1) := by
  induction x1 generalizing s fk with
  | zero =>
    rewrite [State.releaseHeld]
    repeat' first
      | with_reducible assumption | (intro x; have hx : BoundAs s0 x := ?hk; clear_value x; case' hk => subst x)
      | (intro x; subst x) | intro _ | with_reducible apply BoundAs.ite | with_reducible apply BoundAsP.ite
      | (rewrite [pairP_eq]; with_reducible refine BoundAsP.mk ?_) | with_reducible apply State.applySignals_bound
      | (rewrite [State.mk_eq_ofB]; with_reducible refine BoundAs.put ?_)
      | with_reducible refine BoundAs.of_fst (by assumption) ?_ | with_reducible apply BoundAsP.fst | lift_lets -underBinder
      | dsimp -zeta only | split
  | succ n ih =>
    rewrite [State.releaseHeld]
    repeat' first
      | with_reducible assumption | (intro x; have hx : BoundAs s0 x := ?hk; clear_value x; case' hk => subst x)
      | (intro x; subst x) | intro _ | with_reducible apply BoundAs.ite | with_reducible apply BoundAsP.ite
      | (rewrite [pairP_eq]; with_reducible refine BoundAsP.mk ?_) | with_reducible apply ih
      | with_reducible apply State.applySignals_bound | (rewrite [State.mk_eq_ofB]; with_reducible refine BoundAs.put ?_)
      | with_reducible refine BoundAs.of_fst (by assumption) ?_ | with_reducible apply BoundAsP.fst | lift_lets -underBinder
      | dsimp -zeta only | split

theorem State.release_bound {s0 s : State} (key : Nat) (t : Task) (hk0 : BoundAs s0 s) :
    BoundAs s0 (State.release s key t) := by
  unfold State.release
  repeat' first
    | with_reducible assumption | (intro x; have hx : BoundAs s0 x := ?hk; clear_value x; case' hk => subst x)
    | (intro x; subst x) | intro _ | with_reducible apply BoundAs.ite | with_reducible apply BoundAsP.ite
    | (rewrite [pairP_eq]; with_reducible refine BoundAsP.mk ?_) | with_reducible apply State.applySignals_bound
    | with_reducible apply State.modSlot_bound | with_reducible apply State.releaseHeld_bound
    | (rewrite [State.mk_eq_ofB]; with_reducible refine BoundAs.put ?_)
    | with_reducible refine BoundAs.of_fst (by assumption) ?_ | with_reducible apply BoundAsP.fst | lift_lets -underBinder
    | dsimp -zeta only | split

theorem State.unstall_bound {s0 s : State} (hk0 : BoundAs s0 s) :
    BoundAs s0 (State.unstall s) := by
  unfold State.unstall
  repeat' first
    | with_reducible assumption | intro _ | with_reducible apply State.each_bound
    | with_reducible apply State.release_bound | dsimp -zeta only | split

theorem State.endInject_bound {s0 s : State} (q : Nat) (i : Nat) (hk0 : BoundAs s0 s) :
    BoundAs s0 (State.endInject s q i) := by
  unfold State.endInject
  repeat' first
    | with_reducible assumption | intro _ | with_reducible apply State.modQueue_bound
    | (rewrite [State.mk_eq_ofB]; with_reducible refine BoundAs.put ?_) | dsimp -zeta only | split

theorem State.discardTasks_bound {s0 s : State} (p : Nat → Slot → Bool) (count : Bool) (hk0 : BoundAs s0 s) :
    BoundAs s0 (State.discardTasks s p count) := by
  unfold State.discardTasks
  repeat' first
    | with_reducible assumption | (intro x; have hx : BoundAs s0 x := ?hk; clear_value x; case' hk => subst x)
    | (intro x; subst x) | intro _ | with_reducible apply BoundAs.ite | with_reducible apply State.withdraw_bound
    | with_reducible apply State.each_bound | with_reducible apply State.bump_bound
    | (rewrite [State.mk_eq_ofB]; with_reducible refine BoundAs.put ?_) | lift_lets -underBinder | dsimp -zeta only
    | split

theorem State.discardGrove_bound {s0 s : State} (g : Nat) (hk0 : BoundAs s0 s) :
    BoundAs s0 (State.discardGrove s g) := by
  unfold State.discardGrove
  repeat' first
    | with_reducible assumption | intro _ | with_reducible apply State.discardTasks_bound
    | with_reducible apply State.withdraw_bound | dsimp -zeta only | split

theorem State.zeroFlows_bound {s0 s : State} (g : Nat) (hk0 : BoundAs s0 s) :
    BoundAs s0 (State.zeroFlows s g) := by
  unfold State.zeroFlows
  repeat' first
    | with_reducible assumption | intro _ | (rewrite [State.mk_eq_ofB]; with_reducible refine BoundAs.put ?_)
    | dsimp -zeta only | split

theorem State.discardTile_bound {s0 s : State} (tile : Nat) (hk0 : BoundAs s0 s) :
    BoundAs s0 (State.discardTile s tile) := by
  unfold State.discardTile
  repeat' first
    | with_reducible assumption | intro _ | with_reducible apply State.discardTasks_bound | dsimp -zeta only | split

theorem State.clearKnots_bound {s0 s : State} (p : Nat → Bool) (hk0 : BoundAs s0 s) :
    BoundAs s0 (State.clearKnots s p) := by
  unfold State.clearKnots
  repeat' first
    | with_reducible assumption | intro _ | (rewrite [State.mk_eq_ofB]; with_reducible refine BoundAs.put ?_)
    | dsimp -zeta only | split

theorem State.clearHists_bound {s0 s : State} (g : Nat) (hk0 : BoundAs s0 s) :
    BoundAs s0 (State.clearHists s g) := by
  unfold State.clearHists
  repeat' first
    | with_reducible assumption | intro _ | (rewrite [State.mk_eq_ofB]; with_reducible refine BoundAs.put ?_)
    | dsimp -zeta only | split

theorem State.readList_bound {s0 s : State} (g : Nat) (shard : Nat) (local_ : Nat) (hk0 : BoundAs s0 s) :
    BoundAsP s0 (State.readList s g shard local_) := by
  unfold State.readList
  repeat' first
    | with_reducible assumption | (intro x; have hx : BoundAs s0 x := ?hk; clear_value x; case' hk => subst x)
    | (intro x; subst x) | intro _ | with_reducible apply BoundAs.ite | with_reducible apply BoundAsP.ite
    | (rewrite [pairP_eq]; with_reducible refine BoundAsP.mk ?_) | with_reducible apply State.readLocal_bound
    | (rewrite [State.mk_eq_ofB]; with_reducible refine BoundAs.put ?_)
    | with_reducible refine BoundAs.of_fst (by assumption) ?_ | with_reducible apply BoundAsP.fst | lift_lets -underBinder
    | dsimp -zeta only | split

theorem State.readEdges_bound {s0 s : State} (g : Nat) (l : BarkList) (x1 : List Nat) (hk0 : BoundAs s0 s) :
    BoundAsP s0 (State.readEdges s g l x1) := by
  induction x1 generalizing s g l with
  | nil =>
    rewrite [State.readEdges]
    repeat' first
      | with_reducible assumption | with_reducible apply BoundAs.ite | with_reducible apply BoundAsP.ite
      | (rewrite [pairP_eq]; with_reducible refine BoundAsP.mk ?_) | with_reducible apply State.readLocal_bound
      | with_reducible refine BoundAs.of_fst (by assumption) ?_ | with_reducible apply BoundAsP.fst | split
  | cons y t ih =>
    rewrite [State.readEdges]
    repeat' first
      | with_reducible assumption | with_reducible apply BoundAs.ite | with_reducible apply BoundAsP.ite
      | (rewrite [pairP_eq]; with_reducible refine BoundAsP.mk ?_) | with_reducible apply ih
      | with_reducible apply State.readLocal_bound | with_reducible refine BoundAs.of_fst (by assumption) ?_
      | with_reducible apply BoundAsP.fst | split

theorem State.modProg_bound {s0 s : State} (k : Nat) (f : Prog → Prog) (hk0 : BoundAs s0 s) :
    BoundAs s0 (State.modProg s k f) := by
  unfold State.modProg
  repeat' first
    | with_reducible assumption | (rewrite [State.mk_eq_ofB]; with_reducible refine BoundAs.put ?_) | dsimp -zeta only
    | split

theorem State.smpRecord_bound {s0 s : State} (k : Nat) (code : Nat) (g : Nat) (seed : Nat) (slot : Nat) (hop : Nat) (answer : Nat) (hk0 : BoundAs s0 s) :
    BoundAs s0 (State.smpRecord s k code g seed slot hop answer) := by
  unfold State.smpRecord
  repeat' first
    | with_reducible assumption | (intro x; have hx : BoundAs s0 x := ?hk; clear_value x; case' hk => subst x)
    | (intro x; subst x) | intro _ | with_reducible apply State.putReg_bound | with_reducible apply State.record_bound
    | lift_lets -underBinder | dsimp -zeta only | split

theorem State.dropLanes_bound {s0 s : State} (p : Nat → LaneSeed → Bool) (hk0 : BoundAs s0 s) :
    BoundAs s0 (State.dropLanes s p) := by
  unfold State.dropLanes
  repeat' first
    | with_reducible assumption | intro _ | (rewrite [State.mk_eq_ofB]; with_reducible refine BoundAs.put ?_)
    | dsimp -zeta only | split

theorem State.sendNeg_bound {s0 s : State} (die : Nat) (device : Nat) (g : Nat) (code : Nat) (request : Nat) (hk0 : BoundAs s0 s) :
    BoundAs s0 (State.sendNeg s die device g code request) := by
  unfold State.sendNeg
  repeat' first
    | with_reducible assumption | with_reducible apply State.sendMsg_bound | with_reducible apply State.request_bound
    | split

theorem State.refuseHearth_bound {s0 s : State} (die : Nat) (g : Nat) (device : Nat) (off : Nat) (request : Nat) (hk0 : BoundAs s0 s) :
    BoundAs s0 (State.refuseHearth s die g device off request) := by
  unfold State.refuseHearth
  repeat' first
    | with_reducible assumption | with_reducible apply State.record_bound | with_reducible apply State.sendNeg_bound
    | with_reducible apply State.request_bound | split

theorem State.serveFail_bound {s0 s : State} (die : Nat) (o : Origin) (request : Nat) (opcode : Nat) (x1 : Bark Unit) (hk0 : BoundAs s0 s) :
    BoundAs s0 (State.serveFail s die o request opcode x1) := by
  unfold State.serveFail
  repeat' first
    | with_reducible assumption | with_reducible apply State.sendMsg_bound | with_reducible apply State.request_bound
    | with_reducible apply State.dropStale_bound | with_reducible apply State.sendNeg_bound | split

theorem State.holdServe_bound {s0 s : State} (h : HeldServe) (hk0 : BoundAs s0 s) :
    BoundAs s0 (State.holdServe s h) := by
  unfold State.holdServe
  repeat' first
    | with_reducible assumption | with_reducible apply State.serve_bound
    | (rewrite [State.mk_eq_ofB]; with_reducible refine BoundAs.put ?_) | dsimp -zeta only | split

theorem State.adjRange_bound {s0 s : State} (die : Nat) (o : Origin) (r : AdjRange) (again : Bool) (hk0 : BoundAs s0 s) :
    BoundAs s0 (State.adjRange s die o r again) := by
  unfold State.adjRange
  repeat' first
    | with_reducible assumption | (intro x; have hx : BoundAs s0 x := ?hk; clear_value x; case' hk => subst x)
    | (intro x; subst x) | intro _ | with_reducible apply BoundAs.ite | with_reducible apply BoundAsP.ite
    | (rewrite [pairP_eq]; with_reducible refine BoundAsP.mk ?_) | with_reducible apply State.dropStale_bound
    | with_reducible apply State.refuseHearth_bound | with_reducible apply State.request_bound
    | with_reducible apply State.spend_bound | with_reducible apply State.holdServe_bound
    | with_reducible apply State.readList_bound | with_reducible apply State.serveFail_bound
    | with_reducible apply State.sendMsg_bound | with_reducible refine BoundAs.of_fst (by assumption) ?_
    | with_reducible apply BoundAsP.fst | lift_lets -underBinder | dsimp -zeta only | split

theorem State.adjPick_bound {s0 s : State} (die : Nat) (o : Origin) (r : AdjPick) (again : Bool) (hk0 : BoundAs s0 s) :
    BoundAs s0 (State.adjPick s die o r again) := by
  unfold State.adjPick
  repeat' first
    | with_reducible assumption | (intro x; have hx : BoundAs s0 x := ?hk; clear_value x; case' hk => subst x)
    | (intro x; subst x) | intro _ | with_reducible apply BoundAs.ite | with_reducible apply BoundAsP.ite
    | (rewrite [pairP_eq]; with_reducible refine BoundAsP.mk ?_) | with_reducible apply State.dropStale_bound
    | with_reducible apply State.refuseHearth_bound | with_reducible apply State.request_bound
    | with_reducible apply State.spend_bound | with_reducible apply State.holdServe_bound
    | with_reducible apply State.readList_bound | with_reducible apply State.serveFail_bound
    | with_reducible apply State.readEdges_bound | with_reducible apply State.sendMsg_bound
    | with_reducible refine BoundAs.of_fst (by assumption) ?_ | with_reducible apply BoundAsP.fst | lift_lets -underBinder
    | dsimp -zeta only | split

theorem State.regroveSampler_bound {s0 s : State} (p : Nat → Bool) (unbound : Nat → Bool) (hk0 : BoundAs s0 s) :
    BoundAs s0 (State.regroveSampler s p unbound) := by
  unfold State.regroveSampler
  repeat' first
    | with_reducible assumption | (intro x; have hx : BoundAs s0 x := ?hk; clear_value x; case' hk => subst x)
    | (intro x; subst x) | intro _ | with_reducible apply BoundAs.ite | with_reducible apply State.each_bound
    | with_reducible apply State.modProg_bound | with_reducible apply State.dropLanes_bound
    | with_reducible apply State.smpRecord_bound | (rewrite [State.mk_eq_ofB]; with_reducible refine BoundAs.put ?_)
    | lift_lets -underBinder | dsimp -zeta only | split

theorem State.modEmb_bound {s0 s : State} (f : EmbState → EmbState) (hk0 : BoundAs s0 s) :
    BoundAs s0 (State.modEmb s f) := by
  unfold State.modEmb
  repeat' first
    | with_reducible assumption | (rewrite [State.mk_eq_ofB]; with_reducible refine BoundAs.put ?_) | dsimp -zeta only
    | split

theorem State.findWay_bound {s0 s : State} (g : Nat) (t : Nat) (d : TableDesc) (r : Nat) (hk0 : BoundAs s0 s) :
    BoundAsP s0 (State.findWay s g t d r) := by
  unfold State.findWay
  repeat' first
    | with_reducible assumption | (intro x; have hx : BoundAs s0 x := ?hk; clear_value x; case' hk => subst x)
    | (intro x; subst x) | intro _ | (rewrite [pairP_eq]; with_reducible refine BoundAsP.mk ?_)
    | with_reducible apply State.readVa_bound | with_reducible refine BoundAs.of_fst (by assumption) ?_
    | with_reducible apply BoundAsP.fst | lift_lets -underBinder | dsimp -zeta only | split

theorem State.rowVa_bound {s0 s : State} (g : Nat) (t : Nat) (d : TableDesc) (r : Nat) (x1 : Place) (hk0 : BoundAs s0 s) :
    BoundAsP s0 (State.rowVa s g t d r x1) := by
  unfold State.rowVa
  repeat' first
    | with_reducible assumption | (intro x; have hx : BoundAs s0 x := ?hk; clear_value x; case' hk => subst x)
    | (intro x; subst x) | intro _ | (rewrite [pairP_eq]; with_reducible refine BoundAsP.mk ?_)
    | with_reducible apply State.findWay_bound | with_reducible refine BoundAs.of_fst (by assumption) ?_
    | with_reducible apply BoundAsP.fst | lift_lets -underBinder | dsimp -zeta only | split

theorem State.embRecord_bound {s0 s : State} (die : Nat) (code : Nat) (g : Nat) (t : Nat) (r : Nat) (sev : Sev) (hk0 : BoundAs s0 s) :
    BoundAs s0 (State.embRecord s die code g t r sev) := by
  unfold State.embRecord
  repeat' first
    | with_reducible assumption | (intro x; have hx : BoundAs s0 x := ?hk; clear_value x; case' hk => subst x)
    | (intro x; subst x) | intro _ | with_reducible apply State.putReg_bound | with_reducible apply State.record_bound
    | lift_lets -underBinder | dsimp -zeta only | split

theorem State.stepFault_bound {s0 s : State} (g : Nat) (hk0 : BoundAs s0 s) :
    BoundAs s0 (State.stepFault s g) := by
  unfold State.stepFault
  repeat' first
    | with_reducible assumption | intro _ | with_reducible apply State.modStep_bound
    | (rewrite [State.mk_eq_ofB]; with_reducible refine BoundAs.put ?_) | dsimp -zeta only | split

theorem State.readRow_bound {s0 s : State} (g : Nat) (t : Nat) (d : TableDesc) (r : Nat) (p : Place) (first : Nat) (count : Nat) (hk0 : BoundAs s0 s) :
    BoundAsP s0 (State.readRow s g t d r p first count) := by
  unfold State.readRow
  repeat' first
    | with_reducible assumption | (intro x; have hx : BoundAs s0 x := ?hk; clear_value x; case' hk => subst x)
    | (intro x; subst x) | intro _ | (rewrite [pairP_eq]; with_reducible refine BoundAsP.mk ?_)
    | with_reducible apply State.rowVa_bound | with_reducible apply State.readVa_bound
    | with_reducible refine BoundAs.of_fst (by assumption) ?_ | with_reducible apply BoundAsP.fst | lift_lets -underBinder
    | dsimp -zeta only | split

theorem State.heatRow_bound {s0 s : State} (die : Nat) (g : Nat) (t : Nat) (r : Nat) (hk0 : BoundAs s0 s) :
    BoundAs s0 (State.heatRow s die g t r) := by
  unfold State.heatRow
  repeat' first
    | with_reducible assumption | intro _ | with_reducible apply State.modEmb_bound
    | (rewrite [State.mk_eq_ofB]; with_reducible refine BoundAs.put ?_) | dsimp -zeta only | split

theorem State.updRecord_bound {s0 s : State} (sev : Sev) (die : Nat) (code : Nat) (g : Nat) (kind : Nat) (target : Nat) (item : Nat) (hk0 : BoundAs s0 s) :
    BoundAs s0 (State.updRecord s sev die code g kind target item) := by
  unfold State.updRecord
  repeat' first
    | with_reducible assumption | (intro x; have hx : BoundAs s0 x := ?hk; clear_value x; case' hk => subst x)
    | (intro x; subst x) | intro _ | with_reducible apply State.putReg_bound | with_reducible apply State.record_bound
    | lift_lets -underBinder | dsimp -zeta only | split

theorem State.rowBufAdd_bound {s0 s : State} (die : Nat) (g : Nat) (a : RowAcc) (hk0 : BoundAs s0 s) :
    BoundAsP s0 (State.rowBufAdd s die g a) := by
  unfold State.rowBufAdd
  repeat' first
    | with_reducible assumption | (intro x; have hx : BoundAs s0 x := ?hk; clear_value x; case' hk => subst x)
    | (intro x; subst x) | intro _ | with_reducible apply BoundAs.ite | with_reducible apply BoundAsP.ite
    | (rewrite [pairP_eq]; with_reducible refine BoundAsP.mk ?_) | with_reducible apply State.updRecord_bound
    | with_reducible apply State.stepFault_bound | with_reducible apply State.bump_bound
    | with_reducible apply State.each_bound | with_reducible apply State.writeLocal_bound
    | with_reducible refine BoundAs.of_fst (by assumption) ?_ | with_reducible apply BoundAsP.fst | lift_lets -underBinder
    | dsimp -zeta only | split

theorem State.sendAck_bound {s0 s : State} (die : Nat) (device : Nat) (g : Nat) (request : Nat) (status : Nat) (hk0 : BoundAs s0 s) :
    BoundAs s0 (State.sendAck s die device g request status) := by
  unfold State.sendAck
  repeat' first
    | with_reducible assumption | with_reducible apply State.sendMsg_bound | with_reducible apply State.request_bound
    | split

theorem State.forwardReq_bound {s0 s : State} (o : Origin) (device : Nat) (opcode : Nat) (payload : List Byte) (hk0 : BoundAs s0 s) :
    BoundAs s0 (State.forwardReq s o device opcode payload) := by
  unfold State.forwardReq
  repeat' first
    | with_reducible assumption | intro _ | with_reducible apply State.each_bound
    | with_reducible apply State.sendBranch_bound | (rewrite [State.mk_eq_ofB]; with_reducible refine BoundAs.put ?_)
    | dsimp -zeta only | split

theorem State.regraftLate_bound {s0 s : State} (die : Nat) (g : Nat) (t : Nat) (r : Nat) (hk0 : BoundAs s0 s) :
    BoundAs s0 (State.regraftLate s die g t r) := by
  unfold State.regraftLate
  repeat' first
    | with_reducible assumption | with_reducible apply State.bump_bound | with_reducible apply State.embRecord_bound
    | split

theorem State.serveRow_bound {s0 s : State} (die : Nat) (o : Origin) (r : RowRead) (d : TableDesc) (hk0 : BoundAs s0 s) :
    BoundAs s0 (State.serveRow s die o r d) := by
  unfold State.serveRow
  repeat' first
    | with_reducible assumption | (intro x; have hx : BoundAs s0 x := ?hk; clear_value x; case' hk => subst x)
    | (intro x; subst x) | intro _ | with_reducible apply BoundAs.ite | with_reducible apply BoundAsP.ite
    | (rewrite [pairP_eq]; with_reducible refine BoundAsP.mk ?_) | with_reducible apply State.readRow_bound
    | with_reducible apply State.heatRow_bound | with_reducible apply State.each_bound
    | with_reducible apply State.request_bound | with_reducible apply State.sendMsg_bound
    | with_reducible apply State.sendNeg_bound | with_reducible apply State.regraftLate_bound
    | with_reducible refine BoundAs.of_fst (by assumption) ?_ | with_reducible apply BoundAsP.fst | lift_lets -underBinder
    | dsimp -zeta only | split

theorem State.resolveRead_bound {s0 s : State} (die : Nat) (o : Origin) (r : RowRead) (again : Bool) (hk0 : BoundAs s0 s) :
    BoundAs s0 (State.resolveRead s die o r again) := by
  unfold State.resolveRead
  repeat' first
    | with_reducible assumption | (intro x; have hx : BoundAs s0 x := ?hk; clear_value x; case' hk => subst x)
    | (intro x; subst x) | intro _ | with_reducible apply BoundAs.ite | with_reducible apply State.sendNeg_bound
    | with_reducible apply State.request_bound | with_reducible apply State.bump_bound
    | with_reducible apply State.forwardReq_bound | with_reducible apply State.modEmb_bound
    | with_reducible apply State.serveRow_bound | (rewrite [State.mk_eq_ofB]; with_reducible refine BoundAs.put ?_)
    | lift_lets -underBinder | dsimp -zeta only | split

theorem State.rowRead_bound {s0 s : State} (die : Nat) (o : Origin) (r : RowRead) (again : Bool) (hk0 : BoundAs s0 s) :
    BoundAs s0 (State.rowRead s die o r again) := by
  unfold State.rowRead
  repeat' first
    | with_reducible assumption | with_reducible apply BoundAs.ite | with_reducible apply BoundAsP.ite
    | (rewrite [pairP_eq]; with_reducible refine BoundAsP.mk ?_) | with_reducible apply State.dropStale_bound
    | with_reducible apply State.spend_bound | with_reducible apply State.holdServe_bound
    | with_reducible apply State.resolveRead_bound | with_reducible refine BoundAs.of_fst (by assumption) ?_
    | with_reducible apply BoundAsP.fst | split

theorem State.noteLate_bound {s0 s : State} (die : Nat) (g : Nat) (red : Nat) (seg : Nat) (device : Nat) (hk0 : BoundAs s0 s) :
    BoundAs s0 (State.noteLate s die g red seg device) := by
  unfold State.noteLate
  repeat' first
    | with_reducible assumption | (intro x; have hx : BoundAs s0 x := ?hk; clear_value x; case' hk => subst x)
    | (intro x; subst x) | intro _ | with_reducible apply State.bump_bound | with_reducible apply State.putReg_bound
    | with_reducible apply State.record_bound | with_reducible apply State.corrected_bound | lift_lets -underBinder
    | dsimp -zeta only | split

theorem State.applyAcc_bound {s0 s : State} (die : Nat) (g : Nat) (a : RowAcc) (d : TableDesc) (p : Place) (hk0 : BoundAs s0 s) :
    BoundAsP s0 (State.applyAcc s die g a d p) := by
  unfold State.applyAcc
  repeat' first
    | with_reducible assumption | (intro x; have hx : BoundAs s0 x := ?hk; clear_value x; case' hk => subst x)
    | (intro x; subst x) | intro _ | (rewrite [pairP_eq]; with_reducible refine BoundAsP.mk ?_)
    | with_reducible apply State.rowVa_bound | with_reducible apply State.rowBufAdd_bound
    | with_reducible apply State.heatRow_bound | with_reducible refine BoundAs.of_fst (by assumption) ?_
    | with_reducible apply BoundAsP.fst | lift_lets -underBinder | dsimp -zeta only | split

theorem State.ownAcc_bound {s0 s : State} (die : Nat) (o : Origin) (a : RowAcc) (hk0 : BoundAs s0 s) :
    BoundAsP s0 (State.ownAcc s die o a) := by
  unfold State.ownAcc
  repeat' first
    | with_reducible assumption | (intro x; have hx : BoundAs s0 x := ?hk; clear_value x; case' hk => subst x)
    | (intro x; subst x) | intro _ | with_reducible apply BoundAs.ite | with_reducible apply BoundAsP.ite
    | (rewrite [pairP_eq]; with_reducible refine BoundAsP.mk ?_) | with_reducible apply State.request_bound
    | with_reducible apply State.bump_bound | with_reducible apply State.forward_bound
    | with_reducible apply State.noteLate_bound | with_reducible apply State.modEmb_bound
    | with_reducible apply State.updRecord_bound | with_reducible apply State.stepFault_bound
    | with_reducible apply State.applyAcc_bound | with_reducible apply State.regraftLate_bound
    | (rewrite [State.mk_eq_ofB]; with_reducible refine BoundAs.put ?_)
    | with_reducible refine BoundAs.of_fst (by assumption) ?_ | with_reducible apply BoundAsP.fst | lift_lets -underBinder
    | dsimp -zeta only | split

theorem State.rowAccumulate_bound {s0 s : State} (die : Nat) (o : Origin) (a : RowAcc) (again : Bool) (hk0 : BoundAs s0 s) :
    BoundAs s0 (State.rowAccumulate s die o a again) := by
  unfold State.rowAccumulate
  repeat' first
    | with_reducible assumption | with_reducible apply BoundAs.ite | with_reducible apply BoundAsP.ite
    | (rewrite [pairP_eq]; with_reducible refine BoundAsP.mk ?_) | with_reducible apply State.dropStale_bound
    | with_reducible apply State.spend_bound | with_reducible apply State.holdServe_bound
    | with_reducible apply State.ownAcc_bound | with_reducible apply State.sendAck_bound
    | with_reducible apply State.request_bound | with_reducible apply State.sendNeg_bound
    | with_reducible apply State.forward_bound | with_reducible apply State.forwardReq_bound
    | with_reducible refine BoundAs.of_fst (by assumption) ?_ | with_reducible apply BoundAsP.fst | split

theorem State.dropEmb_bound {s0 s : State} (g : Nat) (hk0 : BoundAs s0 s) :
    BoundAs s0 (State.dropEmb s g) := by
  unfold State.dropEmb
  repeat' first
    | with_reducible assumption | intro _ | with_reducible apply State.modEmb_bound
    | (rewrite [State.mk_eq_ofB]; with_reducible refine BoundAs.put ?_) | dsimp -zeta only | split

theorem State.clearTables_bound {s0 s : State} (p : Nat → Bool) (hk0 : BoundAs s0 s) :
    BoundAs s0 (State.clearTables s p) := by
  unfold State.clearTables
  repeat' first
    | with_reducible assumption | (intro x; have hx : BoundAs s0 x := ?hk; clear_value x; case' hk => subst x)
    | (intro x; subst x) | intro _ | with_reducible apply State.modEmb_bound
    | (rewrite [State.mk_eq_ofB]; with_reducible refine BoundAs.put ?_) | lift_lets -underBinder | dsimp -zeta only
    | split

theorem State.spxClear_bound {s0 s : State} (t : Nat) (hk0 : BoundAs s0 s) :
    BoundAs s0 (State.spxClear s t) := by
  unfold State.spxClear
  repeat' first
    | with_reducible assumption | (rewrite [State.mk_eq_ofB]; with_reducible refine BoundAs.put ?_) | dsimp -zeta only
    | split

theorem State.modGth_bound {s0 s : State} (f : GathState → GathState) (hk0 : BoundAs s0 s) :
    BoundAs s0 (State.modGth s f) := by
  unfold State.modGth
  repeat' first
    | with_reducible assumption | (rewrite [State.mk_eq_ofB]; with_reducible refine BoundAs.put ?_) | dsimp -zeta only
    | split

theorem State.dropGather_bound {s0 s : State} (g : Nat) (hk0 : BoundAs s0 s) :
    BoundAs s0 (State.dropGather s g) := by
  unfold State.dropGather
  repeat' first
    | with_reducible assumption | intro _ | with_reducible apply State.modGth_bound
    | (rewrite [State.mk_eq_ofB]; with_reducible refine BoundAs.put ?_) | dsimp -zeta only | split

theorem State.resetTile_bound {s0 s : State} (tile : Nat) (hk0 : BoundAs s0 s) :
    BoundAs s0 (State.resetTile s tile) := by
  unfold State.resetTile
  repeat' first
    | with_reducible assumption | with_reducible apply State.spxClear_bound | with_reducible apply State.resetReg_bound
    | split

theorem State.modCol_bound {s0 s : State} (f : CollState → CollState) (hk0 : BoundAs s0 s) :
    BoundAs s0 (State.modCol s f) := by
  unfold State.modCol
  repeat' first
    | with_reducible assumption | (rewrite [State.mk_eq_ofB]; with_reducible refine BoundAs.put ?_) | dsimp -zeta only
    | split

theorem State.colAck_bound {s0 s : State} (die : Nat) (device : Nat) (g : Nat) (request : Nat) (status : Nat) (hk0 : BoundAs s0 s) :
    BoundAs s0 (State.colAck s die device g request status) := by
  unfold State.colAck
  repeat' first
    | with_reducible assumption | with_reducible apply State.sendMsg_bound | with_reducible apply State.request_bound
    | split

theorem State.modUpd_bound {s0 s : State} (f : UpdState → UpdState) (hk0 : BoundAs s0 s) :
    BoundAs s0 (State.modUpd s f) := by
  unfold State.modUpd
  repeat' first
    | with_reducible assumption | (rewrite [State.mk_eq_ofB]; with_reducible refine BoundAs.put ?_) | dsimp -zeta only
    | split

theorem State.dropUpdate_bound {s0 s : State} (g : Nat) (hk0 : BoundAs s0 s) :
    BoundAs s0 (State.dropUpdate s g) := by
  unfold State.dropUpdate
  repeat' first
    | with_reducible assumption | (intro x; have hx : BoundAs s0 x := ?hk; clear_value x; case' hk => subst x)
    | (intro x; subst x) | intro _ | with_reducible apply State.modUpd_bound | with_reducible apply State.resetReg_bound
    | (rewrite [State.mk_eq_ofB]; with_reducible refine BoundAs.put ?_) | lift_lets -underBinder | dsimp -zeta only
    | split

theorem State.modKln_bound {s0 s : State} (f : KilnState → KilnState) (hk0 : BoundAs s0 s) :
    BoundAs s0 (State.modKln s f) := by
  unfold State.modKln
  repeat' first
    | with_reducible assumption | (rewrite [State.mk_eq_ofB]; with_reducible refine BoundAs.put ?_) | dsimp -zeta only
    | split

theorem State.putFiring_bound {s0 s : State} (g : Nat) (f : Firing) (hk0 : BoundAs s0 s) :
    BoundAs s0 (State.putFiring s g f) := by
  unfold State.putFiring
  repeat' first
    | with_reducible assumption | intro _ | with_reducible apply State.modKln_bound
    | (rewrite [State.mk_eq_ofB]; with_reducible refine BoundAs.put ?_) | dsimp -zeta only | split

theorem State.klnRecord_bound {s0 s : State} (code : Nat) (g : Nat) (slot : Nat) (dest : Nat) (item : Nat) (hk0 : BoundAs s0 s) :
    BoundAs s0 (State.klnRecord s code g slot dest item) := by
  unfold State.klnRecord
  repeat' first
    | with_reducible assumption | (intro x; have hx : BoundAs s0 x := ?hk; clear_value x; case' hk => subst x)
    | (intro x; subst x) | intro _ | with_reducible apply State.putReg_bound | with_reducible apply State.record_bound
    | lift_lets -underBinder | dsimp -zeta only | split

theorem State.endFiring_bound {s0 s : State} (g : Nat) (st : Status) (result : Nat) (hk0 : BoundAs s0 s) :
    BoundAs s0 (State.endFiring s g st result) := by
  unfold State.endFiring
  repeat' first
    | with_reducible assumption | (intro x; have hx : BoundAs s0 x := ?hk; clear_value x; case' hk => subst x)
    | (intro x; subst x) | intro _ | with_reducible apply State.modKln_bound | with_reducible apply State.complete_bound
    | (rewrite [State.mk_eq_ofB]; with_reducible refine BoundAs.put ?_) | lift_lets -underBinder | dsimp -zeta only
    | split

theorem State.firingMoves_bound {s0 s : State} (g : Nat) (hk0 : BoundAs s0 s) :
    BoundAs s0 (State.firingMoves s g) := by
  unfold State.firingMoves
  repeat' first
    | with_reducible assumption | (intro x; have hx : BoundAs s0 x := ?hk; clear_value x; case' hk => subst x)
    | (intro x; subst x) | intro _ | with_reducible apply BoundAs.ite | with_reducible apply State.endFiring_bound
    | with_reducible apply State.putFiring_bound | with_reducible apply State.record_bound
    | with_reducible apply State.putReg_bound | (rewrite [State.mk_eq_ofB]; with_reducible refine BoundAs.put ?_)
    | lift_lets -underBinder | dsimp -zeta only | split

theorem State.kilnFail_bound {s0 s : State} (g : Nat) (storage : Bool) (hk0 : BoundAs s0 s) :
    BoundAs s0 (State.kilnFail s g storage) := by
  unfold State.kilnFail
  repeat' first
    | with_reducible assumption | (intro x; have hx : BoundAs s0 x := ?hk; clear_value x; case' hk => subst x)
    | (intro x; subst x) | intro _ | with_reducible apply BoundAs.ite | with_reducible apply State.klnRecord_bound
    | with_reducible apply State.putFiring_bound | with_reducible apply State.firingMoves_bound
    | (rewrite [State.mk_eq_ofB]; with_reducible refine BoundAs.put ?_) | lift_lets -underBinder | dsimp -zeta only
    | split

theorem State.restoreFails_bound {s0 s : State} (g : Nat) (r : Restore) (code : Nat) (item : Nat) (hk0 : BoundAs s0 s) :
    BoundAs s0 (State.restoreFails s g r code item) := by
  unfold State.restoreFails
  repeat' first
    | with_reducible assumption | (intro x; have hx : BoundAs s0 x := ?hk; clear_value x; case' hk => subst x)
    | (intro x; subst x) | intro _ | with_reducible apply State.klnRecord_bound
    | with_reducible apply State.modKln_bound | with_reducible apply State.complete_bound
    | (rewrite [State.mk_eq_ofB]; with_reducible refine BoundAs.put ?_) | lift_lets -underBinder | dsimp -zeta only
    | split

theorem State.slotLost_bound {s0 s : State} (tag : Nat) (hk0 : BoundAs s0 s) :
    BoundAs s0 (State.slotLost s tag) := by
  unfold State.slotLost
  repeat' first
    | with_reducible assumption | (intro x; have hx : BoundAs s0 x := ?hk; clear_value x; case' hk => subst x)
    | (intro x; subst x) | intro _ | with_reducible apply State.modKln_bound | with_reducible apply State.complete_bound
    | with_reducible apply State.restoreFails_bound | (rewrite [State.mk_eq_ofB]; with_reducible refine BoundAs.put ?_)
    | lift_lets -underBinder | dsimp -zeta only | split

theorem State.regrovePlan_bound {s0 s : State} (g : Nat) (gen : Nat) (keep : Bool) (hk0 : BoundAs s0 s) :
    BoundAs s0 (State.regrovePlan s g gen keep) := by
  unfold State.regrovePlan
  repeat' first
    | with_reducible assumption | (intro x; have hx : BoundAs s0 x := ?hk; clear_value x; case' hk => subst x)
    | (intro x; subst x) | intro _ | with_reducible apply BoundAs.ite | with_reducible apply State.modKln_bound
    | (rewrite [State.mk_eq_ofB]; with_reducible refine BoundAs.put ?_) | lift_lets -underBinder | dsimp -zeta only
    | split

theorem State.kilnWrite_bound {s0 s : State} (die : Nat) (o : Origin) (w : KilnWrite) (again : Bool) (hk0 : BoundAs s0 s) :
    BoundAs s0 (State.kilnWrite s die o w again) := by
  unfold State.kilnWrite
  repeat' first
    | with_reducible assumption | (intro x; have hx : BoundAs s0 x := ?hk; clear_value x; case' hk => subst x)
    | (intro x; subst x) | intro _ | with_reducible apply BoundAs.ite | with_reducible apply BoundAsP.ite
    | (rewrite [pairP_eq]; with_reducible refine BoundAsP.mk ?_) | with_reducible apply State.dropStale_bound
    | with_reducible apply State.spend_bound | with_reducible apply State.holdServe_bound
    | with_reducible apply State.writeLocal_bound | with_reducible apply State.colAck_bound
    | with_reducible apply State.request_bound | with_reducible apply State.sendNeg_bound
    | with_reducible refine BoundAs.of_fst (by assumption) ?_ | with_reducible apply BoundAsP.fst | lift_lets -underBinder
    | dsimp -zeta only | split

theorem State.dropCollect_bound {s0 s : State} (g : Nat) (hk0 : BoundAs s0 s) :
    BoundAs s0 (State.dropCollect s g) := by
  unfold State.dropCollect
  repeat' first
    | with_reducible assumption | (intro x; have hx : BoundAs s0 x := ?hk; clear_value x; case' hk => subst x)
    | (intro x; subst x) | intro _ | with_reducible apply State.modCol_bound
    | (rewrite [State.mk_eq_ofB]; with_reducible refine BoundAs.put ?_) | lift_lets -underBinder | dsimp -zeta only
    | split

theorem State.modTile_bound {s0 s : State} (t : Nat) (f : TileWatch → TileWatch) (hk0 : BoundAs s0 s) :
    BoundAs s0 (State.modTile s t f) := by
  unfold State.modTile
  repeat' first
    | with_reducible assumption | (rewrite [State.mk_eq_ofB]; with_reducible refine BoundAs.put ?_) | dsimp -zeta only
    | split

theorem State.watchRegrove_bound {s0 s : State} (t : Nat) (hk0 : BoundAs s0 s) :
    BoundAs s0 (State.watchRegrove s t) := by
  unfold State.watchRegrove
  repeat' first
    | with_reducible assumption | intro _ | with_reducible apply BoundAs.ite | with_reducible apply State.modTile_bound
    | (rewrite [State.mk_eq_ofB]; with_reducible refine BoundAs.put ?_) | dsimp -zeta only | split

theorem State.modHrt_bound {s0 s : State} (f : HearthState → HearthState) (hk0 : BoundAs s0 s) :
    BoundAs s0 (State.modHrt s f) := by
  unfold State.modHrt
  repeat' first
    | with_reducible assumption | (rewrite [State.mk_eq_ofB]; with_reducible refine BoundAs.put ?_) | dsimp -zeta only
    | split

theorem State.qpErrors_bound {s0 s : State} (p : Nat → Qp → Bool) (hk0 : BoundAs s0 s) :
    BoundAs s0 (State.qpErrors s p) := by
  unfold State.qpErrors
  repeat' first
    | with_reducible assumption | (intro x; have hx : BoundAs s0 x := ?hk; clear_value x; case' hk => subst x)
    | (intro x; subst x) | intro _ | with_reducible apply BoundAs.ite | with_reducible apply State.modHrt_bound
    | with_reducible apply State.each_bound | with_reducible apply State.kilnFail_bound
    | with_reducible apply State.slotLost_bound | (rewrite [State.mk_eq_ofB]; with_reducible refine BoundAs.put ?_)
    | lift_lets -underBinder | dsimp -zeta only | split

theorem State.detachGrove_bound {s0 s : State} (g : Nat) (hk0 : BoundAs s0 s) :
    BoundAs s0 (State.detachGrove s g) := by
  unfold State.detachGrove
  repeat' first
    | with_reducible assumption | intro _ | with_reducible apply BoundAs.ite | with_reducible apply State.qpErrors_bound
    | with_reducible apply State.modHrt_bound | (rewrite [State.mk_eq_ofB]; with_reducible refine BoundAs.put ?_)
    | dsimp -zeta only | split

theorem State.dropWaiting_bound {s0 s : State} (g : Nat) (hk0 : BoundAs s0 s) :
    BoundAs s0 (State.dropWaiting s g) := by
  unfold State.dropWaiting
  repeat' first
    | with_reducible assumption | (intro x; have hx : BoundAs s0 x := ?hk; clear_value x; case' hk => subst x)
    | (intro x; subst x) | intro _ | with_reducible apply BoundAs.ite | with_reducible apply State.adjRange_bound
    | with_reducible apply State.adjPick_bound | with_reducible apply State.rowRead_bound
    | with_reducible apply State.rowAccumulate_bound | with_reducible apply State.kilnWrite_bound
    | with_reducible apply State.serve_bound | with_reducible apply State.modEmb_bound
    | (rewrite [State.mk_eq_ofB]; with_reducible refine BoundAs.put ?_) | lift_lets -underBinder | dsimp -zeta only
    | split

theorem State.dropFlits_bound {s0 s : State} (g : Nat) (p : Nat → Bool) (hk0 : BoundAs s0 s) :
    BoundAs s0 (State.dropFlits s g p) := by
  unfold State.dropFlits
  repeat' first
    | with_reducible assumption | (intro x; have hx : BoundAs s0 x := ?hk; clear_value x; case' hk => subst x)
    | (intro x; subst x) | intro _ | with_reducible apply BoundAs.ite | with_reducible apply State.each_bound
    | with_reducible apply State.modPort_bound | (rewrite [State.mk_eq_ofB]; with_reducible refine BoundAs.put ?_)
    | lift_lets -underBinder | dsimp -zeta only | split

theorem State.loadBudgets_bound {s0 s : State} (g : Nat) (kind : Nat) (l : List (Nat × Nat × Nat × Nat)) (hk0 : BoundAs s0 s) :
    BoundAs s0 (State.loadBudgets s g kind l) := by
  unfold State.loadBudgets
  repeat' first
    | with_reducible assumption | (intro x; have hx : BoundAs s0 x := ?hk; clear_value x; case' hk => subst x)
    | (intro x; subst x) | intro _ | with_reducible apply BoundAs.ite | with_reducible apply State.each_bound
    | with_reducible apply State.putReg_bound | with_reducible apply State.modBudget_bound
    | (rewrite [State.mk_eq_ofB]; with_reducible refine BoundAs.put ?_) | lift_lets -underBinder | dsimp -zeta only
    | split

theorem State.staleCmds_bound {s0 s : State} (g : Nat) (hk0 : BoundAs s0 s) :
    BoundAs s0 (State.staleCmds s g) := by
  unfold State.staleCmds
  repeat' first
    | with_reducible assumption | (intro x; have hx : BoundAs s0 x := ?hk; clear_value x; case' hk => subst x)
    | (intro x; subst x) | intro _ | with_reducible apply BoundAs.ite | with_reducible apply State.each_bound
    | with_reducible apply State.endInject_bound | with_reducible apply State.staleCommand_bound
    | with_reducible apply State.modGth_bound | (rewrite [State.mk_eq_ofB]; with_reducible refine BoundAs.put ?_)
    | lift_lets -underBinder | dsimp -zeta only | split

theorem State.applyImage_bound {s0 s : State} (i : BatchImage) (hk0 : BoundAs s0 s) :
    BoundAs s0 (State.applyImage s i) := by
  unfold State.applyImage
  repeat' first
    | with_reducible assumption | (intro x; have hx : BoundAs s0 x := ?hk; clear_value x; case' hk => subst x)
    | (intro x; subst x) | intro _ | with_reducible apply BoundAs.ite | with_reducible apply State.staleCmds_bound
    | with_reducible apply State.detachGrove_bound | with_reducible apply State.regrovePlan_bound
    | with_reducible apply State.loadBudgets_bound | with_reducible apply State.zeroFlows_bound
    | with_reducible apply State.clearHists_bound | with_reducible apply State.freshPages_bound
    | with_reducible apply State.modUpd_bound | with_reducible apply State.modStep_bound
    | with_reducible apply State.dropGather_bound | with_reducible apply State.dropCollect_bound
    | with_reducible apply State.dropEmb_bound | with_reducible apply State.dropUpdate_bound
    | with_reducible apply State.dropWaiting_bound | (rewrite [State.mk_eq_ofB]; with_reducible refine BoundAs.put ?_)
    | lift_lets -underBinder | dsimp -zeta only | split

theorem State.rekey_bound {s0 s : State} (joins : List Nat) (c : Nat) (hk0 : BoundAs s0 s) :
    BoundAs s0 (State.rekey s joins c) := by
  unfold State.rekey
  repeat' first
    | with_reducible assumption | (intro x; have hx : BoundAs s0 x := ?hk; clear_value x; case' hk => subst x)
    | (intro x; subst x) | intro _ | with_reducible apply BoundAs.ite | with_reducible apply State.modChannel_bound
    | (rewrite [State.mk_eq_ofB]; with_reducible refine BoundAs.putW ?_ (cellDrop_wf _ _) id (Nat.le_refl _) (Nat.le_refl _))
    | (rewrite [State.mk_eq_ofB]; with_reducible refine BoundAs.put ?_) | lift_lets -underBinder | dsimp -zeta only
    | split

end Sys2Proof.Machine
end

