-- ==== Sys2Proof/Laws/FatalKept.lean ====
section
/-! SUPPORT. The first fatal record since the last recovery stays (R533): `FatalKept`, one lemma for each operation that entering the ash state uses. -/
set_option Elab.async false
set_option linter.unusedTactic false
set_option linter.unreachableTactic false
set_option linter.unnecessarySeqFocus false
namespace Sys2Proof.Machine

/-- The first fatal record since the last recovery stays (R533). -/
structure FatalKept (a b : State) : Prop where
  fatal : ∀ r, a.wch.fatal = some r → b.wch.fatal = some r

/-- The relation on the state of a pair. -/
def FatalKeptP {α : Type} (a : State) (p : State × α) : Prop := FatalKept a p.1

/-- The relation on the state of a pair. -/
def FatalKeptQ {α : Type} (a : State) (p : α × State) : Prop := FatalKept a p.2

theorem FatalKept.refl (a : State) : FatalKept a a := by constructor <;> first | rfl | exact fun _ h => h

theorem FatalKept.put {a b : State}
    {regs : Tbl Word} {aonUs : Nat} {outbox : List Msg} {irqs : List Nat} {freeCtr : Nat}
    {pageMap : Tbl (Tbl Nat)} {grv : GroveState} {hrt : HearthState} {sch : SchedState} {num : NumState}
    {smp : SampState} {gth : GathState} {emb : EmbState} {til : TileState} {mem : MemState} {lnk : LinkState}
    {col : CollState} {upd : UpdState} {wch : WatchState} {kln : KilnState} {clk : ClockState}
    {hwd : HeartwoodState} {sup : StartState} {pkg : PkgState}
    (h : FatalKept a b)
    (h0 : wch.fatal = b.wch.fatal := by exact rfl) :
    FatalKept a (State.ofB b
      regs aonUs outbox irqs freeCtr pageMap grv hrt sch num smp gth emb til mem lnk col upd wch kln clk hwd
      sup pkg) :=
  ⟨fun r hr => h0.trans (h.fatal r hr)⟩

theorem FatalKept.ite {a b c : State} {p : Prop} [Decidable p] (h : FatalKept a b) (k : FatalKept a c) :
    FatalKept a (if p then b else c) := by split <;> assumption

theorem FatalKeptP.mk {α : Type} {a s : State} {x : α} (h : FatalKept a s) : FatalKeptP a (pairP s x) := h

theorem FatalKeptP.ite {α : Type} {a : State} {b c : State × α} {p : Prop} [Decidable p] (h : FatalKeptP a b) (k : FatalKeptP a c) :
    FatalKeptP a (if p then b else c) := by split <;> assumption

theorem FatalKeptP.fst {α : Type} {a : State} {p : State × α} (h : FatalKeptP a p) : FatalKept a p.1 := h

theorem FatalKeptQ.mk {α : Type} {a s : State} {x : α} (h : FatalKept a s) : FatalKeptQ a (pairQ x s) := h

theorem FatalKeptQ.ite {α : Type} {a : State} {b c : α × State} {p : Prop} [Decidable p] (h : FatalKeptQ a b) (k : FatalKeptQ a c) :
    FatalKeptQ a (if p then b else c) := by split <;> assumption

theorem FatalKeptQ.snd {α : Type} {a : State} {p : α × State} (h : FatalKeptQ a p) : FatalKept a p.2 := h

theorem FatalKept.of_fst {α : Type} {a b : State} {p : State × α} {x : α} (e : p = (b, x)) (h : FatalKeptP a p) : FatalKept a b := by
  subst e; exact h

theorem FatalKept.of_snd {α : Type} {a b : State} {p : α × State} {x : α} (e : p = (x, b)) (h : FatalKeptQ a p) : FatalKept a b := by
  subst e; exact h

theorem FatalKept.foldl {α : Type} {a : State} {f : State → α → State} (l : List α) {s : State} (h : FatalKept a s)
    (hf : ∀ b x, FatalKept a b → FatalKept a (f b x)) : FatalKept a (l.foldl f s) := by
  induction l generalizing s with
  | nil => exact h
  | cons x t ih => exact ih (hf _ x h)

theorem FatalKeptP.foldl {α β : Type} {a : State} {f : State × β → α → State × β} (l : List α) {s : State × β}
    (h : FatalKeptP a s) (hf : ∀ b x, FatalKeptP a b → FatalKeptP a (f b x)) : FatalKeptP a (l.foldl f s) := by
  induction l generalizing s with
  | nil => exact h
  | cons x t ih => exact ih (hf _ x h)

theorem State.putReg_fkept {s0 s : State} (r : Reg) (ix : List Nat) (v : Word) (hk0 : FatalKept s0 s) :
    FatalKept s0 (State.putReg s r ix v) := by
  unfold State.putReg
  repeat' first
    | with_reducible assumption | (rewrite [State.mk_eq_ofB]; with_reducible refine FatalKept.put ?_) | dsimp -zeta only
    | split

theorem State.putFld_fkept {s0 s : State} (r : Reg) (ix : List Nat) (lo : Nat) (w : Nat) (x : Nat) (hk0 : FatalKept s0 s) :
    FatalKept s0 (State.putFld s r ix lo w x) := by
  unfold State.putFld
  repeat' first
    | with_reducible assumption | with_reducible apply State.putReg_fkept | split

theorem State.each_fkept {α : Type} {a s : State} (l : List α) {f : State → α → State} (h : FatalKept a s)
    (hf : ∀ b x, FatalKept a b → FatalKept a (f b x)) : FatalKept a (s.each l f) := FatalKept.foldl l h hf

theorem State.notify_fkept {s0 s : State} (sev : Sev) (hk0 : FatalKept s0 s) :
    FatalKept s0 (State.notify s sev) := by
  unfold State.notify
  repeat' first
    | with_reducible assumption | with_reducible apply FatalKept.ite
    | (rewrite [State.mk_eq_ofB]; with_reducible refine FatalKept.put ?_) | dsimp -zeta only | split

theorem State.keepFatal_fkept {s0 s : State} (r : LogRec) (hk0 : FatalKept s0 s) : FatalKept s0 (s.keepFatal r) := by
  unfold State.keepFatal
  split
  · refine ⟨fun x hx => ?_⟩
    have h := hk0.fatal x hx
    simp [h]
  · exact hk0

theorem State.logRec_fkept {s0 s : State} (r : LogRec) (hk0 : FatalKept s0 s) :
    FatalKept s0 (State.logRec s r) := by
  unfold State.logRec
  repeat' first
    | with_reducible assumption | (intro x; have hx : FatalKept s0 x := ?hk; clear_value x; case' hk => subst x)
    | (intro x; subst x) | intro _ | with_reducible apply FatalKept.ite | with_reducible apply State.putReg_fkept
    | with_reducible apply State.putFld_fkept | with_reducible apply State.keepFatal_fkept
    | with_reducible apply State.corrected_fkept | with_reducible apply State.notify_fkept
    | (rewrite [State.mk_eq_ofB]; with_reducible refine FatalKept.putW ?_ id id (Nat.le_refl _) (Nat.le_refl _) (List.prefix_refl _) (Nat.le_refl _) (Nat.le_refl _) StartState.right_alert)
    | (rewrite [State.mk_eq_ofB]; with_reducible refine FatalKept.put ?_) | lift_lets -underBinder | dsimp -zeta only
    | split

theorem State.addHeat_fkept {s0 s : State} (w : Nat) (g : Nat) (hk0 : FatalKept s0 s) :
    FatalKept s0 (State.addHeat s w g) := by
  unfold State.addHeat
  repeat' first
    | with_reducible assumption | (intro x; have hx : FatalKept s0 x := ?hk; clear_value x; case' hk => subst x)
    | (intro x; subst x) | intro _ | with_reducible apply FatalKept.ite | with_reducible apply State.putFld_fkept
    | with_reducible apply State.logRec_fkept | with_reducible apply State.corrected_fkept
    | (rewrite [State.mk_eq_ofB]; with_reducible refine FatalKept.put ?_) | lift_lets -underBinder | dsimp -zeta only
    | split

theorem State.heatOn_fkept {s0 s : State} (w : Nat) (gs : List Nat) (hk0 : FatalKept s0 s) :
    FatalKept s0 (State.heatOn s w gs) := by
  unfold State.heatOn
  repeat' first
    | with_reducible assumption | intro _ | with_reducible apply State.each_fkept
    | with_reducible apply State.addHeat_fkept | dsimp -zeta only | split

theorem State.record_fkept {s0 s : State} (src : Src) (sev : Sev) (die : Nat) (code : Nat) (grove : Option Nat) (detail : Nat) (hk0 : FatalKept s0 s) :
    FatalKept s0 (State.record s src sev die code grove detail) := by
  unfold State.record
  repeat' first
    | with_reducible assumption | (intro x; have hx : FatalKept s0 x := ?hk; clear_value x; case' hk => subst x)
    | (intro x; subst x) | intro _ | with_reducible apply FatalKept.ite | with_reducible apply State.logRec_fkept
    | with_reducible apply State.corrected_fkept | with_reducible apply State.heatOn_fkept | lift_lets -underBinder
    | dsimp -zeta only | split

theorem State.bump_fkept {s0 s : State} (r : Reg) (ix : List Nat) (n : Nat) (hk0 : FatalKept s0 s) :
    FatalKept s0 (State.bump s r ix n) := by
  unfold State.bump
  repeat' first
    | with_reducible assumption | (intro x; have hx : FatalKept s0 x := ?hk; clear_value x; case' hk => subst x)
    | (intro x; subst x) | intro _ | with_reducible apply FatalKept.ite | with_reducible apply State.putReg_fkept
    | with_reducible apply State.record_fkept | with_reducible apply State.corrected_fkept | lift_lets -underBinder
    | dsimp -zeta only | split

theorem State.interrupt_fkept {s0 s : State} (core : Nat) (hk0 : FatalKept s0 s) :
    FatalKept s0 (State.interrupt s core) := by
  unfold State.interrupt
  repeat' first
    | with_reducible assumption | (rewrite [State.mk_eq_ofB]; with_reducible refine FatalKept.put ?_) | dsimp -zeta only
    | split

theorem State.modChannel_fkept {s0 s : State} (c : Nat) (f : Channel → Channel) (hk0 : FatalKept s0 s) :
    FatalKept s0 (State.modChannel s c f) := by
  unfold State.modChannel
  repeat' first
    | with_reducible assumption | (rewrite [State.mk_eq_ofB]; with_reducible refine FatalKept.put ?_) | dsimp -zeta only
    | split

theorem State.putLine_fkept {s0 s : State} (c : Nat) (line : Nat) (bs : List Byte) (hk0 : FatalKept s0 s) :
    FatalKept s0 (State.putLine s c line bs) := by
  unfold State.putLine
  repeat' first
    | with_reducible assumption | intro _ | (rewrite [State.mk_eq_ofB]; with_reducible refine FatalKept.put ?_)
    | with_reducible apply FatalKept.foldl | dsimp -zeta only | split

theorem State.unsaturate_fkept {s0 s : State} (p : Nat → Bool) (hk0 : FatalKept s0 s) :
    FatalKept s0 (State.unsaturate s p) := by
  unfold State.unsaturate
  repeat' first
    | with_reducible assumption | intro _ | (rewrite [State.mk_eq_ofB]; with_reducible refine FatalKept.put ?_)
    | dsimp -zeta only | split

theorem State.noteUe_fkept {s0 s : State} (c : Nat) (line : Nat) (hk0 : FatalKept s0 s) :
    FatalKept s0 (State.noteUe s c line) := by
  unfold State.noteUe
  repeat' first
    | with_reducible assumption | (intro x; have hx : FatalKept s0 x := ?hk; clear_value x; case' hk => subst x)
    | (intro x; subst x) | intro _ | with_reducible apply State.bump_fkept | with_reducible apply State.putReg_fkept
    | lift_lets -underBinder | dsimp -zeta only | split

theorem State.ueRecord_fkept {s0 s : State} (sev : Sev) (c : Nat) (line : Nat) (hk0 : FatalKept s0 s) :
    FatalKept s0 (State.ueRecord s sev c line) := by
  unfold State.ueRecord
  repeat' first
    | with_reducible assumption | with_reducible apply State.record_fkept | with_reducible apply State.heatOn_fkept
    | split

theorem State.evictWcb_fkept {s0 s : State} (c : Nat) (e : WcbEntry) (hk0 : FatalKept s0 s) :
    FatalKept s0 (State.evictWcb s c e) := by
  unfold State.evictWcb
  repeat' first
    | with_reducible assumption | (intro x; have hx : FatalKept s0 x := ?hk; clear_value x; case' hk => subst x)
    | (intro x; subst x) | intro _ | with_reducible apply FatalKept.ite | with_reducible apply State.modChannel_fkept
    | with_reducible apply State.noteUe_fkept | with_reducible apply State.ueRecord_fkept
    | with_reducible apply State.putLine_fkept | with_reducible apply State.bump_fkept
    | (rewrite [State.mk_eq_ofB]; with_reducible refine FatalKept.put ?_) | lift_lets -underBinder | dsimp -zeta only
    | split

theorem State.flushAdder_fkept {s0 s : State} (c : Nat) (a : Nat × List Byte) (hk0 : FatalKept s0 s) :
    FatalKept s0 (State.flushAdder s c a) := by
  unfold State.flushAdder
  repeat' first
    | with_reducible assumption | intro _ | with_reducible apply State.modChannel_fkept
    | with_reducible apply State.putLine_fkept | (rewrite [State.mk_eq_ofB]; with_reducible refine FatalKept.put ?_)
    | dsimp -zeta only | split

theorem State.settleAdder_fkept {s0 s : State} (c : Nat) (line : Nat) (hk0 : FatalKept s0 s) :
    FatalKept s0 (State.settleAdder s c line) := by
  unfold State.settleAdder
  repeat' first
    | with_reducible assumption | with_reducible apply State.flushAdder_fkept | split

theorem State.flushChannel_fkept {s0 s : State} (c : Nat) (hk0 : FatalKept s0 s) :
    FatalKept s0 (State.flushChannel s c) := by
  unfold State.flushChannel
  repeat' first
    | with_reducible assumption | (intro x; have hx : FatalKept s0 x := ?hk; clear_value x; case' hk => subst x)
    | (intro x; subst x) | intro _ | with_reducible apply State.each_fkept | with_reducible apply State.evictWcb_fkept
    | with_reducible apply State.flushAdder_fkept | lift_lets -underBinder | dsimp -zeta only | split

theorem State.flushBuffers_fkept {s0 s : State} (p : Nat → Bool) (hk0 : FatalKept s0 s) :
    FatalKept s0 (State.flushBuffers s p) := by
  unfold State.flushBuffers
  repeat' first
    | with_reducible assumption | intro _ | with_reducible apply FatalKept.ite | with_reducible apply State.each_fkept
    | with_reducible apply State.flushChannel_fkept | dsimp -zeta only | split

theorem State.writeLine_fkept {s0 s : State} (c : Nat) (line : Nat) (pos : Nat) (bs : List Byte) (grove : Nat) (hk0 : FatalKept s0 s) :
    FatalKeptP s0 (State.writeLine s c line pos bs grove) := by
  unfold State.writeLine
  repeat' first
    | with_reducible assumption | (intro x; have hx : FatalKept s0 x := ?hk; clear_value x; case' hk => subst x)
    | (intro x; subst x) | intro _ | with_reducible apply FatalKept.ite | with_reducible apply FatalKeptP.ite
    | (rewrite [pairP_eq]; with_reducible refine FatalKeptP.mk ?_) | with_reducible apply State.unsaturate_fkept
    | with_reducible apply State.modChannel_fkept | with_reducible apply State.putLine_fkept
    | with_reducible apply State.settleAdder_fkept | with_reducible apply State.noteUe_fkept
    | with_reducible apply State.evictWcb_fkept | (rewrite [State.mk_eq_ofB]; with_reducible refine FatalKept.put ?_)
    | with_reducible apply FatalKept.foldl | with_reducible apply FatalKeptP.foldl
    | with_reducible refine FatalKept.of_fst (by assumption) ?_ | with_reducible apply FatalKeptP.fst | lift_lets -underBinder
    | dsimp -zeta only | split

theorem State.unmappedRecord_fkept {s0 s : State} (p : Party) (o : Nat) (hk0 : FatalKept s0 s) :
    FatalKept s0 (State.unmappedRecord s p o) := by
  unfold State.unmappedRecord
  repeat' first
    | with_reducible assumption | (intro x; have hx : FatalKept s0 x := ?hk; clear_value x; case' hk => subst x)
    | (intro x; subst x) | intro _ | with_reducible apply FatalKept.ite | with_reducible apply State.record_fkept
    | lift_lets -underBinder | dsimp -zeta only | split

theorem State.putPage_fkept {s0 s : State} (g : Nat) (o : Nat) (bs : List Byte) (hk0 : FatalKept s0 s) :
    FatalKept s0 (State.putPage s g o bs) := by
  unfold State.putPage
  repeat' first
    | with_reducible assumption | intro _ | (rewrite [pairP_eq]; with_reducible refine FatalKeptP.mk ?_)
    | with_reducible apply State.each_fkept | with_reducible apply State.writeLine_fkept
    | with_reducible refine FatalKept.of_fst (by assumption) ?_ | with_reducible apply FatalKeptP.fst | dsimp -zeta only | split

theorem State.touchWait_fkept {s0 s : State} (g : Nat) (hk0 : FatalKept s0 s) :
    FatalKept s0 (State.touchWait s g) := by
  unfold State.touchWait
  repeat' first
    | with_reducible assumption | (intro x; have hx : FatalKept s0 x := ?hk; clear_value x; case' hk => subst x)
    | (intro x; subst x) | intro _ | with_reducible apply FatalKept.ite | with_reducible apply State.putReg_fkept
    | with_reducible apply State.record_fkept | with_reducible apply State.corrected_fkept
    | (rewrite [State.mk_eq_ofB]; with_reducible refine FatalKept.put ?_) | lift_lets -underBinder | dsimp -zeta only
    | split

theorem State.touchPage_fkept {s0 s : State} (page : Nat) (hk0 : FatalKept s0 s) :
    FatalKept s0 (State.touchPage s page) := by
  unfold State.touchPage
  repeat' first
    | with_reducible assumption | (intro x; have hx : FatalKept s0 x := ?hk; clear_value x; case' hk => subst x)
    | (intro x; subst x) | intro _ | with_reducible apply FatalKept.ite | with_reducible apply State.touchWait_fkept
    | with_reducible apply State.bump_fkept | with_reducible apply State.putPage_fkept
    | (rewrite [State.mk_eq_ofB]; with_reducible refine FatalKept.put ?_) | lift_lets -underBinder | dsimp -zeta only
    | split

theorem State.touch_fkept {s0 s : State} (o : Nat) (hk0 : FatalKept s0 s) :
    FatalKept s0 (State.touch s o) := by
  unfold State.touch
  repeat' first
    | with_reducible assumption | with_reducible apply FatalKept.ite | with_reducible apply State.touchPage_fkept | split

theorem State.writeFails_fkept {s0 s : State} (p : Party) (o : Nat) (x1 : Acc × Nat × Nat) (hk0 : FatalKept s0 s) :
    FatalKeptP s0 (State.writeFails s p o x1) := by
  unfold State.writeFails
  repeat' first
    | with_reducible assumption | (rewrite [pairP_eq]; with_reducible refine FatalKeptP.mk ?_)
    | with_reducible apply State.noteUe_fkept | with_reducible apply State.ueRecord_fkept
    | with_reducible apply State.unmappedRecord_fkept | with_reducible refine FatalKept.of_fst (by assumption) ?_
    | with_reducible apply FatalKeptP.fst | split

theorem State.writeLocal_fkept {s0 s : State} (p : Party) (o : Nat) (bs : List Byte) (hk0 : FatalKept s0 s) :
    FatalKeptP s0 (State.writeLocal s p o bs) := by
  unfold State.writeLocal
  repeat' first
    | with_reducible assumption | (intro x; have hx : FatalKept s0 x := ?hk; clear_value x; case' hk => subst x)
    | (intro x; subst x) | intro _ | (rewrite [pairP_eq]; with_reducible refine FatalKeptP.mk ?_)
    | (rewrite [pairQ_eq]; with_reducible refine FatalKeptQ.mk ?_) | with_reducible apply State.touch_fkept
    | with_reducible apply State.writeLine_fkept | with_reducible apply State.writeFails_fkept
    | with_reducible apply FatalKept.foldl | with_reducible apply FatalKeptP.foldl
    | with_reducible refine FatalKept.of_fst (by assumption) ?_ | with_reducible apply FatalKeptP.fst
    | with_reducible refine FatalKept.of_snd (by assumption) ?_ | with_reducible apply FatalKeptQ.snd | lift_lets -underBinder
    | dsimp -zeta only | split

theorem State.modPort_fkept {s0 s : State} (p : Nat) (f : Port → Port) (hk0 : FatalKept s0 s) :
    FatalKept s0 (State.modPort s p f) := by
  unfold State.modPort
  repeat' first
    | with_reducible assumption | (rewrite [State.mk_eq_ofB]; with_reducible refine FatalKept.put ?_) | dsimp -zeta only
    | split

theorem State.bumpPort_fkept {s0 s : State} (p : Nat) (t : Reg) (b : Reg) (n : Nat) (hk0 : FatalKept s0 s) :
    FatalKept s0 (State.bumpPort s p t b n) := by
  unfold State.bumpPort
  repeat' first
    | with_reducible assumption | with_reducible apply FatalKept.ite | with_reducible apply State.bump_fkept | split

theorem State.portOff_fkept {s0 s : State} (p : Nat) (hk0 : FatalKept s0 s) :
    FatalKept s0 (State.portOff s p) := by
  unfold State.portOff
  repeat' first
    | with_reducible assumption | (intro x; have hx : FatalKept s0 x := ?hk; clear_value x; case' hk => subst x)
    | (intro x; subst x) | intro _ | with_reducible apply State.bumpPort_fkept
    | with_reducible apply State.modPort_fkept | (rewrite [State.mk_eq_ofB]; with_reducible refine FatalKept.put ?_)
    | lift_lets -underBinder | dsimp -zeta only | split

theorem State.modQueue_fkept {s0 s : State} (q : Nat) (f : Queue → Queue) (hk0 : FatalKept s0 s) :
    FatalKept s0 (State.modQueue s q f) := by
  unfold State.modQueue
  repeat' first
    | with_reducible assumption | (rewrite [State.mk_eq_ofB]; with_reducible refine FatalKept.put ?_) | dsimp -zeta only
    | split

theorem State.complete_fkept {s0 s : State} (q : Nat) (i : Nat) (st : Status) (result : Nat) (hk0 : FatalKept s0 s) :
    FatalKept s0 (State.complete s q i st result) := by
  unfold State.complete
  repeat' first
    | with_reducible assumption | (intro x; have hx : FatalKept s0 x := ?hk; clear_value x; case' hk => subst x)
    | (intro x; subst x) | intro _ | with_reducible apply FatalKept.ite | with_reducible apply FatalKeptP.ite
    | (rewrite [pairP_eq]; with_reducible refine FatalKeptP.mk ?_) | with_reducible apply State.writeLocal_fkept
    | with_reducible apply State.modQueue_fkept | with_reducible apply State.interrupt_fkept
    | (rewrite [State.mk_eq_ofB]; with_reducible refine FatalKept.put ?_)
    | with_reducible refine FatalKept.of_fst (by assumption) ?_ | with_reducible apply FatalKeptP.fst | lift_lets -underBinder
    | dsimp -zeta only | split

theorem State.modCol_fkept {s0 s : State} (f : CollState → CollState) (hk0 : FatalKept s0 s) :
    FatalKept s0 (State.modCol s f) := by
  unfold State.modCol
  repeat' first
    | with_reducible assumption | (rewrite [State.mk_eq_ofB]; with_reducible refine FatalKept.put ?_) | dsimp -zeta only
    | split

theorem State.modKln_fkept {s0 s : State} (f : KilnState → KilnState) (hk0 : FatalKept s0 s) :
    FatalKept s0 (State.modKln s f) := by
  unfold State.modKln
  repeat' first
    | with_reducible assumption | (rewrite [State.mk_eq_ofB]; with_reducible refine FatalKept.put ?_) | dsimp -zeta only
    | split

theorem State.klnRecord_fkept {s0 s : State} (code : Nat) (g : Nat) (slot : Nat) (dest : Nat) (item : Nat) (hk0 : FatalKept s0 s) :
    FatalKept s0 (State.klnRecord s code g slot dest item) := by
  unfold State.klnRecord
  repeat' first
    | with_reducible assumption | (intro x; have hx : FatalKept s0 x := ?hk; clear_value x; case' hk => subst x)
    | (intro x; subst x) | intro _ | with_reducible apply State.putReg_fkept | with_reducible apply State.record_fkept
    | lift_lets -underBinder | dsimp -zeta only | split

theorem State.endFiring_fkept {s0 s : State} (g : Nat) (st : Status) (result : Nat) (hk0 : FatalKept s0 s) :
    FatalKept s0 (State.endFiring s g st result) := by
  unfold State.endFiring
  repeat' first
    | with_reducible assumption | (intro x; have hx : FatalKept s0 x := ?hk; clear_value x; case' hk => subst x)
    | (intro x; subst x) | intro _ | with_reducible apply State.modKln_fkept | with_reducible apply State.complete_fkept
    | (rewrite [State.mk_eq_ofB]; with_reducible refine FatalKept.put ?_) | lift_lets -underBinder | dsimp -zeta only
    | split

theorem State.abortFiring_fkept {s0 s : State} (g : Nat) (code : Option Nat) (item : Nat) (hk0 : FatalKept s0 s) :
    FatalKept s0 (State.abortFiring s g code item) := by
  unfold State.abortFiring
  repeat' first
    | with_reducible assumption | (intro x; have hx : FatalKept s0 x := ?hk; clear_value x; case' hk => subst x)
    | (intro x; subst x) | intro _ | with_reducible apply FatalKept.ite | with_reducible apply State.bump_fkept
    | with_reducible apply State.klnRecord_fkept | with_reducible apply State.endFiring_fkept | lift_lets -underBinder
    | dsimp -zeta only | split

theorem State.portsOff_fkept {s0 s : State} (hk0 : FatalKept s0 s) :
    FatalKept s0 (State.portsOff s) := by
  unfold State.portsOff
  repeat' first
    | with_reducible assumption | intro _ | with_reducible apply FatalKept.ite | with_reducible apply State.each_fkept
    | with_reducible apply State.portOff_fkept | dsimp -zeta only | split

theorem State.linksDown_fkept {s0 s : State} (hk0 : FatalKept s0 s) :
    FatalKept s0 (State.linksDown s) := by
  unfold State.linksDown
  repeat' first
    | with_reducible assumption | (rewrite [State.mk_eq_ofB]; with_reducible refine FatalKept.put ?_) | dsimp -zeta only
    | split

theorem State.recoverResult_fkept {s0 s : State} (n : Nat) (hk0 : FatalKept s0 s) :
    FatalKept s0 (State.recoverResult s n) := by
  unfold State.recoverResult
  repeat' first
    | with_reducible assumption | with_reducible apply State.putFld_fkept | split

theorem State.recoverRefused_fkept {s0 s : State} (op : Nat) (n : Nat) (hk0 : FatalKept s0 s) :
    FatalKept s0 (State.recoverRefused s op n) := by
  unfold State.recoverRefused
  repeat' first
    | with_reducible assumption | with_reducible apply State.recoverResult_fkept
    | with_reducible apply State.record_fkept | split

theorem State.strikeFiring_fkept {s0 s : State} (g : Nat) (hk0 : FatalKept s0 s) :
    FatalKept s0 (State.strikeFiring s g) := by
  unfold State.strikeFiring
  repeat' first
    | with_reducible assumption | (intro x; have hx : FatalKept s0 x := ?hk; clear_value x; case' hk => subst x)
    | (intro x; subst x) | intro _ | with_reducible apply FatalKept.ite | with_reducible apply State.abortFiring_fkept
    | with_reducible apply State.modCol_fkept | with_reducible apply State.each_fkept
    | with_reducible apply State.complete_fkept | (rewrite [State.mk_eq_ofB]; with_reducible refine FatalKept.put ?_)
    | lift_lets -underBinder | dsimp -zeta only | split

theorem State.dropBatch_fkept {s0 s : State} (hk0 : FatalKept s0 s) :
    FatalKept s0 (State.dropBatch s) := by
  unfold State.dropBatch
  repeat' first
    | with_reducible assumption | (intro x; have hx : FatalKept s0 x := ?hk; clear_value x; case' hk => subst x)
    | (intro x; subst x) | intro _ | with_reducible apply FatalKept.ite | with_reducible apply State.each_fkept
    | with_reducible apply State.modChannel_fkept | (rewrite [State.mk_eq_ofB]; with_reducible refine FatalKept.put ?_)
    | lift_lets -underBinder | dsimp -zeta only | split

theorem State.ashEntry_fkept {s0 s : State} (ctrlUe : Bool) (overtemp : Bool) (hk0 : FatalKept s0 s) :
    FatalKept s0 (State.ashEntry s ctrlUe overtemp) := by
  unfold State.ashEntry
  repeat' first
    | with_reducible assumption | (intro x; have hx : FatalKept s0 x := ?hk; clear_value x; case' hk => subst x)
    | (intro x; subst x) | intro _ | split | with_reducible apply FatalKept.ite
    | with_reducible apply State.recoverRefused_fkept | with_reducible apply State.each_fkept
    | with_reducible apply State.strikeFiring_fkept | with_reducible apply State.flushBuffers_fkept
    | with_reducible apply State.portsOff_fkept | with_reducible apply State.linksDown_fkept
    | with_reducible apply State.dropBatch_fkept | with_reducible apply State.putFld_fkept
    | (rewrite [State.mk_eq_ofB]; with_reducible refine FatalKept.putW ?_ id id (Nat.le_refl _) (Nat.le_refl _) (List.prefix_refl _) (Nat.le_refl _) (Nat.le_refl _) (fun _ => StartState.right_ash _ _))
    | (rewrite [State.mk_eq_ofB]; with_reducible refine FatalKept.putW ?_ id id (Nat.le_refl _) (Nat.le_refl _) (List.prefix_refl _) (Nat.le_refl _) (Nat.le_refl _) (StartState.right_therm _ (by assumption)))
    | (rewrite [State.mk_eq_ofB]; with_reducible refine FatalKept.put ?_) | lift_lets -underBinder | dsimp -zeta only
    | split

end Sys2Proof.Machine
end

