-- ==== Sys2Proof/Laws/Noted.lean ====
section
/-! SUPPORT. Writing registers, records and interrupts changes the register window, the watch, the startup state's causes
and the interrupt list, and nothing else: `Noted`, and one lemma per operation and field. -/
set_option Elab.async false
set_option linter.unusedTactic false
set_option linter.unreachableTactic false
set_option linter.unnecessarySeqFocus false
namespace Sys2Proof.Machine

/-- The state b differs from a in the register window, the watch, the startup state and the interrupts only. -/
structure Noted (a b : State) : Prop where
  pending : b.pending = a.pending
  aonUs : b.aonUs = a.aonUs
  outbox : b.outbox = a.outbox
  freeCtr : b.freeCtr = a.freeCtr
  pageMap : b.pageMap = a.pageMap
  grv : b.grv = a.grv
  hrt : b.hrt = a.hrt
  sch : b.sch = a.sch
  num : b.num = a.num
  smp : b.smp = a.smp
  gth : b.gth = a.gth
  emb : b.emb = a.emb
  til : b.til = a.til
  mem : b.mem = a.mem
  lnk : b.lnk = a.lnk
  col : b.col = a.col
  upd : b.upd = a.upd
  kln : b.kln = a.kln
  clk : b.clk = a.clk
  hwd : b.hwd = a.hwd
  pkg : b.pkg = a.pkg

theorem Noted.refl (a : State) : Noted a a := by constructor <;> rfl

/-- A state with the fields that records change replaced. -/
def State.noteB (b : State) (regs : Tbl Word) (irqs : List Nat) (wch : WatchState) (sup : StartState) : State :=
  { b with regs := regs, irqs := irqs, wch := wch, sup := sup }

theorem State.mk_eq_noteB (b : State) (regs : Tbl Word) (irqs : List Nat) (wch : WatchState) (sup : StartState) :
    State.mk b.pending regs b.aonUs b.outbox irqs b.freeCtr b.pageMap b.grv b.hrt b.sch b.num b.smp b.gth b.emb b.til b.mem b.lnk b.col b.upd wch b.kln b.clk b.hwd sup b.pkg =
    b.noteB regs irqs wch sup := rfl

theorem Noted.put {a b : State} {regs : Tbl Word} {irqs : List Nat} {wch : WatchState} {sup : StartState}
    (h : Noted a b) : Noted a (b.noteB regs irqs wch sup) := by cases h; constructor <;> assumption

theorem Noted.ite {a b c : State} {p : Prop} [Decidable p] (h : Noted a b) (k : Noted a c) :
    Noted a (if p then b else c) := by split <;> assumption

theorem Noted.each {α : Type} {a s : State} (l : List α) {f : State → α → State} (h : Noted a s)
    (hf : ∀ b x, Noted a b → Noted a (f b x)) : Noted a (s.each l f) := by
  unfold State.each
  induction l generalizing s with
  | nil => exact h
  | cons x t ih => exact ih (hf _ x h)

theorem State.putReg_noted {s0 s : State} (r : Reg) (ix : List Nat) (v : Word) (hk0 : Noted s0 s) : Noted s0 (s.putReg r ix v) := by
  unfold State.putReg
  repeat' first
    | with_reducible assumption | (intro x; have hx : Noted s0 x := ?hk; clear_value x; case' hk => subst x)
    | (intro x; subst x) | intro _ | with_reducible apply Noted.ite | with_reducible apply Noted.each
    | (rewrite [State.mk_eq_noteB]; with_reducible refine Noted.put ?_) | lift_lets -underBinder | dsimp -zeta only
    | split

theorem State.putFld_noted {s0 s : State} (r : Reg) (ix : List Nat) (lo : Nat) (w : Nat) (x : Nat) (hk0 : Noted s0 s) : Noted s0 (s.putFld r ix lo w x) := by
  unfold State.putFld
  repeat' first
    | with_reducible assumption | (intro x; have hx : Noted s0 x := ?hk; clear_value x; case' hk => subst x)
    | (intro x; subst x) | intro _ | with_reducible apply Noted.ite | with_reducible apply Noted.each
    | with_reducible apply State.putReg_noted
    | (rewrite [State.mk_eq_noteB]; with_reducible refine Noted.put ?_) | lift_lets -underBinder | dsimp -zeta only
    | split

@[simp] theorem State.putFld_pending (s : State) (r : Reg) (ix : List Nat) (lo : Nat) (w : Nat) (x : Nat) : (s.putFld r ix lo w x).pending = s.pending :=
  (State.putFld_noted _ _ _ _ _ (Noted.refl s)).pending
@[simp] theorem State.putFld_aonUs (s : State) (r : Reg) (ix : List Nat) (lo : Nat) (w : Nat) (x : Nat) : (s.putFld r ix lo w x).aonUs = s.aonUs :=
  (State.putFld_noted _ _ _ _ _ (Noted.refl s)).aonUs
@[simp] theorem State.putFld_outbox (s : State) (r : Reg) (ix : List Nat) (lo : Nat) (w : Nat) (x : Nat) : (s.putFld r ix lo w x).outbox = s.outbox :=
  (State.putFld_noted _ _ _ _ _ (Noted.refl s)).outbox
@[simp] theorem State.putFld_freeCtr (s : State) (r : Reg) (ix : List Nat) (lo : Nat) (w : Nat) (x : Nat) : (s.putFld r ix lo w x).freeCtr = s.freeCtr :=
  (State.putFld_noted _ _ _ _ _ (Noted.refl s)).freeCtr
@[simp] theorem State.putFld_pageMap (s : State) (r : Reg) (ix : List Nat) (lo : Nat) (w : Nat) (x : Nat) : (s.putFld r ix lo w x).pageMap = s.pageMap :=
  (State.putFld_noted _ _ _ _ _ (Noted.refl s)).pageMap
@[simp] theorem State.putFld_grv (s : State) (r : Reg) (ix : List Nat) (lo : Nat) (w : Nat) (x : Nat) : (s.putFld r ix lo w x).grv = s.grv :=
  (State.putFld_noted _ _ _ _ _ (Noted.refl s)).grv
@[simp] theorem State.putFld_hrt (s : State) (r : Reg) (ix : List Nat) (lo : Nat) (w : Nat) (x : Nat) : (s.putFld r ix lo w x).hrt = s.hrt :=
  (State.putFld_noted _ _ _ _ _ (Noted.refl s)).hrt
@[simp] theorem State.putFld_sch (s : State) (r : Reg) (ix : List Nat) (lo : Nat) (w : Nat) (x : Nat) : (s.putFld r ix lo w x).sch = s.sch :=
  (State.putFld_noted _ _ _ _ _ (Noted.refl s)).sch
@[simp] theorem State.putFld_num (s : State) (r : Reg) (ix : List Nat) (lo : Nat) (w : Nat) (x : Nat) : (s.putFld r ix lo w x).num = s.num :=
  (State.putFld_noted _ _ _ _ _ (Noted.refl s)).num
@[simp] theorem State.putFld_smp (s : State) (r : Reg) (ix : List Nat) (lo : Nat) (w : Nat) (x : Nat) : (s.putFld r ix lo w x).smp = s.smp :=
  (State.putFld_noted _ _ _ _ _ (Noted.refl s)).smp
@[simp] theorem State.putFld_gth (s : State) (r : Reg) (ix : List Nat) (lo : Nat) (w : Nat) (x : Nat) : (s.putFld r ix lo w x).gth = s.gth :=
  (State.putFld_noted _ _ _ _ _ (Noted.refl s)).gth
@[simp] theorem State.putFld_emb (s : State) (r : Reg) (ix : List Nat) (lo : Nat) (w : Nat) (x : Nat) : (s.putFld r ix lo w x).emb = s.emb :=
  (State.putFld_noted _ _ _ _ _ (Noted.refl s)).emb
@[simp] theorem State.putFld_til (s : State) (r : Reg) (ix : List Nat) (lo : Nat) (w : Nat) (x : Nat) : (s.putFld r ix lo w x).til = s.til :=
  (State.putFld_noted _ _ _ _ _ (Noted.refl s)).til
@[simp] theorem State.putFld_mem (s : State) (r : Reg) (ix : List Nat) (lo : Nat) (w : Nat) (x : Nat) : (s.putFld r ix lo w x).mem = s.mem :=
  (State.putFld_noted _ _ _ _ _ (Noted.refl s)).mem
@[simp] theorem State.putFld_lnk (s : State) (r : Reg) (ix : List Nat) (lo : Nat) (w : Nat) (x : Nat) : (s.putFld r ix lo w x).lnk = s.lnk :=
  (State.putFld_noted _ _ _ _ _ (Noted.refl s)).lnk
@[simp] theorem State.putFld_col (s : State) (r : Reg) (ix : List Nat) (lo : Nat) (w : Nat) (x : Nat) : (s.putFld r ix lo w x).col = s.col :=
  (State.putFld_noted _ _ _ _ _ (Noted.refl s)).col
@[simp] theorem State.putFld_upd (s : State) (r : Reg) (ix : List Nat) (lo : Nat) (w : Nat) (x : Nat) : (s.putFld r ix lo w x).upd = s.upd :=
  (State.putFld_noted _ _ _ _ _ (Noted.refl s)).upd
@[simp] theorem State.putFld_kln (s : State) (r : Reg) (ix : List Nat) (lo : Nat) (w : Nat) (x : Nat) : (s.putFld r ix lo w x).kln = s.kln :=
  (State.putFld_noted _ _ _ _ _ (Noted.refl s)).kln
@[simp] theorem State.putFld_clk (s : State) (r : Reg) (ix : List Nat) (lo : Nat) (w : Nat) (x : Nat) : (s.putFld r ix lo w x).clk = s.clk :=
  (State.putFld_noted _ _ _ _ _ (Noted.refl s)).clk
@[simp] theorem State.putFld_hwd (s : State) (r : Reg) (ix : List Nat) (lo : Nat) (w : Nat) (x : Nat) : (s.putFld r ix lo w x).hwd = s.hwd :=
  (State.putFld_noted _ _ _ _ _ (Noted.refl s)).hwd
@[simp] theorem State.putFld_pkg (s : State) (r : Reg) (ix : List Nat) (lo : Nat) (w : Nat) (x : Nat) : (s.putFld r ix lo w x).pkg = s.pkg :=
  (State.putFld_noted _ _ _ _ _ (Noted.refl s)).pkg

theorem State.resetReg_noted {s0 s : State} (r : Reg) (ix : List Nat) (hk0 : Noted s0 s) : Noted s0 (s.resetReg r ix) := by
  unfold State.resetReg
  repeat' first
    | with_reducible assumption | (intro x; have hx : Noted s0 x := ?hk; clear_value x; case' hk => subst x)
    | (intro x; subst x) | intro _ | with_reducible apply Noted.ite | with_reducible apply Noted.each
    | (rewrite [State.mk_eq_noteB]; with_reducible refine Noted.put ?_) | lift_lets -underBinder | dsimp -zeta only
    | split

theorem State.softWrite_noted {s0 s : State} (r : Reg) (ix : List Nat) (v : Word) (hk0 : Noted s0 s) : Noted s0 (s.softWrite r ix v) := by
  unfold State.softWrite
  repeat' first
    | with_reducible assumption | (intro x; have hx : Noted s0 x := ?hk; clear_value x; case' hk => subst x)
    | (intro x; subst x) | intro _ | with_reducible apply Noted.ite | with_reducible apply Noted.each
    | with_reducible apply State.putReg_noted
    | (rewrite [State.mk_eq_noteB]; with_reducible refine Noted.put ?_) | lift_lets -underBinder | dsimp -zeta only
    | split

@[simp] theorem State.softWrite_pending (s : State) (r : Reg) (ix : List Nat) (v : Word) : (s.softWrite r ix v).pending = s.pending :=
  (State.softWrite_noted _ _ _ (Noted.refl s)).pending
@[simp] theorem State.softWrite_aonUs (s : State) (r : Reg) (ix : List Nat) (v : Word) : (s.softWrite r ix v).aonUs = s.aonUs :=
  (State.softWrite_noted _ _ _ (Noted.refl s)).aonUs
@[simp] theorem State.softWrite_outbox (s : State) (r : Reg) (ix : List Nat) (v : Word) : (s.softWrite r ix v).outbox = s.outbox :=
  (State.softWrite_noted _ _ _ (Noted.refl s)).outbox
@[simp] theorem State.softWrite_freeCtr (s : State) (r : Reg) (ix : List Nat) (v : Word) : (s.softWrite r ix v).freeCtr = s.freeCtr :=
  (State.softWrite_noted _ _ _ (Noted.refl s)).freeCtr
@[simp] theorem State.softWrite_pageMap (s : State) (r : Reg) (ix : List Nat) (v : Word) : (s.softWrite r ix v).pageMap = s.pageMap :=
  (State.softWrite_noted _ _ _ (Noted.refl s)).pageMap
@[simp] theorem State.softWrite_grv (s : State) (r : Reg) (ix : List Nat) (v : Word) : (s.softWrite r ix v).grv = s.grv :=
  (State.softWrite_noted _ _ _ (Noted.refl s)).grv
@[simp] theorem State.softWrite_hrt (s : State) (r : Reg) (ix : List Nat) (v : Word) : (s.softWrite r ix v).hrt = s.hrt :=
  (State.softWrite_noted _ _ _ (Noted.refl s)).hrt
@[simp] theorem State.softWrite_sch (s : State) (r : Reg) (ix : List Nat) (v : Word) : (s.softWrite r ix v).sch = s.sch :=
  (State.softWrite_noted _ _ _ (Noted.refl s)).sch
@[simp] theorem State.softWrite_num (s : State) (r : Reg) (ix : List Nat) (v : Word) : (s.softWrite r ix v).num = s.num :=
  (State.softWrite_noted _ _ _ (Noted.refl s)).num
@[simp] theorem State.softWrite_smp (s : State) (r : Reg) (ix : List Nat) (v : Word) : (s.softWrite r ix v).smp = s.smp :=
  (State.softWrite_noted _ _ _ (Noted.refl s)).smp
@[simp] theorem State.softWrite_gth (s : State) (r : Reg) (ix : List Nat) (v : Word) : (s.softWrite r ix v).gth = s.gth :=
  (State.softWrite_noted _ _ _ (Noted.refl s)).gth
@[simp] theorem State.softWrite_emb (s : State) (r : Reg) (ix : List Nat) (v : Word) : (s.softWrite r ix v).emb = s.emb :=
  (State.softWrite_noted _ _ _ (Noted.refl s)).emb
@[simp] theorem State.softWrite_til (s : State) (r : Reg) (ix : List Nat) (v : Word) : (s.softWrite r ix v).til = s.til :=
  (State.softWrite_noted _ _ _ (Noted.refl s)).til
@[simp] theorem State.softWrite_mem (s : State) (r : Reg) (ix : List Nat) (v : Word) : (s.softWrite r ix v).mem = s.mem :=
  (State.softWrite_noted _ _ _ (Noted.refl s)).mem
@[simp] theorem State.softWrite_lnk (s : State) (r : Reg) (ix : List Nat) (v : Word) : (s.softWrite r ix v).lnk = s.lnk :=
  (State.softWrite_noted _ _ _ (Noted.refl s)).lnk
@[simp] theorem State.softWrite_col (s : State) (r : Reg) (ix : List Nat) (v : Word) : (s.softWrite r ix v).col = s.col :=
  (State.softWrite_noted _ _ _ (Noted.refl s)).col
@[simp] theorem State.softWrite_upd (s : State) (r : Reg) (ix : List Nat) (v : Word) : (s.softWrite r ix v).upd = s.upd :=
  (State.softWrite_noted _ _ _ (Noted.refl s)).upd
@[simp] theorem State.softWrite_kln (s : State) (r : Reg) (ix : List Nat) (v : Word) : (s.softWrite r ix v).kln = s.kln :=
  (State.softWrite_noted _ _ _ (Noted.refl s)).kln
@[simp] theorem State.softWrite_clk (s : State) (r : Reg) (ix : List Nat) (v : Word) : (s.softWrite r ix v).clk = s.clk :=
  (State.softWrite_noted _ _ _ (Noted.refl s)).clk
@[simp] theorem State.softWrite_hwd (s : State) (r : Reg) (ix : List Nat) (v : Word) : (s.softWrite r ix v).hwd = s.hwd :=
  (State.softWrite_noted _ _ _ (Noted.refl s)).hwd
@[simp] theorem State.softWrite_pkg (s : State) (r : Reg) (ix : List Nat) (v : Word) : (s.softWrite r ix v).pkg = s.pkg :=
  (State.softWrite_noted _ _ _ (Noted.refl s)).pkg

theorem State.notify_noted {s0 s : State} (sev : Sev) (hk0 : Noted s0 s) : Noted s0 (s.notify sev) := by
  unfold State.notify
  repeat' first
    | with_reducible assumption | (intro x; have hx : Noted s0 x := ?hk; clear_value x; case' hk => subst x)
    | (intro x; subst x) | intro _ | with_reducible apply Noted.ite | with_reducible apply Noted.each
    | (rewrite [State.mk_eq_noteB]; with_reducible refine Noted.put ?_) | lift_lets -underBinder | dsimp -zeta only
    | split

@[simp] theorem State.notify_pending (s : State) (sev : Sev) : (s.notify sev).pending = s.pending :=
  (State.notify_noted _ (Noted.refl s)).pending
@[simp] theorem State.notify_aonUs (s : State) (sev : Sev) : (s.notify sev).aonUs = s.aonUs :=
  (State.notify_noted _ (Noted.refl s)).aonUs
@[simp] theorem State.notify_outbox (s : State) (sev : Sev) : (s.notify sev).outbox = s.outbox :=
  (State.notify_noted _ (Noted.refl s)).outbox
@[simp] theorem State.notify_freeCtr (s : State) (sev : Sev) : (s.notify sev).freeCtr = s.freeCtr :=
  (State.notify_noted _ (Noted.refl s)).freeCtr
@[simp] theorem State.notify_pageMap (s : State) (sev : Sev) : (s.notify sev).pageMap = s.pageMap :=
  (State.notify_noted _ (Noted.refl s)).pageMap
@[simp] theorem State.notify_grv (s : State) (sev : Sev) : (s.notify sev).grv = s.grv :=
  (State.notify_noted _ (Noted.refl s)).grv
@[simp] theorem State.notify_hrt (s : State) (sev : Sev) : (s.notify sev).hrt = s.hrt :=
  (State.notify_noted _ (Noted.refl s)).hrt
@[simp] theorem State.notify_sch (s : State) (sev : Sev) : (s.notify sev).sch = s.sch :=
  (State.notify_noted _ (Noted.refl s)).sch
@[simp] theorem State.notify_num (s : State) (sev : Sev) : (s.notify sev).num = s.num :=
  (State.notify_noted _ (Noted.refl s)).num
@[simp] theorem State.notify_smp (s : State) (sev : Sev) : (s.notify sev).smp = s.smp :=
  (State.notify_noted _ (Noted.refl s)).smp
@[simp] theorem State.notify_gth (s : State) (sev : Sev) : (s.notify sev).gth = s.gth :=
  (State.notify_noted _ (Noted.refl s)).gth
@[simp] theorem State.notify_emb (s : State) (sev : Sev) : (s.notify sev).emb = s.emb :=
  (State.notify_noted _ (Noted.refl s)).emb
@[simp] theorem State.notify_til (s : State) (sev : Sev) : (s.notify sev).til = s.til :=
  (State.notify_noted _ (Noted.refl s)).til
@[simp] theorem State.notify_mem (s : State) (sev : Sev) : (s.notify sev).mem = s.mem :=
  (State.notify_noted _ (Noted.refl s)).mem
@[simp] theorem State.notify_lnk (s : State) (sev : Sev) : (s.notify sev).lnk = s.lnk :=
  (State.notify_noted _ (Noted.refl s)).lnk
@[simp] theorem State.notify_col (s : State) (sev : Sev) : (s.notify sev).col = s.col :=
  (State.notify_noted _ (Noted.refl s)).col
@[simp] theorem State.notify_upd (s : State) (sev : Sev) : (s.notify sev).upd = s.upd :=
  (State.notify_noted _ (Noted.refl s)).upd
@[simp] theorem State.notify_kln (s : State) (sev : Sev) : (s.notify sev).kln = s.kln :=
  (State.notify_noted _ (Noted.refl s)).kln
@[simp] theorem State.notify_clk (s : State) (sev : Sev) : (s.notify sev).clk = s.clk :=
  (State.notify_noted _ (Noted.refl s)).clk
@[simp] theorem State.notify_hwd (s : State) (sev : Sev) : (s.notify sev).hwd = s.hwd :=
  (State.notify_noted _ (Noted.refl s)).hwd
@[simp] theorem State.notify_pkg (s : State) (sev : Sev) : (s.notify sev).pkg = s.pkg :=
  (State.notify_noted _ (Noted.refl s)).pkg

theorem State.keepFatal_noted {s0 s : State} (r : LogRec) (hk0 : Noted s0 s) : Noted s0 (s.keepFatal r) := by
  unfold State.keepFatal
  repeat' first
    | with_reducible assumption | (intro x; have hx : Noted s0 x := ?hk; clear_value x; case' hk => subst x)
    | (intro x; subst x) | intro _ | with_reducible apply Noted.ite | with_reducible apply Noted.each
    | (rewrite [State.mk_eq_noteB]; with_reducible refine Noted.put ?_) | lift_lets -underBinder | dsimp -zeta only
    | split

@[simp] theorem State.keepFatal_pending (s : State) (r : LogRec) : (s.keepFatal r).pending = s.pending :=
  (State.keepFatal_noted _ (Noted.refl s)).pending
@[simp] theorem State.keepFatal_aonUs (s : State) (r : LogRec) : (s.keepFatal r).aonUs = s.aonUs :=
  (State.keepFatal_noted _ (Noted.refl s)).aonUs
@[simp] theorem State.keepFatal_outbox (s : State) (r : LogRec) : (s.keepFatal r).outbox = s.outbox :=
  (State.keepFatal_noted _ (Noted.refl s)).outbox
@[simp] theorem State.keepFatal_freeCtr (s : State) (r : LogRec) : (s.keepFatal r).freeCtr = s.freeCtr :=
  (State.keepFatal_noted _ (Noted.refl s)).freeCtr
@[simp] theorem State.keepFatal_pageMap (s : State) (r : LogRec) : (s.keepFatal r).pageMap = s.pageMap :=
  (State.keepFatal_noted _ (Noted.refl s)).pageMap
@[simp] theorem State.keepFatal_grv (s : State) (r : LogRec) : (s.keepFatal r).grv = s.grv :=
  (State.keepFatal_noted _ (Noted.refl s)).grv
@[simp] theorem State.keepFatal_hrt (s : State) (r : LogRec) : (s.keepFatal r).hrt = s.hrt :=
  (State.keepFatal_noted _ (Noted.refl s)).hrt
@[simp] theorem State.keepFatal_sch (s : State) (r : LogRec) : (s.keepFatal r).sch = s.sch :=
  (State.keepFatal_noted _ (Noted.refl s)).sch
@[simp] theorem State.keepFatal_num (s : State) (r : LogRec) : (s.keepFatal r).num = s.num :=
  (State.keepFatal_noted _ (Noted.refl s)).num
@[simp] theorem State.keepFatal_smp (s : State) (r : LogRec) : (s.keepFatal r).smp = s.smp :=
  (State.keepFatal_noted _ (Noted.refl s)).smp
@[simp] theorem State.keepFatal_gth (s : State) (r : LogRec) : (s.keepFatal r).gth = s.gth :=
  (State.keepFatal_noted _ (Noted.refl s)).gth
@[simp] theorem State.keepFatal_emb (s : State) (r : LogRec) : (s.keepFatal r).emb = s.emb :=
  (State.keepFatal_noted _ (Noted.refl s)).emb
@[simp] theorem State.keepFatal_til (s : State) (r : LogRec) : (s.keepFatal r).til = s.til :=
  (State.keepFatal_noted _ (Noted.refl s)).til
@[simp] theorem State.keepFatal_mem (s : State) (r : LogRec) : (s.keepFatal r).mem = s.mem :=
  (State.keepFatal_noted _ (Noted.refl s)).mem
@[simp] theorem State.keepFatal_lnk (s : State) (r : LogRec) : (s.keepFatal r).lnk = s.lnk :=
  (State.keepFatal_noted _ (Noted.refl s)).lnk
@[simp] theorem State.keepFatal_col (s : State) (r : LogRec) : (s.keepFatal r).col = s.col :=
  (State.keepFatal_noted _ (Noted.refl s)).col
@[simp] theorem State.keepFatal_upd (s : State) (r : LogRec) : (s.keepFatal r).upd = s.upd :=
  (State.keepFatal_noted _ (Noted.refl s)).upd
@[simp] theorem State.keepFatal_kln (s : State) (r : LogRec) : (s.keepFatal r).kln = s.kln :=
  (State.keepFatal_noted _ (Noted.refl s)).kln
@[simp] theorem State.keepFatal_clk (s : State) (r : LogRec) : (s.keepFatal r).clk = s.clk :=
  (State.keepFatal_noted _ (Noted.refl s)).clk
@[simp] theorem State.keepFatal_hwd (s : State) (r : LogRec) : (s.keepFatal r).hwd = s.hwd :=
  (State.keepFatal_noted _ (Noted.refl s)).hwd
@[simp] theorem State.keepFatal_pkg (s : State) (r : LogRec) : (s.keepFatal r).pkg = s.pkg :=
  (State.keepFatal_noted _ (Noted.refl s)).pkg

theorem State.logRec_noted {s0 s : State} (r : LogRec) (hk0 : Noted s0 s) : Noted s0 (s.logRec r) := by
  unfold State.logRec
  repeat' first
    | with_reducible assumption | (intro x; have hx : Noted s0 x := ?hk; clear_value x; case' hk => subst x)
    | (intro x; subst x) | intro _ | with_reducible apply Noted.ite | with_reducible apply Noted.each
    | with_reducible apply State.putReg_noted
    | with_reducible apply State.putFld_noted
    | with_reducible apply State.notify_noted
    | with_reducible apply State.keepFatal_noted
    | (rewrite [State.mk_eq_noteB]; with_reducible refine Noted.put ?_) | lift_lets -underBinder | dsimp -zeta only
    | split

@[simp] theorem State.logRec_pending (s : State) (r : LogRec) : (s.logRec r).pending = s.pending :=
  (State.logRec_noted _ (Noted.refl s)).pending
@[simp] theorem State.logRec_aonUs (s : State) (r : LogRec) : (s.logRec r).aonUs = s.aonUs :=
  (State.logRec_noted _ (Noted.refl s)).aonUs
@[simp] theorem State.logRec_outbox (s : State) (r : LogRec) : (s.logRec r).outbox = s.outbox :=
  (State.logRec_noted _ (Noted.refl s)).outbox
@[simp] theorem State.logRec_freeCtr (s : State) (r : LogRec) : (s.logRec r).freeCtr = s.freeCtr :=
  (State.logRec_noted _ (Noted.refl s)).freeCtr
@[simp] theorem State.logRec_pageMap (s : State) (r : LogRec) : (s.logRec r).pageMap = s.pageMap :=
  (State.logRec_noted _ (Noted.refl s)).pageMap
@[simp] theorem State.logRec_grv (s : State) (r : LogRec) : (s.logRec r).grv = s.grv :=
  (State.logRec_noted _ (Noted.refl s)).grv
@[simp] theorem State.logRec_hrt (s : State) (r : LogRec) : (s.logRec r).hrt = s.hrt :=
  (State.logRec_noted _ (Noted.refl s)).hrt
@[simp] theorem State.logRec_sch (s : State) (r : LogRec) : (s.logRec r).sch = s.sch :=
  (State.logRec_noted _ (Noted.refl s)).sch
@[simp] theorem State.logRec_num (s : State) (r : LogRec) : (s.logRec r).num = s.num :=
  (State.logRec_noted _ (Noted.refl s)).num
@[simp] theorem State.logRec_smp (s : State) (r : LogRec) : (s.logRec r).smp = s.smp :=
  (State.logRec_noted _ (Noted.refl s)).smp
@[simp] theorem State.logRec_gth (s : State) (r : LogRec) : (s.logRec r).gth = s.gth :=
  (State.logRec_noted _ (Noted.refl s)).gth
@[simp] theorem State.logRec_emb (s : State) (r : LogRec) : (s.logRec r).emb = s.emb :=
  (State.logRec_noted _ (Noted.refl s)).emb
@[simp] theorem State.logRec_til (s : State) (r : LogRec) : (s.logRec r).til = s.til :=
  (State.logRec_noted _ (Noted.refl s)).til
@[simp] theorem State.logRec_mem (s : State) (r : LogRec) : (s.logRec r).mem = s.mem :=
  (State.logRec_noted _ (Noted.refl s)).mem
@[simp] theorem State.logRec_lnk (s : State) (r : LogRec) : (s.logRec r).lnk = s.lnk :=
  (State.logRec_noted _ (Noted.refl s)).lnk
@[simp] theorem State.logRec_col (s : State) (r : LogRec) : (s.logRec r).col = s.col :=
  (State.logRec_noted _ (Noted.refl s)).col
@[simp] theorem State.logRec_upd (s : State) (r : LogRec) : (s.logRec r).upd = s.upd :=
  (State.logRec_noted _ (Noted.refl s)).upd
@[simp] theorem State.logRec_kln (s : State) (r : LogRec) : (s.logRec r).kln = s.kln :=
  (State.logRec_noted _ (Noted.refl s)).kln
@[simp] theorem State.logRec_clk (s : State) (r : LogRec) : (s.logRec r).clk = s.clk :=
  (State.logRec_noted _ (Noted.refl s)).clk
@[simp] theorem State.logRec_hwd (s : State) (r : LogRec) : (s.logRec r).hwd = s.hwd :=
  (State.logRec_noted _ (Noted.refl s)).hwd
@[simp] theorem State.logRec_pkg (s : State) (r : LogRec) : (s.logRec r).pkg = s.pkg :=
  (State.logRec_noted _ (Noted.refl s)).pkg

theorem State.addHeat_noted {s0 s : State} (w : Nat) (g : Nat) (hk0 : Noted s0 s) : Noted s0 (s.addHeat w g) := by
  unfold State.addHeat
  repeat' first
    | with_reducible assumption | (intro x; have hx : Noted s0 x := ?hk; clear_value x; case' hk => subst x)
    | (intro x; subst x) | intro _ | with_reducible apply Noted.ite | with_reducible apply Noted.each
    | with_reducible apply State.putFld_noted
    | with_reducible apply State.logRec_noted
    | (rewrite [State.mk_eq_noteB]; with_reducible refine Noted.put ?_) | lift_lets -underBinder | dsimp -zeta only
    | split

@[simp] theorem State.addHeat_pending (s : State) (w : Nat) (g : Nat) : (s.addHeat w g).pending = s.pending :=
  (State.addHeat_noted _ _ (Noted.refl s)).pending
@[simp] theorem State.addHeat_aonUs (s : State) (w : Nat) (g : Nat) : (s.addHeat w g).aonUs = s.aonUs :=
  (State.addHeat_noted _ _ (Noted.refl s)).aonUs
@[simp] theorem State.addHeat_outbox (s : State) (w : Nat) (g : Nat) : (s.addHeat w g).outbox = s.outbox :=
  (State.addHeat_noted _ _ (Noted.refl s)).outbox
@[simp] theorem State.addHeat_freeCtr (s : State) (w : Nat) (g : Nat) : (s.addHeat w g).freeCtr = s.freeCtr :=
  (State.addHeat_noted _ _ (Noted.refl s)).freeCtr
@[simp] theorem State.addHeat_pageMap (s : State) (w : Nat) (g : Nat) : (s.addHeat w g).pageMap = s.pageMap :=
  (State.addHeat_noted _ _ (Noted.refl s)).pageMap
@[simp] theorem State.addHeat_grv (s : State) (w : Nat) (g : Nat) : (s.addHeat w g).grv = s.grv :=
  (State.addHeat_noted _ _ (Noted.refl s)).grv
@[simp] theorem State.addHeat_hrt (s : State) (w : Nat) (g : Nat) : (s.addHeat w g).hrt = s.hrt :=
  (State.addHeat_noted _ _ (Noted.refl s)).hrt
@[simp] theorem State.addHeat_sch (s : State) (w : Nat) (g : Nat) : (s.addHeat w g).sch = s.sch :=
  (State.addHeat_noted _ _ (Noted.refl s)).sch
@[simp] theorem State.addHeat_num (s : State) (w : Nat) (g : Nat) : (s.addHeat w g).num = s.num :=
  (State.addHeat_noted _ _ (Noted.refl s)).num
@[simp] theorem State.addHeat_smp (s : State) (w : Nat) (g : Nat) : (s.addHeat w g).smp = s.smp :=
  (State.addHeat_noted _ _ (Noted.refl s)).smp
@[simp] theorem State.addHeat_gth (s : State) (w : Nat) (g : Nat) : (s.addHeat w g).gth = s.gth :=
  (State.addHeat_noted _ _ (Noted.refl s)).gth
@[simp] theorem State.addHeat_emb (s : State) (w : Nat) (g : Nat) : (s.addHeat w g).emb = s.emb :=
  (State.addHeat_noted _ _ (Noted.refl s)).emb
@[simp] theorem State.addHeat_til (s : State) (w : Nat) (g : Nat) : (s.addHeat w g).til = s.til :=
  (State.addHeat_noted _ _ (Noted.refl s)).til
@[simp] theorem State.addHeat_mem (s : State) (w : Nat) (g : Nat) : (s.addHeat w g).mem = s.mem :=
  (State.addHeat_noted _ _ (Noted.refl s)).mem
@[simp] theorem State.addHeat_lnk (s : State) (w : Nat) (g : Nat) : (s.addHeat w g).lnk = s.lnk :=
  (State.addHeat_noted _ _ (Noted.refl s)).lnk
@[simp] theorem State.addHeat_col (s : State) (w : Nat) (g : Nat) : (s.addHeat w g).col = s.col :=
  (State.addHeat_noted _ _ (Noted.refl s)).col
@[simp] theorem State.addHeat_upd (s : State) (w : Nat) (g : Nat) : (s.addHeat w g).upd = s.upd :=
  (State.addHeat_noted _ _ (Noted.refl s)).upd
@[simp] theorem State.addHeat_kln (s : State) (w : Nat) (g : Nat) : (s.addHeat w g).kln = s.kln :=
  (State.addHeat_noted _ _ (Noted.refl s)).kln
@[simp] theorem State.addHeat_clk (s : State) (w : Nat) (g : Nat) : (s.addHeat w g).clk = s.clk :=
  (State.addHeat_noted _ _ (Noted.refl s)).clk
@[simp] theorem State.addHeat_hwd (s : State) (w : Nat) (g : Nat) : (s.addHeat w g).hwd = s.hwd :=
  (State.addHeat_noted _ _ (Noted.refl s)).hwd
@[simp] theorem State.addHeat_pkg (s : State) (w : Nat) (g : Nat) : (s.addHeat w g).pkg = s.pkg :=
  (State.addHeat_noted _ _ (Noted.refl s)).pkg

theorem State.heatOn_noted {s0 s : State} (w : Nat) (gs : List Nat) (hk0 : Noted s0 s) : Noted s0 (s.heatOn w gs) := by
  unfold State.heatOn
  repeat' first
    | with_reducible assumption | (intro x; have hx : Noted s0 x := ?hk; clear_value x; case' hk => subst x)
    | (intro x; subst x) | intro _ | with_reducible apply Noted.ite | with_reducible apply Noted.each
    | with_reducible apply State.addHeat_noted
    | (rewrite [State.mk_eq_noteB]; with_reducible refine Noted.put ?_) | lift_lets -underBinder | dsimp -zeta only
    | split

@[simp] theorem State.heatOn_pending (s : State) (w : Nat) (gs : List Nat) : (s.heatOn w gs).pending = s.pending :=
  (State.heatOn_noted _ _ (Noted.refl s)).pending
@[simp] theorem State.heatOn_aonUs (s : State) (w : Nat) (gs : List Nat) : (s.heatOn w gs).aonUs = s.aonUs :=
  (State.heatOn_noted _ _ (Noted.refl s)).aonUs
@[simp] theorem State.heatOn_outbox (s : State) (w : Nat) (gs : List Nat) : (s.heatOn w gs).outbox = s.outbox :=
  (State.heatOn_noted _ _ (Noted.refl s)).outbox
@[simp] theorem State.heatOn_freeCtr (s : State) (w : Nat) (gs : List Nat) : (s.heatOn w gs).freeCtr = s.freeCtr :=
  (State.heatOn_noted _ _ (Noted.refl s)).freeCtr
@[simp] theorem State.heatOn_pageMap (s : State) (w : Nat) (gs : List Nat) : (s.heatOn w gs).pageMap = s.pageMap :=
  (State.heatOn_noted _ _ (Noted.refl s)).pageMap
@[simp] theorem State.heatOn_grv (s : State) (w : Nat) (gs : List Nat) : (s.heatOn w gs).grv = s.grv :=
  (State.heatOn_noted _ _ (Noted.refl s)).grv
@[simp] theorem State.heatOn_hrt (s : State) (w : Nat) (gs : List Nat) : (s.heatOn w gs).hrt = s.hrt :=
  (State.heatOn_noted _ _ (Noted.refl s)).hrt
@[simp] theorem State.heatOn_sch (s : State) (w : Nat) (gs : List Nat) : (s.heatOn w gs).sch = s.sch :=
  (State.heatOn_noted _ _ (Noted.refl s)).sch
@[simp] theorem State.heatOn_num (s : State) (w : Nat) (gs : List Nat) : (s.heatOn w gs).num = s.num :=
  (State.heatOn_noted _ _ (Noted.refl s)).num
@[simp] theorem State.heatOn_smp (s : State) (w : Nat) (gs : List Nat) : (s.heatOn w gs).smp = s.smp :=
  (State.heatOn_noted _ _ (Noted.refl s)).smp
@[simp] theorem State.heatOn_gth (s : State) (w : Nat) (gs : List Nat) : (s.heatOn w gs).gth = s.gth :=
  (State.heatOn_noted _ _ (Noted.refl s)).gth
@[simp] theorem State.heatOn_emb (s : State) (w : Nat) (gs : List Nat) : (s.heatOn w gs).emb = s.emb :=
  (State.heatOn_noted _ _ (Noted.refl s)).emb
@[simp] theorem State.heatOn_til (s : State) (w : Nat) (gs : List Nat) : (s.heatOn w gs).til = s.til :=
  (State.heatOn_noted _ _ (Noted.refl s)).til
@[simp] theorem State.heatOn_mem (s : State) (w : Nat) (gs : List Nat) : (s.heatOn w gs).mem = s.mem :=
  (State.heatOn_noted _ _ (Noted.refl s)).mem
@[simp] theorem State.heatOn_lnk (s : State) (w : Nat) (gs : List Nat) : (s.heatOn w gs).lnk = s.lnk :=
  (State.heatOn_noted _ _ (Noted.refl s)).lnk
@[simp] theorem State.heatOn_col (s : State) (w : Nat) (gs : List Nat) : (s.heatOn w gs).col = s.col :=
  (State.heatOn_noted _ _ (Noted.refl s)).col
@[simp] theorem State.heatOn_upd (s : State) (w : Nat) (gs : List Nat) : (s.heatOn w gs).upd = s.upd :=
  (State.heatOn_noted _ _ (Noted.refl s)).upd
@[simp] theorem State.heatOn_kln (s : State) (w : Nat) (gs : List Nat) : (s.heatOn w gs).kln = s.kln :=
  (State.heatOn_noted _ _ (Noted.refl s)).kln
@[simp] theorem State.heatOn_clk (s : State) (w : Nat) (gs : List Nat) : (s.heatOn w gs).clk = s.clk :=
  (State.heatOn_noted _ _ (Noted.refl s)).clk
@[simp] theorem State.heatOn_hwd (s : State) (w : Nat) (gs : List Nat) : (s.heatOn w gs).hwd = s.hwd :=
  (State.heatOn_noted _ _ (Noted.refl s)).hwd
@[simp] theorem State.heatOn_pkg (s : State) (w : Nat) (gs : List Nat) : (s.heatOn w gs).pkg = s.pkg :=
  (State.heatOn_noted _ _ (Noted.refl s)).pkg

theorem State.record_noted {s0 s : State} (src : Src) (sev : Sev) (die : Nat) (code : Nat) (grove : Option Nat) (detail : Nat) (hk0 : Noted s0 s) : Noted s0 (s.record src sev die code grove detail) := by
  unfold State.record
  repeat' first
    | with_reducible assumption | (intro x; have hx : Noted s0 x := ?hk; clear_value x; case' hk => subst x)
    | (intro x; subst x) | intro _ | with_reducible apply Noted.ite | with_reducible apply Noted.each
    | with_reducible apply State.logRec_noted
    | with_reducible apply State.heatOn_noted
    | (rewrite [State.mk_eq_noteB]; with_reducible refine Noted.put ?_) | lift_lets -underBinder | dsimp -zeta only
    | split

@[simp] theorem State.record_pending (s : State) (src : Src) (sev : Sev) (die : Nat) (code : Nat) (grove : Option Nat) (detail : Nat) : (s.record src sev die code grove detail).pending = s.pending :=
  (State.record_noted _ _ _ _ _ _ (Noted.refl s)).pending
@[simp] theorem State.record_aonUs (s : State) (src : Src) (sev : Sev) (die : Nat) (code : Nat) (grove : Option Nat) (detail : Nat) : (s.record src sev die code grove detail).aonUs = s.aonUs :=
  (State.record_noted _ _ _ _ _ _ (Noted.refl s)).aonUs
@[simp] theorem State.record_outbox (s : State) (src : Src) (sev : Sev) (die : Nat) (code : Nat) (grove : Option Nat) (detail : Nat) : (s.record src sev die code grove detail).outbox = s.outbox :=
  (State.record_noted _ _ _ _ _ _ (Noted.refl s)).outbox
@[simp] theorem State.record_freeCtr (s : State) (src : Src) (sev : Sev) (die : Nat) (code : Nat) (grove : Option Nat) (detail : Nat) : (s.record src sev die code grove detail).freeCtr = s.freeCtr :=
  (State.record_noted _ _ _ _ _ _ (Noted.refl s)).freeCtr
@[simp] theorem State.record_pageMap (s : State) (src : Src) (sev : Sev) (die : Nat) (code : Nat) (grove : Option Nat) (detail : Nat) : (s.record src sev die code grove detail).pageMap = s.pageMap :=
  (State.record_noted _ _ _ _ _ _ (Noted.refl s)).pageMap
@[simp] theorem State.record_grv (s : State) (src : Src) (sev : Sev) (die : Nat) (code : Nat) (grove : Option Nat) (detail : Nat) : (s.record src sev die code grove detail).grv = s.grv :=
  (State.record_noted _ _ _ _ _ _ (Noted.refl s)).grv
@[simp] theorem State.record_hrt (s : State) (src : Src) (sev : Sev) (die : Nat) (code : Nat) (grove : Option Nat) (detail : Nat) : (s.record src sev die code grove detail).hrt = s.hrt :=
  (State.record_noted _ _ _ _ _ _ (Noted.refl s)).hrt
@[simp] theorem State.record_sch (s : State) (src : Src) (sev : Sev) (die : Nat) (code : Nat) (grove : Option Nat) (detail : Nat) : (s.record src sev die code grove detail).sch = s.sch :=
  (State.record_noted _ _ _ _ _ _ (Noted.refl s)).sch
@[simp] theorem State.record_num (s : State) (src : Src) (sev : Sev) (die : Nat) (code : Nat) (grove : Option Nat) (detail : Nat) : (s.record src sev die code grove detail).num = s.num :=
  (State.record_noted _ _ _ _ _ _ (Noted.refl s)).num
@[simp] theorem State.record_smp (s : State) (src : Src) (sev : Sev) (die : Nat) (code : Nat) (grove : Option Nat) (detail : Nat) : (s.record src sev die code grove detail).smp = s.smp :=
  (State.record_noted _ _ _ _ _ _ (Noted.refl s)).smp
@[simp] theorem State.record_gth (s : State) (src : Src) (sev : Sev) (die : Nat) (code : Nat) (grove : Option Nat) (detail : Nat) : (s.record src sev die code grove detail).gth = s.gth :=
  (State.record_noted _ _ _ _ _ _ (Noted.refl s)).gth
@[simp] theorem State.record_emb (s : State) (src : Src) (sev : Sev) (die : Nat) (code : Nat) (grove : Option Nat) (detail : Nat) : (s.record src sev die code grove detail).emb = s.emb :=
  (State.record_noted _ _ _ _ _ _ (Noted.refl s)).emb
@[simp] theorem State.record_til (s : State) (src : Src) (sev : Sev) (die : Nat) (code : Nat) (grove : Option Nat) (detail : Nat) : (s.record src sev die code grove detail).til = s.til :=
  (State.record_noted _ _ _ _ _ _ (Noted.refl s)).til
@[simp] theorem State.record_mem (s : State) (src : Src) (sev : Sev) (die : Nat) (code : Nat) (grove : Option Nat) (detail : Nat) : (s.record src sev die code grove detail).mem = s.mem :=
  (State.record_noted _ _ _ _ _ _ (Noted.refl s)).mem
@[simp] theorem State.record_lnk (s : State) (src : Src) (sev : Sev) (die : Nat) (code : Nat) (grove : Option Nat) (detail : Nat) : (s.record src sev die code grove detail).lnk = s.lnk :=
  (State.record_noted _ _ _ _ _ _ (Noted.refl s)).lnk
@[simp] theorem State.record_col (s : State) (src : Src) (sev : Sev) (die : Nat) (code : Nat) (grove : Option Nat) (detail : Nat) : (s.record src sev die code grove detail).col = s.col :=
  (State.record_noted _ _ _ _ _ _ (Noted.refl s)).col
@[simp] theorem State.record_upd (s : State) (src : Src) (sev : Sev) (die : Nat) (code : Nat) (grove : Option Nat) (detail : Nat) : (s.record src sev die code grove detail).upd = s.upd :=
  (State.record_noted _ _ _ _ _ _ (Noted.refl s)).upd
@[simp] theorem State.record_kln (s : State) (src : Src) (sev : Sev) (die : Nat) (code : Nat) (grove : Option Nat) (detail : Nat) : (s.record src sev die code grove detail).kln = s.kln :=
  (State.record_noted _ _ _ _ _ _ (Noted.refl s)).kln
@[simp] theorem State.record_clk (s : State) (src : Src) (sev : Sev) (die : Nat) (code : Nat) (grove : Option Nat) (detail : Nat) : (s.record src sev die code grove detail).clk = s.clk :=
  (State.record_noted _ _ _ _ _ _ (Noted.refl s)).clk
@[simp] theorem State.record_hwd (s : State) (src : Src) (sev : Sev) (die : Nat) (code : Nat) (grove : Option Nat) (detail : Nat) : (s.record src sev die code grove detail).hwd = s.hwd :=
  (State.record_noted _ _ _ _ _ _ (Noted.refl s)).hwd
@[simp] theorem State.record_pkg (s : State) (src : Src) (sev : Sev) (die : Nat) (code : Nat) (grove : Option Nat) (detail : Nat) : (s.record src sev die code grove detail).pkg = s.pkg :=
  (State.record_noted _ _ _ _ _ _ (Noted.refl s)).pkg

theorem State.bump_noted {s0 s : State} (r : Reg) (ix : List Nat) (n : Nat) (hk0 : Noted s0 s) : Noted s0 (s.bump r ix n) := by
  unfold State.bump
  repeat' first
    | with_reducible assumption | (intro x; have hx : Noted s0 x := ?hk; clear_value x; case' hk => subst x)
    | (intro x; subst x) | intro _ | with_reducible apply Noted.ite | with_reducible apply Noted.each
    | with_reducible apply State.putReg_noted
    | with_reducible apply State.record_noted
    | (rewrite [State.mk_eq_noteB]; with_reducible refine Noted.put ?_) | lift_lets -underBinder | dsimp -zeta only
    | split

@[simp] theorem State.bump_pending (s : State) (r : Reg) (ix : List Nat) (n : Nat) : (s.bump r ix n).pending = s.pending :=
  (State.bump_noted _ _ _ (Noted.refl s)).pending
@[simp] theorem State.bump_aonUs (s : State) (r : Reg) (ix : List Nat) (n : Nat) : (s.bump r ix n).aonUs = s.aonUs :=
  (State.bump_noted _ _ _ (Noted.refl s)).aonUs
@[simp] theorem State.bump_outbox (s : State) (r : Reg) (ix : List Nat) (n : Nat) : (s.bump r ix n).outbox = s.outbox :=
  (State.bump_noted _ _ _ (Noted.refl s)).outbox
@[simp] theorem State.bump_freeCtr (s : State) (r : Reg) (ix : List Nat) (n : Nat) : (s.bump r ix n).freeCtr = s.freeCtr :=
  (State.bump_noted _ _ _ (Noted.refl s)).freeCtr
@[simp] theorem State.bump_pageMap (s : State) (r : Reg) (ix : List Nat) (n : Nat) : (s.bump r ix n).pageMap = s.pageMap :=
  (State.bump_noted _ _ _ (Noted.refl s)).pageMap
@[simp] theorem State.bump_grv (s : State) (r : Reg) (ix : List Nat) (n : Nat) : (s.bump r ix n).grv = s.grv :=
  (State.bump_noted _ _ _ (Noted.refl s)).grv
@[simp] theorem State.bump_hrt (s : State) (r : Reg) (ix : List Nat) (n : Nat) : (s.bump r ix n).hrt = s.hrt :=
  (State.bump_noted _ _ _ (Noted.refl s)).hrt
@[simp] theorem State.bump_sch (s : State) (r : Reg) (ix : List Nat) (n : Nat) : (s.bump r ix n).sch = s.sch :=
  (State.bump_noted _ _ _ (Noted.refl s)).sch
@[simp] theorem State.bump_num (s : State) (r : Reg) (ix : List Nat) (n : Nat) : (s.bump r ix n).num = s.num :=
  (State.bump_noted _ _ _ (Noted.refl s)).num
@[simp] theorem State.bump_smp (s : State) (r : Reg) (ix : List Nat) (n : Nat) : (s.bump r ix n).smp = s.smp :=
  (State.bump_noted _ _ _ (Noted.refl s)).smp
@[simp] theorem State.bump_gth (s : State) (r : Reg) (ix : List Nat) (n : Nat) : (s.bump r ix n).gth = s.gth :=
  (State.bump_noted _ _ _ (Noted.refl s)).gth
@[simp] theorem State.bump_emb (s : State) (r : Reg) (ix : List Nat) (n : Nat) : (s.bump r ix n).emb = s.emb :=
  (State.bump_noted _ _ _ (Noted.refl s)).emb
@[simp] theorem State.bump_til (s : State) (r : Reg) (ix : List Nat) (n : Nat) : (s.bump r ix n).til = s.til :=
  (State.bump_noted _ _ _ (Noted.refl s)).til
@[simp] theorem State.bump_mem (s : State) (r : Reg) (ix : List Nat) (n : Nat) : (s.bump r ix n).mem = s.mem :=
  (State.bump_noted _ _ _ (Noted.refl s)).mem
@[simp] theorem State.bump_lnk (s : State) (r : Reg) (ix : List Nat) (n : Nat) : (s.bump r ix n).lnk = s.lnk :=
  (State.bump_noted _ _ _ (Noted.refl s)).lnk
@[simp] theorem State.bump_col (s : State) (r : Reg) (ix : List Nat) (n : Nat) : (s.bump r ix n).col = s.col :=
  (State.bump_noted _ _ _ (Noted.refl s)).col
@[simp] theorem State.bump_upd (s : State) (r : Reg) (ix : List Nat) (n : Nat) : (s.bump r ix n).upd = s.upd :=
  (State.bump_noted _ _ _ (Noted.refl s)).upd
@[simp] theorem State.bump_kln (s : State) (r : Reg) (ix : List Nat) (n : Nat) : (s.bump r ix n).kln = s.kln :=
  (State.bump_noted _ _ _ (Noted.refl s)).kln
@[simp] theorem State.bump_clk (s : State) (r : Reg) (ix : List Nat) (n : Nat) : (s.bump r ix n).clk = s.clk :=
  (State.bump_noted _ _ _ (Noted.refl s)).clk
@[simp] theorem State.bump_hwd (s : State) (r : Reg) (ix : List Nat) (n : Nat) : (s.bump r ix n).hwd = s.hwd :=
  (State.bump_noted _ _ _ (Noted.refl s)).hwd
@[simp] theorem State.bump_pkg (s : State) (r : Reg) (ix : List Nat) (n : Nat) : (s.bump r ix n).pkg = s.pkg :=
  (State.bump_noted _ _ _ (Noted.refl s)).pkg

theorem State.regAccess_noted {s0 s : State} (off : Nat) (kind : Nat) (hk0 : Noted s0 s) : Noted s0 (s.regAccess off kind) := by
  unfold State.regAccess
  repeat' first
    | with_reducible assumption | (intro x; have hx : Noted s0 x := ?hk; clear_value x; case' hk => subst x)
    | (intro x; subst x) | intro _ | with_reducible apply Noted.ite | with_reducible apply Noted.each
    | with_reducible apply State.record_noted
    | (rewrite [State.mk_eq_noteB]; with_reducible refine Noted.put ?_) | lift_lets -underBinder | dsimp -zeta only
    | split

@[simp] theorem State.regAccess_pending (s : State) (off : Nat) (kind : Nat) : (s.regAccess off kind).pending = s.pending :=
  (State.regAccess_noted _ _ (Noted.refl s)).pending
@[simp] theorem State.regAccess_aonUs (s : State) (off : Nat) (kind : Nat) : (s.regAccess off kind).aonUs = s.aonUs :=
  (State.regAccess_noted _ _ (Noted.refl s)).aonUs
@[simp] theorem State.regAccess_outbox (s : State) (off : Nat) (kind : Nat) : (s.regAccess off kind).outbox = s.outbox :=
  (State.regAccess_noted _ _ (Noted.refl s)).outbox
@[simp] theorem State.regAccess_freeCtr (s : State) (off : Nat) (kind : Nat) : (s.regAccess off kind).freeCtr = s.freeCtr :=
  (State.regAccess_noted _ _ (Noted.refl s)).freeCtr
@[simp] theorem State.regAccess_pageMap (s : State) (off : Nat) (kind : Nat) : (s.regAccess off kind).pageMap = s.pageMap :=
  (State.regAccess_noted _ _ (Noted.refl s)).pageMap
@[simp] theorem State.regAccess_grv (s : State) (off : Nat) (kind : Nat) : (s.regAccess off kind).grv = s.grv :=
  (State.regAccess_noted _ _ (Noted.refl s)).grv
@[simp] theorem State.regAccess_hrt (s : State) (off : Nat) (kind : Nat) : (s.regAccess off kind).hrt = s.hrt :=
  (State.regAccess_noted _ _ (Noted.refl s)).hrt
@[simp] theorem State.regAccess_sch (s : State) (off : Nat) (kind : Nat) : (s.regAccess off kind).sch = s.sch :=
  (State.regAccess_noted _ _ (Noted.refl s)).sch
@[simp] theorem State.regAccess_num (s : State) (off : Nat) (kind : Nat) : (s.regAccess off kind).num = s.num :=
  (State.regAccess_noted _ _ (Noted.refl s)).num
@[simp] theorem State.regAccess_smp (s : State) (off : Nat) (kind : Nat) : (s.regAccess off kind).smp = s.smp :=
  (State.regAccess_noted _ _ (Noted.refl s)).smp
@[simp] theorem State.regAccess_gth (s : State) (off : Nat) (kind : Nat) : (s.regAccess off kind).gth = s.gth :=
  (State.regAccess_noted _ _ (Noted.refl s)).gth
@[simp] theorem State.regAccess_emb (s : State) (off : Nat) (kind : Nat) : (s.regAccess off kind).emb = s.emb :=
  (State.regAccess_noted _ _ (Noted.refl s)).emb
@[simp] theorem State.regAccess_til (s : State) (off : Nat) (kind : Nat) : (s.regAccess off kind).til = s.til :=
  (State.regAccess_noted _ _ (Noted.refl s)).til
@[simp] theorem State.regAccess_mem (s : State) (off : Nat) (kind : Nat) : (s.regAccess off kind).mem = s.mem :=
  (State.regAccess_noted _ _ (Noted.refl s)).mem
@[simp] theorem State.regAccess_lnk (s : State) (off : Nat) (kind : Nat) : (s.regAccess off kind).lnk = s.lnk :=
  (State.regAccess_noted _ _ (Noted.refl s)).lnk
@[simp] theorem State.regAccess_col (s : State) (off : Nat) (kind : Nat) : (s.regAccess off kind).col = s.col :=
  (State.regAccess_noted _ _ (Noted.refl s)).col
@[simp] theorem State.regAccess_upd (s : State) (off : Nat) (kind : Nat) : (s.regAccess off kind).upd = s.upd :=
  (State.regAccess_noted _ _ (Noted.refl s)).upd
@[simp] theorem State.regAccess_kln (s : State) (off : Nat) (kind : Nat) : (s.regAccess off kind).kln = s.kln :=
  (State.regAccess_noted _ _ (Noted.refl s)).kln
@[simp] theorem State.regAccess_clk (s : State) (off : Nat) (kind : Nat) : (s.regAccess off kind).clk = s.clk :=
  (State.regAccess_noted _ _ (Noted.refl s)).clk
@[simp] theorem State.regAccess_hwd (s : State) (off : Nat) (kind : Nat) : (s.regAccess off kind).hwd = s.hwd :=
  (State.regAccess_noted _ _ (Noted.refl s)).hwd
@[simp] theorem State.regAccess_pkg (s : State) (off : Nat) (kind : Nat) : (s.regAccess off kind).pkg = s.pkg :=
  (State.regAccess_noted _ _ (Noted.refl s)).pkg

theorem State.refuseWrite_noted {s0 s : State} (r : Reg) (ix : List Nat) (hk0 : Noted s0 s) : Noted s0 (s.refuseWrite r ix) := by
  unfold State.refuseWrite
  repeat' first
    | with_reducible assumption | (intro x; have hx : Noted s0 x := ?hk; clear_value x; case' hk => subst x)
    | (intro x; subst x) | intro _ | with_reducible apply Noted.ite | with_reducible apply Noted.each
    | with_reducible apply State.regAccess_noted
    | (rewrite [State.mk_eq_noteB]; with_reducible refine Noted.put ?_) | lift_lets -underBinder | dsimp -zeta only
    | split

@[simp] theorem State.refuseWrite_pending (s : State) (r : Reg) (ix : List Nat) : (s.refuseWrite r ix).pending = s.pending :=
  (State.refuseWrite_noted _ _ (Noted.refl s)).pending
@[simp] theorem State.refuseWrite_aonUs (s : State) (r : Reg) (ix : List Nat) : (s.refuseWrite r ix).aonUs = s.aonUs :=
  (State.refuseWrite_noted _ _ (Noted.refl s)).aonUs
@[simp] theorem State.refuseWrite_outbox (s : State) (r : Reg) (ix : List Nat) : (s.refuseWrite r ix).outbox = s.outbox :=
  (State.refuseWrite_noted _ _ (Noted.refl s)).outbox
@[simp] theorem State.refuseWrite_freeCtr (s : State) (r : Reg) (ix : List Nat) : (s.refuseWrite r ix).freeCtr = s.freeCtr :=
  (State.refuseWrite_noted _ _ (Noted.refl s)).freeCtr
@[simp] theorem State.refuseWrite_pageMap (s : State) (r : Reg) (ix : List Nat) : (s.refuseWrite r ix).pageMap = s.pageMap :=
  (State.refuseWrite_noted _ _ (Noted.refl s)).pageMap
@[simp] theorem State.refuseWrite_grv (s : State) (r : Reg) (ix : List Nat) : (s.refuseWrite r ix).grv = s.grv :=
  (State.refuseWrite_noted _ _ (Noted.refl s)).grv
@[simp] theorem State.refuseWrite_hrt (s : State) (r : Reg) (ix : List Nat) : (s.refuseWrite r ix).hrt = s.hrt :=
  (State.refuseWrite_noted _ _ (Noted.refl s)).hrt
@[simp] theorem State.refuseWrite_sch (s : State) (r : Reg) (ix : List Nat) : (s.refuseWrite r ix).sch = s.sch :=
  (State.refuseWrite_noted _ _ (Noted.refl s)).sch
@[simp] theorem State.refuseWrite_num (s : State) (r : Reg) (ix : List Nat) : (s.refuseWrite r ix).num = s.num :=
  (State.refuseWrite_noted _ _ (Noted.refl s)).num
@[simp] theorem State.refuseWrite_smp (s : State) (r : Reg) (ix : List Nat) : (s.refuseWrite r ix).smp = s.smp :=
  (State.refuseWrite_noted _ _ (Noted.refl s)).smp
@[simp] theorem State.refuseWrite_gth (s : State) (r : Reg) (ix : List Nat) : (s.refuseWrite r ix).gth = s.gth :=
  (State.refuseWrite_noted _ _ (Noted.refl s)).gth
@[simp] theorem State.refuseWrite_emb (s : State) (r : Reg) (ix : List Nat) : (s.refuseWrite r ix).emb = s.emb :=
  (State.refuseWrite_noted _ _ (Noted.refl s)).emb
@[simp] theorem State.refuseWrite_til (s : State) (r : Reg) (ix : List Nat) : (s.refuseWrite r ix).til = s.til :=
  (State.refuseWrite_noted _ _ (Noted.refl s)).til
@[simp] theorem State.refuseWrite_mem (s : State) (r : Reg) (ix : List Nat) : (s.refuseWrite r ix).mem = s.mem :=
  (State.refuseWrite_noted _ _ (Noted.refl s)).mem
@[simp] theorem State.refuseWrite_lnk (s : State) (r : Reg) (ix : List Nat) : (s.refuseWrite r ix).lnk = s.lnk :=
  (State.refuseWrite_noted _ _ (Noted.refl s)).lnk
@[simp] theorem State.refuseWrite_col (s : State) (r : Reg) (ix : List Nat) : (s.refuseWrite r ix).col = s.col :=
  (State.refuseWrite_noted _ _ (Noted.refl s)).col
@[simp] theorem State.refuseWrite_upd (s : State) (r : Reg) (ix : List Nat) : (s.refuseWrite r ix).upd = s.upd :=
  (State.refuseWrite_noted _ _ (Noted.refl s)).upd
@[simp] theorem State.refuseWrite_kln (s : State) (r : Reg) (ix : List Nat) : (s.refuseWrite r ix).kln = s.kln :=
  (State.refuseWrite_noted _ _ (Noted.refl s)).kln
@[simp] theorem State.refuseWrite_clk (s : State) (r : Reg) (ix : List Nat) : (s.refuseWrite r ix).clk = s.clk :=
  (State.refuseWrite_noted _ _ (Noted.refl s)).clk
@[simp] theorem State.refuseWrite_hwd (s : State) (r : Reg) (ix : List Nat) : (s.refuseWrite r ix).hwd = s.hwd :=
  (State.refuseWrite_noted _ _ (Noted.refl s)).hwd
@[simp] theorem State.refuseWrite_pkg (s : State) (r : Reg) (ix : List Nat) : (s.refuseWrite r ix).pkg = s.pkg :=
  (State.refuseWrite_noted _ _ (Noted.refl s)).pkg

theorem State.interrupt_noted {s0 s : State} (core : Nat) (hk0 : Noted s0 s) : Noted s0 (s.interrupt core) := by
  unfold State.interrupt
  repeat' first
    | with_reducible assumption | (intro x; have hx : Noted s0 x := ?hk; clear_value x; case' hk => subst x)
    | (intro x; subst x) | intro _ | with_reducible apply Noted.ite | with_reducible apply Noted.each
    | (rewrite [State.mk_eq_noteB]; with_reducible refine Noted.put ?_) | lift_lets -underBinder | dsimp -zeta only
    | split

theorem State.staleRecord_noted {s0 s : State} (src : Src) (die : Nat) (grove : Nat) (gen : Nat) (unbound : Bool) (hk0 : Noted s0 s) : Noted s0 (s.staleRecord src die grove gen unbound) := by
  unfold State.staleRecord
  repeat' first
    | with_reducible assumption | (intro x; have hx : Noted s0 x := ?hk; clear_value x; case' hk => subst x)
    | (intro x; subst x) | intro _ | with_reducible apply Noted.ite | with_reducible apply Noted.each
    | with_reducible apply State.record_noted
    | (rewrite [State.mk_eq_noteB]; with_reducible refine Noted.put ?_) | lift_lets -underBinder | dsimp -zeta only
    | split

@[simp] theorem State.staleRecord_pending (s : State) (src : Src) (die : Nat) (grove : Nat) (gen : Nat) (unbound : Bool) : (s.staleRecord src die grove gen unbound).pending = s.pending :=
  (State.staleRecord_noted _ _ _ _ _ (Noted.refl s)).pending
@[simp] theorem State.staleRecord_aonUs (s : State) (src : Src) (die : Nat) (grove : Nat) (gen : Nat) (unbound : Bool) : (s.staleRecord src die grove gen unbound).aonUs = s.aonUs :=
  (State.staleRecord_noted _ _ _ _ _ (Noted.refl s)).aonUs
@[simp] theorem State.staleRecord_outbox (s : State) (src : Src) (die : Nat) (grove : Nat) (gen : Nat) (unbound : Bool) : (s.staleRecord src die grove gen unbound).outbox = s.outbox :=
  (State.staleRecord_noted _ _ _ _ _ (Noted.refl s)).outbox
@[simp] theorem State.staleRecord_freeCtr (s : State) (src : Src) (die : Nat) (grove : Nat) (gen : Nat) (unbound : Bool) : (s.staleRecord src die grove gen unbound).freeCtr = s.freeCtr :=
  (State.staleRecord_noted _ _ _ _ _ (Noted.refl s)).freeCtr
@[simp] theorem State.staleRecord_pageMap (s : State) (src : Src) (die : Nat) (grove : Nat) (gen : Nat) (unbound : Bool) : (s.staleRecord src die grove gen unbound).pageMap = s.pageMap :=
  (State.staleRecord_noted _ _ _ _ _ (Noted.refl s)).pageMap
@[simp] theorem State.staleRecord_grv (s : State) (src : Src) (die : Nat) (grove : Nat) (gen : Nat) (unbound : Bool) : (s.staleRecord src die grove gen unbound).grv = s.grv :=
  (State.staleRecord_noted _ _ _ _ _ (Noted.refl s)).grv
@[simp] theorem State.staleRecord_hrt (s : State) (src : Src) (die : Nat) (grove : Nat) (gen : Nat) (unbound : Bool) : (s.staleRecord src die grove gen unbound).hrt = s.hrt :=
  (State.staleRecord_noted _ _ _ _ _ (Noted.refl s)).hrt
@[simp] theorem State.staleRecord_sch (s : State) (src : Src) (die : Nat) (grove : Nat) (gen : Nat) (unbound : Bool) : (s.staleRecord src die grove gen unbound).sch = s.sch :=
  (State.staleRecord_noted _ _ _ _ _ (Noted.refl s)).sch
@[simp] theorem State.staleRecord_num (s : State) (src : Src) (die : Nat) (grove : Nat) (gen : Nat) (unbound : Bool) : (s.staleRecord src die grove gen unbound).num = s.num :=
  (State.staleRecord_noted _ _ _ _ _ (Noted.refl s)).num
@[simp] theorem State.staleRecord_smp (s : State) (src : Src) (die : Nat) (grove : Nat) (gen : Nat) (unbound : Bool) : (s.staleRecord src die grove gen unbound).smp = s.smp :=
  (State.staleRecord_noted _ _ _ _ _ (Noted.refl s)).smp
@[simp] theorem State.staleRecord_gth (s : State) (src : Src) (die : Nat) (grove : Nat) (gen : Nat) (unbound : Bool) : (s.staleRecord src die grove gen unbound).gth = s.gth :=
  (State.staleRecord_noted _ _ _ _ _ (Noted.refl s)).gth
@[simp] theorem State.staleRecord_emb (s : State) (src : Src) (die : Nat) (grove : Nat) (gen : Nat) (unbound : Bool) : (s.staleRecord src die grove gen unbound).emb = s.emb :=
  (State.staleRecord_noted _ _ _ _ _ (Noted.refl s)).emb
@[simp] theorem State.staleRecord_til (s : State) (src : Src) (die : Nat) (grove : Nat) (gen : Nat) (unbound : Bool) : (s.staleRecord src die grove gen unbound).til = s.til :=
  (State.staleRecord_noted _ _ _ _ _ (Noted.refl s)).til
@[simp] theorem State.staleRecord_mem (s : State) (src : Src) (die : Nat) (grove : Nat) (gen : Nat) (unbound : Bool) : (s.staleRecord src die grove gen unbound).mem = s.mem :=
  (State.staleRecord_noted _ _ _ _ _ (Noted.refl s)).mem
@[simp] theorem State.staleRecord_lnk (s : State) (src : Src) (die : Nat) (grove : Nat) (gen : Nat) (unbound : Bool) : (s.staleRecord src die grove gen unbound).lnk = s.lnk :=
  (State.staleRecord_noted _ _ _ _ _ (Noted.refl s)).lnk
@[simp] theorem State.staleRecord_col (s : State) (src : Src) (die : Nat) (grove : Nat) (gen : Nat) (unbound : Bool) : (s.staleRecord src die grove gen unbound).col = s.col :=
  (State.staleRecord_noted _ _ _ _ _ (Noted.refl s)).col
@[simp] theorem State.staleRecord_upd (s : State) (src : Src) (die : Nat) (grove : Nat) (gen : Nat) (unbound : Bool) : (s.staleRecord src die grove gen unbound).upd = s.upd :=
  (State.staleRecord_noted _ _ _ _ _ (Noted.refl s)).upd
@[simp] theorem State.staleRecord_kln (s : State) (src : Src) (die : Nat) (grove : Nat) (gen : Nat) (unbound : Bool) : (s.staleRecord src die grove gen unbound).kln = s.kln :=
  (State.staleRecord_noted _ _ _ _ _ (Noted.refl s)).kln
@[simp] theorem State.staleRecord_clk (s : State) (src : Src) (die : Nat) (grove : Nat) (gen : Nat) (unbound : Bool) : (s.staleRecord src die grove gen unbound).clk = s.clk :=
  (State.staleRecord_noted _ _ _ _ _ (Noted.refl s)).clk
@[simp] theorem State.staleRecord_hwd (s : State) (src : Src) (die : Nat) (grove : Nat) (gen : Nat) (unbound : Bool) : (s.staleRecord src die grove gen unbound).hwd = s.hwd :=
  (State.staleRecord_noted _ _ _ _ _ (Noted.refl s)).hwd
@[simp] theorem State.staleRecord_pkg (s : State) (src : Src) (die : Nat) (grove : Nat) (gen : Nat) (unbound : Bool) : (s.staleRecord src die grove gen unbound).pkg = s.pkg :=
  (State.staleRecord_noted _ _ _ _ _ (Noted.refl s)).pkg

end Sys2Proof.Machine
end

