-- ==== Sys2Proof/Laws/Tables.lean ====
section
/-! SUPPORT. Reading a table after a write, and a register after a write to another. -/
set_option Elab.async false
set_option linter.unusedTactic false
set_option linter.unreachableTactic false
set_option linter.unnecessarySeqFocus false
namespace Sys2Proof.Machine

@[simp] theorem tget_tset_same {α : Type} (t : Tbl α) (k : Nat) (v : α) : tget (tset t k v) k = some v := by
  induction t with
  | nil => simp [tset, tget]
  | cons p t ih =>
    obtain ⟨i, w⟩ := p
    simp only [tset]
    split
    · simp [tget]
    · split
      · simp [tget]
      · simp [tget, ih]
        omega

theorem tget_tset_other {α : Type} (t : Tbl α) {k j : Nat} (v : α) (h : j ≠ k) : tget (tset t k v) j = tget t j := by
  induction t with
  | nil => simp [tset, tget, Ne.symm h]
  | cons p t ih =>
    obtain ⟨i, w⟩ := p
    simp only [tset]
    split
    · simp [tget, Ne.symm h]
    · split
      · subst_vars
        simp [tget, Ne.symm h]
      · simp [tget, ih]

@[simp] theorem tgetD_tset_same {α : Type} (t : Tbl α) (k : Nat) (v d : α) : tgetD (tset t k v) k d = v := by
  simp [tgetD]

theorem tgetD_tset_other {α : Type} (t : Tbl α) {k j : Nat} (v d : α) (h : j ≠ k) :
    tgetD (tset t k v) j d = tgetD t j d := by simp [tgetD, tget_tset_other t v h]

@[simp] theorem tgetD_tmod_same {α : Type} (t : Tbl α) (k : Nat) (d : α) (f : α → α) :
    tgetD (tmod t k d f) k d = f (tgetD t k d) := by simp [tmod]

theorem tgetD_tmod_other {α : Type} (t : Tbl α) {k j : Nat} (d e : α) (f : α → α) (h : j ≠ k) :
    tgetD (tmod t k d f) j e = tgetD t j e := by simp [tmod, tgetD_tset_other t _ _ h]

theorem tget_filter {α : Type} (t : Tbl α) (p : Nat → Bool) (k : Nat) :
    tget (t.filter fun x => p x.1) k = if p k then tget t k else none := by
  induction t with
  | nil => simp [tget]
  | cons x t ih =>
    obtain ⟨i, v⟩ := x
    by_cases hi : p i <;> simp only [List.filter, hi, tget, ih]
    · by_cases hk : i = k
      · subst hk
        simp [hi]
      · simp [hk]
    · by_cases hk : i = k
      · subst hk
        simp [hi]
      · simp [hk]

@[simp] theorem tget_terase_same {α : Type} (t : Tbl α) (k : Nat) : tget (terase t k) k = none := by
  simp [terase, tget_filter t (fun i => i != k)]

theorem tget_terase_other {α : Type} (t : Tbl α) {k j : Nat} (h : j ≠ k) : tget (terase t k) j = tget t j := by
  simp [terase, tget_filter t (fun i => i != k), h]

theorem tget_tmap {α : Type} (t : Tbl α) (f : Nat → α → α) (k : Nat) : tget (tmap t f) k = (tget t k).map (f k) := by
  induction t with
  | nil => simp [tmap, tget]
  | cons x t ih =>
    obtain ⟨i, v⟩ := x
    simp only [tmap, List.map, tget]
    split
    · subst_vars
      rfl
    · exact ih

/-! ## Registers -/

@[simp] theorem State.getReg_putReg_same (s : State) (r : Reg) (ix : List Nat) (v : Word) :
    (s.putReg r ix v).getReg r ix = v := by simp [State.putReg, State.getReg]

theorem State.getReg_putReg_other (s : State) {r q : Reg} {ix jx : List Nat} (v : Word)
    (h : regAddr q jx ≠ regAddr r ix) : (s.putReg r ix v).getReg q jx = s.getReg q jx := by
  simp [State.putReg, State.getReg, tgetD_tset_other _ _ _ h]

@[simp] theorem State.getReg_resetReg_same (s : State) (r : Reg) (ix : List Nat) :
    (s.resetReg r ix).getReg r ix = regReset r ix := by simp [State.resetReg, State.getReg, tgetD]

end Sys2Proof.Machine
end

