-- ==== Sys2Proof/Laws/Words.lean ====
section
/-! SUPPORT. Fields of words: a field that was set reads as what it was set to, and the others as before. -/
set_option Elab.async false
set_option linter.unusedTactic false
set_option linter.unreachableTactic false
set_option linter.unnecessarySeqFocus false
namespace Sys2Proof.Machine

theorem fld_lt (v lo w : Nat) : fld v lo w < 2 ^ w := Nat.mod_lt _ (Nat.two_pow_pos w)

theorem fld_split (v lo w : Nat) :
    v = v / 2 ^ (lo + w) * 2 ^ (lo + w) + fld v lo w * 2 ^ lo + v % 2 ^ lo := by
  have h1 := Nat.div_add_mod v (2 ^ lo)
  have h2 := Nat.div_add_mod (v / 2 ^ lo) (2 ^ w)
  have h3 : v / 2 ^ lo / 2 ^ w = v / 2 ^ (lo + w) := by rw [Nat.div_div_eq_div_mul, Nat.pow_add]
  rw [h3] at h2
  have h4 : fld v lo w = v / 2 ^ lo % 2 ^ w := rfl
  rw [h4]
  calc v = 2 ^ lo * (v / 2 ^ lo) + v % 2 ^ lo := h1.symm
    _ = 2 ^ lo * (2 ^ w * (v / 2 ^ (lo + w)) + v / 2 ^ lo % 2 ^ w) + v % 2 ^ lo := by rw [h2]
    _ = v / 2 ^ (lo + w) * 2 ^ (lo + w) + v / 2 ^ lo % 2 ^ w * 2 ^ lo + v % 2 ^ lo := by
      rw [Nat.pow_add 2 lo w, Nat.mul_add, ← Nat.mul_assoc, Nat.mul_comm (2 ^ lo * 2 ^ w), Nat.mul_comm (2 ^ lo) (v / 2 ^ lo % 2 ^ w)]

/-- The number whose field is replaced. -/
theorem setFld_num (v lo w x : Nat) :
    v - fld v lo w * 2 ^ lo + x % 2 ^ w * 2 ^ lo =
      v / 2 ^ (lo + w) * 2 ^ (lo + w) + x % 2 ^ w * 2 ^ lo + v % 2 ^ lo := by
  have h := fld_split v lo w
  omega

theorem setFld_num_lt {v lo w x : Nat} (hv : v < 2 ^ 64) (hw : lo + w ≤ 64) :
    v / 2 ^ (lo + w) * 2 ^ (lo + w) + x % 2 ^ w * 2 ^ lo + v % 2 ^ lo < 2 ^ 64 := by
  have h1 : v / 2 ^ (lo + w) < 2 ^ (64 - (lo + w)) := by
    rw [Nat.div_lt_iff_lt_mul (Nat.two_pow_pos _), ← Nat.pow_add, Nat.sub_add_cancel hw]; exact hv
  have h2 : x % 2 ^ w < 2 ^ w := Nat.mod_lt _ (Nat.two_pow_pos w)
  have h3 : v % 2 ^ lo < 2 ^ lo := Nat.mod_lt _ (Nat.two_pow_pos lo)
  have h4 : x % 2 ^ w * 2 ^ lo + v % 2 ^ lo < 2 ^ (lo + w) := by
    have : (x % 2 ^ w + 1) * 2 ^ lo ≤ 2 ^ w * 2 ^ lo := Nat.mul_le_mul_right _ h2
    rw [Nat.add_comm lo w, Nat.pow_add]
    rw [Nat.add_mul, Nat.one_mul] at this
    omega
  have h5 : (v / 2 ^ (lo + w) + 1) * 2 ^ (lo + w) ≤ 2 ^ (64 - (lo + w)) * 2 ^ (lo + w) := Nat.mul_le_mul_right _ h1
  rw [← Nat.pow_add, Nat.sub_add_cancel hw, Nat.add_mul, Nat.one_mul] at h5
  omega

theorem setFld_toNat {v : Word} {lo w x : Nat} (hw : lo + w ≤ 64) :
    (setFld v lo w x).toNat =
      v.toNat / 2 ^ (lo + w) * 2 ^ (lo + w) + x % 2 ^ w * 2 ^ lo + v.toNat % 2 ^ lo := by
  unfold setFld wfld
  rw [setFld_num, BitVec.toNat_ofNat, Nat.mod_eq_of_lt (setFld_num_lt v.isLt hw)]

/-- A field that was set reads as set. -/
theorem wfld_setFld_same {v : Word} {lo w x : Nat} (hw : lo + w ≤ 64) : wfld (setFld v lo w x) lo w = x % 2 ^ w := by
  unfold wfld fld
  rw [setFld_toNat hw]
  have h3 : v.toNat % 2 ^ lo < 2 ^ lo := Nat.mod_lt _ (Nat.two_pow_pos lo)
  have e : v.toNat / 2 ^ (lo + w) * 2 ^ (lo + w) + x % 2 ^ w * 2 ^ lo + v.toNat % 2 ^ lo =
      v.toNat % 2 ^ lo + (v.toNat / 2 ^ (lo + w) * 2 ^ w + x % 2 ^ w) * 2 ^ lo := by
    rw [Nat.add_mul, Nat.mul_assoc, ← Nat.pow_add, Nat.add_comm w lo]; omega
  rw [e, Nat.add_mul_div_right _ _ (Nat.two_pow_pos lo), Nat.div_eq_of_lt h3, Nat.zero_add, Nat.add_comm,
    Nat.add_mul_mod_self_right, Nat.mod_mod]

/-- A field above the one that was set reads as before. -/
theorem wfld_setFld_above {v : Word} {lo w x k n : Nat} (hw : lo + w ≤ 64) (h : lo + w ≤ k) :
    wfld (setFld v lo w x) k n = wfld v k n := by
  unfold wfld fld
  rw [setFld_toNat hw]
  obtain ⟨j, rfl⟩ := Nat.exists_eq_add_of_le h
  have h3 : v.toNat % 2 ^ lo < 2 ^ lo := Nat.mod_lt _ (Nat.two_pow_pos lo)
  have h2 : x % 2 ^ w < 2 ^ w := Nat.mod_lt _ (Nat.two_pow_pos w)
  have h4 : x % 2 ^ w * 2 ^ lo + v.toNat % 2 ^ lo < 2 ^ (lo + w) := by
    have : (x % 2 ^ w + 1) * 2 ^ lo ≤ 2 ^ w * 2 ^ lo := Nat.mul_le_mul_right _ h2
    rw [Nat.add_comm lo w, Nat.pow_add]
    rw [Nat.add_mul, Nat.one_mul] at this
    omega
  have e : (v.toNat / 2 ^ (lo + w) * 2 ^ (lo + w) + x % 2 ^ w * 2 ^ lo + v.toNat % 2 ^ lo) / 2 ^ (lo + w) =
      v.toNat / 2 ^ (lo + w) := by
    rw [Nat.add_assoc, Nat.add_comm, Nat.add_mul_div_right _ _ (Nat.two_pow_pos _), Nat.div_eq_of_lt h4, Nat.zero_add]
  rw [Nat.pow_add 2 (lo + w) j, ← Nat.div_div_eq_div_mul, e, Nat.div_div_eq_div_mul]

/-- A field below the one that was set reads as before. -/
theorem wfld_setFld_below {v : Word} {lo w x k n : Nat} (hw : lo + w ≤ 64) (h : k + n ≤ lo) :
    wfld (setFld v lo w x) k n = wfld v k n := by
  unfold wfld fld
  rw [setFld_toNat hw]
  obtain ⟨j, rfl⟩ := Nat.exists_eq_add_of_le h
  have e : ∀ u : Nat, u / 2 ^ k % 2 ^ n = u % 2 ^ (k + n) / 2 ^ k := by
    intro u
    rw [Nat.pow_add, Nat.mod_mul_right_div_self]
  rw [e, e]
  congr 1
  have e2 : v.toNat / 2 ^ (k + n + j + w) * 2 ^ (k + n + j + w) + x % 2 ^ w * 2 ^ (k + n + j) + v.toNat % 2 ^ (k + n + j) =
      v.toNat % 2 ^ (k + n + j) +
        2 ^ (k + n) * (v.toNat / 2 ^ (k + n + j + w) * 2 ^ (j + w) + x % 2 ^ w * 2 ^ j) := by
    rw [Nat.mul_add, Nat.mul_left_comm, ← Nat.pow_add, Nat.mul_left_comm (2 ^ (k + n)), ← Nat.pow_add]
    rw [show k + n + (j + w) = k + n + j + w by omega]
    omega
  rw [e2, Nat.add_mul_mod_self_left, Nat.pow_add 2 (k + n) j, Nat.mod_mul_right_mod]

/-- One bit of a field of one bit. -/
theorem wfld_ofNat {n lo w : Nat} (h : n < 2 ^ 64) : wfld (BitVec.ofNat 64 n) lo w = fld n lo w := by
  unfold wfld
  rw [BitVec.toNat_ofNat, Nat.mod_eq_of_lt h]

end Sys2Proof.Machine
end

