-- ==== Sys2Proof/Laws/Log.lean ====
section
/-! SUPPORT. What a record does to the log and to the window: with room, the log's last record is the one written; and no
register outside the log's own changes. -/
set_option Elab.async false
set_option linter.unusedTactic false
set_option linter.unreachableTactic false
set_option linter.unnecessarySeqFocus false
namespace Sys2Proof.Machine

@[simp] theorem State.putFld_wch (s : State) (r : Reg) (ix : List Nat) (lo w x : Nat) :
    (s.putFld r ix lo w x).wch = s.wch := rfl

theorem State.alert_wch (b : Prop) [Decidable b] (u : State) :
    (if b then u else { u with sup := { u.sup with alertLow := true } }).wch = u.wch := by split <;> rfl

theorem State.alert_regs (b : Prop) [Decidable b] (u : State) :
    (if b then u else { u with sup := { u.sup with alertLow := true } }).regs = u.regs := by split <;> rfl

@[simp] theorem State.notify_regs (s : State) (v : Sev) : (s.notify v).regs = s.regs := by
  unfold State.notify; split <;> rfl

@[simp] theorem State.notify_wch (s : State) (v : Sev) : (s.notify v).wch = s.wch := by
  unfold State.notify; split <;> rfl

@[simp] theorem State.keepFatal_regs (s : State) (r : LogRec) : (s.keepFatal r).regs = s.regs := by
  unfold State.keepFatal; split <;> rfl

@[simp] theorem State.keepFatal_log (s : State) (r : LogRec) : (s.keepFatal r).wch.log = s.wch.log := by
  unfold State.keepFatal; split <;> rfl

@[simp] theorem State.keepFatal_heat (s : State) (r : LogRec) : (s.keepFatal r).wch.heat = s.wch.heat := by
  unfold State.keepFatal; split <;> rfl

theorem State.getReg_congr {s t : State} (h : t.regs = s.regs) (r : Reg) (ix : List Nat) :
    t.getReg r ix = s.getReg r ix := by simp [State.getReg, h]

/-- A register away from the log's keeps its value when a record is written. -/
theorem State.getReg_logRec (s : State) (x : LogRec) {r : Reg} {ix : List Nat} (h : plainOff (regAddr r ix)) :
    (s.logRec x).getReg r ix = s.getReg r ix := by
  simp only [plainOff, Bool.and_eq_true, bne_iff_ne, ne_eq] at h
  obtain ⟨⟨h1, h2⟩, h3⟩ := h
  unfold State.logRec
  dsimp only
  split
  · rw [State.getReg_congr (State.keepFatal_regs _ _)]
    show State.getReg (State.putFld _ _ _ _ _ _) r ix = _
    unfold State.putFld
    rw [State.getReg_putReg_other _ _ h2, State.getReg_putReg_other _ _ h2, State.getReg_putReg_other _ _ h1]
  · rw [State.getReg_congr (State.keepFatal_regs _ _), State.getReg_congr (State.notify_regs _ _),
      State.getReg_congr (State.alert_regs _ _)]
    unfold State.putFld
    rw [State.getReg_putReg_other _ _ h3]
    rfl

theorem State.logRoom_neg {s : State} (h : s.logRoom) :
    ¬ subMod 32 (s.regFld .WCH_LOG_HEAD [] 0 32) (s.regFld .WCH_LOG_TAIL [] 0 32) ≥ 1024 := by
  unfold State.logRoom at h
  exact Nat.not_le_of_lt (of_decide_eq_true h)

/-- The state in which the log holds a record at its head and the head has advanced. -/
def State.logged (s : State) (x : LogRec) : State :=
  { s with wch := { s.wch with log := tset s.wch.log (s.regFld .WCH_LOG_HEAD [] 0 32 % 1024) x } }.putFld
    .WCH_LOG_HEAD [] 0 32 (s.regFld .WCH_LOG_HEAD [] 0 32 + 1)

/-- The state with SMB_ALERT_N driven low, but for a corrected record (R684). -/
def State.alerted (s : State) (sev : Sev) : State :=
  if sev == Sev.corrected then s else { s with sup := { s.sup with alertLow := true } }

@[simp] theorem State.alerted_regs (s : State) (sev : Sev) : (s.alerted sev).regs = s.regs := by
  unfold State.alerted; split <;> rfl

@[simp] theorem State.alerted_wch (s : State) (sev : Sev) : (s.alerted sev).wch = s.wch := by
  unfold State.alerted; split <;> rfl

/-- With room, what a record does. -/
theorem State.logRec_room (s : State) (x : LogRec) (h : s.logRoom) :
    s.logRec x =
      (((s.logged { x with seq := s.regFld .WCH_LOG_HEAD [] 0 32 }).alerted x.sev).notify x.sev).keepFatal
        { x with seq := s.regFld .WCH_LOG_HEAD [] 0 32 } := by
  have h' := State.logRoom_neg h
  unfold State.logRec
  exact if_neg h'

/-- With room, the log takes the record at the head. -/
theorem State.logRec_log (s : State) (x : LogRec) (h : s.logRoom) :
    (s.logRec x).wch.log = tset s.wch.log (s.regFld .WCH_LOG_HEAD [] 0 32 % 1024)
      { x with seq := s.regFld .WCH_LOG_HEAD [] 0 32 } := by
  rw [State.logRec_room s x h, State.keepFatal_log, State.notify_wch, State.alerted_wch]
  rfl

/-- With room, the head advances. -/
theorem State.logRec_head (s : State) (x : LogRec) (h : s.logRoom) :
    (s.logRec x).regFld .WCH_LOG_HEAD [] 0 32 = (s.regFld .WCH_LOG_HEAD [] 0 32 + 1) % 2 ^ 32 := by
  have key : ∀ y, (s.logged y).getReg .WCH_LOG_HEAD [] =
      setFld (s.getReg .WCH_LOG_HEAD []) 0 32 (s.regFld .WCH_LOG_HEAD [] 0 32 + 1) :=
    fun y => State.getReg_putReg_same _ _ _ _
  rw [State.logRec_room s x h]
  generalize hn : s.regFld .WCH_LOG_HEAD [] 0 32 = n at key
  unfold State.regFld
  rw [State.getReg_congr (State.keepFatal_regs _ _), State.getReg_congr (State.notify_regs _ _),
    State.getReg_congr (State.alerted_regs _ _), key, wfld_setFld_same (by omega)]

/-- With room, the record is the log's last. -/
theorem State.lastRecord_logRec (s : State) (x : LogRec) (h : s.logRoom) :
    (s.logRec x).lastRecord = some { x with seq := s.regFld .WCH_LOG_HEAD [] 0 32 } := by
  have hlt : s.regFld .WCH_LOG_HEAD [] 0 32 < 2 ^ 32 := fld_lt _ _ _
  unfold State.lastRecord
  rw [State.logRec_head s x h, State.logRec_log s x h]
  have e : ((s.regFld .WCH_LOG_HEAD [] 0 32 + 1) % 2 ^ 32 + 2 ^ 32 - 1) % 2 ^ 32 = s.regFld .WCH_LOG_HEAD [] 0 32 := by omega
  rw [e]
  exact tget_tset_same _ _ _

/-- A record that adds no heat is written as it is. -/
theorem State.record_plain (s : State) (src : Src) (sev : Sev) (die code : Nat) (g : Option Nat) (detail : Nat)
    (h : (src == .clk || src == .pwr) = false) :
    s.record src sev die code g detail = s.logRec (s.mkRec src sev die code g detail) := by
  unfold State.record
  simp [h]

theorem State.lastRecord_record (s : State) (src : Src) (sev : Sev) (die code : Nat) (g : Option Nat) (detail : Nat)
    (h : (src == .clk || src == .pwr) = false) (hr : s.logRoom) :
    (s.record src sev die code g detail).lastRecord =
      some { s.mkRec src sev die code g detail with seq := s.regFld .WCH_LOG_HEAD [] 0 32 } := by
  rw [State.record_plain _ _ _ _ _ _ _ h, State.lastRecord_logRec _ _ hr]

theorem State.getReg_record (s : State) (src : Src) (sev : Sev) (die code : Nat) (g : Option Nat) (detail : Nat)
    (h : (src == .clk || src == .pwr) = false) {r : Reg} {ix : List Nat} (hr : plainOff (regAddr r ix)) :
    (s.record src sev die code g detail).getReg r ix = s.getReg r ix := by
  rw [State.record_plain _ _ _ _ _ _ _ h, State.getReg_logRec _ _ hr]

end Sys2Proof.Machine
end

