-- ==== Sys2Proof/Laws/State.lean ====
section
/-! SUPPORT. What each update of one field leaves: one lemma per other field, true by definition. -/
set_option Elab.async false
set_option linter.unusedTactic false
set_option linter.unreachableTactic false
set_option linter.unnecessarySeqFocus false
namespace Sys2Proof.Machine

@[simp] theorem State.putReg_pending (s : State) (r : Reg) (ix : List Nat) (v : Word) : (s.putReg r ix v).pending = s.pending := rfl
@[simp] theorem State.putReg_aonUs (s : State) (r : Reg) (ix : List Nat) (v : Word) : (s.putReg r ix v).aonUs = s.aonUs := rfl
@[simp] theorem State.putReg_outbox (s : State) (r : Reg) (ix : List Nat) (v : Word) : (s.putReg r ix v).outbox = s.outbox := rfl
@[simp] theorem State.putReg_irqs (s : State) (r : Reg) (ix : List Nat) (v : Word) : (s.putReg r ix v).irqs = s.irqs := rfl
@[simp] theorem State.putReg_freeCtr (s : State) (r : Reg) (ix : List Nat) (v : Word) : (s.putReg r ix v).freeCtr = s.freeCtr := rfl
@[simp] theorem State.putReg_pageMap (s : State) (r : Reg) (ix : List Nat) (v : Word) : (s.putReg r ix v).pageMap = s.pageMap := rfl
@[simp] theorem State.putReg_grv (s : State) (r : Reg) (ix : List Nat) (v : Word) : (s.putReg r ix v).grv = s.grv := rfl
@[simp] theorem State.putReg_hrt (s : State) (r : Reg) (ix : List Nat) (v : Word) : (s.putReg r ix v).hrt = s.hrt := rfl
@[simp] theorem State.putReg_sch (s : State) (r : Reg) (ix : List Nat) (v : Word) : (s.putReg r ix v).sch = s.sch := rfl
@[simp] theorem State.putReg_num (s : State) (r : Reg) (ix : List Nat) (v : Word) : (s.putReg r ix v).num = s.num := rfl
@[simp] theorem State.putReg_smp (s : State) (r : Reg) (ix : List Nat) (v : Word) : (s.putReg r ix v).smp = s.smp := rfl
@[simp] theorem State.putReg_gth (s : State) (r : Reg) (ix : List Nat) (v : Word) : (s.putReg r ix v).gth = s.gth := rfl
@[simp] theorem State.putReg_emb (s : State) (r : Reg) (ix : List Nat) (v : Word) : (s.putReg r ix v).emb = s.emb := rfl
@[simp] theorem State.putReg_til (s : State) (r : Reg) (ix : List Nat) (v : Word) : (s.putReg r ix v).til = s.til := rfl
@[simp] theorem State.putReg_mem (s : State) (r : Reg) (ix : List Nat) (v : Word) : (s.putReg r ix v).mem = s.mem := rfl
@[simp] theorem State.putReg_lnk (s : State) (r : Reg) (ix : List Nat) (v : Word) : (s.putReg r ix v).lnk = s.lnk := rfl
@[simp] theorem State.putReg_col (s : State) (r : Reg) (ix : List Nat) (v : Word) : (s.putReg r ix v).col = s.col := rfl
@[simp] theorem State.putReg_upd (s : State) (r : Reg) (ix : List Nat) (v : Word) : (s.putReg r ix v).upd = s.upd := rfl
@[simp] theorem State.putReg_wch (s : State) (r : Reg) (ix : List Nat) (v : Word) : (s.putReg r ix v).wch = s.wch := rfl
@[simp] theorem State.putReg_kln (s : State) (r : Reg) (ix : List Nat) (v : Word) : (s.putReg r ix v).kln = s.kln := rfl
@[simp] theorem State.putReg_clk (s : State) (r : Reg) (ix : List Nat) (v : Word) : (s.putReg r ix v).clk = s.clk := rfl
@[simp] theorem State.putReg_hwd (s : State) (r : Reg) (ix : List Nat) (v : Word) : (s.putReg r ix v).hwd = s.hwd := rfl
@[simp] theorem State.putReg_sup (s : State) (r : Reg) (ix : List Nat) (v : Word) : (s.putReg r ix v).sup = s.sup := rfl
@[simp] theorem State.putReg_pkg (s : State) (r : Reg) (ix : List Nat) (v : Word) : (s.putReg r ix v).pkg = s.pkg := rfl
@[simp] theorem State.resetReg_pending (s : State) (r : Reg) (ix : List Nat) : (s.resetReg r ix).pending = s.pending := rfl
@[simp] theorem State.resetReg_aonUs (s : State) (r : Reg) (ix : List Nat) : (s.resetReg r ix).aonUs = s.aonUs := rfl
@[simp] theorem State.resetReg_outbox (s : State) (r : Reg) (ix : List Nat) : (s.resetReg r ix).outbox = s.outbox := rfl
@[simp] theorem State.resetReg_irqs (s : State) (r : Reg) (ix : List Nat) : (s.resetReg r ix).irqs = s.irqs := rfl
@[simp] theorem State.resetReg_freeCtr (s : State) (r : Reg) (ix : List Nat) : (s.resetReg r ix).freeCtr = s.freeCtr := rfl
@[simp] theorem State.resetReg_pageMap (s : State) (r : Reg) (ix : List Nat) : (s.resetReg r ix).pageMap = s.pageMap := rfl
@[simp] theorem State.resetReg_grv (s : State) (r : Reg) (ix : List Nat) : (s.resetReg r ix).grv = s.grv := rfl
@[simp] theorem State.resetReg_hrt (s : State) (r : Reg) (ix : List Nat) : (s.resetReg r ix).hrt = s.hrt := rfl
@[simp] theorem State.resetReg_sch (s : State) (r : Reg) (ix : List Nat) : (s.resetReg r ix).sch = s.sch := rfl
@[simp] theorem State.resetReg_num (s : State) (r : Reg) (ix : List Nat) : (s.resetReg r ix).num = s.num := rfl
@[simp] theorem State.resetReg_smp (s : State) (r : Reg) (ix : List Nat) : (s.resetReg r ix).smp = s.smp := rfl
@[simp] theorem State.resetReg_gth (s : State) (r : Reg) (ix : List Nat) : (s.resetReg r ix).gth = s.gth := rfl
@[simp] theorem State.resetReg_emb (s : State) (r : Reg) (ix : List Nat) : (s.resetReg r ix).emb = s.emb := rfl
@[simp] theorem State.resetReg_til (s : State) (r : Reg) (ix : List Nat) : (s.resetReg r ix).til = s.til := rfl
@[simp] theorem State.resetReg_mem (s : State) (r : Reg) (ix : List Nat) : (s.resetReg r ix).mem = s.mem := rfl
@[simp] theorem State.resetReg_lnk (s : State) (r : Reg) (ix : List Nat) : (s.resetReg r ix).lnk = s.lnk := rfl
@[simp] theorem State.resetReg_col (s : State) (r : Reg) (ix : List Nat) : (s.resetReg r ix).col = s.col := rfl
@[simp] theorem State.resetReg_upd (s : State) (r : Reg) (ix : List Nat) : (s.resetReg r ix).upd = s.upd := rfl
@[simp] theorem State.resetReg_wch (s : State) (r : Reg) (ix : List Nat) : (s.resetReg r ix).wch = s.wch := rfl
@[simp] theorem State.resetReg_kln (s : State) (r : Reg) (ix : List Nat) : (s.resetReg r ix).kln = s.kln := rfl
@[simp] theorem State.resetReg_clk (s : State) (r : Reg) (ix : List Nat) : (s.resetReg r ix).clk = s.clk := rfl
@[simp] theorem State.resetReg_hwd (s : State) (r : Reg) (ix : List Nat) : (s.resetReg r ix).hwd = s.hwd := rfl
@[simp] theorem State.resetReg_sup (s : State) (r : Reg) (ix : List Nat) : (s.resetReg r ix).sup = s.sup := rfl
@[simp] theorem State.resetReg_pkg (s : State) (r : Reg) (ix : List Nat) : (s.resetReg r ix).pkg = s.pkg := rfl
@[simp] theorem State.emit_pending (s : State) (m : Msg) : (s.emit m).pending = s.pending := rfl
@[simp] theorem State.emit_regs (s : State) (m : Msg) : (s.emit m).regs = s.regs := rfl
@[simp] theorem State.emit_aonUs (s : State) (m : Msg) : (s.emit m).aonUs = s.aonUs := rfl
@[simp] theorem State.emit_irqs (s : State) (m : Msg) : (s.emit m).irqs = s.irqs := rfl
@[simp] theorem State.emit_freeCtr (s : State) (m : Msg) : (s.emit m).freeCtr = s.freeCtr := rfl
@[simp] theorem State.emit_pageMap (s : State) (m : Msg) : (s.emit m).pageMap = s.pageMap := rfl
@[simp] theorem State.emit_grv (s : State) (m : Msg) : (s.emit m).grv = s.grv := rfl
@[simp] theorem State.emit_hrt (s : State) (m : Msg) : (s.emit m).hrt = s.hrt := rfl
@[simp] theorem State.emit_sch (s : State) (m : Msg) : (s.emit m).sch = s.sch := rfl
@[simp] theorem State.emit_num (s : State) (m : Msg) : (s.emit m).num = s.num := rfl
@[simp] theorem State.emit_smp (s : State) (m : Msg) : (s.emit m).smp = s.smp := rfl
@[simp] theorem State.emit_gth (s : State) (m : Msg) : (s.emit m).gth = s.gth := rfl
@[simp] theorem State.emit_emb (s : State) (m : Msg) : (s.emit m).emb = s.emb := rfl
@[simp] theorem State.emit_til (s : State) (m : Msg) : (s.emit m).til = s.til := rfl
@[simp] theorem State.emit_mem (s : State) (m : Msg) : (s.emit m).mem = s.mem := rfl
@[simp] theorem State.emit_lnk (s : State) (m : Msg) : (s.emit m).lnk = s.lnk := rfl
@[simp] theorem State.emit_col (s : State) (m : Msg) : (s.emit m).col = s.col := rfl
@[simp] theorem State.emit_upd (s : State) (m : Msg) : (s.emit m).upd = s.upd := rfl
@[simp] theorem State.emit_wch (s : State) (m : Msg) : (s.emit m).wch = s.wch := rfl
@[simp] theorem State.emit_kln (s : State) (m : Msg) : (s.emit m).kln = s.kln := rfl
@[simp] theorem State.emit_clk (s : State) (m : Msg) : (s.emit m).clk = s.clk := rfl
@[simp] theorem State.emit_hwd (s : State) (m : Msg) : (s.emit m).hwd = s.hwd := rfl
@[simp] theorem State.emit_sup (s : State) (m : Msg) : (s.emit m).sup = s.sup := rfl
@[simp] theorem State.emit_pkg (s : State) (m : Msg) : (s.emit m).pkg = s.pkg := rfl
@[simp] theorem State.emits_pending (s : State) (ms : List Msg) : (s.emits ms).pending = s.pending := rfl
@[simp] theorem State.emits_regs (s : State) (ms : List Msg) : (s.emits ms).regs = s.regs := rfl
@[simp] theorem State.emits_aonUs (s : State) (ms : List Msg) : (s.emits ms).aonUs = s.aonUs := rfl
@[simp] theorem State.emits_irqs (s : State) (ms : List Msg) : (s.emits ms).irqs = s.irqs := rfl
@[simp] theorem State.emits_freeCtr (s : State) (ms : List Msg) : (s.emits ms).freeCtr = s.freeCtr := rfl
@[simp] theorem State.emits_pageMap (s : State) (ms : List Msg) : (s.emits ms).pageMap = s.pageMap := rfl
@[simp] theorem State.emits_grv (s : State) (ms : List Msg) : (s.emits ms).grv = s.grv := rfl
@[simp] theorem State.emits_hrt (s : State) (ms : List Msg) : (s.emits ms).hrt = s.hrt := rfl
@[simp] theorem State.emits_sch (s : State) (ms : List Msg) : (s.emits ms).sch = s.sch := rfl
@[simp] theorem State.emits_num (s : State) (ms : List Msg) : (s.emits ms).num = s.num := rfl
@[simp] theorem State.emits_smp (s : State) (ms : List Msg) : (s.emits ms).smp = s.smp := rfl
@[simp] theorem State.emits_gth (s : State) (ms : List Msg) : (s.emits ms).gth = s.gth := rfl
@[simp] theorem State.emits_emb (s : State) (ms : List Msg) : (s.emits ms).emb = s.emb := rfl
@[simp] theorem State.emits_til (s : State) (ms : List Msg) : (s.emits ms).til = s.til := rfl
@[simp] theorem State.emits_mem (s : State) (ms : List Msg) : (s.emits ms).mem = s.mem := rfl
@[simp] theorem State.emits_lnk (s : State) (ms : List Msg) : (s.emits ms).lnk = s.lnk := rfl
@[simp] theorem State.emits_col (s : State) (ms : List Msg) : (s.emits ms).col = s.col := rfl
@[simp] theorem State.emits_upd (s : State) (ms : List Msg) : (s.emits ms).upd = s.upd := rfl
@[simp] theorem State.emits_wch (s : State) (ms : List Msg) : (s.emits ms).wch = s.wch := rfl
@[simp] theorem State.emits_kln (s : State) (ms : List Msg) : (s.emits ms).kln = s.kln := rfl
@[simp] theorem State.emits_clk (s : State) (ms : List Msg) : (s.emits ms).clk = s.clk := rfl
@[simp] theorem State.emits_hwd (s : State) (ms : List Msg) : (s.emits ms).hwd = s.hwd := rfl
@[simp] theorem State.emits_sup (s : State) (ms : List Msg) : (s.emits ms).sup = s.sup := rfl
@[simp] theorem State.emits_pkg (s : State) (ms : List Msg) : (s.emits ms).pkg = s.pkg := rfl
@[simp] theorem State.modStep_pending (s : State) (g : Nat) (f : GroveStep → GroveStep) : (s.modStep g f).pending = s.pending := rfl
@[simp] theorem State.modStep_regs (s : State) (g : Nat) (f : GroveStep → GroveStep) : (s.modStep g f).regs = s.regs := rfl
@[simp] theorem State.modStep_aonUs (s : State) (g : Nat) (f : GroveStep → GroveStep) : (s.modStep g f).aonUs = s.aonUs := rfl
@[simp] theorem State.modStep_outbox (s : State) (g : Nat) (f : GroveStep → GroveStep) : (s.modStep g f).outbox = s.outbox := rfl
@[simp] theorem State.modStep_irqs (s : State) (g : Nat) (f : GroveStep → GroveStep) : (s.modStep g f).irqs = s.irqs := rfl
@[simp] theorem State.modStep_freeCtr (s : State) (g : Nat) (f : GroveStep → GroveStep) : (s.modStep g f).freeCtr = s.freeCtr := rfl
@[simp] theorem State.modStep_pageMap (s : State) (g : Nat) (f : GroveStep → GroveStep) : (s.modStep g f).pageMap = s.pageMap := rfl
@[simp] theorem State.modStep_grv (s : State) (g : Nat) (f : GroveStep → GroveStep) : (s.modStep g f).grv = s.grv := rfl
@[simp] theorem State.modStep_hrt (s : State) (g : Nat) (f : GroveStep → GroveStep) : (s.modStep g f).hrt = s.hrt := rfl
@[simp] theorem State.modStep_sch (s : State) (g : Nat) (f : GroveStep → GroveStep) : (s.modStep g f).sch = s.sch := rfl
@[simp] theorem State.modStep_num (s : State) (g : Nat) (f : GroveStep → GroveStep) : (s.modStep g f).num = s.num := rfl
@[simp] theorem State.modStep_smp (s : State) (g : Nat) (f : GroveStep → GroveStep) : (s.modStep g f).smp = s.smp := rfl
@[simp] theorem State.modStep_gth (s : State) (g : Nat) (f : GroveStep → GroveStep) : (s.modStep g f).gth = s.gth := rfl
@[simp] theorem State.modStep_emb (s : State) (g : Nat) (f : GroveStep → GroveStep) : (s.modStep g f).emb = s.emb := rfl
@[simp] theorem State.modStep_til (s : State) (g : Nat) (f : GroveStep → GroveStep) : (s.modStep g f).til = s.til := rfl
@[simp] theorem State.modStep_mem (s : State) (g : Nat) (f : GroveStep → GroveStep) : (s.modStep g f).mem = s.mem := rfl
@[simp] theorem State.modStep_lnk (s : State) (g : Nat) (f : GroveStep → GroveStep) : (s.modStep g f).lnk = s.lnk := rfl
@[simp] theorem State.modStep_upd (s : State) (g : Nat) (f : GroveStep → GroveStep) : (s.modStep g f).upd = s.upd := rfl
@[simp] theorem State.modStep_wch (s : State) (g : Nat) (f : GroveStep → GroveStep) : (s.modStep g f).wch = s.wch := rfl
@[simp] theorem State.modStep_kln (s : State) (g : Nat) (f : GroveStep → GroveStep) : (s.modStep g f).kln = s.kln := rfl
@[simp] theorem State.modStep_clk (s : State) (g : Nat) (f : GroveStep → GroveStep) : (s.modStep g f).clk = s.clk := rfl
@[simp] theorem State.modStep_hwd (s : State) (g : Nat) (f : GroveStep → GroveStep) : (s.modStep g f).hwd = s.hwd := rfl
@[simp] theorem State.modStep_sup (s : State) (g : Nat) (f : GroveStep → GroveStep) : (s.modStep g f).sup = s.sup := rfl
@[simp] theorem State.modStep_pkg (s : State) (g : Nat) (f : GroveStep → GroveStep) : (s.modStep g f).pkg = s.pkg := rfl
@[simp] theorem State.modGrove_pending (s : State) (g : Nat) (f : Grove → Grove) : (s.modGrove g f).pending = s.pending := rfl
@[simp] theorem State.modGrove_regs (s : State) (g : Nat) (f : Grove → Grove) : (s.modGrove g f).regs = s.regs := rfl
@[simp] theorem State.modGrove_aonUs (s : State) (g : Nat) (f : Grove → Grove) : (s.modGrove g f).aonUs = s.aonUs := rfl
@[simp] theorem State.modGrove_outbox (s : State) (g : Nat) (f : Grove → Grove) : (s.modGrove g f).outbox = s.outbox := rfl
@[simp] theorem State.modGrove_irqs (s : State) (g : Nat) (f : Grove → Grove) : (s.modGrove g f).irqs = s.irqs := rfl
@[simp] theorem State.modGrove_freeCtr (s : State) (g : Nat) (f : Grove → Grove) : (s.modGrove g f).freeCtr = s.freeCtr := rfl
@[simp] theorem State.modGrove_pageMap (s : State) (g : Nat) (f : Grove → Grove) : (s.modGrove g f).pageMap = s.pageMap := rfl
@[simp] theorem State.modGrove_hrt (s : State) (g : Nat) (f : Grove → Grove) : (s.modGrove g f).hrt = s.hrt := rfl
@[simp] theorem State.modGrove_sch (s : State) (g : Nat) (f : Grove → Grove) : (s.modGrove g f).sch = s.sch := rfl
@[simp] theorem State.modGrove_num (s : State) (g : Nat) (f : Grove → Grove) : (s.modGrove g f).num = s.num := rfl
@[simp] theorem State.modGrove_smp (s : State) (g : Nat) (f : Grove → Grove) : (s.modGrove g f).smp = s.smp := rfl
@[simp] theorem State.modGrove_gth (s : State) (g : Nat) (f : Grove → Grove) : (s.modGrove g f).gth = s.gth := rfl
@[simp] theorem State.modGrove_emb (s : State) (g : Nat) (f : Grove → Grove) : (s.modGrove g f).emb = s.emb := rfl
@[simp] theorem State.modGrove_til (s : State) (g : Nat) (f : Grove → Grove) : (s.modGrove g f).til = s.til := rfl
@[simp] theorem State.modGrove_mem (s : State) (g : Nat) (f : Grove → Grove) : (s.modGrove g f).mem = s.mem := rfl
@[simp] theorem State.modGrove_lnk (s : State) (g : Nat) (f : Grove → Grove) : (s.modGrove g f).lnk = s.lnk := rfl
@[simp] theorem State.modGrove_col (s : State) (g : Nat) (f : Grove → Grove) : (s.modGrove g f).col = s.col := rfl
@[simp] theorem State.modGrove_upd (s : State) (g : Nat) (f : Grove → Grove) : (s.modGrove g f).upd = s.upd := rfl
@[simp] theorem State.modGrove_wch (s : State) (g : Nat) (f : Grove → Grove) : (s.modGrove g f).wch = s.wch := rfl
@[simp] theorem State.modGrove_kln (s : State) (g : Nat) (f : Grove → Grove) : (s.modGrove g f).kln = s.kln := rfl
@[simp] theorem State.modGrove_clk (s : State) (g : Nat) (f : Grove → Grove) : (s.modGrove g f).clk = s.clk := rfl
@[simp] theorem State.modGrove_hwd (s : State) (g : Nat) (f : Grove → Grove) : (s.modGrove g f).hwd = s.hwd := rfl
@[simp] theorem State.modGrove_sup (s : State) (g : Nat) (f : Grove → Grove) : (s.modGrove g f).sup = s.sup := rfl
@[simp] theorem State.modGrove_pkg (s : State) (g : Nat) (f : Grove → Grove) : (s.modGrove g f).pkg = s.pkg := rfl
@[simp] theorem State.interrupt_pending (s : State) (core : Nat) : (s.interrupt core).pending = s.pending := rfl
@[simp] theorem State.interrupt_regs (s : State) (core : Nat) : (s.interrupt core).regs = s.regs := rfl
@[simp] theorem State.interrupt_aonUs (s : State) (core : Nat) : (s.interrupt core).aonUs = s.aonUs := rfl
@[simp] theorem State.interrupt_outbox (s : State) (core : Nat) : (s.interrupt core).outbox = s.outbox := rfl
@[simp] theorem State.interrupt_freeCtr (s : State) (core : Nat) : (s.interrupt core).freeCtr = s.freeCtr := rfl
@[simp] theorem State.interrupt_pageMap (s : State) (core : Nat) : (s.interrupt core).pageMap = s.pageMap := rfl
@[simp] theorem State.interrupt_grv (s : State) (core : Nat) : (s.interrupt core).grv = s.grv := rfl
@[simp] theorem State.interrupt_hrt (s : State) (core : Nat) : (s.interrupt core).hrt = s.hrt := rfl
@[simp] theorem State.interrupt_sch (s : State) (core : Nat) : (s.interrupt core).sch = s.sch := rfl
@[simp] theorem State.interrupt_num (s : State) (core : Nat) : (s.interrupt core).num = s.num := rfl
@[simp] theorem State.interrupt_smp (s : State) (core : Nat) : (s.interrupt core).smp = s.smp := rfl
@[simp] theorem State.interrupt_gth (s : State) (core : Nat) : (s.interrupt core).gth = s.gth := rfl
@[simp] theorem State.interrupt_emb (s : State) (core : Nat) : (s.interrupt core).emb = s.emb := rfl
@[simp] theorem State.interrupt_til (s : State) (core : Nat) : (s.interrupt core).til = s.til := rfl
@[simp] theorem State.interrupt_mem (s : State) (core : Nat) : (s.interrupt core).mem = s.mem := rfl
@[simp] theorem State.interrupt_lnk (s : State) (core : Nat) : (s.interrupt core).lnk = s.lnk := rfl
@[simp] theorem State.interrupt_col (s : State) (core : Nat) : (s.interrupt core).col = s.col := rfl
@[simp] theorem State.interrupt_upd (s : State) (core : Nat) : (s.interrupt core).upd = s.upd := rfl
@[simp] theorem State.interrupt_wch (s : State) (core : Nat) : (s.interrupt core).wch = s.wch := rfl
@[simp] theorem State.interrupt_kln (s : State) (core : Nat) : (s.interrupt core).kln = s.kln := rfl
@[simp] theorem State.interrupt_clk (s : State) (core : Nat) : (s.interrupt core).clk = s.clk := rfl
@[simp] theorem State.interrupt_hwd (s : State) (core : Nat) : (s.interrupt core).hwd = s.hwd := rfl
@[simp] theorem State.interrupt_sup (s : State) (core : Nat) : (s.interrupt core).sup = s.sup := rfl
@[simp] theorem State.interrupt_pkg (s : State) (core : Nat) : (s.interrupt core).pkg = s.pkg := rfl
@[simp] theorem State.modChannel_pending (s : State) (c : Nat) (f : Channel → Channel) : (s.modChannel c f).pending = s.pending := rfl
@[simp] theorem State.modChannel_regs (s : State) (c : Nat) (f : Channel → Channel) : (s.modChannel c f).regs = s.regs := rfl
@[simp] theorem State.modChannel_aonUs (s : State) (c : Nat) (f : Channel → Channel) : (s.modChannel c f).aonUs = s.aonUs := rfl
@[simp] theorem State.modChannel_outbox (s : State) (c : Nat) (f : Channel → Channel) : (s.modChannel c f).outbox = s.outbox := rfl
@[simp] theorem State.modChannel_irqs (s : State) (c : Nat) (f : Channel → Channel) : (s.modChannel c f).irqs = s.irqs := rfl
@[simp] theorem State.modChannel_freeCtr (s : State) (c : Nat) (f : Channel → Channel) : (s.modChannel c f).freeCtr = s.freeCtr := rfl
@[simp] theorem State.modChannel_pageMap (s : State) (c : Nat) (f : Channel → Channel) : (s.modChannel c f).pageMap = s.pageMap := rfl
@[simp] theorem State.modChannel_grv (s : State) (c : Nat) (f : Channel → Channel) : (s.modChannel c f).grv = s.grv := rfl
@[simp] theorem State.modChannel_hrt (s : State) (c : Nat) (f : Channel → Channel) : (s.modChannel c f).hrt = s.hrt := rfl
@[simp] theorem State.modChannel_sch (s : State) (c : Nat) (f : Channel → Channel) : (s.modChannel c f).sch = s.sch := rfl
@[simp] theorem State.modChannel_num (s : State) (c : Nat) (f : Channel → Channel) : (s.modChannel c f).num = s.num := rfl
@[simp] theorem State.modChannel_smp (s : State) (c : Nat) (f : Channel → Channel) : (s.modChannel c f).smp = s.smp := rfl
@[simp] theorem State.modChannel_gth (s : State) (c : Nat) (f : Channel → Channel) : (s.modChannel c f).gth = s.gth := rfl
@[simp] theorem State.modChannel_emb (s : State) (c : Nat) (f : Channel → Channel) : (s.modChannel c f).emb = s.emb := rfl
@[simp] theorem State.modChannel_til (s : State) (c : Nat) (f : Channel → Channel) : (s.modChannel c f).til = s.til := rfl
@[simp] theorem State.modChannel_lnk (s : State) (c : Nat) (f : Channel → Channel) : (s.modChannel c f).lnk = s.lnk := rfl
@[simp] theorem State.modChannel_col (s : State) (c : Nat) (f : Channel → Channel) : (s.modChannel c f).col = s.col := rfl
@[simp] theorem State.modChannel_upd (s : State) (c : Nat) (f : Channel → Channel) : (s.modChannel c f).upd = s.upd := rfl
@[simp] theorem State.modChannel_wch (s : State) (c : Nat) (f : Channel → Channel) : (s.modChannel c f).wch = s.wch := rfl
@[simp] theorem State.modChannel_kln (s : State) (c : Nat) (f : Channel → Channel) : (s.modChannel c f).kln = s.kln := rfl
@[simp] theorem State.modChannel_clk (s : State) (c : Nat) (f : Channel → Channel) : (s.modChannel c f).clk = s.clk := rfl
@[simp] theorem State.modChannel_hwd (s : State) (c : Nat) (f : Channel → Channel) : (s.modChannel c f).hwd = s.hwd := rfl
@[simp] theorem State.modChannel_sup (s : State) (c : Nat) (f : Channel → Channel) : (s.modChannel c f).sup = s.sup := rfl
@[simp] theorem State.modChannel_pkg (s : State) (c : Nat) (f : Channel → Channel) : (s.modChannel c f).pkg = s.pkg := rfl
@[simp] theorem State.modPhys_pending (s : State) (p : Nat) (f : PhysChannel → PhysChannel) : (s.modPhys p f).pending = s.pending := rfl
@[simp] theorem State.modPhys_regs (s : State) (p : Nat) (f : PhysChannel → PhysChannel) : (s.modPhys p f).regs = s.regs := rfl
@[simp] theorem State.modPhys_aonUs (s : State) (p : Nat) (f : PhysChannel → PhysChannel) : (s.modPhys p f).aonUs = s.aonUs := rfl
@[simp] theorem State.modPhys_outbox (s : State) (p : Nat) (f : PhysChannel → PhysChannel) : (s.modPhys p f).outbox = s.outbox := rfl
@[simp] theorem State.modPhys_irqs (s : State) (p : Nat) (f : PhysChannel → PhysChannel) : (s.modPhys p f).irqs = s.irqs := rfl
@[simp] theorem State.modPhys_freeCtr (s : State) (p : Nat) (f : PhysChannel → PhysChannel) : (s.modPhys p f).freeCtr = s.freeCtr := rfl
@[simp] theorem State.modPhys_pageMap (s : State) (p : Nat) (f : PhysChannel → PhysChannel) : (s.modPhys p f).pageMap = s.pageMap := rfl
@[simp] theorem State.modPhys_grv (s : State) (p : Nat) (f : PhysChannel → PhysChannel) : (s.modPhys p f).grv = s.grv := rfl
@[simp] theorem State.modPhys_hrt (s : State) (p : Nat) (f : PhysChannel → PhysChannel) : (s.modPhys p f).hrt = s.hrt := rfl
@[simp] theorem State.modPhys_sch (s : State) (p : Nat) (f : PhysChannel → PhysChannel) : (s.modPhys p f).sch = s.sch := rfl
@[simp] theorem State.modPhys_num (s : State) (p : Nat) (f : PhysChannel → PhysChannel) : (s.modPhys p f).num = s.num := rfl
@[simp] theorem State.modPhys_smp (s : State) (p : Nat) (f : PhysChannel → PhysChannel) : (s.modPhys p f).smp = s.smp := rfl
@[simp] theorem State.modPhys_gth (s : State) (p : Nat) (f : PhysChannel → PhysChannel) : (s.modPhys p f).gth = s.gth := rfl
@[simp] theorem State.modPhys_emb (s : State) (p : Nat) (f : PhysChannel → PhysChannel) : (s.modPhys p f).emb = s.emb := rfl
@[simp] theorem State.modPhys_til (s : State) (p : Nat) (f : PhysChannel → PhysChannel) : (s.modPhys p f).til = s.til := rfl
@[simp] theorem State.modPhys_lnk (s : State) (p : Nat) (f : PhysChannel → PhysChannel) : (s.modPhys p f).lnk = s.lnk := rfl
@[simp] theorem State.modPhys_col (s : State) (p : Nat) (f : PhysChannel → PhysChannel) : (s.modPhys p f).col = s.col := rfl
@[simp] theorem State.modPhys_upd (s : State) (p : Nat) (f : PhysChannel → PhysChannel) : (s.modPhys p f).upd = s.upd := rfl
@[simp] theorem State.modPhys_wch (s : State) (p : Nat) (f : PhysChannel → PhysChannel) : (s.modPhys p f).wch = s.wch := rfl
@[simp] theorem State.modPhys_kln (s : State) (p : Nat) (f : PhysChannel → PhysChannel) : (s.modPhys p f).kln = s.kln := rfl
@[simp] theorem State.modPhys_clk (s : State) (p : Nat) (f : PhysChannel → PhysChannel) : (s.modPhys p f).clk = s.clk := rfl
@[simp] theorem State.modPhys_hwd (s : State) (p : Nat) (f : PhysChannel → PhysChannel) : (s.modPhys p f).hwd = s.hwd := rfl
@[simp] theorem State.modPhys_sup (s : State) (p : Nat) (f : PhysChannel → PhysChannel) : (s.modPhys p f).sup = s.sup := rfl
@[simp] theorem State.modPhys_pkg (s : State) (p : Nat) (f : PhysChannel → PhysChannel) : (s.modPhys p f).pkg = s.pkg := rfl
@[simp] theorem State.modCells_pending (s : State) (f : List Host.Cell → List Host.Cell) : (s.modCells f).pending = s.pending := rfl
@[simp] theorem State.modCells_regs (s : State) (f : List Host.Cell → List Host.Cell) : (s.modCells f).regs = s.regs := rfl
@[simp] theorem State.modCells_aonUs (s : State) (f : List Host.Cell → List Host.Cell) : (s.modCells f).aonUs = s.aonUs := rfl
@[simp] theorem State.modCells_outbox (s : State) (f : List Host.Cell → List Host.Cell) : (s.modCells f).outbox = s.outbox := rfl
@[simp] theorem State.modCells_irqs (s : State) (f : List Host.Cell → List Host.Cell) : (s.modCells f).irqs = s.irqs := rfl
@[simp] theorem State.modCells_freeCtr (s : State) (f : List Host.Cell → List Host.Cell) : (s.modCells f).freeCtr = s.freeCtr := rfl
@[simp] theorem State.modCells_pageMap (s : State) (f : List Host.Cell → List Host.Cell) : (s.modCells f).pageMap = s.pageMap := rfl
@[simp] theorem State.modCells_grv (s : State) (f : List Host.Cell → List Host.Cell) : (s.modCells f).grv = s.grv := rfl
@[simp] theorem State.modCells_hrt (s : State) (f : List Host.Cell → List Host.Cell) : (s.modCells f).hrt = s.hrt := rfl
@[simp] theorem State.modCells_sch (s : State) (f : List Host.Cell → List Host.Cell) : (s.modCells f).sch = s.sch := rfl
@[simp] theorem State.modCells_num (s : State) (f : List Host.Cell → List Host.Cell) : (s.modCells f).num = s.num := rfl
@[simp] theorem State.modCells_smp (s : State) (f : List Host.Cell → List Host.Cell) : (s.modCells f).smp = s.smp := rfl
@[simp] theorem State.modCells_gth (s : State) (f : List Host.Cell → List Host.Cell) : (s.modCells f).gth = s.gth := rfl
@[simp] theorem State.modCells_emb (s : State) (f : List Host.Cell → List Host.Cell) : (s.modCells f).emb = s.emb := rfl
@[simp] theorem State.modCells_til (s : State) (f : List Host.Cell → List Host.Cell) : (s.modCells f).til = s.til := rfl
@[simp] theorem State.modCells_lnk (s : State) (f : List Host.Cell → List Host.Cell) : (s.modCells f).lnk = s.lnk := rfl
@[simp] theorem State.modCells_col (s : State) (f : List Host.Cell → List Host.Cell) : (s.modCells f).col = s.col := rfl
@[simp] theorem State.modCells_upd (s : State) (f : List Host.Cell → List Host.Cell) : (s.modCells f).upd = s.upd := rfl
@[simp] theorem State.modCells_wch (s : State) (f : List Host.Cell → List Host.Cell) : (s.modCells f).wch = s.wch := rfl
@[simp] theorem State.modCells_kln (s : State) (f : List Host.Cell → List Host.Cell) : (s.modCells f).kln = s.kln := rfl
@[simp] theorem State.modCells_clk (s : State) (f : List Host.Cell → List Host.Cell) : (s.modCells f).clk = s.clk := rfl
@[simp] theorem State.modCells_hwd (s : State) (f : List Host.Cell → List Host.Cell) : (s.modCells f).hwd = s.hwd := rfl
@[simp] theorem State.modCells_sup (s : State) (f : List Host.Cell → List Host.Cell) : (s.modCells f).sup = s.sup := rfl
@[simp] theorem State.modCells_pkg (s : State) (f : List Host.Cell → List Host.Cell) : (s.modCells f).pkg = s.pkg := rfl
@[simp] theorem State.putLine_pending (s : State) (c : Nat) (line : Nat) (bs : List Byte) : (s.putLine c line bs).pending = s.pending := rfl
@[simp] theorem State.putLine_regs (s : State) (c : Nat) (line : Nat) (bs : List Byte) : (s.putLine c line bs).regs = s.regs := rfl
@[simp] theorem State.putLine_aonUs (s : State) (c : Nat) (line : Nat) (bs : List Byte) : (s.putLine c line bs).aonUs = s.aonUs := rfl
@[simp] theorem State.putLine_outbox (s : State) (c : Nat) (line : Nat) (bs : List Byte) : (s.putLine c line bs).outbox = s.outbox := rfl
@[simp] theorem State.putLine_irqs (s : State) (c : Nat) (line : Nat) (bs : List Byte) : (s.putLine c line bs).irqs = s.irqs := rfl
@[simp] theorem State.putLine_freeCtr (s : State) (c : Nat) (line : Nat) (bs : List Byte) : (s.putLine c line bs).freeCtr = s.freeCtr := rfl
@[simp] theorem State.putLine_pageMap (s : State) (c : Nat) (line : Nat) (bs : List Byte) : (s.putLine c line bs).pageMap = s.pageMap := rfl
@[simp] theorem State.putLine_grv (s : State) (c : Nat) (line : Nat) (bs : List Byte) : (s.putLine c line bs).grv = s.grv := rfl
@[simp] theorem State.putLine_hrt (s : State) (c : Nat) (line : Nat) (bs : List Byte) : (s.putLine c line bs).hrt = s.hrt := rfl
@[simp] theorem State.putLine_sch (s : State) (c : Nat) (line : Nat) (bs : List Byte) : (s.putLine c line bs).sch = s.sch := rfl
@[simp] theorem State.putLine_num (s : State) (c : Nat) (line : Nat) (bs : List Byte) : (s.putLine c line bs).num = s.num := rfl
@[simp] theorem State.putLine_smp (s : State) (c : Nat) (line : Nat) (bs : List Byte) : (s.putLine c line bs).smp = s.smp := rfl
@[simp] theorem State.putLine_gth (s : State) (c : Nat) (line : Nat) (bs : List Byte) : (s.putLine c line bs).gth = s.gth := rfl
@[simp] theorem State.putLine_emb (s : State) (c : Nat) (line : Nat) (bs : List Byte) : (s.putLine c line bs).emb = s.emb := rfl
@[simp] theorem State.putLine_til (s : State) (c : Nat) (line : Nat) (bs : List Byte) : (s.putLine c line bs).til = s.til := rfl
@[simp] theorem State.putLine_lnk (s : State) (c : Nat) (line : Nat) (bs : List Byte) : (s.putLine c line bs).lnk = s.lnk := rfl
@[simp] theorem State.putLine_col (s : State) (c : Nat) (line : Nat) (bs : List Byte) : (s.putLine c line bs).col = s.col := rfl
@[simp] theorem State.putLine_upd (s : State) (c : Nat) (line : Nat) (bs : List Byte) : (s.putLine c line bs).upd = s.upd := rfl
@[simp] theorem State.putLine_wch (s : State) (c : Nat) (line : Nat) (bs : List Byte) : (s.putLine c line bs).wch = s.wch := rfl
@[simp] theorem State.putLine_kln (s : State) (c : Nat) (line : Nat) (bs : List Byte) : (s.putLine c line bs).kln = s.kln := rfl
@[simp] theorem State.putLine_clk (s : State) (c : Nat) (line : Nat) (bs : List Byte) : (s.putLine c line bs).clk = s.clk := rfl
@[simp] theorem State.putLine_hwd (s : State) (c : Nat) (line : Nat) (bs : List Byte) : (s.putLine c line bs).hwd = s.hwd := rfl
@[simp] theorem State.putLine_sup (s : State) (c : Nat) (line : Nat) (bs : List Byte) : (s.putLine c line bs).sup = s.sup := rfl
@[simp] theorem State.putLine_pkg (s : State) (c : Nat) (line : Nat) (bs : List Byte) : (s.putLine c line bs).pkg = s.pkg := rfl
@[simp] theorem State.unsaturate_pending (s : State) (p : Nat → Bool) : (s.unsaturate p).pending = s.pending := rfl
@[simp] theorem State.unsaturate_regs (s : State) (p : Nat → Bool) : (s.unsaturate p).regs = s.regs := rfl
@[simp] theorem State.unsaturate_aonUs (s : State) (p : Nat → Bool) : (s.unsaturate p).aonUs = s.aonUs := rfl
@[simp] theorem State.unsaturate_outbox (s : State) (p : Nat → Bool) : (s.unsaturate p).outbox = s.outbox := rfl
@[simp] theorem State.unsaturate_irqs (s : State) (p : Nat → Bool) : (s.unsaturate p).irqs = s.irqs := rfl
@[simp] theorem State.unsaturate_freeCtr (s : State) (p : Nat → Bool) : (s.unsaturate p).freeCtr = s.freeCtr := rfl
@[simp] theorem State.unsaturate_pageMap (s : State) (p : Nat → Bool) : (s.unsaturate p).pageMap = s.pageMap := rfl
@[simp] theorem State.unsaturate_grv (s : State) (p : Nat → Bool) : (s.unsaturate p).grv = s.grv := rfl
@[simp] theorem State.unsaturate_hrt (s : State) (p : Nat → Bool) : (s.unsaturate p).hrt = s.hrt := rfl
@[simp] theorem State.unsaturate_sch (s : State) (p : Nat → Bool) : (s.unsaturate p).sch = s.sch := rfl
@[simp] theorem State.unsaturate_num (s : State) (p : Nat → Bool) : (s.unsaturate p).num = s.num := rfl
@[simp] theorem State.unsaturate_smp (s : State) (p : Nat → Bool) : (s.unsaturate p).smp = s.smp := rfl
@[simp] theorem State.unsaturate_gth (s : State) (p : Nat → Bool) : (s.unsaturate p).gth = s.gth := rfl
@[simp] theorem State.unsaturate_emb (s : State) (p : Nat → Bool) : (s.unsaturate p).emb = s.emb := rfl
@[simp] theorem State.unsaturate_til (s : State) (p : Nat → Bool) : (s.unsaturate p).til = s.til := rfl
@[simp] theorem State.unsaturate_lnk (s : State) (p : Nat → Bool) : (s.unsaturate p).lnk = s.lnk := rfl
@[simp] theorem State.unsaturate_col (s : State) (p : Nat → Bool) : (s.unsaturate p).col = s.col := rfl
@[simp] theorem State.unsaturate_upd (s : State) (p : Nat → Bool) : (s.unsaturate p).upd = s.upd := rfl
@[simp] theorem State.unsaturate_wch (s : State) (p : Nat → Bool) : (s.unsaturate p).wch = s.wch := rfl
@[simp] theorem State.unsaturate_kln (s : State) (p : Nat → Bool) : (s.unsaturate p).kln = s.kln := rfl
@[simp] theorem State.unsaturate_clk (s : State) (p : Nat → Bool) : (s.unsaturate p).clk = s.clk := rfl
@[simp] theorem State.unsaturate_hwd (s : State) (p : Nat → Bool) : (s.unsaturate p).hwd = s.hwd := rfl
@[simp] theorem State.unsaturate_sup (s : State) (p : Nat → Bool) : (s.unsaturate p).sup = s.sup := rfl
@[simp] theorem State.unsaturate_pkg (s : State) (p : Nat → Bool) : (s.unsaturate p).pkg = s.pkg := rfl
@[simp] theorem State.modPort_pending (s : State) (p : Nat) (f : Port → Port) : (s.modPort p f).pending = s.pending := rfl
@[simp] theorem State.modPort_regs (s : State) (p : Nat) (f : Port → Port) : (s.modPort p f).regs = s.regs := rfl
@[simp] theorem State.modPort_aonUs (s : State) (p : Nat) (f : Port → Port) : (s.modPort p f).aonUs = s.aonUs := rfl
@[simp] theorem State.modPort_outbox (s : State) (p : Nat) (f : Port → Port) : (s.modPort p f).outbox = s.outbox := rfl
@[simp] theorem State.modPort_irqs (s : State) (p : Nat) (f : Port → Port) : (s.modPort p f).irqs = s.irqs := rfl
@[simp] theorem State.modPort_freeCtr (s : State) (p : Nat) (f : Port → Port) : (s.modPort p f).freeCtr = s.freeCtr := rfl
@[simp] theorem State.modPort_pageMap (s : State) (p : Nat) (f : Port → Port) : (s.modPort p f).pageMap = s.pageMap := rfl
@[simp] theorem State.modPort_grv (s : State) (p : Nat) (f : Port → Port) : (s.modPort p f).grv = s.grv := rfl
@[simp] theorem State.modPort_hrt (s : State) (p : Nat) (f : Port → Port) : (s.modPort p f).hrt = s.hrt := rfl
@[simp] theorem State.modPort_sch (s : State) (p : Nat) (f : Port → Port) : (s.modPort p f).sch = s.sch := rfl
@[simp] theorem State.modPort_num (s : State) (p : Nat) (f : Port → Port) : (s.modPort p f).num = s.num := rfl
@[simp] theorem State.modPort_smp (s : State) (p : Nat) (f : Port → Port) : (s.modPort p f).smp = s.smp := rfl
@[simp] theorem State.modPort_gth (s : State) (p : Nat) (f : Port → Port) : (s.modPort p f).gth = s.gth := rfl
@[simp] theorem State.modPort_emb (s : State) (p : Nat) (f : Port → Port) : (s.modPort p f).emb = s.emb := rfl
@[simp] theorem State.modPort_til (s : State) (p : Nat) (f : Port → Port) : (s.modPort p f).til = s.til := rfl
@[simp] theorem State.modPort_mem (s : State) (p : Nat) (f : Port → Port) : (s.modPort p f).mem = s.mem := rfl
@[simp] theorem State.modPort_col (s : State) (p : Nat) (f : Port → Port) : (s.modPort p f).col = s.col := rfl
@[simp] theorem State.modPort_upd (s : State) (p : Nat) (f : Port → Port) : (s.modPort p f).upd = s.upd := rfl
@[simp] theorem State.modPort_wch (s : State) (p : Nat) (f : Port → Port) : (s.modPort p f).wch = s.wch := rfl
@[simp] theorem State.modPort_kln (s : State) (p : Nat) (f : Port → Port) : (s.modPort p f).kln = s.kln := rfl
@[simp] theorem State.modPort_clk (s : State) (p : Nat) (f : Port → Port) : (s.modPort p f).clk = s.clk := rfl
@[simp] theorem State.modPort_hwd (s : State) (p : Nat) (f : Port → Port) : (s.modPort p f).hwd = s.hwd := rfl
@[simp] theorem State.modPort_sup (s : State) (p : Nat) (f : Port → Port) : (s.modPort p f).sup = s.sup := rfl
@[simp] theorem State.modPort_pkg (s : State) (p : Nat) (f : Port → Port) : (s.modPort p f).pkg = s.pkg := rfl
@[simp] theorem State.modBudget_pending (s : State) (d : Nat) (g : Nat) (a : Nat) (f : Budget → Budget) : (s.modBudget d g a f).pending = s.pending := rfl
@[simp] theorem State.modBudget_regs (s : State) (d : Nat) (g : Nat) (a : Nat) (f : Budget → Budget) : (s.modBudget d g a f).regs = s.regs := rfl
@[simp] theorem State.modBudget_aonUs (s : State) (d : Nat) (g : Nat) (a : Nat) (f : Budget → Budget) : (s.modBudget d g a f).aonUs = s.aonUs := rfl
@[simp] theorem State.modBudget_outbox (s : State) (d : Nat) (g : Nat) (a : Nat) (f : Budget → Budget) : (s.modBudget d g a f).outbox = s.outbox := rfl
@[simp] theorem State.modBudget_irqs (s : State) (d : Nat) (g : Nat) (a : Nat) (f : Budget → Budget) : (s.modBudget d g a f).irqs = s.irqs := rfl
@[simp] theorem State.modBudget_freeCtr (s : State) (d : Nat) (g : Nat) (a : Nat) (f : Budget → Budget) : (s.modBudget d g a f).freeCtr = s.freeCtr := rfl
@[simp] theorem State.modBudget_pageMap (s : State) (d : Nat) (g : Nat) (a : Nat) (f : Budget → Budget) : (s.modBudget d g a f).pageMap = s.pageMap := rfl
@[simp] theorem State.modBudget_hrt (s : State) (d : Nat) (g : Nat) (a : Nat) (f : Budget → Budget) : (s.modBudget d g a f).hrt = s.hrt := rfl
@[simp] theorem State.modBudget_sch (s : State) (d : Nat) (g : Nat) (a : Nat) (f : Budget → Budget) : (s.modBudget d g a f).sch = s.sch := rfl
@[simp] theorem State.modBudget_num (s : State) (d : Nat) (g : Nat) (a : Nat) (f : Budget → Budget) : (s.modBudget d g a f).num = s.num := rfl
@[simp] theorem State.modBudget_smp (s : State) (d : Nat) (g : Nat) (a : Nat) (f : Budget → Budget) : (s.modBudget d g a f).smp = s.smp := rfl
@[simp] theorem State.modBudget_gth (s : State) (d : Nat) (g : Nat) (a : Nat) (f : Budget → Budget) : (s.modBudget d g a f).gth = s.gth := rfl
@[simp] theorem State.modBudget_emb (s : State) (d : Nat) (g : Nat) (a : Nat) (f : Budget → Budget) : (s.modBudget d g a f).emb = s.emb := rfl
@[simp] theorem State.modBudget_til (s : State) (d : Nat) (g : Nat) (a : Nat) (f : Budget → Budget) : (s.modBudget d g a f).til = s.til := rfl
@[simp] theorem State.modBudget_mem (s : State) (d : Nat) (g : Nat) (a : Nat) (f : Budget → Budget) : (s.modBudget d g a f).mem = s.mem := rfl
@[simp] theorem State.modBudget_lnk (s : State) (d : Nat) (g : Nat) (a : Nat) (f : Budget → Budget) : (s.modBudget d g a f).lnk = s.lnk := rfl
@[simp] theorem State.modBudget_col (s : State) (d : Nat) (g : Nat) (a : Nat) (f : Budget → Budget) : (s.modBudget d g a f).col = s.col := rfl
@[simp] theorem State.modBudget_upd (s : State) (d : Nat) (g : Nat) (a : Nat) (f : Budget → Budget) : (s.modBudget d g a f).upd = s.upd := rfl
@[simp] theorem State.modBudget_wch (s : State) (d : Nat) (g : Nat) (a : Nat) (f : Budget → Budget) : (s.modBudget d g a f).wch = s.wch := rfl
@[simp] theorem State.modBudget_kln (s : State) (d : Nat) (g : Nat) (a : Nat) (f : Budget → Budget) : (s.modBudget d g a f).kln = s.kln := rfl
@[simp] theorem State.modBudget_clk (s : State) (d : Nat) (g : Nat) (a : Nat) (f : Budget → Budget) : (s.modBudget d g a f).clk = s.clk := rfl
@[simp] theorem State.modBudget_hwd (s : State) (d : Nat) (g : Nat) (a : Nat) (f : Budget → Budget) : (s.modBudget d g a f).hwd = s.hwd := rfl
@[simp] theorem State.modBudget_sup (s : State) (d : Nat) (g : Nat) (a : Nat) (f : Budget → Budget) : (s.modBudget d g a f).sup = s.sup := rfl
@[simp] theorem State.modBudget_pkg (s : State) (d : Nat) (g : Nat) (a : Nat) (f : Budget → Budget) : (s.modBudget d g a f).pkg = s.pkg := rfl
@[simp] theorem State.modQueue_pending (s : State) (q : Nat) (f : Queue → Queue) : (s.modQueue q f).pending = s.pending := rfl
@[simp] theorem State.modQueue_regs (s : State) (q : Nat) (f : Queue → Queue) : (s.modQueue q f).regs = s.regs := rfl
@[simp] theorem State.modQueue_aonUs (s : State) (q : Nat) (f : Queue → Queue) : (s.modQueue q f).aonUs = s.aonUs := rfl
@[simp] theorem State.modQueue_outbox (s : State) (q : Nat) (f : Queue → Queue) : (s.modQueue q f).outbox = s.outbox := rfl
@[simp] theorem State.modQueue_irqs (s : State) (q : Nat) (f : Queue → Queue) : (s.modQueue q f).irqs = s.irqs := rfl
@[simp] theorem State.modQueue_freeCtr (s : State) (q : Nat) (f : Queue → Queue) : (s.modQueue q f).freeCtr = s.freeCtr := rfl
@[simp] theorem State.modQueue_pageMap (s : State) (q : Nat) (f : Queue → Queue) : (s.modQueue q f).pageMap = s.pageMap := rfl
@[simp] theorem State.modQueue_grv (s : State) (q : Nat) (f : Queue → Queue) : (s.modQueue q f).grv = s.grv := rfl
@[simp] theorem State.modQueue_sch (s : State) (q : Nat) (f : Queue → Queue) : (s.modQueue q f).sch = s.sch := rfl
@[simp] theorem State.modQueue_num (s : State) (q : Nat) (f : Queue → Queue) : (s.modQueue q f).num = s.num := rfl
@[simp] theorem State.modQueue_smp (s : State) (q : Nat) (f : Queue → Queue) : (s.modQueue q f).smp = s.smp := rfl
@[simp] theorem State.modQueue_gth (s : State) (q : Nat) (f : Queue → Queue) : (s.modQueue q f).gth = s.gth := rfl
@[simp] theorem State.modQueue_emb (s : State) (q : Nat) (f : Queue → Queue) : (s.modQueue q f).emb = s.emb := rfl
@[simp] theorem State.modQueue_til (s : State) (q : Nat) (f : Queue → Queue) : (s.modQueue q f).til = s.til := rfl
@[simp] theorem State.modQueue_mem (s : State) (q : Nat) (f : Queue → Queue) : (s.modQueue q f).mem = s.mem := rfl
@[simp] theorem State.modQueue_lnk (s : State) (q : Nat) (f : Queue → Queue) : (s.modQueue q f).lnk = s.lnk := rfl
@[simp] theorem State.modQueue_col (s : State) (q : Nat) (f : Queue → Queue) : (s.modQueue q f).col = s.col := rfl
@[simp] theorem State.modQueue_upd (s : State) (q : Nat) (f : Queue → Queue) : (s.modQueue q f).upd = s.upd := rfl
@[simp] theorem State.modQueue_wch (s : State) (q : Nat) (f : Queue → Queue) : (s.modQueue q f).wch = s.wch := rfl
@[simp] theorem State.modQueue_kln (s : State) (q : Nat) (f : Queue → Queue) : (s.modQueue q f).kln = s.kln := rfl
@[simp] theorem State.modQueue_clk (s : State) (q : Nat) (f : Queue → Queue) : (s.modQueue q f).clk = s.clk := rfl
@[simp] theorem State.modQueue_hwd (s : State) (q : Nat) (f : Queue → Queue) : (s.modQueue q f).hwd = s.hwd := rfl
@[simp] theorem State.modQueue_sup (s : State) (q : Nat) (f : Queue → Queue) : (s.modQueue q f).sup = s.sup := rfl
@[simp] theorem State.modQueue_pkg (s : State) (q : Nat) (f : Queue → Queue) : (s.modQueue q f).pkg = s.pkg := rfl
@[simp] theorem State.modKnot_pending (s : State) (k : Nat) (f : Knot → Knot) : (s.modKnot k f).pending = s.pending := rfl
@[simp] theorem State.modKnot_regs (s : State) (k : Nat) (f : Knot → Knot) : (s.modKnot k f).regs = s.regs := rfl
@[simp] theorem State.modKnot_aonUs (s : State) (k : Nat) (f : Knot → Knot) : (s.modKnot k f).aonUs = s.aonUs := rfl
@[simp] theorem State.modKnot_outbox (s : State) (k : Nat) (f : Knot → Knot) : (s.modKnot k f).outbox = s.outbox := rfl
@[simp] theorem State.modKnot_irqs (s : State) (k : Nat) (f : Knot → Knot) : (s.modKnot k f).irqs = s.irqs := rfl
@[simp] theorem State.modKnot_freeCtr (s : State) (k : Nat) (f : Knot → Knot) : (s.modKnot k f).freeCtr = s.freeCtr := rfl
@[simp] theorem State.modKnot_pageMap (s : State) (k : Nat) (f : Knot → Knot) : (s.modKnot k f).pageMap = s.pageMap := rfl
@[simp] theorem State.modKnot_grv (s : State) (k : Nat) (f : Knot → Knot) : (s.modKnot k f).grv = s.grv := rfl
@[simp] theorem State.modKnot_hrt (s : State) (k : Nat) (f : Knot → Knot) : (s.modKnot k f).hrt = s.hrt := rfl
@[simp] theorem State.modKnot_num (s : State) (k : Nat) (f : Knot → Knot) : (s.modKnot k f).num = s.num := rfl
@[simp] theorem State.modKnot_smp (s : State) (k : Nat) (f : Knot → Knot) : (s.modKnot k f).smp = s.smp := rfl
@[simp] theorem State.modKnot_gth (s : State) (k : Nat) (f : Knot → Knot) : (s.modKnot k f).gth = s.gth := rfl
@[simp] theorem State.modKnot_emb (s : State) (k : Nat) (f : Knot → Knot) : (s.modKnot k f).emb = s.emb := rfl
@[simp] theorem State.modKnot_til (s : State) (k : Nat) (f : Knot → Knot) : (s.modKnot k f).til = s.til := rfl
@[simp] theorem State.modKnot_mem (s : State) (k : Nat) (f : Knot → Knot) : (s.modKnot k f).mem = s.mem := rfl
@[simp] theorem State.modKnot_lnk (s : State) (k : Nat) (f : Knot → Knot) : (s.modKnot k f).lnk = s.lnk := rfl
@[simp] theorem State.modKnot_col (s : State) (k : Nat) (f : Knot → Knot) : (s.modKnot k f).col = s.col := rfl
@[simp] theorem State.modKnot_upd (s : State) (k : Nat) (f : Knot → Knot) : (s.modKnot k f).upd = s.upd := rfl
@[simp] theorem State.modKnot_wch (s : State) (k : Nat) (f : Knot → Knot) : (s.modKnot k f).wch = s.wch := rfl
@[simp] theorem State.modKnot_kln (s : State) (k : Nat) (f : Knot → Knot) : (s.modKnot k f).kln = s.kln := rfl
@[simp] theorem State.modKnot_clk (s : State) (k : Nat) (f : Knot → Knot) : (s.modKnot k f).clk = s.clk := rfl
@[simp] theorem State.modKnot_hwd (s : State) (k : Nat) (f : Knot → Knot) : (s.modKnot k f).hwd = s.hwd := rfl
@[simp] theorem State.modKnot_sup (s : State) (k : Nat) (f : Knot → Knot) : (s.modKnot k f).sup = s.sup := rfl
@[simp] theorem State.modKnot_pkg (s : State) (k : Nat) (f : Knot → Knot) : (s.modKnot k f).pkg = s.pkg := rfl
@[simp] theorem State.modSlot_pending (s : State) (key : Nat) (f : Slot → Slot) : (s.modSlot key f).pending = s.pending := rfl
@[simp] theorem State.modSlot_regs (s : State) (key : Nat) (f : Slot → Slot) : (s.modSlot key f).regs = s.regs := rfl
@[simp] theorem State.modSlot_aonUs (s : State) (key : Nat) (f : Slot → Slot) : (s.modSlot key f).aonUs = s.aonUs := rfl
@[simp] theorem State.modSlot_outbox (s : State) (key : Nat) (f : Slot → Slot) : (s.modSlot key f).outbox = s.outbox := rfl
@[simp] theorem State.modSlot_irqs (s : State) (key : Nat) (f : Slot → Slot) : (s.modSlot key f).irqs = s.irqs := rfl
@[simp] theorem State.modSlot_freeCtr (s : State) (key : Nat) (f : Slot → Slot) : (s.modSlot key f).freeCtr = s.freeCtr := rfl
@[simp] theorem State.modSlot_pageMap (s : State) (key : Nat) (f : Slot → Slot) : (s.modSlot key f).pageMap = s.pageMap := rfl
@[simp] theorem State.modSlot_grv (s : State) (key : Nat) (f : Slot → Slot) : (s.modSlot key f).grv = s.grv := rfl
@[simp] theorem State.modSlot_hrt (s : State) (key : Nat) (f : Slot → Slot) : (s.modSlot key f).hrt = s.hrt := rfl
@[simp] theorem State.modSlot_num (s : State) (key : Nat) (f : Slot → Slot) : (s.modSlot key f).num = s.num := rfl
@[simp] theorem State.modSlot_smp (s : State) (key : Nat) (f : Slot → Slot) : (s.modSlot key f).smp = s.smp := rfl
@[simp] theorem State.modSlot_gth (s : State) (key : Nat) (f : Slot → Slot) : (s.modSlot key f).gth = s.gth := rfl
@[simp] theorem State.modSlot_emb (s : State) (key : Nat) (f : Slot → Slot) : (s.modSlot key f).emb = s.emb := rfl
@[simp] theorem State.modSlot_til (s : State) (key : Nat) (f : Slot → Slot) : (s.modSlot key f).til = s.til := rfl
@[simp] theorem State.modSlot_mem (s : State) (key : Nat) (f : Slot → Slot) : (s.modSlot key f).mem = s.mem := rfl
@[simp] theorem State.modSlot_lnk (s : State) (key : Nat) (f : Slot → Slot) : (s.modSlot key f).lnk = s.lnk := rfl
@[simp] theorem State.modSlot_col (s : State) (key : Nat) (f : Slot → Slot) : (s.modSlot key f).col = s.col := rfl
@[simp] theorem State.modSlot_upd (s : State) (key : Nat) (f : Slot → Slot) : (s.modSlot key f).upd = s.upd := rfl
@[simp] theorem State.modSlot_wch (s : State) (key : Nat) (f : Slot → Slot) : (s.modSlot key f).wch = s.wch := rfl
@[simp] theorem State.modSlot_kln (s : State) (key : Nat) (f : Slot → Slot) : (s.modSlot key f).kln = s.kln := rfl
@[simp] theorem State.modSlot_clk (s : State) (key : Nat) (f : Slot → Slot) : (s.modSlot key f).clk = s.clk := rfl
@[simp] theorem State.modSlot_hwd (s : State) (key : Nat) (f : Slot → Slot) : (s.modSlot key f).hwd = s.hwd := rfl
@[simp] theorem State.modSlot_sup (s : State) (key : Nat) (f : Slot → Slot) : (s.modSlot key f).sup = s.sup := rfl
@[simp] theorem State.modSlot_pkg (s : State) (key : Nat) (f : Slot → Slot) : (s.modSlot key f).pkg = s.pkg := rfl
@[simp] theorem State.withdraw_pending (s : State) (p : Nat → Bool) : (s.withdraw p).pending = s.pending := rfl
@[simp] theorem State.withdraw_regs (s : State) (p : Nat → Bool) : (s.withdraw p).regs = s.regs := rfl
@[simp] theorem State.withdraw_aonUs (s : State) (p : Nat → Bool) : (s.withdraw p).aonUs = s.aonUs := rfl
@[simp] theorem State.withdraw_outbox (s : State) (p : Nat → Bool) : (s.withdraw p).outbox = s.outbox := rfl
@[simp] theorem State.withdraw_irqs (s : State) (p : Nat → Bool) : (s.withdraw p).irqs = s.irqs := rfl
@[simp] theorem State.withdraw_freeCtr (s : State) (p : Nat → Bool) : (s.withdraw p).freeCtr = s.freeCtr := rfl
@[simp] theorem State.withdraw_pageMap (s : State) (p : Nat → Bool) : (s.withdraw p).pageMap = s.pageMap := rfl
@[simp] theorem State.withdraw_grv (s : State) (p : Nat → Bool) : (s.withdraw p).grv = s.grv := rfl
@[simp] theorem State.withdraw_hrt (s : State) (p : Nat → Bool) : (s.withdraw p).hrt = s.hrt := rfl
@[simp] theorem State.withdraw_num (s : State) (p : Nat → Bool) : (s.withdraw p).num = s.num := rfl
@[simp] theorem State.withdraw_smp (s : State) (p : Nat → Bool) : (s.withdraw p).smp = s.smp := rfl
@[simp] theorem State.withdraw_gth (s : State) (p : Nat → Bool) : (s.withdraw p).gth = s.gth := rfl
@[simp] theorem State.withdraw_emb (s : State) (p : Nat → Bool) : (s.withdraw p).emb = s.emb := rfl
@[simp] theorem State.withdraw_til (s : State) (p : Nat → Bool) : (s.withdraw p).til = s.til := rfl
@[simp] theorem State.withdraw_mem (s : State) (p : Nat → Bool) : (s.withdraw p).mem = s.mem := rfl
@[simp] theorem State.withdraw_lnk (s : State) (p : Nat → Bool) : (s.withdraw p).lnk = s.lnk := rfl
@[simp] theorem State.withdraw_col (s : State) (p : Nat → Bool) : (s.withdraw p).col = s.col := rfl
@[simp] theorem State.withdraw_upd (s : State) (p : Nat → Bool) : (s.withdraw p).upd = s.upd := rfl
@[simp] theorem State.withdraw_wch (s : State) (p : Nat → Bool) : (s.withdraw p).wch = s.wch := rfl
@[simp] theorem State.withdraw_kln (s : State) (p : Nat → Bool) : (s.withdraw p).kln = s.kln := rfl
@[simp] theorem State.withdraw_clk (s : State) (p : Nat → Bool) : (s.withdraw p).clk = s.clk := rfl
@[simp] theorem State.withdraw_hwd (s : State) (p : Nat → Bool) : (s.withdraw p).hwd = s.hwd := rfl
@[simp] theorem State.withdraw_sup (s : State) (p : Nat → Bool) : (s.withdraw p).sup = s.sup := rfl
@[simp] theorem State.withdraw_pkg (s : State) (p : Nat → Bool) : (s.withdraw p).pkg = s.pkg := rfl
@[simp] theorem State.zeroFlows_pending (s : State) (g : Nat) : (s.zeroFlows g).pending = s.pending := rfl
@[simp] theorem State.zeroFlows_regs (s : State) (g : Nat) : (s.zeroFlows g).regs = s.regs := rfl
@[simp] theorem State.zeroFlows_aonUs (s : State) (g : Nat) : (s.zeroFlows g).aonUs = s.aonUs := rfl
@[simp] theorem State.zeroFlows_outbox (s : State) (g : Nat) : (s.zeroFlows g).outbox = s.outbox := rfl
@[simp] theorem State.zeroFlows_irqs (s : State) (g : Nat) : (s.zeroFlows g).irqs = s.irqs := rfl
@[simp] theorem State.zeroFlows_freeCtr (s : State) (g : Nat) : (s.zeroFlows g).freeCtr = s.freeCtr := rfl
@[simp] theorem State.zeroFlows_pageMap (s : State) (g : Nat) : (s.zeroFlows g).pageMap = s.pageMap := rfl
@[simp] theorem State.zeroFlows_grv (s : State) (g : Nat) : (s.zeroFlows g).grv = s.grv := rfl
@[simp] theorem State.zeroFlows_hrt (s : State) (g : Nat) : (s.zeroFlows g).hrt = s.hrt := rfl
@[simp] theorem State.zeroFlows_num (s : State) (g : Nat) : (s.zeroFlows g).num = s.num := rfl
@[simp] theorem State.zeroFlows_smp (s : State) (g : Nat) : (s.zeroFlows g).smp = s.smp := rfl
@[simp] theorem State.zeroFlows_gth (s : State) (g : Nat) : (s.zeroFlows g).gth = s.gth := rfl
@[simp] theorem State.zeroFlows_emb (s : State) (g : Nat) : (s.zeroFlows g).emb = s.emb := rfl
@[simp] theorem State.zeroFlows_til (s : State) (g : Nat) : (s.zeroFlows g).til = s.til := rfl
@[simp] theorem State.zeroFlows_mem (s : State) (g : Nat) : (s.zeroFlows g).mem = s.mem := rfl
@[simp] theorem State.zeroFlows_lnk (s : State) (g : Nat) : (s.zeroFlows g).lnk = s.lnk := rfl
@[simp] theorem State.zeroFlows_col (s : State) (g : Nat) : (s.zeroFlows g).col = s.col := rfl
@[simp] theorem State.zeroFlows_upd (s : State) (g : Nat) : (s.zeroFlows g).upd = s.upd := rfl
@[simp] theorem State.zeroFlows_wch (s : State) (g : Nat) : (s.zeroFlows g).wch = s.wch := rfl
@[simp] theorem State.zeroFlows_kln (s : State) (g : Nat) : (s.zeroFlows g).kln = s.kln := rfl
@[simp] theorem State.zeroFlows_clk (s : State) (g : Nat) : (s.zeroFlows g).clk = s.clk := rfl
@[simp] theorem State.zeroFlows_hwd (s : State) (g : Nat) : (s.zeroFlows g).hwd = s.hwd := rfl
@[simp] theorem State.zeroFlows_sup (s : State) (g : Nat) : (s.zeroFlows g).sup = s.sup := rfl
@[simp] theorem State.zeroFlows_pkg (s : State) (g : Nat) : (s.zeroFlows g).pkg = s.pkg := rfl
@[simp] theorem State.clearKnots_pending (s : State) (p : Nat → Bool) : (s.clearKnots p).pending = s.pending := rfl
@[simp] theorem State.clearKnots_regs (s : State) (p : Nat → Bool) : (s.clearKnots p).regs = s.regs := rfl
@[simp] theorem State.clearKnots_aonUs (s : State) (p : Nat → Bool) : (s.clearKnots p).aonUs = s.aonUs := rfl
@[simp] theorem State.clearKnots_outbox (s : State) (p : Nat → Bool) : (s.clearKnots p).outbox = s.outbox := rfl
@[simp] theorem State.clearKnots_irqs (s : State) (p : Nat → Bool) : (s.clearKnots p).irqs = s.irqs := rfl
@[simp] theorem State.clearKnots_freeCtr (s : State) (p : Nat → Bool) : (s.clearKnots p).freeCtr = s.freeCtr := rfl
@[simp] theorem State.clearKnots_pageMap (s : State) (p : Nat → Bool) : (s.clearKnots p).pageMap = s.pageMap := rfl
@[simp] theorem State.clearKnots_grv (s : State) (p : Nat → Bool) : (s.clearKnots p).grv = s.grv := rfl
@[simp] theorem State.clearKnots_hrt (s : State) (p : Nat → Bool) : (s.clearKnots p).hrt = s.hrt := rfl
@[simp] theorem State.clearKnots_num (s : State) (p : Nat → Bool) : (s.clearKnots p).num = s.num := rfl
@[simp] theorem State.clearKnots_smp (s : State) (p : Nat → Bool) : (s.clearKnots p).smp = s.smp := rfl
@[simp] theorem State.clearKnots_gth (s : State) (p : Nat → Bool) : (s.clearKnots p).gth = s.gth := rfl
@[simp] theorem State.clearKnots_emb (s : State) (p : Nat → Bool) : (s.clearKnots p).emb = s.emb := rfl
@[simp] theorem State.clearKnots_til (s : State) (p : Nat → Bool) : (s.clearKnots p).til = s.til := rfl
@[simp] theorem State.clearKnots_mem (s : State) (p : Nat → Bool) : (s.clearKnots p).mem = s.mem := rfl
@[simp] theorem State.clearKnots_lnk (s : State) (p : Nat → Bool) : (s.clearKnots p).lnk = s.lnk := rfl
@[simp] theorem State.clearKnots_col (s : State) (p : Nat → Bool) : (s.clearKnots p).col = s.col := rfl
@[simp] theorem State.clearKnots_upd (s : State) (p : Nat → Bool) : (s.clearKnots p).upd = s.upd := rfl
@[simp] theorem State.clearKnots_wch (s : State) (p : Nat → Bool) : (s.clearKnots p).wch = s.wch := rfl
@[simp] theorem State.clearKnots_kln (s : State) (p : Nat → Bool) : (s.clearKnots p).kln = s.kln := rfl
@[simp] theorem State.clearKnots_clk (s : State) (p : Nat → Bool) : (s.clearKnots p).clk = s.clk := rfl
@[simp] theorem State.clearKnots_hwd (s : State) (p : Nat → Bool) : (s.clearKnots p).hwd = s.hwd := rfl
@[simp] theorem State.clearKnots_sup (s : State) (p : Nat → Bool) : (s.clearKnots p).sup = s.sup := rfl
@[simp] theorem State.clearKnots_pkg (s : State) (p : Nat → Bool) : (s.clearKnots p).pkg = s.pkg := rfl
@[simp] theorem State.clearHists_pending (s : State) (g : Nat) : (s.clearHists g).pending = s.pending := rfl
@[simp] theorem State.clearHists_regs (s : State) (g : Nat) : (s.clearHists g).regs = s.regs := rfl
@[simp] theorem State.clearHists_aonUs (s : State) (g : Nat) : (s.clearHists g).aonUs = s.aonUs := rfl
@[simp] theorem State.clearHists_outbox (s : State) (g : Nat) : (s.clearHists g).outbox = s.outbox := rfl
@[simp] theorem State.clearHists_irqs (s : State) (g : Nat) : (s.clearHists g).irqs = s.irqs := rfl
@[simp] theorem State.clearHists_freeCtr (s : State) (g : Nat) : (s.clearHists g).freeCtr = s.freeCtr := rfl
@[simp] theorem State.clearHists_pageMap (s : State) (g : Nat) : (s.clearHists g).pageMap = s.pageMap := rfl
@[simp] theorem State.clearHists_grv (s : State) (g : Nat) : (s.clearHists g).grv = s.grv := rfl
@[simp] theorem State.clearHists_hrt (s : State) (g : Nat) : (s.clearHists g).hrt = s.hrt := rfl
@[simp] theorem State.clearHists_sch (s : State) (g : Nat) : (s.clearHists g).sch = s.sch := rfl
@[simp] theorem State.clearHists_smp (s : State) (g : Nat) : (s.clearHists g).smp = s.smp := rfl
@[simp] theorem State.clearHists_gth (s : State) (g : Nat) : (s.clearHists g).gth = s.gth := rfl
@[simp] theorem State.clearHists_emb (s : State) (g : Nat) : (s.clearHists g).emb = s.emb := rfl
@[simp] theorem State.clearHists_til (s : State) (g : Nat) : (s.clearHists g).til = s.til := rfl
@[simp] theorem State.clearHists_mem (s : State) (g : Nat) : (s.clearHists g).mem = s.mem := rfl
@[simp] theorem State.clearHists_lnk (s : State) (g : Nat) : (s.clearHists g).lnk = s.lnk := rfl
@[simp] theorem State.clearHists_col (s : State) (g : Nat) : (s.clearHists g).col = s.col := rfl
@[simp] theorem State.clearHists_upd (s : State) (g : Nat) : (s.clearHists g).upd = s.upd := rfl
@[simp] theorem State.clearHists_wch (s : State) (g : Nat) : (s.clearHists g).wch = s.wch := rfl
@[simp] theorem State.clearHists_kln (s : State) (g : Nat) : (s.clearHists g).kln = s.kln := rfl
@[simp] theorem State.clearHists_clk (s : State) (g : Nat) : (s.clearHists g).clk = s.clk := rfl
@[simp] theorem State.clearHists_hwd (s : State) (g : Nat) : (s.clearHists g).hwd = s.hwd := rfl
@[simp] theorem State.clearHists_sup (s : State) (g : Nat) : (s.clearHists g).sup = s.sup := rfl
@[simp] theorem State.clearHists_pkg (s : State) (g : Nat) : (s.clearHists g).pkg = s.pkg := rfl
@[simp] theorem State.modProg_pending (s : State) (k : Nat) (f : Prog → Prog) : (s.modProg k f).pending = s.pending := rfl
@[simp] theorem State.modProg_regs (s : State) (k : Nat) (f : Prog → Prog) : (s.modProg k f).regs = s.regs := rfl
@[simp] theorem State.modProg_aonUs (s : State) (k : Nat) (f : Prog → Prog) : (s.modProg k f).aonUs = s.aonUs := rfl
@[simp] theorem State.modProg_outbox (s : State) (k : Nat) (f : Prog → Prog) : (s.modProg k f).outbox = s.outbox := rfl
@[simp] theorem State.modProg_irqs (s : State) (k : Nat) (f : Prog → Prog) : (s.modProg k f).irqs = s.irqs := rfl
@[simp] theorem State.modProg_freeCtr (s : State) (k : Nat) (f : Prog → Prog) : (s.modProg k f).freeCtr = s.freeCtr := rfl
@[simp] theorem State.modProg_pageMap (s : State) (k : Nat) (f : Prog → Prog) : (s.modProg k f).pageMap = s.pageMap := rfl
@[simp] theorem State.modProg_grv (s : State) (k : Nat) (f : Prog → Prog) : (s.modProg k f).grv = s.grv := rfl
@[simp] theorem State.modProg_hrt (s : State) (k : Nat) (f : Prog → Prog) : (s.modProg k f).hrt = s.hrt := rfl
@[simp] theorem State.modProg_sch (s : State) (k : Nat) (f : Prog → Prog) : (s.modProg k f).sch = s.sch := rfl
@[simp] theorem State.modProg_num (s : State) (k : Nat) (f : Prog → Prog) : (s.modProg k f).num = s.num := rfl
@[simp] theorem State.modProg_gth (s : State) (k : Nat) (f : Prog → Prog) : (s.modProg k f).gth = s.gth := rfl
@[simp] theorem State.modProg_emb (s : State) (k : Nat) (f : Prog → Prog) : (s.modProg k f).emb = s.emb := rfl
@[simp] theorem State.modProg_til (s : State) (k : Nat) (f : Prog → Prog) : (s.modProg k f).til = s.til := rfl
@[simp] theorem State.modProg_mem (s : State) (k : Nat) (f : Prog → Prog) : (s.modProg k f).mem = s.mem := rfl
@[simp] theorem State.modProg_lnk (s : State) (k : Nat) (f : Prog → Prog) : (s.modProg k f).lnk = s.lnk := rfl
@[simp] theorem State.modProg_col (s : State) (k : Nat) (f : Prog → Prog) : (s.modProg k f).col = s.col := rfl
@[simp] theorem State.modProg_upd (s : State) (k : Nat) (f : Prog → Prog) : (s.modProg k f).upd = s.upd := rfl
@[simp] theorem State.modProg_wch (s : State) (k : Nat) (f : Prog → Prog) : (s.modProg k f).wch = s.wch := rfl
@[simp] theorem State.modProg_kln (s : State) (k : Nat) (f : Prog → Prog) : (s.modProg k f).kln = s.kln := rfl
@[simp] theorem State.modProg_clk (s : State) (k : Nat) (f : Prog → Prog) : (s.modProg k f).clk = s.clk := rfl
@[simp] theorem State.modProg_hwd (s : State) (k : Nat) (f : Prog → Prog) : (s.modProg k f).hwd = s.hwd := rfl
@[simp] theorem State.modProg_sup (s : State) (k : Nat) (f : Prog → Prog) : (s.modProg k f).sup = s.sup := rfl
@[simp] theorem State.modProg_pkg (s : State) (k : Nat) (f : Prog → Prog) : (s.modProg k f).pkg = s.pkg := rfl
@[simp] theorem State.modLane_pending (s : State) (l : Nat) (f : LaneSeed → LaneSeed) : (s.modLane l f).pending = s.pending := rfl
@[simp] theorem State.modLane_regs (s : State) (l : Nat) (f : LaneSeed → LaneSeed) : (s.modLane l f).regs = s.regs := rfl
@[simp] theorem State.modLane_aonUs (s : State) (l : Nat) (f : LaneSeed → LaneSeed) : (s.modLane l f).aonUs = s.aonUs := rfl
@[simp] theorem State.modLane_outbox (s : State) (l : Nat) (f : LaneSeed → LaneSeed) : (s.modLane l f).outbox = s.outbox := rfl
@[simp] theorem State.modLane_irqs (s : State) (l : Nat) (f : LaneSeed → LaneSeed) : (s.modLane l f).irqs = s.irqs := rfl
@[simp] theorem State.modLane_freeCtr (s : State) (l : Nat) (f : LaneSeed → LaneSeed) : (s.modLane l f).freeCtr = s.freeCtr := rfl
@[simp] theorem State.modLane_pageMap (s : State) (l : Nat) (f : LaneSeed → LaneSeed) : (s.modLane l f).pageMap = s.pageMap := rfl
@[simp] theorem State.modLane_grv (s : State) (l : Nat) (f : LaneSeed → LaneSeed) : (s.modLane l f).grv = s.grv := rfl
@[simp] theorem State.modLane_hrt (s : State) (l : Nat) (f : LaneSeed → LaneSeed) : (s.modLane l f).hrt = s.hrt := rfl
@[simp] theorem State.modLane_sch (s : State) (l : Nat) (f : LaneSeed → LaneSeed) : (s.modLane l f).sch = s.sch := rfl
@[simp] theorem State.modLane_num (s : State) (l : Nat) (f : LaneSeed → LaneSeed) : (s.modLane l f).num = s.num := rfl
@[simp] theorem State.modLane_gth (s : State) (l : Nat) (f : LaneSeed → LaneSeed) : (s.modLane l f).gth = s.gth := rfl
@[simp] theorem State.modLane_emb (s : State) (l : Nat) (f : LaneSeed → LaneSeed) : (s.modLane l f).emb = s.emb := rfl
@[simp] theorem State.modLane_til (s : State) (l : Nat) (f : LaneSeed → LaneSeed) : (s.modLane l f).til = s.til := rfl
@[simp] theorem State.modLane_mem (s : State) (l : Nat) (f : LaneSeed → LaneSeed) : (s.modLane l f).mem = s.mem := rfl
@[simp] theorem State.modLane_lnk (s : State) (l : Nat) (f : LaneSeed → LaneSeed) : (s.modLane l f).lnk = s.lnk := rfl
@[simp] theorem State.modLane_col (s : State) (l : Nat) (f : LaneSeed → LaneSeed) : (s.modLane l f).col = s.col := rfl
@[simp] theorem State.modLane_upd (s : State) (l : Nat) (f : LaneSeed → LaneSeed) : (s.modLane l f).upd = s.upd := rfl
@[simp] theorem State.modLane_wch (s : State) (l : Nat) (f : LaneSeed → LaneSeed) : (s.modLane l f).wch = s.wch := rfl
@[simp] theorem State.modLane_kln (s : State) (l : Nat) (f : LaneSeed → LaneSeed) : (s.modLane l f).kln = s.kln := rfl
@[simp] theorem State.modLane_clk (s : State) (l : Nat) (f : LaneSeed → LaneSeed) : (s.modLane l f).clk = s.clk := rfl
@[simp] theorem State.modLane_hwd (s : State) (l : Nat) (f : LaneSeed → LaneSeed) : (s.modLane l f).hwd = s.hwd := rfl
@[simp] theorem State.modLane_sup (s : State) (l : Nat) (f : LaneSeed → LaneSeed) : (s.modLane l f).sup = s.sup := rfl
@[simp] theorem State.modLane_pkg (s : State) (l : Nat) (f : LaneSeed → LaneSeed) : (s.modLane l f).pkg = s.pkg := rfl
@[simp] theorem State.dropLanes_pending (s : State) (p : Nat → LaneSeed → Bool) : (s.dropLanes p).pending = s.pending := rfl
@[simp] theorem State.dropLanes_regs (s : State) (p : Nat → LaneSeed → Bool) : (s.dropLanes p).regs = s.regs := rfl
@[simp] theorem State.dropLanes_aonUs (s : State) (p : Nat → LaneSeed → Bool) : (s.dropLanes p).aonUs = s.aonUs := rfl
@[simp] theorem State.dropLanes_outbox (s : State) (p : Nat → LaneSeed → Bool) : (s.dropLanes p).outbox = s.outbox := rfl
@[simp] theorem State.dropLanes_irqs (s : State) (p : Nat → LaneSeed → Bool) : (s.dropLanes p).irqs = s.irqs := rfl
@[simp] theorem State.dropLanes_freeCtr (s : State) (p : Nat → LaneSeed → Bool) : (s.dropLanes p).freeCtr = s.freeCtr := rfl
@[simp] theorem State.dropLanes_pageMap (s : State) (p : Nat → LaneSeed → Bool) : (s.dropLanes p).pageMap = s.pageMap := rfl
@[simp] theorem State.dropLanes_grv (s : State) (p : Nat → LaneSeed → Bool) : (s.dropLanes p).grv = s.grv := rfl
@[simp] theorem State.dropLanes_hrt (s : State) (p : Nat → LaneSeed → Bool) : (s.dropLanes p).hrt = s.hrt := rfl
@[simp] theorem State.dropLanes_sch (s : State) (p : Nat → LaneSeed → Bool) : (s.dropLanes p).sch = s.sch := rfl
@[simp] theorem State.dropLanes_num (s : State) (p : Nat → LaneSeed → Bool) : (s.dropLanes p).num = s.num := rfl
@[simp] theorem State.dropLanes_gth (s : State) (p : Nat → LaneSeed → Bool) : (s.dropLanes p).gth = s.gth := rfl
@[simp] theorem State.dropLanes_emb (s : State) (p : Nat → LaneSeed → Bool) : (s.dropLanes p).emb = s.emb := rfl
@[simp] theorem State.dropLanes_til (s : State) (p : Nat → LaneSeed → Bool) : (s.dropLanes p).til = s.til := rfl
@[simp] theorem State.dropLanes_mem (s : State) (p : Nat → LaneSeed → Bool) : (s.dropLanes p).mem = s.mem := rfl
@[simp] theorem State.dropLanes_lnk (s : State) (p : Nat → LaneSeed → Bool) : (s.dropLanes p).lnk = s.lnk := rfl
@[simp] theorem State.dropLanes_col (s : State) (p : Nat → LaneSeed → Bool) : (s.dropLanes p).col = s.col := rfl
@[simp] theorem State.dropLanes_upd (s : State) (p : Nat → LaneSeed → Bool) : (s.dropLanes p).upd = s.upd := rfl
@[simp] theorem State.dropLanes_wch (s : State) (p : Nat → LaneSeed → Bool) : (s.dropLanes p).wch = s.wch := rfl
@[simp] theorem State.dropLanes_kln (s : State) (p : Nat → LaneSeed → Bool) : (s.dropLanes p).kln = s.kln := rfl
@[simp] theorem State.dropLanes_clk (s : State) (p : Nat → LaneSeed → Bool) : (s.dropLanes p).clk = s.clk := rfl
@[simp] theorem State.dropLanes_hwd (s : State) (p : Nat → LaneSeed → Bool) : (s.dropLanes p).hwd = s.hwd := rfl
@[simp] theorem State.dropLanes_sup (s : State) (p : Nat → LaneSeed → Bool) : (s.dropLanes p).sup = s.sup := rfl
@[simp] theorem State.dropLanes_pkg (s : State) (p : Nat → LaneSeed → Bool) : (s.dropLanes p).pkg = s.pkg := rfl
@[simp] theorem State.holdServe_pending (s : State) (h : HeldServe) : (s.holdServe h).pending = s.pending := rfl
@[simp] theorem State.holdServe_regs (s : State) (h : HeldServe) : (s.holdServe h).regs = s.regs := rfl
@[simp] theorem State.holdServe_aonUs (s : State) (h : HeldServe) : (s.holdServe h).aonUs = s.aonUs := rfl
@[simp] theorem State.holdServe_outbox (s : State) (h : HeldServe) : (s.holdServe h).outbox = s.outbox := rfl
@[simp] theorem State.holdServe_irqs (s : State) (h : HeldServe) : (s.holdServe h).irqs = s.irqs := rfl
@[simp] theorem State.holdServe_freeCtr (s : State) (h : HeldServe) : (s.holdServe h).freeCtr = s.freeCtr := rfl
@[simp] theorem State.holdServe_pageMap (s : State) (h : HeldServe) : (s.holdServe h).pageMap = s.pageMap := rfl
@[simp] theorem State.holdServe_grv (s : State) (h : HeldServe) : (s.holdServe h).grv = s.grv := rfl
@[simp] theorem State.holdServe_hrt (s : State) (h : HeldServe) : (s.holdServe h).hrt = s.hrt := rfl
@[simp] theorem State.holdServe_sch (s : State) (h : HeldServe) : (s.holdServe h).sch = s.sch := rfl
@[simp] theorem State.holdServe_num (s : State) (h : HeldServe) : (s.holdServe h).num = s.num := rfl
@[simp] theorem State.holdServe_smp (s : State) (h : HeldServe) : (s.holdServe h).smp = s.smp := rfl
@[simp] theorem State.holdServe_gth (s : State) (h : HeldServe) : (s.holdServe h).gth = s.gth := rfl
@[simp] theorem State.holdServe_emb (s : State) (h : HeldServe) : (s.holdServe h).emb = s.emb := rfl
@[simp] theorem State.holdServe_til (s : State) (h : HeldServe) : (s.holdServe h).til = s.til := rfl
@[simp] theorem State.holdServe_mem (s : State) (h : HeldServe) : (s.holdServe h).mem = s.mem := rfl
@[simp] theorem State.holdServe_col (s : State) (h : HeldServe) : (s.holdServe h).col = s.col := rfl
@[simp] theorem State.holdServe_upd (s : State) (h : HeldServe) : (s.holdServe h).upd = s.upd := rfl
@[simp] theorem State.holdServe_wch (s : State) (h : HeldServe) : (s.holdServe h).wch = s.wch := rfl
@[simp] theorem State.holdServe_kln (s : State) (h : HeldServe) : (s.holdServe h).kln = s.kln := rfl
@[simp] theorem State.holdServe_clk (s : State) (h : HeldServe) : (s.holdServe h).clk = s.clk := rfl
@[simp] theorem State.holdServe_hwd (s : State) (h : HeldServe) : (s.holdServe h).hwd = s.hwd := rfl
@[simp] theorem State.holdServe_sup (s : State) (h : HeldServe) : (s.holdServe h).sup = s.sup := rfl
@[simp] theorem State.holdServe_pkg (s : State) (h : HeldServe) : (s.holdServe h).pkg = s.pkg := rfl
@[simp] theorem State.modEmb_pending (s : State) (f : EmbState → EmbState) : (s.modEmb f).pending = s.pending := rfl
@[simp] theorem State.modEmb_regs (s : State) (f : EmbState → EmbState) : (s.modEmb f).regs = s.regs := rfl
@[simp] theorem State.modEmb_aonUs (s : State) (f : EmbState → EmbState) : (s.modEmb f).aonUs = s.aonUs := rfl
@[simp] theorem State.modEmb_outbox (s : State) (f : EmbState → EmbState) : (s.modEmb f).outbox = s.outbox := rfl
@[simp] theorem State.modEmb_irqs (s : State) (f : EmbState → EmbState) : (s.modEmb f).irqs = s.irqs := rfl
@[simp] theorem State.modEmb_freeCtr (s : State) (f : EmbState → EmbState) : (s.modEmb f).freeCtr = s.freeCtr := rfl
@[simp] theorem State.modEmb_pageMap (s : State) (f : EmbState → EmbState) : (s.modEmb f).pageMap = s.pageMap := rfl
@[simp] theorem State.modEmb_grv (s : State) (f : EmbState → EmbState) : (s.modEmb f).grv = s.grv := rfl
@[simp] theorem State.modEmb_hrt (s : State) (f : EmbState → EmbState) : (s.modEmb f).hrt = s.hrt := rfl
@[simp] theorem State.modEmb_sch (s : State) (f : EmbState → EmbState) : (s.modEmb f).sch = s.sch := rfl
@[simp] theorem State.modEmb_num (s : State) (f : EmbState → EmbState) : (s.modEmb f).num = s.num := rfl
@[simp] theorem State.modEmb_smp (s : State) (f : EmbState → EmbState) : (s.modEmb f).smp = s.smp := rfl
@[simp] theorem State.modEmb_gth (s : State) (f : EmbState → EmbState) : (s.modEmb f).gth = s.gth := rfl
@[simp] theorem State.modEmb_til (s : State) (f : EmbState → EmbState) : (s.modEmb f).til = s.til := rfl
@[simp] theorem State.modEmb_mem (s : State) (f : EmbState → EmbState) : (s.modEmb f).mem = s.mem := rfl
@[simp] theorem State.modEmb_lnk (s : State) (f : EmbState → EmbState) : (s.modEmb f).lnk = s.lnk := rfl
@[simp] theorem State.modEmb_col (s : State) (f : EmbState → EmbState) : (s.modEmb f).col = s.col := rfl
@[simp] theorem State.modEmb_upd (s : State) (f : EmbState → EmbState) : (s.modEmb f).upd = s.upd := rfl
@[simp] theorem State.modEmb_wch (s : State) (f : EmbState → EmbState) : (s.modEmb f).wch = s.wch := rfl
@[simp] theorem State.modEmb_kln (s : State) (f : EmbState → EmbState) : (s.modEmb f).kln = s.kln := rfl
@[simp] theorem State.modEmb_clk (s : State) (f : EmbState → EmbState) : (s.modEmb f).clk = s.clk := rfl
@[simp] theorem State.modEmb_hwd (s : State) (f : EmbState → EmbState) : (s.modEmb f).hwd = s.hwd := rfl
@[simp] theorem State.modEmb_sup (s : State) (f : EmbState → EmbState) : (s.modEmb f).sup = s.sup := rfl
@[simp] theorem State.modEmb_pkg (s : State) (f : EmbState → EmbState) : (s.modEmb f).pkg = s.pkg := rfl
@[simp] theorem State.spxWrite_pending (s : State) (t : Nat) (off : Nat) (bs : List Byte) : (s.spxWrite t off bs).pending = s.pending := rfl
@[simp] theorem State.spxWrite_regs (s : State) (t : Nat) (off : Nat) (bs : List Byte) : (s.spxWrite t off bs).regs = s.regs := rfl
@[simp] theorem State.spxWrite_aonUs (s : State) (t : Nat) (off : Nat) (bs : List Byte) : (s.spxWrite t off bs).aonUs = s.aonUs := rfl
@[simp] theorem State.spxWrite_outbox (s : State) (t : Nat) (off : Nat) (bs : List Byte) : (s.spxWrite t off bs).outbox = s.outbox := rfl
@[simp] theorem State.spxWrite_irqs (s : State) (t : Nat) (off : Nat) (bs : List Byte) : (s.spxWrite t off bs).irqs = s.irqs := rfl
@[simp] theorem State.spxWrite_freeCtr (s : State) (t : Nat) (off : Nat) (bs : List Byte) : (s.spxWrite t off bs).freeCtr = s.freeCtr := rfl
@[simp] theorem State.spxWrite_pageMap (s : State) (t : Nat) (off : Nat) (bs : List Byte) : (s.spxWrite t off bs).pageMap = s.pageMap := rfl
@[simp] theorem State.spxWrite_grv (s : State) (t : Nat) (off : Nat) (bs : List Byte) : (s.spxWrite t off bs).grv = s.grv := rfl
@[simp] theorem State.spxWrite_hrt (s : State) (t : Nat) (off : Nat) (bs : List Byte) : (s.spxWrite t off bs).hrt = s.hrt := rfl
@[simp] theorem State.spxWrite_sch (s : State) (t : Nat) (off : Nat) (bs : List Byte) : (s.spxWrite t off bs).sch = s.sch := rfl
@[simp] theorem State.spxWrite_num (s : State) (t : Nat) (off : Nat) (bs : List Byte) : (s.spxWrite t off bs).num = s.num := rfl
@[simp] theorem State.spxWrite_smp (s : State) (t : Nat) (off : Nat) (bs : List Byte) : (s.spxWrite t off bs).smp = s.smp := rfl
@[simp] theorem State.spxWrite_gth (s : State) (t : Nat) (off : Nat) (bs : List Byte) : (s.spxWrite t off bs).gth = s.gth := rfl
@[simp] theorem State.spxWrite_emb (s : State) (t : Nat) (off : Nat) (bs : List Byte) : (s.spxWrite t off bs).emb = s.emb := rfl
@[simp] theorem State.spxWrite_mem (s : State) (t : Nat) (off : Nat) (bs : List Byte) : (s.spxWrite t off bs).mem = s.mem := rfl
@[simp] theorem State.spxWrite_lnk (s : State) (t : Nat) (off : Nat) (bs : List Byte) : (s.spxWrite t off bs).lnk = s.lnk := rfl
@[simp] theorem State.spxWrite_col (s : State) (t : Nat) (off : Nat) (bs : List Byte) : (s.spxWrite t off bs).col = s.col := rfl
@[simp] theorem State.spxWrite_upd (s : State) (t : Nat) (off : Nat) (bs : List Byte) : (s.spxWrite t off bs).upd = s.upd := rfl
@[simp] theorem State.spxWrite_wch (s : State) (t : Nat) (off : Nat) (bs : List Byte) : (s.spxWrite t off bs).wch = s.wch := rfl
@[simp] theorem State.spxWrite_kln (s : State) (t : Nat) (off : Nat) (bs : List Byte) : (s.spxWrite t off bs).kln = s.kln := rfl
@[simp] theorem State.spxWrite_clk (s : State) (t : Nat) (off : Nat) (bs : List Byte) : (s.spxWrite t off bs).clk = s.clk := rfl
@[simp] theorem State.spxWrite_hwd (s : State) (t : Nat) (off : Nat) (bs : List Byte) : (s.spxWrite t off bs).hwd = s.hwd := rfl
@[simp] theorem State.spxWrite_sup (s : State) (t : Nat) (off : Nat) (bs : List Byte) : (s.spxWrite t off bs).sup = s.sup := rfl
@[simp] theorem State.spxWrite_pkg (s : State) (t : Nat) (off : Nat) (bs : List Byte) : (s.spxWrite t off bs).pkg = s.pkg := rfl
@[simp] theorem State.spxClear_pending (s : State) (t : Nat) : (s.spxClear t).pending = s.pending := rfl
@[simp] theorem State.spxClear_regs (s : State) (t : Nat) : (s.spxClear t).regs = s.regs := rfl
@[simp] theorem State.spxClear_aonUs (s : State) (t : Nat) : (s.spxClear t).aonUs = s.aonUs := rfl
@[simp] theorem State.spxClear_outbox (s : State) (t : Nat) : (s.spxClear t).outbox = s.outbox := rfl
@[simp] theorem State.spxClear_irqs (s : State) (t : Nat) : (s.spxClear t).irqs = s.irqs := rfl
@[simp] theorem State.spxClear_freeCtr (s : State) (t : Nat) : (s.spxClear t).freeCtr = s.freeCtr := rfl
@[simp] theorem State.spxClear_pageMap (s : State) (t : Nat) : (s.spxClear t).pageMap = s.pageMap := rfl
@[simp] theorem State.spxClear_grv (s : State) (t : Nat) : (s.spxClear t).grv = s.grv := rfl
@[simp] theorem State.spxClear_hrt (s : State) (t : Nat) : (s.spxClear t).hrt = s.hrt := rfl
@[simp] theorem State.spxClear_sch (s : State) (t : Nat) : (s.spxClear t).sch = s.sch := rfl
@[simp] theorem State.spxClear_num (s : State) (t : Nat) : (s.spxClear t).num = s.num := rfl
@[simp] theorem State.spxClear_smp (s : State) (t : Nat) : (s.spxClear t).smp = s.smp := rfl
@[simp] theorem State.spxClear_gth (s : State) (t : Nat) : (s.spxClear t).gth = s.gth := rfl
@[simp] theorem State.spxClear_emb (s : State) (t : Nat) : (s.spxClear t).emb = s.emb := rfl
@[simp] theorem State.spxClear_mem (s : State) (t : Nat) : (s.spxClear t).mem = s.mem := rfl
@[simp] theorem State.spxClear_lnk (s : State) (t : Nat) : (s.spxClear t).lnk = s.lnk := rfl
@[simp] theorem State.spxClear_col (s : State) (t : Nat) : (s.spxClear t).col = s.col := rfl
@[simp] theorem State.spxClear_upd (s : State) (t : Nat) : (s.spxClear t).upd = s.upd := rfl
@[simp] theorem State.spxClear_wch (s : State) (t : Nat) : (s.spxClear t).wch = s.wch := rfl
@[simp] theorem State.spxClear_kln (s : State) (t : Nat) : (s.spxClear t).kln = s.kln := rfl
@[simp] theorem State.spxClear_clk (s : State) (t : Nat) : (s.spxClear t).clk = s.clk := rfl
@[simp] theorem State.spxClear_hwd (s : State) (t : Nat) : (s.spxClear t).hwd = s.hwd := rfl
@[simp] theorem State.spxClear_sup (s : State) (t : Nat) : (s.spxClear t).sup = s.sup := rfl
@[simp] theorem State.spxClear_pkg (s : State) (t : Nat) : (s.spxClear t).pkg = s.pkg := rfl
@[simp] theorem State.modGth_pending (s : State) (f : GathState → GathState) : (s.modGth f).pending = s.pending := rfl
@[simp] theorem State.modGth_regs (s : State) (f : GathState → GathState) : (s.modGth f).regs = s.regs := rfl
@[simp] theorem State.modGth_aonUs (s : State) (f : GathState → GathState) : (s.modGth f).aonUs = s.aonUs := rfl
@[simp] theorem State.modGth_outbox (s : State) (f : GathState → GathState) : (s.modGth f).outbox = s.outbox := rfl
@[simp] theorem State.modGth_irqs (s : State) (f : GathState → GathState) : (s.modGth f).irqs = s.irqs := rfl
@[simp] theorem State.modGth_freeCtr (s : State) (f : GathState → GathState) : (s.modGth f).freeCtr = s.freeCtr := rfl
@[simp] theorem State.modGth_pageMap (s : State) (f : GathState → GathState) : (s.modGth f).pageMap = s.pageMap := rfl
@[simp] theorem State.modGth_grv (s : State) (f : GathState → GathState) : (s.modGth f).grv = s.grv := rfl
@[simp] theorem State.modGth_hrt (s : State) (f : GathState → GathState) : (s.modGth f).hrt = s.hrt := rfl
@[simp] theorem State.modGth_sch (s : State) (f : GathState → GathState) : (s.modGth f).sch = s.sch := rfl
@[simp] theorem State.modGth_num (s : State) (f : GathState → GathState) : (s.modGth f).num = s.num := rfl
@[simp] theorem State.modGth_smp (s : State) (f : GathState → GathState) : (s.modGth f).smp = s.smp := rfl
@[simp] theorem State.modGth_emb (s : State) (f : GathState → GathState) : (s.modGth f).emb = s.emb := rfl
@[simp] theorem State.modGth_til (s : State) (f : GathState → GathState) : (s.modGth f).til = s.til := rfl
@[simp] theorem State.modGth_mem (s : State) (f : GathState → GathState) : (s.modGth f).mem = s.mem := rfl
@[simp] theorem State.modGth_lnk (s : State) (f : GathState → GathState) : (s.modGth f).lnk = s.lnk := rfl
@[simp] theorem State.modGth_col (s : State) (f : GathState → GathState) : (s.modGth f).col = s.col := rfl
@[simp] theorem State.modGth_upd (s : State) (f : GathState → GathState) : (s.modGth f).upd = s.upd := rfl
@[simp] theorem State.modGth_wch (s : State) (f : GathState → GathState) : (s.modGth f).wch = s.wch := rfl
@[simp] theorem State.modGth_kln (s : State) (f : GathState → GathState) : (s.modGth f).kln = s.kln := rfl
@[simp] theorem State.modGth_clk (s : State) (f : GathState → GathState) : (s.modGth f).clk = s.clk := rfl
@[simp] theorem State.modGth_hwd (s : State) (f : GathState → GathState) : (s.modGth f).hwd = s.hwd := rfl
@[simp] theorem State.modGth_sup (s : State) (f : GathState → GathState) : (s.modGth f).sup = s.sup := rfl
@[simp] theorem State.modGth_pkg (s : State) (f : GathState → GathState) : (s.modGth f).pkg = s.pkg := rfl
@[simp] theorem State.dropChecks_pending (s : State) (p : AbftPass → Bool) : (s.dropChecks p).pending = s.pending := rfl
@[simp] theorem State.dropChecks_regs (s : State) (p : AbftPass → Bool) : (s.dropChecks p).regs = s.regs := rfl
@[simp] theorem State.dropChecks_aonUs (s : State) (p : AbftPass → Bool) : (s.dropChecks p).aonUs = s.aonUs := rfl
@[simp] theorem State.dropChecks_outbox (s : State) (p : AbftPass → Bool) : (s.dropChecks p).outbox = s.outbox := rfl
@[simp] theorem State.dropChecks_irqs (s : State) (p : AbftPass → Bool) : (s.dropChecks p).irqs = s.irqs := rfl
@[simp] theorem State.dropChecks_freeCtr (s : State) (p : AbftPass → Bool) : (s.dropChecks p).freeCtr = s.freeCtr := rfl
@[simp] theorem State.dropChecks_pageMap (s : State) (p : AbftPass → Bool) : (s.dropChecks p).pageMap = s.pageMap := rfl
@[simp] theorem State.dropChecks_grv (s : State) (p : AbftPass → Bool) : (s.dropChecks p).grv = s.grv := rfl
@[simp] theorem State.dropChecks_hrt (s : State) (p : AbftPass → Bool) : (s.dropChecks p).hrt = s.hrt := rfl
@[simp] theorem State.dropChecks_sch (s : State) (p : AbftPass → Bool) : (s.dropChecks p).sch = s.sch := rfl
@[simp] theorem State.dropChecks_num (s : State) (p : AbftPass → Bool) : (s.dropChecks p).num = s.num := rfl
@[simp] theorem State.dropChecks_smp (s : State) (p : AbftPass → Bool) : (s.dropChecks p).smp = s.smp := rfl
@[simp] theorem State.dropChecks_gth (s : State) (p : AbftPass → Bool) : (s.dropChecks p).gth = s.gth := rfl
@[simp] theorem State.dropChecks_emb (s : State) (p : AbftPass → Bool) : (s.dropChecks p).emb = s.emb := rfl
@[simp] theorem State.dropChecks_mem (s : State) (p : AbftPass → Bool) : (s.dropChecks p).mem = s.mem := rfl
@[simp] theorem State.dropChecks_lnk (s : State) (p : AbftPass → Bool) : (s.dropChecks p).lnk = s.lnk := rfl
@[simp] theorem State.dropChecks_col (s : State) (p : AbftPass → Bool) : (s.dropChecks p).col = s.col := rfl
@[simp] theorem State.dropChecks_upd (s : State) (p : AbftPass → Bool) : (s.dropChecks p).upd = s.upd := rfl
@[simp] theorem State.dropChecks_wch (s : State) (p : AbftPass → Bool) : (s.dropChecks p).wch = s.wch := rfl
@[simp] theorem State.dropChecks_kln (s : State) (p : AbftPass → Bool) : (s.dropChecks p).kln = s.kln := rfl
@[simp] theorem State.dropChecks_clk (s : State) (p : AbftPass → Bool) : (s.dropChecks p).clk = s.clk := rfl
@[simp] theorem State.dropChecks_hwd (s : State) (p : AbftPass → Bool) : (s.dropChecks p).hwd = s.hwd := rfl
@[simp] theorem State.dropChecks_sup (s : State) (p : AbftPass → Bool) : (s.dropChecks p).sup = s.sup := rfl
@[simp] theorem State.dropChecks_pkg (s : State) (p : AbftPass → Bool) : (s.dropChecks p).pkg = s.pkg := rfl
@[simp] theorem State.modCol_pending (s : State) (f : CollState → CollState) : (s.modCol f).pending = s.pending := rfl
@[simp] theorem State.modCol_regs (s : State) (f : CollState → CollState) : (s.modCol f).regs = s.regs := rfl
@[simp] theorem State.modCol_aonUs (s : State) (f : CollState → CollState) : (s.modCol f).aonUs = s.aonUs := rfl
@[simp] theorem State.modCol_outbox (s : State) (f : CollState → CollState) : (s.modCol f).outbox = s.outbox := rfl
@[simp] theorem State.modCol_irqs (s : State) (f : CollState → CollState) : (s.modCol f).irqs = s.irqs := rfl
@[simp] theorem State.modCol_freeCtr (s : State) (f : CollState → CollState) : (s.modCol f).freeCtr = s.freeCtr := rfl
@[simp] theorem State.modCol_pageMap (s : State) (f : CollState → CollState) : (s.modCol f).pageMap = s.pageMap := rfl
@[simp] theorem State.modCol_grv (s : State) (f : CollState → CollState) : (s.modCol f).grv = s.grv := rfl
@[simp] theorem State.modCol_hrt (s : State) (f : CollState → CollState) : (s.modCol f).hrt = s.hrt := rfl
@[simp] theorem State.modCol_sch (s : State) (f : CollState → CollState) : (s.modCol f).sch = s.sch := rfl
@[simp] theorem State.modCol_num (s : State) (f : CollState → CollState) : (s.modCol f).num = s.num := rfl
@[simp] theorem State.modCol_smp (s : State) (f : CollState → CollState) : (s.modCol f).smp = s.smp := rfl
@[simp] theorem State.modCol_gth (s : State) (f : CollState → CollState) : (s.modCol f).gth = s.gth := rfl
@[simp] theorem State.modCol_emb (s : State) (f : CollState → CollState) : (s.modCol f).emb = s.emb := rfl
@[simp] theorem State.modCol_til (s : State) (f : CollState → CollState) : (s.modCol f).til = s.til := rfl
@[simp] theorem State.modCol_mem (s : State) (f : CollState → CollState) : (s.modCol f).mem = s.mem := rfl
@[simp] theorem State.modCol_lnk (s : State) (f : CollState → CollState) : (s.modCol f).lnk = s.lnk := rfl
@[simp] theorem State.modCol_upd (s : State) (f : CollState → CollState) : (s.modCol f).upd = s.upd := rfl
@[simp] theorem State.modCol_wch (s : State) (f : CollState → CollState) : (s.modCol f).wch = s.wch := rfl
@[simp] theorem State.modCol_kln (s : State) (f : CollState → CollState) : (s.modCol f).kln = s.kln := rfl
@[simp] theorem State.modCol_clk (s : State) (f : CollState → CollState) : (s.modCol f).clk = s.clk := rfl
@[simp] theorem State.modCol_hwd (s : State) (f : CollState → CollState) : (s.modCol f).hwd = s.hwd := rfl
@[simp] theorem State.modCol_sup (s : State) (f : CollState → CollState) : (s.modCol f).sup = s.sup := rfl
@[simp] theorem State.modCol_pkg (s : State) (f : CollState → CollState) : (s.modCol f).pkg = s.pkg := rfl
@[simp] theorem State.modUpd_pending (s : State) (f : UpdState → UpdState) : (s.modUpd f).pending = s.pending := rfl
@[simp] theorem State.modUpd_regs (s : State) (f : UpdState → UpdState) : (s.modUpd f).regs = s.regs := rfl
@[simp] theorem State.modUpd_aonUs (s : State) (f : UpdState → UpdState) : (s.modUpd f).aonUs = s.aonUs := rfl
@[simp] theorem State.modUpd_outbox (s : State) (f : UpdState → UpdState) : (s.modUpd f).outbox = s.outbox := rfl
@[simp] theorem State.modUpd_irqs (s : State) (f : UpdState → UpdState) : (s.modUpd f).irqs = s.irqs := rfl
@[simp] theorem State.modUpd_freeCtr (s : State) (f : UpdState → UpdState) : (s.modUpd f).freeCtr = s.freeCtr := rfl
@[simp] theorem State.modUpd_pageMap (s : State) (f : UpdState → UpdState) : (s.modUpd f).pageMap = s.pageMap := rfl
@[simp] theorem State.modUpd_grv (s : State) (f : UpdState → UpdState) : (s.modUpd f).grv = s.grv := rfl
@[simp] theorem State.modUpd_hrt (s : State) (f : UpdState → UpdState) : (s.modUpd f).hrt = s.hrt := rfl
@[simp] theorem State.modUpd_sch (s : State) (f : UpdState → UpdState) : (s.modUpd f).sch = s.sch := rfl
@[simp] theorem State.modUpd_num (s : State) (f : UpdState → UpdState) : (s.modUpd f).num = s.num := rfl
@[simp] theorem State.modUpd_smp (s : State) (f : UpdState → UpdState) : (s.modUpd f).smp = s.smp := rfl
@[simp] theorem State.modUpd_gth (s : State) (f : UpdState → UpdState) : (s.modUpd f).gth = s.gth := rfl
@[simp] theorem State.modUpd_emb (s : State) (f : UpdState → UpdState) : (s.modUpd f).emb = s.emb := rfl
@[simp] theorem State.modUpd_til (s : State) (f : UpdState → UpdState) : (s.modUpd f).til = s.til := rfl
@[simp] theorem State.modUpd_mem (s : State) (f : UpdState → UpdState) : (s.modUpd f).mem = s.mem := rfl
@[simp] theorem State.modUpd_lnk (s : State) (f : UpdState → UpdState) : (s.modUpd f).lnk = s.lnk := rfl
@[simp] theorem State.modUpd_col (s : State) (f : UpdState → UpdState) : (s.modUpd f).col = s.col := rfl
@[simp] theorem State.modUpd_wch (s : State) (f : UpdState → UpdState) : (s.modUpd f).wch = s.wch := rfl
@[simp] theorem State.modUpd_kln (s : State) (f : UpdState → UpdState) : (s.modUpd f).kln = s.kln := rfl
@[simp] theorem State.modUpd_clk (s : State) (f : UpdState → UpdState) : (s.modUpd f).clk = s.clk := rfl
@[simp] theorem State.modUpd_hwd (s : State) (f : UpdState → UpdState) : (s.modUpd f).hwd = s.hwd := rfl
@[simp] theorem State.modUpd_sup (s : State) (f : UpdState → UpdState) : (s.modUpd f).sup = s.sup := rfl
@[simp] theorem State.modUpd_pkg (s : State) (f : UpdState → UpdState) : (s.modUpd f).pkg = s.pkg := rfl
@[simp] theorem State.modKln_pending (s : State) (f : KilnState → KilnState) : (s.modKln f).pending = s.pending := rfl
@[simp] theorem State.modKln_regs (s : State) (f : KilnState → KilnState) : (s.modKln f).regs = s.regs := rfl
@[simp] theorem State.modKln_aonUs (s : State) (f : KilnState → KilnState) : (s.modKln f).aonUs = s.aonUs := rfl
@[simp] theorem State.modKln_outbox (s : State) (f : KilnState → KilnState) : (s.modKln f).outbox = s.outbox := rfl
@[simp] theorem State.modKln_irqs (s : State) (f : KilnState → KilnState) : (s.modKln f).irqs = s.irqs := rfl
@[simp] theorem State.modKln_freeCtr (s : State) (f : KilnState → KilnState) : (s.modKln f).freeCtr = s.freeCtr := rfl
@[simp] theorem State.modKln_pageMap (s : State) (f : KilnState → KilnState) : (s.modKln f).pageMap = s.pageMap := rfl
@[simp] theorem State.modKln_grv (s : State) (f : KilnState → KilnState) : (s.modKln f).grv = s.grv := rfl
@[simp] theorem State.modKln_hrt (s : State) (f : KilnState → KilnState) : (s.modKln f).hrt = s.hrt := rfl
@[simp] theorem State.modKln_sch (s : State) (f : KilnState → KilnState) : (s.modKln f).sch = s.sch := rfl
@[simp] theorem State.modKln_num (s : State) (f : KilnState → KilnState) : (s.modKln f).num = s.num := rfl
@[simp] theorem State.modKln_smp (s : State) (f : KilnState → KilnState) : (s.modKln f).smp = s.smp := rfl
@[simp] theorem State.modKln_gth (s : State) (f : KilnState → KilnState) : (s.modKln f).gth = s.gth := rfl
@[simp] theorem State.modKln_emb (s : State) (f : KilnState → KilnState) : (s.modKln f).emb = s.emb := rfl
@[simp] theorem State.modKln_til (s : State) (f : KilnState → KilnState) : (s.modKln f).til = s.til := rfl
@[simp] theorem State.modKln_mem (s : State) (f : KilnState → KilnState) : (s.modKln f).mem = s.mem := rfl
@[simp] theorem State.modKln_lnk (s : State) (f : KilnState → KilnState) : (s.modKln f).lnk = s.lnk := rfl
@[simp] theorem State.modKln_col (s : State) (f : KilnState → KilnState) : (s.modKln f).col = s.col := rfl
@[simp] theorem State.modKln_upd (s : State) (f : KilnState → KilnState) : (s.modKln f).upd = s.upd := rfl
@[simp] theorem State.modKln_wch (s : State) (f : KilnState → KilnState) : (s.modKln f).wch = s.wch := rfl
@[simp] theorem State.modKln_clk (s : State) (f : KilnState → KilnState) : (s.modKln f).clk = s.clk := rfl
@[simp] theorem State.modKln_hwd (s : State) (f : KilnState → KilnState) : (s.modKln f).hwd = s.hwd := rfl
@[simp] theorem State.modKln_sup (s : State) (f : KilnState → KilnState) : (s.modKln f).sup = s.sup := rfl
@[simp] theorem State.modKln_pkg (s : State) (f : KilnState → KilnState) : (s.modKln f).pkg = s.pkg := rfl
@[simp] theorem State.modTile_pending (s : State) (t : Nat) (f : TileWatch → TileWatch) : (s.modTile t f).pending = s.pending := rfl
@[simp] theorem State.modTile_regs (s : State) (t : Nat) (f : TileWatch → TileWatch) : (s.modTile t f).regs = s.regs := rfl
@[simp] theorem State.modTile_aonUs (s : State) (t : Nat) (f : TileWatch → TileWatch) : (s.modTile t f).aonUs = s.aonUs := rfl
@[simp] theorem State.modTile_outbox (s : State) (t : Nat) (f : TileWatch → TileWatch) : (s.modTile t f).outbox = s.outbox := rfl
@[simp] theorem State.modTile_irqs (s : State) (t : Nat) (f : TileWatch → TileWatch) : (s.modTile t f).irqs = s.irqs := rfl
@[simp] theorem State.modTile_freeCtr (s : State) (t : Nat) (f : TileWatch → TileWatch) : (s.modTile t f).freeCtr = s.freeCtr := rfl
@[simp] theorem State.modTile_pageMap (s : State) (t : Nat) (f : TileWatch → TileWatch) : (s.modTile t f).pageMap = s.pageMap := rfl
@[simp] theorem State.modTile_grv (s : State) (t : Nat) (f : TileWatch → TileWatch) : (s.modTile t f).grv = s.grv := rfl
@[simp] theorem State.modTile_hrt (s : State) (t : Nat) (f : TileWatch → TileWatch) : (s.modTile t f).hrt = s.hrt := rfl
@[simp] theorem State.modTile_sch (s : State) (t : Nat) (f : TileWatch → TileWatch) : (s.modTile t f).sch = s.sch := rfl
@[simp] theorem State.modTile_num (s : State) (t : Nat) (f : TileWatch → TileWatch) : (s.modTile t f).num = s.num := rfl
@[simp] theorem State.modTile_smp (s : State) (t : Nat) (f : TileWatch → TileWatch) : (s.modTile t f).smp = s.smp := rfl
@[simp] theorem State.modTile_gth (s : State) (t : Nat) (f : TileWatch → TileWatch) : (s.modTile t f).gth = s.gth := rfl
@[simp] theorem State.modTile_emb (s : State) (t : Nat) (f : TileWatch → TileWatch) : (s.modTile t f).emb = s.emb := rfl
@[simp] theorem State.modTile_til (s : State) (t : Nat) (f : TileWatch → TileWatch) : (s.modTile t f).til = s.til := rfl
@[simp] theorem State.modTile_mem (s : State) (t : Nat) (f : TileWatch → TileWatch) : (s.modTile t f).mem = s.mem := rfl
@[simp] theorem State.modTile_lnk (s : State) (t : Nat) (f : TileWatch → TileWatch) : (s.modTile t f).lnk = s.lnk := rfl
@[simp] theorem State.modTile_col (s : State) (t : Nat) (f : TileWatch → TileWatch) : (s.modTile t f).col = s.col := rfl
@[simp] theorem State.modTile_upd (s : State) (t : Nat) (f : TileWatch → TileWatch) : (s.modTile t f).upd = s.upd := rfl
@[simp] theorem State.modTile_kln (s : State) (t : Nat) (f : TileWatch → TileWatch) : (s.modTile t f).kln = s.kln := rfl
@[simp] theorem State.modTile_clk (s : State) (t : Nat) (f : TileWatch → TileWatch) : (s.modTile t f).clk = s.clk := rfl
@[simp] theorem State.modTile_hwd (s : State) (t : Nat) (f : TileWatch → TileWatch) : (s.modTile t f).hwd = s.hwd := rfl
@[simp] theorem State.modTile_sup (s : State) (t : Nat) (f : TileWatch → TileWatch) : (s.modTile t f).sup = s.sup := rfl
@[simp] theorem State.modTile_pkg (s : State) (t : Nat) (f : TileWatch → TileWatch) : (s.modTile t f).pkg = s.pkg := rfl
@[simp] theorem State.modTests_pending (s : State) (f : List FieldTest → List FieldTest) : (s.modTests f).pending = s.pending := rfl
@[simp] theorem State.modTests_regs (s : State) (f : List FieldTest → List FieldTest) : (s.modTests f).regs = s.regs := rfl
@[simp] theorem State.modTests_aonUs (s : State) (f : List FieldTest → List FieldTest) : (s.modTests f).aonUs = s.aonUs := rfl
@[simp] theorem State.modTests_outbox (s : State) (f : List FieldTest → List FieldTest) : (s.modTests f).outbox = s.outbox := rfl
@[simp] theorem State.modTests_irqs (s : State) (f : List FieldTest → List FieldTest) : (s.modTests f).irqs = s.irqs := rfl
@[simp] theorem State.modTests_freeCtr (s : State) (f : List FieldTest → List FieldTest) : (s.modTests f).freeCtr = s.freeCtr := rfl
@[simp] theorem State.modTests_pageMap (s : State) (f : List FieldTest → List FieldTest) : (s.modTests f).pageMap = s.pageMap := rfl
@[simp] theorem State.modTests_grv (s : State) (f : List FieldTest → List FieldTest) : (s.modTests f).grv = s.grv := rfl
@[simp] theorem State.modTests_hrt (s : State) (f : List FieldTest → List FieldTest) : (s.modTests f).hrt = s.hrt := rfl
@[simp] theorem State.modTests_sch (s : State) (f : List FieldTest → List FieldTest) : (s.modTests f).sch = s.sch := rfl
@[simp] theorem State.modTests_num (s : State) (f : List FieldTest → List FieldTest) : (s.modTests f).num = s.num := rfl
@[simp] theorem State.modTests_smp (s : State) (f : List FieldTest → List FieldTest) : (s.modTests f).smp = s.smp := rfl
@[simp] theorem State.modTests_gth (s : State) (f : List FieldTest → List FieldTest) : (s.modTests f).gth = s.gth := rfl
@[simp] theorem State.modTests_emb (s : State) (f : List FieldTest → List FieldTest) : (s.modTests f).emb = s.emb := rfl
@[simp] theorem State.modTests_til (s : State) (f : List FieldTest → List FieldTest) : (s.modTests f).til = s.til := rfl
@[simp] theorem State.modTests_mem (s : State) (f : List FieldTest → List FieldTest) : (s.modTests f).mem = s.mem := rfl
@[simp] theorem State.modTests_lnk (s : State) (f : List FieldTest → List FieldTest) : (s.modTests f).lnk = s.lnk := rfl
@[simp] theorem State.modTests_col (s : State) (f : List FieldTest → List FieldTest) : (s.modTests f).col = s.col := rfl
@[simp] theorem State.modTests_upd (s : State) (f : List FieldTest → List FieldTest) : (s.modTests f).upd = s.upd := rfl
@[simp] theorem State.modTests_kln (s : State) (f : List FieldTest → List FieldTest) : (s.modTests f).kln = s.kln := rfl
@[simp] theorem State.modTests_clk (s : State) (f : List FieldTest → List FieldTest) : (s.modTests f).clk = s.clk := rfl
@[simp] theorem State.modTests_hwd (s : State) (f : List FieldTest → List FieldTest) : (s.modTests f).hwd = s.hwd := rfl
@[simp] theorem State.modTests_sup (s : State) (f : List FieldTest → List FieldTest) : (s.modTests f).sup = s.sup := rfl
@[simp] theorem State.modTests_pkg (s : State) (f : List FieldTest → List FieldTest) : (s.modTests f).pkg = s.pkg := rfl
@[simp] theorem State.linksDown_pending (s : State) : (s.linksDown).pending = s.pending := rfl
@[simp] theorem State.linksDown_regs (s : State) : (s.linksDown).regs = s.regs := rfl
@[simp] theorem State.linksDown_aonUs (s : State) : (s.linksDown).aonUs = s.aonUs := rfl
@[simp] theorem State.linksDown_outbox (s : State) : (s.linksDown).outbox = s.outbox := rfl
@[simp] theorem State.linksDown_irqs (s : State) : (s.linksDown).irqs = s.irqs := rfl
@[simp] theorem State.linksDown_freeCtr (s : State) : (s.linksDown).freeCtr = s.freeCtr := rfl
@[simp] theorem State.linksDown_pageMap (s : State) : (s.linksDown).pageMap = s.pageMap := rfl
@[simp] theorem State.linksDown_grv (s : State) : (s.linksDown).grv = s.grv := rfl
@[simp] theorem State.linksDown_sch (s : State) : (s.linksDown).sch = s.sch := rfl
@[simp] theorem State.linksDown_num (s : State) : (s.linksDown).num = s.num := rfl
@[simp] theorem State.linksDown_smp (s : State) : (s.linksDown).smp = s.smp := rfl
@[simp] theorem State.linksDown_gth (s : State) : (s.linksDown).gth = s.gth := rfl
@[simp] theorem State.linksDown_emb (s : State) : (s.linksDown).emb = s.emb := rfl
@[simp] theorem State.linksDown_til (s : State) : (s.linksDown).til = s.til := rfl
@[simp] theorem State.linksDown_mem (s : State) : (s.linksDown).mem = s.mem := rfl
@[simp] theorem State.linksDown_lnk (s : State) : (s.linksDown).lnk = s.lnk := rfl
@[simp] theorem State.linksDown_col (s : State) : (s.linksDown).col = s.col := rfl
@[simp] theorem State.linksDown_upd (s : State) : (s.linksDown).upd = s.upd := rfl
@[simp] theorem State.linksDown_wch (s : State) : (s.linksDown).wch = s.wch := rfl
@[simp] theorem State.linksDown_kln (s : State) : (s.linksDown).kln = s.kln := rfl
@[simp] theorem State.linksDown_clk (s : State) : (s.linksDown).clk = s.clk := rfl
@[simp] theorem State.linksDown_hwd (s : State) : (s.linksDown).hwd = s.hwd := rfl
@[simp] theorem State.linksDown_sup (s : State) : (s.linksDown).sup = s.sup := rfl
@[simp] theorem State.linksDown_pkg (s : State) : (s.linksDown).pkg = s.pkg := rfl
@[simp] theorem State.modClk_pending (s : State) (f : ClockState → ClockState) : (s.modClk f).pending = s.pending := rfl
@[simp] theorem State.modClk_regs (s : State) (f : ClockState → ClockState) : (s.modClk f).regs = s.regs := rfl
@[simp] theorem State.modClk_aonUs (s : State) (f : ClockState → ClockState) : (s.modClk f).aonUs = s.aonUs := rfl
@[simp] theorem State.modClk_outbox (s : State) (f : ClockState → ClockState) : (s.modClk f).outbox = s.outbox := rfl
@[simp] theorem State.modClk_irqs (s : State) (f : ClockState → ClockState) : (s.modClk f).irqs = s.irqs := rfl
@[simp] theorem State.modClk_freeCtr (s : State) (f : ClockState → ClockState) : (s.modClk f).freeCtr = s.freeCtr := rfl
@[simp] theorem State.modClk_pageMap (s : State) (f : ClockState → ClockState) : (s.modClk f).pageMap = s.pageMap := rfl
@[simp] theorem State.modClk_grv (s : State) (f : ClockState → ClockState) : (s.modClk f).grv = s.grv := rfl
@[simp] theorem State.modClk_hrt (s : State) (f : ClockState → ClockState) : (s.modClk f).hrt = s.hrt := rfl
@[simp] theorem State.modClk_sch (s : State) (f : ClockState → ClockState) : (s.modClk f).sch = s.sch := rfl
@[simp] theorem State.modClk_num (s : State) (f : ClockState → ClockState) : (s.modClk f).num = s.num := rfl
@[simp] theorem State.modClk_smp (s : State) (f : ClockState → ClockState) : (s.modClk f).smp = s.smp := rfl
@[simp] theorem State.modClk_gth (s : State) (f : ClockState → ClockState) : (s.modClk f).gth = s.gth := rfl
@[simp] theorem State.modClk_emb (s : State) (f : ClockState → ClockState) : (s.modClk f).emb = s.emb := rfl
@[simp] theorem State.modClk_til (s : State) (f : ClockState → ClockState) : (s.modClk f).til = s.til := rfl
@[simp] theorem State.modClk_mem (s : State) (f : ClockState → ClockState) : (s.modClk f).mem = s.mem := rfl
@[simp] theorem State.modClk_lnk (s : State) (f : ClockState → ClockState) : (s.modClk f).lnk = s.lnk := rfl
@[simp] theorem State.modClk_col (s : State) (f : ClockState → ClockState) : (s.modClk f).col = s.col := rfl
@[simp] theorem State.modClk_upd (s : State) (f : ClockState → ClockState) : (s.modClk f).upd = s.upd := rfl
@[simp] theorem State.modClk_wch (s : State) (f : ClockState → ClockState) : (s.modClk f).wch = s.wch := rfl
@[simp] theorem State.modClk_kln (s : State) (f : ClockState → ClockState) : (s.modClk f).kln = s.kln := rfl
@[simp] theorem State.modClk_hwd (s : State) (f : ClockState → ClockState) : (s.modClk f).hwd = s.hwd := rfl
@[simp] theorem State.modClk_sup (s : State) (f : ClockState → ClockState) : (s.modClk f).sup = s.sup := rfl
@[simp] theorem State.modClk_pkg (s : State) (f : ClockState → ClockState) : (s.modClk f).pkg = s.pkg := rfl
@[simp] theorem State.startSoft_pending (s : State) (c : Nat) (bank : Nat) (row : Nat) (byCommand : Bool) : (s.startSoft c bank row byCommand).pending = s.pending := rfl
@[simp] theorem State.startSoft_regs (s : State) (c : Nat) (bank : Nat) (row : Nat) (byCommand : Bool) : (s.startSoft c bank row byCommand).regs = s.regs := rfl
@[simp] theorem State.startSoft_aonUs (s : State) (c : Nat) (bank : Nat) (row : Nat) (byCommand : Bool) : (s.startSoft c bank row byCommand).aonUs = s.aonUs := rfl
@[simp] theorem State.startSoft_outbox (s : State) (c : Nat) (bank : Nat) (row : Nat) (byCommand : Bool) : (s.startSoft c bank row byCommand).outbox = s.outbox := rfl
@[simp] theorem State.startSoft_irqs (s : State) (c : Nat) (bank : Nat) (row : Nat) (byCommand : Bool) : (s.startSoft c bank row byCommand).irqs = s.irqs := rfl
@[simp] theorem State.startSoft_freeCtr (s : State) (c : Nat) (bank : Nat) (row : Nat) (byCommand : Bool) : (s.startSoft c bank row byCommand).freeCtr = s.freeCtr := rfl
@[simp] theorem State.startSoft_pageMap (s : State) (c : Nat) (bank : Nat) (row : Nat) (byCommand : Bool) : (s.startSoft c bank row byCommand).pageMap = s.pageMap := rfl
@[simp] theorem State.startSoft_grv (s : State) (c : Nat) (bank : Nat) (row : Nat) (byCommand : Bool) : (s.startSoft c bank row byCommand).grv = s.grv := rfl
@[simp] theorem State.startSoft_hrt (s : State) (c : Nat) (bank : Nat) (row : Nat) (byCommand : Bool) : (s.startSoft c bank row byCommand).hrt = s.hrt := rfl
@[simp] theorem State.startSoft_sch (s : State) (c : Nat) (bank : Nat) (row : Nat) (byCommand : Bool) : (s.startSoft c bank row byCommand).sch = s.sch := rfl
@[simp] theorem State.startSoft_num (s : State) (c : Nat) (bank : Nat) (row : Nat) (byCommand : Bool) : (s.startSoft c bank row byCommand).num = s.num := rfl
@[simp] theorem State.startSoft_smp (s : State) (c : Nat) (bank : Nat) (row : Nat) (byCommand : Bool) : (s.startSoft c bank row byCommand).smp = s.smp := rfl
@[simp] theorem State.startSoft_gth (s : State) (c : Nat) (bank : Nat) (row : Nat) (byCommand : Bool) : (s.startSoft c bank row byCommand).gth = s.gth := rfl
@[simp] theorem State.startSoft_emb (s : State) (c : Nat) (bank : Nat) (row : Nat) (byCommand : Bool) : (s.startSoft c bank row byCommand).emb = s.emb := rfl
@[simp] theorem State.startSoft_til (s : State) (c : Nat) (bank : Nat) (row : Nat) (byCommand : Bool) : (s.startSoft c bank row byCommand).til = s.til := rfl
@[simp] theorem State.startSoft_lnk (s : State) (c : Nat) (bank : Nat) (row : Nat) (byCommand : Bool) : (s.startSoft c bank row byCommand).lnk = s.lnk := rfl
@[simp] theorem State.startSoft_col (s : State) (c : Nat) (bank : Nat) (row : Nat) (byCommand : Bool) : (s.startSoft c bank row byCommand).col = s.col := rfl
@[simp] theorem State.startSoft_upd (s : State) (c : Nat) (bank : Nat) (row : Nat) (byCommand : Bool) : (s.startSoft c bank row byCommand).upd = s.upd := rfl
@[simp] theorem State.startSoft_wch (s : State) (c : Nat) (bank : Nat) (row : Nat) (byCommand : Bool) : (s.startSoft c bank row byCommand).wch = s.wch := rfl
@[simp] theorem State.startSoft_kln (s : State) (c : Nat) (bank : Nat) (row : Nat) (byCommand : Bool) : (s.startSoft c bank row byCommand).kln = s.kln := rfl
@[simp] theorem State.startSoft_clk (s : State) (c : Nat) (bank : Nat) (row : Nat) (byCommand : Bool) : (s.startSoft c bank row byCommand).clk = s.clk := rfl
@[simp] theorem State.startSoft_hwd (s : State) (c : Nat) (bank : Nat) (row : Nat) (byCommand : Bool) : (s.startSoft c bank row byCommand).hwd = s.hwd := rfl
@[simp] theorem State.startSoft_sup (s : State) (c : Nat) (bank : Nat) (row : Nat) (byCommand : Bool) : (s.startSoft c bank row byCommand).sup = s.sup := rfl
@[simp] theorem State.startSoft_pkg (s : State) (c : Nat) (bank : Nat) (row : Nat) (byCommand : Bool) : (s.startSoft c bank row byCommand).pkg = s.pkg := rfl
@[simp] theorem State.modStack_pending (s : State) (k : Nat) (f : Stack → Stack) : (s.modStack k f).pending = s.pending := rfl
@[simp] theorem State.modStack_regs (s : State) (k : Nat) (f : Stack → Stack) : (s.modStack k f).regs = s.regs := rfl
@[simp] theorem State.modStack_aonUs (s : State) (k : Nat) (f : Stack → Stack) : (s.modStack k f).aonUs = s.aonUs := rfl
@[simp] theorem State.modStack_outbox (s : State) (k : Nat) (f : Stack → Stack) : (s.modStack k f).outbox = s.outbox := rfl
@[simp] theorem State.modStack_irqs (s : State) (k : Nat) (f : Stack → Stack) : (s.modStack k f).irqs = s.irqs := rfl
@[simp] theorem State.modStack_freeCtr (s : State) (k : Nat) (f : Stack → Stack) : (s.modStack k f).freeCtr = s.freeCtr := rfl
@[simp] theorem State.modStack_pageMap (s : State) (k : Nat) (f : Stack → Stack) : (s.modStack k f).pageMap = s.pageMap := rfl
@[simp] theorem State.modStack_grv (s : State) (k : Nat) (f : Stack → Stack) : (s.modStack k f).grv = s.grv := rfl
@[simp] theorem State.modStack_hrt (s : State) (k : Nat) (f : Stack → Stack) : (s.modStack k f).hrt = s.hrt := rfl
@[simp] theorem State.modStack_sch (s : State) (k : Nat) (f : Stack → Stack) : (s.modStack k f).sch = s.sch := rfl
@[simp] theorem State.modStack_num (s : State) (k : Nat) (f : Stack → Stack) : (s.modStack k f).num = s.num := rfl
@[simp] theorem State.modStack_smp (s : State) (k : Nat) (f : Stack → Stack) : (s.modStack k f).smp = s.smp := rfl
@[simp] theorem State.modStack_gth (s : State) (k : Nat) (f : Stack → Stack) : (s.modStack k f).gth = s.gth := rfl
@[simp] theorem State.modStack_emb (s : State) (k : Nat) (f : Stack → Stack) : (s.modStack k f).emb = s.emb := rfl
@[simp] theorem State.modStack_til (s : State) (k : Nat) (f : Stack → Stack) : (s.modStack k f).til = s.til := rfl
@[simp] theorem State.modStack_lnk (s : State) (k : Nat) (f : Stack → Stack) : (s.modStack k f).lnk = s.lnk := rfl
@[simp] theorem State.modStack_col (s : State) (k : Nat) (f : Stack → Stack) : (s.modStack k f).col = s.col := rfl
@[simp] theorem State.modStack_upd (s : State) (k : Nat) (f : Stack → Stack) : (s.modStack k f).upd = s.upd := rfl
@[simp] theorem State.modStack_wch (s : State) (k : Nat) (f : Stack → Stack) : (s.modStack k f).wch = s.wch := rfl
@[simp] theorem State.modStack_kln (s : State) (k : Nat) (f : Stack → Stack) : (s.modStack k f).kln = s.kln := rfl
@[simp] theorem State.modStack_clk (s : State) (k : Nat) (f : Stack → Stack) : (s.modStack k f).clk = s.clk := rfl
@[simp] theorem State.modStack_hwd (s : State) (k : Nat) (f : Stack → Stack) : (s.modStack k f).hwd = s.hwd := rfl
@[simp] theorem State.modStack_sup (s : State) (k : Nat) (f : Stack → Stack) : (s.modStack k f).sup = s.sup := rfl
@[simp] theorem State.modStack_pkg (s : State) (k : Nat) (f : Stack → Stack) : (s.modStack k f).pkg = s.pkg := rfl
@[simp] theorem State.modHlk_pending (s : State) (k : Nat) (f : HLink → HLink) : (s.modHlk k f).pending = s.pending := rfl
@[simp] theorem State.modHlk_regs (s : State) (k : Nat) (f : HLink → HLink) : (s.modHlk k f).regs = s.regs := rfl
@[simp] theorem State.modHlk_aonUs (s : State) (k : Nat) (f : HLink → HLink) : (s.modHlk k f).aonUs = s.aonUs := rfl
@[simp] theorem State.modHlk_outbox (s : State) (k : Nat) (f : HLink → HLink) : (s.modHlk k f).outbox = s.outbox := rfl
@[simp] theorem State.modHlk_irqs (s : State) (k : Nat) (f : HLink → HLink) : (s.modHlk k f).irqs = s.irqs := rfl
@[simp] theorem State.modHlk_freeCtr (s : State) (k : Nat) (f : HLink → HLink) : (s.modHlk k f).freeCtr = s.freeCtr := rfl
@[simp] theorem State.modHlk_pageMap (s : State) (k : Nat) (f : HLink → HLink) : (s.modHlk k f).pageMap = s.pageMap := rfl
@[simp] theorem State.modHlk_grv (s : State) (k : Nat) (f : HLink → HLink) : (s.modHlk k f).grv = s.grv := rfl
@[simp] theorem State.modHlk_sch (s : State) (k : Nat) (f : HLink → HLink) : (s.modHlk k f).sch = s.sch := rfl
@[simp] theorem State.modHlk_num (s : State) (k : Nat) (f : HLink → HLink) : (s.modHlk k f).num = s.num := rfl
@[simp] theorem State.modHlk_smp (s : State) (k : Nat) (f : HLink → HLink) : (s.modHlk k f).smp = s.smp := rfl
@[simp] theorem State.modHlk_gth (s : State) (k : Nat) (f : HLink → HLink) : (s.modHlk k f).gth = s.gth := rfl
@[simp] theorem State.modHlk_emb (s : State) (k : Nat) (f : HLink → HLink) : (s.modHlk k f).emb = s.emb := rfl
@[simp] theorem State.modHlk_til (s : State) (k : Nat) (f : HLink → HLink) : (s.modHlk k f).til = s.til := rfl
@[simp] theorem State.modHlk_mem (s : State) (k : Nat) (f : HLink → HLink) : (s.modHlk k f).mem = s.mem := rfl
@[simp] theorem State.modHlk_lnk (s : State) (k : Nat) (f : HLink → HLink) : (s.modHlk k f).lnk = s.lnk := rfl
@[simp] theorem State.modHlk_col (s : State) (k : Nat) (f : HLink → HLink) : (s.modHlk k f).col = s.col := rfl
@[simp] theorem State.modHlk_upd (s : State) (k : Nat) (f : HLink → HLink) : (s.modHlk k f).upd = s.upd := rfl
@[simp] theorem State.modHlk_wch (s : State) (k : Nat) (f : HLink → HLink) : (s.modHlk k f).wch = s.wch := rfl
@[simp] theorem State.modHlk_kln (s : State) (k : Nat) (f : HLink → HLink) : (s.modHlk k f).kln = s.kln := rfl
@[simp] theorem State.modHlk_clk (s : State) (k : Nat) (f : HLink → HLink) : (s.modHlk k f).clk = s.clk := rfl
@[simp] theorem State.modHlk_hwd (s : State) (k : Nat) (f : HLink → HLink) : (s.modHlk k f).hwd = s.hwd := rfl
@[simp] theorem State.modHlk_sup (s : State) (k : Nat) (f : HLink → HLink) : (s.modHlk k f).sup = s.sup := rfl
@[simp] theorem State.modHlk_pkg (s : State) (k : Nat) (f : HLink → HLink) : (s.modHlk k f).pkg = s.pkg := rfl
@[simp] theorem State.modHrt_pending (s : State) (f : HearthState → HearthState) : (s.modHrt f).pending = s.pending := rfl
@[simp] theorem State.modHrt_regs (s : State) (f : HearthState → HearthState) : (s.modHrt f).regs = s.regs := rfl
@[simp] theorem State.modHrt_aonUs (s : State) (f : HearthState → HearthState) : (s.modHrt f).aonUs = s.aonUs := rfl
@[simp] theorem State.modHrt_outbox (s : State) (f : HearthState → HearthState) : (s.modHrt f).outbox = s.outbox := rfl
@[simp] theorem State.modHrt_irqs (s : State) (f : HearthState → HearthState) : (s.modHrt f).irqs = s.irqs := rfl
@[simp] theorem State.modHrt_freeCtr (s : State) (f : HearthState → HearthState) : (s.modHrt f).freeCtr = s.freeCtr := rfl
@[simp] theorem State.modHrt_pageMap (s : State) (f : HearthState → HearthState) : (s.modHrt f).pageMap = s.pageMap := rfl
@[simp] theorem State.modHrt_grv (s : State) (f : HearthState → HearthState) : (s.modHrt f).grv = s.grv := rfl
@[simp] theorem State.modHrt_sch (s : State) (f : HearthState → HearthState) : (s.modHrt f).sch = s.sch := rfl
@[simp] theorem State.modHrt_num (s : State) (f : HearthState → HearthState) : (s.modHrt f).num = s.num := rfl
@[simp] theorem State.modHrt_smp (s : State) (f : HearthState → HearthState) : (s.modHrt f).smp = s.smp := rfl
@[simp] theorem State.modHrt_gth (s : State) (f : HearthState → HearthState) : (s.modHrt f).gth = s.gth := rfl
@[simp] theorem State.modHrt_emb (s : State) (f : HearthState → HearthState) : (s.modHrt f).emb = s.emb := rfl
@[simp] theorem State.modHrt_til (s : State) (f : HearthState → HearthState) : (s.modHrt f).til = s.til := rfl
@[simp] theorem State.modHrt_mem (s : State) (f : HearthState → HearthState) : (s.modHrt f).mem = s.mem := rfl
@[simp] theorem State.modHrt_lnk (s : State) (f : HearthState → HearthState) : (s.modHrt f).lnk = s.lnk := rfl
@[simp] theorem State.modHrt_col (s : State) (f : HearthState → HearthState) : (s.modHrt f).col = s.col := rfl
@[simp] theorem State.modHrt_upd (s : State) (f : HearthState → HearthState) : (s.modHrt f).upd = s.upd := rfl
@[simp] theorem State.modHrt_wch (s : State) (f : HearthState → HearthState) : (s.modHrt f).wch = s.wch := rfl
@[simp] theorem State.modHrt_kln (s : State) (f : HearthState → HearthState) : (s.modHrt f).kln = s.kln := rfl
@[simp] theorem State.modHrt_clk (s : State) (f : HearthState → HearthState) : (s.modHrt f).clk = s.clk := rfl
@[simp] theorem State.modHrt_hwd (s : State) (f : HearthState → HearthState) : (s.modHrt f).hwd = s.hwd := rfl
@[simp] theorem State.modHrt_sup (s : State) (f : HearthState → HearthState) : (s.modHrt f).sup = s.sup := rfl
@[simp] theorem State.modHrt_pkg (s : State) (f : HearthState → HearthState) : (s.modHrt f).pkg = s.pkg := rfl
@[simp] theorem State.modHwd_pending (s : State) (f : HeartwoodState → HeartwoodState) : (s.modHwd f).pending = s.pending := rfl
@[simp] theorem State.modHwd_regs (s : State) (f : HeartwoodState → HeartwoodState) : (s.modHwd f).regs = s.regs := rfl
@[simp] theorem State.modHwd_aonUs (s : State) (f : HeartwoodState → HeartwoodState) : (s.modHwd f).aonUs = s.aonUs := rfl
@[simp] theorem State.modHwd_outbox (s : State) (f : HeartwoodState → HeartwoodState) : (s.modHwd f).outbox = s.outbox := rfl
@[simp] theorem State.modHwd_irqs (s : State) (f : HeartwoodState → HeartwoodState) : (s.modHwd f).irqs = s.irqs := rfl
@[simp] theorem State.modHwd_freeCtr (s : State) (f : HeartwoodState → HeartwoodState) : (s.modHwd f).freeCtr = s.freeCtr := rfl
@[simp] theorem State.modHwd_pageMap (s : State) (f : HeartwoodState → HeartwoodState) : (s.modHwd f).pageMap = s.pageMap := rfl
@[simp] theorem State.modHwd_grv (s : State) (f : HeartwoodState → HeartwoodState) : (s.modHwd f).grv = s.grv := rfl
@[simp] theorem State.modHwd_hrt (s : State) (f : HeartwoodState → HeartwoodState) : (s.modHwd f).hrt = s.hrt := rfl
@[simp] theorem State.modHwd_sch (s : State) (f : HeartwoodState → HeartwoodState) : (s.modHwd f).sch = s.sch := rfl
@[simp] theorem State.modHwd_num (s : State) (f : HeartwoodState → HeartwoodState) : (s.modHwd f).num = s.num := rfl
@[simp] theorem State.modHwd_smp (s : State) (f : HeartwoodState → HeartwoodState) : (s.modHwd f).smp = s.smp := rfl
@[simp] theorem State.modHwd_gth (s : State) (f : HeartwoodState → HeartwoodState) : (s.modHwd f).gth = s.gth := rfl
@[simp] theorem State.modHwd_emb (s : State) (f : HeartwoodState → HeartwoodState) : (s.modHwd f).emb = s.emb := rfl
@[simp] theorem State.modHwd_til (s : State) (f : HeartwoodState → HeartwoodState) : (s.modHwd f).til = s.til := rfl
@[simp] theorem State.modHwd_mem (s : State) (f : HeartwoodState → HeartwoodState) : (s.modHwd f).mem = s.mem := rfl
@[simp] theorem State.modHwd_lnk (s : State) (f : HeartwoodState → HeartwoodState) : (s.modHwd f).lnk = s.lnk := rfl
@[simp] theorem State.modHwd_col (s : State) (f : HeartwoodState → HeartwoodState) : (s.modHwd f).col = s.col := rfl
@[simp] theorem State.modHwd_upd (s : State) (f : HeartwoodState → HeartwoodState) : (s.modHwd f).upd = s.upd := rfl
@[simp] theorem State.modHwd_wch (s : State) (f : HeartwoodState → HeartwoodState) : (s.modHwd f).wch = s.wch := rfl
@[simp] theorem State.modHwd_kln (s : State) (f : HeartwoodState → HeartwoodState) : (s.modHwd f).kln = s.kln := rfl
@[simp] theorem State.modHwd_clk (s : State) (f : HeartwoodState → HeartwoodState) : (s.modHwd f).clk = s.clk := rfl
@[simp] theorem State.modHwd_sup (s : State) (f : HeartwoodState → HeartwoodState) : (s.modHwd f).sup = s.sup := rfl
@[simp] theorem State.modHwd_pkg (s : State) (f : HeartwoodState → HeartwoodState) : (s.modHwd f).pkg = s.pkg := rfl
@[simp] theorem State.modPkg_pending (s : State) (f : PkgState → PkgState) : (s.modPkg f).pending = s.pending := rfl
@[simp] theorem State.modPkg_regs (s : State) (f : PkgState → PkgState) : (s.modPkg f).regs = s.regs := rfl
@[simp] theorem State.modPkg_aonUs (s : State) (f : PkgState → PkgState) : (s.modPkg f).aonUs = s.aonUs := rfl
@[simp] theorem State.modPkg_outbox (s : State) (f : PkgState → PkgState) : (s.modPkg f).outbox = s.outbox := rfl
@[simp] theorem State.modPkg_irqs (s : State) (f : PkgState → PkgState) : (s.modPkg f).irqs = s.irqs := rfl
@[simp] theorem State.modPkg_freeCtr (s : State) (f : PkgState → PkgState) : (s.modPkg f).freeCtr = s.freeCtr := rfl
@[simp] theorem State.modPkg_pageMap (s : State) (f : PkgState → PkgState) : (s.modPkg f).pageMap = s.pageMap := rfl
@[simp] theorem State.modPkg_grv (s : State) (f : PkgState → PkgState) : (s.modPkg f).grv = s.grv := rfl
@[simp] theorem State.modPkg_hrt (s : State) (f : PkgState → PkgState) : (s.modPkg f).hrt = s.hrt := rfl
@[simp] theorem State.modPkg_sch (s : State) (f : PkgState → PkgState) : (s.modPkg f).sch = s.sch := rfl
@[simp] theorem State.modPkg_num (s : State) (f : PkgState → PkgState) : (s.modPkg f).num = s.num := rfl
@[simp] theorem State.modPkg_smp (s : State) (f : PkgState → PkgState) : (s.modPkg f).smp = s.smp := rfl
@[simp] theorem State.modPkg_gth (s : State) (f : PkgState → PkgState) : (s.modPkg f).gth = s.gth := rfl
@[simp] theorem State.modPkg_emb (s : State) (f : PkgState → PkgState) : (s.modPkg f).emb = s.emb := rfl
@[simp] theorem State.modPkg_til (s : State) (f : PkgState → PkgState) : (s.modPkg f).til = s.til := rfl
@[simp] theorem State.modPkg_mem (s : State) (f : PkgState → PkgState) : (s.modPkg f).mem = s.mem := rfl
@[simp] theorem State.modPkg_lnk (s : State) (f : PkgState → PkgState) : (s.modPkg f).lnk = s.lnk := rfl
@[simp] theorem State.modPkg_col (s : State) (f : PkgState → PkgState) : (s.modPkg f).col = s.col := rfl
@[simp] theorem State.modPkg_upd (s : State) (f : PkgState → PkgState) : (s.modPkg f).upd = s.upd := rfl
@[simp] theorem State.modPkg_wch (s : State) (f : PkgState → PkgState) : (s.modPkg f).wch = s.wch := rfl
@[simp] theorem State.modPkg_kln (s : State) (f : PkgState → PkgState) : (s.modPkg f).kln = s.kln := rfl
@[simp] theorem State.modPkg_clk (s : State) (f : PkgState → PkgState) : (s.modPkg f).clk = s.clk := rfl
@[simp] theorem State.modPkg_hwd (s : State) (f : PkgState → PkgState) : (s.modPkg f).hwd = s.hwd := rfl
@[simp] theorem State.modPkg_sup (s : State) (f : PkgState → PkgState) : (s.modPkg f).sup = s.sup := rfl

end Sys2Proof.Machine
end

