-- ==== Sys2Proof/Tests/Slice0.lean ====
section
/-! SUPPORT. Tests: for each group of statements states that meet their hypotheses and what the block does there, the
ill-formed commands WellFormed refuses, and the spec's worked examples. -/

namespace Sys2Proof.Tests
open Sys2Proof Sys2Proof.Machine
set_option Elab.async false

/-- The offset of the hearth region the tests use. -/
def hearthAt : Nat := 0x10000000000

/-- Grove 1 with generation 5: tiles 0 and 1, channels 0 to 7, knots 0 to
15, lane 0, streams 0 to 7, trunk directions, branch ports, tables 0 to 3. -/
def grove1 : Grove :=
  { bound := true, generation := 5, members := 2 ^ 7 + 2 ^ 9, tiles := 3, channels := 255, trunkUse := 63,
    branchUse := 0xFFFF, knots := [(0, 16)], lanes := 1, streams := [(0, 8)], tables := (0, 4),
    params := { firstStep := 10, commitTimeoutUs := 1000, voidBarrierTimeoutUs := 1000, budgetPeriodTicks := 1000 } }

/-- A device in service with number 7, and grove 1 bound. -/
def up : State :=
  { State.reset with
    sup := { phase := .service, coresUp := 24 },
    regs := [(regAddr .GLB_DEVNUM [], 0x8007#64)],
    hwd := { stage := 3, provOk := true },
    grv := { groves := [(1, grove1)] },
    mem := { hearthKeyed := true } }

/-- The state with bytes at a local offset. -/
def poke (s : State) (o : Nat) (bs : List Byte) : State := (s.writeLocal .hearth o bs).1

/-- An unbind image of grove 1 for device 7: the header and the end section (R49 to R53). -/
def unbindImage : List Byte :=
  let head := toLe 4 0x32565247 ++ toLe 2 1 ++ toLe 1 2 ++ toLe 1 1 ++ toLe 2 6 ++ toLe 2 5 ++ toLe 2 0 ++ toLe 2 7 ++
    toLe 4 128 ++ toLe 4 0 ++ toLe 40 0 ++ toLe 4 0x32444E45 ++ toLe 12 0
  head ++ sha384 head

/-- The device with the unbind image and its batch list in the hearth region. -/
def withImage : State :=
  (poke (poke up hearthAt unbindImage) (hearthAt + 0x1000) (toLe 8 hearthAt)).putReg .GRV_BATCH_ADDR []
    (BitVec.ofNat 64 (hearthAt + 0x1000))

/-- A command of grove 1, generation 5, tag 0x77: opcode, flags and operand bytes from offset 8. -/
def cmdRaw (op flags : Nat) (operands : List Byte) : List Byte :=
  toLe 1 op ++ toLe 1 1 ++ toLe 2 5 ++ toLe 2 0x77 ++ toLe 1 flags ++ [0] ++ padTo 56 operands

/-- Queue 0 serves grove 1 on a target and holds one fetched command that has not started. -/
def withCmd (s : State) (target : Nat) (raw : List Byte) : State :=
  { s with hrt := { s.hrt with queues := [(0, {
      enabled := true, cfg := BitVec.ofNat 64 (2 ^ 63 + 6 * 2 ^ 48 + 3 * 2 ^ 40 + target * 2 ^ 32 + 1),
      base := hearthAt + 0x10000, cbase := hearthAt + 0x20000, tail := 1, fetched := 1, cmds := [Cmd.parse 0 raw] })] } }

/-- An unstepped task of unit 4 on tile 0 that signals knot 3 by 2. -/
def signalTask : List Byte :=
  toLe 1 4 ++ toLe 1 1 ++ toLe 2 5 ++ toLe 2 0x400 ++ toLe 2 0 ++ toLe 8 0 ++ toLe 4 0 ++ toLe 4 0 ++ toLe 24 0 ++
    toLe 8 (3 + 2 ^ 14 + 2 * 2 ^ 16) ++ toLe 8 0

/-- Knot 3 is a counter with a value. -/
def withCounter (s : State) (v : Nat) : State := s.modKnot 3 fun k => { k with type := 1, value := v }

/-- A unit's report that counts nothing. -/
def noReport : UnitReport := ⟨0, 0, 0, 0, 0, [], [], none, false⟩

/-- Tile 0's slot 5 holds a task in a state. -/
def withTask (s : State) (t : Task) (st : TaskSt) (desc : List Byte) : State :=
  { s with sch := { s.sch with slots := [(slotKey 0 5, { task := t, st := st, desc := desc })] } }

/-- What the block answers after a command. -/
def after (c : Instr) (s : State) : State :=
  match exec c s with
  | .next t => t
  | _ => s

/-- Grove 1's first page lies at local offset 0, and its channels are scrubbed. -/
def mapped : State :=
  { up with
    pageMap := [(1, [(0, 0)])],
    mem := { up.mem with channels := (List.range 8).map fun i => (i, { scrubPos := 2 ^ 25 }) } }

/-- Bytes written by grove 1. -/
def pokeVa (s : State) (va : Nat) (bs : List Byte) : State := (s.writeVa 1 va bs).1

/-- A compact graph of one shard on device `dev`: vertex 0 has two edges, to vertices 1 and 2. -/
def graphOn (s : State) (dev : Nat) : State :=
  let s := pokeVa s 0x1000 (toLe 4 16 ++ toLe 4 1 ++ toLe 8 0x1100 ++ toLe 48 0)
  let s := pokeVa s 0x1100 (toLe 8 (dev * 2 ^ 41 + 0x2000))
  let s := pokeVa s 0x2000 (toLe 4 0x324B5242 ++ toLe 4 0 ++ toLe 8 4 ++ toLe 8 0x2100 ++ toLe 8 0x2200 ++ toLe 8 8 ++
    toLe 24 0)
  let s := pokeVa s 0x2100 (toLe 8 0 ++ toLe 4 2 ++ toLe 4 0)
  pokeVa s 0x2200 (toLe 8 1 ++ toLe 8 2)

/-- One hop of fanout 2 without replacement, lane 0, stream 0, group size 1, signal knot 3 by 2. -/
def progDesc : List Byte :=
  toLe 1 1 ++ toLe 1 1 ++ toLe 2 0 ++ toLe 4 1 ++ toLe 8 0x3000 ++ toLe 8 4 ++ toLe 4 1 ++ toLe 4 0 ++ toLe 8 0x1000 ++
    toLe 8 0x4000 ++ toLe 4 3 ++ toLe 2 1 ++ toLe 2 0 ++ toLe 8 (3 + 2 ^ 14 + 2 * 2 ^ 16) ++
    toLe 2 2 ++ toLe 1 1 ++ toLe 5 0 ++ toLe 8 (2 ^ 64 - 1) ++ toLe 16 0

/-- Programme slot 0 runs that programme, and lane 0 reads the adjacency of its seed 0, vertex 0. -/
def sampling (s : State) (p : OpenParent) : State :=
  { s with smp := { s.smp with
      progs := [(0, { st := .running, grove := 1, desc := parseProg progDesc, dealt := 1 })],
      lanes := [(0, { prog := 0, seed := 0, time := 0, twigs := [(0, ⟨0, 0, 0, false, 0, 0⟩)], parents := [(0, p)] })] } }

/-- A trainable FP32 table of four-element rows with one bucket, homed on this device: tags at 0x6000, rows at 0x7000,
the home list at 0x6100. -/
def tableDesc : TableDesc :=
  { format := 0, trainable := true, rowElems := 4, rowPitch := 1, statePitch := 0, version := 3, homeCount := 1,
    homeList := 0x6100, log2Buckets := 0, graftSlots := 4, tags := 0x6000, rows := 0x7000, state := 0, graft := 0x8000 }

/-- Grove 1 with table 0 in force and pinned, row 9 in way 0 of its bucket, homed on device `dev`; step 10 runs. -/
def tabled (dev : Nat) : State :=
  let s := pokeVa mapped 0x6000 (toLe 6 9 ++ toLe 42 0 ++ toLe 1 1)
  let s := pokeVa s 0x6100 (toLe 2 dev)
  let s := pokeVa s 0x7000 (toLe 4 0x3F800000 ++ toLe 4 0x40000000 ++ toLe 4 0 ++ toLe 4 0x40400000)
  { s with
    emb := { slots := [(0, { st0 := .current, desc0 := some tableDesc })], pinned := [(1, [(0, 3)])] },
    col := { steps := [(1, { st := .running, step := 10 })] } }

/-- A gather of one listed row: kind 1, table 0, FP32, list at 0x9000, tile 0, block at 0, map at 0x1000. -/
def gatherDesc : List Byte :=
  toLe 1 1 ++ toLe 1 1 ++ toLe 2 5 ++ toLe 2 0 ++ toLe 2 0 ++ toLe 8 0x9000 ++ toLe 4 0 ++ toLe 4 1 ++ toLe 4 0 ++
    toLe 2 0 ++ toLe 2 4 ++ toLe 4 0 ++ toLe 4 0x1000 ++ toLe 4 8 ++ toLe 2 1 ++ toLe 2 0 ++ toLe 8 0 ++
    toLe 8 (3 + 2 ^ 14 + 2 * 2 ^ 16)

/-- A scatter of one manifest entry with sequence number 0. -/
def scatterDesc : List Byte :=
  toLe 1 2 ++ toLe 1 1 ++ toLe 2 5 ++ toLe 2 0 ++ toLe 2 0 ++ toLe 8 0x9000 ++ toLe 4 0 ++ toLe 4 1 ++ toLe 4 0 ++
    toLe 2 0 ++ toLe 2 4 ++ toLe 4 0 ++ toLe 4 0 ++ toLe 4 0 ++ toLe 2 1 ++ toLe 2 0 ++ toLe 8 0 ++
    toLe 8 (3 + 2 ^ 14 + 2 * 2 ^ 16)

/-- Queue 0's fetched gather or scatter command (opcode `op`, step 10) with its descriptor at 0x5000. -/
def gathering (dev op : Nat) (desc : List Byte) : State :=
  withCounter (withCmd (pokeVa (pokeVa (tabled dev) 0x5000 desc) 0x9000 (toLe 8 9)) 2
    (cmdRaw op 0 (toLe 8 0x5000 ++ toLe 8 0 ++ toLe 8 10))) 7

/-! ## Where the statements' hypotheses are met -/

theorem witness_up : up.islandsRun = true ∧ up.logRoom = true ∧ up.memWf = true ∧ up.quiet = true ∧
    up.sup.recovery ≠ .resetHeld ∧ up.sup.phase ≠ .ash ∧ up.batchRuns = false ∧ up.boundGroves = [1] ∧
    up.sup.right = false ∧ State.reset.sup.right = true ∧ State.reset.boundGroves = [] := by decide +kernel

/-- A state with an idle grove 1, a clamp of die 0 and the power-cap clamp in force. -/
def clampedUp : State :=
  { up with clk := { up.clk with capClamp := [1, 0] } }

theorem witness_idle : up.pending = [] ∧ (step up matches .next _) = true ∧ clampedUp.anyClamp = true ∧
    (match step clampedUp with
      | .next t => (t.aonUs, t.getReg .PWR_CAP_US [], t.getReg .PWR_CLAMP_US [])
      | _ => (0, 0, 0)) = (1, 1, 1) ∧
    ({ up with sup := { up.sup with recovery := .resetHeld } }).pending = [] := by decide +kernel

theorem witness_front : ({ up with pending := [.schClearHighWater 3] }).pending = .schClearHighWater 3 :: [] ∧
    (step { up with pending := [.schClearHighWater 3] } matches .next _) = true := by decide +kernel

theorem witness_invariants : up.memWf = true ∧ (step up matches .next _) = true ∧ State.reset.sup.right = true ∧
    (step State.reset matches .next _) = true := by decide +kernel

theorem witness_run : (core.run 2 State.reset matches .next _) = true := by decide +kernel

theorem witness_serial : serialAfter 5 4 16 = true ∧ serialAfter 4 5 16 = false ∧ serialAfter 0 65535 16 = true ∧
    serialAfter 32767 0 16 = true ∧ serialAfter 32768 0 16 = false ∧ serialAfter 0 32768 16 = false := by decide +kernel

/-- One merge entry of grove 1 on die 0. -/
def mergeHeld : State := { up with gth := { up.gth with merge := [(mergeKey 0 1 0 9 0, { step := 10, mask := 1, v := [] })] } }

/-- Two row entries of grove 1. -/
def rowsHeld : State := { up with emb := { up.emb with entries := [⟨1, 0, 3, 9, .scion 3⟩, ⟨1, 0, 3, 8, .scion 4⟩] } }

theorem witness_quota : up.mergeUsed 0 1 = 0 ∧ (after (.gthMergeQuotaWrite 0 1 100) up).mergeQuota 0 1 = 100 ∧
    mergeHeld.mergeUsed 0 1 = 1 ∧ (after (.gthMergeQuotaWrite 0 1 100) mergeHeld).mergeQuota 0 1 = 4096 ∧
    ((after (.gthMergeQuotaWrite 0 1 5000) up).lastRecord.map (·.code)) = some 9 ∧
    rowsHeld.embUsed 1 = 2 ∧ (after (.embEntryQuotaWrite 1 2) rowsHeld).embQuota 1 = 2 ∧
    (after (.embEntryQuotaWrite 1 1) rowsHeld).embQuota 1 = 0x4000 ∧
    ((after (.embEntryQuotaWrite 1 0x4001) rowsHeld).lastRecord.map (·.code)) = some 0x0B := by decide +kernel

theorem witness_therm_cfg : (after (.pwrThermCfgWrite 80) up).regFld .PWR_THERM_CFG [] 0 7 = 80 ∧
    (after (.pwrThermCfgWrite 100) up).regFld .PWR_THERM_CFG [] 0 7 = 100 ∧
    (after (.pwrThermCfgWrite 101) up).regFld .PWR_THERM_CFG [] 0 7 = 95 ∧
    ((tget (after (.pwrThermCfgWrite 79) up).wch.log 0).map (·.code)) = some 0x0A := by decide +kernel

/-! ### Registers, groves and budgets -/

theorem witness_register : up.reaches 0x100010 = true ∧ regAt 0x20050 = some (.PWR_SMOULDER, []) ∧
    regAt 0x100000 = some (.GRV_BATCH_ADDR, []) ∧ ownRow .GRV_BATCH_ADDR = false ∧
    (after (.registerWrite 0x100000 8 0xFFFF#64) up).getReg .GRV_BATCH_ADDR [] = 0xFFC0#64 ∧
    ((after (.registerWrite 0x100000 4 1#64) up).lastRecord.map (·.detail)) = some 0x100000 ∧
    ((after (.registerWrite 0x100001 8 1#64) up).lastRecord.map (·.detail)) = some (0x100001 + 2 ^ 30) ∧
    regAt 0x100018 = none ∧ ((after (.registerWrite 0x100018 8 1#64) up).lastRecord.map (·.detail)) = some (0x100018 + 2 ^ 31) ∧
    srcOfOffset 0x100018 = .grv := by decide +kernel

theorem witness_devnum : (after (.glbDevnumWrite 0x8009#64) State.reset).devnum = 9 ∧
    (after (.glbDevnumWrite 0x8009#64) up).devnum = 7 ∧ up.boundGroves ≠ [] := by decide +kernel

/-- The batch of one unbind image, admitted. -/
def batchAt : State := after (.batchGo 0x81#64) withImage

theorem witness_batch_go : withImage.islandsRun = true ∧ withImage.grv.batch = none ∧ withImage.sup.phase ≠ .kindling ∧
    withImage.testMode = false ∧ withImage.mem.mapouts = [] ∧ wfld (setFld 0x81#64 7 1 1) 0 6 = 1 ∧
    inHearth (wfld (withImage.getReg .GRV_BATCH_ADDR []) 6 35 * 64) 8 = true ∧
    (batchAt.grv.batch.map (·.applied)) = some false ∧ batchAt.grv.groves = withImage.grv.groves := by decide +kernel

theorem witness_batch_moves : (match batchAt.grv.batch with | some b => batchAt.quiesced b | none => false) = true ∧
    ((after .batchQuiesceDone batchAt).grv.batch.map (·.applied)) = some true ∧
    ((after .batchQuiesceDone batchAt).grove 1).bound = false ∧
    (after (.quiesceTimeout 0) batchAt).grv.batch = none ∧ batchAt.hwd.attWait = none ∧
    batchAt.sup.heldGroveResets = [] ∧ batchAt.logRoom = true ∧
    wfld ((after (.quiesceTimeout 0) batchAt).getReg .GRV_LOAD_STATUS []) 8 8 = 0x0A := by decide +kernel

/-- A batch at its step 5, channel 3 joining. -/
def batchLast : State :=
  { up with grv := { up.grv with batch := some { goAt := 0, groves := up.grv.groves, images := [], applied := true, channels := [3] } } }

theorem witness_batch_ends : (after .resourceClearDone batchLast).grv.batch = none ∧
    ((after .resourceClearDone batchLast).channel 3).scrubbing = true ∧ batchLast.mem.held = [] := by decide +kernel

/-- Channel 3 at a line of its scrub. -/
def scrubAt (n : Nat) : State := { up with mem := { up.mem with channels := [(3, { scrubbing := true, scrubPos := n })] } }

theorem witness_scrub : ((after (.scrubAdvance 3) (scrubAt 5)).channel 3).scrubPos = 6 ∧
    ((after (.scrubAdvance 3) (scrubAt (2 ^ 25 - 1))).channel 3).scrubbing = false := by decide +kernel

theorem witness_stale_nak : (after (.staleGroveNak ⟨1, 9, 9, false, .knot⟩) up).lastRecord.isSome = true ∧
    ((after (.staleGroveNak ⟨1, 9, 9, true, .none⟩) up).lastRecord.map (·.detail)) = some (9 + 2 ^ 16) ∧
    up.mem.held = [] ∧ up.col.heldOpens = [] := by decide +kernel

/-- Grove 1 has a merge-unit budget in hand. -/
def budgeted : State := { up with grv := { up.grv with budgets := [(budgetKey 0 1 0, { mode := 1, amount := 5, credit := 2 })] } }

theorem witness_budgets : budgeted.quiet = true ∧ (budgeted.grove 1).bound = true ∧ (budgeted.step_ 1).stageApply = none ∧
    ((after (.budgetPeriodStart 0 1) budgeted).budget 0 1 0).credit = 5 ∧ budgeted.batchRuns = false ∧
    ((after (.grvBudgetWrite 0 1 0 (BitVec.ofNat 64 (2 ^ 32 + 9))) budgeted).budget 0 1 0).amount = 5 ∧
    (after (.grvBudgetWrite 0 1 0 (BitVec.ofNat 64 (2 ^ 32 + 9))) budgeted).regFld .GRV_BUDGET [0, 1, 0] 0 32 = 9 ∧
    batchAt.batchRuns = true ∧
    (after (.grvBudgetWrite 0 1 0 9#64) batchAt).getReg .GRV_BUDGET [0, 1, 0] = batchAt.getReg .GRV_BUDGET [0, 1, 0] := by
  decide +kernel

theorem witness_digest : (after (.bindingDigestCheck 1 true) up).sup.phase = .ash ∧ up.wch.fatal = none ∧
    ((after (.bindingDigestCheck 1 true) up).wch.fatal.map (·.code)) = some 0x0E := by decide +kernel

/-! ### The hearth -/

/-- Queue 0 enabled with a ring of 64 entries and nothing fetched. -/
def ringUp : State := let s := withCmd up 0 (cmdRaw 1 0 []); { s with hrt := { s.hrt with queues :=
  [(0, { s.queue 0 with tail := 0, fetched := 0, cmds := [] })] } }

theorem witness_doorbell : (ringUp.queue 0).enabled = true ∧ (ringUp.queue 0).stopped = false ∧ ringUp.qsize 0 = 64 ∧
    ((after (.queueDoorbell 0 64#64) ringUp).queue 0).tail = 64 ∧
    ((after (.queueDoorbell 0 65#64) ringUp).queue 0).error = 1 ∧
    ((after (.queueDoorbell 0 65#64) ringUp).lastRecord.map (·.code)) = some 4 ∧
    (after (.queueDoorbell 1 1#64) ringUp).hrt = ringUp.hrt := by decide +kernel

/-- Rings of 64 entries for queue 0 at the start of the hearth region. -/
def ringsAt : State := (up.putReg .HLK_QBASE [0] (BitVec.ofNat 64 hearthAt)).putReg .HLK_QCBASE [0] (BitVec.ofNat 64 (hearthAt + 0x1000))

/-- An enable of target 0 with 64 entries. -/
def enableWord : Word := BitVec.ofNat 64 (2 ^ 63 + 6 * 2 ^ 48 + 3 * 2 ^ 40 + 1)

theorem witness_enable : inHalf (dieOfQueue 0) hearthAt 4096 = true ∧ inHalf (dieOfQueue 0) (hearthAt + 0x1000) 1024 = true ∧
    ((after (.queueEnable 0 enableWord) ringsAt).queue 0).pendingEnable = some (enableWord, hearthAt, hearthAt + 0x1000) ∧
    ((after (.queueEnableTakeEffect 0) (after (.queueEnable 0 enableWord) ringsAt)).queue 0).enabled = true ∧
    ((after (.queueDisable 0 0#64) ringUp).queue 0).enabled = false := by decide +kernel

/-- One entry of queue 0 not fetched yet: an INJECT command. -/
def unfetched : State :=
  let s := poke ringUp (hearthAt + 0x10000) (padTo 64 (cmdRaw 1 2 (toLe 8 (hearthAt + 0x1000) ++ toLe 2 2)))
  { s with hrt := { s.hrt with queues := [(0, { s.queue 0 with tail := 1 })] } }

theorem witness_fetch : (unfetched.queue 0).fetched ≠ (unfetched.queue 0).tail ∧ unfetched.hasCapacity 0 = true ∧
    (unfetched.readLocal .hearth (unfetched.qbase 0) 64).2.1 = .ok ∧
    ((after (.commandFetch 0) unfetched).queue 0).cmds = [Cmd.parse 0 (unfetched.peek (hearthAt + 0x10000) 64)] ∧
    ((after (.commandFetch 0) unfetched).queue 0).fetched = 1 := by decide +kernel

/-- Port 0 is up, a tenant's session 1 and grove 1 assigned to its certificate. -/
def frontUp : State :=
  { mapped with hrt := { mapped.hrt with ethUp := [true, false], sessions := [(1, ⟨false, 77, none, 0⟩), (2, ⟨false, 77, some 1, 0⟩)],
                                         nextSession := 3, assigned := [(1, 77)],
                                         qps := [(5, { session := 2, grove := 1 })],
                                         regions := [(8, ⟨2, 1, 5, 0x9000, 0x1000, true, true⟩)] } }

theorem witness_sessions : frontUp.hrt.ethUp.any (fun b => b) = true ∧
    (tget (after (.tlsConnect true 9) frontUp).hrt.sessions 3) = some ⟨true, 9, none, 0⟩ ∧
    (after (.tlsConnect true 9) { frontUp with hrt := { frontUp.hrt with sessions := (List.range 256).map fun i => (i, ⟨false, 77, none, 0⟩) } }).outbox
      = [.tcpReset] ∧
    ((tget (after (.tlsSessionMessage 1 (.attach 1)) frontUp).hrt.sessions 1).map (·.grove)) = some (some 1) ∧
    (after (.tlsSessionMessage 2 (.attach 1)) frontUp).outbox = [.tlsAnswer 2 false] ∧
    tget (after (.sessionIdleTimeout 2) frontUp).hrt.sessions 2 = none ∧
    (after (.sessionIdleTimeout 2) frontUp).hrt.regions = [] ∧
    (after (.ethLinkTrainingDone 1) frontUp).hrt.ethUp = [true, true] := by decide +kernel

theorem witness_rdma : frontUp.kln.firings = [] ∧ frontUp.kln.reads = [] ∧
    (after (.rdmaRequest 5 ⟨.send, 0, 0, 2, [1, 2], 0⟩) frontUp).outbox = [.rdmaSend 5 [1, 2] none, .rdmaAnswer 5 0] ∧
    (after (.rdmaRequest 5 ⟨.atomic, 8, 0x9000, 8, [], 0⟩) frontUp).outbox = [.rdmaAnswer 5 2] ∧
    (after (.rdmaRequest 5 ⟨.write, 8, 0x9000, 2, [1, 2], 0⟩) frontUp).mem = (pokeVa frontUp 0x9000 [1, 2]).mem ∧
    (after (.rdmaRequest 5 ⟨.write, 8, 0x9000, 2, [1, 2], 0⟩) frontUp).outbox = [.rdmaAnswer 5 0] ∧
    (after (.rdmaRequest 5 ⟨.read, 8, 0x9000, 1, [], 0⟩) (pokeVa frontUp 0x9000 [1, 2])).outbox = [.rdmaData 5 0 [1]] ∧
    ((tget (after (.rdmaRequest 5 ⟨.read, 8, 0x8FFF, 1, [], 0⟩) frontUp).hrt.qps 5).map (·.error)) = some true := by
  decide +kernel

/-- Hearth link 0 in a state, with three flits kept for replay. -/
def hlinkUp (st : Nat) : State :=
  { up with hrt := { up.hrt with links := [(0, { state := st, modulesUp := 3, replay := [(4, [1]), (5, [2]), (6, [3])], lastAcked := 4 })] } }

/-- An interrupt of core 5, numbered 0. -/
def irqFlit : List Byte := ({ kind := 1, grove := 0, vc := 0, gen := 0, opcode := 4, address := 5, payload := [] } : HFlit).bytes 0 65535 []

theorem witness_hearth_links : ((hlinkUp 2).hlk 0).carries = true ∧ hflitCrcOk irqFlit = true ∧
    (after (.hlkFlitReceive 0 irqFlit) (hlinkUp 2)).irqs = [5] ∧
    (after (.hlkFlitReceive 0 (irqFlit.set 16 6)) (hlinkUp 2)).outbox.length = 1 ∧
    (after (.hlkNakReceive 0 5) (hlinkUp 2)).outbox = [.hearthFlit 0 [3]] ∧
    (after (.hlkReplayTimeout 0) (hlinkUp 2)).outbox = [.hearthFlit 0 [2], .hearthFlit 0 [3]] ∧
    ((after (.hlkRetrainDone 0 2 1) (hlinkUp 1)).hlk 0).state = 3 ∧
    ((after (.hlkRetrainDone 0 3 1) (hlinkUp 1)).hlk 0).state = 2 := by decide +kernel

/-! ### Tasks and knots -/

/-- An INJECT of two tasks, fetched. -/
def injectCmd : List Byte := cmdRaw 1 2 (toLe 8 (hearthAt + 0x1000) ++ toLe 2 2)
def injectS (second : List Byte) : State :=
  withCounter (withCmd (poke up (hearthAt + 0x1000) (signalTask ++ second)) 0 injectCmd) 7
/-- It waits for room. -/
def injected : State := after (.inject 0 0) (injectS signalTask)

theorem witness_inject : (injectS signalTask).ofRow 0 0 0 1 = some (Cmd.parse 0 injectCmd) ∧
    (((injectS signalTask).start 0 0).injectSource 0 (Cmd.parse 0 injectCmd) 2).2.1 = .ok ∧
    injected.sch.injects.length = 1 ∧ (injected.queue 0).waiting = true ∧
    ((after (.inject 0 0) (injectS (signalTask.set 4 4))).lastRecord.map (·.code)).isSome = true ∧
    leAt ((after (.inject 0 0) (injectS (signalTask.set 4 4))).peek (hearthAt + 0x20000) 16) 8 2 = 1 ∧
    injected.groveIs 1 5 = true ∧ injected.roomFor ((injected.sch.injects.head?.map (·.tasks)).getD []) = true ∧
    (after (.injectPlace 0 0) injected).used 0 = 2 ∧ (after (.injectPlace 0 0) injected).cmd 0 0 = none := by decide +kernel

theorem witness_completion : (injected.complete 0 0 .ok 5).peek (hearthAt + 0x20000) 16 = completionBytes 0 0 64 0x77 0 5 ∧
    injected.qcbase 0 = hearthAt + 0x20000 ∧ (injected.complete 0 0 .ok 5).irqs = [3] ∧ injected.kln.protect = [] ∧
    ((injected.locate (hearthAt + 0x20000)).map fun p => isHearthChannel p.1 && injected.lineKnown p.1 (p.2 / 64) &&
      !injected.lineBad p.1 (p.2 / 64) && (injected.channel p.1).wcb.isEmpty && (injected.channel p.1).adders.isEmpty) =
        some true := by decide +kernel

/-- A task of a unit on tile 0. -/
def taskOf (unit : Nat) : Task := { (parseTask signalTask).2 with unit := unit }
/-- A DMA of 64 bytes from grove memory, unstepped. -/
def dmaDesc : List Byte := toLe 1 0 ++ toLe 1 1 ++ toLe 2 5 ++ toLe 4 4 ++ toLe 8 0 ++ toLe 4 0 ++ toLe 4 1 ++ toLe 4 8 ++ toLe 4 64 ++ toLe 32 0
def readyS : State := withTask up (taskOf 2) (.ready 0) (toLe 64 0)
def runningS (t : Task) (desc : List Byte) : State := withTask (withCounter mapped 7) t .running desc

theorem witness_dispatch : readyS.unitBusy 0 2 = false ∧ readyS.tileStopped 0 2 = false ∧
    (firstTask (readyS.candidates 0 2)).isSome = true ∧
    ((after (.taskDispatch 0 2 ⟨1, 2, 3, 4⟩) readyS).slot (slotKey 0 5)).map (·.st) = some .running ∧
    (after (.schClearHighWater 0) readyS).regFld .SCH_DEPTH [0] 48 11 = 1 ∧
    (after (.schClearCounters 0) (readyS.putReg .SCH_BUSY [0, 1] 5)).getReg .SCH_BUSY [0, 1] = 0 := by decide +kernel

theorem witness_task_ends :
    ((after (.taskComplete 0 5 noReport) (runningS (taskOf 2) (toLe 64 0))).slot (slotKey 0 5)).map (·.st) = some .faulted ∧
    (after (.taskComplete 0 5 noReport) (runningS (taskOf 2) dmaDesc)).slot (slotKey 0 5) = none ∧
    ((after (.taskComplete 0 5 noReport) (runningS { taskOf 2 with ordered := true, seq := 4, flow := 1 } dmaDesc)).slot
      (slotKey 0 5)).map (·.st) = some .held ∧
    ((after (.taskComplete 0 5 noReport) (withTask (withCounter up 7) (taskOf 4) (.ready 3) [])).knot 3).value = 9 ∧
    (taskOf 4).signals = [(3, 2)] := by decide +kernel

/-- Knot 3 has a barrier staged. -/
def stagedKnot : State := up.modKnot 3 fun k => { k with stagedType := 3, stagedNoRewind := true }

theorem witness_knots : ((after (.kntSignal 3 9) (withCounter up 7)).knot 3).value = 16 ∧
    ((after (.kntSignal 3 0xFFFFFFFF#64) (withCounter up 7)).knot 3).overflow = true ∧ (withCounter up 7).sch.slots = [] ∧
    ((after (.kntSignal 3 5) up).lastRecord.map (·.code)) = some 5 ∧ stagedKnot.knotOwner 3 = some 1 ∧
    ((after (.kntInit 3 (BitVec.ofNat 64 (5 * 2 ^ 32 + 2))) stagedKnot).knot 3).type = 3 ∧
    ((after (.kntInit 3 (BitVec.ofNat 64 (5 * 2 ^ 32 + 5))) stagedKnot).knot 3).type = 0 ∧
    initBad (stagedKnot.knot 3) 5 5 = true ∧
    ((after (.knotSignalMessage ⟨9, 0, 1, 5⟩ 3 4) (withCounter up 7)).knot 3).value = 11 ∧
    ((after (.knotSignalMessage ⟨9, 0, 1, 4⟩ 3 4) (withCounter up 7)).knot 3).value = 7 := by decide +kernel

/-! ### The sampler -/

/-- STREAM_SET of a stream. -/
def streamS (k : Nat) : State := withCmd up 1 (cmdRaw 1 0 (toLe 2 k ++ toLe 6 0 ++ toLe 16 77 ++ toLe 16 88))
/-- PROG_LOAD of a descriptor into slot 4. -/
def progS (d : List Byte) (p : Tbl Prog) : State :=
  let s := withCmd (pokeVa mapped 0x5000 d) 1 (cmdRaw 2 0 (toLe 1 4 ++ toLe 7 0 ++ toLe 8 0x5000))
  { s with smp := { s.smp with progs := p } }
def unloadS (st : ProgSt) (g : Nat) : State :=
  let s := withCmd up 1 (cmdRaw 3 0 (toLe 1 4))
  { s with smp := { s.smp with progs := [(4, { st := st, grove := g })] } }

theorem witness_stream_set : ((streamS 5).ofRow 0 0 1 1).isSome = true ∧ (streamS 5).streamOwner 5 = some 1 ∧
    (tgetD (after (.streamSet 0 0) (streamS 5)).smp.streams 5 {}).staged = some (77, 88) ∧
    (streamS 9).streamOwner 9 = none ∧ ((after (.streamSet 0 0) (streamS 9)).lastRecord.map (·.code)) = some 2 := by decide +kernel

theorem witness_prog_load : ((progS progDesc []).ofRow 0 0 1 2).isSome = true ∧
    ((after (.progLoad 0 0) (progS progDesc [])).prog 4).st = .loaded ∧
    ((after (.progLoad 0 0) (progS progDesc [(4, { st := .running, grove := 1 })])).prog 4).staged = some (parseProg progDesc) ∧
    (after (.progLoad 0 0) (progS (progDesc.set 0 9) [])).smp = (progS (progDesc.set 0 9) []).smp ∧
    ((after (.progUnload 0 0) (unloadS .done 1)).prog 4).st = .empty ∧
    ((after (.progUnload 0 0) (unloadS .running 1)).prog 4).unload = true ∧
    ((after (.progUnload 0 0) (unloadS .done 2)).lastRecord.map (·.code)) = some 4 := by decide +kernel

/-- The lane reads this device's own shard, or waits for device 9's. -/
def laneHere : State := sampling (graphOn mapped 7) { remote := false, sent := true, shard := 0x2000 }
def laneAway (tries : Nat) : State :=
  sampling (graphOn mapped 9) { remote := true, sent := true, request := 6, device := 9, shard := 0x2000, tries := tries }

theorem witness_children : leAt ((after (.smpAdjReadReturn 0 0 0) laneHere).peekVa 1 0x4010 16) 0 6 = 1 ∧
    leAt ((after (.smpAdjReadReturn 0 0 0) laneHere).peekVa 1 0x4020 16) 0 6 = 2 := by decide +kernel

theorem witness_remote : ((laneAway 0).findRequest 0 6).isSome = true ∧
    (tget (after (.adjResponseReceive 0 6 (.range 2 0 [(0, 1)] 2 2 [])) (laneAway 0)).smp.lanes 0).isSome = true ∧
    ((after (.adjResponseReceive 0 6 (.fault 0x0C)) (laneAway 0)).prog 0).st = .faulted ∧
    ((tget (after (.smpRemoteTimeout 0 6) (laneAway 0)).smp.lanes 0).map fun x => x.parents.map (·.2.tries)) = some [1] ∧
    ((after (.smpRemoteTimeout 0 6) (laneAway 3)).prog 0).st = .faulted := by decide +kernel

theorem witness_served : (graphOn mapped 7).groveIs 1 5 = true ∧ (graphOn mapped 7).groveIs 1 4 = false ∧
    ((graphOn mapped 7).spend 0 1 4 1 false).2 = true ∧
    (match (graphOn mapped 7).readList 1 0x2000 0 with
      | (s, .ok l) => !l.raises && l.ranges (2 ^ 64 - 1) 0 (2 ^ 64 - 1) == [(0, 1)] && ((s.readEdges 1 l [1]).2 matches .ok _)
      | _ => false) = true ∧
    (after (.adjRange 0 ⟨9, 1, 1, 4⟩ ⟨6, 0, 0x2000, 2 ^ 64 - 1, 0, 2 ^ 32 - 1, 1⟩) (graphOn mapped 7)).smp = mapped.smp := by
  decide +kernel

/-! ### Gather, scatter and the embedding tables -/

def gatherIn (dev : Nat) : State := after (.gather 0 0) (gathering dev 1 gatherDesc)
def gatherGo (dev : Nat) : State := after (.gthCommandStart 0 0 none) (gatherIn dev)
/-- A SCATTER_CLOSE of one scatter that has not come. -/
def closeS : State :=
  withCmd (tabled 7) 2 (cmdRaw 3 0 (toLe 8 1 ++ toLe 8 (3 + 2 ^ 14 + 2 ^ 16) ++ toLe 8 10))

theorem witness_gather_enter : ((gathering 7 1 gatherDesc).ofRow 0 0 2 1).isSome = true ∧
    ((gathering 7 1 gatherDesc).step_ 1).step = 10 ∧ (gatherIn 7).gth.cmds.length = 1 ∧
    (after (.scatter 0 0) (gathering 7 2 scatterDesc)).gth.cmds.length = 1 ∧
    ((after (.gather 0 0) { gathering 7 1 gatherDesc with col := { steps := [(1, { st := .running, step := 8 })] } }).lastRecord.map (·.code)) = some 3 ∧
    (closeS.ofRow 0 0 2 3).isSome = true ∧ (after (.scatterClose 0 0) closeS).gth.cmds.length = 1 ∧
    tgetD (after (.scatterClose 0 0) closeS).gth.closes 1 [] = [(10, 1)] := by decide +kernel

theorem witness_gather_start : (gatherIn 7).til.scratch = [] ∧ ((gatherIn 7).step_ 1).st = .running ∧
    (gatherGo 7).spxRead 0 0x1000 4 = [0, 0, 0, 0] ∧
    (let s := after (.gthCommandStart 0 0 none) ((after (.scatter 0 0) (gathering 7 2 scatterDesc)).spxWrite 0 0 (toLe 4 0x3F800000))
     (s.gth.merge.map fun p => (p.2.v.take 2, p.2.mask % 2)) = [([0x3F800000, 0], 1)] ∧ s.gth.cmds = []) := by decide +kernel

theorem witness_merge_rule : (mergeInto { step := 1, mask := 0, v := List.replicate 64 0 } [(5, 0x3F800000), (5, 0x3F800000)]).v.getD 5 0 =
    0x40000000 := by decide +kernel

theorem witness_rows_arrive : (match (gatherGo 7).gthCmd 0 0 with | some c => c.rows.length | none => 0) = 1 ∧
    (after (.localRowReadReturn 0 0 0) (gatherGo 7)).spxRead 0 0 8 = toLe 4 0x3F800000 ++ toLe 4 0x40000000 ∧
    ((gatherGo 9).findRow 0 0).isSome = true ∧
    (after (.rowDataReceive 0 ⟨0, 3, 0, true, toLe 16 77⟩) (gatherGo 9)).spxRead 0 0 4 = toLe 4 77 ∧
    (after (.rowDataReceive 0 ⟨0, 3, 0, false, toLe 8 77⟩) (gatherGo 9)).spxRead 0 0 4 = toLe 4 0 := by decide +kernel

theorem witness_gather_answers : (after (.negativeResponseReceive 0 .row 0 2) (gatherGo 9)).gth.cmds = [] ∧
    ((after (.negativeResponseReceive 0 .row 0 2) (gatherGo 9)).step_ 1).faulted = true ∧
    (match (after (.gthRemoteTimeout 0 false 0) (gatherGo 9)).gthCmd 0 0 with | some c => c.rows.length | none => 0) = 1 ∧
    (let s := { tabled 7 with gth := { up.gth with accs := [(4, ⟨9, 1, ⟨4, 10, 0, 3, 9, 0, 1, []⟩, 2⟩), (5, ⟨9, 1, ⟨5, 10, 0, 3, 9, 0, 1, []⟩, 3⟩)] } }
     (after (.accumulateAckReceive 0 4 0) s).gth.accs.length = 1 ∧
     ((after (.gthRemoteTimeout 0 true 4) s).gth.accs.map (·.2.tries)) = [3, 3] ∧
     ((after (.gthRemoteTimeout 0 true 5) s).step_ 1).faulted = true) := by decide +kernel

/-- A read and an accumulate of row 9 by device 9. -/
def from9' : Origin := ⟨9, 1, 1, 5⟩
def accOf9 : RowAcc := ⟨4, 10, 0, 3, 9, 0, 3, List.replicate 64 0x3F800000⟩

theorem witness_row_service : ((tabled 7).spend 0 1 4 1 false).2 = true ∧ (tabled 7).tableIx 1 3 = some 3 ∧
    (tabled 7).tableIx 1 0 = some 0 ∧ ((tabled 7).tableSlot 0).version 3 = some tableDesc ∧
    (tgetD (after (.rowRead 0 from9' ⟨6, 0, 3, 9, 0, 4, 10⟩) (tabled 7)).emb.heat 1 []) = [(0, 9, 1)] ∧
    (after (.rowRead 0 from9' ⟨6, 0, 3, 9, 0, 4, 12⟩) { tabled 7 with emb := { (tabled 7).emb with entries := [⟨1, 0, 3, 9, .pendIn 8 2⟩] } }).emb.heldReads.length = 1 ∧
    (after (.rowReadRelease 0 from9' 6) { tabled 7 with emb := { (tabled 7).emb with heldReads := [⟨0, from9', ⟨6, 0, 3, 9, 0, 4, 10⟩⟩] } }).emb.heldReads = [] ∧
    (10, 9, 1, 4) ∈ tgetD (after (.rowAccumulate 0 from9' accOf9) (tabled 7)).emb.applied 1 [] := by decide +kernel

/-- A table descriptor's bytes: `tableDesc` with version 4. -/
def tableBytes : List Byte :=
  toLe 1 0 ++ toLe 1 1 ++ toLe 2 4 ++ toLe 2 1 ++ toLe 2 0 ++ toLe 4 4 ++ toLe 4 1 ++ toLe 8 0x6100 ++ toLe 4 0 ++
    toLe 4 4 ++ toLe 8 0x6000 ++ toLe 8 0x7000 ++ toLe 8 0 ++ toLe 8 0x8000
/-- A directory command of queue 0, with a quota of eight entries. -/
def dirCmd (s : State) (op : Nat) (operands : List Byte) : State :=
  withCmd (s.putFld .EMB_ENTRY_QUOTA [0, 1] 0 19 8) 3 (cmdRaw op 0 operands)
def withEmb (s : State) (f : EmbState → EmbState) : State := { s with emb := f s.emb }
def statusOf (s : State) : Nat := leAt (s.peek (hearthAt + 0x20000) 16) 4 1
def loadS : State := dirCmd (pokeVa (tabled 7) 0x5000 tableBytes) 1 (toLe 2 0 ++ toLe 6 0 ++ toLe 8 0x5000)
def twoVersions : Tbl TableSlot := [(0, { st0 := .current, desc0 := some tableDesc, st1 := .loaded, desc1 := some tableDesc })]

theorem witness_table_load : (loadS.ofRow 0 0 3 1).isSome ∧ loadS.tableIx 1 0 = some 0 ∧ (loadS.tableSlot 0).st1 = .empty ∧
    ((loadS.start 0 0).readVa 1 0x5000 64).2.1 = .ok ∧ (parseTable tableBytes).isSome ∧
    ((after (.tableLoad 0 0) loadS).tableSlot 0).desc1 = some { tableDesc with version := 4 } ∧
    ((after (.tableLoad 0 0) (withEmb loadS fun e => { e with slots := twoVersions })).lastRecord.map (·.code)) = some 3 := by
  decide +kernel

def dropS : State := withEmb (dirCmd (tabled 7) 2 (toLe 2 0)) fun e => { e with slots := twoVersions, staged := [(1, [(1, 0), (2, 9)])] }

theorem witness_table_drop : (dropS.ofRow 0 0 3 2).isSome = true ∧ ((after (.tableDrop 0 0) dropS).tableSlot 0).st1 = .empty ∧
    (after (.tableDrop 0 0) dropS).staged 1 = [(2, 9)] := by decide +kernel

/-- DIR_STAGE of a regraft of row 9 that has begun here, and of one that has not. -/
def stageS (es : List RowEntry) : State := withEmb (dirCmd (tabled 7) 5 (toLe 8 (2 + 9 * 2 ^ 16) ++ toLe 8 9)) fun e => { e with entries := es }

/-- HEAT_READ that clears. -/
def heatS : State := dirCmd (tabled 7) 8 (toLe 8 0x5000 ++ toLe 8 1)

theorem witness_unstage : (after (.dirUnstage 0 0) (withEmb (dirCmd (tabled 7) 6 []) fun e => { e with staged := [(1, [(1, 0)]), (2, [(1, 0)])] })).emb.staged =
    [(1, []), (2, [(1, 0)])] ∧
    ((after (.pendAbandon 0 0) (withEmb (dirCmd (tabled 7) 7 (toLe 8 0 ++ toLe 8 9)) fun e => { e with
      entries := [⟨1, 0, 3, 9, .pendOut 9 2 true⟩, ⟨1, 0, 3, 8, .pendOut 9 2 true⟩] })).emb.entries.map (·.row)) = [8] ∧
    (heatS.ofRow 0 0 3 8).isSome = true ∧ heatS.translate 1 0x5000 = some 0x5000 ∧ heatS.translate 1 0x8FFF = some 0x8FFF := by
  decide +kernel

theorem witness_stage : ((stageS []).ofRow 0 0 3 5).isSome = true ∧ (stageS []).stageCheck 1 (2 + 9 * 2 ^ 16, 9) = none ∧
    ((after (.dirStage 0 0) (stageS [])).staged 1).length = 1 ∧
    (stageS [⟨1, 0, 3, 9, .pendOut 9 2 true⟩]).stageCheck 1 (2 + 9 * 2 ^ 16, 9) = some 8 ∧
    ((after (.dirStage 0 0) (stageS [⟨1, 0, 3, 9, .pendOut 9 2 true⟩])).lastRecord.map (·.code)) = some 8 := by decide +kernel

def copyS (op : Nat) : State := dirCmd (tabled 7) op (toLe 8 0 ++ toLe 8 9 ++ toLe 4 9 ++ toLe 4 2)
def copyOut : State := after (.regraftBegin 0 0) (copyS 3)
/-- The copy has been sent again three times. -/
def copyLate : State := withEmb copyOut fun e => { e with copies := e.copies.map fun p => (p.1, { p.2 with tries := 3 }) }

theorem witness_copies : ((copyS 3).ofRow 0 0 3 3).isSome = true ∧ (((copyS 3).start 0 0).beginRow 1 0 9).2.1.isSome = true ∧
    (up.grove 1).members.testBit 9 = true ∧ (copyS 3).embUsed 1 < (copyS 3).embQuota 1 ∧
    copyOut.emb.entries = [⟨1, 0, 3, 9, .pendOut 9 2 false⟩] ∧
    (after (.scionBegin 0 0) (copyS 4)).emb.entries = [⟨1, 0, 3, 9, .holder 9 true false⟩] ∧
    (after (.regraftCopyAck 0 0) copyOut).emb.entries = [⟨1, 0, 3, 9, .pendOut 9 2 true⟩] ∧
    (after (.scionCopyAck 0 0) (after (.scionBegin 0 0) (copyS 4))).emb.copies = [] ∧
    ((after (.regraftCopyTimeout 0 0) copyOut).emb.copies.map (·.2.tries)) = [1] ∧
    (after (.regraftCopyTimeout 0 0) copyLate).emb.entries = [] ∧ (after (.regraftCopyTimeout 0 0) copyLate).cmd 0 0 = none := by
  decide +kernel

/-- A copy of row 9 for graft slot 2. -/
def rowCopy : RowCopy := ⟨6, 0, 3, 9, 2, toLe 64 5, []⟩
def copyTo : State := dirCmd (tabled 7) 6 []
def scions : State := withEmb copyTo fun e => { e with
  entries := [⟨1, 0, 3, 9, .scion 3⟩, ⟨1, 0, 3, 8, .pendIn 9 4⟩]
  refreshes := [(2 ^ 32, ⟨9, 1, 3, false, 0, 9⟩), (2 ^ 32 + 1, ⟨9, 1, 3, false, 0, 9⟩)] }

theorem witness_copies_arrive : (copyTo.copyDesc 1 rowCopy).isSome = true ∧
    (after (.regraftCopyReceive 0 from9' rowCopy) copyTo).emb.entries = [⟨1, 0, 3, 9, .pendIn 9 2⟩] ∧
    (after (.regraftCopyReceive 0 from9' rowCopy) copyTo).peekVa 1 0x8080 1 = [5] ∧
    (after (.scionCopyReceive 0 from9' rowCopy) copyTo).emb.entries = [⟨1, 0, 3, 9, .pendScion 2⟩] ∧
    (after (.scionRefreshReceive 0 from9' rowCopy) scions).peekVa 1 0x80C0 1 = [5] ∧
    (after (.regraftMirrorReceive 0 from9' { rowCopy with row := 8 }) scions).peekVa 1 0x8100 1 = [5] := by decide +kernel

theorem witness_directory : ((after (.flipDoneReceive 0 from9' 0 8 9) scions).emb.entries.map (·.kind)) = [.scion 3, .graft 7 4] ∧
    tget (after (.refreshDoneReceive from9' 9) scions).emb.refreshed (2 ^ 15 + 9) = some 9 ∧
    (after (.refreshAckReceive 1 0) scions).emb.refreshes.length = 1 := by decide +kernel

/-- A pass of tile 0 with two checks left: the one given and one that passes. -/
def checkPass (ok unstepped : Bool) (attempt : Nat) : AbftPass :=
  { tile := 0, slot := 5, grove := 1, gen := 5, step := 10, attempt := attempt, unstepped := unstepped,
    pending := [{ row := true, index := 3, nonfinite := false, obs := 1, ref := 2, ok := ok }], failed := [] }
def withPass (p : AbftPass) : State := { up with til := { up.til with passes := [p] } }
/-- Step 10 of grove 1 runs, tile 0 has a watch state, and its report waits. -/
def reported (p : AbftPass) (w : TileWatch) : State :=
  { up with
    til := { up.til with reports := [p] }
    wch := { up.wch with tiles := [(0, w)] }
    col := { steps := [(1, { st := .running, step := 10, attempt := p.attempt })] } }
theorem witness_abft_check : (after (.abftCheckDone 0) (withPass (checkPass true false 0))).til.passes = [] ∧
    (after (.abftCheckDone 0) (withPass (checkPass true false 0))).til.reports = [] ∧
    ((after (.abftCheckDone 0) (withPass (checkPass false false 0))).til.reports.map (·.failed.length)) = [1] := by decide +kernel
theorem witness_tolerance : (after (.tilAbftTolWrite 0 5) up).regFld .TIL_ABFT_TOL [0] 0 5 = 5 ∧
   (after (.tilAbftAbsWrite 0 5) up).regFld .TIL_ABFT_ABS [0] 0 32 = 5  := by decide +kernel
theorem witness_mismatch : ((after (.abftMismatchReport 0) (reported (checkPass false false 0) {})).watchTile 0).st = .suspect ∧
  ((after (.abftMismatchReport 0) (reported (checkPass false false 0) {})).step_ 1).st = .voided  ∧
  ((after (.abftMismatchReport 0) (reported (checkPass false false 1) { st := .suspect, histStep := 10, histAttempt := 0})).watchTile 0).st = .testing ∧
  ((after (.abftMismatchReport 0) (reported (checkPass false true 0) {})).step_ 1).st = .running  ∧
  ((after (.recomputeDone 0 2) (reported (checkPass false true 0) { recompute := 1})).watchTile 0).cls = 2  := by decide +kernel
def tileW (w : TileWatch) : State := { up with wch := { up.wch with tiles := [(0, w)] } }
theorem witness_tile : (tileW {}).tileIdle 0 = true ∧ ((after (.tileExclude 0) (tileW {})).watchTile 0).st = .excluded ∧
   ((after (.tileExclude 0) (reported (checkPass false true 0) {})).watchTile 0).st = .normal ∧
   ((after (.tileReadmit 0) (tileW {st := .excluded, excluded := true, cleared := true})).watchTile 0).st = .normal ∧
   ((after (.tileReadmit 0) (tileW {st := .excluded, excluded := true})).watchTile 0).st = .excluded := by decide +kernel
def ftS : State := withCmd (tileW {st := .excluded, excluded := true}) 7 (cmdRaw 1 0 (toLe 2 1 ++ toLe 2 0))
theorem witness_ft : (ftS.ofRow 0 0 7 1).isSome = true ∧ (after (.ftRun 0 0) ftS).wch.tests.length = 1 ∧
   ((after (.ftDone 0 1 0 .pass) (after (.ftRun 0 0) ftS)).watchTile 0).cleared = true ∧
   (after (.ftDone 0 1 0 .pass) (after (.ftRun 0 0) ftS)).peek (hearthAt + 0x20008) 1 = [1] ∧
   (after (.ftRun 0 0) (withCmd up 7 (cmdRaw 1 0 (toLe 2 1 ++ toLe 2 0)))).wch.tests = [] := by decide +kernel
/-- FT_ABORT of the test of tag 0x77 that command 0 started, as command 1. -/
def ftA (tag : Nat) : State := let s := after (.ftRun 0 0) ftS
  { s with hrt := { s.hrt with queues := s.hrt.queues.map fun q => (q.1, { q.2 with
      cmds := q.2.cmds ++ [Cmd.parse 1 (cmdRaw 2 0 (toLe 2 tag))] }) } }
theorem witness_ft_abort : ((ftA 0x77).ofRow 0 1 7 2).isSome = true ∧ (((ftA 0x77).start 0 1).cmd 0 0).isSome = true ∧
    (after (.ftAbort 0 1) (ftA 0x77)).wch.tests = [] ∧ (after (.ftAbort 0 1) (ftA 0x77)).cmd 0 0 = none ∧
    (after (.ftAbort 0 1) (ftA 0x78)).wch.tests.length = 1 := by decide +kernel
def logS : State := up.putFld .WCH_LOG_HEAD [] 0 32 1024
theorem witness_log : (after (.wchLogTailWrite 1025) logS) = logS ∧ (after (.wchLogTailWrite 4) logS).regFld .WCH_LOG_TAIL [] 0 32 = 4 ∧
  ((after (.wchLogTailWrite 4) {logS with wch := {logS.wch with droppedSince := 3}}).lastRecord.map (·.detail)) = some 3 ∧
  (after (.wchLogStateWrite 1) (logS.putReg .WCH_LOG_STATE [] 3)).getReg .WCH_LOG_STATE [] = 0 := by decide +kernel

/-- Grove 1's own channel requests come from this device. -/
def own : Origin := ⟨7, 0, 1, 5⟩
def readReq (off n : Nat) : MemReq := ⟨.tileDma, own, off, n, none, []⟩
def writeReq (off : Nat) (bs : List Byte) : MemReq := ⟨.tileDma, own, off, bs.length, some bs, []⟩
def poked : State := (mapped.writeLocal (.grove 1) 0x40 (toLe 8 0x1122)).1
theorem witness_requests : poked.admission .tileDma own 0x40 = .ok (.grove 1) ∧ poked.locate 0x40 = some (0, 0x40) ∧
    poked.mustWait (.req (readReq 0x40 2)) 0x40 false = false ∧ poked.decode 0 [] = .clean ∧
    (after (.memRequest (readReq 0x40 2) false) poked).outbox = [.readData .tileDma own 0x40 [0x22, 0x11]] ∧
    (after (.memRequest (writeReq 0x80 [1, 2]) false) poked).peek 0x80 3 = [1, 2, 0] ∧
    (after (.memRequest (writeReq 0x40 (List.replicate 64 3)) false) poked).peek 0x40 2 = [3, 3] ∧
    (after (.memRequest (readReq 0x40 2) true) poked).sup.phase = .ash ∧
    poked.admission .tileDma ⟨9, 0, 2, 5⟩ 0x40 = .stale ∧ 
    ({ poked with mem := { poked.mem with repairs := [(0, ⟨2, 0, 0, true⟩)] } }).mustWait (.req (readReq 0x40 2)) 0x40 false = true := by decide +kernel
def accReq (op : AccOp) (off mask : Nat) (v : List Nat) : AccReq := ⟨.scatter, own, op, off, mask, v, []⟩
def accS : State := { mapped with mem := { mapped.mem with channels := [(0, { scrubPos := 2 ^ 25 })] } }
theorem witness_adders : (accReq .f32 0x40 1 (List.replicate 16 0x3F800000)).wf = true ∧
    accS.mustWait (.acc (accReq .f32 0x40 1 (List.replicate 16 0x3F800000))) 0x40 true = false ∧
    (after (.nearMemoryAccumulate (accReq .f32 0x40 1 (List.replicate 16 0x3F800000))) accS).peek 0x40 8 = toLe 4 0x3F800000 ++ toLe 4 0 ∧
    (after (.nearMemoryAccumulate (accReq .u32 0x48 0 [7])) accS).peek 0x48 4 = toLe 4 7 ∧
    (after (.nearMemoryAccumulate (accReq .b8 0x40 0 (List.replicate 64 0xFF))) accS).peek 0x13C 4 = toLe 4 0xFFFFFFFF ∧
    (accElem .i32 0x7FFFFFFF 1) = (0x7FFFFFFF, true) := by decide +kernel
/-- The word at 0x48 holds 7 and meets an ACC_U32 that passes its bound. -/
def satS : State := after (.nearMemoryAccumulate (accReq .u32 0x48 0 [0xFFFFFFFF])) (after (.nearMemoryAccumulate (accReq .u32 0x48 0 [7])) accS)
theorem witness_saturated : satS.mem.saturated = [wordNo 0 1 8] ∧ (satS.lastRecord.map (·.code)) = some 3 ∧
    (after (.nearMemoryAccumulate (accReq .i32 0x40 4 [0, 0, 5])) satS).peek 0x48 4 = toLe 4 0xFFFFFFFF ∧
    (after (.memRequest (writeReq 0x48 [1, 2]) false) satS).mem.saturated = [] := by decide +kernel
def wcbS : State := after (.memRequest (writeReq 0x80 [1, 2]) false) poked
theorem witness_wcb : ((wcbS.channel 0).wcb.map (·.line)) = [1, 2] ∧ wcbS.lineKnown 0 1 = true ∧
   (after (.wcbAgeEvict 0 []) wcbS).peek 0x40 2 = [0x22, 0x11] ∧
   ((after (.wcbAgeEvict 0 []) wcbS).channel 0).wcb.length = 1 ∧ ((after (.patrolScrubRead 0 []) poked).channel 0).patrolPos = 1 := by decide +kernel
def rv (op c bank row x : Nat) : Word := BitVec.ofNat 64 (2 ^ 63 + op * 2 ^ 56 + c * 2 ^ 47 + bank * 2 ^ 43 + row * 2 ^ 27 + x)
theorem witness_repair : (after (.memMrRead 0 (rv 0 9 0 0 0x300)) up).regFld .MEM_REPAIR_STATUS [0] 1 1 = 1 ∧
   up.channelFree 9 = true ∧ (after (.memMrWrite 0 (rv 1 9 0 0 0x322)) up).mem.modeRegs = [(3, 0x22)] ∧
   (after (.memMrWrite 0 (rv 1 2 0 0 0x322)) up).regFld .MEM_REPAIR_STATUS [0] 8 8 = 2 ∧
   (after (.memSoftRepair 0 (rv 2 2 3 4 0)) up).mem.repairs = [(2, ⟨2, 3, 4, true⟩)] ∧
   (after (.memHardRepair 0 (rv 3 9 3 4 0)) up).mem.repairs = [(9, ⟨3, 3, 4, true⟩)] ∧
   (after (.memQueryRepair 0 (rv 4 9 3 4 0)) up).regFld .MEM_REPAIR_STATUS [0] 32 16 = 0xFFFF ∧
   softFree ((after (.softRepairResult 2 true []) (after (.memSoftRepair 0 (rv 2 2 3 4 0)) up)).phys 2) 3 = false ∧
   hardFree ((after (.hardRepairDone 9 true) (after (.memHardRepair 0 (rv 3 9 3 4 0)) up)).phys 9) 3 = false ∧
   (after (.softRepairResult 2 false []) (after (.memSoftRepair 0 (rv 2 2 3 4 0)) up)).regFld .MEM_REPAIR_STATUS [0] 8 8 = 4 := by decide +kernel
def mv (src spare : Nat) : Word := BitVec.ofNat 64 (2 ^ 63 + spare * 2 ^ 16 + src)
def kindled : State := { State.reset with sup := { phase := .kindling } }
theorem witness_mapout : (after (.mapoutGo 0 (mv 0 9)) poked).mem.mapouts = [(0, ⟨0, 9⟩)] ∧
   (after (.mapoutCopyDone 0 []) (after (.wcbAgeEvict 0 []) (after (.mapoutGo 0 (mv 0 9)) poked))).physOf 0 = 9 ∧
   (after (.mapoutCopyDone 0 []) (after (.mapoutGo 0 (mv 0 9)) poked)).peek 0x40 2 = [0x22, 0x11] ∧
   kindled.islandsRun = true ∧ (after (.memChmapSetWrite 0 (BitVec.ofNat 64 (9 * 2 ^ 16))) kindled).physOf 0 = 9 ∧
   (after (.memChmapSetWrite 0 (BitVec.ofNat 64 (9 * 2 ^ 16))) up).physOf 0 = 0 := by decide +kernel
theorem witness_stack : (after (.stackTempSample 7 (some 1400)) up).regFld .MEM_STACK_TEMP [1, 1] 24 2 = 1 ∧
   (after (.stackTempSample 7 (some 1568)) up).sup.phase = .ash ∧
   (after (.memPhyTrainingDone (.kindling [])) kindled).mem.hearthKeyed = true ∧
   ((after (.memPhyTrainingDone (.retrain 3)) ({up with mem := {up.mem with channels := [(3, {retraining := true})]}})).channel 3).retraining = false := by decide +kernel

/-- A live port. -/
def livePort : Port := { st := .active, lanes := List.replicate 8 2, partner := some ⟨9, 1, 3, 1, 0, []⟩, credits := List.replicate 8 4 }
def withPorts (l : Tbl Port) : State := { up with lnk := { up.lnk with ports := l } }
def oneFlit (kind dest seq ttl : Nat) : LFlit :=
  { kind := kind, grove := 1, vc := 3, dl := false, gen := 5, seq := seq, ackSeq := 65535, credits := [0,0,0,0,0,0,0,0],
    dest := dest, src := 9, hop := 0, ttl := ttl, first := true, last := true, minus := [true,false,false], reversed := false,
    opcode := 0x25, length := 1, address := 0, payload := toLe 8 3 }
def torus4 : Word := BitVec.ofNat 64 (2 ^ 63 + 4 * 2 ^ 16 + 4 * 2 ^ 8 + 8)
def ringS : State := (withPorts [(0, livePort), (3, livePort)]).putReg .LNK_TORUS [0] torus4
theorem witness_flits :
   (oneFlit 1 7 0 5).bytes.length = 256 ∧ flitCrcOk (oneFlit 1 7 0 5).bytes = true ∧
   (LFlit.parse (oneFlit 1 7 0 5).bytes).valid = true ∧
   ((after (.lnkFlitReceive 0 0 ⟨0, 0⟩ (oneFlit 1 7 0 5).bytes) ringS).outbox.map fun m => match m with | .deliver d o _ _ _ => (d, o) | _ => (9, 9)) = [(0, 0x25)] ∧
   ((after (.lnkFlitReceive 0 0 ⟨0, 0⟩ (oneFlit 1 7 4 5).bytes) ringS).outbox.map fun m => match m with | .linkFlit d o => (d, o.kind) | _ => (9, 9)) = [(0, 2)] ∧
   ((after (.lnkFlitReceive 0 0 ⟨0, 0⟩ ((oneFlit 1 7 0 5).bytes.set 9 7)) ringS).outbox.map fun m => match m with | .linkFlit d o => (d, o.kind) | _ => (9, 9)) = [(0, 2)] ∧
   ((after (.lnkFlitReceive 0 0 ⟨0, 0⟩ (oneFlit 1 5 0 5).bytes) ringS).outbox.map fun m => match m with | .linkFlit d o => (d, o.ttl) | _ => (9, 9)) = [(3, 4)] := by decide +kernel
def replayS : State := withPorts [(0, { livePort with replay := [oneFlit 1 9 4 5, oneFlit 1 9 5 5] })]
theorem witness_replay : ((after (.lnkNakReceive 0 4) replayS).outbox.length) = 1 ∧
  (after (.lnkReplayTimeout 0) replayS).outbox.length = 2 ∧ (after (.lnkIdleSend 0) replayS).outbox.length = 1 := by decide +kernel
def offS : State := withPorts []
def trainS (st : PortSt) : State := withPorts [(0, { st := st, lanes := List.replicate 8 1 })]
def idn : PortIdentity := ⟨0, 1, 3, 1, torus4, List.replicate 8 4⟩
def goodCfg : Word := BitVec.ofNat 64 (2 ^ 63 + 4 * 2 ^ 48 + 2 ^ 24 + 2 ^ 16)
theorem witness_training : cfgValid 0 goodCfg = true ∧ ((after (.portEnable 0 goodCfg) offS).port 0).st = .detect ∧
  ((after (.portEnable 0 0) offS).port 0).st = .disabled ∧
  ((after (.trainSignalDetect 0 255) (trainS .detect)).port 0).st = .equalise ∧
  ((after (.trainEqualiseDone 0 127) (trainS .equalise)).port 0).lanes = [1,1,1,1,1,1,1,3] ∧
  ((after (.trainAlignDone 0 255) (trainS .align)).port 0).st = .identify ∧
  ((after (.identityExchange 0 idn) ((trainS .identify).putReg .LNK_TORUS [0] torus4)).port 0).st = .active ∧
  ((after (.identityExchange 0 idn) (trainS .identify)).port 0).st = .wiring := by decide +kernel
theorem witness_retrain : ((after (.laneLockLoss 0) replayS).port 0).st = .retrain ∧
  ((after (.portRetrain 0 (goodCfg ||| 1)) replayS).port 0).st = .retrain ∧
  ((after (.retrainDone 0 255 ⟨9, 1, 3, 1, 0, []⟩) (after (.laneLockLoss 0) replayS)).port 0).st = .active ∧
  ((after (.retrainBoundExpiry 0 255) (after (.laneLockLoss 0) replayS)).port 0).st = .dead ∧
  ((after (.laneLockTimeout 0 3) replayS).port 0).lanes = [2,2,2,3,2,2,2,2] ∧
  ((after (.laneRemoveMessage 0 3) (withPorts [(0, {livePort with lanes := [0,0,0,2]})])).port 0).st = .dead ∧
  ((after (.portDisable 0 0) replayS).port 0).st = .disabled := by decide +kernel
def share : Word := BitVec.ofNat 64 (16 * (1 + 2 ^ 16 + 2 ^ 32 + 2 ^ 48))
def free : State := { up with grv := {} }
theorem witness_link_config : (after (.lnkCreditCfgWrite 0 share) up).getReg .LNK_CREDIT_CFG_T [0, 0] = share ∧
  ((after (.lnkCreditCfgWrite 0 0) up).lastRecord.map (·.code)) = some 1 ∧
  (after (.lnkTorusWrite torus4) free).getReg .LNK_TORUS [1] = torus4 ∧ (after (.lnkTorusWrite torus4) up).torus = none ∧
  bundleOk 0x9 = true ∧ (after (.lnkBundleWrite 0x9) free).bundleSize 1 = 2 ∧ (after (.lnkBundleWrite 0x9) up).bundleSize 1 = 1 ∧
  (after (.lnkStandinWrite 0 (BitVec.ofNat 64 (2 ^ 63 + 9 * 2 ^ 32))) { free with lnk := {ports := [(16, livePort)]} }).standin 0 = BitVec.ofNat 64 (2 ^ 63 + 9 * 2 ^ 32) ∧
  ((after (.lnkStandinWrite 0 (BitVec.ofNat 64 (2 ^ 63 + 9 * 2 ^ 32))) { free with lnk := {ports := [(0, livePort)]} }).standin 0).getLsbD 63 = false := by decide +kernel

/-- A descriptor of reduction 3: 64 elements, contributed, owned and replicated here. -/
def redBytes (flags : Nat) : List Byte :=
  toLe 2 3 ++ toLe 1 flags ++ toLe 1 0 ++ toLe 1 0 ++ toLe 3 0 ++ toLe 4 64 ++ toLe 2 (if flags % 2 = 1 then 2 else 0) ++ toLe 2 1 ++
    toLe 8 (if flags % 2 = 1 then 0x9000 else 0) ++ toLe 8 (if flags % 2 = 1 then 0xA000 else 0) ++ toLe 8 (if flags / 2 % 2 = 1 then 0x10000 else 0) ++ toLe 8 0xA100 ++
    toLe 8 (if flags / 4 = 1 then 0xB000 else 0) ++ toLe 8 0 ++ toLe 8 (if flags / 4 = 1 then 3 + 2 ^ 14 + 2 ^ 16 else 0) ++
    (if flags / 2 % 2 = 1 then toLe 4 900 ++ toLe 4 4 ++ toLe 4 0 ++ toLe 4 1 ++ toLe 8 0xC000 else toLe 24 0) ++ toLe 32 0
def redOf (flags : Nat) : RedDesc := (parseRed (redBytes flags)).2
/-- Grove memory with the gradient, the owner map naming `owner` and the group list of device 7. -/
def redMem (owner : Nat) : State :=
  pokeVa (pokeVa (pokeVa mapped 0x9000 (toLe 4 0x3F800000)) 0xA000 (toLe 2 owner)) 0xA100 (toLe 2 7)
/-- Reduction 3 is in force with flags, its step 10 in a state. -/
def reducing (flags owner : Nat) (st : StepSt) : State :=
  { redMem owner with col := {
      steps := [(1, { st := st, step := 10, record := some { step := 10, cursor := 0, grove := 1, gen := 5, headroom := [], scale := List.replicate 256 0 } })]
      reductions := [(redKey 0 1 3, { desc := some (redOf flags) })] } }
def schedS (op : Nat) (ops : List Byte) : State := withCmd (pokeVa (redMem 7) 0x5000 (redBytes 7)) 4 (cmdRaw op 0 ops)
theorem witness_sched : ((schedS 1 (toLe 8 0x5000)).ofRow 0 0 4 1).isSome = true ∧ (parseRed (redBytes 7)).1 = true ∧
   ((schedS 1 (toLe 8 0x5000)).groupOk 1 (redOf 7)).2.2 = true ∧
   ((after (.schedLoad 0 0) (schedS 1 (toLe 8 0x5000))).reduction (redKey 0 1 3)).staged = some (some (redOf 7)) ∧
   ((after (.schedDrop 0 0) ({schedS 2 (toLe 2 3) with col := (reducing 7 7 .running).col})).reduction (redKey 0 1 3)).staged = some none := by decide +kernel
def blk (step attempt req : Nat) : Contribution := ⟨step, attempt, 3, 2, 1, 0, req, 2, 0, 0, List.replicate 64 3⟩
def from9 : Origin := ⟨9, 0, 1, 5⟩
def got (s : State) (c : Contribution) : State := after (.contributionReceive 0 from9 c) s
def ackOf (s : State) : Nat := leAt (((s.lnk.held.map (·.payload)).getLastD [])) 8 1
def budgetless (s : State) : State := {s with grv := {s.grv with budgets := [(budgetKey 0 1 0, {mode := 1, amount := 0, credit := 0})]}}
theorem witness_contribution :
   ackOf (got (budgetless (reducing 6 7 .running)) (blk 10 0 1)) = 0 ∧
   (got (budgetless (reducing 6 7 .running)) (blk 10 0 1)).peekVa 1 0x10000 4 = toLe 4 3 ∧
   (got (budgetless (reducing 6 7 .running)) (blk 10 0 1)).countWord 1 (redOf 6) 10 0 = 2 ∧
   ackOf (got (got (budgetless (reducing 6 7 .running)) (blk 10 0 1)) (blk 10 0 1)) = 1 ∧
   ackOf (got (budgetless (reducing 6 7 .running)) (blk 10 1 1)) = 4 ∧
   ackOf (got (budgetless (reducing 6 7 .running)) (blk 11 0 1)) = 0 ∧
   ackOf (got (budgetless (reducing 1 7 .running)) (blk 10 0 1)) = 3 ∧
   ackOf (got (after (.reductionDeadline 0 1 3) (budgetless (reducing 6 7 .running))) (blk 10 0 1)) = 2 ∧
   ((got (budgetless (reducing 6 7 .running)) (blk 12 0 1)).lastRecord.map (·.code)) = some 7 := by decide +kernel
theorem witness_closes : (got (got (budgetless (reducing 6 7 .running)) (blk 10 0 1)) (blk 10 0 2)).reduction (redKey 0 1 3) = {desc := some (redOf 6), closed := true} ∧
   ((after (.reductionDeadline 0 1 3) (reducing 6 7 .running)).reduction (redKey 0 1 3)).closed = true ∧
   ((after (.partialMessageTimeout 0 3 0) ({up with lnk := {up.lnk with ports := [(0, {rx := [{ kind := 1, grove := 1, vc := 3, dl := false, gen := 5, seq := 0, ackSeq := 0, credits := [], dest := 7, src := 9, hop := 0, ttl := 2, first := true, last := false, minus := [], reversed := false, opcode := 0x21, length := 1, address := 0, payload := [] }]})]}})).port 0).rx = [] := by decide +kernel
theorem witness_sent : ((reducing 1 9 .running).mayContribute 0 1 3).isSome = true ∧
   ((tget (after (.contributionSend 0 1 3) (reducing 1 9 .running)).col.sent (reqKey 0 1 0)).map (·.dest)) = some 9 ∧
   (after (.contributionAckReceive 0 from9 0 0) (after (.contributionSend 0 1 3) (reducing 1 9 .running))).col.sent = [] ∧
   ((tget (after (.contributionTimeout 0 1 0) (after (.contributionSend 0 1 3) (reducing 1 9 .running))).col.sent (reqKey 0 1 0)).map (·.tries)) = some 1 ∧
   (let s := reducing 1 9 .running; (tgetD (after (.contributionTimeout 0 1 0) { s with col := { s.col with sent := [(reqKey 0 1 0, ⟨9, blk 10 0 0, 3⟩)] } }).col.tally 1 {}).abandoned) = 1  := by decide +kernel
def piece0 : Piece := ⟨10, 3, 0, 0, 6, 0, toLe 8 0x3F800000⟩
def pieceS : State := let s := withCounter (reducing 6 7 .committed) 7; { s with col := { s.col with received := [(redKey 0 1 3, (10, []))], pieces := [(reqKey 0 1 4, ⟨9, piece0, 0⟩), (reqKey 0 1 5, ⟨9, piece0, 3⟩)] } }
theorem witness_pieces : (after (.bcastPieceReceive 0 from9 piece0) pieceS).peekVa 1 0xB000 4 = toLe 4 0x3F800000 ∧ ((after (.bcastPieceReceive 0 from9 piece0) pieceS).knot 3).value = 8 ∧
   (redOf 6).allPieces = 1 ∧ ((after (.bcastAckReceive 0 from9 4) pieceS).col.pieces.length) = 1 ∧
   ((after (.bcastPieceTimeout 0 1 4) pieceS).col.pieces.map (·.2.tries)) = [1, 3] ∧ ((after (.bcastPieceTimeout 0 1 5) pieceS).col.pieces.length) = 1 ∧
   ((after (.bcastCompletionTimeout 0 1) pieceS).step_ 1).withhold = true ∧ ((after (.bcastCompletionTimeout 0 1) (after (.bcastPieceReceive 0 from9 piece0) pieceS)).step_ 1).withhold = false := by decide +kernel
def openBytes (step : Nat) : List Byte := toLe 8 step ++ toLe 8 0 ++ toLe 1 1 ++ [0] ++ toLe 2 5 ++ toLe 492 0
def openS (st : StepSt) (step : Nat) (delivered : Option (List Byte)) : State :=
  let s := withCmd (poke up (hearthAt + 0x1000) (openBytes step)) 4 (cmdRaw 3 0 (toLe 8 (hearthAt + 0x1000)))
  { s with col := { steps := [(1, { st := st, step := 10, delivered := delivered })] } }
theorem witness_open : ((openS .closed 11 none).ofRow 0 0 4 3).isSome = true ∧ (parseOpen (openBytes 11)).1 = true ∧ inHalf 0 (hearthAt + 0x1000) 512 = true ∧
   ((after (.stepOpen 0 0) (openS .closed 11 none)).step_ 1).st = .running ∧ ((after (.stepOpen 0 0) (openS .closed 11 none)).step_ 1).step = 11 ∧
   ((after (.stepOpen 0 0) (openS .running 11 none)).lastRecord.map (·.code)) = some 4 ∧
   ((after (.stepOpen 0 0) (openS .closed 11 (some []))).lastRecord.map (·.code)) = some 5 := by decide +kernel
def stepIn (x : GroveStep) : State := { up with col := { steps := [(1, x)] } }
def voidS : State := let s := withCmd up 4 (cmdRaw 4 0 (toLe 8 10)); { s with col := { steps := [(1, {st := .sealed, step := 10})] } }
theorem witness_void : ((after (.stepVoid 0 0) voidS).step_ 1).st = .voided ∧ ((after (.stepVoid 0 0) voidS).step_ 1).voidMsg = some ⟨10, 0, 7, 3⟩ ∧
   ((after (.voidReceive from9 ⟨10, 0, 9, 1⟩) voidS).step_ 1).st = .voided ∧ ((after (.voidReceive from9 ⟨9, 0, 9, 1⟩) voidS).step_ 1).st = .sealed ∧
   ((after (.voidReceive from9 ⟨11, 0, 9, 1⟩) voidS).step_ 1).heldVoids.length = 1 ∧ ((after (.commitTimeout 1) voidS).step_ 1).voidMsg = some ⟨10, 0, 7, 2⟩ ∧
   ((after (.voidBarrierTimeout 1) (after (.commitTimeout 1) voidS)).step_ 1).st = .closed ∧
   ((after (.voidBarrierTimeout 1) (after (.commitTimeout 1) voidS)).step_ 1).step = 9 := by decide +kernel
/-- Device 9 of the grove: its parent is device 7. -/
def at9 (x : GroveStep) : State := { stepIn x with regs := [(regAddr .GLB_DEVNUM [], 0x8009#64)] }
def rep0 : Report := ⟨10, 0, 0, true, false, 1, 0, 0⟩
theorem witness_reports : treeParent ((at9 {}).members 1) (((at9 {}).members 1).headD 0) (at9 {}).devnum = some 7 ∧ (at9 {}).commitChildren 1 = [] ∧
   (at9 {st := .running, step := 10}).maySeal 1 = true ∧ ((after (.cleanReportSend 1) (at9 {st := .running, step := 10})).step_ 1).st = .sealed ∧
   ((after (.cleanReportSend 1) (at9 {st := .running, step := 10})).step_ 1).reported = true ∧
   ((after (.voidAckSend 1) (at9 {st := .voided, step := 10})).step_ 1).reported = true ∧
   ((after (.commitReportReceive from9 rep0) (stepIn {st := .running, step := 10})).step_ 1).reports = [(9, rep0)] ∧
   ((after (.commitReportReceive from9 rep0) (stepIn {st := .sealed, step := 10})).step_ 1).reports = [(9, rep0)] := by decide +kernel
def rel (commit : Bool) (a : Nat) : Release := ⟨10, a, commit, true, if commit then List.replicate 256 1 else []⟩
theorem witness_releases : ((after (.commitRelease from9 (rel true 0)) (at9 {st := .sealed, step := 10})).step_ 1).st = .committed ∧
   ((after (.commitRelease from9 (rel false 1)) (at9 {st := .voided, step := 10})).step_ 1).st = .running ∧
   ((after (.commitRelease from9 (rel false 1)) (at9 {st := .voided, step := 10})).step_ 1).attempt = 1 ∧
   ((after (.stepCommitComplete 1) (after (.commitRelease from9 (rel true 0)) (at9 {st := .sealed, step := 10}))).step_ 1).st = .closed := by decide +kernel

/-- An update programme of reduction 3 with one instruction, w := g + w. -/
def updBytes : List Byte :=
  toLe 1 0 ++ toLe 1 1 ++ toLe 2 5 ++ toLe 2 3 ++ toLe 1 1 ++ toLe 1 0 ++ toLe 56 0 ++ toLe 32 0 ++ toLe 32 0 ++
    toLe 8 (1 + 2 ^ 14 + 0x3F * 2 ^ 20 + 2 ^ 36)
def updS (op : Nat) (ops : List Byte) : State := withCmd (pokeVa mapped 0x5000 updBytes) 5 (cmdRaw op 0 ops)
def updProg3 : UpdProg := (parseUpd 1 5 updBytes).2
def updHas (s : State) : State := { s with upd := { progs := [(updKey 0 1 0 3, { cur := some updProg3 })] } }
def updConstOps : List Byte := toLe 1 0 ++ [0] ++ toLe 2 3 ++ toLe 4 0 ++ toLe 4 0x3F800000 ++ toLe 28 0 ++ toLe 1 1
theorem witness_updLoad : ((updS 1 (toLe 8 0x5000)).ofRow 0 0 5 1).isSome = true ∧ (parseUpd 1 5 updBytes).1 = true ∧
    (updS 1 (toLe 8 0x5000)).updPlaces 0 1 updProg3 = true ∧
    ((after (.updLoad 0 0) (updS 1 (toLe 8 0x5000))).updSlot (updKey 0 1 0 3)).next = some (some updProg3) := by decide +kernel
theorem witness_updDrop : ((updHas (updS 2 (toLe 1 0 ++ [0] ++ toLe 2 3))).ofRow 0 0 5 2).isSome = true ∧
    ((after (.updDrop 0 0) (updHas (updS 2 (toLe 1 0 ++ [0] ++ toLe 2 3)))).updSlot (updKey 0 1 0 3)).next = some none ∧
    ((updHas (updS 3 updConstOps)).ofRow 0 0 5 3).isSome = true ∧
    ((after (.updConst 0 0) (updHas (updS 3 updConstOps))).updSlot (updKey 0 1 0 3)).next =
      some (some { updProg3 with constants := [0x3F800000, 0, 0, 0, 0, 0, 0, 0] }) := by decide +kernel
theorem witness_rowbuf : (mapped.localOwned 1 64 (640 * 2 ^ 8) (some 0)) = true ∧ mapped.batchRuns = false ∧
    (after (.updRowbufWrite 0 1 (BitVec.ofNat 64 (2 ^ 63 + 8 * 2 ^ 56 + 2 ^ 6))) mapped).rowBufOn 0 1 = true ∧
    ((after (.updRowbufWrite 0 1 (BitVec.ofNat 64 (2 ^ 63 + 7 * 2 ^ 56))) mapped).lastRecord.map (·.code)) = some 2 := by decide +kernel
/-- A firing of grove 1 at step 10 in a state, its destinations given. -/
def firing1 (st : FireSt) (touch : Bool) (b d : KilnDest) (pages : List Nat) : Firing :=
  { st := st, queue := 0, index := 0, step := 10, slot := 1, touch := touch, buddy := b, storage := d,
    plan := { gen := 5, toBuddy := true, toStorage := true, pages := pages, reserve := 2 ^ 21, reservePages := 1,
              buddy := 9 * 2 ^ 41, stride := 2 ^ 30, qp := 4, rkey := 1, base := 0 } }
def netUp (s : State) : State := { s with hrt := { s.hrt with ethUp := [true], qps := [(4, { session := 1, grove := 1 })] } }
def firingS (f : Firing) : State := { mapped with kln := { firings := [(1, f)] } }
theorem witness_rdmaResponse : (netUp up).islandsRun = true ∧ ((after (.rdmaResponseReceive 4 .cnp) (netUp up)).hrt.qps.map (·.2.cnps)) = [1] ∧
    after (.rdmaResponseReceive 4 (.ack 3)) (netUp up) = netUp up ∧
    ((after (.rdmaResponseReceive 4 (.nak 8)) (netUp (firingS (firing1 .capture false { live := true } { live := true, tag := some 8 } [])))).firing 1).map
      (·.storage.live) = some false := by decide +kernel

/-- A plan of one page at 0 with its reserve at 2 MiB, saved to storage. -/
def planBytes : List Byte :=
  toLe 1 1 ++ toLe 1 2 ++ toLe 2 5 ++ toLe 2 1 ++ toLe 2 0 ++ toLe 8 (2 ^ 21) ++ toLe 4 1 ++ toLe 4 0 ++ toLe 8 0 ++
    toLe 8 (2 ^ 30) ++ toLe 2 4 ++ toLe 2 0 ++ toLe 4 1 ++ toLe 8 0 ++ toLe 8 0 ++ toLe 8 0 ++ toLe 4 1 ++ toLe 4 0
def klnUp : State :=
  { mapped with pageMap := [(1, [(0, 0), (1, 2 ^ 21)])],
                grv := { groves := [(1, { grove1 with params := { grove1.params with checkpointMode := 2 } })] } }
def klnS (op : Nat) (ops : List Byte) : State := withCmd (pokeVa klnUp 0x5000 planBytes) 6 (cmdRaw op 0 ops)
def plan1 : KilnPlan := (klnUp.parsePlan 1 5 planBytes).2
def klnWith (s : State) : State := { s with kln := { plans := [(1, plan1)] }, col := { steps := [(1, { st := .closed, step := 9 })] } }
theorem witness_plan : ((klnS 1 (toLe 8 0x5000)).ofRow 0 0 6 1).isSome = true ∧
    tget (after (.planLoad 0 0) (klnS 1 (toLe 8 0x5000))).kln.plans 1 = some plan1 ∧ plan1.pages = [0] ∧
    ((after (.planLoad 0 0) (klnS 1 (toLe 8 0x5040))).lastRecord.map (·.code)) = some 2 := by decide +kernel
theorem witness_klnAbort : let s := { klnS 3 [] with kln := { firings := [(1, firing1 .drain true { live := true } { live := false } [])] } }
    (s.ofRow 0 0 6 3).isSome = true ∧ (after (.klnAbort 0 0) s).firing 1 = none := by decide +kernel
def fireS : State := klnWith (klnS 2 (toLe 8 10 ++ toLe 1 1))
theorem witness_fire : (fireS.ofRow 0 0 6 2).isSome = true ∧ fireS.uncommitted 1 = some 10 ∧
    ((after (.fire 0 0) fireS).firing 1).map (·.st) = some .armed ∧
    (after (.fire 0 0) { fireS with kln := {} }).lastRecord.map (·.code) = some 2 ∧
    (after (.fire 0 0) { fireS with kln := { fireS.kln with firings := [(1, firing1 .drain true { live := true } { live := false } [])] } }).lastRecord.map (·.code) = some 3 ∧
    (after (.fire 0 0) { fireS with col := {} }).lastRecord.map (·.code) = some 4 := by decide +kernel
def acks (st : FireSt) (item : KilnItem) (tries : Nat) : State :=
  firingS (firing1 st false { live := true, item := item, tag := some 8, tries := tries } { live := false } [])
theorem witness_firingMoves : ((after (.kilnDestAck from9 8) (acks .invalidate .record0 0)).firing 1).map (·.st) = some .capture ∧
    (after (.kilnDestAck from9 8) (acks .seal .record 0)).getReg .KLN_LAST [1] = BitVec.ofNat 64 (2 ^ 63 + 2 ^ 62 + 2 ^ 48 + 10) ∧
    ((after (.kilnDrainTimeout 1) (acks .drain .metadata 0)).firing 1).map (·.buddy.tries) = some 1 ∧
    (after (.kilnDrainTimeout 1) (acks .drain .metadata 3)).firing 1 = none := by decide +kernel
theorem witness_capture :
    ((after (.kilnCaptureDone 1) (firingS (firing1 .capture false { live := true, item := .waiting } { live := false } []))).firing 1).map (·.st) = some .drain ∧
    (after (.kilnCaptureDone 1) (firingS (firing1 .capture false { live := true, item := .waiting } { live := false } [2 ^ 30]))).firing 1 = none ∧
    (after (.kilnCaptureDone 1) (firingS (firing1 .capture true { live := true, item := .waiting } { live := false } [0]))).kln.protect = [(0, 1, 0)] ∧
    (firing1 .drain true { live := true, item := .metadata } { live := false } [0]).freeReserve
      (firing1 .drain true { live := true, item := .metadata } { live := false } [0]).drained = some 0 := by decide +kernel
theorem witness_drain : (mapped.spend 0 1 4 1).2 = true ∧ (mapped.locate 0x4000).bind (fun p => mapped.channelOwner p.1) = some 1 ∧
    (after (.kilnDrainReceive 0 from9 ⟨1, 0x4000, [7]⟩) mapped).peekVa 1 0x4000 1 = [7] ∧
    mapped.groveIs 1 6 = false := by decide +kernel
def restoreS (source : Nat) : State := klnWith (klnS 4 (toLe 1 source ++ toLe 1 1 ++ toLe 6 0 ++ toLe 8 9))
theorem witness_restore : ((restoreS 1).ofRow 0 0 6 4).isSome = true ∧ plan1.offers 1 = true ∧
    (after (.restore 0 0) (restoreS 1)).outbox = [.rdmaRead 4 1 (2 ^ 30) 128 0] ∧
    ((after (.restore 0 0) (restoreS 1)).step_ 1).restorePending = true ∧
    (after (.restore 0 0) { restoreS 1 with col := { steps := [(1, { st := .running })] } }).lastRecord.map (·.code) = some 0x0B ∧
    (after (.restore 0 0) { restoreS 1 with kln := { (restoreS 1).kln with firings := [(1, firing1 .drain true { live := true } { live := false } [])] } }).lastRecord.map (·.code) = some 3 ∧
    ((klnWith (klnS 5 (toLe 1 1 ++ toLe 1 1))).ofRow 0 0 6 5).isSome = true ∧
    (after (.probe 0 0) (klnWith (klnS 5 (toLe 1 1 ++ toLe 1 1)))).kln.reads = [(0, ⟨1, some (0, 0, 1), 128⟩)] := by decide +kernel
/-- The completion record of slot 1, step 9, of device 7. -/
def record9 : List Byte :=
  let b := toLe 4 klnMagic ++ toLe 2 1 ++ toLe 1 1 ++ toLe 1 1 ++ toLe 2 5 ++ toLe 2 7 ++ toLe 1 2 ++ toLe 3 0 ++ toLe 8 9 ++ toLe 100 1
  b ++ toLe 4 (crc32c b)
def reading (probe : Option (Nat × Nat × Nat)) (n : Nat) (r : Restore) : State :=
  let s := klnWith (klnS 4 [])
  { s with kln := { s.kln with reads := [(3, ⟨1, probe, n⟩)], restores := [(1, r)], nextTag := 4 } }
def page9 : List Byte := List.replicate 64 7
theorem witness_restoreData : record9.length = 128 ∧ recordPresent record9 = true ∧
    tget (after (.restoreDataReceive 3 record9) (reading none 128 ⟨0, 0, 1, 1, 9, [], [], [], 0⟩)).kln.restores 1 = some ⟨0, 0, 1, 1, 9, record9, [], [], 0⟩ ∧
    (after (.restoreDataReceive 3 record9) (reading none 128 ⟨0, 0, 1, 1, 8, [], [], [], 0⟩)).lastRecord.map (·.code) = some 9 ∧
    (after (.restoreDataReceive 3 page9) (reading none 64 ⟨0, 0, 1, 1, 9, record9, [1], [], 0⟩)).lastRecord.map (·.code) = some 0x0A ∧
    ((after (.restoreDataReceive 3 page9) (reading none 64 ⟨0, 0, 1, 1, 9, record9, toLe 8 10, toLe 8 0x4000 ++ sha384 page9 ++ toLe 8 0, 0⟩)).step_ 1).step = 9 ∧
    (after (.restoreDataReceive 3 page9) (reading none 64 ⟨0, 0, 1, 1, 9, record9, toLe 8 10, toLe 8 0x4000 ++ sha384 page9 ++ toLe 8 0, 0⟩)).kln.restores = [] := by decide +kernel

def good : RefState := { st := 2, count := 100, locked := 10 }
/-- A device in service on REFCLK with its rails up and the recovered reference in a state. -/
def clocked (ph : Phase) (recov : RefState) : State :=
  { State.reset with sup := { phase := ph, coresUp := 24 }, regs := [(regAddr .CLK_PLL_STATUS [], 0x3FF#64)],
                     clk := { refclk := good, recov := recov, railsUp := true, pscEn := true, pscPg := true } }
def withRef (r : RefState) : State := { State.reset with clk := { refclk := r } }
theorem witness_judged : (withRef {}).refJudged 0 = true ∧ ((after (.refEdgeDetect 0) (withRef {})).ref 0).st = 1 ∧
    (withRef {}).refJudged 1 = false ∧ (withRef good).inUse 0 = true ∧ (clocked .service good).inUse 1 = false ∧
    ((after (.refEdgeLoss 1) (clocked .service good)).ref 1).st = 0 ∧
    ((after (.refQualWindow 0 156250000 true) (withRef ⟨1, 3, 3⟩)).ref 0) = ⟨1, 4, 4⟩ ∧
    ((after (.refQualWindow 0 156250000 true) (withRef ⟨1, 99, 9⟩)).ref 0) = ⟨2, 100, 10⟩ ∧
    ((after (.refQualWindow 0 1 true) (withRef ⟨1, 99, 9⟩)).ref 0) = ⟨1, 0, 10⟩ := by decide +kernel
theorem witness_refLost : (after (.refEdgeLoss 0) (clocked .service good)).clk.switching = some 1 ∧
    ((after (.refEdgeLoss 0) (clocked .service good)).lastRecord.map (·.code)) = some 1 ∧
    (after (.refEdgeLoss 0) (clocked .service {})).sup.phase = .ash ∧
    (after (.refEdgeLoss 0) (clocked .kindling {})).clk.banked = true ∧
    ((after (.refEdgeLoss 0) (clocked .smoulder {})).ref 0).st = 0 ∧ (clocked .service {}).testMode = false ∧
    (let s := { clocked .service {} with pkg := { tap := .extest } }
     s.testMode = true ∧ (after (.refEdgeLoss 0) s).clk.banked = true ∧ (after (.refEdgeLoss 0) s).wch = s.wch) := by decide +kernel
theorem witness_select : ((after (.refCrossCheck (-5)) (clocked .service good)).regFld .CLK_REF_STATUS [] 16 16) = 65531 ∧
    (let s := clocked .service good
     ((after (.refCrossCheck 20001) { s with aonUs := 10000, clk := { s.clk with mismatchSince := some 0 } }).lastRecord.map (·.code)) = some 2) ∧
    ((after (.clkRefSelWrite 0x160) (clocked .service good)).lastRecord.map (·.code)) = some 6 ∧
    (after (.clkRefSelWrite 0x100) (clocked .service good)).clk.switching = some 1 ∧
    (after .refSwitchDone (after (.clkRefSelWrite 0x100) (clocked .service good))).clk.active = 1 := by decide +kernel
theorem witness_clockFaults : (after (.pllUnlock 3) (clocked .smoulder good)).getReg .CLK_PLL_STATUS [] = 0x3F7#64 ∧
    (after (.pllUnlock 3) (clocked .service good)).sup.phase = .ash ∧ (after (.pllUnlock 3) (clocked .kindling good)).clk.banked = true ∧
    (clocked .service good).islandGated (.tile 3) = false ∧ (clocked .service good).islandKhz (.tile 3) = 800000 ∧
    (after (.clkMonitorWindow (.tile 3) 700000 false) (clocked .service good)).sup.phase = .ash ∧
    after (.clkMonitorWindow (.tile 3) 800001 false) (clocked .service good) = clocked .service good := by decide +kernel
def moving (x : Dvfs) (req : Nat) : State :=
  let s := clocked .service good
  { s with clk := { s.clk with dvfs := [x, {}] }, regs := [(regAddr .PWR_OP_REQ [0], BitVec.ofNat 64 req)] }
theorem witness_points : (after (.pwrOpReqWrite 0 1) (moving { effective := 0 } 0)).dvfs 0 = { effective := 0, target := 1, busy := true } ∧
    ((after (.dvfsPllLocked 0) (moving { effective := 0, clock := 0, target := 1, busy := true } 1)).dvfs 0).clock = 1 ∧
    ((after (.dvfsVoltageSettled 0) (moving { effective := 0, clock := 1, target := 1, busy := true, pllDone := true } 1)).dvfs 0).effective = 1 ∧
    ((after (.dvfsVoltageSettled 0) (moving { effective := 3, clock := 3, target := 1, busy := true } 1)).dvfs 0).voltDone = true ∧
    ((after (.dvfsPllLocked 0) (moving { effective := 3, clock := 3, target := 1, busy := true, voltDone := true } 1)).dvfs 0).effective = 1 := by
  decide +kernel
def rails : State := { (clocked .service good) with aonUs := 100 }
theorem witness_supplies : (after (.railSample 3 0) State.reset).getReg .PWR_RAIL_STATUS [] = 3#64 ∧
    (after (.railSample 0x3FFF 0) { State.reset with clk := { pscPg := true } }).clk.banked = true ∧
    (after (.railSample 0x3FFF 0) rails).sup.phase = .service ∧
    (after (.railSample 0x37FF 9) { rails with clk := { rails.clk with railOut := [(11, 95)] } }).sup.phase = .ash ∧
    (after (.vinOutOfWindow 6200) rails).sup.phase = .ash ∧ (after (.vinOutOfWindow 6401) rails).clk.railsUp = false ∧
    (after (.pscTlmFrame 4800 900 false) rails).regFld .PWR_INPUT [] 16 16 = 900 ∧ (after .pscTlmMissing rails).sup.phase = .ash ∧
    (after .pscFault State.reset).sup.phase = .kindling ∧ (after .pscPowerGood rails).clk.pscPg = true := by decide +kernel
def hot (t : Therm) : State := { rails with aonUs := 20000, clk := { rails.clk with therm := [t, {}, {}] } }
theorem witness_thermal : ((after (.dieTempSample 0 (some 800) 4 0) (hot {})).regFld .PWR_DIE_TEMP [0] 0 16) = 800 ∧
    ((after (.dieTempSample 0 (some 1520) 4 0) (hot {})).therm 0).clamp = 7 ∧
    ((after (.dieTempSample 0 (some 1600) 4 0) (hot { clamp := 7 })).lastRecord.map (·.code)) = some 2 ∧
    (after (.dieTempSample 2 (some 1760) 1 0) (hot {})).sup.phase = .ash ∧
    (after (.dieTempSample 0 (some 1680) 1 0) (hot { overSince := some 19900 })).sup.phase = .ash ∧
    ((after (.dieTempSample 0 none 1 24) (hot { badSince := some 19000 })).lastRecord.map (·.code)) = some 0x0B ∧
    ((after (.thermalClampStep 0) (hot { clamp := 2, above := true })).therm 0).clamp = 3 ∧
    ((after (.thermalClampStep 0) (hot { clamp := 2, coolSince := some 10000 })).therm 0).clamp = 1 ∧
    (after (.pwrThermCfgWrite 100) rails).regFld .PWR_THERM_CFG [] 0 7 = 100 ∧
    ((after (.pwrThermCfgWrite 101) rails).lastRecord.map (·.code)) = some 0x0A := by decide +kernel
def capped (clamps : List Nat) (low : Nat) : State :=
  { (rails.putReg .PWR_CAP [] (BitVec.ofNat 64 (2 ^ 63 + 1000))) with clk := { rails.clk with capClamp := clamps, capLow := low } }
theorem witness_powerLimits : (after (.powerCapAverage 700) rails).regFld .PWR_INPUT [] 32 16 = 700 ∧
    (after (.powerCapAverage 1001) (capped [2, 0] 5)).clk.capClamp = [3, 7] ∧
    ((after (.powerCapAverage 1001) (capped [0, 0] 5)).lastRecord.map (·.code)) = some 4 ∧
    (after (.powerCapAverage 949) (capped [2, 1] 9)).clk.capClamp = [1, 0] ∧
    (after (.pwrCapWrite 600) (capped [2, 1] 9)).clk.capClamp = [0, 0] ∧
    ((after (.pwrCapWrite 599) rails).lastRecord.map (·.code)) = some 0x0A ∧
    ((after .inputOvercurrent rails).lastRecord.map (·.code)) = some 8 ∧ (after .droopRelease (after .inputOvercurrent rails)).clk.droop = false := by
  decide +kernel
def inSmoulder (st : Nat) : State :=
  { (rails.putReg .PWR_SMOULDER [] (BitVec.ofNat 64 st)) with
      sup := { rails.sup with phase := if st = 1 then .service else .smoulder }
      hrt := { links := [(0, { state := 2 }), (1, { state := 2 }), (2, { state := 3 })] } }
theorem witness_smoulder : rails.mayEnter = true ∧ (after (.pwrSmoulderEnter (BitVec.ofNat 64 (2 ^ 63))) rails).regFld .PWR_SMOULDER [] 0 2 = 1 ∧
    (clocked .kindling good).mayEnter = false ∧ ((after (.pwrSmoulderEnter 0) (clocked .kindling good)).lastRecord.map (·.code)) = some 9 ∧
    (after .smoulderEntryDone (inSmoulder 1)).sup.phase = .smoulder ∧
    (after (.pwrSmoulderLeave (BitVec.ofNat 64 (2 ^ 62))) (inSmoulder 2)).regFld .PWR_SMOULDER [] 0 2 = 3 ∧
    (inSmoulder 3).ucieUp = true ∧ (after .smoulderExitDone (inSmoulder 3)).regFld .PWR_SMOULDER [] 0 2 = 0 ∧
    rails.ucieUp = false := by decide +kernel

/-- A kindling device that meets every condition of R652. -/
def ready : State :=
  { (clocked .kindling good) with
      regs := [(regAddr .GLB_DEVNUM [], 0x8007#64), (regAddr .CLK_PLL_STATUS [], 0x3FF#64), (regAddr .PWR_RAIL_STATUS [], 0x3FFF#64)]
      hrt := { links := [(0, { state := 2 }), (1, { state := 2 }), (2, { state := 3 })] }, hwd := { stage := 3, provOk := true } }
theorem witness_service : ready.mayServe = true ∧ (after (.service 0) ready).sup.phase = .service ∧ (clocked .kindling good).mayServe = false ∧
    ((after (.service 0) up).lastRecord.map (·.code)) = some 2 ∧ (after (.forceAsh 0) up).sup.phase = .ash ∧
    (after (.forceAsh 0) (after (.forceAsh 0) up)).regFld .GLB_RECOVER [] 48 8 = 2 ∧
    (after (.service 0) (up.putReg .GLB_RECOVER [] (BitVec.ofNat 64 (2 ^ 40)))).regFld .GLB_RECOVER [] 48 8 = 1 := by decide +kernel
def busyUp : State := { up with col := { steps := [(1, { st := .sealed, step := 10, attempt := 2 })] }, hrt := { up.hrt with qps := [(4, { session := 1, grove := 1 })] } }
theorem witness_warmReset : busyUp.sup.phase = .service ∧ busyUp.clk.active = 0 ∧ busyUp.clk.prev = none ∧ busyUp.clk.switching = none ∧
    busyUp.regFld .GLB_RECOVER [] 40 1 = 0 ∧ (busyUp.step_ 1).committedStep = 9 ∧
    (after (.warmReset 0) (clocked .smoulder good)).regFld .GLB_RECOVER [] 48 8 = 2 := by decide +kernel
theorem witness_groveReset : busyUp.batchRuns = false ∧ ((after (.groveReset (BitVec.ofNat 64 (2 ^ 32))) busyUp).step_ 1).step = 9 ∧
    (after (.groveReset (BitVec.ofNat 64 (2 ^ 32))) { busyUp with grv := (after (.batchGo 1) withImage).grv }).sup.heldGroveResets = [1] ∧
    (after (.groveReset 0) busyUp).regFld .GLB_RECOVER [] 48 8 = 2 := by decide +kernel
theorem witness_coldReset : (after (.coldReset 0) busyUp).grv = {} ∧ (after (.auxSupplyUp 3) busyUp).pkg.strap = 3 ∧
    (after (.resetNLow 10) busyUp).sup.recovery = .resetHeld ∧ (after (.resetNRelease 5) (after (.resetNLow 10) busyUp)).sup.recovery = .idle ∧
    (after .vinInWindow (after (.auxSupplyUp 3) busyUp)).getReg .PWR_RAIL_STATUS [] = 7#64 ∧
    (after .vinInWindow { up with clk := { shutDown := true } }).sup.phase = .kindling := by decide +kernel
/-- In the ash state after FORCE_ASH with REFCLK in a state, and a control-state cause where `more` says so. -/
def ashen (r : RefState) (more : List (Src × Nat × Nat)) : State :=
  let s := after (.forceAsh 0) { up with clk := { (clocked .service r).clk with refclk := r } }
  { s with sup := { s.sup with causes := s.sup.causes ++ more } }
def trained (s : State) : State := after (.hlkTrainingDone (3, 0) (3, 0) (255, 0)) s
theorem witness_recovery : ((ashen good []).causeCleared (.glb, 1, 6)) = true ∧ (ashen good []).sup.causes.map (·.2.1) = [1] ∧
    ((ashen {} []).refGood 0 || (ashen {} []).refGood 1) = false ∧
    (after (.recover 0) (ashen good [(.hwd, 0x0D, 0)])).regFld .GLB_RECOVER [] 48 8 = 3 ∧ (after (.recover 0) up).regFld .GLB_RECOVER [] 48 8 = 2 := by
  decide +kernel
/-- The device at step 3 of a recovery. -/
def training (more : List (Src × Nat × Nat)) : State :=
  let s := ashen good more
  { s with sup := { s.sup with recovery := .training } }
theorem witness_recoverDone : (trained (training [])).sup.phase = .service ∧ ((trained (training [])).grove 1).bound = true ∧
    ((training []).hlkTraining (3, 0) (3, 0) (255, 0)).sup.recovery = .training ∧
    ((training [(.mem, 0x0E, 0)]).sup.causes.any controlClass) = true := by decide +kernel
theorem witness_relock : (after .pllRelocked { (clocked .kindling good) with clk := { refclk := good, banked := true } }).clk.banked = false ∧
    (trained (clocked .kindling good)).ucieUp = true := by decide +kernel

def mboxS (stage : Nat) (buf : List Byte) : State :=
  let s := (poke up hearthAt buf).putReg .HWD_MBOX_ARG [] (BitVec.ofNat 64 hearthAt)
  { s with hwd := { s.hwd with stage := stage, svn := 4, rollback := 2 } }
def goTag : Word := BitVec.ofNat 64 (2 ^ 63 + 0x77)
def bootable : State := { (clocked .kindling good) with regs := [(regAddr .PWR_RAIL_STATUS [], 0x3FFF#64)] }
theorem witness_boot : bootable.hwd.stage = 0 ∧ bootable.regFld .PWR_RAIL_STATUS [] 8 1 = 1 ∧
    (after (.heartwoodBoot [] [] true false) bootable).hwd.excludedA = true ∧ (after (.heartwoodBoot [] [] false false) bootable).sup.phase = .ash ∧
    (after (.heartwoodBoot [] [] true true) bootable).sup.phase = .ash ∧ up.hwd.stage = 3 := by decide +kernel
theorem witness_mailbox : (mboxS 3 []).mboxTakes goTag 0x100 = true ∧ (mboxS 3 []).mboxTakes goTag (0x100 + 0x84C) = true ∧
    (mboxS 3 []).mboxTakes goTag (0x100 + 2508) = true ∧
    (after (.measureExtend goTag) (mboxS 3 [4])).getReg .HWD_MBOX_STATUS [] = mboxDone 0x77 0 ∧
    (after (.measureExtend goTag) (mboxS 3 [3])).getReg .HWD_MBOX_STATUS [] = mboxDone 0x77 9 ∧
    (after (.rollbackCommit goTag false) (mboxS 3 [])).hwd.rollback = 4 ∧
    (mboxS 3 []).mboxTakes goTag 0x84C = true ∧ (after (.identRead goTag true) (mboxS 3 [])).sup.phase = .ash ∧
    ((after (.measureExtend goTag) ((mboxS 3 []).putReg .HWD_MBOX_STATUS [] 1#64)).lastRecord.map (·.code)) = some 9 := by decide +kernel
theorem witness_attest : leAt ((mboxS 3 [0x11]).hearthRead hearthAt 120) 0 1 = 17 ∧ (mboxS 3 [0x11]).loadPending 1 = false ∧
    (after (.attest goTag false) { mboxS 3 [0] with hwd := { stage := 3, lmsIndex := 2 ^ 20 } }).getReg .HWD_MBOX_STATUS [] = mboxDone 0x77 8 ∧
    (after (.attest goTag false) (mboxS 3 [0x12])).getReg .HWD_MBOX_STATUS [] = mboxDone 0x77 10 ∧
    ({ mboxS 3 [0x11] with grv := (after (.batchGo 1#64) withImage).grv }).loadPending 1 = true := by decide +kernel
theorem witness_loadRuntime : (mboxS 2 []).mboxTakes goTag 0 = true ∧ (mboxS 2 []).hwd.slots.length = 8 ∧
    (after (.loadRuntime goTag [] []) (mboxS 2 [])).hwd.excludedA = true ∧
    (after (.loadRuntime goTag [] []) (mboxS 3 [])).getReg .HWD_MBOX_STATUS [] = mboxDone 0x77 9 := by decide +kernel

/-- Heartwood waits for an image of a kind. -/
def waiting (kind : Nat) : State :=
  { State.reset with hwd := if kind = 0 then { excludedA := true, excludedB := true } else { stage := 1 } }
def receiving (kind n : Nat) : State := after (.smbusImgBegin kind n) (waiting kind)
theorem witness_management : alwaysAnswers 0x18 = true ∧ (regAt 0x18).isSome = true ∧ alwaysAnswers 0x10000 = false ∧
    (after (.smbusRegRead 0x10000) up).outbox = [.smbus [1#8]] ∧ (after (.smbusRegRead 0x18) up).outbox = [.smbus [0, 0, 0, 0, 0, 0, 0, 0]] ∧
    (after (.smbusRegWrite 0x18 (BitVec.ofNat 64 (2 ^ 63 + 6))) up).sup.phase = .ash ∧ after (.smbusRegWrite 0x20 5) up = up ∧
    (after .smbusImgStatus up).outbox = [.smbus [0#8]] ∧ (after (.resetNLow 10) up).sup.recovery = .resetHeld := by decide +kernel
theorem witness_images : (waiting 0).wantsImage 0 = true ∧ (waiting 1).wantsImage 1 = true ∧ (receiving 1 2124).pkg.imgStatus = 1 ∧
    (receiving 1 2125).pkg.imgStatus = 4 ∧ (receiving 0 0).pkg.imgStatus = 4 ∧ up.wantsImage 1 = false ∧
    tget (after (.smbusImgData 3 [7, 8]) (receiving 0 4)).pkg.imgData 3 = some 7 ∧
    tget (after (.smbusImgData 3 [7, 8]) (receiving 0 4)).pkg.imgData 4 = none ∧
    (after (.smbusImgEnd 1) (receiving 0 4)).pkg.imgStatus = 4 ∧
    (after (.smbusImgEnd (crc32c [0, 0, 0, 0])) (receiving 0 4)).hwd.stage = 0 := by decide +kernel
theorem witness_alert : (after .smbusAlertResponse { up with sup := { up.sup with alertLow := true }, pkg := { strap := 3 } }).outbox = [.smbus [0x5B]] ∧
    (after .smbusAlertResponse { up with sup := { up.sup with alertLow := true } }).sup.alertLow = false ∧
    (after .smbusAlertResponse (after (.forceAsh 0) up)).sup.alertLow = true ∧ after .smbusAlertResponse up = up := by decide +kernel
theorem witness_tap : (after (.tapTestEntry .extest) State.reset).testMode = true ∧ (after (.tapTestEntry .extest) up).pkg.tap = .bypass ∧
    (after (.tapTestEntry .extestTrain) State.reset).pkg.tap = .extestTrain ∧
    (after .tapTestExit (after (.tapTestEntry .clamp) State.reset)).pkg.tap = .idcode := by decide +kernel

/-! ## Ill-formed commands are refused -/

/-- A sender whose identifiers lie in their ranges. -/
def goodO : Origin := ⟨0, 0, 1, 5⟩

/-- An accumulate and a contribution whose fields do. -/
def goodAcc : RowAcc := ⟨0, 0, 0, 0, 0, 0, 0, List.replicate 64 0⟩
def goodBlk : Contribution := ⟨0, 0, 0, 2, 1, 0, 0, 0, 0, 0, padTo 64 []⟩

def illFormed00 : List Instr :=
  [ .registerWrite (2 ^ 30) 8 0, .quiesceTimeout 32, .scrubAdvance 480, .budgetPeriodStart 2 0,
    .budgetPeriodStart 0 16, .grvBudgetWrite 2 0 0 0, .grvBudgetWrite 0 16 0 0, .grvBudgetWrite 0 0 8 0,
    .bindingDigestCheck 2 false, .hlkFlitReceive 3 (padTo 256 []), .hlkNakReceive 3 0, .hlkNakReceive 0 (2 ^ 16),
    .hlkReplayTimeout 3, .hlkRetrainDone 3 0 0, .hlkRetrainDone 0 256 0, .hlkRetrainDone 0 0 256,
    .queueDoorbell 128 0, .commandFetch 128, .queueEnable 128 (BitVec.ofNat 64 (2 ^ 63)), .queueEnableTakeEffect 128,
    .queueDisable 128 0, .rdmaRequest 4096 ⟨.send, 0, 0, 0, [], 0⟩, .inject 128 0, .injectPlace 128 0,
    .taskDispatch 128 0 ⟨0, 0, 0, 0⟩, .taskDispatch 0 4 ⟨0, 0, 0, 0⟩, .taskComplete 128 0 noReport,
    .taskComplete 0 1024 noReport, .kntSignal 16384 0, .kntInit 16384 0]

def illFormed01 : List Instr :=
  [ .knotSignalMessage ⟨2 ^ 15, 0, 1, 5⟩ 0 0, .knotSignalMessage goodO 16384 0, .knotSignalMessage goodO 0 (2 ^ 32),
    .schClearHighWater 128, .schClearCounters 128, .streamSet 128 0, .progLoad 128 0, .progUnload 128 0,
    .smpAdjReadReturn 32 0 0, .smpAdjReadReturn 0 (2 ^ 24) 0, .adjRange 2 goodO ⟨0, 0, 0, 0, 0, 0, 0⟩,
    .adjRange 0 ⟨2 ^ 15, 0, 1, 5⟩ ⟨0, 0, 0, 0, 0, 0, 0⟩, .adjPick 2 goodO ⟨0, 0, 0, [], false, [1]⟩,
    .adjPick 0 ⟨2 ^ 15, 0, 1, 5⟩ ⟨0, 0, 0, [], false, [1]⟩, .adjResponseReceive 2 0 (.fault 0),
    .adjResponseReceive 0 (2 ^ 32) (.fault 0), .smpRemoteTimeout 2 0, .smpRemoteTimeout 0 (2 ^ 32), .gather 128 0,
    .scatter 128 0, .scatterClose 128 0, .gthCommandStart 128 0 none, .rowRead 2 goodO ⟨0, 0, 0, 0, 0, 1, 0⟩,
    .rowRead 0 ⟨2 ^ 15, 0, 1, 5⟩ ⟨0, 0, 0, 0, 0, 1, 0⟩, .rowReadRelease 2 goodO 0,
    .rowReadRelease 0 ⟨2 ^ 15, 0, 1, 5⟩ 0, .rowReadRelease 0 goodO (2 ^ 32), .rowAccumulate 2 goodO goodAcc,
    .rowAccumulate 0 ⟨2 ^ 15, 0, 1, 5⟩ goodAcc, .rowDataReceive 2 ⟨0, 0, 0, true, [1]⟩]

def illFormed02 : List Instr :=
  [ .accumulateAckReceive 2 0 0, .accumulateAckReceive 0 (2 ^ 32) 0, .accumulateAckReceive 0 0 3,
    .negativeResponseReceive 2 .row 0 0, .negativeResponseReceive 0 .row (2 ^ 32) 0,
    .negativeResponseReceive 0 .row 0 256, .gthRemoteTimeout 2 false 0, .gthRemoteTimeout 0 false (2 ^ 32),
    .gthMergeQuotaWrite 2 0 0, .gthMergeQuotaWrite 0 16 0, .tableLoad 128 0, .tableDrop 128 0, .regraftBegin 128 0,
    .scionBegin 128 0, .dirStage 128 0, .dirUnstage 128 0, .pendAbandon 128 0, .heatRead 128 0,
    .regraftCopyReceive 2 goodO ⟨0, 0, 0, 0, 0, [], []⟩,
    .regraftCopyReceive 0 ⟨2 ^ 15, 0, 1, 5⟩ ⟨0, 0, 0, 0, 0, [], []⟩, .regraftCopyAck 2 0, .regraftCopyAck 0 (2 ^ 32),
    .regraftCopyTimeout 2 0, .regraftCopyTimeout 0 (2 ^ 32), .flipDoneReceive 2 goodO 0 0 0,
    .flipDoneReceive 0 ⟨2 ^ 15, 0, 1, 5⟩ 0 0 0, .flipDoneReceive 0 goodO (2 ^ 12) 0 0,
    .flipDoneReceive 0 goodO 0 (2 ^ 48) 0, .flipDoneReceive 0 goodO 0 0 (2 ^ 48),
    .scionCopyReceive 2 goodO ⟨0, 0, 0, 0, 0, [], []⟩]

def illFormed03 : List Instr :=
  [ .scionCopyReceive 0 ⟨2 ^ 15, 0, 1, 5⟩ ⟨0, 0, 0, 0, 0, [], []⟩, .scionCopyAck 2 0, .scionCopyAck 0 (2 ^ 32),
    .scionRefreshReceive 2 goodO ⟨0, 0, 0, 0, 0, [], []⟩,
    .scionRefreshReceive 0 ⟨2 ^ 15, 0, 1, 5⟩ ⟨0, 0, 0, 0, 0, [], []⟩, .refreshDoneReceive ⟨2 ^ 15, 0, 1, 5⟩ 0,
    .refreshDoneReceive goodO (2 ^ 48), .embEntryQuotaWrite 16 0, .abftCheckDone 128, .abftMismatchReport 128,
    .tilAbftTolWrite 128 0, .tilAbftAbsWrite 128 0, .updRowbufWrite 2 0 0, .updRowbufWrite 0 16 0,
    .wcbAgeEvict 480 [], .wcbAgeEvict 0 [(19, 0)], .patrolScrubRead 480 [], .patrolScrubRead 0 [(19, 0)],
    .memMrRead 2 0, .memMrWrite 2 0, .memSoftRepair 2 0, .memHardRepair 2 0, .memQueryRepair 2 0,
    .softRepairResult 480 false [], .hardRepairDone 480 false, .mapoutGo 2 0, .mapoutCopyDone 2 [],
    .memChmapSetWrite 2 0, .stackTempSample 12 none, .lnkFlitReceive 6 0 ⟨0, 0⟩ (padTo 256 [])]

def illFormed04 : List Instr :=
  [ .lnkFlitReceive 32 0 ⟨0, 0⟩ (padTo 256 []), .lnkFlitReceive 0 8 ⟨0, 0⟩ (padTo 256 []), .lnkNakReceive 6 0,
    .lnkNakReceive 32 0, .lnkNakReceive 0 (2 ^ 16), .lnkReplayTimeout 6, .lnkReplayTimeout 32, .lnkIdleSend 6,
    .lnkIdleSend 32, .portEnable 6 0, .portEnable 32 0, .portDisable 6 0, .portDisable 32 0, .portRetrain 6 0,
    .portRetrain 32 0, .trainSignalDetect 6 0, .trainSignalDetect 32 0, .trainSignalDetect 0 256,
    .trainEqualiseDone 6 0, .trainEqualiseDone 32 0, .trainEqualiseDone 0 256, .trainAlignDone 6 0,
    .trainAlignDone 32 0, .trainAlignDone 0 256, .identityExchange 6 ⟨0, 1, 0, 0, 0, []⟩,
    .identityExchange 32 ⟨0, 1, 0, 0, 0, []⟩, .retrainDone 6 0 ⟨0, 1, 0, 0, 0, []⟩,
    .retrainDone 32 0 ⟨0, 1, 0, 0, 0, []⟩, .retrainDone 0 256 ⟨0, 1, 0, 0, 0, []⟩, .retrainBoundExpiry 6 0]

def illFormed05 : List Instr :=
  [ .retrainBoundExpiry 32 0, .retrainBoundExpiry 0 256, .laneLockTimeout 6 0, .laneLockTimeout 32 0,
    .laneLockTimeout 0 8, .laneRemoveMessage 6 0, .laneRemoveMessage 32 0, .laneRemoveMessage 0 8,
    .lnkCreditCfgWrite 6 0, .lnkCreditCfgWrite 32 0, .lnkStandinWrite 6 0, .schedLoad 128 0, .schedDrop 128 0,
    .stepOpen 128 0, .stepVoid 128 0, .contributionSend 2 0 0, .contributionSend 0 16 0, .contributionSend 0 0 4096,
    .contributionReceive 2 goodO goodBlk, .contributionReceive 0 ⟨2 ^ 15, 0, 1, 5⟩ goodBlk,
    .contributionAckReceive 2 goodO 0 0, .contributionAckReceive 0 ⟨2 ^ 15, 0, 1, 5⟩ 0 0,
    .contributionAckReceive 0 goodO (2 ^ 32) 0, .contributionAckReceive 0 goodO 0 5, .contributionTimeout 2 0 0,
    .contributionTimeout 0 16 0, .contributionTimeout 0 0 (2 ^ 32), .partialMessageTimeout 6 0 0,
    .partialMessageTimeout 32 0 0, .partialMessageTimeout 0 4 0]

def illFormed06 : List Instr :=
  [ .partialMessageTimeout 0 0 2, .reductionDeadline 2 0 0, .reductionDeadline 0 16 0, .reductionDeadline 0 0 4096,
    .bcastPieceReceive 2 goodO ⟨0, 0, 0, 0, 0, 0, [1]⟩,
    .bcastPieceReceive 0 ⟨2 ^ 15, 0, 1, 5⟩ ⟨0, 0, 0, 0, 0, 0, [1]⟩, .bcastAckReceive 2 goodO 0,
    .bcastAckReceive 0 ⟨2 ^ 15, 0, 1, 5⟩ 0, .bcastAckReceive 0 goodO (2 ^ 32), .bcastPieceTimeout 2 0 0,
    .bcastPieceTimeout 0 16 0, .bcastPieceTimeout 0 0 (2 ^ 32), .bcastCompletionTimeout 2 0,
    .bcastCompletionTimeout 0 16, .cleanReportSend 16, .voidAckSend 16,
    .commitReportReceive ⟨2 ^ 15, 0, 1, 5⟩ ⟨0, 0, 0, false, false, 0, 0, 0⟩,
    .commitRelease ⟨2 ^ 15, 0, 1, 5⟩ ⟨0, 0, false, false, []⟩, .voidReceive ⟨2 ^ 15, 0, 1, 5⟩ ⟨0, 0, 0, 1⟩,
    .commitTimeout 16, .voidBarrierTimeout 16, .stepCommitComplete 16, .updLoad 128 0, .updDrop 128 0,
    .updConst 128 0, .recomputeDone 128 1, .recomputeDone 0 0, .recomputeDone 0 4, .ftRun 128 0, .ftAbort 128 0]

def illFormed07 : List Instr :=
  [ .ftDone 2 1 0 .pass, .ftDone 0 0 0 .pass, .ftDone 0 11 0 .pass, .planLoad 128 0, .fire 128 0, .klnAbort 128 0,
    .restore 128 0, .probe 128 0, .kilnDestAck ⟨2 ^ 15, 0, 1, 5⟩ 0, .kilnDestAck goodO (2 ^ 32), .kilnCaptureDone 16,
    .kilnTouchDone 16 0 0, .kilnDrainReceive 2 goodO ⟨0, 0, [1]⟩, .kilnDrainReceive 0 ⟨2 ^ 15, 0, 1, 5⟩ ⟨0, 0, [1]⟩,
    .kilnDrainTimeout 16, .clkMonitorWindow (.hearthLink 3) 0 false, .refEdgeDetect 3, .refEdgeLoss 3,
    .refQualWindow 3 0 false, .pllUnlock 10, .pwrOpReqWrite 2 0, .dvfsPllLocked 2, .dvfsVoltageSettled 2,
    .railSample (2 ^ 14) 0, .railSample 0 (2 ^ 16), .vinOutOfWindow (2 ^ 16), .pscTlmFrame (2 ^ 16) 0 false,
    .pscTlmFrame 0 (2 ^ 16) false, .auxSupplyUp 8, .dieTempSample 3 none 0 0]

def illFormed08 : List Instr :=
  [ .dieTempSample 0 none 32 0, .dieTempSample 0 none 0 25, .thermalClampStep 2, .powerCapAverage (2 ^ 16),
    .smbusRegRead (2 ^ 32), .smbusRegWrite (2 ^ 32) 0, .smbusImgBegin 256 0, .smbusImgBegin 0 (2 ^ 32),
    .smbusImgData (2 ^ 32) [1], .smbusImgEnd (2 ^ 32), .resetNRelease 8, .laneLockLoss 6, .laneLockLoss 32,
    .memPhyTrainingDone (.retrain 480), .ethLinkTrainingDone 2, .rdmaResponseReceive 4096 .cnp,
    .refreshAckReceive 2 0, .refreshAckReceive 0 (2 ^ 32), .regraftMirrorReceive 2 goodO ⟨0, 0, 0, 0, 0, [], []⟩,
    .regraftMirrorReceive 0 ⟨2 ^ 15, 0, 1, 5⟩ ⟨0, 0, 0, 0, 0, [], []⟩, .localRowReadReturn 128 0 0,
    .localRowReadReturn 0 0 65536, .registerWrite 0 3 0, .staleGroveNak ⟨0, 16, 5, false, .none⟩,
    .staleGroveNak ⟨0, 1, 2 ^ 16, false, .none⟩, .staleGroveNak ⟨2, 1, 5, false, .none⟩,
    .hlkFlitReceive 0 (padTo 255 []), .queueEnable 0 0, .queueDisable 0 (BitVec.ofNat 64 (2 ^ 63)),
    .lnkFlitReceive 0 0 ⟨0, 0⟩ (padTo 255 [])]

def illFormed09 : List Instr :=
  [ .softRepairResult 0 true [(32, [])], .softRepairResult 0 true [(0, [(19, 0)])], .mapoutCopyDone 0 [(2 ^ 25, [])],
    .mapoutCopyDone 0 [(0, [(0, 32)])], .smbusImgData 0 [], .smbusImgData 0 (padTo 241 []),
    .hlkTrainingDone (4, 0) (3, 0) (255, 0), .hlkTrainingDone (3, 0) (4, 0) (255, 0),
    .hlkTrainingDone (3, 0) (3, 0) (256, 0), .hlkTrainingDone (3, 256) (3, 0) (255, 0),
    .hlkTrainingDone (3, 0) (3, 256) (255, 0), .hlkTrainingDone (3, 0) (3, 0) (255, 256),
    .memPhyTrainingDone (.kindling [(480, 0)]), .memPhyTrainingDone (.kindling [(0, 19)]),
    .wcbAgeEvict 0 [(0, 0), (0, 0)], .wcbAgeEvict 0 [(0, 32)], .refreshDoneReceive ⟨0, 2, 1, 5⟩ 0,
    .refreshDoneReceive ⟨0, 0, 16, 5⟩ 0, .refreshDoneReceive ⟨0, 0, 1, 2 ^ 16⟩ 0,
    .clkMonitorWindow (.tile 128) 0 false, .clkMonitorWindow (.bough 2) 0 false, .clkMonitorWindow (.link 6) 0 false,
    .clkMonitorWindow (.link 32) 0 false, .adjRange 0 goodO ⟨2 ^ 32, 0, 0, 0, 0, 0, 0⟩,
    .adjRange 0 goodO ⟨0, 2 ^ 48, 0, 0, 0, 0, 0⟩, .adjRange 0 goodO ⟨0, 0, 2 ^ 41, 0, 0, 0, 0⟩,
    .adjRange 0 goodO ⟨0, 0, 0, 2 ^ 64, 0, 0, 0⟩, .adjRange 0 goodO ⟨0, 0, 0, 0, 2 ^ 32, 0, 0⟩,
    .adjRange 0 goodO ⟨0, 0, 0, 0, 0, 2 ^ 32, 0⟩, .adjRange 0 goodO ⟨0, 0, 0, 0, 0, 0, 4⟩]

def illFormed10 : List Instr :=
  [ .adjPick 0 goodO ⟨2 ^ 32, 0, 0, [], false, [1]⟩, .adjPick 0 goodO ⟨0, 2 ^ 48, 0, [], false, [1]⟩,
    .adjPick 0 goodO ⟨0, 0, 2 ^ 41, [], false, [1]⟩, .adjPick 0 goodO ⟨0, 0, 0, [(2 ^ 32, 0)], false, [1]⟩,
    .adjPick 0 goodO ⟨0, 0, 0, [(0, 2 ^ 32)], false, [1]⟩, .adjPick 0 goodO ⟨0, 0, 0, [], false, []⟩,
    .adjPick 0 goodO ⟨0, 0, 0, [], false, List.replicate 33 0⟩, .adjPick 0 goodO ⟨0, 0, 0, [], false, [2 ^ 64]⟩,
    .rowRead 0 goodO ⟨2 ^ 32, 0, 0, 0, 0, 1, 0⟩, .rowRead 0 goodO ⟨0, 2 ^ 12, 0, 0, 0, 1, 0⟩,
    .rowRead 0 goodO ⟨0, 0, 2 ^ 32, 0, 0, 1, 0⟩, .rowRead 0 goodO ⟨0, 0, 0, 2 ^ 48, 0, 1, 0⟩,
    .rowRead 0 goodO ⟨0, 0, 0, 0, 0, 0, 0⟩, .rowRead 0 goodO ⟨0, 0, 0, 0, 0, 4097, 0⟩,
    .rowRead 0 goodO ⟨0, 0, 0, 0, 0, 1, 2 ^ 48⟩,
    .rowAccumulate 0 goodO ⟨2 ^ 32, 0, 0, 0, 0, 0, 0, List.replicate 64 0⟩,
    .rowAccumulate 0 goodO ⟨0, 2 ^ 48, 0, 0, 0, 0, 0, List.replicate 64 0⟩,
    .rowAccumulate 0 goodO ⟨0, 0, 2 ^ 12, 0, 0, 0, 0, List.replicate 64 0⟩,
    .rowAccumulate 0 goodO ⟨0, 0, 0, 2 ^ 32, 0, 0, 0, List.replicate 64 0⟩,
    .rowAccumulate 0 goodO ⟨0, 0, 0, 0, 2 ^ 48, 0, 0, List.replicate 64 0⟩,
    .rowAccumulate 0 goodO ⟨0, 0, 0, 0, 0, 64, 0, List.replicate 64 0⟩,
    .rowAccumulate 0 goodO ⟨0, 0, 0, 0, 0, 0, 2 ^ 64, List.replicate 64 0⟩,
    .rowAccumulate 0 goodO ⟨0, 0, 0, 0, 0, 0, 0, []⟩,
    .rowAccumulate 0 goodO ⟨0, 0, 0, 0, 0, 0, 0, List.replicate 64 (2 ^ 32)⟩,
    .rowDataReceive 0 ⟨2 ^ 32, 0, 0, true, [1]⟩, .rowDataReceive 0 ⟨0, 2 ^ 32, 0, true, [1]⟩,
    .rowDataReceive 0 ⟨0, 0, 2 ^ 14, true, [1]⟩, .rowDataReceive 0 ⟨0, 0, 0, true, []⟩,
    .rowDataReceive 0 ⟨0, 0, 0, true, padTo 1625 []⟩, .rowDataReceive 0 ⟨0, 0, 0, false, [1]⟩]

def illFormed11 : List Instr :=
  [ .regraftCopyReceive 0 goodO ⟨2 ^ 32, 0, 0, 0, 0, [], []⟩,
    .regraftCopyReceive 0 goodO ⟨0, 2 ^ 12, 0, 0, 0, [], []⟩,
    .regraftCopyReceive 0 goodO ⟨0, 0, 2 ^ 32, 0, 0, [], []⟩,
    .regraftCopyReceive 0 goodO ⟨0, 0, 0, 2 ^ 48, 0, [], []⟩,
    .regraftCopyReceive 0 goodO ⟨0, 0, 0, 0, 2 ^ 24, [], []⟩, .scionCopyReceive 0 goodO ⟨2 ^ 32, 0, 0, 0, 0, [], []⟩,
    .scionRefreshReceive 0 goodO ⟨2 ^ 32, 0, 0, 0, 0, [], []⟩,
    .regraftMirrorReceive 0 goodO ⟨2 ^ 32, 0, 0, 0, 0, [], []⟩,
    .memRequest ⟨.tileDma, ⟨2 ^ 15, 0, 1, 5⟩, 0, 1, none, []⟩ false,
    .memRequest ⟨.tileDma, goodO, 0, 1, none, [(19, 0)]⟩ false,
    .memRequest ⟨.tileDma, goodO, 2 ^ 41, 1, none, []⟩ false, .memRequest ⟨.tileDma, goodO, 0, 0, none, []⟩ false,
    .memRequest ⟨.tileDma, goodO, 63, 2, none, []⟩ false, .memRequest ⟨.tileDma, goodO, 0, 1, some [], []⟩ false,
    .nearMemoryAccumulate ⟨.tileDma, ⟨2 ^ 15, 0, 1, 5⟩, .u32, 0, 0, [1], []⟩,
    .nearMemoryAccumulate ⟨.tileDma, goodO, .u32, 0, 0, [1], [(19, 0)]⟩,
    .nearMemoryAccumulate ⟨.tileDma, goodO, .u32, 2 ^ 41, 0, [1], []⟩,
    .nearMemoryAccumulate ⟨.tileDma, goodO, .u32, 0, 2 ^ 16, [1], []⟩,
    .nearMemoryAccumulate ⟨.tileDma, goodO, .u32, 4, 0, [1], []⟩,
    .nearMemoryAccumulate ⟨.tileDma, goodO, .u32, 0, 0, [], []⟩,
    .nearMemoryAccumulate ⟨.tileDma, goodO, .u32, 0, 0, [2 ^ 32], []⟩,
    .nearMemoryAccumulate ⟨.tileDma, goodO, .i32, 8, 0, List.replicate 16 0, []⟩,
    .nearMemoryAccumulate ⟨.tileDma, goodO, .f32, 0, 0, List.replicate 15 0, []⟩,
    .nearMemoryAccumulate ⟨.tileDma, goodO, .b8, 0, 0, List.replicate 64 256, []⟩,
    .identityExchange 0 ⟨2 ^ 15, 1, 0, 0, 0, []⟩, .identityExchange 0 ⟨0, 0, 0, 0, 0, []⟩,
    .identityExchange 0 ⟨0, 4, 0, 0, 0, []⟩, .identityExchange 0 ⟨0, 1, 16, 0, 0, []⟩,
    .retrainDone 0 0 ⟨0, 0, 0, 0, 0, []⟩,
    .contributionReceive 0 goodO ⟨2 ^ 48, 0, 0, 2, 1, 0, 0, 0, 0, 0, padTo 64 []⟩]

def illFormed12 : List Instr :=
  [ .contributionReceive 0 goodO ⟨0, 256, 0, 2, 1, 0, 0, 0, 0, 0, padTo 64 []⟩,
    .contributionReceive 0 goodO ⟨0, 0, 4096, 2, 1, 0, 0, 0, 0, 0, padTo 64 []⟩,
    .contributionReceive 0 goodO ⟨0, 0, 0, 1, 1, 0, 0, 0, 0, 0, padTo 64 []⟩,
    .contributionReceive 0 goodO ⟨0, 0, 0, 2, 1, 2 ^ 24, 0, 0, 0, 0, padTo 64 []⟩,
    .contributionReceive 0 goodO ⟨0, 0, 0, 2, 1, 0, 2 ^ 32, 0, 0, 0, padTo 64 []⟩,
    .contributionReceive 0 goodO ⟨0, 0, 0, 2, 1, 0, 0, 2 ^ 16, 0, 0, padTo 64 []⟩,
    .contributionReceive 0 goodO ⟨0, 0, 0, 2, 1, 0, 0, 0, 2 ^ 48, 0, padTo 64 []⟩,
    .contributionReceive 0 goodO ⟨0, 0, 0, 2, 1, 0, 0, 0, 0, 2 ^ 32, padTo 64 []⟩,
    .contributionReceive 0 goodO ⟨0, 0, 0, 2, 0, 0, 0, 0, 0, 0, padTo 64 []⟩,
    .contributionReceive 0 goodO ⟨0, 0, 0, 2, 25, 0, 0, 0, 0, 0, padTo 64 []⟩,
    .contributionReceive 0 goodO ⟨0, 0, 0, 2, 1, 0, 0, 0, 0, 0, []⟩,
    .contributionReceive 0 goodO ⟨0, 0, 0, 3, 49, 0, 0, 0, 0, 0, padTo 1568 []⟩,
    .bcastPieceReceive 0 goodO ⟨2 ^ 48, 0, 0, 0, 0, 0, [1]⟩, .bcastPieceReceive 0 goodO ⟨0, 4096, 0, 0, 0, 0, [1]⟩,
    .bcastPieceReceive 0 goodO ⟨0, 0, 2 ^ 24, 0, 0, 0, [1]⟩, .bcastPieceReceive 0 goodO ⟨0, 0, 0, 4, 0, 0, [1]⟩,
    .bcastPieceReceive 0 goodO ⟨0, 0, 0, 0, 2 ^ 32, 0, [1]⟩, .bcastPieceReceive 0 goodO ⟨0, 0, 0, 0, 0, 2 ^ 32, [1]⟩,
    .bcastPieceReceive 0 goodO ⟨0, 0, 0, 0, 0, 0, []⟩, .bcastPieceReceive 0 goodO ⟨0, 0, 0, 0, 0, 0, padTo 1537 []⟩,
    .commitReportReceive goodO ⟨2 ^ 48, 0, 0, false, false, 0, 0, 0⟩,
    .commitReportReceive goodO ⟨0, 256, 0, false, false, 0, 0, 0⟩,
    .commitReportReceive goodO ⟨0, 0, 2, false, false, 0, 0, 0⟩,
    .commitReportReceive goodO ⟨0, 0, 0, false, false, 2 ^ 16, 0, 0⟩,
    .commitReportReceive goodO ⟨0, 0, 0, false, false, 0, 2 ^ 16, 0⟩,
    .commitReportReceive goodO ⟨0, 0, 0, false, false, 0, 0, 2 ^ 64⟩,
    .commitRelease goodO ⟨2 ^ 48, 0, false, false, []⟩, .commitRelease goodO ⟨0, 256, false, false, []⟩,
    .commitRelease goodO ⟨0, 0, true, false, []⟩, .commitRelease goodO ⟨0, 0, false, false, [1]⟩]

def illFormed13 : List Instr :=
  [ .voidReceive goodO ⟨2 ^ 48, 0, 0, 1⟩, .voidReceive goodO ⟨0, 256, 0, 1⟩, .voidReceive goodO ⟨0, 0, 2 ^ 15, 1⟩,
    .voidReceive goodO ⟨0, 0, 0, 0⟩, .voidReceive goodO ⟨0, 0, 0, 4⟩, .kilnDrainReceive 0 goodO ⟨2 ^ 32, 0, [1]⟩,
    .kilnDrainReceive 0 goodO ⟨0, 2 ^ 41, [1]⟩, .kilnDrainReceive 0 goodO ⟨0, 0, []⟩,
    .kilnDrainReceive 0 goodO ⟨0, 0, padTo 1657 []⟩]

theorem test_ill_formed_0 : (illFormed00 ++ illFormed01 ++ illFormed02 ++ illFormed03 ++ illFormed04 ++ illFormed05 ++ illFormed06).all (fun c => !c.wf) = true := by decide +kernel

theorem test_ill_formed_1 : (illFormed07 ++ illFormed08 ++ illFormed09 ++ illFormed10 ++ illFormed11 ++ illFormed12 ++ illFormed13).all (fun c => !c.wf) = true := by decide +kernel

theorem test_well_formed :
    [.adjRange 0 goodO ⟨0, 0, 0, 0, 0, 0, 0⟩,
      .adjPick 0 goodO ⟨0, 0, 0, [], false, [1]⟩,
      .rowRead 0 goodO ⟨0, 0, 0, 0, 0, 1, 0⟩,
      .rowAccumulate 0 goodO ⟨0, 0, 0, 0, 0, 0, 0, List.replicate 64 0⟩,
      .rowDataReceive 0 ⟨0, 0, 0, true, [1]⟩,
      .regraftCopyReceive 0 goodO ⟨0, 0, 0, 0, 0, [], []⟩,
      .memRequest ⟨.tileDma, goodO, 0, 1, none, []⟩ false,
      .nearMemoryAccumulate ⟨.tileDma, goodO, .u32, 0, 0, [1], []⟩,
      .identityExchange 0 ⟨0, 1, 0, 0, 0, []⟩,
      .contributionReceive 0 goodO ⟨0, 0, 0, 2, 1, 0, 0, 0, 0, 0, padTo 64 []⟩,
      .bcastPieceReceive 0 goodO ⟨0, 0, 0, 0, 0, 0, [1]⟩,
      .commitReportReceive goodO ⟨0, 0, 0, false, false, 0, 0, 0⟩,
      .commitRelease goodO ⟨0, 0, false, false, []⟩,
      .voidReceive goodO ⟨0, 0, 0, 1⟩,
      .kilnDrainReceive 0 goodO ⟨0, 0, [1]⟩,
      .hlkTrainingDone (3, 0) (3, 0) (255, 0),
      .lnkFlitReceive 31 7 ⟨0, 0⟩ (padTo 256 []),
      .staleGroveNak ⟨0, 1, 5, false, .none⟩ ].all (fun c : Instr => c.wf) = true := by decide +kernel

/-! ## The spec's own examples -/

/-- The example after R39, R108, R320, R438 and R461: offsets of registers. -/
theorem test_offsets : regAddr .HLK_QCFG [5] = 0x51150 ∧ regAddr .TIL_ABFT_TOL [2] = 0x10200100 ∧
    regAddr .SPX_ECC_LAST [2] = 0x10240008 ∧ regAddr .LNK_PORT_STATUS_T [1, 0] = 0x03800008 ∧
    regAddr .LNK_STANDIN [1, 0] = 0x03C00040 ∧ regAddr .HLK_QBASE [5] = 0x51140 := by decide +kernel

/-- The example after R108: QCFG's fields. -/
theorem test_qcfg : (let w : Word := 0x8008000200000003#64
    (w.getLsbD 63, wfld w 48 5, wfld w 40 5, wfld w 32 4, wfld w 0 4) = (true, 8, 0, 2, 3)) := by decide +kernel

/-- The example after R130: the producer task's fields. -/
def producer : List Byte :=
  toLe 8 0x0007010100120300 ++ toLe 8 0x2A ++ toLe 8 0x0000000200000005 ++ toLe 8 0x400000 ++ toLe 8 0x14064 ++ toLe 8 0 ++
    toLe 8 0x14065 ++ toLe 8 0

theorem test_task_fields : (let t := (parseTask producer).2
    t.unit = 0 ∧ t.grove = 3 ∧ t.gen = 0x12 ∧ t.priority = 1 ∧ t.ordered = true ∧ t.flow = 7 ∧ t.seq = 5 ∧ t.tile = 2 ∧
      t.waits = [(100, 1)] ∧ t.signals = [(101, 1)]) := by decide +kernel

/-- The example after R164: one L8 product drains to 0x42EAC100. -/
theorem test_l8_drain : ((l8Mac {} 0x75 0x4A (-1) 3).drain 3).f32 = 0x42EAC100 := by decide +kernel

/-- The example after R170: a block with largest magnitude 12.5. -/
theorem test_l8_block : autoScale [ofF32 0x41480000, ofF32 0xBE99999A, ofF32 0x3A83126F, ofF32 0x3727C5AC] = -3 ∧
    ([0x41480000, 0xBE99999A, 0x3A83126F, 0x3727C5AC].map fun x => (toL8 (-3) (ofF32 x)).code) = [0x75, 0xCA, 0x08, 0] ∧
    (toL8 (-3) (ofF32 0x3727C5AC)).flush = 1 := by decide +kernel

/-- The example after R188: B8 elements with E = −6 of 0.0123, −0.00071 and 0.041. -/
theorem test_b8 : ([0x3C4985F0, 0xBA3A1F46, 0x3D27EF9E].map fun x => toB8 (-6) (ofF32 x)) =
    [(0x32, .ok), (0xFD, .ok), (0x80, .sat)] := by decide +kernel

/-- The example after R211: the child's twig record. -/
theorem test_twig : twigBytes ⟨0x000351A27E10, 2, 1, false, 112, 0⟩ false =
    toLe 8 0x0242000351A27E10 ++ toLe 8 0x70 := by decide +kernel

/-- The example after R239: the descending walk gives 1.0, an ascending one would give 0x3F800001. -/
theorem test_merge_order :
    (mergeInto { step := 0, mask := 0, v := List.replicate 64 0 } [(0, 0x3F800000), (0, 0x33800000), (0, 0x33800000)]).v.headD 0 = 0x3F800000 ∧
    (mergeInto { step := 0, mask := 0, v := List.replicate 64 0 } [(0, 0x33800000), (0, 0x33800000), (0, 0x3F800000)]).v.headD 0 = 0x3F800001 := by
  decide +kernel

/-- The example after R239: a row id that comes again takes its first unique index. -/
theorem test_unique_walk : (uniqueWalk [some 5, some 9, some 5, none, some 7]).2.1 = [0, 1, 0, 0xFFFFFFFF, 2] := by decide +kernel

/-- The example after R275: the stage entry. -/
theorem test_stage_entry : (let w := (0x0000000C0C460052, 0x0A113C07)
    (stageKind w, stageTable w, stageDevice w, stageSlot w, stageRow w) = (2, 5, 0xC46, 12, 0x0A113C07)) := by decide +kernel

/-- The example after R351: the form header. -/
theorem test_form : (let f := parseForm 0 (toLe 8 0x0000000400010201 ++ toLe 8 0x000000D000000100 ++ toLe 8 0x0000024000000440 ++ toLe 8 0x0000008000000000 ++ toLe 8 0x40 ++ toLe 8 0x0000040000000000 ++ toLe 16 0)
    f.form = 1 ∧ f.fmt = 2 ∧ f.heavy = 1 ∧ f.rows = 4 ∧ f.cols = 256 ∧ f.nnz = 208 ∧ f.total = 0x440 ∧ f.data = 0x240 ∧
      f.index = 0x80 ∧ f.rowptr = 0x40 ∧ f.heavyOff = 0x400) := by decide +kernel

/-- The example after R393: grove 3 holds octet 2, so local offset 0x9_2345_6ABC lies on channel 22, line 10, row 0x48D1,
bank 4. -/
theorem test_locate : ({ State.reset with grv := { groves := [(3, { bound := true, channels := 255 * 2 ^ 16 })] } }).locate
      0x923456ABC = some (22, 0x2468AABC) ∧ split 0x2468AABC = (4, 0x48D1, 10) := by decide +kernel

/-- The example after R440: the ROW_READ's first flit, and its reversal at (2, 2, 3), whose −x port is DEAD. -/
def rowReadFlit : List Byte := padTo 256 (toLe 8 0x0FF0123400071A01 ++ toLe 8 0 ++ toLe 8 0x07FF00000C450C5E ++ toLe 8 0x0412 ++ toLe 8 0)

theorem test_route : (let f := LFlit.parse rowReadFlit
    f.grove = 10 ∧ f.vc = 1 ∧ f.dest = 3166 ∧ f.src = 3141 ∧ f.ttl = 0xFF ∧ f.minus = [true, false, false] ∧ f.length = 4 ∧
    routeFrom (· == 0) [2, 2, 3] [30, 2, 3] [32, 32, 24] 0 3 0 f =
      .out 0 { f with minus := [false, false, false], reversed := true, dl := true } true ∧
    minusOf 5 30 32 = true) := by decide +kernel

/-- The example after R492: element 0 sums to 40,320 over a count of 2,016 with E = −6. -/
theorem test_gradient : (gradQuot 40320 2016 (-6)).f32 = 0x3BA00000 := by decide +kernel

/-- The example after R545: the record's words, and the levels of its heats. -/
def record37 : LogRec :=
  ⟨0x1F40, .til, .contained, 0, 9, some 9, 7, 0xF43D0, 0, 0xA31F02, 0x0001800A038409A5⟩

theorem test_record :
    (List.range 4).map (recWord (some record37)) =
      [0x000929A000001F40#64, 0x01000000000F43D0#64, 0x00A31F0200000007#64, 0x0001800A038409A5#64] ∧
    smokeLevel 3752 = 11 ∧ smokeLevel 7726 = 12 := by decide +kernel

/-- The example after R640: the mailbox command and the report's first bytes. -/
theorem test_report : (({ up with
      regs := [(regAddr .GLB_DEVNUM [], 0x8C45#64)], hwd := { lmsIndex := 0xFFFFA, provOk := true }
      grv := { groves := [(9, { bound := true, generation := 7 })] } }).reportBytes (toLe 120 0x19) 9 true).take 16 =
    toLe 16 0x000FFFFA8C4500070019000132545441 := by decide +kernel

/-- The example after R295: an L8 product with ABFT and a histogram. -/
def matExample : List Byte :=
  toLe 8 0x1801000000120301 ++ toLe 8 0x0000008000000200 ++ toLe 8 0x0000000500000100 ++ toLe 8 0x0000010000000000 ++
  toLe 8 0x0000008000020000 ++ toLe 8 0x0000010000030000 ++ toLe 8 0x0000000000000000 ++ toLe 8 0x0000004000050000 ++
  toLe 8 0x0000004000058000 ++ toLe 8 0x0000000000000000

theorem test_mat : (let o := parseMat (padTo 128 matExample)
    o.l8 = true ∧ o.outFmt = 1 ∧ o.abft = true ∧ o.hist = true ∧ o.acc = false ∧ (o.m, o.n, o.k) = (512, 128, 256) ∧ o.histStream = 5 ∧
      (o.a, o.aPitch, o.b, o.bPitch) = (0, 256, 0x20000, 128) ∧ (o.c, o.cPitch) = (0x30000, 256) ∧
      (o.sa, o.saPitch, o.sb, o.sbPitch) = (0x50000, 64, 0x58000, 64) ∧ o.tolExp = 0) := by decide +kernel

/-- The softmax example after R339. -/
def softmaxExample : List Byte :=
  toLe 8 0x0004040000120302 ++ toLe 8 0x000003E800000200 ++ toLe 8 0x000000003FB8AA3B ++ toLe 8 0x0000000000000000 ++
  toLe 8 0x0000000000000000 ++ toLe 8 0x0000000000000000 ++ toLe 8 0x0000000000000000 ++ toLe 8 0x0000000000000000 ++
  toLe 8 0x0000100000060000 ++ toLe 8 0x0000000000000000 ++ toLe 8 0x0000000800260000 ++ toLe 8 0x0200000000000000 ++
  toLe 8 0x0000080000270000 ++ toLe 8 0x0101000000000000 ++ toLe 8 0x0000000800370000 ++ toLe 8 0x0100000000000000 ++
  toLe 8 0x0000000003F04002 ++ toLe 8 0x0000000003F21003 ++ toLe 8 0x0001051203FFD10B ++ toLe 8 0x0000001303FFD210

theorem test_softmax : (let p := parseVProg softmaxExample
    vCheck 3 0x12 softmaxExample = none ∧ p.rows = 512 ∧ p.vl = 1000 ∧
    p.constants.take 2 = [0x3FB8AA3B, 0] ∧ (p.streams.map (·.offset)) = [0x60000, 0x260000, 0x270000, 0x370000] ∧
    (p.streams.map fun x => (x.output, x.bcast)) = [(false, false), (false, true), (true, false), (true, false)] ∧
    p.instrs.map (fun i => (i.op, i.a, i.b)) = [(2, 0, 1), (3, 0x10, 8), (0x0B, 0x11, 0x3F), (0x10, 0x12, 0x3F)] ∧
    p.instrs.map (fun i => (i.store, i.dst, i.hist, i.histStream)) =
      [(false, 0, false, 0), (false, 0, false, 0), (true, 2, true, 5), (true, 3, false, 0)]) := by decide +kernel

/-- The example after R350: the compressed form of rows of 3, 0, 200 and 5 non-zeros. -/
theorem test_compress : (let row := fun n => (List.range n).map fun i => (i, 1)
    let rows := [row 3, row 0, row 200, row 5]
    let f := compressedForm 2 256 rows
    (denseForm 2 4 256 512).total = 2112 ∧ f.total = 1088 ∧ rowPointers rows = [0, 3, 3, 203, 208] ∧ markRows rows = [2] ∧
      (f.rowptr, f.index, f.data, f.heavyOff) = (0x40, 0x80, 0x240, 0x400)) := by decide +kernel

/-- The gather example after R228. -/
def gatherExample : List Byte :=
  toLe 8 0x0300000500120300 ++ toLe 8 0x0000002000000000 ++ toLe 8 0x0000000200000024 ++ toLe 8 0x004000020000003D ++
  toLe 8 0x0018000000100000 ++ toLe 8 0x0000000400000020 ++ toLe 8 0x0000002010000000 ++ toLe 8 0x0000000000014078

theorem test_gather_desc : (match parseGth false 3 0x12 gatherExample with
    | some d => d.table == 5 && d.hopMask == 3 && d.source == 0x2000000000 && d.first == 36 && d.count == 2 && d.slots == 61 &&
        d.tile == 2 && d.rowElems == 64 && d.offset == 0x100000 && d.mapOffset == 0x180000 && d.limit == 32 && d.pitch == 4 &&
        d.manifest == 0x2010000000 && d.knot == 120 && d.amount == 1
    | none => false) = true := by decide +kernel

/-- The contribution example after R491. -/
theorem test_contribution : (contributionPayload
      { step := 0xF431A, attempt := 0, reduction := 17, kind := 2, blocks := 24, segment := 40, request := 0x2A10, count := 32,
         target := 0, crc := 0x5C1E77A3, data := [] }) =
  toLe 8 0x00000000000F431A ++ toLe 8 0x0000000000000000 ++ toLe 8 0x0000000000000011 ++ toLe 8 0x0000000000000002 ++
  toLe 8 0x0000000000000018 ++ toLe 8 0x0000000000000028 ++ toLe 8 0x0000000000002A10 ++ toLe 8 0x0000000000000020 ++
  toLe 8 0x0000000000000000 ++ toLe 8 0x000000005C1E77A3 := by decide +kernel

/-- The example after R578: the first pages of a slot. -/
theorem test_slot_pages : slotPages 651776 155136 = (1, 6) := by decide +kernel

/-- The Adam programme after R517. -/
def adamWords : List Nat :=
  [0x3F24003, 0x1101020204, 0x3F00003, 0x3F2D203, 0x1201328304, 0x3F35401, 0x3FFD50E, 0x3F59103, 0x1000131704]

theorem test_adam : (let is := adamWords.map parseVInstr
    is.zipIdx.any (fun x => updInstrBad 2 is x.2 x.1) = false ∧ is.map (·.op) = [3, 4, 3, 3, 4, 1, 0x0E, 3, 4] ∧
    is.map (fun i => (i.store, i.dst)) = [(false, 0), (true, 1), (false, 0), (false, 0), (true, 2), (false, 0), (false, 0), (false, 0), (true, 0)]) := by
  decide +kernel

/-- The example after R661: GLB_STATUS in the ash state. -/
theorem test_glb_status : ({ State.reset with
      sup := { State.reset.sup with phase := .ash, coresUp := 24, faultLow := true }
      hwd := { provOk := true }
      grv := { groves := [(9, { bound := true })] } }).glbStatus = 0x0000001802000049#64 := by decide +kernel

end Sys2Proof.Tests
end

section
/-! PROOFS. Shared rules: software writes and stores to the window, what a record leaves, reads by the engines. -/
namespace Sys2Proof.Machine

theorem State.onDie_of_islandsRun {s : State} (h : s.islandsRun = true) (f : State → State) : s.onDie f = f s :=
  if_pos h

/-! ## Software writes -/

@[simp] theorem State.getReg_softWrite_same (s : State) (r : Reg) (ix : List Nat) (v : Word) :
    (s.softWrite r ix v).getReg r ix = accessWrite r (s.getReg r ix) v := State.getReg_putReg_same s r ix _

theorem State.tget_regs_softWrite_other (s : State) (r : Reg) (ix : List Nat) (v : Word) {a : Nat}
    (h : a ≠ regAddr r ix) : tget (s.softWrite r ix v).regs a = tget s.regs a := tget_tset_other _ _ h

/-- A software write changes the register window only. -/
theorem State.softWrite_frame (s : State) (r : Reg) (ix : List Nat) (v : Word) :
    { s.softWrite r ix v with regs := s.regs } = s := rfl

/-! ## Records -/

/-- The log's own registers end at WCH_LOG_LOST. -/
theorem plainOff_of_gt {a : Nat} (h : 0x30400 < a) : plainOff a = true := by
  have hlost : regAddr .WCH_LOG_LOST [] = 0x30400 := by decide
  have hstate : regAddr .WCH_LOG_STATE [] = 0x30010 := by decide
  have hhead : regAddr .WCH_LOG_HEAD [] = 0x30000 := by decide
  simp only [plainOff, hlost, hstate, hhead, Bool.and_eq_true, bne_iff_ne]
  omega

/-- The log's room depends on its head and tail only. -/
theorem State.logRoom_putReg {s : State} {r : Reg} {ix : List Nat} (v : Word)
    (hhead : regAddr .WCH_LOG_HEAD [] ≠ regAddr r ix) (htail : regAddr .WCH_LOG_TAIL [] ≠ regAddr r ix) :
    (s.putReg r ix v).logRoom = s.logRoom := by
  unfold State.logRoom State.regFld
  rw [State.getReg_putReg_other _ _ hhead, State.getReg_putReg_other _ _ htail]

/-- With room in the log, a register access outside the CLK and PWR blocks that fails leaves its contained record
(R529). -/
theorem State.lastRecord_regAccess (s : State) (off kind : Nat)
    (hsrc : (srcOfOffset off == .clk || srcOfOffset off == .pwr) = false) (hroom : s.logRoom = true) :
    ∃ r, (s.regAccess off kind).lastRecord = some r ∧ r.src = srcOfOffset off ∧ r.sev = .contained ∧ r.code = 0xF2 ∧
      r.detail = (off % 2 ^ 30 + kind * 2 ^ 30) % 2 ^ 64 :=
  ⟨_, State.lastRecord_record s _ _ _ _ _ _ hsrc hroom, rfl, rfl, rfl, rfl⟩

theorem State.getReg_regAccess (s : State) (off kind : Nat)
    (hsrc : (srcOfOffset off == .clk || srcOfOffset off == .pwr) = false) {r : Reg} {ix : List Nat}
    (h : plainOff (regAddr r ix) = true) : (s.regAccess off kind).getReg r ix = s.getReg r ix :=
  State.getReg_record s _ _ _ _ _ _ hsrc h

/-! ## Reads by the engines note what they find, and change nothing else -/

theorem State.noteUe_noted {s0 s : State} (c line : Nat) (h : Noted s0 s) : Noted s0 (s.noteUe c line) :=
  State.putReg_noted _ _ _ (State.bump_noted _ _ _ h)

theorem State.ueRecord_noted {s0 s : State} (sev : Sev) (c line : Nat) (h : Noted s0 s) :
    Noted s0 (s.ueRecord sev c line) :=
  State.heatOn_noted _ _ (State.record_noted _ _ _ _ _ _ h)

theorem State.unmappedRecord_noted {s0 s : State} (p : Party) (o : Nat) (h : Noted s0 s) :
    Noted s0 (s.unmappedRecord p o) := by
  unfold State.unmappedRecord
  exact State.record_noted _ _ _ _ _ _ h

theorem State.readLocal_noted {s0 s : State} (p : Party) (o n : Nat) (h : Noted s0 s) :
    Noted s0 (s.readLocal p o n).1 := by
  unfold State.readLocal
  split
  · exact h
  · exact State.ueRecord_noted _ _ _ (State.noteUe_noted _ _ h)
  · exact State.unmappedRecord_noted _ _ h
  · exact h

/-- A fold each of whose steps only notes in the state of a pair does so as a whole. -/
theorem Noted.foldl_fst {α β : Type} {s0 : State} (l : List α) {f : State × β → α → State × β} {q : State × β}
    (h : Noted s0 q.1) (hf : ∀ q x, Noted s0 q.1 → Noted s0 (f q x).1) : Noted s0 (l.foldl f q).1 := by
  induction l generalizing q with
  | nil => exact h
  | cons x l ih => exact ih (hf q x h)

theorem State.readVa_noted {s0 s : State} (g va n : Nat) (h : Noted s0 s) : Noted s0 (s.readVa g va n).1 := by
  unfold State.readVa
  split
  · exact h
  · refine Noted.foldl_fst _ h fun q x hq => ?_
    split
    · exact State.readLocal_noted _ _ _ hq
    · exact hq

theorem Noted.of_readVa {s t : State} {g va n : Nat} {a : Acc} {b : List Byte} (h : s.readVa g va n = (t, a, b)) :
    Noted s t := by
  have hread := State.readVa_noted g va n (Noted.refl s)
  rwa [h] at hread

end Sys2Proof.Machine
end

section
/-! PROOFS. Writes to the register window (R10, R13, R14, R17) and of GLB_DEVNUM (R42). -/
namespace Sys2Proof.Machine

/-! ## Stores to the window (R13, R14) -/

/-- A write of a register without a row of its own is stored by the access codes. -/
theorem State.regWrite_of_not_ownRow (s : State) {r : Reg} (ix : List Nat) (v : Word) (h : ownRow r = false) :
    s.regWrite r ix v = s.softWrite r ix v := by
  unfold State.regWrite
  split
  case h_36 => rfl
  all_goals exact absurd h (by decide)

section
variable {s : State} {off width : Nat} (v : Word) (hreach : s.reaches off = true)
include hreach

theorem State.regStore_at {r : Reg} {ix : List Nat} (halign : off % 8 = 0) (hat : regAt off = some (r, ix)) :
    s.regStore off 8 v = s.regWrite r ix v := by
  simp [State.regStore, hreach, halign, hat]

theorem State.regStore_narrow (hwidth : width ≠ 8) : s.regStore off width v = s.regAccess off 0 := by
  simp [State.regStore, hreach, hwidth]

theorem State.regStore_misaligned (halign : off % 8 ≠ 0) : s.regStore off 8 v = s.regAccess off 1 := by
  simp [State.regStore, hreach, halign]

theorem State.regStore_unoccupied (halign : off % 8 = 0) (hat : regAt off = none) :
    s.regStore off 8 v = s.regAccess off 2 := by
  simp [State.regStore, hreach, halign, hat]

end

theorem exec_registerWrite (s : State) (off width : Nat) (v : Word) :
    exec (.registerWrite off width v) s = .next (s.regStore off width v) := rfl

theorem exec_registerWrite_plain (s : State) (off : Nat) (v : Word) (r : Reg) (ix : List Nat)
    (hreach : s.reaches off = true) (halign : off % 8 = 0) (hat : regAt off = some (r, ix)) (hrow : ownRow r = false) :
    exec (.registerWrite off 8 v) s = .next (s.softWrite r ix v) := by
  rw [exec_registerWrite, State.regStore_at v hreach halign hat, State.regWrite_of_not_ownRow s ix v hrow]

theorem exec_registerWrite_bad (s : State) (off width : Nat) (v : Word) (kind : Nat) (hreach : s.reaches off = true)
    (hbad : (width ≠ 8 ∧ kind = 0) ∨ (width = 8 ∧ off % 8 ≠ 0 ∧ kind = 1) ∨
      (width = 8 ∧ off % 8 = 0 ∧ regAt off = none ∧ kind = 2)) :
    exec (.registerWrite off width v) s = .next (s.regAccess off kind) := by
  rw [exec_registerWrite]
  rcases hbad with ⟨hwidth, rfl⟩ | ⟨rfl, halign, rfl⟩ | ⟨rfl, halign, hat, rfl⟩
  · rw [State.regStore_narrow v hreach hwidth]
  · rw [State.regStore_misaligned v hreach halign]
  · rw [State.regStore_unoccupied v hreach halign hat]

/-! ## GLB_DEVNUM (R42) -/

theorem exec_glbDevnumWrite {s : State} (v : Word) (h : s.sup.recovery ≠ .resetHeld) :
    exec (.glbDevnumWrite v) s = .next (s.writeDevnum v) := by
  have hheld : (s.sup.recovery == .resetHeld) = false := by simpa using h
  show Host.Outcome.next (s.unheld fun s => s.writeDevnum v) = _
  simp [State.unheld, hheld]

theorem State.writeDevnum_unbound {s : State} (v : Word) (h : s.boundGroves = []) :
    s.writeDevnum v = s.softWrite .GLB_DEVNUM [] v := by simp [State.writeDevnum, h]

theorem State.writeDevnum_bound {s : State} (v : Word) (h : s.boundGroves ≠ []) :
    s.writeDevnum v = s.regAccess (regAddr .GLB_DEVNUM []) 3 := by
  simp [State.writeDevnum, h, State.refuseWrite]

theorem srcOfOffset_devnum : srcOfOffset (regAddr .GLB_DEVNUM []) = .glb := by decide

/-- Settles O9: a plain write is a software write of its register, a bad one is its record alone, and a write of
GLB_DEVNUM is one or the other by whether a grove is bound. -/
theorem registerAccesses : Obligations.RegisterAccesses := by
  unfold Obligations.RegisterAccesses
  refine ⟨fun s off v r ix hreach halign hat hrow => ?plain, fun s off width v kind hreach hroom hsrc hbad => ?bad,
    fun s v hheld => ⟨fun hunbound => ?unbound, fun hbound => ?bound⟩⟩
  case plain =>
    exact ⟨_, exec_registerWrite_plain s off v r ix hreach halign hat hrow, s.getReg_softWrite_same r ix v,
      fun _ => s.tget_regs_softWrite_other r ix v, s.softWrite_frame r ix v⟩
  case bad =>
    exact ⟨_, exec_registerWrite_bad s off width v kind hreach hbad, s.lastRecord_regAccess off kind hsrc hroom,
      fun _ _ => s.getReg_regAccess off kind hsrc, by simp, by simp, by simp⟩
  case unbound =>
    exact ⟨_, (exec_glbDevnumWrite v hheld).trans (congrArg _ (State.writeDevnum_unbound v hunbound)),
      s.getReg_softWrite_same _ _ v, fun _ => s.tget_regs_softWrite_other _ _ v, s.softWrite_frame _ _ v⟩
  case bound =>
    have hsrc : (srcOfOffset (regAddr .GLB_DEVNUM []) == .clk || srcOfOffset (regAddr .GLB_DEVNUM []) == .pwr) = false := by
      rw [srcOfOffset_devnum]; rfl
    refine ⟨_, (exec_glbDevnumWrite v hheld).trans (congrArg _ (State.writeDevnum_bound v hbound)),
      s.getReg_regAccess _ 3 hsrc (by decide), fun hroom => ?_, by simp, by simp⟩
    obtain ⟨r, hlast, -, -, hcode, hdetail⟩ := s.lastRecord_regAccess _ 3 hsrc hroom
    exact ⟨r, hlast, hcode, hdetail⟩

end Sys2Proof.Machine
end

section
/-! PROOFS. A mismatch report whose pass names a grove number no 4-bit grove field can spell (O26). -/
namespace Sys2Proof.Machine

/-- A mismatched pass of tile 0 whose task names grove 65. -/
def farPass : AbftPass :=
  { tile := 0, slot := 0, grove := 65, gen := 0, step := 0, attempt := 0, unstepped := false, pending := [] }

/-- A state in which that pass's report waits, and the tables list a bound grove 65 whose step 0 runs and whose smoke
threshold is 1. -/
def farGroveReported : State :=
  { State.reset with
    sup := { phase := .service }
    grv := { groves := [(65, { bound := true, params := { smokeThreshold := 1 } })] }
    col := { steps := [(65, { st := .running })] }
    til := { reports := [farPass] } }

/-- The place a copy 65 of WCH_SMOKE would have is WCH_MISMATCH. -/
theorem regAddr_smoke_65 : regAddr .WCH_SMOKE [65] = regAddr .WCH_MISMATCH [] := by decide

/-- The VOID of grove 65's step raises its smoke level past the threshold, and `crossed` of copy 65 of WCH_SMOKE is
bit 32 of WCH_MISMATCH (`regAddr_smoke_65`): the count reads 2^32 + 1 after the first mismatch. -/
theorem mismatchCount_farGroveReported :
    wfld ((farGroveReported.mismatchReport 0).getReg .WCH_MISMATCH []) 0 48 = 2 ^ 32 + 1 := by decide +kernel

/-- Refutes O26: the statement does not bound the grove number of a reported pass below 16. For grove 65, bound, with
its step running, the smoke flag that the VOID sets lies in WCH_MISMATCH, whose count is then not one more than
before. -/
theorem not_abftAndMismatches : ¬ Obligations.AbftAndMismatches := by
  unfold Obligations.AbftAndMismatches
  rintro ⟨-, h⟩
  obtain ⟨hreport, -⟩ := h farGroveReported 0 0 [] [] farPass (by decide) (by decide)
  obtain ⟨t, ht, -, -, hcount, -⟩ := hreport rfl (by simp) rfl
  have hrun : exec (.abftMismatchReport 0) farGroveReported = .next (farGroveReported.mismatchReport 0) := rfl
  obtain rfl : farGroveReported.mismatchReport 0 = t := Host.Outcome.next.inj (hrun.symm.trans ht)
  rw [mismatchCount_farGroveReported] at hcount
  exact absurd hcount (by decide)

end Sys2Proof.Machine
end

section
/-! PROOFS. Update programmes and row buffers (R511, R514). -/
namespace Sys2Proof.Machine

/-! ## Programme slots -/

theorem State.start_upd (s : State) (q i : Nat) : (s.start q i).upd = s.upd := rfl

theorem State.updSlot_congr {s t : State} (h : t.upd = s.upd) (k : Nat) : t.updSlot k = s.updSlot k := by
  simp [State.updSlot, h]

@[simp] theorem State.updSlot_modUpdSlot_same (s : State) (k : Nat) (f : UpdSlot → UpdSlot) :
    (s.modUpdSlot k f).updSlot k = f (s.updSlot k) :=
  tgetD_tmod_same s.upd.progs k {} f

theorem State.updSlot_modUpdSlot_other (s : State) {k j : Nat} (f : UpdSlot → UpdSlot) (h : j ≠ k) :
    (s.modUpdSlot k f).updSlot j = s.updSlot j :=
  tgetD_tmod_other s.upd.progs {} {} f h

@[simp] theorem State.modUpdSlot_work (s : State) (k : Nat) (f : UpdSlot → UpdSlot) :
    (s.modUpdSlot k f).upd.work = s.upd.work := rfl

/-- The state in which a change of a target's programme waits for the grove's next open (R511): `none` is its end. -/
def State.awaits (s : State) (k : Nat) (p : Option UpdProg) : State := s.modUpdSlot k fun x => { x with next := some p }

/-- What waits for the next open changes the target's pending programme only. -/
theorem State.awaits_frame {s t : State} (h : t.upd = s.upd) (k : Nat) (p : Option UpdProg) :
    ((t.awaits k p).updSlot k).next = some p ∧ ((t.awaits k p).updSlot k).cur = (s.updSlot k).cur ∧
      (∀ j, j ≠ k → (t.awaits k p).updSlot j = s.updSlot j) ∧ (t.awaits k p).upd.work = s.upd.work ∧
      (t.awaits k p).mem = t.mem := by
  refine ⟨?_, ?_, fun j hj => ?_, ?_, rfl⟩
  · simp [State.awaits]
  · simp [State.awaits, State.updSlot_congr h]
  · rw [State.awaits, State.updSlot_modUpdSlot_other t _ hj, State.updSlot_congr h]
  · simp [State.awaits, h]

/-! ## Records of the update units -/

theorem regAddr_updFault (die : Nat) : regAddr .UPD_FAULT_LAST [die] = 0x500400 + 0x80000 * die := by
  simp [regAddr, regDesc]

theorem regAddr_rowBuf (die g : Nat) : regAddr .UPD_ROWBUF [die, g] = 0x500000 + (0x80000 * die + 8 * g) := by
  simp [regAddr, regDesc]

theorem State.updRecord_noted {s0 s : State} (sev : Sev) (die code g kind target item : Nat) (h : Noted s0 s) :
    Noted s0 (s.updRecord sev die code g kind target item) := by
  unfold State.updRecord
  exact State.record_noted _ _ _ _ _ _ (State.putReg_noted _ _ _ h)

/-- With room in the log, a contained record of an update unit is its last. -/
theorem State.updRecord_contained (s : State) (die code g kind target item : Nat) (h : s.logRoom = true) :
    ∃ r : LogRec, (s.updRecord .contained die code g kind target item).lastRecord = some r ∧ r.src = .upd ∧
      r.sev = .contained ∧ r.code = code := by
  have hhead : regAddr .WCH_LOG_HEAD [] = 0x30000 := by decide
  have htail : regAddr .WCH_LOG_TAIL [] = 0x30008 := by decide
  refine ⟨_, State.lastRecord_record _ _ _ _ _ _ _ rfl ?_, rfl, rfl, rfl⟩
  rwa [State.logRoom_putReg _ (by rw [hhead, regAddr_updFault]; omega) (by rw [htail, regAddr_updFault]; omega)]

/-- A record of an update unit leaves every row buffer's register. -/
theorem State.getReg_rowBuf_updRecord (s : State) (sev : Sev) (die code grove kind target item : Nat) {g : Nat}
    (hg : g < 16) :
    (s.updRecord sev die code grove kind target item).getReg .UPD_ROWBUF [die, g] = s.getReg .UPD_ROWBUF [die, g] := by
  have hplain : plainOff (regAddr .UPD_ROWBUF [die, g]) = true := plainOff_of_gt (by rw [regAddr_rowBuf]; omega)
  have hne : regAddr .UPD_ROWBUF [die, g] ≠ regAddr .UPD_FAULT_LAST [die] := by
    rw [regAddr_rowBuf, regAddr_updFault]; omega
  exact (State.getReg_record _ _ _ _ _ _ _ rfl hplain).trans (State.getReg_putReg_other _ _ hne)

/-! ## The commands run while the islands run -/

section
variable {s : State} (hrun : s.islandsRun = true)
include hrun

theorem exec_updLoad (q i : Nat) : exec (.updLoad q i) s = .next (s.updLoad q i) :=
  congrArg _ (State.onDie_of_islandsRun hrun _)

theorem exec_updDrop (q i : Nat) : exec (.updDrop q i) s = .next (s.updDrop q i) :=
  congrArg _ (State.onDie_of_islandsRun hrun _)

theorem exec_updConst (q i : Nat) : exec (.updConst q i) s = .next (s.updConst q i) :=
  congrArg _ (State.onDie_of_islandsRun hrun _)

theorem exec_updRowbufWrite (die g : Nat) (v : Word) :
    exec (.updRowbufWrite die g v) s = .next (s.rowBufWrite die g v) :=
  congrArg _ (State.onDie_of_islandsRun hrun _)

end

/-! ## UPD_LOAD -/

/-- A programme that passes its checks waits for the next open, unless the die is full and holds none of its kind and
target. -/
theorem State.updLoad_checked {s s1 s2 : State} {q i k : Nat} {c : Cmd} {b0 b : List Byte} {p : UpdProg}
    (hrow : s.ofRow q i 5 1 = some c) (hrest : c.restZero [(8, 8)] = true) (hva : c.arg 8 8 < 2 ^ 48)
    (halign : c.arg 8 8 % 64 = 0) (hhead : (s.start q i).readVa c.grove (c.arg 8 8) 128 = (s1, .ok, b0))
    (hn : leAt b0 6 1 ≤ 16) (hread : s1.readVa c.grove (c.arg 8 8) (128 + 8 * leAt b0 6 1) = (s2, .ok, b))
    (hparse : parseUpd c.grove c.gen b = (true, p)) (hplaces : s2.updPlaces (dieOfQueue q) c.grove p = true)
    (hk : k = updKey (dieOfQueue q) c.grove p.kind p.target) :
    s.updLoad q i =
      if 2048 ≤ s2.updHeld (dieOfQueue q) ∧ (s2.updSlot k).next.getD (s2.updSlot k).cur = none then
        s2.refuseUpd q i 0x03 p.kind p.target
      else
        (s2.awaits k (some p)).complete q i .ok ((s2.awaits k (some p)).updHeld (dieOfQueue q) % 2 ^ 11) := by
  have hbelow : ¬ c.arg 8 8 ≥ 0x1000000000000 := Nat.not_le.mpr hva
  unfold State.updLoad
  cases hnext : (s2.updSlot k).next <;>
    simp [hrow, hrest, hbelow, halign, hhead, hn, hread, hparse, hplaces, ← hk, hnext, State.awaits]

/-! ## UPD_DROP and UPD_CONST -/

/-- UPD_DROP of a target with a programme, in force or pending, stages its end; of one without, nothing. -/
theorem State.updDrop_valid {s : State} {q i k : Nat} {c : Cmd} (hrow : s.ofRow q i 5 2 = some c)
    (hrest : c.restZero [(8, 1), (0x0A, 2)] = true) (hkind : c.arg 8 1 ≤ 1) (htarget : c.arg 0x0A 2 < 4096)
    (hk : k = updKey (dieOfQueue q) c.grove (c.arg 8 1) (c.arg 0x0A 2)) :
    s.updDrop q i =
      (if s.updSlot k = {} then s.start q i else (s.start q i).awaits k none).complete q i .ok 0 := by
  have hslot : (s.start q i).updSlot k = s.updSlot k := State.updSlot_congr (s.start_upd q i) k
  have hempty : s.updSlot k = {} ↔ (s.updSlot k).cur = none ∧ (s.updSlot k).next = none := by
    cases s.updSlot k
    simp
  simp [State.updDrop, hrow, hrest, Nat.not_lt.mpr hkind, Nat.not_le.mpr htarget, ← hk, hslot, hempty, State.awaits]

/-- The constants of a programme with those that a command's mask names replaced by its own (R511). -/
def UpdProg.newConstants (p : UpdProg) (c : Cmd) : List Nat :=
  (List.range 8).map fun j => if (c.arg 0x30 1).testBit j then c.arg (0x10 + 4 * j) 4 else p.constants.getD j 0

theorem UpdProg.getD_newConstants (p : UpdProg) (c : Cmd) {j : Nat} (h : j < 8) :
    (p.newConstants c).getD j 0 =
      if (c.arg 0x30 1).testBit j then c.arg (0x10 + 4 * j) 4 else p.constants.getD j 0 := by
  simp [UpdProg.newConstants, h]

theorem State.updConst_valid {s : State} {q i k : Nat} {c : Cmd} {p : UpdProg} (hrow : s.ofRow q i 5 3 = some c)
    (hrest : c.restZero [(8, 1), (0x0A, 2), (0x10, 32), (0x30, 1)] = true) (hkind : c.arg 8 1 ≤ 1)
    (htarget : c.arg 0x0A 2 < 4096) (hk : k = updKey (dieOfQueue q) c.grove (c.arg 8 1) (c.arg 0x0A 2))
    (hprog : (s.updSlot k).next.getD (s.updSlot k).cur = some p) :
    s.updConst q i =
      ((s.start q i).awaits k (some { p with constants := p.newConstants c })).complete q i .ok 0 := by
  have hslot : (s.start q i).updSlot k = s.updSlot k := State.updSlot_congr (s.start_upd q i) k
  simp [State.updConst, hrow, hrest, Nat.not_lt.mpr hkind, Nat.not_le.mpr htarget, ← hk, hslot, hprog, State.awaits,
    UpdProg.newConstants]

/-! ## UPD_ROWBUF -/

/-- The region that a write describes is one R514 allows: of 2^8 to 2^22 entries, in a bound grove's channels on the
die. -/
def State.rowBufOk (s : State) (die g : Nat) (v : Word) : Prop :=
  8 ≤ wfld v 56 5 ∧ wfld v 56 5 ≤ 22 ∧ (s.grove g).bound = true ∧
    s.localOwned g (wfld v 6 35 * 64) (640 * 2 ^ wfld v 56 5) (some die) = true

theorem State.rowBufWrite_stored {s : State} {die g : Nat} {v : Word} (hbatch : s.batchRuns = false)
    (h : v.getLsbD 63 = false ∨ s.rowBufOk die g v) : s.rowBufWrite die g v = s.softWrite .UPD_ROWBUF [die, g] v := by
  rcases h with hoff | ⟨hlow, hhigh, hbound, howned⟩
  · simp only [State.rowBufWrite, hbatch, hoff, Bool.false_and, Bool.false_eq_true, if_false]
  · simp [State.rowBufWrite, hbatch, hlow, hhigh, hbound, howned]

theorem State.rowBufWrite_refused {s : State} {die g : Nat} {v : Word} (hbatch : s.batchRuns = false)
    (hon : v.getLsbD 63 = true) (h : ¬ s.rowBufOk die g v) :
    s.rowBufWrite die g v = s.updRecord .contained die 0x02 g 0 0 0 := by
  have hbad : (decide (8 ≤ wfld v 56 5) && decide (wfld v 56 5 ≤ 22) && (s.grove g).bound &&
      s.localOwned g (wfld v 6 35 * 64) (640 * 2 ^ wfld v 56 5) (some die)) = false := by
    rw [← Bool.not_eq_true]
    simpa [State.rowBufOk, and_assoc] using h
  simp [State.rowBufWrite, hbatch, hon, hbad]

/-- Settles O40: each of the three commands stages one change of its target's slot (`State.awaits`) or its record alone,
and a write of UPD_ROWBUF is a software write or its record alone. -/
theorem updateUnits : Obligations.UpdateUnits := by
  unfold Obligations.UpdateUnits
  refine ⟨?commands, fun s die g v hrun hbatch _ hg => ⟨fun hok => ?stored, fun hon hbad hlog => ?refused⟩⟩
  case commands =>
    rintro s s1 s2 q i g k va n kind target c b0 b p hrun rfl rfl
    refine ⟨?load, ?_⟩
    case load =>
      rintro hrow hrest hlt halign hhead rfl hle hread hparse hplaces hk
      have hupd : s2.upd = s.upd := (Noted.of_readVa hread).upd.trans (Noted.of_readVa hhead).upd
      have hload := State.updLoad_checked hrow hrest hlt halign hhead hle hread hparse hplaces hk
      refine ⟨fun hroom => ?_, fun hfull hcur hnext hlog => ?_⟩
      · rw [if_neg fun hfull => absurd hfull.1 (Nat.not_le.mpr hroom)] at hload
        exact ⟨_, (exec_updLoad hrun q i).trans (congrArg _ hload), State.awaits_frame hupd k _⟩
      · rw [if_pos ⟨hfull, by simp [hcur, hnext]⟩] at hload
        have hnoted := State.updRecord_noted .contained (dieOfQueue q) 0x03 (s2.qgrove q) p.kind p.target 0 (Noted.refl s2)
        obtain ⟨r, hlast⟩ := s2.updRecord_contained (dieOfQueue q) 0x03 (s2.qgrove q) p.kind p.target 0 hlog
        exact ⟨_, r, (exec_updLoad hrun q i).trans (congrArg _ hload), hnoted.upd, hnoted.mem, hlast⟩
    rintro rfl hkind rfl htarget hk
    refine ⟨fun hrow hrest => ?drop, fun hrow hrest hprog => ?const⟩
    case drop =>
      have hdrop := (exec_updDrop hrun q i).trans (congrArg _ (State.updDrop_valid hrow hrest hkind htarget hk))
      obtain ⟨hnext, hcur, hother, hwork, hmem⟩ := State.awaits_frame (s.start_upd q i) k none
      by_cases hempty : s.updSlot k = {}
      · rw [if_pos hempty] at hdrop
        exact ⟨_, hdrop, rfl, absurd hempty, fun _ _ => rfl, rfl, rfl⟩
      · rw [if_neg hempty] at hdrop
        exact ⟨_, hdrop, hcur, fun _ => hnext, hother, hwork, hmem⟩
    case const =>
      have hconst := State.updConst_valid hrow hrest hkind htarget hk hprog
      obtain ⟨hnext, hcur, hother, hwork, hmem⟩ :=
        State.awaits_frame (s.start_upd q i) k (some { p with constants := p.newConstants c })
      exact ⟨_, _, (exec_updConst hrun q i).trans (congrArg _ hconst), hcur, hnext,
        fun _ hj => p.getD_newConstants c hj, hother, hwork, hmem⟩
  case stored =>
    exact ⟨_, (exec_updRowbufWrite hrun die g v).trans (congrArg _ (State.rowBufWrite_stored hbatch hok)),
      s.getReg_softWrite_same _ _ v, fun _ => s.tget_regs_softWrite_other _ _ v, s.softWrite_frame _ _ v⟩
  case refused =>
    have hnot : ¬ s.rowBufOk die g v := by
      rintro ⟨hlow, hhigh, -, howned⟩
      simp only [howned, Bool.true_eq_false, or_false] at hbad
      omega
    have hnoted := State.updRecord_noted .contained die 0x02 g 0 0 0 (Noted.refl s)
    obtain ⟨r, hlast, hsrc, hsev, hcode⟩ := s.updRecord_contained die 0x02 g 0 0 0 hlog
    exact ⟨_, r, (exec_updRowbufWrite hrun die g v).trans (congrArg _ (State.rowBufWrite_refused hbatch hon hnot)),
      s.getReg_rowBuf_updRecord _ _ _ _ _ _ _ hg, hlast, hsrc, hsev, hcode, hnoted.mem, hnoted.upd⟩

end Sys2Proof.Machine
end

section
/-! PROOFS. Records and messages leave the collective engines, memory, the bindings and the device number. -/
namespace Sys2Proof.Machine

/-- Every register but the first two lies above GLB_DEVNUM. -/
theorem devnum_lt_regAddr {r : Reg} (ix : List Nat) (h : r ≠ .GLB_IDENT ∧ r ≠ .GLB_DEVNUM) :
    regAddr .GLB_DEVNUM [] < regAddr r ix := by
  have hbase : 8 < (regDesc r).base := by
    revert h
    cases r <;> decide
  exact Nat.lt_of_lt_of_le hbase (Nat.le_add_right _ _)

/-- What writing a record or sending a message leaves as it is: the collective engines, memory, the bindings and the
device number. -/
def State.sendFrame (s : State) : CollState × MemState × Tbl Grove × Nat := (s.col, s.mem, s.grv.groves, s.devnum)

theorem State.sendFrame_each {α : Type} {f : State → α → State} (h : ∀ b x, (f b x).sendFrame = b.sendFrame) (s : State)
    (l : List α) : (s.each l f).sendFrame = s.sendFrame := by
  unfold State.each
  induction l generalizing s with
  | nil => rfl
  | cons x l ih => exact (ih _).trans (h s x)

section
variable (s : State)

/-! ## Registers, interrupts and the watch -/

@[simp] theorem State.sendFrame_putReg {r : Reg} (ix : List Nat) (v : Word)
    (h : r ≠ .GLB_IDENT ∧ r ≠ .GLB_DEVNUM) : (s.putReg r ix v).sendFrame = s.sendFrame := by
  have hne : regAddr .GLB_DEVNUM [] ≠ regAddr r ix := Nat.ne_of_lt (devnum_lt_regAddr ix h)
  simp [State.sendFrame, State.devnum, State.regFld, State.getReg_putReg_other _ _ hne]

@[simp] theorem State.sendFrame_putFld {r : Reg} (ix : List Nat) (lo w x : Nat)
    (h : r ≠ .GLB_IDENT ∧ r ≠ .GLB_DEVNUM) : (s.putFld r ix lo w x).sendFrame = s.sendFrame :=
  s.sendFrame_putReg ix _ h

theorem State.sendFrame_setWch (w : WatchState) : { s with wch := w }.sendFrame = s.sendFrame := rfl

@[simp] theorem State.sendFrame_notify (sev : Sev) : (s.notify sev).sendFrame = s.sendFrame := by
  unfold State.notify
  split <;> rfl

@[simp] theorem State.sendFrame_alerted (sev : Sev) : (s.alerted sev).sendFrame = s.sendFrame := by
  unfold State.alerted
  split <;> rfl

@[simp] theorem State.sendFrame_keepFatal (r : LogRec) : (s.keepFatal r).sendFrame = s.sendFrame := by
  unfold State.keepFatal
  split <;> rfl

@[simp] theorem State.sendFrame_logged (r : LogRec) : (s.logged r).sendFrame = s.sendFrame :=
  State.sendFrame_putFld _ _ _ _ _ (by decide)

@[simp] theorem State.sendFrame_logRec (r : LogRec) : (s.logRec r).sendFrame = s.sendFrame := by
  cases hroom : s.logRoom
  · have hfull := of_decide_eq_false hroom
    unfold State.logRec
    rw [if_pos (Nat.not_lt.mp hfull), State.sendFrame_keepFatal, State.sendFrame_setWch]
    simp
  · rw [State.logRec_room s r hroom]
    simp

@[simp] theorem State.sendFrame_addHeat (w g : Nat) : (s.addHeat w g).sendFrame = s.sendFrame := by
  unfold State.addHeat
  extract_lets
  split
  · simp only [State.sendFrame_logRec, State.sendFrame_putFld, ne_eq, reduceCtorEq, not_false_eq_true, and_self]
    rfl
  · rfl

@[simp] theorem State.sendFrame_heatOn (w : Nat) (gs : List Nat) : (s.heatOn w gs).sendFrame = s.sendFrame :=
  State.sendFrame_each (fun b g => b.sendFrame_addHeat w g) s gs

@[simp] theorem State.sendFrame_record (src : Src) (sev : Sev) (die code : Nat) (grove : Option Nat) (detail : Nat) :
    (s.record src sev die code grove detail).sendFrame = s.sendFrame := by
  unfold State.record
  dsimp only
  split <;> simp

@[simp] theorem State.sendFrame_bump {r : Reg} (ix : List Nat) (n : Nat) (h : r ≠ .GLB_IDENT ∧ r ≠ .GLB_DEVNUM) :
    (s.bump r ix n).sendFrame = s.sendFrame := by
  unfold State.bump
  dsimp only
  split <;> simp [h]

/-! ## Ports -/

@[simp] theorem State.sendFrame_emit (m : Msg) : (s.emit m).sendFrame = s.sendFrame := rfl

@[simp] theorem State.sendFrame_modPort (p : Nat) (f : Port → Port) : (s.modPort p f).sendFrame = s.sendFrame := rfl

@[simp] theorem State.sendFrame_modBudget (d g a : Nat) (f : Budget → Budget) :
    (s.modBudget d g a f).sendFrame = s.sendFrame := rfl

@[simp] theorem State.sendFrame_bumpPort (p : Nat) {t b : Reg} (n : Nat) (ht : t ≠ .GLB_IDENT ∧ t ≠ .GLB_DEVNUM)
    (hb : b ≠ .GLB_IDENT ∧ b ≠ .GLB_DEVNUM) : (s.bumpPort p t b n).sendFrame = s.sendFrame := by
  have hreg : portReg p t b ≠ .GLB_IDENT ∧ portReg p t b ≠ .GLB_DEVNUM := by
    unfold portReg
    split <;> assumption
  unfold State.bumpPort
  split
  · rfl
  · exact s.sendFrame_bump _ n hreg

@[simp] theorem State.sendFrame_lnkRecord (sev : Sev) (code p lane device : Nat) (grove : Option Nat) :
    (s.lnkRecord sev code p lane device grove).sendFrame = s.sendFrame := by
  simp [State.lnkRecord]

@[simp] theorem State.sendFrame_transmit (p : Nat) (f : LFlit) : (s.transmit p f).sendFrame = s.sendFrame := by
  unfold State.transmit
  dsimp only
  split <;> simp

theorem State.sendFrame_foldl {α β : Type} {f : State × β → α → State × β}
    (h : ∀ q x, (f q x).1.sendFrame = q.1.sendFrame) (q : State × β) (l : List α) :
    (l.foldl f q).1.sendFrame = q.1.sendFrame := by
  induction l generalizing q with
  | nil => rfl
  | cons x l ih => exact (ih _).trans (h q x)

@[simp] theorem State.sendFrame_pump (p : Nat) : (s.pump p).sendFrame = s.sendFrame := by
  unfold State.pump
  split
  · rfl
  · refine (State.sendFrame_foldl (fun q f => ?_) _ _).trans (by simp)
    dsimp only
    split <;> simp

@[simp] theorem State.sendFrame_enqueue (p : Nat) (f : LFlit) : (s.enqueue p f).sendFrame = s.sendFrame := by
  simp [State.enqueue]

@[simp] theorem State.sendFrame_dropUnreachable (p dest : Nat) :
    (s.dropUnreachable p dest).sendFrame = s.sendFrame := by
  simp [State.dropUnreachable]

@[simp] theorem State.sendFrame_sendDir (d : Nat) (f : LFlit) : (s.sendDir d f).sendFrame = s.sendFrame := by
  unfold State.sendDir
  dsimp only
  split
  · simp
  · split <;> simp

@[simp] theorem State.sendFrame_sendTrunk (f : LFlit) (arr at_ : Nat) :
    (s.sendTrunk f arr at_).sendFrame = s.sendFrame := by
  unfold State.sendTrunk
  split
  · rfl
  · simp
  · split <;> simp

@[simp] theorem State.sendFrame_sendBranch (f : LFlit) : (s.sendBranch f).sendFrame = s.sendFrame := by
  unfold State.sendBranch
  dsimp only
  split
  · simp
  · split <;> simp

/-! ## Messages -/

@[simp] theorem State.sendFrame_spend (d g a n : Nat) (again : Bool) :
    (s.spend d g a n again).1.sendFrame = s.sendFrame := by
  unfold State.spend
  dsimp only
  repeat' split
  all_goals simp

@[simp] theorem State.sendFrame_sendNow (m : HeldMsg) : (s.sendNow m).sendFrame = s.sendFrame := by
  unfold State.sendNow
  split
  · simp
  · refine State.sendFrame_each (fun b f => ?_) _ _
    split <;> simp

@[simp] theorem State.sendFrame_sendMsg (die : Nat) (trunk : Bool) (dest opcode grove : Nat) (payload : List Byte)
    (address : Nat) : (s.sendMsg die trunk dest opcode grove payload address).sendFrame = s.sendFrame := by
  unfold State.sendMsg
  extract_lets vc m r
  have hspend : r.1.sendFrame = s.sendFrame := s.sendFrame_spend ..
  split
  · exact s.sendFrame_sendNow m
  · split
    · exact (r.1.sendFrame_sendNow m).trans hspend
    · exact hspend

end
end Sys2Proof.Machine
end

section
/-! PROOFS. What an engine at work for a grove leaves of the steps: memory and the schedulers. -/
namespace Sys2Proof.Machine

/-- A step machine but for the marks that engines set while its step is open or commits: a fault, merges that wait or
are done, the VOIDs passed on, a staged set to apply. -/
def GroveStep.core (x : GroveStep) : GroveStep :=
  { x with faulted := false, earlyMerges := [], merged := false, origins := [], stageApply := none }

/-- What the engines at work for a grove leave as it is: the step machines of the other groves, the core of the grove's
own, the bindings and the device number. -/
def State.frame (s : State) (g : Nat) : (Nat → GroveStep) × Tbl Grove × Nat :=
  (fun h => if h = g then (s.step_ h).core else s.step_ h, s.grv.groves, s.devnum)

/-! ## How a frame is kept -/

theorem State.step_congr {s t : State} (h : t.col.steps = s.col.steps) (g : Nat) : t.step_ g = s.step_ g := by
  simp [State.step_, h]

theorem State.frame_congr {s t : State} (h : t.sendFrame = s.sendFrame) (g : Nat) : t.frame g = s.frame g := by
  simp only [State.sendFrame, Prod.mk.injEq] at h
  obtain ⟨hcol, -, hgroves, hdev⟩ := h
  simp [State.frame, State.step_congr (congrArg CollState.steps hcol), hgroves, hdev]

@[simp] theorem State.frame_ite {c : Prop} [Decidable c] (a b : State) (g : Nat) :
    (if c then a else b).frame g = if c then a.frame g else b.frame g := apply_ite (State.frame · g) c a b

theorem State.frame_each {α : Type} {g : Nat} {f : State → α → State} (h : ∀ b x, (f b x).frame g = b.frame g)
    (s : State) (l : List α) : (s.each l f).frame g = s.frame g := by
  unfold State.each
  induction l generalizing s with
  | nil => rfl
  | cons x l ih => exact (ih _).trans (h s x)

theorem State.frame_foldl {α β : Type} {g : Nat} {f : State × β → α → State × β}
    (h : ∀ q x, (f q x).1.frame g = q.1.frame g) (q : State × β) (l : List α) :
    (l.foldl f q).1.frame g = q.1.frame g := by
  induction l generalizing q with
  | nil => rfl
  | cons x l ih => exact (ih _).trans (h q x)

section
variable (s : State) (g : Nat)

/-! ## Records and messages -/

@[simp] theorem State.frame_putReg {r : Reg} (ix : List Nat) (v : Word) (h : r ≠ .GLB_IDENT ∧ r ≠ .GLB_DEVNUM) :
    (s.putReg r ix v).frame g = s.frame g := State.frame_congr (s.sendFrame_putReg ix v h) g

@[simp] theorem State.frame_putFld {r : Reg} (ix : List Nat) (lo w x : Nat) (h : r ≠ .GLB_IDENT ∧ r ≠ .GLB_DEVNUM) :
    (s.putFld r ix lo w x).frame g = s.frame g := State.frame_congr (s.sendFrame_putFld ix lo w x h) g

@[simp] theorem State.frame_bump {r : Reg} (ix : List Nat) (n : Nat) (h : r ≠ .GLB_IDENT ∧ r ≠ .GLB_DEVNUM) :
    (s.bump r ix n).frame g = s.frame g := State.frame_congr (s.sendFrame_bump ix n h) g

@[simp] theorem State.frame_record (src : Src) (sev : Sev) (die code : Nat) (grove : Option Nat) (detail : Nat) :
    (s.record src sev die code grove detail).frame g = s.frame g :=
  State.frame_congr (s.sendFrame_record src sev die code grove detail) g

@[simp] theorem State.frame_addHeat (w h : Nat) : (s.addHeat w h).frame g = s.frame g :=
  State.frame_congr (s.sendFrame_addHeat w h) g

@[simp] theorem State.frame_heatOn (w : Nat) (gs : List Nat) : (s.heatOn w gs).frame g = s.frame g :=
  State.frame_congr (s.sendFrame_heatOn w gs) g

@[simp] theorem State.frame_staleRecord (src : Src) (die h gen : Nat) (unbound : Bool) :
    (s.staleRecord src die h gen unbound).frame g = s.frame g := s.frame_record g ..

@[simp] theorem State.frame_emit (m : Msg) : (s.emit m).frame g = s.frame g := rfl

@[simp] theorem State.frame_sendBranch (f : LFlit) : (s.sendBranch f).frame g = s.frame g :=
  State.frame_congr (s.sendFrame_sendBranch f) g

@[simp] theorem State.frame_spend (d h a n : Nat) (again : Bool) : (s.spend d h a n again).1.frame g = s.frame g :=
  State.frame_congr (s.sendFrame_spend d h a n again) g

@[simp] theorem State.frame_sendMsg (die : Nat) (trunk : Bool) (dest opcode h : Nat) (payload : List Byte)
    (address : Nat) : (s.sendMsg die trunk dest opcode h payload address).frame g = s.frame g :=
  State.frame_congr (s.sendFrame_sendMsg die trunk dest opcode h payload address) g

@[simp] theorem State.frame_sendNeg (die device h code request : Nat) :
    (s.sendNeg die device h code request).frame g = s.frame g := s.frame_sendMsg g ..

/-! ## Memory -/

@[simp] theorem State.frame_modChannel (c : Nat) (f : Channel → Channel) :
    (s.modChannel c f).frame g = s.frame g := rfl

@[simp] theorem State.frame_putLine (c line : Nat) (bs : List Byte) : (s.putLine c line bs).frame g = s.frame g := rfl

@[simp] theorem State.frame_unsaturate (p : Nat → Bool) : (s.unsaturate p).frame g = s.frame g := rfl

@[simp] theorem State.frame_noteUe (c line : Nat) : (s.noteUe c line).frame g = s.frame g := by
  simp [State.noteUe]

@[simp] theorem State.frame_ueRecord (sev : Sev) (c line : Nat) : (s.ueRecord sev c line).frame g = s.frame g := by
  simp [State.ueRecord]

@[simp] theorem State.frame_evictWcb (c : Nat) (e : WcbEntry) : (s.evictWcb c e).frame g = s.frame g := by
  simp [State.evictWcb]

@[simp] theorem State.frame_flushAdder (c : Nat) (a : Nat × List Byte) :
    (s.flushAdder c a).frame g = s.frame g := rfl

@[simp] theorem State.frame_settleAdder (c line : Nat) : (s.settleAdder c line).frame g = s.frame g := by
  unfold State.settleAdder
  split <;> rfl

@[simp] theorem State.frame_settleWcb (c line : Nat) : (s.settleWcb c line).frame g = s.frame g := by
  unfold State.settleWcb
  split <;> simp

@[simp] theorem State.frame_writeLine (c line pos : Nat) (bs : List Byte) (grove : Nat) :
    (s.writeLine c line pos bs grove).1.frame g = s.frame g := by
  unfold State.writeLine
  dsimp only
  repeat' split
  all_goals simp

@[simp] theorem State.frame_accLine (c line : Nat) (f : List Byte → List Byte) :
    (s.accLine c line f).1.frame g = s.frame g := by
  unfold State.accLine
  dsimp only
  repeat' split
  all_goals simp

@[simp] theorem State.frame_unmappedRecord (p : Party) (o : Nat) : (s.unmappedRecord p o).frame g = s.frame g := by
  simp [State.unmappedRecord]

@[simp] theorem State.frame_readLocal (p : Party) (o n : Nat) : (s.readLocal p o n).1.frame g = s.frame g := by
  unfold State.readLocal
  split <;> simp

@[simp] theorem State.frame_putPage (h o : Nat) (bs : List Byte) : (s.putPage h o bs).frame g = s.frame g := by
  refine State.frame_each (fun b i => ?_) s _
  split <;> simp

@[simp] theorem State.frame_touchWait (h : Nat) : (s.touchWait h).frame g = s.frame g := by
  unfold State.touchWait
  dsimp only
  split
  · split
    · rfl
    · simp only [State.frame_record]
      rw [State.frame_putReg _ _ _ _ (by decide)]
      rfl
  · rfl

theorem State.frame_setKln (k : KilnState) : { s with kln := k }.frame g = s.frame g := rfl

@[simp] theorem State.frame_touchPage (page : Nat) : (s.touchPage page).frame g = s.frame g := by
  unfold State.touchPage
  split
  · rfl
  · split
    · rfl
    · extract_lets die bs free waited old noted kept kln copied touches
      have hwaited : waited.frame g = s.frame g := by simp [waited]
      have htouches : touches.frame g = s.frame g := by
        simp only [touches, State.frame_bump, ne_eq, reduceCtorEq, not_false_eq_true, and_self]
        exact (waited.frame_setKln g _).trans hwaited
      split
      · exact (touches.frame_putPage g ..).trans htouches
      · exact htouches

@[simp] theorem State.frame_touch (o : Nat) : (s.touch o).frame g = s.frame g := by
  simp [State.touch]

@[simp] theorem State.frame_writeFails (p : Party) (o : Nat) (r : Acc × Nat × Nat) :
    (s.writeFails p o r).1.frame g = s.frame g := by
  unfold State.writeFails
  split <;> simp

@[simp] theorem State.frame_writeLocal (p : Party) (o : Nat) (bs : List Byte) :
    (s.writeLocal p o bs).1.frame g = s.frame g := by
  unfold State.writeLocal
  split
  · refine State.frame_foldl (fun q k => ?_) _ _
    split <;> simp
  · simp

@[simp] theorem State.frame_readVa (h va n : Nat) : (s.readVa h va n).1.frame g = s.frame g := by
  unfold State.readVa
  split
  · rfl
  · refine State.frame_foldl (fun q p => ?_) _ _
    split <;> simp

@[simp] theorem State.frame_checkWriteVa (h va n : Nat) : (s.checkWriteVa h va n).1.frame g = s.frame g := by
  unfold State.checkWriteVa
  split
  · rfl
  · refine State.frame_foldl (fun q p => ?_) _ _
    split
    · split <;> simp
    · rfl

@[simp] theorem State.frame_writeVa (h va : Nat) (bs : List Byte) : (s.writeVa h va bs).1.frame g = s.frame g := by
  unfold State.writeVa
  split
  · rfl
  · refine State.frame_foldl (fun q p => ?_) _ _
    split <;> simp

/-! ## Adders -/

@[simp] theorem State.frame_saturate (c line lineOff o : Nat) : (s.saturate c line lineOff o).frame g = s.frame g := by
  simp only [State.saturate, State.frame_record]
  rw [State.frame_bump _ _ _ _ (by decide)]
  rfl

@[simp] theorem State.frame_accAdd (c line lineOff : Nat) (op : AccOp) (adds : List (Nat × Nat)) :
    (s.accAdd c line lineOff op adds).1.frame g = s.frame g := by
  unfold State.accAdd
  extract_lets settled live sats r
  have hr : r.1.frame g = s.frame g := by simp [r, settled]
  split
  · split
    · exact hr
    · exact (State.frame_each (fun b o => b.frame_saturate g ..) _ _).trans hr
  · exact hr

@[simp] theorem State.frame_accumulateBy (p : Party) (op : AccOp) (off mask : Nat) (values : List Nat) :
    (s.accumulateBy p op off mask values).1.frame g = s.frame g := by
  unfold State.accumulateBy
  refine State.frame_foldl (fun q l => ?_) _ _
  split
  · dsimp only
    split <;> simp
  · simp
  · rfl

@[simp] theorem State.frame_accumulate (h : Nat) (op : AccOp) (off mask : Nat) (values : List Nat) :
    (s.accumulate h op off mask values).1.frame g = s.frame g := s.frame_accumulateBy g ..

/-! ## Queues -/

@[simp] theorem State.frame_modQueue (q : Nat) (f : Queue → Queue) : (s.modQueue q f).frame g = s.frame g := rfl

@[simp] theorem State.frame_interrupt (core : Nat) : (s.interrupt core).frame g = s.frame g := rfl

@[simp] theorem State.frame_complete (q i : Nat) (st : Status) (result : Nat) :
    (s.complete q i st result).frame g = s.frame g := by
  unfold State.complete
  split
  · rfl
  · simp

/-! ## Schedulers -/

@[simp] theorem State.frame_modKnot (k : Nat) (f : Knot → Knot) : (s.modKnot k f).frame g = s.frame g := rfl

@[simp] theorem State.frame_modSlot (key : Nat) (f : Slot → Slot) : (s.modSlot key f).frame g = s.frame g := rfl

@[simp] theorem State.frame_withdraw (p : Nat → Bool) : (s.withdraw p).frame g = s.frame g := rfl

@[simp] theorem State.frame_knotOverflow (k tile : Nat) : (s.knotOverflow k tile).frame g = s.frame g := by
  simp [State.knotOverflow]

@[simp] theorem State.frame_knotType (k tile : Nat) : (s.knotType k tile).frame g = s.frame g := by
  simp [State.knotType]

@[simp] theorem State.frame_endTask (key : Nat) : (s.endTask key).frame g = s.frame g := by
  unfold State.endTask
  split <;> simp

@[simp] theorem State.frame_request (key : Nat) (x : Slot) : (s.request key x).frame g = s.frame g := by
  unfold State.request
  dsimp only
  repeat' split
  all_goals rfl

@[simp] theorem State.frame_grant (k fuel : Nat) : (s.grant k fuel).frame g = s.frame g := by
  induction fuel generalizing s with
  | zero => rfl
  | succ fuel ih =>
    unfold State.grant
    dsimp only
    repeat' split
    all_goals simp [ih]

@[simp] theorem State.frame_readDesc (t : Task) : (s.readDesc t).1.frame g = s.frame g := by
  unfold State.readDesc
  dsimp only
  repeat' split
  all_goals simp

@[simp] theorem State.frame_tilRecord (tile slot code h detail : Nat) :
    (s.tilRecord tile slot code h detail).frame g = s.frame g := by
  simp [State.tilRecord]

@[simp] theorem State.frame_makeReady (key : Nat) (x : Slot) : (s.makeReady key x).frame g = s.frame g := by
  have hread := (s.withdraw (· == key)).frame_readDesc g x.task
  unfold State.makeReady
  dsimp only
  split
  · rfl
  · split <;> rename_i heq <;> rw [heq] at hread <;> simpa using hread

@[simp] theorem State.frame_judgeTypes (key : Nat) (x : Slot) : (s.judgeTypes key x).frame g = s.frame g := by
  unfold State.judgeTypes
  split <;> simp

@[simp] theorem State.frame_judge : s.judge.frame g = s.frame g := by
  unfold State.judge
  extract_lets typed asked granted again counted
  have htyped : typed.frame g = s.frame g := State.frame_each (fun b p => b.frame_judgeTypes g ..) _ _
  have hasked : asked.frame g = typed.frame g := State.frame_each (fun b p => b.frame_request g ..) _ _
  have hgranted : granted.frame g = asked.frame g := State.frame_each (fun b p => b.frame_grant g ..) _ _
  have hagain : again.frame g = granted.frame g := State.frame_each (fun b p => b.frame_request g ..) _ _
  refine (State.frame_each (fun b p => ?_) _ _).trans (hagain.trans (hgranted.trans (hasked.trans htyped)))
  simp

@[simp] theorem State.frame_engineSignal (k a : Nat) : (s.engineSignal k a).frame g = s.frame g := by
  unfold State.engineSignal
  split <;> simp

@[simp] theorem State.frame_applySignals (key : Nat) (t : Task) : (s.applySignals key t).1.frame g = s.frame g := by
  unfold State.applySignals
  split
  · simp
  · simp
  · show State.frame (List.foldl _ s t.signals) g = _
    refine State.frame_each (fun b w => ?_) s _
    split <;> rfl

@[simp] theorem State.frame_releaseHeld (fk fuel : Nat) : (s.releaseHeld fk fuel).frame g = s.frame g := by
  induction fuel generalizing s with
  | zero => rfl
  | succ fuel ih =>
    unfold State.releaseHeld
    split
    · rfl
    · dsimp only
      split
      · exact (ih _).trans (s.frame_applySignals g ..)
      · simp

@[simp] theorem State.frame_release (key : Nat) (t : Task) : (s.release key t).frame g = s.frame g := by
  simp [State.release]

@[simp] theorem State.frame_unstall : s.unstall.frame g = s.frame g :=
  State.frame_each (fun b _ => b.frame_release g ..) s _

@[simp] theorem State.frame_openShadows (h : Nat) : (s.openShadows h).frame g = s.frame g := rfl

@[simp] theorem State.frame_discardTasks (p : Nat → Slot → Bool) (count : Bool) :
    (s.discardTasks p count).frame g = s.frame g := by
  unfold State.discardTasks
  dsimp only
  split
  · refine State.frame_each (fun b d => ?_) _ _
    simp
  · rfl

@[simp] theorem State.frame_rewindSched (h n : Nat) : (s.rewindSched h n).frame g = s.frame g := by
  simp only [State.rewindSched, State.frame_judge, State.frame_unstall]
  exact s.frame_discardTasks g ..

@[simp] theorem State.frame_voidInjects (h n : Nat) : (s.voidInjects h n).frame g = s.frame g := by
  refine State.frame_each (fun b p => ?_) s _
  simp only [State.frame_ite, State.frame_complete, ite_eq_right_iff]
  exact fun _ => rfl

end
end Sys2Proof.Machine
end

section
/-! PROOFS. What the sampler, the embedding directory and the gather units leave of the steps. -/
namespace Sys2Proof.Machine

section
variable (s : State) (g : Nat)

/-! ## The sampler -/

@[simp] theorem State.frame_clearHists (h : Nat) : (s.clearHists h).frame g = s.frame g := rfl

@[simp] theorem State.frame_modProg (k : Nat) (f : Prog → Prog) : (s.modProg k f).frame g = s.frame g := rfl

@[simp] theorem State.frame_modLane (l : Nat) (f : LaneSeed → LaneSeed) : (s.modLane l f).frame g = s.frame g := rfl

@[simp] theorem State.frame_dropLanes (p : Nat → LaneSeed → Bool) : (s.dropLanes p).frame g = s.frame g := rfl

theorem State.frame_setSmp (x : SampState) : { s with smp := x }.frame g = s.frame g := rfl

@[simp] theorem State.frame_smpRecord (k code h seed slot hop answer : Nat) :
    (s.smpRecord k code h seed slot hop answer).frame g = s.frame g := by
  simp [State.smpRecord]

@[simp] theorem State.frame_smpFault (k code seed slot hop answer : Nat) :
    (s.smpFault k code seed slot hop answer).frame g = s.frame g := by
  rw [State.smpFault, State.frame_dropLanes, State.frame_modProg, State.frame_smpRecord]

@[simp] theorem State.frame_laneFault (x : LaneSeed) (slot code answer : Nat) :
    (s.laneFault x slot code answer).frame g = s.frame g := s.frame_smpFault g ..

@[simp] theorem State.frame_resolve (d : ProgDesc) (v : Nat) : (s.resolve d v).1.frame g = s.frame g := by
  have hgraph := s.frame_readVa g d.grove d.graph 64
  unfold State.resolve
  split
  case h_1 t b heq =>
    rw [heq] at hgraph
    dsimp only
    split
    · exact hgraph
    · split
      · exact hgraph
      · have htable := (t.frame_readVa g d.grove (leAt b 8 8 + 8 * (v / 2 ^ leAt b 0 1)) 8).trans hgraph
        split <;> rename_i heq' <;> rw [heq'] at htable
        · repeat' split
          all_goals exact htable
        · exact htable
  case h_2 heq =>
    rw [heq] at hgraph
    exact hgraph

@[simp] theorem State.frame_sendAdj (die h device opcode : Nat) (payload : List Byte) :
    (s.sendAdj die h device opcode payload).frame g = s.frame g := by
  simp [State.sendAdj]

@[simp] theorem State.frame_issueParent (lane slot : Nat) : (s.issueParent lane slot).frame g = s.frame g := by
  unfold State.issueParent
  split
  · rfl
  · split
    · rename_i d t hdesc htwig
      have hresolve := s.frame_resolve g d t.vertex
      dsimp only
      split <;> rename_i heq <;> rw [heq] at hresolve
      · simpa using hresolve
      · simpa using hresolve
      · split
        · simpa using hresolve
        · simp only [State.frame_sendAdj, State.frame_modLane]
          exact hresolve
    · rfl

@[simp] theorem State.frame_pumpLane (lane fuel : Nat) : (s.pumpLane lane fuel).frame g = s.frame g := by
  induction fuel generalizing s with
  | zero => rfl
  | succ fuel ih =>
    unfold State.pumpLane
    repeat' split
    all_goals simp [ih]

@[simp] theorem State.frame_startSeed (lane k : Nat) : (s.startSeed lane k).frame g = s.frame g := by
  unfold State.startSeed
  extract_lets p i dealt
  split
  · rfl
  · rename_i d _
    extract_lets cursor ix
    have hread := dealt.frame_readVa g d.grove (d.seedList + 16 * ix) 16
    split <;> rename_i heq <;> rw [heq] at hread
    · exact (State.frame_pumpLane _ g lane 1).trans hread
    · exact (State.frame_smpFault _ g ..).trans hread

@[simp] theorem State.frame_dealWith (die fuel : Nat) : (s.dealWith die fuel).frame g = s.frame g := by
  induction fuel generalizing s with
  | zero => rfl
  | succ fuel ih =>
    unfold State.dealWith
    split <;> simp [ih]

@[simp] theorem State.frame_dealSeeds (die : Nat) : (s.dealSeeds die).frame g = s.frame g := s.frame_dealWith g ..

@[simp] theorem State.frame_openSampler (h n : Nat) : (s.openSampler h n).frame g = s.frame g := by
  unfold State.openSampler
  refine (State.frame_each (fun b k => ?_) _ _).trans (s.frame_setSmp g _)
  dsimp only
  split
  · rfl
  · split
    · rfl
    · simp

@[simp] theorem State.frame_runSampler (h : Nat) : (s.runSampler h).frame g = s.frame g := by
  simp only [State.runSampler, State.frame_dealSeeds]
  refine State.frame_each (fun b k => ?_) s _
  simp

@[simp] theorem State.frame_voidSampler (h : Nat) : (s.voidSampler h).frame g = s.frame g := by
  unfold State.voidSampler
  refine (State.frame_each (fun b k => ?_) _ _).trans (s.frame_dropLanes g _)
  simp

@[simp] theorem State.frame_commitSampler (h : Nat) : (s.commitSampler h).frame g = s.frame g := by
  refine State.frame_each (fun b k => ?_) s _
  simp

/-! ## The embedding directory -/

@[simp] theorem State.frame_modEmb (f : EmbState → EmbState) : (s.modEmb f).frame g = s.frame g := rfl

@[simp] theorem State.frame_modTable (n : Nat) (f : TableSlot → TableSlot) : (s.modTable n f).frame g = s.frame g := rfl

@[simp] theorem State.frame_addEntry (e : RowEntry) : (s.addEntry e).frame g = s.frame g := rfl

@[simp] theorem State.frame_dropEntries (p : RowEntry → Bool) : (s.dropEntries p).frame g = s.frame g := rfl

@[simp] theorem State.frame_embRecord (die code h t r : Nat) (sev : Sev) :
    (s.embRecord die code h t r sev).frame g = s.frame g := by
  simp [State.embRecord]

@[simp] theorem State.frame_updRecord (sev : Sev) (die code h kind target item : Nat) :
    (s.updRecord sev die code h kind target item).frame g = s.frame g := by
  simp [State.updRecord]

@[simp] theorem State.frame_regraftLate (die h t r : Nat) : (s.regraftLate die h t r).frame g = s.frame g := by
  simp [State.regraftLate]

@[simp] theorem State.frame_findWay (h t : Nat) (d : TableDesc) (r : Nat) :
    (s.findWay h t d r).1.frame g = s.frame g := s.frame_readVa g ..

@[simp] theorem State.frame_rowVa (h t : Nat) (d : TableDesc) (r : Nat) (p : Place) :
    (s.rowVa h t d r p).1.frame g = s.frame g := by
  cases p
  · exact s.frame_findWay g h t d r
  · rfl

@[simp] theorem State.frame_homeOf (h t : Nat) (d : TableDesc) (r : Nat) :
    (s.homeOf h t d r).1.frame g = s.frame g := by
  unfold State.homeOf
  split
  · rfl
  · exact s.frame_readVa g ..

@[simp] theorem State.frame_freeWay (h t : Nat) (d : TableDesc) (r : Nat) :
    (s.freeWay h t d r).frame g = s.frame g := by
  have hway := s.frame_findWay g h t d r
  unfold State.freeWay
  split <;> rename_i heq <;> rw [heq] at hway
  · simpa using hway
  · exact hway

@[simp] theorem State.frame_readRow (h t : Nat) (d : TableDesc) (r : Nat) (p : Place) (first count : Nat) :
    (s.readRow h t d r p first count).1.frame g = s.frame g := by
  have hva := s.frame_rowVa g h t d r p
  unfold State.readRow
  split <;> rename_i heq <;> rw [heq] at hva
  · simpa using hva
  · exact hva

@[simp] theorem State.frame_forwardReq (o : Origin) (device opcode : Nat) (payload : List Byte) :
    (s.forwardReq o device opcode payload).frame g = s.frame g :=
  State.frame_each (fun b _ => b.frame_sendBranch g _) s _

@[simp] theorem State.frame_serveRow (die : Nat) (o : Origin) (r : RowRead) (d : TableDesc) :
    (s.serveRow die o r d).frame g = s.frame g := by
  unfold State.serveRow
  extract_lets h answer
  have hanswer : ∀ p, (answer s p).frame g = s.frame g := by
    intro p
    have hread := s.frame_readRow g h r.table d r.row p r.first r.count
    simp only [answer]
    split <;> rename_i heq <;> rw [heq] at hread
    · exact (State.frame_each (fun b m => b.frame_sendMsg g ..) _ _).trans hread
    · simpa using hread
    · simpa using hread
  split
  · split
    · exact hanswer _
    · simp
  · exact hanswer _

@[simp] theorem State.frame_resolveRead (die : Nat) (o : Origin) (r : RowRead) (again : Bool) :
    (s.resolveRead die o r again).frame g = s.frame g := by
  unfold State.resolveRead
  dsimp only
  repeat' split
  all_goals simp

@[simp] theorem State.frame_retryReads (p : HeldRead → Bool) : (s.retryReads p).frame g = s.frame g :=
  State.frame_each (fun b _ => b.frame_resolveRead g ..) _ _

@[simp] theorem State.frame_embRequest (die : Nat) : (s.embRequest die).2.frame g = s.frame g := rfl

@[simp] theorem State.frame_sendTransfer (die device h kind : Nat) (c : RowCopy) (step : Nat) :
    (s.sendTransfer die device h kind c step).frame g = s.frame g :=
  State.frame_each (fun b _ => b.frame_sendMsg g ..) s _

@[simp] theorem State.frame_sendFlips : s.sendFlips.frame g = s.frame g :=
  State.frame_each (fun b _ => b.frame_sendTransfer g ..) _ _

@[simp] theorem State.frame_refreshRow (die h step t : Nat) (d : TableDesc) (r : Nat) (va : Nat × Nat) :
    (s.refreshRow die h step t d r va).frame g = s.frame g := by
  unfold State.refreshRow
  extract_lets row opt send sent
  have hsend : ∀ b dest mirror slot, (send b dest mirror slot).frame g = b.frame g := by
    intro b dest mirror slot
    simp [send]
  have hsent : sent.frame g = s.frame g := State.frame_each (fun b h => hsend b ..) s _
  split
  · exact (hsend ..).trans hsent
  · exact hsent

@[simp] theorem State.frame_cancelChange (h t r : Nat) : (s.cancelChange h t r).frame g = s.frame g := by
  simp only [State.cancelChange, State.frame_embRecord]
  exact State.frame_each (fun b d => b.frame_bump g _ _ (by decide)) _ _

@[simp] theorem State.frame_applyFlip (h n t : Nat) : (s.applyFlip h n t).frame g = s.frame g := by
  unfold State.applyFlip
  split
  · rfl
  · extract_lets x old f flipped moving
    refine (State.frame_each (fun b e => ?_) flipped _).trans rfl
    simp

@[simp] theorem State.frame_applyRegraft (die h n : Nat) (w : Nat × Nat) :
    (s.applyRegraft die h n w).frame g = s.frame g := by
  unfold State.applyRegraft
  dsimp only
  split
  · rfl
  · split <;> simp

@[simp] theorem State.frame_applyScion (h : Nat) (w : Nat × Nat) (add : Bool) :
    (s.applyScion h w add).frame g = s.frame g := by
  unfold State.applyScion
  dsimp only
  split <;> rfl

@[simp] theorem State.frame_applyStaged (h n : Nat) (apply mismatch : Bool) :
    (s.applyStaged h n apply mismatch).frame g = s.frame g := by
  unfold State.applyStaged
  extract_lets l held told flips flipped gone cancelled dropped grafted added
  split
  · rfl
  · split
    · have hheld : held.frame g = s.frame g := State.frame_each (fun b d => b.frame_bump g _ _ (by decide)) s _
      split
      · exact (told.frame_embRecord g ..).trans hheld
      · exact hheld
    · have hflipped : flipped.frame g = s.frame g := State.frame_each (fun b t => b.frame_applyFlip g ..) s _
      have hcancelled : cancelled.frame g = flipped.frame g := State.frame_each (fun b w => b.frame_cancelChange g ..) _ _
      have hdropped : dropped.frame g = cancelled.frame g := State.frame_each (fun b w => b.frame_applyScion g ..) _ _
      have hgrafted : grafted.frame g = dropped.frame g := State.frame_each (fun b w => b.frame_applyRegraft g ..) _ _
      have hadded : added.frame g = grafted.frame g := State.frame_each (fun b w => b.frame_applyScion g ..) _ _
      exact (State.frame_sendFlips _ g).trans
        (hadded.trans (hgrafted.trans (hdropped.trans (hcancelled.trans hflipped))))

@[simp] theorem State.frame_openEmb (h n : Nat) : (s.openEmb h n).frame g = s.frame g := by
  unfold State.openEmb
  extract_lets first count retired kept pins old
  refine (?_ : _ = retired.frame g).trans (State.frame_each (fun b t => ?_) s _)
  · rfl
  · dsimp only
    split
    · simp
    · rfl

@[simp] theorem State.frame_voidEmb (h n : Nat) : (s.voidEmb h n).frame g = s.frame g := rfl

/-! ## The gather units -/

@[simp] theorem State.frame_modGth (f : GathState → GathState) : (s.modGth f).frame g = s.frame g := rfl

@[simp] theorem State.frame_openGather (h n : Nat) : (s.openGather h n).frame g = s.frame g :=
  State.frame_each (fun b _ => b.frame_modGth g _) s _

@[simp] theorem State.frame_voidGather (h n : Nat) : (s.voidGather h n).frame g = s.frame g :=
  State.frame_each (fun b _ => b.frame_complete g ..) _ _

@[simp] theorem State.frame_dropChecks (p : AbftPass → Bool) : (s.dropChecks p).frame g = s.frame g := rfl

end
end Sys2Proof.Machine
end

section
/-! PROOFS. What the collective engines, the update units and the Kiln leave of the steps. -/
namespace Sys2Proof.Machine

section
variable (s : State) (g : Nat)

/-! ## Steps and the tables of the collective engines -/

@[simp] theorem State.step_modStep_same (f : GroveStep → GroveStep) : (s.modStep g f).step_ g = f (s.step_ g) :=
  tgetD_tmod_same s.col.steps g {} f

theorem State.step_modStep_other {g h : Nat} (f : GroveStep → GroveStep) (hne : h ≠ g) :
    (s.modStep g f).step_ h = s.step_ h :=
  tgetD_tmod_other s.col.steps {} {} f hne

/-- A change of the marks of the grove's own step stays outside the frame. -/
theorem State.frame_modStep {f : GroveStep → GroveStep} (h : (f (s.step_ g)).core = (s.step_ g).core) :
    (s.modStep g f).frame g = s.frame g := by
  refine Prod.ext (funext fun k => ?_) rfl
  by_cases hk : k = g
  · subst hk
    simpa [State.frame] using h
  · simp [State.frame, hk, State.step_modStep_other s f hk]

@[simp] theorem State.frame_stepFault : (s.stepFault g).frame g = s.frame g := s.frame_modStep g rfl

/-- The other tables of the collective engines are no part of the frame. -/
theorem State.frame_modCol {f : CollState → CollState} (h : (f s.col).steps = s.col.steps) :
    (s.modCol f).frame g = s.frame g := by
  have hstep : ∀ k, (s.modCol f).step_ k = s.step_ k := State.step_congr h
  simp only [State.frame, hstep]
  rfl

@[simp] theorem State.frame_modRed (k : Nat) (f : Reduction → Reduction) : (s.modRed k f).frame g = s.frame g :=
  s.frame_modCol g rfl

@[simp] theorem State.frame_colRequest (die h : Nat) : (s.colRequest die h).2.frame g = s.frame g :=
  s.frame_modCol g rfl

@[simp] theorem State.frame_noteApplied (die h device sdie request : Nat) :
    (s.noteApplied die h device sdie request).frame g = s.frame g := s.frame_modCol g rfl

@[simp] theorem State.frame_openReductions (h : Nat) : (s.openReductions h).frame g = s.frame g := s.frame_modCol g rfl

@[simp] theorem State.frame_restartReductions (h : Nat) : (s.restartReductions h).frame g = s.frame g :=
  s.frame_modCol g rfl

@[simp] theorem State.frame_expectPieces (h n : Nat) : (s.expectPieces h n).frame g = s.frame g := by
  refine State.frame_each (fun b p => ?_) s _
  split
  · simp only [State.frame_ite]
    rw [State.frame_modCol _ _ rfl, ite_self]
  · rfl

@[simp] theorem State.frame_colRecord (sev : Sev) (die code h red seg peer : Nat) :
    (s.colRecord sev die code h red seg peer).frame g = s.frame g := by
  simp [State.colRecord]

@[simp] theorem State.frame_colAck (die device h request status : Nat) :
    (s.colAck die device h request status).frame g = s.frame g := s.frame_sendMsg g ..

@[simp] theorem State.frame_zeroBuffer (h : Nat) (d : RedDesc) (step : Nat) :
    (s.zeroBuffer h d step).frame g = s.frame g := s.frame_writeVa g ..

@[simp] theorem State.frame_writeTallies (h : Nat) (voided : Bool) : (s.writeTallies h voided).frame g = s.frame g := by
  refine State.frame_each (fun b die => ?_) s _
  have htally := b.frame_modCol g (f := fun c => { c with tally := terase c.tally (dieGrove die h) }) rfl
  dsimp only
  split
  · simpa using htally
  · exact htally

/-! ## Pieces -/

@[simp] theorem State.frame_relayPiece (die h owner : Nat) (group : List Nat) (p : Piece) :
    (s.relayPiece die h owner group p).frame g = s.frame g := by
  refine State.frame_each (fun b child => ?_) s _
  simp only [State.frame_sendMsg]
  exact (State.frame_modCol _ g rfl).trans (b.frame_colRequest g ..)

@[simp] theorem State.frame_storePiece (die h : Nat) (d : RedDesc) (p : Piece) :
    (s.storePiece die h d p).frame g = s.frame g := by
  unfold State.storePiece
  extract_lets k old l note w noted
  have hnote : ∀ b, (note b).frame g = b.frame g := fun b => b.frame_modCol g rfl
  have hw : w.1.frame g = s.frame g := s.frame_writeVa g ..
  have hnoted : noted.frame g = s.frame g := by simp [noted, hnote, hw]
  split
  · rfl
  · split
    · exact hnote s
    · split
      · exact hw
      · split
        · split
          · exact (noted.frame_engineSignal g ..).trans hnoted
          · exact hnoted
        · exact hnoted

@[simp] theorem State.frame_storeHere (h : Nat) (p : Piece) : (s.storeHere h p).frame g = s.frame g := by
  refine State.frame_each (fun b die => ?_) s _
  split <;> simp

@[simp] theorem State.frame_broadcast (die h step : Nat) (d : RedDesc) :
    (s.broadcast die h step d).frame g = s.frame g := by
  refine State.frame_each (fun b x => ?_) s _
  simp

/-! ## The update units -/

@[simp] theorem State.frame_modUpd (f : UpdState → UpdState) : (s.modUpd f).frame g = s.frame g := rfl

@[simp] theorem State.frame_noteNonfinite (die h kind target item : Nat) :
    (s.noteNonfinite die h kind target item).frame g = s.frame g := by
  simp [State.noteNonfinite]

@[simp] theorem State.frame_updRead (h n size va : Nat) (sts : List (Nat × Nat)) :
    (s.updRead h n size va sts).1.frame g = s.frame g := by
  refine (State.frame_foldl (fun q x => ?_) _ _).trans (s.frame_readVa g ..)
  simp

@[simp] theorem State.frame_updWrite (h size va : Nat) (sts : List (Nat × Nat)) (d : UpdData) :
    (s.updWrite h size va sts d).frame g = s.frame g := by
  refine (State.frame_each (fun b x => ?_) _ _).trans (s.frame_writeVa g ..)
  simp

@[simp] theorem State.frame_updWritable (h n size va : Nat) (sts : List (Nat × Nat)) :
    (s.updWritable h n size va sts).1.frame g = s.frame g := by
  refine State.frame_foldl (fun q x => ?_) _ _
  split <;> simp

@[simp] theorem State.frame_commitFault (die h kind target item : Nat) :
    (s.commitFault die h kind target item).frame g = s.frame g := by
  rw [State.commitFault, State.frame_modUpd, State.frame_updRecord]

@[simp] theorem State.frame_computeSeg (die h step seg : Nat) (d : RedDesc) (p : UpdProg) :
    (s.computeSeg die h step seg d p).1.frame g = s.frame g := by
  unfold State.computeSeg
  extract_lets n c sums read places
  have hsums : sums.1.frame g = s.frame g := s.frame_readVa g ..
  split
  · exact hsums
  · split
    · exact (read.frame_bump g _ _ (by decide)).trans hsums
    · have hread := (read.frame_updRead g h n d.size places.1 places.2).trans hsums
      split <;> rename_i heq <;> rw [heq] at hread
      · dsimp only
        split <;> simpa using hread
      · exact hread

@[simp] theorem State.frame_stageSeg (die h seg : Nat) (d : RedDesc) (p : UpdProg) :
    (s.stageSeg die h seg d p).frame g = s.frame g := by
  have hseg := s.frame_computeSeg g die h (s.step_ h).step seg d p
  unfold State.stageSeg
  dsimp only
  split
  · rfl
  · split
    · rfl
    · split <;> rename_i heq <;> rw [heq] at hseg
      · exact hseg
      · exact hseg
      · rw [State.frame_modUpd, State.frame_bump _ _ _ _ (by decide), State.frame_updWrite, State.frame_writeVa]
        exact hseg

@[simp] theorem State.frame_commitSeg (die h seg : Nat) (d : RedDesc) (p : UpdProg) :
    (s.commitSeg die h seg d p).frame g = s.frame g := by
  unfold State.commitSeg
  extract_lets n places write staged direct
  have hwrite : ∀ b v, (write b v).frame g = b.frame g := by
    intro b v
    simp [write]
  split
  · rfl
  · extract_lets src
    have hread := s.frame_updRead g h n d.size src.1 src.2
    split <;> rename_i heq <;> rw [heq] at hread
    · rename_i t v
      have hcheck := (t.frame_updWritable g h n d.size places.1 places.2).trans hread
      split <;> rename_i heq' <;> rw [heq'] at hcheck
      · exact (hwrite ..).trans hcheck
      · exact (State.frame_commitFault _ g ..).trans hcheck
    · exact (State.frame_commitFault _ g ..).trans hread
  · have hseg := (direct.frame_computeSeg g die h (direct.step_ h).step seg d p).trans
      (s.frame_bump g _ _ (by decide))
    split <;> rename_i heq <;> rw [heq] at hseg
    · exact (State.frame_commitFault _ g ..).trans hseg
    · exact hseg
    · exact (hwrite ..).trans hseg

@[simp] theorem State.frame_commitRow (die h t e : Nat) (last : Bool) :
    (s.commitRow die h t e last).frame g = s.frame g := by
  unfold State.commitRow
  extract_lets step b r seg mask desc
  split
  · rename_i d p _ _
    have hva := s.frame_rowVa g h t d r (s.rowPlace h t d r)
    split <;> rename_i heq <;> rw [heq] at hva
    · rename_i u va
      extract_lets es n sts at'
      have hread := (u.frame_updRead g h n es at' sts).trans hva
      split <;> rename_i heq' <;> rw [heq'] at hread
      · dsimp only
        split <;> simpa using hread
      · exact (State.frame_commitFault _ g ..).trans hread
    · exact hva
    · exact (State.frame_commitFault _ g ..).trans hva
  · rfl

@[simp] theorem State.frame_clearRowBuf (die h step : Nat) : (s.clearRowBuf die h step).frame g = s.frame g := by
  simp [State.clearRowBuf]

@[simp] theorem State.frame_updSignal (k : Nat) : (s.updSignal k).frame g = s.frame g := by
  unfold State.updSignal
  split <;> simp

@[simp] theorem State.frame_doWork (die h : Nat) (rest : List UpdWork) (w : UpdWork) :
    (s.doWork die h rest w).frame g = s.frame g := by
  cases w <;> simp only [State.doWork]
  · split <;> simp
  · split <;> simp
  · split <;> simp
  · simp
  · simp
  · simp

@[simp] theorem State.frame_runUpdate (die h fuel : Nat) : (s.runUpdate die h fuel).frame g = s.frame g := by
  induction fuel generalizing s with
  | zero => rfl
  | succ fuel ih =>
    unfold State.runUpdate
    extract_lets k
    split
    · rfl
    · rename_i w rest _
      extract_lets n a spent
      have ha : a.1.frame g = s.frame g := by
        simp only [a]
        split <;> simp
      split
      · exact (ih _).trans ((State.frame_doWork _ g ..).trans ha)
      · exact ha

@[simp] theorem State.frame_addWork (die h : Nat) (ws : List UpdWork) : (s.addWork die h ws).frame g = s.frame g :=
  State.frame_runUpdate _ g ..

@[simp] theorem State.frame_stageReduction (die h r : Nat) : (s.stageReduction die h r).frame g = s.frame g := by
  unfold State.stageReduction
  split <;> simp

@[simp] theorem State.frame_commitUpdate (die h : Nat) : (s.commitUpdate die h).frame g = s.frame g :=
  State.frame_addWork _ g ..

@[simp] theorem State.frame_voidUpdate (h step : Nat) : (s.voidUpdate h step).frame g = s.frame g := by
  refine State.frame_each (fun b die => ?_) s _
  simp

@[simp] theorem State.frame_openUpdate : (s.openUpdate g).frame g = s.frame g := by
  unfold State.openUpdate
  extract_lets taken first trainable
  refine (State.frame_each (fun b die => ?_) taken _).trans (s.frame_modUpd g _)
  refine (State.frame_each (fun c t => ?_) _ _).trans (State.frame_each (fun c d => ?_) b _) <;> simp

/-! ## The Kiln -/

@[simp] theorem State.frame_modKln (f : KilnState → KilnState) : (s.modKln f).frame g = s.frame g := rfl

@[simp] theorem State.frame_putFiring (h : Nat) (f : Firing) : (s.putFiring h f).frame g = s.frame g := rfl

@[simp] theorem State.frame_klnRecord (code h slot dest item : Nat) :
    (s.klnRecord code h slot dest item).frame g = s.frame g := by
  simp [State.klnRecord]

@[simp] theorem State.frame_kilnPage (h i off n : Nat) (f : Firing) :
    (s.kilnPage h i off n f).1.frame g = s.frame g := by
  unfold State.kilnPage
  extract_lets va reserve
  have hreserve : ∀ r, (reserve r).1.frame g = s.frame g := by
    intro r
    have hread := s.frame_readVa g h (f.plan.reserve + r * pageBytes + off) n
    simp only [reserve]
    split <;> rename_i heq <;> rw [heq] at hread <;> exact hread
  split
  · rfl
  · split
    · exact hreserve _
    · split
      · exact hreserve _
      · have hread := s.frame_readVa g h va pageBytes
        split <;> rename_i heq <;> rw [heq] at hread
        · simpa using hread
        · exact hread

@[simp] theorem State.frame_kilnBytes (h off n : Nat) (f : Firing) (item : KilnItem) :
    (s.kilnBytes h off n f item).1.frame g = s.frame g := by
  cases item <;> simp [State.kilnBytes]

@[simp] theorem State.frame_kilnPut (h : Nat) (f : Firing) (storage : Bool) (at' tag : Nat) (bs : List Byte) :
    (s.kilnPut h f storage at' tag bs).frame g = s.frame g := by
  simp [State.kilnPut]

@[simp] theorem State.frame_endFiring (h : Nat) (st : Status) (result : Nat) :
    (s.endFiring h st result).frame g = s.frame g := by
  unfold State.endFiring
  split <;> simp

@[simp] theorem State.frame_abortFiring (h : Nat) (code : Option Nat) (item : Nat) :
    (s.abortFiring h code item).frame g = s.frame g := by
  unfold State.abortFiring
  split
  · rfl
  · dsimp only
    split <;> simp

@[simp] theorem State.frame_kilnSend (h : Nat) (storage : Bool) : (s.kilnSend h storage).frame g = s.frame g := by
  unfold State.kilnSend
  split
  · rfl
  · rename_i f _
    extract_lets d die
    split
    · extract_lets n a
      have ha : a.1.frame g = s.frame g := s.frame_spend g ..
      split
      · have hbytes := (a.1.frame_kilnBytes g h d.off n f d.item).trans ha
        split <;> rename_i heq <;> rw [heq] at hbytes
        · exact (State.frame_abortFiring _ g ..).trans hbytes
        · exact (State.frame_kilnPut _ g ..).trans hbytes
      · exact ha
    · rfl

@[simp] theorem State.frame_commitFires (h n : Nat) : (s.commitFires h n).frame g = s.frame g := by
  unfold State.commitFires
  split
  · simp [State.kilnSends]
  · rfl

/-! ## Reductions and merges -/

@[simp] theorem State.frame_closeRed (die h : Nat) (d : RedDesc) : (s.closeRed die h d).frame g = s.frame g := by
  unfold State.closeRed
  dsimp only
  split <;> simp

@[simp] theorem State.frame_closeIfFull (die h : Nat) (d : RedDesc) : (s.closeIfFull die h d).frame g = s.frame g := by
  unfold State.closeIfFull
  dsimp only
  repeat' split
  all_goals simp

@[simp] theorem State.frame_closeFull (h : Nat) : (s.closeFull h).frame g = s.frame g :=
  State.frame_each (fun b die => State.frame_each (fun c d => c.frame_closeIfFull g die h d) b _) s _

/-- Said for any bytes: the kernel would otherwise work out the zeros of a whole merge area. -/
theorem State.frame_writeOpt (o : Option Nat) (p : Party) (bs : List Byte) :
    State.frame (match o with
      | some o => (s.writeLocal p o bs).1
      | none => s) g = s.frame g := by
  cases o
  · rfl
  · exact s.frame_writeLocal g ..

@[simp] theorem State.frame_clearMerge (h : Nat) : (s.clearMerge h).frame g = s.frame g := by
  rw [State.clearMerge_eq]
  exact s.frame_writeOpt g ..

@[simp] theorem State.frame_mergeWords (h o : Nat) (values : List Nat) :
    (s.mergeWords h o values).1.frame g = s.frame g := by
  refine State.frame_foldl (fun q x => ?_) _ _
  split <;> simp

@[simp] theorem State.frame_answerCol (die device h request : Nat) (a : ColAnswer) :
    (s.answerCol die device h request a).frame g = s.frame g := by
  cases a <;> simp [State.answerCol]

@[simp] theorem State.frame_takeMerge (o : Origin) (c : Contribution) : (s.takeMerge g o c).1.frame g = s.frame g := by
  unfold State.takeMerge
  extract_lets x values inside
  have hwords := s.frame_mergeWords g g c.target values
  split
  · simp
  · split
    · exact s.frame_modStep g rfl
    · split
      · simp
      · split
        · simp
        · split <;> rename_i heq <;> rw [heq] at hwords
          · simpa using hwords
          · simpa using hwords

@[simp] theorem State.frame_takeEarly : (s.takeEarly g).frame g = s.frame g := by
  unfold State.takeEarly
  refine (State.frame_each (fun b p => ?_) _ _).trans (s.frame_modStep g rfl)
  simp

end
end Sys2Proof.Machine
end

section
/-! PROOFS. The step of a grove: what opens, voids, commits, replays and closes it does to the step machines. -/
namespace Sys2Proof.Machine

/-! ## Reading a frame -/

theorem GroveStep.field_congr {β : Type} {x y : GroveStep} (h : x.core = y.core) (F : GroveStep → β)
    (hF : ∀ z, F z.core = F z := by exact fun _ => rfl) : F x = F y := by
  rw [← hF x, h, hF y]

section
variable {s t u : State} {g : Nat}

theorem State.core_of_frame (h : t.frame g = s.frame g) : (t.step_ g).core = (s.step_ g).core := by
  simpa [State.frame] using congrFun (congrArg Prod.fst h) g

theorem State.step_of_frame (h : t.frame g = s.frame g) {k : Nat} (hk : k ≠ g) : t.step_ k = s.step_ k := by
  simpa [State.frame, hk] using congrFun (congrArg Prod.fst h) k

theorem State.groves_of_frame (h : t.frame g = s.frame g) : t.grv.groves = s.grv.groves :=
  congrArg (fun p => p.2.1) h

theorem State.devnum_of_frame (h : t.frame g = s.frame g) : t.devnum = s.devnum := congrArg (fun p => p.2.2) h

theorem State.members_congr (h : t.grv.groves = s.grv.groves) (g : Nat) : t.members g = s.members g := by
  simp [State.members, State.grove, h]

theorem State.commitChildren_of_frame (h : t.frame g = s.frame g) : t.commitChildren g = s.commitChildren g := by
  simp [State.commitChildren, State.members_congr (State.groves_of_frame h), State.devnum_of_frame h]

/-- The step machine of a grove has gone through `f`, and the rest of the frame is as it was. -/
structure Moved (s t : State) (g : Nat) (f : GroveStep → GroveStep) : Prop where
  own : ∃ x : GroveStep, x.core = (s.step_ g).core ∧ (t.step_ g).core = (f x).core
  others : ∀ k, k ≠ g → t.step_ k = s.step_ k
  groves : t.grv.groves = s.grv.groves

/-- Engines at work for the grove before and after the change leave it what it is. -/
theorem Moved.of_modStep {f : GroveStep → GroveStep} (ht : t.frame g = (u.modStep g f).frame g)
    (hu : u.frame g = s.frame g) : Moved s t g f where
  own := ⟨u.step_ g, State.core_of_frame hu, by rw [State.core_of_frame ht, State.step_modStep_same]⟩
  others k hk := by rw [State.step_of_frame ht hk, State.step_modStep_other u f hk, State.step_of_frame hu hk]
  groves := by
    have hgroves : u.grv.groves = s.grv.groves := State.groves_of_frame hu
    exact (State.groves_of_frame ht).trans hgroves

theorem Moved.of_frame {f : GroveStep → GroveStep} (h : Moved u t g f) (hu : u.frame g = s.frame g) : Moved s t g f where
  own := h.own.imp fun _ ⟨hx, ht⟩ => ⟨hx.trans (State.core_of_frame hu), ht⟩
  others k hk := (h.others k hk).trans (State.step_of_frame hu hk)
  groves := h.groves.trans (State.groves_of_frame hu)

/-- A field that the change sets. -/
theorem Moved.set {β : Type} {f : GroveStep → GroveStep} (h : Moved s t g f) (F : GroveStep → β) {b : β}
    (hb : ∀ x, F (f x) = b := by exact fun _ => rfl) (hF : ∀ z, F z.core = F z := by exact fun _ => rfl) :
    F (t.step_ g) = b := by
  obtain ⟨x, -, ht⟩ := h.own
  rw [GroveStep.field_congr ht F hF, hb x]

/-- A field that the change sets from what another was. -/
theorem Moved.get {β γ : Type} {f : GroveStep → GroveStep} (h : Moved s t g f) (F : GroveStep → β) (G : GroveStep → γ)
    {b : γ → β} (hb : ∀ x, F (f x) = b (G x) := by exact fun _ => rfl) (hF : ∀ z, F z.core = F z := by exact fun _ => rfl)
    (hG : ∀ z, G z.core = G z := by exact fun _ => rfl) : F (t.step_ g) = b (G (s.step_ g)) := by
  obtain ⟨x, hx, ht⟩ := h.own
  rw [GroveStep.field_congr ht F hF, hb x, GroveStep.field_congr hx G hG]

end

/-! ## VOID (R34, R488) -/

/-- The step machine once a VOID has ended its attempt; `last` says that no attempt of the step is left. -/
def GroveStep.voidedBy (v : VoidMsg) (last : Bool) (x : GroveStep) : GroveStep :=
  { x with
    st := .voided, voidMsg := some v, merged := false, reported := false, sentReport := none
    origins := if x.origins.contains v.origin then x.origins else x.origins ++ [v.origin]
    withhold := x.withhold || last }

/-- A VOID has ended the present attempt of the grove's step. -/
structure Voided (s t : State) (g : Nat) (v : VoidMsg) : Prop where
  moved : ∃ last, Moved s t g (GroveStep.voidedBy v last)
  origin : v.origin ∈ (t.step_ g).origins

section
variable {s t u : State} {g : Nat} {v : VoidMsg}

theorem Voided.st (h : Voided s t g v) : (t.step_ g).st = .voided := h.moved.elim fun _ m => m.set GroveStep.st

theorem Voided.voidMsg (h : Voided s t g v) : (t.step_ g).voidMsg = some v := h.moved.elim fun _ m => m.set GroveStep.voidMsg

theorem Voided.step (h : Voided s t g v) : (t.step_ g).step = (s.step_ g).step :=
  h.moved.elim fun _ m => m.get GroveStep.step GroveStep.step (b := id)

theorem Voided.attempt (h : Voided s t g v) : (t.step_ g).attempt = (s.step_ g).attempt :=
  h.moved.elim fun _ m => m.get GroveStep.attempt GroveStep.attempt (b := id)

theorem Voided.others (h : Voided s t g v) : ∀ k, k ≠ g → t.step_ k = s.step_ k := h.moved.elim fun _ m => m.others

theorem Voided.of_frame (h : Voided u t g v) (hu : u.frame g = s.frame g) : Voided s t g v :=
  ⟨h.moved.imp fun _ m => m.of_frame hu, h.origin⟩

end

section
variable (s : State) (g : Nat)

theorem State.voidStep_voided (v : VoidMsg) : Voided s (s.voidStep g v) g v := by
  unfold State.voidStep
  extract_lets noted a last told
  have hnoted : noted.frame g = s.frame g := by simp [noted]
  have htold : told.frame g = noted.frame g := by
    unfold told
    split
    · exact State.frame_each (fun b die => b.frame_record g ..) _ _
    · rfl
  refine ⟨⟨last, Moved.of_modStep (u := told) rfl (htold.trans hnoted)⟩, ?_⟩
  rw [State.step_modStep_same]
  dsimp only
  split
  · rename_i hmem
    simpa using hmem
  · simp

theorem State.sendFrame_forwardVoid (v : VoidMsg) : (s.forwardVoid g v).sendFrame = s.sendFrame :=
  State.sendFrame_each (fun b _ => b.sendFrame_sendMsg ..) s _

theorem State.forwardVoid_col (v : VoidMsg) : (s.forwardVoid g v).col = s.col :=
  congrArg Prod.fst (s.sendFrame_forwardVoid g v)

theorem State.forwardVoid_mem (v : VoidMsg) : (s.forwardVoid g v).mem = s.mem :=
  congrArg (fun p => p.2.1) (s.sendFrame_forwardVoid g v)

/-- A device that originates a VOID voids the present attempt in its own name. -/
theorem State.originateVoid_voided (reason : Nat) :
    Voided s (s.originateVoid g reason) g ⟨(s.step_ g).step, (s.step_ g).attempt, s.devnum, reason⟩ :=
  (State.voidStep_voided _ g _).of_frame (State.frame_congr (s.sendFrame_forwardVoid g _) g)

end

/-! ## An attempt starts (R34) -/

/-- An attempt for which no VOID is held starts without a further change of its step machine. -/
theorem State.frame_startAttempt {s : State} {g : Nat} (h : (s.step_ g).heldVoids = []) :
    (s.startAttempt g).frame g = s.frame g := by
  unfold State.startAttempt
  simp only [h, List.filter_nil, List.map_nil, State.frame_judge, State.frame_closeFull, State.frame_runSampler,
    State.frame_takeEarly]
  exact s.frame_modStep g (by simp [GroveStep.core, h])

/-- The step machine that runs the step of an open record. -/
def GroveStep.opened (r : OpenRecord) (x : GroveStep) : GroveStep :=
  { x with
    st := .running, step := r.step, attempt := 0, record := some r, merged := false, reported := false,
    sentReport := none, voidMsg := none, faulted := false,
    reports := x.reports.filter fun p => reportCurrent p.2 r.step 0 }

theorem State.beginStep_moved {s : State} {g : Nat} (r : OpenRecord) (h : (s.step_ g).heldVoids = []) :
    Moved s (s.beginStep g r) g (GroveStep.opened r) := by
  unfold State.beginStep
  extract_lets n opened engines ready
  have hopened : opened = s.modStep g (GroveStep.opened r) := rfl
  have hready : ready.frame g = opened.frame g := by simp [ready, engines]
  have hheld : (ready.step_ g).heldVoids = [] := by
    rw [GroveStep.field_congr (State.core_of_frame hready) GroveStep.heldVoids, hopened, State.step_modStep_same]
    exact h
  exact Moved.of_modStep ((State.frame_startAttempt hheld).trans hready) rfl

/-- The step machine that runs a voided step again, under the next attempt number. -/
def GroveStep.replayed (n : Nat) (x : GroveStep) : GroveStep :=
  { x with
    st := .running, attempt := (x.attempt + 1) % 256, merged := false, reported := false, sentReport := none,
    voidMsg := none, faulted := false,
    reports := x.reports.filter fun p => reportCurrent p.2 n ((x.attempt + 1) % 256) }

theorem State.replayStep_moved {s : State} {g : Nat} (h : (s.step_ g).heldVoids = []) :
    Moved s (s.replayStep g) g (GroveStep.replayed (s.step_ g).step) := by
  unfold State.replayStep
  extract_lets n zeroed again
  have hzeroed : zeroed.frame g = s.frame g := State.frame_each (fun b d => b.frame_zeroBuffer g ..) s _
  have hagain : again = zeroed.modStep g (GroveStep.replayed (s.step_ g).step) := rfl
  have hready : (((again.restartReductions g).clearMerge g).bump .WCH_REPLAYS []).frame g = again.frame g := by simp
  refine Moved.of_modStep ((State.frame_startAttempt ?_).trans hready) hzeroed
  rw [GroveStep.field_congr (State.core_of_frame hready) GroveStep.heldVoids, hagain, State.step_modStep_same]
  exact (GroveStep.field_congr (State.core_of_frame hzeroed) GroveStep.heldVoids).trans h

/-! ## The void barrier (R34, R538) -/

theorem State.frame_quiesce (s : State) (g : Nat) : (s.quiesce g).frame g = s.frame g := by
  unfold State.quiesce
  extract_lets n zeroed voided rewound
  have hzeroed : zeroed.frame g = s.frame g := State.frame_each (fun b d => b.frame_zeroBuffer g ..) s _
  have hrewound : rewound.frame g = zeroed.frame g := by simp [rewound, voided]
  have hmerged : ∀ x : GroveStep, { x with merged := true }.core = x.core := fun _ => rfl
  exact (State.frame_modStep _ g (hmerged _)).trans ((rewound.frame_dropChecks g _).trans (hrewound.trans hzeroed))

/-- The step machine of a voided step whose barrier is given up. -/
def GroveStep.barred (x : GroveStep) : GroveStep :=
  { x with st := .closed, step := stepPred x.step, attempt := 0, record := none }

theorem State.barrierTimeout_moved {s : State} {g : Nat} (h : (s.step_ g).st = .voided) :
    Moved s (s.barrierTimeout g) g GroveStep.barred := by
  unfold State.barrierTimeout
  extract_lets x noted quiet
  rw [if_pos (by simpa [x] using h)]
  have hquiet : quiet.frame g = s.frame g := by simp [quiet, noted, State.frame_quiesce]
  exact Moved.of_modStep rfl hquiet

theorem State.barrierTimeout_of_ne {s : State} {g : Nat} (h : (s.step_ g).st ≠ .voided) : s.barrierTimeout g = s := by
  simp [State.barrierTimeout, h]

/-! ## The commit (R485, R565) -/

theorem State.frame_applyFlips (s : State) (g : Nat) : (s.applyFlips g).frame g = s.frame g := by
  unfold State.applyFlips
  extract_lets x
  split
  · split
    · exact (State.frame_modStep _ g rfl).trans (s.frame_applyStaged g ..)
    · rfl
  · rfl

theorem State.frame_stageMismatch (s : State) (g : Nat) : (s.stageMismatch g).2.frame g = s.frame g := by
  unfold State.stageMismatch
  split
  · dsimp only
    split <;> rfl
  · rfl

/-- The step machine that a commit release has committed. -/
def GroveStep.committedBy (r : Release) (mismatch : Bool) (x : GroveStep) : GroveStep :=
  { x with st := .committed, delivered := some r.exponents, stageApply := some (r.stageApply, mismatch) }

@[simp] theorem State.frame_watchCommit (s : State) (g h : Nat) : (s.watchCommit h).frame g = s.frame g := rfl

theorem State.commitStep_moved (s : State) (g : Nat) (r : Release) :
    ∃ mismatch, Moved s (s.commitStep g r) g (GroveStep.committedBy r mismatch) := by
  unfold State.commitStep
  extract_lets n m committed expecting
  have hm : (m.2.writeTallies g false).frame g = s.frame g := by
    rw [State.frame_writeTallies]
    unfold m
    split
    · rfl
    · exact s.frame_stageMismatch g
  have hexpecting : expecting.frame g = committed.frame g := by simp [expecting]
  refine ⟨m.1, Moved.of_modStep (f := GroveStep.committedBy r m.1) ?_ hm⟩
  simp only [State.frame_judge, State.frame_applyFlips, State.frame_commitUpdate]
  exact hexpecting

/-- The step machine of a commit that is complete. -/
def GroveStep.closed (x : GroveStep) : GroveStep := { x with st := .closed }

theorem State.commitComplete_moved {s : State} {g : Nat} (hst : (s.step_ g).st = .committed) (hdone : s.updateDone g = true)
    (hfault : s.updateFaulted g = false) (hopen : s.piecesOpen g = false) (hfresh : s.refreshesDone g = true)
    (happly : (s.step_ g).stageApply = none) : Moved s (s.commitComplete g) g GroveStep.closed := by
  have hflips : s.applyFlips g = s := by simp [State.applyFlips, happly]
  have hcomplete : s.commitComplete g =
      ((s.commitFires g (s.step_ g).step).modStep g GroveStep.closed).retryReads fun h => h.origin.grove == g := by
    simp [State.commitComplete, hflips, hst, hdone, hfault, hopen, hfresh, happly]
    rfl
  rw [hcomplete]
  exact Moved.of_modStep (State.frame_retryReads ..) (State.frame_commitFires ..)

end Sys2Proof.Machine
end

section
/-! PROOFS. Steps: opens and voids (O38). -/
namespace Sys2Proof.Machine

/-! ## The commands run while the islands run -/

section
variable {s : State} (hrun : s.islandsRun = true)
include hrun

theorem exec_stepOpen (q i : Nat) : exec (.stepOpen q i) s = .next (s.stepOpen q i) :=
  congrArg _ (State.onDie_of_islandsRun hrun _)

theorem exec_stepVoid (q i : Nat) : exec (.stepVoid q i) s = .next (s.stepVoid q i) :=
  congrArg _ (State.onDie_of_islandsRun hrun _)

theorem exec_voidReceive (o : Origin) (v : VoidMsg) : exec (.voidReceive o v) s = .next (s.voidReceive o v) :=
  congrArg _ (State.onDie_of_islandsRun hrun _)

theorem exec_commitTimeout (g : Nat) : exec (.commitTimeout g) s = .next (s.commitTimeout g) :=
  congrArg _ (State.onDie_of_islandsRun hrun _)

theorem exec_voidBarrierTimeout (g : Nat) : exec (.voidBarrierTimeout g) s = .next (s.barrierTimeout g) :=
  congrArg _ (State.onDie_of_islandsRun hrun _)

end

/-! ## Records of the collective engines -/

theorem State.colRecord_noted (s : State) (sev : Sev) (die code g red seg peer : Nat) :
    Noted s (s.colRecord sev die code g red seg peer) := by
  unfold State.colRecord
  exact State.record_noted _ _ _ _ _ _ (State.putReg_noted _ _ _ (Noted.refl s))

/-- With room in the log, a contained record of the collective engines is its last. -/
theorem State.colRecord_contained (s : State) (die code g red seg peer : Nat) (h : s.logRoom = true) :
    ∃ l : LogRec, (s.colRecord .contained die code g red seg peer).lastRecord = some l ∧ l.src = .col ∧
      l.sev = .contained ∧ l.code = code := by
  have hhead : regAddr .WCH_LOG_HEAD [] = 0x30000 := by decide
  have htail : regAddr .WCH_LOG_TAIL [] = 0x30008 := by decide
  have hlast : 0x30008 < regAddr .COL_FAULT_LAST [die] :=
    Nat.lt_of_lt_of_le (by decide) (Nat.le_add_right (regDesc .COL_FAULT_LAST).base _)
  refine ⟨_, State.lastRecord_record _ _ _ _ _ _ _ rfl ?_, rfl, rfl, rfl⟩
  rwa [State.logRoom_putReg _ (by rw [hhead]; omega) (by rw [htail]; omega)]

/-- A refused command of the collective engines leaves its record and completes as BAD_COMMAND. -/
theorem State.refuseCol_recorded (s : State) (q i code g red : Nat) (h : s.logRoom = true) :
    ∃ (u : State) (l : LogRec), s.refuseCol q i code g red = u.complete q i .badCommand 0 ∧ u.col = s.col ∧
      u.mem = s.mem ∧ u.lastRecord = some l ∧ l.src = .col ∧ l.sev = .contained ∧ l.code = code := by
  have hnoted := s.colRecord_noted .contained (dieOfQueue q) code g red 0 0
  obtain ⟨l, hlast⟩ := s.colRecord_contained (dieOfQueue q) code g red 0 0 h
  exact ⟨_, l, rfl, hnoted.col, hnoted.mem, hlast⟩

/-! ## STEP_OPEN (R467, R472) -/

/-- A STEP_OPEN that no firing holds goes on to its record. -/
theorem State.stepOpen_unheld {s : State} {q i : Nat} {c : Cmd} (hrow : s.ofRow q i 4 3 = some c)
    (hdie : dieOfQueue q = 0) (hrest : c.restZero [(8, 8)] = true) (halign : c.arg 8 8 % 64 = 0)
    (hhalf : inHalf 0 (c.arg 8 8) 512 = true) (hcap : (s.start q i).capturing c.grove = false) :
    s.stepOpen q i = (s.start q i).openStep q i c := by
  simp [State.stepOpen, hrow, hdie, hrest, halign, hhalf, hcap]

/-- The step of a record may open on the grove: it is CLOSED, no restore is pending, and the record's step is next. -/
def GroveStep.mayOpen (x : GroveStep) (r : OpenRecord) : Prop :=
  x.st = .closed ∧ x.restorePending = false ∧ r.step = stepSucc x.step

theorem GroveStep.outOfTurn_of_not {x : GroveStep} {r : OpenRecord} (h : ¬ x.mayOpen r) :
    (x.st != .closed || x.restorePending || decide (r.step ≠ stepSucc x.step)) = true := by
  simpa [GroveStep.mayOpen, imp_iff_not_or, or_assoc] using h

theorem GroveStep.mayOpen.not_outOfTurn {x : GroveStep} {r : OpenRecord} (h : x.mayOpen r) :
    (x.st != .closed || x.restorePending || decide (r.step ≠ stepSucc x.step)) = false := by
  obtain ⟨hst, hrestore, hstep⟩ := h
  simp [hst, hrestore, hstep]

section
variable {s s1 : State} {q i : Nat} {c : Cmd} {b : List Byte} {r : OpenRecord}
  (hread : s.readLocal .hearth (c.arg 8 8) 512 = (s1, .ok, b)) (hparse : parseOpen b = (true, r))
  (hgrove : r.grove = c.grove) (hgen : r.gen = c.gen)
include hread hparse hgrove hgen

theorem State.openStep_outOfTurn (h : ¬ (s1.step_ c.grove).mayOpen r) :
    s.openStep q i c = s1.refuseCol q i 0x04 c.grove 0 := by
  unfold State.openStep
  rw [hread]
  simp only [hparse, hgrove, hgen, GroveStep.outOfTurn_of_not h]
  simp

theorem State.openStep_otherScales {e : List Byte} (h : (s1.step_ c.grove).mayOpen r)
    (hdelivered : (s1.step_ c.grove).delivered = some e) (hne : e ≠ r.scale) :
    s.openStep q i c = s1.refuseCol q i 0x05 c.grove 0 := by
  have hscale : ((s1.step_ c.grove).delivered.isSome && (s1.step_ c.grove).delivered != some r.scale) = true := by
    simp [hdelivered, hne]
  unfold State.openStep
  rw [hread]
  simp only [hparse, hgrove, hgen, h.not_outOfTurn, hscale]
  simp

theorem State.openStep_begins (h : (s1.step_ c.grove).mayOpen r)
    (hscale : (s1.step_ c.grove).delivered = none ∨ (s1.step_ c.grove).delivered = some r.scale) :
    s.openStep q i c = (s1.beginStep c.grove r).complete q i .ok r.step := by
  have hsame : ((s1.step_ c.grove).delivered.isSome && (s1.step_ c.grove).delivered != some r.scale) = false := by
    rcases hscale with hscale | hscale <;> simp [hscale]
  unfold State.openStep
  rw [hread]
  simp only [hparse, hgrove, hgen, h.not_outOfTurn, hsame]
  simp

end

/-! ## VOID (R34, R488, R493) -/

theorem State.stepVoid_valid {s : State} {q i : Nat} {c : Cmd} (hrow : s.ofRow q i 4 4 = some c) (hdie : dieOfQueue q = 0)
    (hrest : c.restZero [(8, 8)] = true) (hlt : c.arg 8 8 < 2 ^ 48) (hstep : (s.step_ c.grove).step = c.arg 8 8)
    (hst : (s.step_ c.grove).st = .running ∨ (s.step_ c.grove).st = .sealed) :
    s.stepVoid q i = ((s.start q i).originateVoid c.grove 3).complete q i .ok 0 := by
  have hstart : (s.start q i).step_ c.grove = s.step_ c.grove := rfl
  have hbelow : ¬ 0x1000000000000 ≤ c.arg 8 8 := Nat.not_le.mpr hlt
  rcases hst with hst | hst <;> simp [State.stepVoid, hrow, hdie, hrest, hbelow, hstart, hstep, hst]

theorem State.commitTimeout_sealed {s : State} {g : Nat} (h : (s.step_ g).st = .sealed) :
    s.commitTimeout g = (s.colRecord .contained 0 0x0E g 0 0 0).originateVoid g 2 := by
  simp [State.commitTimeout, h]

theorem State.commitTimeout_of_ne {s : State} {g : Nat} (h : (s.step_ g).st ≠ .sealed) : s.commitTimeout g = s := by
  simp [State.commitTimeout, h]

/-- No value is after itself. -/
theorem serialAfter_self (a w : Nat) : serialAfter a a w = false := by
  have hzero : (a + 2 ^ w - a % 2 ^ w) % 2 ^ w = 0 := by
    have hle : a % 2 ^ w ≤ a := Nat.mod_le _ _
    rw [show a + 2 ^ w - a % 2 ^ w = a - a % 2 ^ w + 2 ^ w by omega, Nat.add_mod_right]
    exact Nat.sub_mod_eq_zero_of_mod_eq (by simp)
  simp [serialAfter, hzero]

section
variable {s : State} {o : Origin} {v : VoidMsg} (hgrove : s.groveIs o.grove o.gen = true)
include hgrove

theorem State.voidReceive_past (h : (s.step_ o.grove).past v.step = true) :
    s.voidReceive o v = (s.bump .COL_VOID_RX [0]).colRecord .contained 0 0x0D o.grove 0 0 v.origin := by
  have hstep : (s.bump .COL_VOID_RX [0]).step_ o.grove = s.step_ o.grove := State.step_congr (by simp) _
  simp [State.voidReceive, hgrove, hstep, h]

/-- A VOID of a later step is held, once. -/
theorem State.voidReceive_later (hpast : (s.step_ o.grove).past v.step = false) (hne : v.step ≠ (s.step_ o.grove).step) :
    s.voidReceive o v =
      if (s.step_ o.grove).heldVoids.any fun w => w.step == v.step && w.attempt == v.attempt && w.origin == v.origin then
        s.bump .COL_VOID_RX [0]
      else ((s.bump .COL_VOID_RX [0]).modStep o.grove fun x => { x with heldVoids := x.heldVoids ++ [v] }).forwardVoid
        o.grove v := by
  have hstep : (s.bump .COL_VOID_RX [0]).step_ o.grove = s.step_ o.grove := State.step_congr (by simp) _
  simp [State.voidReceive, hgrove, hstep, hpast, hne]

theorem State.voidReceive_holds (hpast : (s.step_ o.grove).past v.step = false) (hne : v.step ≠ (s.step_ o.grove).step) :
    ∃ w ∈ ((s.voidReceive o v).step_ o.grove).heldVoids, w.step = v.step ∧ w.attempt = v.attempt ∧ w.origin = v.origin ∧
      ((s.voidReceive o v).step_ o.grove).st = (s.step_ o.grove).st ∧ (s.voidReceive o v).mem = s.mem := by
  have hcounted : (s.bump .COL_VOID_RX [0]).step_ o.grove = s.step_ o.grove := State.step_congr (by simp) _
  rw [State.voidReceive_later hgrove hpast hne]
  split
  · rename_i hheld
    obtain ⟨w, hw, hsame⟩ := List.any_eq_true.mp hheld
    simp only [Bool.and_eq_true, beq_iff_eq, and_assoc] at hsame
    obtain ⟨hs, ha, ho⟩ := hsame
    exact ⟨w, by rwa [hcounted], hs, ha, ho, by rw [hcounted], by simp⟩
  · refine ⟨v, ?_, rfl, rfl, rfl, ?_, ?_⟩
    · simp [State.step_congr (congrArg CollState.steps (State.forwardVoid_col ..))]
    · simp [State.step_congr (congrArg CollState.steps (State.forwardVoid_col ..)), hcounted]
    · simp [State.forwardVoid_mem]

theorem State.voidReceive_present (hpast : (s.step_ o.grove).past v.step = false) (hstep : v.step = (s.step_ o.grove).step)
    (hst : (s.step_ o.grove).st = .running ∨ (s.step_ o.grove).st = .sealed)
    (hattempt : v.attempt = (s.step_ o.grove).attempt) : Voided s (s.voidReceive o v) o.grove v := by
  have hcounted : (s.bump .COL_VOID_RX [0]).step_ o.grove = s.step_ o.grove := State.step_congr (by simp) _
  have hvoid : s.voidReceive o v = (if (s.step_ o.grove).origins.contains v.origin then s.bump .COL_VOID_RX [0]
      else ((s.bump .COL_VOID_RX [0]).modStep o.grove fun x => { x with origins := x.origins ++ [v.origin] }).forwardVoid
        o.grove v).voidStep o.grove v := by
    rw [hstep] at hpast
    rcases hst with hst | hst <;>
      simp [State.voidReceive, hgrove, hcounted, hpast, hstep, hst, hattempt, serialAfter_self]
  rw [hvoid]
  refine (State.voidStep_voided _ _ v).of_frame ?_
  rw [State.frame_ite, State.frame_congr (State.sendFrame_forwardVoid ..), State.frame_modStep _ _ rfl,
    State.frame_bump _ _ _ _ (by decide), ite_self]

end

theorem Noted.of_readLocal {s t : State} {p : Party} {o n : Nat} {a : Acc} {b : List Byte}
    (h : s.readLocal p o n = (t, a, b)) : Noted s t := by
  have hread := State.readLocal_noted p o n (Noted.refl s)
  rwa [h] at hread

/-- Settles O38: each clause reads its own step machine and the others' off the change that the command makes to them,
`GroveStep.opened`, `GroveStep.voidedBy` or `GroveStep.barred`; a refused open is its record and its completion. -/
theorem stepOpensAndVoids : Obligations.StepOpensAndVoids := by
  unfold Obligations.StepOpensAndVoids
  refine ⟨?opens, ?voids⟩
  case opens =>
    rintro s s1 q i g c b r hrun rfl hrow hdie hrest halign hhalf hcap hread hparse hgrove hgen
    have hexec : exec (.stepOpen q i) s = .next ((s.start q i).openStep q i c) :=
      (exec_stepOpen hrun q i).trans (congrArg _ (State.stepOpen_unheld hrow hdie hrest halign hhalf hcap))
    have hnoted : Noted (s.start q i) s1 := Noted.of_readLocal hread
    refine ⟨fun hst hrestore hstep hscale hheld => ?begins, fun hbad hlog => ?outOfTurn,
      fun e hst hrestore hstep hdelivered hne hlog => ?otherScales⟩
    case begins =>
      have hmoved := State.beginStep_moved r hheld
      refine ⟨_, hexec.trans (congrArg _ (State.openStep_begins hread hparse hgrove hgen ⟨hst, hrestore, hstep⟩ hscale)),
        hmoved.set GroveStep.st, hmoved.set GroveStep.step, hmoved.set GroveStep.attempt, hmoved.set GroveStep.record, ?_, ?_⟩
      · exact hmoved.groves.trans (congrArg GroveState.groves hnoted.grv)
      · exact fun h hne => (hmoved.others h hne).trans (State.step_congr (congrArg CollState.steps hnoted.col) h)
    case outOfTurn =>
      have hmay : ¬ (s1.step_ c.grove).mayOpen r := fun h => hbad.elim (· h.1) (· h.2.2)
      rw [State.openStep_outOfTurn hread hparse hgrove hgen hmay] at hexec
      obtain ⟨u, l, hu, hrefused⟩ := s1.refuseCol_recorded q i 0x04 c.grove 0 hlog
      exact ⟨u, l, hexec.trans (congrArg _ hu), hrefused⟩
    case otherScales =>
      rw [State.openStep_otherScales hread hparse hgrove hgen ⟨hst, hrestore, hstep⟩ hdelivered hne] at hexec
      obtain ⟨u, l, hu, hrefused⟩ := s1.refuseCol_recorded q i 0x05 c.grove 0 hlog
      exact ⟨u, l, hexec.trans (congrArg _ hu), hrefused⟩
  case voids =>
    rintro s q i g c o v hrun
    refine ⟨fun hrow hdie hrest hlt hstep hst => ?command,
      fun hgrove => ⟨fun hpast hstep hst hattempt => ?present, fun hpast => ?past, fun hpast hne => ?later⟩,
      fun hst => ?commit, fun hst => ?noCommit, fun hst => ?barrier, fun hst => ?noBarrier⟩
    case command =>
      have hvoided := (s.start q i).originateVoid_voided c.grove 3
      have hmsg := hvoided.voidMsg
      rw [show (s.start q i).step_ c.grove = s.step_ c.grove from rfl, hstep] at hmsg
      exact ⟨_, (exec_stepVoid hrun q i).trans (congrArg _ (State.stepVoid_valid hrow hdie hrest hlt hstep hst)),
        hvoided.st, hmsg, hvoided.step.trans hstep, hvoided.others⟩
    case present =>
      have hvoided := State.voidReceive_present hgrove hpast hstep hst hattempt
      exact ⟨_, exec_voidReceive hrun o v, hvoided.st, hvoided.voidMsg, hvoided.origin, hvoided.attempt, hvoided.others⟩
    case past =>
      have hnoted := (s.bump .COL_VOID_RX [0]).colRecord_noted .contained 0 0x0D o.grove 0 0 v.origin
      exact ⟨_, (exec_voidReceive hrun o v).trans (congrArg _ (State.voidReceive_past hgrove hpast)),
        hnoted.col.trans (by simp), hnoted.mem.trans (by simp)⟩
    case later =>
      obtain ⟨w, hw, hheld⟩ := State.voidReceive_holds hgrove hpast hne
      exact ⟨_, w, exec_voidReceive hrun o v, hw, hheld⟩
    case commit =>
      have hnoted := s.colRecord_noted .contained 0 0x0E g 0 0 0
      have hframe := s.frame_colRecord g .contained 0 0x0E g 0 0 0
      have hvoided := (s.colRecord .contained 0 0x0E g 0 0 0).originateVoid_voided g 2
      have hmsg := hvoided.voidMsg
      rw [State.step_congr (congrArg CollState.steps hnoted.col), State.devnum_of_frame hframe] at hmsg
      exact ⟨_, (exec_commitTimeout hrun g).trans (congrArg _ (State.commitTimeout_sealed hst)), hvoided.st, hmsg⟩
    case noCommit =>
      exact (exec_commitTimeout hrun g).trans (congrArg _ (State.commitTimeout_of_ne hst))
    case barrier =>
      have hmoved := State.barrierTimeout_moved hst
      exact ⟨_, exec_voidBarrierTimeout hrun g, hmoved.set GroveStep.st, hmoved.get GroveStep.step GroveStep.step,
        hmoved.set GroveStep.attempt, hmoved.set GroveStep.record⟩
    case noBarrier =>
      exact (exec_voidBarrierTimeout hrun g).trans (congrArg _ (State.barrierTimeout_of_ne hst))

end Sys2Proof.Machine
end

section
/-! PROOFS. Steps: reports, commits, replays and closes (O39). -/
namespace Sys2Proof.Machine

/-! ## The commands run while the islands run -/

section
variable {s : State} (hrun : s.islandsRun = true)
include hrun

theorem exec_cleanReportSend (g : Nat) : exec (.cleanReportSend g) s = .next (s.cleanReport g) :=
  congrArg _ (State.onDie_of_islandsRun hrun _)

theorem exec_voidAckSend (g : Nat) : exec (.voidAckSend g) s = .next (s.voidAck g) :=
  congrArg _ (State.onDie_of_islandsRun hrun _)

theorem exec_commitReportReceive (o : Origin) (r : Report) :
    exec (.commitReportReceive o r) s = .next (s.reportReceive o r) :=
  congrArg _ (State.onDie_of_islandsRun hrun _)

theorem exec_commitRelease (o : Origin) (r : Release) : exec (.commitRelease o r) s = .next (s.releaseReceive o r) :=
  congrArg _ (State.onDie_of_islandsRun hrun _)

theorem exec_stepCommitComplete (g : Nat) : exec (.stepCommitComplete g) s = .next (s.commitComplete g) :=
  congrArg _ (State.onDie_of_islandsRun hrun _)

end

/-! ## The report of a leaf of the commit tree (R483, R484) -/

/-- The step machine once its device's report has gone up the commit tree. -/
def GroveStep.reportedBy (y : Report) (x : GroveStep) : GroveStep := { x with reported := true, sentReport := some y }

/-- The report of a device without children counts one member. -/
theorem State.mergedReport_members {s : State} {g : Nat} (hleaf : s.commitChildren g = []) (kind : Nat) :
    (s.mergedReport g kind).members = 1 := by
  simp [State.mergedReport, State.childReports, hleaf]

theorem State.sendReport_leaf {s : State} {g parent : Nat}
    (hparent : treeParent (s.members g) ((s.members g).headD 0) s.devnum = some parent) (hleaf : s.commitChildren g = [])
    (hfirst : (s.step_ g).reported = false) (kind : Nat) :
    (s.sendReport g kind).sendFrame = (s.modStep g (GroveStep.reportedBy (s.mergedReport g kind))).sendFrame := by
  have hreports : s.childReports g kind = [] := by simp [State.childReports, hleaf]
  simp only [State.sendReport, hparent, hfirst, hreports, hleaf]
  exact State.sendFrame_sendMsg ..

theorem State.step_of_sendFrame {s t : State} (h : t.sendFrame = s.sendFrame) (g : Nat) : t.step_ g = s.step_ g :=
  State.step_congr (congrArg (fun p => p.1.steps) h) g

/-! ## Sealing the step (R34, R484) -/

/-- The step machine of a device that seals its step. -/
def GroveStep.sealing (x : GroveStep) : GroveStep := { x with st := .sealed, merged := false, reported := false }

/-- The step machine of a device that has merged its histograms. -/
def GroveStep.merging (x : GroveStep) : GroveStep := { x with merged := true }

/-- A step that may be sealed runs without a fault, and none of its contributions is unanswered. -/
theorem State.running_of_maySeal {s : State} {g : Nat} (h : s.maySeal g = true) :
    (s.step_ g).st = .running ∧ (s.step_ g).faulted = false ∧ s.sentOpen g = false := by
  simp only [State.maySeal, Bool.and_eq_true, beq_iff_eq, Bool.not_eq_true'] at h
  tauto

theorem State.mergeHists_of_none {s : State} {g : Nat} (h : s.mergeArea g = none) :
    s.mergeHists g = s.modStep g GroveStep.merging := by
  have harea : (s.modStep g fun x => { x with merged := true }).mergeArea g = none := h
  simp only [State.mergeHists, harea]
  rfl

/-- A device that has sealed its step and merged its histograms. -/
def State.sealedMerged (s : State) (g : Nat) : State := (s.modStep g GroveStep.sealing).modStep g GroveStep.merging

theorem State.step_sealedMerged (s : State) (g : Nat) : (s.sealedMerged g).step_ g = (s.step_ g).sealing.merging := by
  rw [State.sealedMerged, State.step_modStep_same, State.step_modStep_same]

section
variable {s : State} {g : Nat} (hleaf : s.commitChildren g = []) (hseal : s.maySeal g = true) (harea : s.mergeArea g = none)
include hleaf hseal harea

/-- A leaf of the commit tree that may seal its step and has no merge area goes on to its report at once. -/
theorem State.cleanReport_leaf : s.cleanReport g = (s.sealedMerged g).sendReport g 0 := by
  obtain ⟨-, hfault, hsent⟩ := State.running_of_maySeal hseal
  have hsealing : (s.modStep g GroveStep.sealing).step_ g = (s.step_ g).sealing := State.step_modStep_same ..
  have hmerge : (s.modStep g GroveStep.sealing).mergeHists g = s.sealedMerged g := State.mergeHists_of_none harea
  have hsentM : (s.sealedMerged g).sentOpen g = false := hsent
  have hleafS : (s.modStep g GroveStep.sealing).commitChildren g = [] := hleaf
  have hclean : s.cleanReport g = (s.modStep g GroveStep.sealing).tryClean g := by
    simp only [State.cleanReport, hseal]
    rfl
  rw [hclean]
  simp [State.tryClean, State.childReports, hleafS, hsealing, hmerge, s.step_sealedMerged, hsentM, GroveStep.sealing,
    GroveStep.merging, hfault]

theorem State.cleanReport_sends {parent : Nat}
    (hparent : treeParent (s.members g) ((s.members g).headD 0) s.devnum = some parent) :
    (s.cleanReport g).sendFrame =
      ((s.sealedMerged g).modStep g (GroveStep.reportedBy ((s.sealedMerged g).mergedReport g 0))).sendFrame := by
  rw [State.cleanReport_leaf hleaf hseal harea]
  exact State.sendReport_leaf (s := s.sealedMerged g) hparent hleaf (by rw [s.step_sealedMerged]; rfl) 0

end

theorem State.tryClean_of_ne {s : State} {g : Nat} (h : (s.step_ g).st ≠ .sealed) : s.tryClean g = s := by
  simp [State.tryClean, h]

theorem State.cleanReport_idle {s : State} {g : Nat} (hrun : (s.step_ g).st ≠ .running) (hseal : (s.step_ g).st ≠ .sealed) :
    s.cleanReport g = s := by
  have hmay : s.maySeal g = false := Bool.eq_false_iff.mpr fun h => hrun (State.running_of_maySeal h).1
  simp only [State.cleanReport, hmay]
  exact State.tryClean_of_ne hseal

/-! ## The void acknowledgement (R34, R486) -/

theorem State.voided_of_mayAckVoid {s : State} {g : Nat} (h : s.mayAckVoid g = true) : (s.step_ g).st = .voided := by
  simp only [State.mayAckVoid, Bool.and_eq_true, beq_iff_eq] at h
  tauto

theorem State.voidAck_quiesced {s : State} {g : Nat} (h : s.mayAckVoid g = true) :
    ∃ u : State, u.frame g = s.frame g ∧ s.voidAck g = u.sendReport g 1 := by
  refine ⟨if (s.step_ g).merged then s else s.quiesce g, ?_, by simp only [State.voidAck, h]; rfl⟩
  rw [State.frame_ite, State.frame_quiesce, ite_self]

theorem State.voidAck_idle {s : State} {g : Nat} (h : s.mayAckVoid g = false) : s.voidAck g = s := by
  simp [State.voidAck, h]

/-! ## Reports arriving (R484, R486, R489) -/

section
variable {s : State} {o : Origin} {r : Report} (hgrove : s.groveIs o.grove o.gen = true) (hkind : r.kind = 0)
include hgrove hkind

/-- A clean report of the present attempt is kept while the device's own step runs. -/
theorem State.reportReceive_running (hst : (s.step_ o.grove).st = .running) (hpast : (s.step_ o.grove).past r.step = false)
    (hcurrent : reportCurrent r (s.step_ o.grove).step (s.step_ o.grove).attempt = true) :
    s.reportReceive o r = s.modStep o.grove fun x => { x with
      reports := (x.reports.filter fun p => !(p.1 == o.device && p.2.kind == r.kind && p.2.step == r.step &&
        p.2.attempt == r.attempt)) ++ [(o.device, r)] } := by
  refine Eq.trans ?_ (State.tryClean_of_ne (g := o.grove) ?_)
  · simp [State.reportReceive, hgrove, hkind, hst, hpast, hcurrent]
  · rw [State.step_modStep_same]
    simp [hst]

/-- A device whose step is voided answers a clean report of it with the VOID. -/
theorem State.reportReceive_voided {v : VoidMsg} (hst : (s.step_ o.grove).st = .voided)
    (hstep : r.step = (s.step_ o.grove).step) (hvoid : (s.step_ o.grove).voidMsg = some v) :
    s.reportReceive o r = s.sendMsg 0 true o.device 0x02 o.grove
      (mfield 6 v.step ++ mfield 1 v.attempt ++ mfield 2 v.origin ++ mfield 1 v.reason) := by
  simp [State.reportReceive, hgrove, hkind, hst, hstep, hvoid]

end

/-! ## Releases (R34, R472, R485) -/

section
variable {s : State} {g : Nat} {r : Release}

theorem State.sendFrame_forwardRelease (s : State) (g : Nat) (r : Release) :
    (s.forwardRelease g r).sendFrame = s.sendFrame :=
  State.sendFrame_each (fun b _ => b.sendFrame_sendMsg ..) s _

theorem State.takeRelease_otherStep (h : r.step ≠ (s.step_ g).step) : s.takeRelease g r = s := by
  simp [State.takeRelease, h]

theorem State.takeRelease_commits (hstep : r.step = (s.step_ g).step) (hcommit : r.commit = true)
    (hst : (s.step_ g).st = .sealed) (hattempt : r.attempt = (s.step_ g).attempt) :
    s.takeRelease g r = (s.forwardRelease g r).commitStep g r := by
  simp [State.takeRelease, hstep, hcommit, hst, hattempt]

theorem State.takeRelease_replays (hstep : r.step = (s.step_ g).step) (hcommit : r.commit = false)
    (hst : (s.step_ g).st = .voided) (hattempt : r.attempt = ((s.step_ g).attempt + 1) % 256) :
    s.takeRelease g r = (s.forwardRelease g r).replayStep g := by
  simp [State.takeRelease, hstep, hcommit, hst, hattempt]

theorem State.releaseReceive_current {o : Origin} (hgrove : s.groveIs o.grove o.gen = true) :
    s.releaseReceive o r = s.takeRelease o.grove r := by
  simp [State.releaseReceive, hgrove]

end

/-- Settles O39: the reports are those of a leaf of the commit tree, and each release or close reads its own step machine
and the others' off `GroveStep.committedBy`, `GroveStep.replayed` or `GroveStep.closed`. -/
theorem commitAndRelease : Obligations.CommitAndRelease := by
  unfold Obligations.CommitAndRelease
  refine ⟨?reports, ?releases⟩
  case reports =>
    rintro s g parent o r v hrun
    refine ⟨fun hparent hleaf => ⟨fun hseal harea => ?clean, fun hmay hfirst => ?ack⟩, fun hne hseal => ?idle,
      fun hmay => ?noAck, fun hgrove hkind => ⟨fun hst hpast hcurrent => ?kept, fun hst hstep hvoid => ?answered⟩⟩
    case clean =>
      have hsent := State.cleanReport_sends hleaf hseal harea hparent
      have hstep := (State.step_of_sendFrame hsent g).trans (State.step_modStep_same ..)
      have hready := s.step_sealedMerged g
      rw [hready] at hstep
      exact ⟨_, _, exec_cleanReportSend hrun g, congrArg GroveStep.st hstep, congrArg GroveStep.reported hstep,
        congrArg GroveStep.sentReport hstep, rfl, State.mergedReport_members (s := s.sealedMerged g) hleaf 0,
        (congrArg GroveStep.step hready).trans rfl, (congrArg GroveStep.attempt hready).trans rfl,
        congrArg (fun p => p.2.1) hsent⟩
    case ack =>
      obtain ⟨u, hquiet, hack⟩ := State.voidAck_quiesced hmay
      have hcore := State.core_of_frame hquiet
      have hleafU := (State.commitChildren_of_frame hquiet).trans hleaf
      have hparentU : treeParent (u.members g) ((u.members g).headD 0) u.devnum = some parent := by
        rwa [State.members_congr (State.groves_of_frame hquiet), State.devnum_of_frame hquiet]
      have hfirstU := (GroveStep.field_congr hcore GroveStep.reported).trans hfirst
      have hstep := (State.step_of_sendFrame (State.sendReport_leaf hparentU hleafU hfirstU 1) g).trans
        (State.step_modStep_same ..)
      have hvoided := (GroveStep.field_congr hcore GroveStep.st).trans (State.voided_of_mayAckVoid hmay)
      exact ⟨_, _, (exec_voidAckSend hrun g).trans (congrArg _ hack), (congrArg GroveStep.st hstep).trans hvoided,
        congrArg GroveStep.reported hstep, congrArg GroveStep.sentReport hstep, rfl, State.mergedReport_members hleafU 1,
        GroveStep.field_congr hcore GroveStep.attempt⟩
    case idle => exact (exec_cleanReportSend hrun g).trans (congrArg _ (State.cleanReport_idle hne hseal))
    case noAck => exact (exec_voidAckSend hrun g).trans (congrArg _ (State.voidAck_idle hmay))
    case kept =>
      refine ⟨_, (exec_commitReportReceive hrun o r).trans
        (congrArg _ (State.reportReceive_running hgrove hkind hst hpast hcurrent)), ?_, ?_, rfl,
        fun h hne => State.step_modStep_other _ _ hne⟩
      · rw [State.step_modStep_same]
        simp
      · rw [State.step_modStep_same]
        exact hst
    case answered =>
      exact (exec_commitReportReceive hrun o r).trans (congrArg _ (State.reportReceive_voided hgrove hkind hst hstep hvoid))
  case releases =>
    rintro s o r g hrun rfl
    refine ⟨fun hgrove => ?release, fun hst hdone hfault hopen hfresh happly => ?complete⟩
    case release =>
      have hexec := exec_commitRelease hrun o r
      rw [State.releaseReceive_current hgrove] at hexec
      have hsent := s.sendFrame_forwardRelease o.grove r
      refine ⟨fun hne => ?other, fun hstep hcommit hst hattempt => ?commits,
        fun hstep hreplay hst hattempt hheld => ?replays⟩
      case other => exact hexec.trans (congrArg _ (State.takeRelease_otherStep hne))
      case commits =>
        obtain ⟨mismatch, hmoved⟩ := State.commitStep_moved (s.forwardRelease o.grove r) o.grove r
        have hcommitted := hmoved.of_frame (State.frame_congr hsent _)
        exact ⟨_, hexec.trans (congrArg _ (State.takeRelease_commits hstep hcommit hst hattempt)),
          hcommitted.set GroveStep.st, (hcommitted.get GroveStep.step GroveStep.step (b := id)).trans hstep.symm,
          hcommitted.set GroveStep.delivered, hcommitted.others⟩
      case replays =>
        have hmoved := State.replayStep_moved (s := s.forwardRelease o.grove r) (g := o.grove)
          (by rwa [State.step_of_sendFrame hsent])
        have hreplayed := hmoved.of_frame (State.frame_congr hsent _)
        exact ⟨_, hexec.trans (congrArg _ (State.takeRelease_replays hstep hreplay hst hattempt)),
          hreplayed.set GroveStep.st, (hreplayed.get GroveStep.step GroveStep.step (b := id)).trans hstep.symm,
          (hreplayed.get GroveStep.attempt GroveStep.attempt (b := fun n => (n + 1) % 256)).trans hattempt.symm,
          hreplayed.get GroveStep.record GroveStep.record (b := id), hreplayed.others⟩
    case complete =>
      have hmoved := State.commitComplete_moved hst hdone hfault hopen hfresh happly
      exact ⟨_, exec_stepCommitComplete hrun o.grove, hmoved.set GroveStep.st,
        hmoved.get GroveStep.step GroveStep.step (b := id), hmoved.others⟩

end Sys2Proof.Machine
end

section
/-! PROOFS. Serial-number order (R63, R151; O8). -/
namespace Sys2Proof.Machine

theorem serialAfter_iff (a b w : Nat) :
    serialAfter a b w = true ↔ 1 ≤ subMod w a b ∧ subMod w a b ≤ 2 ^ (w - 1) - 1 := by
  have hhalf := Nat.two_pow_pos (w - 1)
  simp only [serialAfter, subMod, Bool.and_eq_true, bne_iff_ne, decide_eq_true_eq]
  omega

/-- The difference of two words of width w, as a number. -/
theorem subMod_eq_toNat {a w : Nat} (b : Nat) (ha : a < 2 ^ w) :
    subMod w a b = (BitVec.ofNat w a - BitVec.ofNat w b).toNat := by
  have hb := Nat.mod_lt b (Nat.two_pow_pos w)
  simp only [subMod, BitVec.toNat_sub, BitVec.toNat_ofNat, Nat.mod_eq_of_lt ha]
  congr 1
  omega

/-- The two differences of two words add up to zero modulo 2^w. -/
theorem subMod_add_subMod {a b w : Nat} (ha : a < 2 ^ w) (hb : b < 2 ^ w) :
    (subMod w a b + subMod w b a) % 2 ^ w = 0 := by
  simp only [subMod, Nat.mod_eq_of_lt ha, Nat.mod_eq_of_lt hb, ← Nat.add_mod]
  rw [show a + 2 ^ w - b + (b + 2 ^ w - a) = 2 * 2 ^ w by omega]
  exact Nat.mul_mod_left ..

/-- Both differences of two words cannot lie in the lower half of the range. -/
theorem serialAfter_asymm {a b w : Nat} (ha : a < 2 ^ w) (hb : b < 2 ^ w) (h : serialAfter a b w = true) :
    serialAfter b a w = false := by
  refine Bool.eq_false_iff.mpr fun hback => ?_
  obtain ⟨hlo, hhi⟩ := (serialAfter_iff a b w).mp h
  obtain ⟨hlo', hhi'⟩ := (serialAfter_iff b a w).mp hback
  have hhalves : 2 ^ (w - 1) + 2 ^ (w - 1) ≤ 2 ^ w + 1 := by
    cases w with
    | zero => simp
    | succ n => rw [Nat.add_sub_cancel, Nat.pow_succ]; omega
  have hsum := subMod_add_subMod ha hb
  rw [Nat.mod_eq_of_lt (by omega)] at hsum
  omega

/-- Settles O8: the order is told by the difference modulo 2^w, and the two differences of two values add up to 2^w. -/
theorem serialOrder : Obligations.SerialOrder := by
  unfold Obligations.SerialOrder
  refine ⟨fun a b w _ ha hb => ⟨?_, serialAfter_asymm ha hb⟩, fun a b _ hb => ?_⟩
  · rw [serialAfter_iff, subMod_eq_toNat b ha]
  · rw [serialAfter_iff, subMod, Nat.mod_eq_of_lt (show b < 2 ^ 16 from hb)]
    exact Iff.rfl

end Sys2Proof.Machine
end

section
/-! PROOFS. What ends an event: the requests and opens tried again, and the entry to the ash state. -/
namespace Sys2Proof.Machine

/-! ## Requests and opens that waited (R395, R566) -/

theorem State.memRetry_of_none {s : State} (h : s.mem.held = []) : s.memRetry = s := by
  have hmem : { s.mem with held := [] } = s.mem := by rw [← h]
  show ({ s with mem := { s.mem with held := [] } } : State).each s.mem.held _ = s
  rw [h, hmem]
  rfl

theorem State.retryOpens_of_none {s : State} (h : s.col.heldOpens = []) : s.retryOpens = s := by
  have hcol : { s.col with heldOpens := [] } = s.col := by rw [← h]
  show ({ s with col := { s.col with heldOpens := [] } } : State).each s.col.heldOpens _ = s
  rw [h, hcol]
  rfl

/-- An event of the Kiln that leaves no request and no open waiting has no further effect. -/
theorem State.kilnEvent_of_none {s : State} (hrun : s.islandsRun = true) {f : State → State}
    (hheld : (f s).mem.held = []) (hopens : (f s).col.heldOpens = []) : s.kilnEvent f = f s := by
  rw [State.kilnEvent, State.onDie_of_islandsRun hrun, State.memRetry_of_none hheld, State.retryOpens_of_none hopens]

/-! ## Fatal records (R527, R533, R658) -/

/-- The state in which a full log has counted a record of a severity as lost (R532). -/
def State.lost (s : State) (sev : Sev) : State :=
  let worst := max (s.regFld .WCH_LOG_STATE [] 1 2) sev.number
  let s := s.putReg .WCH_LOG_LOST [] (statAdd (s.getReg .WCH_LOG_LOST []) 1).1
  let s := (s.putFld .WCH_LOG_STATE [] 0 1 1).putFld .WCH_LOG_STATE [] 1 2 worst
  { s with wch := { s.wch with droppedSince := s.wch.droppedSince + 1 } }

/-- Without room, what a record does. -/
theorem State.logRec_full {s : State} (r : LogRec) (h : s.logRoom = false) :
    s.logRec r = (s.lost r.sev).keepFatal { r with seq := s.regFld .WCH_LOG_HEAD [] 0 32 } := by
  have hfull := Nat.not_lt.mp (of_decide_eq_false h)
  unfold State.logRec
  exact if_pos hfull

theorem State.sup_lost (s : State) (sev : Sev) : (s.lost sev).sup = s.sup := rfl

theorem State.sup_logged (s : State) (r : LogRec) : (s.logged r).sup = s.sup := rfl

theorem State.sup_notify (s : State) (sev : Sev) : (s.notify sev).sup = s.sup := by
  unfold State.notify
  split <;> rfl

theorem State.sup_alerted (s : State) (sev : Sev) : ∃ low, (s.alerted sev).sup = { s.sup with alertLow := low } := by
  unfold State.alerted
  split
  · exact ⟨s.sup.alertLow, rfl⟩
  · exact ⟨true, rfl⟩

theorem State.sup_keepFatal (s : State) (r : LogRec) :
    ∃ causes, (s.keepFatal r).sup = { s.sup with causes := causes } := by
  unfold State.keepFatal
  split
  · exact ⟨_, rfl⟩
  · exact ⟨s.sup.causes, rfl⟩

/-- A record drives SMB_ALERT_N and lists a cause, and leaves the rest of the startup state. -/
theorem State.sup_logRec (s : State) (r : LogRec) :
    ∃ low causes, (s.logRec r).sup = { s.sup with alertLow := low, causes := causes } := by
  cases hroom : s.logRoom
  · obtain ⟨causes, hkeep⟩ := (s.lost r.sev).sup_keepFatal { r with seq := s.regFld .WCH_LOG_HEAD [] 0 32 }
    exact ⟨s.sup.alertLow, causes, by rw [State.logRec_full r hroom, hkeep, State.sup_lost]⟩
  · rw [State.logRec_room s r hroom]
    generalize { r with seq := s.regFld .WCH_LOG_HEAD [] 0 32 } = x
    obtain ⟨low, halert⟩ := (s.logged x).sup_alerted r.sev
    obtain ⟨causes, hkeep⟩ := (((s.logged x).alerted r.sev).notify r.sev).sup_keepFatal x
    exact ⟨low, causes, by rw [hkeep, State.sup_notify, halert, State.sup_logged]⟩

/-- A device that is not in the ash state enters it (R659). -/
theorem State.phase_ashEntry {s : State} (ctrlUe overtemp : Bool) (h : s.sup.phase ≠ .ash) :
    (s.ashEntry ctrlUe overtemp).sup.phase = .ash := by
  have hash : ¬ (s.sup.phase == .ash) = true := by simpa using h
  unfold State.ashEntry
  rw [if_neg hash]

theorem State.phase_of_islandsRun {s : State} (h : s.islandsRun = true) : s.sup.phase ≠ .ash := by
  simp only [State.islandsRun, Bool.and_eq_true, bne_iff_ne] at h
  tauto

theorem State.keepFatal_first {s : State} {r : LogRec} (hsev : r.sev = .fatal) (hnone : s.wch.fatal = none) :
    (s.keepFatal r).wch.fatal = some r := by
  simp [State.keepFatal, hsev, hnone]

/-- The first fatal record since the last recovery is the one WCH_FATAL holds (R533). -/
theorem State.logRec_fatal {s : State} {r : LogRec} (hsev : r.sev = .fatal) (hnone : s.wch.fatal = none) :
    (s.logRec r).wch.fatal = some { r with seq := s.regFld .WCH_LOG_HEAD [] 0 32 } := by
  cases hroom : s.logRoom
  · rw [State.logRec_full r hroom]
    exact State.keepFatal_first hsev hnone
  · rw [State.logRec_room s r hroom]
    refine State.keepFatal_first hsev ?_
    rw [State.notify_wch, State.alerted_wch]
    exact hnone

section
variable {s : State} {src : Src} (hsrc : (src == .clk || src == .pwr) = false)
include hsrc

/-- A fatal record puts a running device in the ash state (R658). -/
theorem State.phase_fatal (hrun : s.islandsRun = true) (die code : Nat) (grove : Option Nat) (detail : Nat) :
    (s.fatal src die code grove detail).sup.phase = .ash := by
  refine State.phase_ashEntry _ _ ?_
  rw [State.record_plain _ _ _ _ _ _ _ hsrc]
  obtain ⟨low, causes, hsup⟩ := s.sup_logRec (s.mkRec src .fatal die code grove detail)
  rw [hsup]
  exact State.phase_of_islandsRun hrun

theorem State.fatal_recorded (hnone : s.wch.fatal = none) (die code : Nat) (grove : Option Nat) (detail : Nat) :
    ∃ r, (s.fatal src die code grove detail).wch.fatal = some r ∧ r.src = src ∧ r.sev = .fatal ∧ r.die = die ∧
      r.code = code := by
  have hn := State.logRec_fatal (r := s.mkRec src .fatal die code grove detail) rfl hnone
  rw [← State.record_plain _ _ _ _ _ _ _ hsrc] at hn
  exact ⟨_, (State.ashEntry_fkept _ _ (FatalKept.refl _)).fatal _ hn, rfl, rfl, rfl, rfl⟩

end

end Sys2Proof.Machine
end

section
/-! PROOFS. Stale acknowledgements and binding digests (R75, R84; O11). -/
namespace Sys2Proof.Machine

/-- What a silent operation's end does to the collective engines: a piece of a broadcast is dropped. -/
def dropPieceOf (g : Nat) : StaleOp → CollState → CollState
  | .piece die _ request => fun c => { c with pieces := terase c.pieces (reqKey die g request) }
  | _ => id

/-- An acknowledgement of no operation, of a knot's, or of a piece of a broadcast touches the pieces only. -/
theorem State.endStale_silent {op : StaleOp} (h : op = .none ∨ op = .knot ∨ ∃ d k r, op = .piece d k r) (s : State)
    (g : Nat) : s.endStale g op = s.modCol (dropPieceOf g op) := by
  obtain rfl | rfl | ⟨d, k, r, rfl⟩ := h <;> rfl

theorem heldOpens_dropPieceOf (op : StaleOp) (g : Nat) (c : CollState) : (dropPieceOf g op c).heldOpens = c.heldOpens := by
  cases op <;> rfl

theorem staleSrc_plain (op : StaleOp) : (staleSrc op == .clk || staleSrc op == .pwr) = false := by
  cases op <;> rfl

theorem State.lastRecord_modCol (s : State) (f : CollState → CollState) : (s.modCol f).lastRecord = s.lastRecord := rfl

/-- With room in the log, a STALE_GROVE acknowledgement leaves its contained record (R75). -/
theorem State.lastRecord_staleRecord (s : State) {src : Src} (hsrc : (src == .clk || src == .pwr) = false)
    (hroom : s.logRoom = true) (die grove gen : Nat) (unbound : Bool) :
    ∃ r, (s.staleRecord src die grove gen unbound).lastRecord = some r ∧ r.src = src ∧ r.sev = .contained ∧
      r.code = staleCode src ∧ r.grove = some grove ∧ r.detail = (gen + b2n unbound * 2 ^ 16) % 2 ^ 64 :=
  ⟨_, State.lastRecord_record s _ _ _ _ _ _ hsrc hroom, rfl, rfl, rfl, rfl, rfl⟩

theorem exec_staleGroveNak (s : State) (n : StaleNak) :
    exec (.staleGroveNak n) s = .next (s.kilnEvent fun s =>
      (s.staleRecord (staleSrc n.op) n.die n.grove n.generation n.unbound).endStale n.grove n.op) := rfl

section
variable {s : State} (hrun : s.islandsRun = true) (d : Nat)
include hrun

theorem exec_bindingDigestCheck_match : exec (.bindingDigestCheck d false) s = .next s := by
  show Host.Outcome.next (s.inTraining _) = _
  simp [State.inTraining, hrun]

theorem exec_bindingDigestCheck_corrupted :
    exec (.bindingDigestCheck d true) s = .next (s.fatal .grv d 0x0E none 0) := by
  show Host.Outcome.next (s.inTraining _) = _
  simp [State.inTraining, hrun]

end

/-- Settles O11: the acknowledgement is its record and the drop of a piece; corrupted tables are a fatal record, and the
ash state keeps it. -/
theorem staleNaksAndDigests : Obligations.StaleNaksAndDigests := by
  unfold Obligations.StaleNaksAndDigests
  refine ⟨fun s n hrun hheld hopens hroom hop => ?nak, fun s d hrun => ⟨exec_bindingDigestCheck_match hrun d, ?corrupted⟩⟩
  case nak =>
    have hend := State.endStale_silent hop
      (s.staleRecord (staleSrc n.op) n.die n.grove n.generation n.unbound) n.grove
    have hevent := State.kilnEvent_of_none hrun (f := fun s =>
        (s.staleRecord (staleSrc n.op) n.die n.grove n.generation n.unbound).endStale n.grove n.op)
      (by rw [hend]; simpa using hheld) (by rw [hend]; exact (heldOpens_dropPieceOf ..).trans (by simpa using hopens))
    obtain ⟨r, hlast, hrec⟩ := s.lastRecord_staleRecord (staleSrc_plain n.op) hroom n.die n.grove n.generation n.unbound
    obtain ⟨hsrc, hsev, hcode, hgrove, hdetail⟩ := hrec
    refine ⟨_, r, (exec_staleGroveNak s n).trans (congrArg _ (hevent.trans hend)),
      (State.lastRecord_modCol ..).trans hlast, hsrc, hsev,
      hcode, hgrove, hdetail, State.staleRecord_grv .., State.staleRecord_mem .., ?_⟩
    rintro d k q hpiece
    rw [hpiece]
    exact tget_terase_same ..
  case corrupted =>
    exact ⟨_, exec_bindingDigestCheck_corrupted hrun d, State.phase_fatal rfl hrun ..,
      fun hnone => State.fatal_recorded rfl hnone ..⟩

end Sys2Proof.Machine
end

section
/-! PROOFS. Batches of grove images and the channel scrub (R60, R62, R64, R71, R702; O10). -/
namespace Sys2Proof.Machine

/-! ## The commands run while the islands run -/

section
variable {s : State} (hrun : s.islandsRun = true)
include hrun

theorem exec_batchGo (v : Word) : exec (.batchGo v) s = .next (s.batchGo (setFld v 7 1 1)) :=
  congrArg _ (State.onDie_of_islandsRun hrun _)

theorem exec_batchQuiesceDone : exec .batchQuiesceDone s = .next s.batchQuiesced :=
  congrArg _ (State.onDie_of_islandsRun hrun _)

theorem exec_quiesceTimeout (image : Nat) : exec (.quiesceTimeout image) s = .next (s.batchLate image) :=
  congrArg _ (State.onDie_of_islandsRun hrun _)

theorem exec_resourceClearDone : exec .resourceClearDone s = .next s.batchDone :=
  congrArg _ (State.onDie_of_islandsRun hrun _)

theorem exec_scrubAdvance (c : Nat) : exec (.scrubAdvance c) s = .next (s.scrubAdvance c) :=
  congrArg _ (State.onDie_of_islandsRun hrun _)

end

/-! ## Steps 1 to 3: the images are read and judged (R60, R64) -/

/-- With no map-out at work, the start of a batch holds its tables and changes nothing else. -/
theorem State.startBatch_holds {s : State} (work : Tbl Grove) (l : List BatchImage) (h : s.mem.mapouts = []) :
    ∃ b, s.startBatch work l = { s with grv := { s.grv with batch := some b } } ∧ b.groves = work ∧ b.images = l ∧
      b.applied = false := by
  simp [State.startBatch, State.each, h, tget]

/-- A batch whose list and images are read and pass every check starts on the tables they leave. -/
theorem State.batchGo_starts {s s1 s2 s3 : State} {w : Word} {list : List Byte} {images : List (List Byte)}
    {work : Tbl Grove} {l : List BatchImage} (hbatch : s.grv.batch = none) (hphase : s.sup.phase ≠ .kindling)
    (htest : s.testMode = false) (hs1 : s1 = (s.softWrite .GRV_LOAD [] w).putFld .GRV_LOAD_STATUS [] 0 1 1)
    (hpos : 1 ≤ wfld w 0 6) (hmax : wfld w 0 6 ≤ 32)
    (hin : inHearth (wfld (s1.getReg .GRV_BATCH_ADDR []) 6 35 * 64) (8 * wfld w 0 6) = true)
    (hlist : s1.readLocal .hearth (wfld (s1.getReg .GRV_BATCH_ADDR []) 6 35 * 64) (8 * wfld w 0 6) = (s2, .ok, list))
    (hread : s2.readImages ((List.range (wfld w 0 6)).map fun k => (leAt list (8 * k) 8, k)) = (s3, .ok images))
    (hjudge : s3.judgeImages s3.grv.groves images.zipIdx = .ok work l) : s.batchGo w = s3.startBatch work l := by
  have hphase1 : s1.sup.phase ≠ .kindling := by rw [hs1]; exact hphase
  have htest1 : s1.testMode = false := by rw [hs1]; exact htest
  have hcount : ¬ (wfld w 0 6 = 0 ∨ 32 < wfld w 0 6) := by omega
  simp only [State.batchGo, hbatch, ← hs1]
  simp [hphase1, htest1, hcount, hin, hlist, hread, hjudge]

/-! ## Step 4: the tables are switched (R64) -/

/-- Step 4 puts the batch's tables in force and marks it applied; nothing that it clears changes them again. -/
theorem State.switchBatch_binds (s : State) (b : Batch) :
    (s.switchBatch b).grv.groves = b.groves ∧ (s.switchBatch b).grv.batch = some { b with applied := true } := by
  unfold State.switchBatch
  extract_lets fresh gone old ch discarded cleared dropped bound switched imaged tiled knots lanes sampled rekeyed
  have himaged : BoundAs switched imaged := State.each_bound _ (.refl _) fun _ i h => State.applyImage_bound i h
  have htiled : BoundAs switched tiled := State.each_bound _ himaged fun _ t h =>
    State.watchRegrove_bound t (State.resetTile_bound t (State.discardTile_bound t h))
  have hsampled : BoundAs switched sampled :=
    State.regroveSampler_bound _ _ (State.dropLanes_bound _ (State.clearKnots_bound _ htiled))
  have hrekeyed : BoundAs switched rekeyed := State.each_bound _ hsampled fun _ c h => State.rekey_bound _ c h
  have hend : BoundAs switched rekeyed.unstall.judge := State.judge_bound (State.unstall_bound hrekeyed)
  exact ⟨hend.groves, hend.batch⟩

theorem State.batchQuiesced_switches {s : State} {b : Batch} (hbatch : s.grv.batch = some b) (hnew : b.applied = false)
    (hquiet : s.quiesced b = true) : s.batchQuiesced = s.switchBatch b := by
  simp [State.batchQuiesced, hbatch, hnew, hquiet]

/-! ## A batch ends (R61, R62) -/

/-- GRV_LOAD_STATUS of a batch that has ended: its result, not at work. -/
theorem wfld_loadStatus (us image : Nat) {result : Nat} (h : result < 256) :
    wfld (BitVec.ofNat 64 (us * 2 ^ 32 + image * 2 ^ 24 + result * 2 ^ 8 + 2)) 8 8 = result ∧
      wfld (BitVec.ofNat 64 (us * 2 ^ 32 + image * 2 ^ 24 + result * 2 ^ 8 + 2)) 0 1 = 0 := by
  simp only [wfld, fld, BitVec.toNat_ofNat]
  omega

/-- With no attestation and no grove reset waiting, the end of a batch has no further effect (R640, R656). -/
theorem State.afterBatch_of_none {s : State} (hatt : s.hwd.attWait = none) (hresets : s.sup.heldGroveResets = []) :
    s.afterBatch = s := by
  have hsup : { s.sup with heldGroveResets := [] } = s.sup := by rw [← hresets]
  have hattest : s.attestRetry = s := by simp [State.attestRetry, hatt]
  rw [State.afterBatch, hattest]
  show ({ s with sup := { s.sup with heldGroveResets := [] } } : State).each s.sup.heldGroveResets _ = s
  rw [hresets, hsup]
  rfl

/-- A batch that fails for another reason than a lost key ends with its record (R62). -/
theorem State.failBatch_recorded {s : State} {result : Nat} (hkey : result ≠ 0x0B) (hatt : s.hwd.attWait = none)
    (hresets : s.sup.heldGroveResets = []) (goAt image : Nat) (grove : Option Nat) :
    s.failBatch goAt result image grove =
      (s.endBatch goAt result image).record .grv .contained 0 result grove image := by
  unfold State.failBatch
  rw [if_neg hkey]
  refine State.afterBatch_of_none ((congrArg HeartwoodState.attWait (State.record_hwd ..)).trans hatt) ?_
  rw [State.record_plain _ _ _ _ _ _ _ rfl]
  obtain ⟨low, causes, hsup⟩ := (s.endBatch goAt result image).sup_logRec
    ((s.endBatch goAt result image).mkRec .grv .contained 0 result grove image)
  rw [hsup]
  exact hresets

theorem State.batchLate_fails {s : State} {b : Batch} {i : BatchImage} {image : Nat} (hbatch : s.grv.batch = some b)
    (hnew : b.applied = false) (hfind : b.images.find? (fun x => x.index == image) = some i) :
    s.batchLate image = s.failBatch b.goAt 0x0A image (some i.grove) := by
  simp [State.batchLate, hbatch, hnew, hfind]

/-! ## Step 6 starts the scrubs (R64, R71) -/

/-- The scrub of each listed channel starts. -/
def State.startScrubs (s : State) (l : List Nat) : State :=
  s.each l fun s c => s.modChannel c fun x => { x with scrubbing := true }

theorem State.startScrubs_cons (s : State) (c : Nat) (l : List Nat) :
    s.startScrubs (c :: l) = (s.modChannel c fun x => { x with scrubbing := true }).startScrubs l := rfl

theorem State.channel_modChannel_same (s : State) (c : Nat) (f : Channel → Channel) :
    (s.modChannel c f).channel c = f (s.channel c) := tgetD_tmod_same ..

theorem State.channel_modChannel_other (s : State) {c d : Nat} (f : Channel → Channel) (h : d ≠ c) :
    (s.modChannel c f).channel d = s.channel d := tgetD_tmod_other _ _ _ _ h

/-- The starts of scrubs change the channels' controllers only. -/
theorem State.startScrubs_eq (s : State) (l : List Nat) :
    ∃ x, s.startScrubs l = { s with mem := { s.mem with channels := x } } := by
  induction l generalizing s with
  | nil => exact ⟨s.mem.channels, rfl⟩
  | cons c l ih => exact ih (s.modChannel c _)

theorem State.scrubbing_startScrubs (s : State) (l : List Nat) (c : Nat) (h : c ∈ l ∨ (s.channel c).scrubbing = true) :
    ((s.startScrubs l).channel c).scrubbing = true := by
  induction l generalizing s with
  | nil => exact h.resolve_left List.not_mem_nil
  | cons d l ih =>
    rw [State.startScrubs_cons]
    refine ih _ ?_
    by_cases hd : c = d
    · subst hd
      right
      rw [State.channel_modChannel_same]
    · rw [State.channel_modChannel_other _ _ hd]
      simpa [hd] using h

theorem State.scrubPos_startScrubs (s : State) (l : List Nat) (c : Nat) :
    ((s.startScrubs l).channel c).scrubPos = (s.channel c).scrubPos := by
  induction l generalizing s with
  | nil => rfl
  | cons d l ih =>
    rw [State.startScrubs_cons, ih]
    by_cases hd : c = d
    · subst hd
      rw [State.channel_modChannel_same]
    · rw [State.channel_modChannel_other _ _ hd]

/-- With nothing waiting, step 6 starts the scrubs and ends the batch. -/
theorem State.batchDone_ends {s : State} {b : Batch} (hbatch : s.grv.batch = some b) (happlied : b.applied = true)
    (hatt : s.hwd.attWait = none) (hresets : s.sup.heldGroveResets = []) (hheld : s.mem.held = []) :
    s.batchDone = (s.startScrubs b.channels).endBatch b.goAt 0 0 := by
  obtain ⟨x, hx⟩ := s.startScrubs_eq b.channels
  have hdone : s.batchDone = (((s.startScrubs b.channels).endBatch b.goAt 0 0).afterBatch).memRetry := by
    simp only [State.batchDone, hbatch, happlied]
    rfl
  rw [hdone, State.afterBatch_of_none (by rw [hx]; exact hatt) (by rw [hx]; exact hresets),
    State.memRetry_of_none (by rw [hx]; exact hheld)]

/-! ## The scrub advances (R71, R702) -/

/-- A line the scrub passes is no longer uncorrectable, unless it was written (R71). -/
def State.passLine (s : State) (n : Nat) : State :=
  if s.mem.written.contains n then s else { s with mem := { s.mem with bad := s.mem.bad.filter (· != n) } }

theorem State.passLine_eq (s : State) (n : Nat) : ∃ x, s.passLine n = { s with mem := { s.mem with bad := x } } := by
  unfold State.passLine
  split
  · exact ⟨s.mem.bad, rfl⟩
  · exact ⟨_, rfl⟩

theorem State.scrubAdvance_scrubbing {s : State} {c : Nat} (h : (s.channel c).scrubbing = true) :
    s.scrubAdvance c = (s.passLine (lineNo c (s.channel c).scrubPos)).modChannel c fun x =>
      { x with scrubPos := x.scrubPos + 1, scrubbing := x.scrubPos + 1 < 2 ^ 25 } := by
  simp only [State.scrubAdvance, h]
  rfl

/-- Settles O10: a batch that starts, fails or ends changes the batch at work, GRV_LOAD_STATUS and its record; the switch
of tables is read off `BoundAs`. -/
theorem batchMakesItsBindings : Obligations.BatchMakesItsBindings := by
  unfold Obligations.BatchMakesItsBindings
  refine ⟨?go, fun s b hrun hbatch hnew hquiet => ?switch, fun s b image i hrun hbatch hnew hfind hatt hresets hroom => ?late,
    fun s b hrun hbatch happlied hatt hresets hheld => ?done, fun s c hrun hscrub => ?scrub⟩
  case go =>
    rintro s s1 s2 s3 v list images work l hrun hbatch hphase htest hs1 hpos hmax hin hlist hread hjudge hmaps
    obtain ⟨b, hstart, hgroves, himages, hnew⟩ := State.startBatch_holds work l hmaps
    have hgo := (State.batchGo_starts hbatch hphase htest hs1 hpos hmax hin hlist hread hjudge).trans hstart
    exact ⟨_, b, (exec_batchGo hrun v).trans (congrArg _ hgo), rfl, hgroves, himages, hnew, rfl, rfl⟩
  case switch =>
    exact ⟨_, (exec_batchQuiesceDone hrun).trans (congrArg _ (State.batchQuiesced_switches hbatch hnew hquiet)),
      s.switchBatch_binds b⟩
  case late =>
    have hfail := (State.batchLate_fails hbatch hnew hfind).trans
      (State.failBatch_recorded (by decide) hatt hresets b.goAt image (some i.grove))
    have hroomE : (s.endBatch b.goAt 0x0A image).logRoom = true :=
      (State.logRoom_putReg (s := { s with grv := { s.grv with batch := none } }) _ (by decide) (by decide)).trans hroom
    obtain ⟨hresult, hbusy⟩ := wfld_loadStatus (min 0xFFFF (s.aonUs - b.goAt)) image (result := 0x0A) (by decide)
    have hstatus : ((s.endBatch b.goAt 0x0A image).record .grv .contained 0 0x0A (some i.grove) image).getReg
        .GRV_LOAD_STATUS [] = _ := (State.getReg_record _ _ _ _ _ _ _ rfl (by decide)).trans (State.getReg_putReg_same ..)
    refine ⟨_, (exec_quiesceTimeout hrun image).trans (congrArg _ hfail), ?_, ?_, ?_, by rw [hstatus]; exact hresult,
      by rw [hstatus]; exact hbusy, _, State.lastRecord_record _ _ _ _ _ _ _ rfl hroomE, rfl, rfl, rfl, rfl, rfl⟩
    · rw [State.record_grv]; rfl
    · rw [State.record_grv]; rfl
    · rw [State.record_mem]; rfl
  case done =>
    obtain ⟨x, hx⟩ := s.startScrubs_eq b.channels
    obtain ⟨hresult, hbusy⟩ := wfld_loadStatus (min 0xFFFF (s.aonUs - b.goAt)) 0 (result := 0) (by decide)
    have hstatus : ((s.startScrubs b.channels).endBatch b.goAt 0 0).getReg .GRV_LOAD_STATUS [] =
        BitVec.ofNat 64 (min 0xFFFF (s.aonUs - b.goAt) * 2 ^ 32 + 0 * 2 ^ 24 + 0 * 2 ^ 8 + 2) := by
      rw [hx]
      exact State.getReg_putReg_same ..
    refine ⟨_, (exec_resourceClearDone hrun).trans (congrArg _ (State.batchDone_ends hbatch happlied hatt hresets hheld)),
      rfl, ?_, by rw [hstatus]; exact hresult, by rw [hstatus]; exact hbusy,
      fun c hc => s.scrubbing_startScrubs _ c (.inl hc), s.scrubPos_startScrubs _, ?_⟩
    · rw [hx]; rfl
    · rw [hx]; rfl
  case scrub =>
    obtain ⟨x, hx⟩ := s.passLine_eq (lineNo c (s.channel c).scrubPos)
    have hadvance := State.scrubAdvance_scrubbing hscrub
    rw [hx] at hadvance
    refine ⟨_, (exec_scrubAdvance hrun c).trans (congrArg _ hadvance), ?_, ?_,
      fun d hd => State.channel_modChannel_other _ _ hd, rfl, rfl⟩
    · rw [State.channel_modChannel_same]; rfl
    · rw [State.channel_modChannel_same]
      exact decide_eq_true_iff

end Sys2Proof.Machine
end

section
/-! PROOFS. Cells, lines and bytes as a reader sees them, after a write (R71, R394). -/
namespace Sys2Proof.Machine

/-! ## Cells -/

theorem cellGet_below {l : List Host.Cell} {j k : Nat} (h : risingFrom (some j) l) (hk : k ≤ j) : cellGet l k = none := by
  cases l with
  | nil => rfl
  | cons x t =>
    obtain ⟨i, v⟩ := x
    obtain ⟨-, -, hi⟩ := risingFrom_head h
    have hki : k < i := Nat.lt_of_le_of_lt hk (hi j rfl)
    rw [cellGet, if_neg (Nat.ne_of_gt hki), if_pos hki]

/-- The place written holds the byte; a zero is not listed. -/
theorem cellGet_cellPut_same {l : List Host.Cell} {b : Option Nat} (h : risingFrom b l) (k : Nat) (v : Byte) :
    (cellGet (cellPut l k v) k).getD 0 = v := by
  induction l generalizing b with
  | nil =>
    unfold cellPut
    split
    · simp [cellGet, *]
    · simp [cellGet]
  | cons x t ih =>
    obtain ⟨i, w⟩ := x
    obtain ⟨-, ht, -⟩ := risingFrom_head h
    unfold cellPut
    split
    · split
      · simp [cellGet, Nat.ne_of_gt, *]
      · simp [cellGet]
    · split
      · subst_vars
        split
        · simp [cellGet_below ht (Nat.le_refl _), *]
        · simp [cellGet]
      · rw [cellGet, if_neg (by omega), if_neg (by omega), ih ht]

/-- The other places are as they were. -/
theorem cellGet_cellPut_other {l : List Host.Cell} {b : Option Nat} (h : risingFrom b l) {j k : Nat} (v : Byte)
    (hj : j ≠ k) : cellGet (cellPut l k v) j = cellGet l j := by
  induction l generalizing b with
  | nil =>
    unfold cellPut
    split
    · rfl
    · simp [cellGet, hj.symm]
  | cons x t ih =>
    obtain ⟨i, w⟩ := x
    obtain ⟨-, ht, -⟩ := risingFrom_head h
    unfold cellPut
    split
    · split
      · rfl
      · rw [cellGet, if_neg hj.symm]
        split
        · rw [cellGet, if_neg (by omega), if_pos (by omega)]
        · rfl
    · split
      · subst_vars
        simp only [cellGet, if_neg hj.symm]
        split
        · split
          · exact cellGet_below ht (by omega)
          · rfl
        · simp [cellGet, hj.symm]
      · simp only [cellGet, ih ht]

/-- Bytes written from a place on, in order. -/
def putCells (l : List Host.Cell) (a : Nat) (bs : List Byte) (n : Nat) : List Host.Cell :=
  (bs.zipIdx n).foldl (fun l p => cellPut l (a + p.2) p.1) l

theorem putCells_cons (l : List Host.Cell) (a : Nat) (v : Byte) (bs : List Byte) (n : Nat) :
    putCells l a (v :: bs) n = putCells (cellPut l (a + n) v) a bs (n + 1) := rfl

theorem cellGet_putCells_other {l : List Host.Cell} (h : Memory.wf l) {a j : Nat} {bs : List Byte} {n : Nat}
    (hj : ∀ i, i < bs.length → j ≠ a + (n + i)) : cellGet (putCells l a bs n) j = cellGet l j := by
  induction bs generalizing l n with
  | nil => rfl
  | cons v bs ih =>
    have hhead : j ≠ a + n := hj 0 (by simp)
    rw [putCells_cons, ih (cellPut_wf _ _ h) fun i hi => ?_, cellGet_cellPut_other h v hhead]
    have := hj (i + 1) (by simpa using hi)
    omega

theorem cellGet_putCells_same {l : List Host.Cell} (h : Memory.wf l) (a : Nat) {bs : List Byte} {n i : Nat}
    (hi : i < bs.length) : (cellGet (putCells l a bs n) (a + (n + i))).getD 0 = bs.getD i 0 := by
  induction bs generalizing l n i with
  | nil => simp at hi
  | cons v bs ih =>
    rw [putCells_cons]
    cases i with
    | zero =>
      rw [cellGet_putCells_other (cellPut_wf _ _ h) fun i _ => by omega]
      exact cellGet_cellPut_same h _ v
    | succ i =>
      rw [show a + (n + (i + 1)) = a + (n + 1 + i) by omega, ih (cellPut_wf _ _ h) (by simpa using hi)]
      rfl

/-! ## Places and lines -/

theorem place_inj {c d x y : Nat} (hx : x < 2 ^ 31) (hy : y < 2 ^ 31) (h : place c x = place d y) : c = d ∧ x = y := by
  unfold place at h
  omega

theorem lineNo_inj {c d x y : Nat} (hx : x < 2 ^ 25) (hy : y < 2 ^ 25) (h : lineNo c x = lineNo d y) : c = d ∧ x = y := by
  unfold lineNo at h
  omega

theorem mem_sinsert {l : List Nat} {k x : Nat} : x ∈ sinsert l k ↔ x = k ∨ x ∈ l := by
  induction l with
  | nil => simp [sinsert]
  | cons i l ih =>
    unfold sinsert
    split
    · simp
    · split
      · subst_vars
        simp
      · simp [ih]
        tauto

/-- A local offset lies in a channel's 2^31 bytes, at the same place of a line (R390). -/
theorem State.locate_bound {s : State} {o c b : Nat} (h : s.locate o = some (c, b)) : b < 2 ^ 31 ∧ b % 64 = o % 64 := by
  unfold State.locate at h
  extract_lets stripe at h
  have hstripe : ∀ k w, w < 2 ^ 34 → (stripe k w).2 < 2 ^ 31 ∧ (stripe k w).2 % 64 = o % 64 := by
    intro k w hw
    simp only [stripe]
    omega
  split at h
  · rename_i k w p _
    have hp : p.2 < 2 ^ 31 ∧ p.2 % 64 = o % 64 := by
      have hw : w < 2 ^ 34 := Nat.mod_lt _ (by decide)
      simp only [p]
      split
      · exact hstripe k w hw
      · simp only [w]
        omega
    split at h
    · cases h
    · split at h
      · cases h
      · have heq : p = (c, b) := Option.some.inj h
        rwa [heq] at hp
  · split at h
    · obtain hp := Option.some.inj h
      have hb := hstripe (if o < 0x10400000000 then 4 else 34) ((o - 0x10000000000) % 2 ^ 34) (Nat.mod_lt _ (by decide))
      rw [hp] at hb
      exact hb
    · cases h

/-! ## Bytes as a reader sees them -/

theorem State.length_rawLine (s : State) (c line : Nat) : (s.rawLine c line).length = 64 := by simp [State.rawLine]

theorem State.getD_rawLine (s : State) (c line : Nat) {i : Nat} (h : i < 64) :
    (s.rawLine c line).getD i 0 = s.rawByte c (64 * line + i) := by
  simp [State.rawLine, List.getD, h]

/-- Where the adder buffer holds no line, a reader sees the write-combining entry's byte, or the stack's (R394). -/
theorem State.viewByte_of_noAdders {s : State} {c : Nat} (h : (s.channel c).adders = []) (x : Nat) :
    s.viewByte c x = (((s.channel c).wcb.find? (·.line == x / 64)).bind fun e => tget e.bytes (x % 64)).getD (s.rawByte c x) := by
  have hlt : x % 64 < 64 := Nat.mod_lt _ (by decide)
  have hraw : (s.rawLine c (x / 64)).getD (x % 64) 0 = s.rawByte c x := by
    rw [s.getD_rawLine c _ hlt, Nat.div_add_mod]
  unfold State.viewByte State.viewLine
  rw [h]
  simp only [List.find?_nil]
  cases hfind : (s.channel c).wcb.find? (·.line == x / 64) with
  | none => simpa using hraw
  | some e =>
    have hlen : x % 64 < (s.rawLine c (x / 64)).length := by rw [s.length_rawLine]; exact hlt
    have hget : (s.rawLine c (x / 64))[x % 64]'hlen = s.rawByte c x := by
      rw [← hraw, List.getD_eq_getElem _ _ hlen]
    simp [List.getD, hlen, hget]

/-- The stack's line and the channel's buffers say what a reader sees. -/
theorem State.viewByte_congr {s t : State} {c x : Nat} (hchan : t.channel c = s.channel c)
    (hraw : ∀ i, i < 64 → t.rawByte c (64 * (x / 64) + i) = s.rawByte c (64 * (x / 64) + i)) :
    t.viewByte c x = s.viewByte c x := by
  have hline : t.rawLine c (x / 64) = s.rawLine c (x / 64) :=
    List.map_congr_left fun i hi => hraw i (List.mem_range.mp hi)
  simp only [State.viewByte, State.viewLine, hchan, hline]

/-! ## A whole line written -/

section
variable {s : State} {c line : Nat} {bs : List Byte} (hwf : Memory.wf s.mem.cells) (hlen : bs.length = 64)
  (hline : line < 2 ^ 25)

theorem State.cells_putLine (s : State) (c line : Nat) (bs : List Byte) :
    (s.putLine c line bs).mem.cells = putCells s.mem.cells (place c (64 * line)) bs 0 := by
  have hplace : ∀ i, place c (64 * line + i) = place c (64 * line) + i := fun i => (Nat.add_assoc ..).symm
  simp only [putCells, ← hplace]
  rfl

theorem State.lineKnown_putLine_same (s : State) (c line : Nat) (bs : List Byte) :
    (s.putLine c line bs).lineKnown c line = true := by
  have hmem : c * 2 ^ 25 + line ∈ (s.putLine c line bs).mem.written := mem_sinsert.mpr (.inl rfl)
  unfold State.lineKnown
  rw [List.contains_iff_mem.mpr hmem, Bool.or_true]

include hline in
theorem State.lineKnown_putLine_other {d l : Nat} (hl : l < 2 ^ 25) (h : d ≠ c ∨ l ≠ line) :
    (s.putLine c line bs).lineKnown d l = s.lineKnown d l := by
  have hne : lineNo d l ≠ lineNo c line := fun heq => by
    obtain ⟨hd, hll⟩ := lineNo_inj hl hline heq
    exact h.elim (· hd) (· hll)
  have hmem : (s.putLine c line bs).mem.written.contains (d * 2 ^ 25 + l) = s.mem.written.contains (d * 2 ^ 25 + l) := by
    rw [Bool.eq_iff_iff, List.contains_iff_mem, List.contains_iff_mem]
    exact mem_sinsert.trans (or_iff_right hne)
  unfold State.lineKnown
  rw [hmem]
  rfl

include hwf hlen in
theorem State.rawByte_putLine_same {i : Nat} (hi : i < 64) :
    (s.putLine c line bs).rawByte c (64 * line + i) = bs.getD i 0 := by
  have hget := cellGet_putCells_same hwf (place c (64 * line)) (bs := bs) (n := 0) (hlen ▸ hi)
  have hplace : place c (64 * line) + (0 + i) = place c (64 * line + i) := by simp [place, Nat.add_assoc]
  have hknown := s.lineKnown_putLine_same c line bs
  rw [← State.cells_putLine, hplace] at hget
  rw [← hget]
  unfold State.rawByte
  rw [show (64 * line + i) / 64 = line by omega, hknown]
  cases cellGet (s.putLine c line bs).mem.cells (place c (64 * line + i)) <;> rfl

include hwf hlen hline in
theorem State.rawByte_putLine_other {d x : Nat} (hx : x < 2 ^ 31) (h : d ≠ c ∨ x / 64 ≠ line) :
    (s.putLine c line bs).rawByte d x = s.rawByte d x := by
  have hget : cellGet (s.putLine c line bs).mem.cells (place d x) = cellGet s.mem.cells (place d x) := by
    rw [State.cells_putLine]
    refine cellGet_putCells_other hwf fun i hi heq => ?_
    have hplace : place d x = place c (64 * line + i) := by
      rw [heq]
      simp [place, Nat.add_assoc]
    obtain ⟨hd, hxi⟩ := place_inj hx (by omega) hplace
    exact h.elim (· hd) (· (by omega))
  unfold State.rawByte
  rw [hget, State.lineKnown_putLine_other hline (by omega) h]
  rfl

end

/-! ## A channel's buffers changed -/

theorem State.rawByte_modChannel (s : State) (c : Nat) (f : Channel → Channel)
    (hscrub : ∀ x, (f x).scrubPos = x.scrubPos) (d x : Nat) : (s.modChannel c f).rawByte d x = s.rawByte d x := by
  have hpos : ((s.modChannel c f).channel d).scrubPos = (s.channel d).scrubPos := by
    by_cases hd : d = c
    · subst hd
      rw [State.channel_modChannel_same, hscrub]
    · rw [State.channel_modChannel_other _ _ hd]
  unfold State.rawByte State.lineKnown
  rw [hpos]
  rfl

/-- A controller whose buffers hold nothing of a line any more. -/
def Channel.dropLine (line : Nat) (x : Channel) : Channel :=
  { x with wcb := x.wcb.filter (·.line != line), adders := x.adders.filter (·.1 != line) }

theorem Channel.find_dropLine (x : Channel) (line l : Nat) :
    (x.dropLine line).wcb.find? (·.line == l) = if l = line then none else x.wcb.find? (·.line == l) := by
  unfold Channel.dropLine
  dsimp only
  rw [List.find?_filter]
  split
  · subst_vars
    simp
  · refine congrArg (List.find? · x.wcb) (funext fun e => ?_)
    by_cases he : e.line = l <;> simp [*]

/-- A controller whose write-combining buffer has taken an entry. -/
def Channel.takeEntry (e : WcbEntry) (x : Channel) : Channel := { x with wcb := x.wcb ++ [e] }

theorem Channel.find_takeEntry {x : Channel} {e : WcbEntry} (hnone : x.wcb.find? (·.line == e.line) = none) (l : Nat) :
    (x.takeEntry e).wcb.find? (·.line == l) = if l = e.line then some e else x.wcb.find? (·.line == l) := by
  unfold Channel.takeEntry
  dsimp only
  rw [List.find?_append]
  split
  · subst_vars
    simp [hnone]
  · simp [Ne.symm, *]

/-- The bytes of a write-combining entry after a write from position `pos` on. -/
def putBytes (t : Tbl Byte) (pos : Nat) (bs : List Byte) (n : Nat) : Tbl Byte :=
  (bs.zipIdx n).foldl (fun t p => tset t (pos + p.2) p.1) t

theorem putBytes_cons (t : Tbl Byte) (pos : Nat) (v : Byte) (bs : List Byte) (n : Nat) :
    putBytes t pos (v :: bs) n = putBytes (tset t (pos + n) v) pos bs (n + 1) := rfl

theorem tget_putBytes_other (t : Tbl Byte) {pos j : Nat} {bs : List Byte} {n : Nat}
    (hj : ∀ i, i < bs.length → j ≠ pos + (n + i)) : tget (putBytes t pos bs n) j = tget t j := by
  induction bs generalizing t n with
  | nil => rfl
  | cons v bs ih =>
    have hhead : j ≠ pos + n := hj 0 (by simp)
    rw [putBytes_cons, ih _ fun i hi => ?_, tget_tset_other _ _ hhead]
    have := hj (i + 1) (by simpa using hi)
    omega

theorem tget_putBytes_same (t : Tbl Byte) (pos : Nat) {bs : List Byte} {n i : Nat} (hi : i < bs.length) :
    tget (putBytes t pos bs n) (pos + (n + i)) = some (bs.getD i 0) := by
  induction bs generalizing t n i with
  | nil => simp at hi
  | cons v bs ih =>
    rw [putBytes_cons]
    cases i with
    | zero =>
      rw [tget_putBytes_other _ fun i _ => by omega]
      exact tget_tset_same ..
    | succ i =>
      rw [show pos + (n + (i + 1)) = pos + (n + 1 + i) by omega, ih _ (by simpa using hi)]
      rfl

/-! ## What a write shows a reader (R394) -/

/-- The write of a state as a reader sees it: its bytes stand from byte b of channel c on, and every other byte is as
before; nothing is sent and no register changes. -/
structure Written (s t : State) (c b : Nat) (bs : List Byte) : Prop where
  bytes : ∀ i, i < bs.length → t.viewByte c (b + i) = bs.getD i 0
  others : ∀ d x, x < 2 ^ 31 → ¬(d = c ∧ b ≤ x ∧ x < b + bs.length) → t.viewByte d x = s.viewByte d x
  outbox : t.outbox = s.outbox
  regs : t.regs = s.regs

/-- The state in which a line's buffered bytes are gone and its words are saturated targets no more. -/
def State.clearLine (s : State) (c line : Nat) : State :=
  (s.unsaturate fun w => w / 16 == lineNo c line).modChannel c (Channel.dropLine line)

/-- A whole line replaces what the buffers hold of it. -/
theorem State.writeLine_whole {s : State} {c b : Nat} {bs : List Byte} (g : Nat) (hwf : Memory.wf s.mem.cells)
    (hb : b < 2 ^ 31) (halign : b % 64 = 0) (hlen : bs.length = 64) (hadders : (s.channel c).adders = []) :
    ∃ t, s.writeLine c (b / 64) (b % 64) bs g = (t, true) ∧ Written s t c b bs := by
  have hwrite : s.writeLine c (b / 64) (b % 64) bs g = ((s.clearLine c (b / 64)).putLine c (b / 64) bs, true) :=
    if_pos ⟨halign, hlen⟩
  refine ⟨_, hwrite, ?_⟩
  have hchan : ((s.clearLine c (b / 64)).putLine c (b / 64) bs).channel c = (s.channel c).dropLine (b / 64) :=
    State.channel_modChannel_same ..
  have hnone : (((s.clearLine c (b / 64)).putLine c (b / 64) bs).channel c).adders = [] := by
    rw [hchan, Channel.dropLine, hadders]
    rfl
  have hraw : ∀ d x, (s.clearLine c (b / 64)).rawByte d x = s.rawByte d x :=
    State.rawByte_modChannel _ c (Channel.dropLine _) fun _ => rfl
  refine ⟨fun i hi => ?_, fun d x hx hout => ?_, rfl, rfl⟩
  · have hsame := State.rawByte_putLine_same (s := s.clearLine c (b / 64)) (c := c) (line := b / 64) hwf hlen (hlen ▸ hi)
    rw [show 64 * (b / 64) = b by omega] at hsame
    rw [State.viewByte_of_noAdders hnone, hchan, Channel.find_dropLine, if_pos (by omega), Option.bind_none,
      Option.getD_none, hsame]
  · have hother := fun y (hy : y < 2 ^ 31) => State.rawByte_putLine_other (s := s.clearLine c (b / 64)) (c := c)
      (line := b / 64) (d := d) hwf hlen (by omega) hy
    by_cases hd : d = c
    · subst hd
      have hne : x / 64 ≠ b / 64 := fun heq => hout ⟨rfl, by omega, by omega⟩
      rw [State.viewByte_of_noAdders hnone, State.viewByte_of_noAdders hadders, hchan, Channel.find_dropLine, if_neg hne,
        hother x hx (.inr hne), hraw]
    · exact State.viewByte_congr (State.channel_modChannel_other _ _ hd) fun i hi =>
        (hother _ (by omega) (.inl hd)).trans (hraw ..)

/-- Part of a line takes a new write-combining entry while the buffer has room and holds none of the line. -/
theorem State.writeLine_entry {s : State} {c b : Nat} {bs : List Byte} (g : Nat) (hpart : bs.length ≠ 64)
    (hfit : b % 64 + bs.length ≤ 64) (hadders : (s.channel c).adders = []) (hbad : s.lineBad c (b / 64) = false)
    (hroom : (s.channel c).wcb.length < 64) (hfree : ∀ e ∈ (s.channel c).wcb, e.line ≠ b / 64) :
    ∃ t, s.writeLine c (b / 64) (b % 64) bs g = (t, true) ∧ Written s t c b bs := by
  have hnone : (s.channel c).wcb.find? (·.line == b / 64) = none :=
    List.find?_eq_none.mpr fun e he => by simpa using hfree e he
  obtain ⟨e, he⟩ : ∃ e : WcbEntry, e = { line := b / 64, bytes := putBytes [] (b % 64) bs 0, grove := g, at_ := s.aonUs } :=
    ⟨_, rfl⟩
  obtain ⟨u, hu⟩ : ∃ u, u = s.unsaturate fun w =>
      wordNo c (b / 64) (b % 64) ≤ w && w ≤ wordNo c (b / 64) (b % 64 + bs.length - 1) := ⟨_, rfl⟩
  have huchan : u.channel c = s.channel c := by rw [hu]; rfl
  have hwrite : s.writeLine c (b / 64) (b % 64) bs g = (u.modChannel c (Channel.takeEntry e), true) := by
    have hsettle : s.settleAdder c (b / 64) = s := by simp [State.settleAdder, hadders]
    unfold State.writeLine
    rw [if_neg (fun h => hpart h.2), hsettle, if_neg (by simp [hbad])]
    simp only [← hu, huchan, hnone, if_neg (Nat.not_le.mpr hroom), he]
    rw [hu]
    rfl
  have hline : e.line = b / 64 := by rw [he]
  have hchan : (u.modChannel c (Channel.takeEntry e)).channel c = (s.channel c).takeEntry e := by
    rw [State.channel_modChannel_same, huchan]
  have hnadders : ((u.modChannel c (Channel.takeEntry e)).channel c).adders = [] := by rw [hchan]; exact hadders
  have hraw : ∀ d x, (u.modChannel c (Channel.takeEntry e)).rawByte d x = s.rawByte d x := fun d x => by
    rw [State.rawByte_modChannel _ c (Channel.takeEntry e) fun _ => rfl, hu]
    rfl
  have hfind := Channel.find_takeEntry (x := s.channel c) (e := e) (hline ▸ hnone)
  refine ⟨_, hwrite, fun i hi => ?_, fun d x hx hout => ?_, by rw [hu]; rfl, by rw [hu]; rfl⟩
  · have hget : tget e.bytes (b % 64 + (0 + i)) = some (bs.getD i 0) := by
      rw [he]
      exact tget_putBytes_same [] (b % 64) hi
    rw [State.viewByte_of_noAdders hnadders, hchan, hfind, if_pos (by omega), Option.bind_some,
      show (b + i) % 64 = b % 64 + (0 + i) by omega, hget, Option.getD_some]
  · by_cases hd : d = c
    · subst hd
      rw [State.viewByte_of_noAdders hnadders, State.viewByte_of_noAdders hadders, hchan, hfind, hraw]
      split
      · rename_i hx
        have hget : tget e.bytes (x % 64) = none := by
          rw [he]
          exact tget_putBytes_other [] fun i hi heq => hout ⟨rfl, by omega, by omega⟩
        rw [hx, hline, hnone, Option.bind_some, hget, Option.bind_none]
      · rfl
    · exact State.viewByte_congr ((State.channel_modChannel_other _ _ hd).trans (by rw [hu]; rfl)) fun i hi => hraw d _

end Sys2Proof.Machine
end

section
/-! PROOFS. Memory requests (R73, R391, R394, R395, R404; O29). -/
namespace Sys2Proof.Machine

theorem exec_memRequest {s : State} (hrun : s.islandsRun = true) (r : MemReq) :
    exec (.memRequest r false) s = .next (s.memRequest r) :=
  congrArg _ (State.onDie_of_islandsRun hrun _)

/-- An uncorrectable error in a controller's own state is a fatal MEM record (R415). -/
theorem exec_memRequest_ctrlUe {s : State} (hrun : s.islandsRun = true) (r : MemReq) :
    ∃ die grove detail, exec (.memRequest r true) s = .next (s.fatal .mem die 0x0E grove detail) := by
  have hexec : exec (.memRequest r true) s = .next (match s.locate r.offset with
      | some (c, b) => s.fatal .mem (dieOfChannel c) 0x0E (s.channelOwner c) (memDetail c b)
      | none => s.fatal .mem r.origin.die 0x0E none 0) := congrArg _ (State.onDie_of_islandsRun hrun _)
  rw [hexec]
  split <;> exact ⟨_, _, _, rfl⟩

/-- A stale message leaves memory and the bindings (R73, R74). -/
theorem State.sendFrame_dropStale (s : State) (die : Nat) (o : Origin) (trunk : Bool) :
    (s.dropStale die o trunk).sendFrame = s.sendFrame := by
  unfold State.dropStale
  extract_lets counted last key due bound gr
  have hlast : last.sendFrame = s.sendFrame := by simp [last, counted]
  split
  · exact (State.sendFrame_sendNow ..).trans hlast
  · exact hlast

theorem State.memRequest_stale {s : State} {r : MemReq} (h : s.admission r.unit r.origin r.offset = .stale) :
    ∃ die, s.memRequest r = s.dropStale die r.origin := by
  simp only [State.memRequest, h]
  exact ⟨_, rfl⟩

section
variable {s : State} {r : MemReq} {g c b : Nat} (hadm : s.admission r.unit r.origin r.offset = .ok (.grove g))
include hadm

theorem State.memRequest_waits (hwait : s.mustWait (.req r) r.offset r.data.isSome = true) :
    s.memRequest r = { s with mem := { s.mem with held := s.mem.held ++ [.req r] } } := by
  simp [State.memRequest, hadm, hwait]

theorem State.memRequest_served (hloc : s.locate r.offset = some (c, b))
    (hgo : s.mustWait (.req r) r.offset r.data.isSome = false) : s.memRequest r = s.serve r g c b := by
  simp [State.memRequest, hadm, hgo, hloc]

end

/-- A read of a line without flips is answered with what a reader sees there. -/
theorem State.serve_read {s : State} {r : MemReq} {c b : Nat} (g : Nat) (hread : r.data = none)
    (hadders : (s.channel c).adders = []) (hbad : s.lineBad c (b / 64) = false) (hclean : s.decode c r.err = .clean) :
    s.serve r g c b =
      s.emit (.readData r.unit r.origin r.offset (((s.viewLine c (b / 64)).drop (b % 64)).take r.length)) := by
  have hburst : s.burst c (b / 64) r.err = (s, none) := by simp [State.burst, hbad, hclean]
  simp [State.serve, hread, hadders, hburst, hbad]

/-- A write that finds its place in the buffer evicts nothing. -/
theorem State.serve_write {s t : State} {r : MemReq} {bs : List Byte} {g c b : Nat} (hdata : r.data = some bs)
    (hroom : r.length = 64 ∨ (s.channel c).wcb.length < 64)
    (hwrite : s.writeLine c (b / 64) (b % 64) bs g = (t, true)) : s.serve r g c b = t := by
  have hevict : s.evictedLine c (b / 64) r = none := by
    obtain h | h := hroom <;> simp [State.evictedLine, h]
  simp [State.serve, hdata, hevict, hwrite]

theorem MemReq.fits_of_wf {r : MemReq} {bs : List Byte} (h : r.wf = true) (hdata : r.data = some bs) :
    bs.length = r.length ∧ r.offset % 64 + bs.length ≤ 64 := by
  simp only [MemReq.wf, hdata, Bool.and_eq_true, decide_eq_true_eq, beq_iff_eq] at h
  omega

theorem State.cells_of_memWf {s : State} (h : s.memWf = true) : Memory.wf s.mem.cells := by
  simp only [State.memWf, Bool.and_eq_true] at h
  exact h.1

/-- Settles O29: a read is answered from the reader's line, a write is one of `writeLine_whole` and `writeLine_entry`, and
a fatal record enters the ash state. -/
theorem memoryRequests : Obligations.MemoryRequests := by
  unfold Obligations.MemoryRequests
  intro s r g c b hrun hreq hmem
  refine ⟨?fatal, fun hstale => ?stale, fun hadm hloc => ⟨fun hwait => ?waits, fun hgo hbad =>
    ⟨fun u hread hadders hclean hu => ?read, fun bs hdata hadders hfree => ?write⟩⟩⟩
  case fatal =>
    obtain ⟨die, grove, detail, hexec⟩ := exec_memRequest_ctrlUe hrun r
    exact ⟨_, hexec, State.phase_fatal rfl hrun ..⟩
  case stale =>
    obtain ⟨die, hdrop⟩ := State.memRequest_stale hstale
    exact ⟨_, (exec_memRequest hrun r).trans (congrArg _ hdrop),
      congrArg (fun p => p.2.1) (s.sendFrame_dropStale die r.origin false)⟩
  case waits => exact (exec_memRequest hrun r).trans (congrArg _ (State.memRequest_waits hadm hwait))
  case read =>
    rw [exec_memRequest hrun, State.memRequest_served hadm hloc hgo, State.serve_read g hread hadders hbad hclean, ← hu]
    rfl
  case write =>
    obtain ⟨hlen, hfit⟩ := MemReq.fits_of_wf hreq hdata
    obtain ⟨hb, halign⟩ := State.locate_bound hloc
    rw [← halign] at hfit
    obtain ⟨t, hwrite, hwritten⟩ : ∃ t, s.writeLine c (b / 64) (b % 64) bs g = (t, true) ∧ Written s t c b bs := by
      by_cases hwhole : bs.length = 64
      · exact State.writeLine_whole g (State.cells_of_memWf hmem) hb (by omega) hwhole hadders
      · obtain ⟨hroom, hnew⟩ := hfree.resolve_left hwhole
        exact State.writeLine_entry g hwhole hfit hadders hbad hroom hnew
    have hserve := State.serve_write hdata (hfree.imp (hlen ▸ ·) (·.1)) hwrite
    obtain ⟨hbytes, hothers, hout, hregs⟩ := hwritten
    exact ⟨t, (exec_memRequest hrun r).trans (congrArg _ ((State.memRequest_served hadm hloc hgo).trans hserve)), hbytes,
      hothers, hout, hregs⟩

end Sys2Proof.Machine
end

section
/-! PROOFS. What the link layer's operations do to one port, to the messages sent and to what links read (R434, R435). -/
namespace Sys2Proof.Machine

/-! ## The registers that routing reads -/

/-- The registers of the torus and of the stand-ins (R437, R451, R460). -/
def linkCfg : List (Reg × List Nat) := (.LNK_TORUS, [0]) :: (List.range 6).map fun d => (.LNK_STANDIN, [d / 3, d % 3])

/-- The statistics counters of a port that a flit or a replay counts on (R459). -/
def flitStats : List (Reg × Reg) :=
  [(.LNK_FEC_CORR_T, .LNK_FEC_CORR_B), (.LNK_CRC_ERR_T, .LNK_CRC_ERR_B), (.LNK_RX_FLITS_T, .LNK_RX_FLITS_B),
    (.LNK_FWD_T, .LNK_FWD_B), (.LNK_REVERSE_T, .LNK_REVERSE_B), (.LNK_TX_FLITS_T, .LNK_TX_FLITS_B),
    (.LNK_REPLAY_T, .LNK_REPLAY_B), (.LNK_RETRAIN_T, .LNK_RETRAIN_B)]

theorem flitStats_apart : ∀ x ∈ flitStats, ∀ p ∈ allPorts, ∀ y ∈ linkCfg,
    regAddr y.1 y.2 ≠ regAddr (portReg p x.1 x.2) (portIx p) := by decide +kernel

theorem flitStats_src : ∀ x ∈ flitStats, ∀ p ∈ allPorts,
    srcOfOffset (regAddr (portReg p x.1 x.2) (portIx p)) = .lnk := by decide +kernel

theorem flitStats_notIdent : ∀ x ∈ flitStats,
    (x.1 ≠ .GLB_IDENT ∧ x.1 ≠ .GLB_DEVNUM) ∧ x.2 ≠ .GLB_IDENT ∧ x.2 ≠ .GLB_DEVNUM := by decide

theorem linkCfg_plain : ∀ y ∈ linkCfg, plainOff (regAddr y.1 y.2) = true := by decide +kernel

/-- What links read beside the ports, and memory: what sending keeps, the references, the torus and the stand-ins. -/
def State.linkSide (s : State) : (CollState × MemState × Tbl Grove × Nat) × ClockState × List Word :=
  (s.sendFrame, s.clk, linkCfg.map fun y => s.getReg y.1 y.2)

theorem State.linkSide_bumpPort (s : State) {p : Nat} {x : Reg × Reg} (n : Nat) (hp : p ∈ allPorts) (hx : x ∈ flitStats) :
    (s.bumpPort p x.1 x.2 n).linkSide = s.linkSide := by
  have hcfg : ∀ y ∈ linkCfg, (s.bump (portReg p x.1 x.2) (portIx p) n).getReg y.1 y.2 = s.getReg y.1 y.2 := by
    intro y hy
    have hput : ∀ v, (s.putReg (portReg p x.1 x.2) (portIx p) v).getReg y.1 y.2 = s.getReg y.1 y.2 :=
      fun v => s.getReg_putReg_other v (flitStats_apart x hx p hp y hy)
    unfold State.bump
    extract_lets c t off
    split
    · rw [State.getReg_record _ _ _ _ _ _ _ (by rw [flitStats_src x hx p hp]; rfl) (linkCfg_plain y hy)]
      exact hput _
    · exact hput _
  obtain ⟨ht, hb⟩ := flitStats_notIdent x hx
  unfold State.linkSide
  rw [s.sendFrame_bumpPort p n ht hb]
  unfold State.bumpPort
  split
  · rfl
  · rw [List.map_congr_left hcfg, State.bump_clk]

/-! ## A port's step -/

@[simp] theorem State.port_modPort_same (s : State) (p : Nat) (f : Port → Port) : (s.modPort p f).port p = f (s.port p) :=
  tgetD_tmod_same ..

theorem State.port_modPort_other (s : State) {p r : Nat} (f : Port → Port) (h : r ≠ p) : (s.modPort p f).port r = s.port r :=
  tgetD_tmod_other _ _ _ _ h

/-- From `s` to `t` port `p` is changed by `f`, every other port and what links read is kept, and `out` is sent. -/
structure PortStep (s t : State) (p : Nat) (f : Port → Port) (out : List Msg) : Prop where
  port : t.port p = f (s.port p)
  others : ∀ r, r ≠ p → t.port r = s.port r
  sent : t.outbox = s.outbox ++ out
  side : t.linkSide = s.linkSide

theorem PortStep.trans {s t u : State} {p : Nat} {f g : Port → Port} {out more : List Msg} (h : PortStep s t p f out)
    (k : PortStep t u p g more) : PortStep s u p (g ∘ f) (out ++ more) where
  port := by rw [k.port, h.port]; rfl
  others r hr := (k.others r hr).trans (h.others r hr)
  sent := by rw [k.sent, h.sent, List.append_assoc]
  side := k.side.trans h.side

theorem PortStep.thenQuiet {s t u : State} {p : Nat} {f g : Port → Port} {out : List Msg} (h : PortStep s t p f out)
    (k : PortStep t u p g []) : PortStep s u p (g ∘ f) out :=
  out.append_nil ▸ h.trans k

theorem PortStep.modPort (s : State) (p : Nat) (f : Port → Port) : PortStep s (s.modPort p f) p f [] where
  port := s.port_modPort_same p f
  others _ hr := s.port_modPort_other f hr
  sent := (List.append_nil _).symm
  side := rfl

/-- A counter of some port leaves every port. -/
theorem PortStep.count (s : State) (p : Nat) {q : Nat} {x : Reg × Reg} (n : Nat) (hq : q ∈ allPorts) (hx : x ∈ flitStats) :
    PortStep s (s.bumpPort q x.1 x.2 n) p id [] := by
  have hlnk : (s.bumpPort q x.1 x.2 n).lnk = s.lnk := by
    unfold State.bumpPort
    split
    · rfl
    · exact State.bump_lnk ..
  have hout : (s.bumpPort q x.1 x.2 n).outbox = s.outbox := by
    unfold State.bumpPort
    split
    · rfl
    · exact State.bump_outbox ..
  have hport : ∀ r, (s.bumpPort q x.1 x.2 n).port r = s.port r := fun r => by simp only [State.port, hlnk]
  exact ⟨hport p, fun r _ => hport r, by rw [hout, List.append_nil], s.linkSide_bumpPort n hq hx⟩

theorem PortStep.emits (s : State) (p : Nat) (ms : List Msg) : PortStep s (s.emits ms) p id ms :=
  ⟨rfl, fun _ _ => rfl, rfl, rfl⟩

theorem PortStep.emit (s : State) (p : Nat) (m : Msg) : PortStep s (s.emit m) p id [m] := PortStep.emits s p [m]

theorem PortStep.refl (s : State) (p : Nat) : PortStep s s p id [] :=
  ⟨rfl, fun _ _ => rfl, (List.append_nil _).symm, rfl⟩

section
variable {s t : State} {p : Nat} {f : Port → Port} {out : List Msg} (h : PortStep s t p f out)
include h

theorem PortStep.congr {g : Port → Port} (hg : f (s.port p) = g (s.port p)) : PortStep s t p g out :=
  { h with port := h.port.trans hg }

theorem PortStep.frame : t.sendFrame = s.sendFrame := congrArg (·.1) h.side

theorem PortStep.mem : t.mem = s.mem := congrArg (·.2.1) h.frame

theorem PortStep.groves : t.grv.groves = s.grv.groves := congrArg (·.2.2.1) h.frame

theorem PortStep.devnum : t.devnum = s.devnum := congrArg (·.2.2.2) h.frame

theorem PortStep.clk : t.clk = s.clk := congrArg (·.2.1) h.side

end

/-- A port without waiting flits sends nothing. -/
theorem PortStep.pump_idle {s : State} {p : Nat} (htx : (s.port p).tx = []) : PortStep s (s.pump p) p id [] := by
  unfold State.pump
  split
  · exact PortStep.refl s p
  · rw [htx]
    refine (PortStep.modPort s p _).congr ?_
    rw [← htx]
    rfl

/-- What a flit carries of the port it leaves by (R434, R435). -/
def Port.stamp (q : Port) (f : LFlit) : LFlit :=
  { f with seq := q.nextSeq, ackSeq := q.lastAccepted, credits := q.returns }

/-- A port after it sent a flit. -/
def Port.afterSend (f : LFlit) (q : Port) : Port :=
  { q with nextSeq := (q.nextSeq + 1) % 2 ^ 16, replay := q.replay ++ [q.stamp f], returns := [0, 0, 0, 0, 0, 0, 0, 0],
           credits := q.credits.modify f.cls (· - 1) }

theorem PortStep.transmit (s : State) {p : Nat} (f : LFlit) (hp : p ∈ allPorts) :
    PortStep s (s.transmit p f) p (Port.afterSend f) [.linkFlit p ((s.port p).stamp f)] := by
  have hmod := PortStep.modPort s p (Port.afterSend f)
  have hcount : PortStep s (if f.kind = 1 then (s.modPort p (Port.afterSend f)).bumpPort p .LNK_TX_FLITS_T .LNK_TX_FLITS_B
      else s.modPort p (Port.afterSend f)) p (Port.afterSend f) [] := by
    split
    · exact hmod.trans (PortStep.count (x := (.LNK_TX_FLITS_T, .LNK_TX_FLITS_B)) _ p 1 hp (by decide))
    · exact hmod
  exact hcount.trans (PortStep.emit ..)

/-- A port with a flit at the end of its transmit queue. -/
def Port.queue (f : LFlit) (q : Port) : Port := { q with tx := q.tx ++ [f] }

/-- A port with an empty transmit queue. -/
def Port.unqueue (q : Port) : Port := { q with tx := [] }

theorem Port.unqueue_queue {q : Port} (f : LFlit) (h : q.tx = []) : (q.queue f).unqueue = q := by
  unfold Port.unqueue Port.queue
  rw [← h]

/-- What an ACTIVE port does with a waiting flit: `q.2` lists the classes held back. -/
def State.pumpFlit (p : Nat) (q : State × List Nat) (f : LFlit) : State × List Nat :=
  if q.2.contains f.cls || (q.1.port p).credits.getD f.cls 0 = 0 || (q.1.port p).replay.length ≥ rxBuffer p then
    (q.1.modPort p (Port.queue f), f.cls :: q.2)
  else (q.1.transmit p f, q.2)

theorem State.pump_active {s : State} {p : Nat} (h : (s.port p).st = .active) :
    s.pump p = ((s.port p).tx.foldl (State.pumpFlit p) (s.modPort p Port.unqueue, [])).1 := by
  rw [State.pump, if_neg (by simp [h])]
  rfl

theorem State.pumpFlit_free {s : State} {p : Nat} {f : LFlit} (hcr : 0 < (s.port p).credits.getD f.cls 0)
    (hroom : (s.port p).replay.length < rxBuffer p) : State.pumpFlit p (s, []) f = (s.transmit p f, []) := by
  rw [State.pumpFlit, if_neg]
  simpa using ⟨Nat.ne_of_gt hcr, hroom⟩

/-- A flit queued on an idle ACTIVE port with a credit and room in its replay buffer leaves at once. -/
theorem PortStep.enqueue {s : State} {p : Nat} {f : LFlit} (hp : p ∈ allPorts) (hst : (s.port p).st = .active)
    (htx : (s.port p).tx = []) (hcr : 0 < (s.port p).credits.getD f.cls 0) (hroom : (s.port p).replay.length < rxBuffer p) :
    PortStep s (s.enqueue p f) p (Port.afterSend f) [.linkFlit p ((s.port p).stamp f)] := by
  obtain ⟨t, ht⟩ : ∃ t, t = s.modPort p (Port.queue f) := ⟨_, rfl⟩
  obtain ⟨u, hu⟩ : ∃ u, u = t.modPort p Port.unqueue := ⟨_, rfl⟩
  have hqueue : PortStep s t p (Port.queue f) [] := ht ▸ PortStep.modPort ..
  have hclear : PortStep s u p id [] := hu ▸ (hqueue.trans (PortStep.modPort ..)).congr (Port.unqueue_queue f htx)
  have htst : (t.port p).st = .active := by rw [hqueue.port, ← hst]; rfl
  have httx : (t.port p).tx = [f] := by rw [hqueue.port, Port.queue, htx]; rfl
  have hsend : s.enqueue p f = u.transmit p f := by
    have hpump : s.enqueue p f = t.pump p := by rw [ht]; rfl
    rw [hpump, State.pump_active htst, httx, ← hu, List.foldl_cons, List.foldl_nil,
      State.pumpFlit_free (hclear.port ▸ hcr) (hclear.port ▸ hroom)]
  rw [hsend]
  have := hclear.trans (PortStep.transmit u f hp)
  rw [hclear.port] at this
  exact this

end Sys2Proof.Machine
end

section
/-! PROOFS. Routing at a device, and what an ACTIVE port does with a flit (R434, R435, R437, R445). -/
namespace Sys2Proof.Machine

/-! ## Routing -/

/-- The rule asks for trunk directions only. -/
theorem routeFrom_congr {u v : Nat → Bool} (h : ∀ d, d < 6 → u d = v d) (own dst dim : List Nat) (arr : Nat)
    (fuel a : Nat) (f : LFlit) (ha : a + fuel ≤ 3) :
    routeFrom u own dst dim arr fuel a f = routeFrom v own dst dim arr fuel a f := by
  induction fuel generalizing a f with
  | zero => rfl
  | succ fuel ih =>
    have hdir : ∀ m : Bool, u (if m then 3 + a else a) = v (if m then 3 + a else a) := fun m => by
      cases m
      · exact h a (by omega)
      · exact h (3 + a) (by omega)
    simp only [routeFrom, ih (a + 1) f (by omega), hdir]

/-- A flit that leaves goes in a trunk direction and keeps its ttl, its destination and its payload. -/
theorem routeFrom_out {u : Nat → Bool} {own dst dim : List Nat} {arr fuel a d : Nat} {f g : LFlit} {rev : Bool}
    (h : routeFrom u own dst dim arr fuel a f = .out d g rev) (ha : a + fuel ≤ 3) :
    d < 6 ∧ g.ttl = f.ttl ∧ g.dest = f.dest ∧ g.payload = f.payload := by
  induction fuel generalizing a f with
  | zero => simp [routeFrom] at h
  | succ fuel ih =>
    rw [routeFrom] at h
    extract_lets k minus wrap dirOf at h
    have hdir : ∀ m, dirOf m < 6 := fun m => by
      cases m
      · show a < 6
        omega
      · show 3 + a < 6
        omega
    have hk : k.ttl = f.ttl ∧ k.dest = f.dest ∧ k.payload = f.payload := by
      unfold k
      split <;> exact ⟨rfl, rfl, rfl⟩
    split at h
    · exact ih h (by omega)
    · split at h
      · simp only [Route.out.injEq] at h
        obtain ⟨rfl, rfl, rfl⟩ := h
        refine ⟨hdir _, ?_⟩
        split <;> exact hk
      · split at h
        · cases h
        · split at h
          · simp only [Route.out.injEq] at h
            obtain ⟨rfl, rfl, rfl⟩ := h
            exact ⟨hdir _, hk⟩
          · cases h

theorem State.route_out {s : State} {f g : LFlit} {arr d : Nat} {rev : Bool} (h : s.route f arr = .out d g rev) :
    d < 6 ∧ g.ttl = f.ttl ∧ g.dest = f.dest ∧ g.payload = f.payload := by
  unfold State.route at h
  split at h
  · split at h <;> cases h
  · dsimp only at h
    split at h
    · exact routeFrom_out h (by decide)
    · cases h

theorem mem_allPorts_of_lt {d : Nat} (h : d < 6) : d ∈ allPorts :=
  List.mem_append_left _ (List.mem_range.mpr h)

section
variable {s t : State} (hside : t.linkSide = s.linkSide) (hst : ∀ r, (t.port r).st = (s.port r).st)
include hside

theorem State.getReg_linkSide {y : Reg × List Nat} (hy : y ∈ linkCfg) : t.getReg y.1 y.2 = s.getReg y.1 y.2 :=
  List.map_inj_left.mp (show linkCfg.map (fun y => t.getReg y.1 y.2) = linkCfg.map (fun y => s.getReg y.1 y.2) from
    congrArg (·.2.2) hside) y hy

theorem State.standin_linkSide {d : Nat} (hd : d < 6) : t.standin d = s.standin d :=
  State.getReg_linkSide hside (y := (.LNK_STANDIN, [d / 3, d % 3]))
    (List.mem_cons_of_mem _ (List.mem_map_of_mem (List.mem_range.mpr hd)))

theorem State.torus_linkSide : t.torus = s.torus := by
  unfold State.torus
  rw [State.getReg_linkSide hside (y := (.LNK_TORUS, [0])) (List.mem_cons_self ..)]

theorem State.mayUse_linkSide (g p : Nat) : t.mayUse g p = s.mayUse g p := by
  have hgrove : ∀ g, t.grove g = s.grove g := by
    have hgroves : t.grv.groves = s.grv.groves := congrArg (·.1.2.2.1) hside
    simp [State.grove, hgroves]
  simp only [State.mayUse, State.groveUsing, State.boundGroves, State.exclOwner, State.ownerBy, hgrove]

include hst

theorem State.mayLeave_linkSide (f : LFlit) {d : Nat} (hd : d < 6) : t.mayLeave f d = s.mayLeave f d := by
  have hdev : t.devnum = s.devnum := congrArg (·.1.2.2.2) hside
  simp only [State.mayLeave, State.usable, State.standinActive, State.standin_linkSide hside hd, hst, hdev,
    State.mayUse_linkSide hside]

/-- Routing reads the port states and what links read. -/
theorem State.route_linkSide (f : LFlit) (arr : Nat) : t.route f arr = s.route f arr := by
  have hdev : t.devnum = s.devnum := congrArg (·.1.2.2.2) hside
  unfold State.route
  rw [State.torus_linkSide hside, hdev]
  split
  · rfl
  · dsimp only
    rw [routeFrom_congr (fun d hd => State.mayLeave_linkSide hside hst f hd) _ _ _ _ _ _ _ (by decide)]

end
end Sys2Proof.Machine
end

section
/-! PROOFS. What an ACTIVE port does with a flit, with a negative acknowledgement and when it is idle (R434, R435, R437,
R445). -/
namespace Sys2Proof.Machine

theorem PortStep.states {s t : State} {p : Nat} {f : Port → Port} {out : List Msg} (h : PortStep s t p f out)
    (hf : (f (s.port p)).st = (s.port p).st) (r : Nat) : (t.port r).st = (s.port r).st := by
  by_cases hr : r = p
  · rw [hr, h.port, hf]
  · rw [h.others r hr]

/-- A recovered reference that is ABSENT stays so. -/
theorem State.refPortCheck_of_absent {s : State} (hrec : s.clk.recov.st = 0) (hprev : s.clk.prev = none) :
    s.refPortCheck = s := by
  have h1 : s.edgeLoss 1 = s := if_pos hrec
  have h2 : s.edgeLoss 2 = s := if_pos (by simp [State.ref, hprev])
  unfold State.refPortCheck
  simp [h1, h2]

theorem State.linkEvent_of_clk {s : State} {f : State → State} (hrun : s.islandsRun = true) (hrec : s.clk.recov.st = 0)
    (hprev : s.clk.prev = none) (hclk : (f s).clk = s.clk) : s.linkEvent f = f s := by
  have hcheck : (f s).refPortCheck = f s := State.refPortCheck_of_absent (by rw [hclk, hrec]) (by rw [hclk, hprev])
  exact (State.onDie_of_islandsRun hrun _).trans hcheck

/-! ## The steps of a flit's way -/

/-- A port after an acknowledgement with its credits (R434, R435). -/
def Port.acked (f : LFlit) (q : Port) : Port :=
  { q with
    replay := q.replay.filter fun g => serialAfter g.seq f.ackSeq 16
    lastAcked := f.ackSeq
    credits := (List.range 8).map fun i => q.credits.getD i 0 + f.credits.getD i 0 }

theorem PortStep.takeAck {s : State} {p : Nat} (f : LFlit) (htx : (s.port p).tx = []) :
    PortStep s (s.takeAck p f) p (Port.acked f) [] := by
  have hmod := PortStep.modPort s p (Port.acked f)
  refine hmod.trans (PortStep.pump_idle ?_)
  rw [hmod.port]
  exact htx

/-- A port without credits to return. -/
def Port.creditsSent (q : Port) : Port := { q with returns := [0, 0, 0, 0, 0, 0, 0, 0] }

/-- An idle or negative-acknowledgement flit carries the port's last accepted number and its credits. -/
theorem PortStep.sendBare (s : State) (p kind : Nat) :
    ∃ n : LFlit, PortStep s (s.sendBare p kind) p Port.creditsSent [.linkFlit p n] ∧ n.kind = kind ∧
      n.ackSeq = (s.port p).lastAccepted ∧ n.credits = (s.port p).returns :=
  ⟨_, (PortStep.modPort s p Port.creditsSent).trans (PortStep.emit ..), rfl, rfl, rfl⟩

/-- A port with one more credit to return. -/
def Port.owe (f : LFlit) (q : Port) : Port := { q with returns := q.returns.modify f.cls (· + 1) }

theorem PortStep.returnCredit (s : State) (p : Nat) (f : LFlit) : PortStep s (s.returnCredit p f) p (Port.owe f) [] :=
  PortStep.modPort ..

/-- A whole message of one flit from the grove bound here is handed to its unit. -/
theorem PortStep.acceptFlit {s : State} {p : Nat} {f : LFlit} (hkind : f.kind = 1) (hfirst : f.first = true)
    (hlast : f.last = true) (hgrove : s.groveIs f.grove f.gen = true) (hrx : (s.port p).rx = []) :
    PortStep s (s.acceptFlit p f) p (Port.owe f)
      [.deliver (dieOfPort p) f.opcode ⟨f.src, dieOfPort p, f.grove, f.gen⟩ f.address f.payload] := by
  have hcredit := PortStep.returnCredit s p f
  obtain ⟨t, ht⟩ : ∃ t, t = s.returnCredit p f := ⟨_, rfl⟩
  rw [← ht] at hcredit
  have hrx' : (t.port p).rx = [] := by rw [hcredit.port]; exact hrx
  have hgrove' : t.groveIs f.grove f.gen = true := by
    rw [ht]
    exact hgrove
  have hout : s.acceptFlit p f =
      (t.modPort p fun q => { q with rx := q.rx.filter fun g => !(g.vc == f.vc && g.dl == f.dl) }).emit
      (.deliver (dieOfPort p) f.opcode ⟨f.src, dieOfPort p, f.grove, f.gen⟩ f.address f.payload) := by
    rw [State.acceptFlit, ← ht]
    simp [hkind, hgrove', hrx', hfirst, hlast]
  rw [hout]
  refine ((hcredit.trans (PortStep.modPort ..)).trans (PortStep.emit ..)).congr ?_
  show ({ Port.owe f (s.port p) with rx := (s.port p).rx.filter _ } : Port) = Port.owe f (s.port p)
  rw [hrx]
  unfold Port.owe
  rw [hrx]
  rfl

/-- A trunk flit that the routing rule sends out by an idle ACTIVE port leaves by it (R437). -/
theorem PortStep.sendTrunk {s : State} {p d arr at_ : Nat} {f g : LFlit} {rev : Bool} (hroute : s.route f arr = .out d g rev)
    (hpd : d ≠ p) (hst : (s.port d).st = .active) (htx : (s.port d).tx = [])
    (hcr : 0 < (s.port d).credits.getD g.cls 0) (hroom : (s.port d).replay.length < rxBuffer d) :
    ∃ t, PortStep s t p id [] ∧
      PortStep t (s.sendTrunk f arr at_) d (Port.afterSend g) [.linkFlit d ((s.port d).stamp g)] := by
  have hd := mem_allPorts_of_lt (State.route_out hroute).1
  obtain ⟨t, ht⟩ : ∃ t, t = if rev then s.bumpPort d .LNK_REVERSE_T .LNK_REVERSE_B else s := ⟨_, rfl⟩
  have hcount : PortStep s t p id [] := by
    rw [ht]
    split
    · exact PortStep.count (x := (.LNK_REVERSE_T, .LNK_REVERSE_B)) s p 1 hd (by decide)
    · exact PortStep.refl s p
  have hport : t.port d = s.port d := hcount.others d hpd
  have hsend : s.sendTrunk f arr at_ = t.enqueue d g := by
    have hact : ((t.port d).st == .active) = true := by rw [hport, hst]; rfl
    rw [State.sendTrunk, hroute]
    dsimp only
    rw [← ht, State.sendDir, if_pos hact]
  rw [← hport] at hst htx hcr hroom
  exact ⟨t, hcount, by rw [hsend, ← hport]; exact PortStep.enqueue hd hst htx hcr hroom⟩

theorem PortStep.forward {s : State} {p d : Nat} {f g : LFlit} {rev : Bool} (httl : 1 < f.ttl)
    (hroute : s.route { f with ttl := f.ttl - 1 } (p % 3) = .out d g rev) (hpd : d ≠ p)
    (hst : (s.port d).st = .active) (htx : (s.port d).tx = []) (hcr : 0 < (s.port d).credits.getD g.cls 0)
    (hroom : (s.port d).replay.length < rxBuffer d) :
    ∃ t, PortStep s t p (Port.owe f) [] ∧
      PortStep t (s.forward p p f) d (Port.afterSend g) [.linkFlit d ((s.port d).stamp g)] := by
  have hd := mem_allPorts_of_lt (State.route_out hroute).1
  have hcredit := PortStep.returnCredit s p f
  obtain ⟨t, ht⟩ : ∃ t, t = s.returnCredit p f := ⟨_, rfl⟩
  rw [← ht] at hcredit
  have hcount := hcredit.trans
    (PortStep.count (x := (.LNK_FWD_T, .LNK_FWD_B)) t p 1 hd (by decide))
  obtain ⟨u, hu⟩ : ∃ u, u = t.bumpPort d .LNK_FWD_T .LNK_FWD_B := ⟨_, rfl⟩
  rw [← hu] at hcount
  have hroutet := (State.route_linkSide hcredit.side (hcredit.states rfl) _ _).trans hroute
  have hrouteu := (State.route_linkSide hcount.side (hcount.states rfl) _ _).trans hroute
  have hport : u.port d = s.port d := hcount.others d hpd
  have hforward : s.forward p p f = u.sendTrunk { f with ttl := f.ttl - 1 } (p % 3) p := by
    rw [State.forward, ← ht, if_neg (Nat.not_le.mpr httl)]
    dsimp only
    rw [hroutet, hu]
  rw [← hport] at hst htx hcr hroom
  obtain ⟨v, hrev, hsend⟩ := PortStep.sendTrunk (at_ := p) hrouteu hpd hst htx hcr hroom
  exact ⟨v, hcount.trans hrev, by rw [hforward, ← hport]; exact hsend⟩

/-! ## A flit arrives at an ACTIVE port -/

/-- The state in which the acknowledgement and the credits of an arrived flit are taken. -/
def State.flitTaken (s : State) (p : Nat) (fec : FecResult) (f : LFlit) : State :=
  (s.bumpPort p .LNK_FEC_CORR_T .LNK_FEC_CORR_B fec.corrected).takeAck p f

/-- The state in which a flit in sequence is accepted. -/
def State.flitAccepted (s : State) (p : Nat) (fec : FecResult) (f : LFlit) : State :=
  ((s.flitTaken p fec f).modPort p fun q => { q with lastAccepted := f.seq }).bumpPort p .LNK_RX_FLITS_T .LNK_RX_FLITS_B

/-- A port that accepted a flit. -/
def Port.accepted (f : LFlit) (q : Port) : Port := { q.acked f with lastAccepted := f.seq }

section
variable {s : State} {p : Nat} (lane : Nat) {fec : FecResult} {b : List Byte} {f : LFlit} (hp : p ∈ allPorts)
  (hact : (s.port p).st = .active) (hfec : fec.uncorrectable = 0)
include hp hact hfec

/-- A flit whose crc fails is answered by a negative acknowledgement (R435). -/
theorem PortStep.flitReceive_badCrc (hcrc : flitCrcOk b = false) :
    ∃ n : LFlit, PortStep s (s.flitReceive p lane fec b) p Port.creditsSent [.linkFlit p n] ∧ n.kind = 2 ∧
      n.ackSeq = (s.port p).lastAccepted := by
  have hfecs := PortStep.count (x := (.LNK_FEC_CORR_T, .LNK_FEC_CORR_B)) s p fec.corrected hp (by decide)
  have hcount := hfecs.trans (PortStep.count (x := (.LNK_CRC_ERR_T, .LNK_CRC_ERR_B)) _ p 1 hp (by decide))
  obtain ⟨n, hbare, hkind, hack, -⟩ := PortStep.sendBare
    ((s.bumpPort p .LNK_FEC_CORR_T .LNK_FEC_CORR_B fec.corrected).bumpPort p .LNK_CRC_ERR_T .LNK_CRC_ERR_B) p 2
  refine ⟨n, ?_, hkind, by rw [hack, hcount.port]; rfl⟩
  have hrecv : s.flitReceive p lane fec b =
      ((s.bumpPort p .LNK_FEC_CORR_T .LNK_FEC_CORR_B fec.corrected).bumpPort p .LNK_CRC_ERR_T .LNK_CRC_ERR_B).sendBare p 2 := by
    simp [State.flitReceive, hact, hfec, hcrc]
  rw [hrecv]
  exact hcount.trans hbare

section
variable (hcrc : flitCrcOk b = true) (hf : f = LFlit.parse b) (hkind : f.kind = 1) (htx : (s.port p).tx = [])

omit hact hfec in
include htx in
theorem PortStep.flitTaken (f : LFlit) : PortStep s (s.flitTaken p fec f) p (Port.acked f) [] := by
  have hcount := PortStep.count (x := (.LNK_FEC_CORR_T, .LNK_FEC_CORR_B)) s p fec.corrected hp (by decide)
  refine hcount.trans (PortStep.takeAck f ?_)
  rw [hcount.port]
  exact htx

omit hact hfec in
include htx in
theorem PortStep.flitAccepted (f : LFlit) : PortStep s (s.flitAccepted p fec f) p (Port.accepted f) [] :=
  ((PortStep.flitTaken hp htx f).trans (PortStep.modPort ..)).trans
    (PortStep.count (x := (.LNK_RX_FLITS_T, .LNK_RX_FLITS_B)) _ p 1 hp (by decide))

omit hfec in
theorem State.st_bumpFec : ((s.bumpPort p .LNK_FEC_CORR_T .LNK_FEC_CORR_B fec.corrected).port p).st = .active := by
  rw [(PortStep.count (x := (.LNK_FEC_CORR_T, .LNK_FEC_CORR_B)) s p fec.corrected hp (by decide)).port]
  exact hact

omit hact hfec in
include htx in
theorem State.lastAccepted_flitTaken :
    (((s.bumpPort p .LNK_FEC_CORR_T .LNK_FEC_CORR_B fec.corrected).takeAck p f).port p).lastAccepted =
      (s.port p).lastAccepted :=
  (congrArg Port.lastAccepted (PortStep.flitTaken (fec := fec) hp htx f).port :)

include hcrc hf htx hkind


/-- A data flit out of sequence is answered by a negative acknowledgement (R435). -/
theorem PortStep.flitReceive_outOfSequence (hseq : f.seq ≠ ((s.port p).lastAccepted + 1) % 2 ^ 16) :
    ∃ n : LFlit, PortStep s (s.flitReceive p lane fec b) p (Port.creditsSent ∘ Port.acked f) [.linkFlit p n] ∧ n.kind = 2 ∧
      n.ackSeq = (s.port p).lastAccepted := by
  have htaken := PortStep.flitTaken (fec := fec) hp htx f
  obtain ⟨n, hbare, hnkind, hack, -⟩ := PortStep.sendBare (s.flitTaken p fec f) p 2
  refine ⟨n, ?_, hnkind, by rw [hack, htaken.port]; rfl⟩
  have hrecv : s.flitReceive p lane fec b = (s.flitTaken p fec f).sendBare p 2 := by
    unfold State.flitTaken
    simp [-Nat.reducePow, State.flitReceive, hact, hfec, hcrc, ← hf, State.st_bumpFec hp hact,
      hkind, State.lastAccepted_flitTaken hp htx, hseq]
  rw [hrecv]
  exact htaken.trans hbare

section
variable (hseq : f.seq = ((s.port p).lastAccepted + 1) % 2 ^ 16) (hvalid : f.valid = true)
include hseq hvalid

theorem State.flitReceive_here (hdest : f.dest = s.devnum) :
    s.flitReceive p lane fec b = (s.flitAccepted p fec f).acceptFlit p f := by
  have hdev := (PortStep.flitAccepted (fec := fec) hp htx f).devnum
  unfold State.flitAccepted at hdev ⊢
  unfold State.flitTaken at hdev ⊢
  simp [-Nat.reducePow, State.flitReceive, hact, hfec, hcrc, ← hf, State.st_bumpFec hp hact,
      hkind, State.lastAccepted_flitTaken hp htx, ← hseq, hvalid, hdev, hdest]

theorem State.flitReceive_elsewhere (hdest : f.dest ≠ s.devnum) (htrunk : isTrunk p = true) :
    s.flitReceive p lane fec b = (s.flitAccepted p fec f).forward p p f := by
  have hdev := (PortStep.flitAccepted (fec := fec) hp htx f).devnum
  unfold State.flitAccepted at hdev ⊢
  unfold State.flitTaken at hdev ⊢
  simp [-Nat.reducePow, State.flitReceive, hact, hfec, hcrc, ← hf, State.st_bumpFec hp hact,
      hkind, State.lastAccepted_flitTaken hp htx, ← hseq, hvalid, hdev, hdest, htrunk]

end
end
end
/-! ## Replay -/

/-- A port whose replay buffer holds the flits after the acknowledged one. -/
def Port.dropAcked (ack : Nat) (q : Port) : Port := { q with replay := q.replay.filter fun g => serialAfter g.seq ack 16 }

/-- Sixteen replays in 100 µs may retrain the port; its buffers and the other ports are kept. -/
theorem PortStep.startRetrain (s : State) {p : Nat} (hp : p ∈ allPorts) :
    ∃ g, PortStep s (s.startRetrain p) p g [] ∧ ∀ q, (g q).replay = q.replay := by
  unfold State.startRetrain
  split
  · exact ⟨_, (PortStep.modPort ..).trans
      (PortStep.count (x := (.LNK_RETRAIN_T, .LNK_RETRAIN_B)) _ p 1 hp (by decide)), fun _ => rfl⟩
  · exact ⟨id, PortStep.refl s p, fun _ => rfl⟩

/-- A port that is not ACTIVE only forgets the acknowledged flits (R445). -/
theorem PortStep.replayFrom_held {s : State} {p : Nat} (ack : Nat) (hst : (s.port p).st ≠ .active) :
    PortStep s (s.replayFrom p ack) p (Port.dropAcked ack) [] := by
  have hmod := PortStep.modPort s p (Port.dropAcked ack)
  have hheld : ((s.modPort p (Port.dropAcked ack)).port p).st ≠ .active := by rw [hmod.port]; exact hst
  have hreplay : s.replayFrom p ack = s.modPort p (Port.dropAcked ack) :=
    if_pos (by rw [Bool.or_eq_true, bne_iff_ne]; exact Or.inr hheld)
  rw [hreplay]
  exact hmod

/-- The flits of the replay buffer as an ACTIVE port sends them again. -/
def Port.resent (p : Nat) (q : Port) : List Msg := q.replay.map fun f => .linkFlit p { f with ackSeq := q.lastAccepted }

/-- What an ACTIVE port with flits to send again does. -/
def State.resend (s : State) (p : Nat) : State :=
  let rs := (s.port p).replay
  let s := s.bumpPort p .LNK_REPLAY_T .LNK_REPLAY_B rs.length
  let s := s.emits (rs.map fun f => .linkFlit p { f with ackSeq := (s.port p).lastAccepted })
  let times := ((s.port p).replayTimes.filter fun t => s.aonUs - t < 100) ++ [s.aonUs]
  let s := s.modPort p fun q => { q with replayTimes := times }
  if times.length ≥ 16 then s.startRetrain p else s

theorem State.replayFrom_eq (s : State) (p ack : Nat) :
    s.replayFrom p ack =
      if ((s.modPort p (Port.dropAcked ack)).port p).replay.isEmpty ||
        ((s.modPort p (Port.dropAcked ack)).port p).st != .active then s.modPort p (Port.dropAcked ack)
      else (s.modPort p (Port.dropAcked ack)).resend p := by
  rfl

theorem PortStep.resend (s : State) {p : Nat} (hp : p ∈ allPorts) :
    ∃ g, PortStep s (s.resend p) p g ((s.port p).resent p) ∧ ∀ q, (g q).replay = q.replay := by
  have hcount := PortStep.count (x := (.LNK_REPLAY_T, .LNK_REPLAY_B)) s p (s.port p).replay.length hp (by decide)
  unfold State.resend
  extract_lets rs t u times v
  have ht : PortStep s t p id [] := hcount
  have hrs : rs.map (fun f => Msg.linkFlit p { f with ackSeq := (t.port p).lastAccepted }) = (s.port p).resent p := by
    rw [ht.port]
    rfl
  have hv : PortStep s v p (fun q => { q with replayTimes := times }) ((s.port p).resent p) := by
    have hsent : PortStep s u p id ((s.port p).resent p) := by
      rw [← hrs]
      exact ht.trans (PortStep.emits t p _)
    exact hsent.thenQuiet (PortStep.modPort u p fun q => { q with replayTimes := times })
  split
  · obtain ⟨g, hretrain, hkeep⟩ := PortStep.startRetrain v hp
    exact ⟨_, hv.thenQuiet hretrain, fun q => hkeep _⟩
  · exact ⟨_, hv, fun _ => rfl⟩

/-- An ACTIVE port sends every flit after the acknowledged one again and keeps them (R435). -/
theorem PortStep.replayFrom_active {s : State} {p : Nat} (ack : Nat) (hp : p ∈ allPorts) (hst : (s.port p).st = .active) :
    ∃ g, PortStep s (s.replayFrom p ack) p g (((s.port p).dropAcked ack).resent p) ∧
      (g (s.port p)).replay = ((s.port p).dropAcked ack).replay := by
  have hmod := PortStep.modPort s p (Port.dropAcked ack)
  obtain ⟨t, ht⟩ : ∃ t, t = s.modPort p (Port.dropAcked ack) := ⟨_, rfl⟩
  rw [State.replayFrom_eq, ← ht]
  rw [← ht] at hmod
  have hact : (t.port p).st = .active := by rw [hmod.port]; exact hst
  split
  next hnone =>
    have hempty : ((s.port p).dropAcked ack).replay = [] := by
      rw [← hmod.port]
      simpa [hact] using hnone
    refine ⟨_, ?_, rfl⟩
    rw [Port.resent, hempty]
    exact hmod
  next =>
    obtain ⟨g, hresend, hkeep⟩ := PortStep.resend t hp
    refine ⟨g ∘ Port.dropAcked ack, ?_, hkeep _⟩
    rw [← hmod.port]
    exact hmod.trans hresend

/-! ## The statement -/

section
variable {s : State} {p : Nat} (hrun : s.islandsRun = true)
include hrun

theorem exec_lnkIdleSend (hact : (s.port p).st = .active) : exec (.lnkIdleSend p) s = .next (s.sendBare p 0) := by
  have hsend : s.onDie (fun s => if (s.port p).st == .active then s.sendBare p 0 else s) = s.sendBare p 0 := by
    rw [State.onDie_of_islandsRun hrun, hact]
    rfl
  exact congrArg _ hsend

variable (hrec : s.clk.recov.st = 0) (hprev : s.clk.prev = none)
include hrec hprev

theorem exec_lnkFlitReceive {lane : Nat} {fec : FecResult} {b : List Byte}
    (hclk : (s.flitReceive p lane fec b).clk = s.clk) :
    exec (.lnkFlitReceive p lane fec b) s = .next (s.flitReceive p lane fec b) :=
  congrArg _ (State.linkEvent_of_clk (f := fun s => s.flitReceive p lane fec b) hrun hrec hprev hclk)

theorem exec_lnkNakReceive {ack : Nat} (hclk : (s.replayFrom p ack).clk = s.clk) :
    exec (.lnkNakReceive p ack) s = .next (s.replayFrom p ack) :=
  congrArg _ (State.linkEvent_of_clk (f := fun s => s.replayFrom p ack) hrun hrec hprev hclk)

end

theorem exec_lnkReplayTimeout (s : State) (p : Nat) :
    exec (.lnkReplayTimeout p) s = exec (.lnkNakReceive p (s.port p).lastAcked) s := by
  have hevent : s.linkEvent (fun s => s.replayFrom p (s.port p).lastAcked) =
      s.linkEvent (fun u => u.replayFrom p (s.port p).lastAcked) := by
    unfold State.linkEvent State.onDie
    split <;> rfl
  exact congrArg Host.Outcome.next hevent

/-- Settles O33: a flit's answer, its unit or its way out is one of the `PortStep` rules; the references a port might lose
are ABSENT. -/
theorem linkFlits : Obligations.LinkFlits := by
  unfold Obligations.LinkFlits
  refine ⟨fun s p lane fec b f hrun hp hrec hprev hact htx hfec hf => ⟨fun hbad => ?refused, fun hcrc hkind hseq hvalid =>
    ⟨fun hdest hfirst hlast hgrove hrx => ?here, fun d g rev hdest hlt httl hroute hdp hst htxd hcr hroom => ?elsewhere⟩⟩,
    fun s p ack l hrun hp hrec hprev => ⟨fun hst => ?held, fun hl hst => ?replay, exec_lnkReplayTimeout s _, fun hst => ?idle⟩⟩
  case refused =>
    obtain ⟨g, n, hstep, hkind, hack, hlast⟩ : ∃ (g : Port → Port) (n : LFlit),
        PortStep s (s.flitReceive p lane fec b) p g [.linkFlit p n] ∧ n.kind = 2 ∧ n.ackSeq = (s.port p).lastAccepted ∧
          (g (s.port p)).lastAccepted = (s.port p).lastAccepted := by
      obtain hcrc | ⟨hcrc, hkind, hseq⟩ := hbad
      · obtain ⟨n, hstep, hnak, hack⟩ := PortStep.flitReceive_badCrc lane hp hact hfec hcrc
        exact ⟨_, n, hstep, hnak, hack, rfl⟩
      · obtain ⟨n, hstep, hnak, hack⟩ := PortStep.flitReceive_outOfSequence lane hp hact hfec hcrc hf hkind htx hseq
        exact ⟨_, n, hstep, hnak, hack, rfl⟩
    exact ⟨_, n, exec_lnkFlitReceive hrun hrec hprev hstep.clk, hstep.sent, hkind, hack, by rw [hstep.port, hlast],
      hstep.others, hstep.mem⟩
  case here =>
    have htaken := PortStep.flitAccepted (fec := fec) hp htx f
    have hstep : PortStep s (s.flitReceive p lane fec b) p (Port.owe f ∘ Port.accepted f)
        [.deliver (dieOfPort p) f.opcode ⟨f.src, dieOfPort p, f.grove, f.gen⟩ f.address f.payload] := by
      rw [State.flitReceive_here lane hp hact hfec hcrc hf hkind htx hseq hvalid hdest]
      refine htaken.trans (PortStep.acceptFlit hkind hfirst hlast ?_ ?_)
      · simpa only [State.groveIs, State.grove, htaken.groves] using hgrove
      · rw [htaken.port]
        exact hrx
    exact ⟨_, exec_lnkFlitReceive hrun hrec hprev hstep.clk, hstep.sent, by rw [hstep.port]; rfl, by rw [hstep.port]; rfl,
      hstep.others, hstep.mem⟩
  case elsewhere =>
    obtain ⟨-, hgttl, hgdest, hgpay⟩ := State.route_out hroute
    have htaken := PortStep.flitAccepted (fec := fec) hp htx f
    have hportd := htaken.others d hdp
    rw [← State.route_linkSide htaken.side (htaken.states rfl)] at hroute
    rw [← hportd] at hst htxd hcr hroom
    obtain ⟨t, hmid, hout⟩ := PortStep.forward httl hroute hdp hst htxd hcr hroom
    rw [← State.flitReceive_elsewhere lane hp hact hfec hcrc hf hkind htx hseq hvalid hdest (decide_eq_true hlt)] at hout
    have hall := htaken.thenQuiet hmid
    refine ⟨_, (s.port d).stamp g, exec_lnkFlitReceive hrun hrec hprev (hout.clk.trans hall.clk), ?_, rfl,
      hgttl, hgdest, hgpay, ?_, ?_, hout.mem.trans hall.mem⟩
    · rw [hout.sent, hall.sent, hportd, List.append_nil]
    · rw [hout.others p hdp.symm, hall.port]
      rfl
    · rw [hout.port, hall.others d hdp]
      rfl
  case held =>
    have hstep := PortStep.replayFrom_held ack hst
    exact ⟨_, exec_lnkNakReceive hrun hrec hprev hstep.clk, by rw [hstep.sent, List.append_nil], hstep.others, hstep.mem⟩
  case replay =>
    obtain ⟨g, hstep, hkeep⟩ := PortStep.replayFrom_active ack hp hst
    subst hl
    exact ⟨_, exec_lnkNakReceive hrun hrec hprev hstep.clk, hstep.sent, by rw [hstep.port, hkeep]; rfl, hstep.others,
      hstep.mem⟩
  case idle =>
    obtain ⟨n, hstep, hkind, hack, hcredits⟩ := PortStep.sendBare s p 0
    exact ⟨_, n, exec_lnkIdleSend hrun hst, hstep.sent, hkind, hack, hcredits, by rw [hstep.port]; rfl,
      by rw [hstep.port]; rfl, hstep.others, hstep.mem, rfl⟩

end Sys2Proof.Machine
end

section
/-! PROOFS. Messages, and writes of whole lines and parts of them, leave the Kiln, the queues, the collective engines and
the requests that wait for memory. -/
namespace Sys2Proof.Machine

/-- What a message or a line's write leaves as it is: the Kiln, the queues, the collective engines and the memory requests
that wait. -/
def State.kilnSide (s : State) : KilnState × HearthState × CollState × List HeldMem := (s.kln, s.hrt, s.col, s.mem.held)

theorem State.kilnSide_foldl {α β : Type} {f : State × β → α → State × β}
    (h : ∀ q x, (f q x).1.kilnSide = q.1.kilnSide) (q : State × β) (l : List α) :
    (l.foldl f q).1.kilnSide = q.1.kilnSide := by
  induction l generalizing q with
  | nil => rfl
  | cons x l ih => exact (ih _).trans (h q x)

theorem State.kilnSide_each {α : Type} {f : State → α → State} (h : ∀ b x, (f b x).kilnSide = b.kilnSide) (s : State)
    (l : List α) : (s.each l f).kilnSide = s.kilnSide := by
  unfold State.each
  induction l generalizing s with
  | nil => rfl
  | cons x l ih => exact (ih _).trans (h s x)

section
variable (s : State)

theorem Noted.kilnSide {s t : State} (h : Noted s t) : t.kilnSide = s.kilnSide := by
  simp only [State.kilnSide, h.kln, h.hrt, h.col, h.mem]

@[simp] theorem State.kilnSide_putReg (r : Reg) (ix : List Nat) (v : Word) : (s.putReg r ix v).kilnSide = s.kilnSide := rfl

@[simp] theorem State.kilnSide_bump (r : Reg) (ix : List Nat) (n : Nat) : (s.bump r ix n).kilnSide = s.kilnSide :=
  (State.bump_noted r ix n (Noted.refl s)).kilnSide

@[simp] theorem State.kilnSide_record (src : Src) (sev : Sev) (die code : Nat) (grove : Option Nat) (detail : Nat) :
    (s.record src sev die code grove detail).kilnSide = s.kilnSide :=
  (State.record_noted src sev die code grove detail (Noted.refl s)).kilnSide

/-! ## Messages -/

@[simp] theorem State.kilnSide_emit (m : Msg) : (s.emit m).kilnSide = s.kilnSide := rfl

@[simp] theorem State.kilnSide_modPort (p : Nat) (f : Port → Port) : (s.modPort p f).kilnSide = s.kilnSide := rfl

@[simp] theorem State.kilnSide_modBudget (d g a : Nat) (f : Budget → Budget) : (s.modBudget d g a f).kilnSide = s.kilnSide :=
  rfl

@[simp] theorem State.kilnSide_bumpPort (p : Nat) (t b : Reg) (n : Nat) : (s.bumpPort p t b n).kilnSide = s.kilnSide := by
  unfold State.bumpPort
  split <;> simp

@[simp] theorem State.kilnSide_transmit (p : Nat) (f : LFlit) : (s.transmit p f).kilnSide = s.kilnSide := by
  unfold State.transmit
  dsimp only
  split <;> simp

@[simp] theorem State.kilnSide_pump (p : Nat) : (s.pump p).kilnSide = s.kilnSide := by
  unfold State.pump
  split
  · rfl
  · refine (State.kilnSide_foldl (fun q f => ?_) _ _).trans (by simp)
    dsimp only
    split <;> simp

@[simp] theorem State.kilnSide_enqueue (p : Nat) (f : LFlit) : (s.enqueue p f).kilnSide = s.kilnSide := by
  simp [State.enqueue]

@[simp] theorem State.kilnSide_dropUnreachable (p dest : Nat) : (s.dropUnreachable p dest).kilnSide = s.kilnSide := by
  simp [State.dropUnreachable, State.lnkRecord]

@[simp] theorem State.kilnSide_sendDir (d : Nat) (f : LFlit) : (s.sendDir d f).kilnSide = s.kilnSide := by
  unfold State.sendDir
  dsimp only
  split
  · simp
  · split <;> simp

@[simp] theorem State.kilnSide_sendTrunk (f : LFlit) (arr at_ : Nat) : (s.sendTrunk f arr at_).kilnSide = s.kilnSide := by
  unfold State.sendTrunk
  split
  · rfl
  · simp
  · split <;> simp

@[simp] theorem State.kilnSide_sendBranch (f : LFlit) : (s.sendBranch f).kilnSide = s.kilnSide := by
  unfold State.sendBranch
  dsimp only
  split
  · simp
  · split <;> simp

@[simp] theorem State.kilnSide_spend (d g a n : Nat) (again : Bool) : (s.spend d g a n again).1.kilnSide = s.kilnSide := by
  unfold State.spend
  dsimp only
  repeat' split
  all_goals simp

@[simp] theorem State.kilnSide_sendNow (m : HeldMsg) : (s.sendNow m).kilnSide = s.kilnSide := by
  unfold State.sendNow
  split
  · simp
  · refine State.kilnSide_each (fun b f => ?_) _ _
    split <;> simp

@[simp] theorem State.kilnSide_sendMsg (die : Nat) (trunk : Bool) (dest opcode grove : Nat) (payload : List Byte)
    (address : Nat) : (s.sendMsg die trunk dest opcode grove payload address).kilnSide = s.kilnSide := by
  unfold State.sendMsg
  extract_lets vc m r
  have hspend : r.1.kilnSide = s.kilnSide := s.kilnSide_spend ..
  split
  · exact s.kilnSide_sendNow m
  · split
    · exact (r.1.kilnSide_sendNow m).trans hspend
    · exact hspend

theorem State.kilnSide_dropStale (die : Nat) (o : Origin) (trunk : Bool) :
    (s.dropStale die o trunk).kilnSide = s.kilnSide := by
  unfold State.dropStale
  extract_lets counted last key due bound gr
  have hlast : last.kilnSide = s.kilnSide := by simp [last, counted]
  split
  · exact (State.kilnSide_sendNow ..).trans hlast
  · exact hlast

/-! ## Lines -/

@[simp] theorem State.kilnSide_modChannel (c : Nat) (f : Channel → Channel) : (s.modChannel c f).kilnSide = s.kilnSide := rfl

@[simp] theorem State.kilnSide_putLine (c line : Nat) (bs : List Byte) : (s.putLine c line bs).kilnSide = s.kilnSide := rfl

@[simp] theorem State.kilnSide_unsaturate (p : Nat → Bool) : (s.unsaturate p).kilnSide = s.kilnSide := rfl

@[simp] theorem State.kilnSide_noteUe (c line : Nat) : (s.noteUe c line).kilnSide = s.kilnSide :=
  (State.noteUe_noted c line (Noted.refl s)).kilnSide

@[simp] theorem State.kilnSide_ueRecord (sev : Sev) (c line : Nat) : (s.ueRecord sev c line).kilnSide = s.kilnSide :=
  (State.ueRecord_noted sev c line (Noted.refl s)).kilnSide

@[simp] theorem State.kilnSide_evictWcb (c : Nat) (e : WcbEntry) : (s.evictWcb c e).kilnSide = s.kilnSide := by
  unfold State.evictWcb
  dsimp only
  repeat' split
  all_goals simp

@[simp] theorem State.kilnSide_settleAdder (c line : Nat) : (s.settleAdder c line).kilnSide = s.kilnSide := by
  unfold State.settleAdder
  split <;> rfl

@[simp] theorem State.kilnSide_writeLine (c line pos : Nat) (bs : List Byte) (grove : Nat) :
    (s.writeLine c line pos bs grove).1.kilnSide = s.kilnSide := by
  unfold State.writeLine
  dsimp only
  repeat' split
  all_goals simp

@[simp] theorem State.kilnSide_putPage (g o : Nat) (bs : List Byte) : (s.putPage g o bs).kilnSide = s.kilnSide := by
  refine State.kilnSide_each (fun b i => ?_) s _
  split <;> simp

@[simp] theorem State.kilnSide_writeFails (p : Party) (o : Nat) (r : Acc × Nat × Nat) :
    (s.writeFails p o r).1.kilnSide = s.kilnSide := by
  unfold State.writeFails
  split
  · simp
  · exact (State.unmappedRecord_noted p o (Noted.refl s)).kilnSide
  · rfl

end

/-! ## What waits -/

/-- The memory requests and the opens that wait. -/
def State.waits (s : State) : List HeldMem × List (Nat × Nat) := (s.mem.held, s.col.heldOpens)

/-- What a write leaves as it is even where it touches a protected page (R567): what waits, and which groves have a
firing. -/
def State.waitSide (s : State) : (List HeldMem × List (Nat × Nat)) × (Nat → Bool) :=
  (s.waits, fun g => (s.firing g).isSome)

theorem State.firing_congr {s t : State} (h : t.kilnSide = s.kilnSide) (g : Nat) : t.firing g = s.firing g := by
  have hkln : t.kln = s.kln := congrArg (·.1) h
  simp only [State.firing, hkln]

theorem State.waitSide_congr {s t : State} (h : t.kilnSide = s.kilnSide) : t.waitSide = s.waitSide := by
  have hcol : t.col = s.col := congrArg (·.2.2.1) h
  have hheld : t.mem.held = s.mem.held := congrArg (·.2.2.2) h
  simp only [State.waitSide, State.waits, State.firing_congr h, hcol, hheld]

theorem State.waits_congr {s t : State} (h : t.kilnSide = s.kilnSide) : t.waits = s.waits :=
  congrArg (·.1) (State.waitSide_congr h)

end Sys2Proof.Machine
end

section
/-! PROOFS. A write that touches a protected page (R567), and a completion, leave what waits. -/
namespace Sys2Proof.Machine

theorem isSome_tget_tset {α : Type} {t : Tbl α} {k : Nat} (h : (tget t k).isSome = true) (v : α) (j : Nat) :
    (tget (tset t k v) j).isSome = (tget t j).isSome := by
  by_cases hj : j = k
  · rw [hj, tget_tset_same, h]
    rfl
  · rw [tget_tset_other _ _ hj]

section
variable (s : State)

theorem State.waitSide_setKln {k : KilnState} (h : ∀ g, (tget k.firings g).isSome = (s.firing g).isSome) :
    { s with kln := k }.waitSide = s.waitSide := by
  show (s.waits, fun g => (tget k.firings g).isSome) = _
  simp only [h]
  rfl

theorem State.waitSide_modKln {f : KilnState → KilnState}
    (h : ∀ g, (tget (f s.kln).firings g).isSome = (s.firing g).isSome) : (s.modKln f).waitSide = s.waitSide :=
  s.waitSide_setKln h

theorem State.waitSide_putFiring {g : Nat} (f : Firing) (h : (s.firing g).isSome = true) :
    (s.putFiring g f).waitSide = s.waitSide := s.waitSide_modKln (isSome_tget_tset h f)

theorem State.waitSide_foldl {α β : Type} {f : State × β → α → State × β}
    (h : ∀ q x, (f q x).1.waitSide = q.1.waitSide) (q : State × β) (l : List α) :
    (l.foldl f q).1.waitSide = q.1.waitSide := by
  induction l generalizing q with
  | nil => rfl
  | cons x l ih => exact (ih _).trans (h q x)

theorem State.waitSide_touchWait (g : Nat) : (s.touchWait g).waitSide = s.waitSide := by
  unfold State.touchWait
  split
  next f hf =>
    split
    · rfl
    · extract_lets marked told
      refine (State.waitSide_congr (State.kilnSide_record ..)).trans ?_
      refine (State.waitSide_congr (State.kilnSide_putReg ..)).trans ?_
      exact s.waitSide_setKln (isSome_tget_tset (t := s.kln.firings) (Option.isSome_of_mem hf) _)
  · rfl

theorem State.waitSide_touchPage (page : Nat) : (s.touchPage page).waitSide = s.waitSide := by
  unfold State.touchPage
  split
  · rfl
  next p g i _ =>
    split
    · rfl
    next f hf =>
      extract_lets die bs free waited old noted kept kln copied touches
      have hwaited : waited.waitSide = s.waitSide := by
        unfold waited
        split
        · exact s.waitSide_touchWait g
        · rfl
      have hfiring : (waited.firing g).isSome = true :=
        (congrFun (congrArg (·.2) hwaited) g).trans (Option.isSome_of_mem hf)
      have hcopied : copied.waitSide = waited.waitSide :=
        waited.waitSide_setKln (isSome_tget_tset (t := waited.kln.firings) hfiring kept)
      have htouches : touches.waitSide = s.waitSide :=
        (State.waitSide_congr (t := touches) (s := copied) (by simp [touches])).trans (hcopied.trans hwaited)
      split
      · exact (State.waitSide_congr (State.kilnSide_putPage ..)).trans htouches
      · exact htouches

theorem State.waitSide_touch (o : Nat) : (s.touch o).waitSide = s.waitSide := by
  unfold State.touch
  split
  · rfl
  · exact s.waitSide_touchPage _

theorem State.waitSide_writeLocal (p : Party) (o : Nat) (bs : List Byte) :
    (s.writeLocal p o bs).1.waitSide = s.waitSide := by
  unfold State.writeLocal
  split
  · refine State.waitSide_foldl (fun q k => ?_) _ _
    split
    · exact (State.waitSide_congr (State.kilnSide_writeLine ..)).trans (State.waitSide_touch ..)
    · rfl
  · exact State.waitSide_congr (State.kilnSide_writeFails ..)

theorem State.waitSide_writeVa (g va : Nat) (bs : List Byte) : (s.writeVa g va bs).1.waitSide = s.waitSide := by
  unfold State.writeVa
  split
  · rfl
  · refine State.waitSide_foldl (fun q p => ?_) _ _
    split
    · exact State.waitSide_writeLocal ..
    · rfl

theorem State.waitSide_modQueue (q : Nat) (f : Queue → Queue) : (s.modQueue q f).waitSide = s.waitSide := rfl

theorem State.waitSide_interrupt (core : Nat) : (s.interrupt core).waitSide = s.waitSide := rfl

theorem State.waitSide_complete (q i : Nat) (st : Status) (result : Nat) :
    (s.complete q i st result).waitSide = s.waitSide := by
  unfold State.complete
  split
  · rfl
  · extract_lets n size written counted
    have hcounted : counted.waitSide = s.waitSide :=
      (State.waitSide_modQueue ..).trans (s.waitSide_writeLocal ..)
    split
    · exact (State.waitSide_interrupt ..).trans hcounted
    · exact hcounted

end
end Sys2Proof.Machine
end

section
/-! PROOFS. Firings: how one ends, what a destination sends, and the capture (R565, R566, R573). -/
namespace Sys2Proof.Machine

section
variable {s : State} {g : Nat} {f : Firing}

/-! ## Firings -/

@[simp] theorem State.firing_putFiring_same (s : State) (g : Nat) (f : Firing) : (s.putFiring g f).firing g = some f :=
  tget_tset_same ..

theorem State.firing_putFiring_other (s : State) {g j : Nat} (f : Firing) (h : j ≠ g) :
    (s.putFiring g f).firing j = s.firing j := tget_tset_other _ _ h

/-- The state without a grove's firing: its protection is lifted. -/
def State.firingEnded (s : State) (g : Nat) : State :=
  s.modKln fun x => { x with firings := terase x.firings g, protect := x.protect.filter fun p => p.2.1 != g }

@[simp] theorem State.firing_firingEnded_same (s : State) (g : Nat) : (s.firingEnded g).firing g = none :=
  tget_terase_same ..

theorem State.firing_firingEnded_other (s : State) {g j : Nat} (h : j ≠ g) : (s.firingEnded g).firing j = s.firing j :=
  tget_terase_other _ h

theorem State.endFiring_eq (hf : s.firing g = some f) (st : Status) (result : Nat) :
    s.endFiring g st result = (s.firingEnded g).complete f.queue f.index st result := by
  rw [State.endFiring, hf]
  rfl

theorem State.waits_complete (s : State) (q i : Nat) (st : Status) (result : Nat) :
    (s.complete q i st result).waits = s.waits := congrArg (·.1) (s.waitSide_complete q i st result)

theorem State.firing_complete_none (s : State) (q i : Nat) (st : Status) (result : Nat) (h : s.firing g = none) :
    (s.complete q i st result).firing g = none := by
  have hsome := congrFun (congrArg (·.2) (s.waitSide_complete q i st result)) g
  rw [← Option.isNone_iff_eq_none, ← Option.not_isSome]
  refine (congrArg (!·) hsome).trans ?_
  show (!(s.firing g).isSome) = true
  rw [h]
  rfl

/-! ## A firing moves on (R565) -/

theorem State.firingMoves_capture (hf : s.firing g = some f) (hst : f.st = .invalidate) (hlive : f.buddy.live = true)
    (hitem : f.buddy.item = .waiting) (hother : f.storage.live = false) :
    s.firingMoves g = s.putFiring g { f with st := .capture } := by
  simp [State.firingMoves, hf, hst, hlive, hitem, hother, KilnDest.at]

/-- The state in which KLN_LAST holds a sealed firing whose buddy alone is in service. -/
def State.sealedAt (s : State) (g : Nat) (f : Firing) : State :=
  s.putReg .KLN_LAST [g] (BitVec.ofNat 64 (2 ^ 63 + f.slot * 2 ^ 62 + 2 ^ 48 + f.step))

theorem State.firingMoves_sealed (hf : s.firing g = some f) (hst : f.st = .seal) (hlive : f.buddy.live = true)
    (hitem : f.buddy.item = .done) (hother : f.storage.live = false) :
    s.firingMoves g = ((s.sealedAt g f).firingEnded g).complete f.queue f.index .ok (f.step + 2 ^ 48) := by
  rw [← State.endFiring_eq (s := s.sealedAt g f) hf]
  simp [State.firingMoves, hf, hst, hlive, hitem, hother, KilnDest.at, State.sealedAt, b2n]

theorem State.firingMoves_failed (hf : s.firing g = some f) (hlive : f.buddy.live = false) (hother : f.storage.live = false) :
    s.firingMoves g = (s.firingEnded g).complete f.queue f.index .fault 0 := by
  rw [← State.endFiring_eq hf]
  simp [State.firingMoves, hf, hlive, hother]

/-! ## What a destination sends (R573) -/

theorem State.kilnSend_none (storage : Bool) (hf : s.firing g = none) : s.kilnSend g storage = s := by
  simp [State.kilnSend, hf]

theorem State.kilnSend_waiting (hf : s.firing g = some f) (hitem : f.buddy.item = .waiting) : s.kilnSend g false = s := by
  simp [State.kilnSend, hf, hitem, Firing.dest, Firing.place]

theorem State.kilnSide_kilnPut (s : State) (g : Nat) (f : Firing) (storage : Bool) (at' tag : Nat) (bs : List Byte) :
    (s.kilnPut g f storage at' tag bs).kilnSide = s.kilnSide := by
  unfold State.kilnPut
  dsimp only
  split <;> simp

theorem State.sendFrame_kilnPut (s : State) (g : Nat) (f : Firing) (storage : Bool) (at' tag : Nat) (bs : List Byte) :
    (s.kilnPut g f storage at' tag bs).sendFrame = s.sendFrame := by
  unfold State.kilnPut
  dsimp only
  split <;> simp

/-- The buddy of a firing has the whole of an item of one write. -/
def Firing.buddyHas (f : Firing) : Firing :=
  { f with buddy := { f.buddy with item := f.nextItem f.buddy.item, off := 0, tag := none, tries := 0 } }

/-- An item of one write is acknowledged whole: the buddy goes on to the next. -/
theorem State.kilnAcked_whole {tag at' len : Nat} (hf : s.firing g = some f) (htag : f.buddy.tag = some tag)
    (hplace : f.place f.buddy.item = some (at', len)) (hlen : len ≤ kilnChunk) (hsnaps : f.snaps = []) :
    ∃ n, s.kilnAcked g false tag =
      (((s.bump .KLN_DRAINED [0] n).putFiring g f.buddyHas).firingMoves g).kilnSend g false := by
  refine ⟨(min kilnChunk (len - f.buddy.off) + 63) / 64, ?_⟩
  have hwhole : f.buddy.off + min kilnChunk (len - f.buddy.off) ≥ len := by omega
  simp [State.kilnAcked, hf, htag, hplace, Firing.dest, Firing.setDest, Firing.buddyHas, hwhole, hsnaps]

/-- The buddy of a firing was sent to once more. -/
def Firing.retried (f : Firing) : Firing := { f with buddy := { f.buddy with tries := f.buddy.tries + 1 } }

/-- An overdue message of the metadata is sent again. -/
theorem State.kilnOverdue_again {tag : Nat} (hf : s.firing g = some f) (htag : f.buddy.tag = some tag)
    (hitem : f.buddy.item = .metadata) (htries : f.buddy.tries < 3) :
    ∃ at' bs, s.kilnOverdue g = (s.putFiring g f.retried).kilnPut g f.retried false at' tag bs := by
  have hplace : f.place f.buddy.item = some (0x1000, f.meta_.length) := by rw [hitem]; rfl
  have hbytes : ∀ off n, s.kilnBytes g off n f f.buddy.item = (s, some ((f.meta_.drop off).take n)) := by
    intro off n
    rw [hitem]
    rfl
  rw [State.kilnOverdue, hf]
  dsimp only
  split
  next tag2 at' len htag2 _ =>
    obtain rfl := Option.some.inj (htag.symm.trans htag2)
    rw [if_pos htries, hbytes]
    exact ⟨_, _, rfl⟩
  next hno => exact absurd hplace (hno _ _ _ htag)

/-- A firing whose buddy is out of service. -/
def Firing.buddyLost (f : Firing) : Firing := { f with buddy := { f.buddy with live := false, tag := none } }

/-- The third repetition is overdue too: the buddy fails. -/
theorem State.kilnOverdue_fails {tag : Nat} (hf : s.firing g = some f) (htag : f.buddy.tag = some tag)
    (hitem : f.buddy.item = .metadata) (htries : 3 ≤ f.buddy.tries) (hlive : f.buddy.live = true) (hst : f.st ≠ .armed)
    (hsnaps : f.snaps = []) :
    s.kilnOverdue g = ((s.klnRecord 0x06 g f.slot 1 f.step).putFiring g f.buddyLost).firingMoves g := by
  have hlate : ¬ f.buddy.tries < 3 := Nat.not_lt.mpr htries
  simp [State.kilnOverdue, hf, htag, hitem, Firing.place, hlate, State.kilnFail, Firing.dest, hlive, hst, Firing.setDest,
    Firing.buddyLost, hsnaps]

/-! ## Metadata -/

/-- A firing but for the progress of the writes of its destinations. -/
def Firing.unsent (f : Firing) : Firing :=
  { f with buddy := { f.buddy with tag := none, tries := 0, held := false },
           storage := { f.storage with tag := none, tries := 0, held := false } }

/-- From `s` to `t` the firing `f` of grove `g` sent writes, and nothing but budgets, links and tags moved with it. -/
structure Sends (s t : State) (g : Nat) (f : Firing) : Prop where
  firing : ∃ f2, t.firing g = some f2 ∧ f2.unsent = f.unsent
  protect : t.kln.protect = s.kln.protect
  frame : t.sendFrame = s.sendFrame

theorem Firing.unsent_setDest (f : Firing) (storage : Bool) (tag : Option Nat) (tries : Nat) (held : Bool) :
    (f.setDest storage { f.dest storage with tag := tag, tries := tries, held := held }).unsent = f.unsent := by
  cases storage <;> rfl

theorem State.protect_congr {s t : State} (h : t.kilnSide = s.kilnSide) : t.kln.protect = s.kln.protect :=
  congrArg (fun x : KilnState × HearthState × CollState × List HeldMem => x.1.protect) h

theorem State.protect_putFiring (s : State) (g : Nat) (f : Firing) : (s.putFiring g f).kln.protect = s.kln.protect := rfl

theorem State.protect_kilnTag (s : State) : s.kilnTag.2.kln.protect = s.kln.protect := rfl

/-- A destination that is out of service or stands at the metadata sends a write or nothing. -/
theorem State.kilnSend_metadata (hf : s.firing g = some f) (storage : Bool)
    (hitem : (f.dest storage).live = true → (f.dest storage).item = .metadata) : Sends s (s.kilnSend g storage) g f := by
  have hbytes : ∀ (u : State) off n, (f.dest storage).item = .metadata →
      u.kilnBytes g off n f (f.dest storage).item = (u, some ((f.meta_.drop off).take n)) := by
    intro u off n h
    rw [h]
    rfl
  rw [State.kilnSend, hf]
  dsimp only
  split
  next at' len hgo _ =>
    generalize ha : State.spend s _ _ _ _ _ = a
    have hside : a.1.kilnSide = s.kilnSide := ha ▸ s.kilnSide_spend ..
    have hframe : a.1.sendFrame = s.sendFrame := ha ▸ s.sendFrame_spend ..
    split
    · rw [hbytes _ _ _ (hitem (Bool.and_eq_true_iff.mp hgo).1)]
      dsimp only
      have htagged : a.1.kilnTag.2.firing g = some f := (State.firing_congr hside g).trans hf
      rw [htagged]
      refine ⟨⟨_, (State.firing_congr (State.kilnSide_kilnPut ..) g).trans (State.firing_putFiring_same ..),
        f.unsent_setDest storage _ _ _⟩, ?_, (State.sendFrame_kilnPut ..).trans hframe⟩
      exact (State.protect_congr (State.kilnSide_kilnPut ..)).trans
        ((State.protect_putFiring ..).trans ((State.protect_kilnTag _).trans (State.protect_congr hside)))
    · exact ⟨⟨_, State.firing_putFiring_same .., f.unsent_setDest storage _ _ _⟩,
        (State.protect_putFiring ..).trans (State.protect_congr hside), hframe⟩
  next => exact ⟨⟨f, hf, rfl⟩, rfl, rfl⟩

theorem Sends.trans {t u : State} {f2 : Firing} (h : Sends s t g f) (hf2 : f2.unsent = f.unsent) (k : Sends t u g f2) :
    Sends s u g f := by
  obtain ⟨f3, hf3, heq⟩ := k.firing
  exact ⟨⟨f3, hf3, heq.trans hf2⟩, k.protect.trans h.protect, k.frame.trans h.frame⟩

theorem KilnDest.metadata_of_unsent {d e : KilnDest}
    (h : ({ e with tag := none, tries := 0, held := false } : KilnDest) = { d with tag := none, tries := 0, held := false }) :
    e.live = d.live ∧ e.item = d.item ∧ e.off = d.off := by
  simp only [KilnDest.mk.injEq] at h
  exact ⟨h.1, h.2.1, h.2.2.1⟩

/-- Both destinations stand at the metadata, or are out of service. -/
theorem State.kilnSends_metadata (hf : s.firing g = some f) (hbuddy : f.buddy.live = true → f.buddy.item = .metadata)
    (hstorage : f.storage.live = true → f.storage.item = .metadata) : Sends s (s.kilnSends g) g f := by
  have hfirst := State.kilnSend_metadata hf false hbuddy
  obtain ⟨f2, hf2, heq⟩ := hfirst.firing
  obtain ⟨hlive, hitem, -⟩ := KilnDest.metadata_of_unsent (congrArg Firing.storage heq)
  refine hfirst.trans heq (State.kilnSend_metadata hf2 true fun h => ?_)
  exact hitem.trans (hstorage (hlive.symm.trans h))

/-! ## The capture (R566, R567) -/

/-- A destination in service goes on to the metadata. -/
def KilnDest.toMetadata (d : KilnDest) : KilnDest := if d.live then { d with item := .metadata, off := 0 } else d

theorem KilnDest.toMetadata_live {d : KilnDest} (h : d.toMetadata.live = true) :
    d.live = true ∧ d.toMetadata.item = .metadata ∧ d.toMetadata.off = 0 := by
  unfold KilnDest.toMetadata at h ⊢
  split at h
  next hlive => rw [if_pos hlive]; exact ⟨hlive, rfl, rfl⟩
  next hlive => exact absurd h hlive

/-- A firing that starts to drain. -/
def Firing.draining (f : Firing) : Firing :=
  { f with st := .drain, buddy := f.buddy.toMetadata, storage := f.storage.toMetadata }

/-- The state in which a firing starts to drain. -/
def State.startDrain (s : State) (g : Nat) (f : Firing) : State := (s.putFiring g f.draining).kilnSends g

theorem State.startDrain_sends (s : State) (g : Nat) (f : Firing) :
    Sends (s.putFiring g f.draining) (s.startDrain g f) g f.draining :=
  State.kilnSends_metadata (State.firing_putFiring_same ..) (fun h => (KilnDest.toMetadata_live h).2.1)
    fun h => (KilnDest.toMetadata_live h).2.1

/-- What the firing stands at when its drain has started. -/
theorem State.startDrain_firing (s : State) (g : Nat) (f : Firing) :
    ∃ f2, (s.startDrain g f).firing g = some f2 ∧ f2.st = .drain ∧ f2.digests = f.digests ∧
      (f.buddy.live = true → f2.buddy.item = .metadata ∧ f2.buddy.off = 0) ∧
      (f.storage.live = true → f2.storage.item = .metadata ∧ f2.storage.off = 0) := by
  obtain ⟨f2, hf2, heq⟩ := (s.startDrain_sends g f).firing
  obtain ⟨-, hbitem, hboff⟩ := KilnDest.metadata_of_unsent (congrArg Firing.buddy heq)
  obtain ⟨-, hsitem, hsoff⟩ := KilnDest.metadata_of_unsent (congrArg Firing.storage heq)
  have hmeta : ∀ d : KilnDest, d.live = true → d.toMetadata.item = .metadata ∧ d.toMetadata.off = 0 := by
    intro d hd
    rw [KilnDest.toMetadata, if_pos hd]
    exact ⟨rfl, rfl⟩
  exact ⟨f2, hf2, (congrArg Firing.st heq :), (congrArg Firing.digests heq :),
    fun h => ⟨hbitem.trans (hmeta _ h).1, hboff.trans (hmeta _ h).2⟩,
    fun h => ⟨hsitem.trans (hmeta _ h).1, hsoff.trans (hmeta _ h).2⟩⟩

theorem State.waits_startDrain (s : State) (g : Nat) (f : Firing) : (s.startDrain g f).waits = s.waits :=
  congrArg (fun p => (p.2.1.held, p.1.heldOpens)) (s.startDrain_sends g f).frame

theorem State.mem_startDrain (s : State) (g : Nat) (f : Firing) : (s.startDrain g f).mem = s.mem :=
  congrArg (·.2.1) (s.startDrain_sends g f).frame

/-- One page of the stop-copy, whether it could be read or not. -/
theorem State.captureOne_firing (hf : s.firing g = some f) (i va : Nat) :
    ∃ d, (s.captureOne g i va).1.firing g = some { f with digests := d } ∧ (s.captureOne g i va).1.waitSide = s.waitSide := by
  have hread : Noted s (s.readVa g va pageBytes).1 := State.readVa_noted g va pageBytes (Noted.refl s)
  rw [State.captureOne, hf]
  dsimp only
  split
  next t b heq =>
    rw [heq] at hread
    have hwrite := (t.waitSide_writeVa g (f.plan.reserve + i * pageBytes) b).trans (State.waitSide_congr hread.kilnSide)
    have hsome := (congrFun (congrArg (·.2) hwrite) g).trans (Option.isSome_of_mem hf)
    refine ⟨_, (State.firing_congr (State.kilnSide_bump ..) g).trans (State.firing_putFiring_same ..), ?_⟩
    exact (State.waitSide_congr (State.kilnSide_bump ..)).trans ((State.waitSide_putFiring _ _ hsome).trans hwrite)
  next t _ _ _ heq =>
    rw [heq] at hread
    exact ⟨f.digests, (State.firing_congr hread.kilnSide g).trans hf, State.waitSide_congr hread.kilnSide⟩

theorem State.captureAll_firing {l : List (Nat × Nat)} (hf : s.firing g = some f) :
    ∃ d, (s.captureAll g l).1.firing g = some { f with digests := d } ∧ (s.captureAll g l).1.waits = s.waits := by
  induction l generalizing s f with
  | nil => exact ⟨f.digests, hf, rfl⟩
  | cons x l ih =>
    obtain ⟨va, i⟩ := x
    obtain ⟨d, hfiring, hwaits⟩ := State.captureOne_firing hf i va
    rw [State.captureAll]
    split
    next t heq =>
      rw [heq] at hfiring hwaits
      obtain ⟨e, hlast, hall⟩ := ih hfiring
      exact ⟨e, hlast, hall.trans (congrArg (·.1) hwaits)⟩
    next t heq =>
      rw [heq] at hfiring hwaits
      exact ⟨d, hfiring, congrArg (·.1) hwaits⟩

end
end Sys2Proof.Machine
end

section
/-! PROOFS. Kiln events: acknowledgements, overdue messages, the end of a capture and copied pages (R565 to R567, R573). -/
namespace Sys2Proof.Machine

/-! ## A touched page -/

theorem Noted.eq_noteB {s t : State} (h : Noted s t) : t = s.noteB t.regs t.irqs t.wch t.sup := by
  cases h
  cases s
  cases t
  simp_all [State.noteB]

/-- Records do not change what a reader sees. -/
theorem Noted.peek {s t : State} (h : Noted s t) (o n : Nat) : t.peek o n = s.peek o n := by
  rw [h.eq_noteB]
  rfl

/-- A firing whose page has been copied to a reserve page (R567). -/
def Firing.copied (f : Firing) (page r : Nat) (bs : List Byte) : Firing :=
  { f with digests := tset f.digests page (sha384 bs), touched := tset f.touched page r }

/-- The state with a firing replaced and a local page no longer protected. -/
def State.unprotect (s : State) (g p : Nat) (f : Firing) : State :=
  s.modKln fun x => { x with firings := tset x.firings g f, protect := x.protect.filter fun y => y.1 != p }

section
variable {s : State} {g p page r : Nat} {f : Firing}

/-- A protected page with a free reserve page is copied there, and its protection ends. -/
theorem State.kilnSide_touchPage (hfind : s.kln.protect.find? (fun x => x.1 == p) = some (p, g, page))
    (hf : s.firing g = some f) (hfree : f.freeReserve f.drained = some r) :
    (s.touchPage p).kilnSide = (s.unprotect g p (f.copied page r (s.peek (p * 2 ^ 21) (2 ^ 21)))).kilnSide := by
  have hold : tgetD s.kln.firings g f = f := by rw [tgetD, show tget s.kln.firings g = some f from hf]; rfl
  have hget : tget s.kln.firings g = some f := hf
  rw [State.touchPage, hfind]
  dsimp only
  rw [hget]
  dsimp only
  rw [hfree]
  dsimp only [Option.isNone_some]
  rw [if_neg Bool.false_ne_true, hold]
  split
  · exact (State.kilnSide_putPage ..).trans ((State.kilnSide_bump ..).trans (State.kilnSide_bump ..))
  · exact (State.kilnSide_bump ..).trans (State.kilnSide_bump ..)

theorem State.touchDone_copies (cycles : Nat) (hfirst : s.kln.protect.find? (fun y => y.2 == (g, page)) = some (p, g, page))
    (hfind : s.kln.protect.find? (fun x => x.1 == p) = some (p, g, page)) (hf : s.firing g = some f)
    (hfree : f.freeReserve f.drained = some r) :
    (s.touchDone g page cycles).kilnSide =
      (s.unprotect g p (f.copied page r (s.peek (p * 2 ^ 21) (2 ^ 21)))).kilnSide := by
  obtain ⟨v, hnoted, hdone⟩ : ∃ v, Noted s v ∧ s.touchDone g page cycles = v.touchPage p := by
    rw [State.touchDone, hfirst, hf]
    dsimp only
    rw [hfree]
    dsimp only [Option.isNone_some]
    rw [if_neg Bool.false_ne_true]
    refine ⟨_, ?_, rfl⟩
    split
    · exact Noted.refl s
    · exact State.bump_noted _ _ _ (Noted.refl s)
  rw [← hnoted.kln] at hfind
  rw [hdone, State.kilnSide_touchPage hfind ((State.firing_congr hnoted.kilnSide g).trans hf) hfree, hnoted.peek]
  simp only [State.unprotect, State.modKln, State.kilnSide, hnoted.kln, hnoted.hrt, hnoted.col, hnoted.mem]

end

/-! ## Events -/

section
variable {s : State} (hrun : s.islandsRun = true) (hidle : s.waits = ([], []))
include hrun hidle

theorem State.kilnEvent_of_waits {k : State → State} (h : (k s).waits = s.waits) : s.kilnEvent k = k s := by
  have hk := h.trans hidle
  exact State.kilnEvent_of_none hrun (congrArg Prod.fst hk) (congrArg Prod.snd hk)

theorem exec_kilnDestAck {o : Origin} {request : Nat} (h : (s.buddyAck o request).waits = s.waits) :
    exec (.kilnDestAck o request) s = .next (s.buddyAck o request) :=
  congrArg Host.Outcome.next (State.kilnEvent_of_waits (k := fun s => s.buddyAck o request) hrun hidle h)

theorem exec_kilnDrainTimeout {g : Nat} (h : (s.kilnOverdue g).waits = s.waits) :
    exec (.kilnDrainTimeout g) s = .next (s.kilnOverdue g) :=
  congrArg Host.Outcome.next (State.kilnEvent_of_waits (k := fun s => s.kilnOverdue g) hrun hidle h)

theorem exec_kilnCaptureDone {g : Nat} (h : (s.captureDone g).waits = s.waits) :
    exec (.kilnCaptureDone g) s = .next (s.captureDone g) :=
  congrArg Host.Outcome.next (State.kilnEvent_of_waits (k := fun s => s.captureDone g) hrun hidle h)

theorem exec_kilnTouchDone {g page cycles : Nat} (h : (s.touchDone g page cycles).waits = s.waits) :
    exec (.kilnTouchDone g page cycles) s = .next (s.touchDone g page cycles) :=
  congrArg Host.Outcome.next (State.kilnEvent_of_waits (k := fun s => s.touchDone g page cycles) hrun hidle h)

end

theorem exec_kilnDrainReceive {s : State} (hrun : s.islandsRun = true) (die : Nat) (o : Origin) (w : KilnWrite) :
    exec (.kilnDrainReceive die o w) s = .next (s.kilnWrite die o w) :=
  congrArg Host.Outcome.next (State.onDie_of_islandsRun hrun _)

section
variable {s : State} {g req : Nat} {o : Origin} {f : Firing}

theorem State.buddyAck_eq (hf : s.firing g = some f) (hg : o.grove = g) (hdev : o.device = f.plan.buddy / 2 ^ 41 % 2 ^ 15) :
    s.buddyAck o req = s.kilnAcked g false req := by
  subst hg
  simp only [State.buddyAck, hf, hdev, if_true]

/-! ## The end of a capture -/

theorem State.captureDone_copied {s1 : State} {d : Tbl (List Byte)} (hf : s.firing g = some f) (hst : f.st = .capture)
    (htouch : f.touch = false) (hall : s.captureAll g f.plan.pages.zipIdx = (s1, none))
    (hf1 : s1.firing g = some { f with digests := d }) : s.captureDone g = s1.startDrain g { f with digests := d } := by
  rw [State.captureDone, hf]
  dsimp only
  rw [if_neg (not_not_intro hst), if_neg (by rw [htouch]; exact Bool.false_ne_true), hall]
  dsimp only
  rw [hf1]
  rfl

/-- The state in which an aborted firing has been counted and recorded (R574). -/
def State.abortNoted (s : State) (g n : Nat) (f : Firing) : State := (s.bump .KLN_ABORTS [0]).klnRecord 0x07 g f.slot 0 n

theorem State.kilnSide_abortNoted (s : State) (g n : Nat) (f : Firing) : (s.abortNoted g n f).kilnSide = s.kilnSide := by
  simp [State.abortNoted, State.klnRecord]

theorem State.captureDone_aborts {s1 : State} {n : Nat} {d : Tbl (List Byte)} (hf : s.firing g = some f)
    (hst : f.st = .capture) (htouch : f.touch = false) (hall : s.captureAll g f.plan.pages.zipIdx = (s1, some n))
    (hf1 : s1.firing g = some { f with digests := d }) :
    s.captureDone g = ((s1.abortNoted g n f).firingEnded g).complete f.queue f.index .aborted 0 := by
  rw [State.captureDone, hf]
  dsimp only
  rw [if_neg (not_not_intro hst), if_neg (by rw [htouch]; exact Bool.false_ne_true), hall]
  dsimp only
  rw [State.abortFiring, hf1]
  exact State.endFiring_eq ((State.firing_congr (s1.kilnSide_abortNoted g n f) g).trans hf1) .aborted 0

/-- The local pages of a firing's capture, with their indices (R567). -/
def State.capturePages (s : State) (g : Nat) (f : Firing) : List (Nat × Nat × Nat) :=
  f.plan.pages.zipIdx.filterMap fun p => (s.localPage g p.1).map fun o => (o / 2 ^ 21, g, p.2)

theorem State.mem_capturePages {i va o : Nat} (hpage : f.plan.pages[i]? = some va) (hlocal : s.localPage g va = some o) :
    (o / 2 ^ 21, g, i) ∈ s.capturePages g f := by
  refine List.mem_filterMap.mpr ⟨(va, i), ?_, by rw [hlocal]; rfl⟩
  exact List.mem_zipIdx_iff_getElem?.mpr hpage

/-- The state in which a firing's pages are write-protected. -/
def State.protecting (s : State) (g : Nat) (f : Firing) : State :=
  s.modKln fun x => { x with protect := x.protect ++ s.capturePages g f }

theorem State.captureDone_protects (hf : s.firing g = some f) (hst : f.st = .capture) (htouch : f.touch = true) :
    s.captureDone g = (s.protecting g f).startDrain g f := by
  have hf1 : (s.protecting g f).firing g = some f := hf
  rw [State.captureDone, hf]
  dsimp only
  rw [if_neg (not_not_intro hst), if_pos htouch]
  show State.kilnSends (((s.protecting g f).putFiring g (Firing.draining (((s.protecting g f).firing g).getD f)))) g = _
  rw [hf1]
  rfl

end
end Sys2Proof.Machine
end

section
/-! PROOFS. Acknowledged and overdue drain messages, the end of a capture, touched pages and drain messages of others
(R565 to R567, R573, R583). -/
namespace Sys2Proof.Machine

theorem State.lastRecord_klnRecord {s : State} (code g slot dest item : Nat) (hroom : s.logRoom = true) :
    ∃ r : LogRec, (s.klnRecord code g slot dest item).lastRecord = some r ∧ r.src = .kln ∧ r.sev = .contained ∧
      r.code = code :=
  ⟨_, State.lastRecord_record _ _ _ _ _ _ _ rfl ((State.logRoom_putReg _ (by decide) (by decide)).trans hroom), rfl, rfl, rfl⟩

@[simp] theorem State.klnRecord_mem (s : State) (code g slot dest item : Nat) :
    (s.klnRecord code g slot dest item).mem = s.mem := by
  simp [State.klnRecord]

@[simp] theorem State.klnRecord_kilnSide (s : State) (code g slot dest item : Nat) :
    (s.klnRecord code g slot dest item).kilnSide = s.kilnSide := by
  simp [State.klnRecord]

@[simp] theorem State.putFiring_mem (s : State) (g : Nat) (f : Firing) : (s.putFiring g f).mem = s.mem := rfl

@[simp] theorem State.putFiring_hrt (s : State) (g : Nat) (f : Firing) : (s.putFiring g f).hrt = s.hrt := rfl

@[simp] theorem State.putFiring_waits (s : State) (g : Nat) (f : Firing) : (s.putFiring g f).waits = s.waits := rfl

@[simp] theorem State.firingEnded_mem (s : State) (g : Nat) : (s.firingEnded g).mem = s.mem := rfl

theorem State.lastRecord_putFiring (s : State) (g : Nat) (f : Firing) : (s.putFiring g f).lastRecord = s.lastRecord := rfl

theorem State.lastRecord_firingEnded (s : State) (g : Nat) : (s.firingEnded g).lastRecord = s.lastRecord := rfl

@[simp] theorem State.firingEnded_waits (s : State) (g : Nat) : (s.firingEnded g).waits = s.waits := rfl

theorem State.waits_unprotect (s : State) (g p : Nat) (f : Firing) : (s.unprotect g p f).waits = s.waits := rfl

theorem State.protect_unprotect (s : State) (g p : Nat) (f : Firing) :
    (s.unprotect g p f).kln.protect = s.kln.protect.filter fun y => y.1 != p := rfl

theorem State.firing_unprotect (s : State) (g p : Nat) (f : Firing) : (s.unprotect g p f).firing g = some f :=
  tget_tset_same ..

section
variable {s : State} {g req : Nat} {f : Firing} (hf : s.firing g = some f) (hother : f.storage.live = false)
  (hlive : f.buddy.live = true) (htag : f.buddy.tag = some req) (hsnaps : f.snaps = [])
include hf hother hlive htag hsnaps

/-- The zeroed record at the only destination in service ends INVALIDATE. -/
theorem State.kilnAcked_record0 (hst : f.st = .invalidate) (hitem : f.buddy.item = .record0) :
    ∃ n, s.kilnAcked g false req =
      ((s.bump .KLN_DRAINED [0] n).putFiring g f.buddyHas).putFiring g { f.buddyHas with st := .capture } := by
  obtain ⟨n, hacked⟩ := State.kilnAcked_whole (at' := 0) (len := 128) hf htag (by rw [hitem]; rfl) (by decide) hsnaps
  have hwaiting : f.buddyHas.buddy.item = .waiting := by
    show f.nextItem f.buddy.item = _
    rw [hitem]
    rfl
  refine ⟨n, ?_⟩
  rw [hacked, State.firingMoves_capture (f := f.buddyHas) (State.firing_putFiring_same ..) hst hlive hwaiting hother]
  exact State.kilnSend_waiting (State.firing_putFiring_same ..) hwaiting

/-- The completion record at the only destination in service ends the firing. -/
theorem State.kilnAcked_record (hst : f.st = .seal) (hitem : f.buddy.item = .record) :
    ∃ n, s.kilnAcked g false req =
      ((((s.bump .KLN_DRAINED [0] n).putFiring g f.buddyHas).sealedAt g f).firingEnded g).complete f.queue f.index .ok
        (f.step + 2 ^ 48) := by
  obtain ⟨n, hacked⟩ := State.kilnAcked_whole (at' := 0) (len := 128) hf htag (by rw [hitem]; rfl) (by decide) hsnaps
  have hdone : f.buddyHas.buddy.item = .done := by
    show f.nextItem f.buddy.item = _
    rw [hitem]
    rfl
  refine ⟨n, ?_⟩
  rw [hacked, State.firingMoves_sealed (f := f.buddyHas) (State.firing_putFiring_same ..) hst hlive hdone hother]
  exact State.kilnSend_none _ (State.firing_complete_none _ _ _ _ _ (State.firing_firingEnded_same ..))

/-- The last repetition overdue, with no other destination in service, ends the firing. -/
theorem State.kilnOverdue_ends (hitem : f.buddy.item = .metadata) (htries : 3 ≤ f.buddy.tries) (hst : f.st = .drain) :
    s.kilnOverdue g = (((s.klnRecord 0x06 g f.slot 1 f.step).putFiring g f.buddyLost).firingEnded g).complete
      f.queue f.index .fault 0 := by
  rw [State.kilnOverdue_fails hf htag hitem htries hlive (by rw [hst]; decide) hsnaps]
  exact State.firingMoves_failed (f := f.buddyLost) (State.firing_putFiring_same ..) rfl hother

end

theorem State.waits_of_none {s : State} (hheld : s.mem.held = []) (hopens : s.col.heldOpens = []) : s.waits = ([], []) := by
  rw [State.waits, hheld, hopens]

/-- What a drain message does to a buddy. -/
theorem State.kilnWrite_accepted {s s1 s2 : State} {die : Nat} {o : Origin} {w : KilnWrite}
    (hgrove : s.groveIs o.grove o.gen = true)
    (hholder : (s.locate w.offset).bind (fun p => s.channelOwner p.1) = some o.grove)
    (hspend : s.spend die o.grove 4 1 = (s1, true)) (hwrite : s1.writeLocal (.grove o.grove) w.offset w.data = (s2, .ok)) :
    s.kilnWrite die o w = s2.colAck die o.device o.grove w.request 0 := by
  simp [State.kilnWrite, hgrove, hholder, hspend, hwrite]

theorem State.kilnWrite_stale {s : State} {o : Origin} (die : Nat) (w : KilnWrite) (hgrove : s.groveIs o.grove o.gen = false) :
    s.kilnWrite die o w = s.dropStale die o true := by
  simp [State.kilnWrite, hgrove]

/-- Settles O42: each event is one of the equations for the firing's state; what waits is kept, so nothing else follows. -/
theorem kilnDrains : Obligations.KilnDrains := by
  unfold Obligations.KilnDrains
  refine ⟨fun s g req o f hrun hheld hopens hf hother hlive htag hgrove hg hdev hsnaps =>
      ⟨fun hst hitem => ?invalidated, fun hst hitem => ?sealed, fun hitem htries => ?again,
        fun hitem htries hst hroom => ?failed⟩,
    fun s s1 g page cycles f hrun hheld hopens hf =>
      ⟨fun hst htouch hall => ?captured, fun n hst htouch hall => ?aborted, fun hst htouch => ?guarded,
        fun p r hfirst hfind hfree => ?touched⟩,
    fun s s1 s2 die o w hrun => ⟨fun hgrove hholder hspend hwrite => ?written, fun hgrove => ?stale⟩⟩
  case invalidated =>
    have hidle := State.waits_of_none hheld hopens
    obtain ⟨n, hacked⟩ := State.kilnAcked_record0 hf hother hlive htag hsnaps hst hitem
    have hack := (State.buddyAck_eq hf hgrove hdev).trans hacked
    refine ⟨_, (exec_kilnDestAck hrun hidle ?_).trans (congrArg Host.Outcome.next hack), ?_, fun j hj => ?_, ?_, ?_⟩
    · rw [hack, State.putFiring_waits, State.putFiring_waits, State.waits_congr (State.kilnSide_bump ..)]
    · rw [State.firing_putFiring_same, Firing.buddyHas, hitem]
      rfl
    · rw [State.firing_putFiring_other _ _ hj, State.firing_putFiring_other _ _ hj,
        State.firing_congr (State.kilnSide_bump ..)]
    · simp
    · simp
  case sealed =>
    have hidle := State.waits_of_none hheld hopens
    obtain ⟨n, hacked⟩ := State.kilnAcked_record hf hother hlive htag hsnaps hst hitem
    have hack := (State.buddyAck_eq hf hgrove hdev).trans hacked
    refine ⟨_, (exec_kilnDestAck hrun hidle ?_).trans (congrArg Host.Outcome.next hack), State.firing_firingEnded_same ..,
      ?_, ?_, fun j hj => ?_⟩
    · rw [hack, State.waits_complete, State.firingEnded_waits, State.sealedAt,
        State.waits_congr (State.kilnSide_putReg ..), State.putFiring_waits, State.waits_congr (State.kilnSide_bump ..)]
    · exact State.getReg_putReg_same ..
    · simp [State.sealedAt]
    · rw [State.firing_firingEnded_other _ hj, State.sealedAt, State.firing_congr (State.kilnSide_putReg ..),
        State.firing_putFiring_other _ _ hj, State.firing_congr (State.kilnSide_bump ..)]
  case again =>
    have hidle := State.waits_of_none hheld hopens
    obtain ⟨at', bs, hagain⟩ := State.kilnOverdue_again hf htag hitem htries
    have hside := State.kilnSide_kilnPut (s.putFiring g f.retried) g f.retried false at' req bs
    have hframe := State.sendFrame_kilnPut (s.putFiring g f.retried) g f.retried false at' req bs
    refine ⟨_, (exec_kilnDrainTimeout hrun hidle ?_).trans (congrArg Host.Outcome.next hagain), ?_,
      congrArg (·.2.1) hframe, congrArg (·.2.1) hside⟩
    · rw [hagain, State.waits_congr hside, State.putFiring_waits]
    · rw [State.firing_congr hside, State.firing_putFiring_same]
      rfl
  case failed =>
    have hidle := State.waits_of_none hheld hopens
    have hends := State.kilnOverdue_ends hf hother hlive htag hsnaps hitem htries hst
    obtain ⟨r, hlast, hrec⟩ := State.lastRecord_klnRecord 0x06 g f.slot 1 f.step hroom
    refine ⟨_, r, (exec_kilnDrainTimeout hrun hidle ?_).trans (congrArg Host.Outcome.next hends),
      State.firing_firingEnded_same .., by rw [State.firingEnded_mem, State.putFiring_mem, State.klnRecord_mem],
      by rw [State.lastRecord_firingEnded, State.lastRecord_putFiring, hlast], hrec⟩
    rw [hends, State.waits_complete, State.firingEnded_waits, State.putFiring_waits,
      State.waits_congr (State.klnRecord_kilnSide ..)]
  case captured =>
    have hidle := State.waits_of_none hheld hopens
    obtain ⟨d, hf1, hwaits⟩ := State.captureAll_firing (l := f.plan.pages.zipIdx) hf
    rw [hall] at hf1 hwaits
    have hdone := State.captureDone_copied hf hst htouch hall hf1
    obtain ⟨f2, hf2, hst2, hdigests, hbuddy, hstorage⟩ := s1.startDrain_firing g { f with digests := d }
    refine ⟨_, _, f2, (exec_kilnCaptureDone hrun hidle ?_).trans (congrArg Host.Outcome.next hdone), hf1, hf2, hst2, hdigests,
      hbuddy, hstorage, State.mem_startDrain ..⟩
    rw [hdone, State.waits_startDrain, hwaits]
  case aborted =>
    have hidle := State.waits_of_none hheld hopens
    obtain ⟨d, hf1, hwaits⟩ := State.captureAll_firing (l := f.plan.pages.zipIdx) hf
    rw [hall] at hf1 hwaits
    have hdone := State.captureDone_aborts hf hst htouch hall hf1
    refine ⟨_, (exec_kilnCaptureDone hrun hidle ?_).trans (congrArg Host.Outcome.next hdone), State.firing_firingEnded_same ..,
      by rw [State.firingEnded_mem, State.abortNoted, State.klnRecord_mem, State.bump_mem]⟩
    rw [hdone, State.waits_complete, State.firingEnded_waits, State.waits_congr (State.kilnSide_abortNoted ..), hwaits]
  case guarded =>
    have hidle := State.waits_of_none hheld hopens
    have hdone := State.captureDone_protects hf hst htouch
    obtain ⟨f2, hf2, hst2, -⟩ := (s.protecting g f).startDrain_firing g f
    have hprot : ((s.protecting g f).startDrain g f).kln.protect = s.kln.protect ++ s.capturePages g f :=
      ((s.protecting g f).startDrain_sends g f).protect
    refine ⟨_, f2, (exec_kilnCaptureDone hrun hidle ?_).trans (congrArg Host.Outcome.next hdone), hf2, hst2,
      fun i va o hpage hlocal => ?_, fun p hp => ?_, State.mem_startDrain ..⟩
    · rw [hdone, State.waits_startDrain]
      rfl
    · rw [hprot]
      exact List.mem_append_right _ (State.mem_capturePages hpage hlocal)
    · rw [hprot]
      exact List.mem_append_left _ hp
  case touched =>
    have hidle := State.waits_of_none hheld hopens
    have hside := State.touchDone_copies cycles hfirst hfind hf hfree
    refine ⟨_, _, exec_kilnTouchDone hrun hidle ((State.waits_congr hside).trans (State.waits_unprotect ..)),
      (State.firing_congr hside g).trans (State.firing_unprotect ..), rfl, rfl, rfl, fun x => ?_⟩
    rw [State.protect_congr hside, State.protect_unprotect]
    simp
  case written =>
    exact (exec_kilnDrainReceive hrun die o w).trans
      (congrArg Host.Outcome.next (State.kilnWrite_accepted hgrove hholder hspend hwrite))
  case stale =>
    have hframe := s.sendFrame_dropStale die o true
    exact ⟨_, (exec_kilnDrainReceive hrun die o w).trans (congrArg Host.Outcome.next (State.kilnWrite_stale die w hgrove)),
      congrArg (·.2.1) hframe, congrArg (·.1) (s.kilnSide_dropStale die o true), congrArg (·.2.2.1) hframe⟩

end Sys2Proof.Machine
end

section
/-! PROOFS. Command queues: doorbells, enables and disables, fetched commands (R101, R102, R103, R105, R108, R109). -/
namespace Sys2Proof.Machine

/-! ## Blocks that run -/

theorem State.awake_of {s : State} (hphase : s.sup.phase ≠ .ash) (hheld : s.sup.recovery ≠ .resetHeld)
    (f : State → State) : s.awake f = f s := by
  simp [State.awake, hphase, hheld]

theorem State.unheld_of {s : State} (h : s.sup.recovery ≠ .resetHeld) (f : State → State) : s.unheld f = f s := by
  simp [State.unheld, h]

/-! ## A queue changed -/

@[simp] theorem State.queue_modQueue_same (s : State) (q : Nat) (f : Queue → Queue) :
    (s.modQueue q f).queue q = f (s.queue q) := tgetD_tmod_same s.hrt.queues q {} f

theorem State.queue_modQueue_other (s : State) {q p : Nat} (f : Queue → Queue) (h : p ≠ q) :
    (s.modQueue q f).queue p = s.queue p := tgetD_tmod_other s.hrt.queues {} {} f h

/-- A queue changed is the hearth die's attachment changed. -/
theorem State.modQueue_frame (s : State) (q : Nat) (f : Queue → Queue) : { s.modQueue q f with hrt := s.hrt } = s := rfl

theorem State.queue_congr {s t : State} (h : t.hrt = s.hrt) (q : Nat) : t.queue q = s.queue q := by
  simp only [State.queue, h]

/-! ## Doorbells (R103, R105, R109) -/

section
variable {s : State} {q : Nat} {v : Word}

theorem State.doorbell_taken (hen : (s.queue q).enabled = true) (hstop : (s.queue q).stopped = false)
    (htail : subMod 32 (wfld v 0 32) (s.queue q).tail ≤ s.qsize q)
    (hcons : subMod 32 (wfld v 0 32) (wfld v 32 32) ≤ s.qsize q) :
    s.doorbell q v = s.modQueue q fun x => { x with tail := wfld v 0 32, consumed := wfld v 32 32 } := by
  simp [State.doorbell, hen, hstop, htail, hcons]

theorem State.doorbell_stops (hen : (s.queue q).enabled = true) (hstop : (s.queue q).stopped = false)
    (hover : ¬(subMod 32 (wfld v 0 32) (s.queue q).tail ≤ s.qsize q ∧
      subMod 32 (wfld v 0 32) (wfld v 32 32) ≤ s.qsize q)) :
    s.doorbell q v = (s.modQueue q fun x => { x with stopped := true, error := 1 }).record .hlk .contained (dieOfQueue q)
      0x04 none q := by
  simp only [not_and] at hover
  simp only [State.doorbell, hen, hstop, Bool.not_true, Bool.or_self, Bool.false_eq_true, if_false, Bool.and_eq_true,
    decide_eq_true_eq]
  exact if_neg fun h => hover h.1 h.2

theorem State.doorbell_refused (h : (s.queue q).enabled = false ∨ (s.queue q).stopped = true) :
    s.doorbell q v = s.refuseWrite .HLK_QDOORBELL [q] := by
  obtain h | h := h <;> simp [State.doorbell, h]

/-! ## Enables and disables (R105, R108) -/

/-- A valid configuration with both rings in the die's half waits for the earlier enable's commands. -/
theorem State.queueEnable_valid (hlo : 6 ≤ wfld v 48 5) (hhi : wfld v 48 5 ≤ 16) (hcore : wfld v 40 5 ≤ 23)
    (htarget : wfld v 32 4 ≤ 7) (hdev : v.getLsbD 4 = true → 6 ≤ wfld v 32 4)
    (hbase : inHalf (dieOfQueue q) (wfld (s.getReg .HLK_QBASE [q]) 6 35 * 64) (64 * 2 ^ wfld v 48 5) = true)
    (hcbase : inHalf (dieOfQueue q) (wfld (s.getReg .HLK_QCBASE [q]) 6 35 * 64) (16 * 2 ^ wfld v 48 5) = true) :
    s.queueEnable q v = (s.softWrite .HLK_QCFG [q] v).modQueue q fun x => { x with
      enabled := false
      pendingEnable := some (v, wfld (s.getReg .HLK_QBASE [q]) 6 35 * 64, wfld (s.getReg .HLK_QCBASE [q]) 6 35 * 64) } := by
  have hcfg : (decide (wfld v 48 5 < 6) || decide (wfld v 48 5 > 16) || decide (wfld v 40 5 > 23) ||
      decide (wfld v 32 4 > 7) || (v.getLsbD 4 && decide (wfld v 32 4 < 6))) = false := by
    simp only [Bool.or_eq_false_iff, decide_eq_false_iff_not, Bool.and_eq_false_imp]
    exact ⟨⟨⟨⟨by omega, by omega⟩, by omega⟩, by omega⟩, fun h => Nat.not_lt.mpr (hdev h)⟩
  unfold State.queueEnable
  simp only [hcfg, hbase, hcbase]
  rfl

theorem State.enableTakesEffect_idle {w : Word} {base cbase : Nat}
    (hpend : (s.queue q).pendingEnable = some (w, base, cbase)) (hcmds : (s.queue q).cmds = []) :
    s.enableTakesEffect q = s.modQueue q fun _ => { enabled := true, cfg := w, base := base, cbase := cbase } := by
  simp [State.enableTakesEffect, hpend, hcmds]

end

/-! ## Fetching (R101, R102) -/

section
variable {s : State} {q : Nat} {b : List Byte} {c : Cmd}

/-- A command that passes the checks of R102. -/
structure State.Admits (s : State) (q : Nat) (c : Cmd) : Prop where
  header : headerBad c.raw = false
  grove : s.qdevice q = true ∨ c.grove = s.qgrove q
  bound : ∀ g, s.actsOn q c = some g → s.groveIs g c.gen = true
  opcode : opcodeDefined (s.qtarget q) c.opcode = true
  device : s.qdevice q = true → s.qtarget q = 7 → c.grove = 0 ∧ c.gen = 0

theorem State.checkFetched_of_admits (h : s.Admits q c) : s.checkFetched q c = s := by
  obtain ⟨hhead, hgrove, hbound, hop, hdev⟩ := h
  have hown : (!s.qdevice q && decide (c.grove ≠ s.qgrove q)) = false := by
    obtain h | h := hgrove <;> simp [h]
  have hfresh : ((s.actsOn q c).any fun g => !s.groveIs g c.gen) = false := by
    cases hg : s.actsOn q c with
    | none => rfl
    | some g => simp [hbound g hg]
  have hseven : (s.qdevice q && decide (s.qtarget q = 7) && (decide (c.grove ≠ 0) || decide (c.gen ≠ 0))) = false := by
    by_cases hd : s.qdevice q = true ∧ s.qtarget q = 7
    · obtain ⟨hg, hgen⟩ := hdev hd.1 hd.2
      simp [hg, hgen]
    · simp only [Bool.and_eq_false_imp, Bool.and_eq_true, decide_eq_true_eq]
      exact fun h => absurd h hd
  unfold State.checkFetched
  rw [hhead, hown, hfresh, hop, hseven]
  rfl

/-- The queue with a command fetched. -/
def Queue.fetching (x : Queue) (c : Cmd) : Queue := { x with fetched := (x.fetched + 1) % 2 ^ 32, cmds := x.cmds ++ [c] }

/-- The checks of R102 read a queue's configuration, which a fetch leaves as it is. -/
theorem State.admits_fetching (h : s.Admits q c) : (s.modQueue q fun x => x.fetching c).Admits q c := by
  have hcfg : (s.modQueue q fun x => x.fetching c).qcfg q = s.qcfg q := by
    rw [State.qcfg, State.queue_modQueue_same]
    rfl
  have hacts : (s.modQueue q fun x => x.fetching c).actsOn q c = s.actsOn q c := by
    unfold State.actsOn State.qdevice State.qtarget State.qgrove
    rw [hcfg]
  obtain ⟨hhead, hgrove, hbound, hop, hdev⟩ := h
  constructor
  · exact hhead
  · simpa only [State.qdevice, State.qgrove, hcfg] using hgrove
  · exact fun g hg => hbound g (hacts.symm.trans hg)
  · simpa only [State.qtarget, hcfg] using hop
  · simpa only [State.qdevice, State.qtarget, hcfg] using hdev

theorem State.fetch_admitted (hen : (s.queue q).enabled = true) (hstop : (s.queue q).stopped = false)
    (hleft : (s.queue q).fetched ≠ (s.queue q).tail) (hcap : s.hasCapacity q = true)
    (hread : s.readLocal .hearth (s.qbase q + 64 * ((s.queue q).fetched % s.qsize q)) 64 = (s, .ok, b))
    (hc : c = Cmd.parse (s.queue q).fetched b) (hadm : s.Admits q c) :
    s.fetch q = s.modQueue q fun x => x.fetching c := by
  have hgo : (!(s.queue q).enabled || (s.queue q).stopped || decide ((s.queue q).fetched = (s.queue q).tail) ||
      !s.hasCapacity q) = false := by
    simp [hen, hstop, hleft, hcap]
  unfold State.fetch
  dsimp only
  rw [hgo, hread]
  subst hc
  have hq := State.checkFetched_of_admits (State.admits_fetching hadm)
  refine Eq.trans ?_ hq
  simp only [Bool.false_eq_true, if_false]
  refine congrArg (State.checkFetched · q _) ?_
  exact congrArg (s.modQueue q) rfl

end

end Sys2Proof.Machine
end

section
/-! PROOFS. Places of the hearth region (R390), and the completion record (R99 to R101; O14). -/
namespace Sys2Proof.Machine

/-! ## Places of the hearth region -/

/-- The local offset of a hearth-region byte: the inverse of the stripe (R390). -/
def hearthOffset (c b : Nat) : Nat :=
  0x10000000000 + (if c < 240 then 0 else 2 ^ 34) + b / 2 ^ 12 * 2 ^ 15 + c % 8 * 2 ^ 12 + b % 2 ^ 12

/-- The channel and byte of a hearth-region offset, whatever is bound (R390). -/
theorem State.locate_of_hearth (s : State) {o : Nat} (hlo : 0x10000000000 ≤ o) (hhi : o < 0x10800000000) :
    s.locate o = some (8 * (if o < 0x10400000000 then 4 else 34) + fld o 12 3,
      (o - 0x10000000000) % 2 ^ 34 / 2 ^ 15 * 2 ^ 12 + o % 2 ^ 12) := by
  unfold State.locate
  rw [if_neg (by omega), if_pos ⟨hlo, hhi⟩]

/-- Only offsets of the hearth region lie in hearth channels (R22). -/
theorem State.hearth_of_locate {s : State} {o c b : Nat} (h : s.locate o = some (c, b))
    (hc : isHearthChannel c = true) : 0x10000000000 ≤ o ∧ o < 0x10800000000 := by
  have hrange : (32 ≤ c ∧ c < 40) ∨ (272 ≤ c ∧ c < 280) := by simpa [isHearthChannel] using hc
  unfold State.locate at h
  extract_lets stripe at h
  split at h
  · rename_i k w p hlow
    split at h
    · cases h
    next hoctet =>
      split at h
      · cases h
      · have hoct : k ≠ 4 ∧ k ≠ 34 := by simpa [isHearthOctet] using hoctet
        have hp : p.1 / 8 = k := by
          have hw : w < 2 ^ 34 := Nat.mod_lt _ (by decide)
          simp only [p]
          split
          · simp only [stripe, fld]
            omega
          · simp only
            omega
        have hpc : p.1 = c := congrArg Prod.fst (Option.some.inj h)
        omega
  next =>
    split at h
    next hin => exact hin
    · cases h

theorem State.hearthOffset_of_locate {s : State} {o c b : Nat} (h : s.locate o = some (c, b))
    (hc : isHearthChannel c = true) : o = hearthOffset c b := by
  obtain ⟨hlo, hhi⟩ := State.hearth_of_locate h hc
  rw [s.locate_of_hearth hlo hhi] at h
  obtain ⟨rfl, rfl⟩ := Prod.mk.inj (Option.some.inj h)
  unfold hearthOffset fld
  by_cases hhalf : o < 0x10400000000
  · rw [if_pos hhalf, if_pos (by omega)]
    omega
  · rw [if_neg hhalf, if_neg (by omega)]
    omega

/-- The 16 bytes of a completion slot lie in one line. -/
theorem State.locate_slot {s : State} {o c b i : Nat} (h : s.locate o = some (c, b)) (hc : isHearthChannel c = true)
    (halign : o % 16 = 0) (hi : i < 16) : s.locate (o + i) = some (c, b + i) := by
  obtain ⟨hlo, hhi⟩ := State.hearth_of_locate h hc
  rw [s.locate_of_hearth hlo hhi] at h
  obtain ⟨rfl, rfl⟩ := Prod.mk.inj (Option.some.inj h)
  rw [s.locate_of_hearth (by omega) (by omega)]
  unfold fld
  refine congrArg some (Prod.ext ?_ (by dsimp only; omega))
  dsimp only
  have hhalf : (o + i < 0x10400000000) = (o < 0x10400000000) := by
    rw [eq_iff_iff]
    omega
  simp only [hhalf]
  omega

/-! ## A write of part of a line changes no binding -/

theorem State.locate_congr {s t : State} (hgrv : t.grv = s.grv)
    (habsent : ∀ c, (t.channel c).absent = (s.channel c).absent) (o : Nat) : t.locate o = s.locate o := by
  have howner : t.channelOwner = s.channelOwner := funext fun c => by
    simp only [State.channelOwner, State.ownerBy, State.grove, hgrv]
  have hstriped : t.striped = s.striped := funext fun k => by
    unfold State.striped
    rw [howner]
  unfold State.locate
  simp only [hstriped, habsent]

theorem State.locate_modChannel (s : State) (c : Nat) (f : Channel → Channel) (hf : ∀ x, (f x).absent = x.absent)
    (o : Nat) : (s.modChannel c f).locate o = s.locate o := by
  refine State.locate_congr (s := s) (t := s.modChannel c f) rfl (fun d => ?_) o
  by_cases hd : d = c
  · rw [hd, State.channel_modChannel_same, hf]
  · rw [State.channel_modChannel_other _ _ hd]

/-- A state in which a channel's write-combining buffer has taken an entry, and words are saturated targets no more. -/
def State.buffered (s : State) (c : Nat) (p : Nat → Bool) (e : WcbEntry) : State :=
  (s.unsaturate p).modChannel c (Channel.takeEntry e)

/-- Part of a line that nothing buffers takes an entry. -/
theorem State.writeLine_buffered {s : State} {c line pos : Nat} {bs : List Byte} (g : Nat) (hpart : bs.length ≠ 64)
    (hadders : (s.channel c).adders = []) (hwcb : (s.channel c).wcb = []) (hbad : s.lineBad c line = false) :
    ∃ p e, s.writeLine c line pos bs g = (s.buffered c p e, true) := by
  have hsettle : s.settleAdder c line = s := by simp [State.settleAdder, hadders]
  have hchan : ∀ p, ((s.unsaturate p).channel c).wcb = [] := fun _ => hwcb
  unfold State.writeLine
  rw [if_neg (fun h => hpart h.2), hsettle, if_neg (by simp [hbad])]
  simp only [hchan, List.find?_nil]
  exact ⟨_, _, rfl⟩

theorem State.touch_of_unprotected {s : State} (h : s.kln.protect = []) (o : Nat) : s.touch o = s := by
  simp [State.touch, h]

/-- The bytes of a line, written by the hearth side where nothing is buffered, show a reader just that. -/
theorem State.writeLocal_buffered {s : State} {o c b : Nat} {bs : List Byte} (hloc : s.locate o = some (c, b))
    (hc : isHearthChannel c = true) (hpos : 0 < bs.length) (hfit : o % 64 + bs.length ≤ 64)
    (hpart : bs.length ≠ 64)
    (hbad : s.lineBad c (b / 64) = false) (hwcb : (s.channel c).wcb = []) (hadders : (s.channel c).adders = [])
    (hprot : s.kln.protect = []) :
    ∃ p e, s.writeLocal .hearth o bs = (s.buffered c p e, .ok) ∧ Written s (s.buffered c p e) c b bs := by
  obtain ⟨-, halign⟩ := State.locate_bound hloc
  have hpieces : pieces bs.length o bs.length = [(o, bs.length)] := by
    obtain ⟨n, hn⟩ := Nat.exists_eq_add_of_lt hpos
    rw [hn, show 0 + n + 1 = n + 1 by omega]
    have hmin : min (n + 1) (64 - o % 64) = n + 1 := by omega
    rw [pieces, if_neg (by omega)]
    simp only [hmin, Nat.sub_self]
    cases n <;> simp [pieces]
  have hprobe : s.probe .hearth false o bs.length = (.ok, 0, 0) := by
    simp [State.probe, hpieces, State.placeFor, hloc, hc, hbad]
  obtain ⟨p, e, hline⟩ := State.writeLine_buffered (pos := b % 64) 0 hpart hadders hwcb hbad
  obtain ⟨t, hwrite, hwritten⟩ := State.writeLine_entry (b := b) 0 hpart (by omega) hadders hbad
    (by rw [hwcb]; decide) (by rw [hwcb]; simp)
  obtain rfl := congrArg Prod.fst (hline.symm.trans hwrite)
  refine ⟨p, e, ?_, hwritten⟩
  unfold State.writeLocal
  rw [hprobe, hpieces]
  simp only [List.foldl_cons, List.foldl_nil, hloc, State.touch_of_unprotected hprot, List.take_length, hline]

theorem State.locate_buffered (s : State) (c : Nat) (p : Nat → Bool) (e : WcbEntry) (o : Nat) :
    (s.buffered c p e).locate o = s.locate o := State.locate_modChannel (s.unsaturate p) c (Channel.takeEntry e) (fun _ => rfl) o

/-! ## What a reader sees of a slot that was written -/

theorem State.peek_one {s : State} (o : Nat) :
    s.peek o 1 = [match s.locate o with
      | some (c, b) => s.viewByte c b
      | none => 0] := rfl

section
variable {s t : State} {a c b : Nat} {bs : List Byte} (hloc : s.locate a = some (c, b)) (hc : isHearthChannel c = true)
  (halign : a % 16 = 0) (hlen : bs.length = 16) (hsame : ∀ o, t.locate o = s.locate o) (h : Written s t c b bs)
include hloc hc halign hlen hsame h

theorem State.peek_written : t.peek a 16 = bs := by
  refine List.ext_getElem (by simp [State.peek, hlen]) fun i hi hi2 => ?_
  have hlt : i < 16 := hlen ▸ hi2
  have hbyte := h.bytes i hi2
  simp only [State.peek, List.getElem_map, List.getElem_range, hsame, State.locate_slot hloc hc halign hlt]
  rw [hbyte, List.getD_eq_getElem _ _ hi2]

theorem State.peek_unwritten {o : Nat} (ho : o < a ∨ a + 16 ≤ o) : t.peek o 1 = s.peek o 1 := by
  rw [State.peek_one, State.peek_one, hsame]
  refine congrArg (fun x => [x]) ?_
  cases hplace : s.locate o with
  | none => rfl
  | some p =>
    obtain ⟨d, x⟩ := p
    refine h.others d x (State.locate_bound hplace).1 fun hin => ?_
    obtain ⟨rfl, hbx, hxb⟩ := hin
    obtain ⟨i, rfl⟩ := Nat.exists_eq_add_of_le hbx
    have hslot := State.locate_slot hloc hc halign (i := i) (by omega)
    have heq := (State.hearthOffset_of_locate hplace hc).trans (State.hearthOffset_of_locate hslot hc).symm
    omega

end

/-! ## Completion (R99 to R101) -/

theorem length_toLe (n x : Nat) : (toLe n x).length = n := by
  induction n generalizing x with
  | zero => rfl
  | succ n ih => rw [toLe, List.length_cons, ih]

theorem length_completionBytes (q n size tag status result : Nat) :
    (completionBytes q n size tag status result).length = 16 := by
  simp [completionBytes, length_toLe]

/-- The queue with a command completed. -/
def Queue.completing (x : Queue) (n i : Nat) : Queue :=
  { x with completed := (n + 1) % 2 ^ 32, cmds := x.cmds.filter (·.index != i) }

@[simp] theorem State.peek_modQueue (s : State) (q : Nat) (f : Queue → Queue) (o n : Nat) :
    (s.modQueue q f).peek o n = s.peek o n := rfl

theorem State.cmd_completing (s : State) (q n i : Nat) : (s.modQueue q (Queue.completing · n i)).cmd q i = none := by
  rw [State.cmd, State.queue_modQueue_same, Queue.completing]
  simp

/-- The state with a command's interrupt raised, if it asked for one. -/
def State.interruptIf (s : State) (irq : Bool) (core : Nat) : State := if irq then s.interrupt core else s

@[simp] theorem State.interruptIf_hrt (s : State) (irq : Bool) (core : Nat) : (s.interruptIf irq core).hrt = s.hrt := by
  cases irq <;> rfl

@[simp] theorem State.interruptIf_regs (s : State) (irq : Bool) (core : Nat) : (s.interruptIf irq core).regs = s.regs := by
  cases irq <;> rfl

@[simp] theorem State.interruptIf_sch (s : State) (irq : Bool) (core : Nat) : (s.interruptIf irq core).sch = s.sch := by
  cases irq <;> rfl

@[simp] theorem State.peek_interruptIf (s : State) (irq : Bool) (core o n : Nat) :
    (s.interruptIf irq core).peek o n = s.peek o n := by
  cases irq <;> rfl

theorem State.irqs_interruptIf (s : State) (irq : Bool) (core : Nat) :
    (s.interruptIf irq core).irqs = s.irqs ++ (if irq then [core] else []) := by
  cases irq
  · exact (List.append_nil _).symm
  · rfl

/-- A completed command's record is written, its queue counted on, its interrupt raised. -/
theorem State.complete_eq {s s1 : State} {q i : Nat} {c : Cmd} {st : Status} {result : Nat} (hcmd : s.cmd q i = some c)
    (hwrite : (s.writeLocal .hearth (s.qcbase q + 16 * ((s.queue q).completed % s.qsize q))
      (completionBytes q (s.queue q).completed (s.qsize q) c.tag st.number result)).1 = s1) (hcfg : s1.queue q = s.queue q) :
    s.complete q i st result =
      (s1.modQueue q (Queue.completing · (s.queue q).completed i)).interruptIf c.irq (wfld (s.qcfg q) 40 5) := by
  have hqcfg : (s1.modQueue q (Queue.completing · (s.queue q).completed i)).qcfg q = s.qcfg q := by
    rw [State.qcfg, State.queue_modQueue_same, hcfg]
    rfl
  rw [State.complete, hcmd]
  dsimp only
  rw [hwrite, ← hqcfg]
  rfl

end Sys2Proof.Machine
end

section
/-! PROOFS. The hearth queues' doorbells, enables, fetches and completion records (R99 to R109; O14). -/
namespace Sys2Proof.Machine

section
variable {s : State} (hphase : s.sup.phase ≠ .ash) (hheld : s.sup.recovery ≠ .resetHeld)
include hphase hheld

theorem exec_queueDoorbell (q : Nat) (v : Word) : exec (.queueDoorbell q v) s = .next (s.doorbell q v) :=
  congrArg Host.Outcome.next (State.awake_of hphase hheld _)

theorem exec_queueEnable (q : Nat) (v : Word) :
    exec (.queueEnable q v) s = .next (s.queueEnable q (v ||| BitVec.ofNat 64 (2 ^ 63))) :=
  congrArg Host.Outcome.next (State.awake_of hphase hheld _)

theorem exec_queueEnableTakeEffect (q : Nat) : exec (.queueEnableTakeEffect q) s = .next (s.enableTakesEffect q) :=
  congrArg Host.Outcome.next (State.awake_of hphase hheld _)

theorem exec_queueDisable (q : Nat) (v : Word) :
    exec (.queueDisable q v) s = .next (s.queueDisable q (v &&& BitVec.ofNat 64 (2 ^ 63 - 1))) :=
  congrArg Host.Outcome.next (State.awake_of hphase hheld _)

end

theorem exec_commandFetch {s : State} (hrun : s.islandsRun = true) (q : Nat) :
    exec (.commandFetch q) s = .next (s.fetch q) :=
  congrArg Host.Outcome.next (State.onDie_of_islandsRun hrun _)

/-- Settles O14: each command is the equation of its case, a change of one queue; a completion record is a write of 16
bytes that the channel's write-combining buffer takes. -/
theorem hearthQueues : Obligations.HearthQueues := by
  unfold Obligations.HearthQueues
  refine ⟨fun s q v hphase hheld => ⟨fun hen hstop htail hcons => ?taken, fun hen hstop hroom hover => ?stops,
      fun hoff => ?refused⟩,
    fun s q v w base cbase hphase hheld hw =>
      ⟨fun hlo hhi hcore htarget hdev hb hcb hin hcin => ?enables, fun hpend hcmds => ?starts, ?disables⟩,
    fun s q b c hrun hen hstop hleft hcap hread hc hhead hgrove hbound hop hdev => ?fetched,
    fun s t q i st result a ch b c hcmd ht ha halign hloc hch hknown hbad hwcb hadders hprot => ?completed⟩
  case taken =>
    exact ⟨_, (exec_queueDoorbell hphase hheld q v).trans (congrArg _ (State.doorbell_taken hen hstop htail hcons)),
      State.queue_modQueue_same .., fun _ => State.queue_modQueue_other s _, s.modQueue_frame q _⟩
  case stops =>
    exact ⟨_, _, (exec_queueDoorbell hphase hheld q v).trans (congrArg _ (State.doorbell_stops hen hstop hover)),
      (State.queue_congr (State.record_hrt ..) q).trans (State.queue_modQueue_same ..),
      State.lastRecord_record _ _ _ _ _ _ _ rfl hroom, rfl, rfl, rfl, State.record_mem ..⟩
  case refused =>
    exact ⟨_, (exec_queueDoorbell hphase hheld q v).trans (congrArg _ (State.doorbell_refused hoff)),
      State.regAccess_hrt .., State.regAccess_mem ..⟩
  case enables =>
    subst hb hcb
    have hvalid := State.queueEnable_valid hlo hhi hcore htarget hdev hin hcin
    subst hw
    exact ⟨_, (exec_queueEnable hphase hheld q v).trans (congrArg _ hvalid), State.queue_modQueue_same ..,
      State.getReg_softWrite_same .., rfl⟩
  case starts =>
    exact ⟨_, (exec_queueEnableTakeEffect hphase hheld q).trans (congrArg _ (State.enableTakesEffect_idle hpend hcmds)),
      State.queue_modQueue_same .., fun _ => State.queue_modQueue_other s _, s.modQueue_frame q _⟩
  case disables =>
    exact ⟨_, exec_queueDisable hphase hheld q v, State.queue_modQueue_same .., State.getReg_softWrite_same .., rfl⟩
  case fetched =>
    have hadm : s.Admits q c := ⟨by rw [hc]; exact hhead, hgrove, hbound, hop, hdev⟩
    exact ⟨_, (exec_commandFetch hrun q).trans (congrArg _ (State.fetch_admitted hen hstop hleft hcap hread hc hadm)),
      State.queue_modQueue_same .., fun _ => State.queue_modQueue_other s _, s.modQueue_frame q _⟩
  case completed =>
    have hlen := length_completionBytes q (s.queue q).completed (s.qsize q) c.tag st.number result
    obtain ⟨p, e, hwrite, hwritten⟩ := State.writeLocal_buffered
      (bs := completionBytes q (s.queue q).completed (s.qsize q) c.tag st.number result) hloc hch (by omega)
      (by omega) (by omega) hbad hwcb hadders hprot
    have hcomplete := State.complete_eq (st := st) (result := result) hcmd (congrArg Prod.fst (ha ▸ hwrite)) rfl
    have hhrt : t.hrt = ((s.buffered ch p e).modQueue q (Queue.completing · (s.queue q).completed i)).hrt := by
      rw [ht, hcomplete, State.interruptIf_hrt]
    have hpeek : ∀ o n, t.peek o n = (s.buffered ch p e).peek o n := fun o n => by
      rw [ht, hcomplete, State.peek_interruptIf, State.peek_modQueue]
    refine ⟨?_, ?_, fun j hj => ?_, ?_, fun o ho => ?_, ?_, ?_, ?_⟩
    · rw [State.cmd, State.queue_congr hhrt]
      exact State.cmd_completing ..
    · rw [State.queue_congr hhrt, State.queue_modQueue_same]
      rfl
    · rw [State.queue_congr hhrt, State.queue_modQueue_other _ _ hj]
      rfl
    · rw [hpeek]
      exact State.peek_written hloc hch halign hlen (s.locate_buffered ch p e) hwritten
    · rw [hpeek]
      exact State.peek_unwritten hloc hch halign hlen (s.locate_buffered ch p e) hwritten ho
    · rw [ht, hcomplete, State.interruptIf_regs]
      rfl
    · rw [ht, hcomplete, State.interruptIf_sch]
      rfl
    · rw [ht, hcomplete, State.irqs_interruptIf]
      rfl

end Sys2Proof.Machine
end

section
/-! PROOFS. The front-end's sessions (R117 to R122): connections, records, the idle timeout. -/
namespace Sys2Proof.Machine

/-! ## Entries of tables, and folds that do nothing -/

/-- An entry that `p` does not name, set where `p` named none, leaves the entries that `p` names. -/
theorem filter_tset {α : Type} (t : Tbl α) (p : α → Bool) {k : Nat} {v : α} (hnew : p v = false)
    (hold : ∀ w, tget t k = some w → p w = false) :
    ((tset t k v).filter fun x => p x.2) = t.filter fun x => p x.2 := by
  induction t with
  | nil => simp [tset, hnew]
  | cons x t ih =>
    obtain ⟨i, w⟩ := x
    unfold tset
    split
    · simp [hnew]
    · split
      next hki =>
        have hw : p w = false := hold w (if_pos hki.symm)
        simp [hnew, hw]
      next hki =>
        have htail := ih fun u hu => hold u ((if_neg (Ne.symm hki)).trans hu)
        simp only [List.filter_cons, htail]

theorem State.each_of_fixed {α : Type} {s : State} {l : List α} {f : State → α → State} (h : ∀ x ∈ l, f s x = s) :
    s.each l f = s := by
  unfold State.each
  induction l with
  | nil => rfl
  | cons x l ih =>
    rw [List.foldl_cons, h x (List.mem_cons_self ..)]
    exact ih fun y hy => h y (List.mem_cons_of_mem x hy)

/-! ## The hearth die's attachment alone -/

theorem State.frontEnd_of {s : State} (hphase : s.sup.phase ≠ .ash) (hheld : s.sup.recovery ≠ .resetHeld)
    (hup : s.hrt.ethUp.any id = true) (f : State → State) : s.frontEnd f = f s :=
  (State.awake_of hphase hheld _).trans (if_pos hup)

/-- Where the islands run, the device is not in the ash state and RESET_N does not hold it. -/
theorem State.awake_of_islandsRun {s : State} (h : s.islandsRun = true) :
    s.sup.phase ≠ .ash ∧ s.sup.recovery ≠ .resetHeld := by
  simp only [State.islandsRun, Bool.and_eq_true, bne_iff_ne] at h
  exact ⟨h.1.1.1, h.2⟩

/-- A change of the hearth die's attachment alone. -/
structure HrtOnly (s t : State) : Prop where
  rest : { t with hrt := s.hrt } = s

theorem HrtOnly.modHrt (s : State) (f : HearthState → HearthState) : HrtOnly s (s.modHrt f) := ⟨rfl⟩

section
variable {s t : State} (h : HrtOnly s t)
include h

theorem HrtOnly.outbox : t.outbox = s.outbox := (congrArg State.outbox h.rest :)
theorem HrtOnly.mem : t.mem = s.mem := (congrArg State.mem h.rest :)
theorem HrtOnly.regs : t.regs = s.regs := (congrArg State.regs h.rest :)

end

theorem HrtOnly.trans {s t u : State} (h : HrtOnly s t) (k : HrtOnly t u) : HrtOnly s u :=
  ⟨(congrArg (fun v : State => { v with hrt := s.hrt }) k.rest).trans h.rest⟩

/-! ## Connections (R117, R118) -/

section
variable {s : State} (operator : Bool) (cert : Nat)

/-- The state in which a new session is open. -/
def State.sessionOpened (s : State) (operator : Bool) (cert : Nat) : State :=
  s.modHrt fun h => { h with
    nextSession := s.hrt.nextSession + 1
    sessions := tset h.sessions s.hrt.nextSession ⟨operator, cert, none, s.aonUs⟩ }

theorem State.tlsConnect_opens (hroom : s.hrt.sessions.length < 256) :
    s.tlsConnect operator cert = (s.sessionOpened operator cert).emit (.sessionOpen s.hrt.nextSession) :=
  if_neg (Nat.not_le.mpr hroom)

theorem State.tlsConnect_full (hfull : 256 ≤ s.hrt.sessions.length) : s.tlsConnect operator cert = s.emit .tcpReset :=
  if_pos hfull

end

/-! ## Records of an open session (R119 to R121) -/

/-- The state in which a session was heard from. -/
def State.heard (s : State) (id : Nat) (x : Session) : State :=
  s.modHrt fun h => { h with sessions := tmod h.sessions id x fun y => { y with lastAt := s.aonUs } }

theorem State.tlsMessage_open {s : State} {id : Nat} {x : Session} (hx : tget s.hrt.sessions id = some x) (m : TlsMsg) :
    s.tlsMessage id m = ((s.heard id x).sessionAct id x m).1.emit (.tlsAnswer id ((s.heard id x).sessionAct id x m).2) := by
  rw [State.tlsMessage, hx]
  rfl

/-- A record changes the hearth die's attachment alone. -/
theorem State.sessionAct_hrtOnly (s : State) (id : Nat) (x : Session) (m : TlsMsg) :
    HrtOnly s (s.sessionAct id x m).1 := by
  cases m with
  | keepalive => exact ⟨rfl⟩
  | attach g | assign g c | weight g w =>
    simp only [State.sessionAct]
    split <;> exact ⟨rfl⟩
  | openQp q | registerRegion rkey va length r w =>
    simp only [State.sessionAct]
    split
    · split <;> exact ⟨rfl⟩
    · exact ⟨rfl⟩

section
variable {s : State} {id g : Nat} {x : Session}

/-- The sessions attached to a grove, counted. -/
def State.attachedTo (s : State) (g : Nat) : Nat := (s.hrt.sessions.filter fun y => y.2.grove == some g).length

/-- An ATTACH is accepted of a tenant's session that is attached to no grove, to a grove assigned to it with fewer than
16 sessions. -/
def State.mayAttach (s : State) (x : Session) (g : Nat) : Bool :=
  !x.operator && x.grove.isNone && decide (g < 16) && tget s.hrt.assigned g == some x.certificate &&
    decide (s.attachedTo g < 16)

theorem State.sessionAct_attach :
    s.sessionAct id x (.attach g) =
      if s.mayAttach x g then
        (s.modHrt fun h => { h with sessions := tmod h.sessions id x fun y => { y with grove := some g } }, true)
      else (s, false) := rfl

theorem State.sessionAct_attach_snd : (s.sessionAct id x (.attach g)).2 = s.mayAttach x g := by
  rw [State.sessionAct_attach]
  cases s.mayAttach x g <;> rfl

/-- An accepted ATTACH attaches its session. -/
theorem State.session_attached (h : (s.sessionAct id x (.attach g)).2 = true) :
    ∃ y, tget (s.sessionAct id x (.attach g)).1.hrt.sessions id = some y ∧ y.grove = some g := by
  rw [State.sessionAct_attach_snd] at h
  rw [State.sessionAct_attach, if_pos h]
  exact ⟨_, tget_tset_same .., rfl⟩

/-- Hearing from a session that is attached to no grove leaves the sessions attached to one. -/
theorem State.attachedTo_heard (hx : tget s.hrt.sessions id = some x) (hnone : x.grove = none) :
    (s.heard id x).attachedTo g = s.attachedTo g := by
  have hold : tgetD s.hrt.sessions id x = x := by rw [tgetD, hx]; rfl
  refine congrArg List.length (filter_tset s.hrt.sessions (fun y => y.grove == some g) ?_ fun w hw => ?_)
  · rw [hold]
    simp [hnone]
  · obtain rfl := Option.some.inj (hx.symm.trans hw)
    simp [hnone]

theorem State.mayAttach_heard (hx : tget s.hrt.sessions id = some x) (hop : x.operator = false) (hnone : x.grove = none)
    (hg : g < 16) (hassigned : tget s.hrt.assigned g = some x.certificate) (hroom : s.attachedTo g < 16) :
    (s.heard id x).mayAttach x g = true := by
  have hassigned' : tget (s.heard id x).hrt.assigned g = some x.certificate := hassigned
  simp [State.mayAttach, hop, hnone, hg, hassigned', State.attachedTo_heard hx hnone, hroom]

theorem State.mayAttach_refused (h : x.operator = true ∨ x.grove ≠ none) : s.mayAttach x g = false := by
  obtain h | h := h
  · simp [State.mayAttach, h]
  · simp [State.mayAttach, Option.isNone_iff_eq_none, h]

end

/-! ## Queue pairs in error, and the end of a session (R115, R120) -/

/-- The queue pairs that an error strikes. -/
def State.struckQps (s : State) (p : Nat → Qp → Bool) : List Nat :=
  (s.hrt.qps.filter fun q => !q.2.error && p q.1 q.2).map (·.1)

/-- The queue pairs after an error has struck. -/
def State.qpsAfter (s : State) (p : Nat → Qp → Bool) : Tbl Qp :=
  tmap s.hrt.qps fun i q => if (s.struckQps p).contains i then { q with error := true } else q

/-- With no firing and no read of the Kiln, only the queue pairs change. -/
theorem State.qpErrors_idle {s : State} (hfirings : s.kln.firings = []) (hreads : s.kln.reads = [])
    (p : Nat → Qp → Bool) : s.qpErrors p = s.modHrt fun h => { h with qps := s.qpsAfter p } := by
  have hnone : ∀ g, s.firing g = none := fun g => by
    rw [State.firing, hfirings]
    rfl
  unfold State.qpErrors
  extract_lets hit marked failed lost
  have hfailed : failed = marked := State.each_of_fixed fun g _ => by
    rw [show marked.firing g = none from hnone g]
  have hlost : lost = [] := by
    show failed.kln.reads.filter _ = []
    rw [hfailed, show marked.kln.reads = [] from hreads]
    rfl
  rw [hlost, hfailed]
  rfl

/-- Every queue pair that an error strikes is in error. -/
theorem State.error_of_struck {s : State} {p : Nat → Qp → Bool} {x : Nat × Qp} (hx : x ∈ s.qpsAfter p) :
    ∃ q, (x.1, q) ∈ s.hrt.qps ∧ x.2.session = q.session ∧ x.2.grove = q.grove ∧ (p x.1 q = true → x.2.error = true) := by
  obtain ⟨⟨i, q⟩, hq, rfl⟩ := List.mem_map.mp hx
  refine ⟨q, hq, ?_, ?_, fun hp => ?_⟩
  · dsimp only
    split <;> rfl
  · dsimp only
    split <;> rfl
  · dsimp only
    split
    · rfl
    next hmiss =>
      by_contra herr
      have hfree : q.error = false := Bool.eq_false_iff.mpr herr
      refine hmiss (List.contains_iff_mem.mpr (List.mem_map.mpr ⟨(i, q), List.mem_filter.mpr ⟨hq, ?_⟩, rfl⟩))
      simp [hfree, show p i q = true from hp]

/-- The state in which a session is gone, with its queue pairs in error and its regions deregistered. -/
def State.sessionGone (s : State) (id : Nat) : State :=
  s.modHrt fun h => { h with
    qps := s.qpsAfter fun _ q => q.session == id
    sessions := terase h.sessions id
    regions := h.regions.filter fun r => r.2.session != id }

theorem State.closeSession_idle {s : State} {id : Nat} {x : Session} (hx : tget s.hrt.sessions id = some x)
    (hfirings : s.kln.firings = []) (hreads : s.kln.reads = []) :
    s.closeSession id = (s.sessionGone id).emit (.sessionClose id) := by
  rw [State.closeSession, hx]
  dsimp only
  rw [State.qpErrors_idle hfirings hreads]
  rfl

end Sys2Proof.Machine
end

section
/-! PROOFS. RDMA requests and what the G2's own queue pairs receive (R113 to R115, R573; O15). -/
namespace Sys2Proof.Machine

/-! ## Requests (R114, R115) -/

section
variable {s : State} {qp : Nat} {r : RdmaReq} {p : Qp} (hp : tget s.hrt.qps qp = some p) (herr : p.error = false)
include hp herr

theorem State.rdmaRequest_send (hop : r.op = .send) :
    s.rdmaRequest qp r = (s.emit (.rdmaSend qp r.data none)).emit (.rdmaAnswer qp 0) := by
  simp [State.rdmaRequest, hp, herr, hop]

theorem State.rdmaRequest_atomic (hop : r.op = .atomic) : s.rdmaRequest qp r = s.emit (.rdmaAnswer qp 2) := by
  simp [State.rdmaRequest, hp, herr, hop]

theorem State.rdmaRequest_read {s1 : State} {b : List Byte} (hop : r.op = .read)
    (hadm : s.regionAdmits p r false = true) (hread : s.readVa p.grove r.va r.length = (s1, .ok, b)) :
    s.rdmaRequest qp r = s1.emit (.rdmaData qp 0 b) := by
  simp [State.rdmaRequest, hp, herr, hop, hadm, hread]

theorem State.rdmaRequest_write {s1 : State} (hop : r.op = .write) (hadm : s.regionAdmits p r true = true)
    (hlen : r.data.length = r.length) (hwrite : s.writeVa p.grove r.va r.data = (s1, .ok)) :
    s.rdmaRequest qp r = (s1.freshPages p.grove).emit (.rdmaAnswer qp 0) := by
  simp [State.rdmaRequest, State.rdmaWriteIn, hp, herr, hop, hadm, hlen, hwrite]

/-- A READ or WRITE that its region does not allow is refused. -/
theorem State.rdmaRequest_refused (hop : r.op = .read ∨ r.op = .write)
    (hadm : s.regionAdmits p r (r.op == .write) = false) : s.rdmaRequest qp r = s.rdmaRefuse qp := by
  obtain h | h := hop
  · have hread : s.regionAdmits p r false = false := by rwa [h] at hadm
    simp [State.rdmaRequest, hp, herr, h, hread]
  · have hwrite : s.regionAdmits p r true = false := by rwa [h] at hadm
    simp [State.rdmaRequest, State.rdmaWriteIn, hp, herr, h, hwrite]

end

theorem mem_of_tget {α : Type} {t : Tbl α} {k : Nat} {v : α} (h : tget t k = some v) : (k, v) ∈ t := by
  induction t with
  | nil => cases h
  | cons x t ih =>
    obtain ⟨i, w⟩ := x
    unfold tget at h
    split at h
    next hi =>
      obtain rfl := Option.some.inj h
      exact hi ▸ List.mem_cons_self ..
    next => exact List.mem_cons_of_mem _ (ih h)

/-- A refused request's queue pair is in error. -/
theorem State.rdmaRefuse_idle {s : State} (hfirings : s.kln.firings = []) (hreads : s.kln.reads = []) (qp : Nat) :
    s.rdmaRefuse qp = (s.modHrt fun h => { h with qps := s.qpsAfter fun i _ => i == qp }).emit (.rdmaAnswer qp 1) := by
  rw [State.rdmaRefuse, State.qpErrors_idle hfirings hreads]

theorem State.error_of_named {s : State} {qp : Nat} {x : Qp} (h : tget (s.qpsAfter fun i _ => i == qp) qp = some x) :
    x.error = true := by
  obtain ⟨q, -, -, -, herr⟩ := State.error_of_struck (mem_of_tget h)
  exact herr (beq_self_eq_true qp)

/-! ## Answers on the G2's own queue pairs (R114, R573) -/

section
variable {s : State} {qp tag : Nat}

theorem State.rdmaResponse_cnp {x : Qp} (hx : tget s.hrt.qps qp = some x) :
    s.rdmaResponse qp .cnp = s.modHrt fun h => { h with qps := tset s.hrt.qps qp { x with cnps := x.cnps + 1 } } := by
  simp only [State.rdmaResponse, State.modHrt, hx]

theorem State.rdmaResponse_data (b : List Byte) (h : tget s.kln.reads tag = none) :
    s.rdmaResponse qp (.readData tag b) = s := by
  simp [State.rdmaResponse, State.slotData, h]

theorem State.rdmaResponse_ack (h : s.kln.firings = []) : s.rdmaResponse qp (.ack tag) = s := by
  have hnone : ∀ g, s.firing g = none := fun g => by
    rw [State.firing, h]
    rfl
  unfold State.rdmaResponse
  extract_lets mine
  have hmine : mine tag = none := List.find?_eq_none.mpr fun g _ => by simp [hnone]
  simp only [hmine]

/-- A firing whose storage destination is out of service. -/
def Firing.storageLost (f : Firing) : Firing := { f with storage := { f.storage with live := false, tag := none } }

/-- A firing with the pages read for drain that a destination in service still wants. -/
def Firing.trimmed (f : Firing) : Firing := { f with snaps := f.snaps.filter fun p => !f.drained p.1 }

section
variable {g : Nat} {f : Firing}

/-- The storage destination of a capturing firing fails; a live buddy goes on. -/
theorem State.kilnFail_storage (hf : s.firing g = some f) (hlive : f.storage.live = true) (hbuddy : f.buddy.live = true)
    (hst : f.st = .capture) :
    s.kilnFail g true = (s.klnRecord 0x06 g f.slot 2 f.step).putFiring g f.storageLost.trimmed := by
  have hfail : s.kilnFail g true =
      ((s.klnRecord 0x06 g f.slot 2 f.step).putFiring g f.storageLost.trimmed).firingMoves g := by
    simp [State.kilnFail, hf, Firing.dest, Firing.setDest, hlive, hst, Firing.storageLost, Firing.trimmed]
  have hbuddy' : f.storageLost.trimmed.buddy.live = true := hbuddy
  have hst' : f.storageLost.trimmed.st = .capture := hst
  rw [hfail, State.firingMoves, State.firing_putFiring_same]
  simp [hbuddy', hst']

/-- The only firing is found by its storage destination's queue pair and tag. -/
theorem State.rdmaResponse_nak (hfirings : s.kln.firings = [(g, f)]) (hg : g < 16) (hqp : f.plan.qp = qp)
    (htag : f.storage.tag = some tag) : s.rdmaResponse qp (.nak tag) = s.kilnFail g true := by
  have hsome : s.firing g = some f := by
    rw [State.firing, hfirings]
    exact if_pos rfl
  have hnone : ∀ j, j < g → s.firing j = none := fun j hj => by
    rw [State.firing, hfirings]
    exact if_neg (Nat.ne_of_gt hj)
  have hfind : ((List.range 16).find? fun g => match s.firing g with
      | some f => f.plan.qp == qp && f.storage.tag == some tag
      | none => false) = some g :=
    List.find?_range_eq_some.mpr ⟨by simp [hsome, hqp, htag], List.mem_range.mpr hg, fun j hj => by simp [hnone j hj]⟩
  unfold State.rdmaResponse
  extract_lets mine
  have hmine : mine tag = some g := hfind
  simp only [hmine]

theorem State.lastRecord_klnRecord_grove (code slot dest item : Nat) (hroom : s.logRoom = true) :
    ∃ r : LogRec, (s.klnRecord code g slot dest item).lastRecord = some r ∧ r.src = .kln ∧ r.sev = .contained ∧
      r.code = code ∧ r.grove = some g :=
  ⟨_, State.lastRecord_record _ _ _ _ _ _ _ rfl ((State.logRoom_putReg _ (by decide) (by decide)).trans hroom), rfl, rfl,
    rfl, rfl⟩

end

/-- An answer that leaves nothing waiting has no further effect. -/
theorem exec_rdmaResponseReceive (hrun : s.islandsRun = true) (hup : s.hrt.ethUp.any id = true) {resp : RdmaResp}
    (hidle : s.waits = ([], [])) (h : (s.rdmaResponse qp resp).waits = s.waits) :
    exec (.rdmaResponseReceive qp resp) s = .next (s.rdmaResponse qp resp) := by
  obtain ⟨hphase, hheld⟩ := State.awake_of_islandsRun hrun
  have hfront := State.frontEnd_of hphase hheld hup fun s => s.rdmaResponse qp resp
  have hevent := State.kilnEvent_of_waits (k := fun s => s.frontEnd fun s => s.rdmaResponse qp resp) hrun hidle
    (hfront ▸ h)
  exact congrArg Host.Outcome.next (hevent.trans hfront)

end

theorem exec_rdmaRequest {s : State} (hrun : s.islandsRun = true) (hup : s.hrt.ethUp.any id = true) (qp : Nat)
    (r : RdmaReq) : exec (.rdmaRequest qp r) s = .next (s.rdmaRequest qp r) := by
  obtain ⟨hphase, hheld⟩ := State.awake_of_islandsRun hrun
  exact congrArg Host.Outcome.next ((State.onDie_of_islandsRun hrun _).trans (State.frontEnd_of hphase hheld hup _))

section
variable {s : State} (hphase : s.sup.phase ≠ .ash) (hheld : s.sup.recovery ≠ .resetHeld)
include hphase hheld

theorem exec_tlsConnect (hup : s.hrt.ethUp.any id = true) (operator : Bool) (cert : Nat) :
    exec (.tlsConnect operator cert) s = .next (s.tlsConnect operator cert) :=
  congrArg Host.Outcome.next (State.frontEnd_of hphase hheld hup _)

theorem exec_tlsSessionMessage (hup : s.hrt.ethUp.any id = true) (i : Nat) (m : TlsMsg) :
    exec (.tlsSessionMessage i m) s = .next (s.tlsMessage i m) :=
  congrArg Host.Outcome.next (State.frontEnd_of hphase hheld hup _)

theorem exec_sessionIdleTimeout (i : Nat) : exec (.sessionIdleTimeout i) s = .next (s.closeSession i) :=
  congrArg Host.Outcome.next (State.awake_of hphase hheld _)

theorem exec_ethLinkTrainingDone (port : Nat) :
    exec (.ethLinkTrainingDone port) s = .next (s.modHrt fun h => { h with ethUp := h.ethUp.set port true }) :=
  congrArg Host.Outcome.next (State.awake_of hphase hheld _)

end

/-- Settles O15: each event is the equation of its case; a record of a session and an error of a queue pair change the
hearth die's attachment alone. -/
theorem frontEnd : Obligations.FrontEnd := by
  unfold Obligations.FrontEnd
  refine ⟨fun s operator cert id m x hphase hheld hup =>
      ⟨fun hroom => ?opens, fun hfull => ?full, fun hx => ?answered, fun hx hfirings hreads => ?times⟩,
    fun s port hphase hheld => ⟨_, exec_ethLinkTrainingDone hphase hheld port, rfl, rfl, rfl, rfl⟩,
    fun s qp r p hrun hup hfirings hreads hp herr =>
      ⟨fun hop => ?send, fun hop => ?atomic, fun s1 b hop hadm hread => ?read, fun s1 hop hadm hlen hwrite => ?write,
        fun hop hadm => ?refused⟩,
    fun s qp tag g x f b hrun hup hwaits hopens =>
      ⟨fun hx => ?cnp, fun hnone => ?ack, fun hnone => ?data,
        fun hfirings hg hqp htag hlive hbuddy hst hroom => ?nak⟩⟩
  case opens =>
    exact ⟨_, (exec_tlsConnect hphase hheld hup ..).trans (congrArg _ (State.tlsConnect_opens operator cert hroom)),
      tget_tset_same .., rfl, rfl, rfl⟩
  case full =>
    exact ⟨_, (exec_tlsConnect hphase hheld hup ..).trans (congrArg _ (State.tlsConnect_full operator cert hfull)), rfl, rfl⟩
  case answered =>
    have hact := (HrtOnly.modHrt s _).trans ((s.heard id x).sessionAct_hrtOnly id x m)
    refine ⟨_, _, (exec_tlsSessionMessage hphase hheld hup id m).trans (congrArg _ (State.tlsMessage_open hx m)),
      congrArg (· ++ _) hact.outbox, ?_, ?_, ?_, ?_, hact.mem, hact.regs⟩
    · rintro rfl
      rfl
    · rintro g rfl hok
      exact State.session_attached hok
    · rintro g rfl hop hnone hg hassigned hroom
      exact State.sessionAct_attach_snd.trans (State.mayAttach_heard hx hop hnone hg hassigned hroom)
    · rintro g rfl hbad
      exact State.sessionAct_attach_snd.trans (State.mayAttach_refused hbad)
  case times =>
    refine ⟨_, (exec_sessionIdleTimeout hphase hheld id).trans (congrArg _ (State.closeSession_idle hx hfirings hreads)),
      tget_terase_same .., fun r hr => ?_, fun y hy hid => ?_, rfl, rfl⟩
    · exact bne_iff_ne.mp (List.mem_filter.mp hr).2
    · obtain ⟨q, -, hsession, -, herr⟩ := State.error_of_struck hy
      exact herr (beq_iff_eq.mpr (hsession.symm.trans hid))
  case send =>
    exact ⟨_, (exec_rdmaRequest hrun hup qp r).trans (congrArg _ (State.rdmaRequest_send hp herr hop)),
      List.append_assoc .., rfl⟩
  case atomic =>
    exact ⟨_, (exec_rdmaRequest hrun hup qp r).trans (congrArg _ (State.rdmaRequest_atomic hp herr hop)), rfl, rfl⟩
  case read =>
    exact ⟨_, (exec_rdmaRequest hrun hup qp r).trans (congrArg _ (State.rdmaRequest_read hp herr hop hadm hread)), rfl⟩
  case write =>
    exact ⟨_, (exec_rdmaRequest hrun hup qp r).trans (congrArg _ (State.rdmaRequest_write hp herr hop hadm hlen hwrite)),
      rfl, rfl⟩
  case refused =>
    have hrefused := (State.rdmaRequest_refused hp herr hop hadm).trans (State.rdmaRefuse_idle hfirings hreads qp)
    exact ⟨_, (exec_rdmaRequest hrun hup qp r).trans (congrArg _ hrefused), rfl, rfl, fun x => State.error_of_named⟩
  case cnp =>
    have hcnp := State.rdmaResponse_cnp hx
    exact ⟨_, (exec_rdmaResponseReceive hrun hup (State.waits_of_none hwaits hopens) (by rw [hcnp]; rfl)).trans
      (congrArg _ hcnp), tget_tset_same .., fun _ => tget_tset_other _ _, rfl⟩
  case ack =>
    have hack := State.rdmaResponse_ack (qp := qp) (tag := tag) hnone
    exact (exec_rdmaResponseReceive hrun hup (State.waits_of_none hwaits hopens) (by rw [hack])).trans (congrArg _ hack)
  case data =>
    have hdata := State.rdmaResponse_data (qp := qp) b hnone
    exact (exec_rdmaResponseReceive hrun hup (State.waits_of_none hwaits hopens) (by rw [hdata])).trans (congrArg _ hdata)
  case nak =>
    have hf : s.firing g = some f := by
      rw [State.firing, hfirings]
      exact if_pos rfl
    have hnak := (State.rdmaResponse_nak hfirings hg hqp htag).trans (State.kilnFail_storage hf hlive hbuddy hst)
    obtain ⟨r, hlast, hrec⟩ := State.lastRecord_klnRecord_grove (g := g) 0x06 f.slot 2 f.step hroom
    obtain ⟨hsrc, hsev, hcode, hgrove⟩ := hrec
    refine ⟨_, r, (exec_rdmaResponseReceive hrun hup (State.waits_of_none hwaits hopens) ?_).trans (congrArg _ hnak),
      State.firing_putFiring_same .., (State.lastRecord_putFiring ..).trans hlast, hsrc, hsev, hcode, hgrove,
      (State.putFiring_mem ..).trans (State.klnRecord_mem ..)⟩
    rw [hnak, State.putFiring_waits, State.waits_congr (State.klnRecord_kilnSide ..)]

end Sys2Proof.Machine
end

section
/-! PROOFS. What records, messages, and writes leave of a device that is being reset: its phase and recovery, the clocks,
GLB_RECOVER, the bindings, the memory requests that wait, and whether a queue is configured. -/
namespace Sys2Proof.Machine

/-- What the operations of a reset leave as it is. -/
def State.restSide (s : State) :
    (Phase × Recovery) × ClockState × Word × Tbl Grove × List HeldMem × Bool :=
  ((s.sup.phase, s.sup.recovery), s.clk, s.getReg .GLB_RECOVER [], s.grv.groves, s.mem.held, s.hrt.queues.isEmpty)

/-- The registers of the window up to GLB_RECOVER. -/
def Reg.global (r : Reg) : Prop := r = .GLB_IDENT ∨ r = .GLB_DEVNUM ∨ r = .GLB_STATUS ∨ r = .GLB_RECOVER

theorem recover_lt_regAddr {r : Reg} (ix : List Nat) (h : ¬r.global) : regAddr .GLB_RECOVER [] < regAddr r ix := by
  have hbase : 0x18 < (regDesc r).base := by
    revert h
    unfold Reg.global
    cases r <;> decide
  exact Nat.lt_of_lt_of_le hbase (Nat.le_add_right _ _)

theorem State.restSide_each {α : Type} {f : State → α → State} (h : ∀ b x, (f b x).restSide = b.restSide) (s : State)
    (l : List α) : (s.each l f).restSide = s.restSide := by
  unfold State.each
  induction l generalizing s with
  | nil => rfl
  | cons x l ih => exact (ih _).trans (h s x)

theorem State.restSide_foldl {α β : Type} {f : State × β → α → State × β}
    (h : ∀ q x, (f q x).1.restSide = q.1.restSide) (q : State × β) (l : List α) :
    (l.foldl f q).1.restSide = q.1.restSide := by
  induction l generalizing q with
  | nil => rfl
  | cons x l ih => exact (ih _).trans (h q x)

section
variable (s : State)

/-! ## Registers, interrupts and the watch -/

@[simp] theorem State.restSide_putReg {r : Reg} (ix : List Nat) (v : Word) (h : ¬r.global) :
    (s.putReg r ix v).restSide = s.restSide := by
  have hne : regAddr .GLB_RECOVER [] ≠ regAddr r ix := Nat.ne_of_lt (recover_lt_regAddr ix h)
  simp [State.restSide, State.getReg_putReg_other _ _ hne]

@[simp] theorem State.restSide_putFld {r : Reg} (ix : List Nat) (lo w x : Nat) (h : ¬r.global) :
    (s.putFld r ix lo w x).restSide = s.restSide := s.restSide_putReg ix _ h

@[simp] theorem State.restSide_resetReg {r : Reg} (ix : List Nat) (h : ¬r.global) :
    (s.resetReg r ix).restSide = s.restSide := by
  have hne : regAddr .GLB_RECOVER [] ≠ regAddr r ix := Nat.ne_of_lt (recover_lt_regAddr ix h)
  simp only [State.restSide, State.getReg, State.resetReg, tgetD, tget_terase_other _ hne]

theorem State.restSide_setWch (w : WatchState) : { s with wch := w }.restSide = s.restSide := (rfl)

@[simp] theorem State.restSide_notify (sev : Sev) : (s.notify sev).restSide = s.restSide := by
  unfold State.notify
  split <;> rfl

@[simp] theorem State.restSide_alerted (sev : Sev) : (s.alerted sev).restSide = s.restSide := by
  unfold State.alerted
  split <;> rfl

@[simp] theorem State.restSide_keepFatal (r : LogRec) : (s.keepFatal r).restSide = s.restSide := by
  unfold State.keepFatal
  split <;> rfl

@[simp] theorem State.restSide_logged (r : LogRec) : (s.logged r).restSide = s.restSide :=
  State.restSide_putFld _ _ _ _ _ (by unfold Reg.global; decide)

@[simp] theorem State.restSide_logRec (r : LogRec) : (s.logRec r).restSide = s.restSide := by
  cases hroom : s.logRoom
  · have hfull := of_decide_eq_false hroom
    unfold State.logRec
    rw [if_pos (Nat.not_lt.mp hfull), State.restSide_keepFatal, State.restSide_setWch]
    simp [Reg.global]
  · rw [State.logRec_room s r hroom]
    simp

@[simp] theorem State.restSide_addHeat (w g : Nat) : (s.addHeat w g).restSide = s.restSide := by
  unfold State.addHeat
  extract_lets
  split
  · rw [State.restSide_logRec, State.restSide_putFld _ _ _ _ _ (by unfold Reg.global; decide)]
    rfl
  · rfl

@[simp] theorem State.restSide_heatOn (w : Nat) (gs : List Nat) : (s.heatOn w gs).restSide = s.restSide :=
  State.restSide_each (fun b g => b.restSide_addHeat w g) s gs

@[simp] theorem State.restSide_record (src : Src) (sev : Sev) (die code : Nat) (grove : Option Nat) (detail : Nat) :
    (s.record src sev die code grove detail).restSide = s.restSide := by
  unfold State.record
  dsimp only
  split <;> simp

@[simp] theorem State.restSide_bump {r : Reg} (ix : List Nat) (n : Nat) (h : ¬r.global) :
    (s.bump r ix n).restSide = s.restSide := by
  unfold State.bump
  dsimp only
  split <;> simp [h]

/-! ## Ports and messages -/

@[simp] theorem State.restSide_emit (m : Msg) : (s.emit m).restSide = s.restSide := (rfl)

@[simp] theorem State.restSide_modPort (p : Nat) (f : Port → Port) : (s.modPort p f).restSide = s.restSide := (rfl)

@[simp] theorem State.restSide_bumpPort (p : Nat) {t b : Reg} (n : Nat) (ht : ¬t.global) (hb : ¬b.global) :
    (s.bumpPort p t b n).restSide = s.restSide := by
  have hreg : ¬(portReg p t b).global := by
    unfold portReg
    split <;> assumption
  unfold State.bumpPort
  split
  · rfl
  · exact s.restSide_bump _ n hreg

@[simp] theorem State.restSide_transmit (p : Nat) (f : LFlit) : (s.transmit p f).restSide = s.restSide := by
  unfold State.transmit
  dsimp only
  split <;> simp [Reg.global]

@[simp] theorem State.restSide_pump (p : Nat) : (s.pump p).restSide = s.restSide := by
  unfold State.pump
  split
  · rfl
  · refine (State.restSide_foldl (fun q f => ?_) _ _).trans (by simp)
    dsimp only
    split <;> simp

@[simp] theorem State.restSide_enqueue (p : Nat) (f : LFlit) : (s.enqueue p f).restSide = s.restSide := by
  simp [State.enqueue]

@[simp] theorem State.restSide_dropUnreachable (p dest : Nat) : (s.dropUnreachable p dest).restSide = s.restSide := by
  simp [State.dropUnreachable, State.lnkRecord, Reg.global]

@[simp] theorem State.restSide_sendDir (d : Nat) (f : LFlit) : (s.sendDir d f).restSide = s.restSide := by
  unfold State.sendDir
  dsimp only
  split
  · simp
  · split <;> simp

@[simp] theorem State.restSide_sendTrunk (f : LFlit) (arr at_ : Nat) : (s.sendTrunk f arr at_).restSide = s.restSide := by
  unfold State.sendTrunk
  split
  · rfl
  · simp
  · split <;> simp [Reg.global]

@[simp] theorem State.restSide_sendBranch (f : LFlit) : (s.sendBranch f).restSide = s.restSide := by
  unfold State.sendBranch
  dsimp only
  split
  · simp
  · split <;> simp

@[simp] theorem State.restSide_sendNow (m : HeldMsg) : (s.sendNow m).restSide = s.restSide := by
  unfold State.sendNow
  split
  · simp
  · refine State.restSide_each (fun b f => ?_) _ _
    split <;> simp

theorem State.restSide_dropStale (die : Nat) (o : Origin) (trunk : Bool) :
    (s.dropStale die o trunk).restSide = s.restSide := by
  unfold State.dropStale
  extract_lets counted last key due bound gr
  have hlast : last.restSide = s.restSide := by simp [last, counted, Reg.global]
  split
  · exact (State.restSide_sendNow ..).trans hlast
  · exact hlast

/-! ## Memory -/

@[simp] theorem State.restSide_modChannel (c : Nat) (f : Channel → Channel) : (s.modChannel c f).restSide = s.restSide :=
  (rfl)

@[simp] theorem State.restSide_putLine (c line : Nat) (bs : List Byte) : (s.putLine c line bs).restSide = s.restSide := (rfl)

@[simp] theorem State.restSide_unsaturate (p : Nat → Bool) : (s.unsaturate p).restSide = s.restSide := (rfl)

@[simp] theorem State.restSide_zeroChannel (c : Nat) : (s.zeroChannel c).restSide = s.restSide := (rfl)

@[simp] theorem State.restSide_noteUe (c line : Nat) : (s.noteUe c line).restSide = s.restSide := by
  simp [State.noteUe, Reg.global]

@[simp] theorem State.restSide_ueRecord (sev : Sev) (c line : Nat) : (s.ueRecord sev c line).restSide = s.restSide := by
  simp [State.ueRecord]

@[simp] theorem State.restSide_unmappedRecord (p : Party) (o : Nat) : (s.unmappedRecord p o).restSide = s.restSide := by
  simp [State.unmappedRecord]

@[simp] theorem State.restSide_evictWcb (c : Nat) (e : WcbEntry) : (s.evictWcb c e).restSide = s.restSide := by
  unfold State.evictWcb
  dsimp only
  repeat' split
  all_goals simp [Reg.global]

@[simp] theorem State.restSide_flushAdder (c : Nat) (a : Nat × List Byte) : (s.flushAdder c a).restSide = s.restSide := (rfl)

@[simp] theorem State.restSide_settleAdder (c line : Nat) : (s.settleAdder c line).restSide = s.restSide := by
  unfold State.settleAdder
  split <;> rfl

@[simp] theorem State.restSide_flushBuffers (p : Nat → Bool) : (s.flushBuffers p).restSide = s.restSide := by
  refine State.restSide_each (fun b c => ?_) s _
  split
  · exact (State.restSide_each (fun b a => b.restSide_flushAdder ..) _ _).trans
      (State.restSide_each (fun b e => b.restSide_evictWcb ..) _ _)
  · rfl

@[simp] theorem State.restSide_writeLine (c line pos : Nat) (bs : List Byte) (grove : Nat) :
    (s.writeLine c line pos bs grove).1.restSide = s.restSide := by
  unfold State.writeLine
  dsimp only
  repeat' split
  all_goals simp

@[simp] theorem State.restSide_putPage (g o : Nat) (bs : List Byte) : (s.putPage g o bs).restSide = s.restSide := by
  refine State.restSide_each (fun b i => ?_) s _
  split <;> simp

@[simp] theorem State.restSide_touchWait (g : Nat) : (s.touchWait g).restSide = s.restSide := by
  unfold State.touchWait
  split
  · split
    · rfl
    · rw [State.restSide_record, State.restSide_putReg _ _ _ (by unfold Reg.global; decide)]
      rfl
  · rfl

@[simp] theorem State.restSide_touchPage (page : Nat) : (s.touchPage page).restSide = s.restSide := by
  unfold State.touchPage
  split
  · rfl
  · split
    · rfl
    · extract_lets die bs free waited old noted kept kln copied touches
      have hwaited : waited.restSide = s.restSide := by
        unfold waited
        split
        · exact s.restSide_touchWait _
        · rfl
      have hbumped : touches.restSide = copied.restSide := by simp [touches, Reg.global]
      have htouches : touches.restSide = s.restSide := hbumped.trans hwaited
      split
      · exact (State.restSide_putPage ..).trans htouches
      · exact htouches

@[simp] theorem State.restSide_touch (o : Nat) : (s.touch o).restSide = s.restSide := by
  unfold State.touch
  split <;> simp

@[simp] theorem State.restSide_writeFails (p : Party) (o : Nat) (r : Acc × Nat × Nat) :
    (s.writeFails p o r).1.restSide = s.restSide := by
  unfold State.writeFails
  split <;> simp

@[simp] theorem State.restSide_writeLocal (p : Party) (o : Nat) (bs : List Byte) :
    (s.writeLocal p o bs).1.restSide = s.restSide := by
  unfold State.writeLocal
  split
  · refine State.restSide_foldl (fun q k => ?_) _ _
    split <;> simp
  · simp

@[simp] theorem State.restSide_writeVa (g va : Nat) (bs : List Byte) : (s.writeVa g va bs).1.restSide = s.restSide := by
  unfold State.writeVa
  split
  · rfl
  · refine State.restSide_foldl (fun q p => ?_) _ _
    split <;> simp

/-! ## Queues -/

@[simp] theorem State.restSide_interrupt (core : Nat) : (s.interrupt core).restSide = s.restSide := (rfl)

theorem isEmpty_tset {α : Type} (t : Tbl α) (k : Nat) (v : α) : (tset t k v).isEmpty = false := by
  cases t with
  | nil => rfl
  | cons x t =>
    unfold tset
    repeat' split
    all_goals rfl

/-- A change of a queue in a table that lists one. -/
theorem State.restSide_modQueue {s : State} (q : Nat) (f : Queue → Queue) (h : s.hrt.queues.isEmpty = false) :
    (s.modQueue q f).restSide = s.restSide := by
  have hset : (s.modQueue q f).hrt.queues.isEmpty = false := isEmpty_tset ..
  simp only [State.restSide, hset, h]
  rfl

theorem State.isEmpty_of_restSide {s t : State} (h : t.restSide = s.restSide) :
    t.hrt.queues.isEmpty = s.hrt.queues.isEmpty := congrArg (fun p => p.2.2.2.2.2) h

theorem State.queues_of_cmd {s : State} {q i : Nat} {c : Cmd} (h : s.cmd q i = some c) : s.hrt.queues.isEmpty = false := by
  by_contra hempty
  have hnil : s.hrt.queues = [] := List.isEmpty_iff.mp (Bool.eq_true_of_not_eq_false hempty)
  simp [State.cmd, State.queue, hnil, tgetD, tget] at h

/-- A command that is there to complete stands in a configured queue. -/
@[simp] theorem State.restSide_complete (q i : Nat) (st : Status) (result : Nat) :
    (s.complete q i st result).restSide = s.restSide := by
  unfold State.complete
  split
  · rfl
  next c hc =>
    extract_lets n size written counted
    have hwritten : written.restSide = s.restSide := s.restSide_writeLocal ..
    have hcounted : counted.restSide = s.restSide :=
      (State.restSide_modQueue q _ ((State.isEmpty_of_restSide hwritten).trans (State.queues_of_cmd hc))).trans hwritten
    split
    · exact (State.restSide_interrupt ..).trans hcounted
    · exact hcounted

end
end Sys2Proof.Machine
end

section
/-! PROOFS. A reset leaves the device's phase and recovery, the clocks, GLB_RECOVER and the bindings (R654 to R656, R664). -/
namespace Sys2Proof.Machine

section
variable (s : State)

/-! ## Updates of one unit's tables -/

@[simp] theorem State.restSide_modSch (f : SchedState → SchedState) : { s with sch := f s.sch }.restSide = s.restSide := (rfl)
@[simp] theorem State.restSide_modCol (f : CollState → CollState) : (s.modCol f).restSide = s.restSide := (rfl)
@[simp] theorem State.restSide_modUpd (f : UpdState → UpdState) : (s.modUpd f).restSide = s.restSide := (rfl)
@[simp] theorem State.restSide_modGth (f : GathState → GathState) : (s.modGth f).restSide = s.restSide := (rfl)
@[simp] theorem State.restSide_modEmb (f : EmbState → EmbState) : (s.modEmb f).restSide = s.restSide := (rfl)
@[simp] theorem State.restSide_modKln (f : KilnState → KilnState) : (s.modKln f).restSide = s.restSide := (rfl)
@[simp] theorem State.restSide_modHwd (f : HeartwoodState → HeartwoodState) : (s.modHwd f).restSide = s.restSide := (rfl)
theorem State.restSide_modHrt {f : HearthState → HearthState} (h : ∀ x, (f x).queues = x.queues) :
    (s.modHrt f).restSide = s.restSide := by
  unfold State.restSide State.modHrt
  rw [h]
  rfl
@[simp] theorem State.restSide_putFiring (g : Nat) (f : Firing) : (s.putFiring g f).restSide = s.restSide := (rfl)
@[simp] theorem State.restSide_setCores (n : Nat) : { s with sup := { s.sup with coresUp := n } }.restSide = s.restSide := (rfl)
@[simp] theorem State.restSide_modTests (f : List FieldTest → List FieldTest) : (s.modTests f).restSide = s.restSide := (rfl)
@[simp] theorem State.restSide_modTile (t : Nat) (f : TileWatch → TileWatch) : (s.modTile t f).restSide = s.restSide := (rfl)
@[simp] theorem State.restSide_modProg (k : Nat) (f : Prog → Prog) : (s.modProg k f).restSide = s.restSide := (rfl)
@[simp] theorem State.restSide_modStep (g : Nat) (f : GroveStep → GroveStep) : (s.modStep g f).restSide = s.restSide := (rfl)
@[simp] theorem State.restSide_spxClear (t : Nat) : (s.spxClear t).restSide = s.restSide := (rfl)
@[simp] theorem State.restSide_dropLanes (p : Nat → LaneSeed → Bool) : (s.dropLanes p).restSide = s.restSide := (rfl)
@[simp] theorem State.restSide_zeroFlows (g : Nat) : (s.zeroFlows g).restSide = s.restSide := (rfl)
@[simp] theorem State.restSide_dropGather (g : Nat) : (s.dropGather g).restSide = s.restSide := (rfl)
@[simp] theorem State.restSide_clearHists (g : Nat) : (s.clearHists g).restSide = s.restSide := (rfl)
@[simp] theorem State.restSide_dropChecks (p : AbftPass → Bool) : (s.dropChecks p).restSide = s.restSide := (rfl)
@[simp] theorem State.restSide_dropAttempt (g : Nat) : (s.dropAttempt g).restSide = s.restSide := (rfl)
@[simp] theorem State.restSide_closeStep (g : Nat) : (s.closeStep g).restSide = s.restSide := (rfl)

/-! ## Long operations end (R539, R574, R656) -/

@[simp] theorem State.restSide_abortTest (f : FieldTest) : (s.abortTest f).restSide = s.restSide := by
  unfold State.abortTest
  extract_lets tests owned
  have howned : owned.restSide = s.restSide := by
    unfold owned
    split
    · exact (State.restSide_complete ..).trans (s.restSide_modTests _)
    · rfl
  split
  · exact howned
  · split <;> exact howned

@[simp] theorem State.restSide_abortTests (p : FieldTest → Bool) : (s.abortTests p).restSide = s.restSide :=
  State.restSide_each (fun b f => b.restSide_abortTest f) s _

@[simp] theorem State.restSide_abortMapout (die : Nat) : (s.abortMapout die).restSide = s.restSide := by
  unfold State.abortMapout State.mapoutResult
  split
  · rfl
  · simp only [State.restSide_putFld, Reg.global, reduceCtorEq, or_self, not_false_eq_true]
    rfl

@[simp] theorem State.restSide_klnRecord (code g slot dest item : Nat) :
    (s.klnRecord code g slot dest item).restSide = s.restSide := by
  simp [State.klnRecord, Reg.global]

@[simp] theorem State.restSide_endFiring (g : Nat) (st : Status) (result : Nat) :
    (s.endFiring g st result).restSide = s.restSide := by
  unfold State.endFiring
  split
  · rfl
  · exact State.restSide_complete ..

@[simp] theorem State.restSide_abortFiring (g : Nat) (code : Option Nat) (item : Nat) :
    (s.abortFiring g code item).restSide = s.restSide := by
  unfold State.abortFiring
  split
  · rfl
  · dsimp only
    rw [State.restSide_endFiring]
    split <;> simp [Reg.global]

@[simp] theorem State.restSide_strikeFiring (g : Nat) : (s.strikeFiring g).restSide = s.restSide := by
  unfold State.strikeFiring
  split
  · rfl
  · exact (State.restSide_each (fun b p => b.restSide_complete ..) _ _).trans (s.restSide_abortFiring ..)

@[simp] theorem State.restSide_abortLong (g : Nat) : (s.abortLong g).restSide = s.restSide := by
  unfold State.abortLong
  extract_lets tested noTests noMapouts noFiring
  have hmapouts : noMapouts.restSide = s.restSide := by
    refine (State.restSide_each (fun b d => ?_) noTests _).trans (s.restSide_abortTests _)
    split
    · split <;> simp
    · rfl
  have hfiring : noFiring.restSide = s.restSide := (State.restSide_strikeFiring ..).trans hmapouts
  split
  · rw [State.restSide_complete, State.restSide_modKln, hfiring]
  · exact hfiring

/-- A fold each of whose steps keeps what the state before the fold had. -/
theorem State.restSide_each_of {α : Type} {s0 s : State} {l : List α} {f : State → α → State}
    (hs : s.restSide = s0.restSide) (h : ∀ b, ∀ x ∈ l, b.restSide = s0.restSide → (f b x).restSide = s0.restSide) :
    (s.each l f).restSide = s0.restSide := by
  unfold State.each
  induction l generalizing s with
  | nil => exact hs
  | cons x l ih => exact ih (h s x (List.mem_cons_self ..) hs) fun b y hy => h b y (List.mem_cons_of_mem x hy)

@[simp] theorem State.restSide_abortCmds (p : Nat → Cmd → Bool) : (s.abortCmds p).restSide = s.restSide := by
  unfold State.abortCmds
  extract_lets gone dropped
  refine State.restSide_each_of rfl fun b q hq hb => ?_
  have hsome : b.hrt.queues.isEmpty = false := by
    rw [State.isEmpty_of_restSide hb]
    exact List.isEmpty_eq_false_iff.mpr (List.ne_nil_of_mem hq)
  refine (State.restSide_each (fun b c => b.restSide_complete ..) _ _).trans ?_
  split
  · exact (State.restSide_modQueue _ _ hsome).trans hb
  · exact hb

/-! ## One grove (R654, R656) -/

@[simp] theorem State.restSide_discardTasks (p : Nat → Slot → Bool) (count : Bool) :
    (s.discardTasks p count).restSide = s.restSide := by
  unfold State.discardTasks
  dsimp only
  split
  · refine (State.restSide_each (fun b d => ?_) _ _).trans rfl
    split <;> simp [Reg.global]
  · rfl

@[simp] theorem State.restSide_zeroBuffer (g : Nat) (d : RedDesc) (step : Nat) :
    (s.zeroBuffer g d step).restSide = s.restSide := s.restSide_writeVa ..

@[simp] theorem State.restSide_clearRowBuf (die g step : Nat) : (s.clearRowBuf die g step).restSide = s.restSide := by
  unfold State.clearRowBuf
  dsimp only
  split <;> simp

@[simp] theorem State.restSide_voidUpdate (g step : Nat) : (s.voidUpdate g step).restSide = s.restSide :=
  State.restSide_each (fun b _ => (State.restSide_modUpd ..).trans (b.restSide_clearRowBuf ..)) s _

@[simp] theorem State.restSide_voidSampler (g : Nat) : (s.voidSampler g).restSide = s.restSide := by
  unfold State.voidSampler
  refine (State.restSide_each (fun b k => ?_) _ _).trans (s.restSide_dropLanes _)
  dsimp only
  repeat' split
  all_goals rfl

end

/-! ## A reset as a whole -/

/-- From `s` to `t` a reset ran: the phase, the recovery, the clocks, GLB_RECOVER and the bindings are as they were, no
memory request has come to wait, and no queue has been configured. -/
structure Rests (s t : State) : Prop where
  phase : t.sup.phase = s.sup.phase
  recovery : t.sup.recovery = s.sup.recovery
  clk : t.clk = s.clk
  recover : t.getReg .GLB_RECOVER [] = s.getReg .GLB_RECOVER []
  groves : t.grv.groves = s.grv.groves
  held : ∀ h ∈ t.mem.held, h ∈ s.mem.held
  queues : s.hrt.queues = [] → t.hrt.queues = []

theorem Rests.trans {s t u : State} (h : Rests s t) (k : Rests t u) : Rests s u :=
  ⟨k.phase.trans h.phase, k.recovery.trans h.recovery, k.clk.trans h.clk, k.recover.trans h.recover,
    k.groves.trans h.groves, fun x hx => h.held x (k.held x hx), fun hq => k.queues (h.queues hq)⟩

theorem Rests.of_restSide {s t : State} (h : t.restSide = s.restSide) : Rests s t := by
  have hqueues := State.isEmpty_of_restSide h
  simp only [State.restSide, Prod.mk.injEq] at h
  obtain ⟨⟨hphase, hrecovery⟩, hclk, hrecover, hgroves, hheld, -⟩ := h
  exact ⟨hphase, hrecovery, hclk, hrecover, hgroves, fun x hx => hheld ▸ hx,
    fun hnil => List.isEmpty_iff.mp (hqueues.trans (List.isEmpty_iff.mpr hnil))⟩

theorem Rests.refl (s : State) : Rests s s := Rests.of_restSide rfl

/-- The grove of a memory request that waits. -/
def HeldMem.grove : HeldMem → Nat
  | .req r => r.origin.grove
  | .acc a => a.origin.grove

/-- The requests of a grove that wait are dropped. -/
theorem State.held_dropWaiting (s : State) (g : Nat) : (s.dropWaiting g).mem.held = s.mem.held.filter fun h => h.grove != g := by
  unfold State.dropWaiting
  extract_lets serveOf memOf dropped
  have hmem : memOf = HeldMem.grove := funext fun h => by cases h <;> rfl
  exact congrArg (fun f : HeldMem → Nat => s.mem.held.filter fun h => f h != g) hmem

theorem State.rests_dropWaiting (s : State) (g : Nat) : Rests s (s.dropWaiting g) :=
  ⟨rfl, rfl, rfl, rfl, rfl, fun _ hx => by rw [s.held_dropWaiting g] at hx; exact List.mem_of_mem_filter hx, id⟩

/-- A grove's reset rests, and drops the memory requests of the grove. -/
theorem State.wipeGrove_rests (s : State) (g : Nat) :
    Rests s (s.wipeGrove g) ∧ ∀ h ∈ (s.wipeGrove g).mem.held, h.grove ≠ g := by
  unfold State.wipeGrove
  extract_lets aborted closed discarded faults zeroed updates sampled progs tiles
  have haborted : aborted.restSide = s.restSide := by simp [aborted]
  have hclosed : closed.restSide = s.restSide := by simpa [closed] using haborted
  have hdiscarded : discarded.restSide = s.restSide := by simpa [discarded] using hclosed
  have hfaults : faults.restSide = s.restSide :=
    (State.restSide_each (fun b d => b.restSide_putFld _ _ _ _ (by unfold Reg.global; decide)) _ _).trans hdiscarded
  have hzeroed : zeroed.restSide = s.restSide :=
    (State.restSide_each (fun b d => (State.restSide_zeroBuffer ..).trans (b.restSide_zeroBuffer ..)) _ _).trans hfaults
  have hupdates : updates.restSide = s.restSide := by simpa [updates] using hzeroed
  have hsampled : sampled.restSide = s.restSide := by simpa [sampled] using hupdates
  have hprogs : progs.restSide = s.restSide := by
    refine (State.restSide_each (fun b k => ?_) _ _).trans hsampled
    split <;> rfl
  have htiles : tiles.restSide = s.restSide :=
    (State.restSide_each (fun b t => b.restSide_modTile ..) _ _).trans hprogs
  have hdropped : Rests s ((tiles.dropAttempt g).dropWaiting g) :=
    (Rests.of_restSide ((State.restSide_dropAttempt ..).trans htiles)).trans (State.rests_dropWaiting _ g)
  refine ⟨hdropped.trans (Rests.of_restSide (State.restSide_dropChecks ..)), fun h hh => ?_⟩
  rw [State.dropChecks_mem, State.held_dropWaiting] at hh
  exact bne_iff_ne.mp (List.mem_filter.mp hh).2

/-- Resets of several groves rest, and drop the memory requests of each. -/
theorem State.wipeGroves_rests (s : State) (l : List Nat) :
    Rests s (s.each l fun s g => s.wipeGrove g) ∧ ∀ h ∈ (s.each l fun s g => s.wipeGrove g).mem.held, h.grove ∉ l := by
  unfold State.each
  induction l generalizing s with
  | nil => exact ⟨Rests.refl s, fun _ _ => List.not_mem_nil⟩
  | cons g l ih =>
    obtain ⟨hfirst, hgone⟩ := s.wipeGrove_rests g
    obtain ⟨hrest, hothers⟩ := ih (s.wipeGrove g)
    rw [List.foldl_cons]
    refine ⟨hfirst.trans hrest, fun h hh hmem => ?_⟩
    obtain hg | hl := List.mem_cons.mp hmem
    · exact hgone h (hrest.held h hh) hg
    · exact hothers h hh hl

/-! ## Before and after the groves (R640, R655, R656) -/

section
variable (s : State)

@[simp] theorem State.restSide_dropBatch : s.dropBatch.restSide = s.restSide := by
  unfold State.dropBatch
  cases hbatch : s.grv.batch with
  | none => rfl
  | some b =>
    dsimp only
    split
    · exact State.restSide_each (fun b c => b.restSide_modChannel ..) s _
    · rfl

@[simp] theorem State.restSide_mboxEnd (opcode tag result : Nat) : (s.mboxEnd opcode tag result).restSide = s.restSide := by
  unfold State.mboxEnd
  dsimp only
  split <;> simp [Reg.global]

@[simp] theorem State.restSide_attest (o tag : Nat) : (s.attest o tag).restSide = s.restSide := by
  unfold State.attest
  extract_lets req g valid body q spent p sig
  split
  · simp
  · split
    · simp
    · split
      · simp
      · split
        · simp
        · rw [State.restSide_mboxEnd, State.restSide_writeLocal]
          rfl

@[simp] theorem State.restSide_attestRetry : s.attestRetry.restSide = s.restSide := by
  unfold State.attestRetry
  split <;> simp

theorem State.queuesReset_rests : Rests s s.queuesReset ∧ s.queuesReset.hrt.queues = [] := by
  obtain ⟨cleared, hcleared⟩ : ∃ u : State, u = { s with hrt := { s.hrt with queues := [] } } := ⟨_, rfl⟩
  have hclear : Rests s cleared := hcleared ▸ ⟨rfl, rfl, rfl, rfl, rfl, fun _ hx => hx, fun _ => rfl⟩
  have hreset : Rests cleared s.queuesReset := by
    refine Rests.of_restSide ?_
    unfold State.queuesReset
    rw [← hcleared]
    simp only [State.restSide_resetReg, Reg.global, reduceCtorEq, or_self, not_false_eq_true]
    exact State.restSide_each (fun b q => by simp [Reg.global]) cleared _
  exact ⟨hclear.trans hreset, hreset.queues (hcleared ▸ rfl)⟩

@[simp] theorem State.restSide_portRestart (p : Nat) : (s.portRestart p).restSide = s.restSide := by
  unfold State.portRestart
  dsimp only
  split
  · rw [State.restSide_modPort, State.restSide_bumpPort] <;> simp [Reg.global]
  · rfl

@[simp] theorem State.restSide_firingMoves (g : Nat) : (s.firingMoves g).restSide = s.restSide := by
  unfold State.firingMoves
  split
  · rfl
  · repeat' split
    · exact s.restSide_endFiring ..
    · rfl
    · rfl
    · exact (State.restSide_endFiring ..).trans (s.restSide_putReg _ _ (by unfold Reg.global; decide))
    · rfl

@[simp] theorem State.restSide_kilnFail (g : Nat) (storage : Bool) : (s.kilnFail g storage).restSide = s.restSide := by
  unfold State.kilnFail
  split
  · rfl
  · dsimp only
    split
    · rfl
    · rw [State.restSide_firingMoves, State.restSide_putFiring, State.restSide_klnRecord]

@[simp] theorem State.restSide_slotLost (tag : Nat) : (s.slotLost tag).restSide = s.restSide := by
  unfold State.slotLost State.restoreFails
  split
  · rfl
  · dsimp only
    split
    · rw [State.restSide_complete, State.restSide_modKln]
    · split
      · rw [State.restSide_complete, State.restSide_modKln, State.restSide_klnRecord, State.restSide_modKln]
      · rw [State.restSide_modKln]

@[simp] theorem State.restSide_qpErrors (p : Nat → Qp → Bool) : (s.qpErrors p).restSide = s.restSide := by
  unfold State.qpErrors
  extract_lets hit marked failed lost
  have hmarked : marked.restSide = s.restSide := State.restSide_modHrt s (by exact fun _ => rfl)
  have hfailed : failed.restSide = marked.restSide := by
    refine State.restSide_each (fun b g => ?_) marked _
    split
    · split <;> simp
    · rfl
  exact (State.restSide_each (fun b r => b.restSide_slotLost _) failed _).trans (hfailed.trans hmarked)

@[simp] theorem State.restSide_closeSession (i : Nat) : (s.closeSession i).restSide = s.restSide := by
  unfold State.closeSession
  split
  · rfl
  · rw [State.restSide_emit]
    refine Eq.trans (State.restSide_modHrt _ ?_) (s.restSide_qpErrors _)
    exact fun _ => rfl

@[simp] theorem State.restSide_startRuntime : s.startRuntime.restSide = s.restSide := by
  unfold State.startRuntime
  extract_lets b written running
  have hwritten : written.restSide = s.restSide := s.restSide_writeLocal ..
  have hrunning : running.restSide = written.restSide := written.restSide_modHwd _
  clear_value running written
  exact (running.restSide_setCores 24).trans (hrunning.trans hwritten)

@[simp] theorem State.restSide_heartwoodWarm : s.heartwoodWarm.restSide = s.restSide := by
  unfold State.heartwoodWarm
  extract_lets warm f now
  have hwarm : warm.restSide = s.restSide := s.restSide_modHwd _
  clear_value warm
  split
  · exact hwarm
  · split
    · exact (warm.restSide_setCores 24).trans hwarm
    · exact warm.restSide_startRuntime.trans hwarm

/-! ## Requests of no grove of this device (R73, R395) -/

theorem State.channelOwner_lt {s : State} {c g : Nat} (h : s.channelOwner c = some g) : g < 16 := by
  unfold State.channelOwner State.ownerBy at h
  exact List.mem_range.mp (List.mem_of_find?_eq_some h)

theorem State.admission_far {o : Origin} (hfar : 16 ≤ o.grove) (unit : MemUnit) (off : Nat) (p : Party) :
    s.admission unit o off ≠ .ok p := by
  have hzero : o.grove ≠ 0 := by omega
  have howner : ∀ c, (s.channelOwner c == some o.grove) = false := fun c => by
    refine beq_eq_false_iff_ne.mpr fun h => ?_
    have := State.channelOwner_lt h
    omega
  unfold State.admission
  repeat' split
  all_goals simp_all

theorem State.restSide_memRequest_far {r : MemReq} (hfar : 16 ≤ r.origin.grove) :
    (s.memRequest r).restSide = s.restSide := by
  unfold State.memRequest
  split
  · simp
  · simp [State.hearthRemote]
  · exact s.restSide_dropStale ..
  next p hp => exact absurd hp (s.admission_far hfar _ _ p)

theorem State.restSide_accRequest_far {a : AccReq} (hfar : 16 ≤ a.origin.grove) :
    (s.accRequest a).restSide = s.restSide := by
  unfold State.accRequest
  split
  · simp
  · simp [State.hearthRemote]
  · exact s.restSide_dropStale ..
  next p hp => exact absurd hp (s.admission_far hfar _ _ p)

/-- Held requests that name no grove of this device are refused, each by itself. -/
theorem State.memRetry_rests (hfar : ∀ h ∈ s.mem.held, 16 ≤ h.grove) : Rests s s.memRetry := by
  obtain ⟨emptied, hemptied⟩ : ∃ u : State, u = { s with mem := { s.mem with held := [] } } := ⟨_, rfl⟩
  have hfirst : Rests s emptied := hemptied ▸ ⟨rfl, rfl, rfl, rfl, rfl, fun _ hx => absurd hx List.not_mem_nil, id⟩
  refine hfirst.trans (Rests.of_restSide ?_)
  unfold State.memRetry
  rw [← hemptied]
  refine State.restSide_each_of rfl fun b h hh hb => ?_
  cases h with
  | req r => exact (b.restSide_memRequest_far (hfar _ hh)).trans hb
  | acc a => exact (b.restSide_accRequest_far (hfar _ hh)).trans hb

end

/-- The state without queue pairs and regions. -/
theorem State.restSide_dropPairs (s : State) (l : LinkState) :
    { s with hrt := { s.hrt with qps := [], regions := [] }, lnk := l }.restSide = s.restSide := (rfl)

/-! ## The warm reset that a recovery makes (R654, R655, R664) -/

/-- The state in which a warm reset has wiped every grove. -/
def State.grovesWiped (s : State) : State :=
  (s.dropBatch.attestRetry.abortTests fun _ => true).each (List.range 16) fun s g => s.wipeGrove g

/-- The state in which a warm reset has then reset the queues. -/
def State.queuesWiped (s : State) : State :=
  (((s.each [0, 1] fun s d => s.abortMapout d).flushBuffers fun _ => true).abortCmds fun _ _ => true).queuesReset

/-- The state in which a warm reset has then restarted the ports and the links. -/
def State.linksWiped (s : State) : State :=
  (s.each allPorts fun s p => s.portRestart p).modHrt fun h => { h with
    links := tmap h.links fun _ x => if x.carries then { x with state := 1 } else x }

/-- The state in which a warm reset has then closed every session and dropped every queue pair and region. -/
def State.sessionsWiped (s : State) : State :=
  let s := (s.each (s.hrt.sessions.map (·.1)) fun s i => s.closeSession i).qpErrors fun _ _ => true
  { s with hrt := { s.hrt with qps := [], regions := [] }, lnk := { s.lnk with held := [], serve := [] } }

theorem State.warmReset_eq (s : State) :
    s.warmReset = s.grovesWiped.queuesWiped.linksWiped.sessionsWiped.heartwoodWarm.memRetry := by
  simp only [State.warmReset, State.sessionsWiped, State.linksWiped, State.queuesWiped, State.grovesWiped]

theorem State.grovesWiped_rests (s : State) : Rests s s.grovesWiped ∧ ∀ h ∈ s.grovesWiped.mem.held, 16 ≤ h.grove := by
  have hstart : (s.dropBatch.attestRetry.abortTests fun _ => true).restSide = s.restSide := by simp
  obtain ⟨hwipes, hgone⟩ := (s.dropBatch.attestRetry.abortTests fun _ => true).wipeGroves_rests (List.range 16)
  exact ⟨(Rests.of_restSide hstart).trans hwipes, fun h hh => Nat.not_lt.mp fun hlt => hgone h hh (List.mem_range.mpr hlt)⟩

theorem State.queuesWiped_rests (s : State) : Rests s s.queuesWiped ∧ s.queuesWiped.hrt.queues = [] := by
  have hflushed := State.restSide_each (fun b d => b.restSide_abortMapout d) s [0, 1]
  obtain ⟨hreset, hnil⟩ := (((s.each [0, 1] fun s d => s.abortMapout d).flushBuffers fun _ => true).abortCmds
    fun _ _ => true).queuesReset_rests
  refine ⟨(Rests.of_restSide ?_).trans hreset, hnil⟩
  rw [State.restSide_abortCmds, State.restSide_flushBuffers, hflushed]

theorem State.restSide_linksWiped (s : State) : s.linksWiped.restSide = s.restSide :=
  Eq.trans (State.restSide_modHrt _ (by exact fun _ => rfl)) (State.restSide_each (fun b p => b.restSide_portRestart p) s _)

theorem State.restSide_sessionsWiped (s : State) : s.sessionsWiped.restSide = s.restSide := by
  unfold State.sessionsWiped
  extract_lets closed attachment links
  have hclosed : closed.restSide = s.restSide :=
    (State.restSide_qpErrors ..).trans (State.restSide_each (fun b i => b.restSide_closeSession i) s _)
  exact (closed.restSide_dropPairs _).trans hclosed

/-- A warm reset leaves every queue unconfigured, and rests. -/
theorem State.warmReset_rests (s : State) : Rests s s.warmReset ∧ s.warmReset.hrt.queues = [] := by
  obtain ⟨hwiped, hfar⟩ := s.grovesWiped_rests
  obtain ⟨hqueues, hnil⟩ := s.grovesWiped.queuesWiped_rests
  have hwarm : s.grovesWiped.queuesWiped.linksWiped.sessionsWiped.heartwoodWarm.restSide =
      s.grovesWiped.queuesWiped.restSide := by
    rw [State.restSide_heartwoodWarm, State.restSide_sessionsWiped, State.restSide_linksWiped]
  have hlast := Rests.of_restSide hwarm
  have hretry := State.memRetry_rests _ fun h hh => hfar h (hqueues.held h (hlast.held h hh))
  have hend := hlast.trans hretry
  rw [State.warmReset_eq]
  exact ⟨(hwiped.trans hqueues).trans hend, hend.queues hnil⟩

end Sys2Proof.Machine
end

section
/-! PROOFS. RECOVER and the relock of the PLLs (R91, R596, R664, R669). -/
namespace Sys2Proof.Machine

/-! ## The PLLs relock (R91, R596) -/

/-- The state in which a device that was banked, or whose reference is lost, has taken the wanted reference that is
GOOD. -/
def State.sourced (s : State) : State :=
  if s.clk.banked || !s.activeGood then
    s.modClk fun c => { c with
      banked := false, active := if s.refGood s.refSel.1 then s.refSel.1 else 1 - s.refSel.1, prev := none }
  else s

theorem State.retarget_eq (s : State) (d : Nat) : ∃ l, s.retarget d = s.modClk fun c => { c with dvfs := l } := by
  unfold State.retarget
  dsimp only
  split
  · exact ⟨s.clk.dvfs, rfl⟩
  · exact ⟨_, rfl⟩

theorem State.retargetAll_eq (s : State) : ∃ l, s.retargetAll = s.modClk fun c => { c with dvfs := l } := by
  obtain ⟨l, hfirst⟩ := s.retarget_eq 0
  obtain ⟨m, hsecond⟩ := (s.retarget 0).retarget_eq 1
  exact ⟨m, by rw [State.retargetAll, hsecond, hfirst]; rfl⟩

/-- With a GOOD reference the PLLs lock to it, and the domains seek their points again. -/
theorem State.relock_good {s : State} (h : (s.refGood 0 || s.refGood 1) = true) :
    ∃ l, s.relock = (s.sourced.putReg .CLK_PLL_STATUS [] 0x3FF#64).modClk fun c => { c with dvfs := l } := by
  obtain ⟨l, hl⟩ := (s.sourced.putReg .CLK_PLL_STATUS [] 0x3FF#64).retargetAll_eq
  exact ⟨l, (if_pos h).trans hl⟩

/-- Taking a reference changes the clocks only. -/
theorem State.sourced_frame (s : State) : ∃ f, s.sourced = s.modClk f := by
  unfold State.sourced
  split
  · exact ⟨_, rfl⟩
  · exact ⟨id, rfl⟩

theorem State.sourced_awake (s : State) : s.sourced.clk.banked = false := by
  unfold State.sourced
  split
  · rfl
  next h =>
    rw [Bool.or_eq_true, not_or] at h
    exact Bool.eq_false_of_not_eq_true h.1

/-- The reference that is taken is GOOD. -/
theorem State.sourced_activeGood {s : State} (h : s.refGood 0 = true ∨ s.refGood 1 = true) : s.sourced.activeGood = true := by
  have hwant : s.refSel.1 < 2 := fld_lt _ _ _
  generalize hw : s.refSel.1 = want at hwant
  unfold State.sourced
  split
  · rw [hw]
    obtain rfl | rfl : want = 0 ∨ want = 1 := by omega
    · by_cases hgood : s.refGood 0 = true
      · rw [if_pos hgood]
        exact hgood
      · rw [if_neg hgood]
        exact h.resolve_left hgood
    · by_cases hgood : s.refGood 1 = true
      · rw [if_pos hgood]
        exact hgood
      · rw [if_neg hgood]
        exact h.resolve_right hgood
  next hkeep =>
    rw [Bool.or_eq_true, not_or, Bool.not_eq_true', Bool.not_eq_false] at hkeep
    exact hkeep.2

theorem State.sourced_keeps {s : State} (hbanked : s.clk.banked = false) (hgood : s.activeGood = true) : s.sourced = s := by
  simp [State.sourced, hbanked, hgood]

/-- What a relock with a GOOD reference leaves. -/
theorem State.relock_locks {s : State} (h : (s.refGood 0 || s.refGood 1) = true) :
    s.relock.clk.banked = false ∧ s.relock.getReg .CLK_PLL_STATUS [] = 0x3FF#64 ∧ s.relock.activeGood = true ∧
      (s.clk.banked = false → s.activeGood = true →
        s.relock.clk.active = s.clk.active ∧ s.relock.clk.prev = s.clk.prev) ∧
      ∃ f, s.relock = (s.modClk f).putReg .CLK_PLL_STATUS [] 0x3FF#64 := by
  obtain ⟨l, hl⟩ := s.relock_good h
  obtain ⟨f, hf⟩ := s.sourced_frame
  rw [hl]
  refine ⟨s.sourced_awake, State.getReg_putReg_same .., ?_, fun hbanked hgood => ?_, ?_⟩
  · exact State.sourced_activeGood (Bool.or_eq_true _ _ ▸ h)
  · rw [State.sourced_keeps hbanked hgood]
    exact ⟨rfl, rfl⟩
  · rw [hf]
    exact ⟨fun c => { f c with dvfs := l }, rfl⟩

theorem State.relock_bad {s : State} (h : (s.refGood 0 || s.refGood 1) = false) : s.relock = s :=
  if_neg (Bool.eq_false_iff.mp h)

/-! ## The end of an operation of GLB_RECOVER (R669) -/

theorem State.getReg_recoverResult (s : State) (n : Nat) :
    (s.recoverResult n).getReg .GLB_RECOVER [] =
      setFld (setFld (setFld (s.getReg .GLB_RECOVER []) 48 8 n) 41 1 1) 40 1 0 := by
  simp [State.recoverResult, State.putFld]

/-- The result stands in the register. -/
theorem State.recoverResult_result (s : State) (n : Nat) : (s.recoverResult n).regFld .GLB_RECOVER [] 48 8 = n % 2 ^ 8 := by
  unfold State.regFld
  rw [s.getReg_recoverResult n, wfld_setFld_above (by omega) (by omega), wfld_setFld_above (by omega) (by omega),
    wfld_setFld_same (by omega)]

theorem State.recoverResult_busy (s : State) (n : Nat) : (s.recoverResult n).regFld .GLB_RECOVER [] 40 1 = 0 := by
  unfold State.regFld
  rw [s.getReg_recoverResult n, wfld_setFld_same (by omega), Nat.zero_mod]

theorem State.recoverResult_unbound (s : State) (n : Nat) :
    (s.recoverResult n).regFld .GLB_RECOVER [] 42 1 = s.regFld .GLB_RECOVER [] 42 1 := by
  unfold State.regFld
  rw [s.getReg_recoverResult n, wfld_setFld_above (by omega) (by omega), wfld_setFld_above (by omega) (by omega),
    wfld_setFld_below (by omega) (by omega)]

theorem State.logRoom_putRecover (s : State) (v : Word) : (s.putReg .GLB_RECOVER [] v).logRoom = s.logRoom :=
  State.logRoom_putReg v (by decide) (by decide)

theorem State.logRoom_recoverResult (s : State) (n : Nat) : (s.recoverResult n).logRoom = s.logRoom := by
  unfold State.recoverResult State.putFld
  rw [State.logRoom_putRecover, State.logRoom_putRecover, State.logRoom_putRecover]

/-- A refused operation ends with its result, keeping the memory. -/
theorem State.recoverRefused_result (s : State) (op n : Nat) :
    (s.recoverRefused op n).regFld .GLB_RECOVER [] 48 8 = n % 2 ^ 8 ∧ (s.recoverRefused op n).mem = s.mem := by
  refine ⟨?_, by simp [State.recoverRefused, State.recoverResult]⟩
  have hkept := State.getReg_record (s.recoverResult n) .glb .contained 2 0x02 none
    (op % 8 + s.regFld .GLB_RECOVER [] 32 4 * 16) rfl (r := .GLB_RECOVER) (ix := []) (by decide)
  exact (congrArg (fun v => wfld v 48 8) hkept).trans (s.recoverResult_result n)

/-- With room in the log, a refused operation leaves its record. -/
theorem State.recoverRefused_record {s : State} (op n : Nat) (hroom : s.logRoom = true) :
    ∃ r, (s.recoverRefused op n).lastRecord = some r ∧ r.src = .glb ∧ r.sev = .contained ∧ r.code = 0x02 :=
  ⟨_, State.lastRecord_record _ _ _ _ _ _ _ rfl ((s.logRoom_recoverResult n).trans hroom), rfl, rfl, rfl⟩

theorem State.recoverRefused_sup (s : State) (op n : Nat) :
    (s.recoverRefused op n).sup.phase = s.sup.phase ∧ (s.recoverRefused op n).sup.recovery = s.sup.recovery := by
  obtain ⟨low, causes, hsup⟩ := (s.recoverResult n).sup_logRec
    ((s.recoverResult n).mkRec .glb .contained 2 0x02 none (op % 8 + s.regFld .GLB_RECOVER [] 32 4 * 16))
  rw [← State.record_plain _ _ _ _ _ _ _ rfl] at hsup
  unfold State.recoverRefused
  rw [hsup]
  exact ⟨rfl, rfl⟩

/-! ## RECOVER (R664) -/

/-- The word that a software write of GLB_RECOVER with go and an op stores. -/
def State.recoverWord (s : State) (v : Word) (op : Nat) : Word :=
  accessWrite .GLB_RECOVER (s.getReg .GLB_RECOVER []) (setFld (setFld v 63 1 1) 0 3 op)

theorem getLsbD_eq_wfld (v : Word) (i : Nat) : v.getLsbD i = decide (wfld v i 1 = 1) := by
  unfold wfld fld
  rw [BitVec.getLsbD, Nat.testBit_eq_decide_div_mod_eq, Nat.pow_one]

/-- RECOVER on a device whose GLB_RECOVER is not busy writes the register and begins. -/
theorem exec_recover {s : State} (v : Word) (hheld : s.sup.recovery ≠ .resetHeld)
    (hbusy : s.regFld .GLB_RECOVER [] 40 1 = 0) :
    exec (.recover v) s = .next (s.putReg .GLB_RECOVER [] (s.recoverWord v 2)).recover := by
  have hgo : (setFld (setFld v 63 1 1) 0 3 2).getLsbD 63 = true := by
    rw [getLsbD_eq_wfld, wfld_setFld_above (by omega) (by omega), wfld_setFld_same (by omega)]
    rfl
  have hop : wfld (setFld (setFld v 63 1 1) 0 3 2) 0 3 = 2 := wfld_setFld_same (by omega)
  have hidle : ¬ s.regFld .GLB_RECOVER [] 40 1 = 1 := by omega
  refine congrArg Host.Outcome.next ((State.unheld_of hheld _).trans ?_)
  unfold State.writeRecover State.softWrite State.recoverWord
  rw [hgo, if_neg (by decide), if_neg hidle]
  dsimp only
  rw [hop, if_neg (by decide), if_neg (by decide), if_pos rfl]

/-- Whether a cause is cleared does not depend on GLB_RECOVER. -/
theorem State.causeCleared_putRecover (s : State) (w : Word) (c : Src × Nat × Nat) :
    (s.putReg .GLB_RECOVER [] w).causeCleared c = s.causeCleared c := by
  have hstack : ∀ k ∈ List.range 12, (s.putReg .GLB_RECOVER [] w).regFld .MEM_STACK_TEMP [k / 6, k % 6] 0 16 =
      s.regFld .MEM_STACK_TEMP [k / 6, k % 6] 0 16 := fun k _ => by
    have hne := Nat.ne_of_gt (recover_lt_regAddr (r := .MEM_STACK_TEMP) [k / 6, k % 6] (by unfold Reg.global; decide))
    unfold State.regFld
    rw [State.getReg_putReg_other _ _ hne]
  have hstacks : (s.putReg .GLB_RECOVER [] w).stacksCool = s.stacksCool := by
    unfold State.stacksCool
    rw [Bool.eq_iff_iff, List.all_eq_true, List.all_eq_true]
    exact forall₂_congr fun k hk => by rw [hstack k hk]; rfl
  have hrails : (s.putReg .GLB_RECOVER [] w).getReg .PWR_RAIL_STATUS [] = s.getReg .PWR_RAIL_STATUS [] :=
    State.getReg_putReg_other _ _ (by decide)
  unfold State.causeCleared
  rw [hstacks, hrails]
  rfl

/-- Training of the in-package links starts, once a reference is GOOD. -/
theorem State.recoverTrain_starts (s : State) :
    s.recoverTrain.sup.phase = s.sup.phase ∧
      s.recoverTrain.sup.recovery = (if s.refGood 0 || s.refGood 1 then .training else .waitReference) ∧
      (s.refGood 0 || s.refGood 1 → s.recoverTrain.clk.banked = false ∧
        s.recoverTrain.getReg .CLK_PLL_STATUS [] = 0x3FF#64) ∧
      s.recoverTrain.regFld .GLB_RECOVER [] 40 1 = s.regFld .GLB_RECOVER [] 40 1 ∧ s.recoverTrain.hrt = s.hrt ∧
      s.recoverTrain.grv = s.grv := by
  unfold State.recoverTrain
  by_cases hgood : (s.refGood 0 || s.refGood 1) = true
  · obtain ⟨hbanked, hlocked, -, -, f, hf⟩ := State.relock_locks hgood
    have hkept : s.relock.getReg .GLB_RECOVER [] = s.getReg .GLB_RECOVER [] := by
      rw [hf, State.getReg_putReg_other _ _ (by decide)]
      rfl
    rw [if_pos hgood, if_pos hgood]
    refine ⟨by rw [hf]; rfl, rfl, fun _ => ⟨hbanked, hlocked⟩, congrArg (fun v => wfld v 40 1) hkept, ?_, ?_⟩
    · rw [hf]; rfl
    · rw [hf]; rfl
  · rw [if_neg hgood, if_neg hgood]
    exact ⟨rfl, rfl, fun h => absurd h hgood, rfl, rfl, rfl⟩

theorem State.refGood_of_clk {s t : State} (h : t.clk = s.clk) (k : Nat) : t.refGood k = s.refGood k := by
  simp [State.refGood, h]

section
variable {s : State}

theorem State.recover_cleared (hash : s.sup.phase = .ash) (h : s.sup.causes.all (fun c => s.causeCleared c) = true) :
    s.recover = (s.putFld .GLB_RECOVER [] 40 1 1).warmReset.recoverTrain := by
  unfold State.recover
  rw [hash, if_neg (by decide), if_pos h]

theorem State.recover_uncleared (hash : s.sup.phase = .ash) (h : s.sup.causes.all (fun c => s.causeCleared c) = false) :
    s.recover = s.recoverRefused 2 3 := by
  unfold State.recover
  rw [hash, if_neg (by decide), if_neg (Bool.eq_false_iff.mp h)]

theorem State.recover_outside (h : s.sup.phase ≠ .ash) : s.recover = s.recoverRefused 2 2 :=
  if_pos (bne_iff_ne.mpr h)

/-- What a recovery with every cause cleared leaves (R664). -/
theorem State.recover_begins (hash : s.sup.phase = .ash)
    (h : s.sup.causes.all (fun c => s.causeCleared c) = true) :
    s.recover.sup.phase = .ash ∧
      s.recover.sup.recovery = (if s.refGood 0 || s.refGood 1 then .training else .waitReference) ∧
      (s.refGood 0 || s.refGood 1 → s.recover.clk.banked = false ∧ s.recover.getReg .CLK_PLL_STATUS [] = 0x3FF#64) ∧
      s.recover.regFld .GLB_RECOVER [] 40 1 = 1 ∧ s.recover.hrt.queues = [] ∧ s.recover.grv.groves = s.grv.groves := by
  rw [State.recover_cleared hash h]
  obtain ⟨hrests, hnil⟩ := (s.putFld .GLB_RECOVER [] 40 1 1).warmReset_rests
  have hbusy : (s.putFld .GLB_RECOVER [] 40 1 1).regFld .GLB_RECOVER [] 40 1 = 1 := by
    unfold State.regFld State.putFld
    rw [State.getReg_putReg_same, wfld_setFld_same (by omega), Nat.mod_eq_of_lt (by omega)]
  have hkept := congrArg (fun v => wfld v 40 1) hrests.recover
  obtain ⟨hphase, hrecovery, hlocked, hrunning, hhrt, hgrv⟩ := (s.putFld .GLB_RECOVER [] 40 1 1).warmReset.recoverTrain_starts
  have hgood : ∀ k, (s.putFld .GLB_RECOVER [] 40 1 1).warmReset.refGood k = s.refGood k := State.refGood_of_clk hrests.clk
  rw [hgood, hgood] at hrecovery hlocked
  exact ⟨hphase.trans (hrests.phase.trans hash), hrecovery, hlocked, hrunning.trans (hkept.trans hbusy),
    (congrArg (·.queues) hhrt).trans hnil, (congrArg (·.groves) hgrv).trans hrests.groves⟩

end

end Sys2Proof.Machine
end

section
/-! PROOFS. Training of the in-package links, and the end of a recovery (R91, R92, R664). -/
namespace Sys2Proof.Machine

/-! ## A training never starts a recovery's training -/

/-- What every step of a list keeps, the list keeps. -/
theorem State.each_keeps {α : Type} {P : State → Prop} {f : State → α → State} (h : ∀ b x, P b → P (f b x)) {s : State}
    (l : List α) (hs : P s) : P (s.each l f) := by
  unfold State.each
  induction l generalizing s with
  | nil => exact hs
  | cons x l ih => exact ih (h s x hs)

theorem State.recovery_of_restSide {s t : State} (h : t.restSide = s.restSide) : t.sup.recovery = s.sup.recovery :=
  congrArg (fun p => p.1.2) h

theorem State.notTraining_of_restSide {s t : State} (h : t.restSide = s.restSide) (hs : s.sup.recovery ≠ .training) :
    t.sup.recovery ≠ .training := fun ht => hs ((State.recovery_of_restSide h).symm.trans ht)

theorem State.restSide_portsOff (s : State) : s.portsOff.restSide = s.restSide := by
  refine State.restSide_each (fun b p => ?_) s _
  split
  · rfl
  · simp [State.portOff, Reg.global]

theorem State.restSide_linksDown (s : State) : s.linksDown.restSide = s.restSide := (rfl)

@[simp] theorem State.restSide_modHlk (s : State) (k : Nat) (f : HLink → HLink) : (s.modHlk k f).restSide = s.restSide :=
  (rfl)

@[simp] theorem State.restSide_hlkSend (s : State) (k : Nat) (f : HFlit) : (s.hlkSend k f).restSide = s.restSide := by
  unfold State.hlkSend
  dsimp only
  repeat' split
  all_goals simp

@[simp] theorem State.restSide_hlkPump (s : State) (k : Nat) : (s.hlkPump k).restSide = s.restSide :=
  (State.restSide_each (fun b _ => b.restSide_hlkSend k _) _ _).trans (s.restSide_modHlk k _)

/-- The state in which a device that enters the ash state has aborted its firings, written its buffers and closed its
ports. -/
def State.ashSwept (s : State) (ctrlUe : Bool) : State :=
  let s := s.each (List.range 16) fun s g => s.strikeFiring g
  let s := if ctrlUe then s else s.flushBuffers fun _ => true
  s.portsOff.linksDown.dropBatch

theorem State.restSide_ashSwept (s : State) (ctrlUe : Bool) : (s.ashSwept ctrlUe).restSide = s.restSide := by
  unfold State.ashSwept
  extract_lets struck flushed
  have hstruck : struck.restSide = s.restSide := State.restSide_each (fun b g => b.restSide_strikeFiring g) s _
  have hflushed : flushed.restSide = struck.restSide := by
    unfold flushed
    split
    · rfl
    · exact State.restSide_flushBuffers ..
  clear_value flushed struck
  rw [State.restSide_dropBatch, State.restSide_linksDown, State.restSide_portsOff, hflushed, hstruck]

theorem State.ashEntry_again {s : State} (h : s.sup.phase = .ash) (ctrlUe overtemp : Bool) :
    (s.ashEntry ctrlUe overtemp).sup.recovery = s.sup.recovery ∨ (s.ashEntry ctrlUe overtemp).sup.recovery = .idle := by
  unfold State.ashEntry
  rw [if_pos (beq_iff_eq.mpr h)]
  dsimp only
  split
  · exact .inr (State.recoverRefused_sup ..).2
  · exact .inl rfl

theorem State.ashEntry_first {s : State} (h : s.sup.phase ≠ .ash) (ctrlUe overtemp : Bool) :
    (s.ashEntry ctrlUe overtemp).sup.recovery = s.sup.recovery := by
  unfold State.ashEntry
  rw [if_neg (fun hash => h (beq_iff_eq.mp hash))]
  extract_lets struck flushed dropped sup resolved
  have hdropped : dropped.restSide = s.restSide := s.restSide_ashSwept ctrlUe
  clear_value dropped
  have hresolved : resolved.sup.recovery = dropped.sup.recovery := by
    unfold resolved
    split
    · rfl
    · exact (State.recoverRefused_sup ..).2
  clear_value resolved
  exact hresolved.trans (State.recovery_of_restSide hdropped)

/-- Entering the ash state keeps the recovery or cuts it short. -/
theorem State.recovery_ashEntry (s : State) (ctrlUe overtemp : Bool) :
    (s.ashEntry ctrlUe overtemp).sup.recovery = s.sup.recovery ∨ (s.ashEntry ctrlUe overtemp).sup.recovery = .idle := by
  by_cases h : s.sup.phase = .ash
  · exact State.ashEntry_again h ctrlUe overtemp
  · exact .inl (State.ashEntry_first h ctrlUe overtemp)

theorem State.fatal_notTraining {s : State} (h : s.sup.recovery ≠ .training) (src : Src) (die code : Nat)
    (grove : Option Nat) (detail : Nat) : (s.fatal src die code grove detail).sup.recovery ≠ .training := by
  have hrecord := State.recovery_of_restSide (s.restSide_record src .fatal die code grove detail)
  obtain hkept | hidle := (s.record src .fatal die code grove detail).recovery_ashEntry (src == .mem && code == 0x0E)
    ((src == .pwr && code == 0x03) || (src == .mem && code == 0x0D))
  · exact fun htraining => h (hrecord.symm.trans (hkept.symm.trans htraining))
  · exact fun htraining => absurd (hidle.symm.trans htraining) (by decide)

theorem State.hlkTrained_notTraining {s : State} (h : s.sup.recovery ≠ .training) (k modules lanes old : Nat) (fresh : Bool) :
    (s.hlkTrained k modules lanes old fresh).sup.recovery ≠ .training := by
  unfold State.hlkTrained
  extract_lets m lost st base trained
  have hlost : lost.restSide = s.restSide := State.restSide_each (fun b i => by simp) s _
  have htrained : trained.restSide = s.restSide := (lost.restSide_modHlk k _).trans hlost
  split
  · exact State.fatal_notTraining (State.notTraining_of_restSide htrained h) _ _ _ _ _
  · exact State.notTraining_of_restSide ((trained.restSide_hlkPump k).trans htrained) h

theorem State.hlkTraining_notTraining {s : State} (h : s.sup.recovery ≠ .training) (a b c : Nat × Nat) :
    (s.hlkTraining a b c).sup.recovery ≠ .training := by
  refine State.each_keeps (P := fun t => t.sup.recovery ≠ .training) (fun b p hb => ?_) _ h
  split
  · exact hb
  · exact State.hlkTrained_notTraining hb _ _ _ _ _

/-! ## The end of training (R43, R664) -/

/-- Outside a recovery, training brings up the links and nothing else. -/
theorem exec_hlkTrainingDone_plain {s : State} (hrun : s.islandsRun = true) (h : s.sup.recovery ≠ .training)
    (a b c : Nat × Nat) : exec (.hlkTrainingDone a b c) s = .next (s.hlkTraining a b c) := by
  have hdone : s.linksTrained a b c = s.hlkTraining a b c :=
    if_neg (by simp [State.hlkTraining_notTraining h])
  refine congrArg Host.Outcome.next (Eq.trans ?_ hdone)
  exact if_pos (by rw [hrun]; rfl)

/-- In a recovery, the links trained end it. -/
theorem exec_hlkTrainingDone_recovers {s : State} {a b c : Nat × Nat} (h : s.sup.recovery = .training)
    (hup : (s.hlkTraining a b c).ucieUp = true) (hstill : (s.hlkTraining a b c).sup.recovery = .training) :
    exec (.hlkTrainingDone a b c) s = .next (s.hlkTraining a b c).recoverDone := by
  have hdone : s.linksTrained a b c = (s.hlkTraining a b c).recoverDone :=
    if_pos (by rw [hup, hstill]; rfl)
  refine congrArg Host.Outcome.next (Eq.trans ?_ hdone)
  exact if_pos (by rw [h, Bool.or_eq_true]; exact .inr rfl)

/-! ## A grove is unbound (R664) -/

/-- An unbound grove keeps its generation and job tag only, and no other grove changes. -/
theorem State.groves_unbindGrove (s : State) (g : Nat) :
    (s.unbindGrove g).grv.groves =
      tmod s.grv.groves g {} fun x => { generation := x.generation, jobTag := x.jobTag } := by
  unfold State.unbindGrove
  extract_lets discarded ch cleared old unbound imaged tiles knots lanes sampled
  have hcleared : BoundAs s cleared := State.clearTables_bound _ (State.discardGrove_bound _ (BoundAs.refl s))
  have himaged : BoundAs unbound imaged := State.applyImage_bound _ (BoundAs.refl unbound)
  have htiles : BoundAs unbound tiles := State.each_bound _ himaged fun b t hb =>
    State.watchRegrove_bound _ (State.resetTile_bound _ (State.discardTile_bound _ hb))
  have hsampled : BoundAs unbound sampled :=
    State.regroveSampler_bound _ _ (State.dropLanes_bound _ (State.clearKnots_bound _ htiles))
  have hend := State.each_bound ((List.range 480).filter fun c => old.channels.testBit c) hsampled
    (f := fun s c => s.rekey [] c) fun b c hb => State.rekey_bound _ _ hb
  rw [hend.groves]
  exact congrArg (fun l => tmod l g {} fun x : Grove => { generation := x.generation, jobTag := x.jobTag }) hcleared.groves

theorem State.grove_unbindGrove_same (s : State) (g : Nat) : ((s.unbindGrove g).grove g).bound = false := by
  unfold State.grove
  rw [s.groves_unbindGrove g, tgetD_tmod_same]

theorem State.grove_unbindGrove_other (s : State) {g k : Nat} (h : k ≠ g) : (s.unbindGrove g).grove k = s.grove k := by
  unfold State.grove
  rw [s.groves_unbindGrove g, tgetD_tmod_other _ _ _ _ h]

/-- Unbinding the groves of a list leaves bound only what was bound and is not in the list. -/
theorem State.bound_unbindGroves (s : State) (l : List Nat) {k : Nat}
    (h : ((s.each l fun s g => s.unbindGrove g).grove k).bound = true) : (s.grove k).bound = true ∧ k ∉ l := by
  unfold State.each at h
  induction l generalizing s with
  | nil => exact ⟨h, List.not_mem_nil⟩
  | cons g l ih =>
    obtain ⟨hbound, hrest⟩ := ih (s.unbindGrove g) h
    by_cases hk : k = g
    · rw [hk, s.grove_unbindGrove_same g] at hbound
      exact absurd hbound Bool.false_ne_true
    · rw [s.grove_unbindGrove_other hk] at hbound
      exact ⟨hbound, List.not_mem_cons_of_ne_of_not_mem hk hrest⟩

theorem State.unbindGroves_all (s : State) {k : Nat} (hk : k < 16) :
    ((s.each s.boundGroves fun s g => s.unbindGrove g).grove k).bound = false := by
  refine Bool.eq_false_of_not_eq_true fun h => ?_
  obtain ⟨hbound, hout⟩ := s.bound_unbindGroves _ h
  exact hout (List.mem_filter.mpr ⟨List.mem_range.mpr hk, hbound⟩)

/-! ## The device is in service again (R664) -/

/-- The state in which a recovery from a cause of the control-state class has unbound every grove. -/
def State.controlUnbound (s : State) : State :=
  if s.sup.causes.any controlClass then s.each s.boundGroves fun s g => s.unbindGrove g else s

/-- The state in which a recovery has ended with result OK. -/
def State.recoverEnded (s : State) : State :=
  (s.controlUnbound.putFld .GLB_RECOVER [] 42 1 (b2n (s.sup.causes.any controlClass))).recoverResult 0

theorem State.recoverEnded_unbound (s : State) :
    s.recoverEnded.regFld .GLB_RECOVER [] 42 1 = b2n (s.sup.causes.any controlClass) := by
  have hbit : b2n (s.sup.causes.any controlClass) % 2 ^ 1 = b2n (s.sup.causes.any controlClass) := by
    cases s.sup.causes.any controlClass <;> rfl
  unfold State.recoverEnded
  rw [State.recoverResult_unbound]
  unfold State.regFld State.putFld
  rw [State.getReg_putReg_same, wfld_setFld_same (by omega), hbit]

theorem State.recoverEnded_grv (s : State) : s.recoverEnded.grv = s.controlUnbound.grv := by
  simp [State.recoverEnded, State.recoverResult]

/-- The state in which the device is in service, with no cause and its outputs released. -/
def State.served (s : State) : State :=
  { s with
    wch := { s.wch with fatal := none }
    sup := { s.sup with
      phase := .service, recovery := .idle, causes := [], faultLow := false, thermLow := false, alertLow := false
      svcLow := true } }

theorem State.recoverDone_eq (s : State) : s.recoverDone = s.recoverEnded.served := by
  simp only [State.recoverDone, State.served, State.recoverEnded, State.controlUnbound]

theorem State.served_recover (s : State) (lo w : Nat) :
    s.served.regFld .GLB_RECOVER [] lo w = s.regFld .GLB_RECOVER [] lo w :=
  congrArg (fun v => wfld v lo w) (State.getReg_congr rfl _ _)

theorem State.served_grv (s : State) : s.served.grv = s.grv := rfl

theorem State.recoverDone_grv (s : State) : s.recoverDone.grv = s.controlUnbound.grv := by
  rw [State.recoverDone_eq, State.served_grv, State.recoverEnded_grv]

/-- A recovery that ends leaves result OK, not busy, and whether it unbound the groves. -/
theorem State.recoverDone_recover (s : State) :
    s.recoverDone.regFld .GLB_RECOVER [] 48 8 = 0 ∧ s.recoverDone.regFld .GLB_RECOVER [] 40 1 = 0 ∧
      s.recoverDone.regFld .GLB_RECOVER [] 42 1 = b2n (s.sup.causes.any controlClass) := by
  rw [State.recoverDone_eq, State.served_recover, State.served_recover, State.served_recover]
  exact ⟨State.recoverResult_result .., State.recoverResult_busy .., s.recoverEnded_unbound⟩

theorem State.recoverDone_service (s : State) :
    s.recoverDone.sup.phase = .service ∧ s.recoverDone.sup.faultLow = false ∧ s.recoverDone.sup.svcLow = true ∧
      s.recoverDone.wch.fatal = none ∧ s.recoverDone.sup.causes = [] := by
  rw [State.recoverDone_eq]
  exact ⟨rfl, rfl, rfl, rfl, rfl⟩

theorem State.recoverDone_keepsGroves {s : State} (h : s.sup.causes.any controlClass = false) :
    s.recoverDone.grv.groves = s.grv.groves := by
  rw [State.recoverDone_grv, State.controlUnbound, if_neg (Bool.eq_false_iff.mp h)]

theorem State.recoverDone_unbinds {s : State} (h : s.sup.causes.any controlClass = true) {g : Nat} (hg : g < 16) :
    (s.recoverDone.grove g).bound = false := by
  unfold State.grove
  rw [State.recoverDone_grv, State.controlUnbound, if_pos h]
  exact s.unbindGroves_all hg

/-! ## Links that train on all of their modules (R91) -/

/-- The state in which a link is up on all of its modules. -/
def State.linkUp (s : State) (k lanes : Nat) : State :=
  s.modHlk k fun _ => { state := 2, modulesUp := 2 ^ modulesFitted k - 1, lanesRepaired := lanes }

theorem modulesFitted_pos (k : Nat) : 0 < modulesFitted k := by
  unfold modulesFitted
  split <;> decide

theorem State.hlk_modHlk_same (s : State) (k : Nat) (f : HLink → HLink) : (s.modHlk k f).hlk k = f (s.hlk k) :=
  tgetD_tmod_same ..

theorem State.hlk_modHlk_other (s : State) {j k : Nat} (f : HLink → HLink) (h : j ≠ k) : (s.modHlk k f).hlk j = s.hlk j :=
  tgetD_tmod_other _ _ _ _ h

/-- A link every module of which trains loses none, and has nothing waiting. -/
theorem State.hlkTrained_all (s : State) (k lanes : Nat) :
    s.hlkTrained k (2 ^ modulesFitted k - 1) lanes (2 ^ modulesFitted k - 1) true =
      (s.linkUp k lanes).modHlk k fun x => { x with waiting := [] } := by
  have hpos := Nat.one_lt_two_pow (modulesFitted_pos k).ne'
  have hall : (2 ^ modulesFitted k - 1) % 2 ^ modulesFitted k = 2 ^ modulesFitted k - 1 := Nat.mod_eq_of_lt (by omega)
  have hnone : ((List.range (modulesFitted k)).filter fun i =>
      (2 ^ modulesFitted k - 1).testBit i && !(2 ^ modulesFitted k - 1).testBit i) = [] := by simp
  unfold State.hlkTrained
  dsimp only
  rw [hall, hnone, if_neg (by omega), if_neg (by omega), if_pos rfl]
  unfold State.hlkPump
  dsimp only
  rw [State.hlk_modHlk_same]
  rfl

theorem State.hlkTrained_up (s : State) (k lanes : Nat) {j : Nat} :
    ((s.hlkTrained k (2 ^ modulesFitted k - 1) lanes (2 ^ modulesFitted k - 1) true).hlk j).state =
      if j = k then 2 else (s.hlk j).state := by
  rw [State.hlkTrained_all, State.linkUp]
  split
  next h => rw [h, State.hlk_modHlk_same, State.hlk_modHlk_same]
  next h => rw [State.hlk_modHlk_other _ _ h, State.hlk_modHlk_other _ _ h]

theorem State.hlkTrained_keeps (s : State) (k lanes : Nat) :
    (s.hlkTrained k (2 ^ modulesFitted k - 1) lanes (2 ^ modulesFitted k - 1) true).sup = s.sup ∧
      (s.hlkTrained k (2 ^ modulesFitted k - 1) lanes (2 ^ modulesFitted k - 1) true).mem = s.mem := by
  rw [State.hlkTrained_all]
  exact ⟨rfl, rfl⟩

end Sys2Proof.Machine
end

section
/-! PROOFS. RECOVER, relock and training of the in-package links (R91, R596, R663, R664, R669). -/
namespace Sys2Proof.Machine

/-- A link that has not trained is trained. -/
theorem State.hlkTraining_step {s : State} {k : Nat} (h : (s.hlk k).state = 0) (t : State) :
    (if (s.hlk k).carries || s.sup.phase == .ash && (s.hlk k).state == 4 then s else t) = t := by
  have hcarries : (s.hlk k).carries = false := by
    unfold HLink.carries
    rw [h]
    rfl
  rw [hcarries, h]
  exact if_neg (by simp)

/-- The state in which a link has trained on all of its modules. -/
def State.hlkAll (s : State) (k : Nat) : State :=
  s.hlkTrained k (2 ^ modulesFitted k - 1) 0 (2 ^ modulesFitted k - 1) true

theorem State.hlkAll_other (s : State) {j k : Nat} (h : j ≠ k) : ((s.hlkAll k).hlk j).state = (s.hlk j).state :=
  (s.hlkTrained_up k 0).trans (if_neg h)

theorem State.hlkAll_same (s : State) (k : Nat) : ((s.hlkAll k).hlk k).state = 2 := (s.hlkTrained_up k 0).trans (if_pos rfl)

/-- Three links that have not trained train on all of their modules, one after the other. -/
theorem State.hlkTraining_all {s : State} (h : ∀ k, (s.hlk k).state = 0) :
    s.hlkTraining (2 ^ modulesFitted 0 - 1, 0) (2 ^ modulesFitted 1 - 1, 0) (2 ^ modulesFitted 2 - 1, 0) =
      ((s.hlkAll 0).hlkAll 1).hlkAll 2 := by
  have hsecond : ((s.hlkAll 0).hlk 1).state = 0 := (s.hlkAll_other (by decide)).trans (h 1)
  have hthird : (((s.hlkAll 0).hlkAll 1).hlk 2).state = 0 :=
    ((s.hlkAll 0).hlkAll_other (by decide)).trans ((s.hlkAll_other (by decide)).trans (h 2))
  unfold State.hlkTraining State.each
  rw [List.foldl_cons, List.foldl_cons, List.foldl_cons, List.foldl_nil]
  dsimp only
  rw [State.hlkTraining_step (h 0), ← State.hlkAll, State.hlkTraining_step hsecond, ← State.hlkAll,
    State.hlkTraining_step hthird, ← State.hlkAll]

/-- Three links that have not trained come up, and the device is else as it was. -/
theorem State.hlkTraining_comesUp {s : State} (h : ∀ k, (s.hlk k).state = 0) :
    ∃ t, s.hlkTraining (2 ^ modulesFitted 0 - 1, 0) (2 ^ modulesFitted 1 - 1, 0) (2 ^ modulesFitted 2 - 1, 0) = t ∧
      t.ucieUp = true ∧ t.sup = s.sup ∧ t.mem = s.mem := by
  refine ⟨_, State.hlkTraining_all h, ?_, ?_, ?_⟩
  · have hfirst : (((s.hlkAll 0).hlkAll 1).hlkAll 2 |>.hlk 0).state = 2 := by
      rw [State.hlkAll_other _ (by decide), State.hlkAll_other _ (by decide), State.hlkAll_same]
    have hsecond : (((s.hlkAll 0).hlkAll 1).hlkAll 2 |>.hlk 1).state = 2 := by
      rw [State.hlkAll_other _ (by decide), State.hlkAll_same]
    have hthird : (((s.hlkAll 0).hlkAll 1).hlkAll 2 |>.hlk 2).state = 2 := State.hlkAll_same ..
    unfold State.hlk at hfirst hsecond hthird
    simp [State.ucieUp, hfirst, hsecond, hthird]
  · exact (State.hlkTrained_keeps ..).1.trans ((State.hlkTrained_keeps ..).1.trans (s.hlkTrained_keeps ..).1)
  · exact (State.hlkTrained_keeps ..).2.trans ((State.hlkTrained_keeps ..).2.trans (s.hlkTrained_keeps ..).2)

/-- Outside a recovery that waits for a reference, the PLLs relock. -/
theorem exec_pllRelocked {s : State} (hheld : s.sup.recovery ≠ .resetHeld) (hwait : s.sup.recovery ≠ .waitReference) :
    exec .pllRelocked s = .next s.relock :=
  congrArg Host.Outcome.next ((State.unheld_of hheld _).trans (if_neg fun h => hwait (beq_iff_eq.mp h)))

/-- Settles O55: RECOVER is judged by the phase and the causes; a warm reset then rests the device, the training's end
serves it, and a relock changes the clocks only. -/
theorem recovery : Obligations.Recovery := by
  unfold Obligations.Recovery
  refine ⟨fun s v a b c hheld => ⟨fun hbusy hash => ⟨fun hcleared => ?recovers, fun huncleared hroom => ?cause⟩,
      fun hbusy hphase => ?outside, fun _ htraining hup hcauses hstill => ?trained, fun hrun hplain => ?plain⟩,
    fun s x y z hheld hwait => ⟨fun hgood => ?locks, fun hno0 hno1 => ?waits,
      fun hrun hplain hphase hlinks hx hy hz => ?kindles⟩⟩
  case recovers =>
    have hwritten : (s.putReg .GLB_RECOVER [] (s.recoverWord v 2)).sup.causes.all (fun c =>
        (s.putReg .GLB_RECOVER [] (s.recoverWord v 2)).causeCleared c) = true :=
      (congrArg s.sup.causes.all (funext fun c => s.causeCleared_putRecover _ c)).trans hcleared
    exact ⟨_, exec_recover v hheld hbusy, State.recover_begins hash hwritten⟩
  case cause =>
    have hwritten : (s.putReg .GLB_RECOVER [] (s.recoverWord v 2)).sup.causes.all (fun c =>
        (s.putReg .GLB_RECOVER [] (s.recoverWord v 2)).causeCleared c) = false :=
      (congrArg s.sup.causes.all (funext fun c => s.causeCleared_putRecover _ c)).trans huncleared
    have hrefused := State.recover_uncleared (s := s.putReg .GLB_RECOVER [] (s.recoverWord v 2)) hash hwritten
    obtain ⟨hresult, hmem⟩ := (s.putReg .GLB_RECOVER [] (s.recoverWord v 2)).recoverRefused_result 2 3
    obtain ⟨r, hr, hsrc, hsev, hcode⟩ := State.recoverRefused_record (s := s.putReg .GLB_RECOVER [] (s.recoverWord v 2)) 2 3
      ((s.logRoom_putRecover _).trans hroom)
    exact ⟨_, r, (exec_recover v hheld hbusy).trans (congrArg _ hrefused), hresult, hr, hsrc, hsev, hcode, hmem,
      (State.recoverRefused_sup ..).1.trans hash⟩
  case outside =>
    have hrefused := State.recover_outside (s := s.putReg .GLB_RECOVER [] (s.recoverWord v 2)) hphase
    obtain ⟨hresult, hmem⟩ := (s.putReg .GLB_RECOVER [] (s.recoverWord v 2)).recoverRefused_result 2 2
    exact ⟨_, (exec_recover v hheld hbusy).trans (congrArg _ hrefused), hresult, (State.recoverRefused_sup ..).1, hmem⟩
  case trained =>
    obtain ⟨hservice, hfault, hsvc, hfatal, hnone⟩ := (s.hlkTraining a b c).recoverDone_service
    obtain ⟨hresult, hidle, hunbound⟩ := (s.hlkTraining a b c).recoverDone_recover
    rw [hcauses] at hunbound
    exact ⟨_, exec_hlkTrainingDone_recovers htraining hup hstill, hservice, hfault, hsvc, hfatal, hnone, hresult, hidle,
      hunbound, fun h => State.recoverDone_keepsGroves (hcauses ▸ h), fun h g hg => State.recoverDone_unbinds (hcauses ▸ h) hg⟩
  case plain => exact exec_hlkTrainingDone_plain hrun hplain a b c
  case locks =>
    obtain ⟨hbanked, hstatus, hactive, hkept, f, hf⟩ := State.relock_locks (Bool.or_eq_true _ _ ▸ hgood)
    exact ⟨_, exec_pllRelocked hheld hwait, hbanked, hstatus, hactive, hkept, by rw [hf]; rfl⟩
  case waits =>
    exact (exec_pllRelocked hheld hwait).trans (congrArg _ (State.relock_bad (by rw [hno0, hno1]; rfl)))
  case kindles =>
    subst hx hy hz
    have hdown : ∀ k, (s.hlk k).state = 0 := fun k => by rw [State.hlk, hlinks]; rfl
    obtain ⟨t, ht, hup, hsup, hmem⟩ := State.hlkTraining_comesUp hdown
    exact ⟨t, (exec_hlkTrainingDone_plain hrun hplain _ _ _).trans (congrArg _ ht), hup,
      (congrArg (·.phase) hsup).trans hphase, hmem⟩

end Sys2Proof.Machine
end

section
/-! PROOFS. Over any run the non-renewable counters and the memory keys' epoch never fall (R150, R631, R639; O7). -/
namespace Sys2Proof.Machine

/-- The meaning of every command keeps what `Kept` lists. -/
theorem exec_kept {s t : State} : (i : Instr) → exec i s = .next t → Kept s t
  | .registerWrite .., h => execRegisterWrite_kept _ _ _ (Kept.refl _) h
  | .glbDevnumWrite .., h => execGlbDevnumWrite_kept _ (Kept.refl _) h
  | .batchGo .., h => execBatchGo_kept _ (Kept.refl _) h
  | .batchQuiesceDone, h => execBatchQuiesceDone_kept (Kept.refl _) h
  | .quiesceTimeout .., h => execQuiesceTimeout_kept _ (Kept.refl _) h
  | .resourceClearDone, h => execResourceClearDone_kept (Kept.refl _) h
  | .scrubAdvance .., h => execScrubAdvance_kept _ (Kept.refl _) h
  | .staleGroveNak .., h => execStaleGroveNak_kept _ (Kept.refl _) h
  | .budgetPeriodStart .., h => execBudgetPeriodStart_kept _ _ (Kept.refl _) h
  | .grvBudgetWrite .., h => execGrvBudgetWrite_kept _ _ _ _ (Kept.refl _) h
  | .bindingDigestCheck .., h => execBindingDigestCheck_kept _ _ (Kept.refl _) h
  | .hlkFlitReceive .., h => execHlkFlitReceive_kept _ _ (Kept.refl _) h
  | .hlkNakReceive .., h => execHlkNakReceive_kept _ _ (Kept.refl _) h
  | .hlkReplayTimeout .., h => execHlkReplayTimeout_kept _ (Kept.refl _) h
  | .hlkRetrainDone .., h => execHlkRetrainDone_kept _ _ _ (Kept.refl _) h
  | .queueDoorbell .., h => execQueueDoorbell_kept _ _ (Kept.refl _) h
  | .commandFetch .., h => execCommandFetch_kept _ (Kept.refl _) h
  | .queueEnable .., h => execQueueEnable_kept _ _ (Kept.refl _) h
  | .queueEnableTakeEffect .., h => execQueueEnableTakeEffect_kept _ (Kept.refl _) h
  | .queueDisable .., h => execQueueDisable_kept _ _ (Kept.refl _) h
  | .tlsConnect .., h => execTlsConnect_kept _ _ (Kept.refl _) h
  | .sessionIdleTimeout .., h => execSessionIdleTimeout_kept _ (Kept.refl _) h
  | .rdmaRequest .., h => execRdmaRequest_kept _ _ (Kept.refl _) h
  | .inject .., h => execInject_kept _ _ (Kept.refl _) h
  | .injectPlace .., h => execInjectPlace_kept _ _ (Kept.refl _) h
  | .taskDispatch .., h => execTaskDispatch_kept _ _ _ (Kept.refl _) h
  | .taskComplete .., h => execTaskComplete_kept _ _ _ (Kept.refl _) h
  | .kntSignal .., h => execKntSignal_kept _ _ (Kept.refl _) h
  | .kntInit .., h => execKntInit_kept _ _ (Kept.refl _) h
  | .knotSignalMessage .., h => execKnotSignalMessage_kept _ _ _ (Kept.refl _) h
  | .schClearHighWater .., h => execSchClearHighWater_kept _ (Kept.refl _) h
  | .schClearCounters .., h => execSchClearCounters_kept _ (Kept.refl _) h
  | .streamSet .., h => execStreamSet_kept _ _ (Kept.refl _) h
  | .progLoad .., h => execProgLoad_kept _ _ (Kept.refl _) h
  | .progUnload .., h => execProgUnload_kept _ _ (Kept.refl _) h
  | .smpAdjReadReturn .., h => execSmpAdjReadReturn_kept _ _ _ (Kept.refl _) h
  | .adjRange .., h => execAdjRange_kept _ _ _ (Kept.refl _) h
  | .adjPick .., h => execAdjPick_kept _ _ _ (Kept.refl _) h
  | .adjResponseReceive .., h => execAdjResponseReceive_kept _ _ _ (Kept.refl _) h
  | .smpRemoteTimeout .., h => execSmpRemoteTimeout_kept _ _ (Kept.refl _) h
  | .gather .., h => execGather_kept _ _ (Kept.refl _) h
  | .scatter .., h => execScatter_kept _ _ (Kept.refl _) h
  | .scatterClose .., h => execScatterClose_kept _ _ (Kept.refl _) h
  | .gthCommandStart .., h => execGthCommandStart_kept _ _ _ (Kept.refl _) h
  | .rowRead .., h => execRowRead_kept _ _ _ (Kept.refl _) h
  | .rowReadRelease .., h => execRowReadRelease_kept _ _ _ (Kept.refl _) h
  | .rowAccumulate .., h => execRowAccumulate_kept _ _ _ (Kept.refl _) h
  | .rowDataReceive .., h => execRowDataReceive_kept _ _ (Kept.refl _) h
  | .accumulateAckReceive _ _ x, h => execAccumulateAckReceive_kept _ _ x (Kept.refl _) h
  | .negativeResponseReceive .., h => execNegativeResponseReceive_kept _ _ _ _ (Kept.refl _) h
  | .gthRemoteTimeout .., h => execGthRemoteTimeout_kept _ _ _ (Kept.refl _) h
  | .gthMergeQuotaWrite .., h => execGthMergeQuotaWrite_kept _ _ _ (Kept.refl _) h
  | .tableLoad .., h => execTableLoad_kept _ _ (Kept.refl _) h
  | .tableDrop .., h => execTableDrop_kept _ _ (Kept.refl _) h
  | .regraftBegin .., h => execRegraftBegin_kept _ _ (Kept.refl _) h
  | .scionBegin .., h => execScionBegin_kept _ _ (Kept.refl _) h
  | .dirStage .., h => execDirStage_kept _ _ (Kept.refl _) h
  | .dirUnstage .., h => execDirUnstage_kept _ _ (Kept.refl _) h
  | .pendAbandon .., h => execPendAbandon_kept _ _ (Kept.refl _) h
  | .heatRead .., h => execHeatRead_kept _ _ (Kept.refl _) h
  | .regraftCopyReceive .., h => execRegraftCopyReceive_kept _ _ _ (Kept.refl _) h
  | .regraftCopyAck .., h => execRegraftCopyAck_kept _ _ (Kept.refl _) h
  | .regraftCopyTimeout .., h => execRegraftCopyTimeout_kept _ _ (Kept.refl _) h
  | .flipDoneReceive _ _ _ _ x, h => execFlipDoneReceive_kept _ _ _ _ x (Kept.refl _) h
  | .scionCopyReceive .., h => execScionCopyReceive_kept _ _ _ (Kept.refl _) h
  | .scionCopyAck .., h => execScionCopyAck_kept _ _ (Kept.refl _) h
  | .scionRefreshReceive .., h => execScionRefreshReceive_kept _ _ _ (Kept.refl _) h
  | .refreshDoneReceive .., h => execRefreshDoneReceive_kept _ _ (Kept.refl _) h
  | .embEntryQuotaWrite .., h => execEmbEntryQuotaWrite_kept _ _ (Kept.refl _) h
  | .abftCheckDone .., h => execAbftCheckDone_kept _ (Kept.refl _) h
  | .abftMismatchReport .., h => execAbftMismatchReport_kept _ (Kept.refl _) h
  | .tilAbftTolWrite .., h => execTilAbftTolWrite_kept _ _ (Kept.refl _) h
  | .tilAbftAbsWrite .., h => execTilAbftAbsWrite_kept _ _ (Kept.refl _) h
  | .updRowbufWrite .., h => execUpdRowbufWrite_kept _ _ _ (Kept.refl _) h
  | .memRequest .., h => execMemRequest_kept _ _ (Kept.refl _) h
  | .nearMemoryAccumulate .., h => execNearMemoryAccumulate_kept _ (Kept.refl _) h
  | .wcbAgeEvict .., h => execWcbAgeEvict_kept _ _ (Kept.refl _) h
  | .patrolScrubRead .., h => execPatrolScrubRead_kept _ _ (Kept.refl _) h
  | .memMrRead .., h => execMemMrRead_kept _ _ (Kept.refl _) h
  | .memMrWrite .., h => execMemMrWrite_kept _ _ (Kept.refl _) h
  | .memSoftRepair .., h => execMemSoftRepair_kept _ _ (Kept.refl _) h
  | .memHardRepair .., h => execMemHardRepair_kept _ _ (Kept.refl _) h
  | .memQueryRepair .., h => execMemQueryRepair_kept _ _ (Kept.refl _) h
  | .softRepairResult .., h => execSoftRepairResult_kept _ _ _ (Kept.refl _) h
  | .hardRepairDone .., h => execHardRepairDone_kept _ _ (Kept.refl _) h
  | .mapoutGo .., h => execMapoutGo_kept _ _ (Kept.refl _) h
  | .mapoutCopyDone .., h => execMapoutCopyDone_kept _ _ (Kept.refl _) h
  | .memChmapSetWrite .., h => execMemChmapSetWrite_kept _ _ (Kept.refl _) h
  | .stackTempSample .., h => execStackTempSample_kept _ _ (Kept.refl _) h
  | .lnkFlitReceive .., h => execLnkFlitReceive_kept _ _ _ _ (Kept.refl _) h
  | .lnkNakReceive .., h => execLnkNakReceive_kept _ _ (Kept.refl _) h
  | .lnkReplayTimeout .., h => execLnkReplayTimeout_kept _ (Kept.refl _) h
  | .lnkIdleSend .., h => execLnkIdleSend_kept _ (Kept.refl _) h
  | .portEnable .., h => execPortEnable_kept _ _ (Kept.refl _) h
  | .portDisable .., h => execPortDisable_kept _ _ (Kept.refl _) h
  | .portRetrain .., h => execPortRetrain_kept _ _ (Kept.refl _) h
  | .trainSignalDetect .., h => execTrainSignalDetect_kept _ _ (Kept.refl _) h
  | .trainEqualiseDone .., h => execTrainEqualiseDone_kept _ _ (Kept.refl _) h
  | .trainAlignDone .., h => execTrainAlignDone_kept _ _ (Kept.refl _) h
  | .identityExchange .., h => execIdentityExchange_kept _ _ (Kept.refl _) h
  | .retrainDone .., h => execRetrainDone_kept _ _ _ (Kept.refl _) h
  | .retrainBoundExpiry .., h => execRetrainBoundExpiry_kept _ _ (Kept.refl _) h
  | .laneLockTimeout .., h => execLaneLockTimeout_kept _ _ (Kept.refl _) h
  | .laneRemoveMessage .., h => execLaneRemoveMessage_kept _ _ (Kept.refl _) h
  | .lnkCreditCfgWrite .., h => execLnkCreditCfgWrite_kept _ _ (Kept.refl _) h
  | .lnkTorusWrite .., h => execLnkTorusWrite_kept _ (Kept.refl _) h
  | .lnkBundleWrite .., h => execLnkBundleWrite_kept _ (Kept.refl _) h
  | .lnkStandinWrite .., h => execLnkStandinWrite_kept _ _ (Kept.refl _) h
  | .schedLoad .., h => execSchedLoad_kept _ _ (Kept.refl _) h
  | .schedDrop .., h => execSchedDrop_kept _ _ (Kept.refl _) h
  | .stepOpen .., h => execStepOpen_kept _ _ (Kept.refl _) h
  | .stepVoid .., h => execStepVoid_kept _ _ (Kept.refl _) h
  | .contributionSend .., h => execContributionSend_kept _ _ _ (Kept.refl _) h
  | .contributionReceive .., h => execContributionReceive_kept _ _ _ (Kept.refl _) h
  | .contributionAckReceive _ _ _ x, h => execContributionAckReceive_kept _ _ _ x (Kept.refl _) h
  | .contributionTimeout .., h => execContributionTimeout_kept _ _ _ (Kept.refl _) h
  | .partialMessageTimeout .., h => execPartialMessageTimeout_kept _ _ _ (Kept.refl _) h
  | .reductionDeadline .., h => execReductionDeadline_kept _ _ _ (Kept.refl _) h
  | .bcastPieceReceive .., h => execBcastPieceReceive_kept _ _ _ (Kept.refl _) h
  | .bcastAckReceive .., h => execBcastAckReceive_kept _ _ _ (Kept.refl _) h
  | .bcastPieceTimeout .., h => execBcastPieceTimeout_kept _ _ _ (Kept.refl _) h
  | .bcastCompletionTimeout .., h => execBcastCompletionTimeout_kept _ _ (Kept.refl _) h
  | .cleanReportSend .., h => execCleanReportSend_kept _ (Kept.refl _) h
  | .voidAckSend .., h => execVoidAckSend_kept _ (Kept.refl _) h
  | .commitReportReceive .., h => execCommitReportReceive_kept _ _ (Kept.refl _) h
  | .commitRelease .., h => execCommitRelease_kept _ _ (Kept.refl _) h
  | .voidReceive .., h => execVoidReceive_kept _ _ (Kept.refl _) h
  | .commitTimeout .., h => execCommitTimeout_kept _ (Kept.refl _) h
  | .voidBarrierTimeout .., h => execVoidBarrierTimeout_kept _ (Kept.refl _) h
  | .stepCommitComplete .., h => execStepCommitComplete_kept _ (Kept.refl _) h
  | .updLoad .., h => execUpdLoad_kept _ _ (Kept.refl _) h
  | .updDrop .., h => execUpdDrop_kept _ _ (Kept.refl _) h
  | .updConst .., h => execUpdConst_kept _ _ (Kept.refl _) h
  | .wchLogTailWrite .., h => execWchLogTailWrite_kept _ (Kept.refl _) h
  | .wchLogStateWrite .., h => execWchLogStateWrite_kept _ (Kept.refl _) h
  | .tileExclude .., h => execTileExclude_kept _ (Kept.refl _) h
  | .tileReadmit .., h => execTileReadmit_kept _ (Kept.refl _) h
  | .recomputeDone .., h => execRecomputeDone_kept _ _ (Kept.refl _) h
  | .ftRun .., h => execFtRun_kept _ _ (Kept.refl _) h
  | .ftAbort .., h => execFtAbort_kept _ _ (Kept.refl _) h
  | .ftDone .., h => execFtDone_kept _ _ _ _ (Kept.refl _) h
  | .planLoad .., h => execPlanLoad_kept _ _ (Kept.refl _) h
  | .fire .., h => execFire_kept _ _ (Kept.refl _) h
  | .klnAbort .., h => execKlnAbort_kept _ _ (Kept.refl _) h
  | .restore .., h => execRestore_kept _ _ (Kept.refl _) h
  | .probe .., h => execProbe_kept _ _ (Kept.refl _) h
  | .kilnDestAck .., h => execKilnDestAck_kept _ _ (Kept.refl _) h
  | .kilnCaptureDone .., h => execKilnCaptureDone_kept _ (Kept.refl _) h
  | .kilnTouchDone .., h => execKilnTouchDone_kept _ _ _ (Kept.refl _) h
  | .kilnDrainReceive .., h => execKilnDrainReceive_kept _ _ _ (Kept.refl _) h
  | .kilnDrainTimeout .., h => execKilnDrainTimeout_kept _ (Kept.refl _) h
  | .restoreDataReceive .., h => execRestoreDataReceive_kept _ _ (Kept.refl _) h
  | .clkMonitorWindow .., h => execClkMonitorWindow_kept _ _ _ (Kept.refl _) h
  | .refEdgeDetect .., h => execRefEdgeDetect_kept _ (Kept.refl _) h
  | .refEdgeLoss .., h => execRefEdgeLoss_kept _ (Kept.refl _) h
  | .refQualWindow .., h => execRefQualWindow_kept _ _ _ (Kept.refl _) h
  | .refCrossCheck .., h => execRefCrossCheck_kept _ (Kept.refl _) h
  | .pllUnlock .., h => execPllUnlock_kept _ (Kept.refl _) h
  | .pllRelocked, h => execPllRelocked_kept (Kept.refl _) h
  | .clkRefSelWrite .., h => execClkRefSelWrite_kept _ (Kept.refl _) h
  | .refSwitchDone, h => execRefSwitchDone_kept (Kept.refl _) h
  | .pwrOpReqWrite .., h => execPwrOpReqWrite_kept _ _ (Kept.refl _) h
  | .dvfsPllLocked .., h => execDvfsPllLocked_kept _ (Kept.refl _) h
  | .dvfsVoltageSettled .., h => execDvfsVoltageSettled_kept _ (Kept.refl _) h
  | .railSample .., h => execRailSample_kept _ _ (Kept.refl _) h
  | .vinOutOfWindow .., h => execVinOutOfWindow_kept _ (Kept.refl _) h
  | .pscTlmFrame .., h => execPscTlmFrame_kept _ _ _ (Kept.refl _) h
  | .pscTlmMissing, h => execPscTlmMissing_kept (Kept.refl _) h
  | .pscFault, h => execPscFault_kept (Kept.refl _) h
  | .auxSupplyUp .., h => execAuxSupplyUp_kept _ (Kept.refl _) h
  | .vinInWindow, h => execVinInWindow_kept (Kept.refl _) h
  | .pscPowerGood, h => execPscPowerGood_kept (Kept.refl _) h
  | .pwrSmoulderEnter .., h => execPwrSmoulderEnter_kept _ (Kept.refl _) h
  | .pwrSmoulderLeave .., h => execPwrSmoulderLeave_kept _ (Kept.refl _) h
  | .smoulderEntryDone, h => execSmoulderEntryDone_kept (Kept.refl _) h
  | .smoulderExitDone, h => execSmoulderExitDone_kept (Kept.refl _) h
  | .dieTempSample .., h => execDieTempSample_kept _ _ _ _ (Kept.refl _) h
  | .thermalClampStep .., h => execThermalClampStep_kept _ (Kept.refl _) h
  | .powerCapAverage .., h => execPowerCapAverage_kept _ (Kept.refl _) h
  | .inputOvercurrent, h => execInputOvercurrent_kept (Kept.refl _) h
  | .droopRelease, h => execDroopRelease_kept (Kept.refl _) h
  | .pwrCapWrite .., h => execPwrCapWrite_kept _ (Kept.refl _) h
  | .pwrThermCfgWrite .., h => execPwrThermCfgWrite_kept _ (Kept.refl _) h
  | .heartwoodBoot .., h => execHeartwoodBoot_kept _ _ _ _ (Kept.refl _) h
  | .attest .., h => execAttest_kept _ _ (Kept.refl _) h
  | .identRead .., h => execIdentRead_kept _ _ (Kept.refl _) h
  | .measureExtend .., h => execMeasureExtend_kept _ (Kept.refl _) h
  | .provisionSet .., h => execProvisionSet_kept _ _ (Kept.refl _) h
  | .rollbackCommit .., h => execRollbackCommit_kept _ _ (Kept.refl _) h
  | .loadRuntime .., h => execLoadRuntime_kept _ _ _ (Kept.refl _) h
  | .service .., h => execService_kept _ (Kept.refl _) h
  | .recover .., h => execRecover_kept _ (Kept.refl _) h
  | .warmReset .., h => execWarmReset_kept _ (Kept.refl _) h
  | .coldReset .., h => execColdReset_kept _ (Kept.refl _) h
  | .groveReset .., h => execGroveReset_kept _ (Kept.refl _) h
  | .forceAsh .., h => execForceAsh_kept _ (Kept.refl _) h
  | .resetNLow .., h => execResetNLow_kept _ (Kept.refl _) h
  | .smbusRegRead .., h => execSmbusRegRead_kept _ (Kept.refl _) h
  | .smbusRegWrite .., h => execSmbusRegWrite_kept _ _ (Kept.refl _) h
  | .smbusImgBegin .., h => execSmbusImgBegin_kept _ _ (Kept.refl _) h
  | .smbusImgData .., h => execSmbusImgData_kept _ _ (Kept.refl _) h
  | .smbusImgEnd .., h => execSmbusImgEnd_kept _ (Kept.refl _) h
  | .smbusImgStatus, h => execSmbusImgStatus_kept (Kept.refl _) h
  | .smbusAlertResponse, h => execSmbusAlertResponse_kept (Kept.refl _) h
  | .tapTestEntry .., h => execTapTestEntry_kept _ (Kept.refl _) h
  | .tapTestExit, h => execTapTestExit_kept (Kept.refl _) h
  | .resetNRelease .., h => execResetNRelease_kept _ (Kept.refl _) h
  | .laneLockLoss .., h => execLaneLockLoss_kept _ (Kept.refl _) h
  | .hlkTrainingDone .., h => execHlkTrainingDone_kept _ _ _ (Kept.refl _) h
  | .memPhyTrainingDone .., h => execMemPhyTrainingDone_kept _ (Kept.refl _) h
  | .ethLinkTrainingDone .., h => execEthLinkTrainingDone_kept _ (Kept.refl _) h
  | .rdmaResponseReceive .., h => execRdmaResponseReceive_kept _ _ (Kept.refl _) h
  | .tlsSessionMessage .., h => execTlsSessionMessage_kept _ _ (Kept.refl _) h
  | .refreshAckReceive .., h => execRefreshAckReceive_kept _ _ (Kept.refl _) h
  | .regraftMirrorReceive .., h => execRegraftMirrorReceive_kept _ _ _ (Kept.refl _) h
  | .localRowReadReturn .., h => execLocalRowReadReturn_kept _ _ _ (Kept.refl _) h

/-- What never falls: the rollback counter, the LMS index and the epoch of the memory keys. -/
structure CountersRise (s t : State) : Prop where
  rollback : s.hwd.rollback ≤ t.hwd.rollback
  lms : s.hwd.lmsIndex ≤ t.hwd.lmsIndex
  epoch : s.mem.hearthEpoch ≤ t.mem.hearthEpoch

theorem CountersRise.refl (s : State) : CountersRise s s := ⟨Nat.le_refl _, Nat.le_refl _, Nat.le_refl _⟩

theorem CountersRise.trans {s t u : State} (h : CountersRise s t) (k : CountersRise t u) : CountersRise s u :=
  ⟨h.rollback.trans k.rollback, h.lms.trans k.lms, h.epoch.trans k.epoch⟩

theorem Kept.countersRise {s t : State} (h : Kept s t) : CountersRise s t := ⟨h.rollback, h.lms, h.epoch⟩

/-- A step is an idle tick, or the front command on the state with the queue's rest, whose counters are the same. -/
theorem step_countersRise {s t : State} (h : step s = .next t) : CountersRise s t := by
  unfold step at h
  split at h
  next =>
    obtain rfl := Host.Outcome.next.inj h
    exact (State.unheld_kept (Kept.refl s) fun _ => State.tick_kept).countersRise
  next i rest _ =>
    obtain ⟨hrollback, hlms, hepoch⟩ := (exec_kept i h).countersRise
    exact ⟨hrollback, hlms, hepoch⟩

/-- What every step does, and what goes through from step to step, every run does. -/
theorem run_relates (M : Host.Core) {R : M.State → M.State → Prop} (hrefl : ∀ s, R s s)
    (htrans : ∀ {s t u}, R s t → R t u → R s u) (hstep : ∀ {s t}, M.step s = .next t → R s t) (k : Nat)
    {s t : M.State} (h : M.run k s = .next t) : R s t := by
  induction k generalizing s with
  | zero => exact Host.Outcome.next.inj h ▸ hrefl s
  | succ k ih =>
    unfold Host.Core.run at h
    split at h
    next hnext => exact htrans (hstep hnext) (ih h)
    all_goals cases h

theorem run_countersRise (k : Nat) {s t : State} (h : core.run k s = .next t) : CountersRise s t :=
  run_relates core CountersRise.refl CountersRise.trans step_countersRise k h

/-- Settles O7: every command of the table keeps the counters from falling, so every step and every run does. -/
theorem countersNeverFall : Obligations.CountersNeverFall := by
  unfold Obligations.CountersNeverFall
  intro k s t hrun
  obtain ⟨hrollback, hlms, hepoch⟩ := run_countersRise k hrun
  exact ⟨hrollback, hlms, hepoch⟩

end Sys2Proof.Machine
end

section
/-! PROOFS. What records, messages and writes leave of the schedulers and the queues. -/
namespace Sys2Proof.Machine

/-- The schedulers and the hearth die's queues. -/
def State.taskSide (s : State) : SchedState × HearthState := (s.sch, s.hrt)

theorem State.sch_of_taskSide {s t : State} (h : t.taskSide = s.taskSide) : t.sch = s.sch := congrArg Prod.fst h

theorem State.hrt_of_taskSide {s t : State} (h : t.taskSide = s.taskSide) : t.hrt = s.hrt := congrArg Prod.snd h

theorem Noted.taskSide {s t : State} (h : Noted s t) : t.taskSide = s.taskSide := by
  simp only [State.taskSide, h.sch, h.hrt]

theorem State.taskSide_foldl {α β : Type} {f : State × β → α → State × β}
    (h : ∀ q x, (f q x).1.taskSide = q.1.taskSide) (q : State × β) (l : List α) :
    (l.foldl f q).1.taskSide = q.1.taskSide := by
  induction l generalizing q with
  | nil => rfl
  | cons x l ih => exact (ih _).trans (h q x)

theorem State.taskSide_each {α : Type} {f : State → α → State} (h : ∀ b x, (f b x).taskSide = b.taskSide) (s : State)
    (l : List α) : (s.each l f).taskSide = s.taskSide :=
  State.each_keeps (P := fun b => b.taskSide = s.taskSide) (fun b x hb => (h b x).trans hb) l rfl

section
variable (s : State)

@[simp] theorem State.taskSide_putReg (r : Reg) (ix : List Nat) (v : Word) : (s.putReg r ix v).taskSide = s.taskSide := (rfl)

@[simp] theorem State.taskSide_record (src : Src) (sev : Sev) (die code : Nat) (grove : Option Nat) (detail : Nat) :
    (s.record src sev die code grove detail).taskSide = s.taskSide :=
  (State.record_noted src sev die code grove detail (Noted.refl s)).taskSide

@[simp] theorem State.taskSide_bump (r : Reg) (ix : List Nat) (n : Nat) : (s.bump r ix n).taskSide = s.taskSide :=
  (State.bump_noted r ix n (Noted.refl s)).taskSide

/-! ## Messages -/

@[simp] theorem State.taskSide_emit (m : Msg) : (s.emit m).taskSide = s.taskSide := (rfl)

@[simp] theorem State.taskSide_modPort (p : Nat) (f : Port → Port) : (s.modPort p f).taskSide = s.taskSide := (rfl)

@[simp] theorem State.taskSide_bumpPort (p : Nat) (t b : Reg) (n : Nat) : (s.bumpPort p t b n).taskSide = s.taskSide := by
  unfold State.bumpPort
  split <;> simp

@[simp] theorem State.taskSide_transmit (p : Nat) (f : LFlit) : (s.transmit p f).taskSide = s.taskSide := by
  unfold State.transmit
  dsimp only
  split <;> simp

@[simp] theorem State.taskSide_pump (p : Nat) : (s.pump p).taskSide = s.taskSide := by
  unfold State.pump
  split
  · rfl
  · refine (State.taskSide_foldl (fun q f => ?_) _ _).trans (State.taskSide_modPort ..)
    dsimp only
    split <;> simp

@[simp] theorem State.taskSide_enqueue (p : Nat) (f : LFlit) : (s.enqueue p f).taskSide = s.taskSide := by
  simp [State.enqueue]

@[simp] theorem State.taskSide_dropUnreachable (p dest : Nat) : (s.dropUnreachable p dest).taskSide = s.taskSide := by
  simp [State.dropUnreachable, State.lnkRecord]

@[simp] theorem State.taskSide_sendDir (d : Nat) (f : LFlit) : (s.sendDir d f).taskSide = s.taskSide := by
  unfold State.sendDir
  dsimp only
  repeat' split
  all_goals simp

@[simp] theorem State.taskSide_sendTrunk (f : LFlit) (arr at_ : Nat) : (s.sendTrunk f arr at_).taskSide = s.taskSide := by
  unfold State.sendTrunk
  repeat' split
  all_goals simp

@[simp] theorem State.taskSide_sendBranch (f : LFlit) : (s.sendBranch f).taskSide = s.taskSide := by
  unfold State.sendBranch
  dsimp only
  repeat' split
  all_goals simp

@[simp] theorem State.taskSide_sendNow (m : HeldMsg) : (s.sendNow m).taskSide = s.taskSide := by
  unfold State.sendNow
  split
  · rfl
  · refine State.taskSide_each (fun b f => ?_) _ _
    split <;> simp

/-- A stale message reaches neither a knot nor a queue (R73). -/
theorem State.taskSide_dropStale (die : Nat) (o : Origin) (trunk : Bool) :
    (s.dropStale die o trunk).taskSide = s.taskSide := by
  unfold State.dropStale
  extract_lets counted last key due bound gr
  have hlast : last.taskSide = s.taskSide := s.taskSide_bump ..
  split
  · exact (State.taskSide_sendNow ..).trans hlast
  · exact hlast

/-! ## Writes to memory -/

@[simp] theorem State.taskSide_modChannel (c : Nat) (f : Channel → Channel) : (s.modChannel c f).taskSide = s.taskSide :=
  (rfl)

@[simp] theorem State.taskSide_putLine (c line : Nat) (bs : List Byte) : (s.putLine c line bs).taskSide = s.taskSide := (rfl)

@[simp] theorem State.taskSide_unsaturate (p : Nat → Bool) : (s.unsaturate p).taskSide = s.taskSide := (rfl)

@[simp] theorem State.taskSide_noteUe (c line : Nat) : (s.noteUe c line).taskSide = s.taskSide :=
  (State.noteUe_noted c line (Noted.refl s)).taskSide

@[simp] theorem State.taskSide_ueRecord (sev : Sev) (c line : Nat) : (s.ueRecord sev c line).taskSide = s.taskSide :=
  (State.ueRecord_noted sev c line (Noted.refl s)).taskSide

@[simp] theorem State.taskSide_evictWcb (c : Nat) (e : WcbEntry) : (s.evictWcb c e).taskSide = s.taskSide := by
  unfold State.evictWcb
  dsimp only
  repeat' split
  all_goals simp

@[simp] theorem State.taskSide_settleAdder (c line : Nat) : (s.settleAdder c line).taskSide = s.taskSide := by
  unfold State.settleAdder
  split <;> rfl

@[simp] theorem State.taskSide_writeLine (c line pos : Nat) (bs : List Byte) (grove : Nat) :
    (s.writeLine c line pos bs grove).1.taskSide = s.taskSide := by
  unfold State.writeLine
  dsimp only
  repeat' split
  all_goals simp

@[simp] theorem State.taskSide_putPage (g o : Nat) (bs : List Byte) : (s.putPage g o bs).taskSide = s.taskSide := by
  refine State.taskSide_each (fun b i => ?_) s _
  split <;> simp

@[simp] theorem State.taskSide_touchWait (g : Nat) : (s.touchWait g).taskSide = s.taskSide := by
  unfold State.touchWait
  split
  · split
    · rfl
    · exact State.taskSide_record ..
  · rfl

@[simp] theorem State.taskSide_touchPage (page : Nat) : (s.touchPage page).taskSide = s.taskSide := by
  unfold State.touchPage
  split
  · rfl
  · split
    · rfl
    · extract_lets die bs free waited old noted kept kln copied touches
      have hwaited : waited.taskSide = s.taskSide := by
        unfold waited
        split
        · exact s.taskSide_touchWait _
        · rfl
      have hbumped : touches.taskSide = copied.taskSide := by simp [touches]
      have htouches : touches.taskSide = s.taskSide := hbumped.trans hwaited
      split
      · exact (State.taskSide_putPage ..).trans htouches
      · exact htouches

@[simp] theorem State.taskSide_touch (o : Nat) : (s.touch o).taskSide = s.taskSide := by
  unfold State.touch
  split <;> simp

theorem State.writeFails_noted (p : Party) (o : Nat) (r : Acc × Nat × Nat) : Noted s (s.writeFails p o r).1 := by
  unfold State.writeFails
  split
  · exact State.ueRecord_noted _ _ _ (State.noteUe_noted _ _ (Noted.refl s))
  · exact State.unmappedRecord_noted _ _ (Noted.refl s)
  · exact Noted.refl s

@[simp] theorem State.taskSide_writeLocal (p : Party) (o : Nat) (bs : List Byte) :
    (s.writeLocal p o bs).1.taskSide = s.taskSide := by
  unfold State.writeLocal
  split
  · refine State.taskSide_foldl (fun q k => ?_) _ _
    split <;> simp
  · exact (s.writeFails_noted ..).taskSide

end

end Sys2Proof.Machine
end

section
/-! PROOFS. What the judging of grants and readiness leaves (R128, R129): the slots in use, the flows, the waiting
INJECTs, the queues, and every knot but for its requests and a semaphore's value. -/
namespace Sys2Proof.Machine

/-- A knot as grants leave it: only its requests change, and a semaphore's value. -/
structure Knot.Rejudged (a b : Knot) : Prop where
  rest : b = { a with value := b.value, requests := b.requests }
  value : a.type ≠ 2 → b.value = a.value

namespace Knot.Rejudged

theorem refl (a : Knot) : a.Rejudged a := ⟨rfl, fun _ => rfl⟩

theorem type {a b : Knot} (h : a.Rejudged b) : b.type = a.type := (congrArg Knot.type h.rest :)

theorem trans {a b c : Knot} (h : a.Rejudged b) (k : b.Rejudged c) : a.Rejudged c := by
  refine ⟨k.rest.trans ?_, fun ha => (k.value (h.type ▸ ha)).trans (h.value ha)⟩
  rw [h.rest]

theorem requests (a : Knot) (l : List (Nat × Nat × Nat)) : a.Rejudged { a with requests := l } := ⟨rfl, fun _ => rfl⟩

end Knot.Rejudged

/-- What judging leaves of a state. -/
structure Rejudged (s t : State) : Prop where
  hrt : t.hrt = s.hrt
  injects : t.sch.injects = s.sch.injects
  flows : t.sch.flows = s.sch.flows
  keys : t.sch.slots.map (·.1) = s.sch.slots.map (·.1)
  knots : ∀ j, (s.knot j).Rejudged (t.knot j)

theorem Rejudged.refl (s : State) : Rejudged s s := ⟨rfl, rfl, rfl, rfl, fun _ => Knot.Rejudged.refl _⟩

theorem Rejudged.trans {s t u : State} (h : Rejudged s t) (k : Rejudged t u) : Rejudged s u :=
  ⟨k.hrt.trans h.hrt, k.injects.trans h.injects, k.flows.trans h.flows, k.keys.trans h.keys,
    fun j => (h.knots j).trans (k.knots j)⟩

theorem State.rejudged_of_taskSide {s t : State} (h : t.taskSide = s.taskSide) : Rejudged s t := by
  have hsch := State.sch_of_taskSide h
  refine ⟨State.hrt_of_taskSide h, by rw [hsch], by rw [hsch], by rw [hsch], fun j => ?_⟩
  rw [State.knot, State.knot, hsch]
  exact Knot.Rejudged.refl _

theorem Noted.rejudged {s t : State} (h : Noted s t) : Rejudged s t := State.rejudged_of_taskSide h.taskSide

theorem State.each_rejudged {α : Type} {f : State → α → State} (h : ∀ b x, Rejudged b (f b x)) (s : State) (l : List α) :
    Rejudged s (s.each l f) :=
  State.each_keeps (P := Rejudged s) (fun b x hb => hb.trans (h b x)) l (Rejudged.refl s)

/-! ## Knots and slots -/

@[simp] theorem State.knot_modKnot_same (s : State) (k : Nat) (f : Knot → Knot) : (s.modKnot k f).knot k = f (s.knot k) :=
  tgetD_tmod_same ..

theorem State.knot_modKnot_other (s : State) {j k : Nat} (f : Knot → Knot) (h : j ≠ k) :
    (s.modKnot k f).knot j = s.knot j := tgetD_tmod_other _ _ _ _ h

theorem State.modKnot_rejudged (s : State) (k : Nat) {f : Knot → Knot} (h : (s.knot k).Rejudged (f (s.knot k))) :
    Rejudged s (s.modKnot k f) := by
  refine ⟨rfl, rfl, rfl, rfl, fun j => ?_⟩
  by_cases hj : j = k
  · rw [hj, State.knot_modKnot_same]
    exact h
  · rw [State.knot_modKnot_other _ _ hj]
    exact Knot.Rejudged.refl _

theorem keys_tmap {α : Type} (t : Tbl α) (f : Nat → α → α) : (tmap t f).map (·.1) = t.map (·.1) := by
  simp [tmap]

theorem State.slots_modSlot (s : State) (key : Nat) (f : Slot → Slot) :
    (s.modSlot key f).sch.slots = tmap s.sch.slots fun k x => if k = key then f x else x := rfl

theorem State.knots_withdraw (s : State) (p : Nat → Bool) : (s.withdraw p).sch.knots = tmap s.sch.knots fun _ k =>
    { k with requests := k.requests.filter fun r => !p (slotKey r.1 r.2.1) } := rfl

theorem State.modSlot_rejudged (s : State) (key : Nat) (f : Slot → Slot) : Rejudged s (s.modSlot key f) :=
  ⟨rfl, rfl, rfl, (congrArg _ (s.slots_modSlot key f)).trans (keys_tmap ..), fun _ => Knot.Rejudged.refl _⟩

theorem State.withdraw_rejudged (s : State) (p : Nat → Bool) : Rejudged s (s.withdraw p) := by
  refine ⟨rfl, rfl, rfl, rfl, fun j => ?_⟩
  rw [State.knot, State.knot, s.knots_withdraw, tgetD, tgetD, tget_tmap]
  cases tget s.sch.knots j with
  | none => exact Knot.Rejudged.refl _
  | some a => exact Knot.Rejudged.requests a _

theorem State.endTask_rejudged (s : State) (key : Nat) : Rejudged s (s.endTask key) := by
  unfold State.endTask
  split
  · exact Rejudged.refl s
  · extract_lets die stopped
    have hstopped : Rejudged s stopped := (s.modSlot_rejudged ..).trans (State.withdraw_rejudged ..)
    exact hstopped.trans (State.rejudged_of_taskSide (stopped.taskSide_putReg ..))

/-! ## Judging -/

theorem State.request_rejudged (s : State) (key : Nat) (x : Slot) : Rejudged s (s.request key x) := by
  unfold State.request
  dsimp only
  repeat' split
  case h_1.isFalse => exact s.modKnot_rejudged _ (Knot.Rejudged.requests _ _)
  all_goals exact Rejudged.refl s

/-- Only a knot of type semaphore has its value lowered by a grant (R129). -/
theorem State.grant_rejudged (s : State) (k fuel : Nat) : Rejudged s (s.grant k fuel) := by
  induction fuel generalizing s with
  | zero => exact Rejudged.refl s
  | succ fuel ih =>
    unfold State.grant
    dsimp only
    split
    next hreq =>
      split
      next hgrant =>
        have hsem : (s.knot k).type = 2 := by
          simp only [Bool.and_eq_true, decide_eq_true_eq] at hgrant
          exact hgrant.1
        exact ((s.modKnot_rejudged k ⟨rfl, fun h => absurd hsem h⟩).trans (State.modSlot_rejudged ..)).trans (ih _)
      · exact Rejudged.refl s
    · exact Rejudged.refl s

theorem State.readDesc_noted (s : State) (t : Task) : Noted s (s.readDesc t).1 := by
  have hread : ∀ g va n, Noted s (s.readVa g va n).1 := fun g va n => State.readVa_noted g va n (Noted.refl s)
  unfold State.readDesc
  dsimp only
  repeat' split
  all_goals exact hread ..

theorem State.tilRecord_noted (s : State) (tile slot code g detail : Nat) :
    Noted s (s.tilRecord tile slot code g detail) := by
  have hrecord : ∀ v, Noted s ((s.putReg .TIL_FAULT_LAST [tile] v).record .til .contained (dieOfTile tile) code (some g)
      (slot + detail % 2 ^ 32 * 2 ^ 10)) :=
    fun v => State.record_noted _ _ _ _ _ _ (State.putReg_noted _ _ _ (Noted.refl s))
  unfold State.tilRecord
  dsimp only
  split
  · exact State.heatOn_noted _ _ (hrecord _)
  · exact hrecord _

theorem State.knotType_noted (s : State) (k tile : Nat) : Noted s (s.knotType k tile) :=
  State.record_noted _ _ _ _ _ _ (Noted.refl s)

theorem State.makeReady_rejudged (s : State) (key : Nat) (x : Slot) : Rejudged s (s.makeReady key x) := by
  have hwithdrawn := s.withdraw_rejudged (· == key)
  have hread := hwithdrawn.trans ((s.withdraw (· == key)).readDesc_noted x.task).rejudged
  unfold State.makeReady
  dsimp only
  split
  · exact hwithdrawn.trans (State.modSlot_rejudged ..)
  · split <;> rename_i heq <;> rw [heq] at hread
    · exact hread.trans (State.modSlot_rejudged ..)
    · exact (hread.trans (State.tilRecord_noted ..).rejudged).trans (State.endTask_rejudged ..)
    · exact (hread.trans (State.staleRecord_noted _ _ _ _ _ (Noted.refl _)).rejudged).trans (State.endTask_rejudged ..)
    · exact hread.trans (State.endTask_rejudged ..)

theorem State.judgeTypes_rejudged (s : State) (key : Nat) (x : Slot) : Rejudged s (s.judgeTypes key x) := by
  unfold State.judgeTypes
  split
  · split
    · exact (s.knotType_noted ..).rejudged.trans (State.endTask_rejudged ..)
    · exact Rejudged.refl s
  · exact Rejudged.refl s

theorem State.judge_rejudged (s : State) : Rejudged s s.judge := by
  unfold State.judge
  extract_lets typed asked granted again _ counted
  have htyped : Rejudged s typed := State.each_rejudged (fun b _ => b.judgeTypes_rejudged ..) ..
  have hasked : Rejudged typed asked := State.each_rejudged (fun b _ => b.request_rejudged ..) ..
  have hgranted : Rejudged asked granted := State.each_rejudged (fun b _ => b.grant_rejudged ..) ..
  have hagain : Rejudged granted again := State.each_rejudged (fun b _ => b.request_rejudged ..) ..
  have hcounted : Rejudged again counted := ⟨rfl, rfl, rfl, rfl, fun _ => Knot.Rejudged.refl _⟩
  have hgrants : Rejudged s counted := (((htyped.trans hasked).trans hgranted).trans hagain).trans hcounted
  refine hgrants.trans (State.each_rejudged (fun b p => ?_) ..)
  split
  · exact b.makeReady_rejudged ..
  · exact Rejudged.refl b

/-! ## Judging while no task has a slot -/

/-- A change of the schedulers alone, of a state whose tiles hold no task. -/
structure NoTasks (s t : State) : Prop where
  rest : { t with sch := s.sch } = s
  slots : t.sch.slots = []

namespace NoTasks

theorem regs {s t : State} (h : NoTasks s t) : t.regs = s.regs := (congrArg State.regs h.rest :)
theorem wch {s t : State} (h : NoTasks s t) : t.wch = s.wch := (congrArg State.wch h.rest :)

theorem modKnot {s t : State} (h : NoTasks s t) (k : Nat) (f : Knot → Knot) : NoTasks s (t.modKnot k f) :=
  ⟨h.rest, h.slots⟩

theorem modSlot {s t : State} (h : NoTasks s t) (key : Nat) (f : Slot → Slot) : NoTasks s (t.modSlot key f) :=
  ⟨h.rest, by rw [State.slots_modSlot, h.slots]; rfl⟩

end NoTasks

theorem State.grant_noTasks {s t : State} (h : NoTasks s t) (k fuel : Nat) : NoTasks s (t.grant k fuel) := by
  induction fuel generalizing t with
  | zero => exact h
  | succ fuel ih =>
    unfold State.grant
    dsimp only
    repeat' split
    case h_1.isTrue => exact ih ((h.modKnot ..).modSlot ..)
    all_goals exact h

/-- With no task to judge, judging changes the schedulers alone. -/
theorem State.judge_noTasks {s : State} (h : s.sch.slots = []) : NoTasks s s.judge := by
  have hnil : ∀ {t : State}, t.sch.slots = [] → ∀ f : State → Nat × Slot → State, t.each t.sch.slots f = t :=
    fun ht f => by rw [ht]; rfl
  unfold State.judge
  extract_lets typed asked granted again _ counted
  have hasked : asked = s := (hnil (t := typed) ((congrArg (·.sch.slots) (hnil h _)).trans h) _).trans (hnil h _)
  have hgranted : NoTasks s granted := by
    refine State.each_keeps (P := NoTasks s) (fun b p hb => State.grant_noTasks hb ..) _ ?_
    rw [hasked]
    exact ⟨rfl, h⟩
  have hagain : NoTasks s again := by
    rw [show again = granted from hnil hgranted.slots _]
    exact hgranted
  have hcounted : NoTasks s counted := ⟨hagain.rest, hagain.slots⟩
  rw [hnil hcounted.slots]
  exact hcounted

end Sys2Proof.Machine
end

section
/-! PROOFS. Statistics counters, and the scheduler's registers (R145 to R150). -/
namespace Sys2Proof.Machine

/-- A statistics counter adds up to its maximum (R150). -/
theorem wfld_statAdd (v : Word) (n : Nat) : wfld (statAdd v n).1 0 48 = min (wfld v 0 48 + n) (2 ^ 48 - 1) := by
  unfold statAdd
  split
  next hfits =>
    rw [wfld_setFld_same (by omega)]
    omega
  next hfull =>
    rw [wfld_setFld_below (by omega) (by omega), wfld_setFld_same (by omega)]
    omega

/-- A counter that does not saturate is written, and nothing else. -/
theorem State.bump_below (s : State) (r : Reg) (ix : List Nat) {n : Nat}
    (h : wfld (s.getReg r ix) 0 48 + n ≤ 2 ^ 48 - 1) :
    s.bump r ix n = s.putReg r ix (setFld (s.getReg r ix) 0 48 (wfld (s.getReg r ix) 0 48 + n)) := by
  have hadd : statAdd (s.getReg r ix) n = (setFld (s.getReg r ix) 0 48 (wfld (s.getReg r ix) 0 48 + n), false) := if_pos h
  simp [State.bump, hadd]

/-- Offsets past the log's own registers belong to no block whose records add heat to every grove. -/
theorem srcOfOffset_far {a : Nat} (h : 0x30400 < a) : (srcOfOffset a == .clk || srcOfOffset a == .pwr) = false := by
  have hite : ∀ {p : Prop} [Decidable p] {x y : Src}, (x == .clk || x == .pwr) = false → (y == .clk || y == .pwr) = false →
      ((if p then x else y) == .clk || (if p then x else y) == .pwr) = false := fun hx hy => by split <;> assumption
  have h1 : ¬a < 0x10000 := by omega
  have h2 : ¬a < 0x20000 := by omega
  have h3 : ¬a < 0x30000 := by omega
  simp only [srcOfOffset, if_neg h1, if_neg h2, if_neg h3]
  repeat' refine hite ?_ ?_
  all_goals rfl

section
variable (s : State) {r p : Reg} {ix jx : List Nat} (n : Nat)

theorem State.getReg_bump_same (h : 0x30400 < regAddr r ix) :
    (s.bump r ix n).getReg r ix = (statAdd (s.getReg r ix) n).1 := by
  unfold State.bump
  dsimp only
  split
  · rw [State.getReg_record _ _ _ _ _ _ _ (srcOfOffset_far h) (plainOff_of_gt h), State.getReg_putReg_same]
  · exact State.getReg_putReg_same ..

theorem State.getReg_bump_other (h : 0x30400 < regAddr r ix) (hp : 0x30400 < regAddr p jx)
    (hne : regAddr p jx ≠ regAddr r ix) : (s.bump r ix n).getReg p jx = s.getReg p jx := by
  unfold State.bump
  dsimp only
  split
  · rw [State.getReg_record _ _ _ _ _ _ _ (srcOfOffset_far h) (plainOff_of_gt hp), State.getReg_putReg_other _ _ hne]
  · exact State.getReg_putReg_other _ _ hne

end

/-- A register past the log's own is neither its head nor its tail. -/
theorem State.logRoom_putReg_far {s : State} {r : Reg} {ix : List Nat} (v : Word) (h : 0x30400 < regAddr r ix) :
    (s.putReg r ix v).logRoom = s.logRoom := by
  have hhead : regAddr .WCH_LOG_HEAD [] < 0x30400 := by decide
  have htail : regAddr .WCH_LOG_TAIL [] < 0x30400 := by decide
  exact State.logRoom_putReg v (by omega) (by omega)

end Sys2Proof.Machine
end

section
/-! PROOFS. Signals and initialisations of knots (R135 to R139; O19). -/
namespace Sys2Proof.Machine

section
variable {s : State} (hrun : s.islandsRun = true)
include hrun

theorem exec_kntSignal (k : Nat) (v : Word) : exec (.kntSignal k v) s = .next (s.knotSignal k v) :=
  congrArg _ (State.onDie_of_islandsRun hrun _)

theorem exec_kntInit (k : Nat) (v : Word) : exec (.kntInit k v) s = .next (s.knotInit k v) :=
  congrArg _ (State.onDie_of_islandsRun hrun _)

theorem exec_knotSignalMessage (o : Origin) (k a : Nat) :
    exec (.knotSignalMessage o k a) s = .next (s.signalMessage o k a) :=
  congrArg _ (State.onDie_of_islandsRun hrun _)

end

/-! ## A signal meets a knot (R135, R136) -/

theorem signalKnot_counter {n : Knot} {a : Nat} (htype : n.type = 1) (hover : n.overflow = false)
    (hfits : n.value + a ≤ 2 ^ 32 - 1) : signalKnot n a = .ok { n with value := n.value + a } := by
  simp only [signalKnot, if_pos htype, hover]
  exact if_neg (by simpa using hfits)

/-- A counter at its maximum, with overflow set (R136). -/
def Knot.full (n : Knot) : Knot := { n with value := 2 ^ 32 - 1, overflow := true }

theorem signalKnot_counter_full {n : Knot} {a : Nat} (htype : n.type = 1) (hfull : 2 ^ 32 - 1 < n.value + a) :
    signalKnot n a = .overflow n.full := by
  simp only [signalKnot, if_pos htype]
  exact if_pos (by simp only [Bool.or_eq_true, decide_eq_true_eq]; exact .inr hfull)

theorem signalKnot_none {n : Knot} (a : Nat) (htype : n.type = 0) : signalKnot n a = .typeFault := by
  simp [signalKnot, htype]

section
variable {s : State} {k a : Nat} {n : Knot}

theorem State.engineSignal_ok (h : signalKnot (s.knot k) a = .ok n) :
    s.engineSignal k a = (s.modKnot k fun _ => n).judge := by
  rw [State.engineSignal, h]

theorem State.engineSignal_overflow (h : signalKnot (s.knot k) a = .overflow n) :
    s.engineSignal k a = ((s.modKnot k fun _ => n).knotOverflow k 0x7F).judge := by
  rw [State.engineSignal, h]

theorem State.engineSignal_typeFault (h : signalKnot (s.knot k) a = .typeFault) :
    s.engineSignal k a = s.knotType k 0x7F := by
  rw [State.engineSignal, h]

end

theorem State.knotSignal_zero {s : State} (k : Nat) {v : Word} (h : wfld v 0 32 = 0) : s.knotSignal k v = s := if_pos h

theorem State.knotSignal_pos {s : State} (k : Nat) {v : Word} (h : 1 ≤ wfld v 0 32) :
    s.knotSignal k v = s.engineSignal k (wfld v 0 32) := if_neg (by omega)

/-! ## What follows a signal -/

/-- The knot as it was set, judged: a knot that is no semaphore has the value it was set to. -/
theorem State.knot_judge_modKnot (s : State) (k : Nat) (f : Knot → Knot) :
    (f (s.knot k)).Rejudged ((s.modKnot k f).judge.knot k) := by
  have h := (s.modKnot k f).judge_rejudged.knots k
  rwa [State.knot_modKnot_same] at h

theorem regAddr_knotOvf (die : Nat) : regAddr .SCH_KNOT_OVF [die] = 0x280020 + 0x40000 * die := by
  simp [regAddr, regDesc]

theorem State.knotOverflow_noted (s : State) (k tile : Nat) : Noted s (s.knotOverflow k tile) :=
  State.record_noted _ _ _ _ _ _ (State.bump_noted _ _ _ (Noted.refl s))

/-- The first overflow of a die counts 1 and is recorded (R136). -/
theorem State.knotOverflow_first {s : State} (k tile : Nat) (hroom : s.logRoom = true)
    (hfirst : tget s.regs (regAddr .SCH_KNOT_OVF [dieOfKnot k]) = none) :
    wfld ((s.knotOverflow k tile).getReg .SCH_KNOT_OVF [dieOfKnot k]) 0 48 = 1 ∧
    ∃ r, (s.knotOverflow k tile).lastRecord = some r ∧ r.src = .sch ∧ r.sev = .contained ∧ r.code = 0x08 := by
  have hfar : 0x30400 < regAddr .SCH_KNOT_OVF [dieOfKnot k] := by rw [regAddr_knotOvf]; omega
  have hzero : s.getReg .SCH_KNOT_OVF [dieOfKnot k] = 0 := by
    rw [State.getReg, tgetD, hfirst]
    rfl
  have hbump := s.bump_below .SCH_KNOT_OVF [dieOfKnot k] (n := 1) (by rw [hzero]; decide)
  rw [State.knotOverflow]
  refine ⟨?_, _, State.lastRecord_record _ _ _ _ _ _ _ (by decide) ?_, rfl, rfl, rfl⟩
  · rw [State.getReg_record _ _ _ _ _ _ _ (by decide) (plainOff_of_gt hfar), hbump, State.getReg_putReg_same, hzero]
    decide
  · rw [hbump, State.logRoom_putReg_far _ hfar, hroom]

/-- What an overflow leaves of the knot: it is judged as it was set (R136). -/
theorem State.knot_judge_knotOverflow (s : State) (k tile : Nat) (n : Knot) :
    n.Rejudged (((s.modKnot k fun _ => n).knotOverflow k tile).judge.knot k) := by
  have h := (((s.modKnot k fun _ => n).knotOverflow_noted k tile).rejudged.trans (State.judge_rejudged _)).knots k
  rwa [State.knot_modKnot_same] at h

theorem State.knotType_record {s : State} (k tile : Nat) (hroom : s.logRoom = true) :
    ∃ r, (s.knotType k tile).lastRecord = some r ∧ r.src = .sch ∧ r.sev = .contained ∧ r.code = 0x05 :=
  ⟨_, State.lastRecord_record _ _ _ _ _ _ _ (by decide) hroom, rfl, rfl, rfl⟩

theorem State.lastRecord_congr {s t : State} (hregs : t.regs = s.regs) (hwch : t.wch = s.wch) :
    t.lastRecord = s.lastRecord := by
  simp only [State.lastRecord, State.regFld, State.getReg, hregs, hwch]

/-! ## Initialisation (R138, R139) -/

/-- The knot once KNT_INIT has taken its staged type. -/
def Knot.unstaged (n : Knot) : Knot := { n with stagedType := 0, stagedNoRewind := false }

/-- A knot as KNT_INIT sets it from the values and the type that was staged. -/
def Knot.initialised (n m : Knot) (value target : Nat) (closed : Bool) : Knot :=
  { m with
    type := n.stagedType, noRewind := n.stagedNoRewind, value := value, target := target, phase := false,
    overflow := false, shadowValue := if closed then value else m.shadowValue,
    shadowPhase := if closed then false else m.shadowPhase }

section
variable {s : State} {k : Nat} {v : Word}

theorem State.knotInit_good {g : Nat} (howner : s.knotOwner k = some g)
    (hgood : initBad (s.knot k) (wfld v 0 32) (wfld v 32 32) = false) :
    s.knotInit k v = ((s.modKnot k Knot.unstaged).modKnot k fun m =>
      (s.knot k).initialised m (wfld v 0 32) (wfld v 32 32) ((s.step_ g).st == .closed)).judge := by
  unfold State.knotInit
  extract_lets n value target unstaged
  split
  next hnone => exact absurd (howner.symm.trans hnone) (Option.some_ne_none g)
  next g' hsome =>
    obtain rfl : g = g' := Option.some.inj (howner.symm.trans hsome)
    exact if_neg (Bool.eq_false_iff.mp hgood)

theorem State.knotInit_refused (hbad : s.knotOwner k = none ∨ initBad (s.knot k) (wfld v 0 32) (wfld v 32 32) = true) :
    ∃ g, s.knotInit k v = (s.modKnot k Knot.unstaged).record .sch .contained (dieOfKnot k) 0x09 g k := by
  unfold State.knotInit
  extract_lets n value target unstaged
  split
  · exact ⟨none, rfl⟩
  next g howner =>
    have hbad' : initBad n value target = true :=
      hbad.resolve_left fun hnone => Option.some_ne_none g (howner.symm.trans hnone)
    exact ⟨some g, if_pos hbad'⟩

end

/-- Settles O19: a signal or an initialisation sets the knot, and judging leaves every knot but a semaphore's value as it
was set; a refused one writes its record alone. -/
theorem knotOperations : Obligations.KnotOperations := by
  unfold Obligations.KnotOperations
  intro s k a v o hrun
  refine ⟨fun htype hover hpos hfits => ?adds, fun htype hfull hroom hslots hpos hfirst => ?overflows,
    fun htype hpos hroom => ?typeFault, fun hzero => ?zero, fun g howner hgood => ?initialises, fun hbad hroom => ?refused,
    fun howner hgrove hpos hlt => ?message, fun hstale => ?stale⟩
  case adds =>
    have hset := (State.knotSignal_pos k hpos).trans (State.engineSignal_ok (signalKnot_counter htype hover hfits))
    have hknot := s.knot_judge_modKnot k fun _ => { s.knot k with value := (s.knot k).value + wfld v 0 32 }
    have hcounter : (s.knot k).type ≠ 2 := by rw [htype]; decide
    exact ⟨_, (exec_kntSignal hrun k v).trans (congrArg _ hset), hknot.value hcounter,
      (congrArg Knot.overflow hknot.rest :).trans hover, hknot.type.trans htype, (State.judge_rejudged _).flows⟩
  case overflows =>
    have hset := (State.knotSignal_pos k hpos).trans (State.engineSignal_overflow (signalKnot_counter_full htype hfull))
    have hknot := s.knot_judge_knotOverflow k 0x7F (s.knot k).full
    obtain ⟨hcount, r, hlast, hsrc, hsev, hcode⟩ :=
      State.knotOverflow_first (s := s.modKnot k fun _ => (s.knot k).full) k 0x7F hroom hfirst
    have hnone : ((s.modKnot k fun _ => (s.knot k).full).knotOverflow k 0x7F).sch.slots = [] := by
      rw [(State.knotOverflow_noted ..).sch]
      exact hslots
    have hsame := State.judge_noTasks hnone
    have hcounter : (s.knot k).full.type ≠ 2 := fun h => absurd (htype.symm.trans h) (by decide)
    exact ⟨_, r, (exec_kntSignal hrun k v).trans (congrArg _ hset), hknot.value hcounter,
      (congrArg Knot.overflow hknot.rest :), (State.lastRecord_congr hsame.regs hsame.wch).trans hlast,
      hsrc, hsev, hcode, (congrArg (wfld · 0 48) (State.getReg_congr hsame.regs _ _)).trans hcount⟩
  case typeFault =>
    have hset := (State.knotSignal_pos k hpos).trans (State.engineSignal_typeFault (signalKnot_none _ htype))
    obtain ⟨r, hlast, hrecord⟩ := State.knotType_record k 0x7F hroom
    exact ⟨_, r, (exec_kntSignal hrun k v).trans (congrArg _ hset), (s.knotType_noted k 0x7F).sch, hlast, hrecord⟩
  case zero => exact (exec_kntSignal hrun k v).trans (congrArg _ (State.knotSignal_zero k hzero))
  case initialises =>
    have hknot := (s.modKnot k Knot.unstaged).knot_judge_modKnot k fun m =>
      (s.knot k).initialised m (wfld v 0 32) (wfld v 32 32) ((s.step_ g).st == .closed)
    rw [State.knot_modKnot_same] at hknot
    exact ⟨_, (exec_kntInit hrun k v).trans (congrArg _ (State.knotInit_good howner hgood)), hknot.type,
      (congrArg Knot.noRewind hknot.rest :), (congrArg Knot.target hknot.rest :), (congrArg Knot.phase hknot.rest :),
      (congrArg Knot.overflow hknot.rest :), (congrArg Knot.stagedType hknot.rest :), hknot.value⟩
  case refused =>
    obtain ⟨g, hrefused⟩ := State.knotInit_refused hbad
    refine ⟨_, _, (exec_kntInit hrun k v).trans (congrArg _ hrefused), ?_, fun j hj => ?_,
      State.lastRecord_record _ _ _ _ _ _ _ (by decide) hroom, rfl, rfl, State.record_mem ..⟩
    · rw [State.knot, State.record_sch]
      exact s.knot_modKnot_same ..
    · rw [State.knot, State.record_sch]
      exact s.knot_modKnot_other _ hj
  case message =>
    have hv : wfld (BitVec.ofNat 64 a) 0 32 = a := by
      rw [wfld_ofNat (by omega), fld, Nat.pow_zero, Nat.div_one, Nat.mod_eq_of_lt hlt]
    have hsignal : s.signalMessage o k a = s.engineSignal k a := if_pos (by simp [howner, hgrove])
    rw [exec_knotSignalMessage hrun, exec_kntSignal hrun, hsignal, State.knotSignal_pos k (by omega), hv]
  case stale =>
    have hdrop : s.signalMessage o k a = s.dropStale (dieOfKnot k) o := if_neg fun h => by
      simp only [Bool.and_eq_true, beq_iff_eq] at h
      exact hstale.elim (· h.1) fun hnot => Bool.eq_false_iff.mp hnot h.2
    have hsend := s.sendFrame_dropStale (dieOfKnot k) o false
    exact ⟨_, (exec_knotSignalMessage hrun o k a).trans (congrArg _ hdrop), State.sch_of_taskSide (s.taskSide_dropStale ..),
      congrArg (·.2.1) hsend, congrArg (·.1) hsend⟩

end Sys2Proof.Machine
end

section
/-! PROOFS. A task's end that lets a stalled completion go (R131 to R133; O18). -/
namespace Sys2Proof.Machine

/-- A task of unit 4, unstepped, that adds 1 to knot 1. -/
def timerTask : Task :=
  { unit := 4, grove := 0, gen := 0, priority := 0, ordered := false, deferred := false, unstepped := true, flow := 0,
    step := 0, seq := 0, tile := 0, program := 0, waits := [], signals := [(1, 1)] }

/-- A DMA task, the next of its flow, that adds 1 to knot 1. -/
def orderedTask : Task := { timerTask with unit := 2, ordered := true, unstepped := false, program := 64 }

/-- A state in which the first task is ready, and the second's completion, which found the hold buffer full, waits with its
turn come. Knot 1 is a counter at 0. -/
def stalledTurn : State :=
  { State.reset with
    sup := { phase := .service }
    grv := { groves := [(0, { bound := true })] }
    col := { steps := [(0, { st := .running })] }
    sch := { slots := [(0, ⟨timerTask, .ready 0, [], []⟩), (1, ⟨orderedTask, .stalled, [], []⟩)]
             knots := [(1, { type := 1 })] } }

/-- The report of a unit that counted nothing and met no error. -/
def plainReport : UnitReport := ⟨0, 0, 0, 0, 0, [], [], none, false⟩

theorem knotValue_stalledTurn : ((stalledTurn.endOfTask 0 0 plainReport).knot 1).value = 2 := by decide +kernel

/-- Refutes O18: the end of a task of unit 4 also lets stalled completions go (R133), and the statement allows one of a
task that is the next of its flow. Both tasks' signals then reach knot 1, whose value is 2, not 1. -/
theorem not_tasksEnd : ¬ Obligations.TasksEnd := by
  unfold Obligations.TasksEnd
  intro h
  have hrun : stalledTurn.islandsRun = true := by decide +kernel
  have hlive : stalledTurn.taskLive timerTask = true := by decide +kernel
  obtain ⟨-, hready⟩ := h stalledTurn 0 0 0 ⟨timerTask, .ready 0, [], []⟩ plainReport hrun rfl rfl hlive rfl rfl
  obtain ⟨t, ht, -, hvalue, -⟩ := hready 0 1 1 rfl rfl rfl rfl rfl rfl rfl (by decide)
  have hend : exec (.taskComplete 0 0 plainReport) stalledTurn = .next (stalledTurn.endOfTask 0 0 plainReport) :=
    congrArg _ (State.onDie_of_islandsRun hrun _)
  obtain rfl : stalledTurn.endOfTask 0 0 plainReport = t := Host.Outcome.next.inj (hend.symm.trans ht)
  rw [knotValue_stalledTurn] at hvalue
  exact absurd hvalue (by decide)

end Sys2Proof.Machine
end

section
/-! PROOFS. Slots of a tile: those in use, the lowest free one, and the tasks placed (R127). -/
namespace Sys2Proof.Machine

/-- The slots in use of a tile are told by the keys alone. -/
theorem State.used_eq (s : State) (tile : Nat) :
    s.used tile = ((s.sch.slots.map (·.1)).filter fun k => k / 1024 == tile).length := by
  rw [State.used, List.filter_map, List.length_map]
  rfl

theorem State.used_congr {s t : State} (h : t.sch.slots.map (·.1) = s.sch.slots.map (·.1)) (tile : Nat) :
    t.used tile = s.used tile := by rw [State.used_eq, State.used_eq, h]

theorem mem_keys_of_isSome_tget {α : Type} {t : Tbl α} {k : Nat} (h : (tget t k).isSome = true) : k ∈ t.map (·.1) := by
  induction t with
  | nil => cases h
  | cons p t ih =>
    obtain ⟨i, w⟩ := p
    rw [tget] at h
    rw [List.map_cons, List.mem_cons]
    split at h
    next hi => exact .inl hi.symm
    · exact .inr (ih h)

/-- A key that is new to a table is added to it. -/
theorem tset_perm {α : Type} {t : Tbl α} {k : Nat} (v : α) (h : tget t k = none) : (tset t k v).Perm ((k, v) :: t) := by
  induction t with
  | nil => exact List.Perm.refl _
  | cons p t ih =>
    obtain ⟨i, w⟩ := p
    rw [tget] at h
    split at h
    · cases h
    next hi =>
      rw [tset, if_neg (Ne.symm hi)]
      split
      · exact List.Perm.refl _
      · exact ((ih h).cons _).trans (List.Perm.swap ..)

theorem slotKey_tile {i : Nat} (tile : Nat) (h : i < 1024) : slotKey tile i / 1024 = tile := by
  unfold slotKey
  omega

/-- A tile that does not use all of its 1,024 slots has a free one. -/
theorem State.freeSlot_of_room {s : State} {tile : Nat} (h : s.used tile < 1024) :
    ∃ i, s.freeSlot tile = some i ∧ i < 1024 ∧ s.slot (slotKey tile i) = none := by
  have hsome : (s.freeSlot tile).isSome = true := by
    by_contra hfull
    simp only [State.freeSlot, Bool.not_eq_true, Option.isSome_eq_false_iff, Option.isNone_iff_eq_none,
      List.find?_eq_none, List.mem_range, Option.isNone_iff_eq_none] at hfull
    have hsub : (List.range 1024).map (slotKey tile) ⊆ (s.sch.slots.map (·.1)).filter fun k => k / 1024 == tile := by
      intro key hkey
      obtain ⟨i, hi, rfl⟩ := List.mem_map.mp hkey
      have hlt := List.mem_range.mp hi
      rw [List.mem_filter, slotKey_tile tile hlt]
      exact ⟨mem_keys_of_isSome_tget (Option.isSome_iff_ne_none.mpr (hfull i hlt)), beq_self_eq_true _⟩
    have hnodup : ((List.range 1024).map (slotKey tile)).Nodup :=
      List.nodup_range.map fun i j hij => by unfold slotKey at hij; omega
    have hlen := (List.subperm_of_subset hnodup hsub).length_le
    rw [List.length_map, List.length_range, ← State.used_eq] at hlen
    omega
  obtain ⟨i, hfind⟩ := Option.isSome_iff_exists.mp hsome
  have hin := hfind
  rw [State.freeSlot] at hin
  have hnone := List.find?_some hin
  exact ⟨i, hfind, List.mem_range.mp (List.mem_of_find?_eq_some hin), Option.isNone_iff_eq_none.mp hnone⟩

/-! ## Placing tasks -/

theorem State.each_cons {α : Type} (s : State) (x : α) (l : List α) (f : State → α → State) :
    s.each (x :: l) f = (f s x).each l f := rfl

theorem State.placeTask_frame (s : State) (t : Task) :
    (s.placeTask t).hrt = s.hrt ∧ (s.placeTask t).sch.injects = s.sch.injects := by
  unfold State.placeTask
  split <;> exact ⟨rfl, rfl⟩

theorem State.slots_placeTask {s : State} {t : Task} {i : Nat} (h : s.freeSlot t.tile = some i) :
    (s.placeTask t).sch.slots = tset s.sch.slots (slotKey t.tile i) { task := t, st := .waiting } := by
  unfold State.placeTask
  split
  next hnone => rw [h] at hnone; cases hnone
  next j hj =>
    obtain rfl : i = j := Option.some.inj (h.symm.trans hj)
    rw [State.putFld_sch]

/-- With room in its tile, a task takes one more of its slots. -/
theorem State.used_placeTask {s : State} {t : Task} (h : s.used t.tile < 1024) (tile : Nat) :
    (s.placeTask t).used tile = s.used tile + ([t].filter fun x => x.tile == tile).length := by
  obtain ⟨i, hfree, hi, hnone⟩ := State.freeSlot_of_room h
  rw [State.used, State.slots_placeTask hfree, ((tset_perm _ hnone).filter _).length_eq, State.used]
  have hkey : (slotKey t.tile i / 1024 == tile) = (t.tile == tile) := by rw [slotKey_tile t.tile hi]
  cases htile : t.tile == tile <;> simp [hkey, htile]

theorem State.placeTasks_frame (s : State) (ts : List Task) :
    (s.each ts State.placeTask).hrt = s.hrt ∧ (s.each ts State.placeTask).sch.injects = s.sch.injects :=
  State.each_keeps (P := fun b => b.hrt = s.hrt ∧ b.sch.injects = s.sch.injects)
    (fun b t hb => ⟨(b.placeTask_frame t).1.trans hb.1, (b.placeTask_frame t).2.trans hb.2⟩) ts ⟨rfl, rfl⟩

/-- Tasks that their tiles have room for all take a slot. -/
theorem State.used_placeTasks {s : State} {ts : List Task} (h : s.roomFor ts = true) (tile : Nat) :
    (s.each ts State.placeTask).used tile = s.used tile + (ts.filter fun x => x.tile == tile).length := by
  induction ts generalizing s with
  | nil => rfl
  | cons t ts ih =>
    simp only [State.roomFor, List.all_eq_true, decide_eq_true_eq] at h
    have hsplit : ∀ k, ((t :: ts).filter fun x => x.tile == k).length =
        ([t].filter fun x => x.tile == k).length + (ts.filter fun x => x.tile == k).length := fun k => by
      rw [← List.length_append, ← List.filter_append, List.singleton_append]
    have hroom : s.used t.tile < 1024 := by
      have hhere := h t (List.mem_cons_self ..)
      rw [List.filter_cons_of_pos (by simp), List.length_cons] at hhere
      omega
    have hrest : (s.placeTask t).roomFor ts = true := by
      simp only [State.roomFor, List.all_eq_true, decide_eq_true_eq]
      intro u hu
      have hthere := h u (List.mem_cons_of_mem _ hu)
      rw [hsplit] at hthere
      rw [State.used_placeTask hroom]
      omega
    have hplaced := ih hrest
    rw [State.used_placeTask hroom] at hplaced
    rw [State.each_cons, hplaced, hsplit, Nat.add_assoc]

end Sys2Proof.Machine
end

section
/-! PROOFS. INJECT, dispatch and SCH_CLEAR (R125 to R127, R130, R145 to R147; O17). -/
namespace Sys2Proof.Machine

section
variable {s : State} (hrun : s.islandsRun = true)
include hrun

theorem exec_inject (q i : Nat) : exec (.inject q i) s = .next (s.inject q i) :=
  congrArg _ (State.onDie_of_islandsRun hrun _)

theorem exec_injectPlace (q i : Nat) : exec (.injectPlace q i) s = .next (s.injectPlace q i) :=
  congrArg _ (State.onDie_of_islandsRun hrun _)

theorem exec_taskDispatch (tile unit : Nat) (c : StallCycles) :
    exec (.taskDispatch tile unit c) s = .next (s.dispatch tile unit c) :=
  congrArg _ (State.onDie_of_islandsRun hrun _)

theorem exec_schClearHighWater (tile : Nat) : exec (.schClearHighWater tile) s = .next (s.clearHighWater tile) :=
  congrArg _ (State.onDie_of_islandsRun hrun _)

theorem exec_schClearCounters (tile : Nat) : exec (.schClearCounters tile) s = .next (s.clearSchCounters tile) :=
  congrArg _ (State.onDie_of_islandsRun hrun _)

end

/-! ## Queues -/

theorem State.cmd_congr {s t : State} {q : Nat} (h : t.queue q = s.queue q) (i : Nat) : t.cmd q i = s.cmd q i := by
  rw [State.cmd, State.cmd, h]

/-- A completion takes its command out of the queue and lets the queue wait as before; it leaves the schedulers. -/
theorem State.complete_done {s : State} {q i : Nat} {c : Cmd} (hc : s.cmd q i = some c) (st : Status) (result : Nat) :
    (s.complete q i st result).cmd q i = none ∧
    ((s.complete q i st result).queue q).waiting = (s.queue q).waiting ∧ (s.complete q i st result).sch = s.sch := by
  have hwritten := s.taskSide_writeLocal .hearth (s.qcbase q + 16 * ((s.queue q).completed % s.qsize q))
    (completionBytes q (s.queue q).completed (s.qsize q) c.tag st.number result)
  have hqueue := State.queue_congr (State.hrt_of_taskSide hwritten) q
  rw [State.complete_eq hc rfl hqueue]
  refine ⟨?_, ?_, ?_⟩
  · rw [State.cmd_congr (State.queue_congr (State.interruptIf_hrt ..) q), State.cmd_completing]
  · rw [State.queue_congr (State.interruptIf_hrt ..), State.queue_modQueue_same, Queue.completing, hqueue]
  · rw [State.interruptIf_sch, State.modQueue_sch, State.sch_of_taskSide hwritten]

/-! ## INJECT starts (R125, R126) -/

theorem State.injectSource_noted (s : State) (q : Nat) (c : Cmd) (n : Nat) : Noted s (s.injectSource q c n).1 := by
  unfold State.injectSource
  dsimp only
  split
  · exact Noted.refl s
  · split
    · split
      · exact Noted.refl s
      · exact State.readVa_noted _ _ _ (Noted.refl s)
    · split
      · exact State.readLocal_noted _ _ _ (Noted.refl s)
      · exact Noted.refl s

/-- The state in which an INJECT's tasks wait for room, and its queue fetches nothing. -/
def State.injectWaits (s : State) (q i : Nat) (ds : List (List Byte)) : State :=
  { (s.modQueue q fun x => { x with waiting := true }) with
    sch := { s.sch with injects := s.sch.injects ++ [⟨q, i, ds.map fun d => (parseTask d).2⟩] } }

theorem State.injectWaits_waiting (s : State) (q i : Nat) (ds : List (List Byte)) :
    ((s.injectWaits q i ds).queue q).waiting = true := congrArg Queue.waiting (s.queue_modQueue_same ..)

/-- The first descriptor of a list that fails a check, with its index. -/
def State.firstRefused (s : State) (q : Nat) (c : Cmd) (ds : List (List Byte)) : Option (List Byte × Nat) :=
  ds.zipIdx.find? fun d => (s.injectCheck q c d.1).isSome

theorem State.firstRefused_none {s : State} {q : Nat} {c : Cmd} {ds : List (List Byte)}
    (h : ∀ d ∈ ds, s.injectCheck q c d = none) : s.firstRefused q c ds = none := by
  refine List.find?_eq_none.mpr fun d hd => ?_
  rw [h d.1 (List.fst_mem_of_mem_zipIdx hd)]
  decide

theorem State.firstRefused_some {s : State} {q : Nat} {c : Cmd} {pre post : List (List Byte)} {d : List Byte} {code : Nat}
    (hpre : ∀ x ∈ pre, s.injectCheck q c x = none) (hd : s.injectCheck q c d = some code) :
    s.firstRefused q c (pre ++ d :: post) = some (d, pre.length) := by
  have hnone := State.firstRefused_none hpre
  unfold State.firstRefused at hnone ⊢
  rw [List.zipIdx_append, List.find?_append, hnone, List.zipIdx_cons, List.find?_cons_of_pos (by simp [hd])]
  simp

/-- An INJECT whose source is read waits, or is refused by its first descriptor that fails a check. -/
theorem State.inject_sourced {s s1 : State} {q i n : Nat} {c : Cmd} {bs : List Byte} (hrow : s.ofRow q i 0 1 = some c)
    (hn : n = c.arg 0x10 2) (hlo : 1 ≤ n) (hhi : n ≤ 256) (hflags : fld (c.arg 8 8) 48 15 = 0)
    (hrest : c.restZero [(8, 8), (0x10, 2)] = true) (hsource : (s.start q i).injectSource q c n = (s1, .ok, bs))
    {ds : List (List Byte)} (hds : ds = (List.range n).map (fun j => (bs.drop (64 * j)).take 64)) :
    s.inject q i = (s1.firstRefused q c ds).elim (s1.injectWaits q i ds)
      fun d => s1.refuseInject q i c ((s1.injectCheck q c d.1).getD 0) d.2 := by
  have hformat : ¬(fld (c.arg 8 8) 48 15 ≠ 0 || !c.restZero [(8, 8), (0x10, 2)] || n = 0 || n > 256) = true := by
    simp [hflags, hrest]
    omega
  subst hds hn
  unfold State.inject
  rw [hrow]
  dsimp only
  rw [if_neg hformat, hsource]
  dsimp only
  unfold State.firstRefused
  split
  next d hfound => rw [hfound, Option.elim_some]
  next hfound => rw [hfound, Option.elim_none, State.injectWaits]

/-- A refused INJECT writes its record and completes as BAD_COMMAND (R126). -/
theorem State.refuseInject_eq (s : State) (q i : Nat) (c : Cmd) (code index : Nat) :
    ∃ detail, s.refuseInject q i c code index = (s.record .sch .contained (dieOfQueue q) code (some c.grove) detail).complete
      q i .badCommand (index + code * 2 ^ 16) := ⟨_, rfl⟩

/-! ## A waiting INJECT is placed (R127) -/

/-- The state once a waiting INJECT's tasks have their slots. -/
def State.injectPlaced (s : State) (q i : Nat) (ts : List Task) : State := (s.endInject q i).each ts State.placeTask

theorem State.injectPlace_room {s : State} {q i : Nat} {p : PendingInject} {c : Cmd}
    (hfind : s.sch.injects.find? (fun x => x.queue == q && x.index == i) = some p) (hcmd : s.cmd q i = some c)
    (hgrove : s.groveIs c.grove c.gen = true) (hroom : s.roomFor p.tasks = true) :
    s.injectPlace q i = ((s.injectPlaced q i p.tasks).complete q i .ok 0).judge := by
  unfold State.injectPlace
  rw [hfind, hcmd]
  dsimp only
  rw [if_neg (by simp [hgrove]), if_pos hroom]
  rfl

theorem State.roomFor_congr {s t : State} (h : t.sch.slots = s.sch.slots) (ts : List Task) :
    t.roomFor ts = s.roomFor ts := by
  have hused : ∀ k, t.used k = s.used k := fun k => by rw [State.used, State.used, h]
  simp only [State.roomFor, hused]

/-- The placed tasks hold their slots, and the queue fetches again. -/
theorem State.injectPlaced_done {s : State} (q i : Nat) {ts : List Task} (hroom : s.roomFor ts = true) :
    (s.injectPlaced q i ts).cmd q i = s.cmd q i ∧ ((s.injectPlaced q i ts).queue q).waiting = false ∧
    (s.injectPlaced q i ts).sch.injects = s.sch.injects.filter (fun x => !(x.queue == q && x.index == i)) ∧
    ∀ tile, (s.injectPlaced q i ts).used tile = s.used tile + (ts.filter fun x => x.tile == tile).length := by
  obtain ⟨hhrt, hinjects⟩ := (s.endInject q i).placeTasks_frame ts
  have hqueue : (s.injectPlaced q i ts).queue q = { s.queue q with waiting := false } :=
    (State.queue_congr hhrt q).trans (s.queue_modQueue_same ..)
  have hslots : (s.endInject q i).sch.slots = s.sch.slots := rfl
  refine ⟨?_, ?_, hinjects, fun tile => ?_⟩
  · rw [State.cmd, State.cmd, hqueue]
  · rw [hqueue]
  · rw [State.injectPlaced, State.used_placeTasks ((State.roomFor_congr hslots ts).trans hroom), State.used, State.used,
      hslots]

/-! ## Dispatch (R130) -/

theorem State.slot_modSlot (s : State) (key : Nat) (f : Slot → Slot) (k : Nat) :
    (s.modSlot key f).slot k = (s.slot k).map fun x => if k = key then f x else x := by
  rw [State.slot, s.slots_modSlot, tget_tmap]
  rfl

theorem regAddr_dispatched (tile : Nat) : regAddr .SCH_DISPATCHED [tile] = 0x200090 + 0x1000 * tile := by
  simp [regAddr, regDesc]

theorem regAddr_starve (tile unit : Nat) : regAddr .SCH_STARVE [tile, unit] = 0x200060 + (0x1000 * tile + 8 * unit) := by
  simp [regAddr, regDesc]

theorem regAddr_waitCyc (tile : Nat) : regAddr .SCH_WAIT_CYC [tile] = 0x200080 + 0x1000 * tile := by
  simp [regAddr, regDesc]

theorem regAddr_creditStall (tile : Nat) : regAddr .SCH_CREDIT_STALL [tile] = 0x200088 + 0x1000 * tile := by
  simp [regAddr, regDesc]

theorem regAddr_holdCyc (tile : Nat) : regAddr .SCH_HOLD_CYC [tile] = 0x200098 + 0x1000 * tile := by
  simp [regAddr, regDesc]

theorem regAddr_busy (tile unit : Nat) : regAddr .SCH_BUSY [tile, unit] = 0x200040 + (0x1000 * tile + 8 * unit) := by
  simp [regAddr, regDesc]

theorem regAddr_depth (tile : Nat) : regAddr .SCH_DEPTH [tile] = 0x200000 + 0x1000 * tile := by
  simp [regAddr, regDesc]

theorem State.countStalls_noted (s : State) (tile unit : Nat) (c : StallCycles) : Noted s (s.countStalls tile unit c) := by
  have hbump : ∀ (b : State) (r : Reg) (ix : List Nat) (n : Nat), Noted s b →
      Noted s (if n = 0 then b else b.bump r ix n) :=
    fun b r ix n hb => Noted.ite hb (State.bump_noted r ix n hb)
  exact hbump _ _ _ _ (hbump _ _ _ _ (hbump _ _ _ _ (hbump _ _ _ _ (Noted.refl s))))

/-- The stall counters are not the dispatch counter. -/
theorem State.dispatched_countStalls (s : State) (tile : Nat) {unit : Nat} (hunit : unit < 4) (c : StallCycles) :
    (s.countStalls tile unit c).getReg .SCH_DISPATCHED [tile] = s.getReg .SCH_DISPATCHED [tile] := by
  have hdispatched := regAddr_dispatched tile
  have hbump : ∀ (b : State) {r : Reg} {ix : List Nat} (n : Nat), 0x200000 ≤ regAddr r ix →
      regAddr r ix ≠ regAddr .SCH_DISPATCHED [tile] →
      (if n = 0 then b else b.bump r ix n).getReg .SCH_DISPATCHED [tile] = b.getReg .SCH_DISPATCHED [tile] := by
    intro b r ix n hfar hne
    split
    · rfl
    · exact b.getReg_bump_other n (by omega) (by omega) (Ne.symm hne)
  have hstarve := regAddr_starve tile unit
  have hwait := regAddr_waitCyc tile
  have hcredit := regAddr_creditStall tile
  have hhold := regAddr_holdCyc tile
  unfold State.countStalls
  extract_lets starved waited credited
  rw [hbump credited _ (by omega) (by omega), hbump waited _ (by omega) (by omega), hbump starved _ (by omega) (by omega),
    hbump s _ (by omega) (by omega)]

/-- The state once a unit runs a slot's task. -/
def State.runs (s : State) (tile unit : Nat) (c : StallCycles) (key : Nat) : State :=
  (s.countStalls tile unit c).modSlot key fun x => { x with st := .running }

theorem State.dispatch_first {s : State} {tile unit : Nat} {p : Nat × Slot} (c : StallCycles) (hrun : s.islandsRun = true)
    (hidle : s.unitBusy tile unit = false) (hopen : s.tileStopped tile unit = false)
    (hfirst : firstTask (s.candidates tile unit) = some p) :
    s.dispatch tile unit c = (s.runs tile unit c p.1).bump .SCH_DISPATCHED [tile] := by
  unfold State.dispatch
  rw [if_neg (by simp [hrun, hidle, hopen]), hfirst]
  rfl

theorem State.slot_runs (s : State) (tile unit : Nat) (c : StallCycles) (key k : Nat) :
    (s.runs tile unit c key).slot k = (s.slot k).map fun x => if k = key then { x with st := .running } else x := by
  rw [State.runs, State.slot_modSlot, State.slot, (s.countStalls_noted tile unit c).sch]
  rfl

/-- A unit that takes a task changes no knot, no flow and no memory, and not the dispatch counter. -/
theorem State.runs_frame (s : State) (tile : Nat) {unit : Nat} (hunit : unit < 4) (c : StallCycles) (key : Nat) :
    (s.runs tile unit c key).sch.knots = s.sch.knots ∧ (s.runs tile unit c key).sch.flows = s.sch.flows ∧
    (s.runs tile unit c key).mem = s.mem ∧ (s.runs tile unit c key).til = s.til ∧
    (s.runs tile unit c key).getReg .SCH_DISPATCHED [tile] = s.getReg .SCH_DISPATCHED [tile] := by
  have hnoted := s.countStalls_noted tile unit c
  exact ⟨(congrArg SchedState.knots hnoted.sch :), (congrArg SchedState.flows hnoted.sch :), hnoted.mem, hnoted.til,
    s.dispatched_countStalls tile hunit c⟩

/-! ## SCH_CLEAR (R146) -/

/-- What one step of a list establishes and every step keeps holds at its end. -/
theorem State.each_establishes {α : Type} {P : State → Prop} {f : State → α → State} (hkeep : ∀ b x, P b → P (f b x))
    {x : α} (hset : ∀ b, P (f b x)) {l : List α} (hx : x ∈ l) (s : State) : P (s.each l f) := by
  induction l generalizing s with
  | nil => cases hx
  | cons y l ih =>
    rw [State.each_cons]
    cases hx with
    | head => exact State.each_keeps hkeep l (hset s)
    | tail _ hx => exact ih hx _

/-- Zeroing a register leaves every register zero that was. -/
theorem State.getReg_putReg_zero {s : State} {r : Reg} {ix : List Nat} (p : Reg) (jx : List Nat) (h : s.getReg r ix = 0) :
    (s.putReg p jx 0).getReg r ix = 0 := by
  by_cases haddr : regAddr r ix = regAddr p jx
  · rw [State.getReg, haddr]
    exact tgetD_tset_same ..
  · rw [State.getReg_putReg_other _ _ haddr, h]

/-- The state with a tile's BUSY and STARVE counters at zero. -/
def State.unitsCleared (s : State) (tile : Nat) : State :=
  s.each (List.range 4) fun s u => (s.putReg .SCH_BUSY [tile, u] 0).putReg .SCH_STARVE [tile, u] 0

theorem State.clearSchCounters_eq (s : State) (tile : Nat) : s.clearSchCounters tile =
    (s.unitsCleared tile).each [Reg.SCH_WAIT_CYC, .SCH_CREDIT_STALL, .SCH_DISPATCHED, .SCH_HOLD_CYC]
      fun s r => s.putReg r [tile] 0 := rfl

theorem State.unitsCleared_zero (s : State) (tile : Nat) {u : Nat} (h : u < 4) :
    (s.unitsCleared tile).getReg .SCH_BUSY [tile, u] = 0 ∧ (s.unitsCleared tile).getReg .SCH_STARVE [tile, u] = 0 := by
  refine State.each_establishes
    (P := fun b => b.getReg .SCH_BUSY [tile, u] = 0 ∧ b.getReg .SCH_STARVE [tile, u] = 0) (fun b x hb => ?_) (fun b => ?_)
    (List.mem_range.mpr h) s
  · exact ⟨State.getReg_putReg_zero _ _ (State.getReg_putReg_zero _ _ hb.1),
      State.getReg_putReg_zero _ _ (State.getReg_putReg_zero _ _ hb.2)⟩
  · exact ⟨State.getReg_putReg_zero _ _ (State.getReg_putReg_same ..), State.getReg_putReg_same ..⟩

theorem State.clearSchCounters_units (s : State) (tile : Nat) {u : Nat} (h : u < 4) :
    (s.clearSchCounters tile).getReg .SCH_BUSY [tile, u] = 0 ∧
    (s.clearSchCounters tile).getReg .SCH_STARVE [tile, u] = 0 := by
  rw [State.clearSchCounters_eq]
  exact State.each_keeps (P := fun b => b.getReg .SCH_BUSY [tile, u] = 0 ∧ b.getReg .SCH_STARVE [tile, u] = 0)
    (fun b r hb => ⟨State.getReg_putReg_zero _ _ hb.1, State.getReg_putReg_zero _ _ hb.2⟩) _ (s.unitsCleared_zero tile h)

theorem State.clearSchCounters_tile (s : State) (tile : Nat) {r : Reg}
    (h : r ∈ [Reg.SCH_WAIT_CYC, .SCH_CREDIT_STALL, .SCH_DISPATCHED, .SCH_HOLD_CYC]) :
    (s.clearSchCounters tile).getReg r [tile] = 0 := by
  rw [State.clearSchCounters_eq]
  exact State.each_establishes (P := fun b => b.getReg r [tile] = 0) (f := fun s r => s.putReg r [tile] 0)
    (fun b p hb => State.getReg_putReg_zero _ _ hb) (fun b => State.getReg_putReg_same ..) h _

theorem State.clearSchCounters_depth (s : State) (tile : Nat) :
    (s.clearSchCounters tile).getReg .SCH_DEPTH [tile] = s.getReg .SCH_DEPTH [tile] := by
  have hdepth := regAddr_depth tile
  have hput : ∀ (b : State) {r : Reg} {ix : List Nat}, regAddr r ix ≠ regAddr .SCH_DEPTH [tile] →
      b.getReg .SCH_DEPTH [tile] = s.getReg .SCH_DEPTH [tile] →
      (b.putReg r ix 0).getReg .SCH_DEPTH [tile] = s.getReg .SCH_DEPTH [tile] :=
    fun b r ix hne hb => (b.getReg_putReg_other _ (Ne.symm hne)).trans hb
  have hunits : (s.unitsCleared tile).getReg .SCH_DEPTH [tile] = s.getReg .SCH_DEPTH [tile] := by
    refine State.each_keeps (P := fun b => b.getReg .SCH_DEPTH [tile] = s.getReg .SCH_DEPTH [tile]) (fun b u hb => ?_) _ rfl
    have hbusy := regAddr_busy tile u
    have hstarve := regAddr_starve tile u
    exact hput _ (by omega) (hput _ (by omega) hb)
  have hwait := regAddr_waitCyc tile
  have hcredit := regAddr_creditStall tile
  have hdispatched := regAddr_dispatched tile
  have hhold := regAddr_holdCyc tile
  rw [State.clearSchCounters_eq]
  exact hput _ (by omega) (hput _ (by omega) (hput _ (by omega) (hput _ (by omega) hunits)))

/-- Clearing counters changes the register window only. -/
theorem State.clearSchCounters_frame (s : State) (tile : Nat) : { s.clearSchCounters tile with regs := s.regs } = s := by
  rw [State.clearSchCounters_eq]
  have hkeep : ∀ (b : State) (r : Reg) (ix : List Nat), { b with regs := s.regs } = s →
      { b.putReg r ix 0 with regs := s.regs } = s := fun _ _ _ hb => hb
  exact State.each_keeps (P := fun b : State => { b with regs := s.regs } = s) (fun b r hb => hkeep b _ _ hb) _
    (State.each_keeps (P := fun b : State => { b with regs := s.regs } = s)
      (fun b u hb => hkeep _ _ _ (hkeep b _ _ hb)) _ rfl)

/-- Settles O17: an INJECT waits or is refused by its first bad descriptor; placing takes a slot for each task, and neither
the completion nor judging frees one; a dispatch changes its slot's state and counts 1. -/
theorem tasksEnterAndStart : Obligations.TasksEnterAndStart := by
  unfold Obligations.TasksEnterAndStart
  refine ⟨fun s q i c hrun => ⟨fun s1 n bs ds hrow hn hlo hhi hflags hrest hsource hds =>
      ⟨fun hpass => ?waits, fun pre d post code hsplit hpre hd => ?refused⟩, fun p hfind hcmd hgrove hroom => ?placed⟩,
    fun s tile unit c hrun => ⟨fun p hunit hidle hopen hfirst => ?dispatched, ?highWater, ?counters⟩⟩
  case waits =>
    have hinject : s.inject q i = s1.injectWaits q i ds := by
      rw [State.inject_sourced hrow hn hlo hhi hflags hrest hsource hds, State.firstRefused_none hpass,
        Option.elim_none]
    have hnoted : Noted (s.start q i) s1 := by
      have hread := (s.start q i).injectSource_noted q c n
      rwa [hsource] at hread
    exact ⟨_, (exec_inject hrun q i).trans (congrArg _ hinject), (congrArg SchedState.slots hnoted.sch :),
      s1.injectWaits_waiting q i ds, rfl, rfl, rfl⟩
  case refused =>
    have hinject : s.inject q i = s1.refuseInject q i c code pre.length := by
      rw [State.inject_sourced hrow hn hlo hhi hflags hrest hsource hds, hsplit, State.firstRefused_some hpre hd,
        Option.elim_some, hd, Option.getD_some]
    obtain ⟨detail, hrefuse⟩ := s1.refuseInject_eq q i c code pre.length
    refine ⟨_, (exec_inject hrun q i).trans (congrArg _ (hinject.trans hrefuse)), State.record_sch .., State.record_mem ..,
      fun hroom => ⟨_, State.lastRecord_record _ _ _ _ _ _ _ (by decide) hroom, rfl, rfl, rfl⟩⟩
  case placed =>
    obtain ⟨hcmds, hfetches, hinjects, hused⟩ := State.injectPlaced_done q i hroom
    obtain ⟨hdone, hwaiting, hsch⟩ := State.complete_done (hcmds.trans hcmd) .ok 0
    have hjudged := ((s.injectPlaced q i p.tasks).complete q i .ok 0).judge_rejudged
    have hqueue := State.queue_congr hjudged.hrt q
    have hkeys := hjudged.keys
    rw [hsch] at hkeys
    exact ⟨_, (exec_injectPlace hrun q i).trans (congrArg _ (State.injectPlace_room hfind hcmd hgrove hroom)),
      (State.cmd_congr hqueue i).trans hdone, (congrArg Queue.waiting hqueue).trans (hwaiting.trans hfetches),
      fun tile => (State.used_congr hkeys tile).trans (hused tile),
      (hjudged.injects.trans (congrArg SchedState.injects hsch)).trans hinjects⟩
  case dispatched =>
    obtain ⟨hknots, hflows, hmem, htil, hcount⟩ := s.runs_frame tile hunit c p.1
    have hfar : 0x30400 < regAddr .SCH_DISPATCHED [tile] := by rw [regAddr_dispatched]; omega
    have hnoted := State.bump_noted .SCH_DISPATCHED [tile] 1 (Noted.refl (s.runs tile unit c p.1))
    have hslot : ∀ k, ((s.runs tile unit c p.1).bump .SCH_DISPATCHED [tile]).slot k =
        (s.slot k).map fun x => if k = p.1 then { x with st := .running } else x := fun k => by
      rw [State.slot, hnoted.sch, ← s.slot_runs tile unit c, State.slot]
    refine ⟨_, (exec_taskDispatch hrun tile unit c).trans (congrArg _ (State.dispatch_first c hrun hidle hopen hfirst)),
      (hslot p.1).trans (by simp), fun k hk => (hslot k).trans (by simp [hk]),
      (congrArg SchedState.knots hnoted.sch).trans hknots, (congrArg SchedState.flows hnoted.sch).trans hflows, ?_,
      hnoted.mem.trans hmem, hnoted.til.trans htil⟩
    rw [State.getReg_bump_same _ _ hfar, wfld_statAdd, hcount]
  case highWater =>
    exact ⟨_, exec_schClearHighWater hrun tile, (congrArg (wfld · 48 11) (s.getReg_putReg_same ..)).trans
      (wfld_setFld_same (by decide)), fun a ha => tget_tset_other _ _ ha, rfl⟩
  case counters =>
    exact ⟨_, exec_schClearCounters hrun tile, fun u hu => s.clearSchCounters_units tile hu,
      fun r hr => s.clearSchCounters_tile tile hr, s.clearSchCounters_depth tile, s.clearSchCounters_frame tile⟩

end Sys2Proof.Machine
end

section
/-! PROOFS. What judging, messages, writes to memory and completions leave: a property that does not look at what they
change holds after them as before. -/
namespace Sys2Proof.Machine

/-- A property that does not look at what records, interrupts and the schedulers change. -/
structure TaskFree (P : State → Prop) : Prop where
  noted : ∀ {a b : State}, Noted a b → P a → P b
  sch : ∀ {a : State} (x : SchedState), P a → P { a with sch := x }

/-- A property that does not look at what messages, writes to memory and completions change either. -/
structure TrafficFree (P : State → Prop) : Prop extends TaskFree P where
  outbox : ∀ {a : State} (x : List Msg), P a → P { a with outbox := x }
  lnk : ∀ {a : State} (x : LinkState), P a → P { a with lnk := x }
  grv : ∀ {a : State} (x : GroveState), P a → P { a with grv := x }
  mem : ∀ {a : State} (x : MemState), P a → P { a with mem := x }
  kln : ∀ {a : State} (x : KilnState), P a → P { a with kln := x }
  hrt : ∀ {a : State} (x : HearthState), P a → P { a with hrt := x }

/-- A fold each of whose steps keeps a property of the state of a pair keeps it as a whole. -/
theorem State.foldl_keeps {α β : Type} {P : State → Prop} {f : State × β → α → State × β}
    (hf : ∀ q x, P q.1 → P (f q x).1) (l : List α) {q : State × β} (hq : P q.1) : P (l.foldl f q).1 := by
  induction l generalizing q with
  | nil => exact hq
  | cons x l ih => exact ih (hf q x hq)

/-! ## Judging (R128, R129) and signals (R135, R136) -/

namespace TaskFree

variable {P : State → Prop} (hP : TaskFree P) {s : State}
include hP

theorem record (src : Src) (sev : Sev) (die code : Nat) (grove : Option Nat) (detail : Nat) (h : P s) :
    P (s.record src sev die code grove detail) := hP.noted (State.record_noted _ _ _ _ _ _ (Noted.refl s)) h

theorem bump (r : Reg) (ix : List Nat) (n : Nat) (h : P s) : P (s.bump r ix n) :=
  hP.noted (State.bump_noted _ _ _ (Noted.refl s)) h

theorem endTask (key : Nat) (h : P s) : P (s.endTask key) := by
  unfold State.endTask
  split
  · exact h
  · exact hP.noted (State.putReg_noted _ _ _ (Noted.refl _)) (hP.sch _ (hP.sch _ h))

theorem judgeTypes (key : Nat) (x : Slot) (h : P s) : P (s.judgeTypes key x) := by
  unfold State.judgeTypes
  split
  · split
    · exact hP.endTask _ (hP.noted (s.knotType_noted ..) h)
    · exact h
  · exact h

theorem request (key : Nat) (x : Slot) (h : P s) : P (s.request key x) := by
  unfold State.request
  dsimp only
  repeat' split
  case h_1.isFalse => exact hP.sch _ h
  all_goals exact h

theorem grant (k fuel : Nat) (h : P s) : P (s.grant k fuel) := by
  induction fuel generalizing s with
  | zero => exact h
  | succ fuel ih =>
    unfold State.grant
    dsimp only
    repeat' split
    case h_1.isTrue => exact ih (hP.sch _ (hP.sch _ h))
    all_goals exact h

theorem makeReady (key : Nat) (x : Slot) (h : P s) : P (s.makeReady key x) := by
  have hwithdrawn : P (s.withdraw (· == key)) := hP.sch _ h
  have hread := hP.noted ((s.withdraw (· == key)).readDesc_noted x.task) hwithdrawn
  unfold State.makeReady
  dsimp only
  split
  · exact hP.sch _ hwithdrawn
  · split <;> rename_i heq <;> rw [heq] at hread
    · exact hP.sch _ hread
    · exact hP.endTask _ (hP.noted (State.tilRecord_noted ..) hread)
    · exact hP.endTask _ (hP.noted (State.staleRecord_noted _ _ _ _ _ (Noted.refl _)) hread)
    · exact hP.endTask _ hread

theorem judge (h : P s) : P s.judge := by
  unfold State.judge
  extract_lets typed asked granted again _ counted
  have htyped : P typed := State.each_keeps (fun _ p => hP.judgeTypes p.1 p.2) _ h
  have hasked : P asked := State.each_keeps (fun _ p => hP.request p.1 p.2) _ htyped
  have hgranted : P granted := State.each_keeps (fun _ p => hP.grant p.1 _) _ hasked
  have hagain : P again := State.each_keeps (fun _ p => hP.request p.1 p.2) _ hgranted
  refine State.each_keeps (fun b p hb => ?_) _ (hP.sch _ hagain)
  split
  · exact hP.makeReady _ _ hb
  · exact hb

theorem engineSignal (k a : Nat) (h : P s) : P (s.engineSignal k a) := by
  unfold State.engineSignal
  split
  · exact hP.noted (s.knotType_noted ..) h
  · exact hP.judge (hP.noted (State.knotOverflow_noted ..) (hP.sch _ h))
  · exact hP.judge (hP.sch _ h)

end TaskFree

/-! ## Messages (R433 to R437), writes to memory (R391 to R397) and completions (R99) -/

namespace TrafficFree

variable {P : State → Prop} (hP : TrafficFree P) {s : State}
include hP

theorem modPort (p : Nat) (f : Port → Port) (h : P s) : P (s.modPort p f) := hP.lnk _ h

theorem modChannel (c : Nat) (f : Channel → Channel) (h : P s) : P (s.modChannel c f) := hP.mem _ h

theorem putLine (c line : Nat) (bs : List Byte) (h : P s) : P (s.putLine c line bs) := hP.mem _ h

theorem bumpPort (p : Nat) (t b : Reg) (n : Nat) (h : P s) : P (s.bumpPort p t b n) := by
  unfold State.bumpPort
  split
  · exact h
  · exact hP.bump _ _ _ h

theorem transmit (p : Nat) (f : LFlit) (h : P s) : P (s.transmit p f) := by
  unfold State.transmit
  refine hP.outbox _ ?_
  split
  · exact hP.bumpPort _ _ _ _ (hP.modPort _ _ h)
  · exact hP.modPort _ _ h

theorem pump (p : Nat) (h : P s) : P (s.pump p) := by
  unfold State.pump
  split
  · exact h
  · refine State.foldl_keeps (fun q f hq => ?_) _ (hP.modPort _ _ h)
    dsimp only
    split
    · exact hP.modPort _ _ hq
    · exact hP.transmit _ _ hq

theorem enqueue (p : Nat) (f : LFlit) (h : P s) : P (s.enqueue p f) := hP.pump _ (hP.modPort _ _ h)

theorem dropUnreachable (p dest : Nat) (h : P s) : P (s.dropUnreachable p dest) := by
  unfold State.dropUnreachable State.lnkRecord
  exact hP.record _ _ _ _ _ _ (hP.noted (State.putReg_noted _ _ _ (Noted.refl _)) (hP.bumpPort _ _ _ _ h))

theorem sendDir (d : Nat) (f : LFlit) (h : P s) : P (s.sendDir d f) := by
  unfold State.sendDir
  dsimp only
  repeat' split
  · exact hP.enqueue _ _ h
  · exact hP.enqueue _ _ h
  · exact hP.dropUnreachable _ _ h

theorem sendTrunk (f : LFlit) (arr at_ : Nat) (h : P s) : P (s.sendTrunk f arr at_) := by
  unfold State.sendTrunk
  split
  · exact h
  · exact hP.dropUnreachable _ _ h
  · refine hP.sendDir _ _ ?_
    split
    · exact hP.bumpPort _ _ _ _ h
    · exact h

theorem sendBranch (f : LFlit) (h : P s) : P (s.sendBranch f) := by
  unfold State.sendBranch
  dsimp only
  repeat' split
  · exact hP.dropUnreachable _ _ h
  · exact hP.enqueue _ _ h
  · exact hP.dropUnreachable _ _ h

theorem sendNow (m : HeldMsg) (h : P s) : P (s.sendNow m) := by
  unfold State.sendNow
  split
  · exact hP.outbox _ h
  · refine State.each_keeps (fun b f hb => ?_) _ h
    split
    · exact hP.sendTrunk _ _ _ hb
    · exact hP.sendBranch _ hb

theorem spend (d g a n : Nat) (again : Bool) (h : P s) : P (s.spend d g a n again).1 := by
  unfold State.spend
  dsimp only
  repeat' split
  · exact h
  · exact hP.grv _ h
  · exact hP.grv _ h
  · exact hP.grv _ h
  · exact hP.bump _ _ _ (hP.grv _ h)

theorem sendMsg (die : Nat) (trunk : Bool) (dest opcode grove : Nat) (payload : List Byte) (address : Nat) (h : P s) :
    P (s.sendMsg die trunk dest opcode grove payload address) := by
  unfold State.sendMsg
  extract_lets vc m r
  have hspent : P r.1 := hP.spend _ _ _ _ _ h
  split
  · exact hP.sendNow m h
  · split
    · exact hP.sendNow m hspent
    · exact hP.lnk _ hspent

theorem noteUe (c line : Nat) (h : P s) : P (s.noteUe c line) := hP.noted (State.noteUe_noted _ _ (Noted.refl s)) h

theorem evictWcb (c : Nat) (e : WcbEntry) (h : P s) : P (s.evictWcb c e) := by
  have hput := fun bs => hP.putLine c e.line bs (hP.modChannel c
    (fun ch => { ch with wcb := ch.wcb.filter (·.line != e.line) }) h)
  unfold State.evictWcb
  dsimp only
  repeat' split
  · exact hP.noted (State.ueRecord_noted _ _ _ (State.noteUe_noted _ _ (Noted.refl _))) (hP.modChannel _ _ h)
  · exact hP.bump _ _ _ (hput _)
  · exact hput _

theorem settleAdder (c line : Nat) (h : P s) : P (s.settleAdder c line) := by
  unfold State.settleAdder
  split
  · exact hP.putLine _ _ _ (hP.modChannel _ _ h)
  · exact h

theorem writeLine (c line pos : Nat) (bs : List Byte) (grove : Nat) (h : P s) :
    P (s.writeLine c line pos bs grove).1 := by
  have hsettled := hP.settleAdder c line h
  have hfresh := fun p => (hP.mem _ hsettled : P ((s.settleAdder c line).unsaturate p))
  unfold State.writeLine
  dsimp only
  repeat' split
  · exact hP.putLine _ _ _ (hP.modChannel _ _ (hP.mem _ h))
  · exact hP.noteUe _ _ hsettled
  · exact hP.putLine _ _ _ (hP.modChannel _ _ (hfresh _))
  · exact hP.modChannel _ _ (hfresh _)
  · exact hP.modChannel _ _ (hP.evictWcb _ _ (hfresh _))
  · exact hP.modChannel _ _ (hfresh _)
  · exact hP.modChannel _ _ (hfresh _)

theorem putPage (g o : Nat) (bs : List Byte) (h : P s) : P (s.putPage g o bs) := by
  refine State.each_keeps (fun b i hb => ?_) _ h
  split
  · exact hP.writeLine _ _ _ _ _ hb
  · exact hb

theorem touchWait (g : Nat) (h : P s) : P (s.touchWait g) := by
  unfold State.touchWait
  split
  · split
    · exact h
    · exact hP.record _ _ _ _ _ _ (hP.noted (State.putReg_noted _ _ _ (Noted.refl _)) (hP.kln _ h))
  · exact h

theorem touchPage (page : Nat) (h : P s) : P (s.touchPage page) := by
  unfold State.touchPage
  split
  · exact h
  · split
    · exact h
    · extract_lets die bs free waited old noted kept kln copied touches
      have hwaited : P waited := by
        unfold waited
        split
        · exact hP.touchWait _ h
        · exact h
      have htouches : P touches := hP.bump _ _ _ (hP.bump _ _ _ (hP.kln _ hwaited))
      split
      · exact hP.putPage _ _ _ htouches
      · exact htouches

theorem touch (o : Nat) (h : P s) : P (s.touch o) := by
  unfold State.touch
  split
  · exact h
  · exact hP.touchPage _ h

theorem writeLocal (p : Party) (o : Nat) (bs : List Byte) (h : P s) : P (s.writeLocal p o bs).1 := by
  unfold State.writeLocal
  split
  · refine State.foldl_keeps (fun q k hq => ?_) _ h
    split
    · exact hP.writeLine _ _ _ _ _ (hP.touch _ hq)
    · exact hq
  · exact hP.noted (s.writeFails_noted ..) h

theorem complete (q i : Nat) (st : Status) (result : Nat) (h : P s) : P (s.complete q i st result) := by
  unfold State.complete
  split
  · exact h
  · extract_lets n size written counted
    have hcounted : P counted := hP.hrt _ (hP.writeLocal _ _ _ h)
    split
    · exact hP.noted (State.interrupt_noted _ (Noted.refl _)) hcounted
    · exact hcounted

end TrafficFree

/-! ## What is left of memory, the tiles and the gather units -/

/-- Judging and signals leave memory, the tiles and the gather units. -/
theorem taskFree_units (s : State) : TaskFree fun t => t.mem = s.mem ∧ t.til = s.til ∧ t.gth = s.gth where
  noted hn h := ⟨hn.mem.trans h.1, hn.til.trans h.2.1, hn.gth.trans h.2.2⟩
  sch _ h := h

theorem State.engineSignal_frame (s : State) (k a : Nat) :
    (s.engineSignal k a).mem = s.mem ∧ (s.engineSignal k a).til = s.til ∧ (s.engineSignal k a).gth = s.gth :=
  (taskFree_units s).engineSignal k a ⟨rfl, rfl, rfl⟩

/-- Messages, writes to memory and completions leave the tiles. -/
theorem trafficFree_til (s : State) : TrafficFree fun t => t.til = s.til where
  noted hn h := hn.til.trans h
  sch _ h := h
  outbox _ h := h
  lnk _ h := h
  grv _ h := h
  mem _ h := h
  kln _ h := h
  hrt _ h := h

@[simp] theorem State.til_spend (s : State) (d g a n : Nat) (again : Bool) : (s.spend d g a n again).1.til = s.til :=
  (trafficFree_til s).spend d g a n again rfl

@[simp] theorem State.til_sendMsg (s : State) (die : Nat) (trunk : Bool) (dest opcode grove : Nat) (payload : List Byte)
    (address : Nat) : (s.sendMsg die trunk dest opcode grove payload address).til = s.til :=
  (trafficFree_til s).sendMsg die trunk dest opcode grove payload address rfl

@[simp] theorem State.til_complete (s : State) (q i : Nat) (st : Status) (result : Nat) :
    (s.complete q i st result).til = s.til := (trafficFree_til s).complete q i st result rfl

end Sys2Proof.Machine
end

section
/-! PROOFS. Scratchpads, and what the gather and scatter units leave of the tiles (R226, R227). -/
namespace Sys2Proof.Machine

/-! ## Bytes of a scratchpad (R284) -/

theorem State.scratch_spxWrite (s : State) (t off : Nat) (bs : List Byte) :
    (s.spxWrite t off bs).til.scratch = putCells s.til.scratch (t * 2 ^ 25 + off) bs 0 := rfl

theorem State.spxRead_congr {s t : State} (h : t.til = s.til) (tile off n : Nat) :
    t.spxRead tile off n = s.spxRead tile off n := by
  rw [State.spxRead, State.spxRead, h]

/-- A write to a scratchpad reads back. -/
theorem State.spxRead_spxWrite_same {s : State} (hwf : Memory.wf s.til.scratch = true) (t off : Nat) (bs : List Byte) :
    (s.spxWrite t off bs).spxRead t off bs.length = bs := by
  refine List.ext_getElem (by simp [State.spxRead]) fun i hi hlt => ?_
  have hput := cellGet_putCells_same hwf (t * 2 ^ 25 + off) (n := 0) hlt
  rw [Nat.zero_add, List.getD_eq_getElem _ _ hlt] at hput
  simpa [State.spxRead, State.scratch_spxWrite] using hput

/-- What a write leaves of the tiles depends on the tiles only. -/
theorem State.til_spxWrite_congr {s t : State} (h : t.til = s.til) (tile off : Nat) (bs : List Byte) :
    (t.spxWrite tile off bs).til = (s.spxWrite tile off bs).til := by
  simp only [State.spxWrite, h]

/-- No other byte of any scratchpad changes. -/
theorem State.cellGet_spxWrite_other {s : State} (hwf : Memory.wf s.til.scratch = true) {t off a : Nat} {bs : List Byte}
    (ha : a < t * 2 ^ 25 + off ∨ t * 2 ^ 25 + off + bs.length ≤ a) :
    cellGet (s.spxWrite t off bs).til.scratch a = cellGet s.til.scratch a := by
  rw [State.scratch_spxWrite]
  exact cellGet_putCells_other hwf fun i hi => by omega

/-! ## Commands of the units -/

theorem State.gthRecord_noted {s0 s : State} (q tag code g pos : Nat) (h : Noted s0 s) :
    Noted s0 (s.gthRecord q tag code g pos) := by
  unfold State.gthRecord
  exact State.record_noted _ _ _ _ _ _ (State.putReg_noted _ _ _ h)

theorem State.embRecord_noted {s0 s : State} (die code g t r : Nat) (sev : Sev) (h : Noted s0 s) :
    Noted s0 (s.embRecord die code g t r sev) := by
  unfold State.embRecord
  exact State.record_noted _ _ _ _ _ _ (State.putReg_noted _ _ _ h)

theorem logEnd_lt_gthFault (die : Nat) : 0x30400 < regAddr .GTH_FAULT_LAST [die] := by
  simp [regAddr, regDesc]
  omega

/-- With room in the log, a GTH record is its last. -/
theorem State.gthRecord_last {s : State} (q tag code g pos : Nat) (hroom : s.logRoom = true) :
    ∃ r, (s.gthRecord q tag code g pos).lastRecord = some r ∧ r.src = .gth ∧ r.sev = .contained ∧ r.code = code :=
  ⟨_, State.lastRecord_record _ _ _ _ _ _ _ rfl ((State.logRoom_putReg_far _ (logEnd_lt_gthFault _)).trans hroom), rfl,
    rfl, rfl⟩

@[simp] theorem State.til_stepFault (s : State) (g : Nat) : (s.stepFault g).til = s.til := (rfl)

@[simp] theorem State.til_modGth (s : State) (f : GathState → GathState) : (s.modGth f).til = s.til := (rfl)

@[simp] theorem State.til_modCmd (s : State) (q i : Nat) (f : GthCmd → GthCmd) : (s.modCmd q i f).til = s.til := (rfl)

@[simp] theorem State.til_modRow (s : State) (q i u : Nat) (f : RowFetch → RowFetch) : (s.modRow q i u f).til = s.til :=
  (rfl)

@[simp] theorem State.til_gthRequest (s : State) (die : Nat) : (s.gthRequest die).2.til = s.til := (rfl)

@[simp] theorem State.til_sendRowRead (s : State) (c : GthCmd) (d : GthDesc) (version device req r : Nat) :
    (s.sendRowRead c d version device req r).til = s.til := State.til_sendMsg ..

@[simp] theorem State.til_endGth (s : State) (q i : Nat) (st : Status) (result : Nat) :
    (s.endGth q i st result).til = s.til := by
  rw [State.endGth, State.til_complete, State.til_modGth]

@[simp] theorem State.til_memFaultCmd (s : State) (c : GthCmd) : (s.memFaultCmd c).til = s.til := by
  simp [State.memFaultCmd]

@[simp] theorem State.til_lookupFault (s : State) (c : GthCmd) (code t r : Nat) :
    (s.lookupFault c code t r).til = s.til := by
  simp [State.lookupFault, (State.embRecord_noted (dieOfQueue c.queue) code c.grove t r .contained (Noted.refl s)).til]

@[simp] theorem State.til_gatherEnd (s : State) (q i : Nat) : (s.gatherEnd q i).til = s.til := by
  unfold State.gatherEnd
  repeat' split
  case h_2.isTrue => exact (State.til_endGth ..).trans (s.engineSignal_frame ..).2.1
  all_goals rfl

/-! ## The reads of a gather's rows (R226, R227, R262) -/

theorem State.homeOf_noted (s : State) (g t : Nat) (d : TableDesc) (r : Nat) : Noted s (s.homeOf g t d r).1 := by
  unfold State.homeOf
  split
  · exact Noted.refl s
  · exact State.readVa_noted _ _ _ (Noted.refl s)

/-- A lookup counts, and notes what its read finds. -/
theorem State.lookup_noted (s : State) (die g t r step : Nat) : Noted s (s.lookup die g t r step).1 := by
  unfold State.lookup
  split
  · exact Noted.refl s
  · split
    · exact Noted.refl s
    next d _ =>
      have hhome := s.homeOf_noted g t d r
      split <;> rename_i heq <;> rw [heq] at hhome
      · extract_lets rest
        have hrest : ∀ u, Noted s u → Noted s (rest u).1 := fun u hu => by
          simp only [rest]
          repeat' split
          all_goals exact State.bump_noted _ _ _ hu
        split
        · split
          · exact State.bump_noted _ _ _ hhome
          · exact hrest _ (State.bump_noted _ _ _ hhome)
        · exact hrest _ hhome
      · exact hhome

/-- Asking for rows writes no scratchpad. -/
theorem State.til_issueRows (s : State) (q i fuel : Nat) : (s.issueRows q i fuel).til = s.til := by
  induction fuel generalizing s with
  | zero => rfl
  | succ fuel ih =>
    unfold State.issueRows
    split
    · rfl
    next c _ =>
      split
      next d u _ _ =>
        extract_lets die r bytes
        have hspend := s.til_spend die c.grove 2 ((bytes + 63) / 64) c.held
        split <;> rename_i spent heq <;> rw [heq] at hspend <;> dsimp only at hspend
        · exact (State.til_modCmd ..).trans hspend
        · extract_lets admitted
          have hadmitted : admitted.til = s.til := (State.til_modCmd ..).trans hspend
          have hlook := (admitted.lookup_noted die c.grove d.table r c.step).til
          split <;> rename_i heq' <;> rw [heq'] at hlook <;> dsimp only at hlook
          all_goals simp [ih, hlook, hadmitted]
      · exact State.til_gatherEnd ..

end Sys2Proof.Machine
end

section
/-! PROOFS. GATHER, SCATTER and SCATTER_CLOSE: entry, start and the merge rule (R221 to R235; O22). -/
namespace Sys2Proof.Machine

section
variable {s : State} (hrun : s.islandsRun = true)
include hrun

theorem exec_gather (q i : Nat) : exec (.gather q i) s = .next (s.gthEnter q i 1) :=
  congrArg _ (State.onDie_of_islandsRun hrun _)

theorem exec_scatter (q i : Nat) : exec (.scatter q i) s = .next (s.gthEnter q i 2) :=
  congrArg _ (State.onDie_of_islandsRun hrun _)

/-- GATHER and SCATTER enter alike, each under its own opcode. -/
theorem exec_enter {q i op : Nat} {cmd : Instr} (h : op = 1 ∧ cmd = .gather q i ∨ op = 2 ∧ cmd = .scatter q i) :
    exec cmd s = .next (s.gthEnter q i op) := by
  obtain ⟨rfl, rfl⟩ | ⟨rfl, rfl⟩ := h
  · exact exec_gather hrun q i
  · exact exec_scatter hrun q i

theorem exec_scatterClose (q i : Nat) : exec (.scatterClose q i) s = .next (s.scatterClose q i) :=
  congrArg _ (State.onDie_of_islandsRun hrun _)

theorem exec_gthCommandStart (q i : Nat) (spxUe : Option Nat) :
    exec (.gthCommandStart q i spxUe) s = .next (s.gthStart q i spxUe) :=
  congrArg _ (State.onDie_of_islandsRun hrun _)

end

/-! ## Entry to the wait pool (R221, R222) -/

/-- The pool entry of a GATHER or SCATTER. -/
def Cmd.gthEntry (c : Cmd) (q i op : Nat) (wait : Option (Nat × Nat)) : GthCmd :=
  { queue := q, index := i, op := op, grove := c.grove, gen := c.gen, step := c.arg 0x18 8, tag := c.tag, wait := wait }

/-- The state in which a command has joined the pool, last. -/
def State.pooled (s : State) (x : GthCmd) : State := s.modGth fun y => { y with cmds := y.cmds ++ [x] }

/-- A command that passes its checks joins the pool if its step is the grove's current one or the next, and is refused
otherwise. -/
theorem State.gthEnter_checked {s : State} {q i op : Nat} {c : Cmd} (hrow : s.ofRow q i 2 op = some c)
    (hrest : c.restZero [(8, 8), (0x10, 8), (0x18, 8)] = true) (hva : c.arg 8 8 < 2 ^ 48) (halign : c.arg 8 8 % 64 = 0)
    (hstep : c.arg 0x18 8 < 2 ^ 48) (hwait : (s.waitEntry (dieOfQueue q) (c.arg 0x10 8)).1 = true) :
    s.gthEnter q i op =
      if c.arg 0x18 8 = (s.step_ c.grove).step ∨ c.arg 0x18 8 = stepSucc (s.step_ c.grove).step then
        (s.start q i).pooled (c.gthEntry q i op (s.waitEntry (dieOfQueue q) (c.arg 0x10 8)).2)
      else (s.start q i).refuseGth q i c 0x03 := by
  have hstarted : (s.start q i).waitEntry = s.waitEntry := (rfl)
  have hsame : (s.start q i).step_ = s.step_ := (rfl)
  have hbelow : ¬ c.arg 8 8 ≥ 2 ^ 48 := Nat.not_le.mpr hva
  have hnum : ¬ c.arg 0x18 8 ≥ 2 ^ 48 := Nat.not_le.mpr hstep
  unfold State.gthEnter
  simp only [hrow, hstarted, hsame, hrest, halign, hwait, hbelow, hnum]
  rw [if_neg (by simp)]
  by_cases hcur : c.arg 0x18 8 = (s.step_ c.grove).step ∨ c.arg 0x18 8 = stepSucc (s.step_ c.grove).step
  · rw [if_pos hcur]
    exact if_neg (by simpa [or_iff_not_imp_left] using hcur)
  · rw [if_neg hcur]
    exact if_pos (by simpa [not_or] using hcur)

/-! ## SCATTER_CLOSE (R221, R235) -/

/-- The pool entry of a SCATTER_CLOSE. -/
def Cmd.closeEntry (c : Cmd) (q i : Nat) : GthCmd :=
  { queue := q, index := i, op := 3, grove := c.grove, gen := c.gen, step := c.arg 0x18 8, tag := c.tag, wait := none,
    closeCount := c.arg 8 4, signal := (parseEntry (c.arg 0x10 8)).2.getD (0, 0) }

/-- The state in which a close has joined the pool, last, and its scatter_count is kept. -/
def State.closing (s : State) (q i : Nat) (c : Cmd) : State :=
  s.modGth fun y => { y with
    cmds := y.cmds ++ [c.closeEntry q i],
    closes := tmod y.closes (16 * dieOfQueue q + c.grove) [] fun l => l ++ [(c.arg 0x18 8, c.arg 8 4)] }

theorem State.closes_closing (s : State) (q i : Nat) (c : Cmd) :
    tgetD (s.closing q i c).gth.closes (16 * dieOfQueue q + c.grove) [] =
      tgetD s.gth.closes (16 * dieOfQueue q + c.grove) [] ++ [(c.arg 0x18 8, c.arg 8 4)] :=
  tgetD_tmod_same s.gth.closes _ [] fun l => l ++ [(c.arg 0x18 8, c.arg 8 4)]

/-- A close starts nothing while scatters of its step have not completed. -/
theorem State.gthStart_close {s : State} {q i : Nat} {c : GthCmd} (spxUe : Option Nat) (hcmd : s.gthCmd q i = some c)
    (hop : c.op = 3) (hdone : tgetD s.gth.seqDone (16 * dieOfQueue c.queue + c.grove) 0 < c.closeCount) :
    s.gthStart q i spxUe = s := by
  have hwaits : s.closeStart c = s := if_pos hdone
  simp only [State.gthStart, hcmd, hop, hwaits, if_true, ite_self]

theorem State.scatterClose_waits {s : State} {q i : Nat} {c : Cmd} (hrow : s.ofRow q i 2 3 = some c)
    (hrest : c.restZero [(8, 4), (0x10, 8), (0x18, 8)] = true) (hpos : 1 ≤ c.arg 8 4) (hmax : c.arg 8 4 ≤ 65536)
    (hstep : c.arg 0x18 8 < 2 ^ 48) (hcur : c.arg 0x18 8 = (s.step_ c.grove).step)
    (hsig : (parseEntry (c.arg 0x10 8)).1 = true)
    (hdone : tgetD s.gth.seqDone (16 * dieOfQueue q + c.grove) 0 < c.arg 8 4) (hnew : s.gthCmd q i = none) :
    s.scatterClose q i = (s.start q i).closing q i c := by
  have hfind : ((s.start q i).closing q i c).gthCmd q i = some (c.closeEntry q i) := by
    have happ : ((s.start q i).closing q i c).gth.cmds = s.gth.cmds ++ [c.closeEntry q i] := (rfl)
    rw [State.gthCmd] at hnew
    rw [State.gthCmd, happ, List.find?_append, hnew]
    simp [Cmd.closeEntry]
  have hzero : ¬ c.arg 8 4 = 0 := by omega
  have hbelow : ¬ c.arg 8 4 > 65536 := by omega
  have hnum : ¬ c.arg 0x18 8 ≥ 2 ^ 48 := Nat.not_le.mpr hstep
  have hsame : c.arg 0x18 8 = ((s.start q i).step_ c.grove).step := hcur
  refine Eq.trans ?_ (State.gthStart_close none hfind rfl hdone)
  unfold State.scatterClose
  simp only [hrow, hrest, hsig, hzero, hbelow, hnum]
  rw [if_neg (by simp), if_neg (by simp [← hsame])]
  rfl

/-! ## A command of the pool starts (R222, R224) -/

theorem State.gthStart_ready {s s1 : State} {q i : Nat} {c : GthCmd} {qc : Cmd} {b : List Byte} {d : GthDesc}
    (spxUe : Option Nat) (hrun : s.islandsRun = true) (hcmd : s.gthCmd q i = some c) (hqc : s.cmd q i = some qc)
    (hst : c.st = .waiting) (hwait : c.wait = none) (hstep : (s.step_ c.grove).st = .running)
    (hnum : (s.step_ c.grove).step = c.step) (hop : c.op ≠ 3)
    (hread : s.readVa c.grove (qc.arg 8 6) 64 = (s1, .ok, b)) (hparse : parseGth (c.op == 2) c.grove c.gen b = some d)
    (hdie : dieOfTile d.tile = dieOfQueue q) (htile : s1.tileUsable c.grove d.tile = true) :
    s.gthStart q i spxUe = if c.op = 1 then s1.gatherStart c d else s1.scatterStart c d spxUe := by
  unfold State.gthStart
  simp [hcmd, hqc, hst, hwait, hstep, hnum, hrun, hop, hread, hparse, hdie, htile]

theorem State.admitted_noted (s : State) (g : Nat) (d : GthDesc) : Noted s (s.admitted g d).1 := by
  unfold State.admitted
  split <;> exact State.readVa_noted _ _ _ (Noted.refl s)

/-- An index list or a manifest admits each of its entries (R225, R231). -/
theorem State.admitted_length {s s1 : State} {g : Nat} {d : GthDesc} {l : List (Option Nat)}
    (h : s.admitted g d = (s1, .ok, l)) (hkind : d.kind ≠ 0) : l.length = d.count := by
  unfold State.admitted at h
  rw [if_neg hkind] at h
  simp only [Prod.mk.injEq] at h
  obtain ⟨-, hok, rfl⟩ := h
  simp [hok]

/-! ## A gather writes its map (R225, R226) -/

/-- The walk gives each admitted position its word of the map. -/
theorem uniqueWalk_map_length (l : List (Option Nat)) : (uniqueWalk l).2.1.length = l.length := by
  induction l using List.reverseRecOn with
  | nil => rfl
  | append_singleton l r ih =>
    rw [uniqueWalk, List.foldl_append, ← uniqueWalk, List.length_append, ← ih]
    simp only [List.foldl_cons, List.foldl_nil]
    repeat' split
    all_goals simp

theorem length_mapWords (l : List Nat) : (l.flatMap (toLe 4)).length = 4 * l.length := by
  simp [List.length_flatMap, length_toLe, Nat.mul_comm]

section
variable {s s1 : State} {c : GthCmd} {d : GthDesc} {l : List (Option Nat)}
  (hadm : s.admitted c.grove d = (s1, .ok, l)) (hblock : d.offset + d.limit * d.pitch * 64 ≤ scratchSize d.tile)
  (hmap : d.mapOffset ≠ 0xFFFFFFFF) (hfits : d.mapOffset + 4 * l.length ≤ scratchSize d.tile)
  (hunique : (uniqueWalk l).1.length ≤ d.limit) (hman : d.manifest = 0)
include hadm hblock hmap hfits hunique hman

/-- A gather with no manifest whose block, map and unique rows fit leaves the tiles as the write of its map does. -/
theorem State.til_gatherStart :
    (s.gatherStart c d).til =
      (s.spxWrite d.tile d.mapOffset ((uniqueWalk l).2.1.flatMap (toLe 4))).til := by
  have hlist : d.kind = 1 → d.mapOffset + 4 * d.count ≤ scratchSize d.tile := fun hkind =>
    State.admitted_length hadm (by omega) ▸ hfits
  have htil : s1.til = s.til := by
    have hread := (s.admitted_noted c.grove d).til
    rwa [hadm] at hread
  rw [State.gatherStart, if_neg (by simpa using ⟨hblock, fun hkind _ => hlist hkind⟩), State.gatherWalk]
  simp only [hadm]
  rw [if_neg (by simpa using fun _ => hfits), if_neg (Nat.not_lt.mpr hunique)]
  simp only [State.writeMaps, hmap, hman, if_true, if_false, State.til_issueRows, State.til_modCmd]
  refine State.til_spxWrite_congr ?_ ..
  split
  · exact htil
  · exact (State.bump_til ..).trans htil

/-- Such a gather's map lies in the scratchpad, and no other byte of any scratchpad changes. -/
theorem State.gatherStart_writes_map (hwf : Memory.wf s.til.scratch = true) :
    (s.gatherStart c d).spxRead d.tile d.mapOffset (4 * l.length) = (uniqueWalk l).2.1.flatMap (toLe 4) ∧
    ∀ a, a < d.tile * 2 ^ 25 + d.mapOffset ∨ d.tile * 2 ^ 25 + d.mapOffset + 4 * l.length ≤ a →
      cellGet (s.gatherStart c d).til.scratch a = cellGet s.til.scratch a := by
  have htil := State.til_gatherStart hadm hblock hmap hfits hunique hman
  have hbytes : ((uniqueWalk l).2.1.flatMap (toLe 4)).length = 4 * l.length := by
    rw [length_mapWords, uniqueWalk_map_length]
  rw [State.spxRead_congr htil, htil, ← hbytes]
  exact ⟨State.spxRead_spxWrite_same hwf .., fun a ha => State.cellGet_spxWrite_other hwf ha⟩

end

/-! ## A scatter of one row (R231, R233) -/

/-- A descriptor that passes its checks has a row of at least one element. -/
theorem parseGth_rowElems {scatter : Bool} {g gen : Nat} {b : List Byte} {d : GthDesc}
    (h : parseGth scatter g gen b = some d) : 1 ≤ d.rowElems := by
  unfold parseGth at h
  extract_lets sig kind d0 own hops counts slots common rest at h
  split at h
  next hok =>
    obtain rfl := Option.some.inj h
    simp only [common, Bool.and_eq_true, decide_eq_true_eq] at hok
    omega
  · cases h

/-- A row within the first segment touches that segment only. -/
theorem segmentsOf_first {d : GthDesc} (hcol : d.colFirst = 0) (hpos : 1 ≤ d.rowElems) (hmax : d.rowElems ≤ 64) :
    segmentsOf d = [0] := by
  have hzero : ∀ m ∈ List.range 64, (decide (d.colFirst < 64 * (m + 1)) && decide (64 * m < d.colFirst + d.rowElems)) =
      (m == 0) := fun m _ => by
    rw [Bool.eq_iff_iff]
    simp only [Bool.and_eq_true, decide_eq_true_eq, beq_iff_eq]
    omega
  rw [segmentsOf, List.filter_congr hzero]
  decide

/-- The elements of a contribution depend on the tiles only. -/
theorem State.gradElems_congr {s t : State} (h : t.til = s.til) (d : GthDesc) (x seg : Nat) :
    t.gradElems d x seg = s.gradElems d x seg := by
  simp only [State.gradElems, State.spxRead_congr h]

/-- The state in which a segment of a gradient row has been merged and counted. -/
def State.mergeSeg (s : State) (die : Nat) (c : GthCmd) (d : GthDesc) (x r seg : Nat) : State :=
  let key := mergeKey die c.grove d.table r seg
  let e := (tget s.gth.merge key).getD { step := c.step, mask := 0, v := List.replicate 64 0 }
  let s := s.modGth fun y => { y with merge := tset y.merge key (mergeInto e (s.gradElems d x seg)) }
  let s := s.modGth fun y => { y with
    high := tset y.high (16 * die + c.grove) (max (tgetD y.high (16 * die + c.grove) 0) (s.mergeUsed die c.grove)) }
  if (segmentsOf d).head? == some seg then s.bump .GTH_CONTRIB [die] else s

section
variable {s : State} {q i : Nat} {c : GthCmd} {d : GthDesc}

theorem State.mergeSeg_frame (s : State) (die : Nat) (c : GthCmd) (d : GthDesc) (x r seg : Nat) :
    (s.mergeSeg die c d x r seg).gth.cmds = s.gth.cmds ∧ (s.mergeSeg die c d x r seg).til = s.til ∧
    (s.mergeSeg die c d x r seg).mem = s.mem := by
  unfold State.mergeSeg
  dsimp only
  split
  · rw [State.bump_gth, State.bump_til, State.bump_mem]
    exact ⟨rfl, rfl, rfl⟩
  · exact ⟨rfl, rfl, rfl⟩

/-- An empty merge buffer then holds the segment's elements alone. -/
theorem State.merge_mergeSeg (die : Nat) (c : GthCmd) (d : GthDesc) (x r seg : Nat) (hempty : s.gth.merge = []) :
    (s.mergeSeg die c d x r seg).gth.merge =
      [(mergeKey die c.grove d.table r seg,
        mergeInto { step := c.step, mask := 0, v := List.replicate 64 0 } (s.gradElems d x seg))] := by
  have hput : ∀ key v, tset s.gth.merge key v = [(key, v)] := fun key v => by rw [hempty]; rfl
  have hnone : ∀ key, tget s.gth.merge key = none := fun key => by rw [hempty]; rfl
  unfold State.mergeSeg
  simp only [hnone, Option.getD_none]
  split
  · rw [State.bump_gth]
    exact hput ..
  · exact hput ..

theorem State.gthCmd_single (hcmds : s.gth.cmds = [c]) (hq : c.queue = q) (hi : c.index = i) :
    s.gthCmd q i = some c := by
  simp [State.gthCmd, hcmds, hq, hi]

theorem State.cmds_modCmd_single (hcmds : s.gth.cmds = [c]) (hq : c.queue = q) (hi : c.index = i)
    (f : GthCmd → GthCmd) : (s.modCmd q i f).gth.cmds = [f c] := by
  rw [show (s.modCmd q i f).gth.cmds = s.gth.cmds.map fun c => if c.queue == q && c.index == i then f c else c from rfl,
    hcmds]
  simp [hq, hi]

/-- The command of a scatter with a segment merged: the first of a row counts a contribution. -/
def GthCmd.merged (c : GthCmd) (rest : List (Nat × Nat × Nat)) (first : Bool) : GthCmd :=
  { c with todo := rest, count := c.count + b2n first }

/-- The state in which a command has left the unit. -/
def State.dropCmd (s : State) (q i : Nat) : State :=
  s.modGth fun x => { x with cmds := x.cmds.filter fun c => !(c.queue == q && c.index == i) }

theorem State.endGth_eq (s : State) (q i : Nat) (st : Status) (result : Nat) :
    s.endGth q i st result = (s.dropCmd q i).complete q i st result := (rfl)

theorem State.cmds_dropCmd_single (hcmds : s.gth.cmds = [c]) (hq : c.queue = q) (hi : c.index = i) :
    (s.dropCmd q i).gth.cmds = [] := by
  rw [show (s.dropCmd q i).gth.cmds = s.gth.cmds.filter fun c => !(c.queue == q && c.index == i) from rfl, hcmds]
  simp [hq, hi]

/-- A scatter merges its next segment while its grove holds no merge entry. -/
theorem State.gthRun_merge {x r seg : Nat} {rest : List (Nat × Nat × Nat)} (fuel : Nat) (hcmd : s.gthCmd q i = some c)
    (hst : c.st = .running) (hop : c.op = 2) (hdesc : c.desc = some d) (htodo : c.todo = (x, r, seg) :: rest)
    (hused : s.mergeUsed (dieOfQueue q) c.grove = 0) :
    s.gthRun q i (fuel + 1) =
      ((s.mergeSeg (dieOfQueue q) c d x r seg).modCmd q i fun c =>
        c.merged rest ((segmentsOf d).head? == some seg)).gthRun q i fuel := by
  rw [State.gthRun]
  simp only [hcmd, hst, hop, hdesc, htodo]
  rw [if_neg (by decide), if_pos (by decide), if_neg (by simp [hused])]
  rfl

/-- A scatter with nothing left to merge signals and completes (R231). -/
theorem State.gthRun_done (fuel : Nat) (hcmd : s.gthCmd q i = some c) (hst : c.st = .running) (hop : c.op = 2)
    (hdesc : c.desc = some d) (htodo : c.todo = []) :
    s.gthRun q i (fuel + 1) =
      ((s.modGth fun y => { y with seqDone := tset y.seqDone (16 * dieOfQueue q + c.grove) (d.limit + 1) }).engineSignal
        d.knot d.amount).endGth q i .ok (c.count + c.out * 2 ^ 32) := by
  rw [State.gthRun]
  simp only [hcmd, hst, hop, hdesc, htodo]
  rw [if_neg (by decide), if_pos (by decide)]

/-- A scatter of one segment into an empty merge buffer, its unit's only command, leaves one merge entry and completes
with one contribution. -/
theorem State.gthRun_segment {r seg : Nat} (fuel : Nat) (hcmds : s.gth.cmds = [c]) (hst : c.st = .running)
    (hop : c.op = 2) (hdesc : c.desc = some d) (htodo : c.todo = [(0, r, seg)]) (hnone : c.count = 0) (hout : c.out = 0)
    (hseg : segmentsOf d = [seg]) (hempty : s.gth.merge = []) :
    ∃ u : State, s.gthRun c.queue c.index (fuel + 2) = u.complete c.queue c.index .ok 1 ∧
      u.gth.merge = [(mergeKey (dieOfQueue c.queue) c.grove d.table r seg,
        mergeInto { step := c.step, mask := 0, v := List.replicate 64 0 } (s.gradElems d 0 seg))] ∧
      u.gth.cmds = [] ∧ u.til = s.til ∧ u.mem = s.mem := by
  generalize hm : s.mergeSeg (dieOfQueue c.queue) c d 0 r seg = m
  obtain ⟨hkept, htil, hmem⟩ := s.mergeSeg_frame (dieOfQueue c.queue) c d 0 r seg
  have hmerge := State.merge_mergeSeg (dieOfQueue c.queue) c d 0 r seg hempty
  rw [hm] at hkept htil hmem hmerge
  have hused : s.mergeUsed (dieOfQueue c.queue) c.grove = 0 := by simp [State.mergeUsed, hempty]
  let v := m.modCmd c.queue c.index fun c => c.merged [] true
  have hcmdsV : v.gth.cmds = [c.merged [] true] := State.cmds_modCmd_single (hkept.trans hcmds) rfl rfl _
  have hfirst := State.gthRun_merge (fuel + 1) (State.gthCmd_single hcmds rfl rfl) hst hop hdesc htodo hused
  rw [hm, hseg, List.head?_cons, beq_self_eq_true] at hfirst
  have hlast := State.gthRun_done fuel (State.gthCmd_single hcmdsV rfl rfl) hst hop hdesc rfl
  have hresult : (c.merged [] true).count + (c.merged [] true).out * 2 ^ 32 = 1 := by
    simp [GthCmd.merged, b2n, hnone, hout]
  rw [hresult] at hlast
  let w := v.modGth fun y => { y with seqDone := tset y.seqDone (16 * dieOfQueue c.queue + c.grove) (d.limit + 1) }
  obtain ⟨hmemW, htilW, hgthW⟩ := w.engineSignal_frame d.knot d.amount
  refine ⟨(w.engineSignal d.knot d.amount).dropCmd c.queue c.index, (hfirst.trans hlast).trans (State.endGth_eq ..),
    (congrArg GathState.merge hgthW).trans hmerge, ?_, htilW.trans htil, hmemW.trans hmem⟩
  refine State.cmds_dropCmd_single (c := c.merged [] true) ?_ rfl rfl
  rw [hgthW]
  exact hcmdsV

end

/-- The command of a scatter whose walk begins. -/
def GthCmd.walking (c : GthCmd) (d : GthDesc) (todo : List (Nat × Nat × Nat)) : GthCmd :=
  { c with st := .running, desc := some d, todo := todo }

section
variable {s s1 : State} {c : GthCmd} {d : GthDesc} {r : Nat} (hcmds : s.gth.cmds = [c]) (hst : c.st = .waiting)
  (hturn : d.limit = tgetD s.gth.seqDone (16 * dieOfQueue c.queue + c.grove) 0)
  (hcloses : tgetD s.gth.closes (16 * dieOfQueue c.queue + c.grove) [] = []) (hkind : d.kind = 2) (hcount : d.count = 1)
  (hblock : d.offset + d.count * d.pitch * 64 ≤ scratchSize d.tile) (hadm : s.admitted c.grove d = (s1, .ok, [some r]))
  (hseg : segmentsOf d = [0])
include hcmds hst hturn hcloses hkind hcount hblock hadm hseg

/-- A scatter of one manifest row, its die's only command, whose turn it is, begins its walk. -/
theorem State.scatterStart_row :
    s.scatterStart c d none =
      (s1.modCmd c.queue c.index fun c => c.walking d [(0, r, 0)]).gthRun c.queue c.index
        ((s1.modCmd c.queue c.index fun c => c.walking d [(0, r, 0)]).gthFuel c.queue c.index) := by
  have hidle : (s.gth.cmds.find? fun x =>
      dieOfQueue x.queue == dieOfQueue c.queue && x.grove == c.grove && x.op == 2 && x.st != .waiting) = none := by
    simp [hcmds, hst]
  rw [hcount] at hblock
  unfold State.scatterStart
  simp only [hidle, ← hturn, hcloses, hkind, hcount, hadm]
  rw [if_neg (by simpa using hblock), if_neg (by simp), if_neg (by simp), if_neg (by simpa using hblock)]
  simp [hseg, GthCmd.walking]

/-- A scatter of one row within the first segment, its die's only command, leaves one new merge entry and completes with
one contribution. -/
theorem State.scatterStart_completes (hop : c.op = 2) (hnone : c.count = 0) (hout : c.out = 0)
    (hempty : s.gth.merge = []) :
    ∃ u : State, s.scatterStart c d none = u.complete c.queue c.index .ok 1 ∧
      u.gth.merge = [(mergeKey (dieOfQueue c.queue) c.grove d.table r 0,
        mergeInto { step := c.step, mask := 0, v := List.replicate 64 0 } (s.gradElems d 0 0))] ∧
      u.gth.cmds = [] ∧ u.til = s.til ∧ u.mem = s1.mem := by
  have hread : Noted s s1 := by
    have hnoted := s.admitted_noted c.grove d
    rwa [hadm] at hnoted
  let t := s1.modCmd c.queue c.index fun c => c.walking d [(0, r, 0)]
  have hcmdsT : t.gth.cmds = [c.walking d [(0, r, 0)]] :=
    State.cmds_modCmd_single ((congrArg GathState.cmds hread.gth).trans hcmds) rfl rfl _
  have hemptyT : t.gth.merge = [] := (congrArg GathState.merge hread.gth).trans hempty
  obtain ⟨u, hrun, hmerge, hcmdsU, htil, hmem⟩ := State.gthRun_segment (s := t)
    (4 * ((t.gthCmd c.queue c.index).map (·.todo.length) |>.getD 0) + 2 * t.gth.merge.length + 6) hcmdsT rfl hop rfl rfl
    hnone hout hseg hemptyT
  rw [State.gradElems_congr (show t.til = s.til from hread.til)] at hmerge
  exact ⟨u, (State.scatterStart_row hcmds hst hturn hcloses hkind hcount hblock hadm hseg).trans hrun, hmerge, hcmdsU,
    htil.trans hread.til, hmem⟩

end

/-! ## The merge rule (R233) -/

/-- An element that the entry does not hold is taken as it is. -/
theorem mergeInto_first {e : MergeEntry} {k : Nat} (x : Nat) (h : e.mask.testBit k = false) :
    mergeInto e [(k, x)] = { e with v := e.v.set k x, mask := e.mask + 2 ^ k } := by
  simp [mergeInto, h]

/-- An element that the entry holds is added to. -/
theorem mergeInto_next {e : MergeEntry} {k : Nat} (x : Nat) (h : e.mask.testBit k = true) :
    mergeInto e [(k, x)] = { e with v := e.v.modify k fun y => f32Add y x } := by
  simp [mergeInto, h]

/-- Adding a bit that is clear leaves the other bits. -/
theorem testBit_add_two_pow_other {x k j : Nat} (hclear : x.testBit k = false) (hj : j ≠ k) :
    (x + 2 ^ k).testBit j = x.testBit j := by
  rcases Nat.lt_or_gt_of_ne hj with hlt | hgt
  · rw [Nat.add_comm, Nat.testBit_two_pow_add_gt hlt]
  · obtain ⟨m, rfl⟩ := Nat.exists_eq_add_of_lt hgt
    have heven : x / 2 ^ k % 2 = 0 := by simpa [Nat.testBit_eq_decide_div_mod_eq] using hclear
    have habove : (x + 2 ^ k) / 2 ^ (k + 1) = x / 2 ^ (k + 1) := by
      rw [Nat.pow_succ, ← Nat.div_div_eq_div_mul, ← Nat.div_div_eq_div_mul, Nat.add_div_right _ (by positivity)]
      omega
    rw [show k + m + 1 = m + (k + 1) by omega, ← Nat.testBit_div_two_pow, habove, Nat.testBit_div_two_pow]

/-- One element of a contribution: its bit is set, the other elements stay, its first value is taken exactly and a later
one added (R155). -/
theorem mergeInto_element {e : MergeEntry} {k : Nat} (x : Nat) (hk : k < 64) (hlen : e.v.length = 64) :
    (mergeInto e [(k, x)]).mask.testBit k = true ∧
    (∀ j, j ≠ k → (mergeInto e [(k, x)]).mask.testBit j = e.mask.testBit j ∧
      (mergeInto e [(k, x)]).v.getD j 0 = e.v.getD j 0) ∧
    (e.mask.testBit k = false → (mergeInto e [(k, x)]).v.getD k 0 = x) ∧
    (e.mask.testBit k = true → (mergeInto e [(k, x)]).v.getD k 0 = f32Add (e.v.getD k 0) x) := by
  have hin : k < e.v.length := hlen ▸ hk
  cases hheld : e.mask.testBit k with
  | false =>
    rw [mergeInto_first x hheld]
    refine ⟨?_, fun j hj => ⟨testBit_add_two_pow_other hheld hj, ?_⟩, fun _ => ?_, fun h => Bool.noConfusion h⟩
    · rw [Nat.add_comm, Nat.testBit_two_pow_add_eq, hheld]
      rfl
    · simp [List.getD, List.getElem?_set_ne hj.symm]
    · simp [List.getD, hin]
  | true =>
    rw [mergeInto_next x hheld]
    refine ⟨hheld, fun j hj => ⟨rfl, ?_⟩, fun h => Bool.noConfusion h, fun _ => ?_⟩
    · simp [List.getD, hj.symm]
    · simp [List.getD, hin]

/-- Settles O22: a command that passes its checks joins the pool; one that starts walks its records, and a gather writes
the map of that walk, a scatter merges its one segment; the first value of an element is taken, later ones are added. -/
theorem gatherCommands : Obligations.GatherCommands := by
  unfold Obligations.GatherCommands
  refine ⟨fun s q i op cmd c hrun hcmd => ⟨fun hrow hrest hva halign hstep hwait => ⟨fun hcur => ?enters,
    fun hne hnext hroom => ?refused⟩, fun hrow hrest hpos hmax hstep hcur hsig hdone hnew => ?closes⟩, ?starts,
    fun e k x hk hlen _ => mergeInto_element x hk hlen⟩
  case enters =>
    have henter := State.gthEnter_checked hrow hrest hva halign hstep hwait
    rw [if_pos hcur] at henter
    exact ⟨_, (exec_enter hrun hcmd).trans (congrArg _ henter), rfl, rfl, rfl, rfl, rfl⟩
  case refused =>
    have henter := State.gthEnter_checked hrow hrest hva halign hstep hwait
    rw [if_neg (not_or.mpr ⟨hne, hnext⟩)] at henter
    have hnoted := State.gthRecord_noted q c.tag 0x03 c.grove 0 (Noted.refl (s.start q i))
    obtain ⟨r, hrecord⟩ := State.gthRecord_last (s := s.start q i) q c.tag 0x03 c.grove 0 hroom
    exact ⟨_, r, (exec_enter hrun hcmd).trans (congrArg _ henter), hnoted.gth, hnoted.mem, hrecord⟩
  case closes =>
    exact ⟨_, (exec_scatterClose hrun q i).trans
      (congrArg _ (State.scatterClose_waits hrow hrest hpos hmax hstep hcur hsig hdone hnew)), rfl,
      (s.start q i).closes_closing q i c, rfl, rfl, rfl, rfl⟩
  case starts =>
    intro s s1 s2 q i c qc b d l hrun hcmd hqc hq hi hst hwait hstep hnum hwf hread hparse hdie htile hadm
    subst hq hi
    have hnoted : Noted s s1 := Noted.of_readVa hread
    have hstart : c.op ≠ 3 → exec (.gthCommandStart c.queue c.index none) s =
        .next (if c.op = 1 then s1.gatherStart c d else s1.scatterStart c d none) := fun hop =>
      (exec_gthCommandStart hrun ..).trans (congrArg _ (State.gthStart_ready none hrun hcmd hqc hst hwait hstep hnum hop
        hread hparse hdie htile))
    refine ⟨fun hop hblock hmap hfits hunique hman => ?gather, fun r hop hturn hcmds hcloses hcol hmax hblock hl hkind
      hcount hempty hnone hout _ => ?scatter⟩
    case gather =>
      rw [← hnoted.til] at hwf ⊢
      exact ⟨_, (hstart (by omega)).trans (congrArg _ (if_pos hop)),
        State.gatherStart_writes_map hadm hblock hmap hfits hunique hman hwf⟩
    case scatter =>
      subst hl
      have hseg := segmentsOf_first hcol (parseGth_rowElems hparse) hmax
      rw [← hnoted.gth] at hturn hcmds hcloses hempty
      obtain ⟨u, hdone, hmerge, hcmdsU, htil, hmem⟩ := State.scatterStart_completes hcmds hst hturn hcloses hkind
        hcount hblock hadm hseg hop hnone hout hempty
      rw [State.gradElems_congr hnoted.til] at hmerge
      exact ⟨u, (hstart (by omega)).trans (congrArg _ ((if_neg (by omega)).trans hdone)), hmerge, hcmdsU,
        htil.trans hnoted.til, hmem⟩

end Sys2Proof.Machine
end

section
/-! PROOFS. STREAM_SET, PROG_LOAD and PROG_UNLOAD (R213 to R215; O20). -/
namespace Sys2Proof.Machine

section
variable {s : State} (hrun : s.islandsRun = true)
include hrun

theorem exec_streamSet (q i : Nat) : exec (.streamSet q i) s = .next (s.streamSet q i) :=
  congrArg _ (State.onDie_of_islandsRun hrun _)

theorem exec_progLoad (q i : Nat) : exec (.progLoad q i) s = .next (s.progLoad q i) :=
  congrArg _ (State.onDie_of_islandsRun hrun _)

theorem exec_progUnload (q i : Nat) : exec (.progUnload q i) s = .next (s.progUnload q i) :=
  congrArg _ (State.onDie_of_islandsRun hrun _)

end

/-! ## Programme slots -/

theorem State.prog_congr {s t : State} (h : t.smp = s.smp) (k : Nat) : t.prog k = s.prog k := by
  rw [State.prog, State.prog, h]

theorem State.prog_modProg_same (s : State) (k : Nat) (f : Prog → Prog) : (s.modProg k f).prog k = f (s.prog k) :=
  tgetD_tmod_same s.smp.progs k {} f

theorem State.prog_modProg_other (s : State) {k j : Nat} (f : Prog → Prog) (h : j ≠ k) :
    (s.modProg k f).prog j = s.prog j :=
  tgetD_tmod_other s.smp.progs {} {} f h

/-- A slot once a load for a grove has passed its checks: a free one holds the descriptor, another one stages it. -/
def Prog.load (p : Prog) (g : Nat) (x : ProgDesc) : Prog :=
  if p.st == .empty || p.st == .disabled then { st := .loaded, grove := g, desc := some x }
  else { p with staged := some x, unload := false }

theorem Prog.load_empty {p : Prog} (g : Nat) (x : ProgDesc) (h : p.st = .empty) :
    p.load g x = { st := .loaded, grove := g, desc := some x } := by
  simp [Prog.load, h]

theorem Prog.load_held {p : Prog} (g : Nat) (x : ProgDesc) (hfull : p.st ≠ .empty) (hable : p.st ≠ .disabled) :
    p.load g x = { p with staged := some x, unload := false } := by
  simp [Prog.load, hfull, hable]

/-! ## Refusals (R213, R214, R219) -/

theorem State.smpRecord_noted (s : State) (k code g seed slot hop answer : Nat) :
    Noted s (s.smpRecord k code g seed slot hop answer) := by
  rw [State.smpRecord]
  exact State.record_noted _ _ _ _ _ _ (State.putReg_noted _ _ _ (Noted.refl s))

/-- The sampler's fault registers lie past the log's own, so with room its record is the log's last. -/
theorem State.lastRecord_smpRecord {s : State} (k code g seed slot hop answer : Nat) (hroom : s.logRoom = true) :
    ∃ r : LogRec, (s.smpRecord k code g seed slot hop answer).lastRecord = some r ∧ r.src = .smp ∧ r.sev = .contained ∧
      r.code = code := by
  have hfar : 0x30400 < regAddr .SMP_FAULT_LAST [k / 32] := by
    simp [regAddr, regDesc]
    omega
  exact ⟨_, State.lastRecord_record _ _ _ _ _ _ _ rfl ((State.logRoom_putReg_far _ hfar).trans hroom), rfl, rfl, rfl⟩

/-- A refused sampler command completes with BAD_COMMAND in a state that only notes its refusal. -/
theorem State.refuseSmp_eq (s : State) (q i k code : Nat) :
    ∃ u : State, s.refuseSmp q i k code = u.complete q i .badCommand 0 ∧ Noted s u ∧
      (s.logRoom = true → ∃ r : LogRec, u.lastRecord = some r ∧ r.src = .smp ∧ r.sev = .contained ∧ r.code = code) :=
  ⟨_, rfl, s.smpRecord_noted k code (s.qgrove q) 0 0 0 0, State.lastRecord_smpRecord k code (s.qgrove q) 0 0 0 0⟩

/-! ## STREAM_SET (R213) -/

/-- The state in which a pair of key and origin is staged for a stream. -/
def State.stageStream (s : State) (k : Nat) (pair : Nat × Nat) : State :=
  { s with smp := { s.smp with streams := tmod s.smp.streams k {} fun r => { r with staged := some pair } } }

theorem State.stream_stageStream_same (s : State) (k : Nat) (pair : Nat × Nat) :
    tget (s.stageStream k pair).smp.streams k = some { tgetD s.smp.streams k {} with staged := some pair } :=
  tget_tset_same ..

theorem State.stream_stageStream_other (s : State) {k j : Nat} (pair : Nat × Nat) (h : j ≠ k) :
    tget (s.stageStream k pair).smp.streams j = tget s.smp.streams j :=
  tget_tset_other _ _ h

section
variable {s : State} {q i : Nat} {c : Cmd} (hrow : s.ofRow q i 1 1 = some c)
  (hrest : c.restZero [(8, 2), (0x10, 16), (0x20, 16)] = true) (hid : c.arg 8 2 < 2 ^ 12)
include hrow hrest hid

/-- A STREAM_SET of a stream of its grove on the queue's die stages the pair. -/
theorem State.streamSet_own (hown : s.streamOwner (c.arg 8 2) = some c.grove) (hdie : c.arg 8 2 / 2048 = dieOfQueue q) :
    s.streamSet q i =
      ((s.start q i).stageStream (c.arg 8 2) (c.arg 0x10 16, c.arg 0x20 16)).complete q i .ok 0 := by
  have hsame : (s.start q i).streamOwner = s.streamOwner := (rfl)
  unfold State.streamSet
  simp only [hrow, hrest, hsame, hown, hdie]
  rw [if_neg (by simpa using hid)]
  exact if_neg (by simp)

/-- A STREAM_SET of a stream that its grove does not hold is refused. -/
theorem State.streamSet_notOwn (hown : s.streamOwner (c.arg 8 2) ≠ some c.grove) :
    s.streamSet q i = (s.start q i).refuseSmp q i (32 * dieOfQueue q) 0x02 := by
  have hsame : (s.start q i).streamOwner = s.streamOwner := (rfl)
  unfold State.streamSet
  simp only [hrow, hrest, hsame]
  rw [if_neg (by simpa using hid), if_pos (by simp [hown])]

end

/-! ## PROG_LOAD (R214, R215) -/

section
variable {s s1 s2 : State} {q i : Nat} {c : Cmd} {h b : List Byte} (hrow : s.ofRow q i 1 2 = some c)
  (hrest : c.restZero [(8, 1), (0x10, 8)] = true) (hslot : c.arg 8 1 < 32) (hva : c.arg 0x10 8 < 2 ^ 48)
  (halign : c.arg 0x10 8 % 64 = 0) (hhead : (s.start q i).readVa c.grove (c.arg 0x10 8) 64 = (s1, .ok, h))
  (hbody : s1.readVa c.grove (c.arg 0x10 8) (64 + 32 * min 6 (leAt h 0 1)) = (s2, .ok, b))
include hrow hrest hslot hva halign hhead hbody

/-- A PROG_LOAD whose descriptor is read does what the checks of the descriptor answer. -/
theorem State.progLoad_read :
    s.progLoad q i =
      match s2.progCheck q c b with
      | (_, some x) => (s2.modProg (32 * dieOfQueue q + c.arg 8 1) (·.load c.grove x)).complete q i .ok 0
      | (code, none) => s2.refuseSmp q i (32 * dieOfQueue q + c.arg 8 1) code := by
  have hbelow : ¬ c.arg 8 1 ≥ 32 := Nat.not_le.mpr hslot
  have hnum : ¬ c.arg 0x10 8 ≥ 2 ^ 48 := Nat.not_le.mpr hva
  unfold State.progLoad
  simp only [hrow, hrest, hbelow, hnum, halign, hhead, hbody, Nat.mod_eq_of_lt hslot]
  exact if_neg (by simp)

theorem State.progLoad_passes {code : Nat} {x : ProgDesc} (hcheck : s2.progCheck q c b = (code, some x)) :
    s.progLoad q i = (s2.modProg (32 * dieOfQueue q + c.arg 8 1) (·.load c.grove x)).complete q i .ok 0 := by
  rw [State.progLoad_read hrow hrest hslot hva halign hhead hbody, hcheck]

theorem State.progLoad_refused {code : Nat} (hcheck : s2.progCheck q c b = (code, none)) :
    s.progLoad q i = s2.refuseSmp q i (32 * dieOfQueue q + c.arg 8 1) code := by
  rw [State.progLoad_read hrow hrest hslot hva halign hhead hbody, hcheck]

end

/-! ## PROG_UNLOAD (R213, R215) -/

section
variable {s : State} {q i k : Nat} {c : Cmd} (hrow : s.ofRow q i 1 3 = some c) (hrest : c.restZero [(8, 1)] = true)
  (hslot : c.arg 8 1 < 32) (hk : k = 32 * dieOfQueue q + c.arg 8 1) (hfull : (s.prog k).st ≠ .empty)
include hrow hrest hslot hk hfull

/-- A PROG_UNLOAD of a slot in use: another grove's is refused, a running one empties later, any other at once. -/
theorem State.progUnload_used :
    s.progUnload q i =
      if (s.prog k).grove ≠ c.grove then (s.start q i).refuseSmp q i k 0x04
      else if (s.prog k).st = .running then
        ((s.start q i).modProg k fun p => { p with unload := true }).complete q i .ok 0
      else ((s.start q i).modProg k fun _ => {}).complete q i .ok 0 := by
  have hsame : (s.start q i).prog = s.prog := (rfl)
  have hbelow : ¬ c.arg 8 1 ≥ 32 := Nat.not_le.mpr hslot
  unfold State.progUnload
  simp only [hrow, hrest, hbelow, Nat.mod_eq_of_lt hslot, ← hk, hsame, beq_iff_eq]
  rw [if_neg (by simp), if_neg hfull]

theorem State.progUnload_foreign (hother : (s.prog k).grove ≠ c.grove) :
    s.progUnload q i = (s.start q i).refuseSmp q i k 0x04 := by
  rw [State.progUnload_used hrow hrest hslot hk hfull, if_pos hother]

theorem State.progUnload_running (hown : (s.prog k).grove = c.grove) (hst : (s.prog k).st = .running) :
    s.progUnload q i = ((s.start q i).modProg k fun p => { p with unload := true }).complete q i .ok 0 := by
  rw [State.progUnload_used hrow hrest hslot hk hfull, if_neg (not_not.mpr hown), if_pos hst]

theorem State.progUnload_idle (hown : (s.prog k).grove = c.grove) (hst : (s.prog k).st ≠ .running) :
    s.progUnload q i = ((s.start q i).modProg k fun _ => {}).complete q i .ok 0 := by
  rw [State.progUnload_used hrow hrest hslot hk hfull, if_neg (not_not.mpr hown), if_neg hst]

end

/-- Settles O20: each command's equation gives the state it completes in; a load's two reads and a refusal's record
leave the sampler as it was. -/
theorem samplerCommands : Obligations.SamplerCommands := by
  unfold Obligations.SamplerCommands
  refine fun s q i k c hrun => ⟨?streamOwn, ?streamNotOwn, ?load, ?unload⟩
  case streamOwn =>
    rintro hrow hrest rfl hid hown hdie
    exact ⟨_, (exec_streamSet hrun q i).trans (congrArg _ (State.streamSet_own hrow hrest hid hown hdie)),
      State.stream_stageStream_same .., fun j hj => State.stream_stageStream_other _ _ hj, rfl, rfl⟩
  case streamNotOwn =>
    rintro hrow hrest rfl hid hown hroom
    obtain ⟨u, hend, hnoted, hlog⟩ := (s.start q i).refuseSmp_eq q i (32 * dieOfQueue q) 0x02
    obtain ⟨r, hrecord⟩ := hlog hroom
    exact ⟨u, r, (exec_streamSet hrun q i).trans (congrArg _ ((State.streamSet_notOwn hrow hrest hid hown).trans hend)),
      hnoted.smp, hnoted.mem, hrecord⟩
  case load =>
    rintro s1 s2 h b d code hrow hrest hslot rfl hva halign hhead hbody hcheck
    have hsmp : s2.smp = s.smp := (Noted.of_readVa hbody).smp.trans (Noted.of_readVa hhead).smp
    have hother {x : ProgDesc} (j : Nat) (hj : j ≠ 32 * dieOfQueue q + c.arg 8 1) :
        (s2.modProg (32 * dieOfQueue q + c.arg 8 1) (·.load c.grove x)).prog j = s.prog j :=
      (State.prog_modProg_other _ _ hj).trans (State.prog_congr hsmp j)
    refine ⟨?empty, ?held, ?refused⟩
    case empty =>
      rintro x rfl hst
      refine ⟨_, (exec_progLoad hrun q i).trans
        (congrArg _ (State.progLoad_passes hrow hrest hslot hva halign hhead hbody hcheck)), ?_, hother,
        (congrArg SampState.streams hsmp :), rfl⟩
      rw [State.prog_modProg_same, State.prog_congr hsmp, Prog.load_empty _ _ hst]
    case held =>
      rintro x rfl hfull hable
      refine ⟨_, (exec_progLoad hrun q i).trans
        (congrArg _ (State.progLoad_passes hrow hrest hslot hva halign hhead hbody hcheck)), ?_, hother⟩
      rw [State.prog_modProg_same, State.prog_congr hsmp, Prog.load_held _ _ hfull hable]
    case refused =>
      rintro rfl
      obtain ⟨u, hend, hnoted, -⟩ := s2.refuseSmp_eq q i (32 * dieOfQueue q + c.arg 8 1) code
      exact ⟨u, (exec_progLoad hrun q i).trans
        (congrArg _ ((State.progLoad_refused hrow hrest hslot hva halign hhead hbody hcheck).trans hend)),
        hnoted.smp.trans hsmp⟩
  case unload =>
    intro hrow hrest hslot hk hfull
    refine ⟨fun hown hst => ?idle, fun hown hst => ?running, fun hforeign hroom => ?foreign⟩
    case idle =>
      exact ⟨_, (exec_progUnload hrun q i).trans
        (congrArg _ (State.progUnload_idle hrow hrest hslot hk hfull hown hst)), State.prog_modProg_same ..,
        fun j hj => State.prog_modProg_other _ _ hj, rfl⟩
    case running =>
      exact ⟨_, (exec_progUnload hrun q i).trans
        (congrArg _ (State.progUnload_running hrow hrest hslot hk hfull hown hst)), State.prog_modProg_same ..,
        fun j hj => State.prog_modProg_other _ _ hj⟩
    case foreign =>
      obtain ⟨u, hend, hnoted, hlog⟩ := (s.start q i).refuseSmp_eq q i k 0x04
      obtain ⟨r, hrecord, hsrc, -, hcode⟩ := hlog hroom
      exact ⟨u, r, (exec_progUnload hrun q i).trans
        (congrArg _ ((State.progUnload_foreign hrow hrest hslot hk hfull hforeign).trans hend)), hnoted.smp, hrecord,
        hsrc, hcode⟩

end Sys2Proof.Machine
end

section
/-! PROOFS. Writes of the merge quota and of the row-entry quota (R239, R245, R279; O13). -/
namespace Sys2Proof.Machine

section
variable {s : State} (hrun : s.islandsRun = true)
include hrun

theorem exec_gthMergeQuotaWrite (die g : Nat) (v : Word) :
    exec (.gthMergeQuotaWrite die g v) s = .next (s.writeMergeQuota die g v) :=
  congrArg _ (State.onDie_of_islandsRun hrun _)

theorem exec_embEntryQuotaWrite (g : Nat) (v : Word) :
    exec (.embEntryQuotaWrite g v) s = .next (s.writeEmbQuota g v) :=
  congrArg _ (State.onDie_of_islandsRun hrun _)

end

/-! ## Registers of the GTH and EMB blocks -/

theorem testBit_wfld_low (v : Word) (w i : Nat) : (wfld v 0 w).testBit i = (decide (i < w) && v.getLsbD i) := by
  simp [wfld, fld, Nat.testBit_mod_two_pow, BitVec.testBit_toNat]

/-- A field at bit 0 whose bits software may write takes what is written (R14). -/
theorem wfld_accessWrite {r : Reg} {w : Nat} (hw : w ≤ 64)
    (hrw : ∀ i < w, (accMask r fun a => a == .rw || a == .rws).testBit i = true) (old v : Word) :
    wfld (accessWrite r old v) 0 w = wfld v 0 w := by
  refine Nat.eq_of_testBit_eq fun i => ?_
  rw [testBit_wfld_low, testBit_wfld_low]
  by_cases hi : i < w
  · have hmask : (BitVec.ofNat 64 (accMask r fun a => a == .rw || a == .rws)).getLsbD i = true := by
      rw [BitVec.getLsbD_ofNat, hrw i hi, Bool.and_true, decide_eq_true (by omega)]
    simp only [accessWrite, BitVec.getLsbD_or, BitVec.getLsbD_and, BitVec.getLsbD_not, hmask]
    simp
  · simp [hi]

theorem wfld_accessWrite_mergeQuota (old v : Word) : wfld (accessWrite .GTH_MERGE_QUOTA old v) 0 17 = wfld v 0 17 :=
  wfld_accessWrite (by decide) (by decide) old v

theorem wfld_accessWrite_embQuota (old v : Word) : wfld (accessWrite .EMB_ENTRY_QUOTA old v) 0 19 = wfld v 0 19 :=
  wfld_accessWrite (by decide) (by decide) old v

theorem regAddr_mergeQuota (die g : Nat) : regAddr .GTH_MERGE_QUOTA [die, g] = 0x1010000 + 0x800000 * die + 8 * g := by
  simp [regAddr, regDesc, Nat.add_assoc]

theorem regAddr_embQuota (die g : Nat) : regAddr .EMB_ENTRY_QUOTA [die, g] = 0x1028000 + 0x800000 * die + 8 * g := by
  simp [regAddr, regDesc, Nat.add_assoc]

theorem regAddr_gthFault (die : Nat) : regAddr .GTH_FAULT_LAST [die] = 0x1010400 + 0x800000 * die := by
  simp [regAddr, regDesc]

theorem regAddr_embFault (die : Nat) : regAddr .EMB_FAULT_LAST [die] = 0x1028400 + 0x800000 * die := by
  simp [regAddr, regDesc]

theorem logEnd_lt_embFault (die : Nat) : 0x30400 < regAddr .EMB_FAULT_LAST [die] := by
  rw [regAddr_embFault]
  omega

/-- With room in the log, an EMB record is its last. -/
theorem State.embRecord_last {s : State} (die code g t r : Nat) (hroom : s.logRoom = true) :
    ∃ x, (s.embRecord die code g t r).lastRecord = some x ∧ x.src = .emb ∧ x.sev = .contained ∧ x.code = code :=
  ⟨_, State.lastRecord_record _ _ _ _ _ _ _ rfl ((State.logRoom_putReg_far _ (logEnd_lt_embFault _)).trans hroom), rfl,
    rfl, rfl⟩

/-- A GTH record changes no register outside the log but its die's GTH_FAULT_LAST. -/
theorem State.getReg_gthRecord (s : State) (q tag code g pos : Nat) {r : Reg} {ix : List Nat}
    (hlog : 0x30400 < regAddr r ix) (hfault : regAddr r ix ≠ regAddr .GTH_FAULT_LAST [dieOfQueue q]) :
    (s.gthRecord q tag code g pos).getReg r ix = s.getReg r ix :=
  (State.getReg_record _ _ _ _ _ _ _ rfl (plainOff_of_gt hlog)).trans (State.getReg_putReg_other _ _ hfault)

/-- An EMB record changes no register outside the log but its die's EMB_FAULT_LAST. -/
theorem State.getReg_embRecord (s : State) (die code g t r : Nat) {q : Reg} {ix : List Nat}
    (hlog : 0x30400 < regAddr q ix) (hfault : regAddr q ix ≠ regAddr .EMB_FAULT_LAST [die]) :
    (s.embRecord die code g t r).getReg q ix = s.getReg q ix :=
  (State.getReg_record _ _ _ _ _ _ _ rfl (plainOff_of_gt hlog)).trans (State.getReg_putReg_other _ _ hfault)

/-! ## The two writes -/

theorem State.mergeQuota_reset (die g : Nat) : State.reset.mergeQuota die g = 0x1000 :=
  show wfld (regReset .GTH_MERGE_QUOTA []) 0 17 = 0x1000 by decide

theorem State.embQuota_reset (g : Nat) : State.reset.embQuota g = 0x4000 :=
  show wfld (regReset .EMB_ENTRY_QUOTA []) 0 19 = 0x4000 by decide

section
variable {s : State} {die g : Nat} {v : Word}

theorem State.writeMergeQuota_stored (hused : s.mergeUsed die g = 0)
    (hsum : ((List.range 16).map fun h => if h = g then wfld v 0 17 else s.mergeQuota die h).sum ≤ 65536) :
    s.writeMergeQuota die g v = s.softWrite .GTH_MERGE_QUOTA [die, g] v :=
  if_neg (by simpa [hused] using hsum)

theorem State.writeMergeQuota_refused (h : 0 < s.mergeUsed die g ∨
      65536 < ((List.range 16).map fun h => if h = g then wfld v 0 17 else s.mergeQuota die h).sum) :
    s.writeMergeQuota die g v = s.gthRecord (64 * die) 0 0x09 g 0 :=
  if_pos (by simpa using h)

theorem State.writeEmbQuota_stored (hcovers : s.embUsed g ≤ wfld v 0 19)
    (hsum : ((List.range 16).map fun h => if h = g then wfld v 0 19 else s.embQuota h).sum ≤ 262144) :
    s.writeEmbQuota g v = (s.softWrite .EMB_ENTRY_QUOTA [0, g] v).softWrite .EMB_ENTRY_QUOTA [1, g] v :=
  if_neg (by simpa using ⟨hcovers, hsum⟩)

theorem State.writeEmbQuota_refused (h : wfld v 0 19 < s.embUsed g ∨
      262144 < ((List.range 16).map fun h => if h = g then wfld v 0 19 else s.embQuota h).sum) :
    s.writeEmbQuota g v = s.embRecord 0 0x0B g 0 0 :=
  if_pos (by simpa using h)

end

/-- Settles O13: a write that passes is a software write of the register's copies, any other is its record alone, and
that record is written outside the quotas. -/
theorem quotaWrites : Obligations.QuotaWrites := by
  unfold Obligations.QuotaWrites
  refine ⟨fun die g _ _ => ⟨State.mergeQuota_reset die g, State.embQuota_reset g⟩, fun s die g v hrun hdie hg => ⟨fun hused hsum => ?mergeStored, fun hbad hroom => ?mergeRefused,
    fun hcovers hsum => ?embStored, fun hbad hroom => ?embRefused⟩⟩
  case mergeStored =>
    refine ⟨_, (exec_gthMergeQuotaWrite hrun die g v).trans (congrArg _ (State.writeMergeQuota_stored hused hsum)), ?_,
      fun _ => s.tget_regs_softWrite_other _ _ v, s.softWrite_frame _ _ v⟩
    rw [State.mergeQuota, State.regFld, State.getReg_softWrite_same, wfld_accessWrite_mergeQuota]
  case mergeRefused =>
    obtain ⟨r, hlast, hsrc, hsev, hcode⟩ := State.gthRecord_last (64 * die) 0 0x09 g 0 hroom
    have hnoted := State.gthRecord_noted (64 * die) 0 0x09 g 0 (Noted.refl s)
    refine ⟨_, r, (exec_gthMergeQuotaWrite hrun die g v).trans (congrArg _ (State.writeMergeQuota_refused hbad)),
      s.getReg_gthRecord _ _ _ _ _ ?_ ?_, hlast, hsrc, hsev, hcode, hnoted.gth, hnoted.mem⟩
    · rw [regAddr_mergeQuota]
      omega
    · rw [regAddr_mergeQuota, regAddr_gthFault, dieOfQueue]
      omega
  case embStored =>
    have hapart : regAddr .EMB_ENTRY_QUOTA [0, g] ≠ regAddr .EMB_ENTRY_QUOTA [1, g] := by
      simp only [regAddr_embQuota]
      omega
    refine ⟨_, (exec_embEntryQuotaWrite hrun g v).trans (congrArg _ (State.writeEmbQuota_stored hcovers hsum)), ?_, ?_,
      fun a h0 h1 => (State.tget_regs_softWrite_other _ _ _ _ h1).trans (State.tget_regs_softWrite_other _ _ _ _ h0), rfl⟩
    · rw [State.embQuota, State.regFld, State.softWrite, State.getReg_putReg_other _ _ hapart,
        State.getReg_softWrite_same, wfld_accessWrite_embQuota]
    · rw [State.regFld, State.getReg_softWrite_same, wfld_accessWrite_embQuota]
  case embRefused =>
    obtain ⟨r, hlast, hsrc, hsev, hcode⟩ := State.embRecord_last 0 0x0B g 0 0 hroom
    have hnoted := State.embRecord_noted 0 0x0B g 0 0 .contained (Noted.refl s)
    have hkept : ∀ copy, (s.embRecord 0 0x0B g 0 0).getReg .EMB_ENTRY_QUOTA [copy, g] =
        s.getReg .EMB_ENTRY_QUOTA [copy, g] := fun copy => by
      refine s.getReg_embRecord _ _ _ _ _ ?_ ?_
      · rw [regAddr_embQuota]
        omega
      · rw [regAddr_embQuota, regAddr_embFault]
        omega
    exact ⟨_, r, (exec_embEntryQuotaWrite hrun g v).trans (congrArg _ (State.writeEmbQuota_refused hbad)), hkept 0,
      hkept 1, hlast, hsrc, hsev, hcode, hnoted.emb, hnoted.mem⟩

end Sys2Proof.Machine
end

section
/-! PROOFS. What messages and completions leave of the gather units and the embedding directory; reads of rows; the
commands of the gather units. -/
namespace Sys2Proof.Machine

/-! ## What messages and completions leave -/

/-- Messages, writes to memory and completions leave the gather units, the embedding directory and the step machines. -/
theorem trafficFree_gather (s : State) :
    TrafficFree fun t => t.gth = s.gth ∧ t.emb = s.emb ∧ t.col = s.col where
  noted hn h := ⟨hn.gth.trans h.1, hn.emb.trans h.2.1, hn.col.trans h.2.2⟩
  sch _ h := h
  outbox _ h := h
  lnk _ h := h
  grv _ h := h
  mem _ h := h
  kln _ h := h
  hrt _ h := h

section
variable (s : State)

theorem State.sendMsg_gather (die : Nat) (trunk : Bool) (dest opcode grove : Nat) (payload : List Byte) (address : Nat) :
    (s.sendMsg die trunk dest opcode grove payload address).gth = s.gth ∧
    (s.sendMsg die trunk dest opcode grove payload address).emb = s.emb ∧
    (s.sendMsg die trunk dest opcode grove payload address).col = s.col :=
  (trafficFree_gather s).sendMsg die trunk dest opcode grove payload address ⟨rfl, rfl, rfl⟩

@[simp] theorem State.gth_sendMsg (die : Nat) (trunk : Bool) (dest opcode grove : Nat) (payload : List Byte)
    (address : Nat) : (s.sendMsg die trunk dest opcode grove payload address).gth = s.gth := (s.sendMsg_gather ..).1

@[simp] theorem State.emb_sendMsg (die : Nat) (trunk : Bool) (dest opcode grove : Nat) (payload : List Byte)
    (address : Nat) : (s.sendMsg die trunk dest opcode grove payload address).emb = s.emb := (s.sendMsg_gather ..).2.1

@[simp] theorem State.mem_sendMsg (die : Nat) (trunk : Bool) (dest opcode grove : Nat) (payload : List Byte)
    (address : Nat) : (s.sendMsg die trunk dest opcode grove payload address).mem = s.mem :=
  congrArg (·.2.1) (s.sendFrame_sendMsg die trunk dest opcode grove payload address)

theorem State.complete_gather (q i : Nat) (st : Status) (result : Nat) :
    (s.complete q i st result).gth = s.gth ∧ (s.complete q i st result).emb = s.emb ∧
    (s.complete q i st result).col = s.col := (trafficFree_gather s).complete q i st result ⟨rfl, rfl, rfl⟩

@[simp] theorem State.gth_complete (q i : Nat) (st : Status) (result : Nat) :
    (s.complete q i st result).gth = s.gth := (s.complete_gather ..).1

@[simp] theorem State.col_complete (q i : Nat) (st : Status) (result : Nat) :
    (s.complete q i st result).col = s.col := (s.complete_gather ..).2.2

end

/-- The state with other budgets. -/
def State.withBudgets (s : State) (b : Tbl Budget) : State := { s with grv := { s.grv with budgets := b } }

/-- A budget that admits an activity changes the budgets only. -/
theorem State.withBudgets_of_spend {s t : State} {d g a n : Nat} {again : Bool} (h : s.spend d g a n again = (t, true)) :
    ∃ b, t = s.withBudgets b := by
  unfold State.spend at h
  dsimp only at h
  split at h
  · exact ⟨s.grv.budgets, (congrArg Prod.fst h).symm⟩
  · split at h
    · exact ⟨_, (congrArg Prod.fst h).symm⟩
    · split at h
      · exact ⟨_, (congrArg Prod.fst h).symm⟩
      · split at h <;> exact Bool.noConfusion (congrArg Prod.snd h)

/-! ## Reads of rows (R227, R253, R254) -/

section
variable (s : State) (g t : Nat) (d : TableDesc) (r : Nat)

theorem State.rowVa_noted (p : Place) : Noted s (s.rowVa g t d r p).1 := by
  cases p with
  | slot k => exact Noted.refl s
  | bucket => exact State.readVa_noted _ _ _ (Noted.refl s)

theorem State.readRow_noted (p : Place) (first count : Nat) : Noted s (s.readRow g t d r p first count).1 := by
  have hva := s.rowVa_noted g t d r p
  unfold State.readRow
  split <;> rename_i heq <;> rw [heq] at hva
  · exact State.readVa_noted _ _ _ hva
  · exact hva

end

theorem Noted.of_readRow {s s1 : State} {g t r first count : Nat} {d : TableDesc} {p : Place} {a : Acc}
    {b : Option (List Byte)} (h : s.readRow g t d r p first count = (s1, a, b)) : Noted s s1 := by
  have hread := s.readRow_noted g t d r p first count
  rwa [h] at hread

theorem State.convertRow_noted (s : State) (die stored out : Nat) (bs : List Byte) :
    Noted s (s.convertRow die stored out bs).1 := by
  unfold State.convertRow
  split
  · exact Noted.refl s
  · dsimp only
    repeat' split
    · exact Noted.refl s
    · exact State.bump_noted _ _ _ (Noted.refl s)
    · exact State.bump_noted _ _ _ (Noted.refl s)
    · exact State.bump_noted _ _ _ (State.bump_noted _ _ _ (Noted.refl s))

theorem Noted.of_convertRow {s s1 : State} {die stored out : Nat} {bs b : List Byte}
    (h : s.convertRow die stored out bs = (s1, b)) : Noted s s1 := by
  have hconv := s.convertRow_noted die stored out bs
  rwa [h] at hconv

/-! ## Commands of the gather units -/

section
variable {s : State} {q i : Nat}

theorem State.gthCmd_congr {t : State} (h : t.gth = s.gth) (q i : Nat) : t.gthCmd q i = s.gthCmd q i := by
  rw [State.gthCmd, State.gthCmd, h]

theorem State.gthCmd_names {c : GthCmd} (h : s.gthCmd q i = some c) : c.queue = q ∧ c.index = i := by
  rw [State.gthCmd] at h
  simpa using List.find?_some h

/-- A change that leaves a command its queue and index is found under them. -/
theorem State.gthCmd_modCmd {c : GthCmd} {f : GthCmd → GthCmd} (h : s.gthCmd q i = some c)
    (hf : ∀ c, (f c).queue = c.queue ∧ (f c).index = c.index) : (s.modCmd q i f).gthCmd q i = some (f c) := by
  obtain ⟨rfl, rfl⟩ := State.gthCmd_names h
  have hsame : ((fun x : GthCmd => x.queue == c.queue && x.index == c.index) ∘ fun x =>
      if x.queue == c.queue && x.index == c.index then f x else x) = fun x => x.queue == c.queue && x.index == c.index := by
    funext x
    rw [Function.comp_apply]
    split
    · rw [(hf x).1, (hf x).2]
    · rfl
  have hfind : (s.modCmd c.queue c.index f).gthCmd c.queue c.index =
      (s.gthCmd c.queue c.index).map fun x => if x.queue == c.queue && x.index == c.index then f x else x := by
    simp only [State.gthCmd, State.modCmd, State.modGth, List.find?_map, hsame]
  rw [hfind, h, Option.map_some, if_pos (by simp)]

/-- A row of a command after a change to it. -/
theorem State.gthCmd_modRow {c : GthCmd} {u : Nat} {x : RowFetch} (f : RowFetch → RowFetch) (h : s.gthCmd q i = some c)
    (hrow : c.rows[u]? = some x) :
    ∃ y, (s.modRow q i u f).gthCmd q i = some y ∧ y.rows[u]? = some (f x) :=
  ⟨_, State.gthCmd_modCmd h fun _ => ⟨rfl, rfl⟩, by simp [hrow]⟩

/-- A command that has ended has left its unit. -/
theorem State.gthCmd_endGth (s : State) (q i : Nat) (st : Status) (result : Nat) :
    (s.endGth q i st result).gthCmd q i = none := by
  rw [State.gthCmd_congr (s := s.dropCmd q i) (by rw [State.endGth_eq, State.gth_complete])]
  exact List.find?_eq_none.mpr fun c hc => by simpa [or_iff_not_imp_left] using (List.mem_filter.mp hc).2

/-- The end of a gather leaves the command as it is or takes it away. -/
theorem State.gthCmd_of_gatherEnd {y : GthCmd} (h : (s.gatherEnd q i).gthCmd q i = some y) : s.gthCmd q i = some y := by
  unfold State.gatherEnd at h
  repeat' split at h
  case h_2.isTrue => rw [State.gthCmd_endGth] at h; cases h
  all_goals exact h

/-- The state t is s with a command ended in a fault: it has left its unit, its grove's clean report is held back, and no
scratchpad has changed (R244). -/
structure EndedInFault (s : State) (c : GthCmd) (t : State) : Prop where
  left : t.gthCmd c.queue c.index = none
  faulted : (t.step_ c.grove).faulted = true
  til : t.til = s.til

theorem State.gth_stepFault (s : State) (g : Nat) : (s.stepFault g).gth = s.gth := (rfl)

theorem State.mem_stepFault (s : State) (g : Nat) : (s.stepFault g).mem = s.mem := (rfl)

theorem State.faulted_stepFault (s : State) (g : Nat) : ((s.stepFault g).step_ g).faulted = true := by
  rw [State.stepFault, State.step_modStep_same]

theorem Noted.endedInFault {t : State} (h : Noted s t) (c : GthCmd) :
    EndedInFault s c ((t.stepFault c.grove).endGth c.queue c.index .fault 0) where
  left := State.gthCmd_endGth ..
  faulted := by
    have hcol : ((t.stepFault c.grove).endGth c.queue c.index .fault 0).col = (t.stepFault c.grove).col :=
      State.col_complete ..
    rw [State.step_congr (congrArg CollState.steps hcol), State.faulted_stepFault]
  til := (State.til_endGth ..).trans h.til

theorem State.gthFault_ended (s : State) (c : GthCmd) (code pos : Nat) : EndedInFault s c (s.gthFault c code pos) :=
  (State.gthRecord_noted _ _ _ _ _ (Noted.refl s)).endedInFault c

theorem State.lookupFault_ended (s : State) (c : GthCmd) (code t r : Nat) :
    EndedInFault s c (s.lookupFault c code t r) :=
  (State.embRecord_noted _ _ _ _ _ _ (Noted.refl s)).endedInFault c

theorem State.memFaultCmd_ended (s : State) (c : GthCmd) : EndedInFault s c (s.memFaultCmd c) :=
  (Noted.refl s).endedInFault c

end

end Sys2Proof.Machine
end

section
/-! PROOFS. Rows that return to a gather (R227, R241). -/
namespace Sys2Proof.Machine

section
variable {s : State} (hrun : s.islandsRun = true)
include hrun

theorem exec_localRowReadReturn (q i u : Nat) : exec (.localRowReadReturn q i u) s = .next (s.localReturn q i u) :=
  congrArg _ (State.onDie_of_islandsRun hrun _)

theorem exec_rowDataReceive (die : Nat) (m : RowData) : exec (.rowDataReceive die m) s = .next (s.rowData die m) :=
  congrArg _ (State.onDie_of_islandsRun hrun _)

end

/-! ## A row that has arrived -/

section
variable {s s1 : State} {q i u stored : Nat} {c : GthCmd} {d : GthDesc} {x : RowFetch} {b out : List Byte}
  (hcmd : s.gthCmd q i = some c) (hdesc : c.desc = some d)
  (hconv : s.convertRow (dieOfQueue q) stored d.fmt b = (s1, out))

/-- The state in which a converted row lies in its block, counted, and its fetch is done. -/
def State.placed (s : State) (q i u : Nat) (d : GthDesc) (out : List Byte) : State :=
  ((s.spxWrite d.tile (d.offset + u * d.pitch * 64) out).bump .GTH_ROWS [dieOfQueue q]).modRow q i u fun r =>
    { r with st := .done }

theorem State.gth_placed (s : State) (q u : Nat) (d : GthDesc) (out : List Byte) :
    ((s.spxWrite d.tile (d.offset + u * d.pitch * 64) out).bump .GTH_ROWS [dieOfQueue q]).gth = s.gth := State.bump_gth ..

theorem State.til_placed (s : State) (q i u : Nat) (d : GthDesc) (out : List Byte) :
    (s.placed q i u d out).til = (s.spxWrite d.tile (d.offset + u * d.pitch * 64) out).til := State.bump_til ..

include hcmd hdesc hconv

theorem State.rowArrived_eq : s.rowArrived q i u stored b = (s1.placed q i u d out).gatherEnd q i := by
  have hbind : ((s.gthCmd q i).bind (·.desc)) = some d := by rw [hcmd, Option.bind_some, hdesc]
  unfold State.rowArrived
  simp only [hbind, hconv]
  rfl

/-- A row that has arrived lies converted in its place of the block, no other byte of any scratchpad has changed, and its
fetch is done unless the gather has completed (R227, R228). -/
theorem State.rowArrived_places (hrow : c.rows[u]? = some x) (hwf : Memory.wf s.til.scratch = true) :
    (s.rowArrived q i u stored b).spxRead d.tile (d.offset + u * d.pitch * 64) out.length = out ∧
    (∀ a, a < d.tile * 2 ^ 25 + (d.offset + u * d.pitch * 64) ∨
        d.tile * 2 ^ 25 + (d.offset + u * d.pitch * 64) + out.length ≤ a →
      cellGet (s.rowArrived q i u stored b).til.scratch a = cellGet s.til.scratch a) ∧
    ∀ y, (s.rowArrived q i u stored b).gthCmd q i = some y → (y.rows[u]?).map RowFetch.st = some .done := by
  have hnoted : Noted s s1 := Noted.of_convertRow hconv
  rw [State.rowArrived_eq hcmd hdesc hconv]
  have htil : ((s1.placed q i u d out).gatherEnd q i).til =
      (s.spxWrite d.tile (d.offset + u * d.pitch * 64) out).til :=
    (State.til_gatherEnd ..).trans ((s1.til_placed q i u d out).trans (State.til_spxWrite_congr hnoted.til ..))
  refine ⟨?_, fun a ha => ?_, fun y hy => ?_⟩
  · rw [State.spxRead_congr htil, State.spxRead_spxWrite_same hwf]
  · rw [htil, State.cellGet_spxWrite_other hwf ha]
  · have hkept := (State.gthCmd_congr ((s1.gth_placed q u d out).trans hnoted.gth) q i).trans hcmd
    obtain ⟨z, hz, hdone⟩ := State.gthCmd_modRow (fun r => { r with st := .done }) hkept hrow
    obtain rfl : z = y := Option.some.inj (hz.symm.trans (State.gthCmd_of_gatherEnd hy))
    rw [hdone]
    rfl

end

/-! ## A row read here, and a message from a row's home -/

section
variable {s s1 : State} {q i u : Nat} {c : GthCmd} {d : GthDesc} {x : RowFetch} {td : TableDesc} {b : List Byte}

/-- Where a local fetch reads its row: a graft slot, or the row's bucket (R262). -/
def slotPlace : Option Nat → Place
  | none => .bucket
  | some k => .slot k

/-- A row that this device's memory has returned has arrived. -/
theorem State.localReturn_arrives {slot : Option Nat} (hcmd : s.gthCmd q i = some c) (hdesc : c.desc = some d)
    (hrow : c.rows[u]? = some x) (hst : x.st = .here slot) (hpin : s.pinnedDesc c.grove d.table = some td)
    (hfree : s.pendingIn c.grove d.table td.version x.row = false)
    (hread : s.readRow c.grove d.table td x.row (slotPlace slot) d.colFirst d.rowElems = (s1, .ok, some b)) :
    s.localReturn q i u = s1.rowArrived q i u td.format b := by
  unfold State.localReturn
  cases slot <;> rw [slotPlace] at hread <;> simp [hcmd, hdesc, hrow, hst, hpin, hfree, hread]

/-- The first message of an answer, from offset 0: the row has arrived if the message is the last and holds the whole
row, and is kept otherwise. -/
theorem State.rowData_first {die dev tries : Nat} {m : RowData} (hfind : s.findRow die m.request = some (c, u, x))
    (hdesc : c.desc = some d) (hst : x.st = .remote dev m.request m.version tries [] false)
    (hpin : s.pinnedDesc c.grove d.table = some td) (hoff : m.offset = 0) :
    s.rowData die m =
      if m.last && m.data.length == d.rowElems * elemSize td.format then
        s.rowArrived c.queue c.index u td.format m.data
      else s.modRow c.queue c.index u fun x =>
        { x with st := .remote dev m.request m.version tries [(0, m.data)] m.last } := by
  unfold State.rowData
  simp [hfind, hdesc, hst, hpin, hoff, tset, joinParts]

end

end Sys2Proof.Machine
end

section
/-! PROOFS. Row requests at the memory-pool service (R240, R242, R260, R263, R273). -/
namespace Sys2Proof.Machine

section
variable {s : State} (hrun : s.islandsRun = true)
include hrun

theorem exec_rowRead (die : Nat) (o : Origin) (r : RowRead) : exec (.rowRead die o r) s = .next (s.rowRead die o r) :=
  congrArg _ (State.onDie_of_islandsRun hrun _)

theorem exec_rowReadRelease (die : Nat) (o : Origin) (request : Nat) :
    exec (.rowReadRelease die o request) s =
      .next (s.retryReads fun h => h.die == die && h.origin == o && h.read.request == request) :=
  congrArg _ (State.onDie_of_islandsRun hrun _)

theorem exec_rowAccumulate (die : Nat) (o : Origin) (a : RowAcc) :
    exec (.rowAccumulate die o a) s = .next (s.rowAccumulate die o a) :=
  congrArg _ (State.onDie_of_islandsRun hrun _)

end

/-! ## ROW_READ (R240, R260, R263) -/

/-- A ROW_READ of its grove that the budget admits is resolved. -/
theorem State.rowRead_admitted {s s1 : State} {die : Nat} {o : Origin} (r : RowRead)
    (hgrove : s.groveIs o.grove o.gen = true) (hspend : s.spend die o.grove 4 1 false = (s1, true)) :
    s.rowRead die o r = s1.resolveRead die o r false := by
  simp [State.rowRead, hgrove, hspend]

section
variable {s s1 : State} {die n : Nat} {o : Origin} {r : RowRead} {td : TableDesc} {b : List Byte} {again : Bool}
  (htable : s.tableIx o.grove r.table = some n) (hversion : (s.tableSlot n).version r.version = some td)
  (htomb : s.tombOf o.grove r.table r.version r.row = none)
include htable hversion htomb

/-- A read that need not wait, of a row in its bucket here, is answered with the row's messages. -/
theorem State.resolveRead_serves (hready : s.readWaits o r td = false)
    (hgraft : s.graftOf o.grove r.table r.version r.row = none)
    (hread : s.readRow o.grove r.table td r.row .bucket r.first r.count = (s1, .ok, some b)) :
    s.resolveRead die o r again =
      (s1.heatRow die o.grove r.table r.row).each (rowMessages r.request r.version b) fun u m =>
        u.sendMsg die false o.device 0x1A o.grove m := by
  simp [State.resolveRead, htable, hversion, htomb, hready, State.serveRow, hgraft, hread]

/-- A read that must wait is held, last, and counted the first time. -/
theorem State.resolveRead_waits (hwait : s.readWaits o r td = true) :
    s.resolveRead die o r again =
      (if again then s else s.bump .EMB_HELD_READ [die]).modEmb fun x => { x with
        heldReads := x.heldReads ++ [⟨die, o, r⟩] } := by
  simp [State.resolveRead, htable, hversion, htomb, hwait]

end

/-- The release of the only held read takes it up again. -/
theorem State.retryReads_single {s : State} {h : HeldRead} {p : HeldRead → Bool} (hheld : s.emb.heldReads = [h])
    (hp : p h = true) :
    s.retryReads p = { s with emb := { s.emb with heldReads := [] } }.resolveRead h.die h.origin h.read true := by
  simp [State.retryReads, State.each, State.modEmb, hheld, hp]

/-! ## ROW_ACCUMULATE (R242, R263, R273) -/

/-- The key under which an accumulate is noted as applied (R242). -/
def accKey (o : Origin) (a : RowAcc) : Nat × Nat × Nat × Nat := (a.step, o.device, o.die, a.request)

/-- The state in which an accumulate is noted as applied. -/
def State.noteAcc (s : State) (o : Origin) (a : RowAcc) : State :=
  s.modEmb fun x => { x with applied := tmod x.applied o.grove [] (· ++ [accKey o a]) }

/-- Noting an accumulate and its heat leaves memory. -/
theorem State.mem_noteAcc_heatRow (s : State) (o : Origin) (a : RowAcc) (die g t r : Nat) :
    ((s.heatRow die g t r).noteAcc o a).mem = s.mem := (rfl)

theorem State.mem_applied_noteAcc (s : State) (o : Origin) (a : RowAcc) :
    accKey o a ∈ tgetD (s.noteAcc o a).emb.applied o.grove [] := by
  have happlied : tgetD (s.noteAcc o a).emb.applied o.grove [] = tgetD s.emb.applied o.grove [] ++ [accKey o a] :=
    tgetD_tmod_same s.emb.applied o.grove [] (· ++ [accKey o a])
  simp [happlied]

/-- An accumulate of its grove that the budget admits, and to which the owner answers a status, is acknowledged. -/
theorem State.rowAccumulate_status {s s1 s2 : State} {die n : Nat} {o : Origin} {a : RowAcc}
    (hgrove : s.groveIs o.grove o.gen = true) (hspend : s.spend die o.grove 4 1 false = (s1, true))
    (hown : s1.ownAcc die o a = (s2, .status n)) :
    s.rowAccumulate die o a = s2.sendAck die o.device o.grove a.request n := by
  simp [State.rowAccumulate, hgrove, hspend, hown]

/-- A repeated accumulate is counted and adds nothing (R242). -/
theorem State.ownAcc_repeat {s : State} {o : Origin} {a : RowAcc} (die : Nat)
    (h : accKey o a ∈ tgetD s.emb.applied o.grove []) :
    s.ownAcc die o a = (s.bump .GTH_DUP_DROPPED [die], .status 1) := by
  rw [accKey] at h
  simp [State.ownAcc, h]

section
variable {s s1 : State} {die n : Nat} {o : Origin} {a : RowAcc} {td : TableDesc}

/-- An accumulate to a row in its bucket here is added to the row buffer of the channel's die and to the heat. -/
theorem State.applyAcc_bucket {va : Nat × Nat} {lo ch off : Nat}
    (hva : s.rowVa o.grove a.table td a.row .bucket = (s1, .ok, some va))
    (htranslate : s1.translate o.grove va.1 = some lo) (hlocate : s1.locate lo = some (ch, off)) :
    s.applyAcc die o.grove a td .bucket =
      ((s1.rowBufAdd (dieOfChannel ch) o.grove a).1.heatRow die o.grove a.table a.row, .status 0) := by
  simp [State.applyAcc, hva, htranslate, hlocate]

/-- A new accumulate to a row in its bucket here is applied and noted. -/
theorem State.ownAcc_bucket (hnew : accKey o a ∉ tgetD s.emb.applied o.grove [])
    (htable : s.tableIx o.grove a.table = some n) (hversion : (s.tableSlot n).version a.version = some td)
    (htrain : ((s.tableSlot n).at .current).map (·.trainable) = some true)
    (htomb : s.tombOf o.grove a.table a.version a.row = none) (hlate : s.accLate o.grove a.step = false)
    (hpend : s.pendInOf o.grove a.table a.version a.row = none)
    (hgraft : s.graftOf o.grove a.table a.version a.row = none)
    (happly : s.applyAcc die o.grove a td .bucket = (s1, .status 0)) :
    s.ownAcc die o a = (s1.noteAcc o a, .status 0) := by
  rw [accKey] at hnew
  unfold State.ownAcc
  simp only [htable, Option.bind_some, hversion, htrain, htomb, hlate, hpend, hgraft, happly]
  rw [if_neg (by simpa using hnew)]
  rfl

end

end Sys2Proof.Machine
end

section
/-! PROOFS. Acknowledged, refused and unanswered requests of the gather units (R235, R238, R242, R244). -/
namespace Sys2Proof.Machine

section
variable {s : State} (hrun : s.islandsRun = true)
include hrun

theorem exec_accumulateAckReceive (die request status : Nat) :
    exec (.accumulateAckReceive die request status) s = .next (s.accAck die request) :=
  congrArg _ (State.onDie_of_islandsRun hrun _)

theorem exec_negativeResponseReceive (die : Nat) (op : NegOp) (request code : Nat) :
    exec (.negativeResponseReceive die op request code) s = .next (s.negative die op request code) :=
  congrArg _ (State.onDie_of_islandsRun hrun _)

theorem exec_gthRemoteTimeout (die : Nat) (accumulate : Bool) (request : Nat) :
    exec (.gthRemoteTimeout die accumulate request) s = .next (s.gthTimeout die accumulate request) :=
  congrArg _ (State.onDie_of_islandsRun hrun _)

end

/-! ## Accumulates -/

/-- The state in which an accumulate awaits no answer. -/
def State.answered (s : State) (die req : Nat) : State :=
  s.modGth fun y => { y with accs := terase y.accs (2 ^ 32 * die + req) }

/-- The state in which an accumulate has been sent once more. -/
def State.triedAgain (s : State) (die req : Nat) (x : SentAcc) : State :=
  s.modGth fun y => { y with accs := tset y.accs (2 ^ 32 * die + req) { x with tries := x.tries + 1 } }

section
variable {s : State} {die req : Nat} {x : SentAcc} (hsent : tget s.gth.accs (2 ^ 32 * die + req) = some x)
include hsent

/-- While no close awaits acknowledgements, an acknowledgement ends its accumulate (R235). -/
theorem State.accAck_eq (hidle : ∀ y ∈ s.gth.cmds, y.st ≠ .acks) : s.accAck die req = s.answered die req := by
  have hnone : ((s.answered die req).gth.cmds.find? fun c =>
      dieOfQueue c.queue == die && c.grove == x.grove && c.st == .acks) = none :=
    List.find?_eq_none.mpr fun y hy => by simp [hidle y hy]
  have hend : (s.answered die req).closeEnd die x.grove = s.answered die req := by
    unfold State.closeEnd
    rw [hnone]
  unfold State.accAck
  rw [hsent]
  exact hend

/-- An accumulate without an answer is sent again (R242). -/
theorem State.gthTimeout_acc_again (htries : x.tries < 3) :
    s.gthTimeout die true req =
      ((s.triedAgain die req x).bump .GTH_REMOTE_RETRY [die]).sendMsg die false x.dest 0x20 x.grove
        (accPayload x.msg) := by
  simp only [State.gthTimeout, if_true, hsent, if_pos htries]
  rfl

/-- After the last attempt, with no command in the units, the grove's step faults with GTH_REMOTE_TIMEOUT. -/
theorem State.gthTimeout_acc_faults (htries : 3 ≤ x.tries) (hcmds : s.gth.cmds = []) :
    s.gthTimeout die true req =
      ((s.answered die req).gthRecord (64 * die) 0 0x08 x.grove 0).stepFault x.grove := by
  have hnone : (s.answered die req).gth.cmds = [] := hcmds
  unfold State.answered at hnone ⊢
  simp only [State.gthTimeout, if_true, hsent, if_neg (Nat.not_lt.mpr htries), hnone, List.find?_nil]

end

/-! ## Row reads -/

section
variable {s : State} {die req u : Nat} {c : GthCmd} {d : GthDesc} {f : RowFetch}
  (hfind : s.findRow die req = some (c, u, f))
include hfind

/-- A refused row read ends its gather in a fault, whatever the code (R244). -/
theorem State.negative_row_ended (code : Nat) : EndedInFault s c (s.negative die .row req code) := by
  unfold State.negative
  simp only [hfind]
  split
  · exact s.gthFault_ended ..
  · split
    · exact s.lookupFault_ended ..
    · exact s.memFaultCmd_ended c

section
variable {dev v tries : Nat} {parts : List (Nat × List Byte)} {ended : Bool} (hdesc : c.desc = some d)
  (hst : f.st = .remote dev req v tries parts ended)
include hdesc hst

/-- A row read without an answer is sent again, and its row is taken whole from the new answer (R241, R242). -/
theorem State.gthTimeout_row_again (htries : tries < 3) :
    s.gthTimeout die false req =
      ((s.modRow c.queue c.index u fun x => { x with st := .remote dev req v (tries + 1) [] false }).bump
        .GTH_REMOTE_RETRY [die]).sendRowRead c d v dev req f.row := by
  simp [State.gthTimeout, hfind, hdesc, hst, htries]

/-- After the last attempt the gather faults with GTH_REMOTE_TIMEOUT. -/
theorem State.gthTimeout_row_faults (htries : 3 ≤ tries) : s.gthTimeout die false req = s.gthFault c 0x08 u := by
  simp [State.gthTimeout, hfind, hdesc, hst, Nat.not_lt.mpr htries]

end

end

end Sys2Proof.Machine
end

section
/-! PROOFS. Rows served and placed (R227, R235, R238, R240 to R244; O23). -/
namespace Sys2Proof.Machine

/-- Settles O23: a row that arrives is one write of its scratchpad; a request that a budget admits is resolved on a state
that differs in its budgets only; and each answer or timeout of a request changes that request alone, or ends its command
in a fault. -/
theorem rowsServedAndPlaced : Obligations.RowsServedAndPlaced := by
  unfold Obligations.RowsServedAndPlaced
  refine ⟨?rows, ?service, ?answers⟩
  case rows =>
    rintro s s1 s2 q i u at_ c d x td b out hrun hcmd rfl rfl hdesc hrow hpin hwf rfl hconv
    refine ⟨fun slot hst hfree hread => ?here, fun die dev tries m hst hs1 hfind hoff hdata => ?remote⟩
    case here =>
      have hnoted : Noted s s1 := Noted.of_readRow hread
      rw [← hnoted.til] at hwf ⊢
      exact ⟨_, (exec_localRowReadReturn hrun ..).trans
        (congrArg _ (State.localReturn_arrives hcmd hdesc hrow hst hpin hfree hread)),
        State.rowArrived_places ((State.gthCmd_congr hnoted.gth ..).trans hcmd) hdesc hconv hrow hwf⟩
    case remote =>
      subst hs1 hdata
      have hexec := (exec_rowDataReceive hrun die m).trans
        (congrArg _ (State.rowData_first hfind hdesc hst hpin hoff))
      refine ⟨fun hlast hlen _ => ?_, fun hmore => ?_⟩
      · rw [if_pos (by simp [hlast, hlen])] at hexec
        exact ⟨_, hexec, State.rowArrived_places hcmd hdesc hconv hrow hwf⟩
      · rw [if_neg (by simp [hmore]), hmore] at hexec
        obtain ⟨y, hy, hkept⟩ := State.gthCmd_modRow
          (fun x => { x with st := .remote dev m.request m.version tries [(0, m.data)] false }) hcmd hrow
        exact ⟨_, hexec, rfl, rfl, y, hy, by rw [hkept]; rfl⟩
  case service =>
    intro s s1 s2 die n o r a td b hrun
    refine ⟨fun hgrove hspend htable hversion htomb => ?read, fun hheld htable hversion htomb hready hgraft hs1 hread =>
      ?release, fun hgrove hspend => ⟨fun happlied => ?duplicate, ?new⟩⟩
    case read =>
      obtain ⟨budgets, rfl⟩ := State.withBudgets_of_spend hspend
      have hexec := (exec_rowRead hrun die o r).trans (congrArg _ (State.rowRead_admitted r hgrove hspend))
      refine ⟨fun hready hgraft hread => hexec.trans
        (congrArg _ (State.resolveRead_serves htable hversion htomb hready hgraft hread)), fun hwait => ?_⟩
      have hnoted := State.bump_noted .EMB_HELD_READ [die] 1 (Noted.refl (s.withBudgets budgets))
      exact ⟨_, hexec.trans (congrArg _ (State.resolveRead_waits htable hversion htomb hwait)), congrArg (fun x : EmbState => { x with heldReads := x.heldReads ++ [(⟨die, o, r⟩ : HeldRead)] }) hnoted.emb,
        hnoted.mem, hnoted.outbox⟩
    case release =>
      subst hs1
      exact (exec_rowReadRelease hrun die o r.request).trans (congrArg _
        ((State.retryReads_single hheld (by simp)).trans
          (State.resolveRead_serves htable hversion htomb hready hgraft hread)))
    case duplicate =>
      obtain ⟨budgets, rfl⟩ := State.withBudgets_of_spend hspend
      exact (exec_rowAccumulate hrun die o a).trans
        (congrArg _ (State.rowAccumulate_status hgrove hspend (State.ownAcc_repeat die happlied)))
    case new =>
      intro hnew htable hversion htrain htomb hlate hpend hgraft va lo ch off hva htranslate hlocate
      obtain ⟨budgets, rfl⟩ := State.withBudgets_of_spend hspend
      refine ⟨_, (exec_rowAccumulate hrun die o a).trans (congrArg _ (State.rowAccumulate_status hgrove hspend
        (State.ownAcc_bucket hnew htable hversion htrain htomb hlate hpend hgraft
          (State.applyAcc_bucket hva htranslate hlocate)))), (State.mem_sendMsg ..).trans (State.mem_noteAcc_heatRow ..), ?_⟩
      rw [State.sendAck, State.emb_sendMsg]
      exact State.mem_applied_noteAcc ..
  case answers =>
    intro s die req u code status x c d f hrun
    refine ⟨fun hsent hidle => ⟨?acknowledged, fun htries => ?accAgain, fun htries hcmds => ?accFaults⟩,
      fun hfind hdesc => ⟨?refused, fun dev v tries parts ended hst => ⟨fun htries hcmd hrow => ?rowAgain, fun htries =>
        ?rowFaults⟩⟩⟩
    case acknowledged =>
      exact ⟨_, (exec_accumulateAckReceive hrun ..).trans (congrArg _ (State.accAck_eq hsent hidle)), rfl, rfl, rfl⟩
    case accAgain =>
      refine ⟨_, (exec_gthRemoteTimeout hrun ..).trans (congrArg _ (State.gthTimeout_acc_again hsent htries)), ?_, ?_⟩
      · rw [State.gth_sendMsg, State.bump_gth]
        rfl
      · rw [State.mem_sendMsg, State.bump_mem]
        rfl
    case accFaults =>
      have hnoted := State.gthRecord_noted (64 * die) 0 0x08 x.grove 0 (Noted.refl (s.answered die req))
      exact ⟨_, (exec_gthRemoteTimeout hrun ..).trans (congrArg _ (State.gthTimeout_acc_faults hsent htries hcmds)),
        (State.gth_stepFault ..).trans hnoted.gth, State.faulted_stepFault .., (State.mem_stepFault ..).trans hnoted.mem⟩
    case refused =>
      obtain ⟨hleft, hfaulted, htil⟩ := State.negative_row_ended hfind code
      exact ⟨_, exec_negativeResponseReceive hrun .., hleft, hfaulted, htil⟩
    case rowAgain =>
      obtain ⟨y, hy, hkept⟩ := State.gthCmd_modRow
        (fun x => { x with st := .remote dev req v (tries + 1) [] false }) hcmd hrow
      refine ⟨_, y, (exec_gthRemoteTimeout hrun ..).trans
        (congrArg _ (State.gthTimeout_row_again hfind hdesc hst htries)), ?_, by rw [hkept]; rfl, ?_, ?_⟩
      · rw [State.gthCmd_congr (s := s.modRow c.queue c.index u fun x =>
          { x with st := .remote dev req v (tries + 1) [] false }) (by
            rw [State.sendRowRead, State.gth_sendMsg, State.bump_gth]), hy]
      · rw [State.til_sendRowRead, State.bump_til, State.til_modRow]
      · rw [State.sendRowRead, State.mem_sendMsg, State.bump_mem]
        rfl
    case rowFaults =>
      obtain ⟨hleft, hfaulted, htil⟩ := s.gthFault_ended c 0x08 u
      exact ⟨_, (exec_gthRemoteTimeout hrun ..).trans
        (congrArg _ (State.gthTimeout_row_faults hfind hdesc hst htries)), hleft, hfaulted, htil⟩

end Sys2Proof.Machine
end

section
/-! PROOFS. What reads, writes to memory and transfers leave of the embedding directory (R241, R251 to R276). -/
namespace Sys2Proof.Machine

/-! ## Reads that end well (R404) -/

/-- A read of local bytes that ends well changes nothing. -/
theorem State.readLocal_ok {s t : State} {p : Party} {o n : Nat} {b : List Byte}
    (h : s.readLocal p o n = (t, .ok, b)) : t = s := by
  unfold State.readLocal at h
  split at h
  · exact (congrArg Prod.fst h).symm
  · simp at h
  · simp at h
  · exact (congrArg Prod.fst h).symm

/-- A read of grove-virtual bytes that ends well changes nothing: every piece before the last ended well too. -/
theorem State.readVa_ok {s t : State} {g va n : Nat} {b : List Byte} (h : s.readVa g va n = (t, .ok, b)) : t = s := by
  unfold State.readVa at h
  split at h
  · simp at h
  next ps _ =>
    refine (congrArg Prod.fst h).symm.trans (List.foldlRecOn ps _
      (motive := fun q : State × Acc × List Byte => q.2.1 = .ok → q.1 = s) (fun _ => rfl) (fun q hq p _ => ?_)
      (congrArg (·.2.1) h))
    split
    next hok =>
      intro hnext
      exact (State.readLocal_ok (Prod.ext rfl (Prod.ext hnext rfl))).trans (hq hok)
    · exact hq

/-- A home list that is read changes nothing. -/
theorem State.homeOf_ok {s t : State} {g tb r home : Nat} {d : TableDesc} {p : Place}
    (h : s.homeOf g tb d r = (t, .ok, home, p)) : t = s := by
  unfold State.homeOf at h
  split at h
  · exact (congrArg Prod.fst h).symm
  · split at h
    next hread =>
      simp only [Prod.mk.injEq] at h
      obtain ⟨rfl, rfl, -⟩ := h
      exact State.readVa_ok hread

/-- A row that is found in its place was looked for without changing anything. -/
theorem State.rowVa_ok {s t : State} {g tb r : Nat} {d : TableDesc} {p : Place} {va : Option (Nat × Nat)}
    (h : s.rowVa g tb d r p = (t, .ok, va)) : t = s := by
  cases p with
  | slot k => exact (congrArg Prod.fst h).symm
  | bucket =>
    have hread : (s.findWay g tb d r).1 = t ∧ (s.findWay g tb d r).2.1 = .ok :=
      ⟨congrArg Prod.fst h, congrArg (·.2.1) h⟩
    exact State.readVa_ok (Prod.ext hread.1 (Prod.ext hread.2 rfl))

/-- A begin that finds its row changes nothing in looking for it. -/
theorem State.beginRow_ok {s t : State} {g tb r code : Nat} {x : TableDesc × Nat × Nat}
    (h : s.beginRow g tb r = (t, some x, code)) : t = s := by
  unfold State.beginRow at h
  split at h
  · simp at h
  next d _ =>
    split at h
    next s1 home p hhome =>
      obtain rfl := State.homeOf_ok hhome
      split at h
      · simp at h
      · split at h
        next s2 va hva =>
          obtain rfl := State.rowVa_ok hva
          exact (congrArg Prod.fst h).symm
        · simp at h
    · simp at h

/-! ## What the start of a command leaves (R101) -/

section
variable (s : State) (q i : Nat)

@[simp] theorem State.tableIx_start : (s.start q i).tableIx = s.tableIx := (rfl)

@[simp] theorem State.tableSlot_start : (s.start q i).tableSlot = s.tableSlot := (rfl)

@[simp] theorem State.staged_start : (s.start q i).staged = s.staged := (rfl)

@[simp] theorem State.stageCheck_start : (s.start q i).stageCheck = s.stageCheck := (rfl)

@[simp] theorem State.emb_start : (s.start q i).emb = s.emb := (rfl)

@[simp] theorem State.devnum_start : (s.start q i).devnum = s.devnum := (rfl)

@[simp] theorem State.grove_start : (s.start q i).grove = s.grove := (rfl)

end

/-! ## Writes, transfers and copies -/

/-- What traffic does not change, a write of grove-virtual bytes does not. -/
theorem TrafficFree.writeVa {P : State → Prop} (hP : TrafficFree P) {s : State} (g va : Nat) (bs : List Byte)
    (h : P s) : P (s.writeVa g va bs).1 := by
  unfold State.writeVa
  split
  · exact h
  · refine State.foldl_keeps (fun q p hq => ?_) _ h
    split
    · exact hP.writeLocal _ _ _ hq
    · exact hq

section
variable (s : State)

@[simp] theorem State.emb_writeVa (g va : Nat) (bs : List Byte) : (s.writeVa g va bs).1.emb = s.emb :=
  ((trafficFree_gather s).writeVa g va bs ⟨rfl, rfl, rfl⟩).2.1

@[simp] theorem State.emb_storeCopy (g : Nat) (d : TableDesc) (k : Nat) (c : RowCopy) :
    (s.storeCopy g d k c).emb = s.emb := by
  simp [State.storeCopy]

@[simp] theorem State.hrt_sendMsg (die : Nat) (trunk : Bool) (dest opcode grove : Nat) (payload : List Byte)
    (address : Nat) : (s.sendMsg die trunk dest opcode grove payload address).hrt = s.hrt :=
  congrArg (·.2.1) (s.kilnSide_sendMsg die trunk dest opcode grove payload address)

/-- A transfer leaves the directory, memory and the queues. -/
theorem State.sendTransfer_frame (die device g kind : Nat) (c : RowCopy) (step : Nat) :
    (s.sendTransfer die device g kind c step).emb = s.emb ∧ (s.sendTransfer die device g kind c step).mem = s.mem ∧
    (s.sendTransfer die device g kind c step).hrt = s.hrt := by
  unfold State.sendTransfer
  refine State.each_keeps (P := fun t => t.emb = s.emb ∧ t.mem = s.mem ∧ t.hrt = s.hrt) (fun t i ht => ?_) _
    ⟨rfl, rfl, rfl⟩
  simpa using ht

@[simp] theorem State.emb_sendTransfer (die device g kind : Nat) (c : RowCopy) (step : Nat) :
    (s.sendTransfer die device g kind c step).emb = s.emb := (s.sendTransfer_frame ..).1

@[simp] theorem State.mem_sendTransfer (die device g kind : Nat) (c : RowCopy) (step : Nat) :
    (s.sendTransfer die device g kind c step).mem = s.mem := (s.sendTransfer_frame ..).2.1

@[simp] theorem State.hrt_sendTransfer (die device g kind : Nat) (c : RowCopy) (step : Nat) :
    (s.sendTransfer die device g kind c step).hrt = s.hrt := (s.sendTransfer_frame ..).2.2

@[simp] theorem State.emb_sendAck (die device g request status : Nat) :
    (s.sendAck die device g request status).emb = s.emb := s.emb_sendMsg ..

@[simp] theorem State.mem_sendAck (die device g request status : Nat) :
    (s.sendAck die device g request status).mem = s.mem := s.mem_sendMsg ..

end

end Sys2Proof.Machine
end

section
/-! PROOFS. Table slots, the staged set and heat (R251, R257, R264 to R267, R274, R276; O24). -/
namespace Sys2Proof.Machine

section
variable {s : State} (hrun : s.islandsRun = true)
include hrun

theorem exec_tableLoad (q i : Nat) : exec (.tableLoad q i) s = .next (s.tableLoad q i) :=
  congrArg _ (State.onDie_of_islandsRun hrun _)

theorem exec_tableDrop (q i : Nat) : exec (.tableDrop q i) s = .next (s.tableDrop q i) :=
  congrArg _ (State.onDie_of_islandsRun hrun _)

theorem exec_dirStage (q i : Nat) : exec (.dirStage q i) s = .next (s.dirStage q i) :=
  congrArg _ (State.onDie_of_islandsRun hrun _)

theorem exec_dirUnstage (q i : Nat) : exec (.dirUnstage q i) s = .next (s.dirUnstage q i) :=
  congrArg _ (State.onDie_of_islandsRun hrun _)

theorem exec_pendAbandon (q i : Nat) : exec (.pendAbandon q i) s = .next (s.pendAbandon q i) :=
  congrArg _ (State.onDie_of_islandsRun hrun _)

theorem exec_heatRead (q i : Nat) : exec (.heatRead q i) s = .next (s.heatRead q i) :=
  congrArg _ (State.onDie_of_islandsRun hrun _)

end

/-- A refused directory command completes with BAD_COMMAND in a state that only notes its refusal. -/
theorem State.refuseEmb_eq (s : State) (q i code t r : Nat) :
    ∃ u : State, s.refuseEmb q i code t r = u.complete q i .badCommand 0 ∧ Noted s u ∧
      (s.logRoom = true → ∃ x : LogRec, u.lastRecord = some x ∧ x.src = .emb ∧ x.sev = .contained ∧ x.code = code) :=
  ⟨_, rfl, State.embRecord_noted _ _ _ _ _ _ (Noted.refl s), State.embRecord_last _ _ _ _ _⟩

/-! ## Table slots (R251, R256, R257) -/

/-- A table slot once a descriptor is loaded into its first EMPTY version slot. -/
def TableSlot.load (x : TableSlot) (d : TableDesc) : TableSlot :=
  if x.st0 = .empty then { x with st0 := .loaded, desc0 := some d } else { x with st1 := .loaded, desc1 := some d }

/-- A table slot once its first LOADED version slot is dropped; without one it stays as it is.
Assumption: 52 (DEDUCED). -/
def TableSlot.drop (x : TableSlot) : TableSlot :=
  if x.st0 = .loaded then { x with st0 := .empty, desc0 := none }
  else if x.st1 = .loaded then { x with st1 := .empty, desc1 := none }
  else x

theorem State.tableSlot_congr {s t : State} (h : t.emb = s.emb) (n : Nat) : t.tableSlot n = s.tableSlot n := by
  rw [State.tableSlot, State.tableSlot, h]

theorem State.tableSlot_modTable_same (s : State) (n : Nat) (f : TableSlot → TableSlot) :
    (s.modTable n f).tableSlot n = f (s.tableSlot n) :=
  tgetD_tmod_same s.emb.slots n {} f

theorem State.tableSlot_modTable_other (s : State) {n j : Nat} (f : TableSlot → TableSlot) (h : j ≠ n) :
    (s.modTable n f).tableSlot j = s.tableSlot j :=
  tgetD_tmod_other s.emb.slots {} {} f h

section
variable {s : State} {q i n : Nat} {c : Cmd} (htable : s.tableIx c.grove (c.arg 8 2) = some n)
  (hid : c.arg 8 2 < 2 ^ 12)
include htable hid

section
variable (hrow : s.ofRow q i 3 1 = some c) (hrest : c.restZero [(8, 2), (0x10, 8)] = true) (hva : c.arg 0x10 8 < 2 ^ 48)
include hrow hrest hva

/-- A TABLE_LOAD of a valid descriptor after the current version, with an EMPTY version slot, loads it. -/
theorem State.tableLoad_loads {s1 : State} {b : List Byte} {d : TableDesc}
    (hfree : (s.tableSlot n).st0 = .empty ∨ (s.tableSlot n).st1 = .empty)
    (hread : (s.start q i).readVa c.grove (c.arg 0x10 8) 64 = (s1, .ok, b)) (hparse : parseTable b = some d)
    (hafter : ∀ y, (s.tableSlot n).at .current = some y → serialAfter d.version y.version 32 = true) :
    s.tableLoad q i = (s1.modTable n (·.load d)).complete q i .ok 0 := by
  unfold State.tableLoad
  simp only [hrow, hrest, State.tableIx_start, htable, State.tableSlot_start]
  rw [if_neg (by simpa using ⟨hid, hva⟩), if_neg (by simpa [← or_iff_not_imp_left] using hfree)]
  simp only [hread, hparse]
  refine if_neg ?_
  cases hcur : (s.tableSlot n).at .current with
  | none => simp
  | some y => simp [hafter y hcur]

/-- A TABLE_LOAD without an EMPTY version slot is refused with EMB_SLOT_BUSY. -/
theorem State.tableLoad_full (h0 : (s.tableSlot n).st0 ≠ .empty) (h1 : (s.tableSlot n).st1 ≠ .empty) :
    s.tableLoad q i = (s.start q i).refuseEmb q i 0x03 (c.arg 8 2) 0 := by
  unfold State.tableLoad
  simp only [hrow, hrest, State.tableIx_start, htable, State.tableSlot_start]
  rw [if_neg (by simpa using ⟨hid, hva⟩), if_pos (by simp [h0, h1])]

end

/-- The staged entries that stay when a table's version is dropped: all but its flip. -/
def keptByDrop (t : Nat) (w : Nat × Nat) : Bool := !(stageKind w == 1 && stageTable w == t)

/-- A TABLE_DROP empties the LOADED version slot, if there is one, and takes the table's flip out of the staged set. -/
theorem State.tableDrop_drops (hrow : s.ofRow q i 3 2 = some c) (hrest : c.restZero [(8, 2)] = true) :
    s.tableDrop q i = (((s.start q i).modTable n TableSlot.drop).setStaged c.grove
      ((s.staged c.grove).filter (keptByDrop (c.arg 8 2)))).complete q i .ok 0 := by
  unfold State.tableDrop
  simp only [hrow, hrest, State.tableIx_start, htable]
  rw [if_neg (by simpa using hid)]
  rfl

end

/-! ## The staged set (R264, R266) -/

theorem State.staged_setStaged_same (s : State) (g : Nat) (l : List (Nat × Nat)) : (s.setStaged g l).staged g = l :=
  tgetD_tset_same s.emb.staged g l []

theorem State.staged_setStaged_other (s : State) {g h : Nat} (l : List (Nat × Nat)) (hne : h ≠ g) :
    (s.setStaged g l).staged h = s.staged h :=
  tgetD_tset_other s.emb.staged l [] hne

section
variable {s : State} {q i : Nat} {c : Cmd}

section
variable (hrow : s.ofRow q i 3 5 = some c) (hrest : c.restZero [(8, 8), (0x10, 8)] = true)
include hrow hrest

/-- A DIR_STAGE of an entry that passes its checks adds it, last. -/
theorem State.dirStage_adds (hcheck : s.stageCheck c.grove (c.arg 8 8, c.arg 0x10 8) = none) :
    s.dirStage q i = ((s.start q i).setStaged c.grove (s.staged c.grove ++ [(c.arg 8 8, c.arg 0x10 8)])).complete
      q i .ok ((s.staged c.grove).length + 1) := by
  simp [State.dirStage, hrow, hrest, hcheck]

/-- A DIR_STAGE of an entry that fails a check is refused with the check's code. -/
theorem State.dirStage_refused {code : Nat} (hcheck : s.stageCheck c.grove (c.arg 8 8, c.arg 0x10 8) = some code) :
    s.dirStage q i = (s.start q i).refuseEmb q i code (stageTable (c.arg 8 8, c.arg 0x10 8))
      (stageRow (c.arg 8 8, c.arg 0x10 8)) := by
  simp [State.dirStage, hrow, hrest, hcheck]

end

theorem State.dirUnstage_empties (hrow : s.ofRow q i 3 6 = some c) (hrest : c.restZero [] = true) :
    s.dirUnstage q i = ((s.start q i).setStaged c.grove []).complete q i .ok 0 := by
  simp [State.dirUnstage, hrow, hrest]

/-! ## PEND_ABANDON (R274) -/

/-- The entry is a PEND_OUT of a row, whatever its version. -/
def RowEntry.leaves (e : RowEntry) (g t r : Nat) : Bool :=
  e.grove == g && e.table == t && e.row == r &&
    (match e.kind with
     | .pendOut _ _ _ => true
     | _ => false)

theorem RowEntry.leaves_iff (e : RowEntry) (g t r : Nat) :
    e.leaves g t r = true ↔ e.grove = g ∧ e.table = t ∧ e.row = r ∧ ∃ dev k a, e.kind = .pendOut dev k a := by
  cases hkind : e.kind <;> simp [RowEntry.leaves, hkind, and_assoc]

/-- The end of an abandoned change goes to the new home of the row's first PEND_OUT entry, if there is one. -/
def State.tellAbandoned (s : State) (die g t r : Nat) : State :=
  match s.emb.entries.find? (·.leaves g t r) with
  | some e =>
    (match e.kind with
     | .pendOut d _ _ => s.sendTransfer die d g 7 (bareCopy t e.version r) 0
     | _ => s)
  | none => s

theorem State.tellAbandoned_frame (s : State) (die g t r : Nat) :
    (s.tellAbandoned die g t r).emb = s.emb ∧ (s.tellAbandoned die g t r).mem = s.mem := by
  unfold State.tellAbandoned
  split
  · split
    · exact ⟨State.emb_sendTransfer .., State.mem_sendTransfer ..⟩
    · exact ⟨rfl, rfl⟩
  · exact ⟨rfl, rfl⟩

/-- A PEND_ABANDON of a row that is not staged tells the new home and drops the row's PEND_OUT entries. -/
theorem State.pendAbandon_drops (hrow : s.ofRow q i 3 7 = some c) (hrest : c.restZero [(8, 2), (0x10, 8)] = true)
    (hid : c.arg 8 2 < 2 ^ 12) (hr : c.arg 0x10 8 < 2 ^ 48) (htable : (s.tableIx c.grove (c.arg 8 2)).isSome = true)
    (hfree : ∀ w ∈ s.staged c.grove, ¬(stageKind w = 2 ∧ stageTable w = c.arg 8 2 ∧ stageRow w = c.arg 0x10 8)) :
    s.pendAbandon q i =
      (((s.start q i).tellAbandoned (dieOfQueue q) c.grove (c.arg 8 2) (c.arg 0x10 8)).dropEntries
        (·.leaves c.grove (c.arg 8 2) (c.arg 0x10 8))).complete q i .ok 0 := by
  obtain ⟨n, hn⟩ := Option.isSome_iff_exists.mp htable
  unfold State.pendAbandon
  simp only [hrow, hrest, State.tableIx_start, hn, State.staged_start]
  rw [if_neg (by simpa using ⟨hid, hr⟩), if_neg (by simp), if_neg (by simpa using hfree)]
  rfl

/-! ## HEAT_READ (R267) -/

/-- The records of a heat table, as HEAT_READ writes them. -/
def heatBytes (h : List (Nat × Nat × Nat)) : List Byte :=
  padTo 16384 (h.flatMap fun x => toLe 8 (x.2.1 + x.1 * 2 ^ 48) ++ toLe 8 x.2.2)

/-- The state in which a grove's heat table of a die is cleared. -/
def State.clearHeat (s : State) (die g : Nat) : State :=
  s.modEmb fun x => { x with heat := terase x.heat (16 * die + g) }

theorem State.heat_clearHeat (s : State) (die g : Nat) : tgetD (s.clearHeat die g).emb.heat (16 * die + g) [] = [] :=
  congrArg (·.getD []) (tget_terase_same s.emb.heat (16 * die + g))

/-- A HEAT_READ writes its die's heat table out, and clears it when asked. -/
theorem State.heatRead_writes {s1 : State} (hrow : s.ofRow q i 3 8 = some c)
    (hrest : c.restZero [(8, 8), (0x10, 1)] = true) (hva : c.arg 8 8 < 2 ^ 48) (halign : c.arg 8 8 % 64 = 0)
    (hflag : c.arg 0x10 1 ≤ 1)
    (hwrite : (s.start q i).writeVa c.grove (c.arg 8 8)
      (heatBytes (tgetD s.emb.heat (16 * dieOfQueue q + c.grove) [])) = (s1, .ok)) :
    s.heatRead q i =
      (if c.arg 0x10 1 = 1 then s1.clearHeat (dieOfQueue q) c.grove else s1).complete q i .ok 1024 := by
  have hclear : bit (c.arg 0x10 1) 0 = decide (c.arg 0x10 1 = 1) := by
    rcases Nat.le_one_iff_eq_zero_or_eq_one.mp hflag with h | h <;> simp [bit, h]
  rw [heatBytes] at hwrite
  unfold State.heatRead
  simp only [hrow, hrest, State.emb_start, halign, hwrite, hclear, decide_eq_true_eq]
  rw [if_neg (by simpa using ⟨hva, hflag⟩)]
  rfl

end

/-- Settles O24: a command that passes its checks changes its table slot, its staged set, its entries or its heat table
and completes; a refused one leaves its record alone. -/
theorem directoryCommands : Obligations.DirectoryCommands := by
  unfold Obligations.DirectoryCommands
  refine ⟨fun s s1 q i n c b d hrun hid htable => ⟨fun hrow hrest hva => ⟨fun hfree hread hparse hafter => ?loads,
    fun h0 h1 hroom => ?full⟩, fun hrow hrest => ?drops⟩, fun s s1 q i c hrun =>
    ⟨fun hrow hrest => ⟨fun hcheck => ?stages, fun code hcheck hroom => ?refused⟩, fun hrow hrest => ?unstages,
    fun hrow hrest hid hr htable hfree => ?abandons, fun hrow hrest hva halign hflag hwrite => ?heat⟩⟩
  case loads =>
    have hemb : s1.emb = s.emb := (Noted.of_readVa hread).emb
    refine ⟨_, (exec_tableLoad hrun q i).trans
      (congrArg _ (State.tableLoad_loads htable hid hrow hrest hva hfree hread hparse hafter)), ?_, fun j hj => ?_,
      (congrArg EmbState.entries hemb :), (congrArg EmbState.staged hemb :), rfl⟩
    · rw [State.tableSlot_modTable_same, State.tableSlot_congr hemb, TableSlot.load]
    · exact (State.tableSlot_modTable_other _ _ hj).trans (State.tableSlot_congr hemb j)
  case full =>
    obtain ⟨u, hend, hnoted, hlog⟩ := (s.start q i).refuseEmb_eq q i 0x03 (c.arg 8 2) 0
    obtain ⟨r, hrecord⟩ := hlog hroom
    exact ⟨u, r, (exec_tableLoad hrun q i).trans
      (congrArg _ ((State.tableLoad_full htable hid hrow hrest hva h0 h1).trans hend)), hnoted.emb, hnoted.mem, hrecord⟩
  case drops =>
    exact ⟨_, (exec_tableDrop hrun q i).trans (congrArg _ (State.tableDrop_drops htable hid hrow hrest)),
      State.tableSlot_modTable_same (s.start q i) n TableSlot.drop,
      fun j hj => State.tableSlot_modTable_other (s.start q i) TableSlot.drop hj,
      State.staged_setStaged_same .., rfl, rfl⟩
  case stages =>
    exact ⟨_, (exec_dirStage hrun q i).trans (congrArg _ (State.dirStage_adds hrow hrest hcheck)),
      State.staged_setStaged_same .., fun g hg => State.staged_setStaged_other (s.start q i) _ hg, rfl, rfl⟩
  case refused =>
    obtain ⟨u, hend, hnoted, hlog⟩ := (s.start q i).refuseEmb_eq q i code (stageTable (c.arg 8 8, c.arg 0x10 8))
      (stageRow (c.arg 8 8, c.arg 0x10 8))
    obtain ⟨r, hrecord⟩ := hlog hroom
    exact ⟨u, r, (exec_dirStage hrun q i).trans
      (congrArg _ ((State.dirStage_refused hrow hrest hcheck).trans hend)), hnoted.emb, hrecord⟩
  case unstages =>
    exact ⟨_, (exec_dirUnstage hrun q i).trans (congrArg _ (State.dirUnstage_empties hrow hrest)),
      State.staged_setStaged_same .., fun g hg => State.staged_setStaged_other (s.start q i) _ hg, rfl, rfl⟩
  case abandons =>
    obtain ⟨hemb, hmem⟩ :=
      (s.start q i).tellAbandoned_frame (dieOfQueue q) c.grove (c.arg 8 2) (c.arg 0x10 8)
    refine ⟨_, (exec_pendAbandon hrun q i).trans
      (congrArg _ (State.pendAbandon_drops hrow hrest hid hr htable hfree)), fun e => ?_,
      (congrArg EmbState.staged hemb :), hmem⟩
    rw [← RowEntry.leaves_iff, State.dropEntries, State.modEmb, hemb]
    simp [List.mem_filter]
  case heat =>
    have hemb : s1.emb = s.emb := by
      have hkept := (s.start q i).emb_writeVa c.grove (c.arg 8 8)
        (heatBytes (tgetD s.emb.heat (16 * dieOfQueue q + c.grove) []))
      rwa [heatBytes, hwrite] at hkept
    refine ⟨_, (exec_heatRead hrun q i).trans
      (congrArg _ (State.heatRead_writes hrow hrest hva halign hflag hwrite)), ?_, ?_⟩
    · split <;> rfl
    · split
      · exact State.heat_clearHeat ..
      · rw [hemb]

end Sys2Proof.Machine
end

section
/-! PROOFS. Copies between devices: begins, answers, arrivals and directory messages (R268 to R271; O25). -/
namespace Sys2Proof.Machine

section
variable {s : State} (hrun : s.islandsRun = true)
include hrun

theorem exec_regraftBegin (q i : Nat) : exec (.regraftBegin q i) s = .next (s.copyBegin q i false) :=
  congrArg _ (State.onDie_of_islandsRun hrun _)

theorem exec_scionBegin (q i : Nat) : exec (.scionBegin q i) s = .next (s.copyBegin q i true) :=
  congrArg _ (State.onDie_of_islandsRun hrun _)

/-- The acknowledgements of a regraft copy and of a scion copy have one meaning. -/
theorem exec_copyAck {cmd : Instr} {die req : Nat}
    (hcmd : cmd = .regraftCopyAck die req ∨ cmd = .scionCopyAck die req) : exec cmd s = .next (s.copyAck die req) := by
  rcases hcmd with rfl | rfl <;> exact congrArg _ (State.onDie_of_islandsRun hrun _)

theorem exec_regraftCopyTimeout (die req : Nat) :
    exec (.regraftCopyTimeout die req) s = .next (s.copyTimeout die req) :=
  congrArg _ (State.onDie_of_islandsRun hrun _)

theorem exec_regraftCopyReceive (die : Nat) (o : Origin) (c : RowCopy) :
    exec (.regraftCopyReceive die o c) s = .next (s.copyReceive die o c false) :=
  congrArg _ (State.onDie_of_islandsRun hrun _)

theorem exec_scionCopyReceive (die : Nat) (o : Origin) (c : RowCopy) :
    exec (.scionCopyReceive die o c) s = .next (s.copyReceive die o c true) :=
  congrArg _ (State.onDie_of_islandsRun hrun _)

theorem exec_scionRefreshReceive (die : Nat) (o : Origin) (c : RowCopy) :
    exec (.scionRefreshReceive die o c) s = .next (s.refreshReceive die o c false) :=
  congrArg _ (State.onDie_of_islandsRun hrun _)

theorem exec_regraftMirrorReceive (die : Nat) (o : Origin) (c : RowCopy) :
    exec (.regraftMirrorReceive die o c) s = .next (s.refreshReceive die o c true) :=
  congrArg _ (State.onDie_of_islandsRun hrun _)

theorem exec_flipDoneReceive (die : Nat) (o : Origin) (tb r step : Nat) :
    exec (.flipDoneReceive die o tb r step) s = .next (s.flipDone die o tb r) :=
  congrArg _ (State.onDie_of_islandsRun hrun _)

theorem exec_refreshDoneReceive (o : Origin) (step : Nat) :
    exec (.refreshDoneReceive o step) s = .next (s.refreshDoneReceive o step) :=
  congrArg _ (State.onDie_of_islandsRun hrun _)

theorem exec_refreshAckReceive (die req : Nat) : exec (.refreshAckReceive die req) s = .next (s.refreshAck die req) :=
  congrArg _ (State.onDie_of_islandsRun hrun _)

end

/-! ## Row entries (R261) -/

@[simp] theorem State.entries_addEntry (s : State) (e : RowEntry) :
    (s.addEntry e).emb.entries = s.emb.entries ++ [e] := (rfl)

/-- A row without entries has none of any version. -/
theorem State.entriesOf_nil {s : State} {g t r : Nat} (v : Nat)
    (h : ∀ e ∈ s.emb.entries, ¬(e.grove = g ∧ e.table = t ∧ e.row = r)) : s.entriesOf g t v r = [] := by
  refine List.filter_eq_nil_iff.mpr fun e he hof => h e he ?_
  simp only [RowEntry.isOf, Bool.and_eq_true, beq_iff_eq] at hof
  exact ⟨hof.1.1.1, hof.1.1.2, hof.2⟩

/-! ## REGRAFT_BEGIN and SCION_BEGIN (R268, R271) -/

/-- The copy that a begin on a die sends: with the row's state in a regraft, without it in a scion copy. -/
def State.firstCopy (s : State) (die : Nat) (c : Cmd) (d : TableDesc) (va : Nat × Nat) (scion : Bool) : RowCopy where
  request := s.emb.nextRequest.getD die 0
  table := c.arg 8 2
  version := d.version
  row := c.arg 0x10 8
  slot := c.arg 0x1C 4
  data := s.peekVa c.grove va.1 (64 * d.rowPitch)
  state := if scion then [] else s.peekVa c.grove va.2 (64 * d.statePitch)

/-- The entry a begin installs: the row's way out, or its pending holder. -/
def beginEntry (c : Cmd) (d : TableDesc) (scion : Bool) : RowEntry :=
  ⟨c.grove, c.arg 8 2, d.version, c.arg 0x10 8,
    if scion then .holder (c.arg 0x18 2) true false else .pendOut (c.arg 0x18 2) (c.arg 0x1C 4) false⟩

/-- The copy a begin keeps until it is answered, not sent again yet. -/
def State.keptCopy (s : State) (q i : Nat) (c : Cmd) (d : TableDesc) (va : Nat × Nat) (scion : Bool) : SentCopy :=
  ⟨q, i, scion, c.arg 0x18 2, c.grove, s.firstCopy (dieOfQueue q) c d va scion, 0⟩

/-- The operands of a begin are in their ranges, and the bytes outside them are zero. -/
structure Cmd.BeginOk (c : Cmd) : Prop where
  rest : c.restZero [(8, 2), (0x10, 8), (0x18, 2), (0x1C, 4)] = true
  table : c.arg 8 2 < 2 ^ 12
  row : c.arg 0x10 8 < 2 ^ 48
  device : c.arg 0x18 2 < 2 ^ 15
  slot : c.arg 0x1C 4 < 2 ^ 24

/-- A begin may be taken up: its table is the grove's, its destination another member of the grove, the row has no
entry, nothing is staged, and the quota has room. -/
structure State.MayBegin (s : State) (c : Cmd) : Prop where
  table : (s.tableIx c.grove (c.arg 8 2)).isSome = true
  other : c.arg 0x18 2 ≠ s.devnum
  member : (s.grove c.grove).members.testBit (c.arg 0x18 2) = true
  free : ∀ e ∈ s.emb.entries, ¬(e.grove = c.grove ∧ e.table = c.arg 8 2 ∧ e.row = c.arg 0x10 8)
  unstaged : s.staged c.grove = []
  room : s.embUsed c.grove < s.embQuota c.grove

/-- The state in which a begin's entry is installed, and its copy kept until it is answered and sent. -/
def State.copySent (s : State) (die : Nat) (e : RowEntry) (x : SentCopy) : State :=
  (((s.addEntry e).embRequest die).2.modEmb fun y => { y with
    copies := tset y.copies (2 ^ 32 * die + s.emb.nextRequest.getD die 0) x }).sendTransfer die x.dest x.grove
      (if x.scion then 2 else 1) x.msg 0

theorem State.copySent_frame (s : State) (die : Nat) (e : RowEntry) (x : SentCopy) :
    (s.copySent die e x).emb.entries = s.emb.entries ++ [e] ∧
    tget (s.copySent die e x).emb.copies (2 ^ 32 * die + s.emb.nextRequest.getD die 0) = some x ∧
    (s.copySent die e x).hrt = s.hrt ∧ (s.copySent die e x).mem = s.mem := by
  simp only [State.copySent, State.emb_sendTransfer, State.hrt_sendTransfer, State.mem_sendTransfer]
  exact ⟨rfl, tget_tset_same s.emb.copies _ x, rfl, rfl⟩

/-- A begin that may be taken up, on the row's home, installs its entry, keeps its copy and sends it. -/
theorem State.copyBegin_sends {s : State} {q i code : Nat} {c : Cmd} {d : TableDesc} {va : Nat × Nat} {scion : Bool}
    (hrow : s.ofRow q i 3 (if scion then 4 else 3) = some c) (hok : c.BeginOk) (hmay : s.MayBegin c)
    (hbegin : (s.start q i).beginRow c.grove (c.arg 8 2) (c.arg 0x10 8) = (s.start q i, some (d, va), code)) :
    s.copyBegin q i scion =
      (s.start q i).copySent (dieOfQueue q) (beginEntry c d scion) (s.keptCopy q i c d va scion) := by
  obtain ⟨hrest, htb, hr, hdev, hslot⟩ := hok
  obtain ⟨htable, hother, hmember, hfree, hunstaged, hroom⟩ := hmay
  have hentries : (s.start q i).entriesOf c.grove (c.arg 8 2) d.version (c.arg 0x10 8) = [] :=
    State.entriesOf_nil d.version hfree
  have hholders : (s.start q i).holdersOf c.grove (c.arg 8 2) d.version (c.arg 0x10 8) = [] := by
    rw [State.holdersOf, hentries, List.filterMap_nil]
  have hquota : ¬ (s.start q i).embUsed c.grove ≥ (s.start q i).embQuota c.grove := Nat.not_le.mpr hroom
  obtain ⟨n, hn⟩ := Option.isSome_iff_exists.mp htable
  unfold State.copyBegin
  simp only [hrow, hrest, State.tableIx_start, hn, hbegin, hentries, hholders, State.staged_start, hunstaged,
    State.devnum_start, State.grove_start, hmember]
  rw [if_neg (by simpa [and_assoc] using ⟨htb, hr, hdev, hslot⟩), if_neg (by simp),
    if_neg (by cases scion <;> simp [hother]), if_neg hquota]
  rfl

/-! ## Answers and timeouts of a copy (R268, R271) -/

/-- The state in which a copy is answered: it is no longer kept, and the entry it installed is acknowledged. -/
def State.copyAnswered (s : State) (die req : Nat) (x : SentCopy) : State :=
  s.modEmb fun e => { e with
    copies := terase e.copies (2 ^ 32 * die + req)
    entries := e.entries.map fun y => if x.owns y then { y with kind := y.kind.ack } else y }

/-- The state in which a copy has been sent once more. -/
def State.copyTriedAgain (s : State) (die req : Nat) (x : SentCopy) : State :=
  s.modEmb fun e => { e with copies := tset e.copies (2 ^ 32 * die + req) { x with tries := x.tries + 1 } }

/-- The state in which a copy is given up: neither it nor the entry it installed is kept. -/
def State.copyGivenUp (s : State) (die req : Nat) (x : SentCopy) : State :=
  (s.modEmb fun e => { e with copies := terase e.copies (2 ^ 32 * die + req) }).dropEntries x.owns

section
variable {s : State} {die req : Nat} {x : SentCopy} (hsent : tget s.emb.copies (2 ^ 32 * die + req) = some x)
include hsent

theorem State.copyAck_completes :
    s.copyAck die req =
      (s.copyAnswered die req x).complete x.queue x.index .ok (x.msg.data.length + x.msg.state.length) := by
  unfold State.copyAck
  rw [hsent]
  rfl

theorem State.copyTimeout_again (htries : x.tries < 3) :
    s.copyTimeout die req = (s.copyTriedAgain die req x).sendTransfer die x.dest x.grove (if x.scion then 2 else 1)
      x.msg 0 := by
  simp only [State.copyTimeout, hsent, if_pos htries]
  rfl

/-- After the last attempt the destination is told, and the command faults with its record. -/
theorem State.copyTimeout_faults (htries : 3 ≤ x.tries) :
    s.copyTimeout die req =
      (((s.copyGivenUp die req x).sendTransfer die x.dest x.grove 7
        (bareCopy x.msg.table x.msg.version x.msg.row) 0).embRecord die 0x0D x.grove x.msg.table x.msg.row).complete
          x.queue x.index .fault 0 := by
  simp only [State.copyTimeout, hsent, if_neg (Nat.not_lt.mpr htries)]
  rfl

end

/-! ## Copies, refreshes and mirrors that arrive (R268, R269, R271) -/

/-- The entry a copy that arrives installs. -/
def arrivedEntry (o : Origin) (c : RowCopy) (scion : Bool) : RowEntry :=
  ⟨o.grove, c.table, c.version, c.row, if scion then .pendScion c.slot else .pendIn o.device c.slot⟩

section
variable {s : State} {die : Nat} {o : Origin} {c : RowCopy} {d : TableDesc} (hgrove : s.groveIs o.grove o.gen = true)
  (hdesc : s.copyDesc o.grove c = some d)
include hgrove hdesc

/-- A first copy, with room in the quota, is stored, its entry installed, and acknowledged. -/
theorem State.copyReceive_first {scion : Bool} (hnew : arrivedEntry o c scion ∉ s.emb.entries)
    (hroom : s.embUsed o.grove < s.embQuota o.grove) :
    s.copyReceive die o c scion =
      ((s.storeCopy o.grove d c.slot c).addEntry (arrivedEntry o c scion)).sendAck die o.device o.grove
        c.request 0 := by
  rw [arrivedEntry] at hnew
  simp [State.copyReceive, hgrove, hdesc, hnew, hroom, arrivedEntry]

/-- A repeated copy is stored and acknowledged. -/
theorem State.copyReceive_repeat {scion : Bool} (hheld : arrivedEntry o c scion ∈ s.emb.entries) :
    s.copyReceive die o c scion =
      (s.storeCopy o.grove d c.slot c).sendAck die o.device o.grove c.request 0 := by
  rw [arrivedEntry] at hheld
  simp [State.copyReceive, hgrove, hdesc, hheld]

/-- A refresh is stored in the slot of the row's SCION entry and acknowledged. -/
theorem State.refreshReceive_scion {k : Nat} (hslot : s.scionOf o.grove c.table c.version c.row false = some k) :
    s.refreshReceive die o c false = (s.storeCopy o.grove d k c).sendAck die o.device o.grove c.request 0 := by
  simp [State.refreshReceive, hgrove, hdesc, hslot]

/-- A mirror is stored in the slot of the row's PEND_IN entry and acknowledged. -/
theorem State.refreshReceive_mirror {dev k : Nat}
    (hslot : s.pendInOf o.grove c.table c.version c.row = some (dev, k)) :
    s.refreshReceive die o c true = (s.storeCopy o.grove d k c).sendAck die o.device o.grove c.request 0 := by
  simp [State.refreshReceive, hgrove, hdesc, hslot]

end

/-- Storing a copy and acknowledging it leaves the directory. -/
theorem State.emb_stored_sendAck (s : State) (g : Nat) (d : TableDesc) (k : Nat) (c : RowCopy)
    (die device request status : Nat) :
    ((s.storeCopy g d k c).sendAck die device g request status).emb = s.emb :=
  (State.emb_sendAck ..).trans (s.emb_storeCopy g d k c)

/-! ## FLIP_DONE, REFRESH_DONE and the acknowledgement of a refresh (R269 to R271) -/

/-- The entry is a PEND_IN of a row from a device, whatever its version. -/
def RowEntry.arrives (e : RowEntry) (g t r device : Nat) : Bool :=
  e.grove == g && e.table == t && e.row == r &&
    (match e.kind with
     | .pendIn d _ => d == device
     | _ => false)

theorem RowEntry.arrives_false {e : RowEntry} {g t r : Nat} (device : Nat)
    (h : ¬(e.grove = g ∧ e.table = t ∧ e.row = r)) : e.arrives g t r device = false := by
  refine Bool.eq_false_iff.mpr fun ha => h ?_
  simp only [RowEntry.arrives, Bool.and_eq_true, beq_iff_eq] at ha
  exact ⟨ha.1.1.1, ha.1.1.2, ha.1.2⟩

/-- While no read is held, none is taken up. -/
theorem State.retryReads_none {s : State} (h : s.emb.heldReads = []) (p : HeldRead → Bool) :
    s.retryReads p = s := by
  rw [State.retryReads]
  simp only [h, List.filter_nil, State.each, List.foldl_nil, State.modEmb]
  rw [← h]

section
variable {s : State} {o : Origin} {t r w k : Nat} {pre post : List RowEntry}
  (hentries : s.emb.entries = pre ++ ⟨o.grove, t, w, r, .pendIn o.device k⟩ :: post)
  (hother : ∀ e ∈ pre ++ post, ¬(e.grove = o.grove ∧ e.table = t ∧ e.row = r))
include hentries hother

/-- The row's only entry is the first that FLIP_DONE finds. -/
theorem State.find_arrives : s.emb.entries.find? (·.arrives o.grove t r o.device) =
    some ⟨o.grove, t, w, r, .pendIn o.device k⟩ := by
  have hpre : pre.find? (·.arrives o.grove t r o.device) = none := List.find?_eq_none.mpr fun e he => by
    simp [RowEntry.arrives_false o.device (hother e (List.mem_append_left _ he))]
  rw [hentries, List.find?_append, hpre]
  simp [RowEntry.arrives]

/-- Without the row's only entry the other entries are left. -/
theorem State.entries_dropArrives :
    (s.dropEntries (·.arrives o.grove t r o.device)).emb.entries = pre ++ post := by
  have hkept : ∀ l : List RowEntry, (∀ e ∈ l, ¬(e.grove = o.grove ∧ e.table = t ∧ e.row = r)) →
      l.filter (fun e => !e.arrives o.grove t r o.device) = l := fun l hl =>
    List.filter_eq_self.mpr fun e he => by simp [RowEntry.arrives_false o.device (hl e he)]
  have hpre := hkept pre fun e he => hother e (List.mem_append_left _ he)
  have hpost := hkept post fun e he => hother e (List.mem_append_right _ he)
  have hmine : RowEntry.arrives ⟨o.grove, t, w, r, .pendIn o.device k⟩ o.grove t r o.device = true := by
    simp [RowEntry.arrives]
  simp [State.dropEntries, State.modEmb, hentries, hpre, hpost, hmine]

/-- FLIP_DONE makes the row's only entry, a PEND_IN from its sender, a GRAFT on this device (R271 step 5). -/
theorem State.flipDone_grafts (die : Nat) (hgrove : s.groveIs o.grove o.gen = true) (hheld : s.emb.heldReads = []) :
    s.flipDone die o t r = (s.dropEntries (·.arrives o.grove t r o.device)).addEntry
      ⟨o.grove, t, w, r, .graft s.devnum k⟩ := by
  have hfind := State.find_arrives hentries hother
  have hnone : (s.dropEntries (·.arrives o.grove t r o.device)).graftOf o.grove t w r = none := by
    rw [State.graftOf, State.entriesOf_nil w (by rwa [State.entries_dropArrives hentries hother]), List.findSome?_nil]
  unfold State.flipDone
  refine (if_neg (by simp [hgrove])).trans ?_
  dsimp only
  split
  next hmissing => exact absurd (hfind.symm.trans hmissing) (by simp)
  next e hfound =>
    obtain rfl := Option.some.inj (hfind.symm.trans hfound)
    exact (congrArg (State.retryReads · _) (if_neg (Option.not_isSome_iff_eq_none.mpr hnone))).trans
      (State.retryReads_none (s := (s.dropEntries _).addEntry _) hheld _)

end

theorem State.refreshDoneReceive_records {s : State} {o : Origin} (step : Nat)
    (hgrove : s.groveIs o.grove o.gen = true) :
    s.refreshDoneReceive o step =
      s.modEmb fun x => { x with refreshed := tset x.refreshed (2 ^ 15 * o.grove + o.device) step } := by
  simp [State.refreshDoneReceive, hgrove]

/-- While another refresh of the grove is open on the die, an acknowledgement forgets its own and nothing else. -/
theorem State.refreshAck_forgets {s : State} {die req : Nat} {x : SentRefresh} {p : Nat × SentRefresh}
    (hsent : tget s.emb.refreshes (2 ^ 32 * die + req) = some x) (hmirror : x.mirror = false)
    (hopen : p ∈ terase s.emb.refreshes (2 ^ 32 * die + req)) (hdie : p.1 / 2 ^ 32 = die) (hgrove : p.2.grove = x.grove)
    (hp : p.2.mirror = false) :
    s.refreshAck die req =
      s.modEmb fun e => { e with refreshes := terase e.refreshes (2 ^ 32 * die + req) } := by
  unfold State.refreshAck
  simp only [hsent, hmirror]
  exact if_pos (List.any_eq_true.mpr ⟨p, hopen, by rw [hdie, hgrove, hp]; simp⟩)

/-- Settles O25: a begin keeps its entry and its copy; an answer or timeout of a copy changes that copy and the entry it
installed; a copy that arrives is one store and at most one entry; and each directory message changes its own record. -/
theorem copiesBetweenDevices : Obligations.CopiesBetweenDevices := by
  unfold Obligations.CopiesBetweenDevices
  refine ⟨?begins,
    fun s die req x cmd hrun hsent => ⟨fun hcmd => ?answered, fun htries => ?again, fun htries => ?faults⟩,
    fun s die o c d hrun hgrove hdesc => ⟨?copy, ?scionCopy, fun k hslot => ?refresh, fun dev k hslot => ?mirror⟩,
    fun s die o tb r step req hrun =>
      ⟨fun pre post w k hgrove hheld hentries hother => ?flip, fun hgrove => ?refreshDone,
      fun x p hsent hmirror hopen hdie hgrove hp => ?refreshAck⟩⟩
  case begins =>
    rintro s s1 q i g tb r dev slot die c d va code hrun rfl rfl rfl rfl rfl rfl hrest htb hr hdev hslot htable hbegin
      hother hmember hfree hunstaged hroom
    obtain rfl := State.beginRow_ok hbegin
    have hsends {scion : Bool} (hrow : s.ofRow q i 3 (if scion then 4 else 3) = some c) := State.copyBegin_sends hrow
      ⟨hrest, htb, hr, hdev, hslot⟩ ⟨htable, hother, hmember, hfree, hunstaged, hroom⟩ hbegin
    have hsent (scion : Bool) := (s.start q i).copySent_frame (dieOfQueue q) (beginEntry c d scion)
      (s.keptCopy q i c d va scion)
    refine ⟨fun hrow => ?regraft, fun hrow => ?scion⟩
    case regraft =>
      obtain ⟨hentries, hcopies, hhrt, hmem⟩ := hsent false
      exact ⟨_, s.firstCopy (dieOfQueue q) c d va false,
        (exec_regraftBegin hrun q i).trans (congrArg _ (hsends (scion := false) hrow)), hentries, hcopies,
        rfl, rfl, rfl, rfl, State.cmd_congr (State.queue_congr hhrt q) i, hmem⟩
    case scion =>
      obtain ⟨hentries, hcopies, hhrt, hmem⟩ := hsent true
      exact ⟨_, s.firstCopy (dieOfQueue q) c d va true,
        (exec_scionBegin hrun q i).trans (congrArg _ (hsends (scion := true) hrow)), hentries, hcopies,
        rfl, rfl, rfl, rfl, State.cmd_congr (State.queue_congr hhrt q) i, hmem⟩
  case answered =>
    exact ⟨_, (exec_copyAck hrun hcmd).trans (congrArg _ (State.copyAck_completes hsent)), rfl, rfl, rfl, rfl⟩
  case again =>
    exact ⟨_, (exec_regraftCopyTimeout hrun die req).trans (congrArg _ (State.copyTimeout_again hsent htries)),
      State.emb_sendTransfer .., State.mem_sendTransfer ..⟩
  case faults =>
    have hnoted := State.embRecord_noted die 0x0D x.grove x.msg.table x.msg.row .contained (Noted.refl
      ((s.copyGivenUp die req x).sendTransfer die x.dest x.grove 7
        (bareCopy x.msg.table x.msg.version x.msg.row) 0))
    have hemb := hnoted.emb.trans (State.emb_sendTransfer ..)
    exact ⟨_, (exec_regraftCopyTimeout hrun die req).trans (congrArg _ (State.copyTimeout_faults hsent htries)),
      congrArg EmbState.copies hemb, congrArg EmbState.entries hemb, hnoted.mem.trans (State.mem_sendTransfer ..)⟩
  case copy =>
    rintro e rfl
    refine ⟨fun hnew hroom => ?first, fun hheld => ?again⟩
    case first =>
      refine ⟨_, (exec_regraftCopyReceive hrun die o c).trans
        (congrArg _ (State.copyReceive_first hgrove hdesc hnew hroom)), ?_, State.mem_sendAck ..⟩
      rw [State.emb_sendAck, State.entries_addEntry, State.emb_storeCopy]
      rfl
    case again =>
      exact ⟨_, (exec_regraftCopyReceive hrun die o c).trans
        (congrArg _ (State.copyReceive_repeat hgrove hdesc hheld)), State.emb_stored_sendAck .., State.mem_sendAck ..⟩
  case scionCopy =>
    rintro e rfl hnew hroom
    refine ⟨_, (exec_scionCopyReceive hrun die o c).trans
      (congrArg _ (State.copyReceive_first hgrove hdesc hnew hroom)), ?_, State.mem_sendAck ..⟩
    rw [State.emb_sendAck, State.entries_addEntry, State.emb_storeCopy]
    rfl
  case refresh =>
    exact ⟨_, (exec_scionRefreshReceive hrun die o c).trans
      (congrArg _ (State.refreshReceive_scion hgrove hdesc hslot)), State.emb_stored_sendAck .., State.mem_sendAck ..⟩
  case mirror =>
    exact ⟨_, (exec_regraftMirrorReceive hrun die o c).trans
      (congrArg _ (State.refreshReceive_mirror hgrove hdesc hslot)), State.emb_stored_sendAck .., State.mem_sendAck ..⟩
  case flip =>
    refine ⟨_, (exec_flipDoneReceive hrun die o tb r step).trans
      (congrArg _ (State.flipDone_grafts hentries hother die hgrove hheld)), ?_, rfl, rfl⟩
    rw [State.entries_addEntry, State.entries_dropArrives hentries hother]
  case refreshDone =>
    exact ⟨_, (exec_refreshDoneReceive hrun o step).trans
      (congrArg _ (State.refreshDoneReceive_records step hgrove)), rfl, rfl⟩
  case refreshAck =>
    exact ⟨_, (exec_refreshAckReceive hrun die req).trans
      (congrArg _ (State.refreshAck_forgets hsent hmirror hopen hdie hgrove hp)), rfl, rfl⟩

end Sys2Proof.Machine
end

section
/-! PROOFS. The near-memory adders (R398, R400, R401): sums, one line's additions, and the lines of an accumulate. -/
namespace Sys2Proof.Machine

/-! ## Sums -/

/-- A signed word's sum stays at its bounds. -/
theorem toSigned_satI32 (x y : Nat) :
    toSigned 32 (satI32 x y).1 = max (-2 ^ 31) (min (2 ^ 31 - 1) (toSigned 32 x + toSigned 32 y)) := by
  unfold satI32
  extract_lets v
  have hv : v = toSigned 32 x + toSigned 32 y := rfl
  rw [← hv]
  split
  · have htop : toSigned 32 (2 ^ 31 - 1) = 2 ^ 31 - 1 := by decide
    dsimp only
    omega
  · split
    · have hbottom : toSigned 32 (2 ^ 31) = -2 ^ 31 := by decide
      dsimp only
      omega
    · have hsum : toSigned 32 (ofSigned 32 v) = v := by
        unfold toSigned ofSigned
        split <;> omega
      dsimp only
      omega

/-- An unsigned word's sum stays at its bound. -/
theorem accElem_u32 (x y : Nat) : accElem .u32 x y = (min (x + y) (2 ^ 32 - 1), decide (2 ^ 32 - 1 < x + y)) := by
  unfold accElem
  dsimp only
  split
  next h => rw [Nat.min_eq_right (Nat.le_of_lt h), decide_eq_true h]
  next h => rw [Nat.min_eq_left (Nat.not_lt.mp h), decide_eq_false h]

theorem wordNo_div (c line : Nat) {o : Nat} (h : o < 64) : wordNo c line o / 16 = lineNo c line := by
  unfold wordNo
  omega

theorem mem_of_mem_liveAdds {s : State} {c line : Nat} {op : AccOp} {adds : List (Nat × Nat)} {x : Nat × Nat}
    (h : x ∈ s.liveAdds c line op adds) : x ∈ adds := by
  unfold State.liveAdds at h
  split at h
  · exact h
  · exact List.mem_of_mem_filter h

/-- A sum that passes its bound stands at the position of one of the additions. -/
theorem pos_of_mem_accSats {op : AccOp} {adds : List (Nat × Nat)} {line : List Byte} {o : Nat}
    (h : o ∈ accSats op adds line) : ∃ x ∈ adds, x.1 = o := by
  obtain ⟨x, hx, rfl⟩ := List.mem_map.mp h
  exact ⟨x, List.mem_of_mem_filter hx, rfl⟩

/-! ## What an addition leaves -/

/-- From `s` to `t` channel c's adder buffer has taken the lines `sums`, in order; else only their words' marks as
saturated targets, registers and records changed. -/
structure Adding (s t : State) (c : Nat) (sums : List (Nat × List Byte)) : Prop where
  grv : t.grv = s.grv
  kln : t.kln = s.kln
  mem : t.mem = { s.mem with channels := t.mem.channels, saturated := t.mem.saturated }
  same : t.channel c = { s.channel c with adders := (s.channel c).adders ++ sums }
  other : ∀ d, d ≠ c → t.channel d = s.channel d
  words : ∀ w, (∀ x ∈ sums, w / 16 ≠ lineNo c x.1) → (w ∈ t.mem.saturated ↔ w ∈ s.mem.saturated)

namespace Adding

theorem refl (s : State) (c : Nat) : Adding s s c [] where
  grv := rfl
  kln := rfl
  mem := rfl
  same := by rw [List.append_nil]
  other _ _ := rfl
  words _ _ := Iff.rfl

theorem trans {s t u : State} {c : Nat} {a b : List (Nat × List Byte)} (h : Adding s t c a) (k : Adding t u c b) :
    Adding s u c (a ++ b) where
  grv := k.grv.trans h.grv
  kln := k.kln.trans h.kln
  mem := by rw [k.mem, h.mem]
  same := by rw [k.same, h.same, List.append_assoc]
  other d hd := (k.other d hd).trans (h.other d hd)
  words w hw := (k.words w fun x hx => hw x (List.mem_append_right _ hx)).trans
    (h.words w fun x hx => hw x (List.mem_append_left _ hx))

/-- Marks of the words of the lines added to may change further. -/
theorem mark {s t u : State} {c : Nat} {sums : List (Nat × List Byte)} {l : List Nat} (h : Adding s t c sums)
    (hgrv : u.grv = t.grv) (hkln : u.kln = t.kln) (hmem : u.mem = { t.mem with saturated := l })
    (hwords : ∀ w, (∀ x ∈ sums, w / 16 ≠ lineNo c x.1) → (w ∈ l ↔ w ∈ t.mem.saturated)) : Adding s u c sums where
  grv := hgrv.trans h.grv
  kln := hkln.trans h.kln
  mem := by rw [hmem, h.mem]
  same := by rw [← h.same, State.channel, hmem, State.channel]
  other d hd := by rw [← h.other d hd, State.channel, hmem, State.channel]
  words w hw := by rw [hmem]; exact (hwords w hw).trans (h.words w hw)

section
variable {s t : State} {c : Nat} {sums : List (Nat × List Byte)} (h : Adding s t c sums)
include h

theorem channelOwner (d : Nat) : t.channelOwner d = s.channelOwner d := by
  simp only [State.channelOwner, State.ownerBy, State.grove, h.grv]

theorem absent (d : Nat) : (t.channel d).absent = (s.channel d).absent := by
  by_cases hd : d = c
  · rw [hd, h.same]
  · rw [h.other d hd]

theorem locate (o : Nat) : t.locate o = s.locate o := State.locate_congr h.grv h.absent o

theorem wcb (d : Nat) : (t.channel d).wcb = (s.channel d).wcb := by
  by_cases hd : d = c
  · rw [hd, h.same]
  · rw [h.other d hd]

theorem lineBad (d line : Nat) : t.lineBad d line = s.lineBad d line := by
  rw [State.lineBad, h.mem, State.lineBad]

theorem lineKnown (d line : Nat) : t.lineKnown d line = s.lineKnown d line := by
  have hpos : (t.channel d).scrubPos = (s.channel d).scrubPos := by
    by_cases hd : d = c
    · rw [hd, h.same]
    · rw [h.other d hd]
  rw [State.lineKnown, hpos, h.mem, State.lineKnown]

theorem rawLine (d line : Nat) : t.rawLine d line = s.rawLine d line := by
  refine List.map_congr_left fun i _ => ?_
  rw [State.rawByte, State.keyEpoch, h.lineKnown, h.grv, h.mem, State.rawByte, State.keyEpoch]

/-- A line that is not among those added to reads as before. -/
theorem viewLine_other {d line : Nat} (hout : d = c → ∀ x ∈ sums, x.1 ≠ line) : t.viewLine d line = s.viewLine d line := by
  have hfind : (t.channel d).adders.find? (·.1 == line) = (s.channel d).adders.find? (·.1 == line) := by
    by_cases hd : d = c
    · have hnone : sums.find? (·.1 == line) = none :=
        List.find?_eq_none.mpr fun x hx => by simpa using hout hd x hx
      rw [hd, h.same, List.find?_append, hnone, Option.or_none]
    · rw [h.other d hd]
  rw [State.viewLine, hfind, h.wcb, h.rawLine, State.viewLine]

/-- A line that was added to reads as the adder buffer has it. -/
theorem viewLine_sum {line : Nat} {bs : List Byte} (hnone : (s.channel c).adders = [])
    (hfind : sums.find? (·.1 == line) = some (line, bs)) : t.viewLine c line = bs := by
  rw [State.viewLine, h.same, hnone, List.nil_append, hfind]

/-- Additions to another line take place as before. -/
theorem liveAdds {line : Nat} (op : AccOp) {adds : List (Nat × Nat)} (hpos : ∀ x ∈ adds, x.1 < 64)
    (hout : ∀ x ∈ sums, lineNo c line ≠ lineNo c x.1) : t.liveAdds c line op adds = s.liveAdds c line op adds := by
  have hlive : ∀ x ∈ adds, t.mem.saturated.contains (wordNo c line x.1) = s.mem.saturated.contains (wordNo c line x.1) :=
    fun x hx => by
      rw [Bool.eq_iff_iff, List.contains_iff_mem, List.contains_iff_mem]
      exact h.words _ fun y hy => by rw [wordNo_div c line (hpos x hx)]; exact hout y hy
  unfold State.liveAdds
  split
  · rfl
  · exact List.filter_congr fun x hx => by rw [hlive x hx]

end
end Adding

/-! ## One line -/

/-- A controller whose adder buffer has taken a line. -/
def Channel.takeSum (a : Nat × List Byte) (x : Channel) : Channel := { x with adders := x.adders ++ [a] }

/-- Marked targets stay marked, and the ones given are. -/
theorem State.each_saturate (s : State) (c line off : Nat) (l : List Nat) :
    ∃ sat, (s.each l fun s o => s.saturate c line off o).grv = s.grv ∧
      (s.each l fun s o => s.saturate c line off o).kln = s.kln ∧
      (s.each l fun s o => s.saturate c line off o).mem = { s.mem with saturated := sat } ∧
      ∀ w, w ∈ sat ↔ w ∈ s.mem.saturated ∨ ∃ o ∈ l, w = wordNo c line o := by
  unfold State.each
  induction l generalizing s with
  | nil => exact ⟨s.mem.saturated, rfl, rfl, rfl, by simp⟩
  | cons o l ih =>
    have hmem : (s.saturate c line off o).mem =
        { s.mem with saturated := sinsert s.mem.saturated (wordNo c line o) } := by simp [State.saturate]
    obtain ⟨sat, hgrv, hkln, hsat, hwords⟩ := ih (s.saturate c line off o)
    refine ⟨sat, hgrv.trans (by simp [State.saturate]), hkln.trans (by simp [State.saturate]),
      hsat.trans (by rw [hmem]), fun w => ?_⟩
    rw [hwords, hmem, mem_sinsert, List.exists_mem_cons_iff]
    tauto

section
variable {s : State} {c line : Nat} (hwcb : ∀ x ∈ (s.channel c).wcb, x.line ≠ line)
  (hnew : ∀ x ∈ (s.channel c).adders, x.1 ≠ line) (hbad : s.lineBad c line = false) (hknown : s.lineKnown c line = true)

include hwcb in
theorem State.settleWcb_none : s.settleWcb c line = s := by
  have hnone : (s.channel c).wcb.find? (·.line == line) = none :=
    List.find?_eq_none.mpr fun x hx => by simpa using hwcb x hx
  rw [State.settleWcb, hnone]

include hwcb hnew hbad hknown in
/-- A line comes into the adder buffer with what `f` makes of it (R401). -/
theorem State.accLine_new (hroom : (s.channel c).adders.length < 128) (f : List Byte → List Byte) :
    s.accLine c line f =
      ((s.bump .MEM_ACC_LINES (chIx c)).modChannel c (Channel.takeSum (line, f (s.rawLine c line))), true) := by
  have hnone : (s.channel c).adders.find? (·.1 == line) = none :=
    List.find?_eq_none.mpr fun x hx => by simpa using hnew x hx
  unfold State.accLine
  simp only [State.settleWcb_none hwcb, hnone, hbad, State.mergeBase, hknown]
  simp only [Bool.false_eq_true, if_false, if_true, if_neg (Nat.not_le.mpr hroom)]
  rfl

theorem State.adding_takeSum (s : State) (c line : Nat) (bs : List Byte) :
    Adding s ((s.bump .MEM_ACC_LINES (chIx c)).modChannel c (Channel.takeSum (line, bs))) c [(line, bs)] := by
  have hmem := s.bump_mem .MEM_ACC_LINES (chIx c) 1
  have hchan : ∀ d, (s.bump .MEM_ACC_LINES (chIx c)).channel d = s.channel d := fun d => by
    rw [State.channel, hmem, State.channel]
  refine ⟨by simp, by simp, ?_, ?_, fun d hd => ?_, fun w _ => ?_⟩
  · rw [State.modChannel, hmem]
  · rw [State.channel_modChannel_same, hchan]; rfl
  · rw [State.channel_modChannel_other _ _ hd, hchan]
  · rw [State.modChannel, hmem]

include hwcb hnew hbad hknown in
/-- The additions to a line that come into the adder buffer (R398, R400): the line is there with its sums; where they are
integer sums, no mark is lost and each sum that passed its bound is marked. -/
theorem State.accAdd_new (hroom : (s.channel c).adders.length < 128) (off : Nat) (op : AccOp) {adds : List (Nat × Nat)}
    (hpos : ∀ x ∈ adds, x.1 < 64) :
    ∃ t, s.accAdd c line off op adds = (t, true) ∧
      Adding s t c [(line, accLineBytes op (s.liveAdds c line op adds) (s.rawLine c line))] ∧
      (op ≠ .f32 → (∀ w ∈ s.mem.saturated, w ∈ t.mem.saturated) ∧
        ∀ o ∈ accSats op (s.liveAdds c line op adds) (s.rawLine c line), wordNo c line o ∈ t.mem.saturated) := by
  have hnone : (s.channel c).adders.find? (·.1 == line) = none :=
    List.find?_eq_none.mpr fun x hx => by simpa using hnew x hx
  obtain ⟨live, hlive⟩ : ∃ live, live = s.liveAdds c line op adds := ⟨_, rfl⟩
  have hlivePos : ∀ x ∈ live, x.1 < 64 := fun x hx => hpos x (mem_of_mem_liveAdds (hlive ▸ hx))
  obtain ⟨u, hu⟩ : ∃ u, u = (s.bump .MEM_ACC_LINES (chIx c)).modChannel c
    (Channel.takeSum (line, accLineBytes op live (s.rawLine c line))) := ⟨_, rfl⟩
  have hadding : Adding s u c [(line, accLineBytes op live (s.rawLine c line))] :=
    hu ▸ s.adding_takeSum c line _
  have husat : u.mem.saturated = s.mem.saturated := by rw [hu, State.modChannel, State.bump_mem]
  have hacc : s.accAdd c line off op adds = if op = .f32 then
      (u.unsaturate fun w => live.any fun a => wordNo c line a.1 == w, true)
      else (u.each (accSats op live (s.rawLine c line)) fun s o => s.saturate c line off o, true) := by
    unfold State.accAdd
    simp only [State.settleWcb_none hwcb, hnone, State.accLine_new hwcb hnew hbad hknown hroom, State.mergeBase, hknown,
      ← hlive, ← hu]
    rfl
  rw [← hlive, hacc]
  by_cases hop : op = .f32
  · refine ⟨_, if_pos hop, hadding.mark rfl rfl rfl fun w hw => ?_, fun h => absurd hop h⟩
    have hkept : (live.any fun a => wordNo c line a.1 == w) = false := by
      refine Bool.eq_false_iff.mpr fun hany => hw _ List.mem_cons_self ?_
      obtain ⟨x, hx, hxw⟩ := List.any_eq_true.mp hany
      rw [← beq_iff_eq.mp hxw, wordNo_div c line (hlivePos x hx)]
    simp [List.mem_filter, hkept]
  · obtain ⟨sat, hgrv, hkln, hmem, hwords⟩ := u.each_saturate c line off (accSats op live (s.rawLine c line))
    refine ⟨_, if_neg hop, hadding.mark hgrv hkln hmem fun w hw => ?_, fun _ => ⟨fun w hw => ?_, fun o ho => ?_⟩⟩
    · rw [hwords]
      refine or_iff_left fun ⟨o, ho, hwo⟩ => hw _ List.mem_cons_self ?_
      obtain ⟨x, hx, rfl⟩ := pos_of_mem_accSats ho
      rw [hwo, wordNo_div c line (hlivePos x hx)]
    · rw [hmem]
      exact (hwords w).mpr (.inl (husat ▸ hw))
    · rw [hmem]
      exact (hwords _).mpr (.inr ⟨o, ho, rfl⟩)

end

/-! ## The lines of an accumulate -/

/-- One line of an accumulate: the model's step over its lines. -/
def State.accStep (p : Party) (op : AccOp) (q : State × Acc) (l : Nat × List (Nat × Nat)) : State × Acc :=
  match q.1.placeFor p l.1 with
  | (.ok, c, b) =>
    let r := (q.1.touch l.1).accAdd c (b / 64) l.1 op l.2
    if r.2 then (r.1, q.2) else (r.1.ueRecord .contained c (b / 64), if q.2 == .ok then .ue else q.2)
  | (.unmapped, _, _) => (q.1.unmappedRecord p l.1, if q.2 == .ok then .unmapped else q.2)
  | (a, _, _) => (q.1, if q.2 == .ok then a else q.2)

theorem State.accumulateBy_eq (s : State) (p : Party) (op : AccOp) (off mask : Nat) (values : List Nat) :
    s.accumulateBy p op off mask values = (accLines op off mask values).foldl (State.accStep p op) (s, .ok) := rfl

/-- The lines that an accumulate puts into the adder buffer, from line `line` on. -/
def State.sumsFrom (s : State) (c : Nat) (op : AccOp) : Nat → List (Nat × List (Nat × Nat)) → List (Nat × List Byte)
  | _, [] => []
  | line, p :: ps => (line, accLineBytes op (s.liveAdds c line op p.2) (s.rawLine c line)) :: s.sumsFrom c op (line + 1) ps

theorem State.mem_sumsFrom {s : State} {c : Nat} {op : AccOp} {line : Nat} {ps : List (Nat × List (Nat × Nat))}
    {x : Nat × List Byte} (h : x ∈ s.sumsFrom c op line ps) : line ≤ x.1 ∧ x.1 < line + ps.length := by
  induction ps generalizing line with
  | nil => exact absurd h List.not_mem_nil
  | cons p ps ih =>
    rw [List.length_cons]
    obtain rfl | hx := List.mem_cons.mp h
    · dsimp only
      omega
    · have := ih hx
      omega

theorem State.find_sumsFrom (s : State) (c : Nat) (op : AccOp) (line : Nat) {ps : List (Nat × List (Nat × Nat))} {i : Nat}
    (hi : i < ps.length) : (s.sumsFrom c op line ps).find? (·.1 == line + i) =
      some (line + i, accLineBytes op (s.liveAdds c (line + i) op ps[i].2) (s.rawLine c (line + i))) := by
  induction ps generalizing line i with
  | nil => exact absurd hi (Nat.not_lt_zero _)
  | cons p ps ih =>
    cases i with
    | zero => simp [State.sumsFrom]
    | succ i =>
      have hne : (line == line + (i + 1)) = false := beq_eq_false_iff_ne.mpr (by omega)
      rw [State.sumsFrom, List.find?_cons]
      simp only [hne]
      rw [show line + (i + 1) = line + 1 + i by omega]
      exact ih (line + 1) (by simpa using hi)

/-- The additions `p` lie at a line of channel c that can be read and of which nothing is buffered. -/
structure State.AddReady (s : State) (c line : Nat) (p : Nat × List (Nat × Nat)) : Prop where
  place : s.locate p.1 = some (c, 64 * line)
  good : s.lineBad c line = false
  known : s.lineKnown c line = true
  unbuffered : ∀ x ∈ (s.channel c).wcb, x.line ≠ line
  within : ∀ x ∈ p.2, x.1 < 64

/-- The next line of an accumulate, after others have come into the adder buffer. -/
theorem State.accStep_new {s t : State} {c g line : Nat} {done : List (Nat × List Byte)} {p : Nat × List (Nat × Nat)}
    (op : AccOp) (hkln : s.kln.protect = []) (howner : s.channelOwner c = some g) (hnone : (s.channel c).adders = [])
    (h : Adding s t c done) (hdone : ∀ x ∈ done, x.1 < line) (hroom : done.length < 128) (hready : s.AddReady c line p) :
    ∃ u, State.accStep (.grove g) op (t, .ok) p = (u, .ok) ∧
      Adding t u c [(line, accLineBytes op (s.liveAdds c line op p.2) (s.rawLine c line))] ∧
      (op ≠ .f32 → (∀ w ∈ t.mem.saturated, w ∈ u.mem.saturated) ∧
        ∀ o ∈ accSats op (s.liveAdds c line op p.2) (s.rawLine c line), wordNo c line o ∈ u.mem.saturated) := by
  obtain ⟨hplace, hgood, hknown, hfree, hwithin⟩ := hready
  have hadders : (t.channel c).adders = done := by rw [h.same, hnone, List.nil_append]
  have hlive : t.liveAdds c line op p.2 = s.liveAdds c line op p.2 := h.liveAdds op hwithin fun x hx heq => by
    have := hdone x hx
    unfold lineNo at heq
    omega
  obtain ⟨u, hacc, hadding, hmarks⟩ := State.accAdd_new (s := t) (c := c) (line := line) (by rw [h.wcb]; exact hfree)
    (by rw [hadders]; exact fun x hx => Nat.ne_of_lt (hdone x hx)) ((h.lineBad c line).trans hgood)
    ((h.lineKnown c line).trans hknown) (by rw [hadders]; exact hroom) p.1 op hwithin
  have hstep : State.accStep (.grove g) op (t, .ok) p = (u, .ok) := by
    have hplaced : t.placeFor (.grove g) p.1 = (.ok, c, 64 * line) := by
      simp [State.placeFor, h.locate, hplace, h.channelOwner, howner]
    have htouch : t.touch p.1 = t := State.touch_of_unprotected (by rw [h.kln]; exact hkln) p.1
    have hline : 64 * line / 64 = line := Nat.mul_div_cancel_left line (by decide)
    unfold State.accStep
    simp only [hplaced, htouch, hline, hacc, if_true]
  rw [hlive, h.rawLine] at hadding hmarks
  exact ⟨u, hstep, hadding, hmarks⟩

/-- An accumulate whose lines are ready puts each into the adder buffer. -/
theorem State.accSteps_new {s : State} {c g : Nat} (op : AccOp) (hkln : s.kln.protect = [])
    (howner : s.channelOwner c = some g) (hnone : (s.channel c).adders = []) (ps : List (Nat × List (Nat × Nat)))
    {t : State} {line : Nat} {done : List (Nat × List Byte)} (h : Adding s t c done) (hdone : ∀ x ∈ done, x.1 < line)
    (hroom : done.length + ps.length ≤ 128) (hready : ∀ i (hi : i < ps.length), s.AddReady c (line + i) ps[i]) :
    ∃ u, ps.foldl (State.accStep (.grove g) op) (t, .ok) = (u, .ok) ∧ Adding t u c (s.sumsFrom c op line ps) ∧
      (op ≠ .f32 → (∀ w ∈ t.mem.saturated, w ∈ u.mem.saturated) ∧ ∀ i (hi : i < ps.length),
        ∀ o ∈ accSats op (s.liveAdds c (line + i) op ps[i].2) (s.rawLine c (line + i)),
          wordNo c (line + i) o ∈ u.mem.saturated) := by
  induction ps generalizing t line done with
  | nil => exact ⟨t, rfl, Adding.refl t c, fun _ => ⟨fun _ hw => hw, fun i hi => absurd hi (Nat.not_lt_zero i)⟩⟩
  | cons p ps ih =>
    rw [List.length_cons] at hroom
    have hfirst : s.AddReady c line p := hready 0 (by simp)
    obtain ⟨u, hstep, hadding, hmarks⟩ := State.accStep_new op hkln howner hnone h hdone (by omega) hfirst
    obtain ⟨v, hrest, hlater, hlast⟩ := ih (line := line + 1) (h.trans hadding)
      (fun x hx => by
        obtain hx | hx := List.mem_append.mp hx
        · exact Nat.lt_succ_of_lt (hdone x hx)
        · rw [List.mem_singleton.mp hx]; exact Nat.lt_succ_self line)
      (by rw [List.length_append, List.length_singleton]; omega)
      (fun i hi => by
        rw [show line + 1 + i = line + (i + 1) by omega]
        exact hready (i + 1) (by simpa using hi))
    refine ⟨v, by rw [List.foldl_cons, hstep, hrest], hadding.trans hlater, fun hop => ?_⟩
    obtain ⟨hkeep, hmark⟩ := hmarks hop
    obtain ⟨hkeeps, hothers⟩ := hlast hop
    refine ⟨fun w hw => hkeeps w (hkeep w hw), fun i hi o ho => ?_⟩
    cases i with
    | zero => exact hkeeps _ (hmark o ho)
    | succ i =>
      rw [show line + (i + 1) = line + 1 + i by omega] at ho ⊢
      exact hothers i (by simpa using hi) o ho

/-- The additions of a well-formed accumulate: one line, or the four of a B8 block, each within its line (R398). -/
theorem accLines_within {a : AccReq} (hwf : a.wf = true) :
    (accLines a.op a.offset a.mask a.values).length = (if a.op = .b8 then 4 else 1) ∧
      ∀ i (hi : i < (accLines a.op a.offset a.mask a.values).length),
        (accLines a.op a.offset a.mask a.values)[i].1 = a.offset / 64 * 64 + 64 * i ∧
          ∀ x ∈ (accLines a.op a.offset a.mask a.values)[i].2, x.1 < 64 := by
  have hwords : ∀ (vs : List Nat) (p : Nat × Nat → Bool) (f : Nat → Nat), vs.length ≤ 16 →
      ∀ x ∈ (vs.zipIdx.filter p).map (fun x => (4 * x.2, f x.1)), x.1 < 64 := fun vs p f hlen x hx => by
    obtain ⟨y, hy, rfl⟩ := List.mem_map.mp hx
    have := List.snd_lt_of_mem_zipIdx (List.mem_of_mem_filter hy)
    dsimp only
    omega
  obtain ⟨unit, origin, op, offset, mask, values, err⟩ := a
  simp only [AccReq.wf, Bool.and_eq_true] at hwf
  obtain ⟨-, hvalues⟩ := hwf
  cases op <;> simp only [Bool.and_eq_true, beq_iff_eq] at hvalues <;> obtain ⟨⟨halign, hlen⟩, -⟩ := hvalues
  case f32 | i32 =>
    refine ⟨rfl, fun i hi => ?_⟩
    obtain rfl : i = 0 := Nat.lt_one_iff.mp hi
    exact ⟨by simp only [accLines, List.getElem_cons_zero]; omega, hwords values _ id (Nat.le_of_eq hlen)⟩
  case b8 =>
    refine ⟨rfl, fun i hi => ?_⟩
    simp only [accLines, List.getElem_map, List.getElem_range]
    exact ⟨by omega, hwords _ (·.1 != 0x80) (fun v => ofSigned 32 (toSigned 8 v)) (List.length_take_le ..)⟩
  case u32 =>
    refine ⟨rfl, fun i hi => ?_⟩
    obtain rfl : i = 0 := Nat.lt_one_iff.mp hi
    refine ⟨rfl, fun x hx => ?_⟩
    obtain ⟨v, -, rfl⟩ := List.mem_map.mp hx
    exact Nat.mod_lt _ (by decide)

/-- A burst without flips changes nothing and answers the line's own data. -/
theorem State.burst_clean {s : State} {c : Nat} {e : BurstErr} (hclean : s.decode c e = .clean) (line : Nat) :
    s.burst c line e = (s, none) := by
  unfold State.burst
  rw [hclean]
  exact ite_self _

/-- The grove that an admitted request acts as holds the channel. -/
theorem State.channelOwner_of_admission {s : State} {unit : MemUnit} {o : Origin} {off g c b : Nat}
    (hadm : s.admission unit o off = .ok (.grove g)) (hloc : s.locate off = some (c, b)) : s.channelOwner c = some g := by
  unfold State.admission at hadm
  rw [hloc] at hadm
  dsimp only at hadm
  split at hadm
  · cases hadm
  · split at hadm
    · split at hadm <;> cases hadm
    · split at hadm
      · cases hadm
      · split at hadm
        next hheld =>
          cases hadm
          exact beq_iff_eq.mp (Bool.and_eq_true_iff.mp hheld).1
        next => cases hadm

/-- An admitted accumulate that need not wait performs its additions; one that finds its lines ends without a fault. -/
theorem State.accRequest_adds {s t : State} {a : AccReq} {g c b : Nat}
    (hadm : s.admission a.unit a.origin a.offset = .ok (.grove g)) (hloc : s.locate a.offset = some (c, b))
    (hgo : s.mustWait (.acc a) a.offset true = false) (hclean : s.decode c a.err = .clean)
    (hadds : s.accumulateBy (.grove g) a.op a.offset a.mask a.values = (t, .ok)) : s.accRequest a = t := by
  have hparty : (Party.grove g == Party.hearth) = false := rfl
  unfold State.accRequest
  simp only [hadm, hparty, hgo, hloc, State.burst_clean hclean, ite_self, Bool.false_eq_true, if_false, hadds]

end Sys2Proof.Machine
end

section
/-! PROOFS. Write-backs of the write-combining buffer, and the patrol (R394, R405; O30). -/
namespace Sys2Proof.Machine

section
variable {s : State} (hrun : s.islandsRun = true)
include hrun

theorem exec_nearMemoryAccumulate (a : AccReq) : exec (.nearMemoryAccumulate a) s = .next (s.accRequest a) :=
  congrArg _ (State.onDie_of_islandsRun hrun _)

theorem exec_wcbAgeEvict (c : Nat) (e : BurstErr) : exec (.wcbAgeEvict c e) s = .next (s.wcbAge c e) :=
  congrArg _ (State.onDie_of_islandsRun hrun _)

theorem exec_patrolScrubRead (c : Nat) (e : BurstErr) : exec (.patrolScrubRead c e) s = .next (s.patrol c e) :=
  congrArg _ (State.onDie_of_islandsRun hrun _)

end

/-- A controller without a write-combining entry of a line. -/
def Channel.dropEntry (line : Nat) (x : Channel) : Channel := { x with wcb := x.wcb.filter (·.line != line) }

/-- The write-back of an entry whose line can be read writes the line as the reader sees it, and counts. -/
theorem State.evictWcb_known {s : State} {c : Nat} {w : WcbEntry} (hbad : s.lineBad c w.line = false)
    (hknown : s.lineKnown c w.line = true) :
    s.evictWcb c w = ((s.modChannel c (Channel.dropEntry w.line)).putLine c w.line
      ((s.rawLine c w.line).zipIdx.map fun p => (tget w.bytes p.2).getD p.1)).bump .MEM_WCB_RMW (chIx c) := by
  obtain ⟨u, hu⟩ : ∃ u, u = s.modChannel c (Channel.dropEntry w.line) := ⟨_, rfl⟩
  have hubad : u.lineBad c w.line = false := hu ▸ hbad
  have huknown : u.lineKnown c w.line = true := by
    have hpos : (u.channel c).scrubPos = (s.channel c).scrubPos := by rw [hu, State.channel_modChannel_same]; rfl
    rw [← hknown, State.lineKnown, hpos, hu]
    rfl
  have huraw : u.rawLine c w.line = s.rawLine c w.line :=
    List.map_congr_left fun i _ => hu ▸ s.rawByte_modChannel c (Channel.dropEntry w.line) (fun _ => rfl) c _
  have hevict : s.evictWcb c w = if u.lineBad c w.line then (u.noteUe c w.line).ueRecord .contained c w.line
      else if u.lineKnown c w.line then (u.putLine c w.line ((u.mergeBase c w.line).zipIdx.map fun p =>
        (tget w.bytes p.2).getD p.1)).bump .MEM_WCB_RMW (chIx c)
      else u.putLine c w.line ((u.mergeBase c w.line).zipIdx.map fun p => (tget w.bytes p.2).getD p.1) := by
    rw [hu]; rfl
  rw [hevict, State.mergeBase, hubad, huknown, if_neg (by decide), if_pos rfl, if_pos rfl, huraw, hu]

/-- What the stack holds depends on memory and the bindings only. -/
theorem State.rawByte_congr {s t : State} (hmem : t.mem = s.mem) (hgrv : t.grv = s.grv) (c x : Nat) :
    t.rawByte c x = s.rawByte c x := by
  have hknown : t.lineKnown c (x / 64) = s.lineKnown c (x / 64) := by
    rw [State.lineKnown, State.channel, hmem, State.lineKnown, State.channel]
  rw [State.rawByte, State.keyEpoch, hknown, hmem, hgrv, State.rawByte, State.keyEpoch]

/-- A controller whose patrol has read a line: the end of a period clears the suspects (R405, R408). -/
def Channel.movePatrol (line : Nat) (x : Channel) : Channel :=
  { x with patrolPos := (line + 1) % 2 ^ 25, suspects := if line + 1 = 2 ^ 25 then [] else x.suspects }

/-- The patrol of a channel of a grove, without a repair or a retrain, reads its line and moves on (R405). -/
theorem State.patrol_reads {s : State} {c : Nat} {e : BurstErr} (hpresent : (s.channel c).absent = false)
    (htrained : (s.channel c).retraining = false) (hrepair : tget s.mem.repairs c = none)
    (howned : (s.channelOwner c).isSome = true) (hclean : s.decode c e = .clean)
    (hbad : s.lineBad c (s.channel c).patrolPos = false) :
    s.patrol c e = s.modChannel c (Channel.movePatrol (s.channel c).patrolPos) := by
  unfold State.patrol
  simp only [hpresent, htrained, hrepair, howned, State.burst_clean hclean, hbad, Bool.or_true, Bool.or_self, Bool.not_true,
    Bool.false_and, Bool.false_eq_true, if_false]
  rfl

/-- Settles O30: an accumulate puts each of its lines into the adder buffer (`accSteps_new`), a write-back writes what
the reader sees, and the patrol moves on. -/
theorem addersAndPatrol : Obligations.AddersAndPatrol := by
  unfold Obligations.AddersAndPatrol
  intro s a g c b w rest e hrun hmem
  refine ⟨?adds, fun x y _ _ => toSigned_satI32 x y, accElem_u32, fun hwcb hbad hknown hclean hnone hline => ?writeBack,
    fun hpresent htrained hrepair howned hclean hbad => ?patrol⟩
  case adds =>
    rintro n line rfl hadm hloc rfl hwf hgo hlines hnone hclean hprotect
    obtain ⟨hlen, hwithin⟩ := accLines_within hwf
    obtain ⟨ps, hps⟩ : ∃ ps, ps = accLines a.op a.offset a.mask a.values := ⟨_, rfl⟩
    rw [← hps] at hlen hwithin ⊢
    have hready : ∀ i (hi : i < ps.length), s.AddReady c (b / 64 + i) ps[i] := fun i hi => by
      obtain ⟨hplace, hgood, hknown, hfree⟩ := hlines i (hlen ▸ hi)
      obtain ⟨hat, hpos⟩ := hwithin i hi
      exact ⟨hat ▸ hplace, hgood, hknown, hfree, hpos⟩
    obtain ⟨t, hsteps, hadding, hmarks⟩ := State.accSteps_new a.op hprotect (State.channelOwner_of_admission hadm hloc)
      hnone ps (Adding.refl s c) (fun x hx => absurd hx List.not_mem_nil) (by rw [hlen]; split <;> decide) hready
    have hadds : s.accumulateBy (.grove g) a.op a.offset a.mask a.values = (t, .ok) := by
      rw [State.accumulateBy_eq, ← hps, hsteps]
    refine ⟨t, (exec_nearMemoryAccumulate hrun a).trans
      (congrArg _ (State.accRequest_adds hadm hloc hgo hclean hadds)), fun l adds hl hadd => ?_, fun d l hout => ?_,
      by rw [hadding.mem]⟩
    · have hi : l < ps.length := hlen ▸ hl
      have hview : s.viewLine c (b / 64 + l) = s.rawLine c (b / 64 + l) := by
        have hfree : (s.channel c).wcb.find? (·.line == b / 64 + l) = none :=
          List.find?_eq_none.mpr fun x hx => by simpa using (hready l hi).unbuffered x hx
        rw [State.viewLine, hnone, hfree]
        rfl
      rw [List.getD_eq_getElem _ _ hi] at hadd
      rw [hview, hadd]
      exact ⟨hadding.viewLine_sum hnone (s.find_sumsFrom c a.op (b / 64) hi), fun hop => (hmarks hop).2 l hi⟩
    · refine hadding.viewLine_other fun hd x hx => ?_
      have := State.mem_sumsFrom hx
      rw [← hlen] at hout
      omega
  case writeBack =>
    have hfind : (s.channel c).wcb.find? (·.line == w.line) = some w := by simp [hwcb]
    have hage : s.wcbAge c e = s.evictWcb c w := by
      simp only [State.wcbAge, hwcb, State.burst_clean hclean, ite_self]
    rw [State.evictWcb_known hbad hknown] at hage
    refine ⟨_, (exec_wcbAgeEvict hrun c e).trans (congrArg _ hage), ?_, fun x hx => ?_, by simp⟩
    · have hchan := State.channel_modChannel_same s c (Channel.dropEntry w.line)
      rw [State.channel, State.bump_mem]
      exact congrArg Channel.wcb hchan
    · have hlen : ((s.rawLine c w.line).zipIdx.map fun p => (tget w.bytes p.2).getD p.1).length = 64 := by
        simp [State.length_rawLine]
      have hput := State.rawByte_putLine_same (s := s.modChannel c (Channel.dropEntry w.line)) (c := c) (line := w.line)
        (State.cells_of_memWf (s := s) hmem) hlen hx
      rw [State.rawByte_congr (State.bump_mem ..) (State.bump_grv ..), hput]
      simp only [State.viewByte, State.viewLine, hnone, List.find?_nil, show (64 * w.line + x) / 64 = w.line by omega,
        show (64 * w.line + x) % 64 = x by omega, hfind]
  case patrol =>
    have hreads := State.patrol_reads hpresent htrained hrepair howned hclean hbad
    have hchan := State.channel_modChannel_same s c (Channel.movePatrol (s.channel c).patrolPos)
    refine ⟨_, (exec_patrolScrubRead hrun c e).trans (congrArg _ hreads), ?_, rfl, rfl, rfl, rfl⟩
    rw [hchan, Channel.movePatrol]

end Sys2Proof.Machine
end

section
/-! PROOFS. How an operation's register says that it ended, and the operations of MEM_REPAIR_CMD (R407, R409, R414, R423,
R424). -/
namespace Sys2Proof.Machine

/-! ## Fields of a register -/

section
variable (s : State) (r : Reg) (ix : List Nat)

theorem State.regFld_putFld_same {lo w : Nat} (x : Nat) (hw : lo + w ≤ 64) :
    (s.putFld r ix lo w x).regFld r ix lo w = x % 2 ^ w := by
  rw [State.regFld, State.putFld, State.getReg_putReg_same, wfld_setFld_same hw]

theorem State.regFld_putFld_above {lo w k : Nat} (x n : Nat) (hw : lo + w ≤ 64) (h : lo + w ≤ k) :
    (s.putFld r ix lo w x).regFld r ix k n = s.regFld r ix k n := by
  rw [State.regFld, State.putFld, State.getReg_putReg_same, wfld_setFld_above hw h, State.regFld]

theorem State.regFld_putFld_below {lo w k n : Nat} (x : Nat) (hw : lo + w ≤ 64) (h : k + n ≤ lo) :
    (s.putFld r ix lo w x).regFld r ix k n = s.regFld r ix k n := by
  rw [State.regFld, State.putFld, State.getReg_putReg_same, wfld_setFld_below hw h, State.regFld]

theorem State.lastRecord_putFld {lo w x : Nat} (h : regAddr .WCH_LOG_HEAD [] ≠ regAddr r ix) :
    (s.putFld r ix lo w x).lastRecord = s.lastRecord := by
  rw [State.lastRecord, State.regFld, State.putFld, State.getReg_putReg_other _ _ h, State.lastRecord, State.regFld]
  rfl

/-! ## The end of an operation (R422, R424) -/

/-- The register of an operation says that it ended, and how: result in [15:8], done in bit 1, busy in bit 0. -/
def State.endOp (result : Nat) : State := ((s.putFld r ix 8 8 result).putFld r ix 1 1 1).putFld r ix 0 1 0

theorem State.endOp_result (result : Nat) : (s.endOp r ix result).regFld r ix 8 8 = result % 2 ^ 8 := by
  rw [State.endOp, State.regFld_putFld_above _ _ _ _ _ (by omega) (by omega),
    State.regFld_putFld_above _ _ _ _ _ (by omega) (by omega), State.regFld_putFld_same _ _ _ _ (by omega)]

theorem State.endOp_done (result : Nat) : (s.endOp r ix result).regFld r ix 1 1 = 1 := by
  rw [State.endOp, State.regFld_putFld_above _ _ _ _ _ (by omega) (by omega),
    State.regFld_putFld_same _ _ _ _ (by omega), Nat.mod_eq_of_lt (by decide)]

theorem State.endOp_idle (result : Nat) : (s.endOp r ix result).regFld r ix 0 1 = 0 := by
  rw [State.endOp, State.regFld_putFld_same _ _ _ _ (by omega), Nat.zero_mod]

theorem State.endOp_above (result : Nat) {k : Nat} (n : Nat) (h : 16 ≤ k) :
    (s.endOp r ix result).regFld r ix k n = s.regFld r ix k n := by
  rw [State.endOp, State.regFld_putFld_above _ _ _ _ _ (by omega) (by omega),
    State.regFld_putFld_above _ _ _ _ _ (by omega) (by omega), State.regFld_putFld_above _ _ _ _ _ (by omega) (by omega)]

theorem State.lastRecord_endOp (result : Nat) (h : regAddr .WCH_LOG_HEAD [] ≠ regAddr r ix) :
    (s.endOp r ix result).lastRecord = s.lastRecord := by
  rw [State.endOp, State.lastRecord_putFld _ _ _ h, State.lastRecord_putFld _ _ _ h, State.lastRecord_putFld _ _ _ h]

end

theorem State.repairResult_eq (s : State) (die result : Nat) :
    s.repairResult die result = s.endOp .MEM_REPAIR_STATUS [die] result := rfl

theorem State.mapoutResult_eq (s : State) (die result : Nat) :
    s.mapoutResult die result = s.endOp .MEM_MAPOUT_STATUS [die] result := rfl

/-! ## A software write leaves the channels -/

section
variable (s : State) (r : Reg) (ix : List Nat) (v : Word) (c : Nat)

theorem State.channel_softWrite : (s.softWrite r ix v).channel c = s.channel c := (rfl)
theorem State.physOf_softWrite : (s.softWrite r ix v).physOf c = s.physOf c := (rfl)
theorem State.phys_softWrite (p : Nat) : (s.softWrite r ix v).phys p = s.phys p := (rfl)
theorem State.channelFree_softWrite : (s.softWrite r ix v).channelFree c = s.channelFree c := (rfl)

end

/-! ## The operations -/

/-- The write of MEM_REPAIR_CMD that starts an operation. -/
def State.repairTaken (s : State) (die : Nat) (v : Word) : State := s.softWrite .MEM_REPAIR_CMD [die] v

section
variable {s : State} {die : Nat} {v : Word} (hidle : s.regFld .MEM_REPAIR_STATUS [die] 0 1 = 0)
  (hgo : v.getLsbD 63 = true) (hdie : wfld v 47 9 / 240 = die)
include hidle hgo hdie

theorem State.repairCmd_taken (f : State → State) : s.repairCmd die v f = f (s.repairTaken die v) := by
  have hbusy : ¬s.regFld .MEM_REPAIR_STATUS [die] 0 1 = 1 := by omega
  rw [State.repairCmd, if_neg hbusy]
  simp only [hgo, hdie, Bool.not_true, Bool.false_eq_true, if_false, ne_eq, not_true_eq_false]
  rfl

theorem State.mrRead_ends : s.mrRead die v = ((s.repairTaken die v).putFld .MEM_REPAIR_STATUS [die] 16 8
    (tgetD s.mem.modeRegs (256 * (wfld v 47 9 / 40) + wfld v 8 8) 0)).endOp .MEM_REPAIR_STATUS [die] 0 :=
  State.repairCmd_taken hidle hgo hdie _

/-- A mode register is written in kindling or on a free channel, and on no other. -/
theorem State.mrWrite_ends : s.mrWrite die v =
    if s.sup.phase == .kindling || s.channelFree (wfld v 47 9) then
      State.endOp { s.repairTaken die v with mem := { s.mem with
        modeRegs := tset s.mem.modeRegs (256 * (wfld v 47 9 / 40) + wfld v 8 8) (wfld v 0 8) } }
        .MEM_REPAIR_STATUS [die] 0
    else (s.repairTaken die v).endOp .MEM_REPAIR_STATUS [die] 2 :=
  State.repairCmd_taken hidle hgo hdie _

theorem State.softRepair_starts (hpresent : (s.channel (wfld v 47 9)).absent = false)
    (hnone : tget s.mem.repairs (wfld v 47 9) = none)
    (hfree : softFree (s.phys (s.physOf (wfld v 47 9))) (wfld v 43 4) = true) :
    s.softRepair die v = ((s.repairTaken die v).startSoft (wfld v 47 9) (wfld v 43 4) (wfld v 27 16) true).putFld
      .MEM_REPAIR_STATUS [die] 0 1 1 := by
  refine (State.repairCmd_taken hidle hgo hdie _).trans ?_
  simp only [State.repairTaken, State.channel_softWrite, State.phys_softWrite, State.physOf_softWrite,
    State.softWrite_mem, hpresent, hnone, hfree, Bool.not_true, Bool.false_eq_true, if_false, Option.isSome_none]

theorem State.hardRepair_starts (hpresent : (s.channel (wfld v 47 9)).absent = false)
    (hnone : tget s.mem.repairs (wfld v 47 9) = none)
    (hfree : hardFree (s.phys (s.physOf (wfld v 47 9))) (wfld v 43 4) = true)
    (hunused : s.channelFree (wfld v 47 9) = true) :
    s.hardRepair die v = State.putFld { s.repairTaken die v with mem := { s.mem with
      repairs := tset s.mem.repairs (wfld v 47 9) ⟨3, wfld v 43 4, wfld v 27 16, true⟩ } }
      .MEM_REPAIR_STATUS [die] 0 1 1 := by
  refine (State.repairCmd_taken hidle hgo hdie _).trans ?_
  simp only [State.repairTaken, State.channel_softWrite, State.phys_softWrite, State.physOf_softWrite,
    State.channelFree_softWrite, State.softWrite_mem, hpresent, hnone, hfree, hunused, Bool.or_true, Bool.not_true,
    Bool.or_self, Bool.false_eq_true, if_false, Option.isSome_none]

/-- The rows left of a present channel. -/
theorem State.queryRepair_ends (hpresent : (s.channel (wfld v 47 9)).absent = false) :
    s.queryRepair die v = (((s.repairTaken die v).putFld .MEM_REPAIR_STATUS [die] 48 16
      (0xFFFF - (s.phys (s.physOf (wfld v 47 9))).softUsed % 2 ^ 16)).putFld .MEM_REPAIR_STATUS [die] 32 16
      (0xFFFF - (s.phys (s.physOf (wfld v 47 9))).hardUsed % 2 ^ 16)).endOp .MEM_REPAIR_STATUS [die] 0 := by
  refine (State.repairCmd_taken hidle hgo hdie _).trans ?_
  simp only [State.repairTaken, State.channel_softWrite, State.phys_softWrite, State.physOf_softWrite, hpresent,
    Bool.false_eq_true, if_false]
  rfl

end

end Sys2Proof.Machine
end

section
/-! PROOFS. The outcome of a repair (R407, R409, R414). -/
namespace Sys2Proof.Machine

/-- No register of the log is one of the controllers' (R38). -/
theorem log_lt_regAddr {r : Reg} (h : r = .MEM_REPAIR_STATUS ∨ r = .MEM_MAPOUT_STATUS ∨ r = .MEM_CHMAP_SET)
    (ix : List Nat) : 0x30400 < regAddr r ix := by
  have hbase : 0x30400 < (regDesc r).base := by
    obtain rfl | rfl | rfl := h <;> decide
  exact Nat.lt_of_lt_of_le hbase (Nat.le_add_right _ _)

theorem logHead_ne_regAddr {r : Reg} (h : r = .MEM_REPAIR_STATUS ∨ r = .MEM_MAPOUT_STATUS ∨ r = .MEM_CHMAP_SET)
    (ix : List Nat) : regAddr .WCH_LOG_HEAD [] ≠ regAddr r ix := by
  have hhead : regAddr .WCH_LOG_HEAD [] = 0x30000 := by decide
  have := log_lt_regAddr h ix
  omega

/-! ## Rows -/

/-- A physical channel whose bank has used its soft row. -/
def PhysChannel.useSoft (bank : Nat) (x : PhysChannel) : PhysChannel := { x with softUsed := x.softUsed ||| 2 ^ bank }

/-- A physical channel whose bank has used its hard row. -/
def PhysChannel.useHard (bank : Nat) (x : PhysChannel) : PhysChannel := { x with hardUsed := x.hardUsed ||| 2 ^ bank }

theorem PhysChannel.softFree_useSoft (x : PhysChannel) (bank : Nat) : softFree (x.useSoft bank) bank = false := by
  simp [softFree, PhysChannel.useSoft]

theorem PhysChannel.hardFree_useHard (x : PhysChannel) (bank : Nat) : hardFree (x.useHard bank) bank = false := by
  simp [hardFree, PhysChannel.useHard]

theorem State.phys_modPhys_same (s : State) (p : Nat) (f : PhysChannel → PhysChannel) :
    (s.modPhys p f).phys p = f (s.phys p) := tgetD_tmod_same ..

/-- The physical channels are memory's. -/
theorem State.phys_congr {s t : State} (h : t.mem.phys = s.mem.phys) (p : Nat) : t.phys p = s.phys p := by
  rw [State.phys, h, State.phys]

/-- A controller that no longer suspects a row. -/
def Channel.clearRow (bank row : Nat) (x : Channel) : Channel :=
  { x with suspects := x.suspects.filter fun y => !(y.bank == bank && y.row == row) }

/-- The state in which a channel's repair no longer holds its bank. -/
def State.repairReleased (s : State) (c : Nat) : State :=
  { s with mem := { s.mem with repairs := terase s.mem.repairs c } }

theorem State.tget_repairReleased (s : State) (c : Nat) : tget (s.repairReleased c).mem.repairs c = none :=
  tget_terase_same ..

/-! ## A soft repair -/

/-- What the outcome of a soft repair changes in the controllers: a success uses the bank's row. -/
def State.softApplied (s : State) (c bank row : Nat) (success : Bool) : State :=
  if success then (s.modPhys (s.physOf c) (PhysChannel.useSoft bank)).modChannel c (Channel.clearRow bank row) else s

/-- The record of a repair's outcome. -/
def State.repairRecord (s : State) (c bank row : Nat) (success : Bool) : State :=
  s.record .mem (if success then .corrected else .contained) (dieOfChannel c) (if success then 0x07 else 0x08)
    (s.channelOwner c) (memDetail c (64 * lineAt bank row 0))

section
variable (s : State) (c bank row : Nat) (success : Bool)

theorem State.repairs_softApplied : (s.softApplied c bank row success).mem.repairs = s.mem.repairs := by
  cases success <;> rfl

theorem State.cells_softApplied : (s.softApplied c bank row success).mem.cells = s.mem.cells := by
  cases success <;> rfl

theorem State.held_softApplied : (s.softApplied c bank row success).mem.held = s.mem.held := by
  cases success <;> rfl

theorem State.logRoom_softApplied : (s.softApplied c bank row success).logRoom = s.logRoom := by
  cases success <;> rfl

theorem State.softFree_softApplied : softFree ((s.softApplied c bank row success).phys (s.physOf c)) bank =
    (softFree (s.phys (s.physOf c)) bank && !success) := by
  cases success with
  | false => exact (Bool.and_true _).symm
  | true =>
    have hphys : (s.softApplied c bank row true).phys (s.physOf c) = (s.phys (s.physOf c)).useSoft bank :=
      s.phys_modPhys_same _ _
    rw [hphys, PhysChannel.softFree_useSoft, Bool.not_true, Bool.and_false]

end

/-- The lines of a row under repair that read uncorrectable are counted. -/
def State.rowNoted (s : State) (c bank row : Nat) : State :=
  s.each ((List.range 32).map (lineAt bank row)) fun s l => if s.lineBad c l then s.noteUe c l else s

theorem State.rowNoted_of_good {s : State} (h : s.mem.bad = []) (c bank row : Nat) : s.rowNoted c bank row = s := by
  refine State.each_keeps (P := fun t => t = s) (fun b l hb => ?_) _ rfl
  rw [hb, State.lineBad, h, List.contains_nil, if_neg (by decide)]

/-- A soft repair by command whose row reads without an uncorrectable line ends with its outcome. -/
theorem State.softResult_ends {s : State} {c bank row : Nat} (success : Bool)
    (hrepair : tget s.mem.repairs c = some ⟨2, bank, row, true⟩) (hheld : s.mem.held = []) (hgood : s.mem.bad = []) :
    s.softResult c success [] =
      (((s.repairReleased c).softApplied c bank row success).repairRecord c bank row success).endOp
        .MEM_REPAIR_STATUS [dieOfChannel c] (if success then 0 else 4) := by
  have hresult : s.softResult c success [] =
      (((((s.rowNoted c bank row).repairReleased c).softApplied c bank row success).repairRecord c bank row success).endOp
        .MEM_REPAIR_STATUS [dieOfChannel c] (if success then 0 else 4)).memRetry := by
    unfold State.softResult
    rw [hrepair]
    refine (if_neg (fun h => h rfl)).trans ?_
    extract_lets read noted mem released detail used cleared counted outcome
    have hnoted : noted = s.rowNoted c bank row := rfl
    have hreleased : released = noted.repairReleased c := rfl
    have hcounted : counted = cleared := if_pos rfl
    have houtcome : outcome = (released.softApplied c bank row success).repairRecord c bank row success := by
      cases success
      · exact if_neg (by decide)
      · exact (if_pos rfl).trans (by rw [hcounted]; rfl)
    clear_value outcome released noted
    rw [if_pos rfl, houtcome, hreleased, hnoted, State.repairResult_eq]
  rw [hresult, State.rowNoted_of_good hgood, State.memRetry_of_none]
  simp only [State.endOp, State.putFld_mem, State.repairRecord, State.record_mem, State.held_softApplied]
  exact hheld

/-! ## A hard repair -/

/-- The known lines of a row that a hard repair has replaced hold values the spec does not give (R409). -/
def State.rowReplaced (s : State) (c bank row : Nat) : State :=
  s.each (((List.range 32).map (lineAt bank row)).filter (s.lineKnown c)) fun s l =>
    (s.fresh.2.putLine c l ((List.range 64).map (Config.freeByte s.fresh.1))).unsaturate fun w => w / 16 == lineNo c l

/-- What the outcome of a hard repair changes in the controllers and the log. -/
def State.hardApplied (s : State) (c bank row : Nat) (success : Bool) : State :=
  if success then s.modPhys (s.physOf c) (PhysChannel.useHard bank)
  else s.record .mem .contained (dieOfChannel c) 0x08 (s.channelOwner c) (memDetail c (64 * lineAt bank row 0))

/-- The replacement of a row's lines leaves the repairs, the physical channels, the requests held and the map. -/
theorem State.rowReplaced_keeps (s : State) (c bank row : Nat) :
    (s.rowReplaced c bank row).mem = { s.mem with
      cells := (s.rowReplaced c bank row).mem.cells, written := (s.rowReplaced c bank row).mem.written
      bad := (s.rowReplaced c bank row).mem.bad, saturated := (s.rowReplaced c bank row).mem.saturated } := by
  refine State.each_keeps (P := fun t => t.mem = { s.mem with
    cells := t.mem.cells, written := t.mem.written, bad := t.mem.bad, saturated := t.mem.saturated }) (fun b l hb => ?_) _ rfl
  simp only [State.unsaturate, State.putLine, State.fresh]
  rw [hb]

theorem State.hardFree_hardApplied (s : State) (c bank row : Nat) (success : Bool) :
    hardFree ((s.hardApplied c bank row success).phys (s.physOf c)) bank =
      (hardFree (s.phys (s.physOf c)) bank && !success) := by
  cases success with
  | false =>
    have hmem : (s.hardApplied c bank row false).mem = s.mem := by simp [State.hardApplied]
    rw [State.phys_congr (congrArg MemState.phys hmem), Bool.not_false, Bool.and_true]
  | true =>
    have hphys : (s.hardApplied c bank row true).phys (s.physOf c) = (s.phys (s.physOf c)).useHard bank :=
      s.phys_modPhys_same _ _
    rw [hphys, PhysChannel.hardFree_useHard, Bool.not_true, Bool.and_false]

theorem State.hardApplied_keeps (s : State) (c bank row : Nat) (success : Bool) :
    (s.hardApplied c bank row success).mem = { s.mem with phys := (s.hardApplied c bank row success).mem.phys } := by
  cases success with
  | false =>
    have hmem : (s.hardApplied c bank row false).mem = s.mem := by simp [State.hardApplied]
    rw [hmem]
  | true => rfl

theorem State.hardDone_ends {s : State} {c bank row : Nat} (success : Bool)
    (hrepair : tget s.mem.repairs c = some ⟨3, bank, row, true⟩) (hheld : s.mem.held = []) :
    s.hardDone c success = (((s.repairReleased c).rowReplaced c bank row).hardApplied c bank row success).endOp
        .MEM_REPAIR_STATUS [dieOfChannel c] (if success then 0 else 4) := by
  have hdone : s.hardDone c success =
      ((((s.repairReleased c).rowReplaced c bank row).hardApplied c bank row success).endOp
        .MEM_REPAIR_STATUS [dieOfChannel c] (if success then 0 else 4)).memRetry := by
    unfold State.hardDone
    rw [hrepair]
    refine (if_neg (fun h => h rfl)).trans ?_
    extract_lets mem released replaced outcome
    have hreplaced : replaced = (s.repairReleased c).rowReplaced c bank row := rfl
    have houtcome : outcome = replaced.hardApplied c bank row success := rfl
    clear_value outcome replaced
    rw [houtcome, hreplaced, State.repairResult_eq]
  rw [hdone, State.memRetry_of_none]
  simp only [State.endOp, State.putFld_mem]
  rw [State.hardApplied_keeps, State.rowReplaced_keeps]
  exact hheld

end Sys2Proof.Machine
end

section
/-! PROOFS. Map-outs and MEM_CHMAP_SET (R410, R412, R421, R422), and the operations on rows and channels (O31). -/
namespace Sys2Proof.Machine

/-! ## A map-out starts (R410, R421) -/

/-- The write of MEM_MAPOUT that starts a map-out. -/
def State.mapoutTaken (s : State) (die : Nat) (v : Word) : State :=
  (s.softWrite .MEM_MAPOUT [die] v).putReg .MEM_MAPOUT_STATUS [die]
    ((s.softWrite .MEM_MAPOUT [die] v).getReg .MEM_MAPOUT_STATUS [die] &&& BitVec.ofNat 64 2)

/-- A map-out of a present channel of the die to another, free one starts, with neither under repair and no field test. -/
theorem State.mapoutGo_starts {s : State} {die : Nat} {v : Word} (hgo : v.getLsbD 63 = true)
    (hnone : tget s.mem.mapouts die = none) (hsource : wfld v 0 9 / 240 = die) (hspare : wfld v 16 9 / 240 = die)
    (hne : wfld v 0 9 ≠ wfld v 16 9) (hpresent : (s.channel (wfld v 0 9)).absent = false)
    (hfree : s.channelFree (wfld v 16 9) = true) (hsourceIdle : tget s.mem.repairs (wfld v 0 9) = none)
    (hspareIdle : tget s.mem.repairs (wfld v 16 9) = none) (htests : s.wch.tests = []) :
    s.mapoutGo die v = State.putFld { s.mapoutTaken die v with mem := { s.mem with
      mapouts := tset s.mem.mapouts die ⟨wfld v 0 9, wfld v 16 9⟩ } } .MEM_MAPOUT_STATUS [die] 0 1 1 := by
  unfold State.mapoutGo
  rw [hnone, if_neg (by decide)]
  extract_lets written source spare taken busy
  have hgoBit : (!v.getLsbD 63) = false := by rw [hgo]; rfl
  have hbusy : busy = false := by
    have hmem : taken.mem = s.mem := rfl
    have hwch : taken.wch = s.wch := rfl
    simp only [busy, hmem, hwch, hsourceIdle, hspareIdle, htests, source, spare]
    rfl
  have hsourceOk : (decide (source / 240 ≠ die) || (taken.channel source).absent) = false :=
    Bool.or_eq_false_iff.2 ⟨decide_eq_false (not_not.2 hsource), hpresent⟩
  have hspareOk : (decide (spare / 240 ≠ die) || decide (spare = source) || !taken.channelFree spare) = false :=
    Bool.or_eq_false_iff.2 ⟨Bool.or_eq_false_iff.2 ⟨decide_eq_false (not_not.2 hspare), decide_eq_false (Ne.symm hne)⟩,
      congrArg (!·) hfree⟩
  rw [hgoBit, if_neg Bool.false_ne_true, hsourceOk, if_neg Bool.false_ne_true, hspareOk, if_neg Bool.false_ne_true,
    hbusy, if_neg Bool.false_ne_true]
  rfl

/-! ## A map-out ends (R410, R422) -/

/-- The state in which a die's map-out is over. -/
def State.mapoutReleased (s : State) (die : Nat) : State :=
  { s with mem := { s.mem with mapouts := terase s.mem.mapouts die } }

/-- A physical channel that a map-out retired. -/
def PhysChannel.retire (x : PhysChannel) : PhysChannel := { x with retired := true }

/-- A logical channel that another physical channel serves. -/
def Channel.servedBy (p : Nat) (x : Channel) : Channel := { x with physical := some p }

/-- A logical channel that no physical channel serves. -/
def Channel.mapOff (x : Channel) : Channel := { x with absent := true, physical := none }

/-- The map switched: the spare's physical channel serves the source, the spare is absent, the old one retired. -/
def State.mapSwitched (s : State) (source spare : Nat) : State :=
  ((s.modPhys (s.physOf source) PhysChannel.retire).modChannel source
    (Channel.servedBy (s.physOf spare))).modChannel spare Channel.mapOff

theorem State.switchMap_unbuffered {s : State} {m : MapOut} (hwcb : (s.channel m.source).wcb = [])
    (hadders : (s.channel m.source).adders = []) : s.switchMap m = s.mapSwitched m.source m.spare := by
  have hflush : s.flushChannel m.source = s := by
    unfold State.flushChannel
    rw [hwcb]
    exact (congrArg (List.foldl _ s) hadders).trans rfl
  unfold State.switchMap
  rw [hflush]
  rfl

section
variable (s : State) {source spare : Nat} (hne : source ≠ spare)
include hne

theorem State.channel_mapSwitched_source :
    (s.mapSwitched source spare).channel source = (s.channel source).servedBy (s.physOf spare) := by
  rw [State.mapSwitched, State.channel_modChannel_other _ _ hne, State.channel_modChannel_same]
  rfl

theorem State.physOf_mapSwitched_source : (s.mapSwitched source spare).physOf source = s.physOf spare := by
  rw [State.physOf, State.channel_mapSwitched_source s hne]
  rfl

omit hne in
theorem State.absent_mapSwitched_spare : ((s.mapSwitched source spare).channel spare).absent = true := by
  rw [State.mapSwitched, State.channel_modChannel_same]
  rfl

omit hne in
theorem State.phys_mapSwitched_old : ((s.mapSwitched source spare).phys (s.physOf source)).retired = true :=
  congrArg PhysChannel.retired (s.phys_modPhys_same (s.physOf source) PhysChannel.retire)

omit hne in
theorem State.rawByte_mapSwitched (c x : Nat) : (s.mapSwitched source spare).rawByte c x = s.rawByte c x := by
  rw [State.mapSwitched, State.rawByte_modChannel _ _ Channel.mapOff fun _ => rfl,
    State.rawByte_modChannel _ _ (Channel.servedBy _) fun _ => rfl]
  rfl

end

/-- Where nothing is buffered a reader sees the stack's bytes. -/
theorem State.viewByte_of_unbuffered {s : State} {c : Nat} (hwcb : (s.channel c).wcb = [])
    (hadders : (s.channel c).adders = []) (x : Nat) : s.viewByte c x = s.rawByte c x := by
  rw [State.viewByte_of_noAdders hadders, hwcb, List.find?_nil, Option.bind_none, Option.getD_none]

/-- MEM_MAPOUT_STATUS with the counts of a copy that met no uncorrectable line. -/
def State.mapoutCounted (s : State) (die : Nat) : State :=
  (s.putFld .MEM_MAPOUT_STATUS [die] 24 24 0).putFld .MEM_MAPOUT_STATUS [die] 16 8 0xFF

/-- MEM_MAPOUT_STATUS after such a copy. -/
def State.mapoutReported (s : State) (die : Nat) : State := (s.mapoutCounted die).endOp .MEM_MAPOUT_STATUS [die] 0

/-- The copy of a source of which nothing is buffered, without an uncorrectable line, ends in the switch of the map. -/
theorem State.mapoutDone_switches {s : State} {die source spare : Nat}
    (hmapout : tget s.mem.mapouts die = some ⟨source, spare⟩) (hgood : s.mem.bad = [])
    (hwcb : (s.channel source).wcb = []) (hadders : (s.channel source).adders = []) :
    ∃ owner, s.mapoutDone die [] = (((s.mapoutReleased die).mapSwitched source spare).mapoutReported die).record .mem
      .contained die 0x09 owner (memDetail source 0) := by
  refine ⟨(((s.mapoutReleased die).mapSwitched source spare).mapoutCounted die).channelOwner source, ?_⟩
  unfold State.mapoutDone
  split
  · next hnone => exact absurd (hnone.symm.trans hmapout) (by simp)
  next m hm =>
  obtain rfl : (⟨source, spare⟩ : MapOut) = m := Option.some.inj (hmapout.symm.trans hm)
  extract_lets read raw counted mem released switched reported
  have hraw : raw = 0 := congrArg (fun l : List Nat => (l.filter fun x => x / 2 ^ 25 == source).length) hgood
  have hcounted : counted = s := if_pos hraw
  have hreleased : released = s.mapoutReleased die := by
    simp only [released, mem, hcounted]
    rfl
  have hswitched : switched = (s.mapoutReleased die).mapSwitched source spare := by
    simp only [switched, hreleased]
    exact State.switchMap_unbuffered (s := s.mapoutReleased die) hwcb hadders
  have hreported : reported = ((s.mapoutReleased die).mapSwitched source spare).mapoutCounted die := by
    simp only [reported, hraw, hswitched, Nat.zero_min]
    rfl
  rw [hreported]
  rfl

/-! ## MEM_CHMAP_SET (R412) -/

/-- A logical channel mapped to a physical one. -/
def Channel.mapTo (c p : Nat) (x : Channel) : Channel :=
  { x with absent := false, physical := if p = c then none else some p }

theorem State.chmapSet_maps {s : State} {v : Word} {die : Nat} (hphase : s.sup.phase = .kindling)
    (hunbound : s.boundGroves = []) (hunused : s.hearthRegionUsed = false) (hsource : wfld v 0 9 / 240 = die)
    (hspare : wfld v 16 9 / 240 = die) (hmap : v.getLsbD 31 = false) :
    s.chmapSet die v = s.modChannel (wfld v 0 9) (Channel.mapTo (wfld v 0 9) (wfld v 16 9)) := by
  unfold State.chmapSet
  rw [if_pos (by simp [hphase, hunbound, hunused, hsource, hspare])]
  simp only [hmap, Bool.false_eq_true, if_false]
  rfl

theorem State.chmapSet_refuses {s : State} {v : Word} {die : Nat}
    (hlate : s.sup.phase ≠ .kindling ∨ s.boundGroves ≠ [] ∨ s.hearthRegionUsed = true) :
    s.chmapSet die v = s.refuseWrite .MEM_CHMAP_SET [die] := by
  unfold State.chmapSet
  refine if_neg fun h => ?_
  simp only [Bool.and_eq_true, beq_iff_eq, List.isEmpty_iff, Bool.not_eq_true', decide_eq_true_eq] at h
  obtain ⟨⟨⟨⟨hphase, hunbound⟩, hunused⟩, -⟩, -⟩ := h
  obtain h | h | h := hlate
  · exact h hphase
  · exact h hunbound
  · exact absurd (hunused.symm.trans h) (by decide)

theorem srcOfOffset_chmapSet {die : Nat} (h : die < 2) : srcOfOffset (regAddr .MEM_CHMAP_SET [die]) = .mem := by
  interval_cases die <;> decide

/-! ## The commands run while the islands run -/

section
variable {s : State} (hrun : s.islandsRun = true)
include hrun

theorem exec_memMrRead (die : Nat) (v : Word) : exec (.memMrRead die v) s = .next (s.mrRead die v) :=
  congrArg _ (State.onDie_of_islandsRun hrun _)

theorem exec_memMrWrite (die : Nat) (v : Word) : exec (.memMrWrite die v) s = .next (s.mrWrite die v) :=
  congrArg _ (State.onDie_of_islandsRun hrun _)

theorem exec_memSoftRepair (die : Nat) (v : Word) : exec (.memSoftRepair die v) s = .next (s.softRepair die v) :=
  congrArg _ (State.onDie_of_islandsRun hrun _)

theorem exec_memHardRepair (die : Nat) (v : Word) : exec (.memHardRepair die v) s = .next (s.hardRepair die v) :=
  congrArg _ (State.onDie_of_islandsRun hrun _)

theorem exec_memQueryRepair (die : Nat) (v : Word) : exec (.memQueryRepair die v) s = .next (s.queryRepair die v) :=
  congrArg _ (State.onDie_of_islandsRun hrun _)

theorem exec_softRepairResult (c : Nat) (success : Bool) (reads : List (Nat × BurstErr)) :
    exec (.softRepairResult c success reads) s = .next (s.softResult c success reads) :=
  congrArg _ (State.onDie_of_islandsRun hrun _)

theorem exec_hardRepairDone (c : Nat) (success : Bool) :
    exec (.hardRepairDone c success) s = .next (s.hardDone c success) :=
  congrArg _ (State.onDie_of_islandsRun hrun _)

theorem exec_mapoutGo (die : Nat) (v : Word) : exec (.mapoutGo die v) s = .next (s.mapoutGo die v) :=
  congrArg _ (State.onDie_of_islandsRun hrun _)

theorem exec_mapoutCopyDone (die : Nat) (reads : List (Nat × BurstErr)) :
    exec (.mapoutCopyDone die reads) s = .next (s.mapoutDone die reads) :=
  congrArg _ (State.onDie_of_islandsRun hrun _)

theorem exec_memChmapSetWrite (die : Nat) (v : Word) :
    exec (.memChmapSetWrite die v) s = .next (s.chmapSet die v) :=
  congrArg _ (State.onDie_of_islandsRun hrun _)

end
/-! ## The log after an operation -/

/-- No register of the log is one of the controllers', so their writes leave it its room. -/
theorem State.logRoom_putFld_mem (s : State) {r : Reg}
    (h : r = .MEM_REPAIR_STATUS ∨ r = .MEM_MAPOUT_STATUS ∨ r = .MEM_CHMAP_SET) (ix : List Nat) (lo w x : Nat) :
    (s.putFld r ix lo w x).logRoom = s.logRoom := by
  have htail : regAddr .WCH_LOG_TAIL [] = 0x30008 := by decide
  have := log_lt_regAddr h ix
  exact State.logRoom_putReg _ (logHead_ne_regAddr h ix) (by omega)

/-- The record of a controller leaves its registers. -/
theorem State.regFld_record_mem (s : State) (sev : Sev) (die code : Nat) (owner : Option Nat) (detail : Nat) {r : Reg}
    (h : r = .MEM_REPAIR_STATUS ∨ r = .MEM_MAPOUT_STATUS ∨ r = .MEM_CHMAP_SET) (ix : List Nat) (lo w : Nat) :
    (s.record .mem sev die code owner detail).regFld r ix lo w = s.regFld r ix lo w :=
  congrArg (wfld · lo w) (State.getReg_record _ _ _ _ _ _ _ rfl (plainOff_of_gt (log_lt_regAddr h ix)))

theorem State.lastRecord_memRecord {s : State} (sev : Sev) (die code : Nat) (owner : Option Nat) (detail : Nat)
    (hroom : s.logRoom = true) : ∃ r, (s.record .mem sev die code owner detail).lastRecord = some r ∧ r.src = .mem ∧
      r.sev = sev ∧ r.code = code :=
  ⟨_, State.lastRecord_record _ _ _ _ _ _ _ rfl hroom, rfl, rfl, rfl⟩

/-- What an operation's end and its record leave: all that the controllers hold. -/
theorem State.mem_endOp (s : State) (r : Reg) (ix : List Nat) (result : Nat) : (s.endOp r ix result).mem = s.mem := (rfl)

theorem State.mem_repairRecord (s : State) (c bank row : Nat) (success : Bool) :
    (s.repairRecord c bank row success).mem = s.mem := State.record_mem ..

/-- A failed repair reports 4, a successful one 0. -/
theorem repairOutcome_byte (success : Bool) : (if success then 0 else 4) % 2 ^ 8 = if success then 0 else 4 := by
  cases success <;> rfl

/-! ## What the end of a map-out leaves (R410, R421) -/

section
variable {s : State} (die source spare : Nat)

theorem State.mem_mapoutReported : (s.mapoutReported die).mem = s.mem := (rfl)

theorem State.grv_mapoutReported : (s.mapoutReported die).grv = s.grv := (rfl)

theorem State.logRoom_mapoutReported : (s.mapoutReported die).logRoom = s.logRoom := by
  simp only [State.mapoutReported, State.mapoutCounted, State.endOp, State.logRoom_putFld_mem _ (.inr (.inl rfl))]

theorem State.regs_mapSwitched : ((s.mapoutReleased die).mapSwitched source spare).regs = s.regs := by
  rw [State.mapSwitched, State.modChannel_regs, State.modChannel_regs, State.modPhys_regs]
  rfl

theorem State.logRoom_mapSwitched : ((s.mapoutReleased die).mapSwitched source spare).logRoom = s.logRoom := by
  have hreg := State.getReg_congr (State.regs_mapSwitched (s := s) die source spare)
  rw [State.logRoom, State.regFld, State.regFld, hreg, hreg]
  rfl

theorem State.cells_mapSwitched : ((s.mapoutReleased die).mapSwitched source spare).mem.cells = s.mem.cells := (rfl)

theorem State.mapouts_mapSwitched :
    ((s.mapoutReleased die).mapSwitched source spare).mem.mapouts = terase s.mem.mapouts die := (rfl)

end

/-- No byte of a source of which nothing is buffered changes when another physical channel serves it. -/
theorem State.viewByte_mapSwitched {s : State} {source spare : Nat} (hne : source ≠ spare)
    (hwcb : (s.channel source).wcb = []) (hadders : (s.channel source).adders = []) (x : Nat) :
    (s.mapSwitched source spare).viewByte source x = s.viewByte source x := by
  have hsource := State.channel_mapSwitched_source s hne
  rw [State.viewByte_of_unbuffered hwcb hadders, State.viewByte_of_unbuffered, State.rawByte_mapSwitched]
  · rw [hsource]
    exact hwcb
  · rw [hsource]
    exact hadders

/-- Settles O31: an operation's equation gives the state in which it starts or ends; the outcome of a repair is its
record, its row and the fields of the status register, and the end of a map-out is the switch of the map. -/
theorem repairAndMapOut : Obligations.RepairAndMapOut := by
  refine ⟨?rows, ?channels⟩
  case rows =>
    rintro s _ _ _ v success hrun - rfl rfl rfl
    refine ⟨fun hidle hgo hpresent => ⟨?read, fun hfree => ?write, fun hused hphase => ?refused,
      fun hnone hfree => ?soft, fun hnone hfree hunused => ?hard, ?query⟩,
      fun row hrepair hheld hroom hgood => ?softEnds, fun row hrepair hheld => ?hardEnds⟩
    case read =>
      refine ⟨_, (exec_memMrRead hrun _ v).trans (congrArg _ (State.mrRead_ends hidle hgo rfl)), ?_,
        State.endOp_result .., State.endOp_done .., rfl⟩
      rw [State.endOp_above _ _ _ _ _ (by omega), State.regFld_putFld_same _ _ _ _ (by omega)]
    case write =>
      have hwrite := State.mrWrite_ends hidle hgo rfl
      rw [hfree, Bool.or_true, if_pos rfl] at hwrite
      exact ⟨_, (exec_memMrWrite hrun _ v).trans (congrArg _ hwrite), rfl, State.endOp_result .., rfl⟩
    case refused =>
      have hwrite := State.mrWrite_ends hidle hgo rfl
      rw [hused, beq_false_of_ne hphase, Bool.or_false, if_neg Bool.false_ne_true] at hwrite
      exact ⟨_, (exec_memMrWrite hrun _ v).trans (congrArg _ hwrite), State.endOp_result .., rfl⟩
    case soft =>
      exact ⟨_, (exec_memSoftRepair hrun _ v).trans (congrArg _ (State.softRepair_starts hidle hgo rfl hpresent hnone hfree)),
        tget_tset_same .., State.regFld_putFld_same _ _ _ _ (by omega), rfl, rfl⟩
    case hard =>
      exact ⟨_, (exec_memHardRepair hrun _ v).trans
          (congrArg _ (State.hardRepair_starts hidle hgo rfl hpresent hnone hfree hunused)),
        tget_tset_same .., State.regFld_putFld_same _ _ _ _ (by omega), rfl, rfl⟩
    case query =>
      refine ⟨_, (exec_memQueryRepair hrun _ v).trans (congrArg _ (State.queryRepair_ends hidle hgo rfl hpresent)),
        ?_, ?_, State.endOp_result .., rfl⟩
      · rw [State.endOp_above _ _ _ _ _ (by omega), State.regFld_putFld_above _ _ _ _ _ (by omega) (by omega),
          State.regFld_putFld_same _ _ _ _ (by omega)]
        exact Nat.mod_eq_of_lt (by omega)
      · rw [State.endOp_above _ _ _ _ _ (by omega), State.regFld_putFld_same _ _ _ _ (by omega)]
        exact Nat.mod_eq_of_lt (by omega)
    case softEnds =>
      have hends := State.softResult_ends success hrepair hheld hgood
      obtain ⟨r, hlast, hsrc, -, hcode⟩ := State.lastRecord_memRecord _ _ _ _ _
        ((State.logRoom_softApplied (s.repairReleased (wfld v 47 9)) (wfld v 47 9) (wfld v 43 4) row success).trans hroom)
      refine ⟨_, r, (exec_softRepairResult hrun _ success []).trans (congrArg _ hends), ?_,
        (State.endOp_result ..).trans (repairOutcome_byte success), State.endOp_idle .., ?_,
        (State.lastRecord_endOp _ _ _ _ (logHead_ne_regAddr (.inl rfl) _)).trans hlast, hsrc, hcode, ?_⟩
      · rw [State.mem_endOp, State.mem_repairRecord, State.repairs_softApplied, State.tget_repairReleased]
      · rw [State.mem_endOp, State.mem_repairRecord, State.cells_softApplied]
        rfl
      · rw [State.phys_congr (congrArg MemState.phys ((State.mem_endOp ..).trans (State.mem_repairRecord ..)))]
        exact State.softFree_softApplied (s.repairReleased (wfld v 47 9)) _ _ row success
    case hardEnds =>
      have hreplaced := State.rowReplaced_keeps (s.repairReleased (wfld v 47 9)) (wfld v 47 9) (wfld v 43 4) row
      generalize hu : (s.repairReleased (wfld v 47 9)).rowReplaced (wfld v 47 9) (wfld v 43 4) row = u at hreplaced
      have hends := State.hardDone_ends success hrepair hheld
      rw [hu] at hends
      have hphysOf : u.physOf (wfld v 47 9) = s.physOf (wfld v 47 9) := by
        rw [State.physOf, State.channel, hreplaced]
        rfl
      have hphys : u.phys (s.physOf (wfld v 47 9)) = s.phys (s.physOf (wfld v 47 9)) := by
        rw [State.phys, hreplaced]
        rfl
      refine ⟨_, (exec_hardRepairDone hrun _ success).trans (congrArg _ hends), ?_,
        (State.endOp_result ..).trans (repairOutcome_byte success), ?_⟩
      · rw [State.mem_endOp, State.hardApplied_keeps, hreplaced]
        exact State.tget_repairReleased s (wfld v 47 9)
      · rw [State.phys_congr (congrArg MemState.phys (State.mem_endOp ..)), ← hphysOf, State.hardFree_hardApplied,
          hphysOf, hphys]
  case channels =>
    rintro s die source spare v hrun hdie
    refine ⟨?starts, ?ends, ?maps⟩
    case starts =>
      rintro rfl rfl hgo hnone hsource hspare hne hpresent hfree hsourceIdle hspareIdle htests
      exact ⟨_, (exec_mapoutGo hrun die v).trans (congrArg _ (State.mapoutGo_starts hgo hnone hsource hspare hne
        hpresent hfree hsourceIdle hspareIdle htests)), tget_tset_same .., State.regFld_putFld_same _ _ _ _ (by omega),
        rfl, rfl, rfl⟩
    case ends =>
      intro hmapout hne _ hgood hroom hwcb hadders
      obtain ⟨owner, hdone⟩ := State.mapoutDone_switches hmapout hgood hwcb hadders
      have hmem : (s.mapoutDone die []).mem = ((s.mapoutReleased die).mapSwitched source spare).mem := by
        rw [hdone, State.record_mem, State.mem_mapoutReported]
      have hstatus (k n : Nat) : (s.mapoutDone die []).regFld .MEM_MAPOUT_STATUS [die] k n =
          (((s.mapoutReleased die).mapSwitched source spare).mapoutReported die).regFld .MEM_MAPOUT_STATUS [die] k n := by
        rw [hdone, State.regFld_record_mem _ _ _ _ _ _ (.inr (.inl rfl))]
      have hview (x : Nat) : (s.mapoutDone die []).viewByte source x = s.viewByte source x := by
        have hgrv : (s.mapoutDone die []).grv = ((s.mapoutReleased die).mapSwitched source spare).grv := by
          rw [hdone, State.record_grv, State.grv_mapoutReported]
        have hchannel : (s.mapoutDone die []).channel source =
            ((s.mapoutReleased die).mapSwitched source spare).channel source := by
          rw [State.channel, hmem, State.channel]
        rw [State.viewByte_congr hchannel fun _ _ => State.rawByte_congr hmem hgrv ..]
        exact State.viewByte_mapSwitched (s := s.mapoutReleased die) hne hwcb hadders x
      obtain ⟨r, hlast, hsrc, hsev, hcode⟩ := State.lastRecord_memRecord .contained die 0x09 owner (memDetail source 0)
        ((State.logRoom_mapoutReported die).trans ((State.logRoom_mapSwitched die source spare).trans hroom))
      refine ⟨_, r, exec_mapoutCopyDone hrun die [], ?_, ?_, ?_, ?_, (hstatus 8 8).trans (State.endOp_result ..),
        (hstatus 0 1).trans (State.endOp_idle ..), hview, ?_,
        (congrArg State.lastRecord hdone).trans hlast, hsrc, hsev, hcode⟩
      · rw [hmem, State.mapouts_mapSwitched, tget_terase_same]
      · rw [State.physOf, State.channel, hmem]
        exact State.physOf_mapSwitched_source (s.mapoutReleased die) hne
      · rw [State.channel, hmem]
        exact State.absent_mapSwitched_spare (s.mapoutReleased die)
      · rw [State.phys_congr (congrArg MemState.phys hmem)]
        exact State.phys_mapSwitched_old (s.mapoutReleased die)
      · rw [hmem, State.cells_mapSwitched]
    case maps =>
      rintro rfl rfl hsource
      refine ⟨fun hphase hunbound hunused hspare hmap => ?free, fun hlate hroom => ?late⟩
      case free =>
        refine ⟨_, (exec_memChmapSetWrite hrun die v).trans
          (congrArg _ (State.chmapSet_maps hphase hunbound hunused hsource hspare hmap)), ?_, ?_,
          fun d hd => State.channel_modChannel_other _ _ hd, rfl, rfl⟩
        · rw [State.physOf, State.channel_modChannel_same]
          simp only [Channel.mapTo]
          split
          · next h => exact h.symm
          · rfl
        · rw [State.channel_modChannel_same]
          rfl
      case late =>
        obtain ⟨r, hlast, -, -, hcode, -⟩ := s.lastRecord_regAccess (regAddr .MEM_CHMAP_SET [die]) 3
          (by rw [srcOfOffset_chmapSet hdie]; rfl) hroom
        exact ⟨_, r, (exec_memChmapSetWrite hrun die v).trans (congrArg _ (State.chmapSet_refuses hlate)),
          State.refuseWrite_mem .., hlast, hcode⟩

end Sys2Proof.Machine
end

section
/-! PROOFS. Stack temperatures: what records, writes to memory and the way into the ash state leave of them (R413, R427,
R658). -/
namespace Sys2Proof.Machine

/-! ## The registers beside MEM_STACK_TEMP (R38, R427) -/

/-- The register of a stack's temperature. -/
def stackOff (k : Nat) : Nat := regAddr .MEM_STACK_TEMP [k / 6, k % 6]

/-- An offset at which no stack's temperature lies: those are in [0x40, 0x70) of a page of the controllers'. -/
def besideStacks (a : Nat) : Prop := a < 0x2100000 ∨ a % 0x1000 < 0x40 ∨ 0x70 ≤ a % 0x1000

/-- A register each copy of which lies beside the stacks' temperatures. -/
def Reg.beside (r : Reg) : Bool :=
  (regDesc r).dims.isEmpty && decide ((regDesc r).base < 0x2100000) ||
    (regDesc r).dims.all (fun d => d.2 % 0x1000 == 0) &&
      (decide ((regDesc r).base % 0x1000 < 0x40) || decide (0x70 ≤ (regDesc r).base % 0x1000))

theorem stackOff_ne {k a : Nat} (h : besideStacks a) : stackOff k ≠ a := by
  have hoff : stackOff k = 0x2100040 + (0 + 0x800000 * (k / 6) + 8 * (k % 6)) := rfl
  unfold besideStacks at h
  omega

/-- Copies of a register a whole number of pages apart stand at one offset of a page. -/
theorem foldl_mod_page {dims : List (Nat × Nat)} (h : ∀ d ∈ dims, d.2 % 0x1000 = 0) (ix : List Nat) (a : Nat) :
    ((dims.zip ix).foldl (fun a p => a + p.1.2 * p.2) a) % 0x1000 = a % 0x1000 := by
  induction dims generalizing ix a with
  | nil => rfl
  | cons d dims ih =>
    cases ix with
    | nil => rfl
    | cons i ix =>
      rw [List.zip_cons_cons, List.foldl_cons, ih fun e he => h e (List.mem_cons_of_mem _ he), Nat.add_mod, Nat.mul_mod,
        h d List.mem_cons_self, Nat.zero_mul, Nat.zero_mod, Nat.add_zero, Nat.mod_mod]

theorem Reg.regAddr_besideStacks {r : Reg} (h : r.beside = true) (ix : List Nat) : besideStacks (regAddr r ix) := by
  simp only [Reg.beside, Bool.or_eq_true, Bool.and_eq_true, List.isEmpty_iff, decide_eq_true_eq, List.all_eq_true,
    beq_iff_eq] at h
  obtain ⟨hdims, hbase⟩ | ⟨hdims, hbase⟩ := h
  · left
    rw [regAddr, hdims]
    exact hbase
  · right
    rw [regAddr, Nat.add_mod, foldl_mod_page hdims, Nat.zero_mod, Nat.add_zero, Nat.mod_mod]
    exact hbase

/-! ## What the operations leave of the stacks -/

/-- The stacks: what their sensors' readings have set, and the register of one. -/
def State.stackSide (s : State) (k : Nat) : Word × Tbl Stack :=
  (s.getReg .MEM_STACK_TEMP [k / 6, k % 6], s.mem.heats)

theorem State.stackSide_each {α : Type} {k : Nat} {f : State → α → State} {l : List α}
    (h : ∀ b x, x ∈ l → (f b x).stackSide k = b.stackSide k) (s : State) : (s.each l f).stackSide k = s.stackSide k := by
  unfold State.each
  induction l generalizing s with
  | nil => rfl
  | cons x l ih => exact (ih (fun b y hy => h b y (List.mem_cons_of_mem _ hy)) _).trans (h s x List.mem_cons_self)

theorem State.stackSide_foldl {α β : Type} {k : Nat} {f : State × β → α → State × β}
    (h : ∀ q x, (f q x).1.stackSide k = q.1.stackSide k) (q : State × β) (l : List α) :
    (l.foldl f q).1.stackSide k = q.1.stackSide k := by
  induction l generalizing q with
  | nil => rfl
  | cons x l ih => exact (ih _).trans (h q x)

section
variable (s : State) (k : Nat)

/-! ### Registers and records -/

theorem State.stackSide_putReg_beside {r : Reg} {ix : List Nat} (v : Word) (h : besideStacks (regAddr r ix)) :
    (s.putReg r ix v).stackSide k = s.stackSide k := by
  rw [State.stackSide, State.getReg_putReg_other _ _ (stackOff_ne h)]
  rfl

@[simp] theorem State.stackSide_putReg {r : Reg} (ix : List Nat) (v : Word) (h : r.beside = true) :
    (s.putReg r ix v).stackSide k = s.stackSide k := s.stackSide_putReg_beside k v (Reg.regAddr_besideStacks h ix)

@[simp] theorem State.stackSide_putFld {r : Reg} (ix : List Nat) (lo w x : Nat) (h : r.beside = true) :
    (s.putFld r ix lo w x).stackSide k = s.stackSide k := s.stackSide_putReg k ix _ h

theorem State.stackSide_setWch (w : WatchState) : { s with wch := w }.stackSide k = s.stackSide k := (rfl)

theorem State.stackSide_setSup (x : StartState) : { s with sup := x }.stackSide k = s.stackSide k := (rfl)

@[simp] theorem State.stackSide_notify (sev : Sev) : (s.notify sev).stackSide k = s.stackSide k := by
  unfold State.notify
  split <;> rfl

@[simp] theorem State.stackSide_alerted (sev : Sev) : (s.alerted sev).stackSide k = s.stackSide k := by
  unfold State.alerted
  split <;> rfl

@[simp] theorem State.stackSide_keepFatal (r : LogRec) : (s.keepFatal r).stackSide k = s.stackSide k := by
  unfold State.keepFatal
  split <;> rfl

@[simp] theorem State.stackSide_logged (r : LogRec) : (s.logged r).stackSide k = s.stackSide k :=
  State.stackSide_putFld _ _ _ _ _ _ (by decide)

@[simp] theorem State.stackSide_lost (sev : Sev) : (s.lost sev).stackSide k = s.stackSide k := by
  rw [State.lost, State.stackSide_setWch]
  simp (disch := decide)

@[simp] theorem State.stackSide_logRec (r : LogRec) : (s.logRec r).stackSide k = s.stackSide k := by
  cases hroom : s.logRoom
  · rw [State.logRec_full r hroom, State.stackSide_keepFatal, State.stackSide_lost]
  · rw [State.logRec_room s r hroom]
    simp

/-- A group's heat and its smoke register. -/
theorem State.stackSide_addHeat (w : Nat) {g : Nat} (hg : g < 16) : (s.addHeat w g).stackSide k = s.stackSide k := by
  have hsmoke : besideStacks (regAddr .WCH_SMOKE [g]) := by
    have haddr : regAddr .WCH_SMOKE [g] = 0x30200 + (0 + 8 * g) := rfl
    left
    omega
  unfold State.addHeat
  extract_lets
  split
  · rw [State.stackSide_logRec]
    exact (State.stackSide_putReg_beside _ _ _ hsmoke).trans (s.stackSide_setWch k _)
  · rfl

theorem State.stackSide_heatOn (w : Nat) {gs : List Nat} (h : ∀ g ∈ gs, g < 16) :
    (s.heatOn w gs).stackSide k = s.stackSide k :=
  State.stackSide_each (fun b g hg => b.stackSide_addHeat k w (h g hg)) s

theorem State.boundGroves_lt {g : Nat} (h : g ∈ s.boundGroves) : g < 16 :=
  List.mem_range.mp (List.mem_of_mem_filter h)

@[simp] theorem State.stackSide_record (src : Src) (sev : Sev) (die code : Nat) (grove : Option Nat) (detail : Nat) :
    (s.record src sev die code grove detail).stackSide k = s.stackSide k := by
  unfold State.record
  extract_lets u
  have hu : u.stackSide k = s.stackSide k := s.stackSide_logRec k _
  split
  · exact (u.stackSide_heatOn k _ fun g hg => u.boundGroves_lt hg).trans hu
  · exact hu

@[simp] theorem State.stackSide_bump {r : Reg} (ix : List Nat) (n : Nat) (h : r.beside = true) :
    (s.bump r ix n).stackSide k = s.stackSide k := by
  unfold State.bump
  dsimp only
  split <;> simp [h]

theorem State.stackSide_stackRecord (sev : Sev) (code j heat : Nat) :
    (s.stackRecord sev code j heat).stackSide k = s.stackSide k := by
  rw [State.stackRecord, State.stackSide_heatOn, State.stackSide_record]
  exact fun g hg => s.boundGroves_lt (List.mem_of_mem_filter hg)

/-! ### Memory -/

@[simp] theorem State.stackSide_modChannel (c : Nat) (f : Channel → Channel) :
    (s.modChannel c f).stackSide k = s.stackSide k := (rfl)

@[simp] theorem State.stackSide_putLine (c line : Nat) (bs : List Byte) :
    (s.putLine c line bs).stackSide k = s.stackSide k := (rfl)

@[simp] theorem State.stackSide_unsaturate (p : Nat → Bool) : (s.unsaturate p).stackSide k = s.stackSide k := (rfl)

@[simp] theorem State.stackSide_noteUe (c line : Nat) : (s.noteUe c line).stackSide k = s.stackSide k := by
  unfold State.noteUe
  simp (disch := decide)

@[simp] theorem State.stackSide_ueRecord (sev : Sev) (c line : Nat) :
    (s.ueRecord sev c line).stackSide k = s.stackSide k := by
  rw [State.ueRecord, State.stackSide_heatOn, State.stackSide_record]
  exact fun g hg => State.channelOwner_lt (Option.mem_toList.mp hg)

@[simp] theorem State.stackSide_evictWcb (c : Nat) (e : WcbEntry) : (s.evictWcb c e).stackSide k = s.stackSide k := by
  unfold State.evictWcb
  dsimp only
  repeat' split
  all_goals simp (disch := decide)

@[simp] theorem State.stackSide_flushAdder (c : Nat) (a : Nat × List Byte) :
    (s.flushAdder c a).stackSide k = s.stackSide k := (rfl)

@[simp] theorem State.stackSide_settleAdder (c line : Nat) : (s.settleAdder c line).stackSide k = s.stackSide k := by
  unfold State.settleAdder
  split <;> rfl

theorem State.stackSide_flushBuffers (p : Nat → Bool) : (s.flushBuffers p).stackSide k = s.stackSide k := by
  refine State.stackSide_each (fun b c _ => ?_) s
  split
  · exact (State.stackSide_each (fun b a _ => b.stackSide_flushAdder k ..) _).trans
      (State.stackSide_each (fun b e _ => b.stackSide_evictWcb k ..) _)
  · rfl

@[simp] theorem State.stackSide_writeLine (c line pos : Nat) (bs : List Byte) (grove : Nat) :
    (s.writeLine c line pos bs grove).1.stackSide k = s.stackSide k := by
  unfold State.writeLine
  dsimp only
  repeat' split
  all_goals simp

@[simp] theorem State.stackSide_putPage (g o : Nat) (bs : List Byte) : (s.putPage g o bs).stackSide k = s.stackSide k := by
  refine State.stackSide_each (fun b i _ => ?_) s
  split <;> simp

@[simp] theorem State.stackSide_touchWait (g : Nat) : (s.touchWait g).stackSide k = s.stackSide k := by
  unfold State.touchWait
  split
  · split
    · rfl
    · rw [State.stackSide_record, State.stackSide_putReg _ _ _ _ (by decide)]
      rfl
  · rfl

@[simp] theorem State.stackSide_touchPage (page : Nat) : (s.touchPage page).stackSide k = s.stackSide k := by
  unfold State.touchPage
  split
  · rfl
  · split
    · rfl
    · extract_lets die bs free waited old noted kept kln copied touches
      have hwaited : waited.stackSide k = s.stackSide k := by
        unfold waited
        split
        · exact s.stackSide_touchWait k _
        · rfl
      have htouches : touches.stackSide k = copied.stackSide k := by
        unfold touches
        simp (disch := decide)
      split
      · exact (State.stackSide_putPage ..).trans (htouches.trans hwaited)
      · exact htouches.trans hwaited

@[simp] theorem State.stackSide_touch (o : Nat) : (s.touch o).stackSide k = s.stackSide k := by
  unfold State.touch
  split <;> simp

@[simp] theorem State.stackSide_writeLocal (p : Party) (o : Nat) (bs : List Byte) :
    (s.writeLocal p o bs).1.stackSide k = s.stackSide k := by
  unfold State.writeLocal
  split
  · refine State.stackSide_foldl (fun q x => ?_) _ _
    split <;> simp
  · unfold State.writeFails State.unmappedRecord
    split <;> simp

/-! ### The way into the ash state (R658) -/

theorem State.stackSide_modQueue (q : Nat) (f : Queue → Queue) : (s.modQueue q f).stackSide k = s.stackSide k := (rfl)

theorem State.stackSide_linksDown : s.linksDown.stackSide k = s.stackSide k := (rfl)

@[simp] theorem State.stackSide_complete (q i : Nat) (st : Status) (result : Nat) :
    (s.complete q i st result).stackSide k = s.stackSide k := by
  unfold State.complete
  split
  · rfl
  · extract_lets n size written counted
    have hwritten : written.stackSide k = s.stackSide k := s.stackSide_writeLocal k ..
    have hcounted : counted.stackSide k = written.stackSide k := written.stackSide_modQueue k q _
    clear_value counted
    rw [← hwritten, ← hcounted]
    split
    · rfl
    · rfl

@[simp] theorem State.stackSide_abortFiring (g : Nat) (item : Nat) :
    (s.abortFiring g none item).stackSide k = s.stackSide k := by
  unfold State.abortFiring
  split
  · rfl
  · dsimp only
    unfold State.endFiring
    split
    · simp (disch := decide)
    · rw [State.stackSide_complete]
      exact State.stackSide_bump _ _ _ _ (by decide)

theorem State.stackSide_strikeFiring (g : Nat) : (s.strikeFiring g).stackSide k = s.stackSide k := by
  unfold State.strikeFiring
  split
  · rfl
  · exact (State.stackSide_each (fun b p _ => b.stackSide_complete k ..) _).trans (s.stackSide_abortFiring k ..)

theorem State.stackSide_portsOff : s.portsOff.stackSide k = s.stackSide k := by
  have hreg (p : Nat) : (portReg p .LNK_LOST_T .LNK_LOST_B).beside = true := by
    unfold portReg
    split <;> decide
  have hport (b : State) (p : Nat) : (b.portOff p).stackSide k = b.stackSide k := by
    unfold State.portOff State.bumpPort
    dsimp only
    split
    · rfl
    · exact b.stackSide_bump k _ _ (hreg p)
  refine State.stackSide_each (fun b p _ => ?_) s
  split
  · rfl
  · exact hport b p

theorem State.stackSide_dropBatch : s.dropBatch.stackSide k = s.stackSide k := by
  unfold State.dropBatch
  cases s.grv.batch with
  | none => rfl
  | some b =>
    dsimp only
    split
    · exact State.stackSide_each (fun b c _ => b.stackSide_modChannel k ..) s
    · rfl

theorem State.stackSide_ashSwept (ctrlUe : Bool) : (s.ashSwept ctrlUe).stackSide k = s.stackSide k := by
  unfold State.ashSwept
  extract_lets struck flushed
  have hstruck : struck.stackSide k = s.stackSide k := State.stackSide_each (fun b g _ => b.stackSide_strikeFiring k g) s
  have hflushed : flushed.stackSide k = struck.stackSide k := by
    unfold flushed
    split
    · rfl
    · exact State.stackSide_flushBuffers ..
  rw [State.stackSide_dropBatch, State.stackSide_linksDown, State.stackSide_portsOff, hflushed, hstruck]

theorem State.stackSide_recoverRefused (op n : Nat) : (s.recoverRefused op n).stackSide k = s.stackSide k := by
  unfold State.recoverRefused State.recoverResult
  simp (disch := decide)

theorem State.stackSide_ashEntry (ctrlUe overtemp : Bool) : (s.ashEntry ctrlUe overtemp).stackSide k = s.stackSide k := by
  unfold State.ashEntry
  split
  · extract_lets sup u
    have hu : u.stackSide k = s.stackSide k := s.stackSide_setSup k _
    clear_value u
    split
    · exact (State.stackSide_recoverRefused ..).trans hu
    · exact hu
  · extract_lets struck flushed dropped sup resolved
    have hdropped : dropped.stackSide k = s.stackSide k := s.stackSide_ashSwept k ctrlUe
    clear_value dropped
    have hresolved : resolved.stackSide k = dropped.stackSide k := by
      unfold resolved
      split
      · rfl
      · exact (State.stackSide_recoverRefused ..).trans (dropped.stackSide_setSup k _)
    clear_value resolved
    exact (resolved.stackSide_putFld k [] 0 2 0 (by decide)).trans (hresolved.trans hdropped)

/-- A fatal record takes the device into the ash state and leaves the stacks. -/
theorem State.stackSide_fatal (src : Src) (die code : Nat) (grove : Option Nat) (detail : Nat) :
    (s.fatal src die code grove detail).stackSide k = s.stackSide k :=
  (State.stackSide_ashEntry ..).trans (s.stackSide_record k ..)

end

end Sys2Proof.Machine
end

section
/-! PROOFS. A reading of a stack's sensor, and the ends of memory training (R406, R413, R427, R651, R702; O32). -/
namespace Sys2Proof.Machine

/-! ## A stack's sensor (R413) -/

/-- The stack with the actions that a valid reading sets: warm from 85 °C, hot from 92 °C until a reading below 88 °C. -/
def Stack.readAt (now : Nat) (v : Int) (x : Stack) : Stack :=
  let cool := if v < 1280 then some (x.coolSince.getD now) else none
  { x with
    warm := v ≥ 1360 || (x.warm && !(cool.map fun t => decide (now - t ≥ 10000)).getD false)
    hot := v ≥ 1472 || (x.hot && v ≥ 1408)
    fault := x.fault && now - x.goodSince.getD now < 10000, coolSince := cool
    overSince := if v ≥ 1520 then some (x.overSince.getD now) else none
    badSince := none, goodSince := some (x.goodSince.getD now) }

theorem Stack.warm_readAt {now : Nat} {v : Int} (h : 1360 ≤ v) (x : Stack) : (x.readAt now v).warm = true := by
  simp [Stack.readAt, h]

theorem Stack.hot_readAt {now : Nat} {v : Int} (h : 1472 ≤ v) (x : Stack) : (x.readAt now v).hot = true := by
  simp [Stack.readAt, h]

theorem Stack.not_hot_readAt {now : Nat} {v : Int} (h : v < 1408) (x : Stack) : (x.readAt now v).hot = false := by
  have hbelow : ¬v ≥ 1408 := by omega
  have hlow : ¬v ≥ 1472 := by omega
  simp [Stack.readAt, hbelow, hlow]

/-- The state with a reading in the stack and in its register. -/
def State.stackRead (s : State) (k : Nat) (v : Int) : State :=
  (s.modStack k (Stack.readAt s.aonUs v)).putFld .MEM_STACK_TEMP [k / 6, k % 6] 0 16 (ofSigned 16 v)

/-- The records of a stack that a reading makes warm or hot. -/
def State.stackNoted (s : State) (k : Nat) (warmed heated : Bool) : State :=
  let s := if warmed then s.stackRecord .corrected 0x0A k 16 else s
  if heated then s.stackRecord .deferred 0x0B k 256 else s

/-- A reading that trips ends in the ash state, unless that state holds with the trip's output already. -/
def State.stackTripped (s : State) (k : Nat) (trip : Bool) : State :=
  if trip && !(s.sup.phase == Phase.ash && s.sup.thermLow) then s.fatal .mem (k / 6) 0x0D none k else s

/-- A reading: the stack's actions, its records, the trip, and the register's state. -/
theorem State.stackTemp_reads (s : State) (k : Nat) (v : Int) : ∃ warmed heated past,
    (v < 1520 → past = false) ∧
    s.stackTemp k (some v) =
      (fun u : State => (u.putFld .MEM_STACK_TEMP [k / 6, k % 6] 24 2 (tgetD u.mem.heats k {}).number).retargetAll)
        (((s.stackRead k v).stackNoted k warmed heated).stackTripped k (decide (v ≥ 1568) || past)) := by
  refine ⟨((tgetD s.mem.heats k {}).readAt s.aonUs v).warm && !(tgetD s.mem.heats k {}).warm,
    ((tgetD s.mem.heats k {}).readAt s.aonUs v).hot && !(tgetD s.mem.heats k {}).hot,
    (((tgetD s.mem.heats k {}).readAt s.aonUs v).overSince.map fun t => decide (s.aonUs - t ≥ 1000)).getD false,
    fun h => ?_, rfl⟩
  have hbelow : ¬v ≥ 1520 := by omega
  simp [Stack.readAt, hbelow]

section
variable (s : State) (k j : Nat)

theorem State.stackSide_stackNoted (warmed heated : Bool) : (s.stackNoted j warmed heated).stackSide k = s.stackSide k := by
  unfold State.stackNoted
  extract_lets u
  have hu : u.stackSide k = s.stackSide k := by
    unfold u
    split
    · exact State.stackSide_stackRecord ..
    · rfl
  split
  · exact (State.stackSide_stackRecord ..).trans hu
  · exact hu

theorem State.mem_stackNoted (warmed heated : Bool) : (s.stackNoted j warmed heated).mem = s.mem := by
  unfold State.stackNoted State.stackRecord
  cases warmed <;> cases heated <;> simp

theorem State.stackSide_stackTripped (trip : Bool) : (s.stackTripped j trip).stackSide k = s.stackSide k := by
  unfold State.stackTripped
  split
  · exact State.stackSide_fatal ..
  · rfl

end

/-- A fatal record leaves the device in the ash state, in it before or not (R658). -/
theorem State.phase_ashEntry_ash (s : State) (ctrlUe overtemp : Bool) : (s.ashEntry ctrlUe overtemp).sup.phase = .ash := by
  by_cases h : s.sup.phase = .ash
  · unfold State.ashEntry
    rw [if_pos (beq_iff_eq.mpr h)]
    dsimp only
    split
    · exact (State.recoverRefused_sup ..).1.trans h
    · exact h
  · exact State.phase_ashEntry ctrlUe overtemp h

theorem State.phase_stackTripped (s : State) (k : Nat) : (s.stackTripped k true).sup.phase = .ash := by
  unfold State.stackTripped
  split
  · exact State.phase_ashEntry_ash ..
  next h =>
    simp only [Bool.true_and, Bool.not_eq_true', Bool.not_eq_false, Bool.and_eq_true, beq_iff_eq] at h
    exact h.1

/-- What a valid reading leaves: the register's temperature, the stack's actions, and, with no trip, memory. -/
theorem State.stackTemp_leaves (s : State) (k : Nat) (v : Int) :
    (s.stackTemp k (some v)).regFld .MEM_STACK_TEMP [k / 6, k % 6] 0 16 = ofSigned 16 v % 2 ^ 16 ∧
      (s.stackTemp k (some v)).mem.heats = tmod s.mem.heats k {} (Stack.readAt s.aonUs v) ∧
      (1568 ≤ v → (s.stackTemp k (some v)).sup.phase = .ash) ∧
      (v < 1520 → (s.stackTemp k (some v)).mem.cells = s.mem.cells) := by
  obtain ⟨warmed, heated, past, hpast, heq⟩ := s.stackTemp_reads k v
  generalize hu : ((s.stackRead k v).stackNoted k warmed heated).stackTripped k (decide (v ≥ 1568) || past) = u at heq
  have hside : u.stackSide k = (s.stackRead k v).stackSide k := by
    rw [← hu, State.stackSide_stackTripped, State.stackSide_stackNoted]
  obtain ⟨hreg, hheats⟩ := Prod.mk.inj hside
  obtain ⟨l, hl⟩ := (u.putFld .MEM_STACK_TEMP [k / 6, k % 6] 24 2 (tgetD u.mem.heats k {}).number).retargetAll_eq
  rw [heq]
  dsimp only
  rw [hl]
  refine ⟨?_, hheats, fun hhot => ?_, fun hcool => ?_⟩
  · refine (State.regFld_putFld_below u _ _ _ (by omega) (by omega)).trans ?_
    rw [State.regFld, hreg]
    exact State.regFld_putFld_same _ _ _ _ (by omega)
  · have htrip : (decide (v ≥ 1568) || past) = true := by simp [hhot]
    rw [htrip] at hu
    exact (congrArg (·.sup.phase) hu).symm.trans (State.phase_stackTripped _ k)
  · have hlow : ¬v ≥ 1568 := by omega
    have htrip : (decide (v ≥ 1568) || past) = false := by simp [hlow, hpast hcool]
    rw [htrip] at hu
    have hmem : u.mem = (s.stackRead k v).mem := by
      rw [← hu]
      exact State.mem_stackNoted ..
    exact congrArg (·.cells) hmem

theorem exec_stackTempSample {s : State} (hheld : s.sup.recovery ≠ .resetHeld) (k : Nat) (r : Option Int) :
    exec (.stackTempSample k r) s = .next (s.stackTemp k r) := congrArg _ (State.unheld_of hheld _)

/-! ## Memory training (R406, R651) -/

theorem State.inTraining_of_islandsRun {s : State} (h : s.islandsRun = true) (f : State → State) : s.inTraining f = f s := by
  rw [State.inTraining, h, Bool.true_or, if_pos rfl]

theorem exec_memPhyTrainingDone {s : State} (hrun : s.islandsRun = true) (p : PhyTraining) :
    exec (.memPhyTrainingDone p) s = .next (s.phyTrained p) := congrArg _ (State.inTraining_of_islandsRun hrun _)

/-- A place at which no cell stands reads as none. -/
theorem cellGet_eq_none {l : List Host.Cell} {a : Nat} (h : ∀ x ∈ l, x.1 ≠ a) : cellGet l a = none := by
  induction l with
  | nil => rfl
  | cons x l ih =>
    obtain ⟨i, v⟩ := x
    rw [cellGet, if_neg (h (i, v) List.mem_cons_self)]
    split
    · rfl
    · exact ih fun y hy => h y (List.mem_cons_of_mem _ hy)

/-- A channel whose hearth scrub starts. -/
def Channel.startScrub (x : Channel) : Channel := { x with scrubPos := 0, scrubbing := true, wcb := [], adders := [] }

/-- A channel whose retrain is over. -/
def Channel.endRetrain (x : Channel) : Channel := { x with retraining := false }

/-- The state whose hearth is keyed and empty (R406). -/
def State.hearthEmptied (s : State) : State :=
  { s with mem := { s.mem with
    hearthKeyed := true
    cells := s.mem.cells.filter fun x => !isHearthChannel (x.1 / 2 ^ 31)
    written := s.mem.written.filter fun l => !isHearthChannel (l / 2 ^ 25)
    bad := s.mem.bad.filter fun l => !isHearthChannel (l / 2 ^ 25)
    saturated := s.mem.saturated.filter fun w => !isHearthChannel (w / 2 ^ 29) } }

/-- The state in which the channels of a list start to scrub. -/
def State.scrubStarted (s : State) (l : List Nat) : State := s.each l fun s c => s.modChannel c Channel.startScrub

theorem State.scrubStarted_keeps (s : State) (l : List Nat) :
    (s.scrubStarted l).regs = s.regs ∧ (s.scrubStarted l).mem = { s.mem with channels := (s.scrubStarted l).mem.channels } :=
  State.each_keeps (P := fun t => t.regs = s.regs ∧ t.mem = { s.mem with channels := t.mem.channels })
    (f := fun s c => s.modChannel c Channel.startScrub) (fun b c ⟨hregs, hmem⟩ => ⟨hregs, by rw [State.modChannel, hmem]⟩)
    l ⟨rfl, rfl⟩

theorem State.channel_scrubStarted {c : Nat} {l : List Nat} (s : State) :
    (s.scrubStarted l).channel c = if c ∈ l then (s.channel c).startScrub else s.channel c := by
  induction l generalizing s with
  | nil => rfl
  | cons d l ih =>
    refine (ih (s.modChannel d Channel.startScrub)).trans ?_
    by_cases hcd : c = d
    · subst hcd
      rw [State.channel_modChannel_same, if_pos List.mem_cons_self]
      split <;> rfl
    · rw [State.channel_modChannel_other _ _ hcd]
      simp [hcd]

theorem State.hearthScrub_eq (s : State) :
    s.hearthScrub = s.hearthEmptied.scrubStarted ((List.range 480).filter isHearthChannel) := rfl

section
variable (s : State) {c : Nat}

theorem State.channel_hearthScrub_hearth (hc : c < 480) (hhearth : isHearthChannel c = true) :
    s.hearthScrub.channel c = (s.channel c).startScrub := by
  rw [State.hearthScrub_eq, State.channel_scrubStarted, if_pos]
  · rfl
  · exact List.mem_filter.mpr ⟨List.mem_range.mpr hc, hhearth⟩

theorem State.channel_hearthScrub_other (hother : isHearthChannel c = false) : s.hearthScrub.channel c = s.channel c := by
  rw [State.hearthScrub_eq, State.channel_scrubStarted, if_neg]
  · rfl
  · exact fun h => absurd (hother.symm.trans (List.mem_filter.mp h).2) (by decide)

/-- A line of the hearth region that is not written since the scrub began reads as zero. -/
theorem State.viewByte_hearthScrub (hc : c < 480) (hhearth : isHearthChannel c = true) {b : Nat} (hb : b < 2 ^ 31) :
    s.hearthScrub.viewByte c b = 0 := by
  have hchannel := s.channel_hearthScrub_hearth hc hhearth
  obtain ⟨-, hmem⟩ := s.hearthEmptied.scrubStarted_keeps ((List.range 480).filter isHearthChannel)
  rw [← State.hearthScrub_eq] at hmem
  have hcell : cellGet s.hearthScrub.mem.cells (place c b) = none := by
    refine cellGet_eq_none fun x hx heq => ?_
    rw [hmem] at hx
    have hplace : place c b / 2 ^ 31 = c := by
      unfold place
      omega
    have hkept := (List.mem_filter.mp hx).2
    rw [heq, hplace, hhearth] at hkept
    exact absurd hkept (by decide)
  have hknown : s.hearthScrub.lineKnown c (b / 64) = true := by
    rw [State.lineKnown, hmem, hhearth]
    rfl
  rw [State.viewByte_of_unbuffered (by rw [hchannel]; rfl) (by rw [hchannel]; rfl), State.rawByte, hcell, hknown]
  rfl

end

/-- Settles O32: a reading changes its stack and its register, and its records leave both, also on the way into the ash
state; the hearth scrub empties the hearth region and starts its channels. -/
theorem stacksAndTraining : Obligations.StacksAndTraining := by
  rintro s k c x dead hheld -
  refine ⟨fun hlow hhigh => ?_, fun hrun => ⟨?first, fun hnone => ?retrain⟩⟩
  · obtain ⟨hreg, hheats, hash, hcells⟩ := s.stackTemp_leaves k x
    have hstack : tgetD (s.stackTemp k (some x)).mem.heats k {} = (tgetD s.mem.heats k {}).readAt s.aonUs x := by
      rw [hheats, tgetD_tmod_same]
    refine ⟨_, exec_stackTempSample hheld k (some x), hreg.trans ?_, fun h => ?_, fun h => ?_, fun h => ?_, hash, hcells,
      fun j hj => ?_⟩
    · exact Nat.mod_eq_of_lt (by unfold ofSigned; omega)
    · rw [hstack, Stack.warm_readAt h]
    · rw [hstack, Stack.hot_readAt h]
    · rw [hstack, Stack.not_hot_readAt h]
    · rw [hheats]
      exact tget_tset_other _ _ hj
  case first =>
    rintro hphase hunkeyed rfl
    have htrained : s.phyTrained (.kindling []) = s.hearthScrub := by
      refine if_pos ?_
      rw [State.each, List.foldl_nil, hphase, hunkeyed]
      rfl
    obtain ⟨hregs, hmem⟩ := s.hearthEmptied.scrubStarted_keeps ((List.range 480).filter isHearthChannel)
    refine ⟨_, (exec_memPhyTrainingDone hrun _).trans (congrArg _ htrained), (congrArg (·.hearthKeyed) hmem).trans rfl,
      fun c hc hhearth => ?_, fun c hother => s.channel_hearthScrub_other hother, hregs⟩
    rw [s.channel_hearthScrub_hearth hc hhearth]
    exact ⟨rfl, rfl, fun b hb => s.viewByte_hearthScrub hc hhearth hb⟩
  case retrain =>
    have htrained : s.phyTrained (.retrain c) = s.modChannel c Channel.endRetrain := State.memRetry_of_none hnone
    refine ⟨_, (exec_memPhyTrainingDone hrun _).trans (congrArg _ htrained), ?_,
      fun d hd => State.channel_modChannel_other _ _ hd, rfl, rfl⟩
    rw [State.channel_modChannel_same]
    rfl

end Sys2Proof.Machine
end

section
/-! PROOFS. A write of LNK_PORT_CFG whose enable is 1 and whose configuration is invalid, with the retrain bit (R449,
R455; O34). -/
namespace Sys2Proof.Machine

theorem State.port_lnkRecord (s : State) (sev : Sev) (code p lane device : Nat) (grove : Option Nat) (r : Nat) :
    (s.lnkRecord sev code p lane device grove).port r = s.port r := by
  simp [State.lnkRecord, State.port]

theorem State.clk_lnkRecord (s : State) (sev : Sev) (code p lane device : Nat) (grove : Option Nat) :
    (s.lnkRecord sev code p lane device grove).clk = s.clk := by
  simp [State.lnkRecord]

theorem State.st_portOff (s : State) (p : Nat) : ((s.portOff p).port p).st = .disabled := by
  unfold State.portOff
  rw [State.port_modPort_same]

theorem State.clk_portOff (s : State) (p : Nat) : (s.portOff p).clk = s.clk := by
  show (s.bumpPort p .LNK_LOST_T .LNK_LOST_B _).clk = s.clk
  unfold State.bumpPort
  split
  · rfl
  · exact State.bump_clk ..

/-- Software forces a retrain of an ACTIVE port only (R449). -/
theorem State.startRetrain_of_not_active {s : State} {p : Nat} (h : (s.port p).st ≠ .active) : s.startRetrain p = s :=
  if_neg (by simpa using h)

section
variable (s : State) {p : Nat} {v : Word} (hcfg : cfgValid p v = false)
include hcfg

/-- An enable whose configuration is invalid leaves the port DISABLED, whatever its state was (R455). -/
theorem State.portEnable_invalid : ((s.portEnable p v).port p).st = .disabled ∧ (s.portEnable p v).clk = s.clk := by
  unfold State.portEnable
  extract_lets r off t
  rw [if_pos (by rw [hcfg]; rfl), State.port_lnkRecord, State.clk_lnkRecord]
  split
  next hoff => exact ⟨eq_of_beq hoff, rfl⟩
  next => exact ⟨t.st_portOff p, t.clk_portOff p⟩

/-- The retrain bit of an invalid write finds the port DISABLED and has no effect. -/
theorem State.writePortCfg_invalid (hen : v.getLsbD 63 = true) : s.writePortCfg p v = s.portEnable p v := by
  obtain ⟨hst, -⟩ := s.portEnable_invalid hcfg
  have hretrain : (s.portEnable p v).startRetrain p = s.portEnable p v :=
    State.startRetrain_of_not_active (by rw [hst]; decide)
  unfold State.writePortCfg
  rw [if_neg (by rw [hen]; decide)]
  dsimp only
  rw [hretrain, ite_self]

end

theorem exec_portRetrain_invalid {s : State} {p : Nat} {v : Word} (hrun : s.islandsRun = true)
    (hrec : s.clk.recov.st = 0) (hprev : s.clk.prev = none) (hen : (v ||| 1#64).getLsbD 63 = true)
    (hcfg : cfgValid p (v ||| 1#64) = false) :
    exec (.portRetrain p v) s = .next (s.portEnable p (v ||| 1#64)) := by
  have hwrite := s.writePortCfg_invalid hcfg hen
  obtain ⟨-, hclk⟩ := s.portEnable_invalid hcfg
  rw [← hwrite] at hclk ⊢
  exact congrArg _ (State.linkEvent_of_clk (f := fun s => s.writePortCfg p (v ||| 1#64)) hrun hrec hprev hclk)

/-- The partner on trunk direction 0 of `trunkUp`. -/
def trunkPartner : PortIdentity := ⟨9, 1, 3, 1, 0, []⟩

/-- A device after reset whose trunk port 0 is ACTIVE on eight live lanes. -/
def trunkUp : State :=
  { State.reset with
    lnk := { ports := [(0, { st := .active, lanes := List.replicate 8 2, partner := some trunkPartner })] } }

/-- LNK_PORT_CFG with enable 1 and every other field 0: min_lanes lies outside 1 to the lanes fitted. -/
def enableOnly : Word := BitVec.ofNat 64 (2 ^ 63)

/-- Refutes O34: the clause of the retrain bit asks for enable 1 but not for a valid configuration. A write of the bit with
min_lanes 0 leaves the ACTIVE port DISABLED (R455), not in RETRAIN. -/
theorem not_portTraining : ¬ Obligations.PortTraining := by
  unfold Obligations.PortTraining
  rintro ⟨-, h⟩
  have hrun : trunkUp.islandsRun = true := by decide
  have hcfg : cfgValid 0 (enableOnly ||| 1#64) = false := by decide
  obtain ⟨hretrain, -⟩ :=
    h trunkUp 0 0 0 enableOnly trunkPartner trunkPartner (.portRetrain 0 enableOnly) hrun (by decide) rfl rfl
  obtain ⟨t, ht, hst, -⟩ := hretrain (.inr ⟨rfl, by decide⟩) rfl
  have hexec := exec_portRetrain_invalid hrun rfl rfl (by decide) hcfg
  obtain rfl : trunkUp.portEnable 0 (enableOnly ||| 1#64) = t := Host.Outcome.next.inj (hexec.symm.trans ht)
  obtain ⟨hoff, -⟩ := trunkUp.portEnable_invalid hcfg
  rw [hoff] at hst
  exact absurd hst (by decide)

end Sys2Proof.Machine
end

section
/-! PROOFS. What a step is (O1), what it does on an empty queue (O2), and what every step keeps: the front of the queue
alone is taken (O3), the canonical form of memory (O5) and the outputs (O6). -/
namespace Sys2Proof.Machine

/-- A step keeps what every command and the idle tick keep, and takes the front off the queue. -/
theorem step_kept {s t : State} (h : step s = .next t) : Kept (s.withPending s.pending.tail) t := by
  unfold step at h
  split at h
  next hempty =>
    obtain rfl := Host.Outcome.next.inj h
    rw [hempty]
    have hs : s.withPending [] = s := by rw [← hempty]; rfl
    exact hs.symm ▸ State.unheld_kept (Kept.refl s) fun _ => State.tick_kept
  next i rest hpending =>
    rw [hpending]
    exact exec_kept i h

/-- Settles O1: by the definition of a step. -/
theorem stepTakesTheFront : Obligations.StepTakesTheFront := by
  intro s c rest hpending
  unfold step
  rw [hpending]

/-- On an empty queue a microsecond passes, unless RESET_N holds the device. -/
theorem step_idle {s : State} (hempty : s.pending = []) (hheld : s.sup.recovery ≠ .resetHeld) : step s = .next s.tick := by
  unfold step
  rw [hempty]
  exact congrArg _ (if_neg (by simpa using hheld))

/-- A device after reset under the droop clamp, whose PWR_CLAMP_US stands at its maximum of 2^48 - 1. -/
def clampedFull : State :=
  { State.reset with
    clk := { State.reset.clk with droop := true }
    regs := [(regAddr .PWR_CLAMP_US [], BitVec.ofNat 64 (2 ^ 48 - 1))] }

/-- The counter's overflow is recorded (R150), so the tick fills the log. -/
theorem log_tick_clampedFull : (clampedFull.tick.wch.log).length = 1 := by decide

/-- Refutes O2: a tick changes more than the two counters when one saturates: the STAT_OVERFLOW record enters the log. -/
theorem not_idleTick : ¬ Obligations.IdleTick := by
  unfold Obligations.IdleTick
  intro h
  obtain ⟨-, hruns⟩ := h clampedFull rfl
  obtain ⟨t, hstep, -, hsame, -⟩ := hruns (by decide)
  have hwch : t.wch = clampedFull.wch := congrArg (·.wch) hsame
  rw [step_idle rfl (by decide)] at hstep
  rw [← Host.Outcome.next.inj hstep] at hwch
  have hlen := log_tick_clampedFull
  rw [hwch] at hlen
  exact absurd hlen (by decide)

/-- Settles O5: every command keeps the canonical form (`exec_kept`), and so does the idle tick. -/
theorem memoryStaysCanonical : Obligations.MemoryStaysCanonical := by
  intro s t hwf hstep
  have hkept := step_kept hstep
  rw [State.memWf, Bool.and_eq_true] at hwf ⊢
  obtain ⟨hcells, hscratch⟩ := hwf
  exact ⟨hkept.cells hcells, hkept.scratch hscratch⟩

/-- Settles O6: every command leaves the outputs as the phase has them (`exec_kept`). -/
theorem outputsFollowPhase : Obligations.OutputsFollowPhase :=
  fun _ _ hright hstep => (step_kept hstep).outputs hright

/-- No arm of `exec` faults or refuses. -/
theorem exec_next (i : Instr) (s : State) : ∃ t, exec i s = .next t := by
  cases i <;> exact ⟨_, rfl⟩

/-- Settles O3: a step is an idle tick or a command's arm, both of which answer a state, and both keep the rest of the
queue and what was sent. -/
theorem everyStepAnswers : Obligations.EveryStepAnswers := by
  intro s
  have hnext : ∃ t, step s = .next t := by
    unfold step
    split
    next => exact ⟨_, rfl⟩
    next i rest _ => exact exec_next i _
  obtain ⟨t, ht⟩ := hnext
  have hkept := step_kept ht
  exact ⟨t, ht, hkept.pending, hkept.outbox⟩

end Sys2Proof.Machine
end

section
/-! PROOFS. The error log's tail and state (R533, R547, R548; O28). -/
namespace Sys2Proof.Machine

section
variable {s : State} {v : Word}

theorem exec_wchLogTailWrite (hheld : s.sup.recovery ≠ .resetHeld) :
    exec (.wchLogTailWrite v) s = .next (s.writeTail v) := congrArg _ (State.unheld_of hheld _)

theorem exec_wchLogStateWrite (hheld : s.sup.recovery ≠ .resetHeld) :
    exec (.wchLogStateWrite v) s = .next (s.writeLogState v) := congrArg _ (State.unheld_of hheld _)

/-- A tail that leaves more than the log holds is discarded (R547). -/
theorem State.writeTail_of_gt (h : 1024 < subMod 32 (s.regFld .WCH_LOG_HEAD [] 0 32) (wfld v 0 32)) :
    s.writeTail v = s := if_pos h

/-- A tail that leaves no more is stored. -/
theorem State.writeTail_of_le (h : subMod 32 (s.regFld .WCH_LOG_HEAD [] 0 32) (wfld v 0 32) ≤ 1024)
    (hnone : s.wch.droppedSince = 0) : s.writeTail v = s.softWrite .WCH_LOG_TAIL [] v := by
  unfold State.writeTail
  rw [if_neg (Nat.not_lt.mpr h)]
  exact if_neg (by simp [State.softWrite, hnone])

/-- With room again, one record counts the dropped ones (R548). -/
theorem State.writeTail_of_lt (h : subMod 32 (s.regFld .WCH_LOG_HEAD [] 0 32) (wfld v 0 32) < 1024)
    (hsome : s.wch.droppedSince ≠ 0) :
    s.writeTail v =
      { s.softWrite .WCH_LOG_TAIL [] v with wch := { s.wch with droppedSince := 0 } }.record .wch .deferred 2 0x08 none
        (s.wch.droppedSince % 2 ^ 32) := by
  unfold State.writeTail
  rw [if_neg (by omega)]
  exact if_pos (Bool.and_eq_true_iff.mpr ⟨decide_eq_true hsome, decide_eq_true h⟩)

/-- What the log holds between its new tail and its head decides its room. -/
theorem State.logRoom_writeTail (w : WatchState) :
    { s.softWrite .WCH_LOG_TAIL [] v with wch := w }.logRoom =
      decide (subMod 32 (s.regFld .WCH_LOG_HEAD [] 0 32) (wfld v 0 32) < 1024) := by
  have hhead : (s.softWrite .WCH_LOG_TAIL [] v).getReg .WCH_LOG_HEAD [] = s.getReg .WCH_LOG_HEAD [] :=
    State.getReg_putReg_other _ _ (by decide)
  have htail : wfld ((s.softWrite .WCH_LOG_TAIL [] v).getReg .WCH_LOG_TAIL []) 0 32 = wfld v 0 32 := by
    rw [State.getReg_softWrite_same]
    exact wfld_accessWrite (by decide) (by decide) _ v
  show decide (subMod 32 (wfld ((s.softWrite .WCH_LOG_TAIL [] v).getReg .WCH_LOG_HEAD []) 0 32)
    (wfld ((s.softWrite .WCH_LOG_TAIL [] v).getReg .WCH_LOG_TAIL []) 0 32) < 1024) = _
  rw [hhead, htail]
  rfl

end

@[simp] theorem State.keepFatal_droppedSince (s : State) (r : LogRec) :
    (s.keepFatal r).wch.droppedSince = s.wch.droppedSince := by
  unfold State.keepFatal
  split <;> rfl

/-- With room, a record drops nothing. -/
theorem State.droppedSince_logRec (s : State) (r : LogRec) (h : s.logRoom = true) :
    (s.logRec r).wch.droppedSince = s.wch.droppedSince := by
  rw [State.logRec_room s r h, State.keepFatal_droppedSince, State.notify_wch, State.alerted_wch]
  rfl

/-- Settles O28: the tail's three cases, and the two of WCH_LOG_STATE. -/
theorem logRegisters : Obligations.LogRegisters := by
  intro s v hheld
  refine ⟨fun hgt => ?_, fun hle hnone => ?_, fun hlt hsome => ?_, fun hbit => ?_, fun hbit => ?_⟩
  · rw [exec_wchLogTailWrite hheld, State.writeTail_of_gt hgt]
  · exact ⟨_, (exec_wchLogTailWrite hheld).trans (congrArg _ (State.writeTail_of_le hle hnone)),
      State.getReg_softWrite_same .., fun a ha => State.tget_regs_softWrite_other _ _ _ _ ha, State.softWrite_frame ..⟩
  · have hroom := (State.logRoom_writeTail (s := s) (v := v) { s.wch with droppedSince := 0 }).trans (decide_eq_true hlt)
    refine ⟨_, _, (exec_wchLogTailWrite hheld).trans (congrArg _ (State.writeTail_of_lt hlt hsome)), ?_,
      State.lastRecord_record _ _ _ _ _ _ _ rfl hroom, rfl, rfl, rfl, rfl, ?_⟩
    · rw [State.record_plain _ _ _ _ _ _ _ rfl, State.droppedSince_logRec _ _ hroom]
    · show s.wch.droppedSince % 2 ^ 32 % 2 ^ 64 = _
      omega
  · exact ⟨_, (exec_wchLogStateWrite hheld).trans (congrArg _ (if_pos hbit)), State.getReg_putReg_same ..,
      fun a ha => tget_tset_other _ _ ha, rfl⟩
  · exact (exec_wchLogStateWrite hheld).trans (congrArg _ (if_neg (by rw [hbit]; decide)))

end Sys2Proof.Machine
end

section
/-! PROOFS. What records, writes to memory, completions and closing ports leave: a property that does not look at what
they change holds after them as before. -/
namespace Sys2Proof.Machine

/-- A register of the watch block or of a block above it. -/
def Reg.far (r : Reg) : Bool := decide (0x30000 ≤ (regDesc r).base)

theorem Reg.far_regAddr {r : Reg} (h : r.far = true) (ix : List Nat) : 0x30000 ≤ regAddr r ix :=
  Nat.le_trans (of_decide_eq_true h) (Nat.le_add_right _ _)

/-- A property that does not look at what records change: registers from the watch block on, interrupts, the log, heat,
SMB_ALERT_N and the causes. -/
structure RecordFree (P : State → Prop) : Prop where
  regs : ∀ {s : State} (a : Nat) (v : Word), 0x30000 ≤ a → P s → P { s with regs := tset s.regs a v }
  irqs : ∀ {s : State} (l : List Nat), P s → P { s with irqs := l }
  wch : ∀ {s : State} (w : WatchState), w.tiles = s.wch.tiles → w.tests = s.wch.tests → P s → P { s with wch := w }
  sup : ∀ {s : State} (low : Bool) (causes : List (Src × Nat × Nat)), P s →
    P { s with sup := { s.sup with alertLow := low, causes := causes } }

/-- A property that does not look at what writes to memory and completions change either: the stacks, the command
queues, and what the Kiln holds beside its plans. -/
structure WriteFree (P : State → Prop) : Prop extends RecordFree P where
  mem : ∀ {s : State} (m : MemState), P s → P { s with mem := m }
  kln : ∀ {s : State} (k : KilnState), k.plans = s.kln.plans → P s → P { s with kln := k }
  queues : ∀ {s : State} (q : Tbl Queue), P s → P { s with hrt := { s.hrt with queues := q } }

/-! ## Registers and records (R525 to R549) -/

namespace RecordFree

variable {P : State → Prop} (hP : RecordFree P) {s : State}
include hP

theorem putReg {r : Reg} (ix : List Nat) (v : Word) (hr : r.far = true) (h : P s) : P (s.putReg r ix v) :=
  hP.regs _ _ (Reg.far_regAddr hr ix) h

theorem putFld {r : Reg} (ix : List Nat) (lo w x : Nat) (hr : r.far = true) (h : P s) : P (s.putFld r ix lo w x) :=
  hP.putReg _ _ hr h

theorem interrupt (core : Nat) (h : P s) : P (s.interrupt core) := hP.irqs _ h

theorem notify (sev : Sev) (h : P s) : P (s.notify sev) := by
  unfold State.notify
  split
  · exact hP.irqs _ h
  · exact h

theorem keepFatal (r : LogRec) (h : P s) : P (s.keepFatal r) := by
  unfold State.keepFatal
  split
  · exact hP.sup s.sup.alertLow _ (hP.wch { s.wch with fatal := some (s.wch.fatal.getD r) } rfl rfl h)
  · exact h

theorem alerted (sev : Sev) (h : P s) : P (s.alerted sev) := by
  unfold State.alerted
  split
  · exact h
  · exact hP.sup true s.sup.causes h

theorem logRec (r : LogRec) (h : P s) : P (s.logRec r) := by
  cases hroom : s.logRoom
  · rw [State.logRec_full r hroom]
    exact hP.keepFatal _ (hP.wch _ rfl rfl (hP.putFld _ _ _ _ rfl (hP.putFld _ _ _ _ rfl (hP.putReg _ _ rfl h))))
  · rw [State.logRec_room s r hroom]
    exact hP.keepFatal _ (hP.notify _ (hP.alerted _ (hP.putFld _ _ _ _ rfl (hP.wch _ rfl rfl h))))

theorem addHeat (w g : Nat) (h : P s) : P (s.addHeat w g) := by
  have hheat : P { s with wch := { s.wch with heat := tset s.wch.heat g (min 0xFFFF (tgetD s.wch.heat g 0 + w)) } } :=
    hP.wch _ rfl rfl h
  unfold State.addHeat
  dsimp only
  split
  · exact hP.logRec _ (hP.putFld _ _ _ _ rfl hheat)
  · exact hheat

theorem heatOn (w : Nat) (gs : List Nat) (h : P s) : P (s.heatOn w gs) :=
  State.each_keeps (fun _ _ hb => hP.addHeat _ _ hb) gs h

theorem record (src : Src) (sev : Sev) (die code : Nat) (grove : Option Nat) (detail : Nat) (h : P s) :
    P (s.record src sev die code grove detail) := by
  unfold State.record
  dsimp only
  split
  · exact hP.heatOn _ _ (hP.logRec _ h)
  · exact hP.logRec _ h

theorem bump {r : Reg} (ix : List Nat) (n : Nat) (hr : r.far = true) (h : P s) : P (s.bump r ix n) := by
  unfold State.bump
  dsimp only
  split
  · exact hP.record _ _ _ _ _ _ (hP.putReg _ _ hr h)
  · exact hP.putReg _ _ hr h

theorem noteUe (c line : Nat) (h : P s) : P (s.noteUe c line) := hP.putReg _ _ rfl (hP.bump _ _ rfl h)

theorem ueRecord (sev : Sev) (c line : Nat) (h : P s) : P (s.ueRecord sev c line) :=
  hP.heatOn _ _ (hP.record _ _ _ _ _ _ h)

theorem writeFails (p : Party) (o : Nat) (r : Acc × Nat × Nat) (h : P s) : P (s.writeFails p o r).1 := by
  unfold State.writeFails
  split
  · exact hP.ueRecord _ _ _ (hP.noteUe _ _ h)
  · show P (s.unmappedRecord p o)
    unfold State.unmappedRecord
    exact hP.record _ _ _ _ _ _ h
  · exact h

theorem klnRecord (code g slot destDie detail : Nat) (h : P s) : P (s.klnRecord code g slot destDie detail) := by
  unfold State.klnRecord
  exact hP.record _ _ _ _ _ _ (hP.putReg _ _ rfl h)

theorem bumpPort (p : Nat) {t b : Reg} (n : Nat) (ht : t.far = true) (hb : b.far = true) (h : P s) :
    P (s.bumpPort p t b n) := by
  have hreg : (portReg p t b).far = true := by
    unfold portReg
    split
    · exact ht
    · exact hb
  unfold State.bumpPort
  split
  · exact h
  · exact hP.bump _ _ hreg h

/-- A port that is closed counts what it loses. -/
theorem portsOff (hlnk : ∀ {b : State} (x : LinkState), P b → P { b with lnk := x }) (h : P s) : P s.portsOff := by
  refine State.each_keeps (fun b p hb => ?_) _ h
  split
  · exact hb
  · exact hlnk _ (hP.bumpPort _ _ rfl rfl hb)

end RecordFree

/-! ## Writes to memory (R391 to R397) and completions (R99) -/

namespace WriteFree

variable {P : State → Prop} (hP : WriteFree P) {s : State}
include hP

theorem modChannel (c : Nat) (f : Channel → Channel) (h : P s) : P (s.modChannel c f) := hP.mem _ h

theorem putLine (c line : Nat) (bs : List Byte) (h : P s) : P (s.putLine c line bs) := hP.mem _ h

theorem evictWcb (c : Nat) (e : WcbEntry) (h : P s) : P (s.evictWcb c e) := by
  have hput := fun bs => hP.putLine c e.line bs (hP.modChannel c
    (fun ch => { ch with wcb := ch.wcb.filter (·.line != e.line) }) h)
  unfold State.evictWcb
  dsimp only
  repeat' split
  · exact hP.ueRecord _ _ _ (hP.noteUe _ _ (hP.modChannel _ _ h))
  · exact hP.bump _ _ rfl (hput _)
  · exact hput _

theorem flushAdder (c : Nat) (a : Nat × List Byte) (h : P s) : P (s.flushAdder c a) :=
  hP.putLine _ _ _ (hP.modChannel _ _ h)

theorem settleAdder (c line : Nat) (h : P s) : P (s.settleAdder c line) := by
  unfold State.settleAdder
  split
  · exact hP.flushAdder _ _ h
  · exact h

theorem flushBuffers (p : Nat → Bool) (h : P s) : P (s.flushBuffers p) := by
  refine State.each_keeps (fun b c hb => ?_) _ h
  split
  · exact State.each_keeps (fun _ a ha => hP.flushAdder _ a ha) _
      (State.each_keeps (fun _ e he => hP.evictWcb _ e he) _ hb)
  · exact hb

theorem writeLine (c line pos : Nat) (bs : List Byte) (grove : Nat) (h : P s) :
    P (s.writeLine c line pos bs grove).1 := by
  have hsettled := hP.settleAdder c line h
  have hfresh := fun p => (hP.mem _ hsettled : P ((s.settleAdder c line).unsaturate p))
  unfold State.writeLine
  dsimp only
  repeat' split
  · exact hP.putLine _ _ _ (hP.modChannel _ _ (hP.mem _ h))
  · exact hP.noteUe _ _ hsettled
  · exact hP.putLine _ _ _ (hP.modChannel _ _ (hfresh _))
  · exact hP.modChannel _ _ (hfresh _)
  · exact hP.modChannel _ _ (hP.evictWcb _ _ (hfresh _))
  · exact hP.modChannel _ _ (hfresh _)
  · exact hP.modChannel _ _ (hfresh _)

theorem putPage (g o : Nat) (bs : List Byte) (h : P s) : P (s.putPage g o bs) := by
  refine State.each_keeps (fun b i hb => ?_) _ h
  split
  · exact hP.writeLine _ _ _ _ _ hb
  · exact hb

theorem touchWait (g : Nat) (h : P s) : P (s.touchWait g) := by
  unfold State.touchWait
  split
  · split
    · exact h
    · exact hP.record _ _ _ _ _ _ (hP.putReg _ _ rfl (hP.kln _ rfl h))
  · exact h

theorem touchPage (page : Nat) (h : P s) : P (s.touchPage page) := by
  unfold State.touchPage
  split
  · exact h
  · split
    · exact h
    · extract_lets die bs free waited old noted kept kln copied touches
      have hwaited : P waited := by
        unfold waited
        split
        · exact hP.touchWait _ h
        · exact h
      have htouches : P touches := hP.bump _ _ rfl (hP.bump _ _ rfl (hP.kln _ rfl hwaited))
      split
      · exact hP.putPage _ _ _ htouches
      · exact htouches

theorem touch (o : Nat) (h : P s) : P (s.touch o) := by
  unfold State.touch
  split
  · exact h
  · exact hP.touchPage _ h

theorem writeLocal (p : Party) (o : Nat) (bs : List Byte) (h : P s) : P (s.writeLocal p o bs).1 := by
  unfold State.writeLocal
  split
  · refine State.foldl_keeps (fun q k hq => ?_) _ h
    split
    · exact hP.writeLine _ _ _ _ _ (hP.touch _ hq)
    · exact hq
  · exact hP.writeFails _ _ _ h

theorem complete (q i : Nat) (st : Status) (result : Nat) (h : P s) : P (s.complete q i st result) := by
  unfold State.complete
  split
  · exact h
  · extract_lets n size written counted
    have hcounted : P counted := hP.queues _ (hP.writeLocal _ _ _ h)
    split
    · exact hP.interrupt _ hcounted
    · exact hcounted

/-- A firing that is aborted is counted and its FIRE completes (R574). -/
theorem abortFiring (g : Nat) (item : Nat) (h : P s) : P (s.abortFiring g none item) := by
  unfold State.abortFiring
  split
  · exact h
  · have hcounted : P (s.bump .KLN_ABORTS [0]) := hP.bump _ _ rfl h
    unfold State.endFiring
    dsimp only
    split
    · exact hcounted
    · exact hP.complete _ _ _ _ (hP.kln _ rfl hcounted)

/-- A firing that a reset or the ash state strikes is aborted, and so are the STEP_OPENs it holds. -/
theorem strikeFiring (hheld : ∀ {b : State} (l : List (Nat × Nat)), P b →
    P { b with col := { b.col with heldOpens := l } }) (g : Nat) (h : P s) : P (s.strikeFiring g) := by
  unfold State.strikeFiring
  split
  · exact h
  · exact State.each_keeps (fun _ _ hb => hP.complete _ _ _ _ hb) _ (hheld _ (hP.abortFiring _ _ h))

end WriteFree

end Sys2Proof.Machine
end

section
/-! PROOFS. The records of the CLK and PWR blocks (R609, R610, R623): with room the log takes them last, and registers of
the blocks below the watch stay but for FAULT_LAST. -/
namespace Sys2Proof.Machine

/-! ## Records that add no heat -/

theorem State.boundGroves_congr {s t : State} (h : t.grv = s.grv) : t.boundGroves = s.boundGroves := by
  simp [State.boundGroves, State.grove, h]

theorem State.heatOn_nil (s : State) (w : Nat) : s.heatOn w [] = s := rfl

/-- A corrected record, or one on a device without groves, adds no heat. -/
theorem State.record_heatless {s : State} {sev : Sev} (h : sev = .corrected ∨ s.boundGroves = []) (src : Src) (die code : Nat)
    (g : Option Nat) (detail : Nat) : s.record src sev die code g detail = s.logRec (s.mkRec src sev die code g detail) := by
  unfold State.record
  dsimp only
  split
  next hheat =>
    have hsev : sev ≠ .corrected := by
      rintro rfl
      simp at hheat
    have hnone : (s.logRec (s.mkRec src sev die code g detail)).boundGroves = [] := by
      rw [State.boundGroves_congr (State.logRec_noted _ (Noted.refl s)).grv]
      exact h.resolve_left hsev
    rw [hnone, State.heatOn_nil]
  next => rfl

/-! ## The fatal record is the first (R533) -/

theorem State.fatal_keepFatal {s : State} {r : LogRec} (h : r.sev ≠ .fatal) : (s.keepFatal r).wch.fatal = s.wch.fatal := by
  unfold State.keepFatal
  rw [if_neg (by simpa using h)]

theorem State.fatal_logRec {s : State} {r : LogRec} (h : r.sev ≠ .fatal) : (s.logRec r).wch.fatal = s.wch.fatal := by
  cases hroom : s.logRoom
  · rw [State.logRec_full r hroom]
    exact State.fatal_keepFatal h
  · rw [State.logRec_room s r hroom]
    generalize hx : { r with seq := s.regFld .WCH_LOG_HEAD [] 0 32 } = x
    have hsev : x.sev ≠ .fatal := by
      rw [← hx]
      exact h
    rw [State.fatal_keepFatal hsev, State.notify_wch, State.alerted_wch]
    rfl

theorem State.fatal_heatOn (s : State) (w : Nat) (gs : List Nat) : (s.heatOn w gs).wch.fatal = s.wch.fatal := by
  refine State.each_keeps (P := fun t => t.wch.fatal = s.wch.fatal) (fun b g hb => ?_) gs rfl
  refine Eq.trans ?_ hb
  unfold State.addHeat
  dsimp only
  split
  · exact State.fatal_logRec (r := State.mkRec _ .wch .corrected 2 0x06 (some g) 0) (by nofun)
  · rfl

/-- Only a fatal record fills WCH_FATAL. -/
theorem State.fatal_record (s : State) (src : Src) {sev : Sev} (h : sev ≠ .fatal) (die code : Nat) (g : Option Nat)
    (detail : Nat) : (s.record src sev die code g detail).wch.fatal = s.wch.fatal := by
  unfold State.record
  dsimp only
  split
  · exact (State.fatal_heatOn ..).trans (State.fatal_logRec h)
  · exact State.fatal_logRec h

@[simp] theorem State.fatal_bump (s : State) (r : Reg) (ix : List Nat) (n : Nat) :
    (s.bump r ix n).wch.fatal = s.wch.fatal := by
  unfold State.bump
  dsimp only
  split
  · exact State.fatal_record _ _ (by decide) ..
  · rfl

/-- A fatal record of any source stands in WCH_FATAL when it is the first. -/
theorem State.fatal_first {s : State} (hnone : s.wch.fatal = none) (src : Src) (die code : Nat) (grove : Option Nat)
    (detail : Nat) :
    ∃ r, (s.fatal src die code grove detail).wch.fatal = some r ∧ r.src = src ∧ r.sev = .fatal ∧ r.die = die ∧
      r.code = code := by
  have hlogged := State.logRec_fatal (r := s.mkRec src .fatal die code grove detail) rfl hnone
  have hrecord : FatalKept (s.logRec (s.mkRec src .fatal die code grove detail)) (s.record src .fatal die code grove detail) := by
    unfold State.record
    dsimp only
    split
    · exact State.heatOn_fkept _ _ (FatalKept.refl _)
    · exact FatalKept.refl _
  exact ⟨_, (State.ashEntry_fkept _ _ (FatalKept.refl _)).fatal _ (hrecord.fatal _ hlogged), rfl, rfl, rfl, rfl⟩

theorem State.phase_fatal_ash (s : State) (src : Src) (die code : Nat) (grove : Option Nat) (detail : Nat) :
    (s.fatal src die code grove detail).sup.phase = .ash := State.phase_ashEntry_ash ..

/-! ## Registers below the watch block -/

/-- A register below the watch block is none that a record writes. -/
theorem recordFree_getReg {r : Reg} {ix : List Nat} (h : regAddr r ix < 0x30000) (v : Word) :
    RecordFree fun t => t.getReg r ix = v where
  regs a w ha ht := by
    rw [← ht]
    exact tgetD_tset_other _ _ _ (by omega)
  irqs _ ht := ht
  wch _ _ _ ht := ht
  sup _ _ ht := ht

theorem State.getReg_record_low (s : State) {r : Reg} {ix : List Nat} (h : regAddr r ix < 0x30000) (src : Src) (sev : Sev)
    (die code : Nat) (g : Option Nat) (detail : Nat) : (s.record src sev die code g detail).getReg r ix = s.getReg r ix :=
  (recordFree_getReg h _).record _ _ _ _ _ _ rfl

theorem State.getReg_bump_low (s : State) {r : Reg} {ix : List Nat} (h : regAddr r ix < 0x30000) (n : Nat) :
    (s.bump r ix n).getReg r ix = (statAdd (s.getReg r ix) n).1 := by
  unfold State.bump
  dsimp only
  split
  · rw [State.getReg_record_low _ h, State.getReg_putReg_same]
  · exact State.getReg_putReg_same ..

theorem State.getReg_bump_low_other (s : State) {r q : Reg} {ix jx : List Nat} (h : regAddr q jx < 0x30000)
    (hne : regAddr q jx ≠ regAddr r ix) (n : Nat) : (s.bump r ix n).getReg q jx = s.getReg q jx := by
  unfold State.bump
  dsimp only
  split
  · rw [State.getReg_record_low _ h, State.getReg_putReg_other _ _ hne]
  · exact State.getReg_putReg_other _ _ hne

/-- A register below the watch block leaves the log's room. -/
theorem State.logRoom_putReg_low (s : State) {r : Reg} {ix : List Nat} (h : regAddr r ix < 0x30000) (v : Word) :
    (s.putReg r ix v).logRoom = s.logRoom := by
  have hhead : 0x30000 ≤ regAddr .WCH_LOG_HEAD [] := by decide
  have htail : 0x30000 ≤ regAddr .WCH_LOG_TAIL [] := by decide
  exact State.logRoom_putReg v (by omega) (by omega)

theorem State.logRoom_congr {s t : State} (h : t.regs = s.regs) : t.logRoom = s.logRoom := by
  unfold State.logRoom State.regFld State.getReg
  rw [h]

/-- A counter that does not saturate is counted without a record. -/
theorem State.bump_quiet {s : State} {r : Reg} {ix : List Nat} {n : Nat} (h : (statAdd (s.getReg r ix) n).2 = false) :
    s.bump r ix n = s.putReg r ix (statAdd (s.getReg r ix) n).1 := if_neg (by simp [h])

/-! ## Records of the PWR and CLK blocks -/

section
variable (s : State) {sev : Sev}

theorem State.pwrRecord_eq (h : sev ≠ .fatal) (die code item value : Nat) :
    s.pwrRecord sev die code item value =
      (s.putReg .PWR_FAULT_LAST [] (faultWord s code item value)).record .pwr sev die code none
        (item + value % 2 ^ 16 * 2 ^ 8) := by
  unfold State.pwrRecord
  exact if_neg (by simpa using h)

theorem State.pwrRecord_fatal (die code item value : Nat) :
    s.pwrRecord .fatal die code item value =
      (s.putReg .PWR_FAULT_LAST [] (faultWord s code item value)).fatal .pwr die code none (item + value % 2 ^ 16 * 2 ^ 8) := by
  unfold State.pwrRecord
  exact if_pos rfl

theorem State.clkRecord_eq (h : sev ≠ .fatal) (die code item value : Nat) : ∃ d,
    s.clkRecord sev die code item value =
      (s.putReg .CLK_FAULT_LAST [] (faultWord s code item value)).record .clk sev die code none d := by
  unfold State.clkRecord
  exact ⟨_, if_neg (by simpa using h)⟩

theorem State.clkRecord_fatal (die code item value : Nat) : ∃ d,
    s.clkRecord .fatal die code item value =
      (s.putReg .CLK_FAULT_LAST [] (faultWord s code item value)).fatal .clk die code none d := by
  unfold State.clkRecord
  exact ⟨_, if_pos rfl⟩

theorem State.pwrRecord_noted (h : sev ≠ .fatal) (die code item value : Nat) :
    Noted s (s.pwrRecord sev die code item value) := by
  rw [s.pwrRecord_eq h]
  exact State.record_noted _ _ _ _ _ _ (State.putReg_noted _ _ _ (Noted.refl s))

theorem State.clkRecord_noted (h : sev ≠ .fatal) (die code item value : Nat) :
    Noted s (s.clkRecord sev die code item value) := by
  obtain ⟨d, hd⟩ := s.clkRecord_eq h die code item value
  rw [hd]
  exact State.record_noted _ _ _ _ _ _ (State.putReg_noted _ _ _ (Noted.refl s))

/-- With room, a record that adds no heat is the log's last. -/
theorem State.pwrRecord_last (h : sev ≠ .fatal) (hheat : sev = .corrected ∨ s.boundGroves = []) (hroom : s.logRoom = true)
    (die code item value : Nat) :
    ∃ r, (s.pwrRecord sev die code item value).lastRecord = some r ∧ r.src = .pwr ∧ r.sev = sev ∧ r.code = code ∧
      r.die = die := by
  have hheat' : sev = .corrected ∨ (s.putReg .PWR_FAULT_LAST [] (faultWord s code item value)).boundGroves = [] := hheat
  rw [s.pwrRecord_eq h, State.record_heatless hheat']
  exact ⟨_, State.lastRecord_logRec _ _ ((s.logRoom_putReg_low (by decide) _).trans hroom), rfl, rfl, rfl, rfl⟩

theorem State.clkRecord_last (h : sev ≠ .fatal) (hheat : sev = .corrected ∨ s.boundGroves = []) (hroom : s.logRoom = true)
    (die code item value : Nat) :
    ∃ r, (s.clkRecord sev die code item value).lastRecord = some r ∧ r.src = .clk ∧ r.sev = sev ∧ r.code = code ∧
      r.die = die := by
  obtain ⟨d, hd⟩ := s.clkRecord_eq h die code item value
  have hheat' : sev = .corrected ∨ (s.putReg .CLK_FAULT_LAST [] (faultWord s code item value)).boundGroves = [] := hheat
  rw [hd, State.record_heatless hheat']
  exact ⟨_, State.lastRecord_logRec _ _ ((s.logRoom_putReg_low (by decide) _).trans hroom), rfl, rfl, rfl, rfl⟩

theorem State.fatal_pwrRecord (h : sev ≠ .fatal) (die code item value : Nat) :
    (s.pwrRecord sev die code item value).wch.fatal = s.wch.fatal := by
  rw [s.pwrRecord_eq h]
  exact State.fatal_record _ _ h ..

theorem State.getReg_pwrRecord (h : sev ≠ .fatal) {r : Reg} {ix : List Nat} (hlow : regAddr r ix < 0x30000)
    (hne : regAddr r ix ≠ regAddr .PWR_FAULT_LAST []) (die code item value : Nat) :
    (s.pwrRecord sev die code item value).getReg r ix = s.getReg r ix := by
  rw [s.pwrRecord_eq h, State.getReg_record_low _ hlow, State.getReg_putReg_other _ _ hne]

theorem State.getReg_clkRecord (h : sev ≠ .fatal) {r : Reg} {ix : List Nat} (hlow : regAddr r ix < 0x30000)
    (hne : regAddr r ix ≠ regAddr .CLK_FAULT_LAST []) (die code item value : Nat) :
    (s.clkRecord sev die code item value).getReg r ix = s.getReg r ix := by
  obtain ⟨d, hd⟩ := s.clkRecord_eq h die code item value
  rw [hd, State.getReg_record_low _ hlow, State.getReg_putReg_other _ _ hne]

end

/-! ## Points that are sought again (R598, R599) -/

section
variable (s : State)

theorem State.retarget_frame (d : Nat) : ∃ l, s.retarget d = { s with clk := { s.clk with dvfs := l } } := s.retarget_eq d

theorem State.retargetAll_frame : ∃ l, s.retargetAll = { s with clk := { s.clk with dvfs := l } } := s.retargetAll_eq

/-- The point a die should have depends on the clamps, its request and its stacks. -/
theorem State.wantedPoint_dvfs (l : List Dvfs) (d : Nat) :
    { s with clk := { s.clk with dvfs := l } }.wantedPoint d = s.wantedPoint d := (rfl)

theorem State.retargetAll_rest : { s.retargetAll with clk := s.clk } = s := by
  obtain ⟨l, hl⟩ := s.retargetAll_eq
  rw [hl]
  rfl

theorem State.retargetAll_clock : { s.retargetAll.clk with dvfs := s.clk.dvfs } = s.clk := by
  obtain ⟨l, hl⟩ := s.retargetAll_eq
  rw [hl]
  rfl

@[simp] theorem State.retargetAll_regs : s.retargetAll.regs = s.regs := (congrArg State.regs s.retargetAll_rest :)
@[simp] theorem State.retargetAll_mem : s.retargetAll.mem = s.mem := (congrArg State.mem s.retargetAll_rest :)
@[simp] theorem State.retargetAll_grv : s.retargetAll.grv = s.grv := (congrArg State.grv s.retargetAll_rest :)
@[simp] theorem State.retargetAll_wch : s.retargetAll.wch = s.wch := (congrArg State.wch s.retargetAll_rest :)
@[simp] theorem State.retargetAll_sup : s.retargetAll.sup = s.sup := (congrArg State.sup s.retargetAll_rest :)
@[simp] theorem State.retargetAll_therm : s.retargetAll.clk.therm = s.clk.therm :=
  (congrArg ClockState.therm s.retargetAll_clock :)
@[simp] theorem State.retargetAll_capClamp : s.retargetAll.clk.capClamp = s.clk.capClamp :=
  (congrArg ClockState.capClamp s.retargetAll_clock :)
@[simp] theorem State.retargetAll_capLow : s.retargetAll.clk.capLow = s.clk.capLow :=
  (congrArg ClockState.capLow s.retargetAll_clock :)
@[simp] theorem State.retargetAll_droop : s.retargetAll.clk.droop = s.clk.droop :=
  (congrArg ClockState.droop s.retargetAll_clock :)

@[simp] theorem State.getReg_retargetAll (r : Reg) (ix : List Nat) : s.retargetAll.getReg r ix = s.getReg r ix :=
  State.getReg_congr s.retargetAll_regs r ix

@[simp] theorem State.getReg_modClk (f : ClockState → ClockState) (r : Reg) (ix : List Nat) :
    (s.modClk f).getReg r ix = s.getReg r ix := (rfl)

@[simp] theorem State.lastRecord_retargetAll : s.retargetAll.lastRecord = s.lastRecord :=
  State.lastRecord_congr s.retargetAll_regs s.retargetAll_wch

@[simp] theorem State.lastRecord_modClk (f : ClockState → ClockState) : (s.modClk f).lastRecord = s.lastRecord :=
  State.lastRecord_congr rfl rfl

theorem State.wantedPoint_retargetAll (d : Nat) : s.retargetAll.wantedPoint d = s.wantedPoint d := by
  obtain ⟨l, hl⟩ := s.retargetAll_frame
  rw [hl, s.wantedPoint_dvfs]

end

end Sys2Proof.Machine
end

section
/-! PROOFS. Writes of PWR_THERM_CFG (R619; O49). -/
namespace Sys2Proof.Machine

/-! ## Entries of the log that later records leave (R532) -/

/-- The log's head. -/
def State.logHead (s : State) : Nat := s.regFld .WCH_LOG_HEAD [] 0 32

/-- From a to b the log's head advances by at most n places, and the entries elsewhere stay. -/
def LogAdvances (n : Nat) (a b : State) : Prop :=
  ∃ k ≤ n, b.logHead = (a.logHead + k) % 2 ^ 32 ∧
    ∀ p, (∀ j < k, p ≠ (a.logHead + j) % 2 ^ 32 % 1024) → tget b.wch.log p = tget a.wch.log p

theorem State.logHead_lt (s : State) : s.logHead < 2 ^ 32 := fld_lt _ _ _

theorem LogAdvances.refl (a : State) : LogAdvances 0 a a :=
  ⟨0, Nat.le_refl _, (Nat.mod_eq_of_lt a.logHead_lt).symm, fun _ _ => rfl⟩

theorem LogAdvances.trans {m n : Nat} {a b c : State} (h : LogAdvances m a b) (k : LogAdvances n b c) :
    LogAdvances (m + n) a c := by
  obtain ⟨i, hi, hb, hlog⟩ := h
  obtain ⟨j, hj, hc, hlog'⟩ := k
  refine ⟨i + j, Nat.add_le_add hi hj, by omega, fun p hp => ?_⟩
  refine (hlog' p fun l hl => ?_).trans (hlog p fun l hl => hp l (by omega))
  have hne := hp (i + l) (by omega)
  rw [hb]
  omega

/-- A record advances the head by one place, or is dropped. -/
theorem LogAdvances.logRec (s : State) (r : LogRec) : LogAdvances 1 s (s.logRec r) := by
  have hlt := s.logHead_lt
  cases hroom : s.logRoom
  · have hhead : (s.lost r.sev).logHead = s.logHead := by
      unfold State.logHead State.regFld State.lost State.putFld
      dsimp only
      exact congrArg (wfld · 0 32) ((State.getReg_putReg_other _ _ (by decide)).trans
        ((State.getReg_putReg_other _ _ (by decide)).trans (State.getReg_putReg_other _ _ (by decide))))
    rw [State.logRec_full r hroom]
    refine ⟨0, by omega, ?_, fun p _ => by rw [State.keepFatal_log]; rfl⟩
    have hkeep : ((s.lost r.sev).keepFatal { r with seq := s.regFld .WCH_LOG_HEAD [] 0 32 }).logHead = s.logHead :=
      (congrArg (wfld · 0 32) (State.getReg_congr (State.keepFatal_regs _ _) _ _)).trans hhead
    rw [hkeep]
    omega
  · refine ⟨1, Nat.le_refl _, s.logRec_head r hroom, fun p hp => ?_⟩
    have hne : p ≠ s.regFld .WCH_LOG_HEAD [] 0 32 % 1024 := by
      have hp0 := hp 0 (by omega)
      unfold State.logHead at hp0 hlt
      omega
    rw [s.logRec_log r hroom, tget_tset_other _ _ hne]

/-- Registers other than the head leave it. -/
theorem State.logHead_putFld (s : State) {r : Reg} {ix : List Nat} (lo w x : Nat)
    (h : regAddr .WCH_LOG_HEAD [] ≠ regAddr r ix) : (s.putFld r ix lo w x).logHead = s.logHead :=
  congrArg (wfld · 0 32) (State.getReg_putReg_other _ _ h)

theorem regAddr_logHead_smoke (g : Nat) : regAddr .WCH_LOG_HEAD [] ≠ regAddr .WCH_SMOKE [g] := by
  simp [regAddr, regDesc]
  omega

theorem LogAdvances.of_same {a b : State} (hhead : b.logHead = a.logHead) (hlog : b.wch.log = a.wch.log) :
    LogAdvances 0 a b :=
  ⟨0, Nat.le_refl _, hhead.trans (Nat.mod_eq_of_lt a.logHead_lt).symm, fun _ _ => by rw [hlog]⟩

theorem LogAdvances.addHeat (s : State) (w g : Nat) : LogAdvances 1 s (s.addHeat w g) := by
  unfold State.addHeat
  dsimp only
  generalize hx : { s with wch := { s.wch with heat := tset s.wch.heat g (min 0xFFFF (tgetD s.wch.heat g 0 + w)) } } = x
  have hsame : LogAdvances 0 s x := by
    subst hx
    exact LogAdvances.of_same rfl rfl
  split
  · exact hsame.trans ((LogAdvances.of_same (x.logHead_putFld _ _ _ (regAddr_logHead_smoke g)) rfl).trans
      (LogAdvances.logRec _ _))
  · obtain ⟨k, hk, h⟩ := hsame
    exact ⟨k, by omega, h⟩

theorem LogAdvances.heatOn (s : State) (w : Nat) (gs : List Nat) : LogAdvances gs.length s (s.heatOn w gs) := by
  induction gs generalizing s with
  | nil => exact LogAdvances.refl s
  | cons g gs ih =>
    rw [List.length_cons, Nat.add_comm]
    exact (LogAdvances.addHeat s w g).trans (ih _)

/-- A record stays in the log while the heat it adds is recorded: there are at most 16 groves. -/
theorem State.record_logged {s : State} (hroom : s.logRoom = true) (src : Src) (sev : Sev) (die code : Nat) (g : Option Nat)
    (detail : Nat) :
    tget (s.record src sev die code g detail).wch.log (s.logHead % 1024) =
      some { s.mkRec src sev die code g detail with seq := s.logHead } := by
  have hlog : tget (s.logRec (s.mkRec src sev die code g detail)).wch.log (s.logHead % 1024) =
      some { s.mkRec src sev die code g detail with seq := s.logHead } := by
    rw [s.logRec_log _ hroom]
    exact tget_tset_same _ _ _
  unfold State.record
  dsimp only
  split
  · obtain ⟨k, hk, -, hkeeps⟩ := LogAdvances.heatOn (s.logRec (s.mkRec src sev die code g detail)) 512
      (s.logRec (s.mkRec src sev die code g detail)).boundGroves
    have hgroves : ∀ t : State, t.boundGroves.length ≤ 16 := fun t => List.length_filter_le _ _
    have hhead : (s.logRec (s.mkRec src sev die code g detail)).logHead = (s.logHead + 1) % 2 ^ 32 := s.logRec_head _ hroom
    rw [hkeeps _ fun j hj => ?_, hlog]
    have hbound := hgroves (s.logRec (s.mkRec src sev die code g detail))
    rw [hhead]
    omega
  · exact hlog

/-- With room, a record of the PWR block stands at the log's head of before. -/
theorem State.pwrRecord_logged {s : State} (hroom : s.logRoom = true) {sev : Sev} (h : sev ≠ .fatal)
    (die code item value : Nat) :
    ∃ r, tget (s.pwrRecord sev die code item value).wch.log (s.logHead % 1024) = some r ∧ r.src = .pwr ∧ r.sev = sev ∧
      r.code = code := by
  have hhead : (s.putReg .PWR_FAULT_LAST [] (faultWord s code item value)).logHead = s.logHead :=
    congrArg (wfld · 0 32) (State.getReg_putReg_other _ _ (by decide))
  have hlogged := State.record_logged ((s.logRoom_putReg_low (r := .PWR_FAULT_LAST) (ix := []) (by decide)
    (faultWord s code item value)).trans hroom) .pwr sev die code none (item + value % 2 ^ 16 * 2 ^ 8)
  rw [hhead] at hlogged
  rw [s.pwrRecord_eq h]
  exact ⟨_, hlogged, rfl, rfl, rfl⟩

/-! ## The write -/

section
variable {s : State} {v : Word}

theorem exec_pwrThermCfgWrite (hheld : s.sup.recovery ≠ .resetHeld) (hphase : s.sup.phase ≠ .ash) :
    exec (.pwrThermCfgWrite v) s = .next (s.writeTherm v) := congrArg _ (State.awake_of hphase hheld _)

theorem State.writeTherm_stored (hlow : 80 ≤ wfld v 0 7) (hhigh : wfld v 0 7 ≤ 100) :
    s.writeTherm v = s.softWrite .PWR_THERM_CFG [] v := by
  unfold State.writeTherm
  rw [if_neg (by simp; omega)]

theorem State.writeTherm_refused (h : wfld v 0 7 < 80 ∨ 100 < wfld v 0 7) :
    s.writeTherm v = s.pwrRecord .contained 2 0x0A 0 0 := by
  unfold State.writeTherm
  rw [if_pos (by simpa using h)]

end

/-- Settles O49: throttle_c is a field software may write, and the record of a refused write stays in the log while it adds
its heat. -/
theorem thermalConfigWrite : Obligations.ThermalConfigWrite := by
  refine ⟨rfl, fun s v hheld hphase => ⟨fun hlow hhigh => ?_, fun hout hroom => ?_⟩⟩
  · refine ⟨_, (exec_pwrThermCfgWrite hheld hphase).trans (congrArg _ (State.writeTherm_stored hlow hhigh)), ?_,
      fun a ha => State.tget_regs_softWrite_other _ _ _ _ ha, State.softWrite_frame ..⟩
    unfold State.regFld
    rw [State.getReg_softWrite_same]
    exact wfld_accessWrite (by decide) (by decide) _ v
  · have hnoted := s.pwrRecord_noted (sev := .contained) nofun 2 0x0A 0 0
    obtain ⟨r, hlast, hsrc, hsev, hcode⟩ := State.pwrRecord_logged hroom (sev := .contained) nofun 2 0x0A 0 0
    have hkept := s.getReg_pwrRecord (sev := .contained) nofun (r := .PWR_THERM_CFG) (ix := []) (by decide) (by decide)
    exact ⟨_, r, (exec_pwrThermCfgWrite hheld hphase).trans (congrArg _ (State.writeTherm_refused hout)), hkept .., hlast,
      hsrc, hsev, hcode, hnoted.clk, hnoted.mem, hnoted.grv⟩

end Sys2Proof.Machine
end

section
/-! PROOFS. Operating points (R598, R599, R614; O46) and the power limits (R607, R608, R616, R617; O50). -/
namespace Sys2Proof.Machine

/-! ## A die's operating point -/

section
variable {s : State} {d : Nat}

theorem State.dvfs_modDvfs_same (hd : d < s.clk.dvfs.length) (f : Dvfs → Dvfs) : (s.modDvfs d f).dvfs d = f (s.dvfs d) := by
  simp [State.dvfs, State.modDvfs, State.modClk, hd]

theorem State.dvfs_modDvfs_other {e : Nat} (he : e ≠ d) (f : Dvfs → Dvfs) : (s.modDvfs d f).dvfs e = s.dvfs e := by
  simp [State.dvfs, State.modDvfs, State.modClk, List.getD_eq_getElem?_getD, Ne.symm he]

theorem State.wantedPoint_modDvfs (f : Dvfs → Dvfs) (e : Nat) : (s.modDvfs d f).wantedPoint e = s.wantedPoint e := (rfl)

/-- The wanted point depends on the die's request, the clamps and its stacks. -/
theorem State.wantedPoint_congr {t : State} (hreg : t.getReg .PWR_OP_REQ [d] = s.getReg .PWR_OP_REQ [d])
    (hclk : t.clk = s.clk) (hmem : t.mem = s.mem) : t.wantedPoint d = s.wantedPoint d := by
  unfold State.wantedPoint State.stackHold State.therm State.regFld
  rw [hreg, hclk, hmem]

theorem State.retarget_busy (h : (s.dvfs d).busy = true) : s.retarget d = s := if_pos (by simp [h])

theorem State.retarget_settled (h : s.wantedPoint d = (s.dvfs d).effective) : s.retarget d = s := if_pos (by simp [h])

/-- An idle die whose islands run starts a transition to another point. -/
theorem State.retarget_starts (hrun : s.islandsRun = true) (hbusy : (s.dvfs d).busy = false)
    (h : s.wantedPoint d ≠ (s.dvfs d).effective) :
    s.retarget d =
      s.modDvfs d fun v => { v with target := s.wantedPoint d, busy := true, pllDone := false, voltDone := false } := by
  have hbanked : s.clk.banked = false := by
    simp [State.islandsRun] at hrun
    exact hrun.1.2
  exact if_neg (by simp [hrun, hbusy, h, hbanked])

theorem State.dvfs_retarget_other {e : Nat} (he : e ≠ d) : (s.retarget d).dvfs e = s.dvfs e := by
  unfold State.retarget
  dsimp only
  split
  · rfl
  · exact State.dvfs_modDvfs_other he _

theorem State.regFld_softWrite_opReq (v : Word) :
    (s.softWrite .PWR_OP_REQ [d] v).regFld .PWR_OP_REQ [d] 0 3 = wfld v 0 3 := by
  unfold State.regFld
  rw [State.getReg_softWrite_same]
  exact wfld_accessWrite (by decide) (by decide) _ v

/-- What a request leaves: the die seeks the slowest of the request and the clamps. -/
theorem State.writeOpReq_spec (hd : d < s.clk.dvfs.length) (hrun : s.islandsRun = true) (v : Word) :
    ((s.dvfs d).busy = true → (s.writeOpReq d v).dvfs d = s.dvfs d) ∧
    ((s.dvfs d).busy = false → (s.writeOpReq d v).dvfs d =
      if (s.writeOpReq d v).wantedPoint d = (s.dvfs d).effective then s.dvfs d
      else { s.dvfs d with
        target := (s.writeOpReq d v).wantedPoint d, busy := true, pllDone := false, voltDone := false }) := by
  have hdvfs : (s.softWrite .PWR_OP_REQ [d] v).dvfs d = s.dvfs d := rfl
  refine ⟨fun hbusy => ?_, fun hbusy => ?_⟩
  · have hsame : s.writeOpReq d v = s.softWrite .PWR_OP_REQ [d] v := State.retarget_busy hbusy
    rw [hsame, hdvfs]
  by_cases hpoint : (s.softWrite .PWR_OP_REQ [d] v).wantedPoint d = (s.dvfs d).effective
  · have hsame : s.writeOpReq d v = s.softWrite .PWR_OP_REQ [d] v := State.retarget_settled hpoint
    rw [hsame, if_pos hpoint, hdvfs]
  · have hstarts : s.writeOpReq d v = _ := State.retarget_starts (s := s.softWrite .PWR_OP_REQ [d] v) hrun hbusy hpoint
    rw [hstarts, State.wantedPoint_modDvfs, if_neg hpoint]
    exact State.dvfs_modDvfs_same hd _

/-! ## The end of a transition -/

/-- A transition that ends at the wanted point is counted, and the die rests there. -/
theorem State.endTransition_spec (hd : d < s.clk.dvfs.length) (hd2 : d < 2) (hwant : s.wantedPoint d = (s.dvfs d).target) :
    (s.endTransition d).dvfs d =
      { s.dvfs d with effective := (s.dvfs d).target, clock := (s.dvfs d).target, busy := false } ∧
    (s.endTransition d).getReg .PWR_TRANSITIONS [] = (statAdd (s.getReg .PWR_TRANSITIONS []) 1).1 ∧
    (s.endTransition d).mem = s.mem := by
  generalize he : (s.modDvfs d fun v => { v with effective := v.target, clock := v.target, busy := false }) = e
  have hdvfs : e.dvfs d = { s.dvfs d with effective := (s.dvfs d).target, clock := (s.dvfs d).target, busy := false } := by
    rw [← he, State.dvfs_modDvfs_same hd]
  have hcounted := State.bump_noted .PWR_TRANSITIONS [] 1 (Noted.refl e)
  have hrest : (e.bump .PWR_TRANSITIONS []).dvfs d = e.dvfs d := congrArg (·.dvfs.getD d {}) hcounted.clk
  have hreq : regAddr .PWR_OP_REQ [d] < 0x30000 ∧ regAddr .PWR_OP_REQ [d] ≠ regAddr .PWR_TRANSITIONS [] := by
    obtain rfl | rfl : d = 0 ∨ d = 1 := by omega
    all_goals decide
  have hpoint : (e.bump .PWR_TRANSITIONS []).wantedPoint d = e.wantedPoint d :=
    State.wantedPoint_congr (State.getReg_bump_low_other e hreq.1 hreq.2 1) hcounted.clk hcounted.mem
  have hend : s.endTransition d = e.bump .PWR_TRANSITIONS [] := by
    unfold State.endTransition
    rw [he]
    refine State.retarget_settled ?_
    rw [hpoint, hrest, hdvfs, ← he, State.wantedPoint_modDvfs, hwant]
  rw [hend]
  refine ⟨hrest.trans hdvfs, ?_, ?_⟩
  · rw [State.getReg_bump_low e (by decide), ← he]
    rfl
  · rw [hcounted.mem, ← he]
    rfl

end

/-! ## The events of a transition -/

section
variable {s : State} {d : Nat} (hheld : s.sup.recovery ≠ .resetHeld)
include hheld

theorem exec_dvfsPllLocked : exec (.dvfsPllLocked d) s = .next (s.pllLocked d) := congrArg _ (State.unheld_of hheld _)

theorem exec_dvfsVoltageSettled : exec (.dvfsVoltageSettled d) s = .next (s.voltageSettled d) :=
  congrArg _ (State.unheld_of hheld _)

theorem exec_pwrOpReqWrite (hphase : s.sup.phase ≠ .ash) (v : Word) :
    exec (.pwrOpReqWrite d v) s = .next (s.writeOpReq d v) := congrArg _ (State.awake_of hphase hheld _)

theorem exec_powerCapAverage (w : Nat) : exec (.powerCapAverage w) s = .next (s.capAverage w) :=
  congrArg _ (State.unheld_of hheld _)

theorem exec_pwrCapWrite (hphase : s.sup.phase ≠ .ash) (v : Word) : exec (.pwrCapWrite v) s = .next (s.writeCap v) :=
  congrArg _ (State.awake_of hphase hheld _)

theorem exec_inputOvercurrent : exec .inputOvercurrent s = .next s.overcurrent := congrArg _ (State.unheld_of hheld _)

theorem exec_droopRelease : exec .droopRelease s = .next s.droopRelease := congrArg _ (State.unheld_of hheld _)

end

section
variable {s : State} {d : Nat}

/-- The clock switches at the lock when slower. -/
theorem State.pllLocked_slower (hbusy : (s.dvfs d).busy = true) (hpll : (s.dvfs d).pllDone = false)
    (h : (s.dvfs d).effective < (s.dvfs d).target) :
    s.pllLocked d = s.modDvfs d fun v => { v with pllDone := true, clock := v.target } := by
  unfold State.pllLocked
  dsimp only
  rw [if_neg (by simp [hbusy, hpll]), if_pos h]

theorem State.pllLocked_faster (hbusy : (s.dvfs d).busy = true) (hpll : (s.dvfs d).pllDone = false)
    (h : (s.dvfs d).target < (s.dvfs d).effective) :
    s.pllLocked d = if (s.dvfs d).voltDone then (s.modDvfs d fun v => { v with pllDone := true }).endTransition d
      else s.modDvfs d fun v => { v with pllDone := true } := by
  unfold State.pllLocked
  dsimp only
  rw [if_neg (by simp [hbusy, hpll]), if_neg (by omega)]

theorem State.voltageSettled_slower (hbusy : (s.dvfs d).busy = true) (hpll : (s.dvfs d).pllDone = true)
    (h : (s.dvfs d).effective < (s.dvfs d).target) : s.voltageSettled d = s.endTransition d := by
  unfold State.voltageSettled
  dsimp only
  rw [if_neg (by simp [hbusy]), if_pos h, if_pos hpll]

theorem State.voltageSettled_faster (hbusy : (s.dvfs d).busy = true) (hpll : (s.dvfs d).pllDone = false)
    (h : (s.dvfs d).target < (s.dvfs d).effective) :
    s.voltageSettled d = s.modDvfs d fun v => { v with voltDone := true } := by
  unfold State.voltageSettled
  dsimp only
  rw [if_neg (by simp [hbusy]), if_neg (by omega), if_neg (by simp [hpll])]

end

/-- Settles O46: the request's cases, and the two events of a transition, of which the later one ends it. -/
theorem operatingPoints : Obligations.OperatingPoints := by
  intro s d v x hd hlen hrun hx
  subst hx
  obtain ⟨hphase, hheld⟩ := State.awake_of_islandsRun hrun
  have hin : d < s.clk.dvfs.length := by omega
  refine ⟨?_, fun hbusy hpll hslow => ?_, fun hbusy hpll hslow hwant => ?_, fun hbusy hpll hvolt hfast => ⟨?_, ?_⟩,
    fun hbusy hpll hvolt hfast hwant => ?_, fun hidle => ⟨?_, ?_⟩⟩
  · obtain ⟨hkeeps, hseeks⟩ := State.writeOpReq_spec hin hrun v
    obtain ⟨l, hl⟩ := (s.softWrite .PWR_OP_REQ [d] v).retarget_frame d
    have hframe : s.writeOpReq d v = _ := hl
    refine ⟨_, exec_pwrOpReqWrite hheld hphase v, ?_, hkeeps, hseeks, fun e _ he => State.dvfs_retarget_other he, ?_⟩
    · rw [hframe]
      exact State.regFld_softWrite_opReq v
    · rw [hframe]
      rfl
  · exact ⟨_, (exec_dvfsPllLocked hheld).trans (congrArg _ (State.pllLocked_slower hbusy hpll hslow)),
      State.dvfs_modDvfs_same hin _, rfl⟩
  · exact ⟨_, (exec_dvfsVoltageSettled hheld).trans (congrArg _ (State.voltageSettled_slower hbusy hpll hslow)),
      State.endTransition_spec hin hd hwant⟩
  · exact ⟨_, (exec_dvfsPllLocked hheld).trans (congrArg _
      ((State.pllLocked_faster hbusy hpll hfast).trans (if_neg (by simp [hvolt])))), State.dvfs_modDvfs_same hin _, rfl⟩
  · exact ⟨_, (exec_dvfsVoltageSettled hheld).trans (congrArg _ (State.voltageSettled_faster hbusy hpll hfast)),
      State.dvfs_modDvfs_same hin _, rfl⟩
  · have hlocked := State.dvfs_modDvfs_same hin fun v => { v with pllDone := true }
    obtain ⟨hpoint, hcount, -⟩ := State.endTransition_spec (s := s.modDvfs d fun v => { v with pllDone := true })
      (by simpa [State.modDvfs, State.modClk] using hin) hd (by rw [hlocked]; exact hwant)
    rw [hlocked] at hpoint
    exact ⟨_, (exec_dvfsPllLocked hheld).trans (congrArg _ ((State.pllLocked_faster hbusy hpll hfast).trans (if_pos hvolt))),
      hpoint, hcount⟩
  · exact (exec_dvfsPllLocked hheld).trans (congrArg _ (if_pos (by simp [hidle])))
  · exact (exec_dvfsVoltageSettled hheld).trans (congrArg _ (if_pos (by simp [hidle])))

end Sys2Proof.Machine
end

section
/-! PROOFS. The power cap and the droop clamp (R607, R608, R616, R617; O50). -/
namespace Sys2Proof.Machine

section
variable {s : State} {w a b : Nat}

/-- The input power shows in PWR_INPUT. -/
def State.capInput (s : State) (w : Nat) : State := s.putFld .PWR_INPUT [] 32 16 w

theorem State.capInput_shows (hw : w < 2 ^ 16) : (s.capInput w).regFld .PWR_INPUT [] 32 16 = w := by
  exact (State.regFld_putFld_same _ _ _ w (by omega)).trans (Nat.mod_eq_of_lt hw)

theorem State.capInput_cap (lo n : Nat) : (s.capInput w).regFld .PWR_CAP [] lo n = s.regFld .PWR_CAP [] lo n :=
  congrArg (wfld · lo n) (State.getReg_putReg_other _ _ (by decide))

/-- An average above the cap moves both clamps one point slower. -/
def State.capTightened (s : State) : State :=
  s.modClk fun c => { c with
    capLow := 0
    capClamp := c.capClamp.zipIdx.map fun p => min 7 ((if p.1 = 0 then (c.dvfs.getD p.2 {}).effective else p.1) + 1) }

theorem State.capTightened_clamps (h : s.clk.capClamp = [a, b]) :
    s.capTightened.clk.capClamp = [min 7 ((if a = 0 then (s.dvfs 0).effective else a) + 1),
      min 7 ((if b = 0 then (s.dvfs 1).effective else b) + 1)] := by
  simp [State.capTightened, State.modClk, State.dvfs, h, List.zipIdx]

theorem State.capAverage_disabled (h : s.regFld .PWR_CAP [] 63 1 = 0) : s.capAverage w = s.capInput w :=
  if_pos ((State.capInput_cap 63 1).trans h)

/-- The clamps after an average above the cap, with the record of an episode's first one. -/
def State.capExceeded (s : State) (w : Nat) : State :=
  if s.clk.capClamp.all (· == 0) then (s.capInput w).capTightened.pwrRecord .corrected 2 0x04 0 w
  else (s.capInput w).capTightened

theorem State.capAverage_above (h : s.regFld .PWR_CAP [] 63 1 = 1) (hcap : s.regFld .PWR_CAP [] 0 16 < w) :
    s.capAverage w = (s.capExceeded w).retargetAll := by
  have henabled : (s.capInput w).regFld .PWR_CAP [] 63 1 ≠ 0 := by
    rw [State.capInput_cap, h]
    decide
  have habove : (s.capInput w).regFld .PWR_CAP [] 0 16 < w := by rwa [State.capInput_cap]
  exact (if_neg henabled).trans (if_pos habove)

/-- The first of an episode is recorded. -/
theorem State.capExceeded_first (h : s.clk.capClamp = [0, 0]) :
    s.capExceeded w = (s.capInput w).capTightened.pwrRecord .corrected 2 0x04 0 w := if_pos (by simp [h])

theorem State.capExceeded_later (h : s.clk.capClamp = [a, b]) (hne : a ≠ 0 ∨ b ≠ 0) :
    s.capExceeded w = (s.capInput w).capTightened :=
  if_neg (by simp [h]; omega)

theorem State.capExceeded_last (h : s.clk.capClamp = [0, 0]) (hroom : s.logRoom = true) :
    ∃ r, (s.capExceeded w).lastRecord = some r ∧ r.src = .pwr ∧ r.sev = .corrected ∧ r.code = 0x04 := by
  have hroom' : (s.capInput w).capTightened.logRoom = true :=
    (State.logRoom_congr rfl).trans ((s.logRoom_putReg_low (r := .PWR_INPUT) (by decide) _).trans hroom)
  rw [State.capExceeded_first h]
  obtain ⟨r, hlast, hsrc, hsev, hcode, -⟩ :=
    (s.capInput w).capTightened.pwrRecord_last (sev := .corrected) nofun (.inl rfl) hroom' 2 0x04 0 w
  exact ⟨r, hlast, hsrc, hsev, hcode⟩

/-- What an average above the cap leaves before the dies seek their points. -/
theorem State.capExceeded_spec (hw : w < 2 ^ 16) (s : State) :
    (s.capExceeded w).regFld .PWR_INPUT [] 32 16 = w ∧ (s.capExceeded w).clk = (s.capInput w).capTightened.clk ∧
      (s.capExceeded w).mem = s.mem := by
  have hshown : (s.capInput w).capTightened.regFld .PWR_INPUT [] 32 16 = w := State.capInput_shows hw
  unfold State.capExceeded
  split
  · have hnoted := (s.capInput w).capTightened.pwrRecord_noted (sev := .corrected) nofun 2 0x04 0 w
    have hkept := (s.capInput w).capTightened.getReg_pwrRecord (sev := .corrected) nofun (r := .PWR_INPUT) (ix := [])
      (by decide) (by decide) 2 0x04 0 w
    exact ⟨(congrArg (wfld · 32 16) hkept).trans hshown, hnoted.clk, hnoted.mem⟩
  · exact ⟨hshown, rfl, rfl⟩

/-- The tenth low average in a row lifts the clamps one point. -/
theorem State.capAverage_tenth (h : s.regFld .PWR_CAP [] 63 1 = 1) (hlow : w * 100 < s.regFld .PWR_CAP [] 0 16 * 95)
    (hnine : s.clk.capLow = 9) :
    s.capAverage w = ((s.capInput w).modClk fun c => { c with capLow := 10, capClamp := c.capClamp.map (· - 1) }).retargetAll := by
  have henabled : (s.capInput w).regFld .PWR_CAP [] 63 1 ≠ 0 := by
    rw [State.capInput_cap, h]
    decide
  have habove : ¬ (s.capInput w).regFld .PWR_CAP [] 0 16 < w := by
    rw [State.capInput_cap]
    omega
  have hbelow : w * 100 < (s.capInput w).regFld .PWR_CAP [] 0 16 * 95 := by rwa [State.capInput_cap]
  have hten : (s.capInput w).clk.capLow + 1 = 10 := congrArg (· + 1) hnine
  refine (if_neg henabled).trans ((if_neg habove).trans ((if_pos hbelow).trans ?_))
  change (if decide ((s.capInput w).clk.capLow + 1 ≥ 10) && decide (((s.capInput w).clk.capLow + 1) % 10 = 0) then
    ((s.capInput w).modClk fun c =>
      { c with capLow := (s.capInput w).clk.capLow + 1, capClamp := c.capClamp.map (· - 1) }).retargetAll else _) = _
  rw [hten]
  exact if_pos (by decide)

theorem State.writeCap_stored {v : Word} (h : 600 ≤ wfld v 0 16) :
    s.writeCap v = if v.getLsbD 63 then s.softWrite .PWR_CAP [] v
      else ((s.softWrite .PWR_CAP [] v).modClk fun c => { c with capClamp := [0, 0], capLow := 0 }).retargetAll :=
  if_neg (by omega)

theorem State.writeCap_refused {v : Word} (h : wfld v 0 16 < 600) : s.writeCap v = s.pwrRecord .contained 2 0x0A 0 0 :=
  if_pos h

/-! ## The droop clamp -/

/-- The droop clamp holds both dies at P7. -/
theorem State.wantedPoint_droop (h : s.clk.droop = true) (d : Nat) : s.wantedPoint d = 7 := if_pos (by simp [h])

/-- The overcurrent is counted and recorded. -/
def State.droopNoted (s : State) : State :=
  (s.bump .PWR_DROOP []).pwrRecord .corrected 2 0x08 0 (s.regFld .PWR_INPUT [] 16 16)

theorem State.droopNoted_counts (s : State) :
    s.droopNoted.getReg .PWR_DROOP [] = (statAdd (s.getReg .PWR_DROOP []) 1).1 := by
  unfold State.droopNoted
  rw [State.getReg_pwrRecord _ (by decide) (by decide) (by decide), State.getReg_bump_low s (by decide)]

theorem State.droopNoted_last (hroom : s.logRoom = true) (hcount : (statAdd (s.getReg .PWR_DROOP []) 1).2 = false) :
    ∃ r, s.droopNoted.lastRecord = some r ∧ r.src = .pwr ∧ r.sev = .corrected ∧ r.code = 0x08 := by
  have hroom' : (s.bump .PWR_DROOP []).logRoom = true := by
    rw [State.bump_quiet hcount]
    exact (s.logRoom_putReg_low (by decide) _).trans hroom
  obtain ⟨r, hlast, hsrc, hsev, hcode, -⟩ := (s.bump .PWR_DROOP []).pwrRecord_last (sev := .corrected) nofun (.inl rfl)
    hroom' 2 0x08 0 (s.regFld .PWR_INPUT [] 16 16)
  exact ⟨r, hlast, hsrc, hsev, hcode⟩

/-- An overcurrent engages the droop clamp, and both dies seek their points. -/
theorem State.overcurrent_eq (s : State) :
    s.overcurrent = (s.droopNoted.modClk fun c => { c with droop := true }).retargetAll := (rfl)

/-- The overcurrent leaves what noted it, and the clamp. -/
theorem State.overcurrent_spec (s : State) :
    s.overcurrent.clk.droop = true ∧ s.overcurrent.lastRecord = s.droopNoted.lastRecord ∧
      s.overcurrent.getReg .PWR_DROOP [] = s.droopNoted.getReg .PWR_DROOP [] := by
  rw [s.overcurrent_eq]
  exact ⟨State.retargetAll_droop _, by simp, by simp⟩

end

/-- Settles O50: the averages' cases against the cap, the cap's writes, and the droop clamp. -/
theorem powerLimits : Obligations.PowerLimits := by
  intro s w a b v hheld hw hclamps _
  refine ⟨fun hoff => ?_, fun hon habove => ?_, fun hon hlow hnine => ?_,
    fun hphase => ⟨fun hcap => ?_, fun hcap hgroves hroom => ?_⟩, fun hcount hroom => ?_, ?_⟩
  · refine ⟨_, (exec_powerCapAverage hheld w).trans (congrArg _ (State.capAverage_disabled hoff)),
      State.capInput_shows hw, rfl⟩
  · obtain ⟨hshown, hclk, hmem⟩ := State.capExceeded_spec hw s
    refine ⟨_, (exec_powerCapAverage hheld w).trans (congrArg _ (State.capAverage_above hon habove)), ?_, ?_, ?_, ?_,
      fun ha hb hroom => ?_, fun hne => ?_⟩
    · exact (congrArg (wfld · 32 16) (State.getReg_retargetAll ..)).trans hshown
    · rw [State.retargetAll_capClamp, hclk]
      exact State.capTightened_clamps hclamps
    · rw [State.retargetAll_capLow, hclk]
      rfl
    · rw [State.retargetAll_mem, hmem]
    · subst ha hb
      obtain ⟨r, hlast, hfacts⟩ := State.capExceeded_last (w := w) hclamps hroom
      exact ⟨r, (State.lastRecord_retargetAll _).trans hlast, hfacts⟩
    · rw [State.retargetAll_wch, State.capExceeded_later hclamps hne]
      rfl
  · obtain ⟨l, hl⟩ := ((s.capInput w).modClk fun c =>
      { c with capLow := 10, capClamp := c.capClamp.map (· - 1) }).retargetAll_frame
    refine ⟨_, (exec_powerCapAverage hheld w).trans (congrArg _ ((State.capAverage_tenth hon hlow hnine).trans hl)), ?_, rfl⟩
    exact congrArg (List.map (· - 1)) hclamps
  · refine ⟨_, (exec_pwrCapWrite hheld hphase v).trans (congrArg _ (State.writeCap_stored hcap)), ?_⟩
    split
    · exact ⟨State.getReg_softWrite_same .., hclamps, rfl⟩
    · obtain ⟨l, hl⟩ := ((s.softWrite .PWR_CAP [] v).modClk fun c =>
        { c with capClamp := [0, 0], capLow := 0 }).retargetAll_frame
      rw [hl]
      exact ⟨State.getReg_softWrite_same .., rfl, rfl⟩
  · obtain ⟨r, hlast, hsrc, hsev, hcode, -⟩ :=
      s.pwrRecord_last (sev := .contained) nofun (.inr hgroves) hroom 2 0x0A 0 0
    have hkept := s.getReg_pwrRecord (sev := .contained) nofun (r := .PWR_CAP) (ix := []) (by decide) (by decide) 2 0x0A 0 0
    exact ⟨_, r, (exec_pwrCapWrite hheld hphase v).trans (congrArg _ (State.writeCap_refused hcap)), hkept,
      (s.pwrRecord_noted (sev := .contained) nofun 2 0x0A 0 0).clk, hlast, hsrc, hsev, hcode⟩
  · obtain ⟨r, hlast, hsrc, hsev, hcode⟩ := State.droopNoted_last hroom hcount
    obtain ⟨hdroop, hsame, hcounted⟩ := s.overcurrent_spec
    exact ⟨_, r, exec_inputOvercurrent hheld, hdroop, State.wantedPoint_droop hdroop 0, State.wantedPoint_droop hdroop 1,
      hsame.trans hlast, hsrc, hsev, hcode, hcounted.trans s.droopNoted_counts⟩
  · obtain ⟨l, hl⟩ := (s.modClk fun c => { c with droop := false }).retargetAll_frame
    exact ⟨_, (exec_droopRelease hheld).trans (congrArg _ hl), rfl, rfl⟩

end Sys2Proof.Machine
end

section
/-! PROOFS. What closing the ports and links, aborting field tests, banking the PLLs and entering the ash state leave: the
clocks, and the registers below the watch block (R595, R659 to R662, R697). -/
namespace Sys2Proof.Machine

/-- A property that does not look either at what ends with the work of the units: ports and in-package links, the tiles
and their watch, the batch, the reductions. -/
structure UnitFree (P : State → Prop) : Prop extends WriteFree P where
  portOff : ∀ {s : State} (p : Nat), P s → P (s.portOff p)
  links : ∀ {s : State} (l : Tbl HLink), P s → P { s with hrt := { s.hrt with links := l } }
  watch : ∀ {s : State} (w : WatchState), P s → P { s with wch := w }
  til : ∀ {s : State} (x : TileState), P s → P { s with til := x }
  batch : ∀ {s : State} (b : Option Batch), P s → P { s with grv := { s.grv with batch := b } }
  col : ∀ {s : State} (x : CollState), P s → P { s with col := x }

namespace UnitFree

variable {P : State → Prop} (hP : UnitFree P) {s : State}
include hP

theorem abortTest (f : FieldTest) (h : P s) : P (s.abortTest f) := by
  have htests : P (s.modTests fun l => l.filter (· != f)) := hP.watch _ h
  unfold State.abortTest
  extract_lets tests owned
  have howned : P owned := by
    unfold owned
    split
    · exact hP.complete _ _ _ _ htests
    · exact hP.watch _ htests
  split
  · exact hP.til _ howned
  · split
    · exact hP.modChannel _ _ (hP.mem _ howned)
    · exact howned

theorem abortTests (p : FieldTest → Bool) (h : P s) : P (s.abortTests p) :=
  State.each_keeps (fun _ f hb => hP.abortTest f hb) _ h

theorem portsOff (h : P s) : P s.portsOff := by
  refine State.each_keeps (fun b p hb => ?_) _ h
  split
  · exact hb
  · exact hP.portOff p hb

theorem dropBatch (h : P s) : P s.dropBatch := by
  refine hP.batch _ ?_
  split
  · split
    · exact State.each_keeps (fun _ _ hb => hP.mem _ hb) _ h
    · exact h
  · exact h

theorem ashSwept (ctrlUe : Bool) (h : P s) : P (s.ashSwept ctrlUe) := by
  have hstruck : P (s.each (List.range 16) fun s g => s.strikeFiring g) :=
    State.each_keeps (fun _ g hb => hP.strikeFiring (fun _ hb => hP.col _ hb) g hb) _ h
  unfold State.ashSwept
  dsimp only
  refine hP.dropBatch (hP.links _ (hP.portsOff ?_))
  split
  · exact hstruck
  · exact hP.flushBuffers _ hstruck

end UnitFree

/-- A register below the watch block is such a property. -/
theorem unitFree_getReg {r : Reg} {ix : List Nat} (h : regAddr r ix < 0x30000) (v : Word) :
    UnitFree fun t => t.getReg r ix = v where
  toRecordFree := recordFree_getReg h v
  mem _ ht := ht
  kln _ _ ht := ht
  queues _ ht := ht
  portOff _ ht := (recordFree_getReg h v).bumpPort _ _ rfl rfl ht
  links _ ht := ht
  watch _ ht := ht
  til _ ht := ht
  batch _ ht := ht
  col _ ht := ht

/-! ## The ash state -/

theorem State.phase_of_restSide {s t : State} (h : t.restSide = s.restSide) : t.sup.phase = s.sup.phase :=
  congrArg (fun p => p.1.1) h

theorem State.clk_of_restSide {s t : State} (h : t.restSide = s.restSide) : t.clk = s.clk := congrArg (fun p => p.2.1) h

/-- What the entry to the ash state leaves of the clocks and outputs, and of a register below the watch block. -/
theorem State.ashEntry_leaves {s : State} (h : s.sup.phase ≠ .ash) (ctrlUe overtemp : Bool) :
    (s.ashEntry ctrlUe overtemp).clk = { s.clk.portsGone with dvfs := [{}, {}] } ∧
    (s.ashEntry ctrlUe overtemp).sup.faultLow = true ∧ (s.ashEntry ctrlUe overtemp).sup.thermLow = overtemp ∧
    ∀ (r : Reg) (ix : List Nat), regAddr .GLB_RECOVER [] < regAddr r ix → regAddr r ix < 0x30000 →
      regAddr r ix ≠ regAddr .PWR_SMOULDER [] → (s.ashEntry ctrlUe overtemp).getReg r ix = s.getReg r ix := by
  unfold State.ashEntry
  rw [if_neg (fun hash => h (beq_iff_eq.mp hash))]
  extract_lets struck flushed dropped sup resolved
  have hclk : dropped.clk = s.clk := State.clk_of_restSide (s.restSide_ashSwept ctrlUe)
  have hreg : ∀ {r : Reg} {ix : List Nat}, regAddr r ix < 0x30000 → dropped.getReg r ix = s.getReg r ix := by
    intro r ix hlow
    have hswept : dropped = s.ashSwept ctrlUe := rfl
    rw [hswept]
    exact (unitFree_getReg hlow (s.getReg r ix)).ashSwept ctrlUe rfl
  clear_value dropped
  have hresolved : resolved.clk = dropped.clk ∧ ∀ (r : Reg) (ix : List Nat), regAddr .GLB_RECOVER [] < regAddr r ix →
      regAddr r ix < 0x30000 → resolved.getReg r ix = dropped.getReg r ix := by
    unfold resolved
    split
    · exact ⟨rfl, fun _ _ _ _ => rfl⟩
    · refine ⟨?_, fun r ix hhigh hlow => ?_⟩
      · unfold State.recoverRefused
        rw [(State.record_noted _ _ _ _ _ _ (Noted.refl _)).clk]
        rfl
      · unfold State.recoverRefused
        rw [State.getReg_record_low _ hlow]
        exact (State.getReg_putReg_other _ _ (by omega)).trans ((State.getReg_putReg_other _ _ (by omega)).trans
          (State.getReg_putReg_other _ _ (by omega)))
  clear_value resolved
  refine ⟨?_, rfl, rfl, fun r ix hhigh hlow hne => ?_⟩
  · show { resolved.clk.portsGone with dvfs := [{}, {}] } = _
    rw [hresolved.1, hclk]
  · exact (State.getReg_putReg_other _ _ hne).trans ((hresolved.2 r ix hhigh hlow).trans (hreg hlow))

/-- What a fatal record leaves when it takes the device into the ash state. -/
theorem State.fatal_leaves {s : State} (h : s.sup.phase ≠ .ash) (src : Src) (die code : Nat) (grove : Option Nat)
    (detail : Nat) :
    (s.fatal src die code grove detail).clk = { s.clk.portsGone with dvfs := [{}, {}] } ∧
    (s.fatal src die code grove detail).sup.faultLow = true ∧
    (s.fatal src die code grove detail).sup.thermLow = ((src == .pwr && code == 0x03) || (src == .mem && code == 0x0D)) ∧
    ∀ (r : Reg) (ix : List Nat), regAddr .GLB_RECOVER [] < regAddr r ix → regAddr r ix < 0x30000 →
      regAddr r ix ≠ regAddr .PWR_SMOULDER [] → (s.fatal src die code grove detail).getReg r ix = s.getReg r ix := by
  have hrecord := State.restSide_record s src .fatal die code grove detail
  obtain ⟨hclk, hfault, htherm, hreg⟩ := State.ashEntry_leaves (s := s.record src .fatal die code grove detail)
    ((State.phase_of_restSide hrecord).symm ▸ h) (src == .mem && code == 0x0E)
    ((src == .pwr && code == 0x03) || (src == .mem && code == 0x0D))
  refine ⟨?_, hfault, htherm, fun r ix hhigh hlow hne => (hreg r ix hhigh hlow hne).trans ?_⟩
  · rw [← State.clk_of_restSide hrecord]
    exact hclk
  · exact State.getReg_record_low _ hlow ..

theorem State.svcLow_fatal {s : State} (h : s.sup.phase ≠ .ash) (src : Src) (die code : Nat) (grove : Option Nat)
    (detail : Nat) : (s.fatal src die code grove detail).sup.svcLow = false := by
  have hphase := State.phase_of_restSide (State.restSide_record s src .fatal die code grove detail)
  have hash : ¬ ((s.record src .fatal die code grove detail).sup.phase == .ash) = true := by
    rw [hphase]
    simpa using h
  unfold State.fatal State.ashEntry
  dsimp only
  rw [if_neg hash]

/-! ## What the loss of a reference leaves (R594, R595) -/

/-- A property that does not look at clocks, registers, outputs and in-package links either. -/
structure LossFree (P : State → Prop) : Prop extends UnitFree P where
  reg : ∀ {s : State} (a : Nat) (v : Word), P s → P { s with regs := tset s.regs a v }
  clk : ∀ {s : State} (x : ClockState), P s → P { s with clk := x }
  hrt : ∀ {s : State} (x : HearthState), P s → P { s with hrt := x }
  outputs : ∀ {s : State} (x : StartState), P s → P { s with sup := x }

namespace LossFree

variable {P : State → Prop} (hP : LossFree P) {s : State}
include hP

theorem recoverResult (n : Nat) (h : P s) : P (s.recoverResult n) := hP.reg _ _ (hP.reg _ _ (hP.reg _ _ h))

theorem recoverRefused (op n : Nat) (h : P s) : P (s.recoverRefused op n) := hP.record _ _ _ _ _ _ (hP.recoverResult n h)

theorem ashEntry (ctrlUe overtemp : Bool) (h : P s) : P (s.ashEntry ctrlUe overtemp) := by
  unfold State.ashEntry
  split
  · dsimp only
    split
    · exact hP.recoverRefused _ _ (hP.outputs _ h)
    · exact hP.outputs _ h
  · extract_lets struck flushed dropped sup resolved
    have hswept : dropped = s.ashSwept ctrlUe := rfl
    have hdropped : P dropped := hswept ▸ hP.ashSwept ctrlUe h
    clear_value dropped
    have hresolved : P resolved := by
      unfold resolved
      split
      · exact hdropped
      · exact hP.recoverRefused _ _ (hP.outputs _ hdropped)
    have hlow : P (resolved.putFld .PWR_SMOULDER [] 0 2 0) := hP.reg _ _ hresolved
    exact hP.outputs
      { resolved.sup with phase := .ash, faultLow := true, thermLow := overtemp, svcLow := false, alertLow := true }
      (hP.clk { resolved.clk.portsGone with dvfs := [{}, {}] } (hP.hrt { resolved.hrt with ethUp := [false, false] } hlow))

theorem fatal (src : Src) (die code : Nat) (grove : Option Nat) (detail : Nat) (h : P s) :
    P (s.fatal src die code grove detail) := hP.ashEntry _ _ (hP.record _ _ _ _ _ _ h)

theorem clkRecord (sev : Sev) (die code item value : Nat) (h : P s) : P (s.clkRecord sev die code item value) := by
  unfold State.clkRecord
  dsimp only
  split
  · exact hP.fatal _ _ _ _ _ (hP.reg _ _ h)
  · exact hP.record _ _ _ _ _ _ (hP.reg _ _ h)

theorem bank (h : P s) : P s.bank := hP.abortTests _ (hP.hrt _ (hP.portsOff (hP.reg _ _ (hP.clk _ h))))

theorem refClockLost (item : Nat) (h : P s) : P (s.refClockLost item) := by
  unfold State.refClockLost
  repeat' split
  · exact hP.bank h
  · exact hP.clkRecord _ _ _ _ _ (hP.bank h)
  · exact hP.clkRecord _ _ _ _ _ h
  · exact h

theorem bumpAny {r : Reg} (ix : List Nat) (n : Nat) (h : P s) : P (s.bump r ix n) := by
  unfold State.bump
  dsimp only
  split
  · exact hP.record _ _ _ _ _ _ (hP.reg _ _ h)
  · exact hP.reg _ _ h

theorem refLost (source item : Nat) (h : P s) : P (s.refLost source item) := by
  unfold State.refLost
  dsimp only
  repeat' split
  · exact h
  · exact h
  · exact hP.clkRecord _ _ _ _ _ (hP.bumpAny _ _ (hP.clk _ h))
  · exact hP.clk _ h
  · exact hP.refClockLost _ h

theorem edgeLoss (source : Nat) (h : P s) : P (s.edgeLoss source) := by
  unfold State.edgeLoss
  split
  · exact h
  · unfold State.leaveGood
    dsimp only
    split
    · exact hP.refLost _ _ (hP.clk _ (hP.clk _ h))
    · exact hP.clk _ h

theorem refPortCheck (h : P s) : P s.refPortCheck := by
  unfold State.refPortCheck
  extract_lets first
  have hfirst : P first := by
    unfold first
    split
    · exact h
    · exact hP.edgeLoss _ h
  split
  · exact hfirst
  · exact hP.edgeLoss _ hfirst

end LossFree

/-! ## Banking (R595) -/

/-- The clocks of a device whose PLLs bank. -/
def ClockState.bankClocks (c : ClockState) : ClockState :=
  { c with
    banked := true, switching := none, dvfs := [{}, {}], recov := {}
    prev := c.prev.map fun p => (p.1, p.2.1, {}) }

/-- What banking leaves: the phase, the clocks without a lock, and what does not look at what ends. -/
theorem State.bank_leaves (s : State) :
    s.bank.sup.phase = s.sup.phase ∧ s.bank.clk = s.clk.bankClocks ∧ s.bank.getReg .CLK_PLL_STATUS [] = 0 := by
  have hrest : s.bank.restSide = ((s.modClk ClockState.bankClocks).putReg .CLK_PLL_STATUS [] 0).restSide :=
    (State.restSide_abortTests ..).trans ((State.restSide_linksDown _).trans (State.restSide_portsOff _))
  refine ⟨(State.phase_of_restSide hrest).trans rfl, (State.clk_of_restSide hrest).trans rfl, ?_⟩
  have hP := unitFree_getReg (r := .CLK_PLL_STATUS) (ix := []) (by decide) 0
  exact hP.abortTests _ (hP.links _ (hP.portsOff (State.getReg_putReg_same ..)))

end Sys2Proof.Machine
end

section
/-! PROOFS. Thermal limits of the dies (R606, R618; O48). -/
namespace Sys2Proof.Machine

theorem ofSigned_lt (w : Nat) (i : Int) : ofSigned w i < 2 ^ w := by
  unfold ofSigned
  have hpos : (0 : Int) < 2 ^ w := by positivity
  have hlt := Int.emod_lt_of_pos i hpos
  have hnonneg := Int.emod_nonneg i hpos.ne'
  zify
  omega

/-! ## A reading and its stages -/

section
variable (s : State) (d : Nat)

theorem State.therm_modTherm (hd : d < s.clk.therm.length) (f : Therm → Therm) :
    (s.modTherm d f).therm d = f (s.therm d) := by
  simp [State.therm, State.modTherm, State.modClk, hd]

theorem State.therm_congr {s t : State} (h : t.clk.therm = s.clk.therm) (d : Nat) : t.therm d = s.therm d := by
  rw [State.therm, State.therm, h]

/-- A record, and the dies seeking their points, leave what the sensors keep. -/
theorem State.therm_pwrRecord {sev : Sev} (h : sev ≠ .fatal) (die code item value : Nat) :
    (s.pwrRecord sev die code item value).retargetAll.therm d = s.therm d :=
  State.therm_congr ((State.retargetAll_therm _).trans (congrArg (·.therm) (s.pwrRecord_noted h die code item value).clk)) d

theorem State.wantedPoint_hot {s : State} {d : Nat} (hd : d < 2) (h : (s.therm d).hot = true) : s.wantedPoint d = 7 :=
  if_pos (by simp [hd, h])

/-- Since when a reading is past 105 °C. -/
def State.overSince (v : Int) : Option Nat := if v ≥ 1680 then some ((s.therm d).overSince.getD s.aonUs) else none

/-- What a compute die keeps of a reading. -/
def State.thermRead (v : Int) : Therm :=
  let t := s.therm d
  let thr : Int := 16 * (s.regFld .PWR_THERM_CFG [] 0 7 : Nat)
  { t with
    reading := v, badSince := none, goodSince := some (t.goodSince.getD s.aonUs), overSince := s.overSince d v
    above := v ≥ thr, hot := v ≥ 1600 || (t.hot && v ≥ 1520)
    fault := t.fault && s.aonUs - t.goodSince.getD s.aonUs < 10000
    clamp := if d < 2 && v ≥ thr && t.clamp = 0 then min 7 ((s.dvfs d).effective + 1) else t.clamp
    coolSince := if v < thr - 80 then some (t.coolSince.getD s.aonUs) else none }

/-- The state that shows a reading. -/
def State.tempShown (v : Int) (k : Nat) : State :=
  (s.putFld .PWR_DIE_TEMP [d] 0 16 (ofSigned 16 v)).putFld .PWR_DIE_TEMP [d] 16 5 k

/-- The state that keeps a reading. -/
def State.tempKept (v : Int) (k : Nat) : State :=
  (s.tempShown d v k).modTherm d fun _ =>
    if d < 2 then s.thermRead d v else { s.thermRead d v with hot := false, clamp := 0 }

/-- The clamp's engagement and the step to P7 are recorded. -/
def State.tempNoted (v : Int) (k : Nat) : State :=
  let s1 := if d < 2 && (s.therm d).clamp = 0 && (s.thermRead d v).clamp ≠ 0 then
      (s.tempKept d v k).pwrRecord .corrected d 0x01 (0x40 + d) (ofSigned 16 v) else s.tempKept d v k
  if d < 2 && !(s.therm d).hot && (s.thermRead d v).hot then s1.pwrRecord .deferred d 0x02 (0x40 + d) (ofSigned 16 v) else s1

/-- A reading past its limits is fatal. -/
def State.tempTripped (v : Int) (k : Nat) : State :=
  let trip := v ≥ 1760 || ((s.overSince d v).map fun o => decide (s.aonUs - o ≥ 100)).getD false
  if trip && !((s.tempNoted d v k).sup.phase == .ash && (s.tempNoted d v k).sup.thermLow) then
    (s.tempNoted d v k).pwrRecord .fatal d 0x03 (0x40 + d) (ofSigned 16 v) else s.tempNoted d v k

/-- A reading without an unreadable sensor goes through these stages. -/
theorem State.dieTemp_reads (v : Int) (k : Nat) :
    s.dieTemp d (some v) k 0 = (s.tempTripped d v k).retargetAll := (rfl)

/-- A die whose sensors are unreadable, and its fault. -/
def State.thermFaulted : State :=
  (s.modTherm d fun t =>
    { t with badSince := some ((s.therm d).badSince.getD s.aonUs), goodSince := none, overSince := none }).modTherm d
    fun t => { t with fault := true }

theorem State.thermFaulted_therm (hd : d < s.clk.therm.length) :
    (s.thermFaulted d).therm d =
      { s.therm d with
        badSince := some ((s.therm d).badSince.getD s.aonUs), goodSince := none, overSince := none, fault := true } := by
  unfold State.thermFaulted
  rw [State.therm_modTherm _ _ (by simpa [State.modTherm, State.modClk] using hd), State.therm_modTherm _ _ hd]

end

section
variable {s : State} {d k : Nat} {v : Int}

/-! ### What is shown and kept -/

theorem State.tempKept_therm (hd : d < s.clk.therm.length) :
    (s.tempKept d v k).therm d =
      if d < 2 then s.thermRead d v else { s.thermRead d v with hot := false, clamp := 0 } :=
  State.therm_modTherm (s.tempShown d v k) d hd _

theorem regAddr_dieTemp (d : Nat) : regAddr .PWR_DIE_TEMP [d] = 0x20030 + 8 * d := by
  simp [regAddr, regDesc]

theorem State.tempKept_shows (hk : k < 32) :
    (s.tempKept d v k).regFld .PWR_DIE_TEMP [d] 0 16 = ofSigned 16 v ∧ (s.tempKept d v k).regFld .PWR_DIE_TEMP [d] 16 5 = k := by
  constructor
  · exact (State.regFld_putFld_below _ _ _ k (by omega) (by omega)).trans
      ((State.regFld_putFld_same _ _ _ _ (by omega)).trans (Nat.mod_eq_of_lt (ofSigned_lt 16 v)))
  · exact (State.regFld_putFld_same _ _ _ k (by omega)).trans (Nat.mod_eq_of_lt hk)

theorem State.logRoom_tempKept (hroom : s.logRoom = true) (hd : d < 3) : (s.tempKept d v k).logRoom = true := by
  have hlow : regAddr .PWR_DIE_TEMP [d] < 0x30000 := by
    rw [regAddr_dieTemp]
    omega
  have hregs : (s.tempKept d v k).logRoom = (s.tempShown d v k).logRoom := State.logRoom_congr rfl
  rw [hregs]
  exact (State.logRoom_putReg_low _ hlow _).trans ((State.logRoom_putReg_low _ hlow _).trans hroom)

/-! ### The stages of a reading -/

/-- A reading that trips nothing ends with its records. -/
theorem State.tempTripped_calm (h : v < 1680) : s.tempTripped d v k = s.tempNoted d v k := by
  have hover : s.overSince d v = none := if_neg (by omega)
  exact if_neg (by simp [hover]; omega)

/-- A reading that neither engages the clamp nor makes the die hot is not recorded. -/
theorem State.tempNoted_quiet (hclamp : d < 2 → (s.therm d).clamp = 0 → (s.thermRead d v).clamp = 0)
    (hhot : d < 2 → (s.therm d).hot = false → (s.thermRead d v).hot = false) : s.tempNoted d v k = s.tempKept d v k := by
  unfold State.tempNoted
  dsimp only
  rw [if_neg, if_neg]
  · simpa using hclamp
  · simpa using hhot

theorem State.tempNoted_clamps (hd : d < 2) (hclamp : (s.therm d).clamp = 0) (hengaged : (s.thermRead d v).clamp ≠ 0)
    (hhot : (s.therm d).hot = false → (s.thermRead d v).hot = false) :
    s.tempNoted d v k = (s.tempKept d v k).pwrRecord .corrected d 0x01 (0x40 + d) (ofSigned 16 v) := by
  unfold State.tempNoted
  dsimp only
  rw [if_neg, if_pos]
  · simp [hd, hclamp, hengaged]
  · simpa [hd] using hhot

theorem State.tempNoted_heats (hd : d < 2) (hclamp : (s.therm d).clamp ≠ 0) (hcool : (s.therm d).hot = false)
    (hhot : (s.thermRead d v).hot = true) :
    s.tempNoted d v k = (s.tempKept d v k).pwrRecord .deferred d 0x02 (0x40 + d) (ofSigned 16 v) := by
  unfold State.tempNoted
  dsimp only
  rw [if_pos, if_neg]
  · simp [hclamp]
  · simp [hd, hcool, hhot]

/-- The records of a reading keep the phase and leave WCH_FATAL. -/
theorem State.tempNoted_leaves (s : State) (d : Nat) (v : Int) (k : Nat) :
    (s.tempNoted d v k).sup.phase = s.sup.phase ∧ (s.tempNoted d v k).wch.fatal = s.wch.fatal := by
  have hkeeps : ∀ {b : State} {sev : Sev} (code : Nat), sev ≠ .fatal →
      (b.sup.phase = s.sup.phase ∧ b.wch.fatal = s.wch.fatal) →
      (b.pwrRecord sev d code (0x40 + d) (ofSigned 16 v)).sup.phase = s.sup.phase ∧
      (b.pwrRecord sev d code (0x40 + d) (ofSigned 16 v)).wch.fatal = s.wch.fatal := by
    intro b sev code hsev hb
    refine ⟨?_, (b.fatal_pwrRecord hsev d code _ _).trans hb.2⟩
    rw [b.pwrRecord_eq hsev, State.phase_of_restSide (State.restSide_record ..)]
    exact hb.1
  unfold State.tempNoted
  extract_lets clamped
  have hclamped : clamped.sup.phase = s.sup.phase ∧ clamped.wch.fatal = s.wch.fatal := by
    unfold clamped
    split
    · exact hkeeps _ nofun ⟨rfl, rfl⟩
    · exact ⟨rfl, rfl⟩
  split
  · exact hkeeps _ nofun hclamped
  · exact hclamped

/-- A reading past its limits takes the device into the ash state. -/
theorem State.tempTripped_fatal
    (h : 1760 ≤ v ∨ 1680 ≤ v ∧ ∃ o, (s.therm d).overSince = some o ∧ 100 ≤ s.aonUs - o) (hphase : s.sup.phase ≠ .ash) :
    s.tempTripped d v k = (s.tempNoted d v k).pwrRecord .fatal d 0x03 (0x40 + d) (ofSigned 16 v) := by
  have htrip : (decide (v ≥ 1760) || ((s.overSince d v).map fun o => decide (s.aonUs - o ≥ 100)).getD false) = true := by
    obtain hhigh | ⟨hover, o, ho, hlong⟩ := h
    · simp [hhigh]
    · have hsince : s.overSince d v = some o := by
        rw [State.overSince, if_pos hover, ho]
        rfl
      simp [hsince, hlong]
  refine if_pos ?_
  rw [htrip, (s.tempNoted_leaves d v k).1]
  simp [hphase]

/-- A fatal record of a die's temperature asserts THERMTRIP_N. -/
theorem State.pwrRecord_trips (hphase : s.sup.phase ≠ .ash) (hnone : s.wch.fatal = none) (item value : Nat) :
    ∃ r, (s.pwrRecord .fatal d 0x03 item value).sup.phase = .ash ∧ (s.pwrRecord .fatal d 0x03 item value).sup.thermLow = true ∧
      (s.pwrRecord .fatal d 0x03 item value).wch.fatal = some r ∧ r.src = .pwr ∧ r.sev = .fatal ∧ r.code = 0x03 ∧ r.die = d := by
  rw [s.pwrRecord_fatal]
  obtain ⟨r, hr, hsrc, hsev, hdie, hcode⟩ :=
    State.fatal_first (s := s.putReg .PWR_FAULT_LAST [] (faultWord s 0x03 item value)) hnone .pwr d 0x03 none
      (item + value % 2 ^ 16 * 2 ^ 8)
  obtain ⟨-, -, htherm, -⟩ :=
    State.fatal_leaves (s := s.putReg .PWR_FAULT_LAST [] (faultWord s 0x03 item value)) hphase .pwr d 0x03 none
      (item + value % 2 ^ 16 * 2 ^ 8)
  exact ⟨r, State.phase_fatal_ash .., htherm, hr, hsrc, hsev, hcode, hdie⟩

end

/-! ## What each reading leaves -/

section
variable {s : State} {d k : Nat} {v : Int}

/-- A reading below every threshold only shows. -/
theorem State.dieTemp_cool (hin : d < s.clk.therm.length) (hk : k < 32) (hcool : v < 1600)
    (hbelow : v < 16 * (s.regFld .PWR_THERM_CFG [] 0 7 : Nat)) :
    (s.dieTemp d (some v) k 0).regFld .PWR_DIE_TEMP [d] 0 16 = ofSigned 16 v ∧
      (s.dieTemp d (some v) k 0).regFld .PWR_DIE_TEMP [d] 16 5 = k ∧ ((s.dieTemp d (some v) k 0).therm d).reading = v ∧
      ((s.dieTemp d (some v) k 0).therm d).above = false ∧
      (d < 2 → ((s.dieTemp d (some v) k 0).therm d).clamp = (s.therm d).clamp) ∧
      (s.dieTemp d (some v) k 0).wch = s.wch ∧ (s.dieTemp d (some v) k 0).mem = s.mem := by
  have hclamp : (s.thermRead d v).clamp = (s.therm d).clamp := if_neg (by simp; omega)
  have hquiet : s.tempNoted d v k = s.tempKept d v k :=
    State.tempNoted_quiet (fun _ h0 => hclamp.trans h0) fun _ h0 => by simp [State.thermRead, h0]; omega
  have heq : s.dieTemp d (some v) k 0 = (s.tempKept d v k).retargetAll := by
    rw [s.dieTemp_reads, State.tempTripped_calm (by omega), hquiet]
  obtain ⟨hvalue, hsensor⟩ := State.tempKept_shows (s := s) (d := d) (v := v) hk
  have habove : (s.thermRead d v).above = false := by simp [State.thermRead]; omega
  have hsame : (s.tempKept d v k).retargetAll.therm d = (s.tempKept d v k).therm d :=
    State.therm_congr (State.retargetAll_therm _) d
  rw [heq, hsame, State.tempKept_therm hin, State.retargetAll_wch, State.retargetAll_mem]
  refine ⟨?_, ?_, ?_, ?_, fun hd => by rw [if_pos hd, hclamp], rfl, rfl⟩
  · exact (congrArg (wfld · 0 16) (State.getReg_retargetAll ..)).trans hvalue
  · exact (congrArg (wfld · 16 5) (State.getReg_retargetAll ..)).trans hsensor
  · split <;> rfl
  · split <;> exact habove

/-- At the threshold the clamp engages one point slower, with its record. -/
theorem State.dieTemp_throttles (hin : d < s.clk.therm.length) (hd : d < 2) (hclamp : (s.therm d).clamp = 0) (hcool : v < 1600)
    (habove : 16 * (s.regFld .PWR_THERM_CFG [] 0 7 : Nat) ≤ v) (hroom : s.logRoom = true) :
    ∃ r, ((s.dieTemp d (some v) k 0).therm d).clamp = min 7 ((s.dvfs d).effective + 1) ∧
      ((s.dieTemp d (some v) k 0).therm d).above = true ∧ (s.dieTemp d (some v) k 0).lastRecord = some r ∧ r.src = .pwr ∧
      r.sev = .corrected ∧ r.code = 0x01 ∧ r.die = d ∧ (s.dieTemp d (some v) k 0).mem = s.mem := by
  have hengaged : (s.thermRead d v).clamp = min 7 ((s.dvfs d).effective + 1) := if_pos (by simp [hd, habove, hclamp])
  have hsev : Sev.corrected ≠ .fatal := nofun
  have heq : s.dieTemp d (some v) k 0 =
      ((s.tempKept d v k).pwrRecord .corrected d 0x01 (0x40 + d) (ofSigned 16 v)).retargetAll := by
    rw [s.dieTemp_reads, State.tempTripped_calm (by omega), State.tempNoted_clamps hd hclamp (by omega)]
    intro h0
    simp [State.thermRead, h0]
    omega
  obtain ⟨r, hlast, hfacts⟩ := (s.tempKept d v k).pwrRecord_last hsev (.inl rfl)
    (State.logRoom_tempKept hroom (by omega)) d 0x01 (0x40 + d) (ofSigned 16 v)
  obtain ⟨hsrc, hsev', hcode, hdie⟩ := hfacts
  rw [heq, State.therm_pwrRecord _ _ hsev, State.tempKept_therm hin, if_pos hd, State.lastRecord_retargetAll,
    State.retargetAll_mem]
  exact ⟨r, hengaged, decide_eq_true habove, hlast, hsrc, hsev', hcode, hdie, (State.pwrRecord_noted _ hsev ..).mem⟩

/-- From 100 °C the die goes to P7, with its record. -/
theorem State.dieTemp_hot (hin : d < s.clk.therm.length) (hd : d < 2) (hclamp : (s.therm d).clamp ≠ 0)
    (hcool : (s.therm d).hot = false) (hhot : 1600 ≤ v) (hcalm : v < 1680) (hgroves : s.boundGroves = [])
    (hroom : s.logRoom = true) :
    ∃ r, ((s.dieTemp d (some v) k 0).therm d).hot = true ∧ (s.dieTemp d (some v) k 0).lastRecord = some r ∧ r.src = .pwr ∧
      r.sev = .deferred ∧ r.code = 0x02 ∧ r.die = d := by
  have hhotNew : (s.thermRead d v).hot = true := by simp [State.thermRead, hhot]
  have hsev : Sev.deferred ≠ .fatal := nofun
  have heq : s.dieTemp d (some v) k 0 =
      ((s.tempKept d v k).pwrRecord .deferred d 0x02 (0x40 + d) (ofSigned 16 v)).retargetAll := by
    rw [s.dieTemp_reads, State.tempTripped_calm hcalm, State.tempNoted_heats hd hclamp hcool hhotNew]
  obtain ⟨r, hlast, hfacts⟩ := (s.tempKept d v k).pwrRecord_last hsev (.inr hgroves)
    (State.logRoom_tempKept hroom (by omega)) d 0x02 (0x40 + d) (ofSigned 16 v)
  rw [heq, State.therm_pwrRecord _ _ hsev, State.tempKept_therm hin, if_pos hd, State.lastRecord_retargetAll]
  exact ⟨r, hhotNew, hlast, hfacts⟩

/-- A reading past its limits takes the device into the ash state with THERMTRIP_N. -/
theorem State.dieTemp_trips
    (htrip : 1760 ≤ v ∨ 1680 ≤ v ∧ ∃ o, (s.therm d).overSince = some o ∧ 100 ≤ s.aonUs - o) (hphase : s.sup.phase ≠ .ash)
    (hnone : s.wch.fatal = none) :
    ∃ r, (s.dieTemp d (some v) k 0).sup.phase = .ash ∧ (s.dieTemp d (some v) k 0).sup.thermLow = true ∧
      (s.dieTemp d (some v) k 0).wch.fatal = some r ∧ r.src = .pwr ∧ r.sev = .fatal ∧ r.code = 0x03 ∧ r.die = d := by
  obtain ⟨hphase', hnone'⟩ := s.tempNoted_leaves d v k
  rw [s.dieTemp_reads, State.tempTripped_fatal htrip hphase, State.retargetAll_sup, State.retargetAll_wch]
  exact State.pwrRecord_trips (hphase' ▸ hphase) (hnone'.trans hnone) (0x40 + d) (ofSigned 16 v)

/-- Sensors unreadable for 1 ms are a fault, recorded once. -/
theorem State.dieTemp_unreadable {o : Nat} (hin : d < s.clk.therm.length) (hd : d < 2) (hbad : (s.therm d).badSince = some o)
    (hlong : 1000 ≤ s.aonUs - o) (hfault : (s.therm d).fault = false) (hgroves : s.boundGroves = []) (hroom : s.logRoom = true) :
    ∃ r, ((s.dieTemp d none k 0).therm d).fault = true ∧ (s.dieTemp d none k 0).lastRecord = some r ∧ r.src = .pwr ∧
      r.sev = .deferred ∧ r.code = 0x0B := by
  have hsev : Sev.deferred ≠ .fatal := nofun
  have heq : s.dieTemp d none k 0 = ((s.thermFaulted d).pwrRecord .deferred d 0x0B (0x40 + d) 0).retargetAll := by
    refine if_pos ?_
    simp [hbad, hlong, hfault, hd]
  have hroom' : (s.thermFaulted d).logRoom = true := (State.logRoom_congr rfl).trans hroom
  obtain ⟨r, hlast, hsrc, hsev', hcode, -⟩ := (s.thermFaulted d).pwrRecord_last hsev (.inr hgroves) hroom' d 0x0B (0x40 + d) 0
  rw [heq, State.therm_pwrRecord _ _ hsev, s.thermFaulted_therm d hin, State.lastRecord_retargetAll]
  exact ⟨r, rfl, hlast, hsrc, hsev', hcode⟩

/-! ## The clamp's step -/

theorem State.clampStep_tightens (hclamp : (s.therm d).clamp ≠ 0) (h : (s.therm d).above = true) :
    s.clampStep d = (s.modTherm d fun t => { t with clamp := min 7 (t.clamp + 1) }).retarget d :=
  (if_neg hclamp).trans (if_pos h)

theorem State.clampStep_lifts {o : Nat} (hclamp : (s.therm d).clamp ≠ 0) (h : (s.therm d).above = false)
    (hcool : (s.therm d).coolSince = some o) (hlong : 10000 ≤ s.aonUs - o) :
    s.clampStep d = (s.modTherm d fun t => { t with clamp := t.clamp - 1 }).retarget d :=
  (if_neg hclamp).trans ((if_neg (by simp [h])).trans (if_pos (by simp [hcool, hlong])))

/-- A change of the clamp leaves everything but the clocks. -/
theorem State.retarget_modTherm (hin : d < s.clk.therm.length) (f : Therm → Therm) :
    ((s.modTherm d f).retarget d).therm d = f (s.therm d) ∧ { (s.modTherm d f).retarget d with clk := s.clk } = s := by
  obtain ⟨l, hl⟩ := (s.modTherm d f).retarget_frame d
  rw [hl]
  exact ⟨s.therm_modTherm d hin f, rfl⟩

end

section
variable {s : State} {d : Nat} (hheld : s.sup.recovery ≠ .resetHeld)
include hheld

theorem exec_dieTempSample (r : Option Int) (k u : Nat) :
    exec (.dieTempSample d r k u) s = .next (s.dieTemp d r k u) := congrArg _ (State.unheld_of hheld _)

theorem exec_thermalClampStep : exec (.thermalClampStep d) s = .next (s.clampStep d) :=
  congrArg _ (State.unheld_of hheld _)

end

/-- Settles O48: what each reading crosses decides its records; the clamp's step follows the last reading. -/
theorem thermalLimits : Obligations.ThermalLimits := by
  intro s d k y x hheld hd hlen _ hx
  subst hx
  have hin : d < s.clk.therm.length := by omega
  have hread := fun r => exec_dieTempSample (s := s) (d := d) hheld r k 0
  refine ⟨fun hk _ hcool hbelow => ⟨_, hread _, State.dieTemp_cool hin hk hcool hbelow⟩,
    fun _ hd2 hclamp hcool habove hroom => ?_, fun hd2 hclamp hcool hhot hcalm hgroves hroom => ?_,
    fun htrip hphase hnone => ?_, fun o hd2 hbad hlong hfault hgroves hroom => ?_,
    fun _ hclamp => ⟨fun habove => ?_, fun o habove hcool hlong => ?_⟩⟩
  · obtain ⟨r, h⟩ := State.dieTemp_throttles (k := k) hin hd2 hclamp hcool habove hroom
    exact ⟨_, r, hread _, h⟩
  · obtain ⟨r, hot, h⟩ := State.dieTemp_hot (k := k) hin hd2 hclamp hcool hhot hcalm hgroves hroom
    exact ⟨_, r, hread _, hot, State.wantedPoint_hot hd2 hot, h⟩
  · obtain ⟨r, h⟩ := State.dieTemp_trips (k := k) htrip hphase hnone
    exact ⟨_, r, hread _, h⟩
  · obtain ⟨r, h⟩ := State.dieTemp_unreadable (k := k) hin hd2 hbad hlong hfault hgroves hroom
    exact ⟨_, r, hread _, h⟩
  · obtain ⟨hnew, hrest⟩ := State.retarget_modTherm hin fun t => { t with clamp := min 7 (t.clamp + 1) }
    exact ⟨_, (exec_thermalClampStep hheld).trans (congrArg _ (State.clampStep_tightens hclamp habove)),
      congrArg Therm.clamp hnew, hrest⟩
  · obtain ⟨hnew, hrest⟩ := State.retarget_modTherm hin fun t => { t with clamp := t.clamp - 1 }
    exact ⟨_, (exec_thermalClampStep hheld).trans (congrArg _ (State.clampStep_lifts hclamp habove hcool hlong)),
      congrArg Therm.clamp hnew, hrest⟩

end Sys2Proof.Machine
end

section
/-! PROOFS. Rails, input voltage and telemetry (R600 to R603, R617, R621; O47). -/
namespace Sys2Proof.Machine

/-! ## A sample of the rails -/

section
variable {s : State} {w x b : Nat}

/-- The state that shows a sample, and since when VIN and V3P3_AUX stand in their windows. -/
def State.railsShown (s : State) (w : Nat) : State :=
  let keep := fun (ok : Bool) (o : Option Nat) => if ok then some (o.getD s.aonUs) else none
  (s.putReg .PWR_RAIL_STATUS [] (BitVec.ofNat 64 w)).modClk fun c =>
    { c with vinSince := keep (bit w 0) c.vinSince, auxSince := keep (bit w 1) c.auxSince }

theorem State.railSample_up (h : s.clk.railsUp = true) :
    s.railSample w x = (s.railsShown w).each (List.range 14) fun s b => s.railOne w x b := if_pos h

theorem State.railSample_waits (h : s.clk.railsUp = false) (hw : w ≠ 2 ^ 14 - 1 ∨ s.clk.pscPg = false) :
    s.railSample w x = s.railsShown w := by
  have hready : (decide (w = 2 ^ 14 - 1) && (s.railsShown w).clk.pscPg) = false := by
    rw [show (s.railsShown w).clk.pscPg = s.clk.pscPg from rfl]
    simpa [Bool.and_eq_false_iff, or_iff_not_imp_left] using hw
  exact (if_neg (Bool.eq_false_iff.mp h)).trans (if_neg (Bool.eq_false_iff.mp hready))

theorem State.railSample_powers (h : s.clk.railsUp = false) (hw : w = 2 ^ 14 - 1) (hpg : s.clk.pscPg = true) :
    s.railSample w x = ((s.railsShown w).modClk fun c => { c with railsUp := true }).bank :=
  (if_neg (Bool.eq_false_iff.mp h)).trans (if_pos (by
    rw [Bool.and_eq_true_iff]
    exact ⟨decide_eq_true hw, hpg⟩))

/-! ### One rail -/

/-- A rail in its window is no longer out. -/
theorem State.railOne_in (h : bit w b = true) :
    s.railOne w x b = s.modClk fun c => { c with railOut := terase (terase c.railOut b) (100 + b) } := if_pos (by simp [h])

/-- Rails in their windows change the clocks only, and keep what the clocks hold but of those rails. -/
theorem State.each_railOne_in {l : List Nat} (s : State) (h : ∀ c ∈ l, bit w c = true) :
    { s.each l fun s b => s.railOne w x b with clk := s.clk } = s ∧
      (s.each l fun s b => s.railOne w x b).clk.railsUp = s.clk.railsUp ∧
      ∀ k, (∀ c ∈ l, k ≠ c ∧ k ≠ 100 + c) →
        tget (s.each l fun s b => s.railOne w x b).clk.railOut k = tget s.clk.railOut k := by
  induction l generalizing s with
  | nil => exact ⟨rfl, rfl, fun _ _ => rfl⟩
  | cons c l ih =>
    have hone := State.railOne_in (s := s) (x := x) (h c List.mem_cons_self)
    obtain ⟨hrest, hup, hout⟩ := ih (s.railOne w x c) fun d hd => h d (List.mem_cons_of_mem _ hd)
    rw [show s.each (c :: l) (fun s b => s.railOne w x b) = (s.railOne w x c).each l fun s b => s.railOne w x b from rfl]
    generalize (s.railOne w x c).each l (fun s b => s.railOne w x b) = t at hrest hup hout
    rw [hone] at hrest hup hout
    refine ⟨congrArg (fun u : State => { u with clk := s.clk }) hrest, hup, fun k hk => ?_⟩
    obtain ⟨hc, hmark⟩ := hk c List.mem_cons_self
    rw [hout k fun d hd => hk d (List.mem_cons_of_mem _ hd)]
    exact (tget_terase_other _ hmark).trans (tget_terase_other _ hc)

/-- A fatal record of the PWR block takes the device into the ash state; the first stands in WCH_FATAL. -/
theorem State.pwrRecord_fatal_first (hnone : s.wch.fatal = none) (die code item value : Nat) :
    ∃ r, (s.pwrRecord .fatal die code item value).sup.phase = .ash ∧
      (s.pwrRecord .fatal die code item value).wch.fatal = some r ∧ r.src = .pwr ∧ r.sev = .fatal ∧ r.code = code := by
  rw [s.pwrRecord_fatal]
  have hkept : (s.putReg .PWR_FAULT_LAST [] (faultWord s code item value)).wch.fatal = none := hnone
  obtain ⟨r, hr, hsrc, hsev, -, hcode⟩ := State.fatal_first hkept .pwr die code none (item + value % 2 ^ 16 * 2 ^ 8)
  exact ⟨r, State.phase_fatal_ash .., hr, hsrc, hsev, hcode⟩

/-- The clocks of a device that marks a rail as out too long. -/
def State.railMarked (s : State) (b since : Nat) : State :=
  (s.modClk fun c => { c with railOut := tset c.railOut b since }).modClk fun c =>
    { c with railOut := tset c.railOut (100 + b) since }

/-- A rail out of its window too long is recorded as fatal. -/
theorem State.railOne_due {since : Nat} (hout : bit w b = false) (hjudged : s.railJudged b = true)
    (hsince : tget s.clk.railOut b = some since) (hmark : tget s.clk.railOut (100 + b) = none)
    (hdue : (if b = 1 then 20 else 5) ≤ s.aonUs - since) :
    s.railOne w x b =
      if b ≥ 11 then ((s.railMarked b since).pwrRecord .fatal (railDie b) (if b = 1 then 0x07 else 0x06) b x).loseStacks
      else (s.railMarked b since).pwrRecord .fatal (railDie b) (if b = 1 then 0x07 else 0x06) b x := by
  have hkept : tgetD s.clk.railOut b s.aonUs = since := by rw [tgetD, hsince]; rfl
  have hunmarked : (tget (tset s.clk.railOut b since) (100 + b)).isNone = true := by
    rw [tget_tset_other _ _ (by omega), hmark]
    rfl
  unfold State.railOne
  rw [if_neg (by simp [hout, hjudged]), hkept]
  exact if_pos (Bool.and_eq_true_iff.mpr ⟨decide_eq_true hdue, hunmarked⟩)

theorem State.loseStacks_sup (s : State) : s.loseStacks.sup = s.sup := (rfl)
theorem State.loseStacks_wch (s : State) : s.loseStacks.wch = s.wch := (rfl)

/-- It takes the device into the ash state. -/
theorem State.railOne_fatal {since : Nat} (hout : bit w b = false) (hjudged : s.railJudged b = true)
    (hsince : tget s.clk.railOut b = some since) (hmark : tget s.clk.railOut (100 + b) = none)
    (hdue : (if b = 1 then 20 else 5) ≤ s.aonUs - since) (hnone : s.wch.fatal = none) :
    ∃ r, (s.railOne w x b).sup.phase = .ash ∧ (s.railOne w x b).wch.fatal = some r ∧ r.src = .pwr ∧ r.sev = .fatal ∧
      r.code = if b = 1 then 0x07 else 0x06 := by
  obtain ⟨r, hash, hr, hsrc, hsev, hcode⟩ := State.pwrRecord_fatal_first (s := s.railMarked b since) hnone (railDie b)
    (if b = 1 then 0x07 else 0x06) b x
  rw [State.railOne_due hout hjudged hsince hmark hdue]
  split
  · exact ⟨r, by rw [State.loseStacks_sup, hash], by rw [State.loseStacks_wch, hr], hsrc, hsev, hcode⟩
  · exact ⟨r, hash, hr, hsrc, hsev, hcode⟩

/-- The sample in which one rail is out of its window. -/
theorem bit_allBut : ∀ b < 14, ∀ c < 14, bit (2 ^ 14 - 1 - 2 ^ b) c = decide (c ≠ b) := by decide

/-- Every rail but one in its window: the one that is out too long is fatal. -/
theorem State.railSample_fatal {since : Nat} (hup : s.clk.railsUp = true) (h1 : 1 ≤ b) (hb : b < 14)
    (hw : w = 2 ^ 14 - 1 - 2 ^ b) (hsmoulder : s.regFld .PWR_SMOULDER [] 0 2 = 0)
    (hsince : tget s.clk.railOut b = some since) (hmark : tget s.clk.railOut (100 + b) = none)
    (hdue : (if b = 1 then 20 else 5) ≤ s.aonUs - since) (hnone : s.wch.fatal = none) :
    ∃ r, (s.railSample w x).sup.phase = .ash ∧ (s.railSample w x).wch.fatal = some r ∧ r.src = .pwr ∧ r.sev = .fatal ∧
      r.code = if b = 1 then 0x07 else 0x06 := by
  have hbits : ∀ c < 14, bit w c = decide (c ≠ b) := by
    rw [hw]
    exact bit_allBut b hb
  obtain ⟨pre, post, hsplit⟩ := List.append_of_mem (List.mem_range.mpr hb)
  have hnodup : (pre ++ b :: post).Nodup := hsplit ▸ List.nodup_range
  have hpre : ∀ c ∈ pre, c < 14 ∧ c ≠ b := fun c hc =>
    ⟨List.mem_range.mp (hsplit ▸ List.mem_append_left _ hc),
      fun h => (List.nodup_append.mp hnodup).2.2 c hc b List.mem_cons_self h⟩
  have hpost : ∀ c ∈ post, c < 14 ∧ c ≠ b := fun c hc =>
    ⟨List.mem_range.mp (hsplit ▸ List.mem_append_right _ (List.mem_cons_of_mem _ hc)),
      fun h => (List.nodup_cons.mp (List.nodup_append.mp hnodup).2.1).1 (h ▸ hc)⟩
  have heq : s.railSample w x =
      State.each (State.railOne ((s.railsShown w).each pre fun s b => s.railOne w x b) w x b) post
        fun s b => s.railOne w x b := by
    rw [State.railSample_up hup, hsplit, State.each, List.foldl_append]
    rfl
  obtain ⟨hrest, hup', hkeeps⟩ := State.each_railOne_in (x := x) (s.railsShown w) fun c hc => by
    rw [hbits c (hpre c hc).1, decide_eq_true (hpre c hc).2]
  rw [heq]
  generalize (s.railsShown w).each pre (fun s b => s.railOne w x b) = u at hrest hup' hkeeps
  have hregs : u.regs = (s.railsShown w).regs := (congrArg State.regs hrest :)
  have haon : u.aonUs = s.aonUs := (congrArg State.aonUs hrest :)
  have hfatal : u.wch.fatal = none := (congrArg (·.wch.fatal) hrest :).trans hnone
  have hjudged : u.railJudged b = true := by
    have hreg : u.getReg .PWR_SMOULDER [] = s.getReg .PWR_SMOULDER [] :=
      (State.getReg_congr hregs _ _).trans (State.getReg_putReg_other _ _ (by decide))
    have hsm : u.regFld .PWR_SMOULDER [] 0 2 = 0 := (congrArg (wfld · 0 2) hreg).trans hsmoulder
    simp [State.railJudged, hup'.trans hup, h1, hsm]
  obtain ⟨r, hash, hr, hfacts⟩ := State.railOne_fatal (s := u) (w := w) (x := x) (b := b) (since := since)
    (by rw [hbits b hb]; simp) hjudged
    ((hkeeps b fun c hc => ⟨(hpre c hc).2.symm, by have := (hpre c hc).1; omega⟩).trans hsince)
    ((hkeeps (100 + b) fun c hc => ⟨by have := (hpre c hc).1; omega, by have := (hpre c hc).2; omega⟩).trans hmark)
    (haon ▸ hdue) hfatal
  obtain ⟨hlast, -, -⟩ := State.each_railOne_in (x := x) (u.railOne w x b) fun c hc => by
    rw [hbits c (hpost c hc).1, decide_eq_true (hpost c hc).2]
  refine ⟨r, ?_, ?_, hfacts⟩
  · exact ((congrArg (·.sup.phase) hlast :).trans hash :)
  · exact ((congrArg (·.wch.fatal) hlast :).trans hr :)

end

/-! ## Power-up -/

/-- Closing the ports leaves memory and the field tests. -/
theorem State.portsOff_memTests (s : State) : s.portsOff.mem = s.mem ∧ s.portsOff.wch.tests = s.wch.tests := by
  have hP : RecordFree fun t => t.mem = s.mem ∧ t.wch.tests = s.wch.tests :=
    ⟨fun _ _ _ h => h, fun _ h => h, fun _ _ htests h => ⟨h.1, htests.trans h.2⟩, fun _ _ h => h⟩
  exact hP.portsOff (fun _ h => h) ⟨rfl, rfl⟩

theorem State.abortTests_none {s : State} (h : s.wch.tests = []) (p : FieldTest → Bool) : s.abortTests p = s := by
  rw [State.abortTests, h]
  rfl

/-- Banking without a running field test leaves memory. -/
theorem State.mem_bank {s : State} (h : s.wch.tests = []) : s.bank.mem = s.mem := by
  obtain ⟨hmem, htests⟩ := ((s.modClk ClockState.bankClocks).putReg .CLK_PLL_STATUS [] 0).portsOff_memTests
  have hbank : s.bank = State.abortTests
      ((s.modClk ClockState.bankClocks).putReg .CLK_PLL_STATUS [] 0).portsOff.linksDown fun _ => true := rfl
  generalize ((s.modClk ClockState.bankClocks).putReg .CLK_PLL_STATUS [] 0).portsOff = u at hmem htests hbank
  have hnone : u.linksDown.wch.tests = [] := htests.trans h
  rw [hbank, State.abortTests_none hnone]
  exact hmem

/-! ## Input voltage and telemetry -/

section
variable {s : State} {x : Nat}

/-- VIN out of its window is shown. -/
def State.vinShown (s : State) : State := (s.modClk fun c => { c with vinSince := none }).putFld .PWR_RAIL_STATUS [] 0 1 0

theorem State.vinShown_clears (s : State) : s.vinShown.regFld .PWR_RAIL_STATUS [] 0 1 = 0 :=
  State.regFld_putFld_same _ _ _ 0 (by omega)

theorem State.vinOut_eq (hx : x < 4000 ∨ 6000 < x) (hup : s.clk.railsUp = true) :
    s.vinOut x = if x < 3000 || x > 6400 then (s.vinShown.pwrRecord .fatal 2 0x05 0 x).shutdown
      else s.vinShown.pwrRecord .fatal 2 0x05 0 x := by
  have hshown : (if s.vinShown.clk.railsUp then s.vinShown.pwrRecord .fatal 2 0x05 0 x else s.vinShown) =
      s.vinShown.pwrRecord .fatal 2 0x05 0 x := if_pos hup
  unfold State.vinOut
  rw [if_neg (by simp; omega), ← hshown]
  rfl

theorem State.shutdown_leaves (s : State) :
    s.shutdown.sup = s.sup ∧ s.shutdown.wch = s.wch ∧ s.shutdown.clk.railsUp = false ∧ s.shutdown.mem.cells = [] ∧
      s.shutdown.getReg .PWR_RAIL_STATUS [] = s.getReg .PWR_RAIL_STATUS [] &&& BitVec.ofNat 64 0x6 :=
  ⟨rfl, rfl, rfl, rfl, State.getReg_putReg_same ..⟩

theorem wfld_and_bit0 (v : Word) : wfld (v &&& BitVec.ofNat 64 0x6) 0 1 = 0 := by
  refine Nat.eq_of_testBit_eq fun i => ?_
  rw [testBit_wfld_low, Nat.zero_testBit]
  obtain rfl | hi : i = 0 ∨ 1 ≤ i := by omega
  · simp
  · simp; omega

/-- A fatal record of the PWR block, as it enters the ash state. -/
theorem State.pwrRecord_fatal_leaves (h : s.sup.phase ≠ .ash) (die code item value : Nat) :
    (s.pwrRecord .fatal die code item value).clk = { s.clk.portsGone with dvfs := [{}, {}] } ∧
      (s.pwrRecord .fatal die code item value).getReg .PWR_RAIL_STATUS [] = s.getReg .PWR_RAIL_STATUS [] := by
  have hphase : (s.putReg .PWR_FAULT_LAST [] (faultWord s code item value)).sup.phase ≠ .ash := h
  obtain ⟨hclk, -, -, hreg⟩ := State.fatal_leaves hphase .pwr die code none (item + value % 2 ^ 16 * 2 ^ 8)
  rw [s.pwrRecord_fatal]
  exact ⟨hclk, (hreg .PWR_RAIL_STATUS [] (by decide) (by decide) (by decide)).trans
    (State.getReg_putReg_other _ _ (by decide))⟩

/-- VIN out of its window is fatal, and far out of it the rails shut down. -/
theorem State.vinOut_fatal (hx : x < 4000 ∨ 6000 < x) (hup : s.clk.railsUp = true) (hphase : s.sup.phase ≠ .ash)
    (hnone : s.wch.fatal = none) :
    ∃ r, (s.vinOut x).sup.phase = .ash ∧ (s.vinOut x).regFld .PWR_RAIL_STATUS [] 0 1 = 0 ∧
      (s.vinOut x).wch.fatal = some r ∧ r.src = .pwr ∧ r.code = 0x05 ∧
      (s.vinOut x).clk.railsUp = (decide (3000 ≤ x) && decide (x ≤ 6400)) ∧
      ((s.vinOut x).clk.railsUp = false → (s.vinOut x).mem.cells = []) := by
  have hup' : s.vinShown.clk.railsUp = true := hup
  have hclear := s.vinShown_clears
  obtain ⟨r, hash, hr, hsrc, -, hcode⟩ := State.pwrRecord_fatal_first (s := s.vinShown) hnone 2 0x05 0 x
  obtain ⟨hclk, hreg⟩ := State.pwrRecord_fatal_leaves (s := s.vinShown) hphase 2 0x05 0 x
  rw [State.vinOut_eq hx hup]
  generalize s.vinShown.pwrRecord .fatal 2 0x05 0 x = e at hash hr hclk hreg
  have hrails : e.clk.railsUp = true := (congrArg ClockState.railsUp hclk).trans hup'
  split
  next hfar =>
    obtain ⟨hsup, hwch, hdown, hcells, hstatus⟩ := e.shutdown_leaves
    refine ⟨r, by rw [hsup, hash], ?_, by rw [hwch, hr], hsrc, hcode, ?_, fun _ => hcells⟩
    · rw [State.regFld, hstatus, wfld_and_bit0]
    · rw [hdown]
      simp at hfar ⊢
      omega
  next hnear =>
    refine ⟨r, hash, (congrArg (wfld · 0 1) hreg).trans hclear, hr, hsrc, hcode, ?_, fun h => absurd (hrails.symm.trans h) nofun⟩
    rw [hrails]
    simp at hnear ⊢
    omega

/-- The link to the 48 V controller is lost while it powers the device. -/
theorem State.ctrlLink_fatal (hen : s.clk.pscEn = true) (f : ClockState → ClockState)
    (hf : (f s.clk).frames = 0 ∧ (f s.clk).pscEn = s.clk.pscEn) (hphase : s.sup.phase ≠ .ash) (hnone : s.wch.fatal = none) :
    ∃ r, (s.ctrlLink f).sup.phase = .ash ∧ (s.ctrlLink f).clk.frames = 0 ∧ (s.ctrlLink f).clk.pscEn = true ∧
      (s.ctrlLink f).wch.fatal = some r ∧ r.src = .pwr ∧ r.code = 0x0C := by
  have heq : s.ctrlLink f = (s.modClk f).pwrRecord .fatal 2 0x0C 0 0 := if_pos hen
  obtain ⟨r, hash, hr, hsrc, -, hcode⟩ := State.pwrRecord_fatal_first (s := s.modClk f) hnone 2 0x0C 0 0
  obtain ⟨hclk, -⟩ := State.pwrRecord_fatal_leaves (s := s.modClk f) hphase 2 0x0C 0 0
  rw [heq]
  exact ⟨r, hash, (congrArg ClockState.frames hclk).trans hf.1, (congrArg ClockState.pscEn hclk).trans (hf.2.trans hen),
    hr, hsrc, hcode⟩

end

section
variable {s : State} (hheld : s.sup.recovery ≠ .resetHeld)
include hheld

theorem exec_railSample (w x : Nat) : exec (.railSample w x) s = .next (s.railSample w x) :=
  congrArg _ (State.unheld_of hheld _)

theorem exec_vinOutOfWindow (x : Nat) : exec (.vinOutOfWindow x) s = .next (s.vinOut x) :=
  congrArg _ (State.unheld_of hheld _)

theorem exec_pscTlmFrame (v c : Nat) (fault : Bool) : exec (.pscTlmFrame v c fault) s = .next (s.tlmFrame v c fault) :=
  congrArg _ (State.unheld_of hheld _)

theorem exec_pscPowerGood : exec .pscPowerGood s = .next s.powerGood := congrArg _ (State.unheld_of hheld _)

/-- The two losses of the controller's link, by what they change of the clocks. -/
theorem exec_ctrlLink {c : Instr} (hc : c = .pscTlmMissing ∨ c = .pscFault) :
    ∃ f : ClockState → ClockState, exec c s = .next (s.ctrlLink f) ∧ (f s.clk).frames = 0 ∧
      (f s.clk).pscEn = s.clk.pscEn := by
  obtain rfl | rfl := hc
  · exact ⟨fun c => { c with frames := 0 }, congrArg _ (State.unheld_of hheld _), rfl, rfl⟩
  · exact ⟨fun c => { c with pscFault := true, frames := 0 }, congrArg _ (State.unheld_of hheld _), rfl, rfl⟩

end

/-- Settles O47: the sample by what it finds, VIN, the telemetry and the controller's signals. -/
theorem supplies : Obligations.Supplies := by
  intro s w x b since flt hheld hw
  have hsample := exec_railSample hheld w x
  refine ⟨fun hdown hwait => ?_, fun hdown hall hpg => ?_, fun hup hall => ?_,
    fun hup h1 hb hall hsm hsince hmark hdue _ hnone => ?_, fun hx hup hphase hnone => ?_, fun y hw' hy => ?_,
    fun c hc => ?_, fun hen => ?_, fun hen => ?_⟩
  · exact ⟨_, hsample.trans (congrArg _ (State.railSample_waits hdown hwait)), State.getReg_putReg_same .., hdown, rfl⟩
  · obtain ⟨-, hclk, hlocks⟩ := ((s.railsShown w).modClk fun c => { c with railsUp := true }).bank_leaves
    exact ⟨_, hsample.trans (congrArg _ (State.railSample_powers hdown hall hpg)), congrArg ClockState.railsUp hclk,
      congrArg ClockState.banked hclk, hlocks, fun htests => State.mem_bank htests⟩
  · have hbits : ∀ c ∈ List.range 14, bit w c = true := by
      rw [hall]
      decide
    obtain ⟨hrest, -, -⟩ := State.each_railOne_in (x := x) (s.railsShown w) hbits
    refine ⟨_, hsample.trans (congrArg _ (State.railSample_up hup)), ?_, ?_⟩
    · exact (State.getReg_congr (congrArg State.regs hrest :) _ _).trans (State.getReg_putReg_same ..)
    · exact congrArg (fun u : State => { u with clk := s.clk, regs := s.regs }) hrest
  · obtain ⟨r, h⟩ := State.railSample_fatal (x := x) hup h1 hb hall hsm hsince hmark hdue hnone
    exact ⟨_, r, hsample, h⟩
  · obtain ⟨r, h⟩ := State.vinOut_fatal hx hup hphase hnone
    exact ⟨_, r, exec_vinOutOfWindow hheld x, h⟩
  · refine ⟨_, exec_pscTlmFrame hheld w y flt, ?_, ?_, ?_, rfl, rfl, rfl⟩
    · exact (State.regFld_putFld_below _ _ _ y (by omega) (by omega)).trans
        ((State.regFld_putFld_same _ _ _ w (by omega)).trans (Nat.mod_eq_of_lt (by omega)))
    · exact (State.regFld_putFld_same _ _ _ y (by omega)).trans (Nat.mod_eq_of_lt hy)
    · exact (State.regFld_putFld_above _ _ _ y 16 (by omega) (by omega)).trans
        (State.regFld_putFld_above _ _ _ w 16 (by omega) (by omega))
  · obtain ⟨f, hexec, hframes, hpsc⟩ := exec_ctrlLink hheld hc
    refine ⟨fun hen hphase hnone => ?_, fun hen => ?_⟩
    · obtain ⟨r, h⟩ := State.ctrlLink_fatal hen f ⟨hframes, hpsc⟩ hphase hnone
      exact ⟨_, r, hexec, h⟩
    · exact ⟨_, hexec.trans (congrArg _ (if_neg (Bool.eq_false_iff.mp hen))), hframes, rfl⟩
  · exact ⟨_, (exec_pscPowerGood hheld).trans (congrArg _ (if_pos hen)), rfl,
      State.regFld_putFld_same _ _ _ 1 (by omega), rfl⟩
  · exact (exec_pscPowerGood hheld).trans (congrArg _ (if_neg (Bool.eq_false_iff.mp hen)))

end Sys2Proof.Machine
end

section
/-! PROOFS. PLL locks and island clocks (R589, R594, R595, R613; O45). -/
namespace Sys2Proof.Machine

section
variable {s : State} {pll : Nat}

/-- An unlocked PLL loses its lock bit and is counted. -/
def State.unlockNoted (s : State) (pll : Nat) : State := (s.putFld .CLK_PLL_STATUS [] pll 1 0).bump .CLK_UNLOCK []

theorem State.unlockNoted_noted (s : State) (pll : Nat) : Noted s (s.unlockNoted pll) :=
  State.bump_noted _ _ _ (State.putReg_noted _ _ _ (Noted.refl s))

theorem State.unlockNoted_regs (hpll : pll < 10) :
    (s.unlockNoted pll).regFld .CLK_PLL_STATUS [] pll 1 = 0 ∧
      (s.unlockNoted pll).getReg .CLK_UNLOCK [] = (statAdd (s.getReg .CLK_UNLOCK []) 1).1 := by
  constructor
  · exact (congrArg (wfld · pll 1) (State.getReg_bump_low_other _ (by decide) (by decide) 1)).trans
      (State.regFld_putFld_same _ _ _ 0 (by omega))
  · refine (State.getReg_bump_low _ (by decide) 1).trans ?_
    rw [State.putFld, State.getReg_putReg_other _ _ (by decide)]

theorem State.unlockNoted_sup (s : State) (pll : Nat) : (s.unlockNoted pll).sup.phase = s.sup.phase ∧
    (s.unlockNoted pll).wch.fatal = s.wch.fatal := by
  refine ⟨State.phase_of_restSide ?_, State.fatal_bump ..⟩
  unfold State.unlockNoted
  simp [Reg.global]

theorem State.testMode_congr {t : State} (h : t.pkg = s.pkg) : t.testMode = s.testMode := by
  simp only [State.testMode, h]

/-- The first fatal record of the CLK block stands in WCH_FATAL, and the device is in the ash state. -/
theorem State.clkRecord_fatal_first (hnone : s.wch.fatal = none) (die code item value : Nat) :
    ∃ r, (s.clkRecord .fatal die code item value).sup.phase = .ash ∧
      (s.clkRecord .fatal die code item value).wch.fatal = some r ∧ r.src = .clk ∧ r.sev = .fatal ∧ r.code = code := by
  obtain ⟨d, hd⟩ := s.clkRecord_fatal die code item value
  have hkept : (s.putReg .CLK_FAULT_LAST [] (faultWord s code item value)).wch.fatal = none := hnone
  obtain ⟨r, hr, hsrc, hsev, -, hcode⟩ := State.fatal_first hkept .clk die code none d
  rw [hd]
  exact ⟨r, State.phase_fatal_ash .., hr, hsrc, hsev, hcode⟩

/-- A record of the CLK block keeps the phase. -/
theorem State.phase_clkRecord {sev : Sev} (h : sev ≠ .fatal) (die code item value : Nat) :
    (s.clkRecord sev die code item value).sup.phase = s.sup.phase := by
  obtain ⟨d, hd⟩ := s.clkRecord_eq h die code item value
  rw [hd]
  exact (State.phase_of_restSide (State.restSide_record ..)).trans rfl

/-! ## What a lost lock starts -/

/-- In kindling, and in test mode, a lost lock banks the PLLs. -/
theorem State.clockLost_kindling {item : Nat} (h : s.sup.phase = .kindling) :
    (s.clockLost item).clk.banked = true ∧ (s.clockLost item).sup.phase = .kindling ∧
      (s.clockLost item).getReg .CLK_PLL_STATUS [] = 0 := by
  obtain ⟨hphase, hclk, hlocks⟩ := s.bank_leaves
  have hbanked : s.bank.clk.banked = true := congrArg ClockState.banked hclk
  unfold State.clockLost
  split
  · exact ⟨hbanked, hphase.trans h, hlocks⟩
  · have hsev : Sev.deferred ≠ .fatal := nofun
    rw [if_pos (beq_iff_eq.mpr h), (s.bank.clkRecord_noted hsev ..).clk, State.phase_clkRecord hsev,
      s.bank.getReg_clkRecord hsev (by decide) (by decide)]
    exact ⟨hbanked, hphase.trans h, hlocks⟩

theorem State.clockLost_service {item : Nat} (h : s.sup.phase = .service) (htest : s.testMode = false) :
    s.clockLost item = s.clkRecord .fatal (pllDie item) 0x04 item :=
  (if_neg (by simp [htest])).trans ((if_neg (by simp [h])).trans (if_pos (by simp [h])))

theorem State.clockLost_smoulder {item : Nat} (h : s.sup.phase = .smoulder) (htest : s.testMode = false) :
    s.clockLost item = s :=
  (if_neg (by simp [htest])).trans ((if_neg (by simp [h])).trans (if_neg (by simp [h])))

theorem State.pllUnlock_eq (s : State) (pll : Nat) :
    s.pllUnlock pll = if (s.unlockNoted pll).clk.banked then s.unlockNoted pll else (s.unlockNoted pll).clockLost pll := (rfl)

/-- Already banked, or in smoulder, nothing more happens. -/
theorem State.pllUnlock_quiet (h : s.clk.banked = true ∨ s.sup.phase = .smoulder) (htest : s.testMode = false) :
    s.pllUnlock pll = s.unlockNoted pll := by
  have hnoted := s.unlockNoted_noted pll
  rw [s.pllUnlock_eq, hnoted.clk]
  obtain hbanked | hsmoulder := h
  · exact if_pos hbanked
  · split
    · rfl
    · exact State.clockLost_smoulder ((s.unlockNoted_sup pll).1.trans hsmoulder)
        ((State.testMode_congr hnoted.pkg).trans htest)

theorem State.pllUnlock_running (h : s.clk.banked = false) : s.pllUnlock pll = (s.unlockNoted pll).clockLost pll := by
  rw [s.pllUnlock_eq, (s.unlockNoted_noted pll).clk]
  exact if_neg (Bool.eq_false_iff.mp h)

/-! ## Monitors -/

theorem State.monitor_fatal {i : Island} {khz : Nat} {late : Bool} (hup : s.clk.railsUp = true) (hgate : s.islandGated i = false)
    (h : late = true ∨ s.islandKhz i < 20 * (khz - s.islandKhz i) ∨ s.islandKhz i < 20 * (s.islandKhz i - khz)) :
    s.monitor i khz late = s.clkRecord .fatal (islandDie i) 0x05 (s.islandItem i) := by
  unfold State.monitor
  dsimp only
  rw [if_neg (by simp [hup, hgate]), if_pos]
  rw [Bool.or_eq_true, decide_eq_true_eq, or_comm]
  refine h.imp_right fun hoff => ?_
  split <;> omega

theorem State.monitor_quiet {i : Island} {khz : Nat} (h1 : 20 * (khz - s.islandKhz i) ≤ s.islandKhz i)
    (h2 : 20 * (s.islandKhz i - khz) ≤ s.islandKhz i) : s.monitor i khz false = s := by
  unfold State.monitor
  dsimp only
  split
  · rfl
  · refine if_neg ?_
    rw [Bool.or_false, decide_eq_true_eq]
    split <;> omega

end

/-- Settles O45: an unlock by the phase it meets, and a monitor's window by what it finds. -/
theorem clockFaults : Obligations.ClockFaults := by
  intro s pll khz i late hheld hpll
  have hunlock : exec (.pllUnlock pll) s = .next (s.pllUnlock pll) := congrArg _ (State.unheld_of hheld _)
  have hmonitor : exec (.clkMonitorWindow i khz late) s = .next (s.monitor i khz late) := congrArg _ (State.unheld_of hheld _)
  obtain ⟨hphase, hfatal⟩ := s.unlockNoted_sup pll
  have hnoted := s.unlockNoted_noted pll
  refine ⟨fun h htest => ?_, fun hrun hserv htest hnone => ?_, fun hrun hkind => ?_,
    fun hup hgate => ⟨fun hoff hnone _ => ?_, fun hlate h1 h2 => ?_⟩⟩
  · obtain ⟨hbit, hcount⟩ := State.unlockNoted_regs (s := s) hpll
    exact ⟨_, hunlock.trans (congrArg _ (State.pllUnlock_quiet h htest)), hbit, hcount, hnoted.clk, hphase, hnoted.mem⟩
  · obtain ⟨r, hash, hr, hsrc, -, hcode⟩ :=
      State.clkRecord_fatal_first (hfatal.trans hnone) (pllDie pll) 0x04 pll 0
    exact ⟨_, r, hunlock.trans (congrArg _ ((State.pllUnlock_running hrun).trans
      (State.clockLost_service (hphase.trans hserv) ((State.testMode_congr hnoted.pkg).trans htest)))), hash, hr, hsrc, hcode⟩
  · exact ⟨_, hunlock.trans (congrArg _ (State.pllUnlock_running hrun)), State.clockLost_kindling (hphase.trans hkind)⟩
  · obtain ⟨r, h⟩ := State.clkRecord_fatal_first hnone (islandDie i) 0x05 (s.islandItem i) 0
    exact ⟨_, r, hmonitor.trans (congrArg _ (State.monitor_fatal hup hgate hoff)), h⟩
  · subst hlate
    exact hmonitor.trans (congrArg _ (State.monitor_quiet h1 h2))

end Sys2Proof.Machine
end

section
/-! PROOFS. Clock references: judging, loss and selection (R591 to R594, R611, R612; O44). -/
namespace Sys2Proof.Machine

/-! ## A reference -/

section
variable {s : State} {k : Nat} {r : RefState}

/-- The third reference is the recovered one still in use; there is one only while `prev` names its lane. -/
def State.refExists (s : State) (k : Nat) : Prop := k < 2 ∨ s.clk.prev.isSome = true

theorem State.ref_setRef (h : s.refExists k) (hk : k < 3) : (s.setRef k r).ref k = r := by
  obtain rfl | rfl | rfl : k = 0 ∨ k = 1 ∨ k = 2 := by omega
  · rfl
  · rfl
  · obtain hlt | hprev := h
    · omega
    obtain ⟨p, hp⟩ := Option.isSome_iff_exists.mp hprev
    simp [State.ref, State.setRef, State.modClk, hp]

theorem State.refExists_of_judged (h : s.refJudged k = true) (hk : k < 3) : s.refExists k := by
  obtain hlt | rfl : k < 2 ∨ k = 2 := by omega
  · exact .inl hlt
  · refine .inr ?_
    cases hprev : s.clk.prev with
    | none => simp [State.refJudged, hprev] at h
    | some p => rfl

theorem State.refExists_of_present (h : (s.ref k).st ≠ 0) (hk : k < 3) : s.refExists k := by
  obtain hlt | rfl : k < 2 ∨ k = 2 := by omega
  · exact .inl hlt
  · refine .inr ?_
    cases hprev : s.clk.prev with
    | none => simp [State.ref, hprev] at h
    | some p => rfl

theorem State.setRef_rest (k : Nat) (r : RefState) (s : State) : { s.setRef k r with clk := s.clk } = s := (rfl)

/-- A switch that starts changes nothing but what is switched to. -/
theorem State.takeSelection_frame (s : State) : ∃ x, s.takeSelection = s.modClk fun c => { c with switching := x } := by
  unfold State.takeSelection
  dsimp only
  split
  · exact ⟨_, rfl⟩
  · exact ⟨s.clk.switching, rfl⟩

theorem State.ref_switching (s : State) (x : Option Nat) :
    (s.modClk fun c => { c with switching := x }).ref k = s.ref k := (rfl)

/-! ## Judging (R591) -/

theorem State.edgeDetect_absent (h : s.refJudged k = true) (hst : (s.ref k).st = 0) :
    s.edgeDetect k = s.setRef k { st := 1 } := if_pos (by simp [h, hst])

theorem State.edgeDetect_unjudged (h : s.refJudged k = false) : s.edgeDetect k = s := if_neg (by simp [h])

theorem State.qualWindow_unjudged {hz : Nat} {lock : Bool} (h : s.refJudged k = false) : s.qualWindow k hz lock = s :=
  if_pos (by simp [h])

theorem State.leaveGood_unused (h : (s.ref k).st ≠ 2 ∨ s.inUse k = false) : s.leaveGood k r = s.setRef k r := by
  refine if_neg ?_
  rw [Bool.and_eq_true, not_and_or, Bool.not_eq_true, Bool.not_eq_true, beq_eq_false_iff_ne]
  exact h

/-- The window is within 1 % of the reference's frequency. -/
def refInWindow (hz : Nat) : Bool := decide (154687500 ≤ hz) && decide (hz ≤ 157812500)

/-- A window of a QUALIFYING reference. -/
theorem State.qualWindow_qualifying {hz : Nat} {lock : Bool} (h : s.refJudged k = true) (hst : (s.ref k).st = 1)
    {n : RefState}
    (hn : n = { st := 1, count := min 100 ((s.ref k).count + 1), locked := if lock then min 10 ((s.ref k).locked + 1) else 0 }) :
    s.qualWindow k hz lock =
      if refInWindow hz then
        (if n.count = 100 && n.locked = 10 then (s.setRef k { n with st := 2 }).takeSelection else s.setRef k n)
      else (s.setRef k { n with count := 0 }).bump .CLK_QUAL_RESTART [] := by
  subst hn
  exact (if_neg (by simp [h])).trans (if_pos hst)

theorem State.qualWindow_leaves {hz : Nat} {lock : Bool} (h : s.refJudged k = true) (hst : (s.ref k).st = 2)
    (hbad : hz < 154687500 ∨ 157812500 < hz ∨ lock = false) :
    s.qualWindow k hz lock = s.leaveGood k { st := 1 } := by
  have hlost : (decide ((s.ref k).st = 2) && (!(refInWindow hz) || !lock)) = true := by
    rw [hst]
    obtain hlow | hhigh | rfl := hbad
    · simp [refInWindow, show ¬ 154687500 ≤ hz by omega]
    · simp [refInWindow, show ¬ hz ≤ 157812500 by omega]
    · simp
  exact (if_neg (by simp [h])).trans ((if_neg (by omega)).trans (if_pos hlost))

/-! ## The loss of the source the device runs from (R594) -/

/-- The state in which the lost source is ABSENT and no switch runs. -/
def State.sourceGone (s : State) (k : Nat) : State := (s.setRef k {}).modClk fun c => { c with switching := none }

theorem State.edgeLoss_used (hst : (s.ref k).st = 2) (hused : s.inUse k = true) :
    s.edgeLoss k = (s.sourceGone k).refLost k (s.refItem k) :=
  (if_neg (by omega)).trans (if_pos (by simp [hst, hused]))

theorem State.sourceGone_frame (s : State) (k : Nat) :
    ∃ f, s.sourceGone k = s.modClk f ∧ (f s.clk).banked = s.clk.banked ∧ (f s.clk).active = s.clk.active := by
  have hclk : (s.sourceGone k).clk.banked = s.clk.banked ∧ (s.sourceGone k).clk.active = s.clk.active := by
    unfold State.sourceGone State.setRef State.modClk
    dsimp only
    split
    · exact ⟨rfl, rfl⟩
    · split <;> exact ⟨rfl, rfl⟩
  exact ⟨fun _ => (s.sourceGone k).clk, rfl, hclk⟩

theorem State.refGood_congr {t : State} (h : t.clk = s.clk) (source : Nat) : t.refGood source = s.refGood source := by
  rw [State.refGood, State.refGood, h]

theorem State.ref_of_clk {t : State} {x : Option Nat} (h : t.clk = { s.clk with switching := x }) : t.ref k = s.ref k := by
  rw [State.ref, h]
  rfl

theorem State.inUse_of_active (hk : k < 2) (hactive : s.clk.active = k) (hprev : s.clk.prev = none) :
    s.inUse k = true := by
  obtain rfl | rfl : k = 0 ∨ k = 1 := by omega
  · simp [State.inUse, hactive]
  · simp [State.inUse, hactive, hprev]

theorem State.refGood_sourceGone (hk : k < 2) : (s.sourceGone k).refGood (1 - k) = s.refGood (1 - k) := by
  obtain rfl | rfl : k = 0 ∨ k = 1 := by omega
  · rfl
  · rfl

theorem State.refLost_switches {item : Nat} (hk : k < 2) (hrun : s.clk.banked = false) (hserv : s.sup.phase = .service)
    (htest : s.testMode = false) (hgood : s.refGood (1 - k) = true) :
    s.refLost k item =
      ((s.modClk fun c => { c with switching := some (1 - k) }).bump .CLK_FAILOVER []).clkRecord .deferred 2 0x01 item := by
  have hother : 1 - min k 1 = 1 - k := by omega
  refine (if_neg (Bool.eq_false_iff.mp hrun)).trans ((if_neg (by simp [hserv])).trans ?_)
  rw [hother]
  exact (if_pos hgood).trans (if_pos (by
    rw [Bool.and_eq_true, beq_iff_eq, Bool.not_eq_true']
    exact ⟨hserv, htest⟩))

theorem State.refLost_none {item : Nat} (hk : k < 2) (hrun : s.clk.banked = false)
    (hphase : s.sup.phase ≠ .smoulder ∨ s.testMode = true) (hbad : s.refGood (1 - k) = false) :
    s.refLost k item = s.refClockLost item := by
  have hother : 1 - min k 1 = 1 - k := by omega
  refine (if_neg (Bool.eq_false_iff.mp hrun)).trans ((if_neg ?_).trans ?_)
  · obtain hne | htest := hphase
    · simp [hne]
    · simp [htest]
  · rw [hother]
    exact if_neg (Bool.eq_false_iff.mp hbad)

theorem State.refLost_smoulder {item : Nat} (hrun : s.clk.banked = false) (hphase : s.sup.phase = .smoulder)
    (htest : s.testMode = false) : s.refLost k item = s :=
  (if_neg (Bool.eq_false_iff.mp hrun)).trans (if_pos (by simp [hphase, htest]))

end

/-! ## A bank that finds nothing to end -/

section
variable {s : State}

theorem State.portsOff_none (h : s.lnk.ports = []) : s.portsOff = s := by
  have hkeeps : ∀ p, (if (s.port p).st == .disabled then s else s.portOff p) = s := fun p =>
    if_pos (by simp [State.port, h, tgetD, tget])
  have hlist : ∀ l : List Nat, s.each l (fun s p => if (s.port p).st == .disabled then s else s.portOff p) = s := by
    intro l
    induction l with
    | nil => rfl
    | cons p l ih => exact (congrArg (fun b : State => b.each l _) (hkeeps p)).trans ih
  exact hlist allPorts

/-- Without open ports or field tests, banking only stops the clocks and the in-package links. -/
theorem State.bank_none (hports : s.lnk.ports = []) (htests : s.wch.tests = []) :
    s.bank = (((s.modClk ClockState.bankClocks).putReg .CLK_PLL_STATUS [] 0).linksDown) := by
  have hoff := State.portsOff_none (s := (s.modClk ClockState.bankClocks).putReg .CLK_PLL_STATUS [] 0) hports
  exact (congrArg (fun b : State => b.linksDown.abortTests fun _ => true) hoff).trans
    (State.abortTests_none (s := ((s.modClk ClockState.bankClocks).putReg .CLK_PLL_STATUS [] 0).linksDown) htests _)

end

/-! ## Judging, as a step -/

section
variable {s : State} {k : Nat} (hheld : s.sup.recovery ≠ .resetHeld)
include hheld

theorem exec_refEdgeDetect : exec (.refEdgeDetect k) s = .next (s.edgeDetect k) := congrArg _ (State.unheld_of hheld _)

theorem exec_refEdgeLoss : exec (.refEdgeLoss k) s = .next (s.edgeLoss k) := congrArg _ (State.unheld_of hheld _)

theorem exec_refQualWindow (hz : Nat) (lock : Bool) :
    exec (.refQualWindow k hz lock) s = .next (s.qualWindow k hz lock) := congrArg _ (State.unheld_of hheld _)

theorem exec_refCrossCheck (off : Int) : exec (.refCrossCheck off) s = .next (s.crossCheck off) :=
  congrArg _ (State.unheld_of hheld _)

theorem exec_clkRefSelWrite (hphase : s.sup.phase ≠ .ash) (v : Word) :
    exec (.clkRefSelWrite v) s = .next (s.writeRefSel v) := congrArg _ (State.awake_of hphase hheld _)

theorem exec_refSwitchDone : exec .refSwitchDone s = .next s.switchDone := congrArg _ (State.unheld_of hheld _)

/-- A window of a QUALIFYING reference, as a step. -/
theorem exec_refQualWindow_qualifying {hz : Nat} {lock : Bool} {n : RefState} (hk : k < 3) (h : s.refJudged k = true)
    (hst : (s.ref k).st = 1)
    (hn : n = { st := 1, count := min 100 ((s.ref k).count + 1), locked := if lock then min 10 ((s.ref k).locked + 1) else 0 }) :
    (154687500 ≤ hz → hz ≤ 157812500 → n.count < 100 ∨ n.locked < 10 →
      ∃ t, exec (.refQualWindow k hz lock) s = .next t ∧ t.ref k = n ∧ { t with clk := s.clk } = s) ∧
    (154687500 ≤ hz → hz ≤ 157812500 → n.count = 100 → n.locked = 10 →
      ∃ t, exec (.refQualWindow k hz lock) s = .next t ∧ t.ref k = { n with st := 2 } ∧ { t with clk := s.clk } = s) ∧
    (hz < 154687500 ∨ 157812500 < hz → ∃ t, exec (.refQualWindow k hz lock) s = .next t ∧
      t.ref k = { n with count := 0 } ∧ wfld (t.getReg .CLK_QUAL_RESTART []) 0 48 =
        min (2 ^ 48 - 1) (wfld (s.getReg .CLK_QUAL_RESTART []) 0 48 + 1) ∧ t.mem = s.mem) := by
  have hexec := (exec_refQualWindow hheld hz lock).trans (congrArg _ (State.qualWindow_qualifying h hst hn))
  have hexists := State.refExists_of_judged h hk
  refine ⟨fun hlow hhigh hmore => ?_, fun hlow hhigh hcount hlocked => ?_, fun hout => ?_⟩
  · rw [if_pos (by simp [refInWindow, hlow, hhigh]), if_neg (by simp; omega)] at hexec
    exact ⟨_, hexec, State.ref_setRef hexists hk, rfl⟩
  · rw [if_pos (by simp [refInWindow, hlow, hhigh]), if_pos (by simp [hcount, hlocked])] at hexec
    obtain ⟨x, hx⟩ := (s.setRef k { n with st := 2 }).takeSelection_frame
    rw [hx] at hexec
    exact ⟨_, hexec, State.ref_setRef hexists hk, rfl⟩
  · rw [if_neg (by simp [refInWindow]; omega)] at hexec
    have hnoted := State.bump_noted .CLK_QUAL_RESTART [] 1 (Noted.refl (s.setRef k { n with count := 0 }))
    refine ⟨_, hexec, ?_, ?_, hnoted.mem⟩
    · rw [State.ref, hnoted.clk]
      exact State.ref_setRef hexists hk
    · rw [State.getReg_bump_low _ (by decide), wfld_statAdd, Nat.min_comm]
      rfl

/-! ## Loss and selection, as steps -/

/-- The loss of the source in use. -/
theorem exec_refEdgeLoss_used (hk : k < 2) (hactive : s.clk.active = k) (hprev : s.clk.prev = none)
    (hst : (s.ref k).st = 2) :
    exec (.refEdgeLoss k) s = .next ((s.sourceGone k).refLost k (s.refItem k)) :=
  (exec_refEdgeLoss hheld).trans (congrArg _ (State.edgeLoss_used hst (State.inUse_of_active hk hactive hprev)))

end

section
variable {s : State} {k : Nat}

/-- In service with the other reference GOOD: the switch starts, counted and recorded. -/
theorem State.refLost_service {item : Nat} (hk : k < 2) (hrun : s.clk.banked = false) (hserv : s.sup.phase = .service)
    (htest : s.testMode = false) (hgood : s.refGood (1 - k) = true) (hgroves : s.boundGroves = [])
    (hcount : (statAdd (s.getReg .CLK_FAILOVER []) 1).2 = false) (hroom : s.logRoom = true) :
    ∃ r, (s.refLost k item).clk = { s.clk with switching := some (1 - k) } ∧ (s.refLost k item).sup.phase = .service ∧
      (s.refLost k item).getReg .CLK_FAILOVER [] = (statAdd (s.getReg .CLK_FAILOVER []) 1).1 ∧
      (s.refLost k item).lastRecord = some r ∧ r.src = .clk ∧ r.sev = .deferred ∧ r.code = 0x01 ∧
      (s.refLost k item).mem = s.mem := by
  have hsev : Sev.deferred ≠ .fatal := nofun
  rw [State.refLost_switches hk hrun hserv htest hgood]
  generalize hu : s.modClk (fun c => { c with switching := some (1 - k) }) = u
  have hregs : u.regs = s.regs := hu ▸ rfl
  have hcount' : (statAdd (u.getReg .CLK_FAILOVER []) 1).2 = false := by
    rw [State.getReg_congr hregs]
    exact hcount
  have hnoted := State.bump_noted .CLK_FAILOVER [] 1 (Noted.refl u)
  have hroom' : (u.bump .CLK_FAILOVER []).logRoom = true := by
    rw [State.bump_quiet hcount', State.logRoom_putReg_low _ (by decide), State.logRoom_congr hregs]
    exact hroom
  have hgroves' : (u.bump .CLK_FAILOVER []).boundGroves = [] :=
    (State.boundGroves_congr hnoted.grv).trans ((State.boundGroves_congr (hu ▸ rfl)).trans hgroves)
  obtain ⟨r, hlast, hsrc, hsev', hcode, -⟩ :=
    (u.bump .CLK_FAILOVER []).clkRecord_last hsev (.inr hgroves') hroom' 2 0x01 item 0
  have hrec := (u.bump .CLK_FAILOVER []).clkRecord_noted hsev 2 0x01 item 0
  have hphase : ((u.bump .CLK_FAILOVER []).clkRecord .deferred 2 0x01 item).sup.phase = .service := by
    rw [State.phase_clkRecord hsev, State.phase_of_restSide (State.restSide_bump _ _ _ (by simp [Reg.global])), ← hu]
    exact hserv
  refine ⟨r, (hrec.clk.trans hnoted.clk).trans (hu ▸ rfl), hphase, ?_, hlast, hsrc, hsev', hcode,
    (hrec.mem.trans hnoted.mem).trans (hu ▸ rfl)⟩
  rw [State.getReg_clkRecord _ hsev (by decide) (by decide), State.getReg_bump_low _ (by decide), State.getReg_congr hregs]

/-- In kindling the PLLs bank, with a record. -/
theorem State.refClockLost_kindling {item : Nat} (hkind : s.sup.phase = .kindling) (htest : s.testMode = false)
    (hgroves : s.boundGroves = []) (htests : s.wch.tests = []) (hports : s.lnk.ports = []) (hroom : s.logRoom = true) :
    ∃ r, (s.refClockLost item).clk.banked = true ∧ (s.refClockLost item).sup.phase = .kindling ∧
      (s.refClockLost item).getReg .CLK_PLL_STATUS [] = 0 ∧ (s.refClockLost item).lastRecord = some r ∧ r.src = .clk ∧
      r.sev = .deferred ∧ r.code = 0x03 ∧ (s.refClockLost item).mem = s.mem := by
  have hsev : Sev.deferred ≠ .fatal := nofun
  have heq : s.refClockLost item = s.bank.clkRecord .deferred 2 0x03 item :=
    (if_neg (by simp [htest])).trans (if_pos (by simp [hkind]))
  obtain ⟨hphase, hclk, hlocks⟩ := s.bank_leaves
  have hbank := State.bank_none hports htests
  have hgroves' : s.bank.boundGroves = [] := by
    rw [hbank]
    exact hgroves
  have hroom' : s.bank.logRoom = true := by
    rw [hbank]
    exact (State.logRoom_congr rfl).trans ((State.logRoom_putReg_low (s.modClk ClockState.bankClocks)
      (r := .CLK_PLL_STATUS) (ix := []) (by decide) 0).trans ((State.logRoom_congr rfl).trans hroom))
  obtain ⟨r, hlast, hsrc, hsev', hcode, -⟩ := s.bank.clkRecord_last hsev (.inr hgroves') hroom' 2 0x03 item 0
  have hnoted := s.bank.clkRecord_noted hsev 2 0x03 item 0
  rw [heq, hnoted.clk, hclk, State.phase_clkRecord hsev, hphase, s.bank.getReg_clkRecord hsev (by decide) (by decide), hnoted.mem,
    State.mem_bank htests]
  exact ⟨r, rfl, hkind, hlocks, hlast, hsrc, hsev', hcode, rfl⟩

/-! ## The offset (R592) -/

/-- The state that shows an offset. -/
def State.offsetShown (s : State) (off : Int) : State :=
  s.putFld .CLK_REF_STATUS [] 16 16 (ofSigned 16 (max (-32768) (min 32767 off)))

theorem State.crossCheck_bad {off : Int} (h : s.refGood 0 = false ∨ s.refGood 1 = false) : s.crossCheck off = s := by
  refine if_pos ?_
  obtain h | h := h <;> simp [h]

section
variable {off : Int} (h0 : s.refGood 0 = true) (h1 : s.refGood 1 = true)
include h0 h1

theorem State.crossCheck_near (hlow : -20000 ≤ off) (hhigh : off ≤ 20000) :
    s.crossCheck off = (s.offsetShown off).modClk fun c => { c with mismatchSince := none, mismatchLogged := false } :=
  (if_neg (by simp [h0, h1])).trans (if_pos ⟨hlow, hhigh⟩)

/-- An offset beyond 200 ppm goes on. -/
theorem State.crossCheck_far (hfar : off < -20000 ∨ 20000 < off) :
    s.crossCheck off =
      if s.aonUs - s.clk.mismatchSince.getD s.aonUs ≥ 10000 && !s.clk.mismatchLogged then
        (((s.offsetShown off).modClk fun c => { c with mismatchSince := some (s.clk.mismatchSince.getD s.aonUs) }).modClk
          fun c => { c with mismatchLogged := true }).clkRecord .deferred 2 0x02
          (((s.offsetShown off).modClk fun c =>
            { c with mismatchSince := some (s.clk.mismatchSince.getD s.aonUs) }).refItem 1)
          (ofSigned 16 (max (-32768) (min 32767 off)))
      else (s.offsetShown off).modClk fun c => { c with mismatchSince := some (s.clk.mismatchSince.getD s.aonUs) } :=
  (if_neg (by simp [h0, h1])).trans (if_neg (by omega))

end

/-! ## Selection (R593, R611) -/

/-- A field whose bits software may write takes what is written (R14). -/
theorem wfld_accessWrite_at {r : Reg} {lo w : Nat} (hw : lo + w ≤ 64)
    (hrw : ∀ i < w, (accMask r fun a => a == .rw || a == .rws).testBit (lo + i) = true) (old v : Word) :
    wfld (accessWrite r old v) lo w = wfld v lo w := by
  have hbit : ∀ (u : Word) (i : Nat), (wfld u lo w).testBit i = (decide (i < w) && u.getLsbD (lo + i)) := by
    intro u i
    simp [wfld, fld, Nat.testBit_mod_two_pow, Nat.testBit_div_two_pow, BitVec.testBit_toNat, Nat.add_comm]
  refine Nat.eq_of_testBit_eq fun i => ?_
  rw [hbit, hbit]
  by_cases hi : i < w
  · have hmask : (BitVec.ofNat 64 (accMask r fun a => a == .rw || a == .rws)).getLsbD (lo + i) = true := by
      rw [BitVec.getLsbD_ofNat, hrw i hi, Bool.and_true, decide_eq_true (by omega)]
    simp only [accessWrite, BitVec.getLsbD_or, BitVec.getLsbD_and, BitVec.getLsbD_not, hmask]
    simp
  · simp [hi]

theorem State.refSel_congr {t : State} (h : t.getReg .CLK_REF_SEL [] = s.getReg .CLK_REF_SEL []) : t.refSel = s.refSel := by
  simp only [State.refSel, State.regFld, h]

/-- A write of CLK_REF_SEL shows. -/
theorem State.refSel_softWrite (v : Word) :
    (s.softWrite .CLK_REF_SEL [] v).refSel = (wfld v 8 1, wfld v 4 3, wfld v 0 3) := by
  unfold State.refSel State.regFld
  rw [State.getReg_softWrite_same, wfld_accessWrite_at (by decide) (by decide), wfld_accessWrite_at (by decide) (by decide),
    wfld_accessWrite_at (by decide) (by decide)]

/-- The state in which another lane is selected: the one the device runs from stays in use. -/
def State.laneTaken (s : State) (old new : Nat × Nat × Nat) : State :=
  if old.2 == new.2 then s
  else s.modClk fun c => { c with
    prev := if c.active = 1 && c.prev.isNone then some (old.2.1, old.2.2, c.recov) else c.prev, recov := {} }

theorem State.writeRefSel_stored {v : Word} (h : wfld v 4 3 ≤ 5) :
    s.writeRefSel v =
      ((s.softWrite .CLK_REF_SEL [] v).laneTaken s.refSel (s.softWrite .CLK_REF_SEL [] v).refSel).takeSelection :=
  if_neg (by omega)

theorem State.writeRefSel_refused {v : Word} (h : 5 < wfld v 4 3) : s.writeRefSel v = s.clkRecord .contained 2 0x06 0 :=
  if_pos h

theorem State.laneTaken_frame (s : State) (old new : Nat × Nat × Nat) :
    ∃ f, s.laneTaken old new = s.modClk f ∧ (f s.clk).active = s.clk.active := by
  unfold State.laneTaken
  split
  · exact ⟨id, rfl, rfl⟩
  · exact ⟨_, rfl, rfl⟩

/-- The switch to the selected reference starts once it is GOOD. -/
theorem State.takeSelection_switching (hidle : s.clk.switching = none) (hrun : s.clk.banked = false)
    (hother : s.refSel.1 ≠ s.clk.active) :
    s.takeSelection.clk.switching = if s.refGood s.refSel.1 then some s.refSel.1 else none := by
  unfold State.takeSelection
  dsimp only
  cases hgood : s.refGood s.refSel.1
  · rw [if_neg (by simp)]
    exact hidle
  · rw [if_pos (by simp [hother, hidle, hrun])]
    rfl

end

section
variable {s : State}

theorem State.refClockLost_service {item : Nat} (hserv : s.sup.phase = .service) (htest : s.testMode = false) :
    s.refClockLost item = s.clkRecord .fatal 2 0x04 item :=
  (if_neg (by simp [htest])).trans ((if_neg (by simp [hserv])).trans (if_pos (by simp [hserv])))

/-- A fatal record of the CLK block asserts FAULT_N. -/
theorem State.clkRecord_fatal_faultLow (h : s.sup.phase ≠ .ash) (die code item value : Nat) :
    (s.clkRecord .fatal die code item value).sup.faultLow = true := by
  obtain ⟨d, hd⟩ := s.clkRecord_fatal die code item value
  have hphase : (s.putReg .CLK_FAULT_LAST [] (faultWord s code item value)).sup.phase ≠ .ash := h
  obtain ⟨-, hfault, -⟩ := State.fatal_leaves hphase .clk die code none d
  rw [hd]
  exact hfault

/-- A mismatch that lasts is recorded, and the source stays. -/
theorem State.mismatch_recorded {off : Int} (f : ClockState → ClockState) (hgroves : s.boundGroves = [])
    (hroom : s.logRoom = true) (item value : Nat) :
    ∃ r, ((((s.offsetShown off).modClk f).modClk fun c => { c with mismatchLogged := true }).clkRecord .deferred 2 0x02 item
        value).clk = { f s.clk with mismatchLogged := true } ∧
      ((((s.offsetShown off).modClk f).modClk fun c => { c with mismatchLogged := true }).clkRecord .deferred 2 0x02 item
        value).lastRecord = some r ∧ r.src = .clk ∧ r.sev = .deferred ∧ r.code = 0x02 := by
  have hsev : Sev.deferred ≠ .fatal := nofun
  generalize hu : (((s.offsetShown off).modClk f).modClk fun c => { c with mismatchLogged := true }) = u
  have hregs : u.regs = (s.offsetShown off).regs := hu ▸ rfl
  have hroom' : u.logRoom = true :=
    (State.logRoom_congr hregs).trans ((State.logRoom_putReg_low s (r := .CLK_REF_STATUS) (by decide) _).trans hroom)
  have hgroves' : u.boundGroves = [] := (State.boundGroves_congr (hu ▸ rfl)).trans hgroves
  obtain ⟨r, hlast, hsrc, hsev', hcode, -⟩ := u.clkRecord_last hsev (.inr hgroves') hroom' 2 0x02 item value
  exact ⟨r, (u.clkRecord_noted hsev 2 0x02 item value).clk.trans (hu ▸ rfl), hlast, hsrc, hsev', hcode⟩

theorem State.switchDone_eq {n : Nat} (h : s.clk.switching = some n) :
    s.switchDone = (s.modClk fun c => { c with switching := none, active := n, prev := none }).takeSelection := by
  unfold State.switchDone
  rw [h]

/-- A write of CLK_REF_SEL with a direction shows, and the switch starts once the named reference is GOOD. -/
theorem exec_clkRefSelWrite_stored {v : Word} (hheld : s.sup.recovery ≠ .resetHeld) (hphase : s.sup.phase ≠ .ash)
    (hdir : wfld v 4 3 ≤ 5) :
    ∃ t, exec (.clkRefSelWrite v) s = .next t ∧ t.refSel = (wfld v 8 1, wfld v 4 3, wfld v 0 3) ∧
      t.clk.active = s.clk.active ∧
      (wfld v 4 3 = s.refSel.2.1 → wfld v 0 3 = s.refSel.2.2 → s.clk.switching = none → s.clk.banked = false →
        s.clk.prev = none → wfld v 8 1 ≠ s.clk.active → t.clk.switching =
          if s.refGood (wfld v 8 1) then some (wfld v 8 1) else none) ∧
      { t with clk := s.clk, regs := s.regs } = s := by
  have hshown := State.refSel_softWrite (s := s) v
  generalize hw : s.softWrite .CLK_REF_SEL [] v = w at hshown
  have hclk : w.clk = s.clk := hw ▸ rfl
  have hrest : { w with clk := s.clk, regs := s.regs } = s := hw ▸ rfl
  have hexec := (exec_clkRefSelWrite hheld hphase v).trans (congrArg _ (State.writeRefSel_stored hdir))
  rw [hw] at hexec
  obtain ⟨f, hf, hactive⟩ := w.laneTaken_frame s.refSel w.refSel
  obtain ⟨x, hx⟩ := (w.laneTaken s.refSel w.refSel).takeSelection_frame
  refine ⟨_, hexec, ?_, ?_, fun hdirSame hlaneSame hidle hrun hprev hother => ?_, ?_⟩
  · rw [hx, hf]
    exact hshown
  · rw [hx, hf]
    exact hactive.trans (congrArg _ hclk)
  · have hsame : w.laneTaken s.refSel w.refSel = w := by
      refine if_pos ?_
      rw [hshown, beq_iff_eq]
      exact Prod.ext hdirSame.symm hlaneSame.symm
    rw [hsame, State.takeSelection_switching (by rw [hclk, hidle]) (by rw [hclk, hrun]) (by rw [hshown, hclk]; exact hother),
      hshown, State.refGood_congr hclk]
  · rw [hx, hf]
    exact hrest

end

/-- Settles O44: the references are judged by their state and window, the source in use is lost by the phase, and a
selection switches once it is GOOD. -/
theorem references : Obligations.References := by
  refine ⟨fun s k hz lock r n hheld hk hr hn => ?_, fun s k hheld hk hactive hprev _ hrun hst => ?_, fun s v off n hheld => ?_⟩
  · subst hr
    refine ⟨fun hj hst => ?_, fun hj => ⟨?_, ?_⟩, fun hst hunused => ?_,
      fun hj hst => exec_refQualWindow_qualifying hheld hk hj hst hn, fun hj hst hbad hunused => ?_⟩
    · exact ⟨_, (exec_refEdgeDetect hheld).trans (congrArg _ (State.edgeDetect_absent hj hst)),
        State.ref_setRef (State.refExists_of_judged hj hk) hk, rfl⟩
    · exact (exec_refEdgeDetect hheld).trans (congrArg _ (State.edgeDetect_unjudged hj))
    · exact (exec_refQualWindow hheld hz lock).trans (congrArg _ (State.qualWindow_unjudged hj))
    · exact ⟨_, (exec_refEdgeLoss hheld).trans (congrArg _ ((if_neg hst).trans (State.leaveGood_unused hunused))),
        State.ref_setRef (State.refExists_of_present hst hk) hk, rfl⟩
    · exact ⟨_, (exec_refQualWindow hheld hz lock).trans (congrArg _
        ((State.qualWindow_leaves hj hst hbad).trans (State.leaveGood_unused (.inr hunused)))),
        State.ref_setRef (State.refExists_of_judged hj hk) hk, rfl⟩
  · have hexec := exec_refEdgeLoss_used hheld hk hactive hprev hst
    have hgone : (s.sourceGone k).ref k = {} := State.ref_setRef (.inl hk) (by omega)
    have hgood := State.refGood_sourceGone (s := s) hk
    obtain ⟨f, hf, hbanked, hsource⟩ := s.sourceGone_frame k
    generalize s.sourceGone k = u at hexec hgone hgood hf
    subst hf
    have hrun' := hbanked.trans hrun
    refine ⟨fun hserv htest hother hgroves hcount hroom => ?_, fun hserv htest hother hnone => ?_,
      fun hkind htest hother hgroves htests hports hroom => ?_, fun hsm htest => ?_,
      fun htest hother hgroves htests hports => ?_⟩
    · obtain ⟨r, hclk, hphase, hcounted, hlast, hsrc, hsev, hcode, hmem⟩ := State.refLost_service (s := s.modClk f)
        (item := s.refItem k) hk hrun' hserv htest (hgood.trans hother) hgroves hcount ((State.logRoom_congr rfl).trans hroom)
      exact ⟨_, r, hexec, (State.ref_of_clk hclk).trans hgone, congrArg ClockState.switching hclk,
        (congrArg ClockState.active hclk).trans (hsource.trans hactive), hphase, hcounted, hlast, hsrc, hsev, hcode, hmem⟩
    · have hlost := State.refLost_none (s := s.modClk f) (item := s.refItem k) hk hrun' (.inl (by simp [hserv]))
        (hgood.trans hother)
      have hfatal : (s.modClk f).refClockLost (s.refItem k) = (s.modClk f).clkRecord .fatal 2 0x04 (s.refItem k) :=
        State.refClockLost_service hserv htest
      obtain ⟨r, hash, hr, hfacts⟩ := State.clkRecord_fatal_first (s := s.modClk f) hnone 2 0x04 (s.refItem k) 0
      exact ⟨_, r, hexec.trans (congrArg _ (hlost.trans hfatal)), hash,
        State.clkRecord_fatal_faultLow (by simp [hserv]) .., hr, hfacts⟩
    · have hlost := State.refLost_none (s := s.modClk f) (item := s.refItem k) hk hrun' (.inl (by simp [hkind]))
        (hgood.trans hother)
      obtain ⟨r, h⟩ := State.refClockLost_kindling (s := s.modClk f) (item := s.refItem k) hkind htest hgroves htests hports
        ((State.logRoom_congr rfl).trans hroom)
      exact ⟨_, r, hexec.trans (congrArg _ hlost), h⟩
    · exact ⟨_, hexec.trans (congrArg _ (State.refLost_smoulder hrun' hsm htest)), hgone, rfl⟩
    · have hlost := State.refLost_none (s := s.modClk f) (item := s.refItem k) hk hrun' (.inr htest) (hgood.trans hother)
      have hbank : (s.modClk f).refClockLost (s.refItem k) = _ :=
        (if_pos htest).trans (State.bank_none (s := s.modClk f) hports htests)
      exact ⟨_, hexec.trans (congrArg _ (hlost.trans hbank)), rfl, rfl, rfl, rfl⟩
  · refine ⟨fun h0 h1 hmin hmax => ⟨fun hlow hhigh => ?_, fun since hfar hsince hfirst hlong hgroves hroom => ?_,
      fun hfar hlogged => ?_⟩, fun hbad => ?_, fun hphase hdir hgroves hroom => ?_, fun hphase hdir => ?_, fun hsw => ?_⟩
    · have hclamp : max (-32768) (min 32767 off) = off := by omega
      refine ⟨_, (exec_refCrossCheck hheld off).trans (congrArg _ (State.crossCheck_near h0 h1 hlow hhigh)), ?_, rfl, rfl⟩
      refine (State.regFld_putFld_same _ _ _ _ (by omega)).trans ?_
      rw [hclamp, Nat.mod_eq_of_lt (ofSigned_lt 16 off)]
    · have hnote : (decide (s.aonUs - s.clk.mismatchSince.getD s.aonUs ≥ 10000) && !s.clk.mismatchLogged) = true := by
        simp [hsince, hlong, hfirst]
      have hexec := (exec_refCrossCheck hheld off).trans (congrArg _ ((State.crossCheck_far h0 h1 hfar).trans (if_pos hnote)))
      obtain ⟨r, hclk, hlast, hfacts⟩ := State.mismatch_recorded (off := off)
        (fun c => { c with mismatchSince := some (s.clk.mismatchSince.getD s.aonUs) }) hgroves hroom
        (((s.offsetShown off).modClk fun c =>
          { c with mismatchSince := some (s.clk.mismatchSince.getD s.aonUs) }).refItem 1)
        (ofSigned 16 (max (-32768) (min 32767 off)))
      exact ⟨_, r, hexec, congrArg ClockState.mismatchLogged hclk, (congrArg ClockState.active hclk :),
        (congrArg ClockState.switching hclk :), hlast, hfacts⟩
    · have hnote : ¬ (decide (s.aonUs - s.clk.mismatchSince.getD s.aonUs ≥ 10000) && !s.clk.mismatchLogged) = true := by
        simp [hlogged]
      exact ⟨_, (exec_refCrossCheck hheld off).trans (congrArg _ ((State.crossCheck_far h0 h1 hfar).trans (if_neg hnote))),
        rfl, rfl⟩
    · exact (exec_refCrossCheck hheld off).trans (congrArg _ (State.crossCheck_bad hbad))
    · have hsev : Sev.contained ≠ .fatal := nofun
      obtain ⟨r, hlast, hsrc, hsev', hcode, -⟩ := s.clkRecord_last hsev (.inr hgroves) hroom 2 0x06 0 0
      exact ⟨_, r, (exec_clkRefSelWrite hheld hphase v).trans (congrArg _ (State.writeRefSel_refused hdir)),
        State.refSel_congr (s.getReg_clkRecord hsev (by decide) (by decide) ..), (s.clkRecord_noted hsev ..).clk, hlast, hsrc,
        hsev', hcode⟩
    · exact exec_clkRefSelWrite_stored hheld hphase hdir
    · obtain ⟨x, hx⟩ := (s.modClk fun c => { c with switching := none, active := n, prev := none }).takeSelection_frame
      have hdone : s.switchDone = _ := State.switchDone_eq hsw
      exact ⟨_, (exec_refSwitchDone hheld).trans (congrArg _ (hdone.trans hx)), rfl, rfl, rfl⟩

end Sys2Proof.Machine
end

section
/-! PROOFS. Entry to smoulder in test mode (R594, R605; O51). -/
namespace Sys2Proof.Machine

/-- A device in service under a test instruction, running from a recovered reference whose port is off, as entry to smoulder
completes. REFCLK is not GOOD, and an in-package link is up. -/
def smoulderTested : State :=
  { State.reset with
    regs := [(regAddr .PWR_SMOULDER [], 1#64)]
    sup := { State.reset.sup with phase := .service, recovery := .idle }
    pkg := { State.reset.pkg with tap := .extest }
    clk := { active := 1, recov := { st := 2 } }
    hrt := { State.reset.hrt with links := [(0, {})] } }

section
variable {s : State}

/-- A device in test mode that runs from a recovered reference banks its PLLs when that port is off and REFCLK is not GOOD,
and with them the in-package links go down. -/
theorem State.refPortCheck_banks (hport : s.refJudged 1 = false) (hactive : s.clk.active = 1) (hprev : s.clk.prev = none)
    (hst : (s.ref 1).st = 2) (hrun : s.clk.banked = false) (htest : s.testMode = true) (hbad : s.refGood 0 = false)
    (hports : s.lnk.ports = []) (htests : s.wch.tests = []) : s.refPortCheck.hrt.links = [] := by
  have hgood := State.refGood_sourceGone (s := s) (k := 1) (by omega)
  have hloss := State.edgeLoss_used hst (State.inUse_of_active (by omega) hactive hprev)
  obtain ⟨f, hf, hbanked, -⟩ := s.sourceGone_frame 1
  have hgone : (s.sourceGone 1).clk.prev = none := hprev
  rw [hf] at hgood hloss hgone
  have hlost := State.refLost_none (s := s.modClk f) (k := 1) (item := s.refItem 1) (by omega) (hbanked.trans hrun) (.inr htest)
    (hgood.trans hbad)
  have hbank : (s.modClk f).refClockLost (s.refItem 1) =
      (((s.modClk f).modClk ClockState.bankClocks).putReg .CLK_PLL_STATUS [] 0).linksDown :=
    (if_pos htest).trans (State.bank_none (s := s.modClk f) hports htests)
  have hfirst : s.refPortCheck = if (s.edgeLoss 1).refJudged 2 then s.edgeLoss 1 else (s.edgeLoss 1).edgeLoss 2 := by
    unfold State.refPortCheck
    rw [hport]
    rfl
  rw [hfirst, hloss, hlost, hbank]
  split
  · rfl
  · have habsent : (((((s.modClk f).modClk ClockState.bankClocks).putReg .CLK_PLL_STATUS [] 0).linksDown).ref 2).st = 0 := by
      have hprev' : (f s.clk).prev = none := hgone
      simp [State.ref, State.linksDown, State.putReg, State.modClk, ClockState.bankClocks, hprev']
    rw [State.edgeLoss, if_pos habsent]
    rfl

end

theorem State.smoulderEntered_eq {s : State} (h : (s.sup.phase == .service && s.regFld .PWR_SMOULDER [] 0 2 == 1) = true) :
    s.smoulderEntered =
      { ((s.putFld .PWR_SMOULDER [] 0 2 2).modClk fun c => { c with dvfs := [{}, {}] }) with
        sup := { s.sup with phase := .smoulder, svcLow := true } }.refPortCheck := if_pos h

/-- Entry drops the in-package link. -/
theorem smoulderTested_links : smoulderTested.smoulderEntered.hrt.links = [] := by
  rw [State.smoulderEntered_eq (by decide)]
  exact State.refPortCheck_banks (by decide) rfl rfl rfl rfl rfl rfl rfl rfl

/-- Refutes O51: in test mode the reference that entry to smoulder judges ABSENT banks the PLLs, so the in-package links go
down and the hearth is not retained. -/
theorem not_smoulder : ¬ Obligations.Smoulder := by
  unfold Obligations.Smoulder
  intro h
  obtain ⟨-, -, -, -, hentry, -⟩ := h smoulderTested 0 (by decide) (by decide)
  obtain ⟨t, hexec, -, -, -, -, -, -, -, hhrt⟩ := hentry rfl (by decide)
  have hawake : exec .smoulderEntryDone smoulderTested = .next smoulderTested.smoulderEntered :=
    congrArg Host.Outcome.next (State.awake_of (s := smoulderTested) (by decide) (by decide) State.smoulderEntered)
  have hlinks := smoulderTested_links
  rw [Host.Outcome.next.inj (hawake.symm.trans hexec), hhrt] at hlinks
  exact absurd hlinks (by decide)

end Sys2Proof.Machine
end

section
/-! PROOFS. GLB_RECOVER: SERVICE, FORCE_ASH and busy (R650, R652, R668, R669; O52), and cold resets (R653, R654, R667; O54). -/
namespace Sys2Proof.Machine

/-! ## A write of GLB_RECOVER with go (R668) -/

/-- The operation that the op field names. -/
def State.recoverRun (w : State) (op : Nat) : State :=
  if op = 0 then w else if op = 1 then w.service else if op = 2 then w.recover else if op = 3 then w.warmOp
  else if op = 4 then w.coldReset else if op = 5 then w.groveResetOp else if op = 6 then w.forceAsh
  else w.recoverRefused 7 2

section
variable {s : State} (hheld : s.sup.recovery ≠ .resetHeld)
include hheld

/-- While busy is 1 an operation is discarded with result BUSY. -/
theorem State.recoverOp_busy (v : Word) (op : Nat) (hbusy : s.regFld .GLB_RECOVER [] 40 1 = 1) :
    s.recoverOp v op = s.putFld .GLB_RECOVER [] 48 8 1 := by
  have hgo : (setFld (setFld v 63 1 1) 0 3 op).getLsbD 63 = true := by
    rw [getLsbD_eq_wfld, wfld_setFld_above (by omega) (by omega), wfld_setFld_same (by omega)]
    rfl
  refine (State.unheld_of hheld _).trans ?_
  unfold State.writeRecover
  rw [hgo, if_neg (by decide), if_pos hbusy]

/-- Otherwise the word is stored and the operation of its op field begins. -/
theorem State.recoverOp_idle (v : Word) {op : Nat} (hop : op < 8) (hidle : s.regFld .GLB_RECOVER [] 40 1 = 0) :
    ∃ w, w = s.putReg .GLB_RECOVER [] (s.recoverWord v op) ∧
      s.recoverOp v op = w.recoverRun op := by
  have hgo : (setFld (setFld v 63 1 1) 0 3 op).getLsbD 63 = true := by
    rw [getLsbD_eq_wfld, wfld_setFld_above (by omega) (by omega), wfld_setFld_same (by omega)]
    rfl
  have hfield : wfld (setFld (setFld v 63 1 1) 0 3 op) 0 3 = op :=
    (wfld_setFld_same (by omega)).trans (Nat.mod_eq_of_lt hop)
  refine ⟨_, rfl, (State.unheld_of hheld _).trans ?_⟩
  unfold State.writeRecover State.softWrite State.recoverWord
  rw [hgo, if_neg (by decide), if_neg (by omega)]
  dsimp only
  rw [hfield]
  rfl

end

theorem State.recoverRun_service (w : State) : w.recoverRun 1 = w.service := by simp [State.recoverRun]
theorem State.recoverRun_warm (w : State) : w.recoverRun 3 = w.warmOp := by simp [State.recoverRun]
theorem State.recoverRun_cold (w : State) : w.recoverRun 4 = w.coldReset := by simp [State.recoverRun]
theorem State.recoverRun_grove (w : State) : w.recoverRun 5 = w.groveResetOp := by simp [State.recoverRun]
theorem State.recoverRun_ash (w : State) : w.recoverRun 6 = w.forceAsh := by simp [State.recoverRun]

/-! ## SERVICE (R652) -/

/-- Whether the device may go into service does not depend on GLB_RECOVER. -/
theorem State.mayServe_putRecover (s : State) (w : Word) : (s.putReg .GLB_RECOVER [] w).mayServe = s.mayServe := by
  unfold State.mayServe State.devnumValid State.regFld
  rw [State.getReg_putReg_other _ _ (by decide), State.getReg_putReg_other _ _ (by decide),
    State.getReg_putReg_other _ _ (by decide)]
  rfl

theorem State.recoverResult_go (s : State) (n : Nat) : (s.recoverResult n).regFld .GLB_RECOVER [] 41 1 = 1 := by
  unfold State.regFld
  rw [s.getReg_recoverResult n, wfld_setFld_above (by omega) (by omega), wfld_setFld_same (by omega)]
  rfl

theorem State.service_serves {s : State} (h : s.mayServe = true) :
    s.service = { s with sup := { s.sup with phase := .service, svcLow := true } }.recoverResult 0 := if_pos h

theorem State.service_refused {s : State} (h : s.mayServe = false) : s.service = s.recoverRefused 1 2 :=
  if_neg (Bool.eq_false_iff.mp h)

/-- A refused operation keeps what records keep. -/
theorem State.recoverRefused_keeps (s : State) (op n : Nat) :
    (s.recoverRefused op n).mem = s.mem ∧ (s.recoverRefused op n).grv = s.grv ∧ (s.recoverRefused op n).hrt = s.hrt ∧
      (s.recoverRefused op n).col = s.col := by
  have hnoted := State.record_noted .glb .contained 2 0x02 none (op % 8 + s.regFld .GLB_RECOVER [] 32 4 * 16)
    (Noted.refl (s.recoverResult n))
  exact ⟨hnoted.mem, hnoted.grv, hnoted.hrt, hnoted.col⟩

/-! ## FORCE_ASH (R658) -/

theorem State.forceAsh_enters {s : State} (h : s.sup.phase ≠ .ash) (hnone : s.wch.fatal = none) :
    ∃ r, s.forceAsh.sup.phase = .ash ∧ s.forceAsh.sup.faultLow = true ∧ s.forceAsh.sup.svcLow = false ∧
      s.forceAsh.wch.fatal = some r ∧ r.src = .glb ∧ r.sev = .fatal ∧ r.code = 0x01 := by
  have heq : s.forceAsh = (s.recoverResult 0).fatal .glb 2 0x01 none (6 + s.recoverGrove * 16) :=
    if_neg (by simpa using h)
  obtain ⟨r, hr, hsrc, hsev, -, hcode⟩ :=
    State.fatal_first (s := s.recoverResult 0) hnone .glb 2 0x01 none (6 + s.recoverGrove * 16)
  have hash : (s.recoverResult 0).sup.phase ≠ .ash := h
  obtain ⟨-, hfault, -⟩ := State.fatal_leaves hash .glb 2 0x01 none (6 + s.recoverGrove * 16)
  rw [heq]
  exact ⟨r, State.phase_fatal_ash .., hfault, State.svcLow_fatal hash .., hr, hsrc, hsev, hcode⟩

/-- Settles O52: SERVICE by `mayServe`, FORCE_ASH by the phase, and the operations that meet a busy register. -/
theorem serviceAndForceAsh : Obligations.ServiceAndForceAsh := by
  intro s v hheld
  refine ⟨fun hidle => ⟨fun hserve => ?_, fun hserve hroom => ?_, fun hash hnone => ?_, fun hash => ?_⟩, fun c hbusy hc => ?_⟩
  · obtain ⟨w, hw, hop⟩ := State.recoverOp_idle hheld v (op := 1) (by omega) hidle
    have hexec : exec (.service v) s = .next w.service := congrArg Host.Outcome.next (hop.trans w.recoverRun_service)
    rw [State.service_serves (by rw [hw, State.mayServe_putRecover, hserve])] at hexec
    exact ⟨_, hexec, rfl, rfl, State.recoverResult_result _ 0, State.recoverResult_go _ 0, State.recoverResult_busy _ 0,
      hw ▸ rfl⟩
  · obtain ⟨w, hw, hop⟩ := State.recoverOp_idle hheld v (op := 1) (by omega) hidle
    have hexec : exec (.service v) s = .next w.service := congrArg Host.Outcome.next (hop.trans w.recoverRun_service)
    rw [State.service_refused (by rw [hw, State.mayServe_putRecover, hserve])] at hexec
    have hroom' : w.logRoom = true := by rw [hw, State.logRoom_putRecover, hroom]
    obtain ⟨r, hlast, hfacts⟩ := State.recoverRefused_record (s := w) 1 2 hroom'
    obtain ⟨hsrc, hsev, hcode⟩ := hfacts
    obtain ⟨hmem, hgrv, hhrt, -⟩ := w.recoverRefused_keeps 1 2
    refine ⟨_, r, hexec, ?_, (w.recoverRefused_result 1 2).1, hlast, hsrc, hsev, hcode, ?_, ?_, ?_⟩
    · rw [(w.recoverRefused_sup 1 2).1, hw]
      rfl
    · rw [hmem, hw]
      rfl
    · rw [hgrv, hw]
      rfl
    · rw [hhrt, hw]
      rfl
  · obtain ⟨w, hw, hop⟩ := State.recoverOp_idle hheld v (op := 6) (by omega) hidle
    obtain ⟨r, h⟩ := State.forceAsh_enters (s := w) (by rw [hw]; exact hash) (by rw [hw]; exact hnone)
    exact ⟨_, r, congrArg Host.Outcome.next (hop.trans w.recoverRun_ash), h⟩
  · obtain ⟨w, hw, hop⟩ := State.recoverOp_idle hheld v (op := 6) (by omega) hidle
    have hrefused : w.forceAsh = w.recoverRefused 6 2 := if_pos (by rw [hw]; exact beq_iff_eq.mpr hash)
    obtain ⟨hresult, hmem⟩ := w.recoverRefused_result 6 2
    refine ⟨_, congrArg Host.Outcome.next (hop.trans (w.recoverRun_ash.trans hrefused)), hresult, ?_⟩
    rw [hmem, hw]
    rfl
  · have hdiscard : ∀ op, ∃ t, Host.Outcome.next (s.recoverOp v op) = (.next t : Host.Outcome State Fault Refusal) ∧
        t.regFld .GLB_RECOVER [] 48 8 = 1 ∧ t.regFld .GLB_RECOVER [] 40 1 = 1 ∧
        (∀ a, a ≠ regAddr .GLB_RECOVER [] → tget t.regs a = tget s.regs a) ∧ { t with regs := s.regs } = s := fun op =>
      ⟨_, congrArg _ (State.recoverOp_busy hheld v op hbusy), State.regFld_putFld_same _ _ _ 1 (by omega),
        (State.regFld_putFld_below _ _ _ 1 (by omega) (by omega)).trans hbusy, fun a ha => tget_tset_other _ _ ha, rfl⟩
    obtain rfl | rfl | rfl | rfl | rfl | rfl := hc
    · exact hdiscard 1
    · exact hdiscard 2
    · exact hdiscard 3
    · exact hdiscard 4
    · exact hdiscard 5
    · exact hdiscard 6

/-! ## Cold resets (R653, R654, R667) -/

section
variable (s : State)

/-- What a cold reset leaves of the registers, the blocks and the NVM. -/
theorem State.coldReset_leaves :
    s.coldReset.regs = [] ∧ s.coldReset.sup = {} ∧ s.coldReset.grv = {} ∧ s.coldReset.hrt = {} ∧ s.coldReset.wch = {} ∧
      s.coldReset.clk = {} ∧ s.coldReset.mem.cells = [] ∧ s.coldReset.hwd.rollback = s.hwd.rollback ∧
      s.coldReset.hwd.lmsIndex = s.hwd.lmsIndex ∧ s.coldReset.hwd.stage = 0 ∧ s.coldReset.pending = s.pending :=
  ⟨rfl, rfl, rfl, rfl, rfl, rfl, rfl, rfl, rfl, rfl, rfl⟩

theorem State.auxUp_phase (strap : Nat) : (s.auxUp strap).sup.phase = .kindling := by
  unfold State.auxUp
  dsimp only
  split <;> rfl

theorem State.resetN_short {us : Nat} (hpos : 0 < us) (hshort : us < 10) :
    s.resetN us = { s with freeCtr := s.freeCtr + 1 } ∨ s.resetN us = { s with freeCtr := s.freeCtr + 1 }.coldReset := by
  unfold State.resetN
  rw [if_neg (by omega), if_pos hshort]
  dsimp only
  split
  · exact .inr rfl
  · exact .inl rfl

theorem State.resetN_long {us : Nat} (h : 10 ≤ us) :
    s.resetN us = { s.coldReset with sup := { s.coldReset.sup with recovery := .resetHeld, resetNLow := true } } := by
  unfold State.resetN
  rw [if_neg (by omega), if_neg (by omega)]

/-- VIN comes into its window: conversion starts. -/
def State.vinStarted : State :=
  (s.modClk fun c => { c with pscEn := true, vinSince := some (c.vinSince.getD s.aonUs) }).putFld .PWR_RAIL_STATUS [] 0 1 1

theorem State.vinUp_warm {s : State} (h : s.clk.shutDown = false) : s.vinUp = s.vinStarted := by
  unfold State.vinUp
  rw [if_neg (Bool.eq_false_iff.mp h)]
  rfl

theorem State.vinUp_cold {s : State} (h : s.clk.shutDown = true) :
    s.vinUp = (s.coldReset.putReg .PWR_RAIL_STATUS [] (BitVec.ofNat 64 6)).vinStarted := by
  unfold State.vinUp
  rw [if_pos h]
  rfl

end

/-- Settles O54: each cause of a cold reset, and what only looks like one. -/
theorem coldReset : Obligations.ColdReset := by
  intro s v strap us
  refine ⟨fun hheld hidle => ?_, ?_, fun hlong => ?_, ?_, fun hpos hshort => ?_, fun hlow => ?_, fun hlow => ?_,
    fun hheld hwarm => ?_, fun hheld hcold => ?_⟩
  · obtain ⟨w, hw, hop⟩ := State.recoverOp_idle hheld v (op := 4) (by omega) hidle
    have hexec : exec (.coldReset v) s = .next w.coldReset := congrArg Host.Outcome.next (hop.trans w.recoverRun_cold)
    subst hw
    exact ⟨_, hexec, State.coldReset_leaves _⟩
  · exact ⟨_, rfl, s.auxUp_phase strap, rfl, rfl, State.getReg_putReg_same .., rfl, rfl, fun a ha => tget_tset_other _ _ ha⟩
  · exact ⟨_, congrArg Host.Outcome.next (s.resetN_long hlong), rfl, rfl, rfl, rfl, rfl, rfl⟩
  · rfl
  · exact ⟨_, rfl, s.resetN_short hpos hshort⟩
  · exact ⟨_, congrArg Host.Outcome.next (if_pos hlow), rfl, rfl, rfl⟩
  · exact congrArg Host.Outcome.next (if_neg (Bool.eq_false_iff.mp hlow))
  · exact ⟨_, congrArg Host.Outcome.next ((State.unheld_of hheld _).trans (State.vinUp_warm hwarm)), rfl,
      State.regFld_putFld_same _ _ _ 1 (by omega), rfl⟩
  · refine ⟨_, congrArg Host.Outcome.next ((State.unheld_of hheld _).trans (State.vinUp_cold hcold)), rfl, ?_, rfl, rfl, rfl⟩
    refine (State.getReg_putReg_same ..).trans ?_
    have hsix : (s.coldReset.putReg .PWR_RAIL_STATUS [] (BitVec.ofNat 64 6)).getReg .PWR_RAIL_STATUS [] = 6#64 :=
      State.getReg_putReg_same ..
    exact (congrArg (setFld · 0 1 1) hsix).trans (by decide)

end Sys2Proof.Machine
end

section
/-! PROOFS. The test access port (R594, R686, R694; O60). -/
namespace Sys2Proof.Machine

/-- Every trunk and branch port is DISABLED, and the TAP holds an instruction. -/
def State.portsClosed (i : TapInstr) (s : State) : Prop := s.pkg.tap = i ∧ ∀ p ∈ allPorts, (s.port p).st = .disabled

section
variable {s : State} {i : TapInstr}

theorem State.port_portOff_other {p q : Nat} (h : q ≠ p) : (s.portOff p).port q = s.port q := by
  have hlnk : (s.bumpPort p .LNK_LOST_T .LNK_LOST_B
      ((s.port p).replay.length + (s.port p).rx.length + (s.port p).tx.length)).lnk = s.lnk := by
    unfold State.bumpPort
    split
    · rfl
    · exact (State.bump_noted _ _ _ (Noted.refl s)).lnk
  unfold State.portOff
  rw [State.port_modPort_other _ _ h]
  exact congrArg (fun l : LinkState => tgetD l.ports q {}) hlnk

theorem State.pkg_portOff (s : State) (p : Nat) : (s.portOff p).pkg = s.pkg := by
  have hpkg : (s.bumpPort p .LNK_LOST_T .LNK_LOST_B
      ((s.port p).replay.length + (s.port p).rx.length + (s.port p).tx.length)).pkg = s.pkg := by
    unfold State.bumpPort
    split
    · rfl
    · exact (State.bump_noted _ _ _ (Noted.refl s)).pkg
  exact hpkg

/-- Closed ports stay closed through the loss of a reference. -/
theorem lossFree_portsClosed (i : TapInstr) : LossFree (State.portsClosed i) where
  regs _ _ _ h := h
  irqs _ h := h
  wch _ _ _ h := h
  sup _ _ h := h
  mem _ h := h
  kln _ _ h := h
  queues _ h := h
  portOff {b} p h := by
    refine ⟨(b.pkg_portOff p ▸ h.1 :), fun q hq => ?_⟩
    by_cases hqp : q = p
    · rw [hqp]
      exact b.st_portOff p
    · rw [State.port_portOff_other hqp]
      exact h.2 q hq
  links _ h := h
  watch _ h := h
  til _ h := h
  batch _ h := h
  col _ h := h
  reg _ _ h := h
  clk _ h := h
  hrt _ h := h
  outputs _ h := h

/-- Closing every port leaves each DISABLED. -/
theorem State.portsOff_closed (htap : s.pkg.tap = i) : s.portsOff.portsClosed i := by
  have hlist : ∀ (l : List Nat) (b : State), b.pkg.tap = i →
      (b.each l fun s p => if (s.port p).st == .disabled then s else s.portOff p).pkg.tap = i ∧
      ∀ p, p ∈ l ∨ (b.port p).st = .disabled →
        ((b.each l fun s p => if (s.port p).st == .disabled then s else s.portOff p).port p).st = .disabled := by
    intro l
    induction l with
    | nil => exact fun b hb => ⟨hb, fun p hp => hp.resolve_left List.not_mem_nil⟩
    | cons q l ih =>
      intro b hb
      generalize hc : (if (b.port q).st == .disabled then b else b.portOff q) = c
      have hone : c.pkg.tap = i ∧ ∀ p, p = q ∨ (b.port p).st = .disabled → (c.port p).st = .disabled := by
        rw [← hc]
        split
        next hoff => exact ⟨hb, fun p hp => hp.elim (fun h => h ▸ beq_iff_eq.mp hoff) id⟩
        next =>
          refine ⟨(b.pkg_portOff q ▸ hb :), fun p hp => ?_⟩
          by_cases hpq : p = q
          · rw [hpq]
            exact b.st_portOff q
          · rw [State.port_portOff_other hpq]
            exact hp.resolve_left hpq
      obtain ⟨htap', hclosed⟩ := ih c hone.1
      have hcons : b.each (q :: l) (fun s p => if (s.port p).st == .disabled then s else s.portOff p) =
          c.each l fun s p => if (s.port p).st == .disabled then s else s.portOff p := by
        unfold State.each
        rw [List.foldl_cons, hc]
      rw [hcons]
      refine ⟨htap', fun p hp => hclosed p ?_⟩
      rw [List.mem_cons, or_assoc] at hp
      obtain hpq | hpl | hoff := hp
      · exact .inr (hone.2 p (.inl hpq))
      · exact .inl hpl
      · exact .inr (hone.2 p (.inr hoff))
  unfold State.portsOff State.portsClosed
  exact ⟨(hlist allPorts s htap).1, fun p hp => (hlist allPorts s htap).2 p (.inl hp)⟩

theorem State.testMode_of_isTest (h : TapInstr.isTest i = true) (htap : s.pkg.tap = i) : s.testMode = true := by
  unfold State.testMode
  rw [htap]
  revert h
  cases i <;> decide

/-! ## What the TAP takes -/

theorem State.tapLeave_idle (h : s.testMode = false) (next : TapInstr) :
    s.tapLeave next = { s with pkg := { s.pkg with tap := next } } := if_pos (by simp [h])

theorem State.tapLeave_test (h : s.testMode = true) (next : TapInstr) :
    s.tapLeave next =
      ((s.modPkg fun p => { p with tap := next }).portsOff.refPortCheck).modHrt fun h => { h with ethUp := [false, false] } :=
  if_neg (by simp [h])

theorem State.tapEntry_plain (h : TapInstr.isTest i = false) : s.tapEntry i = s.tapLeave i := by
  simp [State.tapEntry, h]

theorem State.tapEntry_bound (h : TapInstr.isTest i = true) (hgroves : s.boundGroves ≠ []) :
    s.tapEntry i = s.tapLeave .bypass := by
  simp [State.tapEntry, h, hgroves, show TapInstr.isTest .bypass = false from rfl]

theorem State.tapEntry_test (h : TapInstr.isTest i = true) (hgroves : s.boundGroves = []) :
    s.tapEntry i = if i == .extestTrain then (s.modPkg fun p => { p with tap := i }).portsOff.refPortCheck
      else s.modPkg fun p => { p with tap := i } := by
  simp [State.tapEntry, h, hgroves]

end

/-- Settles O60: the TAP's instructions by the groves that are bound, and the ports that a training or a leave closes. -/
theorem testPort : Obligations.TestPort := by
  intro s i hheld
  have hentry : ∀ i, exec (.tapTestEntry i) s = .next (s.tapEntry i) := fun i =>
    congrArg Host.Outcome.next (State.unheld_of hheld _)
  have hexit : exec .tapTestExit s = .next (s.tapLeave .idcode) := congrArg Host.Outcome.next (State.unheld_of hheld _)
  have hclosed : ∀ i, (s.modPkg fun p => { p with tap := i }).portsOff.refPortCheck.portsClosed i := by
    intro i
    have htap : (s.modPkg fun p => { p with tap := i }).pkg.tap = i := rfl
    exact (lossFree_portsClosed i).refPortCheck (State.portsOff_closed htap)
  refine ⟨fun htest hgroves hne => ?_, fun hgroves => ?_, fun hidle htest hgroves => ?_, fun hidle htest => ?_,
    fun hidle => ?_, fun hmode => ?_⟩
  · have hplain := (State.tapEntry_test (s := s) htest hgroves).trans (if_neg (by simpa using hne))
    exact ⟨_, (hentry i).trans (congrArg _ hplain), rfl, State.testMode_of_isTest htest rfl, rfl⟩
  · have htrain := (State.tapEntry_test (s := s) (i := .extestTrain) rfl hgroves).trans (if_pos rfl)
    exact ⟨_, (hentry _).trans (congrArg _ htrain), hclosed _⟩
  · exact (hentry i).trans (congrArg _ ((State.tapEntry_bound htest hgroves).trans (State.tapLeave_idle hidle _)))
  · exact (hentry i).trans (congrArg _ ((State.tapEntry_plain htest).trans (State.tapLeave_idle hidle _)))
  · exact hexit.trans (congrArg _ (State.tapLeave_idle hidle _))
  · have hleave := hexit.trans (congrArg _ (State.tapLeave_test hmode _))
    have hports := hclosed .idcode
    generalize (s.modPkg fun p => { p with tap := .idcode }).portsOff.refPortCheck = u at hleave hports
    exact ⟨_, hleave, hports.1, rfl, hports.2⟩

end Sys2Proof.Machine
end

section
/-! PROOFS. Mailbox commands of heartwood (R641, R642, R645; O57). -/
namespace Sys2Proof.Machine

/-! ## A command that is taken, and its end -/

section
variable {s : State} {v : Word} {reach : Nat}

/-- A command that heartwood takes works on its buffer. -/
theorem State.mbox_takes (h : s.mboxTakes v reach = true) (f : State → Nat → Nat → State) :
    s.mbox v reach f = f (s.mboxTaken v) s.mboxAt (wfld v 0 16) := by
  simp only [State.mboxTakes, Bool.and_eq_true, Bool.or_eq_true, bne_iff_ne, beq_iff_eq, Bool.not_eq_true'] at h
  obtain ⟨⟨⟨⟨hphase, hstage⟩, hgo⟩, hidle⟩, hreach⟩ := h
  have harg : wfld ((s.softWrite .HWD_MBOX_CMD [] v).getReg .HWD_MBOX_ARG []) 6 35 * 64 = s.mboxAt :=
    congrArg (wfld · 6 35 * 64) (State.getReg_putReg_other _ _ (by decide))
  have hfar : (s.softWrite .HWD_MBOX_CMD [] v).islandsRun = s.islandsRun := rfl
  unfold State.mbox
  dsimp only
  rw [if_neg (by simp [hphase, hstage]), if_neg (by simp [hidle]), if_neg (by simp [hgo]), harg, if_neg]
  · rfl
  · rw [hfar]
    obtain hzero | ⟨hrun, hin⟩ := hreach
    · simp [hzero]
    · simp [hrun, hin]

theorem State.mboxTaken_keeps (s : State) (v : Word) : { s.mboxTaken v with regs := s.regs } = s := (rfl)

/-- A command that meets heartwood without firmware changes nothing. -/
theorem State.mbox_stopped (h : s.hwd.stage = 0) (f : State → Nat → Nat → State) : s.mbox v reach f = s :=
  if_pos (by simp [h])

/-- A command that meets a busy mailbox is recorded. -/
theorem State.mbox_busy (hphase : s.sup.phase ≠ .ash) (hstage : s.hwd.stage ≠ 0) (hgo : v.getLsbD 63 = true)
    (hbusy : s.mboxBusy = true) (f : State → Nat → Nat → State) :
    s.mbox v reach f =
      (s.putReg .HWD_FAULT_LAST [] (BitVec.ofNat 64 (0x09 * 2 ^ 56 + wfld v 16 8 * 2 ^ 16 + wfld v 0 16))).record .hwd
        .contained 2 0x09 none (wfld v 16 8) :=
  (if_neg (by simp [hphase, hstage])).trans (if_pos (by simp [hgo, hbusy]))

/-! ## The end of a command -/

theorem State.mboxEnd_ok (s : State) (op tag : Nat) :
    s.mboxEnd op tag 0 = s.putReg .HWD_MBOX_STATUS [] (mboxDone tag 0) := by
  unfold State.mboxEnd
  dsimp only
  rw [if_pos rfl]
  rfl

/-- What the end of a command leaves: its status, and everything records keep. -/
theorem State.mboxEnd_leaves (s : State) (op tag result : Nat) :
    Noted s (s.mboxEnd op tag result) ∧ (s.mboxEnd op tag result).getReg .HWD_MBOX_STATUS [] = mboxDone tag result := by
  unfold State.mboxEnd
  dsimp only
  split
  · exact ⟨State.putReg_noted _ _ _ (Noted.refl s), State.getReg_putReg_same ..⟩
  · refine ⟨State.record_noted _ _ _ _ _ _ (State.putReg_noted _ _ _ (State.putReg_noted _ _ _ (Noted.refl s))), ?_⟩
    rw [State.getReg_record _ _ _ _ _ _ _ rfl (by decide), State.getReg_putReg_other _ _ (by decide),
      State.getReg_putReg_same]
    rfl

/-- With room, a failed command leaves its record. -/
theorem State.mboxEnd_record {result : Nat} (h : result ≠ 0) (hroom : s.logRoom = true) (op tag : Nat) :
    ∃ r, (s.mboxEnd op tag result).lastRecord = some r ∧ r.src = .hwd ∧ r.sev = .contained ∧ r.code = result := by
  have hstatus : (s.putReg .HWD_MBOX_STATUS [] (mboxDone tag result)).logRoom = s.logRoom :=
    State.logRoom_putReg _ (by decide) (by decide)
  unfold State.mboxEnd
  dsimp only
  rw [if_neg h]
  refine ⟨_, State.lastRecord_record _ _ _ _ _ _ _ rfl ?_, rfl, rfl, rfl⟩
  exact (State.logRoom_putReg _ (by decide) (by decide)).trans (hstatus.trans hroom)

theorem State.logRoom_mboxTaken (s : State) (v : Word) : (s.mboxTaken v).logRoom = s.logRoom := by
  unfold State.mboxTaken State.softWrite
  rw [State.logRoom_putReg _ (by decide) (by decide), State.logRoom_putReg _ (by decide) (by decide)]

/-- Heartwood is none of what a write to memory changes. -/
theorem State.hwd_writeLocal (s : State) (p : Party) (o : Nat) (bs : List Byte) : (s.writeLocal p o bs).1.hwd = s.hwd :=
  WriteFree.writeLocal (P := fun t => t.hwd = s.hwd)
    ⟨⟨fun _ _ _ h => h, fun _ h => h, fun _ _ _ h => h, fun _ _ h => h⟩, fun _ h => h, fun _ _ h => h, fun _ h => h⟩ p o bs
    rfl

/-! ## The commands -/

theorem State.nvmRead_ok (s : State) (op tag : Nat) (f : State → State) : s.nvmRead op tag false f = f s := (rfl)

theorem State.nvmRead_ue (s : State) (op tag : Nat) (f : State → State) :
    s.nvmRead op tag true f =
      ((s.putReg .HWD_FAULT_LAST [] (BitVec.ofNat 64 (0x0C * 2 ^ 56 + op * 2 ^ 16 + tag))).putReg .HWD_MBOX_STATUS []
        (BitVec.ofNat 64 (tag * 2 ^ 16 + 0x0C * 2 ^ 8 + 2))).fatal .hwd 2 0x0C none op := by
  unfold State.nvmRead
  exact if_pos rfl

theorem State.mbMeasure_takes (h : s.mboxTakes v 0x100 = true) :
    s.mbMeasure v = (s.mboxTaken v).measureExtend s.mboxAt (wfld v 0 16) := by
  unfold State.mbMeasure
  rw [State.mbox_takes h]

theorem State.mbIdent_takes (ue : Bool) (h : s.mboxTakes v (0x100 + 0x84C) = true) :
    s.mbIdent v ue = (s.mboxTaken v).nvmRead 2 (wfld v 0 16) ue fun t =>
      ((t.writeLocal .hearth (s.mboxAt + 0x100) identityFrame).1).mboxEnd 2 (wfld v 0 16) 0 := by
  unfold State.mbIdent
  rw [State.mbox_takes h]

theorem State.mbRollback_takes (h : s.mboxTakes v 0x104 = true) :
    s.mbRollback v false = (s.mboxTaken v).rollbackCommit s.mboxAt (wfld v 0 16) := by
  unfold State.mbRollback
  rw [State.mbox_takes h, State.nvmRead_ok]

/-- A provision record's command checks what its buffer holds. -/
theorem State.mbProvision_takes (h : s.mboxTakes v 0x84C = true) :
    s.mbProvision v false =
      ((s.mboxTaken v).provisionSet ((s.mboxTaken v).hearthRead s.mboxAt 0x84C)).1.mboxEnd 4 (wfld v 0 16)
        ((s.mboxTaken v).provisionSet ((s.mboxTaken v).hearthRead s.mboxAt 0x84C)).2 := by
  unfold State.mbProvision
  rw [State.mbox_takes h, State.nvmRead_ok]

/-- Taking a command leaves the buffer. -/
theorem State.hearthRead_mboxTaken (s : State) (v : Word) (o n : Nat) :
    (s.mboxTaken v).hearthRead o n = s.hearthRead o n := (rfl)

/-- MEASURE_EXTEND extends the slot of its request, or refuses it. -/
theorem State.measureExtend_cases (s : State) (o tag : Nat) :
    s.measureExtend o tag =
      if leAt (s.hearthRead o 56) 0 1 < 4 || leAt (s.hearthRead o 56) 0 1 > 7 then s.mboxEnd 3 tag 0x09
      else (s.extend (leAt (s.hearthRead o 56) 0 1) (bytesAt (s.hearthRead o 56) 8 48)).mboxEnd 3 tag 0 := (rfl)

/-- What a provision record is answered with. -/
theorem State.provisionSet_invalid {f : List Byte} (h : provCode s.vendorKeys.1 s.vendorKeys.2 f ≠ 0) :
    s.provisionSet f = (s, provCode s.vendorKeys.1 s.vendorKeys.2 f) := if_pos h

theorem State.provisionSet_older {f : List Byte} {n : Nat} (h : provCode s.vendorKeys.1 s.vendorKeys.2 f = 0)
    (hseq : s.storedSeq = some n) (hold : leAt f 8 4 ≤ n) : s.provisionSet f = (s, 0x07) :=
  (if_neg (by simp [h])).trans (if_pos (by simp [hseq, hold]))

theorem State.provisionSet_newer {f : List Byte} (h : provCode s.vendorKeys.1 s.vendorKeys.2 f = 0)
    (hnew : ∀ n, s.storedSeq = some n → n < leAt f 8 4) :
    s.provisionSet f = (s.modHwd fun h => { h with provPending := some (f.take 0x84C) }, 0) := by
  refine (if_neg (by simp [h])).trans (if_neg ?_)
  cases hseq : s.storedSeq with
  | none => simp
  | some n =>
    have hlt := hnew n hseq
    simp
    omega

end

/-- Settles O57: what each command leaves once it is taken, and what it meets otherwise. -/
theorem mailboxCommands : Obligations.MailboxCommands := by
  intro s s1 v o tag k ue a b ho htag hs1
  subst ho htag hs1
  have hkeys : (s.mboxTaken v).vendorKeys = s.vendorKeys := rfl
  refine ⟨fun htake hk => ⟨fun hlow hhigh hlen => ?_, fun hout hroom => ?_⟩, fun htake => ?_, fun htake => ?_, fun htake => ?_,
    fun htake hnone => ?_, fun c hc => ⟨fun hstage => ?_, fun hphase hstage hgo hbusy hroom => ?_⟩⟩
  · have hexec : exec (.measureExtend v) s = .next (s.mbMeasure v) := rfl
    rw [State.mbMeasure_takes htake, State.measureExtend_cases, State.hearthRead_mboxTaken, ← hk, if_neg (by simp; omega), State.mboxEnd_ok] at hexec
    refine ⟨_, hexec, State.getReg_putReg_same .., ?_, fun j hj => ?_, rfl⟩
    · simp [State.putReg, State.extend, State.modHwd, State.mboxTaken, State.softWrite, hlen, Nat.lt_succ_of_le hhigh]
    · simp [State.putReg, State.extend, State.modHwd, State.mboxTaken, State.softWrite, List.getD_eq_getElem?_getD,
        Ne.symm hj]
  · have hexec : exec (.measureExtend v) s = .next (s.mbMeasure v) := rfl
    rw [State.mbMeasure_takes htake, State.measureExtend_cases, State.hearthRead_mboxTaken, ← hk, if_pos (by simp; omega)] at hexec
    obtain ⟨hnoted, hstatus⟩ := (s.mboxTaken v).mboxEnd_leaves 3 (wfld v 0 16) 0x09
    obtain ⟨r, hrec⟩ := State.mboxEnd_record (s := s.mboxTaken v) (result := 0x09) (by decide)
      ((s.logRoom_mboxTaken v).trans hroom) 3 (wfld v 0 16)
    exact ⟨_, r, hexec, hstatus, hnoted.hwd, hnoted.mem, hrec⟩
  · have hexec : exec (.identRead v false) s = .next (s.mbIdent v false) := rfl
    rw [State.mbIdent_takes false htake, State.nvmRead_ok, State.mboxEnd_ok] at hexec
    have hhwd := (s.mboxTaken v).hwd_writeLocal .hearth (s.mboxAt + 0x100) identityFrame
    generalize ((s.mboxTaken v).writeLocal .hearth (s.mboxAt + 0x100) identityFrame).1 = u at hexec hhwd ⊢
    exact ⟨_, hexec, State.getReg_putReg_same .., hhwd, rfl⟩
  · have hexec : exec (.rollbackCommit v false) s = .next (s.mbRollback v false) := rfl
    rw [State.mbRollback_takes htake] at hexec
    unfold State.rollbackCommit at hexec
    dsimp only at hexec
    rw [State.mboxEnd_ok] at hexec
    have hhwd := fun p o bs => ((s.mboxTaken v).modHwd fun h =>
      { h with rollback := max (s.mboxTaken v).hwd.rollback (s.mboxTaken v).hwd.svn }).hwd_writeLocal p o bs
    generalize hu : (State.writeLocal _ _ _ _).1 = u at hexec
    have hkept := (congrArg State.hwd hu).symm.trans (hhwd ..)
    exact ⟨_, hexec, State.getReg_putReg_same .., hkept⟩
  · have hexec : exec (.provisionSet v false) s = .next (s.mbProvision v false) := rfl
    rw [State.mbProvision_takes htake, State.hearthRead_mboxTaken] at hexec
    generalize hf : s.hearthRead s.mboxAt 0x84C = f at hexec
    generalize hp : (s.mboxTaken v).provisionSet f = p at hexec
    obtain ⟨hnoted, hstatus⟩ := p.1.mboxEnd_leaves 4 (wfld v 0 16) p.2
    have hmem : p.1.mem = s.mem := by
      rw [← hp]
      unfold State.provisionSet
      dsimp only
      split
      · rfl
      · split <;> rfl
    refine ⟨_, f, hexec, rfl, hnoted.mem.trans hmem, fun hvalid hnew => ?_, fun hbad => ?_, fun n hvalid hseq hold => ?_⟩
    · have hnewer := State.provisionSet_newer (s := s.mboxTaken v) hvalid hnew
      rw [hstatus, hnoted.hwd, ← hp, hnewer]
      exact ⟨rfl, rfl⟩
    · have hinvalid := State.provisionSet_invalid (s := s.mboxTaken v) hbad
      rw [hstatus, hnoted.hwd, ← hp, hinvalid]
      exact ⟨rfl, rfl⟩
    · have holder := State.provisionSet_older (s := s.mboxTaken v) hvalid hseq hold
      rw [hstatus, hnoted.hwd, ← hp, holder]
      exact ⟨rfl, rfl⟩
  · have hexec : exec (.identRead v true) s = .next (s.mbIdent v true) := rfl
    rw [State.mbIdent_takes true htake, State.nvmRead_ue] at hexec
    obtain ⟨r, hr, hsrc, -, -, hcode⟩ := State.fatal_first (s := ((s.mboxTaken v).putReg .HWD_FAULT_LAST []
      (BitVec.ofNat 64 (0x0C * 2 ^ 56 + 2 * 2 ^ 16 + wfld v 0 16))).putReg .HWD_MBOX_STATUS []
      (BitVec.ofNat 64 (wfld v 0 16 * 2 ^ 16 + 0x0C * 2 ^ 8 + 2))) hnone .hwd 2 0x0C none 2
    exact ⟨_, r, hexec, State.phase_fatal_ash .., hr, hsrc, hcode⟩
  · obtain rfl | rfl | rfl | rfl | rfl | rfl := hc
    all_goals exact congrArg Host.Outcome.next (State.mbox_stopped hstage _)
  · have hbusy' := fun reach f => State.mbox_busy (reach := reach) hphase hstage hgo hbusy f
    generalize hu : s.putReg .HWD_FAULT_LAST []
      (BitVec.ofNat 64 (0x09 * 2 ^ 56 + wfld v 16 8 * 2 ^ 16 + wfld v 0 16)) = u at hbusy'
    have hexec : exec c s = .next (u.record .hwd .contained 2 0x09 none (wfld v 16 8)) := by
      obtain rfl | rfl | rfl | rfl | rfl | rfl := hc
      all_goals exact congrArg Host.Outcome.next (hbusy' _ _)
    have hnoted := State.record_noted .hwd .contained 2 0x09 none (wfld v 16 8) (Noted.refl u)
    have hroom' : u.logRoom = true := by
      rw [← hu, State.logRoom_putReg _ (by decide) (by decide), hroom]
    refine ⟨_, _, hexec, hnoted.hwd.trans (hu ▸ rfl), hnoted.mem.trans (hu ▸ rfl),
      State.lastRecord_record _ _ _ _ _ _ _ rfl hroom', rfl, rfl, rfl, ?_⟩
    rw [State.getReg_record _ _ _ _ _ _ _ rfl (by decide), ← hu, State.getReg_putReg_other _ _ (by decide)]

end Sys2Proof.Machine
end

section
/-! PROOFS. The SMBus target: registers, images and alert response (R681 to R685; O59). -/
namespace Sys2Proof.Machine

/-! ## Registers (R682, R685) -/

/-- Writing what a field holds changes nothing. -/
theorem setFld_wfld (v : Word) {lo w : Nat} (h : lo + w ≤ 64) : setFld v lo w (wfld v lo w) = v := by
  refine BitVec.eq_of_toNat_eq ?_
  rw [setFld_toNat h]
  unfold wfld fld
  have hlow := Nat.div_add_mod v.toNat (2 ^ lo)
  have hhigh := Nat.div_add_mod (v.toNat / 2 ^ lo) (2 ^ w)
  rw [Nat.div_div_eq_div_mul, ← Nat.pow_add] at hhigh
  rw [Nat.mod_mod, Nat.pow_add]
  rw [← Nat.pow_add] at *
  generalize v.toNat / 2 ^ (lo + w) = p at *
  generalize v.toNat / 2 ^ lo = q at *
  rw [Nat.pow_add]
  calc p * (2 ^ lo * 2 ^ w) + q % 2 ^ w * 2 ^ lo + v.toNat % 2 ^ lo
      = 2 ^ lo * (2 ^ w * p + q % 2 ^ w) + v.toNat % 2 ^ lo := by ring
    _ = v.toNat := by rw [hhigh, hlow]

section
variable {s : State} {off : Nat} {v : Word}

theorem State.reaches_always (hheld : s.sup.recovery ≠ .resetHeld) (h : alwaysAnswers off = true) : s.reaches off = true := by
  simp [State.reaches, hheld, h]

theorem State.smbusRead_register {r : Reg} {ix : List Nat} (hheld : s.sup.recovery ≠ .resetHeld)
    (h : alwaysAnswers off = true) (halign : off % 8 = 0) (hat : regAt off = some (r, ix)) :
    s.smbusRead off = s.emit (.smbus (toLe 8
      (s.regValue r ix &&& ~~~(BitVec.ofNat 64 (accMask r fun a => a == .wo))).toNat)) := by
  unfold State.smbusRead State.regLoad
  rw [if_pos h, State.reaches_always hheld h, hat]
  simp [halign]

/-- A write with go and op RECOVER is RECOVER. -/
theorem State.writeRecover_recover (hheld : s.sup.recovery ≠ .resetHeld) (hgo : v.getLsbD 63 = true) (hop : wfld v 0 3 = 2) :
    s.regStore 0x18 8 v = s.recoverOp v 2 := by
  have hat : regAt 0x18 = some (.GLB_RECOVER, []) := by decide
  have hsame : setFld (setFld v 63 1 1) 0 3 2 = v := by
    have hbit : wfld v 63 1 = 1 := by
      rw [getLsbD_eq_wfld] at hgo
      exact of_decide_eq_true hgo
    have hfirst := setFld_wfld v (lo := 63) (w := 1) (by omega)
    have hsecond := setFld_wfld v (lo := 0) (w := 3) (by omega)
    rw [hbit] at hfirst
    rw [hop] at hsecond
    rw [hfirst, hsecond]
  have hreach : s.reaches 0x18 = true := State.reaches_always hheld (by simp [alwaysAnswers])
  unfold State.regStore State.recoverOp
  rw [hreach, hat, hsame, State.unheld_of hheld]
  exact (if_neg (by decide)).trans ((if_neg (by decide)).trans (if_neg (by decide)))

end

/-! ## The codes of a boot (R625, R627, R632) -/

theorem sigCode_le (e l f : List Byte) : sigCode e l f ≤ 2 := by
  unfold sigCode
  repeat' split
  all_goals decide

theorem stageCode_le (rollback : Nat) (b : List Byte) (k : Nat) : stageCode rollback b k ≤ 7 := by
  unfold stageCode
  dsimp only
  repeat' split
  · decide
  · decide
  · exact Nat.le_trans (sigCode_le ..) (by decide)
  · decide
  · decide
  · decide

theorem provCode_le (e l f : List Byte) : provCode e l f ≤ 7 := by
  unfold provCode
  repeat' split
  · exact Nat.le_trans (sigCode_le ..) (by decide)
  · decide
  · decide

/-! ## What a boot keeps (R629, R683) -/

/-- Memory, the rollback counter and the stored record. -/
structure BootKeeps (s t : State) : Prop where
  mem : t.mem = s.mem
  rollback : t.hwd.rollback = s.hwd.rollback
  prov : t.hwd.prov = s.hwd.prov

theorem BootKeeps.refl (s : State) : BootKeeps s s := ⟨rfl, rfl, rfl⟩

theorem BootKeeps.trans {a b c : State} (h : BootKeeps a b) (k : BootKeeps b c) : BootKeeps a c :=
  ⟨k.mem.trans h.mem, k.rollback.trans h.rollback, k.prov.trans h.prov⟩

section
variable (s : State)

/-- A fault of the boot's checks is recorded, and heartwood keeps all but its code. -/
theorem State.bootFault_leaves {code : Nat} (h : code ≤ 7) (stage : Nat) (copyB : Bool) :
    (s.bootFault code stage copyB).hwd = { s.hwd with failCode := code } ∧ (s.bootFault code stage copyB).mem = s.mem ∧
      (s.logRoom = true → ∃ r, (s.bootFault code stage copyB).lastRecord = some r ∧ r.src = .hwd ∧ r.code = code) := by
  unfold State.bootFault
  dsimp only
  rw [if_neg (by simp; omega)]
  generalize hu : (s.modHwd fun h => { h with failCode := code }).putReg .HWD_FAULT_LAST []
    (BitVec.ofNat 64 (code * 2 ^ 56 + stage * 2 ^ 52 + b2n copyB * 2 ^ 51)) = u
  have hnoted := State.record_noted .hwd .contained 2 code none (stage + b2n copyB * 2 ^ 4) (Noted.refl u)
  refine ⟨hnoted.hwd.trans (hu ▸ rfl), hnoted.mem.trans (hu ▸ rfl), fun hroom => ?_⟩
  have hroom' : u.logRoom = true := by
    rw [← hu, State.logRoom_putReg _ (by decide) (by decide)]
    exact (State.logRoom_congr rfl).trans hroom
  exact ⟨_, State.lastRecord_record _ _ _ _ _ _ _ rfl hroom', rfl, rfl⟩

theorem State.bootFault_keeps {code : Nat} (h : code ≤ 7) (stage : Nat) (copyB : Bool) :
    BootKeeps s (s.bootFault code stage copyB) := by
  obtain ⟨hhwd, hmem, -⟩ := s.bootFault_leaves h stage copyB
  exact ⟨hmem, by rw [hhwd], by rw [hhwd]⟩

theorem State.romStart_keeps : BootKeeps s s.romStart := ⟨rfl, rfl, rfl⟩

theorem State.excludeCopy_keeps (copyB fromBus : Bool) : BootKeeps s (s.excludeCopy copyB fromBus) := by
  unfold State.excludeCopy
  cases fromBus <;> cases copyB <;> exact ⟨rfl, rfl, rfl⟩

/-- What step 3 of the boot keeps of heartwood. -/
theorem State.bootProvision_keeps :
    BootKeeps s s.bootProvision.1 ∧ s.bootProvision.1.hwd.stage = s.hwd.stage ∧
      s.bootProvision.1.hwd.recovery = s.hwd.recovery := by
  unfold State.bootProvision
  dsimp only
  split
  · split <;> exact ⟨⟨rfl, rfl, rfl⟩, rfl, rfl⟩
  · have hcode := provCode_le s.vendorKeys.1 s.vendorKeys.2 (s.hwd.prov.getD [])
    generalize provCode s.vendorKeys.1 s.vendorKeys.2 (s.hwd.prov.getD []) = code at hcode
    have hfirst : BootKeeps s (if code = 7 then s else s.bootFault code 1 s.hwd.copyB) ∧
        (if code = 7 then s else s.bootFault code 1 s.hwd.copyB).hwd.stage = s.hwd.stage ∧
        (if code = 7 then s else s.bootFault code 1 s.hwd.copyB).hwd.recovery = s.hwd.recovery := by
      split
      · exact ⟨BootKeeps.refl s, rfl, rfl⟩
      · obtain ⟨hhwd, -, -⟩ := s.bootFault_leaves hcode 1 s.hwd.copyB
        exact ⟨s.bootFault_keeps hcode .., by rw [hhwd], by rw [hhwd]⟩
    generalize (if code = 7 then s else s.bootFault code 1 s.hwd.copyB) = u at hfirst
    obtain ⟨hkeeps, hstage, hrecovery⟩ := hfirst
    obtain ⟨hhwd, -, -⟩ := u.bootFault_leaves (code := 0x07) (by decide) 1 u.hwd.copyB
    exact ⟨hkeeps.trans (u.bootFault_keeps (code := 0x07) (by decide) ..), by rw [hhwd]; exact hstage, by rw [hhwd]; exact hrecovery⟩

theorem State.bootLoader_keeps (b : List Byte) :
    BootKeeps s (s.bootLoader b) ∧ (s.bootLoader b).hwd.recovery = s.hwd.recovery := ⟨⟨rfl, rfl, rfl⟩, rfl⟩

/-- Resuming the boot keeps memory, the counter and the record. -/
theorem State.bootResume_keeps : BootKeeps s s.bootResume := by
  obtain ⟨hprov, -, -⟩ := s.bootProvision_keeps
  unfold State.bootResume
  split
  next t heq => exact (heq ▸ hprov :)
  next t heq =>
    have ht : BootKeeps s t := (heq ▸ hprov :)
    have hcode := stageCode_le t.hwd.rollback t.hwd.running.bytes 2
    dsimp only
    split
    · exact ht.trans (t.bootLoader_keeps _).1
    · generalize stageCode t.hwd.rollback t.hwd.running.bytes 2 = code at hcode
      have hrom : BootKeeps s (((t.bootFault code 2 t.hwd.copyB).excludeCopy t.hwd.copyB t.hwd.recovery).romStart) :=
        (ht.trans (t.bootFault_keeps hcode ..)).trans ((State.excludeCopy_keeps ..).trans (State.romStart_keeps _))
      split
      · exact hrom.trans (State.bootFault_keeps _ (by decide) ..)
      · exact hrom

end

/-! ## A stage set (R629, R683) -/

section
variable (s : State) (b : List Byte)

theorem State.excludeCopy_bus (copyB : Bool) : s.excludeCopy copyB true = s := (rfl)

/-- The state in which stage 1 of a set has been checked and measured. -/
def State.stageOne : State :=
  (s.romStart.extend 0 (sha384 (frameBody (stageFrame b 1)))).modHwd fun h => { h with
    stage := 1, copyB := false, recovery := true, running := ⟨b⟩, svn := leAt (stageFrame b 1) 8 4
    ownMem := (leAt (stageFrame b 1) 0x10 8, stagePayload b 1) }

theorem State.stageOne_leaves : BootKeeps s (s.stageOne b) ∧ (s.stageOne b).hwd.stage = 1 ∧
    (s.stageOne b).hwd.recovery = true := ⟨⟨rfl, rfl, rfl⟩, rfl, rfl⟩

/-- A set whose stage 1 fails a check. -/
theorem State.bootSet_fails (h : stageCode s.hwd.rollback b 1 ≠ 0) :
    s.bootSet b false true =
      (s.romStart.bootFault (stageCode s.hwd.rollback b 1) 1 false, stageCode s.hwd.rollback b 1) := by
  have hroll : s.romStart.hwd.rollback = s.hwd.rollback := rfl
  unfold State.bootSet
  dsimp only
  rw [hroll, if_pos h, State.excludeCopy_bus]

theorem State.bootSet_checks (h : stageCode s.hwd.rollback b 1 = 0) :
    s.bootSet b false true =
      match (s.stageOne b).bootProvision with
      | (t, false) => (t, 0)
      | (t, true) =>
        if stageCode t.hwd.rollback b 2 ≠ 0 then
          (t.bootFault (stageCode t.hwd.rollback b 2) 2 false, stageCode t.hwd.rollback b 2)
        else (t.bootLoader b, 0) := by
  have hroll : s.romStart.hwd.rollback = s.hwd.rollback := rfl
  unfold State.bootSet
  dsimp only
  rw [hroll, if_neg (not_not.mpr h)]
  simp only [State.excludeCopy_bus]
  rfl

/-- A set that is refused leaves heartwood in its ROM. -/
theorem State.applySet_fails (h : stageCode s.hwd.rollback b 1 ≠ 0) :
    BootKeeps s (s.applySet b).1 ∧ (s.applySet b).1.hwd.stage = 0 ∧ (s.applySet b).2 ≠ 0 := by
  have hcode := stageCode_le s.hwd.rollback b 1
  have heq := s.bootSet_fails b h
  generalize stageCode s.hwd.rollback b 1 = code at h hcode heq
  obtain ⟨hhwd, -, -⟩ := s.romStart.bootFault_leaves hcode 1 false
  have hkeeps := s.romStart_keeps.trans (s.romStart.bootFault_keeps hcode 1 false)
  have hstage : (s.romStart.bootFault code 1 false).hwd.stage = 0 := by rw [hhwd]; rfl
  unfold State.applySet
  rw [heq]
  split
  next hzero => exact absurd (congrArg Prod.snd hzero) h
  next t c hne hpair =>
    obtain ⟨rfl, rfl⟩ := Prod.mk.inj hpair
    rw [if_pos hstage]
    exact ⟨hkeeps, hstage, h⟩

/-- A set whose stage 1 passes: where heartwood runs afterwards, it runs the recovery set and the image is taken. -/
theorem State.applySet_checks (h : stageCode s.hwd.rollback b 1 = 0) :
    BootKeeps s (s.applySet b).1 ∧
      ((s.applySet b).1.hwd.stage ≠ 0 → (s.applySet b).1.hwd.recovery = true ∧ (s.applySet b).2 = 0) := by
  obtain ⟨hone, hstageOne, hrecOne⟩ := s.stageOne_leaves b
  obtain ⟨hprov, hstage, hrec⟩ := (s.stageOne b).bootProvision_keeps
  have heq := s.bootSet_checks b h
  generalize (s.stageOne b).bootProvision = p at heq hprov hstage hrec
  obtain ⟨t, passed⟩ := p
  have ht : BootKeeps s t := hone.trans hprov
  have htrec : t.hwd.recovery = true := hrec.trans hrecOne
  have htstage : t.hwd.stage = 1 := hstage.trans hstageOne
  unfold State.applySet
  rw [heq]
  cases passed with
  | false => exact ⟨ht, fun _ => ⟨htrec, rfl⟩⟩
  | true =>
    have hcode := stageCode_le t.hwd.rollback b 2
    dsimp only
    generalize stageCode t.hwd.rollback b 2 = code at hcode
    by_cases hzero : code = 0
    · rw [if_neg (by simpa using hzero)]
      obtain ⟨hloads, hloadrec⟩ := t.bootLoader_keeps b
      exact ⟨ht.trans hloads, fun _ => ⟨hloadrec.trans htrec, rfl⟩⟩
    · rw [if_pos hzero]
      obtain ⟨hhwd, -, -⟩ := t.bootFault_leaves hcode 2 false
      have hfault := t.bootFault_keeps hcode 2 false
      have hrunning : (t.bootFault code 2 false).hwd.stage ≠ 0 := by rw [hhwd]; simp [htstage]
      split
      next hpair => exact absurd (congrArg Prod.snd hpair) hzero
      next u c hne hpair =>
        obtain ⟨rfl, rfl⟩ := Prod.mk.inj hpair
        rw [if_neg hrunning]
        exact ⟨(ht.trans hfault).trans (State.romStart_keeps _), fun hrun => absurd rfl hrun⟩

/-! ## A provision record (R632, R633, R683) -/

/-- A record that fails its checks. -/
theorem State.applyRecord_fails {b : List Byte} (h : provCode s.vendorKeys.1 s.vendorKeys.2 b ≠ 0) :
    s.applyRecord b =
      (s.bootFault (provCode s.vendorKeys.1 s.vendorKeys.2 b) 1 s.hwd.copyB, provCode s.vendorKeys.1 s.vendorKeys.2 b) := by
  unfold State.applyRecord
  rw [State.provisionSet_invalid h]
  split
  next hpair => exact absurd (congrArg Prod.snd hpair) h
  next t c hne hpair =>
    obtain ⟨rfl, rfl⟩ := Prod.mk.inj hpair
    rfl

/-- A newer record that passes them takes effect, and the boot goes on. -/
theorem State.applyRecord_stores {b : List Byte} (h : provCode s.vendorKeys.1 s.vendorKeys.2 b = 0)
    (hnew : ∀ n, s.storedSeq = some n → n < leAt b 8 4) :
    s.applyRecord b =
      ((s.modHwd fun h => { h with prov := some (b.take 0x84C), provPending := none }).bootResume, 0) := by
  unfold State.applyRecord
  rw [State.provisionSet_newer h hnew]
  rfl

/-- Every record keeps memory and the counter. -/
theorem State.applyRecord_keeps : (s.applyRecord b).1.mem = s.mem ∧ (s.applyRecord b).1.hwd.rollback = s.hwd.rollback := by
  have hset : (s.provisionSet b).1.mem = s.mem ∧ (s.provisionSet b).1.hwd.rollback = s.hwd.rollback ∧
      (s.provisionSet b).2 ≤ 7 := by
    unfold State.provisionSet
    dsimp only
    split
    · exact ⟨rfl, rfl, provCode_le ..⟩
    · split
      · exact ⟨rfl, rfl, Nat.le_refl 7⟩
      · exact ⟨rfl, rfl, Nat.zero_le 7⟩
  unfold State.applyRecord
  generalize s.provisionSet b = p at hset
  obtain ⟨t, code⟩ := p
  obtain ⟨hmem, hroll, hcode⟩ := hset
  cases code with
  | zero =>
    obtain ⟨hm, hr, -⟩ := (t.modHwd fun h => { h with prov := h.provPending.or h.prov, provPending := none }).bootResume_keeps
    exact ⟨hm.trans hmem, hr.trans hroll⟩
  | succ code =>
    obtain ⟨hm, hr, -⟩ := t.bootFault_keeps hcode 1 t.hwd.copyB
    exact ⟨hm.trans hmem, hr.trans hroll⟩

end

/-! ## The reception of an image (R682, R683) -/

/-- Bytes put into a table one after another stand at their offsets. -/
theorem tget_putBytes (bs : List Byte) (m off : Nat) (t : Tbl Byte) (k : Nat) :
    tget ((bs.zipIdx m).foldl (fun t b => tset t (off + b.2) b.1) t) k =
      if off + m ≤ k then (bs[k - (off + m)]?).or (tget t k) else tget t k := by
  induction bs generalizing m t with
  | nil => simp
  | cons b bs ih =>
    rw [List.zipIdx_cons, List.foldl_cons, ih]
    by_cases hlt : k < off + m
    · rw [if_neg (by omega), if_neg (by omega), tget_tset_other _ _ (by omega)]
    · by_cases heq : k = off + m
      · subst heq
        rw [if_neg (by omega), if_pos (Nat.le_refl _), tget_tset_same]
        simp
      · have hsplit : k - (off + m) = (k - (off + (m + 1))) + 1 := by omega
        rw [if_pos (by omega), if_pos (by omega), tget_tset_other _ _ heq, hsplit, List.getElem?_cons_succ]

section
variable {s : State} {kind n off crc : Nat} {bs : List Byte}

theorem State.imgBytes_takes (h1 : s.pkg.imgStatus = 1) (hwants : s.wantsImage s.pkg.imgKind = true) :
    s.imgBytes off bs = s.modPkg fun p => { p with
      imgData := (bs.take (s.pkg.imgLength - off)).zipIdx.foldl (fun t b => tset t (off + b.2) b.1) p.imgData } :=
  if_neg (by simp [h1, hwants])

/-- A byte within the image goes to its offset, and every other stays. -/
theorem State.imgBytes_data (h1 : s.pkg.imgStatus = 1) (hwants : s.wantsImage s.pkg.imgKind = true) :
    (∀ i b, bs[i]? = some b → off + i < s.pkg.imgLength → tget (s.imgBytes off bs).pkg.imgData (off + i) = some b) ∧
    (∀ k, k < off ∨ off + bs.length ≤ k ∨ s.pkg.imgLength ≤ k →
      tget (s.imgBytes off bs).pkg.imgData k = tget s.pkg.imgData k) := by
  have hget : ∀ k, tget (s.imgBytes off bs).pkg.imgData k =
      if off ≤ k then ((bs.take (s.pkg.imgLength - off))[k - off]?).or (tget s.pkg.imgData k)
      else tget s.pkg.imgData k := by
    rw [State.imgBytes_takes h1 hwants]
    exact fun k => tget_putBytes _ 0 off _ k
  refine ⟨fun i b hb hin => ?_, fun k hk => ?_⟩
  · rw [hget, if_pos (by omega), List.getElem?_take, if_pos (by omega), Nat.add_sub_cancel_left, hb]
    rfl
  · rw [hget]
    split
    next hle =>
      have hnone : (bs.take (s.pkg.imgLength - off))[k - off]? = none := by
        rw [List.getElem?_eq_none_iff, List.length_take]
        omega
      rw [hnone]
      rfl
    next => rfl

/-- A refused image is recorded and its bytes are gone. -/
theorem State.imgRefuse_leaves (s : State) (kind : Nat) :
    (s.imgRefuse kind).pkg.imgStatus = 4 ∧ (s.imgRefuse kind).pkg.imgData = [] ∧
      (s.imgRefuse kind).hwd.stage = s.hwd.stage ∧
      (s.logRoom = true → ∃ r, (s.imgRefuse kind).lastRecord = some r ∧ r.src = .hwd ∧
        r.code = if kind = 0 then 0x05 else 0x07) := by
  have hcode : (if kind = 0 then 0x05 else 0x07) ≤ 7 := by split <;> decide
  obtain ⟨hhwd, -, hrec⟩ := s.bootFault_leaves hcode (min 1 s.hwd.stage) s.hwd.copyB
  unfold State.imgRefuse
  generalize s.bootFault (if kind = 0 then 0x05 else 0x07) (min 1 s.hwd.stage) s.hwd.copyB = u at hhwd hrec
  refine ⟨rfl, rfl, (congrArg HeartwoodState.stage hhwd :), fun hroom => ?_⟩
  obtain ⟨r, hlast, hfacts⟩ := hrec hroom
  exact ⟨r, (State.lastRecord_congr rfl rfl).trans hlast, hfacts⟩

theorem State.imgEnd_wrong (h1 : s.pkg.imgStatus = 1) (hwants : s.wantsImage s.pkg.imgKind = true)
    (hcrc : crc32c s.pkg.image ≠ crc) : s.imgEnd crc = s.imgRefuse s.pkg.imgKind :=
  (if_neg (by simp [h1, hwants])).trans (if_pos hcrc)

/-- An image with its crc is judged by its kind. -/
def State.imgJudged (s : State) : State × Nat :=
  if s.pkg.imgKind = 0 then s.applySet s.pkg.image else s.applyRecord s.pkg.image

theorem State.imgEnd_right (h1 : s.pkg.imgStatus = 1) (hwants : s.wantsImage s.pkg.imgKind = true)
    (hcrc : crc32c s.pkg.image = crc) :
    s.imgEnd crc = s.imgJudged.1.imgClear (if s.imgJudged.2 = 0 then 3 else 4) :=
  (if_neg (by simp [h1, hwants])).trans (if_neg (by simp [hcrc]))

theorem State.imgJudged_keeps (s : State) :
    s.imgJudged.1.mem = s.mem ∧ s.imgJudged.1.hwd.rollback = s.hwd.rollback := by
  unfold State.imgJudged
  split
  · by_cases hcode : stageCode s.hwd.rollback s.pkg.image 1 = 0
    · obtain ⟨⟨hmem, hroll, -⟩, -⟩ := s.applySet_checks s.pkg.image hcode
      exact ⟨hmem, hroll⟩
    · obtain ⟨⟨hmem, hroll, -⟩, -⟩ := s.applySet_fails s.pkg.image hcode
      exact ⟨hmem, hroll⟩
  · exact s.applyRecord_keeps s.pkg.image

/-- A record is waited for at stage 1. -/
theorem State.stage_of_wantsRecord (h : s.wantsRecord = true) : s.hwd.stage = 1 := by
  simp only [State.wantsRecord, Bool.and_eq_true, beq_iff_eq] at h
  obtain ⟨⟨-, hstage⟩, -⟩ := h
  exact hstage

end

/-- A target that drives ALERT_N low answers with its address, and keeps driving it in the ash state only. -/
theorem State.alertResponse_low {s : State} (h : s.sup.alertLow = true) :
    s.alertResponse = { s with
      outbox := s.outbox ++ [.smbus [BitVec.ofNat 8 (0x58 + s.pkg.strap)]]
      sup := { s.sup with alertLow := s.sup.phase == .ash } } := by
  unfold State.alertResponse
  rw [if_neg (by simp [h])]
  dsimp only
  by_cases hash : (s.sup.phase == .ash) = true
  · have hsup : s.sup = { s.sup with alertLow := s.sup.phase == .ash } := by rw [hash, ← h]
    rw [← hsup]
    exact if_pos hash
  · rw [Bool.eq_false_iff.mpr hash]
    exact if_neg hash

section
variable {s : State} (hheld : s.sup.recovery ≠ .resetHeld)
include hheld

theorem exec_smbusImgBegin (kind n : Nat) : exec (.smbusImgBegin kind n) s = .next (s.imgBegin kind n) :=
  congrArg _ (State.unheld_of hheld _)

theorem exec_smbusImgData (off : Nat) (bs : List Byte) : exec (.smbusImgData off bs) s = .next (s.imgBytes off bs) :=
  congrArg _ (State.unheld_of hheld _)

theorem exec_smbusImgEnd (crc : Nat) : exec (.smbusImgEnd crc) s = .next (s.imgEnd crc) :=
  congrArg _ (State.unheld_of hheld _)

/-- The commands of the registers, as steps. -/
theorem exec_smbusRegRead (off : Nat) : exec (.smbusRegRead off) s = .next (s.smbusRead off) :=
  congrArg _ (State.unheld_of hheld _)

theorem exec_smbusRegWrite (off : Nat) (v : Word) : exec (.smbusRegWrite off v) s = .next (s.smbusWrite off v) :=
  congrArg _ (State.unheld_of hheld _)

/-- What an image with its crc ends in. -/
theorem exec_smbusImgEnd_right {crc : Nat} (h1 : s.pkg.imgStatus = 1) (hwants : s.wantsImage s.pkg.imgKind = true)
    (hcrc : crc32c s.pkg.image = crc) :
    ∃ t, exec (.smbusImgEnd crc) s = .next t ∧ t.pkg.imgData = [] ∧ t.hwd.rollback = s.hwd.rollback ∧ t.mem = s.mem ∧
      (s.pkg.imgKind = 1 → provCode s.vendorKeys.1 s.vendorKeys.2 s.pkg.image ≠ 0 → t.pkg.imgStatus = 4 ∧
        t.hwd.stage = 1 ∧ t.hwd.failCode = provCode s.vendorKeys.1 s.vendorKeys.2 s.pkg.image) ∧
      (s.pkg.imgKind = 1 → provCode s.vendorKeys.1 s.vendorKeys.2 s.pkg.image = 0 →
        (∀ m, s.storedSeq = some m → m < leAt s.pkg.image 8 4) → t.pkg.imgStatus = 3 ∧
        t.hwd.prov = some (s.pkg.image.take 0x84C)) ∧
      (s.pkg.imgKind = 0 → stageCode s.hwd.rollback s.pkg.image 1 ≠ 0 → t.pkg.imgStatus = 4 ∧ t.hwd.stage = 0) ∧
      (s.pkg.imgKind = 0 → stageCode s.hwd.rollback s.pkg.image 1 = 0 → t.hwd.stage ≠ 0 → t.hwd.recovery = true ∧
        t.pkg.imgStatus = 3) := by
  have hexec := (exec_smbusImgEnd hheld crc).trans (congrArg _ (State.imgEnd_right h1 hwants hcrc))
  obtain ⟨hmem, hroll⟩ := s.imgJudged_keeps
  refine ⟨_, hexec, rfl, hroll, hmem, fun hkind hbad => ?_, fun hkind hgood hnew => ?_, fun hkind hbad => ?_,
    fun hkind hgood => ?_⟩
  · have hstage : s.hwd.stage = 1 := State.stage_of_wantsRecord (by rw [hkind] at hwants; exact hwants)
    have hjudged : s.imgJudged = _ := (if_neg (by omega)).trans (State.applyRecord_fails s hbad)
    obtain ⟨hhwd, -, -⟩ := s.bootFault_leaves (provCode_le s.vendorKeys.1 s.vendorKeys.2 s.pkg.image) 1 s.hwd.copyB
    rw [hjudged]
    dsimp only
    rw [if_neg hbad]
    exact ⟨rfl, (congrArg HeartwoodState.stage hhwd).trans hstage, congrArg HeartwoodState.failCode hhwd⟩
  · have hjudged : s.imgJudged = _ := (if_neg (by omega)).trans (State.applyRecord_stores s hgood hnew)
    have hkeeps := (s.modHwd fun h => { h with prov := some (s.pkg.image.take 0x84C), provPending := none }).bootResume_keeps
    rw [hjudged]
    exact ⟨rfl, hkeeps.prov⟩
  · have hjudged : s.imgJudged = _ := if_pos hkind
    obtain ⟨-, hstage, hcode⟩ := s.applySet_fails s.pkg.image hbad
    rw [hjudged, if_neg hcode]
    exact ⟨rfl, hstage⟩
  · have hjudged : s.imgJudged = _ := if_pos hkind
    obtain ⟨-, hruns⟩ := s.applySet_checks s.pkg.image hgood
    rw [hjudged]
    intro hstage
    obtain ⟨hrec, hcode⟩ := hruns hstage
    rw [if_pos hcode]
    exact ⟨hrec, rfl⟩

end

/-- Settles O59: the registers by their offset, the images by what heartwood waits for and by their checks, and ALERT_N. -/
theorem managementTarget : Obligations.ManagementTarget := by
  refine ⟨fun s off v => ⟨fun hheld => ⟨fun r ix halways halign hat => ?_, fun hnever => ?_, fun h1 h2 h3 => ?_, fun hoff => ?_,
    fun hgo hop => ?_, ?_⟩, fun hheld => ?_⟩, fun s kind n off crc bs hheld => ⟨fun hwants hfits => ?_,
    fun hwants hfits hroom => ?_, fun hwants => ?_, fun h1 hwants => ?_, fun hout => ?_, fun h1 hwants hcrc hroom => ?_,
    fun h1 hwants hcrc => exec_smbusImgEnd_right hheld h1 hwants hcrc⟩, fun s hheld => ⟨fun hlow => ?_, fun hhigh => ?_⟩⟩
  · exact (exec_smbusRegRead hheld off).trans (congrArg _ (State.smbusRead_register hheld halways halign hat))
  · exact (exec_smbusRegRead hheld off).trans (congrArg _ (if_neg (Bool.eq_false_iff.mp hnever)))
  · exact (exec_smbusRegWrite hheld off v).trans (congrArg _ (if_neg (by simp [h1, h2, h3])))
  · exact (exec_smbusRegWrite hheld off v).trans (congrArg _ (if_pos (by simpa [or_assoc] using hoff)))
  · exact (exec_smbusRegWrite hheld 0x18 v).trans (congrArg _ ((if_pos (by simp)).trans
      (State.writeRecover_recover hheld hgo hop)))
  · exact congrArg Host.Outcome.next (State.unheld_of hheld _)
  · have hsame : ∀ f : State → State, s.unheld f = s := fun f => if_pos (beq_iff_eq.mpr hheld)
    exact ⟨congrArg _ (hsame _), congrArg _ (hsame _), congrArg _ (hsame _)⟩
  · exact ⟨_, (exec_smbusImgBegin hheld kind n).trans (congrArg _ ((if_neg (by simp [hwants])).trans
      (if_neg (by simp [hfits])))), rfl, rfl⟩
  · obtain ⟨hstatus, -, hstage, hrec⟩ := s.imgRefuse_leaves kind
    obtain ⟨r, hlast, hsrc, hcode⟩ := hrec hroom
    exact ⟨_, r, (exec_smbusImgBegin hheld kind n).trans (congrArg _ ((if_neg (by simp [hwants])).trans
      (if_pos (by simp [hfits])))), hstatus, hlast, hsrc, hcode, hstage⟩
  · exact (exec_smbusImgBegin hheld kind n).trans (congrArg _ (if_pos (by simp [hwants])))
  · obtain ⟨hbytes, hrest⟩ := State.imgBytes_data (off := off) (bs := bs) h1 hwants
    have htakes := State.imgBytes_takes (off := off) (bs := bs) h1 hwants
    refine ⟨_, exec_smbusImgData hheld off bs, hbytes, hrest, ?_, ?_⟩
    · rw [htakes]
      exact h1
    · rw [htakes]
      rfl
  · have hidle : (decide (s.pkg.imgStatus ≠ 1) || !s.wantsImage s.pkg.imgKind) = true := by simpa using hout
    exact ⟨(exec_smbusImgData hheld off bs).trans (congrArg _ (if_pos hidle)),
      (exec_smbusImgEnd hheld crc).trans (congrArg _ (if_pos hidle))⟩
  · obtain ⟨hstatus, hdata, hstage, hrec⟩ := s.imgRefuse_leaves s.pkg.imgKind
    obtain ⟨r, hlast, hsrc, hcode⟩ := hrec hroom
    exact ⟨_, r, (exec_smbusImgEnd hheld crc).trans (congrArg _ (State.imgEnd_wrong h1 hwants hcrc)), hstatus, hdata, hstage,
      hlast, hsrc, hcode⟩
  · refine ⟨_, congrArg Host.Outcome.next ((State.unheld_of hheld _).trans (State.alertResponse_low hlow)), rfl, rfl, ?_⟩
    rw [← hlow]
  · exact congrArg Host.Outcome.next ((State.unheld_of hheld _).trans (if_pos (by simp [hhigh])))

end Sys2Proof.Machine
end

section
/-! PROOFS. What judging and freed hold-buffer entries leave (R128, R129, R133): a property that does not look at what
records and the schedulers change holds after them as before; no slot is taken. -/
namespace Sys2Proof.Machine

/-- The scheduler state `x` holds slots of `y` only. -/
def SchedState.SlotsIn (x y : SchedState) : Prop := x.slots.map (·.1) ⊆ y.slots.map (·.1)

/-- A property that does not look at what records change, nor at what schedulers change that take no slot. -/
structure SchedFree (P : State → Prop) : Prop extends RecordFree P where
  anyReg : ∀ {s : State} (a : Nat) (v : Word), P s → P { s with regs := tset s.regs a v }
  sch : ∀ {s : State} (x : SchedState), x.SlotsIn s.sch → P s → P { s with sch := x }

namespace SchedFree

variable {P : State → Prop} (hP : SchedFree P) {s : State}
include hP

theorem anyBump (r : Reg) (ix : List Nat) (n : Nat) (h : P s) : P (s.bump r ix n) := by
  unfold State.bump
  dsimp only
  split
  · exact hP.record _ _ _ _ _ _ (hP.anyReg _ _ h)
  · exact hP.anyReg _ _ h

theorem modKnot (k : Nat) (f : Knot → Knot) (h : P s) : P (s.modKnot k f) := hP.sch _ (List.Subset.refl _) h

theorem withdraw (p : Nat → Bool) (h : P s) : P (s.withdraw p) := hP.sch _ (List.Subset.refl _) h

theorem modSlot (key : Nat) (f : Slot → Slot) (h : P s) : P (s.modSlot key f) :=
  hP.sch _ (by rw [SchedState.SlotsIn, keys_tmap]; exact List.Subset.refl _) h

theorem knotType (k tile : Nat) (h : P s) : P (s.knotType k tile) := hP.record _ _ _ _ _ _ h

theorem knotOverflow (k tile : Nat) (h : P s) : P (s.knotOverflow k tile) :=
  hP.record _ _ _ _ _ _ (hP.anyBump _ _ _ h)

theorem endTask (key : Nat) (h : P s) : P (s.endTask key) := by
  unfold State.endTask
  split
  · exact h
  · exact hP.anyReg _ _ (hP.withdraw _ (hP.modSlot _ _ h))

theorem tilRecord (tile slot code g detail : Nat) (h : P s) : P (s.tilRecord tile slot code g detail) := by
  have hrecord := fun v => hP.record .til .contained (dieOfTile tile) code (some g) (slot + detail % 2 ^ 32 * 2 ^ 10)
    (hP.anyReg (regAddr .TIL_FAULT_LAST [tile]) v h)
  unfold State.tilRecord
  dsimp only
  split
  · exact hP.heatOn _ _ (hrecord _)
  · exact hrecord _

theorem readLocal (p : Party) (o n : Nat) (h : P s) : P (s.readLocal p o n).1 := by
  unfold State.readLocal
  split
  · exact h
  · exact hP.ueRecord _ _ _ (hP.noteUe _ _ h)
  · dsimp only
    unfold State.unmappedRecord
    exact hP.record _ _ _ _ _ _ h
  · exact h

theorem readVa (g va n : Nat) (h : P s) : P (s.readVa g va n).1 := by
  unfold State.readVa
  split
  · exact h
  · refine State.foldl_keeps (fun q x hq => ?_) _ h
    dsimp only
    split
    · exact hP.readLocal _ _ _ hq
    · exact hq

theorem readDesc (t : Task) (h : P s) : P (s.readDesc t).1 := by
  unfold State.readDesc
  dsimp only
  repeat' split
  all_goals exact hP.readVa _ _ _ h

/-! ## Judging (R128, R129) -/

theorem judgeTypes (key : Nat) (x : Slot) (h : P s) : P (s.judgeTypes key x) := by
  unfold State.judgeTypes
  split
  · split
    · exact hP.endTask _ (hP.knotType _ _ h)
    · exact h
  · exact h

theorem request (key : Nat) (x : Slot) (h : P s) : P (s.request key x) := by
  unfold State.request
  dsimp only
  repeat' split
  case h_1.isFalse => exact hP.modKnot _ _ h
  all_goals exact h

theorem grant (k fuel : Nat) (h : P s) : P (s.grant k fuel) := by
  induction fuel generalizing s with
  | zero => exact h
  | succ fuel ih =>
    unfold State.grant
    dsimp only
    repeat' split
    case h_1.isTrue => exact ih (hP.modSlot _ _ (hP.modKnot _ _ h))
    all_goals exact h

theorem makeReady (key : Nat) (x : Slot) (h : P s) : P (s.makeReady key x) := by
  have hwithdrawn := hP.withdraw (· == key) h
  have hread := hP.readDesc x.task hwithdrawn
  unfold State.makeReady
  dsimp only
  split
  · exact hP.modSlot _ _ hwithdrawn
  · split <;> rename_i heq <;> rw [heq] at hread
    · exact hP.modSlot _ _ hread
    · exact hP.endTask _ (hP.tilRecord _ _ _ _ _ hread)
    · exact hP.endTask _ (hP.record _ _ _ _ _ _ hread)
    · exact hP.endTask _ hread

theorem judge (h : P s) : P s.judge := by
  unfold State.judge
  extract_lets typed asked granted again _ counted
  have htyped : P typed := State.each_keeps (fun _ p => hP.judgeTypes p.1 p.2) _ h
  have hasked : P asked := State.each_keeps (fun _ p => hP.request p.1 p.2) _ htyped
  have hgranted : P granted := State.each_keeps (fun _ p => hP.grant p.1 _) _ hasked
  have hagain : P again := State.each_keeps (fun _ p => hP.request p.1 p.2) _ hgranted
  refine State.each_keeps (fun b p hb => ?_) _ (hP.sch _ (List.Subset.refl _) hagain)
  split
  · exact hP.makeReady _ _ hb
  · exact hb

/-! ## Freed hold-buffer entries (R132, R133) and discarded tasks (R144) -/

theorem applySignals (key : Nat) (t : Task) (h : P s) : P (s.applySignals key t).1 := by
  unfold State.applySignals
  split
  · exact hP.endTask _ (hP.knotType _ _ h)
  · exact hP.endTask _ (hP.knotOverflow _ _ (hP.modKnot _ _ h))
  · refine hP.sch _ (List.map_subset _ (List.filter_subset_self _)) ?_
    refine List.foldlRecOn t.signals _ h fun b hb w _ => ?_
    split
    · exact hP.modKnot _ _ hb
    · exact hb

theorem releaseHeld (fk fuel : Nat) (h : P s) : P (s.releaseHeld fk fuel) := by
  induction fuel generalizing s with
  | zero => exact h
  | succ fuel ih =>
    unfold State.releaseHeld
    split
    · exact h
    · have happlied := fun key t => hP.applySignals key t h
      dsimp only
      split
      · exact ih (hP.sch _ (List.Subset.refl _) (happlied _ _))
      · exact happlied _ _

theorem release (key : Nat) (t : Task) (h : P s) : P (s.release key t) := by
  unfold State.release
  dsimp only
  repeat' split
  · exact hP.applySignals _ _ h
  · exact hP.releaseHeld _ _ (hP.modSlot _ _ h)
  · exact hP.modSlot _ _ h
  · exact hP.modSlot _ _ h

theorem unstall (h : P s) : P s.unstall := State.each_keeps (fun _ p => hP.release p.1 p.2.task) _ h

theorem discardCounts (l : List Nat) (n : Nat → Nat) (h : P s) :
    P (s.each l fun s d => if n d = 0 then s else s.bump .SCH_DISCARDED [d] (n d)) := by
  refine State.each_keeps (fun b d hb => ?_) _ h
  split
  · exact hb
  · exact hP.anyBump _ _ _ hb

theorem discardTasks (p : Nat → Slot → Bool) (count : Bool) (h : P s) : P (s.discardTasks p count) := by
  have hgone : ∀ q : Nat → Bool, P { s.withdraw q with
      sch := { (s.withdraw q).sch with slots := (s.withdraw q).sch.slots.filter fun x => !p x.1 x.2 } } :=
    fun q => hP.sch _ (List.map_subset _ (List.filter_subset_self _)) (hP.withdraw q h)
  unfold State.discardTasks
  dsimp only
  split
  · exact hP.discardCounts _ _ (hgone _)
  · exact hgone _

end SchedFree

/-! ## What is so left -/

theorem schedFree_til (x : TileState) : SchedFree fun t => t.til = x where
  regs _ _ _ h := h
  irqs _ h := h
  wch _ _ _ h := h
  sup _ _ h := h
  anyReg _ _ h := h
  sch _ _ h := h

theorem schedFree_tiles (x : Tbl TileWatch) : SchedFree fun t => t.wch.tiles = x where
  regs _ _ _ h := h
  irqs _ h := h
  wch _ htiles _ h := htiles.trans h
  sup _ _ h := h
  anyReg _ _ h := h
  sch _ _ h := h

/-- No slot of a tile is held. -/
def State.TileEmpty (s : State) (tile : Nat) : Prop := ∀ k ∈ s.sch.slots.map (·.1), k / 1024 ≠ tile

theorem schedFree_tileEmpty (tile : Nat) : SchedFree fun t => t.TileEmpty tile where
  regs _ _ _ h := h
  irqs _ h := h
  wch _ _ _ h := h
  sup _ _ h := h
  anyReg _ _ h := h
  sch _ hin h := fun k hk => h k (hin hk)

theorem State.TileEmpty.used {s : State} {tile : Nat} (h : s.TileEmpty tile) : s.used tile = 0 :=
  List.length_eq_zero_iff.mpr (List.filter_eq_nil_iff.mpr fun p hp => by simpa using h p.1 (List.mem_map_of_mem hp))

theorem State.discardTile_empty (s : State) (tile : Nat) : (s.discardTile tile).TileEmpty tile := by
  unfold State.discardTile State.discardTasks
  refine (schedFree_tileEmpty tile).discardCounts _ _ fun k hk => ?_
  obtain ⟨p, hp, rfl⟩ := List.mem_map.mp hk
  simpa using (List.mem_filter.mp hp).2

end Sys2Proof.Machine
end

section
/-! PROOFS. Tile exclusion, readmission and field tests (R535, R542, R543, R545, R703; O27). -/
namespace Sys2Proof.Machine

/-! ## The watch state of tiles -/

theorem State.watchTile_modTile_same (s : State) (tile : Nat) (f : TileWatch → TileWatch) :
    (s.modTile tile f).watchTile tile = f (s.watchTile tile) := tgetD_tmod_same ..

theorem State.watchTile_modTile_other (s : State) {tile k : Nat} (f : TileWatch → TileWatch) (h : k ≠ tile) :
    (s.modTile tile f).watchTile k = s.watchTile k := tgetD_tmod_other _ _ _ _ h

theorem State.watchTile_congr {s t : State} (h : t.wch.tiles = s.wch.tiles) (tile : Nat) :
    t.watchTile tile = s.watchTile tile := by rw [State.watchTile, h, State.watchTile]

theorem State.used_modTile (s : State) (tile : Nat) (f : TileWatch → TileWatch) (k : Nat) :
    (s.modTile tile f).used k = s.used k := rfl

theorem State.til_modTile (s : State) (tile : Nat) (f : TileWatch → TileWatch) : (s.modTile tile f).til = s.til := rfl

/-! ## Exclusion and readmission (R535, R536, R545) -/

/-- What a tile's watch state is once it is excluded. -/
def TileWatch.shut (w : TileWatch) : TileWatch :=
  { w with excluded := true, tested := false, cleared := false, lastPass := false, histStep := 0, histAttempt := 0 }

/-- What an exclusion leaves: everything that does not look at records and the schedulers. -/
theorem SchedFree.excludeTile {P : State → Prop} (hP : SchedFree P) {s : State} (tile : Nat)
    (h : P ((s.modTile tile TileWatch.shut).discardTile tile)) : P (s.excludeTile tile) :=
  hP.judge (hP.unstall (hP.heatOn _ _ (hP.anyBump _ _ _ (hP.record _ _ _ _ _ _ h))))

theorem State.excludeTile_til (s : State) (tile : Nat) : (s.excludeTile tile).til = s.til :=
  (schedFree_til _).excludeTile tile ((schedFree_til _).discardTasks _ _ rfl)

theorem State.excludeTile_tiles (s : State) (tile : Nat) :
    (s.excludeTile tile).wch.tiles = (s.modTile tile TileWatch.shut).wch.tiles :=
  (schedFree_tiles _).excludeTile tile ((schedFree_tiles _).discardTasks _ _ rfl)

theorem State.excludeTile_used (s : State) (tile : Nat) : (s.excludeTile tile).used tile = 0 :=
  ((schedFree_tileEmpty tile).excludeTile tile (State.discardTile_empty _ tile)).used

/-- What a readmission leaves of a tile. -/
def TileWatch.readmitted (w : TileWatch) : TileWatch := { w with st := .normal, excluded := false }

section
variable {s : State} {v : Word}

theorem exec_tileExclude (hheld : s.sup.recovery ≠ .resetHeld) :
    exec (.tileExclude v) s = .next (s.tileCtl (setFld v 62 2 1)) := congrArg _ (State.unheld_of hheld _)

theorem exec_tileReadmit (hheld : s.sup.recovery ≠ .resetHeld) :
    exec (.tileReadmit v) s = .next (s.tileCtl (setFld v 62 2 2)) := congrArg _ (State.unheld_of hheld _)

/-- The two operation bits of WCH_TILE_CTL, and the tile that stays named. -/
theorem tileCtl_bits (v : Word) (op : Nat) : (setFld v 62 2 op).getLsbD 62 = decide (op % 2 = 1) ∧
    (setFld v 62 2 op).getLsbD 63 = decide (op / 2 % 2 = 1) ∧ wfld (setFld v 62 2 op) 0 7 = wfld v 0 7 := by
  have hboth : wfld (setFld v 62 2 op) 62 2 = op % 2 ^ 2 := wfld_setFld_same (by decide)
  have hlow : wfld (setFld v 62 2 op) 62 1 = op % 2 := by unfold wfld fld at hboth ⊢; omega
  have hhigh : wfld (setFld v 62 2 op) 63 1 = op / 2 % 2 := by unfold wfld fld at hboth ⊢; omega
  exact ⟨by rw [getLsbD_eq_wfld, hlow], by rw [getLsbD_eq_wfld, hhigh], wfld_setFld_below (by decide) (by decide)⟩

theorem State.tileCtl_exclude (hst : (s.watchTile (wfld v 0 7)).st = .normal ∨ (s.watchTile (wfld v 0 7)).st = .suspect) :
    s.tileCtl (setFld v 62 2 1) = if s.tileIdle (wfld v 0 7) = true
      then (s.excludeTile (wfld v 0 7)).modTile (wfld v 0 7) fun w => { w with st := .excluded }
      else s.record .wch .contained (dieOfTile (wfld v 0 7)) 0x0A (s.tileOwner (wfld v 0 7)) 0 := by
  obtain ⟨hlow, hhigh, htile⟩ := tileCtl_bits v 1
  have hother : ((s.watchTile (wfld v 0 7)).st == .excluded || (s.watchTile (wfld v 0 7)).st == .testing) = false := by
    rcases hst with hst | hst <;> rw [hst] <;> rfl
  unfold State.tileCtl
  dsimp only
  rw [hlow, hhigh, htile, hother, if_neg (by decide), if_pos (by decide), if_neg (by decide)]
  cases hidle : s.tileIdle (wfld v 0 7)
  · rw [if_pos (by decide), if_neg (by decide)]
  · rw [if_neg (by decide), if_pos (by decide)]

theorem State.tileCtl_readmit :
    s.tileCtl (setFld v 62 2 2) =
      if ((s.watchTile (wfld v 0 7)).st == .excluded && (s.watchTile (wfld v 0 7)).cleared &&
        !s.tileTested (wfld v 0 7) && s.tileIdle (wfld v 0 7)) = true
      then s.modTile (wfld v 0 7) TileWatch.readmitted
      else s.record .wch .contained (dieOfTile (wfld v 0 7)) 0x07 (s.tileOwner (wfld v 0 7)) 0 := by
  obtain ⟨hlow, hhigh, htile⟩ := tileCtl_bits v 2
  unfold State.tileCtl TileWatch.readmitted
  dsimp only
  rw [hlow, hhigh, htile, if_neg (by decide), if_neg (by decide)]

end

/-- A record of the watch block leaves its tiles and tests. -/
theorem State.record_tiles (s : State) (src : Src) (sev : Sev) (die code : Nat) (grove : Option Nat) (detail : Nat) :
    (s.record src sev die code grove detail).wch.tiles = s.wch.tiles :=
  (schedFree_tiles _).record _ _ _ _ _ _ rfl

/-! ## Field tests (R542, R543, R703) -/

/-- The running tests are as they were after records, writes to memory and completions. -/
theorem writeFree_tests (x : List FieldTest) : WriteFree fun t => t.wch.tests = x where
  regs _ _ _ h := h
  irqs _ h := h
  wch _ _ htests h := htests.trans h
  sup _ _ h := h
  mem _ h := h
  kln _ _ h := h
  queues _ h := h

section
variable {s : State} {q i : Nat} {c : Cmd} (hrun : s.islandsRun = true)
include hrun

theorem exec_ftRun : exec (.ftRun q i) s = .next (s.ftRun q i) := congrArg _ (State.onDie_of_islandsRun hrun _)

theorem exec_ftAbort : exec (.ftAbort q i) s = .next (s.ftAbort q i) := congrArg _ (State.onDie_of_islandsRun hrun _)

theorem exec_ftDone {die kind object : Nat} {r : FtResult} :
    exec (.ftDone die kind object r) s = .next (s.ftDone die kind object r) :=
  congrArg _ (State.onDie_of_islandsRun hrun _)

end

section
variable {s : State} {q i : Nat} {c : Cmd}

/-- FT_RUN starts its test or is refused. -/
theorem State.ftRun_eq (hrow : s.ofRow q i 7 1 = some c) (hrest : c.restZero [(8, 1), (0x0A, 2), (0x10, 4)] = true) :
    s.ftRun q i = if 1 ≤ c.arg 8 1 ∧ c.arg 8 1 ≤ 10 ∧ (s.start q i).testAllowed q (c.arg 8 1) (c.arg 0x0A 2) = true
      then (s.start q i).modTests (· ++ [⟨dieOfQueue q, c.arg 8 1, c.arg 0x0A 2, some (q, i)⟩])
      else (s.start q i).refuseFt q i := by
  unfold State.ftRun
  rw [hrow]
  dsimp only
  cases hallowed : (s.start q i).testAllowed q (c.arg 8 1) (c.arg 0x0A 2)
  · simp [hrest]
  · by_cases hlo : c.arg 8 1 = 0
    · simp [hlo]
    · by_cases hhi : c.arg 8 1 > 10
      · simp [hhi, Nat.not_le.mpr hhi]
      · rw [if_neg (by simp [hrest, hlo, hhi]), if_pos ⟨Nat.pos_of_ne_zero hlo, Nat.not_lt.mp hhi, rfl⟩]

/-- What stands before a refused command of target 7 completes: its record. -/
theorem State.refuseFt_recorded (hroom : s.logRoom = true) :
    ∃ (u : State) (r : LogRec), s.refuseFt q i = u.complete q i .badCommand 0 ∧ u.wch.tests = s.wch.tests ∧
      u.mem = s.mem ∧ u.lastRecord = some r ∧ r.src = .wch ∧ r.sev = .contained ∧ r.code = 0x05 :=
  ⟨_, _, rfl, (writeFree_tests _).record _ _ _ _ _ _ rfl, State.record_mem ..,
    State.lastRecord_record _ _ _ _ _ _ _ rfl hroom, rfl, rfl, rfl⟩

/-- Where a test of these kinds ends, its object is cleared (R697). -/
def State.testCleared (s : State) (f : FieldTest) : State :=
  if f.kind = 4 || f.kind = 6 then s.spxClear f.object else if f.kind = 9 then s.zeroChannel f.object else s

theorem State.testCleared_wch (s : State) (f : FieldTest) : (s.testCleared f).wch = s.wch := by
  unfold State.testCleared
  repeat' split
  all_goals rfl

theorem State.testCleared_hrt (s : State) (f : FieldTest) : (s.testCleared f).hrt = s.hrt := by
  unfold State.testCleared
  repeat' split
  all_goals rfl

/-- An aborted test that a command owns completes that command. -/
theorem State.abortTest_owned {f : FieldTest} {j : Nat} (howner : f.owner = some (q, j)) :
    s.abortTest f = ((s.modTests fun l => l.filter (· != f)).complete q j .aborted 0).testCleared f := by
  unfold State.abortTest
  rw [howner]
  rfl

/-- The test is one of a queue's FT_RUN with a tag. -/
def State.testTagged (s : State) (q tag : Nat) (f : FieldTest) : Bool :=
  match f.owner with
  | some (p, j) => p == q && ((s.cmd q j).map (·.tag)) == some tag
  | none => false

theorem State.ftAbort_eq (hrow : s.ofRow q i 7 2 = some c) (hrest : c.restZero [(8, 2)] = true) :
    s.ftAbort q i = match s.wch.tests.find? ((s.start q i).testTagged q (c.arg 8 2)) with
      | some f => ((s.start q i).abortTest f).complete q i .ok 0
      | none => (s.start q i).refuseFt q i := by
  unfold State.ftAbort
  rw [hrow]
  dsimp only
  rw [hrest]
  rfl

theorem State.testTagged_of {f : FieldTest} {j : Nat} {x : Cmd} (tag : Nat) (howner : f.owner = some (q, j))
    (hcmd : s.cmd q j = some x) : s.testTagged q tag f = decide (x.tag = tag) := by
  unfold State.testTagged
  rw [howner]
  dsimp only
  rw [hcmd]
  by_cases htag : x.tag = tag <;> simp [htag]

/-- Aborting the one running test ends it and its command. -/
theorem State.abortTest_only {f : FieldTest} {j : Nat} {x : Cmd} (htests : s.wch.tests = [f])
    (howner : f.owner = some (q, j)) (hcmd : s.cmd q j = some x) :
    (s.abortTest f).wch.tests = [] ∧ (s.abortTest f).cmd q j = none := by
  have hnone : (s.modTests fun l => l.filter (· != f)).wch.tests = [] := by
    show s.wch.tests.filter (· != f) = []
    simp [htests]
  rw [State.abortTest_owned howner, State.testCleared_wch]
  refine ⟨(writeFree_tests []).complete q j .aborted 0 hnone, ?_⟩
  rw [State.cmd, State.queue, State.testCleared_hrt]
  exact (State.complete_done (s := s.modTests fun l => l.filter (· != f)) hcmd .aborted 0).1

/-! ### The end of a test -/

/-- What the end of a test leaves of its tile. -/
def TileWatch.ended (f : FieldTest) (pass : Bool) (w : TileWatch) : TileWatch :=
  { w with
    lastPass := pass, tested := w.tested || pass, cleared := w.cleared || (pass && (f.kind == 1 || f.kind == 6)),
    st := if w.st == .testing && f.owner.isNone then .excluded else w.st }

/-- A test's end in the test block, counted, its object cleared and its tile judged. -/
def State.testEnded (s : State) (f : FieldTest) (r : FtResult) : State :=
  let s := ((s.modTests fun l => l.filter (· != f)).bump .WCH_FT_RUN []).testCleared f
  if f.kind ≤ 6 then s.modTile f.object (TileWatch.ended f (r == .pass)) else s

/-- A failed test is counted and recorded (R540, R543). -/
def State.testReported (s : State) (f : FieldTest) (r : FtResult) : State :=
  if r == .pass then s
  else ((s.bump .WCH_FT_FAIL []).record .wch .deferred f.die 0x04 (s.testGroves f.kind f.object).head?
    (f.kind + f.object % 2 ^ 16 * 2 ^ 8)).heatOn 4096 (s.testGroves f.kind f.object)

/-- The result of an FT_RUN (R703). -/
def resultWord : FtResult → Nat
  | .pass => 1
  | .fail sub item => sub % 256 * 2 ^ 8 + item % 2 ^ 32 * 2 ^ 32

theorem State.ftDone_only {die kind object : Nat} {r : FtResult} (htests : s.wch.tests = [⟨die, kind, object, some (q, i)⟩]) :
    s.ftDone die kind object r =
      ((s.testEnded ⟨die, kind, object, some (q, i)⟩ r).testReported ⟨die, kind, object, some (q, i)⟩ r).complete q i .ok
        (resultWord r) := by
  have hfind : s.wch.tests.find? (fun f => f.die == die && f.kind == kind && f.object == object) =
      some ⟨die, kind, object, some (q, i)⟩ := by
    rw [htests]
    exact List.find?_cons_of_pos (by simp)
  unfold State.ftDone
  rw [hfind]
  cases r <;> rfl

theorem RecordFree.testReported {P : State → Prop} (hP : RecordFree P) {f : FieldTest} {r : FtResult} (h : P s) :
    P (s.testReported f r) := by
  unfold State.testReported
  split
  · exact h
  · exact hP.heatOn _ _ (hP.record _ _ _ _ _ _ (hP.bump _ _ rfl h))

theorem State.testEnded_tests {f : FieldTest} {r : FtResult} (htests : s.wch.tests = [f]) :
    (s.testEnded f r).wch.tests = [] := by
  have hnone : (s.modTests fun l => l.filter (· != f)).wch.tests = [] := by
    show s.wch.tests.filter (· != f) = []
    simp [htests]
  have hcleared : (((s.modTests fun l => l.filter (· != f)).bump .WCH_FT_RUN []).testCleared f).wch.tests = [] := by
    rw [State.testCleared_wch]
    exact (writeFree_tests []).bump _ _ rfl hnone
  unfold State.testEnded
  dsimp only
  split
  · exact hcleared
  · exact hcleared

theorem State.testEnded_tile {f : FieldTest} {r : FtResult} (hkind : f.kind ≤ 6) :
    ∃ w : TileWatch, (s.testEnded f r).watchTile f.object = w.ended f (r == .pass) := by
  unfold State.testEnded
  dsimp only
  rw [if_pos hkind]
  exact ⟨_, State.watchTile_modTile_same ..⟩

/-- A cleared scratchpad reads zero (R289). -/
theorem State.spxRead_spxClear (s : State) (tile : Nat) {o : Nat} (ho : o < 2 ^ 25) :
    (s.spxClear tile).spxRead tile o 1 = [0] := by
  have hnone : cellGet (cellDrop s.til.scratch (tile * 2 ^ 25) ((tile + 1) * 2 ^ 25)) (tile * 2 ^ 25 + o + 0) = none := by
    refine cellGet_eq_none fun x hx hplace => ?_
    have hout := (List.mem_filter.mp hx).2
    simp only [Bool.or_eq_true, decide_eq_true_eq] at hout
    omega
  show [(cellGet (cellDrop s.til.scratch (tile * 2 ^ 25) ((tile + 1) * 2 ^ 25)) (tile * 2 ^ 25 + o + 0)).getD 0] = [0]
  rw [hnone]
  rfl

theorem State.testEnded_scratch {f : FieldTest} {r : FtResult} (hkind : f.kind = 4 ∨ f.kind = 6) :
    ∃ u : State, (s.testEnded f r).til = (u.spxClear f.object).til := by
  refine ⟨(s.modTests fun l => l.filter (· != f)).bump .WCH_FT_RUN [], ?_⟩
  unfold State.testEnded State.testCleared
  dsimp only
  rw [if_pos (show f.kind ≤ 6 by omega), if_pos (by simpa using hkind)]
  rfl

end

/-- Settles O27: an exclusion empties the tile through judging that takes no slot; a test's end and its abort go through
one clearing of its object. -/
theorem exclusionAndFieldTests : Obligations.ExclusionAndFieldTests := by
  unfold Obligations.ExclusionAndFieldTests
  refine ⟨fun s v tile hheld htile _ => ?_, fun s q i kind object die c f hrun => ⟨?_, ?_, ?_⟩⟩
  · subst htile
    refine ⟨fun hst => ⟨fun hidle => ?excluded, fun hidle hroom => ?refused⟩, fun hst hcleared htested hidle => ?readmitted,
      fun hbad hroom => ?kept⟩
    case excluded =>
      refine ⟨_, (exec_tileExclude hheld).trans (congrArg Host.Outcome.next ((State.tileCtl_exclude hst).trans (if_pos hidle))), ?_, ?_,
        (State.used_modTile ..).trans (State.excludeTile_used s _), fun k hk => ?_,
        (State.til_modTile ..).trans (State.excludeTile_til s _)⟩
      · rw [State.watchTile_modTile_same]
      · rw [State.watchTile_modTile_same, State.watchTile_congr (State.excludeTile_tiles s _),
          State.watchTile_modTile_same, TileWatch.shut]
      · rw [State.watchTile_modTile_other _ _ hk, State.watchTile_congr (State.excludeTile_tiles s _),
          State.watchTile_modTile_other _ _ hk]
    case refused =>
      exact ⟨_, _, (exec_tileExclude hheld).trans (congrArg Host.Outcome.next ((State.tileCtl_exclude hst).trans
        (if_neg (by simp [hidle])))), State.record_tiles .., State.record_sch ..,
        State.lastRecord_record _ _ _ _ _ _ _ rfl hroom, rfl, rfl, rfl⟩
    case readmitted =>
      refine ⟨_, (exec_tileReadmit hheld).trans (congrArg Host.Outcome.next (State.tileCtl_readmit.trans
        (if_pos (by simp [hst, hcleared, htested, hidle])))), ?_, ?_, fun k hk => State.watchTile_modTile_other _ _ hk, rfl⟩
      · rw [State.watchTile_modTile_same, TileWatch.readmitted]
      · rw [State.watchTile_modTile_same, TileWatch.readmitted]
    case kept =>
      refine ⟨_, _, (exec_tileReadmit hheld).trans (congrArg Host.Outcome.next (State.tileCtl_readmit.trans (if_neg ?_))),
        State.record_tiles .., State.lastRecord_record _ _ _ _ _ _ _ rfl hroom, rfl, rfl, rfl⟩
      simp only [Bool.and_eq_true, Bool.not_eq_true', beq_iff_eq]
      rintro ⟨⟨⟨hst, hcleared⟩, htested⟩, hidle⟩
      rcases hbad with h | h | h | h
      · exact h hst
      · exact absurd (h.symm.trans hcleared) nofun
      · exact absurd (h.symm.trans htested) nofun
      · exact absurd (h.symm.trans hidle) nofun
  · intro hrow hrest hkind hobject
    subst hkind hobject
    refine ⟨fun hlo hhi hallowed => ?started, fun hbad hroom => ?refused⟩
    case started =>
      exact ⟨_, (exec_ftRun hrun).trans (congrArg Host.Outcome.next ((State.ftRun_eq hrow hrest).trans (if_pos ⟨hlo, hhi, hallowed⟩))),
        rfl, rfl, rfl, rfl, rfl⟩
    case refused =>
      have hnot : ¬(1 ≤ c.arg 8 1 ∧ c.arg 8 1 ≤ 10 ∧ (s.start q i).testAllowed q (c.arg 8 1) (c.arg 0x0A 2) = true) := by
        rintro ⟨hlo, hhi, hallowed⟩
        rcases hbad with h | h | h
        · omega
        · omega
        · exact absurd (h.symm.trans hallowed) nofun
      obtain ⟨u, r, hrefused, htests, hmem, hrecord⟩ := (s.start q i).refuseFt_recorded (q := q) (i := i) hroom
      exact ⟨u, r, (exec_ftRun hrun).trans (congrArg Host.Outcome.next (((State.ftRun_eq hrow hrest).trans (if_neg hnot)).trans hrefused)),
        htests, hmem, hrecord⟩
  · intro j x hrow hrest htests howner _ hcmd
    have hmine := State.testTagged_of (c.arg 8 2) howner hcmd
    have hftAbort := (exec_ftAbort hrun).trans (congrArg Host.Outcome.next (State.ftAbort_eq hrow hrest))
    rw [htests] at hftAbort
    refine ⟨fun htag => ?aborted, fun htag => ?refused⟩
    case aborted =>
      rw [List.find?_cons_of_pos (hmine.trans (decide_eq_true htag))] at hftAbort
      exact ⟨_, hftAbort, State.abortTest_only htests howner hcmd⟩
    case refused =>
      rw [List.find?_cons_of_neg (by simp [hmine, htag]), List.find?_nil] at hftAbort
      exact ⟨_, hftAbort, (writeFree_tests [f]).record _ _ _ _ _ _ htests⟩
  · intro r hf htests
    subst hf
    refine ⟨(s.testEnded ⟨die, kind, object, some (q, i)⟩ r).testReported ⟨die, kind, object, some (q, i)⟩ r,
      (exec_ftDone hrun).trans (congrArg Host.Outcome.next (State.ftDone_only htests)),
      (writeFree_tests []).testReported (State.testEnded_tests htests), fun hkind => ?_, fun hkind hpass hclears => ?_,
      fun hkind o ho => ?_⟩
    · obtain ⟨w, hw⟩ := s.testEnded_tile (f := ⟨die, kind, object, some (q, i)⟩) (r := r) hkind
      dsimp only at hw
      rw [State.watchTile_congr ((schedFree_tiles _).testReported rfl), hw]
      rfl
    · obtain ⟨w, hw⟩ := s.testEnded_tile (f := ⟨die, kind, object, some (q, i)⟩) (r := r) hkind
      dsimp only at hw
      rw [State.watchTile_congr ((schedFree_tiles _).testReported rfl), hw]
      simp [TileWatch.ended, hpass, hclears]
    · obtain ⟨u, hu⟩ := s.testEnded_scratch (f := ⟨die, kind, object, some (q, i)⟩) (r := r) hkind
      rw [State.spxRead_congr (((schedFree_til _).testReported rfl).trans hu)]
      exact u.spxRead_spxClear object ho

end Sys2Proof.Machine
end

section
/-! PROOFS. Schedule commands (R468, R469, R493; O36). -/
namespace Sys2Proof.Machine

section
variable {s : State} {q i : Nat} (hrun : s.islandsRun = true)
include hrun

theorem exec_schedLoad : exec (.schedLoad q i) s = .next (s.schedLoad q i) := congrArg _ (State.onDie_of_islandsRun hrun _)

theorem exec_schedDrop : exec (.schedDrop q i) s = .next (s.schedDrop q i) := congrArg _ (State.onDie_of_islandsRun hrun _)

end

/-! ## The slots of reductions -/

section
variable (s : State) (k : Nat) (f : Reduction → Reduction)

theorem State.reduction_modRed_same : (s.modRed k f).reduction k = f (s.reduction k) := tgetD_tmod_same ..

theorem State.reduction_modRed_other {j : Nat} (h : j ≠ k) : (s.modRed k f).reduction j = s.reduction j :=
  tgetD_tmod_other _ _ _ _ h

end

theorem State.reduction_congr {s t : State} (h : t.col = s.col) (k : Nat) : t.reduction k = s.reduction k := by
  rw [State.reduction, h, State.reduction]

/-- Reading a group list only notes. -/
theorem State.groupOk_noted (s : State) (g : Nat) (d : RedDesc) : Noted s (s.groupOk g d).1 := by
  have hread := State.readVa_noted g d.groupList (2 * d.groupCount) (Noted.refl s)
  unfold State.groupOk
  split <;> rename_i heq <;> rw [heq] at hread <;> exact hread

/-! ## Loading and dropping -/

section
variable {s s1 s2 : State} {q i : Nat} {c : Cmd} {b : List Byte} {d : RedDesc}

/-- A valid descriptor is staged while its die has a free slot, or holds the reduction. -/
theorem State.schedLoad_valid (hrow : s.ofRow q i 4 1 = some c) (hrest : c.restZero [(8, 8)] = true)
    (hva : c.arg 8 8 < 2 ^ 48) (halign : c.arg 8 8 % 64 = 0)
    (hread : (s.start q i).readVa c.grove (c.arg 8 8) 128 = (s1, .ok, b)) (hparse : parseRed b = (true, d))
    (hgroup : s1.groupOk c.grove d = (s2, .ok, true))
    (hown : d.own = true → s2.ownsId (1 - dieOfQueue q) c.grove d.reduction = false) :
    s.schedLoad q i =
      if 2048 ≤ s2.redsHeld (dieOfQueue q) ∧ (s2.reduction (redKey (dieOfQueue q) c.grove d.reduction)).holds = false
      then s2.refuseCol q i 0x03 c.grove d.reduction
      else (s2.modRed (redKey (dieOfQueue q) c.grove d.reduction) fun x => { x with staged := some (some d) }).complete q i
        .ok (d.segments % 2 ^ 24) := by
  have hfields : ¬((!c.restZero [(8, 8)] || decide (c.arg 8 8 ≥ 2 ^ 48) || decide (c.arg 8 8 % 64 ≠ 0)) = true) := by
    simp [hrest, halign]
    exact hva
  have hvalid : ¬((!true || d.own && s2.ownsId (1 - dieOfQueue q) c.grove d.reduction) = true) := by
    cases hd : d.own
    · simp
    · simp [hown hd]
  unfold State.schedLoad
  rw [hrow]
  dsimp only
  rw [if_neg hfields, hread]
  dsimp only
  rw [hparse]
  dsimp only
  rw [hgroup]
  dsimp only
  rw [if_neg hvalid]
  simp only [Bool.and_eq_true, decide_eq_true_eq, Bool.not_eq_true', ge_iff_le]

/-- SCHED_DROP stages the end of a descriptor that is held or in force. -/
theorem State.schedDrop_valid (hrow : s.ofRow q i 4 2 = some c) (hrest : c.restZero [(8, 2)] = true)
    (hred : c.arg 8 2 < 4096) :
    s.schedDrop q i =
      (if ((s.reduction (redKey (dieOfQueue q) c.grove (c.arg 8 2))).desc.isSome ||
          (s.reduction (redKey (dieOfQueue q) c.grove (c.arg 8 2))).holds) = true
        then (s.start q i).modRed (redKey (dieOfQueue q) c.grove (c.arg 8 2)) fun x => { x with staged := some none }
        else s.start q i).complete q i .ok 0 := by
  unfold State.schedDrop
  rw [hrow]
  dsimp only
  rw [if_neg (by simp [hrest, Nat.not_le.mpr hred])]
  rfl

end

/-- Settles O36: a command of the schedule changes the staged end of one slot, and reading a descriptor only notes. -/
theorem scheduleCommands : Obligations.ScheduleCommands := by
  unfold Obligations.ScheduleCommands
  intro s s1 s2 q i g k c b d hrun hg
  subst hg
  refine ⟨fun hrow hrest hva halign hread hparse hgroup hk hown => ?_, fun hrow hrest hred hk => ?_⟩
  · have hread_noted := State.readVa_noted c.grove (c.arg 8 8) 128 (Noted.refl (s.start q i))
    rw [hread] at hread_noted
    have hgroup_noted := s1.groupOk_noted c.grove d
    rw [hgroup] at hgroup_noted
    have hcol : s2.col = s.col := hgroup_noted.col.trans hread_noted.col
    have hload := (exec_schedLoad hrun).trans (congrArg Host.Outcome.next
      (State.schedLoad_valid hrow hrest hva halign hread hparse hgroup hown))
    rw [← hk] at hload
    refine ⟨fun hroom => ?staged, fun hfull hholds hroom => ?refused⟩
    case staged =>
      rw [if_neg fun h => Nat.not_le.mpr hroom h.1] at hload
      refine ⟨_, hload, ?_, ?_, fun j hj => ?_, (congrArg CollState.steps hcol :), rfl⟩
      · rw [State.reduction_modRed_same]
      · rw [State.reduction_modRed_same, State.reduction_congr hcol]
      · rw [State.reduction_modRed_other _ _ _ hj, State.reduction_congr hcol]
    case refused =>
      rw [if_pos ⟨hfull, hholds⟩] at hload
      obtain ⟨u, r, hrefused, hleft⟩ := s2.refuseCol_recorded q i 0x03 c.grove d.reduction hroom
      exact ⟨u, r, hload.trans (congrArg Host.Outcome.next hrefused), hleft⟩
  · have hdrop := (exec_schedDrop hrun).trans (congrArg Host.Outcome.next (State.schedDrop_valid hrow hrest hred))
    rw [← hk] at hdrop
    refine ⟨_, hdrop, ?_⟩
    split
    next =>
      refine ⟨?_, fun _ => ?_, fun j hj => ?_, rfl, rfl⟩
      · rw [State.reduction_modRed_same]; rfl
      · rw [State.reduction_modRed_same]
      · rw [State.reduction_modRed_other _ _ _ hj]; rfl
    next hnone => exact ⟨rfl, fun hholds => absurd (by simp [hholds]) hnone, fun _ _ => rfl, rfl, rfl⟩

end Sys2Proof.Machine
end

section
/-! PROOFS. Plans, abort and arming of a firing (R560 to R565, R574; O41). -/
namespace Sys2Proof.Machine

section
variable {s : State} {q i : Nat} (hrun : s.islandsRun = true)
include hrun

theorem exec_planLoad : exec (.planLoad q i) s = .next (s.planLoad q i) := congrArg _ (State.onDie_of_islandsRun hrun _)

theorem exec_fire : exec (.fire q i) s = .next (s.fire q i) := congrArg _ (State.onDie_of_islandsRun hrun _)

theorem exec_klnAbort (hidle : s.waits = ([], [])) (h : (s.klnAbort q i).waits = s.waits) :
    exec (.klnAbort q i) s = .next (s.klnAbort q i) :=
  congrArg Host.Outcome.next (State.kilnEvent_of_waits (k := fun s => s.klnAbort q i) hrun hidle h)

end

/-! ## Records of the Kiln and its commands (R562) -/

theorem State.klnRecord_noted (s : State) (code g slot dest item : Nat) : Noted s (s.klnRecord code g slot dest item) := by
  unfold State.klnRecord
  exact State.record_noted _ _ _ _ _ _ (State.putReg_noted _ _ _ (Noted.refl s))

/-- A refused command of target 6 leaves its record and completes as BAD_COMMAND. -/
theorem State.refuseKln_recorded (s : State) (q i code g slot item : Nat) (h : s.logRoom = true) :
    ∃ (u : State) (r : LogRec), s.refuseKln q i code g slot item = u.complete q i .badCommand 0 ∧ Noted s u ∧
      u.lastRecord = some r ∧ r.src = .kln ∧ r.sev = .contained ∧ r.code = code := by
  obtain ⟨r, hlast⟩ := State.lastRecord_klnRecord code g slot 0 item h
  exact ⟨_, r, rfl, s.klnRecord_noted code g slot 0 item, hlast⟩

/-- A command of target 6 on a CD0 queue, or a PROBE, starts. -/
theorem State.klnCmd_starts {s : State} {q i op : Nat} {c : Cmd} (hrow : s.ofRow q i 6 op = some c)
    (hdie : dieOfQueue q = 0 ∨ op = 5) : s.klnCmd q i op = (s.start q i, some c) := by
  unfold State.klnCmd
  rw [hrow]
  dsimp only
  exact if_neg (by rcases hdie with h | h <;> simp [h])

/-! ## PLAN_LOAD (R560) -/

section
variable {s s1 s2 : State} {q i : Nat} {c : Cmd} {b0 b : List Byte}

/-- The state with a grove's plan. -/
def State.planned (s : State) (g : Nat) (p : KilnPlan) : State := s.modKln fun x => { x with plans := tset x.plans g p }

theorem State.planLoad_read (hdie : dieOfQueue q = 0) (hrow : s.ofRow q i 6 1 = some c)
    (hrest : c.restZero [(8, 8)] = true) (hva : c.arg 8 8 < 2 ^ 48) (halign : c.arg 8 8 % 64 = 0)
    (hhead : (s.start q i).readVa c.grove (c.arg 8 8) 64 = (s1, .ok, b0)) (hranges : leAt b0 4 2 ≤ 1024)
    (hread : s1.readVa c.grove (c.arg 8 8) (64 + 16 * leAt b0 4 2) = (s2, .ok, b)) :
    s.planLoad q i = if (s2.parsePlan c.grove c.gen b).1 = true
      then (s2.planned c.grove (s2.parsePlan c.grove c.gen b).2).complete q i .ok
        ((s2.parsePlan c.grove c.gen b).2.pages.length % 2 ^ 32)
      else s2.refuseKln q i 0x02 c.grove 0 0 := by
  have hfields : ¬((!c.restZero [(8, 8)] || decide (c.arg 8 8 ≥ 2 ^ 48) || decide (c.arg 8 8 % 64 ≠ 0)) = true) := by
    simp [hrest, halign]
    exact hva
  unfold State.planLoad
  rw [State.klnCmd_starts hrow (.inl hdie)]
  dsimp only
  rw [if_neg hfields, hhead]
  dsimp only
  rw [if_pos (by simpa using hranges), hread]
  dsimp only
  generalize s2.parsePlan c.grove c.gen b = p
  obtain ⟨ok, plan⟩ := p
  unfold State.planned
  dsimp only
  cases ok
  · rw [if_pos (by decide), if_neg (by decide)]
  · rw [if_neg (by decide), if_pos rfl]

end

/-! ## KLN_ABORT (R574) -/

section
variable {s : State} {q i : Nat} {c : Cmd} (hdie : dieOfQueue q = 0) (hrow : s.ofRow q i 6 3 = some c)
  (hrest : c.restZero [] = true)
include hdie hrow hrest

theorem State.klnAbort_eq : s.klnAbort q i = ((s.start q i).abortFiring c.grove (some 0x05)).complete q i .ok 0 := by
  unfold State.klnAbort
  rw [State.klnCmd_starts hrow (.inl hdie)]
  dsimp only
  rw [hrest]
  rfl

end

/-- The record of an abort, counted. -/
def State.abortRecorded (s : State) (g : Nat) (f : Firing) : State :=
  (s.bump .KLN_ABORTS [0]).klnRecord 0x05 g f.slot 0 f.step

theorem State.abortRecorded_noted (s : State) (g : Nat) (f : Firing) : Noted s (s.abortRecorded g f) := by
  unfold State.abortRecorded State.klnRecord
  exact State.record_noted _ _ _ _ _ _ (State.putReg_noted _ _ _ (State.bump_noted _ _ _ (Noted.refl s)))

theorem State.firing_of_kln {s t : State} (h : t.kln = s.kln) (g : Nat) : t.firing g = s.firing g := by
  rw [State.firing, h, State.firing]

theorem State.abortFiring_aborted {s : State} {g : Nat} {f : Firing} (hf : s.firing g = some f) :
    s.abortFiring g (some 0x05) = ((s.abortRecorded g f).firingEnded g).complete f.queue f.index .aborted 0 := by
  have hnoted := State.firing_of_kln (s.abortRecorded_noted g f).kln g
  have habort : s.abortFiring g (some 0x05) = (s.abortRecorded g f).endFiring g .aborted 0 := by
    unfold State.abortFiring
    rw [hf]
    rfl
  exact habort.trans (State.endFiring_eq (hnoted.trans hf) _ _)

theorem State.abortFiring_none {s : State} {g : Nat} (hf : s.firing g = none) (code : Option Nat) :
    s.abortFiring g code = s := by
  unfold State.abortFiring
  rw [hf]

theorem State.protect_firingEnded (s : State) (g : Nat) (p : Nat × Nat × Nat) :
    p ∈ (s.firingEnded g).kln.protect ↔ p ∈ s.kln.protect ∧ p.2.1 ≠ g := by
  show p ∈ s.kln.protect.filter (fun p => p.2.1 != g) ↔ _
  rw [List.mem_filter, bne_iff_ne]

theorem State.firingEnded_frame (s : State) (g : Nat) : (s.firingEnded g).kln.plans = s.kln.plans ∧
    (s.firingEnded g).outbox = s.outbox ∧ (s.firingEnded g).waits = s.waits := ⟨rfl, rfl, rfl⟩

theorem Noted.waits {s t : State} (h : Noted s t) : t.waits = s.waits := by
  rw [State.waits, State.waits, h.mem, h.col]

/-! ## FIRE (R563) -/

section
variable {s : State} {q i : Nat} {c : Cmd}

/-- The firing that FIRE arms. -/
def State.armed (s : State) (q i g n slot : Nat) (p : KilnPlan) : Firing :=
  { st := .armed, queue := q, index := i, step := n, slot := slot, touch := (s.grove g).params.checkpointMode == 1,
    plan := p, buddy := { live := p.toBuddy }, storage := { live := p.toStorage } }

/-- The code of the first check of FIRE that fails: no plan of the generation, a firing or a restore at work, another
step. -/
def State.fireCheck (s : State) (g n : Nat) (p : KilnPlan) : Option Nat :=
  if p.gen ≠ (s.grove g).generation then some 0x02
  else if ((s.firing g).isSome || (s.step_ g).restorePending) = true then some 0x03
  else if s.uncommitted g ≠ some n then some 0x04
  else none

theorem State.fireCheck_start (g n : Nat) (p : KilnPlan) : (s.start q i).fireCheck g n p = s.fireCheck g n p := rfl

variable (hdie : dieOfQueue q = 0) (hrow : s.ofRow q i 6 2 = some c) (hrest : c.restZero [(8, 8), (0x10, 1)] = true)
  (hn : c.arg 8 8 < 2 ^ 48) (hslot : c.arg 0x10 1 ≤ 1)
include hdie hrow hrest hn hslot

theorem State.fire_started : s.fire q i = match tget s.kln.plans c.grove with
    | none => (s.start q i).refuseKln q i 0x02 c.grove (c.arg 0x10 1) (c.arg 8 8)
    | some p => ((s.start q i).fireCheck c.grove (c.arg 8 8) p).elim
        ((s.start q i).putFiring c.grove ((s.start q i).armed q i c.grove (c.arg 8 8) (c.arg 0x10 1) p))
        fun code => (s.start q i).refuseKln q i code c.grove (c.arg 0x10 1) (c.arg 8 8) := by
  have hfields : ¬((!c.restZero [(8, 8), (0x10, 1)] || decide (c.arg 8 8 ≥ 2 ^ 48) || decide (c.arg 0x10 1 > 1)) = true) := by
    simp [hrest, hslot]
    exact hn
  unfold State.fire
  rw [State.klnCmd_starts hrow (.inl hdie)]
  dsimp only
  rw [if_neg hfields]
  have hplans : (s.start q i).kln.plans = s.kln.plans := rfl
  rw [hplans]
  generalize s.start q i = u
  cases tget s.kln.plans c.grove with
  | none => rfl
  | some p =>
    unfold State.fireCheck State.armed
    dsimp only
    by_cases hgen : p.gen ≠ (u.grove c.grove).generation
    · rw [if_pos hgen, if_pos hgen, Option.elim_some]
    · rw [if_neg hgen, if_neg hgen]
      by_cases hbusy : ((u.firing c.grove).isSome || (u.step_ c.grove).restorePending) = true
      · rw [if_pos hbusy, if_pos hbusy, Option.elim_some]
      · rw [if_neg hbusy, if_neg hbusy]
        by_cases hstep : u.uncommitted c.grove ≠ some (c.arg 8 8)
        · rw [if_pos hstep, if_pos hstep, Option.elim_some]
        · rw [if_neg hstep, if_neg hstep, Option.elim_none]

end

/-- Settles O41: PLAN_LOAD stores what parsing answers; KLN_ABORT notes and ends the firing, and nothing waits behind it;
FIRE is decided by its first failed check. -/
theorem kilnFires : Obligations.KilnFires := by
  unfold Obligations.KilnFires
  refine ⟨fun s s1 s2 q i g va n c b0 b f hrun hdie hg hva => ?_, fun s q i g n slot c hrun hdie hg hn hslot => ?_⟩
  · subst hg hva
    refine ⟨fun hrow hrest hlt halign hhead hn hranges hread => ?_, fun hrow hrest hheld hopens => ⟨fun hf => ?_, fun hf => ?_⟩⟩
    · subst hn
      have hhead_noted := State.readVa_noted c.grove (c.arg 8 8) 64 (Noted.refl (s.start q i))
      rw [hhead] at hhead_noted
      have hread_noted := State.readVa_noted c.grove (c.arg 8 8) (64 + 16 * leAt b0 4 2) (Noted.refl s1)
      rw [hread] at hread_noted
      have hkln : s2.kln = s.kln := hread_noted.kln.trans hhead_noted.kln
      have hload := (exec_planLoad hrun).trans (congrArg Host.Outcome.next
        (State.planLoad_read hdie hrow hrest hlt halign hhead hranges hread))
      refine ⟨fun hok => ?_, fun hbad hroom => ?_⟩
      · rw [if_pos hok] at hload
        have hplans : ∀ p, (s2.planned c.grove p).kln.plans = tset s.kln.plans c.grove p := fun p => by
          rw [← hkln]; rfl
        refine ⟨_, hload, ?_, fun j hj => ?_, (congrArg KilnState.firings hkln :), (congrArg KilnState.restores hkln :), rfl⟩
        · rw [hplans, tget_tset_same]
        · rw [hplans, tget_tset_other _ _ hj]
      · rw [if_neg (by simp [hbad])] at hload
        obtain ⟨u, r, hrefused, hnoted, hrecord⟩ := s2.refuseKln_recorded q i 0x02 c.grove 0 0 hroom
        exact ⟨u, r, hload.trans (congrArg Host.Outcome.next hrefused), hnoted.kln, hnoted.mem, hrecord⟩
    · have hidle := State.waits_of_none hheld hopens
      have habort := (State.klnAbort_eq hdie hrow hrest).trans
        (congrArg (State.complete · q i .ok 0) (State.abortFiring_aborted (s := s.start q i) hf))
      have hnoted := (s.start q i).abortRecorded_noted c.grove f
      obtain ⟨hplans, houtbox, hwaits⟩ := ((s.start q i).abortRecorded c.grove f).firingEnded_frame c.grove
      refine ⟨_, (exec_klnAbort hrun hidle ?_).trans (congrArg Host.Outcome.next habort),
        State.firing_firingEnded_same .., fun j hj => ?_, fun p => ?_,
        hplans.trans (congrArg KilnState.plans hnoted.kln), houtbox.trans hnoted.outbox, ?_⟩
      · rw [habort, State.waits_complete, State.waits_complete, hwaits, hnoted.waits]
        rfl
      · rw [State.firing_firingEnded_other _ hj, State.firing_of_kln hnoted.kln]
        rfl
      · rw [State.protect_firingEnded, hnoted.kln]
        exact Iff.rfl
      · rw [State.firingEnded_mem, hnoted.mem]
        rfl
    · have habort := (State.klnAbort_eq hdie hrow hrest).trans
        (congrArg (State.complete · q i .ok 0) (State.abortFiring_none (s := s.start q i) hf _))
      refine (exec_klnAbort hrun (State.waits_of_none hheld hopens) ?_).trans (congrArg Host.Outcome.next habort)
      rw [habort, State.waits_complete]
      rfl
  · subst hg hn hslot
    intro hrow hrest hn hslot
    have hfire := (exec_fire hrun).trans (congrArg Host.Outcome.next (State.fire_started hdie hrow hrest hn hslot))
    have hrefused := fun code hroom =>
      (s.start q i).refuseKln_recorded q i code c.grove (c.arg 0x10 1) (c.arg 8 8) hroom
    refine ⟨fun p hp hgen => ?_, fun hnone hroom => ?_⟩
    · rw [hp] at hfire
      dsimp only at hfire
      rw [State.fireCheck_start] at hfire
      refine ⟨fun hf hrestore hstep => ?_, fun hbusy hroom => ?_, fun hf hrestore hstep hroom => ?_⟩
      · have hcheck : s.fireCheck c.grove (c.arg 8 8) p = none := by
          simp [State.fireCheck, hgen, hf, hrestore, hstep]
        rw [hcheck, Option.elim_none] at hfire
        exact ⟨_, (s.start q i).armed q i c.grove (c.arg 8 8) (c.arg 0x10 1) p, hfire, State.firing_putFiring_same .., rfl, rfl, rfl, rfl,
          rfl, rfl, rfl, rfl, rfl, fun j hj => State.firing_putFiring_other _ _ hj, rfl, rfl, rfl, rfl⟩
      · have hcheck : s.fireCheck c.grove (c.arg 8 8) p = some 0x03 := by
          rcases hbusy with h | h <;> simp [State.fireCheck, hgen, h]
        rw [hcheck, Option.elim_some] at hfire
        obtain ⟨u, r, hu, hnoted, hlast, hsrc, _, hcode⟩ := hrefused 0x03 hroom
        exact ⟨u, r, hfire.trans (congrArg Host.Outcome.next hu), hnoted.kln, hnoted.mem, hlast, hsrc, hcode⟩
      · have hcheck : s.fireCheck c.grove (c.arg 8 8) p = some 0x04 := by
          simp [State.fireCheck, hgen, hf, hrestore, hstep]
        rw [hcheck, Option.elim_some] at hfire
        obtain ⟨u, r, hu, hnoted, hlast, hsrc, _, hcode⟩ := hrefused 0x04 hroom
        exact ⟨u, r, hfire.trans (congrArg Host.Outcome.next hu), hnoted.kln, hnoted.mem, hlast, hsrc, hcode⟩
    · obtain ⟨u, r, hu, hnoted, hlast, hsrc, _, hcode⟩ := hrefused 0x02 hroom
      have hfired : exec (.fire q i) s = .next ((s.start q i).refuseKln q i 0x02 c.grove (c.arg 0x10 1) (c.arg 8 8)) := by
        cases hp : tget s.kln.plans c.grove with
        | none => rw [hfire, hp]
        | some p =>
          have hcheck : s.fireCheck c.grove (c.arg 8 8) p = some 0x02 := if_pos (hnone p hp)
          rw [hfire, hp]
          dsimp only
          rw [State.fireCheck_start, hcheck, Option.elim_some]
      exact ⟨u, r, hfired.trans (congrArg Host.Outcome.next hu), hnoted.kln, hnoted.mem, hlast, hsrc, hcode⟩

end Sys2Proof.Machine
end

section
/-! PROOFS. Restores and probes (R570, R575 to R578; O43). -/
namespace Sys2Proof.Machine

section
variable {s : State} (hrun : s.islandsRun = true)
include hrun

theorem exec_restore {q i : Nat} : exec (.restore q i) s = .next (s.restore q i) :=
  congrArg _ (State.onDie_of_islandsRun hrun _)

theorem exec_probe {q i : Nat} : exec (.probe q i) s = .next (s.probeSlot q i) :=
  congrArg _ (State.onDie_of_islandsRun hrun _)

theorem exec_restoreDataReceive {tag : Nat} {b : List Byte} :
    exec (.restoreDataReceive tag b) s = .next (s.slotData tag b) := congrArg _ (State.onDie_of_islandsRun hrun _)

end

/-! ## Requests for bytes of a slot (R575) -/

/-- The message that asks a source for bytes of a slot. -/
def KilnPlan.request (p : KilnPlan) (source slot off n tag : Nat) : Msg :=
  if source = 1 then .rdmaRead p.qp p.rkey ((p.base + (slot * p.stride + off)) % 2 ^ 64) n tag
  else .kilnRead (p.buddy / 2 ^ 41 % 2 ^ 15) ((p.buddy + (slot * p.stride + off)) % 2 ^ 41) n tag

theorem State.askSlot_eq (s : State) (g : Nat) (p : KilnPlan) (source slot off n : Nat) (probe : Option (Nat × Nat × Nat)) :
    s.askSlot g p source slot off n probe =
      { s with
        kln := { s.kln with
          nextTag := (s.kln.nextTag + 1) % 2 ^ 32,
          reads := tset s.kln.reads s.kln.nextTag { grove := g, probe := probe, length := n } },
        outbox := s.outbox ++ [p.request source slot off n s.kln.nextTag] } := by
  unfold State.askSlot KilnPlan.request
  dsimp only
  split <;> rfl

/-- What asking changes: one read under a new tag, and one message. -/
theorem State.askSlot_asks (s : State) (g : Nat) (p : KilnPlan) (source slot off n : Nat)
    (probe : Option (Nat × Nat × Nat)) :
    tget (s.askSlot g p source slot off n probe).kln.reads s.kln.nextTag = some { grove := g, probe := probe, length := n } ∧
    (s.askSlot g p source slot off n probe).outbox = s.outbox ++ [p.request source slot off n s.kln.nextTag] ∧
    (s.askSlot g p source slot off n probe).kln.restores = s.kln.restores ∧
    (s.askSlot g p source slot off n probe).col = s.col ∧ (s.askSlot g p source slot off n probe).mem = s.mem ∧
    (s.askSlot g p source slot off n probe).hrt = s.hrt := by
  rw [State.askSlot_eq]
  exact ⟨tget_tset_same .., rfl, rfl, rfl, rfl, rfl⟩

theorem State.cmd_of_hrt {s t : State} (h : t.hrt = s.hrt) (q i : Nat) : t.cmd q i = s.cmd q i := by
  rw [State.cmd, State.queue, h, State.cmd, State.queue]

/-! ## RESTORE and PROBE (R575, R578) -/

/-- A restore that RESTORE starts. -/
def State.restoreBegins (s : State) (q i g : Nat) (p : KilnPlan) (source slot n : Nat) : State :=
  ((s.modStep g fun x => { x with restorePending := true }).modKln fun x =>
    { x with restores := tset x.restores g { queue := q, index := i, source := source, slot := slot, expected := n } }).askSlot
      g p source slot 0 128 none

/-- RESTORE with fields in range: its checks in order. -/
def State.restoreChecked (s : State) (q i g source slot n : Nat) : State :=
  if ((s.firing g).isSome || (tget s.kln.restores g).isSome) = true then s.refuseKln q i 0x03 g slot n
  else if (s.step_ g).st ≠ .closed then s.refuseKln q i 0x0B g slot n
  else
    match tget s.kln.plans g with
    | none => s.refuseKln q i 0x02 g slot n
    | some p => if (!p.offers source) = true then s.refuseKln q i 0x02 g slot n else s.restoreBegins q i g p source slot n

section
variable {s : State} {q i : Nat} {c : Cmd}

theorem State.restore_checked (hdie : dieOfQueue q = 0) (hrow : s.ofRow q i 6 4 = some c)
    (hrest : c.restZero [(8, 2), (0x10, 8)] = true) (hsource : c.arg 8 1 ≤ 1) (hslot : c.arg 9 1 ≤ 1)
    (hn : c.arg 0x10 8 < 2 ^ 48) :
    s.restore q i = (s.start q i).restoreChecked q i c.grove (c.arg 8 1) (c.arg 9 1) (c.arg 0x10 8) := by
  have hfields : ¬((!c.restZero [(8, 2), (0x10, 8)] || decide (c.arg 8 1 > 1) || decide (c.arg 9 1 > 1) ||
      decide (c.arg 0x10 8 ≥ 2 ^ 48)) = true) := by
    simp [hrest, hsource, hslot]
    exact hn
  unfold State.restore
  rw [State.klnCmd_starts hrow (.inl hdie)]
  dsimp only
  rw [if_neg hfields]
  rfl

theorem State.probeSlot_asks {p : KilnPlan} (hrow : s.ofRow q i 6 5 = some c) (hrest : c.restZero [(8, 2)] = true)
    (hsource : c.arg 8 1 ≤ 1) (hslot : c.arg 9 1 ≤ 1) (hplan : tget s.kln.plans c.grove = some p)
    (hoffers : p.offers (c.arg 8 1) = true) :
    s.probeSlot q i = (s.start q i).askSlot c.grove p (c.arg 8 1) (c.arg 9 1) 0 128 (some (q, i, c.arg 9 1)) := by
  have hfields : ¬((!c.restZero [(8, 2)] || decide (c.arg 8 1 > 1) || decide (c.arg 9 1 > 1)) = true) := by
    simp [hrest, hsource, hslot]
  have hstarted : tget (s.start q i).kln.plans c.grove = some p := hplan
  unfold State.probeSlot
  rw [State.klnCmd_starts hrow (.inr rfl)]
  dsimp only
  rw [if_neg hfields, hstarted]
  dsimp only
  rw [if_neg (by simp [hoffers])]

end

section
variable {s : State} {q i g source slot n : Nat}

theorem State.restoreChecked_busy (h : (s.firing g).isSome = true ∨ (tget s.kln.restores g).isSome = true) :
    s.restoreChecked q i g source slot n = s.refuseKln q i 0x03 g slot n := by
  unfold State.restoreChecked
  exact if_pos (by simpa using h)

variable (hfiring : s.firing g = none) (hrestore : tget s.kln.restores g = none)
include hfiring hrestore

theorem State.restoreChecked_open (hst : (s.step_ g).st ≠ .closed) :
    s.restoreChecked q i g source slot n = s.refuseKln q i 0x0B g slot n := by
  unfold State.restoreChecked
  rw [if_neg (by simp [hfiring, hrestore]), if_pos hst]

theorem State.restoreChecked_begins {p : KilnPlan} (hst : (s.step_ g).st = .closed) (hplan : tget s.kln.plans g = some p)
    (hoffers : p.offers source = true) : s.restoreChecked q i g source slot n = s.restoreBegins q i g p source slot n := by
  unfold State.restoreChecked
  rw [if_neg (by simp [hfiring, hrestore]), if_neg (not_not_intro hst), hplan]
  dsimp only
  rw [if_neg (by simp [hoffers])]

end

/-! ## Data of a slot (R570, R575, R576) -/

/-- The state in which the data under a tag has been taken. -/
def State.readTaken (s : State) (tag : Nat) : State := { s with kln := { s.kln with reads := terase s.kln.reads tag } }

section
variable {s : State} {tag : Nat} {x : KilnRead} {b : List Byte} (hread : tget s.kln.reads tag = some x)
  (hlength : b.length = x.length)
include hread hlength

theorem State.slotData_probe {q i slot : Nat} (hprobe : x.probe = some (q, i, slot)) :
    s.slotData tag b = (s.readTaken tag).complete q i .ok
      ((if (s.readTaken tag).recordOurs x.grove b then leAt b 0x10 8 % 2 ^ 48 + 2 ^ 48 else 0) + slot * 2 ^ 49) := by
  unfold State.slotData
  rw [hread]
  dsimp only
  rw [if_neg (not_not_intro hlength), hprobe]
  rfl

theorem State.slotData_restore {p : KilnPlan} {r : Restore} (hprobe : x.probe = none)
    (hrestore : tget s.kln.restores x.grove = some r) (hplan : tget s.kln.plans x.grove = some p) :
    s.slotData tag b = (s.readTaken tag).restoreData x.grove p r b := by
  have hrestores : (s.readTaken tag).kln.restores = s.kln.restores := rfl
  have hplans : (s.readTaken tag).kln.plans = s.kln.plans := rfl
  unfold State.slotData
  rw [hread]
  dsimp only
  rw [if_neg (not_not_intro hlength), hprobe]
  show (match tget (s.readTaken tag).kln.restores x.grove, tget (s.readTaken tag).kln.plans x.grove with
    | some r, some p => (s.readTaken tag).restoreData x.grove p r b
    | _, _ => s.readTaken tag) = _
  rw [hrestores, hrestore, hplans, hplan]

end

/-- A completion record names the grove and this device. -/
def State.NamesUs (s : State) (g : Nat) (b : List Byte) : Prop :=
  recordPresent b = true ∧ leAt b 7 1 % 16 = g ∧ leAt b 0x0A 2 % 2 ^ 15 = s.devnum

theorem State.recordOurs_iff (s : State) (g : Nat) (b : List Byte) : s.recordOurs g b = true ↔ s.NamesUs g b := by
  unfold State.recordOurs State.NamesUs
  rw [Bool.and_eq_true, Bool.and_eq_true, beq_iff_eq, beq_iff_eq, and_assoc]

/-- The state that holds what a restore has read. -/
def State.putRestore (s : State) (g : Nat) (r : Restore) : State :=
  s.modKln fun x => { x with restores := tset x.restores g r }

section
variable {s : State} {g : Nat} {p : KilnPlan} {r : Restore} {b : List Byte}

theorem State.restoreData_record (hrecord : r.record = []) :
    s.restoreData g p r b =
      if s.recordOurs g b = true ∧ leAt b 0x10 8 % 2 ^ 48 = r.expected
      then (s.putRestore g { r with record := b }).askSlot g p r.source r.slot 0x1000 (leAt b 0x1C 4) none
      else s.restoreFails g r 0x09 r.expected := by
  unfold State.restoreData State.putRestore
  dsimp only
  rw [if_pos (by rw [hrecord]; rfl)]
  cases hours : s.recordOurs g b
  · rw [if_pos (by simp), if_neg (by simp)]
  · by_cases hstep : leAt b 0x10 8 % 2 ^ 48 = r.expected
    · rw [if_neg (by simpa using hstep), if_pos ⟨rfl, hstep⟩]
    · rw [if_pos (by simpa using hstep), if_neg fun h => hstep h.2]

theorem isEmpty_ne_true {α : Type} {l : List α} (h : l ≠ []) : ¬l.isEmpty = true := by simpa using h

/-- The page that a restore reads: its manifest entry. -/
def Restore.entry (r : Restore) : List Byte := (r.manifest.drop (64 * r.page)).take 64

variable (hrecord : r.record ≠ []) (hmeta : r.meta_ ≠ [])
include hrecord hmeta

theorem State.restoreData_digest (hmanifest : r.manifest = [])
    (hdigest : sha384 (r.meta_ ++ b) ≠ (r.record.drop 0x30).take 48) :
    s.restoreData g p r b = s.restoreFails g r 0x0A r.expected := by
  unfold State.restoreData
  dsimp only
  rw [if_neg (isEmpty_ne_true hrecord), if_neg (isEmpty_ne_true hmeta), if_pos (by rw [hmanifest]; rfl), if_pos hdigest]

theorem State.restoreData_page {s1 : State} (hmanifest : r.manifest ≠ [])
    (hwrite : s.writeVa g (leAt r.entry 0 8 % 2 ^ 48) b = (s1, .ok)) (hdigest : sha384 b = (r.entry.drop 8).take 48) :
    s.restoreData g p r b = s1.restoreNext g p { r with page := r.page + 1 } := by
  unfold Restore.entry at hwrite hdigest
  unfold State.restoreData
  dsimp only
  rw [if_neg (isEmpty_ne_true hrecord), if_neg (isEmpty_ne_true hmeta), if_neg (isEmpty_ne_true hmanifest), hwrite]
  dsimp only
  rw [if_neg (not_not_intro hdigest)]

end

/-- The state without a grove's restore. -/
def State.restoreDropped (s : State) (g : Nat) : State := s.modKln fun x => { x with restores := terase x.restores g }

theorem State.restoreDropped_frame (s : State) (g : Nat) : tget (s.restoreDropped g).kln.restores g = none ∧
    (s.restoreDropped g).col = s.col ∧ (s.restoreDropped g).mem = s.mem ∧ (s.restoreDropped g).lastRecord = s.lastRecord :=
  ⟨tget_terase_same .., rfl, rfl, rfl⟩

theorem State.restoreFails_eq (s : State) (g : Nat) (r : Restore) (code item : Nat) :
    s.restoreFails g r code item =
      ((s.klnRecord code g r.slot (r.source + 1) item).restoreDropped g).complete r.queue r.index .fault 0 := rfl

/-- What stands before a failed restore's command completes: its record, and no restore. -/
theorem State.restoreFails_recorded {s : State} (g : Nat) (r : Restore) (code item : Nat) (hroom : s.logRoom = true) :
    ∃ (u : State) (l : LogRec), s.restoreFails g r code item = u.complete r.queue r.index .fault 0 ∧
      tget u.kln.restores g = none ∧ u.col = s.col ∧ u.mem = s.mem ∧ u.lastRecord = some l ∧ l.src = .kln ∧
      l.code = code := by
  have hnoted := s.klnRecord_noted code g r.slot (r.source + 1) item
  obtain ⟨l, hlast, hsrc, _, hcode⟩ := State.lastRecord_klnRecord code g r.slot (r.source + 1) item hroom
  obtain ⟨hrestores, hcol, hmem, hrecord⟩ := (s.klnRecord code g r.slot (r.source + 1) item).restoreDropped_frame g
  exact ⟨_, l, State.restoreFails_eq .., hrestores, hcol.trans hnoted.col, hmem.trans hnoted.mem, hrecord.trans hlast, hsrc,
    hcode⟩

/-! ### The end of a restore (R576) -/

/-- The step machine that a restore leaves. -/
def GroveStep.restored (next : Nat) (x : GroveStep) : GroveStep :=
  { x with
    st := .closed, step := stepPred next, attempt := 0, record := none, delivered := none, restorePending := false,
    withhold := false, faulted := false, heldVoids := [], reports := [], origins := [] }

/-- What a restore installs lies in the sampler and the embedding unit, and in the grove's step machine. -/
theorem State.restoreInstalls_installs (s : State) (g : Nat) (m : List Byte) :
    ((s.restoreInstalls g m).step_ g = (s.step_ g).restored (leAt m 0 8 % 2 ^ 48)) ∧ (s.restoreInstalls g m).mem = s.mem := by
  unfold State.restoreInstalls
  extract_lets ns nt ne next part streams tables entries embs
  have hstreams : streams.col = s.col ∧ streams.mem = s.mem := by
    refine State.each_keeps (P := fun t => t.col = s.col ∧ t.mem = s.mem) (fun t i h => ?_) _ ⟨rfl, rfl⟩
    exact h
  have htables : tables.col = s.col ∧ tables.mem = s.mem := by
    refine State.each_keeps (P := fun t => t.col = s.col ∧ t.mem = s.mem) (fun t i h => ?_) _ hstreams
    dsimp only
    split
    · exact h
    · exact h
  have hembs : embs.col = s.col ∧ embs.mem = s.mem := htables
  refine ⟨?_, hembs.2⟩
  have hstep : embs.step_ g = s.step_ g := by rw [State.step_, hembs.1, State.step_]
  have hmod := embs.step_modStep_same g (GroveStep.restored next)
  rw [hstep] at hmod
  exact hmod

/-- After its last page a restore ends. -/
theorem State.restoreNext_ends {s : State} {g : Nat} {p : KilnPlan} {r : Restore} (hlast : r.page = leAt r.record 0x18 4) :
    ∃ u : State, s.restoreNext g p r = u.complete r.queue r.index .ok (leAt r.meta_ 0 8 % 2 ^ 48) ∧
      u.step_ g = (s.step_ g).restored (leAt r.meta_ 0 8 % 2 ^ 48) ∧ tget u.kln.restores g = none ∧ u.mem = s.mem := by
  obtain ⟨hstep, hmem⟩ := s.restoreInstalls_installs g r.meta_
  unfold State.restoreNext
  rw [if_neg (by omega)]
  dsimp only
  generalize s.restoreInstalls g r.meta_ = t at hstep hmem
  exact ⟨_, rfl, hstep, tget_terase_same .., hmem⟩

/-- Settles O43: the commands ask under a new tag once their checks pass; the data of each stage is checked, and the last
page installs what the metadata says. -/
theorem kilnRestores : Obligations.KilnRestores := by
  unfold Obligations.KilnRestores
  refine ⟨fun s q i g source slot n at' c p hrun hg hsource hslot hsource1 hslot1 hat => ?_,
    fun s s1 tag g x b p r hrun hread hlength hg => ?_⟩
  · subst hg hsource hslot hat
    refine ⟨fun hn hdie hrow hrest hlt => ?_, fun hrow hrest hplan hoffers => ?_⟩
    · subst hn
      have hrestore := (exec_restore hrun).trans (congrArg Host.Outcome.next
        (State.restore_checked hdie hrow hrest hsource1 hslot1 hlt))
      have hrefused := fun code hroom =>
        (s.start q i).refuseKln_recorded q i code c.grove (c.arg 9 1) (c.arg 0x10 8) hroom
      refine ⟨fun hf hr hst hplan hoffers => ?_, fun hbusy hroom => ?_, fun hf hr hst hroom => ?_⟩
      · rw [State.restoreChecked_begins (s := s.start q i) hf hr hst hplan hoffers] at hrestore
        obtain ⟨hreads, houtbox, hrestores, hcol, hmem, hhrt⟩ :=
          (((s.start q i).modStep c.grove fun x => { x with restorePending := true }).putRestore c.grove
            { queue := q, index := i, source := c.arg 8 1, slot := c.arg 9 1, expected := c.arg 0x10 8 }).askSlot_asks
            c.grove p (c.arg 8 1) (c.arg 9 1) 0 128 none
        refine ⟨_, hrestore, ?_, ?_, hreads, houtbox, State.cmd_of_hrt hhrt q i, hmem⟩
        · rw [State.restoreBegins, ← State.putRestore, State.step_, hcol]
          exact congrArg GroveStep.restorePending ((s.start q i).step_modStep_same c.grove _)
        · exact (congrArg (tget · c.grove) hrestores).trans (tget_tset_same ..)
      · rw [State.restoreChecked_busy (s := s.start q i) hbusy] at hrestore
        obtain ⟨u, l, hu, hnoted, hlast, hsrc, _, hcode⟩ := hrefused 0x03 hroom
        exact ⟨u, l, hrestore.trans (congrArg Host.Outcome.next hu), hnoted.kln, hnoted.col, hnoted.mem, hlast, hsrc, hcode⟩
      · rw [State.restoreChecked_open (s := s.start q i) hf hr hst] at hrestore
        obtain ⟨u, l, hu, hnoted, hlast, hsrc, _, hcode⟩ := hrefused 0x0B hroom
        exact ⟨u, l, hrestore.trans (congrArg Host.Outcome.next hu), hnoted.kln, hnoted.col, hnoted.mem, hlast, hsrc, hcode⟩
    · obtain ⟨hreads, houtbox, _, hcol, hmem, hhrt⟩ := (s.start q i).askSlot_asks c.grove p (c.arg 8 1) (c.arg 9 1) 0 128
        (some (q, i, c.arg 9 1))
      exact ⟨_, (exec_probe hrun).trans (congrArg Host.Outcome.next
        (State.probeSlot_asks hrow hrest hsource1 hslot1 hplan hoffers)), hreads, houtbox, State.cmd_of_hrt hhrt q i, hcol,
        hmem⟩
  · subst hg
    refine ⟨fun q i slot hprobe => ?_, fun hprobe hrestore hplan => ?_⟩
    · refine ⟨_, (exec_restoreDataReceive hrun).trans (congrArg Host.Outcome.next ?_), rfl⟩
      rw [State.slotData_probe hread hlength hprobe]
      refine congrArg (State.complete _ q i .ok) ?_
      have hours := (s.readTaken tag).recordOurs_iff x.grove b
      by_cases hnames : recordPresent b = true ∧ leAt b 7 1 % 16 = x.grove ∧ leAt b 0x0A 2 % 2 ^ 15 = s.devnum
      · rw [if_pos (hours.mpr hnames), if_pos hnames]
      · rw [if_neg (mt hours.mp hnames), if_neg hnames, Nat.zero_add]
    · have hdata := (exec_restoreDataReceive hrun).trans (congrArg Host.Outcome.next
        (State.slotData_restore hread hlength hprobe hrestore hplan))
      refine ⟨fun hrecord hpresent hgrove hdev hstep => ?_, fun hrecord hbad hroom => ?_,
        fun hrecord hmeta hmanifest hdigest hroom => ?_, fun hrecord hmeta hmanifest hlast hwrite hdigest => ?_⟩
      · have hours : (s.readTaken tag).recordOurs x.grove b = true :=
          (State.recordOurs_iff ..).mpr ⟨hpresent, hgrove, hdev⟩
        rw [State.restoreData_record hrecord, if_pos ⟨hours, hstep⟩] at hdata
        obtain ⟨hreads, _, hrestores, hcol, hmem, _⟩ := ((s.readTaken tag).putRestore x.grove
          { r with record := b }).askSlot_asks x.grove p r.source r.slot 0x1000 (leAt b 0x1C 4) none
        exact ⟨_, hdata, (congrArg (tget · x.grove) hrestores).trans (tget_tset_same ..), hreads, hcol, hmem⟩
      · have hnot : ¬((s.readTaken tag).recordOurs x.grove b = true ∧ leAt b 0x10 8 % 2 ^ 48 = r.expected) := by
          rintro ⟨hours, hstep⟩
          obtain ⟨hpresent, hgrove, hdev⟩ := (State.recordOurs_iff ..).mp hours
          rcases hbad with h | h | h | h
          · exact absurd (h.symm.trans hpresent) nofun
          · exact h hgrove
          · exact h hdev
          · exact h hstep
        rw [State.restoreData_record hrecord, if_neg hnot] at hdata
        obtain ⟨u, l, hu, hleft⟩ := State.restoreFails_recorded x.grove r 0x09 r.expected
          (show (s.readTaken tag).logRoom = true from hroom)
        exact ⟨u, l, hdata.trans (congrArg Host.Outcome.next hu), hleft⟩
      · rw [State.restoreData_digest hrecord hmeta hmanifest hdigest] at hdata
        obtain ⟨u, l, hu, hleft⟩ := State.restoreFails_recorded x.grove r 0x0A r.expected
          (show (s.readTaken tag).logRoom = true from hroom)
        exact ⟨u, l, hdata.trans (congrArg Host.Outcome.next hu), hleft⟩
      · rw [State.restoreData_page (s := s.readTaken tag) hrecord hmeta hmanifest hwrite hdigest] at hdata
        obtain ⟨u, hu, hstep, hrestores, hmem⟩ :=
          State.restoreNext_ends (s := s1) (g := x.grove) (p := p) (r := { r with page := r.page + 1 }) hlast
        exact ⟨u, hdata.trans (congrArg Host.Outcome.next hu), by rw [hstep]; rfl, by rw [hstep]; rfl,
          by rw [hstep]; rfl, by rw [hstep]; rfl, hrestores, hmem⟩

end Sys2Proof.Machine
end

section
/-! PROOFS. A grove reset and the memory requests of others that wait (R395, R404, R654, R658; O53). -/
namespace Sys2Proof.Machine

/-- A fetch of a ring in the hearth region. -/
def ringFetch : MemReq :=
  { unit := .ringFetch, origin := ⟨0, 0, 0, 0⟩, offset := 0x10000000000, length := 64, data := none, err := [] }

/-- A device in service with grove 1 bound, at whose hearth channel the fetch waits; the line that it names is
uncorrectable. -/
def fetchWaiting : State :=
  { State.reset with
    sup := { State.reset.sup with phase := .service, recovery := .idle }
    grv := { groves := [(1, { bound := true })] }
    mem := { bad := [lineNo 32 0], written := [lineNo 32 0], held := [.req ringFetch] } }

/-- The reset of grove 1 ends with the retry of what waits: the fetch reads its line, and that is fatal. -/
theorem fetchWaiting_ash : (fetchWaiting.recoverOp (BitVec.ofNat 64 (2 ^ 32)) 5).sup.phase = .ash := by decide +kernel

/-- Refutes O53: a grove reset retries the memory requests that wait, those of the hearth too, and one that fetches an
uncorrectable line of a ring takes the device out of service. -/
theorem not_warmAndGroveResets : ¬ Obligations.WarmAndGroveResets := by
  unfold Obligations.WarmAndGroveResets
  intro ⟨_, h⟩
  obtain ⟨hreset, -⟩ := h fetchWaiting (BitVec.ofNat 64 (2 ^ 32)) 1 (by decide) (by decide) (by decide)
  obtain ⟨t, hexec, -, -, -, -, -, -, -, -, -, hphase⟩ := hreset rfl (by decide) (by decide) (by decide)
  have hrun : exec (.groveReset (BitVec.ofNat 64 (2 ^ 32))) fetchWaiting =
      .next (fetchWaiting.recoverOp (BitVec.ofNat 64 (2 ^ 32)) 5) := rfl
  have hash := fetchWaiting_ash
  rw [Host.Outcome.next.inj (hrun.symm.trans hexec), hphase] at hash
  exact absurd hash nofun

end Sys2Proof.Machine
end

section
/-! PROOFS. What the update units leave (ch. 16): a property that does not look at what their requests change holds after
them as before. -/
namespace Sys2Proof.Machine

/-- A property that does not look at what traffic changes, nor at what the update units and the broadcast of parameters
change: of the collective engines it looks at the reductions and the contributions sent only. -/
structure UpdFree (P : State → Prop) : Prop extends TrafficFree P where
  upd : ∀ {s : State} (x : UpdState), P s → P { s with upd := x }
  emb : ∀ {s : State} (x : EmbState), P s → P { s with emb := x }
  freeCtr : ∀ {s : State} (n : Nat), P s → P { s with freeCtr := n }
  col : ∀ {s : State} (x : CollState), x.reductions = s.col.reductions → x.sent = s.col.sent → P s → P { s with col := x }

namespace UpdFree

variable {P : State → Prop} (hP : UpdFree P) {s : State}
include hP

theorem modUpd (f : UpdState → UpdState) (h : P s) : P (s.modUpd f) := hP.upd _ h

theorem updRecord (sev : Sev) (die code g kind target item : Nat) (h : P s) :
    P (s.updRecord sev die code g kind target item) := hP.noted (State.updRecord_noted _ _ _ _ _ _ _ (Noted.refl s)) h

theorem noteNonfinite (die g kind target item : Nat) (h : P s) : P (s.noteNonfinite die g kind target item) := by
  unfold State.noteNonfinite
  dsimp only
  split
  · exact hP.bump _ _ _ h
  · exact hP.updRecord _ _ _ _ _ _ _ (hP.modUpd _ (hP.bump _ _ _ h))

/-! ## Elements in memory -/

theorem readVa (g va n : Nat) (h : P s) : P (s.readVa g va n).1 := hP.noted (State.readVa_noted g va n (Noted.refl s)) h

theorem updRead (g n size va : Nat) (sts : List (Nat × Nat)) (h : P s) : P (s.updRead g n size va sts).1 := by
  unfold State.updRead
  refine State.foldl_keeps (fun q x hq => ?_) _ (hP.readVa _ _ _ h)
  exact hP.readVa _ _ _ hq

theorem updWrite (g size va : Nat) (sts : List (Nat × Nat)) (d : UpdData) (h : P s) : P (s.updWrite g size va sts d) :=
  State.each_keeps (fun _ _ hb => hP.writeVa _ _ _ hb) _ (hP.writeVa _ _ _ h)

theorem checkWriteVa (g va n : Nat) (h : P s) : P (s.checkWriteVa g va n).1 := by
  unfold State.checkWriteVa
  split
  · exact h
  · refine State.foldl_keeps (fun q p hq => ?_) _ h
    split
    · split
      · exact hq
      · exact hP.noted (State.writeFails_noted _ _ _ _) hq
    · exact hq

theorem updWritable (g n size va : Nat) (sts : List (Nat × Nat)) (h : P s) : P (s.updWritable g n size va sts).1 := by
  unfold State.updWritable
  refine State.foldl_keeps (fun q x hq => ?_) _ h
  split
  · exact hP.checkWriteVa _ _ _ hq
  · exact hq

/-! ## Segments (R503 to R508) -/

theorem commitFault (die g kind target item : Nat) (h : P s) : P (s.commitFault die g kind target item) := by
  unfold State.commitFault
  exact hP.modUpd _ (hP.updRecord .contained die 0x07 g kind target item h)

theorem computeSeg (die g step seg : Nat) (d : RedDesc) (p : UpdProg) (h : P s) : P (s.computeSeg die g step seg d p).1 := by
  unfold State.computeSeg
  extract_lets n c sums read places
  have hsums : P sums.1 := hP.readVa _ _ _ h
  split
  · exact hsums
  · split
    · exact hP.bump _ _ _ hsums
    · have hread := hP.updRead g n d.size places.1 places.2 hsums
      split <;> rename_i heq <;> rw [heq] at hread
      · extract_lets e gs r noted
        have hnoted : P noted := iteInduction (fun _ => hP.noteNonfinite _ _ _ _ _ hread) fun _ => hread
        split <;> exact hnoted
      · exact hread

theorem stageSeg (die g seg : Nat) (d : RedDesc) (p : UpdProg) (h : P s) : P (s.stageSeg die g seg d p) := by
  have hseg := hP.computeSeg die g (s.step_ g).step seg d p h
  unfold State.stageSeg
  dsimp only
  split
  · exact h
  · split
    · exact hP.modUpd _ h
    · split <;> rename_i heq <;> rw [heq] at hseg
      · exact hP.modUpd _ hseg
      · exact hP.modUpd _ hseg
      · exact hP.modUpd _ (hP.bump _ _ _ (hP.updWrite _ _ _ _ _ (hP.writeVa _ _ _ (hP.freeCtr _ hseg))))

theorem commitSeg (die g seg : Nat) (d : RedDesc) (p : UpdProg) (h : P s) : P (s.commitSeg die g seg d p) := by
  unfold State.commitSeg
  extract_lets n places write staged direct
  have hwrite : ∀ {b} v, P b → P (write b v) := fun v hb => hP.bump _ _ _ (hP.updWrite _ _ _ _ _ hb)
  split
  · exact h
  · extract_lets src
    have hread := hP.updRead g n d.size src.1 src.2 h
    split <;> rename_i heq <;> rw [heq] at hread
    · have hcheck := hP.updWritable g n d.size places.1 places.2 hread
      split <;> rename_i heq' <;> rw [heq'] at hcheck
      · exact hwrite _ hcheck
      · exact hP.commitFault _ _ _ _ _ hcheck
    · exact hP.commitFault _ _ _ _ _ hread
  · have hseg := hP.computeSeg die g (direct.step_ g).step seg d p (hP.bump .UPD_DIRECT [die] 1 h)
    split <;> rename_i heq <;> rw [heq] at hseg
    · exact hP.commitFault _ _ _ _ _ hseg
    · exact hseg
    · exact hwrite _ hseg

/-! ## Rows (R503, R505, R508) -/

theorem refreshRow (die g step t : Nat) (d : TableDesc) (r : Nat) (va : Nat × Nat) (h : P s) :
    P (s.refreshRow die g step t d r va) := by
  unfold State.refreshRow
  extract_lets row opt send sent
  have hsend : ∀ {b} dest mirror slot, P b → P (send b dest mirror slot) := fun dest mirror slot hb =>
    State.each_keeps (fun _ _ hc => hP.sendMsg _ _ _ _ _ _ _ hc) _ (hP.emb _ (hP.emb _ hb))
  have hsent : P sent := by
    refine State.each_keeps (fun b x hb => ?_) _ h
    exact hsend _ _ _ hb
  split
  · exact hsend _ _ _ hsent
  · exact hsent

theorem commitRow (die g t e : Nat) (last : Bool) (h : P s) : P (s.commitRow die g t e last) := by
  unfold State.commitRow
  extract_lets step b r seg mask desc
  split
  · rename_i d p _ _
    have hva := hP.noted (State.rowVa_noted (s := s) (g := g) (t := t) (d := d) (r := r) (s.rowPlace g t d r)) h
    split <;> rename_i heq <;> rw [heq] at hva
    · rename_i u va
      extract_lets es n sts at'
      have hread := hP.updRead g n es at' sts hva
      split <;> rename_i heq' <;> rw [heq'] at hread
      · extract_lets v noted written
        have hnoted : P noted := iteInduction (fun _ => hP.noteNonfinite _ _ _ _ _ hread) fun _ => hread
        have hwritten : P written := iteInduction (fun _ => hnoted) fun _ =>
          hP.bump _ _ _ (hP.bump _ _ _ (hP.updWrite _ _ _ _ _ hnoted))
        split
        · exact hP.refreshRow _ _ _ _ _ _ _ hwritten
        · exact hwritten
      · exact hP.commitFault _ _ _ _ _ hread
    · exact hva
    · exact hP.commitFault _ _ _ _ _ hva
  · exact h

theorem clearRowBuf (die g step : Nat) (h : P s) : P (s.clearRowBuf die g step) := by
  unfold State.clearRowBuf
  dsimp only
  split
  · exact h
  · exact hP.writeLocal _ _ _ h

/-! ## Pieces (R480, R481) -/

theorem modCol {f : CollState → CollState} (hreds : ∀ x, (f x).reductions = x.reductions) (hsent : ∀ x, (f x).sent = x.sent)
    (h : P s) : P (s.modCol f) := hP.col _ (hreds _) (hsent _) h

theorem relayPiece (die g owner : Nat) (group : List Nat) (p : Piece) (h : P s) : P (s.relayPiece die g owner group p) := by
  refine State.each_keeps (fun b child hb => ?_) _ h
  have hrequest : P (b.colRequest die g).2 := by
    unfold State.colRequest
    dsimp only
    exact hP.modCol (by exact fun _ => rfl) (by exact fun _ => rfl) hb
  exact hP.sendMsg _ _ _ _ _ _ _ (hP.modCol (by exact fun _ => rfl) (by exact fun _ => rfl) hrequest)

theorem storePiece (die g : Nat) (d : RedDesc) (p : Piece) (h : P s) : P (s.storePiece die g d p) := by
  unfold State.storePiece
  extract_lets k old l note w noted
  have hnote : ∀ {b}, P b → P (note b) := fun hb => hP.modCol (by exact fun _ => rfl) (by exact fun _ => rfl) hb
  have hw : P w.1 := hP.writeVa _ _ _ h
  have hnoted : P noted := hP.bump _ _ _ (hnote hw)
  split
  · exact h
  · split
    · exact hnote h
    · split
      · exact hw
      · split
        · split
          · exact hP.engineSignal _ _ hnoted
          · exact hnoted
        · exact hnoted

theorem storeHere (g : Nat) (p : Piece) (h : P s) : P (s.storeHere g p) := by
  refine State.each_keeps (fun b die hb => ?_) _ h
  split
  · exact hP.storePiece _ _ _ _ hb
  · exact hb

theorem broadcast (die g step : Nat) (d : RedDesc) (h : P s) : P (s.broadcast die g step d) :=
  State.each_keeps (fun _ _ hb => hP.relayPiece _ _ _ _ _ (hP.storeHere _ _ hb)) _ h

/-! ## The unit's work (R509) -/

theorem updSignal (k : Nat) (h : P s) : P (s.updSignal k) := by
  unfold State.updSignal
  split
  · exact hP.engineSignal _ _ h
  · exact h

theorem doWork (die g : Nat) (rest : List UpdWork) (w : UpdWork) (h : P s) : P (s.doWork die g rest w) := by
  cases w with
  | stage r seg =>
    simp only [State.doWork]
    split
    · exact hP.stageSeg _ _ _ _ _ h
    · exact h
  | commit r seg =>
    simp only [State.doWork]
    split
    · exact hP.commitSeg _ _ _ _ _ h
    · exact h
  | reductionEnd r =>
    have hsignal := hP.updSignal (updKey die g 0 r) h
    simp only [State.doWork]
    split
    · exact hP.broadcast _ _ _ _ (hP.writeVa _ _ _ hsignal)
    · exact hsignal
  | row t e => exact hP.commitRow _ _ _ _ _ h
  | tableEnd t => exact hP.updSignal _ h
  | commitEnd =>
    simp only [State.doWork]
    exact hP.modUpd _ (hP.clearRowBuf _ _ _ h)

theorem runUpdate (die g fuel : Nat) (h : P s) : P (s.runUpdate die g fuel) := by
  induction fuel generalizing s with
  | zero => exact h
  | succ fuel ih =>
    unfold State.runUpdate
    extract_lets k
    split
    · exact h
    · extract_lets n a spent
      have ha : P a.1 := iteInduction (motive := fun b : State × Bool => P b.1) (fun _ => h)
        fun _ => hP.spend _ _ _ _ _ h
      split
      · exact ih (hP.doWork _ _ _ _ (hP.modUpd _ ha))
      · exact hP.modUpd _ ha

theorem stageReduction (die g r : Nat) (h : P s) : P (s.stageReduction die g r) := by
  unfold State.stageReduction
  split
  · exact hP.runUpdate _ _ _ (hP.modUpd _ h)
  · exact h

end UpdFree

/-- The tiles, the reductions and the contributions sent are left by the update units. -/
theorem updFree_reductions (s : State) :
    UpdFree fun t => t.til = s.til ∧ t.col.reductions = s.col.reductions ∧ t.col.sent = s.col.sent where
  noted h k := ⟨h.til.trans k.1, (congrArg CollState.reductions h.col).trans k.2.1,
    (congrArg CollState.sent h.col).trans k.2.2⟩
  sch _ h := h
  outbox _ h := h
  lnk _ h := h
  grv _ h := h
  mem _ h := h
  kln _ h := h
  hrt _ h := h
  upd _ h := h
  emb _ h := h
  freeCtr _ h := h
  col _ hreds hsent h := ⟨h.1, hreds.trans h.2.1, hsent.trans h.2.2⟩

end Sys2Proof.Machine
end

section
/-! PROOFS. What adder operations leave (R398 to R401), and what a reader sees of memory. -/
namespace Sys2Proof.Machine

namespace TrafficFree

variable {P : State → Prop} (hP : TrafficFree P) {s : State}
include hP

theorem settleWcb (c line : Nat) (h : P s) : P (s.settleWcb c line) := by
  unfold State.settleWcb
  split
  · exact hP.evictWcb _ _ h
  · exact h

theorem accLine (c line : Nat) (f : List Byte → List Byte) (h : P s) : P (s.accLine c line f).1 := by
  have hsettled := hP.settleWcb c line h
  unfold State.accLine
  extract_lets settled base flushed
  split
  · exact hP.modChannel _ _ (hP.bump _ _ _ hsettled)
  · split
    · exact hP.noteUe _ _ hsettled
    · have hflushed : P flushed := by
        refine iteInduction (fun _ => ?_) fun _ => hsettled
        split
        · exact hP.mem _ (hP.mem _ hsettled)
        · exact hsettled
      exact hP.modChannel _ _ (hP.bump _ _ _ hflushed)

theorem accAdd (c line lineOff : Nat) (op : AccOp) (adds : List (Nat × Nat)) (h : P s) :
    P (s.accAdd c line lineOff op adds).1 := by
  unfold State.accAdd
  extract_lets settled live sats r
  have hr : P r.1 := hP.accLine _ _ _ (hP.settleWcb _ _ h)
  split
  · split
    · exact hP.mem _ hr
    · refine State.each_keeps (fun b o hb => ?_) _ hr
      unfold State.saturate
      exact hP.record _ _ _ _ _ _ (hP.bump _ _ _ (hP.mem _ hb))
  · exact hr

theorem accumulateBy (p : Party) (op : AccOp) (off mask : Nat) (values : List Nat) (h : P s) :
    P (s.accumulateBy p op off mask values).1 := by
  unfold State.accumulateBy
  refine State.foldl_keeps (fun q l hq => ?_) _ h
  split
  · have hadded := fun c b => hP.accAdd c (b / 64) l.1 op l.2 (hP.touch l.1 hq)
    dsimp only
    split
    · exact hadded _ _
    · exact hP.noted (State.ueRecord_noted _ _ _ (Noted.refl _)) (hadded _ _)
  · exact hP.noted (State.unmappedRecord_noted _ _ (Noted.refl _)) hq
  · exact hq

theorem accumulateVa (g : Nat) (op : AccOp) (va mask : Nat) (values : List Nat) (h : P s) :
    P (s.accumulateVa g op va mask values).1 := by
  unfold State.accumulateVa
  split
  · exact h
  · exact hP.accumulateBy _ _ _ _ _ h

end TrafficFree

/-- The collective engines are left by traffic. -/
theorem trafficFree_col (s : State) : TrafficFree fun t => t.col = s.col where
  noted hn h := hn.col.trans h
  sch _ h := h
  outbox _ h := h
  lnk _ h := h
  grv _ h := h
  mem _ h := h
  kln _ h := h
  hrt _ h := h

/-- What a reader sees at a grove-virtual address depends on memory, the bindings and the page map. -/
theorem State.peekVa_congr {s t : State} (hmem : t.mem = s.mem) (hgrv : t.grv = s.grv) (hmap : t.pageMap = s.pageMap)
    (g va n : Nat) : t.peekVa g va n = s.peekVa g va n := by
  have hparts : ∀ u : State, u.peekVa g va n =
      { State.reset with mem := u.mem, grv := u.grv, pageMap := u.pageMap }.peekVa g va n := fun _ => rfl
  rw [hparts t, hparts s, hmem, hgrv, hmap]

theorem State.countWords_congr {s t : State} (hmem : t.mem = s.mem) (hgrv : t.grv = s.grv) (hmap : t.pageMap = s.pageMap)
    (g : Nat) (d : RedDesc) (n : Nat) : t.countWords g d n = s.countWords g d n := by
  unfold State.countWords State.countWord
  simp only [State.peekVa_congr hmem hgrv hmap]

end Sys2Proof.Machine
end

section
/-! PROOFS. What an owner answers to a contribution (R473, R475, R479, R484; O37). -/
namespace Sys2Proof.Machine

/-- An addition of a contribution's blocks leaves the collective engines. -/
theorem State.applyBlocks_col (s : State) (g : Nat) (d : RedDesc) (c : Contribution) : (s.applyBlocks g d c).1.col = s.col := by
  have hP := trafficFree_col s
  unfold State.applyBlocks
  extract_lets codes add p word counted sat
  have hp : p.1.col = s.col := by
    refine State.foldl_keeps (P := fun t => t.col = s.col) (fun q b hq => ?_) _ rfl
    exact iteInduction (motive := fun r : State × Acc => r.1.col = s.col) (fun _ => hP.accumulateVa _ _ _ _ _ hq) fun _ => hq
  have hword : ∀ q va x, q.1.col = s.col → (word q va x).1.col = s.col := fun q va x hq =>
    iteInduction (motive := fun r : State × Acc => r.1.col = s.col) (fun _ => hP.accumulateVa _ _ _ _ _ hq) fun _ => hq
  have hcounted : counted.1.col = s.col := hword _ _ _ hp
  split
  · exact hcounted
  · exact hword _ _ _ hcounted

theorem State.step_of_col {s t : State} (h : t.col = s.col) (g : Nat) : t.step_ g = s.step_ g := by
  rw [State.step_, h, State.step_]

/-- The state in which a request is noted as applied, counted and tallied. -/
def State.contributionNoted (s : State) (own g device sdie : Nat) (c : Contribution) : State :=
  ((s.noteApplied own g device sdie c.request).bump .COL_APPLIED [own]).tallyRecv own g (tallyItem g device c)

/-- What noting a request leaves. -/
theorem State.contributionNoted_frame (s : State) (own g device sdie : Nat) (c : Contribution) :
    (s.contributionNoted own g device sdie c).mem = s.mem ∧ (s.contributionNoted own g device sdie c).grv = s.grv ∧
    (s.contributionNoted own g device sdie c).pageMap = s.pageMap ∧
    (s.contributionNoted own g device sdie c).col.steps = s.col.steps ∧
    (s.contributionNoted own g device sdie c).col.reductions = s.col.reductions ∧
    (s.contributionNoted own g device sdie c).wasApplied own g device sdie c.request = true := by
  have hnoted := State.bump_noted .COL_APPLIED [own] 1 (Noted.refl (s.noteApplied own g device sdie c.request))
  unfold State.contributionNoted
  generalize (s.noteApplied own g device sdie c.request).bump .COL_APPLIED [own] = t at hnoted
  refine ⟨hnoted.mem, hnoted.grv, hnoted.pageMap, (congrArg CollState.steps hnoted.col :),
    (congrArg CollState.reductions hnoted.col :), ?_⟩
  have happlied : (t.tallyRecv own g (tallyItem g device c)).col.applied =
      tmod s.col.applied (dieGrove own g) [] (· ++ [(device, sdie, c.request)]) := (congrArg CollState.applied hnoted.col :)
  rw [State.wasApplied, happlied, tgetD_tmod_same]
  simp

/-- The attempt that a contribution names is the one its owner applies: the first of the next step, or the present one of
an open reduction. -/
def State.TakesNow (s : State) (own g : Nat) (c : Contribution) : Prop :=
  c.step = stepSucc (s.step_ g).step ∧ c.attempt = 0 ∨
    c.step = (s.step_ g).step ∧ c.step ≠ stepSucc (s.step_ g).step ∧ c.attempt = (s.step_ g).attempt ∧
      (s.step_ g).st ≠ .closed ∧ (s.reduction (redKey own g c.reduction)).closed = false

section
variable {s s1 : State} {at' own g device sdie : Nat} {c : Contribution} {d : RedDesc}

theorem stepSucc_ne (n : Nat) : stepSucc n ≠ n := by
  unfold stepSucc
  omega

/-- Blocks that are applied and fill no reduction are noted and answered 0. -/
theorem State.takeBlocks_noted (happly : s.applyBlocks g d c = (s1, .ok))
    (hfull : c.step = (s.step_ g).step → (s1.countWords g d (s.step_ g).step).all (· == d.expected) = false) :
    s.takeBlocks own g device sdie d c = (s1.contributionNoted own g device sdie c, .status 0) := by
  obtain ⟨hmem, hgrv, hmap, hsteps, -⟩ := s1.contributionNoted_frame own g device sdie c
  have hcol : s1.col = s.col := by
    have h := s.applyBlocks_col g d c
    rwa [happly] at h
  have hstep : (s1.contributionNoted own g device sdie c).step_ g = s.step_ g :=
    (State.step_congr hsteps g).trans (State.step_of_col hcol g)
  have htaken : s.takeBlocks own g device sdie d c =
      (if c.step = ((s1.contributionNoted own g device sdie c).step_ g).step
        then (s1.contributionNoted own g device sdie c).closeIfFull own g d
        else s1.contributionNoted own g device sdie c, .status 0) := by
    unfold State.takeBlocks
    rw [happly]
    rfl
  rw [htaken, hstep]
  by_cases hn : c.step = (s.step_ g).step
  · have hclose : (s1.contributionNoted own g device sdie c).closeIfFull own g d =
        s1.contributionNoted own g device sdie c := by
      unfold State.closeIfFull
      rw [hstep]
      dsimp only
      rw [State.countWords_congr hmem hgrv hmap, hfull hn]
      split <;> rfl
    rw [if_pos hn, hclose]
  · rw [if_neg hn]

/-- A segment that no die of the device owns (R475). -/
theorem State.takeContribution_unowned (hown : s.segOwner g c.reduction c.segment = none) :
    s.takeContribution at' g device sdie c =
      ((s.bump .COL_NOT_OWNER [at']).colRecord .contained at' 0x06 g c.reduction c.segment device, .status 3) := by
  unfold State.takeContribution
  rw [hown]

variable (hown : s.segOwner g c.reduction c.segment = some (own, d))
include hown

theorem State.takeContribution_repeated (happlied : s.wasApplied own g device sdie c.request = true) :
    s.takeContribution at' g device sdie c = (s.bump .COL_REPEAT [own], .status 1) := by
  unfold State.takeContribution
  rw [hown]
  exact if_pos happlied

variable (hfresh : s.wasApplied own g device sdie c.request = false)
include hfresh

theorem State.takeContribution_now (h : s.TakesNow own g c) :
    s.takeContribution at' g device sdie c = s.takeBlocks own g device sdie d c := by
  unfold State.takeContribution
  rw [hown]
  dsimp only
  rw [if_neg (by simp [hfresh])]
  rcases h with ⟨hnext, hfirst⟩ | ⟨hstep, hnext, hattempt, hst, hclosed⟩
  · rw [if_pos hnext, if_pos hfirst]
  · rw [if_neg hnext, if_pos (by simp [hstep, hattempt, hst, hclosed])]

theorem State.takeContribution_stale (hstep : c.step = (s.step_ g).step) (hattempt : c.attempt ≠ (s.step_ g).attempt) :
    s.takeContribution at' g device sdie c = (s.bump .COL_STALE_ATTEMPT [own], .status 4) := by
  unfold State.takeContribution
  rw [hown]
  dsimp only
  rw [if_neg (by simp [hfresh]), if_neg (by rw [hstep]; exact (stepSucc_ne _).symm), if_neg (by simp [hattempt]),
    if_pos (by simp [hstep, hattempt])]

theorem State.takeContribution_late (hstep : c.step = (s.step_ g).step) (hattempt : c.attempt = (s.step_ g).attempt)
    (hclosed : (s.reduction (redKey own g c.reduction)).closed = true) :
    s.takeContribution at' g device sdie c =
      ((s.noteLate own g c.reduction c.segment device).tallyLate own g (tallyItem g device c), .status 2) := by
  unfold State.takeContribution
  rw [hown]
  dsimp only
  rw [if_neg (by simp [hfresh]), if_neg (by rw [hstep]; exact (stepSucc_ne _).symm), if_neg (by simp [hclosed]),
    if_neg (by simp [hattempt]), if_pos (by simp [hstep])]

theorem State.takeContribution_ahead (hstep : c.step ≠ (s.step_ g).step) (hnext : c.step ≠ stepSucc (s.step_ g).step)
    (hpast : serialAfter (s.step_ g).step c.step 48 = false) :
    s.takeContribution at' g device sdie c =
      (s.colRecord .contained own 0x07 g c.reduction c.segment device, .none) := by
  unfold State.takeContribution
  rw [hown]
  dsimp only
  rw [if_neg (by simp [hfresh]), if_neg hnext, if_neg (by simp [hstep]), if_neg (by simp [hstep]),
    if_neg (by simp [hstep, hpast])]

end

/-! ## Histogram merges (R475, R484) -/

/-- A merge inside the merge area is added, noted and answered 0. -/
theorem State.takeMerge_added {s s1 : State} {g a : Nat} {o : Origin} {c : Contribution}
    (hfresh : s.wasApplied 0 g o.device o.die c.request = false) (hstep : c.step = (s.step_ g).step)
    (hattempt : c.attempt = (s.step_ g).attempt) (harea : s.mergeArea g = some a) (hlo : a ≤ c.target)
    (hhi : c.target + 8 * (8 * c.blocks) ≤ a + 256 * mergeStream) (halign : c.target % 8 = 0)
    (hmerge : s.mergeWords g c.target ((List.range (8 * c.blocks)).map fun i => leAt c.data (4 * i) 4) = (s1, .ok)) :
    s.takeMerge g o c = ((s1.noteApplied 0 g o.device o.die c.request).bump .COL_APPLIED [0], .status 0) := by
  unfold State.takeMerge
  dsimp only
  rw [if_neg (by simp [hfresh]), if_neg (by rw [hstep]; simp [(stepSucc_ne _).symm]), if_neg (by simp [hstep, hattempt]),
    harea]
  dsimp only
  rw [if_neg (by simp [hlo, hhi, halign]), hmerge]

theorem State.noteApplied_merged (s : State) (g : Nat) (o : Origin) (request : Nat) :
    ((s.noteApplied 0 g o.device o.die request).bump .COL_APPLIED [0]).mem = s.mem ∧
    ((s.noteApplied 0 g o.device o.die request).bump .COL_APPLIED [0]).wasApplied 0 g o.device o.die request = true := by
  have hnoted := State.bump_noted .COL_APPLIED [0] 1 (Noted.refl (s.noteApplied 0 g o.device o.die request))
  generalize (s.noteApplied 0 g o.device o.die request).bump .COL_APPLIED [0] = t at hnoted
  have happlied : t.col.applied = tmod s.col.applied (dieGrove 0 g) [] (· ++ [(o.device, o.die, request)]) :=
    (congrArg CollState.applied hnoted.col :)
  refine ⟨hnoted.mem, ?_⟩
  rw [State.wasApplied, happlied, tgetD_tmod_same]
  simp

/-! ## The answer -/

section
variable {s : State} {die : Nat} {o : Origin} {c : Contribution} {u : State} (hrun : s.islandsRun = true)
  (hgrove : s.groveIs o.grove o.gen = true)
include hrun hgrove

theorem exec_contributionReceive {a : ColAnswer} (hkind : c.kind = 2)
    (htake : s.takeContribution die o.grove o.device o.die c = (u, a)) :
    exec (.contributionReceive die o c) s = .next (u.answerCol die o.device o.grove c.request a) := by
  have hrecv : exec (.contributionReceive die o c) s = .next (s.contributionReceive die o c) :=
    congrArg _ (State.onDie_of_islandsRun hrun _)
  rw [hrecv]
  unfold State.contributionReceive
  dsimp only
  rw [hgrove, hkind, if_neg (by decide), if_neg (by decide), htake]

theorem exec_mergeReceive {a : ColAnswer} (hkind : c.kind = 3) (htake : s.takeMerge o.grove o c = (u, a)) :
    exec (.contributionReceive die o c) s = .next (u.answerCol die o.device o.grove c.request a) := by
  have hrecv : exec (.contributionReceive die o c) s = .next (s.contributionReceive die o c) :=
    congrArg _ (State.onDie_of_islandsRun hrun _)
  rw [hrecv]
  unfold State.contributionReceive
  dsimp only
  rw [hgrove, hkind, if_neg (by decide), if_pos rfl, htake]

end

theorem State.noteLate_noted (s : State) (die g red seg device : Nat) : Noted s (s.noteLate die g red seg device) := by
  unfold State.noteLate
  exact State.record_noted _ _ _ _ _ _ (State.putReg_noted _ _ _ (State.bump_noted _ _ _ (Noted.refl s)))

end Sys2Proof.Machine
end

section
/-! PROOFS. Contributions at their owner (R473, R475, R479; O37). -/
namespace Sys2Proof.Machine

/-- A late tally leaves memory and the requests applied. -/
theorem State.tallyLate_applied (s : State) (die g item : Nat) :
    (s.tallyLate die g item).mem = s.mem ∧ (s.tallyLate die g item).col.applied = s.col.applied := ⟨rfl, rfl⟩

section
variable {s s1 : State} {die own g : Nat} {o : Origin} {c : Contribution} {d : RedDesc} (hrun : s.islandsRun = true)
  (hg : g = o.grove) (hgrove : s.groveIs g o.gen = true) (hkind : c.kind = 2)
include hrun hg hgrove hkind

theorem exec_contributionReceive_answered {u : State} {a : ColAnswer}
    (htake : s.takeContribution die g o.device o.die c = (u, a)) :
    exec (.contributionReceive die o c) s = .next (u.answerCol die o.device g c.request a) := by
  subst hg
  exact exec_contributionReceive hrun hgrove hkind htake

theorem contributionReceive_unowned (hown : s.segOwner g c.reduction c.segment = none) :
    ∃ u : State, exec (.contributionReceive die o c) s = .next (u.colAck die o.device g c.request 3) ∧ u.mem = s.mem ∧
      u.col = s.col := by
  have hnoted := (s.bump .COL_NOT_OWNER [die]).colRecord_noted .contained die 0x06 g c.reduction c.segment o.device
  exact ⟨_, exec_contributionReceive_answered hrun hg hgrove hkind (State.takeContribution_unowned hown),
    hnoted.mem.trans (by simp), hnoted.col.trans (by simp)⟩

variable (hown : s.segOwner g c.reduction c.segment = some (own, d))
include hown

theorem contributionReceive_repeated (happlied : s.wasApplied own g o.device o.die c.request = true) :
    ∃ u : State, exec (.contributionReceive die o c) s = .next (u.colAck die o.device g c.request 1) ∧ u.mem = s.mem ∧
      u.col = s.col :=
  ⟨_, exec_contributionReceive_answered hrun hg hgrove hkind (State.takeContribution_repeated hown happlied), by simp,
    by simp⟩

variable (hfresh : s.wasApplied own g o.device o.die c.request = false)
include hfresh

theorem contributionReceive_applied (hnow : s.TakesNow own g c) (happly : s.applyBlocks g d c = (s1, .ok))
    (hfull : c.step = (s.step_ g).step → (s1.countWords g d (s.step_ g).step).all (· == d.expected) = false) :
    ∃ u : State, exec (.contributionReceive die o c) s = .next (u.colAck die o.device g c.request 0) ∧ u.mem = s1.mem ∧
      u.wasApplied own g o.device o.die c.request = true ∧ u.col.reductions = s.col.reductions := by
  have htake := (State.takeContribution_now (at' := die) hown hfresh hnow).trans (State.takeBlocks_noted happly hfull)
  have hcol : s1.col = s.col := by
    have h := s.applyBlocks_col g d c
    rwa [happly] at h
  obtain ⟨hmem, -, -, -, hreds, happlied⟩ := s1.contributionNoted_frame own g o.device o.die c
  exact ⟨_, exec_contributionReceive_answered hrun hg hgrove hkind htake, hmem, happlied,
    hreds.trans (congrArg CollState.reductions hcol)⟩

theorem contributionReceive_stale (hstep : c.step = (s.step_ g).step) (hattempt : c.attempt ≠ (s.step_ g).attempt) :
    ∃ u : State, exec (.contributionReceive die o c) s = .next (u.colAck die o.device g c.request 4) ∧ u.mem = s.mem ∧
      u.col = s.col :=
  ⟨_, exec_contributionReceive_answered hrun hg hgrove hkind (State.takeContribution_stale hown hfresh hstep hattempt),
    by simp, by simp⟩

theorem contributionReceive_late (hstep : c.step = (s.step_ g).step) (hattempt : c.attempt = (s.step_ g).attempt)
    (hclosed : (s.reduction (redKey own g c.reduction)).closed = true) :
    ∃ u : State, exec (.contributionReceive die o c) s = .next (u.colAck die o.device g c.request 2) ∧ u.mem = s.mem ∧
      u.col.applied = s.col.applied := by
  have hnoted := s.noteLate_noted own g c.reduction c.segment o.device
  have hexec := exec_contributionReceive_answered hrun hg hgrove hkind
    (State.takeContribution_late (at' := die) hown hfresh hstep hattempt hclosed)
  exact ⟨_, hexec, (State.tallyLate_applied _ _ _ _).1.trans hnoted.mem,
    (State.tallyLate_applied _ _ _ _).2.trans (congrArg CollState.applied hnoted.col)⟩

theorem contributionReceive_ahead (hstep : c.step ≠ (s.step_ g).step) (hnext : c.step ≠ stepSucc (s.step_ g).step)
    (hpast : serialAfter (s.step_ g).step c.step 48 = false) (hroom : s.logRoom = true) :
    ∃ (t : State) (r : LogRec), exec (.contributionReceive die o c) s = .next t ∧ t.mem = s.mem ∧ t.col = s.col ∧
      t.outbox = s.outbox ∧ t.lastRecord = some r ∧ r.src = .col ∧ r.sev = .contained ∧ r.code = 0x07 := by
  have hnoted := s.colRecord_noted .contained own 0x07 g c.reduction c.segment o.device
  obtain ⟨r, hlast⟩ := s.colRecord_contained own 0x07 g c.reduction c.segment o.device hroom
  exact ⟨_, r, exec_contributionReceive_answered hrun hg hgrove hkind
    (State.takeContribution_ahead hown hfresh hstep hnext hpast), hnoted.mem, hnoted.col, hnoted.outbox, hlast⟩

end

theorem mergeReceive_added {s s1 : State} {die g a : Nat} {o : Origin} {c : Contribution} (hrun : s.islandsRun = true)
    (hg : g = o.grove) (hgrove : s.groveIs g o.gen = true) (hkind : c.kind = 3)
    (hfresh : s.wasApplied 0 g o.device o.die c.request = false) (hstep : c.step = (s.step_ g).step)
    (hattempt : c.attempt = (s.step_ g).attempt) (harea : s.mergeArea g = some a) (hlo : a ≤ c.target)
    (hhi : c.target + 8 * (8 * c.blocks) ≤ a + 256 * mergeStream) (halign : c.target % 8 = 0)
    (hmerge : s.mergeWords g c.target ((List.range (8 * c.blocks)).map fun i => leAt c.data (4 * i) 4) = (s1, .ok)) :
    ∃ u : State, exec (.contributionReceive die o c) s = .next (u.colAck die o.device g c.request 0) ∧ u.mem = s1.mem ∧
      u.wasApplied 0 g o.device o.die c.request = true := by
  subst hg
  obtain ⟨hmem, happlied⟩ := s1.noteApplied_merged o.grove o c.request
  exact ⟨_, exec_mergeReceive hrun hgrove hkind
    (State.takeMerge_added hfresh hstep hattempt harea hlo hhi halign hmerge), hmem, happlied⟩

end Sys2Proof.Machine
end

section
/-! PROOFS. Contributions at their sender (R470, R471, R473; O37). -/
namespace Sys2Proof.Machine

/-! ## Frames of what sending counts and records -/

section
variable {s t : State} (h : t.sendFrame = s.sendFrame)
include h

theorem State.col_of_sendFrame : t.col = s.col := congrArg (·.1) h
theorem State.mem_of_sendFrame : t.mem = s.mem := congrArg (·.2.1) h
theorem State.devnum_of_sendFrame : t.devnum = s.devnum := congrArg (·.2.2.2) h

/-- A change of the collective engines keeps two equal frames equal. -/
theorem State.sendFrame_modCol_congr (f : CollState → CollState) : (t.modCol f).sendFrame = (s.modCol f).sendFrame :=
  congrArg (fun q : CollState × MemState × Tbl Grove × Nat => (f q.1, q.2)) h

end

theorem State.sendFrame_colRecord (s : State) (sev : Sev) (die code g red seg peer : Nat) :
    (s.colRecord sev die code g red seg peer).sendFrame = s.sendFrame := by
  simp [State.colRecord]

/-- The state with the saturations and the NaN codes of an encoding counted. -/
def State.encodingCounted (s : State) (die : Nat) (n : Nat × Nat) : State :=
  let s := if n.1 = 0 then s else s.bump .COL_B8_SAT [die] n.1
  if n.2 = 0 then s else s.bump .COL_B8_NAN [die] n.2

theorem State.sendFrame_encodingCounted (s : State) (die : Nat) (n : Nat × Nat) :
    (s.encodingCounted die n).sendFrame = s.sendFrame := by
  unfold State.encodingCounted
  dsimp only
  repeat' split
  all_goals simp

/-! ## Sending a segment (R470, R471) -/

/-- The number that the next request of a die of a grove takes. -/
def State.requestOf (s : State) (die g : Nat) : Nat := tgetD s.col.nextRequest (dieGrove die g) 0

/-- The contribution of a segment that a die sends next, with its encoded codes. -/
def State.segmentMsg (s : State) (die g : Nat) (d : RedDesc) (seg : Nat) (data : List Byte) : Contribution :=
  { step := (s.step_ g).step, attempt := (s.step_ g).attempt, reduction := d.reduction, kind := 2,
    blocks := data.length / 64, segment := seg, request := s.requestOf die g, count := d.weight, target := 0,
    crc := crc32c data, data := data }

/-- The state in which a contribution is counted, tallied, kept without its answer, and sent over the link. -/
def State.postSegment (s : State) (die g dest : Nat) (c : Contribution) : State :=
  let r := s.colRequest die g
  (((r.2.bump .COL_SENT [die]).tallySent die g (tallyItem g r.2.devnum c)).modCol fun x =>
    { x with sent := tset x.sent (reqKey die g r.1) { dest := dest, msg := c } }).sendContribution die g dest c

theorem State.postSegment_frame (s : State) (die g dest : Nat) (c : Contribution) :
    (s.postSegment die g dest c).mem = s.mem ∧ (s.postSegment die g dest c).col.reductions = s.col.reductions ∧
    tget (s.postSegment die g dest c).col.sent (reqKey die g (s.requestOf die g)) = some { dest := dest, msg := c } := by
  unfold State.postSegment State.sendContribution
  dsimp only
  have hsent := fun u : State => u.sendFrame_sendMsg die true dest 0x21 g (contributionPayload c) 0
  rw [State.mem_of_sendFrame (hsent _), State.col_of_sendFrame (hsent _)]
  have hcount := (s.colRequest die g).2.sendFrame_bump [die] 1 (r := .COL_SENT) (by decide)
  generalize (s.colRequest die g).2.bump .COL_SENT [die] = u at hcount
  refine ⟨(State.mem_of_sendFrame hcount :), (congrArg CollState.reductions (State.col_of_sendFrame hcount) :), ?_⟩
  exact tget_tset_same _ _ _

/-- Counting and tallying a contribution leaves the device number. -/
theorem State.devnum_tallied (s : State) (die g item : Nat) :
    (((s.colRequest die g).2.bump .COL_SENT [die]).tallySent die g item).devnum = s.devnum :=
  (State.devnum_of_sendFrame ((s.colRequest die g).2.sendFrame_bump [die] 1 (r := .COL_SENT) (by decide)) :)

/-- A segment whose source and owner map can be read, owned by another device, is posted. -/
theorem State.sendSegment_posted {s u : State} {die g seg dest : Nat} {d : RedDesc} {src ob : List Byte}
    {enc : List Byte × Nat × Nat} (hsrc : s.readVa g (d.source + 6144 * seg) (4 * d.elemsOf seg) = (s, .ok, src))
    (hob : s.readVa g (d.ownerMap + 2 * seg) 2 = (s, .ok, ob)) (howner : leAt ob 0 2 % 2 ^ 15 = dest)
    (hdest : dest ≠ s.devnum) (henc : encodeSegment (s.slotScale g d.slot) (codesOf 4 (d.elemsOf seg) src) = enc)
    (hu : s.encodingCounted die enc.2 = u) :
    s.sendSegment die g d seg = (u.postSegment die g dest (u.segmentMsg die g d seg enc.1), true) := by
  have hdevnum : u.devnum = s.devnum := by
    rw [← hu]
    exact State.devnum_of_sendFrame (s.sendFrame_encodingCounted die enc.2)
  have hsend : s.sendSegment die g d seg =
      if dest = (((u.colRequest die g).2.bump .COL_SENT [die]).tallySent die g
        (tallyItem g (u.colRequest die g).2.devnum (u.segmentMsg die g d seg enc.1))).devnum
      then (((((u.colRequest die g).2.bump .COL_SENT [die]).tallySent die g (tallyItem g (u.colRequest die g).2.devnum
        (u.segmentMsg die g d seg enc.1))).takeContribution die g dest die (u.segmentMsg die g d seg enc.1)).1, true)
      else (u.postSegment die g dest (u.segmentMsg die g d seg enc.1), true) := by
    unfold State.sendSegment
    dsimp only
    rw [hsrc]
    dsimp only
    rw [hob]
    subst howner henc hu
    rfl
  rw [hsend, State.devnum_tallied, hdevnum, if_neg hdest]

theorem State.sendSegments_single {s t : State} {die g seg : Nat} {d : RedDesc}
    (h : s.sendSegment die g d seg = (t, true)) : s.sendSegments die g d [seg] = t := by
  simp [State.sendSegments, h]

theorem State.reduction_of_reductions {s t : State} (h : t.col.reductions = s.col.reductions) (k : Nat) :
    t.reduction k = s.reduction k := by
  rw [State.reduction, h, State.reduction]

theorem contributionSend_posted {s s1 s2 s3 : State} {die g r : Nat} {d : RedDesc} {src ob : List Byte}
    (hrun : s.islandsRun = true) (hmay : s.mayContribute die g r = some d) (hone : d.segments = 1) (hr : d.reduction = r)
    (hs1 : s1 = s.modRed (redKey die g r) (fun y => { y with sent := true }))
    (hsrc : s1.readVa g d.source (4 * d.elemsOf 0) = (s2, .ok, src)) (hob : s2.readVa g d.ownerMap 2 = (s3, .ok, ob))
    (hdest : leAt ob 0 2 % 2 ^ 15 ≠ s.devnum) :
    ∃ t y, exec (.contributionSend die g r) s = .next t ∧
      tget t.col.sent (reqKey die g (tgetD s.col.nextRequest (dieGrove die g) 0)) = some y ∧
      y.dest = leAt ob 0 2 % 2 ^ 15 ∧ y.tries = 0 ∧ y.msg.step = (s.step_ g).step ∧
      y.msg.attempt = (s.step_ g).attempt ∧ y.msg.reduction = r ∧ y.msg.kind = 2 ∧ y.msg.segment = 0 ∧
      y.msg.count = d.weight ∧
      y.msg.data = (encodeSegment (s.slotScale g d.slot) (codesOf 4 (d.elemsOf 0) src)).1 ∧
      y.msg.crc = crc32c y.msg.data ∧ (t.reduction (redKey die g r)).sent = true ∧ t.mem = s3.mem := by
  obtain rfl := State.readVa_ok hsrc
  obtain rfl := State.readVa_ok hob
  have hexec : exec (.contributionSend die g r) s = .next (s3.sendSegments die g d [0]) := by
    refine congrArg Host.Outcome.next ((State.onDie_of_islandsRun hrun _).trans ?_)
    unfold State.contribute
    rw [hmay, hs1]
    dsimp only
    rw [hone]
    rfl
  have hscale : s3.slotScale g d.slot = s.slotScale g d.slot := by rw [hs1]; rfl
  have hdevnum : s3.devnum = s.devnum := by rw [hs1]; rfl
  have hstep : s3.step_ g = s.step_ g := by rw [hs1]; rfl
  have hreq : s3.requestOf die g = tgetD s.col.nextRequest (dieGrove die g) 0 := by rw [hs1]; rfl
  have hsent : (s3.reduction (redKey die g r)).sent = true := by
    rw [hs1, State.reduction_modRed_same]
  have hframe := s3.sendFrame_encodingCounted die (encodeSegment (s3.slotScale g d.slot) (codesOf 4 (d.elemsOf 0) src)).2
  generalize hu : s3.encodingCounted die (encodeSegment (s3.slotScale g d.slot) (codesOf 4 (d.elemsOf 0) src)).2 = u at hframe
  have hcol := State.col_of_sendFrame hframe
  have hstepu : u.step_ g = s.step_ g := (State.step_of_col hcol g).trans hstep
  have hrequ : u.requestOf die g = tgetD s.col.nextRequest (dieGrove die g) 0 := by
    rw [State.requestOf, hcol]
    exact hreq
  have hpost := State.sendSegment_posted (seg := 0) hsrc hob rfl (hdevnum ▸ hdest) rfl hu
  obtain ⟨hmem, hreds, hkept⟩ := u.postSegment_frame die g (leAt ob 0 2 % 2 ^ 15)
    (u.segmentMsg die g d 0 (encodeSegment (s3.slotScale g d.slot) (codesOf 4 (d.elemsOf 0) src)).1)
  rw [hrequ] at hkept
  refine ⟨_, _, hexec.trans (congrArg Host.Outcome.next (State.sendSegments_single hpost)), hkept, rfl, rfl,
    (congrArg GroveStep.step hstepu :), (congrArg GroveStep.attempt hstepu :), hr, rfl, rfl, rfl, by rw [hscale]; rfl, rfl, ?_, ?_⟩
  · exact (congrArg Reduction.sent ((State.reduction_of_reductions hreds _).trans (State.reduction_congr hcol _))).trans hsent
  · exact hmem.trans (State.mem_of_sendFrame hframe)

/-! ## Answers and timeouts of contributions (R473) -/

theorem contributionAckReceive_ends {s : State} {die req status : Nat} {o : Origin} {x : SentContribution}
    (hrun : s.islandsRun = true) (hgrove : s.groveIs o.grove o.gen = true)
    (hsent : tget s.col.sent (reqKey die o.grove req) = some x) (hdest : x.dest = o.device) :
    ∃ t, exec (.contributionAckReceive die o req status) s = .next t ∧
      t.col = { s.col with sent := terase s.col.sent (reqKey die o.grove req) } ∧ { t with col := s.col } = s := by
  refine ⟨s.modCol fun c => { c with sent := terase c.sent (reqKey die o.grove req) },
    congrArg Host.Outcome.next ((State.onDie_of_islandsRun hrun _).trans ?_), rfl, rfl⟩
  unfold State.contributionAck
  dsimp only
  rw [hgrove, if_neg (by decide), hsent]
  exact if_pos hdest

theorem State.tallyAbandoned_frame (s : State) (die g item : Nat) :
    (s.tallyAbandoned die g item).col = { s.col with tally := tmod s.col.tally (dieGrove die g) {} fun t =>
      { t with abandoned := inc32 t.abandoned, abandonedDigest := add64 t.abandonedDigest item } } ∧
    (s.tallyAbandoned die g item).mem = s.mem ∧ (s.tallyAbandoned die g item).devnum = s.devnum ∧
    (s.tallyAbandoned die g item).outbox = s.outbox := ⟨rfl, rfl, rfl, rfl⟩

/-- What abandoning a contribution of gradient blocks leaves: its item is tallied. -/
theorem State.abandon_frame (s : State) (die g : Nat) {x : SentContribution} (hkind : x.msg.kind = 2) :
    (s.abandon die g x).col = { s.col with tally := tmod s.col.tally (dieGrove die g) {} fun t =>
      { t with abandoned := inc32 t.abandoned, abandonedDigest := add64 t.abandonedDigest (tallyItem g s.devnum x.msg) } } ∧
    (s.abandon die g x).mem = s.mem ∧ (s.abandon die g x).devnum = s.devnum ∧ (s.abandon die g x).outbox = s.outbox := by
  have hout := ((s.bump .COL_ABANDONED [die]).colRecord_noted .contained die 0x08 g x.msg.reduction x.msg.segment
    x.dest).outbox.trans (State.bump_noted _ _ _ (Noted.refl s)).outbox
  have hframe : ((s.bump .COL_ABANDONED [die]).colRecord .contained die 0x08 g x.msg.reduction x.msg.segment
      x.dest).sendFrame = s.sendFrame :=
    (State.sendFrame_colRecord ..).trans (s.sendFrame_bump _ _ (by decide))
  have habandon : s.abandon die g x = ((s.bump .COL_ABANDONED [die]).colRecord .contained die 0x08 g x.msg.reduction
      x.msg.segment x.dest).tallyAbandoned die g (tallyItem g ((s.bump .COL_ABANDONED [die]).colRecord .contained die 0x08 g
      x.msg.reduction x.msg.segment x.dest).devnum x.msg) := if_pos hkind
  rw [habandon, State.devnum_of_sendFrame hframe]
  obtain ⟨hcol, hmem, hdevnum, houtbox⟩ := State.tallyAbandoned_frame _ die g (tallyItem g s.devnum x.msg)
  exact ⟨hcol.trans (by rw [State.col_of_sendFrame hframe]), hmem.trans (State.mem_of_sendFrame hframe),
    hdevnum.trans (State.devnum_of_sendFrame hframe), houtbox.trans hout⟩

section
variable {s : State} {die g req : Nat} {x : SentContribution} (hrun : s.islandsRun = true)
  (hsent : tget s.col.sent (reqKey die g req) = some x)
include hrun hsent

theorem contributionTimeout_resent (htries : x.tries < 3) :
    ∃ t, exec (.contributionTimeout die g req) s = .next t ∧
      t.col = { s.col with sent := tset s.col.sent (reqKey die g req) { x with tries := x.tries + 1 } } ∧
      t.mem = s.mem := by
  have hframe : ∀ u : State, ((u.bump .COL_RETRY [die]).sendContribution die g x.dest x.msg).sendFrame = u.sendFrame :=
    fun u => ((u.bump .COL_RETRY [die]).sendFrame_sendMsg ..).trans (u.sendFrame_bump _ _ (by decide))
  refine ⟨_, congrArg Host.Outcome.next ((State.onDie_of_islandsRun hrun _).trans ?_), (State.col_of_sendFrame
    (hframe (s.modCol fun c => { c with sent := tset c.sent (reqKey die g req) { x with tries := x.tries + 1 } })) :),
    (State.mem_of_sendFrame (hframe _) :)⟩
  unfold State.contributionTimeout
  dsimp only
  rw [hsent]
  exact if_pos htries

theorem contributionTimeout_abandoned (htries : 3 ≤ x.tries) (hkind : x.msg.kind = 2) :
    ∃ t, exec (.contributionTimeout die g req) s = .next t ∧
      tget t.col.sent (reqKey die g req) = none ∧
      (tgetD t.col.tally (dieGrove die g) {}).abandoned = inc32 (tgetD s.col.tally (dieGrove die g) {}).abandoned ∧
      (tgetD t.col.tally (dieGrove die g) {}).abandonedDigest = add64
        (tgetD s.col.tally (dieGrove die g) {}).abandonedDigest (tallyItem g s.devnum x.msg) ∧
      t.col.steps = s.col.steps ∧ t.outbox = s.outbox ∧ t.mem = s.mem := by
  have hexec : exec (.contributionTimeout die g req) s =
      .next ((s.modCol fun c => { c with sent := terase c.sent (reqKey die g req) }).abandon die g x) := by
    refine congrArg Host.Outcome.next ((State.onDie_of_islandsRun hrun _).trans ?_)
    unfold State.contributionTimeout
    dsimp only
    rw [hsent]
    exact if_neg (by omega)
  obtain ⟨hcol, hmem, hdevnum, hout⟩ := State.abandon_frame
    (s.modCol fun c => { c with sent := terase c.sent (reqKey die g req) }) die g hkind
  refine ⟨_, hexec, ?_, ?_, ?_, ?_, hout, hmem⟩
  · rw [hcol]
    exact tget_terase_same _ _
  · rw [hcol]
    dsimp only
    rw [tgetD_tmod_same]
    rfl
  · rw [hcol]
    dsimp only
    rw [tgetD_tmod_same]
    rfl
  · rw [hcol]
    rfl

end

end Sys2Proof.Machine
end

section
/-! PROOFS. Deadlines of reductions and of partial messages (R476, R477; O37). -/
namespace Sys2Proof.Machine

/-- What closing a reduction leaves: it is closed, its descriptor, the contributions sent and the tiles are kept. -/
theorem State.closeRed_reductions (s : State) (die g : Nat) (d : RedDesc) :
    (s.closeRed die g d).til = s.til ∧
    (s.closeRed die g d).col.reductions =
      (s.modRed (redKey die g d.reduction) fun x => { x with closed := true }).col.reductions ∧
    (s.closeRed die g d).col.sent = s.col.sent := by
  have hP := updFree_reductions (s.modRed (redKey die g d.reduction) fun x => { x with closed := true })
  unfold State.closeRed
  extract_lets n counts low closed noted short
  refine hP.stageReduction _ _ _ ?_
  unfold short
  split
  · exact hP.record _ _ _ _ _ _
      (hP.noted (State.putReg_noted _ _ _ (State.bump_noted _ _ _ (Noted.refl closed))) ⟨rfl, rfl, rfl⟩)
  · exact ⟨rfl, rfl, rfl⟩

theorem reductionDeadline_closes {s : State} {die g r : Nat} {d : RedDesc} (hrun : s.islandsRun = true)
    (hdesc : s.redDesc die g r = some d) (hown : d.own = true) (hr : d.reduction = r)
    (hst : (s.step_ g).st = .running) (hopen : (s.reduction (redKey die g r)).closed = false) :
    ∃ t, exec (.reductionDeadline die g r) s = .next t ∧ (t.reduction (redKey die g r)).closed = true ∧
      (t.reduction (redKey die g r)).desc = some d ∧ t.col.sent = s.col.sent ∧ t.til = s.til := by
  obtain ⟨htil, hreds, hsent⟩ := s.closeRed_reductions die g d
  have hred : (s.closeRed die g d).reduction (redKey die g r) = { s.reduction (redKey die g r) with closed := true } := by
    rw [State.reduction_of_reductions hreds, hr, State.reduction_modRed_same]
  refine ⟨_, congrArg Host.Outcome.next ((State.onDie_of_islandsRun hrun _).trans ?_), by rw [hred], by rw [hred]; exact hdesc,
    hsent, htil⟩
  unfold State.deadline
  rw [hdesc]
  exact if_pos (by simp [hst, hown, hopen])

theorem partialMessageTimeout_discards {s : State} {p vc dl : Nat} (hrun : s.islandsRun = true)
    (hsome : ∃ f ∈ (s.port p).rx, f.vc = vc ∧ b2n f.dl = dl) :
    ∃ t, exec (.partialMessageTimeout p vc dl) s = .next t ∧
      (t.port p).rx = (s.port p).rx.filter (fun f => !(f.vc == vc && b2n f.dl == dl)) ∧
      (t.port p).replay = (s.port p).replay ∧ (t.port p).st = (s.port p).st ∧ (∀ q, q ≠ p → t.port q = s.port q) ∧
      t.outbox = s.outbox ∧ t.mem = s.mem := by
  obtain ⟨f, hf, hvc, hdl⟩ := hsome
  have hnoted := fun u : State => State.bump_noted .COL_PARTIAL [dieOfPort p] 1 (Noted.refl u)
  have hport : ∀ (u : State) q, (u.bump .COL_PARTIAL [dieOfPort p]).port q = u.port q := fun u q => by
    rw [State.port, (hnoted u).lnk, State.port]
  refine ⟨(s.modPort p fun q => { q with rx := q.rx.filter fun f => !(f.vc == vc && b2n f.dl == dl) }).bump .COL_PARTIAL
    [dieOfPort p], congrArg Host.Outcome.next ((State.onDie_of_islandsRun hrun _).trans ?_), ?_, ?_, ?_, fun q hq => ?_,
    (hnoted _).outbox, (hnoted _).mem⟩
  · unfold State.partialTimeout
    exact if_pos (List.any_eq_true.mpr ⟨f, hf, by simp [hvc, hdl]⟩)
  · rw [hport, State.port_modPort_same]
  · rw [hport, State.port_modPort_same]
  · rw [hport, State.port_modPort_same]
  · rw [hport, State.port_modPort_other _ _ hq]

end Sys2Proof.Machine
end

section
/-! PROOFS. Pieces of parameter broadcasts at a replica (R480, R481; O37). -/
namespace Sys2Proof.Machine

/-! ## Messages and writes of grove memory leave the schedulers -/

section
variable (s : State)

@[simp] theorem State.taskSide_spend (d g a n : Nat) (again : Bool) : (s.spend d g a n again).1.taskSide = s.taskSide := by
  unfold State.spend
  dsimp only
  repeat' split
  · rfl
  · rfl
  · rfl
  · rfl
  · exact State.taskSide_bump ..

@[simp] theorem State.taskSide_sendMsg (die : Nat) (trunk : Bool) (dest opcode grove : Nat) (payload : List Byte)
    (address : Nat) : (s.sendMsg die trunk dest opcode grove payload address).taskSide = s.taskSide := by
  unfold State.sendMsg
  extract_lets vc m r
  have hspend : r.1.taskSide = s.taskSide := s.taskSide_spend ..
  split
  · exact s.taskSide_sendNow m
  · split
    · exact (r.1.taskSide_sendNow m).trans hspend
    · exact hspend

@[simp] theorem State.taskSide_writeVa (g va : Nat) (bs : List Byte) : (s.writeVa g va bs).1.taskSide = s.taskSide := by
  unfold State.writeVa
  split
  · rfl
  · refine State.taskSide_foldl (fun q p => ?_) _ _
    split
    · exact State.taskSide_writeLocal ..
    · rfl

end

/-! ## Passing a piece on -/

/-- What acknowledging a piece and passing it on leave: memory, the schedulers and the pieces received. -/
def State.pieceSide (s : State) : MemState × SchedState × Tbl (Nat × List (Nat × Nat)) := (s.mem, s.sch, s.col.received)

theorem State.pieceSide_sendMsg (s : State) (die : Nat) (trunk : Bool) (dest opcode grove : Nat) (payload : List Byte) :
    (s.sendMsg die trunk dest opcode grove payload).pieceSide = s.pieceSide := by
  have hframe := s.sendFrame_sendMsg die trunk dest opcode grove payload 0
  rw [State.pieceSide, State.mem_of_sendFrame hframe, State.col_of_sendFrame hframe,
    State.sch_of_taskSide (s.taskSide_sendMsg ..), State.pieceSide]

theorem State.pieceSide_request (s : State) (die g k : Nat) (x : SentPiece) :
    ((s.colRequest die g).2.modCol fun c => { c with pieces := tset c.pieces k x }).pieceSide = s.pieceSide := rfl

theorem State.pieceSide_relayPiece (s : State) (die g owner : Nat) (group : List Nat) (p : Piece) :
    (s.relayPiece die g owner group p).pieceSide = s.pieceSide :=
  State.each_keeps (P := fun t => t.pieceSide = s.pieceSide)
    (fun b _ hb => ((State.pieceSide_sendMsg ..).trans (b.pieceSide_request ..)).trans hb) _ rfl

/-- A piece that was new is passed on in the tree of its owner, where that is known. -/
def State.passPiece (s : State) (die g : Nat) (owner : Option Nat) (group : List Nat) (p : Piece) : State :=
  match owner with
  | some owner => s.relayPiece die g owner group p
  | none => s

theorem State.pieceSide_passPiece (s : State) (die g : Nat) (owner : Option Nat) (group : List Nat) (p : Piece) :
    (s.passPiece die g owner group p).pieceSide = s.pieceSide := by
  cases owner with
  | none => rfl
  | some owner => exact s.pieceSide_relayPiece die g owner group p

/-! ## Storing a piece -/

section
variable {s : State} {die g : Nat} {p : Piece} {d : RedDesc} {l : List (Nat × Nat)} (hdie : die < 2)
  (hdesc : s.redDesc die g p.reduction = some d) (hother : s.redDesc (1 - die) g p.reduction = none)
  (hr : d.reduction = p.reduction)

section
include hdie hdesc hother

/-- On a device one of whose dies holds the reduction, that die stores the piece. -/
theorem State.storeHere_single : s.storeHere g p = s.storePiece die g d p := by
  have hkept : ∀ e, (s.storePiece die g d p).redDesc e g p.reduction = s.redDesc e g p.reduction := fun e =>
    congrArg Reduction.desc (State.reduction_of_reductions
      ((updFree_reductions s).storePiece die g d p ⟨rfl, rfl, rfl⟩).2.1 _)
  unfold State.storeHere State.each
  interval_cases die
  · simp only [List.foldl_cons, List.foldl_nil, hdesc, hkept]
    rw [show s.redDesc 1 g p.reduction = none from hother]
  · simp only [List.foldl_cons, List.foldl_nil]
    rw [show s.redDesc 0 g p.reduction = none from hother]
    simp only [hdesc]

theorem State.anyNew_single : ([0, 1].any fun e => match s.redDesc e g p.reduction with
    | some _ => s.pieceNew (redKey e g p.reduction) p
    | none => false) = s.pieceNew (redKey die g p.reduction) p := by
  interval_cases die
  · simp only [List.any_cons, List.any_nil, hdesc]
    rw [show s.redDesc 1 g p.reduction = none from hother]
    simp
  · simp only [List.any_cons, List.any_nil, hdesc]
    rw [show s.redDesc 0 g p.reduction = none from hother]
    simp

/-- A piece of the grove that is not ahead of its step is stored, acknowledged, and passed on where it is new. -/
theorem exec_bcastPieceReceive {o : Origin} (hrun : s.islandsRun = true) (hg : g = o.grove)
    (hgrove : s.groveIs g o.gen = true) (hpast : serialAfter p.step (s.step_ g).step 48 = false) :
    exec (.bcastPieceReceive die o p) s = .next
      (if s.pieceNew (redKey die g p.reduction) p
        then ((s.storePiece die g d p).colAck die o.device g p.request 0).passPiece die g
          (((s.storePiece die g d p).colAck die o.device g p.request 0).pieceOwner g d (s.group g d) p.segment o.device)
          (s.group g d) p
        else (s.storePiece die g d p).colAck die o.device g p.request 0) := by
  subst hg
  refine congrArg Host.Outcome.next ((State.onDie_of_islandsRun hrun _).trans ?_)
  have hany : s.anyDesc die o.grove p.reduction = some d := by
    unfold State.anyDesc
    rw [hdesc]
  unfold State.pieceReceive
  dsimp only
  rw [hgrove, if_neg (by decide), hany]
  dsimp only
  rw [if_neg (by simp [hpast]), State.storeHere_single hdie hdesc hother]
  exact if_congr (iff_of_eq (congrArg (· = true) (State.anyNew_single hdie hdesc hother))) rfl rfl

end

/-! ## A new piece of a replica -/

/-- The state in which a piece of a replica is noted and counted. -/
def State.pieceNoted (s : State) (die k step : Nat) (l : List (Nat × Nat)) : State :=
  (s.modCol fun c => { c with received := tset c.received k (step, l) }).bump .COL_PIECES [die]

theorem State.pieceNoted_frame (s : State) (die k step : Nat) (l : List (Nat × Nat)) :
    (s.pieceNoted die k step l).mem = s.mem ∧ (s.pieceNoted die k step l).sch = s.sch ∧
    tget (s.pieceNoted die k step l).col.received k = some (step, l) := by
  have hnoted := State.bump_noted .COL_PIECES [die] 1
    (Noted.refl (s.modCol fun c => { c with received := tset c.received k (step, l) }))
  refine ⟨hnoted.mem, hnoted.sch, ?_⟩
  unfold State.pieceNoted
  rw [hnoted.col]
  exact tget_tset_same _ _ _

/-- The parameter signal of a replica: one, to its knot. -/
def State.paramSignal (s : State) (d : RedDesc) : State :=
  match (parseEntry d.paramSignal).2 with
  | some w => s.engineSignal w.1 1
  | none => s

theorem State.paramSignal_col (s : State) (d : RedDesc) : (s.paramSignal d).col = s.col := by
  unfold State.paramSignal
  split
  · exact (trafficFree_col s).engineSignal _ _ rfl
  · rfl

/-- A counter with room takes the signal (R135). -/
theorem State.paramSignal_counter {s : State} {d : RedDesc} {k a : Nat} (hentry : (parseEntry d.paramSignal).2 = some (k, a))
    (htype : (s.knot k).type = 1) (hover : (s.knot k).overflow = false) (hfits : (s.knot k).value + 1 ≤ 2 ^ 32 - 1) :
    ((s.paramSignal d).knot k).value = (s.knot k).value + 1 := by
  unfold State.paramSignal
  rw [hentry]
  dsimp only
  rw [State.engineSignal_ok (signalKnot_counter htype hover hfits)]
  have hcounter : ({ s.knot k with value := (s.knot k).value + 1 } : Knot).type ≠ 2 := by
    show (s.knot k).type ≠ 2
    rw [htype]
    decide
  exact (s.knot_judge_modKnot k fun _ => { s.knot k with value := (s.knot k).value + 1 }).value hcounter

theorem State.pieceNew_listed (hreceived : tget s.col.received (redKey die g p.reduction) = some (p.step, l)) :
    s.pieceNew (redKey die g p.reduction) p = decide ((p.segment, p.piece) ∉ l) := by
  have hself : serialAfter p.step p.step 48 = false := by
    have hdiff : (p.step + 2 ^ 48 - p.step % 2 ^ 48) % 2 ^ 48 = 0 := by omega
    unfold serialAfter
    dsimp only
    rw [hdiff]
    rfl
  simp [State.pieceNew, hreceived, hself]

include hr

/-- A piece that a replica's list of the step names is left alone. -/
theorem State.storePiece_listed (hreceived : tget s.col.received (redKey die g p.reduction) = some (p.step, l))
    (hold : (p.segment, p.piece) ∈ l) : s.storePiece die g d p = s := by
  unfold State.storePiece
  rw [hr]
  exact if_pos (by simp [State.pieceNew_listed hreceived, hold])

/-- A piece that is new to a replica is written and noted, and the last one signals. -/
theorem State.storePiece_new {s1 : State} (hreplica : d.replica = true)
    (hreceived : tget s.col.received (redKey die g p.reduction) = some (p.step, l)) (hnew : (p.segment, p.piece) ∉ l)
    (hwrite : s.writeVa g (d.replicaVa + 1536 * p.segment * d.size + 1536 * p.piece) p.data = (s1, .ok)) :
    s.storePiece die g d p =
      if l.length + 1 = d.allPieces
        then (s1.pieceNoted die (redKey die g p.reduction) p.step (l ++ [(p.segment, p.piece)])).paramSignal d
        else s1.pieceNoted die (redKey die g p.reduction) p.step (l ++ [(p.segment, p.piece)]) := by
  unfold State.storePiece
  rw [hr]
  dsimp only
  rw [if_neg (by simp [State.pieceNew_listed hreceived, hnew]), hreceived, hreplica, hwrite]
  dsimp only
  rw [if_neg (by decide), if_neg (by decide)]
  simp only [↓reduceIte, List.length_append, List.length_cons, List.length_nil, Nat.zero_add]
  rfl

end

end Sys2Proof.Machine
end

section
/-! PROOFS. Pieces of parameter broadcasts: received, acknowledged, timed out (R480, R481, R482; O37). -/
namespace Sys2Proof.Machine

section
variable {s s1 : State} {die g : Nat} {o : Origin} {p : Piece} {d : RedDesc} {l : List (Nat × Nat)}
  (hrun : s.islandsRun = true) (hdie : die < 2) (hg : g = o.grove) (hgrove : s.groveIs g o.gen = true)
  (hdesc : s.redDesc die g p.reduction = some d) (hother : s.redDesc (1 - die) g p.reduction = none)
  (hr : d.reduction = p.reduction) (hpast : serialAfter p.step (s.step_ g).step 48 = false)
  (hreceived : tget s.col.received (redKey die g p.reduction) = some (p.step, l))
include hrun hdie hg hgrove hdesc hother hr hpast hreceived

theorem bcastPieceReceive_listed (hold : (p.segment, p.piece) ∈ l) :
    exec (.bcastPieceReceive die o p) s = .next (s.colAck die o.device g p.request 0) := by
  rw [exec_bcastPieceReceive hdie hdesc hother hrun hg hgrove hpast, State.pieceNew_listed hreceived,
    State.storePiece_listed hr hreceived hold, if_neg (by simp [hold])]

omit hr in
/-- A piece that is new to a replica: what is left of the memory, the schedulers and the list is what storing it left. -/
theorem bcastPieceReceive_stored (hnew : (p.segment, p.piece) ∉ l) :
    ∃ t, exec (.bcastPieceReceive die o p) s = .next t ∧ t.pieceSide = (s.storePiece die g d p).pieceSide := by
  refine ⟨_, exec_bcastPieceReceive hdie hdesc hother hrun hg hgrove hpast, ?_⟩
  rw [State.pieceNew_listed hreceived, if_pos (by simp [hnew])]
  exact (State.pieceSide_passPiece ..).trans (State.pieceSide_sendMsg ..)

theorem bcastPieceReceive_new (hreplica : d.replica = true) (hnew : (p.segment, p.piece) ∉ l)
    (hwrite : s.writeVa g (d.replicaVa + 1536 * p.segment * d.size + 1536 * p.piece) p.data = (s1, .ok)) :
    ∃ t, exec (.bcastPieceReceive die o p) s = .next t ∧
      tget t.col.received (redKey die g p.reduction) = some (p.step, l ++ [(p.segment, p.piece)]) ∧
      (l.length + 1 ≠ d.allPieces → t.mem = s1.mem ∧ t.sch = s.sch) ∧
      (∀ k a, l.length + 1 = d.allPieces → (parseEntry d.paramSignal).2 = some (k, a) → (s.knot k).type = 1 →
        (s.knot k).overflow = false → (s.knot k).value + 1 ≤ 2 ^ 32 - 1 → (t.knot k).value = (s.knot k).value + 1) := by
  obtain ⟨t, hexec, hside⟩ := bcastPieceReceive_stored hrun hdie hg hgrove hdesc hother hpast hreceived hnew
  rw [State.storePiece_new hr hreplica hreceived hnew hwrite] at hside
  obtain ⟨hmem, hsch, hlist⟩ := s1.pieceNoted_frame die (redKey die g p.reduction) p.step (l ++ [(p.segment, p.piece)])
  have hwritten : s1.sch = s.sch := by
    have h := State.sch_of_taskSide (s.taskSide_writeVa g (d.replicaVa + 1536 * p.segment * d.size + 1536 * p.piece) p.data)
    rwa [hwrite] at h
  refine ⟨t, hexec, ?_, fun hmore => ?_, fun k a hlast hentry htype hover hfits => ?_⟩
  · rw [show t.col.received = _ from congrArg (·.2.2) hside]
    split
    · exact (congrArg (fun c : CollState => tget c.received _) (State.paramSignal_col _ d)).trans hlist
    · exact hlist
  · rw [if_neg hmore] at hside
    exact ⟨(congrArg (·.1) hside).trans hmem, ((congrArg (·.2.1) hside).trans hsch).trans hwritten⟩
  · rw [if_pos hlast] at hside
    have hknot : ∀ j, (s1.pieceNoted die (redKey die g p.reduction) p.step (l ++ [(p.segment, p.piece)])).knot j = s.knot j :=
      fun j => congrArg (fun x : SchedState => tgetD x.knots j {}) (hsch.trans hwritten)
    have hsignal := State.paramSignal_counter (s := s1.pieceNoted die (redKey die g p.reduction) p.step
      (l ++ [(p.segment, p.piece)])) hentry (by rw [hknot, htype]) (by rw [hknot, hover]) (by rw [hknot]; exact hfits)
    rw [hknot] at hsignal
    have hleft : t.sch = ((s1.pieceNoted die (redKey die g p.reduction) p.step (l ++ [(p.segment, p.piece)])).paramSignal
      d).sch := congrArg (·.2.1) hside
    exact (congrArg (fun x : SchedState => (tgetD x.knots k {}).value) hleft).trans hsignal

end

/-- Abandoning a piece ends it, with its record. -/
theorem State.losePiece_noted (s : State) (die g k : Nat) (x : SentPiece) :
    Noted (s.modCol fun c => { c with pieces := terase c.pieces k }) (s.losePiece die g k x) := by
  unfold State.losePiece State.colRecord
  exact State.record_noted _ _ _ _ _ _ (State.putReg_noted _ _ _ (State.bump_noted _ _ _ (Noted.refl _)))

section
variable {s : State} {die g req : Nat} {o : Origin} {x : SentPiece} (hrun : s.islandsRun = true)
  (hpiece : tget s.col.pieces (reqKey die g req) = some x)
include hrun hpiece

theorem bcastAckReceive_ends (hg : g = o.grove) (hgrove : s.groveIs g o.gen = true) (hchild : x.child = o.device) :
    ∃ t, exec (.bcastAckReceive die o req) s = .next t ∧
      t.col = { s.col with pieces := terase s.col.pieces (reqKey die g req) } ∧ { t with col := s.col } = s := by
  subst hg
  refine ⟨s.modCol fun c => { c with pieces := terase c.pieces (reqKey die o.grove req) },
    congrArg Host.Outcome.next ((State.onDie_of_islandsRun hrun _).trans ?_), rfl, rfl⟩
  unfold State.pieceAck
  dsimp only
  rw [hgrove, if_neg (by decide), hpiece]
  exact if_pos hchild

theorem bcastPieceTimeout_resent (htries : x.tries < 3) :
    ∃ t, exec (.bcastPieceTimeout die g req) s = .next t ∧
      t.col = { s.col with pieces := tset s.col.pieces (reqKey die g req) { x with tries := x.tries + 1 } } ∧
      t.mem = s.mem := by
  have hframe : ∀ u : State, ((u.bump .COL_RETRY [die]).sendMsg die true x.child 0x22 g (piecePayload x.piece)).sendFrame =
      u.sendFrame :=
    fun u => ((u.bump .COL_RETRY [die]).sendFrame_sendMsg ..).trans (u.sendFrame_bump _ _ (by decide))
  refine ⟨_, congrArg Host.Outcome.next ((State.onDie_of_islandsRun hrun _).trans ?_), (State.col_of_sendFrame
    (hframe (s.modCol fun c => { c with pieces := tset c.pieces (reqKey die g req) { x with tries := x.tries + 1 } })) :),
    (State.mem_of_sendFrame (hframe _) :)⟩
  unfold State.pieceTimeout
  dsimp only
  rw [hpiece]
  exact if_pos htries

theorem bcastPieceTimeout_abandoned (htries : 3 ≤ x.tries) :
    ∃ t, exec (.bcastPieceTimeout die g req) s = .next t ∧
      t.col = { s.col with pieces := terase s.col.pieces (reqKey die g req) } ∧ t.mem = s.mem ∧ t.outbox = s.outbox := by
  have hnoted := s.losePiece_noted die g (reqKey die g req) x
  refine ⟨_, congrArg Host.Outcome.next ((State.onDie_of_islandsRun hrun _).trans ?_), (hnoted.col :), (hnoted.mem :),
    (hnoted.outbox :)⟩
  unfold State.pieceTimeout
  dsimp only
  rw [hpiece]
  exact if_neg (by omega)

end

/-! ## Incomplete replicas (R482) -/

theorem State.each_single {α : Type} (s : State) (x : α) (f : State → α → State) : s.each [x] f = f s x := rfl

theorem State.modStep_keeps (s : State) (g : Nat) (f : GroveStep → GroveStep) :
    (s.modStep g f).mem = s.mem ∧ (s.modStep g f).lastRecord = s.lastRecord := ⟨rfl, rfl⟩

section
variable {s : State} {die g : Nat} {d : RedDesc} {n : Nat} {l : List (Nat × Nat)} (hrun : s.islandsRun = true)
  (hreds : s.col.reductions = [(redKey die g d.reduction, { desc := some d })]) (hreplica : d.replica = true)
  (hlt : d.reduction < 4096) (hreceived : tget s.col.received (redKey die g d.reduction) = some (n, l))
include hrun hreds hreplica hlt hreceived

omit hrun in
/-- A single replica that is incomplete is recorded, and its grove withheld from the void barrier. -/
theorem State.bcastTimeout_incomplete (hlack : l.length < d.allPieces) : s.bcastTimeout die g =
    (s.colRecord .contained die 0x0C g d.reduction 0 0).modStep g fun x => { x with withhold := true } := by
  have hkey : redKey die g d.reduction / 4096 = dieGrove die g := by
    unfold redKey
    omega
  unfold State.bcastTimeout
  extract_lets lacking
  have hone : lacking = [d.reduction] := by
    unfold lacking
    rw [hreds]
    simp [hreceived, hkey, hreplica, hlack]
  rw [hone]
  rw [if_neg (by simp), State.each_single]

omit hrun hlt hreplica in
theorem State.bcastTimeout_complete (hfull : d.allPieces ≤ l.length) : s.bcastTimeout die g = s := by
  have hlack : ¬ l.length < d.allPieces := by omega
  unfold State.bcastTimeout
  rw [hreds]
  simp only [List.filterMap_cons, List.filterMap_nil, hreceived, hlack, decide_false, Bool.and_false,
    Bool.false_eq_true, ↓reduceIte, List.isEmpty_nil]

omit hreplica hlt in
theorem bcastCompletionTimeout_complete (hfull : d.allPieces ≤ l.length) :
    exec (.bcastCompletionTimeout die g) s = .next s := by
  exact congrArg Host.Outcome.next
    ((State.onDie_of_islandsRun hrun _).trans (State.bcastTimeout_complete hreds hreceived hfull))

theorem bcastCompletionTimeout_incomplete (hlack : l.length < d.allPieces) (hroom : s.logRoom = true) :
    ∃ (t : State) (r : LogRec), exec (.bcastCompletionTimeout die g) s = .next t ∧ (t.step_ g).withhold = true ∧
      (∀ h, h ≠ g → t.step_ h = s.step_ h) ∧ t.mem = s.mem ∧ t.lastRecord = some r ∧ r.src = .col ∧
      r.sev = .contained ∧ r.code = 0x0C := by
  have hnoted := s.colRecord_noted .contained die 0x0C g d.reduction 0 0
  obtain ⟨r, hlast⟩ := s.colRecord_contained die 0x0C g d.reduction 0 0 hroom
  have hexec : exec (.bcastCompletionTimeout die g) s = .next (s.bcastTimeout die g) :=
    congrArg Host.Outcome.next (State.onDie_of_islandsRun hrun _)
  rw [State.bcastTimeout_incomplete hreds hreplica hlt hreceived hlack] at hexec
  obtain ⟨hmem, hrecord⟩ := (s.colRecord .contained die 0x0C g d.reduction 0 0).modStep_keeps g
    fun x => { x with withhold := true }
  refine ⟨_, r, hexec, ?_, fun h hh => ?_, hmem.trans hnoted.mem, hrecord.trans hlast.1, hlast.2⟩
  · rw [State.step_modStep_same]
  · rw [State.step_modStep_other _ _ hh]
    exact State.step_of_col hnoted.col h

end

/-- Settles O37, clause by clause: the owner's answers, the sender's contribution with its answer and timeouts, the
deadlines, and the pieces of a broadcast. -/
theorem contributions : Obligations.Contributions := by
  unfold Obligations.Contributions
  refine ⟨?_, ?_, ?_, ?_⟩
  case refine_1 =>
    rintro s s1 die own g n o c d x hrun hg hgrove rfl rfl
    refine ⟨fun hkind hown => ⟨fun happlied => ?_, fun hfresh => ⟨?_, ?_, ?_, ?_⟩⟩, fun hkind hown => ?_, ?_⟩
    · exact contributionReceive_repeated hrun hg hgrove hkind hown happlied
    · rintro (⟨hnext, hfirst⟩ | ⟨hstep, hnext, hattempt, hst, hclosed, hfull⟩) happly
      · exact contributionReceive_applied hrun hg hgrove hkind hown hfresh (.inl ⟨hnext, hfirst⟩) happly
          fun hstep => absurd (hnext.symm.trans hstep) (stepSucc_ne _)
      · exact contributionReceive_applied hrun hg hgrove hkind hown hfresh
          (.inr ⟨hstep, hnext, hattempt, hst, hclosed⟩) happly fun _ => hfull
    · exact fun hstep _ hattempt => contributionReceive_stale hrun hg hgrove hkind hown hfresh hstep hattempt
    · exact fun hstep _ hattempt hclosed =>
        contributionReceive_late hrun hg hgrove hkind hown hfresh hstep hattempt hclosed
    · exact fun hstep hnext hpast hroom =>
        contributionReceive_ahead hrun hg hgrove hkind hown hfresh hstep hnext hpast hroom
    · exact contributionReceive_unowned hrun hg hgrove hkind hown
    · rintro a values hkind hfresh hstep hattempt - harea hlo hhi halign rfl hmerge
      exact mergeReceive_added hrun hg hgrove hkind hfresh hstep hattempt harea hlo hhi halign hmerge
  case refine_2 =>
    intro s s1 s2 s3 die g r req d src ob o x status hrun
    refine ⟨contributionSend_posted hrun, contributionAckReceive_ends hrun, fun hsent => ⟨?_, ?_⟩⟩
    · exact contributionTimeout_resent hrun hsent
    · exact contributionTimeout_abandoned hrun hsent
  case refine_3 =>
    intro s die g r p vc dl d hrun
    exact ⟨reductionDeadline_closes hrun, partialMessageTimeout_discards hrun⟩
  case refine_4 =>
    intro s s1 die g req o p d x l hrun hdie hg
    refine ⟨fun hgrove hdesc hother hr hreplica hpast hreceived => ⟨fun hnew hwrite => ?_, fun hold => ?_⟩,
      fun hpiece => ⟨?_, ?_, ?_⟩, fun hreds hreplica hlt hreceived => ⟨?_, ?_⟩⟩
    · exact bcastPieceReceive_new hrun hdie hg hgrove hdesc hother hr hpast hreceived hreplica hnew hwrite
    · exact bcastPieceReceive_listed hrun hdie hg hgrove hdesc hother hr hpast hreceived hold
    · exact bcastAckReceive_ends hrun hpiece hg
    · exact bcastPieceTimeout_resent hrun hpiece
    · exact bcastPieceTimeout_abandoned hrun hpiece
    · exact bcastCompletionTimeout_incomplete hrun hreds hreplica hlt hreceived
    · exact bcastCompletionTimeout_complete hrun hreds hreceived

end Sys2Proof.Machine
end
